-- ==== Sys2Proof/Word.lean ====
section
/-! DEFINITION. The machine's plain words: bytes, 16-bit instruction words, 64-bit and 128-bit values. -/

namespace Sys2Proof

/-- A byte of memory. -/
abbrev Byte := BitVec 8

/-- A 16-bit instruction word (R24). -/
abbrev IWord := BitVec 16

/-- The low 64 bits of a register (R68). -/
abbrev Word := BitVec 64

/-- All 128 bits of a register (R68). -/
abbrev Quad := BitVec 128

/-- One register: 128 bits and a tag (R68). -/
structure Reg where
  val : Quad
  tag : Bool
  deriving DecidableEq, Repr

/-- The untagged zero, which is also what a register never written holds (R10). -/
def Reg.zero : Reg := ⟨0, false⟩

/-- An integer result: bits 63:0, the rest and the tag clear (R68, R92). -/
def Reg.ofWord (w : Word) : Reg := ⟨w.setWidth 128, false⟩

/-- Bits 63:0 of a register (R68). -/
def Reg.word (r : Reg) : Word := r.val.setWidth 64

end Sys2Proof
end

