-- ==== Sys2Proof/Syntax.lean ====
section
/-! DEFINITION. The instructions and machine events of the Ottin 960 as syntax: one constructor per row of the
opcode table, with its decoded operands. Rows without an encoding are the machine's own events. -/

namespace Sys2Proof

/-- Stall count, field S of the base word (R24, R42). -/
abbrev Stall := BitVec 2

/-- A register number (R28): 0 to 63, the limit of a file is checked apart (R31). -/
abbrev RegNo := BitVec 6

/-- An immediate after extension (R29); 34 bits hold the widest one. -/
abbrev Imm := BitVec 34

/-- Operands of shape `n` (R30). -/
structure OpN where
  st : Stall
  deriving DecidableEq, Repr

/-- Operands of shape `i` (R30). -/
structure OpI where
  st : Stall
  imm : Imm
  deriving DecidableEq, Repr

/-- Operands of shape `r` (R30). -/
structure OpR where
  st : Stall
  a : RegNo
  deriving DecidableEq, Repr

/-- Operands of shape `ri` (R30). -/
structure OpRI where
  st : Stall
  a : RegNo
  imm : Imm
  deriving DecidableEq, Repr

/-- Operands of shape `rr` where the C field of a PXR is reserved (R28). -/
structure OpRR where
  st : Stall
  a : RegNo
  b : RegNo
  deriving DecidableEq, Repr

/-- Operands of shape `rr` with two sources: `c` is present exactly when a PXR is (R28). -/
structure OpRRC where
  st : Stall
  a : RegNo
  b : RegNo
  c : Option RegNo
  deriving DecidableEq, Repr

/-- Operands of shape `rx` (R30). -/
structure OpRX where
  st : Stall
  a : RegNo
  b : RegNo
  imm : Imm
  deriving DecidableEq, Repr

/-- Operands of shape `rrr` (R30). -/
structure OpRRR where
  st : Stall
  a : RegNo
  b : RegNo
  c : RegNo
  imm : Imm
  deriving DecidableEq, Repr

/-- The memory-class modifier (R32). -/
structure MemMod where
  nt : Bool
  ord : BitVec 2
  scope : BitVec 3
  sx : Bool
  width : BitVec 3
  deriving DecidableEq, Repr

/-- The amo-class modifier (R33) less its operation, which the row names. -/
structure AmoMod where
  w32 : Bool
  ord : BitVec 2
  scope : BitVec 3
  deriving DecidableEq, Repr

/-- The amo-class modifier of an integer `amou`, whose operation is no row of its own (R281). -/
structure AmouMod where
  w32 : Bool
  ord : BitVec 2
  scope : BitVec 3
  op : BitVec 4
  deriving DecidableEq, Repr

/-- The vector-class modifier (R34); rounding code 5 selects the integer table where rule 3 says so. -/
structure VecMod where
  rnd : BitVec 3
  ty : BitVec 3
  zero : Bool
  mask : BitVec 3
  deriving DecidableEq, Repr

/-- The modular modifier (R35). -/
structure ModMod where
  mi : BitVec 2
  ty : BitVec 3
  zero : Bool
  mask : BitVec 3
  deriving DecidableEq, Repr

/-- The fence-path modifier (R36). -/
structure PathMod where
  scope : BitVec 3
  pb : BitVec 3
  pa : BitVec 3
  deriving DecidableEq, Repr

/-- The type of the reduction modifier (R36); its operation is the row. -/
structure RedMod where
  ty : BitVec 3
  deriving DecidableEq, Repr

/-- A message of one to three payload words (R152). -/
structure Message where
  src : BitVec 28
  kind : BitVec 16
  payload : List Reg
  deriving DecidableEq, Repr

/-- A message offered to a target strand (R154, R155); `txn` is meaningful when the sender is on another package. -/
structure Offer where
  target : Nat
  msg : Message
  txn : Nat
  deriving DecidableEq, Repr

/-- A deposit on its way to a strand (R158). -/
structure Deposit where
  target : Nat
  n : Word
  value : Reg
  src : BitVec 28
  txn : Nat
  deriving DecidableEq, Repr

/-- An access to a core's register window (R149, R150): a load when `store` is absent. `core` is the package core
number die·512 + quad·4 + core. -/
structure WindowAccess where
  core : Nat
  offset : Nat
  width : Nat
  store : Option Reg
  deriving DecidableEq, Repr

/-- A write that arrives at a core's memory port from outside the core (R146, R165). -/
structure PadWrite where
  core : Nat
  offset : Nat
  bytes : List Byte
  src : BitVec 28
  path : BitVec 3
  deriving DecidableEq, Repr

/-- A worklist count on its way to a home (R318): `n` items, the smallest key `key`, pushed at die engine `die` by the strand
with the whole sid `sid`. -/
structure WlCount where
  home : Nat
  slot : Nat
  gen : Nat
  die : Nat
  n : Nat
  key : Nat
  sid : Nat
  deriving DecidableEq, Repr

/-- A popped task, named by its home slot (R326); also a task end on its way (R327), of the strand with the whole sid `sid`. -/
structure TaskId where
  pkg : Nat
  home : Nat
  slot : Nat
  gen : Nat
  holder : Nat
  sid : Nat
  deriving DecidableEq, Repr

/-- A follow-on matrix command of a copy (R347, R350). -/
structure FollowOn where
  queue : Nat
  target : Nat
  mmt : Bool
  acc : Nat
  lt : Nat
  rt : Nat
  row0 : Nat
  deriving DecidableEq, Repr

/-- A host access through BAR2 of a function, or through BAR0 (R353, R367): `n` bytes are read, or `bytes` are written. -/
structure HostAccess where
  fn : Nat
  bar0 : Bool
  addr : Nat
  n : Nat
  bytes : List Byte
  deriving DecidableEq, Repr

/-- A flit: 64 bytes of body and the sideband of R397. -/
structure Flit where
  body : List Byte
  seq : BitVec 16
  lcrc : BitVec 16
  cv1 : BitVec 16
  cv0 : BitVec 16
  deriving DecidableEq, Repr

/-- A candidate that a die engine proposes for a pop (R320): key, class and argument, and whether its key is the lowest
that the engine has counted. -/
structure Candidate where
  key : Nat
  cls : Nat
  arg : Reg
  lowest : Bool
  deriving DecidableEq, Repr

/-- The comb-table entry that a combined request names as its source (R414, R416). -/
structure CombTag where
  pkg : Nat
  router : Nat
  stage : Nat
  entry : Nat
  deriving DecidableEq, Repr

/-- A combinable request (R412, R416): a leaf answers to transaction `txn` of strand `src`, a group to the first tag
of `recs`. -/
structure CombReq where
  addr : Nat
  k : Nat
  tenant : BitVec 12
  out : Nat
  total : Word
  win : Nat
  leaves : Nat
  src : BitVec 28
  txn : Nat
  recs : List (CombTag × List Word)
  deriving DecidableEq, Repr

/-- The reply to a combined request as it reaches the router that formed it (R417, R419). -/
structure CombAnswer where
  tag : CombTag
  base : Word
  total : Word
  lost : Bool
  fault : Option (BitVec 8)
  echoLost : Bool
  echoes : List (CombTag × List Word)
  deriving DecidableEq, Repr

/-- What a request asks of the destination's home. The manual gives the packet types (R399) and leaves the operand
layout of types 3, 7, 8, 11 and 12 to the device: this is the model's reading of it. -/
inductive PacketOp where
  | none
  | read (n : Nat)
  | write
  | amo (op : BitVec 4) (k : Nat) (y : Word)
  | amou (op : BitVec 4) (kind : BitVec 2) (k : Nat) (y : Word)
  | cas (k : Nat) (expected new : Word)
  | frd
  | fwr (v : Word)
  | region (loads : List (Nat × Nat)) (guards : List (Nat × List Byte)) (stores : List (Nat × List Byte))
  | agent (slot : Nat) (cap : Reg) (args : List Word)
  | message (m : Message) (target : Nat)
  | deposit (n : Word) (v : Reg) (target : Nat)
  | combine (r : CombReq)
  | comb (a : CombAnswer)
  | tileWrite (sid tile off : Nat)
  | followOn (f : FollowOn)
  | barrier (job scope group term : Nat)
  | wlAsk (inst gen job engine : Nat)
  | wlInfo (k scope : Nat) (spill : Reg) (block : Option Nat)
  | wlCount (c : WlCount)
  | wlAck (c : WlCount)
  | wlEnd (t : TaskId)
  | wlPop (inst gen engine job : Nat) (cand : Option Candidate) (held : Nat)
  | wlCommit (key cls bound redirects : Nat) (arg : Reg)
  | wlQuiescent (redirects : Nat)
  | wlDry (redirects : Nat)
  | wlInterrupted (redirects : Nat)
  | wlCancel (txn : Nat)
  | wlPropose (inst gen engine sid : Nat)
  | wlProposal (cand : Option Candidate)
  | wlTake (inst gen engine sid key : Nat)
  | wlFree (inst gen engine sid : Nat)
  | wlReport (inst gen engine : Nat)
  | wlKeys (inst gen engine : Nat) (keys : List Nat) (rebase : Bool)
  | wlBlock (inst gen block : Nat) (held : Bool)
  | wlCfg (inst gen : Nat) (ctl : Word) (spill : Reg)
  | wlStat (inst gen : Nat)
  | probe
  | probeAnswer
  | peerDown (pkg : Nat)
  | accepted
  | refused
  | notLoaded
  | unreachable
  | fail (code : BitVec 8) (value : Word)
  | failAt (code : BitVec 8) (off : Int)
  | value (v : Word)
  | values (vs : List Word)
  | lost (base total : Word)
  deriving DecidableEq, Repr, Inhabited

/-- A fabric packet (R398, R399): the header fields, the operation and the bytes it carries. `mirrored` marks the two
writes of a mirrored page (R406), of which `mr` names the second. `wrong` are the aligned sectors of the data whose check
value was wrong on arrival (R357). -/
structure Packet where
  dst : Nat
  src : BitVec 28
  ty : Nat
  vc : Nat
  dl : Bool
  dt : Nat
  mr : Bool
  ls : Bool
  mirrored : Bool
  tenant : BitVec 12
  txn : Nat
  tag : Bool
  addr : Nat
  op : PacketOp
  data : List Byte
  wrong : List Nat
  deriving DecidableEq, Repr

/-- A reduction segment of another package as it reaches the root router (R423): the part of one contribution, or of
`ctr` combined ones of which `sid` is the lowest, from byte `seg`. -/
structure RedPacket where
  scope : Nat
  group : Nat
  sid : BitVec 28
  op : BitVec 2
  ty : BitVec 3
  n : Nat
  seg : Nat
  ctr : Nat
  bytes : List Byte
  deriving DecidableEq, Repr

/-- A stored unit that an uncorrectable error strikes (R430). A miscorrected sector has become a codeword of other bytes with
their stored check value (R342). -/
inductive ErrUnit where
  | sector (pa : Nat) (integ : Bool)
  | miscorrected (pa : Nat) (bytes : List Byte) (check : BitVec 16)
  | cached (core line sector : Nat) (integ : Bool)
  | tileUnit (sid tile unit : Nat) (integ : Bool)
  | accRow (sid acc row : Nat) (integ : Bool)
  | routerBuffer (txn : Nat)
  | record (tag : CombTag)
  | requesterMap (tag : CombTag)
  | contribution (scope group : Nat) (check : Bool)
  deriving DecidableEq, Repr

/-- The machine's own events with what each concerns: one constructor per table row without an encoding. Events that
come from outside the modelled package, and those that the machine gives rise to itself, wait in the state's agenda. -/
inductive Event where
  | idle
  /-- R136. -/
  | trapDelivery (sid : Nat)
  /-- R431. -/
  | timerInterrupt (sid : Nat)
  /-- R355. -/
  | scoutLaunch (ring : Nat)
  /-- R370. -/
  | scoutStop (ring : Nat)
  /-- R370. -/
  | scoutConfigurePush (ring : Nat)
  /-- R170. -/
  | deferredStart (quad : Nat)
  /-- R173. -/
  | dispatchRound (quad : Nat)
  /-- R228. -/
  | matrixRowWrite (quad op : Nat)
  /-- R253. -/
  | ixMergeStep (sid : Nat)
  /-- R150. -/
  | registerWindowAccess (w : WindowAccess)
  /-- R146. -/
  | scratchpadWriteArrival (w : PadWrite)
  /-- R155. -/
  | messageAccept (m : Offer)
  /-- R155. -/
  | overflowRefill (sid : Nat)
  /-- R154. -/
  | sendTimeout (sid : Nat)
  /-- R411. -/
  | reofferNotice (sid : Nat)
  /-- R411. -/
  | sendReoffer (sid : Nat)
  /-- R158. -/
  | depositArrival (d : Deposit)
  /-- R164. -/
  | waitWake (sid : Nat)
  /-- R262. -/
  | bwtReturn (sid : Nat)
  /-- R280. -/
  | l2TagParityError (line : Nat)
  /-- R342. -/
  | patrolScrub (channel : Nat)
  /-- R318. -/
  | countApply (c : WlCount)
  /-- R321. -/
  | popCheck (sid : Nat)
  /-- R321. -/
  | dminReport (home slot die : Nat)
  /-- R327. -/
  | taskEndApply (t : TaskId)
  /-- R324. -/
  | popCancel (sid : Nat)
  /-- R324. -/
  | popAnswer (sid : Nat)
  /-- R344. -/
  | nmaRoutine (agent : Nat)
  /-- R349. -/
  | copyCommand (queue : Nat)
  /-- R350. -/
  | followOnIssue (f : FollowOn)
  /-- R351. -/
  | combineWindowClose (quad : Nat)
  /-- R376. -/
  | sliceEnd (colony slot : Nat)
  /-- R142. -/
  | forcedSave (colony : Nat)
  /-- R142. -/
  | loadReissueTimeout (sid : Nat)
  /-- R376. -/
  | colonySaveDone (colony : Nat)
  /-- R375. -/
  | colonyLoad (colony : Nat)
  /-- R379. -/
  | budgetPeriod
  /-- R382. -/
  | operatingPoint (island mhz energy : Nat)
  /-- R385. -/
  | counterFire (owner n : Nat)
  /-- R371. -/
  | ppsEdge
  /-- R372. -/
  | timeOfDayMessage (bytes : List (BitVec 8)) (inWindow : Bool)
  /-- R371. -/
  | ppsLoss
  /-- R363. -/
  | reset
  /-- R359. -/
  | attestationReport
  /-- R361. -/
  | bootRequest
  /-- R372. -/
  | timeStatus
  /-- R353. -/
  | hostWrite (h : HostAccess)
  /-- R353. -/
  | hostRead (h : HostAccess)
  /-- R367. -/
  | hostBarrierWrite (fn offset : Nat)
  /-- R400. -/
  | flitReceive (port : Nat) (f : Flit)
  /-- R401. -/
  | laneFailure (port : Nat)
  /-- R401. -/
  | laneWidthOrder (port lanes : Nat)
  /-- R402. -/
  | portDown (port : Nat)
  /-- R403. -/
  | packetForward (p : Packet)
  /-- R405. -/
  | remoteRequest (p : Packet)
  /-- R404. -/
  | remoteAnswer (p : Packet)
  /-- R406. -/
  | mirrorReport (p : Packet)
  /-- R420. -/
  | requestTimeout (txn : Nat)
  /-- R407. -/
  | probe (src : Nat)
  /-- R407. -/
  | probeTimeout (pkg : Nat)
  /-- R407. -/
  | peerDownNotice (pkg : Nat)
  /-- R414. -/
  | combineHold (router port : Nat) (r : CombReq)
  /-- R414. -/
  | combineDepart (router : Nat) (key : Nat)
  /-- R417. -/
  | combinedAtHome (r : CombReq)
  /-- R417. -/
  | combSplit (a : CombAnswer)
  /-- R423. -/
  | reductionCombine (p : RedPacket)
  /-- R423. -/
  | reductionResultDeliver (scope group : Nat) (cause : BitVec 8) (result : Option (Nat × List Byte))
  /-- R430. -/
  | uncorrectableError (u : ErrUnit)
  /-- R143. -/
  | loadValueReturn (sid : Nat)
  deriving DecidableEq, Repr

/-- One constructor per row of the opcode table. A row that only the control word in a register tells from its
neighbours (`colop` and the like) has no encoding of its own: its operands are those of the word in the strand's
instruction register. A row without an encoding is an event: what it concerns is the state's current `Event`. -/
inductive Instr where
  /-- R42. -/
  | hold (o : OpI)
  /-- R96. -/
  | mov (o : OpRR)
  /-- R94. -/
  | add (o : OpRRC)
  /-- R94. -/
  | sub (o : OpRRC)
  /-- R94. -/
  | and (o : OpRRC)
  /-- R94. -/
  | or (o : OpRRC)
  /-- R94. -/
  | xor (o : OpRRC)
  /-- R94. -/
  | shl (o : OpRRC)
  /-- R94. -/
  | shr (o : OpRRC)
  /-- R94. -/
  | sra (o : OpRRC)
  /-- R94. -/
  | mul (o : OpRRC)
  /-- R97. -/
  | addi (o : OpRI)
  /-- R97. -/
  | movi (o : OpRI)
  /-- R97. -/
  | andi (o : OpRI)
  /-- R97. -/
  | shli (o : OpRI)
  /-- R97. -/
  | shri (o : OpRI)
  /-- R97. -/
  | srai (o : OpRI)
  /-- R94. -/
  | ceq (o : OpRRC)
  /-- R94. -/
  | clt (o : OpRRC)
  /-- R94. -/
  | cltn (o : OpRRC)
  /-- R98. -/
  | sel (o : OpRRR)
  /-- R100. -/
  | ldk (o : OpRI)
  /-- R101. -/
  | bz (o : OpRI)
  /-- R101. -/
  | bnz (o : OpRI)
  /-- R101. -/
  | blt (o : OpRX)
  /-- R101. -/
  | bge (o : OpRX)
  /-- R101. -/
  | bltn (o : OpRX)
  /-- R101. -/
  | bgen (o : OpRX)
  /-- R102. -/
  | j (o : OpI)
  /-- R103. -/
  | jr (o : OpR)
  /-- R102. -/
  | call (o : OpI)
  /-- R103. -/
  | callr (o : OpR)
  /-- R104. -/
  | ret (o : OpN)
  /-- R105. -/
  | enter (o : OpI)
  /-- R106. -/
  | wshr (o : OpI)
  /-- R108. -/
  | ld (o : OpRX) (m : MemMod)
  /-- R108. -/
  | st (o : OpRX) (m : MemMod)
  /-- R110. -/
  | ldc (o : OpRX) (m : MemMod)
  /-- R110. -/
  | stc (o : OpRX) (m : MemMod)
  /-- R111. -/
  | lea (o : OpRRC)
  /-- R112. -/
  | amoAdd (o : OpRRR) (m : AmoMod)
  /-- R112. -/
  | amoAnd (o : OpRRR) (m : AmoMod)
  /-- R112. -/
  | amoOr (o : OpRRR) (m : AmoMod)
  /-- R112. -/
  | amoXor (o : OpRRR) (m : AmoMod)
  /-- R112. -/
  | amoMin (o : OpRRR) (m : AmoMod)
  /-- R112. -/
  | amoMax (o : OpRRR) (m : AmoMod)
  /-- R112. -/
  | amoMinn (o : OpRRR) (m : AmoMod)
  /-- R112. -/
  | amoMaxn (o : OpRRR) (m : AmoMod)
  /-- R112. -/
  | amoSwap (o : OpRRR) (m : AmoMod)
  /-- R113. -/
  | cas (o : OpRRR) (m : MemMod)
  /-- R117. -/
  | frd (o : OpRR) (m : MemMod)
  /-- R118. -/
  | fwr (o : OpRR) (m : MemMod)
  /-- R263. -/
  | arv (o : OpR)
  /-- R263. -/
  | bwt (o : OpR)
  /-- R263. -/
  | ard (o : OpR)
  /-- R162. -/
  | mon (o : OpR)
  /-- R164. -/
  | wait (o : OpN)
  /-- R319. -/
  | push (o : OpRRR)
  /-- R324. -/
  | pop (o : OpRR)
  /-- R265. -/
  | sync (o : OpN) (m : MemMod)
  /-- R154. -/
  | send (o : OpRRR)
  /-- R157. -/
  | recv (o : OpRR)
  /-- R130. -/
  | csrr (o : OpRI)
  /-- R130. -/
  | csrw (o : OpRI)
  /-- R431. -/
  | csrwTimecmp (o : OpRI)
  /-- R156. -/
  | csrwRqovf (o : OpRI)
  /-- R131. -/
  | trap (o : OpI)
  /-- R132. -/
  | uret (o : OpN)
  /-- R115. -/
  | fenceAcq (o : OpN) (m : MemMod)
  /-- R115. -/
  | fenceRel (o : OpN) (m : MemMod)
  /-- R115. -/
  | fenceAr (o : OpN) (m : MemMod)
  /-- R133. -/
  | brk (o : OpI)
  /-- R95. -/
  | div (o : OpRRC)
  /-- R95. -/
  | divn (o : OpRRC)
  /-- R95. -/
  | rem (o : OpRRC)
  /-- R95. -/
  | remn (o : OpRRC)
  /-- R94. -/
  | mulh (o : OpRRC)
  /-- R94. -/
  | mulhn (o : OpRRC)
  /-- R96. -/
  | clz (o : OpRR)
  /-- R96. -/
  | ctz (o : OpRR)
  /-- R96. -/
  | popc (o : OpRR)
  /-- R96. -/
  | bswap (o : OpRR)
  /-- R94. -/
  | rot (o : OpRRC)
  /-- R99. -/
  | bext (o : OpRX)
  /-- R99. -/
  | bins (o : OpRX)
  /-- R94. -/
  | min (o : OpRRC)
  /-- R94. -/
  | max (o : OpRRC)
  /-- R94. -/
  | minn (o : OpRRC)
  /-- R94. -/
  | maxn (o : OpRRC)
  /-- R121. -/
  | fadd (o : OpRRC) (m : VecMod)
  /-- R121. -/
  | fsub (o : OpRRC) (m : VecMod)
  /-- R121. -/
  | fmul (o : OpRRC) (m : VecMod)
  /-- R121. -/
  | fdiv (o : OpRRC) (m : VecMod)
  /-- R121. -/
  | fsqrt (o : OpRR) (m : VecMod)
  /-- R121. -/
  | fma (o : OpRRR) (m : VecMod)
  /-- R122. -/
  | fmin (o : OpRRC) (m : VecMod)
  /-- R122. -/
  | fmax (o : OpRRC) (m : VecMod)
  /-- R123. -/
  | fceq (o : OpRRC) (m : VecMod)
  /-- R123. -/
  | fclt (o : OpRRC) (m : VecMod)
  /-- R123. -/
  | fcle (o : OpRRC) (m : VecMod)
  /-- R125. -/
  | fcvt (o : OpRX) (m : VecMod)
  /-- R125. -/
  | fcvti (o : OpRX) (m : VecMod)
  /-- R125. -/
  | icvtf (o : OpRX) (m : VecMod)
  /-- R124. -/
  | fclass (o : OpRR) (m : VecMod)
  /-- R126. -/
  | cbase (o : OpRR)
  /-- R126. -/
  | clen (o : OpRR)
  /-- R126. -/
  | cperm (o : OpRR)
  /-- R128. -/
  | cbound (o : OpRRC)
  /-- R127. -/
  | crestr (o : OpRRC)
  /-- R126. -/
  | ctid (o : OpRR)
  /-- R127. -/
  | cclr (o : OpR)
  /-- R129. -/
  | cmint (o : OpRRR)
  /-- R126. -/
  | csub (o : OpRRC)
  /-- R389. -/
  | sret (o : OpN)
  /-- R389. -/
  | hret (o : OpN)
  /-- R390. -/
  | wfi (o : OpN)
  /-- R391. -/
  | ctxs (o : OpR)
  /-- R391. -/
  | ctxr (o : OpR)
  /-- R126. -/
  | cgtag (o : OpRR)
  /-- R182. -/
  | vclaim (o : OpRR)
  /-- R184. -/
  | vsetl (o : OpRR) (m : VecMod)
  /-- R189. -/
  | vld (o : OpRX) (m : VecMod)
  /-- R189. -/
  | vst (o : OpRX) (m : VecMod)
  /-- R189. -/
  | vlds (o : OpRRR) (m : VecMod)
  /-- R189. -/
  | vsts (o : OpRRR) (m : VecMod)
  /-- R189. -/
  | vgat (o : OpRRR) (m : VecMod)
  /-- R189. -/
  | vsca (o : OpRRR) (m : VecMod)
  /-- R190. -/
  | vscac (o : OpRRR) (m : VecMod)
  /-- R192. -/
  | vconf (o : OpRR) (m : VecMod)
  /-- R191. -/
  | vldl (o : OpRX) (m : VecMod)
  /-- R191. -/
  | vstl (o : OpRX) (m : VecMod)
  /-- R193. -/
  | vadd (o : OpRRC) (m : VecMod)
  /-- R193. -/
  | vsub (o : OpRRC) (m : VecMod)
  /-- R193. -/
  | vmul (o : OpRRC) (m : VecMod)
  /-- R194. -/
  | vfma (o : OpRRR) (m : VecMod)
  /-- R193. -/
  | vmin (o : OpRRC) (m : VecMod)
  /-- R193. -/
  | vmax (o : OpRRC) (m : VecMod)
  /-- R193. -/
  | vand (o : OpRRC) (m : VecMod)
  /-- R193. -/
  | vor (o : OpRRC) (m : VecMod)
  /-- R193. -/
  | vxor (o : OpRRC) (m : VecMod)
  /-- R193. -/
  | vshl (o : OpRRC) (m : VecMod)
  /-- R193. -/
  | vshr (o : OpRRC) (m : VecMod)
  /-- R193. -/
  | vsra (o : OpRRC) (m : VecMod)
  /-- R195. -/
  | vceq (o : OpRRC) (m : VecMod)
  /-- R195. -/
  | vclt (o : OpRRC) (m : VecMod)
  /-- R195. -/
  | vcle (o : OpRRC) (m : VecMod)
  /-- R196. -/
  | vsel (o : OpRRR) (m : VecMod)
  /-- R198. -/
  | vbc (o : OpRR) (m : VecMod)
  /-- R198. -/
  | vxt (o : OpRRR) (m : VecMod)
  /-- R201. -/
  | vredSum (o : OpRR) (m : VecMod)
  /-- R201. -/
  | vredMin (o : OpRR) (m : VecMod)
  /-- R201. -/
  | vredMax (o : OpRR) (m : VecMod)
  /-- R201. -/
  | vredAnd (o : OpRR) (m : VecMod)
  /-- R201. -/
  | vredOr (o : OpRR) (m : VecMod)
  /-- R201. -/
  | vredXor (o : OpRR) (m : VecMod)
  /-- R202. -/
  | vscanSum (o : OpRR) (m : VecMod)
  /-- R202. -/
  | vscanMin (o : OpRR) (m : VecMod)
  /-- R202. -/
  | vscanMax (o : OpRR) (m : VecMod)
  /-- R202. -/
  | vscanAnd (o : OpRR) (m : VecMod)
  /-- R202. -/
  | vscanOr (o : OpRR) (m : VecMod)
  /-- R202. -/
  | vscanXor (o : OpRR) (m : VecMod)
  /-- R203. -/
  | vcvt (o : OpRX) (m : VecMod)
  /-- R204. -/
  | vexp2 (o : OpRR) (m : VecMod)
  /-- R204. -/
  | vlog2 (o : OpRR) (m : VecMod)
  /-- R204. -/
  | vrcp (o : OpRR) (m : VecMod)
  /-- R204. -/
  | vrsq (o : OpRR) (m : VecMod)
  /-- R199. -/
  | vperm (o : OpRRR) (m : VecMod)
  /-- R200. -/
  | vcmpz (o : OpRR) (m : VecMod)
  /-- R200. -/
  | vxpd (o : OpRR) (m : VecMod)
  /-- R185. -/
  | vseed (o : OpRR)
  /-- R197. -/
  | kand (o : OpRRC)
  /-- R197. -/
  | kor (o : OpRRC)
  /-- R197. -/
  | kpop (o : OpRR)
  /-- R197. -/
  | kfirst (o : OpRR)
  /-- R210. -/
  | mqld (o : OpRR) (m : ModMod)
  /-- R210. -/
  | mcld (o : OpRR) (m : ModMod)
  /-- R211. -/
  | mqget (o : OpRR) (m : ModMod)
  /-- R212. -/
  | vmadd (o : OpRRC) (m : ModMod)
  /-- R212. -/
  | vmsub (o : OpRRC) (m : ModMod)
  /-- R212. -/
  | vmmul (o : OpRRC) (m : ModMod)
  /-- R212. -/
  | vmmac (o : OpRRR) (m : ModMod)
  /-- R213. -/
  | vmbf (o : OpRRR) (m : ModMod)
  /-- R213. -/
  | vmibf (o : OpRRR) (m : ModMod)
  /-- R215. -/
  | vbfxGather (o : OpRX) (m : ModMod)
  /-- R215. -/
  | vbfxScatter (o : OpRX) (m : ModMod)
  /-- R216. -/
  | vbrev (o : OpRR) (m : ModMod)
  /-- R212. -/
  | vmred (o : OpRR) (m : ModMod)
  /-- R212. -/
  | vmwide (o : OpRRC) (m : ModMod)
  /-- R234. -/
  | tcfg (o : OpRR)
  /-- R234. -/
  | tdesc (o : OpRR)
  /-- R236. -/
  | tld (o : OpRX) (m : MemMod)
  /-- R236. -/
  | tst (o : OpRX) (m : MemMod)
  /-- R235. -/
  | tzero (o : OpR)
  /-- R237. -/
  | mma (o : OpRRR)
  /-- R244. -/
  | mmag (o : OpRRR)
  /-- R241. -/
  | mmcsr (o : OpRRR)
  /-- R242. -/
  | mmbsr (o : OpRRR)
  /-- R237. -/
  | mmt (o : OpRRR)
  /-- R248. -/
  | accrd (o : OpRRR) (m : VecMod)
  /-- R249. -/
  | accwm (o : OpRR)
  /-- R249. -/
  | accz (o : OpR)
  /-- R235. -/
  | ttr (o : OpRR)
  /-- R252. -/
  | ixs (o : OpRR)
  /-- R254. -/
  | ixget (o : OpRRR)
  /-- R255. -/
  | ixst (o : OpRR)
  /-- R285. -/
  | lra (o : OpRX) (m : MemMod)
  /-- R286. -/
  | lrl (o : OpRX) (m : MemMod)
  /-- R286. -/
  | lrs (o : OpRX) (m : MemMod)
  /-- R286. -/
  | lrg (o : OpRX) (m : MemMod)
  /-- R287. -/
  | lrc (o : OpN) (m : MemMod)
  /-- R281. -/
  | amouInteger (o : OpRRR) (m : AmouMod)
  /-- R281. -/
  | amouF32 (o : OpRRR) (m : AmoMod)
  /-- R281. -/
  | amouF64 (o : OpRRR) (m : AmoMod)
  /-- R413. -/
  | amof (o : OpRRR) (m : AmoMod)
  /-- R346. -/
  | nma (o : OpRRR)
  /-- R290. -/
  | pf (o : OpRX) (m : MemMod)
  /-- R290. -/
  | wb (o : OpRX) (m : MemMod)
  /-- R290. -/
  | inv (o : OpRX) (m : MemMod)
  /-- R291. -/
  | fencx (o : OpN) (m : PathMod)
  /-- R159. -/
  | rput (o : OpRRR) (m : MemMod)
  /-- R159. -/
  | rget (o : OpRRR) (m : MemMod)
  /-- R158. -/
  | rdep (o : OpRRR) (m : MemMod)
  /-- R348. -/
  | cpy (o : OpRR)
  /-- R352. -/
  | cpyw (o : OpRR)
  /-- R422. -/
  | nredSum (o : OpRRR) (m : RedMod)
  /-- R422. -/
  | nredMin (o : OpRRR) (m : RedMod)
  /-- R422. -/
  | nredMax (o : OpRRR) (m : RedMod)
  /-- R425. -/
  | nredMerge2 (o : OpRRR)
  /-- R427. -/
  | nredw (o : OpRR)
  /-- R264. -/
  | bmem (o : OpRRC)
  /-- R333. -/
  | wlnew (o : OpR)
  /-- R334. -/
  | wlcfgConfigure (o : OpRRR)
  /-- R335. -/
  | wlst (o : OpRR)
  /-- R386. -/
  | ctrsel (o : OpRR)
  /-- R386. -/
  | ctrrd (o : OpRR)
  /-- R386. -/
  | ctrarmArm (o : OpRRR)
  /-- R328. -/
  | yield (o : OpRR)
  /-- R366. -/
  | colopConfigure (o : OpRR)
  /-- R368. -/
  | ringcfgBind (o : OpRRR)
  /-- R381. -/
  | bdgtRead (o : OpRR)
  /-- R374. -/
  | tslotEntry (o : OpRR)
  /-- R388. -/
  | dlogStatus (o : OpRR)
  /-- R345. -/
  | nmld (o : OpRRC)
  /-- R296. -/
  | tinvPage (o : OpRR)
  /-- R334. -/
  | wlcfgFree
  /-- R386. -/
  | ctrarmDisarm
  /-- R366. -/
  | colopRead
  /-- R365. -/
  | colopSplit
  /-- R365. -/
  | colopMerge
  /-- R366. -/
  | colopRemove
  /-- R376. -/
  | colopHold
  /-- R366. -/
  | colopRelease
  /-- R377. -/
  | colopAdopt
  /-- R144. -/
  | colopDebug
  /-- R144. -/
  | colopHalt
  /-- R144. -/
  | colopResume
  /-- R144. -/
  | colopPeek
  /-- R144. -/
  | colopPoke
  /-- R279. -/
  | colopColour
  /-- R292. -/
  | colopRoot
  /-- R366. -/
  | colopControl
  /-- R366. -/
  | colopJob
  /-- R410. -/
  | colopMulticast
  /-- R368. -/
  | ringcfgUnbind
  /-- R381. -/
  | bdgtWrite
  /-- R373. -/
  | tslotControl
  /-- R388. -/
  | dlogStart
  /-- R388. -/
  | dlogStop
  /-- R388. -/
  | dlogLeaveBitmap
  /-- R296. -/
  | tinvTenant
  /-- R296. -/
  | tinvAll
  /-- R183. Its only field, the stall count, is read from the instruction register. -/
  | vrel
  /-- R327. Its only field, the stall count, is read from the instruction register. -/
  | wldone
  /-- R136. -/
  | trapDelivery
  /-- R431. -/
  | timerInterrupt
  /-- R355. -/
  | scoutLaunch
  /-- R370. -/
  | scoutStop
  /-- R370. -/
  | scoutConfigurePush
  /-- R170. -/
  | deferredStart
  /-- R173. -/
  | dispatchRound
  /-- R228. -/
  | matrixRowWrite
  /-- R253. -/
  | ixMergeStep
  /-- R150. -/
  | registerWindowAccess
  /-- R146. -/
  | scratchpadWriteArrival
  /-- R155. -/
  | messageAccept
  /-- R155. -/
  | overflowRefill
  /-- R154. -/
  | sendTimeout
  /-- R411. -/
  | reofferNotice
  /-- R411. -/
  | sendReoffer
  /-- R158. -/
  | depositArrival
  /-- R164. -/
  | waitWake
  /-- R262. -/
  | bwtReturn
  /-- R280. -/
  | l2TagParityError
  /-- R342. -/
  | patrolScrub
  /-- R318. -/
  | countApply
  /-- R321. -/
  | popCheck
  /-- R321. -/
  | dminReport
  /-- R327. -/
  | taskEndApply
  /-- R324. -/
  | popCancel
  /-- R324. -/
  | popAnswer
  /-- R344. -/
  | nmaRoutine
  /-- R349. -/
  | copyCommand
  /-- R350. -/
  | followOnIssue
  /-- R351. -/
  | combineWindowClose
  /-- R376. -/
  | sliceEnd
  /-- R142. -/
  | forcedSave
  /-- R142. -/
  | loadReissueTimeout
  /-- R376. -/
  | colonySaveDone
  /-- R375. -/
  | colonyLoad
  /-- R379. -/
  | budgetPeriod
  /-- R382. -/
  | operatingPoint
  /-- R385. -/
  | counterFire
  /-- R371. -/
  | ppsEdge
  /-- R372. -/
  | timeOfDayMessage
  /-- R371. -/
  | ppsLoss
  /-- R363. -/
  | reset
  /-- R359. -/
  | attestationReport
  /-- R361. -/
  | bootRequest
  /-- R372. -/
  | timeStatus
  /-- R353. -/
  | hostWrite
  /-- R353. -/
  | hostRead
  /-- R367. -/
  | hostBarrierWrite
  /-- R400. -/
  | flitReceive
  /-- R401. -/
  | laneFailure
  /-- R401. -/
  | laneWidthOrder
  /-- R402. -/
  | portDown
  /-- R403. -/
  | packetForward
  /-- R405. -/
  | remoteRequest
  /-- R404. -/
  | remoteAnswer
  /-- R406. -/
  | mirrorReport
  /-- R420. -/
  | requestTimeout
  /-- R407. -/
  | probe
  /-- R407. -/
  | probeTimeout
  /-- R407. -/
  | peerDownNotice
  /-- R414. -/
  | combineHold
  /-- R414. -/
  | combineDepart
  /-- R417. -/
  | combinedAtHome
  /-- R417. -/
  | combSplit
  /-- R423. -/
  | reductionCombine
  /-- R423. -/
  | reductionResultDeliver
  /-- R430. -/
  | uncorrectableError
  /-- R143. -/
  | loadValueReturn
  deriving DecidableEq, Repr

/-- The table row of an event; `idle` is none. -/
def Event.row : Event → Option Instr
  | .idle => none
  | .trapDelivery .. => some .trapDelivery
  | .timerInterrupt .. => some .timerInterrupt
  | .scoutLaunch .. => some .scoutLaunch
  | .scoutStop .. => some .scoutStop
  | .scoutConfigurePush .. => some .scoutConfigurePush
  | .deferredStart .. => some .deferredStart
  | .dispatchRound .. => some .dispatchRound
  | .matrixRowWrite .. => some .matrixRowWrite
  | .ixMergeStep .. => some .ixMergeStep
  | .registerWindowAccess .. => some .registerWindowAccess
  | .scratchpadWriteArrival .. => some .scratchpadWriteArrival
  | .messageAccept .. => some .messageAccept
  | .overflowRefill .. => some .overflowRefill
  | .sendTimeout .. => some .sendTimeout
  | .reofferNotice .. => some .reofferNotice
  | .sendReoffer .. => some .sendReoffer
  | .depositArrival .. => some .depositArrival
  | .waitWake .. => some .waitWake
  | .bwtReturn .. => some .bwtReturn
  | .l2TagParityError .. => some .l2TagParityError
  | .patrolScrub .. => some .patrolScrub
  | .countApply .. => some .countApply
  | .popCheck .. => some .popCheck
  | .dminReport .. => some .dminReport
  | .taskEndApply .. => some .taskEndApply
  | .popCancel .. => some .popCancel
  | .popAnswer .. => some .popAnswer
  | .nmaRoutine .. => some .nmaRoutine
  | .copyCommand .. => some .copyCommand
  | .followOnIssue .. => some .followOnIssue
  | .combineWindowClose .. => some .combineWindowClose
  | .sliceEnd .. => some .sliceEnd
  | .forcedSave .. => some .forcedSave
  | .loadReissueTimeout .. => some .loadReissueTimeout
  | .colonySaveDone .. => some .colonySaveDone
  | .colonyLoad .. => some .colonyLoad
  | .budgetPeriod .. => some .budgetPeriod
  | .operatingPoint .. => some .operatingPoint
  | .counterFire .. => some .counterFire
  | .ppsEdge .. => some .ppsEdge
  | .timeOfDayMessage .. => some .timeOfDayMessage
  | .ppsLoss .. => some .ppsLoss
  | .reset .. => some .reset
  | .attestationReport .. => some .attestationReport
  | .bootRequest .. => some .bootRequest
  | .timeStatus .. => some .timeStatus
  | .hostWrite .. => some .hostWrite
  | .hostRead .. => some .hostRead
  | .hostBarrierWrite .. => some .hostBarrierWrite
  | .flitReceive .. => some .flitReceive
  | .laneFailure .. => some .laneFailure
  | .laneWidthOrder .. => some .laneWidthOrder
  | .portDown .. => some .portDown
  | .packetForward .. => some .packetForward
  | .remoteRequest .. => some .remoteRequest
  | .remoteAnswer .. => some .remoteAnswer
  | .mirrorReport .. => some .mirrorReport
  | .requestTimeout .. => some .requestTimeout
  | .probe .. => some .probe
  | .probeTimeout .. => some .probeTimeout
  | .peerDownNotice .. => some .peerDownNotice
  | .combineHold .. => some .combineHold
  | .combineDepart .. => some .combineDepart
  | .combinedAtHome .. => some .combinedAtHome
  | .combSplit .. => some .combSplit
  | .reductionCombine .. => some .reductionCombine
  | .reductionResultDeliver .. => some .reductionResultDeliver
  | .uncorrectableError .. => some .uncorrectableError
  | .loadValueReturn .. => some .loadValueReturn

end Sys2Proof
end

