-- ==== Sys2Proof/WellFormed.lean ====
section
/-! DEFINITION. Which instruction terms have an encoding at all: register numbers inside their file (R31), immediates
that the prefixes can carry (R29), and two-operand forms only where no register needs a PXR (R28). What the manual
declares illegal beyond that is `legal` of Decode. -/

namespace Sys2Proof

/-- A register number inside a file of `n` registers (R31). -/
def below (r : RegNo) (n : Nat) : Bool := r.toNat < n

/-- The same for an optional third register. -/
def below? (r : Option RegNo) (n : Nat) : Bool :=
  match r with
  | none => true
  | some c => below c n

/-- Without a PXR only registers 0 to 15 can be named (R28). -/
def OpRRC.wf (o : OpRRC) : Bool := o.c.isSome || (below o.a 16 && below o.b 16)

/-- A signed immediate of at most three PXI words and no base bits (R29). -/
def fitsSigned30 (i : Imm) : Bool := (i.setWidth 30).signExtend 34 == i

/-- An unsigned immediate of at most three PXI words and no base bits (R29). -/
def fitsUnsigned30 (i : Imm) : Bool := (i.setWidth 30).setWidth 34 == i

def OpRX.wfS (o : OpRX) : Bool := fitsSigned30 o.imm
def OpRX.wfU (o : OpRX) : Bool := fitsUnsigned30 o.imm
def OpRRR.wfS (o : OpRRR) : Bool := fitsSigned30 o.imm
def OpRRR.wfU (o : OpRRR) : Bool := fitsUnsigned30 o.imm

/-- A memory-class modifier whose width bits are reserved; the width reads as 64 bits (R32). -/
def MemMod.noWidth (m : MemMod) : Bool := !m.sx && m.width = 3

/-- CSR numbers whose writes are rows of their own: `timecmp` and `rqovf` (R87). -/
def csrTimecmp : Imm := 0x00B
def csrRqovf : Imm := 0x068

/-- Well-formedness of an instruction term. Rows without an encoding of their own are well-formed as they stand. -/
def Instr.wf : Instr → Bool
  | .hold _ => true
  | .mov _ => true
  | .add o => o.wf
  | .sub o => o.wf
  | .and o => o.wf
  | .or o => o.wf
  | .xor o => o.wf
  | .shl o => o.wf
  | .shr o => o.wf
  | .sra o => o.wf
  | .mul o => o.wf
  | .addi _ => true
  | .movi _ => true
  | .andi _ => true
  | .shli _ => true
  | .shri _ => true
  | .srai _ => true
  | .ceq o => o.wf
  | .clt o => o.wf
  | .cltn o => o.wf
  | .sel o => o.wfU
  | .ldk _ => true
  | .bz _ => true
  | .bnz _ => true
  | .blt o => o.wfS
  | .bge o => o.wfS
  | .bltn o => o.wfS
  | .bgen o => o.wfS
  | .j _ => true
  | .jr _ => true
  | .call _ => true
  | .callr _ => true
  | .ret _ => true
  | .enter _ => true
  | .wshr _ => true
  | .ld o _ => o.wfS
  | .st o _ => o.wfS
  | .ldc o m => o.wfS && m.noWidth
  | .stc o m => o.wfS && m.noWidth
  | .lea o => o.wf
  | .amoAdd o _ => o.wfS
  | .amoAnd o _ => o.wfS
  | .amoOr o _ => o.wfS
  | .amoXor o _ => o.wfS
  | .amoMin o _ => o.wfS
  | .amoMax o _ => o.wfS
  | .amoMinn o _ => o.wfS
  | .amoMaxn o _ => o.wfS
  | .amoSwap o _ => o.wfS
  | .cas o _ => o.wfS
  | .frd _ _ => true
  | .fwr _ _ => true
  | .arv _ => true
  | .bwt _ => true
  | .ard _ => true
  | .mon _ => true
  | .wait _ => true
  | .push o => o.wfU
  | .pop _ => true
  | .sync _ m => m.noWidth
  | .send o => o.wfU
  | .recv _ => true
  | .csrr _ => true
  | .csrw o => o.imm ≠ csrTimecmp && o.imm ≠ csrRqovf
  | .csrwTimecmp o => o.imm = csrTimecmp
  | .csrwRqovf o => o.imm = csrRqovf
  | .trap _ => true
  | .uret _ => true
  | .fenceAcq _ m => m.noWidth && m.ord = 1
  | .fenceRel _ m => m.noWidth && m.ord = 2
  | .fenceAr _ m => m.noWidth && m.ord = 3
  | .brk _ => true
  | .div o => o.wf
  | .divn o => o.wf
  | .rem o => o.wf
  | .remn o => o.wf
  | .mulh o => o.wf
  | .mulhn o => o.wf
  | .clz _ => true
  | .ctz _ => true
  | .popc _ => true
  | .bswap _ => true
  | .rot o => o.wf
  | .bext o => o.wfU
  | .bins o => o.wfU
  | .min o => o.wf
  | .max o => o.wf
  | .minn o => o.wf
  | .maxn o => o.wf
  | .fadd o _ => o.wf
  | .fsub o _ => o.wf
  | .fmul o _ => o.wf
  | .fdiv o _ => o.wf
  | .fsqrt _ _ => true
  | .fma o _ => o.wfU
  | .fmin o _ => o.wf
  | .fmax o _ => o.wf
  | .fceq o _ => o.wf
  | .fclt o _ => o.wf
  | .fcle o _ => o.wf
  | .fcvt o _ => o.wfU
  | .fcvti o _ => o.wfU
  | .icvtf o _ => o.wfU
  | .fclass _ _ => true
  | .cbase _ => true
  | .clen _ => true
  | .cperm _ => true
  | .cbound o => o.wf
  | .crestr o => o.wf
  | .ctid _ => true
  | .cclr _ => true
  | .cmint o => o.wfU
  | .csub o => o.wf
  | .sret _ => true
  | .hret _ => true
  | .wfi _ => true
  | .ctxs _ => true
  | .ctxr _ => true
  | .cgtag _ => true
  | .vclaim _ => true
  | .vrel => true
  | .vsetl _ _ => true
  | .vld o _ => o.wfS && below o.a 32
  | .vst o _ => o.wfS && below o.a 32
  | .vlds o _ => o.wfS && below o.a 32
  | .vsts o _ => o.wfS && below o.a 32
  | .vgat o _ => o.wfS && below o.a 32 && below o.c 32
  | .vsca o _ => o.wfS && below o.a 32 && below o.c 32
  | .vscac o _ => o.wfS && below o.a 32 && below o.c 32
  | .vconf o _ => below o.a 32 && below o.b 32
  | .vldl o _ => o.wfS && below o.a 32
  | .vstl o _ => o.wfS && below o.a 32
  | .vadd o _ => o.wf && below o.a 32 && below o.b 32 && below? o.c 32
  | .vsub o _ => o.wf && below o.a 32 && below o.b 32 && below? o.c 32
  | .vmul o _ => o.wf && below o.a 32 && below o.b 32 && below? o.c 32
  | .vfma o _ => o.wfU && below o.a 32 && below o.b 32 && below o.c 32
  | .vmin o _ => o.wf && below o.a 32 && below o.b 32 && below? o.c 32
  | .vmax o _ => o.wf && below o.a 32 && below o.b 32 && below? o.c 32
  | .vand o _ => o.wf && below o.a 32 && below o.b 32 && below? o.c 32
  | .vor o _ => o.wf && below o.a 32 && below o.b 32 && below? o.c 32
  | .vxor o _ => o.wf && below o.a 32 && below o.b 32 && below? o.c 32
  | .vshl o _ => o.wf && below o.a 32 && below o.b 32 && below? o.c 32
  | .vshr o _ => o.wf && below o.a 32 && below o.b 32 && below? o.c 32
  | .vsra o _ => o.wf && below o.a 32 && below o.b 32 && below? o.c 32
  | .vceq o _ => o.wf && below o.a 8 && below o.b 32 && below? o.c 32
  | .vclt o _ => o.wf && below o.a 8 && below o.b 32 && below? o.c 32
  | .vcle o _ => o.wf && below o.a 8 && below o.b 32 && below? o.c 32
  | .vsel o _ => o.wfU && below o.a 32 && below o.b 32 && below o.c 32
  | .vbc o _ => below o.a 32
  | .vxt o _ => o.wfU && below o.b 32
  | .vredSum o _ => below o.b 32
  | .vredMin o _ => below o.b 32
  | .vredMax o _ => below o.b 32
  | .vredAnd o _ => below o.b 32
  | .vredOr o _ => below o.b 32
  | .vredXor o _ => below o.b 32
  | .vscanSum o _ => below o.a 32 && below o.b 32
  | .vscanMin o _ => below o.a 32 && below o.b 32
  | .vscanMax o _ => below o.a 32 && below o.b 32
  | .vscanAnd o _ => below o.a 32 && below o.b 32
  | .vscanOr o _ => below o.a 32 && below o.b 32
  | .vscanXor o _ => below o.a 32 && below o.b 32
  | .vcvt o _ => o.wfU && below o.a 32 && below o.b 32
  | .vexp2 o _ => below o.a 32 && below o.b 32
  | .vlog2 o _ => below o.a 32 && below o.b 32
  | .vrcp o _ => below o.a 32 && below o.b 32
  | .vrsq o _ => below o.a 32 && below o.b 32
  | .vperm o _ => o.wfU && below o.a 32 && below o.b 32 && below o.c 32
  | .vcmpz o _ => below o.a 32 && below o.b 32
  | .vxpd o _ => below o.a 32 && below o.b 32
  | .vseed o => below o.a 32 && below o.b 32
  | .kand o => o.wf && below o.a 8 && below o.b 8 && below? o.c 8
  | .kor o => o.wf && below o.a 8 && below o.b 8 && below? o.c 8
  | .kpop o => below o.b 8
  | .kfirst o => below o.b 8
  | .mqld o _ => below o.a 4 && below o.b 32
  | .mcld o _ => below o.a 4 && below o.b 32
  | .mqget o _ => below o.a 32
  | .vmadd o _ => o.wf && below o.a 32 && below o.b 32 && below? o.c 32
  | .vmsub o _ => o.wf && below o.a 32 && below o.b 32 && below? o.c 32
  | .vmmul o _ => o.wf && below o.a 32 && below o.b 32 && below? o.c 32
  | .vmmac o _ => o.wfU && below o.a 32 && below o.b 32 && below o.c 32
  | .vmbf o _ => o.wfU && below o.a 32 && below o.b 32 && below o.c 32
  | .vmibf o _ => o.wfU && below o.a 32 && below o.b 32 && below o.c 32
  | .vbfxGather o _ => o.wfU && below o.a 32 && below o.b 32
  | .vbfxScatter o _ => o.wfU && below o.a 32 && below o.b 32
  | .vbrev o _ => below o.a 32 && below o.b 32
  | .vmred o _ => below o.a 32 && below o.b 32
  | .vmwide o _ => o.wf && below o.a 32 && below o.b 32 && below? o.c 32
  | .tcfg o => below o.a 8
  | .tdesc o => below o.b 8
  | .tld o m => o.wfS && below o.a 8 && m.noWidth
  | .tst o m => o.wfS && below o.a 8 && m.noWidth
  | .tzero o => below o.a 8
  | .mma o => o.wfU && below o.a 2 && below o.b 8 && below o.c 8
  | .mmag o => o.wfU && below o.a 2 && below o.b 8
  | .mmcsr o => o.wfU && below o.a 2 && below o.b 8
  | .mmbsr o => o.wfU && below o.a 2 && below o.b 8
  | .mmt o => o.wfU && below o.a 2 && below o.b 8 && below o.c 8
  | .accrd o _ => o.wfU && below o.a 32 && below o.b 2
  | .accwm o => below o.b 2
  | .accz o => below o.a 2
  | .ttr o => below o.a 8 && below o.b 8
  | .ixs _ => true
  | .ixget o => o.wfU && below o.b 32 && below o.c 32
  | .ixst _ => true
  | .lra o _ => o.wfS
  | .lrl o _ => o.wfS
  | .lrs o _ => o.wfS
  | .lrg o _ => o.wfS
  | .lrc _ m => m.noWidth
  | .amouInteger o _ => o.imm = 0
  | .amouF32 o _ => o.imm = 1
  | .amouF64 o _ => o.imm = 2
  | .amof o _ => o.wfU
  | .nma o => o.wfU
  | .pf o m => o.wfS && m.noWidth
  | .wb o m => o.wfS && m.noWidth
  | .inv o m => o.wfS && m.noWidth
  | .fencx _ _ => true
  | .rput o _ => o.wfS
  | .rget o _ => o.wfS
  | .rdep o _ => o.wfU
  | .cpy _ => true
  | .cpyw _ => true
  | .nredSum o _ => o.wfU
  | .nredMin o _ => o.wfU
  | .nredMax o _ => o.wfU
  | .nredMerge2 o => o.wfU
  | .nredw _ => true
  | .bmem o => o.wf
  | .wlnew _ => true
  | .wlcfgConfigure o => o.wfU
  | .wlcfgFree => true
  | .wlst _ => true
  | .ctrsel _ => true
  | .ctrrd _ => true
  | .ctrarmArm o => o.wfU
  | .ctrarmDisarm => true
  | .yield _ => true
  | .colopConfigure _ => true
  | .colopRead => true
  | .colopSplit => true
  | .colopMerge => true
  | .colopRemove => true
  | .colopHold => true
  | .colopRelease => true
  | .colopAdopt => true
  | .colopDebug => true
  | .colopHalt => true
  | .colopResume => true
  | .colopPeek => true
  | .colopPoke => true
  | .colopColour => true
  | .colopRoot => true
  | .colopControl => true
  | .colopJob => true
  | .colopMulticast => true
  | .ringcfgBind o => o.wfU
  | .ringcfgUnbind => true
  | .bdgtRead _ => true
  | .bdgtWrite => true
  | .tslotEntry _ => true
  | .tslotControl => true
  | .dlogStatus _ => true
  | .dlogStart => true
  | .dlogStop => true
  | .dlogLeaveBitmap => true
  | .nmld o => o.wf
  | .tinvPage _ => true
  | .tinvTenant => true
  | .tinvAll => true
  | .wldone => true
  | .trapDelivery => true
  | .timerInterrupt => true
  | .scoutLaunch => true
  | .scoutStop => true
  | .scoutConfigurePush => true
  | .deferredStart => true
  | .dispatchRound => true
  | .matrixRowWrite => true
  | .ixMergeStep => true
  | .registerWindowAccess => true
  | .scratchpadWriteArrival => true
  | .messageAccept => true
  | .overflowRefill => true
  | .sendTimeout => true
  | .reofferNotice => true
  | .sendReoffer => true
  | .depositArrival => true
  | .waitWake => true
  | .bwtReturn => true
  | .l2TagParityError => true
  | .patrolScrub => true
  | .countApply => true
  | .popCheck => true
  | .dminReport => true
  | .taskEndApply => true
  | .popCancel => true
  | .popAnswer => true
  | .nmaRoutine => true
  | .copyCommand => true
  | .followOnIssue => true
  | .combineWindowClose => true
  | .sliceEnd => true
  | .forcedSave => true
  | .loadReissueTimeout => true
  | .colonySaveDone => true
  | .colonyLoad => true
  | .budgetPeriod => true
  | .operatingPoint => true
  | .counterFire => true
  | .ppsEdge => true
  | .timeOfDayMessage => true
  | .ppsLoss => true
  | .reset => true
  | .attestationReport => true
  | .bootRequest => true
  | .timeStatus => true
  | .hostWrite => true
  | .hostRead => true
  | .hostBarrierWrite => true
  | .flitReceive => true
  | .laneFailure => true
  | .laneWidthOrder => true
  | .portDown => true
  | .packetForward => true
  | .remoteRequest => true
  | .remoteAnswer => true
  | .mirrorReport => true
  | .requestTimeout => true
  | .probe => true
  | .probeTimeout => true
  | .peerDownNotice => true
  | .combineHold => true
  | .combineDepart => true
  | .combinedAtHome => true
  | .combSplit => true
  | .reductionCombine => true
  | .reductionResultDeliver => true
  | .uncorrectableError => true
  | .loadValueReturn => true

end Sys2Proof
end

