-- ==== Sys2Proof/Decode.lean ====
section
/-! DEFINITION. Instruction words to instructions and back: the chain of a base word and its PXP, PXR, PXM and PXI
words (R24 to R29), the opcode map (R37), the modifier layouts (R32 to R36), the encodings that decode rejects (R38),
and the encoder. -/

namespace Sys2Proof

/-! ### Words -/

def wordMajor (w : IWord) : Nat := (w.toNat / 256) % 64
def wordS (w : IWord) : Stall := w.extractLsb' 14 2
def wordA (w : IWord) : BitVec 4 := w.extractLsb' 4 4
def wordB (w : IWord) : BitVec 4 := w.extractLsb' 0 4

/-- The payload P9..P0 of a chain word (R26). -/
def wordPayload (w : IWord) : BitVec 10 := w.extractLsb' 14 2 ++ w.extractLsb' 0 8

/-- A word built from its four fields (R24). -/
def mkWord (s : Stall) (major : Nat) (a b : BitVec 4) : IWord := s ++ BitVec.ofNat 6 major ++ a ++ b

/-- A chain word built from its payload (R26). -/
def mkChainWord (major : Nat) (p : BitVec 10) : IWord := p.extractLsb' 8 2 ++ BitVec.ofNat 6 major ++ p.extractLsb' 0 8

/-- Majors 0x3C to 0x3F open or extend a chain on every page (R24). -/
def isChainWord (w : IWord) : Bool := 0x3C ≤ wordMajor w

/-! ### Chains -/

/-- What decode has collected of one instruction. -/
structure Chain where
  page : Option (BitVec 10)
  pxr : Option (BitVec 10)
  pxm : Option (BitVec 10)
  pxi : List (BitVec 10)
  base : IWord
  pos : Nat
  deriving DecidableEq, Repr

/-- Why decode refuses: `pfx` or else `ill`, with the page in force, the position and the offending word (R38, R40). -/
structure DecodeError where
  isPfx : Bool
  page : Nat
  pos : Nat
  word : IWord
  deriving DecidableEq, Repr

/-- The fault value of R40. -/
def DecodeError.value (e : DecodeError) : Word :=
  BitVec.ofNat 64 ((e.page % 1024) * 524288 + (e.pos % 8) * 65536 + e.word.toNat)

/-- The page in force: the PXP payload when it names a page, else page 0 (R26, R40). -/
def pageInForce (p : Option (BitVec 10)) : Nat :=
  match p with
  | none => 0
  | some q => if q.toNat ≤ 6 then q.toNat else 0

/-- Reads words up to the base word, checking the order and number of chain words (R27, R38). `rank` is the major of
the last chain word. `none`: the words end before the instruction does. -/
def readChain : List IWord → (rank : Nat) → Chain → Option (Except DecodeError Chain)
  | [], _, _ => none
  | w :: ws, rank, c =>
    let m := wordMajor w
    let bad : Option (Except DecodeError Chain) := some (.error ⟨true, pageInForce c.page, c.pos, w⟩)
    if m < 0x3C then some (.ok { c with base := w })
    else if 4 ≤ c.pos then bad
    else if m < rank then bad
    else if m = rank ∧ m ≠ 0x3F then bad
    else if m = 0x3F ∧ 3 ≤ c.pxi.length then bad
    else
      let p := wordPayload w
      let c' := { c with pos := c.pos + 1 }
      if m = 0x3C then readChain ws m { c' with page := some p }
      else if m = 0x3D then readChain ws m { c' with pxr := some p }
      else if m = 0x3E then readChain ws m { c' with pxm := some p }
      else readChain ws m { c' with pxi := c.pxi ++ [p] }

def Chain.empty : Chain := ⟨none, none, none, [], 0, 0⟩

/-- How many words decode fetches: up to the first base word, or the fifth chain word (R39). -/
def fetchLength : List IWord → Nat → Nat
  | [], n => n
  | w :: ws, n => if isChainWord w && n < 4 then fetchLength ws (n + 1) else n + 1

/-! ### The opcode map (R37) -/

inductive Shape where
  | n
  | i (signed : Bool)
  | r
  | ri (signed : Bool)
  | rr (three : Bool)
  | rx (signed needsImm : Bool)
  | rrr (signed : Bool)
  deriving DecidableEq, Repr

inductive PxmClass where
  | none | m | a | v | q | f | d
  deriving DecidableEq, Repr

/-- The majors of page 0, from 0 upwards: shape and modifier class. -/
def page0Map : List (Shape × PxmClass) :=
  [(.i false, .none), (.rr false, .none), (.rr true, .none), (.rr true, .none), (.rr true, .none), (.rr true, .none), (.rr true, .none), (.rr true, .none)] ++
  [(.rr true, .none), (.rr true, .none), (.rr true, .none), (.ri true, .none), (.ri true, .none), (.ri true, .none), (.ri false, .none), (.ri false, .none)] ++
  [(.ri false, .none), (.rr true, .none), (.rr true, .none), (.rr true, .none), (.rrr false, .none), (.ri true, .none), (.ri true, .none), (.ri true, .none)] ++
  [(.rx true true, .none), (.rx true true, .none), (.rx true true, .none), (.rx true true, .none), (.i true, .none), (.r, .none), (.i true, .none), (.r, .none)] ++
  [(.n, .none), (.i false, .none), (.i true, .none), (.rx true false, .m), (.rx true false, .m), (.rx true false, .m), (.rx true false, .m), (.rr true, .none)] ++
  [(.rrr true, .a), (.rrr true, .m), (.rr false, .m), (.rr false, .m), (.r, .none), (.r, .none), (.r, .none), (.r, .none)] ++
  [(.n, .none), (.rrr false, .none), (.rr false, .none), (.n, .m), (.rrr false, .none), (.rr false, .none), (.ri false, .none), (.ri false, .none)] ++
  [(.i false, .none), (.n, .none), (.n, .m), (.i false, .none)]

/-- The majors of page 1, from 0 upwards: shape and modifier class. -/
def page1Map : List (Shape × PxmClass) :=
  [(.rr true, .none), (.rr true, .none), (.rr true, .none), (.rr true, .none), (.rr true, .none), (.rr true, .none), (.rr false, .none), (.rr false, .none)] ++
  [(.rr false, .none), (.rr false, .none), (.rr true, .none), (.rx false false, .none), (.rx false false, .none), (.rr true, .none), (.rr true, .none), (.rr true, .none)] ++
  [(.rr true, .none), (.rr true, .v), (.rr true, .v), (.rr true, .v), (.rr true, .v), (.rr false, .v), (.rrr false, .v), (.rr true, .v)] ++
  [(.rr true, .v), (.rr true, .v), (.rr true, .v), (.rr true, .v), (.rx false false, .v), (.rx false false, .v), (.rx false false, .v), (.rr false, .v)] ++
  [(.rr false, .none), (.rr false, .none), (.rr false, .none), (.rr true, .none), (.rr true, .none), (.rr false, .none), (.r, .none), (.rrr false, .none)] ++
  [(.rr true, .none), (.n, .none), (.n, .none), (.n, .none), (.r, .none), (.r, .none), (.rr false, .none)]

/-- The majors of page 2, from 0 upwards: shape and modifier class. -/
def page2Map : List (Shape × PxmClass) :=
  [(.rr false, .none), (.n, .none), (.rr false, .v), (.rx true false, .v), (.rx true false, .v), (.rrr true, .v), (.rrr true, .v), (.rrr true, .v)] ++
  [(.rrr true, .v), (.rrr true, .v), (.rr false, .v), (.rx true false, .v), (.rx true false, .v), (.rr true, .v), (.rr true, .v), (.rr true, .v)] ++
  [(.rrr false, .v), (.rr true, .v), (.rr true, .v), (.rr true, .v), (.rr true, .v), (.rr true, .v), (.rr true, .v), (.rr true, .v)] ++
  [(.rr true, .v), (.rr true, .v), (.rr true, .v), (.rr true, .v), (.rrr false, .v), (.rr false, .v), (.rrr false, .v), (.rr true, .v)] ++
  [(.rr true, .v), (.rx false false, .v), (.rr false, .v), (.rr false, .v), (.rr false, .v), (.rr false, .v), (.rrr false, .v), (.rr false, .v)] ++
  [(.rr false, .v), (.rr false, .none), (.rr true, .none), (.rr true, .none), (.rr false, .none), (.rr false, .none)]

/-- The majors of page 3, from 0 upwards: shape and modifier class. -/
def page3Map : List (Shape × PxmClass) :=
  [(.rr false, .q), (.rr false, .q), (.rr false, .q), (.rr true, .q), (.rr true, .q), (.rr true, .q), (.rrr false, .q), (.rrr false, .q)] ++
  [(.rrr false, .q), (.rx false false, .q), (.rr false, .q), (.rr false, .q), (.rr true, .q)]

/-- The majors of page 4, from 0 upwards: shape and modifier class. -/
def page4Map : List (Shape × PxmClass) :=
  [(.rr false, .none), (.rr false, .none), (.rx true false, .m), (.rx true false, .m), (.r, .none), (.rrr false, .none), (.rrr false, .none), (.rrr false, .none)] ++
  [(.rrr false, .none), (.rrr false, .none), (.rrr false, .v), (.rr false, .none), (.r, .none), (.rr false, .none), (.rr false, .none), (.rrr false, .none)] ++
  [(.rr false, .none)]

/-- The majors of page 5, from 0 upwards: shape and modifier class. -/
def page5Map : List (Shape × PxmClass) :=
  [(.rx true false, .m), (.rx true false, .m), (.rx true false, .m), (.rx true false, .m), (.n, .m), (.rrr false, .a), (.rrr false, .a), (.rrr false, .none)] ++
  [(.rx true false, .m), (.rx true false, .m), (.rx true false, .m), (.n, .f), (.rrr true, .m), (.rrr true, .m), (.rrr false, .m), (.rr false, .none)] ++
  [(.rr false, .none), (.rrr false, .d), (.rr false, .none)]

/-- The majors of page 6, from 0 upwards: shape and modifier class. -/
def page6Map : List (Shape × PxmClass) :=
  [(.rr true, .none), (.r, .none), (.rrr false, .none), (.rr false, .none), (.rr false, .none), (.rr false, .none), (.rrr false, .none), (.rr false, .none)] ++
  [(.rr false, .none), (.rrr false, .none), (.rr false, .none), (.rr false, .none), (.rr false, .none), (.rr true, .none), (.rr false, .none), (.n, .none)]

/-- Shape and class of a major on its page; none when it is unassigned (R37, R38). -/
def opcodeMap (page major : Nat) : Option (Shape × PxmClass) :=
  match page with
  | 0 => page0Map[major]?
  | 1 => page1Map[major]?
  | 2 => page2Map[major]?
  | 3 => page3Map[major]?
  | 4 => page4Map[major]?
  | 5 => page5Map[major]?
  | 6 => page6Map[major]?
  | _ => none

/-! ### Operand fields (R28 to R30) -/

/-- The operand fields of one instruction, after the shape's checks. `c` is present exactly when a PXR is. -/
structure Fields where
  st : Stall
  a : RegNo
  b : RegNo
  c : Option RegNo
  imm : Imm
  pxm : Option (BitVec 10)
  deriving DecidableEq, Repr

/-- The immediate of R29, extended as the shape says: the PXI payloads, most significant first, then the base bits. -/
def assembleImm (signed : Bool) (pxi : List (BitVec 10)) (base : Option (BitVec 4)) : Imm :=
  let hi := pxi.foldl (fun acc p => acc * 1024 + p.toNat) 0
  let (v, w) := match base with
    | none => (hi, 10 * pxi.length)
    | some b => (hi * 16 + b.toNat, 4 + 10 * pxi.length)
  if signed && 2 ^ w ≤ 2 * v then BitVec.ofInt 34 ((v : Int) - (2 ^ w : Nat)) else BitVec.ofNat 34 v

/-- Checks the chain against the shape and class of its major and extracts the fields (R28, R30, R38). -/
def extractFields (sh : Shape) (cl : PxmClass) (c : Chain) : Option Fields :=
  let a4 := wordA c.base
  let b4 := wordB c.base
  let p := c.pxr.getD 0
  let a : RegNo := p.extractLsb' 0 2 ++ a4
  let b : RegNo := p.extractLsb' 2 2 ++ b4
  let cc : RegNo := p.extractLsb' 4 6
  let hasR := c.pxr.isSome
  let hasI := !c.pxi.isEmpty
  let pxmOk := c.pxm.isNone || cl != .none
  let mk (a b : RegNo) (cr : Option RegNo) (imm : Imm) : Option Fields :=
    if pxmOk then some ⟨wordS c.base, a, b, cr, imm, c.pxm⟩ else none
  match sh with
  | .n => if a4 = 0 ∧ b4 = 0 ∧ !hasR ∧ !hasI then mk 0 0 none 0 else none
  | .i sg => if a4 = 0 ∧ !hasR then mk 0 0 none (assembleImm sg c.pxi (some b4)) else none
  | .r => if b4 = 0 ∧ p.extractLsb' 2 8 = 0 ∧ !hasI then mk a 0 none 0 else none
  | .ri sg => if p.extractLsb' 2 8 = 0 then mk a 0 none (assembleImm sg c.pxi (some b4)) else none
  | .rr three =>
    if hasI then none
    else if three then mk a b (if hasR then some cc else none) 0
    else if cc = 0 then mk a b none 0 else none
  | .rx sg needs =>
    if cc = 0 ∧ (!needs || hasI) then mk a b none (assembleImm sg c.pxi none) else none
  | .rrr sg => if hasR then mk a b (some cc) (assembleImm sg c.pxi none) else none

/-! ### Modifiers (R32 to R36) -/

/-- The memory-class modifier, with the defaults of R16 when there is no PXM (R32). -/
def memMod (p : Option (BitVec 10)) : MemMod :=
  match p with
  | none => ⟨false, 0, 1, false, 3⟩
  | some q => ⟨q.getLsbD 9, q.extractLsb' 7 2, q.extractLsb' 4 3, q.getLsbD 3, q.extractLsb' 0 3⟩

/-- The same where P3:0 is reserved (R32): none when one of them is set; the width then reads as 64 bits. -/
def memModNoWidth (p : Option (BitVec 10)) : Option MemMod :=
  match p with
  | none => some ⟨false, 0, 1, false, 3⟩
  | some q => if q.extractLsb' 0 4 = 0 then some ⟨q.getLsbD 9, q.extractLsb' 7 2, q.extractLsb' 4 3, false, 3⟩ else none

/-- The amo-class modifier and its operation code (R33). -/
def amoMod (p : Option (BitVec 10)) : AmoMod × Nat :=
  match p with
  | none => (⟨false, 0, 1⟩, 0)
  | some q => (⟨q.getLsbD 9, q.extractLsb' 7 2, q.extractLsb' 4 3⟩, (q.extractLsb' 0 4).toNat)

/-- The vector-class modifier (R34): `rnd` and `ty` are the major's defaults. -/
def vecMod (rnd ty : BitVec 3) (p : Option (BitVec 10)) : VecMod :=
  match p with
  | none => ⟨rnd, ty, false, 0⟩
  | some q => ⟨q.extractLsb' 7 3, q.extractLsb' 4 3, q.getLsbD 3, q.extractLsb' 0 3⟩

/-- The modular modifier (R35): none when P9 is set. -/
def modMod (p : Option (BitVec 10)) : Option ModMod :=
  match p with
  | none => some ⟨0, 7, false, 0⟩
  | some q => if q.getLsbD 9 then none else some ⟨q.extractLsb' 7 2, q.extractLsb' 4 3, q.getLsbD 3, q.extractLsb' 0 3⟩

/-- The fence-path modifier (R36): none when P9 is set. -/
def pathMod (p : Option (BitVec 10)) : Option PathMod :=
  match p with
  | none => some ⟨1, 7, 7⟩
  | some q => if q.getLsbD 9 then none else some ⟨q.extractLsb' 6 3, q.extractLsb' 3 3, q.extractLsb' 0 3⟩

/-- The reduction modifier and its operation code (R36): none when P9:5 is not zero. -/
def redMod (p : Option (BitVec 10)) : Option (RedMod × Nat) :=
  match p with
  | none => some (⟨1⟩, 0)
  | some q => if q.extractLsb' 5 5 = 0 then some (⟨q.extractLsb' 2 3⟩, (q.extractLsb' 0 2).toNat) else none

def bit (b : Bool) : BitVec 1 := BitVec.ofBool b

def MemMod.bits (m : MemMod) : BitVec 10 := bit m.nt ++ m.ord ++ m.scope ++ bit m.sx ++ m.width
def MemMod.bitsNoWidth (m : MemMod) : BitVec 10 := bit m.nt ++ m.ord ++ m.scope ++ (0 : BitVec 4)
def AmoMod.bits (m : AmoMod) (op : Nat) : BitVec 10 := bit m.w32 ++ m.ord ++ m.scope ++ BitVec.ofNat 4 op
def AmouMod.bits (m : AmouMod) : BitVec 10 := bit m.w32 ++ m.ord ++ m.scope ++ m.op
def VecMod.bits (m : VecMod) : BitVec 10 := m.rnd ++ m.ty ++ bit m.zero ++ m.mask
def ModMod.bits (m : ModMod) : BitVec 10 := (0 : BitVec 1) ++ m.mi ++ m.ty ++ bit m.zero ++ m.mask
def PathMod.bits (m : PathMod) : BitVec 10 := (0 : BitVec 1) ++ m.scope ++ m.pb ++ m.pa
def RedMod.bits (m : RedMod) (op : Nat) : BitVec 10 := (0 : BitVec 5) ++ m.ty ++ BitVec.ofNat 2 op

/-! ### Fields to an instruction -/

def Fields.opN (f : Fields) : OpN := ⟨f.st⟩
def Fields.opI (f : Fields) : OpI := ⟨f.st, f.imm⟩
def Fields.opR (f : Fields) : OpR := ⟨f.st, f.a⟩
def Fields.opRI (f : Fields) : OpRI := ⟨f.st, f.a, f.imm⟩
def Fields.opRR (f : Fields) : OpRR := ⟨f.st, f.a, f.b⟩
def Fields.opRRC (f : Fields) : OpRRC := ⟨f.st, f.a, f.b, f.c⟩
def Fields.opRX (f : Fields) : OpRX := ⟨f.st, f.a, f.b, f.imm⟩
def Fields.opRRR (f : Fields) : OpRRR := ⟨f.st, f.a, f.b, f.c.getD 0, f.imm⟩

/-- The row of an `amo` by its operation code (R33, R112). -/
def amoRow (f : Fields) (p : AmoMod × Nat) : Option Instr :=
  match p.2 with
  | 0 => some (.amoAdd f.opRRR p.1)
  | 1 => some (.amoAnd f.opRRR p.1)
  | 2 => some (.amoOr f.opRRR p.1)
  | 3 => some (.amoXor f.opRRR p.1)
  | 4 => some (.amoMin f.opRRR p.1)
  | 5 => some (.amoMax f.opRRR p.1)
  | 6 => some (.amoMinn f.opRRR p.1)
  | 7 => some (.amoMaxn f.opRRR p.1)
  | 8 => some (.amoSwap f.opRRR p.1)
  | _ => none

/-- The row of an `amou` by its arithmetic kind (R281). -/
def amouRow (f : Fields) (p : AmoMod × Nat) : Option Instr :=
  match f.imm.toNat with
  | 0 => some (.amouInteger f.opRRR ⟨p.1.w32, p.1.ord, p.1.scope, BitVec.ofNat 4 p.2⟩)
  | 1 => if p.2 = 0 then some (.amouF32 f.opRRR p.1) else none
  | 2 => if p.2 = 0 then some (.amouF64 f.opRRR p.1) else none
  | _ => none

/-- The row of a `vred` by the C field of its PXR (R201). -/
def vredRow (f : Fields) (m : VecMod) : Option Instr :=
  match (f.c.getD 0).toNat with
  | 0 => some (.vredSum f.opRR m)
  | 1 => some (.vredMin f.opRR m)
  | 2 => some (.vredMax f.opRR m)
  | 3 => some (.vredAnd f.opRR m)
  | 4 => some (.vredOr f.opRR m)
  | 5 => some (.vredXor f.opRR m)
  | _ => none

/-- The row of a `vscan` by the C field of its PXR (R202). -/
def vscanRow (f : Fields) (m : VecMod) : Option Instr :=
  match (f.c.getD 0).toNat with
  | 0 => some (.vscanSum f.opRR m)
  | 1 => some (.vscanMin f.opRR m)
  | 2 => some (.vscanMax f.opRR m)
  | 3 => some (.vscanAnd f.opRR m)
  | 4 => some (.vscanOr f.opRR m)
  | 5 => some (.vscanXor f.opRR m)
  | _ => none

/-- The row of an `nred` by its operation code (R36, R422). -/
def nredRow (f : Fields) (p : RedMod × Nat) : Option Instr :=
  match p.2 with
  | 0 => some (.nredSum f.opRRR p.1)
  | 1 => some (.nredMin f.opRRR p.1)
  | 2 => some (.nredMax f.opRRR p.1)
  | _ => if p.1.ty = 4 then some (.nredMerge2 f.opRRR) else none

/-- Instructions of page 0. Where several rows share one encoding, the first stands for all; `selectRow` names the
row from the control word. -/
def build0 (major : Nat) (f : Fields) : Option Instr :=
  match major with
  | 0x00 => some (.hold f.opI)
  | 0x01 => some (.mov f.opRR)
  | 0x02 => some (.add f.opRRC)
  | 0x03 => some (.sub f.opRRC)
  | 0x04 => some (.and f.opRRC)
  | 0x05 => some (.or f.opRRC)
  | 0x06 => some (.xor f.opRRC)
  | 0x07 => some (.shl f.opRRC)
  | 0x08 => some (.shr f.opRRC)
  | 0x09 => some (.sra f.opRRC)
  | 0x0A => some (.mul f.opRRC)
  | 0x0B => some (.addi f.opRI)
  | 0x0C => some (.movi f.opRI)
  | 0x0D => some (.andi f.opRI)
  | 0x0E => some (.shli f.opRI)
  | 0x0F => some (.shri f.opRI)
  | 0x10 => some (.srai f.opRI)
  | 0x11 => some (.ceq f.opRRC)
  | 0x12 => some (.clt f.opRRC)
  | 0x13 => some (.cltn f.opRRC)
  | 0x14 => some (.sel f.opRRR)
  | 0x15 => some (.ldk f.opRI)
  | 0x16 => some (.bz f.opRI)
  | 0x17 => some (.bnz f.opRI)
  | 0x18 => some (.blt f.opRX)
  | 0x19 => some (.bge f.opRX)
  | 0x1A => some (.bltn f.opRX)
  | 0x1B => some (.bgen f.opRX)
  | 0x1C => some (.j f.opI)
  | 0x1D => some (.jr f.opR)
  | 0x1E => some (.call f.opI)
  | 0x1F => some (.callr f.opR)
  | 0x20 => some (.ret f.opN)
  | 0x21 => some (.enter f.opI)
  | 0x22 => some (.wshr f.opI)
  | 0x23 => some (.ld f.opRX (memMod f.pxm))
  | 0x24 => some (.st f.opRX (memMod f.pxm))
  | 0x25 => (memModNoWidth f.pxm).map (.ldc f.opRX)
  | 0x26 => (memModNoWidth f.pxm).map (.stc f.opRX)
  | 0x27 => some (.lea f.opRRC)
  | 0x28 => amoRow f (amoMod f.pxm)
  | 0x29 => some (.cas f.opRRR (memMod f.pxm))
  | 0x2A => some (.frd f.opRR (memMod f.pxm))
  | 0x2B => some (.fwr f.opRR (memMod f.pxm))
  | 0x2C => some (.arv f.opR)
  | 0x2D => some (.bwt f.opR)
  | 0x2E => some (.ard f.opR)
  | 0x2F => some (.mon f.opR)
  | 0x30 => some (.wait f.opN)
  | 0x31 => some (.push f.opRRR)
  | 0x32 => some (.pop f.opRR)
  | 0x33 => (memModNoWidth f.pxm).map (.sync f.opN)
  | 0x34 => some (.send f.opRRR)
  | 0x35 => some (.recv f.opRR)
  | 0x36 => some (.csrr f.opRI)
  | 0x37 => some (if f.imm = csrTimecmp then .csrwTimecmp f.opRI else if f.imm = csrRqovf then .csrwRqovf f.opRI else .csrw f.opRI)
  | 0x38 => some (.trap f.opI)
  | 0x39 => some (.uret f.opN)
  | 0x3A => (memModNoWidth f.pxm).bind (fun m => match m.ord.toNat with
    | 1 => some (.fenceAcq f.opN m) | 2 => some (.fenceRel f.opN m) | 3 => some (.fenceAr f.opN m) | _ => none)
  | 0x3B => some (.brk f.opI)
  | _ => none

/-- Instructions of page 1. Where several rows share one encoding, the first stands for all; `selectRow` names the
row from the control word. -/
def build1 (major : Nat) (f : Fields) : Option Instr :=
  match major with
  | 0x00 => some (.div f.opRRC)
  | 0x01 => some (.divn f.opRRC)
  | 0x02 => some (.rem f.opRRC)
  | 0x03 => some (.remn f.opRRC)
  | 0x04 => some (.mulh f.opRRC)
  | 0x05 => some (.mulhn f.opRRC)
  | 0x06 => some (.clz f.opRR)
  | 0x07 => some (.ctz f.opRR)
  | 0x08 => some (.popc f.opRR)
  | 0x09 => some (.bswap f.opRR)
  | 0x0A => some (.rot f.opRRC)
  | 0x0B => some (.bext f.opRX)
  | 0x0C => some (.bins f.opRX)
  | 0x0D => some (.min f.opRRC)
  | 0x0E => some (.max f.opRRC)
  | 0x0F => some (.minn f.opRRC)
  | 0x10 => some (.maxn f.opRRC)
  | 0x11 => some (.fadd f.opRRC (vecMod 7 3 f.pxm))
  | 0x12 => some (.fsub f.opRRC (vecMod 7 3 f.pxm))
  | 0x13 => some (.fmul f.opRRC (vecMod 7 3 f.pxm))
  | 0x14 => some (.fdiv f.opRRC (vecMod 7 3 f.pxm))
  | 0x15 => some (.fsqrt f.opRR (vecMod 7 3 f.pxm))
  | 0x16 => some (.fma f.opRRR (vecMod 7 3 f.pxm))
  | 0x17 => some (.fmin f.opRRC (vecMod 7 3 f.pxm))
  | 0x18 => some (.fmax f.opRRC (vecMod 7 3 f.pxm))
  | 0x19 => some (.fceq f.opRRC (vecMod 7 3 f.pxm))
  | 0x1A => some (.fclt f.opRRC (vecMod 7 3 f.pxm))
  | 0x1B => some (.fcle f.opRRC (vecMod 7 3 f.pxm))
  | 0x1C => some (.fcvt f.opRX (vecMod 7 3 f.pxm))
  | 0x1D => some (.fcvti f.opRX (vecMod 7 3 f.pxm))
  | 0x1E => some (.icvtf f.opRX (vecMod 7 3 f.pxm))
  | 0x1F => some (.fclass f.opRR (vecMod 7 3 f.pxm))
  | 0x20 => some (.cbase f.opRR)
  | 0x21 => some (.clen f.opRR)
  | 0x22 => some (.cperm f.opRR)
  | 0x23 => some (.cbound f.opRRC)
  | 0x24 => some (.crestr f.opRRC)
  | 0x25 => some (.ctid f.opRR)
  | 0x26 => some (.cclr f.opR)
  | 0x27 => some (.cmint f.opRRR)
  | 0x28 => some (.csub f.opRRC)
  | 0x29 => some (.sret f.opN)
  | 0x2A => some (.hret f.opN)
  | 0x2B => some (.wfi f.opN)
  | 0x2C => some (.ctxs f.opR)
  | 0x2D => some (.ctxr f.opR)
  | 0x2E => some (.cgtag f.opRR)
  | _ => none

/-- Instructions of page 2. Where several rows share one encoding, the first stands for all; `selectRow` names the
row from the control word. -/
def build2 (major : Nat) (f : Fields) : Option Instr :=
  match major with
  | 0x00 => some (.vclaim f.opRR)
  | 0x01 => some .vrel
  | 0x02 => some (.vsetl f.opRR (vecMod 5 3 f.pxm))
  | 0x03 => some (.vld f.opRX (vecMod 5 3 f.pxm))
  | 0x04 => some (.vst f.opRX (vecMod 5 3 f.pxm))
  | 0x05 => some (.vlds f.opRRR (vecMod 5 3 f.pxm))
  | 0x06 => some (.vsts f.opRRR (vecMod 5 3 f.pxm))
  | 0x07 => some (.vgat f.opRRR (vecMod 5 3 f.pxm))
  | 0x08 => some (.vsca f.opRRR (vecMod 5 3 f.pxm))
  | 0x09 => some (.vscac f.opRRR (vecMod 5 3 f.pxm))
  | 0x0A => some (.vconf f.opRR (vecMod 5 3 f.pxm))
  | 0x0B => some (.vldl f.opRX (vecMod 5 3 f.pxm))
  | 0x0C => some (.vstl f.opRX (vecMod 5 3 f.pxm))
  | 0x0D => some (.vadd f.opRRC (vecMod 5 3 f.pxm))
  | 0x0E => some (.vsub f.opRRC (vecMod 5 3 f.pxm))
  | 0x0F => some (.vmul f.opRRC (vecMod 5 3 f.pxm))
  | 0x10 => some (.vfma f.opRRR (vecMod 7 3 f.pxm))
  | 0x11 => some (.vmin f.opRRC (vecMod 5 3 f.pxm))
  | 0x12 => some (.vmax f.opRRC (vecMod 5 3 f.pxm))
  | 0x13 => some (.vand f.opRRC (vecMod 5 3 f.pxm))
  | 0x14 => some (.vor f.opRRC (vecMod 5 3 f.pxm))
  | 0x15 => some (.vxor f.opRRC (vecMod 5 3 f.pxm))
  | 0x16 => some (.vshl f.opRRC (vecMod 5 3 f.pxm))
  | 0x17 => some (.vshr f.opRRC (vecMod 5 3 f.pxm))
  | 0x18 => some (.vsra f.opRRC (vecMod 5 3 f.pxm))
  | 0x19 => some (.vceq f.opRRC (vecMod 5 3 f.pxm))
  | 0x1A => some (.vclt f.opRRC (vecMod 5 3 f.pxm))
  | 0x1B => some (.vcle f.opRRC (vecMod 5 3 f.pxm))
  | 0x1C => some (.vsel f.opRRR (vecMod 5 3 f.pxm))
  | 0x1D => some (.vbc f.opRR (vecMod 5 3 f.pxm))
  | 0x1E => some (.vxt f.opRRR (vecMod 5 3 f.pxm))
  | 0x1F => vredRow f (vecMod 5 3 f.pxm)
  | 0x20 => vscanRow f (vecMod 5 3 f.pxm)
  | 0x21 => some (.vcvt f.opRX (vecMod 7 3 f.pxm))
  | 0x22 => some (.vexp2 f.opRR (vecMod 7 3 f.pxm))
  | 0x23 => some (.vlog2 f.opRR (vecMod 7 3 f.pxm))
  | 0x24 => some (.vrcp f.opRR (vecMod 7 3 f.pxm))
  | 0x25 => some (.vrsq f.opRR (vecMod 7 3 f.pxm))
  | 0x26 => some (.vperm f.opRRR (vecMod 5 3 f.pxm))
  | 0x27 => some (.vcmpz f.opRR (vecMod 5 3 f.pxm))
  | 0x28 => some (.vxpd f.opRR (vecMod 5 3 f.pxm))
  | 0x29 => some (.vseed f.opRR)
  | 0x2A => some (.kand f.opRRC)
  | 0x2B => some (.kor f.opRRC)
  | 0x2C => some (.kpop f.opRR)
  | 0x2D => some (.kfirst f.opRR)
  | _ => none

/-- Instructions of page 3. Where several rows share one encoding, the first stands for all; `selectRow` names the
row from the control word. -/
def build3 (major : Nat) (f : Fields) : Option Instr :=
  match major with
  | 0x00 => (modMod f.pxm).map (.mqld f.opRR)
  | 0x01 => (modMod f.pxm).map (.mcld f.opRR)
  | 0x02 => (modMod f.pxm).map (.mqget f.opRR)
  | 0x03 => (modMod f.pxm).map (.vmadd f.opRRC)
  | 0x04 => (modMod f.pxm).map (.vmsub f.opRRC)
  | 0x05 => (modMod f.pxm).map (.vmmul f.opRRC)
  | 0x06 => (modMod f.pxm).map (.vmmac f.opRRR)
  | 0x07 => (modMod f.pxm).map (.vmbf f.opRRR)
  | 0x08 => (modMod f.pxm).map (.vmibf f.opRRR)
  | 0x09 => (modMod f.pxm).map (fun m => if f.imm.getLsbD 3 then .vbfxScatter f.opRX m else .vbfxGather f.opRX m)
  | 0x0A => (modMod f.pxm).map (.vbrev f.opRR)
  | 0x0B => (modMod f.pxm).map (.vmred f.opRR)
  | 0x0C => (modMod f.pxm).map (.vmwide f.opRRC)
  | _ => none

/-- Instructions of page 4. Where several rows share one encoding, the first stands for all; `selectRow` names the
row from the control word. -/
def build4 (major : Nat) (f : Fields) : Option Instr :=
  match major with
  | 0x00 => some (.tcfg f.opRR)
  | 0x01 => some (.tdesc f.opRR)
  | 0x02 => (memModNoWidth f.pxm).map (.tld f.opRX)
  | 0x03 => (memModNoWidth f.pxm).map (.tst f.opRX)
  | 0x04 => some (.tzero f.opR)
  | 0x05 => some (.mma f.opRRR)
  | 0x06 => some (.mmag f.opRRR)
  | 0x07 => some (.mmcsr f.opRRR)
  | 0x08 => some (.mmbsr f.opRRR)
  | 0x09 => some (.mmt f.opRRR)
  | 0x0A => some (.accrd f.opRRR (vecMod 7 3 f.pxm))
  | 0x0B => some (.accwm f.opRR)
  | 0x0C => some (.accz f.opR)
  | 0x0D => some (.ttr f.opRR)
  | 0x0E => some (.ixs f.opRR)
  | 0x0F => some (.ixget f.opRRR)
  | 0x10 => some (.ixst f.opRR)
  | _ => none

/-- Instructions of page 5. Where several rows share one encoding, the first stands for all; `selectRow` names the
row from the control word. -/
def build5 (major : Nat) (f : Fields) : Option Instr :=
  match major with
  | 0x00 => some (.lra f.opRX (memMod f.pxm))
  | 0x01 => some (.lrl f.opRX (memMod f.pxm))
  | 0x02 => some (.lrs f.opRX (memMod f.pxm))
  | 0x03 => some (.lrg f.opRX (memMod f.pxm))
  | 0x04 => (memModNoWidth f.pxm).map (.lrc f.opN)
  | 0x05 => amouRow f (amoMod f.pxm)
  | 0x06 => if (amoMod f.pxm).2 = 0 then some (.amof f.opRRR (amoMod f.pxm).1) else none
  | 0x07 => some (.nma f.opRRR)
  | 0x08 => (memModNoWidth f.pxm).map (.pf f.opRX)
  | 0x09 => (memModNoWidth f.pxm).map (.wb f.opRX)
  | 0x0A => (memModNoWidth f.pxm).map (.inv f.opRX)
  | 0x0B => (pathMod f.pxm).map (.fencx f.opN)
  | 0x0C => some (.rput f.opRRR (memMod f.pxm))
  | 0x0D => some (.rget f.opRRR (memMod f.pxm))
  | 0x0E => some (.rdep f.opRRR (memMod f.pxm))
  | 0x0F => some (.cpy f.opRR)
  | 0x10 => some (.cpyw f.opRR)
  | 0x11 => (redMod f.pxm).bind (nredRow f)
  | 0x12 => some (.nredw f.opRR)
  | _ => none

/-- Instructions of page 6. Where several rows share one encoding, the first stands for all; `selectRow` names the
row from the control word. -/
def build6 (major : Nat) (f : Fields) : Option Instr :=
  match major with
  | 0x00 => some (.bmem f.opRRC)
  | 0x01 => some (.wlnew f.opR)
  | 0x02 => some (.wlcfgConfigure f.opRRR)
  | 0x03 => some (.wlst f.opRR)
  | 0x04 => some (.ctrsel f.opRR)
  | 0x05 => some (.ctrrd f.opRR)
  | 0x06 => some (.ctrarmArm f.opRRR)
  | 0x07 => some (.yield f.opRR)
  | 0x08 => some (.colopConfigure f.opRR)
  | 0x09 => some (.ringcfgBind f.opRRR)
  | 0x0A => some (.bdgtRead f.opRR)
  | 0x0B => some (.tslotEntry f.opRR)
  | 0x0C => some (.dlogStatus f.opRR)
  | 0x0D => some (.nmld f.opRRC)
  | 0x0E => some (.tinvPage f.opRR)
  | 0x0F => some .wldone
  | _ => none

def buildInstr (page major : Nat) (f : Fields) : Option Instr :=
  match page with
  | 0 => build0 major f
  | 1 => build1 major f
  | 2 => build2 major f
  | 3 => build3 major f
  | 4 => build4 major f
  | 5 => build5 major f
  | 6 => build6 major f
  | _ => none

/-! ### Legality (R38): field codes and operand values that the manual declares illegal -/

/-- The CSR numbers of R81. -/
def csrNumbers : List Nat :=
  [0x000, 0x001, 0x002, 0x003, 0x004, 0x008, 0x009, 0x00A, 0x00B, 0x010] ++
  [0x011, 0x012, 0x013, 0x014, 0x020, 0x021, 0x022, 0x023, 0x030, 0x031] ++
  [0x032, 0x033, 0x040, 0x041, 0x042, 0x043, 0x050, 0x051, 0x052, 0x058] ++
  [0x059, 0x060, 0x061, 0x068, 0x069, 0x06A, 0x070, 0x080, 0x081, 0x082] ++
  [0x083, 0x084, 0x085, 0x086, 0x087, 0x088, 0x089, 0x08A, 0x08B, 0x08C] ++
  [0x08D, 0x08E, 0x08F, 0x090, 0x091, 0x092, 0x093, 0x094, 0x095, 0x096] ++
  [0x097, 0x0A0, 0x0A1]

def csrDefined (n : Nat) : Bool := csrNumbers.contains n

/-- The CSRs that no mode writes (R81, R82). -/
def csrReadOnly : List Nat := [0x000, 0x002, 0x00A, 0x040, 0x041, 0x043, 0x050, 0x051, 0x060, 0x061, 0x070]

def csrWritable (n : Nat) : Bool := !csrReadOnly.contains n

/-- Scope codes 0 and 7 and width codes 4 to 7 are illegal (R32). -/
def MemMod.memOk (m : MemMod) : Bool := m.scope ≠ 0 && m.scope ≠ 7 && m.width.toNat ≤ 3
def MemMod.noAcquire (m : MemMod) : Bool := m.ord = 0 || m.ord = 2
def MemMod.noRelease (m : MemMod) : Bool := m.ord = 0 || m.ord = 1
def AmoMod.scopeOk (m : AmoMod) : Bool := m.scope ≠ 0 && m.scope ≠ 7
def AmouMod.scopeOk (m : AmouMod) : Bool := m.scope ≠ 0 && m.scope ≠ 7
def PathMod.scopeOk (m : PathMod) : Bool := m.scope ≠ 0 && m.scope ≠ 7
/-- Rounding code 5 selects the integer table on the majors of rule 3 (R34). -/
def VecMod.isInt (m : VecMod) : Bool := m.rnd = 5
/-- P3:0 reserved (R178). -/
def VecMod.noMask (m : VecMod) : Bool := !m.zero && m.mask = 0
/-- The types and rounding of the memory and width-only groups (R180). -/
def VecMod.widthOnly (m : VecMod) : Bool := m.isInt || (m.rnd = 0 && m.ty.toNat ≤ 5)
def ModMod.typeOk (m : ModMod) : Bool := m.ty = 6 || m.ty = 7
def ModMod.noMask (m : ModMod) : Bool := !m.zero && m.mask = 0

/-- Bytes of a reduction element by its type code (R36). -/
def redWidth (ty : BitVec 3) : Nat :=
  match ty.toNat with
  | 0 => 4
  | 2 => 4
  | 4 => 4
  | _ => 8

/-- The contribution size of R422; the immediate holds n − 1. -/
def redSize (ty : BitVec 3) (imm : Imm) : Nat := (imm.toNat + 1) * redWidth ty

/-- What decode rejects with `ill` once the fields are read (R31 to R36 and each instruction's description). An
immediate that the description gives no use is reserved. Log 19 (DEDUCED). -/
def legal : Instr → Bool
  | .hold _ => true
  | .mov _ => true
  | .add _ => true
  | .sub _ => true
  | .and _ => true
  | .or _ => true
  | .xor _ => true
  | .shl _ => true
  | .shr _ => true
  | .sra _ => true
  | .mul _ => true
  | .addi _ => true
  | .movi _ => true
  | .andi _ => true
  | .shli o => o.imm.toNat ≤ 63
  | .shri o => o.imm.toNat ≤ 63
  | .srai o => o.imm.toNat ≤ 63
  | .ceq _ => true
  | .clt _ => true
  | .cltn _ => true
  | .sel o => o.imm = 0
  | .ldk _ => true
  | .bz _ => true
  | .bnz _ => true
  | .blt _ => true
  | .bge _ => true
  | .bltn _ => true
  | .bgen _ => true
  | .j _ => true
  | .jr _ => true
  | .call _ => true
  | .callr _ => true
  | .ret _ => true
  | .enter o => 1 ≤ o.imm.toNat && o.imm.toNat ≤ 64
  | .wshr _ => true
  | .ld _ m => m.memOk && m.noRelease
  | .st _ m => m.memOk && m.noAcquire && !m.sx
  | .ldc _ m => m.memOk && m.noRelease
  | .stc _ m => m.memOk && m.noAcquire
  | .lea _ => true
  | .amoAdd _ m => m.scopeOk
  | .amoAnd _ m => m.scopeOk
  | .amoOr _ m => m.scopeOk
  | .amoXor _ m => m.scopeOk
  | .amoMin _ m => m.scopeOk
  | .amoMax _ m => m.scopeOk
  | .amoMinn _ m => m.scopeOk
  | .amoMaxn _ m => m.scopeOk
  | .amoSwap _ m => m.scopeOk
  | .cas o m => m.memOk && 2 ≤ m.width.toNat && o.a ≠ 63
  | .frd _ m => m.memOk && m.noRelease && m.width = 3 && !m.sx
  | .fwr _ m => m.memOk && m.noAcquire && m.width = 3 && !m.sx
  | .arv _ => true
  | .bwt _ => true
  | .ard _ => true
  | .mon _ => true
  | .wait _ => true
  | .push o => o.imm.toNat ≤ 3
  | .pop o => o.a ≠ 63
  | .sync _ m => m.memOk && m.ord = 0
  | .send o => o.imm.toNat ≤ 2 && o.b.toNat + o.imm.toNat ≤ 63
  | .recv o => o.a.toNat ≤ 61 && !(o.a.toNat ≤ o.b.toNat && o.b.toNat ≤ o.a.toNat + 2)
  | .csrr o => csrDefined o.imm.toNat
  | .csrw o => csrDefined o.imm.toNat && csrWritable o.imm.toNat
  | .csrwTimecmp o => csrDefined o.imm.toNat && csrWritable o.imm.toNat
  | .csrwRqovf o => csrDefined o.imm.toNat && csrWritable o.imm.toNat
  | .trap _ => true
  | .uret _ => true
  | .fenceAcq _ m => m.memOk
  | .fenceRel _ m => m.memOk
  | .fenceAr _ m => m.memOk
  | .brk _ => true
  | .div _ => true
  | .divn _ => true
  | .rem _ => true
  | .remn _ => true
  | .mulh _ => true
  | .mulhn _ => true
  | .clz _ => true
  | .ctz _ => true
  | .popc _ => true
  | .bswap _ => true
  | .rot _ => true
  | .bext o => o.imm.toNat ≤ 4095
  | .bins o => o.imm.toNat ≤ 4095
  | .min _ => true
  | .max _ => true
  | .minn _ => true
  | .maxn _ => true
  | .fadd _ m => m.noMask && m.ty.toNat ≤ 3
  | .fsub _ m => m.noMask && m.ty.toNat ≤ 3
  | .fmul _ m => m.noMask && m.ty.toNat ≤ 3
  | .fdiv _ m => m.noMask && m.ty.toNat ≤ 3
  | .fsqrt _ m => m.noMask && m.ty.toNat ≤ 3
  | .fma o m => m.noMask && m.ty.toNat ≤ 3 && o.imm = 0
  | .fmin _ m => m.noMask && m.ty.toNat ≤ 3
  | .fmax _ m => m.noMask && m.ty.toNat ≤ 3
  | .fceq _ m => m.noMask && m.ty.toNat ≤ 3
  | .fclt _ m => m.noMask && m.ty.toNat ≤ 3
  | .fcle _ m => m.noMask && m.ty.toNat ≤ 3
  | .fcvt o m => m.noMask && m.ty ≠ 7 && o.imm.toNat ≤ 6
  | .fcvti o m => m.noMask && o.imm.toNat ≤ 6
  | .icvtf o m => m.noMask && m.ty ≠ 7 && o.imm.toNat ≤ 7
  | .fclass _ m => m.noMask && m.ty.toNat ≤ 6
  | .cbase _ => true
  | .clen _ => true
  | .cperm _ => true
  | .cbound _ => true
  | .crestr _ => true
  | .ctid _ => true
  | .cclr _ => true
  | .cmint o => o.imm = 0
  | .csub _ => true
  | .sret _ => true
  | .hret _ => true
  | .wfi _ => true
  | .ctxs _ => true
  | .ctxr _ => true
  | .cgtag _ => true
  | .vclaim _ => true
  | .vrel => true
  | .vsetl _ m => m.widthOnly && m.noMask
  | .vld _ m => m.widthOnly
  | .vst _ m => m.widthOnly
  | .vlds _ m => m.widthOnly
  | .vsts _ m => m.widthOnly
  | .vgat _ m => m.widthOnly
  | .vsca _ m => m.widthOnly
  | .vscac _ m => m.isInt || (m.rnd = 0 && m.ty.toNat ≤ 3)
  | .vconf _ m => m.isInt
  | .vldl _ m => m.widthOnly
  | .vstl _ m => m.widthOnly
  | .vadd _ m => m.isInt || m.ty.toNat ≤ 3
  | .vsub _ m => m.isInt || m.ty.toNat ≤ 3
  | .vmul _ m => m.isInt || m.ty.toNat ≤ 3
  | .vfma o m => !m.isInt && m.ty.toNat ≤ 3 && o.imm = 0
  | .vmin _ m => m.isInt || (m.rnd = 0 && m.ty.toNat ≤ 3)
  | .vmax _ m => m.isInt || (m.rnd = 0 && m.ty.toNat ≤ 3)
  | .vand _ m => m.isInt
  | .vor _ m => m.isInt
  | .vxor _ m => m.isInt
  | .vshl _ m => m.isInt
  | .vshr _ m => m.isInt
  | .vsra _ m => m.isInt
  | .vceq _ m => m.isInt || (m.rnd = 0 && m.ty.toNat ≤ 3)
  | .vclt _ m => m.isInt || (m.rnd = 0 && m.ty.toNat ≤ 3)
  | .vcle _ m => m.isInt || (m.rnd = 0 && m.ty.toNat ≤ 3)
  | .vsel o m => m.widthOnly && !m.zero && o.imm = 0
  | .vbc _ m => m.widthOnly
  | .vxt o m => m.widthOnly && m.noMask && o.imm = 0
  | .vredSum _ m => (m.isInt || m.ty.toNat ≤ 3) && !m.zero
  | .vredMin _ m => (m.isInt || m.ty.toNat ≤ 3) && !m.zero
  | .vredMax _ m => (m.isInt || m.ty.toNat ≤ 3) && !m.zero
  | .vredAnd _ m => m.isInt && !m.zero
  | .vredOr _ m => m.isInt && !m.zero
  | .vredXor _ m => m.isInt && !m.zero
  | .vscanSum _ m => m.isInt || m.ty.toNat ≤ 3
  | .vscanMin _ m => m.isInt || m.ty.toNat ≤ 3
  | .vscanMax _ m => m.isInt || m.ty.toNat ≤ 3
  | .vscanAnd _ m => m.isInt
  | .vscanOr _ m => m.isInt
  | .vscanXor _ m => m.isInt
  | .vcvt o m => o.imm.toNat ≤ 31 && !(o.imm.getLsbD 4 && m.ty = 7) && !(o.imm.getLsbD 3 && o.imm.extractLsb' 0 3 = 7)
  | .vexp2 _ m => !m.isInt && m.ty.toNat ≤ 3
  | .vlog2 _ m => !m.isInt && m.ty.toNat ≤ 3
  | .vrcp _ m => !m.isInt && m.ty.toNat ≤ 3
  | .vrsq _ m => !m.isInt && m.ty.toNat ≤ 3
  | .vperm o m => m.widthOnly && o.imm = 0
  | .vcmpz _ m => m.widthOnly
  | .vxpd _ m => m.widthOnly
  | .vseed _ => true
  | .kand _ => true
  | .kor _ => true
  | .kpop _ => true
  | .kfirst _ => true
  | .mqld _ m => m.ty = 7 && m.mi = 0 && !m.zero
  | .mcld _ m => m.ty = 7 && m.mi = 0 && !m.zero
  | .mqget o m => m.ty = 7 && m.mi = 0 && o.b.toNat ≤ 7
  | .vmadd _ m => m.typeOk
  | .vmsub _ m => m.typeOk
  | .vmmul _ m => m.typeOk
  | .vmmac o m => m.typeOk && o.imm = 0
  | .vmbf o m => m.typeOk && o.imm = 0 && o.a ≠ o.b
  | .vmibf o m => m.typeOk && o.imm = 0 && o.a ≠ o.b
  | .vbfxGather o m => m.typeOk && m.mi = 0 && m.noMask && o.imm.toNat ≤ 7 && o.a ≠ o.b
  | .vbfxScatter o m => m.typeOk && m.mi = 0 && m.noMask && 8 ≤ o.imm.toNat && o.imm.toNat ≤ 15 && o.a ≠ o.b
  | .vbrev _ m => m.typeOk && m.mi = 0 && m.noMask
  | .vmred _ m => m.typeOk
  | .vmwide _ m => m.typeOk
  | .tcfg _ => true
  | .tdesc _ => true
  | .tld _ m => m.memOk && m.noRelease
  | .tst _ m => m.memOk && m.noAcquire
  | .tzero _ => true
  | .mma o => o.imm.toNat ≤ 63
  | .mmag o => o.imm.toNat ≤ 511
  | .mmcsr o => o.imm.toNat ≤ 63 && o.c.toNat ≤ 60
  | .mmbsr o => o.imm.toNat ≤ 63 && o.c.toNat ≤ 60
  | .mmt o => o.imm.toNat ≤ 63
  | .accrd o m => (o.imm &&& 0x3FFFFFFEC) = 0 && o.imm.extractLsb' 0 2 ≠ 3 && !(o.imm.getLsbD 4 && m.ty = 7)
  | .accwm _ => true
  | .accz _ => true
  | .ttr _ => true
  | .ixs _ => true
  | .ixget o => o.imm = 0 && o.b ≠ o.c
  | .ixst _ => true
  | .lra _ m => m.ord = 0 && m.scope = 1 && !m.sx && m.width = 3
  | .lrl _ m => m.memOk && m.ord = 0 && m.scope = 1
  | .lrs _ m => m.memOk && m.ord = 0 && m.scope = 1 && !m.sx
  | .lrg _ m => m.memOk && m.ord = 0 && m.scope = 1 && !m.sx
  | .lrc _ m => m.memOk
  | .amouInteger _ m => m.scopeOk && m.ord = 0 && m.op.toNat ≤ 7
  | .amouF32 _ m => m.scopeOk && m.ord = 0 && m.w32
  | .amouF64 _ m => m.scopeOk && m.ord = 0 && !m.w32
  | .amof o m => m.scopeOk && o.imm.toNat ≤ 63
  | .nma o => o.a.toNat ≤ 60 && o.imm.toNat ≤ 63
  | .pf _ m => m.memOk && m.ord = 0
  | .wb _ m => m.memOk && m.ord = 0
  | .inv _ m => m.memOk && m.ord = 0
  | .fencx _ m => m.scopeOk
  | .rput _ m => m.memOk && m.noAcquire && m.width = 3 && !m.sx
  | .rget _ m => m.memOk && m.noRelease && m.width = 3 && !m.sx
  | .rdep o m => m.memOk && m.noAcquire && m.width = 3 && !m.sx && o.imm = 0
  | .cpy o => o.b.toNat ≤ 59
  | .cpyw _ => true
  | .nredSum o m => m.ty.toNat ≤ 5 && o.imm.toNat ≤ 1023 && redSize m.ty o.imm ≤ 1024
  | .nredMin o m => m.ty.toNat ≤ 5 && o.imm.toNat ≤ 1023 && redSize m.ty o.imm ≤ 1024
  | .nredMax o m => m.ty.toNat ≤ 5 && o.imm.toNat ≤ 1023 && redSize m.ty o.imm ≤ 1024
  | .nredMerge2 o => o.imm.toNat ≤ 63
  | .nredw _ => true
  | .bmem _ => true
  | .wlnew _ => true
  | .wlcfgConfigure o => o.imm = 0
  | .wlcfgFree => true
  | .wlst _ => true
  | .ctrsel _ => true
  | .ctrrd _ => true
  | .ctrarmArm o => o.imm = 0
  | .ctrarmDisarm => true
  | .yield o => o.a ≠ 63
  | .colopConfigure _ => true
  | .colopRead => true
  | .colopSplit => true
  | .colopMerge => true
  | .colopRemove => true
  | .colopHold => true
  | .colopRelease => true
  | .colopAdopt => true
  | .colopDebug => true
  | .colopHalt => true
  | .colopResume => true
  | .colopPeek => true
  | .colopPoke => true
  | .colopColour => true
  | .colopRoot => true
  | .colopControl => true
  | .colopJob => true
  | .colopMulticast => true
  | .ringcfgBind o => o.imm = 0
  | .ringcfgUnbind => true
  | .bdgtRead _ => true
  | .bdgtWrite => true
  | .tslotEntry _ => true
  | .tslotControl => true
  | .dlogStatus _ => true
  | .dlogStart => true
  | .dlogStop => true
  | .dlogLeaveBitmap => true
  | .nmld _ => true
  | .tinvPage _ => true
  | .tinvTenant => true
  | .tinvAll => true
  | .wldone => true
  | .trapDelivery => true
  | .timerInterrupt => true
  | .scoutLaunch => true
  | .scoutStop => true
  | .scoutConfigurePush => true
  | .deferredStart => true
  | .dispatchRound => true
  | .matrixRowWrite => true
  | .ixMergeStep => true
  | .registerWindowAccess => true
  | .scratchpadWriteArrival => true
  | .messageAccept => true
  | .overflowRefill => true
  | .sendTimeout => true
  | .reofferNotice => true
  | .sendReoffer => true
  | .depositArrival => true
  | .waitWake => true
  | .bwtReturn => true
  | .l2TagParityError => true
  | .patrolScrub => true
  | .countApply => true
  | .popCheck => true
  | .dminReport => true
  | .taskEndApply => true
  | .popCancel => true
  | .popAnswer => true
  | .nmaRoutine => true
  | .copyCommand => true
  | .followOnIssue => true
  | .combineWindowClose => true
  | .sliceEnd => true
  | .forcedSave => true
  | .loadReissueTimeout => true
  | .colonySaveDone => true
  | .colonyLoad => true
  | .budgetPeriod => true
  | .operatingPoint => true
  | .counterFire => true
  | .ppsEdge => true
  | .timeOfDayMessage => true
  | .ppsLoss => true
  | .reset => true
  | .attestationReport => true
  | .bootRequest => true
  | .timeStatus => true
  | .hostWrite => true
  | .hostRead => true
  | .hostBarrierWrite => true
  | .flitReceive => true
  | .laneFailure => true
  | .laneWidthOrder => true
  | .portDown => true
  | .packetForward => true
  | .remoteRequest => true
  | .remoteAnswer => true
  | .mirrorReport => true
  | .requestTimeout => true
  | .probe => true
  | .probeTimeout => true
  | .peerDownNotice => true
  | .combineHold => true
  | .combineDepart => true
  | .combinedAtHome => true
  | .combSplit => true
  | .reductionCombine => true
  | .reductionResultDeliver => true
  | .uncorrectableError => true
  | .loadValueReturn => true

/-! ### The encoder -/

/-- Where an instruction stands in the opcode map and the fields its words carry. -/
structure Parts where
  page : Nat
  major : Nat
  fields : Fields
  deriving DecidableEq, Repr

/-- A modifier word is written only when it differs from the default (R14, R16). -/
def unlessDefault (b d : BitVec 10) : Option (BitVec 10) := if b = d then none else some b

/-- Page, major and fields of an instruction; none for a row without an encoding of its own. -/
def Instr.parts : Instr → Option Parts
  | .hold o => some ⟨0, 0x00, ⟨o.st, 0, 0, none, o.imm, none⟩⟩
  | .mov o => some ⟨0, 0x01, ⟨o.st, o.a, o.b, none, 0, none⟩⟩
  | .add o => some ⟨0, 0x02, ⟨o.st, o.a, o.b, o.c, 0, none⟩⟩
  | .sub o => some ⟨0, 0x03, ⟨o.st, o.a, o.b, o.c, 0, none⟩⟩
  | .and o => some ⟨0, 0x04, ⟨o.st, o.a, o.b, o.c, 0, none⟩⟩
  | .or o => some ⟨0, 0x05, ⟨o.st, o.a, o.b, o.c, 0, none⟩⟩
  | .xor o => some ⟨0, 0x06, ⟨o.st, o.a, o.b, o.c, 0, none⟩⟩
  | .shl o => some ⟨0, 0x07, ⟨o.st, o.a, o.b, o.c, 0, none⟩⟩
  | .shr o => some ⟨0, 0x08, ⟨o.st, o.a, o.b, o.c, 0, none⟩⟩
  | .sra o => some ⟨0, 0x09, ⟨o.st, o.a, o.b, o.c, 0, none⟩⟩
  | .mul o => some ⟨0, 0x0A, ⟨o.st, o.a, o.b, o.c, 0, none⟩⟩
  | .addi o => some ⟨0, 0x0B, ⟨o.st, o.a, 0, none, o.imm, none⟩⟩
  | .movi o => some ⟨0, 0x0C, ⟨o.st, o.a, 0, none, o.imm, none⟩⟩
  | .andi o => some ⟨0, 0x0D, ⟨o.st, o.a, 0, none, o.imm, none⟩⟩
  | .shli o => some ⟨0, 0x0E, ⟨o.st, o.a, 0, none, o.imm, none⟩⟩
  | .shri o => some ⟨0, 0x0F, ⟨o.st, o.a, 0, none, o.imm, none⟩⟩
  | .srai o => some ⟨0, 0x10, ⟨o.st, o.a, 0, none, o.imm, none⟩⟩
  | .ceq o => some ⟨0, 0x11, ⟨o.st, o.a, o.b, o.c, 0, none⟩⟩
  | .clt o => some ⟨0, 0x12, ⟨o.st, o.a, o.b, o.c, 0, none⟩⟩
  | .cltn o => some ⟨0, 0x13, ⟨o.st, o.a, o.b, o.c, 0, none⟩⟩
  | .sel o => some ⟨0, 0x14, ⟨o.st, o.a, o.b, (some o.c), o.imm, none⟩⟩
  | .ldk o => some ⟨0, 0x15, ⟨o.st, o.a, 0, none, o.imm, none⟩⟩
  | .bz o => some ⟨0, 0x16, ⟨o.st, o.a, 0, none, o.imm, none⟩⟩
  | .bnz o => some ⟨0, 0x17, ⟨o.st, o.a, 0, none, o.imm, none⟩⟩
  | .blt o => some ⟨0, 0x18, ⟨o.st, o.a, o.b, none, o.imm, none⟩⟩
  | .bge o => some ⟨0, 0x19, ⟨o.st, o.a, o.b, none, o.imm, none⟩⟩
  | .bltn o => some ⟨0, 0x1A, ⟨o.st, o.a, o.b, none, o.imm, none⟩⟩
  | .bgen o => some ⟨0, 0x1B, ⟨o.st, o.a, o.b, none, o.imm, none⟩⟩
  | .j o => some ⟨0, 0x1C, ⟨o.st, 0, 0, none, o.imm, none⟩⟩
  | .jr o => some ⟨0, 0x1D, ⟨o.st, o.a, 0, none, 0, none⟩⟩
  | .call o => some ⟨0, 0x1E, ⟨o.st, 0, 0, none, o.imm, none⟩⟩
  | .callr o => some ⟨0, 0x1F, ⟨o.st, o.a, 0, none, 0, none⟩⟩
  | .ret o => some ⟨0, 0x20, ⟨o.st, 0, 0, none, 0, none⟩⟩
  | .enter o => some ⟨0, 0x21, ⟨o.st, 0, 0, none, o.imm, none⟩⟩
  | .wshr o => some ⟨0, 0x22, ⟨o.st, 0, 0, none, o.imm, none⟩⟩
  | .ld o m => some ⟨0, 0x23, ⟨o.st, o.a, o.b, none, o.imm, (unlessDefault m.bits 0x013)⟩⟩
  | .st o m => some ⟨0, 0x24, ⟨o.st, o.a, o.b, none, o.imm, (unlessDefault m.bits 0x013)⟩⟩
  | .ldc o m => some ⟨0, 0x25, ⟨o.st, o.a, o.b, none, o.imm, (unlessDefault m.bitsNoWidth 0x010)⟩⟩
  | .stc o m => some ⟨0, 0x26, ⟨o.st, o.a, o.b, none, o.imm, (unlessDefault m.bitsNoWidth 0x010)⟩⟩
  | .lea o => some ⟨0, 0x27, ⟨o.st, o.a, o.b, o.c, 0, none⟩⟩
  | .amoAdd o m => some ⟨0, 0x28, ⟨o.st, o.a, o.b, (some o.c), o.imm, (unlessDefault (m.bits 0) 0x010)⟩⟩
  | .amoAnd o m => some ⟨0, 0x28, ⟨o.st, o.a, o.b, (some o.c), o.imm, (unlessDefault (m.bits 1) 0x010)⟩⟩
  | .amoOr o m => some ⟨0, 0x28, ⟨o.st, o.a, o.b, (some o.c), o.imm, (unlessDefault (m.bits 2) 0x010)⟩⟩
  | .amoXor o m => some ⟨0, 0x28, ⟨o.st, o.a, o.b, (some o.c), o.imm, (unlessDefault (m.bits 3) 0x010)⟩⟩
  | .amoMin o m => some ⟨0, 0x28, ⟨o.st, o.a, o.b, (some o.c), o.imm, (unlessDefault (m.bits 4) 0x010)⟩⟩
  | .amoMax o m => some ⟨0, 0x28, ⟨o.st, o.a, o.b, (some o.c), o.imm, (unlessDefault (m.bits 5) 0x010)⟩⟩
  | .amoMinn o m => some ⟨0, 0x28, ⟨o.st, o.a, o.b, (some o.c), o.imm, (unlessDefault (m.bits 6) 0x010)⟩⟩
  | .amoMaxn o m => some ⟨0, 0x28, ⟨o.st, o.a, o.b, (some o.c), o.imm, (unlessDefault (m.bits 7) 0x010)⟩⟩
  | .amoSwap o m => some ⟨0, 0x28, ⟨o.st, o.a, o.b, (some o.c), o.imm, (unlessDefault (m.bits 8) 0x010)⟩⟩
  | .cas o m => some ⟨0, 0x29, ⟨o.st, o.a, o.b, (some o.c), o.imm, (unlessDefault m.bits 0x013)⟩⟩
  | .frd o m => some ⟨0, 0x2A, ⟨o.st, o.a, o.b, none, 0, (unlessDefault m.bits 0x013)⟩⟩
  | .fwr o m => some ⟨0, 0x2B, ⟨o.st, o.a, o.b, none, 0, (unlessDefault m.bits 0x013)⟩⟩
  | .arv o => some ⟨0, 0x2C, ⟨o.st, o.a, 0, none, 0, none⟩⟩
  | .bwt o => some ⟨0, 0x2D, ⟨o.st, o.a, 0, none, 0, none⟩⟩
  | .ard o => some ⟨0, 0x2E, ⟨o.st, o.a, 0, none, 0, none⟩⟩
  | .mon o => some ⟨0, 0x2F, ⟨o.st, o.a, 0, none, 0, none⟩⟩
  | .wait o => some ⟨0, 0x30, ⟨o.st, 0, 0, none, 0, none⟩⟩
  | .push o => some ⟨0, 0x31, ⟨o.st, o.a, o.b, (some o.c), o.imm, none⟩⟩
  | .pop o => some ⟨0, 0x32, ⟨o.st, o.a, o.b, none, 0, none⟩⟩
  | .sync o m => some ⟨0, 0x33, ⟨o.st, 0, 0, none, 0, (unlessDefault m.bitsNoWidth 0x010)⟩⟩
  | .send o => some ⟨0, 0x34, ⟨o.st, o.a, o.b, (some o.c), o.imm, none⟩⟩
  | .recv o => some ⟨0, 0x35, ⟨o.st, o.a, o.b, none, 0, none⟩⟩
  | .csrr o => some ⟨0, 0x36, ⟨o.st, o.a, 0, none, o.imm, none⟩⟩
  | .csrw o => some ⟨0, 0x37, ⟨o.st, o.a, 0, none, o.imm, none⟩⟩
  | .csrwTimecmp o => some ⟨0, 0x37, ⟨o.st, o.a, 0, none, o.imm, none⟩⟩
  | .csrwRqovf o => some ⟨0, 0x37, ⟨o.st, o.a, 0, none, o.imm, none⟩⟩
  | .trap o => some ⟨0, 0x38, ⟨o.st, 0, 0, none, o.imm, none⟩⟩
  | .uret o => some ⟨0, 0x39, ⟨o.st, 0, 0, none, 0, none⟩⟩
  | .fenceAcq o m => some ⟨0, 0x3A, ⟨o.st, 0, 0, none, 0, (some m.bitsNoWidth)⟩⟩
  | .fenceRel o m => some ⟨0, 0x3A, ⟨o.st, 0, 0, none, 0, (some m.bitsNoWidth)⟩⟩
  | .fenceAr o m => some ⟨0, 0x3A, ⟨o.st, 0, 0, none, 0, (some m.bitsNoWidth)⟩⟩
  | .brk o => some ⟨0, 0x3B, ⟨o.st, 0, 0, none, o.imm, none⟩⟩
  | .div o => some ⟨1, 0x00, ⟨o.st, o.a, o.b, o.c, 0, none⟩⟩
  | .divn o => some ⟨1, 0x01, ⟨o.st, o.a, o.b, o.c, 0, none⟩⟩
  | .rem o => some ⟨1, 0x02, ⟨o.st, o.a, o.b, o.c, 0, none⟩⟩
  | .remn o => some ⟨1, 0x03, ⟨o.st, o.a, o.b, o.c, 0, none⟩⟩
  | .mulh o => some ⟨1, 0x04, ⟨o.st, o.a, o.b, o.c, 0, none⟩⟩
  | .mulhn o => some ⟨1, 0x05, ⟨o.st, o.a, o.b, o.c, 0, none⟩⟩
  | .clz o => some ⟨1, 0x06, ⟨o.st, o.a, o.b, none, 0, none⟩⟩
  | .ctz o => some ⟨1, 0x07, ⟨o.st, o.a, o.b, none, 0, none⟩⟩
  | .popc o => some ⟨1, 0x08, ⟨o.st, o.a, o.b, none, 0, none⟩⟩
  | .bswap o => some ⟨1, 0x09, ⟨o.st, o.a, o.b, none, 0, none⟩⟩
  | .rot o => some ⟨1, 0x0A, ⟨o.st, o.a, o.b, o.c, 0, none⟩⟩
  | .bext o => some ⟨1, 0x0B, ⟨o.st, o.a, o.b, none, o.imm, none⟩⟩
  | .bins o => some ⟨1, 0x0C, ⟨o.st, o.a, o.b, none, o.imm, none⟩⟩
  | .min o => some ⟨1, 0x0D, ⟨o.st, o.a, o.b, o.c, 0, none⟩⟩
  | .max o => some ⟨1, 0x0E, ⟨o.st, o.a, o.b, o.c, 0, none⟩⟩
  | .minn o => some ⟨1, 0x0F, ⟨o.st, o.a, o.b, o.c, 0, none⟩⟩
  | .maxn o => some ⟨1, 0x10, ⟨o.st, o.a, o.b, o.c, 0, none⟩⟩
  | .fadd o m => some ⟨1, 0x11, ⟨o.st, o.a, o.b, o.c, 0, (unlessDefault m.bits 0x3B0)⟩⟩
  | .fsub o m => some ⟨1, 0x12, ⟨o.st, o.a, o.b, o.c, 0, (unlessDefault m.bits 0x3B0)⟩⟩
  | .fmul o m => some ⟨1, 0x13, ⟨o.st, o.a, o.b, o.c, 0, (unlessDefault m.bits 0x3B0)⟩⟩
  | .fdiv o m => some ⟨1, 0x14, ⟨o.st, o.a, o.b, o.c, 0, (unlessDefault m.bits 0x3B0)⟩⟩
  | .fsqrt o m => some ⟨1, 0x15, ⟨o.st, o.a, o.b, none, 0, (unlessDefault m.bits 0x3B0)⟩⟩
  | .fma o m => some ⟨1, 0x16, ⟨o.st, o.a, o.b, (some o.c), o.imm, (unlessDefault m.bits 0x3B0)⟩⟩
  | .fmin o m => some ⟨1, 0x17, ⟨o.st, o.a, o.b, o.c, 0, (unlessDefault m.bits 0x3B0)⟩⟩
  | .fmax o m => some ⟨1, 0x18, ⟨o.st, o.a, o.b, o.c, 0, (unlessDefault m.bits 0x3B0)⟩⟩
  | .fceq o m => some ⟨1, 0x19, ⟨o.st, o.a, o.b, o.c, 0, (unlessDefault m.bits 0x3B0)⟩⟩
  | .fclt o m => some ⟨1, 0x1A, ⟨o.st, o.a, o.b, o.c, 0, (unlessDefault m.bits 0x3B0)⟩⟩
  | .fcle o m => some ⟨1, 0x1B, ⟨o.st, o.a, o.b, o.c, 0, (unlessDefault m.bits 0x3B0)⟩⟩
  | .fcvt o m => some ⟨1, 0x1C, ⟨o.st, o.a, o.b, none, o.imm, (unlessDefault m.bits 0x3B0)⟩⟩
  | .fcvti o m => some ⟨1, 0x1D, ⟨o.st, o.a, o.b, none, o.imm, (unlessDefault m.bits 0x3B0)⟩⟩
  | .icvtf o m => some ⟨1, 0x1E, ⟨o.st, o.a, o.b, none, o.imm, (unlessDefault m.bits 0x3B0)⟩⟩
  | .fclass o m => some ⟨1, 0x1F, ⟨o.st, o.a, o.b, none, 0, (unlessDefault m.bits 0x3B0)⟩⟩
  | .cbase o => some ⟨1, 0x20, ⟨o.st, o.a, o.b, none, 0, none⟩⟩
  | .clen o => some ⟨1, 0x21, ⟨o.st, o.a, o.b, none, 0, none⟩⟩
  | .cperm o => some ⟨1, 0x22, ⟨o.st, o.a, o.b, none, 0, none⟩⟩
  | .cbound o => some ⟨1, 0x23, ⟨o.st, o.a, o.b, o.c, 0, none⟩⟩
  | .crestr o => some ⟨1, 0x24, ⟨o.st, o.a, o.b, o.c, 0, none⟩⟩
  | .ctid o => some ⟨1, 0x25, ⟨o.st, o.a, o.b, none, 0, none⟩⟩
  | .cclr o => some ⟨1, 0x26, ⟨o.st, o.a, 0, none, 0, none⟩⟩
  | .cmint o => some ⟨1, 0x27, ⟨o.st, o.a, o.b, (some o.c), o.imm, none⟩⟩
  | .csub o => some ⟨1, 0x28, ⟨o.st, o.a, o.b, o.c, 0, none⟩⟩
  | .sret o => some ⟨1, 0x29, ⟨o.st, 0, 0, none, 0, none⟩⟩
  | .hret o => some ⟨1, 0x2A, ⟨o.st, 0, 0, none, 0, none⟩⟩
  | .wfi o => some ⟨1, 0x2B, ⟨o.st, 0, 0, none, 0, none⟩⟩
  | .ctxs o => some ⟨1, 0x2C, ⟨o.st, o.a, 0, none, 0, none⟩⟩
  | .ctxr o => some ⟨1, 0x2D, ⟨o.st, o.a, 0, none, 0, none⟩⟩
  | .cgtag o => some ⟨1, 0x2E, ⟨o.st, o.a, o.b, none, 0, none⟩⟩
  | .vclaim o => some ⟨2, 0x00, ⟨o.st, o.a, o.b, none, 0, none⟩⟩
  | .vrel => some ⟨2, 0x01, ⟨0, 0, 0, none, 0, none⟩⟩
  | .vsetl o m => some ⟨2, 0x02, ⟨o.st, o.a, o.b, none, 0, (unlessDefault m.bits 0x2B0)⟩⟩
  | .vld o m => some ⟨2, 0x03, ⟨o.st, o.a, o.b, none, o.imm, (unlessDefault m.bits 0x2B0)⟩⟩
  | .vst o m => some ⟨2, 0x04, ⟨o.st, o.a, o.b, none, o.imm, (unlessDefault m.bits 0x2B0)⟩⟩
  | .vlds o m => some ⟨2, 0x05, ⟨o.st, o.a, o.b, (some o.c), o.imm, (unlessDefault m.bits 0x2B0)⟩⟩
  | .vsts o m => some ⟨2, 0x06, ⟨o.st, o.a, o.b, (some o.c), o.imm, (unlessDefault m.bits 0x2B0)⟩⟩
  | .vgat o m => some ⟨2, 0x07, ⟨o.st, o.a, o.b, (some o.c), o.imm, (unlessDefault m.bits 0x2B0)⟩⟩
  | .vsca o m => some ⟨2, 0x08, ⟨o.st, o.a, o.b, (some o.c), o.imm, (unlessDefault m.bits 0x2B0)⟩⟩
  | .vscac o m => some ⟨2, 0x09, ⟨o.st, o.a, o.b, (some o.c), o.imm, (unlessDefault m.bits 0x2B0)⟩⟩
  | .vconf o m => some ⟨2, 0x0A, ⟨o.st, o.a, o.b, none, 0, (unlessDefault m.bits 0x2B0)⟩⟩
  | .vldl o m => some ⟨2, 0x0B, ⟨o.st, o.a, o.b, none, o.imm, (unlessDefault m.bits 0x2B0)⟩⟩
  | .vstl o m => some ⟨2, 0x0C, ⟨o.st, o.a, o.b, none, o.imm, (unlessDefault m.bits 0x2B0)⟩⟩
  | .vadd o m => some ⟨2, 0x0D, ⟨o.st, o.a, o.b, o.c, 0, (unlessDefault m.bits 0x2B0)⟩⟩
  | .vsub o m => some ⟨2, 0x0E, ⟨o.st, o.a, o.b, o.c, 0, (unlessDefault m.bits 0x2B0)⟩⟩
  | .vmul o m => some ⟨2, 0x0F, ⟨o.st, o.a, o.b, o.c, 0, (unlessDefault m.bits 0x2B0)⟩⟩
  | .vfma o m => some ⟨2, 0x10, ⟨o.st, o.a, o.b, (some o.c), o.imm, (unlessDefault m.bits 0x3B0)⟩⟩
  | .vmin o m => some ⟨2, 0x11, ⟨o.st, o.a, o.b, o.c, 0, (unlessDefault m.bits 0x2B0)⟩⟩
  | .vmax o m => some ⟨2, 0x12, ⟨o.st, o.a, o.b, o.c, 0, (unlessDefault m.bits 0x2B0)⟩⟩
  | .vand o m => some ⟨2, 0x13, ⟨o.st, o.a, o.b, o.c, 0, (unlessDefault m.bits 0x2B0)⟩⟩
  | .vor o m => some ⟨2, 0x14, ⟨o.st, o.a, o.b, o.c, 0, (unlessDefault m.bits 0x2B0)⟩⟩
  | .vxor o m => some ⟨2, 0x15, ⟨o.st, o.a, o.b, o.c, 0, (unlessDefault m.bits 0x2B0)⟩⟩
  | .vshl o m => some ⟨2, 0x16, ⟨o.st, o.a, o.b, o.c, 0, (unlessDefault m.bits 0x2B0)⟩⟩
  | .vshr o m => some ⟨2, 0x17, ⟨o.st, o.a, o.b, o.c, 0, (unlessDefault m.bits 0x2B0)⟩⟩
  | .vsra o m => some ⟨2, 0x18, ⟨o.st, o.a, o.b, o.c, 0, (unlessDefault m.bits 0x2B0)⟩⟩
  | .vceq o m => some ⟨2, 0x19, ⟨o.st, o.a, o.b, o.c, 0, (unlessDefault m.bits 0x2B0)⟩⟩
  | .vclt o m => some ⟨2, 0x1A, ⟨o.st, o.a, o.b, o.c, 0, (unlessDefault m.bits 0x2B0)⟩⟩
  | .vcle o m => some ⟨2, 0x1B, ⟨o.st, o.a, o.b, o.c, 0, (unlessDefault m.bits 0x2B0)⟩⟩
  | .vsel o m => some ⟨2, 0x1C, ⟨o.st, o.a, o.b, (some o.c), o.imm, (unlessDefault m.bits 0x2B0)⟩⟩
  | .vbc o m => some ⟨2, 0x1D, ⟨o.st, o.a, o.b, none, 0, (unlessDefault m.bits 0x2B0)⟩⟩
  | .vxt o m => some ⟨2, 0x1E, ⟨o.st, o.a, o.b, (some o.c), o.imm, (unlessDefault m.bits 0x2B0)⟩⟩
  | .vredSum o m => some ⟨2, 0x1F, ⟨o.st, o.a, o.b, none, 0, (unlessDefault m.bits 0x2B0)⟩⟩
  | .vredMin o m => some ⟨2, 0x1F, ⟨o.st, o.a, o.b, (some 1), 0, (unlessDefault m.bits 0x2B0)⟩⟩
  | .vredMax o m => some ⟨2, 0x1F, ⟨o.st, o.a, o.b, (some 2), 0, (unlessDefault m.bits 0x2B0)⟩⟩
  | .vredAnd o m => some ⟨2, 0x1F, ⟨o.st, o.a, o.b, (some 3), 0, (unlessDefault m.bits 0x2B0)⟩⟩
  | .vredOr o m => some ⟨2, 0x1F, ⟨o.st, o.a, o.b, (some 4), 0, (unlessDefault m.bits 0x2B0)⟩⟩
  | .vredXor o m => some ⟨2, 0x1F, ⟨o.st, o.a, o.b, (some 5), 0, (unlessDefault m.bits 0x2B0)⟩⟩
  | .vscanSum o m => some ⟨2, 0x20, ⟨o.st, o.a, o.b, none, 0, (unlessDefault m.bits 0x2B0)⟩⟩
  | .vscanMin o m => some ⟨2, 0x20, ⟨o.st, o.a, o.b, (some 1), 0, (unlessDefault m.bits 0x2B0)⟩⟩
  | .vscanMax o m => some ⟨2, 0x20, ⟨o.st, o.a, o.b, (some 2), 0, (unlessDefault m.bits 0x2B0)⟩⟩
  | .vscanAnd o m => some ⟨2, 0x20, ⟨o.st, o.a, o.b, (some 3), 0, (unlessDefault m.bits 0x2B0)⟩⟩
  | .vscanOr o m => some ⟨2, 0x20, ⟨o.st, o.a, o.b, (some 4), 0, (unlessDefault m.bits 0x2B0)⟩⟩
  | .vscanXor o m => some ⟨2, 0x20, ⟨o.st, o.a, o.b, (some 5), 0, (unlessDefault m.bits 0x2B0)⟩⟩
  | .vcvt o m => some ⟨2, 0x21, ⟨o.st, o.a, o.b, none, o.imm, (unlessDefault m.bits 0x3B0)⟩⟩
  | .vexp2 o m => some ⟨2, 0x22, ⟨o.st, o.a, o.b, none, 0, (unlessDefault m.bits 0x3B0)⟩⟩
  | .vlog2 o m => some ⟨2, 0x23, ⟨o.st, o.a, o.b, none, 0, (unlessDefault m.bits 0x3B0)⟩⟩
  | .vrcp o m => some ⟨2, 0x24, ⟨o.st, o.a, o.b, none, 0, (unlessDefault m.bits 0x3B0)⟩⟩
  | .vrsq o m => some ⟨2, 0x25, ⟨o.st, o.a, o.b, none, 0, (unlessDefault m.bits 0x3B0)⟩⟩
  | .vperm o m => some ⟨2, 0x26, ⟨o.st, o.a, o.b, (some o.c), o.imm, (unlessDefault m.bits 0x2B0)⟩⟩
  | .vcmpz o m => some ⟨2, 0x27, ⟨o.st, o.a, o.b, none, 0, (unlessDefault m.bits 0x2B0)⟩⟩
  | .vxpd o m => some ⟨2, 0x28, ⟨o.st, o.a, o.b, none, 0, (unlessDefault m.bits 0x2B0)⟩⟩
  | .vseed o => some ⟨2, 0x29, ⟨o.st, o.a, o.b, none, 0, none⟩⟩
  | .kand o => some ⟨2, 0x2A, ⟨o.st, o.a, o.b, o.c, 0, none⟩⟩
  | .kor o => some ⟨2, 0x2B, ⟨o.st, o.a, o.b, o.c, 0, none⟩⟩
  | .kpop o => some ⟨2, 0x2C, ⟨o.st, o.a, o.b, none, 0, none⟩⟩
  | .kfirst o => some ⟨2, 0x2D, ⟨o.st, o.a, o.b, none, 0, none⟩⟩
  | .mqld o m => some ⟨3, 0x00, ⟨o.st, o.a, o.b, none, 0, (unlessDefault m.bits 0x070)⟩⟩
  | .mcld o m => some ⟨3, 0x01, ⟨o.st, o.a, o.b, none, 0, (unlessDefault m.bits 0x070)⟩⟩
  | .mqget o m => some ⟨3, 0x02, ⟨o.st, o.a, o.b, none, 0, (unlessDefault m.bits 0x070)⟩⟩
  | .vmadd o m => some ⟨3, 0x03, ⟨o.st, o.a, o.b, o.c, 0, (unlessDefault m.bits 0x070)⟩⟩
  | .vmsub o m => some ⟨3, 0x04, ⟨o.st, o.a, o.b, o.c, 0, (unlessDefault m.bits 0x070)⟩⟩
  | .vmmul o m => some ⟨3, 0x05, ⟨o.st, o.a, o.b, o.c, 0, (unlessDefault m.bits 0x070)⟩⟩
  | .vmmac o m => some ⟨3, 0x06, ⟨o.st, o.a, o.b, (some o.c), o.imm, (unlessDefault m.bits 0x070)⟩⟩
  | .vmbf o m => some ⟨3, 0x07, ⟨o.st, o.a, o.b, (some o.c), o.imm, (unlessDefault m.bits 0x070)⟩⟩
  | .vmibf o m => some ⟨3, 0x08, ⟨o.st, o.a, o.b, (some o.c), o.imm, (unlessDefault m.bits 0x070)⟩⟩
  | .vbfxGather o m => some ⟨3, 0x09, ⟨o.st, o.a, o.b, none, o.imm, (unlessDefault m.bits 0x070)⟩⟩
  | .vbfxScatter o m => some ⟨3, 0x09, ⟨o.st, o.a, o.b, none, o.imm, (unlessDefault m.bits 0x070)⟩⟩
  | .vbrev o m => some ⟨3, 0x0A, ⟨o.st, o.a, o.b, none, 0, (unlessDefault m.bits 0x070)⟩⟩
  | .vmred o m => some ⟨3, 0x0B, ⟨o.st, o.a, o.b, none, 0, (unlessDefault m.bits 0x070)⟩⟩
  | .vmwide o m => some ⟨3, 0x0C, ⟨o.st, o.a, o.b, o.c, 0, (unlessDefault m.bits 0x070)⟩⟩
  | .tcfg o => some ⟨4, 0x00, ⟨o.st, o.a, o.b, none, 0, none⟩⟩
  | .tdesc o => some ⟨4, 0x01, ⟨o.st, o.a, o.b, none, 0, none⟩⟩
  | .tld o m => some ⟨4, 0x02, ⟨o.st, o.a, o.b, none, o.imm, (unlessDefault m.bitsNoWidth 0x010)⟩⟩
  | .tst o m => some ⟨4, 0x03, ⟨o.st, o.a, o.b, none, o.imm, (unlessDefault m.bitsNoWidth 0x010)⟩⟩
  | .tzero o => some ⟨4, 0x04, ⟨o.st, o.a, 0, none, 0, none⟩⟩
  | .mma o => some ⟨4, 0x05, ⟨o.st, o.a, o.b, (some o.c), o.imm, none⟩⟩
  | .mmag o => some ⟨4, 0x06, ⟨o.st, o.a, o.b, (some o.c), o.imm, none⟩⟩
  | .mmcsr o => some ⟨4, 0x07, ⟨o.st, o.a, o.b, (some o.c), o.imm, none⟩⟩
  | .mmbsr o => some ⟨4, 0x08, ⟨o.st, o.a, o.b, (some o.c), o.imm, none⟩⟩
  | .mmt o => some ⟨4, 0x09, ⟨o.st, o.a, o.b, (some o.c), o.imm, none⟩⟩
  | .accrd o m => some ⟨4, 0x0A, ⟨o.st, o.a, o.b, (some o.c), o.imm, (unlessDefault m.bits 0x3B0)⟩⟩
  | .accwm o => some ⟨4, 0x0B, ⟨o.st, o.a, o.b, none, 0, none⟩⟩
  | .accz o => some ⟨4, 0x0C, ⟨o.st, o.a, 0, none, 0, none⟩⟩
  | .ttr o => some ⟨4, 0x0D, ⟨o.st, o.a, o.b, none, 0, none⟩⟩
  | .ixs o => some ⟨4, 0x0E, ⟨o.st, o.a, o.b, none, 0, none⟩⟩
  | .ixget o => some ⟨4, 0x0F, ⟨o.st, o.a, o.b, (some o.c), o.imm, none⟩⟩
  | .ixst o => some ⟨4, 0x10, ⟨o.st, o.a, o.b, none, 0, none⟩⟩
  | .lra o m => some ⟨5, 0x00, ⟨o.st, o.a, o.b, none, o.imm, (unlessDefault m.bits 0x013)⟩⟩
  | .lrl o m => some ⟨5, 0x01, ⟨o.st, o.a, o.b, none, o.imm, (unlessDefault m.bits 0x013)⟩⟩
  | .lrs o m => some ⟨5, 0x02, ⟨o.st, o.a, o.b, none, o.imm, (unlessDefault m.bits 0x013)⟩⟩
  | .lrg o m => some ⟨5, 0x03, ⟨o.st, o.a, o.b, none, o.imm, (unlessDefault m.bits 0x013)⟩⟩
  | .lrc o m => some ⟨5, 0x04, ⟨o.st, 0, 0, none, 0, (unlessDefault m.bitsNoWidth 0x010)⟩⟩
  | .amouInteger o m => some ⟨5, 0x05, ⟨o.st, o.a, o.b, (some o.c), o.imm, (unlessDefault m.bits 0x010)⟩⟩
  | .amouF32 o m => some ⟨5, 0x05, ⟨o.st, o.a, o.b, (some o.c), o.imm, (unlessDefault (m.bits 0) 0x010)⟩⟩
  | .amouF64 o m => some ⟨5, 0x05, ⟨o.st, o.a, o.b, (some o.c), o.imm, (unlessDefault (m.bits 0) 0x010)⟩⟩
  | .amof o m => some ⟨5, 0x06, ⟨o.st, o.a, o.b, (some o.c), o.imm, (unlessDefault (m.bits 0) 0x010)⟩⟩
  | .nma o => some ⟨5, 0x07, ⟨o.st, o.a, o.b, (some o.c), o.imm, none⟩⟩
  | .pf o m => some ⟨5, 0x08, ⟨o.st, o.a, o.b, none, o.imm, (unlessDefault m.bitsNoWidth 0x010)⟩⟩
  | .wb o m => some ⟨5, 0x09, ⟨o.st, o.a, o.b, none, o.imm, (unlessDefault m.bitsNoWidth 0x010)⟩⟩
  | .inv o m => some ⟨5, 0x0A, ⟨o.st, o.a, o.b, none, o.imm, (unlessDefault m.bitsNoWidth 0x010)⟩⟩
  | .fencx o m => some ⟨5, 0x0B, ⟨o.st, 0, 0, none, 0, (unlessDefault m.bits 0x07F)⟩⟩
  | .rput o m => some ⟨5, 0x0C, ⟨o.st, o.a, o.b, (some o.c), o.imm, (unlessDefault m.bits 0x013)⟩⟩
  | .rget o m => some ⟨5, 0x0D, ⟨o.st, o.a, o.b, (some o.c), o.imm, (unlessDefault m.bits 0x013)⟩⟩
  | .rdep o m => some ⟨5, 0x0E, ⟨o.st, o.a, o.b, (some o.c), o.imm, (unlessDefault m.bits 0x013)⟩⟩
  | .cpy o => some ⟨5, 0x0F, ⟨o.st, o.a, o.b, none, 0, none⟩⟩
  | .cpyw o => some ⟨5, 0x10, ⟨o.st, o.a, o.b, none, 0, none⟩⟩
  | .nredSum o m => some ⟨5, 0x11, ⟨o.st, o.a, o.b, (some o.c), o.imm, (unlessDefault (m.bits 0) 0x004)⟩⟩
  | .nredMin o m => some ⟨5, 0x11, ⟨o.st, o.a, o.b, (some o.c), o.imm, (unlessDefault (m.bits 1) 0x004)⟩⟩
  | .nredMax o m => some ⟨5, 0x11, ⟨o.st, o.a, o.b, (some o.c), o.imm, (unlessDefault (m.bits 2) 0x004)⟩⟩
  | .nredMerge2 o => some ⟨5, 0x11, ⟨o.st, o.a, o.b, (some o.c), o.imm, (some 0x013)⟩⟩
  | .nredw o => some ⟨5, 0x12, ⟨o.st, o.a, o.b, none, 0, none⟩⟩
  | .bmem o => some ⟨6, 0x00, ⟨o.st, o.a, o.b, o.c, 0, none⟩⟩
  | .wlnew o => some ⟨6, 0x01, ⟨o.st, o.a, 0, none, 0, none⟩⟩
  | .wlcfgConfigure o => some ⟨6, 0x02, ⟨o.st, o.a, o.b, (some o.c), o.imm, none⟩⟩
  | .wlcfgFree => none
  | .wlst o => some ⟨6, 0x03, ⟨o.st, o.a, o.b, none, 0, none⟩⟩
  | .ctrsel o => some ⟨6, 0x04, ⟨o.st, o.a, o.b, none, 0, none⟩⟩
  | .ctrrd o => some ⟨6, 0x05, ⟨o.st, o.a, o.b, none, 0, none⟩⟩
  | .ctrarmArm o => some ⟨6, 0x06, ⟨o.st, o.a, o.b, (some o.c), o.imm, none⟩⟩
  | .ctrarmDisarm => none
  | .yield o => some ⟨6, 0x07, ⟨o.st, o.a, o.b, none, 0, none⟩⟩
  | .colopConfigure o => some ⟨6, 0x08, ⟨o.st, o.a, o.b, none, 0, none⟩⟩
  | .colopRead => none
  | .colopSplit => none
  | .colopMerge => none
  | .colopRemove => none
  | .colopHold => none
  | .colopRelease => none
  | .colopAdopt => none
  | .colopDebug => none
  | .colopHalt => none
  | .colopResume => none
  | .colopPeek => none
  | .colopPoke => none
  | .colopColour => none
  | .colopRoot => none
  | .colopControl => none
  | .colopJob => none
  | .colopMulticast => none
  | .ringcfgBind o => some ⟨6, 0x09, ⟨o.st, o.a, o.b, (some o.c), o.imm, none⟩⟩
  | .ringcfgUnbind => none
  | .bdgtRead o => some ⟨6, 0x0A, ⟨o.st, o.a, o.b, none, 0, none⟩⟩
  | .bdgtWrite => none
  | .tslotEntry o => some ⟨6, 0x0B, ⟨o.st, o.a, o.b, none, 0, none⟩⟩
  | .tslotControl => none
  | .dlogStatus o => some ⟨6, 0x0C, ⟨o.st, o.a, o.b, none, 0, none⟩⟩
  | .dlogStart => none
  | .dlogStop => none
  | .dlogLeaveBitmap => none
  | .nmld o => some ⟨6, 0x0D, ⟨o.st, o.a, o.b, o.c, 0, none⟩⟩
  | .tinvPage o => some ⟨6, 0x0E, ⟨o.st, o.a, o.b, none, 0, none⟩⟩
  | .tinvTenant => none
  | .tinvAll => none
  | .wldone => some ⟨6, 0x0F, ⟨0, 0, 0, none, 0, none⟩⟩
  | .trapDelivery => none
  | .timerInterrupt => none
  | .scoutLaunch => none
  | .scoutStop => none
  | .scoutConfigurePush => none
  | .deferredStart => none
  | .dispatchRound => none
  | .matrixRowWrite => none
  | .ixMergeStep => none
  | .registerWindowAccess => none
  | .scratchpadWriteArrival => none
  | .messageAccept => none
  | .overflowRefill => none
  | .sendTimeout => none
  | .reofferNotice => none
  | .sendReoffer => none
  | .depositArrival => none
  | .waitWake => none
  | .bwtReturn => none
  | .l2TagParityError => none
  | .patrolScrub => none
  | .countApply => none
  | .popCheck => none
  | .dminReport => none
  | .taskEndApply => none
  | .popCancel => none
  | .popAnswer => none
  | .nmaRoutine => none
  | .copyCommand => none
  | .followOnIssue => none
  | .combineWindowClose => none
  | .sliceEnd => none
  | .forcedSave => none
  | .loadReissueTimeout => none
  | .colonySaveDone => none
  | .colonyLoad => none
  | .budgetPeriod => none
  | .operatingPoint => none
  | .counterFire => none
  | .ppsEdge => none
  | .timeOfDayMessage => none
  | .ppsLoss => none
  | .reset => none
  | .attestationReport => none
  | .bootRequest => none
  | .timeStatus => none
  | .hostWrite => none
  | .hostRead => none
  | .hostBarrierWrite => none
  | .flitReceive => none
  | .laneFailure => none
  | .laneWidthOrder => none
  | .portDown => none
  | .packetForward => none
  | .remoteRequest => none
  | .remoteAnswer => none
  | .mirrorReport => none
  | .requestTimeout => none
  | .probe => none
  | .probeTimeout => none
  | .peerDownNotice => none
  | .combineHold => none
  | .combineDepart => none
  | .combinedAtHome => none
  | .combSplit => none
  | .reductionCombine => none
  | .reductionResultDeliver => none
  | .uncorrectableError => none
  | .loadValueReturn => none

/-- The value of the low `10·m` or `4 + 10·m` bits of an immediate extended as the shape says (R29). -/
def immWidthFits (signed : Bool) (i : Imm) (w : Nat) : Bool :=
  if signed then (i.setWidth w).signExtend 34 == i else (i.setWidth w).setWidth 34 == i

/-- The fewest PXI words that carry the immediate beside `base` bits of the base word (R14). -/
def pxiCount (signed : Bool) (base : Nat) (i : Imm) : Nat :=
  if immWidthFits signed i base then 0
  else if immWidthFits signed i (base + 10) then 1
  else if immWidthFits signed i (base + 20) then 2
  else 3

/-- The PXI payloads, most significant first (R29). -/
def pxiPayloads (base n : Nat) (i : Imm) : List (BitVec 10) :=
  match n with
  | 0 => []
  | k + 1 => i.extractLsb' (base + 10 * k) 10 :: pxiPayloads base k i

/-- Signedness, base bits, whether a PXI is required and whether a PXR is, by shape (R30). -/
def Shape.layout : Shape → Bool × Nat × Bool × Bool
  | .n => (false, 0, false, false)
  | .i sg => (sg, 4, false, false)
  | .r => (false, 0, false, false)
  | .ri sg => (sg, 4, false, false)
  | .rr _ => (false, 0, false, false)
  | .rx sg needs => (sg, 0, needs, false)
  | .rrr sg => (sg, 0, false, true)

/-- The words of the fields under a shape (R24 to R29): PXP, PXR, PXM, PXI, base. -/
def encodeFields (page major : Nat) (sh : Shape) (f : Fields) : List IWord :=
  let (sg, base, needsI, needsR) := sh.layout
  let n := max (pxiCount sg base f.imm) (if needsI then 1 else 0)
  let hiA := f.a.extractLsb' 4 2
  let hiB := f.b.extractLsb' 4 2
  let pxr : BitVec 10 := f.c.getD 0 ++ hiB ++ hiA
  let hasR := needsR || f.c.isSome || hiA ≠ 0 || hiB ≠ 0
  let b : BitVec 4 := if base = 4 then f.imm.extractLsb' 0 4 else f.b.extractLsb' 0 4
  (if page = 0 then [] else [mkChainWord 0x3C (BitVec.ofNat 10 page)]) ++
  (if hasR then [mkChainWord 0x3D pxr] else []) ++
  (match f.pxm with
    | none => []
    | some p => [mkChainWord 0x3E p]) ++
  (pxiPayloads base n f.imm).map (mkChainWord 0x3F) ++
  [mkWord f.st major (f.a.extractLsb' 0 4) b]

/-- The words of an instruction; none for an event. -/
def encode (i : Instr) : Option (List IWord) :=
  match i.parts with
  | none => none
  | some p =>
    match opcodeMap p.page p.major with
    | none => none
    | some (sh, _) => some (encodeFields p.page p.major sh p.fields)

/-! ### The decoder -/

/-- Decodes one instruction from its words (R38). `none`: the words end before the base word does. -/
def decodeWords (ws : List IWord) : Option (Except DecodeError Instr) :=
  match readChain ws 0 Chain.empty with
  | none => none
  | some (.error e) => some (.error e)
  | some (.ok c) =>
    let pg := match c.page with
      | none => 0
      | some p => p.toNat
    if 6 < pg then some (.error ⟨false, 0, 0, mkChainWord 0x3C (c.page.getD 0)⟩)
    else
      let bad : Option (Except DecodeError Instr) := some (.error ⟨false, pg, c.pos, c.base⟩)
      match opcodeMap pg (wordMajor c.base) with
      | none => bad
      | some (sh, cl) =>
        match extractFields sh cl c with
        | none => bad
        | some f =>
          match buildInstr pg (wordMajor c.base) f with
          | none => bad
          | some i => if i.wf && legal i then some (.ok i) else bad

/-- Two bytes of memory as a word, little-endian (R24). -/
def bytesToWords : List Byte → List IWord
  | lo :: hi :: rest => (hi ++ lo) :: bytesToWords rest
  | _ => []

/-- The bytes of instruction words (R24). -/
def wordsToBytes : List IWord → List Byte
  | [] => []
  | w :: ws => w.extractLsb' 0 8 :: w.extractLsb' 8 8 :: wordsToBytes ws

/-- Decodes any bytes: an instruction with the bytes after it, or a refusal. -/
def decode (bs : List Byte) : Option (Except DecodeError (Instr × List Byte)) :=
  let ws := bytesToWords bs
  match decodeWords (ws.take (fetchLength ws 0)) with
  | none => none
  | some (.error e) => some (.error e)
  | some (.ok i) => some (.ok (i, bs.drop (2 * fetchLength ws 0)))

/-- The words of a table entry: the table writes the first fetched word in its highest bits and the base word in bits
15:0. Log 6 (DEDUCED). -/
def tableWords (nbits w : Nat) : List IWord :=
  let n := (nbits + 15) / 16
  (List.range n).map (fun k => BitVec.ofNat 16 (w / 2 ^ (16 * (n - 1 - k))))

/-- Whether a well-formed instruction fits into one chain: the base word and at most four prefix words (R24, R38). -/
def Instr.fits (i : Instr) : Bool :=
  match encode i with
  | some ws => ws.length ≤ 5
  | none => false

/-- What the decoder reads from a table entry's word. Log 6 (DEDUCED). -/
def decodeTableWord (nbits w : Nat) : Option Instr :=
  match decode (wordsToBytes (tableWords nbits w ++ List.replicate 5 0)) with
  | some (.ok (i, _)) => some i
  | _ => none

end Sys2Proof
end

