-- ==== Sys2Proof/Config.lean ====
section
/-! DEFINITION. What the manual leaves open: free values without a body, so that nothing can be proved from the value
of one, and the few fixed choices that the assumption log names. -/

namespace Sys2Proof.Config

/-- Whether a source operand read before its producer's result is due reads the old value (R44, `ctl.chk` clear):
by strand, issue clk and operand number. Log 11 (DESIGN CHOICE). -/
opaque readsOld : Nat → Nat → Nat → Bool

/-- Which line or entry a full set of a cache gives up (R147, R148, R275, R295 name no policy), by step. Log 12 (DESIGN CHOICE). -/
opaque victim : Nat → Nat

/-- Nanoseconds of package time that pass in a step (R371 gives no figure per instruction). Log 14 (DESIGN CHOICE). -/
opaque nsPerStep : Nat → Nat

/-- Whether a deposit arrives in the clk in which the target's last instruction issued (R158). Log 30 (DESIGN CHOICE). -/
opaque depositSameClk : Nat → Nat → Bool

/-- A value that the manual leaves open, by the number of the drawing. Log 96 (DESIGN CHOICE). -/
opaque freeValue : Nat → BitVec 128

/-- A byte of an `rget` destination whose source package was lost, unspecified by R160. Log 54 (DESIGN CHOICE). -/
opaque lostByte : Nat → Byte

/-- A byte of a memory line whose dirty cached copy was discarded (R280). Log 90 (DESIGN CHOICE). -/
opaque discardedByte : Nat → Byte

/-- Whether a Falcon-1024 signature over a digest is valid under a key digest (R361). Log 23 (DESIGN CHOICE). -/
opaque falconValid : List Byte → List Byte → Bool

/-- The Falcon-1024 signature that the package makes (R360), 1280 bytes. Log 23 (DESIGN CHOICE). -/
opaque falconSign : List Byte → List Byte

/-- The identity public key of the package, and its firmware images as version and bytes (R359). Log 95 (DESIGN CHOICE). -/
opaque identityKey : List Byte
/-- Log 95 (DESIGN CHOICE). -/
opaque firmwareImages : List (Word × List Byte)

/-- Whether the fuses hold the digest of a customer boot key (R361). Log 95 (DESIGN CHOICE). -/
opaque customerKeyFused : Bool

/-- The bundle port that a packet takes, by source strand, destination and virtual channel (R396). Log 95 (DESIGN CHOICE). -/
opaque portHash : Nat → Nat → Nat → Nat

/-- The packages that hold colonies of a pod job, as the fabric is configured (R257). Log 72 (DEDUCED). -/
opaque jobPackages : Nat → List Nat

/-- The operands of a packet whose layout the manual leaves to the device (R399), by its header flit and the bodies of the
others. Log 18 (DESIGN CHOICE). -/
opaque packetOperands : List Byte → List Byte → PacketOp

/-- Whether the far side of a port that goes down had accepted a packet whole (R402), by port, sequence number and step. Log 95 (DESIGN CHOICE). -/
opaque acceptedWhole : Nat → Nat → Nat → Bool

/-- The swarm-engine choice among items of equal key and class (R314). Log 55 (DESIGN CHOICE). -/
opaque itemTie : Nat → Nat

/-- Bytes of a device-defined save block (R377). Log 25 (DESIGN CHOICE). -/
opaque deviceBlock : Nat → Byte

/-- The die engine that takes the Scout's push for a ring (R370), and the path code that a trace ring shows for a write of
the Scout or the controller (R297 lists none). Log 69 (DESIGN CHOICE). -/
opaque scoutEngine : Nat → Nat
/-- Log 69 (DESIGN CHOICE). -/
opaque unitPath : Nat

/-- The gauges of R384, by code and step, and the energy units that a strand's turn takes on an island by the firmware's weights, by island and step (R382). Log 66 (DESIGN CHOICE). -/
opaque gauge : Nat → Nat → Nat
/-- Log 44 (DESIGN CHOICE). -/
opaque energyUsed : Nat → Nat → Nat

/-- The bytes whose digest stands for the configuration (R359), a function of the tables; the version that goes with a boot image's measurement
(R360); the link that a host function's accesses come by (R165). Log 95 (DESIGN CHOICE). -/
opaque configurationBytes : List Byte → List Byte
/-- Log 95 (DESIGN CHOICE). -/
opaque bootVersion : Word
/-- Log 76 (DESIGN CHOICE). -/
opaque hostLink : Nat → Bool

/-- Corrected errors that a patrol scrub meets on a channel (R342), by channel and step. Log 95 (DESIGN CHOICE). -/
opaque correctedErrors : Nat → Nat → Nat

/-- The version of the firmware (R360). Log 95 (DESIGN CHOICE). -/
opaque firmwareVersion : Word

end Sys2Proof.Config
end

