-- ==== Sys2Proof/Machine/Float.lean ====
section
/-! DEFINITION. Number formats, exact values, rounding with its flags, and exact arithmetic (R49 to R62, R121, R122). -/

namespace Sys2Proof.Machine.Float

/-- A floating-point format (R49): width, exponent bits, fraction bits, bias, and whether it has infinities and NaN. -/
structure Format where
  width : Nat
  ebits : Nat
  fbits : Nat
  bias : Nat
  special : Bool
  deriving DecidableEq, Repr

def f64 : Format := ⟨64, 11, 52, 1023, true⟩
def f32 : Format := ⟨32, 8, 23, 127, true⟩
def f16 : Format := ⟨16, 5, 10, 15, true⟩
def bf16 : Format := ⟨16, 8, 7, 127, true⟩
def e4m3 : Format := ⟨8, 4, 3, 7, false⟩
def e5m2 : Format := ⟨8, 5, 2, 15, true⟩
def e2m1 : Format := ⟨4, 2, 1, 1, false⟩

/-- A value: NaN, an infinity, or the sign and magnitude `m * 2^e`; with `sticky` the magnitude lies strictly between
`m * 2^e` and `(m + 1) * 2^e`. -/
inductive Value where
  | nan
  | inf (neg : Bool)
  | fin (neg : Bool) (m : Nat) (e : Int) (sticky : Bool)
  deriving DecidableEq, Repr

/-- Sticky flags of `fexc` (R86). -/
def fNx : Nat := 1
def fUf : Nat := 2
def fOf : Nat := 4
def fDz : Nat := 8
def fNv : Nat := 16
def fCinexact : Nat := 32
def fUnred : Nat := 64

/-- The value that an element encodes (R50), reserved codes read as their substitutes (R51). -/
def decode (f : Format) (code : Nat) : Value :=
  let c := code % 2 ^ f.width
  let neg := c / 2 ^ (f.width - 1) = 1
  let ex := c / 2 ^ f.fbits % 2 ^ f.ebits
  let fr := c % 2 ^ f.fbits
  if f.special && ex = 2 ^ f.ebits - 1 then (if fr = 0 then .inf neg else .nan)
  else if ex = 0 then
    (if f = e2m1 && fr = 0 then .fin false 0 0 false else .fin neg fr (1 - (f.bias : Int) - f.fbits) false)
  else if f = e4m3 && ex = 15 && fr = 7 then .fin neg 14 5 false
  else .fin neg (2 ^ f.fbits + fr) ((ex : Int) - f.bias - f.fbits) false

/-- The canonical NaN (R52); formats without one give +0 (R56). -/
def canonicalNaN (f : Format) : Nat :=
  if f.special then (2 ^ f.ebits - 1) * 2 ^ f.fbits + 2 ^ (f.fbits - 1) else 0

/-- The code of an infinity. -/
def infCode (f : Format) (neg : Bool) : Nat :=
  (if neg then 2 ^ (f.width - 1) else 0) + (2 ^ f.ebits - 1) * 2 ^ f.fbits

/-- The code of the largest finite magnitude (R49). -/
def maxCode (f : Format) : Nat :=
  if f.special then (2 ^ f.ebits - 1) * 2 ^ f.fbits - 1
  else if f = e4m3 then 0x7E else 0x7

/-- Number of bits of a magnitude. -/
def bitLength (m : Nat) : Nat := if m = 0 then 0 else Nat.log2 m + 1

/-- Whether the magnitude goes up to the next step: `d` of `2^sh` is discarded below an integer part `t` (R55, R61). `w` is
the drawn word of stochastic rounding. Mode 5 is handled by the caller. -/
def roundsUp (mode w : Nat) (neg : Bool) (t d sh : Nat) (sticky : Bool) : Bool :=
  let half := 2 * d = 2 ^ sh
  let beyond := 2 * d > 2 ^ sh
  match mode with
  | 0 => beyond || (half && (sticky || t % 2 = 1))
  | 2 => neg && (d > 0 || sticky)
  | 3 => !neg && (d > 0 || sticky)
  | 4 => beyond || half
  | 6 =>
    let r := min sh 24
    let dk := d >>> (sh - r)
    (d > 0 || sticky) && w % 2 ^ r + dk ≥ 2 ^ r
  | _ => false

/-- A magnitude `m * 2^e` rounded to a whole number of steps `2^q`: the count of steps and whether it is exact. -/
def toSteps (mode w : Nat) (neg : Bool) (m : Nat) (e q : Int) (sticky : Bool) : Nat × Bool :=
  if q ≤ e then (m <<< (e - q).toNat, !sticky)
  else
    let sh := (q - e).toNat
    let t := m >>> sh
    let d := m % 2 ^ sh
    let exact := d = 0 && !sticky
    if exact then (t, true)
    else if mode = 5 then (t ||| 1, false)
    else (if roundsUp mode w neg t d sh sticky then t + 1 else t, false)

/-- The result of overflow (R56). -/
def overflow (f : Format) (mode : Nat) (neg : Bool) : Nat :=
  let s := if neg then 2 ^ (f.width - 1) else 0
  let toInf := match mode with
    | 0 => true
    | 4 => true
    | 2 => neg
    | 3 => !neg
    | _ => false
  if f.special && toInf then infCode f neg else s + maxCode f

/-- `Round(x, f, m)` as the code of the result and the flags (R55 to R57, R61). Mode codes are those of R55 with `dyn`
already replaced; `w` is the rotated seed word of R61, used by mode 6 alone. Log 109 (DESIGN CHOICE). -/
def round (f : Format) (mode w : Nat) (x : Value) : Nat × Nat :=
  match x with
  | .nan => (canonicalNaN f, if f.special then 0 else fNv)
  | .inf neg =>
    if f.special then (infCode f neg, 0)
    else ((if neg then 2 ^ (f.width - 1) else 0) + maxCode f, fNv)
  | .fin neg m e sticky =>
    let s := if neg then 2 ^ (f.width - 1) else 0
    if m = 0 && !sticky then (if f = e2m1 then 0 else s, 0)
    else
      let lead := e + bitLength m - 1
      let emin : Int := 1 - (f.bias : Int)
      let q := max lead emin - f.fbits
      let (t, exact) := toSteps mode w neg m e q sticky
      let top := if f.special then 2 ^ (f.fbits + 1) - 1 else if f = e4m3 then 14 else 3
      let qmax : Int := if f.special then 2 ^ f.ebits - 2 - (f.bias : Int) - f.fbits else if f = e4m3 then 5 else 1
      let big := if q ≥ qmax then t <<< (q - qmax).toNat > top else t > top <<< (qmax - q).toNat
      if big then (overflow f mode neg, fOf + fNx)
      else
        let tiny := lead < emin &&
          (let q2 := lead - f.fbits
           let (t2, _) := toSteps mode w neg m e q2 sticky
           t2 < 2 ^ (emin - q2).toNat)
        let flags := if exact then 0 else if tiny then fUf + fNx else fNx
        let code :=
          if t < 2 ^ f.fbits then t
          else if t ≥ 2 ^ (f.fbits + 1) then
            (q + f.fbits + f.bias + 1).toNat * 2 ^ f.fbits + (t / 2 - 2 ^ f.fbits)
          else (q + f.fbits + f.bias).toNat * 2 ^ f.fbits + (t - 2 ^ f.fbits)
        (if f = e2m1 && code = 0 then 0 else s + code, flags)

/-- Rounding into an integer type of `w` bits (R58): the result as a bit pattern of that width and the flags. -/
def roundInt (width : Nat) (signed : Bool) (mode w : Nat) (x : Value) : Nat × Nat :=
  let lo : Int := if signed then -(2 ^ (width - 1)) else 0
  let hi : Int := if signed then 2 ^ (width - 1) - 1 else 2 ^ width - 1
  let pat := fun (i : Int) => (i % 2 ^ width).toNat
  match x with
  | .nan => (0, fNv)
  | .inf neg => (pat (if neg then lo else hi), fNv)
  | .fin neg m e sticky =>
    let (t, exact) := toSteps mode w neg m e 0 sticky
    let v : Int := if neg then -(t : Int) else t
    if v < lo then (pat lo, fNv)
    else if v > hi then (pat hi, fNv)
    else (pat v, if exact then 0 else fNx)

/-- The value of an integer of `w` bits, signed or not. -/
def ofInt (i : Int) : Value := .fin (i < 0) i.natAbs 0 false

/-- An integer pattern as a number. -/
def patInt (width : Nat) (signed : Bool) (p : Nat) : Int :=
  let u := p % 2 ^ width
  if signed && u ≥ 2 ^ (width - 1) then (u : Int) - 2 ^ width else u

/-- A value with the opposite sign. -/
def neg : Value → Value
  | .nan => .nan
  | .inf s => .inf (!s)
  | .fin s m e k => .fin (!s) m e k

/-- The exact sum of two finite magnitudes with signs; an exact zero is +0, or −0 under `rdn` (R121). Log 105 (DESIGN CHOICE). -/
def addFin (mode : Nat) (s1 : Bool) (m1 : Nat) (e1 : Int) (s2 : Bool) (m2 : Nat) (e2 : Int) : Value :=
  if m1 = 0 && m2 = 0 then .fin (if s1 = s2 then s1 else mode = 2) 0 0 false
  else
    let e := min e1 e2
    let a : Int := (m1 : Int) * 2 ^ (e1 - e).toNat
    let b : Int := (m2 : Int) * 2 ^ (e2 - e).toNat
    let v := (if s1 then -a else a) + (if s2 then -b else b)
    if v = 0 then .fin (mode = 2) 0 0 false else .fin (v < 0) v.natAbs e false

/-- `x + y` with the flags of R57 and R121. -/
def add (mode : Nat) : Value → Value → Value × Nat
  | .nan, _ => (.nan, 0)
  | _, .nan => (.nan, 0)
  | .inf a, .inf b => if a = b then (.inf a, 0) else (.nan, fNv)
  | .inf a, _ => (.inf a, 0)
  | _, .inf b => (.inf b, 0)
  | .fin s1 m1 e1 _, .fin s2 m2 e2 _ => (addFin mode s1 m1 e1 s2 m2 e2, 0)

def isZero : Value → Bool
  | .fin _ 0 _ false => true
  | _ => false

def isNeg : Value → Bool
  | .nan => false
  | .inf s => s
  | .fin s .. => s

/-- `x × y` (R121). -/
def mul : Value → Value → Value × Nat
  | .nan, _ => (.nan, 0)
  | _, .nan => (.nan, 0)
  | .inf a, y => if isZero y then (.nan, fNv) else (.inf (a != isNeg y), 0)
  | x, .inf b => if isZero x then (.nan, fNv) else (.inf (isNeg x != b), 0)
  | .fin s1 m1 e1 _, .fin s2 m2 e2 _ => (.fin (s1 != s2) (m1 * m2) (e1 + e2) false, 0)

/-- `a + b × c` before its one rounding; `0 × ∞` sets `nv` whatever the addend (R121). -/
def fma (mode : Nat) (a b c : Value) : Value × Nat :=
  let (p, fl) := mul b c
  if fl ≠ 0 then (.nan, fl)
  else add mode a p

/-- `x ÷ y` (R121). -/
def div : Value → Value → Value × Nat
  | .nan, _ => (.nan, 0)
  | _, .nan => (.nan, 0)
  | .inf a, .inf _ => let _ := a; (.nan, fNv)
  | .inf a, y => (.inf (a != isNeg y), 0)
  | x, .inf b => (.fin (isNeg x != b) 0 0 false, 0)
  | .fin s1 m1 e1 _, .fin s2 m2 e2 _ =>
    if m2 = 0 then (if m1 = 0 then (.nan, fNv) else (.inf (s1 != s2), fDz))
    else if m1 = 0 then (.fin (s1 != s2) 0 0 false, 0)
    else
      let n := m1 <<< 256
      (.fin (s1 != s2) (n / m2) (e1 - e2 - 256) (n % m2 != 0), 0)

/-- Bits of the integer square root, from bit `i` down. -/
def isqrtBits (n : Nat) : Nat → Nat → Nat
  | 0, acc => acc
  | i + 1, acc =>
    let c := acc + 2 ^ i
    isqrtBits n i (if c * c ≤ n then c else acc)

/-- The integer square root. -/
def isqrt (n : Nat) : Nat := isqrtBits n (bitLength n / 2 + 1) 0

/-- The square root; a value below −0 is invalid, √−0 is −0 (R121). -/
def sqrt : Value → Value × Nat
  | .nan => (.nan, 0)
  | .inf false => (.inf false, 0)
  | .inf true => (.nan, fNv)
  | .fin s m e _ =>
    if m = 0 then (.fin s 0 0 false, 0)
    else if s then (.nan, fNv)
    else
      let (m', e') := if e % 2 = 0 then (m, e) else (2 * m, e - 1)
      let n := m' <<< 256
      let r := isqrt n
      (.fin false r (e' / 2 - 128) (r * r != n), 0)

/-- The order of two values that are not NaN: whether the first is below the second, and whether they are equal;
−0 equals +0 (R123). -/
def compare : Value → Value → Bool × Bool
  | .inf a, .inf b => (a && !b, a == b)
  | .inf a, _ => (a, false)
  | _, .inf b => (!b, false)
  | .fin s1 m1 e1 _, .fin s2 m2 e2 _ =>
    let e := min e1 e2
    let a : Int := (if s1 then -1 else 1) * (m1 : Int) * 2 ^ (e1 - e).toNat
    let b : Int := (if s2 then -1 else 1) * (m2 : Int) * 2 ^ (e2 - e).toNat
    (a < b, a = b)
  | _, _ => (false, false)

/-- Whether the first operand is the smaller one, −0 below +0 (R122). -/
def below (x y : Value) : Bool :=
  let (lt, eq) := compare x y
  lt || (eq && isNeg x && !isNeg y)

/-- `fmin` and `fmax` on values (R122). -/
def minimum : Value → Value → Value
  | .nan, y => y
  | x, .nan => x
  | x, y => if below y x then y else x

def maximum : Value → Value → Value
  | .nan, y => y
  | x, .nan => x
  | x, y => if below x y then y else x

/-- The mask that `fclass` writes (R124). -/
def classBit (f : Format) : Value → Nat
  | .nan => 8
  | .inf true => 0
  | .inf false => 7
  | .fin s m e _ =>
    if m = 0 then (if s then 3 else 4)
    else
      let sub := e + bitLength m - 1 < 1 - (f.bias : Int)
      if s then (if sub then 2 else 1) else (if sub then 5 else 6)

/-! Special functions (R66). -/

/-- Fixed-point fraction bits used for `vexp2` and `vlog2`. -/
def fixBits : Nat := 384

/-- Terms of ln 2 = Σ 1 / (k 2^k), in fixed point. -/
def ln2Terms : Nat → Nat → Nat
  | 0, _ => 0
  | n + 1, k => 2 ^ fixBits / (k * 2 ^ k) + ln2Terms n (k + 1)

def ln2 : Nat := ln2Terms 380 1

/-- Terms of Σ y^k / k! in fixed point, from term `t`. -/
def expTerms : Nat → Nat → Nat → Nat → Nat
  | 0, _, _, _ => 0
  | n + 1, k, t, y => t + expTerms n (k + 1) (t * y / (k * 2 ^ fixBits)) y

/-- 2^x for a finite x = ±m 2^e (R66). -/
def exp2Fin (s : Bool) (m : Nat) (e : Int) : Value :=
  if m = 0 then .fin false 1 0 false
  else if e ≥ 0 && bitLength m + e.toNat > 40 then
    (if s then .fin false 1 (-1000000) true else .fin false 1 1000000 false)
  else if (e + bitLength m : Int) < -200 then
    (if s then .fin false (2 ^ 300 - 1) (-300) true else .fin false (2 ^ 300) (-300) true)
  else
    let whole : Int := if e ≥ 0 then (m : Int) * 2 ^ e.toNat else (m : Int) / 2 ^ (-e).toNat
    let frac : Nat := if e ≥ 0 then 0 else m % 2 ^ (-e).toNat
    if whole > 100000 then
      (if s then .fin false 1 (-1000000) true else .fin false 1 1000000 false)
    else if frac = 0 then .fin false 1 (if s then -whole else whole) false
    else
      let fx := (frac <<< fixBits) / 2 ^ (-e).toNat
      let (n, y) := if s then (-whole - 1, 2 ^ fixBits - fx) else (whole, fx)
      .fin false (expTerms 100 1 (2 ^ fixBits) (y * ln2 / 2 ^ fixBits)) (n - fixBits) true

/-- Terms of 2 Σ z^(2k+1) / (2k+1), in fixed point, from z^(2k+1). -/
def atanhTerms : Nat → Nat → Nat → Nat → Nat
  | 0, _, _, _ => 0
  | n + 1, k, t, zz => 2 * t / (2 * k + 1) + atanhTerms n (k + 1) (t * zz / 2 ^ fixBits) zz

/-- log2 of a positive finite m 2^e (R66). -/
def log2Fin (m : Nat) (e : Int) : Value :=
  let len := bitLength m
  let lead := e + len - 1
  if m = 2 ^ (len - 1) then .fin (lead < 0) lead.natAbs 0 false
  else
    let up := 2 * m ≥ 3 * 2 ^ (len - 1)
    let d := if up then 2 ^ len else 2 ^ (len - 1)
    let ex := if up then lead + 1 else lead
    let ng := m < d
    let z := ((if ng then d - m else m - d) <<< fixBits) / (m + d)
    let l := (atanhTerms 130 0 z (z * z / 2 ^ fixBits) <<< fixBits) / ln2
    let v : Int := ex * 2 ^ fixBits + (if ng then -(l : Int) else l)
    .fin (v < 0) v.natAbs (-(fixBits : Int)) true

/-- Log 24 (DEDUCED). -/
def exp2 : Value → Value × Nat
  | .nan => (.nan, 0)
  | .inf true => (.fin false 0 0 false, 0)
  | .inf false => (.inf false, 0)
  | .fin s m e _ => (exp2Fin s m e, 0)

/-- Log 24 (DEDUCED). -/
def log2 : Value → Value × Nat
  | .nan => (.nan, 0)
  | .inf true => (.nan, fNv)
  | .inf false => (.inf false, 0)
  | .fin s m e _ => if m = 0 then (.inf true, fDz) else if s then (.nan, fNv) else (log2Fin m e, 0)

/-- Log 24 (DEDUCED). -/
def rcp : Value → Value × Nat
  | .nan => (.nan, 0)
  | .inf s => (.fin s 0 0 false, 0)
  | .fin s m e k => if m = 0 then (.inf s, fDz) else div (.fin false 1 0 false) (.fin s m e k)

/-- Log 24 (DEDUCED). -/
def rsq : Value → Value × Nat
  | .nan => (.nan, 0)
  | .inf true => (.nan, fNv)
  | .inf false => (.fin false 0 0 false, 0)
  | .fin s m e _ =>
    if m = 0 then (.inf s, fDz)
    else if s then (.nan, fNv)
    else
      let (m', e') := if e % 2 = 0 then (m, e) else (2 * m, e - 1)
      let n := 2 ^ 1024
      let r := isqrt (n / m')
      (.fin false r (-(e' / 2) - 512) (r * r * m' != n), 0)

/-- The rounding of a special function (R66): to nearest, the mode deciding only an overflow. Log 24 (DEDUCED). Log 106 (DESIGN CHOICE). -/
def roundSpecial (f : Format) (mode : Nat) (x : Value) : Nat × Nat :=
  let (c, fl) := round f 0 0 x
  match x with
  | .fin neg _ _ _ => if fl &&& fOf ≠ 0 then (overflow f mode neg, fl) else (c, fl)
  | _ => (c, fl)

end Sys2Proof.Machine.Float
end

