-- ==== Sys2Proof/Machine/Cap.lean ====
section
/-! DEFINITION. Capabilities: the fields of R73, bounds of R74, permissions and kinds of R75 and R76. -/

namespace Sys2Proof.Machine

/-- Bits of a register as a number. -/
def bitsAt (q : Quad) (lo n : Nat) : Nat := (q.toNat >>> lo) % 2 ^ n

/-- Bit `i` of a word. -/
def bitAt (w : Word) (i : Nat) : Bool := (w.toNat >>> i) % 2 = 1

/-- A field of a word as a number. -/
def fieldAt (w : Word) (lo n : Nat) : Nat := (w.toNat >>> lo) % 2 ^ n

/-- A word with a field replaced. -/
def putField (w : Word) (lo n v : Nat) : Word :=
  BitVec.ofNat 64 (w.toNat - fieldAt w lo n * 2 ^ lo + (v % 2 ^ n) * 2 ^ lo)

/-- A word with one bit replaced. -/
def putBit (w : Word) (i : Nat) (b : Bool) : Word := putField w i 1 (cond b 1 0)

namespace Cap

/-- The cursor (R73). -/
def cursor (c : Quad) : Nat := bitsAt c 0 48
/-- The step exponent E that the code stands for (R73). -/
def exponent (c : Quad) : Nat := if bitsAt c 48 5 = 31 then 32 else bitsAt c 48 5
/-- The base mantissa (R73). -/
def bm (c : Quad) : Nat := bitsAt c 53 16
/-- The top mantissa (R73). -/
def tm (c : Quad) : Nat := bitsAt c 69 16
/-- The permission bits (R75). -/
def perms (c : Quad) : BitVec 12 := BitVec.ofNat 12 (bitsAt c 85 12)
/-- The tenant id (R73). -/
def tenant (c : Quad) : BitVec 12 := BitVec.ofNat 12 (bitsAt c 97 12)
/-- The kind (R76). -/
def kind (c : Quad) : Nat := bitsAt c 109 3

/-- The base address (R74); below zero when out of range. -/
def base (c : Quad) : Int :=
  let i := cursor c >>> exponent c
  ((i : Int) - (((i : Int) - bm c) % 65536)) * 2 ^ exponent c

/-- The length in steps, 1 to 2^16 (R74). -/
def steps (c : Quad) : Int := ((tm c : Int) - bm c - 1) % 65536 + 1

/-- The top address (R74). -/
def top (c : Quad) : Int := base c + steps c * 2 ^ exponent c

/-- Whether a cursor is in range for the bounds of a capability (R74). -/
def inRangeOf (c : Quad) (a : Nat) : Bool :=
  0 ≤ base c && base c ≤ a && (a : Int) ≤ top c && top c ≤ 2 ^ 48 && (a : Int) < base c + 2 ^ (exponent c + 16)

/-- Whether a capability is in range (R74). -/
def inRange (c : Quad) : Bool := inRangeOf c (cursor c)

/-- The capability with another cursor; nothing else changes. -/
def withCursor (c : Quad) (a : Nat) : Quad :=
  BitVec.ofNat 128 ((c.toNat / 2 ^ 48) * 2 ^ 48 + a % 2 ^ 48)

/-- The capability with another kind (R76, `Install` of R136). -/
def withKind (c : Quad) (k : Nat) : Quad :=
  BitVec.ofNat 128 (c.toNat - kind c * 2 ^ 109 + (k % 8) * 2 ^ 109)

/-- The capability with other permissions. -/
def withPerms (c : Quad) (p : BitVec 12) : Quad :=
  BitVec.ofNat 128 (c.toNat - (perms c).toNat * 2 ^ 85 + p.toNat * 2 ^ 85)

/-- Adds to the cursor modulo 2^48 without any range test, as a memory operand does (R108). -/
def offset (c : Quad) (d : Int) : Quad := withCursor c (((cursor c : Int) + d) % 2 ^ 48).toNat

/-- A capability from its fields. -/
def make (kind : Nat) (tenant : BitVec 12) (perms : BitVec 12) (tm bm ex cursor : Nat) : Quad :=
  BitVec.ofNat 128 (((((kind % 8 * 2 ^ 12 + tenant.toNat) * 2 ^ 12 + perms.toNat) * 2 ^ 16 + tm % 2 ^ 16) * 2 ^ 16 +
    bm % 2 ^ 16) * 2 ^ 5 + ex % 2 ^ 5) <<< 48 ||| BitVec.ofNat 128 (cursor % 2 ^ 48)

/-- Permission masks (R75). -/
def ld : BitVec 12 := 1
def st : BitVec 12 := 2
def x : BitVec 12 := 4
def lc : BitVec 12 := 8
def sc : BitVec 12 := 16
def atm : BitVec 12 := 32
def ec : BitVec 12 := 64
def dp : BitVec 12 := 128
def wl : BitVec 12 := 256
def br : BitVec 12 := 512
def gl : BitVec 12 := 1024
def mt : BitVec 12 := 2048

/-- Whether a capability carries all of a permission set. -/
def has (c : Quad) (p : BitVec 12) : Bool := perms c &&& p = p

/-- Kinds (R76). -/
def kMemory : Nat := 0
def kEntry : Nat := 1
def kQueue : Nat := 2
def kWorklist : Nat := 3
def kStrand : Nat := 4
def kGroup : Nat := 5
def kTile : Nat := 6
def kMulticast : Nat := 7

/-- Whether an authority `m` allows a template `t` (R129), the authority's own kind and permission aside. -/
def mintable (m t : Quad) : Bool :=
  bitsAt t 112 16 = 0 && tenant t = tenant m && has m (perms t) && base m ≤ base t && top t ≤ top m && inRange t

end Cap
end Sys2Proof.Machine
end

