-- ==== Sys2Proof/Machine/Sparse.lean ====
section
/-! DEFINITION. Sparse data by key: a list of key and value pairs, the keys rising, no entry equal to what an unlisted
key reads as. Memory, register files and the per-unit state of the package are held this way, so that equal states are
equal data. -/

namespace Sys2Proof.Machine

/-- Values by key; a key that is not listed reads as a default named at the read. -/
abbrev SMap (α : Type) := List (Nat × α)

/-- The value at a key. -/
def lookupD {α : Type} (d : α) : SMap α → Nat → α
  | [], _ => d
  | (a, v) :: m, k => if k = a then v else lookupD d m k

/-- Puts an entry at its place, replacing one with the same key. -/
def insertAt {α : Type} (k : Nat) (v : α) : SMap α → SMap α
  | [] => [(k, v)]
  | (a, w) :: m =>
    if k < a then (k, v) :: (a, w) :: m
    else if k = a then (k, v) :: m
    else (a, w) :: insertAt k v m

/-- Removes every entry with the key. -/
def removeAt {α : Type} (k : Nat) : SMap α → SMap α
  | [] => []
  | (a, w) :: m => if k = a then removeAt k m else (a, w) :: removeAt k m

/-- Writes a key. Writing the default removes the entry, which keeps the form canonical. -/
def storeAt {α : Type} [DecidableEq α] (d : α) (k : Nat) (v : α) (m : SMap α) : SMap α :=
  if v = d then removeAt k m else insertAt k v m

/-- Every key of the list lies above `lo`, and the keys rise. -/
def risingFrom {α : Type} : Nat → SMap α → Bool
  | _, [] => true
  | lo, (a, _) :: m => lo ≤ a && risingFrom (a + 1) m

/-- The canonical form: keys rising, no entry equal to the default. -/
def canonical {α : Type} [DecidableEq α] (d : α) (m : SMap α) : Bool :=
  risingFrom 0 m && m.all (fun e => e.2 != d)

/-- `n` values from key `k` upwards. -/
def lookupRange {α : Type} (d : α) (m : SMap α) (k : Nat) : Nat → List α
  | 0 => []
  | n + 1 => lookupD d m k :: lookupRange d m (k + 1) n

/-- Writes the values from key `k` upwards. -/
def storeRange {α : Type} [DecidableEq α] (d : α) (k : Nat) : List α → SMap α → SMap α
  | [], m => m
  | v :: vs, m => storeRange d (k + 1) vs (storeAt d k v m)

end Sys2Proof.Machine
end

