-- ==== Sys2Proof/Machine/State.lean ====
section
/-! DEFINITION. The state of one package as plain data: strands, cores, quads, dies and the package's own units, with
the memory they share. Everything the manual names is here; what the model adds for itself says so. -/

namespace Sys2Proof.Machine

/-- Reasons for the machine to stop. Log 94 (DEDUCED). -/
inductive Fault where
  /-- A machine check that no control strand can take (R366): the manual says the package stops. Raised where a machine
  check is delivered. Safe. -/
  | machineCheckStop
  deriving DecidableEq, Repr

/-- Reasons for having no meaning. -/
inductive Refusal where
  /-- The instruction has no meaning in the model yet. Raised by the dispatcher only. Safe. -/
  | notModelled (mnemonic : String)
  deriving DecidableEq, Repr

/-- Privilege modes (R80). -/
inductive Mode where
  | user
  | supervisor
  | hypervisor
  deriving DecidableEq, Repr

/-- The code of a mode in bits 1:0 of the CSR (R80). -/
def Mode.num : Mode → Nat
  | .user => 0
  | .supervisor => 1
  | .hypervisor => 2

/-- The role that runs an instruction (R46). -/
inductive Role where
  | access
  | execute
  | joint
  deriving DecidableEq, Repr

/-- A link record that a resident caller left (R70, R106, R140): the return PCC, its frame size, the overlap with the
frame it called, and its own origin and overlap. Log 27 (DEDUCED). -/
structure Link where
  pcc : Reg
  f : Nat
  o : Nat
  origin : Nat
  overlap : Nat
  kept : Bool
  deriving DecidableEq, Repr

/-- The register window (R69 to R71): `links` holds the link records of resident callers, newest first; `origin` and
`overlap` belong to the current frame, and `kept` tells whether the ring still holds what lies between its origin and its base;
`hidden` keeps size, origin and overlap of spilled frames, newest first. -/
structure Window where
  base : Nat
  frame : Nat
  depth : Nat
  spill : Reg
  origin : Nat
  overlap : Nat
  kept : Bool
  links : List Link
  hidden : List (Nat × Nat × Nat)
  deriving DecidableEq, Repr

/-- The trap registers of one mode (R81). -/
structure TrapRegs where
  tvec : Reg
  epc : Reg
  cause : Word
  val : Word
  deriving DecidableEq, Repr

/-- A fixed-latency result not yet due (R44): the register it goes to, when it is due, and the value before it. -/
structure Hazard where
  file : Nat
  num : Nat
  role : Role
  ready : Nat
  old : List Word
  deriving DecidableEq, Repr

/-- Vector, mask and modular state of a strand (R168, R176, R205, R60). Lane data is keyed by
register number times 64 plus lane position. -/
structure VecState where
  lanes : List Nat
  demand : Nat
  vlen : Nat
  vstart : Nat
  v : SMap Word
  k : SMap (BitVec 512)
  mq : SMap Word
  mc : SMap Word
  seeds : SMap (BitVec 32)
  deriving DecidableEq, Repr

/-- Tiles, accumulators and watermarks of a strand (R220 to R225). -/
structure MatrixState where
  tiles : SMap Byte
  descs : SMap (BitVec 32)
  accs : SMap (BitVec 32)
  marks : SMap Word
  deriving DecidableEq, Repr

/-- An intersection stream (R251 to R255): the lists, their lengths, the merge position with the elements read there, the
buffered pairs oldest first, the positions after the last delivered pair, and the error that stopped it. -/
structure Stream where
  capA : Reg
  capB : Reg
  n1 : Nat
  n2 : Nat
  i : Nat
  j : Nat
  headA : Option Nat
  headB : Option Nat
  pairs : List (Nat × Nat)
  nextA : Nat
  nextB : Nat
  stopped : Option (BitVec 8 × Word)
  deriving DecidableEq, Repr

/-- The state of a strand's single-line region (R285). -/
inductive RegionState where
  | none
  | opened
  | lost
  deriving DecidableEq, Repr

/-- A recorded component of a region (R286): physical addresses, and a physical register as a load's destination. -/
inductive Component where
  | load (pa k : Nat) (sx : Bool) (dst : Nat)
  | store (pa : Nat) (bytes : List Byte)
  | guard (pa : Nat) (bytes : List Byte)
  deriving DecidableEq, Repr

/-- A strand's single-line region (R285): the physical register of its result, the line's tenant-virtual address and its
global physical one, the tenant of the capability, whether the page is mirrored (R406), and the components in order. `known` is false for a lost region of which a
save image has kept nothing. -/
structure Region where
  state : RegionState
  known : Bool
  result : Nat
  line : Nat
  pa : Nat
  tenant : BitVec 12
  mirrored : Bool
  comps : List Component
  deriving DecidableEq, Repr

/-- No region. -/
def Region.none : Region :=
  { state := .none, known := false, result := 0, line := 0, pa := 0, tenant := 0, mirrored := false, comps := [] }

/-- The answer of another package to an operation of the strand, as it stands when the instruction that asked for it is
tried again (R404). -/
structure Answer where
  txn : Nat
  op : PacketOp
  data : List Byte
  tag : Bool
  deriving DecidableEq, Repr

/-- Debugger state of a strand (R144, R366): attached, whether a fault has stopped the role that runs while the other is halted,
and what a halt holds back. -/
structure DebugState where
  attached : Bool
  stuck : Bool
  held : List (BitVec 8 × Word)
  deriving DecidableEq, Repr

/-- What a role that runs on while the other is halted has handed to the halted one (R89, R90, R144): the PCC of the first
instruction handed, at which the halted role stands, the
physical registers that the handed instructions write and those they read from their own role's file, and the registers
of other files that they name. -/
structure Ahead where
  halted : Role
  start : Option Reg
  writes : BitVec 256
  reads : BitVec 256
  others : List (Nat × Nat)
  deriving DecidableEq, Repr

/-- How the two roles of a strand have come apart (R89): one runs on ahead of a halted one (R144), or the strand was restored
from an image in which they stand at different points, where `lag` has yet to come to the other's point (R142). -/
inductive Apart where
  | ahead (a : Ahead)
  | behind (lag : Role) (point : Nat)
  deriving DecidableEq, Repr

/-- A load that a forced save recorded for reissue (R143). -/
abbrev Reissue := BitVec 128

/-- A popped task that the strand holds (R324, R326). -/
structure Task where
  id : TaskId
  deriving DecidableEq, Repr

/-- The home's answer to a pop (R324): an item with its bound and redirect count, quiescent, dry, or a fault (a broken
instance, or no answer);
`interrupted` ends the pop of a `yield` (R328). -/
inductive PopAnswer where
  | commit (key cls bound redirects : Nat) (arg : Reg)
  | quiescent (redirects : Nat)
  | dry (redirects : Nat)
  | interrupted (redirects : Nat)
  | failed (code : BitVec 8)
  deriving DecidableEq, Repr

/-- A `pop`, or the pop of a `yield`, that waits (R324): its instance, its first destination register, whether a cancel
is on its way, the transaction towards another package's home, and the answer on its way to the strand. -/
structure PopReq where
  pkg : Nat
  home : Nat
  slot : Nat
  gen : Nat
  dst : Nat
  yielding : Bool
  cancel : Bool
  txn : Nat
  answer : Option PopAnswer
  deriving DecidableEq, Repr

/-- A pop as its home knows it (R320 to R324): the popper's whole sid, its transaction, the tasks of the instance that it
holds, its colony, the engine it is at, redirects, checks so far, the number of engines at the first check, the best
candidate key seen, and whether that engine is being asked in another package. -/
structure Pop where
  sid : Nat
  txn : Nat
  held : Nat
  colony : Nat
  engine : Nat
  redirects : Nat
  checks : Nat
  dies : Nat
  best : Option Nat
  asking : Bool
  deriving DecidableEq, Repr

/-- One strand (R67): what the save image holds, and what the model needs between instructions. -/
structure Strand where
  live : Bool
  pcc : Reg
  mode : Mode
  tid : BitVec 12
  status : Word
  ctl : Word
  cycle : Word
  instret : Word
  timecmp : Word
  utrap : TrapRegs
  strap : TrapRegs
  htrap : TrapRegs
  uval2 : Word
  win : Window
  regs : SMap Reg
  eOwned : BitVec 256
  copies : BitVec 256
  frm : Word
  fexc : Word
  wlbound : Word
  wlstat : Word
  rqovf : Reg
  sndto : Word
  depcol : Word
  felem : Nat
  faddr : Word
  vec : VecState
  mtx : MatrixState
  stream : Option Stream
  region : Region
  monitor : BitVec 1024
  wake : Bool
  inbox : List Message
  areaFull : Bool
  members : BitVec 128
  arrived : BitVec 128
  syncing : BitVec 128
  inSync : Bool
  redTerms : BitVec 128
  redOpen : SMap Nat
  redStatus : SMap Word
  tasks : List TaskId
  -- queues between the two roles, and how the roles stand to each other (R89)
  lq : List Reg
  sq : List Reg
  xq : List Reg
  bqAE : List Word
  bqEA : List Word
  apart : Option Apart
  reissue : List Reissue
  -- the instruction being executed and the model's own bookkeeping
  ir : List IWord
  role : Role
  operands : List (Nat × Reg)
  clk : Nat
  holding : Option Nat
  inflight : List Hazard
  pending : List (BitVec 8 × Word)
  asleep : Bool
  gangFault : Option (BitVec 8 × Word)
  gangIssued : Bool
  answers : List Answer
  asked : List Nat
  opIndex : Nat
  named : List Nat
  refusedAt : Option Nat
  reoffer : Bool
  pop : Option PopReq
  doomed : Bool
  dropped : List (BitVec 8 × Word × Nat)
  owed : List (Bool × Nat)
  debugger : DebugState
  launch : Nat
  deriving DecidableEq, Repr

/-- Trap registers as a started strand has them (R81). -/
def TrapRegs.zero : TrapRegs := ⟨Reg.zero, Reg.zero, 0, 0⟩

/-- A strand that is not running; also what a started strand holds except what R10 sets. Log 2 (DESIGN CHOICE). -/
def Strand.idle : Strand where
  live := false
  pcc := Reg.zero
  mode := .user
  tid := 0
  status := 0
  ctl := 0
  cycle := 0
  instret := 0
  timecmp := 0
  utrap := TrapRegs.zero
  strap := TrapRegs.zero
  htrap := TrapRegs.zero
  uval2 := 0
  win := { base := 0, frame := 8, depth := 0, spill := Reg.zero, origin := 0, overlap := 0, kept := true, links := [], hidden := [] }
  regs := []
  eOwned := 0
  copies := 0
  frm := 0
  fexc := 0
  wlbound := 0
  wlstat := 0
  rqovf := Reg.zero
  sndto := 0
  depcol := 0
  felem := 0
  faddr := 0
  vec := { lanes := [], demand := 0, vlen := 0, vstart := 0, v := [], k := [], mq := [], mc := [], seeds := [] }
  mtx := { tiles := [], descs := [], accs := [], marks := [] }
  stream := none
  region := Region.none
  monitor := 0
  wake := false
  inbox := []
  areaFull := false
  members := 0
  arrived := 0
  syncing := 0
  inSync := false
  redTerms := 0
  redOpen := []
  redStatus := []
  tasks := []
  lq := []
  sq := []
  xq := []
  bqAE := []
  bqEA := []
  apart := none
  reissue := []
  ir := []
  role := .joint
  operands := []
  clk := 0
  holding := none
  inflight := []
  pending := []
  asleep := false
  gangFault := none
  gangIssued := false
  answers := []
  asked := []
  opIndex := 0
  named := []
  refusedAt := none
  reoffer := false
  pop := none
  doomed := false
  dropped := []
  owed := []
  debugger := { attached := false, stuck := false, held := [] }
  launch := 0

/-- The update-only state of an L1 line (R282): the operation, kind and width of its partials. -/
structure UpdateOnly where
  op : Nat
  kind : Nat
  k : Nat
  deriving DecidableEq, Repr

/-- One L1 data line (R147, R282): 128 bytes, a valid bit for each 32-byte sector, a dirty bit for each byte, a tag for
each granule; in update-only state the bytes hold the partials. `fails` holds the cause of each sector that an error has
struck (R430). Log 29 (DEDUCED). -/
structure L1Line where
  bytes : List Byte
  valid : BitVec 4
  dirty : BitVec 128
  tags : BitVec 8
  upd : Option UpdateOnly
  fails : SMap (BitVec 8)
  deriving DecidableEq, Repr

/-- A line that the L1 does not hold. -/
def L1Line.empty : L1Line := { bytes := [], valid := 0, dirty := 0, tags := 0, upd := none, fails := [] }

/-- What an entry of a dispatch queue needs, for its toggle estimate (R231): lanes of its strand only, or the array for a
dense product, a sparse one, or the gang of a group id. -/
inductive ArrayUse where
  | lanes
  | dense
  | sparse
  | gang (gid : Nat)
  deriving DecidableEq, Repr

/-- An entry of an operand dispatch queue (R173): an instruction of a strand, or the follow-on command of a copy (R350), with
the operands of a product. `half` is the occupancy of a sparse product in half clk, and the partner count of a gang. -/
structure DispatchEntry where
  sid : Nat
  use : ArrayUse
  half : Nat
  mmt : Bool
  acc : Nat
  lt : Nat
  rt : Nat
  row0 : Nat
  followOn : Option Nat
  deriving DecidableEq, Repr

/-- An event counter (R384, R385): what it counts, its threshold, and what it does when it fires. -/
structure Counter where
  count : Nat
  source : BitVec 16
  threshold : Word
  armed : Bool
  lost : Bool
  handle : Reg
  key : Nat
  cls : Nat
  arg : Reg
  sid : Nat
  deriving DecidableEq, Repr

/-- A counter that counts nothing. -/
def Counter.zero : Counter :=
  { count := 0, source := 0, threshold := 0, armed := false, lost := false, handle := Reg.zero, key := 0, cls := 0,
    arg := Reg.zero, sid := 0 }

/-- An entry for an instruction that uses only the lanes of its strand. -/
def DispatchEntry.lanes (sid : Nat) : DispatchEntry :=
  { sid := sid, use := .lanes, half := 0, mmt := false, acc := 0, lt := 0, rt := 0, row0 := 0, followOn := none }

/-- One core (R145 to R166): its L1 data lines by line number, the lines of its L1 instruction cache by global line number,
trace ring and count, clk count, the eight event counters with sources and thresholds, and its operand dispatch queue,
oldest first. Its scratchpad is part of the memory. -/
structure CoreState where
  clk : Nat
  lines : SMap L1Line
  code : SMap (List Byte)
  ring : SMap (BitVec 128)
  traced : Word
  counters : SMap Counter
  queue : List DispatchEntry
  deriving DecidableEq, Repr

/-- A core at reset. Log 2 (DESIGN CHOICE). -/
def CoreState.empty : CoreState :=
  { clk := 0, lines := [], code := [], ring := [], traced := 0, counters := [], queue := [] }

/-- One output row of a matrix operation that is not written yet (R228): the products' left codes with their column in
the right tile, in the order of R63. -/
structure RowPlan where
  row : Nat
  entries : List (Nat × Nat)
  deriving DecidableEq, Repr

/-- A matrix operation under way (R226, R229): its operands are taken at its issue. -/
structure MatOp where
  id : Nat
  sid : Nat
  acc : Nat
  fmtL : Nat
  scaleL : Nat
  leftTile : Option Nat
  rightSid : Nat
  rightTile : Nat
  descR : BitVec 32
  right : SMap Byte
  ternary : Bool
  block : Nat
  rows : List RowPlan
  written : Nat
  gang : Option (Nat × Nat)
  followOn : Option Nat
  deriving DecidableEq, Repr

/-- A posting of `mmag` (R244) not yet part of a formed gang. -/
structure Posting where
  sid : Nat
  gid : Nat
  count : Nat
  acc : Nat
  lt : Nat
  rt : Nat
  group : Word
  deriving DecidableEq, Repr

/-- A partner of a gang that has issued (R246), with its left tile: `full` when all its rows were written. The cursor of the group
it named is 0 once its strand has ended; the gang holds the tile until it ends itself (R270). -/
structure Partner where
  sid : Nat
  acc : Nat
  tile : Nat
  group : Word
  ended : Bool
  full : Bool
  row : Nat
  cause : BitVec 8
  deriving DecidableEq, Repr

/-- A gang that has issued (R245, R246). -/
structure Gang where
  run : Nat
  gid : Nat
  partners : List Partner
  deriving DecidableEq, Repr

/-- A start that waits for lanes (R170). -/
structure StartReq where
  sid : Nat
  pcc : Reg
  tid : BitVec 12
  w0 : Reg
  w1 : Reg
  w2 : Reg
  spill : Reg
  launch : Nat
  boot : Bool
  deriving DecidableEq, Repr

/-- What the quad keeps of a save image that does not hold it (R71, R172, R310): the strand and its `cycle` at the save tell the
image; its physical lanes in position order; size, origin and overlap of its spilled frames; the puts (by transaction) and
copy commands (by id, marked `true`) that were under way; and its region's result register and line. -/
structure SaveNote where
  sid : Nat
  cycle : Word
  lanes : List Nat
  hidden : List (Nat × Nat × Nat)
  owed : List (Bool × Nat)
  region : Region
  deriving DecidableEq, Repr

/-- One quad (R167 to R174, R244 to R247): the tenant last loaded, the cores that have yet to issue in the dispatch round
under way in their order, deferred starts oldest first, matrix operations under way, gangs, and the lanes of saved
strands. -/
structure QuadState where
  tenant : Option (BitVec 12)
  round : List Nat
  deferred : List StartReq
  ops : List MatOp
  nextOp : Nat
  postings : List Posting
  gangs : List Gang
  saves : List SaveNote
  deriving DecidableEq, Repr

/-- A quad at reset. Log 2 (DESIGN CHOICE). -/
def QuadState.empty : QuadState :=
  { tenant := none, round := [], deferred := [], ops := [], nextOp := 0, postings := [], gangs := [], saves := [] }

/-- A translation that a TLB holds (R295): the leaf entry and its level. -/
structure TlbEntry where
  pte : Word
  level : Nat
  deriving DecidableEq, Repr



/-- An item in a die engine's store (R314, R318, R320): `pending` until its count is applied; `away` while the colony that
owns it is saved (R336); `run` names the block
of the spilled run it lies in (R331); `reserved` names the strand whose pop it was proposed to. Instances are named by
package id times 2^11 plus die times 2^8 plus slot. -/
structure Item where
  inst : Nat
  gen : Nat
  key : Nat
  cls : Nat
  arg : Reg
  pending : Bool
  reserved : Option Nat
  run : Option Nat
  colony : Nat
  away : Bool
  deriving DecidableEq, Repr

/-- The home state of a worklist instance (R316). Per-die state is keyed by package id times 8 plus die. `held` are counts
that wait, under the holds of pops (R322: sid and best key) or while the home is saved (R336), and `ends` the task ends that
wait, for the same reasons; `pops` are the pops that wait at the home, and `holders` counts the tasks held in each package.
For engines of other packages, `takes` counts the commits whose report is on its way, `since` lists the keys counted
meanwhile, and `asked` are those whose report a rebase awaits (R321, R330). `blocks` are the held blocks of the spill area, and
`leases` those that engines of other packages may use next (R331, R332). -/
structure HomeSlot where
  used : Bool
  gen : Nat
  tenant : BitVec 12
  colony : Nat
  k : Nat
  s : Nat
  scope : Nat
  wb : Nat
  g : SMap Nat
  above : Nat
  presence : SMap Nat
  dmin : SMap Nat
  dcount : SMap Nat
  inflight : Nat
  spill : Reg
  broken : Bool
  saved : Bool
  ends : List TaskId
  held : List WlCount
  hold : List (Nat × Nat)
  pops : List Pop
  holders : SMap Nat
  takes : SMap Nat
  since : List (Nat × Nat)
  asked : List Nat
  blocks : List Nat
  leases : List (Nat × Nat)
  deriving DecidableEq, Repr

/-- A slot that names no instance. Log 2 (DESIGN CHOICE). -/
def HomeSlot.free (gen : Nat) : HomeSlot :=
  { used := false, gen := gen, tenant := 0, colony := 0, k := 0, s := 0, scope := 4, wb := 0, g := [], above := 0,
    presence := [], dmin := [], dcount := [], inflight := 0, spill := Reg.zero, broken := false, saved := false, ends := [],
    held := [], hold := [], pops := [], holders := [], takes := [], since := [], asked := [], blocks := [], leases := [] }

/-- What an engine knows of an instance whose home is in another package (R331): its name and generation, its spill area, and the
block that the engine may write its next run into. -/
structure AwayArea where
  inst : Nat
  gen : Nat
  spill : Reg
  block : Option Nat
  deriving DecidableEq, Repr

/-- One C-die (R271 to R317, R384): the items of its engine in the order they were placed, the instances in the order in which
they were first pushed to, what it knows of homes in other packages, the count of proposals that passed over the lowest key, its
home slots, and its 32 counters. -/
structure DieState where
  items : List Item
  firsts : List (Nat × Nat)
  areas : List AwayArea
  passed : SMap Nat
  slots : SMap HomeSlot
  counters : SMap Counter
  deriving DecidableEq, Repr

/-- A die at reset. Log 2 (DESIGN CHOICE). -/
def DieState.empty : DieState := { items := [], firsts := [], areas := [], passed := [], slots := [], counters := [] }

/-- The states of a colony record (R363). -/
inductive ColonyState where
  | idle
  | loaded
  | yielding
  | saved
  | held
  deriving DecidableEq, Repr

/-- A dirty-page log (R387, R388). -/
structure DirtyLog where
  cap : Reg
  wp : Nat
  overflowed : Bool
  raised : Bool
  deriving DecidableEq, Repr

/-- A yield under way (R376): the time of the forced save, the slot index that the
interrupt reports, whether the colony ends held, the strands stopped, and whether any was forced. -/
structure Yield where
  deadline : Nat
  slot : Nat
  hold : Bool
  stopped : List Nat
  forced : Bool
  deriving DecidableEq, Repr

/-- A colony record (R364) with what the package keeps beside it: budgets by resource (R378 to R381), held Scout
interrupts by ring (R355), the dirty-page log, the yield under way, whether its save area holds its state and under which
number the package keeps the rest of it, and the host's part in sys groups (R367). -/
structure Colony where
  tenant : BitVec 12
  vf : Nat
  hostMember : Bool
  job : Nat
  chan : BitVec 64
  rings : Nat
  cslots : Nat
  wlq : Nat
  state : ColonyState
  spill : Reg
  save : Reg
  alloc : SMap Nat
  nextAlloc : SMap Nat
  rem : SMap Int
  scout : SMap Word
  log : Option DirtyLog
  yield : Option Yield
  hasImage : Bool
  image : Nat
  hostArrived : BitVec 16
  hostPhases : SMap Nat
  deriving DecidableEq, Repr

/-- What a saved colony's device-defined blocks stand for (R377): kept by the package under the number that the blocks
carry. `writes` are those of copies that wait for a saved strand: its sid, tile, offset and bytes (R250). -/
structure VaultEntry where
  ticket : Nat
  colony : Nat
  strands : List (Nat × Strand)
  quads : List (Nat × QuadState)
  queues : List (Nat × List DispatchEntry)
  homes : List (Nat × Nat × HomeSlot)
  items : List (Nat × Item)
  writes : List (Nat × Nat × Nat × List Byte)
  deriving DecidableEq, Repr

/-- A bound Scout ring (R354, R368). `drain` is the write pointer that a stop of its colony found: launch records below it
are consumed without starting strands (R370). -/
structure Ring where
  colony : Nat
  weight : Nat
  cap : Reg
  authority : Reg
  rp : Nat
  drain : Nat
  deriving DecidableEq, Repr

/-- A launch under way (R10, R18, R138, R370): its completion future, the strands that have not ended, and the value
for the first strand that ended by a fault. `stop` marks a stop record's own entry. -/
structure Launch where
  id : Nat
  colony : Nat
  tenant : BitVec 12
  ring : Nat
  future : Reg
  left : Nat
  failed : Option Word
  stop : Bool
  deriving DecidableEq, Repr

/-- One requester of a copy command (R347, R351): the issuing strand, whether it issued in hypervisor mode, its destination and completion future, and the
error that its part has met, with the address. -/
structure CopyMember where
  sid : Nat
  hyper : Bool
  dst : Reg
  fut : Reg
  error : Option (BitVec 8 × Nat)
  deriving DecidableEq, Repr

/-- A copy command (R347, R349): the identity it is checked for (R77), its source, the requests merged into it, its
follow-on word, and how far it has come: charged to the budget, source bytes read, the error that ended the reading, and
whether its writes have been made. -/
structure CopyCmd where
  id : Nat
  tid : BitVec 12
  src : Reg
  len : Nat
  members : List CopyMember
  followOn : Option Word
  charged : Bool
  got : List Byte
  readError : Option (BitVec 8 × Nat)
  written : Bool
  deriving DecidableEq, Repr

/-- A copy queue (R347, R352): its commands oldest first and the error record. -/
structure CopyQueue where
  cmds : List CopyCmd
  err : Bool
  cause : BitVec 8
  addr : Nat
  deriving DecidableEq, Repr

/-- An empty copy queue. -/
def CopyQueue.empty : CopyQueue := { cmds := [], err := false, cause := 0, addr := 0 }

/-- An open combining window (R351): its quad, queue and command, and the clk of the quad's cores at which it closes. -/
structure CombineWindow where
  quad : Nat
  queue : Nat
  cmd : Nat
  close : Nat
  deriving DecidableEq, Repr

/-- A routine slot of the agents (R345). -/
structure AgentSlot where
  owner : BitVec 12
  words : List IWord
  deriving DecidableEq, Repr

/-- A routine that waits at an agent (R344, R346), with the packet of another package that asked for it. -/
structure AgentJob where
  agent : Nat
  slot : Nat
  cap : Reg
  args : List Word
  packet : Packet
  deriving DecidableEq, Repr

/-- A multicast-table entry (R410). -/
structure Multicast where
  tenant : BitVec 12
  window : Nat
  members : List Nat
  deriving DecidableEq, Repr

/-- One fabric port (R396, R400 to R402): `tx` is the next sequence number to send, `rx` the next one expected,
`lastWhole` that of the last flit of the last packet accepted whole, `retry` the packets of the last 512 flits sent with the
sequence number of each header, oldest first, `pieces` the accepted flits of an unfinished packet, and `acks` the link-control
answers: an acknowledged number, or one from which to replay. -/
structure Port where
  down : Bool
  narrow : Bool
  orderedNarrow : Option Bool
  tx : Nat
  rx : Nat
  lastWhole : Nat
  retry : List (Nat × Packet)
  pieces : List Flit
  acks : List (Bool × Nat)
  deriving DecidableEq, Repr

/-- A port at reset. Log 2 (DESIGN CHOICE). -/
def Port.up : Port :=
  { down := false, narrow := false, orderedNarrow := none, tx := 0, rx := 0, lastWhole := 65535, retry := [],
    pieces := [], acks := [] }

/-- What a request to another package is for: an instruction that waits, a put, the
fill of a copy command's or a launch's future, a read or a
requester's write of the command that heads a copy queue, with its tenant-virtual address, an element of an
intersection list, a candidate from another package's engine, a pop at another package's home, a reduction's result, or an access of a host function, which goes on
after the answer where `more` is set. -/
inductive RequestUse where
  | instr
  | put
  | fillCopy (queue va : Nat)
  | fillLaunch (colony ring : Nat)
  | copyRead (queue va : Nat)
  | copyWrite (queue member va : Nat)
  | index (second : Bool)
  | propose (home slot sid : Nat)
  | pop
  | reduce (group : Nat)
  | followOn (queue : Nat)
  | host (fn : Nat) (more : Bool)
  deriving DecidableEq, Repr

/-- A request that has left for another package and is not answered (R404, R420): the strand that asked, what for, its
packet, when it was sent, and when its probe went out. -/
structure Request where
  txn : Nat
  sid : Nat
  use : RequestUse
  packet : Packet
  sent : Nat
  probed : Option Nat
  deriving DecidableEq, Repr

/-- A request held at a router's input stage (R414): the input port it arrived on, when its window ends, and the comb-table
key of the group that it has joined. -/
structure HeldReq where
  req : CombReq
  port : Nat
  until_ : Nat
  group : Option Nat
  deriving DecidableEq, Repr

/-- A comb-table entry (R415): the record and its requester map; each member is its port, its request, and its sum. -/
structure CombEntry where
  members : List (Nat × CombReq × Word)
  recordLost : Bool
  mapLost : Bool
  deriving DecidableEq, Repr

/-- One Tuori router (R412 to R417): requests held, in order of arrival, and its comb tables keyed by input stage times
256 plus entry. -/
structure RouterState where
  held : List HeldReq
  comb : SMap CombEntry
  deriving DecidableEq, Repr

/-- A router at reset. -/
def RouterState.empty : RouterState := { held := [], comb := [] }

/-- A segment of a contribution to a reduction phase, or of `ctr` contributions combined (R422 to R424). -/
structure Contribution where
  sid : BitVec 28
  op : Nat
  ty : Nat
  n : Nat
  seg : Nat
  ctr : Nat
  bytes : List Byte
  deriving DecidableEq, Repr

/-- The open phase of a reduction group (R421, R423): the segments that have reached this package's router, the
contributors of this package with their destinations, whether the root has been told that all of them have contributed,
and the segments of the result that have come back from the root, with its count. -/
structure RedGroup where
  phase : Nat
  parts : List Contribution
  dests : List (Nat × Reg)
  announced : Bool
  result : SMap (List Byte)
  deriving DecidableEq, Repr

/-- A group whose phase nobody has contributed to. -/
def RedGroup.fresh (phase : Nat) : RedGroup :=
  { phase := phase, parts := [], dests := [], announced := false, result := [] }

/-- One voltage and frequency island (R382). -/
structure Island where
  mhz : Nat
  alloc : Nat
  used : Nat
  deriving DecidableEq, Repr

/-- An island at reset; its operating point and allocation are the firmware's to set. Log 2 (DESIGN CHOICE). -/
def Island.initial : Island := { mhz := 1700, alloc := 0, used := 0 }

/-- Package time and its discipline (R371, R372): the second that the last valid message announced for the next edge, the
time of the last edge, whether edges are lost, and the fields of that message. The slewing of the rate lies in the time that a
turn takes, which nothing constrains. -/
structure Clock where
  second : Nat
  announced : Bool
  lastEdge : Nat
  lost : Bool
  utcoff : BitVec 16
  flags : BitVec 8
  cls : BitVec 8
  deriving DecidableEq, Repr

/-- What a host access receives (R353, R367). -/
inductive HostReply where
  | data (fn : Nat) (bytes : List Byte)
  | done (fn : Nat)
  | completerAbort (fn : Nat)
  | unsupported (fn : Nat)
  deriving DecidableEq, Repr

/-- A line that an L2 slice holds dirty (R275): its dirty sectors, and whether it was allocated at the lowest priority. What
the slice holds clean shows in no access (R277), and the bytes are those of the memory. Log 22 (DESIGN CHOICE). -/
structure L2Line where
  dirty : BitVec 4
  low : Bool
  deriving DecidableEq, Repr

/-- A line that no slice holds dirty. -/
def L2Line.empty : L2Line := { dirty := 0, low := false }

/-- The package's own units; `slice` is the slot-table entry whose slice runs, when it ends, and whether its colony has been
loaded in it (R373, R375); `poll` is the ring that the Scout serves with the polls left to it in the round (R369); `l2` holds the dirty lines of the L2 slices by line number, `directory` the lines
that the package directory has entries for, least recently used first (R278): tables, Scout, copy engines, agents, fabric, routers, reductions, islands, time, host; `walkErrors` are the errors of walks that the management controller counts, each with the
global address of the entry (R293). -/
structure PackageState where
  colonies : SMap (Option Colony)
  control : Option Nat
  boot : Option Nat
  booted : Bool
  measured : List (Word × List Byte)
  l2 : SMap L2Line
  directory : List Nat
  colours : SMap Nat
  slots : SMap Word
  shadow : SMap Word
  slice : Option (Nat × Nat × Bool)
  rings : SMap (Option Ring)
  poll : Nat × Nat
  launches : List Launch
  nextLaunch : Nat
  queues : SMap CopyQueue
  nextCopy : Nat
  windows : List CombineWindow
  agentSlots : SMap (Option AgentSlot)
  agentJobs : List AgentJob
  multicast : SMap (Option Multicast)
  counters : SMap Counter
  vault : List VaultEntry
  ports : SMap Port
  sizes : Nat × Nat × Nat × Nat
  lost : List Nat
  lostJobs : List (Nat × Nat)
  requests : List Request
  lostAnswers : List Nat
  nextTxn : Nat
  mirrors : List (Nat × Packet)
  probes : List (Nat × Nat)
  routers : SMap RouterState
  reductions : SMap RedGroup
  remoteTerms : SMap Nat
  islands : SMap Island
  clock : Clock
  period : Nat
  fabricOut : List (Nat × Packet)
  hostOut : List HostReply
  debugOut : List (Nat × BitVec 8 × Word)
  walkErrors : List (BitVec 8 × Nat)
  refusals : SMap (List (BitVec 28))
  hostWaiting : List HostAccess
  deriving DecidableEq, Repr

/-- What a cache does of its own accord. It gives up a line of a core's L1 data or instruction cache, an entry of a TLB, or a line of
an L2 slice (R147, R148, R275, R295), or its accesses miss and move sectors. Log 22 (DESIGN CHOICE). -/
inductive Eviction where
  | data (core line : Nat)
  | code (core line : Nat)
  | tlb (key : Nat)
  | l2 (line : Nat)
  /-- L2 misses of a C-die, and DRAM sectors that move for a colony (R275, R378, R384). -/
  | sectors (die misses sectors colony : Nat)
  deriving DecidableEq, Repr

/-- The whole package. -/
structure State where
  -- the model's own: the strand whose turn it is, the strands' turns before events, events due, the event at hand,
  -- what the caches will do, steps taken, and the number of the next free value
  cur : Nat
  turns : List Bool
  agenda : List Event
  now : Event
  evictPlan : List Eviction
  steps : Nat
  fresh : Nat
  -- strands by sid bits 13:0; cores by die*512 + quad*4 + core, quads by die*128 + quad
  strands : SMap Strand
  cores : SMap CoreState
  quads : SMap QuadState
  dies : SMap DieState
  -- memory by local physical address, granule tags by address div 16, failing sectors by address div 32 with the cause
  mem : List Host.Cell
  tags : SMap Bool
  bad : SMap (BitVec 8)
  -- failing tile units and accumulator rows (R430), and management events counted
  badTiles : SMap (BitVec 8)
  badRows : SMap (BitVec 8)
  events : SMap Nat
  -- translation: tables' roots by tenant, entries of the TLBs
  roots : SMap Word
  tlb : SMap TlbEntry
  pkg : Nat
  time : Nat
  units : PackageState
  deriving DecidableEq, Repr

/-- The record that the management controller writes at reset (R363): colony 1 of tenant 0, idle, with every quota at
the package total. An allocation that is not listed is unlimited. -/
def Colony.first : Colony :=
  { tenant := 0, vf := 0, hostMember := false, job := 0, chan := BitVec.allOnes 64, rings := 256, cslots := 32768,
    wlq := 2048, state := .idle, spill := Reg.zero, save := Reg.zero, alloc := [], nextAlloc := [], rem := [],
    scout := [], log := none, yield := none, hasImage := false, image := 0, hostArrived := 0, hostPhases := [] }

/-- The package's units right after reset. The package id and the pod sizes are set from the cabling (R395); the model
takes package 0 of a pod of one package. Log 2 (DESIGN CHOICE). Log 3 (DESIGN CHOICE). -/
def PackageState.reset : PackageState :=
  { colonies := [(1, some Colony.first)], control := none, boot := none, booted := false, measured := [],
    l2 := [], directory := [], colours := [], slots := [], shadow := [], slice := none, rings := [], poll := (0, 0), launches := [], nextLaunch := 1,
    queues := [], nextCopy := 0, windows := [], agentSlots := [], agentJobs := [], multicast := [], counters := [],
    vault := [], ports := [], sizes := (1, 1, 1, 1), lost := [], lostJobs := [], requests := [],
    lostAnswers := [], nextTxn := 0, mirrors := [],
    probes := [], routers := [], reductions := [], remoteTerms := [], islands := [],
    clock := { second := 0, announced := false, lastEdge := 0, lost := false, utcoff := 0, flags := 0,
               cls := 0 },
    period := 0, fabricOut := [], hostOut := [], debugOut := [], walkErrors := [], refusals := [], hostWaiting := [] }

/-- The machine right after reset (R363): no strand runs, no tenant has a root, memory lists nothing. Log 2 (DESIGN CHOICE). Log 3 (DESIGN CHOICE). Log 4 (DESIGN CHOICE). Log 7 (DESIGN CHOICE). Log 96 (DESIGN CHOICE). -/
def State.reset : State :=
  { cur := 0, turns := [], agenda := [], now := .idle, evictPlan := [], steps := 0, fresh := 0, strands := [],
    cores := [], quads := [], dies := [], mem := [], tags := [], bad := [], badTiles := [], badRows := [],
    events := [], roots := [], tlb := [], pkg := 0, time := 0, units := PackageState.reset }


end Sys2Proof.Machine
end

