-- ==== Sys2Proof/Machine/Monad.lean ====
section
/-! DEFINITION. The monad that meanings are written in, and the accessors of the parts of the state. -/

namespace Sys2Proof.Machine

/-- How a meaning ends other than by completing. -/
inductive Exc where
  /-- A cause with its values; every state change of the instruction is undone (R48). -/
  | trap (code : BitVec 8) (value : Word) (value2 : Option Word)
  /-- A cause with its values; what the instruction has done so far stands, as its description says. -/
  | trapKeep (code : BitVec 8) (value : Word) (value2 : Option Word)
  /-- The instruction waits: what it has done so far stands and it is tried again. -/
  | wait
  /-- The instruction waits with none of its own effect. -/
  | retry
  /-- The instruction asks another package and waits for its answer, with none of its own effect yet. -/
  | ask (p : Packet)
  /-- The instruction is left to the other role, which is halted, or was done by the other role before (R89, R144). -/
  | pass
  /-- The machine stops. -/
  | stop (f : Fault)
  deriving DecidableEq, Repr

/-- State changes that may end in an `Exc`. -/
abbrev M := EStateM Exc State

/-- Raises a cause with one value. -/
def raise {α : Type} (code : BitVec 8) (value : Nat) : M α := throw (.trap code (BitVec.ofNat 64 value) none)

/-- Raises a cause with two values. -/
def raise2 {α : Type} (code : BitVec 8) (value value2 : Nat) : M α :=
  throw (.trap code (BitVec.ofNat 64 value) (some (BitVec.ofNat 64 value2)))

/-- Raises a cause when a condition holds. -/
def raiseIf (b : Bool) (code : BitVec 8) (value : Nat) : M Unit := if b then raise code value else pure ()

/-! Cause codes (R134). -/

def cFempty : BitVec 8 := 0x01
def cFfull : BitVec 8 := 0x02
def cSendblk : BitVec 8 := 0x03
def cWlfull : BitVec 8 := 0x04
def cAmoflost : BitVec 8 := 0x05
def cDepref : BitVec 8 := 0x06
def cIll : BitVec 8 := 0x10
def cPfx : BitVec 8 := 0x11
def cFrame : BitVec 8 := 0x12
def cStall : BitVec 8 := 0x13
def cTag : BitVec 8 := 0x14
def cBounds : BitVec 8 := 0x15
def cPerm : BitVec 8 := 0x16
def cTenant : BitVec 8 := 0x17
def cAlign : BitVec 8 := 0x18
def cXlat : BitVec 8 := 0x19
def cInteg : BitVec 8 := 0x1A
def cEcc : BitVec 8 := 0x1B
def cBar : BitVec 8 := 0x1C
def cTdesc : BitVec 8 := 0x1D
def cModcfg : BitVec 8 := 0x1E
def cSpill : BitVec 8 := 0x1F
def cPriv : BitVec 8 := 0x20
def cGang : BitVec 8 := 0x21
def cPeer : BitVec 8 := 0x22
def cSyscall : BitVec 8 := 0x23
def cTimer : BitVec 8 := 0x40
def cSlice : BitVec 8 := 0x41
def cGuard : BitVec 8 := 0x42
def cScout : BitVec 8 := 0x43
def cDirtyLog : BitVec 8 := 0x44
def cMachine : BitVec 8 := 0x45
def cPeerDown : BitVec 8 := 0x46

/-! Strands. -/

/-- A strand by sid bits 13:0. -/
def State.strand (s : State) (sid : Nat) : Strand := lookupD Strand.idle s.strands sid

/-- The strand whose turn it is. -/
def State.self (s : State) : Strand := s.strand s.cur

/-- The state with one strand replaced. -/
def State.withStrand (s : State) (sid : Nat) (t : Strand) : State :=
  { s with strands := storeAt Strand.idle sid t s.strands }

/-- The state with the current strand replaced. -/
def State.withSelf (s : State) (t : Strand) : State := s.withStrand s.cur t

def getStrand (sid : Nat) : M Strand := fun s => .ok (s.strand sid) s
def setStrand (sid : Nat) (t : Strand) : M Unit := fun s => .ok () (s.withStrand sid t)
def modStrand (sid : Nat) (f : Strand → Strand) : M Unit := fun s => .ok () (s.withStrand sid (f (s.strand sid)))
def self : M Strand := fun s => .ok s.self s
def setSelf (t : Strand) : M Unit := fun s => .ok () (s.withSelf t)
def modSelf (f : Strand → Strand) : M Unit := fun s => .ok () (s.withSelf (f s.self))

/-! Positions: sid bits 0 strand, 2:1 core, 9:3 quad, 13:10 die (R82). -/

def coreOf (sid : Nat) : Nat := sid / 2
def quadOf (sid : Nat) : Nat := sid / 8
def dieOf (sid : Nat) : Nat := sid / 1024

def State.core (s : State) (c : Nat) : CoreState := lookupD CoreState.empty s.cores c
def State.withCore (s : State) (c : Nat) (v : CoreState) : State :=
  { s with cores := storeAt CoreState.empty c v s.cores }
def State.quad (s : State) (q : Nat) : QuadState := lookupD QuadState.empty s.quads q
def State.withQuad (s : State) (q : Nat) (v : QuadState) : State :=
  { s with quads := storeAt QuadState.empty q v s.quads }

def getCore (c : Nat) : M CoreState := fun s => .ok (s.core c) s
def modCore (c : Nat) (f : CoreState → CoreState) : M Unit := fun s => .ok () (s.withCore c (f (s.core c)))
def getQuad (q : Nat) : M QuadState := fun s => .ok (s.quad q) s
def modQuad (q : Nat) (f : QuadState → QuadState) : M Unit := fun s => .ok () (s.withQuad q (f (s.quad q)))

/-- The number of the current strand. -/
def curSid : M Nat := fun s => .ok s.cur s

/-- Sids 0 to 16383 of running strands, ascending. -/
def State.running (s : State) : List Nat := (s.strands.filter fun e => e.2.live).map (·.1)

/-- The whole `sid` of a strand: its position and the package id (R82). -/
def State.fullSid (s : State) (sid : Nat) : BitVec 28 := BitVec.ofNat 28 (s.pkg * 16384 + sid % 16384)

/-- Runs an action as another strand; the turn returns to the current one whatever the outcome. -/
def asStrand {α : Type} (sid : Nat) (m : M α) : M α := fun s =>
  match m { s with cur := sid } with
  | .ok a t => .ok a { t with cur := s.cur }
  | .error e t => .error e { t with cur := s.cur }

/-- The state before an action that did not complete, with what the management controller has counted in it (R293). -/
def State.undo (s t : State) : State := { s with units := { s.units with walkErrors := t.units.walkErrors } }

/-- Runs an action and gives back how it ended; if it did not complete, what it changed is undone. -/
def attempt {α : Type} (m : M α) : M (Except Exc α) := fun s =>
  match m s with
  | .ok a t => .ok (.ok a) t
  | .error e t => .ok (.error e) (s.undo t)

/-- A value that the manual leaves open: nothing constrains it, and each drawing is another one. Log 96 (DESIGN CHOICE). -/
def freeValue : M Quad := fun s => .ok (Config.freeValue s.fresh) { s with fresh := s.fresh + 1 }

/-- Puts an event at the end of the agenda. -/
def post (e : Event) : M Unit := modify fun s => { s with agenda := s.agenda ++ [e] }

/-! Event counters (R384, R385). -/

/-- A counter after `n` events of its source, and whether it fires: armed, with a threshold, passing it from below. -/
def Counter.add (c : Counter) (n : Nat) : Counter × Bool :=
  let fires := c.armed && c.threshold ≠ 0 && c.count < c.threshold.toNat && c.threshold.toNat ≤ c.count + n
  ({ c with count := (c.count + n) % 2 ^ 48, armed := c.armed && !fires }, fires)

/-- Counts `n` events of a source on the counters of one unit; `base` is the number of the unit's counter 0. -/
def addEvents (owner base code n : Nat) (m : SMap Counter) : SMap Counter × List Event :=
  m.foldl (fun (acc : SMap Counter × List Event) e =>
    if code ≠ 0 && e.2.source.toNat = code then
      let (c, fires) := e.2.add n
      (acc.1 ++ [(e.1, c)], if fires then acc.2 ++ [.counterFire owner (base + e.1)] else acc.2)
    else (acc.1 ++ [e], acc.2)) ([], [])

/-- Counts an event of a core. -/
def State.countCore (s : State) (core code n : Nat) : State :=
  let c := s.core core
  let (m, ev) := addEvents core 0 code n c.counters
  { s.withCore core { c with counters := m } with agenda := s.agenda ++ ev }

/-- The clk that a core's strands spend (R165, R384). Log 35 (DESIGN CHOICE). -/
def State.spend (s : State) (core n : Nat) : State :=
  let c := s.core core
  (s.withCore core { c with clk := c.clk + n }).countCore core 1 n

def State.die (s : State) (d : Nat) : DieState := lookupD DieState.empty s.dies d
def State.withDie (s : State) (d : Nat) (v : DieState) : State := { s with dies := storeAt DieState.empty d v s.dies }

/-- Counts an event of a C-die. -/
def State.countDie (s : State) (d code n : Nat) : State :=
  let v := s.die d
  let (m, ev) := addEvents d 8 code n v.counters
  { s.withDie d { v with counters := m } with agenda := s.agenda ++ ev }

/-- Counts an event of the package, also for the management controller (R342, R430). -/
def State.countPackage (s : State) (code n : Nat) : State :=
  let (m, ev) := addEvents 0 40 code n s.units.counters
  { s with
    events := storeAt 0 code (lookupD 0 s.events code + n) s.events
    units := { s.units with counters := m }
    agenda := s.agenda ++ ev }

/-- Counts one event of the package. -/
def countEvent (code : Nat) : M Unit := modify fun s => s.countPackage code 1

/-- Reads a byte list as a little-endian number. -/
def leNat : List Byte → Nat
  | [] => 0
  | b :: bs => b.toNat + 256 * leNat bs

/-- The low `n` bytes of a number, least significant first. -/
def leBytes (n v : Nat) : List Byte :=
  match n with
  | 0 => []
  | n + 1 => BitVec.ofNat 8 v :: leBytes n (v / 256)

end Sys2Proof.Machine
end

