-- ==== Sys2Proof/Machine/Access.lean ====
section
/-! DEFINITION. Memory: the layout of local physical space, homes with their tags and failing sectors, L1 lines,
update-only lines, and translation. -/

namespace Sys2Proof.Machine

/-- What a local physical address names (R272). Cores are numbered die·512 + quad·4 + core, quads die·128 + quad. -/
inductive Place where
  | dram
  | dieSpad (die : Nat)
  | coreSpad (core off : Nat)
  | slice (quad lane off : Nat)
  | window (core off : Nat)
  | port (off : Nat)
  | aliasWindow (off : Nat)
  | reserved
  deriving DecidableEq, Repr

def dieWindows : Nat := 0x10000000000

/-- The address of a byte of a core scratchpad. -/
def spadAddr (core off : Nat) : Nat := dieWindows + core / 512 * 0x40000000 + 0x8000000 + core % 512 * 0x40000 + off

/-- The address of a byte of a lane slice. -/
def sliceAddr (quad lane off : Nat) : Nat :=
  dieWindows + quad / 128 * 0x40000000 + 0x18000000 + quad % 128 * 0x100000 + lane * 0x4000 + off

/-- The layout of R272; a byte of a quad-shared window is the scratchpad byte it stands for (R274). -/
def place (a : Nat) : Place :=
  if a < dieWindows then .dram
  else if a < dieWindows + 8 * 0x40000000 then
    let d := (a - dieWindows) / 0x40000000
    let o := (a - dieWindows) % 0x40000000
    if o < 0x3000000 then .dieSpad d
    else if o < 0x8000000 then .reserved
    else if o < 0x10000000 then .coreSpad (d * 512 + (o - 0x8000000) / 0x40000) (o % 0x40000)
    else if o < 0x18000000 then
      let q := (o - 0x10000000) / 0x100000
      let w := o % 0x100000
      .coreSpad (d * 512 + q * 4 + w / 128 % 4) (w / 512 * 128 + w % 128)
    else if o < 0x20000000 then .slice (d * 128 + (o - 0x18000000) / 0x100000) (o / 0x4000 % 64) (o % 0x4000)
    else if o < 0x21000000 then .window (d * 512 + (o - 0x20000000) / 0x8000) (o % 0x8000)
    else .reserved
  else if 0x1F000000000 ≤ a && a < 0x1F100000000 then .port (a - 0x1F000000000)
  else if 0x1FFFFFF0000 ≤ a && a ≤ 0x1FFFFFFFFFF then .aliasWindow (a - 0x1FFFFFF0000)
  else .reserved

/-- The address under which a byte is kept: quad-shared windows are other names of scratchpads (R274). -/
def canon (a : Nat) : Nat :=
  match place a with
  | .coreSpad c o => spadAddr c o
  | _ => a

/-- The name of a core scratchpad byte in its quad-shared window (R274). -/
def windowName (core off : Nat) : Nat :=
  dieWindows + core / 512 * 0x40000000 + 0x10000000 + core % 512 / 4 * 0x100000 + off / 128 * 512 + core % 4 * 128 + off % 128

/-- Whether an address is DRAM or die scratchpad, which an L1 may cache (R147, R276). -/
def cacheable (a : Nat) : Bool :=
  match place a with
  | .dram => true
  | .dieSpad _ => true
  | _ => false

/-- The package id and the local part of a global physical address (R273). -/
def pkgOf (p : Nat) : Nat := p / 2 ^ 41 % 2 ^ 14
def localOf (p : Nat) : Nat := p % 2 ^ 41

/-- The global physical address of a local one. -/
def State.globalOf (s : State) (a : Nat) : Nat := s.pkg * 2 ^ 41 + a

/-! ## Monitors (R161 to R163) -/

def foldHash (x : Nat) : Nat :=
  (x % 1024) ^^^ (x / 2 ^ 10 % 1024) ^^^ (x / 2 ^ 20 % 1024) ^^^ (x / 2 ^ 30 % 1024) ^^^ (x / 2 ^ 40 % 256)

/-- The three filter bits of a line address (R161). -/
def monitorBits (line : Nat) : List Nat :=
  [0, 16, 32].map fun r => foldHash ((line >>> r) ||| (line <<< (48 - r)) % 2 ^ 48)

/-- Whether a filter matches a line (R161). -/
def monitorMatches (f : BitVec 1024) (line : Nat) : Bool := (monitorBits line).all fun b => f.getLsbD b

/-- Sets the wake flag of every strand whose filter matches the line (R163). -/
def State.wakeLine (s : State) (line : Nat) : State :=
  s.running.foldl (fun s sid =>
    let t := s.strand sid
    if t.monitor ≠ 0 && monitorMatches t.monitor line then s.withStrand sid { t with wake := true } else s) s

/-- Sets the wake flags for a write to the line that holds a local address, under each name that the line has (R163, R274). -/
def State.wakeAt (s : State) (a : Nat) : State :=
  match place a with
  | .coreSpad c o => (s.wakeLine (s.globalOf (spadAddr c o) / 128)).wakeLine (s.globalOf (windowName c o) / 128)
  | _ => s.wakeLine (s.globalOf a / 128)

/-! ## Homes -/

/-- One byte of memory at its home, by local physical address. Log 1 (DESIGN CHOICE). -/
def State.byteAt (s : State) (a : Nat) : Byte := lookupD 0 s.mem (canon a)

/-- Bytes at their home. -/
def State.bytesAt (s : State) (a n : Nat) : List Byte := (List.range n).map fun i => s.byteAt (a + i)

/-- The tag of the granule that holds an address (R78). Log 1 (DESIGN CHOICE). -/
def State.tagAt (s : State) (a : Nat) : Bool := lookupD false s.tags (canon a / 16)

/-- The cause with which the sector that holds an address fails, or 0 (R430). Log 1 (DESIGN CHOICE). -/
def State.badAt (s : State) (a : Nat) : BitVec 8 := lookupD 0 s.bad (canon a / 32)

/-- The first failing sector of a range: its cause and the offset of its start from `a`, never below 0. -/
def State.firstBad (s : State) (a n : Nat) : Option (BitVec 8 × Nat) :=
  (List.range n).findSome? fun i =>
    if s.badAt (a + i) ≠ 0 && (i = 0 || (a + i) % 32 = 0) then some (s.badAt (a + i), i) else none

/-- Writes one byte at its home and clears its granule's tag. -/
def State.putByte (s : State) (a : Nat) (b : Byte) : State :=
  { s with mem := storeAt 0 (canon a) b s.mem, tags := storeAt false (canon a / 16) false s.tags }

/-- Writes bytes one after another. -/
def State.putBytes (s : State) (a : Nat) : List Byte → State
  | [] => s
  | b :: bs => (s.putByte a b).putBytes (a + 1) bs

/-- A write at the home that lies in one sector (R430): a failing sector is repaired by a write of all of it, and
otherwise the bytes are discarded and counted. -/
def State.putSector (s : State) (a : Nat) (bs : List Byte) : State :=
  if s.badAt a = 0 then s.putBytes a bs
  else if a % 32 = 0 && bs.length = 32 then
    { s with bad := storeAt 0 (canon a / 32) 0 s.bad }.putBytes a bs
  else s.countPackage 0x2005 1

/-- Splits a run of bytes from an address at the boundaries of `unit` bytes, at most `fuel` pieces. -/
def splitAt (unit : Nat) : Nat → Nat → List Byte → List (Nat × List Byte)
  | 0, _, _ => []
  | fuel + 1, a, bs =>
    if bs.isEmpty then []
    else
      let n := unit - a % unit
      (a, bs.take n) :: splitAt unit fuel (a + n) (bs.drop n)

/-! ## L2 slices (R275) -/

/-- The colour of the set that a DRAM address falls into. -/
def colourOf (a : Nat) : Nat := (a / 2 ^ 16 % 64) ^^^ (a / 2 ^ 22 % 64)

/-- The home slice of a DRAM address: home C-die times 32 plus slice. -/
def sliceOf (a : Nat) : Nat :=
  ((a / 2 ^ 7 % 8) ^^^ (a / 2 ^ 33 % 8)) * 32 + ((a / 2 ^ 10 % 32) ^^^ (a / 2 ^ 28 % 32))

/-- The set that a DRAM address falls into: slice times 1024 plus set. -/
def setOf (a : Nat) : Nat := sliceOf a * 1024 + colourOf a * 16 + a / 2 ^ 15 % 2 * 8 + a / 2 ^ 36 % 8

/-- A line of a full set that gives way: one of lowest priority, if there is one. Log 12 (DESIGN CHOICE). Log 22 (DESIGN CHOICE). -/
def State.l2Victim (s : State) (lines : List (Nat × L2Line)) : Option Nat :=
  let low := lines.filter fun e => e.2.low
  let from_ := if low.isEmpty then lines else low
  (from_[Config.victim s.steps % from_.length]?).map (·.1)

/-- A write of bytes that lie in one line makes their sectors dirty in its home slice; a set of 16 dirty lines writes one back to
DRAM first (R275). Log 22 (DESIGN CHOICE). -/
def State.l2Put (s : State) (a n : Nat) : State :=
  if place a ≠ .dram || n = 0 then s
  else
    let line := a / 128
    let others := s.units.l2.filter fun e => e.1 ≠ line && setOf (e.1 * 128) = setOf a
    let l2 := if others.length < 16 then s.units.l2
      else match s.l2Victim others with
        | some v => storeAt L2Line.empty v L2Line.empty s.units.l2
        | none => s.units.l2
    let l := lookupD L2Line.empty l2 line
    let dirty := (List.range 4).foldl (fun (d : BitVec 4) i =>
      if a % 128 < 32 * i + 32 && 32 * i < a % 128 + n then d ||| BitVec.ofNat 4 (2 ^ i) else d) l.dirty
    { s with units := { s.units with l2 := storeAt L2Line.empty line { l with dirty := dirty } l2 } }

/-- A line is allocated at the lowest priority of its set (R275). -/
def State.l2Low (s : State) (a : Nat) : State :=
  { s with units := { s.units with l2 := s.units.l2.map fun e => if e.1 = a / 128 then (e.1, { e.2 with low := true }) else e } }

/-- A home slice writes a line back and drops it (R277). -/
def State.l2Drop (s : State) (line : Nat) : State :=
  { s with units := { s.units with l2 := storeAt L2Line.empty line L2Line.empty s.units.l2 } }

/-- A write at the home: sector by sector, with the lines that it makes dirty (R275) and the wake flags of monitors on its
lines (R163). -/
def State.homePut (s : State) (a : Nat) (bs : List Byte) : State :=
  let s := (splitAt 32 (bs.length / 32 + 2) a bs).foldl (fun s p => s.putSector p.1 p.2) s
  (splitAt 128 (bs.length / 128 + 2) a bs).foldl (fun s p =>
    (s.l2Put p.1 p.2.length).wakeAt p.1) s

/-- Sets the tag of the granule at an address. -/
def State.putTag (s : State) (a : Nat) (t : Bool) : State :=
  { s with tags := storeAt false (canon a / 16) t s.tags }

/-! ## Read-modify-write operations -/

/-- `Op(old, y)` of R112 on `k` bytes; codes above 8 act as swap and are never decoded. -/
def amoOp (op k old y : Nat) : Nat :=
  let w := 8 * k
  let sx := fun x => Float.patInt w true x
  match op with
  | 0 => (old + y) % 2 ^ w
  | 1 => old &&& y
  | 2 => old ||| y
  | 3 => old ^^^ y
  | 4 => if sx y < sx old then y else old
  | 5 => if sx y > sx old then y else old
  | 6 => min old y
  | 7 => max old y
  | _ => y

/-- `Combine` of R281: kind 0 integer, 1 FP32, 2 FP64. -/
def combine (op kind k old y : Nat) : Nat :=
  match kind with
  | 1 => (Float.round Float.f32 0 0 (Float.add 0 (Float.decode Float.f32 old) (Float.decode Float.f32 y)).1).1
  | 2 => (Float.round Float.f64 0 0 (Float.add 0 (Float.decode Float.f64 old) (Float.decode Float.f64 y)).1).1
  | _ => amoOp op k old y

/-- The identity that a partial starts at (R282). -/
def partialIdentity (op kind k : Nat) : Nat :=
  let w := 8 * k
  if kind ≠ 0 then 2 ^ (w - 1)
  else match op with
    | 1 => 2 ^ w - 1
    | 4 => 2 ^ (w - 1) - 1
    | 5 => 2 ^ (w - 1)
    | 6 => 2 ^ w - 1
    | _ => 0

/-! ## L1 lines (R147, R282) -/

/-- A byte range of a line's 128 bytes. -/
def L1Line.get (l : L1Line) (o n : Nat) : List Byte := (l.bytes.drop o).take n

/-- Replaces bytes of a list from an offset. -/
def overwrite (bytes : List Byte) (o : Nat) (bs : List Byte) : List Byte :=
  bytes.take o ++ bs ++ bytes.drop (o + bs.length)

/-- Whether every sector of a range is held. -/
def L1Line.covers (l : L1Line) (o n : Nat) : Bool :=
  l.upd.isNone && (List.range 4).all fun i => (i * 32 + 32 ≤ o || o + n ≤ i * 32) || l.valid.getLsbD i

/-- The runs of dirty bytes in a line, as offset and bytes, granule by granule. -/
def L1Line.dirtyRuns (l : L1Line) : List (Nat × List Byte) :=
  (List.range 128).filterMap fun i =>
    if l.dirty.getLsbD i && (i % 32 = 0 || !l.dirty.getLsbD (i - 1)) then
      let n := ((List.range (32 - i % 32)).takeWhile fun j => l.dirty.getLsbD (i + j)).length
      some (i, l.get i n)
    else none

/-- The sectors of a line that an error has struck and that a range overlaps: cause and number of the first (R430). -/
def L1Line.failing (l : L1Line) (o n : Nat) : Option (BitVec 8 × Nat) :=
  (l.fails.find? fun e => e.1 * 32 < o + n && o < e.1 * 32 + 32).map fun e => (e.2, e.1)

/-- Whether all bytes of granule `g` are dirty. -/
def L1Line.granuleDirty (l : L1Line) (g : Nat) : Bool := (List.range 16).all fun i => l.dirty.getLsbD (16 * g + i)

/-- Flushes update-only partials into memory (R282, R283). -/
def State.flushPartials (s : State) (line : Nat) (l : L1Line) (u : UpdateOnly) : State :=
  let s := (List.range (128 / u.k)).foldl (fun s i =>
    let a := line * 128 + i * u.k
    let old := leNat (s.bytesAt a u.k)
    s.putSector a (leBytes u.k (combine u.op u.kind u.k old (leNat (l.get (i * u.k) u.k))))) s
  (s.l2Put (line * 128) 128).wakeAt (line * 128)

/-- The cores that hold a line in update-only state (R278). -/
def State.holders (s : State) (line : Nat) : List Nat :=
  (s.cores.filter fun e => (lookupD L1Line.empty e.2.lines line).upd.isSome).map (·.1)

/-- A line that nobody holds in update-only state leaves the directory (R282). -/
def State.unregister (s : State) (line : Nat) : State :=
  if (s.holders line).isEmpty then
    { s with units := { s.units with directory := s.units.directory.filter fun l => l ≠ line } }
  else s

/-- Writes back what a core's line holds (R115, R147, R282): dirty bytes with their granule tags, or partials. The line
stays, clean, unless it was update-only. Log 29 (DEDUCED). -/
def State.writeBackLine (s : State) (core line : Nat) : State :=
  let c := s.core core
  let l := lookupD L1Line.empty c.lines line
  match l.upd with
  | some u =>
    ((s.flushPartials line l u).withCore core { c with lines := storeAt L1Line.empty line L1Line.empty c.lines }).unregister line
  | none =>
    if l.dirty = 0 then s
    else
      let s := l.dirtyRuns.foldl (fun s r => s.homePut (line * 128 + r.1) r.2) s
      -- an error goes with the sector that it lies in (R356, R430)
      let s := l.fails.foldl (fun s e =>
        if (List.range 32).any fun i => l.dirty.getLsbD (32 * e.1 + i) then
          { s with bad := storeAt 0 (canon (line * 128 + 32 * e.1) / 32) e.2 s.bad } else s) s
      let s := (List.range 8).foldl (fun s g =>
        if l.granuleDirty g && l.tags.getLsbD g && s.badAt (line * 128 + 16 * g) = 0 then
          s.putTag (line * 128 + 16 * g) true else s) s
      s.withCore core { c with lines := storeAt L1Line.empty line { l with dirty := 0 } c.lines }

/-- Drops a line from a core's L1. -/
def State.dropLine (s : State) (core line : Nat) : State :=
  let c := s.core core
  s.withCore core { c with lines := storeAt L1Line.empty line L1Line.empty c.lines }

/-- Drops a line, by its global number, from a core's L1 instruction cache (R148). -/
def State.dropCode (s : State) (core line : Nat) : State :=
  let c := s.core core
  s.withCore core { c with code := storeAt [] line [] c.code }

/-- Writes a line back and drops it (R277). -/
def State.leaveLine (s : State) (core line : Nat) : State := (s.writeBackLine core line).dropLine core line

/-- Recalls the update-only copies of a line in ascending core number (R283). -/
def State.recall (s : State) (line : Nat) : State :=
  (s.holders line).foldl (fun s c => s.leaveLine c line) s

/-- Registers a line in the directory of its home slice, 8192 entries (R278): a full one recalls the holders of its least
recently used entry, which is the one registered longest ago. Log 99 (DEDUCED). -/
def State.register (s : State) (line : Nat) : State :=
  let rest := s.units.directory.filter fun l => l ≠ line
  let mine := rest.filter fun l => sliceOf (l * 128) = sliceOf (line * 128)
  let s := if mine.length < 8192 then s else match mine with
    | l :: _ => s.recall l
    | [] => s
  { s with units := { s.units with directory := (s.units.directory.filter fun l => l ≠ line) ++ [line] } }

/-- Recalls every line of a range. -/
def State.recallRange (s : State) (a n : Nat) : State :=
  (List.range ((a % 128 + n + 127) / 128)).foldl (fun s i => s.recall (a / 128 + i)) s

/-- Writes back every dirty line of a core, as a release does (R115). Update-only lines keep their partials. -/
def State.releaseCore (s : State) (core : Nat) : State :=
  ((s.core core).lines.filter fun e => e.2.upd.isNone).foldl (fun s e => s.writeBackLine core e.1) s

/-- Empties the L1 instruction cache of a core: what is fetched next is read anew (R148). -/
def State.refetch (s : State) (core : Nat) : State := s.withCore core { s.core core with code := [] }

/-- Drops every ordinary line of a core after writing it back, as an acquire does (R115), and its instructions (R148). -/
def State.acquireCore (s : State) (core : Nat) : State :=
  ((s.core core).lines.filter fun e => e.2.upd.isNone).foldl (fun s e => s.leaveLine core e.1) (s.refetch core)

/-- An access at the home (R283): recalls the line's holders, then reads. Log 22 (DESIGN CHOICE). -/
def homeRead (a n : Nat) : M (List Byte) := fun s =>
  let s := s.recallRange a n
  .ok (s.bytesAt a n) s

/-- A write at the home, after the recall of R283. Log 22 (DESIGN CHOICE). -/
def homeWrite (a : Nat) (bs : List Byte) : M Unit := fun s => .ok () ((s.recallRange a bs.length).homePut a bs)

/-- A combination at the home that an `amou` asks for: it causes no recall (R283). -/
def homeCombine (a : Nat) (op kind k y : Nat) : M Unit := modify fun s =>
  s.homePut a (leBytes k (combine op kind k (leNat (s.bytesAt a k)) y))

/-- Raises the error of the first failing sector of a range, with the sector's address (R342, R357). `va` is the address
that the consumer used. Log 31 (DEDUCED). -/
def checkSectors (va a n : Nat) : M Unit := fun s =>
  match s.firstBad a n with
  | none => .ok () s
  | some (c, i) => .error (.trap c (BitVec.ofNat 64 ((va + i) / 32 * 32)) none) s

/-- Makes room for a line in a core's L1 of 64 sets of 8 lines (R147): a full set gives one up, which one nobody can tell. Log 12 (DESIGN CHOICE). -/
def State.l1Room (s : State) (core line : Nat) : State :=
  let held := ((s.core core).lines.filter fun e => e.1 % 64 = line % 64 && e.1 ≠ line && e.2 ≠ L1Line.empty).map (·.1)
  if held.length < 8 then s
  else match held[Config.victim s.steps % held.length]? with
    | some v => s.leaveLine core v
    | none => s

/-- Fetches the sectors of a range into a core's line, if the L1 does not hold them (R147). A line in update-only state
is flushed by the recall (R309). Log 12 (DESIGN CHOICE). Log 29 (DEDUCED). -/
def fillLine (core a n : Nat) : M Unit := fun s =>
  let line := a / 128
  let s := (s.recall line).l1Room core line
  let s := if (lookupD L1Line.empty (s.core core).lines line).covers (a % 128) n then s else s.countCore core 3 1
  let c := s.core core
  let l := lookupD L1Line.empty c.lines line
  let l := if l.valid = 0 then { L1Line.empty with bytes := List.replicate 128 0 } else l
  let l := (List.range 4).foldl (fun l i =>
    if (i * 32 + 32 ≤ a % 128 || a % 128 + n ≤ i * 32) || l.valid.getLsbD i then l
    else
      let b := line * 128 + i * 32
      { l with
        bytes := overwrite l.bytes (i * 32) (s.bytesAt b 32)
        valid := l.valid ||| BitVec.ofNat 4 (2 ^ i)
        tags := (List.range 2).foldl (fun t g =>
          if s.tagAt (b + 16 * g) then t ||| BitVec.ofNat 8 (2 ^ (2 * i + g))
          else t &&& ~~~ (BitVec.ofNat 8 (2 ^ (2 * i + g)))) l.tags }) l
  .ok () (s.withCore core { c with lines := storeAt L1Line.empty line l c.lines })

/-! ## Translation (R292 to R295) -/

/-- The key of a TLB entry (R295): groups 0 to 7 are the TLBs of the C-dies, 8 to 11 those of the E-dies' engines, and 12 + q is the
micro-TLB of quad q; a 32 MiB page is one entry. -/
def tlbKey (group : Nat) (t : BitVec 12) (level a : Nat) : Nat :=
  ((group * 4096 + t.toNat) * 4 + level % 4) * 2 ^ 32 + (if level = 1 then a / 2 ^ 25 else a / 65536) % 2 ^ 32

/-- The TLB group of a strand: the micro-TLB of its quad (R295). -/
def microTlb (sid : Nat) : Nat := 12 + quadOf sid

/-- The C-die whose shared TLB and walkers serve a group (R295). -/
def tlbDie (group : Nat) : Nat := if group < 8 then group else if group < 12 then 2 * (group - 8) else (group - 12) / 128

/-- The entries that a TLB can hold (R295). -/
def tlbSize (group : Nat) : Nat := if group < 8 then 16384 else if group < 12 then 4096 else 256

/-- The entry of a TLB for an address; its page entry is not valid when there is none. Log 12 (DESIGN CHOICE). -/
def State.tlbFind (s : State) (group : Nat) (t : BitVec 12) (a : Nat) : TlbEntry :=
  let e := lookupD ⟨0, 0⟩ s.tlb (tlbKey group t 2 a)
  if bitAt e.pte 0 then e else lookupD ⟨0, 0⟩ s.tlb (tlbKey group t 1 a)

/-- A TLB takes an entry; a full one gives another up first, which one nobody can tell. Log 12 (DESIGN CHOICE). -/
def State.tlbPut (s : State) (group : Nat) (t : BitVec 12) (a : Nat) (e : TlbEntry) : State :=
  let key := tlbKey group t e.level a
  let held := s.tlb.filter fun x => x.1 / 2 ^ 46 = group && x.1 ≠ key
  let tlb := if held.length < tlbSize group then s.tlb
    else match held[Config.victim s.steps % held.length]? with
      | some v => storeAt ⟨0, 0⟩ v.1 ⟨0, 0⟩ s.tlb
      | none => s.tlb
  { s with tlb := storeAt ⟨0, 0⟩ key e tlb }

/-- Fields of a page table entry (R292). -/
def pteV (e : Word) : Bool := bitAt e 0
def pteLeaf (e : Word) : Bool := bitAt e 1
def pteR (e : Word) : Bool := bitAt e 2
def pteW (e : Word) : Bool := bitAt e 3
def pteX (e : Word) : Bool := bitAt e 4
def pteAt (e : Word) : Bool := bitAt e 5
def pteNc (e : Word) : Bool := bitAt e 6
def pteM (e : Word) : Bool := bitAt e 7
def pteD (e : Word) : Bool := bitAt e 8
def ptePa (e : Word) : Nat := fieldAt e 16 39 * 65536
def pteReserved (e : Word) : Bool := fieldAt e 9 7 ≠ 0 || fieldAt e 55 9 ≠ 0

/-- A page table entry at its home; a failing sector ends the walk with the error at the address under translation, and is
counted with the entry's global address (R293). Log 31 (DEDUCED). -/
def readPte (a va : Nat) : M Word := do
  let s ← get
  if s.badAt a ≠ 0 then do
    set { s with units := { s.units with walkErrors := s.units.walkErrors ++ [(s.badAt a, s.globalOf a)] } }
    raise (s.badAt a) va
  else
    let bs ← homeRead a 8
    pure (BitVec.ofNat 64 (leNat bs))

/-- Whether a table lies in the own package's DRAM (R293). -/
def tableOk (s : State) (p : Nat) : Bool := pkgOf p = s.pkg && place (localOf p) = .dram

/-- Whether a tenant's colonies on this package grant the channel group of a DRAM page (R364). The boot strand's walks
are exempt (R392). -/
def channelGranted (s : State) (t : BitVec 12) (p : Nat) : Bool :=
  pkgOf p ≠ s.pkg || place (localOf p) ≠ .dram || s.units.boot = some s.cur ||
    s.units.colonies.any fun e =>
      match e.2 with
      | some c => c.tenant = t && c.chan.getLsbD (localOf p / 2 ^ 34)
      | none => false

/-- The walk of R293; a tenant's root is kept with bit 0 set: the leaf entry, its level and the local address it stands at. -/
def walk (t : BitVec 12) (a : Nat) : M (Word × Nat × Nat) := do
  let s ← get
  let root := lookupD 0 s.roots t.toNat
  if root = 0 then raise cXlat a
  let e0a := localOf (root.toNat / 2 * 2) + a / 2 ^ 36 % 4096 * 8
  let e0 ← readPte e0a a
  if !pteV e0 || pteLeaf e0 || pteReserved e0 || !tableOk s (ptePa e0) then raise cXlat a
  let e1a := localOf (ptePa e0) + a / 2 ^ 25 % 2048 * 8
  let e1 ← readPte e1a a
  if !pteV e1 || pteReserved e1 then raise cXlat a
  let (e, level, ea) ←
    if pteLeaf e1 then
      if ptePa e1 % 2 ^ 25 ≠ 0 then raise cXlat a else pure (e1, 1, e1a)
    else if !tableOk s (ptePa e1) then raise cXlat a
    else do
      let e2a := localOf (ptePa e1) + a / 2 ^ 16 % 512 * 8
      let e2 ← readPte e2a a
      if !pteV e2 || !pteLeaf e2 || pteReserved e2 then raise cXlat a else pure (e2, 2, e2a)
  let p := ptePa e + (if level = 1 then a % 2 ^ 25 else a % 65536)
  if place (localOf p) = .reserved then raise cXlat a
  if pteM e && s.units.sizes.1 = 1 then raise cXlat a
  if !channelGranted s t p then raise cXlat a
  pure (e, level, ea)

/-- The physical address that a leaf gives. -/
def leafAddr (e : TlbEntry) (a : Nat) : Nat :=
  ptePa e.pte + (if e.level = 1 then a % 2 ^ 25 else a % 65536)

/-- Whether a leaf grants an access (R293). -/
def pteGrants (e : Word) (perm : BitVec 12) : Bool :=
  let wants := fun (p : BitVec 12) => perm &&& p ≠ 0
  (!(wants Cap.ld || wants Cap.lc) || pteR e) && (!(wants Cap.st || wants Cap.sc) || pteW e) &&
    (!wants Cap.x || pteX e) && (!wants Cap.atm || (pteR e && pteW e && pteAt e))

/-- The colony whose loaded node covers a quad (R362, R363). -/
def covers (id q : Nat) : Bool :=
  let d := Nat.log2 id
  id ≠ 0 && d ≤ 10 && (id - 2 ^ d) * (1024 >>> d) ≤ q && q < (id - 2 ^ d + 1) * (1024 >>> d)

/-- A colony record. -/
def State.colony (s : State) (id : Nat) : Option Colony := lookupD none s.units.colonies id

/-- The state with a colony record replaced. -/
def State.withColony (s : State) (id : Nat) (c : Option Colony) : State :=
  { s with units := { s.units with colonies := storeAt none id c s.units.colonies } }

/-- The colony that a strand belongs to: the one whose loaded or yielding node covers its quad; the boot strand belongs
to none, which is 0 (R363, R392). -/
def State.colonyOf (s : State) (sid : Nat) : Nat :=
  match s.units.colonies.find? (fun e =>
    match e.2 with
    | some c => (c.state = .loaded || c.state = .yielding) && covers e.1 (quadOf sid)
    | none => false) with
  | some e => e.1
  | none => 0

/-- Whether an interrupt of a code would be taken in the strand's mode (R134, R137). -/
def Strand.takeable (t : Strand) (code : BitVec 8) : Bool :=
  if code = cSlice || code = cDirtyLog || code = cMachine then t.mode ≠ .hypervisor
  else t.mode = .user || (t.mode = .supervisor && bitAt t.status 1)

/-- Adds an interrupt to a strand's pending list; a later Scout interrupt of the same ring replaces the value of the one
held (R355). One that the current mode would take sets the wake flag (R163). -/
def Strand.interrupt (t : Strand) (code : BitVec 8) (value : Word) : Strand :=
  let same := fun (e : BitVec 8 × Word) =>
    e.1 = code && (e.2 = value || (code = cScout && e.2.toNat % 256 = value.toNat % 256))
  { t with pending := t.pending.filter (fun e => !same e) ++ [(code, value)], wake := t.wake || t.takeable code }

/-- An interrupt for the control strand (R366); with none it is discarded, and a machine check stops the package. Log 94 (DEDUCED). -/
def raiseControl (code : BitVec 8) (value : Word) : M Unit := do
  let s ← get
  match s.units.control with
  | some sid =>
    if (s.strand sid).live then modStrand sid fun t => t.interrupt code value
    else if code = cMachine then throw (.stop .machineCheckStop) else pure ()
  | none => if code = cMachine then throw (.stop .machineCheckStop) else pure ()

/-- Records a page in the dirty log of the colony that the access is attributed to (R294, R387). -/
def logDirty (colony : Nat) (t : BitVec 12) (a level : Nat) : M Unit := do
  let s ← get
  match s.colony colony with
  | none => pure ()
  | some c =>
    match c.log with
    | none => pure ()
    | some log =>
      let page := if level = 1 then a / 2 ^ 25 * 2 ^ 25 else a / 65536 * 65536
      let lookup := fun (va : Nat) => do
        let r ← attempt (walk (Cap.tenant log.cap.val) va)
        match r with
        | .ok (e, lv, _) => pure (some (localOf (leafAddr ⟨e, lv⟩ va)))
        | .error _ => pure none
      let base := Cap.cursor log.cap.val
      let head ← lookup base
      match head with
      | none => pure ()
      | some h =>
        let hd ← homeRead h 24
        let rp := leNat ((hd.drop 8).take 8)
        let n := leNat ((hd.drop 16).take 4)
        let put := fun (va : Nat) (bs : List Byte) => do
          let r ← lookup va
          match r with
          | none => pure ()
          | some p => homeWrite p bs
        if log.overflowed || (log.wp - rp) % 2 ^ 64 = n then do
          let bit := page / 2 ^ 26
          let va := base + 64 + bit / 8
          let r ← lookup va
          match r with
          | none => pure ()
          | some p => do
            let old ← homeRead p 1
            homeWrite p [BitVec.ofNat 8 (leNat old ||| 2 ^ (bit % 8))]
          homeWrite (h + 20) (leBytes 4 1)
          modify fun s => s.withColony colony (some { c with log := some { log with overflowed := true, raised := true } })
          if log.raised then pure () else raiseControl cDirtyLog (BitVec.ofNat 64 colony)
        else do
          put (base + 64 + 524288 + 8 * (log.wp % n)) (leBytes 8 (page + (if level = 1 then 3 else 1)))
          homeWrite h (leBytes 8 (log.wp + 1))
          modify fun s => s.withColony colony (some { c with log := some { log with wp := log.wp + 1 } })
      let _ := t
      pure ()

/-- An entry for the TLB of a group, and for the shared TLB behind a micro-TLB (R295). -/
def fillTlb (group : Nat) (t : BitVec 12) (a : Nat) (e : TlbEntry) : M Unit := modify fun s =>
  let s := if group < 12 then s else s.tlbPut (tlbDie group) t a e
  s.tlbPut group t a e

/-- The translation that a TLB group uses: its own entry, that of the shared TLB behind it, or a walk's (R295). -/
def tlbEntryFor (group : Nat) (t : BitVec 12) (a : Nat) : M TlbEntry := do
  let s ← get
  let hit := s.tlbFind group t a
  let behind := s.tlbFind (tlbDie group) t a
  if pteV hit.pte then pure hit
  else if group ≥ 12 && pteV behind.pte then do
    set (s.tlbPut group t a behind)
    pure behind
  else do
    set (s.countDie (tlbDie group) 0x1005 1)
    let (pte, level, _) ← walk t a
    fillTlb group t a ⟨pte, level⟩
    pure ⟨pte, level⟩

/-- `Translate` of R293 for a tenant and TLB group; `colony` is what a dirty-page record is attributed to. Log 12 (DESIGN CHOICE). -/
def translateFor (group colony : Nat) (t : BitVec 12) (a : Nat) (perm : BitVec 12) : M (Nat × Word) := do
  let e ← tlbEntryFor group t a
  if !pteGrants e.pte perm then raise cXlat a
  let writes := perm &&& (Cap.st ||| Cap.sc ||| Cap.atm) ≠ 0
  let e ←
    if writes && !pteD e.pte then do
      let (pte, level, ea) ← walk t a
      if !pteGrants pte perm then raise cXlat a
      homeWrite ea (leBytes 8 (pte.toNat ||| 256))
      let e : TlbEntry := ⟨pte ||| 256, level⟩
      fillTlb group t a e
      logDirty colony t a level
      pure e
    else pure e
  pure (leafAddr e a, e.pte)

/-- Translation of an access of the current strand. -/
def translate (t : BitVec 12) (a : Nat) (perm : BitVec 12) : M (Nat × Word) := do
  let s ← get
  translateFor (microTlb s.cur) (s.colonyOf s.cur) t a perm

end Sys2Proof.Machine
end

