-- ==== Sys2Proof/Machine/Mem.lean ====
section
/-! DEFINITION. Memory as a strand's accesses see it: the core path with its scopes, the memory ports and trace rings,
register windows, ports of engines, atomics at the home, and requests to other packages. -/

namespace Sys2Proof.Machine

/-! ## Requests to other packages (R398, R404, R408) -/

/-- A request packet of the current strand to the package that owns `p`; the transaction number is set when it leaves. Log 18 (DESIGN CHOICE). -/
def requestPacket (s : State) (p ty vc : Nat) (tenant : BitVec 12) (op : PacketOp) (data : List Byte) (tag : Bool) :
    Packet :=
  { dst := pkgOf p, src := s.fullSid s.cur, ty := ty, vc := vc, dl := false, dt := 0, mr := false, ls := true,
    mirrored := false, tenant := tenant, txn := 0, tag := tag, addr := localOf p, op := op, data := data, wrong := [] }

/-- Asks another package and gives its answer. The instruction is tried again until the answer is there; an answer is
found by its place in the order in which the instruction asks. Log 15 (DEDUCED). Log 17 (DEDUCED). -/
def askPacket (pk : Packet) : M Answer := do
  let t ← self
  modSelf fun t => { t with opIndex := t.opIndex + 1 }
  match t.asked[t.opIndex]? with
  | none => throw (.ask pk)
  | some txn =>
    match t.answers.find? (fun a => a.txn = txn) with
    | none => throw .retry
    | some a => pure a

/-- Raises `peer` when the package that owns an address is marked lost (R408). -/
def checkPeer (p : Nat) : M Unit := do
  let s ← get
  raiseIf (s.units.lost.contains (pkgOf p)) cPeer (p % 2 ^ 55)

/-- Whether what a packet asks for writes memory at its home. -/
def opWrites : PacketOp → Bool
  | .write | .amou .. | .amo .. | .fwr _ | .region .. => true
  | _ => false

/-- A request for which the instruction waits: the answer, or the fault that it brings (R405, R408, R420). A fault at the
home names a place relative to the request's address, which is `va` for the tenant. Log 17 (DEDUCED). -/
def askRequest (va p : Nat) (pk : Packet) : M Answer := do
  checkPeer p
  let a ← askPacket pk
  match a.op with
  | .fail c v => throw (.trap c v none)
  | .failAt c off => raise c ((va + off) % 2 ^ 48).toNat
  | .unreachable => raise cPeer (p % 2 ^ 55)
  | _ => do
    -- the write has been performed at its home (R163)
    if opWrites pk.op then modify fun s => s.wakeLine (p % 2 ^ 55 / 128) else pure ()
    pure a

/-- `askRequest` for a packet given by its parts. -/
def askRemote (va p ty vc : Nat) (tenant : BitVec 12) (op : PacketOp) (data : List Byte) (tag : Bool) : M Answer := do
  let s ← get
  askRequest va p (requestPacket s p ty vc tenant op data tag)

/-- A write to one copy of a mirrored page in another package, for which the instruction waits (R406). -/
def askMirror (va p ty : Nat) (tenant : BitVec 12) (op : PacketOp) (data : List Byte) (tag mr : Bool) : M Unit := do
  let s ← get
  let _ ← askRequest va p { requestPacket s p ty 0 tenant op data tag with mirrored := true, mr := mr }
  pure ()

/-- The other package of a mirrored pair: the id that differs only in bit 0, at the same local address (R406). -/
def mirrorOf (p : Nat) : Nat := if pkgOf p % 2 = 0 then p + 2 ^ 41 else p - 2 ^ 41

/-- Where a load of a mirrored page goes: the primary, or the secondary once the primary is lost (R406). Log 87 (DEDUCED). -/
def mirrorLoad (p : Nat) (pte : Word) : M Nat := do
  let s ← get
  pure (if pteM pte && s.units.lost.contains (pkgOf p) then mirrorOf p else p)

/-! ## Physical registers -/

/-- A strand's physical register. -/
def Strand.phys (t : Strand) (i : Nat) : Reg := lookupD Reg.zero t.regs (i % 256)

/-- The strand with a physical register written from outside: A-owned, a copy in both roles (R90, R151). What older
instructions have yet to write to it gives way to it (R158). -/
def Strand.deposit (t : Strand) (i : Nat) (r : Reg) : Strand :=
  { t with
    regs := storeAt Reg.zero (i % 256) r t.regs
    inflight := t.inflight.filter fun h => !(h.file = 0 && h.num = i % 256)
    eOwned := t.eOwned &&& ~~~ (1#256 <<< (i % 256))
    copies := t.copies ||| (1#256 <<< (i % 256)) }

/-- The physical register that `w`n names (R69). -/
def Strand.physOf (t : Strand) (n : Nat) : Nat := (t.win.base + n) % 256

/-- A deposit that a core applies to a strand (R158): the value becomes final, the wake flag is set, and an instruction
issued in the clk of arrival that names the register counts as a collision. Log 30 (DESIGN CHOICE). -/
def applyDeposit (sid i n : Nat) (r : Reg) : M Unit := do
  let t ← getStrand sid
  let hit := t.named.contains n && Config.depositSameClk sid t.clk
  let col := if hit then min (t.depcol.toNat + 1) 0xFFFFFFFF else t.depcol.toNat
  setStrand sid { t.deposit i r with wake := true, depcol := BitVec.ofNat 64 col }
  if hit then modify fun s => s.countCore (coreOf sid) 7 1

/-! ## Register windows (R149 to R151) -/

/-- What a window offset names. -/
inductive WindowSlot where
  | reg (sid i : Nat)
  | frame (sid n : Nat)
  | trace (i : Nat)
  | count
  | none
  deriving DecidableEq, Repr

def windowSlot (core off : Nat) : WindowSlot :=
  let sid := core * 2 + off / 0x2000
  let o := off % 0x2000
  if off < 0x4000 then
    if o < 0x1000 then .reg sid (o / 16) else if o < 0x1400 then .frame sid (o / 16 % 64) else .none
  else if off < 0x5000 then .trace (off / 16 % 256)
  else if off / 8 * 8 = 0x5000 then .count
  else .none

/-- Advances a strand's time by a number of clk (R42, R81). Log 10 (DESIGN CHOICE). -/
def Strand.advance (t : Strand) (n : Nat) : Strand :=
  { t with clk := t.clk + n, cycle := t.cycle + BitVec.ofNat 64 n }

/-- An access of a strand to its own registers through the window waits until every older instruction has written its
results (R151). -/
def Strand.drain (t : Strand) : Strand :=
  { t.advance ((t.inflight.foldl (fun c h => max c h.ready) t.clk) - t.clk) with inflight := [] }

/-- The current strand's wait, where it accesses its own registers or frame. -/
def drainOwn (slot : WindowSlot) : M Unit := do
  let sid ← curSid
  match slot with
  | .reg b _ => if b = sid then modSelf Strand.drain else pure ()
  | .frame b _ => if b = sid then modSelf Strand.drain else pure ()
  | _ => pure ()

/-- A window read of 8 or 16 bytes (R150): the register with its tag, or the 64 bits named. -/
def windowRead (core off n va : Nat) : M Reg := do
  raiseIf (n ≠ 8 && n ≠ 16) cAlign va
  drainOwn (windowSlot core off)
  let s ← get
  let part := fun (r : Reg) =>
    if n = 16 then r else Reg.ofWord (if off % 16 = 0 then r.word else BitVec.ofNat 64 (r.val.toNat / 2 ^ 64))
  match windowSlot core off with
  | .reg sid i => pure (if (s.strand sid).live then part ((s.strand sid).phys i) else Reg.zero)
  | .frame sid k =>
    let t := s.strand sid
    if !t.live then pure Reg.zero
    else if k ≥ t.win.frame then raise cFrame k
    else pure (part (t.phys (t.physOf k)))
  | .trace i => pure (part ⟨lookupD 0 (s.core core).ring i, false⟩)
  | .count => pure (if n = 16 then ⟨(s.core core).traced.setWidth 128, false⟩ else Reg.ofWord (s.core core).traced)
  | .none => pure Reg.zero

/-- The address of a byte of a register window. -/
def windowAddr (core off : Nat) : Nat := dieWindows + core / 512 * 0x40000000 + 0x20000000 + core % 512 * 0x8000 + off

/-- A window write of 8 or 16 bytes (R150, R151). It wakes the strand that it writes into, and those that monitor the line
(R163). -/
def windowWrite (core off n va : Nat) (r : Reg) : M Unit := do
  raiseIf (n ≠ 8 && n ≠ 16) cAlign va
  drainOwn (windowSlot core off)
  let s ← get
  let merge := fun (old : Reg) =>
    if n = 16 then r
    else if off % 16 = 0 then ⟨BitVec.ofNat 128 (old.val.toNat / 2 ^ 64 * 2 ^ 64 + r.word.toNat), false⟩
    else ⟨BitVec.ofNat 128 (old.val.toNat % 2 ^ 64 + r.word.toNat * 2 ^ 64), false⟩
  let write := fun (sid i k : Nat) =>
    let t := s.strand sid
    if sid = s.cur then setStrand sid { t.deposit i (merge (t.phys i)) with wake := true }
    else applyDeposit sid i k (merge (t.phys i))
  match windowSlot core off with
  | .reg sid i =>
    let t := s.strand sid
    if t.live then write sid i ((i + 256 - t.win.base % 256) % 256) else pure ()
  | .frame sid k =>
    let t := s.strand sid
    if !t.live then pure ()
    else if k ≥ t.win.frame then raise cFrame k
    else write sid (t.physOf k) k
  | _ => pure ()
  modify fun s => s.wakeAt (windowAddr core off)

/-! ## Memory ports and trace rings (R146, R165) -/

/-- Whether a core's trace ring records (R165). -/
def State.tracing (s : State) (core : Nat) : Bool :=
  [2 * core, 2 * core + 1].any fun sid => (s.strand sid).live && bitAt (s.strand sid).ctl 1

/-- A write that arrives at a core's memory port from outside the core, entry by entry for each 128-byte line. Log 35 (DESIGN CHOICE). -/
def portWrite (core off : Nat) (bs : List Byte) (src : BitVec 28) (path : Nat) : M Unit := do
  let s ← get
  for p in splitAt 128 (bs.length / 128 + 2) off bs do
    if s.tracing core then
      modCore core fun c =>
        let e := c.clk % 2 ^ 40 * 2 ^ 88 + src.toNat * 2 ^ 60 + path % 8 * 2 ^ 57 + (p.2.length - 1) % 128 * 2 ^ 50 + p.1
        { c with ring := storeAt 0 (c.traced.toNat % 256) (BitVec.ofNat 128 e) c.ring, traced := c.traced + 1 }
    homeWrite (spadAddr core p.1) p.2

/-- Whether a local address lies in a quad-shared window (R272, R274). -/
def inQuadWindow (a : Nat) : Bool :=
  dieWindows ≤ a && a < dieWindows + 8 * 0x40000000 &&
    0x10000000 ≤ (a - dieWindows) % 0x40000000 && (a - dieWindows) % 0x40000000 < 0x18000000

/-- A write at an address of this package by a path that works at the homes: engines, remote operations, hosts. A
scratchpad write passes the memory port. The address must not be a window, port or alias. Log 46 (DEDUCED). -/
def pathWrite (a : Nat) (bs : List Byte) (src : BitVec 28) (path : Nat) : M Unit := do
  for p in splitAt 128 (bs.length / 128 + 2) a bs do
    match place p.1 with
    | .coreSpad c o => portWrite c o p.2 src path
    | _ => homeWrite p.1 p.2

/-- A read of this package at the home, by a path other than the core path; `va` is the address that faults name. Log 46 (DEDUCED). -/
def pathRead (va a n : Nat) : M (List Byte) :=
  match place a with
  | .window c o => do
    let r ← windowRead c o n va
    pure (leBytes n r.val.toNat)
  | .port _ => raise cPerm va
  | .aliasWindow _ => raise cPerm va
  | .reserved => raise cXlat va
  | _ => do
    checkSectors va a n
    homeRead a n

/-- A write of this package at the home, by a path other than the core path. A register takes it as a deposit. -/
def pathDeliver (va a : Nat) (bs : List Byte) (src : BitVec 28) (path : Nat) : M Unit :=
  match place a with
  | .window c o => asStrand 16384 (windowWrite c o bs.length va ⟨BitVec.ofNat 128 (leNat bs), false⟩)
  | .port _ => raise cPerm va
  | .aliasWindow _ => raise cPerm va
  | .reserved => raise cXlat va
  | _ => do
    let _ ← homeRead a bs.length
    pathWrite a bs src path

/-! ## Ports (R343, R352, R360) -/

def mailboxOff : Nat := 0x30000000

/-- The queue status word of R352. -/
def CopyQueue.status (q : CopyQueue) : Word :=
  BitVec.ofNat 64 ((if q.err then 2 ^ 63 else 0) + q.cmds.length % 32 * 2 ^ 57 + q.cause.toNat * 2 ^ 48 + q.addr % 2 ^ 48)

def State.queue (s : State) (q : Nat) : CopyQueue := lookupD CopyQueue.empty s.units.queues q

/-- The bits of an agent port: bit i when routine slot i is loaded (R343). Log 38 (DEDUCED). -/
def State.agentStatus (s : State) : Word :=
  BitVec.ofNat 64 ((List.range 64).foldl (fun n i =>
    if (lookupD none s.units.agentSlots i).isSome then n + 2 ^ i else n) 0)

/-- Whether a mailbox offset holds state (R360); the rest reads zero and ignores writes. Log 75 (DEDUCED). -/
def mailboxHeld (o : Nat) : Bool := o < 0x10 || (0x1000 ≤ o && o < 0x9000)

/-- A read of the mailbox by 8 bytes. Log 75 (DEDUCED). -/
def mailboxRead (o : Nat) : M (List Byte) := do
  let s ← get
  pure (if mailboxHeld o then s.bytesAt (0x1F000000000 + mailboxOff + o) 8 else List.replicate 8 0)

/-- Log 75 (DEDUCED). -/
def mailboxWrite (o : Nat) (bs : List Byte) : M Unit :=
  if mailboxHeld o then modify fun s => s.putBytes (0x1F000000000 + mailboxOff + o) bs else pure ()

/-- Whether a strand may use the mailbox (R360): hypervisor mode, 8 bytes, plain, quad scope or wider, and a page that
grants reading and writing. Log 38 (DEDUCED). -/
def mailboxAllowed (t : Strand) (n ord scope : Nat) (pte : Word) : Bool :=
  t.mode = .hypervisor && n = 8 && ord = 0 && scope ≥ 2 && pteR pte && pteW pte

/-! ## What a strand's operations wait for (R160, R265, R310) -/

/-- Whether a put of the strand is not yet performed at its destination, mirrored copies included; those under way at the save of
an image that the strand has restored count as its own (R310). -/
def State.putsOutstanding (s : State) (sid : Nat) : Bool :=
  s.units.requests.any (fun r => r.use = .put && (r.sid = sid || (s.strand sid).owed.contains (false, r.txn))) ||
    s.units.mirrors.any (fun p => p.2.src = s.fullSid sid)

/-- Whether a copy command of the strand is not yet performed. -/
def State.copiesOutstanding (s : State) (sid : Nat) : Bool :=
  s.units.queues.any fun q => q.2.cmds.any fun c =>
    (c.members.any fun m => m.sid = sid) || (s.strand sid).owed.contains (true, c.id)

/-- The puts and copy commands of a strand that are under way (R310). -/
def State.owedBy (s : State) (sid : Nat) : List (Bool × Nat) :=
  let own := (s.strand sid).owed
  ((s.units.requests.filter fun r => r.use = .put && (r.sid = sid || own.contains (false, r.txn))).map fun r => (false, r.txn)) ++
    (s.units.queues.flatMap fun q => (q.2.cmds.filter fun c =>
      (c.members.any fun m => m.sid = sid) || own.contains (true, c.id)).map fun c => (true, c.id))

/-- Waits until the strand's own puts have been performed: what has to come after every older access of the strand (R158,
R160), and after its older stores on any path (R230, R301). -/
def awaitPuts : M Unit := do
  let s ← get
  if s.putsOutstanding s.cur then throw .retry else pure ()

/-! ## The core path (R276, R299, R300) -/

/-- How a strand accesses memory: order code, scope code, the hint against allocation (R32), and the access path (R297). -/
structure Manner where
  ord : Nat
  scope : Nat
  nt : Bool
  path : Nat
  deriving DecidableEq, Repr

/-- Plain order at core scope (R16). -/
def Manner.plain : Manner := ⟨0, 1, false, 0⟩

/-- A release of the current strand at a scope, on the core path (R115): at quad scope and wider the dirty bytes of its
core go to their homes; at core scope the L1 is the point of coherence. -/
def releaseAt (scope : Nat) : M Unit := do
  let s ← get
  if scope ≥ 2 then set (s.releaseCore (coreOf s.cur)) else pure ()

/-- An acquire of the current strand at a scope, on the core path (R115): at core scope it reaches only the instructions (R148). -/
def acquireAt (scope : Nat) : M Unit := modify fun s =>
  if scope ≥ 2 then s.acquireCore (coreOf s.cur) else s.refetch (coreOf s.cur)

/-- Orders codes: bit 0 acquire, bit 1 release (R32). -/
def ordRelease (ord : Nat) (scope : Nat) : M Unit := if ord = 2 || ord = 3 then releaseAt scope else pure ()
def ordAcquire (ord : Nat) (scope : Nat) : M Unit := if ord = 1 || ord = 3 then acquireAt scope else pure ()

/-- The bytes of a range with what a core's L1 holds of it laid over the home's bytes. -/
def State.viewBytes (s : State) (core a n : Nat) : List Byte :=
  (List.range n).map fun i =>
    let l := lookupD L1Line.empty (s.core core).lines ((a + i) / 128)
    if l.upd.isNone && l.valid.getLsbD ((a + i) % 128 / 32) then l.bytes.getD ((a + i) % 128) 0 else s.byteAt (a + i)

/-- A range split at line boundaries: starts and lengths. -/
def lineParts (a n : Nat) : List (Nat × Nat) :=
  (List.range ((a % 128 + n + 127) / 128)).map fun i =>
    let lo := max a ((a / 128 + i) * 128)
    let hi := min (a + n) ((a / 128 + i + 1) * 128)
    (lo, hi - lo)

/-- Whether the L1 of a core holds all of a range that lies in one line. -/
def State.l1Holds (s : State) (core a n : Nat) : Bool :=
  (lookupD L1Line.empty (s.core core).lines (a / 128)).covers (a % 128) n

/-- A failing sector of a line that a core's L1 holds raises at a read, with the sector's address (R357, R430). -/
def checkHeld (core va a n : Nat) : M Unit := do
  let s ← get
  match (lookupD L1Line.empty (s.core core).lines (a / 128)).failing (a % 128) n with
  | some (c, i) => raise c ((va + (a / 128 * 128 + 32 * i) - a) / 32 * 32)
  | none => pure ()

/-- The failing sectors of a range raise at a read, in the L1 where it holds them, otherwise at the home (R342, R357). -/
def checkRead (core va a n : Nat) : M Unit := do
  let s ← get
  for p in lineParts a n do
    if s.l1Holds core p.1 p.2 then checkHeld core (va + (p.1 - a)) p.1 p.2 else checkSectors (va + (p.1 - a)) p.1 p.2

/-- Bytes of DRAM or die scratchpad of this package as a core-path load of the current strand reads them. A load at the home leaves
no older copy behind in the L1 (R307). -/
def cachedRead (va a n : Nat) (m : Manner) (nc : Bool) : M (List Byte × Bool) := do
  let s ← get
  let core := coreOf s.cur
  if m.scope = 1 && !nc then
    checkRead core va a n
    for p in lineParts a n do
      let s ← get
      if m.nt && !s.l1Holds core p.1 p.2 then set (s.recall (p.1 / 128)) else fillLine core p.1 p.2
    let s ← get
    let l := lookupD L1Line.empty (s.core core).lines (a / 128)
    let held := l.upd.isNone && l.valid.getLsbD (a % 128 / 32)
    pure (s.viewBytes core a n, if held then l.tags.getLsbD (a % 128 / 16) else s.tagAt a)
  else
    for p in lineParts a n do
      modify fun s => s.leaveLine core (p.1 / 128)
    checkSectors va a n
    let bs ← homeRead a n
    let s ← get
    pure (bs, s.tagAt a)

/-- One sector's part of a store at core scope: into the L1 line, which fetches the sector's other bytes first. A store to
part of a failing sector is discarded (R430). Log 29 (DEDUCED). -/
def cachedWritePart (core a : Nat) (bs : List Byte) (nt : Bool) : M Unit := do
  let s ← get
  let line := a / 128
  let whole := a % 32 = 0 && bs.length = 32
  let held := s.l1Holds core a bs.length
  if !held && nt then
    modify fun s => s.writeBackLine core line
    homeWrite a bs
    modify fun s => s.l2Low a
  else if !held && !whole && s.badAt a ≠ 0 then countEvent 0x2005
  else if held && !whole && ((lookupD L1Line.empty (s.core core).lines line).failing (a % 128) bs.length).isSome then
    countEvent 0x2005
  else
    fillLine core a bs.length
    modCore core fun c =>
      let l := lookupD L1Line.empty c.lines line
      let l := { l with
        bytes := overwrite l.bytes (a % 128) bs
        fails := if whole then storeAt 0 (a % 128 / 32) 0 l.fails else l.fails
        dirty := (List.range bs.length).foldl (fun d i => d ||| (1#128 <<< (a % 128 + i))) l.dirty
        tags := (List.range bs.length).foldl (fun t i => t &&& ~~~ (1#8 <<< ((a % 128 + i) / 16))) l.tags }
      { c with lines := storeAt L1Line.empty line l c.lines }

/-- Updates the copy that an L1 holds of bytes written through, without making them dirty (R299). -/
def throughCopy (core a : Nat) (bs : List Byte) : M Unit := do
  for p in splitAt 32 (bs.length / 32 + 2) a bs do
    let s ← get
    if s.l1Holds core p.1 p.2.length then
      modCore core fun c =>
        let line := p.1 / 128
        let l := lookupD L1Line.empty c.lines line
        let l := { l with
          bytes := overwrite l.bytes (p.1 % 128) p.2
          dirty := (List.range p.2.length).foldl (fun d i => d &&& ~~~ (1#128 <<< (p.1 % 128 + i))) l.dirty
          tags := (List.range p.2.length).foldl (fun t i => t &&& ~~~ (1#8 <<< ((p.1 % 128 + i) / 16))) l.tags }
        { c with lines := storeAt L1Line.empty line l c.lines }
    else pure ()

/-- Sets the tag of a granule just written whole by `stc`: in the L1 line that holds it dirty, otherwise at the home. -/
def markTag (core a : Nat) (cached : Bool) : M Unit := do
  let s ← get
  let line := a / 128
  let l := lookupD L1Line.empty (s.core core).lines line
  let set1 := fun (l : L1Line) => { l with tags := l.tags ||| (1#8 <<< (a % 128 / 16)) }
  if l.upd.isNone && l.valid.getLsbD (a % 128 / 32) then
    modCore core fun c => { c with lines := storeAt L1Line.empty line (set1 l) c.lines }
  else pure ()
  if cached && l.valid.getLsbD (a % 128 / 32) then pure ()
  else if s.badAt a = 0 then modify fun s => s.putTag a true
  else pure ()

/-- A store of the current strand to DRAM or die scratchpad of this package. -/
def cachedWrite (a : Nat) (bs : List Byte) (tag : Bool) (m : Manner) (nc : Bool) : M Unit := do
  let s ← get
  let core := coreOf s.cur
  if m.scope = 1 && !nc then
    for p in splitAt 32 (bs.length / 32 + 2) a bs do
      cachedWritePart core p.1 p.2 m.nt
    if tag then markTag core a true else pure ()
  else
    for p in lineParts a bs.length do
      modify fun s => s.writeBackLine core (p.1 / 128)
    homeWrite a bs
    throughCopy core a bs
    if tag then markTag core a false else pure ()

/-- A load of the current strand at a global physical address: the bytes and the tag of the granule at its start. `va`
is the tenant-virtual address, `pte` the leaf it was translated by, `tenant` that of the capability. Log 38 (DEDUCED). -/
def loadBytes (va p n : Nat) (m : Manner) (pte : Word) (tenant : BitVec 12) : M (List Byte × Bool) := do
  let p ← mirrorLoad p pte
  let s ← get
  if pkgOf p ≠ s.pkg then
    ordRelease m.ord m.scope
    let a ← askRemote va p 1 0 tenant (.read n) [] false
    pure (a.data, a.tag)
  else
    let a := localOf p
    match place a with
    | .dram => cachedRead va a n m (pteNc pte || pteM pte)
    | .dieSpad _ => cachedRead va a n m (pteNc pte || pteM pte)
    | .coreSpad .. => do
      checkSectors va a n
      let bs ← homeRead a n
      pure (bs, s.tagAt a)
    | .slice .. => do
      checkSectors va a n
      let bs ← homeRead a n
      pure (bs, s.tagAt a)
    | .window c o => do
      let r ← windowRead c o n va
      pure (leBytes n r.val.toNat, r.tag)
    | .port o =>
      if o ≥ mailboxOff && o < mailboxOff + 65536 then do
        if mailboxAllowed s.self n m.ord m.scope pte then do
          let bs ← mailboxRead (o - mailboxOff)
          pure (bs, false)
        else raise cPerm va
      else if 0x10000000 ≤ o && o < 0x11000000 && o % 65536 = 0 && n = 8 && m.ord = 0 then
        pure (leBytes 8 s.agentStatus.toNat, false)
      else raise cPerm va
    | .aliasWindow _ => raise cPerm va
    | .reserved => raise cXlat va

/-- The part of a store that stays in this package. -/
def storeLocal (va a : Nat) (bs : List Byte) (tag : Bool) (m : Manner) (pte : Word) : M Unit := do
  let s ← get
  match place a with
  | .dram => cachedWrite a bs tag m (pteNc pte || pteM pte)
  | .dieSpad _ => cachedWrite a bs tag m (pteNc pte || pteM pte)
  | .coreSpad c o => do
    if c ≠ coreOf s.cur || inQuadWindow a then
      -- a write of another core, or through the quad window, arrives at the memory port from outside
      for p in splitAt 128 (bs.length / 128 + 2) a bs do
        match place p.1 with
        | .coreSpad c o => portWrite c o p.2 (s.fullSid s.cur) m.path
        | _ => pure ()
      let _ := o
      pure ()
    else homeWrite a bs
    if tag && s.badAt a = 0 then modify fun s => s.putTag a true else pure ()
  | .slice .. => do
    homeWrite a bs
    if tag && s.badAt a = 0 then modify fun s => s.putTag a true else pure ()
  | .window c o => windowWrite c o bs.length va ⟨BitVec.ofNat 128 (leNat bs), tag⟩
  | .port o =>
    if o ≥ mailboxOff && o < mailboxOff + 65536 && mailboxAllowed s.self bs.length m.ord m.scope pte then
      mailboxWrite (o - mailboxOff) bs
    else raise cPerm va
  | .aliasWindow _ => raise cPerm va
  | .reserved => raise cXlat va

/-- A write to both copies of a mirrored page, or to the one that is left (R406). The secondary's own copy is written
when the request to the primary leaves (`conclude`), unless the primary is lost. -/
def mirrorWrite (p : Nat) (here : M Unit) (there : Nat → Bool → M Unit) : M Unit := do
  let s ← get
  let q := mirrorOf p
  if s.units.lost.contains (pkgOf p) then if pkgOf q = s.pkg then here else there q true
  else if pkgOf q = s.pkg then there p false
  else do
    if s.units.lost.contains (pkgOf q) then pure () else there q true
    if pkgOf p = s.pkg then here else there p false

/-- A store of the current strand at a global physical address. -/
def storeBytes (va p : Nat) (bs : List Byte) (tag : Bool) (m : Manner) (pte : Word) (tenant : BitVec 12) : M Unit := do
  let s ← get
  if pteM pte then
    mirrorWrite p (storeLocal va (localOf p) bs tag m pte) (fun q mr => askMirror va q 0 tenant .write bs tag mr)
  else if pkgOf p ≠ s.pkg then do
    let _ ← askRemote va p 0 0 tenant .write bs tag
    pure ()
  else storeLocal va (localOf p) bs tag m pte

/-- A combination at a home of this package that an `amou` asks for (R281, R283). -/
def combineAt (a op kind k y : Nat) (src : BitVec 28) (path : Nat) : M Unit := do
  let s ← get
  match place a with
  | .coreSpad c o => portWrite c o (leBytes k (combine op kind k (leNat (s.bytesAt a k)) y)) src path
  | _ => homeCombine a op kind k y

/-- The write that a packet asks for, at its home in this package: bytes with their tag, or an `amou`. -/
def applyWrite (pk : Packet) : M Unit := do
  let a := pk.addr
  match pk.op with
  | .amou op kind k y => combineAt a op.toNat kind.toNat k y.toNat pk.src 5
  | _ => do
    let _ ← homeRead a pk.data.length
    pathWrite a pk.data pk.src 5
    let s ← get
    if pk.tag && s.badAt a = 0 then set (s.putTag a true) else pure ()

/-- The secondary's report of a mirrored write to its primary (R406). -/
def mirrorDone (s : State) (pk : Packet) : Packet :=
  { pk with dst := s.pkg ^^^ 1, ty := 7, vc := 1, mr := true, op := .accepted, data := [] }

/-! ## Operations at the home (R114, R277) -/

/-- Raises `perm` for places that take no atomics, futures or regions (R150, R274, R343). -/
def checkAtomicPlace (va p : Nat) : M Unit := do
  let s ← get
  if pkgOf p ≠ s.pkg then pure ()
  else match place (localOf p) with
    | .window .. => raise cPerm va
    | .port _ => raise cPerm va
    | .aliasWindow _ => raise cPerm va
    | .reserved => raise cXlat va
    | _ => pure ()

/-- Makes a line of this package ready for an operation at its home: the core's L1 writes it back and drops it, and a
failing sector raises (R277, R342). -/
def enterHome (va a n : Nat) : M Unit := do
  modify fun s => (lineParts a n).foldl (fun s p => s.leaveLine (coreOf s.cur) (p.1 / 128)) s
  checkSectors va a n

/-- A write at the home by a strand's own operation; another core's scratchpad takes it at its port. -/
def homeStore (a : Nat) (bs : List Byte) : M Unit := do
  let s ← get
  match place a with
  | .coreSpad c o =>
    if c ≠ coreOf s.cur || inQuadWindow a then portWrite c o bs (s.fullSid s.cur) 0 else homeWrite a bs
  | _ => homeWrite a bs

end Sys2Proof.Machine
end

