-- ==== Sys2Proof/Machine/Group.lean ====
section
/-! DEFINITION. Capability checks, barrier networks, lanes given back, completion of launches, and the end of a strand. -/

namespace Sys2Proof.Machine

/-! ## Checks (R77) -/

/-- Who an access is checked for: hypervisor mode, and the tenant. -/
structure Identity where
  hyper : Bool
  tid : BitVec 12
  deriving DecidableEq, Repr

def Strand.identity (t : Strand) : Identity := ⟨t.mode = .hypervisor, t.tid⟩

/-- The steps of R77 on tag, tenant, kind and permissions. -/
def checkRightsAs (id : Identity) (c : Reg) (perm : BitVec 12) (kinds : List Nat) : M Unit := do
  let a := Cap.cursor c.val
  raiseIf (!c.tag) cTag a
  raiseIf (!id.hyper && Cap.tenant c.val ≠ id.tid) cTenant a
  raiseIf (!kinds.contains (Cap.kind c.val)) cPerm a
  raiseIf (!Cap.has c.val perm) cPerm a

/-- The steps of R77 before translation. Log 91 (DEDUCED). -/
def checkCapAs (id : Identity) (c : Reg) (perm : BitVec 12) (kinds : List Nat) (n : Nat) : M Unit := do
  checkRightsAs id c perm kinds
  let a := Cap.cursor c.val
  raiseIf ((a : Int) < Cap.base c.val || (a : Int) + n > Cap.top c.val) cBounds a
  raiseIf ((n = 2 || n = 4 || n = 8 || n = 16) && a % n ≠ 0) cAlign a

/-- `Check` of R77 for the current strand, without translation. -/
def checkCap (c : Reg) (perm : BitVec 12) (kinds : List Nat) (n : Nat) : M Unit := do
  let t ← self
  checkCapAs t.identity c perm kinds n

/-- `Check` of R77 for the current strand: the global physical address and the leaf that maps it. -/
def checkAccess (c : Reg) (perm : BitVec 12) (kinds : List Nat) (n : Nat) : M (Nat × Word) := do
  checkCap c perm kinds n
  translate (Cap.tenant c.val) (Cap.cursor c.val) perm

/-- Translates pages from an address up to `hi`, at most `fuel`; the pieces are address, length, place and leaf. -/
def translatePages (t : BitVec 12) (perm : BitVec 12) (hi : Nat) : Nat → Nat → M (List (Nat × Nat × Nat × Word))
  | 0, _ => pure []
  | fuel + 1, lo =>
    if lo ≥ hi then pure []
    else do
      let next := min hi ((lo / 65536 + 1) * 65536)
      let (p, e) ← translate t lo perm
      let rest ← translatePages t perm hi fuel next
      pure ((lo, next - lo, p, e) :: rest)

/-- Translates every page of a range that starts at a checked address (R77). -/
def translateRange (t : BitVec 12) (a n : Nat) (perm : BitVec 12) : M (List (Nat × Nat × Nat × Word)) :=
  translatePages t perm (a + n) ((a % 65536 + n + 65535) / 65536) a

/-- Records an error in a copy queue's status word, unless an earlier one stands there (R349, R352). -/
def recordQueueError (queue : Nat) (cause : BitVec 8) (addr : Nat) : M Unit := modify fun s =>
  let q := s.queue queue
  if q.err then s
  else { s with units := { s.units with
    queues := storeAt CopyQueue.empty queue { q with err := true, cause := cause, addr := addr % 2 ^ 48 } s.units.queues } }

/-! ## Budgets (R378, R379) -/

/-- An allocation that is never charged. -/
def unlimited : Nat := 0xFFFFFFFF

/-- A colony's allocation of a resource. -/
def Colony.allocOf (c : Colony) (res : Nat) : Nat := lookupD unlimited c.alloc res

/-- Whether a use of `n` units is admitted (R379): the remaining count covers it, or it exceeds the allocation and the
period is untouched and carries no deficit. -/
def Colony.admits (c : Colony) (res n : Nat) : Bool :=
  let rem := lookupD 0 c.rem res
  n = 0 || c.allocOf res = unlimited || rem ≥ n || (n > c.allocOf res && rem = (c.allocOf res : Int))

/-- Charges `n` units. -/
def Colony.charged (c : Colony) (res n : Nat) : Colony :=
  if c.allocOf res = unlimited then c else { c with rem := storeAt 0 res (lookupD 0 c.rem res - n) c.rem }

/-- Whether a colony's budget admits a use; a colony without a record has none. -/
def State.admits (s : State) (colony res n : Nat) : Bool :=
  match s.colony colony with
  | some c => c.admits res n
  | none => true

/-- Charges a use that is admitted whatever the remaining count. -/
def State.charge (s : State) (colony res n : Nat) : State :=
  match s.colony colony with
  | some c => if c.allocOf res = unlimited then s else s.withColony colony (some (c.charged res n))
  | none => s

/-- The island of a strand: die times 32 plus quad of the die divided by 4 (R382). -/
def islandOf (sid : Nat) : Nat := dieOf sid * 32 + quadOf sid % 128 / 4

/-- An island that has used up its energy allocation takes no part in dispatch rounds (R382); an allocation of 0 is one
that the firmware has not set. Log 44 (DESIGN CHOICE). -/
def State.islandSpent (s : State) (sid : Nat) : Bool :=
  let i := lookupD Island.initial s.units.islands (islandOf sid)
  i.alloc ≠ 0 && i.used ≥ i.alloc

/-- Charges the energy that a turn of a strand takes, by the firmware's weights, to its island, once that has been set, and to
its colony (R382). Log 44 (DESIGN CHOICE). -/
def State.spendEnergy (s : State) (sid n : Nat) : State :=
  let i := islandOf sid
  let s := s.charge (s.colonyOf sid) 7 n
  match s.units.islands.find? fun e => e.1 = i with
  | some e => { s with units := { s.units with
      islands := storeAt Island.initial i { e.2 with used := e.2.used + n } s.units.islands } }
  | none => s

/-- A use of the current strand's colony that waits at its issue in a dispatch round until it is admitted. -/
def spendBudget (res n : Nat) : M Unit := do
  let s ← get
  if s.admits (s.colonyOf s.cur) res n && !s.islandSpent s.cur then set (s.charge (s.colonyOf s.cur) res n)
  else throw .retry

/-! ## Packets out (R404, R420) -/

/-- The first router that a request of a strand meets: that of its C-die's E-die, where a combinable request is held; every
other one goes on to the fabric (R412). -/
def Packet.departs (pk : Packet) (sid : Nat) : Event :=
  match pk.op with
  | .combine r => .combineHold (dieOf sid / 2) (24 + dieOf sid % 2) { r with txn := pk.txn }
  | _ => .packetForward pk

/-- Flits of a packet: its header flit and one for each aligned 64-byte block of its data (R397, R398). -/
def Packet.flits (pk : Packet) : Nat :=
  1 + (if pk.data.isEmpty then 0 else (pk.addr % 64 + pk.data.length + 63) / 64)

/-- Sends a request packet and remembers it until it is answered; gives its transaction number. A combinable request goes
to the router of its die's E-die first, inside the package too. -/
def sendRequest (pk : Packet) (sid : Nat) (use : RequestUse) : M Nat := fun s =>
  let txn := s.units.nextTxn
  let pk := { pk with txn := txn }
  let r : Request := { txn := txn, sid := sid, use := use, packet := pk, sent := s.time, probed := none }
  let s := s.charge (s.colonyOf sid) 3 (Packet.flits pk)
  let s := { s with units := { s.units with nextTxn := txn + 1, requests := s.units.requests ++ [r] } }
  .ok txn { s with agenda := s.agenda ++ [Packet.departs pk sid] }

/-- Sends a packet that expects no answer. -/
def sendPacket (pk : Packet) : M Unit := modify fun s =>
  { s with agenda := s.agenda ++ [.packetForward pk] }

/-- A response to a request of another package's strand (R399, type 7). -/
def respond (src : BitVec 28) (txn : Nat) (op : PacketOp) (data : List Byte) (tag : Bool) : M Unit := do
  let s ← get
  if src.toNat / 16384 = s.pkg then pure ()
  else sendPacket { requestPacket s (src.toNat / 16384 * 2 ^ 41) 7 1 0 op data tag with txn := txn, addr := src.toNat % 16384 }

/-! ## Futures filled by units (R18, R118, R349) -/

/-- The effect of `fwr` through a future capability with the permissions that its unit asks for: none when the cell was
filled, otherwise the cause, `perm` on a mirrored page (R406). A cell of another package answers later, for `use`. The path code and
source that a trace shows are the model's choice where the Scout fills. Log 32 (DEDUCED). Log 104 (DESIGN CHOICE). -/
def fillFuture (use : RequestUse) (group : Nat) (id : Identity) (c : Reg) (perm : BitVec 12) (value : Word) : M (Option (BitVec 8)) := do
  let r ← attempt (do
    checkCapAs id c perm [Cap.kMemory] 16
    let s ← get
    let (p, pte) ← translateFor group (s.colonyOf s.cur) (Cap.tenant c.val) (Cap.cursor c.val) perm
    raiseIf (pteM pte) cPerm (Cap.cursor c.val)
    checkAtomicPlace (Cap.cursor c.val) p
    pure p)
  match r with
  | .error (.trap code _ _) => pure (some code)
  | .error _ => pure (some cXlat)
  | .ok p => do
    let s ← get
    if pkgOf p ≠ s.pkg then do
      let _ ← sendRequest (requestPacket s p 3 0 (Cap.tenant c.val) (.fwr value) [] false) s.cur use
      pure none
    else do
      let a := localOf p
      if s.badAt a ≠ 0 then pure (some (s.badAt a))
      else do
        let cell ← homeRead a 16
        if leNat (cell.drop 8) % 2 = 1 then pure (some cFfull)
        else do
          pathWrite a (leBytes 8 value.toNat ++ leBytes 8 1) (s.fullSid s.cur) 2
          pure none

/-! ## The Scout interrupt (R355) -/

/-- Running strands of a colony, ascending. -/
def State.colonyStrands (s : State) (colony : Nat) : List Nat := s.running.filter fun sid => s.colonyOf sid = colony

/-- Holds a Scout interrupt with its colony: one for each ring, the latest (R355). Held values carry bit 62. -/
def holdScout (colony : Nat) (value : Word) : M Unit := modify fun s => match s.colony colony with
  | some c => s.withColony colony (some { c with scout := storeAt 0 (value.toNat % 256) (value ||| 1#64 <<< 62) c.scout })
  | none => s

/-- Takes the Scout interrupts that a strand has not taken back to its colony. -/
def returnScout (colony sid : Nat) (t : Strand) : M Unit := do
  for e in t.pending do
    if e.1 = cScout then holdScout colony e.2 else pure ()
  modStrand sid fun t => { t with pending := t.pending.filter fun e => e.1 ≠ cScout }

/-- Delivers the Scout interrupts of a colony to its running strand with the lowest sid, those included that another strand had
been given and has not taken (R355). -/
def releaseScout (colony : Nat) : M Unit := do
  let s ← get
  for sid in s.colonyStrands colony do
    returnScout colony sid (s.strand sid)
  let s ← get
  match s.colony colony, s.colonyStrands colony with
  | some c, sid :: _ => do
    for e in c.scout do
      modStrand sid fun t => t.interrupt cScout (e.2 &&& ~~~ (1#64 <<< 62))
    modify fun s => s.withColony colony (some { c with scout := [] })
  | _, _ => pure ()

/-- Raises the Scout interrupt for a colony: at its lowest running strand, or held with the colony until one runs. -/
def scoutInterrupt (colony : Nat) (value : Word) : M Unit := do
  releaseScout colony
  let s ← get
  for sid in s.colonyStrands colony do
    modStrand sid fun t => { t with pending := t.pending.filter fun e => !(e.1 = cScout && e.2.toNat % 256 = value.toNat % 256) }
  holdScout colony value
  releaseScout colony

/-! ## Barrier networks (R257 to R263) -/

/-- Bit number of a group in the strand's membership, arrival and reduction masks. -/
def groupBit (scope g : Nat) : Nat := scope % 8 * 16 + g % 16

/-- The pod job that a strand's colony is joined to, 0 for none. -/
def State.jobOf (s : State) (sid : Nat) : Nat :=
  match s.colony (s.colonyOf sid) with
  | some c => c.job
  | none => 0

/-- Whether two strands lie in one instance of a scope, divided at colony boundaries at die scope and above (R257). -/
def State.sameInstance (s : State) (scope a b : Nat) : Bool :=
  match scope with
  | 1 => coreOf a = coreOf b
  | 2 => quadOf a = quadOf b
  | 3 => dieOf a = dieOf b && s.colonyOf a = s.colonyOf b
  | 4 => s.colonyOf a = s.colonyOf b
  | _ => s.jobOf a ≠ 0 && s.jobOf a = s.jobOf b

/-- The member strands of a group of the instance around a strand. -/
def State.groupMembers (s : State) (scope g sid : Nat) : List Nat :=
  s.running.filter fun b => s.sameInstance scope sid b && (s.strand b).members.getLsbD (groupBit scope g)

/-- Key of what a package has said of a pod or sys group: 0 no member there, 1 one that has not arrived, 2 all have, and more
when it is phases ahead. -/
def remoteKey (job scope g pkg : Nat) : Nat := ((job * 8 + scope) * 16 + g) * 16384 + pkg

/-- Packages that take part in a pod or sys group, with their term. -/
def State.remoteTerms (s : State) (job scope g : Nat) : List (Nat × Nat) :=
  (s.units.remoteTerms.filter fun e => e.1 / 16384 = (job * 8 + scope) * 16 + g).map fun e => (e.1 % 16384, e.2)

/-- Colonies of a job, with their records. -/
def State.jobColonies (s : State) (job : Nat) : List (Nat × Colony) :=
  s.units.colonies.filterMap fun e => match e.2 with
    | some c => if c.job = job && job ≠ 0 then some (e.1, c) else none
    | none => none

/-- Whether an entry of the vault belongs to a colony that is saved now. -/
def State.savedNow (s : State) (e : VaultEntry) : Bool :=
  match s.colony e.colony with
  | some c => c.hasImage && c.image = e.ticket && (c.state = .saved || c.state = .held)
  | none => false

/-- Strands of the saved colonies of a job: they keep their bits with their colony (R260). Log 72 (DEDUCED). -/
def State.savedStrands (s : State) (job : Nat) : List Strand :=
  s.units.vault.flatMap fun e =>
    let mine : Bool := match s.colony e.colony with
      | some c => job ≠ 0 && c.job = job
      | none => false
    if mine && s.savedNow e then e.strands.map (·.2) else []

/-- Clears an arrival bit at the saved strands of a job. Log 72 (DEDUCED). -/
def State.clearSaved (s : State) (job bit : Nat) : State :=
  let cleared := fun (t : Strand) => { t with arrived := t.arrived &&& ~~~ (1#128 <<< bit) }
  let vault := s.units.vault.map fun e => match s.colony e.colony with
    | some c => if c.job = job then { e with strands := e.strands.map fun x => (x.1, cleared x.2) } else e
    | none => e
  { s with units := { s.units with vault := vault } }

/-- Whether every member's term in this package is true: the strands' arrival bits, those of saved colonies of a pod or sys
group, and the host's where it is a member of a sys group. -/
def State.hereDone (s : State) (scope g sid : Nat) : Bool :=
  let bit := groupBit scope g
  (s.groupMembers scope g sid).all (fun b => (s.strand b).arrived.getLsbD bit) &&
    (scope < 5 || (s.savedStrands (s.jobOf sid)).all fun t => !t.members.getLsbD bit || t.arrived.getLsbD bit) &&
    (scope ≠ 6 || (s.jobColonies (s.jobOf sid)).all fun e => !e.2.hostMember || e.2.hostArrived.getLsbD g)

/-- Whether a group has a member: a running strand here, a saved one of its job, or one of another package. -/
def State.hasMember (s : State) (scope g sid : Nat) : Bool :=
  !(s.groupMembers scope g sid).isEmpty || (scope ≥ 5 && (!(s.remoteTerms (s.jobOf sid) scope g).isEmpty ||
    (s.savedStrands (s.jobOf sid)).any fun t => t.members.getLsbD (groupBit scope g)))

/-- Whether every member's term of a phase is true: those of this package and of the others, one of which has a member. Log 72 (DEDUCED). -/
def State.phaseDone (s : State) (scope g sid : Nat) : Bool :=
  s.hasMember scope g sid &&
    s.hereDone scope g sid &&
    (scope < 5 || (s.remoteTerms (s.jobOf sid) scope g).all fun e => e.2 ≥ 2)

/-! ## Reduction phases (R421, R423) -/

/-- The colony or job in which a reduction group lies, and the key of the group. -/
def State.redInstance (s : State) (scope sid : Nat) : Nat := if scope = 4 then s.colonyOf sid else s.jobOf sid
def redKey (inst scope g : Nat) : Nat := (inst * 8 + scope) * 16 + g

def State.redGroup (s : State) (key : Nat) : RedGroup := lookupD (RedGroup.fresh 0) s.units.reductions key

def State.withRedGroup (s : State) (key : Nat) (v : RedGroup) : State :=
  { s with units := { s.units with reductions := storeAt (RedGroup.fresh 0) key v s.units.reductions } }

/-- The package of a pod group's root router: the one with the lowest id (R423). The network's reduction terms of other
packages are kept under scope code 7, which no barrier group has: 2 plus the number of contributions there. -/
def State.redRoot (s : State) (scope job g : Nat) : Nat :=
  if scope = 4 then s.pkg else (s.remoteTerms job 5 g).foldl (fun m e => min m e.1) s.pkg

/-- Bytes of a contribution that travel in one segment (R423). -/
def segmentBytes : Nat := 448

/-- The contributions that the network has counted: in this package and, at the root of a pod group, in the others. -/
def State.redCount (s : State) (scope job g : Nat) (v : RedGroup) : Nat :=
  v.dests.length + (if scope = 5 then ((s.remoteTerms job 7 g).map fun e => e.2 - 2).sum else 0)

/-- Whether every segment of a phase has been combined from all its contributions (R423). -/
def RedGroup.whole (v : RedGroup) (size count : Nat) : Bool :=
  (List.range ((size + segmentBytes - 1) / segmentBytes)).all fun i =>
    ((v.parts.filter fun p => p.seg = i * segmentBytes).map (·.ctr)).sum = count

/-- Bytes of a contribution by operation, type and number of elements (R422). -/
def contributionSize (op ty n : Nat) : Nat :=
  if op = 3 then 8 + 4 * n else n * (if ty = 0 || ty = 2 || ty = 4 then 4 else 8)

/-- The completion test of a reduction group (R421, R423): the root router delivers the result; another package of a pod
group tells the root how many have contributed here. Log 67 (DEDUCED). -/
def testReduction (scope g sid : Nat) : M Unit := do
  let s ← get
  if scope ≠ 4 && scope ≠ 5 then pure ()
  else do
    let job := s.jobOf sid
    let key := redKey (s.redInstance scope sid) scope g
    let v := s.redGroup key
    let root := s.redRoot scope job g
    let here := (s.groupMembers scope g sid).all fun b => (s.strand b).redTerms.getLsbD (groupBit scope g)
    if !here then pure ()
    else if root ≠ s.pkg then
      if v.announced || v.dests.isEmpty then pure ()
      else do
        set (s.withRedGroup key { v with announced := true })
        sendPacket { requestPacket s (root * 2 ^ 41) 12 3 0 (.barrier job 7 g v.dests.length) [] false with
          dst := root }
    else match v.parts with
      | [] => pure ()
      | p :: _ =>
        let others := scope = 4 || (s.remoteTerms job 5 g).all fun e => lookupD 0 s.units.remoteTerms (remoteKey job 7 g e.1) ≥ 2
        if others && v.whole (contributionSize p.op p.ty p.n) (s.redCount scope job g v) then
          post (.reductionResultDeliver scope (s.redInstance scope sid * 16 + g) 0 none)
        else pure ()

/-- What this package has to say of a pod or sys group, in the codes of `remoteKey`. Log 72 (DEDUCED). -/
def State.ownTerm (s : State) (scope g sid : Nat) : Nat :=
  let bit := groupBit scope g
  let job := s.jobOf sid
  let saved := s.savedStrands job
  let host := scope = 6 && (s.jobColonies job).any fun e => e.2.hostMember
  let members := !(s.groupMembers scope g sid).isEmpty || host || saved.any fun t => t.members.getLsbD bit
  let arrivals := (s.running.any fun b => s.sameInstance scope sid b && (s.strand b).arrived.getLsbD bit) ||
    saved.any fun t => t.arrived.getLsbD bit
  if !members && !arrivals then 0 else if s.hereDone scope g sid then 2 else 1

/-- The other packages of a job: those that the fabric is configured with, and those from which terms have come. Log 72 (DEDUCED). -/
def State.jobPeers (s : State) (job : Nat) : List Nat :=
  let heard := (s.units.remoteTerms.filter fun e => e.1 / 2 ^ 21 = job && e.1 / 2 ^ 18 % 8 ≥ 5).map fun e => e.1 % 16384
  (Config.jobPackages job ++ heard).eraseDups.filter fun p => p ≠ s.pkg

/-- Tells the other packages of a job what has changed in a pod or sys group here (R260, R399, type 12). The last word is
kept under scope codes 1 and 2, which no pod or sys group has. -/
def announceTerm (scope g sid : Nat) : M Unit := do
  let s ← get
  let job := s.jobOf sid
  let key := remoteKey job (scope - 4) g s.pkg
  let now := s.ownTerm scope g sid
  if scope < 5 || job = 0 || lookupD 0 s.units.remoteTerms key = now then pure ()
  else do
    set { s with units := { s.units with remoteTerms := storeAt 0 key now s.units.remoteTerms } }
    for e in s.jobPeers job do
      sendPacket { requestPacket s (e * 2 ^ 41) 12 3 0 (.barrier job scope g now) [] false with dst := e }

/-- The completion test of a group (R261): when the phase is complete, every arrival bit of the group is cleared. -/
def testPhase (scope g sid : Nat) : M Unit := do
  announceTerm scope g sid
  let s ← get
  if s.phaseDone scope g sid then do
    let job := s.jobOf sid
    for b in s.running do
      if s.sameInstance scope sid b then
        modStrand b fun t => { t with arrived := t.arrived &&& ~~~ (1#128 <<< groupBit scope g) }
    if scope ≥ 5 then
      modify fun s => s.clearSaved job (groupBit scope g)
      for e in s.remoteTerms job scope g do
        modify fun s => { s with units := { s.units with
          remoteTerms := storeAt 0 (remoteKey job scope g e.1) (e.2 - 1) s.units.remoteTerms } }
      let own := remoteKey job (scope - 4) g s.pkg
      modify fun s => { s with units := { s.units with
        remoteTerms := storeAt 0 own (min 1 (lookupD 0 s.units.remoteTerms own)) s.units.remoteTerms } }
      announceTerm scope g sid
    if scope = 6 then
      for e in s.jobColonies job do
        if e.2.hostMember then
          modify fun s => s.withColony e.1 (some { e.2 with
            hostArrived := e.2.hostArrived &&& ~~~ (1#16 <<< g)
            hostPhases := storeAt 0 g ((lookupD 0 e.2.hostPhases g + 1) % 2 ^ 64) e.2.hostPhases })
  else pure ()
  testReduction scope g sid

/-- Sets a strand's arrival bit in a group and applies the completion test (R261, R263). -/
def arrive (scope g sid : Nat) : M Unit := do
  modStrand sid fun t => { t with arrived := t.arrived ||| (1#128 <<< groupBit scope g) }
  testPhase scope g sid

/-- Every group of every scope that a membership mask names. -/
def groupsOf (mask : BitVec 128) : List (Nat × Nat) :=
  ((List.range 112).filter fun i => mask.getLsbD i).map fun i => (i / 16, i % 16)

/-! ## Lanes (R169, R170) -/

/-- A strand's reserve (R169). -/
def Strand.reserve (t : Strand) : Nat := max t.vec.lanes.length 8

/-- Running strands of a quad, ascending. -/
def State.quadStrands (s : State) (q : Nat) : List Nat :=
  (List.range 8).filterMap fun i => if (s.strand (q * 8 + i)).live then some (q * 8 + i) else none

/-- The free count F of a quad (R169). -/
def State.freeLanes (s : State) (q : Nat) : Nat :=
  64 - ((s.quadStrands q).map fun sid => (s.strand sid).reserve).sum

/-- The total demand D of a quad (R169). -/
def State.demand (s : State) (q : Nat) : Nat :=
  ((s.quadStrands q).map fun sid => (s.strand sid).vec.demand).sum + 8 * (s.quad q).deferred.length

/-- Tells the quad's deferred starts that lanes may be free (R170). -/
def offerLanes (q : Nat) : M Unit := do
  let s ← get
  if (s.quad q).deferred.isEmpty then pure () else post (.deferredStart q)

/-! ## Launches (R18, R138) and rings -/

/-- Fills the completion future of a launch that has ended; a dropped fill raises the Scout interrupt (R18). The launch
records of the manual's programs give their futures `ld` and `st`, and are filled. Log 32 (DEDUCED). -/
def fillCompletion (l : Launch) (value : Word) : M Unit :=
  if l.future.tag then do
    let r ← fillFuture (.fillLaunch l.colony l.ring) 8 ⟨false, l.tenant⟩ l.future Cap.st value
    match r with
    | none => pure ()
    | some c => scoutInterrupt l.colony (BitVec.ofNat 64 (2 ^ 63 + c.toNat * 2 ^ 48 + l.ring))
  else pure ()

/-- Reads bytes through a capability at the home, for a unit; none when a check, a translation or a sector fails. -/
def unitRead (group : Nat) (id : Identity) (c : Reg) (n : Nat) : M (Option (List Byte)) := do
  let r ← attempt (do
    checkCapAs id c Cap.ld [Cap.kMemory] n
    let s ← get
    let (p, _) ← translateFor group (s.colonyOf s.cur) (Cap.tenant c.val) (Cap.cursor c.val) Cap.ld
    if pkgOf p ≠ s.pkg then raise cXlat 0
    checkSectors (Cap.cursor c.val) (localOf p) n
    homeRead (localOf p) n)
  match r with
  | .ok bs => pure (some bs)
  | .error _ => pure none

/-- Whether a ring holds a record that the Scout has not consumed. Log 93 (DEDUCED). -/
def ringPending (r : Ring) : M Bool := do
  let wp ← unitRead 8 ⟨true, 0⟩ r.cap 8
  match wp with
  | none => pure false
  | some bs => pure (leNat bs ≠ r.rp)

/-- A loaded colony whose strands have all ended and whose rings hold no record becomes idle (R375). -/
def settleColony (colony : Nat) : M Unit := do
  let s ← get
  match s.colony colony with
  | none => pure ()
  | some c =>
    if c.state = .loaded && (s.colonyStrands colony).isEmpty && !(s.units.launches.any fun l => l.colony = colony) then do
      let rs := s.units.rings.filterMap fun e => match e.2 with
        | some r => if r.colony = colony then some r else none
        | none => none
      let waiting ← rs.mapM ringPending
      if waiting.any id then pure ()
      else modify fun s => s.withColony colony (some { c with state := .idle })
    else pure ()

/-- Counts a strand's end towards its launch; the last one completes the launch (R18, R138). -/
def endOfLaunch (launch : Nat) (failure : Option Word) : M Unit := do
  let s ← get
  match s.units.launches.find? (fun l => l.id = launch) with
  | none => pure ()
  | some l => do
    let l := { l with left := l.left - 1, failed := match l.failed with
      | none => failure
      | f => f }
    let ls := if l.left = 0 then s.units.launches.filter (fun x => x.id ≠ launch)
      else s.units.launches.map fun x => if x.id = launch then l else x
    modify fun s => { s with units := { s.units with launches := ls } }
    if l.left = 0 then fillCompletion l (l.failed.getD 0) else pure ()

/-- Stop records whose colony has no strand left are complete (R370). -/
def settleStops (colony : Nat) : M Unit := do
  let s ← get
  if (s.colonyStrands colony).isEmpty then do
    let done := s.units.launches.filter fun l => l.stop && l.colony = colony
    modify fun s => { s with units := { s.units with
      launches := s.units.launches.filter fun l => !(l.stop && l.colony = colony) } }
    for l in done do
      fillCompletion l 0
  else pure ()

/-! ## Yields (R376) -/

/-- Whether a strand issues nothing more because its colony yields: it has stopped at a `sync`, or a forced save has found it
at a boundary (R142, R376). -/
def State.decodeStopped (s : State) (sid : Nat) : Bool :=
  match s.colony (s.colonyOf sid) with
  | some c => match c.yield with
    | some y =>
      let t := s.strand sid
      y.stopped.contains sid || (y.forced && t.asked.isEmpty && t.pop.isNone && !t.gangIssued)
    | none => false
  | none => false

/-- Whether a strand of a colony that yields can be saved: it issues nothing, and its matrix operations have ended. -/
def State.stoppedForYield (s : State) (sid : Nat) : Bool :=
  s.decodeStopped sid && !(s.quad (quadOf sid)).ops.any fun o => o.sid = sid || o.rightSid = sid

/-- A yielding colony whose strands have all stopped or ended is saved. -/
def settleYield (colony : Nat) : M Unit := do
  let s ← get
  match s.colony colony with
  | some c =>
    if c.state = .yielding && (s.colonyStrands colony).all s.stoppedForYield then post (.colonySaveDone colony)
    else pure ()
  | none => pure ()

/-- A strand that completes a `sync` while its colony yields stops before its next instruction. -/
def stopForYield (sid : Nat) : M Unit := do
  let s ← get
  let id := s.colonyOf sid
  match s.colony id with
  | some c => match c.state, c.yield with
    | .yielding, some y => do
      modify fun s => s.withColony id (some { c with yield := some { y with stopped := y.stopped ++ [sid] } })
      settleYield id
    | _, _ => pure ()
  | none => pure ()

/-- Changes a strand, or what is kept of it while its colony is saved. -/
def modStrandOrSaved (sid : Nat) (f : Strand → Strand) : M Unit := modify fun s =>
  if (s.strand sid).live then s.withStrand sid (f (s.strand sid))
  else { s with units := { s.units with vault := s.units.vault.map fun e =>
    { e with strands := e.strands.map fun x => if x.1 = sid then (x.1, f x.2) else x } } }

/-! ## The end of a strand (R18, R138, R260, R326) -/

/-- Sends a task's end to its home (R327): in this package as an event, to another as a packet. -/
def sendTaskEnd (t : TaskId) : M Unit := do
  let s ← get
  if t.pkg = s.pkg then post (.taskEndApply t)
  else sendPacket { requestPacket s (t.pkg * 2 ^ 41) 11 3 0 (.wlEnd t) [] false with
    dst := t.pkg, addr := 0x1F020000000 + (t.home * 256 + t.slot) * 64 }

/-- Takes a pop of this package's strand from its home; what its hold kept back is applied next (R322). -/
def State.dropPop (s : State) (whole : Nat) : State :=
  s.dies.foldl (fun s d => d.2.slots.foldl (fun s e =>
    let h := e.2
    if h.pops.any fun p => p.sid = whole then
      let mine := h.hold.any fun x => x.1 = whole
      let h1 := { h with pops := h.pops.filter fun p => p.sid ≠ whole }
      let h2 := if mine then { h1 with hold := h.hold.filter fun x => x.1 ≠ whole, held := [], ends := [] } else h1
      let v := s.die d.1
      let s := s.withDie d.1 { v with slots := storeAt (HomeSlot.free 0) e.1 h2 v.slots }
      if mine then { s with agenda := s.agenda ++ h.held.map Event.countApply ++ h.ends.map Event.taskEndApply } else s
    else s) s) s

/-- Withdraws the pop that a strand waits in, as it ends. A task that the home has already given it ends too. -/
def abandonPop (sid : Nat) (t : Strand) : M Unit := do
  match t.pop with
  | none => pure ()
  | some r => do
    let s ← get
    match r.answer with
    | some (.commit ..) => asStrand sid (sendTaskEnd { pkg := r.pkg, home := r.home, slot := r.slot, gen := r.gen, holder := s.pkg, sid := (s.fullSid sid).toNat })
    | some _ => pure ()
    | none =>
      if r.pkg = s.pkg then set (s.dropPop (s.fullSid sid).toNat)
      else asStrand sid (sendPacket { requestPacket s (r.pkg * 2 ^ 41) 11 3 t.tid (.wlCancel r.txn) [] false with
        addr := 0x1F020000000 + (r.home * 256 + r.slot) * 64 })

/-- Ends a strand: its lanes return to the pool, its barrier terms and tasks end, and its launch counts it.
`failure` is the completion value of a strand that ended by a fault. -/
def endStrand (sid : Nat) (failure : Option Word) : M Unit := do
  let t ← getStrand sid
  if t.live then do
    let s ← get
    let colony := s.colonyOf sid
    let q := quadOf sid
    -- the groups whose phases may complete without this strand
    let groups := groupsOf t.members
    modQuad q fun v => { v with
      ops := v.ops.filter fun o => o.sid ≠ sid
      postings := v.postings.filter fun p => p.sid ≠ sid
      gangs := v.gangs.map fun g => { g with partners := g.partners.map fun p =>
        if p.sid = sid then { p with group := 0, ended := true } else p } }
    modCore (coreOf sid) fun c => { c with queue := c.queue.filter fun e => e.sid ≠ sid }
    setStrand sid Strand.idle
    returnScout colony sid t
    releaseScout colony
    abandonPop sid t
    for g in groups do
      testPhase g.1 g.2 sid
    for k in t.tasks.reverse do
      asStrand sid (sendTaskEnd k)
    offerLanes q
    if s.units.boot = some sid then
      modify fun s => { s with units := { s.units with boot := none } }
    endOfLaunch t.launch failure
    settleStops colony
    settleYield colony
    settleColony colony
  else pure ()

/-- The completion value for a strand that ended by a fault (R138). -/
def State.faultValue (s : State) (sid : Nat) (code : BitVec 8) : Word :=
  BitVec.ofNat 64 (2 ^ 63 + (s.fullSid sid).toNat * 256 + code.toNat)

end Sys2Proof.Machine
end

