-- ==== Sys2Proof/Machine/Tiles.lean ====
section
/-! DEFINITION. Tiles, their descriptors and the pairs of formats that a product takes, with the toggle estimates and
charges of matrix operations (R220 to R224, R227, R231, R232, R245). -/

namespace Sys2Proof.Machine

/-! ## Descriptors (R221, R222) -/

/-- Bits of an element by format code; 0 for a reserved code. -/
def tileBits (fmt : Nat) : Nat :=
  match fmt with
  | 0 => 64
  | 1 => 32
  | 2 => 16
  | 3 => 16
  | 4 => 8
  | 5 => 8
  | 6 => 4
  | 7 => 8
  | 8 => 4
  | 9 => 2
  | 10 => 32
  | _ => 0

/-- The floating-point format of a format code. -/
def tileFormat (fmt : Nat) : Float.Format :=
  match fmt with
  | 0 => Float.f64
  | 1 => Float.f32
  | 2 => Float.bf16
  | 3 => Float.f16
  | 4 => Float.e4m3
  | 5 => Float.e5m2
  | _ => Float.e2m1

def descRows (d : BitVec 32) : Nat := d.toNat % 64 + 1
def descCols (d : BitVec 32) : Nat := d.toNat / 2 ^ 6 % 128 + 1
def descFmt (d : BitVec 32) : Nat := d.toNat / 2 ^ 13 % 32
def descScale (d : BitVec 32) : Nat := d.toNat / 2 ^ 18 % 256

/-- The row size in bytes (R222). -/
def rowSize (d : BitVec 32) : Nat := (descCols d * tileBits (descFmt d) + 7) / 8

/-- An ill-formed descriptor (R222). -/
def illFormed (d : BitVec 32) : Bool := d.toNat ≥ 2 ^ 26 || descFmt d > 10 || rowSize d > 128

/-- The power of two that a scale code stands for (R54). -/
def scaleExponent (s : Nat) : Int := if s = 255 then 0 else (s : Int) - 127

/-! ## Tiles and accumulators (R220, R224) -/

def Strand.desc (t : Strand) (tile : Nat) : BitVec 32 := lookupD 0 t.mtx.descs tile

/-- The 1024 bits of a tile's row. -/
def tileRow (m : SMap Byte) (tile row : Nat) : Nat := leNat (lookupRange 0 m (tile * 8192 + row * 128) 128)

/-- Element code `k` of a row. -/
def rowCode (row w k : Nat) : Nat := row / 2 ^ (k * w) % 2 ^ w

/-- The storage of one tile, by byte offset. -/
def tileStorage (m : SMap Byte) (tile : Nat) : SMap Byte :=
  (m.filter fun e => e.1 / 8192 = tile).map fun e => (e.1 % 8192, e.2)

/-- A tile whose rows below `rows` are cleared. -/
def clearRows (tile rows : Nat) (m : SMap Byte) : SMap Byte :=
  m.filter fun e => !(e.1 / 8192 = tile && e.1 % 8192 < rows * 128)

/-- An element of an accumulator. -/
def accElement (m : SMap (BitVec 32)) (acc row col : Nat) : BitVec 32 := lookupD 0 m (acc * 4096 + row * 64 + col)

/-- An FP64 column of an accumulator. -/
def accPair (m : SMap (BitVec 32)) (acc row col : Nat) : Nat :=
  (accElement m acc row (2 * col)).toNat + (accElement m acc row (2 * col + 1)).toNat * 2 ^ 32

/-! ## Pairs of formats (R227) -/

/-- The kind in which a product writes an accumulator (R224). -/
inductive AccKind where
  | int
  | f32
  | f64
  deriving DecidableEq, Repr

/-- What a pair of formats gives: the kind, the group size, and the row time in half clk. -/
structure Pairing where
  kind : AccKind
  group : Nat
  half : Nat
  deriving DecidableEq, Repr

/-- The pairs of R227; `ternary` is `mmt`. -/
def pairing (ternary : Bool) (a b : Nat) : Option Pairing :=
  let only := fun (l : List Nat) => l.contains a && l.contains b
  if ternary then (if a = 9 && b = 7 then some ⟨.int, 1, 1⟩ else none)
  else if only [0] then some ⟨.f64, 1, 4⟩
  else if only [1] then some ⟨.f32, 4, 4⟩
  else if only [2, 3] then some ⟨.f32, 8, 2⟩
  else if only [6] then some ⟨.f32, 32, 1⟩
  else if only [4, 5, 6] then some ⟨.f32, 16, 2⟩
  else if only [8] then some ⟨.int, 1, 1⟩
  else if only [7, 8] then some ⟨.int, 1, 2⟩
  else none

/-! ## Toggle estimate and charge (R231, R232) -/

/-- Bits in which the first 32 bytes of a tile's first two rows differ. -/
def toggles (t : Strand) (tile : Nat) : Nat :=
  let half : Nat → Nat := fun row => tileRow t.mtx.tiles tile row % 2 ^ 256
  let x : Nat := half 0 ^^^ half (min 1 (descRows (t.desc tile) - 1))
  ((List.range 256).filter fun i => x.testBit i).length

/-- The toggle estimate of a dense product. -/
def toggleEstimate (left right : Nat) : Nat := min 15 ((left + right) / 32)

/-- The charge of an occupancy given in half clk (R232). -/
def matrixCharge (half e : Nat) : Nat := (half + 1) / 2 * (8 + e)

/-! ## Dense products and gangs (R237, R244, R245) -/

/-- The descriptor with which `mma` or `mmt` raises `tdesc`, if it does. -/
def denseFault (ternary : Bool) (dL dR : BitVec 32) (row0 : Nat) : Option (BitVec 32) :=
  match pairing ternary (descFmt dL) (descFmt dR) with
  | none => some dR
  | some p =>
    if descCols dR ≠ descCols dL || (p.kind = .f64 && descRows dR > 32) then some dR
    else if row0 + descRows dL > 64 then some dL
    else none

/-- The half clk that a pair takes for a row; 2 where there is none. -/
def pairHalf (p : Option Pairing) : Nat :=
  match p with
  | some p => p.half
  | none => 2

/-- Whether a partner's product stands against the lead's right tile (R245). -/
def partnerPair (s : State) (lead p : Posting) : Option Pairing :=
  let dR := (s.strand lead.sid).desc lead.rt
  let dL := (s.strand p.sid).desc p.lt
  if (s.strand p.sid).desc p.rt ≠ dR || descCols dL ≠ descCols dR then none
  else match pairing false (descFmt dL) (descFmt dR) with
    | some x => if x.kind = .f64 && descRows dR > 32 then none else some x
    | none => none

/-- The largest toggle estimate over the partners of a gang. -/
def gangEstimate (s : State) (ps : List Posting) (lead : Posting) : Nat :=
  (ps.map fun p =>
    toggleEstimate (toggles (s.strand p.sid) p.lt) (toggles (s.strand lead.sid) lead.rt)).foldl max 0

/-- The charge of a gang (R232): its partners lie in one colony, so their parts add up to the whole occupancy. Log 42 (DEDUCED). -/
def gangCharge (s : State) (ps : List Posting) (lead : Posting) : Nat :=
  let pairs := ps.map (partnerPair s lead)
  let half := match pairs.find? (·.isSome) with
    | some p => pairHalf p
    | none => 2
  let rows := (ps.map fun p =>
    if (partnerPair s lead p).isSome then descRows ((s.strand p.sid).desc p.lt) else 0).sum
  matrixCharge (rows * half) (gangEstimate s ps lead)

/-- Puts a posting into ascending order of sid. -/
def insertPosting (p : Posting) : List Posting → List Posting
  | [] => [p]
  | h :: l => if p.sid < h.sid then p :: h :: l else h :: insertPosting p l

end Sys2Proof.Machine
end

