-- ==== Sys2Proof/Machine/Rounds.lean ====
section
/-! DEFINITION. The operand dispatch queues of a quad's cores and its dispatch rounds (R173, R174, R231, R232). -/

namespace Sys2Proof.Machine

/-- Whether an entry is an instruction of a strand's own. -/
def DispatchEntry.own (e : DispatchEntry) (sid : Nat) : Bool := e.sid = sid && e.followOn.isNone

/-- Whether an entry takes the array, the shared unit of the quad (R228). -/
def DispatchEntry.shared (e : DispatchEntry) : Bool := e.use ≠ .lanes

/-- The postings of a gang with the one that an entry makes, in partner order. -/
def State.gangWith (s : State) (e : DispatchEntry) (gid : Nat) : List Posting :=
  let others := (s.quad (quadOf e.sid)).postings.filter fun p => p.gid = gid && p.sid ≠ e.sid
  others.foldl (fun l p => insertPosting p l) [⟨e.sid, gid, e.half, e.acc, e.lt, e.rt, 0⟩]

/-- The toggle estimate of an entry from the tiles as they stand (R231). -/
def State.estimate (s : State) (e : DispatchEntry) : Nat :=
  let t := s.strand e.sid
  match e.use with
  | .lanes => 0
  | .dense => toggleEstimate (toggles t e.lt) (toggles t e.rt)
  | .sparse => min 15 (2 * toggles t e.rt / 32)
  | .gang gid => match s.gangWith e gid with
    | [] => 0
    | lead :: ps => gangEstimate s (lead :: ps) lead

/-- What an entry charges to the matrix budget when it issues (R232). -/
def State.entryCharge (s : State) (e : DispatchEntry) : Nat :=
  let t := s.strand e.sid
  match e.use with
  | .lanes => 0
  | .dense =>
    let dL := t.desc e.lt
    let dR := t.desc e.rt
    if (denseFault e.mmt dL dR e.row0).isSome then 0
    else matrixCharge (descRows dL * pairHalf (pairing e.mmt (descFmt dL) (descFmt dR))) (s.estimate e)
  | .sparse => matrixCharge e.half (s.estimate e)
  | .gang gid =>
    let ps := s.gangWith e gid
    if ps.length < e.half then 0 else match ps with
      | [] => 0
      | lead :: _ => gangCharge s ps lead

/-- Whether the budget and the island's energy let an entry take part in rounds (R232, R382). -/
def State.covered (s : State) (e : DispatchEntry) : Bool :=
  s.admits (s.colonyOf e.sid) 0 (s.entryCharge e) && !s.islandSpent e.sid

/-- A core that takes part in a round, with the estimate of its head entry. -/
structure Participant where
  core : Nat
  estimate : Nat
  deriving DecidableEq, Repr

/-- Puts a participant behind those of no larger estimate. -/
def insertRound (e : Participant) : List Participant → List Participant
  | [] => [e]
  | h :: l => if e.estimate < h.estimate then e :: h :: l else h :: insertRound e l

/-- The cores of a quad in the order in which a round that begins now issues their head entries (R173). -/
def State.participants (s : State) (q : Nat) : List Nat :=
  let heads := (List.range 4).filterMap fun i => match (s.core (q * 4 + i)).queue with
    | e :: _ => if s.covered e then some ⟨q * 4 + i, s.estimate e⟩ else none
    | [] => none
  (heads.foldl (fun l e => insertRound e l) []).map (·.core)

/-- Begins a round when the last one has ended; a core whose queue has become empty takes no further part. -/
def State.openRound (s : State) (q : Nat) : State :=
  let v := s.quad q
  let left := v.round.filter fun c => !(s.core c).queue.isEmpty
  s.withQuad q { v with round := if left.isEmpty then s.participants q else left }

/-- Whether the head entry of a core issues now: it takes part in the round, and no earlier entry of the round holds the array
that it needs. -/
def State.mayIssue (s : State) (core : Nat) : Bool :=
  let round := (s.quad (core / 4)).round
  let needs := fun (c : Nat) => match (s.core c).queue with
    | e :: _ => e.shared
    | [] => false
  round.contains core && (!needs core || !((round.takeWhile fun c => c ≠ core).any needs))

/-- The head entry of a core has issued. Follow-on commands that wait in the quad get their turn. -/
def State.leaveQueue (s : State) (core : Nat) : State :=
  let c := s.core core
  let q := core / 4
  let v := s.quad q
  let s := (s.withCore core { c with queue := c.queue.drop 1 }).withQuad q { v with round := v.round.filter fun c => c ≠ core }
  let waits := (List.range 4).any fun i => match (s.core (q * 4 + i)).queue with
    | e :: _ => e.followOn.isSome
    | [] => false
  if waits then { s with agenda := s.agenda ++ [.dispatchRound q] } else s

/-- Whether nothing waits in the queues of a quad and no round is under way. -/
def State.quadClear (s : State) (q : Nat) : Bool :=
  (s.quad q).round.isEmpty && (List.range 4).all fun i => (s.core (q * 4 + i)).queue.isEmpty

/-- Passes an instruction of the current strand through its core's dispatch queue (R173): it enters at the tail unless it
waits there already, or stalls while the queue is full; it goes on when the round issues it. -/
def passQueue (e : DispatchEntry) : M Unit := do
  let s ← get
  let core := coreOf s.cur
  let q := quadOf s.cur
  if s.quadClear q && s.covered e then pure ()
  else
    let queue := (s.core core).queue
    let there := queue.any fun x => x.own s.cur
    if !there && queue.length ≥ 8 then do
      modify fun s => s.countCore core 4 1
      throw .wait
    else do
      let entries := if there then queue.map (fun x => if x.own s.cur then e else x) else queue ++ [e]
      modCore core fun c => { c with queue := entries }
      modify fun s => s.openRound q
      let s ← get
      let first : Bool := match (s.core core).queue with
        | h :: _ => h.own s.cur
        | [] => false
      if first && s.mayIssue core then set (s.leaveQueue core)
      else do
        if s.covered e then pure () else modify fun s => s.countDie (dieOf s.cur) 0x1006 1
        throw .wait

/-- `passQueue` for a matrix operation, which charges the budget when it issues (R232). -/
def takeArray (e : DispatchEntry) : M Unit := do
  passQueue e
  modify fun s =>
    let charge := s.entryCharge e
    (s.charge (s.colonyOf s.cur) 0 charge).countCore (coreOf s.cur) 6 charge

/-- Withdraws what a strand has posted or queued and that has had no effect yet: before a delivery, a save or a halt (R247,
R380). Log 42 (DEDUCED). -/
def withdraw (sid : Nat) : M Unit := do
  modQuad (quadOf sid) fun v => { v with postings := v.postings.filter fun p => p.sid ≠ sid }
  modCore (coreOf sid) fun c => { c with queue := c.queue.filter fun e => !e.own sid }

/-- Waits until the lane and matrix operations that the current strand has issued have ended (R182, R183, R229): results not
due are waited for. -/
def waitForLanes : M Unit := do
  let s ← get
  let busy := (s.quad (quadOf s.cur)).ops.any (fun o => o.sid = s.cur) ||
    (s.core (coreOf s.cur)).queue.any (·.own s.cur)
  if busy then throw .retry
  else modSelf fun t =>
    let due := t.inflight.foldl (fun c h => if h.file = 0 then c else max c h.ready) t.clk
    { t with clk := due, cycle := t.cycle + BitVec.ofNat 64 (due - t.clk), inflight := t.inflight.filter fun h => h.file = 0 }

end Sys2Proof.Machine
end

