-- ==== Sys2Proof/Machine/Ops.lean ====
section
/-! DEFINITION. Operations shared by the meanings of instructions: register operands, the order of faults, taking an
exception and returning from one, the register window, and running one instruction. -/

namespace Sys2Proof.Machine

/-! ## Register operands -/

/-- A register that an instruction names: file code of R44, number, and whether it is read and written. -/
structure RegUse where
  file : Nat
  num : Nat
  src : Bool
  dst : Bool
  deriving DecidableEq, Repr

def wSrc (n : RegNo) : RegUse := ⟨0, n.toNat, true, false⟩
def wDst (n : RegNo) : RegUse := ⟨0, n.toNat, false, true⟩
def wBoth (n : RegNo) : RegUse := ⟨0, n.toNat, true, true⟩
def vSrc (n : RegNo) : RegUse := ⟨1, n.toNat, true, false⟩
def vDst (n : RegNo) : RegUse := ⟨1, n.toNat, false, true⟩
def vBoth (n : RegNo) : RegUse := ⟨1, n.toNat, true, true⟩
def kSrc (n : Nat) : RegUse := ⟨2, n, true, false⟩
def kDst (n : Nat) : RegUse := ⟨2, n, false, true⟩
def kBoth (n : Nat) : RegUse := ⟨2, n, true, true⟩

/-- How decode steers an instruction (R46); `lanes` are those of the execute role that pass through the core's dispatch queue
with no need but the lanes of their strand (R173). -/
inductive Steer where
  | access
  | execute
  | lanes
  | joint
  | bySource
  deriving DecidableEq, Repr

/-- What an instruction is before its operation: stall count, fixed latency (0 for variable), steering, and the registers
it names in operand order. -/
structure Desc where
  stall : Stall
  lat : Nat
  steer : Steer
  regs : List RegUse
  deriving DecidableEq, Repr

/-- The number under which the scoreboard knows a register: physical for `w` (R69). -/
def Strand.hazardNum (t : Strand) (u : RegUse) : Nat := if u.file = 0 then t.physOf u.num else u.num

/-- A result of a register that is not due yet (R44). -/
def Strand.hazard (t : Strand) (file num : Nat) : Option Hazard :=
  t.inflight.find? fun h => h.file = file && h.num = num && h.ready > t.clk

/-- Whether every `w` source is A-owned (R46, R47). -/
def Strand.sourcesAOwned (t : Strand) (regs : List RegUse) : Bool :=
  regs.all fun u => !(u.file = 0 && u.src) || !t.eOwned.getLsbD (t.physOf u.num)

/-- The role that runs an instruction; with `ctl.joint` every one runs jointly (R46, R84). -/
def Strand.roleOf (t : Strand) (d : Desc) : Role :=
  if bitAt t.ctl 2 then .joint
  else match d.steer with
    | .access => .access
    | .execute => .execute
    | .lanes => .execute
    | .joint => .joint
    | .bySource => if t.sourcesAOwned d.regs then .access else .execute

/-- The first `w` register that lies at or above the frame size. -/
def Strand.beyondFrame (t : Strand) (regs : List RegUse) : Option Nat :=
  (regs.find? fun u => u.file = 0 && u.num ≥ t.win.frame).map (·.num)

/-- The first source whose result is not due although its producer ran in the same role (R44). Log 28 (DEDUCED). -/
def Strand.tooEarly (t : Strand) (role : Role) (regs : List RegUse) : Option RegUse :=
  regs.find? fun u => u.src && (match t.hazard u.file (t.hazardNum u) with
    | some h => h.role = role && role ≠ .joint
    | none => false)

/-- The clk at which the results of the other role that an instruction names are due (R44, R175). Log 10 (DESIGN CHOICE). Log 28 (DEDUCED). -/
def Strand.interlock (t : Strand) (role : Role) (regs : List RegUse) : Nat :=
  regs.foldl (fun c u => match t.hazard u.file (t.hazardNum u) with
    | some h => if h.role ≠ role || role = .joint then max c h.ready else c
    | none => c) t.clk

/-! ## The two roles (R89 to R91, R139, R144) -/

/-- The instruction in the strand's instruction register. Log 20 (DESIGN CHOICE). -/
def Strand.decoded (t : Strand) : Option Instr :=
  match decodeWords t.ir with
  | some (.ok i) => some i
  | _ => none

/-- A transfer of control that a role takes by itself; its outcome goes to the other role through BQ (R89). -/
def Instr.branches : Instr → Bool
  | .bz _ | .bnz _ | .blt _ | .bge _ | .bltn _ | .bgen _ | .jr _ => true
  | _ => false

/-- The operations that the access role performs only as the oldest incomplete instruction (R139), with the call by register,
which moves the window that both roles name registers by. -/
def Instr.irrevocable : Instr → Bool
  | .st .. | .stc .. | .vst .. | .vsts .. | .vsca .. | .vscac .. | .vstl .. | .tst .. => true
  | .amoAdd .. | .amoAnd .. | .amoOr .. | .amoXor .. | .amoMin .. | .amoMax .. | .amoMinn .. | .amoMaxn .. | .amoSwap .. => true
  | .cas .. | .fwr .. | .push .. | .pop .. | .send .. | .recv .. | .callr .. => true
  | .lrc .. | .amouInteger .. | .amouF32 .. | .amouF64 .. | .amof .. | .nma .. | .wb .. | .inv .. | .fencx .. => true
  | .rput .. | .rget .. | .rdep .. | .cpy .. | .cpyw .. => true
  | .nredSum .. | .nredMin .. | .nredMax .. | .nredMerge2 .. | .nredw .. | .bmem .. => true
  | .wlnew .. | .wlcfgConfigure .. | .wlst .. | .ctrsel .. | .ctrrd .. | .ctrarmArm .. | .yield .. => true
  | .wlcfgFree | .ctrarmDisarm => true
  | _ => false

/-- The data operands of stores, atomics and commands, which travel through SQ (R89). -/
def Instr.dataRegs : Instr → List RegNo
  | .st o _ => [o.a]
  | .stc o _ => [o.a]
  | .amoAdd o _ | .amoAnd o _ | .amoOr o _ | .amoXor o _ | .amoMin o _ | .amoMax o _ | .amoMinn o _ | .amoMaxn o _
  | .amoSwap o _ => [o.a]
  | .cas o _ => [o.a, o.a + 1]
  | .fwr o _ => [o.b]
  | .push o => [o.c]
  | _ => []

/-- The physical registers that an instruction of a role reads from the other role: those the other one owns of which this one
holds no copy, in operand order (R90). -/
def Strand.crossing (t : Strand) (role : Role) (regs : List RegUse) : List Nat :=
  if role = .joint then []
  else ((regs.filter fun u => u.file = 0 && u.src).map fun u => t.physOf u.num).eraseDups.filter fun p =>
    t.eOwned.getLsbD p != (role = .execute) && !t.copies.getLsbD p

/-- Bits of physical registers. -/
def regBits (ps : List Nat) : BitVec 256 := ps.foldl (fun b p => b ||| 1#256 <<< p) 0

/-- Whether a physical register is a data operand of the instruction at hand (R89). -/
def Strand.isData (t : Strand) (p : Nat) : Bool :=
  match t.decoded with
  | some i => (Instr.dataRegs i).any fun n => t.physOf n.toNat = p
  | none => false

/-- The owners push values for an instruction of a role: the strand with the entries in the queues, if they have room (R89,
R91). -/
def Strand.pushTransfers (t : Strand) (reader : Role) (ps : List Nat) : Option Strand :=
  let data := ps.filter t.isData
  let other := ps.filter fun p => !t.isData p
  let u :=
    if reader = .execute then { t with lq := t.lq ++ ps.map t.phys }
    else { t with sq := t.sq ++ data.map t.phys, xq := t.xq ++ other.map t.phys }
  if u.lq.length ≤ 32 && u.sq.length ≤ 32 && u.xq.length ≤ 16 then some u else none

/-- A role pops an operand (R90): the head of the queue that brings it. Where that is empty the owner, which has come past this
point, gives what the register holds. Log 97 (DEDUCED). -/
def Strand.popOperand (t : Strand) (reader : Role) (p : Nat) : Strand :=
  if reader = .execute then
    { t with operands := t.operands ++ [(p, t.lq.headD (t.phys p))], lq := t.lq.tail }
  else if t.isData p then
    { t with operands := t.operands ++ [(p, t.sq.headD (t.phys p))], sq := t.sq.tail }
  else { t with operands := t.operands ++ [(p, t.xq.headD (t.phys p))], xq := t.xq.tail }

/-- Hands an instruction to a halted role (R89, R90): the running role, its owner, pushes what the halted one has to read; a
transfer of control waits for its outcome. The place of the first one is kept: there the halted role stands. Log 97 (DEDUCED). -/
def handOver (a : Ahead) (regs : List RegUse) : M Unit := do
  let s ← get
  let t := s.self
  if (t.decoded.map Instr.branches).getD true then throw .retry
  match t.pushTransfers a.halted (t.crossing a.halted regs) with
  | none => throw .retry
  | some u => do
    let ws := regs.filter fun r => r.file = 0
    let phys := fun (l : List RegUse) => regBits (l.map fun r => t.physOf r.num)
    let b : Ahead := { a with
      start := some (a.start.getD t.pcc)
      writes := a.writes ||| phys (ws.filter (·.dst))
      reads := a.reads ||| phys (ws.filter (·.src))
      others := a.others ++ (regs.filter fun r => r.file ≠ 0).map fun r => (r.file, r.num) }
    let dst := phys (ws.filter (·.dst))
    setSelf { u with
      apart := some (.ahead b)
      copies := (u.copies ||| regBits (t.crossing a.halted regs)) &&& ~~~ dst
      eOwned := if a.halted = .execute then u.eOwned ||| dst else u.eOwned &&& ~~~ dst }
    throw .pass

/-- The strand with neither role halted any more: one that has run ahead waits at its point for the other to catch up (R89, R144). Log 97 (DEDUCED). -/
def Strand.lagging (t : Strand) : Strand :=
  match t.apart with
  | some (.ahead a) =>
    match a.start with
    | some pcc => { t with pcc := pcc, apart := some (.behind a.halted (Cap.cursor t.pcc.val)) }
    | none => { t with apart := none }
  | _ => t

/-- Whether a running role waits before an instruction of its own (R90, R91, R139, R175): it would read a register that the
halted role owns, write one that the halted role has yet to write or to read, name a register of another file that a handed
instruction names, perform an irrevocable operation that is not the oldest, or push an outcome onto a full queue. Log 97 (DEDUCED). -/
def Strand.waitsForHalted (t : Strand) (a : Ahead) (role : Role) (regs : List RegUse) : Bool :=
  !(t.crossing role regs).isEmpty ||
    (regs.any fun u => if u.file = 0 then u.dst && (a.writes ||| a.reads).getLsbD (t.physOf u.num)
      else a.others.contains (u.file, u.num)) ||
    (a.start.isSome && (t.decoded.map Instr.irrevocable).getD true) ||
    (a.start.isSome && (t.decoded.map Instr.branches).getD false && max t.bqAE.length t.bqEA.length ≥ 16)

/-- What an instruction of a role meets where the roles have come apart: with one role halted it is handed over, waits or goes
on; while a restored strand's role catches up with the other, its own instructions take their operands from the queues,
and those that the other role has done are passed. Log 97 (DEDUCED). -/
def meetRoles (role : Role) (regs : List RegUse) : M Unit := do
  let t ← self
  match t.apart with
  | none => pure ()
  | some (.ahead a) =>
    if role = .joint then throw .retry
    else if role = a.halted then handOver a regs
    else if t.waitsForHalted a role regs then throw .retry
    else pure ()
  | some (.behind lag _) =>
    if role = .joint then setSelf { t with apart := none, lq := [], sq := [], xq := [], bqAE := [], bqEA := [] }
    else if role = lag then setSelf ((t.crossing role regs).foldl (fun t p => t.popOperand role p) t)
    else throw .pass

/-- The order of R39 after decode: privilege, frame, interlock, stall. It also notes the role and the copies that a role
gets of the other's registers: their values pass through the queues as the instruction takes them (R90). Log 9 (DEDUCED). -/
def prologue (d : Desc) (priv : M Unit) : M Unit := do
  priv
  let t ← self
  match t.beyondFrame d.regs with
  | some n => raise cFrame n
  | none => pure ()
  let role := t.roleOf d
  meetRoles role d.regs
  let t ← self
  let t := t.advance (t.interlock role d.regs - t.clk)
  match (if bitAt t.ctl 0 then t.tooEarly role d.regs else none) with
  | some u => raise cStall (u.file * 256 + u.num)
  | none => pure ()
  setSelf { t with
    role := role, opIndex := 0, copies := t.copies ||| regBits (t.crossing role d.regs),
    named := (d.regs.filter fun u => u.file = 0).map (·.num) }
  if d.steer = .lanes then do
    let sid ← curSid
    passQueue (DispatchEntry.lanes sid)
  else pure ()

/-- A `w` source, as operand number `i`: what a queue brought, or the register. A result that is not due is read old or new
(R44). Log 11 (DESIGN CHOICE). -/
def readW (i : Nat) (n : RegNo) : M Reg := fun s =>
  let t := s.self
  let p := t.physOf n.toNat
  let r := match t.operands.find? fun e => e.1 = p with
    | some e => e.2
    | none => match t.hazard 0 p with
      | some h =>
        if Config.readsOld s.cur t.clk i then
          ⟨BitVec.ofNat 128 ((h.old.getD 0 0).toNat + (h.old.getD 1 0).toNat * 2 ^ 64), (h.old.getD 2 0) = 1⟩
        else t.phys p
      | none => t.phys p
  .ok r s

/-- Bits 63:0 of a `w` source (R92). Log 11 (DESIGN CHOICE). -/
def readX (i : Nat) (n : RegNo) : M Word := do
  let r ← readW i n
  pure r.word

/-- The value of a `w` source of a joint instruction, for a check that comes before the frame test (R39); 0 beyond the
frame, whose own fault then follows. -/
def peekX (n : RegNo) : M Word := do
  let t ← self
  pure (if n.toNat < t.win.frame then (t.phys (t.physOf n.toNat)).word else 0)

/-- Writes a physical register; its owner is the role that runs the instruction (R47, R48, R90). -/
def Strand.putPhys (t : Strand) (p : Nat) (r : Reg) : Strand :=
  let bit := 1#256 <<< p
  { t with
    regs := storeAt Reg.zero p r t.regs
    eOwned := if t.role = .execute then t.eOwned ||| bit else t.eOwned &&& ~~~ bit
    copies := if t.role = .joint then t.copies ||| bit else t.copies &&& ~~~ bit }

/-- Writes a `w` register. -/
def Strand.putW (t : Strand) (n : Nat) (r : Reg) : Strand := t.putPhys (t.physOf n) r

def writeW (n : RegNo) (r : Reg) : M Unit := modSelf fun t => t.putW n.toNat r

/-- Writes an integer or floating-point result (R68). -/
def writeX (n : RegNo) (w : Word) : M Unit := writeW n (Reg.ofWord w)

/-- Records flags in `fexc` (R57). -/
def setFlags (f : Nat) : M Unit := modSelf fun t => { t with fexc := t.fexc ||| BitVec.ofNat 64 f }

/-! ## The program counter -/

/-- The address of the current instruction's first word (R48). -/
def Strand.pc (t : Strand) : Nat := Cap.cursor t.pcc.val

/-- The address of the word after the base word (R48). -/
def Strand.npc (t : Strand) : Nat := (t.pc + 2 * t.ir.length) % 2 ^ 48

/-- The PCC with another cursor. -/
def Strand.pccAt (t : Strand) (a : Nat) : Reg := ⟨Cap.withCursor t.pcc.val a, t.pcc.tag⟩

/-- How an instruction leaves the program counter: at NPC, at a PCC, or the strand has ended. -/
inductive Flow where
  | next
  | goto (pcc : Reg)
  | ended
  deriving DecidableEq, Repr

/-- The install checks of R103 on a tagged value in a mode and tenant: the first that fails. -/
def installFault (mode : Mode) (tid : BitVec 12) (r : Reg) : Option (BitVec 8) :=
  if mode ≠ .hypervisor && Cap.tenant r.val ≠ tid then some cTenant
  else if Cap.kind r.val ≠ Cap.kMemory && Cap.kind r.val ≠ Cap.kEntry then some cPerm
  else if !Cap.has r.val Cap.x then some cPerm
  else if Cap.cursor r.val % 2 = 1 then some cAlign
  else none

/-- An installed capability has kind memory (R76). -/
def installed (r : Reg) : Reg := ⟨Cap.withKind r.val Cap.kMemory, r.tag⟩

/-- Installs a saved return PCC (R103): it must be tagged and pass the install checks. -/
def installSaved (r : Reg) : M Reg := do
  let t ← self
  raiseIf (!r.tag) cTag (Cap.cursor r.val)
  match installFault t.mode t.tid r with
  | some c => raise c (Cap.cursor r.val)
  | none => pure (installed r)

/-! ## Taking an exception (R134 to R138) -/

/-- Whether a cause is a user cause (R134). -/
def userCause (code : BitVec 8) : Bool := code ≠ 0 && code.toNat ≤ 6

/-- Whether a cause is routed to hypervisor (R134). -/
def hyperCause (code : BitVec 8) : Bool := code = cSlice || code = cDirtyLog || code = cMachine

/-- The handling mode (R135); none when no handler exists. -/
def Strand.targetMode (t : Strand) (code : BitVec 8) : Option Mode :=
  if userCause code && t.mode = .user && bitAt t.status 0 && !bitAt t.status 8 && t.utrap.tvec.tag then some .user
  else
    let first : Mode := if t.mode = .hypervisor || hyperCause code then .hypervisor else .supervisor
    if first = .supervisor && t.strap.tvec.tag then some .supervisor
    else if t.htrap.tvec.tag then some .hypervisor
    else none

/-- The cause word of R85. -/
def causeWord (mode : Mode) (execute : Bool) (code : BitVec 8) : Word :=
  BitVec.ofNat 64 (mode.num * 512 + (if execute then 256 else 0) + code.toNat)

/-- The register changes of `Deliver` (R136): the saved registers, the status, the mode and the PCC. -/
def Strand.enter (t : Strand) (m : Mode) (code : BitVec 8) (value : Word) (value2 : Option Word) (execute : Bool)
    (ret : Reg) : Strand :=
  let cause := causeWord t.mode execute code
  let t := { t with uval2 := value2.getD t.uval2 }
  match m with
  | .user =>
    { t with
      utrap := { t.utrap with epc := ret, cause := cause, val := value }
      status := putBit t.status 8 true
      pcc := installed t.utrap.tvec }
  | .supervisor =>
    { t with
      strap := { t.strap with epc := ret, cause := cause, val := value }
      status := putBit (putBit (putField t.status 3 2 t.mode.num) 2 (bitAt t.status 1)) 1 false
      mode := .supervisor
      pcc := installed t.strap.tvec }
  | .hypervisor =>
    { t with
      htrap := { t.htrap with epc := ret, cause := cause, val := value }
      status := putBit (putBit (putField t.status 5 2 t.mode.num) 7 (bitAt t.status 1)) 1 false
      mode := .hypervisor
      pcc := installed t.htrap.tvec }

/-- The handler entry of a mode. -/
def Strand.tvec (t : Strand) : Mode → Reg
  | .user => t.utrap.tvec
  | .supervisor => t.strap.tvec
  | .hypervisor => t.htrap.tvec

/-- What every delivery does besides (R45, R139, R289): results not due are written, the queues between the roles become
empty, an open region becomes lost, and what the interrupted instruction had asked or waited for is dropped. -/
def Strand.settle (t : Strand) : Strand :=
  { t with
    inflight := []
    lq := []
    sq := []
    xq := []
    bqAE := []
    bqEA := []
    apart := none
    operands := []
    holding := none
    inSync := false
    region := if t.region.state = .opened then { t.region with state := .lost } else t.region
    answers := []
    asked := []
    opIndex := 0
    refusedAt := none
    reoffer := false
    asleep := false }

/-- Delivers a cause to the current strand (R136). A handler whose install fails is delivered as a fault at the handler's
address, once; the strand ends when there is no handler or that delivery fails too (R137, R138). Log 26 (DEDUCED). -/
def deliver (code : BitVec 8) (value : Word) (value2 : Option Word) (execute : Bool) (ret : Reg) : M Unit := do
  let sid ← curSid
  withdraw sid
  let s ← get
  let t := s.self.settle
  match t.targetMode code with
  | none => endStrand s.cur (some (s.faultValue s.cur code))
  | some m =>
    let t1 := t.enter m code value value2 execute ret
    match installFault t1.mode t1.tid (t.tvec m) with
    | none => setSelf t1
    | some c =>
      match t1.targetMode c with
      | none => endStrand s.cur (some (s.faultValue s.cur c))
      | some m2 =>
        let t2 := t1.enter m2 c (BitVec.ofNat 64 (Cap.cursor (t.tvec m).val)) none false (t.tvec m)
        match installFault t2.mode t2.tid (t1.tvec m2) with
        | none => setSelf t2
        | some c2 => endStrand s.cur (some (s.faultValue s.cur c2))

/-- Puts an interrupt into a list that is sorted by code. -/
def insertCause (e : BitVec 8 × Word) : List (BitVec 8 × Word) → List (BitVec 8 × Word)
  | [] => [e]
  | h :: l => if e.1.toNat < h.1.toNat then e :: h :: l else h :: insertCause e l

/-- The interrupts that the strand would take now, in the order of R137; the timer is pending while `timecmp` is not 0 and
`time` is at or above it (R431). -/
def Strand.dueInterrupts (t : Strand) (time : Nat) : List (BitVec 8 × Word) :=
  let all := t.pending ++ (if t.timecmp ≠ 0 && time ≥ t.timecmp.toNat then [(cTimer, 0)] else [])
  let now := all.filter fun e => t.takeable e.1
  let sorted := fun (l : List (BitVec 8 × Word)) => l.foldl (fun acc e => insertCause e acc) []
  sorted (now.filter fun e => hyperCause e.1) ++ sorted (now.filter fun e => !hyperCause e.1)

/-- The PCC at which an interrupted strand continues: after the `wait`, `wfi` or `hold` that it ended, otherwise the
instruction (R42, R136, R164, R390). -/
def Strand.interruptReturn (t : Strand) : Reg := if t.asleep || t.holding.isSome then t.pccAt t.npc else t.pcc

/-! ## Returning (R132, R389) -/

/-- `uret` (R132). -/
def returnUser : M Flow := do
  let t ← self
  let p ← installSaved t.utrap.epc
  modSelf fun t => { t with status := putBit t.status 8 false }
  pure (.goto p)

/-- `sret` (R389). The mode that the status names must be no higher than the current one. -/
def returnSupervisor (target : Mode) : M Flow := do
  let t ← self
  let p ← installSaved t.strap.epc
  modSelf fun t => { t with
    mode := target
    status := putField (putBit (putBit t.status 1 (bitAt t.status 2)) 2 false) 3 2 0
    region := if t.region.state = .opened then { t.region with state := .lost } else t.region }
  pure (.goto p)

/-- `hret` (R389). -/
def returnHypervisor (target : Mode) : M Flow := do
  let t ← self
  let p ← installSaved t.htrap.epc
  modSelf fun t => { t with
    mode := target
    status := putField (putBit (putBit t.status 1 (bitAt t.status 7)) 7 false) 5 2 0
    region := if t.region.state = .opened then { t.region with state := .lost } else t.region }
  pure (.goto p)

/-! ## Running one instruction -/

/-- A register's value as the scoreboard keeps it (R44). -/
def Strand.oldValue (t : Strand) (file num : Nat) : List Word :=
  match file with
  | 0 =>
    let r := t.phys num
    [r.word, BitVec.ofNat 64 (r.val.toNat / 2 ^ 64), if r.tag then 1 else 0]
  | 1 => lookupRange 0 t.vec.v (num * 64) 64
  | 2 => (List.range 8).map fun i => BitVec.ofNat 64 ((lookupD 0 t.vec.k num).toNat / 2 ^ (64 * i))
  | 5 => lookupRange 0 t.vec.mq (num * 64) 64
  | 6 => lookupRange 0 t.vec.mc (num * 64) 64
  | _ => []

/-- Notes the results that are not due when the next instruction can issue (R42, R44). A younger write takes the place of an
older one to the same register (R45): a consumer then waits for, or reads old or new of, the younger result only. `pre` is
the strand before the instruction, `issue` the clk in which it issued. Log 9 (DEDUCED). Log 10 (DESIGN CHOICE). -/
def Strand.noteResults (t pre : Strand) (d : Desc) (issue : Nat) : Strand :=
  let dsts := (d.regs.filter fun u => u.dst).map fun u => (u.file, pre.hazardNum u)
  let others := t.inflight.filter fun h => h.ready > t.clk && !dsts.contains (h.file, h.num)
  let mine := if d.lat ≤ 1 + d.stall.toNat then [] else dsts.map fun p =>
    { file := p.1, num := p.2, role := t.role, ready := issue + d.lat, old := pre.oldValue p.1 p.2 }
  { t with inflight := others ++ mine }

/-- An instruction that has completed (R42): time, `instret`, the scoreboard and the program counter. Log 10 (DESIGN CHOICE). -/
def Strand.complete (t pre : Strand) (d : Desc) (extra : Nat) (pcc : Reg) : Strand :=
  let issue := t.clk
  let t := t.advance (1 + d.stall.toNat + extra)
  let t := t.noteResults pre d issue
  { t with instret := t.instret + 1, pcc := pcc, answers := [], asked := [], refusedAt := none, reoffer := false,
           asleep := false, holding := none, opIndex := 0, operands := [] }

/-- The strand whose role has caught up with the other one, when it has come to the other's point (R142). -/
def Strand.meet (t : Strand) : Strand :=
  match t.apart with
  | some (.behind _ point) =>
    if t.pc = point then { t with apart := none, lq := [], sq := [], xq := [], bqAE := [], bqEA := [] } else t
  | _ => t

/-- The outcome of a transfer of control that one role took, for the other one (R89): bit 63 taken, bits 47:0 the target. -/
def outcomeWord (t : Strand) (pcc : Reg) : Word :=
  let a := Cap.cursor pcc.val
  BitVec.ofNat 64 ((if a = t.npc then 0 else 2 ^ 63) + a)

/-- The outcome of a branch enters BQ where the other role has yet to come past it (R89). -/
def Strand.pushOutcome (t : Strand) (pcc : Reg) : Strand :=
  match t.apart with
  | some (.ahead a) =>
    if a.start.isSome && (t.decoded.map Instr.branches).getD false then
      if a.halted = .execute then { t with bqAE := t.bqAE ++ [outcomeWord t pcc] }
      else { t with bqEA := t.bqEA ++ [outcomeWord t pcc] }
    else t
  | _ => t

/-- The strand past an instruction that the other role has done or will do (R89): at the outcome that BQ brings of a transfer of
control, otherwise behind the instruction. Log 97 (DEDUCED). -/
def Strand.passed (t : Strand) : Strand :=
  let next := t.pccAt t.npc
  let u := match t.apart with
    | some (.behind lag _) =>
      if (t.decoded.map Instr.branches).getD false then
        let q := if lag = Role.execute then t.bqAE else t.bqEA
        let pcc := match q with
          | o :: _ => if bitAt o 63 then t.pccAt (fieldAt o 0 48) else next
          | [] => next
        if lag = Role.execute then { t with bqAE := q.tail, pcc := pcc } else { t with bqEA := q.tail, pcc := pcc }
      else { t with pcc := next }
    | _ => { t with pcc := next }
  { u.meet with opIndex := 0, operands := [] }

/-- The state after an instruction that has completed. -/
def State.commit (s pre : State) (d : Desc) (extra : Nat) (flow : Flow) : State :=
  let core := coreOf s.cur
  let s := (s.spend core (1 + d.stall.toNat + extra)).countCore core 2 1
  let t := s.self
  match flow with
  | .ended => s
  | .next => s.withSelf ((t.pushOutcome (t.pccAt t.npc)).complete pre.self d extra (t.pccAt t.npc)).meet
  | .goto p => s.withSelf ((t.pushOutcome p).complete pre.self d extra p).meet

/-- What an action leads to once nothing is left to try. -/
def finishM (s : State) (m : M Unit) : Host.Outcome State Fault Refusal :=
  match m s with
  | .ok _ t => .next t
  | .error (.stop f) _ => .fault f
  | .error _ t => .next t

/-- The state of a waiting instruction: time passes by one clk. -/
def State.idle (s : State) : State := (s.withSelf (s.self.advance 1)).spend (coreOf s.cur) 1

/-- Delivers the cause that an instruction raised: from `s`, with the role and the return PCC that it had at `pre`. -/
def takeCause (pre s : State) (d : Desc) (code : BitVec 8) (value : Word) (value2 : Option Word) :
    Host.Outcome State Fault Refusal :=
  let t := pre.self
  let ret := if code = cSyscall then t.pccAt t.npc else t.pcc
  match t.apart with
  | some (.ahead _) =>
    -- the running role stops at it, and the debugger is told (R144)
    .next ({ pre.withSelf { t with debugger := { t.debugger with stuck := true } } with
      units := { s.units with debugOut := s.units.debugOut ++ [(pre.cur, code, value)] } }).idle
  | _ => finishM s.idle (deliver code value value2 (t.roleOf d = .execute) ret)

/-- What becomes of an instruction that did not complete: `s` is the state before it, `t` the one it left. A request that
leaves the core follows the write-backs that a release would make, and the core drops the line it operates on (R277). Log 15 (DEDUCED). -/
def conclude (d : Desc) (s t : State) (e : Exc) : Host.Outcome State Fault Refusal :=
  match e with
  | .trap c v v2 => takeCause s (s.undo t) d c v v2
  | .trapKeep c v v2 => takeCause s t d c v v2
  | .wait => .next t.idle
  | .retry => .next s.idle
  | .pass => .next (t.withSelf t.self.passed)
  | .ask pk =>
    finishM s.idle (do
      let sid ← curSid
      modify fun s =>
        let s := s.releaseCore (coreOf sid)
        if pk.dst = s.pkg then s.leaveLine (coreOf sid) (pk.addr / 128) else s
      let txn ← sendRequest pk sid .instr
      let s ← get
      if pk.mirrored && !pk.mr && pk.dst = s.pkg ^^^ 1 then
        applyWrite pk
        sendPacket (mirrorDone s pk)
      modSelf fun t => { t with asked := t.asked ++ [txn] })
  | .stop f => .fault f

/-- Runs one instruction of the current strand (R39, R42, R48, R136). Log 15 (DEDUCED). -/
def runWith (d : Desc) (extra : Nat) (priv : M Unit) (body : M Flow) (s : State) : Host.Outcome State Fault Refusal :=
  match (do prologue d priv; body : M Flow) s with
  | .ok flow t => .next (t.commit s d extra flow)
  | .error e t => conclude d s t e

/-- An instruction that goes on at NPC. -/
def runOp (d : Desc) (body : M Unit) (s : State) : Host.Outcome State Fault Refusal :=
  runWith d 0 (pure ()) (do body; pure .next) s

/-- An instruction that may transfer control. -/
def runFlow (d : Desc) (body : M Flow) (s : State) : Host.Outcome State Fault Refusal :=
  runWith d 0 (pure ()) body s

/-- An instruction with a privilege check before everything else (R39). -/
def runPriv (d : Desc) (priv : M Unit) (body : M Unit) (s : State) : Host.Outcome State Fault Refusal :=
  runWith d 0 priv (do body; pure .next) s

/-- A machine event: the action, whatever strand's turn it is. -/
def runEvent (body : M Unit) (s : State) : Host.Outcome State Fault Refusal := finishM s body

/-! ## Fault values and causes of decode (R40) -/

/-- The value of R40 for the base word of the current instruction. -/
def Strand.illValue (t : Strand) : Nat :=
  let n := t.ir.length
  let page := match t.ir with
    | w :: _ => if n > 1 && w.toNat / 256 % 64 = 0x3C then w.toNat / 2 ^ 14 * 256 + w.toNat % 256 else 0
    | [] => 0
  page * 2 ^ 19 + (n - 1) * 2 ^ 16 + (t.ir.getLastD 0).toNat

/-- Raises `ill` with the value of R40. -/
def raiseIll {α : Type} : M α := do
  let t ← self
  raise cIll t.illValue

/-- Raises `ill` when a condition holds. -/
def illIf (b : Bool) : M Unit := if b then raiseIll else pure ()

/-- Raises `priv` with the value of R40 unless the mode is at least the given one (R80, R134). -/
def needMode (m : Mode) : M Unit := do
  let t ← self
  raiseIf (t.mode.num < m.num) cPriv t.illValue

end Sys2Proof.Machine
end

