-- ==== Sys2Proof/Machine/Operands.lean ====
section
/-! DEFINITION. Operand forms: sources and destinations by shape (R28 to R30), immediates (R29), memory operands (R13,
R93) and the widths and element types that modifiers name (R32 to R36). -/

namespace Sys2Proof

/-! ## Registers by shape -/

/-- The first source of a two-source instruction: A without a PXR, B with one (R94). -/
def OpRRC.x (o : OpRRC) : RegNo := if o.c.isSome then o.b else o.a

/-- The second source of a two-source instruction: B without a PXR, C with one (R94). -/
def OpRRC.y (o : OpRRC) : RegNo := o.c.getD o.b

/-- An immediate as a signed or unsigned 64-bit value (R29). -/
def Imm.signed (i : Imm) : Word := i.signExtend 64
def Imm.unsigned (i : Imm) : Word := i.setWidth 64

/-- An immediate as an integer, and as a byte offset of a transfer that counts words (R30). -/
def Imm.int (i : Imm) : Int := i.toInt

namespace Machine

/-- The registers that a two-source instruction on one file names. -/
def twoSource (file : Nat) (o : OpRRC) : List RegUse :=
  match o.c with
  | none => [⟨file, o.a.toNat, true, true⟩, ⟨file, o.b.toNat, true, false⟩]
  | some c => [⟨file, o.a.toNat, false, true⟩, ⟨file, o.b.toNat, true, false⟩, ⟨file, c.toNat, true, false⟩]

/-- A ← f(B) on `w` registers. -/
def oneSource (o : OpRR) : List RegUse := [wDst o.a, wSrc o.b]

/-- A, B and C as sources. -/
def threeSource (o : OpRRR) : List RegUse := [wSrc o.a, wSrc o.b, wSrc o.c]

/-! ## Memory operands -/

/-- `[wB + n]`: the capability with its cursor moved (R108). -/
def addressRX (i : Nat) (o : OpRX) : M Reg := do
  let b ← readW i o.b
  pure ⟨Cap.offset b.val (Imm.int o.imm), b.tag⟩

/-- `[wB + wC + n]` (R93). -/
def addressRRR (i : Nat) (o : OpRRR) : M Reg := do
  let b ← readW i o.b
  let c ← readX (i + 1) o.c
  pure ⟨Cap.offset b.val (c.toInt + Imm.int o.imm), b.tag⟩

/-- Bytes of a width code (R32). -/
def widthBytes (w : BitVec 3) : Nat := 2 ^ w.toNat

/-- Extends the low `8 * k` bits of a number to 64 bits. -/
def extendTo64 (signed : Bool) (k v : Nat) : Word := BitVec.ofInt 64 (Float.patInt (8 * k) signed v)

/-- How a memory-class modifier accesses memory (R32). -/
def mannerOf (m : MemMod) : Manner := ⟨m.ord.toNat, m.scope.toNat, m.nt, 0⟩

/-! ## Element types (R34) -/

/-- An element type: an integer of a width in bits, signed or not, or a floating-point format. -/
inductive ElType where
  | int (bits : Nat) (signed : Bool)
  | fp (f : Float.Format)
  deriving DecidableEq, Repr

/-- The integer table of R34. -/
def intType (c : BitVec 3) : ElType := .int (8 * 2 ^ (c.toNat % 4)) (c.toNat < 4)

/-- The FP table of R34; code 7 is never decoded. -/
def fpFormat (c : BitVec 3) : Float.Format :=
  match c.toNat with
  | 0 => Float.f16
  | 1 => Float.bf16
  | 2 => Float.f32
  | 3 => Float.f64
  | 4 => Float.e4m3
  | 5 => Float.e5m2
  | _ => Float.e2m1

/-- The type of rule 3 of R34: rounding code 5 selects the integer table. -/
def elTypeOf (m : VecMod) : ElType := if m.rnd = 5 then intType m.ty else .fp (fpFormat m.ty)

/-- Bits of an element. -/
def ElType.bits : ElType → Nat
  | .int b _ => b
  | .fp f => f.width

end Machine
end Sys2Proof
end

