-- ==== Sys2Proof/Machine/Flags.lean ====
section
/-! DEFINITION. Rounding modes in force, stochastic rounding and the sticky flags (R55 to R62, R86). -/

namespace Sys2Proof.Machine

/-- The mode that a rounding code stands for (R55). `odd` tells whether a `dyn` may round to odd: conversions and scalar
instructions of page 1. -/
def Strand.roundingMode (t : Strand) (code : Nat) (odd : Bool) : Nat :=
  if code = 7 then
    let c := fieldAt t.frm 0 3
    if c = 7 || (c = 5 && !odd) then 0 else c
  else code

/-- One step of a lane's LFSR (R60). -/
def lfsrStep (s : BitVec 32) : BitVec 32 := if s.getLsbD 0 then (s >>> 1) ^^^ 0x80200003 else s >>> 1

/-- Code 6, stochastic rounding (R55). -/
def srMode : Nat := 6

/-- A scalar instruction that rounds by `sr` needs a lane (R62). -/
def needSeed (code : Nat) : M Unit := do
  let t ← self
  illIf (t.roundingMode code true = srMode && t.vec.lanes.isEmpty)

/-- The mode of a scalar instruction; under `sr` the LFSR of lane 0 steps (R62). -/
def scalarMode (code : Nat) : M Nat := do
  let t ← self
  let m := t.roundingMode code true
  if m = srMode then
    modSelf fun t => { t with vec := { t.vec with seeds := storeAt 0 0 (lfsrStep (lookupD 0 t.vec.seeds 0)) t.vec.seeds } }
  else pure ()
  pure m

/-- The word drawn for a sub-element of a lane (R61). -/
def Strand.drawn (t : Strand) (lane sub : Nat) : Nat :=
  ((lookupD 0 t.vec.seeds lane).rotateRight (8 * sub % 32)).toNat

/-- An instruction that rounds by `sr` steps the LFSR of every lane of the grant once (R60). Log 45 (DEDUCED). -/
def stepSeeds (mode : Nat) : M Unit :=
  if mode = srMode then
    modSelf fun t =>
      let n := t.vec.lanes.length
      let seeds := (List.range n).foldl (fun m i => storeAt 0 i (lfsrStep (lookupD 0 m i)) m) t.vec.seeds
      { t with vec := { t.vec with seeds := seeds } }
  else pure ()

/-- Rounds a value into a format, for sub-element `sub` of a lane, and records the flags; `before` are those that came
with the exact value. -/
def roundTo (f : Float.Format) (mode lane sub : Nat) (x : Float.Value) (before : Nat) : M Nat := do
  let t ← self
  let (code, fl) := Float.round f mode (t.drawn lane sub) x
  setFlags (before ||| fl)
  pure code

/-- Rounds a value into an integer type (R58); the result is its bit pattern. -/
def roundToInt (bits : Nat) (signed : Bool) (mode lane sub : Nat) (x : Float.Value) : M Nat := do
  let t ← self
  let (v, fl) := Float.roundInt bits signed mode (t.drawn lane sub) x
  setFlags fl
  pure v

end Sys2Proof.Machine
end

