-- ==== Sys2Proof/Machine/Lanes.lean ====
section
/-! DEFINITION. Lanes and grants, and vector, mask and modular registers as the meanings read and write them (R167 to
R172, R175 to R179). -/

namespace Sys2Proof.Machine

/-! ## Grants -/

/-- Removes what a map keyed by register and position holds at positions from `n` up. -/
def dropPositions {α : Type} (n : Nat) (m : SMap α) : SMap α := m.filter fun e => e.1 % 64 < n

/-- Physical lanes of a quad that no running strand holds, ascending (R171). -/
def State.freeSet (s : State) (q : Nat) : List Nat :=
  (List.range 64).filter fun l => (s.quadStrands q).all fun sid => !(s.strand sid).vec.lanes.contains l

/-- Positions from `n` up leave a grant (R171). -/
def VecState.shrink (v : VecState) (n : Nat) : VecState :=
  { v with
    lanes := v.lanes.take n
    v := dropPositions n v.v
    mq := dropPositions n v.mq
    mc := dropPositions n v.mc
    seeds := dropPositions n v.seeds }

/-- Physical lanes join a grant; the position `n` takes the seed `n + 1` (R171). -/
def VecState.grow (v : VecState) (ls : List Nat) : VecState :=
  let g := v.lanes.length
  { v with
    lanes := v.lanes ++ ls
    seeds := (List.range ls.length).foldl (fun m i => storeAt 0 (g + i) (BitVec.ofNat 32 (g + i + 1)) m) v.seeds }

/-- A strand's grant becomes `n` lanes. -/
def State.setGrant (s : State) (sid n : Nat) : State :=
  let t := s.strand sid
  let g := t.vec.lanes.length
  if n ≤ g then s.withStrand sid { t with vec := t.vec.shrink n }
  else s.withStrand sid { t with vec := t.vec.grow ((s.freeSet (quadOf sid)).take (n - g)) }

/-- The request that a number of lanes makes (R182). -/
def claimRequest (x : Nat) : Nat := if x = 0 then 8 else min 64 (8 * ((x + 7) / 8))

/-- Free lanes that a claim may take: freed lanes go first to deferred starts, 8 to each (R170). -/
def State.claimable (s : State) (q : Nat) : Nat := s.freeLanes q - 8 * (s.quad q).deferred.length

/-- The decision of R169 on a request: the new grant and the demand. -/
def State.decideClaim (s : State) (sid r : Nat) : Nat × Nat :=
  let res := (s.strand sid).reserve
  if r ≤ res then (r, 0)
  else
    let g := min r (res + s.claimable (quadOf sid))
    (g, r - g)

/-- Gives a strand the grant and the demand that R169 decides; the new grant. -/
def claimLanes (sid r : Nat) : M Nat := do
  let s ← get
  let (g, d) := s.decideClaim sid r
  set (s.setGrant sid g)
  modStrand sid fun t => { t with vec := { t.vec with demand := d } }
  offerLanes (quadOf sid)
  pure g

/-- Releases every position of the current strand (R183). -/
def releaseLanes : M Unit := do
  let sid ← curSid
  modify fun s => s.setGrant sid 0
  modSelf fun t => { t with vec := { t.vec with vlen := 0, vstart := 0, demand := 0 } }
  offerLanes (quadOf sid)

/-- What a strand surrenders when its `sync` completes (R170). -/
def shrinkAtSync (sid : Nat) : M Unit := do
  let s ← get
  let g := (s.strand sid).vec.lanes.length
  let f := s.freeLanes (quadOf sid)
  let d := s.demand (quadOf sid)
  if g > 8 && d > f then do
    set (s.setGrant sid (g - min (g - 8) (d - f)))
    offerLanes (quadOf sid)
  else pure ()

/-! ## Registers in lanes (R176) -/

/-- The capacity of the grant for an element width (R168). -/
def Strand.cap (t : Strand) (w : Nat) : Nat := t.vec.lanes.length * 64 / w

/-- The effective length for an element width (R177). -/
def Strand.effective (t : Strand) (w : Nat) : Nat := min t.vec.vlen (t.cap w)

/-- Element `e` of a register given by its positions' words. -/
def elAt (ws : List Word) (w e : Nat) : Nat := (ws.getD (e / (64 / w)) 0).toNat / 2 ^ (e % (64 / w) * w) % 2 ^ w

/-- A position's word with element after element replaced: `f` gives the new value of an element, if any. -/
def putWord (old : Word) (w p : Nat) (f : Nat → Option Nat) : Word :=
  let per := 64 / w
  BitVec.ofNat 64 ((List.range per).foldl (fun acc j =>
    let v := match f (p * per + j) with
      | some x => x % 2 ^ w
      | none => old.toNat / 2 ^ (j * w) % 2 ^ w
    acc + v * 2 ^ (j * w)) 0)

/-- A register file with elements of one register replaced, over the positions of a grant. -/
def putElements (g reg w : Nat) (f : Nat → Option Nat) (m : SMap Word) : SMap Word :=
  (List.range g).foldl (fun m p =>
    storeAt 0 (reg * 64 + p) (putWord (lookupD 0 m (reg * 64 + p)) w p f) m) m

/-- Writes elements of a vector register of the current strand. -/
def writeV (reg : RegNo) (w : Nat) (f : Nat → Option Nat) : M Unit :=
  modSelf fun t => { t with vec := { t.vec with v := putElements t.vec.lanes.length reg.toNat w f t.vec.v } }

/-- The value of a mask register; `k0` reads as all ones (R176). -/
def Strand.mask (t : Strand) (n : Nat) : BitVec 512 := if n = 0 then BitVec.allOnes 512 else lookupD 0 t.vec.k n

/-- Writes a mask register; a write to `k0` is discarded (R176). -/
def writeK (n : Nat) (v : BitVec 512) : M Unit :=
  if n = 0 then pure () else modSelf fun t => { t with vec := { t.vec with k := storeAt 0 n v t.vec.k } }

/-- What the scoreboard kept of a register whose result is not due, if this read finds the old value (R44). -/
def readsOld (i file num : Nat) : M (Option (List Word)) := fun s =>
  let t := s.self
  let r := match t.hazard file num with
    | some h => if Config.readsOld s.cur t.clk i then some h.old else none
    | none => none
  .ok r s

/-- A vector register as a source, as operand number `i`: the words of its 64 positions. -/
def readV (i : Nat) (n : RegNo) : M (List Word) := do
  let old ← readsOld i 1 n.toNat
  let t ← self
  pure (old.getD (lookupRange 0 t.vec.v (n.toNat * 64) 64))

/-- A mask register as a source, as operand number `i`. -/
def readK (i : Nat) (n : Nat) : M (BitVec 512) := do
  let old ← readsOld i 2 n
  let t ← self
  match old with
  | some ws => pure (if n = 0 then BitVec.allOnes 512
      else BitVec.ofNat 512 ((List.range 8).foldl (fun a j => a + (ws.getD j 0).toNat * 2 ^ (64 * j)) 0))
  | none => pure (t.mask n)

/-- A register of moduli or constants as a source (file 5 `mq`, 6 `mc`). -/
def readModulus (i file : Nat) (n : Nat) : M (List Word) := do
  let old ← readsOld i file n
  let t ← self
  pure (old.getD (lookupRange 0 (if file = 5 then t.vec.mq else t.vec.mc) (n * 64) 64))

/-! ## Conditions on running (R179) -/

/-- An empty grant raises `ill`. -/
def needGrant : M Unit := do
  let t ← self
  illIf t.vec.lanes.isEmpty

/-- A cross-element instruction raises `ill` unless `vstart` is 0. -/
def needStart : M Unit := do
  let t ← self
  illIf (t.vec.lanes.isEmpty || t.vec.vstart ≠ 0)

/-- The mask register that a vector instruction reads, as an operand. -/
def maskUse (k : BitVec 3) : List RegUse := if k = 0 then [] else [kSrc k.toNat]

/-- Elements from `start` up to `n`: charges the lane budget for the positions that hold them (R378) and counts them. Log 40 (DEDUCED). -/
def useLanes (w start n : Nat) : M Unit := do
  let per := 64 / w
  let positions := if start < n then (n + per - 1) / per - start / per else 0
  spendBudget 1 positions
  modify fun s => s.countCore (coreOf s.cur) 5 (n - start)

/-- Writes the processed elements of a result (R177, R178): the active ones get `f`, which also gives flags, the others
keep their value or become zero. `vstart` becomes 0 (R179). -/
def writeElements (reg : RegNo) (w start n : Nat) (zero : Bool) (mask : BitVec 512) (f : Nat → Nat × Nat) : M Unit := do
  let flags := (List.range n).foldl (fun fl e => if start ≤ e && mask.getLsbD e then fl ||| (f e).2 else fl) 0
  writeV reg w fun e =>
    if start ≤ e && e < n then
      if mask.getLsbD e then some (f e).1 else if zero then some 0 else none
    else none
  setFlags flags
  modSelf fun t => { t with vec := { t.vec with vstart := 0 } }

end Sys2Proof.Machine
end

