-- ==== Sys2Proof/Machine/Barrier.lean ====
section
/-! DEFINITION. Barrier groups, membership and supersteps (R257 to R265, R267). -/

namespace Sys2Proof.Machine

/-! ## Groups (R258, R259) -/

/-- The scope and the group number of a group cursor. -/
def groupName (a : Nat) : Nat × Nat := (a / 2 ^ 45 % 8, a / 2 ^ 41 % 16)

/-- The strand's own prefix at a scope, as a group cursor has it. -/
def groupInst (sid scope : Nat) : Nat :=
  match scope with
  | 1 => sid / 2 * 2
  | 2 => sid / 8 * 8
  | 3 => sid / 1024 * 1024
  | 4 => sid / 16384 * 16384
  | _ => 0

/-- The check of a group capability: scope and group. `red` tells a reduction group from a barrier group (R421). -/
def checkGroup (c : Reg) (red : Bool) : M (Nat × Nat) := do
  checkCap c Cap.br [Cap.kGroup] 1
  let s ← get
  let a := Cap.cursor c.val
  let (scope, g) := groupName a
  raiseIf ((a / 2 ^ 40 % 2 = 1) != red || scope = 0 || scope = 7 || (red && scope ≠ 4 && scope ≠ 5) ||
    a / 2 ^ 28 % 4096 ≠ 0 || a % 2 ^ 28 ≠ groupInst (s.fullSid s.cur).toNat scope ||
    (scope ≥ 5 && s.jobOf s.cur = 0)) cPerm a
  pure (scope, g)

/-- Whether the matrix unit will arrive in a group in the strand's place (R267). -/
def State.gangPending (s : State) (sid scope g : Nat) : Bool :=
  (s.quad (quadOf sid)).gangs.any fun x => x.partners.any fun p =>
    p.sid = sid && p.group ≠ 0 && groupName p.group.toNat = (scope, g)

/-- Bits of a mask for the sixteen groups of a scope. -/
def scopeMask (m : BitVec 128) (scope : Nat) : Nat := m.toNat / 2 ^ (scope % 8 * 16) % 65536

/-! ## Arrive, wait and drop (R263) -/

/-- `arv` and `ard`: a second arrival and one by no member raise `bar`; a drop leaves the group with its arrival. -/
def arriveAt (c : Reg) (drop : Bool) : M Unit := do
  let (scope, g) ← checkGroup c false
  let s ← get
  let b := groupBit scope g
  let t := s.self
  raiseIf (!t.members.getLsbD b || t.arrived.getLsbD b || s.gangPending s.cur scope g) cBar (Cap.cursor c.val)
  if drop then modSelf fun t => { t with members := t.members &&& ~~~ (1#128 <<< b) } else pure ()
  arrive scope g s.cur

/-- `arv`. -/
def execArv (o : OpR) (s : State) : Host.Outcome State Fault Refusal :=
  runOp ⟨o.st, 0, .joint, [wSrc o.a]⟩ (do
    let c ← readW 0 o.a
    arriveAt c false) s

/-- `ard`. -/
def execArd (o : OpR) (s : State) : Host.Outcome State Fault Refusal :=
  runOp ⟨o.st, 0, .joint, [wSrc o.a]⟩ (do
    let c ← readW 0 o.a
    arriveAt c true) s

/-- `bwt`: waits while the strand's arrival, or one that the matrix unit owes it, is pending. -/
def execBwt (o : OpR) (s : State) : Host.Outcome State Fault Refusal :=
  runOp ⟨o.st, 0, .joint, [wSrc o.a]⟩ (do
    let c ← readW 0 o.a
    let (scope, g) ← checkGroup c false
    let s ← get
    if s.self.arrived.getLsbD (groupBit scope g) || s.gangPending s.cur scope g then throw .retry else pure ()) s

/-! ## Membership (R264) -/

/-- Leaves and joins of one scope, applied together, then the completion test of every group that changed (R261). -/
def setMembership (scope new : Nat) : M Unit := do
  let s ← get
  let old := scopeMask s.self.members scope
  let gone := BitVec.ofNat 128 ((old &&& (65535 - new)) * 2 ^ (scope % 8 * 16))
  let come := BitVec.ofNat 128 ((new &&& (65535 - old)) * 2 ^ (scope % 8 * 16))
  modSelf fun t => { t with
    members := t.members &&& ~~~ gone ||| come
    arrived := t.arrived &&& ~~~ gone
    syncing := t.syncing &&& ~~~ gone }
  for g in List.range 16 do
    if old.testBit g = new.testBit g then pure () else testPhase scope g s.cur

/-- `bmem`. -/
def execBmem (o : OpRRC) (s : State) : Host.Outcome State Fault Refusal :=
  let illMask : M Unit := do
    let m ← peekX o.x
    illIf (m.toNat ≥ 65536)
  runPriv ⟨o.st, 0, .joint, twoSource 0 o⟩ illMask (do
    let m ← readX 0 o.x
    let c ← readW 1 o.y
    let (scope, _) ← checkGroup c false
    let t ← self
    setMembership scope m.toNat
    writeX o.a (BitVec.ofNat 64 (scopeMask t.members scope))) s

/-! ## Supersteps (R265) -/

/-- Raises what a dropped put left behind (R160): `peer` cases first, then `ecc`; those of the packages named are
cleared. Log 50 (DEDUCED). -/
def raiseDropped (within : BitVec 8 → Nat → Bool) : M Unit := do
  let t ← self
  let of := fun (code : BitVec 8) => t.dropped.find? fun d => d.1 = code && within d.1 d.2.2
  let clear := fun (code : BitVec 8) => do
    modSelf fun t => { t with dropped := t.dropped.filter fun d => !(d.1 = code && within d.1 d.2.2) }
  match of cPeer with
  | some d => do
    clear cPeer
    throw (.trapKeep cPeer d.2.1 none)
  | none =>
    match of cEcc with
    | some d => do
      clear cEcc
      throw (.trapKeep cEcc d.2.1 none)
    | none => pure ()

/-- Whether an operation that the strand has issued is not yet performed at its destination: requests to other packages
and copy commands; an agent's routine has been performed when its `nma` completes. -/
def State.stepsOutstanding (s : State) (sid : Nat) : Bool :=
  s.putsOutstanding sid ||
    s.copiesOutstanding sid

/-- Strands of a quad below a sid that the same phase's completion lets go on: they surrender lanes before it (R170). -/
def State.completingBelow (s : State) (scope sid : Nat) : List Nat :=
  let b := groupBit scope 15
  (s.quadStrands (quadOf sid)).filter fun x =>
    x < sid && s.sameInstance scope sid x && (s.strand x).syncing.getLsbD b && !(s.strand x).arrived.getLsbD b

/-- What follows the completion of a superstep: the acquire, the grant changes in ascending order of sid, and the stop of a colony
that yields. -/
def finishSync (scope : Nat) : M Unit := do
  let sid ← curSid
  modSelf fun t => { t with syncing := t.syncing &&& ~~~ (1#128 <<< groupBit scope 15), inSync := false }
  acquireAt scope
  let s ← get
  for b in s.completingBelow scope sid do
    shrinkAtSync b
  shrinkAtSync sid
  stopForYield sid

/-- `sync`. Log 41 (DEDUCED). -/
def execSync (o : OpN) (m : MemMod) (s : State) : Host.Outcome State Fault Refusal :=
  runOp ⟨o.st, 0, .joint, []⟩ (do
    let scope := m.scope.toNat
    let b := groupBit scope 15
    let s ← get
    let t := s.self
    raiseIf (!t.members.getLsbD b) cBar 0
    if t.syncing.getLsbD b && t.arrived.getLsbD b then do
      modSelf fun t => { t with inSync := true }
      throw .wait
    else if t.syncing.getLsbD b && t.inSync then finishSync scope
    else do
      raiseIf (t.arrived.getLsbD b || s.gangPending s.cur scope 15) cBar 0
      raiseDropped fun _ _ => true
      releaseAt scope
      let s ← get
      if s.stepsOutstanding s.cur then throw .retry else pure ()
      modSelf fun t => { t with syncing := t.syncing ||| (1#128 <<< b), inSync := true }
      arrive scope 15 s.cur
      throw .wait) s

end Sys2Proof.Machine
end

