-- ==== Sys2Proof/Machine/Control.lean ====
section
/-! DEFINITION. Transfers of control, calls and the register window with its spill ring (R11, R69 to R72, R101 to R107). -/

namespace Sys2Proof.Machine

/-! ## The spill ring (R71, R72) -/

/-- Distance of one ring position above another. -/
def ringDist (a b : Nat) : Nat := (b + 256 - a % 256) % 256

/-- How far the current frame has moved above its origin (R105, R106). -/
def Window.shift (w : Window) : Nat := ringDist w.origin w.base

/-- Registers from the origin of the oldest resident frame up to the current frame's base: what lies between a frame's origin
and its base belongs to its caller as far as their overlap goes (R106). -/
def Window.below (w : Window) : Nat :=
  let rec go : List Link → Nat → Nat
    | [], _ => 0
    | l :: ls, next => ringDist l.origin next + go ls l.origin
  go w.links w.origin + w.shift

/-- A check of a spill record: its faults become `spill`, errors of the stored data name the record (R72). -/
def spillChecked {α : Type} (a : Nat) (m : M α) : M α := fun s =>
  match m s with
  | .error (.trap c _ _) t =>
    .error (.trap (if c = cEcc || c = cInteg then c else cSpill) (BitVec.ofNat 64 a) none) t
  | r => r

/-- The global physical address and leaf of an address within translated pieces. -/
def pieceAt (ps : List (Nat × Nat × Nat × Word)) (va : Nat) : Nat × Word :=
  match ps.find? (fun p => p.1 ≤ va && va < p.1 + p.2.1) with
  | some p => (p.2.2.1 + (va - p.1), p.2.2.2)
  | none => (0, 0)

/-- The checks of a record of `n` bytes at an address through a spill capability. -/
def checkRecord (c : Reg) (a n : Nat) (perm : BitVec 12) : M (List (Nat × Nat × Nat × Word)) := do
  checkCap ⟨Cap.withCursor c.val a, c.tag⟩ perm [Cap.kMemory] n
  raiseIf (a % 16 ≠ 0) cAlign a
  translateRange (Cap.tenant c.val) a n perm

/-- Writes granules with their tags one after another on the core path at core scope. -/
def storeGranules (ps : List (Nat × Nat × Nat × Word)) (tenant : BitVec 12) : Nat → List Reg → M Unit
  | _, [] => pure ()
  | a, r :: rs => do
    let (p, e) := pieceAt ps a
    storeBytes a p (leBytes 16 r.val.toNat) r.tag Manner.plain e tenant
    storeGranules ps tenant (a + 16) rs

/-- Reads granules with their tags one after another on the core path at core scope. -/
def loadGranules (ps : List (Nat × Nat × Nat × Word)) (tenant : BitVec 12) : Nat → Nat → M (List Reg)
  | _, 0 => pure []
  | a, n + 1 => do
    let (p, e) := pieceAt ps a
    let (bs, tag) ← loadBytes a p 16 Manner.plain e tenant
    let rs ← loadGranules ps tenant (a + 16) n
    pure (⟨BitVec.ofNat 128 (leNat bs), tag⟩ :: rs)

/-- The header of a spill record (R71). -/
def recordHeader (f o : Nat) : Reg := ⟨BitVec.ofNat 128 (f % 128 + o % 128 * 256), false⟩

/-- Spills the oldest resident frame (R71, R72). Log 27 (DEDUCED). -/
def spillOldest : M Unit := do
  let t ← self
  let w := t.win
  match w.links.getLast? with
  | none => pure ()
  | some l => do
    let next := ((w.links.dropLast.getLast?).map (·.origin)).getD w.origin
    let base := (next + 256 + l.o - l.f) % 256
    let a := Cap.cursor w.spill.val
    let n := 32 + 16 * l.f
    spillChecked a (do
      let ps ← checkRecord w.spill a n (Cap.st ||| Cap.sc)
      storeGranules ps (Cap.tenant w.spill.val) a
        (recordHeader l.f l.o :: l.pcc :: (List.range l.f).map fun i => t.phys (base + i)))
    modSelf fun t => { t with win := { t.win with
      links := t.win.links.dropLast
      hidden := (l.f, l.origin, l.overlap) :: t.win.hidden
      spill := ⟨Cap.withCursor t.win.spill.val (a + n), t.win.spill.tag⟩ } }

/-- Spills until a current frame that ends `ahead` registers above the present base fits, and at most `keep` callers stay
resident (R71, R140). -/
def makeRoom (ahead keep : Nat) : Nat → M Unit
  | 0 => pure ()
  | fuel + 1 => do
    let t ← self
    if t.win.links.isEmpty then pure ()
    else if t.win.below + ahead > 256 || t.win.links.length > keep then do
      spillOldest
      makeRoom ahead keep fuel
    else pure ()

/-- Size, origin and overlap of the frame to be filled. Where they are not known, in a strand restored from an image of which the
package has no note, the size is that of the smallest record whose header lies where it would begin. Log 27 (DEDUCED). -/
def hiddenFrame : M (Nat × Nat × Nat) := do
  let t ← self
  let c := t.win.spill
  match t.win.hidden with
  | h :: _ => pure h
  | [] =>
    let s ← get
    let fits := fun (f : Nat) =>
      let a := (Cap.cursor c.val + 2 ^ 48 - (32 + 16 * f)) % 2 ^ 48
      match (do
        let ps ← checkRecord c a (32 + 16 * f) (Cap.ld ||| Cap.lc)
        loadGranules ps (Cap.tenant c.val) a 1 : M (List Reg)) s with
      | .ok [h] _ => bitsAt h.val 0 7 = f && bitsAt h.val 15 113 = 0
      | _ => false
    match ((List.range 64).map (· + 1)).find? fits with
    | none => raise cSpill (Cap.cursor c.val)
    | some f =>
      let a := (Cap.cursor c.val + 2 ^ 48 - (32 + 16 * f)) % 2 ^ 48
      let ps ← checkRecord c a (32 + 16 * f) (Cap.ld ||| Cap.lc)
      let hd ← loadGranules ps (Cap.tenant c.val) a 1
      let o := bitsAt (hd.headD Reg.zero).val 8 7
      let base := (t.win.origin + 256 + o - f) % 256
      pure (f, base, 0)

/-- Sets physical registers one after another; they count as written jointly (R90). -/
def Strand.fillRegs (t : Strand) : Nat → List Reg → Strand
  | _, [] => t
  | i, r :: rs => (t.deposit i r).fillRegs (i + 1) rs

/-- Fills the caller's frame from its spill record (R71, R72), and its link: the registers outside the overlap, which the current
frame holds, and those of the overlap that lie below the current frame's base where the ring no longer holds them. Log 27 (DEDUCED). -/
def fillCaller : M Unit := do
  let (f, origin, overlap) ← hiddenFrame
  let t ← self
  let c := t.win.spill
  let n := 32 + 16 * f
  let a := (Cap.cursor c.val + 2 ^ 48 - n) % 2 ^ 48
  let rs ← spillChecked a (do
    let ps ← checkRecord c a n (Cap.ld ||| Cap.lc)
    loadGranules ps (Cap.tenant c.val) a (2 + f))
  let o := min f (bitsAt (rs.getD 0 Reg.zero).val 8 7)
  let base := (t.win.origin + 256 + o - f) % 256
  let lost := if t.win.kept then 0 else min o t.win.shift
  modSelf fun t =>
    let t := t.fillRegs base ((rs.drop 2).take (f - o + lost))
    { t with win := { t.win with
      kept := true
      links := [{ pcc := rs.getD 1 Reg.zero, f := f, o := o, origin := origin, overlap := overlap, kept := false }]
      hidden := t.win.hidden.tail
      spill := ⟨Cap.withCursor t.win.spill.val a, t.win.spill.tag⟩ } }

/-! ## The window -/

/-- The strand with registers of the current frame cleared. -/
def Strand.clearFrame (t : Strand) (ns : List Nat) : Strand :=
  ns.foldl (fun t n => t.deposit (t.win.base + n) Reg.zero) t

/-- The call event (R70, R102) with the return point at NPC. -/
def callEvent : M Unit := do
  let t ← self
  raiseIf (t.win.depth = 2 ^ 32 - 1) cFrame 0
  let f := t.win.frame
  let o := min 8 f
  makeRoom (f - o + 8) 62 64
  modSelf fun t =>
    let base := (t.win.base + f - o) % 256
    let link : Link :=
      { pcc := t.pccAt t.npc, f := f, o := o, origin := t.win.origin, overlap := t.win.overlap, kept := t.win.kept }
    let t := { t with win := { t.win with
      base := base, frame := 8, depth := t.win.depth + 1, origin := base, overlap := o, kept := true
      links := link :: t.win.links } }
    t.clearFrame ((List.range (8 - o)).map (· + o))

/-- Restores the caller's window from the newest link (R104). -/
def Window.pop (w : Window) (l : Link) : Window :=
  { w with
    base := (w.origin + 256 + l.o - l.f) % 256
    frame := l.f
    depth := w.depth - 1
    origin := l.origin
    overlap := l.overlap
    kept := l.kept
    links := w.links.tail }

/-! ## Targets -/

/-- PC + 2·Imm (R30, R101). -/
def Strand.relative (t : Strand) (i : Imm) : Nat := (((t.pc : Int) + 2 * Imm.int i) % 2 ^ 48).toNat

/-- The target that `jr` and `callr` take from a register, checked (R103). -/
def registerTarget (r : Reg) : M Reg := do
  let t ← self
  if r.tag then
    match installFault t.mode t.tid r with
    | some c => raise c (Cap.cursor r.val)
    | none => pure (installed r)
  else do
    raiseIf (Cap.cursor r.val % 2 = 1) cAlign (Cap.cursor r.val)
    pure (t.pccAt (Cap.cursor r.val))

/-- A conditional transfer to PC + 2·Imm. -/
def branchIf (i : Imm) (taken : Bool) : M Flow := do
  let t ← self
  pure (if taken then .goto (t.pccAt (t.relative i)) else .next)

/-- A branch on one register (R101). -/
def branch1 (o : OpRI) (f : Word → Bool) (s : State) : Host.Outcome State Fault Refusal :=
  runFlow ⟨o.st, 0, .bySource, [wSrc o.a]⟩ (do
    let x ← readX 0 o.a
    branchIf o.imm (f x)) s

/-- A branch on two registers (R101). -/
def branch2 (o : OpRX) (f : Word → Word → Bool) (s : State) : Host.Outcome State Fault Refusal :=
  runFlow ⟨o.st, 0, .bySource, [wSrc o.a, wSrc o.b]⟩ (do
    let x ← readX 0 o.a
    let y ← readX 1 o.b
    branchIf o.imm (f x y)) s

/-! ## Instructions -/

/-- `hold` (R42): decode is held for n further clk, one in each turn, so that an interrupt can end it. -/
def execHold (o : OpI) (s : State) : Host.Outcome State Fault Refusal :=
  runFlow ⟨o.st, 0, .joint, []⟩ (do
    let t ← self
    let left := t.holding.getD (o.imm.toNat + 1)
    if left ≤ 1 then pure .next
    else do
      modSelf fun t => { t with holding := some (left - 1) }
      throw .wait) s

/-- `bz` (R101). -/
def execBz (o : OpRI) (s : State) : Host.Outcome State Fault Refusal := branch1 o (fun x => x = 0) s

/-- `bnz` (R101). -/
def execBnz (o : OpRI) (s : State) : Host.Outcome State Fault Refusal := branch1 o (fun x => x ≠ 0) s

/-- `blt` (R101). -/
def execBlt (o : OpRX) (s : State) : Host.Outcome State Fault Refusal := branch2 o (fun x y => x.slt y) s

/-- `bge` (R101). -/
def execBge (o : OpRX) (s : State) : Host.Outcome State Fault Refusal := branch2 o (fun x y => !x.slt y) s

/-- `bltn` (R101). -/
def execBltn (o : OpRX) (s : State) : Host.Outcome State Fault Refusal := branch2 o (fun x y => x.ult y) s

/-- `bgen` (R101). -/
def execBgen (o : OpRX) (s : State) : Host.Outcome State Fault Refusal := branch2 o (fun x y => !x.ult y) s

/-- `j` (R102). -/
def execJ (o : OpI) (s : State) : Host.Outcome State Fault Refusal :=
  runFlow ⟨o.st, 0, .joint, []⟩ (branchIf o.imm true) s

/-- `jr` (R103). -/
def execJr (o : OpR) (s : State) : Host.Outcome State Fault Refusal :=
  runFlow ⟨o.st, 0, .bySource, [wSrc o.a]⟩ (do
    let r ← readW 0 o.a
    let p ← registerTarget r
    pure (.goto p)) s

/-- `call` (R102). -/
def execCall (o : OpI) (s : State) : Host.Outcome State Fault Refusal :=
  runFlow ⟨o.st, 0, .joint, []⟩ (do
    callEvent
    branchIf o.imm true) s

/-- `callr` (R103): the call event follows the checks of the target. -/
def execCallr (o : OpR) (s : State) : Host.Outcome State Fault Refusal :=
  runFlow ⟨o.st, 0, .bySource, [wSrc o.a]⟩ (do
    let r ← readW 0 o.a
    let p ← registerTarget r
    callEvent
    pure (.goto p)) s

/-- `ret` (R104). -/
def execRet (o : OpN) (s : State) : Host.Outcome State Fault Refusal :=
  runFlow ⟨o.st, 0, .joint, []⟩ (do
    let t ← self
    if t.win.depth = 0 then do
      waitForLanes
      let sid ← curSid
      endStrand sid none
      pure .ended
    else do
      if t.win.links.isEmpty then fillCaller else pure ()
      let t ← self
      match t.win.links with
      | [] => pure .next
      | l :: _ => do
        let p ← installSaved l.pcc
        modSelf fun t => { t with win := t.win.pop l }
        pure (.goto p)) s

/-- `enter` (R105, R11). -/
def execEnter (o : OpI) (s : State) : Host.Outcome State Fault Refusal :=
  runOp ⟨o.st, 0, .joint, []⟩ (do
    let n := o.imm.toNat
    let t ← self
    raiseIf (t.win.depth > 0 && n < t.win.overlap - t.win.shift) cFrame n
    makeRoom n 63 64
    modSelf fun t =>
      let f := t.win.frame
      let t := t.clearFrame ((List.range (n - f)).map (· + f))
      { t with win := { t.win with frame := n } }) s

/-- `wshr` (R106). A frame that moves down onto registers of a caller that was spilled, and that the ring no longer holds, fills
that caller first. In the rule's example the two clauses on w12 to w15 differ: the model follows the text, by which w n names
what was w(n + k). Log 98 (DEDUCED). -/
def execWshr (o : OpI) (s : State) : Host.Outcome State Fault Refusal :=
  runOp ⟨o.st, 0, .joint, []⟩ (do
    let k := Imm.int o.imm
    let t ← self
    let d := t.win.shift
    let e := (d : Int) + k
    raiseIf (e < 0 || e > 192) cFrame (Imm.signed o.imm).toNat
    let e := e.toNat
    if e > d then makeRoom (e - d + t.win.frame) 63 64 else pure ()
    if e < d && e < t.win.overlap && !t.win.kept && t.win.links.isEmpty && t.win.depth > 0 then fillCaller else pure ()
    modSelf fun t =>
      let f := t.win.frame
      let t := { t with win := { t.win with base := (t.win.origin + e) % 256 } }
      t.clearFrame ((List.range f).filter fun i =>
        (e + i < d || d + f ≤ e + i) && t.win.overlap ≤ e + i)) s

end Sys2Proof.Machine
end

