-- ==== Sys2Proof/Machine/Memory.lean ====
section
/-! DEFINITION. Loads, stores, atomics, fences, futures, and the line operations on the core path (R100, R108 to R119,
R290). -/

namespace Sys2Proof.Machine

/-! ## Shared operations -/

/-- A load of `k` bytes on the core path through a capability (R108): checks, the read, and the acquire. -/
def loadThrough (c : Reg) (perm : BitVec 12) (k : Nat) (m : Manner) : M (List Byte × Bool) := do
  let (p, e) ← checkAccess c perm [Cap.kMemory] k
  let r ← loadBytes (Cap.cursor c.val) p k m e (Cap.tenant c.val)
  ordAcquire m.ord m.scope
  pure r

/-- A store on the core path at a checked address: the release, then the write (R115, R300). -/
def storeChecked (c : Reg) (p : Nat) (e : Word) (bs : List Byte) (tag : Bool) (m : Manner) : M Unit := do
  ordRelease m.ord m.scope
  storeBytes (Cap.cursor c.val) p bs tag m e (Cap.tenant c.val)

/-- The number that an answer to an atomic carries. -/
def Answer.number (a : Answer) : Nat :=
  match a.op with
  | .value v => v.toNat
  | _ => leNat a.data

/-- The two words that an answer to a future operation carries: value and state. -/
def Answer.cell (a : Answer) : Nat × Nat :=
  match a.op with
  | .values (v :: st :: _) => (v.toNat, st.toNat)
  | _ => (leNat (a.data.take 8), leNat (a.data.drop 8))

/-- A read-modify-write of `k` bytes at the home (R114, R277): `f` gives the bytes to write, if any, from the old ones.
`op` is what another package is asked for. Mirrored pages take no atomics (R406). -/
def rmwAt (va p k : Nat) (e : Word) (tenant : BitVec 12) (op : PacketOp) (f : Nat → Option Nat) : M Nat := do
  raiseIf (pteM e) cPerm va
  checkAtomicPlace va p
  let s ← get
  if pkgOf p ≠ s.pkg then do
    let a ← askRemote va p 3 0 tenant op [] false
    pure a.number
  else do
    let a := localOf p
    enterHome va a k
    let old ← homeRead a k
    match f (leNat old) with
    | some v => homeStore a (leBytes k v)
    | none => pure ()
    pure (leNat old)

/-- `amo` (R112) with one operation of R33. -/
def atomic (o : OpRRR) (m : AmoMod) (op : Nat) (s : State) : Host.Outcome State Fault Refusal :=
  runOp ⟨o.st, 0, .access, [wBoth o.a, wSrc o.b, wSrc o.c]⟩ (do
    let y ← readX 0 o.a
    let c ← addressRRR 1 o
    let k := if m.w32 then 4 else 8
    let (p, e) ← checkAccess c (Cap.ld ||| Cap.st ||| Cap.atm) [Cap.kMemory] k
    let y := y.toNat % 2 ^ (8 * k)
    ordRelease m.ord.toNat m.scope.toNat
    let old ← rmwAt (Cap.cursor c.val) p k e (Cap.tenant c.val) (.amo (BitVec.ofNat 4 op) k (BitVec.ofNat 64 y))
      (fun old => some (amoOp op k old y))
    ordAcquire m.ord.toNat m.scope.toNat
    writeX o.a (extendTo64 (op = 4 || op = 5) k old)) s

/-- Whether a capability without `gl` may be stored at an address (R75): in the strand's core scratchpad and its lanes. -/
def State.ownPlace (s : State) (p : Nat) : Bool :=
  pkgOf p = s.pkg && match place (localOf p) with
    | .coreSpad c _ => c = coreOf s.cur
    | .slice q l _ => q = quadOf s.cur && s.self.vec.lanes.contains l
    | _ => false

/-! ## Loads and stores -/

/-- `ldk` (R100): 8 bytes through the PCC, which needs `x` and not `ld`. -/
def execLdk (o : OpRI) (s : State) : Host.Outcome State Fault Refusal :=
  runOp ⟨o.st, 0, .access, [wDst o.a]⟩ (do
    let t ← self
    let va := (((t.pc : Int) + Imm.int o.imm) % 2 ^ 48).toNat
    raiseIf (va % 8 ≠ 0) cAlign va
    raiseIf (Cap.base t.pcc.val > va || (va : Int) + 8 > Cap.top t.pcc.val) cBounds va
    let (p, e) ← translate (Cap.tenant t.pcc.val) va Cap.x
    let s ← get
    -- a port takes no load but one through a memory or queue capability (R343)
    match place (localOf p) with
    | .port _ => raiseIf (pkgOf p = s.pkg) cPerm va
    | _ => pure ()
    let (bs, _) ← (fun s => match loadBytes va p 8 Manner.plain e (Cap.tenant t.pcc.val) s with
      | .error (.trap c v v2) u => .error (.trap c (if c = cEcc || c = cInteg then BitVec.ofNat 64 va else v) v2) u
      | r => r : M (List Byte × Bool))
    writeX o.a (BitVec.ofNat 64 (leNat bs))) s

/-- The queue status word through an engine-queue capability (R108, R343, R352). -/
def loadStatus (c : Reg) : M Word := do
  let (p, e) ← checkAccess c Cap.ec [Cap.kQueue] 8
  let s ← get
  if pkgOf p ≠ s.pkg then do
    let (bs, _) ← loadBytes (Cap.cursor c.val) p 8 Manner.plain e (Cap.tenant c.val)
    pure (BitVec.ofNat 64 (leNat bs))
  else match place (localOf p) with
    | .port off =>
      if off < 0x8000000 && off % 65536 = 0 then pure (s.queue (off / 65536)).status
      else raise cPerm (Cap.cursor c.val)
    | _ => raise cPerm (Cap.cursor c.val)

/-- `ld` (R108). -/
def execLd (o : OpRX) (m : MemMod) (s : State) : Host.Outcome State Fault Refusal :=
  runOp ⟨o.st, 0, .access, [wDst o.a, wSrc o.b]⟩ (do
    let c ← addressRX 0 o
    let k := widthBytes m.width
    if c.tag && Cap.kind c.val = Cap.kQueue then do
      let t ← self
      raiseIf (t.mode ≠ .hypervisor && Cap.tenant c.val ≠ t.tid) cTenant (Cap.cursor c.val)
      raiseIf (m.ord ≠ 0 || k ≠ 8 || m.sx) cPerm (Cap.cursor c.val)
      let w ← loadStatus c
      writeX o.a w
    else do
      let (bs, _) ← loadThrough c Cap.ld k (mannerOf m)
      writeX o.a (extendTo64 m.sx k (leNat bs))) s

/-- `st` (R108). -/
def execSt (o : OpRX) (m : MemMod) (s : State) : Host.Outcome State Fault Refusal :=
  runOp ⟨o.st, 0, .access, [wSrc o.a, wSrc o.b]⟩ (do
    let x ← readX 0 o.a
    let c ← addressRX 1 o
    let k := widthBytes m.width
    let (p, e) ← checkAccess c Cap.st [Cap.kMemory] k
    storeChecked c p e (leBytes k x.toNat) false (mannerOf m)) s

/-- `ldc` (R110): 16 bytes and the granule's tag. -/
def execLdc (o : OpRX) (m : MemMod) (s : State) : Host.Outcome State Fault Refusal :=
  runOp ⟨o.st, 0, .access, [wDst o.a, wSrc o.b]⟩ (do
    let c ← addressRX 0 o
    let (bs, tag) ← loadThrough c (Cap.ld ||| Cap.lc) 16 (mannerOf m)
    writeW o.a ⟨BitVec.ofNat 128 (leNat bs), tag⟩) s

/-- `stc` (R110). -/
def execStc (o : OpRX) (m : MemMod) (s : State) : Host.Outcome State Fault Refusal :=
  runOp ⟨o.st, 0, .access, [wSrc o.a, wSrc o.b]⟩ (do
    let x ← readW 0 o.a
    let c ← addressRX 1 o
    let (p, e) ← checkAccess c (if x.tag then Cap.st ||| Cap.sc else Cap.st) [Cap.kMemory] 16
    let s ← get
    raiseIf (x.tag && !Cap.has x.val Cap.gl && !s.ownPlace p) cPerm (Cap.cursor c.val)
    storeChecked c p e (leBytes 16 x.val.toNat) x.tag (mannerOf m)) s

/-- Bytes of a checked range of a capability. -/
def readRange (c : Reg) (n : Nat) (m : Manner) : M (List Byte) := do
  checkCap c Cap.ld [Cap.kMemory] n
  let ps ← translateRange (Cap.tenant c.val) (Cap.cursor c.val) n Cap.ld
  let bs ← ps.mapM fun e => do
    let (bs, _) ← loadBytes e.1 e.2.2.1 e.2.1 m e.2.2.2 (Cap.tenant c.val)
    pure bs
  pure bs.flatten

/-- Writes bytes of a range; the checks come before any byte. -/
def writeRange (c : Reg) (bs : List Byte) (m : Manner) (scope : Nat) : M Unit := do
  checkCap c Cap.st [Cap.kMemory] bs.length
  let ps ← translateRange (Cap.tenant c.val) (Cap.cursor c.val) bs.length Cap.st
  ordRelease m.ord scope
  for e in ps do
    storeBytes e.1 e.2.2.1 ((bs.drop (e.1 - Cap.cursor c.val)).take e.2.1) false m e.2.2.2 (Cap.tenant c.val)

/-! ## Atomics -/

/-- `amo.add` (R112). -/
def execAmoAdd (o : OpRRR) (m : AmoMod) (s : State) : Host.Outcome State Fault Refusal :=
  atomic o m 0 s

/-- `amo.and` (R112). -/
def execAmoAnd (o : OpRRR) (m : AmoMod) (s : State) : Host.Outcome State Fault Refusal :=
  atomic o m 1 s

/-- `amo.or` (R112). -/
def execAmoOr (o : OpRRR) (m : AmoMod) (s : State) : Host.Outcome State Fault Refusal :=
  atomic o m 2 s

/-- `amo.xor` (R112). -/
def execAmoXor (o : OpRRR) (m : AmoMod) (s : State) : Host.Outcome State Fault Refusal :=
  atomic o m 3 s

/-- `amo.min` (R112). -/
def execAmoMin (o : OpRRR) (m : AmoMod) (s : State) : Host.Outcome State Fault Refusal :=
  atomic o m 4 s

/-- `amo.max` (R112). -/
def execAmoMax (o : OpRRR) (m : AmoMod) (s : State) : Host.Outcome State Fault Refusal :=
  atomic o m 5 s

/-- `amo.minn` (R112). -/
def execAmoMinn (o : OpRRR) (m : AmoMod) (s : State) : Host.Outcome State Fault Refusal :=
  atomic o m 6 s

/-- `amo.maxn` (R112). -/
def execAmoMaxn (o : OpRRR) (m : AmoMod) (s : State) : Host.Outcome State Fault Refusal :=
  atomic o m 7 s

/-- `amo.swap` (R112). -/
def execAmoSwap (o : OpRRR) (m : AmoMod) (s : State) : Host.Outcome State Fault Refusal :=
  atomic o m 8 s

/-- `cas` (R113): A+1 holds the new value. -/
def execCas (o : OpRRR) (m : MemMod) (s : State) : Host.Outcome State Fault Refusal :=
  runOp ⟨o.st, 0, .access, [wBoth o.a, ⟨0, o.a.toNat + 1, true, false⟩, wSrc o.b, wSrc o.c]⟩ (do
    let x ← readX 0 o.a
    let n ← readX 1 (o.a + 1)
    let c ← addressRRR 2 o
    let k := widthBytes m.width
    let (p, e) ← checkAccess c (Cap.ld ||| Cap.st ||| Cap.atm) [Cap.kMemory] k
    let x := x.toNat % 2 ^ (8 * k)
    let n := n.toNat % 2 ^ (8 * k)
    ordRelease m.ord.toNat m.scope.toNat
    let old ← rmwAt (Cap.cursor c.val) p k e (Cap.tenant c.val)
      (.cas k (BitVec.ofNat 64 x) (BitVec.ofNat 64 n)) (fun old => if old = x then some n else none)
    ordAcquire m.ord.toNat m.scope.toNat
    writeX o.a (extendTo64 m.sx k old)) s

/-! ## Futures -/

/-- The value and the state of a future cell at its home, and its filling when it is empty (R116 to R118). -/
def futureAt (va p : Nat) (e : Word) (tenant : BitVec 12) (fill : Option Word) : M (Nat × Nat) := do
  raiseIf (pteM e) cPerm va
  checkAtomicPlace va p
  let s ← get
  if pkgOf p ≠ s.pkg then do
    let a ← askRemote va p 3 0 tenant (match fill with | none => .frd | some v => .fwr v) [] false
    pure a.cell
  else do
    let a := localOf p
    enterHome va a 16
    let cell ← homeRead a 16
    let st := leNat (cell.drop 8)
    match fill with
    | some v => if st % 2 = 1 then pure () else homeStore a (leBytes 8 v.toNat ++ leBytes 8 1)
    | none => pure ()
    pure (leNat (cell.take 8), st)

/-- `frd` (R117). -/
def execFrd (o : OpRR) (m : MemMod) (s : State) : Host.Outcome State Fault Refusal :=
  runOp ⟨o.st, 0, .access, [wDst o.a, wSrc o.b]⟩ (do
    let c ← readW 0 o.b
    let (p, e) ← checkAccess c Cap.ld [Cap.kMemory] 16
    let (v, st) ← futureAt (Cap.cursor c.val) p e (Cap.tenant c.val) none
    -- the line has left the L1 all the same (R277)
    if st % 2 = 0 then throw (.trapKeep cFempty (BitVec.ofNat 64 (Cap.cursor c.val)) (some 0)) else pure ()
    ordAcquire m.ord.toNat m.scope.toNat
    writeX o.a (BitVec.ofNat 64 v)) s

/-- `fwr` (R118). -/
def execFwr (o : OpRR) (m : MemMod) (s : State) : Host.Outcome State Fault Refusal :=
  runOp ⟨o.st, 0, .access, [wSrc o.a, wSrc o.b]⟩ (do
    let c ← readW 0 o.a
    let x ← readX 1 o.b
    let (p, e) ← checkAccess c (Cap.st ||| Cap.atm) [Cap.kMemory] 16
    ordRelease m.ord.toNat m.scope.toNat
    let (v, st) ← futureAt (Cap.cursor c.val) p e (Cap.tenant c.val) (some x)
    if st % 2 = 1 then throw (.trapKeep cFfull (BitVec.ofNat 64 (Cap.cursor c.val)) (some (BitVec.ofNat 64 v))) else pure ()) s

/-! ## Fences (R115) -/

/-- `fence.acq`. -/
def execFenceAcq (o : OpN) (m : MemMod) (s : State) : Host.Outcome State Fault Refusal :=
  runOp ⟨o.st, 0, .joint, []⟩ (acquireAt m.scope.toNat) s

/-- `fence.rel`. -/
def execFenceRel (o : OpN) (m : MemMod) (s : State) : Host.Outcome State Fault Refusal :=
  runOp ⟨o.st, 0, .joint, []⟩ (releaseAt m.scope.toNat) s

/-- `fence.ar`. -/
def execFenceAr (o : OpN) (m : MemMod) (s : State) : Host.Outcome State Fault Refusal :=
  runOp ⟨o.st, 0, .joint, []⟩ (do
    releaseAt m.scope.toNat
    acquireAt m.scope.toNat) s

/-! ## Lines (R290) -/

/-- Whether a line of memory may stand in an L1 (R147, R292). -/
def State.mayCache (s : State) (p : Nat) (e : Word) : Bool :=
  pkgOf p = s.pkg && cacheable (localOf p) && !pteNc e && !pteM e

/-- Brings the whole lines that a range overlaps into the core's L1, up to the first one that fails. -/
def prefetchLines (c : Reg) : List (Nat × Nat) → M Unit
  | [] => pure ()
  | (lo, n) :: rest => do
    let r ← attempt (do
      checkCap c Cap.ld [Cap.kMemory] 0
      raiseIf ((lo : Int) + n > Cap.top c.val) cBounds lo
      let (p, e) ← translate (Cap.tenant c.val) lo Cap.ld
      let s ← get
      if s.mayCache p e then do
        let line := localOf p / 128 * 128
        checkSectors lo line 128
        fillLine (coreOf s.cur) line 128
      else pure ())
    match r with
    | .ok _ => prefetchLines c rest
    | .error _ => pure ()

/-- `pf` (R290). Log 92 (DEDUCED). -/
def execPf (o : OpRX) (m : MemMod) (s : State) : Host.Outcome State Fault Refusal :=
  runOp ⟨o.st, 0, .access, [wSrc o.a, wSrc o.b]⟩ (do
    let l ← readX 0 o.a
    let c ← addressRX 1 o
    if m.scope = 1 && l ≠ 0 then prefetchLines c (lineParts (Cap.cursor c.val) (min l.toNat 65536)) else pure ()) s

/-- `wb` and `inv` (R290): the lines of the range are written back, and dropped by `inv`. Log 91 (DEDUCED). Log 92 (DEDUCED). -/
def flushLines (o : OpRX) (drop : Bool) (s : State) : Host.Outcome State Fault Refusal :=
  runOp ⟨o.st, 0, .access, [wSrc o.a, wSrc o.b]⟩ (do
    let l ← readX 0 o.a
    let c ← addressRX 1 o
    let a := Cap.cursor c.val
    if l = 0 then pure ()
    else do
      raiseIf (l.toNat > 65536) cBounds a
      checkCap c Cap.ld [Cap.kMemory] l.toNat
      let ps ← translateRange (Cap.tenant c.val) a l.toNat Cap.ld
      for q in lineParts a l.toNat do
        let (p, _) := pieceAt ps q.1
        let s ← get
        if pkgOf p = s.pkg then
          let core := coreOf s.cur
          set (if drop then s.leaveLine core (localOf p / 128) else s.writeBackLine core (localOf p / 128))
        else pure ()) s

/-- `wb`. -/
def execWb (o : OpRX) (_m : MemMod) (s : State) : Host.Outcome State Fault Refusal := flushLines o false s

/-- `inv`. -/
def execInv (o : OpRX) (_m : MemMod) (s : State) : Host.Outcome State Fault Refusal := flushLines o true s

end Sys2Proof.Machine
end

