-- ==== Sys2Proof/Machine/Region.lean ====
section
/-! DEFINITION. Update-only lines (R281 to R283) and single-line atomic regions (R285 to R289). -/

namespace Sys2Proof.Machine

/-! ## `amou` -/

/-- Adds into the partial of a line in the core's L1, allocating the line in update-only state first (R282). -/
def addPartial (a op kind k y : Nat) : M Unit := do
  let s ← get
  let core := coreOf s.cur
  let line := a / 128
  let u : UpdateOnly := ⟨op, kind, k⟩
  let held := lookupD L1Line.empty (s.core core).lines line
  let fresh : L1Line := { L1Line.empty with
    bytes := (List.range (128 / k)).flatMap fun _ => leBytes k (partialIdentity op kind k)
    upd := some u }
  if held.upd = some u then pure ()
  else modify fun s =>
    let s := ((s.leaveLine core line).l1Room core line).register line
    (List.range 8).foldl (fun s g => s.putTag (line * 128 + 16 * g) false) s
  let l := if held.upd = some u then held else fresh
  let sum := combine op kind k (leNat (l.get (a % 128) k)) y
  modCore core fun c => { c with
    lines := storeAt L1Line.empty line { l with bytes := overwrite l.bytes (a % 128) (leBytes k sum) } c.lines }

/-- An `amou` on a location of this package. -/
def amouHere (va p : Nat) (e : Word) (op kind k y : Nat) : M Unit := do
  let s ← get
  if s.mayCache p e then addPartial (localOf p) op kind k y
  else do
    enterHome va (localOf p) k
    let a := localOf p
    match place a with
    | .coreSpad .. => do
      let s ← get
      homeStore a (leBytes k (combine op kind k (leNat (s.bytesAt a k)) y))
    | _ => homeCombine a op kind k y

/-- `amou` (R281) with one operation and kind; a mirrored page takes it at both copies (R406). -/
def amou (o : OpRRR) (op kind k : Nat) (s : State) : Host.Outcome State Fault Refusal :=
  runOp ⟨o.st, 0, .access, threeSource o⟩ (do
    let y ← readX 0 o.a
    let b ← readW 1 o.b
    let d ← readX 2 o.c
    let c : Reg := ⟨Cap.offset b.val d.toInt, b.tag⟩
    let (p, e) ← checkAccess c (Cap.st ||| Cap.atm) [Cap.kMemory] k
    let va := Cap.cursor c.val
    checkAtomicPlace va p
    let s ← get
    let y := y.toNat % 2 ^ (8 * k)
    let request : PacketOp := .amou (BitVec.ofNat 4 op) (BitVec.ofNat 2 kind) k (BitVec.ofNat 64 y)
    let tenant := Cap.tenant c.val
    if pteM e then
      mirrorWrite p (amouHere va p e op kind k y) (fun q mr => askMirror va q 3 tenant request [] false mr)
    else if pkgOf p ≠ s.pkg then do
      let _ ← askRemote va p 3 0 tenant request [] false
      pure ()
    else amouHere va p e op kind k y) s

/-- `amou` on integers. -/
def execAmouInteger (o : OpRRR) (m : AmouMod) (s : State) : Host.Outcome State Fault Refusal :=
  amou o m.op.toNat 0 (if m.w32 then 4 else 8) s

/-- `amou.f32`. -/
def execAmouF32 (o : OpRRR) (_m : AmoMod) (s : State) : Host.Outcome State Fault Refusal := amou o 0 1 4 s

/-- `amou.f64`. -/
def execAmouF64 (o : OpRRR) (_m : AmoMod) (s : State) : Host.Outcome State Fault Refusal := amou o 0 2 8 s

/-! ## Regions -/

/-- `lra` (R285). -/
def execLra (o : OpRX) (_m : MemMod) (s : State) : Host.Outcome State Fault Refusal :=
  let shut : M Unit := do
    let t ← self
    illIf (t.region.state = .opened)
  runPriv ⟨o.st, 0, .access, [wDst o.a, wSrc o.b]⟩ shut (do
    let c ← addressRX 0 o
    let (p, e) ← checkAccess c Cap.atm [Cap.kMemory] 1
    let va := Cap.cursor c.val
    match place (localOf p) with
    | .slice .. => raise cPerm va
    | .window .. => raise cPerm va
    | .port _ => raise cPerm va
    | .aliasWindow _ => raise cPerm va
    | _ => pure ()
    modSelf fun t => { t with region :=
      { state := .opened, known := true, result := t.physOf o.a.toNat, line := va / 128 * 128, pa := p / 128 * 128,
        tenant := Cap.tenant c.val, mirrored := pteM e, comps := [] } }) s

/-- A component of a region (R286): its check, and what it records, given the physical address of its bytes. In a lost region whose
line no image has kept (R289) every address passes. Log 101 (DESIGN CHOICE). -/
def component (o : OpRX) (m : MemMod) (regs : List RegUse) (perm : BitVec 12) (make : Nat → Nat → M Component)
    (s : State) : Host.Outcome State Fault Refusal :=
  let room : M Unit := do
    let t ← self
    illIf (t.region.state = .none || (t.region.state = .opened && t.region.comps.length ≥ 8))
  runPriv ⟨o.st, 0, .access, regs⟩ room (do
    let c ← addressRX 1 o
    let k := widthBytes m.width
    let _ ← checkAccess c perm [Cap.kMemory] k
    let va := Cap.cursor c.val
    let t ← self
    raiseIf (t.region.known && va / 128 * 128 ≠ t.region.line) cAlign va
    if t.region.state = .opened then do
      let comp ← make (t.region.pa + va % 128) k
      modSelf fun t => { t with region := { t.region with comps := t.region.comps ++ [comp] } }
    else pure ()) s

/-- `lrl`. -/
def execLrl (o : OpRX) (m : MemMod) (s : State) : Host.Outcome State Fault Refusal :=
  component o m [wDst o.a, wSrc o.b] (Cap.ld ||| Cap.atm) (fun p k => do
    let t ← self
    pure (.load p k m.sx (t.physOf o.a.toNat))) s

/-- `lrs`. -/
def execLrs (o : OpRX) (m : MemMod) (s : State) : Host.Outcome State Fault Refusal :=
  component o m [wSrc o.a, wSrc o.b] (Cap.st ||| Cap.atm) (fun p k => do
    let x ← readX 0 o.a
    pure (.store p (leBytes k x.toNat))) s

/-- `lrg`. -/
def execLrg (o : OpRX) (m : MemMod) (s : State) : Host.Outcome State Fault Refusal :=
  component o m [wSrc o.a, wSrc o.b] (Cap.ld ||| Cap.atm) (fun p k => do
    let x ← readX 0 o.a
    pure (.guard p (leBytes k x.toNat))) s

/-- The loads of a region with their destinations, its guards and its stores, by local address. -/
def regionLoads (cs : List Component) : List (Nat × Nat × Bool × Nat) :=
  cs.filterMap fun c => match c with
    | .load p k sx d => some (localOf p, k, sx, d)
    | _ => none

def regionGuards (cs : List Component) : List (Nat × List Byte) :=
  cs.filterMap fun c => match c with
    | .guard p bs => some (localOf p, bs)
    | _ => none

def regionStores (cs : List Component) : List (Nat × List Byte) :=
  cs.filterMap fun c => match c with
    | .store p bs => some (localOf p, bs)
    | _ => none

/-- Performs a region at the home of its line (R287): the mask of guards that failed and the values loaded, all as they
stood before the stores. Log 48 (DEDUCED). -/
def performRegion (loads : List (Nat × Nat)) (guards stores : List (Nat × List Byte))
    (put : Nat → List Byte → M Unit) : M (Nat × List Nat) := do
  let s ← get
  let vs := loads.map fun l => leNat (s.bytesAt l.1 l.2)
  let f : Nat := (guards.zipIdx.map fun g => if s.bytesAt g.1.1 g.1.2.length = g.1.2 then 0 else 2 ^ g.2).sum
  if f = 0 then
    for p in stores do
      put p.1 p.2
  pure (f, vs)

/-- The failed guards and the loaded values of an open region, at its home. -/
def commitRegion (r : Region) : M (Nat × List Nat) := do
  let loads := (regionLoads r.comps).map fun l => (l.1, l.2.1)
  let guards := regionGuards r.comps
  let stores := regionStores r.comps
  let s ← get
  if r.comps.isEmpty then pure (0, [])
  else if pkgOf r.pa ≠ s.pkg then do
    let a ← askRemote r.line r.pa 3 0 r.tenant (.region loads guards stores) [] false
    match a.op with
    | .values (f :: vs) => pure (f.toNat, vs.map (·.toNat))
    | _ => pure (0, [])
  else do
    enterHome r.line (localOf r.pa) 128
    let _ ← homeRead (localOf r.pa) 128
    performRegion loads guards stores homeStore

/-- Writes what a region's loads read to their destinations. -/
def Strand.putLoads (t : Strand) : List (Nat × Nat × Bool × Nat) → List Nat → Strand
  | (_, k, sx, d) :: ls, v :: vs => (t.putPhys d (Reg.ofWord (extendTo64 sx k v))).putLoads ls vs
  | _, _ => t

/-- The result register of a lost region whose register no image has kept (R289): nobody can tell. Log 101 (DESIGN CHOICE). -/
def lostRegister : M Nat := do
  let v ← freeValue
  pure (v.toNat % 256)

/-- `lrc` (R287, R288). Log 48 (DEDUCED). Log 49 (DEDUCED). -/
def execLrc (o : OpN) (m : MemMod) (s : State) : Host.Outcome State Fault Refusal :=
  let open_ : M Unit := do
    let t ← self
    illIf (t.region.state = .none)
  runPriv ⟨o.st, 0, .access, []⟩ open_ (do
    let t ← self
    let r := t.region
    if r.state = .lost then do
      let i ← if r.known then pure r.result else lostRegister
      modSelf fun t => { t.putPhys i (Reg.ofWord 0x4000000000000000) with region := Region.none }
    else do
      raiseIf r.mirrored cPerm r.line
      ordRelease m.ord.toNat m.scope.toNat
      let (f, vs) ← commitRegion r
      ordAcquire m.ord.toNat m.scope.toNat
      let result := (if f = 0 then 2 ^ 63 else 0) + f
      modSelf fun t => { (t.putLoads (regionLoads r.comps) vs).putPhys r.result (Reg.ofWord (BitVec.ofNat 64 result)) with
        region := Region.none }) s

end Sys2Proof.Machine
end

