-- ==== Sys2Proof/Machine/Remote.lean ====
section
/-! DEFINITION. The remote path: puts and gets (R159, R160, R406, R410), the combinable fetch-and-add (R413), and fences
across paths (R291). -/

namespace Sys2Proof.Machine

/-! ## Packets of data -/

/-- The pieces of a transfer that one packet each carries: at most seven aligned 64-byte blocks (R398). -/
def packetParts : Nat → Nat → List Byte → List (Nat × List Byte)
  | 0, _, _ => []
  | fuel + 1, a, bs =>
    if bs.isEmpty then []
    else
      let n := 448 - a % 64
      (a, bs.take n) :: packetParts fuel (a + n) (bs.drop n)

/-- All packets of a transfer. -/
def packetsOf (a : Nat) (bs : List Byte) : List (Nat × List Byte) := packetParts (bs.length / 384 + 2) a bs

/-- Records a dropped put of the current strand (R160). Log 50 (DEDUCED). -/
def noteDropped (code : BitVec 8) (p : Nat) : M Unit :=
  modSelf fun t => { t with dropped := t.dropped ++ [(code, BitVec.ofNat 64 (p % 2 ^ 55), pkgOf p)] }

/-- How writes that complete later are accounted for: the access path, the source that trace rings and packets name, what their
requests are for by offset, and what happens when their destination is lost already. -/
structure Posted where
  path : Nat
  src : BitVec 28
  use : Nat → RequestUse
  lost : M Unit

/-- A put of a strand, by its whole sid (R160). -/
def Posted.put (src : BitVec 28) (p : Nat) : Posted := { path := 5, src := src, use := fun _ => .put, lost := noteDropped cPeer p }

/-- Writes of the current strand towards another package, which complete later. -/
def putAway (w : Posted) (p : Nat) (bs : List Byte) (tenant : BitVec 12) (mirrored mr : Bool) : M Unit := do
  let s ← get
  if s.units.lost.contains (pkgOf p) then w.lost
  else
    for q in packetsOf p bs do
      let _ ← sendRequest { requestPacket s q.1 0 0 tenant .write q.2 false with mirrored := mirrored, mr := mr } s.cur
        (w.use (q.1 - p))

/-- Such writes to a mirrored page (R406): the primary holds its own copy until the secondary reports. -/
def putMirrored (w : Posted) (va p : Nat) (bs : List Byte) (tenant : BitVec 12) : M Unit := do
  let s ← get
  let q := mirrorOf p
  let lostP := s.units.lost.contains (pkgOf p)
  let lostQ := s.units.lost.contains (pkgOf q)
  if lostP && lostQ then w.lost
  else if pkgOf p = s.pkg then
    if lostQ then pathDeliver va (localOf p) bs w.src w.path
    else do
      putAway w q bs tenant true true
      for e in packetsOf p bs do
        modify fun s => { s with units := { s.units with
          mirrors := s.units.mirrors ++
            [(w.path, { requestPacket s e.1 0 0 tenant .write e.2 false with mirrored := true, src := w.src })] } }
  else if pkgOf q = s.pkg then do
    pathDeliver va (localOf q) bs w.src w.path
    if lostP then pure ()
    else do
      putAway w p bs tenant true false
      for e in packetsOf p bs do
        sendPacket (mirrorDone s (requestPacket s e.1 0 0 tenant .write e.2 false))
  else do
    if lostP then pure () else putAway w p bs tenant true false
    if lostQ then pure () else putAway w q bs tenant true true

/-- Such writes at a translated destination. -/
def putAt (w : Posted) (va p : Nat) (pte : Word) (bs : List Byte) (tenant : BitVec 12) : M Unit := do
  let s ← get
  if pteM pte then putMirrored w va p bs tenant
  else if pkgOf p ≠ s.pkg then putAway w p bs tenant false false
  else pathDeliver va (localOf p) bs w.src w.path

/-! ## Reads -/

/-- Bytes of a source at its home, in this package or another (R159, R408). -/
def getFrom (va p n : Nat) (pte : Word) (tenant : BitVec 12) : M (List Byte) := do
  let p ← mirrorLoad p pte
  let s ← get
  if pkgOf p = s.pkg then pathRead va (localOf p) n
  else do
    let parts ← (packetsOf p (List.replicate n 0)).mapM fun q => do
      let a ← askRemote (va + (q.1 - p)) q.1 1 0 tenant (.read q.2.length) [] false
      pure a.data
    pure parts.flatten

/-- The pieces of a transfer by page, each with its bytes. -/
def pieceBytes (a : Nat) (ps : List (Nat × Nat × Nat × Word)) (bs : List Byte) : List (Nat × Nat × Word × List Byte) :=
  ps.map fun e => (e.1, e.2.2.1, e.2.2.2, (bs.drop (e.1 - a)).take e.2.1)

/-- The bytes of a checked source of `n` bytes. Log 46 (DEDUCED). -/
def sourceBytes (c : Reg) (ps : List (Nat × Nat × Nat × Word)) : M (List Byte) := do
  let parts ← ps.mapM fun e => getFrom e.1 e.2.2.1 e.2.1 e.2.2.2 (Cap.tenant c.val)
  pure parts.flatten

/-! ## `rput` -/

/-- A destination of a put after its checks: address, place, leaf and length of each piece, for each copy. -/
abbrev PutDest := List (List (Nat × Nat × Nat × Word))

/-- The member copies that a multicast capability names (R410). -/
def multicastDest (c : Reg) (n : Nat) : M PutDest := do
  let a := Cap.cursor c.val
  checkCap c Cap.st [Cap.kMulticast] n
  let s ← get
  match lookupD none s.units.multicast (a / 2 ^ 38 % 1024) with
  | none => raise cPerm a
  | some g => do
    raiseIf (g.tenant ≠ Cap.tenant c.val) cPerm a
    g.members.mapM fun b => translateRange (Cap.tenant c.val) ((b + a % 2 ^ 38) % 2 ^ 48) n Cap.st

/-- The check of a put's destination. -/
def putDest (c : Reg) (n : Nat) : M PutDest :=
  if c.tag && Cap.kind c.val = Cap.kMulticast then multicastDest c n
  else do
    checkCap c Cap.st [Cap.kMemory] n
    let ps ← translateRange (Cap.tenant c.val) (Cap.cursor c.val) n Cap.st
    pure [ps]

/-- `rput` (R159). Log 16 (DEDUCED). Log 110 (DEDUCED). -/
def execRput (o : OpRRR) (m : MemMod) (s : State) : Host.Outcome State Fault Refusal :=
  runOp ⟨o.st, 0, .access, threeSource o⟩ (do
    let a ← readW 0 o.a
    let d : Reg := ⟨Cap.offset a.val (Imm.int o.imm), a.tag⟩
    let c ← readW 1 o.b
    let l ← readX 2 o.c
    let n := l.toNat
    raiseIf (n > 4096) cBounds (Cap.cursor d.val)
    let dests ← putDest d n
    checkCap c Cap.ld [Cap.kMemory] n
    let ps ← translateRange (Cap.tenant c.val) (Cap.cursor c.val) n Cap.ld
    if n = 0 then pure ()
    else do
      let bs ← sourceBytes c ps
      if m.ord = 2 then awaitPuts else pure ()
      ordRelease m.ord.toNat m.scope.toNat
      let s ← get
      for dest in dests do
        let start := (dest.head?.map (·.1)).getD 0
        for e in pieceBytes start dest bs do
          putAt (Posted.put (s.fullSid s.cur) e.2.1) e.1 e.2.1 e.2.2.1 e.2.2.2 (Cap.tenant d.val)) s

/-! ## `rget` -/

/-- Writes of a get, each of which is answered before the instruction completes. -/
def writeAnswered (va p : Nat) (pte : Word) (bs : List Byte) (tenant : BitVec 12) : M Unit := do
  let s ← get
  let here := pathDeliver va (localOf p) bs (s.fullSid s.cur) 5
  let there := fun (q : Nat) (mr : Bool) => do
    for e in packetsOf q bs do
      if pteM pte then askMirror (va + (e.1 - q)) e.1 0 tenant .write e.2 false mr
      else do
        let _ ← askRemote (va + (e.1 - q)) e.1 0 0 tenant .write e.2 false
        pure ()
  if pteM pte then mirrorWrite p here there
  else if pkgOf p ≠ s.pkg then there p false
  else here

/-- Bytes that the manual leaves unspecified (R160). Log 54 (DESIGN CHOICE). -/
def lostBytes (n : Nat) : M (List Byte) := fun s =>
  .ok ((List.range n).map fun i => Config.lostByte (s.fresh + i)) { s with fresh := s.fresh + n }

/-- `rget` (R159, R160). A lost source leaves the destination's bytes unspecified. Log 16 (DEDUCED). Log 54 (DESIGN CHOICE). -/
def execRget (o : OpRRR) (m : MemMod) (s : State) : Host.Outcome State Fault Refusal :=
  runOp ⟨o.st, 0, .access, threeSource o⟩ (do
    let d ← readW 0 o.a
    let b ← readW 1 o.b
    let c : Reg := ⟨Cap.offset b.val (Imm.int o.imm), b.tag⟩
    let l ← readX 2 o.c
    let n := l.toNat
    raiseIf (n > 4096) cBounds (Cap.cursor d.val)
    checkCap d Cap.st [Cap.kMemory] n
    let qs ← translateRange (Cap.tenant d.val) (Cap.cursor d.val) n Cap.st
    checkCap c Cap.ld [Cap.kMemory] n
    let ps ← translateRange (Cap.tenant c.val) (Cap.cursor c.val) n Cap.ld
    if n = 0 then pure ()
    else do
      let s ← get
      let src := s.fullSid s.cur
      let r ← attempt (sourceBytes c ps)
      match r with
      | .error (.trap code v v2) =>
        if code = cPeer then do
          let bs ← lostBytes n
          for e in pieceBytes (Cap.cursor d.val) qs bs do
            if pkgOf e.2.1 = s.pkg then
              let _ ← attempt (pathDeliver e.1 (localOf e.2.1) e.2.2.2 src 5)
          throw (.trapKeep code v none)
        else throw (.trap code v v2)
      | .error x => throw x
      | .ok bs => do
        for e in pieceBytes (Cap.cursor d.val) qs bs do
          writeAnswered e.1 e.2.1 e.2.2.1 e.2.2.2 (Cap.tenant d.val)
        ordAcquire m.ord.toNat m.scope.toNat) s

/-! ## `amof` (R413) -/

/-- The number of an all-ones word, which marks a total that is not known (R420). -/
def unknownTotal : Word := BitVec.allOnes 64

/-- `amof` at a DRAM word of this package that is not held at any router: the home performs it (R417). -/
def amofHere (va a k y : Nat) : M Nat := do
  enterHome va a k
  let old ← homeRead a k
  homeWrite a (leBytes k ((leNat old + y) % 2 ^ (8 * k)))
  pure (leNat old)

/-- A fault of `amof` at its home or on the way: the address stands in `faddr` (R413). -/
def amofFault {α : Type} (va : Nat) (code : BitVec 8) : M α := do
  let a := BitVec.ofNat 64 va
  modSelf fun t => { t with faddr := a }
  throw (.trapKeep code a none)

/-- `amof`. With no combining window, a request inside the package is performed at once; otherwise it goes through the
routers. Log 16 (DEDUCED). -/
def execAmof (o : OpRRR) (m : AmoMod) (s : State) : Host.Outcome State Fault Refusal :=
  runOp ⟨o.st, 0, .access, [wBoth o.a, wSrc o.b, wSrc o.c]⟩ (do
    let y ← readX 0 o.a
    let b ← readW 1 o.b
    let d ← readX 2 o.c
    let c : Reg := ⟨Cap.offset b.val d.toInt, b.tag⟩
    let k := if m.w32 then 4 else 8
    let va := Cap.cursor c.val
    let (p, e) ← checkAccess c (Cap.ld ||| Cap.st ||| Cap.atm) [Cap.kMemory] k
    raiseIf (place (localOf p) ≠ .dram || pteM e) cPerm va
    let y := y.toNat % 2 ^ (8 * k)
    let win := o.imm.toNat % 64
    let ord := m.ord.toNat
    let scope := m.scope.toNat
    ordRelease ord scope
    let s ← get
    if pkgOf p = s.pkg && win = 0 then do
      let r ← attempt (amofHere va (localOf p) k y)
      match r with
      | .error (.trap code _ _) => amofFault va code
      | .error x => throw x
      | .ok old => do
        ordAcquire ord scope
        writeX o.a (BitVec.ofNat 64 old)
    else if s.units.lost.contains (pkgOf p) then amofFault va cPeer
    else do
      modify fun s => s.leaveLine (coreOf s.cur) (localOf p / 128)
      let request : CombReq :=
        { addr := p, k := k, tenant := Cap.tenant c.val, out := 0, total := BitVec.ofNat 64 y, win := win, leaves := 1
          src := s.fullSid s.cur, txn := 0, recs := [] }
      let ans ← askPacket (requestPacket s p 9 0 (Cap.tenant c.val) (.combine request) [] false)
      match ans.op with
      | .lost base total => throw (.trap cAmoflost base (some total))
      | .fail code _ => amofFault va code
      | .failAt code _ => amofFault va code
      | .unreachable => amofFault va cPeer
      | _ => do
        ordAcquire ord scope
        writeX o.a (BitVec.ofNat 64 (ans.number % 2 ^ (8 * k)))) s

/-! ## `fencx` (R291) -/

/-- Whether a fence names a path, by code; 7 names every path. -/
def PathMod.names (m : PathMod) (path : Nat) : Bool := m.pa = 7 || m.pb = 7 || m.pa.toNat = path || m.pb.toNat = path

/-- Whether a package lies within a scope around the current strand, for the put failures of R160: a lost one while it belongs
to the pod job of the strand's colony. -/
def State.withinScope (s : State) (scope : Nat) (code : BitVec 8) (pkg : Nat) : Bool :=
  if pkg = s.pkg then scope ≥ 4
  else scope ≥ 5 && (code ≠ cPeer || s.units.lostJobs.contains (pkg, s.jobOf s.cur))

/-- `fencx`. Log 51 (DEDUCED). -/
def execFencx (o : OpN) (m : PathMod) (s : State) : Host.Outcome State Fault Refusal :=
  let names := Sys2Proof.Machine.PathMod.names m
  let scope := m.scope.toNat
  runOp ⟨o.st, 0, .access, []⟩ (do
    let s ← get
    let sid := s.cur
    if names 5 then raiseDropped (s.withinScope scope) else pure ()
    let waits := (names 5 && s.putsOutstanding sid) || (names 2 && s.copiesOutstanding sid) ||
      (names 3 && (s.agenda.contains (.ixMergeStep sid) ||
        s.units.requests.any fun r => r.sid = sid && (r.use = .index false || r.use = .index true)))
    if waits then throw .retry else pure ()
    if names 0 then do
      releaseAt scope
      acquireAt scope
    else pure ()) s

end Sys2Proof.Machine
end

