-- ==== Sys2Proof/Machine/Time.lean ====
section
/-! DEFINITION. Package time: the pulse-per-second input and the time-of-day messages (R371, R372), and the check values that
they share with memory sectors (R356). -/

namespace Sys2Proof.Machine

/-! ## CRC-16 (R356, R397) -/

/-- One bit of a CRC-16, most significant first. -/
def crcBit (poly c : BitVec 16) (b : Bool) : BitVec 16 :=
  if c.getLsbD 15 != b then (c <<< 1) ^^^ poly else c <<< 1

/-- CRC-16 over bytes, each with its most significant bit first. -/
def crc16 (poly init : BitVec 16) (bs : List Byte) : BitVec 16 :=
  bs.foldl (fun c b => (List.range 8).foldl (fun c i => crcBit poly c (b.getLsbD (7 - i))) c) init

/-- The check value of a sector's bytes (R356). -/
def checkValue (bs : List Byte) : BitVec 16 := crc16 0x8BB7 0 bs

/-! ## Time-of-day messages (R372) -/

/-- The code under which the management controller counts messages that it ignores, and losses of edges that it reports: the
manual gives none. Log 77 (DESIGN CHOICE). -/
def ignoredMessages : Nat := 0x10001
/-- Log 77 (DESIGN CHOICE). -/
def lostEdges : Nat := 0x10002

/-- Whether a message has its start, length and check value. Log 74 (DEDUCED). -/
def messageValid (bs : List Byte) : Bool :=
  bs.length = 16 && bs.getD 0 0 = 0x7E && bs.getD 1 0 = 12 &&
    leNat ((bs.drop 12).take 2) = (checkValue ((bs.drop 1).take 11)).toNat

/-- A time-of-day message: a valid one that ends in its window announces the second of the next edge. Log 74 (DEDUCED). -/
def takeMessage (bs : List Byte) (inWindow : Bool) : M Unit :=
  if inWindow && messageValid bs then modify fun s =>
    let c := { s.units.clock with
      second := leNat ((bs.drop 2).take 6)
      announced := true
      utcoff := BitVec.ofNat 16 (leNat ((bs.drop 8).take 2))
      flags := bs.getD 10 0
      cls := bs.getD 11 0 }
    { s with units := { s.units with clock := c } }
  else modify fun s => { s with events := storeAt 0 ignoredMessages (lookupD 0 s.events ignoredMessages + 1) s.events }

/-- `TIME_OF_DAY_MESSAGE` (R372). -/
def execTimeOfDayMessage (s : State) : Host.Outcome State Fault Refusal :=
  match s.now with
  | .timeOfDayMessage bytes inWindow => runEvent (takeMessage bytes inWindow) s
  | _ => .next s

/-! ## Edges (R371) -/

/-- An edge: a difference above 1 µs from the announced second sets the time, which never decreases; a smaller one is slewed
away. Log 14 (DESIGN CHOICE). Log 74 (DEDUCED). -/
def ppsEdge : M Unit := modify fun s =>
  let c := s.units.clock
  let target := c.second * 1000000000
  let far := s.time > target + 1000 || target > s.time + 1000
  let time := if c.announced && far then max s.time target else s.time
  { s with time := time, units := { s.units with clock := { c with announced := false, lastEdge := time, lost := false } } }

/-- `PPS_EDGE` (R371). -/
def execPpsEdge (s : State) : Host.Outcome State Fault Refusal :=
  match s.now with
  | .ppsEdge => runEvent ppsEdge s
  | _ => .next s

/-- The loss of edges: time runs on from the package's oscillator, and the controller reports it. -/
def ppsLoss : M Unit := modify fun s =>
  { s with
    events := storeAt 0 lostEdges (lookupD 0 s.events lostEdges + 1) s.events
    units := { s.units with clock := { s.units.clock with lost := true } } }

/-- `PPS_LOSS` (R371). -/
def execPpsLoss (s : State) : Host.Outcome State Fault Refusal :=
  match s.now with
  | .ppsLoss => runEvent ppsLoss s
  | _ => .next s

/-- No edge has come for 2 s. Log 74 (DEDUCED). -/
def State.edgesDue (s : State) : Option Event :=
  if !s.units.clock.lost && s.time ≥ s.units.clock.lastEdge + 2000000000 then some .ppsLoss else none

end Sys2Proof.Machine
end

