-- ==== Sys2Proof/Machine/Router.lean ====
section
/-! DEFINITION. Fabric ports and routes (R395 to R403). -/

namespace Sys2Proof.Machine

/-! ## Coordinates and bundles (R395, R396) -/

/-- Coordinates x, y, z, w of a package id. -/
def coordX (p : Nat) : Nat := p % 4
def coordY (p : Nat) : Nat := p / 4 % 4
def coordZ (p : Nat) : Nat := p / 16 % 32
def coordW (p : Nat) : Nat := p / 512 % 32

/-- The directions of R412, in which bundles are numbered: +X, −X, +Y, −Y, +Z, −Z, +W, −W. -/
def dirOf (dim : Nat) (plus : Bool) : Nat := 2 * dim + (if plus then 0 else 1)

/-- The neighbour in a torus dimension; there is a wrap link from three packages on. -/
def torusStep (c size : Nat) (plus : Bool) : Option Nat :=
  if plus then if c + 1 < size then some (c + 1) else if size ≥ 3 then some 0 else none
  else if c > 0 then some (c - 1) else if size ≥ 3 then some (size - 1) else none

/-- The neighbour in a mesh dimension. -/
def meshStep (c size : Nat) (plus : Bool) : Option Nat :=
  if plus then if c + 1 < size then some (c + 1) else none else if c > 0 then some (c - 1) else none

/-- The package that a direction leads to. -/
def State.neighbour (s : State) (dir : Nat) : Option Nat :=
  let (sx, sy, sz, sw) := s.units.sizes
  let plus := dir % 2 = 0
  let p := s.pkg
  match dir / 2 with
  | 0 => (meshStep (coordX p) sx plus).map fun c => p - coordX p + c
  | 1 => (meshStep (coordY p) sy plus).map fun c => p - coordY p * 4 + c * 4
  | 2 => (torusStep (coordZ p) sz plus).map fun c => p - coordZ p * 16 + c * 16
  | _ => (torusStep (coordW p) sw plus).map fun c => p - coordW p * 512 + c * 512

/-- A port; ports of a direction are numbered from 12 times its number on. -/
def State.port (s : State) (i : Nat) : Port := lookupD Port.up s.units.ports i

def State.withPort (s : State) (i : Nat) (v : Port) : State :=
  { s with units := { s.units with ports := storeAt Port.up i v s.units.ports } }

/-- The ports of a bundle that are up. -/
def State.upPorts (s : State) (dir : Nat) : List Nat :=
  ((List.range 12).map fun j => dir * 12 + j).filter fun i => !(s.port i).down

/-- Whether a hop can be taken: its package exists and is not lost, and its bundle is not down (R402, R403). -/
def State.hopOpen (s : State) (dir : Nat) : Bool :=
  (match s.neighbour dir with
    | some q => !s.units.lost.contains q
    | none => false) && !(s.upPorts dir).isEmpty

/-! ## Routes (R403) -/

/-- The way round in a torus dimension: the shorter one, + on a tie; without a wrap link, towards the coordinate. -/
def shorterWay (c d size : Nat) : Bool :=
  if size < 3 then c < d else (d + size - c) % size ≤ size - (d + size - c) % size

/-- Whether the way from a coordinate in a direction has crossed the dateline when it comes to another one. -/
def crossed (from_ dest size : Nat) (plus : Bool) : Bool := size ≥ 3 && (if plus then dest < from_ else dest > from_)

/-- A step aside, to the next coordinate or, at the end, to the one before. -/
def State.aside (s : State) : Option Nat :=
  let (sx, sy, _, _) := s.units.sizes
  let dx := dirOf 0 (coordX s.pkg + 1 < sx)
  let dy := dirOf 1 (coordY s.pkg + 1 < sy)
  if s.hopOpen dx then some dx else if s.hopOpen dy then some dy else none

/-- The next hop of a packet with the header that it takes on; none when it can take no step. -/
def State.route (s : State) (pk : Packet) : Option (Nat × Packet) :=
  let (_, _, sz, sw) := s.units.sizes
  let p := s.pkg
  let d := pk.dst
  let src := pk.src.toNat / 16384
  let torus := fun (dim c e c0 size : Nat) =>
    let plus := shorterWay c e size
    let dir := dirOf dim plus
    if s.hopOpen dir then
      some (dir, { pk with dl := crossed c0 ((torusStep c size plus).getD c) size plus })
    else if pk.dt < 2 then s.aside.map fun dir => (dir, { pk with dl := false, dt := pk.dt + 1 })
    else none
  if coordZ p ≠ coordZ d then torus 2 (coordZ p) (coordZ d) (coordZ src) sz
  else if coordW p ≠ coordW d then torus 3 (coordW p) (coordW d) (coordW src) sw
  else
    let x := dirOf 0 (coordX p < coordX d)
    let y := dirOf 1 (coordY p < coordY d)
    let on := { pk with dl := false }
    if coordX p ≠ coordX d && s.hopOpen x then some (x, on)
    else if coordY p ≠ coordY d && s.hopOpen y then some (y, on)
    else none

/-- The port of a bundle that a stream of packets takes (R396). -/
def State.portFor (s : State) (dir : Nat) (pk : Packet) : Nat :=
  let up := s.upPorts dir
  up.getD (Config.portHash pk.src.toNat pk.dst pk.vc % max 1 up.length) (dir * 12)

/-! ## Sending (R400) -/

/-- The packets of the last 512 flits. -/
def retryTail (l : List (Nat × Packet)) : List (Nat × Packet) :=
  (l.reverse.foldl (fun (acc : List (Nat × Packet) × Nat) e =>
    if acc.2 < 512 then (e :: acc.1, acc.2 + Packet.flits e.2) else acc) ([], 0)).1

/-- Sends a packet on a port. -/
def State.transmit (s : State) (i : Nat) (pk : Packet) : State :=
  let v := s.port i
  let s := s.withPort i { v with
    tx := (v.tx + Packet.flits pk) % 65536
    retry := retryTail (v.retry ++ [(v.tx, pk)]) }
  let s := s.countPackage 0x2002 (Packet.flits pk)
  { s with units := { s.units with fabricOut := s.units.fabricOut ++ [(i, pk)] } }

/-! ## Arrivals -/

/-- Whether a packet is a request that its source's answer ends (R404). -/
def Packet.isRequest (pk : Packet) : Bool :=
  match pk.op with
  | .none => pk.ty = 1
  | .read _ => true
  | .write => pk.ty = 0
  | .amo .. => true
  | .amou .. => true
  | .cas .. => true
  | .frd => true
  | .fwr _ => true
  | .region .. => true
  | .agent .. => true
  | .message .. => true
  | .deposit .. => true
  | .combine _ => true
  | .wlPop .. => true
  | .wlPropose .. => true
  | .wlCfg .. => true
  | .wlStat .. => true
  | _ => false

/-- The channel of a local DRAM address, which is also the number of its agent (R341). -/
def channelOf (a : Nat) : Nat := 4 * (a / 2 ^ 34 % 64) + ((a / 128 % 4) ^^^ (a / 65536 % 4))

/-- The event that a packet for this package gives rise to. -/
def Packet.arrival (pk : Packet) : Event :=
  match pk.op with
  | .probe => .probe (pk.src.toNat / 16384)
  | .peerDown p => .peerDownNotice p
  | .comb a => .combSplit a
  | .combine r => .combineHold (channelOf (localOf r.addr) / 64) 0 r
  | _ =>
    if pk.ty = 7 && pk.mr then .mirrorReport pk
    else if pk.ty = 2 || pk.ty = 4 || pk.ty = 7 || pk.op = .probeAnswer then .remoteAnswer pk
    else .remoteRequest pk

/-- A packet at this package's routers: it is delivered here, or goes one hop on. One of a lost package is discarded; a
request that can take no step is answered *unreachable*, and any other such packet is discarded (R403, R407). -/
def forward (pk : Packet) : M Unit := do
  let s ← get
  let src := pk.src.toNat / 16384
  if src ≠ s.pkg && s.units.lost.contains src then pure ()
  else if pk.dst = s.pkg then post (Packet.arrival pk)
  else
    let hop := if s.units.lost.contains pk.dst then none else s.route pk
    match hop with
    | some (dir, pk) => set (s.transmit (s.portFor dir pk) pk)
    | none =>
      if !Packet.isRequest pk then pure ()
      else
        let no : Packet := { pk with
          dst := src, ty := 7, vc := 1, dl := false, dt := 0, op := .unreachable, data := [], tag := false }
        if src = s.pkg then post (.remoteAnswer no)
        else
          -- the answer travels from here: its source is this package
          let no := { no with src := BitVec.ofNat 28 (s.pkg * 16384), addr := pk.src.toNat % 16384 }
          post (.packetForward no)

/-- `PACKET_FORWARD` (R403). -/
def execPacketForward (s : State) : Host.Outcome State Fault Refusal :=
  match s.now with
  | .packetForward pk => runEvent (forward pk) s
  | _ => .next s

/-! ## Flits (R397, R398, R400) -/

/-- The link's check value of a flit: over the body, bits 31:0 of the sideband, and seq. -/
def Flit.check (f : Flit) : BitVec 16 :=
  crc16 0x1021 0xFFFF (f.body ++ (leBytes 2 f.cv0.toNat ++ leBytes 2 f.cv1.toNat ++ leBytes 2 f.seq.toNat))

/-- A field of a packet's header, whose first byte holds bits 7:0. -/
def headerBits (body : List Byte) (lo n : Nat) : Nat := leNat (body.take 16) / 2 ^ lo % 2 ^ n

/-- Flits of the packet that a header flit begins. -/
def Flit.count (f : Flit) : Nat := headerBits f.body 79 3 + 1

/-- The sectors of a packet's data whose check value is wrong, counted from the sector of its first byte (R356, R397). -/
def wrongSectors (addr len : Nat) (fs : List Flit) : List Nat :=
  let bad := fs.zipIdx.flatMap fun e =>
    (if checkValue (e.1.body.take 32) ≠ e.1.cv0 then [2 * e.2] else []) ++ (if checkValue (e.1.body.drop 32) ≠ e.1.cv1 then [2 * e.2 + 1] else [])
  let first := addr % 64 / 32
  (bad.filter fun k => k ≥ first && k < (addr % 64 + len + 31) / 32).map fun k => k - first

/-- A packet from its flits. The operands of types 3, 6 to 8, 11 and 12 are in a layout of the device (R399). Log 18 (DESIGN CHOICE). -/
def packetOf (fs : List Flit) : Packet :=
  let body := (fs.head?.map (·.body)).getD []
  let h := headerBits body
  let ty := h 82 4
  let addr := h 0 41
  let len := h 52 9 + 1
  let flits := (fs.drop 1).flatMap (·.body)
  let data := (flits.drop (addr % 64)).take len
  let op : PacketOp := match ty with
    | 0 => .write
    | 1 => .read len
    | 2 => .value 0
    | 10 => .none
    | _ => Config.packetOperands body flits
  { dst := h 114 14, src := BitVec.ofNat 28 (h 86 28), ty := ty, vc := h 77 2, dl := h 76 1 = 1, dt := h 75 1
    mr := h 74 1 = 1, ls := h 73 1 = 1, mirrored := h 74 1 = 1, tenant := BitVec.ofNat 12 (h 61 12), txn := h 44 8
    tag := h 41 1 = 1, addr := addr, op := op
    wrong := if ty = 0 || ty = 2 then wrongSectors addr len (fs.drop 1) else []
    data := if ty = 0 || ty = 2 then data else if ty = 10 then (body.drop 16).take 16 ++ flits else [] }

/-- The code under which the management controller counts packets of a type that is never sent. Log 77 (DESIGN CHOICE). -/
def unknownPackets : Nat := 0x10003

/-- The input port of its E-die's router at which a fabric port enters (R412). -/
def inputPort (i : Nat) : Nat := i / 12 * 3 + i % 12 % 3

/-- The E-die of a fabric port (R396). -/
def portDie (i : Nat) : Nat := i % 12 / 3

/-- A whole packet passes on (R399, R412). -/
def passOn (i : Nat) (pk : Packet) : M Unit :=
  if pk.ty ≥ 13 then modify fun s =>
    { s with events := storeAt 0 unknownPackets (lookupD 0 s.events unknownPackets + 1) s.events }
  else match pk.op with
    | .combine r => post (.combineHold (portDie i) (inputPort i) r)
    | _ => post (.packetForward pk)

/-- The end of a packet: an order to narrow or widen takes effect (R401). -/
def Port.boundary (v : Port) : Port :=
  match v.orderedNarrow with
  | some b => { v with narrow := b, orderedNarrow := none }
  | none => v

/-- A flit arrives: it is accepted when its check value is right and its number the expected one, and replay is asked for
otherwise. A packet passes on when all its flits have been accepted. -/
def receive (i : Nat) (f : Flit) : M Unit := do
  let s ← get
  let v := s.port i
  if v.down then pure ()
  else if f.lcrc ≠ Flit.check f || f.seq.toNat ≠ v.rx then
    set (s.withPort i { v with acks := v.acks ++ [(false, v.rx)] })
  else
    let pieces := v.pieces ++ [f]
    let v := { v with rx := (v.rx + 1) % 65536, acks := v.acks ++ [(true, f.seq.toNat)] }
    if pieces.length < (pieces.head?.map Flit.count).getD 1 then set (s.withPort i { v with pieces := pieces })
    else do
      set (s.withPort i { v with pieces := [], lastWhole := f.seq.toNat }.boundary)
      passOn i (packetOf pieces)

/-- `FLIT_RECEIVE` (R400). -/
def execFlitReceive (s : State) : Host.Outcome State Fault Refusal :=
  match s.now with
  | .flitReceive i f => runEvent (receive i f) s
  | _ => .next s

/-! ## Lanes and ports that fail (R401, R402) -/

/-- A port goes down: partial packets are discarded, and packets not accepted whole are sent again, in order, by the bundle's
other ports. Which ones the far side has accepted only it knows. -/
def portDown (i : Nat) : M Unit := do
  let s ← get
  let v := s.port i
  if v.down then pure ()
  else do
    set (s.withPort i { v with down := true, pieces := [], retry := [] })
    for e in v.retry do
      if Config.acceptedWhole i e.1 s.steps then pure () else post (.packetForward e.2)

/-- `PORT_DOWN` (R402). -/
def execPortDown (s : State) : Host.Outcome State Fault Refusal :=
  match s.now with
  | .portDown i => runEvent (portDown i) s
  | _ => .next s

/-- A lane fails: the port retrains at one lane and reports the last packet that it accepted whole; the flits after that are
sent again. A port whose last lane fails cannot retrain. -/
def laneFailure (i : Nat) : M Unit := do
  let s ← get
  let v := s.port i
  if v.down then pure ()
  else if v.narrow then portDown i
  else set (s.withPort i { v with
    narrow := true, rx := (v.lastWhole + 1) % 65536, pieces := [], acks := v.acks ++ [(true, v.lastWhole)] })

/-- `LANE_FAILURE` (R401). -/
def execLaneFailure (s : State) : Host.Outcome State Fault Refusal :=
  match s.now with
  | .laneFailure i => runEvent (laneFailure i) s
  | _ => .next s

/-- An order to run a port on one lane or on two: it takes effect at the next packet boundary. -/
def orderWidth (i lanes : Nat) : M Unit := modify fun s =>
  let v := { s.port i with orderedNarrow := some (lanes ≤ 1) }
  s.withPort i (if v.pieces.isEmpty then v.boundary else v)

/-- `LANE_WIDTH_ORDER` (R401). -/
def execLaneWidthOrder (s : State) : Host.Outcome State Fault Refusal :=
  match s.now with
  | .laneWidthOrder i lanes => runEvent (orderWidth i lanes) s
  | _ => .next s

end Sys2Proof.Machine
end

