-- ==== Sys2Proof/Machine/Scalar.lean ====
section
/-! DEFINITION. Integer arithmetic, logic, compares and moves of pages 0 and 1 (R92 to R99). -/

namespace Sys2Proof.Machine

/-! ## Shared operations -/

/-- A two-source integer instruction (R92, R94). -/
def int2 (lat : Nat) (o : OpRRC) (f : Word → Word → Word) (s : State) : Host.Outcome State Fault Refusal :=
  runOp ⟨o.st, lat, .bySource, twoSource 0 o⟩ (do
    let x ← readX 0 o.x
    let y ← readX 1 o.y
    writeX o.a (f x y)) s

/-- A ← f(B) on bits 63:0 (R96). -/
def int1 (o : OpRR) (f : Word → Word) (s : State) : Host.Outcome State Fault Refusal :=
  runOp ⟨o.st, 1, .bySource, oneSource o⟩ (do
    let x ← readX 0 o.b
    writeX o.a (f x)) s

/-- A ← f(A, Imm) (R97). -/
def intImm (o : OpRI) (f : Word → Word) (s : State) : Host.Outcome State Fault Refusal :=
  runOp ⟨o.st, 1, .bySource, [wBoth o.a]⟩ (do
    let x ← readX 0 o.a
    writeX o.a (f x)) s

/-- 1 or 0. -/
def truth (b : Bool) : Word := if b then 1 else 0

/-- Signed quotient truncated towards zero, with R95. -/
def divSigned (x y : Word) : Word := if y = 0 then BitVec.allOnes 64 else x.sdiv y
/-- Unsigned quotient, with R95. -/
def divUnsigned (x y : Word) : Word := if y = 0 then BitVec.allOnes 64 else x / y
/-- Signed remainder with the sign of x, with R95. -/
def remSigned (x y : Word) : Word := if y = 0 then x else x.srem y
/-- Unsigned remainder, with R95. -/
def remUnsigned (x y : Word) : Word := if y = 0 then x else x % y
/-- The high half of a signed product. -/
def mulHigh (x y : Word) : Word := BitVec.ofInt 64 (x.toInt * y.toInt / 2 ^ 64)
/-- The high half of an unsigned product. -/
def mulHighUnsigned (x y : Word) : Word := BitVec.ofNat 64 (x.toNat * y.toNat / 2 ^ 64)
/-- Number of leading zero bits. -/
def leadingZeros (x : Word) : Word := BitVec.ofNat 64 (64 - Float.bitLength x.toNat)
/-- Number of trailing zero bits: the lowest set bit's position. -/
def trailingZeros (x : Word) : Word :=
  if x = 0 then 64 else BitVec.ofNat 64 (Nat.log2 (x.toNat &&& (2 ^ 64 - x.toNat)))
/-- Number of set bits. -/
def popCount (x : Word) : Word := BitVec.ofNat 64 ((List.range 64).filter fun i => x.getLsbD i).length
/-- The eight bytes in reverse order. -/
def byteSwap (x : Word) : Word := BitVec.ofNat 64 (leNat (leBytes 8 x.toNat).reverse)
/-- Bits p+l−1:p of a word (R99). -/
def extractBits (x : Word) (p l : Nat) : Word := BitVec.ofNat 64 (x.toNat / 2 ^ p % 2 ^ l)
/-- A word with bits p+l−1:p replaced; bits above 63 are dropped (R99). -/
def insertBits (x y : Word) (p l : Nat) : Word :=
  let m : Word := BitVec.ofNat 64 ((2 ^ l - 1) * 2 ^ p)
  (x &&& ~~~ m) ||| (BitVec.ofNat 64 (y.toNat % 2 ^ l * 2 ^ p) &&& m)
/-- The position of R99. -/
def fieldPos (i : Imm) : Nat := i.toNat % 64
/-- The length of R99. -/
def fieldLen (i : Imm) : Nat := i.toNat / 64 % 64 + 1

/-! ## Instructions -/

/-- `add` (R94). -/
def execAdd (o : OpRRC) (s : State) : Host.Outcome State Fault Refusal :=
  int2 1 o (fun x y => x + y) s

/-- `sub` (R94). -/
def execSub (o : OpRRC) (s : State) : Host.Outcome State Fault Refusal :=
  int2 1 o (fun x y => x - y) s

/-- `and` (R94). -/
def execAnd (o : OpRRC) (s : State) : Host.Outcome State Fault Refusal :=
  int2 1 o (fun x y => x &&& y) s

/-- `or` (R94). -/
def execOr (o : OpRRC) (s : State) : Host.Outcome State Fault Refusal :=
  int2 1 o (fun x y => x ||| y) s

/-- `xor` (R94). -/
def execXor (o : OpRRC) (s : State) : Host.Outcome State Fault Refusal :=
  int2 1 o (fun x y => x ^^^ y) s

/-- `shl` (R94). -/
def execShl (o : OpRRC) (s : State) : Host.Outcome State Fault Refusal :=
  int2 1 o (fun x y => x <<< (y.toNat % 64)) s

/-- `shr` (R94). -/
def execShr (o : OpRRC) (s : State) : Host.Outcome State Fault Refusal :=
  int2 1 o (fun x y => x >>> (y.toNat % 64)) s

/-- `sra` (R94). -/
def execSra (o : OpRRC) (s : State) : Host.Outcome State Fault Refusal :=
  int2 1 o (fun x y => x.sshiftRight (y.toNat % 64)) s

/-- `mul` (R94). -/
def execMul (o : OpRRC) (s : State) : Host.Outcome State Fault Refusal :=
  int2 3 o (fun x y => x * y) s

/-- `ceq` (R94). -/
def execCeq (o : OpRRC) (s : State) : Host.Outcome State Fault Refusal :=
  int2 1 o (fun x y => truth (x = y)) s

/-- `clt` (R94). -/
def execClt (o : OpRRC) (s : State) : Host.Outcome State Fault Refusal :=
  int2 1 o (fun x y => truth (x.slt y)) s

/-- `cltn` (R94). -/
def execCltn (o : OpRRC) (s : State) : Host.Outcome State Fault Refusal :=
  int2 1 o (fun x y => truth (x.ult y)) s

/-- `div` (R94, R95). -/
def execDiv (o : OpRRC) (s : State) : Host.Outcome State Fault Refusal := int2 0 o divSigned s

/-- `divn` (R94, R95). -/
def execDivn (o : OpRRC) (s : State) : Host.Outcome State Fault Refusal := int2 0 o divUnsigned s

/-- `rem` (R94, R95). -/
def execRem (o : OpRRC) (s : State) : Host.Outcome State Fault Refusal := int2 0 o remSigned s

/-- `remn` (R94, R95). -/
def execRemn (o : OpRRC) (s : State) : Host.Outcome State Fault Refusal := int2 0 o remUnsigned s

/-- `mulh` (R94). -/
def execMulh (o : OpRRC) (s : State) : Host.Outcome State Fault Refusal := int2 4 o mulHigh s

/-- `mulhn` (R94). -/
def execMulhn (o : OpRRC) (s : State) : Host.Outcome State Fault Refusal := int2 4 o mulHighUnsigned s

/-- `rot` (R94). -/
def execRot (o : OpRRC) (s : State) : Host.Outcome State Fault Refusal :=
  int2 1 o (fun x y => x.rotateRight (y.toNat % 64)) s

/-- `min` (R94). -/
def execMin (o : OpRRC) (s : State) : Host.Outcome State Fault Refusal :=
  int2 1 o (fun x y => if y.slt x then y else x) s

/-- `max` (R94). -/
def execMax (o : OpRRC) (s : State) : Host.Outcome State Fault Refusal :=
  int2 1 o (fun x y => if x.slt y then y else x) s

/-- `minn` (R94). -/
def execMinn (o : OpRRC) (s : State) : Host.Outcome State Fault Refusal :=
  int2 1 o (fun x y => if y.ult x then y else x) s

/-- `maxn` (R94). -/
def execMaxn (o : OpRRC) (s : State) : Host.Outcome State Fault Refusal :=
  int2 1 o (fun x y => if x.ult y then y else x) s

/-- `mov` (R96): all 128 bits and the tag. -/
def execMov (o : OpRR) (s : State) : Host.Outcome State Fault Refusal :=
  runOp ⟨o.st, 1, .bySource, oneSource o⟩ (do
    let r ← readW 0 o.b
    writeW o.a r) s

/-- `clz` (R96). -/
def execClz (o : OpRR) (s : State) : Host.Outcome State Fault Refusal := int1 o leadingZeros s

/-- `ctz` (R96). -/
def execCtz (o : OpRR) (s : State) : Host.Outcome State Fault Refusal := int1 o trailingZeros s

/-- `popc` (R96). -/
def execPopc (o : OpRR) (s : State) : Host.Outcome State Fault Refusal := int1 o popCount s

/-- `bswap` (R96). -/
def execBswap (o : OpRR) (s : State) : Host.Outcome State Fault Refusal := int1 o byteSwap s

/-- `addi` (R97). -/
def execAddi (o : OpRI) (s : State) : Host.Outcome State Fault Refusal :=
  intImm o (fun x => x + Imm.signed o.imm) s

/-- `andi` (R97). -/
def execAndi (o : OpRI) (s : State) : Host.Outcome State Fault Refusal :=
  intImm o (fun x => x &&& Imm.signed o.imm) s

/-- `shli` (R97). -/
def execShli (o : OpRI) (s : State) : Host.Outcome State Fault Refusal :=
  intImm o (fun x => x <<< o.imm.toNat) s

/-- `shri` (R97). -/
def execShri (o : OpRI) (s : State) : Host.Outcome State Fault Refusal :=
  intImm o (fun x => x >>> o.imm.toNat) s

/-- `srai` (R97). -/
def execSrai (o : OpRI) (s : State) : Host.Outcome State Fault Refusal :=
  intImm o (fun x => x.sshiftRight o.imm.toNat) s

/-- `movi` (R97). -/
def execMovi (o : OpRI) (s : State) : Host.Outcome State Fault Refusal :=
  runOp ⟨o.st, 1, .bySource, [wDst o.a]⟩ (writeX o.a (Imm.signed o.imm)) s

/-- `sel` (R98): the whole register and its tag. -/
def execSel (o : OpRRR) (s : State) : Host.Outcome State Fault Refusal :=
  runOp ⟨o.st, 1, .bySource, [wBoth o.a, wSrc o.b, wSrc o.c]⟩ (do
    let a ← readX 0 o.a
    let b ← readW 1 o.b
    let c ← readW 2 o.c
    writeW o.a (if a ≠ 0 then b else c)) s

/-- `bext` (R99). -/
def execBext (o : OpRX) (s : State) : Host.Outcome State Fault Refusal :=
  runOp ⟨o.st, 1, .bySource, [wDst o.a, wSrc o.b]⟩ (do
    let x ← readX 0 o.b
    writeX o.a (extractBits x (fieldPos o.imm) (fieldLen o.imm))) s

/-- `bins` (R99). -/
def execBins (o : OpRX) (s : State) : Host.Outcome State Fault Refusal :=
  runOp ⟨o.st, 1, .bySource, [wBoth o.a, wSrc o.b]⟩ (do
    let x ← readX 0 o.a
    let y ← readX 1 o.b
    writeX o.a (insertBits x y (fieldPos o.imm) (fieldLen o.imm))) s

end Sys2Proof.Machine
end

