-- ==== Sys2Proof/Machine/Agent.lean ====
section
/-! DEFINITION. Near-memory agents: their routines and how they run (R344 to R346). -/

namespace Sys2Proof.Machine

/-! ## Running a routine (R344) -/

/-- A routine under way: sixteen registers, the word position, the instructions run, and the bytes written so far by local address. -/
structure AgentRun where
  regs : List Word
  pos : Nat
  count : Nat
  buf : SMap Byte
  deriving DecidableEq, Repr

/-- How a step of a routine ends: it goes on, it has returned, or it is no instruction of an agent. -/
inductive AgentStep where
  | go (r : AgentRun)
  | returned (r : AgentRun)
  | none
  deriving DecidableEq, Repr

def AgentRun.reg (r : AgentRun) (n : RegNo) : Word := r.regs.getD n.toNat 0
def AgentRun.set (r : AgentRun) (n : RegNo) (w : Word) : AgentRun := { r with regs := r.regs.set n.toNat w }

/-- The same run at the next instruction, `len` words on. -/
def AgentRun.past (r : AgentRun) (len : Nat) : AgentRun := { r with pos := r.pos + len }

/-- The same run at a branch target, counted in words from the instruction. -/
def AgentRun.jump (r : AgentRun) (i : Imm) : AgentRun := { r with pos := ((r.pos : Int) + Imm.int i).toNat }

/-- What a routine's accesses are checked and translated for (R344): the capability of the `nma`, and the E-die. -/
structure AgentView where
  cap : Reg
  edie : Nat
  colony : Nat
  deriving DecidableEq, Repr

/-- The local address of an access after its check. Windows, ports, mirrored pages and other packages are out of reach. A sector that
fails stops a reader only (R430). Log 52 (DEDUCED). -/
def agentPlace (v : AgentView) (a : Word) (i : Int) (perm : BitVec 12) (n : Nat) : M Nat := do
  let va := ((a.toNat : Int) + i) % 2 ^ 48
  let c : Reg := ⟨Cap.withCursor v.cap.val va.toNat, v.cap.tag⟩
  checkCapAs ⟨false, Cap.tenant c.val⟩ c perm [Cap.kMemory] n
  let (p, e) ← translateFor (8 + v.edie) v.colony (Cap.tenant c.val) va.toNat perm
  let s ← get
  raiseIf (pkgOf p ≠ s.pkg) cXlat va.toNat
  raiseIf (pteM e) cPerm va.toNat
  checkAtomicPlace va.toNat p
  if perm &&& Cap.ld ≠ 0 then checkSectors va.toNat (localOf p) n else pure ()
  pure (localOf p)

/-- Bytes as a routine reads them, after the home slice has written the line back and dropped it (R277): what it has written lies over
the home's. -/
def agentRead (r : AgentRun) (a n : Nat) : M Nat := do
  modify fun s => s.l2Drop (a / 128)
  let bs ← homeRead a n
  pure (leNat (bs.zipIdx.map fun e => (((r.buf.find? fun x => x.1 = a + e.2).map (·.2)).getD e.1)))

/-- Buffers bytes of a write. -/
def AgentRun.write (r : AgentRun) (a n v : Nat) : AgentRun :=
  { r with buf := ((leBytes n v).zipIdx).foldl (fun m e => insertAt (a + e.2) e.1 m) r.buf }

/-- Sources of a two-source instruction. -/
def agent2 (r : AgentRun) (o : OpRRC) (len : Nat) (f : Word → Word → Word) : M AgentStep :=
  pure (.go ((r.set o.a (f (r.reg o.x) (r.reg o.y))).past len))

/-- An instruction with an immediate. -/
def agentImm (r : AgentRun) (o : OpRI) (len : Nat) (f : Word → Word) : M AgentStep :=
  pure (.go ((r.set o.a (f (r.reg o.a))).past len))

/-- A branch. -/
def agentBranch (r : AgentRun) (len : Nat) (i : Imm) (taken : Bool) : M AgentStep :=
  pure (.go (if taken then r.jump i else r.past len))

/-- An atomic operation, on the buffered bytes. -/
def agentAmo (v : AgentView) (r : AgentRun) (o : OpRRR) (m : AmoMod) (op len : Nat) : M AgentStep := do
  let k := if m.w32 then 4 else 8
  let a ← agentPlace v (r.reg o.b + r.reg o.c) (Imm.int o.imm) (Cap.ld ||| Cap.st ||| Cap.atm) k
  let old ← agentRead r a k
  let y := (r.reg o.a).toNat % 2 ^ (8 * k)
  pure (.go (((r.write a k (amoOp op k old y)).set o.a (extendTo64 (op = 4 || op = 5) k old)).past len))

/-- One instruction of a routine, `len` words long. -/
def agentExec (v : AgentView) (i : Instr) (len : Nat) (r : AgentRun) : M AgentStep :=
  match i with
  | .hold _ => pure (.go (r.past len))
  | .mov o => pure (.go ((r.set o.a (r.reg o.b)).past len))
  | .add o => agent2 r o len fun x y => x + y
  | .sub o => agent2 r o len fun x y => x - y
  | .and o => agent2 r o len fun x y => x &&& y
  | .or o => agent2 r o len fun x y => x ||| y
  | .xor o => agent2 r o len fun x y => x ^^^ y
  | .shl o => agent2 r o len fun x y => x <<< (y.toNat % 64)
  | .shr o => agent2 r o len fun x y => x >>> (y.toNat % 64)
  | .sra o => agent2 r o len fun x y => x.sshiftRight (y.toNat % 64)
  | .mul o => agent2 r o len fun x y => x * y
  | .addi o => agentImm r o len fun x => x + Imm.signed o.imm
  | .movi o => agentImm r o len fun _ => Imm.signed o.imm
  | .andi o => agentImm r o len fun x => x &&& Imm.signed o.imm
  | .shli o => agentImm r o len fun x => x <<< o.imm.toNat
  | .shri o => agentImm r o len fun x => x >>> o.imm.toNat
  | .srai o => agentImm r o len fun x => x.sshiftRight o.imm.toNat
  | .ceq o => agent2 r o len fun x y => truth (x = y)
  | .clt o => agent2 r o len fun x y => truth (x.slt y)
  | .cltn o => agent2 r o len fun x y => truth (x.ult y)
  | .sel o => pure (.go ((r.set o.a (if r.reg o.a ≠ 0 then r.reg o.b else r.reg o.c)).past len))
  | .bz o => agentBranch r len o.imm (r.reg o.a = 0)
  | .bnz o => agentBranch r len o.imm (r.reg o.a ≠ 0)
  | .blt o => agentBranch r len o.imm ((r.reg o.a).slt (r.reg o.b))
  | .bge o => agentBranch r len o.imm (!(r.reg o.a).slt (r.reg o.b))
  | .bltn o => agentBranch r len o.imm ((r.reg o.a).ult (r.reg o.b))
  | .bgen o => agentBranch r len o.imm (!(r.reg o.a).ult (r.reg o.b))
  | .j o => agentBranch r len o.imm true
  | .ret _ => pure (.returned r)
  | .ld o m => do
    let k := widthBytes m.width
    let a ← agentPlace v (r.reg o.b) (Imm.int o.imm) Cap.ld k
    let x ← agentRead r a k
    pure (.go ((r.set o.a (extendTo64 m.sx k x)).past len))
  | .st o m => do
    let k := widthBytes m.width
    let a ← agentPlace v (r.reg o.b) (Imm.int o.imm) Cap.st k
    pure (.go ((r.write a k (r.reg o.a).toNat).past len))
  | .amoAdd o m => agentAmo v r o m 0 len
  | .amoAnd o m => agentAmo v r o m 1 len
  | .amoOr o m => agentAmo v r o m 2 len
  | .amoXor o m => agentAmo v r o m 3 len
  | .amoMin o m => agentAmo v r o m 4 len
  | .amoMax o m => agentAmo v r o m 5 len
  | .amoMinn o m => agentAmo v r o m 6 len
  | .amoMaxn o m => agentAmo v r o m 7 len
  | .amoSwap o m => agentAmo v r o m 8 len
  | .cas o m => do
    let k := widthBytes m.width
    let a ← agentPlace v (r.reg o.b + r.reg o.c) (Imm.int o.imm) (Cap.ld ||| Cap.st ||| Cap.atm) k
    let old ← agentRead r a k
    let r1 := if old = (r.reg o.a).toNat % 2 ^ (8 * k) then r.write a k (r.reg (o.a + 1)).toNat else r
    pure (.go ((r1.set o.a (extendTo64 m.sx k old)).past len))
  | _ => pure .none

/-- Words of the instruction that starts a list of words. -/
def chainLength (ws : List IWord) : Nat := (ws.takeWhile isChainWord).length + 1

/-- Runs a routine to its `ret`, at most `fuel` instructions; none when it did not return. Log 52 (DEDUCED). -/
def runRoutine (v : AgentView) (ws : List IWord) : Nat → AgentRun → M (Option AgentRun)
  | 0, _ => pure none
  | fuel + 1, r => do
    let rest := ws.drop r.pos
    match decodeWords (rest.take (chainLength rest)) with
    | some (.ok i) => do
      let step ← agentExec v i (chainLength rest) { r with count := r.count + 1 }
      match step with
      | .go r1 => runRoutine v ws fuel r1
      | .returned r1 => pure (some r1)
      | .none => pure none
    | _ => pure none

/-- Applies the buffered writes, each run of bytes of a line in one act, at the memory: no slice holds the line (R277). -/
def applyBuffer (src : BitVec 28) : Nat → SMap Byte → M Unit
  | 0, _ => pure ()
  | _, [] => pure ()
  | fuel + 1, (a, b) :: m => do
    let n := ((m.zipIdx.takeWhile fun e => e.1.1 = a + 1 + e.2 && (a + 1 + e.2) % 128 ≠ 0)).length
    let _ ← homeRead a (n + 1)
    pathWrite a (b :: (m.take n).map (·.2)) src 4
    modify fun s => s.l2Drop (a / 128)
    applyBuffer src fuel (m.drop n)

/-- A whole routine for a capability and four arguments (R344): the four results and the instructions run, or none when it did not return within
256 instructions. A fault leaves no write. Log 52 (DEDUCED). -/
def performRoutine (slot : Nat) (c : Reg) (args : List Word) (a colony : Nat) (src : BitVec 28) :
    M (Option (List Word × Nat)) := do
  let s ← get
  match lookupD none s.units.agentSlots (slot % 64) with
  | none => raise cPerm (Cap.cursor c.val)
  | some x => do
    raiseIf (x.owner ≠ Cap.tenant c.val) cPerm (Cap.cursor c.val)
    let v : AgentView := { cap := c, edie := channelOf a / 64, colony := colony }
    let start : AgentRun :=
      { regs := BitVec.ofNat 64 (Cap.cursor c.val) :: args.take 4 ++ List.replicate 11 0, pos := 0, count := 0, buf := [] }
    let r ← runRoutine v x.words 256 start
    match r with
    | none => pure none
    | some r => do
      applyBuffer src (r.buf.length + 1) r.buf
      pure (some ((r.regs.drop 1).take 4, r.count))

/-- The answer of a routine that another package has asked for (R344, R346). -/
def agentAnswer (j : AgentJob) : M PacketOp := do
  let r ← attempt (performRoutine j.slot j.cap j.args j.packet.addr 0 j.packet.src)
  match r with
  | .error (.trap code v _) => pure (.fail code v)
  | .error e => throw e
  | .ok none => pure (.fail cIll 0)
  | .ok (some (vs, _)) => pure (.values vs)

/-- The routine that an agent has had waiting longest is performed and answered. Log 52 (DEDUCED). -/
def agentTurn (agent : Nat) : M Unit := do
  let s ← get
  match s.units.agentJobs.find? (fun j => j.agent = agent) with
  | none => pure ()
  | some j => do
    set { s with units := { s.units with agentJobs := s.units.agentJobs.erase j } }
    let op ← agentAnswer j
    respond j.packet.src j.packet.txn op [] false

/-- `NMA_ROUTINE` (R344). -/
def execNmaRoutine (s : State) : Host.Outcome State Fault Refusal :=
  match s.now with
  | .nmaRoutine agent => runEvent (agentTurn agent) s
  | _ => .next s

/-! ## `nma` (R346) -/

/-- A fault of a routine: its address stands in `faddr`. -/
def routineFault {α : Type} (code : BitVec 8) (v : Word) : M α := do
  modSelf fun t => { t with faddr := BitVec.ofNat 64 (v.toNat % 2 ^ 48) }
  throw (.trapKeep code v none)

/-- Writes the four results. -/
def writeResults (a : RegNo) (vs : List Word) : M Unit := do
  for i in List.range 4 do
    writeX (a + BitVec.ofNat 6 i) (vs.getD i 0)

/-- `nma`. Log 16 (DEDUCED). -/
def execNma (o : OpRRR) (s : State) : Host.Outcome State Fault Refusal :=
  -- the last register first: a frame fault names it
  let args := [3, 0, 1, 2].map fun i => RegUse.mk 0 (o.a.toNat + i) true true
  runOp ⟨o.st, 0, .access, args ++ [wSrc o.b, wSrc o.c]⟩ (do
    let xs ← (List.range 4).mapM fun i => readX i (o.a + BitVec.ofNat 6 i)
    let b ← readW 4 o.b
    let d ← readX 5 o.c
    let c : Reg := ⟨Cap.offset b.val d.toInt, b.tag⟩
    let va := Cap.cursor c.val
    let slot := o.imm.toNat % 64
    let (p, e) ← checkAccess c Cap.ec [Cap.kMemory] 1
    raiseIf (place (localOf p) ≠ .dram || pteM e) cPerm va
    let s ← get
    if pkgOf p = s.pkg then do
      match lookupD none s.units.agentSlots slot with
      | none => raise cPerm va
      | some x => raiseIf (x.owner ≠ Cap.tenant c.val) cPerm va
      raiseIf (!Cap.has c.val Cap.gl) cPerm va
      -- routines of other packages that wait at the agent come first
      if s.units.agentJobs.any fun j => j.agent = channelOf (localOf p) then throw .retry
      let r ← attempt (performRoutine slot c xs (localOf p) (s.colonyOf s.cur) (s.fullSid s.cur))
      match r with
      | .error (.trap code v _) => routineFault code v
      | .error x => throw x
      | .ok none => raiseIll
      | .ok (some (vs, n)) => do
        -- the agent charges each instruction that it runs (R378); until the budget covers them, nothing of it stands
        if !s.admits (s.colonyOf s.cur) 5 n then throw .retry
        modify fun s => s.charge (s.colonyOf s.cur) 5 n
        writeResults o.a vs
    else do
      raiseIf (!Cap.has c.val Cap.gl) cPerm va
      checkPeer p
      let ans ← askPacket (requestPacket s p 8 0 (Cap.tenant c.val) (.agent slot c xs) [] false)
      match ans.op with
      | .values vs => writeResults o.a vs
      | .failAt code off => routineFault code (BitVec.ofNat 64 ((va + off) % 2 ^ 48).toNat)
      | .fail code v => if code = cIll then raiseIll else routineFault code v
      | .unreachable => raise cPeer (p % 2 ^ 55)
      | _ => writeResults o.a []) s

/-! ## `nmld` (R345) -/

/-- Register numbers of an instruction that an agent runs, or none for another instruction. -/
def agentRegs (i : Instr) : Option (List Nat) :=
  let rrc := fun (o : OpRRC) => some ([o.a.toNat, o.b.toNat] ++ (o.c.map (·.toNat)).toList)
  let rrr := fun (o : OpRRR) => some [o.a.toNat, o.b.toNat, o.c.toNat]
  match i with
  | .hold _ => some []
  | .mov o => some [o.a.toNat, o.b.toNat]
  | .add o => rrc o
  | .sub o => rrc o
  | .and o => rrc o
  | .or o => rrc o
  | .xor o => rrc o
  | .shl o => rrc o
  | .shr o => rrc o
  | .sra o => rrc o
  | .mul o => rrc o
  | .addi o => some [o.a.toNat]
  | .movi o => some [o.a.toNat]
  | .andi o => some [o.a.toNat]
  | .shli o => some [o.a.toNat]
  | .shri o => some [o.a.toNat]
  | .srai o => some [o.a.toNat]
  | .ceq o => rrc o
  | .clt o => rrc o
  | .cltn o => rrc o
  | .sel o => rrr o
  | .bz o => some [o.a.toNat]
  | .bnz o => some [o.a.toNat]
  | .blt o => some [o.a.toNat, o.b.toNat]
  | .bge o => some [o.a.toNat, o.b.toNat]
  | .bltn o => some [o.a.toNat, o.b.toNat]
  | .bgen o => some [o.a.toNat, o.b.toNat]
  | .j _ => some []
  | .ret _ => some []
  | .ld o _ => some [o.a.toNat, o.b.toNat]
  | .st o _ => some [o.a.toNat, o.b.toNat]
  | .amoAdd o _ => rrr o
  | .amoAnd o _ => rrr o
  | .amoOr o _ => rrr o
  | .amoXor o _ => rrr o
  | .amoMin o _ => rrr o
  | .amoMax o _ => rrr o
  | .amoMinn o _ => rrr o
  | .amoMaxn o _ => rrr o
  | .amoSwap o _ => rrr o
  | .cas o _ => some [o.a.toNat, o.a.toNat + 1, o.b.toNat, o.c.toNat]
  | _ => none

/-- The branch offset of an instruction, in words. -/
def branchOffset (i : Instr) : Option Int :=
  match i with
  | .bz o => some (Imm.int o.imm)
  | .bnz o => some (Imm.int o.imm)
  | .blt o => some (Imm.int o.imm)
  | .bge o => some (Imm.int o.imm)
  | .bltn o => some (Imm.int o.imm)
  | .bgen o => some (Imm.int o.imm)
  | .j o => some (Imm.int o.imm)
  | _ => none

/-- Whether a modifier asks for plain order, core scope and no hint (R345, reason 6). -/
def plainAccess (i : Instr) : Bool :=
  let mem := fun (m : MemMod) => m.ord = 0 && m.scope = 1 && !m.nt
  let amo := fun (m : AmoMod) => m.ord = 0 && m.scope = 1
  match i with
  | .ld _ m => mem m
  | .st _ m => mem m
  | .cas _ m => mem m
  | .amoAdd _ m => amo m
  | .amoAnd _ m => amo m
  | .amoOr _ m => amo m
  | .amoXor _ m => amo m
  | .amoMin _ m => amo m
  | .amoMax _ m => amo m
  | .amoMinn _ m => amo m
  | .amoMaxn _ m => amo m
  | .amoSwap _ m => amo m
  | _ => true

/-- The positions of the words that begin an instruction. -/
def instrStarts : Nat → Nat → List IWord → List Nat
  | 0, _, _ => []
  | fuel + 1, at_, ws =>
    if ws.isEmpty then [] else at_ :: instrStarts fuel (at_ + chainLength ws) (ws.drop (chainLength ws))

/-- The first reason of R345 for which one instruction fails; `k` is its number among the instructions. -/
def instrReason (ws : List IWord) (starts : List Nat) (pos k : Nat) : Option Nat :=
  let rest := ws.drop pos
  let len := chainLength rest
  if (rest.take len).length < len then some 7
  else if (rest.take len).any fun w => isChainWord w && w.toNat / 256 % 64 = 0x3C then some 2
  else match decodeWords (rest.take len) with
    | some (.ok i) =>
      match agentRegs i with
      | none => some 2
      | some rs =>
        if rs.any fun r => r > 15 then some 3
        else if k ≥ 32 then some 4
        else match branchOffset i with
          | some d =>
            if starts.contains ((pos : Int) + d).toNat && (pos : Int) + d ≥ 0 then
              if plainAccess i then none else some 6
            else some 5
          | none => if plainAccess i then none else some 6
    | _ => some 2

/-- `Validate` of R345: 0, or the first failing word with its reason. -/
def validateImage (n : Nat) (ws : List IWord) : Word :=
  if n > 63 then BitVec.ofNat 64 (2 ^ 63 + 1)
  else
    let starts := instrStarts 64 0 ws
    match starts.zipIdx.findSome? (fun e => (instrReason ws starts e.1 e.2).map fun r => (e.1, r)) with
    | none => 0
    | some (pos, r) => BitVec.ofNat 64 (2 ^ 63 + pos * 256 + r)

/-- `nmld` (R345). Without a PXR, A holds the slot number. Log 36 (DEDUCED). -/
def execNmld (o : OpRRC) (s : State) : Host.Outcome State Fault Refusal :=
  let known : M Unit := do
    let x ← peekX o.x
    illIf (x.toNat ≥ 64)
    needMode .supervisor
  runPriv ⟨o.st, 0, .joint, twoSource 0 o⟩ known (do
    let x ← readX 0 o.x
    let c ← readW 1 o.y
    let _ ← checkAccess c Cap.ld [Cap.kMemory] 128
    let s ← get
    let t := s.self
    match lookupD none s.units.agentSlots x.toNat with
    | some a => raiseIf (a.owner ≠ t.tid && t.mode ≠ .hypervisor) cPerm (Cap.cursor c.val)
    | none => pure ()
    let bs ← readRange c 128 Manner.plain
    let n := leNat (bs.take 2)
    let ws := (bytesToWords (bs.drop 2)).take n
    let status := validateImage n ws
    if status = 0 then
      let slot : Option AgentSlot := if n = 0 then none else some ⟨t.tid, ws⟩
      modify fun s => { s with units := { s.units with
        agentSlots := storeAt none x.toNat slot s.units.agentSlots } }
    writeX o.a status) s

end Sys2Proof.Machine
end

