-- ==== Sys2Proof/Machine/HostPath.lean ====
section
/-! DEFINITION. The host path: accesses through BAR2 and BAR0 of a function, and the host's part in sys groups (R353, R360,
R367). -/

namespace Sys2Proof.Machine

/-- What a host access receives. -/
def hostReply (r : HostReply) : M Unit := modify fun s =>
  { s with units := { s.units with hostOut := s.units.hostOut ++ [r] } }

/-- The source that a trace ring shows for a host's write (R165): the function, and the link in bit 6. -/
def hostSrc (fn : Nat) : BitVec 28 := BitVec.ofNat 28 ((if Config.hostLink fn then 64 else 0) + fn % 64)

/-- The colony that a virtual function serves (R367). -/
def State.vfColony (s : State) (fn : Nat) : Option (Nat × Colony) :=
  s.units.colonies.findSome? fun e => match e.2 with
    | some c => if c.vf = fn then some (e.1, c) else none
    | none => none

/-- Requests of a function to other packages that are not answered. -/
def State.hostBusy (s : State) (fn : Nat) : Bool := s.units.requests.any fun r => r.use = .host fn false || r.use = .host fn true

/-! ## Windows (R353) -/

/-- The pages of an access through a virtual function, up to `hi`, at most `fuel`: address, length, place and leaf. -/
def hostPages (id : Nat) (t : BitVec 12) (perm : BitVec 12) (hi : Nat) : Nat → Nat → M (List (Nat × Nat × Nat × Word))
  | 0, _ => pure []
  | fuel + 1, lo =>
    if lo ≥ hi then pure []
    else do
      let next := min hi ((lo / 65536 + 1) * 65536)
      let (p, e) ← translateFor 8 id t (lo % 2 ^ 48) perm
      let rest ← hostPages id t perm hi fuel next
      pure ((lo, next - lo, p, e) :: rest)

/-- The pages of an access; function 0 reaches local physical space without translation. -/
def hostPlaces (h : HostAccess) (n : Nat) (perm : BitVec 12) : M (List (Nat × Nat × Nat × Word)) := do
  let s ← get
  if h.fn = 0 then do
    raiseIf (h.addr + n > 2 ^ 41) cXlat h.addr
    pure [(h.addr, n, s.globalOf h.addr, 0)]
  else
    match s.vfColony h.fn with
    | none => raise cXlat h.addr
    | some (id, c) => hostPages id c.tenant perm (h.addr + n) (n / 65536 + 2) h.addr

/-- Whether an access of function 0 is one of the mailbox: its 8 aligned bytes (R360). -/
def mailboxAccess (h : HostAccess) (n : Nat) : Bool :=
  h.fn = 0 && n = 8 && h.addr % 8 = 0 && mailboxOff + 0x1F000000000 ≤ h.addr && h.addr < mailboxOff + 0x1F000000000 + 65536

/-- Bytes of this package as a host reads them. -/
def hostBytes (a n : Nat) : M (List Byte) := do
  let parts ← (splitAt 128 (n / 128 + 2) a (List.replicate n 0)).mapM fun q => pathRead q.1 q.1 q.2.length
  pure parts.flatten

/-- A read, page by page. What lies beyond a page of another package waits for its answer. -/
def hostReadPages (h : HostAccess) : List (Nat × Nat × Nat × Word) → M Unit
  | [] => pure ()
  | (lo, n, p, e) :: rest => do
    let p ← mirrorLoad p e
    let s ← get
    if s.units.lost.contains (pkgOf p) then hostReply (.completerAbort h.fn)
    else if pkgOf p ≠ s.pkg then do
      let k := min n (448 - p % 64)
      let tenant : BitVec 12 := match s.vfColony h.fn with
        | some (_, c) => c.tenant
        | none => 0
      let left := h.addr + h.n - (lo + k)
      let _ ← sendRequest (requestPacket s p 1 0 tenant (.read k) [] false) s.cur (.host h.fn (left ≠ 0))
      if left = 0 then pure ()
      else modify fun s => { s with units := { s.units with
        hostWaiting := { h with addr := lo + k, n := left } :: s.units.hostWaiting } }
    else do
      let r ← attempt (hostBytes (localOf p) n)
      match r with
      | .ok bs => do
        hostReply (.data h.fn bs)
        hostReadPages h rest
      | .error (.stop f) => throw (.stop f)
      | .error _ => hostReply (.completerAbort h.fn)

/-- Bytes that a host writes at a translated place. -/
def hostPut (fn : Nat) (tenant : BitVec 12) (va p : Nat) (e : Word) (bs : List Byte) : M Unit := do
  let s ← get
  let w : Posted := { path := 6, src := hostSrc fn, use := fun _ => .host fn false, lost := raise cPeer p }
  if pteM e then putMirrored w va p bs tenant
  else if pkgOf p ≠ s.pkg then putAway w p bs tenant false false
  else
    for q in splitAt 128 (bs.length / 128 + 2) (localOf p) bs do
      pathDeliver q.1 q.1 q.2 (hostSrc fn) 6

/-! ## BAR0 (R367) -/

/-- The sys group whose register lies at an offset of BAR0. -/
def hostGroup (off : Nat) : Option Nat := if off % 8 = 0 && off / 8 < 16 then some (off / 8) else none

/-- A write to BAR0: the host arrives at a sys group of the colony of which it is a member. -/
def hostBarrier (fn off : Nat) : M Unit := do
  let s ← get
  match s.vfColony fn with
  | none => hostReply (.unsupported fn)
  | some (id, c) => do
    match hostGroup off with
    | none => pure ()
    | some g =>
      if c.hostMember && c.job ≠ 0 then do
        modify fun s => s.withColony id (some { c with hostArrived := c.hostArrived ||| (1#16 <<< g) })
        match s.running.find? (fun b => s.jobOf b = c.job) with
        | some b => testPhase 6 g b
        | none => pure ()
      else pure ()
    hostReply (.done fn)

/-- A read of BAR0. -/
def hostCount (h : HostAccess) (c : Colony) : List Byte :=
  match hostGroup h.addr with
  | some g => if h.n = 8 then leBytes 8 (lookupD 0 c.hostPhases g) else List.replicate h.n 0
  | none => List.replicate h.n 0

/-! ## Accesses -/

/-- An access of a function waits while an earlier one of it is not answered (R353). Log 76 (DESIGN CHOICE). -/
def inOrder (h : HostAccess) (act : M Unit) : M Unit := do
  let s ← get
  if s.hostBusy h.fn then modify fun s => { s with units := { s.units with hostWaiting := s.units.hostWaiting ++ [h] } }
  else act

/-- Whether an access has a target (R353, R367): BAR2 of function 0, or the function of a colony. -/
def State.hostServed (s : State) (h : HostAccess) : Bool :=
  if h.fn = 0 then !h.bar0 else (s.vfColony h.fn).isSome

/-- A host read. Log 76 (DESIGN CHOICE). -/
def hostRead (h : HostAccess) : M Unit := inOrder h (do
  let s ← get
  if !s.hostServed h then hostReply (.unsupported h.fn)
  else if h.bar0 then
    match s.vfColony h.fn with
    | some (_, c) => hostReply (.data h.fn (hostCount h c))
    | none => pure ()
  else if mailboxAccess h h.n then do
    let bs ← mailboxRead (h.addr - 0x1F000000000 - mailboxOff)
    hostReply (.data h.fn bs)
  else do
    let r ← attempt (asStrand 16384 (hostPlaces h h.n Cap.ld))
    match r with
    | .ok ps => asStrand 16384 (hostReadPages h ps)
    | .error (.stop f) => throw (.stop f)
    | .error _ => hostReply (.completerAbort h.fn))

/-- A host write. Log 76 (DESIGN CHOICE). -/
def hostWrite (h : HostAccess) : M Unit := inOrder h (do
  let s ← get
  if !s.hostServed h then hostReply (.unsupported h.fn)
  else if h.bar0 then hostBarrier h.fn h.addr
  else if mailboxAccess h h.bytes.length then do
    mailboxWrite (h.addr - 0x1F000000000 - mailboxOff) h.bytes
    hostReply (.done h.fn)
  else do
    let tenant : BitVec 12 := match s.vfColony h.fn with
      | some (_, c) => c.tenant
      | none => 0
    let r ← attempt (asStrand 16384 (do
      let ps ← hostPlaces h h.bytes.length Cap.st
      for e in pieceBytes h.addr ps h.bytes do
        hostPut h.fn tenant e.1 e.2.1 e.2.2.1 e.2.2.2))
    match r with
    | .ok _ => do
      let s ← get
      if s.hostBusy h.fn then pure () else hostReply (.done h.fn)
    | .error (.stop f) => throw (.stop f)
    | .error _ => hostReply (.completerAbort h.fn))

/-- The oldest access of a function that waits comes next. -/
def hostNext (fn : Nat) : M Unit := modify fun s =>
  match s.units.hostWaiting.find? (fun h => h.fn = fn) with
  | none => s
  | some h => { s with
    agenda := (if h.bytes.isEmpty then Event.hostRead h else Event.hostWrite h) :: s.agenda
    units := { s.units with hostWaiting := s.units.hostWaiting.erase h } }

/-- The answer of another package to a host access. One that fails ends the access, with what was to follow of it. Log 76 (DESIGN CHOICE). -/
def hostAnswer (fn : Nat) (more read failed : Bool) (data : List Byte) : M Unit := do
  if failed then do
    modify fun s => { s with units := { s.units with
      requests := s.units.requests.filter fun r => r.use ≠ .host fn false && r.use ≠ .host fn true
      hostWaiting := match s.units.hostWaiting.find? (fun h => h.fn = fn) with
        | some h => if more then s.units.hostWaiting.erase h else s.units.hostWaiting
        | none => s.units.hostWaiting } }
    hostReply (.completerAbort fn)
  else if read then hostReply (.data fn data)
  else do
    let s ← get
    if s.hostBusy fn then pure () else hostReply (.done fn)
  let s ← get
  if s.hostBusy fn then pure () else hostNext fn

/-- `HOST_READ` (R353). -/
def execHostRead (s : State) : Host.Outcome State Fault Refusal :=
  match s.now with
  | .hostRead h => runEvent (hostRead h) s
  | _ => .next s

/-- `HOST_WRITE` (R353). -/
def execHostWrite (s : State) : Host.Outcome State Fault Refusal :=
  match s.now with
  | .hostWrite h => runEvent (hostWrite h) s
  | _ => .next s

/-- `HOST_BARRIER_WRITE` (R367). -/
def execHostBarrierWrite (s : State) : Host.Outcome State Fault Refusal :=
  match s.now with
  | .hostBarrierWrite fn off => runEvent (hostBarrier fn off) s
  | _ => .next s

end Sys2Proof.Machine
end

