-- ==== Sys2Proof/Machine/Intersect.lean ====
section
/-! DEFINITION. The intersection unit (R251 to R256). -/

namespace Sys2Proof.Machine

/-- Whether no further pair can come: a list is used up, or an error has stopped the stream. -/
def Stream.finished (x : Stream) : Bool := x.stopped.isSome || x.i ≥ x.n1 || x.j ≥ x.n2

/-- What reading an element comes to. -/
inductive ElementRead where
  | value (v : Nat)
  | asked
  | failed (cause : BitVec 8) (addr : Word)
  deriving DecidableEq, Repr

/-- Reads an element of a list at its home, on the index path (R251). Log 46 (DEDUCED). -/
def readElement (sid : Nat) (second : Bool) (c : Reg) (k : Nat) : M ElementRead := do
  let a := (Cap.cursor c.val + 8 * k) % 2 ^ 48
  let va := BitVec.ofNat 64 a
  let s ← get
  let r ← attempt (translateFor (microTlb sid) (s.colonyOf sid) (Cap.tenant c.val) a Cap.ld)
  match r with
  | .error (.trap code _ _) => pure (.failed code va)
  | .error e => throw e
  | .ok (p, pte) => do
    let p ← mirrorLoad p pte
    let s ← get
    if s.units.lost.contains (pkgOf p) then pure (.failed cPeer (BitVec.ofNat 64 (p % 2 ^ 55)))
    else if pkgOf p ≠ s.pkg then do
      let _ ← asStrand sid (do
        let s ← get
        sendRequest (requestPacket s p 1 0 (Cap.tenant c.val) (.read 8) [] false) sid (.index second))
      pure .asked
    else
      let b := localOf p
      match place b with
      | .window .. => pure (.failed cPerm va)
      | .port _ => pure (.failed cPerm va)
      | .aliasWindow _ => pure (.failed cPerm va)
      | .reserved => pure (.failed cXlat va)
      | _ =>
        if s.badAt b ≠ 0 then pure (.failed (s.badAt b) va)
        else do
          let bs ← homeRead b 8
          pure (.value (leNat bs))

/-- Replaces a strand's stream. -/
def setStream (sid : Nat) (x : Stream) : M Unit := modStrand sid fun t => { t with stream := some x }

/-- One comparison of the merge (R253). -/
def Stream.compare (x : Stream) (a b : Nat) : Stream :=
  if a < b then { x with i := x.i + 1, headA := none }
  else if b < a then { x with j := x.j + 1, headB := none }
  else { x with i := x.i + 1, j := x.j + 1, headA := none, headB := none, pairs := x.pairs ++ [(x.i, x.j)] }

/-- Advances a strand's stream: reads the element that is missing, or compares; it goes on until the stream is finished
or waits for another package. -/
def mergeStep (sid : Nat) : M Unit := do
  let t ← getStrand sid
  match t.stream with
  | none => pure ()
  | some x =>
    if x.finished then pure ()
    else
      let fetch := fun (second : Bool) (c : Reg) (k : Nat) => do
        let r ← readElement sid second c k
        match r with
        | .value v => do
          setStream sid (if second then { x with headB := some v } else { x with headA := some v })
          post (.ixMergeStep sid)
        | .asked => pure ()
        | .failed c v => setStream sid { x with stopped := some (c, v) }
      match x.headA, x.headB with
      | none, _ => fetch false x.capA x.i
      | _, none => fetch true x.capB x.j
      | some a, some b => do
        setStream sid (x.compare a b)
        post (.ixMergeStep sid)

/-- Elements of a list from a capability (R252), after its Check, which translates the cursor (R77); what lies further is translated
as it is read (R253). -/
def listLength (c : Reg) : M Nat := do
  let a := Cap.cursor c.val
  raiseIf (a % 8 ≠ 0) cAlign a
  let n := ((Cap.top c.val - a) / 8).toNat
  checkCap c Cap.ld [Cap.kMemory] (8 * n)
  let _ ← translate (Cap.tenant c.val) a Cap.ld
  pure n

/-- `ixs` (R252). Log 91 (DEDUCED). -/
def execIxs (o : OpRR) (s : State) : Host.Outcome State Fault Refusal :=
  runOp ⟨o.st, 0, .access, [wSrc o.a, wSrc o.b]⟩ (do
    let a ← readW 0 o.a
    let b ← readW 1 o.b
    let n1 ← listLength a
    let n2 ← listLength b
    let sid ← curSid
    -- elements that an earlier stream has asked for go nowhere
    modify fun s => { s with units := { s.units with
      requests := s.units.requests.filter fun r => !(r.sid = sid && (r.use = .index false || r.use = .index true)) } }
    setStream sid { capA := a, capB := b, n1 := n1, n2 := n2, i := 0, j := 0, headA := none, headB := none, pairs := [],
                    nextA := 0, nextB := 0, stopped := none }
    post (.ixMergeStep sid)) s

/-- `ixget` (R254). -/
def execIxget (o : OpRRR) (s : State) : Host.Outcome State Fault Refusal :=
  runPriv ⟨o.st, 0, .lanes, [wDst o.a, vDst o.b, vDst o.c]⟩ (do
    let t ← self
    illIf (t.vec.lanes.isEmpty || t.stream.isNone || o.b = o.c)) (do
    let t ← self
    match t.stream with
    | none => raiseIll
    | some x => do
      let n := t.effective 64
      if n = 0 then writeX o.a 0
      else do
        if x.pairs.length < n && !x.finished then throw .retry
        let ps := x.pairs.take n
        match ps.getLast?, x.stopped with
        | none, some (c, v) => do
          modSelf fun t => { t with faddr := BitVec.ofNat 64 (v.toNat % 2 ^ 48) }
          throw (.trapKeep c v none)
        | last, _ => do
          writeV o.b 64 fun e => if e < n then some (ps.getD e (0, 0)).1 else none
          writeV o.c 64 fun e => if e < n then some (ps.getD e (0, 0)).2 else none
          let sid ← curSid
          setStream sid { x with
            pairs := x.pairs.drop n
            nextA := match last with
              | some p => p.1 + 1
              | none => x.nextA
            nextB := match last with
              | some p => p.2 + 1
              | none => x.nextB }
          writeX o.a (BitVec.ofNat 64 ps.length)) s

/-- `ixst` (R255). -/
def execIxst (o : OpRR) (s : State) : Host.Outcome State Fault Refusal :=
  runOp ⟨o.st, 0, .access, [wDst o.a, wDst o.b]⟩ (do
    let t ← self
    match t.stream with
    | none => do
      writeX o.a 0
      writeX o.b 0
    | some x => do
      writeX o.a (BitVec.ofNat 64 (2 ^ 63 + (if x.finished then 2 ^ 62 else 0) + x.nextA % 2 ^ 48))
      writeX o.b (BitVec.ofNat 64 (x.nextB % 2 ^ 48))) s

end Sys2Proof.Machine
end

