-- ==== Sys2Proof/Machine/Vector.lean ====
section
/-! DEFINITION. Page 2 less vector memory: lane management, elementwise arithmetic, compares, masks, moves, reductions,
scans and conversions (R182 to R185, R192 to R204). -/

namespace Sys2Proof.Machine

open Sys2Proof.Machine.Float (Value Format)

/-! ## Element operations -/

/-- The container width of an element type (R177): E2M1 elements stand in 8 bits. -/
def ElType.lane : ElType → Nat
  | .int b _ => b
  | .fp f => max 8 f.width

/-- The width of a modifier's type. -/
def laneWidth (m : VecMod) : Nat := (elTypeOf m).lane

/-- A value rounded for destination element `e` (R181, R61), with the flags that came with it. -/
def Strand.roundElement (t : Strand) (f : Format) (mode e : Nat) (x : Value × Nat) : Nat × Nat :=
  let per := 64 / max 8 f.width
  let (c, fl) := Float.round f mode (t.drawn (e / per) (e % per)) x.1
  (c, x.2 ||| fl)

/-- `min` or `max` of two patterns of an integer type. -/
def intPick (larger : Bool) (w : Nat) (signed : Bool) (x y : Nat) : Nat :=
  let lt := Float.patInt w signed x < Float.patInt w signed y
  if lt != larger then x else y

/-- The latency of a dual-form major (R43). -/
def dualLatency (m : VecMod) : Nat := if m.rnd = 5 then 2 else 5

/-- A two-source elementwise instruction (R193): `int` on patterns of `w` bits, `fp` exact before its one rounding. -/
def vecArith (o : OpRRC) (m : VecMod) (int : Nat → Bool → Nat → Nat → Nat) (fp : Nat → Value → Value → Value × Nat)
    (s : State) : Host.Outcome State Fault Refusal :=
  runPriv ⟨o.st, dualLatency m, .lanes, twoSource 1 o ++ maskUse m.mask⟩ needGrant (do
    let x ← readV 0 o.x
    let y ← readV 1 o.y
    let k ← readK 2 m.mask.toNat
    let t ← self
    let start := t.vec.vstart
    match elTypeOf m with
    | .int w signed => do
      useLanes w start (t.effective w)
      writeElements o.a w start (t.effective w) m.zero k fun e => (int w signed (elAt x w e) (elAt y w e), 0)
    | .fp f => do
      let w := f.width
      let mode := t.roundingMode m.rnd.toNat false
      useLanes w start (t.effective w)
      stepSeeds mode
      let t ← self
      writeElements o.a w start (t.effective w) m.zero k fun e =>
        t.roundElement f mode e (fp mode (Float.decode f (elAt x w e)) (Float.decode f (elAt y w e)))) s

/-- An integer form alone, whose major has no FP form. -/
def noFloat (_ : Nat) (x _ : Value) : Value × Nat := (x, 0)

/-- A compare into a mask register (R195). -/
def vecCompare (o : OpRRC) (m : VecMod) (quiet : Bool) (f : Bool → Bool → Bool) (s : State) :
    Host.Outcome State Fault Refusal :=
  let regs := match o.c with
    | none => [vSrc o.a, vSrc o.b, kDst o.a.toNat]
    | some c => [vSrc o.b, vSrc c, kDst o.a.toNat]
  runPriv ⟨o.st, dualLatency m, .lanes, regs ++ maskUse m.mask⟩ needGrant (do
    let x ← readV 0 o.x
    let y ← readV 1 o.y
    let k ← readK 2 m.mask.toNat
    let t ← self
    let w := laneWidth m
    let start := t.vec.vstart
    let n := t.effective w
    let one := fun (e : Nat) => match elTypeOf m with
      | .int w signed =>
        let a := Float.patInt w signed (elAt x w e)
        let b := Float.patInt w signed (elAt y w e)
        (f (a < b) (a = b), 0)
      | .fp ft =>
        let a := Float.decode ft (elAt x w e)
        let b := Float.decode ft (elAt y w e)
        let unordered := a = Value.nan || b = Value.nan
        let (lt, eq) := Float.compare a b
        (!unordered && f lt eq, if unordered && !quiet then Float.fNv else 0)
    useLanes w start n
    let old := t.mask o.a.toNat
    let v := (List.range n).foldl (fun (acc : BitVec 512 × Nat) e =>
      let bit := fun (b : Bool) => if b then acc.1 ||| (1#512 <<< e) else acc.1 &&& ~~~ (1#512 <<< e)
      if e < start then acc
      else if k.getLsbD e then (bit (one e).1, acc.2 ||| (one e).2)
      else if m.zero then (bit false, acc.2)
      else acc) (old, 0)
    writeK o.a.toNat v.1
    setFlags v.2
    modSelf fun t => { t with vec := { t.vec with vstart := 0 } }) s

/-! ## Lane management (R182 to R185) -/

/-- `vclaim` (R182). -/
def execVclaim (o : OpRR) (s : State) : Host.Outcome State Fault Refusal :=
  runOp ⟨o.st, 0, .joint, [wDst o.a, wSrc o.b]⟩ (do
    let x ← readX 0 o.b
    waitForLanes
    let sid ← curSid
    let g ← claimLanes sid (claimRequest x.toNat)
    writeX o.a (BitVec.ofNat 64 g)) s

/-- `vrel` (R183). -/
def execVrel (s : State) : Host.Outcome State Fault Refusal :=
  runOp ⟨wordS (s.self.ir.getLastD 0), 0, .joint, []⟩ (do
    waitForLanes
    releaseLanes) s

/-- `vsetl` (R184). -/
def execVsetl (o : OpRR) (m : VecMod) (s : State) : Host.Outcome State Fault Refusal :=
  runOp ⟨o.st, 0, .lanes, [wDst o.a, wSrc o.b]⟩ (do
    let x ← readX 0 o.b
    let t ← self
    let n := min x.toNat (t.cap (laneWidth m))
    modSelf fun t => { t with vec := { t.vec with vlen := n, vstart := 0 } }
    writeX o.a (BitVec.ofNat 64 n)) s

/-- `vseed` (R185). -/
def execVseed (o : OpRR) (s : State) : Host.Outcome State Fault Refusal :=
  runPriv ⟨o.st, 0, .lanes, [vDst o.a, vSrc o.b]⟩ needGrant (do
    let b ← readV 0 o.b
    let t ← self
    let g := t.vec.lanes.length
    spendBudget 1 g
    let old := t.vec.seeds
    let seeds := (List.range g).foldl (fun m p =>
      let x := (b.getD p 0).setWidth 32
      storeAt 0 p (if x = 0 then 1 else x) m) old
    modSelf fun t => { t with vec := { t.vec with seeds := seeds } }
    writeV o.a 64 fun p => some (lookupD 0 old p).toNat) s

/-! ## Conflict detection (R192) -/

/-- `vconf`. -/
def execVconf (o : OpRR) (m : VecMod) (s : State) : Host.Outcome State Fault Refusal :=
  runPriv ⟨o.st, 4, .lanes, [vDst o.a, vSrc o.b] ++ maskUse m.mask⟩ needStart (do
    let b ← readV 0 o.b
    let k ← readK 1 m.mask.toNat
    let t ← self
    let w := laneWidth m
    let n := t.effective w
    useLanes w 0 n
    writeElements o.a w 0 n m.zero k fun e =>
      match ((List.range e).filter fun e' => k.getLsbD e' && elAt b w e' = elAt b w e).getLast? with
      | some e' => (e', 0)
      | none => (2 ^ w - 1, 0)) s

/-! ## Elementwise arithmetic (R193, R194) -/

/-- `vadd`. -/
def execVadd (o : OpRRC) (m : VecMod) (s : State) : Host.Outcome State Fault Refusal :=
  vecArith o m (fun _ _ x y => x + y) Float.add s

/-- `vsub`. -/
def execVsub (o : OpRRC) (m : VecMod) (s : State) : Host.Outcome State Fault Refusal :=
  vecArith o m (fun w _ x y => x + (2 ^ w - y)) (fun r x y => Float.add r x (Float.neg y)) s

/-- `vmul`. -/
def execVmul (o : OpRRC) (m : VecMod) (s : State) : Host.Outcome State Fault Refusal :=
  vecArith o m (fun _ _ x y => x * y) (fun _ x y => Float.mul x y) s

/-- `vmin`. -/
def execVmin (o : OpRRC) (m : VecMod) (s : State) : Host.Outcome State Fault Refusal :=
  vecArith o m (intPick false) (fun _ x y => (Float.minimum x y, 0)) s

/-- `vmax`. -/
def execVmax (o : OpRRC) (m : VecMod) (s : State) : Host.Outcome State Fault Refusal :=
  vecArith o m (intPick true) (fun _ x y => (Float.maximum x y, 0)) s

/-- `vand`. -/
def execVand (o : OpRRC) (m : VecMod) (s : State) : Host.Outcome State Fault Refusal :=
  vecArith o m (fun _ _ x y => x &&& y) noFloat s

/-- `vor`. -/
def execVor (o : OpRRC) (m : VecMod) (s : State) : Host.Outcome State Fault Refusal :=
  vecArith o m (fun _ _ x y => x ||| y) noFloat s

/-- `vxor`. -/
def execVxor (o : OpRRC) (m : VecMod) (s : State) : Host.Outcome State Fault Refusal :=
  vecArith o m (fun _ _ x y => x ^^^ y) noFloat s

/-- `vshl`. -/
def execVshl (o : OpRRC) (m : VecMod) (s : State) : Host.Outcome State Fault Refusal :=
  vecArith o m (fun w _ x y => x <<< (y % w)) noFloat s

/-- `vshr`. -/
def execVshr (o : OpRRC) (m : VecMod) (s : State) : Host.Outcome State Fault Refusal :=
  vecArith o m (fun w _ x y => x >>> (y % w)) noFloat s

/-- `vsra`: filled with bit `w - 1`, whatever the type. -/
def execVsra (o : OpRRC) (m : VecMod) (s : State) : Host.Outcome State Fault Refusal :=
  vecArith o m (fun w _ x y => (Float.patInt w true x / 2 ^ (y % w) % 2 ^ w).toNat) noFloat s

/-- `vfma` (R194). -/
def execVfma (o : OpRRR) (m : VecMod) (s : State) : Host.Outcome State Fault Refusal :=
  runPriv ⟨o.st, 5, .lanes, [vBoth o.a, vSrc o.b, vSrc o.c] ++ maskUse m.mask⟩ needGrant (do
    let a ← readV 0 o.a
    let b ← readV 1 o.b
    let c ← readV 2 o.c
    let k ← readK 3 m.mask.toNat
    let t ← self
    let f := fpFormat m.ty
    let w := f.width
    let start := t.vec.vstart
    let mode := t.roundingMode m.rnd.toNat false
    useLanes w start (t.effective w)
    stepSeeds mode
    let t ← self
    writeElements o.a w start (t.effective w) m.zero k fun e =>
      t.roundElement f mode e
        (Float.fma mode (Float.decode f (elAt a w e)) (Float.decode f (elAt b w e)) (Float.decode f (elAt c w e)))) s

/-! ## Compares, select and masks (R195 to R197) -/

/-- `vceq`. -/
def execVceq (o : OpRRC) (m : VecMod) (s : State) : Host.Outcome State Fault Refusal :=
  vecCompare o m true (fun _ eq => eq) s

/-- `vclt`. -/
def execVclt (o : OpRRC) (m : VecMod) (s : State) : Host.Outcome State Fault Refusal :=
  vecCompare o m false (fun lt _ => lt) s

/-- `vcle`. -/
def execVcle (o : OpRRC) (m : VecMod) (s : State) : Host.Outcome State Fault Refusal :=
  vecCompare o m false (fun lt eq => lt || eq) s

/-- `vsel` (R196): the mask selects. -/
def execVsel (o : OpRRR) (m : VecMod) (s : State) : Host.Outcome State Fault Refusal :=
  runPriv ⟨o.st, 2, .lanes, [vDst o.a, vSrc o.b, vSrc o.c] ++ maskUse m.mask⟩ needGrant (do
    let b ← readV 0 o.b
    let c ← readV 1 o.c
    let k ← readK 2 m.mask.toNat
    let t ← self
    let w := laneWidth m
    let start := t.vec.vstart
    let n := t.effective w
    useLanes w start n
    writeElements o.a w start n false (BitVec.allOnes 512) fun e =>
      (if k.getLsbD e then elAt b w e else elAt c w e, 0)) s

/-- The two-source mask instructions (R197). -/
def maskLogic (o : OpRRC) (f : BitVec 512 → BitVec 512 → BitVec 512) (s : State) : Host.Outcome State Fault Refusal :=
  runPriv ⟨o.st, 2, .execute, twoSource 2 o⟩ needGrant (do
    let x ← readK 0 o.x.toNat
    let y ← readK 1 o.y.toNat
    writeK o.a.toNat (f x y)) s

/-- `kand`. -/
def execKand (o : OpRRC) (s : State) : Host.Outcome State Fault Refusal := maskLogic o (fun x y => x &&& y) s

/-- `kor`. -/
def execKor (o : OpRRC) (s : State) : Host.Outcome State Fault Refusal := maskLogic o (fun x y => x ||| y) s

/-- Bits below `vlen` that a mask holds, ascending. -/
def bitsBelow (k : BitVec 512) (n : Nat) : List Nat := (List.range n).filter fun e => k.getLsbD e

/-- `kpop`. -/
def execKpop (o : OpRR) (s : State) : Host.Outcome State Fault Refusal :=
  runPriv ⟨o.st, 2, .execute, [wDst o.a, kSrc o.b.toNat]⟩ needGrant (do
    let k ← readK 0 o.b.toNat
    let t ← self
    writeX o.a (BitVec.ofNat 64 (bitsBelow k t.vec.vlen).length)) s

/-- `kfirst`. -/
def execKfirst (o : OpRR) (s : State) : Host.Outcome State Fault Refusal :=
  runPriv ⟨o.st, 2, .execute, [wDst o.a, kSrc o.b.toNat]⟩ needGrant (do
    let k ← readK 0 o.b.toNat
    let t ← self
    writeX o.a (match (bitsBelow k t.vec.vlen).head? with
      | some e => BitVec.ofNat 64 e
      | none => BitVec.allOnes 64)) s

/-! ## Moving elements (R198 to R200) -/

/-- `vbc`. -/
def execVbc (o : OpRR) (m : VecMod) (s : State) : Host.Outcome State Fault Refusal :=
  runPriv ⟨o.st, 3, .lanes, [vDst o.a, wSrc o.b] ++ maskUse m.mask⟩ needGrant (do
    let b ← readX 0 o.b
    let k ← readK 1 m.mask.toNat
    let t ← self
    let w := laneWidth m
    let start := t.vec.vstart
    let n := t.effective w
    useLanes w start n
    writeElements o.a w start n m.zero k fun _ => (b.toNat, 0)) s

/-- A pattern of a type as a register result: sign-extended for `i` types, zero-extended otherwise. -/
def extendEl (ty : ElType) (x : Nat) : Word :=
  match ty with
  | .int b true => BitVec.ofInt 64 (Float.patInt b true x)
  | .int b false => BitVec.ofNat 64 (x % 2 ^ b)
  | .fp _ => BitVec.ofNat 64 x

/-- `vxt`: one element, up to the capacity. -/
def execVxt (o : OpRRR) (m : VecMod) (s : State) : Host.Outcome State Fault Refusal :=
  runPriv ⟨o.st, 3, .lanes, [wDst o.a, vSrc o.b, wSrc o.c]⟩ needGrant (do
    let b ← readV 0 o.b
    let i ← readX 1 o.c
    let t ← self
    let w := laneWidth m
    spendBudget 1 1
    writeX o.a (extendEl (elTypeOf m) (if i.toNat < t.cap w then elAt b w i.toNat else 0))) s

/-- `vperm` (R199). -/
def execVperm (o : OpRRR) (m : VecMod) (s : State) : Host.Outcome State Fault Refusal :=
  runPriv ⟨o.st, 3, .lanes, [vDst o.a, vSrc o.b, vSrc o.c] ++ maskUse m.mask⟩ needStart (do
    let b ← readV 0 o.b
    let c ← readV 1 o.c
    let k ← readK 2 m.mask.toNat
    let t ← self
    let w := laneWidth m
    let n := t.effective w
    useLanes w 0 n
    writeElements o.a w 0 n m.zero k fun e =>
      let i := elAt c w e
      (if i < n then elAt b w i else 0, 0)) s

/-- `vcmpz` (R200). -/
def execVcmpz (o : OpRR) (m : VecMod) (s : State) : Host.Outcome State Fault Refusal :=
  runPriv ⟨o.st, 3, .lanes, [vDst o.a, vSrc o.b] ++ maskUse m.mask⟩ needStart (do
    let b ← readV 0 o.b
    let k ← readK 1 m.mask.toNat
    let t ← self
    let w := laneWidth m
    let n := t.effective w
    useLanes w 0 n
    let kept := (bitsBelow k n).map fun e => elAt b w e
    writeV o.a w fun e =>
      if e < n then (if e < kept.length then kept[e]? else if m.zero then some 0 else none) else none) s

/-- `vxpd` (R200). -/
def execVxpd (o : OpRR) (m : VecMod) (s : State) : Host.Outcome State Fault Refusal :=
  runPriv ⟨o.st, 3, .lanes, [vDst o.a, vSrc o.b] ++ maskUse m.mask⟩ needStart (do
    let b ← readV 0 o.b
    let k ← readK 1 m.mask.toNat
    let t ← self
    let w := laneWidth m
    let n := t.effective w
    useLanes w 0 n
    writeElements o.a w 0 n m.zero k fun e => (elAt b w (bitsBelow k e).length, 0)) s

/-! ## Reductions and scans (R201, R202) -/

/-- The operations of `vred` and `vscan`. -/
inductive FoldOp where
  | sum
  | min
  | max
  | and
  | or
  | xor
  deriving DecidableEq, Repr

/-- One step of an integer fold on patterns of `w` bits. -/
def FoldOp.int (op : FoldOp) (w : Nat) (signed : Bool) (x y : Nat) : Nat :=
  match op with
  | .sum => (x + y) % 2 ^ w
  | .min => intPick false w signed x y
  | .max => intPick true w signed x y
  | .and => x &&& y
  | .or => x ||| y
  | .xor => x ^^^ y

/-- The result with no active element: an integer pattern of `w` bits. -/
def FoldOp.intIdentity (op : FoldOp) (w : Nat) (signed : Bool) : Nat :=
  match op with
  | .min => if signed then 2 ^ (w - 1) - 1 else 2 ^ w - 1
  | .max => if signed then 2 ^ (w - 1) else 0
  | .and => 2 ^ w - 1
  | _ => 0

/-- The result with no active element: +0, +∞ or −∞. -/
def FoldOp.fpIdentity (op : FoldOp) (f : Format) : Nat :=
  match op with
  | .min => Float.infCode f false
  | .max => Float.infCode f true
  | _ => 0

/-- One step of an FP fold: the addition of element `e` is rounded with its lane's seed (R201). -/
def FoldOp.fp (op : FoldOp) (t : Strand) (f : Format) (mode e x y : Nat) : Nat × Nat :=
  let a := Float.decode f x
  let b := Float.decode f y
  match op with
  | .min => (Float.round f 0 0 (Float.minimum a b)).1 |> fun c => (c, 0)
  | .max => (Float.round f 0 0 (Float.maximum a b)).1 |> fun c => (c, 0)
  | _ => t.roundElement f mode e (Float.add mode a b)

/-- A NaN result is the canonical one (R52). -/
def canonicalEl (f : Format) (x : Nat) : Nat := if Float.decode f x = .nan then Float.canonicalNaN f else x

/-- The inclusive prefixes over the active elements below `n`: one entry for each element, with the flags. -/
def prefixes (n : Nat) (k : BitVec 512) (el : Nat → Nat) (step : Nat → Nat → Nat → Nat × Nat) :
    List Nat × Nat :=
  let r := (List.range n).foldl (fun (acc : Option Nat × List Nat × Nat) e =>
    if k.getLsbD e then
      match acc.1 with
      | none => (some (el e), el e :: acc.2.1, acc.2.2)
      | some a =>
        let (c, fl) := step e a (el e)
        (some c, c :: acc.2.1, acc.2.2 ||| fl)
    else (acc.1, acc.1.getD 0 :: acc.2.1, acc.2.2)) (none, [], 0)
  (r.2.1.reverse, r.2.2)

/-- `vred` with one operation (R201). Log 107 (DESIGN CHOICE). -/
def reduceElements (op : FoldOp) (o : OpRR) (m : VecMod) (s : State) : Host.Outcome State Fault Refusal :=
  runPriv ⟨o.st, 0, .lanes, [wDst o.a, vSrc o.b] ++ maskUse m.mask⟩ needStart (do
    let b ← readV 0 o.b
    let k ← readK 1 m.mask.toNat
    let t ← self
    let w := laneWidth m
    let n := t.effective w
    useLanes w 0 n
    match elTypeOf m with
    | .int w signed =>
      let active := bitsBelow k n
      if op = .sum then
        writeX o.a (BitVec.ofInt 64 (active.foldl (fun a e => a + Float.patInt w signed (elAt b w e)) 0))
      else
        let r := active.foldl (fun a e => op.int w signed a (elAt b w e)) (op.intIdentity w signed)
        writeX o.a (extendEl (elTypeOf m) r)
    | .fp f => do
      let mode := t.roundingMode m.rnd.toNat false
      stepSeeds mode
      let t ← self
      let (ps, fl) := prefixes n k (fun e => elAt b w e) (fun e x y => op.fp t f mode e x y)
      setFlags fl
      writeX o.a (BitVec.ofNat 64
        (if (bitsBelow k n).isEmpty then op.fpIdentity f else canonicalEl f (ps.getLastD 0)))) s

/-- `vscan` with one operation (R202). -/
def scanElements (op : FoldOp) (o : OpRR) (m : VecMod) (s : State) : Host.Outcome State Fault Refusal :=
  runPriv ⟨o.st, 0, .lanes, [vDst o.a, vSrc o.b] ++ maskUse m.mask⟩ needStart (do
    let b ← readV 0 o.b
    let k ← readK 1 m.mask.toNat
    let t ← self
    let w := laneWidth m
    let n := t.effective w
    useLanes w 0 n
    match elTypeOf m with
    | .int w signed =>
      let (ps, _) := prefixes n k (fun e => elAt b w e) (fun _ x y => (op.int w signed x y, 0))
      writeElements o.a w 0 n m.zero k fun e => (ps.getD e 0, 0)
    | .fp f => do
      let mode := t.roundingMode m.rnd.toNat false
      stepSeeds mode
      let t ← self
      let (ps, fl) := prefixes n k (fun e => elAt b w e) (fun e x y => op.fp t f mode e x y)
      setFlags fl
      writeElements o.a w 0 n m.zero k fun e => (canonicalEl f (ps.getD e 0), 0)) s

/-- `vred.sum`. -/
def execVredSum (o : OpRR) (m : VecMod) (s : State) : Host.Outcome State Fault Refusal := reduceElements .sum o m s

/-- `vred.min`. -/
def execVredMin (o : OpRR) (m : VecMod) (s : State) : Host.Outcome State Fault Refusal := reduceElements .min o m s

/-- `vred.max`. -/
def execVredMax (o : OpRR) (m : VecMod) (s : State) : Host.Outcome State Fault Refusal := reduceElements .max o m s

/-- `vred.and`. -/
def execVredAnd (o : OpRR) (m : VecMod) (s : State) : Host.Outcome State Fault Refusal := reduceElements .and o m s

/-- `vred.or`. -/
def execVredOr (o : OpRR) (m : VecMod) (s : State) : Host.Outcome State Fault Refusal := reduceElements .or o m s

/-- `vred.xor`. -/
def execVredXor (o : OpRR) (m : VecMod) (s : State) : Host.Outcome State Fault Refusal := reduceElements .xor o m s

/-- `vscan.sum`. -/
def execVscanSum (o : OpRR) (m : VecMod) (s : State) : Host.Outcome State Fault Refusal := scanElements .sum o m s

/-- `vscan.min`. -/
def execVscanMin (o : OpRR) (m : VecMod) (s : State) : Host.Outcome State Fault Refusal := scanElements .min o m s

/-- `vscan.max`. -/
def execVscanMax (o : OpRR) (m : VecMod) (s : State) : Host.Outcome State Fault Refusal := scanElements .max o m s

/-- `vscan.and`. -/
def execVscanAnd (o : OpRR) (m : VecMod) (s : State) : Host.Outcome State Fault Refusal := scanElements .and o m s

/-- `vscan.or`. -/
def execVscanOr (o : OpRR) (m : VecMod) (s : State) : Host.Outcome State Fault Refusal := scanElements .or o m s

/-- `vscan.xor`. -/
def execVscanXor (o : OpRR) (m : VecMod) (s : State) : Host.Outcome State Fault Refusal := scanElements .xor o m s

/-! ## Conversions and special functions (R203, R204) -/

/-- The type of a table and a code (R203). -/
def tableType (fp : Bool) (code : BitVec 3) : ElType := if fp then .fp (fpFormat code) else intType code

/-- The value that a pattern stands for. -/
def ElType.value (ty : ElType) (x : Nat) : Value :=
  match ty with
  | .int b signed => Float.ofInt (Float.patInt b signed x)
  | .fp f => Float.decode f x

/-- The conversion of a value to a type for destination element `e` (R125, R56, R58). -/
def Strand.convert (t : Strand) (ty : ElType) (mode e : Nat) (x : Value) : Nat × Nat :=
  let per := 64 / ty.lane
  let w := t.drawn (e / per) (e % per)
  match ty with
  | .int b signed => Float.roundInt b signed mode w x
  | .fp f => Float.round f mode w x

/-- `vcvt`. Log 107 (DESIGN CHOICE). -/
def execVcvt (o : OpRX) (m : VecMod) (s : State) : Host.Outcome State Fault Refusal :=
  runPriv ⟨o.st, 5, .lanes, [vDst o.a, vSrc o.b] ++ maskUse m.mask⟩ needGrant (do
    let b ← readV 0 o.b
    let k ← readK 1 m.mask.toNat
    let src := tableType (o.imm.getLsbD 3) (o.imm.setWidth 3)
    let dst := tableType (o.imm.getLsbD 4) m.ty
    let t ← self
    let start := t.vec.vstart
    let mode := t.roundingMode m.rnd.toNat true
    let n := min (t.effective src.lane) (t.effective dst.lane)
    useLanes dst.lane start n
    stepSeeds mode
    let t ← self
    writeElements o.a dst.lane start n m.zero k fun e => t.convert dst mode e (src.value (elAt b src.lane e))) s

/-- A special function (R204, R66). Log 45 (DEDUCED). -/
def specialFunction (f : Value → Value × Nat) (o : OpRR) (m : VecMod) (s : State) : Host.Outcome State Fault Refusal :=
  runPriv ⟨o.st, 5, .lanes, [vDst o.a, vSrc o.b] ++ maskUse m.mask⟩ needGrant (do
    let b ← readV 0 o.b
    let k ← readK 1 m.mask.toNat
    let t ← self
    let ft := fpFormat m.ty
    let w := ft.width
    let start := t.vec.vstart
    let mode := t.roundingMode m.rnd.toNat false
    useLanes w start (t.effective w)
    stepSeeds mode
    writeElements o.a w start (t.effective w) m.zero k fun e =>
      let (x, fl) := f (Float.decode ft (elAt b w e))
      let (c, fl2) := Float.roundSpecial ft mode x
      (c, fl ||| fl2)) s

/-- `vexp2`. -/
def execVexp2 (o : OpRR) (m : VecMod) (s : State) : Host.Outcome State Fault Refusal := specialFunction Float.exp2 o m s

/-- `vlog2`. -/
def execVlog2 (o : OpRR) (m : VecMod) (s : State) : Host.Outcome State Fault Refusal := specialFunction Float.log2 o m s

/-- `vrcp`. -/
def execVrcp (o : OpRR) (m : VecMod) (s : State) : Host.Outcome State Fault Refusal := specialFunction Float.rcp o m s

/-- `vrsq`. -/
def execVrsq (o : OpRR) (m : VecMod) (s : State) : Host.Outcome State Fault Refusal := specialFunction Float.rsq o m s

end Sys2Proof.Machine
end

