-- ==== Sys2Proof/Machine/Matrix.lean ====
section
/-! DEFINITION. The matrix unit: tiles, accumulators, dense, sparse and ganged products, rows and watermarks (R220 to
R249, R266 to R270). -/

namespace Sys2Proof.Machine

open Sys2Proof.Machine.Float (Value)

/-- The key of a tile unit's and of an accumulator row's error mark (R430). -/
def tileUnitKey (sid tile unit : Nat) : Nat := (sid * 8 + tile) * 256 + unit
def accRowKey (sid acc row : Nat) : Nat := (sid * 2 + acc) * 64 + row

/-- Writes of whole tile units repair them (R430). Log 43 (DEDUCED). -/
def repairTile (tile rows : Nat) : M Unit := modify fun s =>
  { s with badTiles := s.badTiles.filter fun e => !(e.1 / 256 = s.cur * 8 + tile && e.1 % 256 < rows * 4) }

/-- Whether an issued matrix operation reads a tile of a strand, or a gang still holds that of a strand that has ended (R229, R270). -/
def State.tileRead (s : State) (sid tile : Nat) : Bool :=
  let v := s.quad (quadOf sid)
  (v.ops.any fun o => (o.sid = sid && o.leftTile = some tile) || (o.rightSid = sid && o.rightTile = tile)) ||
    v.gangs.any fun g => g.partners.any fun p => p.sid = sid && p.tile = tile && p.ended && p.group = 0

/-- A write to a tile waits while an issued operation reads it (R229). Log 43 (DEDUCED). -/
def waitTile (tile : Nat) : M Unit := do
  let s ← get
  if s.tileRead s.cur tile then throw .retry else pure ()

/-! ## Watermarks (R225, R226) -/

/-- A watermark register as it stands apart from pending rows. -/
def Strand.mark (t : Strand) (acc : Nat) : Word := lookupD 0x40 t.mtx.marks acc

def Strand.withMark (t : Strand) (acc : Nat) (w : Word) : Strand :=
  { t with mtx := { t.mtx with marks := storeAt 0x40 acc w t.mtx.marks } }

/-- The lowest pending row of an accumulator, or 64. -/
def State.pendingRow (s : State) (sid acc : Nat) : Nat :=
  (s.quad (quadOf sid)).ops.foldl (fun n o =>
    if o.sid = sid && o.acc = acc then
      match o.rows.drop o.written with
      | r :: _ => min n r.row
      | [] => n
    else n) 64

/-- A watermark register (R225). -/
def State.watermark (s : State) (sid acc : Nat) : Word :=
  let m := (s.strand sid).mark acc
  if bitAt m 7 then m else putField m 0 7 (s.pendingRow sid acc)

/-! ## Values of codes -/

/-- The integer that a code stands for (R51). -/
def tileInt (fmt code : Nat) : Int :=
  match fmt with
  | 7 => Float.patInt 8 true code
  | 8 => Float.patInt 4 true code
  | _ => if code = 1 then 1 else if code = 3 then -1 else 0

/-- The value that a code of a floating-point tile stands for, with the tile's scale (R54). -/
def tileValue (fmt scale code : Nat) : Value :=
  match Float.decode (tileFormat fmt) code with
  | .fin n m e k => .fin n m (e + scaleExponent scale) k
  | v => v

/-! ## Sums of products (R63 to R65) -/

/-- The exact sum of one group, with `nv` for an invalid product or ∞ − ∞. Log 108 (DESIGN CHOICE). -/
def groupSum (ps : List (Value × Value)) : Value × Nat :=
  let r := ps.foldl (fun (acc : Option Value × Nat) p =>
    let (v, fl) := Float.mul p.1 p.2
    match acc.1 with
    | none => (some v, fl)
    | some a =>
      let (x, fl2) := Float.add 0 a v
      (some x, acc.2 ||| fl ||| fl2)) (none, 0)
  (r.1.getD (.fin false 0 0 false), r.2)

/-- The groups of a row's products, added to an FP32 accumulator element one after another. -/
def sumGroups (g : Nat) : Nat → List (Value × Value) → Nat → Nat × Nat
  | 0, _, acc => (acc, 0)
  | fuel + 1, ps, acc =>
    if ps.isEmpty then (acc, 0)
    else
      let (s, f1) := groupSum (ps.take g)
      let (sb, f2) := Float.round Float.f32 0 0 s
      let (v, f3) := Float.add 0 (Float.decode Float.f32 acc) (Float.decode Float.f32 sb)
      let (c, f4) := Float.round Float.f32 0 0 v
      let (r, f5) := sumGroups g fuel (ps.drop g) c
      (r, f1 ||| f2 ||| f3 ||| f4 ||| f5)

/-- FP64 products, each by a fused multiply-add. -/
def sumDoubles (ps : List (Value × Value)) (acc : Nat) : Nat × Nat :=
  ps.foldl (fun (a : Nat × Nat) p =>
    let (v, f1) := Float.fma 0 (Float.decode Float.f64 a.1) p.1 p.2
    let (c, f2) := Float.round Float.f64 0 0 v
    (c, a.2 ||| f1 ||| f2)) (acc, 0)

/-- One output row: the accumulator with the row's elements updated, and the flags. -/
def rowUpdate (o : MatOp) (p : Pairing) (plan : RowPlan) (accs : SMap (BitVec 32)) : SMap (BitVec 32) × Nat :=
  let fmtR := descFmt o.descR
  let w := tileBits fmtR
  (List.range (descRows o.descR)).foldl (fun (a : SMap (BitVec 32) × Nat) j =>
    let right := tileRow o.right 0 j
    let base := o.acc * 4096 + plan.row * 64
    match p.kind with
    | .int =>
      let s := (plan.entries.map fun e => tileInt o.fmtL e.1 * tileInt fmtR (rowCode right w e.2)).sum
      (storeAt 0 (base + j) (accElement accs o.acc plan.row j + BitVec.ofInt 32 s) a.1, a.2)
    | kind =>
      let ps := plan.entries.map fun e =>
        (tileValue o.fmtL o.scaleL e.1, tileValue fmtR (descScale o.descR) (rowCode right w e.2))
      if kind = .f32 then
        let (c, fl) := sumGroups p.group ps.length ps (accElement accs o.acc plan.row j).toNat
        (storeAt 0 (base + j) (BitVec.ofNat 32 c) a.1, a.2 ||| fl)
      else
        let (c, fl) := sumDoubles ps (accPair accs o.acc plan.row j)
        (storeAt 0 (base + 2 * j) (BitVec.ofNat 32 c)
          (storeAt 0 (base + 2 * j + 1) (BitVec.ofNat 32 (c / 2 ^ 32)) a.1), a.2 ||| fl)) (accs, 0)

/-! ## Operations under way (R226, R228, R238, R246) -/

/-- Partners of a gang whose rows were all written (R239). -/
def gangMask (g : Gang) : Nat :=
  (g.partners.zipIdx.map fun e => if e.1.full then 2 ^ e.2 else 0).sum

def State.gang (s : State) (q run : Nat) : Option Gang := (s.quad q).gangs.find? fun g => g.run = run

/-- The arrival of the matrix unit in a partner's place (R246, R270). -/
def arriveFor (p : Partner) : M Unit := do
  let (scope, g) := groupName p.group.toNat
  let t ← getStrand p.sid
  let b := groupBit scope g
  if !t.live || !t.members.getLsbD b then pure ()
  else if t.arrived.getLsbD b then modStrand p.sid fun t => { t with gangFault := t.gangFault.orElse fun _ => some (cBar, p.group) }
  else arrive scope g p.sid

/-- Ends a gang once every partner's rows have ended (R246, R269). -/
def settleGang (q run : Nat) : M Unit := do
  let s ← get
  match s.gang q run with
  | none => pure ()
  | some g =>
    if g.partners.all (·.ended) then do
      modQuad q fun v => { v with gangs := v.gangs.filter fun x => x.run ≠ run }
      for p in g.partners do
        if p.group ≠ 0 && p.full then
          modStrand p.sid fun t => t.withMark p.acc (BitVec.ofNat 64 (gangMask g * 2 ^ 16 + (t.mark p.acc).toNat % 256))
      for p in g.partners do
        if p.group ≠ 0 then arriveFor p
    else pure ()

/-- Changes a partner of a gang. -/
def modPartner (q run part : Nat) (f : Partner → Partner) : M Unit :=
  modQuad q fun v => { v with gangs := v.gangs.map fun g =>
    if g.run = run then { g with partners := g.partners.zipIdx.map fun e => if e.2 = part then f e.1 else e.1 } else g }

/-- Takes an operation off the array. -/
def removeOp (q id : Nat) : M Unit := modQuad q fun v => { v with ops := v.ops.filter fun o => o.id ≠ id }

/-- All rows of an operation are written: its watermark fields, or its part of a gang. -/
def completeOp (q : Nat) (o : MatOp) : M Unit := do
  removeOp q o.id
  match o.gang with
  | none => modStrand o.sid fun t => t.withMark o.acc (BitVec.ofNat 64 (2 ^ 16 + (t.mark o.acc).toNat % 256))
  | some (run, part) => do
    modPartner q run part fun p => { p with ended := true, full := true }
    settleGang q run

/-- The value of `gang` (R239). -/
def gangValue (acc gid part mask row : Nat) (cause : BitVec 8) : Word :=
  BitVec.ofNat 64 (acc * 2 ^ 30 + gid * 2 ^ 27 + part * 2 ^ 24 + mask * 2 ^ 16 + row * 2 ^ 8 + cause.toNat)

/-- Aborts an operation at its lowest unwritten row (R226, R238, R269). -/
def abortOp (q : Nat) (o : MatOp) (cause : BitVec 8) : M Unit := do
  let s ← get
  let row := match o.rows.drop o.written with
    | r :: _ => r.row
    | [] => 0
  let (gid, part, mask) := match o.gang with
    | none => (0, 0, 0)
    | some (run, part) => match s.gang q run with
      | some g => (g.gid, part, gangMask g)
      | none => (0, part, 0)
  removeOp q o.id
  modStrand o.sid fun t =>
    { t.withMark o.acc (BitVec.ofNat 64 (cause.toNat * 2 ^ 24 + mask * 2 ^ 16 + 128 + row)) with
      gangFault := some (cGang, gangValue o.acc gid part mask row cause) }
  match o.gang with
  | none => pure ()
  | some (run, part) => do
    modPartner q run part fun p => { p with ended := true, row := row, cause := cause }
    settleGang q run

/-- The error of a right tile's rows, if a unit that they use fails. -/
def State.rightError (s : State) (o : MatOp) : BitVec 8 :=
  ((List.range (descRows o.descR)).flatMap fun r =>
    (List.range 4).map fun u =>
      lookupD 0 s.badTiles (tileUnitKey o.rightSid o.rightTile (r * 4 + u))).find? (· ≠ 0) |>.getD 0

/-- The error of a left-tile row or of accumulator rows that the next rows use. -/
def State.rowError (s : State) (o : MatOp) (plans : List RowPlan) : BitVec 8 :=
  let left := match o.leftTile with
    | some t => (List.range 4).map fun u => lookupD 0 s.badTiles (tileUnitKey o.sid t (o.written * 4 + u))
    | none => []
  let acc := plans.map fun p => lookupD 0 s.badRows (accRowKey o.sid o.acc p.row)
  (left ++ acc).find? (· ≠ 0) |>.getD 0

/-- Writes the next row of an operation, or the next block of rows (R228, R238). -/
def writeRows (q : Nat) (o : MatOp) : M Unit := do
  let s ← get
  let plans := (o.rows.drop o.written).take o.block
  let bad := s.rightError o
  if bad ≠ 0 then
    let same := match o.gang with
      | none => [o]
      | some (run, _) => (s.quad q).ops.filter fun x => match x.gang with
        | some (r, _) => r = run
        | none => false
    for x in same do
      abortOp q x bad
  else if s.rowError o plans ≠ 0 then abortOp q o (s.rowError o plans)
  else
    match pairing o.ternary o.fmtL (descFmt o.descR) with
    | none => pure ()
    | some p => do
      let t ← getStrand o.sid
      let (accs, fl) := plans.foldl (fun (a : SMap (BitVec 32) × Nat) r =>
        let (m, fl) := rowUpdate o p r a.1
        (m, a.2 ||| fl)) (t.mtx.accs, 0)
      setStrand o.sid { t with
        mtx := { t.mtx with accs := accs }
        fexc := t.fexc ||| BitVec.ofNat 64 (fl &&& (Float.fNv ||| Float.fOf)) }
      let o := { o with written := o.written + o.block }
      modQuad q fun v => { v with ops := v.ops.map fun x => if x.id = o.id then o else x }
      if o.written ≥ o.rows.length then completeOp q o else pure ()

/-- One row write of the array; gangs whose last partners ended are settled on the way. -/
def rowWrite (q id : Nat) : M Unit := do
  let s ← get
  match (s.quad q).ops.find? fun o => o.id = id with
  | some o => writeRows q o
  | none => do
    for g in (s.quad q).gangs do
      settleGang q g.run

/-- Issues an operation to the array: its rows become pending and the stop bit is cleared (R226). -/
def issueOp (q : Nat) (o : MatOp) : M Nat := do
  let v ← getQuad q
  let id := v.nextOp
  let o := { o with id := id }
  modQuad q fun v => { v with nextOp := id + 1, ops := v.ops ++ [o] }
  modStrand o.sid fun t => t.withMark o.acc (BitVec.ofNat 64 ((t.mark o.acc).toNat / 256 * 256 + 64))
  for _ in List.range (o.rows.length / max 1 o.block) do
    post (.matrixRowWrite q id)
  if o.rows.isEmpty && o.gang.isNone then
    completeOp q o
  pure id

/-! ## Dense products (R237) -/

/-- The rows of a dense product from the left tile as it stands. -/
def denseRows (t : Strand) (tile row0 : Nat) : List RowPlan :=
  let d := t.desc tile
  let w := tileBits (descFmt d)
  (List.range (descRows d)).map fun i =>
    let row := tileRow t.mtx.tiles tile i
    ⟨row0 + i, (List.range (descCols d)).map fun k => (rowCode row w k, k)⟩

/-- A dense operation of strand `sid` with the right tile of strand `rsid`. -/
def denseOp (s : State) (sid acc lt rsid rt row0 : Nat) (ternary : Bool) : MatOp :=
  let t := s.strand sid
  let r := s.strand rsid
  { id := 0, sid := sid, acc := acc, fmtL := descFmt (t.desc lt), scaleL := descScale (t.desc lt), leftTile := some lt,
    rightSid := rsid, rightTile := rt, descR := r.desc rt, right := tileStorage r.mtx.tiles rt, ternary := ternary,
    block := 1, rows := denseRows t lt row0, written := 0, gang := none, followOn := none }

/-- `mma` and `mmt` (R237). -/
def denseProduct (ternary : Bool) (o : OpRRR) (s : State) : Host.Outcome State Fault Refusal :=
  let acc := o.a.toNat
  let lt := o.b.toNat
  let rt := o.c.toNat
  let row0 := o.imm.toNat % 64
  runOp ⟨o.st, 0, .execute, [⟨4, acc, false, true⟩, ⟨3, lt, true, false⟩, ⟨3, rt, true, false⟩]⟩ (do
    let s ← get
    let t := s.self
    let dL := t.desc lt
    let dR := t.desc rt
    match denseFault ternary dL dR row0 with
    | some d => raise cTdesc d.toNat
    | none => do
      takeArray { sid := s.cur, use := .dense, half := 0, mmt := ternary, acc := acc, lt := lt, rt := rt, row0 := row0,
                  followOn := none }
      let _ ← issueOp (quadOf s.cur) (denseOp s s.cur acc lt s.cur rt row0 ternary)
      pure ()) s

/-- `mma`. -/
def execMma (o : OpRRR) (s : State) : Host.Outcome State Fault Refusal := denseProduct false o s

/-- `mmt`. -/
def execMmt (o : OpRRR) (s : State) : Host.Outcome State Fault Refusal := denseProduct true o s

/-! ## Ganged issue (R244 to R247) -/

/-- Issues a gang whose postings are given in partner order. Log 42 (DEDUCED). -/
def issueGang (gid : Nat) (ps : List Posting) (lead : Posting) : M Unit := do
  let s ← get
  let q := quadOf s.cur
  let run := (s.quad q).nextOp
  modQuad q fun v => { v with
    nextOp := run + 1
    postings := v.postings.filter fun p => p.gid ≠ gid
    gangs := v.gangs ++ [{ run := run, gid := gid, partners := ps.map fun p =>
      { sid := p.sid, acc := p.acc, tile := p.lt, group := p.group, ended := false, full := false, row := 0, cause := 0 } }] }
  let ops := ps.zipIdx.map fun e =>
    let o := denseOp s e.1.sid e.1.acc e.1.lt lead.sid lead.rt 0 false
    { o with gang := some (run, e.2), rows := if (partnerPair s lead e.1).isSome then o.rows else [] }
  let ids ← ops.mapM (issueOp q)
  for e in ops.zip ids do
    if e.1.rows.isEmpty then abortOp q { e.1 with id := e.2 } cTdesc
  for p in ps do
    if p.sid ≠ s.cur then modStrand p.sid fun t => { t with gangIssued := true }

/-- `mmag`. Log 42 (DEDUCED). -/
def execMmag (o : OpRRR) (s : State) : Host.Outcome State Fault Refusal :=
  let rt := o.imm.toNat % 8
  let gid := o.imm.toNat / 8 % 8
  let n := o.imm.toNat / 64 % 8 + 1
  runOp ⟨o.st, 0, .execute,
    [⟨4, o.a.toNat, false, true⟩, ⟨3, o.b.toNat, true, false⟩, ⟨3, rt, true, false⟩, wSrc o.c]⟩ (do
    let s ← get
    let v := s.quad (quadOf s.cur)
    if s.self.gangIssued then modSelf fun t => { t with gangIssued := false }
    else if v.postings.any (fun p => p.sid = s.cur) then throw .retry
    else do
      let c ← readW 0 o.c
      let (scope, _) ← checkGroup c false
      raiseIf (scope ≠ 2) cPerm (Cap.cursor c.val)
      let others := v.postings.filter fun p => p.gid = gid
      if others.any fun p => p.count ≠ n then
        throw (.trap cGang (gangValue o.a.toNat gid 0 0 0 cIll) none)
      let me : Posting := ⟨s.cur, gid, n, o.a.toNat, o.b.toNat, rt, BitVec.ofNat 64 (Cap.cursor c.val)⟩
      takeArray { sid := s.cur, use := .gang gid, half := n, mmt := false, acc := me.acc, lt := me.lt, rt := rt, row0 := 0,
                  followOn := none }
      if others.length + 1 < n then do
        modQuad (quadOf s.cur) fun v => { v with postings := v.postings ++ [me] }
        throw .wait
      else do
        let ps := others.foldl (fun l p => insertPosting p l) [me]
        let lead := ps.headD me
        issueGang gid ps lead) s

/-! ## Tiles (R234 to R236) -/

/-- `tcfg`. -/
def execTcfg (o : OpRR) (s : State) : Host.Outcome State Fault Refusal :=
  runOp ⟨o.st, 0, .lanes, [⟨3, o.a.toNat, false, true⟩, wSrc o.b]⟩ (do
    let x ← readX 0 o.b
    let d : BitVec 32 := x.setWidth 32
    raiseIf (illFormed d) cTdesc d.toNat
    waitTile o.a.toNat
    modSelf fun t => { t with mtx := { t.mtx with descs := storeAt 0 o.a.toNat d t.mtx.descs } }) s

/-- `tdesc`. -/
def execTdesc (o : OpRR) (s : State) : Host.Outcome State Fault Refusal :=
  runOp ⟨o.st, 0, .lanes, [wDst o.a, ⟨3, o.b.toNat, true, false⟩]⟩ (do
    let t ← self
    writeX o.a ((t.desc o.b.toNat).setWidth 64)) s

/-- `tzero`. -/
def execTzero (o : OpR) (s : State) : Host.Outcome State Fault Refusal :=
  runOp ⟨o.st, 0, .lanes, [⟨3, o.a.toNat, false, true⟩]⟩ (do
    waitTile o.a.toNat
    modSelf fun t => { t with mtx := { t.mtx with tiles := clearRows o.a.toNat 64 t.mtx.tiles } }
    repairTile o.a.toNat 64) s

/-- `ttr`: the transposed tile. -/
def execTtr (o : OpRR) (s : State) : Host.Outcome State Fault Refusal :=
  let a := o.a.toNat
  let b := o.b.toNat
  runOp ⟨o.st, 0, .lanes, [⟨3, a, false, true⟩, ⟨3, b, true, false⟩]⟩ (do
    let t ← self
    let d := t.desc b
    let r := descRows d
    let q := descCols d
    let n : BitVec 32 := BitVec.ofNat 32 (d.toNat / 2 ^ 13 * 2 ^ 13 + (r - 1) * 64 + (q - 1) % 64)
    raiseIf (q > 64 || illFormed n) cTdesc d.toNat
    waitTile a
    let w := tileBits (descFmt d)
    let rows := (List.range r).map fun k => tileRow t.mtx.tiles b k
    let tiles := (List.range q).foldl (fun m i =>
      let row := (rows.zipIdx.map fun e => rowCode e.1 w i * 2 ^ (e.2 * w)).sum
      storeRange 0 (a * 8192 + i * 128) (leBytes ((r * w + 7) / 8) row) m) (clearRows a 64 t.mtx.tiles)
    modSelf fun t => { t with mtx := { t.mtx with tiles := tiles, descs := storeAt 0 a n t.mtx.descs } }
    repairTile a 64) s

/-- Accesses of the tile path work at the point of coherence, behind the core's own dirty bytes (R230, R299). -/
def tileManner (m : MemMod) : Manner := ⟨m.ord.toNat, max 2 m.scope.toNat, m.nt, 1⟩

/-- `tld`. -/
def execTld (o : OpRX) (m : MemMod) (s : State) : Host.Outcome State Fault Refusal :=
  let a := o.a.toNat
  runOp ⟨o.st, 0, .access, [⟨3, a, false, true⟩, wSrc o.b]⟩ (do
    let c ← addressRX 0 o
    let t ← self
    let d := t.desc a
    let z := rowSize d
    awaitPuts
    let bs ← readRange c (descRows d * z) (tileManner m)
    ordAcquire m.ord.toNat m.scope.toNat
    waitTile a
    let tiles := (List.range (descRows d)).foldl (fun m i =>
      storeRange 0 (a * 8192 + i * 128) ((bs.drop (i * z)).take z) m) (clearRows a (descRows d) t.mtx.tiles)
    modSelf fun t => { t with mtx := { t.mtx with tiles := tiles } }
    repairTile a (descRows d)) s

/-- `tst` (R230). -/
def execTst (o : OpRX) (m : MemMod) (s : State) : Host.Outcome State Fault Refusal :=
  let a := o.a.toNat
  runOp ⟨o.st, 0, .access, [⟨3, a, true, false⟩, wSrc o.b]⟩ (do
    let c ← addressRX 0 o
    let t ← self
    let d := t.desc a
    let z := rowSize d
    let bs := (List.range (descRows d)).flatMap fun i => lookupRange 0 t.mtx.tiles (a * 8192 + i * 128) z
    writeRange c bs (tileManner m) m.scope.toNat) s

/-! ## Sparse operands (R240 to R243) -/

/-- A fault of an operand read: its address is noted in `faddr`. -/
def notingFault {α : Type} (va : Nat) (m : M α) : M α := do
  let r ← attempt m
  match r with
  | .ok a => pure a
  | .error (.trap c v _) => do
    let a := BitVec.ofNat 64 va
    modSelf fun t => { t with faddr := a }
    throw (.trapKeep c (if c = cEcc || c = cInteg then a else v) none)
  | .error x => throw x

/-- An element of an operand: `n` bytes at an offset from a capability's cursor. -/
def readOperand (c : Reg) (off n : Nat) : M Nat := do
  let d : Reg := ⟨Cap.offset c.val off, c.tag⟩
  notingFault (Cap.cursor d.val) (do
    let (p, e) ← checkAccess d Cap.ld [Cap.kMemory] n
    let (bs, _) ← loadBytes (Cap.cursor d.val) p n ⟨0, 2, false, 1⟩ e (Cap.tenant d.val)
    pure (leNat bs))

/-- Index entries `k` and up, `n` of them, with their numbers. -/
def readIndices (c : Reg) (b k : Nat) : Nat → M (List (Nat × Nat))
  | 0 => pure []
  | n + 1 => do
    let x ← readOperand c (k * b) b
    let xs ← readIndices c b (k + 1) n
    pure ((k, x) :: xs)

/-- The code of value `k` of an array of `w`-bit elements. -/
def readCode (c : Reg) (w k : Nat) : M Nat := do
  let x ← readOperand c (k * w / 8) (max 1 (w / 8))
  pure (x / 2 ^ (k * w % 8) % 2 ^ w)

/-- The control word of a sparse operand (R240). -/
structure SparseCtl where
  col0 : Nat
  wide : Bool
  scale : Nat
  fmt : Nat
  m : Nat
  bad : Bool
  deriving DecidableEq, Repr

def sparseCtl (w : Word) : SparseCtl :=
  ⟨fieldAt w 32 32, bitAt w 20, fieldAt w 12 8, fieldAt w 7 5, fieldAt w 0 7, fieldAt w 21 11 ≠ 0⟩

/-- The checks at issue (R243): the pairing of the operand with the right tile. -/
def sparseCheck (blocks : Bool) (word : Word) (dR : BitVec 32) (row0 : Nat) : M Pairing := do
  let k := sparseCtl word
  let bad := raiseIf true cTdesc (word.toNat % 2 ^ 32)
  if k.m = 0 || k.m > (if blocks then 4 else 64) || k.bad || k.fmt > 8 then bad
  match pairing false k.fmt (descFmt dR) with
  | none => do
    bad
    pure ⟨.int, 1, 1⟩
  | some p => do
    if (p.kind = .f64 && descRows dR > 32) || row0 + k.m * (if blocks then 16 else 1) > 64 ||
      (blocks && descCols dR % 16 ≠ 0) then bad
    pure p

/-- The rows of a sparse product and the occupancy in half clk: `entriesOf` reads one row's values from its entries in the
window. -/
def sparseProduct (blocks : Bool) (o : OpRRR) (s : State) : Host.Outcome State Fault Refusal :=
  let acc := o.a.toNat
  let rt := o.b.toNat
  let row0 := o.imm.toNat % 64
  let reg := fun (i : Nat) => o.c + BitVec.ofNat 6 i
  runOp ⟨o.st, 0, .execute,
    [⟨4, acc, false, true⟩, ⟨3, rt, true, false⟩, wSrc (reg 0), wSrc (reg 1), wSrc (reg 2), wSrc (reg 3)]⟩ (do
    let rp ← readW 2 (reg 0)
    let ix ← readW 3 (reg 1)
    let vals ← readW 4 (reg 2)
    let word ← readX 5 (reg 3)
    let t ← self
    let dR := t.desc rt
    for c in [rp, ix, vals] do
      checkRightsAs t.identity c Cap.ld [Cap.kMemory]
    let p ← sparseCheck blocks word dR row0
    let k := sparseCtl word
    let b := if k.wide then 8 else 4
    let w := tileBits k.fmt
    awaitPuts
    let width := if blocks then descCols dR / 16 else descCols dR
    let ptrs ← (List.range (k.m + 1)).mapM fun i => readOperand rp (i * b) b
    let lists ← (List.range k.m).mapM fun i =>
      readIndices ix b (ptrs.getD i 0) (ptrs.getD (i + 1) 0 - ptrs.getD i 0)
    let windows := lists.map fun l => l.filter fun e => k.col0 ≤ e.2 && e.2 < k.col0 + width
    let rows ← windows.mapM fun l =>
      if blocks then do
        let bs ← l.mapM fun e => do
          let codes ← (List.range 256).mapM fun i => readCode vals w (e.1 * 256 + i)
          pure (codes, 16 * (e.2 - k.col0))
        pure ((List.range 16).map fun ii => bs.flatMap fun e =>
          (List.range 16).map fun jj => (e.1.getD (ii * 16 + jj) 0, e.2 + jj))
      else do
        let es ← l.mapM fun e => do
          let c ← readCode vals w e.1
          pure (c, e.2 - k.col0)
        pure [es]
    let per := fun (n : Nat) => if blocks then 16 * max 1 ((n + 3) / 4) else max 1 ((n + 15) / 16)
    let half := (windows.map fun l => p.half * per l.length).sum
    let s ← get
    takeArray { sid := s.cur, use := .sparse, half := half, mmt := false, acc := acc, lt := 0, rt := rt, row0 := row0,
                followOn := none }
    let op : MatOp :=
      { id := 0, sid := s.cur, acc := acc, fmtL := k.fmt, scaleL := k.scale, leftTile := none, rightSid := s.cur,
        rightTile := rt, descR := dR, right := tileStorage t.mtx.tiles rt, ternary := false,
        block := if blocks then 16 else 1,
        rows := rows.flatten.zipIdx.map fun e => ⟨row0 + e.2, e.1⟩,
        written := 0, gang := none, followOn := none }
    let _ ← issueOp (quadOf s.cur) op
    pure ()) s

/-- `mmcsr` (R241). -/
def execMmcsr (o : OpRRR) (s : State) : Host.Outcome State Fault Refusal := sparseProduct false o s

/-- `mmbsr` (R242). -/
def execMmbsr (o : OpRRR) (s : State) : Host.Outcome State Fault Refusal := sparseProduct true o s

/-! ## Accumulators (R248, R249) -/

/-- The value of kind `sk` in column `c` of an accumulator row: 0 INT32, 1 FP32, 2 FP64. -/
def accValue (m : SMap (BitVec 32)) (acc row c sk : Nat) : Value :=
  match sk with
  | 0 => Float.ofInt (if c < 64 then (accElement m acc row c).toInt else 0)
  | 1 => Float.decode Float.f32 (if c < 64 then (accElement m acc row c).toNat else 0)
  | _ => Float.decode Float.f64 (if c < 32 then accPair m acc row c else 0)

/-- `accrd`. Log 43 (DEDUCED). -/
def execAccrd (o : OpRRR) (m : VecMod) (s : State) : Host.Outcome State Fault Refusal :=
  let acc := o.b.toNat
  runPriv ⟨o.st, 0, .lanes, [vDst o.a, ⟨4, acc, true, false⟩, wSrc o.c] ++ maskUse m.mask⟩ needGrant (do
    let c ← readX 0 o.c
    let k ← readK 1 m.mask.toNat
    let row := c.toNat % 64
    let c0 := c.toNat / 64 % 64
    let s ← get
    let wm := s.watermark s.cur acc
    if !bitAt wm 7 && row ≥ fieldAt wm 0 7 then throw .retry
    let dst := tableType (o.imm.getLsbD 4) m.ty
    let t := s.self
    let n := t.effective dst.lane
    let mode := t.roundingMode m.rnd.toNat true
    useLanes dst.lane 0 n
    stepSeeds mode
    let t ← self
    let one := fun (e : Nat) => t.convert dst mode e (accValue t.mtx.accs acc row (c0 + e) (o.imm.toNat % 4))
    setFlags ((List.range n).foldl (fun fl e => if k.getLsbD e then fl ||| (one e).2 else fl) 0)
    writeV o.a dst.lane fun e =>
      if e < n then (if k.getLsbD e then some (one e).1 else if m.zero then some 0 else none) else none) s

/-- `accwm`. -/
def execAccwm (o : OpRR) (s : State) : Host.Outcome State Fault Refusal :=
  runOp ⟨o.st, 0, .lanes, [wDst o.a, ⟨4, o.b.toNat, true, false⟩]⟩ (do
    let s ← get
    writeX o.a (s.watermark s.cur o.b.toNat)) s

/-- `accz`. -/
def execAccz (o : OpR) (s : State) : Host.Outcome State Fault Refusal :=
  let acc := o.a.toNat
  runOp ⟨o.st, 0, .lanes, [⟨4, acc, false, true⟩]⟩ (do
    let s ← get
    if (s.quad (quadOf s.cur)).ops.any fun x => x.sid = s.cur && x.acc = acc then throw .retry
    modSelf fun t => { t.withMark acc 0x40 with
      mtx := { t.mtx with
        accs := t.mtx.accs.filter fun e => e.1 / 4096 ≠ acc
        marks := storeAt 0x40 acc 0x40 t.mtx.marks } }
    modify fun s => { s with badRows := s.badRows.filter fun e => e.1 / 64 ≠ s.cur * 2 + acc }) s

/-! ## Rounds of follow-on commands (R173, R350) -/

/-- Queues of a package: a follow-on names its queue by package id and queue number. -/
def queuesPerPackage : Nat := 2048

/-- A follow-on whose target has ended is discarded: the queue that sent it records that, in this package or another (R350). -/
def followOnGone (f : FollowOn) : M Unit := do
  let s ← get
  if f.queue / queuesPerPackage = s.pkg then recordQueueError (f.queue % queuesPerPackage) cGang 0
  else sendPacket (requestPacket s (f.queue / queuesPerPackage * 2 ^ 41) 8 0 0 (.followOn f) [] false)

/-- The follow-on that an entry of a dispatch queue is. -/
def DispatchEntry.command (e : DispatchEntry) (target : Nat) : FollowOn :=
  { queue := e.followOn.getD 0, target := target, mmt := e.mmt, acc := e.acc, lt := e.lt, rt := e.rt, row0 := e.row0 }

/-- Issues the follow-on at the head of a core's queue. -/
def issueFollowOn (core : Nat) (e : DispatchEntry) : M Unit := do
  let s ← get
  let t := s.strand e.sid
  let charge := s.entryCharge e
  set (s.leaveQueue core)
  if !t.live then followOnGone (e.command (s.fullSid e.sid).toNat)
  else
    let dL := t.desc e.lt
    let dR := t.desc e.rt
    let o := { denseOp s e.sid e.acc e.lt e.sid e.rt e.row0 e.mmt with followOn := e.followOn }
    match denseFault e.mmt dL dR e.row0 with
    | some _ => abortOp (quadOf e.sid) { o with rows := [], gang := none, id := (s.quad (quadOf e.sid)).nextOp } cTdesc
    | none => do
      modify fun s => (s.charge (s.colonyOf e.sid) 0 charge).countCore core 6 charge
      let _ ← issueOp (quadOf e.sid) o
      pure ()

/-- A follow-on command of a quad that may issue in the round under way: its core and entry. -/
def State.readyFollowOn (s : State) (q : Nat) : Option (Nat × DispatchEntry) :=
  (s.quad q).round.findSome? fun c => match (s.core c).queue with
    | e :: _ => if e.followOn.isSome && s.mayIssue c then some (c, e) else none
    | [] => none

/-- Rounds of a quad's dispatch queues as far as follow-on commands take them, at most `n` issues; entries of strands issue
when their instructions do. -/
def dispatchRound (q : Nat) : Nat → M Unit
  | 0 => pure ()
  | n + 1 => do
    modify fun s => s.openRound q
    let s ← get
    match s.readyFollowOn q with
    | none => pure ()
    | some (c, e) => do
      issueFollowOn c e
      dispatchRound q n

end Sys2Proof.Machine
end

