-- ==== Sys2Proof/Machine/Copy.lean ====
section
/-! DEFINITION. Copy engines (R250, R347 to R352). -/

namespace Sys2Proof.Machine

/-! ## Commands and queues -/

/-- The number of the copy queue that an address lies in, if it lies in a queue port (R343). -/
def queueOf (s : State) (p : Nat) : Option Nat :=
  if pkgOf p ≠ s.pkg then none
  else match place (localOf p) with
    | .port off => if off < 0x8000000 then some (off / 65536) else none
    | _ => none

/-- The check of a queue capability (R348). -/
def checkQueue (c : Reg) : M Nat := do
  let (p, _) ← checkAccess c Cap.ec [Cap.kQueue] 1
  let s ← get
  match queueOf s p with
  | some q => pure q
  | none => raise cPerm (Cap.cursor c.val)

/-- Offset, tile and strand of a tile-destination cursor (R250). -/
def tileDest (c : Reg) : Nat × Nat × Nat :=
  let a := Cap.cursor c.val
  (a / 2 ^ 31 % 8192, a / 2 ^ 28 % 8, a % 2 ^ 28)

/-- The check of a copy's destination before translation: memory by R77, a tile by R250. -/
def checkCopyDest (id : Identity) (c : Reg) (n : Nat) : M Unit :=
  if c.tag && Cap.kind c.val = Cap.kTile then do
    checkCapAs id c Cap.st [Cap.kTile] 1
    raiseIf (Cap.cursor c.val / 2 ^ 44 ≠ 0 || (tileDest c).1 + n > 8192) cBounds (Cap.cursor c.val)
  else checkCapAs id c Cap.st [Cap.kMemory, Cap.kTile] n

/-- Changes a copy queue. -/
def modQueue (q : Nat) (f : CopyQueue → CopyQueue) : M Unit := modify fun s =>
  { s with units := { s.units with queues := storeAt CopyQueue.empty q (f (s.queue q)) s.units.queues } }

/-- Changes the command that heads a queue. -/
def modHead (q : Nat) (f : CopyCmd → CopyCmd) : M Unit := modQueue q fun v => { v with
  cmds := match v.cmds with
    | c :: cs => f c :: cs
    | [] => [] }

/-- The open window of a quad on a queue. -/
def State.windowAt (s : State) (quad queue : Nat) : Option CombineWindow :=
  s.units.windows.find? fun w => w.quad = quad && w.queue = queue

/-- Closes a quad's window on a queue; its command may then be performed. -/
def closeWindow (quad queue : Nat) : M Unit := do
  let s ← get
  if (s.windowAt quad queue).isSome then do
    modify fun s => { s with units := { s.units with
      windows := s.units.windows.filter fun w => !(w.quad = quad && w.queue = queue) } }
    post (.copyCommand queue)
  else pure ()

/-- Closes every window of a quad (R351). -/
def closeWindows (quad : Nat) : M Unit := do
  let s ← get
  for w in s.units.windows do
    if w.quad = quad then closeWindow quad w.queue

/-- Commands that a colony's strands hold in the queues (R364). -/
def State.heldCopies (s : State) (colony : Nat) : Nat :=
  (s.units.queues.map fun e => (e.2.cmds.filter fun c => c.members.any fun m => s.colonyOf m.sid = colony).length).sum

/-- The offset of an address in the core scratchpad of the current strand, if it lies there. -/
def State.ownOffset (s : State) (p : Nat) : Option Nat :=
  if pkgOf p ≠ s.pkg then none
  else match place (localOf p) with
    | .coreSpad core off => if core = coreOf s.cur then some off else none
    | _ => none

/-- The offset of a destination in the core scratchpad of the current strand, if all of it lies there, byte after byte
(R348, R351): each piece is judged by its first and its last byte. -/
def ownScratchpad (c : Reg) (n : Nat) : M (Option Nat) := do
  let a := Cap.cursor c.val
  let r ← attempt (translateRange (Cap.tenant c.val) a (max 1 n) Cap.st)
  let s ← get
  match r with
  | .ok ps =>
    let start := (ps.head?.map fun e => s.ownOffset e.2.2.1).join
    pure (start.bind fun off =>
      if ps.all fun e => s.ownOffset e.2.2.1 = some (off + (e.1 - a)) &&
          s.ownOffset (e.2.2.1 + (e.2.1 - 1)) = some (off + (e.1 - a) + (e.2.1 - 1)) then some off else none)
  | .error _ => pure none

/-- Whether two requests ask for one source (R351). -/
def sameSource (c : CopyCmd) (tid : BitVec 12) (src : Reg) (len : Nat) : Bool :=
  c.tid = tid && c.len = len && Cap.cursor c.src.val = Cap.cursor src.val && Cap.base c.src.val = Cap.base src.val &&
    Cap.top c.src.val = Cap.top src.val

/-- Whether a member's destination lies at an offset of its own core's scratchpad. -/
def memberAt (m : CopyMember) (n off : Nat) : M Bool := do
  let o ← asStrand m.sid (ownScratchpad m.dst n)
  pure (o = some off)

/-! ## `cpy` (R348) -/

/-- The value checks of `cpy` that come before its others. -/
def copyIll (o : OpRR) : M Unit := do
  let t ← self
  let reg := fun (i : Nat) => if o.b.toNat + i < t.win.frame then t.phys (t.physOf (o.b.toNat + i)) else Reg.zero
  let ctl := (reg 2).word
  let fol := bitAt ctl 33
  let word := (reg 4).word
  illIf (fieldAt ctl 34 30 ≠ 0 || (fol && (fieldAt word 16 48 ≠ 0 || bitAt word 6 || fieldAt word 14 2 ≥ 2)) ||
    (fol && !((reg 1).tag && Cap.kind (reg 1).val = Cap.kTile)))

/-- `cpy`. Log 53 (DEDUCED). -/
def execCpy (o : OpRR) (s : State) : Host.Outcome State Fault Refusal :=
  let five := [4, 0, 1, 2, 3].map fun i => RegUse.mk 0 (o.b.toNat + i) true false
  runPriv ⟨o.st, 0, .access, five ++ [wSrc o.a]⟩ (copyIll o) (do
    let a ← readW 5 o.a
    let src ← readW 0 o.b
    let dst ← readW 1 (o.b + 1)
    let ctl ← readX 2 (o.b + 2)
    let fut ← readW 3 (o.b + 3)
    let word ← readX 4 (o.b + 4)
    let q ← checkQueue a
    let len := ctl.toNat % 2 ^ 32
    let fol := bitAt ctl 33
    let comb := bitAt ctl 32
    let t ← self
    let global := fun (c : Reg) => raiseIf (!Cap.has c.val Cap.gl) cPerm (Cap.cursor c.val)
    checkCapAs t.identity src Cap.ld [Cap.kMemory] len
    global src
    checkCopyDest t.identity dst len
    global dst
    if fut.tag then do
      checkCapAs t.identity fut (Cap.st ||| Cap.atm) [Cap.kMemory] 16
      global fut
    let off ← if comb && Cap.kind dst.val = Cap.kMemory then ownScratchpad dst len else pure none
    raiseIf (comb && (fol || off.isNone)) cPerm (Cap.cursor dst.val)
    let s ← get
    let quad := quadOf s.cur
    let member : CopyMember := { sid := s.cur, hyper := t.mode = .hypervisor, dst := dst, fut := fut, error := none }
    let joined ← match comb, s.windowAt quad q, off with
      | true, some w, some off => do
        match (s.queue q).cmds.find? (fun c => c.id = w.cmd) with
        | none => pure false
        | some c => do
          let fits ← match c.members.head? with
            | some m => memberAt m len off
            | none => pure false
          if fits && sameSource c t.tid src len && c.members.all (fun m => coreOf m.sid ≠ coreOf s.cur) then do
            modQueue q fun v => { v with cmds := v.cmds.map fun x =>
              if x.id = w.cmd then { x with members := x.members ++ [member] } else x }
            pure true
          else pure false
      | _, _, _ => pure false
    if joined then pure ()
    else do
      let slots := match s.colony (s.colonyOf s.cur) with
        | some c => c.cslots
        | none => 32768
      if (s.queue q).cmds.length ≥ 16 || s.heldCopies (s.colonyOf s.cur) ≥ slots then throw .retry
      closeWindow quad q
      let id := s.units.nextCopy
      let c : CopyCmd :=
        { id := id, tid := t.tid, src := src, len := len, members := [member],
          followOn := if fol then some word else none, charged := false, got := [], readError := none, written := false }
      modQueue q fun v => { v with cmds := v.cmds ++ [c] }
      let clk := (s.core (coreOf s.cur)).clk
      modify fun s => { s with units := { s.units with
        nextCopy := id + 1
        windows := if comb then s.units.windows ++ [⟨quad, q, id, clk + 16⟩] else s.units.windows } }
      if comb then pure () else post (.copyCommand q)) s

/-! ## Performing a command (R349) -/

/-- The TLB group of a queue's engine: that of its E-die (R295). -/
def engineGroup (q : Nat) : Nat := 8 + q / 16 / 32 % 4

/-- Whether requests of the head command to other packages, or its own copies of mirrored pages, are outstanding. -/
def State.copyBusy (s : State) (q : Nat) : Bool :=
  s.units.requests.any (fun r => match r.use with
    | .copyRead k _ => k = q
    | .copyWrite k _ _ => k = q
    | _ => false) ||
    (match (s.queue q).cmds with
      | c :: _ => s.units.mirrors.any fun p => c.members.any fun m => p.2.src = s.fullSid m.sid
      | [] => false)

/-- Records the first error of a requester's part. -/
def memberError (q i : Nat) (code : BitVec 8) (va : Nat) : M Unit := modHead q fun c => { c with
  members := c.members.zipIdx.map fun e =>
    if e.2 = i && e.1.error.isNone then { e.1 with error := some (code, va / 32 * 32) } else e.1 }

/-- Reads the source on, sector by sector, until it is all read, an error ends it, or another package must answer; whether
the reading has ended. Log 53 (DEDUCED). -/
def copyRead (q : Nat) : Nat → M Bool
  | 0 => pure false
  | fuel + 1 => do
    let s ← get
    match (s.queue q).cmds with
    | [] => pure false
    | c :: _ =>
      let off := c.got.length
      if off ≥ c.len || c.readError.isSome then pure true
      else do
        let a := (Cap.cursor c.src.val + off) % 2 ^ 48
        let sid := (c.members.head?.map (·.sid)).getD 0
        let fail := fun (code : BitVec 8) => modHead q fun c => { c with readError := some (code, a / 32 * 32) }
        let r ← attempt (translateFor (engineGroup q) (s.colonyOf sid) (Cap.tenant c.src.val) a Cap.ld)
        match r with
        | .error (.trap code _ _) => do
          fail code
          pure true
        | .error e => throw e
        | .ok (p, pte) => do
          let p ← mirrorLoad p pte
          let s ← get
          if s.units.lost.contains (pkgOf p) then do
            fail cPeer
            pure true
          else if pkgOf p ≠ s.pkg then do
            let n := min (c.len - off) (min (65536 - a % 65536) (448 - p % 64))
            let _ ← asStrand sid (do
              let s ← get
              sendRequest (requestPacket s p 1 0 (Cap.tenant c.src.val) (.read n) [] false) sid (.copyRead q a))
            pure false
          else do
            let n := min (c.len - off) (32 - a % 32)
            let r ← attempt (pathRead a (localOf p) n)
            match r with
            | .ok bs => do
              modHead q fun c => { c with got := c.got ++ bs }
              copyRead q fuel
            | .error (.trap code _ _) => do
              fail code
              pure true
            | .error e => throw e

/-- Writes bytes of a requester's memory destination, line by line in this package, page by page to others. -/
def copyWrite (q i sid colony : Nat) (tenant : BitVec 12) : Nat → Nat → List Byte → M Unit
  | 0, _, _ => pure ()
  | fuel + 1, a, bs =>
    if bs.isEmpty then pure ()
    else do
      let r ← attempt (translateFor (engineGroup q) colony tenant a Cap.st)
      match r with
      | .error (.trap code _ _) => memberError q i code a
      | .error e => throw e
      | .ok (p, pte) => do
        let s ← get
        let away := pkgOf p ≠ s.pkg || pteM pte
        let n := min bs.length (if away then 65536 - a % 65536 else 128 - a % 128)
        let w : Posted := { path := 2, src := s.fullSid sid, use := fun o => .copyWrite q i (a + o), lost := memberError q i cPeer a }
        let r ← attempt (asStrand sid (putAt w a p pte (bs.take n) tenant))
        match r with
        | .error (.trap code _ _) => memberError q i code a
        | .error e => throw e
        | .ok _ => copyWrite q i sid colony tenant fuel ((a + n) % 2 ^ 48) (bs.drop n)

/-- Writes bytes into a tile of a running strand (R250): whole units repair, parts of failing ones are discarded (R430). -/
def tileWrite (sid tile off : Nat) (bs : List Byte) : M Unit := do
  for e in splitAt 32 (bs.length / 32 + 2) off bs do
    let s ← get
    let key := tileUnitKey sid tile (e.1 / 32)
    let whole := e.1 % 32 = 0 && e.2.length = 32
    if lookupD 0 s.badTiles key ≠ 0 && !whole then countEvent 0x2005
    else do
      modify fun s => { s with badTiles := storeAt 0 key 0 s.badTiles }
      modStrand sid fun t => { t with mtx := { t.mtx with
        tiles := storeRange 0 (tile * 8192 + e.1) e.2 t.mtx.tiles } }

/-- Keeps a write to a tile of a saved strand until the strand is restored (R250). -/
def State.keepWrite (s : State) (sid tile off : Nat) (bs : List Byte) : State :=
  let add := fun (v : VaultEntry) =>
    if s.savedNow v && v.strands.any fun x => x.1 = sid then { v with writes := v.writes ++ [(sid, tile, off, bs)] } else v
  { s with units := { s.units with vault := s.units.vault.map add } }

/-- A write to a tile of a strand of this package, running or saved (R250); a strand that has ended has no tile. -/
def tileArrival (sid tile off : Nat) (bs : List Byte) : M Unit := do
  let s ← get
  if (s.strand sid).live then tileWrite sid tile off bs else set (s.keepWrite sid tile off bs)

/-- Bytes of a destination that a source read up to `got` bytes fills: all of it, or whole sectors (R349). -/
def copyLimit (dst len got : Nat) : Nat := if got ≥ len then len else (dst + got) / 32 * 32 - dst

/-- The writes of the head command for each requester. Log 53 (DEDUCED). -/
def copyWrites (q : Nat) (c : CopyCmd) : M Unit := do
  for e in c.members.zipIdx do
    let m := e.1
    let s ← get
    if Cap.kind m.dst.val = Cap.kTile then do
      let (off, tile, sid) := tileDest m.dst
      let bs := c.got.take (copyLimit off c.len c.got.length)
      if sid / 16384 = s.pkg then tileArrival (sid % 16384) tile off bs
      else if s.units.lost.contains (sid / 16384) then memberError q e.2 cPeer (Cap.cursor m.dst.val)
      else
        for p in packetsOf off bs do
          let _ ← asStrand m.sid (do
            let s ← get
            sendRequest (requestPacket s (sid / 16384 * 2 ^ 41) 0 0 (Cap.tenant m.dst.val) (.tileWrite (sid % 16384) tile p.1) p.2 false)
              m.sid (.copyWrite q e.2 (Cap.cursor m.dst.val)))
    else do
      let a := Cap.cursor m.dst.val
      let bs := c.got.take (copyLimit a c.len c.got.length)
      copyWrite q e.2 m.sid (s.colonyOf m.sid) (Cap.tenant m.dst.val) (bs.length + 1) a bs
    match c.readError with
    | some (code, va) => memberError q e.2 code va
    | none => pure ()

/-- The follow-on of a command that has succeeded enters the dispatch queue of its target (R350). -/
def followOnOf (pkg q : Nat) (c : CopyCmd) : Option FollowOn :=
  match c.followOn, c.members with
  | some w, [m] =>
    some { queue := pkg * queuesPerPackage + q, target := (tileDest m.dst).2.2, mmt := fieldAt w 14 2 = 1, acc := fieldAt w 13 1,
           lt := fieldAt w 10 3, rt := fieldAt w 7 3, row0 := fieldAt w 0 6 }
  | _, _ => none

/-- The end of the head command: errors are recorded, futures filled, and the follow-on is issued. Log 32 (DEDUCED). Log 53 (DEDUCED). -/
def copyFinish (q : Nat) (c : CopyCmd) : M Unit := do
  modQueue q fun v => { v with cmds := v.cmds.drop 1 }
  for m in c.members do
    match m.error with
    | some (code, va) => recordQueueError q code va
    | none => pure ()
    let value := match m.error with
      | none => 0
      | some (code, va) => 2 ^ 63 + code.toNat * 2 ^ 48 + va % 2 ^ 48
    if m.fut.tag then do
      let r ← asStrand m.sid (fillFuture (.fillCopy q (Cap.cursor m.fut.val)) (engineGroup q) ⟨m.hyper, c.tid⟩ m.fut
        (Cap.st ||| Cap.atm) (BitVec.ofNat 64 value))
      match r with
      | some code => recordQueueError q code (Cap.cursor m.fut.val)
      | none => pure ()
    else pure ()
  let s ← get
  match followOnOf s.pkg q c with
  | some f =>
    if !c.members.all (fun m => m.error.isNone) then pure ()
    else if f.target / 16384 = s.pkg then post (.followOnIssue f)
    else do
      let _ ← sendRequest (requestPacket s (f.target / 16384 * 2 ^ 41) 8 0 c.tid (.followOn f) [] false)
        ((c.members.head?.map (·.sid)).getD 0) (.followOn q)
  | none => pure ()
  post (.copyCommand q)

/-- Sectors that a command writes, for the copy budget (R378). -/
def copySectors (c : CopyCmd) : Nat :=
  (c.members.map fun m =>
    let a := if Cap.kind m.dst.val = Cap.kTile then (tileDest m.dst).1 else Cap.cursor m.dst.val
    if c.len = 0 then 0 else (a % 32 + c.len + 31) / 32).sum

/-- The engine's turn at a queue: the head command goes as far as it can. It waits for its window to close, for its
budget, for a tile that is being read, and for other packages. -/
def copyTurn (q : Nat) : M Unit := do
  let s ← get
  match (s.queue q).cmds with
  | [] => pure ()
  | c :: _ =>
    let colony := s.colonyOf ((c.members.head?.map (·.sid)).getD 0)
    if (s.units.windows.any fun w => w.queue = q && w.cmd = c.id) || s.copyBusy q then pure ()
    else if !c.charged && !s.admits colony 4 (copySectors c) then pure ()
    else do
      if c.charged then pure ()
      else do
        modify fun s => (s.charge colony 4 (copySectors c)).countPackage 0x2003 (copySectors c)
        modHead q fun c => { c with charged := true }
      let ended ← copyRead q (c.len + 1)
      if !ended then pure ()
      else do
        let s ← get
        match (s.queue q).cmds with
        | [] => pure ()
        | c :: _ =>
          let held := c.members.any fun m => Cap.kind m.dst.val = Cap.kTile && (tileDest m.dst).2.2 / 16384 = s.pkg &&
            s.tileRead ((tileDest m.dst).2.2 % 16384) (tileDest m.dst).2.1
          if !c.written && held then post (.copyCommand q)
          else do
            if c.written then pure ()
            else do
              copyWrites q c
              modHead q fun c => { c with written := true }
            let s ← get
            if s.copyBusy q then pure ()
            else match (s.queue q).cmds with
              | c :: _ => copyFinish q c
              | [] => pure ()

/-- Puts an entry behind those of a saved strand (R350). -/
def State.queueSaved (s : State) (sid : Nat) (e : DispatchEntry) : State :=
  let add := fun (v : VaultEntry) =>
    if s.savedNow v && v.strands.any fun x => x.1 = sid then
      { v with queues := v.queues ++ [(coreOf sid, [e])] }
    else v
  { s with units := { s.units with vault := s.units.vault.map add } }

/-- Enters a follow-on into the dispatch queue of its target's core, or behind its entries while it is saved (R350). -/
def enterFollowOn (f : FollowOn) : M Unit := do
  let s ← get
  let sid := f.target % 16384
  let e : DispatchEntry :=
    { sid := sid, use := .dense, half := 0, mmt := f.mmt, acc := f.acc, lt := f.lt, rt := f.rt, row0 := f.row0, followOn := some f.queue }
  let saved := s.units.vault.any fun v => s.savedNow v && v.strands.any fun x => x.1 = sid
  if f.target / 16384 ≠ s.pkg || (!(s.strand sid).live && !saved) then followOnGone f
  else if saved then modify fun s => s.queueSaved sid e
  else do
    modCore (coreOf sid) fun c => { c with queue := c.queue ++ [e] }
    post (.dispatchRound (quadOf sid))

/-- `COPY_COMMAND` (R349). -/
def execCopyCommand (s : State) : Host.Outcome State Fault Refusal :=
  match s.now with
  | .copyCommand q => runEvent (copyTurn q) s
  | _ => .next s

/-- `FOLLOW_ON_ISSUE` (R350). -/
def execFollowOnIssue (s : State) : Host.Outcome State Fault Refusal :=
  match s.now with
  | .followOnIssue f => runEvent (enterFollowOn f) s
  | _ => .next s

/-- `COMBINE_WINDOW_CLOSE` (R351). -/
def execCombineWindowClose (s : State) : Host.Outcome State Fault Refusal :=
  match s.now with
  | .combineWindowClose quad => runEvent (closeWindows quad) s
  | _ => .next s

/-! ## `cpyw` (R352) -/

/-- `cpyw`. -/
def execCpyw (o : OpRR) (s : State) : Host.Outcome State Fault Refusal :=
  runOp ⟨o.st, 0, .access, [wDst o.a, wSrc o.b]⟩ (do
    let c ← readW 0 o.b
    let q ← checkQueue c
    let s ← get
    if (s.queue q).cmds.any fun c => c.members.any fun m => m.sid = s.cur then throw .retry
    modQueue q fun v => { v with err := false, cause := 0, addr := 0 }
    writeX o.a (s.queue q).status) s

end Sys2Proof.Machine
end

