-- ==== Sys2Proof/Machine/Reduction.lean ====
section
/-! DEFINITION. Reductions in the fabric (R421 to R427). -/

namespace Sys2Proof.Machine

open Sys2Proof.Machine.Float (Value)

/-! ## Comb (R424, R425) -/

/-- Bits of an element by type code. -/
def redBits (ty : Nat) : Nat := if ty = 0 || ty = 2 || ty = 4 then 32 else 64

/-- Comb of two elements: operation and type codes of R36. -/
def combElement (op ty x y : Nat) : Nat :=
  let w := redBits ty
  if ty ≥ 4 then
    let f := if ty = 4 then Float.f32 else Float.f64
    let a := Float.decode f x
    let b := Float.decode f y
    let v := match op with
      | 0 => (Float.add 0 a b).1
      | 1 => Float.minimum a b
      | _ => Float.maximum a b
    (Float.round f 0 0 v).1
  else
    let i := Float.patInt w (ty ≤ 1)
    match op with
    | 0 => (x + y) % 2 ^ w
    | 1 => if i y < i x then y else x
    | _ => if i y > i x then y else x

/-- Splits bytes into elements of `k` bytes. -/
def elements (k : Nat) (bs : List Byte) : List Nat :=
  (List.range (bs.length / k)).map fun i => leNat ((bs.drop (k * i)).take k)

/-- The scale of one triple in a merge (R425): its FP32 code. -/
def mergeScale (mi m : Value) : Nat :=
  let one := 0x3F800000
  if (Float.compare mi m).2 then one
  else if mi = .inf true then 0
  else
    let d := Float.decode Float.f32 (Float.round Float.f32 0 0 (Float.add 0 mi (Float.neg m)).1).1
    (Float.roundSpecial Float.f32 0 (Float.exp2 d).1).1

/-- Comb of two `merge2` triples, as FP32 words (R425). -/
def mergeTriples (x y : List Nat) : List Nat :=
  let f := Float.f32
  let m1 := Float.decode f (x.getD 0 0)
  let m2 := Float.decode f (y.getD 0 0)
  if m1 = .nan || m2 = .nan then x.map fun _ => Float.canonicalNaN f
  else
    let m := Float.maximum m1 m2
    let a1 := mergeScale m1 m
    let a2 := mergeScale m2 m
    if Float.isZero (Float.decode f a1) then y
    else if Float.isZero (Float.decode f a2) then x
    else
      let fused := fun (u v : Nat) =>
        (Float.round f 0 0 (Float.add 0 (Float.mul (Float.decode f u) (Float.decode f a1)).1
          (Float.mul (Float.decode f v) (Float.decode f a2)).1).1).1
      (Float.round f 0 0 m).1 :: ((x.drop 1).zip (y.drop 1)).map fun e => fused e.1 e.2

/-- Comb of two partial results of one segment. -/
def combBytes (op ty : Nat) (x y : List Byte) : List Byte :=
  let k := redBits ty / 8
  let r := if op = 3 then mergeTriples (elements 4 x) (elements 4 y)
    else ((elements k x).zip (elements k y)).map fun e => combElement op ty e.1 e.2
  r.flatMap (leBytes k)

/-- One level of the tree of R424 with blocks of `b` contributions: entries are the number combined and their bytes. -/
def combLevel (op ty b : Nat) : Nat → List (Nat × List Byte) → List (Nat × List Byte)
  | _, [] => []
  | _, [e] => [e]
  | p, e :: f :: l =>
    if p % (2 * b) = 0 && e.1 ≤ b then (e.1 + f.1, combBytes op ty e.2 f.2) :: combLevel op ty b (p + e.1 + f.1) l
    else e :: combLevel op ty b (p + e.1) (f :: l)

/-- The tree of R424: levels until one entry is left. -/
def combTree (op ty : Nat) : Nat → Nat → List (Nat × List Byte) → List Byte
  | 0, _, l => (l.headD (0, [])).2
  | fuel + 1, b, l =>
    match l with
    | [] => []
    | [e] => e.2
    | _ => combTree op ty fuel (2 * b) (combLevel op ty b 0 l)

/-- Entries of one segment in ascending sid. -/
def insertPart (p : Contribution) : List Contribution → List Contribution
  | [] => [p]
  | q :: l => if p.sid.toNat < q.sid.toNat then p :: q :: l else q :: insertPart p l

/-- The result of a segment (R424). -/
def RedGroup.segment (v : RedGroup) (op ty seg : Nat) : List Byte :=
  let ps := (v.parts.filter fun p => p.seg = seg).foldl (fun l p => insertPart p l) []
  combTree op ty 32 1 (ps.map fun p => (p.ctr, p.bytes))

/-! ## Phases -/

/-- The status word of R427 for a phase that completed, and for one that ended with a cause. -/
def redDone (ctr : Nat) : Word := BitVec.ofNat 64 (2 ^ 63 + ctr % 65536 * 2 ^ 32)
def redError (cause : BitVec 8) : Word := BitVec.ofNat 64 (2 ^ 62 + cause.toNat)

/-- Ends a strand's contribution to a group with a status. -/
def endContribution (sid b : Nat) (status : Word) : M Unit := modStrandOrSaved sid fun t =>
  if lookupD 0 t.redOpen b = 0 then t
  else { t with redOpen := storeAt 0 b 0 t.redOpen, redStatus := storeAt 0 b status t.redStatus }

/-- The header bytes 16 to 31 of a type-10 packet (R423). Log 18 (DESIGN CHOICE). -/
def redHeader (scope g op ty n seg phase ctr : Nat) (st : BitVec 8) : List Byte :=
  leBytes 2 (g % 16 + scope % 8 * 16) ++ leBytes 1 (op + ty * 4) ++ leBytes 1 0 ++ leBytes 2 (n - 1) ++ leBytes 2 (seg / 64) ++
    leBytes 4 phase ++ leBytes 2 ctr ++ leBytes 1 st.toNat ++ leBytes 1 0

/-- A type-10 packet of the current strand. Log 18 (DESIGN CHOICE). -/
def redPacket (s : State) (dst vc : Nat) (header bytes : List Byte) : Packet :=
  { requestPacket s (dst * 2 ^ 41) 10 vc 0 .none (header ++ bytes) false with dst := dst, addr := 0 }

/-- The parts of a contribution by segment: offset and bytes. -/
def segmentsOf (bs : List Byte) : List (Nat × List Byte) :=
  (List.range ((bs.length + segmentBytes - 1) / segmentBytes)).map fun i =>
    (i * segmentBytes, (bs.drop (i * segmentBytes)).take segmentBytes)

/-- Writes a result to one contributor's destination (R422, R426). What fails is that contributor's alone. Log 68 (DEDUCED). -/
def writeResult (b key sid ctr : Nat) (dst : Reg) (bytes : List Byte) : M Unit := asStrand sid (do
  let s ← get
  let tenant := Cap.tenant dst.val
  let a := Cap.cursor dst.val
  let whole ← attempt (translateRange tenant a bytes.length Cap.st)
  let fail := fun (e : Exc) => match e with
    | .trap c _ _ => c
    | _ => cXlat
  match whole with
  | .error e => endContribution sid b (redError (fail e))
  | .ok ps => do
    modStrand sid fun t => if lookupD 0 t.redOpen b = 0 then t
      else { t with redOpen := storeAt 0 b (2 + ctr) t.redOpen }
    let w : Posted := { path := 5, src := s.fullSid sid, use := fun _ => .reduce key, lost := endContribution sid b (redError cPeer) }
    for e in ps do
      for q in splitAt 32 (e.2.1 / 32 + 2) e.1 ((bytes.drop (e.1 - a)).take e.2.1) do
        let r ← attempt (putAt w q.1 (e.2.2.1 + (q.1 - e.1)) e.2.2.2 q.2 tenant)
        match r with
        | .error x => endContribution sid b (redError (fail x))
        | .ok _ => pure ()
    let s ← get
    if s.units.requests.any fun r => r.sid = sid && r.use = .reduce key then pure ()
    else endContribution sid b (redDone ctr))

/-- Ends a phase at this package's contributors: with a cause, or with the result of `ctr` contributions. Log 68 (DEDUCED). -/
def endPhase (scope g key : Nat) (cause : BitVec 8) (ctr : Nat) (bytes : List Byte) : M Unit := do
  let s ← get
  let v := s.redGroup key
  let b := groupBit scope g
  set (s.withRedGroup key (RedGroup.fresh (v.phase + 1)))
  for d in v.dests do
    modStrand d.1 fun t => { t with redTerms := t.redTerms &&& ~~~ (1#128 <<< b) }
  for d in v.dests do
    if cause ≠ 0 then endContribution d.1 b (redError cause)
    else writeResult b key d.1 ctr d.2 bytes

/-- Sends a phase's end to the other packages of a pod group and takes back their terms (R423). -/
def sendResult (job g phase : Nat) (cause : BitVec 8) (op ty n ctr : Nat) (bytes : List Byte) : M Unit := do
  let s ← get
  for e in s.remoteTerms job 7 g do
    if e.2 > 2 then
      if cause ≠ 0 then sendPacket (redPacket s e.1 1 (redHeader 5 g op ty n 0 phase 0 cause) [])
      else
        for q in segmentsOf bytes do
          sendPacket (redPacket s e.1 1 (redHeader 5 g op ty n q.1 phase ctr 0) q.2)
    modify fun s => { s with units := { s.units with
      remoteTerms := storeAt 0 (remoteKey job 7 g e.1) 0 s.units.remoteTerms } }

/-- Delivers the result of a phase at the root router, or what came back from the root (R423, R426). `group` is the group
number with the colony or job above it. Log 67 (DEDUCED). -/
def deliverPhase (scope group : Nat) (cause : BitVec 8) (result : Option (Nat × List Byte)) : M Unit := do
  let s ← get
  let inst := group / 16
  let g := group % 16
  let key := redKey inst scope g
  let v := s.redGroup key
  match result with
  | some (ctr, bytes) => endPhase scope g key cause ctr bytes
  | none =>
    match v.parts with
    | [] => if cause = 0 then pure () else endPhase scope g key cause 0 []
    | p :: _ =>
      let size := contributionSize p.op p.ty p.n
      let count := s.redCount scope inst g v
      let cause := if cause ≠ 0 then cause
        else if v.parts.all fun q => q.op = p.op && q.ty = p.ty && q.n = p.n then 0
        else cIll
      if cause = 0 && !v.whole size count then pure ()
      else do
        let bytes := if cause ≠ 0 then []
          else (List.range ((size + segmentBytes - 1) / segmentBytes)).flatMap fun i => v.segment p.op p.ty (i * segmentBytes)
        if scope = 5 then sendResult inst g v.phase cause p.op p.ty p.n count bytes else pure ()
        endPhase scope g key cause count bytes

/-- A segment of another package that has reached this package's root router (R423). -/
def takeSegment (r : RedPacket) : M Unit := do
  let s ← get
  let inst := r.group / 16
  let key := redKey inst r.scope (r.group % 16)
  let v := s.redGroup key
  let c : Contribution := { sid := r.sid, op := r.op.toNat, ty := r.ty.toNat, n := r.n, seg := r.seg, ctr := r.ctr, bytes := r.bytes }
  set (s.withRedGroup key { v with parts := v.parts ++ [c] })
  match s.running.find? (fun b => s.redInstance r.scope b = inst) with
  | some b => testReduction r.scope (r.group % 16) b
  | none => pure ()

/-! ## nred and nredw -/

/-- `nred` (R422). -/
def contribute (op ty : Nat) (o : OpRRR) (s : State) : Host.Outcome State Fault Refusal :=
  runOp ⟨o.st, 0, .access, threeSource o⟩ (do
    let n := o.imm.toNat + 1
    let z := contributionSize op ty n
    let gc ← readW 0 o.a
    let src ← readW 1 o.b
    let dst ← readW 2 o.c
    let (scope, g) ← checkGroup gc true
    checkCap src Cap.ld [Cap.kMemory] z
    let ps ← translateRange (Cap.tenant src.val) (Cap.cursor src.val) z Cap.ld
    checkCap dst Cap.st [Cap.kMemory] z
    let _ ← translateRange (Cap.tenant dst.val) (Cap.cursor dst.val) z Cap.st
    let b := groupBit scope g
    let t ← self
    raiseIf (lookupD 0 t.redOpen b ≠ 0 || !t.members.getLsbD b) cBar (Cap.cursor gc.val)
    let bytes ← sourceBytes src ps
    let s ← get
    let key := redKey (s.redInstance scope s.cur) scope g
    let root := s.redRoot scope (s.jobOf s.cur) g
    let v := s.redGroup key
    let mine := (segmentsOf bytes).map fun q =>
      ({ sid := s.fullSid s.cur, op := op, ty := ty, n := n, seg := q.1, ctr := 1, bytes := q.2 } : Contribution)
    if root = s.pkg then
      set (s.withRedGroup key { v with parts := v.parts ++ mine, dests := v.dests ++ [(s.cur, dst)] })
    else do
      raiseIf (s.units.lost.contains root) cPeer (Cap.cursor gc.val)
      set (s.withRedGroup key { v with dests := v.dests ++ [(s.cur, dst)] })
      for q in mine do
        sendPacket (redPacket s root 0 (redHeader scope g op ty n q.seg v.phase 1 0) q.bytes)
    modSelf fun t => { t with
      redTerms := t.redTerms ||| (1#128 <<< b)
      redOpen := storeAt 0 b 1 t.redOpen }
    testReduction scope g s.cur) s

/-- `nred.sum`. -/
def execNredSum (o : OpRRR) (m : RedMod) (s : State) : Host.Outcome State Fault Refusal := contribute 0 m.ty.toNat o s

/-- `nred.min`. -/
def execNredMin (o : OpRRR) (m : RedMod) (s : State) : Host.Outcome State Fault Refusal := contribute 1 m.ty.toNat o s

/-- `nred.max`. -/
def execNredMax (o : OpRRR) (m : RedMod) (s : State) : Host.Outcome State Fault Refusal := contribute 2 m.ty.toNat o s

/-- `nred.merge2`. -/
def execNredMerge2 (o : OpRRR) (s : State) : Host.Outcome State Fault Refusal := contribute 3 4 o s

/-- `nredw` (R427). -/
def execNredw (o : OpRR) (s : State) : Host.Outcome State Fault Refusal :=
  runOp ⟨o.st, 0, .access, [wDst o.a, wSrc o.b]⟩ (do
    let c ← readW 0 o.b
    let (scope, g) ← checkGroup c true
    let t ← self
    let b := groupBit scope g
    if lookupD 0 t.redOpen b ≠ 0 then throw .retry
    else do
      acquireAt scope
      writeX o.a (lookupD 0 t.redStatus b)) s

/-- `REDUCTION_COMBINE` (R423). -/
def execReductionCombine (s : State) : Host.Outcome State Fault Refusal :=
  match s.now with
  | .reductionCombine p => runEvent (takeSegment p) s
  | _ => .next s

/-- `REDUCTION_RESULT_DELIVER` (R423). -/
def execReductionResultDeliver (s : State) : Host.Outcome State Fault Refusal :=
  match s.now with
  | .reductionResultDeliver scope group cause result => runEvent (deliverPhase scope group cause result) s
  | _ => .next s

end Sys2Proof.Machine
end

