-- ==== Sys2Proof/Machine/CapInstr.lean ====
section
/-! DEFINITION. `lea` and the capability instructions (R111, R126 to R129). -/

namespace Sys2Proof.Machine

/-- A field of a capability as an integer result (R126). -/
def capField (o : OpRR) (f : Reg → Word) (s : State) : Host.Outcome State Fault Refusal :=
  runOp ⟨o.st, 1, .access, oneSource o⟩ (do
    let r ← readW 0 o.b
    writeX o.a (f r)) s

/-- A value advanced by an offset (R111): the tag is kept only while the new cursor is in range. -/
def advance (x : Reg) (y : Word) : Reg :=
  if x.tag then
    let a := (Cap.cursor x.val + y.toNat) % 2 ^ 48
    ⟨Cap.withCursor x.val a, Cap.inRangeOf x.val a⟩
  else Reg.ofWord (x.word + y)

/-- `lea` (R111). -/
def execLea (o : OpRRC) (s : State) : Host.Outcome State Fault Refusal :=
  runOp ⟨o.st, 1, .access, twoSource 0 o⟩ (do
    let x ← readW 0 o.x
    let y ← readX 1 o.y
    writeW o.a (advance x y)) s

/-- `cbase` (R126). -/
def execCbase (o : OpRR) (s : State) : Host.Outcome State Fault Refusal :=
  capField o (fun r => BitVec.ofInt 64 (Cap.base r.val)) s

/-- `clen` (R126). -/
def execClen (o : OpRR) (s : State) : Host.Outcome State Fault Refusal :=
  capField o (fun r => BitVec.ofInt 64 (Cap.top r.val - Cap.base r.val)) s

/-- `cperm` (R126): permissions in bits 11:0, kind in bits 18:16. -/
def execCperm (o : OpRR) (s : State) : Host.Outcome State Fault Refusal :=
  capField o (fun r => BitVec.ofNat 64 ((Cap.perms r.val).toNat + Cap.kind r.val * 65536)) s

/-- `ctid` (R126). -/
def execCtid (o : OpRR) (s : State) : Host.Outcome State Fault Refusal :=
  capField o (fun r => (Cap.tenant r.val).setWidth 64) s

/-- `cgtag` (R126). -/
def execCgtag (o : OpRR) (s : State) : Host.Outcome State Fault Refusal :=
  capField o (fun r => if r.tag then 1 else 0) s

/-- `csub` (R126): the difference of the cursors. -/
def execCsub (o : OpRRC) (s : State) : Host.Outcome State Fault Refusal :=
  runOp ⟨o.st, 1, .access, twoSource 0 o⟩ (do
    let x ← readW 0 o.x
    let y ← readW 1 o.y
    writeX o.a (BitVec.ofInt 64 ((Cap.cursor x.val : Int) - Cap.cursor y.val))) s

/-- `crestr` (R127). -/
def execCrestr (o : OpRRC) (s : State) : Host.Outcome State Fault Refusal :=
  runOp ⟨o.st, 1, .access, twoSource 0 o⟩ (do
    let x ← readW 0 o.x
    let y ← readX 1 o.y
    writeW o.a ⟨Cap.withPerms x.val (Cap.perms x.val &&& y.setWidth 12), x.tag⟩) s

/-- `cclr` (R127). -/
def execCclr (o : OpR) (s : State) : Host.Outcome State Fault Refusal :=
  runOp ⟨o.st, 1, .access, [wBoth o.a]⟩ (do
    let x ← readW 0 o.a
    writeW o.a ⟨x.val, false⟩) s

/-- `u(e)` of R128. -/
def boundSteps (lo hi e : Nat) : Nat := max ((hi + 2 ^ e - 1) / 2 ^ e - lo / 2 ^ e) 1

/-- A capability with other bounds fields. -/
def withBounds (c : Quad) (ex bm tm : Nat) : Quad :=
  Cap.make 0 0 0 tm bm ex (Cap.cursor c) ||| (c >>> 85) <<< 85

/-- The range of R128 narrowed to steps: the result, and whether a bound was rounded; none when no exponent fits, for
which the manual states no result. Log 33 (DESIGN CHOICE). -/
def narrow (x : Reg) (y : Word) : Option (Reg × Bool) :=
  let lo := Cap.cursor x.val
  let hi := lo + y.toNat
  match (List.range 31 ++ [32]).find? fun e => boundSteps lo hi e ≤ 65536 with
  | none => none
  | some e =>
    let nb := lo / 2 ^ e * 2 ^ e
    let nt := nb + boundSteps lo hi e * 2 ^ e
    let v := withBounds x.val (if e = 32 then 31 else e) (nb / 2 ^ e % 65536) (nt / 2 ^ e % 65536)
    some (⟨v, x.tag && hi ≤ 2 ^ 48 && Cap.base x.val ≤ nb && (nt : Int) ≤ Cap.top x.val⟩, nb ≠ lo || nt ≠ hi)

/-- `cbound` (R128). A range that no exponent can express reaches above 2^48: its result is untagged, and its bounds
fields and `cinexact` are not stated. Log 33 (DESIGN CHOICE). -/
def execCbound (o : OpRRC) (s : State) : Host.Outcome State Fault Refusal :=
  runOp ⟨o.st, 1, .access, twoSource 0 o⟩ (do
    let x ← readW 0 o.x
    let y ← readX 1 o.y
    match narrow x y with
    | some (r, inexact) => do
      setFlags (if inexact then Float.fCinexact else 0)
      writeW o.a r
    | none => do
      let v ← freeValue
      setFlags (if v.getLsbD 127 then Float.fCinexact else 0)
      writeW o.a ⟨withBounds x.val (bitsAt v 0 5) (bitsAt v 5 16) (bitsAt v 21 16), false⟩) s

/-- `cmint` (R129). -/
def execCmint (o : OpRRR) (s : State) : Host.Outcome State Fault Refusal :=
  runOp ⟨o.st, 1, .access, [wDst o.a, wSrc o.b, wSrc o.c]⟩ (do
    let m ← readW 0 o.b
    let t ← readW 1 o.c
    let self ← self
    raiseIf (!m.tag) cTag (Cap.cursor m.val)
    raiseIf (self.mode ≠ .hypervisor && Cap.tenant m.val ≠ self.tid) cTenant (Cap.cursor m.val)
    raiseIf (Cap.kind m.val ≠ Cap.kMemory || !Cap.has m.val Cap.mt) cPerm (Cap.cursor m.val)
    raiseIf (!Cap.mintable m.val t.val) cPerm (Cap.cursor t.val)
    writeW o.a ⟨t.val, true⟩) s

end Sys2Proof.Machine
end

