-- ==== Sys2Proof/Machine/Rows.lean ====
section
/-! DEFINITION. Rows of one instruction that only the control word in a register tells apart (R366, R368, R374, R381,
R386, R388, R296, R334): decode gives the first row of such a family, the row to run is chosen at the fetch, and the
meaning of a row without operands of its own takes those of the word in the strand's instruction register. -/

namespace Sys2Proof.Machine

/-- The operands of the word in the instruction register for a family of shape `rr`. Log 20 (DESIGN CHOICE). -/
def Strand.rowRR (t : Strand) : OpRR :=
  match t.decoded with
  | some (.colopConfigure o) => o
  | some (.bdgtRead o) => o
  | some (.tslotEntry o) => o
  | some (.dlogStatus o) => o
  | some (.tinvPage o) => o
  | _ => ⟨0, 0, 0⟩

/-- The operands of the word in the instruction register for a family of shape `rrr`. Log 20 (DESIGN CHOICE). -/
def Strand.rowRRR (t : Strand) : OpRRR :=
  match t.decoded with
  | some (.wlcfgConfigure o) => o
  | some (.ctrarmArm o) => o
  | some (.ringcfgBind o) => o
  | _ => ⟨0, 0, 0, 0, 0⟩

/-- The row of a `colop` by its operation (R366). Log 21 (DESIGN CHOICE). -/
def colopRow (o : OpRR) (op : Nat) : Instr :=
  match op with
  | 0x02 => .colopRead
  | 0x03 => .colopSplit
  | 0x04 => .colopMerge
  | 0x05 => .colopRemove
  | 0x06 => .colopHold
  | 0x07 => .colopRelease
  | 0x08 => .colopAdopt
  | 0x09 => .colopDebug
  | 0x0A => .colopHalt
  | 0x0B => .colopResume
  | 0x0C => .colopPeek
  | 0x0D => .colopPoke
  | 0x0E => .colopColour
  | 0x0F => .colopRoot
  | 0x10 => .colopControl
  | 0x11 => .colopJob
  | 0x12 => .colopMulticast
  | _ => .colopConfigure o

/-- The row of a `dlog` by its operation (R388). -/
def dlogRow (o : OpRR) (op : Nat) : Instr :=
  match op with
  | 1 => .dlogStart
  | 2 => .dlogStop
  | 3 => .dlogLeaveBitmap
  | _ => .dlogStatus o

/-- The row of a `tinv` by its kind (R296). -/
def tinvRow (o : OpRR) (kind : Nat) : Instr :=
  match kind with
  | 1 => .tinvTenant
  | 2 => .tinvAll
  | _ => .tinvPage o

/-- Bits 63:0 of a register of the current frame; 0 beyond it. -/
def State.peek (s : State) (n : RegNo) : Word :=
  let t := s.self
  if n.toNat < t.win.frame then (t.phys (t.physOf n.toNat)).word else 0

/-- The row of the fetched instruction that its control word selects. Log 21 (DESIGN CHOICE). -/
def selectRow (i : Instr) (s : State) : Instr :=
  match i with
  | .colopConfigure o => colopRow o (fieldAt (s.peek o.a) 0 8)
  | .bdgtRead o => if bitAt (s.peek o.a) 8 then .bdgtWrite else i
  | .tslotEntry o => if bitAt (s.peek o.a) 6 then .tslotControl else i
  | .dlogStatus o => dlogRow o (fieldAt (s.peek o.a) 0 2)
  | .tinvPage o => tinvRow o (fieldAt (s.peek o.a) 12 2)
  | .wlcfgConfigure o => if bitAt (s.peek o.b) 27 then .wlcfgFree else i
  | .ctrarmArm o => if bitAt (s.peek o.a) 10 then .ctrarmDisarm else i
  | .ringcfgBind o => if bitAt (s.peek o.a) 8 then .ringcfgUnbind else i
  | _ => i

end Sys2Proof.Machine
end

