-- ==== Sys2Proof/Machine/Message.lean ====
section
/-! DEFINITION. Messages, overflow areas, deposits and monitors (R152 to R164, R411). -/

namespace Sys2Proof.Machine

/-! ## The overflow area (R156) -/

/-- The start b and the slot count N of an overflow area. -/
def areaShape (c : Reg) : Option (Nat × Nat) :=
  if !c.tag then none
  else
    let b := (Cap.base c.val + 63) / 64 * 64
    let n := (Cap.top c.val - b - 64) / 64
    if n < 1 || b < 0 then none else some (b.toNat, n.toNat)

/-- Bytes of a strand's memory as its core reads them for the area; none on a fault. Log 39 (DEDUCED). -/
def areaRead (sid va n : Nat) : M (Option (List Byte)) := do
  let t ← getStrand sid
  let r ← attempt (asStrand sid (do
    let (p, e) ← translate t.tid va Cap.ld
    loadBytes va p n Manner.plain e t.tid))
  match r with
  | .ok (bs, _) => pure (some bs)
  | .error _ => pure none

/-- Writes bytes of the area; false on a fault. Log 39 (DEDUCED). -/
def areaWrite (sid va : Nat) (bs : List Byte) : M Bool := do
  let t ← getStrand sid
  let r ← attempt (asStrand sid (do
    let (p, e) ← translate t.tid va Cap.st
    storeBytes va p bs false Manner.plain e t.tid))
  match r with
  | .ok _ => pure true
  | .error _ => pure false

/-- The counters put and take of a strand's area with its shape. -/
def areaCounts (sid : Nat) : M (Option (Nat × Nat × Nat × Nat)) := do
  let t ← getStrand sid
  match areaShape t.rqovf with
  | none => pure none
  | some (b, n) => do
    let put ← areaRead sid b 8
    let take ← areaRead sid (b + 8) 8
    match put, take with
    | some p, some q => pure (some (b, n, leNat p, leNat q))
    | _, _ => pure none

/-- A message in the layout of R152. -/
def messageBytes (m : Message) : List Byte :=
  let tags := (m.payload.zipIdx.map fun e => if e.1.tag then 2 ^ e.2 else 0).sum
  leBytes 8 m.src.toNat ++ leBytes 2 m.kind.toNat ++ leBytes 1 m.payload.length ++ leBytes 1 tags ++ leBytes 4 0 ++
    (List.range 3).flatMap fun i => leBytes 16 ((m.payload[i]?).getD Reg.zero).val.toNat

/-- A message read from the layout of R152. Log 39 (DEDUCED). -/
def messageOf (bs : List Byte) : Message :=
  let tags := leNat ((bs.drop 11).take 1)
  { src := BitVec.ofNat 28 (leNat (bs.take 8))
    kind := BitVec.ofNat 16 (leNat ((bs.drop 8).take 2))
    payload := (List.range (min 3 (leNat ((bs.drop 10).take 1)))).map fun i =>
      ⟨BitVec.ofNat 128 (leNat ((bs.drop (16 + 16 * i)).take 16)), tags / 2 ^ i % 2 = 1⟩ }

/-- Moves messages from the area into the queue while the queue has room, at most `fuel` (R155). A fault on the write of the take
counter makes the area full (R156). -/
def refillQueue (sid : Nat) : Nat → M Unit
  | 0 => pure ()
  | fuel + 1 => do
    let t ← getStrand sid
    let c ← areaCounts sid
    match c with
    | some (b, n, put, take) =>
      if t.inbox.length < 64 && put ≠ take then do
        let bs ← areaRead sid (b + 64 + 64 * (take % n)) 64
        match bs with
        | none => pure ()
        | some bs => do
          let ok ← areaWrite sid (b + 8) (leBytes 8 (take + 1))
          if ok then do
            modStrand sid fun t => { t with inbox := t.inbox ++ [messageOf bs], wake := true }
            refillQueue sid fuel
          else modStrand sid fun t => { t with areaFull := true }
      else pure ()
    | none => pure ()

/-- Offers a message to a strand of this package (R155): whether its core accepts it. An area whose counters cannot be read may hold
older messages and counts as full. Log 39 (DEDUCED). -/
def offerMessage (sid : Nat) (m : Message) : M Bool := do
  let t ← getStrand sid
  if !t.live then pure false
  else do
    refillQueue sid 64
    let t ← getStrand sid
    let c ← areaCounts sid
    let waiting := match c with
      | some (_, _, put, take) => put ≠ take
      | none => (areaShape t.rqovf).isSome
    if !waiting && t.inbox.length < 64 then do
      modStrand sid fun t => { t with inbox := t.inbox ++ [m], wake := true }
      pure true
    else match c with
      | some (b, n, put, take) =>
        if t.areaFull || put - take ≥ n then pure false
        else do
          let ok1 ← areaWrite sid (b + 64 + 64 * (put % n)) (messageBytes m)
          let ok2 ← if ok1 then areaWrite sid b (leBytes 8 (put + 1)) else pure false
          if ok2 then do
            modStrand sid fun t => { t with wake := true }
            pure true
          else do
            modStrand sid fun t => { t with areaFull := true }
            pure false
      | none => do
        if (areaShape t.rqovf).isSome then modStrand sid fun t => { t with areaFull := true } else pure ()
        pure false

/-- Records a refused sender at the target, up to 64 (R411). -/
def recordRefusal (sid : Nat) (sender : BitVec 28) : M Unit :=
  modify fun s =>
    let l := lookupD [] s.units.refusals sid
    if l.contains sender || l.length ≥ 64 then s
    else { s with units := { s.units with refusals := storeAt [] sid (l ++ [sender]) s.units.refusals } }

/-- Tells the oldest refused sender that a slot is free (R411). -/
def noticeSlot (sid : Nat) : M Unit := do
  let s ← get
  if (lookupD [] s.units.refusals sid).isEmpty then pure () else post (.reofferNotice sid)

/-! ## send and recv -/

/-- The smallest scope that contains two strands of this package (R154). -/
def commonScope (a b : Nat) : Nat :=
  if coreOf a = coreOf b then 1 else if quadOf a = quadOf b then 2 else if dieOf a = dieOf b then 3 else 4

/-- clk of the strand's island in a number of nanoseconds (R382). -/
def State.clkIn (s : State) (sid ns : Nat) : Nat :=
  ns * (lookupD Island.initial s.units.islands (dieOf sid * 32 + quadOf sid % 128 / 4)).mhz / 1000

/-- Offers the message of a `send` once every older store is performed (R154, R155): accepted or not. Log 37 (DEDUCED). -/
def offerFrom (target : Nat) (c : Reg) (m : Message) : M Bool := do
  awaitPuts
  let s ← get
  if target / 16384 = s.pkg then do
    let sid := target % 16384
    releaseAt (commonScope s.cur sid)
    let ok ← offerMessage sid m
    if !ok then recordRefusal sid m.src else pure ()
    pure ok
  else do
    releaseAt 5
    let a ← askRemote (Cap.cursor c.val) (target / 16384 * 2 ^ 41) 5 2 (Cap.tenant c.val) (.message m (target % 16384)) [] false
    pure (a.op = .accepted)

/-- `send` (R154). While the target refuses, the instruction waits; it offers again on a notice, and every 2 µs (R411). Log 16 (DEDUCED). Log 37 (DEDUCED). -/
def execSend (o : OpRRR) (s : State) : Host.Outcome State Fault Refusal :=
  let n := o.imm.toNat + 1
  runOp ⟨o.st, 0, .access,
    wSrc o.a :: ((List.range n).map fun i => ⟨0, o.b.toNat + i, true, false⟩) ++ [wSrc o.c]⟩ (do
    let c ← readW 0 o.a
    checkCap c Cap.st [Cap.kStrand] 1
    let ps ← (List.range n).mapM fun i => readW (1 + i) (o.b + BitVec.ofNat 6 i)
    raiseIf (ps.any fun r => r.tag && !Cap.has r.val Cap.gl) cPerm (Cap.cursor c.val)
    let k ← readX (1 + n) o.c
    let s ← get
    let t := s.self
    let target := Cap.cursor c.val % 2 ^ 28
    let m : Message := { src := s.fullSid s.cur, kind := k.setWidth 16, payload := ps }
    let due := match t.refusedAt with
      | none => true
      | some f => t.reoffer || t.asked ≠ [] || (t.clk - f) % max 1 (s.clkIn s.cur 2000) = 0
    let ok ← if due then offerFrom target c m else pure false
    if ok then pure ()
    else do
      let from_ := t.refusedAt.getD t.clk
      -- what the target has noted of the refusal stands (R156, R411)
      if t.clk - from_ ≥ t.sndto.toNat then throw (.trapKeep cSendblk (BitVec.ofNat 64 (Cap.cursor c.val)) (some t.sndto)) else pure ()
      modSelf fun t => { t with
        refusedAt := some from_
        reoffer := false
        asked := if due then [] else t.asked
        answers := if due then [] else t.answers }
      throw .wait) s

/-- The header value that `recv` writes (R157). -/
def messageHeader (m : Message) : Word :=
  BitVec.ofNat 64 (2 ^ 63 + m.payload.length * 2 ^ 48 + m.kind.toNat * 2 ^ 32 + m.src.toNat)

/-- `recv` (R157). -/
def execRecv (o : OpRR) (s : State) : Host.Outcome State Fault Refusal :=
  runOp ⟨o.st, 0, .access,
    [wDst o.a, ⟨0, o.a.toNat + 1, false, true⟩, ⟨0, o.a.toNat + 2, false, true⟩, wDst o.b]⟩ (do
    let t ← self
    let sid ← curSid
    if t.inbox.isEmpty then refillQueue sid 64 else pure ()
    let t ← self
    match t.inbox with
    | [] => writeX o.b 0
    | m :: rest => do
      modSelf fun t => { t with inbox := rest }
      writeW o.a ((m.payload[0]?).getD Reg.zero)
      writeW (o.a + 1) ((m.payload[1]?).getD Reg.zero)
      writeW (o.a + 2) ((m.payload[2]?).getD Reg.zero)
      writeX o.b (messageHeader m)
      let s ← get
      let own := m.src.toNat / 16384 = s.pkg
      acquireAt (if own then commonScope s.cur (m.src.toNat % 16384) else 5)
      let t ← self
      if t.rqovf.tag then post (.overflowRefill s.cur) else pure ()
      noticeSlot s.cur) s

/-! ## Deposits (R158) -/

/-- A deposit offered to a strand of this package: none when it was applied, otherwise whether the strand is loaded. -/
def offerDeposit (sid : Nat) (n : Word) (v : Reg) : M (Option Bool) := do
  let t ← getStrand sid
  if !t.live then pure (some false)
  else if n.toNat ≥ t.win.frame then pure (some true)
  else do
    applyDeposit sid (t.physOf n.toNat) n.toNat v
    pure none

/-- `rdep` (R158). Log 16 (DEDUCED). -/
def execRdep (o : OpRRR) (m : MemMod) (s : State) : Host.Outcome State Fault Refusal :=
  runOp ⟨o.st, 0, .access, threeSource o⟩ (do
    let c ← readW 0 o.a
    let v ← readW 1 o.b
    let n ← readX 2 o.c
    checkCap c Cap.dp [Cap.kStrand] 1
    raiseIf (v.tag && !Cap.has v.val Cap.gl) cPerm (Cap.cursor c.val)
    if m.ord = 2 then awaitPuts else pure ()
    ordRelease m.ord.toNat m.scope.toNat
    let s ← get
    let target := Cap.cursor c.val % 2 ^ 28
    let reply ← if target / 16384 = s.pkg then offerDeposit (target % 16384) n v
      else do
        let a ← askRemote (Cap.cursor c.val) (target / 16384 * 2 ^ 41) 6 2 (Cap.tenant c.val) (.deposit n v (target % 16384)) [] v.tag
        pure (match a.op with
          | .refused => some true
          | .notLoaded => some false
          | _ => none)
    match reply with
    | none => pure ()
    | some loaded => raise2 cDepref (Cap.cursor c.val) ((if loaded then 0 else 2 ^ 63) ||| n.toNat)) s

/-! ## Monitors (R161 to R164) -/

/-- `mon` (R162). -/
def execMon (o : OpR) (s : State) : Host.Outcome State Fault Refusal :=
  runOp ⟨o.st, 0, .access, [wSrc o.a]⟩ (do
    let c ← readW 0 o.a
    if c.tag then do
      let (p, _) ← checkAccess c Cap.ld [Cap.kMemory] 1
      let bits := (monitorBits (p / 128)).foldl (fun f b => f ||| (1#1024 <<< b)) 0
      modSelf fun t => { t with monitor := t.monitor ||| bits }
    else modSelf fun t => { t with monitor := 0 }) s

/-- `wait` (R164). -/
def execWait (o : OpN) (s : State) : Host.Outcome State Fault Refusal :=
  runOp ⟨o.st, 0, .access, []⟩ (do
    let t ← self
    if t.wake || !t.inbox.isEmpty then modSelf fun t => { t with wake := false }
    else do
      modSelf fun t => { t with asleep := true }
      throw .wait) s

end Sys2Proof.Machine
end

