-- ==== Sys2Proof/Machine/System.lean ====
section
/-! DEFINITION. Control and status registers, traps, breakpoints and returns (R81 to R88, R130 to R133, R389, R390). -/

namespace Sys2Proof.Machine

/-! ## Control and status registers -/

/-- `qocc` (R88). -/
def Strand.queueCounts (t : Strand) : Word :=
  BitVec.ofNat 64 (t.bqEA.length % 32 * 2 ^ 32 + t.bqAE.length % 32 * 2 ^ 24 + t.xq.length % 32 * 2 ^ 16 +
    t.sq.length % 64 * 2 ^ 8 + t.lq.length % 64)

/-- The current strand's core counter `i`. -/
def State.coreCounter (s : State) (i : Nat) : Counter := lookupD Counter.zero (s.core (coreOf s.cur)).counters i

/-- The value of a CSR of the current strand (R81). -/
def State.csr (s : State) (n : Nat) : Reg :=
  let t := s.self
  match n with
  | 0x000 => Reg.ofWord ((s.fullSid s.cur).setWidth 64)
  | 0x001 => Reg.ofWord (t.tid.setWidth 64)
  | 0x002 => Reg.ofWord (BitVec.ofNat 64 t.mode.num)
  | 0x003 => Reg.ofWord t.status
  | 0x004 => Reg.ofWord t.ctl
  | 0x008 => Reg.ofWord t.cycle
  | 0x009 => Reg.ofWord t.instret
  | 0x00A => Reg.ofWord (BitVec.ofNat 64 s.time)
  | 0x00B => Reg.ofWord t.timecmp
  | 0x010 => t.utrap.tvec
  | 0x011 => t.utrap.epc
  | 0x012 => Reg.ofWord t.utrap.cause
  | 0x013 => Reg.ofWord t.utrap.val
  | 0x014 => Reg.ofWord t.uval2
  | 0x020 => t.strap.tvec
  | 0x021 => t.strap.epc
  | 0x022 => Reg.ofWord t.strap.cause
  | 0x023 => Reg.ofWord t.strap.val
  | 0x030 => t.htrap.tvec
  | 0x031 => t.htrap.epc
  | 0x032 => Reg.ofWord t.htrap.cause
  | 0x033 => Reg.ofWord t.htrap.val
  | 0x040 => Reg.ofWord (BitVec.ofNat 64 t.win.base)
  | 0x041 => Reg.ofWord (BitVec.ofNat 64 t.win.frame)
  | 0x042 => t.win.spill
  | 0x043 => Reg.ofWord (BitVec.ofNat 64 t.win.depth)
  | 0x050 => Reg.ofWord (BitVec.ofNat 64 t.vec.lanes.length)
  | 0x051 => Reg.ofWord (BitVec.ofNat 64 t.vec.vlen)
  | 0x052 => Reg.ofWord (BitVec.ofNat 64 t.vec.vstart)
  | 0x058 => Reg.ofWord t.frm
  | 0x059 => Reg.ofWord t.fexc
  | 0x060 => Reg.ofWord t.wlbound
  | 0x061 => Reg.ofWord t.wlstat
  | 0x068 => t.rqovf
  | 0x069 => Reg.ofWord t.sndto
  | 0x06A => Reg.ofWord t.depcol
  | 0x070 => Reg.ofWord t.queueCounts
  | 0x0A0 => Reg.ofWord (BitVec.ofNat 64 t.felem)
  | 0x0A1 => Reg.ofWord t.faddr
  | n =>
    if 0x080 ≤ n && n < 0x088 then Reg.ofWord (BitVec.ofNat 64 (s.coreCounter (n - 0x080)).count)
    else if 0x088 ≤ n && n < 0x090 then Reg.ofWord ((s.coreCounter (n - 0x088)).source.setWidth 64)
    else if 0x090 ≤ n && n < 0x098 then Reg.ofWord (s.coreCounter (n - 0x090)).threshold
    else Reg.zero

/-- The state with one of the current core's counters changed. -/
def State.withCoreCounter (s : State) (i : Nat) (f : Counter → Counter) : State :=
  let c := s.core (coreOf s.cur)
  s.withCore (coreOf s.cur) { c with
    counters := storeAt Counter.zero i (f (lookupD Counter.zero c.counters i)) c.counters }

/-- The low bits of a word. -/
def lowBits (w : Word) (n : Nat) : Nat := w.toNat % 2 ^ n

/-- Sets the bits that a CSR has; those that it lacks are ignored (R82). Privilege and values are checked before. -/
def State.withCsr (s : State) (n : Nat) (r : Reg) : State :=
  let w := r.word
  let put := fun (f : Strand → Strand) => s.withSelf (f s.self)
  match n with
  | 0x001 => put fun t => { t with tid := w.setWidth 12 }
  | 0x002 => put fun t => { t with mode := match lowBits w 2 with
      | 0 => .user
      | 1 => .supervisor
      | _ => .hypervisor }
  | 0x003 => put fun t => { t with status := w &&& 0x31FF }
  | 0x004 => put fun t => { t with ctl := w &&& 7 }
  | 0x008 => put fun t => { t with cycle := w }
  | 0x009 => put fun t => { t with instret := w }
  | 0x00B => put fun t => { t with timecmp := w }
  | 0x010 => put fun t => { t with utrap := { t.utrap with tvec := r } }
  | 0x011 => put fun t => { t with utrap := { t.utrap with epc := r } }
  | 0x012 => put fun t => { t with utrap := { t.utrap with cause := w &&& 0x7FF } }
  | 0x013 => put fun t => { t with utrap := { t.utrap with val := w } }
  | 0x014 => put fun t => { t with uval2 := w }
  | 0x020 => put fun t => { t with strap := { t.strap with tvec := r } }
  | 0x021 => put fun t => { t with strap := { t.strap with epc := r } }
  | 0x022 => put fun t => { t with strap := { t.strap with cause := w &&& 0x7FF } }
  | 0x023 => put fun t => { t with strap := { t.strap with val := w } }
  | 0x030 => put fun t => { t with htrap := { t.htrap with tvec := r } }
  | 0x031 => put fun t => { t with htrap := { t.htrap with epc := r } }
  | 0x032 => put fun t => { t with htrap := { t.htrap with cause := w &&& 0x7FF } }
  | 0x033 => put fun t => { t with htrap := { t.htrap with val := w } }
  | 0x040 => put fun t => { t with win := { t.win with base := lowBits w 8 } }
  | 0x041 => put fun t => { t with win := { t.win with frame := lowBits w 7 } }
  | 0x042 => put fun t => { t with win := { t.win with spill := r } }
  | 0x043 => put fun t => { t with win := { t.win with depth := lowBits w 32 } }
  | 0x051 => put fun t => { t with vec := { t.vec with vlen := lowBits w 10 } }
  | 0x052 => put fun t => { t with vec := { t.vec with vstart := lowBits w 10 } }
  | 0x058 => put fun t => { t with frm := w &&& 7 }
  | 0x059 => put fun t => { t with fexc := w &&& 0x7F }
  | 0x060 => put fun t => { t with wlbound := w &&& 0xFFFF }
  | 0x061 => put fun t => { t with wlstat := w &&& 0xFF03 }
  | 0x068 => put fun t => { t with rqovf := r, areaFull := false }
  | 0x069 => put fun t => { t with sndto := w &&& 0xFFFFFFFF }
  | 0x06A => put fun t => { t with depcol := w &&& 0xFFFFFFFF }
  | 0x0A0 => put fun t => { t with felem := lowBits w 10 }
  | 0x0A1 => put fun t => { t with faddr := w &&& 0xFFFFFFFFFFFF }
  | n =>
    if 0x080 ≤ n && n < 0x088 then s.withCoreCounter (n - 0x080) fun c => { c with count := lowBits w 48 }
    else if 0x088 ≤ n && n < 0x090 then s.withCoreCounter (n - 0x088) fun c => { c with source := w.setWidth 16 }
    else if 0x090 ≤ n && n < 0x098 then s.withCoreCounter (n - 0x090) fun c => { c with threshold := w }
    else s

/-- Whether a CSR holds a capability (R81). -/
def csrWide (n : Nat) : Bool := [0x010, 0x011, 0x020, 0x021, 0x030, 0x031, 0x042, 0x068].contains n

/-- The lowest mode that may read a CSR (R81). -/
def csrReadMode (n : Nat) : Mode :=
  if 0x020 ≤ n && n < 0x024 then .supervisor else if 0x030 ≤ n && n < 0x034 then .hypervisor else .user

/-- The lowest mode that may write a CSR (R81). -/
def csrWriteMode (n : Nat) : Mode :=
  if [0x004, 0x010, 0x011, 0x012, 0x013, 0x014, 0x052, 0x058, 0x059, 0x068, 0x069, 0x06A, 0x0A0, 0x0A1].contains n then
    .user
  else if n = 0x001 || (0x030 ≤ n && n < 0x034) then .hypervisor
  else .supervisor

/-- The checks of a `csrw` that come before the frame: values that a field excludes, then privilege (R39, R82, R84). Bits 6:5 of `status`,
which only the hypervisor writes, exclude a value for it alone. Log 36 (DEDUCED). -/
def csrwChecks (n : Nat) (a : RegNo) : M Unit := do
  let t ← self
  let x ← peekX a
  illIf (n = 0x003 && (fieldAt x 3 2 = 3 || (t.mode = .hypervisor && fieldAt x 5 2 = 3)))
  illIf ((n = 0x052 || n = 0x0A0) && lowBits x 10 > 511)
  raiseIf (t.mode.num < (csrWriteMode n).num) cPriv n
  raiseIf (n = 0x004 && t.mode = .user && a.toNat < t.win.frame && bitAt x 1 ≠ bitAt t.ctl 1) cPriv n

/-- The bits of `status` that a write changes in a mode (R83). -/
def statusMask (m : Mode) : Word := if m = .hypervisor then 0x1FF else 0x11F

/-- The value checks of capability CSRs (R82, R156) and the write. -/
def csrWrite (n : Nat) (r : Reg) : M Unit := do
  let t ← self
  let a := Cap.cursor r.val
  if n = 0x010 || n = 0x020 || n = 0x030 then do
    raiseIf (!r.tag) cTag a
    raiseIf (Cap.kind r.val ≠ Cap.kEntry || !Cap.has r.val Cap.x) cPerm a
  else if n = 0x042 || n = 0x068 then do
    raiseIf (!r.tag) cTag a
    raiseIf (Cap.kind r.val ≠ Cap.kMemory || !Cap.has r.val (Cap.ld ||| Cap.st ||| Cap.lc ||| Cap.sc)) cPerm a
  else pure ()
  if n = 0x068 then do
    let sid ← curSid
    let c ← areaCounts sid
    match c with
    | some (b, _, put, take) => raiseIf (put ≠ take) cPerm b
    | none => pure ()
  else pure ()
  if n = 0x003 then
    let m := statusMask t.mode
    modSelf fun t => { t with status := (t.status &&& ~~~ m) ||| (r.word &&& m) }
  else modify fun s => s.withCsr n r

/-- A `csrw` (R130): joint, so older results and flags come before it. -/
def csrwOp (o : OpRI) (s : State) : Host.Outcome State Fault Refusal :=
  let n := o.imm.toNat
  runPriv ⟨o.st, 0, .joint, [wSrc o.a]⟩ (csrwChecks n o.a) (do
    let r ← readW 0 o.a
    csrWrite n r) s

/-- `csrr` (R130). -/
def execCsrr (o : OpRI) (s : State) : Host.Outcome State Fault Refusal :=
  let n := o.imm.toNat
  runPriv ⟨o.st, 0, .joint, [wDst o.a]⟩ (do
    let t ← self
    raiseIf (t.mode.num < (csrReadMode n).num) cPriv n) (do
    let s ← get
    writeW o.a (s.csr n)) s

/-- `csrw` (R130). -/
def execCsrw (o : OpRI) (s : State) : Host.Outcome State Fault Refusal := csrwOp o s

/-- `csrw timecmp`: ends or starts the pending state of the timer (R431). -/
def execCsrwTimecmp (o : OpRI) (s : State) : Host.Outcome State Fault Refusal := csrwOp o s

/-- `csrw rqovf`: names another overflow area (R156). -/
def execCsrwRqovf (o : OpRI) (s : State) : Host.Outcome State Fault Refusal := csrwOp o s

/-! ## Traps, breakpoints, returns -/

/-- `trap` (R131): takes `syscall` with return address NPC. -/
def execTrap (o : OpI) (s : State) : Host.Outcome State Fault Refusal :=
  runOp ⟨o.st, 0, .joint, []⟩ (raise cSyscall o.imm.toNat) s

/-- `uret` (R132). -/
def execUret (o : OpN) (s : State) : Host.Outcome State Fault Refusal :=
  runWith ⟨o.st, 0, .joint, []⟩ 0 (do
    let t ← self
    illIf (!bitAt t.status 8)) returnUser s

/-- A mode from two status bits. -/
def modeOf (n : Nat) : Mode := if n = 0 then .user else if n = 1 then .supervisor else .hypervisor

/-- `sret` (R389). -/
def execSret (o : OpN) (s : State) : Host.Outcome State Fault Refusal :=
  runWith ⟨o.st, 0, .joint, []⟩ 0 (do
    needMode .supervisor
    let t ← self
    raiseIf (fieldAt t.status 3 2 > t.mode.num || fieldAt t.status 3 2 = 3) cPriv t.illValue) (do
    let t ← self
    returnSupervisor (modeOf (fieldAt t.status 3 2))) s

/-- `hret` (R389), whose `ill` comes before `priv` as that of every instruction (R39). Log 36 (DEDUCED). -/
def execHret (o : OpN) (s : State) : Host.Outcome State Fault Refusal :=
  runWith ⟨o.st, 0, .joint, []⟩ 0 (do
    let t ← self
    illIf (fieldAt t.status 5 2 = 3)
    needMode .hypervisor) (do
    let t ← self
    returnHypervisor (modeOf (fieldAt t.status 5 2))) s

/-- `wfi` (R390). -/
def execWfi (o : OpN) (s : State) : Host.Outcome State Fault Refusal :=
  runPriv ⟨o.st, 0, .joint, []⟩ (needMode .supervisor) (do
    let s ← get
    let t := s.self
    let timer := t.timecmp ≠ 0 && s.time ≥ t.timecmp.toNat
    let codes := t.pending.map (·.1) ++ (if timer then [cTimer] else [])
    if codes.any fun c => hyperCause c || t.mode = .supervisor then pure ()
    else do
      modSelf fun t => { t with asleep := true }
      throw .wait) s

/-- `brk` (R133, R144): halts both roles for an attached debugger; without one it is illegal. Log 34 (DESIGN CHOICE). -/
def execBrk (o : OpI) (s : State) : Host.Outcome State Fault Refusal :=
  runPriv ⟨o.st, 0, .joint, []⟩ (do
    let t ← self
    illIf (!t.debugger.attached)) (do
    let s ← get
    modSelf fun t => { t with status := t.status ||| 0x3000 }
    modify fun u => { u with units := { u.units with debugOut := u.units.debugOut ++
      [(s.cur, 0, BitVec.ofNat 64 o.imm.toNat), (s.cur, 1, BitVec.ofNat 64 s.self.pc)] } }) s

end Sys2Proof.Machine
end

