-- ==== Sys2Proof/Machine/SaveImage.lean ====
section
/-! DEFINITION. The save image (R140 to R144), `ctxs` and `ctxr` (R391). -/

namespace Sys2Proof.Machine

/-! ## Layout (R140, R141) -/

/-- Granules of a save image. -/
def imageGranules : Nat := 0x2080

/-- A granule that holds a number. -/
def granule (v : Nat) : Reg := ⟨BitVec.ofNat 128 v, false⟩

/-- Values of `w` bits packed into `n` granules, the first in the lowest bits; what is missing is zero. -/
def packGranules (w : Nat) : Nat → List Nat → List Reg
  | 0, _ => []
  | n + 1, vs =>
    let per := 128 / w
    granule ((vs.take per).zipIdx.foldl (fun acc e => acc + e.1 % 2 ^ w * 2 ^ (w * e.2)) 0) :: packGranules w n (vs.drop per)

/-- Registers in `n` granules, the rest zero. -/
def padGranules (n : Nat) (rs : List Reg) : List Reg := (rs ++ List.replicate (n - rs.length) Reg.zero).take n

/-- The CSRs of the CSR block in ascending number (R140). -/
def savedCsrs : List Nat :=
  [1, 2, 3, 4, 8, 9, 0xB] ++ (List.range 5).map (· + 0x10) ++ (List.range 4).map (· + 0x20) ++
    (List.range 4).map (· + 0x30) ++ (List.range 4).map (· + 0x40) ++ [0x50, 0x51, 0x52, 0x58, 0x59, 0x60, 0x61, 0x68,
    0x69, 0x6A] ++ (List.range 24).map (· + 0x80) ++ [0xA0, 0xA1]

/-- The link records of resident frames, oldest first: each names the origin of the frame that its call made. Log 27 (DEDUCED). -/
def Window.linkGranules (w : Window) : List Reg :=
  let made := w.origin :: w.links.map (·.origin)
  ((w.links.zip made).map fun e =>
    [e.1.pcc, granule (e.1.f % 256 + e.1.o % 256 * 2 ^ 8 + e.2 % 256 * 2 ^ 16)]).reverse.flatten

/-- A message in its slot of the image, with the tags of its payload (R78, R140). -/
def messageGranules (m : Message) : List Reg :=
  let tags := (m.payload.zipIdx.map fun e => if e.1.tag then 2 ^ e.2 else 0).sum
  granule (m.src.toNat + m.kind.toNat * 2 ^ 64 + m.payload.length * 2 ^ 80 + tags * 2 ^ 88) :: padGranules 3 m.payload

/-- Owner and copy bits of a physical register (R140). -/
def Strand.ownerBits (t : Strand) (i : Nat) : Nat :=
  (if t.eOwned.getLsbD i then 1 else 0) + (if t.copies.getLsbD i then 2 else 0)

/-- The header (R141): `flags` as given. -/
def State.imageHeader (s : State) (sid flags : Nat) : List Reg :=
  let t := s.strand sid
  [granule (1 + flags * 2 ^ 16 + 0x20800 * 2 ^ 32 + t.lq.length * 2 ^ 64 + t.sq.length * 2 ^ 72 + t.xq.length * 2 ^ 80 +
      t.bqAE.length * 2 ^ 88 + t.bqEA.length * 2 ^ 96 + t.reissue.length * 2 ^ 104 + t.win.links.length * 2 ^ 112 +
      t.inbox.length * 2 ^ 120),
    granule (s.fullSid sid).toNat, Reg.zero, Reg.zero]

/-- A strand as its image shows it: with one role ahead of a halted one, at the boundary where the halted role stands (R142,
R144). Log 97 (DEDUCED). -/
def State.shown (s : State) (sid : Nat) : Strand :=
  let t := s.strand sid
  match t.apart with
  | some (.ahead a) => { t with pcc := a.start.getD t.pcc }
  | _ => t

/-- The progress points of a strand's access and execute roles (R89). -/
def State.points (s : State) (sid : Nat) : Nat × Nat :=
  let t := s.strand sid
  let own := t.pc
  let of := fun (r : Role) (p q : Nat) => if r = .access then (p, q) else (q, p)
  match t.apart with
  | none => (own, own)
  | some (.ahead a) => of a.halted (s.shown sid).pc own
  | some (.behind lag point) => of lag own point

/-- Whether the image of a strand has flag bit 1: its roles stand at different points (R141). -/
def State.split (s : State) (sid : Nat) : Bool := (s.points sid).1 ≠ (s.points sid).2

/-- The save image of a strand (R140), granule by granule. Log 9 (DEDUCED). -/
def State.imageOf (s : State) (sid flags : Nat) : List Reg :=
  let t := s.shown sid
  let points := s.points sid
  let flags := flags + (if s.split sid then 2 else 0)
  let words := fun (ws : List Word) => ws.map (·.toNat)
  s.imageHeader sid flags ++
    [t.pcc, granule (points.1 + points.2 * 2 ^ 64)] ++
    packGranules 2 4 ((List.range 256).map t.ownerBits) ++
    padGranules 16 (t.reissue.map fun r => ⟨r, false⟩) ++
    padGranules 6 [] ++
    padGranules 64 (savedCsrs.map fun n => { s with cur := sid }.csr n) ++
    padGranules 128 t.win.linkGranules ++
    padGranules 32 t.lq ++ padGranules 32 t.sq ++ padGranules 16 t.xq ++
    packGranules 64 8 (words t.bqAE) ++ packGranules 64 8 (words t.bqEA) ++
    lookupRange Reg.zero t.regs 0 256 ++
    packGranules 128 8 ((List.range 8).map fun i => t.monitor.toNat / 2 ^ (128 * i)) ++
    packGranules 32 16 ((lookupRange 0 t.vec.seeds 0 64).map (·.toNat)) ++
    packGranules 32 2 ((lookupRange 0 t.mtx.descs 0 8).map (·.toNat)) ++
    packGranules 64 1 (words [s.watermark sid 0, s.watermark sid 1]) ++
    padGranules 5 [] ++
    padGranules 256 (t.inbox.flatMap messageGranules) ++
    packGranules 128 32 ((List.range 32).map fun i => (lookupD 0 t.vec.k (i / 4)).toNat / 2 ^ (128 * (i % 4))) ++
    packGranules 64 128 (words (lookupRange 0 t.vec.mq 0 256)) ++
    packGranules 64 128 (words (lookupRange 0 t.vec.mc 0 256)) ++
    packGranules 64 1024 (words (lookupRange 0 t.vec.v 0 2048)) ++
    packGranules 8 4096 ((lookupRange 0 t.mtx.tiles 0 65536).map (·.toNat)) ++
    packGranules 32 2048 ((lookupRange 0 t.mtx.accs 0 8192).map (·.toNat))

/-! ## Reading an image -/

/-- `n` granules of an image from a byte offset. -/
def imageAt (rs : List Reg) (off n : Nat) : List Reg := (rs.drop (off / 16)).take n

/-- A field of an image that lies in one granule: byte offset and size. -/
def imageField (rs : List Reg) (off n : Nat) : Nat :=
  (rs.getD (off / 16) Reg.zero).val.toNat / 2 ^ (8 * (off % 16)) % 2 ^ (8 * n)

/-- The values of `w` bits that granules hold. -/
def unpackGranules (w : Nat) (rs : List Reg) : List Nat :=
  rs.flatMap fun r => (List.range (128 / w)).map fun i => r.val.toNat / 2 ^ (w * i) % 2 ^ w

/-- A sparse map with the given values from key 0 upwards. -/
def packMap {α : Type} [DecidableEq α] (d : α) (vs : List α) : SMap α :=
  (vs.zipIdx.filter fun e => e.1 ≠ d).map fun e => (e.2, e.1)

/-- The CSR of a number in an image. -/
def imageCsr (rs : List Reg) (n : Nat) : Reg := rs.getD (0x20 + savedCsrs.idxOf n) Reg.zero

/-- Whether a header is one that `ctxr` takes (R141). -/
def headerOk (rs : List Reg) : Bool :=
  imageField rs 0 2 = 1 && imageField rs 2 2 < 8 && imageField rs 8 1 ≤ 32 && imageField rs 9 1 ≤ 32 &&
    imageField rs 10 1 ≤ 16 && imageField rs 11 1 ≤ 16 && imageField rs 12 1 ≤ 16 && imageField rs 13 1 ≤ 16 &&
    imageField rs 14 1 ≤ 64 && imageField rs 15 1 ≤ 64 && imageField rs 24 8 = 0 && imageField rs 32 16 = 0 &&
    imageField rs 48 16 = 0

/-- The message in an image slot. -/
def imageMessage (rs : List Reg) : Message :=
  let h := (rs.headD Reg.zero).val.toNat
  { src := BitVec.ofNat 28 h, kind := BitVec.ofNat 16 (h / 2 ^ 64)
    payload := (rs.drop 1).take (min 3 (h / 2 ^ 80 % 256)) }

/-- The links of an image, newest first, with origin and overlap of the current frame. The oldest caller's own origin is
taken to be its base at the call, and the current frame's, where no frame is resident, the window base. Log 27 (DEDUCED). -/
def imageWindow (rs : List Reg) : List Link × Nat × Nat :=
  (List.range (imageField rs 14 1)).foldl (fun (acc : List Link × Nat × Nat) i =>
    let a := 0x600 + 32 * i
    let f := imageField rs (a + 16) 1
    let o := imageField rs (a + 17) 1
    let made := imageField rs (a + 18) 1
    let l : Link := { pcc := rs.getD (a / 16) Reg.zero, f := f, o := o,
                      origin := if i = 0 then (made + 256 + o - f) % 256 else acc.2.1,
                      overlap := acc.2.2, kept := true }
    (l :: acc.1, made, o)) ([], (imageCsr rs 0x40).val.toNat % 256, 0)

/-- How the roles of an image stand to each other: together, or one of them, at the PCC, behind the other (R142, R391). -/
def imageApart (rs : List Reg) : Option Apart :=
  let a := imageField rs 0x50 8
  let e := imageField rs 0x58 8
  let pc := Cap.cursor (rs.getD 4 Reg.zero).val
  if a = e then none
  else if a = pc then some (.behind .access e)
  else if e = pc then some (.behind .execute a)
  else none

/-- A well-formed descriptor of an image; no image that a save has written holds another (R222). Log 100 (DESIGN CHOICE). -/
def imageDesc (v : Nat) : BitVec 32 := if illFormed (BitVec.ofNat 32 v) then 0 else BitVec.ofNat 32 v

/-- The strand with the fields of an image that are no CSR and do not depend on the grant; `note` is what the package has kept
beside the image, and `byInstr` tells a `ctxr` from the restore of a colony. After a `ctxr` every register is A-owned (R47), and
both roles have a copy; in an image whose roles stand apart the queues hold values for registers as their bits show them, and
these stay until the roles have met. Log 97 (DEDUCED). -/
def Strand.restored (t : Strand) (rs : List Reg) (note : Option SaveNote) (byInstr : Bool) : Strand :=
  let owners := unpackGranules 2 (imageAt rs 0x60 4)
  let mask := fun (b : Nat) => owners.zipIdx.foldl (fun m e => if e.1 / 2 ^ b % 2 = 1 then m ||| (1#256 <<< e.2) else m) 0
  let w := imageWindow rs
  let apart := imageApart rs
  let together := byInstr && apart.isNone
  let win := { t.win with links := w.1, origin := w.2.1, overlap := w.2.2, kept := true, hidden := (note.map (·.hidden)).getD [] }
  let region : Region := match note with
    | some n => { n.region with state := .lost, known := n.region.known && n.region.state ≠ .none }
    | none => { Region.none with state := .lost }
  let k := (List.range 8).map fun i => BitVec.ofNat 512
    ((imageAt rs (0x3600 + 64 * i) 4).zipIdx.foldl (fun n e => n + e.1.val.toNat * 2 ^ (128 * e.2)) 0)
  let marks := ((unpackGranules 64 (imageAt rs 0x25A0 1)).map (BitVec.ofNat 64 ·)).zipIdx
  let mtx : MatrixState := {
    tiles := packMap 0 ((unpackGranules 8 (imageAt rs 0x8800 4096)).map (BitVec.ofNat 8 ·))
    descs := packMap 0 ((unpackGranules 32 (imageAt rs 0x2580 2)).map imageDesc)
    accs := packMap 0 ((unpackGranules 32 (imageAt rs 0x18800 2048)).map (BitVec.ofNat 32 ·))
    marks := (marks.filter fun e => e.1 ≠ 0x40).map fun e => (e.2, e.1) }
  { t with
    pcc := rs.getD 4 Reg.zero
    apart := apart
    eOwned := if together then 0 else mask 0
    copies := if together then BitVec.allOnes 256 else mask 1
    win := win
    lq := imageAt rs 0xE00 (imageField rs 8 1)
    sq := imageAt rs 0x1000 (imageField rs 9 1)
    xq := imageAt rs 0x1200 (imageField rs 10 1)
    bqAE := ((unpackGranules 64 (imageAt rs 0x1300 8)).take (imageField rs 11 1)).map (BitVec.ofNat 64 ·)
    bqEA := ((unpackGranules 64 (imageAt rs 0x1380 8)).take (imageField rs 12 1)).map (BitVec.ofNat 64 ·)
    regs := packMap Reg.zero (imageAt rs 0x1400 256)
    monitor := BitVec.ofNat 1024
      ((imageAt rs 0x2400 8).zipIdx.foldl (fun n e => n + e.1.val.toNat * 2 ^ (128 * e.2)) 0)
    inbox := (List.range (imageField rs 15 1)).map fun i => imageMessage (imageAt rs (0x2600 + 64 * i) 4)
    vec := { t.vec with k := packMap 0 (0 :: k.drop 1) }
    mtx := mtx
    region := region
    owed := (note.map (·.owed)).getD []
    reissue := (((imageAt rs 0xA0 (imageField rs 13 1)).map (·.val)).filter fun r => r.getLsbD 112)
    stream := none
    operands := []
    holding := none
    inSync := false
    inflight := []
    refusedAt := none
    reoffer := false
    asleep := false
    wake := true }

/-- The lane contents of an image for the positions of the grant. -/
def VecState.withLanes (v : VecState) (rs : List Reg) : VecState :=
  let g := v.lanes.length
  let file := fun (off n : Nat) =>
    dropPositions g (packMap (0 : Word) ((unpackGranules 64 (imageAt rs off (32 * n))).map (BitVec.ofNat 64 ·)))
  { v with
    v := file 0x4800 32
    mq := file 0x3800 4
    mc := file 0x4000 4
    seeds := dropPositions g (packMap 0 ((unpackGranules 32 (imageAt rs 0x2480 16)).map (BitVec.ofNat 32 ·))) }

/-- Binds the positions of a fresh grant to the lanes they had before, as far as those are free, and the others to the
lowest-numbered free lanes (R172, R377). -/
def State.rebind (s : State) (sid g : Nat) (former : List Nat) : State :=
  let q := quadOf sid
  let free := s.freeSet q
  let keep := (former.take g).map fun l => if free.contains l then some l else none
  let spare := free.filter fun l => !keep.contains (some l)
  let lanes := ((List.range g).foldl (fun (acc : List Nat × List Nat) i =>
    match keep.getD i none with
    | some l => (acc.1 ++ [l], acc.2)
    | none => (acc.1 ++ acc.2.take 1, acc.2.drop 1)) ([], spare)).1
  let t := s.strand sid
  s.withStrand sid { t with vec := { t.vec with lanes := lanes } }

/-- Clears the slices of a quad with their tags (R172). -/
def State.clearSlices (s : State) (q : Nat) : State :=
  let a := sliceAddr q 0 0
  let out := fun (unit k : Nat) => k < a / unit || k ≥ (a + 0x100000) / unit
  { s with
    mem := s.mem.filter fun c => out 1 c.1
    tags := s.tags.filter fun e => out 16 e.1
    bad := s.bad.filter fun e => out 32 e.1 }

/-- Notes that a strand of a tenant is loaded on a quad; another tenant's slices are cleared first (R172). -/
def State.enterQuad (s : State) (q : Nat) (t : BitVec 12) : State :=
  if (s.quad q).tenant = some t then s
  else
    let s := s.clearSlices q
    s.withQuad q { s.quad q with tenant := some t }

/-- Releases every lane of a strand and claims the image's number of them, a multiple of 8 (R168, R169, R391). Log 100 (DESIGN CHOICE). -/
def claimSaved (sid n : Nat) (former : List Nat) : M Unit := do
  modify fun s => s.setGrant sid 0
  modStrand sid fun t => { t with vec := { t.vec with demand := 0 } }
  if n = 0 then pure ()
  else do
    let s ← get
    let (g, d) := s.decideClaim sid (min 64 ((n + 7) / 8 * 8))
    set (s.rebind sid g former)
    modStrand sid fun t => { t with vec := { t.vec with demand := d } }
  offerLanes (quadOf sid)

/-- The bytes that a width code of a reissue record stands for (R143). -/
def reissueBytes (w : Nat) : Nat := if w ≥ 4 then 16 else 2 ^ w

/-- Reissues a load that a forced save recorded (R143). Log 60 (DEDUCED). -/
def reissueLoad (tenant : BitVec 12) (q : Reissue) : M Unit := do
  let r := q.toNat
  let n := reissueBytes (r / 2 ^ 96 % 8)
  let p := r % 2 ^ 55
  let (bs, tag) ← loadBytes (p % 2 ^ 48) p n ⟨0, r / 2 ^ 100 % 8, false, 0⟩ 0 tenant
  let v : Reg := if n = 16 then ⟨BitVec.ofNat 128 (leNat bs), tag⟩
    else Reg.ofWord (if r / 2 ^ 99 % 2 = 1 then BitVec.ofInt 64 (Float.patInt (8 * n) true (leNat bs))
      else BitVec.ofNat 64 (leNat bs))
  let dst := r / 2 ^ 104 % 256
  if r / 2 ^ 103 % 2 = 1 then modSelf fun t => { t with lq := t.lq.set (dst % 32) v }
  else modSelf fun t => { t with regs := storeAt Reg.zero dst v t.regs }

/-- A strand without its oldest record of a load to reissue. -/
def Strand.reissued (t : Strand) : Strand := { t with reissue := t.reissue.tail, asked := [], answers := [], opIndex := 0 }

/-- A strand's reissue of its oldest recorded load, before its next instruction (R143). Log 60 (DEDUCED). -/
def reissueTurn : M Unit := do
  modSelf fun t => { t with opIndex := 0 }
  let t ← self
  match t.reissue with
  | [] => pure ()
  | q :: _ => reissueLoad t.tid q
  modSelf Strand.reissued

/-- What the package has kept beside the image of a strand of its own, told by strand and `cycle`. Log 59 (DEDUCED). -/
def State.noteOf (s : State) (rs : List Reg) : Option SaveNote :=
  let sid := imageField rs 16 8
  if sid / 16384 ≠ s.pkg then none
  else (s.quad (quadOf (sid % 16384))).saves.find? fun n =>
    n.sid = sid % 16384 && n.cycle.toNat = (imageCsr rs 3).val.toNat % 2 ^ 64

/-- Notes beside the image of a strand, as it stands after the save, what the image does not hold (R71, R172, R310). -/
def State.noteSave (s : State) (sid : Nat) (after : Strand) : State :=
  let q := s.quad (quadOf sid)
  let n : SaveNote := { sid := sid, cycle := after.cycle, lanes := after.vec.lanes, hidden := after.win.hidden,
                        owed := s.owedBy sid, region := after.region }
  s.withQuad (quadOf sid) { q with saves := n :: q.saves.filter fun x => !(x.sid = sid && x.cycle = after.cycle) }

/-- Restores every field of an image on the current strand (R391): the CSRs, the grant, and the records of loads, which the
strand reissues before its next instruction (R143); then the acquire of R310. A quad on which another tenant's image is loaded clears its slices first (R172). Log 59 (DEDUCED). -/
def restoreImage (rs : List Reg) (byInstr : Bool) : M Unit := do
  let sid ← curSid
  modify fun s => s.enterQuad (quadOf sid) (BitVec.ofNat 12 (imageCsr rs 1).val.toNat)
  let s ← get
  let note := s.noteOf rs
  let former := match note with
    | some n => if quadOf n.sid = quadOf sid then n.lanes else []
    | none => []
  let halted := imageField rs 2 2 / 4 % 2 = 1 && s.self.debugger.attached
  claimSaved sid ((imageCsr rs 0x50).val.toNat % 128) former
  modSelf fun t => t.restored rs note byInstr
  for n in savedCsrs do
    modify fun s => s.withCsr n (imageCsr rs n)
  modSelf fun t => { t with
    vec := t.vec.withLanes rs
    -- the list of popped tasks stays in place (R326)
    wlstat := putBit t.wlstat 0 (!t.tasks.isEmpty)
    status := if halted then t.status else t.status &&& ~~~ 0x3000 }
  modify fun s => { s with
    badTiles := s.badTiles.filter fun e => e.1 / 2048 ≠ sid
    badRows := s.badRows.filter fun e => e.1 / 128 ≠ sid }
  acquireAt 4

/-! ## ctxs and ctxr -/

/-- The checks of a capability for an image (R391): the translated pieces. -/
def checkImage (c : Reg) (perm : BitVec 12) : M (List (Nat × Nat × Nat × Word)) := do
  checkCap c perm [Cap.kMemory] 0x20800
  raiseIf (Cap.cursor c.val % 64 ≠ 0) cAlign (Cap.cursor c.val)
  translateRange (Cap.tenant c.val) (Cap.cursor c.val) 0x20800 perm

/-- `ctxs` (R391): the image is that of the state after it, with 1 in the register that names it. -/
def execCtxs (o : OpR) (s : State) : Host.Outcome State Fault Refusal :=
  let d : Desc := ⟨o.st, 0, .joint, [wBoth o.a]⟩
  runPriv d (needMode .supervisor) (do
    let c ← readW 0 o.a
    let ps ← checkImage c (Cap.st ||| Cap.sc)
    waitForLanes
    modSelf fun t => { t.drain with stream := none }
    releaseAt 4
    let sid ← curSid
    let s ← get
    let t := s.self.putW o.a.toNat (Reg.ofWord 1)
    let after := t.complete t d 0 (t.pccAt t.npc)
    set (s.noteSave sid after)
    storeGranules ps (Cap.tenant c.val) (Cap.cursor c.val) ((s.withSelf after).imageOf sid 0)
    writeX o.a 0) s

/-- `ctxr` (R391): continues at the image's PCC. Its own time and count are not added to the restored ones. Log 59 (DEDUCED). -/
def execCtxr (o : OpR) (s : State) : Host.Outcome State Fault Refusal :=
  runWith ⟨o.st, 0, .joint, [wSrc o.a]⟩ 0 (needMode .supervisor) (do
    let c ← readW 0 o.a
    let ps ← checkImage c (Cap.ld ||| Cap.lc)
    let rs ← loadGranules ps (Cap.tenant c.val) (Cap.cursor c.val) imageGranules
    illIf (!headerOk rs)
    let t ← self
    raiseIf ((imageCsr rs 2).val.toNat % 4 > t.mode.num || ((imageCsr rs 1).val.toNat % 4096 ≠ t.tid.toNat &&
      t.mode ≠ .hypervisor)) cPriv t.illValue
    waitForLanes
    restoreImage rs true
    modSelf fun t => { t with
      cycle := t.cycle - BitVec.ofNat 64 (1 + o.st.toNat), instret := t.instret - 1, role := .joint }
    let t ← self
    pure (.goto t.pcc)) s

end Sys2Proof.Machine
end

