-- ==== Sys2Proof/Machine/Swarm.lean ====
section
/-! DEFINITION. Swarm worklists: die engines, homes, pushes, pops and tasks (R314 to R337). -/

namespace Sys2Proof.Machine

/-! ## Names and state -/

/-- The name of an instance: package id, die and slot. -/
def instName (pkg die slot : Nat) : Nat := pkg * 2048 + die * 256 + slot

/-- An engine: package id times 8 plus die. -/
def engineName (pkg die : Nat) : Nat := pkg * 8 + die

/-- The slots of a handle's cursor (R315): package, die, slot and generation. -/
def handleName (c : Reg) : Nat × Nat × Nat × Nat :=
  let a := Cap.cursor c.val
  (a / 2 ^ 34 % 2 ^ 14, a / 2 ^ 30 % 16, a / 2 ^ 22 % 256, a / 2 ^ 10 % 4096)

/-- A handle's cursor. -/
def handleCursor (pkg die slot gen : Nat) : Nat := pkg * 2 ^ 34 + die * 2 ^ 30 + slot * 2 ^ 22 + gen % 4096 * 2 ^ 10

/-- A home slot of this package. -/
def State.slot (s : State) (die i : Nat) : HomeSlot := lookupD (HomeSlot.free 0) (s.die die).slots i

/-- Changes a home slot. -/
def modSlot (die i : Nat) (f : HomeSlot → HomeSlot) : M Unit := modify fun s =>
  let d := s.die die
  s.withDie die { d with slots := storeAt (HomeSlot.free 0) i (f (s.slot die i)) d.slots }

/-- The items of a die engine. -/
def modItems (die : Nat) (f : List Item → List Item) : M Unit := modify fun s =>
  let d := s.die die
  s.withDie die { d with items := f d.items }

/-- Counted items of an instance (R316). -/
def HomeSlot.counted (h : HomeSlot) : Nat := (h.g.map (·.2)).sum + h.above

/-- Quiescence (R316). -/
def HomeSlot.quiet (h : HomeSlot) : Bool := h.counted = 0 && h.inflight = 0

/-- The bucket of a key. -/
def HomeSlot.bucket (h : HomeSlot) (key : Nat) : Nat := key >>> h.s

/-- The global physical address of a slot's port (R343). -/
def slotPort (pkg die slot : Nat) : Nat := pkg * 2 ^ 41 + 0x1F020000000 + (die * 256 + slot) * 64

/-- The item's instance by home die and slot. -/
def instDie (inst : Nat) : Nat := inst / 256 % 8
def instSlot (inst : Nat) : Nat := inst % 256

/-- Whether a count or a task end of a strand for a home is on its way or waits there, so that a later message of the strand must
not overtake it (R318). -/
def State.worklistBusy (s : State) (sid die i : Nat) : Bool :=
  (s.agenda.any fun e => match e with
    | .countApply c => c.sid = sid && c.home = die && c.slot = i
    | .taskEndApply t => t.sid = sid && t.home = die && t.slot = i
    | _ => false) ||
    (s.slot die i).held.any (fun c => c.sid = sid) || (s.slot die i).ends.any fun t => t.sid = sid

/-- A packet between die engines and homes, to another package. -/
def swarmPacket (s : State) (pkg : Nat) (op : PacketOp) : Packet := requestPacket s (pkg * 2 ^ 41) 11 3 0 op [] false

/-! ## CheckHandle (R315) -/

/-- `CheckHandle` for an identity; `broken` also accepts a broken instance. -/
def checkHandleAs (who : Identity) (c : Reg) (broken : Bool) : M (Nat × Nat × Nat × Nat) := do
  checkCapAs who c Cap.wl [Cap.kWorklist] 1
  let s ← get
  let a := Cap.cursor c.val
  let (pkg, die, i, gen) := handleName c
  raiseIf (a % 1024 ≠ 0 || die ≥ 8) cPerm a
  if pkg = s.pkg then do
    let h := s.slot die i
    raiseIf (!h.used || h.gen ≠ gen) cPerm a
    raiseIf (h.broken && !broken) cPeer (slotPort pkg die i)
  else raiseIf (s.units.lost.contains pkg && !broken) cPeer (slotPort pkg die i)
  pure (pkg, die, i, gen)

/-- `CheckHandle` for the current strand. -/
def checkHandle (c : Reg) (broken : Bool) : M (Nat × Nat × Nat × Nat) := do
  let t ← self
  checkHandleAs t.identity c broken

/-- The scope of an instance; one of another package that this one can use spans the pod. Log 57 (DEDUCED). -/
def State.instScope (s : State) (pkg die i : Nat) : Nat := if pkg = s.pkg then (s.slot die i).scope else 5

/-- Whether a strand lies in the instance of a scope around a home of this package (R298); the home of another package answers
for a strand of a pod job. -/
def State.inInstScope (s : State) (sid pkg die i : Nat) : Bool :=
  if pkg ≠ s.pkg then s.jobOf sid ≠ 0
  else match (s.slot die i).scope with
    | 3 => dieOf sid = die
    | 4 => true
    | _ => match s.colony (s.slot die i).colony with
      | some c => c.job ≠ 0 && s.jobOf sid = c.job
      | none => false

/-- Whether strands of a pod job in other packages lie in the instance around a home here (R298). -/
def State.servesJob (s : State) (die i job : Nat) : Bool :=
  (s.slot die i).scope = 5 && (match s.colony (s.slot die i).colony with
    | some c => c.job ≠ 0 && c.job = job
    | none => false)

/-- What the home in another package answers about an instance before a push or a pop (R315, R319, R324): its rank bound, its
spill area, and the block that this engine may write its next run into; the faults of CheckHandle and, for a strand of a pod job,
of the scope are raised. -/
def askHome (c : Reg) (pkg die i gen job : Nat) : M (Nat × AwayArea) := do
  let s ← get
  let inst := instName pkg die i
  let a ← askRemote (Cap.cursor c.val) (slotPort pkg die i) 11 3 (Cap.tenant c.val)
    (.wlAsk inst gen job (engineName s.pkg (dieOf s.cur))) [] false
  pure (match a.op with
    | .wlInfo k _ spill block => (k, ⟨inst, gen, spill, block⟩)
    | _ => (0, ⟨inst, gen, Reg.zero, none⟩))

/-- Notes at an engine what the home of an instance has answered. -/
def noteArea (die : Nat) (x : AwayArea) : M Unit := modify fun s =>
  let d := s.die die
  s.withDie die { d with areas := x :: d.areas.filter fun y => !(y.inst = x.inst && y.gen = x.gen) }

/-! ## Spill areas (R331, R332) -/

/-- Blocks of a spill area. -/
def areaBlocks (c : Reg) : Nat := min 32256 ((((Cap.top c.val - Cap.base c.val) - 4096) / 4096).toNat)

/-- The place of a byte of an instance's spill area with its leaf, if it can be reached. -/
def spillPlace (die colony : Nat) (c : Reg) (off : Nat) : M (Option (Nat × Word)) := do
  let va := (Cap.base c.val + off).toNat
  let r ← attempt (translateFor die colony (Cap.tenant c.val) va (Cap.ld ||| Cap.st))
  pure (match r with
    | .ok e => some e
    | .error _ => none)

/-- Writes bytes of a spill area at its home, and a tag for 16 of them: both copies of a mirrored page. -/
def spillWrite (die colony : Nat) (c : Reg) (off : Nat) (bs : List Byte) (tag : Bool) : M Unit := do
  let e ← spillPlace die colony c off
  match e with
  | none => pure ()
  | some (p, pte) =>
    for q in (if pteM pte then [p, mirrorOf p] else [p]) do
      let s ← get
      if pkgOf q = s.pkg then do
        homeWrite (localOf q) bs
        if tag then modify fun s => s.putTag (localOf q) true else pure ()
      else
        for e in packetsOf q bs do
          sendPacket (requestPacket s e.1 0 0 (Cap.tenant c.val) .write e.2 tag)

/-- Notes at a home whether a block of its instance's area holds a run, in the head of the area too (R332). -/
def setBlock (die i b : Nat) (held : Bool) : M Unit := do
  let s ← get
  let h := s.slot die i
  let blocks := if held then b :: h.blocks.erase b else h.blocks.erase b
  modSlot die i fun h => { h with blocks := blocks, leases := h.leases.filter fun e => e.2 ≠ b }
  let bits := ((List.range 8).map fun k => if blocks.contains (b / 8 * 8 + k) then 2 ^ k else 0).sum
  spillWrite die h.colony h.spill (64 + b / 8) (leBytes 1 bits) false
  spillWrite die h.colony h.spill 4 (leBytes 4 (areaBlocks h.spill - blocks.length)) false

/-- A block of an instance's area that is neither held nor promised. -/
def HomeSlot.freeBlock (h : HomeSlot) : Option Nat :=
  if h.spill.tag then (List.range (areaBlocks h.spill)).find? fun b => !h.blocks.contains b && !h.leases.any fun e => e.2 = b
  else none

/-- A record of an item (R332). -/
def recordBytes (x : Item) : List Byte :=
  leBytes 4 x.key ++ leBytes 1 x.cls ++ leBytes 11 0 ++ leBytes 16 x.arg.val.toNat

/-- Items in ascending key order. -/
def insertItem (x : Item) : List Item → List Item
  | [] => [x]
  | y :: l => if x.key < y.key then x :: y :: l else y :: insertItem x l

def sortItems (l : List Item) : List Item := l.foldl (fun acc x => insertItem x acc) []

/-- Whether an item of an engine may be proposed. -/
def Item.poppable (x : Item) (inst gen : Nat) : Bool := x.inst = inst && x.gen = gen && !x.pending && !x.away && x.reserved.isNone

/-- Poppable items of an instance on a die's chip. -/
def chipItems (items : List Item) (inst gen : Nat) : List Item :=
  items.filter fun x => x.poppable inst gen && x.run.isNone

/-- Where an engine can spill a run of an instance: the area and a free block, which the home has promised to the engine when it is
in another package. -/
def State.spillTarget (s : State) (die inst gen : Nat) : Option (Reg × Nat) :=
  if inst / 2048 = s.pkg then
    let h := s.slot (instDie inst) (instSlot inst)
    if h.used && h.gen = gen then h.freeBlock.map fun b => (h.spill, b) else none
  else match (s.die die).areas.find? fun x => x.inst = inst && x.gen = gen with
    | some x => if x.spill.tag then x.block.map fun b => (x.spill, b) else none
    | none => none

/-- The home of an instance learns that a block of its area holds a run, or no longer does. -/
def tellBlock (die inst gen b : Nat) (held : Bool) : M Unit := do
  let s ← get
  if inst / 2048 = s.pkg then setBlock (instDie inst) (instSlot inst) b held
  else do
    if held then modify fun s =>
        let d := s.die die
        s.withDie die { d with areas := d.areas.map fun x => if x.inst = inst && x.gen = gen then { x with block := none } else x }
      else pure ()
    sendPacket (swarmPacket s (inst / 2048) (.wlBlock inst gen b held))

/-- Spills one run of a die engine (R331), of the instance with the most items on chip, that first pushed to among several: whether
an instance could. -/
def spillRun (die : Nat) : M Bool := do
  let s ← get
  let items := (s.die die).items
  let able := (s.die die).firsts.filterMap fun e =>
    let n := (chipItems items e.1 e.2).length
    if n = 0 then none else (s.spillTarget die e.1 e.2).map fun t => (e, n, t)
  let best := able.foldl (fun (acc : Option ((Nat × Nat) × Nat × Reg × Nat)) x => match acc with
    | none => some x
    | some y => if x.2.1 > y.2.1 then some x else acc) none
  match best with
  | none => pure false
  | some ((inst, gen), n, area, b) => do
    let run := (sortItems (chipItems items inst gen)).drop (n - min n 126)
    let first := (run.head?.map (·.key)).getD 0
    let colony := (run.head?.map (·.colony)).getD 0
    spillWrite die colony area (4096 + 4096 * b)
      (leBytes 4 first ++ leBytes 2 run.length ++ leBytes 1 die ++ leBytes 57 0 ++ run.flatMap recordBytes) false
    for e in run.zipIdx do
      if e.1.arg.tag then
        spillWrite die colony area (4096 + 4096 * b + 64 + 32 * e.2 + 16) (leBytes 16 e.1.arg.val.toNat) true
      else pure ()
    tellBlock die inst gen b true
    modItems die fun l => run.foldl (fun l x => l.erase x) l ++ run.map fun x => { x with run := some b }
    modify fun s => s.countDie die 0x1004 1
    pure true

/-- Room for `n` more items on a die's chip, spilling first if needed, at most `fuel` runs. -/
def makeItemRoom (die n : Nat) : Nat → M Bool
  | 0 => pure false
  | fuel + 1 => do
    let s ← get
    if ((s.die die).items.filter fun x => x.run.isNone && !x.away).length + n ≤ 65536 then pure true
    else do
      let ok ← spillRun die
      if ok then makeItemRoom die n fuel else pure false

/-- A record as it stands in a spill area of this package; what lies in another is as it was written there. Log 102 (DEDUCED). -/
def readRecord (die : Nat) (area : Reg) (off : Nat) (x : Item) : M Item := do
  let e ← spillPlace die x.colony area off
  let s ← get
  match e with
  | none => pure { x with run := none }
  | some (p, _) =>
    if pkgOf p ≠ s.pkg then pure { x with run := none }
    else do
      let bs ← homeRead (localOf p) 32
      let s ← get
      let arg : Reg := ⟨BitVec.ofNat 128 (leNat (bs.drop 16)), s.tagAt (localOf p + 16)⟩
      pure { x with key := leNat (bs.take 4), cls := leNat ((bs.drop 4).take 1) % 4, arg := arg, run := none }

/-- Reads a run back and frees its block (R331): whether there was room for it. Log 102 (DEDUCED). -/
def readRun (die inst gen b : Nat) : M Bool := do
  let s ← get
  let run := sortItems ((s.die die).items.filter fun x => x.inst = inst && x.gen = gen && x.run = some b)
  let area : Reg := if inst / 2048 = s.pkg then (s.slot (instDie inst) (instSlot inst)).spill
    else (((s.die die).areas.find? fun x => x.inst = inst && x.gen = gen).map (·.spill)).getD Reg.zero
  let ok ← makeItemRoom die run.length 1024
  if !ok then pure false
  else do
    let back ← run.zipIdx.mapM fun e => readRecord die area (4096 + 4096 * b + 64 + 32 * e.2) e.1
    tellBlock die inst gen b false
    modItems die fun l => run.foldl (fun l x => l.erase x) l ++ back
    pure true

/-! ## Placing and counting (R318, R330) -/

/-- Sends a count to its home: an event here, a packet to another package. -/
def sendCount (pkg : Nat) (c : WlCount) : M Unit := do
  let s ← get
  if pkg = s.pkg then post (.countApply c)
  else sendPacket { swarmPacket s pkg (.wlCount c) with addr := slotPort 0 c.home c.slot }

/-- Places an item in a die engine, pending (R318): false when there is no room. -/
def placeItem (die pkg home slot gen key cls : Nat) (arg : Reg) (colony : Nat) : M Bool := do
  let ok ← makeItemRoom die 1 1024
  if ok then do
    let x : Item :=
      { inst := instName pkg home slot, gen := gen, key := key, cls := cls, arg := arg, pending := true,
        reserved := none, run := none, colony := colony, away := false }
    modItems die fun l => l ++ [x]
    modify fun s =>
      let d := s.die die
      if d.firsts.contains (x.inst, gen) then s else s.withDie die { d with firsts := d.firsts ++ [(x.inst, gen)] }
    pure true
  else pure false

/-- The count of one item that a strand, by its whole sid, has placed in this package. -/
def State.countOf (s : State) (die home slot gen key sid : Nat) : WlCount :=
  { home := home, slot := slot, gen := gen, die := engineName s.pkg die, n := 1, key := key, sid := sid }

/-- Per-die state that is meaningful: dies with counted items, as engine and lowest reported key. -/
def HomeSlot.mins (h : HomeSlot) : List (Nat × Nat) := h.dcount.map fun e => (e.1, lookupD 0 h.dmin e.1)

/-- The engine whose reported minimum is lowest, ties to the lowest engine (R323). -/
def HomeSlot.lowest (h : HomeSlot) : Option Nat :=
  (h.mins.foldl (fun (acc : Option (Nat × Nat)) e => match acc with
    | none => some e
    | some b => if e.2 < b.2 then some e else acc) none).map (·.1)

/-- Moves the window down to bucket `b` (R330). -/
def HomeSlot.lowerWindow (h : HomeSlot) (b : Nat) : HomeSlot :=
  let d := h.wb - b
  { h with
    wb := b
    g := (h.g.filter fun e => e.1 + d < 64).map fun e => (e.1 + d, e.2)
    above := h.above + ((h.g.filter fun e => e.1 + d ≥ 64).map (·.2)).sum
    presence := (h.presence.map fun e => (e.1, e.2 * 2 ^ d % 2 ^ 64)).filter fun e => e.2 ≠ 0 }

/-- Counts `n` items of a key in the window of an engine. -/
def HomeSlot.countKey (h : HomeSlot) (engine n key : Nat) : HomeSlot :=
  let i := h.bucket key - h.wb
  if h.bucket key ≥ h.wb && i < 64 then { h with
    g := storeAt 0 i (lookupD 0 h.g i + n) h.g
    presence := storeAt 0 engine (lookupD 0 h.presence engine ||| 2 ^ i) h.presence }
  else { h with above := h.above + n }

/-- Adds `n` items of a key at an engine (R318, R330). -/
def HomeSlot.addCount (h : HomeSlot) (engine n key : Nat) : HomeSlot :=
  let h := if h.bucket key < h.wb then h.lowerWindow (h.bucket key) else h
  let old := lookupD 0 h.dcount engine
  let h := { h with
    dcount := storeAt 0 engine (old + n) h.dcount
    dmin := storeAt 0 engine (if old = 0 then key else min (lookupD 0 h.dmin engine) key) h.dmin
    since := if lookupD 0 h.takes engine = 0 then h.since else h.since ++ [(engine, key)] }
  h.countKey engine n key

/-- The lowest key and the presence bits of an engine by the keys that it holds counted (R321). -/
def HomeSlot.setKeys (h : HomeSlot) (engine : Nat) (ks : List Nat) : HomeSlot := { h with
  dmin := storeAt 0 engine (ks.foldl min (ks.headD 0)) h.dmin
  presence := storeAt 0 engine (ks.foldl (fun m k =>
    if h.bucket k - h.wb < 64 && h.bucket k ≥ h.wb then m ||| 2 ^ (h.bucket k - h.wb) else m) 0) h.presence }

/-- Keys of the items that an engine of this package holds counted for an instance. -/
def State.countedKeys (s : State) (engine inst gen : Nat) : List Nat :=
  if engine / 8 ≠ s.pkg then []
  else ((s.die (engine % 8)).items.filter fun x => x.inst = inst && x.gen = gen && !x.pending).map (·.key)

/-- Whether a home rebases: every counter in the window is 0 and some items lie above (R330). -/
def HomeSlot.rebases (h : HomeSlot) : Bool := h.g.isEmpty && h.above ≠ 0 && h.asked.isEmpty

/-- The start of a rebase (R330): the window is set, and the engines of this package report. Those of other packages are asked, and
their items count as above until they have answered. Log 56 (DEDUCED). -/
def HomeSlot.rebase (h : HomeSlot) (s : State) (inst : Nat) : HomeSlot :=
  if !h.rebases then h
  else match h.lowest with
    | none => h
    | some e =>
      let wb := h.bucket (lookupD 0 h.dmin e)
      let away := h.dcount.filter fun e => e.1 / 8 ≠ s.pkg
      let keys := h.dcount.flatMap fun e => (s.countedKeys e.1 inst h.gen).map fun k => (e.1, k)
      keys.foldl (fun h k => h.countKey k.1 1 k.2)
        { h with wb := wb, above := (away.map (·.2)).sum, presence := [], asked := away.map (·.1) }

/-- Rebases a home slot if it has to; engines of other packages are asked for their reports. Log 56 (DEDUCED). -/
def rebaseSlot (die i : Nat) : M Unit := do
  let s ← get
  let h := s.slot die i
  if !h.rebases then pure ()
  else do
    modSlot die i fun h => h.rebase s (instName s.pkg die i)
    let s ← get
    for e in (s.slot die i).asked do
      sendPacket (swarmPacket s (e / 8) (.wlReport (instName s.pkg die i) h.gen e))

/-- The next check of every pop that waits at a home (R324). -/
def recheckPops (die i : Nat) : M Unit := do
  let s ← get
  for p in (s.slot die i).pops do
    post (.popCheck p.sid)

/-- The engine marks as many of its pending items of a key as a count covers: they are poppable now. -/
def ripen (inst gen : Nat) : Nat → Nat → List Item → List Item
  | _, _, [] => []
  | n, key, x :: l =>
    if n > 0 && x.inst = inst && x.gen = gen && x.pending && x.key ≥ key then
      { x with pending := false } :: ripen inst gen (n - 1) key l
    else x :: ripen inst gen n key l

/-- The engine's items that a count covers are poppable (R318): at once in this package, on the home's acknowledgement in another. -/
def acknowledge (inst : Nat) (c : WlCount) : M Unit := do
  let s ← get
  if c.die / 8 = s.pkg then modItems (c.die % 8) (ripen inst c.gen c.n c.key)
  else sendPacket (swarmPacket s (c.die / 8) (.wlAck c))

/-- Whether a count has to wait at its home (R322, R330, R336): the home is saved or rebases, a pop that has seen a better candidate
holds, or an earlier count of the strand waits. -/
def HomeSlot.keepsBack (h : HomeSlot) (c : WlCount) : Bool :=
  h.saved || !h.asked.isEmpty || (h.hold.any fun e => c.key < e.2) || h.held.any fun x => x.sid = c.sid

/-- The home applies a count (R318, R322, R336), or keeps it back. -/
def applyCount (c : WlCount) : M Unit := do
  let s ← get
  let h := s.slot c.home c.slot
  if !h.used || h.gen ≠ c.gen then pure ()
  else if h.keepsBack c then modSlot c.home c.slot fun h => { h with held := h.held ++ [c] }
  else do
    modify fun s => s.charge h.colony 6 1
    acknowledge (instName s.pkg c.home c.slot) c
    modSlot c.home c.slot fun h => h.addCount c.die c.n c.key
    rebaseSlot c.home c.slot
    recheckPops c.home c.slot

/-- The home applies a task end (R327); it waits while the home is saved (R336), and behind what the strand sent before (R318). -/
def applyTaskEnd (t : TaskId) : M Unit := do
  let s ← get
  let h := s.slot t.home t.slot
  if !h.used || h.gen ≠ t.gen then pure ()
  else if h.saved || (h.held.any fun c => c.sid = t.sid) || h.ends.any (fun x => x.sid = t.sid) then
    modSlot t.home t.slot fun h => { h with ends := h.ends ++ [t] }
  else do
    modify fun s => s.charge h.colony 6 1
    modSlot t.home t.slot fun h => { h with
      inflight := h.inflight - 1
      holders := storeAt 0 t.holder (lookupD 0 h.holders t.holder - 1) h.holders }
    recheckPops t.home t.slot

/-- What a home has kept back is applied, as far as nothing keeps it back any more (R322, R336). -/
def applyKept (die i : Nat) : M Unit := do
  let s ← get
  let h := s.slot die i
  modSlot die i fun h => { h with held := [], ends := [] }
  for c in h.held do
    applyCount c
  for t in h.ends do
    applyTaskEnd t
  recheckPops die i

/-- The hold of a pop ends (R322). -/
def releaseHold (die i sid : Nat) : M Unit := do
  let s ← get
  if (s.slot die i).hold.any fun e => e.1 = sid then do
    modSlot die i fun h => { h with hold := h.hold.filter fun e => e.1 ≠ sid }
    applyKept die i
  else pure ()

/-- The lowest key that an engine of this package holds counted, and its presence bits, as it reports them after a commit (R321). -/
def reportMin (die i engine : Nat) : M Unit := do
  let s ← get
  let e := engineName s.pkg engine
  modSlot die i fun h => h.setKeys e (s.countedKeys e (instName s.pkg die i) h.gen)
  rebaseSlot die i
  recheckPops die i

/-- The report of an engine of another package: after a commit (R321), for a rebase (R330), or when its items are there again (R336).
What the home has counted since the commit is not in it yet. Log 56 (DEDUCED). -/
def takeReport (die i engine : Nat) (keys : List Nat) (rebase : Bool) : M Unit := do
  modSlot die i fun h =>
    let ks := keys ++ (h.since.filter fun e => e.1 = engine).map (·.2)
    if rebase then
      if h.asked.contains engine then
        let h := { h with asked := h.asked.erase engine, above := h.above - lookupD 0 h.dcount engine }
        keys.foldl (fun h k => h.countKey engine 1 k) (h.setKeys engine ks)
      else h
    else
      let n := lookupD 0 h.takes engine - 1
      { h.setKeys engine ks with
        takes := storeAt 0 engine n h.takes
        since := if n = 0 then h.since.filter fun e => e.1 ≠ engine else h.since }
  rebaseSlot die i
  let s ← get
  if (s.slot die i).asked.isEmpty then applyKept die i else pure ()

/-- An engine of this package reports the keys that it holds counted to the home in another. -/
def sendReport (inst gen engine : Nat) (rebase : Bool) : M Unit := do
  let s ← get
  sendPacket (swarmPacket s (inst / 2048) (.wlKeys inst gen engine (s.countedKeys engine inst gen) rebase))

/-! ## Proposals (R320) -/

/-- An island whose remaining energy is below an eighth of its allocation (R382). Log 44 (DESIGN CHOICE). -/
def State.islandLow (s : State) (sid : Nat) : Bool :=
  let i := lookupD Island.initial s.units.islands (islandOf sid)
  i.alloc ≠ 0 && (i.alloc - i.used) * 8 < i.alloc

/-- One of several items of equal standing: the manual leaves the order open (R314). Log 55 (DESIGN CHOICE). -/
def pickTie (l : List Item) : M (Option Item) := fun s =>
  if l.length ≤ 1 then .ok l.head? s
  else .ok l[Config.itemTie s.fresh % l.length]? { s with fresh := s.fresh + 1 }

/-- The item on chip that an item of a run becomes when its run is read back (R331). -/
def bringBack (die : Nat) (x : Item) : M (Option Item) :=
  match x.run with
  | none => pure (some x)
  | some b => do
    let ok ← readRun die x.inst x.gen b
    let s ← get
    pure (if !ok then none else (s.die die).items.find? fun y =>
      y.poppable x.inst x.gen && y.run.isNone && y.key = x.key && y.cls = x.cls && y.arg = x.arg)

/-- Keeps the count of an engine's proposals that have passed over its lowest key (R320). -/
def setPassed (die inst n : Nat) : M Unit := modify fun s =>
  s.withDie die { s.die die with passed := storeAt 0 inst n (s.die die).passed }

/-- What an engine of this package proposes for an instance: its lowest poppable item, or, on a pop's first proposal from
a low island, one of the lowest class among the `m` lowest, unless it has passed over its lowest key 8 times. The run that holds the
item is read back first. Log 55 (DESIGN CHOICE). -/
def proposeItem (die inst gen : Nat) (prefer : Option Nat) : M (Option Item) := do
  let s ← get
  let l := sortItems ((s.die die).items.filter fun x => x.poppable inst gen)
  let low := l.filter fun y => some y.key = l.head?.map (·.key)
  let passed := lookupD 0 (s.die die).passed inst
  let among := l.take (prefer.getD 0)
  let cls := (among.map (·.cls)).foldl min 3
  let fit := among.filter fun y => y.cls = cls
  let fit := fit.filter fun y => some y.key = fit.head?.map (·.key)
  let passes := prefer.isSome && fit.head?.map (·.key) ≠ l.head?.map (·.key)
  if l.isEmpty then pure ()
  else if passed ≥ 8 then setPassed die inst 0
  else if passes then setPassed die inst (passed + 1)
  else pure ()
  let x ← pickTie (if prefer.isSome && passed < 8 then fit else low)
  match x with
  | none => pure none
  | some x => bringBack die x

/-- Reserves the first of identical items for a pop, by the popper's whole sid. -/
def reserveFirst (x : Item) (sid : Nat) : List Item → List Item
  | [] => []
  | y :: l => if y = x then { y with reserved := some sid } :: l else y :: reserveFirst x sid l

/-- Reserves a proposed item (R320). -/
def reserve (die : Nat) (x : Option Item) (sid : Nat) : M Unit :=
  match x with
  | some x => modItems die (reserveFirst x sid)
  | none => pure ()

/-- The candidate that an item makes. -/
def State.candidateOf (s : State) (die inst gen : Nat) (x : Item) : Candidate :=
  { key := x.key, cls := x.cls, arg := x.arg,
    lowest := (s.countedKeys (engineName s.pkg die) inst gen).all fun k => x.key ≤ k }

/-- The proposal of an engine of this package as a candidate. -/
def propose (die inst gen : Nat) (prefer : Option Nat) : M (Option Candidate) := do
  let x ← proposeItem die inst gen prefer
  let s ← get
  pure (x.map (s.candidateOf die inst gen))

/-! ## The home's check (R321 to R325) -/

/-- The bound A of R321; none stands for infinity. -/
def HomeSlot.boundOf (h : HomeSlot) (engine : Nat) (cand : Option Candidate) : Option Nat :=
  match cand with
  | none => none
  | some c =>
    if c.lowest && h.mins.all (fun e => e.1 = engine || c.key ≤ e.2) then some 0
    else
      let i := h.bucket c.key - h.wb
      if h.bucket c.key < h.wb + 64 then
        some (((h.g.filter fun e => e.1 < i).map (·.2)).sum + (if h.s > 0 then lookupD 0 h.g i - 1 else 0))
      else some (h.counted - 1)

/-- Takes a committed item out of the counts (R321). -/
def HomeSlot.removeCount (h : HomeSlot) (engine key : Nat) : HomeSlot :=
  let i := h.bucket key - h.wb
  let h := { h with dcount := storeAt 0 engine (lookupD 0 h.dcount engine - 1) h.dcount }
  if i < 64 then { h with g := storeAt 0 i (lookupD 0 h.g i - 1) h.g } else { h with above := h.above - 1 }

/-- A commit (R321): the item leaves its engine and the counts, and a task begins. -/
def commitItem (die i : Nat) (p : Pop) (engine : Nat) (c : Candidate) : M Unit := do
  let s ← get
  let h := s.slot die i
  let inst := instName s.pkg die i
  modify fun s => s.countDie die 0x1002 1
  modSlot die i fun h =>
    let h := h.removeCount engine c.key
    { h with
      inflight := h.inflight + 1
      holders := storeAt 0 (p.sid / 16384) (lookupD 0 h.holders (p.sid / 16384) + 1) h.holders }
  if engine / 8 = s.pkg then do
    let x := (s.die (engine % 8)).items.find? fun x =>
      x.poppable inst h.gen && x.run.isNone && x.key = c.key && x.cls = c.cls && x.arg = c.arg
    match x with
    | some x => modItems (engine % 8) fun l => l.erase x
    | none => pure ()
    post (.dminReport die i (engine % 8))
  else do
    modSlot die i fun h => { h with takes := storeAt 0 engine (lookupD 0 h.takes engine + 1) h.takes }
    sendPacket (swarmPacket s (engine / 8) (.wlTake inst h.gen engine p.sid c.key))
  rebaseSlot die i
  releaseHold die i p.sid

/-- The reservation of an item in another package's engine ends (R320). -/
def freeCandidate (die i : Nat) (p : Pop) (cand : Option Candidate) : M Unit := do
  let s ← get
  if cand.isSome && p.engine / 8 ≠ s.pkg then
    sendPacket (swarmPacket s (p.engine / 8) (.wlFree (instName s.pkg die i) (s.slot die i).gen p.engine p.sid))
  else pure ()

/-- A strand position of a colony: the first. -/
def firstSid (colony : Nat) : Nat := (colony - 2 ^ Nat.log2 colony) * (1024 >>> Nat.log2 colony) * 8

/-- What follows a check without a commit (R322, R323): the answer, the wait, or a redirect, after which `again` checks the
new candidate. Log 58 (DEDUCED). -/
def redirectPop (die i : Nat) (p : Pop) (h : HomeSlot) (inst : Nat) (cand : Option Candidate)
    (again : Pop → Option Candidate → M (Pop × Option PopAnswer)) : M (Pop × Option PopAnswer) := do
  let best := match cand, p.best with
    | some c, some b => some (min c.key b)
    | some c, none => some c.key
    | none, b => b
  let p := { p with
    checks := p.checks + 1
    dies := if p.checks = 0 then h.dcount.length else p.dies
    best := best }
  match best with
  | some b =>
    if p.checks ≥ p.dies + 1 then modSlot die i fun h => { h with hold := (p.sid, b) :: h.hold.filter fun e => e.1 ≠ p.sid }
    else pure ()
  | none => pure ()
  freeCandidate die i p cand
  if h.counted = 0 then
    pure (p, if h.inflight = 0 then some (.quiescent p.redirects)
      else if h.inflight = p.held then some (.dry p.redirects) else none)
  else match h.lowest with
    | none => pure (p, none)
    | some e => do
      let q := { p with engine := e, redirects := p.redirects + 1 }
      modify fun s => s.countDie die 0x1003 1
      let s ← get
      if e / 8 ≠ s.pkg && e = p.engine && (cand.map (·.lowest)).getD false then pure (p, none)
      else if e / 8 ≠ s.pkg then do
        let _ ← sendRequest (swarmPacket s (e / 8) (.wlPropose inst h.gen e p.sid)) (firstSid h.colony) (.propose die i p.sid)
        pure ({ q with asking := true }, none)
      else do
        let c ← propose (e % 8) inst h.gen none
        if e = p.engine && c = cand then pure (p, none) else again q c

/-- Checks a pop's candidate, and redirects it until it is answered, waits, or another package must propose. `fuel` bounds
the redirects. The second component is the answer, if there is one. Log 58 (DEDUCED). -/
def checkPop (die i : Nat) : Nat → Pop → Option Candidate → M (Pop × Option PopAnswer)
  | 0, p, _ => pure (p, none)
  | fuel + 1, p, cand => do
    let s ← get
    let h := s.slot die i
    let inst := instName s.pkg die i
    if h.saved || !h.asked.isEmpty || !s.admits p.colony 6 1 then do
      freeCandidate die i p cand
      pure (p, none)
    else do
      modify fun s => s.charge p.colony 6 1
      match cand, h.boundOf p.engine cand with
      | some c, some a =>
        if a ≤ h.k then do
          commitItem die i p p.engine c
          pure (p, some (.commit c.key c.cls a p.redirects c.arg))
        else redirectPop die i p h inst cand (checkPop die i fuel)
      | _, _ => redirectPop die i p h inst cand (checkPop die i fuel)

/-- Replaces a pop that waits at a home. -/
def setPop (die i : Nat) (p : Pop) : M Unit := modSlot die i fun h => { h with
  pops := h.pops.filter (fun x => x.sid ≠ p.sid) ++ [p] }

/-- Removes a pop from its home; what its hold kept back is applied. -/
def withdrawPop (die i sid : Nat) : M Unit := do
  modSlot die i fun h => { h with pops := h.pops.filter fun x => x.sid ≠ sid }
  releaseHold die i sid

/-- The packet that answers a pop of another package. -/
def popReply (a : PopAnswer) : PacketOp :=
  match a with
  | .commit key cls bound r arg => .wlCommit key cls bound r arg
  | .quiescent r => .wlQuiescent r
  | .dry r => .wlDry r
  | .interrupted r => .wlInterrupted r
  | .failed code => .fail code 0

/-- Sends the home's answer to the popper: an event here, a packet to another package. -/
def answerPop (p : Pop) (a : PopAnswer) : M Unit := do
  let s ← get
  if p.sid / 16384 = s.pkg then do
    modStrand (p.sid % 16384) fun t => { t with pop := t.pop.map fun r => { r with answer := some a } }
    post (.popAnswer (p.sid % 16384))
  else sendPacket { requestPacket s (p.sid / 16384 * 2 ^ 41) 7 1 0 (popReply a) [] false with txn := p.txn }

/-- A check of a pop that waits at its home, with a candidate of its engine. -/
def continuePop (die i : Nat) (p : Pop) (cand : Option Candidate) : M Unit := do
  let s ← get
  let (p, a) ← checkPop die i (2 * (s.slot die i).dcount.length + 3) p cand
  match a with
  | none => setPop die i p
  | some a => do
    withdrawPop die i p.sid
    answerPop p a

/-- The next check of a waiting pop (R321, R324): its engine proposes again. -/
def popCheckAt (die i sid : Nat) : M Unit := do
  let s ← get
  let h := s.slot die i
  match h.pops.find? (fun p => p.sid = sid) with
  | none => pure ()
  | some p =>
    if h.broken then do
      withdrawPop die i sid
      answerPop p (.failed cPeer)
    else if h.saved || p.asking || s.worklistBusy sid die i then pure ()
    else do
      let inst := instName s.pkg die i
      let prefer := if p.checks = 0 && sid / 16384 = s.pkg && s.islandLow (sid % 16384) then some (min (h.k + 1) 8) else none
      let cand ← if p.engine / 8 = s.pkg then propose (p.engine % 8) inst h.gen prefer else pure none
      continuePop die i p cand

/-- The home in this package at which a pop waits. -/
def State.popHome (s : State) (sid : Nat) : Option (Nat × Nat) :=
  s.dies.findSome? fun d => d.2.slots.findSome? fun e =>
    if e.2.pops.any fun p => p.sid = sid then some (d.1, e.1) else none

/-- A cancel of a pop at its home: the home's answer comes first, if it has given one (R324). -/
def cancelPop (sid : Nat) : M Unit := do
  let s ← get
  let t := s.strand sid
  let whole := (s.fullSid sid).toNat
  match t.pop with
  | none => pure ()
  | some r =>
    if r.answer.isSome then pure ()
    else if r.pkg ≠ s.pkg then
      asStrand sid (sendPacket { requestPacket s (r.pkg * 2 ^ 41) 11 3 t.tid (.wlCancel r.txn) [] false with
        addr := slotPort 0 r.home r.slot })
    else if s.worklistBusy whole r.home r.slot then post (.popCancel sid)
    else do
      let h := s.slot r.home r.slot
      let redirects := match h.pops.find? (fun p => p.sid = whole) with
        | some p => p.redirects
        | none => 0
      withdrawPop r.home r.slot whole
      if r.yielding then do
        modStrand sid fun t => { t with pop := some { r with answer := some (.interrupted redirects) } }
        post (.popAnswer sid)
      else modStrand sid fun t => { t with pop := none }

/-! ## The home's events -/

/-- `COUNT_APPLY` (R318). -/
def execCountApply (s : State) : Host.Outcome State Fault Refusal :=
  match s.now with
  | .countApply c => runEvent (applyCount c) s
  | _ => .next s

/-- `POP_CHECK` (R321). -/
def execPopCheck (s : State) : Host.Outcome State Fault Refusal :=
  match s.now with
  | .popCheck sid => match s.popHome sid with
    | some (die, i) => runEvent (popCheckAt die i sid) s
    | none => .next s
  | _ => .next s

/-- `DMIN_REPORT` (R321). -/
def execDminReport (s : State) : Host.Outcome State Fault Refusal :=
  match s.now with
  | .dminReport home slot die => runEvent (reportMin home slot die) s
  | _ => .next s

/-- `TASK_END_APPLY` (R327). -/
def execTaskEndApply (s : State) : Host.Outcome State Fault Refusal :=
  match s.now with
  | .taskEndApply t => runEvent (applyTaskEnd t) s
  | _ => .next s

/-! ## Instructions: `push`, `pop`, `wldone`, `yield` -/

/-- A push of one item from the current strand (R319), after its handle is checked. The home in another package answers for its
instance first. -/
def pushItem (c : Reg) (pkg die i gen : Nat) (key cls : Nat) (v : Reg) : M WlCount := do
  let s ← get
  let mine := dieOf s.cur
  if pkg ≠ s.pkg then do
    let (_, area) ← askHome c pkg die i gen (s.jobOf s.cur)
    noteArea mine area
  else pure ()
  raiseIf (!s.inInstScope s.cur pkg die i) cPerm (Cap.cursor c.val)
  raiseIf (v.tag && !Cap.has v.val Cap.gl) cPerm (Cap.cursor c.val)
  releaseAt (s.instScope pkg die i)
  let ok ← placeItem mine pkg die i gen key cls v (s.colonyOf s.cur)
  if !ok then raise2 cWlfull (Cap.cursor c.val) key else pure ()
  pure (s.countOf mine die i gen key (s.fullSid s.cur).toNat)

/-- `push` (R319). -/
def execPush (o : OpRRR) (s : State) : Host.Outcome State Fault Refusal :=
  runOp ⟨o.st, 0, .access, threeSource o⟩ (do
    let c ← readW 0 o.a
    let key ← readX 1 o.b
    let v ← readW 2 o.c
    let (pkg, die, i, gen) ← checkHandle c false
    let n ← pushItem c pkg die i gen (key.toNat % 2 ^ 32) (o.imm.toNat % 4) v
    sendCount pkg n) s

/-- `wlstat` of R87. -/
def wlstatWord (redirects : Nat) (quiescent task : Bool) : Word :=
  BitVec.ofNat 64 (min redirects 255 * 256 + (if quiescent then 2 else 0) + (if task then 1 else 0))

/-- The effect of the home's answer on the current strand (R324, R328): A and A+1 start at register `dst`. -/
def finishPop (pkg die i gen scope dst : Nat) (a : PopAnswer) : M Unit := do
  let t ← self
  let held := !t.tasks.isEmpty
  let mark := fun (bound r : Nat) (q task : Bool) =>
    modSelf fun t => { t with wlbound := BitVec.ofNat 64 bound, wlstat := wlstatWord r q task }
  match a with
  | .commit key cls bound r arg => do
    writeX (BitVec.ofNat 6 dst) (BitVec.ofNat 64 (2 ^ 63 + cls * 2 ^ 32 + key))
    writeW (BitVec.ofNat 6 (dst + 1)) arg
    mark bound r false true
    let s ← get
    modSelf fun t => { t with tasks := t.tasks ++ [{ pkg := pkg, home := die, slot := i, gen := gen, holder := s.pkg, sid := (s.fullSid s.cur).toNat }] }
    acquireAt scope
  | .quiescent r => do
    writeX (BitVec.ofNat 6 dst) (BitVec.ofNat 64 (2 ^ 62))
    mark 0 r true held
  | .dry r => do
    writeX (BitVec.ofNat 6 dst) 0
    mark 0 r false true
  | .interrupted r => do
    writeX (BitVec.ofNat 6 dst) (BitVec.ofNat 64 (2 ^ 61))
    mark 0 r false held
  | .failed code => raise code (if code = cPerm then handleCursor pkg die i gen else slotPort pkg die i)

/-- The pop of the current strand from an instance (R324): it is answered at once if the home can, and otherwise waits. -/
def popFrom (c : Reg) (pkg die i gen dst : Nat) (yielding : Bool) : M Unit := do
  let s ← get
  let t := s.self
  let sid := (s.fullSid s.cur).toNat
  let inst := instName pkg die i
  let mine := engineName s.pkg (dieOf s.cur)
  let held := (t.tasks.filter fun k => k.pkg = pkg && k.home = die && k.slot = i && k.gen = gen).length
  let waiting := fun (txn : Nat) =>
    let req : PopReq :=
      { pkg := pkg, home := die, slot := i, gen := gen, dst := dst, yielding := yielding, cancel := false, txn := txn,
        answer := none }
    modSelf fun t => { t with pop := some req, asked := [], answers := [], opIndex := 0 }
  if pkg ≠ s.pkg then do
    let (k, area) ← askHome c pkg die i gen (s.jobOf s.cur)
    noteArea (dieOf s.cur) area
    let x ← proposeItem (dieOf s.cur) inst gen (if s.islandLow s.cur then some (min (k + 1) 8) else none)
    let s ← get
    reserve (dieOf s.cur) x sid
    let cand := x.map (s.candidateOf (dieOf s.cur) inst gen)
    let pk := { requestPacket s (pkg * 2 ^ 41) 11 3 t.tid (.wlPop inst gen mine (s.jobOf s.cur) cand held) [] false with
      addr := slotPort 0 die i }
    let txn ← sendRequest pk s.cur .pop
    waiting txn
    throw .wait
  else
    let p : Pop :=
      { sid := sid, txn := 0, held := held, colony := s.colonyOf s.cur, engine := mine, redirects := 0, checks := 0,
        dies := 0, best := none, asking := false }
    let h := s.slot die i
    if h.saved || s.worklistBusy sid die i then do
      setPop die i p
      waiting 0
      post (.popCheck sid)
      throw .wait
    else do
      let prefer := if s.islandLow s.cur then some (min (h.k + 1) 8) else none
      let cand ← propose (dieOf s.cur) inst gen prefer
      let (p, a) ← checkPop die i (2 * h.dcount.length + 3) p cand
      match a with
      | some a => do
        withdrawPop die i sid
        finishPop pkg die i gen h.scope dst a
      | none => do
        setPop die i p
        waiting 0
        throw .wait

/-- `pop` (R324). Log 16 (DEDUCED). -/
def execPop (o : OpRR) (s : State) : Host.Outcome State Fault Refusal :=
  let full : M Unit := do
    let t ← self
    illIf (t.tasks.length ≥ 4)
  runPriv ⟨o.st, 0, .access, [⟨0, o.a.toNat + 1, false, true⟩, wDst o.a, wSrc o.b]⟩ full (do
    let c ← readW 2 o.b
    let (pkg, die, i, gen) ← checkHandle c false
    let s ← get
    raiseIf (!s.inInstScope s.cur pkg die i) cPerm (Cap.cursor c.val)
    if s.self.pop.isSome then throw .wait
    popFrom c pkg die i gen o.a.toNat false) s

/-- The home in another package of a task that ends tells whether its instance is broken (R337). -/
def askBroken (k : TaskId) : M Unit := do
  let s ← get
  let a ← askPacket (swarmPacket s k.pkg (.wlAsk (instName k.pkg k.home k.slot) k.gen 0 (engineName s.pkg (dieOf s.cur))))
  match a.op with
  | .fail c v => if c = cPeer then throw (.trap c v none) else pure ()
  | .unreachable => raise cPeer (slotPort k.pkg k.home k.slot)
  | _ => pure ()

/-- Ends the current strand's most recent task (R327): at once, when its home is here and nothing that the strand has sent it before
is on its way. -/
def endTask : M Unit := do
  let s ← get
  match s.self.tasks.getLast? with
  | none => pure ()
  | some k => do
    raiseIf (k.pkg ≠ s.pkg && s.units.lost.contains k.pkg) cPeer (slotPort k.pkg k.home k.slot)
    raiseIf (k.pkg = s.pkg && (s.slot k.home k.slot).broken && (s.slot k.home k.slot).gen = k.gen) cPeer
      (slotPort k.pkg k.home k.slot)
    if k.pkg ≠ s.pkg then askBroken k else pure ()
    modSelf fun t => { t with
      tasks := t.tasks.dropLast
      wlstat := if t.tasks.dropLast.isEmpty then t.wlstat &&& ~~~ 1#64 else t.wlstat }
    let s ← get
    if k.pkg = s.pkg && !s.worklistBusy k.sid k.home k.slot then applyTaskEnd k else sendTaskEnd k

/-- `wldone` (R327). -/
def execWldone (s : State) : Host.Outcome State Fault Refusal :=
  let some_ : M Unit := do
    let t ← self
    illIf t.tasks.isEmpty
  runPriv ⟨wordS (s.self.ir.getLastD 0), 0, .joint, []⟩ some_ endTask s

/-- `yield` (R328): a push, a task end and a pop. -/
def execYield (o : OpRR) (s : State) : Host.Outcome State Fault Refusal :=
  let some_ : M Unit := do
    let t ← self
    illIf (t.pop.isNone && t.tasks.isEmpty)
  runPriv ⟨o.st, 0, .joint, [⟨0, o.a.toNat + 1, true, true⟩, wBoth o.a, wSrc o.b]⟩ some_ (do
    let c ← readW 2 o.b
    let t ← self
    if t.pop.isSome then throw .wait
    let x ← readX 1 o.a
    let v ← readW 0 (o.a + 1)
    let (pkg, die, i, gen) ← checkHandle c false
    let n ← pushItem c pkg die i gen (x.toNat % 2 ^ 32) (fieldAt x 32 2) v
    let s ← get
    if pkg = s.pkg && !s.worklistBusy n.sid die i then applyCount n else sendCount pkg n
    endTask
    popFrom c pkg die i gen o.a.toNat true) s

/-! ## Creating, configuring and inspecting (R333 to R335) -/

/-- Instances whose home slots a colony holds (R364). -/
def State.heldSlots (s : State) (colony : Nat) : Nat :=
  (s.dies.map fun d => (d.2.slots.filter fun e => e.2.used && e.2.colony = colony).length).sum

/-- `wlnew` (R333). -/
def execWlnew (o : OpR) (s : State) : Host.Outcome State Fault Refusal :=
  runOp ⟨o.st, 0, .joint, [wDst o.a]⟩ (do
    let s ← get
    let t := s.self
    let die := dieOf s.cur
    let colony := s.colonyOf s.cur
    let quota := match s.colony colony with
      | some c => c.wlq
      | none => 2048
    match (List.range 256).find? (fun i => !(s.slot die i).used) with
    | some i =>
      if s.heldSlots colony ≥ quota then writeW o.a Reg.zero
      else do
        let gen := ((s.slot die i).gen + 1) % 4096
        modSlot die i fun _ => { HomeSlot.free gen with used := true, tenant := t.tid, colony := colony }
        let a := handleCursor s.pkg die i gen
        writeW o.a ⟨Cap.make Cap.kWorklist t.tid (Cap.wl ||| Cap.gl) (a + 1) a 0 a, true⟩
    | none => writeW o.a Reg.zero) s

/-- The head of a spill area with the blocks that hold runs (R332). -/
def writeHead (die colony : Nat) (c : Reg) (blocks : List Nat) : M Unit :=
  let bits := (List.range 4032).map fun k => BitVec.ofNat 8 ((List.range 8).map fun j => if blocks.contains (8 * k + j) then 2 ^ j else 0).sum
  spillWrite die colony c 0 (leBytes 4 (areaBlocks c) ++ leBytes 4 (areaBlocks c - blocks.length) ++ List.replicate 56 0 ++ bits) false

/-- Configures an instance whose home is here (R334), for an identity and its pod job; `a` is the handle's cursor. -/
def configureSlot (who : Identity) (job a die i : Nat) (ctl : Word) (spill : Reg) : M Unit := do
  let s ← get
  let h := s.slot die i
  if h.saved then throw .retry
  if bitAt ctl 27 then do
    raiseIf (!h.quiet && !h.broken) cPerm a
    modSlot die i fun h => HomeSlot.free h.gen
  else do
    let scope := fieldAt ctl 24 3
    let sh := fieldAt ctl 16 5
    let area := if spill.tag then spill else Reg.zero
    raiseIf ((sh ≠ h.s || scope ≠ h.scope || area ≠ h.spill) && !h.quiet) cPerm a
    raiseIf (scope = 5 && job = 0) cPerm a
    let blocks := if area = h.spill then h.blocks else []
    if spill.tag then do
      let perms := Cap.ld ||| Cap.st ||| Cap.lc ||| Cap.sc
      checkCapAs who spill perms [Cap.kMemory] 8192
      let _ ← translateFor die h.colony (Cap.tenant spill.val) (Cap.cursor spill.val) perms
      raiseIf (Cap.base spill.val % 4096 ≠ 0 || areaBlocks spill < 1) cPerm (Cap.cursor spill.val)
      writeHead die h.colony spill blocks
    else pure ()
    modSlot die i fun h => { h with
      k := fieldAt ctl 0 16, s := sh, scope := scope, spill := area
      blocks := blocks, leases := if area = h.spill then h.leases else [] }
    recheckPops die i

/-- `wlcfg` (R334). Log 19 (DEDUCED). -/
def wlcfg (o : OpRRR) (s : State) : Host.Outcome State Fault Refusal :=
  let values : M Unit := do
    let w ← peekX o.b
    illIf (fieldAt w 28 36 ≠ 0 || fieldAt w 21 3 ≠ 0 ||
      (!bitAt w 27 && !(fieldAt w 24 3 ≥ 3 && fieldAt w 24 3 ≤ 5)))
  runPriv ⟨o.st, 0, .joint, threeSource o⟩ values (do
    let c ← readW 0 o.a
    let ctl ← readX 1 o.b
    let spill ← readW 2 o.c
    let (pkg, die, i, gen) ← checkHandle c (bitAt ctl 27)
    let s ← get
    if pkg ≠ s.pkg then do
      let _ ← askRemote (Cap.cursor c.val) (slotPort pkg die i) 11 3 (Cap.tenant c.val) (.wlCfg (instName pkg die i) gen ctl spill) [] false
      pure ()
    else configureSlot s.self.identity (s.jobOf s.cur) (Cap.cursor c.val) die i ctl spill) s

/-- `wlcfg` that configures (R334). -/
def execWlcfgConfigure (o : OpRRR) (s : State) : Host.Outcome State Fault Refusal := wlcfg o s

/-- `wlcfg` that frees (R334). -/
def execWlcfgFree (s : State) : Host.Outcome State Fault Refusal := wlcfg s.self.rowRRR s

/-- The status word of R335 but for the strand's own tasks. -/
def slotStatus (h : HomeSlot) : Word :=
  BitVec.ofNat 64 ((if h.quiet then 2 ^ 63 else 0) + (if h.broken then 2 ^ 62 else 0) + (if h.spill.tag then 2 ^ 61 else 0) +
    min h.inflight 0xFFFF * 2 ^ 32 + min h.counted 0xFFFFFFFF)

/-- `wlst` (R335). -/
def execWlst (o : OpRR) (s : State) : Host.Outcome State Fault Refusal :=
  runOp ⟨o.st, 0, .joint, [wDst o.a, wSrc o.b]⟩ (do
    let c ← readW 0 o.b
    let (pkg, die, i, gen) ← checkHandle c true
    let s ← get
    let held := (s.self.tasks.filter fun k => k.pkg = pkg && k.home = die && k.slot = i && k.gen = gen).length
    let w ← if pkg ≠ s.pkg then
        if s.units.lost.contains pkg then pure (BitVec.ofNat 64 (2 ^ 62))
        else do
          let a ← askRemote (Cap.cursor c.val) (slotPort pkg die i) 11 3 (Cap.tenant c.val) (.wlStat (instName pkg die i) gen) [] false
          pure (BitVec.ofNat 64 a.number)
      else if (s.slot die i).saved then throw .retry
      else pure (slotStatus (s.slot die i))
    writeX o.a (putField w 56 3 held)) s

end Sys2Proof.Machine
end

