-- ==== Sys2Proof/Machine/Colony.lean ====
section
/-! DEFINITION. Colonies and what governs them: `colop`, `ringcfg`, `bdgt`, `tslot` and `tinv` (R296, R362 to R374, R381,
R393, R410). -/

namespace Sys2Proof.Machine

/-! ## Records (R362 to R365, R393) -/

/-- Whether one node of the buddy tree is an ancestor of the other or equal to it (R362). -/
def overlaps (a b : Nat) : Bool :=
  let da := Nat.log2 a
  let db := Nat.log2 b
  a >>> (da - min da db) = b >>> (db - min da db)

/-- The colony that a slot-table entry names (R373). -/
def slotColony (e : Word) : Nat := fieldAt e 53 11

/-- Whether the slot table or its shadow names a colony (R393). Entries are kept under 0 to 63, the control register
under 64. -/
def State.named (s : State) (id : Nat) : Bool :=
  (s.units.slots ++ s.units.shadow).any fun e => e.1 < 64 && slotColony e.2 = id

/-- The conditions of R365 on a record against the other colonies. -/
def State.conflicts (s : State) (id : Nat) (tenant : BitVec 12) (chan : BitVec 64) (without : List Nat) : Bool :=
  s.units.colonies.any fun e => match e.2 with
    | some c => e.1 ≠ id && !without.contains e.1 &&
        ((c.tenant ≠ tenant && c.chan &&& chan ≠ 0) || (overlaps e.1 id && !(s.named e.1 && s.named id)))
    | none => false

/-- The code of a state in a record (R364). -/
def ColonyState.code : ColonyState → Nat
  | .idle => 0
  | .loaded => 1
  | .yielding => 2
  | .saved => 3
  | .held => 4

/-- A budget entry (R381). Log 63 (DEDUCED). -/
def Colony.budgetEntry (c : Colony) (res : Nat) : Word :=
  let a := c.allocOf res
  let rem := if a = unlimited then (a : Int) else lookupD 0 c.rem res
  BitVec.ofNat 64 ((rem % 2 ^ 32).toNat * 2 ^ 32 + a % 2 ^ 32)

/-- The record of R364 in bytes. -/
def State.recordOf (s : State) (id : Nat) (c : Colony) : List Byte :=
  leBytes 2 id ++ leBytes 2 c.tenant.toNat ++ leBytes 1 c.vf ++
    leBytes 1 ((if c.hostMember then 1 else 0) + (if s.named id then 2 else 0)) ++ leBytes 2 c.job ++ leBytes 8 c.chan.toNat ++
    leBytes 2 c.rings ++ leBytes 2 c.cslots ++ leBytes 2 c.wlq ++ leBytes 2 c.state.code ++ leBytes 16 c.spill.val.toNat ++
    leBytes 16 c.save.val.toNat ++ leBytes 8 0 ++ (List.range 8).flatMap fun r => leBytes 8 (c.budgetEntry r).toNat

/-- A capability field of a configured record, read as data (R393); none when it is malformed. -/
def recordCap (v : Nat) : Option Reg :=
  let q := BitVec.ofNat 128 v
  if v = 0 then some Reg.zero
  else if bitsAt q 112 16 = 0 && Cap.kind q = Cap.kMemory && Cap.tenant q = 0 && Cap.inRange q then some ⟨q, true⟩
  else none

/-- The colony that a record configures for an id; none when it is malformed. -/
def parseRecord (id : Nat) (bs : List Byte) : Option Colony :=
  let f := fun (o n : Nat) => leNat ((bs.drop o).take n)
  match recordCap (f 24 16), recordCap (f 40 16) with
  | some spill, some save =>
    if f 0 2 ≠ id || id = 0 || id ≥ 2048 || f 2 2 ≥ 4096 || f 4 1 > 63 || f 5 1 ≥ 4 then none
    else
      let alloc : SMap Nat := (List.range 8).foldl (fun m r => storeAt unlimited r (f (64 + 8 * r) 4) m) []
      some { Colony.first with
        tenant := BitVec.ofNat 12 (f 2 2), vf := f 4 1, hostMember := f 5 1 % 2 = 1, job := f 6 2
        chan := BitVec.ofNat 64 (f 8 8), rings := f 16 2, cslots := f 18 2, wlq := f 20 2, spill := spill, save := save
        alloc := alloc, rem := alloc.map fun e => (e.1, (e.2 : Int)) }
  | _, _ => none

/-- Whether quotas exceed what the package holds beside the other colonies (R366, reason 4). -/
def State.overQuota (s : State) (id : Nat) (c : Colony) : Bool :=
  let sum := fun (f : Colony → Nat) => (s.units.colonies.map fun e => match e.2 with
    | some x => if e.1 = id then 0 else f x
    | none => 0).sum + f c
  sum (·.rings) > 256 || sum (·.cslots) > 32768 || sum (·.wlq) > 2048

/-- Whether a bound ring of a colony holds a record that the Scout has not consumed. Log 93 (DEDUCED). -/
def pendingRings (id : Nat) : M Bool := do
  let s ← get
  let rs ← (s.units.rings.filterMap fun e => match e.2 with
    | some r => if r.colony = id then some r else none
    | none => none).mapM ringPending
  pure (rs.any fun b => b)

/-- Whether a colony is idle in every respect (R363). Log 93 (DEDUCED). -/
def colonyIdle (id : Nat) (c : Colony) : M Bool := do
  let s ← get
  let waiting ← pendingRings id
  pure (c.state = .idle && (s.colonyStrands id).isEmpty && s.heldSlots id = 0 && s.heldCopies id = 0 &&
    !(s.units.launches.any fun l => l.colony = id) && !waiting)

/-! ## Yielding (R376) -/

/-- Starts the yield of a loaded colony. -/
def startYield (id slot : Nat) (hold : Bool) (grace : Nat) : M Unit := do
  let s ← get
  match s.colony id with
  | some c => do
    let y : Yield := { deadline := s.time + grace, slot := slot, hold := hold, stopped := [], forced := false }
    set (s.withColony id (some { c with state := .yielding, yield := some y }))
    settleYield id
  | none => pure ()

/-! ## Operations of `colop` (R366): each answers 0 or a reason -/

def okStatus : Nat := 0
def noColony : Nat := 1
def wrongState : Nat := 2
def overlapping : Nat := 3
def overQuotaReason : Nat := 4
def malformed : Nat := 5
def otherTenant : Nat := 6
def unknownOp : Nat := 7

/-- A colony record replaced or removed. -/
def putColony (id : Nat) (c : Option Colony) : M Unit := modify fun s => s.withColony id c

/-- `configure`. -/
def colopConfigure (id : Nat) (b : Reg) : M Nat := do
  let bs ← readRange b 128 Manner.plain
  let s ← get
  match parseRecord id bs with
  | none => pure malformed
  | some new => do
    let old := s.colony id
    let idle ← match old with
      | some c => colonyIdle id c
      | none => pure true
    match old, idle with
    | some c, false =>
      let mask := fun (l : List Byte) => overwrite (overwrite (l.take 40) 22 [0, 0]) 5 [(l.getD 5 0) &&& 1]
      if mask bs ≠ mask (s.recordOf id c) then pure wrongState
      else do
        putColony id (some { c with save := new.save, alloc := new.alloc })
        pure okStatus
    | _, _ =>
      if s.conflicts id new.tenant new.chan [] then pure overlapping
      else if s.overQuota id new then pure overQuotaReason
      else do
        putColony id (some { new with
          hostArrived := (old.map (·.hostArrived)).getD 0, hostPhases := (old.map (·.hostPhases)).getD []
          scout := (old.map (·.scout)).getD [], log := (old.map (·.log)).getD none })
        pure okStatus

/-- `read`. -/
def colopRead (id : Nat) (b : Reg) : M Nat := do
  let s ← get
  match s.colony id with
  | none => pure noColony
  | some c => do
    writeRange b (s.recordOf id c) Manner.plain 1
    pure okStatus

/-- A colony of half a parent's quotas (R365); the left child takes the larger half. Log 61 (DEDUCED). -/
def Colony.half (c : Colony) (left : Bool) : Colony :=
  let h := fun (n : Nat) => if left then (n + 1) / 2 else n / 2
  let alloc := (List.range 8).foldl (fun m r =>
    storeAt unlimited r (if c.allocOf r = unlimited then unlimited else h (c.allocOf r)) m) []
  { Colony.first with
    tenant := c.tenant, vf := if left then c.vf else 0, hostMember := c.hostMember, job := c.job
    chan := if left then c.chan else 0, rings := h c.rings, cslots := h c.cslots, wlq := h c.wlq
    spill := c.spill, save := c.save, alloc := alloc, rem := alloc.map fun e => (e.1, (e.2 : Int)) }

/-- `split` (R365). Log 61 (DEDUCED). -/
def colopSplit (id : Nat) : M Nat := do
  let s ← get
  match s.colony id with
  | none => pure noColony
  | some c => do
    let idle ← colonyIdle id c
    if !idle || id ≥ 1024 then pure wrongState
    else if s.conflicts (2 * id) c.tenant c.chan [id] || s.conflicts (2 * id + 1) c.tenant 0 [id] ||
        (s.colony (2 * id)).isSome || (s.colony (2 * id + 1)).isSome then pure overlapping
    else do
      putColony id none
      putColony (2 * id) (some (c.half true))
      putColony (2 * id + 1) (some (c.half false))
      pure okStatus

/-- The parent of two siblings (R365). Log 61 (DEDUCED). -/
def Colony.joined (l r : Colony) : Colony :=
  let alloc := (List.range 8).foldl (fun m i =>
    storeAt unlimited i (if l.allocOf i = unlimited || r.allocOf i = unlimited then unlimited
      else min (l.allocOf i + r.allocOf i) 0xFFFFFFFE) m) []
  { Colony.first with
    tenant := l.tenant, vf := if l.vf = 0 then r.vf else l.vf, hostMember := l.hostMember, job := l.job
    chan := l.chan ||| r.chan, rings := l.rings + r.rings, cslots := l.cslots + r.cslots, wlq := l.wlq + r.wlq
    spill := l.spill, save := l.save, alloc := alloc, rem := alloc.map fun e => (e.1, (e.2 : Int)) }

/-- `merge` (R365): `id` names the parent. Log 61 (DEDUCED). -/
def colopMerge (id : Nat) : M Nat := do
  let s ← get
  match s.colony (2 * id), s.colony (2 * id + 1) with
  | some l, some r => do
    let li ← colonyIdle (2 * id) l
    let ri ← colonyIdle (2 * id + 1) r
    let new := l.joined r
    if !li || !ri then pure wrongState
    else if l.tenant ≠ r.tenant then pure otherTenant
    else if (s.colony id).isSome || s.conflicts id new.tenant new.chan [2 * id, 2 * id + 1] then pure overlapping
    else do
      putColony (2 * id) none
      putColony (2 * id + 1) none
      putColony id (some new)
      pure okStatus
  | _, _ => pure noColony

/-- An operation on a colony that must be idle. -/
def onIdle (id : Nat) (act : Colony → M Nat) : M Nat := do
  let s ← get
  match s.colony id with
  | none => pure noColony
  | some c => do
    let idle ← colonyIdle id c
    if idle then act c else pure wrongState

/-- `remove`: held Scout interrupts go with the record (R355). -/
def colopRemove (id : Nat) : M Nat := onIdle id fun _ => do
  putColony id none
  pure okStatus

/-- `hold` (R376, R393). -/
def colopHold (id arg : Nat) : M Nat := do
  let s ← get
  match s.colony id with
  | none => pure noColony
  | some c =>
    if c.state ≠ .loaded then pure wrongState
    else if !c.save.tag then pure malformed
    else do
      startYield id 0x40 true (arg * 1000)
      pure okStatus

/-- `release`. -/
def colopRelease (id : Nat) : M Nat := do
  let s ← get
  match s.colony id with
  | none => pure noColony
  | some c =>
    if c.state ≠ .held then pure wrongState
    else do
      putColony id (some { c with state := if c.hasImage then .saved else .idle })
      pure okStatus

/-- Quads and die blocks of a colony's save area (R377). -/
def colonyQuads (id : Nat) : Nat := 1024 >>> Nat.log2 id
def colonyBlocks (id : Nat) : Nat := max 1 (colonyQuads id / 128)

/-- The format and firmware version that a save area's header carries (R377). -/
def saveFormat : Nat := 1

/-- The header of a save area: bytes 0 to 31. -/
def saveHeader (id time : Nat) (forced : Bool) : List Byte :=
  leBytes 2 saveFormat ++ leBytes 2 id ++ leBytes 2 (colonyQuads id) ++ leBytes 2 (colonyBlocks id) ++ leBytes 8 time ++
    leBytes 8 (if forced then 1 else 0) ++ leBytes 8 Config.firmwareVersion.toNat

/-- Whether a header is one of this colony and firmware (R377). -/
def headerMatches (id : Nat) (bs : List Byte) : Bool :=
  bs.take 8 = (saveHeader id 0 false).take 8 && (bs.drop 24).take 8 = (saveHeader id 0 false).drop 24

/-- Reads bytes of a colony's save area for the unit that restores it; none when it cannot be read. -/
def saveBytes (c : Colony) (off n : Nat) : M (Option (List Byte)) :=
  unitRead 8 ⟨true, 0⟩ ⟨Cap.offset c.save.val off, c.save.tag⟩ n

/-- `adopt` (R377). -/
def colopAdopt (id : Nat) : M Nat := onIdle id fun c => do
  let hd ← saveBytes c 0 32
  match hd with
  | some bs =>
    if headerMatches id bs then do
      let mark ← saveBytes c 0x1000 8
      putColony id (some { c with state := .saved, hasImage := true, image := leNat (mark.getD []) })
      pure okStatus
    else pure malformed
  | none => pure malformed

/-- The strand of a colony that a debugger is attached to (R144). -/
def State.debugged (s : State) (id : Nat) : Option Nat :=
  (s.colonyStrands id).find? fun sid => (s.strand sid).debugger.attached

/-- The strand with both roles running: held causes are pending again, and a role that has run ahead waits for the other. -/
def Strand.resumed (t : Strand) : Strand :=
  let u := (t.debugger.held.foldl (fun t e => t.interrupt e.1 e.2) t).lagging
  { u with status := t.status &&& ~~~ 0x3000, debugger := { t.debugger with stuck := false, held := [] } }

/-- `debugger`. Log 34 (DESIGN CHOICE). -/
def colopDebug (id arg : Nat) : M Nat := do
  let s ← get
  match s.colony id with
  | none => pure noColony
  | some _ =>
    let sid := arg / 16 % 2 ^ 28
    if sid / 16384 ≠ s.pkg || !(s.colonyStrands id).contains (sid % 16384) then pure wrongState
    else if arg % 2 = 1 then
      match s.debugged id with
      | some other => pure (if other = sid % 16384 then okStatus else wrongState)
      | none => do
        modStrand (sid % 16384) fun t => { t with debugger := { t.debugger with attached := true } }
        pure okStatus
    else if (s.strand (sid % 16384)).debugger.attached then do
      modStrand (sid % 16384) fun t => { t.resumed with debugger := { attached := false, stuck := false, held := [] } }
      pure okStatus
    else pure wrongState

/-- An operation on the strand that a debugger is attached to. -/
def onDebugged (id : Nat) (act : Nat → M Nat) : M Nat := do
  let s ← get
  match s.colony id with
  | none => pure noColony
  | some _ => match s.debugged id with
    | none => pure wrongState
    | some sid => act sid

/-- `halt`: bit 0 of the argument is the access role, bit 1 the execute role (R83, R144). Log 34 (DESIGN CHOICE). -/
def colopHalt (id arg : Nat) : M Nat := onDebugged id fun sid => do
  withdraw sid
  modStrand sid fun t => { t with status := t.status ||| BitVec.ofNat 64 (arg % 4 * 2 ^ 12) }
  pure okStatus

/-- `resume`. Log 34 (DESIGN CHOICE). -/
def colopResume (id : Nat) : M Nat := onDebugged id fun sid => do
  modStrand sid fun t => t.resumed
  pure okStatus

/-- `peek`: the image carries flag bit 2 (R144). Log 34 (DESIGN CHOICE). -/
def colopPeek (id : Nat) (b : Reg) : M Nat := onDebugged id fun sid => do
  let s ← get
  if fieldAt (s.strand sid).status 12 2 = 0 then pure wrongState
  else do
    let ps ← checkImage b Cap.st
    storeGranules ps (Cap.tenant b.val) (Cap.cursor b.val) (s.imageOf sid 4)
    pure okStatus

/-- `poke`: both roles are halted, and stay so. Log 34 (DESIGN CHOICE). -/
def colopPoke (id : Nat) (b : Reg) : M Nat := onDebugged id fun sid => do
  let s ← get
  if fieldAt (s.strand sid).status 12 2 ≠ 3 then pure wrongState
  else do
    let ps ← checkImage b Cap.ld
    let rs ← loadGranules ps (Cap.tenant b.val) (Cap.cursor b.val) imageGranules
    if !headerOk rs then pure malformed
    else do
      asStrand sid (do
        modSelf fun t => { t with asked := [], answers := [], debugger := { t.debugger with stuck := false } }
        restoreImage rs false)
      modStrand sid fun t => { t with status := t.status ||| 0x3000 }
      pure okStatus

/-- `colour` (R279): a valid entry is kept as its tenant plus 2^12. -/
def colopColour (arg : Nat) : M Nat := do
  modify fun s => { s with units := { s.units with
    colours := storeAt 0 (arg % 64) (arg / 2 ^ 6 % 2 * 4096 + arg / 2 ^ 16 % 4096) s.units.colours } }
  pure okStatus

/-- `root` (R292): bits 54:16 of the block; bit 0 marks a root that is installed. -/
def colopRoot (arg : Nat) (b : Reg) : M Nat := do
  let bs ← readRange b 8 Manner.plain
  let root := leNat bs % 2 ^ 55 / 65536 * 65536
  modify fun s => { s with roots := storeAt 0 (arg % 4096) (BitVec.ofNat 64 (root + 1)) s.roots }
  pure okStatus

/-- `control`. -/
def colopControl : M Nat := do
  modify fun s => { s with units := { s.units with control := some s.cur } }
  pure okStatus

/-- Once no colony of a job is left here, the packages that were lost to it may be used again, and what other packages have
said of its groups is forgotten (R407). -/
def State.leaveJob (s : State) (job : Nat) : State :=
  if job = 0 || !(s.jobColonies job).isEmpty then s
  else
    let left := s.units.lostJobs.filter fun e => e.2 ≠ job
    let freed := fun (pkg : Nat) => s.units.lostJobs.any (fun e => e.1 = pkg) && !left.any fun e => e.1 = pkg
    { s with units := { s.units with
      lostJobs := left
      lost := s.units.lost.filter fun p => !freed p
      remoteTerms := s.units.remoteTerms.filter fun e => e.1 / 2 ^ 21 ≠ job } }

/-- `job`. -/
def colopJob (id arg : Nat) : M Nat := onIdle id fun c => do
  putColony id (some { c with job := arg % 65536 })
  modify fun s => s.leaveJob c.job
  pure okStatus

/-- The capability of a multicast entry (R410). -/
def multicastCap (tenant : BitVec 12) (idx w : Nat) : Reg :=
  match narrow ⟨Cap.make Cap.kMulticast tenant (Cap.st ||| Cap.gl) 0 0 31 (idx * 2 ^ 38), true⟩ (BitVec.ofNat 64 w) with
  | some (r, _) => ⟨r.val, true⟩
  | none => Reg.zero

/-- `multicast` (R410). -/
def colopMulticast (arg word : Nat) (b : Reg) : M Nat := do
  let t ← self
  let idx := arg % 1024
  let tenant := BitVec.ofNat 12 (arg / 2 ^ 16)
  raiseIf (t.mode ≠ .hypervisor && tenant ≠ t.tid) cPerm (word % 2 ^ 32)
  checkCap b (Cap.ld ||| Cap.st ||| Cap.sc) [Cap.kMemory] 160
  raiseIf (Cap.cursor b.val % 16 ≠ 0) cAlign (Cap.cursor b.val)
  let ps ← translateRange (Cap.tenant b.val) (Cap.cursor b.val) 160 (Cap.ld ||| Cap.st ||| Cap.sc)
  let rs ← loadGranules ps (Cap.tenant b.val) (Cap.cursor b.val) 9
  let f := fun (o n : Nat) => imageField rs o n
  let w := f 0 8
  let n := f 8 1
  let members := (List.range n).map fun i => f (16 + 8 * i) 8
  let s ← get
  if w % 64 ≠ 0 || w < 64 || w > 0x400000 || n > 16 || members.any (fun m => m % 64 ≠ 0 || m ≥ 2 ^ 48) then pure malformed
  else
    let other : Bool := match lookupD none s.units.multicast idx with
      | some g => g.tenant ≠ tenant
      | none => false
    if other then pure otherTenant
    else do
      let entry : Option Multicast := if n = 0 then none else some { tenant := tenant, window := w, members := members }
      modify fun s => { s with units := { s.units with multicast := storeAt none idx entry s.units.multicast } }
      storeGranules ps (Cap.tenant b.val) (Cap.cursor b.val + 144) [multicastCap tenant idx w]
      pure okStatus

/-- The lowest mode of an operation (R366); none for one that the table does not list. -/
def colopMode (op : Nat) : Option Mode :=
  if op = 2 || op = 3 || op = 4 || op = 0x12 then some .supervisor
  else if 1 ≤ op && op ≤ 0x12 then some .hypervisor
  else none

/-- Whether the colony that an operation names is one of the tenant's; for a merge, both children (R365, R366). -/
def State.colonyOfTenant (s : State) (op id : Nat) (t : BitVec 12) : Bool :=
  let of := fun (i : Nat) => match s.colony i with
    | some c => c.tenant = t
    | none => false
  if op = 4 then of (2 * id) && of (2 * id + 1) else of id

/-- One operation. -/
def colopRun (op id arg word : Nat) (b : Reg) : M Nat :=
  match op with
  | 0x01 => colopConfigure id b
  | 0x02 => colopRead id b
  | 0x03 => colopSplit id
  | 0x04 => colopMerge id
  | 0x05 => colopRemove id
  | 0x06 => colopHold id arg
  | 0x07 => colopRelease id
  | 0x08 => colopAdopt id
  | 0x09 => colopDebug id arg
  | 0x0A => colopHalt id arg
  | 0x0B => colopResume id
  | 0x0C => colopPeek id b
  | 0x0D => colopPoke id b
  | 0x0E => colopColour arg
  | 0x0F => colopRoot arg b
  | 0x10 => colopControl
  | 0x11 => colopJob id arg
  | 0x12 => colopMulticast arg word b
  | _ => pure unknownOp

/-- A status word: 0, or a reason with bit 63. -/
def statusWord (reason : Nat) : Word := if reason = 0 then 0 else BitVec.ofNat 64 (2 ^ 63 + reason)

/-- `colop` (R366): the operation, the colony and the argument stand in A. Log 19 (DEDUCED). -/
def colop (o : OpRR) (s : State) : Host.Outcome State Fault Refusal :=
  let checks : M Unit := do
    let w ← peekX o.a
    illIf (fieldAt w 27 5 ≠ 0 || fieldAt w 8 8 ≠ 0)
    needMode .supervisor
    match colopMode (fieldAt w 0 8) with
    | some m => needMode m
    | none => pure ()
  runPriv ⟨o.st, 0, .joint, [wBoth o.a, wSrc o.b]⟩ checks (do
    let w ← readX 0 o.a
    let b ← readW 1 o.b
    let op := fieldAt w 0 8
    let s ← get
    let id := if fieldAt w 16 11 = 0 then s.colonyOf s.cur else fieldAt w 16 11
    let colFree := [0x0E, 0x0F, 0x10, 0x12].contains op || (colopMode op).isNone
    raiseIf (s.self.mode = .supervisor && !colFree && !s.colonyOfTenant op id s.self.tid) cPerm (fieldAt w 0 32)
    let r ← colopRun op id (fieldAt w 32 32) (fieldAt w 0 32) b
    writeX o.a (statusWord r)) s

/-- `colop`, configure. -/
def execColopConfigure (o : OpRR) (s : State) : Host.Outcome State Fault Refusal := colop o s
/-- `colop`, read. -/
def execColopRead (s : State) : Host.Outcome State Fault Refusal := colop s.self.rowRR s
/-- `colop`, split. -/
def execColopSplit (s : State) : Host.Outcome State Fault Refusal := colop s.self.rowRR s
/-- `colop`, merge. -/
def execColopMerge (s : State) : Host.Outcome State Fault Refusal := colop s.self.rowRR s
/-- `colop`, remove. -/
def execColopRemove (s : State) : Host.Outcome State Fault Refusal := colop s.self.rowRR s
/-- `colop`, hold. -/
def execColopHold (s : State) : Host.Outcome State Fault Refusal := colop s.self.rowRR s
/-- `colop`, release. -/
def execColopRelease (s : State) : Host.Outcome State Fault Refusal := colop s.self.rowRR s
/-- `colop`, adopt. -/
def execColopAdopt (s : State) : Host.Outcome State Fault Refusal := colop s.self.rowRR s
/-- `colop`, debugger. -/
def execColopDebug (s : State) : Host.Outcome State Fault Refusal := colop s.self.rowRR s
/-- `colop`, halt. -/
def execColopHalt (s : State) : Host.Outcome State Fault Refusal := colop s.self.rowRR s
/-- `colop`, resume. -/
def execColopResume (s : State) : Host.Outcome State Fault Refusal := colop s.self.rowRR s
/-- `colop`, peek. -/
def execColopPeek (s : State) : Host.Outcome State Fault Refusal := colop s.self.rowRR s
/-- `colop`, poke. -/
def execColopPoke (s : State) : Host.Outcome State Fault Refusal := colop s.self.rowRR s
/-- `colop`, colour. -/
def execColopColour (s : State) : Host.Outcome State Fault Refusal := colop s.self.rowRR s
/-- `colop`, root. -/
def execColopRoot (s : State) : Host.Outcome State Fault Refusal := colop s.self.rowRR s
/-- `colop`, control. -/
def execColopControl (s : State) : Host.Outcome State Fault Refusal := colop s.self.rowRR s
/-- `colop`, job. -/
def execColopJob (s : State) : Host.Outcome State Fault Refusal := colop s.self.rowRR s
/-- `colop`, multicast. -/
def execColopMulticast (s : State) : Host.Outcome State Fault Refusal := colop s.self.rowRR s

/-! ## `ringcfg` (R368) -/

/-- Bytes of a ring of N records (R354). -/
def ringSize (n : Nat) : Nat := 64 + 65 * n

/-- Binds or unbinds a ring after the checks on its control word. Log 65 (DEDUCED). -/
def configureRing (w : Word) (b c : Reg) : M Nat := do
  let s ← get
  let id := fieldAt w 32 11
  let ring := fieldAt w 0 8
  checkCap b (Cap.ld ||| Cap.st) [Cap.kMemory] 64
  raiseIf (Cap.cursor b.val % 64 ≠ 0) cAlign (Cap.cursor b.val)
  checkCap c Cap.mt [Cap.kMemory] 0
  let head ← readRange b 24 ⟨0, 4, false, 0⟩
  let n := leNat ((head.drop 16).take 4)
  let old := lookupD none s.units.rings ring
  let elsewhere : Bool := match old with
    | some r => r.colony ≠ id
    | none => false
  let others := (s.units.rings.filter fun e => match e.2 with
    | some r => r.colony = id && e.1 ≠ ring
    | none => false).length
  match s.colony id with
  | none => pure noColony
  | some col =>
    if Cap.tenant b.val ≠ col.tenant || Cap.tenant c.val ≠ col.tenant then pure otherTenant
    else if elsewhere then pure wrongState
    else if bitAt w 8 then do
      modify fun s => { s with units := { s.units with rings := storeAt none ring none s.units.rings } }
      pure okStatus
    else if n = 0 || n > 65536 || 2 ^ Nat.log2 n ≠ n then pure malformed
    else do
      checkCap b (Cap.ld ||| Cap.st) [Cap.kMemory] (ringSize n)
      let _ ← translateRange (Cap.tenant b.val) (Cap.cursor b.val) (ringSize n) (Cap.ld ||| Cap.st)
      if others ≥ col.rings then pure overQuotaReason
      else do
        let rp := leNat ((head.drop 8).take 8)
        let r : Ring := { colony := id, weight := fieldAt w 16 8, cap := b, authority := c, rp := rp, drain := rp }
        modify fun s => { s with units := { s.units with rings := storeAt none ring (some r) s.units.rings } }
        pure okStatus

/-- `ringcfg` (R368). Log 19 (DEDUCED). Log 65 (DEDUCED). -/
def ringcfg (o : OpRRR) (s : State) : Host.Outcome State Fault Refusal :=
  let checks : M Unit := do
    let w ← peekX o.a
    illIf (fieldAt w 43 21 ≠ 0 || fieldAt w 24 8 ≠ 0 || fieldAt w 9 7 ≠ 0 || (fieldAt w 16 8 = 0 && !bitAt w 8))
    needMode .supervisor
  runPriv ⟨o.st, 0, .joint, [wBoth o.a, wSrc o.b, wSrc o.c]⟩ checks (do
    let w ← readX 0 o.a
    let b ← readW 1 o.b
    let c ← readW 2 o.c
    let s ← get
    raiseIf (s.self.mode = .supervisor && !s.colonyOfTenant 0 (fieldAt w 32 11) s.self.tid) cPerm (fieldAt w 32 11)
    let r ← configureRing w b c
    writeX o.a (statusWord r)) s

/-- `ringcfg`, bind. -/
def execRingcfgBind (o : OpRRR) (s : State) : Host.Outcome State Fault Refusal := ringcfg o s
/-- `ringcfg`, unbind. -/
def execRingcfgUnbind (s : State) : Host.Outcome State Fault Refusal := ringcfg s.self.rowRRR s

/-! ## `bdgt` (R381) -/

/-- `bdgt`. A new allocation is kept, plus one, until the next period starts. Log 19 (DEDUCED). -/
def bdgt (o : OpRR) (s : State) : Host.Outcome State Fault Refusal :=
  let checks : M Unit := do
    let w ← peekX o.a
    illIf (fieldAt w 27 37 ≠ 0 || fieldAt w 9 7 ≠ 0 || fieldAt w 3 5 ≠ 0)
    if bitAt w 8 then needMode .hypervisor else pure ()
  runPriv ⟨o.st, 0, .joint, [wBoth o.a, wSrc o.b]⟩ checks (do
    let w ← readX 0 o.a
    let x ← readX 1 o.b
    let s ← get
    let id := if fieldAt w 16 11 = 0 then s.colonyOf s.cur else fieldAt w 16 11
    match s.colony id with
    | none => raise cPerm (fieldAt w 16 11)
    | some c => do
      raiseIf (s.self.mode = .user && id ≠ s.colonyOf s.cur) cPerm (fieldAt w 16 11)
      raiseIf (s.self.mode = .supervisor && c.tenant ≠ s.self.tid) cPerm (fieldAt w 16 11)
      let res := fieldAt w 0 3
      if bitAt w 8 then putColony id (some { c with nextAlloc := storeAt 0 res (fieldAt x 0 32 + 1) c.nextAlloc })
      else pure ()
      writeX o.a (c.budgetEntry res)) s

/-- `bdgt`, read. -/
def execBdgtRead (o : OpRR) (s : State) : Host.Outcome State Fault Refusal := bdgt o s
/-- `bdgt`, write. -/
def execBdgtWrite (s : State) : Host.Outcome State Fault Refusal := bdgt s.self.rowRR s

/-! ## `tslot` (R373, R374) -/

/-- The shadow comes into force (R373). Log 64 (DEDUCED). -/
def State.adoptShadow (s : State) : State :=
  { s with units := { s.units with slots := s.units.shadow, slice := none } }

/-- Whether the slot table in force is enabled. -/
def State.slotsEnabled (s : State) : Bool := bitAt (lookupD 0 s.units.slots 64) 63

/-- `tslot`. Log 19 (DEDUCED). Log 64 (DEDUCED). -/
def tslot (o : OpRR) (s : State) : Host.Outcome State Fault Refusal :=
  let checks : M Unit := do
    let sel ← peekX o.a
    let v ← peekX o.b
    illIf (fieldAt sel 7 57 ≠ 0 ||
      (!bitAt sel 6 && (fieldAt v 40 13 ≠ 0 || (fieldAt v 0 24 = 0 && slotColony v ≠ 0))))
    needMode .hypervisor
  runPriv ⟨o.st, 0, .joint, [wBoth o.a, wSrc o.b]⟩ checks (do
    let sel ← readX 0 o.a
    let v ← readX 1 o.b
    let s ← get
    let key := if bitAt sel 6 then 64 else fieldAt sel 0 6
    let id := slotColony v
    raiseIf (key < 64 && id ≠ 0 && s.units.colonies.any fun e =>
      e.2.isSome && e.1 ≠ id && overlaps e.1 id && !s.named e.1) cPerm id
    let old := lookupD 0 s.units.shadow key
    modify fun s => { s with units := { s.units with shadow := storeAt 0 key v s.units.shadow } }
    let s ← get
    if s.slotsEnabled then pure () else set s.adoptShadow
    writeX o.a old) s

/-- `tslot`, an entry. -/
def execTslotEntry (o : OpRR) (s : State) : Host.Outcome State Fault Refusal := tslot o s
/-- `tslot`, the control register. -/
def execTslotControl (s : State) : Host.Outcome State Fault Refusal := tslot s.self.rowRR s

/-! ## `tinv` (R296) -/

/-- Whether accesses of a tenant, or of any, that were translated before are still to be performed: requests to other packages and
writes to mirrored pages (R296). -/
def State.accessesOutstanding (s : State) (kind : Nat) (t : BitVec 12) : Bool :=
  let of := fun (pk : Packet) => pk.ty ≤ 3 && (kind = 2 || pk.tenant = t)
  s.units.requests.any (fun r => of r.packet) || s.units.mirrors.any fun e => of e.2

/-- Whether a TLB entry is one that a `tinv` removes. -/
def tinvMatches (kind : Nat) (t : BitVec 12) (a key : Nat) (e : TlbEntry) : Bool :=
  let mine := key / 2 ^ 34 % 4096 = t.toNat
  match kind with
  | 0 => mine && key % 2 ^ 32 = (if e.level = 1 then a % 2 ^ 48 / 2 ^ 25 else a % 2 ^ 48 / 65536)
  | 1 => mine
  | _ => true

/-- `tinv`. Log 19 (DEDUCED). -/
def tinv (o : OpRR) (s : State) : Host.Outcome State Fault Refusal :=
  let checks : M Unit := do
    let w ← peekX o.a
    let t ← self
    illIf (fieldAt w 14 50 ≠ 0 || fieldAt w 12 2 = 3)
    needMode .supervisor
    raiseIf (t.mode = .supervisor && (fieldAt w 12 2 = 2 || fieldAt w 0 12 ≠ t.tid.toNat)) cPriv t.illValue
  runPriv ⟨o.st, 0, .joint, [wSrc o.a, wSrc o.b]⟩ checks (do
    let w ← readX 0 o.a
    let a ← readX 1 o.b
    modify fun s => { s with
      tlb := s.tlb.filter fun e => !tinvMatches (fieldAt w 12 2) (BitVec.ofNat 12 (fieldAt w 0 12)) a.toNat e.1 e.2 }
    if s.accessesOutstanding (fieldAt w 12 2) (BitVec.ofNat 12 (fieldAt w 0 12)) then throw .wait else pure ()) s

/-- `tinv` of a page. -/
def execTinvPage (o : OpRR) (s : State) : Host.Outcome State Fault Refusal := tinv o s
/-- `tinv` of a tenant. -/
def execTinvTenant (s : State) : Host.Outcome State Fault Refusal := tinv s.self.rowRR s
/-- `tinv` of everything. -/
def execTinvAll (s : State) : Host.Outcome State Fault Refusal := tinv s.self.rowRR s

end Sys2Proof.Machine
end

