-- ==== Sys2Proof/Machine/Scout.lean ====
section
/-! DEFINITION. The Scout: rings, launches, stops, pushes, and the start of strands (R10, R170, R354, R355, R369, R370). -/

namespace Sys2Proof.Machine

/-! ## Rings and records (R354) -/

/-- Writes bytes through a capability at the home, for a unit of a colony: where, or none when a check or translation
fails. -/
def unitWrite (colony : Nat) (who : Identity) (c : Reg) (path : Nat) (bs : List Byte) : M (Option Nat) := do
  let r ← attempt (do
    checkCapAs who c Cap.st [Cap.kMemory] bs.length
    let (p, _) ← translateFor 8 colony (Cap.tenant c.val) (Cap.cursor c.val) Cap.st
    let s ← get
    raiseIf (pkgOf p ≠ s.pkg) cXlat 0
    checkAtomicPlace (Cap.cursor c.val) p
    pure (localOf p))
  match r with
  | .ok a => do
    let _ ← homeRead a bs.length
    pathWrite a bs 0 path
    pure (some a)
  | .error _ => pure none

/-- Bytes of a ring. -/
def ringRead (r : Ring) (off n : Nat) : M (Option (List Byte)) :=
  unitRead 8 ⟨true, 0⟩ ⟨Cap.offset r.cap.val off, r.cap.tag⟩ n

/-- Log 69 (DESIGN CHOICE). -/
def ringWrite (r : Ring) (off : Nat) (bs : List Byte) : M Unit := do
  let _ ← unitWrite r.colony ⟨true, 0⟩ ⟨Cap.offset r.cap.val off, r.cap.tag⟩ Config.unitPath bs

/-- A record that the Scout has not consumed: its position in the ring, its 64 bytes, and its tag sideband. -/
structure ScoutRecord where
  slot : Nat
  bytes : List Byte
  side : Nat
  deriving DecidableEq, Repr

/-- A number in a record. -/
def ScoutRecord.field (x : ScoutRecord) (off n : Nat) : Nat := leNat ((x.bytes.drop off).take n)

def ScoutRecord.kind (x : ScoutRecord) : Nat := x.field 0 2

/-- The oldest record that the Scout has not consumed, if it can be read. -/
def scoutHead (r : Ring) : M (Option ScoutRecord) := do
  let waiting ← ringPending r
  let size ← ringRead r 16 4
  match waiting, size with
  | true, some bs =>
    let n := leNat bs
    if n = 0 then pure none
    else do
      let slot := r.rp % n
      let rec_ ← ringRead r (64 + 64 * slot) 64
      let side ← ringRead r (64 + 64 * n + slot) 1
      pure (match rec_, side with
        | some b, some t => some { slot := slot, bytes := b, side := leNat t }
        | _, _ => none)
  | _, _ => pure none

/-- A capability field of a record: minted from the ring's authority when its sideband bit is set (R129, R354); none when
a check fails. -/
def ScoutRecord.mint (x : ScoutRecord) (m : Reg) (i : Nat) : Option Reg :=
  let v := BitVec.ofNat 128 (x.field (16 + 16 * i) 16)
  if x.side / 2 ^ i % 2 = 0 then some ⟨v, false⟩
  else if m.tag && Cap.kind m.val = Cap.kMemory && Cap.has m.val Cap.mt && Cap.mintable m.val v then some ⟨v, true⟩
  else none

/-- Whether a field can be the entry of a launch for a tenant (R10). -/
def entryOk (tenant : BitVec 12) (r : Reg) : Bool :=
  r.tag && Cap.tenant r.val = tenant && (Cap.kind r.val = Cap.kMemory || Cap.kind r.val = Cap.kEntry) && Cap.has r.val Cap.x && Cap.cursor r.val % 2 = 0

/-- Whether a node of the buddy tree lies in another, or is that one. -/
def inside (a b : Nat) : Bool := b ≠ 0 && Nat.log2 b ≤ Nat.log2 a && a >>> (Nat.log2 a - Nat.log2 b) = b

/-- Strand positions of a node in the order of R355: C-dies fastest, then quads, cores, strands. -/
def strandPositions (id : Nat) : List Nat :=
  let n := colonyQuads id
  let q0 := (id - 2 ^ Nat.log2 id) * n
  let dies := max 1 (n / 128)
  let per := n / dies
  (List.range 2).flatMap fun s => (List.range 4).flatMap fun c => (List.range per).flatMap fun j =>
    (List.range dies).map fun d => (q0 / 128 + d) * 1024 + (q0 % 128 + j) * 8 + c * 2 + s

/-- Whether a strand position is free: no strand runs there and no start waits. -/
def State.positionFree (s : State) (sid : Nat) : Bool :=
  !(s.strand sid).live && !(s.quad (quadOf sid)).deferred.any fun q => q.sid = sid

/-! ## Starting strands (R10, R170, R172) -/

/-- The state in which a strand starts (R10, R260). -/
def StartReq.strand (q : StartReq) : Strand :=
  let group15 : BitVec 128 := BitVec.ofNat 128 ((List.range 4).map fun i => 2 ^ groupBit (i + 1) 15).sum
  { Strand.idle with
    live := true
    pcc := installed q.pcc
    mode := if q.boot then .hypervisor else .user
    tid := q.tid
    win := { Strand.idle.win with spill := q.spill }
    regs := storeAt Reg.zero 0 q.w0 (storeAt Reg.zero 1 q.w1 (storeAt Reg.zero 2 q.w2 []))
    members := group15
    launch := q.launch }

/-- Starts a strand. The counters of its core are CSRs of both strands, and every start zeroes them (R81). A tile that a gang holds for
an ended partner keeps its errors until the gang ends (R270). Log 71 (DEDUCED). -/
def startStrand (q : StartReq) : M Unit := do
  modify fun s => s.enterQuad (quadOf q.sid) q.tid
  setStrand q.sid q.strand
  modify fun s => s.withCore (coreOf q.sid) { s.core (coreOf q.sid) with counters := [] }
  modify fun s => { s with
    badTiles := s.badTiles.filter fun e => e.1 / 2048 ≠ q.sid || s.tileRead q.sid (e.1 / 256 % 8)
    badRows := s.badRows.filter fun e => e.1 / 128 ≠ q.sid }
  let s ← get
  releaseScout (s.colonyOf q.sid)

/-- Starts a strand if 8 lanes are free, and otherwise defers the start (R170). -/
def startOrDefer (q : StartReq) : M Unit := do
  let s ← get
  let quad := quadOf q.sid
  if s.freeLanes quad ≥ 8 && (s.quad quad).deferred.isEmpty then startStrand q
  else modQuad quad fun v => { v with deferred := v.deferred ++ [q] }

/-- The oldest deferred start of a quad, if lanes are free now; none is made for a colony that yields (R376). -/
def deferredStart (quad : Nat) : M Unit := do
  let s ← get
  match (s.quad quad).deferred with
  | [] => pure ()
  | q :: rest =>
    let yields : Bool := match s.colony (s.colonyOf q.sid) with
      | some c => c.state = .yielding
      | none => false
    if s.freeLanes quad < 8 || yields then pure ()
    else do
      modQuad quad fun v => { v with deferred := rest }
      startStrand q
      offerLanes quad

/-- `DEFERRED_START` (R170). -/
def execDeferredStart (s : State) : Host.Outcome State Fault Refusal :=
  match s.now with
  | .deferredStart q => runEvent (deferredStart q) s
  | _ => .next s

/-! ## Records (R355, R369, R370) -/

/-- The polls that a ring receives in a round (R369). -/
def State.pollWeight (s : State) (r : Ring) : Nat :=
  let low : Bool := match s.colony r.colony with
    | some c => (List.range 8).any fun i => c.allocOf i ≠ unlimited && lookupD 0 c.rem i * 4 < c.allocOf i
    | none => false
  if low then max 1 (r.weight / 2) else r.weight

/-- Counts a poll of a ring. -/
def countPoll (ring : Nat) (r : Ring) : M Unit := modify fun s =>
  let left := if s.units.poll.1 = ring && s.units.poll.2 > 0 then s.units.poll.2 else s.pollWeight r
  { s with units := { s.units with poll := (ring, left - 1) } }

/-- Whether the Scout may work for a colony now: it is loaded, or it is fixed and idle, and then loads when a strand of it
starts (R369, R393). The boot strand keeps colonies off its quad (R392). -/
def State.scoutServes (s : State) (id : Nat) : Bool :=
  match s.colony id with
  | some c => c.state = .loaded || (c.state = .idle && !s.named id && !(s.units.boot.isSome && covers id 0))
  | none => false

/-- Consumes the head record of a ring (R355, step 4). -/
def advanceRing (ring : Nat) (r : Ring) : M Unit := do
  let next := (r.rp + 1) % 2 ^ 64
  ringWrite r 8 (leBytes 8 next)
  modify fun s => { s with units := { s.units with
    rings := storeAt none ring (some { r with rp := next }) s.units.rings } }
  settleColony r.colony

/-- Rejects the head record of a ring with a reason (R355). -/
def rejectRecord (ring : Nat) (r : Ring) (x : ScoutRecord) (reason : Nat) : M Unit := do
  ringWrite r (64 + 64 * x.slot + 8) (leBytes 8 (2 ^ 63 + reason))
  scoutInterrupt r.colony (BitVec.ofNat 64 ring)
  advanceRing ring r

/-- The first reason, from 1 to 4, for which a record is rejected, or 0. -/
def ScoutRecord.reason (x : ScoutRecord) (r : Ring) : Nat :=
  let fields := (List.range 3).map (x.mint r.authority)
  let zeroCaps := (List.range 2).all fun i => x.field (16 + 16 * i) 16 = 0 && x.side / 2 ^ i % 2 = 0
  let reserved : Bool := match x.kind with
    | 1 => x.field 8 8 ≠ 0
    | 2 => x.field 4 12 ≠ 0 || !zeroCaps
    | _ => x.field 4 4 ≠ 1 || x.field 12 1 ≥ 4 || x.field 13 3 ≠ 0
  if x.kind = 0 || x.kind > 3 then 1
  else if reserved then 2
  else if !inside (x.field 2 2) r.colony then 3
  else if fields.any (·.isNone) || (x.kind = 1 && !(fields.head?.join.any (entryOk (Cap.tenant r.cap.val)))) then 4
  else 0

/-- A capability field of a record that has passed its checks. -/
def ScoutRecord.cap (x : ScoutRecord) (r : Ring) (i : Nat) : Reg := (x.mint r.authority i).getD Reg.zero

/-- The launch that fills a record's future. Its colony, which R355 gives the Scout interrupt of a dropped fill, is the model's
choice where the record names a colony inside the ring's: it is the ring's. Log 104 (DESIGN CHOICE). -/
def ScoutRecord.launch (x : ScoutRecord) (r : Ring) (s : State) (ring : Nat) : Launch :=
  { id := s.units.nextLaunch, colony := r.colony, tenant := Cap.tenant r.cap.val, ring := ring, future := x.cap r 2,
    left := 0, failed := none, stop := false }

/-- Launches strands on the given positions. -/
def launchAt (x : ScoutRecord) (r : Ring) (ring : Nat) (c : Colony) (places : List Nat) : M Unit := do
  let s ← get
  let l := x.launch r s ring
  set { s with units := { s.units with
    nextLaunch := l.id + 1, launches := s.units.launches ++ [{ l with left := places.length }] } }
  modify fun s => s.withColony r.colony (some { c with state := .loaded })
  for e in places.zipIdx do
    startOrDefer { sid := e.1, pcc := x.cap r 0, tid := Cap.tenant r.cap.val, w0 := x.cap r 1, w1 := Reg.ofWord (BitVec.ofNat 64 e.2),
                   w2 := Reg.ofWord (BitVec.ofNat 64 places.length), spill := c.spill, launch := l.id, boot := false }

/-- The value that a stop gives to the futures of launches that it keeps from starting (R370). -/
def stoppedValue : Word := BitVec.ofNat 64 (2 ^ 63 + 0xFF)

/-- A launch record (R355). One that a stop of its colony found pending starts nothing (R370). -/
def scoutLaunch (ring : Nat) : M Unit := do
  let s ← get
  match lookupD none s.units.rings ring with
  | none => pure ()
  | some r => do
    let head ← scoutHead r
    match head, s.colony r.colony with
    | some x, some c =>
      if !s.scoutServes r.colony || x.kind = 2 || x.kind = 3 then pure ()
      else do
        countPoll ring r
        let reason := x.reason r
        let free := (strandPositions (x.field 2 2)).filter s.positionFree
        let count := x.field 4 4
        if reason ≠ 0 then rejectRecord ring r x reason
        else if (r.drain + 2 ^ 64 - r.rp) % 2 ^ 64 ≠ 0 && (r.drain + 2 ^ 64 - r.rp) % 2 ^ 64 ≤ 65536 then do
          fillCompletion (x.launch r s ring) stoppedValue
          advanceRing ring r
        else if count = 0 || count > free.length then rejectRecord ring r x 5
        else do
          launchAt x r ring c (free.take count)
          advanceRing ring r
    | _, _ => pure ()

/-- `SCOUT_LAUNCH` (R355). -/
def execScoutLaunch (s : State) : Host.Outcome State Fault Refusal :=
  match s.now with
  | .scoutLaunch ring => runEvent (scoutLaunch ring) s
  | _ => .next s

/-- Whether a strand is at an instruction boundary at which a stop ends it. -/
def Strand.stoppable (t : Strand) : Bool := t.live && t.asked.isEmpty && !t.gangIssued

/-- Ends the strands of a colony that a stop finds at a boundary, and the starts that wait for lanes (R370). -/
def stopStrands (colony : Nat) : M Unit := do
  let s ← get
  for e in s.quads do
    if covers colony e.1 then do
      modQuad e.1 fun v => { v with deferred := [] }
      for q in e.2.deferred do
        endOfLaunch q.launch (some (s.faultValue q.sid 0xFF))
  for sid in s.colonyStrands colony do
    if (s.strand sid).stoppable then endStrand sid (some (s.faultValue sid 0xFF))
  settleStops colony

/-- A stop record (R370), or a stop under way: strands that were not at a boundary are ended now. -/
def scoutStop (ring : Nat) : M Unit := do
  let s ← get
  match s.units.launches.find? (fun l => l.stop && l.ring = ring) with
  | some l => stopStrands l.colony
  | none =>
    match lookupD none s.units.rings ring with
    | none => pure ()
    | some r => do
      let head ← scoutHead r
      match head with
      | none => pure ()
      | some x =>
        if !s.scoutServes r.colony || x.kind ≠ 2 then pure ()
        else do
          countPoll ring r
          let reason := x.reason r
          if reason ≠ 0 then rejectRecord ring r x reason
          else do
            for e in s.units.rings do
              match e.2 with
              | some k =>
                if k.colony = r.colony then do
                  let wp ← ringRead k 0 8
                  let drain := (wp.map leNat).getD k.rp
                  modify fun s => { s with units := { s.units with
                    rings := storeAt none e.1 (some { k with drain := drain }) s.units.rings } }
                else pure ()
              | none => pure ()
            let l := x.launch r s ring
            modify fun s => { s with units := { s.units with
              nextLaunch := l.id + 1, launches := s.units.launches ++ [{ l with stop := true }] } }
            let s ← get
            match lookupD none s.units.rings ring with
            | some k => advanceRing ring k
            | none => pure ()
            stopStrands r.colony
            settleColony r.colony

/-- `SCOUT_STOP` (R370). -/
def execScoutStop (s : State) : Host.Outcome State Fault Refusal :=
  match s.now with
  | .scoutStop ring => runEvent (scoutStop ring) s
  | _ => .next s

/-- Pushes the item of a configure record: the cause with which it fails, or 0 (R319, R370). Log 69 (DESIGN CHOICE). -/
def scoutPush (x : ScoutRecord) (r : Ring) (ring : Nat) : M Nat := do
  let h := x.cap r 0
  let v := x.cap r 1
  let who : Identity := ⟨false, Cap.tenant r.cap.val⟩
  let named ← attempt (do
    let n ← checkHandleAs who h false
    raiseIf (v.tag && !Cap.has v.val Cap.gl) cPerm (Cap.cursor h.val)
    pure n)
  match named with
  | .error (.trap code _ _) => pure code.toNat
  | .error _ => pure cPerm.toNat
  | .ok (pkg, die, i, gen) => do
    let engine := Config.scoutEngine ring % 8
    let key := x.field 8 4
    let ok ← placeItem engine pkg die i gen key (x.field 12 1) v r.colony
    if ok then do
      let s ← get
      sendCount pkg (s.countOf engine die i gen key (s.fullSid (firstSid r.colony)).toNat)
      pure 0
    else pure cWlfull.toNat

/-- A configure record that pushes (R370). -/
def scoutConfigurePush (ring : Nat) : M Unit := do
  let s ← get
  match lookupD none s.units.rings ring with
  | none => pure ()
  | some r => do
    let head ← scoutHead r
    match head with
    | none => pure ()
    | some x =>
      if !s.scoutServes r.colony || x.kind ≠ 3 then pure ()
      else do
        countPoll ring r
        let reason := x.reason r
        if reason ≠ 0 then rejectRecord ring r x reason
        else do
          let code ← scoutPush x r ring
          fillCompletion (x.launch r s ring) (BitVec.ofNat 64 (if code = 0 then 0 else 2 ^ 63 + code))
          advanceRing ring r

/-- `SCOUT_CONFIGURE_PUSH` (R370). -/
def execScoutConfigurePush (s : State) : Host.Outcome State Fault Refusal :=
  match s.now with
  | .scoutConfigurePush ring => runEvent (scoutConfigurePush ring) s
  | _ => .next s

/-! ## What the Scout does next (R369) -/

/-- Rings that hold a record which the Scout may process, ascending, with that record's kind. -/
def State.scoutReady (s : State) : List (Nat × Nat) :=
  s.units.rings.filterMap fun e => match e.2 with
    | some r =>
      if !s.scoutServes r.colony then none
      else match scoutHead r s with
        | .ok (some x) _ => some (e.1, x.kind)
        | _ => none
    | none => none

/-- The Scout's next record by its rounds, or a stop under way that has strands to end. -/
def State.scoutEvent (s : State) : Option Event :=
  match s.units.launches.find? (fun l => l.stop && (s.colonyStrands l.colony).any fun b => (s.strand b).stoppable) with
  | some l => some (.scoutStop l.ring)
  | none =>
    let ready := s.scoutReady
    let (cur, left) := s.units.poll
    let here := ready.find? fun e => e.1 = cur && left > 0
    let later := ready.find? fun e => e.1 > cur
    match (here.orElse fun _ => later).orElse fun _ => ready.head? with
    | none => none
    | some (ring, 2) => some (.scoutStop ring)
    | some (ring, 3) => some (.scoutConfigurePush ring)
    | some (ring, _) => some (.scoutLaunch ring)

end Sys2Proof.Machine
end

