-- ==== Sys2Proof/Machine/Shake.lean ====
section
/-! DEFINITION. SHAKE256 (R359, R361), as FIPS 202 defines it: the manual names the algorithm and gives its inputs. -/

namespace Sys2Proof.Machine

/-- Round constants of Keccak-f[1600]. -/
def keccakRounds : List Word :=
  [0x0000000000000001, 0x0000000000008082, 0x800000000000808A, 0x8000000080008000, 0x000000000000808B, 0x0000000080000001,
   0x8000000080008081, 0x8000000000008009, 0x000000000000008A, 0x0000000000000088, 0x0000000080008009, 0x000000008000000A] ++
  [0x000000008000808B, 0x800000000000008B, 0x8000000000008089, 0x8000000000008003, 0x8000000000008002, 0x8000000000000080,
   0x000000000000800A, 0x800000008000000A, 0x8000000080008081, 0x8000000000008080, 0x0000000080000001, 0x8000000080008008]

/-- Rotations of the lanes, lane x + 5y at place x + 5y. -/
def keccakOffsets : List Nat :=
  [0, 1, 62, 28, 27, 36, 44, 6, 55, 20, 3, 10, 43, 25, 39, 41, 45, 15, 21, 8, 18, 2, 61, 56, 14]

/-- One round: the column parities, the rotations with the new places of the lanes, the rows, and the constant. -/
def keccakRound (a : List Word) (c : Word) : List Word :=
  let parity := (List.range 5).map fun x => (List.range 5).foldl (fun p y => p ^^^ a.getD (x + 5 * y) 0) 0
  let mixed := (List.range 25).map fun i =>
    a.getD i 0 ^^^ parity.getD ((i + 4) % 5) 0 ^^^ (parity.getD ((i % 5 + 1) % 5) 0).rotateLeft 1
  let turned := (List.range 25).map fun i =>
    let x := i % 5
    let y := i / 5
    let j := (x + 3 * y) % 5 + 5 * x
    (mixed.getD j 0).rotateLeft (keccakOffsets.getD j 0)
  let rows := (List.range 25).map fun i =>
    let row := i / 5 * 5
    turned.getD i 0 ^^^ (~~~ turned.getD (row + (i + 1) % 5) 0 &&& turned.getD (row + (i + 2) % 5) 0)
  rows.set 0 (rows.getD 0 0 ^^^ c)

/-- Keccak-f[1600]. -/
def keccak (a : List Word) : List Word := keccakRounds.foldl keccakRound a

/-- A lane of a block. -/
def laneOf (bs : List Byte) : Word := bs.reverse.foldl (fun w b => w <<< 8 ||| b.setWidth 64) 0

/-- Absorbs whole blocks of 136 bytes, at most `n`. -/
def absorb : Nat → List Word → List Byte → List Word
  | 0, a, _ => a
  | n + 1, a, bs =>
    if bs.isEmpty then a
    else absorb n (keccak ((List.range 25).map fun i =>
      a.getD i 0 ^^^ (if i < 17 then laneOf ((bs.drop (8 * i)).take 8) else 0))) (bs.drop 136)

/-- The padding of a message of SHAKE256: 1111, then 10…01, up to a whole block. -/
def shakePadding (n : Nat) : List Byte :=
  match 135 - n % 136 with
  | 0 => [0x9F]
  | k + 1 => 0x1F :: List.replicate k 0 ++ [0x80]

/-- The 512-bit SHAKE256 digest of a message. -/
def shake256 (bs : List Byte) : List Byte :=
  let a := absorb (bs.length / 136 + 1) (List.replicate 25 0) (bs ++ shakePadding bs.length)
  (a.take 8).flatMap fun (w : Word) => (List.range 8).map fun i => (w >>> (8 * i)).setWidth 8

end Sys2Proof.Machine
end

