-- ==== Sys2Proof/Machine/Mailbox.lean ====
section
/-! DEFINITION. Reset and the management controller: the mailbox, attestation, the boot of a package, and time status (R358 to
R363, R372, R392). -/

namespace Sys2Proof.Machine

/-! ## Reset -/

/-- The package after a reset: as at the first one, with the contents of its memories, its place in the pod and what has left
it. Log 4 (DESIGN CHOICE). Log 73 (DEDUCED). -/
def State.resetAgain (s : State) : State :=
  { State.reset with
    turns := s.turns, agenda := s.agenda, now := s.now, evictPlan := s.evictPlan, steps := s.steps, fresh := s.fresh
    mem := s.mem, tags := s.tags, bad := s.bad, pkg := s.pkg, time := s.time
    units := { PackageState.reset with
      sizes := s.units.sizes, fabricOut := s.units.fabricOut, hostOut := s.units.hostOut, debugOut := s.units.debugOut } }

/-- `RESET` (R363). Log 73 (DEDUCED). -/
def execReset (s : State) : Host.Outcome State Fault Refusal :=
  match s.now with
  | .reset => .next s.resetAgain
  | _ => .next s

/-! ## Requests (R360) -/

/-- The local address of a mailbox offset. -/
def mailboxAddr (off : Nat) : Nat := 0x1F000000000 + mailboxOff + off

/-- A number in the mailbox. -/
def State.mailboxNat (s : State) (off n : Nat) : Nat := leNat (s.bytesAt (mailboxAddr off) n)

/-- The slot of the oldest request that is not completed, as an offset. -/
def State.requestSlot (s : State) : Nat := 0x1000 + 0x800 * (s.mailboxNat 8 8 % 16)

/-- The op of the oldest request, if one is posted. -/
def State.mailboxOp (s : State) : Option Nat :=
  if s.mailboxNat 0 8 = s.mailboxNat 8 8 then none else some (s.mailboxNat s.requestSlot 2)

/-- The request that the controller takes next. One with an unlisted op is refused by the first handler. Log 75 (DEDUCED). -/
def State.mailboxDue (s : State) : Option Event :=
  s.mailboxOp.map fun op => if op = 2 then .bootRequest else if op = 3 then .timeStatus else .attestationReport

def statusDone : Nat := 0
def statusRefused : Nat := 1
def statusMalformed : Nat := 2
def statusMeasurement : Nat := 3

/-- Completes the oldest request with a status and a reply. -/
def State.completeRequest (s : State) (status : Nat) (reply : List Byte) : State :=
  let slot := s.requestSlot
  let rp := s.mailboxNat 8 8
  let s := s.putBytes (mailboxAddr (slot + 64)) reply
  let s := s.putBytes (mailboxAddr (slot + 4)) (leBytes 4 reply.length)
  let s := s.putBytes (mailboxAddr (slot + 2)) (leBytes 2 status)
  s.putBytes (mailboxAddr 8) (leBytes 8 (rp + 1))

/-- The operand `arg` of the oldest request. -/
def State.requestArg (s : State) : Nat := s.mailboxNat (s.requestSlot + 8) 8

/-! ## The attestation report (R359, R360) -/

/-- Exactly `n` bytes: cut, or padded with zeros. -/
def fitBytes (n : Nat) (bs : List Byte) : List Byte := bs.take n ++ List.replicate (n - bs.length) 0

/-- The tables whose digest the report carries: colony records with their quotas, colours, and the slot table in force. -/
def State.tableBytes (s : State) : List Byte :=
  (s.units.colonies.flatMap fun e => match e.2 with
    | some c => s.recordOf e.1 c
    | none => []) ++
  (List.range 64).flatMap (fun i => leBytes 2 (lookupD 0 s.units.colours i)) ++
  (List.range 65).flatMap fun i => leBytes 8 (lookupD 0 s.units.slots i).toNat

/-- The images that the report lists, at most six, with their digests. -/
def State.reportImages (s : State) : List (Word × List Byte) :=
  ((Config.firmwareImages.map fun i => (i.1, shake256 i.2)) ++ s.units.measured).take 6

/-- The report before its signature. -/
def State.reportBody (s : State) : List Byte :=
  let images := s.reportImages
  leBytes 8 (s.pkg % 2 ^ 14) ++ shake256 Config.identityKey ++ leBytes 4 images.length ++ leBytes 4 0 ++
    (images.flatMap fun i => leBytes 8 i.1.toNat ++ fitBytes 64 i.2) ++
    shake256 (Config.configurationBytes s.tableBytes) ++ s.bytesAt (mailboxAddr (s.requestSlot + 16)) 32

/-- A request for the report, or one with an unlisted op, which is refused. Log 75 (DEDUCED). -/
def attestation (s : State) : State :=
  match s.mailboxOp with
  | none => s
  | some op =>
    if op ≠ 1 then s.completeRequest statusRefused []
    else if s.requestArg ≠ 0 || s.mailboxNat (s.requestSlot + 48) 16 ≠ 0 then s.completeRequest statusMalformed []
    else
      let body := s.reportBody
      s.completeRequest statusDone (body ++ fitBytes 1280 (Config.falconSign body))

/-- `ATTESTATION_REPORT` (R359). -/
def execAttestationReport (s : State) : Host.Outcome State Fault Refusal :=
  match s.now with
  | .attestationReport => .next (attestation s)
  | _ => .next s

/-! ## Time status (R372) -/

/-- The reply of op 0x0003. -/
def Clock.status (c : Clock) : Nat :=
  c.utcoff.toNat + c.flags.toNat * 2 ^ 16 + c.cls.toNat * 2 ^ 24 + (if c.lost then 2 ^ 32 else 0)

/-- A request for the time status. -/
def timeStatus (s : State) : State :=
  if s.mailboxOp ≠ some 3 then s
  else if s.requestArg ≠ 0 then s.completeRequest statusMalformed []
  else s.completeRequest statusDone (leBytes 8 s.units.clock.status)

/-- `TIME_STATUS` (R372). -/
def execTimeStatus (s : State) : Host.Outcome State Fault Refusal :=
  match s.now with
  | .timeStatus => .next (timeStatus s)
  | _ => .next s

/-! ## Boot (R361, R392) -/

/-- Where the boot image lies: the base of channel group 63. -/
def bootBase : Nat := 0xFC000000000

/-- The authority that the templates of a boot header are minted against: all of DRAM for tenant 0. -/
def bootAuthority : Quad := Cap.make Cap.kMemory 0 0xFFF 0 0 24 0

/-- What a boot header that passes its checks gives: the root, the entry and the argument. -/
structure BootHeader where
  root : Nat
  entry : Reg
  argument : Reg
  deriving DecidableEq, Repr

/-- The checks of R361 on the 128 bytes of a header, for an image of `len` bytes. -/
def parseBoot (bs : List Byte) (len : Nat) : Option BootHeader :=
  let f := fun (o n : Nat) => leNat ((bs.drop o).take n)
  let root := f 16 8
  let entry : Reg := ⟨BitVec.ofNat 128 (f 32 16), true⟩
  let argument : Reg := ⟨BitVec.ofNat 128 (f 48 16), true⟩
  if f 0 2 = 1 && f 2 6 = 0 && f 8 8 = len && 128 ≤ len && len ≤ 2 ^ 34 && f 24 8 = 0 && f 64 64 = 0 &&
      root % 65536 = 0 && bootBase ≤ root && root + 32768 ≤ bootBase + len &&
      Cap.mintable bootAuthority entry.val && Cap.kind entry.val = Cap.kEntry && entryOk 0 entry &&
      Cap.mintable bootAuthority argument.val && Cap.kind argument.val = Cap.kMemory then
    some { root := root, entry := entry, argument := argument }
  else none

/-- Whether the signature behind the image, which a fused customer key asks for, fails (R361). -/
def State.bootUnsigned (s : State) (digest : List Byte) (len : Nat) : Bool :=
  Config.customerKeyFused && !Config.falconValid digest (s.bytesAt (bootBase + len) 1280)

/-- The first boot request after reset: the boot strand starts on strand 0 with its root installed. Log 95 (DESIGN CHOICE). -/
def bootRequest : M Unit := do
  let s ← get
  if s.mailboxOp ≠ some 2 then pure ()
  else if s.units.booted then set (s.completeRequest statusRefused [])
  else do
    let len := s.requestArg
    modify fun s => { s with units := { s.units with booted := true } }
    let s ← get
    match parseBoot (s.bytesAt bootBase 128) len with
    | none => set (s.completeRequest statusMalformed [])
    | some h =>
      let digest := shake256 (s.bytesAt bootBase len)
      if (s.firstBad bootBase len).isSome || s.bootUnsigned digest len then
        set (s.completeRequest statusMeasurement [])
      else do
        set { s with
          roots := storeAt 0 0 (BitVec.ofNat 64 (s.globalOf h.root + 1)) s.roots
          units := { s.units with measured := s.units.measured ++ [(Config.bootVersion, digest)], boot := some 0 } }
        startStrand { sid := 0, pcc := h.entry, tid := 0, w0 := h.argument, w1 := Reg.ofWord 0, w2 := Reg.ofWord 1,
                      spill := Reg.zero, launch := 0, boot := true }
        modify fun s => s.completeRequest statusDone []

/-- `BOOT_REQUEST` (R361). -/
def execBootRequest (s : State) : Host.Outcome State Fault Refusal :=
  match s.now with
  | .bootRequest => runEvent bootRequest s
  | _ => .next s

end Sys2Proof.Machine
end

