-- ==== Sys2Proof/Machine/Due.lean ====
section
/-! DEFINITION. Events that are due by the state alone: timers, slices, budget periods, windows that close, saves, and the
Scout's records. None of them stays due once it has been taken. -/

namespace Sys2Proof.Machine

/-- Nanoseconds of a number of clk in a strand's island (R382). -/
def State.nsOf (s : State) (sid clk : Nat) : Nat :=
  clk * 1000 / max 1 (lookupD Island.initial s.units.islands (islandOf sid)).mhz

/-! ## Timers -/

/-- A strand whose timer has come to be pending and would be taken (R163, R431). -/
def State.timerDue (s : State) : Option Event :=
  (s.running.find? fun sid =>
    let t := s.strand sid
    t.timecmp ≠ 0 && s.time ≥ t.timecmp.toNat && t.takeable cTimer && !t.wake).map .timerInterrupt

/-- A budget period has started (R379). -/
def State.periodDue (s : State) : Option Event := if s.time / 1000 > s.units.period then some .budgetPeriod else none

/-- A combining window at a quad has lasted its 16 clk, or no strand of the quad runs (R351). -/
def State.windowDue (s : State) : Option Event :=
  (s.units.windows.find? fun w =>
    let cores := (List.range 4).map fun i => (s.core (w.quad * 4 + i)).clk
    (s.quadStrands w.quad).isEmpty || cores.any fun c => c ≥ w.close).map fun w => .combineWindowClose w.quad

/-! ## Requests to other packages (R407, R420) -/

/-- Nanoseconds for which a request, and then its probe, may go unanswered. -/
def answerTime : Nat := 100000

/-- A request whose timer has expired, or a probe whose has. -/
def State.requestDue (s : State) : Option Event :=
  match s.units.requests.find? (fun r => r.probed.isNone && s.time ≥ r.sent + answerTime) with
  | some r => some (.requestTimeout r.txn)
  | none => (s.units.probes.find? fun p => s.time ≥ p.2 + answerTime).map fun p => .probeTimeout p.1

/-- A request held at a router whose group leaves (R414). Groups are named by the place of their first member. -/
def State.departDue (s : State) : Option Event :=
  s.units.routers.findSome? fun e =>
    (e.2.held.zipIdx.find? fun h => s.time ≥ h.1.until_).map fun h => .combineDepart e.1 h.2

/-! ## Yields and saves (R142, R376) -/

/-- Whether the requests that a strand waits for are all reads that can be given up: none reads a mapped register or a port, which
is irrevocable (R114, R142). -/
def State.waitsForReads (s : State) (sid : Nat) : Bool :=
  let t := s.strand sid
  let open_ := s.units.requests.filter fun r => r.sid = sid && r.use = .instr && t.asked.contains r.txn
  !open_.isEmpty && open_.all fun r => match r.packet.op with
    | .read _ => match place r.packet.addr with
      | .window .. => false
      | .port _ => false
      | _ => true
    | _ => false

/-- The next thing due for a colony that yields. -/
def State.yieldDue (s : State) : Option Event :=
  s.units.colonies.findSome? fun e => match e.2 with
    | none => none
    | some c => match c.state, c.yield with
      | .yielding, some y =>
        let ts := s.colonyStrands e.1
        if ts.all s.stoppedForYield then some (.colonySaveDone e.1)
        else if !y.forced then if s.time ≥ y.deadline then some (.forcedSave e.1) else none
        else (ts.find? fun sid => !s.decodeStopped sid && s.waitsForReads sid &&
          s.time ≥ y.deadline + s.nsOf sid 4096).map .loadReissueTimeout
      | _, _ => none

/-! ## Slices (R373, R375) -/

/-- The non-empty entries of a slot table, ascending, with their durations in ns. -/
def slotEntries (m : SMap Word) : List (Nat × Nat) :=
  (m.filter fun e => e.1 < 64 && slotColony e.2 ≠ 0).map fun e => (e.1, fieldAt e.2 0 24 * 1000)

/-- The entry in which a time within a cycle falls, and how far from the start of the cycle its slice ends. -/
def slotWithin : List (Nat × Nat) → Nat → Nat → Option (Nat × Nat)
  | [], _, _ => none
  | (i, d) :: l, start, t => if t < start + d then some (i, start + d) else slotWithin l (start + d) t

/-- The slice scheduled at a time by the table in force: its entry and its end; none while the table is disabled, empty, or
before its epoch. -/
def State.scheduled (s : State) (t : Nat) : Option (Nat × Nat) :=
  let es := slotEntries s.units.slots
  let len := (es.map (·.2)).sum
  let ctl := lookupD 0 s.units.slots 64
  let epoch := fieldAt ctl 0 63
  if !bitAt ctl 63 || len = 0 || t < epoch then none
  else
    let cycle := epoch + (t - epoch) / len * len
    (slotWithin es 0 (t - cycle)).map fun e => (e.1, cycle + e.2)

/-- The colony of a slot-table entry. -/
def State.slotOwner (s : State) (i : Nat) : Nat := slotColony (lookupD 0 s.units.slots i)

/-- A slice that ends: its time is over, or its colony has returned to idle. Slot 64 stands for the start of the first
cycle. -/
def State.sliceDue (s : State) : Option Event :=
  match s.units.slice with
  | none => if (s.scheduled s.time).isSome then some (.sliceEnd 0 64) else none
  | some (i, end_, loaded) =>
    let idle : Bool := match s.colony (s.slotOwner i) with
      | some c => c.state = .idle
      | none => true
    if s.time ≥ end_ || (loaded && idle) then some (.sliceEnd (s.slotOwner i) i) else none

/-- Whether a colony can be loaded: no colony that overlaps it is loaded or yields, and the boot strand is not on its quads
(R375, R392). -/
def State.loadable (s : State) (id : Nat) : Bool :=
  !(s.units.boot.isSome && covers id 0) && !s.units.colonies.any fun e => match e.2 with
    | some c => e.1 ≠ id && overlaps e.1 id && (c.state = .loaded || c.state = .yielding)
    | none => false

/-- Whether a colony has something to load: a saved state, or a record that waits at a ring. -/
def State.loadWaits (s : State) (id : Nat) : Bool :=
  match s.colony id with
  | some c => (c.state = .saved && c.hasImage) || (c.state = .idle && match pendingRings id s with
    | .ok b _ => b
    | _ => false)
  | none => false

/-- A colony to load: that of the slice which runs, or a fixed colony that was saved. -/
def State.loadDue (s : State) : Option Event :=
  let sliced := match s.units.slice with
    | some (i, _, false) =>
      let id := s.slotOwner i
      if s.loadWaits id && s.loadable id then some (Event.colonyLoad id) else none
    | _ => none
  sliced.orElse fun _ => (s.units.colonies.find? fun e => match e.2 with
    | some c => c.state = .saved && c.hasImage && !s.named e.1 && s.loadable e.1
    | none => false).map fun e => .colonyLoad e.1

/-- The event that the state itself makes due, in a fixed order. Log 8 (DESIGN CHOICE). -/
def State.dueEvent (s : State) : Option Event :=
  s.timerDue <|> s.periodDue <|> s.windowDue <|> s.requestDue <|> s.departDue <|> s.yieldDue <|> s.sliceDue <|>
    s.loadDue <|> s.mailboxDue <|> s.edgesDue <|> s.scoutEvent

end Sys2Proof.Machine
end

