-- ==== Sys2Proof/Machine/Fetch.lean ====
section
/-! DEFINITION. What a step does around an instruction: evictions, events, interrupts, fetching (R79), whose turn it is,
and how an instruction is placed for the next step. -/

namespace Sys2Proof.Machine

/-! ## Fetching (R24, R39, R79) -/

/-- The most lines that an L1 instruction cache holds (R148). -/
def codeLines : Nat := 256

/-- Brings a line into a core's L1 instruction cache, unless one of its sectors fails; a full cache gives up another line, which
one nobody can tell. Log 12 (DESIGN CHOICE). Log 13 (DEDUCED). -/
def State.fillCode (s : State) (core a : Nat) : State :=
  let line := a / 128 * 128
  if (List.range 4).any fun i => !s.l1Holds core (line + 32 * i) 1 && s.badAt (line + 32 * i) ≠ 0 then s
  else
    let s := s.recall (line / 128)
    let c := s.core core
    let code := if c.code.length < codeLines then c.code
      else c.code.eraseIdx (Config.victim s.steps % c.code.length)
    s.withCore core { c with code := storeAt [] (s.globalOf line / 128) (s.viewBytes core line 128) code }

/-- The two bytes of a word at a global physical address, as the strand's core fetches them (R148): from the L1 instruction
cache, which keeps the bytes that it was filled with, or else as the core sees them now. Log 13 (DEDUCED). -/
def fetchBytes (va p : Nat) (tenant : BitVec 12) : M (List Byte) := do
  let s ← get
  let held := lookupD [] (s.core (coreOf s.cur)).code (p / 128)
  if !held.isEmpty then pure ((held.drop (p % 128)).take 2)
  else if pkgOf p ≠ s.pkg then do
    let a ← askRemote va p 1 0 tenant (.read 2) [] false
    pure a.data
  else
    let a := localOf p
    match place a with
    | .window .. => raise cAlign va
    | .port _ => raise cPerm va
    | .aliasWindow _ => raise cPerm va
    | .reserved => raise cXlat va
    | _ => do
      modify fun s => s.recallRange a 2
      let s ← get
      if s.l1Holds (coreOf s.cur) a 2 then pure () else
        raiseIf (s.badAt a ≠ 0) (s.badAt a) va
      modify fun s => s.fillCode (coreOf s.cur) a
      pure (s.viewBytes (coreOf s.cur) a 2)

/-- One word of an instruction through the PCC (R79). Log 13 (DEDUCED). -/
def fetchWord (va : Nat) : M IWord := do
  let t ← self
  raiseIf (Cap.base t.pcc.val > va || (va : Int) + 2 > Cap.top t.pcc.val) cBounds va
  let (p, _) ← translate (Cap.tenant t.pcc.val) va Cap.x
  let bs ← fetchBytes va p (Cap.tenant t.pcc.val)
  pure (BitVec.ofNat 16 (leNat bs))

/-- The words from an address up to the first base word, at most `n`. Log 13 (DEDUCED). -/
def fetchWords : Nat → Nat → List IWord → M (List IWord)
  | 0, _, ws => pure ws
  | n + 1, va, ws => do
    let w ← fetchWord (va % 2 ^ 48)
    if isChainWord w then fetchWords n (va + 2) (ws ++ [w]) else pure (ws ++ [w])

/-- Fetches the instruction at the program counter of the current strand into its instruction register. Log 13 (DEDUCED). -/
def fetch : M (List IWord) := do
  modSelf fun t => { t with opIndex := 0 }
  let t ← self
  let ws ← fetchWords 5 t.pc []
  modSelf fun t => { t with ir := ws }
  pure ws

/-! ## Turns -/

/-- What a step has come to before any instruction runs: it is done, the machine stops, or a row runs in a state; `turn`
tells whether it is a strand's turn, in which time passes. -/
inductive Work where
  | done (s : State) (turn : Bool)
  | stopped (f : Fault)
  | run (i : Instr) (s : State) (turn : Bool)
  deriving DecidableEq, Repr

/-- A fault of fetch or decode belongs to no role (R85). -/
def fetchDesc : Desc := ⟨0, 1, .access, []⟩

/-- What follows from a fetch that failed. -/
def failedFetch (s t : State) (e : Exc) : Work :=
  match conclude fetchDesc s t e with
  | .next u => .done u true
  | .fault f => .stopped f
  | .refused _ => .done s true

/-- Whether the debugger has halted a role of the strand (R83, R144). -/
def Strand.halted (t : Strand) : Bool := bitAt t.status 12 || bitAt t.status 13

/-- Whether the debugger has halted both roles. -/
def Strand.stopped (t : Strand) : Bool := bitAt t.status 12 && bitAt t.status 13

/-- The one role that the debugger has halted, if the other runs on (R144). -/
def Strand.halfHalted (t : Strand) : Option Role :=
  match bitAt t.status 12, bitAt t.status 13 with
  | true, false => some .access
  | false, true => some .execute
  | _, _ => none

/-- The turn of a strand whose pop waits: an interrupt that it would take cancels the pop, once (R324). -/
def popWork (s : State) (r : PopReq) : Work :=
  let t := s.self
  if !r.cancel && (t.gangFault.isSome || !(t.dueInterrupts s.time).isEmpty) then
    let u := s.withSelf { t with pop := some { r with cancel := true } }
    .done { u with agenda := u.agenda ++ [Event.popCancel s.cur] }.idle true
  else .done s.idle true

/-- The turn of a strand that has loads to reissue (R143). One that fails is given up and raises its fault; the others stay. Log 60 (DEDUCED). -/
def reissueWork (s : State) : Work :=
  match reissueTurn s with
  | .ok _ u => .done u.idle true
  | .error (.trap c v v2) u =>
    let w := s.withSelf s.self.reissued
    failedFetch w u (.trap c v v2)
  | .error e u => failedFetch s u e

/-- Fetches, decodes and runs the instruction at the program counter. -/
def runFetched (s : State) : Work :=
  match fetch s with
  | .error e u => failedFetch s u e
  | .ok ws u =>
    match decodeWords ws with
    | none => .done s.idle true
    | some (.error e) => failedFetch u u (.trap (if e.isPfx then cPfx else cIll) e.value none)
    | some (.ok i) => .run (selectRow i u) u true

/-- The turn of a strand one of whose roles the debugger has halted (R144): the other one runs on, until a fault stops it. A
restored strand whose halted role has yet to catch up waits. Log 97 (DEDUCED). -/
def aheadWork (s : State) (halted : Role) : Work :=
  let t := s.self
  if t.debugger.stuck then .done s.idle true
  else match t.apart with
    | none => runFetched (s.withSelf { t with apart := some (.ahead ⟨halted, none, 0, 0, []⟩) })
    | some (.ahead _) => runFetched s
    | some (.behind lag _) => if lag = halted then .done s.idle true else runFetched s

/-- The current strand's turn. Interrupts are taken at the boundary before its instruction (R137), except while a request
of the instruction to another package is outstanding, or while a role is halted (R144). Log 17 (DEDUCED). -/
def strandWork (s : State) : Work :=
  let t := s.self
  if t.stopped || s.decodeStopped s.cur then .done s.idle true
  else match t.pop with
  | some r => popWork s r
  | none =>
  if !t.halted && t.asked.isEmpty && !t.gangIssued &&
      (t.doomed || t.gangFault.isSome || !(t.dueInterrupts s.time).isEmpty) then
    .run .trapDelivery { s with now := .trapDelivery s.cur } true
  else if !t.reissue.isEmpty then reissueWork s
  else match t.halfHalted with
    | some r => aheadWork s r
    | none => runFetched s

/-- The next running strand at or after a sid, going round. Log 8 (DESIGN CHOICE). -/
def State.turnFrom (s : State) (sid : Nat) : Option Nat :=
  match s.running.find? (fun b => sid ≤ b) with
  | some b => some b
  | none => s.running.head?

/-- The strands' turn: the current strand, or the next one that runs. Log 8 (DESIGN CHOICE). -/
def strandsWork (s : State) : Work :=
  match s.turnFrom s.cur with
  | none => .done s true
  | some sid => strandWork { s with cur := sid }

/-- The turn of an event. -/
def eventWork (s : State) (e : Event) : Work :=
  match e.row with
  | some i => .run i { s with now := e } false
  | none => .done s false

/-- The input of a memory port by which the writes of an event arrive from outside the core, in the order of R146: quad window, copy,
remote, host. -/
def portInput (e : Event) : Option Nat :=
  match e with
  | .scratchpadWriteArrival w => some (if w.path = 2 then 1 else if w.path = 5 then 2 else if w.path = 6 then 3 else 0)
  | .copyCommand _ => some 1
  | .remoteRequest _ => some 2
  | .hostWrite _ => some 3
  | _ => none

/-- The event of the agenda that is taken next: the oldest; of those that wait in one clk to write at memory ports, the oldest of the
lowest input (R146). Log 8 (DESIGN CHOICE). -/
def nextEvent (l : List Event) : Option Event :=
  l.foldl (fun acc e => match acc.bind portInput, portInput e with
    | some i, some j => if j < i then some e else acc
    | _, _ => acc.orElse fun _ => some e) none

/-- The events' turn: one of the agenda, or the one that the state makes due; with none, the strands'. Log 8 (DESIGN CHOICE). -/
def eventsWork (s : State) : Work :=
  match nextEvent s.agenda with
  | some e => eventWork { s with agenda := s.agenda.erase e } e
  | none => match s.dueEvent with
    | some e => eventWork s e
    | none => strandsWork s

/-- A cache gives up a line or an entry (R147, R148, R295), or accesses miss an L2 and move DRAM sectors, which are counted and
charged to a colony (R378, R384). Log 12 (DESIGN CHOICE). Log 22 (DESIGN CHOICE). -/
def State.evict (s : State) : Eviction → State
  | .data core line => s.leaveLine core line
  | .code core line => s.dropCode core line
  | .tlb key => { s with tlb := storeAt ⟨0, 0⟩ key ⟨0, 0⟩ s.tlb }
  | .l2 line => s.l2Drop line
  | .sectors die misses sectors colony => ((s.countDie die 0x1001 misses).countPackage 0x2001 sectors).charge colony 2 sectors

/-- What comes next: an eviction, an event, or a strand. `turns` lets strands come before events. Log 8 (DESIGN CHOICE). Log 12 (DESIGN CHOICE). -/
def nextWork (s : State) : Work :=
  match s.evictPlan with
  | e :: plan => .done ({ s with evictPlan := plan }.evict e) false
  | [] => match s.turns with
    | true :: turns => strandsWork { s with turns := turns }
    | false :: turns => eventsWork { s with turns := turns }
    | [] => eventsWork s

/-- After a strand's turn, time has passed, energy has been used, and the turn moves on. Log 8 (DESIGN CHOICE). Log 14 (DESIGN CHOICE). -/
def State.tick (s : State) (turn : Bool) : State :=
  let s := { s with steps := s.steps + 1, now := .idle }
  if turn then
    let s := s.spendEnergy s.cur (Config.energyUsed (islandOf s.cur) s.steps)
    { s with time := s.time + Config.nsPerStep s.steps, cur := (s.turnFrom (s.cur + 1)).getD s.cur }
  else s

/-! ## Placing an instruction -/

/-- Words of memory as bytes, the first at the lowest address. -/
def placedBytes (nbits w : Nat) : List Byte :=
  let ws := tableWords nbits w
  wordsToBytes (ws ++ List.replicate (5 - ws.length) 0)

/-- The local address of the word at a virtual address, if it lies in this package's DRAM (R79). -/
def wordPlace (va : Nat) : M Nat := do
  let t ← self
  let s ← get
  raiseIf (Cap.base t.pcc.val > va || (va : Int) + 2 > Cap.top t.pcc.val) cBounds va
  let (p, _) ← translate (Cap.tenant t.pcc.val) va Cap.x
  raiseIf (pkgOf p ≠ s.pkg || place (localOf p) ≠ .dram) cXlat va
  pure (localOf p)

/-- Where the words of the longest instruction at an address are fetched from. -/
def wordPlaces : Nat → Nat → M (List Nat)
  | 0, _ => pure []
  | n + 1, va => do
    let p ← wordPlace (va % 2 ^ 48)
    let ps ← wordPlaces n (va + 2)
    pure (p :: ps)

/-- The state in which the next strand has its turn, and where its next instruction is fetched from, if it fetches one. Log 5 (DEDUCED). -/
def State.fetchPlace (s : State) : Option (State × List Nat) :=
  match s.turnFrom s.cur with
  | none => none
  | some sid =>
    let s := { s with cur := sid }
    let t := s.self
    if t.halted || t.apart.isSome || s.decodeStopped sid || t.pop.isSome || t.doomed || t.gangFault.isSome || !(t.dueInterrupts s.time).isEmpty ||
        !t.reissue.isEmpty then none
    else match wordPlaces 5 s.self.pc s with
      | .ok ps _ => some (s, ps)
      | .error .. => none

/-- Stores bytes in pairs at the given addresses, at the homes, where no cache holds them any more. -/
def State.placePairs (s : State) : List Nat → List Byte → State
  | p :: ps, b0 :: b1 :: bs =>
    ((((s.leaveLine (coreOf s.cur) (p / 128)).dropCode (coreOf s.cur) (s.globalOf p / 128)).putByte p b0).putByte
      (p + 1) b1).placePairs ps bs
  | _, _ => s

/-- A strand as the boot strand starts (R392), with page tables that map its first 32 MiB onto DRAM. Log 5 (DEDUCED). -/
def State.booted (s : State) : State :=
  let all := Cap.make Cap.kMemory 0 0xFFF 0 0 31 0x10000
  let s := s.putBytes 0x1000000 (leBytes 8 (0x1010000 + 1))
  let s := s.putBytes 0x1010000 (leBytes 8 0x13F)
  { s with
    cur := 0
    tlb := []
    roots := storeAt 0 0 (BitVec.ofNat 64 0x1000001) s.roots
    strands := [(0, { Strand.idle with live := true, mode := .hypervisor, pcc := ⟨all, true⟩ })]
    units := { s.units with boot := some 0 } }

/-- Stands for the load of a program (the boot of R361): the instruction lies where the next step fetches it. Log 5 (DEDUCED). -/
def State.placeNext (s : State) (nbits w : Nat) : State :=
  let s := { s with evictPlan := [], turns := [true] }
  match s.fetchPlace with
  | some (s, ps) => s.placePairs ps (placedBytes nbits w)
  | none =>
    match s.booted.fetchPlace with
    | some (s, ps) => s.placePairs ps (placedBytes nbits w)
    | none => s

end Sys2Proof.Machine
end

