-- ==== Sys2Proof/Machine/StrandEvents.lean ====
section
/-! DEFINITION. Events at strands, cores and quads: interrupts taken, waits that end, arrivals at a core, and the quad's
units. -/

namespace Sys2Proof.Machine

/-! ## Interrupts (R136, R137, R431) -/

/-- Whether a strand may take a cause at this boundary: it waits for no answer that has to come first (R139, R324). Log 17 (DEDUCED). -/
def Strand.atBoundary (t : Strand) : Bool :=
  t.live && t.asked.isEmpty && !t.gangIssued && t.pop.isNone && !t.halted

/-- Takes what a strand has to take at its boundary: its end, when its tenant has been killed (R280), the fault of its matrix operation, or else its first interrupt. -/
def takePending (sid : Nat) : M Unit := asStrand sid (do
  let s ← get
  let t := s.self
  if !t.atBoundary then pure ()
  else if t.doomed then endStrand sid (some (s.faultValue sid cEcc))
  else match t.gangFault with
    | some (c, v) => do
      modSelf fun t => { t with gangFault := none }
      deliver c v none true t.pcc
    | none => match t.dueInterrupts s.time with
      | [] => pure ()
      | e :: _ => do
        modSelf fun t => { t with
          pending := t.pending.filter fun x => x ≠ e
          instret := if t.asleep || t.holding.isSome then t.instret + 1 else t.instret }
        deliver e.1 e.2 none false t.interruptReturn)

/-- `TRAP_DELIVERY`. -/
def execTrapDelivery (s : State) : Host.Outcome State Fault Refusal :=
  match s.now with
  | .trapDelivery sid => runEvent (takePending sid) s
  | _ => .next s

/-- `TIMER_INTERRUPT`: the timer is pending while `timecmp` is not 0 and `time` has reached it; one that the mode would take
sets the wake flag (R163, R431). -/
def execTimerInterrupt (s : State) : Host.Outcome State Fault Refusal :=
  match s.now with
  | .timerInterrupt sid => runEvent (modStrand sid fun t =>
      if t.live && t.timecmp ≠ 0 && s.time ≥ t.timecmp.toNat then { t with wake := t.wake || t.takeable cTimer } else t) s
  | _ => .next s

/-! ## Waits that end -/

/-- The machine with the turn given back to the strand that had it. -/
def backTo (cur : Nat) : Host.Outcome State Fault Refusal → Host.Outcome State Fault Refusal
  | .next t => .next { t with cur := cur }
  | r => r

/-- Runs the instruction that a strand waits at, if it is one that `f` names; what a restored strand has to reissue comes first
(R143). -/
def runWaiting (sid : Nat) (f : Instr → Option (State → Host.Outcome State Fault Refusal)) (s : State) :
    Host.Outcome State Fault Refusal :=
  let t := s.strand sid
  if !t.live || t.halted || t.pop.isSome || !t.reissue.isEmpty then .next s
  else match fetch { s with cur := sid } with
    | .error .. => .next s
    | .ok ws u => match decodeWords ws with
      | some (.ok i) => match f i with
        | some run => backTo s.cur (run u)
        | none => .next s
      | _ => .next s

/-- `WAIT_WAKE` (R164): the `wait` of a strand whose wake flag is set ends. Log 88 (DEDUCED). -/
def execWaitWake (s : State) : Host.Outcome State Fault Refusal :=
  match s.now with
  | .waitWake sid => runWaiting sid (fun i => match i with
      | .wait o => some (execWait o)
      | _ => none) s
  | _ => .next s

/-- `BWT_RETURN` (R262): a `bwt` observes that its phase is complete. Log 88 (DEDUCED). -/
def execBwtReturn (s : State) : Host.Outcome State Fault Refusal :=
  match s.now with
  | .bwtReturn sid => runWaiting sid (fun i => match i with
      | .bwt o => some (execBwt o)
      | _ => none) s
  | _ => .next s

/-- `LOAD_VALUE_RETURN` (R143): the load that waits for a value takes it and fills its destination. Log 88 (DEDUCED). -/
def execLoadValueReturn (s : State) : Host.Outcome State Fault Refusal :=
  match s.now with
  | .loadValueReturn sid => runWaiting sid (fun i => match i with
      | .ld o m => some (execLd o m)
      | .ldc o m => some (execLdc o m)
      | _ => none) s
  | _ => .next s

/-! ## Pops (R324, R328) -/

/-- The scope of the instance that a pop waits at. -/
def PopReq.scope (r : PopReq) (s : State) : Nat := s.instScope r.pkg r.home r.slot

/-- Completes the pop of a strand with the home's answer. -/
def answerStrand (sid : Nat) (s : State) : Host.Outcome State Fault Refusal :=
  let u := { s with cur := sid }
  match u.self.pop with
  | none => .next s
  | some r => match r.answer with
    | none => .next s
    | some a =>
      let d : Desc := ⟨wordS (u.self.ir.getLastD 0), 0, .access, []⟩
      let v := u.withSelf { u.self with pop := none }
      backTo s.cur (match finishPop r.pkg r.home r.slot r.gen (r.scope u) r.dst a v with
        | .ok _ w => .next (w.commit v d 0 .next)
        | .error e w => conclude d v w e)

/-- `POP_ANSWER`. -/
def execPopAnswer (s : State) : Host.Outcome State Fault Refusal :=
  match s.now with
  | .popAnswer sid => answerStrand sid s
  | _ => .next s

/-- `POP_CANCEL`. -/
def execPopCancel (s : State) : Host.Outcome State Fault Refusal :=
  match s.now with
  | .popCancel sid => runEvent (cancelPop sid) s
  | _ => .next s

/-! ## The quad's units -/

/-- `DISPATCH_ROUND` (R173). -/
def execDispatchRound (s : State) : Host.Outcome State Fault Refusal :=
  match s.now with
  | .dispatchRound q => runEvent (dispatchRound q 32) s
  | _ => .next s

/-- `MATRIX_ROW_WRITE` (R228). -/
def execMatrixRowWrite (s : State) : Host.Outcome State Fault Refusal :=
  match s.now with
  | .matrixRowWrite q op => runEvent (rowWrite q op) s
  | _ => .next s

/-- `IX_MERGE_STEP` (R253). -/
def execIxMergeStep (s : State) : Host.Outcome State Fault Refusal :=
  match s.now with
  | .ixMergeStep sid => runEvent (mergeStep sid) s
  | _ => .next s

/-! ## Arrivals at a core -/

/-- `REGISTER_WINDOW_ACCESS` (R150): an access by another agent than a strand of the package. A load changes nothing. -/
def execRegisterWindowAccess (s : State) : Host.Outcome State Fault Refusal :=
  match s.now with
  | .registerWindowAccess w => runEvent (match w.store with
      | none => pure ()
      | some r => asStrand 16384 (windowWrite w.core w.offset w.width w.offset r)) s
  | _ => .next s

/-- `SCRATCHPAD_WRITE_ARRIVAL` (R146, R165). -/
def execScratchpadWriteArrival (s : State) : Host.Outcome State Fault Refusal :=
  match s.now with
  | .scratchpadWriteArrival w => runEvent (portWrite w.core w.offset w.bytes w.src w.path.toNat) s
  | _ => .next s

/-- A message offered to a strand, with the answer to its sender (R155, R411). -/
def acceptOffer (m : Offer) : M Unit := do
  let ok ← offerMessage m.target m.msg
  if ok then pure () else recordRefusal m.target m.msg.src
  respond m.msg.src m.txn (if ok then .accepted else .refused) [] false

/-- `MESSAGE_ACCEPT` (R155). -/
def execMessageAccept (s : State) : Host.Outcome State Fault Refusal :=
  match s.now with
  | .messageAccept m => runEvent (acceptOffer m) s
  | _ => .next s

/-- `OVERFLOW_REFILL` (R155): a slot that becomes free is told to a refused sender (R411). -/
def execOverflowRefill (s : State) : Host.Outcome State Fault Refusal :=
  match s.now with
  | .overflowRefill sid => runEvent (do
      let before ← getStrand sid
      refillQueue sid 64
      let after ← getStrand sid
      if after.inbox.length > before.inbox.length then noticeSlot sid else pure ()) s
  | _ => .next s

/-- `SEND_TIMEOUT` (R154): `sndto` clk have passed since the refusal, so the `send` that is not accepted raises. Log 37 (DEDUCED). -/
def execSendTimeout (s : State) : Host.Outcome State Fault Refusal :=
  match s.now with
  | .sendTimeout sid => runEvent (modStrand sid fun t => match t.refusedAt with
      | some f => t.advance (f + t.sndto.toNat - t.clk)
      | none => t) s
  | _ => .next s

/-- The notice to the oldest refused sender of a strand (R411). One of another package gets it as a packet. Log 18 (DESIGN CHOICE). Log 37 (DEDUCED). -/
def sendNotice (sid : Nat) : M Unit := do
  let s ← get
  match lookupD [] s.units.refusals sid with
  | [] => pure ()
  | b :: rest => do
    set { s with units := { s.units with refusals := storeAt [] sid rest s.units.refusals } }
    if b.toNat / 16384 = s.pkg then post (.sendReoffer (b.toNat % 16384))
    else sendPacket { requestPacket s (b.toNat / 16384 * 2 ^ 41) 5 2 0 .none [] false with addr := b.toNat % 16384 }

/-- `REOFFER_NOTICE` (R411). Log 37 (DEDUCED). -/
def execReofferNotice (s : State) : Host.Outcome State Fault Refusal :=
  match s.now with
  | .reofferNotice sid => runEvent (sendNotice sid) s
  | _ => .next s

/-- `SEND_REOFFER` (R411): a `send` that waits offers its message again at its next turn. -/
def execSendReoffer (s : State) : Host.Outcome State Fault Refusal :=
  match s.now with
  | .sendReoffer sid => runEvent (modStrand sid fun t => { t with reoffer := t.refusedAt.isSome || t.reoffer }) s
  | _ => .next s

/-- A deposit applied or refused, with the answer to its source (R158). -/
def acceptDeposit (d : Deposit) : M Unit := do
  let r ← offerDeposit d.target d.n d.value
  respond d.src d.txn (match r with
    | none => .accepted
    | some true => .refused
    | some false => .notLoaded) [] false

/-- `DEPOSIT_ARRIVAL` (R158). -/
def execDepositArrival (s : State) : Host.Outcome State Fault Refusal :=
  match s.now with
  | .depositArrival d => runEvent (acceptDeposit d) s
  | _ => .next s

end Sys2Proof.Machine
end

