-- ==== Sys2Proof/Machine/Serve.lean ====
section
/-! DEFINITION. Requests of other packages at their home here (R399, R404 to R406, R411). -/

namespace Sys2Proof.Machine

/-! ## Resources (R405) -/

/-- Whether a colony of a tenant covers a quad. -/
def State.tenantQuad (s : State) (t : BitVec 12) (q : Nat) : Bool := s.units.colonies.any fun e => match e.2 with
  | some c => c.tenant = t && covers e.1 q
  | none => false

/-- Whether an address lies in resources of a tenant. Log 82 (DEDUCED). -/
def State.resource (s : State) (t : BitVec 12) (a : Nat) : Bool :=
  match place a with
  | .dram => s.units.colonies.any fun e => match e.2 with
    | some c => c.tenant = t && c.chan.getLsbD (a / 2 ^ 34)
    | none => false
  | .coreSpad c _ => s.tenantQuad t (c / 4)
  | .slice q _ _ => s.tenantQuad t q
  | .window c _ => s.tenantQuad t (c / 4)
  | .dieSpad d => (List.range 128).all fun q => s.tenantQuad t (d * 128 + q)
  | _ => false

/-- The answer to a request outside the tenant's resources: `xlat` with the global address. -/
def State.noResource (s : State) (a : Nat) : PacketOp := .fail cXlat (BitVec.ofNat 64 (s.globalOf a))

/-! ## Memory requests -/

/-- The last byte that a memory request reaches, counted from its address. -/
def Packet.reach (pk : Packet) : Nat :=
  match pk.op with
  | .read n => n
  | .amo _ k _ => k
  | .amou _ _ k _ => k
  | .cas k _ _ => k
  | .frd => 16
  | .fwr _ => 16
  | .region .. => 1
  | .agent .. => 1
  | _ => pk.data.length

/-- A fault at the home as an answer: the place is told from the request's address. -/
def faultAnswer (a : Nat) (e : Exc) : PacketOp :=
  match e with
  | .trap c v _ => .failAt c ((v.toNat : Int) - a)
  | _ => .failAt cXlat 0

/-- A read-modify-write of `k` bytes for another package: the old value. -/
def serveRmw (pk : Packet) (k : Nat) (f : Nat → Option Nat) : M PacketOp := do
  let s ← get
  let a := pk.addr
  checkAtomicPlace a (s.globalOf a)
  checkSectors a a k
  let old ← homeRead a k
  match f (leNat old) with
  | some v => pathWrite a (leBytes k v) pk.src 5
  | none => pure ()
  pure (.value (BitVec.ofNat 64 (leNat old)))

/-- A future operation for another package: value and state. -/
def serveFuture (pk : Packet) (fill : Option Word) : M PacketOp := do
  let s ← get
  let a := pk.addr
  checkAtomicPlace a (s.globalOf a)
  checkSectors a a 16
  let cell ← homeRead a 16
  match fill with
  | some v => if leNat (cell.drop 8) % 2 = 1 then pure () else pathWrite a (leBytes 8 v.toNat ++ leBytes 8 1) pk.src 5
  | none => pure ()
  pure (.values [BitVec.ofNat 64 (leNat (cell.take 8)), BitVec.ofNat 64 (leNat (cell.drop 8))])

/-- A region for another package (R287). -/
def serveRegion (pk : Packet) (loads : List (Nat × Nat)) (guards stores : List (Nat × List Byte)) : M PacketOp := do
  let s ← get
  let a := pk.addr
  checkAtomicPlace a (s.globalOf a)
  checkSectors a (a / 128 * 128) 128
  let _ ← homeRead (a / 128 * 128) 128
  let (f, vs) ← performRegion loads guards stores fun p bs => pathWrite p bs pk.src 5
  pure (.values (BitVec.ofNat 64 f :: vs.map (BitVec.ofNat 64)))

/-- What a memory request does at its home: the answer with its bytes and tag. Log 82 (DEDUCED). -/
def serveMemory (pk : Packet) : M (PacketOp × List Byte × Bool) := do
  let s ← get
  let a := pk.addr
  let plain := fun (m : M PacketOp) => do
    let op ← m
    pure (op, ([] : List Byte), false)
  match pk.op with
  | .read n => do
    let bs ← pathRead a a n
    pure (.value 0, bs, s.tagAt a)
  | .amo op k y => plain (serveRmw pk k fun old => some (amoOp op.toNat k old y.toNat))
  | .cas k x y => plain (serveRmw pk k fun old => if old = x.toNat then some y.toNat else none)
  | .frd => plain (serveFuture pk none)
  | .fwr v => plain (serveFuture pk (some v))
  | .region loads guards stores => plain (serveRegion pk loads guards stores)
  | .amou .. => plain (do
      checkAtomicPlace a (s.globalOf a)
      checkSectors a a (Packet.reach pk)
      applyWrite pk
      pure .accepted)
  | _ => plain (do
      match place a with
      | .window .. => pathDeliver a a pk.data pk.src 5
      | .port _ => raise cPerm a
      | .aliasWindow _ => raise cPerm a
      | .reserved => raise cXlat a
      | _ => applyWrite pk
      pure .accepted)

/-- The type of the packet that answers a memory request (R399). -/
def answerType (pk : Packet) : Nat := if pk.ty = 1 then 2 else if pk.ty = 0 then 7 else 4

/-- Answers a request with bytes and a tag. -/
def answerWith (pk : Packet) (ty : Nat) (op : PacketOp) (data : List Byte) (tag : Bool) : M Unit := do
  let s ← get
  sendPacket { requestPacket s (pk.src.toNat / 16384 * 2 ^ 41) ty 1 0 op data tag with
    txn := pk.txn, addr := pk.src.toNat % 16384 }

/-- Written sectors whose data came with a wrong check value fail at their consumers (R357). Log 103 (DEDUCED). -/
def markWrong (pk : Packet) : M Unit :=
  for k in pk.wrong do
    modify fun s => { s with bad := storeAt 0 (canon (pk.addr / 32 * 32 + 32 * k) / 32) cInteg s.bad }

/-- Performs a memory request and answers it: whether it was performed. -/
def answerMemory (pk : Packet) : M Bool := do
  let r ← attempt (serveMemory pk)
  match r with
  | .ok (op, data, tag) => do
    if pk.ty = 0 then markWrong pk else pure ()
    answerWith pk (answerType pk) op data tag
    pure true
  | .error (.stop f) => throw (.stop f)
  | .error e => do
    answerWith pk 7 (faultAnswer pk.addr e) [] false
    pure false

/-! ## Mirrored pages (R406) -/

/-- Whether two packets belong to one write of a mirrored page. -/
def sameWrite (a b : Packet) : Bool := a.src = b.src && a.addr = b.addr

/-- A write to a mirrored page: the secondary applies its copy and reports; the primary waits for the report, unless it is
there already or the secondary is lost. -/
def serveMirrored (pk : Packet) : M Unit := do
  let s ← get
  if pk.mr then do
    let ok ← answerMemory pk
    if ok then sendPacket (mirrorDone s pk) else pure ()
  else
    match s.units.mirrors.find? (fun q => q.2.mr && sameWrite q.2 pk) with
    | some q => do
      set { s with units := { s.units with mirrors := s.units.mirrors.erase q } }
      let _ ← answerMemory pk
      pure ()
    | none =>
      if s.units.lost.contains (s.pkg ^^^ 1) then do
        let _ ← answerMemory pk
        pure ()
      else set { s with units := { s.units with mirrors := s.units.mirrors ++ [(5, pk)] } }

/-- A held write of a mirrored page, with its access path, is performed. One of this package itself has no request to answer. -/
def applyHeld (e : Nat × Packet) : M Unit := do
  let s ← get
  let q := e.2
  if e.1 ≠ 6 && q.src.toNat / 16384 ≠ s.pkg then do
    let _ ← answerMemory q
    pure ()
  else do
    let _ ← homeRead q.addr q.data.length
    pathWrite q.addr q.data q.src e.1
    -- a copy engine may have waited for it
    for e in s.units.queues do
      if e.2.cmds.isEmpty then pure () else post (.copyCommand e.1)

/-- The secondary's report: the primary applies its own copy, or keeps a report that has come before the write. -/
def mirrorReport (pk : Packet) : M Unit := do
  let s ← get
  match s.units.mirrors.find? (fun q => !q.2.mr && sameWrite q.2 pk) with
  | some q => do
    set { s with units := { s.units with mirrors := s.units.mirrors.erase q } }
    applyHeld q
  | none => set { s with units := { s.units with mirrors := s.units.mirrors ++ [(5, pk)] } }

/-- `MIRROR_REPORT` (R406). -/
def execMirrorReport (s : State) : Host.Outcome State Fault Refusal :=
  match s.now with
  | .mirrorReport pk => runEvent (mirrorReport pk) s
  | _ => .next s

/-! ## Worklists (R318, R324) -/

/-- Whether an instance is there (R315). -/
def State.instAlive (s : State) (inst gen : Nat) : Bool :=
  let h := s.slot (instDie inst) (instSlot inst)
  h.used && h.gen = gen

/-- The answer to an operation on an instance that is gone. -/
def goneAnswer (s : State) (inst gen : Nat) : PacketOp :=
  .fail cPerm (BitVec.ofNat 64 (handleCursor s.pkg (instDie inst) (instSlot inst) gen))

/-- What keeps another package from an instance (R315, R319, R324): it is gone or broken, or it does not reach the strand's job. Job 0
asks for the instance alone. -/
def State.instRefusal (s : State) (inst gen job : Nat) : Option PacketOp :=
  let die := instDie inst
  let i := instSlot inst
  if !s.instAlive inst gen then some (goneAnswer s inst gen)
  else if (s.slot die i).broken then some (.fail cPeer (BitVec.ofNat 64 (slotPort s.pkg die i)))
  else if job ≠ 0 && !s.servesJob die i job then some (goneAnswer s inst gen)
  else none

/-- The question of another package's engine before a push or a pop. The engine may write its next run into the block that it is
told, until that is told back (R331). -/
def serveAsk (pk : Packet) (inst gen job engine : Nat) : M Unit := do
  let s ← get
  match s.instRefusal inst gen job with
  | some op => answerWith pk 7 op [] false
  | none => do
    let h := s.slot (instDie inst) (instSlot inst)
    let block := match h.leases.find? (fun e => e.1 = engine) with
      | some e => some e.2
      | none => h.freeBlock
    match block with
    | some b => modSlot (instDie inst) (instSlot inst) fun h => { h with leases := (engine, b) :: h.leases.filter fun e => e.1 ≠ engine }
    | none => pure ()
    answerWith pk 7 (.wlInfo h.k h.scope h.spill block) [] false

/-- A pop of another package's strand at its home here. -/
def servePop (pk : Packet) (inst gen engine job : Nat) (cand : Option Candidate) (held : Nat) : M Unit := do
  let s ← get
  let die := instDie inst
  let i := instSlot inst
  match s.instRefusal inst gen job with
  | some op => answerWith pk 7 op [] false
  | none =>
    let p : Pop :=
      { sid := pk.src.toNat, txn := pk.txn, held := held, colony := (s.slot die i).colony, engine := engine, redirects := 0,
        checks := 0, dies := 0, best := none, asking := false }
    if (s.slot die i).saved || s.worklistBusy p.sid die i then do
      setPop die i p
      freeCandidate die i p cand
      post (.popCheck p.sid)
    else continuePop die i p cand

/-- A cancel of such a pop: it gets no other answer if it still waits. -/
def serveCancel (pk : Packet) : M Unit := do
  let s ← get
  match s.popHome pk.src.toNat with
  | none => pure ()
  | some (die, i) =>
    match (s.slot die i).pops.find? (fun p => p.sid = pk.src.toNat) with
    | none => pure ()
    | some p =>
      if s.worklistBusy p.sid die i then post (.remoteRequest pk)
      else do
        withdrawPop die i p.sid
        answerPop p (.interrupted p.redirects)

/-- A proposal of an engine of this package for another package's home: the item is reserved until it is taken or freed. -/
def servePropose (pk : Packet) (inst gen engine sid : Nat) : M Unit := do
  let die := engine % 8
  let x ← proposeItem die inst gen none
  let s ← get
  reserve die x sid
  answerWith pk 7 (.wlProposal (x.map (s.candidateOf die inst gen))) [] false

/-- An item that another package's home has committed to a pop leaves its engine, which then reports (R321). -/
def serveTake (inst gen engine sid key : Nat) : M Unit := do
  modItems (engine % 8) fun l =>
    match l.find? fun x => x.inst = inst && x.gen = gen && x.key = key && x.reserved = some sid with
    | some x => l.erase x
    | none => match l.find? fun x => x.inst = inst && x.gen = gen && x.key = key && !x.pending with
      | some x => l.erase x
      | none => l
  sendReport inst gen engine false

/-- The item that was proposed to a pop can be proposed again. -/
def serveFree (inst gen engine sid : Nat) : M Unit := modItems (engine % 8) fun l => l.map fun x =>
  if x.inst = inst && x.gen = gen && x.reserved = some sid then { x with reserved := none } else x

/-- `wlcfg` of another package's strand (R334). -/
def serveConfigure (pk : Packet) (inst gen : Nat) (ctl : Word) (spill : Reg) : M Unit := do
  let s ← get
  let die := instDie inst
  let i := instSlot inst
  if !s.instAlive inst gen then answerWith pk 7 (goneAnswer s inst gen) [] false
  else if (s.slot die i).broken && !bitAt ctl 27 then
    answerWith pk 7 (.fail cPeer (BitVec.ofNat 64 (slotPort s.pkg die i))) [] false
  else
    let job : Nat := match s.colony (s.slot die i).colony with
      | some c => c.job
      | none => 0
    let r ← attempt (configureSlot ⟨false, pk.tenant⟩ job (handleCursor s.pkg die i gen) die i ctl spill)
    match r with
    | .ok _ => answerWith pk 7 .accepted [] false
    | .error (.trap c v _) => answerWith pk 7 (.fail c v) [] false
    | .error (.stop f) => throw (.stop f)
    | .error _ => post (.remoteRequest pk)

/-- `wlst` of another package's strand (R335). -/
def serveStatus (pk : Packet) (inst gen : Nat) : M Unit := do
  let s ← get
  let h := s.slot (instDie inst) (instSlot inst)
  if !s.instAlive inst gen then answerWith pk 7 (goneAnswer s inst gen) [] false
  else if h.saved then post (.remoteRequest pk)
  else answerWith pk 7 (.value (slotStatus h)) [] false

/-! ## Barriers and reductions (R260, R423) -/

/-- A running strand of a job, if there is one. -/
def State.jobStrand (s : State) (job : Nat) : Option Nat := s.running.find? fun b => s.jobOf b = job

/-- What another package says of a group of a job: no member there, a member that has not arrived, or all arrived. -/
def heardTerm (old said : Nat) : Nat :=
  match said with
  | 0 => 0
  | 1 => if old ≥ 2 then old - 1 else 1
  | _ => max 1 old + 1

/-- A term of another package; scope code 7 brings the count of its contributions to a reduction. -/
def serveBarrier (pk : Packet) (job scope g term : Nat) : M Unit := do
  let src := pk.src.toNat / 16384
  let key := remoteKey job scope g src
  modify fun s => { s with units := { s.units with
    remoteTerms := storeAt 0 key (if scope = 7 then 2 + term else heardTerm (lookupD 0 s.units.remoteTerms key) term)
      s.units.remoteTerms } }
  let s ← get
  match s.jobStrand job with
  | some b => if scope = 7 then testReduction 5 g b else testPhase scope g b
  | none => pure ()

/-- The job of a tenant's colonies, to which a reduction packet of the tenant belongs: its header names no job. -/
def State.tenantJob (s : State) (t : BitVec 12) : Nat :=
  (s.units.colonies.findSome? fun e => match e.2 with
    | some c => if c.tenant = t && c.job ≠ 0 then some c.job else none
    | none => none).getD 0

/-- A result or an error that has come back from a root router (R423): the result is delivered once every segment is here. -/
def collectResult (job g op ty n seg ctr : Nat) (st : BitVec 8) (bytes : List Byte) : M Unit := do
  let s ← get
  let key := redKey job 5 g
  if st ≠ 0 then post (.reductionResultDeliver 5 (job * 16 + g) st none)
  else do
    let v := s.redGroup key
    let v := { v with result := insertAt seg bytes v.result }
    set (s.withRedGroup key v)
    let size := contributionSize op ty n
    let segs := (List.range ((size + segmentBytes - 1) / segmentBytes)).map fun i => v.result.find? fun e => e.1 = i * segmentBytes
    if segs.all (·.isSome) then
      let whole := segs.flatMap fun e => (e.map (·.2)).getD []
      post (.reductionResultDeliver 5 (job * 16 + g) 0 (some (ctr, whole)))
    else pure ()

/-- A type-10 packet (R423): a contribution on VC 0, a result on VC 1. -/
def serveReduction (pk : Packet) : M Unit := do
  let s ← get
  let f := fun (o n : Nat) => leNat ((pk.data.drop o).take n)
  let g := f 0 2 % 16
  let op := f 2 1 % 4
  let ty := f 2 1 / 4 % 8
  let n := f 4 2 + 1
  let seg := f 6 2 * 64
  let bytes := pk.data.drop 16
  let job := s.tenantJob pk.tenant
  if pk.vc = 1 then collectResult job g op ty n seg (f 12 2) (BitVec.ofNat 8 (f 14 1)) bytes
  else
    let r : RedPacket :=
      { scope := 5, group := job * 16 + g, sid := pk.src, op := BitVec.ofNat 2 op, ty := BitVec.ofNat 3 ty, n := n, seg := seg
        ctr := f 12 2, bytes := bytes.take (min segmentBytes (contributionSize op ty n - seg)) }
    post (.reductionCombine r)

/-! ## REMOTE_REQUEST -/

/-- A request at its home. Log 82 (DEDUCED). -/
def serve (pk : Packet) : M Unit := do
  let s ← get
  let memory : M Unit := do
    if !(s.resource pk.tenant pk.addr && s.resource pk.tenant (pk.addr + Packet.reach pk - 1)) then
      answerWith pk 7 (s.noResource pk.addr) [] false
    else if pk.mirrored then serveMirrored pk
    else do
      let _ ← answerMemory pk
      pure ()
  match pk.op with
  | .message m target => post (.messageAccept { target := target, msg := m, txn := pk.txn })
  | .deposit n v target => post (.depositArrival { target := target, n := n, value := v, src := pk.src, txn := pk.txn })
  | .agent slot cap args =>
    if !s.resource pk.tenant pk.addr then answerWith pk 7 (s.noResource pk.addr) [] false
    else do
      let j : AgentJob := { agent := channelOf pk.addr, slot := slot, cap := cap, args := args, packet := pk }
      set { s with units := { s.units with agentJobs := s.units.agentJobs ++ [j] } }
      post (.nmaRoutine j.agent)
  | .wlCount c => post (.countApply c)
  | .wlEnd t => post (.taskEndApply { t with holder := pk.src.toNat / 16384 })
  | .wlAck c => modItems (c.die % 8) (ripen (instName (pk.src.toNat / 16384) c.home c.slot) c.gen c.n c.key)
  | .wlAsk inst gen job engine => serveAsk pk inst gen job engine
  | .wlPop inst gen engine job cand held => servePop pk inst gen engine job cand held
  | .wlCancel _ => serveCancel pk
  | .wlPropose inst gen engine sid => servePropose pk inst gen engine sid
  | .wlTake inst gen engine sid key => serveTake inst gen engine sid key
  | .wlFree inst gen engine sid => serveFree inst gen engine sid
  | .wlReport inst gen engine => sendReport inst gen engine true
  | .wlKeys inst gen engine keys rebase =>
    if s.instAlive inst gen then takeReport (instDie inst) (instSlot inst) engine keys rebase else pure ()
  | .wlBlock inst gen b held => if s.instAlive inst gen then setBlock (instDie inst) (instSlot inst) b held else pure ()
  | .wlCfg inst gen ctl spill => serveConfigure pk inst gen ctl spill
  | .wlStat inst gen => serveStatus pk inst gen
  | .barrier job scope g term => serveBarrier pk job scope g term
  | .tileWrite sid tile off =>
    if s.tileRead (sid % 16384) tile then post (.remoteRequest pk)
    else do
      tileArrival (sid % 16384) tile off pk.data
      answerWith pk 7 .accepted [] false
  | .followOn f =>
    if f.queue / queuesPerPackage = s.pkg then recordQueueError (f.queue % queuesPerPackage) cGang 0
    else do
      answerWith pk 7 .accepted [] false
      post (.followOnIssue f)
  | .none =>
    if pk.ty = 10 then serveReduction pk
    else if pk.ty = 5 then post (.sendReoffer pk.addr)
    else pure ()
  | _ => if pk.ty = 0 || pk.ty = 1 || pk.ty = 3 then memory else pure ()

/-- `REMOTE_REQUEST` (R405). -/
def execRemoteRequest (s : State) : Host.Outcome State Fault Refusal :=
  match s.now with
  | .remoteRequest pk => runEvent (serve pk) s
  | _ => .next s

end Sys2Proof.Machine
end

