-- ==== Sys2Proof/Machine/Answers.lean ====
section
/-! DEFINITION. Answers of other packages, requests without one, and lost packages (R404, R407 to R409, R420). -/

namespace Sys2Proof.Machine

/-! ## What an answer says -/

/-- The global address that a packet asks for. -/
def Packet.global (pk : Packet) : Nat := pk.dst * 2 ^ 41 + pk.addr

/-- The cause of an answer that brings no result. -/
def failureOf (op : PacketOp) : Option (BitVec 8) :=
  match op with
  | .fail c _ => some c
  | .failAt c _ => some c
  | .unreachable => some cPeer
  | _ => none

/-- The place that such an answer names, for a request made at tenant-virtual address `va`. -/
def failurePlace (pk : Packet) (va : Nat) (op : PacketOp) : Nat :=
  match op with
  | .fail _ v => v.toNat
  | .failAt _ off => ((va + off) % 2 ^ 48).toNat
  | _ => Packet.global pk % 2 ^ 55

/-- Why a fill of another package's future had no effect. -/
def fillFailure (op : PacketOp) : Option (BitVec 8) :=
  match op with
  | .values [_, st] => if st.toNat % 2 = 1 then some cFfull else none
  | op => failureOf op

/-! ## Ends of requests by what they are for -/

/-- An answer to an instruction that waits: it finds it when it is tried again. A load takes its value now (R143). -/
def answerInstr (r : Request) (op : PacketOp) (data : List Byte) (tag : Bool) : M Unit := do
  modStrandOrSaved r.sid fun t =>
    if t.asked.contains r.txn then { t with answers := t.answers ++ [⟨r.txn, op, data, tag⟩] } else t
  match r.packet.op with
  | .read _ => post (.loadValueReturn r.sid)
  | _ => pure ()

/-- A put that failed at its destination is reported later (R160), by the strand that waits for it (R310). One that was performed
there wakes the strands that monitor its line (R163). -/
def answerPut (r : Request) (op : PacketOp) : M Unit :=
  match failureOf op with
  | some c => do
    let s ← get
    let sid := (s.running.find? fun b => (s.strand b).owed.contains (false, r.txn)).getD r.sid
    modStrandOrSaved sid fun t => { t with
      dropped := t.dropped ++ [(c, BitVec.ofNat 64 (Packet.global r.packet % 2 ^ 55), r.packet.dst)] }
  | none => modify fun s => s.wakeLine (Packet.global r.packet % 2 ^ 55 / 128)

/-- Bytes of a copy's source, or the error that ends the reading (R349). -/
def answerCopyRead (q va : Nat) (op : PacketOp) (data : List Byte) : M Unit := do
  match op with
  | .failAt c off => modHead q fun x => { x with readError := some (c, ((va + off) % 2 ^ 48).toNat / 32 * 32) }
  | op => match failureOf op with
    | some c => modHead q fun x => { x with readError := some (c, va / 32 * 32) }
    | none => modHead q fun x => { x with got := x.got ++ data }
  post (.copyCommand q)

/-- The end of a write of a copy's part. -/
def answerCopyWrite (q i va : Nat) (op : PacketOp) : M Unit := do
  match failureOf op with
  | some c => memberError q i c va
  | none => pure ()
  post (.copyCommand q)

/-- An element of an intersection list (R251), also of a strand that has been saved meanwhile (R256). -/
def answerIndex (r : Request) (second : Bool) (op : PacketOp) (data : List Byte) : M Unit := do
  let answered := fun (x : Stream) =>
    let c := if second then x.capB else x.capA
    let va := (Cap.cursor c.val + 8 * (if second then x.j else x.i)) % 2 ^ 48
    match failureOf op with
    | some code => { x with stopped := some (code, BitVec.ofNat 64 (failurePlace r.packet va op)) }
    | none => if second then { x with headB := some (leNat data) } else { x with headA := some (leNat data) }
  modStrandOrSaved r.sid fun t => { t with stream := t.stream.map answered }
  post (.ixMergeStep r.sid)

/-- The candidate of another package's engine for a pop at this home (R323). It is freed again unless it is taken; while the home is
saved, no pop is checked (R336). -/
def answerPropose (r : Request) (home slot sid : Nat) (op : PacketOp) : M Unit := do
  let s ← get
  let h := s.slot home slot
  let cand := match op with
    | .wlProposal c => c
    | _ => none
  match h.pops.find? (fun p => p.sid = sid) with
  | none => match r.packet.op with
    | .wlPropose inst gen engine _ =>
      if cand.isSome then sendPacket (swarmPacket s (engine / 8) (.wlFree inst gen engine sid)) else pure ()
    | _ => pure ()
  | some p => continuePop home slot { p with asking := false } cand

/-- What another package's home answers to a pop (R324). -/
def popOutcome (yielding : Bool) (op : PacketOp) : Option PopAnswer :=
  match op with
  | .wlCommit key cls bound n arg => some (.commit key cls bound n arg)
  | .wlQuiescent n => some (.quiescent n)
  | .wlDry n => some (.dry n)
  | .wlInterrupted n => if yielding then some (.interrupted n) else none
  | op => (failureOf op).map .failed

/-- The answer to a pop at another package's home. The item that its own engine had proposed is free again, unless the home tells the
engine that it was taken. -/
def answerPopAway (r : Request) (op : PacketOp) : M Unit := do
  let s ← get
  let whole := (s.fullSid r.sid).toNat
  let taken : Bool := match op with
    | .wlCommit .. => true
    | _ => false
  if taken then pure ()
  else modItems (dieOf r.sid) fun l => l.map fun x => if x.reserved = some whole then { x with reserved := none } else x
  let t := s.strand r.sid
  let waits : Bool := match t.pop with
    | some p => p.txn = r.txn && p.pkg = r.packet.dst && p.pkg ≠ s.pkg
    | none => false
  if waits then do
    let yielding := (t.pop.map (·.yielding)).getD false
    match popOutcome yielding op with
    | some a => do
      modStrand r.sid fun t => { t with pop := t.pop.map fun p => { p with answer := some a } }
      post (.popAnswer r.sid)
    | none => modStrand r.sid fun t => { t with pop := none }
  else match op, r.packet.op with
    -- the strand has ended: so does the task that the home gave it
    | .wlCommit .., .wlPop inst gen _ _ _ _ =>
      asStrand r.sid (sendTaskEnd { pkg := r.packet.dst, home := instDie inst, slot := instSlot inst, gen := gen, holder := s.pkg,
                                    sid := whole })
    | _, _ => pure ()

/-- The end of a write of a reduction's result (R426). -/
def answerReduce (r : Request) (key : Nat) (op : PacketOp) : M Unit := do
  let b := groupBit (key / 16 % 8) (key % 16)
  let s ← get
  match failureOf op with
  | some c => endContribution r.sid b (redError c)
  | none =>
    if s.units.requests.any fun x => x.sid = r.sid && x.use = .reduce key then pure ()
    else modStrandOrSaved r.sid fun t =>
      let open_ := lookupD 0 t.redOpen b
      if open_ < 2 then t
      else { t with redOpen := storeAt 0 b 0 t.redOpen, redStatus := storeAt 0 b (redDone (open_ - 2)) t.redStatus }

/-- Ends a request that is no longer outstanding. -/
def endRequest (r : Request) (op : PacketOp) (data : List Byte) (tag : Bool) : M Unit :=
  match r.use with
  | .instr => answerInstr r op data tag
  | .put => answerPut r op
  | .fillCopy q va => match fillFailure op with
    | some c => recordQueueError q c va
    | none => pure ()
  | .fillLaunch colony ring => match fillFailure op with
    | some c => scoutInterrupt colony (BitVec.ofNat 64 (2 ^ 63 + c.toNat * 2 ^ 48 + ring))
    | none => pure ()
  | .copyRead q va => answerCopyRead q va op data
  | .copyWrite q i va => answerCopyWrite q i va op
  | .index second => answerIndex r second op data
  | .propose home slot sid => answerPropose r home slot sid op
  | .pop => answerPopAway r op
  | .reduce key => answerReduce r key op
  | .followOn q => match failureOf op with
    | some c => recordQueueError q c 0
    | none => pure ()
  | .host fn more => hostAnswer fn more (r.packet.op matches .read _) (failureOf op).isSome data

/-- Takes a request out of the outstanding ones. -/
def dropRequest (txn : Nat) : M Unit := modify fun s =>
  { s with units := { s.units with requests := s.units.requests.filter fun r => r.txn ≠ txn } }

/-! ## Lost packages (R407 to R409) -/

/-- Pod jobs that a package is known to share with this one; with none known, any that colonies here are joined to. Log 85 (DEDUCED). -/
def State.sharedJobs (s : State) (pkg : Nat) : List Nat :=
  let known := ((s.units.remoteTerms.filter fun e => e.1 % 16384 = pkg && e.1 / 2 ^ 18 % 8 ≥ 5).map fun e => e.1 / 2 ^ 21).eraseDups
  if known.isEmpty then
    (s.units.colonies.filterMap fun e => match e.2 with
      | some c => if c.job = 0 then none else some c.job
      | none => none).eraseDups
  else known

/-- What becomes of a request to a lost package (R406, R408). A load may fail over, and a write of a mirrored page is
performed when the surviving copy is applied. Log 87 (DEDUCED). -/
def loseRequest (r : Request) : M Unit := do
  let s ← get
  if r.packet.mirrored && !s.units.lost.contains (r.packet.dst ^^^ 1) then endRequest r .accepted [] false
  else match r.use, r.packet.op with
    | .instr, .read _ => modStrandOrSaved r.sid fun t => { t with asked := [], answers := [] }
    | .copyRead q _, _ => post (.copyCommand q)
    | .index _, _ => post (.ixMergeStep r.sid)
    | _, _ => endRequest r .unreachable [] false

/-- Instances of this package whose state a lost package held become broken (R337). -/
def breakSlots (pkg : Nat) : M Unit := do
  let s ← get
  for d in s.dies do
    for e in d.2.slots do
      let h := e.2
      let transit := (h.held.any fun c => c.die / 8 = pkg) || s.agenda.any fun v => match v with
        | .countApply c => c.home = d.1 && c.slot = e.1 && c.gen = h.gen && c.die / 8 = pkg
        | .remoteRequest pk => match pk.op with
          | .wlCount c => c.home = d.1 && c.slot = e.1 && c.gen = h.gen && c.die / 8 = pkg
          | _ => false
        | _ => false
      if h.used && (lookupD 0 h.holders pkg ≠ 0 || transit || (h.dcount.any fun x => x.1 / 8 = pkg)) then do
        modSlot d.1 e.1 fun h => { h with broken := true }
        recheckPops d.1 e.1
      else pure ()

/-- Whether a lost package ends the open phase of a pod reduction group here: it had contributed, or it held the root. Log 86 (DEDUCED). -/
def State.losesPhase (s : State) (pkg job g : Nat) (v : RedGroup) : Bool :=
  let root := s.redRoot 5 job g
  (root = pkg && !v.dests.isEmpty) ||
    (root = s.pkg && ((v.parts.any fun p => p.sid.toNat / 16384 = pkg) || lookupD 0 s.units.remoteTerms (remoteKey job 7 g pkg) > 2))

/-- Pod reductions that a lost package ends (R426). Log 86 (DEDUCED). -/
def endReductions (pkg : Nat) (jobs : List Nat) : M Unit := do
  let s ← get
  for e in s.units.reductions do
    let job := e.1 / 128
    let g := e.1 % 16
    if e.1 / 16 % 8 = 5 && jobs.contains job && s.losesPhase pkg job g e.2 then
      post (.reductionResultDeliver 5 (job * 16 + g) cPeer none)
    else pure ()

/-- A lost package's terms leave every pod and sys group (R409). -/
def dropTerms (pkg : Nat) : M Unit := do
  let s ← get
  let gone := s.units.remoteTerms.filter fun e => e.1 % 16384 = pkg && e.1 / 2 ^ 18 % 8 ≥ 5
  set { s with units := { s.units with remoteTerms := s.units.remoteTerms.filter fun e => !gone.contains e } }
  for e in gone do
    let scope := e.1 / 2 ^ 18 % 8
    match s.jobStrand (e.1 / 2 ^ 21) with
    | some b => if scope = 7 then pure () else testPhase scope (e.1 / 16384 % 16) b
    | none => pure ()

/-- Raises an interrupt at every strand of a job's colonies, those of saved ones included. Log 85 (DEDUCED). -/
def interruptJob (job : Nat) (code : BitVec 8) (value : Word) : M Unit := do
  let s ← get
  for sid in s.running do
    if s.jobOf sid = job then modStrand sid fun t => t.interrupt code value else pure ()
  modify fun s =>
    let hit := fun (v : VaultEntry) =>
      let mine : Bool := match s.colony v.colony with
        | some c => c.job = job
        | none => false
      if mine && s.savedNow v then { v with strands := v.strands.map fun x => (x.1, x.2.interrupt code value) } else v
    { s with units := { s.units with vault := s.units.vault.map hit } }

/-- Marks a package lost. Log 85 (DEDUCED). -/
def markLost (pkg : Nat) : M Unit := do
  let s ← get
  if s.units.lost.contains pkg || pkg = s.pkg then pure ()
  else do
    let jobs := s.sharedJobs pkg
    set { s with units := { s.units with
      lost := s.units.lost ++ [pkg]
      lostJobs := s.units.lostJobs ++ jobs.map fun j => (pkg, j)
      probes := s.units.probes.filter fun p => p.1 ≠ pkg } }
    for q in (jobs.flatMap s.jobPeers).eraseDups do
      if q = pkg || s.units.lost.contains q then pure ()
      else sendPacket { requestPacket s (q * 2 ^ 41) 12 3 0 (.peerDown pkg) [] false with dst := q }
    for j in jobs do
      interruptJob j cPeerDown (BitVec.ofNat 64 pkg)
    endReductions pkg jobs
    dropTerms pkg
    breakSlots pkg
    let s ← get
    let rs := s.units.requests.filter fun r => r.packet.dst = pkg
    set { s with units := { s.units with requests := s.units.requests.filter fun r => r.packet.dst ≠ pkg } }
    for r in rs do
      loseRequest r
    -- the primary of a mirrored pair waits for its secondary no longer
    if pkg = s.pkg ^^^ 1 then do
      let s ← get
      set { s with units := { s.units with mirrors := [] } }
      for q in s.units.mirrors do
        if q.2.mr then pure () else applyHeld q
    else pure ()

/-! ## Answers -/

/-- The request that an answer belongs to. Other packages echo eight bits of the transaction number (R398). -/
def State.requestOf (s : State) (pk : Packet) : Option Request :=
  (s.units.requests.find? fun r => r.txn = pk.txn).orElse fun _ =>
    s.units.requests.find? fun r => r.txn % 256 = pk.txn && (pk.op = .unreachable || r.packet.dst = pk.src.toNat / 16384)

/-- How a request ends whose timer expired although its destination lives (R420). -/
def unanswered (r : Request) : PacketOp :=
  match r.packet.op with
  | .combine _ => .lost unknownTotal unknownTotal
  | _ => .fail cEcc (BitVec.ofNat 64 (Packet.global r.packet))

/-- A probe's answer: what its package has not answered ends. -/
def probeAnswered (pkg : Nat) : M Unit := do
  let s ← get
  let beyond := fun (r : Request) => r.packet.dst = pkg && r.probed.isSome
  set { s with units := { s.units with
    probes := s.units.probes.filter fun p => p.1 ≠ pkg
    requests := s.units.requests.filter fun r => !beyond r } }
  for r in s.units.requests.filter beyond do
    endRequest r (unanswered r) [] false

/-- What an answer says, with the check values of its data: a sector that fails is `integ` at its address (R357). Log 103 (DEDUCED). -/
def Packet.said (pk : Packet) (r : Request) : PacketOp :=
  match pk.ty, pk.wrong with
  | 2, k :: _ => .failAt cInteg ((r.packet.addr / 32 * 32 + 32 * k : Nat) - (r.packet.addr : Int))
  | _, _ => pk.op

/-- An answer arrives. One that a router has destroyed does not, and one that nothing waits for is discarded. Log 88 (DEDUCED). -/
def takeAnswer (pk : Packet) : M Unit := do
  let s ← get
  if pk.op = .probeAnswer then probeAnswered (pk.src.toNat / 16384)
  else match s.requestOf pk with
    | none => pure ()
    | some r =>
      if s.units.lostAnswers.contains r.txn then pure ()
      else if pk.op = .unreachable then do
        markLost r.packet.dst
        let s ← get
        -- the package may have been lost before
        if s.units.requests.contains r then do
          dropRequest r.txn
          loseRequest r
        else pure ()
      else do
        dropRequest r.txn
        endRequest r (Packet.said pk r) pk.data pk.tag

/-- `REMOTE_ANSWER` (R404). -/
def execRemoteAnswer (s : State) : Host.Outcome State Fault Refusal :=
  match s.now with
  | .remoteAnswer pk => runEvent (takeAnswer pk) s
  | _ => .next s

/-! ## Timers and probes -/

/-- A request has gone 100 µs without an answer: its destination is probed. The own package always answers. -/
def timeoutRequest (txn : Nat) : M Unit := do
  let s ← get
  match s.units.requests.find? (fun r => r.txn = txn) with
  | none => pure ()
  | some r =>
    if r.packet.dst = s.pkg then do
      dropRequest txn
      endRequest r (unanswered r) [] false
    else do
      set { s with units := { s.units with
        requests := s.units.requests.map fun (x : Request) => if x.txn = txn then { x with probed := some s.time } else x
        probes := if s.units.probes.any (fun p => p.1 = r.packet.dst) then s.units.probes
          else s.units.probes ++ [(r.packet.dst, s.time)] } }
      sendPacket { requestPacket s (r.packet.dst * 2 ^ 41) 12 3 0 .probe [] false with dst := r.packet.dst }

/-- `REQUEST_TIMEOUT` (R420). -/
def execRequestTimeout (s : State) : Host.Outcome State Fault Refusal :=
  match s.now with
  | .requestTimeout txn => runEvent (timeoutRequest txn) s
  | _ => .next s

/-- `PROBE` (R407): the router answers whatever its strands do. -/
def execProbe (s : State) : Host.Outcome State Fault Refusal :=
  match s.now with
  | .probe src => runEvent (do
      let s ← get
      sendPacket { requestPacket s (src * 2 ^ 41) 12 3 0 .probeAnswer [] false with dst := src }) s
  | _ => .next s

/-- `PROBE_TIMEOUT` (R407). -/
def execProbeTimeout (s : State) : Host.Outcome State Fault Refusal :=
  match s.now with
  | .probeTimeout pkg => runEvent (do
      let s ← get
      if s.units.probes.any fun p => p.1 = pkg then do
        set { s with units := { s.units with probes := s.units.probes.filter fun p => p.1 ≠ pkg } }
        markLost pkg
      else pure ()) s
  | _ => .next s

/-- A peer-down notice; one that names this package makes every other package of its jobs lost. -/
def hearPeerDown (pkg : Nat) : M Unit := do
  let s ← get
  if pkg = s.pkg then
    for q in ((s.units.remoteTerms.filter fun e => e.1 / 2 ^ 18 % 8 ≥ 5).map fun e => e.1 % 16384).eraseDups do
      markLost q
  else markLost pkg

/-- `PEER_DOWN_NOTICE` (R407). -/
def execPeerDownNotice (s : State) : Host.Outcome State Fault Refusal :=
  match s.now with
  | .peerDownNotice pkg => runEvent (hearPeerDown pkg) s
  | _ => .next s

end Sys2Proof.Machine
end

