-- ==== Sys2Proof/Machine/Combine.lean ====
section
/-! DEFINITION. Combining of fetch-and-adds in the routers (R412 to R419). -/

namespace Sys2Proof.Machine

/-! ## Ways (R412) -/

/-- The number of the output port towards a line's home C-die. The manual joins two C-dies to each router; which of the
two ports leads to a home die that is not its own is the model's choice. Log 79 (DESIGN CHOICE). -/
def homePort (a : Nat) : Nat := 24 + ((a / 128 % 8) ^^^ (a / 2 ^ 33 % 8)) % 2

/-- Whether the ring is followed in the + direction. -/
def ringPlus (e te : Nat) : Bool := (te + 4 - e) % 4 ≤ 2

/-- The packet of a combinable request. One that a router has formed names the router's package as its source. -/
def combPacket (s : State) (r : CombReq) : Packet :=
  { requestPacket s r.addr 9 0 r.tenant (.combine r) [] false with src := r.src, txn := r.txn }

/-- The way that a request takes from the router of E-die `e`: its output port, and the fabric port with the packet where it
leaves the package there. None when it can take no step. -/
def State.combWay (s : State) (e : Nat) (r : CombReq) : Option (Nat × Option (Nat × Packet)) :=
  let ring := fun (te : Nat) => if ringPlus e te then 27 else 26
  if pkgOf r.addr = s.pkg then
    let te := channelOf (localOf r.addr) / 64
    some (if te = e then homePort (localOf r.addr) else ring te, none)
  else if s.units.lost.contains (pkgOf r.addr) then none
  else
    (s.route (combPacket s r)).map fun x =>
      let port := s.portFor x.1 x.2
      if portDie port = e then (inputPort port, some (port, x.2)) else (ring (portDie port), none)

/-- A router. -/
def State.router (s : State) (e : Nat) : RouterState := lookupD RouterState.empty s.units.routers e

def modRouter (e : Nat) (f : RouterState → RouterState) : M Unit := modify fun s =>
  { s with units := { s.units with routers := storeAt RouterState.empty e (f (s.router e)) s.units.routers } }

/-! ## Answers on the way back -/

/-- Answers a leaf. -/
def answerLeaf (src : BitVec 28) (txn : Nat) (op : PacketOp) : M Unit := do
  let s ← get
  let pk : Packet := { requestPacket s (src.toNat / 16384 * 2 ^ 41) 4 1 0 op [] false with
    txn := txn, addr := src.toNat % 16384, src := BitVec.ofNat 28 (s.pkg * 16384) }
  if src.toNat / 16384 = s.pkg then post (.remoteAnswer pk) else sendPacket pk

/-- Answers the router that formed a group. -/
def answerRouter (a : CombAnswer) : M Unit := do
  let s ← get
  if a.tag.pkg = s.pkg then post (.combSplit a)
  else sendPacket { requestPacket s (a.tag.pkg * 2 ^ 41) 4 1 0 (.comb a) [] false with dst := a.tag.pkg }

/-- The reply to one member of a group, or to a request at its home: an old value, a fault, or *lost*. `base` and `total`
are those of the whole group. -/
def answerMember (r : CombReq) (value base total : Word) (lost : Bool) (fault : Option (BitVec 8))
    (echoes : List (CombTag × List Word)) : M Unit :=
  match r.recs with
  | [] => answerLeaf r.src r.txn (match fault with
      | some c => if c = cPeer then .unreachable else .fail c 0
      | none => if lost then .lost base total else .value value)
  | (tag, _) :: _ => answerRouter
      { tag := tag, base := if lost then base else value, total := total, lost := lost, fault := fault, echoLost := false
        echoes := echoes.filter fun e => r.recs.any fun x => x.1 = e.1 }

/-! ## Holding, joining and leaving (R414 to R416) -/

/-- A request that can take no step: its source marks the destination lost (R403). Log 83 (DEDUCED). -/
def turnBack (r : CombReq) : M Unit := answerMember r 0 0 0 false (some cPeer) []

/-- A request passes on from a router. -/
def passCombine (e : Nat) (r : CombReq) : M Unit := do
  let s ← get
  match s.combWay e r with
  | none => turnBack r
  | some (_, some (port, pk)) => set (s.transmit port pk)
  | some (27, none) => post (.combineHold ((e + 1) % 4) 26 r)
  | some (26, none) => post (.combineHold ((e + 3) % 4) 27 r)
  | some (_, none) => post (.combinedAtHome r)

/-- Whether two requests may join: address, width, tenant and output port agree. -/
def combFits (a b : CombReq) : Bool := a.addr = b.addr && a.k = b.k && a.tenant = b.tenant && a.out = b.out

/-- The requests held with one: its group, or itself. -/
def RouterState.withMember (v : RouterState) (h : HeldReq) : List HeldReq :=
  match h.group with
  | some k => v.held.filter fun x => x.group = some k
  | none => [h]

/-- Leaves of held requests. -/
def leavesOf (hs : List HeldReq) : Nat := (hs.map fun h => h.req.leaves).sum

/-- A free entry of an input stage's comb table, by key. -/
def RouterState.freeEntry (v : RouterState) (stage : Nat) : Option Nat :=
  ((List.range 256).map fun i => stage * 256 + i).find? fun k => (v.comb.find? fun e => e.1 = k).isNone

/-- Members in requester order (R417): by input port, and in one port by arrival. -/
def byPort (hs : List HeldReq) : List HeldReq := (List.range 28).flatMap fun p => hs.filter fun h => h.port = p

/-- The combined request of a group that leaves (R416). Log 81 (DESIGN CHOICE). -/
def combined (pkg e key : Nat) (ms : List HeldReq) (first : CombReq) : CombReq :=
  let tag : CombTag := { pkg := pkg, router := e, stage := key / 256, entry := key % 256 }
  let rs := ms.map (·.req)
  { first with
    total := BitVec.ofNat 64 ((rs.map fun r => r.total.toNat).sum % 2 ^ (8 * first.k))
    win := (rs.map (·.win)).foldl min first.win
    leaves := (rs.map (·.leaves)).sum
    src := BitVec.ofNat 28 (pkg * 16384)
    txn := 0
    recs := (tag, rs.map (·.total)) :: rs.flatMap (·.recs) }

/-- A held request leaves with its group. -/
def departGroup (e : Nat) (h : HeldReq) : M Unit := do
  let s ← get
  let v := s.router e
  match h.group with
  | none => do
    modRouter e fun v => { v with held := v.held.erase h }
    passCombine e h.req
  | some key => do
    let ms := byPort (v.held.filter fun x => x.group = some key)
    modRouter e fun v => { v with
      held := v.held.filter fun x => x.group ≠ some key
      comb := insertAt key { members := ms.map fun m => (m.port, m.req, m.req.total), recordLost := false, mapLost := false }
        v.comb }
    passCombine e (combined s.pkg e key ms h.req)

/-- Clk of a window in ns: the routers' clk is taken at the nominal 1.7 GHz. Log 78 (DESIGN CHOICE). -/
def windowTime (win : Nat) : Nat := win * 1000 / 1700

/-- A request arrives at a router. One without a window is not held. Log 78 (DESIGN CHOICE). Log 80 (DEDUCED). -/
def holdCombine (e port : Nat) (r : CombReq) : M Unit := do
  let s ← get
  match s.combWay e r with
  | none => turnBack r
  | some (out, _) =>
    let r := { r with out := out }
    if r.win = 0 then passCombine e r
    else do
      let v := s.router e
      let h : HeldReq := { req := r, port := port, until_ := s.time + windowTime r.win, group := none }
      let joins := v.held.find? fun x => combFits x.req r && leavesOf (v.withMember x) + r.leaves ≤ 8 &&
        (x.group.isSome || (v.freeEntry out).isSome)
      match joins with
      | none => modRouter e fun v => { v with held := v.held ++ [h] }
      | some x => do
        let key := x.group.getD ((v.freeEntry out).getD 0)
        let empty : CombEntry := { members := [], recordLost := false, mapLost := false }
        let h := { h with group := some key }
        modRouter e fun v => { v with
          held := (v.held.map fun y => if y = x then { y with group := some key } else y) ++ [h]
          comb := if x.group.isSome then v.comb else insertAt key empty v.comb }
        if leavesOf (v.withMember x) + r.leaves = 8 then departGroup e h else pure ()

/-- `COMBINE_HOLD` (R414). -/
def execCombineHold (s : State) : Host.Outcome State Fault Refusal :=
  match s.now with
  | .combineHold e port r => runEvent (holdCombine e port r) s
  | _ => .next s

/-- `COMBINE_DEPART` (R414): the group of a held request, named by its place, leaves. -/
def execCombineDepart (s : State) : Host.Outcome State Fault Refusal :=
  match s.now with
  | .combineDepart e i => match (s.router e).held[i]? with
    | some h => runEvent (departGroup e h) s
    | none => .next s
  | _ => .next s

/-! ## At the home (R417, R418) -/

/-- The read-modify-write of a request at its home: the old value. Log 82 (DEDUCED). -/
def addAtHome (r : CombReq) : M Nat := do
  let s ← get
  let a := localOf r.addr
  let resource := r.src.toNat / 16384 = s.pkg || (s.resource r.tenant a && s.resource r.tenant (a + r.k - 1))
  raiseIf (!resource || place a ≠ .dram) cXlat r.addr
  checkSectors a a r.k
  let old ← homeRead a r.k
  pathWrite a (leBytes r.k ((leNat old + r.total.toNat) % 2 ^ (8 * r.k))) r.src 5
  pure (leNat old)

/-- The home performs a request and answers it; every record comes back with the answer. -/
def performCombined (r : CombReq) : M Unit := do
  let x ← attempt (addAtHome r)
  match x with
  | .ok old => answerMember r (BitVec.ofNat 64 old) (BitVec.ofNat 64 old) r.total false none r.recs
  | .error (.trap c _ _) => answerMember r 0 0 r.total false (some c) r.recs
  | .error e => throw e

/-- `COMBINED_AT_HOME` (R417). -/
def execCombinedAtHome (s : State) : Host.Outcome State Fault Refusal :=
  match s.now with
  | .combinedAtHome r => runEvent (performCombined r) s
  | _ => .next s

/-! ## Splitting (R417, R419) -/

/-- The sums by which an answer is split: the record's, or those of its echo where the record is lost. -/
def CombEntry.sums (x : CombEntry) (a : CombAnswer) : Option (List Word) :=
  if !x.recordLost then some (x.members.map (·.2.2))
  else if a.echoLost then none
  else (a.echoes.find? fun e => e.1 = a.tag).map (·.2)

/-- Answers members in requester order, each with the sums before it added. -/
def splitMembers (a : CombAnswer) (k : Nat) : Nat → List (CombReq × Word) → M Unit
  | _, [] => pure ()
  | acc, (r, sum) :: l => do
    answerMember r (BitVec.ofNat 64 acc) a.base a.total false a.fault a.echoes
    splitMembers a k ((acc + sum.toNat) % 2 ^ (8 * k)) l

/-- An answer reaches the router that formed the group. Where the map is lost, the members stay unanswered. -/
def splitAnswer (a : CombAnswer) : M Unit := do
  let s ← get
  let key := a.tag.stage * 256 + a.tag.entry
  match (s.router a.tag.router).comb.find? (fun e => e.1 = key) with
  | none => pure ()
  | some (_, x) => do
    modRouter a.tag.router fun v => { v with comb := removeAt key v.comb }
    let k := (x.members.head?.map fun m => m.2.1.k).getD 8
    if x.mapLost then pure ()
    else if a.lost then
      for m in x.members do
        answerMember m.2.1 0 a.base a.total true none a.echoes
    else match x.sums a with
      | some sums => splitMembers a k a.base.toNat ((x.members.map (·.2.1)).zip sums)
      | none =>
        for m in x.members do
          answerMember m.2.1 0 a.base a.total a.fault.isNone a.fault a.echoes

/-- `COMB_SPLIT` (R417). -/
def execCombSplit (s : State) : Host.Outcome State Fault Refusal :=
  match s.now with
  | .combSplit a => runEvent (splitAnswer a) s
  | _ => .next s

end Sys2Proof.Machine
end

