-- ==== Sys2Proof/Machine/Counters.lean ====
section
/-! DEFINITION. Event counters with their guard tasks, and dirty-page logs (R384 to R388). -/

namespace Sys2Proof.Machine

/-! ## Counters (R384, R386) -/

/-- Counter `n` as the current strand names it. -/
def State.counterAt (s : State) (n : Nat) : Counter :=
  if n < 8 then lookupD Counter.zero (s.core (coreOf s.cur)).counters n
  else if n < 40 then lookupD Counter.zero (s.die (dieOf s.cur)).counters (n - 8)
  else lookupD Counter.zero s.units.counters (n - 40)

/-- The state with counter `n` of a unit replaced: `owner` is the core, the die or 0. -/
def State.withCounter (s : State) (owner n : Nat) (c : Counter) : State :=
  if n < 8 then
    let v := s.core owner
    s.withCore owner { v with counters := storeAt Counter.zero n c v.counters }
  else if n < 40 then
    let v := s.die owner
    s.withDie owner { v with counters := storeAt Counter.zero (n - 8) c v.counters }
  else { s with units := { s.units with counters := storeAt Counter.zero (n - 40) c s.units.counters } }

/-- The unit that counter `n` belongs to for the current strand. -/
def State.counterOwner (s : State) (n : Nat) : Nat := if n < 8 then coreOf s.cur else if n < 40 then dieOf s.cur else 0

/-- Whether a source code is listed and fits counter `n` (R384). -/
def sourceFits (n code : Nat) : Bool :=
  code = 0 ||
  (if n < 8 then code ≤ 7
   else ((n < 40 && 0x1001 ≤ code && code ≤ 0x1006) || (n ≥ 40 && 0x2001 ≤ code && code ≤ 0x2005) ||
     (0x3000 ≤ code && code ≤ 0x3200)))

/-- Whether a colony's node covers a whole die (R362). -/
def coversDie (id die : Nat) : Bool := covers id (die * 128) && covers id (die * 128 + 127)

/-- The check of R386 on a die or package counter: a supervisor's colony must cover it. -/
def checkCounterRights (n : Nat) : M Unit := do
  let s ← get
  let id := s.colonyOf s.cur
  raiseIf (s.self.mode ≠ .hypervisor && ((8 ≤ n && n < 40 && !coversDie id (dieOf s.cur)) || (40 ≤ n && id ≠ 1))) cPerm n

/-- What a gauge shows (R384): the energy units that the model charges; the other gauges are not stated. Log 66 (DESIGN CHOICE). -/
def State.gauge (s : State) (code : Nat) : Nat :=
  let i := lookupD Island.initial s.units.islands (code - 0x3100)
  if 0x3100 ≤ code && code < 0x3200 && i ≠ Island.initial then i.used % 2 ^ 48
  else Config.gauge code s.steps % 2 ^ 48

/-- The word that `ctrrd` writes (R386). Log 66 (DESIGN CHOICE). -/
def State.counterWord (s : State) (c : Counter) : Word :=
  let v := if c.source.toNat ≥ 0x3000 then s.gauge c.source.toNat else c.count
  BitVec.ofNat 64 ((if c.armed then 2 ^ 63 else 0) + (if c.lost then 2 ^ 62 else 0) + v % 2 ^ 48)

/-- `ctrsel` (R386). -/
def execCtrsel (o : OpRR) (s : State) : Host.Outcome State Fault Refusal :=
  let checks : M Unit := do
    let a ← peekX o.a
    let b ← peekX o.b
    illIf (fieldAt a 0 7 > 71 || fieldAt b 16 16 ≠ 0 || !sourceFits (fieldAt a 0 7) (fieldAt b 0 16))
    needMode .supervisor
  runPriv ⟨o.st, 0, .joint, [wBoth o.a, wSrc o.b]⟩ checks (do
    let a ← readX 0 o.a
    let b ← readX 1 o.b
    let n := fieldAt a 0 7
    checkCounterRights n
    let s ← get
    let old := s.counterAt n
    set (s.withCounter (s.counterOwner n) n { old with
      count := 0, source := BitVec.ofNat 16 (fieldAt b 0 16), threshold := BitVec.ofNat 64 (fieldAt b 32 32), armed := false })
    writeX o.a (BitVec.ofNat 64 (old.source.toNat + old.threshold.toNat % 2 ^ 32 * 2 ^ 32))) s

/-- `ctrrd` (R386). -/
def execCtrrd (o : OpRR) (s : State) : Host.Outcome State Fault Refusal :=
  let checks : M Unit := do
    let b ← peekX o.b
    illIf (fieldAt b 0 7 > 71)
    if fieldAt b 0 7 < 8 then pure () else needMode .supervisor
  runPriv ⟨o.st, 0, .joint, [wDst o.a, wSrc o.b]⟩ checks (do
    let b ← readX 0 o.b
    let n := fieldAt b 0 7
    checkCounterRights n
    let s ← get
    writeX o.a (s.counterWord (s.counterAt n))) s

/-- `ctrarm` (R386): arms or disarms. One that is armed at or above its threshold fires at once. -/
def ctrarm (o : OpRRR) (s : State) : Host.Outcome State Fault Refusal :=
  let checks : M Unit := do
    let w ← peekX o.a
    illIf (fieldAt w 0 7 > 71 || bitAt w 7 || fieldAt w 11 21 ≠ 0)
    needMode .supervisor
  runPriv ⟨o.st, 0, .joint, threeSource o⟩ checks (do
    let w ← readX 0 o.a
    let b ← readW 1 o.b
    let c ← readW 2 o.c
    let n := fieldAt w 0 7
    checkCounterRights n
    if b.tag then do
      let (pkg, die, i, gen) ← checkHandle b false
      let s ← get
      if pkg ≠ s.pkg then do
        let (_, area) ← askHome b pkg die i gen 0
        noteArea (dieOf s.cur) area
      else pure ()
    else pure ()
    raiseIf (c.tag && !Cap.has c.val Cap.gl) cPerm (Cap.cursor c.val)
    let s ← get
    let old := s.counterAt n
    let owner := s.counterOwner n
    if bitAt w 10 then set (s.withCounter owner n { old with armed := false })
    else do
      let fires := old.threshold ≠ 0 && old.count ≥ old.threshold.toNat
      set (s.withCounter owner n { old with
        armed := !fires, lost := false, handle := b, key := fieldAt w 32 32, cls := fieldAt w 8 2, arg := c, sid := s.cur })
      if fires then post (.counterFire owner n) else pure ()) s

/-- `ctrarm`, arm. -/
def execCtrarmArm (o : OpRRR) (s : State) : Host.Outcome State Fault Refusal := ctrarm o s
/-- `ctrarm`, disarm. -/
def execCtrarmDisarm (s : State) : Host.Outcome State Fault Refusal := ctrarm s.self.rowRRR s

/-! ## Firing (R385) -/

/-- Whether a guard task could be pushed at a die's engine. -/
def guardTask (die : Nat) (c : Counter) : M Bool := do
  let s ← get
  let (pkg, home, i, gen) := handleName c.handle
  let h := s.slot home i
  let alive := if pkg = s.pkg then h.used && h.gen = gen && !h.broken else !s.units.lost.contains pkg
  if !c.handle.tag || !alive then pure false
  else do
    let ok ← placeItem die pkg home i gen c.key c.cls c.arg (s.colonyOf c.sid)
    if ok then do
      let s ← get
      sendCount pkg (s.countOf die home i gen c.key (s.fullSid c.sid).toNat)
      pure true
    else pure false

/-- What a counter that fires does: a guard task, an interrupt, or its lost bit. -/
def fireCounter (owner n : Nat) : M Unit := do
  let s ← get
  let c := if n < 8 then lookupD Counter.zero (s.core owner).counters n
    else if n < 40 then lookupD Counter.zero (s.die owner).counters (n - 8)
    else lookupD Counter.zero s.units.counters (n - 40)
  let die := if n < 8 then owner / 512 else if n < 40 then owner else 0
  let done ← guardTask die c
  if done then pure ()
  else do
    let t ← getStrand c.sid
    if t.live then modStrand c.sid fun t => t.interrupt cGuard (BitVec.ofNat 64 n)
    else modify fun s => s.withCounter owner n { c with lost := true }

/-- `COUNTER_FIRE` (R385). -/
def execCounterFire (s : State) : Host.Outcome State Fault Refusal :=
  match s.now with
  | .counterFire owner n => runEvent (fireCounter owner n) s
  | _ => .next s

/-! ## Dirty-page logs (R387, R388) -/

/-- The status of R388. -/
def logStatus (l : Option DirtyLog) : Word :=
  match l with
  | none => 0
  | some l => BitVec.ofNat 64 (2 ^ 63 + (if l.overflowed then 2 ^ 62 else 0) + l.wp % 2 ^ 32)

/-- Starts logging to a capability: 0 or a reason. Log 65 (DEDUCED). -/
def startLog (id : Nat) (c : Colony) (b : Reg) : M Nat := do
  checkCap b (Cap.ld ||| Cap.st) [Cap.kMemory] 24
  raiseIf (Cap.cursor b.val % 65536 ≠ 0) cAlign (Cap.cursor b.val)
  let head ← readRange b 24 ⟨0, 4, false, 0⟩
  let n := leNat ((head.drop 16).take 4)
  if n = 0 || n > 2 ^ 20 || 2 ^ Nat.log2 n ≠ n then pure malformed
  else do
    let size := 64 + 524288 + 8 * n
    checkCap b (Cap.ld ||| Cap.st) [Cap.kMemory] size
    let _ ← translateRange (Cap.tenant b.val) (Cap.cursor b.val) size (Cap.ld ||| Cap.st)
    let beyond := leNat ((head.drop 20).take 1) % 2 = 1
    let l : DirtyLog := { cap := b, wp := leNat (head.take 8), overflowed := beyond, raised := beyond }
    putColony id (some { c with log := some l })
    pure okStatus

/-- Clears the bitmap and the overflowed bit of a log (R388). -/
def leaveBitmap (id : Nat) (c : Colony) (l : DirtyLog) : M Unit := do
  writeRange ⟨Cap.offset l.cap.val 64, true⟩ (List.replicate 524288 0) ⟨0, 4, false, 0⟩ 4
  writeRange ⟨Cap.offset l.cap.val 20, true⟩ (leBytes 4 0) ⟨0, 4, false, 0⟩ 4
  putColony id (some { c with log := some { l with overflowed := false, raised := false } })

/-- `dlog` (R388). Log 19 (DEDUCED). Log 65 (DEDUCED). -/
def dlog (o : OpRR) (s : State) : Host.Outcome State Fault Refusal :=
  let checks : M Unit := do
    let w ← peekX o.a
    illIf (fieldAt w 27 37 ≠ 0 || fieldAt w 2 14 ≠ 0)
    needMode .hypervisor
  runPriv ⟨o.st, 0, .joint, [wBoth o.a, wSrc o.b]⟩ checks (do
    let w ← readX 0 o.a
    let b ← readW 1 o.b
    let id := fieldAt w 16 11
    let s ← get
    match s.colony id with
    | none => writeX o.a (statusWord noColony)
    | some c => do
      let r ← match fieldAt w 0 2, c.log with
        | 1, _ => startLog id c b
        | 2, _ => do
          putColony id (some { c with log := none })
          pure okStatus
        | 3, some l => do
          leaveBitmap id c l
          pure okStatus
        | _, _ => pure okStatus
      let s ← get
      let log := match s.colony id with
        | some c => c.log
        | none => none
      writeX o.a (if r = 0 then logStatus log else statusWord r)) s

/-- `dlog`, status. -/
def execDlogStatus (o : OpRR) (s : State) : Host.Outcome State Fault Refusal := dlog o s
/-- `dlog`, start. -/
def execDlogStart (s : State) : Host.Outcome State Fault Refusal := dlog s.self.rowRR s
/-- `dlog`, stop. -/
def execDlogStop (s : State) : Host.Outcome State Fault Refusal := dlog s.self.rowRR s
/-- `dlog`, leave bitmap mode. -/
def execDlogLeaveBitmap (s : State) : Host.Outcome State Fault Refusal := dlog s.self.rowRR s

end Sys2Proof.Machine
end

