-- ==== Sys2Proof/Machine/Errors.lean ====
section
/-! DEFINITION. Errors that the hardware meets: tag parity (R280), corrected errors (R342) and uncorrectable ones (R430). -/

namespace Sys2Proof.Machine

/-! ## Tag parity (R275, R280) -/

/-- The address of a set: home die, slice and set where R275 places them, every other bit 0. -/
def setAddress (a : Nat) : Nat :=
  ((a / 2 ^ 7 % 8) ^^^ (a / 2 ^ 33 % 8)) * 2 ^ 7 + ((a / 2 ^ 10 % 32) ^^^ (a / 2 ^ 28 % 32)) * 2 ^ 10 + a / 2 ^ 15 % 2 * 2 ^ 15 +
    colourOf a * 2 ^ 16 + a / 2 ^ 36 % 8 * 2 ^ 36

/-- A dirty line that is dropped: what memory then holds of it nobody can tell. Log 90 (DESIGN CHOICE). -/
def loseLine (a : Nat) : M Unit := modify fun s =>
  let bs := (List.range 128).map fun i => Config.discardedByte (s.fresh + i)
  let u := (List.range 8).foldl (fun s g => s.putTag (a + 16 * g) ((Config.discardedByte (s.fresh + 128 + g)).toNat % 2 = 1))
    (s.putBytes a bs)
  { u with fresh := s.fresh + 136 }

/-- Discards the copy commands of a tenant, with what they wait for (R280). Log 84 (DEDUCED). -/
def discardCopies (t : BitVec 12) : M Unit := do
  let s ← get
  for e in s.units.queues do
    let q := e.1
    if e.2.cmds.any (fun c => c.tid = t) then do
      let headGone : Bool := match e.2.cmds with
        | c :: _ => c.tid = t
        | [] => false
      let ids := (e.2.cmds.filter fun c => c.tid = t).map (·.id)
      modQueue q fun v => { v with cmds := v.cmds.filter fun c => c.tid ≠ t }
      modify fun s => { s with units := { s.units with
        windows := s.units.windows.filter fun w => !ids.contains w.cmd
        requests := s.units.requests.filter fun r => !headGone || (match r.use with
          | .copyRead k _ => k ≠ q
          | .copyWrite k _ _ => k ≠ q
          | _ => true) } }
      post (.copyCommand q)
    else pure ()

/-- Discards the starts of a tenant that wait for lanes: their launches count them as ended by the fault. Log 84 (DEDUCED). -/
def discardStarts (t : BitVec 12) : M Unit := do
  let s ← get
  for e in s.quads do
    for r in e.2.deferred do
      if r.tid = t then do
        modQuad e.1 fun v => { v with deferred := v.deferred.erase r }
        endOfLaunch r.launch (some (s.faultValue r.sid cEcc))
      else pure ()

/-- Kills a tenant: its strands end by `ecc` at their next boundary, and its commands at engines are discarded. Log 84 (DEDUCED). -/
def killTenant (t : BitVec 12) : M Unit := do
  let s ← get
  discardStarts t
  for sid in s.running do
    let x := s.strand sid
    if x.tid = t then
      if x.asked.isEmpty && !x.gangIssued then endStrand sid (some (s.faultValue sid cEcc))
      else modStrand sid fun x => { x with doomed := true }
    else pure ()
  discardCopies t
  modify fun s => { s with units := { s.units with
    agentJobs := s.units.agentJobs.filter fun j => j.packet.tenant ≠ t } }

/-- A parity error in the tag of a line of this package (R280): the slice gives the line up, what it held dirty with it. Log 84 (DEDUCED). -/
def tagParity (line : Nat) : M Unit := do
  let s ← get
  let a := line * 128
  let dirty := (lookupD L2Line.empty s.units.l2 line).dirty ≠ 0
  set (s.l2Drop line)
  let check := raiseControl cMachine (BitVec.ofNat 64 (s.globalOf (setAddress a)))
  if dirty then loseLine a else pure ()
  let colour := colourOf a
  if colour = 0 then if dirty then check else pure ()
  else do
    let e := lookupD 0 s.units.colours colour
    if e / 4096 = 1 then killTenant (BitVec.ofNat 12 e) else pure ()
    check

/-- `L2_TAG_PARITY_ERROR` (R280). -/
def execL2TagParityError (s : State) : Host.Outcome State Fault Refusal :=
  match s.now with
  | .l2TagParityError line => runEvent (tagParity line) s
  | _ => .next s

/-- `PATROL_SCRUB` (R342): how many errors it corrects nobody can tell. -/
def execPatrolScrub (s : State) : Host.Outcome State Fault Refusal :=
  match s.now with
  | .patrolScrub channel => runEvent (modify fun s =>
      s.countPackage 0x2004 (Config.correctedErrors channel s.steps)) s
  | _ => .next s

/-! ## Uncorrectable errors (R419, R420, R426, R430) -/

/-- The cause that a failing unit reports. -/
def errorCause (integ : Bool) : BitVec 8 := if integ then cInteg else cEcc

/-- Changes a comb-table entry. -/
def modEntry (tag : CombTag) (f : CombEntry → CombEntry) : M Unit := modRouter tag.router fun v => { v with
  comb := v.comb.map fun e => if e.1 = tag.stage * 256 + tag.entry then (e.1, f e.2) else e }

/-- A router buffer destroys a packet's header: the request gets no answer, and the control strand a machine check. Log 89 (DESIGN CHOICE). -/
def destroyPacket (txn : Nat) : M Unit := do
  let s ← get
  set { s with units := { s.units with lostAnswers := s.units.lostAnswers ++ [txn] } }
  match s.units.requests.find? (fun r => r.txn = txn) with
  | some r => raiseControl cMachine (BitVec.ofNat 64 ((r.packet.dst * 2 ^ 41 + r.packet.addr) / 128 * 128))
  | none => do
    let v ← freeValue
    raiseControl cMachine (v.setWidth 64)

/-- An error in a sector that a core's L1 holds. -/
def strikeLine (core line sector : Nat) (integ : Bool) : M Unit := modCore core fun c =>
  let l := lookupD L1Line.empty c.lines line
  if l.valid.getLsbD sector then
    { c with lines := storeAt L1Line.empty line { l with fails := storeAt 0 (sector % 4) (errorCause integ) l.fails } c.lines }
  else c

/-- An uncorrectable error strikes a unit. -/
def strike (u : ErrUnit) : M Unit :=
  match u with
  | .sector pa integ => modify fun s => { s with bad := storeAt 0 (canon pa / 32) (errorCause integ) s.bad }
  | .miscorrected pa bytes check => modify fun s =>
    let a := canon pa / 32 * 32
    let bs := bytes.take 32
    { s.putBytes a bs with bad := storeAt 0 (a / 32) (if checkValue bs = check then 0 else cInteg) s.bad }
  | .cached core line sector integ => strikeLine core line sector integ
  | .tileUnit sid tile unit integ => modify fun s => { s with
      badTiles := storeAt 0 (tileUnitKey sid tile unit) (errorCause integ) s.badTiles }
  | .accRow sid acc row integ => modify fun s => { s with
      badRows := storeAt 0 (accRowKey sid acc row) (errorCause integ) s.badRows }
  | .routerBuffer txn => destroyPacket txn
  | .record tag => modEntry tag fun x => { x with recordLost := true }
  | .requesterMap tag => modEntry tag fun x => { x with mapLost := true }
  | .contribution scope group check => deliverPhase scope group (errorCause check) none

/-- `UNCORRECTABLE_ERROR` (R430). -/
def execUncorrectableError (s : State) : Host.Outcome State Fault Refusal :=
  match s.now with
  | .uncorrectableError u => runEvent (strike u) s
  | _ => .next s

end Sys2Proof.Machine
end

