-- ==== Sys2Proof/Machine/FloatScalar.lean ====
section
/-! DEFINITION. Scalar floating point of page 1 (R120 to R125). -/

namespace Sys2Proof.Machine

open Sys2Proof.Machine.Float (Value)

/-- Reads a source as a value of a format, from the low bits of its register (R120). -/
def readF (i : Nat) (n : RegNo) (f : Float.Format) : M Value := do
  let x ← readX i n
  pure (Float.decode f x.toNat)

/-- A two-source arithmetic instruction: exact, then rounded once (R121). -/
def fp2 (lat : Nat) (o : OpRRC) (m : VecMod) (f : Nat → Value → Value → Value × Nat) (s : State) :
    Host.Outcome State Fault Refusal :=
  runPriv ⟨o.st, lat, .execute, twoSource 0 o⟩ (needSeed m.rnd.toNat) (do
    let mode ← scalarMode m.rnd.toNat
    let x ← readF 0 o.x (fpFormat m.ty)
    let y ← readF 1 o.y (fpFormat m.ty)
    let (v, fl) := f mode x y
    let c ← roundTo (fpFormat m.ty) mode 0 0 v fl
    writeX o.a (BitVec.ofNat 64 c)) s

/-- `fmin` and `fmax`: no flag, no rounding (R122). -/
def fpPick (o : OpRRC) (m : VecMod) (f : Value → Value → Value) (s : State) : Host.Outcome State Fault Refusal :=
  runOp ⟨o.st, 4, .execute, twoSource 0 o⟩ (do
    let x ← readF 0 o.x (fpFormat m.ty)
    let y ← readF 1 o.y (fpFormat m.ty)
    writeX o.a (BitVec.ofNat 64 (Float.round (fpFormat m.ty) 0 0 (f x y)).1)) s

/-- A compare (R123): `f` decides from below and equal; `quiet` is `fceq`. -/
def fpCompare (o : OpRRC) (m : VecMod) (quiet : Bool) (f : Bool → Bool → Bool) (s : State) :
    Host.Outcome State Fault Refusal :=
  runOp ⟨o.st, 4, .execute, twoSource 0 o⟩ (do
    let x ← readF 0 o.x (fpFormat m.ty)
    let y ← readF 1 o.y (fpFormat m.ty)
    let unordered := x = .nan || y = .nan
    let (lt, eq) := Float.compare x y
    setFlags (if unordered && !quiet then Float.fNv else 0)
    writeX o.a (if !unordered && f lt eq then 1 else 0)) s

/-- `fadd` (R121). -/
def execFadd (o : OpRRC) (m : VecMod) (s : State) : Host.Outcome State Fault Refusal := fp2 4 o m Float.add s

/-- `fsub` (R121). -/
def execFsub (o : OpRRC) (m : VecMod) (s : State) : Host.Outcome State Fault Refusal :=
  fp2 4 o m (fun r x y => Float.add r x (Float.neg y)) s

/-- `fmul` (R121). -/
def execFmul (o : OpRRC) (m : VecMod) (s : State) : Host.Outcome State Fault Refusal :=
  fp2 4 o m (fun _ x y => Float.mul x y) s

/-- `fdiv` (R121). -/
def execFdiv (o : OpRRC) (m : VecMod) (s : State) : Host.Outcome State Fault Refusal :=
  fp2 0 o m (fun _ x y => Float.div x y) s

/-- `fsqrt` (R121). -/
def execFsqrt (o : OpRR) (m : VecMod) (s : State) : Host.Outcome State Fault Refusal :=
  runPriv ⟨o.st, 0, .execute, oneSource o⟩ (needSeed m.rnd.toNat) (do
    let mode ← scalarMode m.rnd.toNat
    let x ← readF 0 o.b (fpFormat m.ty)
    let (v, fl) := Float.sqrt x
    let c ← roundTo (fpFormat m.ty) mode 0 0 v fl
    writeX o.a (BitVec.ofNat 64 c)) s

/-- `fma` (R121): A + B × C, rounded once. -/
def execFma (o : OpRRR) (m : VecMod) (s : State) : Host.Outcome State Fault Refusal :=
  runPriv ⟨o.st, 4, .execute, [wBoth o.a, wSrc o.b, wSrc o.c]⟩ (needSeed m.rnd.toNat) (do
    let mode ← scalarMode m.rnd.toNat
    let x ← readF 0 o.a (fpFormat m.ty)
    let y ← readF 1 o.b (fpFormat m.ty)
    let z ← readF 2 o.c (fpFormat m.ty)
    let (v, fl) := Float.fma mode x y z
    let c ← roundTo (fpFormat m.ty) mode 0 0 v fl
    writeX o.a (BitVec.ofNat 64 c)) s

/-- `fmin` (R122). -/
def execFmin (o : OpRRC) (m : VecMod) (s : State) : Host.Outcome State Fault Refusal := fpPick o m Float.minimum s

/-- `fmax` (R122). -/
def execFmax (o : OpRRC) (m : VecMod) (s : State) : Host.Outcome State Fault Refusal := fpPick o m Float.maximum s

/-- `fceq` (R123). -/
def execFceq (o : OpRRC) (m : VecMod) (s : State) : Host.Outcome State Fault Refusal :=
  fpCompare o m true (fun _ eq => eq) s

/-- `fclt` (R123). -/
def execFclt (o : OpRRC) (m : VecMod) (s : State) : Host.Outcome State Fault Refusal :=
  fpCompare o m false (fun lt _ => lt) s

/-- `fcle` (R123). -/
def execFcle (o : OpRRC) (m : VecMod) (s : State) : Host.Outcome State Fault Refusal :=
  fpCompare o m false (fun lt eq => lt || eq) s

/-- `fclass` (R124). -/
def execFclass (o : OpRR) (m : VecMod) (s : State) : Host.Outcome State Fault Refusal :=
  runOp ⟨o.st, 4, .execute, oneSource o⟩ (do
    let x ← readF 0 o.b (fpFormat m.ty)
    writeX o.a (BitVec.ofNat 64 (2 ^ Float.classBit (fpFormat m.ty) x))) s

/-- `fcvt` (R125): from the format that the immediate names. -/
def execFcvt (o : OpRX) (m : VecMod) (s : State) : Host.Outcome State Fault Refusal :=
  runPriv ⟨o.st, 3, .execute, [wDst o.a, wSrc o.b]⟩ (needSeed m.rnd.toNat) (do
    let mode ← scalarMode m.rnd.toNat
    let x ← readF 0 o.b (fpFormat (o.imm.setWidth 3))
    let c ← roundTo (fpFormat m.ty) mode 0 0 x 0
    writeX o.a (BitVec.ofNat 64 c)) s

/-- `fcvti` (R125, R58): the result is extended by its own signedness. -/
def execFcvti (o : OpRX) (m : VecMod) (s : State) : Host.Outcome State Fault Refusal :=
  runPriv ⟨o.st, 3, .execute, [wDst o.a, wSrc o.b]⟩ (needSeed m.rnd.toNat) (do
    let mode ← scalarMode m.rnd.toNat
    let x ← readF 0 o.b (fpFormat (o.imm.setWidth 3))
    let bits := (intType m.ty).bits
    let signed := m.ty.toNat < 4
    let v ← roundToInt bits signed mode 0 0 x
    writeX o.a (BitVec.ofInt 64 (Float.patInt bits signed v))) s

/-- `icvtf` (R125): from the integer type that the immediate names. -/
def execIcvtf (o : OpRX) (m : VecMod) (s : State) : Host.Outcome State Fault Refusal :=
  runPriv ⟨o.st, 3, .execute, [wDst o.a, wSrc o.b]⟩ (needSeed m.rnd.toNat) (do
    let mode ← scalarMode m.rnd.toNat
    let x ← readX 0 o.b
    let ty := o.imm.setWidth 3
    let v := Float.ofInt (Float.patInt (intType ty).bits (ty.toNat < 4) x.toNat)
    let c ← roundTo (fpFormat m.ty) mode 0 0 v 0
    writeX o.a (BitVec.ofNat 64 c)) s

end Sys2Proof.Machine
end

