-- ==== Sys2Proof/Machine/Modular.lean ====
section
/-! DEFINITION. Page 3: moduli, residues, butterflies and the butterfly network (R205 to R217). -/

namespace Sys2Proof.Machine

/-! ## Pairs (R205, R206) -/

/-- The width of a modular type (R35). -/
def modWidth (m : ModMod) : Nat := if m.ty = 6 then 32 else 64

/-- The constant that belongs to a modulus (R206). -/
def barrett (q : Nat) : Nat := 2 ^ (2 * Float.bitLength q) / q

/-- Whether a modulus is in range. -/
def modulusOk (q : Nat) : Bool := 2 ≤ q && q < 2 ^ 62

/-- Whether a pair may serve at a position under a type (R206, R207). -/
def pairOk (w q mu : Nat) : Bool := modulusOk q && mu = barrett q && (w = 64 || q < 2 ^ 30)

/-- Raises `modcfg` after noting an element in `felem` (R207, R210). -/
def raisePair {α : Type} (e value : Nat) : M α := do
  modSelf fun t => { t with felem := e }
  throw (.trapKeep cModcfg (BitVec.ofNat 64 value) none)

/-- The registers of a pair, as operands. -/
def pairUse (i : Nat) : List RegUse := [⟨5, i, true, false⟩, ⟨6, i, true, false⟩]

/-- What an arithmetic instruction of page 3 needs: its pair and mask, and the pair check of R207. -/
structure ModWork where
  w : Nat
  start : Nat
  n : Nat
  mask : BitVec 512
  q : List Word
  deriving DecidableEq, Repr

/-- The modulus of an element. -/
def ModWork.mod (k : ModWork) (e : Nat) : Nat := (k.q.getD (e / (64 / k.w)) 0).toNat

/-- Elements that are processed and active. -/
def ModWork.active (k : ModWork) : List Nat :=
  (List.range k.n).filter fun e => k.start ≤ e && k.mask.getLsbD e

/-- Starts an arithmetic instruction whose sources are read before: `i` numbers its next operand. -/
def startModular (i : Nat) (m : ModMod) : M ModWork := do
  let q ← readModulus i 5 m.mi.toNat
  let mu ← readModulus (i + 1) 6 m.mi.toNat
  let mask ← readK (i + 2) m.mask.toNat
  let t ← self
  let w := modWidth m
  let k : ModWork := ⟨w, t.vec.vstart, t.effective w, mask, q⟩
  match k.active.find? fun e => !pairOk w (k.mod e) (mu.getD (e / (64 / w)) 0).toNat with
  | some e => raisePair e m.mi.toNat
  | none => do
    useLanes w k.start k.n
    pure k

/-- Sets `unred` when a modular operand of an active element is not below its modulus (R208). -/
def noteUnreduced (k : ModWork) (operands : List (List Word)) : M Unit :=
  setFlags (if k.active.any fun e => operands.any fun ws => elAt ws k.w e ≥ k.mod e then Float.fUnred else 0)

/-- The residue of an integer. -/
def residue (x : Int) (q : Nat) : Nat := (x % q).toNat

/-- A two-source instruction (R212): `f` gives the integer, `w` being the width. -/
def modTwo (lat : Nat) (reduced : Bool) (o : OpRRC) (m : ModMod) (f : Nat → Int → Int → Int) (s : State) :
    Host.Outcome State Fault Refusal :=
  runPriv ⟨o.st, lat, .lanes, twoSource 1 o ++ pairUse m.mi.toNat ++ maskUse m.mask⟩ needGrant (do
    let x ← readV 0 o.x
    let y ← readV 1 o.y
    let k ← startModular 2 m
    if reduced then noteUnreduced k [x, y]
    writeElements o.a k.w k.start k.n m.zero k.mask fun e =>
      (residue (f k.w (elAt x k.w e) (elAt y k.w e)) (k.mod e), 0)) s

/-- A butterfly (R213): `f` gives the two results from a, b and t. -/
def butterfly (o : OpRRR) (m : ModMod) (f : Int → Int → Int → Int × Int) (s : State) :
    Host.Outcome State Fault Refusal :=
  runPriv ⟨o.st, 7, .lanes, [vBoth o.a, vBoth o.b, vSrc o.c] ++ pairUse m.mi.toNat ++ maskUse m.mask⟩ needGrant (do
    let a ← readV 0 o.a
    let b ← readV 1 o.b
    let c ← readV 2 o.c
    let k ← startModular 3 m
    noteUnreduced k [a, b, c]
    let r := fun (e : Nat) => f (elAt a k.w e) (elAt b k.w e) (elAt c k.w e)
    writeElements o.a k.w k.start k.n m.zero k.mask fun e => (residue (r e).1 (k.mod e), 0)
    writeElements o.b k.w k.start k.n m.zero k.mask fun e => (residue (r e).2 (k.mod e), 0)) s

/-! ## Loading and reading the pairs (R210, R211) -/

/-- Positions of the grant that a mask selects. -/
def Strand.positions (t : Strand) (k : BitVec 512) : List Nat :=
  (List.range t.vec.lanes.length).filter fun p => k.getLsbD p

/-- `mqld`. -/
def execMqld (o : OpRR) (m : ModMod) (s : State) : Host.Outcome State Fault Refusal :=
  runPriv ⟨o.st, 0, .lanes, [⟨5, o.a.toNat, false, true⟩, vSrc o.b] ++ maskUse m.mask⟩ needGrant (do
    let x ← readV 0 o.b
    let k ← readK 1 m.mask.toNat
    let t ← self
    let ps := t.positions k
    match ps.find? fun p => !modulusOk (x.getD p 0).toNat with
    | some p => raisePair p o.a.toNat
    | none => do
      spendBudget 1 ps.length
      modSelf fun t => { t with vec := { t.vec with
        mq := ps.foldl (fun r p => storeAt 0 (o.a.toNat * 64 + p) (x.getD p 0) r) t.vec.mq } }) s

/-- `mcld`. -/
def execMcld (o : OpRR) (m : ModMod) (s : State) : Host.Outcome State Fault Refusal :=
  runPriv ⟨o.st, 0, .lanes,
    [⟨6, o.a.toNat, false, true⟩, vSrc o.b, ⟨5, o.a.toNat, true, false⟩] ++ maskUse m.mask⟩ needGrant (do
    let x ← readV 0 o.b
    let q ← readModulus 1 5 o.a.toNat
    let k ← readK 2 m.mask.toNat
    let t ← self
    let ps := t.positions k
    match ps.find? fun p => !pairOk 64 (q.getD p 0).toNat (x.getD p 0).toNat with
    | some p => raisePair p o.a.toNat
    | none => do
      spendBudget 1 ps.length
      modSelf fun t => { t with vec := { t.vec with
        mc := ps.foldl (fun r p => storeAt 0 (o.a.toNat * 64 + p) (x.getD p 0) r) t.vec.mc } }) s

/-- `mqget`: bit 2 of field B names the file. -/
def execMqget (o : OpRR) (m : ModMod) (s : State) : Host.Outcome State Fault Refusal :=
  let file := if o.b.getLsbD 2 then 6 else 5
  let n := o.b.toNat % 4
  runPriv ⟨o.st, 2, .lanes, [vDst o.a, ⟨file, n, true, false⟩] ++ maskUse m.mask⟩ needGrant (do
    let x ← readModulus 0 file n
    let k ← readK 1 m.mask.toNat
    let t ← self
    spendBudget 1 t.vec.lanes.length
    writeV o.a 64 fun p =>
      if k.getLsbD p then some (x.getD p 0).toNat else if m.zero then some 0 else none) s

/-! ## Arithmetic (R212, R213) -/

/-- `vmadd`. -/
def execVmadd (o : OpRRC) (m : ModMod) (s : State) : Host.Outcome State Fault Refusal :=
  modTwo 2 true o m (fun _ x y => x + y) s

/-- `vmsub`. -/
def execVmsub (o : OpRRC) (m : ModMod) (s : State) : Host.Outcome State Fault Refusal :=
  modTwo 2 true o m (fun _ x y => x - y) s

/-- `vmmul`. -/
def execVmmul (o : OpRRC) (m : ModMod) (s : State) : Host.Outcome State Fault Refusal :=
  modTwo 6 true o m (fun _ x y => x * y) s

/-- `vmwide`. -/
def execVmwide (o : OpRRC) (m : ModMod) (s : State) : Host.Outcome State Fault Refusal :=
  modTwo 6 false o m (fun w x y => x * 2 ^ w + y) s

/-- `vmmac`. -/
def execVmmac (o : OpRRR) (m : ModMod) (s : State) : Host.Outcome State Fault Refusal :=
  runPriv ⟨o.st, 6, .lanes, [vBoth o.a, vSrc o.b, vSrc o.c] ++ pairUse m.mi.toNat ++ maskUse m.mask⟩ needGrant (do
    let a ← readV 0 o.a
    let b ← readV 1 o.b
    let c ← readV 2 o.c
    let k ← startModular 3 m
    noteUnreduced k [a, b, c]
    writeElements o.a k.w k.start k.n m.zero k.mask fun e =>
      (residue (elAt a k.w e + elAt b k.w e * elAt c k.w e : Nat) (k.mod e), 0)) s

/-- `vmred`. -/
def execVmred (o : OpRR) (m : ModMod) (s : State) : Host.Outcome State Fault Refusal :=
  runPriv ⟨o.st, 6, .lanes, [vDst o.a, vSrc o.b] ++ pairUse m.mi.toNat ++ maskUse m.mask⟩ needGrant (do
    let y ← readV 0 o.b
    let k ← startModular 1 m
    writeElements o.a k.w k.start k.n m.zero k.mask fun e => (residue (elAt y k.w e) (k.mod e), 0)) s

/-- `vmbf`. -/
def execVmbf (o : OpRRR) (m : ModMod) (s : State) : Host.Outcome State Fault Refusal :=
  butterfly o m (fun a b t => (a + t * b, a - t * b)) s

/-- `vmibf`. -/
def execVmibf (o : OpRRR) (m : ModMod) (s : State) : Host.Outcome State Fault Refusal :=
  butterfly o m (fun a b t => (a + b, (a - b) * t)) s

/-! ## The butterfly network (R214 to R216) -/

/-- The `e`-th index whose bit `s` is clear (R215). -/
def pairIndex (s e : Nat) : Nat := (e >>> s) <<< (s + 1) ||| e % 2 ^ s

/-- `vbfx`: the new elements of both registers from the sequence of their `2 n` elements. -/
def exchange (o : OpRX) (m : ModMod) (f : Nat → Nat → (Nat → Nat) → (Nat → Nat) × (Nat → Nat)) (s : State) :
    Host.Outcome State Fault Refusal :=
  runPriv ⟨o.st, 3, .lanes, [vBoth o.a, vBoth o.b]⟩ needStart (do
    let a ← readV 0 o.a
    let b ← readV 1 o.b
    let t ← self
    let w := modWidth m
    let n := t.effective w
    useLanes w 0 n
    let z := fun (i : Nat) => if i < n then elAt a w i else if i < 2 * n then elAt b w (i - n) else 0
    let (x, y) := f (o.imm.toNat % 8) n z
    writeV o.a w fun e => if e < n then some (x e) else none
    writeV o.b w fun e => if e < n then some (y e) else none) s

/-- `vbfx` without `inv`: gathers elements into pairs. -/
def execVbfxGather (o : OpRX) (m : ModMod) (s : State) : Host.Outcome State Fault Refusal :=
  exchange o m (fun d _ z => (fun e => z (pairIndex d e), fun e => z (pairIndex d e + 2 ^ d))) s

/-- The element that a scatter puts at index `i`: the last one that names it, or 0. -/
def scattered (d n : Nat) (z : Nat → Nat) (i : Nat) : Nat :=
  match (List.range n).reverse.find? fun e => pairIndex d e = i || pairIndex d e + 2 ^ d = i with
  | some e => if pairIndex d e + 2 ^ d = i then z (n + e) else z e
  | none => 0

/-- `vbfx` with `inv`: scatters pairs back. -/
def execVbfxScatter (o : OpRX) (m : ModMod) (s : State) : Host.Outcome State Fault Refusal :=
  exchange o m (fun d n z => (scattered d n z, fun e => scattered d n z (n + e))) s

/-- The low `m` bits of a number in reverse. -/
def reverseBits : Nat → Nat → Nat
  | 0, _ => 0
  | m + 1, e => e % 2 * 2 ^ m + reverseBits m (e / 2)

/-- The least `m` with `2 ^ m ≥ n`. -/
def ceilLog2 (n : Nat) : Nat := if n ≤ 1 then 0 else Nat.log2 (n - 1) + 1

/-- `vbrev` (R216). -/
def execVbrev (o : OpRR) (m : ModMod) (s : State) : Host.Outcome State Fault Refusal :=
  runPriv ⟨o.st, 3, .lanes, [vDst o.a, vSrc o.b]⟩ needStart (do
    let b ← readV 0 o.b
    let t ← self
    let w := modWidth m
    let n := t.effective w
    useLanes w 0 n
    writeV o.a w fun e =>
      if e < n then
        let r := reverseBits (ceilLog2 n) e
        some (if r < n then elAt b w r else 0)
      else none) s

end Sys2Proof.Machine
end

