-- ==== Sys2Proof/Machine/Power.lean ====
section
/-! DEFINITION. Budget periods and operating points (R378 to R382). -/

namespace Sys2Proof.Machine

/-! ## Budget periods (R379) -/

/-- A colony's budgets after `n` period starts: new allocations are in force, and each remaining count is the allocation
less the deficit that is carried. -/
def Colony.nextPeriod (c : Colony) (n : Nat) : Colony :=
  let alloc : Nat → Nat := fun r => match lookupD 0 c.nextAlloc r with
    | 0 => c.allocOf r
    | a + 1 => a
  let entries := (List.range 8).map fun r => (r, alloc r, min (alloc r : Int) (lookupD 0 c.rem r + n * alloc r))
  { c with
    alloc := entries.foldl (fun m e => storeAt unlimited e.1 e.2.1 m) []
    nextAlloc := []
    rem := entries.foldl (fun m e => if e.2.1 = unlimited then m else storeAt 0 e.1 e.2.2 m) [] }

/-- The start of a budget period: what has waited for a budget is tried again. -/
def startPeriod : M Unit := do
  modify fun s =>
    let n := s.time / 1000 - s.units.period
    { s with units := { s.units with
      period := s.time / 1000
      colonies := s.units.colonies.map fun e => (e.1, e.2.map fun c => c.nextPeriod n)
      islands := s.units.islands.map fun e => (e.1, { e.2 with used := 0 }) } }
  let s ← get
  for d in s.dies do
    for h in d.2.slots do
      recheckPops d.1 h.1
  for q in s.units.queues do
    if q.2.cmds.isEmpty then pure () else post (.copyCommand q.1)
  for c in s.cores do
    if c.2.queue.isEmpty then pure () else post (.dispatchRound (c.1 / 4))

/-- `BUDGET_PERIOD` (R379). -/
def execBudgetPeriod (s : State) : Host.Outcome State Fault Refusal :=
  match s.now with
  | .budgetPeriod => runEvent startPeriod s
  | _ => .next s

/-! ## Operating points (R382) -/

/-- The operating points of an island, in MHz. -/
def operatingPoints : List Nat := [1700, 1500, 1300, 1000]

/-- `OPERATING_POINT` (R382): the management controller sets an island's point and its energy allocation. -/
def execOperatingPoint (s : State) : Host.Outcome State Fault Refusal :=
  match s.now with
  | .operatingPoint island mhz energy => runEvent (modify fun s =>
      if island < 256 && operatingPoints.contains mhz then
        let i := lookupD Island.initial s.units.islands island
        { s with units := { s.units with
          islands := storeAt Island.initial island { i with mhz := mhz, alloc := energy } s.units.islands } }
      else s) s
  | _ => .next s

end Sys2Proof.Machine
end

