-- ==== Sys2Proof/Machine/Slices.lean ====
section
/-! DEFINITION. Time slices, forced saves, and the save and load of colonies (R142, R143, R373 to R377, R310, R336). -/

namespace Sys2Proof.Machine

/-! ## Slices (R373, R375, R376) -/

/-- The slice after entry `i`, which was to end at `end_`: the next entry of the cycle, or the first of the next cycle, with
which the shadow comes into force. Log 70 (DEDUCED). -/
def State.nextSlice (s : State) (i end_ : Nat) : State :=
  match (slotEntries s.units.slots).find? (fun e => e.1 > i) with
  | some (j, d) => { s with units := { s.units with slice := some (j, end_ + d, false) } }
  | none =>
    let s := s.adoptShadow
    let next := (s.scheduled end_).map fun e => (e.1, e.2, false)
    { s with units := { s.units with slice := next } }

/-- The end of a slice: its colony yields with the entry's grace, and the next slice begins. Log 70 (DEDUCED). -/
def sliceEnd (slot : Nat) : M Unit := do
  let s ← get
  match s.units.slice with
  | none =>
    let first := (s.scheduled s.time).map fun e => (e.1, e.2, false)
    set { s with units := { s.units with slice := first } }
  | some (i, end_, _) =>
    if slot ≠ i then pure ()
    else do
      let id := s.slotOwner i
      let loaded : Bool := match s.colony id with
        | some c => c.state = .loaded
        | none => false
      if loaded then startYield id i false (fieldAt (lookupD 0 s.units.slots i) 24 16 * 1000) else pure ()
      modify fun s => s.nextSlice i end_

/-- `SLICE_END` (R376). -/
def execSliceEnd (s : State) : Host.Outcome State Fault Refusal :=
  match s.now with
  | .sliceEnd _ slot => runEvent (sliceEnd slot) s
  | _ => .next s

/-! ## Forced saves (R142, R143) -/

/-- Whether the instruction in a strand's instruction register is `wfi` (R390). -/
def Strand.atWfi (t : Strand) : Bool :=
  match decodeWords t.ir with
  | some (.ok (.wfi _)) => true
  | _ => false

/-- A waiting instruction given up with no effect; `wfi` is resumed after it. Log 70 (DEDUCED). -/
def Strand.abandon (t : Strand) : Strand :=
  { t with
    pcc := if t.asleep && t.atWfi then t.pccAt t.npc else t.pcc
    asleep := false
    refusedAt := none
    reoffer := false
    answers := [] }

/-- Stops a strand at its boundary, or as soon as what it has issued has completed. Log 70 (DEDUCED). -/
def forceStrand (sid : Nat) : M Unit := do
  cancelPop sid
  withdraw sid
  modStrand sid fun t => if t.asked.isEmpty && !t.gangIssued then t.abandon else t

/-- The forced save of the strands of a colony that have not stopped. -/
def forcedSave (id : Nat) : M Unit := do
  let s ← get
  match s.colony id with
  | none => pure ()
  | some c => match c.state, c.yield with
    | .yielding, some y =>
      if y.forced then pure ()
      else do
        set (s.withColony id (some { c with yield := some { y with forced := true, deadline := s.time } }))
        for sid in s.colonyStrands id do
          if y.stopped.contains sid then pure () else forceStrand sid
    | _, _ => pure ()

/-- `FORCED_SAVE` (R142). -/
def execForcedSave (s : State) : Host.Outcome State Fault Refusal :=
  match s.now with
  | .forcedSave id => runEvent (forcedSave id) s
  | _ => .next s

/-- The reissue record of a load (R143) whose request is `p`, with its destination, width code and sign. -/
def reissueRecord (dst scope width : Nat) (sx : Bool) (p : Packet) : Reissue :=
  BitVec.ofNat 128 (2 ^ 112 + dst % 256 * 2 ^ 104 + scope % 8 * 2 ^ 100 + (if sx then 2 ^ 99 else 0) + width % 8 * 2 ^ 96 +
    p.dst * 2 ^ 41 + p.addr)

/-- The reissue record of the plain load that an instruction is, if it is one. -/
def Instr.reissue (i : Instr) (t : Strand) (p : Packet) : Option Reissue :=
  match i with
  | .ld o m => if m.ord = 0 then
      some (reissueRecord (t.physOf o.a.toNat) m.scope.toNat m.width.toNat m.sx p) else none
  | .ldc o m => if m.ord = 0 then some (reissueRecord (t.physOf o.a.toNat) m.scope.toNat 4 false p) else none
  | _ => none

/-- A load whose value has not come within 4096 clk of a forced save: a plain one is recorded for reissue and has completed;
any other is executed again. A record that is reissued stays a record. A reply that comes later is discarded. Log 60 (DEDUCED). Log 70 (DEDUCED). -/
def giveUpLoad (sid : Nat) : M Unit := do
  let s ← get
  let t := s.strand sid
  let mine := fun (r : Request) => r.sid = sid && r.use = .instr && t.asked.contains r.txn
  if !s.waitsForReads sid then pure ()
  else do
    modify fun s => { s with units := { s.units with requests := s.units.requests.filter fun r => !mine r } }
    let record := match fetch { s with cur := sid }, s.units.requests.find? mine with
      | .ok ws u, some r => match decodeWords ws with
        | some (.ok i) =>
          if t.reissue.isEmpty then (Instr.reissue i t r.packet).map fun q => (q, t.pccAt u.self.npc) else none
        | _ => none
      | _, _ => none
    let t := { t with asked := [], answers := [] }
    match record with
    | some (q, pcc) => setStrand sid { t with reissue := t.reissue ++ [q], pcc := pcc, instret := t.instret + 1 }
    | none => setStrand sid t

/-- `LOAD_REISSUE_TIMEOUT` (R142). -/
def execLoadReissueTimeout (s : State) : Host.Outcome State Fault Refusal :=
  match s.now with
  | .loadReissueTimeout sid => runEvent (giveUpLoad sid) s
  | _ => .next s

/-! ## Saving a colony (R376, R377) -/

/-- Writes granules with their tags to a colony's save area. -/
def saveGranules (id : Nat) (c : Colony) : Nat → List Reg → M Unit
  | _, [] => pure ()
  | off, r :: rs => do
    let a ← unitWrite id ⟨true, 0⟩ ⟨Cap.offset c.save.val off, c.save.tag⟩ 0 (leBytes 16 r.val.toNat)
    match a with
    | some a => if r.tag then modify fun s => s.putTag a true else pure ()
    | none => pure ()
    saveGranules id c (off + 16) rs

/-- Offsets of a die block and of a quad record in a save area (R377). -/
def dieBlockOff (j : Nat) : Nat := 0x1000 + 0x400000 * j
def quadRecordOff (id q : Nat) : Nat := 0x1000 + 0x400000 * colonyBlocks id + 0x220000 * q

/-- A device-defined block of `n` granules: it carries the number under which the package keeps what it stands for. Log 25 (DESIGN CHOICE). -/
def deviceBlock (ticket n : Nat) : List Reg :=
  granule ticket :: (List.range (n - 1)).map fun i =>
    ⟨BitVec.ofNat 128 (leNat ((List.range 16).map fun k => Config.deviceBlock (16 * (i + 1) + k))), false⟩

/-- The slices of a quad in physical lane order, as granules. -/
def State.sliceGranules (s : State) (q : Nat) : List Reg :=
  (List.range 65536).map fun i =>
    let a := sliceAddr q 0 0 + 16 * i
    ⟨BitVec.ofNat 128 (leNat (s.bytesAt a 16)), s.tagAt a⟩

/-- Quads of a colony, as package quad numbers. -/
def quadsOf (id : Nat) : List Nat := (List.range (colonyQuads id)).map fun i => (id - 2 ^ Nat.log2 id) * colonyQuads id + i

/-- The image flags of a strand that is saved with its colony (R141). -/
def State.saveFlags (s : State) (y : Yield) (sid : Nat) : Nat :=
  (if y.stopped.contains sid then 0 else 1) + (if (s.strand sid).halted then 4 else 0)

/-- The image of a strand that is saved with its colony. -/
def State.savedImage (s : State) (y : Yield) (sid : Nat) : List Reg := s.imageOf sid (s.saveFlags y sid)

/-- Writes the save area of a colony. -/
def writeSave (id : Nat) (c : Colony) (y : Yield) (ticket : Nat) : M Unit := do
  let s ← get
  let strands := s.colonyStrands id
  let head := saveHeader id s.time (strands.any fun sid => !y.stopped.contains sid)
  saveGranules id c 0 [granule (leNat (head.take 16)), granule (leNat (head.drop 16))]
  for j in List.range (colonyBlocks id) do
    saveGranules id c (dieBlockOff j) (deviceBlock ticket 0x40000)
  for e in (quadsOf id).zipIdx do
    let off := quadRecordOff id e.2
    saveGranules id c off (deviceBlock ticket 0x1000)
    for p in List.range 8 do
      let sid := e.1 * 8 + p
      saveGranules id c (off + 0x10000 + 0x20800 * p)
        (if strands.contains sid then s.savedImage y sid else List.replicate imageGranules Reg.zero)
    saveGranules id c (off + 0x120000) (s.sliceGranules e.1)

/-- What the package keeps of a colony beside its images. Log 25 (DESIGN CHOICE). -/
def State.vaultOf (s : State) (id ticket : Nat) : VaultEntry :=
  let strands := s.colonyStrands id
  { ticket := ticket
    colony := id
    strands := strands.map fun sid => (sid, s.strand sid)
    quads := (s.quads.filter fun e => covers id e.1)
    queues := (s.cores.filter fun e => covers id (e.1 / 4)).map fun e => (e.1, e.2.queue.filter fun x => x.followOn.isSome)
    homes := s.dies.flatMap fun d => (d.2.slots.filter fun e => e.2.used && e.2.colony = id).map fun e => (d.1, e.1, e.2)
    items := s.dies.flatMap fun d => (d.2.items.filter fun x => x.colony = id).map fun x => (d.1, x)
    writes := [] }

/-- Takes a saved colony off its quads: its strands stop running, and its homes and items wait. -/
def State.unload (s : State) (id : Nat) : State :=
  let gone := s.colonyStrands id
  let s := gone.foldl (fun s sid => s.withStrand sid Strand.idle) s
  let s := (quadsOf id).foldl (fun s q =>
    let v := s.quad q
    s.withQuad q { QuadState.empty with tenant := v.tenant, nextOp := v.nextOp, saves := v.saves }) s
  let s := s.cores.foldl (fun s e => if covers id (e.1 / 4) then s.withCore e.1 { s.core e.1 with queue := [] } else s) s
  { s with dies := s.dies.map fun d => (d.1, { d.2 with
      slots := d.2.slots.map fun e => (e.1, if e.2.used && e.2.colony = id then { e.2 with saved := true } else e.2)
      items := d.2.items.map fun x => if x.colony = id then { x with away := true } else x }) }

/-- Saves a colony whose strands have all stopped or ended (R376). Log 62 (DEDUCED). -/
def colonySaveDone (id : Nat) : M Unit := do
  let s ← get
  match s.colony id with
  | none => pure ()
  | some c => match c.state, c.yield with
    | .yielding, some y =>
      let strands := s.colonyStrands id
      let items := s.dies.any fun d => d.2.items.any fun x => x.colony = id
      let deferred := s.quads.any fun e => covers id e.1 && !e.2.deferred.isEmpty
      if !strands.all s.stoppedForYield then pure ()
      else if strands.isEmpty && !deferred && s.heldSlots id = 0 && !items && s.heldCopies id = 0 then
        putColony id (some { c with state := if y.hold then .held else .idle, yield := none, hasImage := false })
      else do
        let ticket := s.units.vault.length + 1
        for core in (quadsOf id).flatMap fun q => (List.range 4).map fun i => q * 4 + i do
          modify fun s => s.releaseCore core
        for sid in strands do
          modify fun s => s.noteSave sid (s.strand sid)
        writeSave id c y ticket
        modify fun s => { s with units := { s.units with vault := s.units.vault ++ [s.vaultOf id ticket] } }
        modify fun s => s.unload id
        putColony id (some { c with
          state := if y.hold then .held else .saved, yield := none, hasImage := true, image := ticket })
        raiseControl cSlice (BitVec.ofNat 64 y.slot)
    | _, _ => pure ()

/-- `COLONY_SAVE_DONE` (R376). -/
def execColonySaveDone (s : State) : Host.Outcome State Fault Refusal :=
  match s.now with
  | .colonySaveDone id => runEvent (colonySaveDone id) s
  | _ => .next s

/-! ## Loading a colony (R375, R377) -/

/-- Reads granules of a save area with their tags; none when one cannot be read. -/
def loadSaved (id : Nat) (c : Colony) : Nat → Nat → M (Option (List Reg))
  | _, 0 => pure (some [])
  | off, n + 1 => do
    let r ← attempt (do
      let a : Reg := ⟨Cap.offset c.save.val off, c.save.tag⟩
      checkCapAs ⟨true, 0⟩ a Cap.ld [Cap.kMemory] 16
      let (p, _) ← translateFor 8 id (Cap.tenant a.val) (Cap.cursor a.val) Cap.ld
      let s ← get
      raiseIf (pkgOf p ≠ s.pkg) cXlat 0
      checkSectors (Cap.cursor a.val) (localOf p) 16
      let bs ← homeRead (localOf p) 16
      let s ← get
      pure (⟨BitVec.ofNat 128 (leNat bs), s.tagAt (localOf p)⟩ : Reg))
    match r with
    | .error _ => pure none
    | .ok g => do
      let rest ← loadSaved id c (off + 16) n
      pure (rest.map fun rs => g :: rs)

/-- Restores one strand from its image and from what the package has kept of it: the copies that have come for its tiles since, and
its stream, which goes on. -/
def restoreStrand (v : VaultEntry) (sid : Nat) (base : Strand) (rs : List Reg) : M Unit :=
  if !headerOk rs then pure ()
  else do
    setStrand sid { base with vec := { base.vec with lanes := [] }, asked := [], answers := [] }
    asStrand sid (restoreImage rs false)
    modStrand sid fun t => { t with stream := base.stream }
    for w in v.writes do
      if w.1 = sid then tileWrite sid w.2.1 w.2.2.1 w.2.2.2 else pure ()
    let s ← get
    let asks := s.units.requests.any fun r => r.sid = sid && (r.use = .index false || r.use = .index true)
    if base.stream.isSome && !asks then post (.ixMergeStep sid) else pure ()

/-- Restores one quad of a colony: its slices, its units, and its strands one after another. -/
def restoreQuad (id : Nat) (c : Colony) (v : VaultEntry) (q i : Nat) : M Bool := do
  let off := quadRecordOff id i
  let slices ← loadSaved id c (off + 0x120000) 65536
  let images ← (List.range 8).mapM fun p => loadSaved id c (off + 0x10000 + 0x20800 * p) imageGranules
  match slices with
  | none => pure false
  | some gs =>
    if images.any (·.isNone) then pure false
    else do
      modify fun s => s.enterQuad q c.tenant
      for e in gs.zipIdx do
        modify fun s =>
          let a := sliceAddr q 0 0 + 16 * e.2
          (s.putBytes a (leBytes 16 e.1.val.toNat)).putTag a e.1.tag
      match v.quads.find? (fun e => e.1 = q) with
      | some e => modQuad q fun w => { e.2 with tenant := w.tenant, saves := w.saves }
      | none => pure ()
      for e in images.zipIdx do
        match v.strands.find? (fun x => x.1 = q * 8 + e.2), e.1 with
        | some x, some rs => restoreStrand v x.1 x.2 rs
        | _, _ => pure ()
      pure true

/-- The items of a colony may be proposed again (R336). After its last save they have stayed in their engines; those of an older one
are put back. Log 25 (DESIGN CHOICE). -/
def restoreItems (id : Nat) (last : Bool) (v : VaultEntry) : M Unit :=
  if last then modify fun s => { s with dies := s.dies.map fun d =>
    (d.1, { d.2 with items := d.2.items.map fun x => if x.colony = id then { x with away := false } else x }) }
  else do
    modify fun s => { s with dies := s.dies.map fun d =>
      (d.1, { d.2 with items := d.2.items.filter fun x => x.colony ≠ id }) }
    for e in v.items do
      modItems e.1 fun l => l ++ [{ e.2 with away := false }]

/-- Puts back the homes and items of a colony (R336): what has waited for them goes on. -/
def restoreSwarm (id : Nat) (last : Bool) (v : VaultEntry) : M Unit := do
  for e in v.homes do
    modSlot e.1 e.2.1 fun h =>
      let h := if h.used && h.gen = e.2.2.gen then h else e.2.2
      { h with saved := false }
  restoreItems id last v
  for e in v.homes do
    applyKept e.1 e.2.1
  let s ← get
  for d in s.dies do
    for i in (d.2.items.filterMap fun x => if x.colony = id then some (x.inst, x.gen) else none).eraseDups do
      if i.1 / 2048 = s.pkg then recheckPops (instDie i.1) (instSlot i.1)
      else sendReport i.1 i.2 (engineName s.pkg d.1) true

/-- Restores a saved colony from its save area. An image of another firmware version or colony, or one whose device-defined
blocks this package has not written, is not restored. Log 25 (DESIGN CHOICE). -/
def restoreColony (id : Nat) (c : Colony) : M Unit := do
  let head ← saveBytes c 0 32
  let mark ← saveBytes c 0x1000 8
  let s ← get
  let entry := mark.bind fun b => s.units.vault.find? fun v => v.ticket = leNat b && v.colony = id
  match head, entry with
  | some hd, some v =>
    if !headerMatches id hd then putColony id (some { c with hasImage := false })
    else do
      putColony id (some { c with state := .loaded, hasImage := false })
      let done ← (quadsOf id).zipIdx.mapM fun e => restoreQuad id c v e.1 e.2
      if !done.all (fun b => b) then do
        modify fun s => s.unload id
        putColony id (some { c with hasImage := false })
      else do
        for e in v.queues do
          modCore e.1 fun k => { k with queue := k.queue ++ e.2 }
        restoreSwarm id (!s.units.vault.any fun w => w.colony = id && w.ticket > v.ticket) v
        for q in quadsOf id do
          for i in List.range 4 do
            modify fun s => s.acquireCore (q * 4 + i)
          offerLanes q
          let s ← get
          if (List.range 4).any fun i => !(s.core (q * 4 + i)).queue.isEmpty then post (.dispatchRound q) else pure ()
        releaseScout id
  | _, _ => putColony id (some { c with hasImage := false })

/-- Loads the colony of a slice, or a fixed colony that was saved (R375). -/
def colonyLoad (id : Nat) : M Unit := do
  modify fun s => match s.units.slice with
    | some (i, e, _) => if s.slotOwner i = id then { s with units := { s.units with slice := some (i, e, true) } } else s
    | none => s
  let s ← get
  match s.colony id with
  | none => pure ()
  | some c =>
    if !s.loadable id then pure ()
    else match c.state with
      | .idle => putColony id (some { c with state := .loaded })
      | .saved => if c.hasImage then restoreColony id c else pure ()
      | _ => pure ()

/-- `COLONY_LOAD` (R375). -/
def execColonyLoad (s : State) : Host.Outcome State Fault Refusal :=
  match s.now with
  | .colonyLoad id => runEvent (colonyLoad id) s
  | _ => .next s

end Sys2Proof.Machine
end

