-- ==== Sys2Proof/Machine/VectorMem.lean ====
section
/-! DEFINITION. Vector memory instructions: element accesses with restart at a faulting element, scatter-combine, and the
lane-private slices (R186 to R191). -/

namespace Sys2Proof.Machine

/-! ## Elements in order (R187) -/

/-- Performs an action for element after element: the results up to the first element that raises a cause, and that one
with its cause and value. -/
def untilFault {α : Type} (one : Nat → M α) : List Nat → M (List (Nat × α) × Option (Nat × BitVec 8 × Word))
  | [] => pure ([], none)
  | e :: es => do
    let r ← attempt (one e)
    match r with
    | .ok a => do
      let (rs, f) ← untilFault one es
      pure ((e, a) :: rs, f)
    | .error (.trap c v _) => pure ([], some (e, c, v))
    | .error x => throw x

/-- An element fault: `vstart`, `felem` and `faddr` name the element; an error in a sector has the element's address as
its value. Log 31 (DEDUCED). -/
def elementFault {α : Type} (e va : Nat) (c : BitVec 8) (v : Word) : M α := do
  let a := BitVec.ofNat 64 va
  modSelf fun t => { t with vec := { t.vec with vstart := e }, felem := e, faddr := a }
  throw (.trapKeep c (if c = cEcc || c = cInteg then a else v) none)

/-- What the elements of a vector memory instruction are: width, start, effective length, mask, and the base with each
element's cursor. -/
structure VecWork where
  w : Nat
  start : Nat
  n : Nat
  mask : BitVec 512
  cap : Nat → Reg

/-- The active elements, ascending. -/
def VecWork.active (k : VecWork) : List Nat := (List.range k.n).filter fun e => k.start ≤ e && k.mask.getLsbD e

/-- The address of an element. -/
def VecWork.addr (k : VecWork) (e : Nat) : Nat := Cap.cursor (k.cap e).val

/-- The elements of an instruction whose base, offsets and mask have been read. -/
def vecWork (m : VecMod) (base : Reg) (mask : BitVec 512) (offset : Nat → Int) : M VecWork := do
  let t ← self
  let w := laneWidth m
  useLanes w t.vec.vstart (t.effective w)
  pure ⟨w, t.vec.vstart, t.effective w, mask, fun e => ⟨Cap.offset base.val (offset e), base.tag⟩⟩

/-- `vstart` becomes 0 when the instruction completes. -/
def clearStart : M Unit := modSelf fun t => { t with vec := { t.vec with vstart := 0 } }

/-- The loads of R189. -/
def loadElements (dst : RegNo) (zero : Bool) (k : VecWork) : M Unit := do
  let n := k.w / 8
  let (rs, f) ← untilFault (fun e => do
    let (bs, _) ← loadThrough (k.cap e) Cap.ld n Manner.plain
    pure (leNat bs)) k.active
  let stop := match f with
    | some (e, _, _) => e
    | none => k.n
  writeV dst k.w fun e =>
    if k.start ≤ e && e < stop then
      match rs.find? fun r => r.1 = e with
      | some r => some r.2
      | none => if zero then some 0 else none
    else none
  match f with
  | some (e, c, v) => elementFault e (k.addr e) c v
  | none => clearStart

/-- Performs the distinct addresses among elements that have passed their checks, each at the lowest element that names it and with
all that do. Where one raises a cause, the elements below it are performed, and no other. Log 47 (DEDUCED). -/
def byAddress (rs : List (Nat × Nat × Word)) (one : Nat → Nat → Word → List Nat → M Unit) :
    M (Option (Nat × BitVec 8 × Word)) := do
  let perform := fun (rs : List (Nat × Nat × Word)) => untilFault (fun e =>
    match rs.find? fun r => r.1 = e with
    | some (_, p, pte) =>
      if rs.any fun r => r.1 < e && r.2.1 = p then pure ()
      else one e p pte ((rs.filter fun r => r.2.1 = p).map (·.1))
    | none => pure ()) (rs.map (·.1))
  let s ← get
  let (_, g) ← perform rs
  match g with
  | none => pure none
  | some f => do
    modify fun t => s.undo t
    let _ ← perform (rs.filter fun r => r.1 < f.1)
    pure (some f)

/-- Checks the active elements, performs the addresses of those below the first that fails, and ends with that one's fault. -/
def checkedElements (k : VecWork) (perm : BitVec 12) (one : Nat → Nat → Word → List Nat → M Unit) : M Unit := do
  let (rs, f) ← untilFault (fun e => checkAccess (k.cap e) perm [Cap.kMemory] (k.w / 8)) k.active
  let g ← byAddress rs one
  match g.orElse fun _ => f with
  | some (e, c, v) => elementFault e (k.addr e) c v
  | none => clearStart

/-- The stores of R189: elements that name the same address are written once, with the value of the highest of them. Log 47 (DEDUCED). -/
def storeElements (data : List Word) (k : VecWork) : M Unit :=
  checkedElements k Cap.st fun e p pte es =>
    storeBytes (k.addr e) p (leBytes (k.w / 8) (elAt data k.w (es.getLastD e))) false Manner.plain pte (Cap.tenant (k.cap e).val)

/-- One step of a scatter-combine sum (R190). -/
def combineElement (ty : ElType) (x y : Nat) : Nat × Nat :=
  match ty with
  | .int w _ => ((x + y) % 2 ^ w, 0)
  | .fp f =>
    let (v, fl) := Float.add 0 (Float.decode f x) (Float.decode f y)
    let (c, fl2) := Float.round f 0 0 v
    (c, fl ||| fl2)

/-- The sums of R190: each address is read, summed in ascending order of its elements, and written, one after another. Log 47 (DEDUCED). -/
def combineElements (ty : ElType) (data : List Word) (k : VecWork) : M Unit :=
  checkedElements k (Cap.ld ||| Cap.st) fun e p pte es => do
    let (bs, _) ← loadBytes (k.addr e) p (k.w / 8) Manner.plain pte (Cap.tenant (k.cap e).val)
    let (x, fl) := es.foldl (fun (acc : Nat × Nat) i =>
      let (y, fl) := combineElement ty acc.1 (elAt data k.w i)
      (y, acc.2 ||| fl)) (leNat bs, 0)
    setFlags fl
    storeBytes (k.addr e) p (leBytes (k.w / 8) x) false Manner.plain pte (Cap.tenant (k.cap e).val)

/-! ## Addresses (R186) -/

/-- Consecutive elements. -/
def unitStride (imm : Imm) (w : Nat) (e : Nat) : Int := Imm.int imm + e * (w / 8 : Nat)

/-- Elements at a stride in bytes. -/
def byteStride (imm : Imm) (step : Word) (e : Nat) : Int := Imm.int imm + e * step.toInt

/-- Elements at indices of a vector register. -/
def indexed (imm : Imm) (ix : List Word) (w : Nat) (e : Nat) : Int := Imm.int imm + (elAt ix w e * (w / 8) : Nat)

/-! ## The instructions -/

/-- `vld`. -/
def execVld (o : OpRX) (m : VecMod) (s : State) : Host.Outcome State Fault Refusal :=
  runPriv ⟨o.st, 0, .access, [vDst o.a, wSrc o.b] ++ maskUse m.mask⟩ needGrant (do
    let b ← readW 0 o.b
    let k ← readK 1 m.mask.toNat
    let work ← vecWork m b k (unitStride o.imm (laneWidth m))
    loadElements o.a m.zero work) s

/-- `vst`. -/
def execVst (o : OpRX) (m : VecMod) (s : State) : Host.Outcome State Fault Refusal :=
  runPriv ⟨o.st, 0, .access, [vSrc o.a, wSrc o.b] ++ maskUse m.mask⟩ needGrant (do
    let a ← readV 0 o.a
    let b ← readW 1 o.b
    let k ← readK 2 m.mask.toNat
    let work ← vecWork m b k (unitStride o.imm (laneWidth m))
    storeElements a work) s

/-- `vlds`. -/
def execVlds (o : OpRRR) (m : VecMod) (s : State) : Host.Outcome State Fault Refusal :=
  runPriv ⟨o.st, 0, .access, [vDst o.a, wSrc o.b, wSrc o.c] ++ maskUse m.mask⟩ needGrant (do
    let b ← readW 0 o.b
    let c ← readX 1 o.c
    let k ← readK 2 m.mask.toNat
    let work ← vecWork m b k (byteStride o.imm c)
    loadElements o.a m.zero work) s

/-- `vsts`. -/
def execVsts (o : OpRRR) (m : VecMod) (s : State) : Host.Outcome State Fault Refusal :=
  runPriv ⟨o.st, 0, .access, [vSrc o.a, wSrc o.b, wSrc o.c] ++ maskUse m.mask⟩ needGrant (do
    let a ← readV 0 o.a
    let b ← readW 1 o.b
    let c ← readX 2 o.c
    let k ← readK 3 m.mask.toNat
    let work ← vecWork m b k (byteStride o.imm c)
    storeElements a work) s

/-- `vgat`. -/
def execVgat (o : OpRRR) (m : VecMod) (s : State) : Host.Outcome State Fault Refusal :=
  runPriv ⟨o.st, 0, .access, [vDst o.a, wSrc o.b, vSrc o.c] ++ maskUse m.mask⟩ needGrant (do
    let b ← readW 0 o.b
    let c ← readV 1 o.c
    let k ← readK 2 m.mask.toNat
    let work ← vecWork m b k (indexed o.imm c (laneWidth m))
    loadElements o.a m.zero work) s

/-- `vsca`. -/
def execVsca (o : OpRRR) (m : VecMod) (s : State) : Host.Outcome State Fault Refusal :=
  runPriv ⟨o.st, 0, .access, [vSrc o.a, wSrc o.b, vSrc o.c] ++ maskUse m.mask⟩ needGrant (do
    let a ← readV 0 o.a
    let b ← readW 1 o.b
    let c ← readV 2 o.c
    let k ← readK 3 m.mask.toNat
    let work ← vecWork m b k (indexed o.imm c (laneWidth m))
    storeElements a work) s

/-- `vscac` (R190). -/
def execVscac (o : OpRRR) (m : VecMod) (s : State) : Host.Outcome State Fault Refusal :=
  runPriv ⟨o.st, 0, .access, [vSrc o.a, wSrc o.b, vSrc o.c] ++ maskUse m.mask⟩ needGrant (do
    let a ← readV 0 o.a
    let b ← readW 1 o.b
    let c ← readV 2 o.c
    let k ← readK 3 m.mask.toNat
    let work ← vecWork m b k (indexed o.imm c (laneWidth m))
    combineElements (elTypeOf m) a work) s

/-! ## Lane-private slices (R191) -/

/-- The one check of `vldl` and `vstl`: the offset into each slice. -/
def sliceOffset (perm : BitVec 12) (c : Reg) : M Nat := do
  let a := Cap.cursor c.val
  let (p, _) ← checkAccess c perm [Cap.kMemory] 8
  let s ← get
  if pkgOf p ≠ s.pkg then raise cPerm a
  match place (localOf p) with
  | .aliasWindow o => if o ≥ 0x4000 then raise cBounds a else pure o
  | _ => raise cPerm a

/-- Runs an action for a slice access; its fault is an element fault at the first processed element. -/
def sliceAccess {α : Type} (start va : Nat) (m : M α) : M α := do
  let r ← attempt m
  match r with
  | .ok a => pure a
  | .error (.trap c v _) => elementFault start va c v
  | .error x => throw x

/-- Positions that hold a processed element. -/
def VecWork.positions (k : VecWork) : List Nat :=
  (List.range 64).filter fun p => (List.range (64 / k.w)).any fun j =>
    k.start ≤ p * (64 / k.w) + j && p * (64 / k.w) + j < k.n

/-- The address of a slice's bytes at an offset, for a lane position of the current strand. -/
def State.sliceAt (s : State) (p o : Nat) : Nat := sliceAddr (quadOf s.cur) (s.self.vec.lanes.getD p 0) o

/-- `vldl`. -/
def execVldl (o : OpRX) (m : VecMod) (s : State) : Host.Outcome State Fault Refusal :=
  runPriv ⟨o.st, 0, .access, [vDst o.a, wSrc o.b] ++ maskUse m.mask⟩ needGrant (do
    let c ← addressRX 0 o
    let k ← readK 1 m.mask.toNat
    let work ← vecWork m c k (fun _ => 0)
    let words ← sliceAccess work.start (Cap.cursor c.val) (do
      let off ← sliceOffset Cap.ld c
      work.positions.mapM fun p => do
        let s ← get
        checkSectors (Cap.cursor c.val) (s.sliceAt p off) 8
        let bs ← homeRead (s.sliceAt p off) 8
        pure (p, BitVec.ofNat 64 (leNat bs)))
    writeElements o.a work.w work.start work.n m.zero work.mask fun e =>
      let per := 64 / work.w
      match words.find? fun x => x.1 = e / per with
      | some x => (x.2.toNat / 2 ^ (e % per * work.w) % 2 ^ work.w, 0)
      | none => (0, 0)) s

/-- `vstl`. -/
def execVstl (o : OpRX) (m : VecMod) (s : State) : Host.Outcome State Fault Refusal :=
  runPriv ⟨o.st, 0, .access, [vSrc o.a, wSrc o.b] ++ maskUse m.mask⟩ needGrant (do
    let a ← readV 0 o.a
    let c ← addressRX 1 o
    let k ← readK 2 m.mask.toNat
    let work ← vecWork m c k (fun _ => 0)
    sliceAccess work.start (Cap.cursor c.val) (do
      let off ← sliceOffset Cap.st c
      for e in work.active do
        let s ← get
        let per := 64 / work.w
        homeWrite (s.sliceAt (e / per) (off + e % per * (work.w / 8))) (leBytes (work.w / 8) (elAt a work.w e)))
    clearStart) s

end Sys2Proof.Machine
end

