-- ==== Sys2Proof/Machine/Dispatch.lean ====
section
/-! DEFINITION. Dispatch: one arm per constructor of `Instr`. -/

namespace Sys2Proof.Machine

def exec (i : Instr) (s : State) : Host.Outcome State Fault Refusal :=
  match i with
  | .hold o => Sys2Proof.Machine.execHold o s
  | .mov o => Sys2Proof.Machine.execMov o s
  | .add o => Sys2Proof.Machine.execAdd o s
  | .sub o => Sys2Proof.Machine.execSub o s
  | .and o => Sys2Proof.Machine.execAnd o s
  | .or o => Sys2Proof.Machine.execOr o s
  | .xor o => Sys2Proof.Machine.execXor o s
  | .shl o => Sys2Proof.Machine.execShl o s
  | .shr o => Sys2Proof.Machine.execShr o s
  | .sra o => Sys2Proof.Machine.execSra o s
  | .mul o => Sys2Proof.Machine.execMul o s
  | .addi o => Sys2Proof.Machine.execAddi o s
  | .movi o => Sys2Proof.Machine.execMovi o s
  | .andi o => Sys2Proof.Machine.execAndi o s
  | .shli o => Sys2Proof.Machine.execShli o s
  | .shri o => Sys2Proof.Machine.execShri o s
  | .srai o => Sys2Proof.Machine.execSrai o s
  | .ceq o => Sys2Proof.Machine.execCeq o s
  | .clt o => Sys2Proof.Machine.execClt o s
  | .cltn o => Sys2Proof.Machine.execCltn o s
  | .sel o => Sys2Proof.Machine.execSel o s
  | .ldk o => Sys2Proof.Machine.execLdk o s
  | .bz o => Sys2Proof.Machine.execBz o s
  | .bnz o => Sys2Proof.Machine.execBnz o s
  | .blt o => Sys2Proof.Machine.execBlt o s
  | .bge o => Sys2Proof.Machine.execBge o s
  | .bltn o => Sys2Proof.Machine.execBltn o s
  | .bgen o => Sys2Proof.Machine.execBgen o s
  | .j o => Sys2Proof.Machine.execJ o s
  | .jr o => Sys2Proof.Machine.execJr o s
  | .call o => Sys2Proof.Machine.execCall o s
  | .callr o => Sys2Proof.Machine.execCallr o s
  | .ret o => Sys2Proof.Machine.execRet o s
  | .enter o => Sys2Proof.Machine.execEnter o s
  | .wshr o => Sys2Proof.Machine.execWshr o s
  | .ld o m => Sys2Proof.Machine.execLd o m s
  | .st o m => Sys2Proof.Machine.execSt o m s
  | .ldc o m => Sys2Proof.Machine.execLdc o m s
  | .stc o m => Sys2Proof.Machine.execStc o m s
  | .lea o => Sys2Proof.Machine.execLea o s
  | .amoAdd o m => Sys2Proof.Machine.execAmoAdd o m s
  | .amoAnd o m => Sys2Proof.Machine.execAmoAnd o m s
  | .amoOr o m => Sys2Proof.Machine.execAmoOr o m s
  | .amoXor o m => Sys2Proof.Machine.execAmoXor o m s
  | .amoMin o m => Sys2Proof.Machine.execAmoMin o m s
  | .amoMax o m => Sys2Proof.Machine.execAmoMax o m s
  | .amoMinn o m => Sys2Proof.Machine.execAmoMinn o m s
  | .amoMaxn o m => Sys2Proof.Machine.execAmoMaxn o m s
  | .amoSwap o m => Sys2Proof.Machine.execAmoSwap o m s
  | .cas o m => Sys2Proof.Machine.execCas o m s
  | .frd o m => Sys2Proof.Machine.execFrd o m s
  | .fwr o m => Sys2Proof.Machine.execFwr o m s
  | .arv o => Sys2Proof.Machine.execArv o s
  | .bwt o => Sys2Proof.Machine.execBwt o s
  | .ard o => Sys2Proof.Machine.execArd o s
  | .mon o => Sys2Proof.Machine.execMon o s
  | .wait o => Sys2Proof.Machine.execWait o s
  | .push o => Sys2Proof.Machine.execPush o s
  | .pop o => Sys2Proof.Machine.execPop o s
  | .sync o m => Sys2Proof.Machine.execSync o m s
  | .send o => Sys2Proof.Machine.execSend o s
  | .recv o => Sys2Proof.Machine.execRecv o s
  | .csrr o => Sys2Proof.Machine.execCsrr o s
  | .csrw o => Sys2Proof.Machine.execCsrw o s
  | .csrwTimecmp o => Sys2Proof.Machine.execCsrwTimecmp o s
  | .csrwRqovf o => Sys2Proof.Machine.execCsrwRqovf o s
  | .trap o => Sys2Proof.Machine.execTrap o s
  | .uret o => Sys2Proof.Machine.execUret o s
  | .fenceAcq o m => Sys2Proof.Machine.execFenceAcq o m s
  | .fenceRel o m => Sys2Proof.Machine.execFenceRel o m s
  | .fenceAr o m => Sys2Proof.Machine.execFenceAr o m s
  | .brk o => Sys2Proof.Machine.execBrk o s
  | .div o => Sys2Proof.Machine.execDiv o s
  | .divn o => Sys2Proof.Machine.execDivn o s
  | .rem o => Sys2Proof.Machine.execRem o s
  | .remn o => Sys2Proof.Machine.execRemn o s
  | .mulh o => Sys2Proof.Machine.execMulh o s
  | .mulhn o => Sys2Proof.Machine.execMulhn o s
  | .clz o => Sys2Proof.Machine.execClz o s
  | .ctz o => Sys2Proof.Machine.execCtz o s
  | .popc o => Sys2Proof.Machine.execPopc o s
  | .bswap o => Sys2Proof.Machine.execBswap o s
  | .rot o => Sys2Proof.Machine.execRot o s
  | .bext o => Sys2Proof.Machine.execBext o s
  | .bins o => Sys2Proof.Machine.execBins o s
  | .min o => Sys2Proof.Machine.execMin o s
  | .max o => Sys2Proof.Machine.execMax o s
  | .minn o => Sys2Proof.Machine.execMinn o s
  | .maxn o => Sys2Proof.Machine.execMaxn o s
  | .fadd o m => Sys2Proof.Machine.execFadd o m s
  | .fsub o m => Sys2Proof.Machine.execFsub o m s
  | .fmul o m => Sys2Proof.Machine.execFmul o m s
  | .fdiv o m => Sys2Proof.Machine.execFdiv o m s
  | .fsqrt o m => Sys2Proof.Machine.execFsqrt o m s
  | .fma o m => Sys2Proof.Machine.execFma o m s
  | .fmin o m => Sys2Proof.Machine.execFmin o m s
  | .fmax o m => Sys2Proof.Machine.execFmax o m s
  | .fceq o m => Sys2Proof.Machine.execFceq o m s
  | .fclt o m => Sys2Proof.Machine.execFclt o m s
  | .fcle o m => Sys2Proof.Machine.execFcle o m s
  | .fcvt o m => Sys2Proof.Machine.execFcvt o m s
  | .fcvti o m => Sys2Proof.Machine.execFcvti o m s
  | .icvtf o m => Sys2Proof.Machine.execIcvtf o m s
  | .fclass o m => Sys2Proof.Machine.execFclass o m s
  | .cbase o => Sys2Proof.Machine.execCbase o s
  | .clen o => Sys2Proof.Machine.execClen o s
  | .cperm o => Sys2Proof.Machine.execCperm o s
  | .cbound o => Sys2Proof.Machine.execCbound o s
  | .crestr o => Sys2Proof.Machine.execCrestr o s
  | .ctid o => Sys2Proof.Machine.execCtid o s
  | .cclr o => Sys2Proof.Machine.execCclr o s
  | .cmint o => Sys2Proof.Machine.execCmint o s
  | .csub o => Sys2Proof.Machine.execCsub o s
  | .sret o => Sys2Proof.Machine.execSret o s
  | .hret o => Sys2Proof.Machine.execHret o s
  | .wfi o => Sys2Proof.Machine.execWfi o s
  | .ctxs o => Sys2Proof.Machine.execCtxs o s
  | .ctxr o => Sys2Proof.Machine.execCtxr o s
  | .cgtag o => Sys2Proof.Machine.execCgtag o s
  | .vclaim o => Sys2Proof.Machine.execVclaim o s
  | .vsetl o m => Sys2Proof.Machine.execVsetl o m s
  | .vld o m => Sys2Proof.Machine.execVld o m s
  | .vst o m => Sys2Proof.Machine.execVst o m s
  | .vlds o m => Sys2Proof.Machine.execVlds o m s
  | .vsts o m => Sys2Proof.Machine.execVsts o m s
  | .vgat o m => Sys2Proof.Machine.execVgat o m s
  | .vsca o m => Sys2Proof.Machine.execVsca o m s
  | .vscac o m => Sys2Proof.Machine.execVscac o m s
  | .vconf o m => Sys2Proof.Machine.execVconf o m s
  | .vldl o m => Sys2Proof.Machine.execVldl o m s
  | .vstl o m => Sys2Proof.Machine.execVstl o m s
  | .vadd o m => Sys2Proof.Machine.execVadd o m s
  | .vsub o m => Sys2Proof.Machine.execVsub o m s
  | .vmul o m => Sys2Proof.Machine.execVmul o m s
  | .vfma o m => Sys2Proof.Machine.execVfma o m s
  | .vmin o m => Sys2Proof.Machine.execVmin o m s
  | .vmax o m => Sys2Proof.Machine.execVmax o m s
  | .vand o m => Sys2Proof.Machine.execVand o m s
  | .vor o m => Sys2Proof.Machine.execVor o m s
  | .vxor o m => Sys2Proof.Machine.execVxor o m s
  | .vshl o m => Sys2Proof.Machine.execVshl o m s
  | .vshr o m => Sys2Proof.Machine.execVshr o m s
  | .vsra o m => Sys2Proof.Machine.execVsra o m s
  | .vceq o m => Sys2Proof.Machine.execVceq o m s
  | .vclt o m => Sys2Proof.Machine.execVclt o m s
  | .vcle o m => Sys2Proof.Machine.execVcle o m s
  | .vsel o m => Sys2Proof.Machine.execVsel o m s
  | .vbc o m => Sys2Proof.Machine.execVbc o m s
  | .vxt o m => Sys2Proof.Machine.execVxt o m s
  | .vredSum o m => Sys2Proof.Machine.execVredSum o m s
  | .vredMin o m => Sys2Proof.Machine.execVredMin o m s
  | .vredMax o m => Sys2Proof.Machine.execVredMax o m s
  | .vredAnd o m => Sys2Proof.Machine.execVredAnd o m s
  | .vredOr o m => Sys2Proof.Machine.execVredOr o m s
  | .vredXor o m => Sys2Proof.Machine.execVredXor o m s
  | .vscanSum o m => Sys2Proof.Machine.execVscanSum o m s
  | .vscanMin o m => Sys2Proof.Machine.execVscanMin o m s
  | .vscanMax o m => Sys2Proof.Machine.execVscanMax o m s
  | .vscanAnd o m => Sys2Proof.Machine.execVscanAnd o m s
  | .vscanOr o m => Sys2Proof.Machine.execVscanOr o m s
  | .vscanXor o m => Sys2Proof.Machine.execVscanXor o m s
  | .vcvt o m => Sys2Proof.Machine.execVcvt o m s
  | .vexp2 o m => Sys2Proof.Machine.execVexp2 o m s
  | .vlog2 o m => Sys2Proof.Machine.execVlog2 o m s
  | .vrcp o m => Sys2Proof.Machine.execVrcp o m s
  | .vrsq o m => Sys2Proof.Machine.execVrsq o m s
  | .vperm o m => Sys2Proof.Machine.execVperm o m s
  | .vcmpz o m => Sys2Proof.Machine.execVcmpz o m s
  | .vxpd o m => Sys2Proof.Machine.execVxpd o m s
  | .vseed o => Sys2Proof.Machine.execVseed o s
  | .kand o => Sys2Proof.Machine.execKand o s
  | .kor o => Sys2Proof.Machine.execKor o s
  | .kpop o => Sys2Proof.Machine.execKpop o s
  | .kfirst o => Sys2Proof.Machine.execKfirst o s
  | .mqld o m => Sys2Proof.Machine.execMqld o m s
  | .mcld o m => Sys2Proof.Machine.execMcld o m s
  | .mqget o m => Sys2Proof.Machine.execMqget o m s
  | .vmadd o m => Sys2Proof.Machine.execVmadd o m s
  | .vmsub o m => Sys2Proof.Machine.execVmsub o m s
  | .vmmul o m => Sys2Proof.Machine.execVmmul o m s
  | .vmmac o m => Sys2Proof.Machine.execVmmac o m s
  | .vmbf o m => Sys2Proof.Machine.execVmbf o m s
  | .vmibf o m => Sys2Proof.Machine.execVmibf o m s
  | .vbfxGather o m => Sys2Proof.Machine.execVbfxGather o m s
  | .vbfxScatter o m => Sys2Proof.Machine.execVbfxScatter o m s
  | .vbrev o m => Sys2Proof.Machine.execVbrev o m s
  | .vmred o m => Sys2Proof.Machine.execVmred o m s
  | .vmwide o m => Sys2Proof.Machine.execVmwide o m s
  | .tcfg o => Sys2Proof.Machine.execTcfg o s
  | .tdesc o => Sys2Proof.Machine.execTdesc o s
  | .tld o m => Sys2Proof.Machine.execTld o m s
  | .tst o m => Sys2Proof.Machine.execTst o m s
  | .tzero o => Sys2Proof.Machine.execTzero o s
  | .mma o => Sys2Proof.Machine.execMma o s
  | .mmag o => Sys2Proof.Machine.execMmag o s
  | .mmcsr o => Sys2Proof.Machine.execMmcsr o s
  | .mmbsr o => Sys2Proof.Machine.execMmbsr o s
  | .mmt o => Sys2Proof.Machine.execMmt o s
  | .accrd o m => Sys2Proof.Machine.execAccrd o m s
  | .accwm o => Sys2Proof.Machine.execAccwm o s
  | .accz o => Sys2Proof.Machine.execAccz o s
  | .ttr o => Sys2Proof.Machine.execTtr o s
  | .ixs o => Sys2Proof.Machine.execIxs o s
  | .ixget o => Sys2Proof.Machine.execIxget o s
  | .ixst o => Sys2Proof.Machine.execIxst o s
  | .lra o m => Sys2Proof.Machine.execLra o m s
  | .lrl o m => Sys2Proof.Machine.execLrl o m s
  | .lrs o m => Sys2Proof.Machine.execLrs o m s
  | .lrg o m => Sys2Proof.Machine.execLrg o m s
  | .lrc o m => Sys2Proof.Machine.execLrc o m s
  | .amouInteger o m => Sys2Proof.Machine.execAmouInteger o m s
  | .amouF32 o m => Sys2Proof.Machine.execAmouF32 o m s
  | .amouF64 o m => Sys2Proof.Machine.execAmouF64 o m s
  | .amof o m => Sys2Proof.Machine.execAmof o m s
  | .nma o => Sys2Proof.Machine.execNma o s
  | .pf o m => Sys2Proof.Machine.execPf o m s
  | .wb o m => Sys2Proof.Machine.execWb o m s
  | .inv o m => Sys2Proof.Machine.execInv o m s
  | .fencx o m => Sys2Proof.Machine.execFencx o m s
  | .rput o m => Sys2Proof.Machine.execRput o m s
  | .rget o m => Sys2Proof.Machine.execRget o m s
  | .rdep o m => Sys2Proof.Machine.execRdep o m s
  | .cpy o => Sys2Proof.Machine.execCpy o s
  | .cpyw o => Sys2Proof.Machine.execCpyw o s
  | .nredSum o m => Sys2Proof.Machine.execNredSum o m s
  | .nredMin o m => Sys2Proof.Machine.execNredMin o m s
  | .nredMax o m => Sys2Proof.Machine.execNredMax o m s
  | .nredMerge2 o => Sys2Proof.Machine.execNredMerge2 o s
  | .nredw o => Sys2Proof.Machine.execNredw o s
  | .bmem o => Sys2Proof.Machine.execBmem o s
  | .wlnew o => Sys2Proof.Machine.execWlnew o s
  | .wlcfgConfigure o => Sys2Proof.Machine.execWlcfgConfigure o s
  | .wlst o => Sys2Proof.Machine.execWlst o s
  | .ctrsel o => Sys2Proof.Machine.execCtrsel o s
  | .ctrrd o => Sys2Proof.Machine.execCtrrd o s
  | .ctrarmArm o => Sys2Proof.Machine.execCtrarmArm o s
  | .yield o => Sys2Proof.Machine.execYield o s
  | .colopConfigure o => Sys2Proof.Machine.execColopConfigure o s
  | .ringcfgBind o => Sys2Proof.Machine.execRingcfgBind o s
  | .bdgtRead o => Sys2Proof.Machine.execBdgtRead o s
  | .tslotEntry o => Sys2Proof.Machine.execTslotEntry o s
  | .dlogStatus o => Sys2Proof.Machine.execDlogStatus o s
  | .nmld o => Sys2Proof.Machine.execNmld o s
  | .tinvPage o => Sys2Proof.Machine.execTinvPage o s
  | .wlcfgFree => Sys2Proof.Machine.execWlcfgFree s
  | .ctrarmDisarm => Sys2Proof.Machine.execCtrarmDisarm s
  | .colopRead => Sys2Proof.Machine.execColopRead s
  | .colopSplit => Sys2Proof.Machine.execColopSplit s
  | .colopMerge => Sys2Proof.Machine.execColopMerge s
  | .colopRemove => Sys2Proof.Machine.execColopRemove s
  | .colopHold => Sys2Proof.Machine.execColopHold s
  | .colopRelease => Sys2Proof.Machine.execColopRelease s
  | .colopAdopt => Sys2Proof.Machine.execColopAdopt s
  | .colopDebug => Sys2Proof.Machine.execColopDebug s
  | .colopHalt => Sys2Proof.Machine.execColopHalt s
  | .colopResume => Sys2Proof.Machine.execColopResume s
  | .colopPeek => Sys2Proof.Machine.execColopPeek s
  | .colopPoke => Sys2Proof.Machine.execColopPoke s
  | .colopColour => Sys2Proof.Machine.execColopColour s
  | .colopRoot => Sys2Proof.Machine.execColopRoot s
  | .colopControl => Sys2Proof.Machine.execColopControl s
  | .colopJob => Sys2Proof.Machine.execColopJob s
  | .colopMulticast => Sys2Proof.Machine.execColopMulticast s
  | .ringcfgUnbind => Sys2Proof.Machine.execRingcfgUnbind s
  | .bdgtWrite => Sys2Proof.Machine.execBdgtWrite s
  | .tslotControl => Sys2Proof.Machine.execTslotControl s
  | .dlogStart => Sys2Proof.Machine.execDlogStart s
  | .dlogStop => Sys2Proof.Machine.execDlogStop s
  | .dlogLeaveBitmap => Sys2Proof.Machine.execDlogLeaveBitmap s
  | .tinvTenant => Sys2Proof.Machine.execTinvTenant s
  | .tinvAll => Sys2Proof.Machine.execTinvAll s
  | .vrel => Sys2Proof.Machine.execVrel s
  | .wldone => Sys2Proof.Machine.execWldone s
  | .trapDelivery => Sys2Proof.Machine.execTrapDelivery s
  | .timerInterrupt => Sys2Proof.Machine.execTimerInterrupt s
  | .scoutLaunch => Sys2Proof.Machine.execScoutLaunch s
  | .scoutStop => Sys2Proof.Machine.execScoutStop s
  | .scoutConfigurePush => Sys2Proof.Machine.execScoutConfigurePush s
  | .deferredStart => Sys2Proof.Machine.execDeferredStart s
  | .dispatchRound => Sys2Proof.Machine.execDispatchRound s
  | .matrixRowWrite => Sys2Proof.Machine.execMatrixRowWrite s
  | .ixMergeStep => Sys2Proof.Machine.execIxMergeStep s
  | .registerWindowAccess => Sys2Proof.Machine.execRegisterWindowAccess s
  | .scratchpadWriteArrival => Sys2Proof.Machine.execScratchpadWriteArrival s
  | .messageAccept => Sys2Proof.Machine.execMessageAccept s
  | .overflowRefill => Sys2Proof.Machine.execOverflowRefill s
  | .sendTimeout => Sys2Proof.Machine.execSendTimeout s
  | .reofferNotice => Sys2Proof.Machine.execReofferNotice s
  | .sendReoffer => Sys2Proof.Machine.execSendReoffer s
  | .depositArrival => Sys2Proof.Machine.execDepositArrival s
  | .waitWake => Sys2Proof.Machine.execWaitWake s
  | .bwtReturn => Sys2Proof.Machine.execBwtReturn s
  | .l2TagParityError => Sys2Proof.Machine.execL2TagParityError s
  | .patrolScrub => Sys2Proof.Machine.execPatrolScrub s
  | .countApply => Sys2Proof.Machine.execCountApply s
  | .popCheck => Sys2Proof.Machine.execPopCheck s
  | .dminReport => Sys2Proof.Machine.execDminReport s
  | .taskEndApply => Sys2Proof.Machine.execTaskEndApply s
  | .popCancel => Sys2Proof.Machine.execPopCancel s
  | .popAnswer => Sys2Proof.Machine.execPopAnswer s
  | .nmaRoutine => Sys2Proof.Machine.execNmaRoutine s
  | .copyCommand => Sys2Proof.Machine.execCopyCommand s
  | .followOnIssue => Sys2Proof.Machine.execFollowOnIssue s
  | .combineWindowClose => Sys2Proof.Machine.execCombineWindowClose s
  | .sliceEnd => Sys2Proof.Machine.execSliceEnd s
  | .forcedSave => Sys2Proof.Machine.execForcedSave s
  | .loadReissueTimeout => Sys2Proof.Machine.execLoadReissueTimeout s
  | .colonySaveDone => Sys2Proof.Machine.execColonySaveDone s
  | .colonyLoad => Sys2Proof.Machine.execColonyLoad s
  | .budgetPeriod => Sys2Proof.Machine.execBudgetPeriod s
  | .operatingPoint => Sys2Proof.Machine.execOperatingPoint s
  | .counterFire => Sys2Proof.Machine.execCounterFire s
  | .ppsEdge => Sys2Proof.Machine.execPpsEdge s
  | .timeOfDayMessage => Sys2Proof.Machine.execTimeOfDayMessage s
  | .ppsLoss => Sys2Proof.Machine.execPpsLoss s
  | .reset => Sys2Proof.Machine.execReset s
  | .attestationReport => Sys2Proof.Machine.execAttestationReport s
  | .bootRequest => Sys2Proof.Machine.execBootRequest s
  | .timeStatus => Sys2Proof.Machine.execTimeStatus s
  | .hostWrite => Sys2Proof.Machine.execHostWrite s
  | .hostRead => Sys2Proof.Machine.execHostRead s
  | .hostBarrierWrite => Sys2Proof.Machine.execHostBarrierWrite s
  | .flitReceive => Sys2Proof.Machine.execFlitReceive s
  | .laneFailure => Sys2Proof.Machine.execLaneFailure s
  | .laneWidthOrder => Sys2Proof.Machine.execLaneWidthOrder s
  | .portDown => Sys2Proof.Machine.execPortDown s
  | .packetForward => Sys2Proof.Machine.execPacketForward s
  | .remoteRequest => Sys2Proof.Machine.execRemoteRequest s
  | .remoteAnswer => Sys2Proof.Machine.execRemoteAnswer s
  | .mirrorReport => Sys2Proof.Machine.execMirrorReport s
  | .requestTimeout => Sys2Proof.Machine.execRequestTimeout s
  | .probe => Sys2Proof.Machine.execProbe s
  | .probeTimeout => Sys2Proof.Machine.execProbeTimeout s
  | .peerDownNotice => Sys2Proof.Machine.execPeerDownNotice s
  | .combineHold => Sys2Proof.Machine.execCombineHold s
  | .combineDepart => Sys2Proof.Machine.execCombineDepart s
  | .combinedAtHome => Sys2Proof.Machine.execCombinedAtHome s
  | .combSplit => Sys2Proof.Machine.execCombSplit s
  | .reductionCombine => Sys2Proof.Machine.execReductionCombine s
  | .reductionResultDeliver => Sys2Proof.Machine.execReductionResultDeliver s
  | .uncorrectableError => Sys2Proof.Machine.execUncorrectableError s
  | .loadValueReturn => Sys2Proof.Machine.execLoadValueReturn s

end Sys2Proof.Machine
end

