-- ==== Sys2Proof/Machine/Step.lean ====
section
/-! DEFINITION. One step of the package. -/

namespace Sys2Proof.Machine

/-- One step: what `nextWork` comes to, the row it chose, and the passing of time. -/
def step (s : State) : Host.Outcome State Fault Refusal :=
  match nextWork s with
  | .done t turn => .next (t.tick turn)
  | .stopped f => .fault f
  | .run i t turn =>
    match exec i t with
    | .next u => .next (u.tick turn)
    | .fault f => .fault f
    | .refused r => .refused r

/-- The state with the instruction of a table word where the next step fetches it. Log 5 (DEDUCED). -/
def State.withFetchWord (s : State) (nbits w : Nat) : State := s.placeNext nbits w

end Sys2Proof.Machine
end

