-- ==== Sys2Proof/Safety.lean ====
section
/-! DEFINITION. What counts as a safe run: one in which no step ends in a fault or a refusal. The only fault is the package
stop of a machine check that nobody can take (R366). -/

namespace Sys2Proof.Machine

/-- A step goes on. -/
def State.GoesOn (s : State) : Prop := ∃ t, step s = .next t

/-- `n` steps go on from a state. -/
def State.SafeFor : Nat → State → Prop
  | 0, _ => True
  | n + 1, s => ∃ t, step s = .next t ∧ State.SafeFor n t

/-- The canonical form of memory (also of granule tags): addresses rise, and nothing is listed that reads as an unlisted
address does. -/
abbrev Memory.wf (m : List Host.Cell) : Prop := canonical 0 m = true

/-- The memory invariant of the package. -/
def State.MemOk (s : State) : Prop := Memory.wf s.mem ∧ canonical false s.tags = true

/-! ## What an instruction leaves alone -/

/-- A strand without what every completion changes: registers and their owners, the program counter, time, and what the model
keeps of the instruction at hand. -/
def Strand.still (t : Strand) : Strand :=
  { t with
    regs := [], eOwned := 0, copies := 0, pcc := Reg.zero, clk := 0, cycle := 0, instret := 0, role := .joint,
    inflight := [], named := [], answers := [], asked := [], refusedAt := none, reoffer := false, asleep := false,
    opIndex := 0, operands := [], holding := none }

/-- A state without its strands, its cores and its agenda. -/
def State.rest (s : State) : State := { s with strands := [], cores := [], agenda := [] }

end Sys2Proof.Machine
end

