-- ==== Sys2Proof/Certificates/Slice0/Obligations.lean ====
section
/-! DEFINITION. The statements. The first part is their vocabulary: what an instruction needs in order to issue, and
what it leaves alone. -/

namespace Sys2Proof.Claims

open Sys2Proof.Machine

/-! ## The vocabulary -/

/-- A `w` register of the current strand, and its bits 63:0. -/
def w (s : State) (n : RegNo) : Reg := s.self.phys (s.self.physOf n.toNat)
def x (s : State) (n : RegNo) : Word := (w s n).word

/-- The two roles of the current strand stand at the same instruction (R89): neither waits for the other. -/
def Together (s : State) : Prop := s.self.apart = none ∧ s.self.operands = []

/-- The roles stand together, the registers that an instruction names have no outstanding result (R44), and its `w` registers lie
in the frame (R69). -/
def Ready (s : State) (us : List RegUse) : Prop :=
  Together s ∧ ∀ u ∈ us, s.self.hazard u.file (s.self.hazardNum u) = none ∧ (u.file = 0 → u.num < s.self.win.frame)

/-- The same for `w` registers alone. -/
def Issues (s : State) (ns : List RegNo) : Prop := Ready s (ns.map fun n => ⟨0, n.toNat, true, true⟩)

/-- Outside the current strand nothing differs but the core's time, its event counters, and events of counters that fire. -/
def Elsewhere (s t : State) : Prop :=
  (∀ b, b ≠ s.cur → t.strand b = s.strand b) ∧
  (∀ c, (t.core c).lines = (s.core c).lines ∧ (t.core c).code = (s.core c).code ∧ (t.core c).ring = (s.core c).ring ∧
    (t.core c).traced = (s.core c).traced ∧ (t.core c).queue = (s.core c).queue) ∧
  (∃ es, t.agenda = s.agenda ++ es ∧ ∀ e ∈ es, ∃ o n, e = Event.counterFire o n) ∧
  t.rest = s.rest

/-- Two states hold the same but for the program counter, time and counts, and what the model keeps of the instruction. -/
def SameAs (u t : State) : Prop :=
  t.cur = u.cur ∧ (∀ p, t.self.phys p = u.self.phys p) ∧ t.self.still = u.self.still ∧ Elsewhere u t

/-- The instruction completes with the effect that `u` shows, and the strand goes on at a PCC. -/
def GoesTo (i : Instr) (s u : State) (pcc : Reg) : Prop :=
  ∃ t, exec i s = .next t ∧ t.self.pcc = pcc ∧ t.self.instret = s.self.instret + 1 ∧ SameAs u t

/-- The instruction completes with the effect that `u` shows, and the strand goes on behind it. -/
def Leads (i : Instr) (s u : State) : Prop := GoesTo i s u (s.self.pccAt s.self.npc)

/-- The instruction completes; its only effect is a value in one `w` register. -/
def Sets (i : Instr) (s : State) (n : RegNo) (r : Reg) : Prop := Leads i s (s.withSelf (s.self.putW n.toNat r))

/-- The same for an integer or floating-point result (R68). -/
def SetsX (i : Instr) (s : State) (n : RegNo) (v : Word) : Prop := Sets i s n (Reg.ofWord v)

/-- The instruction does not complete: the strand stays at it, and nothing but time has passed. -/
def Waits (i : Instr) (s : State) : Prop :=
  ∃ t, exec i s = .next t ∧ t.self.pcc = s.self.pcc ∧ t.self.instret = s.self.instret ∧ SameAs s t

/-- The mode that handles a cause, and its handler can be entered (R135, R137). -/
def Handler (s : State) (c : BitVec 8) (m : Mode) : Prop :=
  s.self.targetMode c = some m ∧ installFault m s.self.tid (s.self.tvec m) = none

/-- What a strand has posted for a gang or has in its core's dispatch queue is withdrawn (R247). -/
def withdrawnOf (s : State) (sid : Nat) : State :=
  let v := s.quad (quadOf sid)
  let c := s.core (coreOf sid)
  (s.withQuad (quadOf sid) { v with postings := v.postings.filter fun p => p.sid ≠ sid }).withCore (coreOf sid)
    { c with queue := c.queue.filter fun e => !e.own sid }
def withdrawn (s : State) : State := withdrawnOf s s.cur

/-- The state after the entry of a handler (R136); the role bit of the cause word apart. -/
def Enters (s t : State) (m : Mode) (c : BitVec 8) (v : Word) (v2 : Option Word) (ret : Reg) : Prop :=
  t.cur = s.cur ∧ t.self.pcc = installed (s.self.tvec m) ∧ t.self.instret = s.self.instret ∧
  (∀ p, t.self.phys p = s.self.phys p) ∧
  (∃ ex, t.self.still = (s.self.settle.enter m c v v2 ex ret).still) ∧ Elsewhere (withdrawn s) t

/-- The instruction raises a cause at its own address and changes nothing else (R48, R136). -/
def Traps2 (i : Instr) (s : State) (c : BitVec 8) (v : Word) (v2 : Option Word) : Prop :=
  ∀ m, Handler s c m → ∃ t, exec i s = .next t ∧ Enters s t m c v v2 s.self.pcc

/-- The same for a cause that is raised in a state `u` which the instruction has already reached, and which stands. -/
def TrapsIn (i : Instr) (s u : State) (c : BitVec 8) (v : Word) (v2 : Option Word) : Prop :=
  ∀ m, Handler u c m → ∃ t, exec i s = .next t ∧ Enters u t m c v v2 s.self.pcc

def Traps (i : Instr) (s : State) (c : BitVec 8) (v : Nat) : Prop := Traps2 i s c (BitVec.ofNat 64 v) none

/-! ## Floating point -/

/-- The strand once a scalar instruction of a rounding code has drawn its word: under `sr` the LFSR of lane 0 has stepped. -/
def drawn (s : State) (code : BitVec 3) : Strand :=
  let t := s.self
  if t.roundingMode code.toNat true = srMode then
    { t with vec := { t.vec with seeds := storeAt 0 0 (lfsrStep (lookupD 0 t.vec.seeds 0)) t.vec.seeds } }
  else t

/-- Stochastic rounding needs a lane (R62). -/
def HasSeed (s : State) (code : BitVec 3) : Prop := s.self.roundingMode code.toNat true = srMode → s.self.vec.lanes ≠ []

/-- The instruction completes; one register gets an exact value rounded once, and `fexc` the flags (R57, R121). -/
def Rounds (i : Instr) (s : State) (n : RegNo) (f : Machine.Float.Format) (code : BitVec 3) (v : Machine.Float.Value × Nat) : Prop :=
  let t := drawn s code
  let r := Machine.Float.round f (s.self.roundingMode code.toNat true) (t.drawn 0 0) v.1
  Leads i s (s.withSelf ({ t with fexc := t.fexc ||| BitVec.ofNat 64 (v.2 ||| r.2) }.putW n.toNat
    (Reg.ofWord (BitVec.ofNat 64 r.1))))

/-- A `w` register as a value of a format. -/
def fp (s : State) (m : VecMod) (n : RegNo) : Machine.Float.Value := Machine.Float.decode (fpFormat m.ty) (x s n).toNat

/-- The strand with flags added. -/
def flagged (t : Strand) (fl : Nat) : Strand := { t with fexc := t.fexc ||| BitVec.ofNat 64 fl }

/-! ## The register window -/

/-- Nothing needs to be spilled before `n` more registers are used above the current base, with at most `keep` links (R71). -/
def Room (t : Strand) (n keep : Nat) : Prop := t.win.links = [] ∨ (t.win.below + n ≤ 256 ∧ t.win.links.length ≤ keep)

/-- The strand after the call event (R70, R102). -/
def called (t : Strand) : Strand :=
  let f := t.win.frame
  let o := min 8 f
  let base := (t.win.base + f - o) % 256
  { t with win := { t.win with
      base := base, frame := 8, depth := t.win.depth + 1, origin := base, overlap := o, kept := true
      links := ⟨t.pccAt t.npc, f, o, t.win.origin, t.win.overlap, t.win.kept⟩ :: t.win.links } }.clearFrame
    ((List.range (8 - o)).map (· + o))

/-- What stops a call event, and the room that it needs to go through at once. -/
def CallFits (t : Strand) : Prop :=
  t.win.depth ≠ 2 ^ 32 - 1 ∧ Room t (t.win.frame - min 8 t.win.frame + 8) 62

/-- An open region becomes lost (R289). -/
def lostRegion (r : Region) : Region := if r.state = .opened then { r with state := .lost } else r

/-! ## Memory -/

/-- A byte of memory as a core's accesses at core scope see it: its L1 laid over the home. -/
def view (s : State) (core a : Nat) : Byte := (s.viewBytes core a 1).headD 0

/-- Lines that are held have 128 bytes. -/
def LinesOk (s : State) : Prop :=
  ∀ c n, let l := lookupD L1Line.empty (s.core c).lines n
    (l.valid = 0 ∧ l.upd = none) ∨ l.bytes.length = 128

/-- No core holds a line in update-only state. -/
def NoPartials (s : State) : Prop := ∀ n, s.holders n = []

/-- The check of R77 before translation: the first step that fails. -/
def checkFault (s : State) (c : Reg) (perm : BitVec 12) (kinds : List Nat) (n : Nat) : Option (BitVec 8) :=
  let a := Cap.cursor c.val
  if c.tag = false then some cTag
  else if s.self.mode ≠ .hypervisor ∧ Cap.tenant c.val ≠ s.self.tid then some cTenant
  else if Cap.kind c.val ∉ kinds ∨ perm &&& ~~~ (Cap.perms c.val) ≠ 0 then some cPerm
  else if (a : Int) < Cap.base c.val ∨ Cap.top c.val < a + n then some cBounds
  else if (n = 2 ∨ n = 4 ∨ n = 8 ∨ n = 16) ∧ a % n ≠ 0 then some cAlign
  else none

/-- The micro-TLB of the strand's quad holds a leaf for an address (R295). -/
def TlbHas (s : State) (tenant : BitVec 12) (va : Nat) (e : TlbEntry) : Prop :=
  s.tlbFind (microTlb s.cur) tenant va = e ∧ pteV e.pte

/-- That micro-TLB holds a leaf that grants an access, with its dirty bit set where the access writes: the address and the leaf. -/
def Maps (s : State) (tenant : BitVec 12) (va : Nat) (perm : BitVec 12) (p : Nat) (e : Word) : Prop :=
  ∃ t, TlbHas s tenant va t ∧ e = t.pte ∧ p = leafAddr t va ∧ pteGrants e perm ∧
    (perm &&& (Cap.st ||| Cap.sc ||| Cap.atm) ≠ 0 → pteD e)

/-- An access passes its check and its translation, and lies in this package on a page that is not mirrored: `a` is the local
address. -/
def Opens (s : State) (c : Reg) (perm : BitVec 12) (k : Nat) (a : Nat) (e : Word) : Prop :=
  checkFault s c perm [Cap.kMemory] k = none ∧
  ∃ p, Maps s (Cap.tenant c.val) (Cap.cursor c.val) perm p e ∧ pkgOf p = s.pkg ∧ a = localOf p ∧ pteM e = false

/-- A core scratchpad or lane slice, which no L1 holds. -/
def Direct (a : Nat) : Prop := (∃ c o, place a = .coreSpad c o) ∨ ∃ q l o, place a = .slice q l o

/-- The same where a store of the current strand meets no memory port. -/
def DirectOwn (s : State) (a : Nat) : Prop :=
  (∃ o, place a = .coreSpad (coreOf s.cur) o ∧ inQuadWindow a = false) ∨ ∃ q l o, place a = .slice q l o

/-- The L1 of the current strand's core once it has room for a line, with a line of a full set given up (R147). -/
def roomFor (s : State) (a : Nat) : State := s.l1Room (coreOf s.cur) (a / 128)

/-- No error lies in what that L1 holds of a line (R430). -/
def Sound (s : State) (a : Nat) : Prop := (lookupD L1Line.empty (s.core (coreOf s.cur)).lines (a / 128)).fails = []

/-- What an order and a scope add before and after an access (R115, R148). -/
def released (s : State) (ord scope : Nat) : State :=
  if (ord = 2 ∨ ord = 3) ∧ 2 ≤ scope then s.releaseCore (coreOf s.cur) else s
def acquired (s : State) (ord scope : Nat) : State :=
  if ord = 1 ∨ ord = 3 then
    if 2 ≤ scope then s.acquireCore (coreOf s.cur) else s.refetch (coreOf s.cur)
  else s

/-- The instruction completes in the state `u`, whose L1 has room for its line; beside the strand `v`, the L1s may hold other
lines, but no core sees another byte of memory, but for the bytes that the instruction's own core stores from an address. -/
def Sees (i : Instr) (s u : State) (v : Strand) (a : Nat) (bs : List Byte) : Prop :=
  ∃ t, exec i s = .next t ∧ t.cur = s.cur ∧ t.self.pcc = s.self.pccAt s.self.npc ∧ t.self.instret = s.self.instret + 1 ∧
    (∀ p, t.self.phys p = v.phys p) ∧ t.self.still = v.still ∧ (∀ b, b ≠ s.cur → t.strand b = u.strand b) ∧ t.rest = u.rest ∧
    (∀ c b, view t c b =
      if c = coreOf s.cur ∧ a ≤ b ∧ b < a + bs.length then bs.getD (b - a) 0 else view u c b)

/-- `[wB + n]` and `[wB + wC + n]`. -/
def at2 (s : State) (o : OpRX) : Reg := ⟨Cap.offset (w s o.b).val o.imm.toInt, (w s o.b).tag⟩
def at3 (s : State) (o : OpRRR) : Reg := ⟨Cap.offset (w s o.b).val ((x s o.c).toInt + o.imm.toInt), (w s o.b).tag⟩

/-- A register written with what `k` bytes hold. -/
def got (k : Nat) (sx : Bool) (bs : List Byte) : Word :=
  BitVec.ofInt 64 (if sx ∧ 2 ^ (8 * k - 1) ≤ leNat bs then (leNat bs : Int) - 2 ^ (8 * k) else leNat bs)

/-! ## Waiting, groups and messages -/

/-- R259, R421: a group capability names a group of the strand's own instance at its scope. -/
def NamesGroup (s : State) (c : Reg) (scope g : Nat) : Prop :=
  let a := Cap.cursor c.val
  scope = a / 2 ^ 45 % 8 ∧ g = a / 2 ^ 41 % 16 ∧ a / 2 ^ 40 % 2 = 0 ∧ 1 ≤ scope ∧ scope ≤ 6 ∧ a / 2 ^ 28 % 4096 = 0 ∧
    a % 2 ^ 28 = groupInst (s.fullSid s.cur).toNat scope ∧ (5 ≤ scope → s.jobOf s.cur ≠ 0)

/-- The other members of a group of the current strand's instance. -/
def others (s : State) (scope g : Nat) : List Nat := (s.groupMembers scope g s.cur).filter (· ≠ s.cur)

/-- Masks with bit `b` set or cleared. -/
def setBit (m : BitVec 128) (b : Nat) : BitVec 128 := m ||| 1#128 <<< b
def clearBit (m : BitVec 128) (b : Nat) : BitVec 128 := m &&& ~~~ (1#128 <<< b)

/-- No reduction waits for the group's barrier (R421). -/
def NoReduction (s : State) (scope g : Nat) : Prop :=
  scope = 4 → (s.redGroup (redKey (s.colonyOf s.cur) 4 g)).parts = []

/-- A strand with a message more in its queue (R155, R163). -/
def delivered (t : Strand) (m : Message) : Strand := { t with inbox := t.inbox ++ [m], wake := true }

/-! ## Worklists -/

/-- R315: a handle names an instance of this package that is in use. -/
def NamesInstance (s : State) (c : Reg) (die i gen : Nat) : Prop :=
  let a := Cap.cursor c.val
  checkFault s c Cap.wl [Cap.kWorklist] 1 = none ∧ a % 1024 = 0 ∧ handleName c = (s.pkg, die, i, gen) ∧ die < 8 ∧
    (s.slot die i).used = true ∧ (s.slot die i).gen = gen

/-- The state with a home slot replaced. -/
def withSlot (s : State) (die i : Nat) (h : HomeSlot) : State :=
  s.withDie die { s.die die with slots := storeAt (HomeSlot.free 0) i h (s.die die).slots }

/-- Events that follow. -/
def posting (s : State) (es : List Event) : State := { s with agenda := s.agenda ++ es }

/-- R319: a push is possible where the strand stands: its scope, the argument's `gl`, and room on the die's chip. -/
def CanPush (s : State) (die i : Nat) (v : Reg) : Prop :=
  s.inInstScope s.cur s.pkg die i = true ∧ (v.tag = true → Cap.has v.val Cap.gl = true) ∧
    ((s.die (dieOf s.cur)).items.filter fun y => y.run.isNone && !y.away).length < 65536

/-- The task that the current strand gets from an instance of this package (R326). -/
def task (s : State) (die i gen : Nat) : TaskId :=
  { pkg := s.pkg, home := die, slot := i, gen := gen, holder := s.pkg, sid := (s.fullSid s.cur).toNat }

/-- Tasks of an instance that the current strand holds. -/
def tasksOf (s : State) (die i gen : Nat) : Nat :=
  (s.self.tasks.filter fun k => k.pkg = s.pkg ∧ k.home = die ∧ k.slot = i ∧ k.gen = gen).length

/-- A home that can answer the current strand at once. -/
def Ripe (s : State) (die i : Nat) : Prop :=
  (s.slot die i).broken = false ∧ (s.slot die i).saved = false ∧ s.worklistBusy (s.fullSid s.cur).toNat die i = false ∧ s.islandLow s.cur = false ∧
    s.admits (s.colonyOf s.cur) 6 1 = true

/-- A machine event happens: the state after it. -/
def Happens (i : Instr) (s t : State) : Prop := exec i s = .next t

/-! ## Vectors -/

/-- The words of a vector register, and one of its elements of `w` bits. -/
def vw (t : Strand) (r : RegNo) : List Word := lookupRange 0 t.vec.v (r.toNat * 64) 64
def vel (s : State) (r : RegNo) (w e : Nat) : Nat := elAt (vw s.self r) w e

/-- No budget bounds a resource for the strand's colony, and its island has energy left (R379, R382). -/
def Unbounded (s : State) (res : Nat) : Prop :=
  s.islandSpent s.cur = false ∧ ∀ c, s.colony (s.colonyOf s.cur) = some c → c.allocOf res = unlimited

/-- An instruction of the lane pool can issue at once (R173): nothing waits in the dispatch queues of the quad, no round is under
way, and budget and energy cover it. -/
def Free (s : State) : Prop := s.quadClear (quadOf s.cur) = true ∧ s.covered (DispatchEntry.lanes s.cur) = true

/-- The grant is not empty and the quad's dispatch is free. -/
def CanIssue (s : State) : Prop := s.self.vec.lanes ≠ [] ∧ Free s

/-- The registers of a vector instruction with its mask register have no outstanding result, the grant is not empty, and the
quad's dispatch is free. -/
def VReady (s : State) (us : List RegUse) (m : VecMod) : Prop :=
  Ready s us ∧ Ready s (maskUse m.mask) ∧ CanIssue s

/-- What R177, R178 and R179 make of a strand whose elements from `start` below `n` are processed: an active element takes
the value of `f`, with its flags; another one is kept, or cleared under zeroing; `vstart` becomes 0. -/
def elements (t : Strand) (a : RegNo) (w start n : Nat) (zero : Bool) (mask : BitVec 512) (f : Nat → Nat × Nat) : Strand :=
  let value := fun (e : Nat) =>
    if start ≤ e && e < n then if mask.getLsbD e then some (f e).1 else if zero then some 0 else none else none
  { t with
    fexc := t.fexc ||| BitVec.ofNat 64
      ((List.range n).foldl (fun fl e => if start ≤ e && mask.getLsbD e then fl ||| (f e).2 else fl) 0)
    vec := { t.vec with v := putElements t.vec.lanes.length a.toNat w value t.vec.v, vstart := 0 } }

/-- A strand with elements of a vector register replaced. -/
def putV (t : Strand) (r : RegNo) (w : Nat) (f : Nat → Option Nat) : Strand :=
  { t with vec := { t.vec with v := putElements t.vec.lanes.length r.toNat w f t.vec.v } }

/-- A vector instruction completes with the processed elements of its result given by `f`, in a strand `t`. -/
def Elementwise (i : Instr) (s : State) (t : Strand) (a : RegNo) (m : VecMod) (w start : Nat) (f : Nat → Nat × Nat) : Prop :=
  Leads i s (s.withSelf (elements t a w start (s.self.effective w) m.zero (s.self.mask m.mask.toNat) f))

/-- The strand whose lanes have drawn a word each under `sr` (R60). -/
def stepped (t : Strand) (mode : Nat) : Strand :=
  if mode = srMode then
    { t with vec := { t.vec with seeds :=
      (List.range t.vec.lanes.length).foldl (fun m i => storeAt 0 i (lfsrStep (lookupD 0 m i)) m) t.vec.seeds } }
  else t

/-- The active elements of a vector instruction. -/
def active (s : State) (m : VecMod) (w start : Nat) : List Nat :=
  (List.range (s.self.effective w)).filter fun e => start ≤ e && (s.self.mask m.mask.toNat).getLsbD e


/-! ## Integer instructions -/

/-- R92, R94, R95: the two-source integer instructions, with x and y as R94 takes them from the operand form. -/
def IntegerTwoSource : Prop :=
  ∀ (o : OpRRC) (s : State), Issues s [o.a, o.x, o.y] →
    let X := x s o.x
    let Y := x s o.y
    let k := Y.toNat % 64
    SetsX (.add o) s o.a (X + Y) ∧ SetsX (.sub o) s o.a (X - Y) ∧ SetsX (.and o) s o.a (X &&& Y) ∧
    SetsX (.or o) s o.a (X ||| Y) ∧ SetsX (.xor o) s o.a (X ^^^ Y) ∧ SetsX (.mul o) s o.a (X * Y) ∧
    SetsX (.shl o) s o.a (X <<< k) ∧ SetsX (.shr o) s o.a (X >>> k) ∧
    SetsX (.sra o) s o.a (BitVec.ofInt 64 (X.toInt / 2 ^ k)) ∧
    SetsX (.ceq o) s o.a (if X = Y then 1 else 0) ∧ SetsX (.clt o) s o.a (if X.toInt < Y.toInt then 1 else 0) ∧
    SetsX (.cltn o) s o.a (if X.toNat < Y.toNat then 1 else 0) ∧
    SetsX (.div o) s o.a (if Y = 0 then BitVec.allOnes 64 else BitVec.ofInt 64 (X.toInt.tdiv Y.toInt)) ∧
    SetsX (.divn o) s o.a (if Y = 0 then BitVec.allOnes 64 else BitVec.ofNat 64 (X.toNat / Y.toNat)) ∧
    SetsX (.rem o) s o.a (if Y = 0 then X else BitVec.ofInt 64 (X.toInt.tmod Y.toInt)) ∧
    SetsX (.remn o) s o.a (if Y = 0 then X else BitVec.ofNat 64 (X.toNat % Y.toNat)) ∧
    SetsX (.mulh o) s o.a (BitVec.ofInt 64 (X.toInt * Y.toInt / 2 ^ 64)) ∧
    SetsX (.mulhn o) s o.a (BitVec.ofNat 64 (X.toNat * Y.toNat / 2 ^ 64)) ∧
    (∃ v : Word, (∀ j < 64, v.getLsbD j = X.getLsbD ((j + k) % 64)) ∧ SetsX (.rot o) s o.a v) ∧
    SetsX (.min o) s o.a (if Y.toInt < X.toInt then Y else X) ∧ SetsX (.max o) s o.a (if X.toInt < Y.toInt then Y else X) ∧
    SetsX (.minn o) s o.a (if Y.toNat < X.toNat then Y else X) ∧ SetsX (.maxn o) s o.a (if X.toNat < Y.toNat then Y else X)

/-- R96, R97, R99: one source, an immediate, and bit fields, each said bit by bit where that is shorter. -/
def IntegerOneSource : Prop :=
  (∀ (o : OpRR) (s : State), Issues s [o.a, o.b] →
    let X := x s o.b
    Sets (.mov o) s o.a (w s o.b) ∧
    (∃ n ≤ 64, X.toNat < 2 ^ (64 - n) ∧ (n < 64 → 2 ^ (63 - n) ≤ X.toNat) ∧ SetsX (.clz o) s o.a (BitVec.ofNat 64 n)) ∧
    (∃ n ≤ 64, (∀ j < n, X.getLsbD j = false) ∧ (n < 64 → X.getLsbD n = true) ∧ SetsX (.ctz o) s o.a (BitVec.ofNat 64 n)) ∧
    SetsX (.popc o) s o.a (BitVec.ofNat 64 ((List.range 64).countP fun j => X.getLsbD j)) ∧
    (∃ v : Word, (∀ j < 8, v.extractLsb' (8 * j) 8 = X.extractLsb' (8 * (7 - j)) 8) ∧ SetsX (.bswap o) s o.a v)) ∧
  (∀ (o : OpRI) (s : State), Issues s [o.a] →
    let X := x s o.a
    let I : Word := o.imm.signExtend 64
    SetsX (.addi o) s o.a (X + I) ∧ SetsX (.movi o) s o.a I ∧ SetsX (.andi o) s o.a (X &&& I) ∧
    SetsX (.shli o) s o.a (X <<< o.imm.toNat) ∧ SetsX (.shri o) s o.a (X >>> o.imm.toNat) ∧
    SetsX (.srai o) s o.a (BitVec.ofInt 64 (X.toInt / 2 ^ o.imm.toNat))) ∧
  (∀ (o : OpRX) (s : State), Issues s [o.a, o.b] →
    let p := o.imm.toNat % 64
    let l := o.imm.toNat / 64 % 64 + 1
    (∃ v : Word, (∀ j < 64, v.getLsbD j = (decide (j < l) && (x s o.b).getLsbD (p + j))) ∧ SetsX (.bext o) s o.a v) ∧
    (∃ v : Word, (∀ j < 64, v.getLsbD j =
        if p ≤ j ∧ j < p + l then (x s o.b).getLsbD (j - p) else (x s o.a).getLsbD j) ∧ SetsX (.bins o) s o.a v))

/-- R98: `sel` copies a whole register and its tag. -/
def SelCopiesRegister : Prop :=
  ∀ (o : OpRRR) (s : State), Issues s [o.a, o.b, o.c] →
    Sets (.sel o) s o.a (if x s o.a ≠ 0 then w s o.b else w s o.c)

/-! ## Scalar floating point -/

/-- R62, R121, R122, R123: two sources of one format. The arithmetic instructions round an exact value once; the compares
and `fmin`, `fmax` neither round nor set other flags than R123 gives. -/
def FloatTwoSource : Prop :=
  ∀ (o : OpRRC) (m : VecMod) (s : State), Issues s [o.a, o.x, o.y] →
    let F := fpFormat m.ty
    let X := fp s m o.x
    let Y := fp s m o.y
    let r := s.self.roundingMode m.rnd.toNat true
    let flags := fun (i : Instr) (fl : Nat) (v : Word) => Leads i s (s.withSelf ((flagged s.self fl).putW o.a.toNat (Reg.ofWord v)))
    let nan := X = .nan ∨ Y = .nan
    (HasSeed s m.rnd → Rounds (.fadd o m) s o.a F m.rnd (Machine.Float.add r X Y) ∧
      Rounds (.fsub o m) s o.a F m.rnd (Machine.Float.add r X (Machine.Float.neg Y)) ∧ Rounds (.fmul o m) s o.a F m.rnd (Machine.Float.mul X Y) ∧
      Rounds (.fdiv o m) s o.a F m.rnd (Machine.Float.div X Y)) ∧
    SetsX (.fmin o m) s o.a (BitVec.ofNat 64 (Machine.Float.round F 0 0 (Machine.Float.minimum X Y)).1) ∧
    SetsX (.fmax o m) s o.a (BitVec.ofNat 64 (Machine.Float.round F 0 0 (Machine.Float.maximum X Y)).1) ∧
    flags (.fceq o m) 0 (if ¬nan ∧ (Machine.Float.compare X Y).2 then 1 else 0) ∧
    flags (.fclt o m) (if nan then Machine.Float.fNv else 0) (if ¬nan ∧ (Machine.Float.compare X Y).1 then 1 else 0) ∧
    flags (.fcle o m) (if nan then Machine.Float.fNv else 0) (if ¬nan ∧ ((Machine.Float.compare X Y).1 ∨ (Machine.Float.compare X Y).2) then 1 else 0)

/-- R62, R121, R124, R125: one or three sources, and the conversions. -/
def FloatOtherForms : Prop :=
  (∀ (o : OpRR) (m : VecMod) (s : State), Issues s [o.a, o.b] →
    (HasSeed s m.rnd → Rounds (.fsqrt o m) s o.a (fpFormat m.ty) m.rnd (Machine.Float.sqrt (fp s m o.b))) ∧
    SetsX (.fclass o m) s o.a (BitVec.ofNat 64 (2 ^ Machine.Float.classBit (fpFormat m.ty) (fp s m o.b)))) ∧
  (∀ (o : OpRRR) (m : VecMod) (s : State), Issues s [o.a, o.b, o.c] → HasSeed s m.rnd →
    Rounds (.fma o m) s o.a (fpFormat m.ty) m.rnd
      (Machine.Float.fma (s.self.roundingMode m.rnd.toNat true) (fp s m o.a) (fp s m o.b) (fp s m o.c))) ∧
  (∀ (o : OpRX) (m : VecMod) (s : State), Issues s [o.a, o.b] → HasSeed s m.rnd →
    let ty : BitVec 3 := o.imm.setWidth 3
    let bits := fun (t : BitVec 3) => 8 * 2 ^ (t.toNat % 4)
    let X := Machine.Float.decode (fpFormat ty) (x s o.b).toNat
    let t := drawn s m.rnd
    let r := Machine.Float.roundInt (bits m.ty) (m.ty.toNat < 4) (s.self.roundingMode m.rnd.toNat true) (t.drawn 0 0) X
    Rounds (.fcvt o m) s o.a (fpFormat m.ty) m.rnd (X, 0) ∧
    Rounds (.icvtf o m) s o.a (fpFormat m.ty) m.rnd
      (Machine.Float.ofInt (Machine.Float.patInt (bits ty) (ty.toNat < 4) (x s o.b).toNat), 0) ∧
    Leads (.fcvti o m) s (s.withSelf ((flagged t r.2).putW o.a.toNat
      (Reg.ofWord (BitVec.ofInt 64 (Machine.Float.patInt (bits m.ty) (m.ty.toNat < 4) r.1))))))

/-! ## Capabilities -/

/-- R111, R126, R127: fields of a capability, `lea`, and narrowing of permissions and tag. -/
def CapabilityResults : Prop :=
  (∀ (o : OpRR) (s : State), Issues s [o.a, o.b] →
    let c := (w s o.b).val
    SetsX (.cbase o) s o.a (BitVec.ofInt 64 (Cap.base c)) ∧ SetsX (.clen o) s o.a (BitVec.ofInt 64 (Cap.top c - Cap.base c)) ∧
    SetsX (.cperm o) s o.a (BitVec.ofNat 64 ((Cap.perms c).toNat + Cap.kind c * 2 ^ 16)) ∧
    SetsX (.ctid o) s o.a ((Cap.tenant c).setWidth 64) ∧ SetsX (.cgtag o) s o.a (if (w s o.b).tag then 1 else 0)) ∧
  (∀ (o : OpR) (s : State), Issues s [o.a] → Sets (.cclr o) s o.a ⟨(w s o.a).val, false⟩) ∧
  (∀ (o : OpRRC) (s : State), Issues s [o.a, o.x, o.y] →
    let X := w s o.x
    let Y := x s o.y
    let at_ := (Cap.cursor X.val + Y.toNat) % 2 ^ 48
    Sets (.lea o) s o.a (if X.tag then ⟨Cap.withCursor X.val at_, Cap.inRangeOf X.val at_⟩ else Reg.ofWord (X.word + Y)) ∧
    SetsX (.csub o) s o.a (BitVec.ofInt 64 ((Cap.cursor X.val : Int) - Cap.cursor (w s o.y).val)) ∧
    Sets (.crestr o) s o.a ⟨Cap.withPerms X.val (Cap.perms X.val &&& Y.setWidth 12), X.tag⟩)

/-- R128: `cbound` completes on every operand. The range that it gives holds the one asked for, it is that one unless
`cinexact` is recorded, and the tag stays only for a range inside the old one. Where no exponent can express the range, which
then reaches above 2^48, the bounds fields and `cinexact` are free (the model's log entry on it), and the tag is clear. -/
def CboundHoldsRange : Prop :=
  ∀ (o : OpRRC) (s : State), Issues s [o.a, o.x, o.y] →
    let X := w s o.x
    let lo := Cap.cursor X.val
    let hi := lo + (x s o.y).toNat
    ∃ (r : Reg) (inexact : Bool) (n : Nat),
      Leads (.cbound o) s ({ s with fresh := s.fresh + n }.withSelf
        ((flagged s.self (if inexact then Machine.Float.fCinexact else 0)).putW o.a.toNat r)) ∧
      Cap.cursor r.val = lo ∧ Cap.perms r.val = Cap.perms X.val ∧ Cap.kind r.val = Cap.kind X.val ∧
      Cap.tenant r.val = Cap.tenant X.val ∧
      (r.tag ↔ X.tag ∧ hi ≤ 2 ^ 48 ∧ Cap.base X.val ≤ Cap.base r.val ∧ Cap.top r.val ≤ Cap.top X.val) ∧
      (hi ≤ 2 ^ 48 → n = 0 ∧ Cap.base r.val ≤ lo ∧ (hi : Int) ≤ Cap.top r.val ∧
        (inexact = false ↔ Cap.base r.val = lo ∧ Cap.top r.val = hi))

/-- R129: what `cmint` makes, and which check stops it first. -/
def CmintChecks : Prop :=
  ∀ (o : OpRRR) (s : State), Issues s [o.a, o.b, o.c] →
    let M := w s o.b
    let T := w s o.c
    let foreign := s.self.mode ≠ .hypervisor ∧ Cap.tenant M.val ≠ s.self.tid
    let weak := Cap.kind M.val ≠ Cap.kMemory ∨ Cap.has M.val Cap.mt = false
    let inside := bitsAt T.val 112 16 = 0 ∧ Cap.tenant T.val = Cap.tenant M.val ∧ Cap.has M.val (Cap.perms T.val) ∧
      Cap.base M.val ≤ Cap.base T.val ∧ Cap.top T.val ≤ Cap.top M.val ∧ Cap.inRange T.val
    (M.tag = false → Traps (.cmint o) s cTag (Cap.cursor M.val)) ∧
    (M.tag → foreign → Traps (.cmint o) s cTenant (Cap.cursor M.val)) ∧
    (M.tag → ¬foreign → weak → Traps (.cmint o) s cPerm (Cap.cursor M.val)) ∧
    (M.tag → ¬foreign → ¬weak → ¬inside → Traps (.cmint o) s cPerm (Cap.cursor T.val)) ∧
    (M.tag → ¬foreign → ¬weak → inside → Sets (.cmint o) s o.a ⟨T.val, true⟩)

/-! ## Control transfer and the register window -/

/-- R101: every branch completes, to PC + 2·Imm where its condition holds and behind itself where it does not. -/
def BranchTargets : Prop :=
  let takes := fun (i : Instr) (s : State) (imm : Imm) (c : Prop) =>
    (c → GoesTo i s s (s.self.pccAt (((s.self.pc : Int) + 2 * imm.toInt) % 2 ^ 48).toNat)) ∧ (¬c → Leads i s s)
  (∀ (o : OpRI) (s : State), Issues s [o.a] → takes (.bz o) s o.imm (x s o.a = 0) ∧ takes (.bnz o) s o.imm (x s o.a ≠ 0)) ∧
  (∀ (o : OpRX) (s : State), Issues s [o.a, o.b] →
    takes (.blt o) s o.imm ((x s o.a).toInt < (x s o.b).toInt) ∧ takes (.bge o) s o.imm ((x s o.b).toInt ≤ (x s o.a).toInt) ∧
    takes (.bltn o) s o.imm ((x s o.a).toNat < (x s o.b).toNat) ∧ takes (.bgen o) s o.imm ((x s o.b).toNat ≤ (x s o.a).toNat)) ∧
  (∀ (o : OpI) (s : State), Together s → takes (.j o) s o.imm True)

/-- R42: `hold n` has no effect but time. Decode is held for n clk, one in each turn, so that an interrupt can end it; then the
instruction completes in 1 + S clk. -/
def HoldTakesTime : Prop :=
  ∀ (o : OpI) (s : State), Together s →
    let left := s.self.holding.getD (o.imm.toNat + 1)
    (left ≤ 1 → ∃ t, exec (.hold o) s = .next t ∧ t.self.pcc = s.self.pccAt s.self.npc ∧
      t.self.instret = s.self.instret + 1 ∧ SameAs s t ∧ t.self.clk = s.self.clk + 1 + o.st.toNat ∧ t.self.holding = none) ∧
    (1 < left → ∃ t, exec (.hold o) s = .next t ∧ t.self.pcc = s.self.pcc ∧ t.self.instret = s.self.instret ∧ SameAs s t ∧
      t.self.clk = s.self.clk + 1 ∧ t.self.holding = some (left - 1))

/-- R103: the target of `jr` and `callr`, and the check that stops it first. A call whose window event fits makes it (R102). -/
def RegisterTargets : Prop :=
  ∀ (o : OpR) (s : State), Issues s [o.a] →
    let r := w s o.a
    let a := Cap.cursor r.val
    let foreign := s.self.mode ≠ .hypervisor ∧ Cap.tenant r.val ≠ s.self.tid
    let code := (Cap.kind r.val = Cap.kMemory ∨ Cap.kind r.val = Cap.kEntry) ∧ Cap.has r.val Cap.x
    let stop := fun (c : BitVec 8) => Traps (.jr o) s c a ∧ Traps (.callr o) s c a
    let go := fun (p : Reg) => GoesTo (.jr o) s s p ∧ (CallFits s.self → GoesTo (.callr o) s (s.withSelf (called s.self)) p)
    (r.tag = false → a % 2 = 1 → stop cAlign) ∧ (r.tag = false → a % 2 = 0 → go (s.self.pccAt a)) ∧
    (r.tag → foreign → stop cTenant) ∧ (r.tag → ¬foreign → ¬code → stop cPerm) ∧
    (r.tag → ¬foreign → code → a % 2 = 1 → stop cAlign) ∧
    (r.tag → ¬foreign → code → a % 2 = 0 → go ⟨Cap.withKind r.val Cap.kMemory, true⟩)

/-- R70, R102: `call` where no frame has to be spilled, and the deepest call. -/
def CallPushesLink : Prop :=
  ∀ (o : OpI) (s : State), Together s →
    (s.self.win.depth = 2 ^ 32 - 1 → Traps (.call o) s cFrame 0) ∧
    (CallFits s.self → GoesTo (.call o) s (s.withSelf (called s.self))
      (s.self.pccAt (((s.self.pc : Int) + 2 * o.imm.toInt) % 2 ^ 48).toNat))

/-- The current strand has a matrix operation under way or an instruction in its core's dispatch queue (R229). -/
def HasOps (s : State) : Prop :=
  (∃ p ∈ (s.quad (quadOf s.cur)).ops, p.sid = s.cur) ∨ ∃ e ∈ (s.core (coreOf s.cur)).queue, e.own s.cur = true

/-- R18, R103, R104, R229: `ret` at depth 0 ends the strand once its operations have ended; with the caller's frame resident it
restores the caller's window and goes on at the saved PCC, which must be tagged and pass the install checks. -/
def RetRestoresCaller : Prop :=
  ∀ (o : OpN) (s : State), Together s →
    (s.self.win.depth = 0 → HasOps s → Waits (.ret o) s) ∧
    (s.self.win.depth = 0 → ¬HasOps s → s.self.live → ∃ t, exec (.ret o) s = .next t ∧ (t.strand s.cur).live = false) ∧
    (∀ l ls, s.self.win.depth ≠ 0 → s.self.win.links = l :: ls →
      let a := Cap.cursor l.pcc.val
      (l.pcc.tag = false → Traps (.ret o) s cTag a) ∧
      (∀ c, l.pcc.tag → installFault s.self.mode s.self.tid l.pcc = some c → Traps (.ret o) s c a) ∧
      (l.pcc.tag → installFault s.self.mode s.self.tid l.pcc = none →
        GoesTo (.ret o) s (s.withSelf { s.self with win := { s.self.win with
          base := (s.self.win.origin + 256 + l.o - l.f) % 256, frame := l.f, depth := s.self.win.depth - 1
          origin := l.origin, overlap := l.overlap, kept := l.kept, links := ls } }) (installed l.pcc)))

/-- R11, R105, R106: `enter` and `wshr` where no frame has to be spilled or filled, and what stops them. -/
def FrameChanges : Prop :=
  ∀ (o : OpI) (s : State), Together s →
    let n := o.imm.toNat
    let t := s.self
    let d := t.win.shift
    let e := (d : Int) + o.imm.toInt
    let narrow := 0 < t.win.depth ∧ n < t.win.overlap - d
    (narrow → Traps (.enter o) s cFrame n) ∧
    (¬narrow → Room t n 63 → Leads (.enter o) s (s.withSelf
      { t.clearFrame ((List.range (n - t.win.frame)).map (· + t.win.frame)) with win := { t.win with frame := n } })) ∧
    (e < 0 ∨ 192 < e → Traps (.wshr o) s cFrame (o.imm.signExtend 64).toNat) ∧
    (0 ≤ e → e ≤ 192 → (e ≤ d ∨ Room t (e.toNat - d + t.win.frame) 63) →
      (e < d → e < t.win.overlap → t.win.kept = true ∨ t.win.links ≠ [] ∨ t.win.depth = 0) → Leads (.wshr o) s (s.withSelf
      ({ t with win := { t.win with base := (t.win.origin + e.toNat) % 256 } }.clearFrame
        ((List.range t.win.frame).filter fun i =>
          decide ((e.toNat + i < d ∨ d + t.win.frame ≤ e.toNat + i) ∧ t.win.overlap ≤ e.toNat + i)))))

/-! ## Exceptions and returns -/

/-- R135: which mode handles a cause; where no mode does, the strand ends. -/
def HandlingMode : Prop :=
  (∀ (t : Strand) (c : BitVec 8),
    let user := 1 ≤ c.toNat ∧ c.toNat ≤ 6 ∧ t.mode = .user ∧ bitAt t.status 0 = true ∧ bitAt t.status 8 = false ∧ t.utrap.tvec.tag
    let hyper := t.mode = .hypervisor ∨ c = cSlice ∨ c = cDirtyLog ∨ c = cMachine
    (user → t.targetMode c = some .user) ∧
    (¬user → ¬hyper → t.strap.tvec.tag → t.targetMode c = some .supervisor) ∧
    (¬user → (hyper ∨ t.strap.tvec.tag = false) → t.htrap.tvec.tag → t.targetMode c = some .hypervisor) ∧
    (¬user → (hyper ∨ t.strap.tvec.tag = false) → t.htrap.tvec.tag = false → t.targetMode c = none)) ∧
  ∀ (s : State) (c : BitVec 8) (v : Word) (v2 : Option Word) (ex : Bool) (ret : Reg),
    s.self.live → s.self.targetMode c = none → ∃ t, deliver c v v2 ex ret s = .ok () t ∧ (t.strand s.cur).live = false

/-- R136: what the delivery of a cause saves, what the status and the mode become, and where the strand goes. Registers and the
register window do not change. -/
def DeliverEntersHandler : Prop :=
  ∀ (s : State) (c : BitVec 8) (v : Word) (v2 : Option Word) (ex : Bool) (ret : Reg) (m : Mode), Handler s c m →
    ∃ t, deliver c v v2 ex ret s = .ok () t ∧ Elsewhere (withdrawn s) t ∧ t.self.win = s.self.win ∧
      (∀ p, t.self.phys p = s.self.phys p) ∧ t.self.mode = (if m = .user then s.self.mode else m) ∧
      t.self.pcc = ⟨Cap.withKind (s.self.tvec m).val Cap.kMemory, (s.self.tvec m).tag⟩ ∧ t.self.uval2 = v2.getD s.self.uval2 ∧
      let cause : Word := BitVec.ofNat 64 (s.self.mode.num * 512 + (if ex then 256 else 0) + c.toNat)
      let saved : TrapRegs := { tvec := s.self.tvec m, epc := ret, cause := cause, val := v }
      (match m with
        | .user => t.self.utrap = saved ∧ t.self.strap = s.self.strap ∧ t.self.htrap = s.self.htrap ∧
            (∀ i < 64, bitAt t.self.status i = if i = 8 then true else bitAt s.self.status i)
        | .supervisor => t.self.utrap = s.self.utrap ∧ t.self.strap = saved ∧ t.self.htrap = s.self.htrap ∧
            fieldAt t.self.status 3 2 = s.self.mode.num ∧
            (∀ i < 64, i ≠ 3 → i ≠ 4 → bitAt t.self.status i =
              if i = 1 then false else if i = 2 then bitAt s.self.status 1 else bitAt s.self.status i)
        | .hypervisor => t.self.utrap = s.self.utrap ∧ t.self.strap = s.self.strap ∧ t.self.htrap = saved ∧
            fieldAt t.self.status 5 2 = s.self.mode.num ∧
            (∀ i < 64, i ≠ 5 → i ≠ 6 → bitAt t.self.status i =
              if i = 1 then false else if i = 7 then bitAt s.self.status 1 else bitAt s.self.status i))

/-- R131: `trap n` takes `syscall` with value n and the address behind it. -/
def TrapTakesSyscall : Prop :=
  ∀ (o : OpI) (s : State) (m : Mode), Together s → Handler s cSyscall m →
    ∃ t, exec (.trap o) s = .next t ∧ Enters s t m cSyscall (BitVec.ofNat 64 o.imm.toNat) none (s.self.pccAt s.self.npc)

/-- R103, R132: `uret`. -/
def UretReturns : Prop :=
  ∀ (o : OpN) (s : State), Together s →
    let p := s.self.utrap.epc
    let fault := installFault s.self.mode s.self.tid p
    (bitAt s.self.status 8 = false → Traps (.uret o) s cIll s.self.illValue) ∧
    (bitAt s.self.status 8 → p.tag = false → Traps (.uret o) s cTag (Cap.cursor p.val)) ∧
    (∀ c, bitAt s.self.status 8 → p.tag → fault = some c → Traps (.uret o) s c (Cap.cursor p.val)) ∧
    (bitAt s.self.status 8 → p.tag → fault = none →
      GoesTo (.uret o) s (s.withSelf { s.self with status := putBit s.self.status 8 false }) (installed p))

/-- R39, R103, R389: `sret` and `hret`: the modes that may use them, what they restore, and that an open region is lost. -/
def SretHretReturn : Prop :=
  ∀ (o : OpN) (s : State), Together s →
    let t := s.self
    let fault := installFault t.mode t.tid
    let spm := fieldAt t.status 3 2
    let hpm := fieldAt t.status 5 2
    (t.mode = .user ∨ t.mode.num < spm ∨ spm = 3 → Traps (.sret o) s cPriv t.illValue) ∧
    (t.mode ≠ .user → spm ≤ t.mode.num → t.strap.epc.tag → fault t.strap.epc = none →
      GoesTo (.sret o) s (s.withSelf { t with
        mode := modeOf spm, region := lostRegion t.region
        status := putField (putBit (putBit t.status 1 (bitAt t.status 2)) 2 false) 3 2 0 }) (installed t.strap.epc)) ∧
    (hpm = 3 → Traps (.hret o) s cIll t.illValue) ∧
    (hpm ≠ 3 → t.mode ≠ .hypervisor → Traps (.hret o) s cPriv t.illValue) ∧
    (t.mode = .hypervisor → hpm ≠ 3 → t.htrap.epc.tag → fault t.htrap.epc = none →
      GoesTo (.hret o) s (s.withSelf { t with
        mode := modeOf hpm, region := lostRegion t.region
        status := putField (putBit (putBit t.status 1 (bitAt t.status 7)) 7 false) 5 2 0 }) (installed t.htrap.epc))

/-- R133: `brk` halts both roles for a debugger and reports n and PC, and is illegal without one. R390: `wfi` completes when an
interrupt for the current mode or a higher one is pending, and else sleeps at its own address; user mode may not use it. -/
def BrkAndWfi : Prop :=
  (∀ (o : OpI) (s : State), Together s →
    (s.self.debugger.attached = false → Traps (.brk o) s cIll s.self.illValue) ∧
    (s.self.debugger.attached → Leads (.brk o) s
      { s.withSelf { s.self with status := s.self.status ||| 0x3000 } with
        units := { s.units with debugOut := s.units.debugOut ++
          [(s.cur, 0, BitVec.ofNat 64 o.imm.toNat), (s.cur, 1, BitVec.ofNat 64 s.self.pc)] } })) ∧
  (∀ (o : OpN) (s : State), Together s →
    let t := s.self
    let due := (t.timecmp ≠ 0 ∧ t.timecmp.toNat ≤ s.time ∧ t.mode = .supervisor) ∨
      ∃ e ∈ t.pending, t.mode = .supervisor ∨ e.1 = cSlice ∨ e.1 = cDirtyLog ∨ e.1 = cMachine
    (t.mode = .user → Traps (.wfi o) s cPriv t.illValue) ∧
    (t.mode ≠ .user → due → Leads (.wfi o) s s) ∧
    (t.mode ≠ .user → ¬due → ∃ u, exec (.wfi o) s = .next u ∧ u.self.pcc = t.pcc ∧ u.self.instret = t.instret ∧ SameAs s u))

/-! ## Control and status registers -/

/-- R81, R130: `csrr` gives the CSR's value in a mode that may read it, and raises `priv` with its number in another. -/
def CsrReads : Prop :=
  ∀ (o : OpRI) (s : State), Issues s [o.a] →
    let n := o.imm.toNat
    let low := (0x020 ≤ n ∧ n ≤ 0x023 ∧ s.self.mode = .user) ∨ (0x030 ≤ n ∧ n ≤ 0x033 ∧ s.self.mode ≠ .hypervisor)
    (low → Traps (.csrr o) s cPriv n) ∧ (¬low → Sets (.csrr o) s o.a (s.csr n))

/-- R39, R81, R82, R83, R84, R130: `csrw` to the CSRs that hold integers, saved PCCs, events, sources and thresholds: the mode that
may write each, the values that it excludes, and the bits that exist. -/
def CsrWrites : Prop :=
  ∀ (o : OpRI) (s : State), Issues s [o.a] →
    let n := o.imm.toNat
    let v := x s o.a
    let t := s.self
    let sup := t.mode ≠ .user
    let put := fun (n' : Nat) (u : Strand) => n = n' → Leads (.csrw o) s (s.withSelf u)
    let excluded := (n = 0x003 ∧ (fieldAt v 3 2 = 3 ∨ (t.mode = .hypervisor ∧ fieldAt v 5 2 = 3))) ∨
      ((n = 0x052 ∨ n = 0x0A0) ∧ 511 < v.toNat % 1024)
    (excluded → Traps (.csrw o) s cIll t.illValue) ∧
    (¬excluded → t.mode.num < (csrWriteMode n).num → Traps (.csrw o) s cPriv n) ∧
    (n = 0x004 → ¬sup → bitAt v 1 ≠ bitAt t.ctl 1 → Traps (.csrw o) s cPriv n) ∧
    (¬excluded → (csrWriteMode n).num ≤ t.mode.num → (n = 0x004 → sup ∨ bitAt v 1 = bitAt t.ctl 1) →
      n ∉ [0x010, 0x020, 0x030, 0x042, 0x068] →
      ∃ u, exec (.csrw o) s = .next u ∧ u.self.pcc = t.pccAt t.npc ∧ u.self.instret = t.instret + 1 ∧
        (∀ p, u.self.phys p = t.phys p) ∧ ∀ b, b ≠ s.cur → u.strand b = s.strand b) ∧
    (t.mode = .hypervisor → put 0x001 { t with tid := v.setWidth 12 }) ∧
    (sup → fieldAt v 3 2 ≠ 3 → (t.mode = .hypervisor → fieldAt v 5 2 ≠ 3) →
      let m : Word := if t.mode = .hypervisor then 0x1FF else 0x11F
      put 0x003 { t with status := (t.status &&& ~~~ m) ||| (v &&& m) }) ∧
    (sup ∨ bitAt v 1 = bitAt t.ctl 1 → put 0x004 { t with ctl := v &&& 7 }) ∧
    (sup → n = 0x00B → Leads (.csrwTimecmp o) s (s.withSelf { t with timecmp := v })) ∧
    put 0x011 { t with utrap := { t.utrap with epc := w s o.a } } ∧
    put 0x012 { t with utrap := { t.utrap with cause := v &&& 0x7FF } } ∧ put 0x013 { t with utrap := { t.utrap with val := v } } ∧
    put 0x014 { t with uval2 := v } ∧
    (sup → put 0x021 { t with strap := { t.strap with epc := w s o.a } } ∧
      put 0x022 { t with strap := { t.strap with cause := v &&& 0x7FF } } ∧
      put 0x023 { t with strap := { t.strap with val := v } } ∧
      put 0x060 { t with wlbound := v &&& 0xFFFF } ∧ put 0x061 { t with wlstat := v &&& 0xFF03 }) ∧
    (t.mode = .hypervisor → put 0x031 { t with htrap := { t.htrap with epc := w s o.a } } ∧
      put 0x032 { t with htrap := { t.htrap with cause := v &&& 0x7FF } } ∧
      put 0x033 { t with htrap := { t.htrap with val := v } }) ∧
    (v.toNat % 1024 ≤ 511 → put 0x052 { t with vec := { t.vec with vstart := v.toNat % 1024 } } ∧
      put 0x0A0 { t with felem := v.toNat % 1024 }) ∧
    put 0x058 { t with frm := v &&& 7 } ∧ put 0x059 { t with fexc := v &&& 0x7F } ∧
    put 0x069 { t with sndto := v &&& 0xFFFFFFFF } ∧ put 0x06A { t with depcol := v &&& 0xFFFFFFFF } ∧
    put 0x0A1 { t with faddr := v &&& 0xFFFFFFFFFFFF } ∧
    (sup → ∀ k < 8,
      (n = 0x088 + k → ∃ u, exec (.csrw o) s = .next u ∧ SameAs s u ∧ (u.coreCounter k).source = v.setWidth 16) ∧
      (n = 0x090 + k → ∃ u, exec (.csrw o) s = .next u ∧ SameAs s u ∧ (u.coreCounter k).threshold = v))

/-- R82, R156: what a write of a handler CSR, of `wspill` and of `rqovf` asks of the value. -/
def CapabilityCsrWrites : Prop :=
  ∀ (o : OpRI) (s : State), Issues s [o.a] →
    let n := o.imm.toNat
    let r := w s o.a
    let a := Cap.cursor r.val
    let t := s.self
    let entry := Cap.kind r.val = Cap.kEntry ∧ Cap.has r.val Cap.x
    let store := Cap.kind r.val = Cap.kMemory ∧ Cap.has r.val (Cap.ld ||| Cap.st ||| Cap.lc ||| Cap.sc)
    let vector := fun (n' : Nat) (u : Strand) => n = n' →
      (r.tag = false → Traps (.csrw o) s cTag a) ∧ (r.tag → ¬entry → Traps (.csrw o) s cPerm a) ∧
      (r.tag → entry → Leads (.csrw o) s (s.withSelf u))
    vector 0x010 { t with utrap := { t.utrap with tvec := r } } ∧
    (t.mode ≠ .user → vector 0x020 { t with strap := { t.strap with tvec := r } }) ∧
    (t.mode = .hypervisor → vector 0x030 { t with htrap := { t.htrap with tvec := r } }) ∧
    (t.mode ≠ .user → n = 0x042 →
      (r.tag = false → Traps (.csrw o) s cTag a) ∧ (r.tag → ¬store → Traps (.csrw o) s cPerm a) ∧
      (r.tag → store → Leads (.csrw o) s (s.withSelf { t with win := { t.win with spill := r } }))) ∧
    (n = 0x068 →
      (r.tag = false → Traps (.csrwRqovf o) s cTag a) ∧ (r.tag → ¬store → Traps (.csrwRqovf o) s cPerm a) ∧
      (r.tag → store → t.rqovf.tag = false →
        Leads (.csrwRqovf o) s (s.withSelf { t with rqovf := r, areaFull := false })))

/-! ## Loads and stores -/

/-- R77, R293: the checks of an access come in this order, and the first that fails is raised with the address; with all of them
passed, a leaf that does not grant the access raises `xlat`. -/
def AccessChecksInOrder : Prop :=
  ∀ (o : OpRX) (m : MemMod) (s : State), Issues s [o.a, o.b] →
    let c := at2 s o
    let a := Cap.cursor c.val
    let k := 2 ^ m.width.toNat
    let perms := if (w s o.a).tag then Cap.st ||| Cap.sc else Cap.st
    let stops := fun (i : Instr) (perm : BitVec 12) (n : Nat) =>
      (∀ f, checkFault s c perm [Cap.kMemory] n = some f → Traps i s f a) ∧
      (checkFault s c perm [Cap.kMemory] n = none → ∀ e, TlbHas s (Cap.tenant c.val) a e → pteGrants e.pte perm = false →
        Traps i s cXlat a)
    (Cap.kind c.val ≠ Cap.kQueue → stops (.ld o m) Cap.ld k) ∧ stops (.st o m) Cap.st k ∧
    stops (.ldc o m) (Cap.ld ||| Cap.lc) 16 ∧ stops (.stc o m) perms 16

/-- R74, R108, R307: what `ld` reads. A scratchpad or slice is read where it lies; DRAM and die scratchpads at core scope through the
L1, otherwise at their home, after the core has written its line back and dropped it. An acquire follows. -/
def LoadReads : Prop :=
  ∀ (o : OpRX) (m : MemMod) (s : State) (a : Nat) (e : Word), Issues s [o.a, o.b] → m.width.toNat ≤ 3 →
    let k := 2 ^ m.width.toNat
    Opens s (at2 s o) Cap.ld k a e →
    let put := fun (u : State) (v : Word) =>
      let u := acquired u m.ord.toNat m.scope.toNat
      u.withSelf (u.self.putW o.a.toNat (Reg.ofWord v))
    (Direct a → NoPartials s → s.firstBad a k = none → Leads (.ld o m) s (put s (got k m.sx (s.bytesAt a k)))) ∧
    (cacheable a → m.scope = 1 → m.nt = false → pteNc e = false → NoPartials s → LinesOk s → s.firstBad a k = none → Sound s a →
      let u := roomFor s a
      Sees (.ld o m) s u (u.self.putW o.a.toNat (Reg.ofWord (got k m.sx (u.viewBytes (coreOf s.cur) a k)))) a []) ∧
    (cacheable a → m.scope ≠ 1 ∨ pteNc e →
      let u := s.leaveLine (coreOf s.cur) (a / 128)
      NoPartials u → u.firstBad a k = none → Leads (.ld o m) s (put u (got k m.sx (u.bytesAt a k))))

/-- R110: `ldc` takes 16 bytes and the granule's tag. R100: `ldk` reads 8 bytes through the PCC, aligned and in its bounds. -/
def LoadCapabilityAndConstant : Prop :=
  (∀ (o : OpRX) (m : MemMod) (s : State) (a : Nat) (e : Word), Issues s [o.a, o.b] →
    Opens s (at2 s o) (Cap.ld ||| Cap.lc) 16 a e →
    let put := fun (u : State) =>
      let v := acquired u m.ord.toNat m.scope.toNat
      v.withSelf (v.self.putW o.a.toNat ⟨BitVec.ofNat 128 (leNat (u.bytesAt a 16)), u.tagAt a⟩)
    (Direct a → NoPartials s → s.firstBad a 16 = none → Leads (.ldc o m) s (put s)) ∧
    (cacheable a → m.scope ≠ 1 ∨ pteNc e →
      let u := s.leaveLine (coreOf s.cur) (a / 128)
      NoPartials u → u.firstBad a 16 = none → Leads (.ldc o m) s (put u))) ∧
  (∀ (o : OpRI) (s : State), Issues s [o.a] →
    let va : Nat := (((s.self.pc : Int) + o.imm.toInt) % 2 ^ 48).toNat
    let inside := Cap.base s.self.pcc.val ≤ va ∧ (va : Int) + 8 ≤ Cap.top s.self.pcc.val
    (va % 8 ≠ 0 → Traps (.ldk o) s cAlign va) ∧ (va % 8 = 0 → ¬inside → Traps (.ldk o) s cBounds va) ∧
    (∀ p e, va % 8 = 0 → inside → Maps s (Cap.tenant s.self.pcc.val) va Cap.x p e → pkgOf p = s.pkg → pteM e = false →
      pteNc e = false → cacheable (localOf p) → NoPartials s → LinesOk s → s.firstBad (localOf p) 8 = none →
      Sound s (localOf p) →
      let u := roomFor s (localOf p)
      Sees (.ldk o) s u (u.self.putW o.a.toNat (Reg.ofWord (got 8 false (u.viewBytes (coreOf s.cur) (localOf p) 8))))
        (localOf p) []))

/-- R75, R108, R110: what `st` and `stc` write, and that a capability without `gl` stays in the strand's own memory. A release
comes first. At core scope a store to DRAM or a die scratchpad goes into the L1: the core itself sees it, no other byte differs
for any core. -/
def StoreWrites : Prop :=
  ∀ (o : OpRX) (m : MemMod) (s : State) (a : Nat) (e : Word), Issues s [o.a, o.b] → m.width.toNat ≤ 3 →
    let k := 2 ^ m.width.toNat
    let r := w s o.a
    let perms := if r.tag then Cap.st ||| Cap.sc else Cap.st
    let narrow := r.tag = true ∧ Cap.has r.val Cap.gl = false
    let old := released s m.ord.toNat m.scope.toNat
    (Opens s (at2 s o) Cap.st k a e →
      (DirectOwn s a → NoPartials old → Leads (.st o m) s (old.homePut a (leBytes k r.word.toNat))) ∧
      (cacheable a → m.scope = 1 → m.nt = false → pteNc e = false → NoPartials s → LinesOk s → s.badAt a = 0 → Sound s a →
        let u := roomFor s a
        Sees (.st o m) s u u.self a (leBytes k r.word.toNat))) ∧
    (Opens s (at2 s o) perms 16 a e → DirectOwn s a →
      (narrow → ¬s.ownPlace (s.globalOf a) → Traps (.stc o m) s cPerm (Cap.cursor (at2 s o).val)) ∧
      (¬narrow ∨ s.ownPlace (s.globalOf a) → NoPartials old → old.badAt a = 0 →
        let new := old.homePut a (leBytes 16 r.val.toNat)
        Leads (.stc o m) s (if r.tag then new.putTag a true else new)))

/-- R78, R163: bytes put at their home are the bytes that are read there, no other byte differs, and the granules lose their
tags, also where a window names the same scratchpad (R274). -/
def HomePutIsRead : Prop :=
  ∀ (s : State) (a : Nat) (bs : List Byte), (∀ i < bs.length, s.badAt (a + i) = 0) →
    (∀ i < bs.length, ∀ j < bs.length, canon (a + i) = canon (a + j) → i = j) →
    (∀ i < bs.length, (s.homePut a bs).byteAt (a + i) = bs.getD i 0 ∧ (s.homePut a bs).tagAt (a + i) = false) ∧
    (∀ b, (∀ i < bs.length, canon b ≠ canon (a + i)) → (s.homePut a bs).byteAt b = s.byteAt b) ∧
    (∀ b, (∀ i < bs.length, canon b / 16 ≠ canon (a + i) / 16) → (s.homePut a bs).tagAt b = s.tagAt b)

/-! ## Atomics and futures -/

/-- R112, R113, R114, R277: an atomic works at the home, after the core's line has been written back and dropped, and gives the
old value. -/
def AtomicsAtHome : Prop :=
  (∀ (o : OpRRR) (m : AmoMod) (s : State) (a : Nat) (e : Word), Issues s [o.a, o.b, o.c] →
    let k := if m.w32 then 4 else 8
    Opens s (at3 s o) (Cap.ld ||| Cap.st ||| Cap.atm) k a e → (cacheable a ∨ DirectOwn s a) →
    let u := (released s m.ord.toNat m.scope.toNat).leaveLine (coreOf s.cur) (a / 128)
    NoPartials u → u.firstBad a k = none →
    let old := leNat (u.bytesAt a k)
    let y := (x s o.a).toNat % 2 ^ (8 * k)
    let sgn := fun (n : Nat) => if 2 ^ (8 * k - 1) ≤ n then (n : Int) - 2 ^ (8 * k) else n
    let does := fun (i : Instr) (new : Nat) (sx : Bool) =>
      let t := acquired (u.homePut a (leBytes k new)) m.ord.toNat m.scope.toNat
      Leads i s (t.withSelf (t.self.putW o.a.toNat (Reg.ofWord (got k sx (u.bytesAt a k)))))
    does (.amoAdd o m) ((old + y) % 2 ^ (8 * k)) false ∧ does (.amoAnd o m) (old &&& y) false ∧
    does (.amoOr o m) (old ||| y) false ∧ does (.amoXor o m) (old ^^^ y) false ∧
    does (.amoMin o m) (if sgn y < sgn old then y else old) true ∧ does (.amoMax o m) (if sgn old < sgn y then y else old) true ∧
    does (.amoMinn o m) (min old y) false ∧ does (.amoMaxn o m) (max old y) false ∧ does (.amoSwap o m) y false) ∧
  (∀ (o : OpRRR) (m : MemMod) (s : State) (a : Nat) (e : Word), Issues s [o.a, o.b, o.c] → Ready s [⟨0, o.a.toNat + 1, true, false⟩] →
    o.a ≠ 63 → (m.width = 2 ∨ m.width = 3) →
    let k := 2 ^ m.width.toNat
    Opens s (at3 s o) (Cap.ld ||| Cap.st ||| Cap.atm) k a e → (cacheable a ∨ DirectOwn s a) →
    let u := (released s m.ord.toNat m.scope.toNat).leaveLine (coreOf s.cur) (a / 128)
    NoPartials u → u.firstBad a k = none →
    let new := (x s (o.a + 1)).toNat % 2 ^ (8 * k)
    let v := if leNat (u.bytesAt a k) = (x s o.a).toNat % 2 ^ (8 * k) then u.homePut a (leBytes k new) else u
    let t := acquired v m.ord.toNat m.scope.toNat
    Leads (.cas o m) s (t.withSelf (t.self.putW o.a.toNat (Reg.ofWord (got k m.sx (u.bytesAt a k))))))

/-- R116, R117, R118: a future is read when it is full and filled when it is empty, at its home; otherwise `fempty` and `ffull`
tell the cell and what it holds, and the cell does not change. -/
def FuturesReadAndFill : Prop :=
  ∀ (o : OpRR) (m : MemMod) (s : State) (a : Nat) (e : Word), Issues s [o.a, o.b] → (cacheable a ∨ DirectOwn s a) →
    let full := fun (u : State) => leNat (u.bytesAt (a + 8) 8) % 2 = 1
    let value : State → Word := fun u => BitVec.ofNat 64 (leNat (u.bytesAt a 8))
    (Opens s (w s o.b) Cap.ld 16 a e →
      let u := s.leaveLine (coreOf s.cur) (a / 128)
      let t := acquired u m.ord.toNat m.scope.toNat
      NoPartials u → u.firstBad a 16 = none →
      (¬full u → TrapsIn (.frd o m) s u cFempty (BitVec.ofNat 64 (Cap.cursor (w s o.b).val)) (some 0)) ∧
      (full u → Leads (.frd o m) s (t.withSelf (t.self.putW o.a.toNat (Reg.ofWord (value u)))))) ∧
    (Opens s (w s o.a) (Cap.st ||| Cap.atm) 16 a e →
      let u := (released s m.ord.toNat m.scope.toNat).leaveLine (coreOf s.cur) (a / 128)
      NoPartials u → u.firstBad a 16 = none →
      (full u → TrapsIn (.fwr o m) s u cFfull (BitVec.ofNat 64 (Cap.cursor (w s o.a).val)) (some (value u))) ∧
      (¬full u → Leads (.fwr o m) s (u.homePut a (leBytes 8 (x s o.b).toNat ++ leBytes 8 1))))

/-! ## Fences and lines -/

/-- R115, R148: a fence beyond core scope writes back the core's dirty lines, drops its lines, or both; an acquire of any scope drops
the core's instructions. R290: `wb` and `inv` act on the
lines of a range within one page, `pf` changes no result and raises nothing, and a length of 0 does nothing. -/
def FencesAndLines : Prop :=
  (∀ (o : OpN) (m : MemMod) (s : State), Together s →
    let far := 2 ≤ m.scope.toNat
    let core := coreOf s.cur
    Leads (.fenceAcq o m) s (if far then s.acquireCore core else s.refetch core) ∧
    Leads (.fenceRel o m) s (if far then s.releaseCore core else s) ∧
    Leads (.fenceAr o m) s (if far then (s.releaseCore core).acquireCore core else s.refetch core)) ∧
  (∀ (o : OpRX) (m : MemMod) (s : State), Issues s [o.a, o.b] →
    let l := (x s o.a).toNat
    let c := at2 s o
    let va := Cap.cursor c.val
    (l = 0 → Leads (.wb o m) s s ∧ Leads (.inv o m) s s ∧ Leads (.pf o m) s s) ∧
    (65536 < l → Traps (.wb o m) s cBounds va ∧ Traps (.inv o m) s cBounds va) ∧
    (∀ f, 0 < l → l ≤ 65536 → checkFault s c Cap.ld [Cap.kMemory] l = some f → Traps (.wb o m) s f va ∧ Traps (.inv o m) s f va) ∧
    (∀ p e, 0 < l → l ≤ 65536 → checkFault s c Cap.ld [Cap.kMemory] l = none → va / 65536 = (va + l - 1) / 65536 →
      Maps s (Cap.tenant c.val) va Cap.ld p e → (∀ i < l, pkgOf (p + i) = s.pkg) →
      let beyond := fun (f : State → Nat → Nat → State) => (lineParts va l).foldl (fun u q =>
        f u (coreOf s.cur) (localOf (p + (q.1 - va)) / 128)) s
      Leads (.wb o m) s (beyond State.writeBackLine) ∧ Leads (.inv o m) s (beyond State.leaveLine)) ∧
    (m.scope ≠ 1 → Leads (.pf o m) s s) ∧
    (∃ t, exec (.pf o m) s = .next t ∧ t.self.pcc = s.self.pccAt s.self.npc ∧ (∀ p, t.self.phys p = s.self.phys p)))

/-! ## Barriers -/

/-- R259, R260, R261, R263: the group capability's checks; an arrival while another member has not arrived is kept; the last
one completes the phase, which clears every member's arrival; a drop counts in this phase and leaves the group. Within a
package. -/
def ArrivalsCompletePhases : Prop :=
  ∀ (o : OpR) (s : State) (scope g : Nat), Issues s [o.a] →
    let c := w s o.a
    let a := Cap.cursor c.val
    let t := s.self
    let b := groupBit scope g
    let refuses := fun (f : BitVec 8) => Traps (.arv o) s f a ∧ Traps (.ard o) s f a
    (∀ f, checkFault s c Cap.br [Cap.kGroup] 1 = some f → refuses f ∧ Traps (.bwt o) s f a) ∧
    (checkFault s c Cap.br [Cap.kGroup] 1 = none →
      ((¬∃ scope g, NamesGroup s c scope g) → refuses cPerm ∧ Traps (.bwt o) s cPerm a) ∧
      (NamesGroup s c scope g →
        (t.arrived.getLsbD b = false → s.gangPending s.cur scope g = false → Leads (.bwt o) s s) ∧
        (t.arrived.getLsbD b ∨ s.gangPending s.cur scope g → Waits (.bwt o) s) ∧
        (t.members.getLsbD b = false ∨ t.arrived.getLsbD b ∨ s.gangPending s.cur scope g → refuses cBar) ∧
        (t.members.getLsbD b → t.arrived.getLsbD b = false → s.gangPending s.cur scope g = false → scope ≤ 4 →
          NoReduction s scope g →
          ((∃ m ∈ others s scope g, (s.strand m).arrived.getLsbD b = false) →
            Leads (.arv o) s (s.withSelf { t with arrived := setBit t.arrived b }) ∧
            Leads (.ard o) s (s.withSelf { t with arrived := setBit t.arrived b, members := clearBit t.members b })) ∧
          (t.live → (∀ m ∈ others s scope g, (s.strand m).arrived.getLsbD b) →
            let done := fun (i : Instr) => ∃ u, exec i s = .next u ∧ u.self.pcc = t.pccAt t.npc ∧
              u.self.arrived = clearBit t.arrived b ∧ ∀ m ∈ others s scope g, (u.strand m).arrived = clearBit (s.strand m).arrived b
            done (.arv o) ∧ (others s scope g ≠ [] → done (.ard o))))))

/-- R264: `bmem` exchanges the membership mask of one scope, within a package: the old mask is the result, a group that is left
loses the strand's arrival, and a mask of more than 16 bits is illegal. -/
def BmemExchangesMask : Prop :=
  ∀ (o : OpRRC) (s : State) (scope g : Nat), Issues s [o.a, o.x, o.y] →
    let new := x s o.x
    let c := w s o.y
    let old : Nat := (s.self.members.toNat / 2 ^ (16 * scope)) % 65536
    (65536 ≤ new.toNat → Traps (.bmem o) s cIll s.self.illValue) ∧
    (new.toNat < 65536 → checkFault s c Cap.br [Cap.kGroup] 1 = none → NamesGroup s c scope g → scope ≤ 4 →
      ∃ t, exec (.bmem o) s = .next t ∧ t.self.pcc = s.self.pccAt s.self.npc ∧ w t o.a = Reg.ofWord (BitVec.ofNat 64 old) ∧
        (∀ p, p % 256 ≠ s.self.physOf o.a.toNat → t.self.phys p = s.self.phys p) ∧
        ∀ i < 128, t.self.members.getLsbD i =
          (if i / 16 = scope then new.getLsbD (i % 16) else s.self.members.getLsbD i) ∧
          (i / 16 = scope → s.self.members.getLsbD i → new.getLsbD (i % 16) = false → t.self.arrived.getLsbD i = false))

/-- R265: a `sync` by no member raises `bar` with value 0. The first time it arrives, in group 15 of its scope, and waits; with
its own arrival pending it waits on; once that phase has completed it completes, with the acquire and the grant change of
R170. One that a trap has interrupted begins anew. -/
def SyncEndsSuperstep : Prop :=
  ∀ (o : OpN) (m : MemMod) (s : State), Together s →
    let scope := m.scope.toNat
    let b := groupBit scope 15
    let t := s.self
    let g := t.vec.lanes.length
    let short := s.demand (quadOf s.cur) - s.freeLanes (quadOf s.cur)
    (t.members.getLsbD b = false → Traps (.sync o m) s cBar 0) ∧
    (t.members.getLsbD b → t.syncing.getLsbD b = false → t.arrived.getLsbD b → Traps (.sync o m) s cBar 0) ∧
    (t.members.getLsbD b → t.syncing.getLsbD b = false ∨ t.inSync = false → t.arrived.getLsbD b = false →
      s.gangPending s.cur scope 15 = false → t.dropped = [] → s.stepsOutstanding s.cur = false → scope = 1 →
      (∃ m ∈ others s scope 15, (s.strand m).arrived.getLsbD b = false) →
      ∃ u, exec (.sync o m) s = .next u ∧ u.self.pcc = t.pcc ∧ u.self.instret = t.instret ∧
        SameAs (s.withSelf { t with syncing := setBit t.syncing b, arrived := setBit t.arrived b, inSync := true }) u) ∧
    (t.members.getLsbD b → t.syncing.getLsbD b → t.arrived.getLsbD b →
      ∃ u, exec (.sync o m) s = .next u ∧ u.self.pcc = t.pcc ∧ u.self.instret = t.instret ∧
        SameAs (s.withSelf { t with inSync := true }) u) ∧
    (t.members.getLsbD b → t.syncing.getLsbD b → t.inSync → t.arrived.getLsbD b = false →
      (∃ u, exec (.sync o m) s = .next u ∧ u.self.pcc = t.pccAt t.npc ∧ u.self.syncing = clearBit t.syncing b ∧
        (s.completingBelow scope s.cur = [] →
          u.self.vec.lanes = t.vec.lanes.take (if 8 < g then g - min (g - 8) short else g))) ∧
      (short = 0 → (∀ c, s.colony (s.colonyOf s.cur) = some c → c.yield = none) →
        Leads (.sync o m) s (acquired (s.withSelf { t with syncing := clearBit t.syncing b, inSync := false }) 1 scope)))

/-! ## Messages, deposits and monitors -/

/-- R154, R155, R411: a message of one to three registers goes into the target's queue, behind the sender's puts and what it has
released at the scope that contains both. A full queue without an overflow area makes the sender wait, or raises `sendblk` at
once where `sndto` is 0; the target notes whom it has refused. Within a package. -/
def SendDelivers : Prop :=
  ∀ (o : OpRRR) (s : State),
    let n := o.imm.toNat + 1
    n ≤ 3 → o.b.toNat + n ≤ 64 → Issues s [o.a, o.c] → Ready s ((List.range n).map fun i => ⟨0, o.b.toNat + i, true, false⟩) →
    let c := w s o.a
    let ps := (List.range n).map fun i => w s (o.b + BitVec.ofNat 6 i)
    let msg : Message := { src := s.fullSid s.cur, kind := (x s o.c).setWidth 16, payload := ps }
    let sid := Cap.cursor c.val % 16384
    let local_ := ∃ r ∈ ps, r.tag = true ∧ Cap.has r.val Cap.gl = false
    let old := released s 2 (commonScope s.cur sid)
    checkFault s c Cap.st [Cap.kStrand] 1 = none →
    (local_ → Traps (.send o) s cPerm (Cap.cursor c.val)) ∧
    (¬local_ → Cap.cursor c.val % 2 ^ 28 / 16384 = s.pkg → s.self.refusedAt = none → s.self.asked = [] → s.self.reoffer = false →
      (s.putsOutstanding s.cur = true → Waits (.send o) s) ∧
      (s.putsOutstanding s.cur = false → (old.strand sid).live → areaShape (old.strand sid).rqovf = none →
      let noted := lookupD [] old.units.refusals sid
      let refused := if noted.contains (s.fullSid s.cur) ∨ 64 ≤ noted.length then old
        else { old with units := { old.units with refusals := storeAt [] sid (noted ++ [s.fullSid s.cur]) old.units.refusals } }
      ((old.strand sid).inbox.length < 64 → Leads (.send o) s (old.withStrand sid (delivered (old.strand sid) msg))) ∧
      (64 ≤ (old.strand sid).inbox.length → s.self.sndto = 0 →
        TrapsIn (.send o) s refused cSendblk (BitVec.ofNat 64 (Cap.cursor c.val)) (some 0)) ∧
      (64 ≤ (old.strand sid).inbox.length → s.self.sndto ≠ 0 → ∃ t, exec (.send o) s = .next t ∧ t.self.pcc = s.self.pcc ∧
        t.self.instret = s.self.instret ∧ (∀ p, t.self.phys p = s.self.phys p) ∧ (t.strand sid).inbox = (old.strand sid).inbox ∧
        t.rest = refused.rest)))

/-- R157: `recv` takes the oldest message: header, payload in three registers, tags with it; with none the header is 0. -/
def RecvTakesOldest : Prop :=
  ∀ (o : OpRR) (s : State), Issues s [o.a, o.b] →
    Ready s [⟨0, o.a.toNat + 1, false, true⟩, ⟨0, o.a.toNat + 2, false, true⟩] → o.a.toNat + 2 < 64 →
    (s.self.inbox = [] → areaShape s.self.rqovf = none → SetsX (.recv o) s o.b 0) ∧
    (∀ m ms, s.self.inbox = m :: ms → m.src.toNat / 16384 = s.pkg →
      let word := fun (i : Nat) => (m.payload[i]?).getD Reg.zero
      let t := ((({ s.self with inbox := ms }.putW o.a.toNat (word 0)).putW (o.a + 1).toNat (word 1)).putW (o.a + 2).toNat
        (word 2)).putW o.b.toNat
          (Reg.ofWord (BitVec.ofNat 64 (2 ^ 63 + m.payload.length * 2 ^ 48 + m.kind.toNat * 2 ^ 32 + m.src.toNat)))
      let u := acquired (s.withSelf t) 1 (commonScope s.cur (m.src.toNat % 16384))
      let refill : List Event := if s.self.rqovf.tag then [.overflowRefill s.cur] else []
      let notice : List Event := if lookupD [] u.units.refusals s.cur = [] then [] else [.reofferNotice s.cur]
      Leads (.recv o) s { u with agenda := u.agenda ++ refill ++ notice })

/-- R151, R158: a deposit writes one register of another strand of the package, sets its wake flag, and counts a collision; a
target that does not run, or whose frame ends below the register, refuses it. A release comes behind the strand's puts. -/
def DepositsArrive : Prop :=
  ∀ (o : OpRRR) (m : MemMod) (s : State), Issues s [o.a, o.b, o.c] →
    let c := w s o.a
    let v := w s o.b
    let n := x s o.c
    let sid := Cap.cursor c.val % 16384
    checkFault s c Cap.dp [Cap.kStrand] 1 = none →
    (v.tag → Cap.has v.val Cap.gl = false → Traps (.rdep o m) s cPerm (Cap.cursor c.val)) ∧
    (v.tag = false ∨ Cap.has v.val Cap.gl → m.ord = 2 → s.putsOutstanding s.cur → Waits (.rdep o m) s) ∧
    (v.tag = false ∨ Cap.has v.val Cap.gl → Cap.cursor c.val % 2 ^ 28 / 16384 = s.pkg →
      (m.ord = 2 → s.putsOutstanding s.cur = false) →
      let old := released s m.ord.toNat m.scope.toNat
      let t := old.strand sid
      let refused := fun (v2 : Word) => Traps2 (.rdep o m) s cDepref (BitVec.ofNat 64 (Cap.cursor c.val)) (some v2)
      (t.live = false → refused (BitVec.ofNat 64 (2 ^ 63 ||| n.toNat))) ∧
      (t.live → t.win.frame ≤ n.toNat → refused n) ∧
      (t.live → n.toNat < t.win.frame → ∃ u, exec (.rdep o m) s = .next u ∧ u.self.pcc = s.self.pccAt s.self.npc ∧
        (u.strand sid).phys (t.physOf n.toNat) = v ∧ (u.strand sid).wake = true) ∧
      (t.live → n.toNat < t.win.frame → sid ≠ s.cur → t.named.contains n.toNat = false →
        Leads (.rdep o m) s (old.withStrand sid { t.deposit (t.physOf n.toNat) v with wake := true })))

/-- R161 to R164: `mon` adds a line to the strand's filter, or clears it for an untagged register; `wait` ends at once when the
wake flag is set or a message is there, and else sleeps at its own address. -/
def MonitorsAndWait : Prop :=
  (∀ (o : OpR) (s : State), Issues s [o.a] →
    let c := w s o.a
    (c.tag = false → Leads (.mon o) s (s.withSelf { s.self with monitor := 0 })) ∧
    (∀ f, c.tag → checkFault s c Cap.ld [Cap.kMemory] 1 = some f → Traps (.mon o) s f (Cap.cursor c.val)) ∧
    (∀ p e, c.tag → checkFault s c Cap.ld [Cap.kMemory] 1 = none → Maps s (Cap.tenant c.val) (Cap.cursor c.val) Cap.ld p e →
      let line := p / 128
      let bit := fun (r : Nat) => 1#1024 <<< foldHash ((line >>> r) ||| (line <<< (48 - r)) % 2 ^ 48)
      Leads (.mon o) s (s.withSelf { s.self with monitor := s.self.monitor ||| bit 0 ||| bit 16 ||| bit 32 }))) ∧
  (∀ (o : OpN) (s : State), Together s →
    (s.self.wake ∨ s.self.inbox ≠ [] → Leads (.wait o) s (s.withSelf { s.self with wake := false })) ∧
    (s.self.wake = false → s.self.inbox = [] → Waits (.wait o) s))

/-! ## Swarm worklists -/

/-- R314, R318, R319: `push` places one item in the engine of the strand's own die, not yet counted, after a release at the
instance's scope, and sends its count to the home. -/
def PushPlacesItem : Prop :=
  ∀ (o : OpRRR) (s : State) (die i gen : Nat), Issues s [o.a, o.b, o.c] →
    let c := w s o.a
    let key := (x s o.b).toNat % 2 ^ 32
    let v := w s o.c
    let d := dieOf s.cur
    let inst := instName s.pkg die i
    NamesInstance s c die i gen → (s.slot die i).broken = false →
    (s.inInstScope s.cur s.pkg die i = false → Traps (.push o) s cPerm (Cap.cursor c.val)) ∧
    (CanPush s die i v →
      let old := released s 2 (s.slot die i).scope
      let item : Item := { inst := inst, gen := gen, key := key, cls := o.imm.toNat % 4, arg := v, pending := true, reserved := none,
                           run := none, colony := s.colonyOf s.cur, away := false }
      let count : WlCount := { home := die, slot := i, gen := gen, die := engineName s.pkg d, n := 1, key := key,
                               sid := (s.fullSid s.cur).toNat }
      let firsts := (old.die d).firsts
      Leads (.push o) s (posting (old.withDie d { old.die d with
        items := (old.die d).items ++ [item]
        firsts := if firsts.contains (inst, gen) then firsts else firsts ++ [(inst, gen)] }) [.countApply count]))

/-- R316, R321, R324: `pop` within the package. An item whose bound is within k is committed: A and A+1 get it, `wlbound` the
bound, `wlstat` bit 0; the task begins. With nothing counted the answer is quiescent, or dry when every task is the strand's
own; otherwise the pop waits at the home. Four tasks are the most. -/
def PopAnswers : Prop :=
  ∀ (o : OpRR) (s : State) (die i gen : Nat), Issues s [o.a, o.b] → Ready s [⟨0, o.a.toNat + 1, false, true⟩] → o.a ≠ 63 →
    let c := w s o.b
    let t := s.self
    let h := s.slot die i
    let inst := instName s.pkg die i
    let me := engineName s.pkg (dieOf s.cur)
    let gets := fun (hi : Nat) (status : Nat) => ∃ u, exec (.pop o) s = .next u ∧ u.self.pcc = t.pccAt t.npc ∧
      w u o.a = Reg.ofWord (BitVec.ofNat 64 hi) ∧ w u (o.a + 1) = w s (o.a + 1) ∧ u.self.tasks = t.tasks ∧
      u.self.wlbound = 0 ∧ u.self.wlstat = BitVec.ofNat 64 status
    (4 ≤ t.tasks.length → Traps (.pop o) s cIll t.illValue) ∧
    (t.tasks.length < 4 → t.pop = none → NamesInstance s c die i gen → Ripe s die i → s.inInstScope s.cur s.pkg die i = true →
      h.asked = [] →
      (∀ y ∈ (s.die (dieOf s.cur)).items, y.inst = inst → y.run = none) →
      (∀ k a, propose (dieOf s.cur) inst gen none s = .ok (some k) s → h.boundOf me (some k) = some a → a ≤ h.k → h.pops = [] →
        h.hold = [] →
        ∃ u, exec (.pop o) s = .next u ∧ u.self.pcc = t.pccAt t.npc ∧
          w u o.a = Reg.ofWord (BitVec.ofNat 64 (2 ^ 63 + k.cls * 2 ^ 32 + k.key)) ∧ w u (o.a + 1) = k.arg ∧
          u.self.tasks = t.tasks ++ [task s die i gen] ∧
          u.self.wlbound = BitVec.ofNat 64 a ∧ u.self.wlstat = 1 ∧ (u.slot die i).inflight = h.inflight + 1) ∧
      (propose (dieOf s.cur) inst gen none s = .ok none s → h.counted = 0 → h.pops = [] → h.hold = [] →
        (h.inflight = 0 → gets (2 ^ 62) (if t.tasks = [] then 2 else 3)) ∧
        (h.inflight ≠ 0 → h.inflight = tasksOf s die i gen → gets 0 1) ∧
        (h.inflight ≠ 0 → h.inflight ≠ tasksOf s die i gen → ∃ u, exec (.pop o) s = .next u ∧ u.self.pcc = t.pcc ∧
          u.self.pop.isSome ∧ ∃ p ∈ (u.slot die i).pops, p.sid = (s.fullSid s.cur).toNat)))

/-- R327, R328: `wldone` ends the strand's most recent task at its home. `yield` pushes, ends a task and pops: in an instance that
holds nothing else it gets back what it pushed. Both need a task. -/
def TasksEnd : Prop :=
  (∀ (s : State), Together s →
    let t := s.self
    (t.tasks = [] → Traps .wldone s cIll t.illValue) ∧
    (∀ ks k, t.tasks = ks ++ [k] → k.pkg = s.pkg → s.worklistBusy k.sid k.home k.slot = false → (s.slot k.home k.slot).used →
      (s.slot k.home k.slot).gen = k.gen → (s.slot k.home k.slot).saved = false → (s.slot k.home k.slot).broken = false →
      ∃ u, exec .wldone s = .next u ∧ u.self.pcc = t.pccAt t.npc ∧ u.self.tasks = ks ∧ (∀ p, u.self.phys p = t.phys p) ∧
        bitAt u.self.wlstat 0 = (bitAt t.wlstat 0 && !ks.isEmpty) ∧
        (u.slot k.home k.slot).inflight = (s.slot k.home k.slot).inflight - 1)) ∧
  (∀ (o : OpRR) (s : State) (die i gen : Nat), Issues s [o.a, o.b] → Ready s [⟨0, o.a.toNat + 1, true, true⟩] → o.a ≠ 63 →
    let t := s.self
    let h := s.slot die i
    let v := w s (o.a + 1)
    let word := x s o.a
    (t.tasks = [] → t.pop = none → Traps (.yield o) s cIll t.illValue) ∧
    (∀ ks k, t.tasks = ks ++ [k] → t.pop = none → s.cur < 8192 → NamesInstance s (w s o.b) die i gen → Ripe s die i →
      CanPush s die i v → (∀ c, s.colony (s.colonyOf s.cur) = some c → c.allocOf 6 = unlimited) →
      h.dcount = [] → h.g = [] → h.above = 0 → h.pops = [] → h.hold = [] → h.asked = [] →
      (∀ y ∈ (s.die (dieOf s.cur)).items, y.inst = instName s.pkg die i → y.gen ≠ gen) →
      k.pkg = s.pkg → s.worklistBusy k.sid k.home k.slot = false → (s.slot k.home k.slot).broken = false →
      ∃ u, exec (.yield o) s = .next u ∧ u.self.pcc = t.pccAt t.npc ∧
        w u o.a = Reg.ofWord (BitVec.ofNat 64 (2 ^ 63 + word.toNat % 2 ^ 34)) ∧ w u (o.a + 1) = v ∧
        u.self.tasks = ks ++ [task s die i gen] ∧ u.self.wlbound = 0))

/-- R315, R333, R334, R335: `wlnew` gives the first free slot of the die under the next generation, or an untagged 0; `wlcfg` sets
or frees a quiescent instance, and refuses one that is not; `wlst` tells its state. -/
def WorklistControl : Prop :=
  (∀ (o : OpR) (s : State), Issues s [o.a] →
    let d := dieOf s.cur
    let colony := s.colonyOf s.cur
    let quota := match s.colony colony with
      | some c => c.wlq
      | none => 2048
    let none_ := Sets (.wlnew o) s o.a Reg.zero
    ((∀ i < 256, (s.slot d i).used) ∨ quota ≤ s.heldSlots colony → none_) ∧
    (∀ i < 256, (s.slot d i).used = false → (∀ j < i, (s.slot d j).used) → s.heldSlots colony < quota →
      let gen := ((s.slot d i).gen + 1) % 4096
      let a := s.pkg * 2 ^ 34 + d * 2 ^ 30 + i * 2 ^ 22 + gen * 2 ^ 10
      let u := withSlot s d i { HomeSlot.free gen with used := true, tenant := s.self.tid, colony := colony }
      Leads (.wlnew o) s (u.withSelf (s.self.putW o.a.toNat
        ⟨Cap.make Cap.kWorklist s.self.tid (Cap.wl ||| Cap.gl) (a + 1) a 0 a, true⟩)))) ∧
  (∀ (o : OpRRR) (s : State) (ins : Instr) (die i gen : Nat), ins = .wlcfgConfigure o ∨ (ins = .wlcfgFree ∧ o = s.self.rowRRR) →
    Issues s [o.a, o.b, o.c] → NamesInstance s (w s o.a) die i gen →
    let ctl := x s o.b
    let spill := w s o.c
    let h := s.slot die i
    (fieldAt ctl 28 36 ≠ 0 ∨ fieldAt ctl 21 3 ≠ 0 ∨ (bitAt ctl 27 = false ∧ ¬(3 ≤ fieldAt ctl 24 3 ∧ fieldAt ctl 24 3 ≤ 5)) →
      Traps ins s cIll s.self.illValue) ∧
    (fieldAt ctl 28 36 = 0 → fieldAt ctl 21 3 = 0 → h.saved = false →
    (bitAt ctl 27 → (h.quiet ∨ h.broken → Leads ins s (withSlot s die i (HomeSlot.free gen))) ∧
      (h.quiet = false → h.broken = false → Traps ins s cPerm (Cap.cursor (w s o.a).val))) ∧
    (bitAt ctl 27 = false → h.broken = false → 3 ≤ fieldAt ctl 24 3 → fieldAt ctl 24 3 ≤ 5 → spill.tag = false →
      let same := fieldAt ctl 16 5 = h.s ∧ fieldAt ctl 24 3 = h.scope ∧ h.spill = Reg.zero
      (h.quiet = false → ¬same → Traps ins s cPerm (Cap.cursor (w s o.a).val)) ∧
      (h.quiet ∨ same → fieldAt ctl 24 3 = 5 → s.jobOf s.cur = 0 → Traps ins s cPerm (Cap.cursor (w s o.a).val)) ∧
      (h.quiet ∨ same → (fieldAt ctl 24 3 = 5 → s.jobOf s.cur ≠ 0) →
        Leads ins s (posting (withSlot s die i
          { h with k := fieldAt ctl 0 16, s := fieldAt ctl 16 5, scope := fieldAt ctl 24 3, spill := Reg.zero
                   blocks := if h.spill = Reg.zero then h.blocks else []
                   leases := if h.spill = Reg.zero then h.leases else [] })
          (h.pops.map fun p => .popCheck p.sid)))))) ∧
  (∀ (o : OpRR) (s : State) (die i gen : Nat), Issues s [o.a, o.b] → NamesInstance s (w s o.b) die i gen →
    let h := s.slot die i
    (h.saved → Waits (.wlst o) s) ∧
    (h.saved = false → tasksOf s die i gen < 8 → SetsX (.wlst o) s o.a (BitVec.ofNat 64
      ((if h.counted = 0 ∧ h.inflight = 0 then 2 ^ 63 else 0) + (if h.broken then 2 ^ 62 else 0) +
        (if h.spill.tag then 2 ^ 61 else 0) + tasksOf s die i gen * 2 ^ 56 + min h.inflight 0xFFFF * 2 ^ 32 +
        min h.counted 0xFFFFFFFF))))

/-- R318, R321, R322, R324, R327, R336, R337: what the home of an instance does with a count, a task's end, a report of a die's
lowest key, and the next check of a pop that waits; counts of an older generation do nothing. -/
def HomeEvents : Prop :=
  (∀ (s : State) (c : WlCount), s.now = .countApply c →
    let h := s.slot c.home c.slot
    (h.used = false ∨ h.gen ≠ c.gen → Happens .countApply s s) ∧
    (h.used → h.gen = c.gen → (h.saved ∨ h.asked ≠ [] ∨ (∃ e ∈ h.hold, c.key < e.2) ∨ ∃ y ∈ h.held, y.sid = c.sid) →
      Happens .countApply s (withSlot s c.home c.slot { h with held := h.held ++ [c] })) ∧
    (h.used → h.gen = c.gen → h.saved = false → h.asked = [] → (∀ e ∈ h.hold, e.2 ≤ c.key) → (∀ y ∈ h.held, y.sid ≠ c.sid) →
      c.die / 8 = s.pkg → (∀ e ∈ h.dcount, e.1 / 8 = s.pkg) →
      let inst := instName s.pkg c.home c.slot
      ∃ t, exec .countApply s = .next t ∧ (∀ b, t.strand b = s.strand b) ∧ t.mem = s.mem ∧
        (t.die (c.die % 8)).items = ripen inst c.gen c.n c.key (s.die (c.die % 8)).items ∧
        lookupD 0 (t.slot c.home c.slot).dcount c.die = lookupD 0 h.dcount c.die + c.n ∧
        t.agenda = s.agenda ++ h.pops.map fun p => .popCheck p.sid)) ∧
  (∀ (s : State) (k : TaskId), s.now = .taskEndApply k →
    let h := s.slot k.home k.slot
    (h.used = false ∨ h.gen ≠ k.gen → Happens .taskEndApply s s) ∧
    (h.used → h.gen = k.gen →
      let behind := h.saved ∨ (∃ y ∈ h.held, y.sid = k.sid) ∨ ∃ y ∈ h.ends, y.sid = k.sid
      ∃ t, exec .taskEndApply s = .next t ∧ (∀ b, t.strand b = s.strand b) ∧ t.mem = s.mem ∧
        (behind → (t.slot k.home k.slot).inflight = h.inflight ∧ (t.slot k.home k.slot).ends = h.ends ++ [k]) ∧
        (¬behind → (t.slot k.home k.slot).inflight = h.inflight - 1 ∧ (t.slot k.home k.slot).ends = h.ends))) ∧
  (∀ (s : State) (home slot die : Nat), s.now = .dminReport home slot die →
    let e := engineName s.pkg die
    let ks := s.countedKeys e (instName s.pkg home slot) (s.slot home slot).gen
    ∃ t, exec .dminReport s = .next t ∧ (∀ b, t.strand b = s.strand b) ∧ t.mem = s.mem ∧
      (ks ≠ [] → lookupD 0 (t.slot home slot).dmin e ∈ ks ∧ ∀ k ∈ ks, lookupD 0 (t.slot home slot).dmin e ≤ k)) ∧
  (∀ (s : State) (sid die i : Nat) (p : Pop), s.now = .popCheck sid → s.popHome sid = some (die, i) →
    let h := s.slot die i
    h.pops = [p] → p.sid = sid →
    (h.broken → h.hold = [] → ∃ t, exec .popCheck s = .next t ∧ (t.slot die i).pops = [] ∧ (sid / 16384 = s.pkg →
      (t.strand (sid % 16384)).pop = (s.strand (sid % 16384)).pop.map fun r => { r with answer := some (.failed cPeer) })) ∧
    (h.broken = false → h.saved ∨ p.asking ∨ s.worklistBusy sid die i → Happens .popCheck s s) ∧
    (h.saved = false → p.asking = false → s.worklistBusy sid die i = false → h.asked = [] → h.broken = false →
      h.counted = 0 → h.inflight = 0 → h.hold = [] → p.best = none →
      s.islandLow (sid % 16384) = false → s.admits p.colony 6 1 → p.engine / 8 = s.pkg → sid / 16384 = s.pkg →
      propose (p.engine % 8) (instName s.pkg die i) h.gen none s = .ok none s →
      ∃ t, exec .popCheck s = .next t ∧ (t.slot die i).pops = [] ∧
        (t.strand (sid % 16384)).pop = (s.strand (sid % 16384)).pop.map fun r => { r with answer := some (.quiescent p.redirects) }))

/-! ## Vectors: elementwise instructions -/

/-- R176, R177: a write of elements gives each named element its value in its `w` bits, keeps the others of the register's lanes,
and changes no other register. -/
def ElementsWritten : Prop :=
  ∀ (m : SMap Word) (g : Nat) (r : RegNo) (w : Nat) (f : Nat → Option Nat), g ≤ 64 → (w = 8 ∨ w = 16 ∨ w = 32 ∨ w = 64) →
    let after := putElements g r.toNat w f m
    let at_ := fun (m : SMap Word) (e : Nat) => elAt (lookupRange 0 m (r.toNat * 64) 64) w e
    (∀ e < g * (64 / w), at_ after e = (match f e with
      | some x => x % 2 ^ w
      | none => at_ m e)) ∧
    (∀ k, k / 64 ≠ r.toNat ∨ g ≤ k % 64 → lookupD 0 after k = lookupD 0 m k)

/-- R34, R193: the two-source elementwise instructions on integers; results wrap to the element's width, shift counts count
modulo it. Rounding code 5 selects the integer table. -/
def VectorIntegers : Prop :=
  ∀ (o : OpRRC) (m : VecMod) (s : State), m.rnd = 5 → VReady s [vDst o.a, vSrc o.x, vSrc o.y] m → Unbounded s 1 →
    let w := 8 * 2 ^ (m.ty.toNat % 4)
    let signed := decide (m.ty.toNat < 4)
    let val := fun (p : Nat) => if signed ∧ 2 ^ (w - 1) ≤ p then (p : Int) - 2 ^ w else (p : Int)
    let arith := fun (p : Nat) => if 2 ^ (w - 1) ≤ p then (p : Int) - 2 ^ w else (p : Int)
    let does := fun (i : Instr) (f : Nat → Nat → Nat) =>
      Elementwise i s s.self o.a m w s.self.vec.vstart fun e => (f (vel s o.x w e) (vel s o.y w e), 0)
    does (.vadd o m) (fun p q => (p + q) % 2 ^ w) ∧ does (.vsub o m) (fun p q => (p + (2 ^ w - q)) % 2 ^ w) ∧
    does (.vmul o m) (fun p q => p * q % 2 ^ w) ∧ does (.vmin o m) (fun p q => if val p < val q then p else q) ∧
    does (.vmax o m) (fun p q => if val p < val q then q else p) ∧ does (.vand o m) (fun p q => p &&& q) ∧
    does (.vor o m) (fun p q => p ||| q) ∧ does (.vxor o m) (fun p q => p ^^^ q) ∧
    does (.vshl o m) (fun p q => p * 2 ^ (q % w) % 2 ^ w) ∧ does (.vshr o m) (fun p q => p / 2 ^ (q % w)) ∧
    does (.vsra o m) (fun p q => (arith p / 2 ^ (q % w) % 2 ^ w).toNat)

/-- R55, R60, R61, R181, R193, R194, R204: elementwise arithmetic in a floating-point format: each element is computed exactly and
rounded once in the mode in force, with the word drawn for it under `sr`; `vfma` adds A; the special functions round as R204
says. -/
def VectorFloats : Prop :=
  (∀ (o : OpRRC) (m : VecMod) (s : State), m.rnd ≠ 5 → VReady s [vDst o.a, vSrc o.x, vSrc o.y] m → Unbounded s 1 →
    let F := fpFormat m.ty
    let mode := s.self.roundingMode m.rnd.toNat false
    let t := stepped s.self mode
    let el := fun (r : RegNo) (e : Nat) => Machine.Float.decode F (vel s r F.width e)
    let does := fun (i : Instr) (f : Machine.Float.Value → Machine.Float.Value → Machine.Float.Value × Nat) =>
      Elementwise i s t o.a m F.width s.self.vec.vstart fun e => t.roundElement F mode e (f (el o.x e) (el o.y e))
    does (.vadd o m) (Machine.Float.add mode) ∧ does (.vsub o m) (fun p q => Machine.Float.add mode p (Machine.Float.neg q)) ∧
    does (.vmul o m) Machine.Float.mul ∧ does (.vmin o m) (fun p q => (Machine.Float.minimum p q, 0)) ∧
    does (.vmax o m) (fun p q => (Machine.Float.maximum p q, 0))) ∧
  (∀ (o : OpRRR) (m : VecMod) (s : State), VReady s [vBoth o.a, vSrc o.b, vSrc o.c] m → Unbounded s 1 →
    let F := fpFormat m.ty
    let mode := s.self.roundingMode m.rnd.toNat false
    let t := stepped s.self mode
    let el := fun (r : RegNo) (e : Nat) => Machine.Float.decode F (vel s r F.width e)
    Elementwise (.vfma o m) s t o.a m F.width s.self.vec.vstart fun e =>
      t.roundElement F mode e (Machine.Float.fma mode (el o.a e) (el o.b e) (el o.c e))) ∧
  (∀ (o : OpRR) (m : VecMod) (s : State), VReady s [vDst o.a, vSrc o.b] m → Unbounded s 1 →
    let F := fpFormat m.ty
    let mode := s.self.roundingMode m.rnd.toNat false
    let does := fun (i : Instr) (f : Machine.Float.Value → Machine.Float.Value × Nat) =>
      Elementwise i s (stepped s.self mode) o.a m F.width s.self.vec.vstart fun e =>
        let r := f (Machine.Float.decode F (vel s o.b F.width e))
        let c := Machine.Float.roundSpecial F mode r.1
        (c.1, r.2 ||| c.2)
    does (.vexp2 o m) Machine.Float.exp2 ∧ does (.vlog2 o m) Machine.Float.log2 ∧ does (.vrcp o m) Machine.Float.rcp ∧
    does (.vrsq o m) Machine.Float.rsq)

/-- R192, R196, R198, R199, R200, R203: conflicts, select, broadcast, extract, permute, compress, expand and convert. -/
def VectorMoves : Prop :=
  (∀ (o : OpRR) (m : VecMod) (s : State), VReady s [vDst o.a, vSrc o.b] m → Unbounded s 1 → s.self.vec.vstart = 0 →
    let w := laneWidth m
    let n := s.self.effective w
    let k := s.self.mask m.mask.toNat
    let b := vel s o.b w
    let below := fun (e : Nat) => (List.range e).filter fun j => k.getLsbD j
    Elementwise (.vconf o m) s s.self o.a m w 0 (fun e =>
      (match ((below e).filter fun j => b j = b e).getLast? with
        | some j => j
        | none => 2 ^ w - 1, 0)) ∧
    Elementwise (.vxpd o m) s s.self o.a m w 0 (fun e => (b (below e).length, 0)) ∧
    Leads (.vcmpz o m) s (s.withSelf (putV s.self o.a w fun e =>
      if n ≤ e then none
      else if e < (below n).length then some (b ((below n).getD e 0))
      else if m.zero then some 0 else none))) ∧
  (∀ (o : OpRR) (m : VecMod) (s : State), VReady s [vDst o.a, wSrc o.b] m → Unbounded s 1 →
    Elementwise (.vbc o m) s s.self o.a m (laneWidth m) s.self.vec.vstart fun _ => ((x s o.b).toNat, 0)) ∧
  (∀ (o : OpRRR) (m : VecMod) (s : State), VReady s [vDst o.a, vSrc o.b, vSrc o.c] m → Unbounded s 1 →
    let w := laneWidth m
    let n := s.self.effective w
    Leads (.vsel o m) s (s.withSelf (elements s.self o.a w s.self.vec.vstart n false (BitVec.allOnes 512) fun e =>
      (if (s.self.mask m.mask.toNat).getLsbD e then vel s o.b w e else vel s o.c w e, 0))) ∧
    (s.self.vec.vstart = 0 → Elementwise (.vperm o m) s s.self o.a m w 0 fun e =>
      (if vel s o.c w e < n then vel s o.b w (vel s o.c w e) else 0, 0))) ∧
  (∀ (o : OpRRR) (m : VecMod) (s : State), VReady s [wDst o.a, vSrc o.b, wSrc o.c] m → Unbounded s 1 →
    let w := laneWidth m
    let i := (x s o.c).toNat
    SetsX (.vxt o m) s o.a (extendEl (elTypeOf m) (if i < s.self.vec.lanes.length * 64 / w then vel s o.b w i else 0))) ∧
  (∀ (o : OpRX) (m : VecMod) (s : State), VReady s [vDst o.a, vSrc o.b] m → Unbounded s 1 →
    let src := tableType (o.imm.getLsbD 3) (o.imm.setWidth 3)
    let dst := tableType (o.imm.getLsbD 4) m.ty
    let mode := s.self.roundingMode m.rnd.toNat true
    let t := stepped s.self mode
    Leads (.vcvt o m) s (s.withSelf (elements t o.a dst.lane s.self.vec.vstart
      (min (s.self.effective src.lane) (s.self.effective dst.lane)) m.zero (s.self.mask m.mask.toNat) fun e =>
        t.convert dst mode e (src.value (vel s o.b src.lane e)))))

/-! ## Vectors: masks, folds and lanes -/

/-- R195, R197: compares give one bit an element, others of the mask are kept or cleared; a compare other than `vceq` flags an
unordered pair. Mask logic, counting and the first bit. `k0` is never written. -/
def MaskResults : Prop :=
  (∀ (o : OpRRC) (m : VecMod) (s : State), VReady s [vSrc o.x, vSrc o.y, kDst o.a.toNat] m → Unbounded s 1 →
    let w := laneWidth m
    let n := s.self.effective w
    let start := s.self.vec.vstart
    let unordered := fun (e : Nat) => match elTypeOf m with
      | .int _ _ => false
      | .fp F => decide (Machine.Float.decode F (vel s o.x w e) = .nan ∨ Machine.Float.decode F (vel s o.y w e) = .nan)
    let rel := fun (e : Nat) => match elTypeOf m with
      | .int b signed =>
        let p := Machine.Float.patInt b signed (vel s o.x w e)
        let q := Machine.Float.patInt b signed (vel s o.y w e)
        (decide (p < q), decide (p = q))
      | .fp F => Machine.Float.compare (Machine.Float.decode F (vel s o.x w e)) (Machine.Float.decode F (vel s o.y w e))
    let does := fun (i : Instr) (quiet : Bool) (f : Bool × Bool → Bool) => ∃ K : BitVec 512,
      (∀ e < 512, K.getLsbD e =
        if start ≤ e ∧ e < n then
          if (s.self.mask m.mask.toNat).getLsbD e then !unordered e && f (rel e)
          else if m.zero then false else (s.self.mask o.a.toNat).getLsbD e
        else (s.self.mask o.a.toNat).getLsbD e) ∧
      let fl := if !quiet && (active s m w start).any unordered then Machine.Float.fNv else 0
      let t := flagged s.self fl
      Leads i s (s.withSelf { t with vec := { t.vec with
        vstart := 0, k := if o.a.toNat = 0 then t.vec.k else storeAt 0 o.a.toNat K t.vec.k } })
    does (.vceq o m) true (fun r => r.2) ∧ does (.vclt o m) false (fun r => r.1) ∧ does (.vcle o m) false (fun r => r.1 || r.2)) ∧
  (∀ (o : OpRRC) (s : State), Ready s [kDst o.a.toNat, kSrc o.x.toNat, kSrc o.y.toNat] → s.self.vec.lanes ≠ [] →
    let put := fun (i : Instr) (K : BitVec 512) => Leads i s (s.withSelf { s.self with vec := { s.self.vec with
      k := if o.a.toNat = 0 then s.self.vec.k else storeAt 0 o.a.toNat K s.self.vec.k } })
    put (.kand o) (s.self.mask o.x.toNat &&& s.self.mask o.y.toNat) ∧
    put (.kor o) (s.self.mask o.x.toNat ||| s.self.mask o.y.toNat)) ∧
  (∀ (o : OpRR) (s : State), Ready s [wDst o.a, kSrc o.b.toNat] → s.self.vec.lanes ≠ [] →
    let set := (List.range s.self.vec.vlen).filter fun e => (s.self.mask o.b.toNat).getLsbD e
    SetsX (.kpop o) s o.a (BitVec.ofNat 64 set.length) ∧
    SetsX (.kfirst o) s o.a (match set.head? with
      | some e => BitVec.ofNat 64 e
      | none => BitVec.allOnes 64))

/-- R201, R202: folds over the active elements in ascending order. An integer sum is kept in 64 bits; with no active element a
fold gives its identity; a scan writes the prefixes. FP additions round one by one. -/
def VectorFolds : Prop :=
  ∀ (o : OpRR) (m : VecMod) (s : State), VReady s [vSrc o.b] m → Unbounded s 1 → s.self.vec.vstart = 0 →
    let w := laneWidth m
    let n := s.self.effective w
    let k := s.self.mask m.mask.toNat
    let b := vel s o.b w
    let act := active s m w 0
    (∀ bits signed, elTypeOf m = .int bits signed → Ready s [wDst o.a] →
      let fold := fun (i : Instr) (op : FoldOp) => SetsX i s o.a (extendEl (elTypeOf m)
        (act.foldl (fun acc e => op.int bits signed acc (b e)) (op.intIdentity bits signed)))
      SetsX (.vredSum o m) s o.a (BitVec.ofInt 64 (act.map fun e => Machine.Float.patInt bits signed (b e)).sum) ∧
      fold (.vredMin o m) .min ∧ fold (.vredMax o m) .max ∧ fold (.vredAnd o m) .and ∧ fold (.vredOr o m) .or ∧
      fold (.vredXor o m) .xor) ∧
    (∀ bits signed, elTypeOf m = .int bits signed → Ready s [vDst o.a] →
      let scan := fun (i : Instr) (op : FoldOp) => Elementwise i s s.self o.a m w 0 fun e =>
        ((prefixes n k b fun _ p q => (op.int bits signed p q, 0)).1.getD e 0, 0)
      scan (.vscanSum o m) .sum ∧ scan (.vscanMin o m) .min ∧ scan (.vscanMax o m) .max ∧ scan (.vscanAnd o m) .and ∧
      scan (.vscanOr o m) .or ∧ scan (.vscanXor o m) .xor) ∧
    (∀ F, elTypeOf m = .fp F →
      let mode := s.self.roundingMode m.rnd.toNat false
      let t := stepped s.self mode
      let ps := fun (op : FoldOp) => prefixes n k b fun e p q => op.fp t F mode e p q
      let fold := fun (i : Instr) (op : FoldOp) => Leads i s (s.withSelf ((flagged t (ps op).2).putW o.a.toNat
        (Reg.ofWord (BitVec.ofNat 64 (if act = [] then op.fpIdentity F else canonicalEl F ((ps op).1.getLastD 0))))))
      let scan := fun (i : Instr) (op : FoldOp) => Elementwise i s (flagged t (ps op).2) o.a m w 0 fun e =>
        (canonicalEl F ((ps op).1.getD e 0), 0)
      (Ready s [wDst o.a] → fold (.vredSum o m) .sum ∧ fold (.vredMin o m) .min ∧ fold (.vredMax o m) .max) ∧
      (Ready s [vDst o.a] → scan (.vscanSum o m) .sum ∧ scan (.vscanMin o m) .min ∧ scan (.vscanMax o m) .max))

/-- R169, R170, R171, R182 to R185: claiming, releasing and using lanes. A claim within the reserve is granted whole, a larger one up
to what is free beyond 8 lanes for each start that waits, the rest being demand; both wait for the strand's operations. -/
def LaneClaims : Prop :=
  (∀ (o : OpRR) (s : State), Issues s [o.a, o.b] →
    let q := quadOf s.cur
    let lanes := (x s o.b).toNat
    let request := if lanes = 0 then 8 else min 64 (8 * ((lanes + 7) / 8))
    let reserve := max s.self.vec.lanes.length 8
    let grant := if request ≤ reserve then request
      else min request (reserve + (s.freeLanes q - 8 * (s.quad q).deferred.length))
    let u := s.setGrant s.cur grant
    let offer : List Event := if (s.quad q).deferred = [] then [] else [.deferredStart q]
    (HasOps s → Waits (.vclaim o) s ∧ Waits .vrel s) ∧
    (¬HasOps s → Leads (.vclaim o) s (posting (u.withSelf ({ u.self with vec := { u.self.vec with demand := request - grant } }.putW
      o.a.toNat (Reg.ofWord (BitVec.ofNat 64 grant)))) offer) ∧
      Leads .vrel s (posting (s.withSelf { s.self with vec :=
        { s.self.vec.shrink 0 with vlen := 0, vstart := 0, demand := 0 } }) offer))) ∧
  (∀ (o : OpRR) (m : VecMod) (s : State), Issues s [o.a, o.b] → Free s →
    let n := min (x s o.b).toNat (s.self.vec.lanes.length * 64 / laneWidth m)
    Leads (.vsetl o m) s (s.withSelf ({ s.self with vec := { s.self.vec with vlen := n, vstart := 0 } }.putW o.a.toNat
      (Reg.ofWord (BitVec.ofNat 64 n))))) ∧
  (∀ (o : OpRR) (s : State), Ready s [vDst o.a, vSrc o.b] → CanIssue s → Unbounded s 1 →
    let g := s.self.vec.lanes.length
    let new := fun (p : Nat) => let v : BitVec 32 := ((vw s.self o.b).getD p 0).setWidth 32
      if v = 0 then 1 else v
    let old := s.self.vec.seeds
    Leads (.vseed o) s (s.withSelf { s.self with vec := { s.self.vec with
      seeds := (List.range g).foldl (fun m p => storeAt 0 p (new p) m) old
      v := putElements g o.a.toNat 64 (fun p => some (lookupD 0 old p).toNat) s.self.vec.v } }))

/-- R179, R379: an empty grant makes a vector instruction illegal, and a budget that does not cover the lanes makes it wait. -/
def VectorGates : Prop :=
  ∀ (o : OpRRC) (m : VecMod) (s : State), Together s →
    (s.self.vec.lanes = [] → Traps (.vadd o m) s cIll s.self.illValue ∧ Traps (.vclt o m) s cIll s.self.illValue ∧
      Traps (.kand o) s cIll s.self.illValue) ∧
    (∀ c, m.rnd = 5 → VReady s [vDst o.a, vSrc o.x, vSrc o.y] m → s.colony (s.colonyOf s.cur) = some c → s.self.vec.vstart = 0 →
      let w := 8 * 2 ^ (m.ty.toNat % 4)
      let n := s.self.effective w
      let lanes := (n + 64 / w - 1) / (64 / w)
      c.allocOf 1 ≠ unlimited → lanes ≠ 0 → lanes ≤ c.allocOf 1 → lookupD 0 c.rem 1 < (lanes : Int) → Waits (.vadd o m) s)

/-! ## Vectors: memory -/

/-- The registers of a vector memory instruction and its mask register have no outstanding result, and the grant is not empty. -/
def MemReady (s : State) (us : List RegUse) (m : VecMod) : Prop :=
  Ready s us ∧ Ready s (maskUse m.mask) ∧ s.self.vec.lanes ≠ []

/-- R186 to R189: vector loads and stores reach each active element at its own address: consecutive, at a stride, or indexed. Where
several stored elements name one address, it is stored once, with the highest of them. -/
def VectorMemory : Prop :=
  ∀ (m : VecMod) (s : State) (base : Reg) (i : Instr) (off : Nat → Int) (loc : Nat → Nat) (pte : Nat → Word),
    let w := laneWidth m
    let n := w / 8
    let start := s.self.vec.vstart
    let act := active s m w start
    let el := fun (e : Nat) => (⟨Cap.offset base.val (off e), base.tag⟩ : Reg)
    s.self.vec.lanes ≠ [] → Ready s (maskUse m.mask) → Unbounded s 1 → NoPartials s →
    (∀ (a : RegNo), ((∃ o : OpRX, i = .vld o m ∧ o.a = a ∧ Ready s [vDst a, wSrc o.b] ∧ base = Claims.w s o.b ∧
          off = fun e => o.imm.toInt + (e * n : Nat)) ∨
        (∃ o : OpRRR, i = .vlds o m ∧ o.a = a ∧ Ready s [vDst a, wSrc o.b, wSrc o.c] ∧ base = Claims.w s o.b ∧
          off = fun (e : Nat) => o.imm.toInt + (e : Int) * (x s o.c).toInt) ∨
        (∃ o : OpRRR, i = .vgat o m ∧ o.a = a ∧ Ready s [vDst a, wSrc o.b, vSrc o.c] ∧ base = Claims.w s o.b ∧
          off = fun e => o.imm.toInt + (vel s o.c w e * n : Nat))) →
      (∀ e ∈ act, Opens s (el e) Cap.ld n (loc e) (pte e) ∧ Direct (loc e) ∧ s.firstBad (loc e) n = none) →
      Elementwise i s s.self a m w start fun e => (leNat (s.bytesAt (loc e) n), 0)) ∧
    (∀ (a : RegNo), ((∃ o : OpRX, i = .vst o m ∧ o.a = a ∧ Ready s [vSrc a, wSrc o.b] ∧ base = Claims.w s o.b ∧
          off = fun e => o.imm.toInt + (e * n : Nat)) ∨
        (∃ o : OpRRR, i = .vsts o m ∧ o.a = a ∧ Ready s [vSrc a, wSrc o.b, wSrc o.c] ∧ base = Claims.w s o.b ∧
          off = fun (e : Nat) => o.imm.toInt + (e : Int) * (x s o.c).toInt) ∨
        (∃ o : OpRRR, i = .vsca o m ∧ o.a = a ∧ Ready s [vSrc a, wSrc o.b, vSrc o.c] ∧ base = Claims.w s o.b ∧
          off = fun e => o.imm.toInt + (vel s o.c w e * n : Nat))) →
      (∀ e ∈ act, Opens s (el e) Cap.st n (loc e) (pte e) ∧ DirectOwn s (loc e)) →
      let u := act.foldl (fun u e => if ∃ e' ∈ act, e' < e ∧ loc e' = loc e then u
        else u.homePut (loc e) (leBytes n (vel s a w ((act.filter fun e' => loc e' = loc e).getLastD e)))) s
      Leads i s (u.withSelf { u.self with vec := { u.self.vec with vstart := 0 } }))

/-- R187, R190, R191: `vscac` adds the active elements into their places, address by address; a load stops at the first element that fails, which
`vstart`, `felem` and `faddr` name, with the elements before it written; `vldl` and `vstl` reach an offset of every lane's own
slice. -/
def VectorMemorySpecial : Prop :=
  (∀ (o : OpRRR) (m : VecMod) (s : State) (loc : Nat → Nat) (pte : Nat → Word), m.rnd = 5 →
    MemReady s [vSrc o.a, wSrc o.b, vSrc o.c] m → Unbounded s 1 → NoPartials s →
    let w := laneWidth m
    let n := w / 8
    let act := active s m w s.self.vec.vstart
    (∀ e ∈ act, Opens s ⟨Cap.offset (Claims.w s o.b).val (o.imm.toInt + (vel s o.c w e * n : Nat)), (Claims.w s o.b).tag⟩ (Cap.ld ||| Cap.st) n
      (loc e) (pte e) ∧ DirectOwn s (loc e) ∧ s.firstBad (loc e) n = none) →
    let u := act.foldl (fun u e => if ∃ e' ∈ act, e' < e ∧ loc e' = loc e then u
      else u.homePut (loc e) (leBytes n ((act.filter fun e' => loc e' = loc e).foldl
        (fun acc e' => (acc + vel s o.a w e') % 2 ^ w) (leNat (u.bytesAt (loc e) n))))) s
    Leads (.vscac o m) s (u.withSelf { u.self with vec := { u.self.vec with vstart := 0 } })) ∧
  (∀ (o : OpRX) (m : VecMod) (s : State) (e : Nat) (c : BitVec 8) (h : Mode), MemReady s [vDst o.a, wSrc o.b] m → Unbounded s 1 →
    let w := laneWidth m
    let el : Reg := ⟨Cap.offset (Claims.w s o.b).val (o.imm.toInt + (e * (w / 8) : Nat)), (Claims.w s o.b).tag⟩
    (active s m w s.self.vec.vstart).head? = some e → checkFault s el Cap.ld [Cap.kMemory] (w / 8) = some c → Handler s c h →
    ∃ t, exec (.vld o m) s = .next t ∧ t.self.pcc = installed (s.self.tvec h) ∧ t.self.felem = e ∧
      t.self.faddr = BitVec.ofNat 64 (Cap.cursor el.val) ∧ t.self.vec.vstart = e ∧
      (∀ r : RegNo, r ≠ o.a → vw t.self r = vw s.self r) ∧ t.mem = s.mem) ∧
  (∀ (o : OpRX) (m : VecMod) (s : State) (p : Nat) (pte : Word) (at_ : Nat), MemReady s [wSrc o.b] m → Unbounded s 1 → NoPartials s →
    let w := laneWidth m
    let c := at2 s o
    let start := s.self.vec.vstart
    let slice := fun (pos : Nat) => sliceAddr (quadOf s.cur) (s.self.vec.lanes.getD pos 0) at_
    let reach := fun (perm : BitVec 12) => checkFault s c perm [Cap.kMemory] 8 = none ∧
      Maps s (Cap.tenant c.val) (Cap.cursor c.val) perm p pte ∧ pkgOf p = s.pkg ∧ place (localOf p) = .aliasWindow at_ ∧ at_ < 0x4000
    (reach Cap.ld → Ready s [vDst o.a] → (∀ pos < 64, s.firstBad (slice pos) 8 = none) →
      Elementwise (.vldl o m) s s.self o.a m w start fun e =>
        (leNat (s.bytesAt (slice (e / (64 / w))) 8) / 2 ^ (e % (64 / w) * w) % 2 ^ w, 0)) ∧
    (reach Cap.st → Ready s [vSrc o.a] →
      let u := (active s m w start).foldl (fun u e =>
        u.homePut (slice (e / (64 / w)) + e % (64 / w) * (w / 8)) (leBytes (w / 8) (vel s o.a w e))) s
      Leads (.vstl o m) s (u.withSelf { u.self with vec := { u.self.vec with vstart := 0 } })))

/-! ## Save images -/

/-- R140, R141, R391: `ctxs` writes every register with its tag, and the PCC behind it, into the image, with 1 in the register
that names it, which reads 0 afterwards; `ctxr` restores them, in the mode of the image, with every region lost. Both need
supervisor mode. The image lies in a scratchpad here. -/
def SaveImages : Prop :=
  ∀ (o : OpR) (s : State) (a : Nat), Issues s [o.a] →
    let c := w s o.a
    let t := s.self
    let mapped := fun (perm : BitVec 12) => checkFault s c perm [Cap.kMemory] 0x20800 = none ∧ Cap.cursor c.val % 64 = 0 ∧
      ∀ g < 0x2080, DirectOwn s (a + 16 * g) ∧ s.badAt (a + 16 * g) = 0 ∧ ∃ e, pteM e = false ∧
        Maps s (Cap.tenant c.val) (Cap.cursor c.val + 16 * g) perm (s.globalOf (a + 16 * g)) e
    let idle := ¬HasOps s
    let saved := fun (u : State) (off : Nat) =>
      (⟨BitVec.ofNat 128 (leNat (u.bytesAt (a + off) 16)), u.tagAt (a + off)⟩ : Reg)
    let csr := fun (n : Nat) => (saved s (0x200 + 16 * savedCsrs.idxOf n)).val.toNat
    (t.mode = .user → Traps (.ctxs o) s cPriv t.illValue ∧ Traps (.ctxr o) s cPriv t.illValue) ∧
    (t.mode ≠ .user → mapped (Cap.st ||| Cap.sc) → idle → NoPartials s → s.pkg < 2 ^ 14 →
      ∃ u, exec (.ctxs o) s = .next u ∧ u.self.pcc = t.pccAt t.npc ∧ w u o.a = Reg.zero ∧
        saved u 0x40 = t.pccAt t.npc ∧ u.bytesAt a 2 = [1, 0] ∧
        ∀ i < 256, saved u (0x1400 + 16 * i) = if i = t.physOf o.a.toNat then Reg.ofWord 1 else t.phys i) ∧
    (t.mode ≠ .user → mapped (Cap.ld ||| Cap.lc) → idle → NoPartials s → s.pkg < 2 ^ 14 →
      let image := (List.range 0x2080).map fun g => saved s (16 * g)
      (headerOk image = false → Traps (.ctxr o) s cIll t.illValue) ∧
      (headerOk image → csr 2 % 4 ≤ t.mode.num → (csr 1 % 4096 = t.tid.toNat ∨ t.mode = .hypervisor) →
        ∃ u, exec (.ctxr o) s = .next u ∧ u.self.pcc = saved s 0x40 ∧ (∀ i < 256, u.self.phys i = saved s (0x1400 + 16 * i)) ∧
          u.self.mode.num = csr 2 % 4 ∧ u.self.region.state = .lost ∧ u.self.wake = true ∧
          u.self.win.base = csr 0x40 % 256 ∧ u.self.win.frame = csr 0x41 % 128 ∧ u.self.strap.tvec = saved s (0x200 + 16 * savedCsrs.idxOf 0x20)))

/-! ## Modular arithmetic -/

/-- Modulus and constant of an element under a pair (R205). -/
def modulus (s : State) (m : ModMod) (e : Nat) : Nat :=
  (lookupD 0 s.self.vec.mq (m.mi.toNat * 64 + e / (64 / modWidth m))).toNat
def constant (s : State) (m : ModMod) (e : Nat) : Nat :=
  (lookupD 0 s.self.vec.mc (m.mi.toNat * 64 + e / (64 / modWidth m))).toNat

/-- R206: a modulus in range with the constant that belongs to it. -/
def Consistent (q mu : Nat) : Prop := 2 ≤ q ∧ q < 2 ^ 62 ∧ mu = 2 ^ (2 * (Nat.log2 q + 1)) / q

/-- R207: a pair that may serve an element. -/
def PairServes (s : State) (m : ModMod) (e : Nat) : Prop :=
  Consistent (modulus s m e) (constant s m e) ∧ (modWidth m = 32 → modulus s m e < 2 ^ 30)

/-- The active elements of a modular instruction. -/
def activeMod (s : State) (m : ModMod) : List Nat :=
  (List.range (s.self.effective (modWidth m))).filter fun e =>
    s.self.vec.vstart ≤ e && (s.self.mask m.mask.toNat).getLsbD e

/-- What a modular instruction needs in order to run. -/
def MReady (s : State) (us : List RegUse) (m : ModMod) : Prop :=
  Ready s us ∧ Ready s (pairUse m.mi.toNat) ∧ Ready s (maskUse m.mask) ∧ CanIssue s ∧ Unbounded s 1

/-- A strand with the processed elements of a register replaced by residues of integers; `unred` is set for an active element
whose mark says so (R208). -/
def residues (t : Strand) (s : State) (a : RegNo) (m : ModMod) (f : Nat → Int) (big : Nat → Prop) [DecidablePred big] : Strand :=
  elements t a (modWidth m) s.self.vec.vstart (s.self.effective (modWidth m)) m.zero (s.self.mask m.mask.toNat) fun e =>
    ((f e % (modulus s m e : Int)).toNat, if big e then Machine.Float.fUnred else 0)

/-- R205, R207, R208, R212, R213: modular arithmetic gives the exact residue of its formula for each active element, whatever the
operands; an operand that is not below its modulus sets `unred`, but for `vmred` and `vmwide`. The butterflies write both of
their registers. -/
def ModularArithmetic : Prop :=
  (∀ (o : OpRRC) (m : ModMod) (s : State), MReady s [vDst o.a, vSrc o.x, vSrc o.y] m → (∀ e ∈ activeMod s m, PairServes s m e) →
    let w := modWidth m
    let X := fun (e : Nat) => (vel s o.x w e : Int)
    let Y := fun (e : Nat) => (vel s o.y w e : Int)
    let does := fun (i : Instr) (marked : Bool) (f : Int → Int → Int) =>
      Leads i s (s.withSelf (residues s.self s o.a m (fun e => f (X e) (Y e)) fun e =>
        marked = true ∧ ((modulus s m e : Int) ≤ X e ∨ (modulus s m e : Int) ≤ Y e)))
    does (.vmadd o m) true (fun p q => p + q) ∧ does (.vmsub o m) true (fun p q => p - q) ∧
    does (.vmmul o m) true (fun p q => p * q) ∧ does (.vmwide o m) false (fun p q => p * 2 ^ w + q)) ∧
  (∀ (o : OpRR) (m : ModMod) (s : State), MReady s [vDst o.a, vSrc o.b] m → (∀ e ∈ activeMod s m, PairServes s m e) →
    Leads (.vmred o m) s (s.withSelf (residues s.self s o.a m (fun e => (vel s o.b (modWidth m) e : Int)) fun _ => False))) ∧
  (∀ (o : OpRRR) (m : ModMod) (s : State), (∀ e ∈ activeMod s m, PairServes s m e) →
    let w := modWidth m
    let el := fun (r : RegNo) (e : Nat) => (vel s r w e : Int)
    let big := fun (e : Nat) => (modulus s m e : Int) ≤ el o.a e ∨ (modulus s m e : Int) ≤ el o.b e ∨ (modulus s m e : Int) ≤ el o.c e
    let both := fun (f g : Int → Int → Int → Int) =>
      residues (residues s.self s o.a m (fun e => f (el o.a e) (el o.b e) (el o.c e)) big) s o.b m
        (fun e => g (el o.a e) (el o.b e) (el o.c e)) big
    (MReady s [vBoth o.a, vSrc o.b, vSrc o.c] m →
      Leads (.vmmac o m) s (s.withSelf (residues s.self s o.a m (fun e => el o.a e + el o.b e * el o.c e) big))) ∧
    (MReady s [vBoth o.a, vBoth o.b, vSrc o.c] m →
      Leads (.vmbf o m) s (s.withSelf (both (fun a b t => a + t * b) fun a b t => a - t * b)) ∧
      Leads (.vmibf o m) s (s.withSelf (both (fun a b _ => a + b) fun a b t => (a - b) * t))))

/-- R205, R206, R207, R210, R211: moduli and constants are loaded position by position under the mask, and read back. A value out of range, or
a constant that does not belong to its modulus, loads nothing and raises `modcfg`; so does arithmetic under such a pair. -/
def ModularPairs : Prop :=
  (∀ (o : OpRR) (m : ModMod) (s : State), Ready s (maskUse m.mask) → CanIssue s → Unbounded s 1 →
    let a := o.a.toNat
    let X := fun (p : Nat) => (vw s.self o.b).getD p 0
    let chosen := fun (p : Nat) => p < s.self.vec.lanes.length ∧ (s.self.mask m.mask.toNat).getLsbD p = true
    let loaded := fun (old new : SMap Word) => ∀ p < 64, ∀ r < 4,
      lookupD 0 new (r * 64 + p) = if r = a ∧ p < s.self.vec.lanes.length ∧ (s.self.mask m.mask.toNat).getLsbD p = true then X p
        else lookupD 0 old (r * 64 + p)
    let fails := fun (i : Instr) (good : Nat → Prop) => ∀ p, chosen p → ¬good p → (∀ p' < p, chosen p' → good p') →
      ∀ h, Handler s cModcfg h → ∃ t, exec i s = .next t ∧
        Enters (s.withSelf { s.self with felem := p }) t h cModcfg (BitVec.ofNat 64 a) none s.self.pcc
    let q := fun (p : Nat) => (lookupD 0 s.self.vec.mq (a * 64 + p)).toNat
    let range := fun (p : Nat) => 2 ≤ (X p).toNat ∧ (X p).toNat < 2 ^ 62
    let fits := fun (p : Nat) => Consistent (q p) (X p).toNat
    a < 4 →
    (Ready s [⟨5, a, false, true⟩, vSrc o.b] →
      fails (.mqld o m) range ∧
      ((∀ p, chosen p → range p) → ∃ new, loaded s.self.vec.mq new ∧
        Leads (.mqld o m) s (s.withSelf { s.self with vec := { s.self.vec with mq := new } }))) ∧
    (Ready s [⟨6, a, false, true⟩, vSrc o.b, ⟨5, a, true, false⟩] →
      fails (.mcld o m) fits ∧
      ((∀ p, chosen p → fits p) → ∃ new, loaded s.self.vec.mc new ∧
        Leads (.mcld o m) s (s.withSelf { s.self with vec := { s.self.vec with mc := new } })))) ∧
  (∀ (o : OpRR) (m : ModMod) (s : State),
    let file := if o.b.getLsbD 2 then 6 else 5
    let source := if o.b.getLsbD 2 then s.self.vec.mc else s.self.vec.mq
    Ready s [vDst o.a, ⟨file, o.b.toNat % 4, true, false⟩] → Ready s (maskUse m.mask) → CanIssue s → Unbounded s 1 →
    Leads (.mqget o m) s (s.withSelf (putV s.self o.a 64 fun p =>
      if (s.self.mask m.mask.toNat).getLsbD p then some (lookupD 0 source (o.b.toNat % 4 * 64 + p)).toNat
      else if m.zero then some 0 else none))) ∧
  (∀ (o : OpRRC) (m : ModMod) (s : State) (e : Nat), MReady s [vDst o.a, vSrc o.x, vSrc o.y] m →
    e ∈ activeMod s m → ¬PairServes s m e → (∀ e' ∈ activeMod s m, e' < e → PairServes s m e') →
    ∀ h, Handler s cModcfg h → ∃ t, exec (.vmmul o m) s = .next t ∧
      Enters (s.withSelf { s.self with felem := e }) t h cModcfg (m.mi.toNat : Word) none s.self.pcc)

/-- R214, R215, R216: `vbfx` takes two registers as one sequence, gathers the elements whose indices differ in one bit into the
same place of both, or puts them back; `vbrev` reverses index bits. Each reads its sources wholly first. -/
def ButterflyNetwork : Prop :=
  (∀ (o : OpRX) (m : ModMod) (s : State), Ready s [vBoth o.a, vBoth o.b] → CanIssue s → s.self.vec.vstart = 0 →
    Unbounded s 1 →
    let w := modWidth m
    let n := s.self.effective w
    let d := 2 ^ (o.imm.toNat % 8)
    let lo := fun (e : Nat) => e / d * (2 * d) + e % d
    let Z := fun (i : Nat) => if i < n then vel s o.a w i else if i < 2 * n then vel s o.b w (i - n) else 0
    let new := fun (f g : Nat → Nat) => s.withSelf (putV (putV s.self o.a w fun e => if e < n then some (f e) else none) o.b w
      fun e => if e < n then some (g e) else none)
    Leads (.vbfxGather o m) s (new (fun e => Z (lo e)) fun e => Z (lo e + d)) ∧
    (∃ Y : Nat → Nat,
      (∀ e < n, (lo e < 2 * n → Y (lo e) = vel s o.a w e) ∧ (lo e + d < 2 * n → Y (lo e + d) = vel s o.b w e)) ∧
      (∀ i, (∀ e < n, lo e ≠ i ∧ lo e + d ≠ i) → Y i = 0) ∧
      Leads (.vbfxScatter o m) s (new Y fun e => Y (n + e)))) ∧
  (∀ (o : OpRR) (m : ModMod) (s : State), Ready s [vDst o.a, vSrc o.b] → CanIssue s → s.self.vec.vstart = 0 →
    Unbounded s 1 →
    let w := modWidth m
    let n := s.self.effective w
    ∃ (k : Nat) (rev : Nat → Nat), n ≤ 2 ^ k ∧ (∀ j, n ≤ 2 ^ j → k ≤ j) ∧
      (∀ e < n, rev e < 2 ^ k ∧ ∀ j < k, (rev e).testBit j = e.testBit (k - 1 - j)) ∧
      Leads (.vbrev o m) s (s.withSelf (putV s.self o.a w fun e =>
        if e < n then some (if rev e < n then vel s o.b w (rev e) else 0) else none)))

/-! ## Tiles -/

/-- Element `k` of a row of a tile, `w` bits wide (R53, R220). -/
def tileEl (m : SMap Byte) (tile w row k : Nat) : Nat :=
  leNat (lookupRange 0 m (tile * 8192 + row * 128) 128) / 2 ^ (k * w) % 2 ^ w

/-- No issued operation reads a tile of the current strand (R229). -/
def TileFree (s : State) (tile : Nat) : Prop :=
  ∀ o ∈ (s.quad (quadOf s.cur)).ops, ¬((o.sid = s.cur ∧ o.leftTile = some tile) ∨ (o.rightSid = s.cur ∧ o.rightTile = tile))

/-- The state with a strand that holds other tile storage, and the error marks of rows written whole removed (R430). -/
def retiled (s : State) (tile rows : Nat) (tiles : SMap Byte) : State :=
  { s with badTiles := s.badTiles.filter fun e => !(e.1 / 256 = s.cur * 8 + tile && e.1 % 256 < rows * 4) }.withSelf
    { s.self with mtx := { s.self.mtx with tiles := tiles } }

/-- R221, R222, R229, R234, R235: descriptors are set and read, an ill-formed one raises `tdesc`; a tile is cleared, or takes
another one transposed. A tile that an operation reads is not written yet. -/
def TileRegisters : Prop :=
  (∀ (o : OpRR) (s : State), Ready s [⟨3, o.a.toNat, false, true⟩, wSrc o.b] → Free s →
    let d : BitVec 32 := (x s o.b).setWidth 32
    let bad := d.toNat / 2 ^ 26 ≠ 0 ∨ 10 < descFmt d ∨ 128 < (descCols d * tileBits (descFmt d) + 7) / 8
    (bad → Traps (.tcfg o) s cTdesc d.toNat) ∧
    (¬bad → ¬TileFree s o.a.toNat → Waits (.tcfg o) s) ∧
    (¬bad → TileFree s o.a.toNat → Leads (.tcfg o) s (s.withSelf { s.self with mtx :=
      { s.self.mtx with descs := storeAt 0 o.a.toNat d s.self.mtx.descs } }))) ∧
  (∀ (o : OpRR) (s : State), Ready s [wDst o.a, ⟨3, o.b.toNat, true, false⟩] → Free s →
    SetsX (.tdesc o) s o.a ((lookupD 0 s.self.mtx.descs o.b.toNat).setWidth 64)) ∧
  (∀ (o : OpR) (s : State), Ready s [⟨3, o.a.toNat, false, true⟩] → Free s → TileFree s o.a.toNat →
    ∃ tiles, (∀ n, lookupD 0 tiles n = if n / 8192 = o.a.toNat then 0 else lookupD 0 s.self.mtx.tiles n) ∧
      Leads (.tzero o) s (retiled s o.a.toNat 64 tiles)) ∧
  (∀ (o : OpRR) (s : State), Ready s [⟨3, o.a.toNat, false, true⟩, ⟨3, o.b.toNat, true, false⟩] → Free s →
    let a := o.a.toNat
    let d := s.self.desc o.b.toNat
    let w := tileBits (descFmt d)
    let R := descRows d
    let Q := descCols d
    let n : BitVec 32 := BitVec.ofNat 32 (descScale d * 2 ^ 18 + descFmt d * 2 ^ 13 + (R - 1) * 2 ^ 6 + (Q - 1))
    d.toNat < 2 ^ 26 → descFmt d ≤ 10 →
    (64 < Q ∨ 128 < (R * w + 7) / 8 → Traps (.ttr o) s cTdesc d.toNat) ∧
    (Q ≤ 64 → (R * w + 7) / 8 ≤ 128 → TileFree s a →
      ∃ tiles, (∀ i < 64, ∀ k < 1024 / w, tileEl tiles a w i k =
          if i < Q ∧ k < R then tileEl s.self.mtx.tiles o.b.toNat w k i else 0) ∧
        (∀ j, j / 8192 ≠ a → lookupD 0 tiles j = lookupD 0 s.self.mtx.tiles j) ∧
        let u := retiled s a 64 tiles
        Leads (.ttr o) s (u.withSelf { u.self with mtx := { u.self.mtx with descs := storeAt 0 a n s.self.mtx.descs } })))

/-- R222, R230, R236, R301: `tld` and `tst` move the rows of a tile, packed without gaps, at the point of coherence behind the core's
own dirty bytes, a load behind the strand's puts too; a row's bytes above its size become 0, and rows above the tile's are kept. The range lies in one page here. -/
def TileMemory : Prop :=
  ∀ (o : OpRX) (m : MemMod) (s : State) (loc : Nat) (e : Word),
    let a := o.a.toNat
    let d := s.self.desc a
    let z := (descCols d * tileBits (descFmt d) + 7) / 8
    let L := descRows d * z
    let c := at2 s o
    1 ≤ z → z ≤ 128 → Cap.cursor c.val % 65536 + L ≤ 65536 →
    (Ready s [⟨3, a, false, true⟩, wSrc o.b] → s.putsOutstanding s.cur = true → Waits (.tld o m) s) ∧
    (Ready s [⟨3, a, false, true⟩, wSrc o.b] → s.putsOutstanding s.cur = false → TileFree s a → Opens s c Cap.ld L loc e →
      let loads := fun (v : State) => NoPartials v → v.firstBad loc L = none →
        let bs := v.bytesAt loc L
        ∃ tiles, (∀ n, lookupD 0 tiles n =
            if n / 8192 = a ∧ n % 8192 / 128 < descRows d then
              if n % 128 < z then bs.getD (n % 8192 / 128 * z + n % 128) 0 else 0
            else lookupD 0 s.self.mtx.tiles n) ∧
          Leads (.tld o m) s (retiled (acquired v m.ord.toNat m.scope.toNat) a (descRows d) tiles)
      (Direct loc → loads s) ∧
      (cacheable loc → loads ((lineParts loc L).foldl (fun v p => v.leaveLine (coreOf s.cur) (p.1 / 128)) s))) ∧
    (Ready s [⟨3, a, true, false⟩, wSrc o.b] → Opens s c Cap.st L loc e →
      let u := released s m.ord.toNat m.scope.toNat
      let bs := (List.range L).map fun i => lookupD 0 s.self.mtx.tiles (a * 8192 + i / z * 128 + i % z)
      NoPartials u → (DirectOwn s loc ∨ (cacheable loc ∧ ∀ i < L, (lookupD L1Line.empty (u.core (coreOf s.cur)).lines
          ((loc + i) / 128)) = L1Line.empty)) →
      Leads (.tst o m) s (u.homePut loc bs))

/-! ## Matrix products -/

/-- A product is issued: the array holds the operation, its rows are to be written, and the watermark starts; nothing else
changes (R226, R228). -/
def Starts (i : Instr) (s : State) (o : MatOp) : Prop :=
  let q := quadOf s.cur
  let id := (s.quad q).nextOp
  ∃ t, exec i s = .next t ∧ t.self.pcc = s.self.pccAt s.self.npc ∧ t.self.instret = s.self.instret + 1 ∧
    (t.quad q).ops = (s.quad q).ops ++ [{ o with id := id }] ∧ (∀ p, t.self.phys p = s.self.phys p) ∧
    t.self.still = (s.self.withMark o.acc (BitVec.ofNat 64 ((s.self.mark o.acc).toNat / 256 * 256 + 64))).still ∧
    (∀ b, b ≠ s.cur → t.strand b = s.strand b) ∧ t.mem = s.mem ∧
    t.agenda.count (.matrixRowWrite q id) = s.agenda.count (.matrixRowWrite q id) + o.rows.length / o.block

/-- Nothing waits in the dispatch queues of the quad, no round is under way, and no budget holds a product (R173, R232). -/
def ArrayFree (s : State) : Prop := s.quadClear (quadOf s.cur) = true ∧ Unbounded s 0

/-- R221, R227, R229, R237: `mma` and `mmt` take their tiles as they stand: row i of the operation pairs element k of left row i with
column k of the right tile's rows. A pair of formats that R227 does not list, or tiles that do not fit, raise `tdesc`. -/
def DenseProductsIssue : Prop :=
  ∀ (o : OpRRR) (s : State) (ternary : Bool),
    let i : Instr := if ternary then .mmt o else .mma o
    let acc := o.a.toNat
    let lt := o.b.toNat
    let dL := s.self.desc lt
    let dR := s.self.desc o.c.toNat
    let row0 := o.imm.toNat % 64
    let w := tileBits (descFmt dL)
    let pair := pairing ternary (descFmt dL) (descFmt dR)
    let unfit := pair = none ∨ descCols dR ≠ descCols dL ∨ (descFmt dR = 0 ∧ 32 < descRows dR)
    Ready s [⟨4, acc, false, true⟩, ⟨3, lt, true, false⟩, ⟨3, o.c.toNat, true, false⟩] →
    (unfit → Traps i s cTdesc dR.toNat) ∧ (¬unfit → 64 < row0 + descRows dL → Traps i s cTdesc dL.toNat) ∧
    (¬unfit → row0 + descRows dL ≤ 64 → ArrayFree s →
      Starts i s
        { id := 0, sid := s.cur, acc := acc, fmtL := descFmt dL, scaleL := descScale dL, leftTile := some lt
          rightSid := s.cur, rightTile := o.c.toNat, descR := dR, right := tileStorage s.self.mtx.tiles o.c.toNat
          ternary := ternary, block := 1
          rows := (List.range (descRows dL)).map fun r =>
            ⟨row0 + r, (List.range (descCols dL)).map fun k => (tileEl s.self.mtx.tiles lt w r k, k)⟩
          written := 0, gang := none, followOn := none })

/-- An element of an operand reads as a number; the operand lies in scratchpads here. -/
def Operand (s : State) (c : Reg) (off n v : Nat) : Prop :=
  ∃ a e, Opens s ⟨Cap.offset c.val off, c.tag⟩ Cap.ld n a e ∧ Direct a ∧ s.firstBad a n = none ∧ v = leNat (s.bytesAt a n)

/-- R240 to R243: a sparse left operand is read row by row: pointers, indices, and the values whose column lies in the window.
`mmcsr` reads single values, `mmbsr` blocks of 16 by 16. A bad control word raises `tdesc`. -/
def SparseProductsIssue : Prop :=
  ∀ (o : OpRRR) (s : State) (ptr idx raw : Nat → Nat) (blocks : Bool),
    let i : Instr := if blocks then .mmbsr o else .mmcsr o
    let acc := o.a.toNat
    let dR := s.self.desc o.b.toNat
    let row0 := o.imm.toNat % 64
    let reg := fun (j : Nat) => o.c + BitVec.ofNat 6 j
    let word := x s (reg 3)
    let m := fieldAt word 0 7
    let fmt := fieldAt word 7 5
    let b := if bitAt word 20 then 8 else 4
    let col0 := fieldAt word 32 32
    let w := tileBits fmt
    let width := if blocks then descCols dR / 16 else descCols dR
    let bad := m = 0 ∨ (if blocks then 4 else 64) < m ∨ fieldAt word 21 11 ≠ 0 ∨ 8 < fmt ∨ pairing false fmt (descFmt dR) = none ∨
      (descFmt dR = 0 ∧ 32 < descRows dR) ∨ 64 < row0 + m * (if blocks then 16 else 1) ∨ (blocks = true ∧ descCols dR % 16 ≠ 0)
    let entries := fun (r : Nat) => ((List.range (ptr (r + 1) - ptr r)).map (ptr r + ·)).filter fun k =>
      col0 ≤ idx k && idx k < col0 + width
    let code := fun (k : Nat) => raw k / 2 ^ (k * w % 8) % 2 ^ w
    let rights := fun (c : Reg) => c.tag = true ∧ (s.self.mode = .hypervisor ∨ Cap.tenant c.val = s.self.tid) ∧
      Cap.kind c.val = Cap.kMemory ∧ Cap.has c.val Cap.ld = true
    Ready s [⟨4, acc, false, true⟩, ⟨3, o.b.toNat, true, false⟩, wSrc (reg 0), wSrc (reg 1), wSrc (reg 2), wSrc (reg 3)] →
    (∀ j < 3, rights (Claims.w s (reg j))) →
    (bad → Traps i s cTdesc (word.toNat % 2 ^ 32)) ∧
    (¬bad → s.putsOutstanding s.cur = true → Waits i s) ∧
    (¬bad → s.putsOutstanding s.cur = false → ArrayFree s → NoPartials s → (∀ r ≤ m, Operand s (Claims.w s (reg 0)) (r * b) b (ptr r)) →
      (∀ r < m, ∀ k, ptr r ≤ k → k < ptr (r + 1) → Operand s (Claims.w s (reg 1)) (k * b) b (idx k)) →
      (∀ r < m, ∀ k ∈ entries r, ∀ v, (v = k ∧ blocks = false) ∨ (v / 256 = k ∧ blocks = true) →
        Operand s (Claims.w s (reg 2)) (v * w / 8) (max 1 (w / 8)) (raw v)) →
      Starts i s
        { id := 0, sid := s.cur, acc := acc, fmtL := fmt, scaleL := fieldAt word 12 8, leftTile := none
          rightSid := s.cur, rightTile := o.b.toNat, descR := dR, right := tileStorage s.self.mtx.tiles o.b.toNat
          ternary := false, block := if blocks then 16 else 1
          rows := (List.range (m * if blocks then 16 else 1)).map fun r => ⟨row0 + r,
            if blocks then (entries (r / 16)).flatMap fun k => (List.range 16).map fun j =>
              (code (k * 256 + r % 16 * 16 + j), 16 * (idx k - col0) + j)
            else (entries r).map fun k => (code k, idx k - col0)⟩
          written := 0, gang := none, followOn := none })

/-- R63, R64, R65, R224, R226, R228, R238: a row write adds to each element of its row the sum of its products: exactly modulo 2^32
for INT32, group by group for FP32, product by product for FP64; no other element changes. The last row completes the operation.
A failing right tile aborts it instead at its lowest unwritten row, which the watermark and the strand's `gang` fault name. -/
def RowsAreWritten : Prop :=
  ∀ (s : State) (q id : Nat) (o : MatOp) (r : RowPlan) (p : Pairing), s.now = .matrixRowWrite q id →
    (s.quad q).ops.find? (fun v => v.id = id) = some o → o.block = 1 → o.gang = none →
    (o.rows.drop o.written).head? = some r → pairing o.ternary o.fmtL (descFmt o.descR) = some p →
    let old := s.strand o.sid
    let fmtR := descFmt o.descR
    let N := descRows o.descR
    let last := o.rows.length ≤ o.written + 1
    let rightEl := fun (j k : Nat) => tileEl o.right 0 (tileBits fmtR) j k
    let ints := fun (j : Nat) => (r.entries.map fun e => tileInt o.fmtL e.1 * tileInt fmtR (rightEl j e.2)).sum
    let values := fun (j : Nat) => r.entries.map fun e =>
      (tileValue o.fmtL o.scaleL e.1, tileValue fmtR (descScale o.descR) (rightEl j e.2))
    let frame := fun (t : State) => t.mem = s.mem ∧ (∀ b, b ≠ o.sid → t.strand b = s.strand b) ∧
      (∀ i, (t.strand o.sid).phys i = old.phys i) ∧ (t.strand o.sid).mtx.tiles = old.mtx.tiles
    (s.badTiles = [] → s.badRows = [] →
      ∃ t, exec .matrixRowWrite s = .next t ∧ frame t ∧
        let new := (t.strand o.sid).mtx.accs
        (p.kind = .int → ∀ j < N,
          accElement new o.acc r.row j = accElement old.mtx.accs o.acc r.row j + BitVec.ofInt 32 (ints j)) ∧
        (p.kind = .f32 → ∀ j < N, (accElement new o.acc r.row j).toNat =
          (sumGroups p.group (values j).length (values j) (accElement old.mtx.accs o.acc r.row j).toNat).1 % 2 ^ 32) ∧
        (p.kind = .f64 → N ≤ 32 → ∀ j < N, accPair new o.acc r.row j =
          (sumDoubles (values j) (accPair old.mtx.accs o.acc r.row j)).1 % 2 ^ 64) ∧
        (r.row < 64 → N ≤ (if p.kind = .f64 then 32 else 64) →
          ∀ k, k / 64 ≠ o.acc * 64 + r.row ∨ (if p.kind = .f64 then 2 * N else N) ≤ k % 64 →
          lookupD 0 new k = lookupD 0 old.mtx.accs k) ∧
        (last → (t.strand o.sid).mark o.acc = BitVec.ofNat 64 (2 ^ 16 + (old.mark o.acc).toNat % 256) ∧
          (t.quad q).ops = (s.quad q).ops.filter fun v => v.id ≠ id) ∧
        (¬last → (t.strand o.sid).mark o.acc = old.mark o.acc ∧
          (t.quad q).ops = (s.quad q).ops.map fun v => if v.id = id then { o with written := o.written + 1 } else v)) ∧
    (s.rightError o ≠ 0 →
      ∃ t, exec .matrixRowWrite s = .next t ∧ frame t ∧ (t.strand o.sid).mtx.accs = old.mtx.accs ∧
        (t.strand o.sid).mark o.acc = BitVec.ofNat 64 ((s.rightError o).toNat * 2 ^ 24 + 128 + r.row) ∧
        (t.strand o.sid).gangFault = some (cGang, BitVec.ofNat 64 (o.acc * 2 ^ 30 + r.row * 2 ^ 8 + (s.rightError o).toNat)) ∧
        (t.quad q).ops = (s.quad q).ops.filter fun v => v.id ≠ id)

/-- R244, R245, R247: `mmag` posts its part and waits; the posting that completes the count forms the gang, which issues at once
with the lead's right tile for all; the others complete when their turn comes. A posting of another count raises `gang`. -/
def GangsForm : Prop :=
  ∀ (o : OpRRR) (s : State) (scope g : Nat),
    let q := quadOf s.cur
    let acc := o.a.toNat
    let rt := o.imm.toNat % 8
    let gid := o.imm.toNat / 8 % 8
    let n := o.imm.toNat / 64 % 8 + 1
    let c := Claims.w s o.c
    let me : Posting := ⟨s.cur, gid, n, acc, o.b.toNat, rt, BitVec.ofNat 64 (Cap.cursor c.val)⟩
    let others := (s.quad q).postings.filter fun p => p.gid = gid
    Ready s [⟨4, acc, false, true⟩, ⟨3, o.b.toNat, true, false⟩, ⟨3, rt, true, false⟩, wSrc o.c] →
    (s.self.gangIssued → Leads (.mmag o) s (s.withSelf { s.self with gangIssued := false })) ∧
    (s.self.gangIssued = false → (∃ p ∈ (s.quad q).postings, p.sid = s.cur) → Waits (.mmag o) s) ∧
    (s.self.gangIssued = false → (∀ p ∈ (s.quad q).postings, p.sid ≠ s.cur) → checkFault s c Cap.br [Cap.kGroup] 1 = none →
      NamesGroup s c scope g → scope = 2 →
      ((∃ p ∈ others, p.count ≠ n) → Traps (.mmag o) s cGang (acc * 2 ^ 30 + gid * 2 ^ 27 + 0x10)) ∧
      ((∀ p ∈ others, p.count = n) → others.length + 1 < n → ArrayFree s →
        ∃ t, exec (.mmag o) s = .next t ∧ t.self.pcc = s.self.pcc ∧ t.self.instret = s.self.instret ∧
          (t.quad q).postings = (s.quad q).postings ++ [me] ∧ (t.quad q).ops = (s.quad q).ops) ∧
      ((∀ p ∈ others, p.count = n) → n ≤ others.length + 1 → ArrayFree s →
        let ps := others.foldl (fun l p => insertPosting p l) [me]
        let lead := ps.headD me
        (∀ p ∈ ps, (s.strand p.sid).desc p.rt = (s.strand lead.sid).desc lead.rt ∧ (partnerPair s lead p).isSome) →
        ∃ t, exec (.mmag o) s = .next t ∧ t.self.pcc = s.self.pccAt s.self.npc ∧ t.self.instret = s.self.instret + 1 ∧
          (t.quad q).postings = ((s.quad q).postings.filter fun p => p.gid ≠ gid) ∧
          (∀ p ∈ others, (t.strand p.sid).gangIssued = true) ∧
          ∀ k < ps.length, ∃ v ∈ (t.quad q).ops, v.sid = (ps.getD k me).sid ∧ v.acc = (ps.getD k me).acc ∧
            v.rightSid = lead.sid ∧ v.rightTile = lead.rt ∧ v.gang = some ((s.quad q).nextOp, k) ∧
            v.rows.length = descRows ((s.strand (ps.getD k me).sid).desc (ps.getD k me).lt)))

/-- R181, R225, R226, R248, R249: `accrd` converts the elements of one accumulator row from a column on, and waits for a row that is
not written unless the watermark stopped; `accwm` reads the watermark, `accz` clears an accumulator that no operation writes. -/
def AccumulatorsAreRead : Prop :=
  (∀ (o : OpRRR) (m : VecMod) (s : State), VReady s [vDst o.a, ⟨4, o.b.toNat, true, false⟩, wSrc o.c] m → Unbounded s 1 →
    let acc := o.b.toNat
    let row := (x s o.c).toNat % 64
    let c0 := (x s o.c).toNat / 64 % 64
    let mark := s.watermark s.cur acc
    let dst := tableType (o.imm.getLsbD 4) m.ty
    let mode := s.self.roundingMode m.rnd.toNat true
    let t := stepped s.self mode
    let new := elements t o.a dst.lane 0 (s.self.effective dst.lane) m.zero (s.self.mask m.mask.toNat) fun e =>
      t.convert dst mode e (accValue s.self.mtx.accs acc row (c0 + e) (o.imm.toNat % 4))
    (bitAt mark 7 = false → fieldAt mark 0 7 ≤ row → Waits (.accrd o m) s) ∧
    (bitAt mark 7 ∨ row < fieldAt mark 0 7 →
      Leads (.accrd o m) s (s.withSelf { new with vec := { new.vec with vstart := s.self.vec.vstart } }))) ∧
  (∀ (o : OpRR) (s : State), Ready s [wDst o.a, ⟨4, o.b.toNat, true, false⟩] → Free s →
    SetsX (.accwm o) s o.a (s.watermark s.cur o.b.toNat)) ∧
  (∀ (o : OpR) (s : State), Ready s [⟨4, o.a.toNat, false, true⟩] → Free s →
    let acc := o.a.toNat
    let busy := ∃ p ∈ (s.quad (quadOf s.cur)).ops, p.sid = s.cur ∧ p.acc = acc
    (busy → Waits (.accz o) s) ∧
    (¬busy → Leads (.accz o) s ({ s with badRows := s.badRows.filter fun e => e.1 / 64 ≠ s.cur * 2 + acc }.withSelf
      { s.self with mtx := { s.self.mtx with
        accs := s.self.mtx.accs.filter fun e => e.1 / 4096 ≠ acc, marks := storeAt 0x40 acc 0x40 s.self.mtx.marks } })))

/-! ## Intersection -/

/-- A range within one page passes its check and its translation. -/
def Spans (s : State) (c : Reg) (perm : BitVec 12) (L : Nat) : Prop :=
  checkFault s c perm [Cap.kMemory] L = none ∧
  (L ≠ 0 → Cap.cursor c.val % 65536 + L ≤ 65536 ∧ ∃ p e, Maps s (Cap.tenant c.val) (Cap.cursor c.val) perm p e)

/-- A merge that can give no further pair (R253). -/
def Done (v : Stream) : Prop := v.stopped.isSome ∨ v.n1 ≤ v.i ∨ v.n2 ≤ v.j

/-- R252 to R255: `ixs` starts a merge of two lists, whose check translates the cursors (R77); each step reads a missing element or compares two; `ixget` delivers pairs in
order once enough are buffered or the merge has ended; `ixst` tells the positions behind the last delivered pair. -/
def Intersections : Prop :=
  (∀ (o : OpRR) (s : State), Issues s [o.a, o.b] →
    let a := Claims.w s o.a
    let b := Claims.w s o.b
    let len := fun (c : Reg) => ((Cap.top c.val - Cap.cursor c.val) / 8).toNat
    (Cap.cursor a.val % 8 ≠ 0 → Traps (.ixs o) s cAlign (Cap.cursor a.val)) ∧
    let listed := fun (c : Reg) => checkFault s c Cap.ld [Cap.kMemory] (8 * len c) = none ∧
      ∃ p e, Maps s (Cap.tenant c.val) (Cap.cursor c.val) Cap.ld p e
    (Cap.cursor a.val % 8 = 0 → Cap.cursor b.val % 8 = 0 → listed a → listed b →
      let u : State := { s with units := { s.units with requests := s.units.requests.filter fun r =>
        !(r.sid = s.cur && (r.use = .index false || r.use = .index true)) } }
      let new : Stream := { capA := a, capB := b, n1 := len a, n2 := len b, i := 0, j := 0, headA := none, headB := none,
                            pairs := [], nextA := 0, nextB := 0, stopped := none }
      Leads (.ixs o) s (posting (u.withSelf { u.self with stream := some new }) [.ixMergeStep s.cur]))) ∧
  (∀ (s : State) (sid : Nat) (v : Stream), s.now = .ixMergeStep sid → (s.strand sid).stream = some v →
    let next := fun (y : Stream) => posting (s.withStrand sid { s.strand sid with stream := some y }) [.ixMergeStep sid]
    (Done v → Happens .ixMergeStep s s) ∧
    (∀ p q, ¬Done v → v.headA = some p → v.headB = some q → Happens .ixMergeStep s (next
      (if p < q then { v with i := v.i + 1, headA := none }
      else if q < p then { v with j := v.j + 1, headB := none }
      else { v with i := v.i + 1, j := v.j + 1, headA := none, headB := none, pairs := v.pairs ++ [(v.i, v.j)] }))) ∧
    (∀ p e, ¬Done v → v.headA = none →
      let va := (Cap.cursor v.capA.val + 8 * v.i) % 2 ^ 48
      Maps { s with cur := sid } (Cap.tenant v.capA.val) va Cap.ld p e → pteM e = false → pkgOf p = s.pkg →
      s.units.lost.contains s.pkg = false → NoPartials s → (Direct (localOf p) ∨ cacheable (localOf p)) →
      (s.badAt (localOf p) = 0 →
        Happens .ixMergeStep s (next { v with headA := some (leNat (s.bytesAt (localOf p) 8)) })) ∧
      (s.badAt (localOf p) ≠ 0 → Happens .ixMergeStep s (s.withStrand sid { s.strand sid with
        stream := some { v with stopped := some (s.badAt (localOf p), BitVec.ofNat 64 va) } })))) ∧
  (∀ (o : OpRRR) (s : State), Ready s [wDst o.a, vDst o.b, vDst o.c] →
    let n := s.self.effective 64
    (s.self.vec.lanes = [] ∨ s.self.stream = none ∨ o.b = o.c → Traps (.ixget o) s cIll s.self.illValue) ∧
    (∀ v, CanIssue s → o.b ≠ o.c → s.self.stream = some v →
      (n = 0 → SetsX (.ixget o) s o.a 0) ∧
      (n ≠ 0 → v.pairs.length < n → ¬Done v → Waits (.ixget o) s) ∧
      (∀ c a, n ≠ 0 → v.pairs = [] → v.stopped = some (c, a) → ∀ h, Handler s c h → ∃ t, exec (.ixget o) s = .next t ∧
        Enters (s.withSelf { s.self with faddr := BitVec.ofNat 64 (a.toNat % 2 ^ 48) }) t h c a none s.self.pcc) ∧
      (n ≠ 0 → n ≤ v.pairs.length ∨ Done v → v.pairs ≠ [] ∨ v.stopped = none →
        let ps := v.pairs.take n
        let t := putV (putV s.self o.b 64 fun e => if e < n then some (ps.getD e (0, 0)).1 else none) o.c 64
          fun e => if e < n then some (ps.getD e (0, 0)).2 else none
        let rest := { v with
          pairs := v.pairs.drop n, nextA := (ps.getLast?.map (·.1 + 1)).getD v.nextA, nextB := (ps.getLast?.map (·.2 + 1)).getD v.nextB }
        Leads (.ixget o) s (s.withSelf ({ t with stream := some rest }.putW o.a.toNat
          (Reg.ofWord (BitVec.ofNat 64 ps.length))))))) ∧
  (∀ (o : OpRR) (s : State), Issues s [o.a, o.b] →
    let both := fun (p q : Word) => Leads (.ixst o) s (s.withSelf
      ((s.self.putW o.a.toNat (Reg.ofWord p)).putW o.b.toNat (Reg.ofWord q)))
    (s.self.stream = none → both 0 0) ∧
    (∀ v, s.self.stream = some v →
      (Done v → both (BitVec.ofNat 64 (2 ^ 63 + 2 ^ 62 + v.nextA % 2 ^ 48)) (BitVec.ofNat 64 (v.nextB % 2 ^ 48))) ∧
      (¬Done v → both (BitVec.ofNat 64 (2 ^ 63 + v.nextA % 2 ^ 48)) (BitVec.ofNat 64 (v.nextB % 2 ^ 48)))))

/-! ## Update-only lines and regions -/

/-- R112, R276, R278, R281, R282, R283: `amou` adds into a partial of its core's L1 where the line may be cached, allocating the line in
update-only state and registering it first, and otherwise combines into the location at once. A partial starts at a value that changes nothing. -/
def UpdatesAccumulate : Prop :=
  (∀ (o : OpRRR) (m : AmouMod) (n : AmoMod) (s : State) (ins : Instr) (op kind k a : Nat) (e : Word), Issues s [o.a, o.b, o.c] →
    ((ins = .amouInteger o m ∧ op = m.op.toNat ∧ kind = 0 ∧ k = if m.w32 then 4 else 8) ∨
      (ins = .amouF32 o n ∧ op = 0 ∧ kind = 1 ∧ k = 4) ∨ (ins = .amouF64 o n ∧ op = 0 ∧ kind = 2 ∧ k = 8)) →
    let c : Reg := ⟨Cap.offset (w s o.b).val (x s o.c).toInt, (w s o.b).tag⟩
    let core := coreOf s.cur
    let line := a / 128
    let y := (x s o.a).toNat % 2 ^ (8 * k)
    let held := lookupD L1Line.empty (s.core core).lines line
    Opens s c (Cap.st ||| Cap.atm) k a e →
    (DirectOwn s a ∨ (cacheable a ∧ pteNc e) →
      let u := s.leaveLine core line
      NoPartials u → u.firstBad a k = none →
      Leads ins s (u.homePut a (leBytes k (combine op kind k (leNat (u.bytesAt a k)) y)))) ∧
    (cacheable a → pteNc e = false →
      let same := held.upd = some ⟨op, kind, k⟩
      let u := if same then s else
        (List.range 8).foldl (fun v g => v.putTag (line * 128 + 16 * g) false)
          (((s.leaveLine core line).l1Room core line).register line)
      let before := fun (j : Nat) =>
        if same then held.bytes.getD j 0 else ((leBytes k (partialIdentity op kind k)).getD (j % k) 0)
      (same → held.bytes.length = 128) →
      ∃ l : L1Line, l.upd = some ⟨op, kind, k⟩ ∧ l.bytes.length = 128 ∧
        (∀ j < 128, (j < a % 128 ∨ a % 128 + k ≤ j) → l.bytes.getD j 0 = before j) ∧
        leNat ((l.bytes.drop (a % 128)).take k) = combine op kind k (leNat ((List.range k).map fun i => before (a % 128 + i))) y ∧
        Leads ins s (u.withCore core { u.core core with lines := storeAt L1Line.empty line l (u.core core).lines }))) ∧
  (∀ op k y : Nat, op < 8 → (k = 4 ∨ k = 8) → y < 2 ^ (8 * k) → combine op 0 k (partialIdentity op 0 k) y = y)

/-- R285, R286: `lra` opens a region on a line; a component checks its own access, must lie in that line, and is recorded, at most
eight of them. In a lost region it records nothing. (What the model does in a lost region whose line no image has kept is its own
choice: log 101.) -/
def RegionsRecord : Prop :=
  (∀ (o : OpRX) (m : MemMod) (s : State), Issues s [o.a, o.b] →
    let c := at2 s o
    let va := Cap.cursor c.val
    (s.self.region.state = .opened → Traps (.lra o m) s cIll s.self.illValue) ∧
    (∀ p e, s.self.region.state ≠ .opened → checkFault s c Cap.atm [Cap.kMemory] 1 = none →
      Maps s (Cap.tenant c.val) va Cap.atm p e →
      let barred := match place (localOf p) with
        | .slice .. => true
        | .window .. => true
        | .port _ => true
        | .aliasWindow _ => true
        | _ => false
      (barred = true → Traps (.lra o m) s cPerm va) ∧
      (barred = false → Leads (.lra o m) s (s.withSelf { s.self with
        region := { state := .opened, known := true, result := s.self.physOf o.a.toNat, line := va / 128 * 128, pa := p / 128 * 128,
                    tenant := Cap.tenant c.val, mirrored := pteM e, comps := [] } })))) ∧
  (∀ (o : OpRX) (m : MemMod) (s : State) (ins : Instr) (perm : BitVec 12) (comp : Nat → Component), Issues s [o.a, o.b] →
    m.width.toNat ≤ 3 →
    let k := 2 ^ m.width.toNat
    let bytes := leBytes k (x s o.a).toNat
    (ins = .lrl o m ∧ perm = (Cap.ld ||| Cap.atm) ∧ comp = (fun p => .load p k m.sx (s.self.physOf o.a.toNat))) ∨
      (ins = .lrs o m ∧ perm = (Cap.st ||| Cap.atm) ∧ comp = fun p => .store p bytes) ∨
      (ins = .lrg o m ∧ perm = (Cap.ld ||| Cap.atm) ∧ comp = fun p => .guard p bytes) →
    let c := at2 s o
    let va := Cap.cursor c.val
    let r := s.self.region
    (r.state = .none ∨ (r.state = .opened ∧ 8 ≤ r.comps.length) → Traps ins s cIll s.self.illValue) ∧
    (∀ p e, r.state ≠ .none → (r.state = .opened → r.comps.length < 8) → checkFault s c perm [Cap.kMemory] k = none →
      Maps s (Cap.tenant c.val) va perm p e →
      (r.known → va / 128 * 128 ≠ r.line → Traps ins s cAlign va) ∧
      (r.known → va / 128 * 128 = r.line → r.state = .lost → Leads ins s s) ∧
      (r.known → va / 128 * 128 = r.line → r.state = .opened → Leads ins s (s.withSelf { s.self with
        region := { r with comps := r.comps ++ [comp (r.pa + va % 128)] } }))))

/-- R287, R288, R289: `lrc` performs an open region at the home of its line in one act: the guards are compared and the loads read
as the line stands; the stores follow only if every guard passes; loads and the result are written, and the region is gone. A
lost region does nothing and says so. -/
def RegionsCommit : Prop :=
  ∀ (o : OpN) (m : MemMod) (s : State), Together s →
    let i : Instr := .lrc o m
    let r := s.self.region
    let a := localOf r.pa
    let u0 := released s m.ord.toNat m.scope.toNat
    let closed := fun (t : Strand) (v : Word) => { t.putPhys r.result (Reg.ofWord v) with region := Region.none }
    (r.state = .none → Traps i s cIll s.self.illValue) ∧
    (r.state = .lost → r.known → Leads i s (s.withSelf (closed s.self 0x4000000000000000))) ∧
    (r.state = .lost → r.known = false → ∃ p < 256, Leads i s ({ s with fresh := s.fresh + 1 }.withSelf
      { s.self.putPhys p (Reg.ofWord 0x4000000000000000) with region := Region.none })) ∧
    (r.state = .opened → r.mirrored → Traps i s cPerm r.line) ∧
    (r.state = .opened → r.mirrored = false → r.comps = [] →
      let u := acquired u0 m.ord.toNat m.scope.toNat
      Leads i s (u.withSelf (closed u.self 0x8000000000000000))) ∧
    (r.state = .opened → r.mirrored = false → r.comps ≠ [] → pkgOf r.pa = s.pkg → a % 128 = 0 → (cacheable a ∨ DirectOwn s a) →
      let u := u0.leaveLine (coreOf s.cur) (a / 128)
      NoPartials u → u.firstBad a 128 = none → (∀ c ∈ regionStores r.comps, a ≤ c.1 ∧ c.1 < a + 128) →
      let failed : Nat := ((regionGuards r.comps).zipIdx.map fun g =>
        if u.bytesAt g.1.1 g.1.2.length = g.1.2 then 0 else 2 ^ g.2).sum
      let stored := if failed = 0 then (regionStores r.comps).foldl (fun v c => v.homePut c.1 c.2) u else u
      let v := acquired stored m.ord.toNat m.scope.toNat
      let loaded := (regionLoads r.comps).foldl (fun (t : Strand) l =>
        t.putPhys l.2.2.2 (Reg.ofWord (got l.2.1 l.2.2.1 (u.bytesAt l.1 l.2.1)))) v.self
      Leads i s (v.withSelf (closed loaded (BitVec.ofNat 64 ((if failed = 0 then 2 ^ 63 else 0) + failed)))))

/-! ## The remote path -/

/-- R277, R413, R417: `amof` adds into a DRAM word of this package, when no combining window is asked for, at the word's home, and
gives the old value; another place raises `perm`. -/
def FetchAndAdd : Prop :=
  ∀ (o : OpRRR) (m : AmoMod) (s : State) (p : Nat) (e : Word), Issues s [o.a, o.b, o.c] →
    let k := if m.w32 then 4 else 8
    let c : Reg := ⟨Cap.offset (w s o.b).val (x s o.c).toInt, (w s o.b).tag⟩
    let perm := Cap.ld ||| Cap.st ||| Cap.atm
    let a := localOf p
    checkFault s c perm [Cap.kMemory] k = none → Maps s (Cap.tenant c.val) (Cap.cursor c.val) perm p e →
    (place a ≠ .dram ∨ pteM e → Traps (.amof o m) s cPerm (Cap.cursor c.val)) ∧
    (place a = .dram → pteM e = false → pkgOf p = s.pkg → o.imm.toNat % 64 = 0 →
      let u := (released s m.ord.toNat m.scope.toNat).leaveLine (coreOf s.cur) (a / 128)
      NoPartials u → u.firstBad a k = none →
      let old := leNat (u.bytesAt a k)
      let t := acquired (u.homePut a (leBytes k ((old + (x s o.a).toNat) % 2 ^ (8 * k)))) m.ord.toNat m.scope.toNat
      Leads (.amof o m) s (t.withSelf (t.self.putW o.a.toNat (Reg.ofWord (BitVec.ofNat 64 old)))))

/-- R115, R160, R291: `fencx` first reports a put that was dropped within its scope, then waits for the accesses on the paths that
it names, and acts as a release and an acquire where it names the core path. -/
def PathFences : Prop :=
  ∀ (o : OpN) (m : PathMod) (s : State),
    let i : Instr := .fencx o m
    let names := fun (path : Nat) => m.pa = 7 ∨ m.pb = 7 ∨ m.pa.toNat = path ∨ m.pb.toNat = path
    let within := fun (c : BitVec 8) (pkg : Nat) => if pkg = s.pkg then 4 ≤ m.scope.toNat
      else 5 ≤ m.scope.toNat ∧ (c = cPeer → (pkg, s.jobOf s.cur) ∈ s.units.lostJobs)
    let core := coreOf s.cur
    let outstanding := (names 5 ∧ s.putsOutstanding s.cur) ∨ (names 2 ∧ s.copiesOutstanding s.cur) ∨
      (names 3 ∧ (.ixMergeStep s.cur ∈ s.agenda ∨
        ∃ r ∈ s.units.requests, r.sid = s.cur ∧ (r.use = .index false ∨ r.use = .index true)))
    Together s →
    (∀ v pkg, names 5 → s.self.dropped = [(cPeer, v, pkg)] → within cPeer pkg →
      TrapsIn i s (s.withSelf { s.self with dropped := [] }) cPeer v none) ∧
    ((∀ d ∈ s.self.dropped, ¬within d.1 d.2.2) ∨ ¬names 5 →
      (outstanding → Waits i s) ∧
      (¬outstanding → Leads i s (if ¬names 0 then s else if 2 ≤ m.scope.toNat then (s.releaseCore core).acquireCore core
        else s.refetch core)))

/-- R159, R299: `rput` and `rget` copy bytes from one home to another, here within this package and within one page each; no
other byte changes but what a release has written back, and a release waits for the strand's older puts first. More than 4096
bytes raise `bounds`, and none do nothing. -/
def PutsAndGetsCopy : Prop :=
  ∀ (o : OpRRR) (m : MemMod) (s : State) (put : Bool), Issues s [o.a, o.b, o.c] →
    let i : Instr := if put then .rput o m else .rget o m
    let n := (x s o.c).toNat
    let moved := fun (r : Reg) => (⟨Cap.offset r.val o.imm.toInt, r.tag⟩ : Reg)
    let d := if put then moved (w s o.a) else w s o.a
    let c := if put then w s o.b else moved (w s o.b)
    let u := if put then released s m.ord.toNat m.scope.toNat else s
    (4096 < n → Traps i s cBounds (Cap.cursor d.val)) ∧
    (n = 0 → Cap.kind d.val ≠ Cap.kMulticast → checkFault s d Cap.st [Cap.kMemory] 0 = none →
      checkFault s c Cap.ld [Cap.kMemory] 0 = none → Leads i s s) ∧
    (∀ b a e f, 0 < n → n ≤ 4096 → Opens s d Cap.st n b e → Cap.cursor d.val % 65536 + n ≤ 65536 →
      Opens s c Cap.ld n a f → Cap.cursor c.val % 65536 + n ≤ 65536 → (cacheable a ∨ Direct a) → s.firstBad a n = none →
      NoPartials s → NoPartials u → (∀ j < n, cacheable (b + j) ∧ u.badAt (b + j) = 0) →
      (put = false → m.ord = 0) → (put = true → m.ord = 2 → s.putsOutstanding s.cur = false) →
      ∃ t, exec i s = .next t ∧ t.self.pcc = s.self.pccAt s.self.npc ∧ t.self.instret = s.self.instret + 1 ∧
        (∀ p, t.self.phys p = s.self.phys p) ∧ (∀ j < n, t.byteAt (b + j) = s.byteAt (a + j)) ∧
        ∀ j, j < b ∨ b + n ≤ j → t.byteAt j = u.byteAt j)

/-- R298, R404, R408: a load or store of another package's memory sends a request, and is tried again until its answer is there;
then a load takes the answer's bytes. A package that is marked lost raises `peer`. -/
def OtherPackages : Prop :=
  ∀ (o : OpRX) (m : MemMod) (s : State) (load : Bool) (p : Nat) (e : Word), Issues s [o.a, o.b] → m.width.toNat ≤ 3 → m.ord = 0 →
    let i : Instr := if load then .ld o m else .st o m
    let k := 2 ^ m.width.toNat
    let c := at2 s o
    let perm := if load then Cap.ld else Cap.st
    checkFault s c perm [Cap.kMemory] k = none → Maps s (Cap.tenant c.val) (Cap.cursor c.val) perm p e → pteM e = false →
    pkgOf p ≠ s.pkg → s.self.opIndex = 0 →
    (s.units.lost.contains (pkgOf p) → Traps i s cPeer (p % 2 ^ 55)) ∧
    (s.units.lost.contains (pkgOf p) = false →
      (s.self.asked = [] → ∃ t, exec i s = .next t ∧ t.self.pcc = s.self.pcc ∧ t.self.instret = s.self.instret ∧
        t.self.asked = [s.units.nextTxn] ∧ ∃ r ∈ t.units.requests, r.txn = s.units.nextTxn ∧ r.sid = s.cur ∧ r.use = .instr ∧
          r.packet.dst = pkgOf p ∧ r.packet.addr = localOf p ∧
          r.packet.op = (if load then .read k else .write) ∧
          r.packet.data = if load then [] else leBytes k (x s o.a).toNat) ∧
      (∀ txn, s.self.asked = [txn] → (∀ a ∈ s.self.answers, a.txn ≠ txn) → Waits i s) ∧
      (∀ txn data tag op, s.self.asked = [txn] → s.self.answers = [⟨txn, op, data, tag⟩] → data.length = k →
        (op = .accepted ∨ op = .read k) →
        if load then SetsX i s o.a (got k m.sx data) else Leads i s s))

/-! ## Near-memory agents -/

/-- R344, R345, R346: `nmld` loads a routine of the tenant into a slot, or frees it, when its image passes the checks, whose
outcome the register tells; it needs supervisor mode. `nma` runs a routine and takes its four results; a routine of a single
`ret` gives the arguments back. -/
def AgentsRun : Prop :=
  (∀ (o : OpRRC) (s : State) (a : Nat) (e : Word), Issues s [o.a, o.x, o.y] →
    let c := w s o.y
    let slot := (x s o.x).toNat
    let bs := s.bytesAt a 128
    let n := leNat (bs.take 2)
    let ws := (bytesToWords (bs.drop 2)).take n
    let status := validateImage n ws
    (64 ≤ slot → Traps (.nmld o) s cIll s.self.illValue) ∧
    (slot < 64 → s.self.mode = .user → Traps (.nmld o) s cPriv s.self.illValue) ∧
    (slot < 64 → s.self.mode ≠ .user → Opens s c Cap.ld 128 a e →
      ∀ v, lookupD none s.units.agentSlots slot = some v → v.owner ≠ s.self.tid → s.self.mode ≠ .hypervisor →
        Traps (.nmld o) s cPerm (Cap.cursor c.val)) ∧
    (slot < 64 → s.self.mode ≠ .user → Opens s c Cap.ld 128 a e → Cap.cursor c.val % 65536 + 128 ≤ 65536 → Direct a →
      NoPartials s → s.firstBad a 128 = none →
      ((∀ v, lookupD none s.units.agentSlots slot = some v → v.owner = s.self.tid ∨ s.self.mode = .hypervisor) →
        (63 < n → status = BitVec.ofNat 64 (2 ^ 63 + 1)) ∧
        (status ≠ 0 → SetsX (.nmld o) s o.a status) ∧
        (status = 0 →
          let new : Option AgentSlot := if n = 0 then none else some ⟨s.self.tid, ws⟩
          let u : State := { s with units := { s.units with agentSlots := storeAt none slot new s.units.agentSlots } }
          Leads (.nmld o) s (u.withSelf (u.self.putW o.a.toNat Reg.zero)))))) ∧
  (∀ (o : OpRRR) (s : State) (p : Nat) (e : Word), Ready s [wBoth o.a, wBoth (o.a + 1), wBoth (o.a + 2), wBoth (o.a + 3)] →
    o.a.toNat ≤ 60 → Issues s [o.b, o.c] →
    let c : Reg := ⟨Cap.offset (w s o.b).val (x s o.c).toInt, (w s o.b).tag⟩
    let va := Cap.cursor c.val
    let a := localOf p
    let slot := lookupD none s.units.agentSlots (o.imm.toNat % 64)
    let args := (List.range 4).map fun j => x s (o.a + BitVec.ofNat 6 j)
    let results := fun (t : Strand) (vs : List Word) => (List.range 4).foldl (fun (t : Strand) j =>
      t.putW (o.a + BitVec.ofNat 6 j).toNat (Reg.ofWord (vs.getD j 0))) t
    checkFault s c Cap.ec [Cap.kMemory] 1 = none → Maps s (Cap.tenant c.val) va Cap.ec p e →
    (place a ≠ .dram ∨ pteM e → Traps (.nma o) s cPerm va) ∧
    (place a = .dram → pteM e = false → pkgOf p = s.pkg →
      (slot = none ∨ (∃ v, slot = some v ∧ v.owner ≠ Cap.tenant c.val) ∨ Cap.has c.val Cap.gl = false →
        Traps (.nma o) s cPerm va) ∧
      (∀ v, slot = some v → v.owner = Cap.tenant c.val → Cap.has c.val Cap.gl →
        (∀ j ∈ s.units.agentJobs, j.agent ≠ channelOf a) → Unbounded s 5 →
        (v.words = [0x2000] → Leads (.nma o) s (s.withSelf (results s.self args))))))

/-- R344, R346: an agent takes the routine of another package that has waited longest, and answers it; without one it does
nothing. A slot that is empty, or another tenant's, is answered with `perm`, and nothing is written. -/
def AgentTurns : Prop :=
  ∀ (s : State) (agent : Nat), s.now = .nmaRoutine agent →
    ((∀ j ∈ s.units.agentJobs, j.agent ≠ agent) → Happens .nmaRoutine s s) ∧
    (∀ j js, s.units.agentJobs = j :: js → j.agent = agent → j.packet.src.toNat / 16384 ≠ s.pkg →
      (∀ v, lookupD none s.units.agentSlots (j.slot % 64) = some v → v.owner ≠ Cap.tenant j.cap.val) →
      ∃ t pk, exec .nmaRoutine s = .next t ∧ t.units.agentJobs = js ∧ t.mem = s.mem ∧ (∀ b, t.strand b = s.strand b) ∧
        t.agenda = s.agenda ++ [.packetForward pk] ∧ pk.dst = j.packet.src.toNat / 16384 ∧ pk.txn = j.packet.txn ∧
        pk.op = .fail cPerm (BitVec.ofNat 64 (Cap.cursor j.cap.val)))

/-! ## Copy engines -/

/-- A leaf that a TLB group holds grants an access without a walk: the address and the leaf. -/
def MapsIn (s : State) (group : Nat) (tenant : BitVec 12) (va : Nat) (perm : BitVec 12) (p : Nat) (e : Word) : Prop :=
  ∃ t, s.tlbFind group tenant va = t ∧ pteV t.pte ∧ e = t.pte ∧ p = leafAddr t va ∧ pteGrants e perm ∧
    (perm &&& (Cap.st ||| Cap.sc ||| Cap.atm) ≠ 0 → pteD e)

/-- A range within one page, as a unit of this package reaches it: it starts at a local address, is not mirrored, and lies in
DRAM or a die scratchpad whose sectors do not fail. -/
def Reaches (s : State) (group : Nat) (c : Reg) (perm : BitVec 12) (n a : Nat) : Prop :=
  Cap.cursor c.val % 65536 + n ≤ 65536 ∧ (∀ j < n, cacheable (a + j) ∧ s.badAt (a + j) = 0) ∧
  ∃ p e, MapsIn s group (Cap.tenant c.val) (Cap.cursor c.val) perm p e ∧ pkgOf p = s.pkg ∧ a = localOf p ∧ pteM e = false

/-- The state with a copy queue replaced. -/
def withQueue (s : State) (q : Nat) (v : CopyQueue) : State :=
  { s with units := { s.units with queues := storeAt CopyQueue.empty q v s.units.queues } }

/-- R347, R348, R351, R352: `cpy` checks its five registers and puts one command behind those of its queue; a combinable one opens a
window of 16 clk. A full queue makes it wait. `cpyw` waits for the strand's own commands, then reads the queue's status and
clears its error. -/
def CopiesIssue : Prop :=
  (∀ (o : OpRR) (s : State) (q : Nat) (p : Nat) (e : Word),
    Ready s [⟨0, o.b.toNat, true, false⟩, ⟨0, o.b.toNat + 1, true, false⟩, ⟨0, o.b.toNat + 2, true, false⟩,
      ⟨0, o.b.toNat + 3, true, false⟩, ⟨0, o.b.toNat + 4, true, false⟩, wSrc o.a] → o.b.toNat ≤ 59 →
    let src := w s o.b
    let dst := w s (o.b + 1)
    let ctl := x s (o.b + 2)
    let fut := w s (o.b + 3)
    let word := x s (o.b + 4)
    let len := ctl.toNat % 2 ^ 32
    let fol := bitAt ctl 33
    let tile := Cap.kind dst.val = Cap.kTile
    let global := fun (r : Reg) => Cap.has r.val Cap.gl = true
    let bad := fieldAt ctl 34 30 ≠ 0 ∨
      (fol = true ∧ (fieldAt word 16 48 ≠ 0 ∨ bitAt word 6 = true ∨ 2 ≤ fieldAt word 14 2 ∨ dst.tag = false ∨ ¬tile))
    let dstOk := if tile then checkFault s dst Cap.st [Cap.kTile] 1 = none ∧ Cap.cursor dst.val / 2 ^ 44 = 0 ∧
        Cap.cursor dst.val / 2 ^ 31 % 8192 + len ≤ 8192
      else checkFault s dst Cap.st [Cap.kMemory] len = none
    let colony := s.colonyOf s.cur
    let room := (s.queue q).cmds.length < 16 ∧ ∀ c, s.colony colony = some c → s.heldCopies colony < c.cslots
    let cmd : CopyCmd := { id := s.units.nextCopy, tid := s.self.tid, src := src, len := len
                           members := [{ sid := s.cur, hyper := s.self.mode = .hypervisor, dst := dst, fut := fut, error := none }]
                           followOn := if fol then some word else none, charged := false, got := [], readError := none
                           written := false }
    let queued := withQueue s q { s.queue q with cmds := (s.queue q).cmds ++ [cmd] }
    (bad → Traps (.cpy o) s cIll s.self.illValue) ∧
    (¬bad → checkFault s (w s o.a) Cap.ec [Cap.kQueue] 1 = none →
      Maps s (Cap.tenant (w s o.a).val) (Cap.cursor (w s o.a).val) Cap.ec p e → queueOf s p = some q →
      checkFault s src Cap.ld [Cap.kMemory] len = none → global src → dstOk → global dst →
      (fut.tag = true → checkFault s fut (Cap.st ||| Cap.atm) [Cap.kMemory] 16 = none ∧ global fut) →
      s.windowAt (quadOf s.cur) q = none → (s.colony colony = none → s.heldCopies colony < 32768) →
      (bitAt ctl 32 = false → room →
        Leads (.cpy o) s (posting { queued with units := { queued.units with nextCopy := s.units.nextCopy + 1 } } [.copyCommand q])) ∧
      (bitAt ctl 32 = false → 16 ≤ (s.queue q).cmds.length → Waits (.cpy o) s) ∧
      (∀ pd ed, bitAt ctl 32 = true → fol = false → ¬tile → room → 0 < len → Cap.cursor dst.val % 65536 + len ≤ 65536 →
        Maps s (Cap.tenant dst.val) (Cap.cursor dst.val) Cap.st pd ed → pkgOf pd = s.pkg →
        (∃ off, ∀ j < len, place (localOf pd + j) = .coreSpad (coreOf s.cur) (off + j)) →
        Leads (.cpy o) s { queued with units := { queued.units with
          nextCopy := s.units.nextCopy + 1
          windows := s.units.windows ++ [⟨quadOf s.cur, q, s.units.nextCopy, (s.core (coreOf s.cur)).clk + 16⟩] } }))) ∧
  (∀ (o : OpRR) (s : State) (q : Nat) (p : Nat) (e : Word), Issues s [o.a, o.b] →
    let c := w s o.b
    let v := s.queue q
    let own := ∃ d ∈ v.cmds, ∃ m ∈ d.members, m.sid = s.cur
    checkFault s c Cap.ec [Cap.kQueue] 1 = none → Maps s (Cap.tenant c.val) (Cap.cursor c.val) Cap.ec p e → queueOf s p = some q →
    (own → Waits (.cpyw o) s) ∧
    (¬own →
      let u := withQueue s q { v with err := false, cause := 0, addr := 0 }
      Leads (.cpyw o) s (u.withSelf (u.self.putW o.a.toNat (Reg.ofWord (BitVec.ofNat 64
        ((if v.err then 2 ^ 63 else 0) + v.cmds.length % 32 * 2 ^ 57 + v.cause.toNat * 2 ^ 48 + v.addr % 2 ^ 48)))))))

/-- R349, R350, R351: the engine performs the command that heads a queue: each destination byte gets the source's byte as it stood,
and the command leaves the queue. A follow-on enters the queue of its target's core, or is discarded with an error when the
target has ended. A closed window lets its command go on. -/
def CopyEvents : Prop :=
  (∀ (s : State) (q : Nat), s.now = .copyCommand q →
    ((s.queue q).cmds = [] → Happens .copyCommand s s) ∧
    (∀ c cs m a b, (s.queue q).cmds = c :: cs → c.members = [m] → c.followOn = none → m.fut.tag = false → m.error = none →
      c.got = [] → c.readError = none → c.written = false → Cap.kind m.dst.val ≠ Cap.kTile →
      (∀ v ∈ s.units.windows, v.queue ≠ q ∨ v.cmd ≠ c.id) → s.copyBusy q = false → s.units.lost.contains s.pkg = false → NoPartials s →
      (c.charged = true ∨ ∀ r, s.colony (s.colonyOf m.sid) = some r → r.allocOf 4 = unlimited) →
      Reaches s (engineGroup q) c.src Cap.ld c.len a → Reaches s (engineGroup q) m.dst Cap.st c.len b →
      ∃ t, exec .copyCommand s = .next t ∧ (t.queue q).cmds = cs ∧ (∀ j < c.len, t.byteAt (b + j) = s.byteAt (a + j)) ∧
        (∀ j, j < b ∨ b + c.len ≤ j → t.byteAt j = s.byteAt j) ∧ .copyCommand q ∈ t.agenda ∧
        ∀ n i, (t.strand n).phys i = (s.strand n).phys i)) ∧
  (∀ (s : State) (f : FollowOn), s.now = .followOnIssue f → (∀ v ∈ s.units.vault, s.savedNow v = false) →
    let sid := f.target % 16384
    let core := coreOf sid
    let e : DispatchEntry :=
      { sid := sid, use := .dense, half := 0, mmt := f.mmt, acc := f.acc, lt := f.lt, rt := f.rt, row0 := f.row0, followOn := some f.queue }
    (f.target / 16384 = s.pkg → (s.strand sid).live → Happens .followOnIssue s (posting
      (s.withCore core { s.core core with queue := (s.core core).queue ++ [e] }) [.dispatchRound (quadOf sid)])) ∧
    (f.target / 16384 ≠ s.pkg ∨ (s.strand sid).live = false → f.queue / 2048 = s.pkg → (s.queue (f.queue % 2048)).err = false →
      Happens .followOnIssue s (withQueue s (f.queue % 2048) { s.queue (f.queue % 2048) with err := true, cause := 0x21, addr := 0 })) ∧
    (f.target / 16384 ≠ s.pkg ∨ (s.strand sid).live = false → f.queue / 2048 ≠ s.pkg →
      ∃ pk, Happens .followOnIssue s (posting s [.packetForward pk]) ∧ pk.dst = f.queue / 2048 ∧ pk.op = .followOn f)) ∧
  (∀ (s : State) (quad : Nat), s.now = .combineWindowClose quad →
    ∃ t, exec .combineWindowClose s = .next t ∧ t.units.windows = (s.units.windows.filter fun v => v.quad ≠ quad) ∧
      (∀ v ∈ s.units.windows, v.quad = quad → .copyCommand v.queue ∈ t.agenda) ∧ t.mem = s.mem ∧ ∀ n, t.strand n = s.strand n)

/-! ## Reductions in the fabric -/

/-- R421: a capability names a reduction group of the strand's own instance. -/
def NamesReduction (s : State) (c : Reg) (scope g : Nat) : Prop :=
  let a := Cap.cursor c.val
  checkFault s c Cap.br [Cap.kGroup] 1 = none ∧ scope = a / 2 ^ 45 % 8 ∧ g = a / 2 ^ 41 % 16 ∧ a / 2 ^ 40 % 2 = 1 ∧
    (scope = 4 ∨ scope = 5) ∧ a / 2 ^ 28 % 4096 = 0 ∧ a % 2 ^ 28 = groupInst (s.fullSid s.cur).toNat scope ∧
    (scope = 5 → s.jobOf s.cur ≠ 0)

/-- One level of R424, and the levels until one entry is left. -/
def combPairs (op ty : Nat) : List (List Byte) → List (List Byte)
  | p :: q :: l => combBytes op ty p q :: combPairs op ty l
  | l => l
def combAll (op ty : Nat) : Nat → List (List Byte) → List Byte
  | 0, l => l.headD []
  | fuel + 1, l => if l.length ≤ 1 then l.headD [] else combAll op ty fuel (combPairs op ty l)

/-- R421 to R424, R426, R427: `nred` puts its bytes into the phase of its group and sets the strand's term; when every member has
contributed the phase ends. Contributions are combined pairwise in ascending order. A phase that ends in error tells every
contributor; a result is written to the contributor's destination. `nredw` waits for the contribution's end and tells its
status. -/
def Reductions : Prop :=
  (∀ (o : OpRRR) (m : RedMod) (s : State) (ins : Instr) (op ty g a : Nat) (ea : Word), Issues s [o.a, o.b, o.c] →
    (ins = .nredSum o m ∧ op = 0 ∧ ty = m.ty.toNat) ∨ (ins = .nredMin o m ∧ op = 1 ∧ ty = m.ty.toNat) ∨
      (ins = .nredMax o m ∧ op = 2 ∧ ty = m.ty.toNat) ∨ (ins = .nredMerge2 o ∧ op = 3 ∧ ty = 4) →
    let n := o.imm.toNat + 1
    let z := if op = 3 then 8 + 4 * n else n * if ty = 0 ∨ ty = 2 ∨ ty = 4 then 4 else 8
    let c := w s o.a
    let src := w s o.b
    let dst := w s o.c
    let b := groupBit 4 g
    let key := redKey (s.colonyOf s.cur) 4 g
    let old := s.redGroup key
    let bytes := s.bytesAt a z
    let parts := old.parts ++ (List.range ((z + 447) / 448)).map fun i =>
      ({ sid := s.fullSid s.cur, op := op, ty := ty, n := n, seg := i * 448, ctr := 1
         bytes := (bytes.drop (i * 448)).take 448 } : Contribution)
    NamesReduction s c 4 g → Opens s src Cap.ld z a ea → Cap.cursor src.val % 65536 + z ≤ 65536 → Spans s dst Cap.st z →
    (lookupD 0 s.self.redOpen b ≠ 0 ∨ s.self.members.getLsbD b = false → Traps ins s cBar (Cap.cursor c.val)) ∧
    (lookupD 0 s.self.redOpen b = 0 → s.self.members.getLsbD b → (cacheable a ∨ Direct a) → s.firstBad a z = none → NoPartials s →
      (∀ p ∈ old.parts, p.op = op ∧ p.ty = ty ∧ p.n = n) →
      ∃ t, exec ins s = .next t ∧ t.self.pcc = s.self.pccAt s.self.npc ∧ t.self.instret = s.self.instret + 1 ∧ t.mem = s.mem ∧
        (∀ p, t.self.phys p = s.self.phys p) ∧ t.self.redTerms = setBit s.self.redTerms b ∧ lookupD 0 t.self.redOpen b = 1 ∧
        (t.redGroup key).parts = parts ∧ (t.redGroup key).dests = old.dests ++ [(s.cur, dst)] ∧ (t.redGroup key).phase = old.phase ∧
        ((∀ d ∈ others s 4 g, (s.strand d).redTerms.getLsbD b) →
          ({ old with parts := parts } : RedGroup).whole z (old.dests.length + 1) →
          .reductionResultDeliver 4 (s.colonyOf s.cur * 16 + g) 0 none ∈ t.agenda))) ∧
  (∀ (op ty : Nat) (l : List (List Byte)), l.length ≤ 2 ^ 32 → combTree op ty 32 1 (l.map fun bs => (1, bs)) = combAll op ty 32 l) ∧
  (∀ (o : OpRR) (s : State) (scope g : Nat), Issues s [o.a, o.b] → NamesReduction s (w s o.b) scope g →
    (lookupD 0 s.self.redOpen (groupBit scope g) ≠ 0 → Waits (.nredw o) s) ∧
    (lookupD 0 s.self.redOpen (groupBit scope g) = 0 →
      let u := s.acquireCore (coreOf s.cur)
      Leads (.nredw o) s (u.withSelf (u.self.putW o.a.toNat (Reg.ofWord (lookupD 0 s.self.redStatus (groupBit scope g))))))) ∧
  (∀ (s : State) (r : RedPacket), s.now = .reductionCombine r →
    let key := redKey (r.group / 16) r.scope (r.group % 16)
    ∃ t, exec .reductionCombine s = .next t ∧ t.mem = s.mem ∧ (∀ d, t.strand d = s.strand d) ∧
      (t.redGroup key).parts = (s.redGroup key).parts ++
        [{ sid := r.sid, op := r.op.toNat, ty := r.ty.toNat, n := r.n, seg := r.seg, ctr := r.ctr, bytes := r.bytes }]) ∧
  (∀ (s : State) (inst g : Nat) (cause : BitVec 8), g < 16 → s.now = .reductionResultDeliver 4 (inst * 16 + g) cause none →
    let key := redKey inst 4 g
    let b := groupBit 4 g
    let v := s.redGroup key
    let ended := fun (t : State) (sid : Nat) (status : Nat) =>
      lookupD 0 (t.strand sid).redOpen b = 0 ∧ lookupD 0 (t.strand sid).redStatus b = BitVec.ofNat 64 status ∧
      (t.strand sid).redTerms = clearBit (s.strand sid).redTerms b
    (cause ≠ 0 → ∃ t, exec .reductionResultDeliver s = .next t ∧ t.mem = s.mem ∧ t.redGroup key = RedGroup.fresh (v.phase + 1) ∧
      ∀ d ∈ v.dests, (s.strand d.1).live → lookupD 0 (s.strand d.1).redOpen b ≠ 0 → ended t d.1 (2 ^ 62 + cause.toNat)) ∧
    (∀ sid dst at_, cause = 0 → v.dests = [(sid, dst)] → v.parts ≠ [] →
      (∀ p ∈ v.parts, ∀ q ∈ v.parts, p.op = q.op ∧ p.ty = q.ty ∧ p.n = q.n) → (s.strand sid).live →
      lookupD 0 (s.strand sid).redOpen b ≠ 0 →
      (∀ r ∈ s.units.requests, r.sid ≠ sid ∨ r.use ≠ .reduce key) → NoPartials s →
      ∀ p ∈ v.parts,
        let size := contributionSize p.op p.ty p.n
        v.whole size 1 → Reaches s (dieOf sid) dst Cap.st size at_ →
        let bytes := (List.range ((size + 447) / 448)).flatMap fun i => v.segment p.op p.ty (i * 448)
        bytes.length = size →
        ∃ t, exec .reductionResultDeliver s = .next t ∧ (∀ j < size, t.byteAt (at_ + j) = bytes.getD j 0) ∧
          (∀ j, j < at_ ∨ at_ + size ≤ j → t.byteAt j = s.byteAt j) ∧ ended t sid (2 ^ 63 + 2 ^ 32)))

/-! ## Counters and dirty-page logs -/

/-- A range of memory of this package that is contiguous and lies in DRAM or die scratchpad; the current core holds no line. -/
def Stretch (s : State) (c : Reg) (perm : BitVec 12) (n a : Nat) : Prop :=
  checkFault s c perm [Cap.kMemory] n = none ∧ (s.core (coreOf s.cur)).lines = [] ∧ NoPartials s ∧
  ∀ j < n, cacheable (a + j) ∧ s.badAt (a + j) = 0 ∧
    ∃ p e, Maps s (Cap.tenant c.val) (Cap.cursor c.val + j) perm p e ∧ pkgOf p = s.pkg ∧ localOf p = a + j ∧ pteM e = false

/-- R386: a die or package counter is within the current strand's rights. -/
def MayCount (s : State) (n : Nat) : Prop :=
  s.self.mode ≠ .user ∧ (s.self.mode = .supervisor →
    (8 ≤ n → n < 40 → ∀ q, q / 128 = dieOf s.cur → covers (s.colonyOf s.cur) q = true) ∧ (40 ≤ n → s.colonyOf s.cur = 1))

/-- R384, R386: `ctrsel` gives a counter a source and a threshold, zeroes and disarms it, and tells the old pair; `ctrrd` reads it;
`ctrarm` arms or disarms it, and one armed at or above its threshold fires at once. -/
def CountersAreSet : Prop :=
  (∀ (o : OpRR) (s : State), Issues s [o.a, o.b] →
    let n := (x s o.a).toNat % 128
    let code := (x s o.b).toNat % 2 ^ 16
    let ill := 71 < n ∨ (x s o.b).toNat / 2 ^ 16 % 2 ^ 16 ≠ 0 ∨ sourceFits n code = false
    let old := s.counterAt n
    let new := { old with count := 0, source := BitVec.ofNat 16 code
                          threshold := BitVec.ofNat 64 ((x s o.b).toNat / 2 ^ 32), armed := false }
    let u := s.withCounter (s.counterOwner n) n new
    (ill → Traps (.ctrsel o) s cIll s.self.illValue) ∧
    (¬ill → s.self.mode = .user → Traps (.ctrsel o) s cPriv s.self.illValue) ∧
    (¬ill → s.self.mode = .supervisor → 40 ≤ n → s.colonyOf s.cur ≠ 1 → Traps (.ctrsel o) s cPerm n) ∧
    (¬ill → MayCount s n →
      Leads (.ctrsel o) s (u.withSelf (u.self.putW o.a.toNat (Reg.ofWord
        (BitVec.ofNat 64 (old.source.toNat + old.threshold.toNat % 2 ^ 32 * 2 ^ 32))))) ∧
      ∀ t, exec (.ctrsel o) s = .next t → code ≠ 1 → code ≠ 2 → t.counterAt n = new)) ∧
  (∀ (o : OpRR) (s : State), Issues s [o.a, o.b] →
    let n := (x s o.b).toNat % 128
    let c := s.counterAt n
    (71 < n → Traps (.ctrrd o) s cIll s.self.illValue) ∧
    (8 ≤ n → n ≤ 71 → s.self.mode = .user → Traps (.ctrrd o) s cPriv s.self.illValue) ∧
    (n ≤ 71 → n < 8 ∨ MayCount s n → ∃ k < 2 ^ 48, (c.source.toNat < 0x3000 → k = c.count % 2 ^ 48) ∧
      SetsX (.ctrrd o) s o.a (BitVec.ofNat 64 ((if c.armed then 2 ^ 63 else 0) + (if c.lost then 2 ^ 62 else 0) + k)))) ∧
  (∀ (o : OpRRR) (s : State) (ins : Instr), Issues s [o.a, o.b, o.c] →
    ins = .ctrarmArm o ∨ (ins = .ctrarmDisarm ∧ o = s.self.rowRRR) →
    let A := (x s o.a).toNat
    let n := A % 128
    let old := s.counterAt n
    let bad := 71 < n ∨ A / 2 ^ 7 % 2 = 1 ∨ A / 2 ^ 11 % 2 ^ 21 ≠ 0
    let fires := old.threshold ≠ 0 ∧ old.threshold.toNat ≤ old.count
    let armed := { old with armed := decide (¬fires), lost := false, handle := w s o.b, key := A / 2 ^ 32, cls := A / 2 ^ 8 % 4
                            arg := w s o.c, sid := s.cur }
    let after := fun (c : Counter) => s.withCounter (s.counterOwner n) n c
    (bad → Traps ins s cIll s.self.illValue) ∧
    (¬bad → s.self.mode = .user → Traps ins s cPriv s.self.illValue) ∧
    (¬bad → MayCount s n → (w s o.b).tag = false →
      ((w s o.c).tag → Cap.has (w s o.c).val Cap.gl = false → Traps ins s cPerm (Cap.cursor (w s o.c).val)) ∧
      ((w s o.c).tag = false ∨ Cap.has (w s o.c).val Cap.gl →
        (A / 2 ^ 10 % 2 = 1 → Leads ins s (after { old with armed := false })) ∧
        (A / 2 ^ 10 % 2 = 0 → fires → Leads ins s (posting (after armed) [.counterFire (s.counterOwner n) n])) ∧
        (A / 2 ^ 10 % 2 = 0 → ¬fires → Leads ins s (after armed) ∧ ∀ t, exec ins s = .next t →
          (t.counterAt n).handle = w s o.b ∧ (t.counterAt n).key = A / 2 ^ 32 ∧ (t.counterAt n).arg = w s o.c ∧
          (t.counterAt n).sid = s.cur ∧ (t.counterAt n).lost = false)))) ∧
  (∀ (c : Counter) (n : Nat),
    ((c.add n).2 = true ↔ c.armed ∧ c.threshold ≠ 0 ∧ c.count < c.threshold.toNat ∧ c.threshold.toNat ≤ c.count + n) ∧
    ((c.add n).2 = true → (c.add n).1.armed = false) ∧ (c.add n).1.count = (c.count + n) % 2 ^ 48)

/-- R385: a counter that fires with no handle armed interrupts the strand that armed it, or is marked lost when that strand no
longer runs; with a handle of a fitting instance it pushes an item. -/
def CountersFire : Prop :=
  ∀ (s : State) (owner n : Nat), n ≤ 71 → s.now = .counterFire owner n →
    let c := if n < 8 then lookupD Counter.zero (s.core owner).counters n
      else if n < 40 then lookupD Counter.zero (s.die owner).counters (n - 8)
      else lookupD Counter.zero s.units.counters (n - 40)
    (c.handle.tag = false → (s.strand c.sid).live → Happens .counterFire s
      (s.withStrand c.sid ((s.strand c.sid).interrupt cGuard (BitVec.ofNat 64 n)))) ∧
    (c.handle.tag = false → (s.strand c.sid).live = false → Happens .counterFire s (s.withCounter owner n { c with lost := true }))

/-- R388: `dlog` needs hypervisor mode; it starts a log at a place whose header gives a fitting ring, stops one, clears its bitmap,
and tells the status of the colony's log. -/
def LogsAreControlled : Prop :=
  ∀ (o : OpRR) (s : State) (ins : Instr), Issues s [o.a, o.b] →
    ins = .dlogStatus o ∨ ((ins = .dlogStart ∨ ins = .dlogStop ∨ ins = .dlogLeaveBitmap) ∧ o = s.self.rowRR) →
    let A := (x s o.a).toNat
    let op := A % 4
    let id := A / 2 ^ 16 % 2 ^ 11
    let bad := A / 2 ^ 27 ≠ 0 ∨ A / 4 % 2 ^ 14 ≠ 0
    let put := fun (u : State) (v : Nat) => u.withSelf (u.self.putW o.a.toNat (Reg.ofWord (BitVec.ofNat 64 v)))
    let status := fun (l : DirtyLog) => 2 ^ 63 + (if l.overflowed then 2 ^ 62 else 0) + l.wp % 2 ^ 32
    (bad → Traps ins s cIll s.self.illValue) ∧
    (¬bad → s.self.mode ≠ .hypervisor → Traps ins s cPriv s.self.illValue) ∧
    (¬bad → s.self.mode = .hypervisor → s.colony id = none → Leads ins s (put s (2 ^ 63 + 1))) ∧
    (∀ c, ¬bad → s.self.mode = .hypervisor → s.colony id = some c →
      (op = 0 → Leads ins s (put s (match c.log with
        | some l => status l
        | none => 0))) ∧
      (op = 2 → Leads ins s (put (s.withColony id (some { c with log := none })) 0)) ∧
      (op = 3 → c.log = none → Leads ins s (put s 0)) ∧
      (∀ l a, op = 3 → c.log = some l → Stretch s ⟨Cap.offset l.cap.val 64, true⟩ Cap.st 524288 (a + 64) →
        Stretch s ⟨Cap.offset l.cap.val 20, true⟩ Cap.st 4 (a + 20) →
        ∃ t, exec ins s = .next t ∧ t.self.pcc = s.self.pccAt s.self.npc ∧
          t.colony id = some { c with log := some { l with overflowed := false, raised := false } } ∧
          w t o.a = Reg.ofWord (BitVec.ofNat 64 (2 ^ 63 + l.wp % 2 ^ 32)) ∧
          ∀ j, t.byteAt j =
            if (a + 64 ≤ j ∧ j < a + 64 + 524288) ∨ (a + 20 ≤ j ∧ j < a + 24) then 0 else s.byteAt j) ∧
      (∀ a, op = 1 → Stretch s (w s o.b) (Cap.ld ||| Cap.st) 24 a → Cap.cursor (w s o.b).val % 65536 = 0 →
        let n := leNat (s.bytesAt (a + 16) 4)
        let size := 64 + 524288 + 8 * n
        (n = 0 ∨ 2 ^ 20 < n ∨ 2 ^ Nat.log2 n ≠ n → Leads ins s (put s (2 ^ 63 + 5))) ∧
        (n ≠ 0 → n ≤ 2 ^ 20 → 2 ^ Nat.log2 n = n → Stretch s (w s o.b) (Cap.ld ||| Cap.st) size a →
          let beyond := s.byteAt (a + 20) % 2 = 1
          let l : DirtyLog := { cap := w s o.b, wp := leNat (s.bytesAt a 8), overflowed := decide beyond, raised := decide beyond }
          Leads ins s (put (s.withColony id (some { c with log := some l })) (status l)))))

/-! ## Colonies -/

/-- A state with a number in a `w` register of the current strand. -/
def result (u : State) (n : RegNo) (v : Nat) : State := u.withSelf (u.self.putW n.toNat (Reg.ofWord (BitVec.ofNat 64 v)))

/-- R366: the status that tells a reason. -/
def reason (n : Nat) : Nat := 2 ^ 63 + n

/-- A block of one page in a scratchpad or lane slice that the current strand's own access reaches. -/
def Block (s : State) (c : Reg) (perm : BitVec 12) (n a : Nat) : Prop :=
  (∃ e, Opens s c perm n a e) ∧ Cap.cursor c.val % 65536 + n ≤ 65536 ∧ NoPartials s ∧ ∀ j < n, DirectOwn s (a + j) ∧ s.badAt (a + j) = 0

/-- The same of a save image, which spans pages. -/
def ImageBlock (s : State) (c : Reg) (perm : BitVec 12) (a : Nat) : Prop :=
  checkFault s c perm [Cap.kMemory] 0x20800 = none ∧ Cap.cursor c.val % 64 = 0 ∧ NoPartials s ∧
  ∀ g < 0x2080, DirectOwn s (a + 16 * g) ∧ s.badAt (a + 16 * g) = 0 ∧ ∃ e, pteM e = false ∧
    Maps s (Cap.tenant c.val) (Cap.cursor c.val + 16 * g) perm (s.globalOf (a + 16 * g)) e

/-- A granule of memory with its tag. -/
def granuleAt (s : State) (a : Nat) : Reg := ⟨BitVec.ofNat 128 (leNat (s.bytesAt a 16)), s.tagAt a⟩

/-- No ring is bound to a colony. -/
def RingFree (s : State) (id : Nat) : Prop := ∀ e ∈ s.units.rings, ∀ r, e.2 = some r → r.colony ≠ id

/-- R363: nothing of the colony runs, is saved, is held or waits. -/
def IdleColony (s : State) (id : Nat) (c : Colony) : Prop :=
  c.state = .idle ∧ s.colonyStrands id = [] ∧ s.heldSlots id = 0 ∧ s.heldCopies id = 0 ∧
  (∀ l ∈ s.units.launches, l.colony ≠ id) ∧ RingFree s id

/-- R362: one node of the tree is an ancestor of the other or equal to it. -/
def Related (a b : Nat) : Prop := 0 < a ∧ 0 < b ∧ ∃ k, a / 2 ^ k = b ∨ b / 2 ^ k = a

/-- R365: a record fits the other colonies, those of `without` apart. -/
def Fits (s : State) (id : Nat) (tenant : BitVec 12) (chan : BitVec 64) (without : List Nat) : Prop :=
  ∀ e ∈ s.units.colonies, ∀ c, e.2 = some c → e.1 ≠ id → e.1 ∉ without →
    (c.tenant = tenant ∨ c.chan &&& chan = 0) ∧ (Related e.1 id → s.named e.1 = true ∧ s.named id = true)

/-- The row of the opcode table that an operation of `colop` is. -/
def Colop (ins : Instr) (o : OpRR) (s : State) (op : Nat) : Prop :=
  (ins = .colopConfigure o ∧ op = 1) ∨ (o = s.self.rowRR ∧
    ((ins = .colopRead ∧ op = 2) ∨ (ins = .colopSplit ∧ op = 3) ∨ (ins = .colopMerge ∧ op = 4) ∨ (ins = .colopRemove ∧ op = 5) ∨
     (ins = .colopHold ∧ op = 6) ∨ (ins = .colopRelease ∧ op = 7) ∨ (ins = .colopAdopt ∧ op = 8) ∨ (ins = .colopDebug ∧ op = 9) ∨
     (ins = .colopHalt ∧ op = 10) ∨ (ins = .colopResume ∧ op = 11) ∨ (ins = .colopPeek ∧ op = 12) ∨
     (ins = .colopPoke ∧ op = 13) ∨ (ins = .colopColour ∧ op = 14) ∨ (ins = .colopRoot ∧ op = 15) ∨
     (ins = .colopControl ∧ op = 16) ∨ (ins = .colopJob ∧ op = 17) ∨ (ins = .colopMulticast ∧ op = 18)))

/-- Fields of the operation word (R366). -/
def opOf (s : State) (o : OpRR) : Nat := (x s o.a).toNat % 256
def colOf (s : State) (o : OpRR) : Nat :=
  let n := (x s o.a).toNat / 2 ^ 16 % 2 ^ 11
  if n = 0 then s.colonyOf s.cur else n
def argOf (s : State) (o : OpRR) : Nat := (x s o.a).toNat / 2 ^ 32

/-- A hypervisor's `colop` of one operation. -/
def Hyper (ins : Instr) (o : OpRR) (s : State) (op : Nat) : Prop :=
  Issues s [o.a, o.b] ∧ Colop ins o s op ∧ opOf s o = op ∧ (x s o.a).toNat / 2 ^ 27 % 32 = 0 ∧ (x s o.a).toNat / 2 ^ 8 % 256 = 0 ∧
  s.self.mode = .hypervisor

/-- R366: the checks of `colop` in their order. -/
def ColopChecks : Prop :=
  ∀ (o : OpRR) (s : State) (ins : Instr) (row : Nat), Issues s [o.a, o.b] → Colop ins o s row →
    let A := (x s o.a).toNat
    let op := opOf s o
    let low := op = 2 ∨ op = 3 ∨ op = 4 ∨ op = 0x12
    let listed := 1 ≤ op ∧ op ≤ 0x12
    let mine := fun (i : Nat) => ∃ c, s.colony i = some c ∧ c.tenant = s.self.tid
    let bad := A / 2 ^ 27 % 32 ≠ 0 ∨ A / 2 ^ 8 % 256 ≠ 0
    (bad → Traps ins s cIll s.self.illValue) ∧
    (¬bad → s.self.mode = .user → Traps ins s cPriv s.self.illValue) ∧
    (¬bad → s.self.mode = .supervisor → listed → ¬low → Traps ins s cPriv s.self.illValue) ∧
    (¬bad → s.self.mode ≠ .user → ¬listed → Leads ins s (result s o.a (reason 7))) ∧
    (¬bad → s.self.mode = .supervisor → (op = 2 ∨ op = 3) → ¬mine (colOf s o) → Traps ins s cPerm (A % 2 ^ 32)) ∧
    (¬bad → s.self.mode = .supervisor → op = 4 → ¬(mine (2 * colOf s o) ∧ mine (2 * colOf s o + 1)) →
      Traps ins s cPerm (A % 2 ^ 32)) ∧
    (¬bad → s.self.mode = .hypervisor → listed → op ≠ 1 → op ≠ 4 → op < 0xE ∨ op = 0x11 → s.colony (colOf s o) = none →
      Leads ins s (result s o.a (reason 1)))

/-- R364: a record's fields stand at their offsets. -/
def RecordLayout : Prop :=
  ∀ (s : State) (id : Nat) (c : Colony),
    let r := s.recordOf id c
    r.length = 128 ∧
    (∀ f ∈ [(0, 2, id), (2, 2, c.tenant.toNat), (4, 1, c.vf), (6, 2, c.job), (8, 8, c.chan.toNat), (16, 2, c.rings),
        (18, 2, c.cslots), (20, 2, c.wlq), (24, 16, c.spill.val.toNat), (40, 16, c.save.val.toNat), (56, 8, 0)],
      leNat ((r.drop f.1).take f.2.1) = f.2.2 % 2 ^ (8 * f.2.1)) ∧
    leNat ((r.drop 5).take 1) = (if c.hostMember then 1 else 0) + (if s.named id then 2 else 0) ∧
    leNat ((r.drop 22).take 2) = (match c.state with
      | .idle => 0
      | .loaded => 1
      | .yielding => 2
      | .saved => 3
      | .held => 4) ∧
    ∀ k < 8, leNat ((r.drop (64 + 8 * k)).take 4) = c.allocOf k % 2 ^ 32

/-- R363, R365, R366: records are configured, read, split, merged and removed; a colony must be idle, and records fit each other. -/
def ColonyRecords : Prop :=
  (∀ (o : OpRR) (s : State) (ins : Instr) (a : Nat), Hyper ins o s 1 → Block s (w s o.b) Cap.ld 128 a →
    let id := colOf s o
    let f := fun (off n : Nat) => leNat (s.bytesAt (a + off) n)
    let formed := f 0 2 = id ∧ 1 ≤ id ∧ id < 2048 ∧ f 2 2 < 4096 ∧ f 4 1 ≤ 63 ∧ f 5 1 < 4 ∧ f 24 16 = 0 ∧ f 40 16 = 0
    let fits := Fits s id (BitVec.ofNat 12 (f 2 2)) (BitVec.ofNat 64 (f 8 8)) []
    (f 0 2 ≠ id ∨ 4096 ≤ f 2 2 ∨ 63 < f 4 1 → Leads ins s (result s o.a (reason 5))) ∧
    (formed → s.colony id = none → ¬fits → Leads ins s (result s o.a (reason 3))) ∧
    (formed → s.colony id = none → fits → 256 < f 16 2 ∨ 32768 < f 18 2 ∨ 2048 < f 20 2 →
      Leads ins s (result s o.a (reason 4))) ∧
    (formed → s.colony id = none → (∀ e ∈ s.units.colonies, e.2 = none) → f 16 2 ≤ 256 → f 18 2 ≤ 32768 → f 20 2 ≤ 2048 →
      ∃ c : Colony, Leads ins s (result (s.withColony id (some c)) o.a 0) ∧ c.state = .idle ∧ c.tenant.toNat = f 2 2 ∧ c.vf = f 4 1 ∧
        c.hostMember = decide (f 5 1 % 2 = 1) ∧ c.job = f 6 2 ∧ c.chan.toNat = f 8 8 ∧ c.rings = f 16 2 ∧ c.cslots = f 18 2 ∧
        c.wlq = f 20 2 ∧ c.spill = Reg.zero ∧ c.save = Reg.zero ∧ ∀ r < 8, c.allocOf r = f (64 + 8 * r) 4)) ∧
  (∀ (o : OpRR) (s : State) (ins : Instr) (c : Colony) (a : Nat), Hyper ins o s 2 → s.colony (colOf s o) = some c →
    Block s (w s o.b) Cap.st 128 a →
    Leads ins s (result (s.homePut a (s.recordOf (colOf s o) c)) o.a 0)) ∧
  (∀ (o : OpRR) (s : State) (ins : Instr) (c : Colony), Hyper ins o s 3 → s.colony (colOf s o) = some c →
    let id := colOf s o
    (c.state ≠ .idle ∨ 1024 ≤ id → RingFree s id → Leads ins s (result s o.a (reason 2))) ∧
    (IdleColony s id c → id < 1024 → 1 ≤ id → s.colony (2 * id) = none → s.colony (2 * id + 1) = none →
      Fits s (2 * id) c.tenant c.chan [id] → Fits s (2 * id + 1) c.tenant 0 [id] →
      ∃ l r : Colony, Leads ins s (result (((s.withColony id none).withColony (2 * id) (some l)).withColony (2 * id + 1) (some r)) o.a 0) ∧
        (∀ k ∈ [l, r], k.tenant = c.tenant ∧ k.job = c.job ∧ k.hostMember = c.hostMember ∧ k.spill = c.spill ∧ k.save = c.save ∧
          k.state = .idle) ∧
        l.vf = c.vf ∧ r.vf = 0 ∧ l.chan = c.chan ∧ r.chan = 0 ∧ l.rings = (c.rings + 1) / 2 ∧ r.rings = c.rings / 2 ∧
        l.cslots = (c.cslots + 1) / 2 ∧ r.cslots = c.cslots / 2 ∧ l.wlq = (c.wlq + 1) / 2 ∧ r.wlq = c.wlq / 2 ∧
        ∀ k < 8, (c.allocOf k = unlimited → l.allocOf k = unlimited ∧ r.allocOf k = unlimited) ∧
          (c.allocOf k < unlimited → l.allocOf k = (c.allocOf k + 1) / 2 ∧ r.allocOf k = c.allocOf k / 2))) ∧
  (∀ (o : OpRR) (s : State) (ins : Instr) (l r : Colony), Hyper ins o s 4 →
    let id := colOf s o
    s.colony (2 * id) = some l → s.colony (2 * id + 1) = some r →
    (l.state ≠ .idle ∨ r.state ≠ .idle → RingFree s (2 * id) → RingFree s (2 * id + 1) → Leads ins s (result s o.a (reason 2))) ∧
    (IdleColony s (2 * id) l → IdleColony s (2 * id + 1) r → l.tenant ≠ r.tenant → Leads ins s (result s o.a (reason 6))) ∧
    (IdleColony s (2 * id) l → IdleColony s (2 * id + 1) r → l.tenant = r.tenant → s.colony id = none →
      Fits s id l.tenant (l.chan ||| r.chan) [2 * id, 2 * id + 1] →
      ∃ c : Colony, Leads ins s (result (((s.withColony (2 * id) none).withColony (2 * id + 1) none).withColony id (some c)) o.a 0) ∧
        c.tenant = l.tenant ∧ c.chan = l.chan ||| r.chan ∧ c.rings = l.rings + r.rings ∧ c.cslots = l.cslots + r.cslots ∧
        c.wlq = l.wlq + r.wlq ∧ c.spill = l.spill ∧ c.save = l.save ∧ c.state = .idle ∧
        ∀ k < 8, c.allocOf k = if l.allocOf k = unlimited ∨ r.allocOf k = unlimited then unlimited
          else min (l.allocOf k + r.allocOf k) 0xFFFFFFFE)) ∧
  (∀ (o : OpRR) (s : State) (ins : Instr) (c : Colony), Hyper ins o s 5 → s.colony (colOf s o) = some c →
    (c.state ≠ .idle → RingFree s (colOf s o) → Leads ins s (result s o.a (reason 2))) ∧
    (IdleColony s (colOf s o) c → Leads ins s (result (s.withColony (colOf s o) none) o.a 0)))

/-- R366, R376, R377: a loaded colony with a save area begins to yield and will end held; a held one is released; an idle one whose
save area has the fitting header is adopted and is saved. -/
def ColonyStates : Prop :=
  (∀ (o : OpRR) (s : State) (ins : Instr) (c : Colony), Hyper ins o s 6 → s.colony (colOf s o) = some c →
    let id := colOf s o
    let y : Yield := { deadline := s.time + argOf s o * 1000, slot := 64, hold := true, stopped := [], forced := false }
    let u := s.withColony id (some { c with state := .yielding, yield := some y })
    (c.state ≠ .loaded → Leads ins s (result s o.a (reason 2))) ∧
    (c.state = .loaded → c.save.tag = false → Leads ins s (result s o.a (reason 5))) ∧
    (c.state = .loaded → c.save.tag → (u.colonyStrands id = [] → Leads ins s (result (posting u [.colonySaveDone id]) o.a 0)) ∧
      ((∃ n ∈ u.colonyStrands id, u.decodeStopped n = false) → Leads ins s (result u o.a 0)))) ∧
  (∀ (o : OpRR) (s : State) (ins : Instr) (c : Colony), Hyper ins o s 7 → s.colony (colOf s o) = some c →
    (c.state ≠ .held → Leads ins s (result s o.a (reason 2))) ∧
    (c.state = .held → Leads ins s (result
      (s.withColony (colOf s o) (some { c with state := if c.hasImage then .saved else .idle })) o.a 0))) ∧
  (∀ (o : OpRR) (s : State) (ins : Instr) (c : Colony) (a : Nat), Hyper ins o s 8 → s.colony (colOf s o) = some c →
    let id := colOf s o
    let f := fun (off n : Nat) => leNat (s.bytesAt (a + off) n)
    let quads := 1024 / 2 ^ Nat.log2 id
    (c.state ≠ .idle → RingFree s id → Leads ins s (result s o.a (reason 2))) ∧
    (IdleColony s id c → NoPartials s → Reaches s 8 c.save Cap.ld 0x1008 a → Cap.cursor c.save.val + 0x1008 ≤ 2 ^ 48 →
      checkFault s ⟨Cap.offset c.save.val 0, c.save.tag⟩ Cap.ld [Cap.kMemory] 32 = none →
      checkFault s ⟨Cap.offset c.save.val 0x1000, c.save.tag⟩ Cap.ld [Cap.kMemory] 8 = none →
      (f 2 2 ≠ id → Leads ins s (result s o.a (reason 5))) ∧
      (f 0 2 = 1 → f 2 2 = id → f 4 2 = quads → f 6 2 = max 1 (quads / 128) → f 24 8 = Config.firmwareVersion.toNat →
        Leads ins s (result (s.withColony id (some { c with state := .saved, hasImage := true, image := f 0x1000 8 })) o.a 0))))

/-- R144, R366: a debugger attaches to one strand of a colony, halts and resumes its roles, and reads and replaces its state. -/
def ColonyDebugging : Prop :=
  (∀ (o : OpRR) (s : State) (ins : Instr) (c : Colony), Hyper ins o s 9 → s.colony (colOf s o) = some c →
    let n := argOf s o / 16
    let sid := n % 16384
    let member := n / 16384 = s.pkg ∧ sid ∈ s.colonyStrands (colOf s o)
    let t := s.strand sid
    (¬member → Leads ins s (result s o.a (reason 2))) ∧
    (member → argOf s o % 2 = 1 → (∀ m ∈ s.colonyStrands (colOf s o), (s.strand m).debugger.attached = false) →
      Leads ins s (result (s.withStrand sid { t with debugger := { t.debugger with attached := true } }) o.a 0)) ∧
    (member → argOf s o % 2 = 1 → ∀ m ∈ s.colonyStrands (colOf s o), m ≠ sid → (s.strand m).debugger.attached →
      t.debugger.attached = false → Leads ins s (result s o.a (reason 2))) ∧
    (member → argOf s o % 2 = 0 → t.debugger.attached = false → Leads ins s (result s o.a (reason 2))) ∧
    (member → argOf s o % 2 = 0 → t.debugger.attached → t.debugger.held = [] → t.apart = none →
      Leads ins s (result (s.withStrand sid { t with
        status := t.status &&& ~~~0x3000, debugger := { attached := false, stuck := false, held := [] } }) o.a 0))) ∧
  (∀ (o : OpRR) (s : State) (ins : Instr) (c : Colony) (sid op : Nat), Hyper ins o s op → s.colony (colOf s o) = some c →
    (10 ≤ op ∧ op ≤ 13 → (∀ m ∈ s.colonyStrands (colOf s o), (s.strand m).debugger.attached = false) →
      Leads ins s (result s o.a (reason 2))) ∧
    (s.debugged (colOf s o) = some sid →
      let t := s.strand sid
      let halted := t.status.toNat / 2 ^ 12 % 4
      (op = 10 → Leads ins s (result ((withdrawnOf s sid).withStrand sid { t with
        status := t.status ||| BitVec.ofNat 64 (argOf s o % 4 * 2 ^ 12) }) o.a 0)) ∧
      (op = 11 → t.debugger.held = [] → t.apart = none → Leads ins s (result (s.withStrand sid { t with
        status := t.status &&& ~~~0x3000, debugger := { t.debugger with stuck := false } }) o.a 0)) ∧
      (op = 12 → halted = 0 → Leads ins s (result s o.a (reason 2))) ∧
      (∀ a, op = 12 → halted ≠ 0 → t.apart = none → ImageBlock s (w s o.b) Cap.st a → sid ≠ s.cur →
        ∃ u, exec ins s = .next u ∧ u.self.pcc = s.self.pccAt s.self.npc ∧ w u o.a = Reg.zero ∧ (∀ i, (u.strand sid).phys i = t.phys i) ∧
          granuleAt u (a + 0x40) = t.pcc ∧ u.bytesAt a 4 = [1, 0, 4, 0] ∧
          ∀ i < 256, granuleAt u (a + 0x1400 + 16 * i) = t.phys i) ∧
      (op = 13 → halted ≠ 3 → Leads ins s (result s o.a (reason 2))) ∧
      (∀ a, op = 13 → halted = 3 → ImageBlock s (w s o.b) Cap.ld a → sid ≠ s.cur →
        let image := (List.range 0x2080).map fun g => granuleAt s (a + 16 * g)
        (headerOk image = false → Leads ins s (result s o.a (reason 5))) ∧
        (headerOk image → ∃ u, exec ins s = .next u ∧ u.self.pcc = s.self.pccAt s.self.npc ∧ w u o.a = Reg.zero ∧
          (u.strand sid).pcc = granuleAt s (a + 0x40) ∧ (u.strand sid).status.toNat / 2 ^ 12 % 4 = 3 ∧
          ∀ i < 256, (u.strand sid).phys i = granuleAt s (a + 0x1400 + 16 * i)))))

/-- R279, R292, R366, R410: `colop` writes the colour table, a tenant's root, the control strand, a colony's job, and the multicast
table, of which it gives a capability. -/
def ColonyTables : Prop :=
  (∀ (o : OpRR) (s : State) (ins : Instr), Hyper ins o s 14 →
    let v := argOf s o
    Leads ins s (result { s with units := { s.units with
      colours := storeAt 0 (v % 64) (v / 64 % 2 * 4096 + v / 2 ^ 16 % 4096) s.units.colours } } o.a 0)) ∧
  (∀ (o : OpRR) (s : State) (ins : Instr) (a : Nat), Hyper ins o s 15 → Block s (w s o.b) Cap.ld 8 a →
    ∃ e : Word, e.toNat = leNat (s.bytesAt a 8) % 2 ^ 55 / 65536 * 65536 + 1 ∧
      Leads ins s (result { s with roots := storeAt 0 (argOf s o % 4096) e s.roots } o.a 0)) ∧
  (∀ (o : OpRR) (s : State) (ins : Instr), Hyper ins o s 16 →
    Leads ins s (result { s with units := { s.units with control := some s.cur } } o.a 0)) ∧
  (∀ (o : OpRR) (s : State) (ins : Instr) (c : Colony), Hyper ins o s 17 → s.colony (colOf s o) = some c →
    (c.state ≠ .idle → RingFree s (colOf s o) → Leads ins s (result s o.a (reason 2))) ∧
    (IdleColony s (colOf s o) c → c.job = 0 →
      Leads ins s (result (s.withColony (colOf s o) (some { c with job := argOf s o % 65536 })) o.a 0)) ∧
    (IdleColony s (colOf s o) c → ∃ u, exec ins s = .next u ∧ u.self.pcc = s.self.pccAt s.self.npc ∧ w u o.a = Reg.zero ∧
      u.colony (colOf s o) = some { c with job := argOf s o % 65536 })) ∧
  (∀ (o : OpRR) (s : State) (ins : Instr) (a : Nat), Issues s [o.a, o.b] → Colop ins o s 18 → opOf s o = 18 →
    (x s o.a).toNat / 2 ^ 27 % 32 = 0 → (x s o.a).toNat / 2 ^ 8 % 256 = 0 → s.self.mode ≠ .user →
    let idx := argOf s o % 1024
    let tenant := BitVec.ofNat 12 (argOf s o / 2 ^ 16)
    let f := fun (off n : Nat) => leNat (s.bytesAt (a + off) n)
    let W := f 0 8
    let n := f 8 1
    let formed := W % 64 = 0 ∧ 64 ≤ W ∧ W ≤ 0x400000 ∧ n ≤ 16 ∧
      ∀ i < n, f (16 + 8 * i) 8 % 64 = 0 ∧ f (16 + 8 * i) 8 < 2 ^ 48
    (s.self.mode = .supervisor → tenant ≠ s.self.tid → Traps ins s cPerm ((x s o.a).toNat % 2 ^ 32)) ∧
    (s.self.mode = .hypervisor ∨ tenant = s.self.tid → Block s (w s o.b) (Cap.ld ||| Cap.st ||| Cap.sc) 160 a →
      Cap.cursor (w s o.b).val % 16 = 0 →
      (¬formed → Leads ins s (result s o.a (reason 5))) ∧
      (∀ g, formed → lookupD none s.units.multicast idx = some g → g.tenant ≠ tenant → Leads ins s (result s o.a (reason 6))) ∧
      (formed → (∀ g, lookupD none s.units.multicast idx = some g → g.tenant = tenant) →
        ∃ u, exec ins s = .next u ∧ u.self.pcc = s.self.pccAt s.self.npc ∧ w u o.a = Reg.zero ∧
          lookupD none u.units.multicast idx = (if n = 0 then none else
            some { tenant := tenant, window := W, members := (List.range n).map fun i => f (16 + 8 * i) 8 }) ∧
          let c := granuleAt u (a + 144)
          c.tag = true ∧ Cap.kind c.val = Cap.kMulticast ∧ Cap.tenant c.val = tenant ∧ Cap.perms c.val = (Cap.st ||| Cap.gl) ∧
            Cap.cursor c.val = idx * 2 ^ 38 ∧ Cap.base c.val = idx * 2 ^ 38 ∧ Cap.top c.val = idx * 2 ^ 38 + W)))

/-- R296, R354, R368, R373, R374, R381: `ringcfg` binds and unbinds rings, `bdgt` reads budget entries and sets allocations for the next
period, `tslot` writes the shadow of the slot table, and `tinv` drops translations. -/
def ColonyGovernance : Prop :=
  (∀ (o : OpRRR) (s : State) (ins : Instr), Issues s [o.a, o.b, o.c] →
    ins = .ringcfgBind o ∨ (ins = .ringcfgUnbind ∧ o = s.self.rowRRR) →
    let A := (x s o.a).toNat
    let ring := A % 256
    let unbind := A / 2 ^ 8 % 2 = 1
    let id := A / 2 ^ 32 % 2 ^ 11
    let weight := A / 2 ^ 16 % 256
    let bad := A / 2 ^ 43 ≠ 0 ∨ A / 2 ^ 24 % 256 ≠ 0 ∨ A / 2 ^ 9 % 128 ≠ 0 ∨ (weight = 0 ∧ ¬unbind)
    let b := w s o.b
    let c := w s o.c
    let bind := fun (r : Option Ring) => result { s with units := { s.units with rings := storeAt none ring r s.units.rings } } o.a 0
    (bad → Traps ins s cIll s.self.illValue) ∧
    (¬bad → s.self.mode = .user → Traps ins s cPriv s.self.illValue) ∧
    (¬bad → s.self.mode = .supervisor → (∀ v, s.colony id = some v → v.tenant ≠ s.self.tid) → Traps ins s cPerm id) ∧
    (∀ a, ¬bad → s.self.mode = .hypervisor → Stretch s b (Cap.ld ||| Cap.st) 64 a → Cap.cursor b.val % 64 = 0 →
      checkFault s c Cap.mt [Cap.kMemory] 0 = none →
      let n := leNat (s.bytesAt (a + 16) 4)
      (s.colony id = none → Leads ins s (result s o.a (reason 1))) ∧
      (∀ v, s.colony id = some v →
        (Cap.tenant b.val ≠ v.tenant ∨ Cap.tenant c.val ≠ v.tenant → Leads ins s (result s o.a (reason 6))) ∧
        (Cap.tenant b.val = v.tenant → Cap.tenant c.val = v.tenant →
          (∀ r, lookupD none s.units.rings ring = some r → r.colony ≠ id → Leads ins s (result s o.a (reason 2))) ∧
          ((∀ r, lookupD none s.units.rings ring = some r → r.colony = id) →
            (unbind → Leads ins s (bind none)) ∧
            (¬unbind → n = 0 ∨ 65536 < n ∨ 2 ^ Nat.log2 n ≠ n → Leads ins s (result s o.a (reason 5))) ∧
            (¬unbind → n ≠ 0 → n ≤ 65536 → 2 ^ Nat.log2 n = n → Stretch s b (Cap.ld ||| Cap.st) (64 + 65 * n) a →
              (v.rings = 0 → Leads ins s (result s o.a (reason 4))) ∧
              (0 < v.rings → (∀ e ∈ s.units.rings, ∀ r, e.2 = some r → r.colony = id → e.1 = ring) →
                let rp := leNat (s.bytesAt (a + 8) 8)
                Leads ins s (bind (some { colony := id, weight := weight, cap := b, authority := c, rp := rp, drain := rp }))))))))) ∧
  (∀ (o : OpRR) (s : State) (ins : Instr), Issues s [o.a, o.b] → ins = .bdgtRead o ∨ (ins = .bdgtWrite ∧ o = s.self.rowRR) →
    let A := (x s o.a).toNat
    let res := A % 8
    let col := A / 2 ^ 16 % 2 ^ 11
    let id := if col = 0 then s.colonyOf s.cur else col
    let bad := A / 2 ^ 27 ≠ 0 ∨ A / 2 ^ 9 % 128 ≠ 0 ∨ A / 2 ^ 3 % 32 ≠ 0
    let wr := A / 2 ^ 8 % 2 = 1
    (bad → Traps ins s cIll s.self.illValue) ∧
    (¬bad → wr → s.self.mode ≠ .hypervisor → Traps ins s cPriv s.self.illValue) ∧
    (¬bad → (wr → s.self.mode = .hypervisor) → s.colony id = none → Traps ins s cPerm col) ∧
    (∀ c, ¬bad → ¬wr → s.colony id = some c →
      (s.self.mode = .user ∧ id ≠ s.colonyOf s.cur) ∨ (s.self.mode = .supervisor ∧ c.tenant ≠ s.self.tid) → Traps ins s cPerm col) ∧
    (∀ c, ¬bad → s.colony id = some c → (wr → s.self.mode = .hypervisor) →
      (s.self.mode = .user → id = s.colonyOf s.cur) → (s.self.mode = .supervisor → c.tenant = s.self.tid) →
      ∃ v : Word, v.toNat % 2 ^ 32 = c.allocOf res % 2 ^ 32 ∧
        (c.allocOf res ≠ unlimited → (v.toNat / 2 ^ 32 : Int) = lookupD 0 c.rem res % 2 ^ 32) ∧
        let u := if wr then s.withColony id (some { c with nextAlloc := storeAt 0 res ((x s o.b).toNat % 2 ^ 32 + 1) c.nextAlloc }) else s
        Leads ins s (u.withSelf (u.self.putW o.a.toNat (Reg.ofWord v))))) ∧
  (∀ (o : OpRR) (s : State) (ins : Instr), Issues s [o.a, o.b] → ins = .tslotEntry o ∨ (ins = .tslotControl ∧ o = s.self.rowRR) →
    let A := (x s o.a).toNat
    let B := (x s o.b).toNat
    let control := A / 64 % 2 = 1
    let key := if control then 64 else A % 64
    let id := B / 2 ^ 53
    let bad := A / 2 ^ 7 ≠ 0 ∨ (¬control ∧ (B / 2 ^ 40 % 2 ^ 13 ≠ 0 ∨ (B % 2 ^ 24 = 0 ∧ id ≠ 0)))
    let shadow := storeAt 0 key (x s o.b) s.units.shadow
    let enabled := (lookupD 0 s.units.slots 64).toNat / 2 ^ 63 = 1
    let u : State := { s with units := { s.units with shadow := shadow } }
    let v : State := if enabled then u else { u with units := { u.units with slots := shadow, slice := none } }
    (bad → Traps ins s cIll s.self.illValue) ∧
    (¬bad → s.self.mode ≠ .hypervisor → Traps ins s cPriv s.self.illValue) ∧
    (¬bad → s.self.mode = .hypervisor →
      (∀ c i, ¬control → (i, some c) ∈ s.units.colonies → i ≠ id → Related i id → s.named i = false → Traps ins s cPerm id) ∧
      (control ∨ (∀ e ∈ s.units.colonies, ∀ c, e.2 = some c → e.1 ≠ id → Related e.1 id → s.named e.1 = true) →
        Leads ins s (v.withSelf (v.self.putW o.a.toNat (Reg.ofWord (lookupD 0 s.units.shadow key))))))) ∧
  (∀ (o : OpRR) (s : State) (ins : Instr), Issues s [o.a, o.b] →
    ins = .tinvPage o ∨ ((ins = .tinvTenant ∨ ins = .tinvAll) ∧ o = s.self.rowRR) →
    let A := (x s o.a).toNat
    let kind := A / 2 ^ 12 % 4
    let t := BitVec.ofNat 12 A
    let va := (x s o.b).toNat % 2 ^ 48
    let bad := A / 2 ^ 14 ≠ 0 ∨ kind = 3
    (bad → Traps ins s cIll s.self.illValue) ∧
    (¬bad → s.self.mode = .user ∨ (s.self.mode = .supervisor ∧ (kind = 2 ∨ t ≠ s.self.tid)) → Traps ins s cPriv s.self.illValue) ∧
    (¬bad → s.self.mode = .hypervisor ∨ (s.self.mode = .supervisor ∧ kind ≠ 2 ∧ t = s.self.tid) →
      ∃ tlb, (s.accessesOutstanding kind t = false → Leads ins s { s with tlb := tlb }) ∧
        (s.accessesOutstanding kind t → ∃ u, exec ins s = .next u ∧ u.self.pcc = s.self.pcc ∧ u.self.instret = s.self.instret ∧
          SameAs { s with tlb := tlb } u) ∧
        ∀ group < 1036, ∀ (n : BitVec 12) (a : Nat), a < 2 ^ 48 →
          let now := fun (level : Nat) => lookupD ⟨0, 0⟩ tlb (tlbKey group n level a)
          let old := fun (level : Nat) => lookupD ⟨0, 0⟩ s.tlb (tlbKey group n level a)
          let unit := fun (level : Nat) => if level = 1 then 2 ^ 25 else 65536
          ∀ level ∈ [1, 2], (∀ e ∈ s.tlb, e.1 = tlbKey group n level a → e.2.level = level) →
            (kind = 2 ∨ (n = t ∧ (kind = 1 ∨ a / unit level = va / unit level)) → now level = ⟨0, 0⟩) ∧
            (kind ≠ 2 → n ≠ t ∨ (kind = 0 ∧ a / unit level ≠ va / unit level) → now level = old level)))

/-! ## What happens at strands -/

/-- R131, R134, R135, R136, R137, R431: the interrupts that a strand would take, and their order; one that is due at a boundary
enters its handler, with the instruction's own address to return to, or the next one behind a wait or a `hold` that it ends; with
nothing due nothing happens. -/
def InterruptsAreTaken : Prop :=
  (∀ (t : Strand) (time : Nat),
    (∀ e : BitVec 8 × Word, e ∈ t.dueInterrupts time ↔
      (e ∈ t.pending ∨ (e = (cTimer, 0) ∧ t.timecmp ≠ 0 ∧ t.timecmp.toNat ≤ time)) ∧
      if e.1 = cSlice ∨ e.1 = cDirtyLog ∨ e.1 = cMachine then t.mode ≠ .hypervisor
      else t.mode = .user ∨ (t.mode = .supervisor ∧ t.status.getLsbD 1)) ∧
    (∀ e es, t.dueInterrupts time = e :: es → ∀ f ∈ es,
      (hyperCause f.1 → hyperCause e.1) ∧ (hyperCause f.1 = hyperCause e.1 → e.1.toNat ≤ f.1.toNat))) ∧
  (∀ (s : State) (sid : Nat), s.now = .trapDelivery sid →
    let b := s.strand sid
    let boundary := b.live ∧ b.asked = [] ∧ b.gangIssued = false ∧ b.pop = none ∧ b.status.toNat / 2 ^ 12 % 4 = 0
    (¬boundary → Happens .trapDelivery s s) ∧
    (boundary → b.doomed = false → b.gangFault = none → b.dueInterrupts s.time = [] → Happens .trapDelivery s s) ∧
    (boundary → b.doomed = false → b.gangFault = none → ∀ e es m, b.dueInterrupts s.time = e :: es →
      b.targetMode e.1 = some m → installFault m b.tid (b.tvec m) = none →
      ∃ t, exec .trapDelivery s = .next t ∧ t.cur = s.cur ∧ t.mem = s.mem ∧ (∀ n, n ≠ sid → t.strand n = s.strand n) ∧
        let done := b.asleep ∨ b.holding.isSome
        let u := { b with pending := b.pending.filter (· ≠ e), instret := if done then b.instret + 1 else b.instret }
        t.strand sid = (u.settle).enter m e.1 e.2 none false (if done then b.pccAt b.npc else b.pcc)) ∧
    (boundary → b.doomed = false → ∀ c v m, b.gangFault = some (c, v) → b.targetMode c = some m →
      installFault m b.tid (b.tvec m) = none →
      ∃ t, exec .trapDelivery s = .next t ∧ (∀ n, n ≠ sid → t.strand n = s.strand n) ∧
        t.strand sid = ({ b with gangFault := none }.settle).enter m c v none true b.pcc)) ∧
  (∀ (s : State) (sid : Nat), s.now = .timerInterrupt sid →
    let b := s.strand sid
    let due := b.live ∧ b.timecmp ≠ 0 ∧ b.timecmp.toNat ≤ s.time
    (¬due → ∃ t, exec .timerInterrupt s = .next t ∧ t.strand sid = b ∧ t.mem = s.mem) ∧
    (due → ∃ t, exec .timerInterrupt s = .next t ∧ (∀ n, n ≠ sid → t.strand n = s.strand n) ∧ t.mem = s.mem ∧
      t.strand sid = { b with wake := b.wake || b.takeable cTimer }))

/-- The strand waits at an instruction, which it has fetched in the state `u` with the turn its own. -/
def WaitsAt (s : State) (sid : Nat) (i : Instr) (u : State) : Prop :=
  let t := s.strand sid
  t.live ∧ t.status.toNat / 2 ^ 12 % 4 = 0 ∧ t.pop = none ∧ t.reissue = [] ∧
  ∃ ws, fetch { s with cur := sid } = .ok ws u ∧ decodeWords ws = some (.ok i)

/-- R143, R164, R262, R324, R328: waits end. A `wait` whose strand was woken, a `bwt` whose phase is complete and a load whose value
is there complete as the instructions do; a pop takes its home's answer; a cancelled pop is withdrawn. -/
def WaitsEnd : Prop :=
  (∀ (s u v : State) (sid : Nat) (o : OpN), s.now = .waitWake sid → WaitsAt s sid (.wait o) u → exec (.wait o) u = .next v →
    Happens .waitWake s { v with cur := s.cur }) ∧
  (∀ (s u : State) (sid : Nat) (o : OpN), s.now = .waitWake sid → WaitsAt s sid (.wait o) u → u.self.wake →
    ∃ t, exec .waitWake s = .next t ∧ (t.strand sid).pcc = u.self.pccAt u.self.npc ∧ (t.strand sid).wake = false) ∧
  (∀ (s u : State) (sid : Nat) (o : OpR) (scope g : Nat), s.now = .bwtReturn sid → WaitsAt s sid (.bwt o) u → Issues u [o.a] →
    checkFault u (w u o.a) Cap.br [Cap.kGroup] 1 = none → NamesGroup u (w u o.a) scope g →
    u.self.arrived.getLsbD (groupBit scope g) = false → u.gangPending u.cur scope g = false →
    ∃ t, exec .bwtReturn s = .next t ∧ t.cur = s.cur ∧ (t.strand sid).pcc = u.self.pccAt u.self.npc) ∧
  (∀ (s u v : State) (sid : Nat) (o : OpRX) (m : MemMod) (i : Instr), i = .ld o m ∨ i = .ldc o m → s.now = .loadValueReturn sid →
    WaitsAt s sid i u → exec i u = .next v → Happens .loadValueReturn s { v with cur := s.cur }) ∧
  (∀ (s u : State) (sid : Nat) (o : OpRX) (m : MemMod) (a : Nat) (e : Word), s.now = .loadValueReturn sid → WaitsAt s sid (.ld o m) u →
    Issues u [o.a, o.b] → m.width.toNat ≤ 3 → m.ord = 0 →
    let k := 2 ^ m.width.toNat
    Opens u (at2 u o) Cap.ld k a e → Direct a → NoPartials u → u.firstBad a k = none →
    ∃ t, exec .loadValueReturn s = .next t ∧ (t.strand sid).pcc = u.self.pccAt u.self.npc ∧
      (t.strand sid).phys (u.self.physOf o.a.toNat) = Reg.ofWord (got k m.sx (u.bytesAt a k))) ∧
  (∀ (s : State) (sid : Nat) (r : PopReq), s.now = .popAnswer sid → (s.strand sid).pop = some r → r.dst ≤ 62 →
    let b := s.strand sid
    let done := fun (word stat bound : Nat) (more : Strand → Prop) => ∃ t, exec .popAnswer s = .next t ∧ t.cur = s.cur ∧
      (t.strand sid).pop = none ∧ (t.strand sid).pcc = b.pccAt b.npc ∧ (t.strand sid).instret = b.instret + 1 ∧
      (t.strand sid).phys (b.physOf r.dst) = Reg.ofWord (BitVec.ofNat 64 word) ∧
      (t.strand sid).wlstat = BitVec.ofNat 64 stat ∧ (t.strand sid).wlbound = BitVec.ofNat 64 bound ∧ more (t.strand sid)
    let holds := if b.tasks = [] then 0 else 1
    (r.answer = none → Happens .popAnswer s s) ∧
    (∀ n, r.answer = some (.quiescent n) → done (2 ^ 62) (min n 255 * 256 + 2 + holds) 0 fun t => t.tasks = b.tasks) ∧
    (∀ n, r.answer = some (.dry n) → done 0 (min n 255 * 256 + 1) 0 fun t => t.tasks = b.tasks) ∧
    (∀ n, r.answer = some (.interrupted n) → done (2 ^ 61) (min n 255 * 256 + holds) 0 fun t => t.tasks = b.tasks) ∧
    (∀ key cls bound n arg, r.answer = some (.commit key cls bound n arg) →
      done (2 ^ 63 + cls * 2 ^ 32 + key) (min n 255 * 256 + 1) bound fun t =>
        t.phys (b.physOf (r.dst + 1)) = arg ∧
        t.tasks = b.tasks ++ [(⟨r.pkg, r.home, r.slot, r.gen, s.pkg, (s.fullSid sid).toNat⟩ : TaskId)])) ∧
  (∀ (s : State) (sid : Nat), s.now = .popCancel sid →
    let b := s.strand sid
    let whole := (s.fullSid sid).toNat
    (b.pop = none → Happens .popCancel s s) ∧
    (∀ r, b.pop = some r → r.answer ≠ none → Happens .popCancel s s) ∧
    (∀ r, b.pop = some r → r.answer = none → r.pkg = s.pkg → (s.slot r.home r.slot).hold = [] →
      s.worklistBusy whole r.home r.slot = false →
      let h := s.slot r.home r.slot
      let u := withSlot s r.home r.slot { h with pops := h.pops.filter fun p => p.sid ≠ whole }
      (r.yielding = false → Happens .popCancel s (u.withStrand sid { b with pop := none })) ∧
      (∀ k, r.yielding → (∃ p ∈ h.pops, p.sid = whole) → (∀ p ∈ h.pops, p.sid = whole → p.redirects = k) → Happens .popCancel s
        (posting (u.withStrand sid { b with pop := some { r with answer := some (.interrupted k) } }) [.popAnswer sid]))))

/-! ## What arrives at cores -/

/-- R146, R150, R151, R154, R155, R158, R165, R411: writes, window stores, messages and deposits from outside a core. -/
def ArrivalsAtCores : Prop :=
  (∀ (s : State) (v : PadWrite), s.now = .scratchpadWriteArrival v → v.core < 4096 → v.offset + v.bytes.length ≤ 0x40000 →
    NoPartials s → (∀ j < v.bytes.length, s.badAt (spadAddr v.core (v.offset + j)) = 0) →
    ∃ t, exec .scratchpadWriteArrival s = .next t ∧
      (∀ j < v.bytes.length, t.byteAt (spadAddr v.core (v.offset + j)) = v.bytes.getD j 0) ∧
      (∀ a, (∀ j < v.bytes.length, canon a ≠ spadAddr v.core (v.offset + j)) → t.byteAt a = s.byteAt a) ∧
      (s.tracing v.core = false → (t.core v.core).traced = (s.core v.core).traced) ∧
      (s.tracing v.core → v.offset % 128 + v.bytes.length ≤ 128 → 0 < v.bytes.length →
        (t.core v.core).traced = (s.core v.core).traced + 1 ∧
        let e := lookupD 0 (t.core v.core).ring ((s.core v.core).traced.toNat % 256)
        e.toNat % 2 ^ 50 = v.offset ∧ e.toNat / 2 ^ 50 % 128 = v.bytes.length - 1 ∧ e.toNat / 2 ^ 57 % 8 = v.path.toNat ∧
          e.toNat / 2 ^ 60 % 2 ^ 28 = v.src.toNat ∧ e.toNat / 2 ^ 88 = (s.core v.core).clk % 2 ^ 40)) ∧
  (∀ (s : State) (v : WindowAccess), s.now = .registerWindowAccess v →
    (v.store = none → ∃ t, exec .registerWindowAccess s = .next t ∧ (∀ n, t.strand n = s.strand n) ∧ t.mem = s.mem) ∧
    (∀ r, v.store = some r → v.core < 4096 → v.offset < 0x4000 → v.offset % 0x2000 < 0x1000 → v.width = 16 →
      let sid := v.core * 2 + v.offset / 0x2000
      let i := v.offset % 0x2000 / 16
      let t := s.strand sid
      let woken := fun (u : State) (n : Nat) => ∃ wake, u.strand n = { s.strand n with wake := (s.strand n).wake || wake }
      (t.live = false → ∃ u, exec .registerWindowAccess s = .next u ∧ (∀ n, woken u n) ∧ u.mem = s.mem) ∧
      (t.live → (i + 256 - t.win.base % 256) % 256 ∉ t.named → ∃ u, exec .registerWindowAccess s = .next u ∧ u.mem = s.mem ∧
        (∀ n, n ≠ sid → woken u n) ∧ u.strand sid = { t.deposit i r with wake := true }))) ∧
  (∀ (s : State) (m : Offer), s.now = .messageAccept m → (s.strand m.target).rqovf.tag = false →
    let t := s.strand m.target
    let foreign := m.msg.src.toNat / 16384 ≠ s.pkg
    let took := s.withStrand m.target (delivered t m.msg)
    (t.live → t.inbox.length < 64 → ¬foreign → Happens .messageAccept s took) ∧
    (t.live → t.inbox.length < 64 → foreign → ∃ pk, Happens .messageAccept s (posting took [.packetForward pk]) ∧
      pk.op = .accepted ∧ pk.txn = m.txn ∧ pk.dst = m.msg.src.toNat / 16384) ∧
    (t.live = false ∨ 64 ≤ t.inbox.length → ∃ u, exec .messageAccept s = .next u ∧ (∀ n, u.strand n = s.strand n) ∧ u.mem = s.mem ∧
      ((lookupD [] s.units.refusals m.target).length < 64 → m.msg.src ∈ lookupD [] u.units.refusals m.target))) ∧
  (∀ (s : State) (sid : Nat), s.now = .overflowRefill sid →
    ((s.strand sid).rqovf.tag = false → Happens .overflowRefill s s) ∧
    (∀ b n a, sid = s.cur → areaShape s.self.rqovf = some (b, n) → s.self.inbox.length < 64 → NoPartials s →
      b % 65536 + 64 + 64 * n ≤ 65536 →
      (∀ j < 64 + 64 * n, DirectOwn s (a + j) ∧ s.badAt (a + j) = 0 ∧ ∃ e, pteM e = false ∧
        Maps s s.self.tid (b + j) Cap.ld (s.globalOf (a + j)) e ∧ Maps s s.self.tid (b + j) Cap.st (s.globalOf (a + j)) e) →
      s.pkg < 2 ^ 14 →
      let take := leNat (s.bytesAt (a + 8) 8)
      leNat (s.bytesAt a 8) = take + 1 →
      ∃ t m, exec .overflowRefill s = .next t ∧ t.self.inbox = s.self.inbox ++ [m] ∧ t.self.wake = true ∧
        t.bytesAt (a + 8) 8 = leBytes 8 (take + 1) ∧
        let at_ := a + 64 + 64 * (take % n)
        m.src.toNat = leNat (s.bytesAt at_ 8) % 2 ^ 28 ∧ m.kind.toNat = leNat (s.bytesAt (at_ + 8) 2) ∧
          m.payload.length = min 3 (leNat (s.bytesAt (at_ + 10) 1)))) ∧
  (∀ (s : State) (sid : Nat), s.now = .sendTimeout sid →
    let t := s.strand sid
    (t.refusedAt = none → ∃ u, exec .sendTimeout s = .next u ∧ u.strand sid = t ∧ u.mem = s.mem) ∧
    (∀ f, t.refusedAt = some f → t.clk ≤ f + t.sndto.toNat →
      ∃ u, exec .sendTimeout s = .next u ∧ (u.strand sid).clk = f + t.sndto.toNat ∧ (u.strand sid).still = t.still ∧
        ∀ n, n ≠ sid → u.strand n = s.strand n)) ∧
  (∀ (s : State) (sid : Nat), s.now = .reofferNotice sid →
    (lookupD [] s.units.refusals sid = [] → Happens .reofferNotice s s) ∧
    (∀ b bs, lookupD [] s.units.refusals sid = b :: bs →
      let u : State := { s with units := { s.units with refusals := storeAt [] sid bs s.units.refusals } }
      (b.toNat / 16384 = s.pkg → Happens .reofferNotice s (posting u [.sendReoffer (b.toNat % 16384)])) ∧
      (b.toNat / 16384 ≠ s.pkg → ∃ pk, Happens .reofferNotice s (posting u [.packetForward pk]) ∧ pk.dst = b.toNat / 16384))) ∧
  (∀ (s : State) (sid : Nat), s.now = .sendReoffer sid →
    let t := s.strand sid
    (∀ f, t.refusedAt = some f → Happens .sendReoffer s (s.withStrand sid { t with reoffer := true })) ∧
    (t.refusedAt = none → Happens .sendReoffer s (s.withStrand sid t))) ∧
  (∀ (s : State) (d : Deposit), s.now = .depositArrival d →
    let t := s.strand d.target
    let here := d.src.toNat / 16384 = s.pkg
    let took := s.withStrand d.target { t.deposit (t.physOf d.n.toNat) d.value with wake := true }
    (t.live → d.n.toNat < t.win.frame → d.n.toNat ∉ t.named → here → Happens .depositArrival s took) ∧
    (t.live → d.n.toNat < t.win.frame → d.n.toNat ∉ t.named → ¬here → ∃ pk,
      Happens .depositArrival s (posting took [.packetForward pk]) ∧ pk.op = .accepted ∧ pk.txn = d.txn) ∧
    (t.live → t.win.frame ≤ d.n.toNat → ¬here → ∃ pk, Happens .depositArrival s (posting s [.packetForward pk]) ∧ pk.op = .refused) ∧
    (t.live = false → ¬here → ∃ pk, Happens .depositArrival s (posting s [.packetForward pk]) ∧ pk.op = .notLoaded))

/-- R173, R350: in a round of a quad's dispatch queues a follow-on that heads one is issued as its operation; one of a strand that
has ended is dropped with an error of its copy queue. -/
def FollowOnsIssue : Prop :=
  ∀ (s : State) (q : Nat), s.now = .dispatchRound q →
    ((∀ i < 4, (s.core (q * 4 + i)).queue = []) → Happens .dispatchRound s (s.withQuad q { s.quad q with round := [] })) ∧
    (∀ i e es copy, i < 4 → (s.core (q * 4 + i)).queue = e :: es → e.followOn = some copy →
      (∀ f fs, es = f :: fs → f.followOn = none) → (∀ j < 4, j ≠ i → (s.core (q * 4 + j)).queue = []) →
      s.islandSpent e.sid = false → (∀ c, s.colony (s.colonyOf e.sid) = some c → c.allocOf 0 = unlimited) →
      let core := q * 4 + i
      let t := s.strand e.sid
      let dL := t.desc e.lt
      let dR := t.desc e.rt
      (t.live = false → copy / 2048 = s.pkg → (s.queue (copy % 2048)).err = false →
        ∃ u, exec .dispatchRound s = .next u ∧ (u.core core).queue = es ∧
          (u.queue (copy % 2048)).err = true ∧ (u.queue (copy % 2048)).cause = cGang ∧ (u.quad q).ops = (s.quad q).ops) ∧
      (t.live → quadOf e.sid = q → denseFault e.mmt dL dR e.row0 = none →
        let rows := (List.range (descRows dL)).map fun r =>
          (⟨e.row0 + r, (List.range (descCols dL)).map fun k =>
            (tileEl t.mtx.tiles e.lt (tileBits (descFmt dL)) r k, k)⟩ : RowPlan)
        let op : MatOp := { id := (s.quad q).nextOp, sid := e.sid, acc := e.acc, fmtL := descFmt dL, scaleL := descScale dL,
                            leftTile := some e.lt, rightSid := e.sid, rightTile := e.rt, descR := dR,
                            right := tileStorage t.mtx.tiles e.rt, ternary := e.mmt, block := 1, rows := rows,
                            written := 0, gang := none, followOn := some copy }
        ∃ u, exec .dispatchRound s = .next u ∧ (u.core core).queue = es ∧ (u.quad q).ops = (s.quad q).ops ++ [op]))

/-! ## The Scout -/

/-- A bound ring of `n` records that the Scout can read and write: it lies in one page of DRAM or die scratchpad from `a`. -/
def RingAt (s : State) (r : Ring) (a n : Nat) : Prop :=
  let va := Cap.cursor r.cap.val
  n ≠ 0 ∧ r.cap.tag ∧ Cap.kind r.cap.val = Cap.kMemory ∧ Cap.has r.cap.val (Cap.ld ||| Cap.st) ∧ Cap.inRange r.cap.val ∧
  Cap.base r.cap.val = va ∧ va + 64 + 65 * n ≤ Cap.top r.cap.val ∧ va % 64 = 0 ∧ NoPartials s ∧
  Reaches s 8 r.cap Cap.ld (64 + 65 * n) a ∧ Reaches s 8 r.cap Cap.st (64 + 65 * n) a ∧ leNat (s.bytesAt (a + 16) 4) = n

/-- The fields of the oldest record of a ring that is not consumed (R354). -/
def recordField (s : State) (r : Ring) (a n off k : Nat) : Nat := leNat (s.bytesAt (a + 64 + 64 * (r.rp % n) + off) k)
def recordCap (s : State) (r : Ring) (a n i : Nat) : Reg :=
  ⟨BitVec.ofNat 128 (recordField s r a n (16 + 16 * i) 16), decide ((s.byteAt (a + 64 + 64 * n + r.rp % n)).toNat / 2 ^ i % 2 = 1)⟩

/-- The Scout has a record of a ring to process for a colony that it serves. -/
def HasRecord (s : State) (ring : Nat) (r : Ring) (c : Colony) (a n : Nat) : Prop :=
  lookupD none s.units.rings ring = some r ∧ RingAt s r a n ∧ s.colony r.colony = some c ∧ s.scoutServes r.colony = true ∧
  leNat (s.bytesAt a 8) ≠ r.rp ∧ r.drain = r.rp ∧ r.rp < 2 ^ 64

/-- A minted field passes R129. -/
def Minted (s : State) (r : Ring) (a n : Nat) : Prop :=
  ∀ i < 3, (recordCap s r a n i).tag → r.authority.tag ∧ Cap.kind r.authority.val = Cap.kMemory ∧
    Cap.has r.authority.val Cap.mt ∧ Cap.mintable r.authority.val (recordCap s r a n i).val

/-- The record has been consumed. -/
def Consumed (t : State) (ring : Nat) (r : Ring) (a : Nat) : Prop :=
  lookupD none t.units.rings ring = some { r with rp := (r.rp + 1) % 2 ^ 64 } ∧
  leNat (t.bytesAt (a + 8) 8) = (r.rp + 1) % 2 ^ 64

/-- R10: a started strand. -/
def Started (t : Strand) (pcc : Reg) (mode : Mode) (tid : BitVec 12) (w0 w1 w2 spill : Reg) (launch : Nat) : Prop :=
  t.live ∧ t.pcc = installed pcc ∧ t.mode = mode ∧ t.tid = tid ∧ t.phys 0 = w0 ∧ t.phys 1 = w1 ∧ t.phys 2 = w2 ∧
  (∀ i, 3 ≤ i → i < 256 → t.phys i = Reg.zero) ∧ t.win.spill = spill ∧ t.launch = launch ∧ t.status = 0 ∧ t.inbox = [] ∧ t.tasks = []

/-- R10, R18, R170, R354, R355: the Scout takes a launch record: it rejects one that fails a condition, with the number of that
condition in the record, and otherwise starts the strands at the colony's free positions in their order. -/
def ScoutLaunches : Prop :=
  (∀ id i sid : Nat, 1 ≤ id → id < 2048 → (strandPositions id)[i]? = some sid →
    let quads := 1024 / 2 ^ Nat.log2 id
    let first := (id - 2 ^ Nat.log2 id) * quads
    let dies := max 1 (quads / 128)
    let per := quads / dies
    dieOf sid = first / 128 + i % dies ∧ quadOf sid % 128 = first % 128 + i / dies % per ∧
      sid / 2 % 4 = i / dies / per % 4 ∧ sid % 2 = i / dies / per / 4 ∧ i < 8 * quads) ∧
  (∀ (s : State) (ring : Nat) (r : Ring) (c : Colony) (a n : Nat), s.now = .scoutLaunch ring → HasRecord s ring r c a n →
    let f := recordField s r a n
    let cap := recordCap s r a n
    let within := r.colony ≠ 0 ∧ ∃ k, f 2 2 / 2 ^ k = r.colony
    let tenant := Cap.tenant r.cap.val
    let entry := (cap 0).tag ∧ Cap.tenant (cap 0).val = tenant ∧ (Cap.kind (cap 0).val = Cap.kMemory ∨ Cap.kind (cap 0).val = Cap.kEntry) ∧
      Cap.has (cap 0).val Cap.x ∧ Cap.cursor (cap 0).val % 2 = 0
    let places := (strandPositions (f 2 2)).filter s.positionFree
    let count := f 4 4
    let rejected := fun (why : Nat) => ∃ t, exec .scoutLaunch s = .next t ∧ Consumed t ring r a ∧
      leNat (t.bytesAt (a + 64 + 64 * (r.rp % n) + 8) 8) = 2 ^ 63 + why ∧ ∀ b, (t.strand b).live = (s.strand b).live
    (f 0 2 = 0 ∨ 3 < f 0 2 → rejected 1) ∧
    (f 0 2 = 1 → f 8 8 ≠ 0 → rejected 2) ∧
    (f 0 2 = 1 → f 8 8 = 0 → ¬within → rejected 3) ∧
    (f 0 2 = 1 → f 8 8 = 0 → within → ¬(entry ∧ Minted s r a n) → rejected 4) ∧
    (f 0 2 = 1 → f 8 8 = 0 → within → entry → Minted s r a n → count = 0 ∨ places.length < count → rejected 5) ∧
    (f 0 2 = 1 → f 8 8 = 0 → within → entry → Minted s r a n → 0 < count → count ≤ places.length →
      (∀ b ∈ places.take count, (s.quad (quadOf b)).deferred = [] ∧
        8 * ((places.take count).filter fun d => quadOf d = quadOf b).length ≤ s.freeLanes (quadOf b)) →
      ∃ t, exec .scoutLaunch s = .next t ∧ Consumed t ring r a ∧
        (∃ k, t.colony r.colony = some k ∧ k.state = .loaded) ∧
        (∃ l ∈ t.units.launches, l.id = s.units.nextLaunch ∧ l.left = count ∧ l.colony = r.colony ∧ l.future = cap 2) ∧
        ∀ i b, (places.take count)[i]? = some b → (t.core (coreOf b)).counters = [] ∧ Started (t.strand b) (cap 0) .user tenant (cap 1)
          (Reg.ofWord (BitVec.ofNat 64 i)) (Reg.ofWord (BitVec.ofNat 64 count)) c.spill s.units.nextLaunch)) ∧
  (∀ (s : State) (q : Nat), s.now = .deferredStart q →
    ((s.quad q).deferred = [] → Happens .deferredStart s s) ∧
    (∀ d ds, (s.quad q).deferred = d :: ds →
      (s.freeLanes q < 8 → Happens .deferredStart s s) ∧
      (8 ≤ s.freeLanes q → (∀ c, s.colony (s.colonyOf d.sid) = some c → c.state ≠ .yielding) →
        ∃ t, exec .deferredStart s = .next t ∧
          Started (t.strand d.sid) d.pcc (if d.boot then .hypervisor else .user) d.tid d.w0 d.w1 d.w2 d.spill d.launch)))

/-- R370: a stop record ends the strands of its colony at their boundaries, and is complete when none is left; a configure record
pushes one item. A record that fails a condition is rejected. -/
def ScoutStopsAndPushes : Prop :=
  (∀ (s : State) (ring : Nat) (r : Ring) (c : Colony) (a n : Nat), s.now = .scoutStop ring → HasRecord s ring r c a n →
    s.units.launches = [] →
    let f := recordField s r a n
    let cap := recordCap s r a n
    let zero := f 4 12 = 0 ∧ cap 0 = Reg.zero ∧ cap 1 = Reg.zero
    f 0 2 = 2 → (∀ e ∈ s.units.rings, e.1 = ring ∨ ∀ k, e.2 = some k → k.colony ≠ r.colony) →
      (¬zero → ∃ t, exec .scoutStop s = .next t ∧ Consumed t ring r a ∧
        leNat (t.bytesAt (a + 64 + 64 * (r.rp % n) + 8) 8) = 2 ^ 63 + 2 ∧ ∀ b, (t.strand b).live = (s.strand b).live) ∧
      (zero → f 2 2 = r.colony → r.colony ≠ 0 → Minted s r a n → (cap 2).tag = false →
        (∀ e ∈ s.quads, covers r.colony e.1 → e.2.deferred = []) →
        (∀ b ∈ s.colonyStrands r.colony, (s.strand b).members = 0 ∧ (s.strand b).tasks = [] ∧ (s.strand b).pop = none ∧
          (s.strand b).asked = [] ∧ (s.strand b).gangIssued = false) →
        ∃ t, exec .scoutStop s = .next t ∧ leNat (t.bytesAt (a + 8) 8) = (r.rp + 1) % 2 ^ 64 ∧
          (∀ b ∈ s.colonyStrands r.colony, (t.strand b).live = false) ∧
          t.units.launches = [] ∧
          ∃ k, lookupD none t.units.rings ring = some k ∧ k.rp = (r.rp + 1) % 2 ^ 64 ∧ k.drain = leNat (s.bytesAt a 8))) ∧
  (∀ (s : State) (ring : Nat) (r : Ring) (c : Colony) (a n : Nat), s.now = .scoutConfigurePush ring → HasRecord s ring r c a n →
    let f := recordField s r a n
    let cap := recordCap s r a n
    let h := Cap.cursor (cap 0).val
    f 0 2 = 3 →
      (f 4 4 ≠ 1 ∨ 4 ≤ f 12 1 ∨ f 13 3 ≠ 0 → ∃ t, exec .scoutConfigurePush s = .next t ∧ Consumed t ring r a ∧
        leNat (t.bytesAt (a + 64 + 64 * (r.rp % n) + 8) 8) = 2 ^ 63 + 2) ∧
      (∀ die i gen, f 4 4 = 1 → f 12 1 < 4 → f 13 3 = 0 → f 2 2 = r.colony → r.colony ≠ 0 → Minted s r a n → (cap 2).tag = false →
        (cap 0).tag → Cap.kind (cap 0).val = Cap.kWorklist → Cap.has (cap 0).val Cap.wl →
        Cap.tenant (cap 0).val = Cap.tenant r.cap.val → Cap.base (cap 0).val ≤ h → h + 1 ≤ Cap.top (cap 0).val → h % 1024 = 0 →
        handleName (cap 0) = (s.pkg, die, i, gen) → die < 8 → (s.slot die i).used → (s.slot die i).gen = gen →
        (s.slot die i).broken = false → ((cap 1).tag → Cap.has (cap 1).val Cap.gl) →
        (∀ d, ((s.die d).items.filter fun y => y.run.isNone).length < 65536) →
        ∃ t d, d < 8 ∧ exec .scoutConfigurePush s = .next t ∧ Consumed t ring r a ∧
          (t.die d).items = (s.die d).items ++ [{ inst := instName s.pkg die i, gen := gen, key := f 8 4, cls := f 12 1, arg := cap 1
                                                  pending := true, reserved := none, run := none, colony := r.colony, away := false }] ∧
          .countApply (⟨die, i, gen, engineName s.pkg d, 1, f 8 4, (s.fullSid (firstSid r.colony)).toNat⟩ : WlCount) ∈ t.agenda))

/-! ## Slices, saves and loads -/

/-- R373: the slice scheduled at a time: its table entry, and when it ends. Cycles follow one another from the epoch, and the
entries that are not empty follow one another within a cycle. -/
def SliceSchedule : Prop :=
  ∀ (s : State) (t i end_ : Nat),
    let entries := slotEntries s.units.slots
    let control := (lookupD 0 s.units.slots 64).toNat
    let cycle := (entries.map (·.2)).sum
    s.scheduled t = some (i, end_) ↔
      2 ^ 63 ≤ control ∧ ∃ pre d post k, entries = pre ++ (i, d) :: post ∧
        let start := control % 2 ^ 63 + k * cycle + (pre.map (·.2)).sum
        start ≤ t ∧ t < start + d ∧ end_ = start + d

/-- What comes after the slice of an entry that ends at a time: the next entry, or the first of the next cycle, with which the
shadow comes into force. -/
def NextSlice (u t : State) (i end_ : Nat) : Prop :=
  let now := fun (v : State) (e : Option (Nat × Nat × Bool)) => { v with units := { v.units with slice := e } }
  (∀ pre j d post, slotEntries u.units.slots = pre ++ (j, d) :: post → (∀ e ∈ pre, e.1 ≤ i) → i < j →
    t = now u (some (j, end_ + d, false))) ∧
  ((∀ e ∈ slotEntries u.units.slots, e.1 ≤ i) →
    let v : State := { u with units := { u.units with slots := u.units.shadow, slice := none } }
    t = now v ((v.scheduled end_).map fun e => (e.1, e.2, false)))

/-- R373, R375, R376: at the end of a slice its loaded colony begins to yield with the entry's grace, and the next slice begins. -/
def SlicesEnd : Prop :=
  ∀ (s : State) (id slot : Nat), s.now = .sliceEnd id slot →
    (s.units.slice = none → Happens .sliceEnd s
      { s with units := { s.units with slice := (s.scheduled s.time).map fun e => (e.1, e.2, false) } }) ∧
    (∀ i end_ loaded, s.units.slice = some (i, end_, loaded) →
      let owner := (lookupD 0 s.units.slots i).toNat / 2 ^ 53
      let grace := (lookupD 0 s.units.slots i).toNat / 2 ^ 24 % 2 ^ 16 * 1000
      (slot ≠ i → Happens .sliceEnd s s) ∧
      (slot = i → (∀ c, s.colony owner = some c → c.state ≠ .loaded) →
        ∃ t, exec .sliceEnd s = .next t ∧ NextSlice s t i end_) ∧
      (∀ c, slot = i → s.colony owner = some c → c.state = .loaded →
        let y : Yield := { deadline := s.time + grace, slot := i, hold := false, stopped := [], forced := false }
        let u := s.withColony owner (some { c with state := .yielding, yield := some y })
        (u.colonyStrands owner = [] → ∃ t, exec .sliceEnd s = .next t ∧ NextSlice (posting u [.colonySaveDone owner]) t i end_) ∧
        ((∃ n ∈ u.colonyStrands owner, u.decodeStopped n = false) → ∃ t, exec .sliceEnd s = .next t ∧ NextSlice u t i end_)))

/-- R142, R143: a forced save stops the strands of a yielding colony that have not stopped, as soon as what they have issued has
completed; a plain load whose value has not come in time is recorded for reissue. -/
def SavesAreForced : Prop :=
  (∀ (s : State) (id : Nat), s.now = .forcedSave id →
    ((∀ c, s.colony id = some c → c.state ≠ .yielding ∨ c.yield = none ∨ ∃ y, c.yield = some y ∧ y.forced) →
      Happens .forcedSave s s) ∧
    (∀ c y, s.colony id = some c → c.state = .yielding → c.yield = some y → y.forced = false →
      (∀ n ∈ s.colonyStrands id, (s.strand n).pop = none) →
      ∃ t, exec .forcedSave s = .next t ∧ t.mem = s.mem ∧ t.time = s.time ∧
        t.colony id = some { c with yield := some { y with forced := true, deadline := s.time } } ∧
        (∀ n, n ∉ s.colonyStrands id ∨ n ∈ y.stopped → t.strand n = s.strand n) ∧
        ∀ n ∈ s.colonyStrands id, n ∉ y.stopped → (s.strand n).asked = [] → (s.strand n).gangIssued = false →
          let o := s.strand n
          let v := t.strand n
          v.live = o.live ∧ (∀ p, v.phys p = o.phys p) ∧ v.asleep = false ∧ v.instret = o.instret ∧
            let sleeps := o.asleep = true ∧ ∃ z, decodeWords o.ir = some (.ok (.wfi z))
            (sleeps → v.pcc = o.pccAt o.npc) ∧ (¬sleeps → v.pcc = o.pcc))) ∧
  (∀ (s : State) (sid : Nat), s.now = .loadReissueTimeout sid →
    (s.waitsForReads sid = false → Happens .loadReissueTimeout s s) ∧
    (∀ (o : OpRX) (m : MemMod) (ws : List IWord) (u : State) (r : Request),
      let t := s.strand sid
      fetch { s with cur := sid } = .ok ws u → decodeWords ws = some (.ok (.ld o m)) → m.ord = 0 → t.reissue = [] →
      r ∈ s.units.requests → r.sid = sid → r.use = .instr → r.txn ∈ t.asked → (∃ n, r.packet.op = .read n) →
      (∀ q ∈ s.units.requests, q.sid = sid → q.use = .instr → q.txn ∈ t.asked → q = r) →
      r.packet.addr < 2 ^ 41 → r.packet.dst < 2 ^ 14 →
      ∃ v q, exec .loadReissueTimeout s = .next v ∧ (v.strand sid).reissue = [q] ∧
        (v.strand sid).asked = [] ∧ (v.strand sid).pcc = t.pccAt u.self.npc ∧ (v.strand sid).instret = t.instret + 1 ∧
        v.units.requests = s.units.requests.filter (fun x => !(x.sid = sid && x.use = .instr && t.asked.contains x.txn)) ∧
        q.toNat / 2 ^ 112 = 1 ∧ q.toNat / 2 ^ 104 % 256 = t.physOf o.a.toNat % 256 ∧ q.toNat / 2 ^ 100 % 16 = m.scope.toNat ∧
        q.toNat / 2 ^ 99 % 2 = (if m.sx then 1 else 0) ∧ q.toNat / 2 ^ 96 % 8 = m.width.toNat ∧
        q.toNat % 2 ^ 96 = r.packet.dst * 2 ^ 41 + r.packet.addr))

/-- R375, R376, R377: a colony whose strands have all stopped or ended is saved, or, with nothing to save, returns to idle; an idle
colony is loaded when none that overlaps it is loaded or yields. -/
def ColoniesSaveAndLoad : Prop :=
  (∀ (s : State) (id : Nat) (c : Colony) (y : Yield), s.now = .colonySaveDone id → s.colony id = some c → c.state = .yielding →
    c.yield = some y →
    let stopped := ∀ n ∈ s.colonyStrands id, s.stoppedForYield n = true
    let nothing := s.colonyStrands id = [] ∧ (∀ e ∈ s.quads, covers id e.1 → e.2.deferred = []) ∧ s.heldSlots id = 0 ∧
      s.heldCopies id = 0 ∧ ∀ d ∈ s.dies, ∀ z ∈ d.2.items, z.colony ≠ id
    (¬stopped → Happens .colonySaveDone s s) ∧
    (nothing → Happens .colonySaveDone s (s.withColony id
      (some { c with state := if y.hold then .held else .idle, yield := none, hasImage := false }))) ∧
    (stopped → s.colonyStrands id ≠ [] → ∃ t v, exec .colonySaveDone s = .next t ∧
      t.colony id = some { c with
        state := if y.hold then .held else .saved, yield := none, hasImage := true, image := s.units.vault.length + 1 } ∧
      t.units.vault = s.units.vault ++ [v] ∧ v.ticket = s.units.vault.length + 1 ∧ v.colony = id ∧
      ∀ n ∈ s.colonyStrands id, (t.strand n).live = false)) ∧
  (∀ (s : State) (id : Nat) (c : Colony), s.now = .colonyLoad id → s.colony id = some c →
    let overlapping := ∃ e ∈ s.units.colonies, ∃ k, e.2 = some k ∧ e.1 ≠ id ∧ (k.state = .loaded ∨ k.state = .yielding) ∧
      Related e.1 id
    let becomes := fun (k : Colony) => ∃ t, exec .colonyLoad s = .next t ∧ t.colony id = some k ∧
      (∀ n, t.strand n = s.strand n) ∧ t.mem = s.mem
    (overlapping → becomes c) ∧
    (¬overlapping → s.units.boot = none → c.state = .idle → becomes { c with state := .loaded }) ∧
    (¬overlapping → s.units.boot = none → c.state = .saved → c.hasImage → c.save.tag = false →
      becomes { c with hasImage := false }))

/-- R379, R382: at the start of a period each remaining count is the allocation less a deficit that is carried, and the islands'
energy starts anew; the controller sets an island's operating point and energy allocation. -/
def BudgetsRunInPeriods : Prop :=
  (∀ s : State, s.now = .budgetPeriod → (∀ d ∈ s.dies, d.2.slots = []) →
    ∃ t, exec .budgetPeriod s = .next t ∧ t.units.period = s.time / 1000 ∧ (∀ n, t.strand n = s.strand n) ∧ t.mem = s.mem ∧
      (∀ i, (lookupD Island.initial t.units.islands i).used = 0 ∧
        (lookupD Island.initial t.units.islands i).alloc = (lookupD Island.initial s.units.islands i).alloc) ∧
      ∀ id c, s.colony id = some c → ∃ k, t.colony id = some k ∧ ∀ r < 8,
        let new := lookupD 0 c.nextAlloc r
        let alloc : Nat := if new = 0 then c.allocOf r else new - 1
        k.allocOf r = alloc ∧ lookupD 0 k.nextAlloc r = 0 ∧
        (alloc ≠ unlimited → lookupD 0 k.rem r =
          min (alloc : Int) (lookupD 0 c.rem r + ((s.time / 1000 - s.units.period : Nat) : Int) * alloc))) ∧
  (∀ (s : State) (island mhz energy : Nat), s.now = .operatingPoint island mhz energy →
    let fits := island < 256 ∧ mhz ∈ [1700, 1500, 1300, 1000]
    (¬fits → Happens .operatingPoint s s) ∧
    (fits → ∃ t, exec .operatingPoint s = .next t ∧ (∀ n, t.strand n = s.strand n) ∧ t.mem = s.mem ∧
      (∀ i, i ≠ island → lookupD Island.initial t.units.islands i = lookupD Island.initial s.units.islands i) ∧
      lookupD Island.initial t.units.islands island =
        { mhz := mhz, alloc := energy, used := (lookupD Island.initial s.units.islands island).used }))

/-! ## Package time -/

/-- R371, R372: a valid time-of-day message announces the second of the next edge; an edge sets a time that is more than 1 µs
away, and never back; the loss of edges is reported. -/
def TimeIsDisciplined : Prop :=
  (∀ s : State, s.now = .ppsEdge →
    let c := s.units.clock
    let second := c.second * 1000000000
    let edge := fun (time : Nat) => Happens .ppsEdge s { s with
      time := time, units := { s.units with clock := { c with announced := false, lastEdge := time, lost := false } } }
    (c.announced → second + 1000 < s.time → edge s.time) ∧ (c.announced → s.time + 1000 < second → edge second) ∧
    (c.announced → s.time ≤ second + 1000 → second ≤ s.time + 1000 → edge s.time) ∧ (c.announced = false → edge s.time)) ∧
  (∀ (s : State) (bs : List Byte) (inWindow : Bool), s.now = .timeOfDayMessage bs inWindow →
    let f := fun (o n : Nat) => leNat ((bs.drop o).take n)
    let valid := inWindow = true ∧ bs.length = 16 ∧ f 0 1 = 0x7E ∧ f 1 1 = 12 ∧ f 12 2 = (checkValue ((bs.drop 1).take 11)).toNat
    (valid → Happens .timeOfDayMessage s { s with units := { s.units with clock := { s.units.clock with
      second := f 2 6, announced := true, utcoff := BitVec.ofNat 16 (f 8 2), flags := BitVec.ofNat 8 (f 10 1),
      cls := BitVec.ofNat 8 (f 11 1) } } }) ∧
    (¬valid → ∃ t, exec .timeOfDayMessage s = .next t ∧ t.units = s.units ∧ t.time = s.time ∧ (∀ n, t.strand n = s.strand n) ∧
      lookupD 0 t.events ignoredMessages = lookupD 0 s.events ignoredMessages + 1)) ∧
  (∀ s : State, s.now = .ppsLoss → ∃ t, exec .ppsLoss s = .next t ∧ t.time = s.time ∧ (∀ n, t.strand n = s.strand n) ∧
    t.units.clock = { s.units.clock with lost := true } ∧
    lookupD 0 t.events lostEdges = lookupD 0 s.events lostEdges + 1)

/-! ## The management controller -/

/-- The mailbox, and the slot of the oldest request that is not completed (R360). -/
def box : Nat := 0x1F030000000
def boxSlot (s : State) : Nat := box + 0x1000 + 0x800 * (leNat (s.bytesAt (box + 8) 8) % 16)

/-- A request of an op is posted. -/
def Posts (s : State) (op : Nat) : Prop :=
  leNat (s.bytesAt box 8) ≠ leNat (s.bytesAt (box + 8) 8) ∧ leNat (s.bytesAt (boxSlot s) 2) = op

/-- The oldest request has been completed with a status and a reply (R360). -/
def Completes (s t : State) (status : Nat) (reply : List Byte) : Prop :=
  leNat (t.bytesAt (box + 8) 8) = (leNat (s.bytesAt (box + 8) 8) + 1) % 2 ^ 64 ∧
  leNat (t.bytesAt (boxSlot s + 2) 2) = status ∧ leNat (t.bytesAt (boxSlot s + 4) 4) = reply.length ∧
  t.bytesAt (boxSlot s + 64) reply.length = reply

/-- No byte outside the mailbox has changed. -/
def OnlyBox (s t : State) : Prop := ∀ j, j < box ∨ box + 0x10000 ≤ j → t.byteAt j = s.byteAt j

/-- R359, R360, R372: the controller answers requests for the attestation report and the time status; a request with an operand that
must be zero is malformed, and one of another op is refused. -/
def MailboxAnswers : Prop :=
  (∀ s : State, s.now = .attestationReport →
    let shows := fun (status : Nat) (reply : List Byte) => ∃ t, exec .attestationReport s = .next t ∧ Completes s t status reply ∧
      OnlyBox s t ∧ (∀ n, t.strand n = s.strand n) ∧ t.units = s.units
    let zero := leNat (s.bytesAt (boxSlot s + 8) 8) = 0 ∧ leNat (s.bytesAt (boxSlot s + 48) 16) = 0
    (leNat (s.bytesAt box 8) = leNat (s.bytesAt (box + 8) 8) → Happens .attestationReport s s) ∧
    (∀ op, Posts s op → op ≠ 1 → shows 1 []) ∧
    (Posts s 1 → ¬zero → shows 2 []) ∧
    (Posts s 1 → zero → s.pkg < 2 ^ 14 → ∃ r, shows 0 r ∧
      let n := leNat ((r.drop 72).take 4)
      r.length = 176 + 72 * n + 1280 ∧ n ≤ 6 ∧ leNat (r.take 8) = s.pkg ∧ (r.drop (144 + 72 * n)).take 32 = s.bytesAt (boxSlot s + 16) 32 ∧
        r.drop (176 + 72 * n) = fitBytes 1280 (Config.falconSign (r.take (176 + 72 * n))))) ∧
  (∀ s : State, s.now = .timeStatus →
    let shows := fun (status : Nat) (reply : List Byte) => ∃ t, exec .timeStatus s = .next t ∧ Completes s t status reply ∧
      OnlyBox s t ∧ (∀ n, t.strand n = s.strand n) ∧ t.units = s.units
    (¬Posts s 3 → Happens .timeStatus s s) ∧
    (Posts s 3 → leNat (s.bytesAt (boxSlot s + 8) 8) ≠ 0 → shows 2 []) ∧
    (Posts s 3 → leNat (s.bytesAt (boxSlot s + 8) 8) = 0 → ∃ r, shows 0 r ∧
      let c := s.units.clock
      r.length = 8 ∧ leNat (r.take 2) = c.utcoff.toNat ∧ leNat ((r.drop 2).take 1) = c.flags.toNat ∧
        leNat ((r.drop 3).take 1) = c.cls.toNat ∧ leNat (r.drop 4) = if c.lost then 1 else 0))

/-- R361, R363, R392: a reset leaves one idle colony and nothing running; the first boot request after it starts the boot strand with
the root and capabilities of the image's header, and later ones are refused. -/
def PackageBoots : Prop :=
  (∀ s : State, s.now = .reset → ∃ t, exec .reset s = .next t ∧ (∀ n, t.strand n = Strand.idle) ∧
    (∀ id, t.colony id = if id = 1 then some Colony.first else none) ∧ t.roots = [] ∧ t.tlb = [] ∧ t.mem = s.mem ∧
    t.units.control = none ∧ t.units.boot = none ∧ t.units.booted = false ∧ t.units.requests = [] ∧ t.units.lost = []) ∧
  (∀ s : State, s.now = .bootRequest →
    let shows := fun (t : State) (status : Nat) => exec .bootRequest s = .next t ∧ Completes s t status []
    let f := fun (o n : Nat) => leNat (s.bytesAt (0xFC000000000 + o) n)
    let len := leNat (s.bytesAt (boxSlot s + 8) 8)
    let root := f 16 8
    let entry : Reg := ⟨BitVec.ofNat 128 (f 32 16), true⟩
    let argument : Reg := ⟨BitVec.ofNat 128 (f 48 16), true⟩
    let formed := f 0 2 = 1 ∧ f 2 6 = 0 ∧ f 8 8 = len ∧ 128 ≤ len ∧ len ≤ 2 ^ 34 ∧ f 24 8 = 0 ∧ f 64 64 = 0
    let rooted := root % 65536 = 0 ∧ 0xFC000000000 ≤ root ∧ root + 32768 ≤ 0xFC000000000 + len
    let minted := Cap.mintable bootAuthority entry.val ∧ Cap.kind entry.val = Cap.kEntry ∧ Cap.has entry.val Cap.x ∧
      Cap.tenant entry.val = 0 ∧ Cap.cursor entry.val % 2 = 0 ∧ Cap.mintable bootAuthority argument.val ∧ Cap.kind argument.val = Cap.kMemory
    (¬Posts s 2 → Happens .bootRequest s s) ∧
    (Posts s 2 → s.units.booted → ∃ t, shows t 1 ∧ OnlyBox s t ∧ t.units = s.units ∧ ∀ n, t.strand n = s.strand n) ∧
    (Posts s 2 → s.units.booted = false → ¬(formed ∧ rooted ∧ minted) →
      ∃ t, shows t 2 ∧ OnlyBox s t ∧ t.units.booted = true ∧ ∀ n, t.strand n = s.strand n) ∧
    (Posts s 2 → s.units.booted = false → formed → rooted → minted → s.bad = [] →
      let digest := shake256 (s.bytesAt 0xFC000000000 len)
      let unsigned := Config.customerKeyFused = true ∧ Config.falconValid digest (s.bytesAt (0xFC000000000 + len) 1280) = false
      (unsigned → ∃ t, shows t 3 ∧ OnlyBox s t ∧ ∀ n, t.strand n = s.strand n) ∧
      (¬unsigned → ∃ t, shows t 0 ∧ t.units.booted = true ∧ t.units.boot = some 0 ∧
        t.units.measured = s.units.measured ++ [(Config.bootVersion, digest)] ∧
        lookupD 0 t.roots 0 = BitVec.ofNat 64 (s.pkg * 2 ^ 41 + root + 1) ∧
        Started (t.strand 0) entry .hypervisor 0 argument (Reg.ofWord 0) (Reg.ofWord 1) Reg.zero 0)))

/-! ## The host path -/

/-- An access of a function waits for an answer of another package. -/
def HostBusy (s : State) (fn : Nat) : Prop := ∃ r ∈ s.units.requests, ∃ more, r.use = .host fn more

/-- R367: a virtual function serves the one colony whose record names it. -/
def Serves (s : State) (fn id : Nat) (c : Colony) : Prop :=
  fn ≠ 0 ∧ s.colony id = some c ∧ c.vf = fn ∧ ∀ e ∈ s.units.colonies, ∀ k, e.2 = some k → k.vf = fn → e.1 = id

/-- No colony is served through a function. -/
def Unserved (s : State) (fn : Nat) : Prop := ∀ e ∈ s.units.colonies, ∀ k, e.2 = some k → k.vf ≠ fn

/-- Bytes of DRAM or a die scratchpad of this package without errors, which no core holds in update-only state. -/
def PlainBytes (s : State) (a n : Nat) : Prop :=
  s.pkg < 2 ^ 14 ∧ NoPartials s ∧ a + n ≤ 2 ^ 41 ∧ 0 < n ∧ ∀ j < n, cacheable (a + j) ∧ s.badAt (a + j) = 0

/-- Memory after a write of bytes from an address. -/
def Written (s t : State) (a : Nat) (bs : List Byte) : Prop :=
  ∀ j, t.byteAt j = if a ≤ j ∧ j < a + bs.length then bs.getD (j - a) 0 else s.byteAt j

/-- R353, R367: host reads and writes reach memory through BAR2 of function 0, or end with Completer Abort; an access through a
function with no colony is unsupported; a virtual function's BAR0 holds the counts of the sys groups. An access waits behind an
earlier one of its function. -/
def HostAccesses : Prop :=
  (∀ (s : State) (h : HostAccess), s.now = .hostRead h →
    let shows := fun (r : HostReply) => ∃ t, exec .hostRead s = .next t ∧ t.units.hostOut = s.units.hostOut ++ [r] ∧ t.mem = s.mem ∧
      ∀ n, t.strand n = s.strand n
    (HostBusy s h.fn → Happens .hostRead s { s with units := { s.units with hostWaiting := s.units.hostWaiting ++ [h] } }) ∧
    (¬HostBusy s h.fn → (h.fn = 0 ∧ h.bar0) ∨ (h.fn ≠ 0 ∧ Unserved s h.fn) → shows (.unsupported h.fn)) ∧
    (¬HostBusy s 0 → h.fn = 0 → h.bar0 = false → 2 ^ 41 < h.addr + h.n → shows (.completerAbort 0)) ∧
    (¬HostBusy s 0 → h.fn = 0 → h.bar0 = false → PlainBytes s h.addr h.n → s.pkg ∉ s.units.lost →
      shows (.data 0 (s.bytesAt h.addr h.n))) ∧
    (∀ id c, ¬HostBusy s h.fn → Serves s h.fn id c → h.bar0 →
      shows (.data h.fn (if h.addr % 8 = 0 ∧ h.addr < 128 ∧ h.n = 8 then leBytes 8 (lookupD 0 c.hostPhases (h.addr / 8))
        else List.replicate h.n 0)))) ∧
  (∀ (s : State) (h : HostAccess), s.now = .hostWrite h →
    let shows := fun (r : HostReply) => ∃ t, exec .hostWrite s = .next t ∧ t.units.hostOut = s.units.hostOut ++ [r] ∧ t.mem = s.mem ∧
      ∀ n, t.strand n = s.strand n
    (HostBusy s h.fn → Happens .hostWrite s { s with units := { s.units with hostWaiting := s.units.hostWaiting ++ [h] } }) ∧
    (¬HostBusy s h.fn → (h.fn = 0 ∧ h.bar0) ∨ (h.fn ≠ 0 ∧ Unserved s h.fn) → shows (.unsupported h.fn)) ∧
    (¬HostBusy s 0 → h.fn = 0 → h.bar0 = false → 2 ^ 41 < h.addr + h.bytes.length → shows (.completerAbort 0)) ∧
    (¬HostBusy s 0 → h.fn = 0 → h.bar0 = false → PlainBytes s h.addr h.bytes.length →
      ∃ t, exec .hostWrite s = .next t ∧ t.units.hostOut = s.units.hostOut ++ [.done 0] ∧ Written s t h.addr h.bytes ∧
        ∀ j < h.bytes.length, t.tagAt (h.addr + j) = false)) ∧
  (∀ (s : State) (fn off : Nat), s.now = .hostBarrierWrite fn off →
    let replied := fun (u : State) (r : HostReply) => { u with units := { u.units with hostOut := u.units.hostOut ++ [r] } }
    (Unserved s fn → Happens .hostBarrierWrite s (replied s (.unsupported fn))) ∧
    (∀ id c, Serves s fn id c →
      (off % 8 ≠ 0 ∨ 128 ≤ off ∨ c.hostMember = false ∨ c.job = 0 → Happens .hostBarrierWrite s (replied s (.done fn))) ∧
      (off % 8 = 0 → off < 128 → c.hostMember → c.job ≠ 0 → (∀ b ∈ s.running, s.jobOf b ≠ c.job) →
        Happens .hostBarrierWrite s (replied
          (s.withColony id (some { c with hostArrived := c.hostArrived ||| 1#16 <<< (off / 8) })) (.done fn)))))

/-! ## The fabric -/

/-- Distances between coordinates: on a line, and in a torus that is closed from three packages on (R395). -/
def lineApart (c d : Nat) : Nat := max c d - min c d
def ringApart (size c d : Nat) : Nat := if size < 3 then lineApart c d else min (lineApart c d) (size - lineApart c d)

/-- Hops between two packages of a pod of the given sizes. -/
def apart (z : Nat × Nat × Nat × Nat) (p q : Nat) : Nat :=
  lineApart (p % 4) (q % 4) + lineApart (p / 4 % 4) (q / 4 % 4) + ringApart z.2.2.1 (p / 16 % 32) (q / 16 % 32) +
    ringApart z.2.2.2 (p / 512 % 32) (q / 512 % 32)

/-- A package of the pod. -/
def InPod (z : Nat × Nat × Nat × Nat) (p : Nat) : Prop :=
  p < 2 ^ 14 ∧ p % 4 < z.1 ∧ p / 4 % 4 < z.2.1 ∧ p / 16 % 32 < z.2.2.1 ∧ p / 512 % 32 < z.2.2.2

/-- R395, R403: with every package there and every port up, a packet's next hop goes to a neighbour that is one hop nearer to its
destination, and corrects z first, then w, x and y. -/
def PacketsComeNearer : Prop :=
  ∀ (s : State) (pk : Packet),
    let z := s.units.sizes
    z.1 ≤ 4 → z.2.1 ≤ 4 → z.2.2.1 ≤ 32 → z.2.2.2 ≤ 32 → InPod z s.pkg → InPod z pk.dst → pk.dst ≠ s.pkg →
    s.units.lost = [] → s.units.ports = [] →
    ∃ dir on q, s.route pk = some (dir, on) ∧ s.neighbour dir = some q ∧ InPod z q ∧
      apart z q pk.dst + 1 = apart z s.pkg pk.dst ∧ on.dst = pk.dst ∧ on.dt = pk.dt ∧
      dir / 2 = if s.pkg / 16 % 32 ≠ pk.dst / 16 % 32 then 2 else if s.pkg / 512 ≠ pk.dst / 512 then 3
        else if s.pkg % 4 ≠ pk.dst % 4 then 0 else 1

/-- R396 to R398, R400: a port accepts a flit whose check value is right and whose number it expects, asks for replay of another one,
and passes a packet on when it has accepted all its flits. -/
def FlitsAreAccepted : Prop :=
  (∀ (s : State) (i : Nat) (f : Flit), s.now = .flitReceive i f →
    let v := s.port i
    let check := crc16 0x1021 0xFFFF (f.body ++ (leBytes 2 f.cv0.toNat ++ leBytes 2 f.cv1.toNat ++ leBytes 2 f.seq.toNat))
    let good := f.lcrc = check ∧ f.seq.toNat = v.rx
    let pieces := v.pieces ++ [f]
    let count := leNat (((pieces.headD f).body).take 16) / 2 ^ 79 % 8 + 1
    let w := { v with rx := (v.rx + 1) % 65536, acks := v.acks ++ [(true, f.seq.toNat)] }
    (v.down → Happens .flitReceive s s) ∧
    (v.down = false → ¬good → Happens .flitReceive s (s.withPort i { v with acks := v.acks ++ [(false, v.rx)] })) ∧
    (v.down = false → good → pieces.length < count → Happens .flitReceive s (s.withPort i { w with pieces := pieces })) ∧
    (v.down = false → good → count ≤ pieces.length → (packetOf pieces).ty < 13 → (∀ r, (packetOf pieces).op ≠ .combine r) →
      Happens .flitReceive s (posting
        (s.withPort i { w with pieces := [], lastWhole := f.seq.toNat, narrow := v.orderedNarrow.getD v.narrow, orderedNarrow := none })
        [.packetForward (packetOf pieces)]))) ∧
  (∀ (f : Flit) (fs : List Flit),
    let h := leNat (f.body.take 16)
    let pk := packetOf (f :: fs)
    pk.dst = h / 2 ^ 114 % 2 ^ 14 ∧ pk.src.toNat = h / 2 ^ 86 % 2 ^ 28 ∧ pk.ty = h / 2 ^ 82 % 16 ∧ pk.vc = h / 2 ^ 77 % 4 ∧
    (pk.dl ↔ h / 2 ^ 76 % 2 = 1) ∧ pk.dt = h / 2 ^ 75 % 2 ∧ (pk.mr ↔ h / 2 ^ 74 % 2 = 1) ∧ (pk.ls ↔ h / 2 ^ 73 % 2 = 1) ∧
    pk.tenant.toNat = h / 2 ^ 61 % 2 ^ 12)

/-- R401, R402: a port whose lane fails runs on one lane from the last packet that it accepted whole; an order to change its width
takes effect at a packet's end; a port that goes down discards partial packets and gives back some of those it had sent, in
order. -/
def PortsFail : Prop :=
  (∀ (s : State) (i : Nat), s.now = .laneFailure i →
    let v := s.port i
    (v.down → Happens .laneFailure s s) ∧
    (v.down = false → v.narrow = false → Happens .laneFailure s (s.withPort i { v with
      narrow := true, rx := (v.lastWhole + 1) % 65536, pieces := [], acks := v.acks ++ [(true, v.lastWhole)] })) ∧
    (v.down = false → v.narrow → ∃ t, exec .laneFailure s = .next t ∧ (t.port i).down = true ∧ (t.port i).pieces = [])) ∧
  (∀ (s : State) (i lanes : Nat), s.now = .laneWidthOrder i lanes →
    let v := s.port i
    (v.pieces = [] → Happens .laneWidthOrder s (s.withPort i { v with narrow := decide (lanes ≤ 1), orderedNarrow := none })) ∧
    (v.pieces ≠ [] → Happens .laneWidthOrder s (s.withPort i { v with orderedNarrow := some (decide (lanes ≤ 1)) }))) ∧
  (∀ (s : State) (i : Nat), s.now = .portDown i →
    let v := s.port i
    (v.down → Happens .portDown s s) ∧
    (v.down = false → ∃ es, List.Sublist es (v.retry.map fun e => Event.packetForward e.2) ∧
      Happens .portDown s (posting (s.withPort i { v with down := true, pieces := [], retry := [] }) es)))

/-- R403, R407: a packet for this package is delivered; another one leaves on a port of its next hop; a request that can take no step
is answered *unreachable*, and any other such packet, and one of a lost package, is discarded. -/
def PacketsAreForwarded : Prop :=
  ∀ (s : State) (pk : Packet), s.now = .packetForward pk →
    let src := pk.src.toNat / 16384
    let dropped := src ≠ s.pkg ∧ src ∈ s.units.lost
    let stuck := pk.dst ∈ s.units.lost ∨ s.route pk = none
    (dropped → Happens .packetForward s s) ∧
    (¬dropped → pk.dst = s.pkg → pk.ty = 0 ∨ pk.ty = 1 ∨ pk.ty = 3 → pk.op = .write ∨ pk.op = .frd ∨ (∃ n, pk.op = .read n) →
      Happens .packetForward s (posting s [.remoteRequest pk])) ∧
    (¬dropped → pk.dst = s.pkg → pk.ty = 2 ∨ pk.ty = 4 → pk.op = .accepted ∨ (∃ v, pk.op = .value v) →
      Happens .packetForward s (posting s [.remoteAnswer pk])) ∧
    (∀ a, ¬dropped → pk.dst = s.pkg → pk.op = .comb a → Happens .packetForward s (posting s [.combSplit a])) ∧
    (¬dropped → pk.dst ≠ s.pkg → stuck → Packet.isRequest pk = false → Happens .packetForward s s) ∧
    (¬dropped → pk.dst ≠ s.pkg → stuck → Packet.isRequest pk → src = s.pkg → ∃ no,
      Happens .packetForward s (posting s [.remoteAnswer no]) ∧ no.op = .unreachable ∧ no.txn = pk.txn) ∧
    (∀ dir on, ¬dropped → pk.dst ≠ s.pkg → pk.dst ∉ s.units.lost → s.route pk = some (dir, on) →
      ∃ t i, exec .packetForward s = .next t ∧ i / 12 = dir ∧ (s.port i).down = false ∧
        t.units.fabricOut = s.units.fabricOut ++ [(i, on)] ∧ (∀ n, t.strand n = s.strand n) ∧ t.mem = s.mem)

/-- DRAM of a channel group that a tenant's colony holds (R405). -/
def Granted (s : State) (tenant : BitVec 12) (a : Nat) : Prop :=
  a < 2 ^ 40 ∧ ∃ e ∈ s.units.colonies, ∃ c, e.2 = some c ∧ c.tenant = tenant ∧ c.chan.getLsbD (a / 2 ^ 34) = true

/-- R404, R405: a request of another package is performed at its home here only in resources of its tenant, and answered by one packet;
messages, deposits and worklist counts are passed to the units that they concern. -/
def RequestsAreServed : Prop :=
  ∀ (s : State) (pk : Packet), s.now = .remoteRequest pk →
    let a := pk.addr
    let src := pk.src.toNat / 16384
    let answers := fun (t : State) (ty : Nat) (op : PacketOp) (data : List Byte) => ∃ r : Packet,
      t.agenda = s.agenda ++ [.packetForward r] ∧ r.ty = ty ∧ r.op = op ∧ r.data = data ∧ r.txn = pk.txn ∧ r.dst = src ∧
        r.addr = pk.src.toNat % 16384
    let within := fun (n : Nat) => Granted s pk.tenant a ∧ Granted s pk.tenant (a + n - 1) ∧ PlainBytes s a n ∧ pk.mirrored = false
    (∀ n, pk.ty = 1 → pk.op = .read n → a < 2 ^ 40 → ¬Granted s pk.tenant a → ∃ t, exec .remoteRequest s = .next t ∧
      answers t 7 (.fail cXlat (BitVec.ofNat 64 (s.pkg * 2 ^ 41 + a))) [] ∧ t.mem = s.mem ∧ ∀ n, t.strand n = s.strand n) ∧
    (pk.ty = 0 → pk.op = .write → a < 2 ^ 40 → ¬Granted s pk.tenant a → ∃ t, exec .remoteRequest s = .next t ∧
      answers t 7 (.fail cXlat (BitVec.ofNat 64 (s.pkg * 2 ^ 41 + a))) [] ∧ t.mem = s.mem ∧ ∀ n, t.strand n = s.strand n) ∧
    (∀ n, pk.ty = 1 → pk.op = .read n → within n → ∃ t, exec .remoteRequest s = .next t ∧
      answers t 2 (.value 0) (s.bytesAt a n) ∧ t.mem = s.mem ∧ ∀ n, t.strand n = s.strand n) ∧
    (pk.ty = 0 → pk.op = .write → within pk.data.length → ∃ t, exec .remoteRequest s = .next t ∧
      answers t 7 .accepted [] ∧ Written s t a pk.data) ∧
    (∀ op k y, pk.ty = 3 → pk.op = .amo op k y → k = 4 ∨ k = 8 → within k → ∃ t, exec .remoteRequest s = .next t ∧
      let old := leNat (s.bytesAt a k)
      answers t 4 (.value (BitVec.ofNat 64 old)) [] ∧ Written s t a (leBytes k (amoOp op.toNat k old y.toNat))) ∧
    (∀ k old new, pk.ty = 3 → pk.op = .cas k old new → k = 4 ∨ k = 8 → within k → ∃ t, exec .remoteRequest s = .next t ∧
      let was := leNat (s.bytesAt a k)
      answers t 4 (.value (BitVec.ofNat 64 was)) [] ∧
        Written s t a (if was = old.toNat then leBytes k new.toNat else s.bytesAt a k)) ∧
    (∀ m target, pk.op = .message m target →
      Happens .remoteRequest s (posting s [.messageAccept { target := target, msg := m, txn := pk.txn }])) ∧
    (∀ n v target, pk.op = .deposit n v target →
      Happens .remoteRequest s (posting s [.depositArrival { target := target, n := n, value := v, src := pk.src, txn := pk.txn }])) ∧
    (∀ c, pk.op = .wlCount c → Happens .remoteRequest s (posting s [.countApply c])) ∧
    (∀ t, pk.op = .wlEnd t → Happens .remoteRequest s (posting s [.taskEndApply { t with holder := src }]))

/-- R406: the secondary's report of a mirrored write lets the primary perform its own copy, and is kept when it comes first. -/
def MirrorsReport : Prop :=
  ∀ (s : State) (pk : Packet), s.now = .mirrorReport pk →
    ((∀ e ∈ s.units.mirrors, ¬(e.2.mr = false ∧ e.2.src = pk.src ∧ e.2.addr = pk.addr)) →
      Happens .mirrorReport s { s with units := { s.units with mirrors := s.units.mirrors ++ [(5, pk)] } }) ∧
    (∀ path q, s.units.mirrors = [(path, q)] → path ≠ 6 → q.mr = false → q.src = pk.src → q.addr = pk.addr → q.ty = 0 → q.op = .write →
      q.src.toNat / 16384 ≠ s.pkg → PlainBytes s q.addr q.data.length →
      ∃ t, exec .mirrorReport s = .next t ∧ t.units.mirrors = [] ∧ Written s t q.addr q.data)

/-- R404, R408, R420: an answer ends the request that it belongs to, and one that nothing waits for is discarded; an *unreachable*
answer marks the destination lost, and data with a wrong check value is told as `integ` (R357). -/
def AnswersEndRequests : Prop :=
  ∀ (s : State) (pk : Packet), s.now = .remoteAnswer pk →
    (pk.op ≠ .probeAnswer → (∀ r ∈ s.units.requests, r.txn ≠ pk.txn ∧ r.txn % 256 ≠ pk.txn) → Happens .remoteAnswer s s) ∧
    (∀ r, r ∈ s.units.requests → r.txn = pk.txn → (∀ q ∈ s.units.requests, q.txn = pk.txn → q = r) → pk.op ≠ .probeAnswer →
      let rest := s.units.requests.filter fun q => q.txn ≠ pk.txn
      (r.txn ∈ s.units.lostAnswers → Happens .remoteAnswer s s) ∧
      (r.txn ∉ s.units.lostAnswers → pk.op ≠ .unreachable → r.use = .instr → (s.strand r.sid).live → r.txn ∈ (s.strand r.sid).asked →
        ∃ t, exec .remoteAnswer s = .next t ∧ t.units.requests = rest ∧ t.mem = s.mem ∧
          (∃ said, t.strand r.sid = { s.strand r.sid with
              answers := (s.strand r.sid).answers ++ [⟨pk.txn, said, pk.data, pk.tag⟩] } ∧
            (pk.ty ≠ 2 ∨ pk.wrong = [] → said = pk.op) ∧
            ∀ k ks, pk.ty = 2 → pk.wrong = k :: ks → ∃ off : Int, said = .failAt cInteg off ∧
              (r.packet.addr : Int) + off = ((r.packet.addr / 32 + k) * 32 : Nat)) ∧
          (∀ n, n ≠ r.sid → t.strand n = s.strand n) ∧
          t.agenda = s.agenda ++ (match r.packet.op with
            | .read _ => [.loadValueReturn r.sid]
            | _ => [])) ∧
      (∀ c v, r.txn ∉ s.units.lostAnswers → pk.op = .fail c v → pk.ty ≠ 2 → r.use = .put → (s.strand r.sid).live →
        (∀ b ∈ s.running, (false, r.txn) ∉ (s.strand b).owed) →
        ∃ t, exec .remoteAnswer s = .next t ∧ t.units.requests = rest ∧ t.mem = s.mem ∧
          t.strand r.sid = { s.strand r.sid with dropped := (s.strand r.sid).dropped ++
            [(c, BitVec.ofNat 64 ((r.packet.dst * 2 ^ 41 + r.packet.addr) % 2 ^ 55), r.packet.dst)] }) ∧
      (r.txn ∉ s.units.lostAnswers → pk.op = .unreachable → pk.ty ≠ 2 → r.packet.dst ≠ s.pkg → r.use = .put →
        (∀ q ∈ s.units.requests, q = r) → s.units.reductions = [] → s.units.remoteTerms = [] → s.dies = [] →
        ∃ t, exec .remoteAnswer s = .next t ∧ r.packet.dst ∈ t.units.lost ∧ t.units.requests = []))

/-- R407, R420: a request without an answer has its destination probed; a probe is answered; one that is not makes the package lost, as
a notice of another package does, and the strands of the jobs that it shares take interrupt 0x46. -/
def PeersAreProbed : Prop :=
  (∀ (s : State) (txn : Nat), s.now = .requestTimeout txn →
    ((∀ r ∈ s.units.requests, r.txn ≠ txn) → Happens .requestTimeout s s) ∧
    (∀ r, r ∈ s.units.requests → r.txn = txn → (∀ q ∈ s.units.requests, q.txn = txn → q = r) →
      (r.packet.dst ≠ s.pkg → ∃ pk, exec .requestTimeout s = .next (posting { s with units := { s.units with
            requests := s.units.requests.map (fun (q : Request) => if q.txn = txn then { q with probed := some s.time } else q)
            probes := if s.units.probes.any (fun p => p.1 = r.packet.dst) then s.units.probes
              else s.units.probes ++ [(r.packet.dst, s.time)] } } [.packetForward pk]) ∧
          pk.op = .probe ∧ pk.dst = r.packet.dst ∧ pk.ty = 12 ∧ pk.vc = 3) ∧
      (∀ op k y, r.packet.dst = s.pkg → r.use = .instr → r.packet.op = .amo op k y → (s.strand r.sid).live →
        txn ∈ (s.strand r.sid).asked →
        ∃ t, exec .requestTimeout s = .next t ∧ t.units.requests = s.units.requests.filter (fun q => q.txn ≠ txn) ∧
          t.strand r.sid = { s.strand r.sid with answers := (s.strand r.sid).answers ++
            [⟨txn, .fail cEcc (BitVec.ofNat 64 (r.packet.dst * 2 ^ 41 + r.packet.addr)), [], false⟩] }))) ∧
  (∀ (s : State) (src : Nat), s.now = .probe src → ∃ pk, Happens .probe s (posting s [.packetForward pk]) ∧
    pk.op = .probeAnswer ∧ pk.dst = src ∧ pk.ty = 12 ∧ pk.vc = 3) ∧
  (∀ (s : State) (pkg : Nat) (i : Instr),
    (i = .probeTimeout ∧ s.now = .probeTimeout pkg ∧ ∃ p ∈ s.units.probes, p.1 = pkg) ∨
      (i = .peerDownNotice ∧ s.now = .peerDownNotice pkg) →
    (pkg ∈ s.units.lost → pkg ≠ s.pkg → ∃ t, exec i s = .next t ∧ t.units.lost = s.units.lost ∧ (∀ n, t.strand n = s.strand n) ∧
      t.mem = s.mem) ∧
    (pkg ∉ s.units.lost → pkg ≠ s.pkg → pkg ≠ s.pkg ^^^ 1 → s.units.requests = [] → s.units.reductions = [] → s.units.remoteTerms = [] →
      s.dies = [] → ∃ t, exec i s = .next t ∧ t.units.lost = s.units.lost ++ [pkg] ∧ t.mem = s.mem ∧
        ∀ b ∈ s.running, t.strand b =
          if s.jobOf b = 0 then s.strand b else (s.strand b).interrupt cPeerDown (BitVec.ofNat 64 pkg))) ∧
  (∀ (s : State) (pkg : Nat), s.now = .probeTimeout pkg → (∀ p ∈ s.units.probes, p.1 ≠ pkg) → Happens .probeTimeout s s)

/-! ## Combining -/

/-- The E-die that holds the channel of a DRAM address (R341). -/
def eDie (a : Nat) : Nat := (4 * (a / 2 ^ 34 % 64) + ((a / 2 ^ 7 % 4) ^^^ (a / 2 ^ 16 % 4))) / 64

/-- A request for a home of this package stands at the router of the E-die that holds the address's channel. -/
def AtHomeRouter (s : State) (e : Nat) (r : CombReq) : Prop := pkgOf r.addr = s.pkg ∧ eDie (localOf r.addr) = e

/-- The state with a router replaced. -/
def withRouter (s : State) (e : Nat) (v : RouterState) : State :=
  { s with units := { s.units with routers := storeAt RouterState.empty e v s.units.routers } }

/-- R412 to R415: a request without a window passes on by the shorter way round the ring of E-dies, to the home at the end; one with a
window is held, and joins one that is held when they agree and there is an entry for their group. -/
def RequestsAreHeld : Prop :=
  ∀ (s : State) (e port : Nat) (r : CombReq), e < 4 → pkgOf r.addr = s.pkg → s.now = .combineHold e port r →
    let te := eDie (localOf r.addr)
    let v := s.router e
    (r.win = 0 →
      (te = e → ∃ out, Happens .combineHold s (posting s [.combinedAtHome { r with out := out }])) ∧
      (te = (e + 1) % 4 ∨ te = (e + 2) % 4 → ∃ out, Happens .combineHold s (posting s [.combineHold ((e + 1) % 4) 26 { r with out := out }])) ∧
      (te = (e + 3) % 4 → ∃ out, Happens .combineHold s (posting s [.combineHold ((e + 3) % 4) 27 { r with out := out }]))) ∧
    (r.win ≠ 0 →
      (v.held = [] → ∃ h, Happens .combineHold s (withRouter s e { v with held := [h] }) ∧ h.port = port ∧ h.group = none ∧
        h.until_ = s.time + r.win * 1000 / 1700 ∧ { h.req with out := r.out } = r) ∧
      (∀ x, v.held = [x] → x.group = none → v.comb = [] → x.req.leaves + r.leaves < 8 →
        let agree := x.req.addr = r.addr ∧ x.req.k = r.k ∧ x.req.tenant = r.tenant
        (∀ out, AtHomeRouter s e r → agree → x.req.out = out → out = 24 + ((localOf r.addr / 2 ^ 7 % 8) ^^^ (localOf r.addr / 2 ^ 33 % 8)) % 2 →
          ∃ t h key entry, exec .combineHold s = .next t ∧ (t.router e).held = [{ x with group := some key }, h] ∧
            h.group = some key ∧ h.port = port ∧ { h.req with out := r.out } = r ∧ (t.router e).comb = [(key, entry)] ∧ key / 256 = out) ∧
        (¬agree → ∃ h, Happens .combineHold s (withRouter s e { v with held := [x, h] }) ∧ h.port = port ∧ h.group = none ∧
          { h.req with out := r.out } = r)))

/-- R414 to R416: a request that is alone leaves unchanged; a group of two leaves as one request with the sum of their operands, the
leaves of both and the smaller window, and the comb table keeps each member's sum in requester order. -/
def GroupsDepart : Prop :=
  ∀ (s : State) (e i : Nat), s.now = .combineDepart e i →
    let v := s.router e
    (v.held.length ≤ i → Happens .combineDepart s s) ∧
    (∀ h, v.held[i]? = some h → h.group = none → AtHomeRouter s e h.req →
      Happens .combineDepart s (posting (withRouter s e { v with held := v.held.erase h }) [.combinedAtHome h.req])) ∧
    (∀ a b key, v.held = [a, b] → i < 2 → a.group = some key → b.group = some key → AtHomeRouter s e a.req →
      b.req.addr = a.req.addr → b.req.k = a.req.k → a.req.k = 4 ∨ a.req.k = 8 → a.port < 28 → b.port < 28 →
      ∃ t c entry, exec .combineDepart s = .next t ∧ t.agenda = s.agenda ++ [.combinedAtHome c] ∧ (t.router e).held = [] ∧
        lookupD none ((t.router e).comb.map fun x => (x.1, some x.2)) key = some entry ∧
        entry.members = (if a.port ≤ b.port then [(a.port, a.req, a.req.total), (b.port, b.req, b.req.total)]
          else [(b.port, b.req, b.req.total), (a.port, a.req, a.req.total)]) ∧
        c.addr = a.req.addr ∧ c.k = a.req.k ∧ c.leaves = a.req.leaves + b.req.leaves ∧ c.win = min a.req.win b.req.win ∧
        c.total.toNat = (a.req.total.toNat + b.req.total.toNat) % 2 ^ (8 * a.req.k) ∧
        (c.recs.map (·.1)).head? = some { pkg := s.pkg, router := e, stage := key / 256, entry := key % 256 })

/-- A reply to a leaf of this package (R417). -/
def RepliesTo (e : Event) (txn : Nat) (op : PacketOp) : Prop := ∃ pk, e = .remoteAnswer pk ∧ pk.txn = txn ∧ pk.op = op

/-- R417 to R419: the home adds the total of a request to memory and answers the old value; the router that formed a group gives each
member the old value with the operands before it added, by its record or an echo of it, or *lost* with base and total where both
are gone; a lost requester map leaves the members without an answer. -/
def SumsAreSplit : Prop :=
  (∀ (s : State) (r : CombReq), s.now = .combinedAtHome r → r.recs = [] → r.src.toNat / 16384 = s.pkg → r.k = 4 ∨ r.k = 8 →
    let a := localOf r.addr
    (a < 2 ^ 40 → PlainBytes s a r.k → ∃ t ev, exec .combinedAtHome s = .next t ∧ t.agenda = s.agenda ++ [ev] ∧
      let old := leNat (s.bytesAt a r.k)
      RepliesTo ev r.txn (.value (BitVec.ofNat 64 old)) ∧ Written s t a (leBytes r.k ((old + r.total.toNat) % 2 ^ (8 * r.k)))) ∧
    (2 ^ 40 ≤ a → ∃ ev, Happens .combinedAtHome s (posting s [ev]) ∧ RepliesTo ev r.txn (.fail cXlat 0))) ∧
  (∀ (s : State) (a : CombAnswer), s.now = .combSplit a →
    let v := s.router a.tag.router
    let key := a.tag.stage * 256 + a.tag.entry
    ((∀ e ∈ v.comb, e.1 ≠ key) → Happens .combSplit s s) ∧
    (∀ entry p q m n M N, v.comb.find? (fun e => e.1 = key) = some (key, entry) → entry.members = [(p, m, M), (q, n, N)] →
      m.recs = [] → n.recs = [] → m.src.toNat / 16384 = s.pkg → n.src.toNat / 16384 = s.pkg → m.k = 4 ∨ m.k = 8 →
      a.base.toNat < 2 ^ (8 * m.k) →
      let freed := withRouter s a.tag.router { v with comb := removeAt key v.comb }
      let both := fun (x y : PacketOp) => ∃ e f, Happens .combSplit s (posting freed [e, f]) ∧ RepliesTo e m.txn x ∧ RepliesTo f n.txn y
      let sums := fun (u : Word) => both (.value a.base) (.value (BitVec.ofNat 64 ((a.base.toNat + u.toNat) % 2 ^ (8 * m.k))))
      (entry.mapLost → Happens .combSplit s freed) ∧
      (entry.mapLost = false → a.lost → both (.lost a.base a.total) (.lost a.base a.total)) ∧
      (entry.mapLost = false → a.lost = false → a.fault = none → entry.recordLost = false → sums M) ∧
      (∀ us, entry.mapLost = false → a.lost = false → a.fault = none → entry.recordLost → a.echoLost = false →
        a.echoes = [(a.tag, us)] → us.length = 2 → sums (us.headD 0)) ∧
      (entry.mapLost = false → a.lost = false → a.fault = none → entry.recordLost → a.echoLost →
        both (.lost a.base a.total) (.lost a.base a.total)) ∧
      (∀ c, entry.mapLost = false → a.lost = false → a.fault = some c → c ≠ cPeer → entry.recordLost = false →
        both (.fail c 0) (.fail c 0))))

/-! ## Errors -/

/-- R280: the colour and the address of the set of a DRAM address. -/
def colour (a : Nat) : Nat := (a / 2 ^ 16 % 64) ^^^ (a / 2 ^ 22 % 64)

/-- R275, R280: a tag parity error reports the set by a machine check, but for a clean line of colour 0; it kills the tenant that holds the
colour. With no control strand a machine check stops the package. -/
def ParityKills : Prop :=
  ∀ (s : State) (line : Nat), s.now = .l2TagParityError line →
    let dirty := (lookupD L2Line.empty s.units.l2 line).dirty ≠ 0
    let u : State := { s with units := { s.units with l2 := storeAt L2Line.empty line L2Line.empty s.units.l2 } }
    let c := colour (line * 128)
    let e := lookupD 0 s.units.colours c
    let held := c ≠ 0 ∧ e / 4096 = 1
    let check := BitVec.ofNat 64 (s.globalOf (setAddress (line * 128)))
    (c = 0 → ¬dirty → Happens .l2TagParityError s u) ∧
    (¬dirty → c ≠ 0 → ¬held → s.units.control = none → exec .l2TagParityError s = .fault .machineCheckStop) ∧
    (∀ b, s.units.control = some b → (s.strand b).live →
      (¬dirty → c ≠ 0 → ¬held → Happens .l2TagParityError s (u.withStrand b ((s.strand b).interrupt cMachine check))) ∧
      (dirty → ¬held → line < 2 ^ 33 → ∃ t, exec .l2TagParityError s = .next t ∧ t.strand b = (s.strand b).interrupt cMachine check ∧
        ∀ j, j / 128 ≠ line → t.byteAt j = s.byteAt j) ∧
      (held → (s.strand b).tid ≠ BitVec.ofNat 12 e → s.units.launches = [] → s.units.rings = [] → s.units.queues = [] → (∀ q ∈ s.quads, q.2.deferred = []) →
        (∀ n ∈ s.running, (s.strand n).members = 0 ∧ (s.strand n).tasks = [] ∧ (s.strand n).pop = none) →
        ∃ t, exec .l2TagParityError s = .next t ∧
          ∀ n ∈ s.running, (s.strand n).tid = BitVec.ofNat 12 e →
            (s.strand n).asked = [] ∧ (s.strand n).gangIssued = false → (t.strand n).live = false))

/-- R342, R357, R430: scrubbing counts what it corrects; an uncorrectable error makes its unit fail, a sector of memory or of an L1
among them, as data that the code has miscorrected does by its check value; and one in a router buffer loses the
answer of a request and raises a machine check. -/
def ErrorsStrike : Prop :=
  (∀ (s : State) (channel : Nat), s.now = .patrolScrub channel → ∃ n, Happens .patrolScrub s (s.countPackage 0x2004 n)) ∧
  (∀ (s : State) (u : ErrUnit), s.now = .uncorrectableError u →
    let cause := fun (integ : Bool) => if integ then cInteg else cEcc
    (∀ pa integ, u = .sector pa integ → ∃ t, exec .uncorrectableError s = .next t ∧ t.mem = s.mem ∧
      (∀ n, t.strand n = s.strand n) ∧
      ∀ j, t.badAt j = if canon j / 32 = canon pa / 32 then cause integ else s.badAt j) ∧
    (∀ pa bytes check, u = .miscorrected pa bytes check → bytes.length = 32 → ∃ t, exec .uncorrectableError s = .next t ∧
      (∀ n, t.strand n = s.strand n) ∧
      ∀ j, t.badAt j = (if canon j / 32 ≠ canon pa / 32 then s.badAt j else if checkValue bytes = check then 0 else cInteg) ∧
        t.byteAt j = if canon j / 32 = canon pa / 32 then bytes.getD (canon j % 32) 0 else s.byteAt j) ∧
    (∀ core line sector integ, u = .cached core line sector integ → sector < 4 →
      ∃ t, exec .uncorrectableError s = .next t ∧ t.mem = s.mem ∧ t.bad = s.bad ∧ (∀ n, t.strand n = s.strand n) ∧
        let l := lookupD L1Line.empty (s.core core).lines line
        let k := lookupD L1Line.empty (t.core core).lines line
        k.bytes = l.bytes ∧ k.valid = l.valid ∧
          ∀ j < 4, lookupD 0 k.fails j = if j = sector ∧ l.valid.getLsbD sector then cause integ else lookupD 0 l.fails j) ∧
    (∀ sid tile unit integ, u = .tileUnit sid tile unit integ → tile < 8 → unit < 256 →
      ∃ t, exec .uncorrectableError s = .next t ∧ t.bad = s.bad ∧
        ∀ a b c, b < 8 → c < 256 → lookupD 0 t.badTiles (tileUnitKey a b c) =
          if a = sid ∧ b = tile ∧ c = unit then cause integ else lookupD 0 s.badTiles (tileUnitKey a b c)) ∧
    (∀ sid acc row integ, u = .accRow sid acc row integ → acc < 2 → row < 64 →
      ∃ t, exec .uncorrectableError s = .next t ∧ t.bad = s.bad ∧
        ∀ a b c, b < 2 → c < 64 → lookupD 0 t.badRows (accRowKey a b c) =
          if a = sid ∧ b = acc ∧ c = row then cause integ else lookupD 0 s.badRows (accRowKey a b c)) ∧
    (∀ txn b r, u = .routerBuffer txn → s.units.control = some b → (s.strand b).live →
      s.units.requests.find? (fun q => q.txn = txn) = some r →
      ∃ t, exec .uncorrectableError s = .next t ∧ t.units.lostAnswers = s.units.lostAnswers ++ [txn] ∧
        t.strand b = (s.strand b).interrupt cMachine (BitVec.ofNat 64 ((r.packet.dst * 2 ^ 41 + r.packet.addr) / 128 * 128))) ∧
    (∀ tag, u = .record tag → ∃ t, exec .uncorrectableError s = .next t ∧
      (t.router tag.router).comb = (s.router tag.router).comb.map fun e =>
        if e.1 = tag.stage * 256 + tag.entry then (e.1, { e.2 with recordLost := true }) else e) ∧
    (∀ tag, u = .requesterMap tag → ∃ t, exec .uncorrectableError s = .next t ∧
      (t.router tag.router).comb = (s.router tag.router).comb.map fun e =>
        if e.1 = tag.stage * 256 + tag.entry then (e.1, { e.2 with mapLost := true }) else e) ∧
    (∀ scope g check, u = .contribution scope g check → (s.redGroup (redKey (g / 16) scope (g % 16))).parts = [] →
      let dests := (s.redGroup (redKey (g / 16) scope (g % 16))).dests
      let bit := groupBit scope (g % 16)
      (∀ d ∈ dests, (s.strand d.1).live ∧ lookupD 0 (s.strand d.1).redOpen bit ≠ 0) →
      ∃ t, exec .uncorrectableError s = .next t ∧ t.mem = s.mem ∧ (∀ n, (∀ d ∈ dests, d.1 ≠ n) → t.strand n = s.strand n) ∧
        ∀ d ∈ dests, lookupD 0 (t.strand d.1).redOpen bit = 0 ∧
          lookupD 0 (t.strand d.1).redStatus bit = BitVec.ofNat 64 (2 ^ 62 + (cause check).toNat)))

/-! ## Translation, fetching and steps -/

/-- An entry of a page table as a walk reads it: 8 bytes at its home, in a sector without errors. -/
def Pte (s : State) (table index : Nat) (e : Word) : Prop :=
  s.badAt (table + 8 * index) = 0 ∧ e = BitVec.ofNat 64 (leNat (s.bytesAt (table + 8 * index) 8))

/-- R292: an entry that points to a table, and one that maps a page. -/
def Points (s : State) (e : Word) : Prop :=
  e.toNat % 4 = 1 ∧ pteReserved e = false ∧ ptePa e / 2 ^ 41 % 2 ^ 14 = s.pkg ∧ localOf (ptePa e) < 2 ^ 40
def MapsPage (e : Word) : Prop := e.toNat % 4 = 3 ∧ pteReserved e = false ∧ pteM e = false

/-- R292, R293, R392: a walk reads one entry of each level, by bits 47:36, 35:25 and 24:16 of the address, and ends at a leaf of level 1
or 2; an entry that is not valid or of the wrong sort raises `xlat` with the address. -/
def WalksTables : Prop :=
  ∀ (s : State) (t : BitVec 12) (a : Nat) (e0 : Word), NoPartials s → a < 2 ^ 48 →
    let root := localOf ((lookupD 0 s.roots t.toNat).toNat - 1)
    let i1 := a / 2 ^ 25 % 2 ^ 11
    let i2 := a / 2 ^ 16 % 2 ^ 9
    let t1 := localOf (ptePa e0)
    let granted := fun (p : Nat) => pkgOf p ≠ s.pkg ∨ s.units.boot = some s.cur ∨ Granted s t (localOf p)
    let fails := ∃ u, walk t a s = .error (.trap cXlat (BitVec.ofNat 64 a) none) u ∧ u.mem = s.mem
    (lookupD 0 s.roots t.toNat = 0 → fails) ∧
    ((lookupD 0 s.roots t.toNat).toNat % 2 = 1 → Pte s root (a / 2 ^ 36) e0 →
      (e0.toNat % 4 ≠ 1 → fails) ∧
      (∀ e1, Points s e0 → Pte s t1 i1 e1 →
        (e1.toNat % 2 = 0 → fails) ∧
        (MapsPage e1 → ptePa e1 % 2 ^ 25 ≠ 0 → fails) ∧
        (MapsPage e1 → ptePa e1 % 2 ^ 25 = 0 → localOf (ptePa e1) < 2 ^ 40 → granted (ptePa e1 + a % 2 ^ 25) →
          ∃ u, walk t a s = .ok (e1, 1, t1 + 8 * i1) u ∧ u.mem = s.mem) ∧
        (∀ e2, Points s e1 → Pte s (localOf (ptePa e1)) i2 e2 →
          (e2.toNat % 4 ≠ 3 → fails) ∧
          (MapsPage e2 → localOf (ptePa e2) < 2 ^ 40 → granted (ptePa e2 + a % 2 ^ 16) →
            ∃ u, walk t a s = .ok (e2, 2, localOf (ptePa e1) + 8 * i2) u ∧ u.mem = s.mem))))

/-- R24, R79, R148: an instruction is fetched word by word through the PCC, as the strand's core sees memory, up to its base word;
while the core's L1 instruction cache holds a line, its words are those that the line was filled with. -/
def FetchReadsWords : Prop :=
  (∀ (s : State) (ws : List IWord) (place : Nat → Nat), NoPartials s → (s.core (coreOf s.cur)).code = [] → 0 < ws.length → ws.length ≤ 5 →
    (∀ k < ws.length, isChainWord (ws.getD k 0) = decide (k + 1 < ws.length)) →
    (∀ k < ws.length, let va : Nat := (s.self.pc + 2 * k) % 2 ^ 48
      Cap.base s.self.pcc.val ≤ (va : Int) ∧ (va : Int) + 2 ≤ Cap.top s.self.pcc.val ∧ cacheable (place k) ∧ s.badAt (place k) = 0 ∧
      s.viewBytes (coreOf s.cur) (place k) 2 = leBytes 2 (ws.getD k 0).toNat ∧
      ∃ p e, Maps s (Cap.tenant s.self.pcc.val) va Cap.x p e ∧ pkgOf p = s.pkg ∧ localOf p = place k) →
    ∃ u, fetch s = .ok ws u ∧ u.self = { s.self with opIndex := 0, ir := ws } ∧ u.cur = s.cur ∧ u.mem = s.mem ∧ u.units = s.units ∧
      ∀ b, b ≠ s.cur → u.strand b = s.strand b) ∧
  (∀ (s : State) (va p : Nat) (tenant : BitVec 12),
    let line := lookupD [] (s.core (coreOf s.cur)).code (p / 128)
    line ≠ [] → fetchBytes va p tenant s = .ok ((line.drop (p % 128)).take 2) s)

/-- It is the strands' turn: no eviction comes first, and no event, as `turns` says or because none is there. -/
def StrandsTurn (s v : State) : Prop :=
  s.evictPlan = [] ∧ ∃ turns, v = { s with turns := turns } ∧
    (s.turns = true :: turns ∨ ((s.turns = false :: turns ∨ s.turns = [] ∧ turns = []) ∧ s.agenda = [] ∧ v.dueEvent = none))

/-- A strand that runs its next instruction: it is not halted, stopped, or at a boundary at which something else comes first. -/
def Runs (p : State) : Prop :=
  let t := p.self
  t.halted = false ∧ p.decodeStopped p.cur = false ∧ t.pop = none ∧ t.reissue = [] ∧
    (t.asked = [] → t.gangIssued = false → t.doomed = false ∧ t.gangFault = none ∧ t.dueInterrupts p.time = [])

/-- What a step makes of an outcome of `exec`: after a strand's turn, time passes and the turn goes on. -/
def ticked (turn : Bool) : Host.Outcome State Fault Refusal → Host.Outcome State Fault Refusal
  | .next u => .next (u.tick turn)
  | .fault f => .fault f
  | .refused r => .refused r

/-- R146: the input of a memory port by which an event's writes arrive: quad window, copy, remote, host. -/
def inputOf (e : Event) : Option Nat :=
  match e with
  | .scratchpadWriteArrival w => some (if w.path = 2 then 1 else if w.path = 5 then 2 else if w.path = 6 then 3 else 0)
  | .copyCommand _ => some 1
  | .remoteRequest _ => some 2
  | .hostWrite _ => some 3
  | _ => none

/-- A step runs the instruction that the words at the program counter decode to, or raises what decode refuses them with; an event
runs its own row, the oldest one but for writes at memory ports, which arrive in the order of R146. Beside that a step only lets time pass and turns move on. -/
def StepRunsDecoded : Prop :=
  (∀ (s v u : State) (sid : Nat) (ws : List IWord), StrandsTurn s v → s.turnFrom s.cur = some sid → Runs { v with cur := sid } →
    fetch { v with cur := sid } = .ok ws u →
    (∀ i, decodeWords ws = some (.ok i) → step s = ticked true (exec (selectRow i u) u)) ∧
    (∀ e, decodeWords ws = some (.error e) →
      step s = ticked true (takeCause u u fetchDesc (if e.isPfx then cPfx else cIll) e.value none))) ∧
  (∀ (s : State) (turns : List Bool) (e : Event) (i : Instr), s.evictPlan = [] →
    s.turns = false :: turns ∨ s.turns = [] ∧ turns = [] → nextEvent s.agenda = some e → e.row = some i →
    step s = ticked false (exec i { s with turns := turns, agenda := s.agenda.erase e, now := e })) ∧
  (∀ (e : Event) (es : List Event),
    (inputOf e = none → nextEvent (e :: es) = some e) ∧
    (∀ i, inputOf e = some i → ∃ f j, nextEvent (e :: es) = some f ∧ f ∈ e :: es ∧ inputOf f = some j ∧ j ≤ i ∧
      ∀ g ∈ es, ∀ k, inputOf g = some k → j ≤ k)) ∧
  (∀ (u : State) (turn : Bool), (u.tick turn).mem = u.mem ∧ (∀ n, (u.tick turn).strand n = u.strand n) ∧
    (u.tick turn).steps = u.steps + 1 ∧ u.time ≤ (u.tick turn).time)

/-! ## Encodings -/

/-- R24 to R38: the words of a well-formed instruction decode to it, also from memory with anything behind them. -/
def EncodeDecode : Prop :=
  ∀ i : Instr, i.wf = true → legal i = true → i.fits = true →
    ∃ ws, encode i = some ws ∧ ws.length ≤ 5 ∧ decodeWords ws = some (.ok i) ∧
      ∀ rest, decode (wordsToBytes ws ++ rest) = some (.ok (i, rest))

/-- R24, R27, R38: what decodes is well-formed; its last word is the only base word, and no more words than five make an instruction. -/
def DecodedIsWellFormed : Prop :=
  ∀ (ws : List IWord) (i : Instr), decodeWords ws = some (.ok i) →
    i.wf = true ∧ legal i = true ∧ ∃ n < 5, n < ws.length ∧ (∀ k < n, 0x3C ≤ wordMajor (ws.getD k 0)) ∧ wordMajor (ws.getD n 0) < 0x3C

/-- Worked encodings: R39 and its malformed sequences, and one word or chain of each chapter's listings. -/
def WorkedEncodings : Prop :=
  decodeWords [0x3C02, 0x3D10, 0xBEF0, 0x0737] = some (.ok (.vgat ⟨0, 3, 7, 1, 0⟩ ⟨5, 7, false, 0⟩)) ∧
  decodeWords [0x3F04, 0x0CE0] = some (.ok (.movi ⟨0, 14, 64⟩)) ∧
  decodeWords [0x3E1A, 0x3F08, 0x2342] = some (.ok (.ld ⟨0, 4, 2, 8⟩ ⟨false, 0, 1, true, 2⟩)) ∧
  decodeWords [0x3D70, 0x3E40, 0x2862] = some (.ok (.amoAdd ⟨0, 6, 2, 7, 0⟩ ⟨false, 0, 4⟩)) ∧
  decodeWords [0x3F05, 0x3659] = some (.ok (.csrr ⟨0, 5, 0x59⟩)) ∧
  decodeWords [0x3C05, 0x3D20, 0x7E53, 0x0E67] = some (.ok (.rdep ⟨0, 6, 7, 2, 0⟩ ⟨false, 2, 5, false, 3⟩)) ∧
  decodeWords [0x3C02, 0x3D04, 0x3E30, 0x0368] = some (.ok (.vld ⟨0, 6, 24, 0⟩ ⟨0, 3, false, 0⟩)) ∧
  decodeWords [0x3C02, 0x0033] = some (.ok (.vclaim ⟨0, 3, 3⟩)) ∧
  decodeWords [0xBEF0, 0x3C02, 0x0737] = some (.error ⟨true, 0, 1, 0x3C02⟩) ∧
  decodeWords [0x3F00, 0x3F00, 0x3F00, 0x3F00, 0x0C10] = some (.error ⟨true, 0, 3, 0x3F00⟩) ∧
  decodeWords [0x3C07, 0x0000] = some (.error ⟨false, 0, 0, 0x3C07⟩) ∧
  decodeWords [0x3C01, 0x2F00] = some (.error ⟨false, 1, 1, 0x2F00⟩) ∧
  decodeWords [0x1800] = some (.error ⟨false, 0, 0, 0x1800⟩) ∧
  decodeWords [0x3D00, 0x2000] = some (.error ⟨false, 0, 1, 0x2000⟩) ∧
  decodeWords [0x2001] = some (.error ⟨false, 0, 0, 0x2001⟩)

/-! ## Invariants -/

/-- Memory and its granule tags stay in their canonical form whatever a step does. -/
def MemoryStaysCanonical : Prop := ∀ s t : State, s.MemOk → step s = .next t → t.MemOk

/-- R147, R282: every line that an L1 holds has 128 bytes, whatever a step does. -/
def LinesStayWhole : Prop := ∀ s t : State, LinesOk s → step s = .next t → LinesOk t

/-- R293, R363, R392: right after reset no strand runs, no tenant has a root and no translation is held, the colony table holds colony 1
alone, idle and of tenant 0, with every channel group and the package's quotas and no budget bound; nothing is on its way in the
fabric; and both invariants hold. -/
def ResetLeaves : Prop :=
  let s := State.reset
  s.MemOk ∧ LinesOk s ∧ (∀ n, (s.strand n).live = false) ∧ (∀ t, lookupD 0 s.roots t = 0) ∧
  (∀ k, pteV (lookupD ⟨0, 0⟩ s.tlb k).pte = false) ∧
  (∀ id, s.colony id ≠ none ↔ id = 1) ∧
  (∀ c, s.colony 1 = some c → c.state = .idle ∧ c.tenant = 0 ∧ c.chan = BitVec.allOnes 64 ∧ c.rings = 256 ∧ c.cslots = 32768 ∧
    c.wlq = 2048 ∧ ∀ r < 8, c.allocOf r = unlimited) ∧
  s.units.control = none ∧ s.units.boot = none ∧ s.units.booted = false ∧ s.units.requests = [] ∧ s.units.fabricOut = [] ∧
  s.units.lost = []

end Sys2Proof.Claims

/-! ## The statements, sixty of them -/

/-- Decoding the words of a well-formed instruction gives it back, for every instruction and operand. -/
def Obligations.DecodeOfEncode : Prop :=
  Sys2Proof.Claims.EncodeDecode

/-- What decodes is well-formed, ends at its only base word, and has at most five words. -/
def Obligations.DecodeIsWellFormed : Prop :=
  Sys2Proof.Claims.DecodedIsWellFormed

/-- Words of the manual's listings decode to the instructions that they stand for. -/
def Obligations.WorkedWordsDecode : Prop :=
  Sys2Proof.Claims.WorkedEncodings

/-- A step runs exec of the instruction that the words at the program counter decode to. Clauses rest on choices and
readings of the model: log entries 8, 14. -/
def Obligations.StepRunsTheDecoded : Prop :=
  Sys2Proof.Claims.StepRunsDecoded

/-- An instruction is fetched word by word through the PCC up to its base word. Clauses rest on choices and readings of
the model: log entry 13. -/
def Obligations.FetchIsByWords : Prop :=
  Sys2Proof.Claims.FetchReadsWords

/-- What the machine holds right after reset; both invariants hold there. Clauses rest on choices and readings of the
model: log entries 2, 3. -/
def Obligations.ResetState : Prop :=
  Sys2Proof.Claims.ResetLeaves

/-- Every step keeps memory and its granule tags in their canonical form. -/
def Obligations.MemoryCanonical : Prop :=
  Sys2Proof.Claims.MemoryStaysCanonical

/-- Every step keeps 128 bytes in each line that an L1 holds. -/
def Obligations.CacheLinesWhole : Prop :=
  Sys2Proof.Claims.LinesStayWhole

/-- A walk reads one entry of each level and ends at a leaf, or raises xlat. Clauses rest on choices and readings of the
model: log entry 31. -/
def Obligations.WalkOfTables : Prop :=
  Sys2Proof.Claims.WalksTables

/-- sel copies a whole register and its tag. Completion, exec i s = .next t under conditions on the state and the operands
alone, is concluded for: sel. -/
def Obligations.SelCopies : Prop :=
  Sys2Proof.Claims.SelCopiesRegister

/-- The two-source integer instructions complete with their results. Completion, exec i s = .next t under conditions on
the state and the operands alone, is concluded for: add, sub, and, or, xor, shl, shr, sra, mul, ceq, clt, cltn, div,
divn, rem, remn, mulh, mulhn, rot, min, max, minn, maxn. -/
def Obligations.IntegerTwo : Prop :=
  Sys2Proof.Claims.IntegerTwoSource

/-- Integer instructions of one source, constants, bit fields. Completion, exec i s = .next t under conditions on the
state and the operands alone, is concluded for: mov, addi, movi, andi, shli, shri, srai, clz, ctz, popc, bswap, bext,
bins. -/
def Obligations.IntegerOne : Prop :=
  Sys2Proof.Claims.IntegerOneSource

/-- Floating-point instructions round an exact value once, compare, and convert. Completion, exec i s = .next t under
conditions on the state and the operands alone, is concluded for: fadd, fsub, fmul, fdiv, fsqrt, fma, fmin, fmax,
fceq, fclt, fcle, fcvt, fcvti, icvtf, fclass. Clauses rest on choices and readings of the model: log entries 105, 109. -/
def Obligations.FloatScalar : Prop :=
  Sys2Proof.Claims.FloatTwoSource ∧ Sys2Proof.Claims.FloatOtherForms

/-- Capabilities are read, moved, narrowed, bounded and minted as their rules say. Completion, exec i s = .next t under
conditions on the state and the operands alone, is concluded for: lea, cbase, clen, cperm, cbound, crestr, ctid, cclr,
cmint, csub, cgtag. Clauses rest on choices and readings of the model: log entry 33. -/
def Obligations.CapabilityDerivation : Prop :=
  Sys2Proof.Claims.CapabilityResults ∧ Sys2Proof.Claims.CboundHoldsRange ∧ Sys2Proof.Claims.CmintChecks

/-- Branches, hold, and jumps through registers. Completion, exec i s = .next t under conditions on the state and the
operands alone, is concluded for: hold, bz, bnz, blt, bge, bltn, bgen, j, jr, callr. Clauses rest on choices and
readings of the model: log entry 10. -/
def Obligations.Branches : Prop :=
  Sys2Proof.Claims.BranchTargets ∧ Sys2Proof.Claims.HoldTakesTime ∧ Sys2Proof.Claims.RegisterTargets

/-- Calls, returns and frame changes within the register window. Completion, exec i s = .next t under conditions on the
state and the operands alone, is concluded for: call, ret, enter, wshr. Clauses rest on choices and readings of the
model: log entries 27, 98. -/
def Obligations.CallsAndFrames : Prop :=
  Sys2Proof.Claims.CallPushesLink ∧ Sys2Proof.Claims.RetRestoresCaller ∧ Sys2Proof.Claims.FrameChanges

/-- Which mode handles a cause; without one the strand ends. -/
def Obligations.HandlerChoice : Prop :=
  Sys2Proof.Claims.HandlingMode

/-- Taking an exception: the saved registers, the status, the mode, the PCC. Clauses rest on choices and readings of the
model: log entry 26. -/
def Obligations.ExceptionEntry : Prop :=
  Sys2Proof.Claims.DeliverEntersHandler

/-- trap takes syscall with its number, and returns behind itself. Completion, exec i s = .next t under conditions on the
state and the operands alone, is concluded for: trap. -/
def Obligations.TrapEntry : Prop :=
  Sys2Proof.Claims.TrapTakesSyscall

/-- uret returns from a user handler. Completion, exec i s = .next t under conditions on the state and the operands alone,
is concluded for: uret. -/
def Obligations.UserReturn : Prop :=
  Sys2Proof.Claims.UretReturns

/-- sret and hret, brk and wfi, with the modes that may use them. Completion, exec i s = .next t under conditions on the
state and the operands alone, is concluded for: brk, sret, hret, wfi. Clauses rest on choices and readings of the
model: log entries 34, 36. -/
def Obligations.PrivilegedReturn : Prop :=
  Sys2Proof.Claims.SretHretReturn ∧ Sys2Proof.Claims.BrkAndWfi

/-- CSRs are read and written in the modes that may, and only in their bits. Completion, exec i s = .next t under
conditions on the state and the operands alone, is concluded for: csrr, csrw, csrwTimecmp, csrwRqovf. Clauses rest on
choices and readings of the model: log entry 36. -/
def Obligations.ControlRegisters : Prop :=
  Sys2Proof.Claims.CsrReads ∧ Sys2Proof.Claims.CsrWrites ∧ Sys2Proof.Claims.CapabilityCsrWrites

/-- The checks of an access come in their order, and the first that fails is raised. -/
def Obligations.AccessChecks : Prop :=
  Sys2Proof.Claims.AccessChecksInOrder

/-- Loads of data, capabilities and constants complete with the bytes that they read. Completion, exec i s = .next t under
conditions on the state and the operands alone, is concluded for: ldk, ld, ldc. Clauses rest on choices and readings
of the model: log entries 12, 29, 31. -/
def Obligations.Loads : Prop :=
  Sys2Proof.Claims.LoadReads ∧ Sys2Proof.Claims.LoadCapabilityAndConstant

/-- Stores write their bytes and no others; a put at home is what is read there. Completion, exec i s = .next t under
conditions on the state and the operands alone, is concluded for: st, stc. Clauses rest on choices and readings of the
model: log entries 12, 29. -/
def Obligations.Stores : Prop :=
  Sys2Proof.Claims.StoreWrites ∧ Sys2Proof.Claims.HomePutIsRead

/-- Atomics and futures work at the home of their bytes. Completion, exec i s = .next t under conditions on the state and
the operands alone, is concluded for: amoAdd, amoAnd, amoOr, amoXor, amoMin, amoMax, amoMinn, amoMaxn, amoSwap, cas,
frd, fwr. Clauses rest on choices and readings of the model: log entries 32, 46. -/
def Obligations.AtomicsAndFutures : Prop :=
  Sys2Proof.Claims.AtomicsAtHome ∧ Sys2Proof.Claims.FuturesReadAndFill

/-- Fences, wb, inv and pf. Completion, exec i s = .next t under conditions on the state and the operands alone, is
concluded for: fenceAcq, fenceRel, fenceAr, pf, wb, inv. Clauses rest on choices and readings of the model: log
entries 29, 91, 92. -/
def Obligations.FencesAndLineOps : Prop :=
  Sys2Proof.Claims.FencesAndLines

/-- Arrivals complete phases, bmem exchanges masks, sync ends a superstep. Completion, exec i s = .next t under conditions
on the state and the operands alone, is concluded for: arv, bwt, ard, sync, bmem. Clauses rest on choices and readings
of the model: log entry 41. -/
def Obligations.Barriers : Prop :=
  Sys2Proof.Claims.ArrivalsCompletePhases ∧ Sys2Proof.Claims.BmemExchangesMask ∧ Sys2Proof.Claims.SyncEndsSuperstep

/-- Messages, deposits, monitors and wait within a package. Completion, exec i s = .next t under conditions on the state
and the operands alone, is concluded for: mon, wait, send, recv, rdep. Clauses rest on choices and readings of the
model: log entries 16, 30, 37, 39. -/
def Obligations.Messages : Prop :=
  Sys2Proof.Claims.SendDelivers ∧ Sys2Proof.Claims.RecvTakesOldest ∧ Sys2Proof.Claims.DepositsArrive ∧ Sys2Proof.Claims.MonitorsAndWait

/-- The worklist instructions complete with their answers. Completion, exec i s = .next t under conditions on the state
and the operands alone, is concluded for: push, pop, wlnew, wlcfgConfigure, wlst, yield, wlcfgFree, wldone. Clauses
rest on choices and readings of the model: log entries 16, 55. -/
def Obligations.Worklists : Prop :=
  Sys2Proof.Claims.PushPlacesItem ∧ Sys2Proof.Claims.PopAnswers ∧ Sys2Proof.Claims.TasksEnd ∧ Sys2Proof.Claims.WorklistControl

/-- What the home of a worklist instance does with counts, ends, reports and checks. Completion, exec i s = .next t under
conditions on the state and the operands alone, is concluded for: countApply, popCheck, dminReport, taskEndApply.
Clauses rest on choices and readings of the model: log entries 56, 58. -/
def Obligations.WorklistHome : Prop :=
  Sys2Proof.Claims.HomeEvents

/-- Vector results go to the named elements; integer results and moves. Completion, exec i s = .next t under conditions on
the state and the operands alone, is concluded for: vconf, vadd, vsub, vmul, vmin, vmax, vand, vor, vxor, vshl, vshr,
vsra, vsel, vbc, vxt, vcvt, vperm, vcmpz, vxpd. Clauses rest on choices and readings of the model: log entries 107,
109. -/
def Obligations.VectorElements : Prop :=
  Sys2Proof.Claims.ElementsWritten ∧ Sys2Proof.Claims.VectorIntegers ∧ Sys2Proof.Claims.VectorMoves

/-- Vector floating point, compares and masks, folds and scans. Completion, exec i s = .next t under conditions on the
state and the operands alone, is concluded for: vadd, vsub, vmul, vfma, vmin, vmax, vceq, vclt, vcle, vredSum,
vredMin, vredMax, vredAnd, vredOr, vredXor, vscanSum, vscanMin, vscanMax, vscanAnd, vscanOr, vscanXor, vexp2, vlog2,
vrcp, vrsq, kand, kor, kpop, kfirst. Clauses rest on choices and readings of the model: log entries 24, 45, 105, 106,
107. -/
def Obligations.VectorFloatsAndMasks : Prop :=
  Sys2Proof.Claims.VectorFloats ∧ Sys2Proof.Claims.MaskResults ∧ Sys2Proof.Claims.VectorFolds

/-- Lane claims, and the conditions under which vector instructions issue. Completion, exec i s = .next t under conditions
on the state and the operands alone, is concluded for: vclaim, vsetl, vseed, vrel, deferredStart. Clauses rest on
choices and readings of the model: log entry 40. -/
def Obligations.LanesAndGates : Prop :=
  Sys2Proof.Claims.LaneClaims ∧ Sys2Proof.Claims.VectorGates

/-- Vector loads and stores reach each active element at its own address. Completion, exec i s = .next t under conditions
on the state and the operands alone, is concluded for: vld, vst, vlds, vsts, vgat, vsca, vscac, vldl, vstl. Clauses
rest on choices and readings of the model: log entries 31, 47. -/
def Obligations.VectorAccess : Prop :=
  Sys2Proof.Claims.VectorMemory ∧ Sys2Proof.Claims.VectorMemorySpecial

/-- ctxs and ctxr save and restore a strand by its image. Completion, exec i s = .next t under conditions on the state and
the operands alone, is concluded for: ctxs, ctxr. Clauses rest on choices and readings of the model: log entries 27,
59, 100. -/
def Obligations.ContextImages : Prop :=
  Sys2Proof.Claims.SaveImages

/-- Modular arithmetic, its pairs, and the butterfly network. Completion, exec i s = .next t under conditions on the state
and the operands alone, is concluded for: mqld, mcld, mqget, vmadd, vmsub, vmmul, vmmac, vmbf, vmibf, vbfxGather,
vbfxScatter, vbrev, vmred, vmwide. -/
def Obligations.ModularLanes : Prop :=
  Sys2Proof.Claims.ModularArithmetic ∧ Sys2Proof.Claims.ModularPairs ∧ Sys2Proof.Claims.ButterflyNetwork

/-- Tile descriptors, transposes, tile loads and stores. Completion, exec i s = .next t under conditions on the state and
the operands alone, is concluded for: tcfg, tdesc, tld, tst, tzero, ttr. Clauses rest on choices and readings of the
model: log entry 43. -/
def Obligations.Tiles : Prop :=
  Sys2Proof.Claims.TileRegisters ∧ Sys2Proof.Claims.TileMemory

/-- Dense and sparse products and gangs issue with their tiles as they stand. Completion, exec i s = .next t under
conditions on the state and the operands alone, is concluded for: mma, mmag, mmcsr, mmbsr, mmt. Clauses rest on
choices and readings of the model: log entry 42. -/
def Obligations.ProductsIssue : Prop :=
  Sys2Proof.Claims.DenseProductsIssue ∧ Sys2Proof.Claims.SparseProductsIssue ∧ Sys2Proof.Claims.GangsForm

/-- Rows of a product are summed in order; accumulators are read and cleared. Completion, exec i s = .next t under
conditions on the state and the operands alone, is concluded for: accrd, accwm, accz, matrixRowWrite. Clauses rest on
choices and readings of the model: log entries 43, 108. -/
def Obligations.ProductsWrite : Prop :=
  Sys2Proof.Claims.RowsAreWritten ∧ Sys2Proof.Claims.AccumulatorsAreRead

/-- The intersection unit delivers the pairs of two sorted lists in order. Completion, exec i s = .next t under conditions
on the state and the operands alone, is concluded for: ixs, ixget, ixst, ixMergeStep. Clauses rest on choices and
readings of the model: log entries 46, 91. -/
def Obligations.IntersectionUnit : Prop :=
  Sys2Proof.Claims.Intersections

/-- amou accumulates in partials; amof fetches and adds at the home. Completion, exec i s = .next t under conditions on
the state and the operands alone, is concluded for: amouInteger, amouF32, amouF64, amof. -/
def Obligations.UpdatesAtMemory : Prop :=
  Sys2Proof.Claims.UpdatesAccumulate ∧ Sys2Proof.Claims.FetchAndAdd

/-- Regions record their components and commit in one act at the home. Completion, exec i s = .next t under conditions on
the state and the operands alone, is concluded for: lra, lrl, lrs, lrg, lrc. Clauses rest on choices and readings of
the model: log entries 48, 49, 101. -/
def Obligations.LineRegions : Prop :=
  Sys2Proof.Claims.RegionsRecord ∧ Sys2Proof.Claims.RegionsCommit

/-- fencx, puts and gets, and accesses to other packages. Completion, exec i s = .next t under conditions on the state and
the operands alone, is concluded for: fencx, rput, rget. Clauses rest on choices and readings of the model: log
entries 17, 50, 51, 54, 110. -/
def Obligations.RemotePaths : Prop :=
  Sys2Proof.Claims.PathFences ∧ Sys2Proof.Claims.PutsAndGetsCopy ∧ Sys2Proof.Claims.OtherPackages

/-- nmld loads routines and nma runs them; agents take what waits. Completion, exec i s = .next t under conditions on the
state and the operands alone, is concluded for: nma, nmld, nmaRoutine. Clauses rest on choices and readings of the
model: log entry 52. -/
def Obligations.NearMemoryAgents : Prop :=
  Sys2Proof.Claims.AgentsRun ∧ Sys2Proof.Claims.AgentTurns

/-- Copy commands issue, are performed, and issue their follow-ons. Completion, exec i s = .next t under conditions on the
state and the operands alone, is concluded for: cpy, cpyw, dispatchRound, copyCommand, followOnIssue,
combineWindowClose. Clauses rest on choices and readings of the model: log entry 53. -/
def Obligations.CopyEngines : Prop :=
  Sys2Proof.Claims.CopiesIssue ∧ Sys2Proof.Claims.CopyEvents ∧ Sys2Proof.Claims.FollowOnsIssue

/-- nred and nredw: the phases of a reduction group. Completion, exec i s = .next t under conditions on the state and the
operands alone, is concluded for: nredSum, nredMin, nredMax, nredMerge2, nredw, reductionCombine,
reductionResultDeliver. Clauses rest on choices and readings of the model: log entries 67, 68. -/
def Obligations.NetworkReductions : Prop :=
  Sys2Proof.Claims.Reductions

/-- Counters count and fire; dirty logs are controlled. Completion, exec i s = .next t under conditions on the state and
the operands alone, is concluded for: ctrsel, ctrrd, ctrarmArm, dlogStatus, ctrarmDisarm, dlogStart, dlogStop,
dlogLeaveBitmap, counterFire. Clauses rest on choices and readings of the model: log entries 19, 65, 66. -/
def Obligations.EventCounters : Prop :=
  Sys2Proof.Claims.CountersAreSet ∧ Sys2Proof.Claims.CountersFire ∧ Sys2Proof.Claims.LogsAreControlled

/-- colop checks, records, and states of colonies. Completion, exec i s = .next t under conditions on the state and the
operands alone, is concluded for: colopConfigure, colopRead, colopSplit, colopMerge, colopRemove, colopHold,
colopRelease, colopAdopt. Clauses rest on choices and readings of the model: log entries 19, 21, 25, 61, 62, 93. -/
def Obligations.ColonyRecordsOps : Prop :=
  Sys2Proof.Claims.ColopChecks ∧ Sys2Proof.Claims.RecordLayout ∧ Sys2Proof.Claims.ColonyRecords ∧ Sys2Proof.Claims.ColonyStates

/-- colop debugging and tables; rings, budgets, slots and translations. Completion, exec i s = .next t under conditions on
the state and the operands alone, is concluded for: ringcfgBind, bdgtRead, tslotEntry, tinvPage, colopDebug,
colopHalt, colopResume, colopPeek, colopPoke, colopColour, colopRoot, colopControl, colopJob, colopMulticast,
ringcfgUnbind, bdgtWrite, tslotControl, tinvTenant, tinvAll. Clauses rest on choices and readings of the model: log
entries 19, 34, 63, 64, 65. -/
def Obligations.ColonyControlOps : Prop :=
  Sys2Proof.Claims.ColonyDebugging ∧ Sys2Proof.Claims.ColonyTables ∧ Sys2Proof.Claims.ColonyGovernance

/-- Interrupts are taken in their order, and waits end. Completion, exec i s = .next t under conditions on the state and
the operands alone, is concluded for: trapDelivery, timerInterrupt, waitWake, bwtReturn, popCancel, popAnswer,
loadValueReturn. Clauses rest on choices and readings of the model: log entries 15, 17, 88. -/
def Obligations.InterruptsAndWaits : Prop :=
  Sys2Proof.Claims.InterruptsAreTaken ∧ Sys2Proof.Claims.WaitsEnd

/-- Writes, messages and deposits that reach a core. Completion, exec i s = .next t under conditions on the state and the
operands alone, is concluded for: registerWindowAccess, scratchpadWriteArrival, messageAccept, overflowRefill,
sendTimeout, reofferNotice, sendReoffer, depositArrival. Clauses rest on choices and readings of the model: log
entries 30, 37, 39. -/
def Obligations.CoreArrivals : Prop :=
  Sys2Proof.Claims.ArrivalsAtCores

/-- The Scout launches, stops and pushes by its ring records. Completion, exec i s = .next t under conditions on the state
and the operands alone, is concluded for: scoutLaunch, scoutStop, scoutConfigurePush. Clauses rest on choices and
readings of the model: log entries 32, 69, 104. -/
def Obligations.ScoutRecords : Prop :=
  Sys2Proof.Claims.ScoutLaunches ∧ Sys2Proof.Claims.ScoutStopsAndPushes

/-- Slices follow their table; colonies yield, are saved and are loaded. Completion, exec i s = .next t under conditions
on the state and the operands alone, is concluded for: sliceEnd, forcedSave, loadReissueTimeout, colonySaveDone,
colonyLoad. Clauses rest on choices and readings of the model: log entries 25, 60, 62, 70. -/
def Obligations.TimeSlices : Prop :=
  Sys2Proof.Claims.SliceSchedule ∧ Sys2Proof.Claims.SlicesEnd ∧ Sys2Proof.Claims.SavesAreForced ∧ Sys2Proof.Claims.ColoniesSaveAndLoad

/-- Budget periods, operating points, and the discipline of time. Completion, exec i s = .next t under conditions on the
state and the operands alone, is concluded for: budgetPeriod, operatingPoint, ppsEdge, timeOfDayMessage, ppsLoss.
Clauses rest on choices and readings of the model: log entries 44, 74, 77. -/
def Obligations.BudgetsAndTime : Prop :=
  Sys2Proof.Claims.BudgetsRunInPeriods ∧ Sys2Proof.Claims.TimeIsDisciplined

/-- The controller's mailbox, boot, and the host's accesses. Completion, exec i s = .next t under conditions on the state
and the operands alone, is concluded for: reset, attestationReport, bootRequest, timeStatus, hostWrite, hostRead,
hostBarrierWrite. Clauses rest on choices and readings of the model: log entries 23, 73, 75, 76, 95. -/
def Obligations.ControllerAndHost : Prop :=
  Sys2Proof.Claims.MailboxAnswers ∧ Sys2Proof.Claims.PackageBoots ∧ Sys2Proof.Claims.HostAccesses

/-- Every hop of a packet brings it one package nearer to its destination. -/
def Obligations.RoutingNearer : Prop :=
  Sys2Proof.Claims.PacketsComeNearer

/-- Flits are accepted in order, ports fail over, packets are forwarded. Completion, exec i s = .next t under conditions
on the state and the operands alone, is concluded for: flitReceive, laneFailure, laneWidthOrder, portDown,
packetForward. Clauses rest on choices and readings of the model: log entries 2, 18, 83, 95. -/
def Obligations.Links : Prop :=
  Sys2Proof.Claims.FlitsAreAccepted ∧ Sys2Proof.Claims.PortsFail ∧ Sys2Proof.Claims.PacketsAreForwarded

/-- Requests are served, mirrored, answered, and their peers probed. Completion, exec i s = .next t under conditions on
the state and the operands alone, is concluded for: remoteRequest, remoteAnswer, mirrorReport, requestTimeout, probe,
probeTimeout, peerDownNotice. Clauses rest on choices and readings of the model: log entries 18, 82, 85, 86, 87, 103. -/
def Obligations.RemoteRequests : Prop :=
  Sys2Proof.Claims.RequestsAreServed ∧ Sys2Proof.Claims.MirrorsReport ∧ Sys2Proof.Claims.AnswersEndRequests ∧ Sys2Proof.Claims.PeersAreProbed

/-- Fetch-and-adds are held, combined and split; parity and memory errors. Completion, exec i s = .next t under conditions
on the state and the operands alone, is concluded for: l2TagParityError, patrolScrub, combineHold, combineDepart,
combinedAtHome, combSplit, uncorrectableError. Clauses rest on choices and readings of the model: log entries 43, 78,
79, 80, 81, 84, 89, 90, 94. -/
def Obligations.CombiningAndErrors : Prop :=
  Sys2Proof.Claims.RequestsAreHeld ∧ Sys2Proof.Claims.GroupsDepart ∧ Sys2Proof.Claims.SumsAreSplit ∧ Sys2Proof.Claims.ParityKills ∧ Sys2Proof.Claims.ErrorsStrike
end

