-- ==== Sys2Proof/Laws/Sparse.lean ====
section
/-! SUPPORT. Laws of sparse data: a read after a write, and that writes keep the canonical form. -/

namespace Sys2Proof.Machine

variable {α : Type}

theorem lookupD_insertAt_same (d : α) (k : Nat) (v : α) (m : SMap α) : lookupD d (insertAt k v m) k = v := by
  induction m with
  | nil => simp [insertAt, lookupD]
  | cons e m ih =>
    obtain ⟨a, w⟩ := e
    simp only [insertAt]
    split
    · simp [lookupD]
    · split
      · simp [lookupD]
      · simp_all [lookupD]

theorem lookupD_insertAt_ne (d : α) (k j : Nat) (v : α) (m : SMap α) (h : j ≠ k) :
    lookupD d (insertAt k v m) j = lookupD d m j := by
  induction m with
  | nil => simp [insertAt, lookupD, h]
  | cons e m ih =>
    obtain ⟨a, w⟩ := e
    simp only [insertAt]
    split
    · simp [lookupD, h]
    · split
      · next hk => subst hk; simp [lookupD, h]
      · simp only [lookupD, ih]

theorem lookupD_removeAt_same (d : α) (k : Nat) (m : SMap α) : lookupD d (removeAt k m) k = d := by
  induction m with
  | nil => rfl
  | cons e m ih =>
    obtain ⟨a, w⟩ := e
    simp only [removeAt]
    split
    · exact ih
    · next h => simp [lookupD, h, ih]

theorem lookupD_removeAt_ne (d : α) (k j : Nat) (m : SMap α) (h : j ≠ k) :
    lookupD d (removeAt k m) j = lookupD d m j := by
  induction m with
  | nil => rfl
  | cons e m ih =>
    obtain ⟨a, w⟩ := e
    simp only [removeAt]
    split
    · next hk => subst hk; simp [lookupD, h, ih]
    · simp only [lookupD, ih]

/-- A key reads what was written to it. -/
@[simp] theorem lookupD_storeAt_same [DecidableEq α] (d : α) (k : Nat) (v : α) (m : SMap α) :
    lookupD d (storeAt d k v m) k = v := by
  unfold storeAt
  split
  · next h => rw [lookupD_removeAt_same, h]
  · exact lookupD_insertAt_same ..

/-- Every other key reads as before. -/
theorem lookupD_storeAt_ne [DecidableEq α] (d : α) (k j : Nat) (v : α) (m : SMap α) (h : j ≠ k) :
    lookupD d (storeAt d k v m) j = lookupD d m j := by
  unfold storeAt
  split
  · exact lookupD_removeAt_ne _ _ _ _ h
  · exact lookupD_insertAt_ne _ _ _ _ _ h

theorem lookupD_storeAt [DecidableEq α] (d : α) (k j : Nat) (v : α) (m : SMap α) :
    lookupD d (storeAt d k v m) j = if j = k then v else lookupD d m j := by
  split
  · next h => subst h; simp
  · next h => exact lookupD_storeAt_ne _ _ _ _ _ h

/-! ## The canonical form -/

theorem risingFrom_mono {lo lo' : Nat} {m : SMap α} (h : lo' ≤ lo) (hm : risingFrom lo m = true) :
    risingFrom lo' m = true := by
  cases m with
  | nil => rfl
  | cons e m =>
    obtain ⟨a, w⟩ := e
    simp only [risingFrom, Bool.and_eq_true, decide_eq_true_eq] at *
    exact ⟨by omega, hm.2⟩

theorem risingFrom_insertAt {lo k : Nat} {v : α} {m : SMap α} (hk : lo ≤ k) (hm : risingFrom lo m = true) :
    risingFrom lo (insertAt k v m) = true := by
  induction m generalizing lo with
  | nil => simp [insertAt, risingFrom, hk]
  | cons e m ih =>
    obtain ⟨a, w⟩ := e
    simp only [risingFrom, Bool.and_eq_true, decide_eq_true_eq] at hm
    simp only [insertAt]
    split
    · simp only [risingFrom, Bool.and_eq_true, decide_eq_true_eq]
      exact ⟨hk, by omega, hm.2⟩
    · split
      · next h => subst h; simp only [risingFrom, Bool.and_eq_true, decide_eq_true_eq]; exact hm
      · simp only [risingFrom, Bool.and_eq_true, decide_eq_true_eq]
        exact ⟨hm.1, ih (by omega) hm.2⟩

theorem risingFrom_filter {lo : Nat} {p : Nat × α → Bool} {m : SMap α} (hm : risingFrom lo m = true) :
    risingFrom lo (m.filter p) = true := by
  induction m generalizing lo with
  | nil => rfl
  | cons e m ih =>
    obtain ⟨a, w⟩ := e
    simp only [risingFrom, Bool.and_eq_true, decide_eq_true_eq] at hm
    simp only [List.filter]
    split
    · simp only [risingFrom, Bool.and_eq_true, decide_eq_true_eq]
      exact ⟨hm.1, ih hm.2⟩
    · exact ih (risingFrom_mono (by omega) hm.2)

theorem removeAt_eq_filter (k : Nat) (m : SMap α) : removeAt k m = m.filter fun e => decide (k ≠ e.1) := by
  induction m with
  | nil => rfl
  | cons e m ih =>
    obtain ⟨a, w⟩ := e
    simp only [removeAt, List.filter, ih]
    split <;> simp_all

theorem all_insertAt {p : Nat × α → Bool} {k : Nat} {v : α} {m : SMap α} (hv : p (k, v) = true) (hm : m.all p = true) :
    (insertAt k v m).all p = true := by
  induction m with
  | nil => simp [insertAt, hv]
  | cons e m ih =>
    obtain ⟨a, w⟩ := e
    simp only [List.all_cons, Bool.and_eq_true] at hm
    simp only [insertAt]
    split
    · simp only [List.all_cons, Bool.and_eq_true]; exact ⟨hv, hm.1, hm.2⟩
    · split
      · simp only [List.all_cons, Bool.and_eq_true]; exact ⟨hv, hm.2⟩
      · simp only [List.all_cons, Bool.and_eq_true]; exact ⟨hm.1, ih hm.2⟩

/-- A write keeps the canonical form. -/
theorem canonical_storeAt [DecidableEq α] {d : α} {k : Nat} {v : α} {m : SMap α} (hm : canonical d m = true) :
    canonical d (storeAt d k v m) = true := by
  simp only [canonical, Bool.and_eq_true] at *
  unfold storeAt
  split
  · rw [removeAt_eq_filter]
    exact ⟨risingFrom_filter hm.1, by
      simp only [List.all_eq_true, List.mem_filter] at *
      exact fun e he => hm.2 e he.1⟩
  · next h => exact ⟨risingFrom_insertAt (Nat.zero_le _) hm.1, all_insertAt (by simpa using h) hm.2⟩

/-- Dropping entries keeps the canonical form. -/
theorem canonical_filter [DecidableEq α] {d : α} {p : Nat × α → Bool} {m : SMap α} (hm : canonical d m = true) :
    canonical d (m.filter p) = true := by
  simp only [canonical, Bool.and_eq_true] at *
  exact ⟨risingFrom_filter hm.1, by
    simp only [List.all_eq_true, List.mem_filter] at *
    exact fun e he => hm.2 e he.1⟩

theorem canonical_storeRange [DecidableEq α] {d : α} {k : Nat} {vs : List α} {m : SMap α} (hm : canonical d m = true) :
    canonical d (storeRange d k vs m) = true := by
  induction vs generalizing k m with
  | nil => exact hm
  | cons v vs ih => exact ih (canonical_storeAt hm)

end Sys2Proof.Machine
end

