-- ==== Sys2Proof/Laws/State.lean ====
section
/-! SUPPORT. What each update of the state leaves alone, field by field, and what is read back from it. -/

namespace Sys2Proof.Machine

/-! `withStrand` -/

@[simp] theorem State.withStrand_cur (s : State) (b : Nat) (v : Strand) : (s.withStrand b v).cur = s.cur := rfl
@[simp] theorem State.withStrand_turns (s : State) (b : Nat) (v : Strand) : (s.withStrand b v).turns = s.turns := rfl
@[simp] theorem State.withStrand_agenda (s : State) (b : Nat) (v : Strand) : (s.withStrand b v).agenda = s.agenda := rfl
@[simp] theorem State.withStrand_now (s : State) (b : Nat) (v : Strand) : (s.withStrand b v).now = s.now := rfl
@[simp] theorem State.withStrand_evictPlan (s : State) (b : Nat) (v : Strand) : (s.withStrand b v).evictPlan = s.evictPlan := rfl
@[simp] theorem State.withStrand_steps (s : State) (b : Nat) (v : Strand) : (s.withStrand b v).steps = s.steps := rfl
@[simp] theorem State.withStrand_fresh (s : State) (b : Nat) (v : Strand) : (s.withStrand b v).fresh = s.fresh := rfl
@[simp] theorem State.withStrand_cores (s : State) (b : Nat) (v : Strand) : (s.withStrand b v).cores = s.cores := rfl
@[simp] theorem State.withStrand_quads (s : State) (b : Nat) (v : Strand) : (s.withStrand b v).quads = s.quads := rfl
@[simp] theorem State.withStrand_dies (s : State) (b : Nat) (v : Strand) : (s.withStrand b v).dies = s.dies := rfl
@[simp] theorem State.withStrand_mem (s : State) (b : Nat) (v : Strand) : (s.withStrand b v).mem = s.mem := rfl
@[simp] theorem State.withStrand_tags (s : State) (b : Nat) (v : Strand) : (s.withStrand b v).tags = s.tags := rfl
@[simp] theorem State.withStrand_bad (s : State) (b : Nat) (v : Strand) : (s.withStrand b v).bad = s.bad := rfl
@[simp] theorem State.withStrand_badTiles (s : State) (b : Nat) (v : Strand) : (s.withStrand b v).badTiles = s.badTiles := rfl
@[simp] theorem State.withStrand_badRows (s : State) (b : Nat) (v : Strand) : (s.withStrand b v).badRows = s.badRows := rfl
@[simp] theorem State.withStrand_events (s : State) (b : Nat) (v : Strand) : (s.withStrand b v).events = s.events := rfl
@[simp] theorem State.withStrand_roots (s : State) (b : Nat) (v : Strand) : (s.withStrand b v).roots = s.roots := rfl
@[simp] theorem State.withStrand_tlb (s : State) (b : Nat) (v : Strand) : (s.withStrand b v).tlb = s.tlb := rfl
@[simp] theorem State.withStrand_pkg (s : State) (b : Nat) (v : Strand) : (s.withStrand b v).pkg = s.pkg := rfl
@[simp] theorem State.withStrand_time (s : State) (b : Nat) (v : Strand) : (s.withStrand b v).time = s.time := rfl
@[simp] theorem State.withStrand_units (s : State) (b : Nat) (v : Strand) : (s.withStrand b v).units = s.units := rfl

/-! `withSelf` -/

@[simp] theorem State.withSelf_cur (s : State) (v : Strand) : (s.withSelf v).cur = s.cur := rfl
@[simp] theorem State.withSelf_turns (s : State) (v : Strand) : (s.withSelf v).turns = s.turns := rfl
@[simp] theorem State.withSelf_agenda (s : State) (v : Strand) : (s.withSelf v).agenda = s.agenda := rfl
@[simp] theorem State.withSelf_now (s : State) (v : Strand) : (s.withSelf v).now = s.now := rfl
@[simp] theorem State.withSelf_evictPlan (s : State) (v : Strand) : (s.withSelf v).evictPlan = s.evictPlan := rfl
@[simp] theorem State.withSelf_steps (s : State) (v : Strand) : (s.withSelf v).steps = s.steps := rfl
@[simp] theorem State.withSelf_fresh (s : State) (v : Strand) : (s.withSelf v).fresh = s.fresh := rfl
@[simp] theorem State.withSelf_cores (s : State) (v : Strand) : (s.withSelf v).cores = s.cores := rfl
@[simp] theorem State.withSelf_quads (s : State) (v : Strand) : (s.withSelf v).quads = s.quads := rfl
@[simp] theorem State.withSelf_dies (s : State) (v : Strand) : (s.withSelf v).dies = s.dies := rfl
@[simp] theorem State.withSelf_mem (s : State) (v : Strand) : (s.withSelf v).mem = s.mem := rfl
@[simp] theorem State.withSelf_tags (s : State) (v : Strand) : (s.withSelf v).tags = s.tags := rfl
@[simp] theorem State.withSelf_bad (s : State) (v : Strand) : (s.withSelf v).bad = s.bad := rfl
@[simp] theorem State.withSelf_badTiles (s : State) (v : Strand) : (s.withSelf v).badTiles = s.badTiles := rfl
@[simp] theorem State.withSelf_badRows (s : State) (v : Strand) : (s.withSelf v).badRows = s.badRows := rfl
@[simp] theorem State.withSelf_events (s : State) (v : Strand) : (s.withSelf v).events = s.events := rfl
@[simp] theorem State.withSelf_roots (s : State) (v : Strand) : (s.withSelf v).roots = s.roots := rfl
@[simp] theorem State.withSelf_tlb (s : State) (v : Strand) : (s.withSelf v).tlb = s.tlb := rfl
@[simp] theorem State.withSelf_pkg (s : State) (v : Strand) : (s.withSelf v).pkg = s.pkg := rfl
@[simp] theorem State.withSelf_time (s : State) (v : Strand) : (s.withSelf v).time = s.time := rfl
@[simp] theorem State.withSelf_units (s : State) (v : Strand) : (s.withSelf v).units = s.units := rfl

/-! `withCore` -/

@[simp] theorem State.withCore_cur (s : State) (c : Nat) (v : CoreState) : (s.withCore c v).cur = s.cur := rfl
@[simp] theorem State.withCore_turns (s : State) (c : Nat) (v : CoreState) : (s.withCore c v).turns = s.turns := rfl
@[simp] theorem State.withCore_agenda (s : State) (c : Nat) (v : CoreState) : (s.withCore c v).agenda = s.agenda := rfl
@[simp] theorem State.withCore_now (s : State) (c : Nat) (v : CoreState) : (s.withCore c v).now = s.now := rfl
@[simp] theorem State.withCore_evictPlan (s : State) (c : Nat) (v : CoreState) : (s.withCore c v).evictPlan = s.evictPlan := rfl
@[simp] theorem State.withCore_steps (s : State) (c : Nat) (v : CoreState) : (s.withCore c v).steps = s.steps := rfl
@[simp] theorem State.withCore_fresh (s : State) (c : Nat) (v : CoreState) : (s.withCore c v).fresh = s.fresh := rfl
@[simp] theorem State.withCore_strands (s : State) (c : Nat) (v : CoreState) : (s.withCore c v).strands = s.strands := rfl
@[simp] theorem State.withCore_quads (s : State) (c : Nat) (v : CoreState) : (s.withCore c v).quads = s.quads := rfl
@[simp] theorem State.withCore_dies (s : State) (c : Nat) (v : CoreState) : (s.withCore c v).dies = s.dies := rfl
@[simp] theorem State.withCore_mem (s : State) (c : Nat) (v : CoreState) : (s.withCore c v).mem = s.mem := rfl
@[simp] theorem State.withCore_tags (s : State) (c : Nat) (v : CoreState) : (s.withCore c v).tags = s.tags := rfl
@[simp] theorem State.withCore_bad (s : State) (c : Nat) (v : CoreState) : (s.withCore c v).bad = s.bad := rfl
@[simp] theorem State.withCore_badTiles (s : State) (c : Nat) (v : CoreState) : (s.withCore c v).badTiles = s.badTiles := rfl
@[simp] theorem State.withCore_badRows (s : State) (c : Nat) (v : CoreState) : (s.withCore c v).badRows = s.badRows := rfl
@[simp] theorem State.withCore_events (s : State) (c : Nat) (v : CoreState) : (s.withCore c v).events = s.events := rfl
@[simp] theorem State.withCore_roots (s : State) (c : Nat) (v : CoreState) : (s.withCore c v).roots = s.roots := rfl
@[simp] theorem State.withCore_tlb (s : State) (c : Nat) (v : CoreState) : (s.withCore c v).tlb = s.tlb := rfl
@[simp] theorem State.withCore_pkg (s : State) (c : Nat) (v : CoreState) : (s.withCore c v).pkg = s.pkg := rfl
@[simp] theorem State.withCore_time (s : State) (c : Nat) (v : CoreState) : (s.withCore c v).time = s.time := rfl
@[simp] theorem State.withCore_units (s : State) (c : Nat) (v : CoreState) : (s.withCore c v).units = s.units := rfl

/-! `withQuad` -/

@[simp] theorem State.withQuad_cur (s : State) (q : Nat) (v : QuadState) : (s.withQuad q v).cur = s.cur := rfl
@[simp] theorem State.withQuad_turns (s : State) (q : Nat) (v : QuadState) : (s.withQuad q v).turns = s.turns := rfl
@[simp] theorem State.withQuad_agenda (s : State) (q : Nat) (v : QuadState) : (s.withQuad q v).agenda = s.agenda := rfl
@[simp] theorem State.withQuad_now (s : State) (q : Nat) (v : QuadState) : (s.withQuad q v).now = s.now := rfl
@[simp] theorem State.withQuad_evictPlan (s : State) (q : Nat) (v : QuadState) : (s.withQuad q v).evictPlan = s.evictPlan := rfl
@[simp] theorem State.withQuad_steps (s : State) (q : Nat) (v : QuadState) : (s.withQuad q v).steps = s.steps := rfl
@[simp] theorem State.withQuad_fresh (s : State) (q : Nat) (v : QuadState) : (s.withQuad q v).fresh = s.fresh := rfl
@[simp] theorem State.withQuad_strands (s : State) (q : Nat) (v : QuadState) : (s.withQuad q v).strands = s.strands := rfl
@[simp] theorem State.withQuad_cores (s : State) (q : Nat) (v : QuadState) : (s.withQuad q v).cores = s.cores := rfl
@[simp] theorem State.withQuad_dies (s : State) (q : Nat) (v : QuadState) : (s.withQuad q v).dies = s.dies := rfl
@[simp] theorem State.withQuad_mem (s : State) (q : Nat) (v : QuadState) : (s.withQuad q v).mem = s.mem := rfl
@[simp] theorem State.withQuad_tags (s : State) (q : Nat) (v : QuadState) : (s.withQuad q v).tags = s.tags := rfl
@[simp] theorem State.withQuad_bad (s : State) (q : Nat) (v : QuadState) : (s.withQuad q v).bad = s.bad := rfl
@[simp] theorem State.withQuad_badTiles (s : State) (q : Nat) (v : QuadState) : (s.withQuad q v).badTiles = s.badTiles := rfl
@[simp] theorem State.withQuad_badRows (s : State) (q : Nat) (v : QuadState) : (s.withQuad q v).badRows = s.badRows := rfl
@[simp] theorem State.withQuad_events (s : State) (q : Nat) (v : QuadState) : (s.withQuad q v).events = s.events := rfl
@[simp] theorem State.withQuad_roots (s : State) (q : Nat) (v : QuadState) : (s.withQuad q v).roots = s.roots := rfl
@[simp] theorem State.withQuad_tlb (s : State) (q : Nat) (v : QuadState) : (s.withQuad q v).tlb = s.tlb := rfl
@[simp] theorem State.withQuad_pkg (s : State) (q : Nat) (v : QuadState) : (s.withQuad q v).pkg = s.pkg := rfl
@[simp] theorem State.withQuad_time (s : State) (q : Nat) (v : QuadState) : (s.withQuad q v).time = s.time := rfl
@[simp] theorem State.withQuad_units (s : State) (q : Nat) (v : QuadState) : (s.withQuad q v).units = s.units := rfl

/-! `withDie` -/

@[simp] theorem State.withDie_cur (s : State) (d : Nat) (v : DieState) : (s.withDie d v).cur = s.cur := rfl
@[simp] theorem State.withDie_turns (s : State) (d : Nat) (v : DieState) : (s.withDie d v).turns = s.turns := rfl
@[simp] theorem State.withDie_agenda (s : State) (d : Nat) (v : DieState) : (s.withDie d v).agenda = s.agenda := rfl
@[simp] theorem State.withDie_now (s : State) (d : Nat) (v : DieState) : (s.withDie d v).now = s.now := rfl
@[simp] theorem State.withDie_evictPlan (s : State) (d : Nat) (v : DieState) : (s.withDie d v).evictPlan = s.evictPlan := rfl
@[simp] theorem State.withDie_steps (s : State) (d : Nat) (v : DieState) : (s.withDie d v).steps = s.steps := rfl
@[simp] theorem State.withDie_fresh (s : State) (d : Nat) (v : DieState) : (s.withDie d v).fresh = s.fresh := rfl
@[simp] theorem State.withDie_strands (s : State) (d : Nat) (v : DieState) : (s.withDie d v).strands = s.strands := rfl
@[simp] theorem State.withDie_cores (s : State) (d : Nat) (v : DieState) : (s.withDie d v).cores = s.cores := rfl
@[simp] theorem State.withDie_quads (s : State) (d : Nat) (v : DieState) : (s.withDie d v).quads = s.quads := rfl
@[simp] theorem State.withDie_mem (s : State) (d : Nat) (v : DieState) : (s.withDie d v).mem = s.mem := rfl
@[simp] theorem State.withDie_tags (s : State) (d : Nat) (v : DieState) : (s.withDie d v).tags = s.tags := rfl
@[simp] theorem State.withDie_bad (s : State) (d : Nat) (v : DieState) : (s.withDie d v).bad = s.bad := rfl
@[simp] theorem State.withDie_badTiles (s : State) (d : Nat) (v : DieState) : (s.withDie d v).badTiles = s.badTiles := rfl
@[simp] theorem State.withDie_badRows (s : State) (d : Nat) (v : DieState) : (s.withDie d v).badRows = s.badRows := rfl
@[simp] theorem State.withDie_events (s : State) (d : Nat) (v : DieState) : (s.withDie d v).events = s.events := rfl
@[simp] theorem State.withDie_roots (s : State) (d : Nat) (v : DieState) : (s.withDie d v).roots = s.roots := rfl
@[simp] theorem State.withDie_tlb (s : State) (d : Nat) (v : DieState) : (s.withDie d v).tlb = s.tlb := rfl
@[simp] theorem State.withDie_pkg (s : State) (d : Nat) (v : DieState) : (s.withDie d v).pkg = s.pkg := rfl
@[simp] theorem State.withDie_time (s : State) (d : Nat) (v : DieState) : (s.withDie d v).time = s.time := rfl
@[simp] theorem State.withDie_units (s : State) (d : Nat) (v : DieState) : (s.withDie d v).units = s.units := rfl

/-! `withColony` -/

@[simp] theorem State.withColony_cur (s : State) (i : Nat) (v : Option Colony) : (s.withColony i v).cur = s.cur := rfl
@[simp] theorem State.withColony_turns (s : State) (i : Nat) (v : Option Colony) : (s.withColony i v).turns = s.turns := rfl
@[simp] theorem State.withColony_agenda (s : State) (i : Nat) (v : Option Colony) : (s.withColony i v).agenda = s.agenda := rfl
@[simp] theorem State.withColony_now (s : State) (i : Nat) (v : Option Colony) : (s.withColony i v).now = s.now := rfl
@[simp] theorem State.withColony_evictPlan (s : State) (i : Nat) (v : Option Colony) : (s.withColony i v).evictPlan = s.evictPlan := rfl
@[simp] theorem State.withColony_steps (s : State) (i : Nat) (v : Option Colony) : (s.withColony i v).steps = s.steps := rfl
@[simp] theorem State.withColony_fresh (s : State) (i : Nat) (v : Option Colony) : (s.withColony i v).fresh = s.fresh := rfl
@[simp] theorem State.withColony_strands (s : State) (i : Nat) (v : Option Colony) : (s.withColony i v).strands = s.strands := rfl
@[simp] theorem State.withColony_cores (s : State) (i : Nat) (v : Option Colony) : (s.withColony i v).cores = s.cores := rfl
@[simp] theorem State.withColony_quads (s : State) (i : Nat) (v : Option Colony) : (s.withColony i v).quads = s.quads := rfl
@[simp] theorem State.withColony_dies (s : State) (i : Nat) (v : Option Colony) : (s.withColony i v).dies = s.dies := rfl
@[simp] theorem State.withColony_mem (s : State) (i : Nat) (v : Option Colony) : (s.withColony i v).mem = s.mem := rfl
@[simp] theorem State.withColony_tags (s : State) (i : Nat) (v : Option Colony) : (s.withColony i v).tags = s.tags := rfl
@[simp] theorem State.withColony_bad (s : State) (i : Nat) (v : Option Colony) : (s.withColony i v).bad = s.bad := rfl
@[simp] theorem State.withColony_badTiles (s : State) (i : Nat) (v : Option Colony) : (s.withColony i v).badTiles = s.badTiles := rfl
@[simp] theorem State.withColony_badRows (s : State) (i : Nat) (v : Option Colony) : (s.withColony i v).badRows = s.badRows := rfl
@[simp] theorem State.withColony_events (s : State) (i : Nat) (v : Option Colony) : (s.withColony i v).events = s.events := rfl
@[simp] theorem State.withColony_roots (s : State) (i : Nat) (v : Option Colony) : (s.withColony i v).roots = s.roots := rfl
@[simp] theorem State.withColony_tlb (s : State) (i : Nat) (v : Option Colony) : (s.withColony i v).tlb = s.tlb := rfl
@[simp] theorem State.withColony_pkg (s : State) (i : Nat) (v : Option Colony) : (s.withColony i v).pkg = s.pkg := rfl
@[simp] theorem State.withColony_time (s : State) (i : Nat) (v : Option Colony) : (s.withColony i v).time = s.time := rfl

/-! `countCore` -/

@[simp] theorem State.countCore_cur (s : State) (c code n : Nat) : (s.countCore c code n).cur = s.cur := rfl
@[simp] theorem State.countCore_turns (s : State) (c code n : Nat) : (s.countCore c code n).turns = s.turns := rfl
@[simp] theorem State.countCore_now (s : State) (c code n : Nat) : (s.countCore c code n).now = s.now := rfl
@[simp] theorem State.countCore_evictPlan (s : State) (c code n : Nat) : (s.countCore c code n).evictPlan = s.evictPlan := rfl
@[simp] theorem State.countCore_steps (s : State) (c code n : Nat) : (s.countCore c code n).steps = s.steps := rfl
@[simp] theorem State.countCore_fresh (s : State) (c code n : Nat) : (s.countCore c code n).fresh = s.fresh := rfl
@[simp] theorem State.countCore_strands (s : State) (c code n : Nat) : (s.countCore c code n).strands = s.strands := rfl
@[simp] theorem State.countCore_quads (s : State) (c code n : Nat) : (s.countCore c code n).quads = s.quads := rfl
@[simp] theorem State.countCore_dies (s : State) (c code n : Nat) : (s.countCore c code n).dies = s.dies := rfl
@[simp] theorem State.countCore_mem (s : State) (c code n : Nat) : (s.countCore c code n).mem = s.mem := rfl
@[simp] theorem State.countCore_tags (s : State) (c code n : Nat) : (s.countCore c code n).tags = s.tags := rfl
@[simp] theorem State.countCore_bad (s : State) (c code n : Nat) : (s.countCore c code n).bad = s.bad := rfl
@[simp] theorem State.countCore_badTiles (s : State) (c code n : Nat) : (s.countCore c code n).badTiles = s.badTiles := rfl
@[simp] theorem State.countCore_badRows (s : State) (c code n : Nat) : (s.countCore c code n).badRows = s.badRows := rfl
@[simp] theorem State.countCore_events (s : State) (c code n : Nat) : (s.countCore c code n).events = s.events := rfl
@[simp] theorem State.countCore_roots (s : State) (c code n : Nat) : (s.countCore c code n).roots = s.roots := rfl
@[simp] theorem State.countCore_tlb (s : State) (c code n : Nat) : (s.countCore c code n).tlb = s.tlb := rfl
@[simp] theorem State.countCore_pkg (s : State) (c code n : Nat) : (s.countCore c code n).pkg = s.pkg := rfl
@[simp] theorem State.countCore_time (s : State) (c code n : Nat) : (s.countCore c code n).time = s.time := rfl
@[simp] theorem State.countCore_units (s : State) (c code n : Nat) : (s.countCore c code n).units = s.units := rfl

/-! `spend` -/

@[simp] theorem State.spend_cur (s : State) (c n : Nat) : (s.spend c n).cur = s.cur := rfl
@[simp] theorem State.spend_turns (s : State) (c n : Nat) : (s.spend c n).turns = s.turns := rfl
@[simp] theorem State.spend_now (s : State) (c n : Nat) : (s.spend c n).now = s.now := rfl
@[simp] theorem State.spend_evictPlan (s : State) (c n : Nat) : (s.spend c n).evictPlan = s.evictPlan := rfl
@[simp] theorem State.spend_steps (s : State) (c n : Nat) : (s.spend c n).steps = s.steps := rfl
@[simp] theorem State.spend_fresh (s : State) (c n : Nat) : (s.spend c n).fresh = s.fresh := rfl
@[simp] theorem State.spend_strands (s : State) (c n : Nat) : (s.spend c n).strands = s.strands := rfl
@[simp] theorem State.spend_quads (s : State) (c n : Nat) : (s.spend c n).quads = s.quads := rfl
@[simp] theorem State.spend_dies (s : State) (c n : Nat) : (s.spend c n).dies = s.dies := rfl
@[simp] theorem State.spend_mem (s : State) (c n : Nat) : (s.spend c n).mem = s.mem := rfl
@[simp] theorem State.spend_tags (s : State) (c n : Nat) : (s.spend c n).tags = s.tags := rfl
@[simp] theorem State.spend_bad (s : State) (c n : Nat) : (s.spend c n).bad = s.bad := rfl
@[simp] theorem State.spend_badTiles (s : State) (c n : Nat) : (s.spend c n).badTiles = s.badTiles := rfl
@[simp] theorem State.spend_badRows (s : State) (c n : Nat) : (s.spend c n).badRows = s.badRows := rfl
@[simp] theorem State.spend_events (s : State) (c n : Nat) : (s.spend c n).events = s.events := rfl
@[simp] theorem State.spend_roots (s : State) (c n : Nat) : (s.spend c n).roots = s.roots := rfl
@[simp] theorem State.spend_tlb (s : State) (c n : Nat) : (s.spend c n).tlb = s.tlb := rfl
@[simp] theorem State.spend_pkg (s : State) (c n : Nat) : (s.spend c n).pkg = s.pkg := rfl
@[simp] theorem State.spend_time (s : State) (c n : Nat) : (s.spend c n).time = s.time := rfl
@[simp] theorem State.spend_units (s : State) (c n : Nat) : (s.spend c n).units = s.units := rfl

/-! `countDie` -/

@[simp] theorem State.countDie_cur (s : State) (d code n : Nat) : (s.countDie d code n).cur = s.cur := rfl
@[simp] theorem State.countDie_turns (s : State) (d code n : Nat) : (s.countDie d code n).turns = s.turns := rfl
@[simp] theorem State.countDie_now (s : State) (d code n : Nat) : (s.countDie d code n).now = s.now := rfl
@[simp] theorem State.countDie_evictPlan (s : State) (d code n : Nat) : (s.countDie d code n).evictPlan = s.evictPlan := rfl
@[simp] theorem State.countDie_steps (s : State) (d code n : Nat) : (s.countDie d code n).steps = s.steps := rfl
@[simp] theorem State.countDie_fresh (s : State) (d code n : Nat) : (s.countDie d code n).fresh = s.fresh := rfl
@[simp] theorem State.countDie_strands (s : State) (d code n : Nat) : (s.countDie d code n).strands = s.strands := rfl
@[simp] theorem State.countDie_cores (s : State) (d code n : Nat) : (s.countDie d code n).cores = s.cores := rfl
@[simp] theorem State.countDie_quads (s : State) (d code n : Nat) : (s.countDie d code n).quads = s.quads := rfl
@[simp] theorem State.countDie_mem (s : State) (d code n : Nat) : (s.countDie d code n).mem = s.mem := rfl
@[simp] theorem State.countDie_tags (s : State) (d code n : Nat) : (s.countDie d code n).tags = s.tags := rfl
@[simp] theorem State.countDie_bad (s : State) (d code n : Nat) : (s.countDie d code n).bad = s.bad := rfl
@[simp] theorem State.countDie_badTiles (s : State) (d code n : Nat) : (s.countDie d code n).badTiles = s.badTiles := rfl
@[simp] theorem State.countDie_badRows (s : State) (d code n : Nat) : (s.countDie d code n).badRows = s.badRows := rfl
@[simp] theorem State.countDie_events (s : State) (d code n : Nat) : (s.countDie d code n).events = s.events := rfl
@[simp] theorem State.countDie_roots (s : State) (d code n : Nat) : (s.countDie d code n).roots = s.roots := rfl
@[simp] theorem State.countDie_tlb (s : State) (d code n : Nat) : (s.countDie d code n).tlb = s.tlb := rfl
@[simp] theorem State.countDie_pkg (s : State) (d code n : Nat) : (s.countDie d code n).pkg = s.pkg := rfl
@[simp] theorem State.countDie_time (s : State) (d code n : Nat) : (s.countDie d code n).time = s.time := rfl
@[simp] theorem State.countDie_units (s : State) (d code n : Nat) : (s.countDie d code n).units = s.units := rfl

/-! `countPackage` -/

@[simp] theorem State.countPackage_cur (s : State) (code n : Nat) : (s.countPackage code n).cur = s.cur := rfl
@[simp] theorem State.countPackage_turns (s : State) (code n : Nat) : (s.countPackage code n).turns = s.turns := rfl
@[simp] theorem State.countPackage_now (s : State) (code n : Nat) : (s.countPackage code n).now = s.now := rfl
@[simp] theorem State.countPackage_evictPlan (s : State) (code n : Nat) : (s.countPackage code n).evictPlan = s.evictPlan := rfl
@[simp] theorem State.countPackage_steps (s : State) (code n : Nat) : (s.countPackage code n).steps = s.steps := rfl
@[simp] theorem State.countPackage_fresh (s : State) (code n : Nat) : (s.countPackage code n).fresh = s.fresh := rfl
@[simp] theorem State.countPackage_strands (s : State) (code n : Nat) : (s.countPackage code n).strands = s.strands := rfl
@[simp] theorem State.countPackage_cores (s : State) (code n : Nat) : (s.countPackage code n).cores = s.cores := rfl
@[simp] theorem State.countPackage_quads (s : State) (code n : Nat) : (s.countPackage code n).quads = s.quads := rfl
@[simp] theorem State.countPackage_dies (s : State) (code n : Nat) : (s.countPackage code n).dies = s.dies := rfl
@[simp] theorem State.countPackage_mem (s : State) (code n : Nat) : (s.countPackage code n).mem = s.mem := rfl
@[simp] theorem State.countPackage_tags (s : State) (code n : Nat) : (s.countPackage code n).tags = s.tags := rfl
@[simp] theorem State.countPackage_bad (s : State) (code n : Nat) : (s.countPackage code n).bad = s.bad := rfl
@[simp] theorem State.countPackage_badTiles (s : State) (code n : Nat) : (s.countPackage code n).badTiles = s.badTiles := rfl
@[simp] theorem State.countPackage_badRows (s : State) (code n : Nat) : (s.countPackage code n).badRows = s.badRows := rfl
@[simp] theorem State.countPackage_roots (s : State) (code n : Nat) : (s.countPackage code n).roots = s.roots := rfl
@[simp] theorem State.countPackage_tlb (s : State) (code n : Nat) : (s.countPackage code n).tlb = s.tlb := rfl
@[simp] theorem State.countPackage_pkg (s : State) (code n : Nat) : (s.countPackage code n).pkg = s.pkg := rfl
@[simp] theorem State.countPackage_time (s : State) (code n : Nat) : (s.countPackage code n).time = s.time := rfl

/-! `putByte` -/

@[simp] theorem State.putByte_cur (s : State) (a : Nat) (v : Byte) : (s.putByte a v).cur = s.cur := rfl
@[simp] theorem State.putByte_turns (s : State) (a : Nat) (v : Byte) : (s.putByte a v).turns = s.turns := rfl
@[simp] theorem State.putByte_agenda (s : State) (a : Nat) (v : Byte) : (s.putByte a v).agenda = s.agenda := rfl
@[simp] theorem State.putByte_now (s : State) (a : Nat) (v : Byte) : (s.putByte a v).now = s.now := rfl
@[simp] theorem State.putByte_evictPlan (s : State) (a : Nat) (v : Byte) : (s.putByte a v).evictPlan = s.evictPlan := rfl
@[simp] theorem State.putByte_steps (s : State) (a : Nat) (v : Byte) : (s.putByte a v).steps = s.steps := rfl
@[simp] theorem State.putByte_fresh (s : State) (a : Nat) (v : Byte) : (s.putByte a v).fresh = s.fresh := rfl
@[simp] theorem State.putByte_strands (s : State) (a : Nat) (v : Byte) : (s.putByte a v).strands = s.strands := rfl
@[simp] theorem State.putByte_cores (s : State) (a : Nat) (v : Byte) : (s.putByte a v).cores = s.cores := rfl
@[simp] theorem State.putByte_quads (s : State) (a : Nat) (v : Byte) : (s.putByte a v).quads = s.quads := rfl
@[simp] theorem State.putByte_dies (s : State) (a : Nat) (v : Byte) : (s.putByte a v).dies = s.dies := rfl
@[simp] theorem State.putByte_bad (s : State) (a : Nat) (v : Byte) : (s.putByte a v).bad = s.bad := rfl
@[simp] theorem State.putByte_badTiles (s : State) (a : Nat) (v : Byte) : (s.putByte a v).badTiles = s.badTiles := rfl
@[simp] theorem State.putByte_badRows (s : State) (a : Nat) (v : Byte) : (s.putByte a v).badRows = s.badRows := rfl
@[simp] theorem State.putByte_events (s : State) (a : Nat) (v : Byte) : (s.putByte a v).events = s.events := rfl
@[simp] theorem State.putByte_roots (s : State) (a : Nat) (v : Byte) : (s.putByte a v).roots = s.roots := rfl
@[simp] theorem State.putByte_tlb (s : State) (a : Nat) (v : Byte) : (s.putByte a v).tlb = s.tlb := rfl
@[simp] theorem State.putByte_pkg (s : State) (a : Nat) (v : Byte) : (s.putByte a v).pkg = s.pkg := rfl
@[simp] theorem State.putByte_time (s : State) (a : Nat) (v : Byte) : (s.putByte a v).time = s.time := rfl
@[simp] theorem State.putByte_units (s : State) (a : Nat) (v : Byte) : (s.putByte a v).units = s.units := rfl

/-! `putTag` -/

@[simp] theorem State.putTag_cur (s : State) (a : Nat) (v : Bool) : (s.putTag a v).cur = s.cur := rfl
@[simp] theorem State.putTag_turns (s : State) (a : Nat) (v : Bool) : (s.putTag a v).turns = s.turns := rfl
@[simp] theorem State.putTag_agenda (s : State) (a : Nat) (v : Bool) : (s.putTag a v).agenda = s.agenda := rfl
@[simp] theorem State.putTag_now (s : State) (a : Nat) (v : Bool) : (s.putTag a v).now = s.now := rfl
@[simp] theorem State.putTag_evictPlan (s : State) (a : Nat) (v : Bool) : (s.putTag a v).evictPlan = s.evictPlan := rfl
@[simp] theorem State.putTag_steps (s : State) (a : Nat) (v : Bool) : (s.putTag a v).steps = s.steps := rfl
@[simp] theorem State.putTag_fresh (s : State) (a : Nat) (v : Bool) : (s.putTag a v).fresh = s.fresh := rfl
@[simp] theorem State.putTag_strands (s : State) (a : Nat) (v : Bool) : (s.putTag a v).strands = s.strands := rfl
@[simp] theorem State.putTag_cores (s : State) (a : Nat) (v : Bool) : (s.putTag a v).cores = s.cores := rfl
@[simp] theorem State.putTag_quads (s : State) (a : Nat) (v : Bool) : (s.putTag a v).quads = s.quads := rfl
@[simp] theorem State.putTag_dies (s : State) (a : Nat) (v : Bool) : (s.putTag a v).dies = s.dies := rfl
@[simp] theorem State.putTag_mem (s : State) (a : Nat) (v : Bool) : (s.putTag a v).mem = s.mem := rfl
@[simp] theorem State.putTag_bad (s : State) (a : Nat) (v : Bool) : (s.putTag a v).bad = s.bad := rfl
@[simp] theorem State.putTag_badTiles (s : State) (a : Nat) (v : Bool) : (s.putTag a v).badTiles = s.badTiles := rfl
@[simp] theorem State.putTag_badRows (s : State) (a : Nat) (v : Bool) : (s.putTag a v).badRows = s.badRows := rfl
@[simp] theorem State.putTag_events (s : State) (a : Nat) (v : Bool) : (s.putTag a v).events = s.events := rfl
@[simp] theorem State.putTag_roots (s : State) (a : Nat) (v : Bool) : (s.putTag a v).roots = s.roots := rfl
@[simp] theorem State.putTag_tlb (s : State) (a : Nat) (v : Bool) : (s.putTag a v).tlb = s.tlb := rfl
@[simp] theorem State.putTag_pkg (s : State) (a : Nat) (v : Bool) : (s.putTag a v).pkg = s.pkg := rfl
@[simp] theorem State.putTag_time (s : State) (a : Nat) (v : Bool) : (s.putTag a v).time = s.time := rfl
@[simp] theorem State.putTag_units (s : State) (a : Nat) (v : Bool) : (s.putTag a v).units = s.units := rfl

/-! `Strand.advance` -/

@[simp] theorem Strand.advance_live (t : Strand) (n : Nat) : (t.advance n).live = t.live := rfl
@[simp] theorem Strand.advance_pcc (t : Strand) (n : Nat) : (t.advance n).pcc = t.pcc := rfl
@[simp] theorem Strand.advance_mode (t : Strand) (n : Nat) : (t.advance n).mode = t.mode := rfl
@[simp] theorem Strand.advance_tid (t : Strand) (n : Nat) : (t.advance n).tid = t.tid := rfl
@[simp] theorem Strand.advance_status (t : Strand) (n : Nat) : (t.advance n).status = t.status := rfl
@[simp] theorem Strand.advance_ctl (t : Strand) (n : Nat) : (t.advance n).ctl = t.ctl := rfl
@[simp] theorem Strand.advance_instret (t : Strand) (n : Nat) : (t.advance n).instret = t.instret := rfl
@[simp] theorem Strand.advance_timecmp (t : Strand) (n : Nat) : (t.advance n).timecmp = t.timecmp := rfl
@[simp] theorem Strand.advance_utrap (t : Strand) (n : Nat) : (t.advance n).utrap = t.utrap := rfl
@[simp] theorem Strand.advance_strap (t : Strand) (n : Nat) : (t.advance n).strap = t.strap := rfl
@[simp] theorem Strand.advance_htrap (t : Strand) (n : Nat) : (t.advance n).htrap = t.htrap := rfl
@[simp] theorem Strand.advance_uval2 (t : Strand) (n : Nat) : (t.advance n).uval2 = t.uval2 := rfl
@[simp] theorem Strand.advance_win (t : Strand) (n : Nat) : (t.advance n).win = t.win := rfl
@[simp] theorem Strand.advance_regs (t : Strand) (n : Nat) : (t.advance n).regs = t.regs := rfl
@[simp] theorem Strand.advance_eOwned (t : Strand) (n : Nat) : (t.advance n).eOwned = t.eOwned := rfl
@[simp] theorem Strand.advance_copies (t : Strand) (n : Nat) : (t.advance n).copies = t.copies := rfl
@[simp] theorem Strand.advance_frm (t : Strand) (n : Nat) : (t.advance n).frm = t.frm := rfl
@[simp] theorem Strand.advance_fexc (t : Strand) (n : Nat) : (t.advance n).fexc = t.fexc := rfl
@[simp] theorem Strand.advance_wlbound (t : Strand) (n : Nat) : (t.advance n).wlbound = t.wlbound := rfl
@[simp] theorem Strand.advance_wlstat (t : Strand) (n : Nat) : (t.advance n).wlstat = t.wlstat := rfl
@[simp] theorem Strand.advance_rqovf (t : Strand) (n : Nat) : (t.advance n).rqovf = t.rqovf := rfl
@[simp] theorem Strand.advance_sndto (t : Strand) (n : Nat) : (t.advance n).sndto = t.sndto := rfl
@[simp] theorem Strand.advance_depcol (t : Strand) (n : Nat) : (t.advance n).depcol = t.depcol := rfl
@[simp] theorem Strand.advance_felem (t : Strand) (n : Nat) : (t.advance n).felem = t.felem := rfl
@[simp] theorem Strand.advance_faddr (t : Strand) (n : Nat) : (t.advance n).faddr = t.faddr := rfl
@[simp] theorem Strand.advance_vec (t : Strand) (n : Nat) : (t.advance n).vec = t.vec := rfl
@[simp] theorem Strand.advance_mtx (t : Strand) (n : Nat) : (t.advance n).mtx = t.mtx := rfl
@[simp] theorem Strand.advance_stream (t : Strand) (n : Nat) : (t.advance n).stream = t.stream := rfl
@[simp] theorem Strand.advance_region (t : Strand) (n : Nat) : (t.advance n).region = t.region := rfl
@[simp] theorem Strand.advance_monitor (t : Strand) (n : Nat) : (t.advance n).monitor = t.monitor := rfl
@[simp] theorem Strand.advance_wake (t : Strand) (n : Nat) : (t.advance n).wake = t.wake := rfl
@[simp] theorem Strand.advance_inbox (t : Strand) (n : Nat) : (t.advance n).inbox = t.inbox := rfl
@[simp] theorem Strand.advance_areaFull (t : Strand) (n : Nat) : (t.advance n).areaFull = t.areaFull := rfl
@[simp] theorem Strand.advance_members (t : Strand) (n : Nat) : (t.advance n).members = t.members := rfl
@[simp] theorem Strand.advance_arrived (t : Strand) (n : Nat) : (t.advance n).arrived = t.arrived := rfl
@[simp] theorem Strand.advance_syncing (t : Strand) (n : Nat) : (t.advance n).syncing = t.syncing := rfl
@[simp] theorem Strand.advance_redTerms (t : Strand) (n : Nat) : (t.advance n).redTerms = t.redTerms := rfl
@[simp] theorem Strand.advance_redOpen (t : Strand) (n : Nat) : (t.advance n).redOpen = t.redOpen := rfl
@[simp] theorem Strand.advance_redStatus (t : Strand) (n : Nat) : (t.advance n).redStatus = t.redStatus := rfl
@[simp] theorem Strand.advance_tasks (t : Strand) (n : Nat) : (t.advance n).tasks = t.tasks := rfl
@[simp] theorem Strand.advance_lq (t : Strand) (n : Nat) : (t.advance n).lq = t.lq := rfl
@[simp] theorem Strand.advance_sq (t : Strand) (n : Nat) : (t.advance n).sq = t.sq := rfl
@[simp] theorem Strand.advance_xq (t : Strand) (n : Nat) : (t.advance n).xq = t.xq := rfl
@[simp] theorem Strand.advance_bqAE (t : Strand) (n : Nat) : (t.advance n).bqAE = t.bqAE := rfl
@[simp] theorem Strand.advance_bqEA (t : Strand) (n : Nat) : (t.advance n).bqEA = t.bqEA := rfl
@[simp] theorem Strand.advance_apart (t : Strand) (n : Nat) : (t.advance n).apart = t.apart := rfl
@[simp] theorem Strand.advance_operands (t : Strand) (n : Nat) : (t.advance n).operands = t.operands := rfl
@[simp] theorem Strand.advance_holding (t : Strand) (n : Nat) : (t.advance n).holding = t.holding := rfl
@[simp] theorem Strand.advance_owed (t : Strand) (n : Nat) : (t.advance n).owed = t.owed := rfl
@[simp] theorem Strand.advance_inSync (t : Strand) (n : Nat) : (t.advance n).inSync = t.inSync := rfl
@[simp] theorem Strand.advance_reissue (t : Strand) (n : Nat) : (t.advance n).reissue = t.reissue := rfl
@[simp] theorem Strand.advance_ir (t : Strand) (n : Nat) : (t.advance n).ir = t.ir := rfl
@[simp] theorem Strand.advance_role (t : Strand) (n : Nat) : (t.advance n).role = t.role := rfl
@[simp] theorem Strand.advance_inflight (t : Strand) (n : Nat) : (t.advance n).inflight = t.inflight := rfl
@[simp] theorem Strand.advance_pending (t : Strand) (n : Nat) : (t.advance n).pending = t.pending := rfl
@[simp] theorem Strand.advance_asleep (t : Strand) (n : Nat) : (t.advance n).asleep = t.asleep := rfl
@[simp] theorem Strand.advance_gangFault (t : Strand) (n : Nat) : (t.advance n).gangFault = t.gangFault := rfl
@[simp] theorem Strand.advance_gangIssued (t : Strand) (n : Nat) : (t.advance n).gangIssued = t.gangIssued := rfl
@[simp] theorem Strand.advance_answers (t : Strand) (n : Nat) : (t.advance n).answers = t.answers := rfl
@[simp] theorem Strand.advance_asked (t : Strand) (n : Nat) : (t.advance n).asked = t.asked := rfl
@[simp] theorem Strand.advance_opIndex (t : Strand) (n : Nat) : (t.advance n).opIndex = t.opIndex := rfl
@[simp] theorem Strand.advance_named (t : Strand) (n : Nat) : (t.advance n).named = t.named := rfl
@[simp] theorem Strand.advance_refusedAt (t : Strand) (n : Nat) : (t.advance n).refusedAt = t.refusedAt := rfl
@[simp] theorem Strand.advance_reoffer (t : Strand) (n : Nat) : (t.advance n).reoffer = t.reoffer := rfl
@[simp] theorem Strand.advance_pop (t : Strand) (n : Nat) : (t.advance n).pop = t.pop := rfl
@[simp] theorem Strand.advance_doomed (t : Strand) (n : Nat) : (t.advance n).doomed = t.doomed := rfl
@[simp] theorem Strand.advance_dropped (t : Strand) (n : Nat) : (t.advance n).dropped = t.dropped := rfl
@[simp] theorem Strand.advance_debug (t : Strand) (n : Nat) : (t.advance n).debugger = t.debugger := rfl
@[simp] theorem Strand.advance_launch (t : Strand) (n : Nat) : (t.advance n).launch = t.launch := rfl

/-! `Strand.putPhys` -/

@[simp] theorem Strand.putPhys_live (t : Strand) (p : Nat) (r : Reg) : (t.putPhys p r).live = t.live := rfl
@[simp] theorem Strand.putPhys_pcc (t : Strand) (p : Nat) (r : Reg) : (t.putPhys p r).pcc = t.pcc := rfl
@[simp] theorem Strand.putPhys_mode (t : Strand) (p : Nat) (r : Reg) : (t.putPhys p r).mode = t.mode := rfl
@[simp] theorem Strand.putPhys_tid (t : Strand) (p : Nat) (r : Reg) : (t.putPhys p r).tid = t.tid := rfl
@[simp] theorem Strand.putPhys_status (t : Strand) (p : Nat) (r : Reg) : (t.putPhys p r).status = t.status := rfl
@[simp] theorem Strand.putPhys_ctl (t : Strand) (p : Nat) (r : Reg) : (t.putPhys p r).ctl = t.ctl := rfl
@[simp] theorem Strand.putPhys_cycle (t : Strand) (p : Nat) (r : Reg) : (t.putPhys p r).cycle = t.cycle := rfl
@[simp] theorem Strand.putPhys_instret (t : Strand) (p : Nat) (r : Reg) : (t.putPhys p r).instret = t.instret := rfl
@[simp] theorem Strand.putPhys_timecmp (t : Strand) (p : Nat) (r : Reg) : (t.putPhys p r).timecmp = t.timecmp := rfl
@[simp] theorem Strand.putPhys_utrap (t : Strand) (p : Nat) (r : Reg) : (t.putPhys p r).utrap = t.utrap := rfl
@[simp] theorem Strand.putPhys_strap (t : Strand) (p : Nat) (r : Reg) : (t.putPhys p r).strap = t.strap := rfl
@[simp] theorem Strand.putPhys_htrap (t : Strand) (p : Nat) (r : Reg) : (t.putPhys p r).htrap = t.htrap := rfl
@[simp] theorem Strand.putPhys_uval2 (t : Strand) (p : Nat) (r : Reg) : (t.putPhys p r).uval2 = t.uval2 := rfl
@[simp] theorem Strand.putPhys_win (t : Strand) (p : Nat) (r : Reg) : (t.putPhys p r).win = t.win := rfl
@[simp] theorem Strand.putPhys_frm (t : Strand) (p : Nat) (r : Reg) : (t.putPhys p r).frm = t.frm := rfl
@[simp] theorem Strand.putPhys_fexc (t : Strand) (p : Nat) (r : Reg) : (t.putPhys p r).fexc = t.fexc := rfl
@[simp] theorem Strand.putPhys_wlbound (t : Strand) (p : Nat) (r : Reg) : (t.putPhys p r).wlbound = t.wlbound := rfl
@[simp] theorem Strand.putPhys_wlstat (t : Strand) (p : Nat) (r : Reg) : (t.putPhys p r).wlstat = t.wlstat := rfl
@[simp] theorem Strand.putPhys_rqovf (t : Strand) (p : Nat) (r : Reg) : (t.putPhys p r).rqovf = t.rqovf := rfl
@[simp] theorem Strand.putPhys_sndto (t : Strand) (p : Nat) (r : Reg) : (t.putPhys p r).sndto = t.sndto := rfl
@[simp] theorem Strand.putPhys_depcol (t : Strand) (p : Nat) (r : Reg) : (t.putPhys p r).depcol = t.depcol := rfl
@[simp] theorem Strand.putPhys_felem (t : Strand) (p : Nat) (r : Reg) : (t.putPhys p r).felem = t.felem := rfl
@[simp] theorem Strand.putPhys_faddr (t : Strand) (p : Nat) (r : Reg) : (t.putPhys p r).faddr = t.faddr := rfl
@[simp] theorem Strand.putPhys_vec (t : Strand) (p : Nat) (r : Reg) : (t.putPhys p r).vec = t.vec := rfl
@[simp] theorem Strand.putPhys_mtx (t : Strand) (p : Nat) (r : Reg) : (t.putPhys p r).mtx = t.mtx := rfl
@[simp] theorem Strand.putPhys_stream (t : Strand) (p : Nat) (r : Reg) : (t.putPhys p r).stream = t.stream := rfl
@[simp] theorem Strand.putPhys_region (t : Strand) (p : Nat) (r : Reg) : (t.putPhys p r).region = t.region := rfl
@[simp] theorem Strand.putPhys_monitor (t : Strand) (p : Nat) (r : Reg) : (t.putPhys p r).monitor = t.monitor := rfl
@[simp] theorem Strand.putPhys_wake (t : Strand) (p : Nat) (r : Reg) : (t.putPhys p r).wake = t.wake := rfl
@[simp] theorem Strand.putPhys_inbox (t : Strand) (p : Nat) (r : Reg) : (t.putPhys p r).inbox = t.inbox := rfl
@[simp] theorem Strand.putPhys_areaFull (t : Strand) (p : Nat) (r : Reg) : (t.putPhys p r).areaFull = t.areaFull := rfl
@[simp] theorem Strand.putPhys_members (t : Strand) (p : Nat) (r : Reg) : (t.putPhys p r).members = t.members := rfl
@[simp] theorem Strand.putPhys_arrived (t : Strand) (p : Nat) (r : Reg) : (t.putPhys p r).arrived = t.arrived := rfl
@[simp] theorem Strand.putPhys_syncing (t : Strand) (p : Nat) (r : Reg) : (t.putPhys p r).syncing = t.syncing := rfl
@[simp] theorem Strand.putPhys_redTerms (t : Strand) (p : Nat) (r : Reg) : (t.putPhys p r).redTerms = t.redTerms := rfl
@[simp] theorem Strand.putPhys_redOpen (t : Strand) (p : Nat) (r : Reg) : (t.putPhys p r).redOpen = t.redOpen := rfl
@[simp] theorem Strand.putPhys_redStatus (t : Strand) (p : Nat) (r : Reg) : (t.putPhys p r).redStatus = t.redStatus := rfl
@[simp] theorem Strand.putPhys_tasks (t : Strand) (p : Nat) (r : Reg) : (t.putPhys p r).tasks = t.tasks := rfl
@[simp] theorem Strand.putPhys_lq (t : Strand) (p : Nat) (r : Reg) : (t.putPhys p r).lq = t.lq := rfl
@[simp] theorem Strand.putPhys_sq (t : Strand) (p : Nat) (r : Reg) : (t.putPhys p r).sq = t.sq := rfl
@[simp] theorem Strand.putPhys_xq (t : Strand) (p : Nat) (r : Reg) : (t.putPhys p r).xq = t.xq := rfl
@[simp] theorem Strand.putPhys_bqAE (t : Strand) (p : Nat) (r : Reg) : (t.putPhys p r).bqAE = t.bqAE := rfl
@[simp] theorem Strand.putPhys_bqEA (t : Strand) (p : Nat) (r : Reg) : (t.putPhys p r).bqEA = t.bqEA := rfl
@[simp] theorem Strand.putPhys_apart (t : Strand) (p : Nat) (r : Reg) : (t.putPhys p r).apart = t.apart := rfl
@[simp] theorem Strand.putPhys_operands (t : Strand) (p : Nat) (r : Reg) : (t.putPhys p r).operands = t.operands := rfl
@[simp] theorem Strand.putPhys_holding (t : Strand) (p : Nat) (r : Reg) : (t.putPhys p r).holding = t.holding := rfl
@[simp] theorem Strand.putPhys_owed (t : Strand) (p : Nat) (r : Reg) : (t.putPhys p r).owed = t.owed := rfl
@[simp] theorem Strand.putPhys_inSync (t : Strand) (p : Nat) (r : Reg) : (t.putPhys p r).inSync = t.inSync := rfl
@[simp] theorem Strand.putPhys_reissue (t : Strand) (p : Nat) (r : Reg) : (t.putPhys p r).reissue = t.reissue := rfl
@[simp] theorem Strand.putPhys_ir (t : Strand) (p : Nat) (r : Reg) : (t.putPhys p r).ir = t.ir := rfl
@[simp] theorem Strand.putPhys_role (t : Strand) (p : Nat) (r : Reg) : (t.putPhys p r).role = t.role := rfl
@[simp] theorem Strand.putPhys_clk (t : Strand) (p : Nat) (r : Reg) : (t.putPhys p r).clk = t.clk := rfl
@[simp] theorem Strand.putPhys_inflight (t : Strand) (p : Nat) (r : Reg) : (t.putPhys p r).inflight = t.inflight := rfl
@[simp] theorem Strand.putPhys_pending (t : Strand) (p : Nat) (r : Reg) : (t.putPhys p r).pending = t.pending := rfl
@[simp] theorem Strand.putPhys_asleep (t : Strand) (p : Nat) (r : Reg) : (t.putPhys p r).asleep = t.asleep := rfl
@[simp] theorem Strand.putPhys_gangFault (t : Strand) (p : Nat) (r : Reg) : (t.putPhys p r).gangFault = t.gangFault := rfl
@[simp] theorem Strand.putPhys_gangIssued (t : Strand) (p : Nat) (r : Reg) : (t.putPhys p r).gangIssued = t.gangIssued := rfl
@[simp] theorem Strand.putPhys_answers (t : Strand) (p : Nat) (r : Reg) : (t.putPhys p r).answers = t.answers := rfl
@[simp] theorem Strand.putPhys_asked (t : Strand) (p : Nat) (r : Reg) : (t.putPhys p r).asked = t.asked := rfl
@[simp] theorem Strand.putPhys_opIndex (t : Strand) (p : Nat) (r : Reg) : (t.putPhys p r).opIndex = t.opIndex := rfl
@[simp] theorem Strand.putPhys_named (t : Strand) (p : Nat) (r : Reg) : (t.putPhys p r).named = t.named := rfl
@[simp] theorem Strand.putPhys_refusedAt (t : Strand) (p : Nat) (r : Reg) : (t.putPhys p r).refusedAt = t.refusedAt := rfl
@[simp] theorem Strand.putPhys_reoffer (t : Strand) (p : Nat) (r : Reg) : (t.putPhys p r).reoffer = t.reoffer := rfl
@[simp] theorem Strand.putPhys_pop (t : Strand) (p : Nat) (r : Reg) : (t.putPhys p r).pop = t.pop := rfl
@[simp] theorem Strand.putPhys_doomed (t : Strand) (p : Nat) (r : Reg) : (t.putPhys p r).doomed = t.doomed := rfl
@[simp] theorem Strand.putPhys_dropped (t : Strand) (p : Nat) (r : Reg) : (t.putPhys p r).dropped = t.dropped := rfl
@[simp] theorem Strand.putPhys_debug (t : Strand) (p : Nat) (r : Reg) : (t.putPhys p r).debugger = t.debugger := rfl
@[simp] theorem Strand.putPhys_launch (t : Strand) (p : Nat) (r : Reg) : (t.putPhys p r).launch = t.launch := rfl

/-! `Strand.putW` -/

@[simp] theorem Strand.putW_live (t : Strand) (n : Nat) (r : Reg) : (t.putW n r).live = t.live := rfl
@[simp] theorem Strand.putW_pcc (t : Strand) (n : Nat) (r : Reg) : (t.putW n r).pcc = t.pcc := rfl
@[simp] theorem Strand.putW_mode (t : Strand) (n : Nat) (r : Reg) : (t.putW n r).mode = t.mode := rfl
@[simp] theorem Strand.putW_tid (t : Strand) (n : Nat) (r : Reg) : (t.putW n r).tid = t.tid := rfl
@[simp] theorem Strand.putW_status (t : Strand) (n : Nat) (r : Reg) : (t.putW n r).status = t.status := rfl
@[simp] theorem Strand.putW_ctl (t : Strand) (n : Nat) (r : Reg) : (t.putW n r).ctl = t.ctl := rfl
@[simp] theorem Strand.putW_cycle (t : Strand) (n : Nat) (r : Reg) : (t.putW n r).cycle = t.cycle := rfl
@[simp] theorem Strand.putW_instret (t : Strand) (n : Nat) (r : Reg) : (t.putW n r).instret = t.instret := rfl
@[simp] theorem Strand.putW_timecmp (t : Strand) (n : Nat) (r : Reg) : (t.putW n r).timecmp = t.timecmp := rfl
@[simp] theorem Strand.putW_utrap (t : Strand) (n : Nat) (r : Reg) : (t.putW n r).utrap = t.utrap := rfl
@[simp] theorem Strand.putW_strap (t : Strand) (n : Nat) (r : Reg) : (t.putW n r).strap = t.strap := rfl
@[simp] theorem Strand.putW_htrap (t : Strand) (n : Nat) (r : Reg) : (t.putW n r).htrap = t.htrap := rfl
@[simp] theorem Strand.putW_uval2 (t : Strand) (n : Nat) (r : Reg) : (t.putW n r).uval2 = t.uval2 := rfl
@[simp] theorem Strand.putW_win (t : Strand) (n : Nat) (r : Reg) : (t.putW n r).win = t.win := rfl
@[simp] theorem Strand.putW_frm (t : Strand) (n : Nat) (r : Reg) : (t.putW n r).frm = t.frm := rfl
@[simp] theorem Strand.putW_fexc (t : Strand) (n : Nat) (r : Reg) : (t.putW n r).fexc = t.fexc := rfl
@[simp] theorem Strand.putW_wlbound (t : Strand) (n : Nat) (r : Reg) : (t.putW n r).wlbound = t.wlbound := rfl
@[simp] theorem Strand.putW_wlstat (t : Strand) (n : Nat) (r : Reg) : (t.putW n r).wlstat = t.wlstat := rfl
@[simp] theorem Strand.putW_rqovf (t : Strand) (n : Nat) (r : Reg) : (t.putW n r).rqovf = t.rqovf := rfl
@[simp] theorem Strand.putW_sndto (t : Strand) (n : Nat) (r : Reg) : (t.putW n r).sndto = t.sndto := rfl
@[simp] theorem Strand.putW_depcol (t : Strand) (n : Nat) (r : Reg) : (t.putW n r).depcol = t.depcol := rfl
@[simp] theorem Strand.putW_felem (t : Strand) (n : Nat) (r : Reg) : (t.putW n r).felem = t.felem := rfl
@[simp] theorem Strand.putW_faddr (t : Strand) (n : Nat) (r : Reg) : (t.putW n r).faddr = t.faddr := rfl
@[simp] theorem Strand.putW_vec (t : Strand) (n : Nat) (r : Reg) : (t.putW n r).vec = t.vec := rfl
@[simp] theorem Strand.putW_mtx (t : Strand) (n : Nat) (r : Reg) : (t.putW n r).mtx = t.mtx := rfl
@[simp] theorem Strand.putW_stream (t : Strand) (n : Nat) (r : Reg) : (t.putW n r).stream = t.stream := rfl
@[simp] theorem Strand.putW_region (t : Strand) (n : Nat) (r : Reg) : (t.putW n r).region = t.region := rfl
@[simp] theorem Strand.putW_monitor (t : Strand) (n : Nat) (r : Reg) : (t.putW n r).monitor = t.monitor := rfl
@[simp] theorem Strand.putW_wake (t : Strand) (n : Nat) (r : Reg) : (t.putW n r).wake = t.wake := rfl
@[simp] theorem Strand.putW_inbox (t : Strand) (n : Nat) (r : Reg) : (t.putW n r).inbox = t.inbox := rfl
@[simp] theorem Strand.putW_areaFull (t : Strand) (n : Nat) (r : Reg) : (t.putW n r).areaFull = t.areaFull := rfl
@[simp] theorem Strand.putW_members (t : Strand) (n : Nat) (r : Reg) : (t.putW n r).members = t.members := rfl
@[simp] theorem Strand.putW_arrived (t : Strand) (n : Nat) (r : Reg) : (t.putW n r).arrived = t.arrived := rfl
@[simp] theorem Strand.putW_syncing (t : Strand) (n : Nat) (r : Reg) : (t.putW n r).syncing = t.syncing := rfl
@[simp] theorem Strand.putW_redTerms (t : Strand) (n : Nat) (r : Reg) : (t.putW n r).redTerms = t.redTerms := rfl
@[simp] theorem Strand.putW_redOpen (t : Strand) (n : Nat) (r : Reg) : (t.putW n r).redOpen = t.redOpen := rfl
@[simp] theorem Strand.putW_redStatus (t : Strand) (n : Nat) (r : Reg) : (t.putW n r).redStatus = t.redStatus := rfl
@[simp] theorem Strand.putW_tasks (t : Strand) (n : Nat) (r : Reg) : (t.putW n r).tasks = t.tasks := rfl
@[simp] theorem Strand.putW_lq (t : Strand) (n : Nat) (r : Reg) : (t.putW n r).lq = t.lq := rfl
@[simp] theorem Strand.putW_sq (t : Strand) (n : Nat) (r : Reg) : (t.putW n r).sq = t.sq := rfl
@[simp] theorem Strand.putW_xq (t : Strand) (n : Nat) (r : Reg) : (t.putW n r).xq = t.xq := rfl
@[simp] theorem Strand.putW_bqAE (t : Strand) (n : Nat) (r : Reg) : (t.putW n r).bqAE = t.bqAE := rfl
@[simp] theorem Strand.putW_bqEA (t : Strand) (n : Nat) (r : Reg) : (t.putW n r).bqEA = t.bqEA := rfl
@[simp] theorem Strand.putW_apart (t : Strand) (n : Nat) (r : Reg) : (t.putW n r).apart = t.apart := rfl
@[simp] theorem Strand.putW_operands (t : Strand) (n : Nat) (r : Reg) : (t.putW n r).operands = t.operands := rfl
@[simp] theorem Strand.putW_holding (t : Strand) (n : Nat) (r : Reg) : (t.putW n r).holding = t.holding := rfl
@[simp] theorem Strand.putW_owed (t : Strand) (n : Nat) (r : Reg) : (t.putW n r).owed = t.owed := rfl
@[simp] theorem Strand.putW_inSync (t : Strand) (n : Nat) (r : Reg) : (t.putW n r).inSync = t.inSync := rfl
@[simp] theorem Strand.putW_reissue (t : Strand) (n : Nat) (r : Reg) : (t.putW n r).reissue = t.reissue := rfl
@[simp] theorem Strand.putW_ir (t : Strand) (n : Nat) (r : Reg) : (t.putW n r).ir = t.ir := rfl
@[simp] theorem Strand.putW_role (t : Strand) (n : Nat) (r : Reg) : (t.putW n r).role = t.role := rfl
@[simp] theorem Strand.putW_clk (t : Strand) (n : Nat) (r : Reg) : (t.putW n r).clk = t.clk := rfl
@[simp] theorem Strand.putW_inflight (t : Strand) (n : Nat) (r : Reg) : (t.putW n r).inflight = t.inflight := rfl
@[simp] theorem Strand.putW_pending (t : Strand) (n : Nat) (r : Reg) : (t.putW n r).pending = t.pending := rfl
@[simp] theorem Strand.putW_asleep (t : Strand) (n : Nat) (r : Reg) : (t.putW n r).asleep = t.asleep := rfl
@[simp] theorem Strand.putW_gangFault (t : Strand) (n : Nat) (r : Reg) : (t.putW n r).gangFault = t.gangFault := rfl
@[simp] theorem Strand.putW_gangIssued (t : Strand) (n : Nat) (r : Reg) : (t.putW n r).gangIssued = t.gangIssued := rfl
@[simp] theorem Strand.putW_answers (t : Strand) (n : Nat) (r : Reg) : (t.putW n r).answers = t.answers := rfl
@[simp] theorem Strand.putW_asked (t : Strand) (n : Nat) (r : Reg) : (t.putW n r).asked = t.asked := rfl
@[simp] theorem Strand.putW_opIndex (t : Strand) (n : Nat) (r : Reg) : (t.putW n r).opIndex = t.opIndex := rfl
@[simp] theorem Strand.putW_named (t : Strand) (n : Nat) (r : Reg) : (t.putW n r).named = t.named := rfl
@[simp] theorem Strand.putW_refusedAt (t : Strand) (n : Nat) (r : Reg) : (t.putW n r).refusedAt = t.refusedAt := rfl
@[simp] theorem Strand.putW_reoffer (t : Strand) (n : Nat) (r : Reg) : (t.putW n r).reoffer = t.reoffer := rfl
@[simp] theorem Strand.putW_pop (t : Strand) (n : Nat) (r : Reg) : (t.putW n r).pop = t.pop := rfl
@[simp] theorem Strand.putW_doomed (t : Strand) (n : Nat) (r : Reg) : (t.putW n r).doomed = t.doomed := rfl
@[simp] theorem Strand.putW_dropped (t : Strand) (n : Nat) (r : Reg) : (t.putW n r).dropped = t.dropped := rfl
@[simp] theorem Strand.putW_debug (t : Strand) (n : Nat) (r : Reg) : (t.putW n r).debugger = t.debugger := rfl
@[simp] theorem Strand.putW_launch (t : Strand) (n : Nat) (r : Reg) : (t.putW n r).launch = t.launch := rfl

/-! ## Reads after writes -/

@[simp] theorem State.strand_withStrand_same (s : State) (b : Nat) (v : Strand) : (s.withStrand b v).strand b = v := by
  simp [State.withStrand, State.strand]

theorem State.strand_withStrand_ne (s : State) (b c : Nat) (v : Strand) (h : c ≠ b) :
    (s.withStrand b v).strand c = s.strand c := by
  simp [State.withStrand, State.strand, lookupD_storeAt_ne _ _ _ _ _ h]

@[simp] theorem State.self_withSelf (s : State) (v : Strand) : (s.withSelf v).self = v := by
  simp [State.withSelf, State.self, State.withStrand, State.strand]

theorem State.strand_withSelf_ne (s : State) (c : Nat) (v : Strand) (h : c ≠ s.cur) :
    (s.withSelf v).strand c = s.strand c := State.strand_withStrand_ne _ _ _ _ h

@[simp] theorem State.core_withSelf (s : State) (v : Strand) (c : Nat) : (s.withSelf v).core c = s.core c := rfl
@[simp] theorem State.strand_withCore (s : State) (c : Nat) (v : CoreState) (b : Nat) : (s.withCore c v).strand b = s.strand b := rfl
@[simp] theorem State.self_withCore (s : State) (c : Nat) (v : CoreState) : (s.withCore c v).self = s.self := rfl
@[simp] theorem State.self_countCore (s : State) (c code n : Nat) : (s.countCore c code n).self = s.self := rfl
@[simp] theorem State.self_spend (s : State) (c n : Nat) : (s.spend c n).self = s.self := rfl
@[simp] theorem State.strand_countCore (s : State) (c code n b : Nat) : (s.countCore c code n).strand b = s.strand b := rfl
@[simp] theorem State.strand_spend (s : State) (c n b : Nat) : (s.spend c n).strand b = s.strand b := rfl

@[simp] theorem State.core_withCore_same (s : State) (c : Nat) (v : CoreState) : (s.withCore c v).core c = v := by
  simp [State.withCore, State.core]

theorem State.core_withCore_ne (s : State) (c d : Nat) (v : CoreState) (h : d ≠ c) : (s.withCore c v).core d = s.core d := by
  simp [State.withCore, State.core, lookupD_storeAt_ne _ _ _ _ _ h]

@[simp] theorem State.quad_withQuad_same (s : State) (q : Nat) (v : QuadState) : (s.withQuad q v).quad q = v := by
  simp [State.withQuad, State.quad]

@[simp] theorem State.die_withDie_same (s : State) (d : Nat) (v : DieState) : (s.withDie d v).die d = v := by
  simp [State.withDie, State.die]

/-- A physical register reads what was written to it. -/
@[simp] theorem Strand.phys_putPhys_same (t : Strand) (p : Nat) (r : Reg) (h : p < 256) : (t.putPhys p r).phys p = r := by
  simp [Strand.putPhys, Strand.phys, Nat.mod_eq_of_lt h]

/-- Every other physical register reads as before. -/
theorem Strand.phys_putPhys_ne (t : Strand) (p q : Nat) (r : Reg) (h : q % 256 ≠ p) : (t.putPhys p r).phys q = t.phys q := by
  simp [Strand.putPhys, Strand.phys, lookupD_storeAt_ne _ _ _ _ _ h]

theorem Strand.physOf_lt (t : Strand) (n : Nat) : t.physOf n < 256 := Nat.mod_lt _ (by decide)

end Sys2Proof.Machine
end

