-- ==== Sys2Proof/Laws/Run.lean ====
section
/-! SUPPORT. Running one instruction: what sequencing, the prologue, reading and writing registers, and completion do. -/

namespace Sys2Proof.Machine

/-! ## Sequencing -/

theorem M.bind_ok {α β : Type} {m : M α} {f : α → M β} {s t : State} {a : α} (h : m s = .ok a t) :
    (m >>= f) s = f a t := by
  simp only [bind, EStateM.bind, h]

theorem M.bind_error {α β : Type} {m : M α} {f : α → M β} {s t : State} {e : Exc} (h : m s = .error e t) :
    (m >>= f) s = .error e t := by
  simp only [bind, EStateM.bind, h]

theorem M.pure_run {α : Type} (a : α) (s : State) : (pure a : M α) s = .ok a s := rfl
theorem M.get_run (s : State) : (get : M State) s = .ok s s := rfl
theorem M.set_run (s t : State) : (set t : M PUnit) s = .ok ⟨⟩ t := rfl
theorem M.modify_run (f : State → State) (s : State) : (modify f : M PUnit) s = .ok ⟨⟩ (f s) := rfl
theorem M.throw_run {α : Type} (e : Exc) (s : State) : (throw e : M α) s = .error e s := rfl
theorem self_run (s : State) : self s = .ok s.self s := rfl
theorem setSelf_run (t : Strand) (s : State) : setSelf t s = .ok () (s.withSelf t) := rfl
theorem modSelf_run (f : Strand → Strand) (s : State) : modSelf f s = .ok () (s.withSelf (f s.self)) := rfl

theorem raiseIf_false (c : BitVec 8) (v : Nat) (s : State) : raiseIf false c v s = .ok () s := rfl
theorem raiseIf_true (c : BitVec 8) (v : Nat) (s : State) :
    raiseIf true c v s = .error (.trap c (BitVec.ofNat 64 v) none) s := rfl

/-- An action that completes, undone or not, is seen through `attempt`. -/
theorem attempt_ok {α : Type} {m : M α} {s t : State} {a : α} (h : m s = .ok a t) : attempt m s = .ok (.ok a) t := by
  simp only [attempt, h]

theorem attempt_error {α : Type} {m : M α} {s t : State} {e : Exc} (h : m s = .error e t) :
    attempt m s = .ok (.error e) (s.undo t) := by
  simp only [attempt, h]

/-! ## The prologue -/

/-- The registers that an instruction names lie inside the frame, no result of theirs is outstanding, and the roles stand together. -/
def Strand.Clear (t : Strand) (regs : List RegUse) : Prop :=
  t.beyondFrame regs = none ∧ (∀ u ∈ regs, t.hazard u.file (t.hazardNum u) = none) ∧ t.apart = none ∧ t.operands = []

/-- The strand after the prologue of such an instruction: role, copies and names are noted. -/
def Strand.begun (t : Strand) (d : Desc) : Strand :=
  { t with
    role := t.roleOf d
    opIndex := 0
    copies := t.copies ||| regBits (t.crossing (t.roleOf d) d.regs)
    named := (d.regs.filter fun u => u.file = 0).map (·.num) }

theorem Strand.interlock_clear {t : Strand} {role : Role} {regs : List RegUse}
    (h : ∀ u ∈ regs, t.hazard u.file (t.hazardNum u) = none) : t.interlock role regs = t.clk := by
  unfold Strand.interlock
  generalize t.clk = c
  induction regs generalizing c with
  | nil => rfl
  | cons u us ih =>
    simp only [List.foldl_cons, h u (List.mem_cons_self ..)]
    exact ih (fun v hv => h v (List.mem_cons_of_mem _ hv)) c

theorem Strand.tooEarly_clear {t : Strand} {role : Role} {regs : List RegUse}
    (h : ∀ u ∈ regs, t.hazard u.file (t.hazardNum u) = none) : t.tooEarly role regs = none := by
  unfold Strand.tooEarly
  rw [List.find?_eq_none]
  intro u hu
  simp [h u hu]

theorem Strand.advance_zero (t : Strand) : t.advance 0 = t := by simp [Strand.advance]

/-- Where the roles stand together, nothing is handed over or passed. -/
theorem meetRoles_together {role : Role} {regs : List RegUse} {s : State} (h : s.self.apart = none) :
    meetRoles role regs s = .ok () s := by
  unfold meetRoles
  rw [M.bind_ok (self_run s)]
  simp only [h]
  rfl

/-- The prologue of an instruction whose registers are clear, after a privilege check that passes; one of the lane pool takes its
place in the dispatch queue besides. -/
theorem prologue_clear {d : Desc} {priv : M Unit} {s : State} (hl : d.steer ≠ .lanes) (hp : priv s = .ok () s)
    (h : s.self.Clear d.regs) : prologue d priv s = .ok () (s.withSelf (s.self.begun d)) := by
  obtain ⟨hf, hz, ha, -⟩ := h
  unfold prologue
  rw [M.bind_ok hp, M.bind_ok (self_run s)]
  simp only [hf]
  rw [M.bind_ok (meetRoles_together ha), M.bind_ok (self_run s)]
  simp only [Strand.interlock_clear hz, Nat.sub_self, Strand.advance_zero, Strand.tooEarly_clear hz, ite_self, if_neg hl]
  rfl

/-! ## Registers -/

theorem readW_clear {s : State} {n : RegNo} (i : Nat) (ho : s.self.operands = [])
    (h : s.self.hazard 0 (s.self.physOf n.toNat) = none) : readW i n s = .ok (s.self.phys (s.self.physOf n.toNat)) s := by
  simp [readW, h, ho]

theorem readX_clear {s : State} {n : RegNo} (i : Nat) (ho : s.self.operands = [])
    (h : s.self.hazard 0 (s.self.physOf n.toNat) = none) : readX i n s = .ok (s.self.phys (s.self.physOf n.toNat)).word s := by
  unfold readX
  rw [M.bind_ok (readW_clear i ho h)]
  rfl

theorem writeW_run (n : RegNo) (r : Reg) (s : State) : writeW n r s = .ok () (s.withSelf (s.self.putW n.toNat r)) := rfl

/-! ## Completion -/

/-- An instruction whose prologue passes and whose operation completes. -/
theorem runWith_ok {d : Desc} {extra : Nat} {priv : M Unit} {body : M Flow} {s t u : State} {flow : Flow}
    (hp : prologue d priv s = .ok () t) (hb : body t = .ok flow u) :
    runWith d extra priv body s = .next (u.commit s d extra flow) := by
  unfold runWith
  rw [M.bind_ok hp, hb]

/-- The same for an instruction that goes on at NPC. -/
theorem runOp_ok {d : Desc} {body : M Unit} {s u : State} (hl : d.steer ≠ .lanes) (h : s.self.Clear d.regs)
    (hb : body (s.withSelf (s.self.begun d)) = .ok () u) : runOp d body s = .next (u.commit s d 0 .next) := by
  refine runWith_ok (prologue_clear (priv := pure ()) hl rfl h) ?_
  rw [M.bind_ok hb]; rfl

theorem runFlow_ok {d : Desc} {body : M Flow} {s u : State} {flow : Flow} (hl : d.steer ≠ .lanes) (h : s.self.Clear d.regs)
    (hb : body (s.withSelf (s.self.begun d)) = .ok flow u) : runFlow d body s = .next (u.commit s d 0 flow) :=
  runWith_ok (prologue_clear (priv := pure ()) hl rfl h) hb

theorem runPriv_ok {d : Desc} {priv body : M Unit} {s u : State} (hl : d.steer ≠ .lanes) (hp : priv s = .ok () s) (h : s.self.Clear d.regs)
    (hb : body (s.withSelf (s.self.begun d)) = .ok () u) : runPriv d priv body s = .next (u.commit s d 0 .next) := by
  refine runWith_ok (prologue_clear hl hp h) ?_
  rw [M.bind_ok hb]; rfl

/-- An operation that raises a cause takes it, with what it did undone. -/
theorem runOp_trap {d : Desc} {body : M Unit} {s u : State} {c : BitVec 8} {v : Word} {v2 : Option Word}
    (hl : d.steer ≠ .lanes) (h : s.self.Clear d.regs) (hb : body (s.withSelf (s.self.begun d)) = .error (.trap c v v2) u) :
    runOp d body s = takeCause s (s.undo u) d c v v2 := by
  unfold runOp runWith
  rw [M.bind_ok (prologue_clear (priv := pure ()) hl rfl h), M.bind_error hb]; rfl

/-! ## What completion leaves -/

@[simp] theorem Strand.complete_phys (t pre : Strand) (d : Desc) (n : Nat) (p : Reg) (i : Nat) :
    (t.complete pre d n p).phys i = t.phys i := by
  simp [Strand.complete, Strand.noteResults, Strand.phys]

@[simp] theorem Strand.complete_pcc (t pre : Strand) (d : Desc) (n : Nat) (p : Reg) : (t.complete pre d n p).pcc = p := rfl

@[simp] theorem Strand.complete_instret (t pre : Strand) (d : Desc) (n : Nat) (p : Reg) :
    (t.complete pre d n p).instret = t.instret + 1 := by
  simp [Strand.complete, Strand.noteResults]

@[simp] theorem Strand.complete_apart (t pre : Strand) (d : Desc) (n : Nat) (p : Reg) :
    (t.complete pre d n p).apart = t.apart := by
  simp [Strand.complete, Strand.noteResults]

theorem Strand.meet_together {t : Strand} (h : t.apart = none) : t.meet = t := by
  unfold Strand.meet; simp only [h]

theorem Strand.pushOutcome_together {t : Strand} (p : Reg) (h : t.apart = none) : t.pushOutcome p = t := by
  unfold Strand.pushOutcome; simp only [h]

/-- The strand after an instruction that has gone on at NPC, where the roles stand together. -/
theorem State.self_commit_next {s : State} (pre : State) (d : Desc) (n : Nat) (h : s.self.apart = none) :
    (s.commit pre d n .next).self = s.self.complete pre.self d n (s.self.pccAt s.self.npc) := by
  simp [State.commit, Strand.pushOutcome_together _ h, Strand.meet_together, h]

theorem State.self_commit_goto {s : State} (pre : State) (d : Desc) (n : Nat) (p : Reg) (h : s.self.apart = none) :
    (s.commit pre d n (.goto p)).self = s.self.complete pre.self d n p := by
  simp [State.commit, Strand.pushOutcome_together _ h, Strand.meet_together, h]

end Sys2Proof.Machine
end

