-- ==== Sys2Proof/Laws/Commit.lean ====
section
/-! SUPPORT. What counting events and completing an instruction leave alone. -/

namespace Sys2Proof.Machine

/-! ## Counting -/

/-- Counters that fire are all that counting puts on the agenda. -/
theorem addEvents_fires (owner base code n : Nat) (m : SMap Counter) :
    ∀ e ∈ (addEvents owner base code n m).2, ∃ o k, e = Event.counterFire o k := by
  suffices h : ∀ (l : SMap Counter) (acc : SMap Counter × List Event),
      (∀ e ∈ acc.2, ∃ o k, e = Event.counterFire o k) →
      ∀ e ∈ (l.foldl (fun (acc : SMap Counter × List Event) e =>
        if code ≠ 0 && e.2.source.toNat = code then
          let (c, fires) := e.2.add n
          (acc.1 ++ [(e.1, c)], if fires then acc.2 ++ [.counterFire owner (base + e.1)] else acc.2)
        else (acc.1 ++ [e], acc.2)) acc).2, ∃ o k, e = Event.counterFire o k from h m ([], []) (by simp)
  intro l
  induction l with
  | nil => exact fun acc h => h
  | cons x l ih =>
    intro acc h
    refine ih _ ?_
    dsimp only
    split
    · dsimp only
      split
      · intro e he
        rcases List.mem_append.mp he with he | he
        · exact h e he
        · exact ⟨owner, base + x.1, by simpa using he⟩
      · exact h
    · exact h

theorem State.core_countCore (s : State) (c d code n : Nat) : (s.countCore c code n).core d =
    if d = c then { s.core c with counters := (addEvents c 0 code n (s.core c).counters).1 } else s.core d := by
  change (s.withCore c _).core d = _
  split
  · next h => subst h; rw [State.core_withCore_same]; rfl
  · next h => exact State.core_withCore_ne _ _ _ _ h

theorem State.agenda_countCore (s : State) (c code n : Nat) :
    (s.countCore c code n).agenda = s.agenda ++ (addEvents c 0 code n (s.core c).counters).2 := rfl

@[simp] theorem State.lines_countCore (s : State) (c d code n : Nat) :
    ((s.countCore c code n).core d).lines = (s.core d).lines := by rw [State.core_countCore]; split <;> simp_all
@[simp] theorem State.ring_countCore (s : State) (c d code n : Nat) :
    ((s.countCore c code n).core d).ring = (s.core d).ring := by rw [State.core_countCore]; split <;> simp_all
@[simp] theorem State.traced_countCore (s : State) (c d code n : Nat) :
    ((s.countCore c code n).core d).traced = (s.core d).traced := by rw [State.core_countCore]; split <;> simp_all
@[simp] theorem State.code_countCore (s : State) (c d code n : Nat) :
    ((s.countCore c code n).core d).code = (s.core d).code := by rw [State.core_countCore]; split <;> simp_all
@[simp] theorem State.queue_countCore (s : State) (c d code n : Nat) :
    ((s.countCore c code n).core d).queue = (s.core d).queue := by rw [State.core_countCore]; split <;> simp_all

theorem State.core_withClk (s : State) (c d k : Nat) : (s.withCore c { s.core c with clk := k }).core d =
    if d = c then { s.core c with clk := k } else s.core d := by
  split
  · next h => subst h; simp
  · next h => exact State.core_withCore_ne _ _ _ _ h

@[simp] theorem State.lines_spend (s : State) (c d n : Nat) : ((s.spend c n).core d).lines = (s.core d).lines := by
  unfold State.spend; dsimp only; rw [State.lines_countCore, State.core_withClk]; split <;> simp_all
@[simp] theorem State.ring_spend (s : State) (c d n : Nat) : ((s.spend c n).core d).ring = (s.core d).ring := by
  unfold State.spend; dsimp only; rw [State.ring_countCore, State.core_withClk]; split <;> simp_all
@[simp] theorem State.traced_spend (s : State) (c d n : Nat) : ((s.spend c n).core d).traced = (s.core d).traced := by
  unfold State.spend; dsimp only; rw [State.traced_countCore, State.core_withClk]; split <;> simp_all
@[simp] theorem State.code_spend (s : State) (c d n : Nat) : ((s.spend c n).core d).code = (s.core d).code := by
  unfold State.spend; dsimp only; rw [State.code_countCore, State.core_withClk]; split <;> simp_all
@[simp] theorem State.queue_spend (s : State) (c d n : Nat) : ((s.spend c n).core d).queue = (s.core d).queue := by
  unfold State.spend; dsimp only; rw [State.queue_countCore, State.core_withClk]; split <;> simp_all

/-- The agenda after counting. -/
theorem State.agenda_countCore_fires (s : State) (c code n : Nat) :
    ∃ es, (s.countCore c code n).agenda = s.agenda ++ es ∧ ∀ e ∈ es, ∃ o k, e = Event.counterFire o k :=
  ⟨_, s.agenda_countCore c code n, addEvents_fires c 0 code n _⟩

theorem State.agenda_spend_fires (s : State) (c n : Nat) :
    ∃ es, (s.spend c n).agenda = s.agenda ++ es ∧ ∀ e ∈ es, ∃ o k, e = Event.counterFire o k :=
  (s.withCore c _).agenda_countCore_fires c 1 n

/-! ## Completion -/

@[simp] theorem State.commit_cur (s pre : State) (d : Desc) (n : Nat) (f : Flow) : (s.commit pre d n f).cur = s.cur := by
  cases f <;> rfl

theorem State.strand_commit_ne (s pre : State) (d : Desc) (n : Nat) (f : Flow) (b : Nat) (h : b ≠ s.cur) :
    (s.commit pre d n f).strand b = s.strand b := by
  cases f with
  | ended => rfl
  | next => exact State.strand_withSelf_ne _ _ _ h
  | goto p => exact State.strand_withSelf_ne _ _ _ h

theorem State.agenda_commit (s pre : State) (d : Desc) (n : Nat) (f : Flow) :
    ∃ es, (s.commit pre d n f).agenda = s.agenda ++ es ∧ ∀ e ∈ es, ∃ o k, e = Event.counterFire o k := by
  obtain ⟨e1, h1, f1⟩ := s.agenda_spend_fires (coreOf s.cur) (1 + d.stall.toNat + n)
  obtain ⟨e2, h2, f2⟩ := (s.spend (coreOf s.cur) (1 + d.stall.toNat + n)).agenda_countCore_fires (coreOf s.cur) 2 1
  refine ⟨e1 ++ e2, ?_, ?_⟩
  · cases f <;> simp only [State.commit, State.withSelf_agenda] <;> rw [h2, h1, List.append_assoc]
  · intro e he
    rcases List.mem_append.mp he with he | he
    · exact f1 e he
    · exact f2 e he

@[simp] theorem State.rest_withSelf (s : State) (v : Strand) : (s.withSelf v).rest = s.rest := rfl
@[simp] theorem State.rest_countCore (s : State) (c code n : Nat) : (s.countCore c code n).rest = s.rest := rfl
@[simp] theorem State.rest_spend (s : State) (c n : Nat) : (s.spend c n).rest = s.rest := rfl

/-- A completion leaves everything but strands, cores and agenda as the operation left it. -/
@[simp] theorem State.rest_commit (s pre : State) (d : Desc) (n : Nat) (f : Flow) : (s.commit pre d n f).rest = s.rest := by
  cases f <;> simp [State.commit]

theorem State.core_commit (s pre : State) (d : Desc) (n : Nat) (f : Flow) (c : Nat) :
    ((s.commit pre d n f).core c).lines = (s.core c).lines ∧ ((s.commit pre d n f).core c).code = (s.core c).code ∧ ((s.commit pre d n f).core c).ring = (s.core c).ring ∧
    ((s.commit pre d n f).core c).traced = (s.core c).traced ∧ ((s.commit pre d n f).core c).queue = (s.core c).queue := by
  cases f <;> simp [State.commit]

/-- Completion changes nothing of a strand but what every completion changes. -/
@[simp] theorem Strand.still_complete (t pre : Strand) (d : Desc) (n : Nat) (p : Reg) : (t.complete pre d n p).still = t.still := by
  unfold Strand.complete Strand.noteResults; dsimp only; split <;> rfl

@[simp] theorem Strand.still_begun (t : Strand) (d : Desc) : (t.begun d).still = t.still := rfl
@[simp] theorem Strand.still_putPhys (t : Strand) (p : Nat) (r : Reg) : (t.putPhys p r).still = t.still := rfl
@[simp] theorem Strand.still_putW (t : Strand) (n : Nat) (r : Reg) : (t.putW n r).still = t.still := rfl

end Sys2Proof.Machine
end

