-- ==== Sys2Proof/Laws/Memory.lean ====
section
/-! SUPPORT. Memory: reads after writes, and that the operations on it keep its canonical form. -/

namespace Sys2Proof.Machine

/-! ## Reads after writes -/

theorem State.byteAt_putByte (s : State) (a b : Nat) (v : Byte) :
    (s.putByte a v).byteAt b = if canon b = canon a then v else s.byteAt b := by
  simp only [State.byteAt, State.putByte, lookupD_storeAt]

theorem State.byteAt_putByte_same (s : State) (a : Nat) (v : Byte) : (s.putByte a v).byteAt a = v := by
  simp [State.byteAt_putByte]

theorem State.byteAt_putByte_ne (s : State) (a b : Nat) (v : Byte) (h : canon b ≠ canon a) :
    (s.putByte a v).byteAt b = s.byteAt b := by
  simp [State.byteAt_putByte, h]

/-- Bytes put from an address leave every byte alone whose place none of them has. -/
theorem State.byteAt_putBytes_ne (s : State) (a b : Nat) (bs : List Byte)
    (h : ∀ i < bs.length, canon b ≠ canon (a + i)) : (s.putBytes a bs).byteAt b = s.byteAt b := by
  induction bs generalizing s a with
  | nil => rfl
  | cons v bs ih =>
    rw [State.putBytes, ih _ _ fun i hi => by
      have := h (i + 1) (by simp; omega)
      rwa [show a + (i + 1) = a + 1 + i by omega] at this]
    exact State.byteAt_putByte_ne _ _ _ _ (h 0 (by simp))

theorem State.byteAt_putTag (s : State) (a b : Nat) (t : Bool) : (s.putTag a t).byteAt b = s.byteAt b := rfl

theorem State.tagAt_putTag_same (s : State) (a : Nat) (t : Bool) : (s.putTag a t).tagAt a = t := by
  simp [State.tagAt, State.putTag]

/-- A write clears the tag of its granule (R78). -/
theorem State.tagAt_putByte_same (s : State) (a : Nat) (v : Byte) : (s.putByte a v).tagAt a = false := by
  simp [State.tagAt, State.putByte]

/-! ## The canonical form -/

/-- The form depends on the two maps alone. -/
theorem State.MemOk.congr {s t : State} (h : s.MemOk) (hm : t.mem = s.mem) (ht : t.tags = s.tags) : t.MemOk := by
  unfold State.MemOk at *
  rwa [hm, ht]

theorem State.memOk_reset : State.reset.MemOk := ⟨rfl, rfl⟩

theorem State.MemOk.putByte {s : State} (h : s.MemOk) (a : Nat) (b : Byte) : (s.putByte a b).MemOk :=
  ⟨canonical_storeAt (k := canon a) (v := b) h.1, canonical_storeAt (k := canon a / 16) (v := false) h.2⟩

theorem State.MemOk.putTag {s : State} (h : s.MemOk) (a : Nat) (t : Bool) : (s.putTag a t).MemOk :=
  ⟨h.1, canonical_storeAt (k := canon a / 16) (v := t) h.2⟩

theorem State.MemOk.putBytes {s : State} (h : s.MemOk) (a : Nat) (bs : List Byte) : (s.putBytes a bs).MemOk := by
  induction bs generalizing s a with
  | nil => exact h
  | cons b bs ih => exact ih (h.putByte a b) (a + 1)

theorem State.MemOk.countPackage {s : State} (h : s.MemOk) (c n : Nat) : (s.countPackage c n).MemOk :=
  h.congr rfl rfl

theorem State.MemOk.putSector {s : State} (h : s.MemOk) (a : Nat) (bs : List Byte) : (s.putSector a bs).MemOk := by
  unfold State.putSector
  split
  · exact h.putBytes a bs
  · split
    · exact State.MemOk.putBytes (s := { s with bad := storeAt 0 (canon a / 32) 0 s.bad }) (h.congr rfl rfl) a bs
    · exact h.countPackage _ _

/-- A fold of actions that each keep the form keeps it. -/
theorem State.MemOk.foldl {β : Type} {f : State → β → State} (hf : ∀ s b, State.MemOk s → (f s b).MemOk) {s : State}
    (h : s.MemOk) (l : List β) : (l.foldl f s).MemOk := by
  induction l generalizing s with
  | nil => exact h
  | cons b l ih => exact ih (hf s b h)

theorem State.MemOk.withStrand {s : State} (h : s.MemOk) (b : Nat) (v : Strand) : (s.withStrand b v).MemOk := h.congr rfl rfl
theorem State.MemOk.withSelf {s : State} (h : s.MemOk) (v : Strand) : (s.withSelf v).MemOk := h.congr rfl rfl
theorem State.MemOk.withCore {s : State} (h : s.MemOk) (c : Nat) (v : CoreState) : (s.withCore c v).MemOk := h.congr rfl rfl
theorem State.MemOk.withQuad {s : State} (h : s.MemOk) (q : Nat) (v : QuadState) : (s.withQuad q v).MemOk := h.congr rfl rfl
theorem State.MemOk.withDie {s : State} (h : s.MemOk) (d : Nat) (v : DieState) : (s.withDie d v).MemOk := h.congr rfl rfl
theorem State.MemOk.withColony {s : State} (h : s.MemOk) (i : Nat) (c : Option Colony) : (s.withColony i c).MemOk :=
  h.congr rfl rfl
theorem State.MemOk.countCore {s : State} (h : s.MemOk) (c k n : Nat) : (s.countCore c k n).MemOk := h.congr rfl rfl
theorem State.MemOk.countDie {s : State} (h : s.MemOk) (d k n : Nat) : (s.countDie d k n).MemOk := h.congr rfl rfl
theorem State.MemOk.spend {s : State} (h : s.MemOk) (c n : Nat) : (s.spend c n).MemOk := h.congr rfl rfl

theorem State.MemOk.wakeLine {s : State} (h : s.MemOk) (line : Nat) : (s.wakeLine line).MemOk :=
  State.MemOk.foldl (fun s sid hs => by dsimp only; split <;> first | exact hs.withStrand _ _ | exact hs) h _

theorem State.MemOk.wakeAt {s : State} (h : s.MemOk) (a : Nat) : (s.wakeAt a).MemOk := by
  unfold State.wakeAt
  split
  · exact (h.wakeLine _).wakeLine _
  · exact h.wakeLine _

theorem State.MemOk.l2Put {s : State} (h : s.MemOk) (a n : Nat) : (s.l2Put a n).MemOk := by
  unfold State.l2Put; dsimp only; split
  · exact h
  · exact h.congr rfl rfl

theorem State.MemOk.unregister {s : State} (h : s.MemOk) (line : Nat) : (s.unregister line).MemOk := by
  unfold State.unregister; split
  · exact h.congr rfl rfl
  · exact h

theorem State.MemOk.homePut {s : State} (h : s.MemOk) (a : Nat) (bs : List Byte) : (s.homePut a bs).MemOk :=
  State.MemOk.foldl (fun _ _ hs => (hs.l2Put _ _).wakeAt _) (State.MemOk.foldl (fun _ _ hs => hs.putSector _ _) h _) _

theorem State.MemOk.flushPartials {s : State} (h : s.MemOk) (line : Nat) (l : L1Line) (u : UpdateOnly) :
    (s.flushPartials line l u).MemOk :=
  State.MemOk.wakeAt (State.MemOk.l2Put (State.MemOk.foldl (fun _ _ hs => hs.putSector _ _) h _) _ _) _

theorem State.MemOk.writeBackLine {s : State} (h : s.MemOk) (core line : Nat) : (s.writeBackLine core line).MemOk := by
  unfold State.writeBackLine
  dsimp only
  split
  · exact ((h.flushPartials _ _ _).withCore _ _).unregister _
  · split
    · exact h
    · refine State.MemOk.withCore (State.MemOk.foldl (fun s g hs => ?_) (State.MemOk.foldl (fun s e hs => ?_)
        (State.MemOk.foldl (fun _ _ hs => hs.homePut _ _) h _) _) _) _ _
      · split
        · exact hs.putTag _ _
        · exact hs
      · split
        · exact hs.congr rfl rfl
        · exact hs

theorem State.MemOk.dropLine {s : State} (h : s.MemOk) (core line : Nat) : (s.dropLine core line).MemOk := h.withCore _ _

theorem State.MemOk.leaveLine {s : State} (h : s.MemOk) (core line : Nat) : (s.leaveLine core line).MemOk :=
  (h.writeBackLine core line).dropLine core line

theorem State.MemOk.recall {s : State} (h : s.MemOk) (line : Nat) : (s.recall line).MemOk :=
  State.MemOk.foldl (fun _ _ hs => hs.leaveLine _ _) h _

theorem State.MemOk.recallRange {s : State} (h : s.MemOk) (a n : Nat) : (s.recallRange a n).MemOk :=
  State.MemOk.foldl (fun _ _ hs => hs.recall _) h _

theorem State.MemOk.releaseCore {s : State} (h : s.MemOk) (core : Nat) : (s.releaseCore core).MemOk :=
  State.MemOk.foldl (fun _ _ hs => hs.writeBackLine _ _) h _

theorem State.MemOk.acquireCore {s : State} (h : s.MemOk) (core : Nat) : (s.acquireCore core).MemOk :=
  State.MemOk.foldl (fun _ _ hs => hs.leaveLine _ _) (h.withCore _ _) _

theorem State.MemOk.l1Room {s : State} (h : s.MemOk) (core line : Nat) : (s.l1Room core line).MemOk := by
  unfold State.l1Room; dsimp only
  split
  · exact h
  · split
    · exact h.leaveLine _ _
    · exact h

/-! ## Actions that keep the form -/

/-- However it ends, the action leaves memory in its form. -/
def KeepsMem {α : Type} (m : M α) : Prop := ∀ s : State, s.MemOk → match m s with
  | .ok _ t => t.MemOk
  | .error _ t => t.MemOk

theorem KeepsMem.pure {α : Type} (a : α) : KeepsMem (pure a : M α) := fun _ h => h

theorem KeepsMem.throw {α : Type} (e : Exc) : KeepsMem (throw e : M α) := fun _ h => h

theorem KeepsMem.get : KeepsMem (get : M State) := fun _ h => h

theorem KeepsMem.modify {f : State → State} (hf : ∀ s, State.MemOk s → (f s).MemOk) : KeepsMem (modify f : M PUnit) :=
  fun s h => hf s h

theorem KeepsMem.bind {α β : Type} {m : M α} {f : α → M β} (hm : KeepsMem m) (hf : ∀ a, KeepsMem (f a)) :
    KeepsMem (m >>= f) := by
  intro s h
  have := hm s h
  simp only [Bind.bind, EStateM.bind]
  cases hms : m s with
  | ok a t => rw [hms] at this; exact hf a t this
  | error e t => rw [hms] at this; exact this

/-- An action after a read of the state. -/
theorem KeepsMem.get_bind {β : Type} {f : State → M β} (hf : ∀ s : State, s.MemOk → KeepsMem (f s)) :
    KeepsMem ((MonadState.get : M State) >>= f) := fun s h => hf s h s h

theorem KeepsMem.ite {α : Type} {c : Prop} [Decidable c] {m n : M α} (hm : KeepsMem m) (hn : KeepsMem n) :
    KeepsMem (if c then m else n) := by
  split
  · exact hm
  · exact hn

theorem KeepsMem.attempt {α : Type} {m : M α} (hm : KeepsMem m) : KeepsMem (attempt m) := by
  intro s h
  have := hm s h
  simp only [Machine.attempt]
  cases hms : m s with
  | ok a t => rw [hms] at this; exact this
  | error e t => exact h

theorem KeepsMem.asStrand {α : Type} {sid : Nat} {m : M α} (hm : KeepsMem m) : KeepsMem (asStrand sid m) := by
  intro s h
  have := hm { s with cur := sid } (h.congr rfl rfl)
  simp only [Machine.asStrand]
  cases hms : m { s with cur := sid } with
  | ok a t => rw [hms] at this; exact this.congr rfl rfl
  | error e t => rw [hms] at this; exact this.congr rfl rfl

theorem KeepsMem.raise {α : Type} (c : BitVec 8) (v : Nat) : KeepsMem (raise c v : M α) := fun _ h => h

theorem KeepsMem.raiseIf (b : Bool) (c : BitVec 8) (v : Nat) : KeepsMem (raiseIf b c v) := by
  intro s h
  cases b
  · exact h
  · exact h

theorem KeepsMem.self : KeepsMem self := fun _ h => h
theorem KeepsMem.modSelf (f : Strand → Strand) : KeepsMem (modSelf f) := fun _ h => h.withSelf _
theorem KeepsMem.setSelf (t : Strand) : KeepsMem (setSelf t) := fun _ h => h.withSelf _
theorem KeepsMem.getStrand (b : Nat) : KeepsMem (getStrand b) := fun _ h => h
theorem KeepsMem.setStrand (b : Nat) (t : Strand) : KeepsMem (setStrand b t) := fun _ h => h.withStrand _ _
theorem KeepsMem.modStrand (b : Nat) (f : Strand → Strand) : KeepsMem (modStrand b f) := fun _ h => h.withStrand _ _
theorem KeepsMem.modCore (c : Nat) (f : CoreState → CoreState) : KeepsMem (modCore c f) := fun _ h => h.withCore _ _
theorem KeepsMem.modQuad (q : Nat) (f : QuadState → QuadState) : KeepsMem (modQuad q f) := fun _ h => h.withQuad _ _
theorem KeepsMem.post (e : Event) : KeepsMem (post e) := fun _ h => h.congr rfl rfl
theorem KeepsMem.freeValue : KeepsMem freeValue := fun _ h => h.congr rfl rfl

/-! What the shared operations over memory can do: they keep the form, whatever else they change. -/

theorem KeepsMem.homeRead (a n : Nat) : KeepsMem (homeRead a n) := fun _ h => h.recallRange a n
theorem KeepsMem.homeWrite (a : Nat) (bs : List Byte) : KeepsMem (homeWrite a bs) := fun _ h => (h.recallRange _ _).homePut _ _
theorem KeepsMem.checkSectors (va a n : Nat) : KeepsMem (checkSectors va a n) := by
  intro s h
  simp only [Machine.checkSectors]
  cases s.firstBad a n <;> exact h

theorem KeepsMem.fillLine (core a n : Nat) : KeepsMem (fillLine core a n) := by
  intro s h
  simp only [Machine.fillLine]
  split
  · exact ((h.recall _).l1Room _ _).withCore _ _
  · exact (((h.recall _).l1Room _ _).countCore _ _ _).withCore _ _

theorem KeepsMem.releaseAt (scope : Nat) : KeepsMem (releaseAt scope) := by
  intro s h
  by_cases hs : scope ≥ 2
  · simpa [Machine.releaseAt, hs, Bind.bind, EStateM.bind, M.get_run, M.set_run] using h.releaseCore _
  · simpa [Machine.releaseAt, hs, Bind.bind, EStateM.bind, M.get_run, M.pure_run] using h

theorem KeepsMem.acquireAt (scope : Nat) : KeepsMem (acquireAt scope) := by
  intro s h
  by_cases hs : scope ≥ 2
  · simpa [Machine.acquireAt, hs, M.modify_run] using h.acquireCore _
  · simpa [Machine.acquireAt, hs, M.modify_run, State.refetch] using h.withCore _ _

end Sys2Proof.Machine
end

