-- ==== Sys2Proof/Laws/PerInstr.lean ====
section
/-! SUPPORT. Laws per instruction. `Mapped`: what an instruction's encoding is made of has its place in the opcode map, so
that every instruction with parts has words; and one that stands for an event, or for a row that only a control word
selects, has none. -/

namespace Sys2Proof.Laws.Mapped

/-- The page and major opcode of an instruction's parts are in the opcode map (R38). -/
def Statement (i : Instr) : Prop := ∀ p : Parts, i.parts = some p → (opcodeMap p.page p.major).isSome = true

/-- An instruction whose parts are known is mapped when those are. -/
theorem of_parts {i : Instr} {p : Parts} (h : i.parts = some p) (hm : (opcodeMap p.page p.major).isSome = true) :
    Statement i := fun q hq => by
  rw [h] at hq
  exact Option.some.inj hq ▸ hm

/-- An instruction without parts is mapped. -/
theorem of_none {i : Instr} (h : i.parts = none) : Statement i := fun q hq => by
  rw [h] at hq
  cases hq

theorem hold (o : OpI) : Statement (.hold o) := of_parts rfl rfl
theorem mov (o : OpRR) : Statement (.mov o) := of_parts rfl rfl
theorem add (o : OpRRC) : Statement (.add o) := of_parts rfl rfl
theorem sub (o : OpRRC) : Statement (.sub o) := of_parts rfl rfl
theorem and (o : OpRRC) : Statement (.and o) := of_parts rfl rfl
theorem or (o : OpRRC) : Statement (.or o) := of_parts rfl rfl
theorem xor (o : OpRRC) : Statement (.xor o) := of_parts rfl rfl
theorem shl (o : OpRRC) : Statement (.shl o) := of_parts rfl rfl
theorem shr (o : OpRRC) : Statement (.shr o) := of_parts rfl rfl
theorem sra (o : OpRRC) : Statement (.sra o) := of_parts rfl rfl
theorem mul (o : OpRRC) : Statement (.mul o) := of_parts rfl rfl
theorem addi (o : OpRI) : Statement (.addi o) := of_parts rfl rfl
theorem movi (o : OpRI) : Statement (.movi o) := of_parts rfl rfl
theorem andi (o : OpRI) : Statement (.andi o) := of_parts rfl rfl
theorem shli (o : OpRI) : Statement (.shli o) := of_parts rfl rfl
theorem shri (o : OpRI) : Statement (.shri o) := of_parts rfl rfl
theorem srai (o : OpRI) : Statement (.srai o) := of_parts rfl rfl
theorem ceq (o : OpRRC) : Statement (.ceq o) := of_parts rfl rfl
theorem clt (o : OpRRC) : Statement (.clt o) := of_parts rfl rfl
theorem cltn (o : OpRRC) : Statement (.cltn o) := of_parts rfl rfl
theorem sel (o : OpRRR) : Statement (.sel o) := of_parts rfl rfl
theorem ldk (o : OpRI) : Statement (.ldk o) := of_parts rfl rfl
theorem bz (o : OpRI) : Statement (.bz o) := of_parts rfl rfl
theorem bnz (o : OpRI) : Statement (.bnz o) := of_parts rfl rfl
theorem blt (o : OpRX) : Statement (.blt o) := of_parts rfl rfl
theorem bge (o : OpRX) : Statement (.bge o) := of_parts rfl rfl
theorem bltn (o : OpRX) : Statement (.bltn o) := of_parts rfl rfl
theorem bgen (o : OpRX) : Statement (.bgen o) := of_parts rfl rfl
theorem j (o : OpI) : Statement (.j o) := of_parts rfl rfl
theorem jr (o : OpR) : Statement (.jr o) := of_parts rfl rfl
theorem call (o : OpI) : Statement (.call o) := of_parts rfl rfl
theorem callr (o : OpR) : Statement (.callr o) := of_parts rfl rfl
theorem ret (o : OpN) : Statement (.ret o) := of_parts rfl rfl
theorem enter (o : OpI) : Statement (.enter o) := of_parts rfl rfl
theorem wshr (o : OpI) : Statement (.wshr o) := of_parts rfl rfl
theorem ld (o : OpRX) (m : MemMod) : Statement (.ld o m) := of_parts rfl rfl
theorem st (o : OpRX) (m : MemMod) : Statement (.st o m) := of_parts rfl rfl
theorem ldc (o : OpRX) (m : MemMod) : Statement (.ldc o m) := of_parts rfl rfl
theorem stc (o : OpRX) (m : MemMod) : Statement (.stc o m) := of_parts rfl rfl
theorem lea (o : OpRRC) : Statement (.lea o) := of_parts rfl rfl
theorem amoAdd (o : OpRRR) (m : AmoMod) : Statement (.amoAdd o m) := of_parts rfl rfl
theorem amoAnd (o : OpRRR) (m : AmoMod) : Statement (.amoAnd o m) := of_parts rfl rfl
theorem amoOr (o : OpRRR) (m : AmoMod) : Statement (.amoOr o m) := of_parts rfl rfl
theorem amoXor (o : OpRRR) (m : AmoMod) : Statement (.amoXor o m) := of_parts rfl rfl
theorem amoMin (o : OpRRR) (m : AmoMod) : Statement (.amoMin o m) := of_parts rfl rfl
theorem amoMax (o : OpRRR) (m : AmoMod) : Statement (.amoMax o m) := of_parts rfl rfl
theorem amoMinn (o : OpRRR) (m : AmoMod) : Statement (.amoMinn o m) := of_parts rfl rfl
theorem amoMaxn (o : OpRRR) (m : AmoMod) : Statement (.amoMaxn o m) := of_parts rfl rfl
theorem amoSwap (o : OpRRR) (m : AmoMod) : Statement (.amoSwap o m) := of_parts rfl rfl
theorem cas (o : OpRRR) (m : MemMod) : Statement (.cas o m) := of_parts rfl rfl
theorem frd (o : OpRR) (m : MemMod) : Statement (.frd o m) := of_parts rfl rfl
theorem fwr (o : OpRR) (m : MemMod) : Statement (.fwr o m) := of_parts rfl rfl
theorem arv (o : OpR) : Statement (.arv o) := of_parts rfl rfl
theorem bwt (o : OpR) : Statement (.bwt o) := of_parts rfl rfl
theorem ard (o : OpR) : Statement (.ard o) := of_parts rfl rfl
theorem mon (o : OpR) : Statement (.mon o) := of_parts rfl rfl
theorem wait (o : OpN) : Statement (.wait o) := of_parts rfl rfl
theorem push (o : OpRRR) : Statement (.push o) := of_parts rfl rfl
theorem pop (o : OpRR) : Statement (.pop o) := of_parts rfl rfl
theorem sync (o : OpN) (m : MemMod) : Statement (.sync o m) := of_parts rfl rfl
theorem send (o : OpRRR) : Statement (.send o) := of_parts rfl rfl
theorem recv (o : OpRR) : Statement (.recv o) := of_parts rfl rfl
theorem csrr (o : OpRI) : Statement (.csrr o) := of_parts rfl rfl
theorem csrw (o : OpRI) : Statement (.csrw o) := of_parts rfl rfl
theorem csrwTimecmp (o : OpRI) : Statement (.csrwTimecmp o) := of_parts rfl rfl
theorem csrwRqovf (o : OpRI) : Statement (.csrwRqovf o) := of_parts rfl rfl
theorem trap (o : OpI) : Statement (.trap o) := of_parts rfl rfl
theorem uret (o : OpN) : Statement (.uret o) := of_parts rfl rfl
theorem fenceAcq (o : OpN) (m : MemMod) : Statement (.fenceAcq o m) := of_parts rfl rfl
theorem fenceRel (o : OpN) (m : MemMod) : Statement (.fenceRel o m) := of_parts rfl rfl
theorem fenceAr (o : OpN) (m : MemMod) : Statement (.fenceAr o m) := of_parts rfl rfl
theorem brk (o : OpI) : Statement (.brk o) := of_parts rfl rfl
theorem div (o : OpRRC) : Statement (.div o) := of_parts rfl rfl
theorem divn (o : OpRRC) : Statement (.divn o) := of_parts rfl rfl
theorem rem (o : OpRRC) : Statement (.rem o) := of_parts rfl rfl
theorem remn (o : OpRRC) : Statement (.remn o) := of_parts rfl rfl
theorem mulh (o : OpRRC) : Statement (.mulh o) := of_parts rfl rfl
theorem mulhn (o : OpRRC) : Statement (.mulhn o) := of_parts rfl rfl
theorem clz (o : OpRR) : Statement (.clz o) := of_parts rfl rfl
theorem ctz (o : OpRR) : Statement (.ctz o) := of_parts rfl rfl
theorem popc (o : OpRR) : Statement (.popc o) := of_parts rfl rfl
theorem bswap (o : OpRR) : Statement (.bswap o) := of_parts rfl rfl
theorem rot (o : OpRRC) : Statement (.rot o) := of_parts rfl rfl
theorem bext (o : OpRX) : Statement (.bext o) := of_parts rfl rfl
theorem bins (o : OpRX) : Statement (.bins o) := of_parts rfl rfl
theorem min (o : OpRRC) : Statement (.min o) := of_parts rfl rfl
theorem max (o : OpRRC) : Statement (.max o) := of_parts rfl rfl
theorem minn (o : OpRRC) : Statement (.minn o) := of_parts rfl rfl
theorem maxn (o : OpRRC) : Statement (.maxn o) := of_parts rfl rfl
theorem fadd (o : OpRRC) (m : VecMod) : Statement (.fadd o m) := of_parts rfl rfl
theorem fsub (o : OpRRC) (m : VecMod) : Statement (.fsub o m) := of_parts rfl rfl
theorem fmul (o : OpRRC) (m : VecMod) : Statement (.fmul o m) := of_parts rfl rfl
theorem fdiv (o : OpRRC) (m : VecMod) : Statement (.fdiv o m) := of_parts rfl rfl
theorem fsqrt (o : OpRR) (m : VecMod) : Statement (.fsqrt o m) := of_parts rfl rfl
theorem fma (o : OpRRR) (m : VecMod) : Statement (.fma o m) := of_parts rfl rfl
theorem fmin (o : OpRRC) (m : VecMod) : Statement (.fmin o m) := of_parts rfl rfl
theorem fmax (o : OpRRC) (m : VecMod) : Statement (.fmax o m) := of_parts rfl rfl
theorem fceq (o : OpRRC) (m : VecMod) : Statement (.fceq o m) := of_parts rfl rfl
theorem fclt (o : OpRRC) (m : VecMod) : Statement (.fclt o m) := of_parts rfl rfl
theorem fcle (o : OpRRC) (m : VecMod) : Statement (.fcle o m) := of_parts rfl rfl
theorem fcvt (o : OpRX) (m : VecMod) : Statement (.fcvt o m) := of_parts rfl rfl
theorem fcvti (o : OpRX) (m : VecMod) : Statement (.fcvti o m) := of_parts rfl rfl
theorem icvtf (o : OpRX) (m : VecMod) : Statement (.icvtf o m) := of_parts rfl rfl
theorem fclass (o : OpRR) (m : VecMod) : Statement (.fclass o m) := of_parts rfl rfl
theorem cbase (o : OpRR) : Statement (.cbase o) := of_parts rfl rfl
theorem clen (o : OpRR) : Statement (.clen o) := of_parts rfl rfl
theorem cperm (o : OpRR) : Statement (.cperm o) := of_parts rfl rfl
theorem cbound (o : OpRRC) : Statement (.cbound o) := of_parts rfl rfl
theorem crestr (o : OpRRC) : Statement (.crestr o) := of_parts rfl rfl
theorem ctid (o : OpRR) : Statement (.ctid o) := of_parts rfl rfl
theorem cclr (o : OpR) : Statement (.cclr o) := of_parts rfl rfl
theorem cmint (o : OpRRR) : Statement (.cmint o) := of_parts rfl rfl
theorem csub (o : OpRRC) : Statement (.csub o) := of_parts rfl rfl
theorem sret (o : OpN) : Statement (.sret o) := of_parts rfl rfl
theorem hret (o : OpN) : Statement (.hret o) := of_parts rfl rfl
theorem wfi (o : OpN) : Statement (.wfi o) := of_parts rfl rfl
theorem ctxs (o : OpR) : Statement (.ctxs o) := of_parts rfl rfl
theorem ctxr (o : OpR) : Statement (.ctxr o) := of_parts rfl rfl
theorem cgtag (o : OpRR) : Statement (.cgtag o) := of_parts rfl rfl
theorem vclaim (o : OpRR) : Statement (.vclaim o) := of_parts rfl rfl
theorem vsetl (o : OpRR) (m : VecMod) : Statement (.vsetl o m) := of_parts rfl rfl
theorem vld (o : OpRX) (m : VecMod) : Statement (.vld o m) := of_parts rfl rfl
theorem vst (o : OpRX) (m : VecMod) : Statement (.vst o m) := of_parts rfl rfl
theorem vlds (o : OpRRR) (m : VecMod) : Statement (.vlds o m) := of_parts rfl rfl
theorem vsts (o : OpRRR) (m : VecMod) : Statement (.vsts o m) := of_parts rfl rfl
theorem vgat (o : OpRRR) (m : VecMod) : Statement (.vgat o m) := of_parts rfl rfl
theorem vsca (o : OpRRR) (m : VecMod) : Statement (.vsca o m) := of_parts rfl rfl
theorem vscac (o : OpRRR) (m : VecMod) : Statement (.vscac o m) := of_parts rfl rfl
theorem vconf (o : OpRR) (m : VecMod) : Statement (.vconf o m) := of_parts rfl rfl
theorem vldl (o : OpRX) (m : VecMod) : Statement (.vldl o m) := of_parts rfl rfl
theorem vstl (o : OpRX) (m : VecMod) : Statement (.vstl o m) := of_parts rfl rfl
theorem vadd (o : OpRRC) (m : VecMod) : Statement (.vadd o m) := of_parts rfl rfl
theorem vsub (o : OpRRC) (m : VecMod) : Statement (.vsub o m) := of_parts rfl rfl
theorem vmul (o : OpRRC) (m : VecMod) : Statement (.vmul o m) := of_parts rfl rfl
theorem vfma (o : OpRRR) (m : VecMod) : Statement (.vfma o m) := of_parts rfl rfl
theorem vmin (o : OpRRC) (m : VecMod) : Statement (.vmin o m) := of_parts rfl rfl
theorem vmax (o : OpRRC) (m : VecMod) : Statement (.vmax o m) := of_parts rfl rfl
theorem vand (o : OpRRC) (m : VecMod) : Statement (.vand o m) := of_parts rfl rfl
theorem vor (o : OpRRC) (m : VecMod) : Statement (.vor o m) := of_parts rfl rfl
theorem vxor (o : OpRRC) (m : VecMod) : Statement (.vxor o m) := of_parts rfl rfl
theorem vshl (o : OpRRC) (m : VecMod) : Statement (.vshl o m) := of_parts rfl rfl
theorem vshr (o : OpRRC) (m : VecMod) : Statement (.vshr o m) := of_parts rfl rfl
theorem vsra (o : OpRRC) (m : VecMod) : Statement (.vsra o m) := of_parts rfl rfl
theorem vceq (o : OpRRC) (m : VecMod) : Statement (.vceq o m) := of_parts rfl rfl
theorem vclt (o : OpRRC) (m : VecMod) : Statement (.vclt o m) := of_parts rfl rfl
theorem vcle (o : OpRRC) (m : VecMod) : Statement (.vcle o m) := of_parts rfl rfl
theorem vsel (o : OpRRR) (m : VecMod) : Statement (.vsel o m) := of_parts rfl rfl
theorem vbc (o : OpRR) (m : VecMod) : Statement (.vbc o m) := of_parts rfl rfl
theorem vxt (o : OpRRR) (m : VecMod) : Statement (.vxt o m) := of_parts rfl rfl
theorem vredSum (o : OpRR) (m : VecMod) : Statement (.vredSum o m) := of_parts rfl rfl
theorem vredMin (o : OpRR) (m : VecMod) : Statement (.vredMin o m) := of_parts rfl rfl
theorem vredMax (o : OpRR) (m : VecMod) : Statement (.vredMax o m) := of_parts rfl rfl
theorem vredAnd (o : OpRR) (m : VecMod) : Statement (.vredAnd o m) := of_parts rfl rfl
theorem vredOr (o : OpRR) (m : VecMod) : Statement (.vredOr o m) := of_parts rfl rfl
theorem vredXor (o : OpRR) (m : VecMod) : Statement (.vredXor o m) := of_parts rfl rfl
theorem vscanSum (o : OpRR) (m : VecMod) : Statement (.vscanSum o m) := of_parts rfl rfl
theorem vscanMin (o : OpRR) (m : VecMod) : Statement (.vscanMin o m) := of_parts rfl rfl
theorem vscanMax (o : OpRR) (m : VecMod) : Statement (.vscanMax o m) := of_parts rfl rfl
theorem vscanAnd (o : OpRR) (m : VecMod) : Statement (.vscanAnd o m) := of_parts rfl rfl
theorem vscanOr (o : OpRR) (m : VecMod) : Statement (.vscanOr o m) := of_parts rfl rfl
theorem vscanXor (o : OpRR) (m : VecMod) : Statement (.vscanXor o m) := of_parts rfl rfl
theorem vcvt (o : OpRX) (m : VecMod) : Statement (.vcvt o m) := of_parts rfl rfl
theorem vexp2 (o : OpRR) (m : VecMod) : Statement (.vexp2 o m) := of_parts rfl rfl
theorem vlog2 (o : OpRR) (m : VecMod) : Statement (.vlog2 o m) := of_parts rfl rfl
theorem vrcp (o : OpRR) (m : VecMod) : Statement (.vrcp o m) := of_parts rfl rfl
theorem vrsq (o : OpRR) (m : VecMod) : Statement (.vrsq o m) := of_parts rfl rfl
theorem vperm (o : OpRRR) (m : VecMod) : Statement (.vperm o m) := of_parts rfl rfl
theorem vcmpz (o : OpRR) (m : VecMod) : Statement (.vcmpz o m) := of_parts rfl rfl
theorem vxpd (o : OpRR) (m : VecMod) : Statement (.vxpd o m) := of_parts rfl rfl
theorem vseed (o : OpRR) : Statement (.vseed o) := of_parts rfl rfl
theorem kand (o : OpRRC) : Statement (.kand o) := of_parts rfl rfl
theorem kor (o : OpRRC) : Statement (.kor o) := of_parts rfl rfl
theorem kpop (o : OpRR) : Statement (.kpop o) := of_parts rfl rfl
theorem kfirst (o : OpRR) : Statement (.kfirst o) := of_parts rfl rfl
theorem mqld (o : OpRR) (m : ModMod) : Statement (.mqld o m) := of_parts rfl rfl
theorem mcld (o : OpRR) (m : ModMod) : Statement (.mcld o m) := of_parts rfl rfl
theorem mqget (o : OpRR) (m : ModMod) : Statement (.mqget o m) := of_parts rfl rfl
theorem vmadd (o : OpRRC) (m : ModMod) : Statement (.vmadd o m) := of_parts rfl rfl
theorem vmsub (o : OpRRC) (m : ModMod) : Statement (.vmsub o m) := of_parts rfl rfl
theorem vmmul (o : OpRRC) (m : ModMod) : Statement (.vmmul o m) := of_parts rfl rfl
theorem vmmac (o : OpRRR) (m : ModMod) : Statement (.vmmac o m) := of_parts rfl rfl
theorem vmbf (o : OpRRR) (m : ModMod) : Statement (.vmbf o m) := of_parts rfl rfl
theorem vmibf (o : OpRRR) (m : ModMod) : Statement (.vmibf o m) := of_parts rfl rfl
theorem vbfxGather (o : OpRX) (m : ModMod) : Statement (.vbfxGather o m) := of_parts rfl rfl
theorem vbfxScatter (o : OpRX) (m : ModMod) : Statement (.vbfxScatter o m) := of_parts rfl rfl
theorem vbrev (o : OpRR) (m : ModMod) : Statement (.vbrev o m) := of_parts rfl rfl
theorem vmred (o : OpRR) (m : ModMod) : Statement (.vmred o m) := of_parts rfl rfl
theorem vmwide (o : OpRRC) (m : ModMod) : Statement (.vmwide o m) := of_parts rfl rfl
theorem tcfg (o : OpRR) : Statement (.tcfg o) := of_parts rfl rfl
theorem tdesc (o : OpRR) : Statement (.tdesc o) := of_parts rfl rfl
theorem tld (o : OpRX) (m : MemMod) : Statement (.tld o m) := of_parts rfl rfl
theorem tst (o : OpRX) (m : MemMod) : Statement (.tst o m) := of_parts rfl rfl
theorem tzero (o : OpR) : Statement (.tzero o) := of_parts rfl rfl
theorem mma (o : OpRRR) : Statement (.mma o) := of_parts rfl rfl
theorem mmag (o : OpRRR) : Statement (.mmag o) := of_parts rfl rfl
theorem mmcsr (o : OpRRR) : Statement (.mmcsr o) := of_parts rfl rfl
theorem mmbsr (o : OpRRR) : Statement (.mmbsr o) := of_parts rfl rfl
theorem mmt (o : OpRRR) : Statement (.mmt o) := of_parts rfl rfl
theorem accrd (o : OpRRR) (m : VecMod) : Statement (.accrd o m) := of_parts rfl rfl
theorem accwm (o : OpRR) : Statement (.accwm o) := of_parts rfl rfl
theorem accz (o : OpR) : Statement (.accz o) := of_parts rfl rfl
theorem ttr (o : OpRR) : Statement (.ttr o) := of_parts rfl rfl
theorem ixs (o : OpRR) : Statement (.ixs o) := of_parts rfl rfl
theorem ixget (o : OpRRR) : Statement (.ixget o) := of_parts rfl rfl
theorem ixst (o : OpRR) : Statement (.ixst o) := of_parts rfl rfl
theorem lra (o : OpRX) (m : MemMod) : Statement (.lra o m) := of_parts rfl rfl
theorem lrl (o : OpRX) (m : MemMod) : Statement (.lrl o m) := of_parts rfl rfl
theorem lrs (o : OpRX) (m : MemMod) : Statement (.lrs o m) := of_parts rfl rfl
theorem lrg (o : OpRX) (m : MemMod) : Statement (.lrg o m) := of_parts rfl rfl
theorem lrc (o : OpN) (m : MemMod) : Statement (.lrc o m) := of_parts rfl rfl
theorem amouInteger (o : OpRRR) (m : AmouMod) : Statement (.amouInteger o m) := of_parts rfl rfl
theorem amouF32 (o : OpRRR) (m : AmoMod) : Statement (.amouF32 o m) := of_parts rfl rfl
theorem amouF64 (o : OpRRR) (m : AmoMod) : Statement (.amouF64 o m) := of_parts rfl rfl
theorem amof (o : OpRRR) (m : AmoMod) : Statement (.amof o m) := of_parts rfl rfl
theorem nma (o : OpRRR) : Statement (.nma o) := of_parts rfl rfl
theorem pf (o : OpRX) (m : MemMod) : Statement (.pf o m) := of_parts rfl rfl
theorem wb (o : OpRX) (m : MemMod) : Statement (.wb o m) := of_parts rfl rfl
theorem inv (o : OpRX) (m : MemMod) : Statement (.inv o m) := of_parts rfl rfl
theorem fencx (o : OpN) (m : PathMod) : Statement (.fencx o m) := of_parts rfl rfl
theorem rput (o : OpRRR) (m : MemMod) : Statement (.rput o m) := of_parts rfl rfl
theorem rget (o : OpRRR) (m : MemMod) : Statement (.rget o m) := of_parts rfl rfl
theorem rdep (o : OpRRR) (m : MemMod) : Statement (.rdep o m) := of_parts rfl rfl
theorem cpy (o : OpRR) : Statement (.cpy o) := of_parts rfl rfl
theorem cpyw (o : OpRR) : Statement (.cpyw o) := of_parts rfl rfl
theorem nredSum (o : OpRRR) (m : RedMod) : Statement (.nredSum o m) := of_parts rfl rfl
theorem nredMin (o : OpRRR) (m : RedMod) : Statement (.nredMin o m) := of_parts rfl rfl
theorem nredMax (o : OpRRR) (m : RedMod) : Statement (.nredMax o m) := of_parts rfl rfl
theorem nredMerge2 (o : OpRRR) : Statement (.nredMerge2 o) := of_parts rfl rfl
theorem nredw (o : OpRR) : Statement (.nredw o) := of_parts rfl rfl
theorem bmem (o : OpRRC) : Statement (.bmem o) := of_parts rfl rfl
theorem wlnew (o : OpR) : Statement (.wlnew o) := of_parts rfl rfl
theorem wlcfgConfigure (o : OpRRR) : Statement (.wlcfgConfigure o) := of_parts rfl rfl
theorem wlst (o : OpRR) : Statement (.wlst o) := of_parts rfl rfl
theorem ctrsel (o : OpRR) : Statement (.ctrsel o) := of_parts rfl rfl
theorem ctrrd (o : OpRR) : Statement (.ctrrd o) := of_parts rfl rfl
theorem ctrarmArm (o : OpRRR) : Statement (.ctrarmArm o) := of_parts rfl rfl
theorem yield (o : OpRR) : Statement (.yield o) := of_parts rfl rfl
theorem colopConfigure (o : OpRR) : Statement (.colopConfigure o) := of_parts rfl rfl
theorem ringcfgBind (o : OpRRR) : Statement (.ringcfgBind o) := of_parts rfl rfl
theorem bdgtRead (o : OpRR) : Statement (.bdgtRead o) := of_parts rfl rfl
theorem tslotEntry (o : OpRR) : Statement (.tslotEntry o) := of_parts rfl rfl
theorem dlogStatus (o : OpRR) : Statement (.dlogStatus o) := of_parts rfl rfl
theorem nmld (o : OpRRC) : Statement (.nmld o) := of_parts rfl rfl
theorem tinvPage (o : OpRR) : Statement (.tinvPage o) := of_parts rfl rfl
theorem wlcfgFree : Statement (.wlcfgFree) := of_none rfl
theorem ctrarmDisarm : Statement (.ctrarmDisarm) := of_none rfl
theorem colopRead : Statement (.colopRead) := of_none rfl
theorem colopSplit : Statement (.colopSplit) := of_none rfl
theorem colopMerge : Statement (.colopMerge) := of_none rfl
theorem colopRemove : Statement (.colopRemove) := of_none rfl
theorem colopHold : Statement (.colopHold) := of_none rfl
theorem colopRelease : Statement (.colopRelease) := of_none rfl
theorem colopAdopt : Statement (.colopAdopt) := of_none rfl
theorem colopDebug : Statement (.colopDebug) := of_none rfl
theorem colopHalt : Statement (.colopHalt) := of_none rfl
theorem colopResume : Statement (.colopResume) := of_none rfl
theorem colopPeek : Statement (.colopPeek) := of_none rfl
theorem colopPoke : Statement (.colopPoke) := of_none rfl
theorem colopColour : Statement (.colopColour) := of_none rfl
theorem colopRoot : Statement (.colopRoot) := of_none rfl
theorem colopControl : Statement (.colopControl) := of_none rfl
theorem colopJob : Statement (.colopJob) := of_none rfl
theorem colopMulticast : Statement (.colopMulticast) := of_none rfl
theorem ringcfgUnbind : Statement (.ringcfgUnbind) := of_none rfl
theorem bdgtWrite : Statement (.bdgtWrite) := of_none rfl
theorem tslotControl : Statement (.tslotControl) := of_none rfl
theorem dlogStart : Statement (.dlogStart) := of_none rfl
theorem dlogStop : Statement (.dlogStop) := of_none rfl
theorem dlogLeaveBitmap : Statement (.dlogLeaveBitmap) := of_none rfl
theorem tinvTenant : Statement (.tinvTenant) := of_none rfl
theorem tinvAll : Statement (.tinvAll) := of_none rfl
theorem vrel : Statement (.vrel) := of_parts rfl rfl
theorem wldone : Statement (.wldone) := of_parts rfl rfl
theorem trapDelivery : Statement (.trapDelivery) := of_none rfl
theorem timerInterrupt : Statement (.timerInterrupt) := of_none rfl
theorem scoutLaunch : Statement (.scoutLaunch) := of_none rfl
theorem scoutStop : Statement (.scoutStop) := of_none rfl
theorem scoutConfigurePush : Statement (.scoutConfigurePush) := of_none rfl
theorem deferredStart : Statement (.deferredStart) := of_none rfl
theorem dispatchRound : Statement (.dispatchRound) := of_none rfl
theorem matrixRowWrite : Statement (.matrixRowWrite) := of_none rfl
theorem ixMergeStep : Statement (.ixMergeStep) := of_none rfl
theorem registerWindowAccess : Statement (.registerWindowAccess) := of_none rfl
theorem scratchpadWriteArrival : Statement (.scratchpadWriteArrival) := of_none rfl
theorem messageAccept : Statement (.messageAccept) := of_none rfl
theorem overflowRefill : Statement (.overflowRefill) := of_none rfl
theorem sendTimeout : Statement (.sendTimeout) := of_none rfl
theorem reofferNotice : Statement (.reofferNotice) := of_none rfl
theorem sendReoffer : Statement (.sendReoffer) := of_none rfl
theorem depositArrival : Statement (.depositArrival) := of_none rfl
theorem waitWake : Statement (.waitWake) := of_none rfl
theorem bwtReturn : Statement (.bwtReturn) := of_none rfl
theorem l2TagParityError : Statement (.l2TagParityError) := of_none rfl
theorem patrolScrub : Statement (.patrolScrub) := of_none rfl
theorem countApply : Statement (.countApply) := of_none rfl
theorem popCheck : Statement (.popCheck) := of_none rfl
theorem dminReport : Statement (.dminReport) := of_none rfl
theorem taskEndApply : Statement (.taskEndApply) := of_none rfl
theorem popCancel : Statement (.popCancel) := of_none rfl
theorem popAnswer : Statement (.popAnswer) := of_none rfl
theorem nmaRoutine : Statement (.nmaRoutine) := of_none rfl
theorem copyCommand : Statement (.copyCommand) := of_none rfl
theorem followOnIssue : Statement (.followOnIssue) := of_none rfl
theorem combineWindowClose : Statement (.combineWindowClose) := of_none rfl
theorem sliceEnd : Statement (.sliceEnd) := of_none rfl
theorem forcedSave : Statement (.forcedSave) := of_none rfl
theorem loadReissueTimeout : Statement (.loadReissueTimeout) := of_none rfl
theorem colonySaveDone : Statement (.colonySaveDone) := of_none rfl
theorem colonyLoad : Statement (.colonyLoad) := of_none rfl
theorem budgetPeriod : Statement (.budgetPeriod) := of_none rfl
theorem operatingPoint : Statement (.operatingPoint) := of_none rfl
theorem counterFire : Statement (.counterFire) := of_none rfl
theorem ppsEdge : Statement (.ppsEdge) := of_none rfl
theorem timeOfDayMessage : Statement (.timeOfDayMessage) := of_none rfl
theorem ppsLoss : Statement (.ppsLoss) := of_none rfl
theorem reset : Statement (.reset) := of_none rfl
theorem attestationReport : Statement (.attestationReport) := of_none rfl
theorem bootRequest : Statement (.bootRequest) := of_none rfl
theorem timeStatus : Statement (.timeStatus) := of_none rfl
theorem hostWrite : Statement (.hostWrite) := of_none rfl
theorem hostRead : Statement (.hostRead) := of_none rfl
theorem hostBarrierWrite : Statement (.hostBarrierWrite) := of_none rfl
theorem flitReceive : Statement (.flitReceive) := of_none rfl
theorem laneFailure : Statement (.laneFailure) := of_none rfl
theorem laneWidthOrder : Statement (.laneWidthOrder) := of_none rfl
theorem portDown : Statement (.portDown) := of_none rfl
theorem packetForward : Statement (.packetForward) := of_none rfl
theorem remoteRequest : Statement (.remoteRequest) := of_none rfl
theorem remoteAnswer : Statement (.remoteAnswer) := of_none rfl
theorem mirrorReport : Statement (.mirrorReport) := of_none rfl
theorem requestTimeout : Statement (.requestTimeout) := of_none rfl
theorem probe : Statement (.probe) := of_none rfl
theorem probeTimeout : Statement (.probeTimeout) := of_none rfl
theorem peerDownNotice : Statement (.peerDownNotice) := of_none rfl
theorem combineHold : Statement (.combineHold) := of_none rfl
theorem combineDepart : Statement (.combineDepart) := of_none rfl
theorem combinedAtHome : Statement (.combinedAtHome) := of_none rfl
theorem combSplit : Statement (.combSplit) := of_none rfl
theorem reductionCombine : Statement (.reductionCombine) := of_none rfl
theorem reductionResultDeliver : Statement (.reductionResultDeliver) := of_none rfl
theorem uncorrectableError : Statement (.uncorrectableError) := of_none rfl
theorem loadValueReturn : Statement (.loadValueReturn) := of_none rfl

end Sys2Proof.Laws.Mapped

namespace Sys2Proof

/-- With every instruction mapped, it has words exactly when it has parts. -/
theorem encode_isSome {i : Instr} (h : Laws.Mapped.Statement i) : (encode i).isSome = i.parts.isSome := by
  unfold encode
  cases hp : i.parts with
  | none => rfl
  | some p =>
    have := h p hp
    cases hm : opcodeMap p.page p.major with
    | none => simp [hm] at this
    | some x => simp [hm]

end Sys2Proof
end

