-- ==== Sys2Proof/Tests/Slice0.lean ====
section
/-! SUPPORT. Tests: words written out from the manual's encoding tables, malformed words with their fates, ill-formed terms that
the checks refuse, and witnesses that the hypotheses of the statements can be met. -/

namespace Sys2Proof.Tests

open Sys2Proof.Machine

/-! ## Decoding (R24 to R38)

The words are laid out from the opcode map, the shapes and the modifier layouts of the encoding chapter. -/

/-- The words decode to the instruction, and the encoder gives words that decode to it. -/
def reads (e : List IWord × Instr) : Bool :=
  (match decodeWords e.1 with
    | some (.ok i) => i == e.2
    | _ => false) &&
  (match (encode e.2).bind decodeWords with
    | some (.ok i) => i == e.2
    | _ => false)

/-- Page 0: hold, mov, add, sub, and, or, xor, shl, shr, sra, mul, addi, movi, andi, shli, shri, srai, ceq, clt, cltn, sel, ldk, bz, bnz. -/
theorem test_decode_page0_a : (([([0x3F02, 0x800A], .hold { st := 2#2, imm := 42#34 }),
     ([0x3D09, 0x8156], .mov { st := 2#2, a := 21#6, b := 38#6 }),
     ([0xFD89, 0x8256], .add { st := 2#2, a := 21#6, b := 38#6, c := some (56#6) }),
     ([0xFD89, 0x8356], .sub { st := 2#2, a := 21#6, b := 38#6, c := some (56#6) }),
     ([0xFD89, 0x8456], .and { st := 2#2, a := 21#6, b := 38#6, c := some (56#6) }),
     ([0xFD89, 0x8556], .or { st := 2#2, a := 21#6, b := 38#6, c := some (56#6) }),
     ([0xFD89, 0x8656], .xor { st := 2#2, a := 21#6, b := 38#6, c := some (56#6) }),
     ([0xFD89, 0x8756], .shl { st := 2#2, a := 21#6, b := 38#6, c := some (56#6) })] : List (List IWord × Instr)) ++
    ([([0xFD89, 0x8856], .shr { st := 2#2, a := 21#6, b := 38#6, c := some (56#6) }),
     ([0xFD89, 0x8956], .sra { st := 2#2, a := 21#6, b := 38#6, c := some (56#6) }),
     ([0xFD89, 0x8A56], .mul { st := 2#2, a := 21#6, b := 38#6, c := some (56#6) }),
     ([0x3D01, 0xFFFE, 0x8B5D], .addi { st := 2#2, a := 21#6, imm := 17179869165#34 }),
     ([0x3D01, 0xFFFE, 0x8C5D], .movi { st := 2#2, a := 21#6, imm := 17179869165#34 }),
     ([0x3D01, 0xFFFE, 0x8D5D], .andi { st := 2#2, a := 21#6, imm := 17179869165#34 }),
     ([0x3D01, 0x3F02, 0x8E5A], .shli { st := 2#2, a := 21#6, imm := 42#34 }),
     ([0x3D01, 0x3F02, 0x8F5A], .shri { st := 2#2, a := 21#6, imm := 42#34 })] : List (List IWord × Instr)) ++
    ([([0x3D01, 0x3F02, 0x905A], .srai { st := 2#2, a := 21#6, imm := 42#34 }),
     ([0xFD89, 0x9156], .ceq { st := 2#2, a := 21#6, b := 38#6, c := some (56#6) }),
     ([0xFD89, 0x9256], .clt { st := 2#2, a := 21#6, b := 38#6, c := some (56#6) }),
     ([0xFD89, 0x9356], .cltn { st := 2#2, a := 21#6, b := 38#6, c := some (56#6) }),
     ([0xFD89, 0x9456], .sel { st := 2#2, a := 21#6, b := 38#6, c := 56#6, imm := 0#34 }),
     ([0x3D01, 0xFFFE, 0x955D], .ldk { st := 2#2, a := 21#6, imm := 17179869165#34 }),
     ([0x3D01, 0xFFFE, 0x965D], .bz { st := 2#2, a := 21#6, imm := 17179869165#34 }),
     ([0x3D01, 0xFFFE, 0x975D], .bnz { st := 2#2, a := 21#6, imm := 17179869165#34 })] : List (List IWord × Instr))).all reads = true := by decide +kernel

/-- Page 0: blt, bge, bltn, bgen, j, jr, call, callr, ret, enter, wshr, ld, st, ldc, stc, lea, amo. -/
theorem test_decode_page0_b : (([([0x3D09, 0xFFE0, 0x9856], .blt { st := 2#2, a := 21#6, b := 38#6, imm := 17179869152#34 }),
     ([0x3D09, 0xFFE0, 0x9956], .bge { st := 2#2, a := 21#6, b := 38#6, imm := 17179869152#34 }),
     ([0x3D09, 0xFFE0, 0x9A56], .bltn { st := 2#2, a := 21#6, b := 38#6, imm := 17179869152#34 }),
     ([0x3D09, 0xFFE0, 0x9B56], .bgen { st := 2#2, a := 21#6, b := 38#6, imm := 17179869152#34 }),
     ([0xFFFE, 0x9C0D], .j { st := 2#2, imm := 17179869165#34 }),
     ([0x3D01, 0x9D50], .jr { st := 2#2, a := 21#6 }),
     ([0xFFFE, 0x9E0D], .call { st := 2#2, imm := 17179869165#34 }),
     ([0x3D01, 0x9F50], .callr { st := 2#2, a := 21#6 })] : List (List IWord × Instr)) ++
    ([([0xA000], .ret { st := 2#2 }),
     ([0x3F02, 0xA10A], .enter { st := 2#2, imm := 42#34 }),
     ([0xFFFE, 0xA20D], .wshr { st := 2#2, imm := 17179869165#34 }),
     ([0x3D09, 0x3E49, 0xFFE0, 0xA356], .ld { st := 2#2, a := 21#6, b := 38#6, imm := 17179869152#34 } { nt := false, ord := 0#2, scope := 4#3, sx := true, width := 1#3 }),
     ([0x3D09, 0x3E43, 0xFFE0, 0xA456], .st { st := 2#2, a := 21#6, b := 38#6, imm := 17179869152#34 } { nt := false, ord := 0#2, scope := 4#3, sx := false, width := 3#3 }),
     ([0x3D09, 0x3E40, 0xFFE0, 0xA556], .ldc { st := 2#2, a := 21#6, b := 38#6, imm := 17179869152#34 } { nt := false, ord := 0#2, scope := 4#3, sx := false, width := 3#3 }),
     ([0x3D09, 0x3E40, 0xFFE0, 0xA656], .stc { st := 2#2, a := 21#6, b := 38#6, imm := 17179869152#34 } { nt := false, ord := 0#2, scope := 4#3, sx := false, width := 3#3 }),
     ([0xFD89, 0xA756], .lea { st := 2#2, a := 21#6, b := 38#6, c := some (56#6) })] : List (List IWord × Instr)) ++
    ([([0xFD89, 0x3E40, 0xA856], .amoAdd { st := 2#2, a := 21#6, b := 38#6, c := 56#6, imm := 0#34 } { w32 := false, ord := 0#2, scope := 4#3 }),
     ([0xFD89, 0x3E41, 0xA856], .amoAnd { st := 2#2, a := 21#6, b := 38#6, c := 56#6, imm := 0#34 } { w32 := false, ord := 0#2, scope := 4#3 }),
     ([0xFD89, 0x3E42, 0xA856], .amoOr { st := 2#2, a := 21#6, b := 38#6, c := 56#6, imm := 0#34 } { w32 := false, ord := 0#2, scope := 4#3 }),
     ([0xFD89, 0x3E43, 0xA856], .amoXor { st := 2#2, a := 21#6, b := 38#6, c := 56#6, imm := 0#34 } { w32 := false, ord := 0#2, scope := 4#3 }),
     ([0xFD89, 0x3E44, 0xA856], .amoMin { st := 2#2, a := 21#6, b := 38#6, c := 56#6, imm := 0#34 } { w32 := false, ord := 0#2, scope := 4#3 }),
     ([0xFD89, 0x3E45, 0xA856], .amoMax { st := 2#2, a := 21#6, b := 38#6, c := 56#6, imm := 0#34 } { w32 := false, ord := 0#2, scope := 4#3 }),
     ([0xFD89, 0x3E46, 0xA856], .amoMinn { st := 2#2, a := 21#6, b := 38#6, c := 56#6, imm := 0#34 } { w32 := false, ord := 0#2, scope := 4#3 }),
     ([0xFD89, 0x3E47, 0xA856], .amoMaxn { st := 2#2, a := 21#6, b := 38#6, c := 56#6, imm := 0#34 } { w32 := false, ord := 0#2, scope := 4#3 })] : List (List IWord × Instr))).all reads = true := by decide +kernel

/-- Page 0: amo, cas, frd, fwr, arv, bwt, ard, mon, wait, push, pop, sync, send, recv, csrr, csrw, trap, uret, fence, brk. -/
theorem test_decode_page0_c : (([([0xFD89, 0x3E48, 0xA856], .amoSwap { st := 2#2, a := 21#6, b := 38#6, c := 56#6, imm := 0#34 } { w32 := false, ord := 0#2, scope := 4#3 }),
     ([0xFD89, 0x3E43, 0xA956], .cas { st := 2#2, a := 21#6, b := 38#6, c := 56#6, imm := 0#34 } { nt := false, ord := 0#2, scope := 4#3, sx := false, width := 3#3 }),
     ([0x3D09, 0x3E43, 0xAA56], .frd { st := 2#2, a := 21#6, b := 38#6 } { nt := false, ord := 0#2, scope := 4#3, sx := false, width := 3#3 }),
     ([0x3D09, 0x3E43, 0xAB56], .fwr { st := 2#2, a := 21#6, b := 38#6 } { nt := false, ord := 0#2, scope := 4#3, sx := false, width := 3#3 }),
     ([0x3D01, 0xAC50], .arv { st := 2#2, a := 21#6 }),
     ([0x3D01, 0xAD50], .bwt { st := 2#2, a := 21#6 }),
     ([0x3D01, 0xAE50], .ard { st := 2#2, a := 21#6 }),
     ([0x3D01, 0xAF50], .mon { st := 2#2, a := 21#6 })] : List (List IWord × Instr)) ++
    ([([0xB000], .wait { st := 2#2 }),
     ([0xFD89, 0x3F02, 0xB156], .push { st := 2#2, a := 21#6, b := 38#6, c := 56#6, imm := 2#34 }),
     ([0x3D09, 0xB256], .pop { st := 2#2, a := 21#6, b := 38#6 }),
     ([0x3E40, 0xB300], .sync { st := 2#2 } { nt := false, ord := 0#2, scope := 4#3, sx := false, width := 3#3 }),
     ([0xFD89, 0x3F02, 0xB456], .send { st := 2#2, a := 21#6, b := 38#6, c := 56#6, imm := 2#34 }),
     ([0x3D09, 0xB556], .recv { st := 2#2, a := 21#6, b := 38#6 }),
     ([0x3D01, 0x3F05, 0xB659], .csrr { st := 2#2, a := 21#6, imm := 89#34 }),
     ([0x3D01, 0x3F05, 0xB758], .csrw { st := 2#2, a := 21#6, imm := 88#34 })] : List (List IWord × Instr)) ++
    ([([0x3D01, 0x3F00, 0xB75B], .csrwTimecmp { st := 2#2, a := 21#6, imm := 11#34 }),
     ([0x3D01, 0x3F06, 0xB758], .csrwRqovf { st := 2#2, a := 21#6, imm := 104#34 }),
     ([0x3F02, 0xB80A], .trap { st := 2#2, imm := 42#34 }),
     ([0xB900], .uret { st := 2#2 }),
     ([0x3EC0, 0xBA00], .fenceAcq { st := 2#2 } { nt := false, ord := 1#2, scope := 4#3, sx := false, width := 3#3 }),
     ([0x7E40, 0xBA00], .fenceRel { st := 2#2 } { nt := false, ord := 2#2, scope := 4#3, sx := false, width := 3#3 }),
     ([0x7EC0, 0xBA00], .fenceAr { st := 2#2 } { nt := false, ord := 3#2, scope := 4#3, sx := false, width := 3#3 }),
     ([0x3F02, 0xBB0A], .brk { st := 2#2, imm := 42#34 })] : List (List IWord × Instr))).all reads = true := by decide +kernel

/-- Page 1: div, divn, rem, remn, mulh, mulhn, clz, ctz, popc, bswap, rot, bext, bins, min, max, minn, maxn, fadd, fsub, fmul, fdiv, fsqrt, fma, fmin. -/
theorem test_decode_page1_a : (([([0x3C01, 0xFD89, 0x8056], .div { st := 2#2, a := 21#6, b := 38#6, c := some (56#6) }),
     ([0x3C01, 0xFD89, 0x8156], .divn { st := 2#2, a := 21#6, b := 38#6, c := some (56#6) }),
     ([0x3C01, 0xFD89, 0x8256], .rem { st := 2#2, a := 21#6, b := 38#6, c := some (56#6) }),
     ([0x3C01, 0xFD89, 0x8356], .remn { st := 2#2, a := 21#6, b := 38#6, c := some (56#6) }),
     ([0x3C01, 0xFD89, 0x8456], .mulh { st := 2#2, a := 21#6, b := 38#6, c := some (56#6) }),
     ([0x3C01, 0xFD89, 0x8556], .mulhn { st := 2#2, a := 21#6, b := 38#6, c := some (56#6) }),
     ([0x3C01, 0x3D09, 0x8656], .clz { st := 2#2, a := 21#6, b := 38#6 }),
     ([0x3C01, 0x3D09, 0x8756], .ctz { st := 2#2, a := 21#6, b := 38#6 })] : List (List IWord × Instr)) ++
    ([([0x3C01, 0x3D09, 0x8856], .popc { st := 2#2, a := 21#6, b := 38#6 }),
     ([0x3C01, 0x3D09, 0x8956], .bswap { st := 2#2, a := 21#6, b := 38#6 }),
     ([0x3C01, 0xFD89, 0x8A56], .rot { st := 2#2, a := 21#6, b := 38#6, c := some (56#6) }),
     ([0x3C01, 0x3D09, 0x3F01, 0xFFA5, 0x8B56], .bext { st := 2#2, a := 21#6, b := 38#6, imm := 1957#34 }),
     ([0x3C01, 0x3D09, 0x3F01, 0xFFA5, 0x8C56], .bins { st := 2#2, a := 21#6, b := 38#6, imm := 1957#34 }),
     ([0x3C01, 0xFD89, 0x8D56], .min { st := 2#2, a := 21#6, b := 38#6, c := some (56#6) }),
     ([0x3C01, 0xFD89, 0x8E56], .max { st := 2#2, a := 21#6, b := 38#6, c := some (56#6) }),
     ([0x3C01, 0xFD89, 0x8F56], .minn { st := 2#2, a := 21#6, b := 38#6, c := some (56#6) })] : List (List IWord × Instr)) ++
    ([([0x3C01, 0xFD89, 0x9056], .maxn { st := 2#2, a := 21#6, b := 38#6, c := some (56#6) }),
     ([0x3C01, 0xFD89, 0x3E90, 0x9156], .fadd { st := 2#2, a := 21#6, b := 38#6, c := some (56#6) } { rnd := 1#3, ty := 1#3, zero := false, mask := 0#3 }),
     ([0x3C01, 0xFD89, 0x3E90, 0x9256], .fsub { st := 2#2, a := 21#6, b := 38#6, c := some (56#6) } { rnd := 1#3, ty := 1#3, zero := false, mask := 0#3 }),
     ([0x3C01, 0xFD89, 0x3E90, 0x9356], .fmul { st := 2#2, a := 21#6, b := 38#6, c := some (56#6) } { rnd := 1#3, ty := 1#3, zero := false, mask := 0#3 }),
     ([0x3C01, 0xFD89, 0x3E90, 0x9456], .fdiv { st := 2#2, a := 21#6, b := 38#6, c := some (56#6) } { rnd := 1#3, ty := 1#3, zero := false, mask := 0#3 }),
     ([0x3C01, 0x3D09, 0x3E90, 0x9556], .fsqrt { st := 2#2, a := 21#6, b := 38#6 } { rnd := 1#3, ty := 1#3, zero := false, mask := 0#3 }),
     ([0x3C01, 0xFD89, 0x3E90, 0x9656], .fma { st := 2#2, a := 21#6, b := 38#6, c := 56#6, imm := 0#34 } { rnd := 1#3, ty := 1#3, zero := false, mask := 0#3 }),
     ([0x3C01, 0xFD89, 0x3E90, 0x9756], .fmin { st := 2#2, a := 21#6, b := 38#6, c := some (56#6) } { rnd := 1#3, ty := 1#3, zero := false, mask := 0#3 })] : List (List IWord × Instr))).all reads = true := by decide +kernel

/-- Page 1: fmax, fceq, fclt, fcle, fcvt, fcvti, icvtf, fclass, cbase, clen, cperm, cbound, crestr, ctid, cclr, cmint, csub, sret, hret, wfi, ctxs, ctxr, cgtag. -/
theorem test_decode_page1_b : (([([0x3C01, 0xFD89, 0x3E90, 0x9856], .fmax { st := 2#2, a := 21#6, b := 38#6, c := some (56#6) } { rnd := 1#3, ty := 1#3, zero := false, mask := 0#3 }),
     ([0x3C01, 0xFD89, 0x3E90, 0x9956], .fceq { st := 2#2, a := 21#6, b := 38#6, c := some (56#6) } { rnd := 1#3, ty := 1#3, zero := false, mask := 0#3 }),
     ([0x3C01, 0xFD89, 0x3E90, 0x9A56], .fclt { st := 2#2, a := 21#6, b := 38#6, c := some (56#6) } { rnd := 1#3, ty := 1#3, zero := false, mask := 0#3 }),
     ([0x3C01, 0xFD89, 0x3E90, 0x9B56], .fcle { st := 2#2, a := 21#6, b := 38#6, c := some (56#6) } { rnd := 1#3, ty := 1#3, zero := false, mask := 0#3 }),
     ([0x3C01, 0x3D09, 0x3E90, 0x3F03, 0x9C56], .fcvt { st := 2#2, a := 21#6, b := 38#6, imm := 3#34 } { rnd := 1#3, ty := 1#3, zero := false, mask := 0#3 }),
     ([0x3C01, 0x3D09, 0x3EE0, 0x3F02, 0x9D56], .fcvti { st := 2#2, a := 21#6, b := 38#6, imm := 2#34 } { rnd := 1#3, ty := 6#3, zero := false, mask := 0#3 }),
     ([0x3C01, 0x3D09, 0xBEB0, 0x3F06, 0x9E56], .icvtf { st := 2#2, a := 21#6, b := 38#6, imm := 6#34 } { rnd := 5#3, ty := 3#3, zero := false, mask := 0#3 }),
     ([0x3C01, 0x3D09, 0x3E90, 0x9F56], .fclass { st := 2#2, a := 21#6, b := 38#6 } { rnd := 1#3, ty := 1#3, zero := false, mask := 0#3 })] : List (List IWord × Instr)) ++
    ([([0x3C01, 0x3D09, 0xA056], .cbase { st := 2#2, a := 21#6, b := 38#6 }),
     ([0x3C01, 0x3D09, 0xA156], .clen { st := 2#2, a := 21#6, b := 38#6 }),
     ([0x3C01, 0x3D09, 0xA256], .cperm { st := 2#2, a := 21#6, b := 38#6 }),
     ([0x3C01, 0xFD89, 0xA356], .cbound { st := 2#2, a := 21#6, b := 38#6, c := some (56#6) }),
     ([0x3C01, 0xFD89, 0xA456], .crestr { st := 2#2, a := 21#6, b := 38#6, c := some (56#6) }),
     ([0x3C01, 0x3D09, 0xA556], .ctid { st := 2#2, a := 21#6, b := 38#6 }),
     ([0x3C01, 0x3D01, 0xA650], .cclr { st := 2#2, a := 21#6 }),
     ([0x3C01, 0xFD89, 0xA756], .cmint { st := 2#2, a := 21#6, b := 38#6, c := 56#6, imm := 0#34 })] : List (List IWord × Instr)) ++
    ([([0x3C01, 0xFD89, 0xA856], .csub { st := 2#2, a := 21#6, b := 38#6, c := some (56#6) }),
     ([0x3C01, 0xA900], .sret { st := 2#2 }),
     ([0x3C01, 0xAA00], .hret { st := 2#2 }),
     ([0x3C01, 0xAB00], .wfi { st := 2#2 }),
     ([0x3C01, 0x3D01, 0xAC50], .ctxs { st := 2#2, a := 21#6 }),
     ([0x3C01, 0x3D01, 0xAD50], .ctxr { st := 2#2, a := 21#6 }),
     ([0x3C01, 0x3D09, 0xAE56], .cgtag { st := 2#2, a := 21#6, b := 38#6 })] : List (List IWord × Instr))).all reads = true := by decide +kernel

/-- Page 2: vclaim, vrel, vsetl, vld, vst, vlds, vsts, vgat, vsca, vscac, vconf, vldl, vstl, vadd, vsub, vmul, vfma, vmin, vmax, vand, vor, vxor, vshl, vshr. -/
theorem test_decode_page2_a : (([([0x3C02, 0x3D05, 0x8056], .vclaim { st := 2#2, a := 21#6, b := 22#6 }),
     ([0x3C02, 0x8100], .vrel),
     ([0x3C02, 0x3D05, 0xBEB0, 0x8256], .vsetl { st := 2#2, a := 21#6, b := 22#6 } { rnd := 5#3, ty := 3#3, zero := false, mask := 0#3 }),
     ([0x3C02, 0x3D09, 0xBEB2, 0xFFE0, 0x8356], .vld { st := 2#2, a := 21#6, b := 38#6, imm := 17179869152#34 } { rnd := 5#3, ty := 3#3, zero := false, mask := 2#3 }),
     ([0x3C02, 0x3D09, 0xBEB2, 0xFFE0, 0x8456], .vst { st := 2#2, a := 21#6, b := 38#6, imm := 17179869152#34 } { rnd := 5#3, ty := 3#3, zero := false, mask := 2#3 }),
     ([0x3C02, 0x3D79, 0xBEB2, 0x8556], .vlds { st := 2#2, a := 21#6, b := 38#6, c := 7#6, imm := 0#34 } { rnd := 5#3, ty := 3#3, zero := false, mask := 2#3 }),
     ([0x3C02, 0x3D79, 0xBEB2, 0x8656], .vsts { st := 2#2, a := 21#6, b := 38#6, c := 7#6, imm := 0#34 } { rnd := 5#3, ty := 3#3, zero := false, mask := 2#3 }),
     ([0x3C02, 0x3D79, 0xBEB2, 0x8756], .vgat { st := 2#2, a := 21#6, b := 38#6, c := 7#6, imm := 0#34 } { rnd := 5#3, ty := 3#3, zero := false, mask := 2#3 })] : List (List IWord × Instr)) ++
    ([([0x3C02, 0x3D79, 0xBEB2, 0x8856], .vsca { st := 2#2, a := 21#6, b := 38#6, c := 7#6, imm := 0#34 } { rnd := 5#3, ty := 3#3, zero := false, mask := 2#3 }),
     ([0x3C02, 0x3D79, 0xBEB2, 0x8956], .vscac { st := 2#2, a := 21#6, b := 38#6, c := 7#6, imm := 0#34 } { rnd := 5#3, ty := 3#3, zero := false, mask := 2#3 }),
     ([0x3C02, 0x3D04, 0xBEB2, 0x8A55], .vconf { st := 2#2, a := 5#6, b := 21#6 } { rnd := 5#3, ty := 3#3, zero := false, mask := 2#3 }),
     ([0x3C02, 0x3D05, 0xBEB2, 0xFFE0, 0x8B56], .vldl { st := 2#2, a := 21#6, b := 22#6, imm := 17179869152#34 } { rnd := 5#3, ty := 3#3, zero := false, mask := 2#3 }),
     ([0x3C02, 0x3D05, 0xBEB2, 0xFFE0, 0x8C56], .vstl { st := 2#2, a := 21#6, b := 22#6, imm := 17179869152#34 } { rnd := 5#3, ty := 3#3, zero := false, mask := 2#3 }),
     ([0x3C02, 0x3D75, 0xBEB2, 0x8D56], .vadd { st := 2#2, a := 21#6, b := 22#6, c := some (7#6) } { rnd := 5#3, ty := 3#3, zero := false, mask := 2#3 }),
     ([0x3C02, 0x3D75, 0xBEB2, 0x8E56], .vsub { st := 2#2, a := 21#6, b := 22#6, c := some (7#6) } { rnd := 5#3, ty := 3#3, zero := false, mask := 2#3 }),
     ([0x3C02, 0x3D75, 0xBEB2, 0x8F56], .vmul { st := 2#2, a := 21#6, b := 22#6, c := some (7#6) } { rnd := 5#3, ty := 3#3, zero := false, mask := 2#3 })] : List (List IWord × Instr)) ++
    ([([0x3C02, 0x3D75, 0x3EA2, 0x9056], .vfma { st := 2#2, a := 21#6, b := 22#6, c := 7#6, imm := 0#34 } { rnd := 1#3, ty := 2#3, zero := false, mask := 2#3 }),
     ([0x3C02, 0x3D75, 0xBEB2, 0x9156], .vmin { st := 2#2, a := 21#6, b := 22#6, c := some (7#6) } { rnd := 5#3, ty := 3#3, zero := false, mask := 2#3 }),
     ([0x3C02, 0x3D75, 0xBEB2, 0x9256], .vmax { st := 2#2, a := 21#6, b := 22#6, c := some (7#6) } { rnd := 5#3, ty := 3#3, zero := false, mask := 2#3 }),
     ([0x3C02, 0x3D75, 0xBEB2, 0x9356], .vand { st := 2#2, a := 21#6, b := 22#6, c := some (7#6) } { rnd := 5#3, ty := 3#3, zero := false, mask := 2#3 }),
     ([0x3C02, 0x3D75, 0xBEB2, 0x9456], .vor { st := 2#2, a := 21#6, b := 22#6, c := some (7#6) } { rnd := 5#3, ty := 3#3, zero := false, mask := 2#3 }),
     ([0x3C02, 0x3D75, 0xBEB2, 0x9556], .vxor { st := 2#2, a := 21#6, b := 22#6, c := some (7#6) } { rnd := 5#3, ty := 3#3, zero := false, mask := 2#3 }),
     ([0x3C02, 0x3D75, 0xBEB2, 0x9656], .vshl { st := 2#2, a := 21#6, b := 22#6, c := some (7#6) } { rnd := 5#3, ty := 3#3, zero := false, mask := 2#3 }),
     ([0x3C02, 0x3D75, 0xBEB2, 0x9756], .vshr { st := 2#2, a := 21#6, b := 22#6, c := some (7#6) } { rnd := 5#3, ty := 3#3, zero := false, mask := 2#3 })] : List (List IWord × Instr))).all reads = true := by decide +kernel

/-- Page 2: vsra, vceq, vclt, vcle, vsel, vbc, vxt, vred, vscan, vcvt, vexp2, vlog2, vrcp, vrsq. -/
theorem test_decode_page2_b : (([([0x3C02, 0x3D75, 0xBEB2, 0x9856], .vsra { st := 2#2, a := 21#6, b := 22#6, c := some (7#6) } { rnd := 5#3, ty := 3#3, zero := false, mask := 2#3 }),
     ([0x3C02, 0x7D64, 0xBEB2, 0x9965], .vceq { st := 2#2, a := 6#6, b := 21#6, c := some (22#6) } { rnd := 5#3, ty := 3#3, zero := false, mask := 2#3 }),
     ([0x3C02, 0x7D64, 0xBEB2, 0x9A65], .vclt { st := 2#2, a := 6#6, b := 21#6, c := some (22#6) } { rnd := 5#3, ty := 3#3, zero := false, mask := 2#3 }),
     ([0x3C02, 0x7D64, 0xBEB2, 0x9B65], .vcle { st := 2#2, a := 6#6, b := 21#6, c := some (22#6) } { rnd := 5#3, ty := 3#3, zero := false, mask := 2#3 }),
     ([0x3C02, 0x3D75, 0xBEB2, 0x9C56], .vsel { st := 2#2, a := 21#6, b := 22#6, c := 7#6, imm := 0#34 } { rnd := 5#3, ty := 3#3, zero := false, mask := 2#3 }),
     ([0x3C02, 0x3D05, 0xBEB2, 0x9D56], .vbc { st := 2#2, a := 21#6, b := 22#6 } { rnd := 5#3, ty := 3#3, zero := false, mask := 2#3 }),
     ([0x3C02, 0x3D75, 0xBEB0, 0x9E56], .vxt { st := 2#2, a := 21#6, b := 22#6, c := 7#6, imm := 0#34 } { rnd := 5#3, ty := 3#3, zero := false, mask := 0#3 }),
     ([0x3C02, 0x3D05, 0xBEB2, 0x9F56], .vredSum { st := 2#2, a := 21#6, b := 22#6 } { rnd := 5#3, ty := 3#3, zero := false, mask := 2#3 })] : List (List IWord × Instr)) ++
    ([([0x3C02, 0x3D15, 0xBEB2, 0x9F56], .vredMin { st := 2#2, a := 21#6, b := 22#6 } { rnd := 5#3, ty := 3#3, zero := false, mask := 2#3 }),
     ([0x3C02, 0x3D25, 0xBEB2, 0x9F56], .vredMax { st := 2#2, a := 21#6, b := 22#6 } { rnd := 5#3, ty := 3#3, zero := false, mask := 2#3 }),
     ([0x3C02, 0x3D35, 0xBEB2, 0x9F56], .vredAnd { st := 2#2, a := 21#6, b := 22#6 } { rnd := 5#3, ty := 3#3, zero := false, mask := 2#3 }),
     ([0x3C02, 0x3D45, 0xBEB2, 0x9F56], .vredOr { st := 2#2, a := 21#6, b := 22#6 } { rnd := 5#3, ty := 3#3, zero := false, mask := 2#3 }),
     ([0x3C02, 0x3D55, 0xBEB2, 0x9F56], .vredXor { st := 2#2, a := 21#6, b := 22#6 } { rnd := 5#3, ty := 3#3, zero := false, mask := 2#3 }),
     ([0x3C02, 0x3D05, 0xBEB2, 0xA056], .vscanSum { st := 2#2, a := 21#6, b := 22#6 } { rnd := 5#3, ty := 3#3, zero := false, mask := 2#3 }),
     ([0x3C02, 0x3D15, 0xBEB2, 0xA056], .vscanMin { st := 2#2, a := 21#6, b := 22#6 } { rnd := 5#3, ty := 3#3, zero := false, mask := 2#3 }),
     ([0x3C02, 0x3D25, 0xBEB2, 0xA056], .vscanMax { st := 2#2, a := 21#6, b := 22#6 } { rnd := 5#3, ty := 3#3, zero := false, mask := 2#3 })] : List (List IWord × Instr)) ++
    ([([0x3C02, 0x3D35, 0xBEB2, 0xA056], .vscanAnd { st := 2#2, a := 21#6, b := 22#6 } { rnd := 5#3, ty := 3#3, zero := false, mask := 2#3 }),
     ([0x3C02, 0x3D45, 0xBEB2, 0xA056], .vscanOr { st := 2#2, a := 21#6, b := 22#6 } { rnd := 5#3, ty := 3#3, zero := false, mask := 2#3 }),
     ([0x3C02, 0x3D55, 0xBEB2, 0xA056], .vscanXor { st := 2#2, a := 21#6, b := 22#6 } { rnd := 5#3, ty := 3#3, zero := false, mask := 2#3 }),
     ([0x3C02, 0x3D05, 0x7EA2, 0x3F10, 0xA156], .vcvt { st := 2#2, a := 21#6, b := 22#6, imm := 16#34 } { rnd := 3#3, ty := 2#3, zero := false, mask := 2#3 }),
     ([0x3C02, 0x3D05, 0x3EA2, 0xA256], .vexp2 { st := 2#2, a := 21#6, b := 22#6 } { rnd := 1#3, ty := 2#3, zero := false, mask := 2#3 }),
     ([0x3C02, 0x3D05, 0x3EA2, 0xA356], .vlog2 { st := 2#2, a := 21#6, b := 22#6 } { rnd := 1#3, ty := 2#3, zero := false, mask := 2#3 }),
     ([0x3C02, 0x3D05, 0x3EA2, 0xA456], .vrcp { st := 2#2, a := 21#6, b := 22#6 } { rnd := 1#3, ty := 2#3, zero := false, mask := 2#3 }),
     ([0x3C02, 0x3D05, 0x3EA2, 0xA556], .vrsq { st := 2#2, a := 21#6, b := 22#6 } { rnd := 1#3, ty := 2#3, zero := false, mask := 2#3 })] : List (List IWord × Instr))).all reads = true := by decide +kernel

/-- Page 2: vperm, vcmpz, vxpd, vseed, kand, kor, kpop, kfirst. -/
theorem test_decode_page2_c : (([([0x3C02, 0x3D75, 0xBEB2, 0xA656], .vperm { st := 2#2, a := 21#6, b := 22#6, c := 7#6, imm := 0#34 } { rnd := 5#3, ty := 3#3, zero := false, mask := 2#3 }),
     ([0x3C02, 0x3D05, 0xBEB2, 0xA756], .vcmpz { st := 2#2, a := 21#6, b := 22#6 } { rnd := 5#3, ty := 3#3, zero := false, mask := 2#3 }),
     ([0x3C02, 0x3D05, 0xBEB2, 0xA856], .vxpd { st := 2#2, a := 21#6, b := 22#6 } { rnd := 5#3, ty := 3#3, zero := false, mask := 2#3 }),
     ([0x3C02, 0x3D05, 0xA956], .vseed { st := 2#2, a := 21#6, b := 22#6 }),
     ([0x3C02, 0x3D30, 0xAA12], .kand { st := 2#2, a := 1#6, b := 2#6, c := some (3#6) }),
     ([0x3C02, 0x3D30, 0xAB12], .kor { st := 2#2, a := 1#6, b := 2#6, c := some (3#6) }),
     ([0x3C02, 0x3D01, 0xAC56], .kpop { st := 2#2, a := 21#6, b := 6#6 }),
     ([0x3C02, 0x3D01, 0xAD56], .kfirst { st := 2#2, a := 21#6, b := 6#6 })] : List (List IWord × Instr))).all reads = true := by decide +kernel

/-- Page 3: mqld, mcld, mqget, vmadd, vmsub, vmmul, vmmac, vmbf, vmibf, vbfx, vbrev, vmred, vmwide. -/
theorem test_decode_page3_a : (([([0x3C03, 0x3D04, 0x3E72, 0x8035], .mqld { st := 2#2, a := 3#6, b := 21#6 } { mi := 0#2, ty := 7#3, zero := false, mask := 2#3 }),
     ([0x3C03, 0x3D04, 0x3E72, 0x8125], .mcld { st := 2#2, a := 2#6, b := 21#6 } { mi := 0#2, ty := 7#3, zero := false, mask := 2#3 }),
     ([0x3C03, 0x3D01, 0x3E72, 0x8256], .mqget { st := 2#2, a := 21#6, b := 6#6 } { mi := 0#2, ty := 7#3, zero := false, mask := 2#3 }),
     ([0x3C03, 0x3D75, 0x3EE2, 0x8356], .vmadd { st := 2#2, a := 21#6, b := 22#6, c := some (7#6) } { mi := 1#2, ty := 6#3, zero := false, mask := 2#3 }),
     ([0x3C03, 0x3D75, 0x3EE2, 0x8456], .vmsub { st := 2#2, a := 21#6, b := 22#6, c := some (7#6) } { mi := 1#2, ty := 6#3, zero := false, mask := 2#3 }),
     ([0x3C03, 0x3D75, 0x3EE2, 0x8556], .vmmul { st := 2#2, a := 21#6, b := 22#6, c := some (7#6) } { mi := 1#2, ty := 6#3, zero := false, mask := 2#3 }),
     ([0x3C03, 0x3D75, 0x3EE2, 0x8656], .vmmac { st := 2#2, a := 21#6, b := 22#6, c := 7#6, imm := 0#34 } { mi := 1#2, ty := 6#3, zero := false, mask := 2#3 }),
     ([0x3C03, 0x3D75, 0x3EE2, 0x8756], .vmbf { st := 2#2, a := 21#6, b := 22#6, c := 7#6, imm := 0#34 } { mi := 1#2, ty := 6#3, zero := false, mask := 2#3 })] : List (List IWord × Instr)) ++
    ([([0x3C03, 0x3D75, 0x3EE2, 0x8856], .vmibf { st := 2#2, a := 21#6, b := 22#6, c := 7#6, imm := 0#34 } { mi := 1#2, ty := 6#3, zero := false, mask := 2#3 }),
     ([0x3C03, 0x3D05, 0x3E60, 0x3F01, 0x8956], .vbfxGather { st := 2#2, a := 21#6, b := 22#6, imm := 1#34 } { mi := 0#2, ty := 6#3, zero := false, mask := 0#3 }),
     ([0x3C03, 0x3D05, 0x3E60, 0x3F09, 0x8956], .vbfxScatter { st := 2#2, a := 21#6, b := 22#6, imm := 9#34 } { mi := 0#2, ty := 6#3, zero := false, mask := 0#3 }),
     ([0x3C03, 0x3D05, 0x3E60, 0x8A56], .vbrev { st := 2#2, a := 21#6, b := 22#6 } { mi := 0#2, ty := 6#3, zero := false, mask := 0#3 }),
     ([0x3C03, 0x3D05, 0x3EE2, 0x8B56], .vmred { st := 2#2, a := 21#6, b := 22#6 } { mi := 1#2, ty := 6#3, zero := false, mask := 2#3 }),
     ([0x3C03, 0x3D75, 0x3EE2, 0x8C56], .vmwide { st := 2#2, a := 21#6, b := 22#6, c := some (7#6) } { mi := 1#2, ty := 6#3, zero := false, mask := 2#3 })] : List (List IWord × Instr))).all reads = true := by decide +kernel

/-- Page 4: tcfg, tdesc, tld, tst, tzero, mma, mmag, mmcsr, mmbsr, mmt, accrd, accwm, accz, ttr, ixs, ixget, ixst. -/
theorem test_decode_page4_a : (([([0x3C04, 0x8056], .tcfg { st := 2#2, a := 5#6, b := 6#6 }),
     ([0x3C04, 0x8156], .tdesc { st := 2#2, a := 5#6, b := 6#6 }),
     ([0x3C04, 0x3D08, 0x3E40, 0x3F40, 0x8256], .tld { st := 2#2, a := 5#6, b := 38#6, imm := 64#34 } { nt := false, ord := 0#2, scope := 4#3, sx := false, width := 3#3 }),
     ([0x3C04, 0x3D08, 0x3E40, 0x3F40, 0x8356], .tst { st := 2#2, a := 5#6, b := 38#6, imm := 64#34 } { nt := false, ord := 0#2, scope := 4#3, sx := false, width := 3#3 }),
     ([0x3C04, 0x8450], .tzero { st := 2#2, a := 5#6 }),
     ([0x3C04, 0x3D70, 0x8516], .mma { st := 2#2, a := 1#6, b := 6#6, c := 7#6, imm := 0#34 }),
     ([0x3C04, 0xBD70, 0x3F91, 0x8616], .mmag { st := 2#2, a := 1#6, b := 6#6, c := 39#6, imm := 145#34 }),
     ([0x3C04, 0x3D70, 0x8716], .mmcsr { st := 2#2, a := 1#6, b := 6#6, c := 7#6, imm := 0#34 })] : List (List IWord × Instr)) ++
    ([([0x3C04, 0x3D70, 0x8816], .mmbsr { st := 2#2, a := 1#6, b := 6#6, c := 7#6, imm := 0#34 }),
     ([0x3C04, 0x3D70, 0x8916], .mmt { st := 2#2, a := 1#6, b := 6#6, c := 7#6, imm := 0#34 }),
     ([0x3C04, 0xBD71, 0x7EA2, 0x3F10, 0x8A51], .accrd { st := 2#2, a := 21#6, b := 1#6, c := 39#6, imm := 16#34 } { rnd := 3#3, ty := 2#3, zero := false, mask := 2#3 }),
     ([0x3C04, 0x3D02, 0x8B51], .accwm { st := 2#2, a := 37#6, b := 1#6 }),
     ([0x3C04, 0x8C10], .accz { st := 2#2, a := 1#6 }),
     ([0x3C04, 0x8D56], .ttr { st := 2#2, a := 5#6, b := 6#6 }),
     ([0x3C04, 0x3D08, 0x8E56], .ixs { st := 2#2, a := 5#6, b := 38#6 }),
     ([0x3C04, 0x3D72, 0x8F56], .ixget { st := 2#2, a := 37#6, b := 6#6, c := 7#6, imm := 0#34 })] : List (List IWord × Instr)) ++
    ([([0x3C04, 0x3D08, 0x9056], .ixst { st := 2#2, a := 5#6, b := 38#6 })] : List (List IWord × Instr))).all reads = true := by decide +kernel

/-- Page 5: lra, lrl, lrs, lrg, lrc, amou, amof, nma, pf, wb, inv, fencx, rput, rget, rdep, cpy, cpyw, nred, nredw. -/
theorem test_decode_page5_a : (([([0x3C05, 0x3D09, 0x3E13, 0x3F40, 0x8056], .lra { st := 2#2, a := 21#6, b := 38#6, imm := 64#34 } { nt := false, ord := 0#2, scope := 1#3, sx := false, width := 3#3 }),
     ([0x3C05, 0x3D09, 0x3E13, 0x3F40, 0x8156], .lrl { st := 2#2, a := 21#6, b := 38#6, imm := 64#34 } { nt := false, ord := 0#2, scope := 1#3, sx := false, width := 3#3 }),
     ([0x3C05, 0x3D09, 0x3E13, 0x3F40, 0x8256], .lrs { st := 2#2, a := 21#6, b := 38#6, imm := 64#34 } { nt := false, ord := 0#2, scope := 1#3, sx := false, width := 3#3 }),
     ([0x3C05, 0x3D09, 0x3E13, 0x3F40, 0x8356], .lrg { st := 2#2, a := 21#6, b := 38#6, imm := 64#34 } { nt := false, ord := 0#2, scope := 1#3, sx := false, width := 3#3 }),
     ([0x3C05, 0x3E40, 0x8400], .lrc { st := 2#2 } { nt := false, ord := 0#2, scope := 4#3, sx := false, width := 3#3 }),
     ([0x3C05, 0xFD89, 0x3E45, 0x8556], .amouInteger { st := 2#2, a := 21#6, b := 38#6, c := 56#6, imm := 0#34 } { w32 := false, ord := 0#2, scope := 4#3, op := 5#4 }),
     ([0x3C05, 0xFD89, 0xBE40, 0x3F01, 0x8556], .amouF32 { st := 2#2, a := 21#6, b := 38#6, c := 56#6, imm := 1#34 } { w32 := true, ord := 0#2, scope := 4#3 }),
     ([0x3C05, 0xFD89, 0x3E40, 0x3F02, 0x8556], .amouF64 { st := 2#2, a := 21#6, b := 38#6, c := 56#6, imm := 2#34 } { w32 := false, ord := 0#2, scope := 4#3 })] : List (List IWord × Instr)) ++
    ([([0x3C05, 0xFD89, 0x3E40, 0x8656], .amof { st := 2#2, a := 21#6, b := 38#6, c := 56#6, imm := 0#34 } { w32 := false, ord := 0#2, scope := 4#3 }),
     ([0x3C05, 0xFD89, 0x8756], .nma { st := 2#2, a := 21#6, b := 38#6, c := 56#6, imm := 0#34 }),
     ([0x3C05, 0x3D09, 0x3E40, 0xFFE0, 0x8856], .pf { st := 2#2, a := 21#6, b := 38#6, imm := 17179869152#34 } { nt := false, ord := 0#2, scope := 4#3, sx := false, width := 3#3 }),
     ([0x3C05, 0x3D09, 0x3E40, 0xFFE0, 0x8956], .wb { st := 2#2, a := 21#6, b := 38#6, imm := 17179869152#34 } { nt := false, ord := 0#2, scope := 4#3, sx := false, width := 3#3 }),
     ([0x3C05, 0x3D09, 0x3E40, 0xFFE0, 0x8A56], .inv { st := 2#2, a := 21#6, b := 38#6, imm := 17179869152#34 } { nt := false, ord := 0#2, scope := 4#3, sx := false, width := 3#3 }),
     ([0x3C05, 0x3ECD, 0x8B00], .fencx { st := 2#2 } { scope := 3#3, pb := 1#3, pa := 5#3 }),
     ([0x3C05, 0xFD89, 0x3E43, 0x8C56], .rput { st := 2#2, a := 21#6, b := 38#6, c := 56#6, imm := 0#34 } { nt := false, ord := 0#2, scope := 4#3, sx := false, width := 3#3 }),
     ([0x3C05, 0xFD89, 0x3E43, 0x8D56], .rget { st := 2#2, a := 21#6, b := 38#6, c := 56#6, imm := 0#34 } { nt := false, ord := 0#2, scope := 4#3, sx := false, width := 3#3 })] : List (List IWord × Instr)) ++
    ([([0x3C05, 0xFD89, 0x3E43, 0x8E56], .rdep { st := 2#2, a := 21#6, b := 38#6, c := 56#6, imm := 0#34 } { nt := false, ord := 0#2, scope := 4#3, sx := false, width := 3#3 }),
     ([0x3C05, 0x3D09, 0x8F56], .cpy { st := 2#2, a := 21#6, b := 38#6 }),
     ([0x3C05, 0x3D09, 0x9056], .cpyw { st := 2#2, a := 21#6, b := 38#6 }),
     ([0x3C05, 0xFD89, 0x3E10, 0x9156], .nredSum { st := 2#2, a := 21#6, b := 38#6, c := 56#6, imm := 0#34 } { ty := 4#3 }),
     ([0x3C05, 0xFD89, 0x3E15, 0x9156], .nredMin { st := 2#2, a := 21#6, b := 38#6, c := 56#6, imm := 0#34 } { ty := 5#3 }),
     ([0x3C05, 0xFD89, 0x3E02, 0x9156], .nredMax { st := 2#2, a := 21#6, b := 38#6, c := 56#6, imm := 0#34 } { ty := 0#3 }),
     ([0x3C05, 0xFD89, 0x3E13, 0x9156], .nredMerge2 { st := 2#2, a := 21#6, b := 38#6, c := 56#6, imm := 0#34 }),
     ([0x3C05, 0x3D09, 0x9256], .nredw { st := 2#2, a := 21#6, b := 38#6 })] : List (List IWord × Instr))).all reads = true := by decide +kernel

/-- Page 6: bmem, wlnew, wlcfg, wlst, ctrsel, ctrrd, ctrarm, yield, colop, ringcfg, bdgt, tslot, dlog, nmld, tinv, wldone. -/
theorem test_decode_page6_a : (([([0x3C06, 0xFD89, 0x8056], .bmem { st := 2#2, a := 21#6, b := 38#6, c := some (56#6) }),
     ([0x3C06, 0x3D01, 0x8150], .wlnew { st := 2#2, a := 21#6 }),
     ([0x3C06, 0xFD89, 0x8256], .wlcfgConfigure { st := 2#2, a := 21#6, b := 38#6, c := 56#6, imm := 0#34 }),
     ([0x3C06, 0x3D09, 0x8356], .wlst { st := 2#2, a := 21#6, b := 38#6 }),
     ([0x3C06, 0x3D09, 0x8456], .ctrsel { st := 2#2, a := 21#6, b := 38#6 }),
     ([0x3C06, 0x3D09, 0x8556], .ctrrd { st := 2#2, a := 21#6, b := 38#6 }),
     ([0x3C06, 0xFD89, 0x8656], .ctrarmArm { st := 2#2, a := 21#6, b := 38#6, c := 56#6, imm := 0#34 }),
     ([0x3C06, 0x3D09, 0x8756], .yield { st := 2#2, a := 21#6, b := 38#6 })] : List (List IWord × Instr)) ++
    ([([0x3C06, 0x3D09, 0x8856], .colopConfigure { st := 2#2, a := 21#6, b := 38#6 }),
     ([0x3C06, 0xFD89, 0x8956], .ringcfgBind { st := 2#2, a := 21#6, b := 38#6, c := 56#6, imm := 0#34 }),
     ([0x3C06, 0x3D09, 0x8A56], .bdgtRead { st := 2#2, a := 21#6, b := 38#6 }),
     ([0x3C06, 0x3D09, 0x8B56], .tslotEntry { st := 2#2, a := 21#6, b := 38#6 }),
     ([0x3C06, 0x3D09, 0x8C56], .dlogStatus { st := 2#2, a := 21#6, b := 38#6 }),
     ([0x3C06, 0xFD89, 0x8D56], .nmld { st := 2#2, a := 21#6, b := 38#6, c := some (56#6) }),
     ([0x3C06, 0x3D09, 0x8E56], .tinvPage { st := 2#2, a := 21#6, b := 38#6 }),
     ([0x3C06, 0x8F00], .wldone)] : List (List IWord × Instr))).all reads = true := by decide +kernel

/-- The malformed sequences of the encoding chapter: `pfx` or `ill`, the page in force, the position and the word (R39 to R41). -/
theorem test_malformed_words :
    decodeWords [0xBEF0, 0x3C02, 0x0737] = some (.error ⟨true, 0, 1, 0x3C02⟩) ∧
    decodeWords [0x3F00, 0x3F00, 0x3F00, 0x3F00, 0x0C10] = some (.error ⟨true, 0, 3, 0x3F00⟩) ∧
    decodeWords [0x3C07, 0x0000] = some (.error ⟨false, 0, 0, 0x3C07⟩) ∧
    decodeWords [0x3C01, 0x2F00] = some (.error ⟨false, 1, 1, 0x2F00⟩) ∧
    decodeWords [0x1800] = some (.error ⟨false, 0, 0, 0x1800⟩) := by decide +kernel

/-! ## Ill-formed terms

One term for each check of `Instr.wf`, which refuses it. -/

/-- A register above 15 cannot be named where no third operand brings a PXR (R28). -/
theorem test_wf_two_operands : (Instr.add ⟨0, 16, 1, none⟩).wf = false ∧ (Instr.add ⟨0, 1, 16, none⟩).wf = false ∧
    (Instr.add ⟨0, 15, 15, none⟩).wf = true ∧ (Instr.add ⟨0, 16, 1, some 2⟩).wf = true := by decide +kernel

/-- Immediates of three PXI words: 30 bits, signed or unsigned (R29). -/
theorem test_wf_immediates : (Instr.ld ⟨0, 1, 2, 2 ^ 29⟩ ⟨false, 0, 4, false, 3⟩).wf = false ∧
    (Instr.ld ⟨0, 1, 2, -(2 ^ 29)⟩ ⟨false, 0, 4, false, 3⟩).wf = true ∧
    (Instr.bext ⟨0, 1, 2, 2 ^ 30⟩).wf = false ∧ (Instr.bext ⟨0, 1, 2, 2 ^ 30 - 1⟩).wf = true ∧
    (Instr.amoAdd ⟨0, 1, 2, 3, 2 ^ 29⟩ ⟨false, 0, 4⟩).wf = false ∧ (Instr.sel ⟨0, 1, 2, 3, 2 ^ 30⟩).wf = false := by decide +kernel

/-- Width and sign bits that an instruction reserves (R32). -/
theorem test_wf_no_width : (Instr.ldc ⟨0, 1, 2, 0⟩ ⟨false, 0, 4, false, 2⟩).wf = false ∧
    (Instr.stc ⟨0, 1, 2, 0⟩ ⟨false, 0, 4, true, 3⟩).wf = false ∧
    (Instr.ldc ⟨0, 1, 2, 0⟩ ⟨false, 0, 4, false, 3⟩).wf = true := by decide +kernel

/-- Rows that one field tells apart: the order of a fence and the number of a CSR (R81, R117). -/
theorem test_wf_rows : (Instr.fenceAcq ⟨0⟩ ⟨false, 2, 4, false, 3⟩).wf = false ∧ (Instr.fenceAr ⟨0⟩ ⟨false, 3, 4, false, 3⟩).wf = true ∧
    (Instr.csrw ⟨0, 1, csrTimecmp⟩).wf = false ∧ (Instr.csrwTimecmp ⟨0, 1, 0x058⟩).wf = false ∧
    (Instr.csrwRqovf ⟨0, 1, csrTimecmp⟩).wf = false ∧ (Instr.csrw ⟨0, 1, csrRqovf⟩).wf = false := by decide +kernel

/-- Register numbers outside a file of vector, mask, tile, accumulator or modular registers (R31). -/
theorem test_wf_files : (Instr.vld ⟨0, 32, 1, 0⟩ ⟨5, 3, false, 0⟩).wf = false ∧ (Instr.kpop ⟨0, 1, 8⟩).wf = false ∧
    (Instr.tcfg ⟨0, 8, 1⟩).wf = false ∧ (Instr.accz ⟨0, 2⟩).wf = false ∧
    (Instr.mqld ⟨0, 4, 1⟩ ⟨0, 7, false, 0⟩).wf = false ∧ (Instr.vgat ⟨0, 1, 2, 32, 0⟩ ⟨5, 3, false, 0⟩).wf = false := by decide +kernel

/-! ## Witnesses

For each part of a statement, one clause of it whose hypotheses a small state meets. -/

set_option maxRecDepth 100000
set_option Elab.async false

open Sys2Proof.Claims

/-- A tagged capability of tenant 0 over [base, top), multiples of 16. -/
def cap (kind : Nat) (perms : BitVec 12) (base top cursor : Nat) : Reg :=
  ⟨Cap.make kind 0 perms (top / 16) (base / 16) 4 cursor, true⟩

/-- All rights to a page, at an offset. -/
def mem (page off : Nat) : Reg := cap Cap.kMemory 0xFFF page (page + 0x10000) (page + off)
/-- Code, and the entry of a handler. -/
def code (off : Nat) : Reg := mem 0x10000 off
def entry (off : Nat) : Reg := cap Cap.kEntry 0xFFF 0x10000 0x20000 (0x10000 + off)
def num (n : Nat) : Reg := Reg.ofWord (BitVec.ofNat 64 n)
def neg (n : Nat) : Reg := Reg.ofWord (BitVec.ofInt 64 (-(n : Int)))
/-- A capability without a right to a kind of object. -/
def untagged (r : Reg) : Reg := { r with tag := false }
def noGl (r : Reg) : Reg := ⟨Cap.withPerms r.val 0xBFF, r.tag⟩
def perms (r : Reg) (p : BitVec 12) : Reg := ⟨Cap.withPerms r.val p, r.tag⟩
/-- The same of tenant 5. -/
def foreign (r : Reg) : Reg := ⟨r.val + 5 * 2 ^ 97, r.tag⟩

/-- Registers from a list. -/
def regs (l : List (Nat × Reg)) : SMap Reg := l.foldl (fun m e => storeAt Reg.zero e.1 e.2 m) []

/-- A strand that runs in a mode with the given `w` registers. -/
def strand (m : Mode) (l : List (Nat × Reg)) : Strand :=
  { Strand.idle with
    live := true, pcc := code 0x100, mode := m, ir := [0x0000]
    win := { Strand.idle.win with frame := 32 }
    utrap := { TrapRegs.zero with tvec := entry 0x200 }
    strap := { TrapRegs.zero with tvec := entry 0x400 }
    htrap := { TrapRegs.zero with tvec := entry 0x600 }
    regs := regs l
    vec := { Strand.idle.vec with lanes := [0, 1, 2, 3, 4, 5, 6, 7], vlen := 8 } }

/-- Leaves: DRAM, a scratchpad, DRAM that is not cached, an image in the scratchpad, another package, a mirrored page, the
alias window, lane slices 60 to 63, and slices 0 to 3. -/
def pages : List (Nat × Nat) :=
  [(0x10000, 0x100013F), (0x20000, 0x1000800013F), (0x30000, 0x101017F), (0x40000, 0x1000801013F), (0x50000, 0x1000802013F),
   (0x60000, 0x1000803013F), (0x70000, 2 ^ 41 + 0x100013F), (0x80000, 0x10201BF), (0x90000, 0x1FFFFFF013F),
   (0xB0000, 0x100180F013F), (0xC0000, 0x1001800013F), (0xD0000, 0x1F00003013F)]
def tlbFor (group : Nat) : SMap TlbEntry :=
  pages.foldl (fun m e => storeAt ⟨0, 0⟩ (tlbKey group 0 2 e.1) ⟨BitVec.ofNat 64 e.2, 2⟩ m) []

/-- Memory with bytes from an address. -/
def bytesFrom (a : Nat) (bs : List Byte) (s : State) : State := s.homePut a bs

/-- A machine that runs strand 0 in colony 1. -/
def colony : Colony := { Colony.first with state := .loaded }
def run (t : Strand) : State :=
  { State.reset with
    strands := [(0, t)], tlb := tlbFor 12, units := { PackageState.reset with colonies := [(1, some colony)] } }

def pattern (n : Nat) : List Byte := (List.range n).map fun i => BitVec.ofNat 8 (i * 37 + 129)
/-- The same with bytes in DRAM, in DRAM that is not cached, and in the scratchpad. -/
def filled (t : Strand) : State :=
  bytesFrom 0x1000000 (pattern 64) (bytesFrom 0x1010000 (pattern 64) (bytesFrom 0x10008000000 (pattern 64) (run t)))
/-- Core 0 holds the first line of the DRAM page with dirty bytes. -/
def cached (s : State) : State :=
  s.withCore 0 { CoreState.empty with
    lines := [(131072, { bytes := pattern 128, valid := 0xF, dirty := 0x3FF00, tags := 0, upd := none, fails := [] })] }

/-- A capability to an object by its name. -/
def obj (kind name : Nat) : Reg := ⟨Cap.make kind 0 0xFFF (name + 1) name 0 name, true⟩
def group (scope g inst : Nat) : Reg := obj Cap.kGroup (scope * 2 ^ 45 + g * 2 ^ 41 + inst)
/-- A second strand on the same core. -/
def with1 (t : Strand) (s : State) : State := s.withStrand 1 t
def gbit (scope g : Nat) : BitVec 128 := 1#128 <<< (scope * 16 + g)

/-- A machine at whose strand the words of an instruction stand. -/
def fetched (i : Instr) (s : State) : State := s.withSelf { s.self with ir := (encode i).getD [] }

/-- Where a page of strand 0's table puts an address. -/
def paOf (s : State) (tenant : BitVec 12) (va : Nat) : Nat := leafAddr (s.tlbFind (microTlb s.cur) tenant va) va

def pteOf (s : State) (tenant : BitVec 12) (va : Nat) : Word := (s.tlbFind (microTlb s.cur) tenant va).pte

/-! ### What the hypotheses come to on a concrete state -/

theorem all_some {α : Type} {o : Option α} {P : α → Prop} [DecidablePred P]
    (h : (match o with | some c => decide (P c) | none => true) = true) : ∀ c, o = some c → P c := by
  intro c hc
  subst hc
  simpa using h

theorem unbounded_of {s : State} {r : Nat}
    (h : (!s.islandSpent s.cur && (match s.colony (s.colonyOf s.cur) with | some c => c.allocOf r == unlimited | none => true)) = true) :
    Unbounded s r := by
  simp only [Bool.and_eq_true, Bool.not_eq_true'] at h
  refine ⟨h.1, fun c hc => ?_⟩
  have := h.2
  rw [hc] at this
  simpa using this

theorem arrayFree_of {s : State}
    (h : (s.quadClear (quadOf s.cur) && (!s.islandSpent s.cur &&
      (match s.colony (s.colonyOf s.cur) with | some c => c.allocOf 0 == unlimited | none => true))) = true) : ArrayFree s := by
  simp only [Bool.and_eq_true] at h
  exact ⟨h.1, unbounded_of (by simpa using h.2)⟩

theorem maps_of {s : State} {tenant : BitVec 12} {va : Nat} {perm : BitVec 12} {p : Nat} {e : Word}
    (h : (pteV (s.tlbFind (microTlb s.cur) tenant va).pte = true ∧ e = (s.tlbFind (microTlb s.cur) tenant va).pte ∧
      p = leafAddr (s.tlbFind (microTlb s.cur) tenant va) va ∧ pteGrants e perm = true ∧ pteD e = true)) :
    Maps s tenant va perm p e :=
  ⟨_, ⟨rfl, h.1⟩, h.2.1, h.2.2.1, h.2.2.2.1, fun _ => h.2.2.2.2⟩

theorem opens_of {s : State} {c : Reg} {perm : BitVec 12} {k a : Nat} {e : Word}
    (h : (checkFault s c perm [Cap.kMemory] k = none ∧
      let t := s.tlbFind (microTlb s.cur) (Cap.tenant c.val) (Cap.cursor c.val)
      pteV t.pte = true ∧ e = t.pte ∧ pteGrants e perm = true ∧ pteD e = true ∧
      pkgOf (leafAddr t (Cap.cursor c.val)) = s.pkg ∧ a = localOf (leafAddr t (Cap.cursor c.val)) ∧ pteM e = false)) :
    Opens s c perm k a e := by
  obtain ⟨h1, h2, h3, h4, h5, h6, h7, h8⟩ := h
  exact ⟨h1, _, maps_of ⟨h2, h3, rfl, h4, h5⟩, h6, h7, h8⟩

theorem noPartials_of {s : State} (h : (s.cores.all fun c => c.2.lines.all fun l => l.2.upd.isNone) = true) : NoPartials s := by
  intro n
  unfold State.holders
  rw [List.map_eq_nil_iff, List.filter_eq_nil_iff]
  intro c hc
  have h1 := List.all_eq_true.mp h c hc
  have key : ∀ (l : List (Nat × L1Line)), (l.all fun l => l.2.upd.isNone) = true →
      (lookupD L1Line.empty l n).upd.isSome = false := by
    intro l
    induction l with
    | nil => intro _; rfl
    | cons a l ih =>
      intro hl
      simp only [List.all_cons, Bool.and_eq_true] at hl
      obtain ⟨k, v⟩ := a
      unfold lookupD
      split
      · simpa using hl.1
      · exact ih hl.2
  simp [key _ h1]

theorem directOwn_of {s : State} {a : Nat}
    (h : (match place a with | .coreSpad c _ => c == coreOf s.cur && !inQuadWindow a | .slice .. => true | _ => false) = true) :
    DirectOwn s a := by
  cases hp : place a <;> rw [hp] at h <;> simp at h
  case coreSpad c o => exact .inl ⟨o, by rw [h.1] at hp; exact hp, by simpa using h.2⟩
  case slice q l o => exact .inr ⟨q, l, o, hp⟩

theorem direct_of {a : Nat} (h : (match place a with | .coreSpad .. => true | .slice .. => true | _ => false) = true) : Direct a := by
  cases hp : place a <;> rw [hp] at h <;> simp at h
  case coreSpad c o => exact .inl ⟨c, o, hp⟩
  case slice q l o => exact .inr ⟨q, l, o, hp⟩

theorem mayCount_of {s : State} {n : Nat} (h : s.self.mode = .hypervisor) : MayCount s n :=
  ⟨by simp [h], by simp [h]⟩

theorem ringFree_of {s : State} {id : Nat} (h : s.units.rings = []) : RingFree s id := by
  intro e he; rw [h] at he; cases he

theorem idleColony_of {s : State} {id : Nat} {c : Colony}
    (h : c.state = .idle ∧ s.colonyStrands id = [] ∧ s.heldSlots id = 0 ∧ s.heldCopies id = 0 ∧ s.units.launches = [] ∧ s.units.rings = []) :
    IdleColony s id c := by
  obtain ⟨h1, h2, h3, h4, h5, h6⟩ := h
  refine ⟨h1, h2, h3, h4, ?_, ringFree_of h6⟩
  intro l hl
  rw [h5] at hl
  cases hl

theorem allBelow {P : Nat → Prop} {n : Nat} (q : Nat → Bool) (hq : ∀ j, q j = true → P j)
    (h : (List.range n).all q = true) : ∀ j < n, P j := fun j hj => hq j (List.all_eq_true.mp h j (List.mem_range.mpr hj))

theorem reaches_of {s : State} {g : Nat} {c : Reg} {perm : BitVec 12} {n a : Nat}
    (h1 : Cap.cursor c.val % 65536 + n ≤ 65536) (h2 : ((List.range n).all fun j => decide (cacheable (a + j) ∧ s.badAt (a + j) = 0)) = true)
    (h3 : let t := s.tlbFind g (Cap.tenant c.val) (Cap.cursor c.val)
      pteV t.pte = true ∧ pteGrants t.pte perm = true ∧ pteD t.pte = true ∧
      pkgOf (leafAddr t (Cap.cursor c.val)) = s.pkg ∧ a = localOf (leafAddr t (Cap.cursor c.val)) ∧ pteM t.pte = false) :
    Reaches s g c perm n a := by
  obtain ⟨h4, h5, h6, h7, h8, h9⟩ := h3
  exact ⟨h1, allBelow _ (fun j hj => of_decide_eq_true hj) h2, _, _, ⟨_, rfl, h4, rfl, rfl, h5, fun _ => h6⟩, h7, h8, h9⟩

theorem hasRecord_of {s : State} {ring : Nat} {r : Ring} {c : Colony} {a n : Nat}
    (h1 : lookupD none s.units.rings ring = some r) (h2 : RingAt s r a n) (h3 : s.colony r.colony = some c)
    (h4 : s.scoutServes r.colony = true) (h5 : leNat (s.bytesAt a 8) ≠ r.rp ∧ r.drain = r.rp ∧ r.rp < 2 ^ 64) :
    HasRecord s ring r c a n := ⟨h1, h2, h3, h4, h5⟩

/-- The elements of a list, each opened and reached directly. -/
theorem opensAll_of {s : State} {l : List Nat} {el : Nat → Reg} {perm : BitVec 12} {k : Nat} {loc : Nat → Nat} {pte : Nat → Word}
    (h : (l.all fun e => decide (checkFault s (el e) perm [Cap.kMemory] k = none) &&
      (let t := s.tlbFind (microTlb s.cur) (Cap.tenant (el e).val) (Cap.cursor (el e).val)
      decide (pteV t.pte = true ∧ pte e = t.pte ∧ pteGrants (pte e) perm = true ∧ pteD (pte e) = true ∧
      pkgOf (leafAddr t (Cap.cursor (el e).val)) = s.pkg ∧ loc e = localOf (leafAddr t (Cap.cursor (el e).val)) ∧ pteM (pte e) = false)) &&
      (match place (loc e) with | .coreSpad .. => true | .slice .. => true | _ => false) && decide (s.firstBad (loc e) k = none)) = true) :
    ∀ e ∈ l, Opens s (el e) perm k (loc e) (pte e) ∧ Direct (loc e) ∧ s.firstBad (loc e) k = none := by
  intro e he
  have h := List.all_eq_true.mp h e he
  obtain ⟨h, h4⟩ := Bool.and_eq_true_iff.mp h
  obtain ⟨h, h3⟩ := Bool.and_eq_true_iff.mp h
  obtain ⟨h1, h2⟩ := Bool.and_eq_true_iff.mp h
  exact ⟨opens_of ⟨of_decide_eq_true h1, of_decide_eq_true h2⟩, direct_of h3, of_decide_eq_true h4⟩

theorem serves_of {s : State} {fn id : Nat} {c : Colony}
    (h : fn ≠ 0 ∧ s.colony id = some c ∧ c.vf = fn ∧ (s.units.colonies.all fun e => match e.2 with
      | some k => decide (k.vf = fn → e.1 = id)
      | none => true) = true) : Serves s fn id c := by
  obtain ⟨h1, h2, h3, h4⟩ := h
  refine ⟨h1, h2, h3, fun e he k hk hf => ?_⟩
  have := List.all_eq_true.mp h4 e he
  rw [hk] at this
  exact of_decide_eq_true this hf

/-! ### One clause of each part -/

theorem next_of {o : Host.Outcome State Fault Refusal} (h : (match o with | .next _ => true | _ => false) = true) : ∃ t, o = .next t := by
  cases o
  · exact ⟨_, rfl⟩
  all_goals cases h

theorem witness_EncodeDecode : ∃ i : Instr, i.wf = true ∧ legal i = true ∧ i.fits = true :=
  ⟨.add ⟨0, 16, 63, some 2⟩, by decide +kernel⟩

theorem witness_DecodedIsWellFormed : ∃ (ws : List IWord) (i : Instr), decodeWords ws = some (.ok i) :=
  ⟨[0x3F04, 0x0CE0], .movi ⟨0, 14, 64⟩, by decide +kernel⟩

/-- A strand that adds, while its core holds dirty bytes of a line. -/
def stepping : State := cached (filled { strand .user [(1, num 3)] with ir := [0x0101] })

theorem linesOk_of {s : State} (h : (s.cores.all fun c => c.2.lines.all fun l => l.2.bytes.length = 128) = true) : LinesOk s := by
  have key : ∀ (l : List (Nat × L1Line)) (n : Nat), (l.all fun l => l.2.bytes.length = 128) = true →
      ((lookupD L1Line.empty l n).valid = 0 ∧ (lookupD L1Line.empty l n).upd = none) ∨ (lookupD L1Line.empty l n).bytes.length = 128 := by
    intro l n
    induction l with
    | nil => intro _; exact .inl ⟨rfl, rfl⟩
    | cons a l ih =>
      intro hl
      simp only [List.all_cons, Bool.and_eq_true, decide_eq_true_eq] at hl
      obtain ⟨k, v⟩ := a
      unfold lookupD
      split
      · exact .inr hl.1
      · exact ih (by simpa using hl.2)
  have cores : ∀ (m : List (Nat × CoreState)) (c : Nat), (m.all fun c => c.2.lines.all fun l => l.2.bytes.length = 128) = true →
      ((lookupD CoreState.empty m c).lines.all fun l => l.2.bytes.length = 128) = true := by
    intro m c
    induction m with
    | nil => intro _; rfl
    | cons a m ih =>
      intro hm
      simp only [List.all_cons, Bool.and_eq_true] at hm
      obtain ⟨k, v⟩ := a
      unfold lookupD
      split
      · exact hm.1
      · exact ih hm.2
  intro c n
  exact key _ n (cores s.cores c h)

theorem witness_MemoryStaysCanonical : ∃ s t : State, s.MemOk ∧ step s = .next t :=
  have ⟨t, h⟩ := next_of (o := step stepping) (by decide +kernel)
  ⟨stepping, t, ⟨by decide +kernel, by decide +kernel⟩, h⟩

theorem witness_LinesStayWhole : ∃ s t : State, LinesOk s ∧ step s = .next t :=
  have ⟨t, h⟩ := next_of (o := step stepping) (by decide +kernel)
  ⟨stepping, t, linesOk_of (by decide +kernel), h⟩

def s_AccessChecksInOrder : State := (filled (strand .user [(1, num 5), (2, untagged (mem 0x20000 0))]))
/-- The hypotheses of a clause of `AccessChecksInOrder` can be met. -/
theorem witness_AccessChecksInOrder :
    ∃ o : OpRX,
    ∃ m : MemMod,
    ∃ s : State,
    (Issues s [o.a, o.b]) ∧
    let c := at2 s o
    (Cap.kind c.val ≠ Cap.kQueue) ∧
    True :=
  ⟨(⟨0, 1, 2, 8⟩ : OpRX),
   (⟨false, 0, 1, true, 2⟩ : MemMod),
   s_AccessChecksInOrder,
   by unfold Issues Ready Together; decide +kernel,
   by decide +kernel, trivial⟩

def s_AccumulatorsAreRead : State := (let s := (let t := strand .user [(1, num 1)]; { filled { t with mtx := { t.mtx with descs := [(0, 0)], tiles := (List.range 4).flatMap (fun k => (List.range 300).map fun i => (k * 8192 + i, BitVec.ofNat 8 ((i * 73 + k * 11) % 254 + 1))), accs := (List.range 200).map fun i => (i, BitVec.ofNat 32 (i * 0x3010203 + 1)) , marks := [(0, 0)] } } with quads := [(0, { QuadState.empty with nextOp := 0 })], badRows := [] }); s.withSelf { s.self with vec := { s.self.vec with vlen := 6, vstart := 2, k := [(1, 0x5A)], seeds := [(0, 7)] } })
/-- The hypotheses of a clause of `AccumulatorsAreRead` can be met. -/
theorem witness_AccumulatorsAreRead :
    ∃ o : OpRRR,
    ∃ m : VecMod,
    ∃ s : State,
    (VReady s [vDst o.a, ⟨4, o.b.toNat, true, false⟩, wSrc o.c] m) ∧
    (Unbounded s 1) ∧
    let acc := o.b.toNat
    let row := (x s o.c).toNat % 64
    let mark := s.watermark s.cur acc
    (bitAt mark 7 ∨ row < fieldAt mark 0 7) ∧
    True :=
  ⟨(⟨0, 4, 0, 1, 0⟩ : OpRRR),
   (⟨7, 6, false, 0⟩ : VecMod),
   s_AccumulatorsAreRead,
   by unfold VReady Ready Together CanIssue Free; decide +kernel,
   unbounded_of (by decide +kernel),
   by decide +kernel, trivial⟩

def s_AgentTurns : State := (let s0 := filled (strand .user []); { s0 with now := .nmaRoutine 4, units := { s0.units with agentJobs := [], agentSlots := storeAt none 5 (none) [] } })
/-- The hypotheses of a clause of `AgentTurns` can be met. -/
theorem witness_AgentTurns :
    ∃ s : State,
    ∃ agent : Nat,
    (s.now = .nmaRoutine agent) ∧
    ((∀ j ∈ s.units.agentJobs, j.agent ≠ agent)) ∧
    True :=
  ⟨s_AgentTurns,
   (4 : Nat),
   by decide +kernel,
   by decide +kernel, trivial⟩

def s_AgentsRun : State := (let s0 := filled (strand .user [(1, id (mem 65536 0)), (2, num 64), (10, num 7), (11, num 8), (12, mem 0x20000 3), (13, neg 1)]); { s0 with units := { s0.units with agentJobs := [], agentSlots := storeAt none 5 (some ⟨0, [0x2000]⟩) [] } })
/-- The hypotheses of a clause of `AgentsRun` can be met. -/
theorem witness_AgentsRun :
    ∃ o : OpRRR,
    ∃ s : State,
    ∃ p : Nat,
    ∃ e : Word,
    (Ready s [wBoth o.a, wBoth (o.a + 1), wBoth (o.a + 2), wBoth (o.a + 3)]) ∧
    (o.a.toNat ≤ 60) ∧
    (Issues s [o.b, o.c]) ∧
    let c : Reg := ⟨Cap.offset (w s o.b).val (x s o.c).toInt, (w s o.b).tag⟩
    let va := Cap.cursor c.val
    let a := localOf p
    let slot := lookupD none s.units.agentSlots (o.imm.toNat % 64)
    (checkFault s c Cap.ec [Cap.kMemory] 1 = none) ∧
    (Maps s (Cap.tenant c.val) va Cap.ec p e) ∧
    (place a = .dram) ∧
    (pteM e = false) ∧
    (pkgOf p = s.pkg) ∧
    ∃ v,
    (slot = some v) ∧
    (v.owner = Cap.tenant c.val) ∧
    (Cap.has c.val Cap.gl) ∧
    ((∀ j ∈ s.units.agentJobs, j.agent ≠ channelOf a)) ∧
    (Unbounded s 5) ∧
    (v.words = [0x2000]) ∧
    True :=
  ⟨(⟨0, 10, 1, 2, 5⟩ : OpRRR),
   s_AgentsRun,
   (paOf s_AgentsRun 0 (65536 + 64) : Nat),
   (pteOf s_AgentsRun 0 (65536 + 64) : Word),
   by unfold Ready Together; decide +kernel,
   by decide +kernel,
   by unfold Issues Ready Together; decide +kernel,
   by decide +kernel,
   maps_of (by decide +kernel),
   by decide +kernel,
   by decide +kernel,
   by decide +kernel,
   (⟨0, [0x2000]⟩),
   by decide +kernel,
   by decide +kernel,
   by decide +kernel,
   by decide +kernel,
   unbounded_of (by decide +kernel),
   by decide +kernel, trivial⟩

def s_AnswersEndRequests : State := (let s0 := with1 { strand .user [] with asked := [7] } (filled (strand .user [])); { s0 with now := .remoteAnswer ({ dst := 0, src := 16384, ty := 2, vc := 1, dl := false, dt := 0, mr := false, ls := false, mirrored := false, tenant := 0, txn := 7, tag := false, wrong := [], addr := 0x1000000, op := .accepted, data := [1, 2, 3, 4] }), units := { s0.units with requests := [{ txn := 8, sid := 1, use := .put, packet := { dst := 1, src := 0, ty := 0, vc := 1, dl := false, dt := 0, mr := false, ls := false, mirrored := false, tenant := 0, txn := 7, tag := false, wrong := [], addr := 0x1000024, op := .read 4, data := [] }, sent := 0, probed := none }], lostAnswers := [] } })
def pk_AnswersEndRequests : Packet := { dst := 0, src := 16384, ty := 2, vc := 1, dl := false, dt := 0, mr := false, ls := false, mirrored := false, tenant := 0, txn := 7, tag := false, wrong := [], addr := 0x1000000, op := .accepted, data := [1, 2, 3, 4] }
/-- The hypotheses of a clause of `AnswersEndRequests` can be met. -/
theorem witness_AnswersEndRequests :
    ∃ s : State,
    ∃ pk : Packet,
    (s.now = .remoteAnswer pk) ∧
    (pk.op ≠ .probeAnswer) ∧
    ((∀ r ∈ s.units.requests, r.txn ≠ pk.txn ∧ r.txn % 256 ≠ pk.txn)) ∧
    True :=
  ⟨s_AnswersEndRequests,
   pk_AnswersEndRequests,
   by decide +kernel,
   by decide +kernel,
   by decide +kernel, trivial⟩

def s_ArrivalsAtCores : State := (let s0 := filled { strand .user [] with ctl := 0 }; { s0 with now := .scratchpadWriteArrival { core := 0, offset := 256, bytes := (List.range 16).map fun i => BitVec.ofNat 8 (i * 3 + 1), src := 0x1234, path := 3 } })
/-- The hypotheses of a clause of `ArrivalsAtCores` can be met. -/
theorem witness_ArrivalsAtCores :
    ∃ s : State,
    ∃ v : PadWrite,
    (s.now = .scratchpadWriteArrival v) ∧
    (v.core < 4096) ∧
    (v.offset + v.bytes.length ≤ 0x40000) ∧
    (NoPartials s) ∧
    ((∀ j < v.bytes.length, s.badAt (spadAddr v.core (v.offset + j)) = 0)) ∧
    True :=
  ⟨s_ArrivalsAtCores,
   ({ core := 0, offset := 256, bytes := (List.range 16).map fun i => BitVec.ofNat 8 (i * 3 + 1), src := 0x1234, path := 3 } : PadWrite),
   by decide +kernel,
   by decide +kernel,
   by decide +kernel,
   noPartials_of (by decide +kernel),
   by decide +kernel, trivial⟩

def s_ArrivalsCompletePhases : State := with1 { strand .user [] with members := gbit 1 3, arrived := 0, syncing := 0 } (run { strand .user [(1, group 1 3 0), (2, num 5), (3, num 0xFFFF), (4, num 0x10000)] with members := gbit 1 3, arrived := 0, syncing := 0 })
/-- The hypotheses of a clause of `ArrivalsCompletePhases` can be met. -/
theorem witness_ArrivalsCompletePhases :
    ∃ o : OpR,
    ∃ s : State,
    ∃ scope : Nat,
    ∃ g : Nat,
    (Issues s [o.a]) ∧
    let c := w s o.a
    let t := s.self
    let b := groupBit scope g
    (checkFault s c Cap.br [Cap.kGroup] 1 = none) ∧
    (NamesGroup s c scope g) ∧
    (t.members.getLsbD b) ∧
    (t.arrived.getLsbD b = false) ∧
    (s.gangPending s.cur scope g = false) ∧
    (scope ≤ 4) ∧
    (NoReduction s scope g) ∧
    ((∃ m ∈ others s scope g, (s.strand m).arrived.getLsbD b = false)) ∧
    True :=
  ⟨(⟨0, 1⟩ : OpR),
   s_ArrivalsCompletePhases,
   (1 : Nat),
   (3 : Nat),
   by unfold Issues Ready Together; decide +kernel,
   by decide +kernel,
   by unfold NamesGroup; decide +kernel,
   by decide +kernel,
   by decide +kernel,
   by decide +kernel,
   by decide +kernel,
   by unfold NoReduction; decide +kernel,
   by decide +kernel, trivial⟩

def s_AtomicsAtHome : State := (filled (strand .user [(1, num 0xf4cfaa85603b16f1), (4, num 77), (5, num 0xF5DAC8B3A18F7A61), (2, mem 0x20000 0), (3, num 8)]))
/-- The hypotheses of a clause of `AtomicsAtHome` can be met. -/
theorem witness_AtomicsAtHome :
    ∃ o : OpRRR,
    ∃ m : MemMod,
    ∃ s : State,
    ∃ a : Nat,
    ∃ e : Word,
    (Issues s [o.a, o.b, o.c]) ∧
    (Ready s [⟨0, o.a.toNat + 1, true, false⟩]) ∧
    (o.a ≠ 63) ∧
    ((m.width = 2 ∨ m.width = 3)) ∧
    let k := 2 ^ m.width.toNat
    (Opens s (at3 s o) (Cap.ld ||| Cap.st ||| Cap.atm) k a e) ∧
    ((cacheable a ∨ DirectOwn s a)) ∧
    let u := (released s m.ord.toNat m.scope.toNat).leaveLine (coreOf s.cur) (a / 128)
    (NoPartials u) ∧
    (u.firstBad a k = none) ∧
    True :=
  ⟨(⟨0, 1, 2, 3, 8⟩ : OpRRR),
   (⟨false, 0, 1, true, 2⟩ : MemMod),
   s_AtomicsAtHome,
   (0x10008000010 : Nat),
   (0x1000800013F : Word),
   by unfold Issues Ready Together; decide +kernel,
   by unfold Ready Together; decide +kernel,
   by decide +kernel,
   by decide +kernel,
   opens_of (by decide +kernel),
   by first | exact Or.inl (by decide +kernel) | exact Or.inr (directOwn_of (by decide +kernel)),
   noPartials_of (by decide +kernel),
   by decide +kernel, trivial⟩

def s_BmemExchangesMask : State := with1 { strand .user [] with members := gbit 1 3, arrived := 0, syncing := 0 } (run { strand .user [(1, group 1 3 0), (2, num 5), (3, num 0xFFFF), (4, num 0x10000)] with members := gbit 1 3, arrived := gbit 1 3, syncing := 0 })
/-- The hypotheses of a clause of `BmemExchangesMask` can be met. -/
theorem witness_BmemExchangesMask :
    ∃ o : OpRRC,
    ∃ s : State,
    ∃ scope : Nat,
    ∃ g : Nat,
    (Issues s [o.a, o.x, o.y]) ∧
    let new := x s o.x
    let c := w s o.y
    (new.toNat < 65536) ∧
    (checkFault s c Cap.br [Cap.kGroup] 1 = none) ∧
    (NamesGroup s c scope g) ∧
    (scope ≤ 4) ∧
    True :=
  ⟨(⟨0, 9, 2, some 1⟩ : OpRRC),
   s_BmemExchangesMask,
   (1 : Nat),
   (3 : Nat),
   by unfold Issues Ready Together; decide +kernel,
   by decide +kernel,
   by decide +kernel,
   by unfold NamesGroup; decide +kernel,
   by decide +kernel, trivial⟩

def s_BranchTargets : State := (run (strand .user [(1, num 0), (2, neg 1), (3, num 1), (4, num 1)]))
/-- The hypotheses of a clause of `BranchTargets` can be met. -/
theorem witness_BranchTargets :
    ∃ o : OpRI,
    ∃ s : State,
    (Issues s [o.a]) ∧
    True :=
  ⟨(⟨0, 1, 5⟩ : OpRI),
   s_BranchTargets,
   by unfold Issues Ready Together; decide +kernel, trivial⟩

def s_BrkAndWfi : State := { run { strand .supervisor [] with timecmp := 7 } with time := 7 }
/-- The hypotheses of a clause of `BrkAndWfi` can be met. -/
theorem witness_BrkAndWfi :
    ∃ o : OpN,
    ∃ s : State,
    (Together s) ∧
    let t := s.self
    let due := (t.timecmp ≠ 0 ∧ t.timecmp.toNat ≤ s.time ∧ t.mode = .supervisor) ∨
      ∃ e ∈ t.pending, t.mode = .supervisor ∨ e.1 = cSlice ∨ e.1 = cDirtyLog ∨ e.1 = cMachine
    (t.mode ≠ .user) ∧
    (due) ∧
    True :=
  ⟨(⟨0⟩ : OpN),
   s_BrkAndWfi,
   by unfold Together; decide +kernel,
   by decide +kernel,
   by decide +kernel, trivial⟩

def s_BudgetsRunInPeriods : State := (let s0 := filled (strand .user []); { s0 with now := .budgetPeriod, time := 7500, units := { s0.units with period := 0, islands := [(0, ⟨1500, 77, 55⟩), (3, ⟨1700, 0, 9⟩)], colonies := [(1, some { colony with alloc := [(2, 101)], nextAlloc := [], rem := [(2, -50)] }), (2, none)] } })
/-- The hypotheses of a clause of `BudgetsRunInPeriods` can be met. -/
theorem witness_BudgetsRunInPeriods :
    ∃ s : State,
    (s.now = .budgetPeriod) ∧
    ((∀ d ∈ s.dies, d.2.slots = [])) ∧
    True :=
  ⟨s_BudgetsRunInPeriods,
   by decide +kernel,
   by decide +kernel, trivial⟩

def s_ButterflyNetwork : State := (let t := strand .user []; run { t with vec := { t.vec with vlen := 64, vstart := 0, v := (List.range 8).flatMap fun r => (List.range 8).map fun l => (r * 64 + l, BitVec.ofNat 64 ((r + 1) * 0x0000000300000002 + l * 0x100000007)), k := [(1, 0x5A5A5A5A5A5A5A5A5A5A5A5A5A5A5A5A)], mq := (List.range 8).map fun l => (64 + l, BitVec.ofNat 64 12289), mc := (List.range 8).map fun l => (64 + l, BitVec.ofNat 64 21843) } })
/-- The hypotheses of a clause of `ButterflyNetwork` can be met. -/
theorem witness_ButterflyNetwork :
    ∃ o : OpRX,
    ∃ m : ModMod,
    ∃ s : State,
    (Ready s [vBoth o.a, vBoth o.b]) ∧
    (CanIssue s) ∧
    (s.self.vec.vstart = 0) ∧
    (Unbounded s 1) ∧
    True :=
  ⟨(⟨0, 3, 4, 0⟩ : OpRX),
   (⟨1, 2, false, 0⟩ : ModMod),
   s_ButterflyNetwork,
   by unfold Ready Together; decide +kernel,
   by unfold CanIssue Free; decide +kernel,
   by decide +kernel,
   unbounded_of (by decide +kernel), trivial⟩

def s_CallPushesLink : State := (run { strand .user [(1, num 3), (9, num 4)] with win := { Strand.idle.win with frame := 32, depth := 0 } })
/-- The hypotheses of a clause of `CallPushesLink` can be met. -/
theorem witness_CallPushesLink :
    ∃ o : OpI,
    ∃ s : State,
    (Together s) ∧
    (CallFits s.self) ∧
    True :=
  ⟨(⟨0, -20⟩ : OpI),
   s_CallPushesLink,
   by unfold Together; decide +kernel,
   by unfold CallFits Room; decide +kernel, trivial⟩

def s_CapabilityCsrWrites : State := (run { strand .supervisor [(1, code 8)] with frm := 0 })
/-- The hypotheses of a clause of `CapabilityCsrWrites` can be met. -/
theorem witness_CapabilityCsrWrites :
    ∃ o : OpRI,
    ∃ s : State,
    (Issues s [o.a]) ∧
    let n := o.imm.toNat
    let r := w s o.a
    let t := s.self
    let store := Cap.kind r.val = Cap.kMemory ∧ Cap.has r.val (Cap.ld ||| Cap.st ||| Cap.lc ||| Cap.sc)
    (t.mode ≠ .user) ∧
    (n = 0x042) ∧
    (r.tag) ∧
    (store) ∧
    True :=
  ⟨(⟨0, 1, 0x042⟩ : OpRI),
   s_CapabilityCsrWrites,
   by unfold Issues Ready Together; decide +kernel,
   by decide +kernel,
   by decide +kernel,
   by decide +kernel,
   by decide +kernel, trivial⟩

def s_CapabilityResults : State := (run (strand .user [(1, mem 0x20000 0x10), (2, num 0x20), (3, neg 1), (4, cap Cap.kEntry 0xF 0x10000 0x10010 0x10000), (5, mem 0x20000 0x18), (6, num 0xFFFFFFFFFFFF), (7, num 0x100001), (8, mem 0x10000 0x10003)]))
/-- The hypotheses of a clause of `CapabilityResults` can be met. -/
theorem witness_CapabilityResults :
    ∃ o : OpRR,
    ∃ s : State,
    (Issues s [o.a, o.b]) ∧
    True :=
  ⟨(⟨0, 1, 4⟩ : OpRR),
   s_CapabilityResults,
   by unfold Issues Ready Together; decide +kernel, trivial⟩

def s_CboundHoldsRange : State := (run (strand .user [(1, mem 0x20000 0x10), (2, num 0x20), (3, neg 1), (4, cap Cap.kEntry 0xF 0x10000 0x10010 0x10000), (5, mem 0x20000 0x18), (6, num 0xFFFFFFFFFFFF), (7, num 0x100001), (8, mem 0x10000 0x10003)]))
/-- The hypotheses of a clause of `CboundHoldsRange` can be met. -/
theorem witness_CboundHoldsRange :
    ∃ o : OpRRC,
    ∃ s : State,
    (Issues s [o.a, o.x, o.y]) ∧
    True :=
  ⟨(⟨0, 9, 1, some 2⟩ : OpRRC),
   s_CboundHoldsRange,
   by unfold Issues Ready Together; decide +kernel, trivial⟩

def s_CmintChecks : State := (run (strand .user [(1, mem 0x20000 0), (2, untagged (cap Cap.kEntry 0x7 0x20000 0x20010 0x20000))]))
/-- The hypotheses of a clause of `CmintChecks` can be met. -/
theorem witness_CmintChecks :
    ∃ o : OpRRR,
    ∃ s : State,
    (Issues s [o.a, o.b, o.c]) ∧
    let M := w s o.b
    let T := w s o.c
    let foreign := s.self.mode ≠ .hypervisor ∧ Cap.tenant M.val ≠ s.self.tid
    let weak := Cap.kind M.val ≠ Cap.kMemory ∨ Cap.has M.val Cap.mt = false
    let inside := bitsAt T.val 112 16 = 0 ∧ Cap.tenant T.val = Cap.tenant M.val ∧ Cap.has M.val (Cap.perms T.val) ∧
      Cap.base M.val ≤ Cap.base T.val ∧ Cap.top T.val ≤ Cap.top M.val ∧ Cap.inRange T.val
    (M.tag) ∧
    (¬foreign) ∧
    (¬weak) ∧
    (inside) ∧
    True :=
  ⟨(⟨0, 3, 1, 2, 0⟩ : OpRRR),
   s_CmintChecks,
   by unfold Issues Ready Together; decide +kernel,
   by decide +kernel,
   by decide +kernel,
   by decide +kernel,
   by decide +kernel, trivial⟩

def s_ColoniesSaveAndLoad : State := (let s0 := filled { strand .user [] with live := true, status := 0 }; { s0 with now := .colonySaveDone 1024, units := { s0.units with colonies := [(1024, some { colony with state := .yielding, save := Reg.zero, yield := some { deadline := 5, slot := 2, hold := true, stopped := [0], forced := false } })] } })
def y_ColoniesSaveAndLoad : Yield := ((s_ColoniesSaveAndLoad.colony (1024 : Nat)).getD Colony.first : Colony).yield.getD { deadline := 0, slot := 0, hold := false, stopped := [], forced := true }
/-- The hypotheses of a clause of `ColoniesSaveAndLoad` can be met. -/
theorem witness_ColoniesSaveAndLoad :
    ∃ s : State,
    ∃ id : Nat,
    ∃ c : Colony,
    ∃ y : Yield,
    (s.now = .colonySaveDone id) ∧
    (s.colony id = some c) ∧
    (c.state = .yielding) ∧
    (c.yield = some y) ∧
    let stopped := ∀ n ∈ s.colonyStrands id, s.stoppedForYield n = true
    (stopped) ∧
    (s.colonyStrands id ≠ []) ∧
    True :=
  ⟨s_ColoniesSaveAndLoad,
   (1024 : Nat),
   ((s_ColoniesSaveAndLoad.colony (1024 : Nat)).getD Colony.first : Colony),
   y_ColoniesSaveAndLoad,
   by decide +kernel,
   by decide +kernel,
   by decide +kernel,
   by decide +kernel,
   by decide +kernel,
   by decide +kernel, trivial⟩

def s_ColonyDebugging : State := (let s0 :=  with1 ({ strand .user [(5, num 77)] with debugger := { attached := true, stuck := false, held := [] }, status := 0x3001 }) <| (filled { strand .hypervisor [(1, num 68719476745), (2, num 0)] with tid := 0, debugger := { attached := false, stuck := false, held := [] } }); fetched (.colopConfigure ⟨0, 1, 2⟩) { s0 with units := { s0.units with colonies := [(1, some colony)] } })
/-- The hypotheses of a clause of `ColonyDebugging` can be met. -/
theorem witness_ColonyDebugging :
    ∃ o : OpRR,
    ∃ s : State,
    ∃ ins : Instr,
    ∃ c : Colony,
    (Hyper ins o s 9) ∧
    (s.colony (colOf s o) = some c) ∧
    let n := argOf s o / 16
    let sid := n % 16384
    let member := n / 16384 = s.pkg ∧ sid ∈ s.colonyStrands (colOf s o)
    let t := s.strand sid
    (member) ∧
    (argOf s o % 2 = 0) ∧
    (t.debugger.attached) ∧
    (t.debugger.held = []) ∧
    (t.apart = none) ∧
    True :=
  ⟨(⟨0, 1, 2⟩ : OpRR),
   s_ColonyDebugging,
   (.colopDebug : Instr),
   ((s_ColonyDebugging.colony (colOf s_ColonyDebugging (⟨0, 1, 2⟩ : OpRR))).getD Colony.first : Colony),
   by unfold Hyper Issues Ready Together Colop; decide +kernel,
   by decide +kernel,
   by decide +kernel,
   by decide +kernel,
   by decide +kernel,
   by decide +kernel,
   by decide +kernel, trivial⟩

def s_ColonyGovernance : State := (let s0 :=  (filled (strand .hypervisor [(1, num 4101), (2, num 65536)])); fetched (.tinvPage ⟨0, 1, 2⟩) { s0 with units := { s0.units with colonies := [] }, tlb := [(tlbKey 12 0 1 0x2000000, ⟨0x200013F, 1⟩), (tlbKey 12 5 2 0x10000, ⟨0x200013F, 2⟩), (tlbKey 3 0 2 0x10000, ⟨0x200013F, 2⟩)].foldl (fun m (e : Nat × TlbEntry) => storeAt ⟨0, 0⟩ e.1 e.2 m) s0.tlb })
/-- The hypotheses of a clause of `ColonyGovernance` can be met. -/
theorem witness_ColonyGovernance :
    ∃ o : OpRR,
    ∃ s : State,
    ∃ ins : Instr,
    (Issues s [o.a, o.b]) ∧
    (ins = .tinvPage o ∨ ((ins = .tinvTenant ∨ ins = .tinvAll) ∧ o = s.self.rowRR)) ∧
    let A := (x s o.a).toNat
    let kind := A / 2 ^ 12 % 4
    let t := BitVec.ofNat 12 A
    let bad := A / 2 ^ 14 ≠ 0 ∨ kind = 3
    (¬bad) ∧
    (s.self.mode = .hypervisor ∨ (s.self.mode = .supervisor ∧ kind ≠ 2 ∧ t = s.self.tid)) ∧
    True :=
  ⟨(⟨0, 1, 2⟩ : OpRR),
   s_ColonyGovernance,
   (.tinvPage ⟨0, 1, 2⟩ : Instr),
   by unfold Issues Ready Together; decide +kernel,
   by decide +kernel,
   by decide +kernel,
   by decide +kernel, trivial⟩

def s_ColonyRecords : State := (let s0 :=  (filled { strand .hypervisor [(1, num 196612), (2, num 0)] with tid := 0 }); fetched (.colopConfigure ⟨0, 1, 2⟩) { s0 with units := { s0.units with colonies := [(6, some { Colony.first with state := .saved, tenant := 0, chan := 0xF, job := 0, save := Reg.zero, rings := 7, cslots := 8, wlq := 9, alloc := [(2, 100), (3, 5)], vf := 3, hostMember := true, spill := mem 0x10000 0 }), (7, some { Colony.first with state := .idle, tenant := 0, chan := 0xFF, job := 0, save := mem 0x20000 0, rings := 7, cslots := 8, wlq := 9, alloc := [(2, 101), (3, 7)], vf := 3, hostMember := true, spill := mem 0x10000 0 })] } })
def l_ColonyRecords : Colony := { Colony.first with state := .saved, tenant := 0, chan := 0xF, job := 0, save := Reg.zero, rings := 7, cslots := 8, wlq := 9, alloc := [(2, 100), (3, 5)], vf := 3, hostMember := true, spill := mem 0x10000 0 }
def r_ColonyRecords : Colony := { Colony.first with state := .idle, tenant := 0, chan := 0xFF, job := 0, save := mem 0x20000 0, rings := 7, cslots := 8, wlq := 9, alloc := [(2, 101), (3, 7)], vf := 3, hostMember := true, spill := mem 0x10000 0 }
/-- The hypotheses of a clause of `ColonyRecords` can be met. -/
theorem witness_ColonyRecords :
    ∃ o : OpRR,
    ∃ s : State,
    ∃ ins : Instr,
    ∃ l : Colony,
    ∃ r : Colony,
    (Hyper ins o s 4) ∧
    let id := colOf s o
    (s.colony (2 * id) = some l) ∧
    (s.colony (2 * id + 1) = some r) ∧
    (l.state ≠ .idle ∨ r.state ≠ .idle) ∧
    (RingFree s (2 * id)) ∧
    (RingFree s (2 * id + 1)) ∧
    True :=
  ⟨(⟨0, 1, 2⟩ : OpRR),
   s_ColonyRecords,
   (.colopMerge : Instr),
   l_ColonyRecords,
   r_ColonyRecords,
   by unfold Hyper Issues Ready Together Colop; decide +kernel,
   by decide +kernel,
   by decide +kernel,
   by decide +kernel,
   ringFree_of (by decide +kernel),
   ringFree_of (by decide +kernel), trivial⟩

def s_ColonyStates : State := (let s0 :=  (filled { strand .hypervisor [(1, num 2147483844614), (2, num 0)] with tid := 0 }); fetched (.colopConfigure ⟨0, 1, 2⟩) { s0 with units := { s0.units with colonies := [(3, some { Colony.first with state := .loaded, tenant := 0, chan := 0xFF, job := 0, save := mem 0x10000 0, rings := 7, cslots := 8, wlq := 9, alloc := [(2, 101), (3, 7)], vf := 3, hostMember := true, spill := mem 0x10000 0 })] } })
/-- The hypotheses of a clause of `ColonyStates` can be met. -/
theorem witness_ColonyStates :
    ∃ o : OpRR,
    ∃ s : State,
    ∃ ins : Instr,
    ∃ c : Colony,
    (Hyper ins o s 6) ∧
    (s.colony (colOf s o) = some c) ∧
    let id := colOf s o
    let y : Yield := { deadline := s.time + argOf s o * 1000, slot := 64, hold := true, stopped := [], forced := false }
    let u := s.withColony id (some { c with state := .yielding, yield := some y })
    (c.state = .loaded) ∧
    (c.save.tag) ∧
    (u.colonyStrands id = []) ∧
    True :=
  ⟨(⟨0, 1, 2⟩ : OpRR),
   s_ColonyStates,
   (.colopHold : Instr),
   ((s_ColonyStates.colony (colOf s_ColonyStates (⟨0, 1, 2⟩ : OpRR))).getD Colony.first : Colony),
   by unfold Hyper Issues Ready Together Colop; decide +kernel,
   by decide +kernel,
   by decide +kernel,
   by decide +kernel,
   by decide +kernel, trivial⟩

def s_ColonyTables : State := (let s0 :=  (filled { strand .hypervisor [(1, num 131089), (2, num 0)] with tid := 0 }); fetched (.colopConfigure ⟨0, 1, 2⟩) { s0 with units := { s0.units with colonies := [(1, some colony), (2, some { Colony.first with state := .loaded, tenant := 0, chan := 0xFF, job := 0, save := Reg.zero, rings := 7, cslots := 8, wlq := 9, alloc := [(2, 101), (3, 7)], vf := 3, hostMember := true, spill := mem 0x10000 0 })] } })
/-- The hypotheses of a clause of `ColonyTables` can be met. -/
theorem witness_ColonyTables :
    ∃ o : OpRR,
    ∃ s : State,
    ∃ ins : Instr,
    ∃ c : Colony,
    (Hyper ins o s 17) ∧
    (s.colony (colOf s o) = some c) ∧
    (c.state ≠ .idle) ∧
    (RingFree s (colOf s o)) ∧
    True :=
  ⟨(⟨0, 1, 2⟩ : OpRR),
   s_ColonyTables,
   (.colopJob : Instr),
   ((s_ColonyTables.colony (colOf s_ColonyTables (⟨0, 1, 2⟩ : OpRR))).getD Colony.first : Colony),
   by unfold Hyper Issues Ready Together Colop; decide +kernel,
   by decide +kernel,
   by decide +kernel,
   ringFree_of (by decide +kernel), trivial⟩

def s_ColopChecks : State := (let s0 :=  (filled { strand .hypervisor [(1, num 21474902025), (2, num 0)] with tid := 0 }); fetched (.colopConfigure ⟨0, 1, 2⟩) { s0 with units := { s0.units with colonies := [] } })
/-- The hypotheses of a clause of `ColopChecks` can be met. -/
theorem witness_ColopChecks :
    ∃ o : OpRR,
    ∃ s : State,
    ∃ ins : Instr,
    ∃ row : Nat,
    (Issues s [o.a, o.b]) ∧
    (Colop ins o s row) ∧
    let A := (x s o.a).toNat
    let op := opOf s o
    let listed := 1 ≤ op ∧ op ≤ 0x12
    let bad := A / 2 ^ 27 % 32 ≠ 0 ∨ A / 2 ^ 8 % 256 ≠ 0
    (¬bad) ∧
    (s.self.mode = .hypervisor) ∧
    (listed) ∧
    (op ≠ 1) ∧
    (op ≠ 4) ∧
    (op < 0xE ∨ op = 0x11) ∧
    (s.colony (colOf s o) = none) ∧
    True :=
  ⟨(⟨0, 1, 2⟩ : OpRR),
   s_ColopChecks,
   (.colopColour : Instr),
   (14 : Nat),
   by unfold Issues Ready Together; decide +kernel,
   by unfold Colop; decide +kernel,
   by decide +kernel,
   by decide +kernel,
   by decide +kernel,
   by decide +kernel,
   by decide +kernel,
   by decide +kernel,
   by decide +kernel, trivial⟩

def s_CopiesIssue : State := (let s0 := filled (strand .user [(1, cap Cap.kQueue 0xFFF 0xD0000 0xE0000 0xD0000), (10, mem 0x10000 0), (11, mem 0x20000 0), (12, num 16), (13, mem 0x20000 0x100), (14, num 64)]); { s0 with units := { s0.units with nextCopy := 77, windows := [], queues := [(3, { CopyQueue.empty with cmds := [{ id := 0, tid := 0, src := mem 0x10000 0, len := 16, members := [⟨1, false, mem 0x20000 0, Reg.zero, none⟩], followOn := none, charged := false, got := [], readError := none, written := false }, { id := 1, tid := 0, src := mem 0x10000 0, len := 16, members := [⟨1, false, mem 0x20000 0, Reg.zero, none⟩], followOn := none, charged := false, got := [], readError := none, written := false }, { id := 2, tid := 0, src := mem 0x10000 0, len := 16, members := [⟨1, false, mem 0x20000 0, Reg.zero, none⟩], followOn := none, charged := false, got := [], readError := none, written := false }] })] } })
/-- The hypotheses of a clause of `CopiesIssue` can be met. -/
theorem witness_CopiesIssue :
    ∃ o : OpRR,
    ∃ s : State,
    ∃ q : Nat,
    ∃ p : Nat,
    ∃ e : Word,
    (Ready s [⟨0, o.b.toNat, true, false⟩, ⟨0, o.b.toNat + 1, true, false⟩, ⟨0, o.b.toNat + 2, true, false⟩,
       ⟨0, o.b.toNat + 3, true, false⟩, ⟨0, o.b.toNat + 4, true, false⟩, wSrc o.a]) ∧
    (o.b.toNat ≤ 59) ∧
    let src := w s o.b
    let dst := w s (o.b + 1)
    let ctl := x s (o.b + 2)
    let fut := w s (o.b + 3)
    let word := x s (o.b + 4)
    let len := ctl.toNat % 2 ^ 32
    let fol := bitAt ctl 33
    let tile := Cap.kind dst.val = Cap.kTile
    let global := fun (r : Reg) => Cap.has r.val Cap.gl = true
    let bad := fieldAt ctl 34 30 ≠ 0 ∨
      (fol = true ∧ (fieldAt word 16 48 ≠ 0 ∨ bitAt word 6 = true ∨ 2 ≤ fieldAt word 14 2 ∨ dst.tag = false ∨ ¬tile))
    let dstOk := if tile then checkFault s dst Cap.st [Cap.kTile] 1 = none ∧ Cap.cursor dst.val / 2 ^ 44 = 0 ∧
        Cap.cursor dst.val / 2 ^ 31 % 8192 + len ≤ 8192
      else checkFault s dst Cap.st [Cap.kMemory] len = none
    let colony := s.colonyOf s.cur
    let room := (s.queue q).cmds.length < 16 ∧ ∀ c, s.colony colony = some c → s.heldCopies colony < c.cslots
    (¬bad) ∧
    (checkFault s (w s o.a) Cap.ec [Cap.kQueue] 1 = none) ∧
    (Maps s (Cap.tenant (w s o.a).val) (Cap.cursor (w s o.a).val) Cap.ec p e) ∧
    (queueOf s p = some q) ∧
    (checkFault s src Cap.ld [Cap.kMemory] len = none) ∧
    (global src) ∧
    (dstOk) ∧
    (global dst) ∧
    ((fut.tag = true → checkFault s fut (Cap.st ||| Cap.atm) [Cap.kMemory] 16 = none ∧ global fut)) ∧
    (s.windowAt (quadOf s.cur) q = none) ∧
    ((s.colony colony = none → s.heldCopies colony < 32768)) ∧
    (bitAt ctl 32 = false) ∧
    (room) ∧
    True :=
  ⟨(⟨0, 1, 10⟩ : OpRR),
   s_CopiesIssue,
   (3 : Nat),
   (paOf s_CopiesIssue 0 0xD0000 : Nat),
   (pteOf s_CopiesIssue 0 0xD0000 : Word),
   by unfold Ready Together; decide +kernel,
   by decide +kernel,
   by decide +kernel,
   by decide +kernel,
   maps_of (by decide +kernel),
   by decide +kernel,
   by decide +kernel,
   by decide +kernel,
   by decide +kernel,
   by decide +kernel,
   by decide +kernel,
   by decide +kernel,
   by decide +kernel,
   by decide +kernel,
   by decide +kernel, trivial⟩

def s_CopyEvents : State := (let s0 := filled { strand .user [] with live := false }; { s0 with now := .followOnIssue ⟨3, 0, true, 2, 4, 6, 32⟩ })
/-- The hypotheses of a clause of `CopyEvents` can be met. -/
theorem witness_CopyEvents :
    ∃ s : State,
    ∃ f : FollowOn,
    (s.now = .followOnIssue f) ∧
    ((∀ v ∈ s.units.vault, s.savedNow v = false)) ∧
    let sid := f.target % 16384
    (f.target / 16384 ≠ s.pkg ∨ (s.strand sid).live = false) ∧
    (f.queue / 2048 = s.pkg) ∧
    ((s.queue (f.queue % 2048)).err = false) ∧
    True :=
  ⟨s_CopyEvents,
   (⟨3, 0, true, 2, 4, 6, 32⟩ : FollowOn),
   by decide +kernel,
   by decide +kernel,
   by decide +kernel,
   by decide +kernel,
   by decide +kernel, trivial⟩

def s_CountersAreSet : State := (fetched (.ctrarmArm ⟨0, 1, 2, 3, 0⟩) (let s0 := filled (strand .hypervisor [(1, num 21474837002), (2, Reg.zero), (3, num 5)]); { s0  with units := { s0.units with counters := [(3, { count := 100, source := 1, threshold := 100, armed := false, lost := true, handle := Reg.zero, key := 3, cls := 1, arg := num 4, sid := 9 })] }, dies := [(0, { DieState.empty with counters := [(2, { count := 100, source := 1, threshold := 100, armed := false, lost := true, handle := Reg.zero, key := 3, cls := 1, arg := num 4, sid := 9 })] })], cores := [(0, { CoreState.empty with counters := [(5, { count := 100, source := 1, threshold := 100, armed := false, lost := true, handle := Reg.zero, key := 3, cls := 1, arg := num 4, sid := 9 })] })] }))
/-- The hypotheses of a clause of `CountersAreSet` can be met. -/
theorem witness_CountersAreSet :
    ∃ o : OpRRR,
    ∃ s : State,
    ∃ ins : Instr,
    (Issues s [o.a, o.b, o.c]) ∧
    (ins = .ctrarmArm o ∨ (ins = .ctrarmDisarm ∧ o = s.self.rowRRR)) ∧
    let A := (x s o.a).toNat
    let n := A % 128
    let old := s.counterAt n
    let bad := 71 < n ∨ A / 2 ^ 7 % 2 = 1 ∨ A / 2 ^ 11 % 2 ^ 21 ≠ 0
    let fires := old.threshold ≠ 0 ∧ old.threshold.toNat ≤ old.count
    (¬bad) ∧
    (MayCount s n) ∧
    ((w s o.b).tag = false) ∧
    ((w s o.c).tag = false ∨ Cap.has (w s o.c).val Cap.gl) ∧
    (A / 2 ^ 10 % 2 = 0) ∧
    (fires) ∧
    True :=
  ⟨(⟨0, 1, 2, 3, 0⟩ : OpRRR),
   s_CountersAreSet,
   (.ctrarmDisarm : Instr),
   by unfold Issues Ready Together; decide +kernel,
   by decide +kernel,
   by decide +kernel,
   mayCount_of (by decide +kernel),
   by decide +kernel,
   by decide +kernel,
   by decide +kernel,
   by decide +kernel, trivial⟩

def s_CountersFire : State := (let s0 := filled (strand .user []); { s0 with now := .counterFire 0 5, units := { s0.units with counters := [(3, { count := 5, source := 1, threshold := 5, armed := false, lost := false, handle := Reg.zero, key := 3, cls := 1, arg := num 4, sid := 0 })] }, dies := [(0, { DieState.empty with counters := [(2, { count := 5, source := 1, threshold := 5, armed := false, lost := false, handle := Reg.zero, key := 3, cls := 1, arg := num 4, sid := 0 })] })], cores := [(0, { CoreState.empty with counters := [(5, { count := 5, source := 1, threshold := 5, armed := false, lost := false, handle := Reg.zero, key := 3, cls := 1, arg := num 4, sid := 0 })] })] })
/-- The hypotheses of a clause of `CountersFire` can be met. -/
theorem witness_CountersFire :
    ∃ s : State,
    ∃ owner : Nat,
    ∃ n : Nat,
    (n ≤ 71) ∧
    (s.now = .counterFire owner n) ∧
    let c := if n < 8 then lookupD Counter.zero (s.core owner).counters n
      else if n < 40 then lookupD Counter.zero (s.die owner).counters (n - 8)
      else lookupD Counter.zero s.units.counters (n - 40)
    (c.handle.tag = false) ∧
    ((s.strand c.sid).live) ∧
    True :=
  ⟨s_CountersFire,
   (0 : Nat),
   (5 : Nat),
   by decide +kernel,
   by decide +kernel,
   by decide +kernel,
   by decide +kernel, trivial⟩

def s_CsrReads : State := (run { strand .user [(1, num 0x1F5)] with frm := 0 })
/-- The hypotheses of a clause of `CsrReads` can be met. -/
theorem witness_CsrReads :
    ∃ o : OpRI,
    ∃ s : State,
    (Issues s [o.a]) ∧
    let n := o.imm.toNat
    let low := (0x020 ≤ n ∧ n ≤ 0x023 ∧ s.self.mode = .user) ∨ (0x030 ≤ n ∧ n ≤ 0x033 ∧ s.self.mode ≠ .hypervisor)
    (¬low) ∧
    True :=
  ⟨(⟨0, 1, 0x001⟩ : OpRI),
   s_CsrReads,
   by unfold Issues Ready Together; decide +kernel,
   by decide +kernel, trivial⟩

def s_CsrWrites : State := (run { strand .user [(1, num 0x1F5)] with frm := 0 })
/-- The hypotheses of a clause of `CsrWrites` can be met. -/
theorem witness_CsrWrites :
    ∃ o : OpRI,
    ∃ s : State,
    (Issues s [o.a]) ∧
    let n := o.imm.toNat
    let v := x s o.a
    let t := s.self
    let sup := t.mode ≠ .user
    let excluded := (n = 0x003 ∧ (fieldAt v 3 2 = 3 ∨ (t.mode = .hypervisor ∧ fieldAt v 5 2 = 3))) ∨
      ((n = 0x052 ∨ n = 0x0A0) ∧ 511 < v.toNat % 1024)
    (¬excluded) ∧
    ((csrWriteMode n).num ≤ t.mode.num) ∧
    ((n = 0x004 → sup ∨ bitAt v 1 = bitAt t.ctl 1)) ∧
    (n ∉ [0x010, 0x020, 0x030, 0x042, 0x068]) ∧
    True :=
  ⟨(⟨0, 1, 0x004⟩ : OpRI),
   s_CsrWrites,
   by unfold Issues Ready Together; decide +kernel,
   by decide +kernel,
   by decide +kernel,
   by decide +kernel,
   by decide +kernel, trivial⟩

def s_DeliverEntersHandler : State := (run ({ strand .user [] with status := 0x1, utrap := { TrapRegs.zero with tvec := Reg.zero }, strap := { TrapRegs.zero with tvec := entry 0 }, htrap := { TrapRegs.zero with tvec := entry 0 } }))
/-- The hypotheses of a clause of `DeliverEntersHandler` can be met. -/
theorem witness_DeliverEntersHandler :
    ∃ s : State,
    ∃ c : BitVec 8,
    ∃ v : Word,
    ∃ v2 : Option Word,
    ∃ ex : Bool,
    ∃ ret : Reg,
    ∃ m : Mode,
    (Handler s c m) ∧
    True :=
  ⟨s_DeliverEntersHandler,
   (cFfull : BitVec 8),
   (5 : Word),
   (none : Option Word),
   (true : Bool),
   (code 8 : Reg),
   (.supervisor : Mode),
   by unfold Handler; decide +kernel, trivial⟩

def s_DenseProductsIssue : State := (let t := strand .user []; { filled { t with mtx := { t.mtx with descs := [(0, 33325507), (1, 33333700)], tiles := (List.range 4).flatMap (fun k => (List.range 300).map fun i => (k * 8192 + i, BitVec.ofNat 8 ((i * 73 + k * 11) % 254 + 1))), accs := (List.range 200).map fun i => (i, BitVec.ofNat 32 (i * 0x3010203 + 1))  } } with quads := [(0, { QuadState.empty with nextOp := 0 })], badTiles := [] })
/-- The hypotheses of a clause of `DenseProductsIssue` can be met. -/
theorem witness_DenseProductsIssue :
    ∃ o : OpRRR,
    ∃ s : State,
    ∃ ternary : Bool,
    let acc := o.a.toNat
    let lt := o.b.toNat
    let dL := s.self.desc lt
    let dR := s.self.desc o.c.toNat
    let row0 := o.imm.toNat % 64
    let pair := pairing ternary (descFmt dL) (descFmt dR)
    let unfit := pair = none ∨ descCols dR ≠ descCols dL ∨ (descFmt dR = 0 ∧ 32 < descRows dR)
    (Ready s [⟨4, acc, false, true⟩, ⟨3, lt, true, false⟩, ⟨3, o.c.toNat, true, false⟩]) ∧
    (¬unfit) ∧
    (row0 + descRows dL ≤ 64) ∧
    (ArrayFree s) ∧
    True :=
  ⟨(⟨0, 0, 0, 1, 0⟩ : OpRRR),
   s_DenseProductsIssue,
   (false : Bool),
   by unfold Ready Together; decide +kernel,
   by decide +kernel,
   by decide +kernel,
   arrayFree_of (by decide +kernel), trivial⟩

def s_DepositsArrive : State := (with1 { strand .user [] with live := true, named := [] } (run (strand .user [(1, obj Cap.kStrand 1), (2, num 4), (3, num 3)])))
/-- The hypotheses of a clause of `DepositsArrive` can be met. -/
theorem witness_DepositsArrive :
    ∃ o : OpRRR,
    ∃ m : MemMod,
    ∃ s : State,
    (Issues s [o.a, o.b, o.c]) ∧
    let c := w s o.a
    let v := w s o.b
    let n := x s o.c
    let sid := Cap.cursor c.val % 16384
    (checkFault s c Cap.dp [Cap.kStrand] 1 = none) ∧
    (v.tag = false ∨ Cap.has v.val Cap.gl) ∧
    (Cap.cursor c.val % 2 ^ 28 / 16384 = s.pkg) ∧
    ((m.ord = 2 → s.putsOutstanding s.cur = false)) ∧
    let old := released s m.ord.toNat m.scope.toNat
    let t := old.strand sid
    (t.live) ∧
    (n.toNat < t.win.frame) ∧
    (sid ≠ s.cur) ∧
    (t.named.contains n.toNat = false) ∧
    True :=
  ⟨(⟨0, 1, 2, 3, 0⟩ : OpRRR),
   (⟨false, 0, 1, true, 2⟩ : MemMod),
   s_DepositsArrive,
   by unfold Issues Ready Together; decide +kernel,
   by decide +kernel,
   by decide +kernel,
   by decide +kernel,
   by decide +kernel,
   by decide +kernel,
   by decide +kernel,
   by decide +kernel,
   by decide +kernel, trivial⟩

/-- The hypotheses of a clause of `ElementsWritten` can be met. -/
theorem witness_ElementsWritten :
    ∃ m : SMap Word,
    ∃ g : Nat,
    ∃ r : RegNo,
    ∃ w : Nat,
    ∃ f : Nat → Option Nat,
    (g ≤ 64) ∧
    ((w = 8 ∨ w = 16 ∨ w = 32 ∨ w = 64)) ∧
    ∃ k,
    (k / 64 ≠ r.toNat ∨ g ≤ k % 64) ∧
    True :=
  ⟨([(65, 0x1122334455667788)] : SMap Word),
   (8 : Nat),
   (1 : RegNo),
   (8 : Nat),
   (fun e => if e % 3 = 0 then some (e * 77) else none : Nat → Option Nat),
   by decide +kernel,
   by decide +kernel,
   130,
   by decide +kernel, trivial⟩

def s_ErrorsStrike : State := (let s0 := filled (strand .user []); { s0 with now := .uncorrectableError (ErrUnit.tileUnit 0 3 5 true) })
/-- The hypotheses of a clause of `ErrorsStrike` can be met. -/
theorem witness_ErrorsStrike :
    ∃ s : State,
    ∃ u : ErrUnit,
    (s.now = .uncorrectableError u) ∧
    ∃ sid,
    ∃ tile,
    ∃ unit,
    ∃ integ,
    (u = .tileUnit sid tile unit integ) ∧
    (tile < 8) ∧
    (unit < 256) ∧
    True :=
  ⟨s_ErrorsStrike,
   ((ErrUnit.tileUnit 0 3 5 true) : ErrUnit),
   by decide +kernel,
   0,
   3,
   5,
   true,
   by decide +kernel,
   by decide +kernel,
   by decide +kernel, trivial⟩

def s_FencesAndLines : State := (cached (filled (strand .user [(1, num 0), (2, mem 0x10000 0)])))
/-- The hypotheses of a clause of `FencesAndLines` can be met. -/
theorem witness_FencesAndLines :
    ∃ o : OpRX,
    ∃ m : MemMod,
    ∃ s : State,
    (Issues s [o.a, o.b]) ∧
    let l := (x s o.a).toNat
    (l = 0) ∧
    True :=
  ⟨(⟨0, 1, 2, 4⟩ : OpRX),
   (⟨false, 0, 1, true, 2⟩ : MemMod),
   s_FencesAndLines,
   by unfold Issues Ready Together; decide +kernel,
   by decide +kernel, trivial⟩

def s_FetchAndAdd : State := id (filled (strand .user [(1, num 0xFFFFFFFF80000005), (2, mem 0x10000 0), (3, num 8)]))
def p_FetchAndAdd : Nat := paOf s_FetchAndAdd (Cap.tenant (⟨Cap.offset (w s_FetchAndAdd (⟨0, 1, 2, 3, 0⟩ : OpRRR).b).val (x s_FetchAndAdd (⟨0, 1, 2, 3, 0⟩ : OpRRR).c).toInt, (w s_FetchAndAdd (⟨0, 1, 2, 3, 0⟩ : OpRRR).b).tag⟩ : Reg).val) (Cap.cursor (⟨Cap.offset (w s_FetchAndAdd (⟨0, 1, 2, 3, 0⟩ : OpRRR).b).val (x s_FetchAndAdd (⟨0, 1, 2, 3, 0⟩ : OpRRR).c).toInt, (w s_FetchAndAdd (⟨0, 1, 2, 3, 0⟩ : OpRRR).b).tag⟩ : Reg).val)
def e_FetchAndAdd : Word := pteOf s_FetchAndAdd (Cap.tenant (⟨Cap.offset (w s_FetchAndAdd (⟨0, 1, 2, 3, 0⟩ : OpRRR).b).val (x s_FetchAndAdd (⟨0, 1, 2, 3, 0⟩ : OpRRR).c).toInt, (w s_FetchAndAdd (⟨0, 1, 2, 3, 0⟩ : OpRRR).b).tag⟩ : Reg).val) (Cap.cursor (⟨Cap.offset (w s_FetchAndAdd (⟨0, 1, 2, 3, 0⟩ : OpRRR).b).val (x s_FetchAndAdd (⟨0, 1, 2, 3, 0⟩ : OpRRR).c).toInt, (w s_FetchAndAdd (⟨0, 1, 2, 3, 0⟩ : OpRRR).b).tag⟩ : Reg).val)
/-- The hypotheses of a clause of `FetchAndAdd` can be met. -/
theorem witness_FetchAndAdd :
    ∃ o : OpRRR,
    ∃ m : AmoMod,
    ∃ s : State,
    ∃ p : Nat,
    ∃ e : Word,
    (Issues s [o.a, o.b, o.c]) ∧
    let k := if m.w32 then 4 else 8
    let c : Reg := ⟨Cap.offset (w s o.b).val (x s o.c).toInt, (w s o.b).tag⟩
    let perm := Cap.ld ||| Cap.st ||| Cap.atm
    let a := localOf p
    (checkFault s c perm [Cap.kMemory] k = none) ∧
    (Maps s (Cap.tenant c.val) (Cap.cursor c.val) perm p e) ∧
    (place a = .dram) ∧
    (pteM e = false) ∧
    (pkgOf p = s.pkg) ∧
    (o.imm.toNat % 64 = 0) ∧
    let u := (released s m.ord.toNat m.scope.toNat).leaveLine (coreOf s.cur) (a / 128)
    (NoPartials u) ∧
    (u.firstBad a k = none) ∧
    True :=
  ⟨(⟨0, 1, 2, 3, 0⟩ : OpRRR),
   (⟨false, 0, 1⟩ : AmoMod),
   s_FetchAndAdd,
   p_FetchAndAdd,
   e_FetchAndAdd,
   by unfold Issues Ready Together; decide +kernel,
   by decide +kernel,
   maps_of (by decide +kernel),
   by decide +kernel,
   by decide +kernel,
   by decide +kernel,
   by decide +kernel,
   noPartials_of (by decide +kernel),
   by decide +kernel, trivial⟩

def s_FetchReadsWords : State := (let s0 := (let s0 := bytesFrom 0x1000100 ((((encode (.add ⟨0, 1, 2, none⟩)).getD []) : List IWord).flatMap fun w => leBytes 2 w.toNat) (filled (strand .user [])); { s0 with steps := 5 }); s0.withCore 0 { CoreState.empty with code := [(131074, pattern 128)] })
/-- The hypotheses of a clause of `FetchReadsWords` can be met. -/
theorem witness_FetchReadsWords :
    ∃ s : State,
    ∃ va : Nat,
    ∃ p : Nat,
    ∃ tenant : BitVec 12,
    let line := lookupD [] (s.core (coreOf s.cur)).code (p / 128)
    (line ≠ []) ∧
    True :=
  ⟨s_FetchReadsWords,
   (0x10100 : Nat),
   (0x1000100 : Nat),
   (0 : BitVec 12),
   by decide +kernel, trivial⟩

def s_FlitsAreAccepted : State := (let s0 := filled (strand .user []); { s0 with now := .flitReceive 13 (let b : List Byte := leBytes 16 (3 * 2 ^ 114 + 5 * 2 ^ 86 + 0 * 2 ^ 82 + 3 * 2 ^ 79 + 1 * 2 ^ 77 + 2 ^ 76 + 2 ^ 74 + 6 * 2 ^ 61) ++ leBytes 48 12345; ({ body := b, seq := 65535, lcrc := crc16 0x1021 0xFFFF (b ++ (leBytes 2 7 ++ leBytes 2 9 ++ leBytes 2 65535)), cv1 := 9, cv0 := 7 } : Flit)), units := { s0.units with ports := [(13, { Port.up with down := false, rx := 65535, pieces := [(let b : List Byte := leBytes 16 (3 * 2 ^ 114 + 5 * 2 ^ 86 + 0 * 2 ^ 82 + 3 * 2 ^ 79 + 1 * 2 ^ 77 + 2 ^ 76 + 2 ^ 74 + 6 * 2 ^ 61) ++ leBytes 48 12345; ({ body := b, seq := 3, lcrc := crc16 0x1021 0xFFFF (b ++ (leBytes 2 7 ++ leBytes 2 9 ++ leBytes 2 3)), cv1 := 9, cv0 := 7 } : Flit))], acks := [(true, 3)] })] } })
def f_FlitsAreAccepted : Flit := (let b : List Byte := leBytes 16 (3 * 2 ^ 114 + 5 * 2 ^ 86 + 0 * 2 ^ 82 + 3 * 2 ^ 79 + 1 * 2 ^ 77 + 2 ^ 76 + 2 ^ 74 + 6 * 2 ^ 61) ++ leBytes 48 12345; ({ body := b, seq := 65535, lcrc := crc16 0x1021 0xFFFF (b ++ (leBytes 2 7 ++ leBytes 2 9 ++ leBytes 2 65535)), cv1 := 9, cv0 := 7 } : Flit))
/-- The hypotheses of a clause of `FlitsAreAccepted` can be met. -/
theorem witness_FlitsAreAccepted :
    ∃ s : State,
    ∃ i : Nat,
    ∃ f : Flit,
    (s.now = .flitReceive i f) ∧
    let v := s.port i
    let check := crc16 0x1021 0xFFFF (f.body ++ (leBytes 2 f.cv0.toNat ++ leBytes 2 f.cv1.toNat ++ leBytes 2 f.seq.toNat))
    let good := f.lcrc = check ∧ f.seq.toNat = v.rx
    let pieces := v.pieces ++ [f]
    let count := leNat (((pieces.headD f).body).take 16) / 2 ^ 79 % 8 + 1
    (v.down = false) ∧
    (good) ∧
    (pieces.length < count) ∧
    True :=
  ⟨s_FlitsAreAccepted,
   (13 : Nat),
   f_FlitsAreAccepted,
   by decide +kernel,
   by decide +kernel,
   by decide +kernel,
   by decide +kernel, trivial⟩

def s_FloatOtherForms : State := (run { strand .user [(1, num 0x3FF8000000000000), (2, num 0x4000000000000000), (3, num 0x7FF8000000000001), (4, num 0), (5, num 0x3DCCCCCD)] with frm := 4, vec := { (strand .user []).vec with seeds := [(0, 0x12345678)] } })
/-- The hypotheses of a clause of `FloatOtherForms` can be met. -/
theorem witness_FloatOtherForms :
    ∃ o : OpRR,
    ∃ m : VecMod,
    ∃ s : State,
    (Issues s [o.a, o.b]) ∧
    (HasSeed s m.rnd) ∧
    True :=
  ⟨(⟨0, 1, 2⟩ : OpRR),
   (⟨0, 7, false, 0⟩ : VecMod),
   s_FloatOtherForms,
   by unfold Issues Ready Together; decide +kernel,
   by unfold HasSeed; decide +kernel, trivial⟩

def s_FloatTwoSource : State := (run { strand .user [(1, num 0x3FF8000000000000), (2, num 0x4000000000000000), (3, num 0x7FF8000000000001), (4, num 0), (5, num 0x3DCCCCCD)] with frm := 4, vec := { (strand .user []).vec with seeds := [(0, 0x12345678)] } })
/-- The hypotheses of a clause of `FloatTwoSource` can be met. -/
theorem witness_FloatTwoSource :
    ∃ o : OpRRC,
    ∃ m : VecMod,
    ∃ s : State,
    (Issues s [o.a, o.x, o.y]) ∧
    (HasSeed s m.rnd) ∧
    True :=
  ⟨(⟨0, 1, 2, none⟩ : OpRRC),
   (⟨0, 7, false, 0⟩ : VecMod),
   s_FloatTwoSource,
   by unfold Issues Ready Together; decide +kernel,
   by unfold HasSeed; decide +kernel, trivial⟩

def s_FollowOnsIssue : State := (let s1 := (let s0 := (let t := strand .user []; { filled { t with mtx := { t.mtx with descs := [(0, 33325507), (1, 33333764)], tiles := (List.range 4).flatMap (fun k => (List.range 300).map fun i => (k * 8192 + i, BitVec.ofNat 8 ((i * 73 + k * 11) % 254 + 1))), accs := (List.range 200).map fun i => (i, BitVec.ofNat 32 (i * 0x3010203 + 1))  } } with quads := [(0, { QuadState.empty with nextOp := 0 })], badTiles := [] }); (s0.withStrand 4 { s0.strand 0 with live := true })); { s1 with now := .dispatchRound 0, cores := [(2, { CoreState.empty with queue := [] })], units := { s1.units with queues := [(3, { CopyQueue.empty with err := false })] } })
/-- The hypotheses of a clause of `FollowOnsIssue` can be met. -/
theorem witness_FollowOnsIssue :
    ∃ s : State,
    ∃ q : Nat,
    (s.now = .dispatchRound q) ∧
    ((∀ i < 4, (s.core (q * 4 + i)).queue = [])) ∧
    True :=
  ⟨s_FollowOnsIssue,
   (0 : Nat),
   by decide +kernel,
   by decide +kernel, trivial⟩

def s_FrameChanges : State := (run { strand .user [(1, num 3), (9, num 4)] with win := { Strand.idle.win with frame := 32, depth := 0 } })
/-- The hypotheses of a clause of `FrameChanges` can be met. -/
theorem witness_FrameChanges :
    ∃ o : OpI,
    ∃ s : State,
    (Together s) ∧
    let t := s.self
    let d := t.win.shift
    let e := (d : Int) + o.imm.toInt
    (0 ≤ e) ∧
    (e ≤ 192) ∧
    ((e ≤ d ∨ Room t (e.toNat - d + t.win.frame) 63)) ∧
    ((e < d → e < t.win.overlap → t.win.kept = true ∨ t.win.links ≠ [] ∨ t.win.depth = 0)) ∧
    True :=
  ⟨(⟨0, 0⟩ : OpI),
   s_FrameChanges,
   by unfold Together; decide +kernel,
   by decide +kernel,
   by decide +kernel,
   by unfold Room; decide +kernel,
   by decide +kernel, trivial⟩

def s_FuturesReadAndFill : State := (bytesFrom 0x1000010 (leBytes 8 99 ++ leBytes 8 1) (bytesFrom 0x1000020 (leBytes 16 0) (bytesFrom 0x10008000010 (leBytes 8 99 ++ leBytes 8 1) (cached (filled (strand .user [(1, num 5), (2, mem 0x10000 0x10)]))))))
/-- The hypotheses of a clause of `FuturesReadAndFill` can be met. -/
theorem witness_FuturesReadAndFill :
    ∃ o : OpRR,
    ∃ m : MemMod,
    ∃ s : State,
    ∃ a : Nat,
    ∃ e : Word,
    (Issues s [o.a, o.b]) ∧
    ((cacheable a ∨ DirectOwn s a)) ∧
    let full := fun (u : State) => leNat (u.bytesAt (a + 8) 8) % 2 = 1
    (Opens s (w s o.b) Cap.ld 16 a e) ∧
    let u := s.leaveLine (coreOf s.cur) (a / 128)
    (NoPartials u) ∧
    (u.firstBad a 16 = none) ∧
    (full u) ∧
    True :=
  ⟨(⟨0, 1, 2⟩ : OpRR),
   (⟨false, 0, 1, true, 2⟩ : MemMod),
   s_FuturesReadAndFill,
   (0x1000010 : Nat),
   (0x100013F : Word),
   by unfold Issues Ready Together; decide +kernel,
   by first | exact Or.inl (by decide +kernel) | exact Or.inr (directOwn_of (by decide +kernel)),
   opens_of (by decide +kernel),
   noPartials_of (by decide +kernel),
   by decide +kernel,
   by decide +kernel, trivial⟩

def s_GangsForm : State := (let s := (let t := strand .user [(3, group 2 1 0)]; { filled { t with mtx := { t.mtx with descs := [(0, 33325507), (1, 0), (2, 0), (3, 33333700)], tiles := (List.range 4).flatMap (fun k => (List.range 300).map fun i => (k * 8192 + i, BitVec.ofNat 8 ((i * 73 + k * 11) % 254 + 1))), accs := (List.range 200).map fun i => (i, BitVec.ofNat 32 (i * 0x3010203 + 1))  } } with quads := [(0, { QuadState.empty with postings := [⟨2, 1, 2, 0, 0, 3, 0⟩], nextOp := 5 })], badTiles := [] }); let s := s.withSelf { s.self with gangIssued := false }; (s.withStrand 2 { s.self with gangIssued := false }))
/-- The hypotheses of a clause of `GangsForm` can be met. -/
theorem witness_GangsForm :
    ∃ o : OpRRR,
    ∃ s : State,
    ∃ scope : Nat,
    ∃ g : Nat,
    let q := quadOf s.cur
    let acc := o.a.toNat
    let rt := o.imm.toNat % 8
    let gid := o.imm.toNat / 8 % 8
    let n := o.imm.toNat / 64 % 8 + 1
    let c := Claims.w s o.c
    let me : Posting := ⟨s.cur, gid, n, acc, o.b.toNat, rt, BitVec.ofNat 64 (Cap.cursor c.val)⟩
    let others := (s.quad q).postings.filter fun p => p.gid = gid
    (Ready s [⟨4, acc, false, true⟩, ⟨3, o.b.toNat, true, false⟩, ⟨3, rt, true, false⟩, wSrc o.c]) ∧
    (s.self.gangIssued = false) ∧
    ((∀ p ∈ (s.quad q).postings, p.sid ≠ s.cur)) ∧
    (checkFault s c Cap.br [Cap.kGroup] 1 = none) ∧
    (NamesGroup s c scope g) ∧
    (scope = 2) ∧
    ((∀ p ∈ others, p.count = n)) ∧
    (n ≤ others.length + 1) ∧
    (ArrayFree s) ∧
    let ps := others.foldl (fun l p => insertPosting p l) [me]
    let lead := ps.headD me
    ((∀ p ∈ ps, (s.strand p.sid).desc p.rt = (s.strand lead.sid).desc lead.rt ∧ (partnerPair s lead p).isSome)) ∧
    True :=
  ⟨(⟨0, 1, 0, 3, 75⟩ : OpRRR),
   s_GangsForm,
   (2 : Nat),
   (1 : Nat),
   by unfold Ready Together; decide +kernel,
   by decide +kernel,
   by decide +kernel,
   by decide +kernel,
   by unfold NamesGroup; decide +kernel,
   by decide +kernel,
   by decide +kernel,
   by decide +kernel,
   arrayFree_of (by decide +kernel),
   by decide +kernel, trivial⟩

def s_GroupsDepart : State := (let s0 := filled (strand .user []); { s0 with now := .combineDepart 0 2, units := { s0.units with routers := [(0, { held := [({ req := { ({ addr := 0x1000010, k := 8, tenant := 0, out := 0, total := 4294967295, win := 50, leaves := 3, src := 3, txn := 7, recs := [] } : CombReq) with out := 24 }, port := 3, until_ := 50, group := some (24 * 256) } : HeldReq)], comb := [(24 * 256, ⟨[], false, false⟩)] })] } })
/-- The hypotheses of a clause of `GroupsDepart` can be met. -/
theorem witness_GroupsDepart :
    ∃ s : State,
    ∃ e : Nat,
    ∃ i : Nat,
    (s.now = .combineDepart e i) ∧
    let v := s.router e
    (v.held.length ≤ i) ∧
    True :=
  ⟨s_GroupsDepart,
   (0 : Nat),
   (2 : Nat),
   by decide +kernel,
   by decide +kernel, trivial⟩

def t_HandlingMode : Strand := { strand .user [] with status := 0x1, utrap := { TrapRegs.zero with tvec := Reg.zero }, strap := { TrapRegs.zero with tvec := entry 0 }, htrap := { TrapRegs.zero with tvec := entry 0 } }
/-- The hypotheses of a clause of `HandlingMode` can be met. -/
theorem witness_HandlingMode :
    ∃ t : Strand,
    ∃ c : BitVec 8,
    let user := 1 ≤ c.toNat ∧ c.toNat ≤ 6 ∧ t.mode = .user ∧ bitAt t.status 0 = true ∧ bitAt t.status 8 = false ∧ t.utrap.tvec.tag
    let hyper := t.mode = .hypervisor ∨ c = cSlice ∨ c = cDirtyLog ∨ c = cMachine
    (¬user) ∧
    (¬hyper) ∧
    (t.strap.tvec.tag) ∧
    True :=
  ⟨t_HandlingMode,
   (cIll : BitVec 8),
   by decide +kernel,
   by decide +kernel,
   by decide +kernel, trivial⟩

def s_HoldTakesTime : State := (run (strand .user [(1, num 0), (2, neg 1), (3, num 1), (4, num 1)]))
/-- The hypotheses of a clause of `HoldTakesTime` can be met. -/
theorem witness_HoldTakesTime :
    ∃ o : OpI,
    ∃ s : State,
    (Together s) ∧
    let left := s.self.holding.getD (o.imm.toNat + 1)
    (left ≤ 1) ∧
    True :=
  ⟨(⟨2, 0⟩ : OpI),
   s_HoldTakesTime,
   by unfold Together; decide +kernel,
   by decide +kernel, trivial⟩

def s_HomeEvents : State := { ({ run { strand .user [(1, obj Cap.kWorklist (0 * 2 ^ 30 + 1 * 2 ^ 22 + 3 * 2 ^ 10)), (2, num 0x300000007), (3, num 5)] with frm := 0 } with dies := [(0, { DieState.empty with slots := [(0, { HomeSlot.free 2 with used := true }), (1, { HomeSlot.free 3 with used := true })], items := [{ inst := instName 0 0 1, gen := 3, key := 7, cls := 1, arg := code 8, pending := true, reserved := none, run := none, colony := 1, away := false }] })] }) with now := .countApply { home := 0, slot := 1, gen := 3, die := 0, n := 1, key := 7, sid := 0 } }
/-- The hypotheses of a clause of `HomeEvents` can be met. -/
theorem witness_HomeEvents :
    ∃ s : State,
    ∃ c : WlCount,
    (s.now = .countApply c) ∧
    let h := s.slot c.home c.slot
    (h.used) ∧
    (h.gen = c.gen) ∧
    (h.saved = false) ∧
    (h.asked = []) ∧
    ((∀ e ∈ h.hold, e.2 ≤ c.key)) ∧
    ((∀ y ∈ h.held, y.sid ≠ c.sid)) ∧
    (c.die / 8 = s.pkg) ∧
    ((∀ e ∈ h.dcount, e.1 / 8 = s.pkg)) ∧
    True :=
  ⟨s_HomeEvents,
   ({ home := 0, slot := 1, gen := 3, die := 0, n := 1, key := 7, sid := 0 } : WlCount),
   by decide +kernel,
   by decide +kernel,
   by decide +kernel,
   by decide +kernel,
   by decide +kernel,
   by decide +kernel,
   by decide +kernel,
   by decide +kernel,
   by decide +kernel, trivial⟩

def s_HomePutIsRead : State := (filled (strand .user []))
/-- The hypotheses of a clause of `HomePutIsRead` can be met. -/
theorem witness_HomePutIsRead :
    ∃ s : State,
    ∃ a : Nat,
    ∃ bs : List Byte,
    ((∀ i < bs.length, s.badAt (a + i) = 0)) ∧
    ((∀ i < bs.length, ∀ j < bs.length, canon (a + i) = canon (a + j) → i = j)) ∧
    ∃ b,
    ((∀ i < bs.length, canon b ≠ canon (a + i))) ∧
    True :=
  ⟨s_HomePutIsRead,
   (0x1000005 : Nat),
   (pattern 20 : List Byte),
   by decide +kernel,
   by decide +kernel,
   0x1000004,
   by decide +kernel, trivial⟩

def s_HostAccesses : State := (let s0 := filled (strand .user []); { s0 with now := .hostBarrierWrite 5 0, units := { s0.units with colonies := [(1, some colony), (2, some { colony with state := .loaded, vf := 5, job := 3, hostMember := true, hostPhases := [(2, 77)] })] } })
/-- The hypotheses of a clause of `HostAccesses` can be met. -/
theorem witness_HostAccesses :
    ∃ s : State,
    ∃ fn : Nat,
    ∃ off : Nat,
    (s.now = .hostBarrierWrite fn off) ∧
    ∃ id,
    ∃ c,
    (Serves s fn id c) ∧
    (off % 8 = 0) ∧
    (off < 128) ∧
    (c.hostMember) ∧
    (c.job ≠ 0) ∧
    ((∀ b ∈ s.running, s.jobOf b ≠ c.job)) ∧
    True :=
  ⟨s_HostAccesses,
   (5 : Nat),
   (0 : Nat),
   by decide +kernel,
   2,
   ((s_HostAccesses.colony 2).getD Colony.first),
   serves_of (by decide +kernel),
   by decide +kernel,
   by decide +kernel,
   by decide +kernel,
   by decide +kernel,
   by decide +kernel, trivial⟩

def s_IntegerOneSource : State := (run (strand .user [(1, num 100), (2, neg 7), (3, num 65), (4, num 0), (5, num 0x7FFFFFFFFFFFFFFF)]))
/-- The hypotheses of a clause of `IntegerOneSource` can be met. -/
theorem witness_IntegerOneSource :
    ∃ o : OpRR,
    ∃ s : State,
    (Issues s [o.a, o.b]) ∧
    True :=
  ⟨(⟨0, 1, 2⟩ : OpRR),
   s_IntegerOneSource,
   by unfold Issues Ready Together; decide +kernel, trivial⟩

def s_IntegerTwoSource : State := (run (strand .user [(1, num 100), (2, neg 7), (3, num 65), (4, num 0), (5, num 0x7FFFFFFFFFFFFFFF)]))
/-- The hypotheses of a clause of `IntegerTwoSource` can be met. -/
theorem witness_IntegerTwoSource :
    ∃ o : OpRRC,
    ∃ s : State,
    (Issues s [o.a, o.x, o.y]) ∧
    True :=
  ⟨(⟨0, 1, 2, some 3⟩ : OpRRC),
   s_IntegerTwoSource,
   by unfold Issues Ready Together; decide +kernel, trivial⟩

def s_InterruptsAreTaken : State := (let s0 := with1 { strand .user [] with status := 0, pending := [], asleep := false, gangFault := some (cGang, 9), live := false } (filled (strand .user [])); { s0 with now := .trapDelivery 1 })
/-- The hypotheses of a clause of `InterruptsAreTaken` can be met. -/
theorem witness_InterruptsAreTaken :
    ∃ s : State,
    ∃ sid : Nat,
    (s.now = .trapDelivery sid) ∧
    let b := s.strand sid
    let boundary := b.live ∧ b.asked = [] ∧ b.gangIssued = false ∧ b.pop = none ∧ b.status.toNat / 2 ^ 12 % 4 = 0
    (¬boundary) ∧
    True :=
  ⟨s_InterruptsAreTaken,
   (1 : Nat),
   by decide +kernel,
   by decide +kernel, trivial⟩

def s_Intersections : State := { (bytesFrom 0x10008000100 (leBytes 8 1 ++ leBytes 8 4 ++ leBytes 8 5 ++ leBytes 8 9) (bytesFrom 0x1000200 (leBytes 8 2 ++ leBytes 8 4 ++ leBytes 8 9 ++ leBytes 8 11) (run ({ strand .user [(1, num 5)] with stream := some ⟨cap Cap.kMemory 0xFFF 0x20100 0x20120 0x20100, cap Cap.kMemory 0xFFF 0x10200 0x10220 0x10200, 4, 4, 0, 0, some 3, some 5, [], 0, 0, none⟩, vec := { (strand .user []).vec with vlen := 2 } })))) with bad := [], now := .ixMergeStep 0 }
/-- The hypotheses of a clause of `Intersections` can be met. -/
theorem witness_Intersections :
    ∃ s : State,
    ∃ sid : Nat,
    ∃ v : Stream,
    (s.now = .ixMergeStep sid) ∧
    ((s.strand sid).stream = some v) ∧
    ∃ p,
    ∃ q,
    (¬Done v) ∧
    (v.headA = some p) ∧
    (v.headB = some q) ∧
    True :=
  ⟨s_Intersections,
   (0 : Nat),
   (⟨cap Cap.kMemory 0xFFF 0x20100 0x20120 0x20100, cap Cap.kMemory 0xFFF 0x10200 0x10220 0x10200, 4, 4, 0, 0, some 3, some 5, [], 0, 0, none⟩ : Stream),
   by decide +kernel,
   by decide +kernel,
   (((s_Intersections.strand (0 : Nat)).stream.bind (·.headA)).getD 0),
   (((s_Intersections.strand (0 : Nat)).stream.bind (·.headB)).getD 0),
   by unfold Done; decide +kernel,
   by decide +kernel,
   by decide +kernel, trivial⟩

def s_LaneClaims : State := (let t := strand .user [(1, num 5), (2, num 3)];  (run { t with frm := 4, vec := { t.vec with vlen := 64, vstart := 0, v := (List.range 64).flatMap fun r => (List.range 8).map fun l => (r * 64 + l, if r = 6 then BitVec.ofNat 64 (l * 0x0101010101010101) else BitVec.ofNat 64 ((r + 1) * 0x3FF0123456789ABC + l * 0x40009876543210FF + 1)), k := [(1, 0x5A5A5A5A5A5A5A5A5A5A5A5A5A5A5A5A)], seeds := (List.range 8).map fun l => (l, BitVec.ofNat 32 (l * 7654321 + 99)) } }))
/-- The hypotheses of a clause of `LaneClaims` can be met. -/
theorem witness_LaneClaims :
    ∃ o : OpRR,
    ∃ s : State,
    (Ready s [vDst o.a, vSrc o.b]) ∧
    (CanIssue s) ∧
    (Unbounded s 1) ∧
    True :=
  ⟨(⟨0, 5, 6⟩ : OpRR),
   s_LaneClaims,
   by unfold Ready Together; decide +kernel,
   by unfold CanIssue Free; decide +kernel,
   unbounded_of (by decide +kernel), trivial⟩

def s_LoadCapabilityAndConstant : State := (filled (strand .user [(1, num 5), (2, mem 0x30000 0)]))
/-- The hypotheses of a clause of `LoadCapabilityAndConstant` can be met. -/
theorem witness_LoadCapabilityAndConstant :
    ∃ o : OpRX,
    ∃ m : MemMod,
    ∃ s : State,
    ∃ a : Nat,
    ∃ e : Word,
    (Issues s [o.a, o.b]) ∧
    (Opens s (at2 s o) (Cap.ld ||| Cap.lc) 16 a e) ∧
    (cacheable a) ∧
    (m.scope ≠ 1 ∨ pteNc e) ∧
    let u := s.leaveLine (coreOf s.cur) (a / 128)
    (NoPartials u) ∧
    (u.firstBad a 16 = none) ∧
    True :=
  ⟨(⟨0, 1, 2, 16⟩ : OpRX),
   (⟨false, 0, 1, true, 2⟩ : MemMod),
   s_LoadCapabilityAndConstant,
   (0x1010010 : Nat),
   (0x101017F : Word),
   by unfold Issues Ready Together; decide +kernel,
   opens_of (by decide +kernel),
   by decide +kernel,
   by decide +kernel,
   noPartials_of (by decide +kernel),
   by decide +kernel, trivial⟩

def s_LoadReads : State := (filled (strand .user [(1, num 5), (2, mem 0x30000 0)]))
/-- The hypotheses of a clause of `LoadReads` can be met. -/
theorem witness_LoadReads :
    ∃ o : OpRX,
    ∃ m : MemMod,
    ∃ s : State,
    ∃ a : Nat,
    ∃ e : Word,
    (Issues s [o.a, o.b]) ∧
    (m.width.toNat ≤ 3) ∧
    let k := 2 ^ m.width.toNat
    (Opens s (at2 s o) Cap.ld k a e) ∧
    (cacheable a) ∧
    (m.scope ≠ 1 ∨ pteNc e) ∧
    let u := s.leaveLine (coreOf s.cur) (a / 128)
    (NoPartials u) ∧
    (u.firstBad a k = none) ∧
    True :=
  ⟨(⟨0, 1, 2, 8⟩ : OpRX),
   (⟨false, 0, 1, true, 2⟩ : MemMod),
   s_LoadReads,
   (0x1010008 : Nat),
   (0x101017F : Word),
   by unfold Issues Ready Together; decide +kernel,
   by decide +kernel,
   opens_of (by decide +kernel),
   by decide +kernel,
   by decide +kernel,
   noPartials_of (by decide +kernel),
   by decide +kernel, trivial⟩

def s_LogsAreControlled : State := (let s0 := bytesFrom 0x2000000 [7, 0, 0, 0, 0, 0, 0, 0, 0, 0, 0, 0, 0, 0, 0, 0, 0, 0, 0, 0, 1, 0, 0, 0] (filled (strand .user [(1, num 65537), (2, cap Cap.kMemory 0xFFF 0x100000 0x1A0000 0x100000)])); fetched (.dlogStatus ⟨0, 1, 2⟩) { s0 with tlb := (List.range 10).foldl (fun m i => storeAt ⟨0, 0⟩ (tlbKey 12 0 2 (0x100000 + i * 0x10000)) ⟨BitVec.ofNat 64 (0x200013F + i * 0x10000), 2⟩ m) [], units := { s0.units with colonies := [(1, some { colony with log := some { cap := cap Cap.kMemory 0xFFF 0x100000 0x1A0000 0x100000, wp := 5, overflowed := true, raised := true } })] } })
/-- The hypotheses of a clause of `LogsAreControlled` can be met. -/
theorem witness_LogsAreControlled :
    ∃ o : OpRR,
    ∃ s : State,
    ∃ ins : Instr,
    (Issues s [o.a, o.b]) ∧
    (ins = .dlogStatus o ∨ ((ins = .dlogStart ∨ ins = .dlogStop ∨ ins = .dlogLeaveBitmap) ∧ o = s.self.rowRR)) ∧
    let A := (x s o.a).toNat
    let bad := A / 2 ^ 27 ≠ 0 ∨ A / 4 % 2 ^ 14 ≠ 0
    (¬bad) ∧
    (s.self.mode ≠ .hypervisor) ∧
    True :=
  ⟨(⟨0, 1, 2⟩ : OpRR),
   s_LogsAreControlled,
   (.dlogStart : Instr),
   by unfold Issues Ready Together; decide +kernel,
   by decide +kernel,
   by decide +kernel,
   by decide +kernel, trivial⟩

def s_MailboxAnswers : State := (let s0 := bytesFrom 0x1F030000000 (leBytes 8 0 ++ leBytes 8 0) <| bytesFrom (0x1F030001000 + 0x800 * (0 % 16)) (leBytes 2 1 ++ leBytes 6 0 ++ leBytes 8 (0) ++ leBytes 32 77 ++ leBytes 16 9) (filled (strand .user [])); { s0 with now := .attestationReport, units := { s0.units with clock := ⟨5, true, 3, true, 37, 5, 6⟩ } })
/-- The hypotheses of a clause of `MailboxAnswers` can be met. -/
theorem witness_MailboxAnswers :
    ∃ s : State,
    (s.now = .attestationReport) ∧
    (leNat (s.bytesAt box 8) = leNat (s.bytesAt (box + 8) 8)) ∧
    True :=
  ⟨s_MailboxAnswers,
   by decide +kernel,
   by decide +kernel, trivial⟩

def s_MaskResults : State := (let t := strand .user [(1, num 5), (2, num 3)];  (run { t with frm := 4, vec := { t.vec with vlen := 64, vstart := 0, v := (List.range 64).flatMap fun r => (List.range 8).map fun l => (r * 64 + l, if r = 6 then BitVec.ofNat 64 (l * 0x0101010101010101) else BitVec.ofNat 64 ((r + 1) * 0x3FF0123456789ABC + l * 0x40009876543210FF + 1)), k := [(1, 0x5A5A5A5A5A5A5A5A5A5A5A5A5A5A5A5A)], seeds := (List.range 8).map fun l => (l, BitVec.ofNat 32 (l * 7654321 + 99)) } }))
/-- The hypotheses of a clause of `MaskResults` can be met. -/
theorem witness_MaskResults :
    ∃ o : OpRR,
    ∃ s : State,
    (Ready s [wDst o.a, kSrc o.b.toNat]) ∧
    (s.self.vec.lanes ≠ []) ∧
    True :=
  ⟨(⟨0, 9, 1⟩ : OpRR),
   s_MaskResults,
   by unfold Ready Together; decide +kernel,
   by decide +kernel, trivial⟩

def s_MirrorsReport : State := (let s0 := filled (strand .user []); { s0 with now := .mirrorReport ({ dst := 0, src := 49153, ty := 0, vc := 1, dl := false, dt := 0, mr := true, ls := false, mirrored := true, tenant := 0, txn := 7, tag := false, wrong := [], addr := 0x1000010, op := .accepted, data := [] }), units := { s0.units with mirrors := [] } })
def pk_MirrorsReport : Packet := { dst := 0, src := 49153, ty := 0, vc := 1, dl := false, dt := 0, mr := true, ls := false, mirrored := true, tenant := 0, txn := 7, tag := false, wrong := [], addr := 0x1000010, op := .accepted, data := [] }
/-- The hypotheses of a clause of `MirrorsReport` can be met. -/
theorem witness_MirrorsReport :
    ∃ s : State,
    ∃ pk : Packet,
    (s.now = .mirrorReport pk) ∧
    ((∀ e ∈ s.units.mirrors, ¬(e.2.mr = false ∧ e.2.src = pk.src ∧ e.2.addr = pk.addr))) ∧
    True :=
  ⟨s_MirrorsReport,
   pk_MirrorsReport,
   by decide +kernel,
   by decide +kernel, trivial⟩

def s_ModularArithmetic : State := (let t := strand .user []; run { t with vec := { t.vec with vlen := 64, vstart := 0, v := (List.range 8).flatMap fun r => (List.range 8).map fun l => (r * 64 + l, BitVec.ofNat 64 ((r + 1) * 0x0000000300000002 + l * 0x100000007)), k := [(1, 0x5A5A5A5A5A5A5A5A5A5A5A5A5A5A5A5A)], mq := (List.range 8).map fun l => (64 + l, BitVec.ofNat 64 12289), mc := (List.range 8).map fun l => (64 + l, BitVec.ofNat 64 21843) } })
/-- The hypotheses of a clause of `ModularArithmetic` can be met. -/
theorem witness_ModularArithmetic :
    ∃ o : OpRR,
    ∃ m : ModMod,
    ∃ s : State,
    (MReady s [vDst o.a, vSrc o.b] m) ∧
    ((∀ e ∈ activeMod s m, PairServes s m e)) ∧
    True :=
  ⟨(⟨0, 3, 4⟩ : OpRR),
   (⟨1, 2, false, 0⟩ : ModMod),
   s_ModularArithmetic,
   ⟨by unfold Ready Together; decide +kernel, by unfold Ready Together; decide +kernel, by unfold Ready Together; decide +kernel, by unfold CanIssue Free; decide +kernel, unbounded_of (by decide +kernel)⟩,
   by unfold PairServes Consistent; decide +kernel, trivial⟩

def s_ModularPairs : State := (let t := strand .user []; run { t with vec := { t.vec with vlen := 64, vstart := 0, v := (List.range 8).flatMap fun r => (List.range 8).map fun l => (r * 64 + l, BitVec.ofNat 64 ((r + 1) * 0x0000000300000002 + l * 0x100000007)), k := [(1, 0x5A5A5A5A5A5A5A5A5A5A5A5A5A5A5A5A)], mq := (List.range 8).map fun l => (64 + l, BitVec.ofNat 64 12289), mc := (List.range 8).map fun l => (64 + l, BitVec.ofNat 64 21843) } })
/-- The hypotheses of a clause of `ModularPairs` can be met. -/
theorem witness_ModularPairs :
    ∃ o : OpRR,
    ∃ m : ModMod,
    ∃ s : State,
    let file := if o.b.getLsbD 2 then 6 else 5
    (Ready s [vDst o.a, ⟨file, o.b.toNat % 4, true, false⟩]) ∧
    (Ready s (maskUse m.mask)) ∧
    (CanIssue s) ∧
    (Unbounded s 1) ∧
    True :=
  ⟨(⟨0, 3, 1⟩ : OpRR),
   (⟨1, 2, false, 0⟩ : ModMod),
   s_ModularPairs,
   by unfold Ready Together; decide +kernel,
   by unfold Ready Together; decide +kernel,
   by unfold CanIssue Free; decide +kernel,
   unbounded_of (by decide +kernel), trivial⟩

def s_MonitorsAndWait : State := (run (strand .user [(1, num 4)]))
/-- The hypotheses of a clause of `MonitorsAndWait` can be met. -/
theorem witness_MonitorsAndWait :
    ∃ o : OpR,
    ∃ s : State,
    (Issues s [o.a]) ∧
    let c := w s o.a
    (c.tag = false) ∧
    True :=
  ⟨(⟨0, 1⟩ : OpR),
   s_MonitorsAndWait,
   by unfold Issues Ready Together; decide +kernel,
   by decide +kernel, trivial⟩

def s_OtherPackages : State := (let s0 := filled { strand .user [(1, num 0x8182838485868788), (2, mem 0x70000 8)] with utrap := { TrapRegs.zero with tvec := entry 0x200 } , asked := [7], answers := [⟨7, .read 2, [200, 193], false⟩] }; { s0 with units := { s0.units with lost := [], nextTxn := 11 } })
/-- The hypotheses of a clause of `OtherPackages` can be met. -/
theorem witness_OtherPackages :
    ∃ o : OpRX,
    ∃ m : MemMod,
    ∃ s : State,
    ∃ load : Bool,
    ∃ p : Nat,
    ∃ e : Word,
    (Issues s [o.a, o.b]) ∧
    (m.width.toNat ≤ 3) ∧
    (m.ord = 0) ∧
    let k := 2 ^ m.width.toNat
    let c := at2 s o
    let perm := if load then Cap.ld else Cap.st
    (checkFault s c perm [Cap.kMemory] k = none) ∧
    (Maps s (Cap.tenant c.val) (Cap.cursor c.val) perm p e) ∧
    (pteM e = false) ∧
    (pkgOf p ≠ s.pkg) ∧
    (s.self.opIndex = 0) ∧
    (s.units.lost.contains (pkgOf p) = false) ∧
    ∃ txn,
    ∃ data,
    ∃ tag,
    ∃ op,
    (s.self.asked = [txn]) ∧
    (s.self.answers = [⟨txn, op, data, tag⟩]) ∧
    (data.length = k) ∧
    ((op = .accepted ∨ op = .read k)) ∧
    True :=
  ⟨(⟨0, 1, 2, 8⟩ : OpRX),
   (⟨false, 0, 0, true, 1⟩ : MemMod),
   s_OtherPackages,
   (false : Bool),
   (paOf s_OtherPackages 0 0x70010 : Nat),
   (pteOf s_OtherPackages 0 0x70010 : Word),
   by unfold Issues Ready Together; decide +kernel,
   by decide +kernel,
   by decide +kernel,
   by decide +kernel,
   maps_of (by decide +kernel),
   by decide +kernel,
   by decide +kernel,
   by decide +kernel,
   by decide +kernel,
   7,
   ([200, 193]),
   false,
   (.read 2),
   by decide +kernel,
   by decide +kernel,
   by decide +kernel,
   by decide +kernel, trivial⟩

def s_PackageBoots : State := (let s0 := bytesFrom 0xFC000000000 (leBytes 2 1 ++ leBytes 6 0 ++ leBytes 8 40000 ++ leBytes 8 0xFC000000000 ++ leBytes 8 0 ++ leBytes 16 ((cap Cap.kEntry 0xFFF 0x10000 0x20000 0x10100)).val.toNat ++ leBytes 16 (mem 0x10000 0).val.toNat) <| bytesFrom 0x1F030000000 (leBytes 8 5 ++ leBytes 8 4) <| bytesFrom (0x1F030001000 + 0x800 * (4 % 16)) (leBytes 2 1 ++ leBytes 6 0 ++ leBytes 8 (40000) ++ leBytes 32 77 ++ leBytes 16 0) (filled (strand .user [])); { s0 with now := .bootRequest, units := { s0.units with booted := true } })
/-- The hypotheses of a clause of `PackageBoots` can be met. -/
theorem witness_PackageBoots :
    ∃ s : State,
    (s.now = .bootRequest) ∧
    (¬Posts s 2) ∧
    True :=
  ⟨s_PackageBoots,
   by decide +kernel,
   by unfold Posts; decide +kernel, trivial⟩

def s_PacketsAreForwarded : State := (let s0 := filled (strand .user []); { s0 with now := .packetForward ({ dst := 1, src := 3, ty := 1, vc := 1, dl := false, dt := 0, mr := false, ls := false, mirrored := false, tenant := 0, txn := 7, tag := false, wrong := [], addr := 0x1000000, op := .read 4, data := [] }), units := { s0.units with sizes := (2, 1, 2, 1), lost := [1] } })
def pk_PacketsAreForwarded : Packet := { dst := 1, src := 3, ty := 1, vc := 1, dl := false, dt := 0, mr := false, ls := false, mirrored := false, tenant := 0, txn := 7, tag := false, wrong := [], addr := 0x1000000, op := .read 4, data := [] }
/-- The hypotheses of a clause of `PacketsAreForwarded` can be met. -/
theorem witness_PacketsAreForwarded :
    ∃ s : State,
    ∃ pk : Packet,
    (s.now = .packetForward pk) ∧
    let src := pk.src.toNat / 16384
    let dropped := src ≠ s.pkg ∧ src ∈ s.units.lost
    let stuck := pk.dst ∈ s.units.lost ∨ s.route pk = none
    (¬dropped) ∧
    (pk.dst ≠ s.pkg) ∧
    (stuck) ∧
    (Packet.isRequest pk) ∧
    (src = s.pkg) ∧
    True :=
  ⟨s_PacketsAreForwarded,
   pk_PacketsAreForwarded,
   by decide +kernel,
   by decide +kernel,
   by decide +kernel,
   by decide +kernel,
   by decide +kernel,
   by decide +kernel, trivial⟩

def s_PacketsComeNearer : State := { State.reset with pkg := 0, units := { PackageState.reset with sizes := (1, 1, 1, 2) } }
def pk_PacketsComeNearer : Packet := { dst := 512, src := 0, ty := 0, vc := 1, dl := false, dt := 0, mr := false, ls := false, mirrored := false, tenant := 0, txn := 7, tag := false, wrong := [], addr := 0x1000000, op := .none, data := [] }
/-- The hypotheses of a clause of `PacketsComeNearer` can be met. -/
theorem witness_PacketsComeNearer :
    ∃ s : State,
    ∃ pk : Packet,
    let z := s.units.sizes
    (z.1 ≤ 4) ∧
    (z.2.1 ≤ 4) ∧
    (z.2.2.1 ≤ 32) ∧
    (z.2.2.2 ≤ 32) ∧
    (InPod z s.pkg) ∧
    (InPod z pk.dst) ∧
    (pk.dst ≠ s.pkg) ∧
    (s.units.lost = []) ∧
    (s.units.ports = []) ∧
    True :=
  ⟨s_PacketsComeNearer,
   pk_PacketsComeNearer,
   by decide +kernel,
   by decide +kernel,
   by decide +kernel,
   by decide +kernel,
   by unfold InPod; decide +kernel,
   by unfold InPod; decide +kernel,
   by decide +kernel,
   by decide +kernel,
   by decide +kernel, trivial⟩

def s_ParityKills : State := (let s0 := with1 { strand .user [] with tid := 5 } (filled (strand .user [])); { s0 with now := .l2TagParityError (131072), units := { s0.units with l2 := [(131072, ⟨0, false⟩)], control := some 0, colours := (List.range 64).map fun c => (c, 4096 + 5) } })
/-- The hypotheses of a clause of `ParityKills` can be met. -/
theorem witness_ParityKills :
    ∃ s : State,
    ∃ line : Nat,
    (s.now = .l2TagParityError line) ∧
    let c := colour (line * 128)
    let e := lookupD 0 s.units.colours c
    let held := c ≠ 0 ∧ e / 4096 = 1
    ∃ b,
    (s.units.control = some b) ∧
    ((s.strand b).live) ∧
    (held) ∧
    ((s.strand b).tid ≠ BitVec.ofNat 12 e) ∧
    (s.units.launches = []) ∧
    (s.units.rings = []) ∧
    (s.units.queues = []) ∧
    ((∀ q ∈ s.quads, q.2.deferred = [])) ∧
    ((∀ n ∈ s.running, (s.strand n).members = 0 ∧ (s.strand n).tasks = [] ∧ (s.strand n).pop = none)) ∧
    True :=
  ⟨s_ParityKills,
   (131072 : Nat),
   by decide +kernel,
   0,
   by decide +kernel,
   by decide +kernel,
   by decide +kernel,
   by decide +kernel,
   by decide +kernel,
   by decide +kernel,
   by decide +kernel,
   by decide +kernel,
   by decide +kernel, trivial⟩

def s_PathFences : State := (let s0 := cached (filled { strand .user [] with dropped := [(cPeer, 5, 1)] }); { s0 with units := { s0.units with requests := [{ txn := 7, sid := 0, use := .put, packet := { dst := 1, src := 0, ty := 0, vc := 1, dl := false, dt := 0, mr := false, ls := false, mirrored := false, tenant := 0, txn := 7, tag := false, wrong := [], addr := 0x1000000, op := .none, data := [] }, sent := 0, probed := none }] } })
/-- The hypotheses of a clause of `PathFences` can be met. -/
theorem witness_PathFences :
    ∃ o : OpN,
    ∃ m : PathMod,
    ∃ s : State,
    let names := fun (path : Nat) => m.pa = 7 ∨ m.pb = 7 ∨ m.pa.toNat = path ∨ m.pb.toNat = path
    let within := fun (c : BitVec 8) (pkg : Nat) => if pkg = s.pkg then 4 ≤ m.scope.toNat
      else 5 ≤ m.scope.toNat ∧ (c = cPeer → (pkg, s.jobOf s.cur) ∈ s.units.lostJobs)
    let outstanding := (names 5 ∧ s.putsOutstanding s.cur) ∨ (names 2 ∧ s.copiesOutstanding s.cur) ∨
      (names 3 ∧ (.ixMergeStep s.cur ∈ s.agenda ∨
        ∃ r ∈ s.units.requests, r.sid = s.cur ∧ (r.use = .index false ∨ r.use = .index true)))
    (Together s) ∧
    ((∀ d ∈ s.self.dropped, ¬within d.1 d.2.2) ∨ ¬names 5) ∧
    (¬outstanding) ∧
    True :=
  ⟨(⟨0⟩ : OpN),
   (⟨5, 1, 1⟩ : PathMod),
   s_PathFences,
   by unfold Together; decide +kernel,
   by decide +kernel,
   by decide +kernel, trivial⟩

def s_PeersAreProbed : State := (let s0 := filled (strand .user []); { s0 with now := .probeTimeout 2, units := { s0.units with lost := [], probes := [(2, 3)], colonies := [(1, some { colony with job := 0 })] } })
/-- The hypotheses of a clause of `PeersAreProbed` can be met. -/
theorem witness_PeersAreProbed :
    ∃ s : State,
    ∃ pkg : Nat,
    ∃ i : Instr,
    ((i = .probeTimeout ∧ s.now = .probeTimeout pkg ∧ ∃ p ∈ s.units.probes, p.1 = pkg) ∨
       (i = .peerDownNotice ∧ s.now = .peerDownNotice pkg)) ∧
    (pkg ∉ s.units.lost) ∧
    (pkg ≠ s.pkg) ∧
    (pkg ≠ s.pkg ^^^ 1) ∧
    (s.units.requests = []) ∧
    (s.units.reductions = []) ∧
    (s.units.remoteTerms = []) ∧
    (s.dies = []) ∧
    True :=
  ⟨s_PeersAreProbed,
   (2 : Nat),
   (.probeTimeout : Instr),
   by decide +kernel,
   by decide +kernel,
   by decide +kernel,
   by decide +kernel,
   by decide +kernel,
   by decide +kernel,
   by decide +kernel,
   by decide +kernel, trivial⟩

def s_PopAnswers : State := { run { strand .user [(2, obj Cap.kWorklist (0 * 2 ^ 30 + 1 * 2 ^ 22 + 3 * 2 ^ 10)), (1, num 0), (9, num 4)] with tasks := [{ pkg := 0, home := 0, slot := 1, gen := 3, holder := 0, sid := 0 },{ pkg := 0, home := 0, slot := 1, gen := 3, holder := 0, sid := 0 },{ pkg := 0, home := 0, slot := 1, gen := 3, holder := 0, sid := 0 },{ pkg := 0, home := 0, slot := 1, gen := 3, holder := 0, sid := 0 }] } with dies := [(0, { DieState.empty with slots := [(0, { HomeSlot.free 2 with used := true }), (1, { HomeSlot.free 3 with used := true })], items := [] })] }
/-- The hypotheses of a clause of `PopAnswers` can be met. -/
theorem witness_PopAnswers :
    ∃ o : OpRR,
    ∃ s : State,
    ∃ die : Nat,
    ∃ i : Nat,
    ∃ gen : Nat,
    (Issues s [o.a, o.b]) ∧
    (Ready s [⟨0, o.a.toNat + 1, false, true⟩]) ∧
    (o.a ≠ 63) ∧
    let t := s.self
    (4 ≤ t.tasks.length) ∧
    True :=
  ⟨(⟨0, 1, 2⟩ : OpRR),
   s_PopAnswers,
   (0 : Nat),
   (1 : Nat),
   (3 : Nat),
   by unfold Issues Ready Together; decide +kernel,
   by unfold Ready Together; decide +kernel,
   by decide +kernel,
   by decide +kernel, trivial⟩

def s_PortsFail : State := (let s0 := filled (strand .user []); { s0 with now := .laneFailure 13, units := { s0.units with ports := [(13, { Port.up with down := false, narrow := false, rx := 7, lastWhole := 5, pieces := [], retry := [], acks := [(true, 3)] })] } })
/-- The hypotheses of a clause of `PortsFail` can be met. -/
theorem witness_PortsFail :
    ∃ s : State,
    ∃ i : Nat,
    (s.now = .laneFailure i) ∧
    let v := s.port i
    (v.down = false) ∧
    (v.narrow = false) ∧
    True :=
  ⟨s_PortsFail,
   (13 : Nat),
   by decide +kernel,
   by decide +kernel,
   by decide +kernel, trivial⟩

def s_PushPlacesItem : State := { run { strand .user [(1, obj Cap.kWorklist (0 * 2 ^ 30 + 1 * 2 ^ 22 + 3 * 2 ^ 10)), (2, num 0x300000007), (3, num 5)] with frm := 0 } with dies := [(0, { DieState.empty with slots := [(0, { HomeSlot.free 2 with used := true }), (1, { HomeSlot.free 3 with used := true, scope := 4 })], items := [] })] }
/-- The hypotheses of a clause of `PushPlacesItem` can be met. -/
theorem witness_PushPlacesItem :
    ∃ o : OpRRR,
    ∃ s : State,
    ∃ die : Nat,
    ∃ i : Nat,
    ∃ gen : Nat,
    (Issues s [o.a, o.b, o.c]) ∧
    let c := w s o.a
    let v := w s o.c
    (NamesInstance s c die i gen) ∧
    ((s.slot die i).broken = false) ∧
    (CanPush s die i v) ∧
    True :=
  ⟨(⟨0, 1, 2, 3, 2⟩ : OpRRR),
   s_PushPlacesItem,
   (0 : Nat),
   (1 : Nat),
   (3 : Nat),
   by unfold Issues Ready Together; decide +kernel,
   by unfold NamesInstance; decide +kernel,
   by decide +kernel,
   by unfold CanPush; decide +kernel, trivial⟩

def s_PutsAndGetsCopy : State := (id (filled (strand .user [(1, mem 0x10000 8), (2, mem 0xB0000 0), (3, num 0)])))
/-- The hypotheses of a clause of `PutsAndGetsCopy` can be met. -/
theorem witness_PutsAndGetsCopy :
    ∃ o : OpRRR,
    ∃ m : MemMod,
    ∃ s : State,
    ∃ put : Bool,
    (Issues s [o.a, o.b, o.c]) ∧
    let n := (x s o.c).toNat
    let moved := fun (r : Reg) => (⟨Cap.offset r.val o.imm.toInt, r.tag⟩ : Reg)
    let d := if put then moved (w s o.a) else w s o.a
    let c := if put then w s o.b else moved (w s o.b)
    (n = 0) ∧
    (Cap.kind d.val ≠ Cap.kMulticast) ∧
    (checkFault s d Cap.st [Cap.kMemory] 0 = none) ∧
    (checkFault s c Cap.ld [Cap.kMemory] 0 = none) ∧
    True :=
  ⟨(⟨0, 1, 2, 3, 16⟩ : OpRRR),
   (⟨false, 3, 1, false, 0⟩ : MemMod),
   s_PutsAndGetsCopy,
   (true : Bool),
   by unfold Issues Ready Together; decide +kernel,
   by decide +kernel,
   by decide +kernel,
   by decide +kernel,
   by decide +kernel, trivial⟩

def s_RecvTakesOldest : State := (run (strand .user []))
/-- The hypotheses of a clause of `RecvTakesOldest` can be met. -/
theorem witness_RecvTakesOldest :
    ∃ o : OpRR,
    ∃ s : State,
    (Issues s [o.a, o.b]) ∧
    (Ready s [⟨0, o.a.toNat + 1, false, true⟩, ⟨0, o.a.toNat + 2, false, true⟩]) ∧
    (o.a.toNat + 2 < 64) ∧
    (s.self.inbox = []) ∧
    (areaShape s.self.rqovf = none) ∧
    True :=
  ⟨(⟨0, 1, 9⟩ : OpRR),
   s_RecvTakesOldest,
   by unfold Issues Ready Together; decide +kernel,
   by unfold Ready Together; decide +kernel,
   by decide +kernel,
   by decide +kernel,
   by decide +kernel, trivial⟩

def s_Reductions : State := cached (filled { strand .user [(1, obj Cap.kGroup (4 * 2 ^ 45 + 3 * 2 ^ 41 + 1 * 2 ^ 40 + 0))] with redOpen := storeAt 0 (groupBit 4 3) 0 [], redStatus := [(groupBit 4 3, 0x8000000100000000), (groupBit 5 3, 0x8000000100000001)] })
/-- The hypotheses of a clause of `Reductions` can be met. -/
theorem witness_Reductions :
    ∃ o : OpRR,
    ∃ s : State,
    ∃ scope : Nat,
    ∃ g : Nat,
    (Issues s [o.a, o.b]) ∧
    (NamesReduction s (w s o.b) scope g) ∧
    (lookupD 0 s.self.redOpen (groupBit scope g) = 0) ∧
    True :=
  ⟨(⟨0, 9, 1⟩ : OpRR),
   s_Reductions,
   (4 : Nat),
   (3 : Nat),
   by unfold Issues Ready Together; decide +kernel,
   by unfold NamesReduction; decide +kernel,
   by decide +kernel, trivial⟩

def s_RegionsCommit : State := id (filled { strand .user [] with region := { state := .opened, result := 9, line := 0x10000, pa := 0x1000000, tenant := 0, mirrored := false, known := true, comps := (List.range 0).map fun i => .store (0x1000000 + i) [1] } })
/-- The hypotheses of a clause of `RegionsCommit` can be met. -/
theorem witness_RegionsCommit :
    ∃ o : OpN,
    ∃ m : MemMod,
    ∃ s : State,
    (Together s) ∧
    let r := s.self.region
    (r.state = .opened) ∧
    (r.mirrored = false) ∧
    (r.comps = []) ∧
    True :=
  ⟨(⟨0⟩ : OpN),
   (⟨false, 0, 1, true, 2⟩ : MemMod),
   s_RegionsCommit,
   by unfold Together; decide +kernel,
   by decide +kernel,
   by decide +kernel,
   by decide +kernel, trivial⟩

def s_RegionsRecord : State := (filled { strand .user [(1, num 0x1122334455667788), (2, mem 0x10000 0)] with region := { state := .none, result := 9, line := 0x10000, pa := 0x1000000, tenant := 0, mirrored := false, known := true, comps := (List.range 0).map fun i => .store (0x1000000 + i) [1] } })
/-- The hypotheses of a clause of `RegionsRecord` can be met. -/
theorem witness_RegionsRecord :
    ∃ o : OpRX,
    ∃ m : MemMod,
    ∃ s : State,
    (Issues s [o.a, o.b]) ∧
    let c := at2 s o
    let va := Cap.cursor c.val
    ∃ p,
    ∃ e,
    (s.self.region.state ≠ .opened) ∧
    (checkFault s c Cap.atm [Cap.kMemory] 1 = none) ∧
    (Maps s (Cap.tenant c.val) va Cap.atm p e) ∧
    let barred := match place (localOf p) with
      | .slice .. => true
      | .window .. => true
      | .port _ => true
      | .aliasWindow _ => true
      | _ => false
    (barred = false) ∧
    True :=
  ⟨(⟨0, 1, 2, 8⟩ : OpRX),
   (⟨false, 0, 1, true, 2⟩ : MemMod),
   s_RegionsRecord,
   by unfold Issues Ready Together; decide +kernel,
   (paOf s_RegionsRecord (Cap.tenant (at2 s_RegionsRecord (⟨0, 1, 2, 8⟩ : OpRX)).val) (Cap.cursor (at2 s_RegionsRecord (⟨0, 1, 2, 8⟩ : OpRX)).val)),
   (pteOf s_RegionsRecord (Cap.tenant (at2 s_RegionsRecord (⟨0, 1, 2, 8⟩ : OpRX)).val) (Cap.cursor (at2 s_RegionsRecord (⟨0, 1, 2, 8⟩ : OpRX)).val)),
   by decide +kernel,
   by decide +kernel,
   maps_of (by decide +kernel),
   by decide +kernel, trivial⟩

def s_RegisterTargets : State := (run (strand .user [(1, code 5)]))
/-- The hypotheses of a clause of `RegisterTargets` can be met. -/
theorem witness_RegisterTargets :
    ∃ o : OpR,
    ∃ s : State,
    (Issues s [o.a]) ∧
    let r := w s o.a
    let a := Cap.cursor r.val
    let foreign := s.self.mode ≠ .hypervisor ∧ Cap.tenant r.val ≠ s.self.tid
    let code := (Cap.kind r.val = Cap.kMemory ∨ Cap.kind r.val = Cap.kEntry) ∧ Cap.has r.val Cap.x
    (r.tag) ∧
    (¬foreign) ∧
    (code) ∧
    (a % 2 = 1) ∧
    True :=
  ⟨(⟨0, 1⟩ : OpR),
   s_RegisterTargets,
   by unfold Issues Ready Together; decide +kernel,
   by decide +kernel,
   by decide +kernel,
   by decide +kernel,
   by decide +kernel, trivial⟩

def s_RequestsAreHeld : State := (let s0 := filled (strand .user []); { s0 with now := .combineHold 1 6 ({ addr := 16 * 2 ^ 34 + 0x80, k := 8, tenant := 0, out := 0, total := 5, win := 0, leaves := 1, src := 3, txn := 7, recs := [] } : CombReq), units := { s0.units with routers := [(1, { held := [(let q := ({ addr := 16 * 2 ^ 34 + 0x80, k := 8, tenant := 0, out := 0, total := 9, win := 50, leaves := 3, src := 3, txn := 7, recs := [] } : CombReq); ({ req := { q with out := 24 + ((localOf (16 * 2 ^ 34 + 0x80) / 2 ^ 7 % 8) ^^^ (localOf (16 * 2 ^ 34 + 0x80) / 2 ^ 33 % 8)) % 2 }, port := 4, until_ := 50, group := some 3 } : HeldReq))], comb := [] })] }, time := 44 })
/-- The hypotheses of a clause of `RequestsAreHeld` can be met. -/
theorem witness_RequestsAreHeld :
    ∃ s : State,
    ∃ e : Nat,
    ∃ port : Nat,
    ∃ r : CombReq,
    (e < 4) ∧
    (pkgOf r.addr = s.pkg) ∧
    (s.now = .combineHold e port r) ∧
    let te := eDie (localOf r.addr)
    (r.win = 0) ∧
    (te = e) ∧
    True :=
  ⟨s_RequestsAreHeld,
   (1 : Nat),
   (6 : Nat),
   (({ addr := 16 * 2 ^ 34 + 0x80, k := 8, tenant := 0, out := 0, total := 5, win := 0, leaves := 1, src := 3, txn := 7, recs := [] } : CombReq) : CombReq),
   by decide +kernel,
   by decide +kernel,
   by decide +kernel,
   by decide +kernel,
   by decide +kernel, trivial⟩

def s_RequestsAreServed : State := (let s0 := cached (filled (strand .user [])); { s0 with now := .remoteRequest ({ dst := 0, src := 49153, ty := 3, vc := 1, dl := false, dt := 0, mr := false, ls := false, mirrored := true, tenant := 0, txn := 7, tag := false, wrong := [], addr := 0x1000010, op := (.message { src := 49153, kind := 7, payload := [num 5, mem 0x10000 0] } 5), data := [1, 2, 3, 4] }), units := { s0.units with colonies := [(1, some { colony with chan := 1 })] } })
def pk_RequestsAreServed : Packet := (match s_RequestsAreServed.now with | .remoteRequest pk => pk | _ => { dst := 1, src := 0, ty := 0, vc := 1, dl := false, dt := 0, mr := false, ls := false, mirrored := false, tenant := 0, txn := 7, tag := false, wrong := [], addr := 0x1000000, op := .none, data := [] })
/-- The hypotheses of a clause of `RequestsAreServed` can be met. -/
theorem witness_RequestsAreServed :
    ∃ s : State,
    ∃ pk : Packet,
    (s.now = .remoteRequest pk) ∧
    ∃ m,
    ∃ target,
    (pk.op = .message m target) ∧
    True :=
  ⟨s_RequestsAreServed,
   pk_RequestsAreServed,
   by decide +kernel,
   ({ src := 49153, kind := 7, payload := [num 5, mem 0x10000 0] }),
   5,
   by decide +kernel, trivial⟩

def s_RetRestoresCaller : State := (run { strand .user [(1, num 3), (9, num 4)] with win := { Strand.idle.win with frame := 32, depth := 1, base := 250, origin := 250, overlap := 8, links := [⟨code 0x40, 24, 8, 240, 4, true⟩] } })
/-- The hypotheses of a clause of `RetRestoresCaller` can be met. -/
theorem witness_RetRestoresCaller :
    ∃ o : OpN,
    ∃ s : State,
    (Together s) ∧
    ∃ l,
    ∃ ls,
    (s.self.win.depth ≠ 0) ∧
    (s.self.win.links = l :: ls) ∧
    (l.pcc.tag) ∧
    (installFault s.self.mode s.self.tid l.pcc = none) ∧
    True :=
  ⟨(⟨0⟩ : OpN),
   s_RetRestoresCaller,
   by unfold Together; decide +kernel,
   (⟨code 0x40, 24, 8, 240, 4, true⟩),
   ([]),
   by decide +kernel,
   by decide +kernel,
   by decide +kernel,
   by decide +kernel, trivial⟩

def s_RowsAreWritten : State := { ((let t := strand .user []; { filled { t with mtx := { t.mtx with descs := [(0, 0)], tiles := (List.range 4).flatMap (fun k => (List.range 300).map fun i => (k * 8192 + i, BitVec.ofNat 8 ((i * 73 + k * 11) % 254 + 1))), accs := (List.range 200).map fun i => (i, BitVec.ofNat 32 (i * 0x3010203 + 1)) , marks := [(1, 0x45)] } } with quads := [(0, { QuadState.empty with ops := [{ id := 3, sid := 0, acc := 1, fmtL := 0, scaleL := 127, leftTile := none, rightSid := 0, rightTile := 1, descR := 34079173, right := tileStorage ((List.range 300).map fun i => (8192 * 1 + i, BitVec.ofNat 8 ((i * 73 + 9) % 254 + 1))) 1, ternary := false, block := 1, rows := [⟨3, [(3, 0), (250, 2), (77, 1)]⟩, ⟨4, [(3, 0), (250, 2), (77, 1)]⟩], written := 0, gang := none, followOn := none }] })], badTiles := [] })) with now := .matrixRowWrite 0 3 }
def o_RowsAreWritten : MatOp := { id := 3, sid := 0, acc := 1, fmtL := 0, scaleL := 127, leftTile := none, rightSid := 0, rightTile := 1, descR := 34079173, right := tileStorage ((List.range 300).map fun i => (8192 * 1 + i, BitVec.ofNat 8 ((i * 73 + 9) % 254 + 1))) 1, ternary := false, block := 1, rows := [⟨3, [(3, 0), (250, 2), (77, 1)]⟩, ⟨4, [(3, 0), (250, 2), (77, 1)]⟩], written := 0, gang := none, followOn := none }
/-- The hypotheses of a clause of `RowsAreWritten` can be met. -/
theorem witness_RowsAreWritten :
    ∃ s : State,
    ∃ q : Nat,
    ∃ id : Nat,
    ∃ o : MatOp,
    ∃ r : RowPlan,
    ∃ p : Pairing,
    (s.now = .matrixRowWrite q id) ∧
    ((s.quad q).ops.find? (fun v => v.id = id) = some o) ∧
    (o.block = 1) ∧
    (o.gang = none) ∧
    ((o.rows.drop o.written).head? = some r) ∧
    (pairing o.ternary o.fmtL (descFmt o.descR) = some p) ∧
    (s.badTiles = []) ∧
    (s.badRows = []) ∧
    True :=
  ⟨s_RowsAreWritten,
   (0 : Nat),
   (3 : Nat),
   o_RowsAreWritten,
   (⟨3, [(3, 0), (250, 2), (77, 1)]⟩ : RowPlan),
   ((pairing false 0 (descFmt 34079173)).getD ⟨.int,0,0⟩ : Pairing),
   by decide +kernel,
   by decide +kernel,
   by decide +kernel,
   by decide +kernel,
   by decide +kernel,
   by decide +kernel,
   by decide +kernel,
   by decide +kernel, trivial⟩

def s_SaveImages : State := (run (strand .user [(1, (cap Cap.kMemory 0xFFF 0x40000 0x70000 0x40000)), (2, code 4), (3, num 77), (40, num 3)]))
/-- The hypotheses of a clause of `SaveImages` can be met. -/
theorem witness_SaveImages :
    ∃ o : OpR,
    ∃ s : State,
    ∃ a : Nat,
    (Issues s [o.a]) ∧
    let t := s.self
    (t.mode = .user) ∧
    True :=
  ⟨(⟨0, 1⟩ : OpR),
   s_SaveImages,
   (0x10008010000 : Nat),
   by unfold Issues Ready Together; decide +kernel,
   by decide +kernel, trivial⟩

def s_SavesAreForced : State := (let s0 := with1 { strand .user [] with asleep := true } (filled { strand .user [] with asleep := true, ir := (encode (.wfi ⟨0⟩)).getD [] }); { s0 with now := .forcedSave 1, time := 99, units := { s0.units with colonies := [(1, some { colony with state := .yielding, yield := some { deadline := 5, slot := 2, hold := false, stopped := [], forced := false } })] } })
/-- The hypotheses of a clause of `SavesAreForced` can be met. -/
theorem witness_SavesAreForced :
    ∃ s : State,
    ∃ id : Nat,
    (s.now = .forcedSave id) ∧
    ∃ c,
    ∃ y,
    (s.colony id = some c) ∧
    (c.state = .yielding) ∧
    (c.yield = some y) ∧
    (y.forced = false) ∧
    ((∀ n ∈ s.colonyStrands id, (s.strand n).pop = none)) ∧
    True :=
  ⟨s_SavesAreForced,
   (1 : Nat),
   by decide +kernel,
   ((s_SavesAreForced.colony (1 : Nat)).getD Colony.first),
   (((s_SavesAreForced.colony (1 : Nat)).getD Colony.first).yield.getD { deadline := 0, slot := 0, hold := false, stopped := [], forced := true }),
   by decide +kernel,
   by decide +kernel,
   by decide +kernel,
   by decide +kernel,
   by decide +kernel, trivial⟩

def s_ScoutLaunches : State := (let s0 := filled { strand .user [] with vec := { (strand .user []).vec with lanes := List.range 0 } }; { s0 with now := .deferredStart 0, quads := [(0, { QuadState.empty with deferred := [] })], units := { s0.units with colonies := [(1, some { colony with state := .loaded })] } })
/-- The hypotheses of a clause of `ScoutLaunches` can be met. -/
theorem witness_ScoutLaunches :
    ∃ s : State,
    ∃ q : Nat,
    (s.now = .deferredStart q) ∧
    ((s.quad q).deferred = []) ∧
    True :=
  ⟨s_ScoutLaunches,
   (0 : Nat),
   by decide +kernel,
   by decide +kernel, trivial⟩

def s_ScoutStopsAndPushes : State := (let s0 := bytesFrom 0x1000000 (leBytes 8 2 ++ leBytes 8 1 ++ leBytes 4 4) <| bytesFrom (0x1000040 + 64 * 1) (leBytes 2 2 ++ leBytes 2 1024 ++ leBytes 4 0 ++ leBytes 8 (0) ++ leBytes 16 (Reg.zero).val.toNat ++ leBytes 16 (Reg.zero).val.toNat ++ leBytes 16 (num 0).val.toNat) <| bytesFrom (0x1000040 + 64 * 4 + 1) [0] (filled (strand .user [])); { s0 with now := .scoutStop 3, tlb := tlbFor 8 ++ s0.tlb.filter (fun _ => false), units := { s0.units with colonies := [(1024, some { colony with state := .loaded })], rings := [(3, some { colony := 1024, weight := 1, cap := cap Cap.kMemory 0xFFF 0x10000 0x20000 0x10000, authority := (⟨Cap.make Cap.kMemory 0 0xFFF 65535 0 31 0, true⟩ : Reg), rp := 1, drain := 1 })] }, dies := [(2, { DieState.empty with slots := [(5, { HomeSlot.free 3 with used := true, colony := 1024 })] })] })
def r_ScoutStopsAndPushes : Ring := { colony := 1024, weight := 1, cap := cap Cap.kMemory 0xFFF 0x10000 0x20000 0x10000, authority := (⟨Cap.make Cap.kMemory 0 0xFFF 65535 0 31 0, true⟩ : Reg), rp := 1, drain := 1 }
/-- The hypotheses of a clause of `ScoutStopsAndPushes` can be met. -/
theorem witness_ScoutStopsAndPushes :
    ∃ s : State,
    ∃ ring : Nat,
    ∃ r : Ring,
    ∃ c : Colony,
    ∃ a : Nat,
    ∃ n : Nat,
    (s.now = .scoutStop ring) ∧
    (HasRecord s ring r c a n) ∧
    (s.units.launches = []) ∧
    let f := recordField s r a n
    let cap := recordCap s r a n
    let zero := f 4 12 = 0 ∧ cap 0 = Reg.zero ∧ cap 1 = Reg.zero
    (f 0 2 = 2) ∧
    ((∀ e ∈ s.units.rings, e.1 = ring ∨ ∀ k, e.2 = some k → k.colony ≠ r.colony)) ∧
    (zero) ∧
    (f 2 2 = r.colony) ∧
    (r.colony ≠ 0) ∧
    (Minted s r a n) ∧
    ((cap 2).tag = false) ∧
    ((∀ e ∈ s.quads, covers r.colony e.1 → e.2.deferred = [])) ∧
    ((∀ b ∈ s.colonyStrands r.colony, (s.strand b).members = 0 ∧ (s.strand b).tasks = [] ∧ (s.strand b).pop = none ∧
       (s.strand b).asked = [] ∧ (s.strand b).gangIssued = false)) ∧
    True :=
  ⟨s_ScoutStopsAndPushes,
   (3 : Nat),
   r_ScoutStopsAndPushes,
   ((s_ScoutStopsAndPushes.colony r_ScoutStopsAndPushes.colony).getD Colony.first : Colony),
   (0x1000000 : Nat),
   (4 : Nat),
   by decide +kernel,
   hasRecord_of (by decide +kernel) ⟨by decide +kernel, by decide +kernel, by decide +kernel, by decide +kernel, by decide +kernel, by decide +kernel, by decide +kernel, by decide +kernel, noPartials_of (by decide +kernel), reaches_of (by decide +kernel) (by decide +kernel) (by decide +kernel), reaches_of (by decide +kernel) (by decide +kernel) (by decide +kernel), by decide +kernel⟩ (by decide +kernel) (by decide +kernel) (by decide +kernel),
   by decide +kernel,
   by decide +kernel,
   by decide +kernel,
   by decide +kernel,
   by decide +kernel,
   by decide +kernel,
   by unfold Minted; decide +kernel,
   by decide +kernel,
   by decide +kernel,
   by decide +kernel, trivial⟩

def s_SelCopiesRegister : State := run (strand .user [(1, num 0), (2, code 0), (3, mem 0x20000 8)])
/-- The hypotheses of a clause of `SelCopiesRegister` can be met. -/
theorem witness_SelCopiesRegister :
    ∃ o : OpRRR,
    ∃ s : State,
    (Issues s [o.a, o.b, o.c]) ∧
    True :=
  ⟨(⟨0, 1, 2, 3, 0⟩ : OpRRR),
   s_SelCopiesRegister,
   by unfold Issues Ready Together; decide +kernel, trivial⟩

def s_SendDelivers : State := with1 { strand .user [] with inbox := [], live := true } (run { strand .user [(1, obj Cap.kStrand 1), (2, code 0), (3, num 6), (4, code 4), (5, num 0x12345)] with sndto := 5 })
/-- The hypotheses of a clause of `SendDelivers` can be met. -/
theorem witness_SendDelivers :
    ∃ o : OpRRR,
    ∃ s : State,
    let n := o.imm.toNat + 1
    (n ≤ 3) ∧
    (o.b.toNat + n ≤ 64) ∧
    (Issues s [o.a, o.c]) ∧
    (Ready s ((List.range n).map fun i => ⟨0, o.b.toNat + i, true, false⟩)) ∧
    let c := w s o.a
    let ps := (List.range n).map fun i => w s (o.b + BitVec.ofNat 6 i)
    let sid := Cap.cursor c.val % 16384
    let local_ := ∃ r ∈ ps, r.tag = true ∧ Cap.has r.val Cap.gl = false
    let old := released s 2 (commonScope s.cur sid)
    (checkFault s c Cap.st [Cap.kStrand] 1 = none) ∧
    (¬local_) ∧
    (Cap.cursor c.val % 2 ^ 28 / 16384 = s.pkg) ∧
    (s.self.refusedAt = none) ∧
    (s.self.asked = []) ∧
    (s.self.reoffer = false) ∧
    (s.putsOutstanding s.cur = false) ∧
    ((old.strand sid).live) ∧
    (areaShape (old.strand sid).rqovf = none) ∧
    ((old.strand sid).inbox.length < 64) ∧
    True :=
  ⟨(⟨0, 1, 2, 5, 2⟩ : OpRRR),
   s_SendDelivers,
   by decide +kernel,
   by decide +kernel,
   by unfold Issues Ready Together; decide +kernel,
   by unfold Ready Together; decide +kernel,
   by decide +kernel,
   by decide +kernel,
   by decide +kernel,
   by decide +kernel,
   by decide +kernel,
   by decide +kernel,
   by decide +kernel,
   by decide +kernel,
   by decide +kernel,
   by decide +kernel, trivial⟩

def s_SlicesEnd : State := (let s0 := filled { strand .user [] with live := false }; { s0 with now := .sliceEnd 512 7, time := 7000, units := { s0.units with colonies := [(512, some { Colony.first with state := .saved, tenant := 0, chan := 0xFF, job := 0, save := Reg.zero, rings := 7, cslots := 8, wlq := 9, alloc := [(2, 101), (3, 7)], vf := 3, hostMember := true, spill := mem 0x10000 0 })], slice := some (7, 7000, false), slots := [(2, 512 * 2 ^ 53 + 9 * 2 ^ 24 + 3), (7, 512 * 2 ^ 53 + 9 * 2 ^ 24 + 4), (64, 0)], shadow := [(3, 5 * 2 ^ 53 + 3), (64, 2 ^ 63)] } })
/-- The hypotheses of a clause of `SlicesEnd` can be met. -/
theorem witness_SlicesEnd :
    ∃ s : State,
    ∃ id : Nat,
    ∃ slot : Nat,
    (s.now = .sliceEnd id slot) ∧
    ∃ i,
    ∃ end_,
    ∃ loaded,
    (s.units.slice = some (i, end_, loaded)) ∧
    let owner := (lookupD 0 s.units.slots i).toNat / 2 ^ 53
    (slot = i) ∧
    ((∀ c, s.colony owner = some c → c.state ≠ .loaded)) ∧
    True :=
  ⟨s_SlicesEnd,
   (512 : Nat),
   (7 : Nat),
   by decide +kernel,
   (((s_SlicesEnd.units.slice).getD (0, 0, false)).1),
   (((s_SlicesEnd.units.slice).getD (0, 0, false)).2.1),
   (((s_SlicesEnd.units.slice).getD (0, 0, false)).2.2),
   by decide +kernel,
   by decide +kernel,
   by decide +kernel, trivial⟩

def s_SparseProductsIssue : State := (let s0 := (bytesFrom 0x10008000100 (leBytes 4 0 ++ leBytes 4 2 ++ leBytes 4 3) (bytesFrom 0x10008000200 (leBytes 4 1 ++ leBytes 4 3 ++ leBytes 4 2) (bytesFrom 0x10008000300 (pattern 16) ((let t := strand .user [(10, mem 0x20000 0x100), (11, mem 0x20000 0x200), (12, mem 0x20000 0x300), (13, num 520706)]; { filled { t with mtx := { t.mtx with descs := [(0, 33325508)], tiles := (List.range 4).flatMap (fun k => (List.range 300).map fun i => (k * 8192 + i, BitVec.ofNat 8 ((i * 73 + k * 11) % 254 + 1))), accs := (List.range 200).map fun i => (i, BitVec.ofNat 32 (i * 0x3010203 + 1))  } } with quads := [(0, { QuadState.empty with nextOp := 0 })], badTiles := [] }))))); { s0 with units := { s0.units with requests := [{ txn := 7, sid := 0, use := .put, packet := { requestPacket s0 (2 ^ 41 + 16) 0 0 0 .write [1] false with txn := 7 }, sent := 0, probed := none }] } })
def raw_SparseProductsIssue : Nat → Nat := fun v => leNat (s_SparseProductsIssue.bytesAt (0x10008000300 + v * tileBits (fieldAt (x s_SparseProductsIssue 13) 7 5) / 8) (max 1 (tileBits (fieldAt (x s_SparseProductsIssue 13) 7 5) / 8)))
/-- The hypotheses of a clause of `SparseProductsIssue` can be met. -/
theorem witness_SparseProductsIssue :
    ∃ o : OpRRR,
    ∃ s : State,
    ∃ ptr : Nat → Nat,
    ∃ idx : Nat → Nat,
    ∃ raw : Nat → Nat,
    ∃ blocks : Bool,
    let acc := o.a.toNat
    let dR := s.self.desc o.b.toNat
    let row0 := o.imm.toNat % 64
    let reg := fun (j : Nat) => o.c + BitVec.ofNat 6 j
    let word := x s (reg 3)
    let m := fieldAt word 0 7
    let fmt := fieldAt word 7 5
    let b := if bitAt word 20 then 8 else 4
    let w := tileBits fmt
    let bad := m = 0 ∨ (if blocks then 4 else 64) < m ∨ fieldAt word 21 11 ≠ 0 ∨ 8 < fmt ∨ pairing false fmt (descFmt dR) = none ∨
      (descFmt dR = 0 ∧ 32 < descRows dR) ∨ 64 < row0 + m * (if blocks then 16 else 1) ∨ (blocks = true ∧ descCols dR % 16 ≠ 0)
    let rights := fun (c : Reg) => c.tag = true ∧ (s.self.mode = .hypervisor ∨ Cap.tenant c.val = s.self.tid) ∧
      Cap.kind c.val = Cap.kMemory ∧ Cap.has c.val Cap.ld = true
    (Ready s [⟨4, acc, false, true⟩, ⟨3, o.b.toNat, true, false⟩, wSrc (reg 0), wSrc (reg 1), wSrc (reg 2), wSrc (reg 3)]) ∧
    ((∀ j < 3, rights (Claims.w s (reg j)))) ∧
    (¬bad) ∧
    (s.putsOutstanding s.cur = true) ∧
    True :=
  ⟨(⟨0, 1, 0, 10, 2⟩ : OpRRR),
   s_SparseProductsIssue,
   (fun r => leNat (s_SparseProductsIssue.bytesAt (0x10008000100 + 4 * r) 4) : Nat → Nat),
   (fun r => leNat (s_SparseProductsIssue.bytesAt (0x10008000200 + 4 * r) 4) : Nat → Nat),
   raw_SparseProductsIssue,
   (false : Bool),
   by unfold Ready Together; decide +kernel,
   by decide +kernel,
   by decide +kernel,
   by decide +kernel, trivial⟩

def s_SretHretReturn : State := (run { strand .supervisor [] with status := 0x0D, strap := { TrapRegs.zero with tvec := entry 0x200, epc := code 8 } , region := { Region.none with state := .opened } })
/-- The hypotheses of a clause of `SretHretReturn` can be met. -/
theorem witness_SretHretReturn :
    ∃ o : OpN,
    ∃ s : State,
    (Together s) ∧
    let t := s.self
    let fault := installFault t.mode t.tid
    let spm := fieldAt t.status 3 2
    (t.mode ≠ .user) ∧
    (spm ≤ t.mode.num) ∧
    (t.strap.epc.tag) ∧
    (fault t.strap.epc = none) ∧
    True :=
  ⟨(⟨0⟩ : OpN),
   s_SretHretReturn,
   by unfold Together; decide +kernel,
   by decide +kernel,
   by decide +kernel,
   by decide +kernel,
   by decide +kernel, trivial⟩

def s_StepRunsDecoded : State := { filled (strand .user []) with turns := [], agenda := [.ppsEdge], evictPlan := [] }
/-- The hypotheses of a clause of `StepRunsDecoded` can be met. -/
theorem witness_StepRunsDecoded :
    ∃ s : State,
    ∃ turns : List Bool,
    ∃ e : Event,
    ∃ i : Instr,
    (s.evictPlan = []) ∧
    (s.turns = false :: turns ∨ s.turns = [] ∧ turns = []) ∧
    (nextEvent s.agenda = some e) ∧
    (e.row = some i) ∧
    True :=
  ⟨s_StepRunsDecoded,
   (s_StepRunsDecoded.turns.tail : List Bool),
   ((nextEvent s_StepRunsDecoded.agenda).getD .reset : Event),
   (((nextEvent s_StepRunsDecoded.agenda).getD .reset : Event).row.getD (.wfi ⟨0⟩) : Instr),
   by decide +kernel,
   by decide +kernel,
   by decide +kernel,
   by decide +kernel, trivial⟩

def s_StoreWrites : State := (filled (strand .user [(1, num 0x123456789ABCDEF0), (2, mem 0x20000 0)]))
/-- The hypotheses of a clause of `StoreWrites` can be met. -/
theorem witness_StoreWrites :
    ∃ o : OpRX,
    ∃ m : MemMod,
    ∃ s : State,
    ∃ a : Nat,
    ∃ e : Word,
    (Issues s [o.a, o.b]) ∧
    (m.width.toNat ≤ 3) ∧
    let r := w s o.a
    let perms := if r.tag then Cap.st ||| Cap.sc else Cap.st
    let narrow := r.tag = true ∧ Cap.has r.val Cap.gl = false
    let old := released s m.ord.toNat m.scope.toNat
    (Opens s (at2 s o) perms 16 a e) ∧
    (DirectOwn s a) ∧
    (¬narrow ∨ s.ownPlace (s.globalOf a)) ∧
    (NoPartials old) ∧
    (old.badAt a = 0) ∧
    True :=
  ⟨(⟨0, 1, 2, 16⟩ : OpRX),
   (⟨false, 0, 1, true, 2⟩ : MemMod),
   s_StoreWrites,
   (0x10008000010 : Nat),
   (0x1000800013F : Word),
   by unfold Issues Ready Together; decide +kernel,
   by decide +kernel,
   opens_of (by decide +kernel),
   directOwn_of (by decide +kernel),
   by decide +kernel,
   noPartials_of (by decide +kernel),
   by decide +kernel, trivial⟩

def s_SumsAreSplit : State := (let s0 := filled (strand .user []); { s0 with now := .combinedAtHome ({ addr := 2 ^ 40 + 8, k := 4, tenant := 0, out := 0, total := 5, win := 0, leaves := 1, src := 3, txn := 7, recs := [] } : CombReq) })
/-- The hypotheses of a clause of `SumsAreSplit` can be met. -/
theorem witness_SumsAreSplit :
    ∃ s : State,
    ∃ r : CombReq,
    (s.now = .combinedAtHome r) ∧
    (r.recs = []) ∧
    (r.src.toNat / 16384 = s.pkg) ∧
    (r.k = 4 ∨ r.k = 8) ∧
    let a := localOf r.addr
    (2 ^ 40 ≤ a) ∧
    True :=
  ⟨s_SumsAreSplit,
   (({ addr := 2 ^ 40 + 8, k := 4, tenant := 0, out := 0, total := 5, win := 0, leaves := 1, src := 3, txn := 7, recs := [] } : CombReq) : CombReq),
   by decide +kernel,
   by decide +kernel,
   by decide +kernel,
   by decide +kernel,
   by decide +kernel, trivial⟩

def s_SyncEndsSuperstep : State := with1 { strand .user [] with members := gbit 1 15, arrived := 0, syncing := 0 } (run { strand .user [(1, num 0), (2, num 5), (3, num 0xFFFF), (4, num 0x10000)] with members := gbit 1 15, arrived := 0, syncing := 0 })
/-- The hypotheses of a clause of `SyncEndsSuperstep` can be met. -/
theorem witness_SyncEndsSuperstep :
    ∃ o : OpN,
    ∃ m : MemMod,
    ∃ s : State,
    (Together s) ∧
    let scope := m.scope.toNat
    let b := groupBit scope 15
    let t := s.self
    (t.members.getLsbD b) ∧
    (t.syncing.getLsbD b = false ∨ t.inSync = false) ∧
    (t.arrived.getLsbD b = false) ∧
    (s.gangPending s.cur scope 15 = false) ∧
    (t.dropped = []) ∧
    (s.stepsOutstanding s.cur = false) ∧
    (scope = 1) ∧
    ((∃ m ∈ others s scope 15, (s.strand m).arrived.getLsbD b = false)) ∧
    True :=
  ⟨(⟨0⟩ : OpN),
   (⟨false, 0, 1, true, 2⟩ : MemMod),
   s_SyncEndsSuperstep,
   by unfold Together; decide +kernel,
   by decide +kernel,
   by decide +kernel,
   by decide +kernel,
   by decide +kernel,
   by decide +kernel,
   by decide +kernel,
   by decide +kernel,
   by decide +kernel, trivial⟩

def s_TasksEnd : State := { run { strand .user [(2, obj Cap.kWorklist (0 * 2 ^ 30 + 1 * 2 ^ 22 + 3 * 2 ^ 10)), (1, num 0), (9, num 4)] with wlstat := 3, tasks := [{ pkg := 0, home := 0, slot := 1, gen := 3, holder := 0, sid := 0 }] } with dies := [(0, { DieState.empty with slots := [(0, { HomeSlot.free 2 with used := true }), (1, { HomeSlot.free 3 with used := true, inflight := 1 })], items := [] })] }
/-- The hypotheses of a clause of `TasksEnd` can be met. -/
theorem witness_TasksEnd :
    ∃ s : State,
    (Together s) ∧
    let t := s.self
    ∃ ks,
    ∃ k,
    (t.tasks = ks ++ [k]) ∧
    (k.pkg = s.pkg) ∧
    (s.worklistBusy k.sid k.home k.slot = false) ∧
    ((s.slot k.home k.slot).used) ∧
    ((s.slot k.home k.slot).gen = k.gen) ∧
    ((s.slot k.home k.slot).saved = false) ∧
    ((s.slot k.home k.slot).broken = false) ∧
    True :=
  ⟨s_TasksEnd,
   by unfold Together; decide +kernel,
   ([]),
   ({ pkg := 0, home := 0, slot := 1, gen := 3, holder := 0, sid := 0 }),
   by decide +kernel,
   by decide +kernel,
   by decide +kernel,
   by decide +kernel,
   by decide +kernel,
   by decide +kernel,
   by decide +kernel, trivial⟩

def s_TileMemory : State := (let t := strand .user [(1, mem 0x20000 0)]; { filled { t with mtx := { t.mtx with descs := [(0, 33325507)], tiles := (List.range 4).flatMap (fun k => (List.range 300).map fun i => (k * 8192 + i, BitVec.ofNat 8 ((i * 73 + k * 11) % 254 + 1))), accs := (List.range 200).map fun i => (i, BitVec.ofNat 32 (i * 0x3010203 + 1))  } } with quads := [(0, { QuadState.empty with nextOp := 0 })], badTiles := [] })
/-- The hypotheses of a clause of `TileMemory` can be met. -/
theorem witness_TileMemory :
    ∃ o : OpRX,
    ∃ m : MemMod,
    ∃ s : State,
    ∃ loc : Nat,
    ∃ e : Word,
    let a := o.a.toNat
    let d := s.self.desc a
    let z := (descCols d * tileBits (descFmt d) + 7) / 8
    let L := descRows d * z
    let c := at2 s o
    (1 ≤ z) ∧
    (z ≤ 128) ∧
    (Cap.cursor c.val % 65536 + L ≤ 65536) ∧
    (Ready s [⟨3, a, false, true⟩, wSrc o.b]) ∧
    (s.putsOutstanding s.cur = false) ∧
    (TileFree s a) ∧
    (Opens s c Cap.ld L loc e) ∧
    (Direct loc) ∧
    True :=
  ⟨(⟨0, 0, 1, 0⟩ : OpRX),
   (⟨false, 0, 1, true, 2⟩ : MemMod),
   s_TileMemory,
   (0x10008000000 + 0 : Nat),
   (0x1000800013F : Word),
   by decide +kernel,
   by decide +kernel,
   by decide +kernel,
   by unfold Ready Together; decide +kernel,
   by decide +kernel,
   by unfold TileFree; decide +kernel,
   opens_of (by decide +kernel),
   direct_of (by decide +kernel), trivial⟩

def s_TileRegisters : State := (let t := strand .user []; { filled { t with mtx := { t.mtx with descs := [(0, 33325507), (1, 33325507)], tiles := (List.range 4).flatMap (fun k => (List.range 300).map fun i => (k * 8192 + i, BitVec.ofNat 8 ((i * 73 + k * 11) % 254 + 1))), accs := (List.range 200).map fun i => (i, BitVec.ofNat 32 (i * 0x3010203 + 1))  } } with quads := [(0, { QuadState.empty with nextOp := 0 })], badTiles := [(3, 5), (300, 6), (2050, 7)] })
/-- The hypotheses of a clause of `TileRegisters` can be met. -/
theorem witness_TileRegisters :
    ∃ o : OpRR,
    ∃ s : State,
    (Ready s [⟨3, o.a.toNat, false, true⟩, ⟨3, o.b.toNat, true, false⟩]) ∧
    (Free s) ∧
    let a := o.a.toNat
    let d := s.self.desc o.b.toNat
    let w := tileBits (descFmt d)
    let R := descRows d
    let Q := descCols d
    (d.toNat < 2 ^ 26) ∧
    (descFmt d ≤ 10) ∧
    (Q ≤ 64) ∧
    ((R * w + 7) / 8 ≤ 128) ∧
    (TileFree s a) ∧
    True :=
  ⟨(⟨0, 0, 1⟩ : OpRR),
   s_TileRegisters,
   by unfold Ready Together; decide +kernel,
   by unfold Free; decide +kernel,
   by decide +kernel,
   by decide +kernel,
   by decide +kernel,
   by decide +kernel,
   by unfold TileFree; decide +kernel, trivial⟩

def s_TimeIsDisciplined : State := (let s0 := filled (strand .user []); { s0 with now := .timeOfDayMessage (let b : List Byte := [0x7E, 12, 1, 2, 3, 0, 0, 0, 37, 0, 5, 6]; b ++ leBytes 2 ((checkValue ((b.drop 1).take 11)).toNat) ++ leBytes 2 0) true })
/-- The hypotheses of a clause of `TimeIsDisciplined` can be met. -/
theorem witness_TimeIsDisciplined :
    ∃ s : State,
    ∃ bs : List Byte,
    ∃ inWindow : Bool,
    (s.now = .timeOfDayMessage bs inWindow) ∧
    let f := fun (o n : Nat) => leNat ((bs.drop o).take n)
    let valid := inWindow = true ∧ bs.length = 16 ∧ f 0 1 = 0x7E ∧ f 1 1 = 12 ∧ f 12 2 = (checkValue ((bs.drop 1).take 11)).toNat
    (valid) ∧
    True :=
  ⟨s_TimeIsDisciplined,
   ((let b : List Byte := [0x7E, 12, 1, 2, 3, 0, 0, 0, 37, 0, 5, 6]; b ++ leBytes 2 ((checkValue ((b.drop 1).take 11)).toNat) ++ leBytes 2 0) : List Byte),
   (true : Bool),
   by decide +kernel,
   by decide +kernel, trivial⟩

def s_TrapTakesSyscall : State := (run ({ strand .user [] with status := 0x101, utrap := { TrapRegs.zero with tvec := Reg.zero }, strap := { TrapRegs.zero with tvec := entry 0 }, htrap := { TrapRegs.zero with tvec := Reg.zero } }))
/-- The hypotheses of a clause of `TrapTakesSyscall` can be met. -/
theorem witness_TrapTakesSyscall :
    ∃ o : OpI,
    ∃ s : State,
    ∃ m : Mode,
    (Together s) ∧
    (Handler s cSyscall m) ∧
    True :=
  ⟨(⟨0, 5⟩ : OpI),
   s_TrapTakesSyscall,
   (.supervisor : Mode),
   by unfold Together; decide +kernel,
   by unfold Handler; decide +kernel, trivial⟩

def s_UpdatesAccumulate : State := (filled (strand .user [(1, num 0x4008000040490FDB), (2, mem 0x10000 0), (3, num 8)]))
/-- The hypotheses of a clause of `UpdatesAccumulate` can be met. -/
theorem witness_UpdatesAccumulate :
    ∃ o : OpRRR,
    ∃ m : AmouMod,
    ∃ n : AmoMod,
    ∃ s : State,
    ∃ ins : Instr,
    ∃ op : Nat,
    ∃ kind : Nat,
    ∃ k : Nat,
    ∃ a : Nat,
    ∃ e : Word,
    (Issues s [o.a, o.b, o.c]) ∧
    (((ins = .amouInteger o m ∧ op = m.op.toNat ∧ kind = 0 ∧ k = if m.w32 then 4 else 8) ∨
       (ins = .amouF32 o n ∧ op = 0 ∧ kind = 1 ∧ k = 4) ∨ (ins = .amouF64 o n ∧ op = 0 ∧ kind = 2 ∧ k = 8))) ∧
    let c : Reg := ⟨Cap.offset (w s o.b).val (x s o.c).toInt, (w s o.b).tag⟩
    let core := coreOf s.cur
    let line := a / 128
    let held := lookupD L1Line.empty (s.core core).lines line
    (Opens s c (Cap.st ||| Cap.atm) k a e) ∧
    (cacheable a) ∧
    (pteNc e = false) ∧
    let same := held.upd = some ⟨op, kind, k⟩
    ((same → held.bytes.length = 128)) ∧
    True :=
  ⟨(⟨0, 1, 2, 3, 0⟩ : OpRRR),
   (⟨true, 0, 1, 2⟩ : AmouMod),
   (⟨false, 0, 1⟩ : AmoMod),
   s_UpdatesAccumulate,
   (.amouInteger ⟨0, 1, 2, 3, 0⟩ ⟨true, 0, 1, 2⟩ : Instr),
   (2 : Nat),
   (0 : Nat),
   (4 : Nat),
   (0x1000008 : Nat),
   (0x100013F : Word),
   by unfold Issues Ready Together; decide +kernel,
   by decide +kernel,
   opens_of (by decide +kernel),
   by decide +kernel,
   by decide +kernel,
   by decide +kernel, trivial⟩

def s_UretReturns : State := (run { strand .user [] with status := 0x105, utrap := { TrapRegs.zero with tvec := entry 0x200, epc := code 8 }  })
/-- The hypotheses of a clause of `UretReturns` can be met. -/
theorem witness_UretReturns :
    ∃ o : OpN,
    ∃ s : State,
    (Together s) ∧
    let p := s.self.utrap.epc
    let fault := installFault s.self.mode s.self.tid p
    (bitAt s.self.status 8) ∧
    (p.tag) ∧
    (fault = none) ∧
    True :=
  ⟨(⟨0⟩ : OpN),
   s_UretReturns,
   by unfold Together; decide +kernel,
   by decide +kernel,
   by decide +kernel,
   by decide +kernel, trivial⟩

def s_VectorFloats : State := (let t := strand .user [(1, num 5), (2, num 3)];  (run { t with frm := 4, vec := { t.vec with vlen := 64, vstart := 0, v := (List.range 64).flatMap fun r => (List.range 8).map fun l => (r * 64 + l, if r = 6 then BitVec.ofNat 64 (l * 0x0101010101010101) else BitVec.ofNat 64 ((r + 1) * 0x3FF0123456789ABC + l * 0x40009876543210FF + 1)), k := [(1, 0x5A5A5A5A5A5A5A5A5A5A5A5A5A5A5A5A)], seeds := (List.range 8).map fun l => (l, BitVec.ofNat 32 (l * 7654321 + 99)) } }))
/-- The hypotheses of a clause of `VectorFloats` can be met. -/
theorem witness_VectorFloats :
    ∃ o : OpRRC,
    ∃ m : VecMod,
    ∃ s : State,
    (m.rnd ≠ 5) ∧
    (VReady s [vDst o.a, vSrc o.x, vSrc o.y] m) ∧
    (Unbounded s 1) ∧
    True :=
  ⟨(⟨0, 4, 5, some 6⟩ : OpRRC),
   (⟨0, 0, false, 0⟩ : VecMod),
   s_VectorFloats,
   by decide +kernel,
   by unfold VReady Ready Together CanIssue Free; decide +kernel,
   unbounded_of (by decide +kernel), trivial⟩

def s_VectorFolds : State := (let t := strand .user [(1, num 5), (2, num 3)];  (run { t with frm := 4, vec := { t.vec with vlen := 64, vstart := 0, v := (List.range 64).flatMap fun r => (List.range 8).map fun l => (r * 64 + l, if r = 6 then BitVec.ofNat 64 (l * 0x0101010101010101) else BitVec.ofNat 64 ((r + 1) * 0x3FF0123456789ABC + l * 0x40009876543210FF + 1)), k := [(1, 0x5A5A5A5A5A5A5A5A5A5A5A5A5A5A5A5A)], seeds := (List.range 8).map fun l => (l, BitVec.ofNat 32 (l * 7654321 + 99)) } }))
/-- The hypotheses of a clause of `VectorFolds` can be met. -/
theorem witness_VectorFolds :
    ∃ o : OpRR,
    ∃ m : VecMod,
    ∃ s : State,
    (VReady s [vSrc o.b] m) ∧
    (Unbounded s 1) ∧
    (s.self.vec.vstart = 0) ∧
    ∃ bits,
    ∃ signed,
    (elTypeOf m = .int bits signed) ∧
    (Ready s [wDst o.a]) ∧
    True :=
  ⟨(⟨0, 7, 5⟩ : OpRR),
   (⟨5, 0, true, 1⟩ : VecMod),
   s_VectorFolds,
   by unfold VReady Ready Together CanIssue Free; decide +kernel,
   unbounded_of (by decide +kernel),
   by decide +kernel,
   (laneWidth (⟨5, 0, true, 1⟩ : VecMod)),
   (decide ((⟨5, 0, true, 1⟩ : VecMod).ty.toNat < 4)),
   by decide +kernel,
   by unfold Ready Together; decide +kernel, trivial⟩

def s_VectorGates : State := (let s := (let t := strand .user [(1, num 5), (2, num 3)];  (run { t with frm := 4, vec := { t.vec with vlen := 2, vstart := 0, v := (List.range 64).flatMap fun r => (List.range 8).map fun l => (r * 64 + l, if r = 6 then BitVec.ofNat 64 (l * 0x0101010101010101) else BitVec.ofNat 64 ((r + 1) * 0x3FF0123456789ABC + l * 0x40009876543210FF + 1)), k := [(1, 0x5A5A5A5A5A5A5A5A5A5A5A5A5A5A5A5A)], seeds := (List.range 8).map fun l => (l, BitVec.ofNat 32 (l * 7654321 + 99)) } })); { s with units := { s.units with colonies := [(1, some { Colony.first with state := .loaded, alloc := [(1, 2)], rem := [(1, 0)] })] } })
/-- The hypotheses of a clause of `VectorGates` can be met. -/
theorem witness_VectorGates :
    ∃ o : OpRRC,
    ∃ m : VecMod,
    ∃ s : State,
    (Together s) ∧
    ∃ c,
    (m.rnd = 5) ∧
    (VReady s [vDst o.a, vSrc o.x, vSrc o.y] m) ∧
    (s.colony (s.colonyOf s.cur) = some c) ∧
    (s.self.vec.vstart = 0) ∧
    let w := 8 * 2 ^ (m.ty.toNat % 4)
    let n := s.self.effective w
    let lanes := (n + 64 / w - 1) / (64 / w)
    (c.allocOf 1 ≠ unlimited) ∧
    (lanes ≠ 0) ∧
    (lanes ≤ c.allocOf 1) ∧
    (lookupD 0 c.rem 1 < (lanes : Int)) ∧
    True :=
  ⟨(⟨0, 1, 2, some 3⟩ : OpRRC),
   (⟨5, 3, false, 0⟩ : VecMod),
   s_VectorGates,
   by unfold Together; decide +kernel,
   ({ Colony.first with state := .loaded, alloc := [(1, 2)], rem := [(1, 0)] }),
   by decide +kernel,
   by unfold VReady Ready Together CanIssue Free; decide +kernel,
   by decide +kernel,
   by decide +kernel,
   by decide +kernel,
   by decide +kernel,
   by decide +kernel,
   by decide +kernel, trivial⟩

def s_VectorIntegers : State := (let t := strand .user [(1, num 5), (2, num 3)];  (run { t with frm := 4, vec := { t.vec with vlen := 64, vstart := 0, v := (List.range 64).flatMap fun r => (List.range 8).map fun l => (r * 64 + l, if r = 6 then BitVec.ofNat 64 (l * 0x0101010101010101) else BitVec.ofNat 64 ((r + 1) * 0x3FF0123456789ABC + l * 0x40009876543210FF + 1)), k := [(1, 0x5A5A5A5A5A5A5A5A5A5A5A5A5A5A5A5A)], seeds := (List.range 8).map fun l => (l, BitVec.ofNat 32 (l * 7654321 + 99)) } }))
/-- The hypotheses of a clause of `VectorIntegers` can be met. -/
theorem witness_VectorIntegers :
    ∃ o : OpRRC,
    ∃ m : VecMod,
    ∃ s : State,
    (m.rnd = 5) ∧
    (VReady s [vDst o.a, vSrc o.x, vSrc o.y] m) ∧
    (Unbounded s 1) ∧
    True :=
  ⟨(⟨0, 4, 5, some 6⟩ : OpRRC),
   (⟨5, 0, false, 1⟩ : VecMod),
   s_VectorIntegers,
   by decide +kernel,
   by unfold VReady Ready Together CanIssue Free; decide +kernel,
   unbounded_of (by decide +kernel), trivial⟩

def s_VectorMemory : State := (let s0 := filled (strand .user [(1, mem 0x20000 0x40), (3, num 24)]); let t := s0.self; s0.withSelf { t with vec := { t.vec with vlen := 6, vstart := 2, v := (List.range 8).flatMap fun r => (List.range 8).map fun l => (r * 64 + l, if r = 6 then BitVec.ofNat 64 (l * 0x0302010003020100) else BitVec.ofNat 64 ((r + 1) * 0x3FF0123456789ABC + l * 0x40009876543210FF + 1)), k := [(1, 0x5A5A5A5A5A5A5A5A5A5A5A5A5A5A5A5A)] } })
def loc_VectorMemory : Nat → Nat := fun e => localOf (paOf s_VectorMemory 0 (Cap.cursor (Cap.offset (w s_VectorMemory 1 : Reg).val ((fun e => (8 : Int) + (e * (laneWidth (⟨5, 0, true, 1⟩ : VecMod) / 8) : Nat) : Nat → Int) e))))
def pte_VectorMemory : Nat → Word := fun e => pteOf s_VectorMemory 0 (Cap.cursor (Cap.offset (w s_VectorMemory 1 : Reg).val ((fun e => (8 : Int) + (e * (laneWidth (⟨5, 0, true, 1⟩ : VecMod) / 8) : Nat) : Nat → Int) e)))
/-- The hypotheses of a clause of `VectorMemory` can be met. -/
theorem witness_VectorMemory :
    ∃ m : VecMod,
    ∃ s : State,
    ∃ base : Reg,
    ∃ i : Instr,
    ∃ off : Nat → Int,
    ∃ loc : Nat → Nat,
    ∃ pte : Nat → Word,
    let w := laneWidth m
    let n := w / 8
    let start := s.self.vec.vstart
    let act := active s m w start
    let el := fun (e : Nat) => (⟨Cap.offset base.val (off e), base.tag⟩ : Reg)
    (s.self.vec.lanes ≠ []) ∧
    (Ready s (maskUse m.mask)) ∧
    (Unbounded s 1) ∧
    (NoPartials s) ∧
    ∃ a : RegNo,
    (((∃ o : OpRX, i = .vld o m ∧ o.a = a ∧ Ready s [vDst a, wSrc o.b] ∧ base = Claims.w s o.b ∧
       off = fun e => o.imm.toInt + (e * n : Nat)) ∨
       (∃ o : OpRRR, i = .vlds o m ∧ o.a = a ∧ Ready s [vDst a, wSrc o.b, wSrc o.c] ∧ base = Claims.w s o.b ∧
       off = fun (e : Nat) => o.imm.toInt + (e : Int) * (x s o.c).toInt) ∨
       (∃ o : OpRRR, i = .vgat o m ∧ o.a = a ∧ Ready s [vDst a, wSrc o.b, vSrc o.c] ∧ base = Claims.w s o.b ∧
       off = fun e => o.imm.toInt + (vel s o.c w e * n : Nat)))) ∧
    ((∀ e ∈ act, Opens s (el e) Cap.ld n (loc e) (pte e) ∧ Direct (loc e) ∧ s.firstBad (loc e) n = none)) ∧
    True :=
  ⟨(⟨5, 0, true, 1⟩ : VecMod),
   s_VectorMemory,
   (w s_VectorMemory 1 : Reg),
   (.vld ⟨0, 4, 1, 8⟩ ⟨5, 0, true, 1⟩ : Instr),
   (fun e => (8 : Int) + (e * (laneWidth (⟨5, 0, true, 1⟩ : VecMod) / 8) : Nat) : Nat → Int),
   loc_VectorMemory,
   pte_VectorMemory,
   by decide +kernel,
   by unfold Ready Together; decide +kernel,
   unbounded_of (by decide +kernel),
   noPartials_of (by decide +kernel),
   (4 : RegNo),
   Or.inl ⟨_, rfl, rfl, by unfold Ready Together; decide +kernel, rfl, rfl⟩,
   opensAll_of (by decide +kernel), trivial⟩

def s_VectorMemorySpecial : State := (let s0 := filled (strand .user [(1, untagged (mem 0x20000 0x40)), (3, num 8)]); let t := s0.self; s0.withSelf { t with vec := { t.vec with vlen := 6, vstart := 0, v := (List.range 8).flatMap fun r => (List.range 8).map fun l => (r * 64 + l, if r = 6 then BitVec.ofNat 64 (0) else BitVec.ofNat 64 ((r + 1) * 0x3FF0123456789ABC + l * 0x40009876543210FF + 1)), k := [(1, 0x5A5A5A5A5A5A5A5A5A5A5A5A5A5A5A5A)] } })
/-- The hypotheses of a clause of `VectorMemorySpecial` can be met. -/
theorem witness_VectorMemorySpecial :
    ∃ o : OpRX,
    ∃ m : VecMod,
    ∃ s : State,
    ∃ e : Nat,
    ∃ c : BitVec 8,
    ∃ h : Mode,
    (MemReady s [vDst o.a, wSrc o.b] m) ∧
    (Unbounded s 1) ∧
    let w := laneWidth m
    let el : Reg := ⟨Cap.offset (Claims.w s o.b).val (o.imm.toInt + (e * (w / 8) : Nat)), (Claims.w s o.b).tag⟩
    ((active s m w s.self.vec.vstart).head? = some e) ∧
    (checkFault s el Cap.ld [Cap.kMemory] (w / 8) = some c) ∧
    (Handler s c h) ∧
    True :=
  ⟨(⟨0, 4, 1, 8⟩ : OpRX),
   (⟨5, 0, false, 0⟩ : VecMod),
   s_VectorMemorySpecial,
   (((active s_VectorMemorySpecial (⟨5, 0, false, 0⟩ : VecMod) (laneWidth (⟨5, 0, false, 0⟩ : VecMod)) s_VectorMemorySpecial.self.vec.vstart).headD 0) : Nat),
   (cTag : BitVec 8),
   (.supervisor : Mode),
   by unfold MemReady Ready Together; decide +kernel,
   unbounded_of (by decide +kernel),
   by decide +kernel,
   by decide +kernel,
   by unfold Handler; decide +kernel, trivial⟩

def s_VectorMoves : State := (let t := strand .user [(1, num 5), (2, num 3)];  (run { t with frm := 4, vec := { t.vec with vlen := 64, vstart := 0, v := (List.range 64).flatMap fun r => (List.range 8).map fun l => (r * 64 + l, if r = 6 then BitVec.ofNat 64 (l * 0x0101010101010101) else BitVec.ofNat 64 ((r + 1) * 0x3FF0123456789ABC + l * 0x40009876543210FF + 1)), k := [(1, 0x5A5A5A5A5A5A5A5A5A5A5A5A5A5A5A5A)], seeds := (List.range 8).map fun l => (l, BitVec.ofNat 32 (l * 7654321 + 99)) } }))
/-- The hypotheses of a clause of `VectorMoves` can be met. -/
theorem witness_VectorMoves :
    ∃ o : OpRR,
    ∃ m : VecMod,
    ∃ s : State,
    (VReady s [vDst o.a, vSrc o.b] m) ∧
    (Unbounded s 1) ∧
    (s.self.vec.vstart = 0) ∧
    True :=
  ⟨(⟨0, 4, 5⟩ : OpRR),
   (⟨0, 4, true, 1⟩ : VecMod),
   s_VectorMoves,
   by unfold VReady Ready Together CanIssue Free; decide +kernel,
   unbounded_of (by decide +kernel),
   by decide +kernel, trivial⟩

def s_WaitsEnd : State := (let s0 := with1 { strand .user [(5, num 3)] with pop := some { pkg := 0, home := 0, slot := 3, gen := 1, dst := 5, yielding := true, cancel := true, txn := 4, answer := none } } (filled (strand .user [])); { withSlot s0 0 3 { HomeSlot.free 1 with used := true, pops := [{ sid := 1, txn := 4, held := 0, colony := 1, engine := 0, redirects := 3, checks := 0, dies := 0, best := none, asking := false }, { sid := 5, txn := 4, held := 0, colony := 1, engine := 0, redirects := 2, checks := 0, dies := 0, best := none, asking := false }] } with now := .popCancel 1 })
/-- The hypotheses of a clause of `WaitsEnd` can be met. -/
theorem witness_WaitsEnd :
    ∃ s : State,
    ∃ sid : Nat,
    (s.now = .popCancel sid) ∧
    let b := s.strand sid
    let whole := (s.fullSid sid).toNat
    ∃ r,
    (b.pop = some r) ∧
    (r.answer = none) ∧
    (r.pkg = s.pkg) ∧
    ((s.slot r.home r.slot).hold = []) ∧
    (s.worklistBusy whole r.home r.slot = false) ∧
    let h := s.slot r.home r.slot
    ∃ k,
    (r.yielding) ∧
    ((∃ p ∈ h.pops, p.sid = whole)) ∧
    ((∀ p ∈ h.pops, p.sid = whole → p.redirects = k)) ∧
    True :=
  ⟨s_WaitsEnd,
   (1 : Nat),
   by decide +kernel,
   ({ pkg := 0, home := 0, slot := 3, gen := 1, dst := 5, yielding := true, cancel := true, txn := 4, answer := none }),
   by decide +kernel,
   by decide +kernel,
   by decide +kernel,
   by decide +kernel,
   by decide +kernel,
   3,
   by decide +kernel,
   by decide +kernel,
   by decide +kernel, trivial⟩

def s_WalksTables : State := (let s0 := bytesFrom 0x1000000 (leBytes 8 (0x1010003)) <| bytesFrom (0x1010000 + 8 * 1) (leBytes 8 (0x1020001)) <| bytesFrom (0x1020000 + 8 * 1) (leBytes 8 (0x200013F)) (run (strand .user [])); { s0 with roots := [(0, 0x1000001)], units := { s0.units with boot := some 0, colonies := [(1, some { colony with chan := 1 })] } })
/-- The hypotheses of a clause of `WalksTables` can be met. -/
theorem witness_WalksTables :
    ∃ s : State,
    ∃ t : BitVec 12,
    ∃ a : Nat,
    ∃ e0 : Word,
    (NoPartials s) ∧
    (a < 2 ^ 48) ∧
    let root := localOf ((lookupD 0 s.roots t.toNat).toNat - 1)
    ((lookupD 0 s.roots t.toNat).toNat % 2 = 1) ∧
    (Pte s root (a / 2 ^ 36) e0) ∧
    (e0.toNat % 4 ≠ 1) ∧
    True :=
  ⟨s_WalksTables,
   (0 : BitVec 12),
   (33619976 : Nat),
   ((BitVec.ofNat 64 (leNat (s_WalksTables.bytesAt 0x1000000 8))) : Word),
   noPartials_of (by decide +kernel),
   by decide +kernel,
   by decide +kernel,
   by unfold Pte; decide +kernel,
   by decide +kernel, trivial⟩

def s_WorklistControl : State := (let s := { run { strand .user [(1, obj Cap.kWorklist (0 * 2 ^ 30 + 1 * 2 ^ 22 + 3 * 2 ^ 10)), (2, num 0x4045678), (3, num 0)] with frm := 0 } with dies := [(0, { DieState.empty with slots := [(0, { HomeSlot.free 2 with used := true }), (1, { HomeSlot.free 3 with used := true })], items := [] })] }; s.withSelf { s.self with ir := [] })
/-- The hypotheses of a clause of `WorklistControl` can be met. -/
theorem witness_WorklistControl :
    ∃ o : OpRRR,
    ∃ s : State,
    ∃ ins : Instr,
    ∃ die : Nat,
    ∃ i : Nat,
    ∃ gen : Nat,
    (ins = .wlcfgConfigure o ∨ (ins = .wlcfgFree ∧ o = s.self.rowRRR)) ∧
    (Issues s [o.a, o.b, o.c]) ∧
    (NamesInstance s (w s o.a) die i gen) ∧
    let ctl := x s o.b
    let spill := w s o.c
    let h := s.slot die i
    (fieldAt ctl 28 36 = 0) ∧
    (fieldAt ctl 21 3 = 0) ∧
    (h.saved = false) ∧
    (bitAt ctl 27 = false) ∧
    (h.broken = false) ∧
    (3 ≤ fieldAt ctl 24 3) ∧
    (fieldAt ctl 24 3 ≤ 5) ∧
    (spill.tag = false) ∧
    let same := fieldAt ctl 16 5 = h.s ∧ fieldAt ctl 24 3 = h.scope ∧ h.spill = Reg.zero
    (h.quiet ∨ same) ∧
    ((fieldAt ctl 24 3 = 5 → s.jobOf s.cur ≠ 0)) ∧
    True :=
  ⟨(⟨0, 1, 2, 3, 0⟩ : OpRRR),
   s_WorklistControl,
   (.wlcfgConfigure ⟨0, 1, 2, 3, 0⟩ : Instr),
   (0 : Nat),
   (1 : Nat),
   (3 : Nat),
   by decide +kernel,
   by unfold Issues Ready Together; decide +kernel,
   by unfold NamesInstance; decide +kernel,
   by decide +kernel,
   by decide +kernel,
   by decide +kernel,
   by decide +kernel,
   by decide +kernel,
   by decide +kernel,
   by decide +kernel,
   by decide +kernel,
   by decide +kernel,
   by decide +kernel, trivial⟩

end Sys2Proof.Tests
end

section
/-! SUPPORT. From running one instruction to the vocabulary of the statements: what a completed instruction shows of the
state that its operation reached, and what the delivery of a cause shows of the state that the instruction met. -/

namespace Sys2Proof.Machine

/-- The prologue of an instruction that issues leaves the roles together. -/
theorem Strand.Clear.apart_begun {t : Strand} {regs : List RegUse} (h : t.Clear regs) (d : Desc) :
    (t.begun d).apart = none := by
  obtain ⟨-, -, hapart, -⟩ := h
  exact hapart

/-! ## Taking a cause -/

/-- Undoing keeps the one thing that outlives it (the controller's count of walk errors); where that did not change, nothing
of the operation is left. -/
theorem State.undo_eq {s u : State} (h : u.units.walkErrors = s.units.walkErrors) : s.undo u = s := by
  simp only [State.undo, h]

/-- A privilege check that raises a cause does so before anything has changed. -/
theorem runWith_priv_trap {d : Desc} {n : Nat} {priv : M Unit} {body : M Flow} {s : State} {c : BitVec 8} {v : Word}
    {v2 : Option Word} (hp : priv s = .error (.trap c v v2) s) : runWith d n priv body s = takeCause s s d c v v2 := by
  unfold runWith prologue
  rw [M.bind_error (M.bind_error hp)]
  exact congrArg (takeCause s · d c v v2) (State.undo_eq rfl)

/-- An operation that raises a cause behind its prologue, with no count of a walk error, leaves nothing behind. -/
theorem runWith_trap {d : Desc} {n : Nat} {priv : M Unit} {body : M Flow} {s u : State} {c : BitVec 8} {v : Word}
    {v2 : Option Word} (hl : d.steer ≠ .lanes) (hp : priv s = .ok () s) (hc : s.self.Clear d.regs)
    (hb : body (s.withSelf (s.self.begun d)) = .error (.trap c v v2) u) (hu : u.units.walkErrors = s.units.walkErrors) :
    runWith d n priv body s = takeCause s s d c v v2 := by
  unfold runWith
  rw [M.bind_ok (prologue_clear hl hp hc), hb]
  exact congrArg (takeCause s · d c v v2) (State.undo_eq hu)

theorem Strand.settle_advance (t : Strand) (n : Nat) : (t.advance n).settle = t.settle.advance n := rfl

@[simp] theorem State.cur_idle (s : State) : s.idle.cur = s.cur := by simp [State.idle]
@[simp] theorem State.self_idle (s : State) : s.idle.self = s.self.advance 1 := by simp [State.idle]

@[simp] theorem Strand.tvec_advance (t : Strand) (n : Nat) (m : Mode) : (t.advance n).tvec m = t.tvec m := by cases m <;> rfl
@[simp] theorem Strand.tvec_settle (t : Strand) (m : Mode) : t.settle.tvec m = t.tvec m := by cases m <;> rfl
@[simp] theorem Strand.targetMode_advance (t : Strand) (n : Nat) (c : BitVec 8) :
    (t.advance n).targetMode c = t.targetMode c := rfl
@[simp] theorem Strand.targetMode_settle (t : Strand) (c : BitVec 8) : t.settle.targetMode c = t.targetMode c := rfl

/-- A cause that user mode handles was raised in user mode (R135). -/
theorem Strand.mode_of_targetMode_user {t : Strand} {c : BitVec 8} (h : t.targetMode c = some .user) : t.mode = .user := by
  unfold Strand.targetMode at h
  split at h
  · next hu =>
    simp only [Bool.and_eq_true, decide_eq_true_eq] at hu
    obtain ⟨⟨⟨⟨-, hmode⟩, -⟩, -⟩, -⟩ := hu
    exact hmode
  · dsimp only at h
    split_ifs at h <;> cases h

section Enter

variable (t : Strand) (m : Mode) (c : BitVec 8) (v : Word) (v2 : Option Word) (ex : Bool) (ret : Reg)

@[simp] theorem Strand.enter_tid : (t.enter m c v v2 ex ret).tid = t.tid := by
  unfold Strand.enter; dsimp only; split <;> rfl
@[simp] theorem Strand.enter_instret : (t.enter m c v v2 ex ret).instret = t.instret := by
  unfold Strand.enter; dsimp only; split <;> rfl
@[simp] theorem Strand.enter_regs : (t.enter m c v v2 ex ret).regs = t.regs := by
  unfold Strand.enter; dsimp only; split <;> rfl
@[simp] theorem Strand.enter_pcc : (t.enter m c v v2 ex ret).pcc = installed (t.tvec m) := by
  unfold Strand.enter; dsimp only; split <;> rfl

theorem Strand.enter_mode : (t.enter m c v v2 ex ret).mode = if m = .user then t.mode else m := by
  unfold Strand.enter; dsimp only; split <;> rfl

/-- Time that passes before the entry does not show in the strand that enters. -/
theorem Strand.still_enter_advance (n : Nat) :
    ((t.advance n).enter m c v v2 ex ret).still = (t.enter m c v v2 ex ret).still := by
  unfold Strand.enter; dsimp only; split <;> rfl

end Enter

end Sys2Proof.Machine

namespace Sys2Proof.Claims

open Sys2Proof.Machine

/-! ## What issues -/

/-- Registers that are ready let an instruction issue that names some of them, whichever it reads or writes. -/
theorem Ready.clear {s : State} {us regs : List RegUse} (h : Ready s us)
    (hr : ∀ r ∈ regs, ∃ u ∈ us, u.file = r.file ∧ u.num = r.num) : s.self.Clear regs := by
  obtain ⟨⟨hapart, hops⟩, hus⟩ := h
  have hregs : ∀ r ∈ regs, s.self.hazard r.file (s.self.hazardNum r) = none ∧
      (r.file = 0 → r.num < s.self.win.frame) := by
    intro r hrm
    obtain ⟨u, hu, hfile, hnum⟩ := hr r hrm
    simpa only [Strand.hazardNum, hfile, hnum] using hus u hu
  refine ⟨?_, fun r hrm => (hregs r hrm).1, hapart, hops⟩
  simp only [Strand.beyondFrame, Option.map_eq_none_iff, List.find?_eq_none]
  intro r hrm
  simpa using (hregs r hrm).2

/-- An instruction that names no register issues wherever the roles stand together. -/
theorem Together.clear {s : State} (h : Together s) : s.self.Clear [] := ⟨rfl, by simp, h⟩

/-- One `w` register of those that issue has no outstanding result. -/
theorem Issues.hazard {s : State} {ns : List RegNo} (h : Issues s ns) {n : RegNo} (hn : n ∈ ns) :
    s.self.hazard 0 (s.self.physOf n.toNat) = none :=
  (h.2 ⟨0, n.toNat, true, true⟩ (List.mem_map_of_mem hn)).1

/-- Reading a register right behind the prologue gives what it held before. -/
theorem Issues.readW_begun {s : State} {ns : List RegNo} (h : Issues s ns) (d : Desc) (i : Nat) {n : RegNo} (hn : n ∈ ns) :
    readW i n (s.withSelf (s.self.begun d)) = .ok (w s n) (s.withSelf (s.self.begun d)) := by
  obtain ⟨-, hops⟩ := h.1
  rw [readW_clear i] <;> rw [State.self_withSelf]
  · rfl
  · exact hops
  · exact h.hazard hn

theorem Issues.readX_begun {s : State} {ns : List RegNo} (h : Issues s ns) (d : Desc) (i : Nat) {n : RegNo} (hn : n ∈ ns) :
    readX i n (s.withSelf (s.self.begun d)) = .ok (x s n) (s.withSelf (s.self.begun d)) := by
  unfold readX
  rw [M.bind_ok (h.readW_begun d i hn)]
  rfl

/-! ## What completion shows -/

theorem Elsewhere.refl (s : State) : Elsewhere s s :=
  ⟨fun _ _ => rfl, fun _ => ⟨rfl, rfl, rfl, rfl, rfl⟩, ⟨[], by simp, by simp⟩, rfl⟩

/-- What stands in the current strand is not elsewhere, on either side. -/
theorem Elsewhere.withSelf {u v : State} (h : Elsewhere u v) (hc : v.cur = u.cur) (t : Strand) :
    Elsewhere u (v.withSelf t) := by
  obtain ⟨hs, hk, ha, hr⟩ := h
  exact ⟨fun b hb => (State.strand_withSelf_ne v b t (hc ▸ hb)).trans (hs b hb), hk, ha, hr⟩

theorem Elsewhere.of_withSelf {u v : State} (h : Elsewhere u v) (t : Strand) : Elsewhere (u.withSelf t) v := by
  obtain ⟨hs, hk, ha, hr⟩ := h
  exact ⟨fun b hb => (hs b hb).trans (State.strand_withSelf_ne u b t hb).symm, hk, ha, hr⟩

/-- A completion counts and spends time; elsewhere it changes nothing else. -/
theorem Elsewhere.commit {u v : State} (h : Elsewhere u v) (hc : v.cur = u.cur) (pre : State) (d : Desc) (n : Nat)
    (f : Flow) : Elsewhere u (v.commit pre d n f) := by
  obtain ⟨hs, hk, ⟨es, ha, hes⟩, hr⟩ := h
  obtain ⟨es', ha', hes'⟩ := v.agenda_commit pre d n f
  refine ⟨fun b hb => (v.strand_commit_ne pre d n f b (hc ▸ hb)).trans (hs b hb), fun c => ?_,
    ⟨es ++ es', by rw [ha', ha, List.append_assoc], fun e he => ?_⟩, (v.rest_commit pre d n f).trans hr⟩
  · obtain ⟨hlines, hcode, hring, htraced, hqueue⟩ := v.core_commit pre d n f c
    simpa only [hlines, hcode, hring, htraced, hqueue] using hk c
  · exact (List.mem_append.mp he).elim (hes e) (hes' e)

/-- Two strands of one state show the same when they agree in their registers and in what completions leave alone. -/
theorem SameAs.of_withSelf {u v : State} {t r : Strand} (h : Elsewhere u v) (hc : v.cur = u.cur)
    (hp : ∀ p, r.phys p = t.phys p) (hs : r.still = t.still) : SameAs (u.withSelf t) (v.withSelf r) :=
  ⟨hc, by simpa using hp, by simpa using hs, (h.withSelf hc r).of_withSelf t⟩

/-- A completed instruction goes where its program counter went, with what its operation shows. -/
theorem SameAs.completes {i : Instr} {s u v : State} {d : Desc} {n : Nat} {f : Flow} {p : Reg} (h : SameAs u v)
    (hx : exec i s = .next (v.commit s d n f)) (hself : (v.commit s d n f).self = v.self.complete s.self d n p)
    (hn : v.self.instret = s.self.instret) : GoesTo i s u p := by
  obtain ⟨hc, hp, hs, he⟩ := h
  refine ⟨_, hx, ?_, ?_, (v.commit_cur s d n f).trans hc, ?_, ?_, he.commit hc s d n f⟩ <;> rw [hself]
  · rfl
  · rw [Strand.complete_instret, hn]
  · simpa using hp
  · simpa using hs

/-- An instruction that transfers control goes to its target. -/
theorem SameAs.goesTo {i : Instr} {s u v : State} {d : Desc} {n : Nat} {p : Reg} (h : SameAs u v)
    (hx : exec i s = .next (v.commit s d n (.goto p))) (ha : v.self.apart = none) (hn : v.self.instret = s.self.instret) :
    GoesTo i s u p :=
  h.completes hx (State.self_commit_goto s d n p ha) hn

/-- Any other goes on behind itself. -/
theorem SameAs.leads {i : Instr} {s u v : State} {d : Desc} {n : Nat} (h : SameAs u v)
    (hx : exec i s = .next (v.commit s d n .next)) (ha : v.self.apart = none) (hn : v.self.instret = s.self.instret)
    (hpcc : v.self.pcc = s.self.pcc) (hir : v.self.ir = s.self.ir) : Leads i s u := by
  have hnext : v.self.pccAt v.self.npc = s.self.pccAt s.self.npc := by
    simp only [Strand.pccAt, Strand.npc, Strand.pc, hpcc, hir]
  exact h.completes hx (hnext ▸ State.self_commit_next s d n ha) hn

/-- An instruction whose operation ends with a write of one register sets that register and nothing else. -/
theorem sets_of_runOp {i : Instr} {s : State} {d : Desc} {body : M Unit} {n : RegNo} {r : Reg} (hx : exec i s = runOp d body s)
    (hl : d.steer ≠ .lanes) (hc : s.self.Clear d.regs)
    (hb : body (s.withSelf (s.self.begun d)) = writeW n r (s.withSelf (s.self.begun d))) : Sets i s n r := by
  rw [writeW_run, State.self_withSelf] at hb
  have hsame : SameAs (s.withSelf (s.self.putW n.toNat r))
      ((s.withSelf (s.self.begun d)).withSelf ((s.self.begun d).putW n.toNat r)) :=
    SameAs.of_withSelf ((Elsewhere.refl s).withSelf rfl _) rfl (fun _ => rfl) rfl
  refine hsame.leads (hx.trans (runOp_ok hl hc hb)) ?_ ?_ ?_ ?_ <;> rw [State.self_withSelf]
  · exact hc.apart_begun d
  all_goals rfl

/-! ## What the delivery of a cause shows -/

/-- The clk that a delivery takes does not change who handles the cause. -/
theorem Handler.idle {s : State} {c : BitVec 8} {m : Mode} (h : Handler s c m) : Handler s.idle c m := by
  simpa [Handler] using h

/-- Where a mode can handle a cause, its delivery enters the handler there (R136). -/
theorem deliver_handler {s : State} {c : BitVec 8} {m : Mode} (h : Handler s c m) (v : Word) (v2 : Option Word) (ex : Bool)
    (ret : Reg) :
    deliver c v v2 ex ret s = .ok () ((withdrawn s).withSelf (s.self.settle.enter m c v v2 ex ret)) := by
  obtain ⟨htarget, hinstall⟩ := h
  have hself : (withdrawn s).self = s.self := rfl
  have hwithdraw : withdraw s.cur s = .ok () (withdrawn s) := rfl
  have hmode : (s.self.settle.enter m c v v2 ex ret).mode = m := by
    rw [Strand.enter_mode]
    split
    · next hm => subst hm; exact Strand.mode_of_targetMode_user htarget
    · rfl
  unfold deliver
  rw [M.bind_ok (show curSid s = .ok s.cur s from rfl), M.bind_ok hwithdraw, M.bind_ok (M.get_run _)]
  simp only [hself, Strand.targetMode_settle, htarget, hmode, Strand.enter_tid, Strand.tvec_settle]
  rw [show s.self.settle.tid = s.self.tid from rfl, hinstall]
  rfl

/-- Spending clk on a core counts them there; elsewhere nothing else changes. -/
theorem Elsewhere.spend {u v : State} (h : Elsewhere u v) (c n : Nat) : Elsewhere u (v.spend c n) := by
  obtain ⟨hs, hk, ⟨es, ha, hes⟩, hr⟩ := h
  obtain ⟨es', ha', hes'⟩ := v.agenda_spend_fires c n
  refine ⟨hs, fun k => by simpa using hk k, ⟨es ++ es', by rw [ha', ha, List.append_assoc], fun e he => ?_⟩,
    (v.rest_spend c n).trans hr⟩
  exact (List.mem_append.mp he).elim (hes e) (hes' e)

/-- Where a strand waits or is about to take a cause, one clk passes. -/
theorem Elsewhere.idle (s : State) : Elsewhere s s.idle := ((Elsewhere.refl s).withSelf rfl _).spend _ _

@[simp] theorem cur_withdrawn (s : State) : (withdrawn s).cur = s.cur := rfl

theorem core_withdrawn (s : State) (c : Nat) : (withdrawn s).core c =
    if c = coreOf s.cur then { s.core c with queue := (s.core c).queue.filter fun e => !e.own s.cur } else s.core c := by
  split
  · next h => subst h; exact State.core_withCore_same ..
  · next h => exact State.core_withCore_ne _ _ _ _ h

theorem rest_withdrawn (s : State) : (withdrawn s).rest = s.rest.withQuad (quadOf s.cur)
    { s.rest.quad (quadOf s.cur) with
      postings := (s.rest.quad (quadOf s.cur)).postings.filter fun p => p.sid ≠ s.cur } := rfl

/-- What a strand withdraws depends on nothing that two states may differ in. -/
theorem Elsewhere.withdrawn {u v : State} (h : Elsewhere u v) (hc : v.cur = u.cur) :
    Elsewhere (withdrawn u) (withdrawn v) := by
  obtain ⟨hs, hk, ha, hr⟩ := h
  refine ⟨hs, fun c => ?_, ha, by rw [rest_withdrawn, rest_withdrawn, hr, hc]⟩
  obtain ⟨hlines, hcode, hring, htraced, hqueue⟩ := hk c
  rw [core_withdrawn, core_withdrawn, hc]
  split
  · exact ⟨hlines, hcode, hring, htraced, by rw [hqueue]⟩
  · exact ⟨hlines, hcode, hring, htraced, hqueue⟩

/-- The strand in its handler, one clk after the instruction. -/
def handled (s : State) (m : Mode) (c : BitVec 8) (v : Word) (v2 : Option Word) (ex : Bool) (ret : Reg) : State :=
  (withdrawn s.idle).withSelf (s.idle.self.settle.enter m c v v2 ex ret)

theorem enters_handled (s : State) (m : Mode) (c : BitVec 8) (v : Word) (v2 : Option Word) (ex : Bool) (ret : Reg) :
    Enters s (handled s m c v v2 ex ret) m c v v2 ret := by
  have hself : (handled s m c v v2 ex ret).self = (s.self.settle.advance 1).enter m c v v2 ex ret := by
    rw [handled, State.self_withSelf, State.self_idle, Strand.settle_advance]
  have hels : Elsewhere (withdrawn s) (handled s m c v v2 ex ret) :=
    ((Elsewhere.idle s).withdrawn s.cur_idle).withSelf s.cur_idle _
  refine ⟨s.cur_idle, ?_, ?_, fun p => ?_, ⟨ex, ?_⟩, hels⟩ <;> rw [hself]
  · rw [Strand.enter_pcc, Strand.tvec_advance, Strand.tvec_settle]
  · rw [Strand.enter_instret]; rfl
  · rw [Strand.phys, Strand.enter_regs]; rfl
  · exact Strand.still_enter_advance ..

/-- Between roles that stand together a cause is delivered after one clk: the strand enters its handler. -/
theorem takeCause_enters {s : State} {c : BitVec 8} {m : Mode} (ht : Together s) (h : Handler s c m) (d : Desc) (v : Word)
    (v2 : Option Word) : ∃ t, takeCause s s d c v v2 = .next t ∧
      Enters s t m c v v2 (if c = cSyscall then s.self.pccAt s.self.npc else s.self.pcc) := by
  obtain ⟨hapart, -⟩ := ht
  refine ⟨_, ?_, enters_handled s m c v v2 (s.self.roleOf d = .execute) _⟩
  simp only [takeCause, hapart, finishM, deliver_handler h.idle]
  rfl

/-- Any cause but `syscall` is taken at the instruction's own address. -/
theorem traps_of_takeCause {i : Instr} {s : State} {d : Desc} {c : BitVec 8} {v : Word} {v2 : Option Word}
    (hx : exec i s = takeCause s s d c v v2) (ht : Together s) (hc : c ≠ cSyscall) : Traps2 i s c v v2 := fun m h => by
  simpa only [hx, if_neg hc] using takeCause_enters ht h d v v2

end Sys2Proof.Claims
end

section
/-! SUPPORT. The scalar instructions: `sel`, `trap` and `uret` (R98, R131, R132). -/

namespace Sys2Proof.Claims

open Sys2Proof.Machine

/-! ## `sel` -/

/-- Settles O10: the operation of `sel` reads its three registers as they were and ends with one write. -/
theorem selCopies : Obligations.SelCopies := by
  intro o s h
  have hclear : s.self.Clear [wBoth o.a, wSrc o.b, wSrc o.c] := h.clear (by simp [wBoth, wSrc])
  refine sets_of_runOp (d := ⟨o.st, 1, .bySource, [wBoth o.a, wSrc o.b, wSrc o.c]⟩) rfl Steer.noConfusion hclear ?_
  rw [M.bind_ok (h.readX_begun _ 0 (by simp)), M.bind_ok (h.readW_begun _ 1 (by simp)),
    M.bind_ok (h.readW_begun _ 2 (by simp))]

/-! ## `trap` -/

/-- Settles O19: the cause that `trap` raises is the one whose return address is NPC. -/
theorem trapEntry : Obligations.TrapEntry := by
  intro o s m ht h
  have hx : exec (.trap o) s = takeCause s s ⟨o.st, 0, .joint, []⟩ cSyscall (BitVec.ofNat 64 o.imm.toNat) none :=
    runWith_trap Steer.noConfusion rfl ht.clear rfl rfl
  rw [hx]
  exact takeCause_enters ht h _ _ _

/-! ## `uret` -/

/-- The install checks raise `tenant`, `perm` or `align`, so never the cause that returns behind itself. -/
theorem installFault_ne_syscall {mode : Mode} {tid : BitVec 12} {r : Reg} {c : BitVec 8}
    (h : installFault mode tid r = some c) : c ≠ cSyscall := by
  unfold installFault at h
  split_ifs at h <;> cases h <;> decide

section InstallSaved

variable {r : Reg} {s : State}

theorem installSaved_untagged (h : r.tag = false) :
    installSaved r s = .error (.trap cTag (BitVec.ofNat 64 (Cap.cursor r.val)) none) s := by
  simp only [installSaved, h]; rfl

theorem installSaved_fault {c : BitVec 8} (h : r.tag = true) (hf : installFault s.self.mode s.self.tid r = some c) :
    installSaved r s = .error (.trap c (BitVec.ofNat 64 (Cap.cursor r.val)) none) s := by
  unfold installSaved
  rw [h, M.bind_ok (self_run s), Bool.not_true, M.bind_ok (raiseIf_false _ _ s), hf]; rfl

theorem installSaved_ok (h : r.tag = true) (hf : installFault s.self.mode s.self.tid r = none) :
    installSaved r s = .ok (installed r) s := by
  unfold installSaved
  rw [h, M.bind_ok (self_run s), Bool.not_true, M.bind_ok (raiseIf_false _ _ s), hf]; rfl

end InstallSaved

/-- A return that cannot install its PCC has changed nothing. -/
theorem returnUser_error {s : State} {e : Exc} (h : installSaved s.self.utrap.epc s = .error e s) :
    returnUser s = .error e s := by
  unfold returnUser
  rw [M.bind_ok (self_run s), M.bind_error h]

theorem returnUser_ok {s : State} (htag : s.self.utrap.epc.tag = true)
    (hf : installFault s.self.mode s.self.tid s.self.utrap.epc = none) :
    returnUser s = .ok (.goto (installed s.self.utrap.epc))
      (s.withSelf { s.self with status := putBit s.self.status 8 false }) := by
  unfold returnUser
  rw [M.bind_ok (self_run s), M.bind_ok (installSaved_ok htag hf)]
  rfl

/-- What `uret` is to the pipeline: it names no register. -/
def uretDesc (o : OpN) : Desc := ⟨o.st, 0, .joint, []⟩

/-- Where the operation of `uret` begins. -/
def uretBegun (o : OpN) (s : State) : State := s.withSelf (s.self.begun (uretDesc o))

theorem self_uretBegun (o : OpN) (s : State) : (uretBegun o s).self = s.self.begun (uretDesc o) := State.self_withSelf ..

/-- Outside a handler `uret` is illegal. -/
theorem uret_outside {o : OpN} {s : State} (h : bitAt s.self.status 8 = false) :
    exec (.uret o) s = takeCause s s (uretDesc o) cIll (BitVec.ofNat 64 s.self.illValue) none := by
  refine runWith_priv_trap ?_
  rw [M.bind_ok (self_run s), h]; rfl

/-- The check of `uret` passes in a handler. -/
theorem uret_check {s : State} (h : bitAt s.self.status 8 = true) :
    (do let t ← self; illIf (!bitAt t.status 8) : M Unit) s = .ok () s := by
  rw [M.bind_ok (self_run s), h]; rfl

/-- In a handler, a fault of the install is a fault of the `uret` itself. -/
theorem uret_install_fault {o : OpN} {s : State} {c : BitVec 8} {v : Word} (ht : Together s)
    (h : bitAt s.self.status 8 = true)
    (hf : installSaved s.self.utrap.epc (uretBegun o s) = .error (.trap c v none) (uretBegun o s)) :
    exec (.uret o) s = takeCause s s (uretDesc o) c v none := by
  refine runWith_trap (d := uretDesc o) (u := uretBegun o s) Steer.noConfusion (uret_check h) ht.clear ?_ rfl
  refine returnUser_error (s := uretBegun o s) ?_
  rw [self_uretBegun]
  exact hf

/-- In a handler with a saved PCC that passes, `uret` goes there and leaves the handler. -/
theorem uret_installed {o : OpN} {s : State} (ht : Together s) (h : bitAt s.self.status 8 = true)
    (htag : s.self.utrap.epc.tag = true) (hf : installFault s.self.mode s.self.tid s.self.utrap.epc = none) :
    GoesTo (.uret o) s (s.withSelf { s.self with status := putBit s.self.status 8 false }) (installed s.self.utrap.epc) := by
  have hbody := returnUser_ok (s := uretBegun o s) (by rw [self_uretBegun]; exact htag) (by rw [self_uretBegun]; exact hf)
  rw [self_uretBegun] at hbody
  have hsame : SameAs (s.withSelf { s.self with status := putBit s.self.status 8 false })
      ((uretBegun o s).withSelf
        { s.self.begun (uretDesc o) with status := putBit (s.self.begun (uretDesc o)).status 8 false }) :=
    SameAs.of_withSelf ((Elsewhere.refl s).withSelf rfl _) rfl (fun _ => rfl) rfl
  refine hsame.goesTo (runWith_ok (prologue_clear (d := uretDesc o) Steer.noConfusion (uret_check h) ht.clear) hbody) ?_ ?_ <;>
    rw [State.self_withSelf]
  · exact ht.1
  · rfl

/-- Settles O20: outside a handler `ill`; then the checks of the saved PCC in their order; then the return. -/
theorem userReturn : Obligations.UserReturn := by
  intro o s ht
  refine ⟨fun h => ?_, fun h htag => ?_, fun c h htag hf => ?_, fun h htag hf => uret_installed ht h htag hf⟩
  · exact traps_of_takeCause (uret_outside h) ht (by decide)
  · exact traps_of_takeCause (uret_install_fault ht h (installSaved_untagged htag)) ht (by decide)
  · refine traps_of_takeCause (uret_install_fault ht h (installSaved_fault htag ?_)) ht (installFault_ne_syscall hf)
    rw [self_uretBegun]; exact hf

end Sys2Proof.Claims
end

section
/-! SUPPORT. Which strands run: what the operations on the state, and the actions that a strand's end is made of, leave of them;
and the end of a strand (R18, R138). -/

namespace Sys2Proof.Machine

/-! ## Which strands run -/

/-- The strands that run, by number. -/
def State.alive (s : State) : Nat → Bool := fun b => (s.strand b).live

theorem State.alive_withStrand (s : State) (b : Nat) (v : Strand) :
    (s.withStrand b v).alive = Function.update s.alive b v.live := by
  funext c
  by_cases h : c = b
  · subst h; simp [State.alive]
  · simp [State.alive, h, State.strand_withStrand_ne _ _ _ _ h]

/-- A strand changed in anything but whether it runs. -/
theorem State.alive_withStrand_of_live {s : State} {b : Nat} {v : Strand} (h : v.live = (s.strand b).live) :
    (s.withStrand b v).alive = s.alive := by
  rw [State.alive_withStrand, h]
  exact Function.update_eq_self b s.alive

/-- A fold of actions that each leave the running strands leaves them. -/
theorem State.alive_foldl {β : Type} {f : State → β → State} (hf : ∀ s b, (f s b).alive = s.alive) (s : State)
    (l : List β) : (l.foldl f s).alive = s.alive := by
  induction l generalizing s with
  | nil => rfl
  | cons b l ih => exact (ih (f s b)).trans (hf s b)

@[simp] theorem State.alive_withCore (s : State) (c : Nat) (v : CoreState) : (s.withCore c v).alive = s.alive := rfl

@[simp] theorem State.alive_putBytes (s : State) (a : Nat) (bs : List Byte) : (s.putBytes a bs).alive = s.alive := by
  induction bs generalizing s a with
  | nil => rfl
  | cons b bs ih => exact ih (s.putByte a b) (a + 1)

@[simp] theorem State.alive_putSector (s : State) (a : Nat) (bs : List Byte) : (s.putSector a bs).alive = s.alive := by
  unfold State.putSector
  split
  · exact s.alive_putBytes a bs
  · split
    · exact State.alive_putBytes { s with bad := storeAt 0 (canon a / 32) 0 s.bad } a bs
    · rfl

/-- Waking a strand does not start it. -/
@[simp] theorem State.alive_wakeLine (s : State) (line : Nat) : (s.wakeLine line).alive = s.alive := by
  refine State.alive_foldl (fun s sid => ?_) s _
  dsimp only
  split
  · exact State.alive_withStrand_of_live rfl
  · rfl

@[simp] theorem State.alive_wakeAt (s : State) (a : Nat) : (s.wakeAt a).alive = s.alive := by
  unfold State.wakeAt
  split <;> simp only [State.alive_wakeLine]

@[simp] theorem State.alive_l2Put (s : State) (a n : Nat) : (s.l2Put a n).alive = s.alive := by
  unfold State.l2Put
  split <;> rfl

@[simp] theorem State.alive_unregister (s : State) (line : Nat) : (s.unregister line).alive = s.alive := by
  unfold State.unregister
  split <;> rfl

@[simp] theorem State.alive_homePut (s : State) (a : Nat) (bs : List Byte) : (s.homePut a bs).alive = s.alive := by
  unfold State.homePut
  rw [State.alive_foldl (by simp), State.alive_foldl (by simp)]

@[simp] theorem State.alive_flushPartials (s : State) (line : Nat) (l : L1Line) (u : UpdateOnly) :
    (s.flushPartials line l u).alive = s.alive := by
  unfold State.flushPartials
  rw [State.alive_wakeAt, State.alive_l2Put, State.alive_foldl (by simp)]

@[simp] theorem State.alive_writeBackLine (s : State) (core line : Nat) : (s.writeBackLine core line).alive = s.alive := by
  unfold State.writeBackLine
  dsimp only
  split
  · simp only [State.alive_unregister, State.alive_withCore, State.alive_flushPartials]
  · split
    · rfl
    · rw [State.alive_withCore, State.alive_foldl, State.alive_foldl, State.alive_foldl]
      · simp only [State.alive_homePut, implies_true]
      · intro s e; split <;> rfl
      · intro s g; split <;> rfl

@[simp] theorem State.alive_leaveLine (s : State) (core line : Nat) : (s.leaveLine core line).alive = s.alive :=
  s.alive_writeBackLine core line

@[simp] theorem State.alive_recall (s : State) (line : Nat) : (s.recall line).alive = s.alive :=
  State.alive_foldl (fun s c => s.alive_leaveLine c line) s _

@[simp] theorem State.alive_recallRange (s : State) (a n : Nat) : (s.recallRange a n).alive = s.alive :=
  State.alive_foldl (fun s _ => s.alive_recall _) s _

@[simp] theorem State.alive_tlbPut (s : State) (group : Nat) (t : BitVec 12) (a : Nat) (e : TlbEntry) :
    (s.tlbPut group t a e).alive = s.alive := rfl

@[simp] theorem State.alive_charge (s : State) (colony res n : Nat) : (s.charge colony res n).alive = s.alive := by
  unfold State.charge
  split
  · split <;> rfl
  · rfl

/-- Dropping a pop changes home slots and the agenda. -/
@[simp] theorem State.alive_dropPop (s : State) (whole : Nat) : (s.dropPop whole).alive = s.alive := by
  refine State.alive_foldl (fun s d => State.alive_foldl (fun s e => ?_) s _) s _
  dsimp only
  split
  · split <;> rfl
  · rfl

/-! ## Actions that keep the running strands -/

/-- The action, met with the strands `r` running, completes and leaves `r` running; or it fails, which it does only if
`fails` holds. So `KeepsAlive False` says that an action completes besides, and `KeepsAlive True` that it may raise. -/
structure KeepsAlive {α : Type} (fails : Prop) (r : Nat → Bool) (m : M α) : Prop where
  run : ∀ s : State, s.alive = r → match m s with
    | .ok _ t => t.alive = r
    | .error _ _ => fails

namespace KeepsAlive

variable {α β : Type} {p : Prop} {r : Nat → Bool}

/-- An action that cannot fail completes. -/
theorem completes {m : M α} {s : State} (h : KeepsAlive False r m) (hs : s.alive = r) :
    ∃ a t, m s = .ok a t ∧ t.alive = r := by
  have := h.run s hs
  cases hms : m s with
  | ok a t => rw [hms] at this; exact ⟨a, t, rfl, this⟩
  | error e t => rw [hms] at this; exact this.elim

theorem pure (a : α) : KeepsAlive p r (pure a : M α) := ⟨fun _ h => h⟩
theorem throw (e : Exc) : KeepsAlive True r (throw e : M α) := ⟨fun _ _ => trivial⟩
theorem raise (c : BitVec 8) (v : Nat) : KeepsAlive True r (raise c v : M α) := ⟨fun _ _ => trivial⟩

theorem raiseIf (b : Bool) (c : BitVec 8) (v : Nat) : KeepsAlive True r (raiseIf b c v) := by
  cases b
  · exact pure ()
  · exact raise c v

theorem modify {f : State → State} (hf : ∀ s : State, (f s).alive = s.alive) : KeepsAlive p r (modify f : M PUnit) :=
  ⟨fun s h => (hf s).trans h⟩

theorem set {s : State} (h : s.alive = r) : KeepsAlive p r (set s : M PUnit) := ⟨fun _ _ => h⟩

theorem bind {m : M α} {f : α → M β} (hm : KeepsAlive p r m) (hf : ∀ a, KeepsAlive p r (f a)) :
    KeepsAlive p r (m >>= f) := by
  refine ⟨fun s h => ?_⟩
  have := hm.run s h
  simp only [Bind.bind, EStateM.bind]
  cases hms : m s with
  | ok a t => rw [hms] at this; exact (hf a).run t this
  | error e t => rw [hms] at this; exact this

/-- An action after a read of the state. -/
theorem get_bind {f : State → M β} (hf : ∀ s : State, s.alive = r → KeepsAlive p r (f s)) :
    KeepsAlive p r ((MonadState.get : M State) >>= f) := ⟨fun s h => (hf s h).run s h⟩

theorem ite {c : Prop} [Decidable c] {m n : M α} (hm : KeepsAlive p r m) (hn : KeepsAlive p r n) :
    KeepsAlive p r (if c then m else n) := by
  split
  · exact hm
  · exact hn

theorem forIn {l : List α} {b : β} {f : α → β → M (ForInStep β)} (hf : ∀ a b, KeepsAlive p r (f a b)) :
    KeepsAlive p r (forIn l b f) := by
  induction l generalizing b with
  | nil => exact pure b
  | cons a l ih =>
    rw [List.forIn_cons]
    refine (hf a b).bind fun step => ?_
    cases step with
    | done b => exact pure b
    | yield b => exact ih

theorem mapM {l : List α} {f : α → M β} (hf : ∀ a, KeepsAlive p r (f a)) : KeepsAlive p r (l.mapM f) := by
  induction l with
  | nil => rw [List.mapM_nil]; exact pure []
  | cons a l ih =>
    rw [List.mapM_cons]
    exact (hf a).bind fun _ => ih.bind fun _ => pure _

/-- What fails under `attempt` is undone; nothing else fails there. -/
theorem attempt {m : M α} (hm : KeepsAlive True r m) : KeepsAlive p r (attempt m) := by
  refine ⟨fun s h => ?_⟩
  have := hm.run s h
  simp only [Machine.attempt]
  cases hms : m s with
  | ok a t => rw [hms] at this; exact this
  | error e t => exact h

theorem asStrand {sid : Nat} {m : M α} (hm : KeepsAlive p r m) : KeepsAlive p r (asStrand sid m) := by
  refine ⟨fun s h => ?_⟩
  have := hm.run { s with cur := sid } h
  simp only [Machine.asStrand]
  cases hms : m { s with cur := sid } with
  | ok a t => rw [hms] at this; exact this
  | error e t => rw [hms] at this; exact this

theorem modStrand {b : Nat} {f : Strand → Strand} (hf : ∀ t, (f t).live = t.live) : KeepsAlive p r (modStrand b f) :=
  ⟨fun _ h => (State.alive_withStrand_of_live (hf _)).trans h⟩

theorem modCore (c : Nat) (f : CoreState → CoreState) : KeepsAlive p r (modCore c f) := ⟨fun _ h => h⟩
theorem post (e : Event) : KeepsAlive p r (post e) := ⟨fun _ h => h⟩
theorem homeRead (a n : Nat) : KeepsAlive p r (homeRead a n) := ⟨fun s h => (s.alive_recallRange a n).trans h⟩
theorem homeWrite (a : Nat) (bs : List Byte) : KeepsAlive p r (homeWrite a bs) :=
  ⟨fun s h => (State.alive_homePut _ a bs).trans ((s.alive_recallRange a bs.length).trans h)⟩

theorem checkSectors (va a n : Nat) : KeepsAlive True r (checkSectors va a n) := by
  refine ⟨fun s h => ?_⟩
  simp only [Machine.checkSectors]
  cases s.firstBad a n
  · exact h
  · trivial

/-- A check that raises, or else goes on. -/
theorem guard {c : Prop} [Decidable c] {code : BitVec 8} {v : Nat} {k : α → M β} {m : M β} (hk : KeepsAlive True r m) :
    KeepsAlive True r (if c then Machine.raise code v >>= k else m) :=
  ite ⟨fun _ _ => trivial⟩ hk

/-! ### Translation -/

theorem readPte (a va : Nat) : KeepsAlive True r (readPte a va) := by
  unfold Machine.readPte
  refine get_bind fun s hs => ite (bind (set ?_) fun _ => raise _ _) ((homeRead a 8).bind fun _ => pure _)
  exact hs

theorem walk (t : BitVec 12) (a : Nat) : KeepsAlive True r (walk t a) := by
  unfold Machine.walk
  refine get_bind fun s _ => guard ((readPte _ a).bind fun e0 => guard ((readPte _ a).bind fun e1 => guard ?_))
  refine ite (guard ?_) (guard ((readPte _ a).bind fun e2 => guard ?_))
  all_goals exact (pure _).bind fun ⟨e, level, ea⟩ => guard (guard (guard (pure (e, level, ea))))

theorem raiseControl (c : BitVec 8) (v : Word) : KeepsAlive True r (raiseControl c v) := by
  unfold Machine.raiseControl
  refine get_bind fun s _ => ?_
  split
  · exact ite (modStrand fun _ => rfl) (ite (throw _) (pure ()))
  · exact ite (throw _) (pure ())

theorem fillTlb (group : Nat) (t : BitVec 12) (a : Nat) (e : TlbEntry) : KeepsAlive p r (fillTlb group t a e) :=
  modify fun s => by dsimp only; split <;> rfl

theorem logDirty (colony : Nat) (t : BitVec 12) (a level : Nat) : KeepsAlive True r (logDirty colony t a level) := by
  unfold Machine.logDirty
  refine get_bind fun s _ => ?_
  split
  · exact pure ()
  split
  · exact pure ()
  next log _ =>
    extract_lets page lookup base jp
    have hlookup : ∀ va, KeepsAlive True r (lookup va) := fun va =>
      (attempt (walk _ va)).bind fun x => by cases x <;> exact pure _
    refine (hlookup base).bind fun head => ?_
    cases head with
    | none => exact pure ()
    | some h =>
      refine (homeRead h 24).bind fun hd => ite ?_ ?_
      · refine (hlookup _).bind fun place => ?_
        extract_lets mark
        have hmark : ∀ u, KeepsAlive True r (mark u) := fun u => (homeWrite _ _).bind fun _ =>
          bind (modify fun _ => rfl) fun _ => ite (pure ()) ((raiseControl _ _).bind fun _ => pure ())
        cases place with
        | none => exact hmark ()
        | some a => exact (homeRead _ _).bind fun old => (homeWrite _ _).bind hmark
      · refine bind ((hlookup _).bind fun place => ?_) fun _ => (homeWrite _ _).bind fun _ =>
          bind (modify fun _ => rfl) fun _ => pure ()
        cases place with
        | none => exact pure ()
        | some a => exact homeWrite _ _

theorem tlbEntryFor (group : Nat) (t : BitVec 12) (a : Nat) : KeepsAlive True r (tlbEntryFor group t a) := by
  unfold Machine.tlbEntryFor
  refine get_bind fun s hs => ite (pure _) (ite ?_ ?_)
  · exact (set ((s.alive_tlbPut _ t a _).trans hs)).bind fun _ => pure _
  · refine bind (set ?_) fun _ => (walk t a).bind fun ⟨pte, level, _⟩ => (fillTlb _ t a _).bind fun _ => pure _
    exact hs

theorem translateFor (group colony : Nat) (t : BitVec 12) (a : Nat) (perm : BitVec 12) :
    KeepsAlive True r (translateFor group colony t a perm) := by
  unfold Machine.translateFor
  refine (tlbEntryFor group t a).bind fun e => guard (ite ?_ ((pure e).bind fun _ => pure _))
  refine (walk t a).bind fun ⟨pte, level, ea⟩ => guard ?_
  exact (homeWrite _ _).bind fun _ => (fillTlb _ _ _ _).bind fun _ => (logDirty _ _ _ _).bind fun _ =>
    (pure _).bind fun _ => pure _

/-! ### Accesses of units -/

theorem checkRightsAs (id : Identity) (c : Reg) (perm : BitVec 12) (kinds : List Nat) :
    KeepsAlive True r (checkRightsAs id c perm kinds) :=
  (raiseIf _ _ _).bind fun _ => (raiseIf _ _ _).bind fun _ => (raiseIf _ _ _).bind fun _ => raiseIf _ _ _

theorem checkCapAs (id : Identity) (c : Reg) (perm : BitVec 12) (kinds : List Nat) (n : Nat) :
    KeepsAlive True r (checkCapAs id c perm kinds n) :=
  (checkRightsAs id c perm kinds).bind fun _ => (raiseIf _ _ _).bind fun _ => raiseIf _ _ _

theorem checkAtomicPlace (va pa : Nat) : KeepsAlive True r (checkAtomicPlace va pa) := by
  unfold Machine.checkAtomicPlace
  refine get_bind fun s _ => ite (pure ()) ?_
  split
  case h_5 => exact pure ()
  all_goals exact raise _ _

theorem portWrite (core off : Nat) (bs : List Byte) (src : BitVec 28) (path : Nat) :
    KeepsAlive p r (portWrite core off bs src path) := by
  unfold Machine.portWrite
  refine get_bind fun s _ => (forIn fun x _ => ?_).bind fun _ => pure ()
  exact ite ((modCore _ _).bind fun _ => (homeWrite _ _).bind fun _ => pure _) ((homeWrite _ _).bind fun _ => pure _)

theorem pathWrite (a : Nat) (bs : List Byte) (src : BitVec 28) (path : Nat) :
    KeepsAlive p r (pathWrite a bs src path) := by
  unfold Machine.pathWrite
  refine (forIn fun x _ => ?_).bind fun _ => pure ()
  split
  · exact (portWrite _ _ _ _ _).bind fun _ => pure _
  · exact (homeWrite _ _).bind fun _ => pure _

theorem sendPacket (pk : Packet) : KeepsAlive p r (sendPacket pk) := modify fun _ => rfl

theorem sendRequest (pk : Packet) (sid : Nat) (use : RequestUse) : KeepsAlive p r (sendRequest pk sid use) :=
  ⟨fun s h => (s.alive_charge _ _ _).trans h⟩

theorem fillFuture (use : RequestUse) (group : Nat) (id : Identity) (c : Reg) (perm : BitVec 12) (value : Word) :
    KeepsAlive p r (fillFuture use group id c perm value) := by
  unfold Machine.fillFuture
  refine bind (attempt ?_) fun x => ?_
  · exact (checkCapAs _ _ _ _ _).bind fun _ => get_bind fun s _ => (translateFor _ _ _ _ _).bind fun ⟨pa, pte⟩ =>
      (raiseIf _ _ _).bind fun _ => (checkAtomicPlace _ _).bind fun _ => pure pa
  split
  · exact pure _
  · exact pure _
  · refine get_bind fun s _ => ite ((sendRequest _ _ _).bind fun _ => pure _) (ite (pure _) ?_)
    exact (homeRead _ _).bind fun cell => ite (pure _) ((pathWrite _ _ _ _).bind fun _ => pure _)

theorem unitRead (group : Nat) (id : Identity) (c : Reg) (n : Nat) : KeepsAlive p r (unitRead group id c n) := by
  unfold Machine.unitRead
  refine bind (attempt ?_) fun x => by cases x <;> exact pure _
  exact (checkCapAs _ _ _ _ _).bind fun _ => get_bind fun s _ => (translateFor _ _ _ _ _).bind fun ⟨pa, _⟩ =>
    guard ((checkSectors _ _ _).bind fun _ => homeRead _ _)

/-! ### Scout interrupts, launches and colonies -/

theorem holdScout (colony : Nat) (value : Word) : KeepsAlive p r (holdScout colony value) :=
  modify fun s => by split <;> rfl

theorem returnScout (colony sid : Nat) (t : Strand) : KeepsAlive p r (returnScout colony sid t) := by
  unfold Machine.returnScout
  refine (forIn fun e _ => ?_).bind fun _ => modStrand fun _ => rfl
  exact ite ((holdScout _ _).bind fun _ => pure _) ((pure _).bind fun _ => pure _)

theorem releaseScout (colony : Nat) : KeepsAlive p r (releaseScout colony) := by
  unfold Machine.releaseScout
  refine get_bind fun s _ => (forIn fun sid _ => (returnScout _ _ _).bind fun _ => pure _).bind fun _ =>
    get_bind fun s _ => ?_
  split
  · exact bind (forIn fun e _ => bind (modStrand fun _ => rfl) fun _ => pure _) fun _ => modify fun _ => rfl
  · exact pure ()

theorem scoutInterrupt (colony : Nat) (value : Word) : KeepsAlive p r (scoutInterrupt colony value) := by
  unfold Machine.scoutInterrupt
  refine (releaseScout _).bind fun _ => get_bind fun s _ => ?_
  refine bind (forIn fun sid _ => bind (modStrand fun _ => rfl) fun _ => pure _) fun _ => ?_
  exact (holdScout _ _).bind fun _ => releaseScout _

theorem fillCompletion (l : Launch) (value : Word) : KeepsAlive p r (fillCompletion l value) := by
  unfold Machine.fillCompletion
  refine ite ((fillFuture _ _ _ _ _ _).bind fun x => ?_) (pure ())
  cases x with
  | none => exact pure ()
  | some c => exact scoutInterrupt _ _

theorem ringPending (x : Ring) : KeepsAlive p r (ringPending x) :=
  (unitRead _ _ _ _).bind fun wp => by cases wp <;> exact pure _

theorem settleColony (colony : Nat) : KeepsAlive p r (settleColony colony) := by
  unfold Machine.settleColony
  refine get_bind fun s _ => ?_
  split
  · exact pure ()
  · refine ite ((mapM ringPending).bind fun waiting => ite (pure ()) ?_) (pure ())
    exact modify fun _ => rfl

theorem endOfLaunch (launch : Nat) (failure : Option Word) : KeepsAlive p r (endOfLaunch launch failure) := by
  unfold Machine.endOfLaunch
  refine get_bind fun s _ => ?_
  split
  · exact pure ()
  · exact bind (modify fun _ => rfl) fun _ => ite (fillCompletion _ _) (pure ())

theorem settleStops (colony : Nat) : KeepsAlive p r (settleStops colony) := by
  unfold Machine.settleStops
  refine get_bind fun s _ => ite ?_ (pure ())
  exact bind (modify fun _ => rfl) fun _ => bind (forIn fun l _ => bind (fillCompletion _ _) fun _ => pure _) fun _ => pure ()

theorem settleYield (colony : Nat) : KeepsAlive p r (settleYield colony) := by
  unfold Machine.settleYield
  refine get_bind fun s _ => ?_
  split
  · exact ite (post _) (pure ())
  · exact pure ()

/-! ### Barrier networks, tasks and lanes -/

theorem announceTerm (scope g sid : Nat) : KeepsAlive p r (announceTerm scope g sid) := by
  unfold Machine.announceTerm
  refine get_bind fun s hs => ite (pure ()) (bind (set ?_) fun _ => ?_)
  · exact hs
  · exact (forIn fun e _ => (sendPacket _).bind fun _ => pure _).bind fun _ => pure ()

theorem testReduction (scope g sid : Nat) : KeepsAlive p r (testReduction scope g sid) := by
  unfold Machine.testReduction
  refine get_bind fun s hs => ite (pure ()) (ite (pure ()) (ite (ite (pure ()) (bind (set ?_) fun _ => sendPacket _)) ?_))
  · exact hs
  · split
    · exact pure ()
    · exact ite (post _) (pure ())

theorem testPhase (scope g sid : Nat) : KeepsAlive p r (testPhase scope g sid) := by
  unfold Machine.testPhase
  refine (announceTerm _ _ _).bind fun _ => get_bind fun s _ => ite ?_ (testReduction _ _ _)
  refine bind (forIn fun b _ => ite (bind (modStrand fun _ => rfl) fun _ => pure _) (pure _)) fun _ => ?_
  extract_lets host
  have hhost : ∀ u, KeepsAlive p r (host u) := fun u =>
    ite (bind (forIn fun e _ => ite (bind (modify fun _ => rfl) fun _ => pure _) (pure _)) fun _ => testReduction _ _ _)
      (testReduction _ _ _)
  refine ite (bind (modify fun _ => rfl) fun _ => ?_) (hhost ())
  refine bind (forIn fun e _ => bind (modify fun _ => rfl) fun _ => pure _) fun _ => bind (modify fun _ => rfl) fun _ => ?_
  exact (announceTerm _ _ _).bind hhost

theorem sendTaskEnd (t : TaskId) : KeepsAlive p r (sendTaskEnd t) := get_bind fun _ _ => ite (post _) (sendPacket _)

theorem abandonPop (sid : Nat) (t : Strand) : KeepsAlive p r (abandonPop sid t) := by
  unfold Machine.abandonPop
  split
  · exact pure ()
  · refine get_bind fun s hs => ?_
    split
    · exact asStrand (sendTaskEnd _)
    · exact pure ()
    · exact ite (set ((s.alive_dropPop _).trans hs)) (asStrand (sendPacket _))

theorem offerLanes (q : Nat) : KeepsAlive p r (offerLanes q) := get_bind fun _ _ => ite (pure ()) (post _)

/-- After an action that completes and keeps the running strands `r`, a strand outside `r` does not run. -/
theorem ends {m : M Unit} {s : State} {b : Nat} (h : KeepsAlive False r m) (hs : s.alive = r) (hb : r b = false) :
    ∃ t, m s = .ok () t ∧ (t.strand b).live = false := by
  obtain ⟨⟨⟩, t, hm, ht⟩ := h.completes hs
  exact ⟨t, hm, (congrFun ht b).trans hb⟩

end KeepsAlive

theorem getStrand_run (b : Nat) (s : State) : getStrand b s = .ok (s.strand b) s := rfl
theorem setStrand_run (b : Nat) (t : Strand) (s : State) : setStrand b t s = .ok () (s.withStrand b t) := rfl
theorem modCore_run (c : Nat) (f : CoreState → CoreState) (s : State) :
    modCore c f s = .ok () (s.withCore c (f (s.core c))) := rfl
theorem modQuad_run (q : Nat) (f : QuadState → QuadState) (s : State) :
    modQuad q f s = .ok () (s.withQuad q (f (s.quad q))) := rfl

/-- The end of a strand completes, and the strand runs no more (R138): nothing behind the step that makes it idle starts or
ends a strand. -/
theorem endStrand_ends (sid : Nat) (failure : Option Word) (s : State) :
    ∃ t, endStrand sid failure s = .ok () t ∧ (t.strand sid).live = false := by
  unfold endStrand
  rw [M.bind_ok (getStrand_run sid s)]
  split
  · rw [M.bind_ok (M.get_run s)]
    extract_lets settle
    rw [M.bind_ok (modQuad_run _ _ _), M.bind_ok (modCore_run _ _ _), M.bind_ok (setStrand_run _ _ _)]
    have hsettle : ∀ u, KeepsAlive False (Function.update s.alive sid false) (settle u) := fun _ =>
      (KeepsAlive.endOfLaunch _ _).bind fun _ => (KeepsAlive.settleStops _).bind fun _ =>
        (KeepsAlive.settleYield _).bind fun _ => KeepsAlive.settleColony _
    refine KeepsAlive.ends (r := Function.update s.alive sid false) ?_ (State.alive_withStrand _ _ _) (by simp)
    refine (KeepsAlive.returnScout _ _ _).bind fun _ => (KeepsAlive.releaseScout _).bind fun _ =>
      (KeepsAlive.abandonPop _ _).bind fun _ => ?_
    refine .bind (.forIn fun g _ => (KeepsAlive.testPhase _ _ _).bind fun _ => .pure _) fun _ => ?_
    refine .bind (.forIn fun k _ => (KeepsAlive.sendTaskEnd k).asStrand.bind fun _ => .pure _) fun _ => ?_
    exact (KeepsAlive.offerLanes _).bind fun _ => .ite (.bind (.modify fun _ => rfl) hsettle) (hsettle ())
  · next h => exact ⟨s, rfl, by simpa using h⟩

end Sys2Proof.Machine
end

section
/-! SUPPORT. Which mode handles a cause, and what happens where none does (R135). -/

namespace Sys2Proof.Machine

/-- R135, rule 1: whether the user handler takes a cause. -/
def Strand.userTakes (t : Strand) (c : BitVec 8) : Prop :=
  1 ≤ c.toNat ∧ c.toNat ≤ 6 ∧ t.mode = .user ∧ bitAt t.status 0 = true ∧ bitAt t.status 8 = false ∧ t.utrap.tvec.tag

/-- R134, R135, rules 2 and 3: whether a cause is hypervisor's from the start. -/
def Strand.startsAtHypervisor (t : Strand) (c : BitVec 8) : Prop :=
  t.mode = .hypervisor ∨ c = cSlice ∨ c = cDirtyLog ∨ c = cMachine

theorem userCause_iff (c : BitVec 8) : userCause c = true ↔ 1 ≤ c.toNat ∧ c.toNat ≤ 6 := by
  have hzero : c = 0 ↔ c.toNat = 0 := by rw [← BitVec.toNat_inj]; rfl
  simp only [userCause, Bool.and_eq_true, decide_eq_true_eq, hzero, ne_eq]
  omega

theorem hyperCause_iff (c : BitVec 8) : hyperCause c = true ↔ c = cSlice ∨ c = cDirtyLog ∨ c = cMachine := by
  simp only [hyperCause, Bool.or_eq_true, decide_eq_true_eq, or_assoc]

theorem Strand.startsAtHypervisor_iff (t : Strand) (c : BitVec 8) :
    (t.mode = .hypervisor || hyperCause c) = true ↔ t.startsAtHypervisor c := by
  simp only [Strand.startsAtHypervisor, Bool.or_eq_true, decide_eq_true_eq, hyperCause_iff]

section TargetMode

variable {t : Strand} {c : BitVec 8}

theorem Strand.targetMode_of_userTakes (h : t.userTakes c) : t.targetMode c = some .user := by
  obtain ⟨hlo, hhi, hmode, hute, huin, htag⟩ := h
  simp [Strand.targetMode, (userCause_iff c).mpr ⟨hlo, hhi⟩, hmode, hute, huin, htag]

/-- A cause that the user handler does not take goes to the first mode above that has a handler. -/
theorem Strand.targetMode_promoted (h : ¬t.userTakes c) : t.targetMode c =
    if (t.mode = .hypervisor || hyperCause c) = false ∧ t.strap.tvec.tag = true then some .supervisor
    else if t.htrap.tvec.tag then some .hypervisor else none := by
  have huser : (userCause c && t.mode = .user && bitAt t.status 0 && !bitAt t.status 8 && t.utrap.tvec.tag) = false := by
    rw [← Bool.not_eq_true]
    simpa [userCause_iff, Strand.userTakes, and_assoc] using h
  unfold Strand.targetMode
  rw [huser]
  cases (decide (t.mode = .hypervisor) || hyperCause c) <;> simp

theorem Strand.targetMode_supervisor (h : ¬t.userTakes c) (hs : ¬t.startsAtHypervisor c)
    (htag : t.strap.tvec.tag = true) : t.targetMode c = some .supervisor := by
  rw [← Strand.startsAtHypervisor_iff, Bool.not_eq_true] at hs
  rw [Strand.targetMode_promoted h, if_pos ⟨hs, htag⟩]

/-- A cause of hypervisor, or one that supervisor has no handler for, has at most hypervisor to handle it. -/
theorem Strand.targetMode_hypervisor (h : ¬t.userTakes c) (hs : t.startsAtHypervisor c ∨ t.strap.tvec.tag = false) :
    t.targetMode c = if t.htrap.tvec.tag then some .hypervisor else none := by
  rw [Strand.targetMode_promoted h, if_neg]
  rintro ⟨hfirst, htag⟩
  rcases hs with hs | hs
  · exact Bool.false_ne_true (hfirst.symm.trans ((t.startsAtHypervisor_iff c).mpr hs))
  · exact Bool.false_ne_true (hs.symm.trans htag)

end TargetMode

end Sys2Proof.Machine

namespace Sys2Proof.Claims

open Sys2Proof.Machine

/-- A cause that no mode handles ends the strand; all that the delivery has done before is to withdraw what the strand has
posted (R135, rule 4). -/
theorem deliver_unhandled {s : State} {c : BitVec 8} (h : s.self.targetMode c = none) (v : Word) (v2 : Option Word)
    (ex : Bool) (ret : Reg) :
    deliver c v v2 ex ret s = endStrand s.cur (some ((withdrawn s).faultValue s.cur c)) (withdrawn s) := by
  have hself : (withdrawn s).self = s.self := rfl
  have hwithdraw : withdraw s.cur s = .ok () (withdrawn s) := rfl
  unfold deliver
  rw [M.bind_ok (show curSid s = .ok s.cur s from rfl), M.bind_ok hwithdraw, M.bind_ok (M.get_run _)]
  simp only [hself, Strand.targetMode_settle, h, cur_withdrawn]

/-- Settles O17: the choice of the mode by R135's four rules; and where they leave none, the delivery is the strand's end. -/
theorem handlerChoice : Obligations.HandlerChoice := by
  refine ⟨fun t c => ⟨Strand.targetMode_of_userTakes, fun hu hh htag => Strand.targetMode_supervisor hu hh htag, ?_, ?_⟩, ?_⟩
  · intro hu hs htag
    rw [Strand.targetMode_hypervisor hu hs, if_pos htag]
  · intro hu hs htag
    rw [Strand.targetMode_hypervisor hu hs, htag]; rfl
  · intro s c v v2 ex ret _ hnone
    rw [deliver_unhandled hnone]
    exact endStrand_ends s.cur _ (withdrawn s)

end Sys2Proof.Claims
end

section
/-! SUPPORT. Encoding and decoding: what the chain of an encoded instruction reads as, and that its fields come back (R24 to R38). -/

namespace Sys2Proof

/-! ### Words -/

theorem wordMajor_eq (w : IWord) : wordMajor w = (w.extractLsb' 8 6).toNat := by
  simp [wordMajor, BitVec.extractLsb'_toNat, Nat.shiftRight_eq_div_pow]

theorem wordMajor_mkChainWord {m : Nat} (h : m < 64) (p : BitVec 10) : wordMajor (mkChainWord m p) = m := by
  have hfield : (mkChainWord m p).extractLsb' 8 6 = BitVec.ofNat 6 m := by
    unfold mkChainWord
    ext i hi
    simp only [BitVec.getElem_extractLsb', BitVec.getLsbD_append]
    rw [if_neg (by omega), if_pos (by omega)]
    grind
  rw [wordMajor_eq, hfield, BitVec.toNat_ofNat, Nat.mod_eq_of_lt h]

theorem wordMajor_mkWord {m : Nat} (h : m < 64) (s : Stall) (a b : BitVec 4) : wordMajor (mkWord s m a b) = m := by
  have hfield : (mkWord s m a b).extractLsb' 8 6 = BitVec.ofNat 6 m := by
    unfold mkWord
    ext i hi
    simp only [BitVec.getElem_extractLsb', BitVec.getLsbD_append]
    rw [if_neg (by omega), if_neg (by omega), if_pos (by omega)]
    grind
  rw [wordMajor_eq, hfield, BitVec.toNat_ofNat, Nat.mod_eq_of_lt h]

@[simp] theorem wordPayload_mkChainWord (m : Nat) (p : BitVec 10) : wordPayload (mkChainWord m p) = p := by
  unfold wordPayload mkChainWord
  ext i hi
  simp only [BitVec.getElem_append, BitVec.getElem_extractLsb', BitVec.getLsbD_append]
  grind

@[simp] theorem wordS_mkWord (s : Stall) (m : Nat) (a b : BitVec 4) : wordS (mkWord s m a b) = s := by
  unfold wordS mkWord
  ext i hi
  simp only [BitVec.getElem_extractLsb', BitVec.getLsbD_append]
  grind

@[simp] theorem wordA_mkWord (s : Stall) (m : Nat) (a b : BitVec 4) : wordA (mkWord s m a b) = a := by
  unfold wordA mkWord
  ext i hi
  simp only [BitVec.getElem_extractLsb', BitVec.getLsbD_append]
  grind

@[simp] theorem wordB_mkWord (s : Stall) (m : Nat) (a b : BitVec 4) : wordB (mkWord s m a b) = b := by
  unfold wordB mkWord
  ext i hi
  simp only [BitVec.getElem_extractLsb', BitVec.getLsbD_append]
  grind

/-! ### Chains -/

/-- The chain with the payload of one more chain word. -/
def Chain.push (m : Nat) (p : BitVec 10) (c : Chain) : Chain :=
  let c := { c with pos := c.pos + 1 }
  if m = 0x3C then { c with page := some p }
  else if m = 0x3D then { c with pxr := some p }
  else if m = 0x3E then { c with pxm := some p }
  else { c with pxi := c.pxi ++ [p] }

/-- A base word ends the chain. -/
theorem readChain_base {w : IWord} (h : wordMajor w < 0x3C) (ws : List IWord) (rank : Nat) (c : Chain) :
    readChain (w :: ws) rank c = some (.ok { c with base := w }) := by
  simp only [readChain, if_pos h]

/-- A chain word whose place and number the rules allow joins the chain (R27). -/
theorem readChain_push {m : Nat} {p : BitVec 10} {ws : List IWord} {rank : Nat} {c : Chain} (hm : 0x3C ≤ m ∧ m ≤ 0x3F)
    (hpos : c.pos < 4) (hrank : rank < m ∨ rank = m ∧ m = 0x3F) (hpxi : m = 0x3F → c.pxi.length < 3) :
    readChain (mkChainWord m p :: ws) rank c = readChain ws m (c.push m p) := by
  have hmajor := wordMajor_mkChainWord (show m < 64 by omega) p
  simp only [readChain, hmajor, wordPayload_mkChainWord, Chain.push]
  rw [if_neg (by omega), if_neg (by omega), if_neg (by omega), if_neg (by omega), if_neg (by omega)]
  split_ifs <;> rfl

/-- An optional chain word. -/
def optWord (m : Nat) : Option (BitVec 10) → List IWord
  | none => []
  | some p => [mkChainWord m p]

def Chain.pushOpt (m : Nat) : Option (BitVec 10) → Chain → Chain
  | none, c => c
  | some p, c => c.push m p

/-- Reading an optional chain word behind words of smaller majors. -/
theorem readChain_optWord {m : Nat} {o : Option (BitVec 10)} {ws : List IWord} {rank : Nat} {c : Chain} {r : Option (Except DecodeError Chain)}
    (hm : 0x3C ≤ m ∧ m < 0x3F) (hpos : c.pos + (optWord m o).length ≤ 4) (hrank : rank < m)
    (hr : ∀ k ≤ m, readChain ws k (c.pushOpt m o) = r) : readChain (optWord m o ++ ws) rank c = r := by
  cases o with
  | none => exact hr rank (by omega)
  | some p =>
    have hlen : (optWord m (some p)).length = 1 := rfl
    exact (readChain_push (by omega) (by omega) (.inl hrank) (by omega)).trans (hr m (le_refl m))

/-- Reading the immediate words, which come last before the base word. -/
theorem readChain_pxi {b : IWord} (hb : wordMajor b < 0x3C) (ps : List (BitVec 10)) (rank : Nat) (c : Chain)
    (hpos : c.pos + ps.length ≤ 4) (hpxi : c.pxi.length + ps.length ≤ 3) (hrank : rank ≤ 0x3F) :
    readChain (ps.map (mkChainWord 0x3F) ++ [b]) rank c =
      some (.ok { c with pxi := c.pxi ++ ps, base := b, pos := c.pos + ps.length }) := by
  induction ps generalizing rank c with
  | nil => simpa using readChain_base hb [] rank c
  | cons p ps ih =>
    simp only [List.length_cons] at hpos hpxi
    rw [List.map_cons, List.cons_append, readChain_push (by omega) (by omega) (by omega) (by omega),
      ih 0x3F (c.push 0x3F p) (by simp [Chain.push]; omega) (by simp [Chain.push]; omega) (le_refl _)]
    simp [Chain.push, Nat.add_assoc, Nat.add_comm]

/-- The words of a whole chain. -/
def chainWords (page pxr pxm : Option (BitVec 10)) (pxi : List (BitVec 10)) (b : IWord) : List IWord :=
  optWord 0x3C page ++ (optWord 0x3D pxr ++ (optWord 0x3E pxm ++ (pxi.map (mkChainWord 0x3F) ++ [b])))

theorem Chain.pos_pushOpt (m : Nat) (o : Option (BitVec 10)) (c : Chain) :
    (c.pushOpt m o).pos = c.pos + (optWord m o).length := by
  cases o with
  | none => rfl
  | some p => simp only [Chain.pushOpt, Chain.push, optWord]; split_ifs <;> rfl

theorem Chain.pxi_pushOpt {m : Nat} (hm : 0x3C ≤ m ∧ m < 0x3F) (o : Option (BitVec 10)) (c : Chain) : (c.pushOpt m o).pxi = c.pxi := by
  cases o with
  | none => rfl
  | some p =>
    simp only [Chain.pushOpt, Chain.push]
    split_ifs
    · rfl
    · rfl
    · rfl
    · omega

/-- A chain that is not too long reads as its parts (R27). -/
theorem readChain_chainWords {page pxr pxm : Option (BitVec 10)} {pxi : List (BitVec 10)} {b : IWord}
    (hb : wordMajor b < 0x3C) (hpxi : pxi.length ≤ 3) (hlen : (chainWords page pxr pxm pxi b).length ≤ 5) :
    readChain (chainWords page pxr pxm pxi b) 0 Chain.empty =
      some (.ok ⟨page, pxr, pxm, pxi, b, (chainWords page pxr pxm pxi b).length - 1⟩) := by
  simp only [chainWords, List.length_append, List.length_map, List.length_singleton] at *
  have hempty : Chain.empty.pos = 0 := rfl
  refine readChain_optWord (by omega) (by omega) (by omega) fun k hk => ?_
  refine readChain_optWord (by omega) (by rw [Chain.pos_pushOpt]; omega) (by omega) fun k hk => ?_
  refine readChain_optWord (by omega) (by simp only [Chain.pos_pushOpt]; omega) (by omega) fun k hk => ?_
  rw [readChain_pxi hb pxi k]
  · cases page <;> cases pxr <;> cases pxm <;>
      simp [Chain.pushOpt, Chain.push, Chain.empty, optWord] <;> omega
  · simp only [Chain.pos_pushOpt]; omega
  · simpa [Chain.pxi_pushOpt, Chain.empty] using hpxi
  · omega

/-! ### Immediates -/

/-- The payloads of an immediate, read as one number (R29). -/
theorem foldl_pxiPayloads (base n : Nat) (i : Imm) :
    (pxiPayloads base n i).foldl (fun acc p => acc * 1024 + p.toNat) 0 = i.toNat / 2 ^ base % 2 ^ (10 * n) := by
  have hstep : ∀ n acc, (pxiPayloads base n i).foldl (fun acc p => acc * 1024 + p.toNat) acc =
      acc * 2 ^ (10 * n) + i.toNat / 2 ^ base % 2 ^ (10 * n) := by
    intro n
    induction n with
    | zero => intro acc; simp [pxiPayloads, Nat.mod_one]
    | succ n ih =>
      intro acc
      have hdiv : i.toNat / 2 ^ (base + 10 * n) = i.toNat / 2 ^ base / 2 ^ (10 * n) := by
        rw [Nat.pow_add, Nat.div_div_eq_div_mul]
      simp only [pxiPayloads, List.foldl_cons, ih, BitVec.extractLsb'_toNat, Nat.shiftRight_eq_div_pow, hdiv]
      generalize i.toNat / 2 ^ base = v
      rw [show 2 ^ (10 * (n + 1)) = 2 ^ (10 * n) * 2 ^ 10 by rw [← pow_add, Nat.mul_succ], Nat.mod_mul]
      ring
  rw [hstep]; simp

theorem length_pxiPayloads (base n : Nat) (i : Imm) : (pxiPayloads base n i).length = n := by
  induction n with
  | zero => rfl
  | succ n ih => simp [pxiPayloads, ih]

/-- The low bits of an immediate that they hold extend to it (R29). -/
theorem extend_low {sg : Bool} {i : Imm} {v w : Nat} (hv : v = i.toNat % 2 ^ w) (hfit : immWidthFits sg i w = true) :
    (if sg && 2 ^ w ≤ 2 * v then BitVec.ofInt 34 ((v : Int) - (2 ^ w : Nat)) else BitVec.ofNat 34 v) = i := by
  have hlow : (i.setWidth w).toNat = v := by rw [BitVec.toNat_setWidth, hv]
  cases sg with
  | false =>
    simp only [immWidthFits, Bool.false_eq_true, if_false, beq_iff_eq] at hfit
    rw [if_neg (by simp), ← hlow]
    rwa [← BitVec.ofNat_toNat] at hfit
  | true =>
    simp only [immWidthFits, if_true, beq_iff_eq] at hfit
    have hext : BitVec.ofInt 34 (i.setWidth w).toInt = i := hfit
    rw [BitVec.toInt_eq_toNat_cond, hlow] at hext
    simp only [Bool.true_and, decide_eq_true_eq]
    split_ifs with h
    · rwa [if_neg (by omega)] at hext
    · rwa [if_pos (by omega)] at hext

/-- An immediate that its width holds is assembled again from its payloads and base bits (R29). -/
theorem assembleImm_none {sg : Bool} {n : Nat} {i : Imm} (hfit : immWidthFits sg i (0 + 10 * n) = true) :
    assembleImm sg (pxiPayloads 0 n i) none = i := by
  simp only [assembleImm, foldl_pxiPayloads, length_pxiPayloads]
  exact extend_low (by simp) (by simpa using hfit)

theorem assembleImm_some {sg : Bool} {n : Nat} {i : Imm} (hfit : immWidthFits sg i (4 + 10 * n) = true) :
    assembleImm sg (pxiPayloads 4 n i) (some (i.extractLsb' 0 4)) = i := by
  simp only [assembleImm, foldl_pxiPayloads, length_pxiPayloads]
  refine extend_low ?_ hfit
  rw [BitVec.extractLsb'_toNat, pow_add, Nat.mod_mul]
  simp only [Nat.shiftRight_zero]
  ring

/-- The least number of payloads suffices where three do. -/
theorem immWidthFits_pxiCount {sg : Bool} {base : Nat} {i : Imm} (h : immWidthFits sg i (base + 30) = true) :
    immWidthFits sg i (base + 10 * pxiCount sg base i) = true := by
  unfold pxiCount
  split_ifs <;> assumption

theorem pxiCount_le (sg : Bool) (base : Nat) (i : Imm) : pxiCount sg base i ≤ 3 := by
  unfold pxiCount
  split_ifs <;> omega

/-- Thirty-four bits hold every immediate. -/
theorem immWidthFits_full (sg : Bool) (i : Imm) : immWidthFits sg i 34 = true := by
  cases sg <;> simp [immWidthFits]

theorem eq_zero_of_immWidthFits {sg : Bool} {i : Imm} (h : immWidthFits sg i 0 = true) : i = 0 := by
  have hlow : i.setWidth 0 = 0 := BitVec.of_length_zero
  cases sg
  · simp only [immWidthFits, Bool.false_eq_true, if_false, hlow, beq_iff_eq] at h
    exact h.symm
  · simp only [immWidthFits, if_true, hlow, beq_iff_eq] at h
    exact h.symm

/-! ### Fields -/

/-- The payload that carries the registers' high bits and the third register, where one is needed (R28). -/
def Fields.pxrWord (needsR : Bool) (f : Fields) : Option (BitVec 10) :=
  if needsR || f.c.isSome || f.a.extractLsb' 4 2 ≠ 0 || f.b.extractLsb' 4 2 ≠ 0 then
    some (f.c.getD 0 ++ f.b.extractLsb' 4 2 ++ f.a.extractLsb' 4 2)
  else none

/-- The payloads of the immediate under a shape. -/
def Fields.pxiWords (sg : Bool) (base : Nat) (needsI : Bool) (f : Fields) : List (BitVec 10) :=
  pxiPayloads base (max (pxiCount sg base f.imm) (if needsI then 1 else 0)) f.imm

/-- The words of the fields are those of a chain. -/
theorem encodeFields_eq {page major : Nat} {sh : Shape} {f : Fields} {sg needsI needsR : Bool} {base : Nat}
    (h : sh.layout = (sg, base, needsI, needsR)) : encodeFields page major sh f =
      chainWords (if page = 0 then none else some (BitVec.ofNat 10 page)) (f.pxrWord needsR) f.pxm
        (f.pxiWords sg base needsI) (mkWord f.st major (f.a.extractLsb' 0 4)
          (if base = 4 then f.imm.extractLsb' 0 4 else f.b.extractLsb' 0 4)) := by
  simp only [encodeFields, h, chainWords, Fields.pxrWord, Fields.pxiWords, List.append_assoc]
  cases f.pxm <;> split_ifs <;> rfl

theorem Fields.pxrWord_a (needsR : Bool) (f : Fields) :
    ((f.pxrWord needsR).getD 0).extractLsb' 0 2 ++ f.a.extractLsb' 0 4 = f.a := by
  have hhigh : ((f.pxrWord needsR).getD 0).extractLsb' 0 2 = f.a.extractLsb' 4 2 := by
    unfold pxrWord
    split_ifs with h
    · ext i hi
      simp only [Option.getD_some, BitVec.getElem_extractLsb', BitVec.getLsbD_append]
      grind
    · simp only [Bool.or_eq_true, decide_eq_true_eq, not_or, not_not] at h
      rw [h.1.2]; rfl
  rw [hhigh]
  ext i hi
  simp only [BitVec.getElem_append, BitVec.getElem_extractLsb']
  grind

theorem Fields.pxrWord_b (needsR : Bool) (f : Fields) :
    ((f.pxrWord needsR).getD 0).extractLsb' 2 2 ++ f.b.extractLsb' 0 4 = f.b := by
  have hhigh : ((f.pxrWord needsR).getD 0).extractLsb' 2 2 = f.b.extractLsb' 4 2 := by
    unfold pxrWord
    split_ifs with h
    · ext i hi
      simp only [Option.getD_some, BitVec.getElem_extractLsb', BitVec.getLsbD_append]
      grind
    · simp only [Bool.or_eq_true, decide_eq_true_eq, not_or, not_not] at h
      rw [h.2]; rfl
  rw [hhigh]
  ext i hi
  simp only [BitVec.getElem_append, BitVec.getElem_extractLsb']
  grind

theorem Fields.pxrWord_c (needsR : Bool) (f : Fields) : ((f.pxrWord needsR).getD 0).extractLsb' 4 6 = f.c.getD 0 := by
  unfold pxrWord
  split_ifs with h
  · ext i hi
    simp only [Option.getD_some, BitVec.getElem_extractLsb', BitVec.getLsbD_append]
    grind
  · simp only [Bool.or_eq_true, decide_eq_true_eq, not_or, not_not, Bool.not_eq_true, Option.isSome_eq_false_iff,
      Option.isNone_iff_eq_none] at h
    rw [h.1.1.2]; rfl

/-- With neither a second nor a third register their bits are clear. -/
theorem Fields.pxrWord_bc {needsR : Bool} {f : Fields} (hb : f.b = 0) (hc : f.c = none) :
    ((f.pxrWord needsR).getD 0).extractLsb' 2 8 = 0 := by
  have hhigh : ((f.pxrWord needsR).getD 0).extractLsb' 2 8 = f.c.getD 0 ++ f.b.extractLsb' 4 2 := by
    unfold pxrWord
    split_ifs with h
    · ext i hi
      simp only [Option.getD_some, BitVec.getElem_extractLsb', BitVec.getLsbD_append]
      grind
    · simp only [hc, hb]; rfl
  rw [hhigh, hb, hc]; rfl

/-- What a shape and its class let the fields be, so that their words hold them (R28 to R31). -/
def Fields.Fit (sh : Shape) (cl : PxmClass) (f : Fields) : Prop :=
  (cl != .none || f.pxm.isNone) = true ∧
  match sh with
  | .n => f.a = 0 ∧ f.b = 0 ∧ f.c = none ∧ f.imm = 0
  | .i _ => f.a = 0 ∧ f.b = 0 ∧ f.c = none
  | .r => f.b = 0 ∧ f.c = none ∧ f.imm = 0
  | .ri _ => f.b = 0 ∧ f.c = none
  | .rr three => f.imm = 0 ∧ (three = false → f.c = none)
  | .rx sg _ => f.c = none ∧ immWidthFits sg f.imm 30 = true
  | .rrr sg => f.c.isSome = true ∧ immWidthFits sg f.imm 30 = true

/-- The fields that are read back: with two sources or one, a third register is named as 0 where another needs its
payload (R28). -/
def Fields.read (sh : Shape) (f : Fields) : Fields :=
  match sh with
  | .rr true => { f with c := if (f.pxrWord false).isSome then some (f.c.getD 0) else none }
  | _ => f

/-- The chain that the words of fitting fields read as. -/
def Fields.chain (page major : Nat) (sh : Shape) (f : Fields) (pos : Nat) : Chain :=
  let (sg, base, needsI, needsR) := sh.layout
  ⟨if page = 0 then none else some (BitVec.ofNat 10 page), f.pxrWord needsR, f.pxm, f.pxiWords sg base needsI,
    mkWord f.st major (f.a.extractLsb' 0 4) (if base = 4 then f.imm.extractLsb' 0 4 else f.b.extractLsb' 0 4), pos⟩

theorem Fields.pxrWord_isSome (needsR : Bool) (f : Fields) : (f.pxrWord needsR).isSome =
    (needsR || f.c.isSome || f.a.extractLsb' 4 2 ≠ 0 || f.b.extractLsb' 4 2 ≠ 0) := by
  unfold pxrWord
  split_ifs with h
  · rw [h]; rfl
  · rw [Bool.not_eq_true] at h
    rw [h]; rfl

/-- A register number below 16 has no high bits. -/
theorem high_eq_zero_iff (r : RegNo) : r.extractLsb' 4 2 = 0 ↔ below r 16 = true := by
  rw [← BitVec.toNat_inj]
  simp only [BitVec.extractLsb'_toNat, Nat.shiftRight_eq_div_pow, below, decide_eq_true_eq, BitVec.toNat_zero,
    BitVec.ofNat_eq_ofNat]
  omega

/-- Two sources below 16 need no payload, so all fields come back. -/
theorem Fields.read_three {f : Fields} (h : (f.c.isSome || (below f.a 16 && below f.b 16)) = true) :
    f.read (.rr true) = f := by
  obtain ⟨st, a, b, c, imm, pxm⟩ := f
  simp only [read, pxrWord_isSome, mk.injEq, true_and, and_true]
  cases c with
  | none => simpa [← high_eq_zero_iff] using h
  | some c => simp

theorem Fields.pxiWords_four (sg : Bool) (f : Fields) :
    assembleImm sg (f.pxiWords sg 4 false) (some (f.imm.extractLsb' 0 4)) = f.imm := by
  rw [pxiWords, if_neg Bool.false_ne_true, Nat.max_zero]
  exact assembleImm_some (immWidthFits_pxiCount (immWidthFits_full sg f.imm))

theorem Fields.pxiWords_zero {sg : Bool} {f : Fields} (needsI : Bool) (h : immWidthFits sg f.imm 30 = true) :
    assembleImm sg (f.pxiWords sg 0 needsI) none = f.imm := by
  refine assembleImm_none ?_
  have hcount := immWidthFits_pxiCount (base := 0) h
  cases needsI with
  | false => simpa using hcount
  | true =>
    rcases Nat.eq_zero_or_pos (pxiCount sg 0 f.imm) with hz | hz
    · rw [hz] at hcount ⊢
      rw [eq_zero_of_immWidthFits hcount]
      cases sg <;> decide
    · rwa [if_pos rfl, Nat.max_eq_left hz]

theorem Fields.pxiWords_needed (sg : Bool) (base : Nat) (f : Fields) : (f.pxiWords sg base true).isEmpty = false := by
  rw [List.isEmpty_eq_false_iff_exists_mem, ← List.length_pos_iff_exists_mem, pxiWords, length_pxiPayloads]
  simp

theorem Fields.pxiWords_none {f : Fields} (h : f.imm = 0) : f.pxiWords false 0 false = [] := by
  rw [← List.length_eq_zero_iff, pxiWords, length_pxiPayloads, h]
  decide

/-- The fields come back from the chain (R28 to R30). -/
theorem extractFields_chain {page major : Nat} {sh : Shape} {cl : PxmClass} {f : Fields} {pos : Nat} (h : f.Fit sh cl) :
    extractFields sh cl (f.chain page major sh pos) = some (f.read sh) := by
  obtain ⟨hm, hf⟩ := h
  rw [Bool.or_comm] at hm
  have hsome : ∀ a b c imm, a = f.a → b = f.b → c = f.c → imm = f.imm →
      some (⟨f.st, a, b, c, imm, f.pxm⟩ : Fields) = some f := by
    rintro _ _ _ _ rfl rfl rfl rfl; rfl
  cases sh <;> simp only [extractFields, Fields.chain, Shape.layout, wordA_mkWord, wordB_mkWord, wordS_mkWord, if_true,
    Nat.reduceEqDiff, if_false, if_pos hm]
  case n =>
    obtain ⟨ha, hb, hc, hi⟩ := hf
    rw [if_pos]
    · exact hsome _ _ _ _ ha.symm hb.symm hc.symm hi.symm
    · simp [ha, hb, hc, Fields.pxrWord_isSome, Fields.pxiWords_none hi]
  case i sg =>
    obtain ⟨ha, hb, hc⟩ := hf
    rw [if_pos]
    · exact hsome _ _ _ _ ha.symm hb.symm hc.symm (f.pxiWords_four sg)
    · simp [ha, hb, hc, Fields.pxrWord_isSome]
  case r =>
    obtain ⟨hb, hc, hi⟩ := hf
    rw [if_pos]
    · exact hsome _ _ _ _ (f.pxrWord_a _) hb.symm hc.symm hi.symm
    · exact ⟨by rw [hb]; rfl, Fields.pxrWord_bc hb hc, by simp [Fields.pxiWords_none hi]⟩
  case ri sg =>
    obtain ⟨hb, hc⟩ := hf
    rw [if_pos (Fields.pxrWord_bc hb hc)]
    exact hsome _ _ _ _ (f.pxrWord_a _) hb.symm hc.symm (f.pxiWords_four sg)
  case rr three =>
    obtain ⟨hi, hf⟩ := hf
    rw [if_neg (by simp [Fields.pxiWords_none hi])]
    cases three with
    | false =>
      rw [if_neg Bool.false_ne_true, if_pos (by rw [f.pxrWord_c, hf rfl]; rfl)]
      exact hsome _ _ _ _ (f.pxrWord_a _) (f.pxrWord_b _) (hf rfl).symm hi.symm
    | true =>
      rw [if_pos rfl, f.pxrWord_a, f.pxrWord_b, f.pxrWord_c, ← hi]
      rfl
  case rx sg needs =>
    obtain ⟨hc, hi⟩ := hf
    rw [if_pos]
    · exact hsome _ _ _ _ (f.pxrWord_a _) (f.pxrWord_b _) hc.symm (Fields.pxiWords_zero needs hi)
    · refine ⟨by rw [f.pxrWord_c, hc]; rfl, ?_⟩
      cases needs <;> simp [Fields.pxiWords_needed]
  case rrr sg =>
    obtain ⟨hs, hi⟩ := hf
    obtain ⟨c, hc⟩ := Option.isSome_iff_exists.mp hs
    rw [if_pos (by simp [Fields.pxrWord_isSome])]
    exact hsome _ _ _ _ (f.pxrWord_a _) (f.pxrWord_b _) (by rw [f.pxrWord_c, hc]; rfl) (Fields.pxiWords_zero false hi)

/-- Every assigned major of a page is a base word's. -/
theorem lt_of_opcodeMap {page major : Nat} {x : Shape × PxmClass} (h : opcodeMap page major = some x) :
    page ≤ 6 ∧ major < 0x3C := by
  unfold opcodeMap at h
  split at h
  case h_8 => cases h
  all_goals
    obtain ⟨hlt, -⟩ := List.getElem?_eq_some_iff.mp h
    exact ⟨by omega, Nat.lt_of_lt_of_le hlt (by decide)⟩

/-- What the words of fitting fields decode to is what is built from the fields. -/
theorem decodeWords_encodeFields {page major : Nat} {sh : Shape} {cl : PxmClass} {f : Fields} {i : Instr}
    (hmap : opcodeMap page major = some (sh, cl)) (hfit : f.Fit sh cl)
    (hlen : (encodeFields page major sh f).length ≤ 5) (hbuild : buildInstr page major (f.read sh) = some i)
    (hwf : i.wf = true) (hlegal : legal i = true) : decodeWords (encodeFields page major sh f) = some (.ok i) := by
  obtain ⟨hpage, hmajor⟩ := lt_of_opcodeMap hmap
  obtain ⟨⟨sg, base, needsI, needsR⟩, hlay⟩ : ∃ l, sh.layout = l := ⟨_, rfl⟩
  have hbase : ∀ s a b, wordMajor (mkWord s major a b) = major := wordMajor_mkWord (by omega)
  have hchain : readChain (encodeFields page major sh f) 0 Chain.empty =
      some (.ok (f.chain page major sh ((encodeFields page major sh f).length - 1))) := by
    rw [encodeFields_eq hlay] at hlen ⊢
    rw [readChain_chainWords (by rw [hbase]; exact hmajor) ?_ hlen]
    · simp only [Fields.chain, hlay]
    · rw [Fields.pxiWords, length_pxiPayloads]
      have := pxiCount_le sg base f.imm
      split_ifs <;> omega
  have hmajorOf : wordMajor (f.chain page major sh ((encodeFields page major sh f).length - 1)).base = major := by
    simp only [Fields.chain, hlay, hbase]
  have hpageOf : (f.chain page major sh ((encodeFields page major sh f).length - 1)).page =
      if page = 0 then none else some (BitVec.ofNat 10 page) := by
    simp only [Fields.chain, hlay]
  have hnat : page ≠ 0 → (BitVec.ofNat 10 page).toNat = page := fun _ => by rw [BitVec.toNat_ofNat]; omega
  simp only [decodeWords, hchain, hmajorOf, hpageOf]
  by_cases h0 : page = 0
  · simp only [if_pos h0, h0 ▸ hmap, extractFields_chain hfit, h0 ▸ hbuild, hwf, hlegal]
    rfl
  · simp only [if_neg h0, hnat h0, if_neg (show ¬6 < page by omega), hmap, extractFields_chain hfit, hbuild, hwf, hlegal]
    rfl

end Sys2Proof
end

section
/-! SUPPORT. Modifiers and rows: the parts of an instruction build it again (R32 to R38). -/

namespace Sys2Proof

/-! ### Modifiers -/

/-- A default that reads like its absence makes the omission of the modifier word harmless (R14, R16). -/
theorem read_unlessDefault {α : Type} (f : Option (BitVec 10) → α) {d : BitVec 10} (h : f none = f (some d)) (b : BitVec 10) :
    f (unlessDefault b d) = f (some b) := by
  unfold unlessDefault
  split_ifs with hb
  · rw [h, hb]
  · rfl

theorem getLsbD_bit (b : Bool) (i : Nat) : (bit b).getLsbD i = (decide (i = 0) && b) := by
  cases b <;> simp [bit]

theorem memMod_bits (m : MemMod) : memMod (unlessDefault m.bits 0x013) = m := by
  rw [read_unlessDefault memMod rfl]
  obtain ⟨nt, ord, scope, sx, width⟩ := m
  simp only [memMod, MemMod.bits, MemMod.mk.injEq, BitVec.getLsbD_append, getLsbD_bit]
  refine ⟨by simp, ?_, ?_, by simp, ?_⟩ <;>
  · ext i hi
    simp only [BitVec.getElem_extractLsb', BitVec.getLsbD_append]
    grind

theorem memModNoWidth_some {m : MemMod} (h : m.noWidth = true) : memModNoWidth (some m.bitsNoWidth) = some m := by
  obtain ⟨nt, ord, scope, sx, width⟩ := m
  simp only [MemMod.noWidth, Bool.and_eq_true, Bool.not_eq_true', decide_eq_true_eq] at h
  obtain ⟨rfl, rfl⟩ := h
  have hlow : (MemMod.bitsNoWidth ⟨nt, ord, scope, false, 3⟩).extractLsb' 0 4 = 0 := by
    unfold MemMod.bitsNoWidth
    ext i hi
    simp only [BitVec.getElem_extractLsb', BitVec.getLsbD_append]
    grind
  simp only [memModNoWidth, if_pos hlow, Option.some.injEq, MemMod.mk.injEq]
  simp only [MemMod.bitsNoWidth, BitVec.getLsbD_append, getLsbD_bit]
  refine ⟨by simp, ?_, ?_, trivial, trivial⟩ <;>
  · ext i hi
    simp only [BitVec.getElem_extractLsb', BitVec.getLsbD_append]
    grind

theorem memModNoWidth_bits {m : MemMod} (h : m.noWidth = true) :
    memModNoWidth (unlessDefault m.bitsNoWidth 0x010) = some m :=
  (read_unlessDefault memModNoWidth rfl _).trans (memModNoWidth_some h)

theorem amoMod_bits (m : AmoMod) {op : Nat} (h : op < 16) : amoMod (unlessDefault (m.bits op) 0x010) = (m, op) := by
  rw [read_unlessDefault amoMod rfl]
  obtain ⟨w32, ord, scope⟩ := m
  have hop : (AmoMod.bits ⟨w32, ord, scope⟩ op).extractLsb' 0 4 = BitVec.ofNat 4 op := by
    unfold AmoMod.bits
    ext i hi
    simp only [BitVec.getElem_extractLsb', BitVec.getLsbD_append]
    grind
  simp only [amoMod, hop, Prod.mk.injEq, AmoMod.mk.injEq]
  refine ⟨⟨by simp only [AmoMod.bits, BitVec.getLsbD_append, getLsbD_bit]; simp, ?_, ?_⟩, by rw [BitVec.toNat_ofNat]; omega⟩ <;>
  · unfold AmoMod.bits
    ext i hi
    simp only [BitVec.getElem_extractLsb', BitVec.getLsbD_append]
    grind

/-- The modifier of an integer `amou` is an `amo` modifier with its operation. -/
theorem AmouMod.bits_eq (m : AmouMod) : m.bits = AmoMod.bits ⟨m.w32, m.ord, m.scope⟩ m.op.toNat := by
  simp [AmouMod.bits, AmoMod.bits]

theorem vecMod_bits {rnd ty : BitVec 3} {d : BitVec 10} (hd : vecMod rnd ty none = vecMod rnd ty (some d)) (m : VecMod) :
    vecMod rnd ty (unlessDefault m.bits d) = m := by
  rw [read_unlessDefault (vecMod rnd ty) hd]
  obtain ⟨r, t, zero, mask⟩ := m
  simp only [vecMod, VecMod.bits, VecMod.mk.injEq, BitVec.getLsbD_append, getLsbD_bit]
  refine ⟨?_, ?_, by simp, ?_⟩ <;>
  · ext i hi
    simp only [BitVec.getElem_extractLsb', BitVec.getLsbD_append]
    grind

theorem vecMod_int_bits (m : VecMod) : vecMod 5 3 (unlessDefault m.bits 0x2B0) = m := vecMod_bits (by decide) m
theorem vecMod_float_bits (m : VecMod) : vecMod 7 3 (unlessDefault m.bits 0x3B0) = m := vecMod_bits (by decide) m

theorem modMod_bits (m : ModMod) : modMod (unlessDefault m.bits 0x070) = some m := by
  rw [read_unlessDefault modMod (by decide)]
  obtain ⟨mi, ty, zero, mask⟩ := m
  have htop : (ModMod.bits ⟨mi, ty, zero, mask⟩).getLsbD 9 = false := by
    simp only [ModMod.bits, BitVec.getLsbD_append, getLsbD_bit]; simp
  simp only [modMod, htop, Bool.false_eq_true, if_false, Option.some.injEq, ModMod.mk.injEq]
  simp only [ModMod.bits, BitVec.getLsbD_append, getLsbD_bit]
  refine ⟨?_, ?_, by simp, ?_⟩ <;>
  · ext i hi
    simp only [BitVec.getElem_extractLsb', BitVec.getLsbD_append]
    grind

theorem pathMod_bits (m : PathMod) : pathMod (unlessDefault m.bits 0x07F) = some m := by
  rw [read_unlessDefault pathMod (by decide)]
  obtain ⟨scope, pb, pa⟩ := m
  have htop : (PathMod.bits ⟨scope, pb, pa⟩).getLsbD 9 = false := by
    simp only [PathMod.bits, BitVec.getLsbD_append, getLsbD_bit]; simp
  simp only [pathMod, htop, Bool.false_eq_true, if_false, Option.some.injEq, PathMod.mk.injEq]
  simp only [PathMod.bits]
  refine ⟨?_, ?_, ?_⟩ <;>
  · ext i hi
    simp only [BitVec.getElem_extractLsb', BitVec.getLsbD_append]
    grind

theorem redMod_bits (m : RedMod) {op : Nat} (h : op < 4) : redMod (unlessDefault (m.bits op) 0x004) = some (m, op) := by
  rw [read_unlessDefault redMod (by decide)]
  obtain ⟨ty⟩ := m
  have htop : (RedMod.bits ⟨ty⟩ op).extractLsb' 5 5 = 0 := by
    unfold RedMod.bits
    ext i hi
    simp only [BitVec.getElem_extractLsb', BitVec.getLsbD_append]
    grind
  have hop : (RedMod.bits ⟨ty⟩ op).extractLsb' 0 2 = BitVec.ofNat 2 op := by
    unfold RedMod.bits
    ext i hi
    simp only [BitVec.getElem_extractLsb', BitVec.getLsbD_append]
    grind
  have hty : (RedMod.bits ⟨ty⟩ op).extractLsb' 2 3 = ty := by
    unfold RedMod.bits
    ext i hi
    simp only [BitVec.getElem_extractLsb', BitVec.getLsbD_append]
    grind
  simp only [redMod, if_pos htop, hop, hty, BitVec.toNat_ofNat]
  rw [Nat.mod_eq_of_lt (by omega)]

end Sys2Proof
end

section
/-! SUPPORT. Every instruction with parts is built again from them (R38): the shapes' rules, then the rows. -/

namespace Sys2Proof

/-- An instruction's parts have their place in the opcode map, its words hold them, and they build it again. -/
def Rebuilt (i : Instr) : Prop := ∃ page major f sh cl, i.parts = some ⟨page, major, f⟩ ∧
  opcodeMap page major = some (sh, cl) ∧ f.Fit sh cl ∧ buildInstr page major (f.read sh) = some i

namespace Rebuilt

theorem left {a b : Bool} (h : (a && b) = true) : a = true := (Bool.and_eq_true_iff.mp h).1
theorem right {a b : Bool} (h : (a && b) = true) : b = true := (Bool.and_eq_true_iff.mp h).2

section

variable {i : Instr} {page major : Nat} {cl : PxmClass} {m : Option (BitVec 10)} {sg needs : Bool}

theorem ofN {o : OpN} (hp : i.parts = some ⟨page, major, ⟨o.st, 0, 0, none, 0, m⟩⟩)
    (hmap : opcodeMap page major = some (.n, cl)) (hm : (cl != .none || m.isNone) = true)
    (hb : buildInstr page major ⟨o.st, 0, 0, none, 0, m⟩ = some i) : Rebuilt i :=
  ⟨_, _, _, _, _, hp, hmap, ⟨hm, rfl, rfl, rfl, rfl⟩, hb⟩

theorem ofI {o : OpI} (hp : i.parts = some ⟨page, major, ⟨o.st, 0, 0, none, o.imm, m⟩⟩)
    (hmap : opcodeMap page major = some (.i sg, cl)) (hm : (cl != .none || m.isNone) = true)
    (hb : buildInstr page major ⟨o.st, 0, 0, none, o.imm, m⟩ = some i) : Rebuilt i :=
  ⟨_, _, _, _, _, hp, hmap, ⟨hm, rfl, rfl, rfl⟩, hb⟩

theorem ofR {o : OpR} (hp : i.parts = some ⟨page, major, ⟨o.st, o.a, 0, none, 0, m⟩⟩)
    (hmap : opcodeMap page major = some (.r, cl)) (hm : (cl != .none || m.isNone) = true)
    (hb : buildInstr page major ⟨o.st, o.a, 0, none, 0, m⟩ = some i) : Rebuilt i :=
  ⟨_, _, _, _, _, hp, hmap, ⟨hm, rfl, rfl, rfl⟩, hb⟩

theorem ofRI {o : OpRI} (hp : i.parts = some ⟨page, major, ⟨o.st, o.a, 0, none, o.imm, m⟩⟩)
    (hmap : opcodeMap page major = some (.ri sg, cl)) (hm : (cl != .none || m.isNone) = true)
    (hb : buildInstr page major ⟨o.st, o.a, 0, none, o.imm, m⟩ = some i) : Rebuilt i :=
  ⟨_, _, _, _, _, hp, hmap, ⟨hm, rfl, rfl⟩, hb⟩

theorem ofRR {o : OpRR} (hp : i.parts = some ⟨page, major, ⟨o.st, o.a, o.b, none, 0, m⟩⟩)
    (hmap : opcodeMap page major = some (.rr false, cl)) (hm : (cl != .none || m.isNone) = true)
    (hb : buildInstr page major ⟨o.st, o.a, o.b, none, 0, m⟩ = some i) : Rebuilt i :=
  ⟨_, _, _, _, _, hp, hmap, ⟨hm, rfl, fun _ => rfl⟩, hb⟩

theorem ofRXSigned {o : OpRX} (h : o.wfS = true) (hp : i.parts = some ⟨page, major, ⟨o.st, o.a, o.b, none, o.imm, m⟩⟩)
    (hmap : opcodeMap page major = some (.rx true needs, cl)) (hm : (cl != .none || m.isNone) = true)
    (hb : buildInstr page major ⟨o.st, o.a, o.b, none, o.imm, m⟩ = some i) : Rebuilt i :=
  ⟨_, _, _, _, _, hp, hmap, ⟨hm, rfl, h⟩, hb⟩

theorem ofRXUnsigned {o : OpRX} (h : o.wfU = true) (hp : i.parts = some ⟨page, major, ⟨o.st, o.a, o.b, none, o.imm, m⟩⟩)
    (hmap : opcodeMap page major = some (.rx false needs, cl)) (hm : (cl != .none || m.isNone) = true)
    (hb : buildInstr page major ⟨o.st, o.a, o.b, none, o.imm, m⟩ = some i) : Rebuilt i :=
  ⟨_, _, _, _, _, hp, hmap, ⟨hm, rfl, h⟩, hb⟩

theorem ofRRRSigned {o : OpRRR} (h : o.wfS = true) (hp : i.parts = some ⟨page, major, ⟨o.st, o.a, o.b, some o.c, o.imm, m⟩⟩)
    (hmap : opcodeMap page major = some (.rrr true, cl)) (hm : (cl != .none || m.isNone) = true)
    (hb : buildInstr page major ⟨o.st, o.a, o.b, some o.c, o.imm, m⟩ = some i) : Rebuilt i :=
  ⟨_, _, _, _, _, hp, hmap, ⟨hm, rfl, h⟩, hb⟩

theorem ofRRRUnsigned {o : OpRRR} (h : o.wfU = true) (hp : i.parts = some ⟨page, major, ⟨o.st, o.a, o.b, some o.c, o.imm, m⟩⟩)
    (hmap : opcodeMap page major = some (.rrr false, cl)) (hm : (cl != .none || m.isNone) = true)
    (hb : buildInstr page major ⟨o.st, o.a, o.b, some o.c, o.imm, m⟩ = some i) : Rebuilt i :=
  ⟨_, _, _, _, _, hp, hmap, ⟨hm, rfl, h⟩, hb⟩

/-- Two sources, with a third register or below 16 (R28). -/
theorem ofRRC {o : OpRRC} (h : o.wf = true) (hp : i.parts = some ⟨page, major, ⟨o.st, o.a, o.b, o.c, 0, m⟩⟩)
    (hmap : opcodeMap page major = some (.rr true, cl)) (hm : (cl != .none || m.isNone) = true)
    (hb : buildInstr page major ⟨o.st, o.a, o.b, o.c, 0, m⟩ = some i) : Rebuilt i :=
  ⟨_, _, _, _, _, hp, hmap, ⟨hm, rfl, nofun⟩,
    (congrArg (buildInstr page major) (Fields.read_three (f := ⟨o.st, o.a, o.b, o.c, 0, m⟩) h)).trans hb⟩

/-- A row named by the third register: 0 there reads like its absence (R201, R202). -/
theorem ofRRCode {o : OpRR} {c : Option RegNo} (hp : i.parts = some ⟨page, major, ⟨o.st, o.a, o.b, c, 0, m⟩⟩)
    (hmap : opcodeMap page major = some (.rr true, cl)) (hm : (cl != .none || m.isNone) = true)
    (hb : ∀ d : Option RegNo, d.getD 0 = c.getD 0 → buildInstr page major ⟨o.st, o.a, o.b, d, 0, m⟩ = some i) : Rebuilt i := by
  refine ⟨_, _, _, _, _, hp, hmap, ⟨hm, rfl, nofun⟩, hb _ ?_⟩
  cases c with
  | none => dsimp only; split_ifs <;> rfl
  | some c => simp [Fields.pxrWord_isSome]

end

/-! What a row builds from a modifier's word, it builds from the modifier. -/

section

variable {x : Option Instr}

theorem mem {mk : MemMod → Instr} (m : MemMod) (h : x = some (mk (memMod (unlessDefault m.bits 0x013)))) :
    x = some (mk m) := by
  rw [h, memMod_bits]

theorem memNoWidth {mk : MemMod → Instr} {m : MemMod} (hm : m.noWidth = true)
    (h : x = (memModNoWidth (unlessDefault m.bitsNoWidth 0x010)).map mk) : x = some (mk m) := by
  rw [h, memModNoWidth_bits hm]; rfl

theorem fence {mk : MemMod → Instr} {g : MemMod → Option Instr} {m : MemMod} (hm : m.noWidth = true)
    (hg : g m = some (mk m)) (h : x = (memModNoWidth (some m.bitsNoWidth)).bind g) : x = some (mk m) := by
  rw [h, memModNoWidth_some hm]; exact hg

theorem amo {mk : AmoMod → Instr} {g : AmoMod × Nat → Option Instr} (m : AmoMod) {op : Nat} (hop : op < 16)
    (hg : g (m, op) = some (mk m)) (h : x = g (amoMod (unlessDefault (m.bits op) 0x010))) : x = some (mk m) := by
  rw [h, amoMod_bits m hop, hg]

theorem int {mk : VecMod → Instr} (m : VecMod) (h : x = some (mk (vecMod 5 3 (unlessDefault m.bits 0x2B0)))) :
    x = some (mk m) := by
  rw [h, vecMod_int_bits]

theorem float {mk : VecMod → Instr} (m : VecMod) (h : x = some (mk (vecMod 7 3 (unlessDefault m.bits 0x3B0)))) :
    x = some (mk m) := by
  rw [h, vecMod_float_bits]

theorem modular {mk : ModMod → Instr} (m : ModMod) (h : x = (modMod (unlessDefault m.bits 0x070)).map mk) :
    x = some (mk m) := by
  rw [h, modMod_bits]; rfl

theorem path {mk : PathMod → Instr} (m : PathMod) (h : x = (pathMod (unlessDefault m.bits 0x07F)).map mk) :
    x = some (mk m) := by
  rw [h, pathMod_bits]; rfl

theorem reduction {mk : RedMod → Instr} {g : RedMod × Nat → Option Instr} (m : RedMod) {op : Nat} (hop : op < 4)
    (hg : g (m, op) = some (mk m)) (h : x = (redMod (unlessDefault (m.bits op) 0x004)).bind g) : x = some (mk m) := by
  rw [h, redMod_bits m hop]; exact hg

/-- A row among several of one major. -/
theorem row {mk : VecMod → Instr} {g : VecMod → Option Instr} (m : VecMod) (hg : g m = some (mk m))
    (h : x = g (vecMod 5 3 (unlessDefault m.bits 0x2B0))) : x = some (mk m) := by
  rw [h, vecMod_int_bits, hg]

end

/-- Bit 3 of `vbfx`'s immediate tells its two rows apart (R214). -/
theorem getLsbD_three (i : Imm) : i.getLsbD 3 = decide (i.toNat / 8 % 2 = 1) := by
  rw [BitVec.getLsbD, Nat.testBit_eq_decide_div_mod_eq]

end Rebuilt

open Rebuilt in
/-- The rows by shape and modifier: each is built from the fields that its parts carry. -/
theorem rebuilt {i : Instr} (hparts : i.parts.isSome = true) (hwf : i.wf = true) (hlegal : legal i = true) : Rebuilt i := by
  cases i
  case hold o | enter o | trap o | brk o | j o | call o | wshr o =>
    exact ofI rfl rfl rfl rfl
  case sync o m | lrc o m =>
    exact ofN rfl rfl rfl (memNoWidth hwf rfl)
  case ret o | wait o | uret o | sret o | hret o | wfi o =>
    exact ofN rfl rfl rfl rfl
  case jr o | callr o | arv o | bwt o | ard o | mon o | cclr o | ctxs o | ctxr o | tzero o | accz o | wlnew o =>
    exact ofR rfl rfl rfl rfl
  case addi o | movi o | andi o | ldk o | bz o | bnz o | shli o | shri o | srai o | csrr o =>
    exact ofRI rfl rfl rfl rfl
  case fsqrt o m | fclass o m | vexp2 o m | vlog2 o m | vrcp o m | vrsq o m =>
    exact ofRR rfl rfl rfl (float m rfl)
  case vsetl o m | vconf o m | vbc o m | vcmpz o m | vxpd o m =>
    exact ofRR rfl rfl rfl (int m rfl)
  case frd o m | fwr o m =>
    exact ofRR rfl rfl rfl (mem m rfl)
  case mqld o m | mcld o m | mqget o m | vbrev o m | vmred o m =>
    exact ofRR rfl rfl rfl (modular m rfl)
  case mov o | pop o | recv o | clz o | ctz o | popc o | bswap o | cbase o | clen o | cperm o | ctid o | cgtag o |
    vclaim o | vseed o | kpop o | kfirst o | tcfg o | tdesc o | accwm o | ttr o | ixs o | ixst o | cpy o | cpyw o |
    nredw o | wlst o | ctrsel o | ctrrd o | yield o | colopConfigure o | bdgtRead o | tslotEntry o | dlogStatus o |
    tinvPage o =>
    exact ofRR rfl rfl rfl rfl
  case vadd o m | vsub o m | vmul o m | vmin o m | vmax o m | vand o m | vor o m | vxor o m | vshl o m | vshr o m |
    vsra o m | vceq o m | vclt o m | vcle o m =>
    exact ofRRC (left (left (left hwf))) rfl rfl rfl (int m rfl)
  case vmadd o m | vmsub o m | vmmul o m | vmwide o m =>
    exact ofRRC (left (left (left hwf))) rfl rfl rfl (modular m rfl)
  case kand o | kor o =>
    exact ofRRC (left (left (left hwf))) rfl rfl rfl rfl
  case fadd o m | fsub o m | fmul o m | fdiv o m | fmin o m | fmax o m | fceq o m | fclt o m | fcle o m =>
    exact ofRRC hwf rfl rfl rfl (float m rfl)
  case add o | sub o | and o | or o | xor o | shl o | shr o | sra o | mul o | ceq o | clt o | cltn o | lea o | div o |
    divn o | rem o | remn o | mulh o | mulhn o | rot o | min o | max o | minn o | maxn o | cbound o | crestr o | csub
    o | bmem o | nmld o =>
    exact ofRRC hwf rfl rfl rfl rfl
  case vgat o m | vsca o m | vscac o m =>
    exact ofRRRSigned (left (left hwf)) rfl rfl rfl (int m rfl)
  case vlds o m | vsts o m =>
    exact ofRRRSigned (left hwf) rfl rfl rfl (int m rfl)
  case cas o m | rput o m | rget o m =>
    exact ofRRRSigned hwf rfl rfl rfl (mem m rfl)
  case vfma o m =>
    exact ofRRRUnsigned (left (left (left hwf))) rfl rfl rfl (float m rfl)
  case vsel o m | vperm o m =>
    exact ofRRRUnsigned (left (left (left hwf))) rfl rfl rfl (int m rfl)
  case vmmac o m | vmbf o m | vmibf o m =>
    exact ofRRRUnsigned (left (left (left hwf))) rfl rfl rfl (modular m rfl)
  case mma o | mmt o =>
    exact ofRRRUnsigned (left (left (left hwf))) rfl rfl rfl rfl
  case accrd o m =>
    exact ofRRRUnsigned (left (left hwf)) rfl rfl rfl (float m rfl)
  case mmag o | mmcsr o | mmbsr o | ixget o =>
    exact ofRRRUnsigned (left (left hwf)) rfl rfl rfl rfl
  case vxt o m =>
    exact ofRRRUnsigned (left hwf) rfl rfl rfl (int m rfl)
  case fma o m =>
    exact ofRRRUnsigned hwf rfl rfl rfl (float m rfl)
  case rdep o m =>
    exact ofRRRUnsigned hwf rfl rfl rfl (mem m rfl)
  case sel o | push o | send o | cmint o | nma o | wlcfgConfigure o | ctrarmArm o | ringcfgBind o =>
    exact ofRRRUnsigned hwf rfl rfl rfl rfl
  case tld o m | tst o m =>
    exact ofRXSigned (left (left hwf)) rfl rfl rfl (memNoWidth (right hwf) rfl)
  case vld o m | vst o m | vldl o m | vstl o m =>
    exact ofRXSigned (left hwf) rfl rfl rfl (int m rfl)
  case ldc o m | stc o m | pf o m | wb o m | inv o m =>
    exact ofRXSigned (left hwf) rfl rfl rfl (memNoWidth (right hwf) rfl)
  case ld o m | st o m | lra o m | lrl o m | lrs o m | lrg o m =>
    exact ofRXSigned hwf rfl rfl rfl (mem m rfl)
  case blt o | bge o | bltn o | bgen o =>
    exact ofRXSigned hwf rfl rfl rfl rfl
  case vcvt o m =>
    exact ofRXUnsigned (left (left hwf)) rfl rfl rfl (float m rfl)
  case fcvt o m | fcvti o m | icvtf o m =>
    exact ofRXUnsigned hwf rfl rfl rfl (float m rfl)
  case bext o | bins o =>
    exact ofRXUnsigned hwf rfl rfl rfl rfl
  case amoAdd o m => exact ofRRRSigned hwf rfl rfl rfl (amo (g := amoRow ⟨o.st, o.a, o.b, some o.c, o.imm, _⟩) m (by decide) rfl rfl)
  case amoAnd o m => exact ofRRRSigned hwf rfl rfl rfl (amo (g := amoRow ⟨o.st, o.a, o.b, some o.c, o.imm, _⟩) m (by decide) rfl rfl)
  case amoOr o m => exact ofRRRSigned hwf rfl rfl rfl (amo (g := amoRow ⟨o.st, o.a, o.b, some o.c, o.imm, _⟩) m (by decide) rfl rfl)
  case amoXor o m => exact ofRRRSigned hwf rfl rfl rfl (amo (g := amoRow ⟨o.st, o.a, o.b, some o.c, o.imm, _⟩) m (by decide) rfl rfl)
  case amoMin o m => exact ofRRRSigned hwf rfl rfl rfl (amo (g := amoRow ⟨o.st, o.a, o.b, some o.c, o.imm, _⟩) m (by decide) rfl rfl)
  case amoMax o m => exact ofRRRSigned hwf rfl rfl rfl (amo (g := amoRow ⟨o.st, o.a, o.b, some o.c, o.imm, _⟩) m (by decide) rfl rfl)
  case amoMinn o m => exact ofRRRSigned hwf rfl rfl rfl (amo (g := amoRow ⟨o.st, o.a, o.b, some o.c, o.imm, _⟩) m (by decide) rfl rfl)
  case amoMaxn o m => exact ofRRRSigned hwf rfl rfl rfl (amo (g := amoRow ⟨o.st, o.a, o.b, some o.c, o.imm, _⟩) m (by decide) rfl rfl)
  case amoSwap o m => exact ofRRRSigned hwf rfl rfl rfl (amo (g := amoRow ⟨o.st, o.a, o.b, some o.c, o.imm, _⟩) m (by decide) rfl rfl)
  case fenceAcq o m =>
    obtain ⟨hw, hord⟩ := Bool.and_eq_true_iff.mp hwf
    exact ofN rfl rfl rfl (fence hw (by rw [of_decide_eq_true hord]; rfl) rfl)
  case fenceRel o m =>
    obtain ⟨hw, hord⟩ := Bool.and_eq_true_iff.mp hwf
    exact ofN rfl rfl rfl (fence hw (by rw [of_decide_eq_true hord]; rfl) rfl)
  case fenceAr o m =>
    obtain ⟨hw, hord⟩ := Bool.and_eq_true_iff.mp hwf
    exact ofN rfl rfl rfl (fence hw (by rw [of_decide_eq_true hord]; rfl) rfl)
  case csrw o =>
    refine ofRI rfl rfl rfl ?_
    have htime : o.imm ≠ csrTimecmp := of_decide_eq_true (left hwf)
    have hovf : o.imm ≠ csrRqovf := of_decide_eq_true (right hwf)
    simp only [buildInstr, build0, Fields.opRI, if_neg htime, if_neg hovf]
  case csrwTimecmp o =>
    refine ofRI rfl rfl rfl ?_
    have htime : o.imm = csrTimecmp := of_decide_eq_true hwf
    simp only [buildInstr, build0, Fields.opRI, if_pos htime]
  case csrwRqovf o =>
    refine ofRI rfl rfl rfl ?_
    have hovf : o.imm = csrRqovf := of_decide_eq_true hwf
    have htime : o.imm ≠ csrTimecmp := by rw [hovf]; decide
    simp only [buildInstr, build0, Fields.opRI, if_neg htime, if_pos hovf]
  case vrel | wldone => exact ofN (o := ⟨0⟩) rfl rfl rfl rfl
  case fencx o m => exact ofN rfl rfl rfl (path m rfl)
  case vredSum o m =>
    exact ofRRCode rfl rfl rfl fun d hd =>
      row (g := vredRow ⟨o.st, o.a, o.b, d, 0, _⟩) m (by simp only [vredRow, hd]; rfl) rfl
  case vscanSum o m =>
    exact ofRRCode rfl rfl rfl fun d hd =>
      row (g := vscanRow ⟨o.st, o.a, o.b, d, 0, _⟩) m (by simp only [vscanRow, hd]; rfl) rfl
  case vredMin o m =>
    exact ofRRCode rfl rfl rfl fun d hd =>
      row (g := vredRow ⟨o.st, o.a, o.b, d, 0, _⟩) m (by simp only [vredRow, hd]; rfl) rfl
  case vscanMin o m =>
    exact ofRRCode rfl rfl rfl fun d hd =>
      row (g := vscanRow ⟨o.st, o.a, o.b, d, 0, _⟩) m (by simp only [vscanRow, hd]; rfl) rfl
  case vredMax o m =>
    exact ofRRCode rfl rfl rfl fun d hd =>
      row (g := vredRow ⟨o.st, o.a, o.b, d, 0, _⟩) m (by simp only [vredRow, hd]; rfl) rfl
  case vscanMax o m =>
    exact ofRRCode rfl rfl rfl fun d hd =>
      row (g := vscanRow ⟨o.st, o.a, o.b, d, 0, _⟩) m (by simp only [vscanRow, hd]; rfl) rfl
  case vredAnd o m =>
    exact ofRRCode rfl rfl rfl fun d hd =>
      row (g := vredRow ⟨o.st, o.a, o.b, d, 0, _⟩) m (by simp only [vredRow, hd]; rfl) rfl
  case vscanAnd o m =>
    exact ofRRCode rfl rfl rfl fun d hd =>
      row (g := vscanRow ⟨o.st, o.a, o.b, d, 0, _⟩) m (by simp only [vscanRow, hd]; rfl) rfl
  case vredOr o m =>
    exact ofRRCode rfl rfl rfl fun d hd =>
      row (g := vredRow ⟨o.st, o.a, o.b, d, 0, _⟩) m (by simp only [vredRow, hd]; rfl) rfl
  case vscanOr o m =>
    exact ofRRCode rfl rfl rfl fun d hd =>
      row (g := vscanRow ⟨o.st, o.a, o.b, d, 0, _⟩) m (by simp only [vscanRow, hd]; rfl) rfl
  case vredXor o m =>
    exact ofRRCode rfl rfl rfl fun d hd =>
      row (g := vredRow ⟨o.st, o.a, o.b, d, 0, _⟩) m (by simp only [vredRow, hd]; rfl) rfl
  case vscanXor o m =>
    exact ofRRCode rfl rfl rfl fun d hd =>
      row (g := vscanRow ⟨o.st, o.a, o.b, d, 0, _⟩) m (by simp only [vscanRow, hd]; rfl) rfl
  case vbfxGather o m =>
    refine ofRXUnsigned (left (left hwf)) rfl rfl rfl (modular m ?_)
    simp only [legal, Bool.and_eq_true, decide_eq_true_eq] at hlegal
    have hbit : o.imm.getLsbD 3 = false := by rw [getLsbD_three, decide_eq_false_iff_not]; omega
    simp only [buildInstr, build3, hbit, Bool.false_eq_true, if_false]; rfl
  case vbfxScatter o m =>
    refine ofRXUnsigned (left (left hwf)) rfl rfl rfl (modular m ?_)
    simp only [legal, Bool.and_eq_true, decide_eq_true_eq] at hlegal
    have hbit : o.imm.getLsbD 3 = true := by rw [getLsbD_three, decide_eq_true_eq]; omega
    simp only [buildInstr, build3, hbit, if_true]; rfl
  case amouInteger o m =>
    obtain ⟨st, a, b, c, imm⟩ := o
    obtain rfl : imm = 0 := of_decide_eq_true hwf
    refine ofRRRUnsigned (o := ⟨st, a, b, c, 0⟩) rfl rfl rfl rfl ?_
    simp only [buildInstr, build5, m.bits_eq, amoMod_bits _ (show m.op.toNat < 16 from m.op.isLt), amouRow]
    simp [Fields.opRRR]
  case amouF32 o m =>
    obtain ⟨st, a, b, c, imm⟩ := o
    obtain rfl : imm = 1 := of_decide_eq_true hwf
    refine ofRRRUnsigned (o := ⟨st, a, b, c, 1⟩) rfl rfl rfl rfl ?_
    simp only [buildInstr, build5, amoMod_bits m (show 0 < 16 by decide), amouRow]
    simp [Fields.opRRR]
  case amouF64 o m =>
    obtain ⟨st, a, b, c, imm⟩ := o
    obtain rfl : imm = 2 := of_decide_eq_true hwf
    refine ofRRRUnsigned (o := ⟨st, a, b, c, 2⟩) rfl rfl rfl rfl ?_
    simp only [buildInstr, build5, amoMod_bits m (show 0 < 16 by decide), amouRow]
    simp [Fields.opRRR]
  case amof o m => exact ofRRRUnsigned hwf rfl rfl rfl (amo (op := 0) (g := fun p => if p.2 = 0 then some (.amof o p.1) else none) m (by decide) rfl rfl)
  case nredSum o m => exact ofRRRUnsigned hwf rfl rfl rfl (reduction m (by decide) rfl rfl)
  case nredMin o m => exact ofRRRUnsigned hwf rfl rfl rfl (reduction m (by decide) rfl rfl)
  case nredMax o m => exact ofRRRUnsigned hwf rfl rfl rfl (reduction m (by decide) rfl rfl)
  case nredMerge2 o => exact ofRRRUnsigned hwf rfl rfl rfl rfl
  all_goals exact absurd hparts Bool.false_ne_true

end Sys2Proof
end

section
/-! SUPPORT. Decoding what was encoded, and what decodes at all (R24 to R38). -/

namespace Sys2Proof

/-! ### Bytes -/

theorem bytesToWords_wordsToBytes (ws : List IWord) (rest : List Byte) :
    bytesToWords (wordsToBytes ws ++ rest) = ws ++ bytesToWords rest := by
  induction ws with
  | nil => rfl
  | cons w ws ih =>
    have hw : w.extractLsb' 8 8 ++ w.extractLsb' 0 8 = w := by
      ext i hi
      simp only [BitVec.getElem_append, BitVec.getElem_extractLsb']
      grind
    simp only [wordsToBytes, List.cons_append, bytesToWords, ih, hw]

theorem length_wordsToBytes (ws : List IWord) : (wordsToBytes ws).length = 2 * ws.length := by
  induction ws with
  | nil => rfl
  | cons w ws ih => simp only [wordsToBytes, List.length_cons, ih]; omega

/-- Fetching stops at the base word of at most four chain words (R39). -/
theorem fetchLength_chain {pre : List IWord} {b : IWord} (hpre : ∀ w ∈ pre, isChainWord w = true) (hb : isChainWord b = false)
    (ws : List IWord) (n : Nat) (hn : n + pre.length ≤ 4) : fetchLength (pre ++ b :: ws) n = n + pre.length + 1 := by
  induction pre generalizing n with
  | nil => simp [fetchLength, hb]
  | cons w pre ih =>
    simp only [List.length_cons] at hn ⊢
    rw [List.cons_append, fetchLength, if_pos (by simp [hpre w (by simp)]; omega),
      ih (fun v hv => hpre v (by simp [hv])) (n + 1) (by omega)]
    omega

/-- The words of an encoding are chain words up to its base word. -/
theorem encodeFields_split (page major : Nat) (sh : Shape) (f : Fields) : 
    ∃ pre, ∃ b, encodeFields page major sh f = pre ++ [mkWord f.st major (f.a.extractLsb' 0 4) b] ∧
    ∀ w ∈ pre, isChainWord w = true := by
  obtain ⟨⟨sg, base, needsI, needsR⟩, hlay⟩ : ∃ l, sh.layout = l := ⟨_, rfl⟩
  rw [encodeFields_eq hlay]
  refine ⟨optWord 0x3C (if page = 0 then none else some (BitVec.ofNat 10 page)) ++ (optWord 0x3D (f.pxrWord needsR) ++
    (optWord 0x3E f.pxm ++ (f.pxiWords sg base needsI).map (mkChainWord 0x3F))),
    if base = 4 then f.imm.extractLsb' 0 4 else f.b.extractLsb' 0 4, by simp only [chainWords, List.append_assoc], ?_⟩
  have hopt : ∀ m o, 0x3C ≤ m ∧ m < 64 → ∀ w ∈ optWord m o, isChainWord w = true := by
    rintro m (_ | p) hm w hw
    · cases hw
    · rw [List.mem_singleton.mp hw, isChainWord, wordMajor_mkChainWord hm.2]
      exact decide_eq_true hm.1
  simp only [List.mem_append, List.mem_map]
  rintro w (h | h | h | ⟨p, -, rfl⟩)
  · exact hopt _ _ (by decide) w h
  · exact hopt _ _ (by decide) w h
  · exact hopt _ _ (by decide) w h
  · rw [isChainWord, wordMajor_mkChainWord (by decide)]; rfl

/-- Settles O1: the fields of an instruction come back from the chain that its words are, and its row is built from them. -/
theorem decodeOfEncode : Obligations.DecodeOfEncode := by
  intro i hwf hlegal hfits
  obtain ⟨ws, hws⟩ : ∃ ws, encode i = some ws := by
    unfold Instr.fits at hfits
    cases h : encode i with
    | none => simp [h] at hfits
    | some ws => exact ⟨ws, rfl⟩
  have hlen : ws.length ≤ 5 := by simpa [Instr.fits, hws] using hfits
  have hparts : i.parts.isSome = true := by
    unfold encode at hws
    cases h : i.parts with
    | none => simp [h] at hws
    | some p => rfl
  obtain ⟨page, major, f, sh, cl, hp, hmap, hfit, hbuild⟩ := rebuilt hparts hwf hlegal
  obtain rfl : encodeFields page major sh f = ws := by simpa [encode, hp, hmap] using hws
  have hdecode := decodeWords_encodeFields hmap hfit hlen hbuild hwf hlegal
  refine ⟨_, hws, hlen, hdecode, fun rest => ?_⟩
  obtain ⟨pre, b, hsplit, hpre⟩ := encodeFields_split page major sh f
  have hmajor := (lt_of_opcodeMap hmap).2
  have hbase : isChainWord (mkWord f.st major (f.a.extractLsb' 0 4) b) = false := by
    rw [isChainWord, wordMajor_mkWord (by omega)]
    exact decide_eq_false (by omega)
  rw [hsplit] at hdecode hlen ⊢
  generalize mkWord f.st major (f.a.extractLsb' 0 4) b = base at *
  have hfetch : fetchLength (pre ++ base :: bytesToWords rest) 0 = (pre ++ [base]).length := by
    rw [fetchLength_chain hpre hbase _ _ (by simp at hlen; omega)]
    simp
  have htake : (pre ++ base :: bytesToWords rest).take (pre ++ [base]).length = pre ++ [base] := by
    simp [List.take_append]
  have hdrop : (wordsToBytes (pre ++ [base]) ++ rest).drop (2 * (pre ++ [base]).length) = rest := by
    rw [← length_wordsToBytes, List.drop_left]
  simp only [decode, bytesToWords_wordsToBytes, List.append_assoc, List.singleton_append, hfetch, htake, hdecode, hdrop]

/-! ### What decodes -/

/-- A chain that reads to its end has chain words up to its base word, at most four of them (R27). -/
theorem readChain_base_word {ws : List IWord} {rank : Nat} {c d : Chain} (h : readChain ws rank c = some (.ok d))
    (hpos : c.pos ≤ 4) : ∃ n, n + c.pos ≤ 4 ∧ n < ws.length ∧ (∀ k < n, 0x3C ≤ wordMajor (ws.getD k 0)) ∧
      wordMajor (ws.getD n 0) < 0x3C := by
  induction ws generalizing rank c with
  | nil => cases h
  | cons w ws ih =>
    by_cases hbase : wordMajor w < 0x3C
    · exact ⟨0, by omega, by simp, by omega, hbase⟩
    have hnext : ∃ rank c', readChain ws rank c' = some (.ok d) ∧ c'.pos = c.pos + 1 ∧ c'.pos ≤ 4 := by
      simp only [readChain, if_neg hbase] at h
      split_ifs at h <;> first | cases h | exact ⟨_, _, h, rfl, by dsimp only; omega⟩
    obtain ⟨rank', c', hread, hpos', hle⟩ := hnext
    obtain ⟨n, hn, hlen, hchain, hlast⟩ := ih hread hle
    refine ⟨n + 1, by omega, by simpa using hlen, fun k hk => ?_, hlast⟩
    cases k with
    | zero => exact Nat.le_of_not_lt hbase
    | succ k => exact hchain k (by omega)

/-- Settles O2: decode keeps only what is well-formed and legal, of a chain that has been read to its base word. -/
theorem decodeIsWellFormed : Obligations.DecodeIsWellFormed := by
  intro ws i h
  unfold decodeWords at h
  split at h
  · cases h
  · cases h
  · next c hc =>
    obtain ⟨n, hn, hlen, hchain, hbase⟩ := readChain_base_word hc (by decide)
    have hok : i.wf = true ∧ legal i = true := by
      dsimp only at h
      split_ifs at h
      · cases h
      cases hpage : c.page <;> rw [hpage] at h <;> dsimp only at h
      all_goals
        split at h
        · cases h
        split at h
        · cases h
        split at h
        · cases h
        split_ifs at h with hi
        · cases h; exact Bool.and_eq_true_iff.mp hi
        · cases h
    exact ⟨hok.1, hok.2, n, by omega, hlen, hchain, hbase⟩

end Sys2Proof
end

section
/-! SUPPORT. Worked encodings, and the state right after reset. -/

namespace Sys2Proof.Claims
open Sys2Proof.Machine

/-- Settles O3: each word sequence of the listings decodes as written. -/
theorem workedWordsDecode : Obligations.WorkedWordsDecode := by
  refine ⟨?_, ?_, ?_, ?_, ?_, ?_, ?_, ?_, ?_, ?_, ?_, ?_, ?_, ?_, ?_⟩ <;> rfl

/-- Settles O6: reset lists nothing but colony 1, so every look-up gives its default. -/
theorem resetState : Obligations.ResetState := by
  refine ⟨State.memOk_reset, ?_, ?_⟩
  · intro c n
    exact .inl ⟨rfl, rfl⟩
  refine ⟨fun _ => rfl, fun _ => rfl, fun k => ?_, fun id => ?_, fun c hc => ?_, rfl, rfl, rfl, rfl, rfl, rfl⟩
  · rfl
  · by_cases h : id = 1
    · subst h; exact ⟨fun _ => rfl, fun _ => nofun⟩
    · have hnone : State.reset.colony id = none := if_neg h
      exact ⟨fun hc => absurd hnone hc, fun hid => absurd hid h⟩
  · cases hc
    exact ⟨rfl, rfl, rfl, rfl, rfl, rfl, by decide⟩

end Sys2Proof.Claims
end

section
/-! SUPPORT. The scalar integer instructions (R92 to R99). -/

namespace Sys2Proof.Claims

open Sys2Proof.Machine

/-! ## Shared operations -/

/-- A result of 64 bits behind reads of the sources, written as the operation's last act. -/
theorem setsX_of_runOp {i : Instr} {s : State} {d : Desc} {body : M Unit} {n : RegNo} {v : Word} (hx : exec i s = runOp d body s)
    (hl : d.steer ≠ .lanes) (hc : s.self.Clear d.regs)
    (hb : body (s.withSelf (s.self.begun d)) = writeX n v (s.withSelf (s.self.begun d))) : SetsX i s n v :=
  sets_of_runOp hx hl hc hb

/-- The registers of a two-source instruction are its first register and the two sources of R94. -/
theorem Issues.clear_twoSource {o : OpRRC} {s : State} (h : Issues s [o.a, o.x, o.y]) : s.self.Clear (twoSource 0 o) := by
  obtain ⟨st, a, b, c⟩ := o
  refine h.clear fun r hr => ?_
  cases c <;> simp [twoSource, OpRRC.x, OpRRC.y] at hr ⊢ <;> aesop

/-- A two-source integer instruction sets A to its function of the sources. -/
theorem setsX_int2 {i : Instr} {o : OpRRC} {s : State} {lat : Nat} {f : Word → Word → Word} {v : Word}
    (h : Issues s [o.a, o.x, o.y]) (hx : exec i s = int2 lat o f s) (hv : f (x s o.x) (x s o.y) = v) : SetsX i s o.a v := by
  refine setsX_of_runOp hx Steer.noConfusion h.clear_twoSource ?_
  rw [M.bind_ok (h.readX_begun _ 0 (by simp)), M.bind_ok (h.readX_begun _ 1 (by simp)), hv]

/-- An integer instruction of one source sets A to its function of B. -/
theorem setsX_int1 {i : Instr} {o : OpRR} {s : State} {f : Word → Word} {v : Word}
    (h : Issues s [o.a, o.b]) (hx : exec i s = int1 o f s) (hv : f (x s o.b) = v) : SetsX i s o.a v := by
  refine setsX_of_runOp hx Steer.noConfusion (h.clear (by simp [oneSource, wDst, wSrc])) ?_
  rw [M.bind_ok (h.readX_begun _ 0 (by simp)), hv]

/-- An integer instruction with an immediate sets A to its function of A. -/
theorem setsX_intImm {i : Instr} {o : OpRI} {s : State} {f : Word → Word} {v : Word}
    (h : Issues s [o.a]) (hx : exec i s = intImm o f s) (hv : f (x s o.a) = v) : SetsX i s o.a v := by
  refine setsX_of_runOp hx Steer.noConfusion (h.clear (by simp [wBoth])) ?_
  rw [M.bind_ok (h.readX_begun _ 0 (by simp)), hv]

/-! ## Results -/

theorem truth_decide (p : Prop) [Decidable p] : truth (decide p) = if p then 1 else 0 := by
  by_cases h : p <;> simp [truth, h]

theorem sshiftRight_eq_ofInt (v : Word) (k : Nat) : v.sshiftRight k = BitVec.ofInt 64 (v.toInt / 2 ^ k) := by
  rw [BitVec.sshiftRight, Int.shiftRight_eq_div_pow, Nat.cast_pow]; rfl

theorem sdiv_eq_ofInt (a b : Word) : a.sdiv b = BitVec.ofInt 64 (a.toInt.tdiv b.toInt) := by
  rw [← BitVec.toInt_inj, BitVec.toInt_sdiv, BitVec.toInt_ofInt]

theorem srem_eq_ofInt (a b : Word) : a.srem b = BitVec.ofInt 64 (a.toInt.tmod b.toInt) := by
  rw [← BitVec.toInt_srem, BitVec.ofInt_toInt]

theorem udiv_eq_ofNat (a b : Word) : a / b = BitVec.ofNat 64 (a.toNat / b.toNat) := by
  rw [← BitVec.toNat_udiv, BitVec.ofNat_toNat, BitVec.setWidth_eq]

theorem umod_eq_ofNat (a b : Word) : a % b = BitVec.ofNat 64 (a.toNat % b.toNat) := by
  rw [← BitVec.toNat_umod, BitVec.ofNat_toNat, BitVec.setWidth_eq]

theorem getLsbD_rotateRight {v : Word} {k j : Nat} (hk : k < 64) (hj : j < 64) :
    (v.rotateRight k).getLsbD j = v.getLsbD ((j + k) % 64) := by
  rw [BitVec.getLsbD_rotateRight, Nat.mod_eq_of_lt hk]
  by_cases h : j < 64 - k
  · rw [decide_eq_true h, cond_true, Nat.mod_eq_of_lt (by omega), Nat.add_comm]
  · rw [decide_eq_false h, cond_false, show (j + k) % 64 = j - (64 - k) by omega]
    simp [hj]

/-- Settles O11: each instruction is one function of the two sources, which the clause writes out. -/
theorem integerTwo : Obligations.IntegerTwo := by
  intro o s h X Y k
  refine ⟨setsX_int2 h rfl rfl, setsX_int2 h rfl rfl, setsX_int2 h rfl rfl, setsX_int2 h rfl rfl, setsX_int2 h rfl rfl,
    setsX_int2 h rfl rfl, setsX_int2 h rfl rfl, setsX_int2 h rfl rfl, setsX_int2 h rfl (sshiftRight_eq_ofInt _ _),
    setsX_int2 h rfl (truth_decide _), setsX_int2 h rfl (truth_decide _), setsX_int2 h rfl (truth_decide _), ?_, ?_, ?_, ?_,
    setsX_int2 h rfl rfl, setsX_int2 h rfl rfl, ⟨_, ?_, setsX_int2 h rfl rfl⟩, ?_, ?_, ?_, ?_⟩
  · exact setsX_int2 h rfl (by rw [divSigned, sdiv_eq_ofInt])
  · exact setsX_int2 h rfl (by rw [divUnsigned, udiv_eq_ofNat])
  · exact setsX_int2 h rfl (by rw [remSigned, srem_eq_ofInt])
  · exact setsX_int2 h rfl (by rw [remUnsigned, umod_eq_ofNat])
  · exact fun j hj => getLsbD_rotateRight (Nat.mod_lt _ (by decide)) hj
  · exact setsX_int2 h rfl (by simp only [BitVec.slt, decide_eq_true_eq]; rfl)
  · exact setsX_int2 h rfl (by simp only [BitVec.slt, decide_eq_true_eq]; rfl)
  · exact setsX_int2 h rfl (by simp only [BitVec.ult, decide_eq_true_eq]; rfl)
  · exact setsX_int2 h rfl (by simp only [BitVec.ult, decide_eq_true_eq]; rfl)

/-- A nonzero number has a bit length whose top bit it reaches. -/
theorem bitLength_bounds (n : Nat) : n < 2 ^ Float.bitLength n ∧ (n ≠ 0 → 2 ^ (Float.bitLength n - 1) ≤ n) := by
  unfold Float.bitLength
  split_ifs with h
  · exact ⟨by simp [h], fun h' => absurd h h'⟩
  · exact ⟨Nat.lt_log2_self, fun _ => Nat.log2_self_le h⟩

theorem bitLength_le {n w : Nat} (h : n < 2 ^ w) : Float.bitLength n ≤ w := by
  unfold Float.bitLength
  split_ifs with h0
  · exact Nat.zero_le w
  · exact (Nat.log2_lt h0).mpr h

/-- What a number and its two's complement have in common is its lowest set bit. -/
theorem and_complement_two_pow_mul {w n q : Nat} (h : 2 ^ n * (2 * q + 1) < 2 ^ w) :
    2 ^ n * (2 * q + 1) &&& (2 ^ w - 2 ^ n * (2 * q + 1)) = 2 ^ n := by
  obtain ⟨d, rfl⟩ : ∃ d, w = n + (d + 1) := by
    have hlt : 2 ^ n < 2 ^ w := lt_of_le_of_lt (Nat.le_mul_of_pos_right _ (by omega)) h
    exact ⟨w - n - 1, by have := (Nat.pow_lt_pow_iff_right (by decide : 1 < 2)).mp hlt; omega⟩
  have hq : q < 2 ^ d := by
    rw [pow_add] at h
    have := Nat.lt_of_mul_lt_mul_left h
    rw [pow_succ] at this; omega
  have hcompl : 2 ^ (n + (d + 1)) - 2 ^ n * (2 * q + 1) = 2 ^ n * (2 * (2 ^ d - (q + 1)) + 1) := by
    rw [pow_add, ← Nat.mul_sub, pow_succ]; congr 1; omega
  rw [hcompl]
  refine Nat.eq_of_testBit_eq fun i => ?_
  rw [Nat.testBit_and, Nat.testBit_two_pow_mul, Nat.testBit_two_pow_mul, Nat.testBit_two_pow]
  rcases Nat.lt_trichotomy i n with hi | rfl | hi
  · simp [show ¬i ≥ n by omega, show n ≠ i by omega]
  · simp
  · obtain ⟨k, rfl⟩ : ∃ k, i = n + (k + 1) := ⟨i - n - 1, by omega⟩
    have hbit : ∀ m, (2 * m + 1).testBit (k + 1) = m.testBit k := fun m => by
      rw [Nat.testBit_add_one]; congr 1; omega
    have hk : decide (n = n + (k + 1)) = false := by simp
    simp only [Nat.add_sub_cancel_left, hbit, Nat.testBit_two_pow_sub_succ hq, hk]
    cases q.testBit k <;> simp

/-- The trailing zeros of R96 are those below the lowest set bit. -/
theorem trailingZeros_spec (v : Word) : ∃ n ≤ 64, (∀ j < n, v.getLsbD j = false) ∧ (n < 64 → v.getLsbD n = true) ∧
    trailingZeros v = BitVec.ofNat 64 n := by
  by_cases h0 : v = 0
  · exact ⟨64, le_refl _, by simp [h0], by simp, by simp [trailingZeros, h0]⟩
  have hne : v.toNat ≠ 0 := fun h => h0 (BitVec.eq_of_toNat_eq h)
  obtain ⟨n, m, ⟨q, rfl⟩, hv⟩ := Nat.exists_eq_two_pow_mul_odd hne
  have hlt : 2 ^ n * (2 * q + 1) < 2 ^ 64 := hv ▸ v.isLt
  have hn : n < 64 := (Nat.pow_lt_pow_iff_right (by decide : 1 < 2)).mp
    (lt_of_le_of_lt (Nat.le_mul_of_pos_right _ (by omega)) hlt)
  refine ⟨n, hn.le, fun j hj => ?_, fun _ => ?_, ?_⟩
  · simp [BitVec.getLsbD, hv, Nat.testBit_two_pow_mul, show ¬n ≤ j by omega]
  · simp [BitVec.getLsbD, hv, Nat.testBit_two_pow_mul]
  · rw [trailingZeros, if_neg h0, hv, and_complement_two_pow_mul hlt, Nat.log2_two_pow]

/-! ## Numbers as bytes -/

theorem leNat_div_mod (bs : List Byte) (k : Nat) : leNat bs / 256 ^ k % 256 = (bs.getD k 0).toNat := by
  induction bs generalizing k with
  | nil => simp [leNat]
  | cons b bs ih =>
    have hb : b.toNat < 256 := b.isLt
    cases k with
    | zero => simp only [leNat, pow_zero, Nat.div_one, List.getD_cons_zero]; omega
    | succ k =>
      rw [List.getD_cons_succ, ← ih, pow_succ', ← Nat.div_div_eq_div_mul, leNat]
      congr 2; omega

theorem length_leBytes (n v : Nat) : (leBytes n v).length = n := by
  induction n generalizing v with
  | zero => rfl
  | succ n ih => simp [leBytes, ih]

theorem getElem_leBytes {n v k : Nat} (h : k < (leBytes n v).length) : (leBytes n v)[k] = BitVec.ofNat 8 (v / 256 ^ k) := by
  induction n generalizing v k with
  | zero => simp [leBytes] at h
  | succ n ih =>
    cases k with
    | zero => simp [leBytes]
    | succ k => simp only [leBytes, List.getElem_cons_succ, ih, pow_succ', Nat.div_div_eq_div_mul]

/-- Byte j of a byte-swapped word is byte 7 - j of the word. -/
theorem extractLsb'_byteSwap {v : Word} {j : Nat} (hj : j < 8) :
    (byteSwap v).extractLsb' (8 * j) 8 = v.extractLsb' (8 * (7 - j)) 8 := by
  have hpow : ∀ k, 2 ^ (8 * k) = 256 ^ k := fun k => by rw [Nat.pow_mul]
  have hlen : (leBytes 8 v.toNat).reverse.length = 8 := by rw [List.length_reverse, length_leBytes]
  have hdigit : ((leBytes 8 v.toNat).reverse.getD j 0).toNat = v.toNat / 256 ^ (7 - j) % 256 := by
    rw [List.getD_eq_getElem _ _ (by omega), List.getElem_reverse, getElem_leBytes, BitVec.toNat_ofNat, length_leBytes]
  rw [← BitVec.toNat_inj]
  simp only [BitVec.extractLsb'_toNat, Nat.shiftRight_eq_div_pow, hpow]
  rw [← hdigit, ← leNat_div_mod, byteSwap, BitVec.toNat_ofNat]
  have hsplit : (2 : Nat) ^ 64 = 256 ^ j * 256 ^ (8 - j) := by
    rw [← pow_add, show j + (8 - j) = 8 by omega]; rfl
  rw [hsplit, Nat.mod_mul_right_div_self, Nat.mod_mod_of_dvd]
  exact dvd_pow_self 256 (by omega)

/-! ## Bit fields -/

theorem getLsbD_extractBits {v : Word} {p l j : Nat} (hj : j < 64) :
    (extractBits v p l).getLsbD j = (decide (j < l) && v.getLsbD (p + j)) := by
  simp only [extractBits, BitVec.getLsbD_ofNat, hj, decide_true, Bool.true_and, Nat.testBit_mod_two_pow, Nat.testBit_div_two_pow]
  rw [Nat.add_comm]; rfl

theorem getLsbD_insertBits {v u : Word} {p l j : Nat} (hj : j < 64) :
    (insertBits v u p l).getLsbD j = if p ≤ j ∧ j < p + l then u.getLsbD (j - p) else v.getLsbD j := by
  simp only [insertBits, BitVec.getLsbD_or, BitVec.getLsbD_and, BitVec.getLsbD_not, BitVec.getLsbD_ofNat, hj,
    Nat.testBit_mul_two_pow, Nat.testBit_two_pow_sub_one, Nat.testBit_mod_two_pow, decide_true, Bool.true_and]
  by_cases hp : p ≤ j
  · by_cases hl : j < p + l
    · simp [hp, hl, show j - p < l by omega, BitVec.getLsbD]
    · simp [hp, hl, show ¬j - p < l by omega]
  · simp [hp]

/-- Settles O12: each instruction is one function of its source, whose bits the clause says. -/
theorem integerOne : Obligations.IntegerOne := by
  refine ⟨?_, ?_, ?_⟩
  · intro o s h X
    refine ⟨?_, ⟨_, Nat.sub_le 64 (Float.bitLength X.toNat), ?_, ?_, setsX_int1 h rfl rfl⟩, ?_,
      setsX_int1 h rfl (by rw [popCount, List.countP_eq_length_filter]),
      ⟨_, fun j hj => extractLsb'_byteSwap hj, setsX_int1 h rfl rfl⟩⟩
    · refine sets_of_runOp (d := ⟨o.st, 1, .bySource, oneSource o⟩) rfl Steer.noConfusion
        (h.clear (by simp [oneSource, wDst, wSrc])) ?_
      rw [M.bind_ok (h.readW_begun _ 0 (by simp))]
    · rw [Nat.sub_sub_self (bitLength_le X.isLt)]
      exact (bitLength_bounds _).1
    · intro hlt
      have hle := bitLength_le X.isLt
      rw [show 63 - (64 - Float.bitLength X.toNat) = Float.bitLength X.toNat - 1 by omega]
      refine (bitLength_bounds _).2 fun h0 => ?_
      rw [h0] at hlt
      exact absurd hlt (by decide)
    · obtain ⟨n, hn, hlow, hbit, hv⟩ := trailingZeros_spec X
      exact ⟨n, hn, hlow, hbit, setsX_int1 h rfl hv⟩
  · intro o s h X I
    have hmovi : SetsX (.movi o) s o.a I :=
      setsX_of_runOp (d := ⟨o.st, 1, .bySource, [wDst o.a]⟩) rfl Steer.noConfusion (h.clear (by simp [wDst])) rfl
    exact ⟨setsX_intImm h rfl rfl, hmovi, setsX_intImm h rfl rfl, setsX_intImm h rfl rfl, setsX_intImm h rfl rfl,
      setsX_intImm h rfl (sshiftRight_eq_ofInt _ _)⟩
  · intro o s h p l
    refine ⟨⟨_, fun j hj => getLsbD_extractBits hj, ?_⟩, ⟨_, fun j hj => getLsbD_insertBits hj, ?_⟩⟩
    · refine setsX_of_runOp (d := ⟨o.st, 1, .bySource, [wDst o.a, wSrc o.b]⟩) rfl Steer.noConfusion
        (h.clear (by simp [wDst, wSrc])) ?_
      rw [M.bind_ok (h.readX_begun _ 0 (by simp))]; rfl
    · refine setsX_of_runOp (d := ⟨o.st, 1, .bySource, [wBoth o.a, wSrc o.b]⟩) rfl Steer.noConfusion
        (h.clear (by simp [wBoth, wSrc])) ?_
      rw [M.bind_ok (h.readX_begun _ 0 (by simp)), M.bind_ok (h.readX_begun _ 1 (by simp))]; rfl

end Sys2Proof.Claims
end

section
/-! SUPPORT. Instructions whose only effect is on the current strand: reading behind changes of other parts of it, and what
completion then shows. -/

namespace Sys2Proof.Claims

open Sys2Proof.Machine

/-! ## Reads -/

/-- Two strands agree in what a read of a register looks at. -/
structure SameReads (t r : Strand) : Prop where
  operands : t.operands = r.operands
  inflight : t.inflight = r.inflight
  clk : t.clk = r.clk
  regs : t.regs = r.regs
  win : t.win = r.win

theorem SameReads.begun (t : Strand) (d : Desc) : SameReads (t.begun d) t := ⟨rfl, rfl, rfl, rfl, rfl⟩

section

variable {t r : Strand} (h : SameReads t r)
include h

theorem SameReads.hazard (f n : Nat) : t.hazard f n = r.hazard f n := by
  simp only [Strand.hazard, h.inflight, h.clk]

theorem SameReads.phys (p : Nat) : t.phys p = r.phys p := by
  simp only [Strand.phys, h.regs]

theorem SameReads.physOf (n : Nat) : t.physOf n = r.physOf n := by
  simp only [Strand.physOf, h.win]

end

section

variable {s u : State} {ns : List RegNo} (h : Issues s ns) (hu : SameReads u.self s.self) (i : Nat) {n : RegNo} (hn : n ∈ ns)
include h hu hn

/-- A register is read as it was before the instruction, whatever else has changed. -/
theorem Issues.readW_same : readW i n u = .ok (w s n) u := by
  obtain ⟨-, hops⟩ := h.1
  rw [readW_clear i]
  · rw [hu.physOf, hu.phys]; rfl
  · exact hu.operands.trans hops
  · rw [hu.physOf, hu.hazard]; exact h.hazard hn

theorem Issues.readX_same : readX i n u = .ok (x s n) u := by
  unfold readX
  rw [M.bind_ok (h.readW_same hu i hn)]; rfl

end

/-! ## Changes of the current strand alone -/

/-- A state that differs from another in its current strand, which is `t`, and in nothing else that shows. -/
structure OnlySelf (s : State) (t : Strand) (u : State) : Prop where
  cur : u.cur = s.cur
  self : u.self = t
  elsewhere : Elsewhere s u

theorem OnlySelf.refl (s : State) : OnlySelf s s.self s := ⟨rfl, rfl, .refl s⟩

theorem OnlySelf.withSelf {s u : State} {t : Strand} (h : OnlySelf s t u) (r : Strand) : OnlySelf s r (u.withSelf r) :=
  ⟨h.cur, State.self_withSelf .., h.elsewhere.withSelf h.cur r⟩

/-- What an operation changes in the current strand. -/
theorem OnlySelf.modSelf {s u : State} {t : Strand} (h : OnlySelf s t u) (f : Strand → Strand) :
    ∃ v, Machine.modSelf f u = .ok () v ∧ OnlySelf s (f t) v :=
  ⟨_, modSelf_run f u, h.self ▸ h.withSelf _⟩

theorem OnlySelf.begun (s : State) (d : Desc) : OnlySelf s (s.self.begun d) (s.withSelf (s.self.begun d)) :=
  (OnlySelf.refl s).withSelf _

theorem OnlySelf.same {s u : State} {t r : Strand} (h : OnlySelf s r u) (hstill : r.still = t.still) (hregs : r.regs = t.regs) :
    SameAs (s.withSelf t) u :=
  ⟨h.cur, fun p => by simp only [h.self, Strand.phys, hregs, State.self_withSelf], by simpa [h.self] using hstill,
    h.elsewhere.of_withSelf t⟩

/-- An instruction whose operation changes the current strand of a state alone leads to what that strand shows. -/
theorem leads_of_runPriv {i : Instr} {s s' u : State} {d : Desc} {priv body : M Unit} {t r : Strand}
    (hx : exec i s = runPriv d priv body s) (hl : d.steer ≠ .lanes) (hp : priv s = .ok () s)
    (hc : s.self.Clear d.regs) (hb : body (s.withSelf (s.self.begun d)) = .ok () u) (hu : OnlySelf s' r u)
    (hstill : r.still = t.still) (hregs : r.regs = t.regs) (hpcc : r.pcc = s.self.pcc) (hn : r.instret = s.self.instret)
    (hapart : t.apart = s.self.apart) (hir : t.ir = s.self.ir) : Leads i s (s'.withSelf t) := by
  have hkept : r.apart = t.apart ∧ r.ir = t.ir :=
    ⟨(congrArg Strand.apart hstill : r.still.apart = _), (congrArg Strand.ir hstill : r.still.ir = _)⟩
  obtain ⟨-, -, htogether, -⟩ := id hc
  refine (hu.same hstill hregs).leads (hx.trans (runPriv_ok hl hp hc hb)) ?_ ?_ ?_ ?_ <;> rw [hu.self]
  · exact hkept.1.trans (hapart.trans htogether)
  · exact hn
  · exact hpcc
  · exact hkept.2.trans hir

/-- The same without a privilege check. -/
theorem leads_of_runOp {i : Instr} {s s' u : State} {d : Desc} {body : M Unit} {t r : Strand}
    (hx : exec i s = runOp d body s) (hl : d.steer ≠ .lanes) (hc : s.self.Clear d.regs)
    (hb : body (s.withSelf (s.self.begun d)) = .ok () u) (hu : OnlySelf s' r u)
    (hstill : r.still = t.still) (hregs : r.regs = t.regs) (hpcc : r.pcc = s.self.pcc) (hn : r.instret = s.self.instret)
    (hapart : t.apart = s.self.apart) (hir : t.ir = s.self.ir) : Leads i s (s'.withSelf t) :=
  leads_of_runPriv (priv := pure ()) hx hl rfl hc hb hu hstill hregs hpcc hn hapart hir

/-! ## Causes -/

theorem raiseIf_of {b : Bool} (h : b = true) (c : BitVec 8) (v : Nat) (s : State) :
    raiseIf b c v s = .error (.trap c (BitVec.ofNat 64 v) none) s := by rw [h, raiseIf_true]

theorem raiseIf_of_not {b : Bool} (h : b = false) (c : BitVec 8) (v : Nat) (s : State) : raiseIf b c v s = .ok () s := by
  rw [h, raiseIf_false]

/-- A cause that an operation raises with nothing done but its prologue. -/
theorem traps_of_runOp {i : Instr} {s : State} {d : Desc} {body : M Unit} {c : BitVec 8} {v : Word} {v2 : Option Word}
    (hx : exec i s = runOp d body s) (hl : d.steer ≠ .lanes) (hc : s.self.Clear d.regs)
    (hb : body (s.withSelf (s.self.begun d)) = .error (.trap c v v2) (s.withSelf (s.self.begun d))) (hne : c ≠ cSyscall) :
    Traps2 i s c v v2 := by
  have htrap := hx.trans (runOp_trap hl hc hb)
  rw [State.undo_eq (show (s.withSelf (s.self.begun d)).units.walkErrors = s.units.walkErrors from rfl)] at htrap
  obtain ⟨-, -, htogether⟩ := hc
  exact traps_of_takeCause htrap htogether hne

end Sys2Proof.Claims
end

section
/-! SUPPORT. Scalar floating point (R62, R120 to R125). -/

namespace Sys2Proof.Claims

open Sys2Proof.Machine

/-! ## Rounding modes and draws -/

theorem needSeed_ok {s : State} {code : BitVec 3} (h : HasSeed s code) : needSeed code.toNat s = .ok () s := by
  have hcond : (s.self.roundingMode code.toNat true = srMode && s.self.vec.lanes.isEmpty) = false := by
    rw [Bool.and_eq_false_iff, decide_eq_false_iff_not, List.isEmpty_eq_false_iff]
    exact (Classical.em _).elim (fun hm => .inr (h hm)) .inl
  unfold needSeed
  rw [M.bind_ok (self_run s), hcond]; rfl

/-- A draw changes the vector state alone. -/
theorem drawn_eq (s : State) (code : BitVec 3) : ∃ vec, drawn s code = { s.self with vec := vec } := by
  simp only [drawn]
  split_ifs
  · exact ⟨_, rfl⟩
  · exact ⟨s.self.vec, rfl⟩

theorem drawn_begun (s : State) (d : Desc) (code : BitVec 3) :
    drawn (s.withSelf (s.self.begun d)) code = { drawn s code with
      role := s.self.roleOf d, opIndex := 0, copies := (s.self.begun d).copies, named := (s.self.begun d).named } := by
  unfold drawn
  simp only [State.self_withSelf]
  have hmode : (s.self.begun d).roundingMode code.toNat true = s.self.roundingMode code.toNat true := rfl
  rw [hmode]
  split_ifs <;> rfl

/-- The mode of a scalar instruction; its word is drawn with it (R62). -/
theorem scalarMode_run (u : State) (code : BitVec 3) : ∃ v, scalarMode code.toNat u = .ok (u.self.roundingMode code.toNat true) v ∧
    (∀ s t, OnlySelf s t u → OnlySelf s (drawn u code) v) := by
  unfold scalarMode
  rw [M.bind_ok (self_run u)]
  by_cases hm : u.self.roundingMode code.toNat true = srMode
  · simp only [if_pos hm, drawn]
    exact ⟨_, rfl, fun s t h => h.withSelf _⟩
  · simp only [if_neg hm, drawn]
    exact ⟨u, rfl, fun s t h => ⟨h.cur, rfl, h.elsewhere⟩⟩

theorem readF_as {s u : State} {ns : List RegNo} (h : Issues s ns) (hu : SameReads u.self s.self) (i : Nat) {n : RegNo}
    (hn : n ∈ ns) (f : Machine.Float.Format) : readF i n f u = .ok (Machine.Float.decode f (x s n).toNat) u := by
  unfold readF
  rw [M.bind_ok (h.readX_same hu i hn)]; rfl

theorem readF_run {s u : State} {ns : List RegNo} (h : Issues s ns) (hu : SameReads u.self s.self) (i : Nat) {n : RegNo}
    (hn : n ∈ ns) (m : VecMod) : readF i n (fpFormat m.ty) u = .ok (fp s m n) u :=
  readF_as h hu i hn (fpFormat m.ty)

/-- An action rounds to `c` with flags `fl` in a strand that has drawn its word. -/
def RoundsTo {α : Type} (s : State) (code : BitVec 3) (act : M α) (c : α) (fl : Nat) : Prop :=
  ∀ t u, OnlySelf s t u → t.drawn 0 0 = (drawn s code).drawn 0 0 →
    ∃ v, act u = .ok c v ∧ OnlySelf s (flagged t fl) v

theorem roundTo_roundsTo (s : State) (code : BitVec 3) (f : Machine.Float.Format) (mode before : Nat) (v : Machine.Float.Value) :
    let r := Machine.Float.round f mode ((drawn s code).drawn 0 0) v
    RoundsTo s code (roundTo f mode 0 0 v before) r.1 (before ||| r.2) := by
  intro r t u hu ht
  obtain ⟨v, hflags, hv⟩ := hu.modSelf fun t => flagged t (before ||| r.2)
  refine ⟨v, ?_, hv⟩
  unfold roundTo
  rw [M.bind_ok (self_run u), hu.self, ht]
  exact M.bind_ok hflags

theorem roundToInt_roundsTo (s : State) (code : BitVec 3) (bits : Nat) (signed : Bool) (mode : Nat) (v : Machine.Float.Value) :
    let r := Machine.Float.roundInt bits signed mode ((drawn s code).drawn 0 0) v
    RoundsTo s code (roundToInt bits signed mode 0 0 v) r.1 r.2 := by
  intro r t u hu ht
  obtain ⟨v, hflags, hv⟩ := hu.modSelf fun t => flagged t r.2
  refine ⟨v, ?_, hv⟩
  unfold roundToInt
  rw [M.bind_ok (self_run u), hu.self, ht]
  exact M.bind_ok hflags

/-! ## Results -/

/-- A scalar instruction that draws its word, rounds once and writes what it gets. -/
theorem leads_of_rounding {α : Type} {i : Instr} {s : State} {d : Desc} {code : BitVec 3} {k : Nat → M Unit} {act : M α} {c : α}
    {fl : Nat} {n : RegNo} {g : α → Word}
    (hx : exec i s = runPriv d (needSeed code.toNat) (do k (← scalarMode code.toNat)) s) (hl : d.steer ≠ .lanes)
    (hc : s.self.Clear d.regs) (hseed : HasSeed s code) (hact : RoundsTo s code act c fl)
    (hk : ∀ u, SameReads u.self s.self →
      k (s.self.roundingMode code.toNat true) u = (do writeX n (g (← act))) u) :
    Leads i s (s.withSelf ((flagged (drawn s code) fl).putW n.toNat (Reg.ofWord (g c)))) := by
  obtain ⟨u, hmode, hu⟩ := scalarMode_run (s.withSelf (s.self.begun d)) code
  specialize hu s _ (.begun s d)
  rw [drawn_begun] at hu
  obtain ⟨u1, hround, hu1⟩ := hact _ _ hu rfl
  obtain ⟨vec, hvec⟩ := drawn_eq s code
  rw [hvec] at hu hu1 ⊢
  obtain ⟨u2, hput, hu2⟩ := hu1.modSelf fun t => t.putW n.toNat (Reg.ofWord (g c))
  have hreads : SameReads u.self s.self := by rw [hu.self]; exact ⟨rfl, rfl, rfl, rfl, rfl⟩
  have hin : (s.withSelf (s.self.begun d)).self.roundingMode code.toNat true = s.self.roundingMode code.toNat true := by
    rw [State.self_withSelf]; rfl
  rw [hin] at hmode
  refine leads_of_runPriv hx hl (needSeed_ok hseed) hc (u := u2) ?_ hu2 rfl rfl rfl rfl rfl rfl
  rw [M.bind_ok hmode, hk u hreads, M.bind_ok hround]
  exact hput

/-- A scalar instruction that rounds an exact value once, in the mode of its code (R121). -/
theorem rounds_of_runPriv {i : Instr} {s : State} {d : Desc} {code : BitVec 3} {k : Nat → M Unit} {f : Machine.Float.Format}
    {n : RegNo} {v : Machine.Float.Value × Nat}
    (hx : exec i s = runPriv d (needSeed code.toNat) (do k (← scalarMode code.toNat)) s) (hl : d.steer ≠ .lanes)
    (hc : s.self.Clear d.regs) (hseed : HasSeed s code)
    (hk : ∀ u, SameReads u.self s.self → k (s.self.roundingMode code.toNat true) u =
      (do writeX n (BitVec.ofNat 64 (← roundTo f (s.self.roundingMode code.toNat true) 0 0 v.1 v.2))) u) :
    Rounds i s n f code v :=
  leads_of_rounding hx hl hc hseed (roundTo_roundsTo s code f _ v.2 v.1) hk

section

variable {o : OpRRC} {m : VecMod} {s : State} (h : Issues s [o.a, o.x, o.y])
include h

/-- The arithmetic of two sources (R121). -/
theorem rounds_fp2 {i : Instr} {lat : Nat} {f : Nat → Machine.Float.Value → Machine.Float.Value → Machine.Float.Value × Nat}
    (hx : exec i s = fp2 lat o m f s) (hseed : HasSeed s m.rnd) :
    Rounds i s o.a (fpFormat m.ty) m.rnd (f (s.self.roundingMode m.rnd.toNat true) (fp s m o.x) (fp s m o.y)) := by
  refine rounds_of_runPriv hx Steer.noConfusion h.clear_twoSource hseed fun u hu => ?_
  rw [M.bind_ok (readF_run h hu 0 (by simp) m), M.bind_ok (readF_run h hu 1 (by simp) m)]

/-- `fmin` and `fmax` write the chosen value and record no flag (R122). -/
theorem setsX_fpPick {i : Instr} {f : Machine.Float.Value → Machine.Float.Value → Machine.Float.Value}
    (hx : exec i s = fpPick o m f s) :
    SetsX i s o.a (BitVec.ofNat 64 (Machine.Float.round (fpFormat m.ty) 0 0 (f (fp s m o.x) (fp s m o.y))).1) := by
  refine setsX_of_runOp hx Steer.noConfusion h.clear_twoSource ?_
  have hu := (OnlySelf.begun s ⟨o.st, 4, .execute, twoSource 0 o⟩).self ▸ SameReads.begun s.self ⟨o.st, 4, .execute, twoSource 0 o⟩
  rw [M.bind_ok (readF_run h hu 0 (by simp) m), M.bind_ok (readF_run h hu 1 (by simp) m)]

/-- The compares (R123). -/
theorem leads_fpCompare {i : Instr} {quiet : Bool} {f : Bool → Bool → Bool} {fl : Nat} {v : Word}
    (hx : exec i s = fpCompare o m quiet f s)
    (hfl : (if (fp s m o.x = .nan || fp s m o.y = .nan) && !quiet then Machine.Float.fNv else 0) = fl)
    (hv : (if !(fp s m o.x = .nan || fp s m o.y = .nan) && f (Machine.Float.compare (fp s m o.x) (fp s m o.y)).1
      (Machine.Float.compare (fp s m o.x) (fp s m o.y)).2 then 1 else 0) = v) :
    Leads i s (s.withSelf ((flagged s.self fl).putW o.a.toNat (Reg.ofWord v))) := by
  have hbegun := OnlySelf.begun s ⟨o.st, 4, .execute, twoSource 0 o⟩
  have hu := hbegun.self ▸ SameReads.begun s.self ⟨o.st, 4, .execute, twoSource 0 o⟩
  obtain ⟨u1, hflags, hu1⟩ := hbegun.modSelf fun t => flagged t fl
  obtain ⟨u2, hput, hu2⟩ := hu1.modSelf fun t => t.putW o.a.toNat (Reg.ofWord v)
  refine leads_of_runOp hx Steer.noConfusion h.clear_twoSource ?_ hu2 rfl rfl rfl rfl rfl rfl
  rw [M.bind_ok (readF_run h hu 0 (by simp) m), M.bind_ok (readF_run h hu 1 (by simp) m)]
  subst hfl hv
  exact (M.bind_ok hflags).trans hput

end

/-- Settles O13: each instruction reads its sources as values of a format, and rounds, picks or compares once. -/
theorem floatScalar : Obligations.FloatScalar := by
  refine ⟨?_, ?_, ?_, ?_⟩
  · intro o m s h F X Y r flags nan
    refine ⟨fun hseed => ⟨rounds_fp2 (f := Machine.Float.add) h rfl hseed,
        rounds_fp2 (f := fun r x y => Machine.Float.add r x (Machine.Float.neg y)) h rfl hseed,
        rounds_fp2 (f := fun _ x y => Machine.Float.mul x y) h rfl hseed,
        rounds_fp2 (f := fun _ x y => Machine.Float.div x y) h rfl hseed⟩,
      setsX_fpPick (f := Machine.Float.minimum) h rfl, setsX_fpPick (f := Machine.Float.maximum) h rfl, leads_fpCompare (quiet := true) (f := fun _ eq => eq) h rfl (by simp) ?_,
      leads_fpCompare (quiet := false) (f := fun lt _ => lt) h rfl ?_ ?_,
      leads_fpCompare (quiet := false) (f := fun lt eq => lt || eq) h rfl ?_ ?_⟩
    all_goals simp [nan, X, Y]
  · intro o m s h
    refine ⟨fun hseed => ?_, ?_⟩
    · refine rounds_of_runPriv (d := ⟨o.st, 0, .execute, oneSource o⟩) rfl Steer.noConfusion
        (h.clear (by simp [oneSource, wDst, wSrc])) hseed fun u hu => ?_
      rw [M.bind_ok (readF_run h hu 0 (by simp) m)]
    · refine setsX_of_runOp (d := ⟨o.st, 4, .execute, oneSource o⟩) rfl Steer.noConfusion
        (h.clear (by simp [oneSource, wDst, wSrc])) ?_
      have hu := (OnlySelf.begun s ⟨o.st, 4, .execute, oneSource o⟩).self ▸ SameReads.begun s.self _
      rw [M.bind_ok (readF_run h hu 0 (by simp) m)]
  · intro o m s h hseed
    refine rounds_of_runPriv (d := ⟨o.st, 4, .execute, [wBoth o.a, wSrc o.b, wSrc o.c]⟩) rfl Steer.noConfusion
      (h.clear (by simp [wBoth, wSrc])) hseed fun u hu => ?_
    rw [M.bind_ok (readF_run h hu 0 (by simp) m), M.bind_ok (readF_run h hu 1 (by simp) m),
      M.bind_ok (readF_run h hu 2 (by simp) m)]
  · intro o m s h hseed ty bits X t r
    have hclear : s.self.Clear [wDst o.a, wSrc o.b] := h.clear (by simp [wDst, wSrc])
    refine ⟨?_, ?_, ?_⟩
    · refine rounds_of_runPriv (d := ⟨o.st, 3, .execute, [wDst o.a, wSrc o.b]⟩) rfl Steer.noConfusion hclear hseed fun u hu => ?_
      rw [M.bind_ok (readF_as h hu 0 (by simp) _)]
    · refine rounds_of_runPriv (d := ⟨o.st, 3, .execute, [wDst o.a, wSrc o.b]⟩) rfl Steer.noConfusion hclear hseed fun u hu => ?_
      rw [M.bind_ok (h.readX_same hu 0 (by simp))]; rfl
    · refine leads_of_rounding (g := fun v => BitVec.ofInt 64 (Machine.Float.patInt (bits m.ty) (m.ty.toNat < 4) v))
        (d := ⟨o.st, 3, .execute, [wDst o.a, wSrc o.b]⟩) rfl Steer.noConfusion hclear hseed
        (roundToInt_roundsTo s m.rnd (bits m.ty) (m.ty.toNat < 4) _ X) fun u hu => ?_
      rw [M.bind_ok (readF_as h hu 0 (by simp) _)]; rfl

end Sys2Proof.Claims
end

section
/-! SUPPORT. `lea` and the capability instructions (R111, R126 to R129). -/

namespace Sys2Proof.Claims

open Sys2Proof.Machine

/-! ## Reading, moving and narrowing -/

/-- A field of a capability (R126). -/
theorem setsX_capField {i : Instr} {o : OpRR} {s : State} {f : Reg → Word} (h : Issues s [o.a, o.b])
    (hx : exec i s = capField o f s) : SetsX i s o.a (f (w s o.b)) := by
  refine setsX_of_runOp hx Steer.noConfusion (h.clear (by simp [oneSource, wDst, wSrc])) ?_
  rw [M.bind_ok (h.readW_begun _ 0 (by simp))]

theorem capabilityResults : CapabilityResults := by
  refine ⟨fun o s h => ?_, fun o s h => ?_, fun o s h => ?_⟩
  · exact ⟨setsX_capField (f := fun r => BitVec.ofInt 64 (Cap.base r.val)) h rfl,
      setsX_capField (f := fun r => BitVec.ofInt 64 (Cap.top r.val - Cap.base r.val)) h rfl,
      setsX_capField (f := fun r => BitVec.ofNat 64 ((Cap.perms r.val).toNat + Cap.kind r.val * 65536)) h rfl,
      setsX_capField (f := fun r => (Cap.tenant r.val).setWidth 64) h rfl,
      setsX_capField (f := fun r => if r.tag then 1 else 0) h rfl⟩
  · refine sets_of_runOp (d := ⟨o.st, 1, .access, [wBoth o.a]⟩) rfl Steer.noConfusion (h.clear (by simp [wBoth])) ?_
    rw [M.bind_ok (h.readW_begun _ 0 (by simp))]
  · refine ⟨?_, ?_, ?_⟩
    · refine sets_of_runOp (d := ⟨o.st, 1, .access, twoSource 0 o⟩) rfl Steer.noConfusion h.clear_twoSource ?_
      rw [M.bind_ok (h.readW_begun _ 0 (by simp)), M.bind_ok (h.readX_begun _ 1 (by simp))]; rfl
    · refine setsX_of_runOp (d := ⟨o.st, 1, .access, twoSource 0 o⟩) rfl Steer.noConfusion h.clear_twoSource ?_
      rw [M.bind_ok (h.readW_begun _ 0 (by simp)), M.bind_ok (h.readW_begun _ 1 (by simp))]
    · refine sets_of_runOp (d := ⟨o.st, 1, .access, twoSource 0 o⟩) rfl Steer.noConfusion h.clear_twoSource ?_
      rw [M.bind_ok (h.readW_begun _ 0 (by simp)), M.bind_ok (h.readX_begun _ 1 (by simp))]

/-! ## `cmint` -/

theorem mintable_iff (m t : Quad) : Cap.mintable m t = true ↔ bitsAt t 112 16 = 0 ∧ Cap.tenant t = Cap.tenant m ∧
    Cap.has m (Cap.perms t) ∧ Cap.base m ≤ Cap.base t ∧ Cap.top t ≤ Cap.top m ∧ Cap.inRange t := by
  simp [Cap.mintable, and_assoc]

/-- The operation of `cmint` behind its reads (R129). -/
def mint (a : RegNo) (m t : Reg) : M Unit := do
  let self ← self
  raiseIf (!m.tag) cTag (Cap.cursor m.val)
  raiseIf (self.mode ≠ .hypervisor && Cap.tenant m.val ≠ self.tid) cTenant (Cap.cursor m.val)
  raiseIf (Cap.kind m.val ≠ Cap.kMemory || !Cap.has m.val Cap.mt) cPerm (Cap.cursor m.val)
  raiseIf (!Cap.mintable m.val t.val) cPerm (Cap.cursor t.val)
  writeW a ⟨t.val, true⟩

/-- What `cmint` is to the pipeline. -/
def cmintDesc (o : OpRRR) : Desc := ⟨o.st, 1, .access, [wDst o.a, wSrc o.b, wSrc o.c]⟩

section

variable {o : OpRRR} {s : State} (h : Issues s [o.a, o.b, o.c])
include h

theorem cmint_clear : s.self.Clear (cmintDesc o).regs := h.clear (by simp [cmintDesc, wDst, wSrc])

theorem cmint_reads : (do mint o.a (← readW 0 o.b) (← readW 1 o.c)) (s.withSelf (s.self.begun (cmintDesc o))) =
    mint o.a (w s o.b) (w s o.c) (s.withSelf (s.self.begun (cmintDesc o))) := by
  rw [M.bind_ok (h.readW_begun _ 0 (by simp)), M.bind_ok (h.readW_begun _ 1 (by simp))]

theorem cmint_traps {c : BitVec 8} {v : Nat} (hne : c ≠ cSyscall)
    (hm : ∀ u, u.self.mode = s.self.mode → u.self.tid = s.self.tid →
      mint o.a (w s o.b) (w s o.c) u = .error (.trap c (BitVec.ofNat 64 v) none) u) : Traps (.cmint o) s c v := by
  refine traps_of_runOp (d := cmintDesc o) rfl Steer.noConfusion (cmint_clear h) ((cmint_reads h).trans (hm _ ?_ ?_)) hne <;>
    rw [State.self_withSelf] <;> rfl

end

theorem cmintChecks : CmintChecks := by
  intro o s h m t foreign weak inside
  have htenant : ∀ {u : State}, u.self.mode = s.self.mode → u.self.tid = s.self.tid →
      (decide (u.self.mode ≠ .hypervisor) && decide (Cap.tenant m.val ≠ u.self.tid)) = decide foreign := by
    intro u hmode htid
    rw [hmode, htid, ← Bool.decide_and]
  have hperm : (decide (Cap.kind m.val ≠ Cap.kMemory) || !Cap.has m.val Cap.mt) = decide weak := by
    rw [Bool.eq_iff_iff]; simp [weak]
  have hinside : (!Cap.mintable m.val t.val) = !decide inside := by
    rw [Bool.not_inj_iff, Bool.eq_iff_iff, mintable_iff, decide_eq_true_eq]
  refine ⟨fun htag => ?_, fun htag hf => ?_, fun htag hf hw => ?_, fun htag hf hw hi => ?_, fun htag hf hw hi => ?_⟩
  · refine cmint_traps h (by decide) fun u _ _ => ?_
    rw [mint, M.bind_ok (self_run u), M.bind_error (raiseIf_of (by simp [m, htag]) ..)]
  · refine cmint_traps h (by decide) fun u hmode htid => ?_
    rw [mint, M.bind_ok (self_run u), M.bind_ok (raiseIf_of_not (by simp [m, htag]) ..),
      M.bind_error (raiseIf_of ((htenant hmode htid).trans (decide_eq_true hf)) ..)]
  · refine cmint_traps h (by decide) fun u hmode htid => ?_
    rw [mint, M.bind_ok (self_run u), M.bind_ok (raiseIf_of_not (by simp [m, htag]) ..),
      M.bind_ok (raiseIf_of_not ((htenant hmode htid).trans (decide_eq_false hf)) ..),
      M.bind_error (raiseIf_of (hperm.trans (decide_eq_true hw)) ..)]
  · refine cmint_traps h (by decide) fun u hmode htid => ?_
    rw [mint, M.bind_ok (self_run u), M.bind_ok (raiseIf_of_not (by simp [m, htag]) ..),
      M.bind_ok (raiseIf_of_not ((htenant hmode htid).trans (decide_eq_false hf)) ..),
      M.bind_ok (raiseIf_of_not (hperm.trans (decide_eq_false hw)) ..), M.bind_error (raiseIf_of (by rw [hinside, decide_eq_false hi]; rfl) ..)]
  · refine sets_of_runOp (d := cmintDesc o) rfl Steer.noConfusion (cmint_clear h) ((cmint_reads h).trans ?_)
    rw [mint, M.bind_ok (self_run _), M.bind_ok (raiseIf_of_not (by simp [m, htag]) ..),
      M.bind_ok (raiseIf_of_not ((htenant (by rw [State.self_withSelf]; rfl) (by rw [State.self_withSelf]; rfl)).trans (decide_eq_false hf)) ..),
      M.bind_ok (raiseIf_of_not (hperm.trans (decide_eq_false hw)) ..),
      M.bind_ok (raiseIf_of_not (by rw [hinside, decide_eq_true hi]; rfl) ..)]

/-! ## Bounds fields -/

theorem bitsAt_eq (q : Quad) (lo n : Nat) : bitsAt q lo n = q.toNat / 2 ^ lo % 2 ^ n := by
  rw [bitsAt, Nat.shiftRight_eq_div_pow]

/-- A capability with other bounds fields, as a number. -/
theorem toNat_withBounds (c : Quad) {ex bm tm : Nat} (hex : ex < 2 ^ 5) (hbm : bm < 2 ^ 16) (htm : tm < 2 ^ 16) :
    (withBounds c ex bm tm).toNat =
      Cap.cursor c + ex * 2 ^ 48 + bm * 2 ^ 53 + tm * 2 ^ 69 + c.toNat / 2 ^ 85 * 2 ^ 85 := by
  have hc : Cap.cursor c < 2 ^ 48 := Nat.mod_lt _ (by decide)
  have hlt := c.isLt
  simp only [withBounds, Cap.make, BitVec.toNat_or, BitVec.toNat_shiftLeft, BitVec.toNat_ushiftRight, BitVec.toNat_ofNat,
    Nat.shiftLeft_eq, Nat.shiftRight_eq_div_pow]
  have h1 : ((tm * 2 ^ 16 + bm) * 2 ^ 5 + ex) * 2 ^ 48 + Cap.cursor c < 2 ^ 85 := by omega
  have e1 : ((((0 % 8 * 2 ^ 12 + (0 : BitVec 12).toNat) * 2 ^ 12 + (0 : BitVec 12).toNat) * 2 ^ 16 + tm % 2 ^ 16) * 2 ^ 16 + bm % 2 ^ 16) * 2 ^ 5 +
    ex % 2 ^ 5 = (tm * 2 ^ 16 + bm) * 2 ^ 5 + ex := by
    simp; omega
  have e2 : ∀ {a b i : Nat}, b < 2 ^ i → a * 2 ^ i ||| b = a * 2 ^ i + b := fun h => by
    rw [← Nat.shiftLeft_eq, Nat.shiftLeft_add_eq_or_of_lt h]
  rw [e1, Nat.mod_eq_of_lt (show ((tm * 2 ^ 16 + bm) * 2 ^ 5 + ex) < 2 ^ 128 by omega),
    Nat.mod_eq_of_lt (show ((tm * 2 ^ 16 + bm) * 2 ^ 5 + ex) * 2 ^ 48 < 2 ^ 128 from lt_of_le_of_lt (Nat.le_add_right ..) (h1.trans (by norm_num))),
    Nat.mod_eq_of_lt hc, Nat.mod_eq_of_lt (hc.trans (by norm_num : 2 ^ 48 < 2 ^ 128)), e2 hc,
    Nat.mod_eq_of_lt (lt_of_le_of_lt (Nat.div_mul_le_self ..) hlt), Nat.or_comm, e2 h1]
  omega

section

variable (c : Quad) {ex bm tm : Nat} (hex : ex < 2 ^ 5) (hbm : bm < 2 ^ 16) (htm : tm < 2 ^ 16)
include hex hbm htm

theorem cursor_withBounds : Cap.cursor (withBounds c ex bm tm) = Cap.cursor c := by
  have hc : Cap.cursor c < 2 ^ 48 := Nat.mod_lt _ (by decide)
  rw [Cap.cursor, bitsAt_eq, toNat_withBounds c hex hbm htm]; omega

theorem bitsAt_withBounds_high {lo n : Nat} (hlo : 85 ≤ lo) :
    bitsAt (withBounds c ex bm tm) lo n = bitsAt c lo n := by
  have hc : Cap.cursor c < 2 ^ 48 := Nat.mod_lt _ (by decide)
  obtain ⟨k, rfl⟩ := Nat.exists_eq_add_of_le hlo
  rw [bitsAt_eq, bitsAt_eq, toNat_withBounds c hex hbm htm, pow_add, ← Nat.div_div_eq_div_mul, ← Nat.div_div_eq_div_mul]
  congr 2; omega

theorem exponent_withBounds : Cap.exponent (withBounds c ex bm tm) = if ex = 31 then 32 else ex := by
  have hc : Cap.cursor c < 2 ^ 48 := Nat.mod_lt _ (by decide)
  have hfield : bitsAt (withBounds c ex bm tm) 48 5 = ex := by
    rw [bitsAt_eq, toNat_withBounds c hex hbm htm]; omega
  rw [Cap.exponent, hfield]

theorem bm_withBounds : Cap.bm (withBounds c ex bm tm) = bm := by
  have hc : Cap.cursor c < 2 ^ 48 := Nat.mod_lt _ (by decide)
  rw [Cap.bm, bitsAt_eq, toNat_withBounds c hex hbm htm]; omega

theorem tm_withBounds : Cap.tm (withBounds c ex bm tm) = tm := by
  have hc : Cap.cursor c < 2 ^ 48 := Nat.mod_lt _ (by decide)
  rw [Cap.tm, bitsAt_eq, toNat_withBounds c hex hbm htm]; omega

end

/-- The bounds of a capability whose fields say `n` steps from the cursor's own one (R74). -/
theorem base_top_withBounds (c : Quad) {ex e n : Nat} (hex : ex < 2 ^ 5) (he : (if ex = 31 then 32 else ex) = e)
    (hn : 0 < n) (hn' : n ≤ 65536) :
    let i := Cap.cursor c / 2 ^ e
    let v := withBounds c ex (i % 65536) ((i + n) % 65536)
    Cap.base v = i * 2 ^ e ∧ Cap.top v = (i + n) * 2 ^ e := by
  intro i v
  have hbm : i % 65536 < 2 ^ 16 := Nat.mod_lt _ (by decide)
  have htm : (i + n) % 65536 < 2 ^ 16 := Nat.mod_lt _ (by decide)
  have hbase : Cap.base v = i * 2 ^ e := by
    rw [Cap.base, exponent_withBounds c hex hbm htm, he, cursor_withBounds c hex hbm htm, bm_withBounds c hex hbm htm,
      Nat.shiftRight_eq_div_pow]
    show ((i : Int) - (((i : Int) - (i % 65536 : Nat)) % 65536)) * 2 ^ e = _
    congr 1; omega
  refine ⟨hbase, ?_⟩
  rw [Cap.top, hbase, Cap.steps, exponent_withBounds c hex hbm htm, he, bm_withBounds c hex hbm htm,
    tm_withBounds c hex hbm htm, ← add_mul]
  congr 1; omega

/-! ## `cbound` -/

/-- What R128 says of a range narrowed to steps. -/
structure Narrowed (x : Reg) (hi : Nat) (r : Reg) (inexact : Bool) : Prop where
  tag : r.tag = true ↔ x.tag = true ∧ hi ≤ 2 ^ 48 ∧ Cap.base x.val ≤ Cap.base r.val ∧ Cap.top r.val ≤ Cap.top x.val
  low : Cap.base r.val ≤ Cap.cursor x.val
  high : (hi : Int) ≤ Cap.top r.val
  exact_iff : inexact = false ↔ Cap.base r.val = Cap.cursor x.val ∧ Cap.top r.val = hi

/-- The result differs from the source in its bounds alone. -/
def OtherBounds (x r : Reg) : Prop :=
  Cap.cursor r.val = Cap.cursor x.val ∧ Cap.perms r.val = Cap.perms x.val ∧ Cap.kind r.val = Cap.kind x.val ∧
    Cap.tenant r.val = Cap.tenant x.val

theorem otherBounds_withBounds (x : Reg) {ex bm tm : Nat} (hex : ex < 2 ^ 5) (hbm : bm < 2 ^ 16) (htm : tm < 2 ^ 16) (tag : Bool) :
    OtherBounds x ⟨withBounds x.val ex bm tm, tag⟩ := by
  refine ⟨cursor_withBounds _ hex hbm htm, ?_, ?_, ?_⟩
  · rw [Cap.perms, bitsAt_withBounds_high _ hex hbm htm (by decide)]; rfl
  · rw [Cap.kind, bitsAt_withBounds_high _ hex hbm htm (by decide)]; rfl
  · rw [Cap.tenant, bitsAt_withBounds_high _ hex hbm htm (by decide)]; rfl

/-- The steps of an exponent cover the range. -/
theorem boundSteps_spec (lo hi e : Nat) : 0 < boundSteps lo hi e ∧ hi ≤ (lo / 2 ^ e + boundSteps lo hi e) * 2 ^ e := by
  have hpos : 0 < 2 ^ e := Nat.two_pow_pos e
  refine ⟨lt_of_lt_of_le Nat.one_pos (le_max_right ..), ?_⟩
  have hceil : (hi + 2 ^ e - 1) / 2 ^ e ≤ lo / 2 ^ e + boundSteps lo hi e := by
    have := le_max_left ((hi + 2 ^ e - 1) / 2 ^ e - lo / 2 ^ e) 1
    unfold boundSteps; omega
  refine le_trans ?_ (Nat.mul_le_mul_right _ hceil)
  have := Nat.div_add_mod (hi + 2 ^ e - 1) (2 ^ e)
  have := Nat.mod_lt (hi + 2 ^ e - 1) hpos
  rw [Nat.mul_comm]; omega

/-- The largest exponent expresses every range that ends by 2^48. -/
theorem boundSteps_max {lo hi : Nat} (h : hi ≤ 2 ^ 48) : boundSteps lo hi 32 ≤ 65536 := by
  unfold boundSteps; omega

theorem narrow_spec {x : Reg} {y : Word} {r : Reg} {inexact : Bool} (h : narrow x y = some (r, inexact)) :
    OtherBounds x r ∧ Narrowed x (Cap.cursor x.val + y.toNat) r inexact := by
  unfold narrow at h
  dsimp only at h
  split at h
  · cases h
  next e hfind =>
    have hsteps : boundSteps (Cap.cursor x.val) (Cap.cursor x.val + y.toNat) e ≤ 65536 := by
      simpa using List.find?_some hfind
    have hmem := List.mem_of_find?_eq_some hfind
    have hex : (if e = 32 then 31 else e) < 2 ^ 5 := by simp at hmem; split_ifs <;> omega
    have he : (if (if e = 32 then 31 else e) = 31 then 32 else (if e = 32 then 31 else e)) = e := by
      simp at hmem; split_ifs <;> omega
    obtain ⟨hpos, hcover⟩ := boundSteps_spec (Cap.cursor x.val) (Cap.cursor x.val + y.toNat) e
    have hp : 0 < 2 ^ e := Nat.two_pow_pos e
    simp only [Option.some.injEq, Prod.mk.injEq] at h
    obtain ⟨rfl, rfl⟩ := h
    obtain ⟨hbase, htop⟩ := base_top_withBounds x.val hex he hpos hsteps
    have hlow : Cap.cursor x.val / 2 ^ e * 2 ^ e ≤ Cap.cursor x.val := Nat.div_mul_le_self ..
    rw [← Nat.add_mul, Nat.mul_div_cancel _ hp, Nat.mul_div_cancel _ hp]
    refine ⟨otherBounds_withBounds x hex (Nat.mod_lt _ (by decide)) (Nat.mod_lt _ (by decide)) _, ?_, ?_, ?_, ?_⟩
    · rw [hbase, htop]
      simp [and_assoc]
    · rw [hbase]; exact_mod_cast hlow
    · rw [htop]; exact_mod_cast hcover
    · rw [hbase, htop]
      norm_cast
      simp [Nat.add_mul]

/-- A range that no exponent expresses reaches above 2^48. -/
theorem narrow_none {x : Reg} {y : Word} (h : narrow x y = none) : 2 ^ 48 < Cap.cursor x.val + y.toNat := by
  unfold narrow at h
  dsimp only at h
  split at h
  next hfind =>
    rw [List.find?_eq_none] at hfind
    refine Nat.lt_of_not_le fun hle => hfind 32 (by simp) ?_
    simpa using boundSteps_max hle
  · cases h

section

variable {o : OpRRC} {s : State} (h : Issues s [o.a, o.x, o.y])
include h

theorem cbound_narrowed {r : Reg} {inexact : Bool} (hr : narrow (w s o.x) (x s o.y) = some (r, inexact)) :
    Leads (.cbound o) s (s.withSelf ((flagged s.self (if inexact then Machine.Float.fCinexact else 0)).putW o.a.toNat r)) := by
  obtain ⟨u1, hflags, hu1⟩ := (OnlySelf.begun s ⟨o.st, 1, .access, twoSource 0 o⟩).modSelf fun t =>
    flagged t (if inexact then Machine.Float.fCinexact else 0)
  obtain ⟨u2, hput, hu2⟩ := hu1.modSelf fun t => t.putW o.a.toNat r
  refine leads_of_runOp (d := ⟨o.st, 1, .access, twoSource 0 o⟩) rfl Steer.noConfusion h.clear_twoSource ?_ hu2 rfl rfl rfl rfl
    rfl rfl
  rw [M.bind_ok (h.readW_begun _ 0 (by simp)), M.bind_ok (h.readX_begun _ 1 (by simp)), hr]
  exact (M.bind_ok hflags).trans hput

/-- Where no exponent fits, the bounds fields and the flag are free (log 33). -/
theorem cbound_free (hr : narrow (w s o.x) (x s o.y) = none) :
    let v := Config.freeValue s.fresh
    Leads (.cbound o) s ({ s with fresh := s.fresh + 1 }.withSelf
      ((flagged s.self (if v.getLsbD 127 then Machine.Float.fCinexact else 0)).putW o.a.toNat
        ⟨withBounds (w s o.x).val (bitsAt v 0 5) (bitsAt v 5 16) (bitsAt v 21 16), false⟩)) := by
  intro v
  let d : Desc := ⟨o.st, 1, .access, twoSource 0 o⟩
  have hfree : freeValue (s.withSelf (s.self.begun d)) = .ok v ({ s with fresh := s.fresh + 1 }.withSelf (s.self.begun d)) := rfl
  obtain ⟨u1, hflags, hu1⟩ := (OnlySelf.begun { s with fresh := s.fresh + 1 } d).modSelf fun t =>
    flagged t (if v.getLsbD 127 then Machine.Float.fCinexact else 0)
  obtain ⟨u2, hput, hu2⟩ := hu1.modSelf fun t => t.putW o.a.toNat
    ⟨withBounds (w s o.x).val (bitsAt v 0 5) (bitsAt v 5 16) (bitsAt v 21 16), false⟩
  refine leads_of_runOp (d := d) rfl Steer.noConfusion h.clear_twoSource ?_ hu2 rfl rfl rfl rfl rfl rfl
  rw [M.bind_ok (h.readW_begun _ 0 (by simp)), M.bind_ok (h.readX_begun _ 1 (by simp)), hr]
  exact (M.bind_ok hfree).trans ((M.bind_ok hflags).trans hput)

end

theorem cboundHoldsRange : CboundHoldsRange := by
  intro o s h src lo hi
  cases hr : narrow src (x s o.y) with
  | some p =>
    obtain ⟨r, inexact⟩ := p
    obtain ⟨⟨hcursor, hperms, hkind, htenant⟩, htag, hlow, hhigh, hexact⟩ := narrow_spec hr
    exact ⟨r, inexact, 0, cbound_narrowed h hr, hcursor, hperms, hkind, htenant, htag, fun _ => ⟨rfl, hlow, hhigh, hexact⟩⟩
  | none =>
    have hhi : ¬hi ≤ 2 ^ 48 := Nat.not_le_of_lt (narrow_none hr)
    obtain ⟨hcursor, hperms, hkind, htenant⟩ := otherBounds_withBounds src (ex := bitsAt (Config.freeValue s.fresh) 0 5)
      (bm := bitsAt (Config.freeValue s.fresh) 5 16) (tm := bitsAt (Config.freeValue s.fresh) 21 16)
      (Nat.mod_lt _ (by decide)) (Nat.mod_lt _ (by decide)) (Nat.mod_lt _ (by decide)) false
    exact ⟨_, _, 1, cbound_free h hr, hcursor, hperms, hkind, htenant, 
      ⟨fun htag => absurd htag (by simp), fun hall => absurd hall.2.1 hhi⟩, fun hle => absurd hle hhi⟩

/-- Settles O14: each instruction's result from its capability, `cbound`'s range by its exponent, `cmint`'s checks in order. -/
theorem capabilityDerivation : Obligations.CapabilityDerivation := ⟨capabilityResults, cboundHoldsRange, cmintChecks⟩

end Sys2Proof.Claims
end

section
/-! SUPPORT. Instructions that may transfer control, wait or check a privilege: from the run of their operation to the vocabulary
of the statements. -/

namespace Sys2Proof.Claims

open Sys2Proof.Machine

/-- A changed strand that shows what the old one did. -/
theorem OnlySelf.sameAs {s u : State} {r : Strand} (h : OnlySelf s r u) (hstill : r.still = s.self.still)
    (hregs : r.regs = s.self.regs) : SameAs s u :=
  ⟨h.cur, fun p => by simp only [h.self, Strand.phys, hregs], by rw [h.self, hstill], h.elsewhere⟩

section

variable {i : Instr} {s v u : State} {d : Desc} {n : Nat} {priv : M Unit} {body : M Flow}
variable (hx : exec i s = runWith d n priv body s) (hl : d.steer ≠ .lanes) (hp : priv s = .ok () s) (hc : s.self.Clear d.regs)
include hx hl hp hc

/-- An operation that transfers control. -/
theorem goesTo_of_runWith {p : Reg} (hb : body (s.withSelf (s.self.begun d)) = .ok (.goto p) u) (hsame : SameAs v u)
    (hapart : u.self.apart = none) (hn : u.self.instret = s.self.instret) : GoesTo i s v p :=
  hsame.goesTo (hx.trans (runWith_ok (prologue_clear hl hp hc) hb)) hapart hn

/-- An operation that goes on at NPC. -/
theorem leads_of_runWith (hb : body (s.withSelf (s.self.begun d)) = .ok .next u) (hsame : SameAs v u)
    (hapart : u.self.apart = none) (hn : u.self.instret = s.self.instret) (hpcc : u.self.pcc = s.self.pcc)
    (hir : u.self.ir = s.self.ir) : Leads i s v :=
  hsame.leads (hx.trans (runWith_ok (prologue_clear hl hp hc) hb)) hapart hn hpcc hir

/-- An operation that waits with what it has done. -/
theorem exec_of_wait (hb : body (s.withSelf (s.self.begun d)) = .error .wait u) : exec i s = .next u.idle := by
  rw [hx, runWith, M.bind_ok (prologue_clear hl hp hc), hb]; rfl

/-- An operation that waits with nothing done. -/
theorem exec_of_retry (hb : body (s.withSelf (s.self.begun d)) = .error .retry u) : exec i s = .next s.idle := by
  rw [hx, runWith, M.bind_ok (prologue_clear hl hp hc), hb]; rfl

/-- An operation that raises a cause, with what it did undone. -/
theorem traps_of_runWith {c : BitVec 8} {w : Word} {w2 : Option Word}
    (hb : body (s.withSelf (s.self.begun d)) = .error (.trap c w w2) u) (hu : u.units.walkErrors = s.units.walkErrors)
    (hne : c ≠ cSyscall) : Traps2 i s c w w2 := by
  have htrap := hx.trans (runWith_trap hl hp hc hb hu)
  obtain ⟨-, -, htogether⟩ := hc
  exact traps_of_takeCause htrap htogether hne

/-- The same with nothing done behind the prologue. -/
theorem traps_behind_prologue {c : BitVec 8} {w : Word} {w2 : Option Word}
    (hb : body (s.withSelf (s.self.begun d)) = .error (.trap c w w2) (s.withSelf (s.self.begun d))) (hne : c ≠ cSyscall) :
    Traps2 i s c w w2 :=
  traps_of_runWith hx hl hp hc hb rfl hne

end

/-- A privilege check that raises a cause. -/
theorem traps_of_priv {i : Instr} {s : State} {d : Desc} {n : Nat} {priv : M Unit} {body : M Flow} {c : BitVec 8} {w : Word}
    {w2 : Option Word} (hx : exec i s = runWith d n priv body s) (hp : priv s = .error (.trap c w w2) s) (ht : Together s)
    (hne : c ≠ cSyscall) : Traps2 i s c w w2 :=
  traps_of_takeCause (hx.trans (runWith_priv_trap hp)) ht hne

/-- One clk of waiting shows nothing. -/
theorem SameAs.idle {s u : State} (h : SameAs s u) : SameAs s u.idle := by
  obtain ⟨hcur, hphys, hstill, hels⟩ := h
  refine ⟨u.cur_idle.trans hcur, fun p => ?_, ?_, ?_⟩
  · rw [State.self_idle]; exact hphys p
  · rw [State.self_idle]; exact hstill
  · exact (hels.withSelf hcur _).spend _ _

/-- An instruction that has changed nothing that shows, waits. -/
theorem waits_of_idle {i : Instr} {s u : State} (hx : exec i s = .next u.idle) (hsame : SameAs s u)
    (hpcc : u.self.pcc = s.self.pcc) (hn : u.self.instret = s.self.instret) : Waits i s := by
  refine ⟨_, hx, ?_, ?_, hsame.idle⟩ <;> rw [State.self_idle]
  · exact hpcc
  · exact hn

theorem SameAs.refl (s : State) : SameAs s s := ⟨rfl, fun _ => rfl, rfl, .refl s⟩

theorem SameAs.begun (s : State) (d : Desc) : SameAs s (s.withSelf (s.self.begun d)) := (OnlySelf.begun s d).sameAs rfl rfl

/-- A strand behind the prologue differs from the one before in nothing that a control transfer looks at. -/
theorem pccAt_begun (t : Strand) (d : Desc) (a : Nat) : (t.begun d).pccAt a = t.pccAt a := rfl

end Sys2Proof.Claims
end

section
/-! SUPPORT. Branches, `hold`, and jumps through registers (R42, R101 to R103). -/

namespace Sys2Proof.Claims

open Sys2Proof.Machine

/-! ## Branches (R101) -/

theorem branchIf_run (i : Imm) (taken : Bool) (s : State) :
    branchIf i taken s = .ok (if taken then .goto (s.self.pccAt (s.self.relative i)) else .next) s := rfl

section

variable {i : Instr} {s : State} {d : Desc} {body : M Flow} (hx : exec i s = runFlow d body s) (hl : d.steer ≠ .lanes)
  (hc : s.self.Clear d.regs)
include hx hl hc

/-- A branch whose condition the registers decide as the state stands. -/
theorem takes_of_runFlow {imm : Imm} {c : Bool}
    (hb : body (s.withSelf (s.self.begun d)) = branchIf imm c (s.withSelf (s.self.begun d))) :
    (c = true → GoesTo i s s (s.self.pccAt (((s.self.pc : Int) + 2 * imm.toInt) % 2 ^ 48).toNat)) ∧ (c = false → Leads i s s) := by
  rw [branchIf_run] at hb
  obtain ⟨-, -, hapart, -⟩ := id hc
  refine ⟨fun h => ?_, fun h => ?_⟩
  · rw [h, if_pos rfl, State.self_withSelf] at hb
    refine goesTo_of_runWith (priv := pure ()) hx hl rfl hc hb (.begun s d) ?_ ?_ <;> rw [State.self_withSelf]
    · exact hapart
    · rfl
  · rw [h] at hb
    refine leads_of_runWith (priv := pure ()) hx hl rfl hc hb (.begun s d) ?_ ?_ ?_ ?_ <;> rw [State.self_withSelf]
    · exact hapart
    all_goals rfl

end

/-- The clause of R101 for one branch. -/
def Takes (i : Instr) (s : State) (imm : Imm) (c : Prop) : Prop :=
  (c → GoesTo i s s (s.self.pccAt (((s.self.pc : Int) + 2 * imm.toInt) % 2 ^ 48).toNat)) ∧ (¬c → Leads i s s)

theorem takes_branch1 {i : Instr} {o : OpRI} {s : State} {f : Word → Bool} {c : Prop} (h : Issues s [o.a])
    (hx : exec i s = branch1 o f s) (hf : f (x s o.a) = true ↔ c) : Takes i s o.imm c := by
  have := takes_of_runFlow (imm := o.imm) (c := f (x s o.a)) hx Steer.noConfusion (h.clear (by simp [wSrc])) ?_
  · rwa [hf, ← Bool.not_eq_true, hf] at this
  · rw [M.bind_ok (h.readX_begun _ 0 (by simp))]

theorem takes_branch2 {i : Instr} {o : OpRX} {s : State} {f : Word → Word → Bool} {c : Prop} (h : Issues s [o.a, o.b])
    (hx : exec i s = branch2 o f s) (hf : f (x s o.a) (x s o.b) = true ↔ c) : Takes i s o.imm c := by
  have := takes_of_runFlow (imm := o.imm) (c := f (x s o.a) (x s o.b)) hx Steer.noConfusion (h.clear (by simp [wSrc])) ?_
  · rwa [hf, ← Bool.not_eq_true, hf] at this
  · rw [M.bind_ok (h.readX_begun _ 0 (by simp)), M.bind_ok (h.readX_begun _ 1 (by simp))]

theorem branchTargets : BranchTargets := by
  refine ⟨fun o s h => ⟨?_, ?_⟩, fun o s h => ⟨?_, ?_, ?_, ?_⟩, fun o s h => ?_⟩
  · exact takes_branch1 (f := fun x => x = 0) h rfl decide_eq_true_iff
  · exact takes_branch1 (f := fun x => x ≠ 0) h rfl decide_eq_true_iff
  · exact takes_branch2 (f := fun x y => x.slt y) h rfl decide_eq_true_iff
  · exact takes_branch2 (f := fun x y => !x.slt y) h rfl (by simp [BitVec.slt])
  · exact takes_branch2 (f := fun x y => x.ult y) h rfl decide_eq_true_iff
  · exact takes_branch2 (f := fun x y => !x.ult y) h rfl (by simp [BitVec.ult])
  · obtain ⟨htaken, -⟩ := takes_of_runFlow (i := .j o) (imm := o.imm) (c := true) (d := ⟨o.st, 0, .joint, []⟩) rfl
      Steer.noConfusion h.clear rfl
    exact ⟨fun _ => htaken rfl, fun hn => absurd trivial hn⟩

/-! ## `hold` (R42) -/

/-- What `hold` is to the pipeline. -/
def holdDesc (o : OpI) : Desc := ⟨o.st, 0, .joint, []⟩

/-- The operation of `hold` from the number of turns that are left. -/
def holdFor (left : Nat) : M Flow :=
  if left ≤ 1 then pure .next
  else do
    modSelf fun t => { t with holding := some (left - 1) }
    throw .wait

theorem hold_body (o : OpI) (s : State) : (do let t ← self; holdFor (t.holding.getD (o.imm.toNat + 1)))
    (s.withSelf (s.self.begun (holdDesc o))) = holdFor (s.self.holding.getD (o.imm.toNat + 1)) (s.withSelf (s.self.begun (holdDesc o))) := by
  rw [M.bind_ok (self_run _), State.self_withSelf]; rfl

theorem holdTakesTime : HoldTakesTime := by
  intro o s h left
  obtain ⟨hapart, -⟩ := id h
  refine ⟨fun hle => ?_, fun hlt => ?_⟩
  · have hbody := hold_body o s
    rw [show s.self.holding.getD (o.imm.toNat + 1) = left from rfl, holdFor, if_pos hle] at hbody
    have hx : exec (.hold o) s = .next ((s.withSelf (s.self.begun (holdDesc o))).commit s (holdDesc o) 0 .next) :=
      runFlow_ok Steer.noConfusion h.clear hbody
    obtain ⟨t, ht, hpcc, hn, hsame⟩ := (SameAs.begun s (holdDesc o)).leads hx (by rw [State.self_withSelf]; exact hapart)
      (by rw [State.self_withSelf]; rfl) (by rw [State.self_withSelf]; rfl) (by rw [State.self_withSelf]; rfl)
    obtain rfl : (s.withSelf (s.self.begun (holdDesc o))).commit s (holdDesc o) 0 .next = t := by
      rw [hx] at ht; injection ht
    have hself := State.self_commit_next (s := s.withSelf (s.self.begun (holdDesc o))) s (holdDesc o) 0
      (by rw [State.self_withSelf]; exact hapart)
    refine ⟨_, hx, hpcc, hn, hsame, ?_, ?_⟩ <;> rw [hself, State.self_withSelf]
    · show s.self.clk + (1 + o.st.toNat + 0) = s.self.clk + 1 + o.st.toNat
      omega
    · rfl
  · have hbody := hold_body o s
    rw [show s.self.holding.getD (o.imm.toNat + 1) = left from rfl, holdFor, if_neg (Nat.not_le_of_lt hlt)] at hbody
    obtain ⟨u, hset, hu⟩ := (OnlySelf.begun s (holdDesc o)).modSelf fun t => { t with holding := some (left - 1) }
    have hx := exec_of_wait (i := .hold o) (priv := pure ()) (d := holdDesc o) rfl Steer.noConfusion rfl h.clear
      (hbody.trans (M.bind_ok hset))
    refine ⟨_, hx, ?_, ?_, (hu.sameAs rfl rfl).idle, ?_, ?_⟩ <;> rw [State.self_idle, hu.self] <;> rfl

/-! ## The register window -/

section

variable (t : Strand) (ns : List Nat)

theorem clearFrame_still : (t.clearFrame ns).still = t.still := by
  unfold Strand.clearFrame
  induction ns generalizing t with
  | nil => rfl
  | cons n ns ih => exact ih _

theorem clearFrame_pcc : (t.clearFrame ns).pcc = t.pcc := by
  unfold Strand.clearFrame
  induction ns generalizing t with
  | nil => rfl
  | cons n ns ih => exact ih _

theorem clearFrame_instret : (t.clearFrame ns).instret = t.instret := by
  unfold Strand.clearFrame
  induction ns generalizing t with
  | nil => rfl
  | cons n ns ih => exact ih _

theorem clearFrame_win : (t.clearFrame ns).win = t.win := (congrArg Strand.win (clearFrame_still t ns) : (t.clearFrame ns).still.win = t.still.win)

theorem clearFrame_regs : (t.clearFrame ns).regs =
    ns.foldl (fun m n => storeAt Reg.zero ((t.win.base + n) % 256) Reg.zero m) t.regs := by
  unfold Strand.clearFrame
  induction ns generalizing t with
  | nil => rfl
  | cons n ns ih => exact ih _

end

/-- Where there is room, nothing is spilled. -/
theorem makeRoom_run {s : State} {n keep : Nat} (h : Room s.self n keep) (fuel : Nat) : makeRoom n keep (fuel + 1) s = .ok () s := by
  rw [makeRoom, M.bind_ok (self_run s)]
  rcases h with h | ⟨hbelow, hlinks⟩
  · simp only [h, List.isEmpty_nil, if_true]; rfl
  · simp only [Nat.not_lt_of_le hbelow, Nat.not_lt_of_le hlinks, gt_iff_lt, decide_false, Bool.or_self, Bool.false_eq_true,
      if_false, ite_self]
    rfl

/-- A call event that fits (R70). -/
theorem callEvent_run {s : State} (h : CallFits s.self) : callEvent s = .ok () (s.withSelf (called s.self)) := by
  obtain ⟨hdepth, hroom⟩ := h
  unfold callEvent
  rw [M.bind_ok (self_run s), M.bind_ok (raiseIf_of_not (decide_eq_false hdepth) ..), M.bind_ok (makeRoom_run hroom 63)]
  rfl

/-- The call event of an instruction does not depend on what its prologue notes. -/
theorem sameAs_called (s : State) (d : Desc) :
    SameAs (s.withSelf (called s.self)) ((s.withSelf (s.self.begun d)).withSelf (called (s.self.begun d))) := by
  refine ((OnlySelf.begun s d).withSelf _).same ?_ ?_
  · unfold called; rw [clearFrame_still, clearFrame_still]; rfl
  · unfold called; rw [clearFrame_regs, clearFrame_regs]; rfl

theorem called_pcc (t : Strand) : (called t).pcc = t.pcc := by unfold called; rw [clearFrame_pcc]
theorem called_instret (t : Strand) : (called t).instret = t.instret := by unfold called; rw [clearFrame_instret]
theorem called_apart (t : Strand) : (called t).apart = t.apart :=
  (congrArg Strand.apart (clearFrame_still ..) : (called t).still.apart = _)

/-! ## Jumps through registers (R103) -/

theorem registerTarget_fault {r : Reg} {s : State} {c : BitVec 8} (h : r.tag = true)
    (hf : installFault s.self.mode s.self.tid r = some c) :
    registerTarget r s = .error (.trap c (BitVec.ofNat 64 (Cap.cursor r.val)) none) s := by
  unfold registerTarget
  rw [M.bind_ok (self_run s), if_pos h, hf]; rfl

theorem registerTarget_ok {r : Reg} {s : State} (h : r.tag = true) (hf : installFault s.self.mode s.self.tid r = none) :
    registerTarget r s = .ok (installed r) s := by
  unfold registerTarget
  rw [M.bind_ok (self_run s), if_pos h, hf]; rfl

theorem registerTarget_odd {r : Reg} {s : State} (h : r.tag = false) (ha : Cap.cursor r.val % 2 = 1) :
    registerTarget r s = .error (.trap cAlign (BitVec.ofNat 64 (Cap.cursor r.val)) none) s := by
  unfold registerTarget
  rw [M.bind_ok (self_run s), if_neg (by simp [h]), M.bind_error (raiseIf_of (decide_eq_true ha) ..)]

theorem registerTarget_even {r : Reg} {s : State} (h : r.tag = false) (ha : Cap.cursor r.val % 2 = 0) :
    registerTarget r s = .ok (s.self.pccAt (Cap.cursor r.val)) s := by
  unfold registerTarget
  rw [M.bind_ok (self_run s), if_neg (by simp [h]), M.bind_ok (raiseIf_of_not (by simp [ha]) ..)]; rfl

/-- What `jr` and `callr` are to the pipeline. -/
def jumpDesc (o : OpR) : Desc := ⟨o.st, 0, .bySource, [wSrc o.a]⟩

section

variable {o : OpR} {s : State} (h : Issues s [o.a])
include h

theorem jump_clear : s.self.Clear (jumpDesc o).regs := h.clear (by simp [jumpDesc, wSrc])

theorem jump_traps {c : BitVec 8} {v : Nat} (hne : c ≠ cSyscall)
    (ht : ∀ u, u.self.mode = s.self.mode → u.self.tid = s.self.tid →
      registerTarget (w s o.a) u = .error (.trap c (BitVec.ofNat 64 v) none) u) :
    Traps (.jr o) s c v ∧ Traps (.callr o) s c v := by
  have hreg := ht (s.withSelf (s.self.begun (jumpDesc o))) (by rw [State.self_withSelf]; rfl) (by rw [State.self_withSelf]; rfl)
  constructor <;>
  · refine traps_behind_prologue (d := jumpDesc o) (priv := pure ()) rfl Steer.noConfusion rfl (jump_clear h) ?_ hne
    rw [M.bind_ok (h.readW_begun _ 0 (by simp)), M.bind_error hreg]

theorem jump_goes {p : Reg}
    (ht : ∀ u, u.self.mode = s.self.mode → u.self.tid = s.self.tid → u.self.pcc = s.self.pcc →
      registerTarget (w s o.a) u = .ok p u) :
    GoesTo (.jr o) s s p ∧ (CallFits s.self → GoesTo (.callr o) s (s.withSelf (called s.self)) p) := by
  have hreg := ht (s.withSelf (s.self.begun (jumpDesc o))) (by rw [State.self_withSelf]; rfl) (by rw [State.self_withSelf]; rfl)
    (by rw [State.self_withSelf]; rfl)
  obtain ⟨⟨hapart, -⟩, -⟩ := id h
  refine ⟨?_, fun hfits => ?_⟩
  · refine goesTo_of_runWith (d := jumpDesc o) (priv := pure ()) rfl Steer.noConfusion rfl (jump_clear h) ?_ (.begun s (jumpDesc o))
      (by rw [State.self_withSelf]; exact hapart) (by rw [State.self_withSelf]; rfl)
    rw [M.bind_ok (h.readW_begun _ 0 (by simp)), M.bind_ok hreg]; rfl
  · have hcall : callEvent (s.withSelf (s.self.begun (jumpDesc o))) = .ok () _ :=
      callEvent_run (by rw [State.self_withSelf]; exact hfits)
    rw [State.self_withSelf] at hcall
    refine goesTo_of_runWith (d := jumpDesc o) (priv := pure ()) rfl Steer.noConfusion rfl (jump_clear h) ?_
      (sameAs_called s (jumpDesc o)) (by rw [State.self_withSelf, called_apart]; exact hapart)
      (by rw [State.self_withSelf, called_instret]; rfl)
    rw [M.bind_ok (h.readW_begun _ 0 (by simp)), M.bind_ok hreg, M.bind_ok hcall]; rfl

end

/-- The install checks by their conditions (R103). -/
theorem installFault_eq (mode : Mode) (tid : BitVec 12) (r : Reg) : installFault mode tid r =
    if mode ≠ .hypervisor ∧ Cap.tenant r.val ≠ tid then some cTenant
    else if (Cap.kind r.val = Cap.kMemory ∨ Cap.kind r.val = Cap.kEntry) ∧ Cap.has r.val Cap.x then
      if Cap.cursor r.val % 2 = 1 then some cAlign else none
    else some cPerm := by
  unfold installFault
  by_cases hk : Cap.kind r.val = Cap.kMemory <;> by_cases he : Cap.kind r.val = Cap.kEntry <;>
    cases hx : Cap.has r.val Cap.x <;> simp [hk, he]

theorem registerTargets : RegisterTargets := by
  intro o s h r a foreign code stop go
  have hfault : ∀ u : State, u.self.mode = s.self.mode → u.self.tid = s.self.tid →
      installFault u.self.mode u.self.tid r =
        if foreign then some cTenant else if code then if a % 2 = 1 then some cAlign else none else some cPerm := by
    intro u hmode htid
    rw [installFault_eq, hmode, htid]
  refine ⟨fun htag ha => ?_, fun htag ha => ?_, fun htag hf => ?_, fun htag hf hk => ?_, fun htag hf hk ha => ?_,
    fun htag hf hk ha => ?_⟩
  · exact jump_traps h (by decide) fun u _ _ => registerTarget_odd htag ha
  · refine jump_goes h fun u _ _ hpcc => ?_
    rw [registerTarget_even htag ha]
    simp only [Strand.pccAt, hpcc]; rfl
  · exact jump_traps h (by decide) fun u hm ht => registerTarget_fault htag (by rw [hfault u hm ht, if_pos hf])
  · exact jump_traps h (by decide) fun u hm ht => registerTarget_fault htag (by rw [hfault u hm ht, if_neg hf, if_neg hk])
  · exact jump_traps h (by decide) fun u hm ht => registerTarget_fault htag (by rw [hfault u hm ht, if_neg hf, if_pos hk, if_pos ha])
  · have hinst : (⟨Cap.withKind r.val Cap.kMemory, true⟩ : Reg) = installed r := by rw [installed, htag]
    rw [hinst]
    exact jump_goes h fun u hm ht _ => registerTarget_ok htag
      (by rw [hfault u hm ht, if_neg hf, if_pos hk, if_neg (by omega)])

/-- Settles O15: branches on what their registers hold, `hold` turn by turn, and the checks of a register's target. -/
theorem branches : Obligations.Branches := ⟨branchTargets, holdTakesTime, registerTargets⟩

end Sys2Proof.Claims
end

section
/-! SUPPORT. Calls, returns and frame changes within the register window (R70, R102 to R106). -/

namespace Sys2Proof.Claims

open Sys2Proof.Machine

/-! ## `call` (R102) -/

theorem callEvent_deepest {s : State} (h : s.self.win.depth = 2 ^ 32 - 1) :
    callEvent s = .error (.trap cFrame (BitVec.ofNat 64 0) none) s := by
  unfold callEvent
  rw [M.bind_ok (self_run s), M.bind_error (raiseIf_of (decide_eq_true h) ..)]

theorem callPushesLink : CallPushesLink := by
  intro o s h
  let d : Desc := ⟨o.st, 0, .joint, []⟩
  obtain ⟨hapart, -⟩ := id h
  refine ⟨fun hdepth => ?_, fun hfits => ?_⟩
  · refine traps_behind_prologue (d := d) (priv := pure ()) rfl Steer.noConfusion rfl h.clear ?_ (by decide)
    exact M.bind_error (callEvent_deepest (by rw [State.self_withSelf]; exact hdepth))
  · have hcall : callEvent (s.withSelf (s.self.begun d)) = .ok () _ :=
      callEvent_run (by rw [State.self_withSelf]; exact hfits)
    rw [State.self_withSelf] at hcall
    refine goesTo_of_runWith (d := d) (priv := pure ()) rfl Steer.noConfusion rfl h.clear ?_
      (sameAs_called s d) (by rw [State.self_withSelf, called_apart]; exact hapart)
      (by rw [State.self_withSelf, called_instret]; rfl)
    rw [M.bind_ok hcall, branchIf_run, if_pos rfl, State.self_withSelf]
    simp only [Strand.pccAt, Strand.relative, Strand.pc, called_pcc]
    rfl

/-! ## `ret` (R104) -/

theorem hasOps_iff (s : State) : HasOps s ↔ ((s.quad (quadOf s.cur)).ops.any (fun o => o.sid = s.cur) ||
    (s.core (coreOf s.cur)).queue.any (·.own s.cur)) = true := by
  simp [HasOps]

theorem waitForLanes_busy {s : State} (h : HasOps s) : waitForLanes s = .error .retry s := by
  rw [hasOps_iff] at h
  unfold waitForLanes
  rw [M.bind_ok (M.get_run s), if_pos h]; rfl

theorem waitForLanes_free {s : State} (h : ¬HasOps s) : ∃ t, waitForLanes s = .ok () (s.withSelf t) := by
  rw [hasOps_iff] at h
  unfold waitForLanes
  rw [M.bind_ok (M.get_run s), if_neg h]
  exact ⟨_, modSelf_run _ s⟩

/-- What `ret` is to the pipeline. -/
def retDesc (o : OpN) : Desc := ⟨o.st, 0, .joint, []⟩

theorem ret_waits {o : OpN} {s : State} (h : Together s) (hdepth : s.self.win.depth = 0) (hops : HasOps s) :
    Waits (.ret o) s := by
  refine waits_of_idle (u := s) ?_ (.refl s) rfl rfl
  refine exec_of_retry (u := s.withSelf (s.self.begun (retDesc o))) (d := retDesc o) (priv := pure ()) rfl Steer.noConfusion rfl
    h.clear ?_
  rw [M.bind_ok (self_run _), State.self_withSelf, if_pos (show (s.self.begun (retDesc o)).win.depth = 0 from hdepth)]
  exact M.bind_error (waitForLanes_busy hops)

theorem ret_ends {o : OpN} {s : State} (h : Together s) (hdepth : s.self.win.depth = 0) (hops : ¬HasOps s) :
    ∃ t, exec (.ret o) s = .next t ∧ (t.strand s.cur).live = false := by
  obtain ⟨t, hwait⟩ := waitForLanes_free (s := s.withSelf (s.self.begun (retDesc o))) hops
  obtain ⟨u, hend, hlive⟩ := endStrand_ends s.cur none ((s.withSelf (s.self.begun (retDesc o))).withSelf t)
  refine ⟨u.commit s (retDesc o) 0 .ended, runFlow_ok (d := retDesc o) Steer.noConfusion h.clear ?_, ?_⟩
  · rw [M.bind_ok (self_run _), State.self_withSelf, if_pos (show (s.self.begun (retDesc o)).win.depth = 0 from hdepth)]
    exact (M.bind_ok hwait).trans (M.bind_ok hend)
  · exact hlive

/-- What a `ret` does with the link of its resident caller. -/
def returnTo (l : Link) : M Flow := do
  let p ← installSaved l.pcc
  modSelf fun t => { t with win := t.win.pop l }
  pure (.goto p)

section

variable {o : OpN} {s : State} (h : Together s) {l : Link} {ls : List Link} (hdepth : s.self.win.depth ≠ 0)
  (hlinks : s.self.win.links = l :: ls)
include h hdepth hlinks

theorem exec_ret_resident : exec (.ret o) s = runFlow (retDesc o) (returnTo l) s := by
  have hl : (s.self.begun (retDesc o)).win.links = l :: ls := hlinks
  have hp := prologue_clear (d := retDesc o) (priv := pure ()) Steer.noConfusion rfl h.clear
  refine Eq.trans (b := runFlow (retDesc o) _ s) rfl ?_
  unfold runFlow runWith
  rw [M.bind_ok hp, M.bind_ok hp, M.bind_ok (self_run _),
    State.self_withSelf, if_neg (show ¬(s.self.begun (retDesc o)).win.depth = 0 from hdepth), hl,
    if_neg (by simp)]
  beta_reduce
  rw [M.bind_ok (self_run _), State.self_withSelf, hl]
  rfl

theorem ret_install_traps {c : BitVec 8} {v : Nat} (hne : c ≠ cSyscall)
    (hf : ∀ u, u.self.mode = s.self.mode → u.self.tid = s.self.tid →
      installSaved l.pcc u = .error (.trap c (BitVec.ofNat 64 v) none) u) : Traps (.ret o) s c v := by
  refine traps_behind_prologue (priv := pure ()) (exec_ret_resident h hdepth hlinks) Steer.noConfusion rfl h.clear ?_ hne
  exact M.bind_error (hf _ (by rw [State.self_withSelf]; rfl) (by rw [State.self_withSelf]; rfl))

theorem ret_installed (htag : l.pcc.tag = true) (hf : installFault s.self.mode s.self.tid l.pcc = none) :
    GoesTo (.ret o) s (s.withSelf { s.self with win := s.self.win.pop l }) (installed l.pcc) := by
  obtain ⟨hapart, -⟩ := id h
  have hinstall : installSaved l.pcc (s.withSelf (s.self.begun (retDesc o))) = .ok (installed l.pcc) _ :=
    installSaved_ok htag (by rw [State.self_withSelf]; exact hf)
  obtain ⟨u, hpop, hu⟩ := (OnlySelf.begun s (retDesc o)).modSelf fun t => { t with win := t.win.pop l }
  refine goesTo_of_runWith (u := u) (priv := pure ()) (exec_ret_resident h hdepth hlinks) Steer.noConfusion rfl h.clear ?_
    (hu.same rfl rfl) (by rw [hu.self]; exact hapart) (by rw [hu.self]; rfl)
  exact (M.bind_ok hinstall).trans (M.bind_ok hpop)

end

theorem retRestoresCaller : RetRestoresCaller := by
  intro o s h
  refine ⟨fun hdepth hops => ret_waits h hdepth hops, fun hdepth hops _ => ret_ends h hdepth hops,
    fun l ls hdepth hlinks => ⟨fun htag => ?_, fun c htag hf => ?_, fun htag hf => ?_⟩⟩
  · exact ret_install_traps h hdepth hlinks (by decide) fun u _ _ => installSaved_untagged htag
  · exact ret_install_traps h hdepth hlinks (installFault_ne_syscall hf) fun u hm ht =>
      installSaved_fault htag (by rw [hm, ht]; exact hf)
  · have := ret_installed (o := o) h hdepth hlinks htag hf
    rwa [Window.pop, hlinks] at this

/-! ## `enter` and `wshr` (R105, R106) -/

/-- What `enter` and `wshr` are to the pipeline. -/
def frameDesc (o : OpI) : Desc := ⟨o.st, 0, .joint, []⟩

section

variable {o : OpI} {s : State} (h : Together s)
include h

theorem enter_traps (hn : 0 < s.self.win.depth ∧ o.imm.toNat < s.self.win.overlap - s.self.win.shift) :
    Traps (.enter o) s cFrame o.imm.toNat := by
  refine traps_of_runOp (d := frameDesc o) rfl Steer.noConfusion h.clear ?_ (by decide)
  rw [M.bind_ok (self_run _), State.self_withSelf, M.bind_error (raiseIf_of ?_ ..)]
  simpa using (show 0 < (s.self.begun (frameDesc o)).win.depth ∧
    o.imm.toNat < (s.self.begun (frameDesc o)).win.overlap - (s.self.begun (frameDesc o)).win.shift from hn)

/-- The strand in its new frame of `n` registers (R105). -/
def entered (t : Strand) (n : Nat) : Strand :=
  { t.clearFrame ((List.range (n - t.win.frame)).map (· + t.win.frame)) with win := { t.win with frame := n } }

omit h in
theorem entered_eq (t : Strand) (n : Nat) : entered t n =
    { t.clearFrame ((List.range (n - t.win.frame)).map (· + t.win.frame)) with
      win := { (t.clearFrame ((List.range (n - t.win.frame)).map (· + t.win.frame))).win with frame := n } } := by
  rw [clearFrame_win]; rfl

omit h in
theorem still_entered {t r : Strand} (n : Nat) (hs : t.still = r.still) : (entered t n).still = (entered r n).still := by
  have hwin : t.win = r.win := (congrArg Strand.win hs : t.still.win = r.still.win)
  have hclear := fun ns => (clearFrame_still t ns).trans (hs.trans (clearFrame_still r ns).symm)
  rw [entered, entered, hwin]
  exact congrArg (fun v : Strand => { v with win := { r.win with frame := n } }) (hclear _)

theorem enter_leads (hn : ¬(0 < s.self.win.depth ∧ o.imm.toNat < s.self.win.overlap - s.self.win.shift))
    (hroom : Room s.self o.imm.toNat 63) : Leads (.enter o) s (s.withSelf (entered s.self o.imm.toNat)) := by
  obtain ⟨u, hset, hu⟩ := (OnlySelf.begun s (frameDesc o)).modSelf fun t => entered t o.imm.toNat
  have hmake : makeRoom o.imm.toNat 63 64 (s.withSelf (s.self.begun (frameDesc o))) = .ok () _ :=
    makeRoom_run (by rw [State.self_withSelf]; exact hroom) 63
  refine leads_of_runOp (d := frameDesc o) rfl Steer.noConfusion h.clear ?_ hu (still_entered _ rfl) ?_ ?_ ?_ ?_ ?_
  · rw [M.bind_ok (self_run _), State.self_withSelf, M.bind_ok (raiseIf_of_not ?_ ..), M.bind_ok hmake]
    · exact (congrArg (modSelf · _) (funext fun t => (entered_eq t _).symm)).trans hset
    · simpa using (show ¬(0 < (s.self.begun (frameDesc o)).win.depth ∧
        o.imm.toNat < (s.self.begun (frameDesc o)).win.overlap - (s.self.begun (frameDesc o)).win.shift) from hn)
  · exact (clearFrame_regs (s.self.begun (frameDesc o)) _).trans (clearFrame_regs s.self _).symm
  · exact (clearFrame_pcc ..)
  · exact (clearFrame_instret ..)
  · exact (congrArg Strand.apart (clearFrame_still ..) : (Strand.clearFrame _ _).still.apart = _)
  · exact (congrArg Strand.ir (clearFrame_still ..) : (Strand.clearFrame _ _).still.ir = _)

/-- The strand with its frame moved to `e` registers above its origin (R106): of the registers that the frame now names, those
that neither it nor its caller's overlap held before are cleared. -/
def moved (t : Strand) (e : Nat) : Strand :=
  { t with win := { t.win with base := (t.win.origin + e) % 256 } }.clearFrame
    ((List.range t.win.frame).filter fun i =>
      decide ((e + i < t.win.shift ∨ t.win.shift + t.win.frame ≤ e + i) ∧ t.win.overlap ≤ e + i))

theorem wshr_traps (he : (s.self.win.shift : Int) + o.imm.toInt < 0 ∨ 192 < (s.self.win.shift : Int) + o.imm.toInt) :
    Traps (.wshr o) s cFrame (o.imm.signExtend 64).toNat := by
  refine traps_of_runOp (d := frameDesc o) rfl Steer.noConfusion h.clear ?_ (by decide)
  rw [M.bind_ok (self_run _), State.self_withSelf, M.bind_error (raiseIf_of ?_ ..)]
  · rfl
  · exact (Bool.or_eq_true ..).mpr (he.imp decide_eq_true decide_eq_true)

theorem wshr_leads {e : Nat} (he : (s.self.win.shift : Int) + o.imm.toInt = e) (hmax : e ≤ 192)
    (hroom : e ≤ s.self.win.shift ∨ Room s.self (e - s.self.win.shift + s.self.win.frame) 63)
    (hfill : e < s.self.win.shift → e < s.self.win.overlap →
      s.self.win.kept = true ∨ s.self.win.links ≠ [] ∨ s.self.win.depth = 0) :
    Leads (.wshr o) s (s.withSelf (moved s.self e)) := by
  have hu := (OnlySelf.begun s (frameDesc o)).withSelf (moved (s.self.begun (frameDesc o)) e)
  have hint : ((s.self.begun (frameDesc o)).win.shift : Int) + Imm.int o.imm = e := he
  have hwin : (s.self.begun (frameDesc o)).win = s.self.win := rfl
  have hkeep : (decide (e < s.self.win.shift) && decide (e < s.self.win.overlap) && !s.self.win.kept && s.self.win.links.isEmpty &&
      decide (s.self.win.depth > 0)) = true ↔ False := by
    simp only [Bool.and_eq_true, decide_eq_true_eq, Bool.not_eq_true', List.isEmpty_iff, iff_false]
    rintro ⟨⟨⟨⟨hd, ho⟩, hk⟩, hl⟩, hp⟩
    rcases hfill hd ho with h' | h' | h'
    · simp [h'] at hk
    · exact h' hl
    · omega
  refine leads_of_runOp (d := frameDesc o) rfl Steer.noConfusion h.clear ?_ hu ?_ ?_ ?_ ?_ ?_ ?_
  · have hmoved : ∀ t : Strand, t.win = s.self.win → { t with win := { t.win with base := (t.win.origin + e) % 256 } }.clearFrame
        ((List.range t.win.frame).filter fun i =>
          (e + i < s.self.win.shift || s.self.win.shift + t.win.frame ≤ e + i) && t.win.overlap ≤ e + i) = moved t e := by
      intro t ht
      unfold moved; rw [ht]; simp only [Bool.decide_and, Bool.decide_or]
    rw [M.bind_ok (self_run _), State.self_withSelf, hint, M.bind_ok (raiseIf_of_not ?_ ..), Int.toNat_natCast, hwin]
    · by_cases hgt : e > s.self.win.shift
      · have hmake : makeRoom (e - s.self.win.shift + s.self.win.frame) 63 64 (s.withSelf (s.self.begun (frameDesc o))) = .ok () _ :=
          makeRoom_run (by rw [State.self_withSelf]; exact hroom.resolve_left (by omega)) 63
        rw [if_pos hgt, M.bind_ok hmake]
        beta_reduce
        rw [if_neg hkeep.mp]
        beta_reduce
        rw [modSelf_run, State.self_withSelf]
        exact congrArg (fun r => EStateM.Result.ok () ((s.withSelf (s.self.begun (frameDesc o))).withSelf r)) (hmoved (s.self.begun (frameDesc o)) rfl)
      · rw [if_neg hgt]
        beta_reduce
        rw [if_neg hkeep.mp]
        beta_reduce
        rw [modSelf_run, State.self_withSelf]
        exact congrArg (fun r => EStateM.Result.ok () ((s.withSelf (s.self.begun (frameDesc o))).withSelf r)) (hmoved (s.self.begun (frameDesc o)) rfl)
    · simp; omega
  · unfold moved; rw [clearFrame_still, clearFrame_still]; rfl
  · unfold moved; rw [clearFrame_regs, clearFrame_regs]; rfl
  · exact (clearFrame_pcc ..)
  · exact (clearFrame_instret ..)
  · exact (congrArg Strand.apart (clearFrame_still ..) : (Strand.clearFrame _ _).still.apart = _)
  · exact (congrArg Strand.ir (clearFrame_still ..) : (Strand.clearFrame _ _).still.ir = _)

end

theorem frameChanges : FrameChanges := by
  intro o s h n t d e narrow
  refine ⟨enter_traps h, enter_leads h, wshr_traps h, fun hlo hhi hroom hfill => ?_⟩
  refine wshr_leads h (Int.toNat_of_nonneg hlo).symm (by omega) (hroom.imp (fun hle => ?_) id) fun hd ho => ?_
  · exact Int.toNat_le.mpr hle
  · exact hfill ((Int.toNat_lt hlo).mp hd) ((Int.toNat_lt hlo).mp ho)

/-- Settles O16: the call event, the pop of a link, and the frame changes, each where the ring has room. -/
theorem callsAndFrames : Obligations.CallsAndFrames := ⟨callPushesLink, retRestoresCaller, frameChanges⟩

end Sys2Proof.Claims
end

section
/-! SUPPORT. Bits and fields of a word (R83). -/

namespace Sys2Proof.Machine

theorem bitAt_eq_getLsbD (w : Word) (i : Nat) : bitAt w i = w.getLsbD i := by
  rw [bitAt, BitVec.getLsbD, Nat.testBit, Nat.and_comm, Nat.and_one_is_mod]
  rcases Nat.mod_two_eq_zero_or_one (w.toNat >>> i) with h | h <;> rw [h] <;> rfl

theorem testBit_fieldAt (w : Word) (lo n j : Nat) : (fieldAt w lo n).testBit j = (decide (j < n) && w.getLsbD (lo + j)) := by
  rw [fieldAt, Nat.testBit_mod_two_pow, Nat.testBit_shiftRight]; rfl

/-- A word above, in and below one of its fields. -/
theorem toNat_eq_field (w : Word) (lo n : Nat) :
    w.toNat = 2 ^ lo * (2 ^ n * (w.toNat / 2 ^ (lo + n)) + fieldAt w lo n) + w.toNat % 2 ^ lo := by
  have h1 := Nat.div_add_mod w.toNat (2 ^ lo)
  have h2 := Nat.div_add_mod (w.toNat / 2 ^ lo) (2 ^ n)
  rw [Nat.div_div_eq_div_mul, ← pow_add] at h2
  rw [fieldAt, Nat.shiftRight_eq_div_pow, h2, h1]

/-- Replacing a field changes the bits of the field alone. -/
theorem getLsbD_putField (w : Word) {lo n : Nat} (v : Nat) {j : Nat} (hj : j < 64) :
    (putField w lo n v).getLsbD j = if lo ≤ j ∧ j < lo + n then v.testBit (j - lo) else w.getLsbD j := by
  have hlow : w.toNat % 2 ^ lo < 2 ^ lo := Nat.mod_lt _ (Nat.two_pow_pos lo)
  have hfield : fieldAt w lo n < 2 ^ n := Nat.mod_lt _ (Nat.two_pow_pos n)
  have hput : w.toNat - fieldAt w lo n * 2 ^ lo + v % 2 ^ n * 2 ^ lo =
      2 ^ lo * (2 ^ n * (w.toNat / 2 ^ (lo + n)) + v % 2 ^ n) + w.toNat % 2 ^ lo := by
    have := toNat_eq_field w lo n
    rw [Nat.mul_add] at this ⊢
    rw [Nat.mul_comm (fieldAt w lo n), Nat.mul_comm (v % 2 ^ n)]
    omega
  rw [putField, BitVec.getLsbD_ofNat, decide_eq_true hj, Bool.true_and, hput, Nat.testBit_two_pow_mul_add _ hlow]
  have hw : w.getLsbD j = _ := congrArg (Nat.testBit · j) (toNat_eq_field w lo n)
  rw [hw, Nat.testBit_two_pow_mul_add _ hlow]
  by_cases hlo : j < lo
  · simp [hlo, Nat.not_le_of_lt hlo]
  · rw [if_neg hlo, if_neg hlo, Nat.testBit_two_pow_mul_add _ (Nat.mod_lt _ (Nat.two_pow_pos n)),
      Nat.testBit_two_pow_mul_add _ hfield]
    by_cases hn : j - lo < n
    · simp [hn, show lo ≤ j by omega, show j < lo + n by omega]
    · simp [hn, show ¬j < lo + n by omega]

theorem fieldAt_putField (w : Word) {lo n : Nat} (v : Nat) (h : lo + n ≤ 64) : fieldAt (putField w lo n v) lo n = v % 2 ^ n := by
  refine Nat.eq_of_testBit_eq fun j => ?_
  rw [testBit_fieldAt, Nat.testBit_mod_two_pow]
  by_cases hj : j < n
  · rw [getLsbD_putField w v (by omega), if_pos (by omega), Nat.add_sub_cancel_left]
  · simp [hj]

theorem getLsbD_putBit (w : Word) (i : Nat) (b : Bool) {j : Nat} (hj : j < 64) :
    (putBit w i b).getLsbD j = if j = i then b else w.getLsbD j := by
  rw [putBit, getLsbD_putField w _ hj]
  by_cases h : j = i
  · subst h; cases b <;> simp
  · rw [if_neg (by omega), if_neg h]

theorem bitAt_putBit (w : Word) (i : Nat) (b : Bool) {j : Nat} (hj : j < 64) :
    bitAt (putBit w i b) j = if j = i then b else bitAt w j := by
  simp only [bitAt_eq_getLsbD, getLsbD_putBit w i b hj]

theorem bitAt_putField (w : Word) {lo n : Nat} (v : Nat) {j : Nat} (hj : j < 64) (hout : j < lo ∨ lo + n ≤ j) :
    bitAt (putField w lo n v) j = bitAt w j := by
  rw [bitAt_eq_getLsbD, bitAt_eq_getLsbD, getLsbD_putField w v hj, if_neg (by omega)]

/-- A field does not change with a bit outside it. -/
theorem fieldAt_putBit (w : Word) {lo n i : Nat} (b : Bool) (h : lo + n ≤ 64) (hout : i < lo ∨ lo + n ≤ i) :
    fieldAt (putBit w i b) lo n = fieldAt w lo n := by
  refine Nat.eq_of_testBit_eq fun j => ?_
  rw [testBit_fieldAt, testBit_fieldAt]
  by_cases hj : j < n
  · rw [getLsbD_putBit w i b (by omega), if_neg (by omega)]
  · simp [hj]

end Sys2Proof.Machine
end

section
/-! SUPPORT. What the delivery of a cause leaves in the strand (R136). -/

namespace Sys2Proof.Claims

open Sys2Proof.Machine

theorem fieldAt_mode (w : Word) {lo : Nat} (m : Mode) (h : lo + 2 ≤ 64) : fieldAt (putField w lo 2 m.num) lo 2 = m.num := by
  rw [fieldAt_putField w _ h]; cases m <;> rfl

/-- The status in a handler of user mode (R136). -/
theorem status_enter_user (w : Word) {i : Nat} (hi : i < 64) :
    bitAt (putBit w 8 true) i = if i = 8 then true else bitAt w i := bitAt_putBit w 8 true hi

/-- The status in a handler above: the old mode in a field, the old interrupt enable in a bit, and interrupts disabled. -/
theorem status_enter_above (w : Word) {lo pie : Nat} (m : Mode) (hlo : 1 < lo ∧ lo + 2 ≤ 64) (hpie : pie < lo ∨ lo + 2 ≤ pie) :
    let v := putBit (putBit (putField w lo 2 m.num) pie (bitAt w 1)) 1 false
    fieldAt v lo 2 = m.num ∧ ∀ i < 64, i ≠ lo → i ≠ lo + 1 → bitAt v i =
      if i = 1 then false else if i = pie then bitAt w 1 else bitAt w i := by
  intro v
  refine ⟨?_, fun i hi h1 h2 => ?_⟩
  · rw [fieldAt_putBit _ _ hlo.2 (.inl hlo.1), fieldAt_putBit _ _ hlo.2 hpie, fieldAt_mode w m hlo.2]
  · rw [bitAt_putBit _ _ _ hi, bitAt_putBit _ _ _ hi, bitAt_putField w _ hi (by omega)]

section

variable (t : Strand) (m : Mode) (c : BitVec 8) (v : Word) (v2 : Option Word) (ex : Bool) (ret : Reg)

theorem settle_enter_win : (t.settle.enter m c v v2 ex ret).win = t.win := by unfold Strand.enter; dsimp only; split <;> rfl
theorem settle_enter_phys (p : Nat) : (t.settle.enter m c v v2 ex ret).phys p = t.phys p := by
  rw [Strand.phys, Strand.enter_regs]; rfl
theorem settle_enter_uval2 : (t.settle.enter m c v v2 ex ret).uval2 = v2.getD t.uval2 := by cases m <;> rfl
theorem settle_enter_pcc : (t.settle.enter m c v v2 ex ret).pcc = installed (t.tvec m) := by cases m <;> rfl
theorem settle_enter_mode : (t.settle.enter m c v v2 ex ret).mode = if m = .user then t.mode else m := by cases m <;> rfl

theorem settle_enter_utrap : (t.settle.enter m c v v2 ex ret).utrap =
    if m = .user then ⟨t.tvec m, ret, causeWord t.mode ex c, v⟩ else t.utrap := by cases m <;> rfl
theorem settle_enter_strap : (t.settle.enter m c v v2 ex ret).strap =
    if m = .supervisor then ⟨t.tvec m, ret, causeWord t.mode ex c, v⟩ else t.strap := by cases m <;> rfl
theorem settle_enter_htrap : (t.settle.enter m c v v2 ex ret).htrap =
    if m = .hypervisor then ⟨t.tvec m, ret, causeWord t.mode ex c, v⟩ else t.htrap := by cases m <;> rfl
theorem settle_enter_status : (t.settle.enter m c v v2 ex ret).status = match m with
    | .user => putBit t.status 8 true
    | .supervisor => putBit (putBit (putField t.status 3 2 t.mode.num) 2 (bitAt t.status 1)) 1 false
    | .hypervisor => putBit (putBit (putField t.status 5 2 t.mode.num) 7 (bitAt t.status 1)) 1 false := by cases m <;> rfl

end

/-- Settles O18: the strand that enters the handler, field by field. -/
theorem exceptionEntry : Obligations.ExceptionEntry := by
  intro s c v v2 ex ret m h
  refine ⟨_, deliver_handler h v v2 ex ret, (Elsewhere.refl _).withSelf rfl _, ?_⟩
  have hself : ((withdrawn s).withSelf (s.self.settle.enter m c v v2 ex ret)).self = s.self.settle.enter m c v v2 ex ret :=
    State.self_withSelf ..
  rw [hself, settle_enter_mode, settle_enter_pcc, settle_enter_uval2, settle_enter_utrap, settle_enter_strap, settle_enter_htrap,
    settle_enter_status]
  refine ⟨settle_enter_win .., fun p => settle_enter_phys .., rfl, rfl, rfl, ?_⟩
  generalize s.self = t
  cases m with
  | user => exact ⟨rfl, rfl, rfl, fun i hi => status_enter_user _ hi⟩
  | supervisor => exact ⟨rfl, rfl, rfl, status_enter_above _ _ (by decide) (by decide)⟩
  | hypervisor => exact ⟨rfl, rfl, rfl, status_enter_above _ _ (by decide) (by decide)⟩

end Sys2Proof.Claims
end

section
/-! SUPPORT. Privileged returns, breakpoints and sleep (R39, R103, R133, R389, R390). -/

namespace Sys2Proof.Claims

open Sys2Proof.Machine

/-! ## Privilege checks -/

theorem illIf_of {b : Bool} (h : b = true) (s : State) :
    illIf b s = .error (.trap cIll (BitVec.ofNat 64 s.self.illValue) none) s := by
  rw [h]; rfl

theorem illIf_of_not {b : Bool} (h : b = false) (s : State) : illIf b s = .ok () s := by
  rw [h]; rfl

theorem needMode_low {m : Mode} {s : State} (h : s.self.mode.num < m.num) :
    needMode m s = .error (.trap cPriv (BitVec.ofNat 64 s.self.illValue) none) s := by
  unfold needMode
  rw [M.bind_ok (self_run s), raiseIf_of (decide_eq_true h)]

theorem needMode_ok {m : Mode} {s : State} (h : ¬s.self.mode.num < m.num) : needMode m s = .ok () s := by
  unfold needMode
  rw [M.bind_ok (self_run s), raiseIf_of_not (decide_eq_false h)]

theorem num_lt_supervisor (m : Mode) : m.num < Mode.supervisor.num ↔ m = .user := by cases m <;> decide
theorem num_lt_hypervisor (m : Mode) : m.num < Mode.hypervisor.num ↔ m ≠ .hypervisor := by cases m <;> decide
theorem num_lt_three (m : Mode) : m.num < 3 := by cases m <;> decide

/-! ## `sret` and `hret` (R389) -/

/-- What the returns are to the pipeline. -/
def returnDesc (o : OpN) : Desc := ⟨o.st, 0, .joint, []⟩

/-- What a return to a mode leaves of the strand, with its previous interrupt enable in bit `pie` and the mode field at `lo`. -/
def returned (t : Strand) (mode : Mode) (lo pie : Nat) : Strand :=
  { t with
    mode := mode, region := lostRegion t.region
    status := putField (putBit (putBit t.status 1 (bitAt t.status pie)) pie false) lo 2 0 }

/-- A return that installs its PCC. -/
theorem return_installed {i : Instr} {o : OpN} {s : State} {priv : M Unit} {body : M Flow} {mode : Mode} {lo pie : Nat} {p : Reg}
    (hx : exec i s = runWith (returnDesc o) 0 priv body s) (h : Together s) (hp : priv s = .ok () s)
    (htag : p.tag = true) (hf : installFault s.self.mode s.self.tid p = none)
    (hb : body (s.withSelf (s.self.begun (returnDesc o))) = (do
      let q ← installSaved p
      modSelf fun t => returned t mode lo pie
      pure (.goto q) : M Flow) (s.withSelf (s.self.begun (returnDesc o)))) :
    GoesTo i s (s.withSelf (returned s.self mode lo pie)) (installed p) := by
  obtain ⟨hapart, -⟩ := id h
  have hinstall : installSaved p (s.withSelf (s.self.begun (returnDesc o))) = .ok (installed p) _ :=
    installSaved_ok htag (by rw [State.self_withSelf]; exact hf)
  obtain ⟨u, hset, hu⟩ := (OnlySelf.begun s (returnDesc o)).modSelf fun t => returned t mode lo pie
  refine goesTo_of_runWith (u := u) hx Steer.noConfusion hp h.clear ?_ (hu.same rfl rfl) (by rw [hu.self]; exact hapart)
    (by rw [hu.self]; rfl)
  rw [hb, M.bind_ok hinstall, M.bind_ok hset]; rfl

/-- The check of `sret` on its mode field. -/
def sretCheck : M Unit := do
  needMode .supervisor
  let t ← self
  raiseIf (fieldAt t.status 3 2 > t.mode.num || fieldAt t.status 3 2 = 3) cPriv t.illValue

theorem sretCheck_fails {s : State}
    (h : s.self.mode = .user ∨ s.self.mode.num < fieldAt s.self.status 3 2 ∨ fieldAt s.self.status 3 2 = 3) :
    sretCheck s = .error (.trap cPriv (BitVec.ofNat 64 s.self.illValue) none) s := by
  unfold sretCheck
  by_cases hm : s.self.mode = .user
  · rw [M.bind_error (needMode_low ((num_lt_supervisor _).mpr hm))]
  · rw [M.bind_ok (needMode_ok (mt (num_lt_supervisor _).mp hm)), M.bind_ok (self_run s), raiseIf_of]
    simpa using h.resolve_left hm

theorem sretCheck_passes {s : State} (hm : s.self.mode ≠ .user) (h : fieldAt s.self.status 3 2 ≤ s.self.mode.num) :
    sretCheck s = .ok () s := by
  unfold sretCheck
  rw [M.bind_ok (needMode_ok (mt (num_lt_supervisor _).mp hm)), M.bind_ok (self_run s), raiseIf_of_not]
  have := num_lt_three s.self.mode
  simp; omega

/-- The check of `hret` on its mode field. -/
def hretCheck : M Unit := do
  let t ← self
  illIf (fieldAt t.status 5 2 = 3)
  needMode .hypervisor

theorem hretCheck_ill {s : State} (h : fieldAt s.self.status 5 2 = 3) :
    hretCheck s = .error (.trap cIll (BitVec.ofNat 64 s.self.illValue) none) s := by
  unfold hretCheck
  rw [M.bind_ok (self_run s), M.bind_error (illIf_of (decide_eq_true h) s)]

theorem hretCheck_eq {s : State} (h : fieldAt s.self.status 5 2 ≠ 3) : hretCheck s = needMode .hypervisor s := by
  unfold hretCheck
  rw [M.bind_ok (self_run s), M.bind_ok (illIf_of_not (decide_eq_false h) s)]

theorem sretHretReturn : SretHretReturn := by
  intro o s h t fault spm hpm
  refine ⟨fun hbad => ?_, fun hm hspm htag hf => ?_, fun hhpm => ?_, fun hhpm hm => ?_, fun hm hhpm htag hf => ?_⟩
  · exact traps_of_priv (d := returnDesc o) rfl (sretCheck_fails hbad) h (by decide)
  · refine return_installed (lo := 3) (pie := 2) rfl h (sretCheck_passes hm hspm) htag hf ?_
    rw [M.bind_ok (self_run _), State.self_withSelf, returnSupervisor, M.bind_ok (self_run _), State.self_withSelf]
    rfl
  · exact traps_of_priv (d := returnDesc o) rfl (hretCheck_ill hhpm) h (by decide)
  · exact traps_of_priv (d := returnDesc o) rfl ((hretCheck_eq hhpm).trans (needMode_low ((num_lt_hypervisor _).mpr hm))) h (by decide)
  · have hcheck : hretCheck s = .ok () s :=
      (hretCheck_eq hhpm).trans (needMode_ok fun hlt => (num_lt_hypervisor _).mp hlt hm)
    refine return_installed (lo := 5) (pie := 7) rfl h hcheck htag hf ?_
    rw [M.bind_ok (self_run _), State.self_withSelf, returnHypervisor, M.bind_ok (self_run _), State.self_withSelf]
    rfl

/-! ## `brk` (R133) -/

/-- What `brk` is to the pipeline. -/
def brkDesc (o : OpI) : Desc := ⟨o.st, 0, .joint, []⟩

theorem brk_leads {o : OpI} {s : State} (h : Together s) (ha : s.self.debugger.attached = true) : Leads (.brk o) s
    { s.withSelf { s.self with status := s.self.status ||| 0x3000 } with
      units := { s.units with debugOut := s.units.debugOut ++
        [(s.cur, 0, BitVec.ofNat 64 o.imm.toNat), (s.cur, 1, BitVec.ofNat 64 s.self.pc)] } } := by
  let told : State := { s with units := { s.units with debugOut := s.units.debugOut ++
    [(s.cur, 0, BitVec.ofNat 64 o.imm.toNat), (s.cur, 1, BitVec.ofNat 64 s.self.pc)] } }
  have hu := (OnlySelf.begun told (brkDesc o)).withSelf { s.self.begun (brkDesc o) with status := s.self.status ||| 0x3000 }
  refine leads_of_runPriv (d := brkDesc o) (s' := told) rfl Steer.noConfusion ?_ h.clear ?_ hu rfl rfl rfl rfl rfl rfl
  · exact illIf_of_not (by rw [ha]; rfl) s
  · rw [M.bind_ok (M.get_run _), M.bind_ok (modSelf_run _ _), State.self_withSelf]; rfl

/-! ## `wfi` (R390) -/

/-- What `wfi` is to the pipeline. -/
def wfiDesc (o : OpN) : Desc := ⟨o.st, 0, .joint, []⟩

/-- An interrupt for the current mode or a higher one is pending. -/
def Due (s : State) : Prop :=
  (s.self.timecmp ≠ 0 ∧ s.self.timecmp.toNat ≤ s.time ∧ s.self.mode = .supervisor) ∨
    ∃ e ∈ s.self.pending, s.self.mode = .supervisor ∨ e.1 = cSlice ∨ e.1 = cDirtyLog ∨ e.1 = cMachine

theorem due_iff (s : State) : ((s.self.pending.map (·.1) ++
    (if s.self.timecmp ≠ 0 && s.time ≥ s.self.timecmp.toNat then [cTimer] else [])).any fun c =>
      hyperCause c || s.self.mode = .supervisor) = true ↔ Due s := by
  have htimer : ¬(cTimer = cSlice ∨ cTimer = cDirtyLog ∨ cTimer = cMachine) := by decide
  simp only [List.any_append, List.any_map, Bool.or_eq_true, List.any_eq_true, Function.comp, decide_eq_true_eq, hyperCause_iff,
    Due]
  rw [or_comm]
  refine or_congr ?_ (exists_congr fun e => and_congr_right fun _ => or_comm)
  split
  · next h =>
    simp only [ne_eq, Bool.and_eq_true, decide_eq_true_eq] at h
    simpa only [List.mem_singleton, exists_eq_left, htimer, false_or, ne_eq, h, not_false_eq_true, true_and] using Iff.rfl
  · next h =>
    simp only [ne_eq, Bool.and_eq_true, decide_eq_true_eq] at h
    simp only [List.not_mem_nil, false_and, exists_false, false_iff]
    exact fun hdue => h ⟨hdue.1, hdue.2.1⟩

theorem wfi_leads {o : OpN} {s : State} (h : Together s) (hm : s.self.mode ≠ .user) (hdue : Due s) : Leads (.wfi o) s s := by
  obtain ⟨hapart, -⟩ := id h
  refine leads_of_runWith (d := wfiDesc o) rfl Steer.noConfusion (needMode_ok (mt (num_lt_supervisor _).mp hm)) h.clear
    (u := s.withSelf (s.self.begun (wfiDesc o))) ?_ (.begun s (wfiDesc o)) ?_ ?_ ?_ ?_
  · have hbegun : Due (s.withSelf (s.self.begun (wfiDesc o))) := by rw [Due, State.self_withSelf]; exact hdue
    refine (M.bind_ok (a := ()) ?_).trans rfl
    rw [M.bind_ok (M.get_run _), if_pos ((due_iff _).mpr hbegun)]; rfl
  · rw [State.self_withSelf]; exact hapart
  all_goals rw [State.self_withSelf]; rfl

theorem wfi_sleeps {o : OpN} {s : State} (h : Together s) (hm : s.self.mode ≠ .user) (hdue : ¬Due s) : Waits (.wfi o) s := by
  obtain ⟨u, hset, hu⟩ := (OnlySelf.begun s (wfiDesc o)).modSelf fun t => { t with asleep := true }
  refine waits_of_idle (u := u) ?_ (hu.sameAs rfl rfl) (by rw [hu.self]; rfl) (by rw [hu.self]; rfl)
  refine exec_of_wait (d := wfiDesc o) rfl Steer.noConfusion (needMode_ok (mt (num_lt_supervisor _).mp hm)) h.clear ?_
  have hbegun : ¬Due (s.withSelf (s.self.begun (wfiDesc o))) := by rw [Due, State.self_withSelf]; exact hdue
  refine M.bind_error ?_
  rw [M.bind_ok (M.get_run _), if_neg (mt (due_iff _).mp hbegun)]
  exact M.bind_ok hset

theorem brkAndWfi : BrkAndWfi := by
  refine ⟨fun o s h => ⟨fun ha => ?_, brk_leads h⟩, fun o s h => ⟨fun hm => ?_, wfi_leads h, wfi_sleeps h⟩⟩
  · exact traps_of_priv (d := brkDesc o) rfl (illIf_of (by rw [ha]; rfl) s) h (by decide)
  · exact traps_of_priv (d := wfiDesc o) rfl (needMode_low ((num_lt_supervisor _).mpr hm)) h (by decide)

/-- Settles O21: the checks of `sret` and `hret` and what they restore; `brk` and `wfi` with and without what they wait for. -/
theorem privilegedReturn : Obligations.PrivilegedReturn := ⟨sretHretReturn, brkAndWfi⟩

end Sys2Proof.Claims
end

section
/-! SUPPORT. Routes in a pod with every package there and every port up (R395, R403). -/

namespace Sys2Proof.Claims

open Sys2Proof.Machine

/-! ## One step in one dimension -/

/-- In a torus dimension the shorter way leads to a coordinate one hop nearer. -/
theorem torusStep_nearer {c e size : Nat} (hc : c < size) (he : e < size) (hne : c ≠ e) :
    ∃ d, torusStep c size (shorterWay c e size) = some d ∧ d < size ∧ ringApart size d e + 1 = ringApart size c e := by
  have hway : (e + size - c) % size = if c ≤ e then e - c else e + size - c := by
    split
    · rw [show e + size - c = e - c + size by omega, Nat.add_mod_right, Nat.mod_eq_of_lt (by omega)]
    · exact Nat.mod_eq_of_lt (by omega)
  unfold ringApart lineApart shorterWay torusStep
  rw [hway]
  by_cases hsmall : size < 3
  · simp only [if_pos hsmall]
    by_cases h : c < e
    · exact ⟨c + 1, by simp [h]; omega, by omega, by omega⟩
    · exact ⟨c - 1, by simp [h]; omega, by omega, by omega⟩
  · simp only [if_neg hsmall]
    by_cases hplus : (if c ≤ e then e - c else e + size - c) ≤ size - (if c ≤ e then e - c else e + size - c)
    · rw [decide_eq_true hplus, if_pos rfl]
      by_cases hlast : c + 1 < size
      · exact ⟨c + 1, if_pos hlast, hlast, by split at hplus <;> omega⟩
      · exact ⟨0, by rw [if_neg hlast, if_pos (by omega)], by omega, by split at hplus <;> omega⟩
    · rw [decide_eq_false hplus, if_neg (by decide)]
      by_cases hfirst : c > 0
      · exact ⟨c - 1, if_pos hfirst, by omega, by split at hplus <;> omega⟩
      · exact ⟨size - 1, by rw [if_neg hfirst, if_pos (by omega)], by omega, by split at hplus <;> omega⟩

/-- In a mesh dimension the way towards the coordinate. -/
theorem meshStep_nearer {c e size : Nat} (hc : c < size) (he : e < size) (hne : c ≠ e) :
    ∃ d, meshStep c size (c < e) = some d ∧ d < size ∧ lineApart d e + 1 = lineApart c e := by
  unfold meshStep lineApart
  by_cases h : c < e
  · exact ⟨c + 1, by simp [h]; omega, by omega, by omega⟩
  · exact ⟨c - 1, by simp [h]; omega, by omega, by omega⟩

/-! ## One hop -/

theorem dirOf_div (dim : Nat) (plus : Bool) : dirOf dim plus / 2 = dim := by
  unfold dirOf; cases plus <;> simp <;> omega

theorem dirOf_plus (dim : Nat) (plus : Bool) : decide (dirOf dim plus % 2 = 0) = plus := by
  unfold dirOf; cases plus <;> simp <;> omega

/-- With no package lost and every port up, a direction is open that has a neighbour. -/
theorem hopOpen_of_neighbour {s : State} {dir q : Nat} (h : s.neighbour dir = some q) (hlost : s.units.lost = [])
    (hports : s.units.ports = []) : s.hopOpen dir = true := by
  have hup : s.upPorts dir = (List.range 12).map fun j => dir * 12 + j := by
    rw [State.upPorts, List.filter_eq_self]
    intro i _
    rw [State.port, hports]; rfl
  rw [State.hopOpen, h, hlost, hup]; rfl

section

variable {s : State} {sx sy sz sw : Nat} (hz : s.units.sizes = (sx, sy, sz, sw)) (plus : Bool)
include hz

theorem neighbour_x : s.neighbour (dirOf 0 plus) = (meshStep (s.pkg % 4) sx plus).map fun c => s.pkg - s.pkg % 4 + c := by
  simp only [State.neighbour, hz, dirOf_div, dirOf_plus]; rfl

theorem neighbour_y : s.neighbour (dirOf 1 plus) =
    (meshStep (s.pkg / 4 % 4) sy plus).map fun c => s.pkg - s.pkg / 4 % 4 * 4 + c * 4 := by
  simp only [State.neighbour, hz, dirOf_div, dirOf_plus]; rfl

theorem neighbour_z : s.neighbour (dirOf 2 plus) =
    (torusStep (s.pkg / 16 % 32) sz plus).map fun c => s.pkg - s.pkg / 16 % 32 * 16 + c * 16 := by
  simp only [State.neighbour, hz, dirOf_div, dirOf_plus]; rfl

theorem neighbour_w : s.neighbour (dirOf 3 plus) =
    (torusStep (s.pkg / 512 % 32) sw plus).map fun c => s.pkg - s.pkg / 512 % 32 * 512 + c * 512 := by
  simp only [State.neighbour, hz, dirOf_div, dirOf_plus]; rfl

end

section

variable {p c : Nat} (hp : p < 2 ^ 14)
include hp

theorem coords_set_x (hc : c < 4) : let q := p - p % 4 + c
    q < 2 ^ 14 ∧ q % 4 = c ∧ q / 4 % 4 = p / 4 % 4 ∧ q / 16 % 32 = p / 16 % 32 ∧ q / 512 % 32 = p / 512 % 32 := by
  intro q; omega

theorem coords_set_y (hc : c < 4) : let q := p - p / 4 % 4 * 4 + c * 4
    q < 2 ^ 14 ∧ q % 4 = p % 4 ∧ q / 4 % 4 = c ∧ q / 16 % 32 = p / 16 % 32 ∧ q / 512 % 32 = p / 512 % 32 := by
  intro q; omega

theorem coords_set_z (hc : c < 32) : let q := p - p / 16 % 32 * 16 + c * 16
    q < 2 ^ 14 ∧ q % 4 = p % 4 ∧ q / 4 % 4 = p / 4 % 4 ∧ q / 16 % 32 = c ∧ q / 512 % 32 = p / 512 % 32 := by
  intro q; omega

theorem coords_set_w (hc : c < 32) : let q := p - p / 512 % 32 * 512 + c * 512
    q < 2 ^ 14 ∧ q % 4 = p % 4 ∧ q / 4 % 4 = p / 4 % 4 ∧ q / 16 % 32 = p / 16 % 32 ∧ q / 512 % 32 = c := by
  intro q; omega

end

/-- What a hop in the first dimension that needs one looks like. -/
def HopsNearer (s : State) (pk : Packet) (dim : Nat) : Prop :=
  ∃ dir on q, s.route pk = some (dir, on) ∧ s.neighbour dir = some q ∧ InPod s.units.sizes q ∧
    apart s.units.sizes q pk.dst + 1 = apart s.units.sizes s.pkg pk.dst ∧ on.dst = pk.dst ∧ on.dt = pk.dt ∧ dir / 2 = dim

section

variable {s : State} {pk : Packet} {sx sy sz sw : Nat} (hz : s.units.sizes = (sx, sy, sz, sw))
  (hp : InPod (sx, sy, sz, sw) s.pkg) (hd : InPod (sx, sy, sz, sw) pk.dst)
  (hlost : s.units.lost = []) (hports : s.units.ports = [])
include hz hp hd hlost hports

theorem hopsNearer_z (hs : sz ≤ 32) (hne : coordZ s.pkg ≠ coordZ pk.dst) : HopsNearer s pk 2 := by
  obtain ⟨hp, hpx, hpy, hpz, hpw⟩ := hp
  obtain ⟨hd, hdx, hdy, hdz, hdw⟩ := hd
  obtain ⟨c, hstep, hc, hnear⟩ := torusStep_nearer hpz hdz hne
  obtain ⟨hq, hqx, hqy, hqz, hqw⟩ := coords_set_z (c := c) hp (lt_of_lt_of_le hc hs)
  have hn := (neighbour_z hz (shorterWay (coordZ s.pkg) (coordZ pk.dst) sz)).trans (congrArg _ hstep)
  have hopen := hopOpen_of_neighbour hn hlost hports
  have hroute : ∃ dl, s.route pk = some (dirOf 2 (shorterWay (coordZ s.pkg) (coordZ pk.dst) sz), { pk with dl := dl }) := by
    simp only [State.route, hz]
    rw [if_pos hne, if_pos hopen]
    exact ⟨_, rfl⟩
  obtain ⟨dl, hroute⟩ := hroute
  refine ⟨_, _, _, hroute, hn, ?_, ?_, rfl, rfl, dirOf_div ..⟩
  · rw [hz, InPod, hqx, hqy, hqz, hqw]
    exact ⟨hq, hpx, hpy, hc, hpw⟩
  · rw [hz, apart, apart, hqx, hqy, hqz, hqw]
    dsimp only at hnear ⊢; omega

theorem hopsNearer_w (hs : sw ≤ 32) (hz0 : coordZ s.pkg = coordZ pk.dst)
    (hne : coordW s.pkg ≠ coordW pk.dst) : HopsNearer s pk 3 := by
  obtain ⟨hp, hpx, hpy, hpz, hpw⟩ := hp
  obtain ⟨hd, hdx, hdy, hdz, hdw⟩ := hd
  obtain ⟨c, hstep, hc, hnear⟩ := torusStep_nearer hpw hdw hne
  obtain ⟨hq, hqx, hqy, hqz, hqw⟩ := coords_set_w (c := c) hp (lt_of_lt_of_le hc hs)
  have hn := (neighbour_w hz (shorterWay (coordW s.pkg) (coordW pk.dst) sw)).trans (congrArg _ hstep)
  have hopen := hopOpen_of_neighbour hn hlost hports
  have hroute : ∃ dl, s.route pk = some (dirOf 3 (shorterWay (coordW s.pkg) (coordW pk.dst) sw), { pk with dl := dl }) := by
    simp only [State.route, hz]
    rw [if_neg (not_not_intro hz0), if_pos hne, if_pos hopen]
    exact ⟨_, rfl⟩
  obtain ⟨dl, hroute⟩ := hroute
  refine ⟨_, _, _, hroute, hn, ?_, ?_, rfl, rfl, dirOf_div ..⟩
  · rw [hz, InPod, hqx, hqy, hqz, hqw]
    exact ⟨hq, hpx, hpy, hpz, hc⟩
  · rw [hz, apart, apart, hqx, hqy, hqz, hqw]
    dsimp only at hnear ⊢; omega

theorem hopsNearer_x (hs : sx ≤ 4) (hz0 : coordZ s.pkg = coordZ pk.dst) (hw0 : coordW s.pkg = coordW pk.dst)
    (hne : coordX s.pkg ≠ coordX pk.dst) : HopsNearer s pk 0 := by
  obtain ⟨hp, hpx, hpy, hpz, hpw⟩ := hp
  obtain ⟨hd, hdx, hdy, hdz, hdw⟩ := hd
  obtain ⟨c, hstep, hc, hnear⟩ := meshStep_nearer hpx hdx hne
  obtain ⟨hq, hqx, hqy, hqz, hqw⟩ := coords_set_x (c := c) hp (lt_of_lt_of_le hc hs)
  have hn := (neighbour_x hz (decide (coordX s.pkg < coordX pk.dst))).trans (congrArg _ hstep)
  have hopen := hopOpen_of_neighbour hn hlost hports
  have hroute : ∃ dl, s.route pk = some (dirOf 0 (decide (coordX s.pkg < coordX pk.dst)), { pk with dl := dl }) := by
    simp only [State.route, hz]
    rw [if_neg (not_not_intro hz0), if_neg (not_not_intro hw0), decide_eq_true hne, hopen, if_pos (Bool.and_self true)]
    exact ⟨_, rfl⟩
  obtain ⟨dl, hroute⟩ := hroute
  refine ⟨_, _, _, hroute, hn, ?_, ?_, rfl, rfl, dirOf_div ..⟩
  · rw [hz, InPod, hqx, hqy, hqz, hqw]
    exact ⟨hq, hc, hpy, hpz, hpw⟩
  · rw [hz, apart, apart, hqx, hqy, hqz, hqw]
    dsimp only at hnear ⊢; omega

theorem hopsNearer_y (hs : sy ≤ 4) (hz0 : coordZ s.pkg = coordZ pk.dst) (hw0 : coordW s.pkg = coordW pk.dst)
    (hx0 : coordX s.pkg = coordX pk.dst) (hne : coordY s.pkg ≠ coordY pk.dst) : HopsNearer s pk 1 := by
  obtain ⟨hp, hpx, hpy, hpz, hpw⟩ := hp
  obtain ⟨hd, hdx, hdy, hdz, hdw⟩ := hd
  obtain ⟨c, hstep, hc, hnear⟩ := meshStep_nearer hpy hdy hne
  obtain ⟨hq, hqx, hqy, hqz, hqw⟩ := coords_set_y (c := c) hp (lt_of_lt_of_le hc hs)
  have hn := (neighbour_y hz (decide (coordY s.pkg < coordY pk.dst))).trans (congrArg _ hstep)
  have hopen := hopOpen_of_neighbour hn hlost hports
  have hroute : ∃ dl, s.route pk = some (dirOf 1 (decide (coordY s.pkg < coordY pk.dst)), { pk with dl := dl }) := by
    simp only [State.route, hz]
    rw [if_neg (not_not_intro hz0), if_neg (not_not_intro hw0), decide_eq_false (not_not_intro hx0), Bool.false_and,
      if_neg Bool.false_ne_true, decide_eq_true hne, hopen, if_pos (Bool.and_self true)]
    exact ⟨_, rfl⟩
  obtain ⟨dl, hroute⟩ := hroute
  refine ⟨_, _, _, hroute, hn, ?_, ?_, rfl, rfl, dirOf_div ..⟩
  · rw [hz, InPod, hqx, hqy, hqz, hqw]
    exact ⟨hq, hpx, hc, hpz, hpw⟩
  · rw [hz, apart, apart, hqx, hqy, hqz, hqw]
    dsimp only at hnear ⊢; omega

end

/-- A package is where its coordinates say. -/
theorem eq_of_coords {p q : Nat} (hp : p < 2 ^ 14) (hq : q < 2 ^ 14) (hx : coordX p = coordX q) (hy : coordY p = coordY q)
    (hz : coordZ p = coordZ q) (hw : coordW p = coordW q) : p = q := by
  unfold coordX at hx; unfold coordY at hy; unfold coordZ at hz; unfold coordW at hw
  omega

theorem coordW_eq_iff {p q : Nat} (hp : p < 2 ^ 14) (hq : q < 2 ^ 14) : coordW p = coordW q ↔ p / 512 = q / 512 := by
  unfold coordW; omega

/-- Settles O57: the first coordinate that differs, in the order z, w, x, y, takes one step nearer. -/
theorem routingNearer : Obligations.RoutingNearer := by
  intro s pk z hsx hsy hsz hsw hp hd hne hlost hports
  obtain ⟨⟨sx, sy, sz, sw⟩, hz⟩ : ∃ z', s.units.sizes = z' := ⟨_, rfl⟩
  have hz' : z = (sx, sy, sz, sw) := hz
  rw [hz'] at hsx hsy hsz hsw hp hd
  have hw : coordW s.pkg = coordW pk.dst ↔ s.pkg / 512 = pk.dst / 512 := coordW_eq_iff hp.1 hd.1
  by_cases h1 : coordZ s.pkg = coordZ pk.dst
  · rw [if_neg (show ¬s.pkg / 16 % 32 ≠ pk.dst / 16 % 32 from not_not_intro h1)]
    by_cases h2 : coordW s.pkg = coordW pk.dst
    · rw [if_neg (not_not_intro (hw.mp h2))]
      by_cases h3 : coordX s.pkg = coordX pk.dst
      · rw [if_neg (show ¬s.pkg % 4 ≠ pk.dst % 4 from not_not_intro h3)]
        exact hopsNearer_y hz hp hd hlost hports hsy h1 h2 h3 fun h4 => hne (eq_of_coords hp.1 hd.1 h3 h4 h1 h2).symm
      · rw [if_pos (show s.pkg % 4 ≠ pk.dst % 4 from h3)]
        exact hopsNearer_x hz hp hd hlost hports hsx h1 h2 h3
    · rw [if_pos (mt hw.mpr h2)]
      exact hopsNearer_w hz hp hd hlost hports hsw h1 h2
  · rw [if_pos (show s.pkg / 16 % 32 ≠ pk.dst / 16 % 32 from h1)]
    exact hopsNearer_z hz hp hd hlost hports hsz h1

end Sys2Proof.Claims
end

section
/-! SUPPORT. Walks of page tables (R292, R293, R392). -/

namespace Sys2Proof.Claims

open Sys2Proof.Machine

/-! ## Reads at the home without partials -/

theorem recall_noPartials {s : State} (h : NoPartials s) (line : Nat) : s.recall line = s := by
  rw [State.recall, h line]; rfl

theorem foldl_fixed {α β : Type} {f : β → α → β} {b : β} (l : List α) (h : ∀ a ∈ l, f b a = b) : l.foldl f b = b := by
  induction l with
  | nil => rfl
  | cons a l ih =>
    rw [List.foldl_cons, h a (List.mem_cons_self ..)]
    exact ih fun c hc => h c (List.mem_cons_of_mem _ hc)

theorem recallRange_noPartials {s : State} (h : NoPartials s) (a n : Nat) : s.recallRange a n = s :=
  foldl_fixed _ fun _ _ => recall_noPartials h _

/-- With no update-only lines anywhere, a read at the home changes nothing. -/
theorem homeRead_run {s : State} (h : NoPartials s) (a n : Nat) : homeRead a n s = .ok (s.bytesAt a n) s := by
  simp only [homeRead, recallRange_noPartials h]

theorem homeWrite_run {s : State} (h : NoPartials s) (a : Nat) (bs : List Byte) : homeWrite a bs s = .ok () (s.homePut a bs) := by
  simp only [homeWrite, recallRange_noPartials h]

theorem readPte_run {s : State} (h : NoPartials s) {table index : Nat} {e : Word} (he : Pte s table index e) (va : Nat) :
    readPte (table + index * 8) va s = .ok e s := by
  obtain ⟨hbad, rfl⟩ := he
  rw [Nat.mul_comm index] 
  unfold readPte
  rw [M.bind_ok (M.get_run s), if_neg (by rw [hbad]; exact not_not_intro rfl), M.bind_ok (homeRead_run h _ _)]
  rfl

/-! ## Entries -/

theorem pteV_iff (e : Word) : pteV e = decide (e.toNat % 2 = 1) := by simp [pteV, bitAt]
theorem pteLeaf_iff (e : Word) : pteLeaf e = decide (e.toNat / 2 % 2 = 1) := by simp [pteLeaf, bitAt, Nat.shiftRight_eq_div_pow]

theorem place_dram {a : Nat} (h : a < 2 ^ 40) : place a = .dram := by
  rw [place, if_pos (by exact h)]

theorem tableOk_of_points {s : State} {e : Word} (h : Points s e) : tableOk s (ptePa e) = true := by
  obtain ⟨-, -, hpkg, hlocal⟩ := h
  rw [tableOk, place_dram hlocal, pkgOf, hpkg]; simp

theorem channelGranted_of {s : State} {t : BitVec 12} {p : Nat}
    (h : pkgOf p ≠ s.pkg ∨ s.units.boot = some s.cur ∨ Granted s t (localOf p)) : channelGranted s t p = true := by
  unfold channelGranted
  rcases h with h | h | ⟨-, e, he, c, hc, htenant, hchan⟩
  · simp [h]
  · simp [h]
  · have hany : (s.units.colonies.any fun e => match e.2 with
        | some c => c.tenant = t && c.chan.getLsbD (localOf p / 2 ^ 34)
        | none => false) = true := List.any_eq_true.mpr ⟨e, he, by simp only [hc, htenant, hchan, decide_true, Bool.and_self]⟩
    simp only [Bool.or_eq_true]
    exact .inr hany

/-! ## The levels of a walk -/

/-- The checks of a leaf that a walk has come to. -/
def walkLeaf (s : State) (t : BitVec 12) (a : Nat) (e : Word) (level ea : Nat) : M (Word × Nat × Nat) := do
  let p := ptePa e + (if level = 1 then a % 2 ^ 25 else a % 65536)
  if place (localOf p) = .reserved then raise cXlat a
  if pteM e && s.units.sizes.1 = 1 then raise cXlat a
  if !channelGranted s t p then raise cXlat a
  pure (e, level, ea)

/-- A walk from its entry of level 1 on. -/
def walkBelow (s : State) (t : BitVec 12) (a : Nat) (e1 : Word) (e1a : Nat) : M (Word × Nat × Nat) := do
  if !pteV e1 || pteReserved e1 then raise cXlat a
  let (e, level, ea) ←
    if pteLeaf e1 then
      if ptePa e1 % 2 ^ 25 ≠ 0 then raise cXlat a else pure (e1, 1, e1a)
    else if !tableOk s (ptePa e1) then raise cXlat a
    else do
      let e2a := localOf (ptePa e1) + a / 2 ^ 16 % 512 * 8
      let e2 ← readPte e2a a
      if !pteV e2 || !pteLeaf e2 || pteReserved e2 then raise cXlat a else pure (e2, 2, e2a)
  walkLeaf s t a e level ea

/-- What a walk raises. -/
def noTranslation (a : Nat) : Exc := .trap cXlat (BitVec.ofNat 64 a) none

section

variable {s : State} {t : BitVec 12} {a : Nat}

theorem walk_rootless (h : lookupD 0 s.roots t.toNat = 0) : walk t a s = .error (noTranslation a) s := by
  unfold walk
  rw [M.bind_ok (M.get_run s), if_pos h]; rfl

section

variable (hn : NoPartials s) {e0 : Word} (hroot : (lookupD 0 s.roots t.toNat).toNat % 2 = 1)
  (he0 : Pte s (localOf ((lookupD 0 s.roots t.toNat).toNat - 1)) (a / 2 ^ 36) e0) (ha : a < 2 ^ 48)
include hn hroot he0 ha

theorem readPte_root : readPte (localOf ((lookupD 0 s.roots t.toNat).toNat / 2 * 2) + a / 2 ^ 36 % 4096 * 8) a s = .ok e0 s := by
  rw [show (lookupD 0 s.roots t.toNat).toNat / 2 * 2 = (lookupD 0 s.roots t.toNat).toNat - 1 by omega,
    show a / 2 ^ 36 % 4096 = a / 2 ^ 36 by omega]
  exact readPte_run hn he0 a

theorem root_ne : lookupD 0 s.roots t.toNat ≠ 0 := fun h => by
  rw [h] at hroot
  exact absurd hroot (by decide)

theorem walk_root_bad (h : e0.toNat % 4 ≠ 1) : walk t a s = .error (noTranslation a) s := by
  have hbad : (!pteV e0 || pteLeaf e0 || pteReserved e0 || !tableOk s (ptePa e0)) = true := by
    have : (!pteV e0 || pteLeaf e0) = true := by simp [pteV_iff, pteLeaf_iff]; omega
    rw [this]; rfl
  unfold walk
  rw [M.bind_ok (M.get_run s), if_neg (root_ne hn hroot he0 ha)]
  beta_reduce
  rw [M.bind_ok (readPte_root hn hroot he0 ha), if_pos hbad]; rfl

theorem walk_root_points (hp : Points s e0) {e1 : Word} (he1 : Pte s (localOf (ptePa e0)) (a / 2 ^ 25 % 2 ^ 11) e1) :
    walk t a s = walkBelow s t a e1 (localOf (ptePa e0) + a / 2 ^ 25 % 2 ^ 11 * 8) s := by
  have hgood : (!pteV e0 || pteLeaf e0 || pteReserved e0 || !tableOk s (ptePa e0)) = false := by
    rw [tableOk_of_points hp]
    obtain ⟨hlow, hres, -⟩ := hp
    rw [hres, pteV_iff, pteLeaf_iff]; simp; omega
  unfold walk
  rw [M.bind_ok (M.get_run s), if_neg (root_ne hn hroot he0 ha)]
  beta_reduce
  rw [M.bind_ok (readPte_root hn hroot he0 ha), if_neg (by rw [hgood]; exact Bool.false_ne_true)]
  beta_reduce
  exact (M.bind_ok (readPte_run hn he1 a)).trans rfl

end

section

variable {e1 : Word} {e1a : Nat}

/-- An entry of level 1 that is not valid, or a large page that is not aligned. -/
theorem walkBelow_bad (h : e1.toNat % 2 = 0 ∨ MapsPage e1 ∧ ptePa e1 % 2 ^ 25 ≠ 0) :
    walkBelow s t a e1 e1a s = .error (noTranslation a) s := by
  unfold walkBelow
  by_cases hv : (!pteV e1 || pteReserved e1) = true
  · rw [if_pos hv]; rfl
  · have hodd : e1.toNat % 2 ≠ 0 := fun h0 => hv (by rw [pteV_iff]; simp; omega)
    obtain ⟨⟨hleaf, -, -⟩, halign⟩ := h.resolve_left hodd
    have hl : pteLeaf e1 = true := by rw [pteLeaf_iff]; simp; omega
    rw [if_neg hv]
    beta_reduce
    rw [if_pos hl, if_pos halign]; rfl

theorem walkBelow_large (h : MapsPage e1) (halign : ptePa e1 % 2 ^ 25 = 0) :
    walkBelow s t a e1 e1a s = walkLeaf s t a e1 1 e1a s := by
  obtain ⟨hlow, hres, -⟩ := h
  have hv : ¬(!pteV e1 || pteReserved e1) = true := by rw [hres, pteV_iff]; simp; omega
  have hl : pteLeaf e1 = true := by rw [pteLeaf_iff]; simp; omega
  unfold walkBelow
  rw [if_neg hv]
  beta_reduce
  rw [if_pos hl, if_neg (not_not_intro halign)]; rfl

section

variable (hn : NoPartials s) (hp : Points s e1) {e2 : Word} (he2 : Pte s (localOf (ptePa e1)) (a / 2 ^ 16 % 2 ^ 9) e2)
include hn hp he2

theorem walkBelow_points : walkBelow s t a e1 e1a s =
    (do
      if !pteV e2 || !pteLeaf e2 || pteReserved e2 then raise cXlat a
      walkLeaf s t a e2 2 (localOf (ptePa e1) + a / 2 ^ 16 % 2 ^ 9 * 8) : M _) s := by
  have htable := tableOk_of_points hp
  obtain ⟨hlow, hres, -, -⟩ := hp
  have hv : ¬(!pteV e1 || pteReserved e1) = true := by rw [hres, pteV_iff]; simp; omega
  have hl : ¬pteLeaf e1 = true := by rw [pteLeaf_iff]; simp; omega
  unfold walkBelow
  rw [if_neg hv]
  beta_reduce
  rw [if_neg hl, if_neg (by rw [htable]; decide)]
  refine (M.bind_ok (readPte_run hn he2 a)).trans ?_
  split <;> rfl

theorem walkBelow_page_bad (h : e2.toNat % 4 ≠ 3) : walkBelow s t a e1 e1a s = .error (noTranslation a) s := by
  have hbad : (!pteV e2 || !pteLeaf e2 || pteReserved e2) = true := by
    have : (!pteV e2 || !pteLeaf e2) = true := by simp [pteV_iff, pteLeaf_iff]; omega
    rw [this]; rfl
  rw [walkBelow_points hn hp he2, if_pos hbad]; rfl

theorem walkBelow_page (h : MapsPage e2) :
    walkBelow s t a e1 e1a s = walkLeaf s t a e2 2 (localOf (ptePa e1) + a / 2 ^ 16 % 2 ^ 9 * 8) s := by
  obtain ⟨hlow, hres, -⟩ := h
  have hgood : ¬(!pteV e2 || !pteLeaf e2 || pteReserved e2) = true := by
    simp [hres, pteV_iff, pteLeaf_iff, show e2.toNat % 2 = 1 by omega, show e2.toNat / 2 % 2 = 1 by omega]
  rw [walkBelow_points hn hp he2, if_neg hgood]

end

end

theorem walkLeaf_ok {e : Word} {level ea o : Nat} (hlevel : (if level = 1 then a % 2 ^ 25 else a % 65536) = o)
    (hm : MapsPage e) (hdram : localOf (ptePa e + o) < 2 ^ 40)
    (hg : pkgOf (ptePa e + o) ≠ s.pkg ∨ s.units.boot = some s.cur ∨ Granted s t (localOf (ptePa e + o))) :
    walkLeaf s t a e level ea s = .ok (e, level, ea) s := by
  obtain ⟨-, -, hmirror⟩ := hm
  unfold walkLeaf
  simp only [hlevel]
  rw [place_dram hdram, if_neg Place.noConfusion]
  beta_reduce
  rw [hmirror, Bool.false_and, if_neg Bool.false_ne_true]
  beta_reduce
  rw [channelGranted_of hg]
  rfl

end


/-- Settles O9: level by level, what a walk reads and where it ends. -/
theorem walkOfTables : Obligations.WalkOfTables := by
  intro s t a e0 hn ha root i1 i2 t1 granted fails
  have hfails : walk t a s = .error (noTranslation a) s → fails := fun h => ⟨s, h, rfl⟩
  refine ⟨fun h => hfails (walk_rootless h), fun hroot he0 => ⟨fun h => hfails (walk_root_bad hn hroot he0 ha h),
    fun e1 hp0 he1 => ?_⟩⟩
  have hwalk := walk_root_points hn hroot he0 ha hp0 he1
  refine ⟨fun h => hfails (hwalk.trans (walkBelow_bad (.inl h))),
    fun hm halign => hfails (hwalk.trans (walkBelow_bad (.inr ⟨hm, halign⟩))), fun hm halign hdram hg => ?_,
    fun e2 hp1 he2 => ⟨fun h => hfails (hwalk.trans (walkBelow_page_bad hn hp1 he2 h)), fun hm hdram hg => ?_⟩⟩
  · refine ⟨s, ?_, rfl⟩
    rw [hwalk, walkBelow_large hm halign, walkLeaf_ok (if_pos rfl) hm ?_ hg, Nat.mul_comm]
    unfold localOf at *; omega
  · refine ⟨s, ?_, rfl⟩
    rw [hwalk, walkBelow_page hn hp1 he2 hm, walkLeaf_ok (if_neg (by decide)) hm ?_ hg, Nat.mul_comm]
    have halign : ptePa e2 % 65536 = 0 := Nat.mul_mod_left ..
    unfold localOf at *; omega

end Sys2Proof.Claims
end

section
/-! SUPPORT. Fetching word by word (R24, R79, R148): what the statement asks of a state whose PC is odd. -/

namespace Sys2Proof.Claims

open Sys2Proof.Machine

/-- A strand at an odd address: the second word of its instruction begins with the last byte of a line of 128. -/
def oddStrand : Strand := { Strand.idle with live := true, pcc := ⟨125, true⟩ }

/-- A chain word, and a base word whose high byte is not 0. -/
def oddWords : List IWord := [0x3C00, 0x0101]

/-- Those words in memory, on a page that the strand may fetch from. -/
def oddState : State := { State.reset with
  strands := [(0, oddStrand)]
  tlb := [(tlbKey 12 0 2 125, ⟨19, 2⟩)]
  mem := [(125, 0x00), (126, 0x3C), (127, 0x01), (128, 0x01)] }

/-- What a computation gives. -/
def givenBy {α : Type} (d : α) : EStateM.Result Stop State α → α
  | .ok a _ => a
  | .error _ _ => d

/-- The first word brings its line into the instruction cache, from which the second then gets one byte alone. -/
theorem givenBy_fetch_oddState : givenBy [] (fetch oddState) = [0x3C00, 0x0001] := by decide +kernel

theorem noPartials_oddState : NoPartials oddState := fun _ => rfl

/-- The address of each word. -/
def oddPlace (k : Nat) : Nat := (oddState.self.pc + 2 * k) % 2 ^ 48

/-- The page of those addresses grants the fetch. -/
theorem maps_oddState {va : Nat} (hva : va = 125 ∨ va = 127) : Maps oddState (Cap.tenant oddState.self.pcc.val) va Cap.x va 19 := by
  rcases hva with rfl | rfl <;>
    exact ⟨⟨19, 2⟩, ⟨by decide +kernel, by decide +kernel⟩, rfl, by decide +kernel, by decide +kernel,
      fun h => absurd h (by decide +kernel)⟩

/-- Each word lies where the statement asks. -/
theorem oddState_words : ∀ k < oddWords.length, let va : Nat := (oddState.self.pc + 2 * k) % 2 ^ 48
    Cap.base oddState.self.pcc.val ≤ (va : Int) ∧ (va : Int) + 2 ≤ Cap.top oddState.self.pcc.val ∧ cacheable (oddPlace k) ∧
      oddState.badAt (oddPlace k) = 0 ∧
      oddState.viewBytes (coreOf oddState.cur) (oddPlace k) 2 = leBytes 2 (oddWords.getD k 0).toNat ∧
      ∃ p e, Maps oddState (Cap.tenant oddState.self.pcc.val) va Cap.x p e ∧ pkgOf p = oddState.pkg ∧ localOf p = oddPlace k := by
  intro k hk
  have h01 : k = 0 ∨ k = 1 := by simp only [oddWords, List.length_cons, List.length_nil] at hk; omega
  rcases h01 with rfl | rfl
  · exact ⟨by decide +kernel, by decide +kernel, by decide +kernel, by decide +kernel, by decide +kernel,
      125, 19, maps_oddState (.inl rfl), by decide +kernel, by decide +kernel⟩
  · exact ⟨by decide +kernel, by decide +kernel, by decide +kernel, by decide +kernel, by decide +kernel,
      127, 19, maps_oddState (.inr rfl), by decide +kernel, by decide +kernel⟩

/-- Refutes O5: the statement does not ask for an even PC, and at an odd one a word that begins with the last byte of a cached line
loses its other byte. -/
theorem not_fetchIsByWords : ¬ Obligations.FetchIsByWords := by
  rintro ⟨hfetch, -⟩
  have hchain : ∀ k < oddWords.length, isChainWord (oddWords.getD k 0) = decide (k + 1 < oddWords.length) := by decide +kernel
  have hcode : (oddState.core (coreOf oddState.cur)).code = [] := by decide +kernel
  obtain ⟨u, hu, -⟩ := hfetch oddState oddWords oddPlace noPartials_oddState hcode (by decide +kernel) (by decide +kernel) hchain oddState_words
  have hws := givenBy_fetch_oddState
  rw [hu] at hws
  exact absurd (show oddWords = [0x3C00, 0x0001] from hws) (by decide)

end Sys2Proof.Claims
end

section
/-! SUPPORT. The checks of an access (R77, R293). -/

namespace Sys2Proof.Claims

open Sys2Proof.Machine

/-- The fault that a check raises, with the address. -/
def checkOutcome (s u : State) (c : Reg) (perm : BitVec 12) (kinds : List Nat) (n : Nat) : EStateM.Result Exc State Unit :=
  match checkFault s c perm kinds n with
  | some f => .error (.trap f (BitVec.ofNat 64 (Cap.cursor c.val)) none) u
  | none => .ok () u

theorem has_iff (q : Quad) (perm : BitVec 12) : Cap.has q perm = true ↔ perm &&& ~~~ (Cap.perms q) = 0 := by
  simp only [Cap.has, beq_iff_eq, decide_eq_true_eq]
  constructor
  · intro h
    rw [← h]
    ext i
    simp
    intro hq _
    exact hq
  · intro h
    ext i hi
    have hbit := congrArg (BitVec.getLsbD · i) h
    simp [hi] at hbit
    simpa [hi] using hbit

/-- The check raises the first fault of R77. -/
theorem checkCap_run {s u : State} (hid : u.self.identity = s.self.identity) (c : Reg) (perm : BitVec 12) (kinds : List Nat) (n : Nat) :
    checkCap c perm kinds n u = checkOutcome s u c perm kinds n := by
  have hself : checkCap c perm kinds n u = checkCapAs s.self.identity c perm kinds n u := by
    rw [← hid]; exact M.bind_ok (self_run u)
  rw [hself]
  unfold checkOutcome checkFault checkCapAs checkRightsAs
  simp only [bind_assoc]
  cases htag : c.tag
  · exact M.bind_error (raiseIf_of (by simp) ..)
  rw [M.bind_ok (raiseIf_of_not (by simp) ..)]
  by_cases htenant : s.self.mode ≠ .hypervisor ∧ Cap.tenant c.val ≠ s.self.tid
  · rw [if_neg (by simp), if_pos htenant]
    exact M.bind_error (raiseIf_of (by simp [Strand.identity, htenant.1, htenant.2]) ..)
  rw [M.bind_ok (raiseIf_of_not (by rw [Bool.eq_false_iff, Ne, Bool.and_eq_true, decide_eq_true_iff]; simpa [Strand.identity] using htenant) ..), if_neg (by simp), if_neg htenant]
  by_cases hkind : Cap.kind c.val ∈ kinds
  swap
  · rw [if_pos (.inl hkind)]
    exact M.bind_error (raiseIf_of (by simp [hkind]) ..)
  rw [M.bind_ok (raiseIf_of_not (by simp [hkind]) ..)]
  by_cases hperm : Cap.has c.val perm = true
  swap
  · rw [if_pos (.inr (fun h => hperm ((has_iff ..).mpr h)))]
    exact M.bind_error (raiseIf_of (by simp [hperm]) ..)
  rw [M.bind_ok (raiseIf_of_not (by simp [hperm]) ..), if_neg (by simp [hkind, (has_iff ..).mp hperm])]
  by_cases hbounds : (Cap.cursor c.val : Int) < Cap.base c.val ∨ Cap.top c.val < Cap.cursor c.val + n
  · rw [if_pos hbounds]
    exact M.bind_error (raiseIf_of (by simpa using hbounds) ..)
  rw [M.bind_ok (raiseIf_of_not (by simpa using hbounds) ..), if_neg hbounds]
  by_cases halign : (n = 2 ∨ n = 4 ∨ n = 8 ∨ n = 16) ∧ Cap.cursor c.val % n ≠ 0
  · rw [if_pos halign]
    exact raiseIf_of (by simp only [Bool.and_eq_true, Bool.or_eq_true, decide_eq_true_eq, or_assoc]; exact halign) ..
  · rw [if_neg halign]
    exact raiseIf_of_not (by rw [Bool.eq_false_iff]; simp only [ne_eq, Bool.and_eq_true, Bool.or_eq_true, decide_eq_true_eq, or_assoc]; exact halign) ..

/-- A leaf that the micro-TLB holds translates, or does not grant the access (R293, R295). -/
theorem tlbEntryFor_run {s u : State} (hcur : u.cur = s.cur) (htlb : u.tlb = s.tlb) {tenant : BitVec 12} {va : Nat} {e : TlbEntry}
    (h : TlbHas s tenant va e) : tlbEntryFor (microTlb u.cur) tenant va u = .ok e u := by
  obtain ⟨hfind, hvalid⟩ := h
  have hhit : u.tlbFind (microTlb u.cur) tenant va = e := by rw [← hfind, hcur]; simp only [State.tlbFind, htlb]
  refine (M.bind_ok (M.get_run u)).trans ?_
  dsimp only
  rw [hhit, if_pos hvalid]
  rfl

theorem translate_refused {s u : State} (hcur : u.cur = s.cur) (htlb : u.tlb = s.tlb) {tenant : BitVec 12} {va : Nat} {e : TlbEntry}
    (h : TlbHas s tenant va e) {perm : BitVec 12} (hno : pteGrants e.pte perm = false) :
    translate tenant va perm u = .error (.trap cXlat (BitVec.ofNat 64 va) none) u := by
  refine (M.bind_ok (M.get_run u)).trans ((M.bind_ok (tlbEntryFor_run hcur htlb h)).trans ?_)
  dsimp only
  rw [hno]
  exact M.bind_error rfl

theorem translate_run {s u : State} (hcur : u.cur = s.cur) (htlb : u.tlb = s.tlb) {tenant : BitVec 12} {va p : Nat} {perm : BitVec 12}
    {e : Word} (h : Maps s tenant va perm p e) : translate tenant va perm u = .ok (p, e) u := by
  obtain ⟨t, hhas, rfl, rfl, hgrants, hdirty⟩ := h
  unfold Machine.translate translateFor
  rw [M.bind_ok (M.get_run u), M.bind_ok (tlbEntryFor_run hcur htlb hhas)]
  simp only [hgrants, Bool.not_true, Bool.false_eq_true, if_false, pure_bind]
  have hno : ¬(decide (perm &&& (Cap.st ||| Cap.sc ||| Cap.atm) ≠ 0) && !pteD t.pte) = true := by simpa using hdirty
  rw [if_neg hno]
  rfl

theorem checkFault_ne_syscall {s : State} {c : Reg} {perm : BitVec 12} {kinds : List Nat} {n : Nat} {f : BitVec 8}
    (h : checkFault s c perm kinds n = some f) : f ≠ cSyscall := by
  unfold checkFault at h
  dsimp only at h
  split_ifs at h <;> (cases h; decide)

section Stops
variable {s : State} {i : Instr} {d : Desc} {c : Reg} {perm : BitVec 12} {n : Nat} {body : M Unit} {k : Nat × Word → M Unit}
variable (hx : exec i s = runOp d body s) (hl : d.steer ≠ .lanes) (hc : s.self.Clear d.regs)
variable (hbody : body (s.withSelf (s.self.begun d)) = (checkAccess c perm [Cap.kMemory] n >>= k) (s.withSelf (s.self.begun d)))
include hx hl hc hbody

/-- An instruction that comes to an access check traps with the first fault of R77. -/
theorem traps_of_checkFault {f : BitVec 8} (hf : checkFault s c perm [Cap.kMemory] n = some f) : Traps i s f (Cap.cursor c.val) := by
  refine traps_of_runOp hx hl hc (hbody.trans (M.bind_error (M.bind_error ?_))) (checkFault_ne_syscall hf)
  rw [checkCap_run (s := s) (by rw [State.self_withSelf]; rfl), checkOutcome, hf]

/-- An access that passes its checks traps where its leaf does not grant it. -/
theorem traps_of_leaf (hf : checkFault s c perm [Cap.kMemory] n = none) {e : TlbEntry}
    (he : TlbHas s (Cap.tenant c.val) (Cap.cursor c.val) e) (hno : pteGrants e.pte perm = false) :
    Traps i s cXlat (Cap.cursor c.val) := by
  refine traps_of_runOp hx hl hc (hbody.trans (M.bind_error ((M.bind_ok (a := ()) ?_).trans (translate_refused (u := s.withSelf (s.self.begun d)) rfl rfl he hno)))) (by decide)
  rw [checkCap_run (s := s) (by rw [State.self_withSelf]; rfl), checkOutcome, hf]

end Stops

section Bodies
variable {o : OpRX} {m : MemMod} {s : State} (h : Issues s [o.a, o.b])
include h

theorem addressRX_run {u : State} (hr : SameReads u.self s.self) (i : Nat) : addressRX i o u = .ok (at2 s o) u :=
  M.bind_ok (h.readW_same hr _ (by simp))

/-- Each access comes to its check with the address of its operand. -/
theorem ld_check (hkind : Cap.kind (at2 s o).val ≠ Cap.kQueue) :
    ∃ body k, exec (.ld o m) s = runOp ⟨o.st, 0, .access, [wDst o.a, wSrc o.b]⟩ body s ∧ ∀ u, SameReads u.self s.self →
      body u = (checkAccess (at2 s o) Cap.ld [Cap.kMemory] (2 ^ m.width.toNat) >>= k) u := by
  refine ⟨_, fun pe => do
    let r ← loadBytes (Cap.cursor (at2 s o).val) pe.1 (2 ^ m.width.toNat) (mannerOf m) pe.2 (Cap.tenant (at2 s o).val)
    ordAcquire m.ord.toNat m.scope.toNat
    writeX o.a (extendTo64 m.sx (2 ^ m.width.toNat) (leNat r.1)), rfl, fun u hu => ?_⟩
  rw [M.bind_ok (addressRX_run h hu 0)]
  dsimp only
  rw [if_neg (by simp [hkind])]
  simp only [loadThrough, bind_assoc, pure_bind, widthBytes, mannerOf]

theorem st_check : ∃ body k, exec (.st o m) s = runOp ⟨o.st, 0, .access, [wSrc o.a, wSrc o.b]⟩ body s ∧ ∀ u, SameReads u.self s.self →
      body u = (checkAccess (at2 s o) Cap.st [Cap.kMemory] (2 ^ m.width.toNat) >>= k) u := by
  refine ⟨_, fun pe => storeChecked (at2 s o) pe.1 pe.2 (leBytes (2 ^ m.width.toNat) (x s o.a).toNat) false (mannerOf m), rfl,
    fun u hu => ?_⟩
  rw [M.bind_ok (h.readX_same hu 0 (by simp)), M.bind_ok (addressRX_run h hu 1)]
  rfl

theorem ldc_check : ∃ body k, exec (.ldc o m) s = runOp ⟨o.st, 0, .access, [wDst o.a, wSrc o.b]⟩ body s ∧ ∀ u, SameReads u.self s.self →
      body u = (checkAccess (at2 s o) (Cap.ld ||| Cap.lc) [Cap.kMemory] 16 >>= k) u := by
  refine ⟨_, fun pe => do
    let r ← loadBytes (Cap.cursor (at2 s o).val) pe.1 16 (mannerOf m) pe.2 (Cap.tenant (at2 s o).val)
    ordAcquire m.ord.toNat m.scope.toNat
    writeW o.a ⟨BitVec.ofNat 128 (leNat r.1), r.2⟩, rfl, fun u hu => ?_⟩
  rw [M.bind_ok (addressRX_run h hu 0)]
  simp only [loadThrough, bind_assoc, pure_bind, mannerOf]

theorem stc_check : ∃ body k, exec (.stc o m) s = runOp ⟨o.st, 0, .access, [wSrc o.a, wSrc o.b]⟩ body s ∧ ∀ u, SameReads u.self s.self →
      body u = (checkAccess (at2 s o) (if (w s o.a).tag then Cap.st ||| Cap.sc else Cap.st) [Cap.kMemory] 16 >>= k) u := by
  refine ⟨_, fun pe => do
    let v ← get
    raiseIf ((w s o.a).tag && !Cap.has (w s o.a).val Cap.gl && !v.ownPlace pe.1) cPerm (Cap.cursor (at2 s o).val)
    storeChecked (at2 s o) pe.1 pe.2 (leBytes 16 (w s o.a).val.toNat) (w s o.a).tag (mannerOf m), rfl, fun u hu => ?_⟩
  rw [M.bind_ok (h.readW_same hu 0 (by simp)), M.bind_ok (addressRX_run h hu 1)]

end Bodies

/-- Settles O23: every access comes to its check with the address of its operand, and the check raises the first fault. -/
theorem accessChecks : Obligations.AccessChecks := by
  intro o m s h
  have hld : s.self.Clear [wDst o.a, wSrc o.b] := h.clear (by simp [wDst, wSrc])
  have hst : s.self.Clear [wSrc o.a, wSrc o.b] := h.clear (by simp [wSrc])
  have hbegun (d : Desc) : SameReads (s.withSelf (s.self.begun d)).self s.self := by
    rw [State.self_withSelf]; exact .begun ..
  refine ⟨fun hkind => ?_, ?_, ?_, ?_⟩
  · obtain ⟨body, k, hx, hbody⟩ := ld_check (m := m) h hkind
    exact ⟨fun f hf => traps_of_checkFault hx Steer.noConfusion hld (hbody _ (hbegun _)) hf,
      fun hf e he hno => traps_of_leaf hx Steer.noConfusion hld (hbody _ (hbegun _)) hf he hno⟩
  · obtain ⟨body, k, hx, hbody⟩ := st_check (m := m) h
    exact ⟨fun f hf => traps_of_checkFault hx Steer.noConfusion hst (hbody _ (hbegun _)) hf,
      fun hf e he hno => traps_of_leaf hx Steer.noConfusion hst (hbody _ (hbegun _)) hf he hno⟩
  · obtain ⟨body, k, hx, hbody⟩ := ldc_check (m := m) h
    exact ⟨fun f hf => traps_of_checkFault hx Steer.noConfusion hld (hbody _ (hbegun _)) hf,
      fun hf e he hno => traps_of_leaf hx Steer.noConfusion hld (hbody _ (hbegun _)) hf he hno⟩
  · obtain ⟨body, k, hx, hbody⟩ := stc_check (m := m) h
    exact ⟨fun f hf => traps_of_checkFault hx Steer.noConfusion hst (hbody _ (hbegun _)) hf,
      fun hf e he hno => traps_of_leaf hx Steer.noConfusion hst (hbody _ (hbegun _)) hf he hno⟩

end Sys2Proof.Claims
end

section
/-! SUPPORT. Writes to memory as they reach two states that differ in the current strand alone: the state of a statement, and the
state in which the instruction runs. Beside memory, a write sets wake flags (R163). -/

namespace Sys2Proof.Claims

open Sys2Proof.Machine

/-! ## Which strands run -/

/-- Whether a list of strands holds one of a number that runs. -/
def Runs1 (m : SMap Strand) (b : Nat) : Prop := b ∈ (m.filter fun e => e.2.live).map (·.1)

theorem runs1_cons (a : Nat) (t : Strand) (m : SMap Strand) (b : Nat) : Runs1 ((a, t) :: m) b ↔ (b = a ∧ t.live = true) ∨ Runs1 m b := by
  cases h : t.live <;> simp [Runs1, h]

theorem runs1_of_lookup {m : SMap Strand} {b : Nat} (h : (lookupD Strand.idle m b).live = true) : Runs1 m b := by
  induction m with
  | nil => exact absurd h Bool.false_ne_true
  | cons e m ih =>
    obtain ⟨a, t⟩ := e
    rw [runs1_cons]
    rw [lookupD] at h
    split at h
    · exact .inl ⟨‹_›, h⟩
    · exact .inr (ih h)

theorem runs1_removeAt {m : SMap Strand} {k b : Nat} (h : b ≠ k) : Runs1 (removeAt k m) b ↔ Runs1 m b := by
  induction m with
  | nil => rfl
  | cons e m ih =>
    obtain ⟨a, t⟩ := e
    rw [removeAt, runs1_cons]
    split
    · rw [ih]; simp [h, ‹k = a›.symm]
    · rw [runs1_cons, ih]

theorem runs1_insertAt {m : SMap Strand} {k : Nat} {v : Strand} (hlive : v.live = (lookupD Strand.idle m k).live) (b : Nat) :
    Runs1 (insertAt k v m) b ↔ Runs1 m b := by
  induction m with
  | nil => rw [insertAt, runs1_cons]; simp [hlive, lookupD, Strand.idle]
  | cons e m ih =>
    obtain ⟨a, t⟩ := e
    rw [insertAt]
    split
    · rw [runs1_cons]
      refine or_iff_right_of_imp fun ⟨hb, hv⟩ => hb ▸ runs1_of_lookup (hlive ▸ hv)
    · rw [lookupD] at hlive
      split
      · rw [if_pos ‹_›] at hlive
        rw [runs1_cons, runs1_cons, hlive, ‹k = a›]
      · rw [if_neg ‹_›] at hlive
        rw [runs1_cons, runs1_cons, ih hlive]

/-- A strand replaced by one that runs as it does leaves the running strands as they are; the idle strand is not listed. -/
theorem mem_running_withStrand {s : State} {sid b : Nat} {t : Strand} (hlive : t.live = (s.strand sid).live)
    (h : b ≠ sid ∨ t ≠ Strand.idle) : b ∈ (s.withStrand sid t).running ↔ b ∈ s.running := by
  change Runs1 (storeAt Strand.idle sid t s.strands) b ↔ Runs1 s.strands b
  rw [storeAt]
  split
  · exact runs1_removeAt (h.resolve_right fun hne => hne ‹_›)
  · exact runs1_insertAt hlive b

/-! ## Wake flags -/

/-- A strand that may have been woken. -/
def wokenIf (t : Strand) (w : Bool) : Strand := { t with wake := t.wake || w }

/-- Whether a write to a line wakes a strand. -/
def hears (line : Nat) (t : Strand) : Bool := t.monitor ≠ 0 && monitorMatches t.monitor line

/-- One strand's part of `wakeLine`. -/
def wakeOne (line : Nat) (s : State) (sid : Nat) : State :=
  if hears line (s.strand sid) then s.withStrand sid { s.strand sid with wake := true } else s

theorem wakeLine_eq (s : State) (line : Nat) : s.wakeLine line = s.running.foldl (wakeOne line) s := rfl

theorem wakeOne_strand (line : Nat) (s : State) (sid b : Nat) :
    (wakeOne line s sid).strand b = wokenIf (s.strand b) (decide (b = sid) && hears line (s.strand b)) := by
  unfold wakeOne
  by_cases hb : b = sid
  · subst hb
    split
    · simp [State.strand_withStrand_same, wokenIf, *]
    · simp [wokenIf, *]
  · split
    · rw [State.strand_withStrand_ne _ _ _ _ hb]; simp [wokenIf, hb]
    · simp [wokenIf, hb]

theorem hears_wokenIf (line : Nat) (t : Strand) (w : Bool) : hears line (wokenIf t w) = hears line t := rfl

theorem wokenIf_wokenIf (t : Strand) (w w' : Bool) : wokenIf (wokenIf t w) w' = wokenIf t (w || w') := by
  simp [wokenIf, Bool.or_assoc]

theorem foldl_wakeOne_strand (line : Nat) (l : List Nat) (s : State) (b : Nat) :
    (l.foldl (wakeOne line) s).strand b = wokenIf (s.strand b) (decide (b ∈ l) && hears line (s.strand b)) := by
  induction l generalizing s with
  | nil => simp [wokenIf]
  | cons a l ih =>
    rw [List.foldl_cons, ih, wakeOne_strand, hears_wokenIf, wokenIf_wokenIf]
    congr 1
    by_cases hb : b = a <;> by_cases hl : b ∈ l <;> simp [hb, hl]

/-- Waking changes strands alone, and leaves the same ones running. -/
theorem wakeOne_rest (line : Nat) (s : State) (sid : Nat) : wakeOne line s sid = { s with strands := (wakeOne line s sid).strands } := by
  unfold wakeOne
  split <;> rfl

theorem mem_running_wakeOne (line : Nat) (s : State) (sid b : Nat) : b ∈ (wakeOne line s sid).running ↔ b ∈ s.running := by
  unfold wakeOne
  split
  · refine mem_running_withStrand rfl (.inr fun h => ?_)
    exact Bool.false_ne_true (congrArg Strand.wake h).symm
  · rfl

theorem alike_trans {a b c : State} (hab : a = { b with strands := a.strands }) (hbc : b = { c with strands := b.strands }) :
    a = { c with strands := a.strands } := by
  refine hab.trans ?_
  rw [hbc]

theorem foldl_wakeOne_rest (line : Nat) (l : List Nat) (s : State) :
    l.foldl (wakeOne line) s = { s with strands := (l.foldl (wakeOne line) s).strands } := by
  induction l generalizing s with
  | nil => rfl
  | cons a l ih =>
    exact alike_trans (ih _) (wakeOne_rest line s a)

theorem mem_running_foldl_wakeOne (line : Nat) (l : List Nat) (s : State) (b : Nat) :
    b ∈ (l.foldl (wakeOne line) s).running ↔ b ∈ s.running := by
  induction l generalizing s with
  | nil => rfl
  | cons a l ih => rw [List.foldl_cons, ih, mem_running_wakeOne]

/-! ## Twins -/

/-- What no write to memory changes. -/
structure Fixed (s u : State) : Prop where
  cur : u.cur = s.cur
  pkg : u.pkg = s.pkg
  tlb : u.tlb = s.tlb
  quads : u.quads = s.quads
  dies : u.dies = s.dies
  colonies : u.units.colonies = s.units.colonies

theorem Fixed.refl (s : State) : Fixed s s := ⟨rfl, rfl, rfl, rfl, rfl, rfl⟩

theorem Fixed.trans {s u v : State} (h : Fixed s u) (h' : Fixed u v) : Fixed s v :=
  ⟨h'.cur.trans h.cur, h'.pkg.trans h.pkg, h'.tlb.trans h.tlb, h'.quads.trans h.quads, h'.dies.trans h.dies,
    h'.colonies.trans h.colonies⟩

theorem Fixed.withStrands (u : State) (S : SMap Strand) : Fixed u { u with strands := S } := ⟨rfl, rfl, rfl, rfl, rfl, rfl⟩

/-- `u` is what writes have made of `s`, and `v` is `u` but for the current strand, which is `r` there and `t` here, woken or not
alike. -/
structure Twin (s : State) (t r : Strand) (u v : State) : Prop where
  fixed : Fixed s u
  rest : v = { u with strands := v.strands }
  other : ∀ b, b ≠ s.cur → v.strand b = u.strand b
  woken : ∃ w, u.self = wokenIf t w ∧ v.self = wokenIf r w
  monitor : r.monitor = t.monitor
  runs : ∀ b, b ≠ s.cur ∨ t.monitor ≠ 0 → (b ∈ v.running ↔ b ∈ u.running)

/-- An operation that keeps two states twins. -/
def Keeps2 (f : State → State) : Prop := ∀ ⦃s t r u v⦄, Twin s t r u v → Twin s t r (f u) (f v)

/-- An operation that neither reads nor changes strands. -/
def Blind (f : State → State) : Prop := ∀ u S, f { u with strands := S } = { f u with strands := S }

theorem Twin.cur {s : State} {t r : Strand} {u v : State} (h : Twin s t r u v) : v.cur = s.cur := by
  rw [h.rest]; exact h.fixed.cur

/-- Two twins carry over to two states with their strands that are otherwise alike. -/
theorem Twin.carry {s : State} {t r : Strand} {u v u' v' : State} (h : Twin s t r u v) (hrest : v' = { u' with strands := v'.strands })
    (hfixed : Fixed u u') (hu : u'.strands = u.strands) (hv : v'.strands = v.strands) : Twin s t r u' v' := by
  have hstrand {a b : State} (hab : a.strands = b.strands) (n : Nat) : a.strand n = b.strand n := congrArg (lookupD _ · n) hab
  have hrunning {a b : State} (hab : a.strands = b.strands) : a.running = b.running := by unfold State.running; rw [hab]
  have hcur : v'.cur = v.cur := by rw [hrest, h.cur]; exact hfixed.cur.trans h.fixed.cur
  refine ⟨h.fixed.trans hfixed, hrest, fun b hb => ?_, ?_, h.monitor, fun b hb => ?_⟩
  · rw [hstrand hv, hstrand hu]; exact h.other b hb
  · unfold State.self
    rw [hfixed.cur, hcur, hstrand hu, hstrand hv]
    exact h.woken
  · rw [hrunning hu, hrunning hv]; exact h.runs b hb

theorem Blind.strands {f : State → State} (h : Blind f) (u : State) : (f u).strands = u.strands := by
  have := congrArg State.strands (h u u.strands)
  exact this

theorem Blind.keeps2 {f : State → State} (h : Blind f) (hfixed : ∀ u, Fixed u (f u)) : Keeps2 f := by
  intro s t r u v ht
  refine ht.carry ?_ (hfixed u) (h.strands u) (h.strands v)
  have hv : f v = { f u with strands := v.strands } := by
    conv_lhs => rw [ht.rest]
    exact h u _
  rw [h.strands v]
  exact hv

theorem keeps2_wakeLine (line : Nat) : Keeps2 fun s => s.wakeLine line := by
  intro s t r u v h
  simp only [wakeLine_eq]
  have hcur (s : State) : (s.running.foldl (wakeOne line) s).cur = s.cur := by rw [foldl_wakeOne_rest]
  refine ⟨?_, ?_, fun b hb => ?_, ?_, h.monitor, fun b hb => ?_⟩
  · rw [foldl_wakeOne_rest line u.running u]
    exact h.fixed.trans (.withStrands ..)
  · rw [foldl_wakeOne_rest line u.running u]
    refine (foldl_wakeOne_rest line v.running v).trans ?_
    rw [h.rest]
  · rw [foldl_wakeOne_strand, foldl_wakeOne_strand, h.other b hb, decide_eq_decide.mpr (h.runs b (.inl hb))]
  · obtain ⟨w, hu, hv⟩ := h.woken
    have hhears : (decide (v.cur ∈ v.running) && hears line v.self) = (decide (u.cur ∈ u.running) && hears line u.self) := by
      rw [hu, hv, h.cur, h.fixed.cur, hears_wokenIf, hears_wokenIf]
      unfold hears
      rw [h.monitor]
      by_cases hm : t.monitor = 0
      · simp [hm]
      · rw [decide_eq_decide.mpr (h.runs s.cur (.inr hm))]
    refine ⟨w || (decide (u.cur ∈ u.running) && hears line u.self), ?_, ?_⟩
    · unfold State.self at hu ⊢
      rw [hcur, foldl_wakeOne_strand, hu, wokenIf_wokenIf]
    · rw [← hhears]
      unfold State.self at hv ⊢
      rw [hcur, foldl_wakeOne_strand, hv, wokenIf_wokenIf]
  · rw [mem_running_foldl_wakeOne, mem_running_foldl_wakeOne]
    exact h.runs b hb

/-! ## Operations on memory -/

theorem Keeps2.comp {f g : State → State} (hf : Keeps2 f) (hg : Keeps2 g) : Keeps2 fun s => g (f s) := fun _ _ _ _ _ h => hg (hf h)

theorem keeps2_foldl {α : Type} {f : State → α → State} (h : ∀ a, Keeps2 fun s => f s a) (l : List α) : Keeps2 fun s => l.foldl f s := by
  induction l with
  | nil => exact fun _ _ _ _ _ h => h
  | cons a l ih => exact (h a).comp ih

/-- An operation that goes by what two twins share. -/
theorem keeps2_of {β : Type} (d : State → β) (hd : ∀ u S, d { u with strands := S } = d u) {f : β → State → State}
    (h : ∀ b, Keeps2 (f b)) : Keeps2 fun s => f (d s) s := by
  intro s t r u v ht
  have hdv : d v = d u := by rw [ht.rest]; exact hd u _
  dsimp only
  rw [hdv]
  exact h (d u) ht

theorem blind_putByte (a : Nat) (b : Byte) : Blind fun s => s.putByte a b := fun _ _ => rfl

theorem blind_putBytes (a : Nat) (bs : List Byte) : Blind fun s => s.putBytes a bs := by
  induction bs generalizing a with
  | nil => exact fun _ _ => rfl
  | cons b bs ih => exact fun u S => ih (a + 1) (u.putByte a b) S

theorem blind_countPackage (code n : Nat) : Blind fun s => s.countPackage code n := fun _ _ => rfl

theorem blind_putSector (a : Nat) (bs : List Byte) : Blind fun s => s.putSector a bs := by
  intro u S
  unfold State.putSector
  have hbad : State.badAt { u with strands := S } a = u.badAt a := rfl
  dsimp only
  rw [hbad]
  split
  · exact blind_putBytes a bs u S
  · split
    · exact blind_putBytes a bs { u with bad := storeAt 0 (canon a / 32) 0 u.bad } S
    · rfl

theorem blind_l2Put (a n : Nat) : Blind fun s => s.l2Put a n := by
  intro u S
  unfold State.l2Put
  dsimp only
  split <;> rfl

theorem fixed_putBytes (a : Nat) (bs : List Byte) (u : State) : Fixed u (u.putBytes a bs) := by
  induction bs generalizing a u with
  | nil => exact .refl u
  | cons b bs ih => exact Fixed.trans (u := u.putByte a b) ⟨rfl, rfl, rfl, rfl, rfl, rfl⟩ (ih (a + 1) (u.putByte a b))

theorem fixed_putSector (a : Nat) (bs : List Byte) (u : State) : Fixed u (u.putSector a bs) := by
  unfold State.putSector
  split
  · exact fixed_putBytes ..
  · split
    · exact Fixed.trans (u := { u with bad := storeAt 0 (canon a / 32) 0 u.bad }) ⟨rfl, rfl, rfl, rfl, rfl, rfl⟩ (fixed_putBytes ..)
    · exact ⟨rfl, rfl, rfl, rfl, rfl, rfl⟩

theorem keeps2_putSector (a : Nat) (bs : List Byte) : Keeps2 fun s => s.putSector a bs :=
  (blind_putSector a bs).keeps2 (fixed_putSector a bs)

theorem keeps2_l2Put (a n : Nat) : Keeps2 fun s => s.l2Put a n :=
  (blind_l2Put a n).keeps2 fun u => by unfold State.l2Put; dsimp only; split <;> exact ⟨rfl, rfl, rfl, rfl, rfl, rfl⟩

/-- A wake at the global name of a local address. -/
theorem keeps2_wakeGlobal (a : Nat) : Keeps2 fun s => s.wakeLine (s.globalOf a / 128) :=
  keeps2_of (f := fun n s => s.wakeLine n) (fun s => s.globalOf a / 128) (fun _ _ => rfl) keeps2_wakeLine

theorem keeps2_wakeAt (a : Nat) : Keeps2 fun s => s.wakeAt a := by
  unfold State.wakeAt
  split
  case h_1 c o _ =>
    have hpkg (s : State) (line n : Nat) : (s.wakeLine line).globalOf n = s.globalOf n := by
      rw [wakeLine_eq, foldl_wakeOne_rest]; rfl
    have h := (keeps2_wakeGlobal (spadAddr c o)).comp (keeps2_wakeGlobal (windowName c o))
    simpa only [hpkg] using h
  case h_2 => exact keeps2_wakeGlobal a

theorem keeps2_homePut (a : Nat) (bs : List Byte) : Keeps2 fun s => s.homePut a bs := by
  have hput := keeps2_foldl (f := fun s (p : Nat × List Byte) => s.putSector p.1 p.2) (fun p => keeps2_putSector p.1 p.2)
    (splitAt 32 (bs.length / 32 + 2) a bs)
  have hwake := keeps2_foldl (f := fun s (p : Nat × List Byte) => (s.l2Put p.1 p.2.length).wakeAt p.1)
    (fun p => (keeps2_l2Put p.1 p.2.length).comp (keeps2_wakeAt p.1)) (splitAt 128 (bs.length / 128 + 2) a bs)
  exact hput.comp hwake

theorem keeps2_putTag (a : Nat) (t : Bool) : Keeps2 fun s => s.putTag a t :=
  Blind.keeps2 (fun _ _ => rfl) fun _ => ⟨rfl, rfl, rfl, rfl, rfl, rfl⟩

theorem keeps2_withCore (c : Nat) (v : CoreState) : Keeps2 fun s => s.withCore c v :=
  Blind.keeps2 (fun _ _ => rfl) fun _ => ⟨rfl, rfl, rfl, rfl, rfl, rfl⟩

theorem keeps2_flushPartials (line : Nat) (l : L1Line) (p : UpdateOnly) : Keeps2 fun s => s.flushPartials line l p := by
  have hpart (i : Nat) : Keeps2 fun s => s.putSector (line * 128 + i * p.k)
      (leBytes p.k (combine p.op p.kind p.k (leNat (s.bytesAt (line * 128 + i * p.k) p.k)) (leNat (l.get (i * p.k) p.k)))) :=
    keeps2_of (fun s => leBytes p.k (combine p.op p.kind p.k (leNat (s.bytesAt (line * 128 + i * p.k) p.k)) (leNat (l.get (i * p.k) p.k))))
      (fun _ _ => rfl) (keeps2_putSector _)
  exact ((keeps2_foldl hpart _).comp (keeps2_l2Put (line * 128) 128)).comp (keeps2_wakeAt (line * 128))

theorem keeps2_unregister (line : Nat) : Keeps2 fun s => s.unregister line := by
  refine Blind.keeps2 (fun u S => ?_) fun u => ?_
  · unfold State.unregister
    have hholders : State.holders { u with strands := S } line = u.holders line := rfl
    dsimp only
    rw [hholders]
    split <;> rfl
  · unfold State.unregister
    dsimp only
    split <;> exact ⟨rfl, rfl, rfl, rfl, rfl, rfl⟩

/-! ## Lines of an L1 -/

/-- What a line's write-back does for its dirty bytes: their homes get them, with the errors and the tags that go with them. -/
def putDirty (core line : Nat) (l : L1Line) (c : CoreState) (s : State) : State :=
  let s := l.dirtyRuns.foldl (fun s r => s.homePut (line * 128 + r.1) r.2) s
  let s := l.fails.foldl (fun s e =>
    if (List.range 32).any fun i => l.dirty.getLsbD (32 * e.1 + i) then
      { s with bad := storeAt 0 (canon (line * 128 + 32 * e.1) / 32) e.2 s.bad } else s) s
  let s := (List.range 8).foldl (fun s g =>
    if l.granuleDirty g && l.tags.getLsbD g && s.badAt (line * 128 + 16 * g) = 0 then
      s.putTag (line * 128 + 16 * g) true else s) s
  s.withCore core { c with lines := storeAt L1Line.empty line { l with dirty := 0 } c.lines }

/-- A line's write-back by its state. -/
theorem writeBackLine_eq (s : State) (core line : Nat) : s.writeBackLine core line =
    match (lookupD L1Line.empty (s.core core).lines line).upd with
    | some u => ((s.flushPartials line (lookupD L1Line.empty (s.core core).lines line) u).withCore core
        { s.core core with lines := storeAt L1Line.empty line L1Line.empty (s.core core).lines }).unregister line
    | none => if (lookupD L1Line.empty (s.core core).lines line).dirty = 0 then s
      else putDirty core line (lookupD L1Line.empty (s.core core).lines line) (s.core core) s := rfl

theorem keeps2_putDirty (core line : Nat) (l : L1Line) (c : CoreState) : Keeps2 (putDirty core line l c) := by
  have hput := keeps2_foldl (f := fun s (r : Nat × List Byte) => s.homePut (line * 128 + r.1) r.2)
    (fun r => keeps2_homePut _ r.2) l.dirtyRuns
  have hfail : Keeps2 fun s => l.fails.foldl (fun s e =>
      if (List.range 32).any fun i => l.dirty.getLsbD (32 * e.1 + i) then
        { s with bad := storeAt 0 (canon (line * 128 + 32 * e.1) / 32) e.2 s.bad } else s) s := by
    refine keeps2_foldl (fun e => Blind.keeps2 (fun u S => ?_) fun u => ?_) _
    · split <;> rfl
    · split <;> exact ⟨rfl, rfl, rfl, rfl, rfl, rfl⟩
  have htag : Keeps2 fun s => (List.range 8).foldl (fun s g =>
      if l.granuleDirty g && l.tags.getLsbD g && s.badAt (line * 128 + 16 * g) = 0 then
        s.putTag (line * 128 + 16 * g) true else s) s := by
    refine keeps2_foldl (fun g => Blind.keeps2 (fun u S => ?_) fun u => ?_) _
    · have hbad : State.badAt { u with strands := S } (line * 128 + 16 * g) = u.badAt (line * 128 + 16 * g) := rfl
      dsimp only
      rw [hbad]
      split <;> rfl
    · split <;> exact ⟨rfl, rfl, rfl, rfl, rfl, rfl⟩
  exact ((hput.comp hfail).comp htag).comp (keeps2_withCore core _)

theorem keeps2_writeBackLine (core line : Nat) : Keeps2 fun s => s.writeBackLine core line := by
  simp only [writeBackLine_eq]
  refine keeps2_of (f := fun c s => match (lookupD L1Line.empty c.lines line).upd with
    | some u => ((s.flushPartials line (lookupD L1Line.empty c.lines line) u).withCore core
        { c with lines := storeAt L1Line.empty line L1Line.empty c.lines }).unregister line
    | none => if (lookupD L1Line.empty c.lines line).dirty = 0 then s
      else putDirty core line (lookupD L1Line.empty c.lines line) c s) (fun s => s.core core) (fun _ _ => rfl) fun c => ?_
  split
  · exact ((keeps2_flushPartials line _ _).comp (keeps2_withCore core _)).comp (keeps2_unregister line)
  · split
    · exact fun _ _ _ _ _ h => h
    · exact keeps2_putDirty ..

theorem keeps2_dropLine (core line : Nat) : Keeps2 fun s => s.dropLine core line := Blind.keeps2 (fun _ _ => rfl) fun _ => ⟨rfl, rfl, rfl, rfl, rfl, rfl⟩

theorem keeps2_leaveLine (core line : Nat) : Keeps2 fun s => s.leaveLine core line :=
  (keeps2_writeBackLine core line).comp (keeps2_dropLine core line)

theorem keeps2_recall (line : Nat) : Keeps2 fun s => s.recall line :=
  keeps2_of (f := fun (l : List Nat) s => l.foldl (fun s c => s.leaveLine c line) s) (fun s => s.holders line) (fun _ _ => rfl)
    fun l => keeps2_foldl (f := fun s c => s.leaveLine c line) (fun c => keeps2_leaveLine c line) l

theorem keeps2_recallRange (a n : Nat) : Keeps2 fun s => s.recallRange a n :=
  keeps2_foldl (f := fun s i => s.recall (a / 128 + i)) (fun i => keeps2_recall _) _

theorem keeps2_refetch (core : Nat) : Keeps2 fun s => s.refetch core := Blind.keeps2 (fun _ _ => rfl) fun _ => ⟨rfl, rfl, rfl, rfl, rfl, rfl⟩

theorem keeps2_releaseCore (core : Nat) : Keeps2 fun s => s.releaseCore core :=
  keeps2_of (f := fun (l : SMap L1Line) s => l.foldl (fun (s : State) (e : Nat × L1Line) => s.writeBackLine core e.1) s)
    (fun s => (s.core core).lines.filter fun (e : Nat × L1Line) => e.2.upd.isNone) (fun _ _ => rfl)
    fun l => keeps2_foldl (f := fun s (e : Nat × L1Line) => s.writeBackLine core e.1) (fun e => keeps2_writeBackLine core e.1) l

theorem keeps2_acquireCore (core : Nat) : Keeps2 fun s => s.acquireCore core :=
  keeps2_of (f := fun (l : SMap L1Line) s => l.foldl (fun (s : State) (e : Nat × L1Line) => s.leaveLine core e.1) (s.refetch core))
    (fun s => (s.core core).lines.filter fun (e : Nat × L1Line) => e.2.upd.isNone) (fun _ _ => rfl)
    fun l => (keeps2_refetch core).comp
      (keeps2_foldl (f := fun s (e : Nat × L1Line) => s.leaveLine core e.1) (fun e => keeps2_leaveLine core e.1) l)

theorem keeps2_l1Room (core line : Nat) : Keeps2 fun s => s.l1Room core line := by
  refine keeps2_of (f := fun (d : SMap L1Line × Nat) s =>
    let held := (d.1.filter fun e => e.1 % 64 = line % 64 && e.1 ≠ line && e.2 ≠ L1Line.empty).map (·.1)
    if held.length < 8 then s
    else match held[Config.victim d.2 % held.length]? with
      | some v => s.leaveLine core v
      | none => s) (fun s => ((s.core core).lines, s.steps)) (fun _ _ => rfl) fun d => ?_
  dsimp only
  split
  · exact fun _ _ _ _ _ h => h
  · split
    · exact keeps2_leaveLine core _
    · exact fun _ _ _ _ _ h => h

/-! ## From twins to what an instruction leads to -/

theorem Twin.begun (s : State) (d : Desc) : Twin s s.self (s.self.begun d) s (s.withSelf (s.self.begun d)) := by
  refine ⟨.refl s, rfl, fun b hb => State.strand_withSelf_ne _ _ _ hb, ⟨false, ?_, ?_⟩, rfl, fun b hb => ?_⟩
  · simp [wokenIf]
  · rw [State.self_withSelf]; simp [wokenIf]
  · refine mem_running_withStrand rfl (hb.imp_right fun hm hidle => hm ?_)
    exact congrArg Strand.monitor hidle

theorem Twin.onlySelf {s : State} {t r : Strand} {u v : State} (h : Twin s t r u v) : ∃ w, u.self = wokenIf t w ∧ OnlySelf u (wokenIf r w) v := by
  obtain ⟨w, hu, hv⟩ := h.woken
  refine ⟨w, hu, h.cur.trans h.fixed.cur.symm, hv, fun b hb => h.other b (h.fixed.cur ▸ hb), fun c => ?_, ⟨[], ?_, by simp⟩, ?_⟩
  · rw [show v.core c = u.core c by rw [h.rest]; rfl]
    exact ⟨rfl, rfl, rfl, rfl, rfl⟩
  · rw [h.rest, List.append_nil]
  · rw [h.rest]; rfl

theorem Twin.sameAs {s : State} {t r : Strand} {u v : State} (h : Twin s t r u v) (hstill : r.still = t.still) (hregs : r.regs = t.regs) :
    SameAs u v := by
  obtain ⟨w, hu, hv⟩ := h.onlySelf
  refine hv.sameAs ?_ ?_
  · rw [hu]
    have hw (q : Strand) : (wokenIf q w).still = wokenIf q.still w := rfl
    rw [hw, hw, hstill]
  · rw [hu]; exact hregs

/-- The current strand of two twins changed alike. -/
theorem Twin.withSelf {s : State} {t r : Strand} {u v : State} (h : Twin s t r u v) {f g : Strand → Strand} (hf : ∀ w, f (wokenIf t w) = wokenIf (f t) w)
    (hg : ∀ w, g (wokenIf r w) = wokenIf (g r) w) (hlive : (f t).live = t.live) (hlive' : (g r).live = r.live)
    (hmonitor : (f t).monitor = t.monitor) (hmonitor' : (g r).monitor = r.monitor) :
    Twin s (f t) (g r) (u.withSelf (f u.self)) (v.withSelf (g v.self)) := by
  obtain ⟨w, hu, hv⟩ := h.woken
  have hcur := h.cur
  refine ⟨h.fixed.trans (.withStrands ..), ?_, fun b hb => ?_, ⟨w, ?_, ?_⟩, ?_, fun b hb => ?_⟩
  · have hwith (S : SMap Strand) : { v with strands := S } = { u with strands := S } := by rw [h.rest]
    exact hwith _
  · rw [State.strand_withSelf_ne u _ _ (by rw [h.fixed.cur]; exact hb), State.strand_withSelf_ne v _ _ (by rw [hcur]; exact hb)]
    exact h.other b hb
  · rw [State.self_withSelf, hu, hf]
  · rw [State.self_withSelf, hv, hg]
  · rw [hmonitor, hmonitor', h.monitor]
  · rw [hmonitor] at hb
    have hne (p : Strand → Strand) (q : Strand) (hm : (wokenIf (p q) w).monitor = t.monitor) :
        b ≠ s.cur ∨ wokenIf (p q) w ≠ Strand.idle :=
      hb.imp_right fun hm0 hidle => hm0 (hm ▸ congrArg Strand.monitor hidle)
    rw [hu, hv, hf, hg]
    refine (mem_running_withStrand ?_ ?_).trans ((h.runs b hb).trans (mem_running_withStrand ?_ ?_).symm)
    · exact hlive'.trans (congrArg Strand.live hv : v.self.live = (wokenIf r w).live).symm
    · rw [hcur]; exact hne g r (hmonitor'.trans h.monitor)
    · exact hlive.trans (congrArg Strand.live hu : u.self.live = (wokenIf t w).live).symm
    · rw [h.fixed.cur]; exact hne f t hmonitor

end Sys2Proof.Claims
end

section
/-! SUPPORT. Orders, fences, and operations on lines (R115, R148, R290). -/

namespace Sys2Proof.Claims

open Sys2Proof.Machine

/-! ## Releases and acquires -/

theorem keeps2_id : Keeps2 fun s => s := fun _ _ _ _ _ h => h

theorem keeps2_ite (c : Prop) [Decidable c] {f g : State → State} (hf : Keeps2 f) (hg : Keeps2 g) : Keeps2 fun s => if c then f s else g s := by
  by_cases hc : c
  · simpa only [if_pos hc] using hf
  · simpa only [if_neg hc] using hg

/-- An operation on the core of the current strand. -/
theorem keeps2_ofCore {f : Nat → State → State} (h : ∀ c, Keeps2 (f c)) : Keeps2 fun s => f (coreOf s.cur) s :=
  keeps2_of (fun s => coreOf s.cur) (fun _ _ => rfl) h

theorem keeps2_released (ord scope : Nat) : Keeps2 fun s => released s ord scope :=
  keeps2_ite _ (keeps2_ofCore (f := fun c s => s.releaseCore c) keeps2_releaseCore) keeps2_id

theorem keeps2_acquired (ord scope : Nat) : Keeps2 fun s => acquired s ord scope :=
  keeps2_ite _ (keeps2_ite _ (keeps2_ofCore (f := fun c s => s.acquireCore c) keeps2_acquireCore)
    (keeps2_ofCore (f := fun c s => s.refetch c) keeps2_refetch)) keeps2_id

theorem releaseAt_run (scope : Nat) (s : State) : releaseAt scope s = .ok () (if 2 ≤ scope then s.releaseCore (coreOf s.cur) else s) := by
  refine (M.bind_ok (M.get_run s)).trans ?_
  by_cases h : 2 ≤ scope
  · simp only [ge_iff_le, if_pos h]; rfl
  · simp only [ge_iff_le, if_neg h]; rfl

theorem acquireAt_run (scope : Nat) (s : State) : acquireAt scope s = .ok () (acquired s 1 scope) := rfl

theorem ordRelease_run (ord scope : Nat) (s : State) : ordRelease ord scope s = .ok () (released s ord scope) := by
  unfold ordRelease released
  by_cases h : ord = 2 ∨ ord = 3
  · rw [if_pos (by simpa using h), releaseAt_run]
    simp only [h, true_and]
  · rw [if_neg (by simpa using h), if_neg fun hc => h hc.1]
    rfl

theorem ordAcquire_run (ord scope : Nat) (s : State) : ordAcquire ord scope s = .ok () (acquired s ord scope) := by
  unfold ordAcquire acquired
  by_cases h : ord = 1 ∨ ord = 3
  · rw [if_pos (by simpa using h), acquireAt_run, if_pos h]
    rfl
  · rw [if_neg (by simpa using h), if_neg h]
    rfl

/-! ## What an instruction on memory leads to -/

section
variable {i : Instr} {s u v : State} {d : Desc} {body : M Unit}
variable (hx : exec i s = runOp d body s) (hl : d.steer ≠ .lanes) (hc : s.self.Clear d.regs)
variable (hb : body (s.withSelf (s.self.begun d)) = .ok () v)
include hx hl hc hb

/-- An operation leads to the twin of its outcome. -/
theorem leads_of_twin {t r : Strand} (h : Twin s t r u v) (hstill : r.still = t.still) (hregs : r.regs = t.regs)
    (hapart : r.apart = s.self.apart) (hn : r.instret = s.self.instret) (hpcc : r.pcc = s.self.pcc) (hir : r.ir = s.self.ir) : Leads i s u := by
  obtain ⟨w, -, hv⟩ := h.woken
  obtain ⟨-, -, htogether, -⟩ := id hc
  refine leads_of_runWith (body := do body; pure .next) hx hl rfl hc (M.bind_ok hb) (h.sameAs hstill hregs) ?_ ?_ ?_ ?_ <;> rw [hv]
  · exact hapart.trans htogether
  · exact hn
  · exact hpcc
  · exact hir

theorem leads_of_twin_begun (h : Twin s s.self (s.self.begun d) u v) : Leads i s u :=
  leads_of_twin hx hl hc hb h rfl rfl rfl rfl rfl rfl

end

end Sys2Proof.Claims
end

section
/-! SUPPORT. Predicates that an action keeps, however it ends. -/

namespace Sys2Proof.Claims

open Sys2Proof.Machine

/-- The state that an action leaves, whether it completes or not. -/
def leftBy {α : Type} (m : M α) (s : State) : State :=
  match m s with
  | .ok _ t => t
  | .error _ t => t

/-- The action keeps a predicate of the state. -/
structure Always {α : Type} (P : State → Prop) (m : M α) : Prop where
  run : ∀ s, P s → P (leftBy m s)

namespace Always

variable {α β : Type} {P : State → Prop}

theorem of_ok {m : M α} (h : Always P m) {s t : State} {a : α} (hm : m s = .ok a t) (hs : P s) : P t := by
  have := h.run s hs
  rwa [leftBy, hm] at this

theorem of_error {m : M α} (h : Always P m) {s t : State} {e : Exc} (hm : m s = .error e t) (hs : P s) : P t := by
  have := h.run s hs
  rwa [leftBy, hm] at this

theorem pure (a : α) : Always P (pure a : M α) := ⟨fun _ h => h⟩
theorem throw (e : Exc) : Always P (throw e : M α) := ⟨fun _ h => h⟩
theorem raise (c : BitVec 8) (v : Nat) : Always P (raise c v : M α) := ⟨fun _ h => h⟩

theorem raiseIf (b : Bool) (c : BitVec 8) (v : Nat) : Always P (raiseIf b c v) := by
  cases b
  · exact pure ()
  · exact raise c v

theorem modify {f : State → State} (hf : ∀ s, P s → P (f s)) : Always P (modify f : M PUnit) := ⟨hf⟩

theorem set {s : State} (h : P s) : Always P (set s : M PUnit) := ⟨fun _ _ => h⟩

theorem bind {m : M α} {f : α → M β} (hm : Always P m) (hf : ∀ a, Always P (f a)) : Always P (m >>= f) := by
  refine ⟨fun s h => ?_⟩
  unfold leftBy
  simp only [Bind.bind, EStateM.bind]
  cases hms : m s with
  | ok a t => exact (hf a).run t (hm.of_ok hms h)
  | error e t => exact hm.of_error hms h

/-- An action after a read of the state. -/
theorem get_bind {f : State → M β} (hf : ∀ s, P s → Always P (f s)) : Always P ((MonadState.get : M State) >>= f) :=
  ⟨fun s h => (hf s h).run s h⟩

theorem ite {c : Prop} [Decidable c] {m n : M α} (hm : Always P m) (hn : Always P n) : Always P (if c then m else n) := by
  split
  · exact hm
  · exact hn

/-- A check that raises, or else goes on. -/
theorem guard {c : Prop} [Decidable c] {code : BitVec 8} {v : Nat} {k : α → M β} {m : M β} (hm : Always P m) :
    Always P (if c then Machine.raise code v >>= k else m) := ite ⟨fun _ h => h⟩ hm

theorem forIn {l : List α} {b : β} {f : α → β → M (ForInStep β)} (hf : ∀ a b, Always P (f a b)) : Always P (forIn l b f) := by
  induction l generalizing b with
  | nil => exact pure b
  | cons a l ih =>
    rw [List.forIn_cons]
    refine (hf a b).bind fun step => ?_
    cases step with
    | done b => exact pure b
    | yield b => exact ih

theorem mapM {l : List α} {f : α → M β} (hf : ∀ a, Always P (f a)) : Always P (l.mapM f) := by
  induction l with
  | nil => rw [List.mapM_nil]; exact pure []
  | cons a l ih =>
    rw [List.mapM_cons]
    exact (hf a).bind fun _ => ih.bind fun _ => pure _

/-- What fails under `attempt` is undone, but for what the controller has counted. -/
theorem attempt {m : M α} (hundo : ∀ s t, P s → P (s.undo t)) (hm : Always P m) : Always P (attempt m) := by
  refine ⟨fun s h => ?_⟩
  simp only [leftBy, Machine.attempt]
  cases hms : m s with
  | ok a t => exact hm.of_ok hms h
  | error e t => exact hundo s t h

end Always

end Sys2Proof.Claims
end

section
/-! SUPPORT. Fences, and operations on lines (R115, R290). -/

namespace Sys2Proof.Claims

open Sys2Proof.Machine

theorem Twin.refl (s : State) : Twin s s.self s.self s s :=
  ⟨.refl s, rfl, fun _ _ => rfl, ⟨false, by simp [wokenIf], by simp [wokenIf]⟩, rfl, fun _ _ => .rfl⟩

theorem Keeps2.fixed {f : State → State} (h : Keeps2 f) (s : State) : Fixed s (f s) := (h (Twin.refl s)).fixed

/-! ## Fences -/

section
variable (o : OpN) (m : MemMod) {s : State} (h : Together s)
include h

theorem fenceAcq_leads : Leads (.fenceAcq o m) s (acquired s 1 m.scope.toNat) :=
  leads_of_twin_begun (d := ⟨o.st, 0, .joint, []⟩) rfl Steer.noConfusion h.clear (acquireAt_run ..)
    (keeps2_acquired 1 m.scope.toNat (.begun ..))

/-- The write-back of a release at a scope. -/
def releasedAt (scope : Nat) (s : State) : State := if 2 ≤ scope then s.releaseCore (coreOf s.cur) else s

theorem fenceRel_leads : Leads (.fenceRel o m) s (releasedAt m.scope.toNat s) :=
  leads_of_twin_begun (d := ⟨o.st, 0, .joint, []⟩) rfl Steer.noConfusion h.clear (releaseAt_run ..)
    (keeps2_ite _ (keeps2_ofCore (f := fun c s => s.releaseCore c) keeps2_releaseCore) keeps2_id (.begun ..))

theorem fenceAr_leads : Leads (.fenceAr o m) s (acquired (releasedAt m.scope.toNat s) 1 m.scope.toNat) :=
  leads_of_twin_begun (d := ⟨o.st, 0, .joint, []⟩) rfl Steer.noConfusion h.clear (M.bind_ok (releaseAt_run ..))
    (((keeps2_ite _ (keeps2_ofCore (f := fun c s => s.releaseCore c) keeps2_releaseCore) keeps2_id).comp
      (keeps2_acquired 1 m.scope.toNat)) (.begun ..))

end

/-! ## `wb` and `inv` -/

/-- What `wb` or `inv` does with a line. -/
def flushed (drop : Bool) (s : State) (core line : Nat) : State := if drop then s.leaveLine core line else s.writeBackLine core line

theorem keeps2_flushed (drop : Bool) (core line : Nat) : Keeps2 fun s => flushed drop s core line := by
  cases drop
  · exact keeps2_writeBackLine core line
  · exact keeps2_leaveLine core line

/-- A loop over lines of the current strand's core, each of this package. -/
theorem forIn_flushed {drop : Bool} {l : List (Nat × Nat)} {at_ : Nat → Nat} {pkg cur : Nat} (hpkg : ∀ q ∈ l, pkgOf (at_ q.1) = pkg)
    {f : Nat × Nat → PUnit → M (ForInStep PUnit)}
    (hf : ∀ q ∈ l, ∀ u : State, f q ⟨⟩ u = if pkgOf (at_ q.1) = u.pkg
      then .ok (.yield ⟨⟩) (flushed drop u (coreOf u.cur) (localOf (at_ q.1) / 128)) else .ok (.yield ⟨⟩) u)
    {v : State} (hv : v.pkg = pkg) (hcur : v.cur = cur) :
    forIn l ⟨⟩ f v = .ok ⟨⟩ (l.foldl (fun u q => flushed drop u (coreOf cur) (localOf (at_ q.1) / 128)) v) := by
  induction l generalizing v with
  | nil => rfl
  | cons q l ih =>
    rw [List.forIn_cons]
    have hstep : f q ⟨⟩ v = .ok (.yield ⟨⟩) (flushed drop v (coreOf cur) (localOf (at_ q.1) / 128)) := by
      rw [hf q (by simp), if_pos ((hpkg q (by simp)).trans hv.symm), hcur]
    have hfixed := (keeps2_flushed drop (coreOf cur) (localOf (at_ q.1) / 128)).fixed v
    rw [M.bind_ok hstep]
    exact ih (fun q hq => hpkg q (by simp [hq])) (fun q hq => hf q (by simp [hq])) (hfixed.pkg.trans hv) (hfixed.cur.trans hcur)

/-- A range within one page is one piece. -/
theorem translateRange_page {s v : State} (hcur : v.cur = s.cur) (htlb : v.tlb = s.tlb) {tenant : BitVec 12} {va l p : Nat} {e : Word}
    (hl : 0 < l) (hpage : va / 65536 = (va + l - 1) / 65536) {perm : BitVec 12} (hm : Maps s tenant va perm p e) :
    translateRange tenant va l perm v = .ok [(va, l, p, e)] v := by
  have hfuel : (va % 65536 + l + 65535) / 65536 = 1 := by omega
  have hnext : min (va + l) ((va / 65536 + 1) * 65536) = va + l := by omega
  unfold translateRange
  rw [hfuel]
  unfold translatePages
  rw [if_neg (by omega)]
  dsimp only
  rw [M.bind_ok (translate_run hcur htlb hm), hnext]
  simp only [translatePages, pure_bind, Nat.add_sub_cancel_left]
  rfl

/-- The parts of a range lie in it. -/
theorem lineParts_mem {a n : Nat} {q : Nat × Nat} (hn : 0 < n) (h : q ∈ lineParts a n) : a ≤ q.1 ∧ q.1 < a + n := by
  simp only [lineParts, List.mem_map, List.mem_range] at h
  obtain ⟨i, hi, rfl⟩ := h
  constructor
  · exact Nat.le_max_left ..
  · dsimp only; omega

theorem pieceAt_page {va l p q : Nat} {e : Word} (h : va ≤ q ∧ q < va + l) : pieceAt [(va, l, p, e)] q = (p + (q - va), e) := by
  simp [pieceAt, h]

/-- The registers of an operation on lines. -/
theorem flush_clear {o : OpRX} {s : State} (h : Issues s [o.a, o.b]) : s.self.Clear [wSrc o.a, wSrc o.b] := h.clear (by simp [wSrc])

/-- `wb` and `inv` behind their reads. -/
def flushRange (c : Reg) (l : Word) (drop : Bool) : M Unit :=
  if l = 0 then pure ()
  else do
    raiseIf (l.toNat > 65536) cBounds (Cap.cursor c.val)
    checkCap c Cap.ld [Cap.kMemory] l.toNat
    let ps ← translateRange (Cap.tenant c.val) (Cap.cursor c.val) l.toNat Cap.ld
    for q in lineParts (Cap.cursor c.val) l.toNat do
      let (p, _) := pieceAt ps q.1
      let s ← get
      if pkgOf p = s.pkg then
        let core := coreOf s.cur
        set (if drop then s.leaveLine core (localOf p / 128) else s.writeBackLine core (localOf p / 128))
      else pure ()

section
variable {o : OpRX} {s : State} (drop : Bool) (h : Issues s [o.a, o.b])
include h

theorem flushLines_eq : ∃ body, flushLines o drop s = runOp ⟨o.st, 0, .access, [wSrc o.a, wSrc o.b]⟩ body s ∧
    ∀ u, SameReads u.self s.self → body u = flushRange (at2 s o) (x s o.a) drop u := by
  refine ⟨_, rfl, fun u hu => ?_⟩
  rw [M.bind_ok (h.readX_same hu 0 (by simp)), M.bind_ok (addressRX_run h hu 1)]
  rfl

variable {i : Instr} (hx : exec i s = flushLines o drop s)
include hx

theorem flush_none (hl : (x s o.a).toNat = 0) : Leads i s s := by
  obtain ⟨body, hbody, hrun⟩ := flushLines_eq drop h
  refine leads_of_twin_begun (hx.trans hbody) Steer.noConfusion (flush_clear h) ?_ (.begun ..)
  rw [hrun _ (by rw [State.self_withSelf]; exact .begun ..), flushRange, if_pos (BitVec.eq_of_toNat_eq hl)]
  rfl

theorem flush_long (hl : 65536 < (x s o.a).toNat) : Traps i s cBounds (Cap.cursor (at2 s o).val) := by
  obtain ⟨body, hbody, hrun⟩ := flushLines_eq drop h
  refine traps_of_runOp (hx.trans hbody) Steer.noConfusion (flush_clear h) ?_ (by decide)
  have hne : x s o.a ≠ 0 := fun h0 => by rw [h0] at hl; exact absurd hl (by decide)
  rw [hrun _ (by rw [State.self_withSelf]; exact .begun ..), flushRange, if_neg hne]
  exact M.bind_error (raiseIf_of (by simpa using hl) ..)

section
variable (hpos : 0 < (x s o.a).toNat) (hl : (x s o.a).toNat ≤ 65536)
include hpos hl

theorem flush_fault {f : BitVec 8} (hf : checkFault s (at2 s o) Cap.ld [Cap.kMemory] (x s o.a).toNat = some f) :
    Traps i s f (Cap.cursor (at2 s o).val) := by
  obtain ⟨body, hbody, hrun⟩ := flushLines_eq drop h
  refine traps_of_runOp (hx.trans hbody) Steer.noConfusion (flush_clear h) ?_ (checkFault_ne_syscall hf)
  have hne : x s o.a ≠ 0 := fun h0 => by rw [h0] at hpos; exact absurd hpos (by decide)
  rw [hrun _ (by rw [State.self_withSelf]; exact .begun ..), flushRange, if_neg hne,
    M.bind_ok (raiseIf_of_not (by simpa using hl) ..)]
  refine M.bind_error ?_
  rw [checkCap_run (s := s) (by rw [State.self_withSelf]; rfl), checkOutcome, hf]

theorem flush_range (hf : checkFault s (at2 s o) Cap.ld [Cap.kMemory] (x s o.a).toNat = none)
    (hpage : Cap.cursor (at2 s o).val / 65536 = (Cap.cursor (at2 s o).val + (x s o.a).toNat - 1) / 65536) {p : Nat} {e : Word}
    (hm : Maps s (Cap.tenant (at2 s o).val) (Cap.cursor (at2 s o).val) Cap.ld p e) (hpkg : ∀ i < (x s o.a).toNat, pkgOf (p + i) = s.pkg) :
    Leads i s ((lineParts (Cap.cursor (at2 s o).val) (x s o.a).toNat).foldl (fun u q =>
      flushed drop u (coreOf s.cur) (localOf (p + (q.1 - Cap.cursor (at2 s o).val)) / 128)) s) := by
  obtain ⟨body, hbody, hrun⟩ := flushLines_eq drop h
  refine leads_of_twin_begun (hx.trans hbody) Steer.noConfusion (flush_clear h) ?_
    (keeps2_foldl (f := fun u (q : Nat × Nat) => flushed drop u (coreOf s.cur) (localOf (p + (q.1 - Cap.cursor (at2 s o).val)) / 128))
      (fun q => keeps2_flushed drop _ _) _ (.begun ..))
  have hne : x s o.a ≠ 0 := fun h0 => by rw [h0] at hpos; exact absurd hpos (by decide)
  rw [hrun _ (by rw [State.self_withSelf]; exact .begun ..), flushRange, if_neg hne,
    M.bind_ok (raiseIf_of_not (by simpa using hl) ..),
    M.bind_ok (t := s.withSelf (s.self.begun _)) (a := ()) (by rw [checkCap_run (s := s) (by rw [State.self_withSelf]; rfl), checkOutcome, hf]),
    M.bind_ok (translateRange_page (s := s) (v := s.withSelf (s.self.begun _)) rfl rfl hpos hpage hm)]
  refine M.bind_ok (forIn_flushed (at_ := fun q => p + (q - Cap.cursor (at2 s o).val)) (fun q hq => ?_) (fun q hq u => ?_) rfl rfl)
  · have hmem := lineParts_mem hpos hq
    exact hpkg _ (by omega)
  · rw [pieceAt_page (lineParts_mem hpos hq)]
    dsimp only
    by_cases hu : pkgOf (p + (q.1 - Cap.cursor (at2 s o).val)) = u.pkg
    · rw [if_pos hu]
      refine (M.bind_ok (M.get_run u)).trans ?_
      rw [if_pos hu]
      rfl
    · rw [if_neg hu]
      refine (M.bind_ok (M.get_run u)).trans ?_
      rw [if_neg hu]
      rfl

end
end

/-! ## `pf` -/

/-- A line with the sectors of a range fetched from the homes. -/
def withSectors (s : State) (a n : Nat) (l : L1Line) : L1Line :=
  (List.range 4).foldl (fun l i =>
    if (i * 32 + 32 ≤ a % 128 || a % 128 + n ≤ i * 32) || l.valid.getLsbD i then l
    else
      let b := a / 128 * 128 + i * 32
      { l with
        bytes := overwrite l.bytes (i * 32) (s.bytesAt b 32)
        valid := l.valid ||| BitVec.ofNat 4 (2 ^ i)
        tags := (List.range 2).foldl (fun t g =>
          if s.tagAt (b + 16 * g) then t ||| BitVec.ofNat 8 (2 ^ (2 * i + g))
          else t &&& ~~~ (BitVec.ofNat 8 (2 ^ (2 * i + g)))) l.tags }) l

/-- The L1 of a core once it holds the sectors of a range that lies in one line. -/
def withLine (s : State) (core a n : Nat) : CoreState :=
  let c := s.core core
  let l := lookupD L1Line.empty c.lines (a / 128)
  let l := if l.valid = 0 then { L1Line.empty with bytes := List.replicate 128 0 } else l
  { c with lines := storeAt L1Line.empty (a / 128) (withSectors s a n l) c.lines }

/-- The state in which a line has room and what the L1 does not hold is counted. -/
def missed (s : State) (core a n : Nat) : State :=
  let s := (s.recall (a / 128)).l1Room core (a / 128)
  if (lookupD L1Line.empty (s.core core).lines (a / 128)).covers (a % 128) n then s else s.countCore core 3 1

theorem fillLine_run (core a n : Nat) (s : State) : fillLine core a n s =
    .ok () ((missed s core a n).withCore core (withLine (missed s core a n) core a n)) := rfl

/-- The current strand is a given one, woken or not. -/
def Calm (n : Nat) (t : Strand) (u : State) : Prop := u.cur = n ∧ ∃ w, u.self = wokenIf t w

theorem Keeps2.calm {f : State → State} (h : Keeps2 f) {n : Nat} {t : Strand} {u : State} (hu : Calm n t u) : Calm n t (f u) := by
  obtain ⟨hcur, w, hself⟩ := hu
  obtain ⟨w', hw', -⟩ := (h (Twin.refl u)).woken
  exact ⟨(h.fixed u).cur.trans hcur, w || w', by rw [hw', hself, wokenIf_wokenIf]⟩

theorem Calm.undo {n : Nat} {t : Strand} {u : State} (v : State) (h : Calm n t u) : Calm n t (u.undo v) := h

section
variable {n : Nat} {t : Strand}

theorem always_calm_homeRead (a k : Nat) : Always (Calm n t) (homeRead a k) := ⟨fun _ h => (keeps2_recallRange a k).calm h⟩

theorem always_calm_readPte (a va : Nat) : Always (Calm n t) (readPte a va) :=
  .get_bind fun _ h => .ite (.bind (.set h) fun _ => .raise ..) (.bind (always_calm_homeRead ..) fun _ => .pure _)

theorem always_calm_walk (tenant : BitVec 12) (a : Nat) : Always (Calm n t) (walk tenant a) := by
  unfold walk
  refine .get_bind fun s _ => .guard (.bind (always_calm_readPte _ a) fun e0 => .guard (.bind (always_calm_readPte _ a) fun e1 =>
    .guard ?_))
  refine .ite (.guard ?_) (.guard (.bind (always_calm_readPte _ a) fun e2 => .guard ?_))
  all_goals exact .bind (.pure _) fun ⟨e, level, ea⟩ => .guard (.guard (.guard (.pure (e, level, ea))))

theorem always_calm_fillTlb (group : Nat) (tenant : BitVec 12) (a : Nat) (e : TlbEntry) : Always (Calm n t) (fillTlb group tenant a e) :=
  .modify fun s h => by dsimp only; split <;> exact h

theorem always_calm_tlbEntryFor (group : Nat) (tenant : BitVec 12) (a : Nat) : Always (Calm n t) (tlbEntryFor group tenant a) := by
  unfold tlbEntryFor
  refine .get_bind fun s h => .ite (.pure _) (.ite (.bind (.set h) fun _ => .pure _) ?_)
  exact .bind (.set h) fun _ => .bind (always_calm_walk tenant a) fun ⟨pte, level, _⟩ =>
    .bind (always_calm_fillTlb _ tenant a _) fun _ => .pure _

/-- A translation for a load, which sets no dirty bit. -/
theorem always_calm_translate_ld (tenant : BitVec 12) (a : Nat) : Always (Calm n t) (translate tenant a Cap.ld) :=
  .get_bind fun _ _ => .bind (always_calm_tlbEntryFor ..) fun _ => .guard (.bind (.pure _) fun _ => .pure _)

theorem always_calm_checkCapAs (id : Identity) (c : Reg) (perm : BitVec 12) (kinds : List Nat) (k : Nat) :
    Always (Calm n t) (checkCapAs id c perm kinds k) :=
  .bind (.bind (.raiseIf ..) fun _ => .bind (.raiseIf ..) fun _ => .bind (.raiseIf ..) fun _ => .raiseIf ..) fun _ =>
    .bind (.raiseIf ..) fun _ => .raiseIf ..

theorem always_calm_checkSectors (va a k : Nat) : Always (Calm n t) (checkSectors va a k) := by
  refine ⟨fun s h => ?_⟩
  simp only [leftBy, checkSectors]
  cases s.firstBad a k <;> exact h

theorem Calm.countCore {u : State} (core code k : Nat) (h : Calm n t u) : Calm n t (u.countCore core code k) := h

theorem Calm.withCore {u : State} (core : Nat) (c : CoreState) (h : Calm n t u) : Calm n t (u.withCore core c) := h

theorem always_calm_fillLine (core a k : Nat) : Always (Calm n t) (fillLine core a k) := by
  refine ⟨fun s h => ?_⟩
  have hroom : Calm n t ((s.recall (a / 128)).l1Room core (a / 128)) := ((keeps2_recall (a / 128)).comp (keeps2_l1Room core (a / 128))).calm h
  rw [leftBy, fillLine_run]
  refine Calm.withCore _ _ ?_
  unfold missed
  dsimp only
  split
  · exact hroom
  · exact hroom.countCore ..

theorem always_calm_prefetchLines (c : Reg) (l : List (Nat × Nat)) : Always (Calm n t) (prefetchLines c l) := by
  induction l with
  | nil => exact .pure _
  | cons q l ih =>
    unfold prefetchLines
    refine .bind (.attempt (fun _ v h => h.undo v) ?_) fun r => ?_
    · refine .bind ?_ fun _ => .bind (.raiseIf ..) fun _ => .bind (always_calm_translate_ld ..) fun ⟨p, e⟩ => .get_bind fun _ _ =>
        .ite (.bind (always_calm_checkSectors ..) fun _ => always_calm_fillLine ..) (.pure _)
      exact .bind ⟨fun _ h => h⟩ fun _ => always_calm_checkCapAs ..
    · cases r with
      | ok _ => exact ih
      | error _ => exact .pure _

/-- A prefetch raises nothing. -/
theorem prefetchLines_completes (c : Reg) (l : List (Nat × Nat)) (s : State) : ∃ u, prefetchLines c l s = .ok () u := by
  induction l generalizing s with
  | nil => exact ⟨s, rfl⟩
  | cons q l ih =>
    unfold prefetchLines
    have hattempt {α : Type} (m : M α) : ∃ r u, attempt m s = .ok r u := by
      cases h : m s with
      | ok a u => exact ⟨_, _, attempt_ok h⟩
      | error e u => exact ⟨_, _, attempt_error h⟩
    obtain ⟨r, u, hr⟩ := hattempt (do
      checkCap c Cap.ld [Cap.kMemory] 0
      raiseIf ((q.1 : Int) + q.2 > Cap.top c.val) cBounds q.1
      let (p, e) ← translate (Cap.tenant c.val) q.1 Cap.ld
      let s ← get
      if s.mayCache p e then do
        let line := localOf p / 128 * 128
        checkSectors q.1 line 128
        fillLine (coreOf s.cur) line 128
      else pure ())
    cases r with
    | ok _ => exact (ih u).imp fun v hv => (M.bind_ok hr).trans hv
    | error _ => exact ⟨u, M.bind_ok hr⟩

end

section
variable {o : OpRX} (m : MemMod) {s : State} (h : Issues s [o.a, o.b])
include h

/-- `pf` behind its reads. -/
theorem pf_eq : ∃ body, exec (.pf o m) s = runOp ⟨o.st, 0, .access, [wSrc o.a, wSrc o.b]⟩ body s ∧
    ∀ u, SameReads u.self s.self → body u = (if m.scope = 1 && x s o.a ≠ 0 then
      prefetchLines (at2 s o) (lineParts (Cap.cursor (at2 s o).val) (min (x s o.a).toNat 65536)) else pure ()) u := by
  refine ⟨_, rfl, fun u hu => ?_⟩
  rw [M.bind_ok (h.readX_same hu 0 (by simp)), M.bind_ok (addressRX_run h hu 1)]

theorem pf_idle (hno : m.scope ≠ 1 ∨ (x s o.a).toNat = 0) : Leads (.pf o m) s s := by
  obtain ⟨body, hbody, hrun⟩ := pf_eq m h
  refine leads_of_twin_begun hbody Steer.noConfusion (flush_clear h) ?_ (.begun ..)
  have hcond : ¬(decide (m.scope = 1) && decide (x s o.a ≠ 0)) = true := by
    simp only [Bool.and_eq_true, decide_eq_true_eq]
    exact fun ⟨h1, h0⟩ => hno.elim (fun hs => hs h1) fun hl => h0 (BitVec.eq_of_toNat_eq hl)
  rw [hrun _ (by rw [State.self_withSelf]; exact .begun ..), if_neg hcond]
  rfl

theorem pf_completes : ∃ t, exec (.pf o m) s = .next t ∧ t.self.pcc = s.self.pccAt s.self.npc ∧ (∀ p, t.self.phys p = s.self.phys p) := by
  obtain ⟨body, hbody, hrun⟩ := pf_eq m h
  let v := s.withSelf (s.self.begun ⟨o.st, 0, .access, [wSrc o.a, wSrc o.b]⟩)
  have hreads : SameReads v.self s.self := by rw [State.self_withSelf]; exact .begun ..
  obtain ⟨u, hu, hcalm⟩ : ∃ u, body v = .ok () u ∧ Calm s.cur v.self u := by
    have hv : Calm s.cur v.self v := ⟨rfl, false, by simp [wokenIf]⟩
    rw [hrun v hreads]
    split
    · obtain ⟨u, hu⟩ := prefetchLines_completes (at2 s o) (lineParts (Cap.cursor (at2 s o).val) (min (x s o.a).toNat 65536)) v
      exact ⟨u, hu, (always_calm_prefetchLines ..).of_ok hu hv⟩
    · exact ⟨v, rfl, hv⟩
  obtain ⟨-, w, hself⟩ := hcalm
  rw [State.self_withSelf] at hself
  obtain ⟨-, -, htogether, -⟩ := flush_clear h
  have hapart : u.self.apart = none := by rw [hself]; exact htogether
  refine ⟨_, hbody.trans (runOp_ok Steer.noConfusion (flush_clear h) hu), ?_, fun p => ?_⟩ <;> rw [State.self_commit_next _ _ _ hapart, hself]
  · rw [Strand.complete_pcc]; rfl
  · rw [Strand.complete_phys]; rfl

end

/-- Settles O27: what an instruction does with lines reaches the state of the statement and the one it runs in alike. -/
theorem fencesAndLineOps : Obligations.FencesAndLineOps := by
  refine ⟨fun o m s h => ⟨?_, fenceRel_leads o m h, ?_⟩, fun o m s h => ⟨fun hl => ?_, fun hl => ?_, fun f hpos hl hf => ?_,
    fun p e hpos hl hf hpage hm hpkg => ?_, fun hs => pf_idle m h (.inl hs), pf_completes m h⟩⟩
  · exact fenceAcq_leads o m h
  · have hlead := fenceAr_leads o m h
    by_cases hfar : 2 ≤ m.scope.toNat
    · have hcur : (s.releaseCore (coreOf s.cur)).cur = s.cur := ((keeps2_releaseCore _).fixed s).cur
      simpa only [releasedAt, acquired, if_pos hfar, hcur, true_or, if_true] using hlead
    · simpa only [releasedAt, acquired, if_neg hfar, true_or, if_true] using hlead
  · exact ⟨flush_none false h rfl hl, flush_none true h rfl hl, pf_idle m h (.inr hl)⟩
  · exact ⟨flush_long false h rfl hl, flush_long true h rfl hl⟩
  · exact ⟨flush_fault false h rfl hpos hl hf, flush_fault true h rfl hpos hl hf⟩
  · exact ⟨flush_range false h rfl hpos hl hf hpage hm hpkg, flush_range true h rfl hpos hl hf hpage hm hpkg⟩

end Sys2Proof.Claims
end

section
/-! SUPPORT. Operations at the home of their bytes (R112 to R118, R277). -/

namespace Sys2Proof.Claims

open Sys2Proof.Machine

/-! ## What twins show alike -/

section
variable {s : State} {t r : Strand} {u v : State} (h : Twin s t r u v)
include h

theorem Twin.bytesAt (a n : Nat) : v.bytesAt a n = u.bytesAt a n := by rw [h.rest]; rfl
theorem Twin.tagAt (a : Nat) : v.tagAt a = u.tagAt a := by rw [h.rest]; rfl
theorem Twin.badAt (a : Nat) : v.badAt a = u.badAt a := by rw [h.rest]; rfl
theorem Twin.firstBad (a n : Nat) : v.firstBad a n = u.firstBad a n := by rw [h.rest]; rfl
theorem Twin.core (c : Nat) : v.core c = u.core c := by rw [h.rest]; rfl
theorem Twin.viewBytes (c a n : Nat) : v.viewBytes c a n = u.viewBytes c a n := by rw [h.rest]; rfl
theorem Twin.noPartials (hu : NoPartials u) : NoPartials v := fun n => by rw [h.rest]; exact hu n
theorem Twin.pkg : v.pkg = s.pkg := by rw [h.rest]; exact h.fixed.pkg
theorem Twin.units : v.units = u.units := by rw [h.rest]

theorem Twin.putW (n : Nat) (x : Reg) : Twin s (t.putW n x) (r.putW n x) (u.withSelf (u.self.putW n x)) (v.withSelf (v.self.putW n x)) :=
  h.withSelf (f := fun t => t.putW n x) (g := fun t => t.putW n x) (fun _ => rfl) (fun _ => rfl) rfl rfl rfl rfl

end

/-- An operation that ends with a write of one register. -/
theorem leads_of_twin_putW {i : Instr} {s u v : State} {d : Desc} {body : M Unit} {n : Nat} {x : Reg} (hx : exec i s = runOp d body s)
    (hl : d.steer ≠ .lanes) (hc : s.self.Clear d.regs)
    (hb : body (s.withSelf (s.self.begun d)) = .ok () (v.withSelf (v.self.putW n x))) (h : Twin s s.self (s.self.begun d) u v) :
    Leads i s (u.withSelf (u.self.putW n x)) :=
  leads_of_twin hx hl hc hb (h.putW n x) rfl rfl rfl rfl rfl rfl

/-! ## The access -/

theorem checkAccess_run {s v : State} (hid : v.self.identity = s.self.identity) (hcur : v.cur = s.cur) (htlb : v.tlb = s.tlb) {c : Reg}
    {perm : BitVec 12} {kinds : List Nat} {n p : Nat} {e : Word} (hf : checkFault s c perm kinds n = none)
    (hm : Maps s (Cap.tenant c.val) (Cap.cursor c.val) perm p e) : checkAccess c perm kinds n v = .ok (p, e) v := by
  refine (M.bind_ok (a := ()) ?_).trans (translate_run hcur htlb hm)
  rw [checkCap_run hid, checkOutcome, hf]

/-- A leaf keeps an address's place within its page. -/
theorem leafAddr_mod (e : TlbEntry) (va : Nat) : leafAddr e va % 65536 = va % 65536 := by
  unfold leafAddr ptePa
  split <;> omega

theorem localOf_mod (p : Nat) : localOf p % 65536 = p % 65536 := by unfold localOf; omega

theorem Maps.aligned {s : State} {tenant : BitVec 12} {va p : Nat} {perm : BitVec 12} {e : Word} (h : Maps s tenant va perm p e) :
    localOf p % 65536 = va % 65536 := by
  obtain ⟨t, -, -, rfl, -, -⟩ := h
  rw [localOf_mod, leafAddr_mod]

theorem aligned_of_checkFault {s : State} {c : Reg} {perm : BitVec 12} {kinds : List Nat} {n : Nat}
    (h : checkFault s c perm kinds n = none) (hn : n = 1 ∨ n = 2 ∨ n = 4 ∨ n = 8 ∨ n = 16) : Cap.cursor c.val % n = 0 := by
  unfold checkFault at h
  dsimp only at h
  split_ifs at h with h1 h2 h3 h4 h5
  rcases hn with rfl | hn
  · exact Nat.mod_one _
  · by_contra hne
    exact h5 ⟨hn, hne⟩

/-- Bytes at their natural alignment lie in one line. -/
theorem lineParts_aligned {a n : Nat} (hn : n = 1 ∨ n = 2 ∨ n = 4 ∨ n = 8 ∨ n = 16) (ha : a % n = 0) : lineParts a n = [(a, n)] := by
  have hcount : (a % 128 + n + 127) / 128 = 1 := by rcases hn with rfl | rfl | rfl | rfl | rfl <;> omega
  have hin : a % 128 + n ≤ 128 := by rcases hn with rfl | rfl | rfl | rfl | rfl <;> omega
  unfold lineParts
  rw [hcount]
  simp only [List.range_one, List.map_cons, List.map_nil]
  congr 2
  · omega
  · omega

/-- The address of an access that opens, and its alignment. -/
theorem Opens.place {s : State} {c : Reg} {perm : BitVec 12} {k a : Nat} {e : Word} (h : Opens s c perm k a e)
    (hk : k = 1 ∨ k = 2 ∨ k = 4 ∨ k = 8 ∨ k = 16) : ∃ p, (∀ v : State, v.self.identity = s.self.identity → v.cur = s.cur → v.tlb = s.tlb →
      checkAccess c perm [Cap.kMemory] k v = .ok (p, e) v) ∧ pkgOf p = s.pkg ∧ localOf p = a ∧ pteM e = false ∧ a % k = 0 := by
  obtain ⟨hf, p, hm, hpkg, rfl, he⟩ := h
  refine ⟨p, fun v hid hcur htlb => checkAccess_run hid hcur htlb hf hm, hpkg, rfl, he, ?_⟩
  have hmod := hm.aligned
  have halign := aligned_of_checkFault hf hk
  rcases hk with rfl | rfl | rfl | rfl | rfl <;> omega

/-! ## Atomics and futures at their home -/

/-- Places that take atomics and futures of the current strand without a memory port. -/
def AtHome (s : State) (a : Nat) : Prop := cacheable a ∨ DirectOwn s a

theorem place_atHome {s : State} {a : Nat} (h : AtHome s a) : place a = .dram ∨ (∃ d, place a = .dieSpad d) ∨
    (∃ o, place a = .coreSpad (coreOf s.cur) o ∧ inQuadWindow a = false) ∨ ∃ q l o, place a = .slice q l o := by
  rcases h with h | h | h
  · unfold cacheable at h
    cases hp : place a <;> simp_all
  · exact .inr (.inr (.inl h))
  · exact .inr (.inr (.inr h))

theorem checkAtomicPlace_run {s v : State} {p a : Nat} (hpkg : pkgOf p = s.pkg) (hv : v.pkg = s.pkg) (ha : localOf p = a) (h : AtHome s a)
    (va : Nat) : checkAtomicPlace va p v = .ok () v := by
  refine (M.bind_ok (M.get_run v)).trans ?_
  rw [if_neg (by rw [hpkg, hv]; simp), ha]
  rcases place_atHome h with hp | ⟨d, hp⟩ | ⟨o, hp, -⟩ | ⟨q, l, o, hp⟩ <;> rw [hp] <;> rfl

theorem enterHome_run {v : State} {a k : Nat} (hk : k = 1 ∨ k = 2 ∨ k = 4 ∨ k = 8 ∨ k = 16) (ha : a % k = 0) (va : Nat)
    (hbad : (v.leaveLine (coreOf v.cur) (a / 128)).firstBad a k = none) :
    enterHome va a k v = .ok () (v.leaveLine (coreOf v.cur) (a / 128)) := by
  refine (M.bind_ok (M.modify_run ..)).trans ?_
  rw [lineParts_aligned hk ha]
  unfold checkSectors
  simp only [List.foldl_cons, List.foldl_nil, hbad]

theorem homeStore_run {s v : State} (hv : NoPartials v) (hcur : v.cur = s.cur) {a : Nat} (h : AtHome s a) (bs : List Byte) :
    homeStore a bs v = .ok () (v.homePut a bs) := by
  refine (M.bind_ok (M.get_run v)).trans ?_
  rcases place_atHome h with hp | ⟨d, hp⟩ | ⟨o, hp, hw⟩ | ⟨q, l, o, hp⟩ <;> rw [hp] <;> dsimp only
  · exact homeWrite_run hv a bs
  · exact homeWrite_run hv a bs
  · rw [if_neg (by simp [hcur, hw])]
    exact homeWrite_run hv a bs
  · exact homeWrite_run hv a bs

/-- A read-modify-write in the state in which the core's line has left the L1. -/
theorem rmwAt_run {s v w' : State} {p a k : Nat} {e : Word} (hk : k = 1 ∨ k = 2 ∨ k = 4 ∨ k = 8 ∨ k = 16) (ha : a % k = 0)
    (hpkg : pkgOf p = s.pkg) (hloc : localOf p = a) (he : pteM e = false) (hplace : AtHome s a) (hv : v.pkg = s.pkg) (hcur : v.cur = s.cur)
    (hw : v.leaveLine (coreOf s.cur) (a / 128) = w') (hpart : NoPartials w') (hbad : w'.firstBad a k = none) (va : Nat) (tenant : BitVec 12)
    (op : PacketOp) (f : Nat → Option Nat) :
    rmwAt va p k e tenant op f v = .ok (leNat (w'.bytesAt a k))
      (match f (leNat (w'.bytesAt a k)) with
        | some n => w'.homePut a (leBytes k n)
        | none => w') := by
  have hfixed : w'.cur = s.cur := by rw [← hw, ((keeps2_leaveLine ..).fixed v).cur, hcur]
  unfold rmwAt
  rw [M.bind_ok (raiseIf_of_not he ..), M.bind_ok (checkAtomicPlace_run hpkg hv hloc hplace va), M.bind_ok (M.get_run v),
    if_neg (by rw [hpkg, hv]; simp), hloc]
  have henter : enterHome va a k v = .ok () w' := by
    rw [← hw, ← hcur]
    exact enterHome_run hk ha va (by rw [hcur, hw]; exact hbad)
  rw [M.bind_ok henter, M.bind_ok (homeRead_run hpart a k)]
  cases f (leNat (w'.bytesAt a k)) with
  | none => rfl
  | some n => exact M.bind_ok (homeStore_run hpart hfixed hplace _)

/-! ## Atomics -/

theorem leNat_lt (bs : List Byte) : leNat bs < 2 ^ (8 * bs.length) := by
  induction bs with
  | nil => simp [leNat]
  | cons b bs ih =>
    have hb := b.isLt
    rw [leNat, List.length_cons, Nat.mul_add, Nat.pow_add]
    omega

theorem bytesAt_lt (s : State) (a k : Nat) : leNat (s.bytesAt a k) < 2 ^ (8 * k) := by
  have h := leNat_lt (s.bytesAt a k)
  rwa [State.bytesAt, List.length_map, List.length_range] at h

/-- A pattern below its width as a signed or unsigned number. -/
theorem patInt_of_lt {w n : Nat} (h : n < 2 ^ w) (signed : Bool) :
    Machine.Float.patInt w signed n = if signed ∧ 2 ^ (w - 1) ≤ n then (n : Int) - 2 ^ w else n := by
  unfold Machine.Float.patInt
  simp only [Nat.mod_eq_of_lt h, Bool.and_eq_true, decide_eq_true_eq, ge_iff_le]

theorem extendTo64_eq (sx : Bool) {k : Nat} {bs : List Byte} (h : leNat bs < 2 ^ (8 * k)) : extendTo64 sx k (leNat bs) = got k sx bs := by
  unfold extendTo64 got
  rw [patInt_of_lt h]

section Atomics
variable {o : OpRRR} {s : State} (h : Issues s [o.a, o.b, o.c])
include h

theorem addressRRR_run {u : State} (hr : SameReads u.self s.self) (i : Nat) : addressRRR i o u = .ok (at3 s o) u := by
  unfold addressRRR
  rw [M.bind_ok (h.readW_same hr _ (by simp)), M.bind_ok (h.readX_same hr _ (by simp))]
  rfl

end Atomics

/-- The state in which an operation at the home meets its bytes. -/
def leftFor (s : State) (ord scope a : Nat) : State := (released s ord scope).leaveLine (coreOf s.cur) (a / 128)

section Atomics
variable {o : OpRRR} {s : State} {m : AmoMod} {a k : Nat} {e : Word} (h : Issues s [o.a, o.b, o.c])
variable (hkm : (if m.w32 then 4 else 8) = k) (hopens : Opens s (at3 s o) (Cap.ld ||| Cap.st ||| Cap.atm) k a e)
variable (hplace : AtHome s a) (hpart : NoPartials (leftFor s m.ord.toNat m.scope.toNat a))
variable (hbad : (leftFor s m.ord.toNat m.scope.toNat a).firstBad a k = none)
include h hkm hopens hplace hpart hbad

theorem amo_leads {i : Instr} {op : Nat} (hx : exec i s = atomic o m op s) {new : Nat} {sx : Bool}
    (hsx : (decide (op = 4) || decide (op = 5)) = sx)
    (hnew : amoOp op k (leNat ((leftFor s m.ord.toNat m.scope.toNat a).bytesAt a k)) ((x s o.a).toNat % 2 ^ (8 * k)) = new) :
    let u := leftFor s m.ord.toNat m.scope.toNat a
    let t := acquired (u.homePut a (leBytes k new)) m.ord.toNat m.scope.toNat
    Leads i s (t.withSelf (t.self.putW o.a.toNat (Reg.ofWord (got k sx (u.bytesAt a k))))) := by
  intro u t
  have hk : k = 1 ∨ k = 2 ∨ k = 4 ∨ k = 8 ∨ k = 16 := by
    rw [← hkm]
    cases m.w32 <;> simp
  obtain ⟨p, haccess, hpkg, hloc, he, halign⟩ := hopens.place hk
  let d : Desc := ⟨o.st, 0, .access, [wBoth o.a, wSrc o.b, wSrc o.c]⟩
  have hclear : s.self.Clear d.regs := h.clear (by simp [d, wBoth, wSrc])
  let v := s.withSelf (s.self.begun d)
  have hreads : SameReads v.self s.self := by rw [State.self_withSelf]; exact .begun ..
  have hrel := keeps2_released m.ord.toNat m.scope.toNat (Twin.begun s d)
  have hleft := keeps2_leaveLine (coreOf s.cur) (a / 128) hrel
  have hput := keeps2_homePut a (leBytes k new) hleft
  have hacq := keeps2_acquired m.ord.toNat m.scope.toNat hput
  refine leads_of_twin_putW (d := d) hx Steer.noConfusion hclear ?_ hacq
  rw [M.bind_ok (h.readX_same hreads 0 (by simp)), M.bind_ok (addressRRR_run h hreads 1)]
  dsimp only
  rw [hkm, M.bind_ok (haccess v (by rw [State.self_withSelf]; rfl) rfl rfl)]
  dsimp only
  rw [M.bind_ok (ordRelease_run ..),
    M.bind_ok (rmwAt_run hk halign hpkg hloc he hplace (v := released v m.ord.toNat m.scope.toNat) hrel.pkg hrel.cur rfl
      (hleft.noPartials hpart) ((hleft.firstBad a k).trans hbad) ..), hleft.bytesAt]
  change amoOp op k (leNat (((released s m.ord.toNat m.scope.toNat).leaveLine (coreOf s.cur) (a / 128)).bytesAt a k)) _ = new at hnew
  dsimp only
  rw [hnew, M.bind_ok (ordAcquire_run ..), extendTo64_eq _ (bytesAt_lt ..), hsx]
  rfl

end Atomics

theorem amoOp_signed {k old y : Nat} (hold : old < 2 ^ (8 * k)) (hy : y < 2 ^ (8 * k)) :
    let sgn := fun (n : Nat) => if 2 ^ (8 * k - 1) ≤ n then (n : Int) - 2 ^ (8 * k) else n
    amoOp 4 k old y = (if sgn y < sgn old then y else old) ∧ amoOp 5 k old y = (if sgn old < sgn y then y else old) := by
  simp only [amoOp, patInt_of_lt hold, patInt_of_lt hy, true_and, gt_iff_lt, and_self]

theorem atomicsAtHome_amo : ∀ (o : OpRRR) (m : AmoMod) (s : State) (a : Nat) (e : Word), Issues s [o.a, o.b, o.c] →
    let k := if m.w32 then 4 else 8
    Opens s (at3 s o) (Cap.ld ||| Cap.st ||| Cap.atm) k a e → (cacheable a ∨ DirectOwn s a) →
    let u := (released s m.ord.toNat m.scope.toNat).leaveLine (coreOf s.cur) (a / 128)
    NoPartials u → u.firstBad a k = none →
    let old := leNat (u.bytesAt a k)
    let y := (x s o.a).toNat % 2 ^ (8 * k)
    let sgn := fun (n : Nat) => if 2 ^ (8 * k - 1) ≤ n then (n : Int) - 2 ^ (8 * k) else n
    let does := fun (i : Instr) (new : Nat) (sx : Bool) =>
      let t := acquired (u.homePut a (leBytes k new)) m.ord.toNat m.scope.toNat
      Leads i s (t.withSelf (t.self.putW o.a.toNat (Reg.ofWord (got k sx (u.bytesAt a k)))))
    does (.amoAdd o m) ((old + y) % 2 ^ (8 * k)) false ∧ does (.amoAnd o m) (old &&& y) false ∧
    does (.amoOr o m) (old ||| y) false ∧ does (.amoXor o m) (old ^^^ y) false ∧
    does (.amoMin o m) (if sgn y < sgn old then y else old) true ∧ does (.amoMax o m) (if sgn old < sgn y then y else old) true ∧
    does (.amoMinn o m) (min old y) false ∧ does (.amoMaxn o m) (max old y) false ∧ does (.amoSwap o m) y false := by
  intro o m s a e h k hopens hplace u hpart hbad old y sgn does
  have hsigned := amoOp_signed (k := k) (old := old) (y := y) (bytesAt_lt ..) (Nat.mod_lt _ (by positivity))
  have hdoes {i : Instr} {op : Nat} (hx : exec i s = atomic o m op s) {new : Nat} {sx : Bool}
      (hsx : (decide (op = 4) || decide (op = 5)) = sx) (hnew : amoOp op k old y = new) : does i new sx :=
    amo_leads h rfl hopens hplace hpart hbad hx hsx hnew
  exact ⟨hdoes (op := 0) rfl rfl rfl, hdoes (op := 1) rfl rfl rfl, hdoes (op := 2) rfl rfl rfl, hdoes (op := 3) rfl rfl rfl,
    hdoes (op := 4) rfl rfl hsigned.1, hdoes (op := 5) rfl rfl hsigned.2, hdoes (op := 6) rfl rfl rfl, hdoes (op := 7) rfl rfl rfl,
    hdoes (op := 8) rfl rfl rfl⟩

/-! ## `cas` -/

theorem issues_next {o : OpRRR} {s : State} (h : Issues s [o.a, o.b, o.c]) (h1 : Ready s [⟨0, o.a.toNat + 1, true, false⟩])
    (hne : o.a ≠ 63) : (o.a + 1).toNat = o.a.toNat + 1 ∧ Issues s [o.a, o.b, o.c, o.a + 1] := by
  have hnext : (o.a + 1).toNat = o.a.toNat + 1 := by
    have hlt := o.a.isLt
    have : o.a.toNat ≠ 63 := fun hc => hne (BitVec.eq_of_toNat_eq hc)
    rw [BitVec.toNat_add]
    simp
    omega
  refine ⟨hnext, h.1, fun u hu => ?_⟩
  simp only [List.map_cons, List.map_nil, List.mem_cons, List.not_mem_nil, or_false] at hu
  rcases hu with rfl | rfl | rfl | rfl
  · exact h.2 _ (by simp)
  · exact h.2 _ (by simp)
  · exact h.2 _ (by simp)
  · have h1 := h1.2 _ (List.mem_singleton_self _)
    rw [hnext]
    exact h1

/-- The bytes of a width code. -/
theorem widthBytes_cases {w : BitVec 3} (h : w.toNat ≤ 3) : widthBytes w = 1 ∨ widthBytes w = 2 ∨ widthBytes w = 4 ∨ widthBytes w = 8 ∨
    widthBytes w = 16 := by
  unfold widthBytes
  interval_cases w.toNat <;> simp

section Cas
variable {o : OpRRR} {s : State} {m : MemMod} {a k : Nat} {e : Word} (h : Issues s [o.a, o.b, o.c])
variable (h1 : Ready s [⟨0, o.a.toNat + 1, true, false⟩]) (hne : o.a ≠ 63) (hkm : widthBytes m.width = k) (hk : m.width.toNat ≤ 3)
variable (hopens : Opens s (at3 s o) (Cap.ld ||| Cap.st ||| Cap.atm) k a e)
variable (hplace : AtHome s a) (hpart : NoPartials (leftFor s m.ord.toNat m.scope.toNat a))
variable (hbad : (leftFor s m.ord.toNat m.scope.toNat a).firstBad a k = none)
include h h1 hne hk hkm hopens hplace hpart hbad

theorem cas_leads : let u := leftFor s m.ord.toNat m.scope.toNat a
    let new := (x s (o.a + 1)).toNat % 2 ^ (8 * k)
    let v := if leNat (u.bytesAt a k) = (x s o.a).toNat % 2 ^ (8 * k) then u.homePut a (leBytes k new) else u
    let t := acquired v m.ord.toNat m.scope.toNat
    Leads (.cas o m) s (t.withSelf (t.self.putW o.a.toNat (Reg.ofWord (got k m.sx (u.bytesAt a k))))) := by
  intro u new v t
  replace hk := hkm ▸ widthBytes_cases hk
  obtain ⟨p, haccess, hpkg, hloc, he, halign⟩ := hopens.place hk
  obtain ⟨hnext, h4⟩ := issues_next h h1 hne
  let d : Desc := ⟨o.st, 0, .access, [wBoth o.a, ⟨0, o.a.toNat + 1, true, false⟩, wSrc o.b, wSrc o.c]⟩
  have hclear : s.self.Clear d.regs := h4.clear (by
    intro r hr
    simp only [d, wBoth, wSrc, List.mem_cons, List.not_mem_nil, or_false] at hr
    simp only [List.map_cons, List.map_nil, List.mem_cons, List.not_mem_nil, or_false, exists_eq_or_imp, exists_eq_left, hnext]
    rcases hr with rfl | rfl | rfl | rfl <;> simp)
  let z := s.withSelf (s.self.begun d)
  have hreads : SameReads z.self s.self := by rw [State.self_withSelf]; exact .begun ..
  have hrel := keeps2_released m.ord.toNat m.scope.toNat (Twin.begun s d)
  have hleft := keeps2_leaveLine (coreOf s.cur) (a / 128) hrel
  have hput : Keeps2 fun w => if leNat (u.bytesAt a k) = (x s o.a).toNat % 2 ^ (8 * k) then w.homePut a (leBytes k new) else w :=
    keeps2_ite _ (keeps2_homePut a (leBytes k new)) keeps2_id
  have hacq := keeps2_acquired m.ord.toNat m.scope.toNat (hput hleft)
  refine leads_of_twin_putW (d := d) rfl Steer.noConfusion hclear ?_ hacq
  rw [M.bind_ok (h4.readX_same hreads 0 (by simp)), M.bind_ok (h4.readX_same hreads 1 (by simp)), M.bind_ok (addressRRR_run h hreads 2)]
  dsimp only
  rw [hkm, M.bind_ok (haccess z (by rw [State.self_withSelf]; rfl) rfl rfl)]
  dsimp only
  rw [M.bind_ok (ordRelease_run ..),
    M.bind_ok (rmwAt_run hk halign hpkg hloc he hplace (v := released z m.ord.toNat m.scope.toNat) hrel.pkg hrel.cur rfl
      (hleft.noPartials hpart) ((hleft.firstBad a k).trans hbad) ..), hleft.bytesAt, M.bind_ok (ordAcquire_run ..),
    extendTo64_eq _ (bytesAt_lt ..)]
  dsimp only
  by_cases hc : leNat (u.bytesAt a k) = (x s o.a).toNat % 2 ^ (8 * k)
  · have hc' : leNat (((released s m.ord.toNat m.scope.toNat).leaveLine (coreOf s.cur) (a / 128)).bytesAt a k) = _ := hc
    simp only [if_pos hc, if_pos hc']
    rfl
  · have hc' : ¬leNat (((released s m.ord.toNat m.scope.toNat).leaveLine (coreOf s.cur) (a / 128)).bytesAt a k) = _ := hc
    simp only [if_neg hc, if_neg hc']
    rfl

end Cas

/-! ## Causes that keep what the instruction has done -/

theorem Elsewhere.trans {s u v : State} (h : Elsewhere s u) (h' : Elsewhere u v) (hc : u.cur = s.cur) : Elsewhere s v := by
  obtain ⟨hs, hk, ⟨es, ha, hes⟩, hr⟩ := h
  obtain ⟨hs', hk', ⟨es', ha', hes'⟩, hr'⟩ := h'
  refine ⟨fun b hb => (hs' b (hc ▸ hb)).trans (hs b hb), fun c => ?_, ⟨es ++ es', by rw [ha', ha, List.append_assoc], fun e he => ?_⟩,
    hr'.trans hr⟩
  · obtain ⟨h1, h2, h3, h4, h5⟩ := hk c
    obtain ⟨h1', h2', h3', h4', h5'⟩ := hk' c
    exact ⟨h1'.trans h1, h2'.trans h2, h3'.trans h3, h4'.trans h4, h5'.trans h5⟩
  · exact (List.mem_append.mp he).elim (hes e) (hes' e)

/-- What the prologue notes does not show in a handler. -/
theorem still_enter_begun (t : Strand) (d : Desc) (w : Bool) (m : Mode) (c : BitVec 8) (v : Word) (v2 : Option Word) (ex : Bool) (ret : Reg) :
    ((wokenIf (t.begun d) w).settle.enter m c v v2 ex ret).still = ((wokenIf t w).settle.enter m c v v2 ex ret).still := by
  unfold Strand.enter
  dsimp only
  split <;> rfl

/-- A cause raised where what the instruction has done stands: it enters the handler from the twin of that state. -/
theorem trapsIn_of_keep {i : Instr} {s u v : State} {d : Desc} {body : M Unit} {c : BitVec 8} {x : Word} {x2 : Option Word}
    (hx : exec i s = runOp d body s) (hl : d.steer ≠ .lanes) (hc : s.self.Clear d.regs)
    (hb : body (s.withSelf (s.self.begun d)) = .error (.trapKeep c x x2) v) (h : Twin s s.self (s.self.begun d) u v) (hne : c ≠ cSyscall) :
    TrapsIn i s u c x x2 := by
  intro m hm
  obtain ⟨w, hu, hv⟩ := h.onlySelf
  obtain ⟨-, -, hapart, -⟩ := id hc
  have hcause : exec i s = takeCause s v d c x x2 := by
    rw [hx, runOp, runWith, M.bind_ok (prologue_clear (priv := pure ()) hl (M.pure_run () s) hc), M.bind_error hb]
    rfl
  have hhandler : Handler v c m := by
    obtain ⟨htarget, hinstall⟩ := hm
    rw [hu] at htarget hinstall
    rw [Handler, hv.self]
    exact ⟨htarget, hinstall⟩
  obtain ⟨hcur, hpcc, hn, hphys, ⟨ex, hstill⟩, hels⟩ := enters_handled v m c x x2 (s.self.roleOf d = .execute) s.self.pcc
  refine ⟨_, ?_, hcur.trans hv.cur, ?_, ?_, fun p => ?_, ⟨ex, ?_⟩, (hv.elsewhere.withdrawn hv.cur).trans hels (by simpa using hv.cur)⟩
  · rw [hcause]
    simp only [takeCause, hapart, if_neg hne, finishM, deliver_handler hhandler.idle]
    rfl
  · rw [hpcc, hv.self, hu]; cases m <;> rfl
  · rw [hn, hv.self, hu]; rfl
  · rw [hphys, hv.self, hu]; rfl
  · rw [hstill, hv.self, hu, still_enter_begun]

/-! ## Futures -/

/-- A future's state and value at the home of its cell. -/
def cellState (u : State) (a : Nat) : Nat := leNat (u.bytesAt (a + 8) 8)
def cellValue (u : State) (a : Nat) : Nat := leNat (u.bytesAt a 8)

theorem bytesAt_16 (u : State) (a : Nat) : u.bytesAt a 16 = u.bytesAt a 8 ++ u.bytesAt (a + 8) 8 := by
  simp [State.bytesAt, List.range_succ, Nat.add_assoc]

theorem length_bytesAt (u : State) (a n : Nat) : (u.bytesAt a n).length = n := by simp [State.bytesAt]

theorem futureAt_run {s v w' : State} {p a : Nat} {e : Word} (ha : a % 16 = 0) (hpkg : pkgOf p = s.pkg) (hloc : localOf p = a)
    (he : pteM e = false) (hplace : AtHome s a) (hv : v.pkg = s.pkg) (hcur : v.cur = s.cur)
    (hw : v.leaveLine (coreOf s.cur) (a / 128) = w') (hpart : NoPartials w') (hbad : w'.firstBad a 16 = none) (va : Nat)
    (tenant : BitVec 12) (fill : Option Word) :
    futureAt va p e tenant fill v = .ok (cellValue w' a, cellState w' a)
      (match fill with
        | some x => if cellState w' a % 2 = 1 then w' else w'.homePut a (leBytes 8 x.toNat ++ leBytes 8 1)
        | none => w') := by
  have hk : (16 : Nat) = 1 ∨ (16 : Nat) = 2 ∨ (16 : Nat) = 4 ∨ (16 : Nat) = 8 ∨ (16 : Nat) = 16 := by omega
  have hfixed : w'.cur = s.cur := by rw [← hw, ((keeps2_leaveLine ..).fixed v).cur, hcur]
  have hcell : (w'.bytesAt a 16).drop 8 = w'.bytesAt (a + 8) 8 ∧ (w'.bytesAt a 16).take 8 = w'.bytesAt a 8 := by
    rw [bytesAt_16]
    exact ⟨List.drop_left' (length_bytesAt ..), List.take_left' (length_bytesAt ..)⟩
  unfold futureAt
  rw [M.bind_ok (raiseIf_of_not he ..), M.bind_ok (checkAtomicPlace_run hpkg hv hloc hplace va), M.bind_ok (M.get_run v),
    if_neg (by rw [hpkg, hv]; simp), hloc]
  have henter : enterHome va a 16 v = .ok () w' := by
    rw [← hw, ← hcur]
    exact enterHome_run hk ha va (by rw [hcur, hw]; exact hbad)
  rw [M.bind_ok henter, M.bind_ok (homeRead_run hpart a 16)]
  dsimp only
  rw [hcell.1, hcell.2]
  cases fill with
  | none => rfl
  | some x =>
    dsimp only
    change _ = EStateM.Result.ok _ (if leNat (w'.bytesAt (a + 8) 8) % 2 = 1 then _ else _)
    by_cases hfull : leNat (w'.bytesAt (a + 8) 8) % 2 = 1
    · rw [if_pos hfull, if_pos hfull]; rfl
    · rw [if_neg hfull, if_neg hfull]
      exact M.bind_ok (homeStore_run hpart hfixed hplace _)

section Futures
variable {o : OpRR} {m : MemMod} {s : State} {a : Nat} {e : Word} (h : Issues s [o.a, o.b]) (hplace : AtHome s a)
include h hplace

section Read
variable (hopens : Opens s (w s o.b) Cap.ld 16 a e) (hpart : NoPartials (s.leaveLine (coreOf s.cur) (a / 128)))
variable (hbad : (s.leaveLine (coreOf s.cur) (a / 128)).firstBad a 16 = none)
include hopens hpart hbad

/-- `frd` up to its test, and what follows where the cell is full. -/
theorem frd_eq : ∃ body, exec (.frd o m) s = runOp ⟨o.st, 0, .access, [wDst o.a, wSrc o.b]⟩ body s ∧ ∃ v,
    Twin s s.self (s.self.begun ⟨o.st, 0, .access, [wDst o.a, wSrc o.b]⟩) (s.leaveLine (coreOf s.cur) (a / 128)) v ∧
    (cellState (s.leaveLine (coreOf s.cur) (a / 128)) a % 2 = 0 →
      body (s.withSelf (s.self.begun ⟨o.st, 0, .access, [wDst o.a, wSrc o.b]⟩)) =
        .error (.trapKeep cFempty (BitVec.ofNat 64 (Cap.cursor (w s o.b).val)) (some 0)) v) ∧
    (cellState (s.leaveLine (coreOf s.cur) (a / 128)) a % 2 = 1 →
      body (s.withSelf (s.self.begun ⟨o.st, 0, .access, [wDst o.a, wSrc o.b]⟩)) =
        .ok () ((acquired v m.ord.toNat m.scope.toNat).withSelf ((acquired v m.ord.toNat m.scope.toNat).self.putW o.a.toNat
          (Reg.ofWord (BitVec.ofNat 64 (cellValue (s.leaveLine (coreOf s.cur) (a / 128)) a)))))) := by
  obtain ⟨p, haccess, hpkg, hloc, he, halign⟩ := hopens.place (by omega)
  let d : Desc := ⟨o.st, 0, .access, [wDst o.a, wSrc o.b]⟩
  let v := s.withSelf (s.self.begun d)
  have hreads : SameReads v.self s.self := by rw [State.self_withSelf]; exact .begun ..
  have hleft := keeps2_leaveLine (coreOf s.cur) (a / 128) (Twin.begun s d)
  have hstate : cellState (v.leaveLine (coreOf s.cur) (a / 128)) a = cellState (s.leaveLine (coreOf s.cur) (a / 128)) a :=
    congrArg leNat (hleft.bytesAt ..)
  have hvalue : cellValue (v.leaveLine (coreOf s.cur) (a / 128)) a = cellValue (s.leaveLine (coreOf s.cur) (a / 128)) a :=
    congrArg leNat (hleft.bytesAt ..)
  refine ⟨_, rfl, _, hleft, fun hempty => ?_, fun hfull => ?_⟩ <;>
    rw [M.bind_ok (h.readW_same hreads 0 (by simp)), M.bind_ok (haccess v (by rw [State.self_withSelf]; rfl) rfl rfl)] <;>
    dsimp only <;>
    rw [M.bind_ok (futureAt_run (v := v) halign hpkg hloc he hplace rfl rfl rfl (hleft.noPartials hpart) ((hleft.firstBad a 16).trans hbad) ..)] <;>
    dsimp only <;> rw [hstate, hvalue]
  · rw [if_pos hempty]
    exact M.bind_error (M.throw_run ..)
  · rw [if_neg (Nat.mod_two_ne_zero.mpr hfull)]
    exact (M.bind_ok (M.pure_run ..)).trans ((M.bind_ok (ordAcquire_run ..)).trans (writeW_run ..))

theorem frd_empty (hempty : ¬cellState (s.leaveLine (coreOf s.cur) (a / 128)) a % 2 = 1) :
    TrapsIn (.frd o m) s (s.leaveLine (coreOf s.cur) (a / 128)) cFempty (BitVec.ofNat 64 (Cap.cursor (w s o.b).val)) (some 0) := by
  obtain ⟨body, hx, v, htwin, hbody, -⟩ := frd_eq (m := m) h hplace hopens hpart hbad
  exact trapsIn_of_keep hx Steer.noConfusion (h.clear (by simp [wDst, wSrc])) (hbody (Nat.mod_two_ne_one.mp hempty)) htwin (by decide)

theorem frd_full (hfull : cellState (s.leaveLine (coreOf s.cur) (a / 128)) a % 2 = 1) :
    let t := acquired (s.leaveLine (coreOf s.cur) (a / 128)) m.ord.toNat m.scope.toNat
    Leads (.frd o m) s (t.withSelf (t.self.putW o.a.toNat (Reg.ofWord (BitVec.ofNat 64 (cellValue (s.leaveLine (coreOf s.cur) (a / 128)) a))))) := by
  intro t
  obtain ⟨body, hx, v, htwin, -, hbody⟩ := frd_eq (m := m) h hplace hopens hpart hbad
  exact leads_of_twin_putW hx Steer.noConfusion (h.clear (by simp [wDst, wSrc])) (hbody hfull)
    (keeps2_acquired m.ord.toNat m.scope.toNat htwin)

end Read

section Fill
variable (hopens : Opens s (w s o.a) (Cap.st ||| Cap.atm) 16 a e) (hpart : NoPartials (leftFor s m.ord.toNat m.scope.toNat a))
variable (hbad : (leftFor s m.ord.toNat m.scope.toNat a).firstBad a 16 = none)
include hopens hpart hbad

/-- `fwr` up to its test. -/
theorem fwr_eq : ∃ body, exec (.fwr o m) s = runOp ⟨o.st, 0, .access, [wSrc o.a, wSrc o.b]⟩ body s ∧ ∃ v,
    Twin s s.self (s.self.begun ⟨o.st, 0, .access, [wSrc o.a, wSrc o.b]⟩) (leftFor s m.ord.toNat m.scope.toNat a) v ∧
    (cellState (leftFor s m.ord.toNat m.scope.toNat a) a % 2 = 1 →
      body (s.withSelf (s.self.begun ⟨o.st, 0, .access, [wSrc o.a, wSrc o.b]⟩)) =
        .error (.trapKeep cFfull (BitVec.ofNat 64 (Cap.cursor (w s o.a).val))
          (some (BitVec.ofNat 64 (cellValue (leftFor s m.ord.toNat m.scope.toNat a) a)))) v) ∧
    (¬cellState (leftFor s m.ord.toNat m.scope.toNat a) a % 2 = 1 →
      body (s.withSelf (s.self.begun ⟨o.st, 0, .access, [wSrc o.a, wSrc o.b]⟩)) =
        .ok () (v.homePut a (leBytes 8 (x s o.b).toNat ++ leBytes 8 1))) := by
  obtain ⟨p, haccess, hpkg, hloc, he, halign⟩ := hopens.place (by omega)
  let d : Desc := ⟨o.st, 0, .access, [wSrc o.a, wSrc o.b]⟩
  let v := s.withSelf (s.self.begun d)
  have hreads : SameReads v.self s.self := by rw [State.self_withSelf]; exact .begun ..
  have hrel := keeps2_released m.ord.toNat m.scope.toNat (Twin.begun s d)
  have hleft := keeps2_leaveLine (coreOf s.cur) (a / 128) hrel
  let v' := (released v m.ord.toNat m.scope.toNat).leaveLine (coreOf s.cur) (a / 128)
  have hstate : cellState v' a = cellState (leftFor s m.ord.toNat m.scope.toNat a) a := congrArg leNat (hleft.bytesAt ..)
  have hvalue : cellValue v' a = cellValue (leftFor s m.ord.toNat m.scope.toNat a) a := congrArg leNat (hleft.bytesAt ..)
  refine ⟨_, rfl, v', hleft, fun hfull => ?_, fun hempty => ?_⟩ <;>
    rw [M.bind_ok (h.readW_same hreads 0 (by simp)), M.bind_ok (h.readX_same hreads 1 (by simp)),
      M.bind_ok (haccess v (by rw [State.self_withSelf]; rfl) rfl rfl)] <;>
    dsimp only <;>
    rw [M.bind_ok (ordRelease_run ..),
      M.bind_ok (futureAt_run (v := released v m.ord.toNat m.scope.toNat) (w' := v') halign hpkg hloc he hplace hrel.pkg hrel.cur rfl
        (hleft.noPartials hpart) ((hleft.firstBad a 16).trans hbad) ..)] <;>
    dsimp only <;> rw [hstate, hvalue]
  · rw [if_pos hfull, if_pos hfull]
    exact M.throw_run ..
  · rw [if_neg hempty, if_neg hempty]
    exact M.pure_run ..

theorem fwr_full (hfull : cellState (leftFor s m.ord.toNat m.scope.toNat a) a % 2 = 1) :
    TrapsIn (.fwr o m) s (leftFor s m.ord.toNat m.scope.toNat a) cFfull (BitVec.ofNat 64 (Cap.cursor (w s o.a).val))
      (some (BitVec.ofNat 64 (cellValue (leftFor s m.ord.toNat m.scope.toNat a) a))) := by
  obtain ⟨body, hx, v, htwin, hbody, -⟩ := fwr_eq h hplace hopens hpart hbad
  exact trapsIn_of_keep hx Steer.noConfusion (h.clear (by simp [wSrc])) (hbody hfull) htwin (by decide)

theorem fwr_empty (hempty : ¬cellState (leftFor s m.ord.toNat m.scope.toNat a) a % 2 = 1) :
    Leads (.fwr o m) s ((leftFor s m.ord.toNat m.scope.toNat a).homePut a (leBytes 8 (x s o.b).toNat ++ leBytes 8 1)) := by
  obtain ⟨body, hx, v, htwin, -, hbody⟩ := fwr_eq h hplace hopens hpart hbad
  exact leads_of_twin_begun hx Steer.noConfusion (h.clear (by simp [wSrc])) (hbody hempty) (keeps2_homePut a _ htwin)

end Fill
end Futures

/-- Settles O26: each operation meets its bytes where the core's line has left the L1, in the state of the statement and in the one
the instruction runs in alike. -/
theorem atomicsAndFutures : Obligations.AtomicsAndFutures := by
  refine ⟨⟨atomicsAtHome_amo, ?_⟩, ?_⟩
  · intro o m s a e h h1 hne hwidth k hopens hplace u hpart hbad
    exact cas_leads h h1 hne rfl (by rcases hwidth with hw | hw <;> rw [hw] <;> decide) hopens hplace hpart hbad
  · intro o m s a e h hplace full value
    refine ⟨?_, ?_⟩
    · intro hopens u t hpart hbad
      exact ⟨frd_empty h hplace hopens hpart hbad, frd_full h hplace hopens hpart hbad⟩
    · intro hopens u hpart hbad
      exact ⟨fwr_full h hplace hopens hpart hbad, fwr_empty h hplace hopens hpart hbad⟩

end Sys2Proof.Claims
end

section
/-! SUPPORT. Memory as the cores see it: what an L1 that takes a line, or gives one up, leaves as it was (R147). -/

namespace Sys2Proof.Claims

open Sys2Proof.Machine

/-! ## Cores and lines that writes to memory leave alone -/

theorem cores_foldl {α : Type} {f : State → α → State} (h : ∀ s a, (f s a).cores = s.cores) (l : List α) (s : State) :
    (l.foldl f s).cores = s.cores := by
  induction l generalizing s with
  | nil => rfl
  | cons a l ih => rw [List.foldl_cons, ih, h]

theorem cores_putBytes (a : Nat) (bs : List Byte) (s : State) : (s.putBytes a bs).cores = s.cores := by
  induction bs generalizing a s with
  | nil => rfl
  | cons b bs ih => exact ih (a + 1) (s.putByte a b)

theorem cores_putSector (s : State) (a : Nat) (bs : List Byte) : (s.putSector a bs).cores = s.cores := by
  unfold State.putSector
  split
  · exact cores_putBytes ..
  · split
    · exact cores_putBytes ..
    · rfl

theorem cores_wakeLine (s : State) (line : Nat) : (s.wakeLine line).cores = s.cores := by
  rw [wakeLine_eq, foldl_wakeOne_rest]

theorem cores_wakeAt (s : State) (a : Nat) : (s.wakeAt a).cores = s.cores := by
  unfold State.wakeAt
  split <;> simp only [cores_wakeLine]

theorem cores_l2Put (s : State) (a n : Nat) : (s.l2Put a n).cores = s.cores := by
  unfold State.l2Put
  dsimp only
  split <;> rfl

theorem cores_homePut (s : State) (a : Nat) (bs : List Byte) : (s.homePut a bs).cores = s.cores := by
  unfold State.homePut
  rw [cores_foldl fun s p => by rw [cores_wakeAt, cores_l2Put], cores_foldl fun s p => cores_putSector ..]

theorem cores_flushPartials (s : State) (line : Nat) (l : L1Line) (u : UpdateOnly) : (s.flushPartials line l u).cores = s.cores := by
  unfold State.flushPartials
  rw [cores_wakeAt, cores_l2Put, cores_foldl fun s p => cores_putSector ..]

theorem cores_unregister (s : State) (line : Nat) : (s.unregister line).cores = s.cores := by
  unfold State.unregister
  split <;> rfl

/-- A core with one line of its L1 replaced. -/
def putLine (c : CoreState) (line : Nat) (l : L1Line) : CoreState := { c with lines := storeAt L1Line.empty line l c.lines }

theorem core_of_cores {s u : State} (h : s.cores = u.cores) (c : Nat) : s.core c = u.core c := congrArg (lookupD CoreState.empty · c) h

/-- A write-back changes at most the line itself, which it leaves clean or gives up. -/
theorem cores_writeBackLine (s : State) (core line : Nat) : (s.writeBackLine core line).cores = s.cores ∨ ∃ l,
    (s.writeBackLine core line).cores = (s.withCore core (putLine (s.core core) line l)).cores := by
  rw [writeBackLine_eq]
  split
  · right
    refine ⟨L1Line.empty, ?_⟩
    rw [cores_unregister]
    simp only [State.withCore, cores_flushPartials]
    rfl
  · split
    · exact .inl rfl
    · right
      refine ⟨{ lookupD L1Line.empty (s.core core).lines line with dirty := 0 }, ?_⟩
      simp only [putDirty, State.withCore]
      rw [cores_foldl, cores_foldl, cores_foldl]
      · rfl
      · exact fun s r => cores_homePut ..
      · intro s e; split <;> rfl
      · intro s g; split <;> rfl

theorem line_withCore (s : State) (core line : Nat) (l : L1Line) {c n : Nat} (h : n ≠ line) :
    lookupD L1Line.empty ((s.withCore core (putLine (s.core core) line l)).core c).lines n = lookupD L1Line.empty (s.core c).lines n := by
  by_cases hc : c = core
  · subst hc
    rw [State.core_withCore_same]
    exact lookupD_storeAt_ne _ _ _ _ _ h
  · rw [State.core_withCore_ne _ _ _ _ hc]

/-- A line that is given up leaves the others where they are. -/
theorem line_leaveLine (s : State) (core line : Nat) {c n : Nat} (h : n ≠ line) :
    lookupD L1Line.empty ((s.leaveLine core line).core c).lines n = lookupD L1Line.empty (s.core c).lines n := by
  have hdrop (u : State) : lookupD L1Line.empty ((u.dropLine core line).core c).lines n = lookupD L1Line.empty (u.core c).lines n :=
    line_withCore u core line L1Line.empty h
  unfold State.leaveLine
  rw [hdrop]
  rcases cores_writeBackLine s core line with hw | ⟨l, hw⟩
  · rw [core_of_cores hw]
  · rw [core_of_cores hw, line_withCore s core line l h]

/-- Making room leaves the line that needs it as it was. -/
theorem line_l1Room (s : State) (core line c : Nat) :
    lookupD L1Line.empty ((s.l1Room core line).core c).lines line = lookupD L1Line.empty (s.core c).lines line := by
  unfold State.l1Room
  dsimp only
  split
  · rfl
  · split
    · next v hv =>
      have hmem := List.mem_of_getElem? hv
      simp only [List.mem_map, List.mem_filter, Bool.and_eq_true, decide_eq_true_eq] at hmem
      obtain ⟨e, ⟨-, ⟨-, hne⟩, -⟩, rfl⟩ := hmem
      exact line_leaveLine s core e.1 (Ne.symm hne)
    · rfl

/-! ## Views -/

/-- A byte as an L1 line shows it over the home. -/
def lineByte (l : L1Line) (o : Nat) (home : Byte) : Byte := if l.upd.isNone && l.valid.getLsbD (o / 32) then l.bytes.getD o 0 else home

theorem view_eq (s : State) (c b : Nat) : view s c b = lineByte (lookupD L1Line.empty (s.core c).lines (b / 128)) (b % 128) (s.byteAt b) := rfl

theorem view_congr {s u : State} (hlines : ∀ c, (s.core c).lines = (u.core c).lines) (hmem : s.mem = u.mem) (c b : Nat) :
    view s c b = view u c b := by
  rw [view_eq, view_eq, hlines, State.byteAt, State.byteAt, hmem]

theorem viewBytes_eq (s : State) (c a n : Nat) : s.viewBytes c a n = (List.range n).map fun i => view s c (a + i) := rfl

/-! ## A line that takes sectors -/

theorem length_overwrite {bytes bs : List Byte} {o : Nat} (h : o + bs.length ≤ bytes.length) : (overwrite bytes o bs).length = bytes.length := by
  simp only [overwrite, List.length_append, List.length_take, List.length_drop]
  omega

theorem getD_overwrite {bytes bs : List Byte} {o : Nat} (h : o + bs.length ≤ bytes.length) (j : Nat) :
    (overwrite bytes o bs).getD j 0 = if o ≤ j ∧ j < o + bs.length then bs.getD (j - o) 0 else bytes.getD j 0 := by
  have htake : (bytes.take o).length = o := by rw [List.length_take]; omega
  simp only [overwrite, List.getD_eq_getElem?_getD]
  by_cases h1 : j < o
  · rw [List.getElem?_append_left (by rw [List.length_append, htake]; omega), List.getElem?_append_left (by omega),
      List.getElem?_take_of_lt h1, if_neg (by omega)]
  · by_cases h2 : j < o + bs.length
    · rw [List.getElem?_append_left (by rw [List.length_append, htake]; omega), List.getElem?_append_right (by omega), htake,
        if_pos ⟨by omega, h2⟩]
    · rw [List.getElem?_append_right (by rw [List.length_append, htake]; omega), List.length_append, htake, List.getElem?_drop,
        if_neg (by omega)]
      congr 2
      omega

/-- One sector of `withSectors`. -/
def withSector (s : State) (a n : Nat) (l : L1Line) (i : Nat) : L1Line :=
  if (i * 32 + 32 ≤ a % 128 || a % 128 + n ≤ i * 32) || l.valid.getLsbD i then l
  else
    let b := a / 128 * 128 + i * 32
    { l with
      bytes := overwrite l.bytes (i * 32) (s.bytesAt b 32)
      valid := l.valid ||| BitVec.ofNat 4 (2 ^ i)
      tags := (List.range 2).foldl (fun t g =>
        if s.tagAt (b + 16 * g) then t ||| BitVec.ofNat 8 (2 ^ (2 * i + g))
        else t &&& ~~~ (BitVec.ofNat 8 (2 ^ (2 * i + g)))) l.tags }

theorem withSectors_eq (s : State) (a n : Nat) (l : L1Line) : withSectors s a n l = (List.range 4).foldl (withSector s a n) l := rfl

theorem getLsbD_or_bit (v : BitVec 4) {i : Nat} (hi : i < 4) (j : Nat) :
    (v ||| BitVec.ofNat 4 (2 ^ i)).getLsbD j = (v.getLsbD j || decide (j = i)) := by
  rw [BitVec.getLsbD_or, BitVec.getLsbD_ofNat, Nat.testBit_two_pow]
  by_cases hj : j = i
  · simp [hj, hi]
  · simp [hj, Ne.symm hj]

/-- What a line keeps when it takes sectors from the homes: it shows the same bytes. -/
structure SameLine (s : State) (line : Nat) (l l' : L1Line) : Prop where
  upd : l'.upd = none
  length : l'.bytes.length = 128
  shows : ∀ o < 128, lineByte l' o (s.byteAt (line * 128 + o)) = lineByte l o (s.byteAt (line * 128 + o))
  valid : ∀ j, l.valid.getLsbD j = true → l'.valid.getLsbD j = true

theorem SameLine.sector {s : State} {a n : Nat} {l l' : L1Line} (h : SameLine s (a / 128) l l') {i : Nat} (hi : i < 4) :
    SameLine s (a / 128) l (withSector s a n l' i) := by
  unfold withSector
  split
  · exact h
  · next hskip =>
    simp only [Bool.or_eq_true, not_or, Bool.not_eq_true] at hskip
    obtain ⟨-, hinvalid⟩ := hskip
    have hfit : i * 32 + (s.bytesAt (a / 128 * 128 + i * 32) 32).length ≤ l'.bytes.length := by rw [length_bytesAt, h.length]; omega
    refine ⟨h.upd, (length_overwrite hfit).trans h.length, fun o ho => ?_, fun j hj => ?_⟩
    · rw [← h.shows o ho]
      simp only [lineByte, h.upd, Option.isNone_none, Bool.true_and, getLsbD_or_bit _ hi]
      rw [getD_overwrite hfit, length_bytesAt]
      by_cases hs : o / 32 = i
      · rw [hs, hinvalid, if_pos (by simp), if_pos (by omega), if_neg (by simp)]
        have hidx : o - i * 32 < 32 := by omega
        rw [State.bytesAt, List.getD_eq_getElem?_getD, List.getElem?_map, List.getElem?_range hidx]
        simp only [Option.map_some, Option.getD_some]
        congr 1
        omega
      · rw [if_neg (show ¬(i * 32 ≤ o ∧ o < i * 32 + 32) by omega)]
        simp [hs]
    · rw [getLsbD_or_bit _ hi, h.valid j hj]; rfl

theorem sameLine_withSectors (s : State) (a n : Nat) {l : L1Line} (hupd : l.upd = none) (hlen : l.bytes.length = 128) :
    SameLine s (a / 128) l (withSectors s a n l) := by
  have hstart : SameLine s (a / 128) l l := ⟨hupd, hlen, fun _ _ => rfl, fun _ h => h⟩
  rw [withSectors_eq]
  have hall : ∀ i ∈ List.range 4, i < 4 := fun i hi => List.mem_range.mp hi
  revert hall
  generalize List.range 4 = is
  intro hall
  suffices hgen : ∀ l', SameLine s (a / 128) l l' → SameLine s (a / 128) l (is.foldl (withSector s a n) l') from hgen l hstart
  intro l' h
  induction is generalizing l' with
  | nil => exact h
  | cons i is ih =>
    rw [List.foldl_cons]
    exact ih (fun j hj => hall j (by simp [hj])) _ (h.sector (hall i (by simp)))

theorem valid_withSector (s : State) (a n : Nat) (l : L1Line) {i : Nat} (hi : i < 4) {j : Nat}
    (hj : l.valid.getLsbD j = true ∨ j = i ∧ ¬(i * 32 + 32 ≤ a % 128 ∨ a % 128 + n ≤ i * 32)) :
    (withSector s a n l i).valid.getLsbD j = true := by
  unfold withSector
  split
  · next hskip =>
    simp only [Bool.or_eq_true, decide_eq_true_eq] at hskip
    rcases hj with hj | ⟨rfl, hover⟩
    · exact hj
    · exact hskip.resolve_left hover
  · rw [getLsbD_or_bit _ hi]
    rcases hj with hj | ⟨rfl, -⟩
    · rw [hj]; rfl
    · simp

/-- The sectors that a range overlaps are held afterwards. -/
theorem valid_withSectors (s : State) (a n : Nat) (l : L1Line) {j : Nat} (hj : j < 4)
    (hover : ¬(j * 32 + 32 ≤ a % 128 ∨ a % 128 + n ≤ j * 32)) : (withSectors s a n l).valid.getLsbD j = true := by
  rw [withSectors_eq]
  have hgen : ∀ (is : List Nat) (l' : L1Line), (∀ i ∈ is, i < 4) → (l'.valid.getLsbD j = true ∨ j ∈ is) →
      (is.foldl (withSector s a n) l').valid.getLsbD j = true := by
    intro is
    induction is with
    | nil => exact fun l' _ h => h.resolve_right List.not_mem_nil
    | cons i is ih =>
      intro l' hall h
      rw [List.foldl_cons]
      refine ih _ (fun k hk => hall k (by simp [hk])) ?_
      rcases h with h | h
      · exact .inl (valid_withSector s a n l' (hall i (by simp)) (.inl h))
      · rcases List.mem_cons.mp h with rfl | h
        · exact .inl (valid_withSector s a n l' hj (.inr ⟨rfl, hover⟩))
        · exact .inr h
  exact hgen _ l (fun i hi => List.mem_range.mp hi) (.inr (List.mem_range.mpr hj))

/-- The line from which a fill starts: a line without a sector is a fresh one. -/
def startLine (l : L1Line) : L1Line := if l.valid = 0 then { L1Line.empty with bytes := List.replicate 128 0 } else l

theorem lineByte_startLine {l : L1Line} (o : Nat) (home : Byte) : lineByte (startLine l) o home = lineByte l o home := by
  unfold startLine
  split
  · next h => simp [lineByte, h, L1Line.empty]
  · rfl

/-- A line is whole: it holds 128 bytes, or nothing. -/
def LineOk (l : L1Line) : Prop := l.upd = none ∧ (l.valid = 0 ∨ l.bytes.length = 128)

theorem startLine_ok {l : L1Line} (h : LineOk l) : (startLine l).upd = none ∧ (startLine l).bytes.length = 128 := by
  unfold startLine
  split
  · exact ⟨rfl, by simp⟩
  · next hv => exact ⟨h.1, h.2.resolve_left hv⟩

theorem lineOk_of {s : State} (hpart : NoPartials s) (hlines : LinesOk s) (c n : Nat) : LineOk (lookupD L1Line.empty (s.core c).lines n) := by
  have hupd : (lookupD L1Line.empty (s.core c).lines n).upd = none := by
    by_contra hne
    have hmem : c ∈ s.holders n := by
      unfold State.holders
      have hsome : (lookupD L1Line.empty (s.core c).lines n).upd.isSome := Option.isSome_iff_ne_none.mpr hne
      unfold State.core at hsome
      revert hsome
      generalize s.cores = cs
      induction cs with
      | nil => exact fun h => absurd h Bool.false_ne_true
      | cons e cs ih =>
        obtain ⟨k, v⟩ := e
        rw [lookupD]
        split
        · next heq => intro hsome; simp [heq, hsome]
        · intro hsome
          have := ih hsome
          simp only [List.mem_map, List.mem_filter] at this ⊢
          obtain ⟨e, ⟨he, hp⟩, rfl⟩ := this
          exact ⟨e, ⟨List.mem_cons_of_mem _ he, hp⟩, rfl⟩
    rw [hpart n] at hmem
    exact absurd hmem (by simp)
  exact ⟨hupd, (hlines c n).imp (fun h => h.1) id⟩

/-- The lines of a core's L1 once a line holds a range. -/
theorem view_withLine (s : State) (core a n : Nat) (hok : LineOk (lookupD L1Line.empty (s.core core).lines (a / 128))) (c b : Nat) :
    view (s.withCore core (withLine s core a n)) c b = view s c b := by
  obtain ⟨hupd, hlen⟩ := startLine_ok hok
  have hsame := sameLine_withSectors s a n hupd hlen
  rw [view_eq, view_eq]
  change lineByte _ _ (s.byteAt b) = _
  by_cases hb : b / 128 = a / 128
  · by_cases hc : c = core
    · subst hc
      rw [State.core_withCore_same]
      have hline : lookupD L1Line.empty (withLine s c a n).lines (b / 128) =
          withSectors s a n (startLine (lookupD L1Line.empty (s.core c).lines (a / 128))) := by
        rw [hb]
        exact lookupD_storeAt_same ..
      have hbyte : s.byteAt b = s.byteAt (a / 128 * 128 + b % 128) := by congr 1; omega
      rw [hline, hbyte, hsame.shows _ (Nat.mod_lt _ (by omega)), lineByte_startLine, hb]
    · rw [State.core_withCore_ne _ _ _ _ hc]
  · rw [show withLine s core a n = putLine (s.core core) (a / 128) _ from rfl, line_withCore s core (a / 128) _ hb]

end Sys2Proof.Claims
end

section
/-! SUPPORT. Loads through the L1 and at the home (R74, R100, R108, R110, R307). -/

namespace Sys2Proof.Claims

open Sys2Proof.Machine

/-! ## What an L1 may change unseen -/

/-- `v` is `u` but for what the cores hold, of which every core sees the same bytes. -/
structure Near (u v : State) : Prop where
  cur : v.cur = u.cur
  strands : v.strands = u.strands
  rest : v.rest = u.rest
  view : ∀ c b, view v c b = view u c b

theorem Near.refl (s : State) : Near s s := ⟨rfl, rfl, rfl, fun _ _ => rfl⟩

theorem Near.trans {s u v : State} (h : Near s u) (h' : Near u v) : Near s v :=
  ⟨h'.cur.trans h.cur, h'.strands.trans h.strands, h'.rest.trans h.rest, fun c b => (h'.view c b).trans (h.view c b)⟩

theorem Near.strand {u v : State} (h : Near u v) (b : Nat) : v.strand b = u.strand b := congrArg (lookupD _ · b) h.strands

theorem Near.self {u v : State} (h : Near u v) : v.self = u.self := by
  unfold State.self
  rw [h.cur, h.strand]

theorem Near.viewBytes {u v : State} (h : Near u v) (c a n : Nat) : v.viewBytes c a n = u.viewBytes c a n := by
  rw [viewBytes_eq, viewBytes_eq]
  exact List.map_congr_left fun i _ => h.view c (a + i)

theorem near_withCore (s : State) (core : Nat) (c : CoreState) (hlines : c.lines = (s.core core).lines) : Near s (s.withCore core c) := by
  refine ⟨rfl, rfl, rfl, view_congr (s := s.withCore core c) (u := s) (fun k => ?_) rfl⟩
  by_cases hk : k = core
  · subst hk; rw [State.core_withCore_same, hlines]
  · rw [State.core_withCore_ne _ _ _ _ hk]

theorem near_countCore (s : State) (core code n : Nat) : Near s (s.countCore core code n) := by
  have h := near_withCore s core { s.core core with counters := (addEvents core 0 code n (s.core core).counters).1 } rfl
  exact ⟨rfl, rfl, rfl, h.view⟩

theorem near_acquired_core (s : State) (ord : Nat) : Near s (acquired s ord 1) := by
  unfold acquired
  split
  · exact near_withCore s (coreOf s.cur) { s.core (coreOf s.cur) with code := [] } rfl
  · exact .refl s

theorem lines_countCore (s : State) (core code n : Nat) : ((s.countCore core code n).core core).lines = (s.core core).lines := by
  have h : (s.countCore core code n).core core = { s.core core with counters := (addEvents core 0 code n (s.core core).counters).1 } :=
    State.core_withCore_same ..
  rw [h]

/-- The L1 of a core once it holds a range of a line, which no core can tell. -/
def fillFor (s : State) (core a n : Nat) : State :=
  let u := s.l1Room core (a / 128)
  let u := if (lookupD L1Line.empty (u.core core).lines (a / 128)).covers (a % 128) n then u else u.countCore core 3 1
  u.withCore core (withLine u core a n)

theorem fillLine_noPartials {s : State} (h : NoPartials s) (core a n : Nat) : fillLine core a n s = .ok () (fillFor s core a n) := by
  rw [fillLine_run, fillFor]
  unfold missed
  rw [recall_noPartials h]

theorem near_fillFor {s : State} {core a : Nat} (hok : LineOk (lookupD L1Line.empty (s.core core).lines (a / 128))) (n : Nat) :
    Near (s.l1Room core (a / 128)) (fillFor s core a n) := by
  have hline := line_l1Room s core (a / 128) core
  unfold fillFor
  dsimp only
  have hgen : ∀ u : State, Near (s.l1Room core (a / 128)) u → (u.core core).lines = ((s.l1Room core (a / 128)).core core).lines →
      Near (s.l1Room core (a / 128)) (u.withCore core (withLine u core a n)) := by
    intro u hu hl
    refine hu.trans ⟨rfl, rfl, rfl, fun c b => view_withLine u core a n ?_ c b⟩
    rw [hl, hline]
    exact hok
  split
  · exact hgen _ (.refl _) rfl
  · exact hgen _ (near_countCore ..) (lines_countCore ..)

/-! ## Reads -/

/-- Bytes in one line, none of which fails: the L1 and the home raise nothing. -/
theorem checkRead_run {s : State} {core a k : Nat} (hk : k = 1 ∨ k = 2 ∨ k = 4 ∨ k = 8 ∨ k = 16) (ha : a % k = 0)
    (hbad : s.firstBad a k = none) (hsound : (lookupD L1Line.empty (s.core core).lines (a / 128)).fails = []) (va : Nat) :
    checkRead core va a k s = .ok () s := by
  have hheld (x : Nat) : checkHeld core x a k s = .ok () s := by
    refine (M.bind_ok (M.get_run s)).trans ?_
    rw [L1Line.failing, hsound]
    rfl
  have hhome (x : Nat) : checkSectors x a k s = .ok () s := by
    unfold checkSectors
    rw [hbad]
  unfold checkRead
  rw [M.bind_ok (M.get_run s), lineParts_aligned hk ha, List.forIn_cons, bind_assoc]
  dsimp only
  split
  · rw [bind_assoc, M.bind_ok (hheld _)]; rfl
  · rw [bind_assoc, M.bind_ok (hhome _)]; rfl

/-- A load through the L1. -/
theorem cachedRead_near {s : State} {core a k : Nat} (hcore : coreOf s.cur = core) (hk : k = 1 ∨ k = 2 ∨ k = 4 ∨ k = 8 ∨ k = 16) (ha : a % k = 0)
    (hpart : NoPartials s) (hok : LineOk (lookupD L1Line.empty (s.core core).lines (a / 128))) (hbad : s.firstBad a k = none)
    (hsound : (lookupD L1Line.empty (s.core core).lines (a / 128)).fails = []) {m : Manner} (hscope : m.scope = 1) (hnt : m.nt = false)
    (va : Nat) : ∃ tag, cachedRead va a k m false s = .ok ((s.l1Room core (a / 128)).viewBytes core a k, tag) (fillFor s core a k) := by
  have hnear := near_fillFor hok k
  unfold cachedRead
  rw [M.bind_ok (M.get_run s), if_pos (by simp [hscope]), hcore, M.bind_ok (checkRead_run hk ha hbad hsound va), lineParts_aligned hk ha,
    List.forIn_cons]
  simp only [hnt, Bool.false_and, Bool.false_eq_true, if_false, bind_assoc, pure_bind, List.forIn_nil]
  rw [M.bind_ok (M.get_run s), M.bind_ok (fillLine_noPartials hpart core a k), M.bind_ok (M.get_run _), hnear.viewBytes]
  exact ⟨_, rfl⟩

/-- A load at the home, behind the core's own bytes. -/
theorem cachedRead_home {s : State} {core a k : Nat} (hcore : coreOf s.cur = core) (hk : k = 1 ∨ k = 2 ∨ k = 4 ∨ k = 8 ∨ k = 16) (ha : a % k = 0)
    (hpart : NoPartials (s.leaveLine core (a / 128))) (hbad : (s.leaveLine core (a / 128)).firstBad a k = none) {m : Manner} {nc : Bool}
    (hhome : m.scope ≠ 1 ∨ nc = true) (va : Nat) :
    cachedRead va a k m nc s = .ok ((s.leaveLine core (a / 128)).bytesAt a k, (s.leaveLine core (a / 128)).tagAt a) (s.leaveLine core (a / 128)) := by
  have hcheck : checkSectors va a k (s.leaveLine core (a / 128)) = .ok () (s.leaveLine core (a / 128)) := by
    unfold checkSectors
    rw [hbad]
  unfold cachedRead
  rw [M.bind_ok (M.get_run s), if_neg (by simp only [Bool.and_eq_true, decide_eq_true_eq, Bool.not_eq_true']; rintro ⟨h1, h2⟩; exact hhome.elim (· h1) (by simp [h2])),
    hcore, lineParts_aligned hk ha, List.forIn_cons]
  simp only [bind_assoc, pure_bind, List.forIn_nil]
  rw [M.bind_ok (M.modify_run ..), M.bind_ok hcheck, M.bind_ok (homeRead_run hpart a k), M.bind_ok (M.get_run _)]
  rfl

/-- A load where no L1 holds the bytes. -/
theorem loadBytes_direct {s : State} {p a k : Nat} {e : Word} (hpkg : pkgOf p = s.pkg) (hloc : localOf p = a) (he : pteM e = false)
    (hplace : Direct a) (hpart : NoPartials s) (hbad : s.firstBad a k = none) (va : Nat) (m : Manner) (tenant : BitVec 12) :
    loadBytes va p k m e tenant s = .ok (s.bytesAt a k, s.tagAt a) s := by
  have hcheck : checkSectors va a k s = .ok () s := by
    unfold checkSectors
    rw [hbad]
  have hmirror : mirrorLoad p e s = .ok p s := by
    unfold mirrorLoad
    rw [M.bind_ok (M.get_run s), he]
    rfl
  unfold loadBytes
  rw [M.bind_ok hmirror, M.bind_ok (M.get_run s), if_neg (by rw [hpkg]; simp), hloc]
  rcases hplace with ⟨c, o, hp⟩ | ⟨q, l, o, hp⟩ <;> rw [hp] <;> dsimp only <;>
    rw [M.bind_ok hcheck, M.bind_ok (homeRead_run hpart a k)] <;> rfl

theorem loadBytes_cached {s : State} {p a k : Nat} {e : Word} (hpkg : pkgOf p = s.pkg) (hloc : localOf p = a) (he : pteM e = false)
    (hplace : cacheable a) (va : Nat) (m : Manner) (tenant : BitVec 12) :
    loadBytes va p k m e tenant s = cachedRead va a k m (pteNc e) s := by
  have hmirror : mirrorLoad p e s = .ok p s := by
    unfold mirrorLoad
    rw [M.bind_ok (M.get_run s), he]
    rfl
  unfold loadBytes
  rw [M.bind_ok hmirror, M.bind_ok (M.get_run s), if_neg (by rw [hpkg]; simp), hloc]
  unfold cacheable at hplace
  cases hp : place a with
  | dram => simp only [he, Bool.or_false]
  | dieSpad d => simp only [he, Bool.or_false]
  | _ => rw [hp] at hplace; exact absurd hplace Bool.false_ne_true

/-! ## What the cores see of an access -/

theorem Twin.view {s : State} {t r : Strand} {u v : State} (h : Twin s t r u v) (c b : Nat) : Claims.view v c b = Claims.view u c b := by
  rw [h.rest]; rfl

theorem Twin.near {s : State} {t r : Strand} {u v y : State} (h : Twin s t r u v) (hy : Near v y) : y.cur = s.cur ∧
    (∀ b, b ≠ s.cur → y.strand b = u.strand b) ∧ y.rest = u.rest ∧ (∀ c b, Claims.view y c b = Claims.view u c b) ∧
    ∃ w, u.self = wokenIf t w ∧ y.self = wokenIf r w := by
  obtain ⟨w, hu, hv⟩ := h.woken
  refine ⟨hy.cur.trans h.cur, fun b hb => (hy.strand b).trans (h.other b hb), hy.rest.trans (by rw [h.rest]; rfl),
    fun c b => (hy.view c b).trans (h.view c b), w, hu, hy.self.trans hv⟩

section
variable {i : Instr} {s u v y : State} {d : Desc} {body : M Unit}
variable (hx : exec i s = runOp d body s) (hl : d.steer ≠ .lanes) (hc : s.self.Clear d.regs)
include hx hl hc

/-- An operation that completes in a state near one leaves the cores' bytes, but for those that `y` shows changed. -/
theorem sees_of_run {t : Strand} {a : Nat} {bs : List Byte} (hb : body (s.withSelf (s.self.begun d)) = .ok () y) (hcur : y.cur = s.cur)
    (hpcc : y.self.pcc = s.self.pcc) (hn : y.self.instret = s.self.instret) (hir : y.self.ir = s.self.ir) (hapart : y.self.apart = none)
    (hphys : ∀ p, y.self.phys p = t.phys p) (hstill : y.self.still = t.still) (hother : ∀ b, b ≠ s.cur → y.strand b = u.strand b)
    (hrest : y.rest = u.rest) (hview : ∀ c b, view y c b =
      if c = coreOf s.cur ∧ a ≤ b ∧ b < a + bs.length then bs.getD (b - a) 0 else view u c b) : Sees i s u t a bs := by
  have hnext : y.self.pccAt y.self.npc = s.self.pccAt s.self.npc := by simp only [Strand.pccAt, Strand.npc, Strand.pc, hpcc, hir]
  refine ⟨_, hx.trans (runOp_ok hl hc hb), (State.commit_cur ..).trans hcur, ?_, ?_, fun p => ?_, ?_, fun b hne => ?_, ?_, fun c b => ?_⟩
  · rw [State.self_commit_next _ _ _ hapart, Strand.complete_pcc, hnext]
  · rw [State.self_commit_next _ _ _ hapart, Strand.complete_instret, hn]
  · rw [State.self_commit_next _ _ _ hapart, Strand.complete_phys, hphys]
  · rw [State.self_commit_next _ _ _ hapart, Strand.still_complete, hstill]
  · rw [State.strand_commit_ne _ _ _ _ _ _ (hcur ▸ hne), hother b hne]
  · rw [State.rest_commit, hrest]
  · rw [← hview c b]
    exact view_congr (fun k => (State.core_commit y s d 0 .next k).1) 
      (congrArg State.mem (State.rest_commit y s d 0 .next) : (y.commit s d 0 .next).rest.mem = y.rest.mem) c b

/-- A load in a state near the twin of `u`. -/
theorem sees_of_load {a n : Nat} {x : Reg} (hb : body (s.withSelf (s.self.begun d)) = .ok () (y.withSelf (y.self.putW n x)))
    (h : Twin s s.self (s.self.begun d) u v) (hy : Near v y) : Sees i s u (u.self.putW n x) a [] := by
  obtain ⟨hcur, hother, hrest, hview, w, hu, hw⟩ := h.near hy
  obtain ⟨-, -, htogether, -⟩ := id hc
  have hself : (y.withSelf (y.self.putW n x)).self = (wokenIf (s.self.begun d) w).putW n x := by rw [State.self_withSelf, hw]
  refine sees_of_run hx hl hc hb hcur ?_ ?_ ?_ ?_ (fun p => ?_) ?_ (fun b hne => ?_) hrest fun c b => ?_ <;> try rw [hself]
  · rfl
  · rfl
  · rfl
  · exact htogether
  · rw [hu]; rfl
  · rw [hu]; rfl
  · rw [State.strand_withSelf_ne _ _ _ (hcur ▸ hne), hother b hne]
  · rw [if_neg (by simp only [List.length_nil]; omega), ← hview c b]
    rfl

end

/-! ## `ld` -/

theorem kind_of_checkFault {s : State} {c : Reg} {perm : BitVec 12} {n k : Nat} (h : checkFault s c perm [k] n = none) : Cap.kind c.val = k := by
  unfold checkFault at h
  dsimp only at h
  split_ifs at h with h1 h2 h3
  by_contra hne
  exact h3 (.inl (by simpa using hne))

section Ld
variable {o : OpRX} {m : MemMod} {s : State} {a k : Nat} {e : Word} (h : Issues s [o.a, o.b]) (hk : m.width.toNat ≤ 3)
variable (hkm : widthBytes m.width = k) (hopens : Opens s (at2 s o) Cap.ld k a e)
include h hk hkm hopens

/-- `ld` up to its read. -/
theorem ld_eq : ∃ p body, exec (.ld o m) s = runOp ⟨o.st, 0, .access, [wDst o.a, wSrc o.b]⟩ body s ∧ pkgOf p = s.pkg ∧ localOf p = a ∧
    pteM e = false ∧ a % k = 0 ∧ ∀ {bs : List Byte} {tag : Bool} {y : State},
      loadBytes (Cap.cursor (at2 s o).val) p k (mannerOf m) e (Cap.tenant (at2 s o).val)
        (s.withSelf (s.self.begun ⟨o.st, 0, .access, [wDst o.a, wSrc o.b]⟩)) = .ok (bs, tag) y →
      body (s.withSelf (s.self.begun ⟨o.st, 0, .access, [wDst o.a, wSrc o.b]⟩)) =
        .ok () ((acquired y m.ord.toNat m.scope.toNat).withSelf ((acquired y m.ord.toNat m.scope.toNat).self.putW o.a.toNat
          (Reg.ofWord (extendTo64 m.sx k (leNat bs))))) := by
  obtain ⟨p, haccess, hpkg, hloc, he, halign⟩ := hopens.place (hkm ▸ widthBytes_cases hk)
  have hkind : Cap.kind (at2 s o).val = Cap.kMemory := kind_of_checkFault hopens.1
  let v := s.withSelf (s.self.begun ⟨o.st, 0, .access, [wDst o.a, wSrc o.b]⟩)
  have hreads : SameReads v.self s.self := by rw [State.self_withSelf]; exact .begun ..
  refine ⟨p, _, rfl, hpkg, hloc, he, halign, fun {bs tag y} hload => ?_⟩
  rw [M.bind_ok (addressRX_run h hreads 0)]
  dsimp only
  rw [if_neg (by rw [hkind]; simp [Cap.kMemory, Cap.kQueue]), hkm]
  unfold loadThrough
  simp only [bind_assoc, pure_bind]
  rw [M.bind_ok (haccess v (by rw [State.self_withSelf]; rfl) rfl rfl), M.bind_ok hload]
  exact (M.bind_ok (ordAcquire_run ..)).trans (writeW_run ..)

theorem ld_direct (hplace : Direct a) (hpart : NoPartials s) (hbad : s.firstBad a k = none) :
    let u := acquired s m.ord.toNat m.scope.toNat
    Leads (.ld o m) s (u.withSelf (u.self.putW o.a.toNat (Reg.ofWord (got k m.sx (s.bytesAt a k))))) := by
  obtain ⟨p, body, hx, hpkg, hloc, he, -, hbody⟩ := ld_eq h hk hkm hopens
  have htwin := Twin.begun s ⟨o.st, 0, .access, [wDst o.a, wSrc o.b]⟩
  have hrun := hbody (loadBytes_direct (s := s.withSelf (s.self.begun ⟨o.st, 0, .access, [wDst o.a, wSrc o.b]⟩))
    hpkg hloc he hplace (htwin.noPartials hpart) ((htwin.firstBad a k).trans hbad) ..)
  rw [htwin.bytesAt, extendTo64_eq _ (bytesAt_lt ..)] at hrun
  exact leads_of_twin_putW hx Steer.noConfusion (h.clear (by simp [wDst, wSrc])) hrun (keeps2_acquired _ _ htwin)

theorem ld_home (hplace : cacheable a) (hhome : m.scope ≠ 1 ∨ pteNc e = true) (hpart : NoPartials (s.leaveLine (coreOf s.cur) (a / 128)))
    (hbad : (s.leaveLine (coreOf s.cur) (a / 128)).firstBad a k = none) :
    let u := s.leaveLine (coreOf s.cur) (a / 128)
    let t := acquired u m.ord.toNat m.scope.toNat
    Leads (.ld o m) s (t.withSelf (t.self.putW o.a.toNat (Reg.ofWord (got k m.sx (u.bytesAt a k))))) := by
  obtain ⟨p, body, hx, hpkg, hloc, he, halign, hbody⟩ := ld_eq h hk hkm hopens
  have hleft := keeps2_leaveLine (coreOf s.cur) (a / 128) (Twin.begun s ⟨o.st, 0, .access, [wDst o.a, wSrc o.b]⟩)
  have hscope : (mannerOf m).scope ≠ 1 ∨ pteNc e = true := hhome.imp_left fun hne h1 => hne (BitVec.eq_of_toNat_eq h1)
  have hrun := hbody ((loadBytes_cached (s := s.withSelf (s.self.begun ⟨o.st, 0, .access, [wDst o.a, wSrc o.b]⟩))
    hpkg hloc he hplace ..).trans
    (cachedRead_home rfl (hkm ▸ widthBytes_cases hk) halign (hleft.noPartials hpart) ((hleft.firstBad a k).trans hbad) hscope _))
  rw [show ((s.withSelf (s.self.begun ⟨o.st, 0, .access, [wDst o.a, wSrc o.b]⟩)).leaveLine (coreOf (s.withSelf (s.self.begun ⟨o.st, 0, .access, [wDst o.a, wSrc o.b]⟩)).cur) (a / 128)).bytesAt a k =
    (s.leaveLine (coreOf s.cur) (a / 128)).bytesAt a k from hleft.bytesAt a k, extendTo64_eq _ (bytesAt_lt ..)] at hrun
  exact leads_of_twin_putW hx Steer.noConfusion (h.clear (by simp [wDst, wSrc])) hrun (keeps2_acquired _ _ hleft)

theorem ld_near (hplace : cacheable a) (hscope : m.scope = 1) (hnt : m.nt = false) (hnc : pteNc e = false) (hpart : NoPartials s)
    (hlines : LinesOk s) (hbad : s.firstBad a k = none) (hsound : Sound s a) :
    let u := roomFor s a
    Sees (.ld o m) s u (u.self.putW o.a.toNat (Reg.ofWord (got k m.sx (u.viewBytes (coreOf s.cur) a k)))) a [] := by
  intro u
  obtain ⟨p, body, hx, hpkg, hloc, he, halign, hbody⟩ := ld_eq h hk hkm hopens
  have htwin := Twin.begun s ⟨o.st, 0, .access, [wDst o.a, wSrc o.b]⟩
  have hroom := keeps2_l1Room (coreOf s.cur) (a / 128) htwin
  have hok := lineOk_of hpart hlines (coreOf s.cur) (a / 128)
  obtain ⟨tag, hread⟩ := cachedRead_near (s := s.withSelf (s.self.begun ⟨o.st, 0, .access, [wDst o.a, wSrc o.b]⟩)) rfl
    (hkm ▸ widthBytes_cases hk) halign (htwin.noPartials hpart) (by rw [htwin.core]; exact hok) ((htwin.firstBad a k).trans hbad)
    (by rw [htwin.core]; exact hsound) (m := mannerOf m) (congrArg BitVec.toNat hscope) hnt (Cap.cursor (at2 s o).val)
  have hload := loadBytes_cached (k := k) hpkg hloc he hplace (Cap.cursor (at2 s o).val) (mannerOf m) (Cap.tenant (at2 s o).val)
    (s := s.withSelf (s.self.begun ⟨o.st, 0, .access, [wDst o.a, wSrc o.b]⟩))
  rw [hnc] at hload
  have hrun := hbody (hload.trans hread)
  have hviewed : ((s.withSelf (s.self.begun ⟨o.st, 0, .access, [wDst o.a, wSrc o.b]⟩)).l1Room (coreOf s.cur) (a / 128)).viewBytes
      (coreOf s.cur) a k = u.viewBytes (coreOf s.cur) a k := hroom.viewBytes ..
  have hlt : leNat (u.viewBytes (coreOf s.cur) a k) < 2 ^ (8 * k) := by
    have := leNat_lt (u.viewBytes (coreOf s.cur) a k)
    rwa [viewBytes_eq, List.length_map, List.length_range] at this
  have hcur : (s.withSelf (s.self.begun ⟨o.st, 0, .access, [wDst o.a, wSrc o.b]⟩)).cur = s.cur := rfl
  rw [hcur, hviewed, extendTo64_eq _ hlt, hscope] at hrun
  have hnear := (near_fillFor (s := s.withSelf (s.self.begun ⟨o.st, 0, .access, [wDst o.a, wSrc o.b]⟩)) (by rw [htwin.core]; exact hok) k).trans
    (near_acquired_core (fillFor (s.withSelf (s.self.begun ⟨o.st, 0, .access, [wDst o.a, wSrc o.b]⟩)) (coreOf s.cur) a k) m.ord.toNat)
  exact sees_of_load hx Steer.noConfusion (h.clear (by simp [wDst, wSrc])) hrun hroom hnear

end Ld

/-! ## `ldc` -/

section Ldc
variable {o : OpRX} {m : MemMod} {s : State} {a : Nat} {e : Word} (h : Issues s [o.a, o.b])
variable (hopens : Opens s (at2 s o) (Cap.ld ||| Cap.lc) 16 a e)
include h hopens

/-- `ldc` up to its read. -/
theorem ldc_eq : ∃ p body, exec (.ldc o m) s = runOp ⟨o.st, 0, .access, [wDst o.a, wSrc o.b]⟩ body s ∧ pkgOf p = s.pkg ∧ localOf p = a ∧
    pteM e = false ∧ a % 16 = 0 ∧ ∀ {bs : List Byte} {tag : Bool} {y : State},
      loadBytes (Cap.cursor (at2 s o).val) p 16 (mannerOf m) e (Cap.tenant (at2 s o).val)
        (s.withSelf (s.self.begun ⟨o.st, 0, .access, [wDst o.a, wSrc o.b]⟩)) = .ok (bs, tag) y →
      body (s.withSelf (s.self.begun ⟨o.st, 0, .access, [wDst o.a, wSrc o.b]⟩)) =
        .ok () ((acquired y m.ord.toNat m.scope.toNat).withSelf ((acquired y m.ord.toNat m.scope.toNat).self.putW o.a.toNat
          ⟨BitVec.ofNat 128 (leNat bs), tag⟩)) := by
  obtain ⟨p, haccess, hpkg, hloc, he, halign⟩ := hopens.place (by simp)
  let v := s.withSelf (s.self.begun ⟨o.st, 0, .access, [wDst o.a, wSrc o.b]⟩)
  have hreads : SameReads v.self s.self := by rw [State.self_withSelf]; exact .begun ..
  refine ⟨p, _, rfl, hpkg, hloc, he, halign, fun {bs tag y} hload => ?_⟩
  rw [M.bind_ok (addressRX_run h hreads 0)]
  unfold loadThrough
  simp only [bind_assoc, pure_bind]
  rw [M.bind_ok (haccess v (by rw [State.self_withSelf]; rfl) rfl rfl), M.bind_ok hload]
  exact (M.bind_ok (ordAcquire_run ..)).trans (writeW_run ..)

theorem ldc_direct (hplace : Direct a) (hpart : NoPartials s) (hbad : s.firstBad a 16 = none) :
    let u := acquired s m.ord.toNat m.scope.toNat
    Leads (.ldc o m) s (u.withSelf (u.self.putW o.a.toNat ⟨BitVec.ofNat 128 (leNat (s.bytesAt a 16)), s.tagAt a⟩)) := by
  obtain ⟨p, body, hx, hpkg, hloc, he, -, hbody⟩ := ldc_eq (m := m) h hopens
  have htwin := Twin.begun s ⟨o.st, 0, .access, [wDst o.a, wSrc o.b]⟩
  have hrun := hbody (loadBytes_direct (s := s.withSelf (s.self.begun ⟨o.st, 0, .access, [wDst o.a, wSrc o.b]⟩))
    hpkg hloc he hplace (htwin.noPartials hpart) ((htwin.firstBad a 16).trans hbad) ..)
  rw [htwin.bytesAt, htwin.tagAt] at hrun
  exact leads_of_twin_putW hx Steer.noConfusion (h.clear (by simp [wDst, wSrc])) hrun (keeps2_acquired _ _ htwin)

theorem ldc_home (hplace : cacheable a) (hhome : m.scope ≠ 1 ∨ pteNc e = true) (hpart : NoPartials (s.leaveLine (coreOf s.cur) (a / 128)))
    (hbad : (s.leaveLine (coreOf s.cur) (a / 128)).firstBad a 16 = none) :
    let u := s.leaveLine (coreOf s.cur) (a / 128)
    let t := acquired u m.ord.toNat m.scope.toNat
    Leads (.ldc o m) s (t.withSelf (t.self.putW o.a.toNat ⟨BitVec.ofNat 128 (leNat (u.bytesAt a 16)), u.tagAt a⟩)) := by
  obtain ⟨p, body, hx, hpkg, hloc, he, halign, hbody⟩ := ldc_eq (m := m) h hopens
  have hleft := keeps2_leaveLine (coreOf s.cur) (a / 128) (Twin.begun s ⟨o.st, 0, .access, [wDst o.a, wSrc o.b]⟩)
  have hscope : (mannerOf m).scope ≠ 1 ∨ pteNc e = true := hhome.imp_left fun hne h1 => hne (BitVec.eq_of_toNat_eq h1)
  have hrun := hbody ((loadBytes_cached (s := s.withSelf (s.self.begun ⟨o.st, 0, .access, [wDst o.a, wSrc o.b]⟩))
    hpkg hloc he hplace ..).trans
    (cachedRead_home rfl (by simp) halign (hleft.noPartials hpart) ((hleft.firstBad a 16).trans hbad) hscope _))
  have hbytes : ((s.withSelf (s.self.begun ⟨o.st, 0, .access, [wDst o.a, wSrc o.b]⟩)).leaveLine (coreOf s.cur) (a / 128)).bytesAt a 16 =
    (s.leaveLine (coreOf s.cur) (a / 128)).bytesAt a 16 := hleft.bytesAt a 16
  have htag : ((s.withSelf (s.self.begun ⟨o.st, 0, .access, [wDst o.a, wSrc o.b]⟩)).leaveLine (coreOf s.cur) (a / 128)).tagAt a =
    (s.leaveLine (coreOf s.cur) (a / 128)).tagAt a := hleft.tagAt a
  have hcur : (s.withSelf (s.self.begun ⟨o.st, 0, .access, [wDst o.a, wSrc o.b]⟩)).cur = s.cur := rfl
  rw [hcur, hbytes, htag] at hrun
  exact leads_of_twin_putW hx Steer.noConfusion (h.clear (by simp [wDst, wSrc])) hrun (keeps2_acquired _ _ hleft)

end Ldc

/-! ## `ldk` -/

theorem got_plain (bs : List Byte) : got 8 false bs = BitVec.ofNat 64 (leNat bs) := by
  simp [got]

section Ldk
variable {o : OpRI} {s : State} (h : Issues s [o.a])

/-- The address of `ldk`. -/
def constantAt (s : State) (o : OpRI) : Nat := (((s.self.pc : Int) + o.imm.toInt) % 2 ^ 48).toNat

/-- Whether the 8 bytes there lie within the PCC's bounds. -/
def ConstantInside (s : State) (o : OpRI) : Prop :=
  Cap.base s.self.pcc.val ≤ constantAt s o ∧ (constantAt s o : Int) + 8 ≤ Cap.top s.self.pcc.val

/-- A read whose failure is reported with the address of `ldk`. -/
def reported (va : Nat) (m : M (List Byte × Bool)) : M (List Byte × Bool) := fun s =>
  match m s with
  | .error (.trap c v v2) u => .error (.trap c (if c = cEcc || c = cInteg then BitVec.ofNat 64 va else v) v2) u
  | r => r

theorem reported_ok {m : M (List Byte × Bool)} {u v : State} {r : List Byte × Bool} (h : m u = .ok r v) (va : Nat) :
    reported va m u = .ok r v := by
  unfold reported
  rw [h]

/-- `ldk` behind its translation. -/
def constantRest (o : OpRI) (va : Nat) (tenant : BitVec 12) (pe : Nat × Word) : M Unit := do
  let s ← get
  match place (localOf pe.1) with
  | .port _ => raiseIf (pkgOf pe.1 = s.pkg) cPerm va
  | _ => pure ()
  let (bs, _) ← reported va (loadBytes va pe.1 8 Manner.plain pe.2 tenant)
  writeX o.a (BitVec.ofNat 64 (leNat bs))

theorem constantRest_run {o : OpRI} {va p : Nat} {tenant : BitVec 12} {e : Word} {bs : List Byte} {tag : Bool} {u v : State}
    (hplace : cacheable (localOf p)) (hload : loadBytes va p 8 Manner.plain e tenant u = .ok (bs, tag) v) :
    constantRest o va tenant (p, e) u = .ok () (v.withSelf (v.self.putW o.a.toNat (Reg.ofWord (BitVec.ofNat 64 (leNat bs))))) := by
  unfold constantRest
  rw [M.bind_ok (M.get_run u)]
  unfold cacheable at hplace
  cases hp : place (localOf p) with
  | dram | dieSpad _ =>
    exact M.bind_ok (reported_ok hload va)
  | _ => rw [hp] at hplace; exact absurd hplace Bool.false_ne_true

/-- `ldk` is its two checks, the translation, and the rest. -/
theorem ldk_eq (o : OpRI) (s : State) : ∃ body : M Unit, exec (.ldk o) s = runOp ⟨o.st, 0, .access, [wDst o.a]⟩ body s ∧
    body (s.withSelf (s.self.begun ⟨o.st, 0, .access, [wDst o.a]⟩)) = (do
      raiseIf (decide (constantAt s o % 8 ≠ 0)) cAlign (constantAt s o)
      raiseIf (decide (Cap.base s.self.pcc.val > constantAt s o) || decide ((constantAt s o : Int) + 8 > Cap.top s.self.pcc.val)) cBounds
        (constantAt s o)
      let pe ← translate (Cap.tenant s.self.pcc.val) (constantAt s o) Cap.x
      constantRest o (constantAt s o) (Cap.tenant s.self.pcc.val) pe) (s.withSelf (s.self.begun ⟨o.st, 0, .access, [wDst o.a]⟩)) := by
  refine ⟨_, rfl, ?_⟩
  rw [M.bind_ok (self_run _), State.self_withSelf]
  rfl

include h

theorem ldk_traps_align (ha : constantAt s o % 8 ≠ 0) : Traps (.ldk o) s cAlign (constantAt s o) := by
  obtain ⟨body, hx, hbody⟩ := ldk_eq o s
  exact traps_of_runOp hx Steer.noConfusion (h.clear (by simp [wDst])) (hbody.trans (M.bind_error (raiseIf_of (decide_eq_true ha) ..)))
    (by decide)

theorem ldk_traps_bounds (ha : constantAt s o % 8 = 0) (hout : ¬ConstantInside s o) : Traps (.ldk o) s cBounds (constantAt s o) := by
  obtain ⟨body, hx, hbody⟩ := ldk_eq o s
  have hb : (decide (Cap.base s.self.pcc.val > constantAt s o) || decide ((constantAt s o : Int) + 8 > Cap.top s.self.pcc.val)) = true := by
    rw [Bool.or_eq_true, decide_eq_true_iff, decide_eq_true_iff]
    by_contra hno
    rw [not_or, not_lt, not_lt] at hno
    exact hout hno
  exact traps_of_runOp hx Steer.noConfusion (h.clear (by simp [wDst])) (hbody.trans
    ((M.bind_ok (raiseIf_of_not (by simpa using ha) ..)).trans (M.bind_error (raiseIf_of hb ..)))) (by decide)

theorem ldk_near {p : Nat} {e : Word} (halign : constantAt s o % 8 = 0) (hinside : ConstantInside s o)
    (hm : Maps s (Cap.tenant s.self.pcc.val) (constantAt s o) Cap.x p e) (hpkg : pkgOf p = s.pkg) (he : pteM e = false)
    (hnc : pteNc e = false) (hplace : cacheable (localOf p)) (hpart : NoPartials s) (hlines : LinesOk s)
    (hbad : s.firstBad (localOf p) 8 = none) (hsound : Sound s (localOf p)) :
    let u := roomFor s (localOf p)
    Sees (.ldk o) s u (u.self.putW o.a.toNat (Reg.ofWord (got 8 false (u.viewBytes (coreOf s.cur) (localOf p) 8)))) (localOf p) [] := by
  intro u
  obtain ⟨body, hx, hbody⟩ := ldk_eq o s
  have htwin := Twin.begun s ⟨o.st, 0, .access, [wDst o.a]⟩
  have hroom := keeps2_l1Room (coreOf s.cur) (localOf p / 128) htwin
  have hok := lineOk_of hpart hlines (coreOf s.cur) (localOf p / 128)
  have hlocal : localOf p % 8 = 0 := by have := hm.aligned; omega
  obtain ⟨tag, hread⟩ := cachedRead_near (s := s.withSelf (s.self.begun ⟨o.st, 0, .access, [wDst o.a]⟩)) rfl
    (by simp) hlocal (htwin.noPartials hpart) (by rw [htwin.core]; exact hok) ((htwin.firstBad _ 8).trans hbad)
    (by rw [htwin.core]; exact hsound) (m := Manner.plain) rfl rfl (constantAt s o)
  have hload := loadBytes_cached (k := 8) hpkg rfl he hplace (constantAt s o) Manner.plain (Cap.tenant s.self.pcc.val)
    (s := s.withSelf (s.self.begun ⟨o.st, 0, .access, [wDst o.a]⟩))
  rw [hnc] at hload
  have hout : (decide (Cap.base s.self.pcc.val > constantAt s o) || decide ((constantAt s o : Int) + 8 > Cap.top s.self.pcc.val)) = false := by
    rw [Bool.or_eq_false_iff, decide_eq_false_iff_not, decide_eq_false_iff_not, not_lt, not_lt]
    exact hinside
  have hrun := hbody.trans ((M.bind_ok (raiseIf_of_not (by simpa using halign) ..)).trans ((M.bind_ok (raiseIf_of_not hout ..)).trans
    ((M.bind_ok (translate_run (u := s.withSelf (s.self.begun ⟨o.st, 0, .access, [wDst o.a]⟩)) rfl rfl hm)).trans
      (constantRest_run hplace (hload.trans hread)))))
  have hviewed : ((s.withSelf (s.self.begun ⟨o.st, 0, .access, [wDst o.a]⟩)).l1Room (coreOf s.cur) (localOf p / 128)).viewBytes
      (coreOf s.cur) (localOf p) 8 = u.viewBytes (coreOf s.cur) (localOf p) 8 := hroom.viewBytes ..
  have hcur : (s.withSelf (s.self.begun ⟨o.st, 0, .access, [wDst o.a]⟩)).cur = s.cur := rfl
  rw [hcur, hviewed, ← got_plain] at hrun
  exact sees_of_load hx Steer.noConfusion (h.clear (by simp [wDst])) hrun hroom
    (near_fillFor (s := s.withSelf (s.self.begun ⟨o.st, 0, .access, [wDst o.a]⟩)) (by rw [htwin.core]; exact hok) 8)

end Ldk

theorem loadReads : LoadReads := by
  intro o m s a e h hk k hopens put
  refine ⟨fun hplace hpart hbad => ld_direct h hk rfl hopens hplace hpart hbad, ?_, ?_⟩
  · intro hplace hscope hnt hnc hpart hlines hbad hsound
    exact ld_near h hk rfl hopens hplace hscope hnt hnc hpart hlines hbad hsound
  · intro hplace hhome u hpart hbad
    exact ld_home h hk rfl hopens hplace hhome hpart hbad

theorem loadCapabilityAndConstant : LoadCapabilityAndConstant := by
  refine ⟨?_, ?_⟩
  · intro o m s a e h hopens put
    refine ⟨fun hplace hpart hbad => ldc_direct h hopens hplace hpart hbad, ?_⟩
    intro hplace hhome u hpart hbad
    exact ldc_home h hopens hplace hhome hpart hbad
  · intro o s h va inside
    refine ⟨fun ha => ldk_traps_align h ha, fun ha hout => ldk_traps_bounds h ha hout, ?_⟩
    intro p e ha hin hm hpkg he hnc hplace hpart hlines hbad hsound
    exact ldk_near h ha hin hm hpkg he hnc hplace hpart hlines hbad hsound

/-- Settles O24: a load's twin beside the statement's state reads the same bytes; through the L1 a filled line is near the line's room. -/
theorem loads : Obligations.Loads := ⟨loadReads, loadCapabilityAndConstant⟩

end Sys2Proof.Claims
end

section
/-! SUPPORT. Stores at the home and into the L1 (R75, R78, R108, R110, R163). -/

namespace Sys2Proof.Claims

open Sys2Proof.Machine

/-! ## Stores at the home -/

/-- Bytes that lie in one unit are one piece. -/
theorem splitAt_one {unit a : Nat} {bs : List Byte} (hne : bs ≠ []) (hunit : 0 < unit) (hfit : a % unit + bs.length ≤ unit) (fuel : Nat) :
    splitAt unit (fuel + 2) a bs = [(a, bs)] := by
  have hmod : a % unit < unit := Nat.mod_lt _ hunit
  have hrest : bs.drop (unit - a % unit) = [] := List.drop_eq_nil_of_le (by omega)
  rw [splitAt, if_neg (by simpa using hne)]
  dsimp only
  rw [hrest, List.take_of_length_le (by omega), splitAt]
  rfl

theorem storeBytes_local {s : State} {p a : Nat} {e : Word} (hpkg : pkgOf p = s.pkg) (hloc : localOf p = a) (he : pteM e = false)
    (va : Nat) (bs : List Byte) (tag : Bool) (m : Manner) (tenant : BitVec 12) :
    storeBytes va p bs tag m e tenant s = storeLocal va a bs tag m e s := by
  refine (M.bind_ok (M.get_run s)).trans ?_
  rw [if_neg (by simp [he]), if_neg (by simp [hpkg]), hloc]

/-- A store where no L1 holds the bytes. -/
theorem storeLocal_direct {s v : State} {a : Nat} (h : DirectOwn s a) (hcur : v.cur = s.cur) (hpart : NoPartials v) (va : Nat)
    (bs : List Byte) (tag : Bool) (m : Manner) (e : Word) :
    storeLocal va a bs tag m e v = .ok () (if tag && v.badAt a = 0 then (v.homePut a bs).putTag a true else v.homePut a bs) := by
  have hend (u : State) : (if (tag && decide (v.badAt a = 0)) = true then modify fun s => s.putTag a true else pure () : M Unit) u =
      .ok () (if tag && v.badAt a = 0 then u.putTag a true else u) := by
    split <;> rfl
  refine (M.bind_ok (M.get_run v)).trans ?_
  rcases h with ⟨o, hp, hw⟩ | ⟨q, l, o, hp⟩ <;> rw [hp] <;> dsimp only
  · rw [if_neg (by simp [hcur, hw])]
    exact (M.bind_ok (homeWrite_run hpart a bs)).trans (hend _)
  · exact (M.bind_ok (homeWrite_run hpart a bs)).trans (hend _)

theorem cur_released (s : State) (ord scope : Nat) : (released s ord scope).cur = s.cur := by
  have h := keeps2_released ord scope (Twin.refl s)
  exact h.fixed.cur

/-! ## Stores into the L1 -/

/-- Whether a line takes a store of bytes that it holds. -/
structure TakesStore (l : L1Line) (o n : Nat) : Prop where
  upd : l.upd = none
  length : l.bytes.length = 128
  valid : l.valid.getLsbD (o / 32) = true
  inside : o % 32 + n ≤ 32

/-- A line of a core with bytes stored shows them, and else what it showed. -/
theorem view_stored {u : State} {core a : Nat} {bs : List Byte} {l : L1Line}
    (htakes : TakesStore (lookupD L1Line.empty (u.core core).lines (a / 128)) (a % 128) bs.length) (hupd : l.upd = none)
    (hvalid : l.valid = (lookupD L1Line.empty (u.core core).lines (a / 128)).valid)
    (hbytes : l.bytes = overwrite (lookupD L1Line.empty (u.core core).lines (a / 128)).bytes (a % 128) bs) (c b : Nat) :
    view (u.withCore core (putLine (u.core core) (a / 128) l)) c b =
      if c = core ∧ a ≤ b ∧ b < a + bs.length then bs.getD (b - a) 0 else view u c b := by
  obtain ⟨hupd', hlen, hbit, hin⟩ := htakes
  rw [view_eq, view_eq]
  change lineByte _ _ (u.byteAt b) = _
  by_cases hb : b / 128 = a / 128
  · by_cases hc : c = core
    · subst hc
      have hline : lookupD L1Line.empty ((u.withCore c (putLine (u.core c) (a / 128) l)).core c).lines (b / 128) = l := by
        rw [State.core_withCore_same, hb]
        exact lookupD_storeAt_same ..
      rw [hline, hb]
      simp only [lineByte, hupd, hupd', hvalid, hbytes, Option.isNone_none, Bool.true_and, true_and]
      rw [getD_overwrite (by omega)]
      by_cases hin' : a ≤ b ∧ b < a + bs.length
      · have hsector : b % 128 / 32 = a % 128 / 32 := by omega
        rw [if_pos hin', hsector, hbit, if_pos rfl, if_pos (by omega)]
        congr 1
        omega
      · rw [if_neg hin', if_neg (show ¬(a % 128 ≤ b % 128 ∧ b % 128 < a % 128 + bs.length) by omega)]
    · rw [State.core_withCore_ne _ _ _ _ hc, if_neg fun h => hc h.1]
  · rw [line_withCore u core (a / 128) l hb, if_neg (by omega)]

/-- The line of a filled range takes a store there. -/
theorem takes_fillFor {s : State} {core a n : Nat} (hok : LineOk (lookupD L1Line.empty (s.core core).lines (a / 128))) (hn : 0 < n)
    (hfit : a % 32 + n ≤ 32) : TakesStore (lookupD L1Line.empty ((fillFor s core a n).core core).lines (a / 128)) (a % 128) n := by
  have hgen : ∀ u : State, (u.core core).lines = ((s.l1Room core (a / 128)).core core).lines →
      TakesStore (lookupD L1Line.empty ((u.withCore core (withLine u core a n)).core core).lines (a / 128)) (a % 128) n := by
    intro u hu
    have hl : LineOk (lookupD L1Line.empty (u.core core).lines (a / 128)) := by rw [hu, line_l1Room]; exact hok
    obtain ⟨hupd, hlen⟩ := startLine_ok hl
    have hsame := sameLine_withSectors u a n hupd hlen
    have hline : lookupD L1Line.empty ((u.withCore core (withLine u core a n)).core core).lines (a / 128) =
        withSectors u a n (startLine (lookupD L1Line.empty (u.core core).lines (a / 128))) := by
      rw [State.core_withCore_same]
      exact lookupD_storeAt_same ..
    rw [hline]
    exact ⟨hsame.upd, hsame.length, valid_withSectors u a n _ (by omega) (by omega), by omega⟩
  unfold fillFor
  dsimp only
  split
  · exact hgen _ rfl
  · exact hgen _ (lines_countCore ..)

/-- The line that a part of a store leaves. -/
def storedLine (l : L1Line) (a : Nat) (bs : List Byte) (whole : Bool) : L1Line :=
  { l with
    bytes := overwrite l.bytes (a % 128) bs
    fails := if whole then storeAt 0 (a % 128 / 32) 0 l.fails else l.fails
    dirty := (List.range bs.length).foldl (fun d i => d ||| (1#128 <<< (a % 128 + i))) l.dirty
    tags := (List.range bs.length).foldl (fun t i => t &&& ~~~ (1#8 <<< ((a % 128 + i) / 16))) l.tags }

/-- A core that has stored bytes of one sector. -/
def storedFor (s : State) (core a : Nat) (bs : List Byte) (whole : Bool) : State :=
  let u := fillFor s core a bs.length
  u.withCore core (putLine (u.core core) (a / 128) (storedLine (lookupD L1Line.empty (u.core core).lines (a / 128)) a bs whole))

theorem cachedWritePart_run {s : State} {core a : Nat} {bs : List Byte} (hpart : NoPartials s) (hbad : s.badAt a = 0)
    (hsound : (lookupD L1Line.empty (s.core core).lines (a / 128)).fails = []) :
    cachedWritePart core a bs false s = .ok () (storedFor s core a bs (a % 32 = 0 && bs.length = 32)) := by
  refine (M.bind_ok (M.get_run s)).trans ?_
  rw [if_neg (by simp), if_neg (by simp [hbad]), if_neg (by simp [L1Line.failing, hsound])]
  exact (M.bind_ok (fillLine_noPartials hpart core a bs.length)).trans rfl

/-- A store of part of a sector at core scope is one such part. -/
theorem storeLocal_near {s : State} {a : Nat} {bs : List Byte} {m : Manner} {e : Word} (hplace : cacheable a) (hscope : m.scope = 1)
    (hnt : m.nt = false) (hnc : pteNc e = false) (he : pteM e = false) (hn : 0 < bs.length) (hfit : a % 32 + bs.length ≤ 32)
    (hpart : NoPartials s) (hbad : s.badAt a = 0) (hsound : Sound s a) (va : Nat) :
    storeLocal va a bs false m e s = .ok () (storedFor s (coreOf s.cur) a bs (a % 32 = 0 && bs.length = 32)) := by
  have hwrite : cachedWrite a bs false m false s = .ok () (storedFor s (coreOf s.cur) a bs (a % 32 = 0 && bs.length = 32)) := by
    refine (M.bind_ok (M.get_run s)).trans ?_
    rw [if_pos (by simp [hscope]), hnt, splitAt_one (List.length_pos_iff.mp hn) (by omega) hfit]
    simp only [List.forIn_cons, List.forIn_nil, bind_assoc, pure_bind]
    exact (M.bind_ok (cachedWritePart_run hpart hbad hsound)).trans rfl
  refine (M.bind_ok (M.get_run s)).trans ?_
  rw [hnc, he]
  unfold cacheable at hplace
  cases hp : place a with
  | dram | dieSpad _ => exact hwrite
  | _ => rw [hp] at hplace; exact absurd hplace Bool.false_ne_true

theorem near_storedFor {s : State} {core a : Nat} {bs : List Byte} (hok : LineOk (lookupD L1Line.empty (s.core core).lines (a / 128)))
    (hn : 0 < bs.length) (hfit : a % 32 + bs.length ≤ 32) (whole : Bool) :
    let y := storedFor s core a bs whole
    let u := s.l1Room core (a / 128)
    y.cur = u.cur ∧ y.strands = u.strands ∧ y.rest = u.rest ∧ ∀ c b, view y c b =
      if c = core ∧ a ≤ b ∧ b < a + bs.length then bs.getD (b - a) 0 else view u c b := by
  have hnear := near_fillFor hok bs.length
  have htakes := takes_fillFor hok hn hfit
  unfold storedFor
  dsimp only
  generalize fillFor s core a bs.length = f at hnear htakes
  refine ⟨hnear.cur, hnear.strands, hnear.rest, fun c b => ?_⟩
  rw [← hnear.view c b]
  exact view_stored (l := storedLine (lookupD L1Line.empty (f.core core).lines (a / 128)) a bs whole) htakes htakes.upd rfl rfl c b

section
variable {i : Instr} {s u v y : State} {d : Desc} {body : M Unit} {a : Nat} {bs : List Byte}

/-- A store whose outcome is the twin of `u` but for bytes of one core. -/
theorem sees_of_store (hx : exec i s = runOp d body s) (hl : d.steer ≠ .lanes) (hc : s.self.Clear d.regs)
    (hb : body (s.withSelf (s.self.begun d)) = .ok () y) (h : Twin s s.self (s.self.begun d) u v) (hcur : y.cur = v.cur)
    (hstrands : y.strands = v.strands) (hrest : y.rest = v.rest)
    (hview : ∀ c b, view y c b = if c = coreOf s.cur ∧ a ≤ b ∧ b < a + bs.length then bs.getD (b - a) 0 else view v c b) :
    Sees i s u u.self a bs := by
  obtain ⟨w, hu, hv⟩ := h.woken
  obtain ⟨-, -, htogether, -⟩ := id hc
  have hself : y.self = wokenIf (s.self.begun d) w := by
    rw [← hv]
    unfold State.self State.strand
    rw [hcur, hstrands]
  refine sees_of_run hx hl hc hb (hcur.trans h.cur) ?_ ?_ ?_ ?_ (fun p => ?_) ?_ (fun b hne => ?_) (hrest.trans ?_) fun c b => ?_
  · rw [hself]; rfl
  · rw [hself]; rfl
  · rw [hself]; rfl
  · rw [hself]; exact htogether
  · rw [hself, hu]; rfl
  · rw [hself, hu]; rfl
  · rw [← h.other b hne, State.strand, hstrands]; rfl
  · rw [h.rest]; rfl
  · rw [hview, h.view]

end

section St
variable {o : OpRX} {m : MemMod} {s : State} {a k : Nat} {e : Word} (h : Issues s [o.a, o.b]) (hk : m.width.toNat ≤ 3)
variable (hkm : widthBytes m.width = k) (hopens : Opens s (at2 s o) Cap.st k a e)
include h hk hkm hopens

/-- `st` up to its write. -/
theorem st_eq : ∃ p body, exec (.st o m) s = runOp ⟨o.st, 0, .access, [wSrc o.a, wSrc o.b]⟩ body s ∧ pkgOf p = s.pkg ∧ localOf p = a ∧
    pteM e = false ∧ a % k = 0 ∧ body (s.withSelf (s.self.begun ⟨o.st, 0, .access, [wSrc o.a, wSrc o.b]⟩)) =
      storeChecked (at2 s o) p e (leBytes k (x s o.a).toNat) false (mannerOf m)
        (s.withSelf (s.self.begun ⟨o.st, 0, .access, [wSrc o.a, wSrc o.b]⟩)) := by
  obtain ⟨p, haccess, hpkg, hloc, he, halign⟩ := hopens.place (hkm ▸ widthBytes_cases hk)
  have hreads : SameReads (s.withSelf (s.self.begun ⟨o.st, 0, .access, [wSrc o.a, wSrc o.b]⟩)).self s.self := by
    rw [State.self_withSelf]; exact .begun ..
  refine ⟨p, _, rfl, hpkg, hloc, he, halign, ?_⟩
  rw [M.bind_ok (h.readX_same hreads 0 (by simp)), M.bind_ok (addressRX_run h hreads 1)]
  dsimp only
  rw [hkm, M.bind_ok (haccess (s.withSelf (s.self.begun ⟨o.st, 0, .access, [wSrc o.a, wSrc o.b]⟩)) (by rw [State.self_withSelf]; rfl) rfl rfl)]

theorem st_direct (hplace : DirectOwn s a) (hpart : NoPartials (released s m.ord.toNat m.scope.toNat)) :
    Leads (.st o m) s ((released s m.ord.toNat m.scope.toNat).homePut a (leBytes k (x s o.a).toNat)) := by
  obtain ⟨p, body, hx, hpkg, hloc, he, -, hbody⟩ := st_eq h hk hkm hopens
  have htwin := keeps2_released m.ord.toNat m.scope.toNat (Twin.begun s ⟨o.st, 0, .access, [wSrc o.a, wSrc o.b]⟩)
  have hrun := hbody.trans ((M.bind_ok (ordRelease_run ..)).trans ((storeBytes_local (htwin.pkg.symm ▸ hpkg) hloc he ..).trans
    (storeLocal_direct hplace htwin.cur (htwin.noPartials hpart) ..)))
  exact leads_of_twin_begun hx Steer.noConfusion (h.clear (by simp [wSrc])) hrun (keeps2_homePut _ _ htwin)

theorem st_near (hplace : cacheable a) (hscope : m.scope = 1) (hnt : m.nt = false) (hnc : pteNc e = false) (hpart : NoPartials s)
    (hlines : LinesOk s) (hbad : s.badAt a = 0) (hsound : Sound s a) :
    let u := roomFor s a
    Sees (.st o m) s u u.self a (leBytes k (x s o.a).toNat) := by
  intro u
  obtain ⟨p, body, hx, hpkg, hloc, he, halign, hbody⟩ := st_eq h hk hkm hopens
  have htwin := Twin.begun s ⟨o.st, 0, .access, [wSrc o.a, wSrc o.b]⟩
  have hroom := keeps2_l1Room (coreOf s.cur) (a / 128) htwin
  have hok : LineOk (lookupD L1Line.empty ((s.withSelf (s.self.begun ⟨o.st, 0, .access, [wSrc o.a, wSrc o.b]⟩)).core (coreOf s.cur)).lines (a / 128)) := by
    rw [htwin.core]; exact lineOk_of hpart hlines (coreOf s.cur) (a / 128)
  have hlen := length_leBytes k (x s o.a).toNat
  have hsizes := widthBytes_cases hk
  rw [hkm] at hsizes
  have hpos : 0 < (leBytes k (x s o.a).toNat).length := by rw [hlen]; omega
  have hfit : a % 32 + (leBytes k (x s o.a).toNat).length ≤ 32 := by rw [hlen]; rcases hsizes with rfl | rfl | rfl | rfl | rfl <;> omega
  have hone : (mannerOf m).scope = 1 := congrArg BitVec.toNat hscope
  have hnone (v : State) : released v (mannerOf m).ord (mannerOf m).scope = v := by
    rw [released, if_neg]
    rintro ⟨-, h2⟩
    omega
  have hrun := hbody.trans ((M.bind_ok (ordRelease_run ..)).trans ((congrArg _ (hnone _)).trans
    ((storeBytes_local (s := s.withSelf (s.self.begun ⟨o.st, 0, .access, [wSrc o.a, wSrc o.b]⟩)) hpkg hloc he ..).trans
      (storeLocal_near (s := s.withSelf (s.self.begun ⟨o.st, 0, .access, [wSrc o.a, wSrc o.b]⟩)) hplace hone hnt hnc he hpos hfit
        (htwin.noPartials hpart) ((htwin.badAt a).trans hbad) (by unfold Sound; rw [htwin.core]; exact hsound) _))))
  obtain ⟨hcur, hstrands, hrest, hview⟩ := near_storedFor hok hpos hfit (a % 32 = 0 && (leBytes k (x s o.a).toNat).length = 32)
  exact sees_of_store hx Steer.noConfusion (h.clear (by simp [wSrc])) hrun hroom hcur hstrands hrest hview

end St

/-! ## `stc` -/

/-- A place of the strand's own, by its global address in this package. -/
theorem ownPlace_globalOf {s v : State} {p a : Nat} (hpkg : pkgOf p = s.pkg) (hloc : localOf p = a) (hpkg' : v.pkg = s.pkg) (hcur : v.cur = s.cur)
    (hlanes : v.self.vec.lanes = s.self.vec.lanes) : v.ownPlace p = s.ownPlace (s.globalOf a) := by
  have h1 : pkgOf (s.globalOf a) = s.pkg := by
    unfold pkgOf State.globalOf
    unfold pkgOf at hpkg
    unfold localOf at hloc
    omega
  have h2 : localOf (s.globalOf a) = a := by
    unfold localOf State.globalOf
    unfold localOf at hloc
    omega
  unfold State.ownPlace
  rw [hpkg', hcur, hlanes, hpkg, hloc, h1, h2]

section Stc
variable {o : OpRX} {m : MemMod} {s : State} {a : Nat} {e : Word} (h : Issues s [o.a, o.b])
variable (hopens : Opens s (at2 s o) (if (w s o.a).tag then Cap.st ||| Cap.sc else Cap.st) 16 a e)
include h hopens

/-- `stc` up to its check of R75. -/
theorem stc_eq : ∃ p body, exec (.stc o m) s = runOp ⟨o.st, 0, .access, [wSrc o.a, wSrc o.b]⟩ body s ∧ pkgOf p = s.pkg ∧ localOf p = a ∧
    pteM e = false ∧ body (s.withSelf (s.self.begun ⟨o.st, 0, .access, [wSrc o.a, wSrc o.b]⟩)) = (do
      raiseIf ((w s o.a).tag && !Cap.has (w s o.a).val Cap.gl && !s.ownPlace (s.globalOf a)) cPerm (Cap.cursor (at2 s o).val)
      storeChecked (at2 s o) p e (leBytes 16 (w s o.a).val.toNat) (w s o.a).tag (mannerOf m))
        (s.withSelf (s.self.begun ⟨o.st, 0, .access, [wSrc o.a, wSrc o.b]⟩)) := by
  obtain ⟨p, haccess, hpkg, hloc, he, -⟩ := hopens.place (by simp)
  have hreads : SameReads (s.withSelf (s.self.begun ⟨o.st, 0, .access, [wSrc o.a, wSrc o.b]⟩)).self s.self := by
    rw [State.self_withSelf]; exact .begun ..
  have hown := ownPlace_globalOf (v := s.withSelf (s.self.begun ⟨o.st, 0, .access, [wSrc o.a, wSrc o.b]⟩)) hpkg hloc rfl rfl
    (by rw [State.self_withSelf]; rfl)
  refine ⟨p, _, rfl, hpkg, hloc, he, ?_⟩
  rw [M.bind_ok (h.readW_same hreads 0 (by simp)), M.bind_ok (addressRX_run h hreads 1)]
  dsimp only
  rw [M.bind_ok (haccess (s.withSelf (s.self.begun ⟨o.st, 0, .access, [wSrc o.a, wSrc o.b]⟩)) (by rw [State.self_withSelf]; rfl) rfl rfl)]
  dsimp only
  rw [M.bind_ok (M.get_run _), hown]

theorem stc_traps (hnarrow : (w s o.a).tag = true ∧ Cap.has (w s o.a).val Cap.gl = false) (hown : ¬s.ownPlace (s.globalOf a)) :
    Traps (.stc o m) s cPerm (Cap.cursor (at2 s o).val) := by
  obtain ⟨p, body, hx, -, -, -, hbody⟩ := stc_eq (m := m) h hopens
  exact traps_of_runOp hx Steer.noConfusion (h.clear (by simp [wSrc])) (hbody.trans (M.bind_error (raiseIf_of (by simp [hnarrow, hown]) ..)))
    (by decide)

theorem stc_direct (hplace : DirectOwn s a) (hwide : ¬((w s o.a).tag = true ∧ Cap.has (w s o.a).val Cap.gl = false) ∨ s.ownPlace (s.globalOf a))
    (hpart : NoPartials (released s m.ord.toNat m.scope.toNat)) (hbad : (released s m.ord.toNat m.scope.toNat).badAt a = 0) :
    let new := (released s m.ord.toNat m.scope.toNat).homePut a (leBytes 16 (w s o.a).val.toNat)
    Leads (.stc o m) s (if (w s o.a).tag then new.putTag a true else new) := by
  intro new
  obtain ⟨p, body, hx, hpkg, hloc, he, hbody⟩ := stc_eq (m := m) h hopens
  have htwin := keeps2_released m.ord.toNat m.scope.toNat (Twin.begun s ⟨o.st, 0, .access, [wSrc o.a, wSrc o.b]⟩)
  have hpass : ((w s o.a).tag && !Cap.has (w s o.a).val Cap.gl && !s.ownPlace (s.globalOf a)) = false := by
    rcases hwide with hw | hw
    · rw [not_and, Bool.not_eq_false] at hw
      cases ht : (w s o.a).tag
      · rfl
      · rw [hw ht]; rfl
    · rw [hw]; simp
  have hrun := hbody.trans ((M.bind_ok (raiseIf_of_not hpass ..)).trans ((M.bind_ok (ordRelease_run ..)).trans
    ((storeBytes_local (htwin.pkg.symm ▸ hpkg) hloc he ..).trans (storeLocal_direct hplace htwin.cur (htwin.noPartials hpart) ..))))
  have hgood : (released (s.withSelf (s.self.begun ⟨o.st, 0, .access, [wSrc o.a, wSrc o.b]⟩)) m.ord.toNat m.scope.toNat).badAt a = 0 :=
    (htwin.badAt a).trans hbad
  have hput := keeps2_homePut a (leBytes 16 (w s o.a).val.toNat) htwin
  refine leads_of_twin_begun hx Steer.noConfusion (h.clear (by simp [wSrc])) hrun ?_
  dsimp only
  rw [hgood]
  simp only [decide_true, Bool.and_true]
  split
  · exact keeps2_putTag a true hput
  · exact hput

end Stc

theorem storeWrites : StoreWrites := by
  intro o m s a e h hk k r perms narrow old
  refine ⟨fun hopens => ⟨fun hplace hpart => st_direct h hk rfl hopens hplace hpart, ?_⟩, fun hopens hplace => ⟨?_, ?_⟩⟩
  · intro hplace hscope hnt hnc hpart hlines hbad hsound
    exact st_near h hk rfl hopens hplace hscope hnt hnc hpart hlines hbad hsound
  · exact fun hnarrow hown => stc_traps h hopens hnarrow hown
  · intro hwide hpart hbad new
    exact stc_direct h hopens hplace hwide hpart hbad

/-! ## What a put at home leaves -/

theorem bad_putBytes (s : State) (a : Nat) (bs : List Byte) : (s.putBytes a bs).bad = s.bad := by
  induction bs generalizing s a with
  | nil => rfl
  | cons b bs ih => exact ih (s.putByte a b) (a + 1)

theorem putBytes_append (s : State) (a : Nat) (bs cs : List Byte) :
    s.putBytes a (bs ++ cs) = (s.putBytes a bs).putBytes (a + bs.length) cs := by
  induction bs generalizing s a with
  | nil => rfl
  | cons b bs ih =>
    rw [List.cons_append, State.putBytes, ih, List.length_cons, Nat.add_comm bs.length, ← Nat.add_assoc]
    rfl

theorem byteAt_putBytes_ne {s : State} {a b : Nat} {bs : List Byte} (h : ∀ i < bs.length, canon b ≠ canon (a + i)) :
    (s.putBytes a bs).byteAt b = s.byteAt b := by
  induction bs generalizing s a with
  | nil => rfl
  | cons x bs ih =>
    rw [State.putBytes, ih fun i hi => by rw [Nat.add_assoc, Nat.add_comm 1]; exact h (i + 1) (by simpa using hi)]
    exact lookupD_storeAt_ne _ _ _ _ _ (h 0 (by simp))

theorem byteAt_putBytes {s : State} {a : Nat} {bs : List Byte} (h : ∀ i < bs.length, ∀ j < bs.length, canon (a + i) = canon (a + j) → i = j)
    {i : Nat} (hi : i < bs.length) : (s.putBytes a bs).byteAt (a + i) = bs.getD i 0 := by
  induction bs generalizing s a i with
  | nil => simp at hi
  | cons x bs ih =>
    have hstep (j : Nat) : a + 1 + j = a + (j + 1) := by omega
    rw [State.putBytes]
    cases i with
    | zero =>
      rw [byteAt_putBytes_ne fun j hj heq => by
        rw [hstep] at heq
        exact absurd (h 0 hi (j + 1) (by simpa using hj) heq) (by omega)]
      exact lookupD_storeAt_same ..
    | succ i =>
      rw [← hstep i, ih (fun j hj k hk heq => ?_) (by simpa using hi)]
      · rfl
      · rw [hstep, hstep] at heq
        have := h (j + 1) (by simpa using hj) (k + 1) (by simpa using hk) heq
        omega

theorem tagAt_putByte (s : State) (a b : Nat) (x : Byte) :
    (s.putByte a x).tagAt b = if canon b / 16 = canon a / 16 then false else s.tagAt b :=
  lookupD_storeAt false (canon a / 16) (canon b / 16) false s.tags

theorem tagAt_putBytes_ne {s : State} {a b : Nat} {bs : List Byte} (h : ∀ i < bs.length, canon b / 16 ≠ canon (a + i) / 16) :
    (s.putBytes a bs).tagAt b = s.tagAt b := by
  induction bs generalizing s a with
  | nil => rfl
  | cons x bs ih =>
    rw [State.putBytes, ih fun i hi => by rw [Nat.add_assoc, Nat.add_comm 1]; exact h (i + 1) (by simpa using hi)]
    rw [tagAt_putByte, if_neg (show ¬canon b / 16 = canon a / 16 from h 0 (by simp))]

theorem tagAt_putBytes_of_false {s : State} {a b : Nat} {bs : List Byte} (h : s.tagAt b = false) : (s.putBytes a bs).tagAt b = false := by
  induction bs generalizing s a with
  | nil => exact h
  | cons x bs ih =>
    refine ih (s := s.putByte a x) (a := a + 1) ?_
    rw [tagAt_putByte, h, ite_self]

theorem tagAt_putBytes {s : State} {a i : Nat} {bs : List Byte} (hi : i < bs.length) : (s.putBytes a bs).tagAt (a + i) = false := by
  induction bs generalizing s a i with
  | nil => simp at hi
  | cons x bs ih =>
    rw [State.putBytes]
    cases i with
    | zero => exact tagAt_putBytes_of_false (by rw [tagAt_putByte, Nat.add_zero, if_pos rfl])
    | succ i =>
      rw [show a + (i + 1) = a + 1 + i by omega]
      exact ih (by simpa using hi)

/-- Sectors that do not fail take their bytes as one run. -/
theorem foldl_putSector {fuel : Nat} {s : State} {a : Nat} {bs : List Byte} (hfuel : a % 32 + bs.length ≤ 32 * fuel)
    (hbad : ∀ i < bs.length, s.badAt (a + i) = 0) :
    (splitAt 32 fuel a bs).foldl (fun s p => s.putSector p.1 p.2) s = s.putBytes a bs := by
  induction fuel generalizing s a bs with
  | zero => rw [List.eq_nil_of_length_eq_zero (show bs.length = 0 by omega)]; rfl
  | succ fuel ih =>
    by_cases hne : bs = []
    · subst hne; rfl
    · have hpos := List.length_pos_iff.mpr hne
      rw [splitAt, if_neg (by simpa using hne)]
      dsimp only
      have hput : s.putSector a (bs.take (32 - a % 32)) = s.putBytes a (bs.take (32 - a % 32)) := if_pos (hbad 0 hpos)
      rw [List.foldl_cons, hput, ih]
      · rw [← List.take_append_drop (32 - a % 32) bs, putBytes_append]
        simp only [List.take_append_drop]
        by_cases hlen : 32 - a % 32 ≤ bs.length
        · rw [List.length_take_of_le hlen]
        · rw [List.drop_eq_nil_of_le (by omega)]; rfl
      · rw [List.length_drop]; omega
      · intro i hi
        rw [List.length_drop] at hi
        rw [State.badAt, bad_putBytes, Nat.add_assoc]
        exact hbad _ (by omega)

theorem mem_wakeAt (s : State) (a : Nat) : (s.wakeAt a).mem = s.mem ∧ (s.wakeAt a).tags = s.tags := by
  have hline (u : State) (n : Nat) : (u.wakeLine n).mem = u.mem ∧ (u.wakeLine n).tags = u.tags := by
    rw [wakeLine_eq, foldl_wakeOne_rest]
    exact ⟨rfl, rfl⟩
  unfold State.wakeAt
  split
  · exact ⟨(hline ..).1.trans (hline ..).1, (hline ..).2.trans (hline ..).2⟩
  · exact hline ..

theorem mem_l2Put (s : State) (a n : Nat) : (s.l2Put a n).mem = s.mem ∧ (s.l2Put a n).tags = s.tags := by
  unfold State.l2Put
  dsimp only
  split <;> exact ⟨rfl, rfl⟩

theorem mem_homePut {s : State} {a : Nat} {bs : List Byte} (hbad : ∀ i < bs.length, s.badAt (a + i) = 0) :
    (s.homePut a bs).mem = (s.putBytes a bs).mem ∧ (s.homePut a bs).tags = (s.putBytes a bs).tags := by
  unfold State.homePut
  dsimp only
  rw [foldl_putSector (by omega) hbad]
  generalize splitAt 128 (bs.length / 128 + 2) a bs = ps
  generalize s.putBytes a bs = u
  induction ps generalizing u with
  | nil => exact ⟨rfl, rfl⟩
  | cons p ps ih =>
    obtain ⟨h1, h2⟩ := ih ((u.l2Put p.1 p.2.length).wakeAt p.1)
    obtain ⟨h3, h4⟩ := mem_wakeAt (u.l2Put p.1 p.2.length) p.1
    obtain ⟨h5, h6⟩ := mem_l2Put u p.1 p.2.length
    exact ⟨h1.trans (h3.trans h5), h2.trans (h4.trans h6)⟩

theorem homePutIsRead : HomePutIsRead := by
  intro s a bs hbad hapart
  obtain ⟨hmem, htags⟩ := mem_homePut hbad
  have hbyte (b : Nat) : (s.homePut a bs).byteAt b = (s.putBytes a bs).byteAt b := congrArg (lookupD 0 · (canon b)) hmem
  have htag (b : Nat) : (s.homePut a bs).tagAt b = (s.putBytes a bs).tagAt b := congrArg (lookupD false · (canon b / 16)) htags
  refine ⟨fun i hi => ⟨?_, ?_⟩, fun b hb => ?_, fun b hb => ?_⟩
  · rw [hbyte, byteAt_putBytes hapart hi]
  · rw [htag, tagAt_putBytes hi]
  · rw [hbyte, byteAt_putBytes_ne hb]
  · rw [htag, tagAt_putBytes_ne hb]

/-- Settles O25: a store puts its bytes at their home, or into a line that holds their sector. -/
theorem stores : Obligations.Stores := ⟨storeWrites, homePutIsRead⟩

end Sys2Proof.Claims
end

section
/-! SUPPORT. Groups, arrivals and phases within a package (R259 to R264). -/

namespace Sys2Proof.Claims

open Sys2Proof.Machine

/-! ## Group capabilities -/

/-- The test of a group's name behind the check of its capability. -/
def misnamed (s : State) (c : Reg) : Bool :=
  let a := Cap.cursor c.val
  (a / 2 ^ 40 % 2 = 1) != false || (groupName a).1 = 0 || (groupName a).1 = 7 || (false && (groupName a).1 ≠ 4 && (groupName a).1 ≠ 5) ||
    a / 2 ^ 28 % 4096 ≠ 0 || a % 2 ^ 28 ≠ groupInst (s.fullSid s.cur).toNat (groupName a).1 ||
    ((groupName a).1 ≥ 5 && s.jobOf s.cur = 0)

theorem namesGroup_iff {s : State} {c : Reg} {scope g : Nat} :
    NamesGroup s c scope g ↔ groupName (Cap.cursor c.val) = (scope, g) ∧ misnamed s c = false := by
  unfold NamesGroup misnamed groupName
  dsimp only
  simp only [Prod.mk.injEq, Bool.or_eq_false_iff, Bool.and_eq_false_iff, bne_iff_ne, decide_eq_false_iff_not, Bool.false_and, ne_eq,
    Bool.bne_false, decide_eq_false_iff_not, not_not]
  constructor
  · rintro ⟨rfl, rfl, h1, h2, h3, h4, h5, h6⟩
    refine ⟨⟨rfl, rfl⟩, ⟨⟨⟨⟨⟨by omega, by omega⟩, by omega⟩, trivial⟩, h4⟩, h5⟩, ?_⟩
    by_cases h : 5 ≤ Cap.cursor c.val / 2 ^ 45 % 8
    · exact .inr (h6 h)
    · exact .inl (by omega)
  · rintro ⟨⟨rfl, rfl⟩, ⟨⟨⟨⟨⟨h1, h2⟩, h3⟩, -⟩, h4⟩, h5⟩, h6⟩
    exact ⟨rfl, rfl, by omega, by omega, by omega, h4, h5, fun h => h6.resolve_left (by omega)⟩

section
variable {s v : State} (hid : v.self.identity = s.self.identity) (hcur : v.cur = s.cur) (hpkg : v.pkg = s.pkg)
variable (hcol : v.units.colonies = s.units.colonies) {c : Reg}
include hid

theorem checkGroup_fault {f : BitVec 8} (hf : checkFault s c Cap.br [Cap.kGroup] 1 = some f) :
    checkGroup c false v = .error (.trap f (BitVec.ofNat 64 (Cap.cursor c.val)) none) v := by
  refine M.bind_error ?_
  rw [checkCap_run hid, checkOutcome, hf]

include hcur hpkg hcol

theorem misnamed_run : misnamed v c = misnamed s c := by
  unfold misnamed State.fullSid State.jobOf State.colonyOf State.colony
  rw [hcur, hpkg, hcol]

theorem checkGroup_misnamed (hf : checkFault s c Cap.br [Cap.kGroup] 1 = none) (hno : ¬∃ scope g, NamesGroup s c scope g) :
    checkGroup c false v = .error (.trap cPerm (BitVec.ofNat 64 (Cap.cursor c.val)) none) v := by
  have hbad : misnamed v c = true := by
    rw [misnamed_run hid hcur hpkg hcol, ← Bool.not_eq_false]
    exact fun h => hno ⟨_, _, namesGroup_iff.mpr ⟨rfl, h⟩⟩
  refine (M.bind_ok (a := ()) ?_).trans ((M.bind_ok (M.get_run v)).trans (M.bind_error (raiseIf_of hbad ..)))
  rw [checkCap_run hid, checkOutcome, hf]

theorem checkGroup_named (hf : checkFault s c Cap.br [Cap.kGroup] 1 = none) {scope g : Nat} (h : NamesGroup s c scope g) :
    checkGroup c false v = .ok (scope, g) v := by
  obtain ⟨hname, hgood⟩ := namesGroup_iff.mp h
  rw [← misnamed_run hid hcur hpkg hcol] at hgood
  refine (M.bind_ok (a := ()) ?_).trans ((M.bind_ok (M.get_run v)).trans ((M.bind_ok (raiseIf_of_not hgood ..)).trans ?_))
  · rw [checkCap_run hid, checkOutcome, hf]
  · rw [← hname]; rfl

end

/-! The same behind the prologue of an instruction. -/

section
variable {s : State} {c : Reg} (d : Desc)

theorem identity_begun : (s.withSelf (s.self.begun d)).self.identity = s.self.identity := by rw [State.self_withSelf]; rfl

theorem checkGroup_fault_begun {f : BitVec 8} (hf : checkFault s c Cap.br [Cap.kGroup] 1 = some f) :
    checkGroup c false (s.withSelf (s.self.begun d)) = .error (.trap f (BitVec.ofNat 64 (Cap.cursor c.val)) none)
      (s.withSelf (s.self.begun d)) := checkGroup_fault (identity_begun d) hf

theorem checkGroup_misnamed_begun (hf : checkFault s c Cap.br [Cap.kGroup] 1 = none) (hno : ¬∃ scope g, NamesGroup s c scope g) :
    checkGroup c false (s.withSelf (s.self.begun d)) = .error (.trap cPerm (BitVec.ofNat 64 (Cap.cursor c.val)) none)
      (s.withSelf (s.self.begun d)) := checkGroup_misnamed (identity_begun d) rfl rfl rfl hf hno

theorem checkGroup_named_begun (hf : checkFault s c Cap.br [Cap.kGroup] 1 = none) {scope g : Nat} (h : NamesGroup s c scope g) :
    checkGroup c false (s.withSelf (s.self.begun d)) = .ok (scope, g) (s.withSelf (s.self.begun d)) :=
  checkGroup_named (identity_begun d) rfl rfl rfl hf h

end

/-! ## Phases -/

/-- A loop whose steps all complete. -/
theorem forIn_run {α : Type} {f : α → PUnit → M (ForInStep PUnit)} {g : State → α → State}
    (hf : ∀ a s, f a ⟨⟩ s = .ok (.yield ⟨⟩) (g s a)) (l : List α) (s : State) : forIn l ⟨⟩ f s = .ok ⟨⟩ (l.foldl g s) := by
  induction l generalizing s with
  | nil => rfl
  | cons a l ih =>
    rw [List.forIn_cons, M.bind_ok (hf a s)]
    exact ih (g s a)

/-- A strand whose arrival in a group is cleared. -/
def unarrived (b : Nat) (t : Strand) : Strand := { t with arrived := clearBit t.arrived b }

/-- One strand of a phase that completes. -/
def clearOne (inst : Nat → Bool) (b : Nat) (s : State) (n : Nat) : State :=
  if inst n then s.withStrand n (unarrived b (s.strand n)) else s

theorem clearBit_idem (m : BitVec 128) (b : Nat) : clearBit (clearBit m b) b = clearBit m b := by
  simp only [clearBit, BitVec.and_assoc, BitVec.and_self]

theorem unarrived_idem (b : Nat) (t : Strand) : unarrived b (unarrived b t) = unarrived b t := by
  simp only [unarrived, clearBit_idem]

theorem strand_foldl_clearOne (inst : Nat → Bool) (b : Nat) (l : List Nat) (s : State) (n : Nat) :
    (l.foldl (clearOne inst b) s).strand n = if n ∈ l ∧ inst n then unarrived b (s.strand n) else s.strand n := by
  induction l generalizing s with
  | nil => simp
  | cons m l ih =>
    rw [List.foldl_cons, ih]
    have hone : (clearOne inst b s m).strand n = if n = m ∧ inst n then unarrived b (s.strand n) else s.strand n := by
      unfold clearOne
      by_cases hm : inst m = true
      · rw [if_pos hm]
        by_cases hn : n = m
        · subst hn; rw [State.strand_withStrand_same, if_pos ⟨rfl, hm⟩]
        · rw [State.strand_withStrand_ne _ _ _ _ hn, if_neg fun h => hn h.1]
      · rw [if_neg hm, if_neg]
        rintro ⟨rfl, h⟩
        exact hm h
    rw [hone]
    by_cases hi : inst n = true
    · by_cases hn : n = m
      · subst hn
        simp only [hi, and_true, List.mem_cons, true_or, if_true, unarrived_idem, ite_self]
      · simp only [hi, and_true, List.mem_cons, hn, false_or, if_false]
    · simp [hi]

theorem foldl_clearOne_rest (inst : Nat → Bool) (b : Nat) (l : List Nat) (s : State) :
    l.foldl (clearOne inst b) s = { s with strands := (l.foldl (clearOne inst b) s).strands } := by
  induction l generalizing s with
  | nil => rfl
  | cons m l ih =>
    rw [List.foldl_cons, ih]
    unfold clearOne
    split <;> rfl

/-- The state once a phase within a package has completed. -/
def phaseCleared (s : State) (scope g sid : Nat) : State :=
  s.running.foldl (clearOne (s.sameInstance scope sid) (groupBit scope g)) s

theorem announceTerm_narrow {scope : Nat} (h : scope ≤ 4) (g sid : Nat) (s : State) : announceTerm scope g sid s = .ok () s := by
  refine (M.bind_ok (M.get_run s)).trans ?_
  rw [if_pos (by simp; omega)]
  rfl

/-- The test of a reduction within a package changes no more than the agenda. -/
theorem testReduction_narrow {scope : Nat} (h : scope ≤ 4) (g sid : Nat) (s : State) :
    ∃ es, testReduction scope g sid s = .ok () { s with agenda := s.agenda ++ es } ∧
      (scope = 4 → (s.redGroup (redKey (s.colonyOf sid) 4 g)).parts = [] → es = []) ∧ (scope ≠ 4 → es = []) := by
  have hstay : (pure () : M Unit) s = .ok () { s with agenda := s.agenda ++ [] } := by rw [List.append_nil]; rfl
  by_cases h4 : scope = 4
  · subst h4
    have hrun : testReduction 4 g sid s =
        (if !((s.groupMembers 4 g sid).all fun b => (s.strand b).redTerms.getLsbD (groupBit 4 g)) then pure () else
          match (s.redGroup (redKey (s.colonyOf sid) 4 g)).parts with
          | [] => pure ()
          | p :: _ =>
            if (decide (4 = 4) || (s.remoteTerms (s.jobOf sid) 5 g).all fun e => lookupD 0 s.units.remoteTerms (remoteKey (s.jobOf sid) 7 g e.1) ≥ 2) &&
              (s.redGroup (redKey (s.colonyOf sid) 4 g)).whole (contributionSize p.op p.ty p.n)
                (s.redCount 4 (s.jobOf sid) g (s.redGroup (redKey (s.colonyOf sid) 4 g))) then
              post (.reductionResultDeliver 4 (s.colonyOf sid * 16 + g) 0 none)
            else pure () : M Unit) s := by
      refine (M.bind_ok (M.get_run s)).trans ?_
      rw [if_neg (by simp)]
      dsimp only
      split
      · rfl
      · rw [if_neg (by simp [State.redRoot])]
        rfl
    rw [hrun]
    split
    · exact ⟨[], hstay, fun _ _ => rfl, fun _ => rfl⟩
    · cases hparts : (s.redGroup (redKey (s.colonyOf sid) 4 g)).parts with
      | nil => exact ⟨[], hstay, fun _ _ => rfl, fun _ => rfl⟩
      | cons p ps =>
        dsimp only
        split
        · exact ⟨_, rfl, fun _ hno => absurd hno (List.cons_ne_nil _ _), fun hne => absurd rfl hne⟩
        · exact ⟨[], hstay, fun _ _ => rfl, fun _ => rfl⟩
  · refine ⟨[], ?_, fun h => absurd h h4, fun _ => rfl⟩
    refine (M.bind_ok (M.get_run s)).trans ?_
    rw [if_pos (by simp; omega)]
    exact hstay

/-- The test of a phase within a package. -/
theorem testPhase_narrow {scope : Nat} (h : scope ≤ 4) (g sid : Nat) (s : State) :
    testPhase scope g sid s =
      testReduction scope g sid (if s.phaseDone scope g sid then phaseCleared s scope g sid else s) := by
  unfold testPhase
  rw [M.bind_ok (announceTerm_narrow h g sid s), M.bind_ok (M.get_run s)]
  by_cases hd : s.phaseDone scope g sid = true
  · have h5 : ¬scope ≥ 5 := by omega
    have h6 : ¬scope = 6 := by omega
    rw [if_pos hd, if_pos hd]
    simp only [h5, h6, if_false, bind_assoc, pure_bind]
    refine M.bind_ok (forIn_run (g := clearOne (s.sameInstance scope sid) (groupBit scope g)) (fun b u => ?_) s.running s)
    unfold clearOne
    split <;> rfl
  · rw [if_neg hd, if_neg hd]

/-! ## The current strand among the members -/

/-- `v` is `s` with the current strand replaced by `r`, as a list of strands may show it. -/
structure Around (s : State) (r : Strand) (v : State) : Prop where
  rest : v = { s with strands := v.strands }
  self : v.self = r
  other : ∀ b, b ≠ s.cur → v.strand b = s.strand b
  runs : ∀ b, b ≠ s.cur → (b ∈ v.running ↔ b ∈ s.running)

theorem Around.refl (s : State) : Around s s.self s := ⟨rfl, rfl, fun _ _ => rfl, fun _ _ => .rfl⟩

theorem Around.cur {s : State} {r : Strand} {v : State} (h : Around s r v) : v.cur = s.cur := by rw [h.rest]

theorem Around.withSelf {s : State} {r : Strand} {v : State} (h : Around s r v) {t : Strand} (hlive : t.live = r.live) :
    Around s t (v.withSelf t) := by
  refine ⟨?_, State.self_withSelf .., fun b hb => ?_, fun b hb => ?_⟩
  · exact congrArg (fun y : State => { y with strands := storeAt Strand.idle v.cur t v.strands }) h.rest
  · rw [State.strand_withSelf_ne _ _ _ (h.cur.symm ▸ hb), h.other b hb]
  · refine (mem_running_withStrand (hlive.trans ?_) (.inl (h.cur.symm ▸ hb))).trans (h.runs b hb)
    rw [← h.self]
    rfl

theorem Around.sameInstance {s : State} {r : Strand} {v : State} (h : Around s r v) : v.sameInstance = s.sameInstance := by
  rw [h.rest]; rfl

theorem Around.onlySelf {s : State} {r : Strand} {v : State} (h : Around s r v) : OnlySelf s r v := by
  refine ⟨h.cur, h.self, h.other, fun c => ?_, ⟨[], ?_, by simp⟩, ?_⟩ <;> rw [h.rest]
  · exact ⟨rfl, rfl, rfl, rfl, rfl⟩
  · exact (List.append_nil _).symm
  · rfl

theorem mem_running_of_live {s : State} {b : Nat} (h : (s.strand b).live = true) : b ∈ s.running := runs1_of_lookup h

theorem sameInstance_refl {s : State} {scope : Nat} (h1 : 1 ≤ scope) (h4 : scope ≤ 4) (b : Nat) : s.sameInstance scope b b = true := by
  have hcases : scope = 1 ∨ scope = 2 ∨ scope = 3 ∨ scope = 4 := by omega
  rcases hcases with rfl | rfl | rfl | rfl <;> simp [State.sameInstance]

section
variable {s v : State} {r : Strand} {scope g : Nat} (h : Around s r v)
include h

theorem mem_groupMembers_other {m : Nat} (hm : m ≠ s.cur) : m ∈ v.groupMembers scope g s.cur ↔ m ∈ others s scope g := by
  simp only [State.groupMembers, others, List.mem_filter, h.runs m hm, h.sameInstance, h.other m hm, Bool.and_eq_true, decide_eq_true_eq, hm,
    ne_eq, not_false_eq_true, and_true]

/-- A member that has not arrived keeps the phase open. -/
theorem phaseDone_of_pending (hm : ∃ m ∈ others s scope g, (s.strand m).arrived.getLsbD (groupBit scope g) = false) :
    v.phaseDone scope g s.cur = false := by
  obtain ⟨m, hm, hnot⟩ := hm
  have hne : m ≠ s.cur := by simpa using (List.mem_filter.mp hm).2
  have hmem := (mem_groupMembers_other h hne).mpr hm
  rw [← h.other m hne] at hnot
  have hall : ((v.groupMembers scope g s.cur).all fun b => (v.strand b).arrived.getLsbD (groupBit scope g)) = false := by
    rw [List.all_eq_false]
    exact ⟨m, hmem, by simp [hnot]⟩
  simp only [State.phaseDone, State.hereDone, hall, Bool.false_and, Bool.and_false]

/-- The last arrival completes the phase. -/
theorem phaseDone_of_last (h1 : 1 ≤ scope) (h4 : scope ≤ 4) (hlive : r.live = true) (harrived : r.arrived.getLsbD (groupBit scope g) = true)
    (hall : ∀ m ∈ others s scope g, (s.strand m).arrived.getLsbD (groupBit scope g))
    (hsome : r.members.getLsbD (groupBit scope g) = true ∨ others s scope g ≠ []) : v.phaseDone scope g s.cur = true := by
  have hself : v.strand s.cur = r := by rw [← h.self, State.self, h.cur]
  have hmember : (v.groupMembers scope g s.cur).isEmpty = false := by
    rw [List.isEmpty_eq_false_iff_exists_mem]
    rcases hsome with hm | hm
    · refine ⟨s.cur, List.mem_filter.mpr ⟨mem_running_of_live (by rw [hself, hlive]), ?_⟩⟩
      rw [sameInstance_refl h1 h4, hself, hm]; rfl
    · obtain ⟨m, hm⟩ := List.exists_mem_of_ne_nil _ hm
      exact ⟨m, (mem_groupMembers_other h (by simpa using (List.mem_filter.mp hm).2)).mpr hm⟩
  have hdone : ((v.groupMembers scope g s.cur).all fun b => (v.strand b).arrived.getLsbD (groupBit scope g)) = true := by
    rw [List.all_eq_true]
    intro m hm
    by_cases hne : m = s.cur
    · rw [hne, hself, harrived]
    · rw [h.other m hne]
      exact hall m ((mem_groupMembers_other h hne).mp hm)
  have h5 : scope < 5 := by omega
  have h6 : scope ≠ 6 := by omega
  simp [State.phaseDone, State.hereDone, State.hasMember, hdone, hmember, h5, h6]

end

/-! ## `arv` and `ard` -/

/-- The strand that has arrived, and left the group where it drops. -/
def arrivedIn (t : Strand) (b : Nat) (drop : Bool) : Strand :=
  { t with arrived := setBit t.arrived b, members := if drop then clearBit t.members b else t.members }

theorem arrived_complete (t pre : Strand) (d : Desc) (n : Nat) (p : Reg) : (t.complete pre d n p).arrived = t.arrived := by
  have h := congrArg Strand.arrived (Strand.still_complete t pre d n p)
  exact h

theorem clearBit_setBit (m : BitVec 128) (b : Nat) : clearBit (setBit m b) b = clearBit m b := by
  apply BitVec.eq_of_getLsbD_eq
  intro i hi
  simp only [clearBit, setBit, BitVec.getLsbD_and, BitVec.getLsbD_or, BitVec.getLsbD_not]
  cases (1#128 <<< b).getLsbD i <;> simp

theorem getLsbD_setBit (m : BitVec 128) {b : Nat} (hb : b < 128) : (setBit m b).getLsbD b = true := by
  simp [setBit, hb]

theorem groupBit_lt (scope g : Nat) : groupBit scope g < 128 := by unfold groupBit; omega

/-- Sets an arrival of the current strand. -/
theorem arrive_run {s v : State} {r : Strand} (h : Around s r v) {scope : Nat} (h4 : scope ≤ 4) (g : Nat) :
    ∃ y, Around s { r with arrived := setBit r.arrived (groupBit scope g) } y ∧ arrive scope g s.cur v =
      testReduction scope g s.cur (if y.phaseDone scope g s.cur then phaseCleared y scope g s.cur else y) := by
  refine ⟨v.withSelf { r with arrived := setBit r.arrived (groupBit scope g) }, h.withSelf rfl, ?_⟩
  rw [← testPhase_narrow h4]
  have hmod : modStrand s.cur (fun t => { t with arrived := t.arrived ||| (1#128 <<< groupBit scope g) }) v =
      .ok () (v.withSelf { r with arrived := setBit r.arrived (groupBit scope g) }) := by
    rw [← h.self, State.withSelf, h.cur]
    have hs : v.strand s.cur = v.self := by rw [State.self, h.cur]
    rw [← hs]
    rfl
  exact M.bind_ok hmod

/-- An arrival that is allowed comes to the test of its phase. -/
theorem arriveAt_run {s v : State} {r : Strand} {c : Reg} {drop : Bool} {scope g : Nat} (hcheck : checkGroup c false v = .ok (scope, g) v)
    (h : Around s r v) (h4 : scope ≤ 4) (hpass : (!r.members.getLsbD (groupBit scope g) || r.arrived.getLsbD (groupBit scope g) ||
      s.gangPending s.cur scope g) = false) :
    ∃ y, Around s (arrivedIn r (groupBit scope g) drop) y ∧ arriveAt c drop v =
      testReduction scope g s.cur (if y.phaseDone scope g s.cur then phaseCleared y scope g s.cur else y) := by
  have hgang : v.gangPending v.cur scope g = s.gangPending s.cur scope g := by
    rw [h.cur, h.rest]; rfl
  have hraise : raiseIf (!v.self.members.getLsbD (groupBit scope g) || v.self.arrived.getLsbD (groupBit scope g) ||
      v.gangPending v.cur scope g) cBar (Cap.cursor c.val) v = .ok () v := raiseIf_of_not (by rw [h.self, hgang, hpass]) ..
  unfold arriveAt
  rw [M.bind_ok hcheck]
  dsimp only
  rw [M.bind_ok (M.get_run v)]
  rw [M.bind_ok hraise]
  cases drop with
  | false =>
    obtain ⟨y, hy, hrun⟩ := arrive_run h h4 g
    refine ⟨y, hy, ?_⟩
    rw [if_neg (by simp), h.cur]
    exact hrun
  | true =>
    have hleft := h.withSelf (t := { r with members := clearBit r.members (groupBit scope g) }) rfl
    obtain ⟨y, hy, hrun⟩ := arrive_run hleft h4 g
    refine ⟨y, hy, ?_⟩
    rw [if_pos rfl, h.cur, M.bind_ok (modSelf_run ..), h.self]
    exact hrun

theorem testReduction_quiet {scope : Nat} (h : scope ≤ 4) {g sid : Nat} {s : State}
    (hred : scope = 4 → (s.redGroup (redKey (s.colonyOf sid) 4 g)).parts = []) : testReduction scope g sid s = .ok () s := by
  obtain ⟨es, hrun, h4, hother⟩ := testReduction_narrow h g sid s
  have hes : es = [] := by
    by_cases hs : scope = 4
    · exact h4 hs (hred hs)
    · exact hother hs
  rw [hrun, hes, List.append_nil]

theorem Around.noReduction {s v : State} {r : Strand} (h : Around s r v) {scope g : Nat} (hred : NoReduction s scope g) :
    scope = 4 → (v.redGroup (redKey (v.colonyOf s.cur) 4 g)).parts = [] := by
  intro h4
  rw [h.rest]
  exact hred h4

/-- What a completed phase shows: the current strand and the other members without their arrivals. -/
theorem phaseCleared_shows {s v : State} {r : Strand} (h : Around s r v) {scope g : Nat} (h1 : 1 ≤ scope) (h4 : scope ≤ 4)
    (hlive : r.live = true) : (phaseCleared v scope g s.cur).self = unarrived (groupBit scope g) r ∧
      (∀ m ∈ others s scope g, (phaseCleared v scope g s.cur).strand m = unarrived (groupBit scope g) (s.strand m)) ∧
      (phaseCleared v scope g s.cur).cur = s.cur ∧
      phaseCleared v scope g s.cur = { v with strands := (phaseCleared v scope g s.cur).strands } := by
  have hrest : phaseCleared v scope g s.cur = { v with strands := (phaseCleared v scope g s.cur).strands } := foldl_clearOne_rest ..
  have hcur : (phaseCleared v scope g s.cur).cur = s.cur := by rw [hrest]; exact h.cur
  have hself : v.strand s.cur = r := by rw [← h.self, State.self, h.cur]
  refine ⟨?_, fun m hm => ?_, hcur, hrest⟩
  · rw [State.self, hcur, phaseCleared, strand_foldl_clearOne, hself, if_pos]
    exact ⟨mem_running_of_live (by rw [hself, hlive]), sameInstance_refl h1 h4 _⟩
  · obtain ⟨hmember, hne⟩ := List.mem_filter.mp hm
    have hne : m ≠ s.cur := by simpa using hne
    obtain ⟨hrun, hsame⟩ := List.mem_filter.mp hmember
    rw [phaseCleared, strand_foldl_clearOne, h.other m hne, if_pos]
    rw [Bool.and_eq_true] at hsame
    exact ⟨(h.runs m hne).mpr hrun, by rw [h.sameInstance]; exact hsame.1⟩

section Arrive
variable {i : Instr} {o : OpR} {s : State} {drop : Bool} (h : Issues s [o.a])
variable (hx : exec i s = runOp ⟨o.st, 0, .joint, [wSrc o.a]⟩ (do let c ← readW 0 o.a; arriveAt c drop) s)
include h hx

theorem arrive_traps_fault {f : BitVec 8} (hf : checkFault s (w s o.a) Cap.br [Cap.kGroup] 1 = some f) :
    Traps i s f (Cap.cursor (w s o.a).val) := by
  refine traps_of_runOp hx Steer.noConfusion (h.clear (by simp [wSrc])) ?_ (checkFault_ne_syscall hf)
  rw [M.bind_ok (h.readW_same (by rw [State.self_withSelf]; exact .begun ..) 0 (by simp))]
  exact M.bind_error (checkGroup_fault_begun _ hf)

theorem arrive_traps_misnamed (hf : checkFault s (w s o.a) Cap.br [Cap.kGroup] 1 = none)
    (hno : ¬∃ scope g, NamesGroup s (w s o.a) scope g) : Traps i s cPerm (Cap.cursor (w s o.a).val) := by
  refine traps_of_runOp hx Steer.noConfusion (h.clear (by simp [wSrc])) ?_ (by decide)
  rw [M.bind_ok (h.readW_same (by rw [State.self_withSelf]; exact .begun ..) 0 (by simp))]
  exact M.bind_error (checkGroup_misnamed_begun _ hf hno)

variable {scope g : Nat} (hf : checkFault s (w s o.a) Cap.br [Cap.kGroup] 1 = none) (hname : NamesGroup s (w s o.a) scope g)
include hf hname

theorem arrive_traps_bar (hbad : s.self.members.getLsbD (groupBit scope g) = false ∨ s.self.arrived.getLsbD (groupBit scope g) = true ∨
    s.gangPending s.cur scope g = true) : Traps i s cBar (Cap.cursor (w s o.a).val) := by
  refine traps_of_runOp hx Steer.noConfusion (h.clear (by simp [wSrc])) ?_ (by decide)
  rw [M.bind_ok (h.readW_same (by rw [State.self_withSelf]; exact .begun ..) 0 (by simp))]
  refine (M.bind_ok (checkGroup_named_begun _ hf hname)).trans ?_
  refine (M.bind_ok (M.get_run _)).trans (M.bind_error (raiseIf_of ?_ ..))
  rw [State.self_withSelf]
  change (!s.self.members.getLsbD (groupBit scope g) || s.self.arrived.getLsbD (groupBit scope g) || s.gangPending s.cur scope g) = true
  rcases hbad with hb | hb | hb <;> simp [hb]

/-- An arrival that is allowed comes to the test of its phase. -/
theorem arrive_eq (h4 : scope ≤ 4) (hmem : s.self.members.getLsbD (groupBit scope g) = true)
    (hnot : s.self.arrived.getLsbD (groupBit scope g) = false) (hgang : s.gangPending s.cur scope g = false) :
    ∃ v, Around s (arrivedIn (s.self.begun ⟨o.st, 0, .joint, [wSrc o.a]⟩) (groupBit scope g) drop) v ∧
      (do let c ← readW 0 o.a; arriveAt c drop) (s.withSelf (s.self.begun ⟨o.st, 0, .joint, [wSrc o.a]⟩)) =
        testReduction scope g s.cur (if v.phaseDone scope g s.cur then phaseCleared v scope g s.cur else v) := by
  have hpass : (!s.self.members.getLsbD (groupBit scope g) || s.self.arrived.getLsbD (groupBit scope g) ||
      s.gangPending s.cur scope g) = false := by simp [hmem, hnot, hgang]
  have hzero := (Around.refl s).withSelf (t := s.self.begun ⟨o.st, 0, .joint, [wSrc o.a]⟩) rfl
  rw [M.bind_ok (h.readW_same (by rw [State.self_withSelf]; exact .begun ..) 0 (by simp))]
  exact arriveAt_run (checkGroup_named_begun _ hf hname) hzero h4 hpass

theorem arrive_leads (h4 : scope ≤ 4) (hmem : s.self.members.getLsbD (groupBit scope g) = true)
    (hnot : s.self.arrived.getLsbD (groupBit scope g) = false) (hgang : s.gangPending s.cur scope g = false) (hred : NoReduction s scope g)
    (hopen : ∃ m ∈ others s scope g, (s.strand m).arrived.getLsbD (groupBit scope g) = false) :
    Leads i s (s.withSelf (arrivedIn s.self (groupBit scope g) drop)) := by
  obtain ⟨v, hv, hrun⟩ := arrive_eq h hx hf hname h4 hmem hnot hgang
  rw [if_neg (by rw [phaseDone_of_pending hv hopen]; exact Bool.false_ne_true), testReduction_quiet h4 (hv.noReduction hred)] at hrun
  exact leads_of_runOp hx Steer.noConfusion (h.clear (by simp [wSrc])) hrun hv.onlySelf rfl rfl rfl rfl rfl rfl

theorem arrive_done (h4 : scope ≤ 4) (hmem : s.self.members.getLsbD (groupBit scope g) = true)
    (hnot : s.self.arrived.getLsbD (groupBit scope g) = false) (hgang : s.gangPending s.cur scope g = false) (hred : NoReduction s scope g)
    (hlive : s.self.live = true) (hall : ∀ m ∈ others s scope g, (s.strand m).arrived.getLsbD (groupBit scope g))
    (hsome : drop = false ∨ others s scope g ≠ []) : ∃ u, exec i s = .next u ∧ u.self.pcc = s.self.pccAt s.self.npc ∧
      u.self.arrived = clearBit s.self.arrived (groupBit scope g) ∧
      ∀ m ∈ others s scope g, (u.strand m).arrived = clearBit (s.strand m).arrived (groupBit scope g) := by
  obtain ⟨v, hv, hrun⟩ := arrive_eq h hx hf hname h4 hmem hnot hgang
  have h1 : 1 ≤ scope := hname.2.2.2.1
  have hdone := phaseDone_of_last hv h1 h4 hlive (getLsbD_setBit _ (groupBit_lt scope g)) hall
    (hsome.imp_left fun hd => by subst hd; exact hmem)
  obtain ⟨hself, hother, hcur, hrest⟩ := phaseCleared_shows hv h1 h4 hlive
  rw [if_pos hdone, testReduction_quiet h4 (by rw [hrest]; exact hv.noReduction hred)] at hrun
  have hclear : s.self.Clear [wSrc o.a] := h.clear (by simp [wSrc])
  obtain ⟨-, -, htogether, -⟩ := id hclear
  refine ⟨_, hx.trans (runOp_ok Steer.noConfusion hclear hrun), ?_, ?_, fun m hm => ?_⟩
  · rw [State.self_commit_next _ _ _ (by rw [hself]; exact htogether), Strand.complete_pcc, hself]
    rfl
  · rw [State.self_commit_next _ _ _ (by rw [hself]; exact htogether), hself, arrived_complete]
    exact clearBit_setBit _ _
  · have hne : m ≠ s.cur := by simpa using (List.mem_filter.mp hm).2
    rw [State.strand_commit_ne _ _ _ _ _ _ (by rw [hcur]; exact hne), hother m hm]
    rfl

end Arrive

/-! ## `bwt` -/

section Bwt
variable {o : OpR} {s : State} (h : Issues s [o.a])
include h

/-- `bwt` up to the check of its group. -/
theorem bwt_eq : ∃ (body : M Unit), exec (.bwt o) s = runOp ⟨o.st, 0, .joint, [wSrc o.a]⟩ body s ∧
    body (s.withSelf (s.self.begun ⟨o.st, 0, .joint, [wSrc o.a]⟩)) = (do
      let n ← checkGroup (w s o.a) false
      let s ← get
      if s.self.arrived.getLsbD (groupBit n.1 n.2) || s.gangPending s.cur n.1 n.2 then throw Exc.retry else pure ())
        (s.withSelf (s.self.begun ⟨o.st, 0, .joint, [wSrc o.a]⟩)) := by
  refine ⟨_, rfl, ?_⟩
  rw [M.bind_ok (h.readW_same (by rw [State.self_withSelf]; exact .begun ..) 0 (by simp))]

theorem bwt_traps_fault {f : BitVec 8} (hf : checkFault s (w s o.a) Cap.br [Cap.kGroup] 1 = some f) :
    Traps (.bwt o) s f (Cap.cursor (w s o.a).val) := by
  obtain ⟨body, hx, hbody⟩ := bwt_eq h
  exact traps_of_runOp hx Steer.noConfusion (h.clear (by simp [wSrc])) (hbody.trans (M.bind_error (checkGroup_fault_begun _ hf)))
    (checkFault_ne_syscall hf)

theorem bwt_traps_misnamed (hf : checkFault s (w s o.a) Cap.br [Cap.kGroup] 1 = none)
    (hno : ¬∃ scope g, NamesGroup s (w s o.a) scope g) : Traps (.bwt o) s cPerm (Cap.cursor (w s o.a).val) := by
  obtain ⟨body, hx, hbody⟩ := bwt_eq h
  exact traps_of_runOp hx Steer.noConfusion (h.clear (by simp [wSrc])) (hbody.trans (M.bind_error (checkGroup_misnamed_begun _ hf hno)))
    (by decide)

variable {scope g : Nat} (hf : checkFault s (w s o.a) Cap.br [Cap.kGroup] 1 = none) (hname : NamesGroup s (w s o.a) scope g)
include hf hname

theorem bwt_body {body : M Unit} (hbody : body (s.withSelf (s.self.begun ⟨o.st, 0, .joint, [wSrc o.a]⟩)) = (do
      let n ← checkGroup (w s o.a) false
      let s ← get
      if s.self.arrived.getLsbD (groupBit n.1 n.2) || s.gangPending s.cur n.1 n.2 then throw Exc.retry else pure ())
        (s.withSelf (s.self.begun ⟨o.st, 0, .joint, [wSrc o.a]⟩))) :
    body (s.withSelf (s.self.begun ⟨o.st, 0, .joint, [wSrc o.a]⟩)) =
      (if s.self.arrived.getLsbD (groupBit scope g) || s.gangPending s.cur scope g then throw Exc.retry else pure () : M Unit)
        (s.withSelf (s.self.begun ⟨o.st, 0, .joint, [wSrc o.a]⟩)) := by
  rw [hbody, M.bind_ok (checkGroup_named_begun _ hf hname), M.bind_ok (M.get_run _), State.self_withSelf]
  rfl

theorem bwt_leads (hnot : s.self.arrived.getLsbD (groupBit scope g) = false) (hgang : s.gangPending s.cur scope g = false) :
    Leads (.bwt o) s s := by
  obtain ⟨body, hx, hbody⟩ := bwt_eq h
  have hrun := bwt_body h hf hname hbody
  rw [hnot, hgang, if_neg (by simp)] at hrun
  exact leads_of_twin_begun hx Steer.noConfusion (h.clear (by simp [wSrc])) hrun (Twin.begun s _)

theorem bwt_waits (hpend : s.self.arrived.getLsbD (groupBit scope g) = true ∨ s.gangPending s.cur scope g = true) : Waits (.bwt o) s := by
  obtain ⟨body, hx, hbody⟩ := bwt_eq h
  have hrun := bwt_body h hf hname hbody
  rw [if_pos (by rcases hpend with hp | hp <;> simp [hp])] at hrun
  exact waits_of_idle (exec_of_retry (body := do body; pure .next) hx Steer.noConfusion rfl (h.clear (by simp [wSrc]))
    (M.bind_error hrun)) (.refl s) rfl rfl

end Bwt

theorem arrivalsCompletePhases : ArrivalsCompletePhases := by
  intro o s scope g h c a t b refuses
  have harv : exec (.arv o) s = runOp ⟨o.st, 0, .joint, [wSrc o.a]⟩ (do let c ← readW 0 o.a; arriveAt c false) s := rfl
  have hard : exec (.ard o) s = runOp ⟨o.st, 0, .joint, [wSrc o.a]⟩ (do let c ← readW 0 o.a; arriveAt c true) s := rfl
  refine ⟨fun f hf => ⟨⟨arrive_traps_fault h harv hf, arrive_traps_fault h hard hf⟩, bwt_traps_fault h hf⟩, fun hf => ⟨fun hno => ?_, fun hname => ?_⟩⟩
  · exact ⟨⟨arrive_traps_misnamed h harv hf hno, arrive_traps_misnamed h hard hf hno⟩, bwt_traps_misnamed h hf hno⟩
  · refine ⟨fun hnot hgang => bwt_leads h hf hname hnot hgang, fun hpend => bwt_waits h hf hname hpend,
      fun hbad => ⟨arrive_traps_bar h harv hf hname hbad, arrive_traps_bar h hard hf hname hbad⟩, fun hmem hnot hgang h4 hred => ⟨fun hopen => ?_, ?_⟩⟩
    · exact ⟨arrive_leads h harv hf hname h4 hmem hnot hgang hred hopen, arrive_leads h hard hf hname h4 hmem hnot hgang hred hopen⟩
    · intro hlive hall done
      exact ⟨arrive_done h harv hf hname h4 hmem hnot hgang hred hlive hall (.inl rfl),
        fun hsome => arrive_done h hard hf hname h4 hmem hnot hgang hred hlive hall (.inr hsome)⟩

end Sys2Proof.Claims
end

section
/-! SUPPORT. Membership masks (R264). -/

namespace Sys2Proof.Claims

open Sys2Proof.Machine

/-! ## What a membership change leaves of a strand -/

/-- The current strand is `t` but for arrivals that have gone. -/
def FewerArrivals (cur : Nat) (t : Strand) (u : State) : Prop :=
  u.cur = cur ∧ ∃ m, u.self = { t with arrived := m } ∧ ∀ i, m.getLsbD i = true → t.arrived.getLsbD i = true

theorem getLsbD_of_clearBit {m : BitVec 128} {b i : Nat} (h : (clearBit m b).getLsbD i = true) : m.getLsbD i = true := by
  rw [clearBit, BitVec.getLsbD_and, Bool.and_eq_true] at h
  exact h.1

/-- The test of a phase within a package completes, and clears arrivals at most. -/
theorem testPhase_fewer {scope : Nat} (h4 : scope ≤ 4) (g sid : Nat) {cur : Nat} {t : Strand} {u : State} (hu : FewerArrivals cur t u) :
    ∃ y, testPhase scope g sid u = .ok () y ∧ FewerArrivals cur t y := by
  obtain ⟨hcur, m, hself, hm⟩ := hu
  have hcleared : FewerArrivals cur t (if u.phaseDone scope g sid then phaseCleared u scope g sid else u) := by
    split
    · have hrest : phaseCleared u scope g sid = { u with strands := (phaseCleared u scope g sid).strands } := foldl_clearOne_rest ..
      have hcur' : (phaseCleared u scope g sid).cur = u.cur := by rw [hrest]
      refine ⟨hcur'.trans hcur, ?_⟩
      rw [State.self, hcur', phaseCleared, strand_foldl_clearOne]
      split
      · exact ⟨clearBit m (groupBit scope g), (congrArg (unarrived _) hself : unarrived (groupBit scope g) u.self = _),
          fun i hi => hm i (getLsbD_of_clearBit hi)⟩
      · exact ⟨m, hself, hm⟩
    · exact ⟨hcur, m, hself, hm⟩
  obtain ⟨es, hrun, -⟩ := testReduction_narrow h4 g sid (if u.phaseDone scope g sid then phaseCleared u scope g sid else u)
  exact ⟨_, (testPhase_narrow h4 g sid u).trans hrun, hcleared⟩

/-- A loop whose steps all complete and keep a predicate. -/
theorem forIn_keeps {α : Type} {P : State → Prop} {f : α → PUnit → M (ForInStep PUnit)}
    (hf : ∀ a s, P s → ∃ y, f a ⟨⟩ s = .ok (.yield ⟨⟩) y ∧ P y) (l : List α) {s : State} (hs : P s) :
    ∃ y, forIn l ⟨⟩ f s = .ok ⟨⟩ y ∧ P y := by
  induction l generalizing s with
  | nil => exact ⟨s, rfl, hs⟩
  | cons a l ih =>
    obtain ⟨u, hu, hpu⟩ := hf a s hs
    obtain ⟨y, hy, hpy⟩ := ih hpu
    exact ⟨y, by rw [List.forIn_cons, M.bind_ok hu]; exact hy, hpy⟩

/-- The strand with the mask of one scope replaced. -/
def enrolled (t : Strand) (scope new : Nat) : Strand :=
  let old := scopeMask t.members scope
  let gone := BitVec.ofNat 128 ((old &&& (65535 - new)) * 2 ^ (scope % 8 * 16))
  let come := BitVec.ofNat 128 ((new &&& (65535 - old)) * 2 ^ (scope % 8 * 16))
  { t with
    members := t.members &&& ~~~ gone ||| come
    arrived := t.arrived &&& ~~~ gone
    syncing := t.syncing &&& ~~~ gone }

theorem setMembership_run {scope : Nat} (h4 : scope ≤ 4) (new : Nat) (s : State) :
    ∃ y, setMembership scope new s = .ok () y ∧ FewerArrivals s.cur (enrolled s.self scope new) y := by
  have hstart : FewerArrivals s.cur (enrolled s.self scope new) (s.withSelf (enrolled s.self scope new)) :=
    ⟨rfl, _, by rw [State.self_withSelf], fun _ h => h⟩
  obtain ⟨y, hy, hfewer⟩ := forIn_keeps (P := FewerArrivals s.cur (enrolled s.self scope new))
    (f := fun g _ => (if (scopeMask s.self.members scope).testBit g = new.testBit g then pure (.yield ⟨⟩)
      else do testPhase scope g s.cur; pure (.yield ⟨⟩) : M (ForInStep PUnit))) (fun g u hu => by
    split
    · exact ⟨u, rfl, hu⟩
    · obtain ⟨y, hy, hfew⟩ := testPhase_fewer h4 g s.cur hu
      exact ⟨y, M.bind_ok hy, hfew⟩) (List.range 16) hstart
  refine ⟨y, ?_, hfewer⟩
  unfold setMembership
  rw [M.bind_ok (M.get_run s)]
  exact (M.bind_ok (modSelf_run ..)).trans ((M.bind_ok hy).trans rfl)

/-! ## The bits of a mask -/

theorem testBit_complement {n : Nat} (h : n < 65536) (i : Nat) : (65535 - n).testBit i = (decide (i < 16) && !n.testBit i) := by
  rw [show 65535 - n = 2 ^ 16 - (n + 1) by omega]
  exact Nat.testBit_two_pow_sub_succ h i

theorem testBit_scopeMask (m : BitVec 128) {scope : Nat} (h : scope < 8) (i : Nat) :
    (scopeMask m scope).testBit i = (decide (i < 16) && m.getLsbD (16 * scope + i)) := by
  rw [scopeMask, Nat.mod_eq_of_lt h, show (65536 : Nat) = 2 ^ 16 from rfl, Nat.testBit_mod_two_pow, Nat.testBit_div_two_pow, Nat.mul_comm scope, Nat.add_comm]
  rfl

theorem getLsbD_ofNat_shift (n : Nat) (scope : Nat) (h : scope < 8) {i : Nat} (hi : i < 128) :
    (BitVec.ofNat 128 (n * 2 ^ (scope % 8 * 16))).getLsbD i = (decide (16 * scope ≤ i) && n.testBit (i - 16 * scope)) := by
  rw [BitVec.getLsbD_ofNat, Nat.mod_eq_of_lt h, Nat.mul_comm scope, Nat.testBit_mul_two_pow]
  simp [hi]

/-- The bits of the masks once one scope has a new one. -/
theorem enrolled_bits (t : Strand) {scope new : Nat} (h4 : scope ≤ 4) (hnew : new < 65536) {i : Nat} (hi : i < 128) :
    (enrolled t scope new).members.getLsbD i = (if i / 16 = scope then new.testBit (i % 16) else t.members.getLsbD i) ∧
      (i / 16 = scope → t.members.getLsbD i = true → new.testBit (i % 16) = false → (enrolled t scope new).arrived.getLsbD i = false) := by
  have h8 : scope < 8 := by omega
  have hold : scopeMask t.members scope < 65536 := Nat.mod_lt _ (by omega)
  have hbig {n : Nat} (hn : n < 65536) {j : Nat} (hj : ¬j < 16) : n.testBit j = false :=
    Nat.testBit_lt_two_pow (lt_of_lt_of_le hn (Nat.pow_le_pow_right (by omega) (Nat.le_of_not_lt hj) : 2 ^ 16 ≤ 2 ^ j))
  unfold enrolled
  simp only [BitVec.getLsbD_or, BitVec.getLsbD_and, BitVec.getLsbD_not, getLsbD_ofNat_shift _ _ h8 hi, Nat.testBit_and,
    testBit_complement hnew, testBit_complement hold, testBit_scopeMask _ h8, hi, decide_true, Bool.true_and]
  by_cases hs : i / 16 = scope
  · have hle : 16 * scope ≤ i := by omega
    have hlt : i - 16 * scope < 16 := by omega
    have hidx : i - 16 * scope = i % 16 := by omega
    have hback : 16 * scope + i % 16 = i := by omega
    simp only [hs, hle, hidx, hback, Nat.mod_lt i (by omega : 16 > 0), decide_true, Bool.true_and, if_true]
    cases t.members.getLsbD i <;> cases new.testBit (i % 16) <;> simp
  · rw [if_neg hs]
    refine ⟨?_, fun h => absurd h hs⟩
    by_cases hle : 16 * scope ≤ i
    · have hge : ¬i - 16 * scope < 16 := by omega
      simp [hge]
    · simp [hle]

/-! ## `bmem` -/

/-- The check of `bmem`. -/
def maskCheck (o : OpRRC) : M Unit := do
  let m ← peekX o.x
  illIf (m.toNat ≥ 65536)

theorem maskCheck_run {o : OpRRC} {s : State} (h : Issues s [o.a, o.x, o.y]) :
    maskCheck o s = illIf (decide ((x s o.x).toNat ≥ 65536)) s := by
  have hframe : o.x.toNat < s.self.win.frame := (h.2 ⟨0, o.x.toNat, true, true⟩ (by simp)).2 rfl
  have hpeek : peekX o.x s = .ok (x s o.x) s := by
    unfold peekX
    rw [M.bind_ok (self_run s), if_pos hframe]
    rfl
  exact M.bind_ok hpeek

/-- What the end of an instruction shows that has changed memberships and written a register. -/
theorem shows_commit_putW {s y : State} {n : RegNo} {r : Reg} {scope new : Nat} {m : BitVec 128} (d : Desc)
    (hself : y.self = { enrolled (s.self.begun d) scope new with arrived := m }) (htogether : s.self.apart = none) :
    let u := (y.withSelf (y.self.putW n.toNat r)).commit s d 0 .next
    u.self.pcc = s.self.pccAt s.self.npc ∧ w u n = r ∧ (∀ p, p % 256 ≠ s.self.physOf n.toNat → u.self.phys p = s.self.phys p) ∧
      u.self.members = (enrolled s.self scope new).members ∧ u.self.arrived = m := by
  intro u
  have hput : (y.withSelf (y.self.putW n.toNat r)).self =
      ({ enrolled (s.self.begun d) scope new with arrived := m } : Strand).putW n.toNat r := by
    rw [State.self_withSelf, hself]
  generalize ht : ({ enrolled (s.self.begun d) scope new with arrived := m } : Strand) = t at hput
  have hregs : t.regs = s.self.regs := by rw [← ht]; rfl
  have hphysOf : t.physOf n.toNat = s.self.physOf n.toNat := by rw [← ht]; rfl
  have hu : u.self = (t.putW n.toNat r).complete s.self d 0 (s.self.pccAt s.self.npc) := by
    have h := State.self_commit_next (s := y.withSelf (y.self.putW n.toNat r)) s d 0 (by rw [hput, ← ht]; exact htogether)
    rw [hput] at h
    refine h.trans ?_
    rw [← ht]
    rfl
  unfold w
  clear_value u
  generalize u.self = q at hu
  have hstill : q.still = t.still := by rw [hu, Strand.still_complete, Strand.still_putW]
  have hwin : q.physOf n.toNat = t.physOf n.toNat := by
    have h := congrArg Strand.win hstill
    have h : q.win = t.win := h
    rw [Strand.physOf, h]
    rfl
  have hphys (p : Nat) : q.phys p = (t.putPhys (t.physOf n.toNat) r).phys p := by rw [hu, Strand.complete_phys]; rfl
  refine ⟨by rw [hu, Strand.complete_pcc], ?_, fun p hp => ?_, ?_, ?_⟩
  · rw [hphys, hwin, Strand.phys_putPhys_same _ _ _ (Strand.physOf_lt _ _)]
  · rw [hphys, Strand.phys_putPhys_ne _ _ _ _ (by rw [hphysOf]; exact hp), Strand.phys, Strand.phys, hregs]
  · have h := congrArg Strand.members hstill
    refine Eq.trans h ?_
    rw [← ht]
    rfl
  · have h := congrArg Strand.arrived hstill
    refine Eq.trans h ?_
    rw [← ht]
    rfl

theorem bmemExchangesMask : BmemExchangesMask := by
  intro o s scope g h new c old
  have hcheck := maskCheck_run h
  refine ⟨fun hbig => ?_, fun hnew hf hname h4 => ?_⟩
  · exact traps_of_priv (priv := maskCheck o) (d := ⟨o.st, 0, .joint, twoSource 0 o⟩) rfl (hcheck.trans (illIf_of (decide_eq_true hbig) s))
      h.1 (by decide)
  · let d : Desc := ⟨o.st, 0, .joint, twoSource 0 o⟩
    have hreads : SameReads (s.withSelf (s.self.begun d)).self s.self := by rw [State.self_withSelf]; exact .begun ..
    obtain ⟨y, hy, hcur, m, hself, hm⟩ := setMembership_run h4 new.toNat (s.withSelf (s.self.begun d))
    rw [State.self_withSelf] at hself hm
    have hrun : (do
        let m ← readX 0 o.x
        let c ← readW 1 o.y
        let (scope, _) ← checkGroup c false
        let t ← self
        setMembership scope m.toNat
        writeX o.a (BitVec.ofNat 64 (scopeMask t.members scope)) : M Unit) (s.withSelf (s.self.begun d)) =
        .ok () (y.withSelf (y.self.putW o.a.toNat (Reg.ofWord (BitVec.ofNat 64 (scopeMask s.self.members scope))))) := by
      rw [M.bind_ok (h.readX_same hreads 0 (by simp)), M.bind_ok (h.readW_same hreads 1 (by simp)),
        M.bind_ok (checkGroup_named_begun d hf hname)]
      dsimp only
      rw [M.bind_ok (self_run _), State.self_withSelf]
      exact (M.bind_ok hy).trans rfl
    have htogether : s.self.apart = none := h.1.1
    have hx : exec (.bmem o) s = runPriv d (maskCheck o) (do
        let m ← readX 0 o.x
        let c ← readW 1 o.y
        let (scope, _) ← checkGroup c false
        let t ← self
        setMembership scope m.toNat
        writeX o.a (BitVec.ofNat 64 (scopeMask t.members scope))) s := rfl
    have hend := hx.trans (runPriv_ok Steer.noConfusion (hcheck.trans (illIf_of_not (decide_eq_false (Nat.not_le.mpr hnew)) s))
      h.clear_twoSource hrun)
    have hshows := shows_commit_putW (n := o.a) (r := Reg.ofWord (BitVec.ofNat 64 (scopeMask s.self.members scope))) d hself htogether
    obtain ⟨hpcc, hw, hphys, hmembers, harrived⟩ := hshows
    have hold : scopeMask s.self.members scope = old := by
      change s.self.members.toNat / 2 ^ (scope % 8 * 16) % 65536 = s.self.members.toNat / 2 ^ (16 * scope) % 65536
      rw [Nat.mod_eq_of_lt (show scope < 8 by omega), Nat.mul_comm scope]
    refine ⟨_, hend, hpcc, hold ▸ hw, hphys, fun i hi => ?_⟩
    obtain ⟨hbit, hgone⟩ := enrolled_bits s.self h4 hnew hi
    refine ⟨by rw [hmembers]; exact hbit, fun hs hbefore hafter => ?_⟩
    rw [harrived]
    exact Bool.eq_false_iff.mpr fun hyes => Bool.false_ne_true ((hgone hs hbefore hafter).symm.trans (hm i hyes))

end Sys2Proof.Claims
end

section
/-! SUPPORT. Relations between states that every single step of a write to memory keeps, and so every composed one. -/

namespace Sys2Proof.Claims

open Sys2Proof.Machine

/-- A relation that holds across each single thing that a write to memory, a write-back or a line's loss does. -/
structure MemRel (R : State → State → Prop) : Prop where
  refl : ∀ s, R s s
  trans : ∀ {s u v}, R s u → R u v → R s v
  byte : ∀ s a b, R s (s.putByte a b)
  tag : ∀ s a t, R s (s.putTag a t)
  bad : ∀ (s : State) m, R s { s with bad := m }
  wake : ∀ (s : State) b, R s (s.withStrand b { s.strand b with wake := true })
  l2 : ∀ (s : State) a n, R s (s.l2Put a n)
  count : ∀ (s : State) c n, R s (s.countPackage c n)
  unregister : ∀ (s : State) line, R s (s.unregister line)
  clean : ∀ (s : State) core line, R s (s.withCore core
    (putLine (s.core core) line { lookupD L1Line.empty (s.core core).lines line with dirty := 0 }))
  drop : ∀ (s : State) core line, R s (s.withCore core (putLine (s.core core) line L1Line.empty))
  refetch : ∀ (s : State) core, R s (s.refetch core)

namespace MemRel

variable {R : State → State → Prop} (h : MemRel R)
include h

theorem foldl {α : Type} {f : State → α → State} (hf : ∀ s a, R s (f s a)) (l : List α) (s : State) : R s (l.foldl f s) := by
  induction l generalizing s with
  | nil => exact h.refl s
  | cons a l ih => exact h.trans (hf s a) (ih (f s a))

theorem ite {c : Prop} [Decidable c] {s u v : State} (hu : R s u) (hv : R s v) : R s (if c then u else v) := by
  split
  · exact hu
  · exact hv

theorem putBytes (s : State) (a : Nat) (bs : List Byte) : R s (s.putBytes a bs) := by
  induction bs generalizing a s with
  | nil => exact h.refl s
  | cons b bs ih => exact h.trans (h.byte s a b) (ih (s.putByte a b) (a + 1))

theorem putSector (s : State) (a : Nat) (bs : List Byte) : R s (s.putSector a bs) := by
  unfold State.putSector
  split
  · exact h.putBytes s a bs
  · split
    · exact h.trans (h.bad s _) (h.putBytes _ a bs)
    · exact h.count s _ _

theorem wakeLine (s : State) (line : Nat) : R s (s.wakeLine line) := by
  refine h.foldl (fun u b => ?_) s.running s
  dsimp only
  split
  · exact h.wake u b
  · exact h.refl u

theorem wakeAt (s : State) (a : Nat) : R s (s.wakeAt a) := by
  unfold State.wakeAt
  split
  · exact h.trans (h.wakeLine s _) (h.wakeLine _ _)
  · exact h.wakeLine s _

theorem homePut (s : State) (a : Nat) (bs : List Byte) : R s (s.homePut a bs) :=
  h.trans (h.foldl (f := fun s (p : Nat × List Byte) => s.putSector p.1 p.2) (fun u p => h.putSector u p.1 p.2) _ s)
    (h.foldl (f := fun s (p : Nat × List Byte) => (s.l2Put p.1 p.2.length).wakeAt p.1)
      (fun u p => h.trans (h.l2 u p.1 p.2.length) (h.wakeAt _ p.1)) _ _)

theorem flushPartials (s : State) (line : Nat) (l : L1Line) (p : UpdateOnly) : R s (s.flushPartials line l p) := by
  refine h.trans (h.trans (h.foldl (fun u i => ?_) _ s) (h.l2 _ (line * 128) 128)) (h.wakeAt _ (line * 128))
  exact h.putSector u _ _

theorem putDirty (s : State) (core line : Nat) :
    R s (Claims.putDirty core line (lookupD L1Line.empty (s.core core).lines line) (s.core core) s) := by
  generalize hl : lookupD L1Line.empty (s.core core).lines line = l
  have hput := h.foldl (f := fun s (r : Nat × List Byte) => s.homePut (line * 128 + r.1) r.2) (fun u r => h.homePut u _ r.2) l.dirtyRuns s
  have hcore1 := cores_foldl (f := fun s (r : Nat × List Byte) => s.homePut (line * 128 + r.1) r.2) (fun s r => cores_homePut s _ r.2) l.dirtyRuns s
  unfold Claims.putDirty
  dsimp only
  generalize l.dirtyRuns.foldl (fun s (r : Nat × List Byte) => s.homePut (line * 128 + r.1) r.2) s = s1 at hput hcore1 ⊢
  have hfail := h.foldl (f := fun s (e : Nat × BitVec 8) =>
    if (List.range 32).any fun i => l.dirty.getLsbD (32 * e.1 + i) then
      { s with bad := storeAt 0 (canon (line * 128 + 32 * e.1) / 32) e.2 s.bad } else s)
    (fun u e => h.ite (h.bad u _) (h.refl u)) l.fails s1
  have hcore2 := cores_foldl (f := fun s (e : Nat × BitVec 8) =>
    if (List.range 32).any fun i => l.dirty.getLsbD (32 * e.1 + i) then
      { s with bad := storeAt 0 (canon (line * 128 + 32 * e.1) / 32) e.2 s.bad } else s)
    (fun s e => by split <;> rfl) l.fails s1
  generalize l.fails.foldl (fun s (e : Nat × BitVec 8) =>
    if (List.range 32).any fun i => l.dirty.getLsbD (32 * e.1 + i) then
      { s with bad := storeAt 0 (canon (line * 128 + 32 * e.1) / 32) e.2 s.bad } else s) s1 = s2 at hfail hcore2 ⊢
  have htag := h.foldl (f := fun s g =>
    if l.granuleDirty g && l.tags.getLsbD g && s.badAt (line * 128 + 16 * g) = 0 then
      s.putTag (line * 128 + 16 * g) true else s) (fun u g => h.ite (h.tag u _ _) (h.refl u)) (List.range 8) s2
  have hcore3 := cores_foldl (f := fun s g =>
    if l.granuleDirty g && l.tags.getLsbD g && s.badAt (line * 128 + 16 * g) = 0 then
      s.putTag (line * 128 + 16 * g) true else s) (fun s g => by split <;> rfl) (List.range 8) s2
  generalize (List.range 8).foldl (fun s g =>
    if l.granuleDirty g && l.tags.getLsbD g && s.badAt (line * 128 + 16 * g) = 0 then
      s.putTag (line * 128 + 16 * g) true else s) s2 = s3 at htag hcore3 ⊢
  have hcore : s3.core core = s.core core := core_of_cores (hcore3.trans (hcore2.trans hcore1)) core
  have hclean := h.clean s3 core line
  rw [hcore, hl] at hclean
  exact h.trans (h.trans (h.trans hput hfail) htag) hclean

theorem writeBackLine (s : State) (core line : Nat) : R s (s.writeBackLine core line) := by
  rw [writeBackLine_eq]
  split
  · next u _ =>
    have hflush := h.flushPartials s line (lookupD L1Line.empty (s.core core).lines line) u
    have hcore : (s.flushPartials line (lookupD L1Line.empty (s.core core).lines line) u).core core = s.core core :=
      core_of_cores (cores_flushPartials ..) core
    have hdrop := h.drop (s.flushPartials line (lookupD L1Line.empty (s.core core).lines line) u) core line
    rw [hcore] at hdrop
    exact h.trans (h.trans hflush hdrop) (h.unregister _ line)
  · split
    · exact h.refl s
    · exact h.putDirty s core line

theorem leaveLine (s : State) (core line : Nat) : R s (s.leaveLine core line) := h.trans (h.writeBackLine s core line) (h.drop _ core line)

theorem recallLine (s : State) (line : Nat) : R s (s.recall line) :=
  h.foldl (f := fun s c => s.leaveLine c line) (fun u c => h.leaveLine u c line) _ s

theorem recallRange (s : State) (a n : Nat) : R s (s.recallRange a n) := 
  h.foldl (f := fun s i => s.recall (a / 128 + i)) (fun u i => h.recallLine u (a / 128 + i)) _ s

theorem releaseCore (s : State) (core : Nat) : R s (s.releaseCore core) := 
  h.foldl (f := fun s (e : Nat × L1Line) => s.writeBackLine core e.1) (fun u e => h.writeBackLine u core e.1) _ s

theorem acquireCore (s : State) (core : Nat) : R s (s.acquireCore core) :=
  h.trans (h.refetch s core) (h.foldl (f := fun s (e : Nat × L1Line) => s.leaveLine core e.1) (fun u e => h.leaveLine u core e.1) _ _)

theorem l1Room (s : State) (core line : Nat) : R s (s.l1Room core line) := by
  unfold State.l1Room
  dsimp only
  split
  · exact h.refl s
  · split
    · exact h.leaveLine s core _
    · exact h.refl s

theorem released (s : State) (ord scope : Nat) : R s (Claims.released s ord scope) := h.ite (h.releaseCore s _) (h.refl s)

theorem acquired (s : State) (ord scope : Nat) : R s (Claims.acquired s ord scope) :=
  h.ite (h.ite (h.acquireCore s _) (h.refetch s _)) (h.refl s)

end MemRel

/-- Writes to memory leave the errors of walks alone. -/
theorem memRel_walkErrors : MemRel fun s u => u.units.walkErrors = s.units.walkErrors where
  refl _ := rfl
  trans h h' := h'.trans h
  byte _ _ _ := rfl
  tag _ _ _ := rfl
  bad _ _ := rfl
  wake _ _ := rfl
  l2 s a n := by unfold State.l2Put; dsimp only; split <;> rfl
  count _ _ _ := rfl
  unregister s line := by unfold State.unregister; split <;> rfl
  clean _ _ _ := rfl
  drop _ _ _ := rfl
  refetch _ _ := rfl

theorem wokenIf_false (t : Strand) : wokenIf t false = t := by simp [wokenIf]

/-- Writes to memory do no more to a strand than to wake it (R163). -/
theorem memRel_wakes : MemRel fun s u => ∀ b, ∃ w, u.strand b = wokenIf (s.strand b) w where
  refl s b := ⟨false, (wokenIf_false _).symm⟩
  trans {s u v} h h' b := by
    obtain ⟨w, hw⟩ := h b
    obtain ⟨w', hw'⟩ := h' b
    exact ⟨w || w', by rw [hw', hw, wokenIf_wokenIf]⟩
  byte s _ _ b := ⟨false, (wokenIf_false (s.strand b)).symm⟩
  tag s _ _ b := ⟨false, (wokenIf_false (s.strand b)).symm⟩
  bad s _ b := ⟨false, (wokenIf_false (s.strand b)).symm⟩
  wake s n b := by
    by_cases hb : b = n
    · subst hb
      exact ⟨true, by rw [State.strand_withStrand_same]; simp [wokenIf]⟩
    · exact ⟨false, by rw [State.strand_withStrand_ne _ _ _ _ hb, wokenIf_false]⟩
  l2 s a n b := by
    refine ⟨false, ?_⟩
    rw [wokenIf_false, State.strand, (blind_l2Put a n).strands s]
    rfl
  count s _ _ b := ⟨false, (wokenIf_false (s.strand b)).symm⟩
  unregister s line b := by
    refine ⟨false, ?_⟩
    unfold State.unregister
    split <;> exact (wokenIf_false (s.strand b)).symm
  clean s _ _ b := ⟨false, (wokenIf_false (s.strand b)).symm⟩
  drop s _ _ b := ⟨false, (wokenIf_false (s.strand b)).symm⟩
  refetch s _ b := ⟨false, (wokenIf_false (s.strand b)).symm⟩

end Sys2Proof.Claims
end

section
/-! SUPPORT. Supersteps (R170, R265). -/

namespace Sys2Proof.Claims

open Sys2Proof.Machine

/-! ## Grants -/

/-- Two states show the same grants and demands of a quad. -/
structure SameGrants (s y : State) : Prop where
  live : ∀ b, (y.strand b).live = (s.strand b).live
  vec : ∀ b, (y.strand b).vec = (s.strand b).vec
  quads : y.quads = s.quads

theorem SameGrants.quadStrands {s y : State} (h : SameGrants s y) (q : Nat) : y.quadStrands q = s.quadStrands q := by
  simp only [State.quadStrands, h.live]

theorem SameGrants.freeLanes {s y : State} (h : SameGrants s y) (q : Nat) : y.freeLanes q = s.freeLanes q := by
  simp only [State.freeLanes, h.quadStrands, Strand.reserve, h.vec]

theorem SameGrants.demand {s y : State} (h : SameGrants s y) (q : Nat) : y.demand q = s.demand q := by
  simp only [State.demand, h.quadStrands, h.vec, State.quad, h.quads]

/-- Whether a strand surrenders lanes at the end of a superstep. -/
def surrenders (s : State) (b : Nat) : Bool := (s.strand b).vec.lanes.length > 8 && s.demand (quadOf b) > s.freeLanes (quadOf b)

/-- A strand once it has surrendered what it has to. -/
def shrunk (s : State) (b : Nat) : State :=
  if surrenders s b then
    let g := (s.strand b).vec.lanes.length
    s.withStrand b { s.strand b with vec := (s.strand b).vec.shrink (g - min (g - 8) (s.demand (quadOf b) - s.freeLanes (quadOf b))) }
  else s

theorem offerLanes_run (q : Nat) (s : State) : ∃ es, offerLanes q s = .ok () { s with agenda := s.agenda ++ es } := by
  unfold offerLanes
  rw [M.bind_ok (M.get_run s)]
  split
  · exact ⟨[], by rw [List.append_nil]; rfl⟩
  · exact ⟨_, rfl⟩

theorem shrinkAtSync_run (b : Nat) (s : State) : ∃ es, shrinkAtSync b s = .ok () { shrunk s b with agenda := s.agenda ++ es } := by
  unfold shrinkAtSync shrunk
  rw [M.bind_ok (M.get_run s)]
  change ∃ es, (if surrenders s b then _ else _ : M Unit) s = _
  by_cases hs : surrenders s b = true
  · rw [if_pos hs, if_pos hs]
    obtain ⟨es, hoffer⟩ := offerLanes_run (quadOf b) (s.setGrant b ((s.strand b).vec.lanes.length -
      min ((s.strand b).vec.lanes.length - 8) (s.demand (quadOf b) - s.freeLanes (quadOf b))))
    refine ⟨es, (M.bind_ok (M.set_run _ _)).trans (hoffer.trans ?_)⟩
    rw [State.setGrant]
    dsimp only
    rw [if_pos (Nat.sub_le ..)]
    rfl
  · rw [if_neg hs, if_neg hs]
    exact ⟨[], by rw [List.append_nil]; rfl⟩

theorem shrinkAtSync_idle {b : Nat} {s : State} (h : surrenders s b = false) : shrinkAtSync b s = .ok () s := by
  unfold shrinkAtSync
  rw [M.bind_ok (M.get_run s)]
  change (if surrenders s b then _ else _ : M Unit) s = _
  rw [if_neg (by rw [h]; exact Bool.false_ne_true)]
  rfl

/-! ## Colonies that yield -/

theorem settleYield_run (colony : Nat) (s : State) : ∃ es, settleYield colony s = .ok () { s with agenda := s.agenda ++ es } := by
  have hstay : (pure () : M Unit) s = .ok () { s with agenda := s.agenda ++ [] } := by rw [List.append_nil]; rfl
  unfold settleYield
  rw [M.bind_ok (M.get_run s)]
  cases s.colony colony with
  | none => exact ⟨[], hstay⟩
  | some c =>
    dsimp only
    split
    · exact ⟨_, rfl⟩
    · exact ⟨[], hstay⟩

theorem stopForYield_run (sid : Nat) (s : State) : ∃ y, stopForYield sid s = .ok () y ∧ y.cur = s.cur ∧ y.strands = s.strands := by
  unfold stopForYield
  rw [M.bind_ok (M.get_run s)]
  cases s.colony (s.colonyOf sid) with
  | none => exact ⟨s, rfl, rfl, rfl⟩
  | some c =>
    dsimp only
    cases hs : c.state with
    | yielding =>
      cases hy : c.yield with
      | none => exact ⟨s, rfl, rfl, rfl⟩
      | some y =>
        obtain ⟨es, hrun⟩ := settleYield_run (s.colonyOf sid)
          (s.withColony (s.colonyOf sid) (some { c with yield := some { y with stopped := y.stopped ++ [sid] }, state := .yielding }))
        exact ⟨_, (M.bind_ok (M.modify_run ..)).trans hrun, rfl, rfl⟩
    | _ => exact ⟨s, rfl, rfl, rfl⟩

theorem stopForYield_quiet {sid : Nat} {s : State} (h : ∀ c, s.colony (s.colonyOf sid) = some c → c.yield = none) :
    stopForYield sid s = .ok () s := by
  unfold stopForYield
  rw [M.bind_ok (M.get_run s)]
  cases hc : s.colony (s.colonyOf sid) with
  | none => rfl
  | some c =>
    dsimp only
    rw [h c hc]
    cases c.state <;> rfl

/-! ## The end of a superstep -/

/-- The strand whose superstep has ended. -/
def stepEnded (t : Strand) (scope : Nat) : Strand := { t with syncing := clearBit t.syncing (groupBit scope 15), inSync := false }

/-- What the surrender of lanes by one strand leaves. -/
theorem strand_shrunk (s : State) (b n : Nat) : ∃ x, (shrunk s b).strand n = { s.strand n with vec := x } := by
  unfold shrunk
  split
  · by_cases hn : n = b
    · subst hn
      rw [State.strand_withStrand_same]
      exact ⟨_, rfl⟩
    · rw [State.strand_withStrand_ne _ _ _ _ hn]
      exact ⟨_, rfl⟩
  · exact ⟨_, rfl⟩

theorem cur_shrunk (s : State) (b : Nat) : (shrunk s b).cur = s.cur := by
  unfold shrunk
  split <;> rfl

/-- A strand is another one but for its vector state. -/
def SameButVec (cur : Nat) (t : Strand) (u : State) : Prop := u.cur = cur ∧ ∃ x, u.strand cur = { t with vec := x }

theorem SameButVec.shrink {cur : Nat} {t : Strand} {u : State} (h : SameButVec cur t u) (b : Nat) :
    ∃ y, shrinkAtSync b u = .ok () y ∧ SameButVec cur t y := by
  obtain ⟨hcur, x, hself⟩ := h
  obtain ⟨es, hrun⟩ := shrinkAtSync_run b u
  obtain ⟨z, hz⟩ := strand_shrunk u b cur
  refine ⟨_, hrun, (cur_shrunk u b).trans hcur, z, hz.trans ?_⟩
  rw [hself]

/-- The state behind the acquire of a superstep's end. -/
def stepAcquired (s : State) (scope : Nat) : State := acquired (s.withSelf (stepEnded s.self scope)) 1 scope

theorem cur_acquired (s : State) (ord scope : Nat) : (acquired s ord scope).cur = s.cur := (keeps2_acquired ord scope).fixed s |>.cur

theorem finishSync_eq (scope : Nat) (s : State) : finishSync scope s = (do
    for b in (stepAcquired s scope).completingBelow scope s.cur do
      shrinkAtSync b
    shrinkAtSync s.cur
    stopForYield s.cur : M Unit) (stepAcquired s scope) := rfl

/-- The end of a superstep completes, whatever lanes it takes. -/
theorem finishSync_run (scope : Nat) (s : State) : ∃ y, finishSync scope s = .ok () y ∧ SameButVec s.cur (stepAcquired s scope).self y ∧
    ((stepAcquired s scope).completingBelow scope s.cur = [] →
      (y.strand s.cur).vec = ((shrunk (stepAcquired s scope) s.cur).strand s.cur).vec) := by
  have hcur : (stepAcquired s scope).cur = s.cur := cur_acquired ..
  have hstart : SameButVec s.cur (stepAcquired s scope).self (stepAcquired s scope) :=
    ⟨hcur, (stepAcquired s scope).self.vec, by rw [State.self, hcur]⟩
  obtain ⟨u, hu, hku⟩ := forIn_keeps (P := SameButVec s.cur (stepAcquired s scope).self)
    (f := fun b _ => do shrinkAtSync b; pure (.yield ⟨⟩)) (fun b v hv => by
      obtain ⟨y, hy, hky⟩ := hv.shrink b
      exact ⟨y, M.bind_ok hy, hky⟩) ((stepAcquired s scope).completingBelow scope s.cur) hstart
  obtain ⟨es, hv⟩ := shrinkAtSync_run s.cur u
  obtain ⟨hcu, x, hsu⟩ := hku
  obtain ⟨z, hz⟩ := strand_shrunk u s.cur s.cur
  obtain ⟨y, hy, hcy, hsy⟩ := stopForYield_run s.cur { shrunk u s.cur with agenda := u.agenda ++ es }
  have hstrand : y.strand s.cur = (shrunk u s.cur).strand s.cur := by rw [State.strand, hsy]; rfl
  refine ⟨y, ?_, ⟨hcy.trans ((cur_shrunk u s.cur).trans hcu), z, ?_⟩, fun hnone => ?_⟩
  · rw [finishSync_eq]
    exact (M.bind_ok hu).trans ((M.bind_ok hv).trans hy)
  · rw [hstrand, hz, hsu]
  · rw [hnone] at hu
    have hsame : u = stepAcquired s scope := by
      have h := hu
      simp only [List.forIn_nil] at h
      exact (EStateM.Result.ok.inj h).2.symm
    rw [hstrand, hsame]

/-- Where no lane is short and the colony does not yield, the acquire is all. -/
theorem finishSync_quiet {scope : Nat} {s : State} (hnone : ∀ b, quadOf b = quadOf s.cur → surrenders (stepAcquired s scope) b = false)
    (hstay : ∀ c, (stepAcquired s scope).colony ((stepAcquired s scope).colonyOf s.cur) = some c → c.yield = none) :
    finishSync scope s = .ok () (stepAcquired s scope) := by
  have hall : ∀ b ∈ (stepAcquired s scope).completingBelow scope s.cur, quadOf b = quadOf s.cur := by
    intro b hb
    obtain ⟨hq, -⟩ := List.mem_filter.mp hb
    rw [State.quadStrands, List.mem_filterMap] at hq
    obtain ⟨i, hi, heq⟩ := hq
    rw [List.mem_range] at hi
    split at heq
    · rw [Option.some_inj] at heq
      unfold quadOf at heq ⊢
      omega
    · exact absurd heq (by simp)
  rw [finishSync_eq]
  have hloop : forIn ((stepAcquired s scope).completingBelow scope s.cur) PUnit.unit
      (fun b _ => do shrinkAtSync b; pure (.yield ⟨⟩) : Nat → PUnit → M (ForInStep PUnit)) (stepAcquired s scope) =
        .ok ⟨⟩ (stepAcquired s scope) := by
    revert hall
    generalize (stepAcquired s scope).completingBelow scope s.cur = l
    intro hall
    induction l with
    | nil => rfl
    | cons b l ih =>
      rw [List.forIn_cons, bind_assoc, M.bind_ok (shrinkAtSync_idle (hnone b (hall b (by simp))))]
      exact ih fun c hc => hall c (by simp [hc])
  exact (M.bind_ok hloop).trans ((M.bind_ok (shrinkAtSync_idle (hnone _ rfl))).trans (stopForYield_quiet hstay))

/-! ## What the acquire leaves to see -/

theorem sameInstance_congr {s y : State} (h : y.units.colonies = s.units.colonies) : y.sameInstance = s.sameInstance := by
  unfold State.sameInstance State.jobOf State.colonyOf State.colony
  rw [h]

section
variable (s : State) (d : Desc) (scope : Nat)

/-- The state behind the prologue with the superstep ended, beside the one that the statement shows. -/
theorem twin_stepAcquired : Twin s (stepEnded s.self scope) (stepEnded (s.self.begun d) scope) (stepAcquired s scope)
    (stepAcquired (s.withSelf (s.self.begun d)) scope) := by
  have h := (Twin.begun s d).withSelf (f := (stepEnded · scope)) (g := (stepEnded · scope)) (fun _ => rfl) (fun _ => rfl) rfl rfl rfl rfl
  exact keeps2_acquired 1 scope h

theorem sameGrants_stepAcquired : SameGrants s (stepAcquired (s.withSelf (s.self.begun d)) scope) := by
  have h := twin_stepAcquired s d scope
  obtain ⟨w, -, hself⟩ := h.woken
  have hshow (b : Nat) : ((stepAcquired (s.withSelf (s.self.begun d)) scope).strand b).live = (s.strand b).live ∧
      ((stepAcquired (s.withSelf (s.self.begun d)) scope).strand b).vec = (s.strand b).vec := by
    by_cases hb : b = s.cur
    · have hs : (stepAcquired (s.withSelf (s.self.begun d)) scope).strand b = wokenIf (stepEnded (s.self.begun d) scope) w := by
        rw [← hself, hb]
        exact congrArg (State.strand _) h.cur.symm
      rw [hs, hb]
      exact ⟨rfl, rfl⟩
    · obtain ⟨w', hw'⟩ := memRel_wakes.acquired (s.withSelf (stepEnded s.self scope)) 1 scope b
      rw [h.other b hb, stepAcquired, hw', State.strand_withSelf_ne _ _ _ hb]
      exact ⟨rfl, rfl⟩
  exact ⟨fun b => (hshow b).1, fun b => (hshow b).2, by rw [h.rest]; exact h.fixed.quads⟩

theorem completingBelow_stepAcquired :
    (stepAcquired (s.withSelf (s.self.begun d)) scope).completingBelow scope s.cur = s.completingBelow scope s.cur := by
  have h := twin_stepAcquired s d scope
  have hcol : (stepAcquired (s.withSelf (s.self.begun d)) scope).units.colonies = s.units.colonies := by
    rw [h.rest]; exact h.fixed.colonies
  unfold State.completingBelow
  dsimp only
  rw [(sameGrants_stepAcquired s d scope).quadStrands, sameInstance_congr hcol]
  refine List.filter_congr fun b _ => ?_
  by_cases hb : b < s.cur
  · obtain ⟨w', hw'⟩ := memRel_wakes.acquired (s.withSelf (stepEnded s.self scope)) 1 scope b
    rw [h.other b (by omega), stepAcquired, hw', State.strand_withSelf_ne _ _ _ (show b ≠ s.cur by omega)]
    rfl
  · simp [hb]

end

theorem syncing_complete (t pre : Strand) (d : Desc) (n : Nat) (p : Reg) : (t.complete pre d n p).syncing = t.syncing := by
  have h := congrArg Strand.syncing (Strand.still_complete t pre d n p)
  exact h

theorem vec_complete (t pre : Strand) (d : Desc) (n : Nat) (p : Reg) : (t.complete pre d n p).vec = t.vec := by
  have h := congrArg Strand.vec (Strand.still_complete t pre d n p)
  exact h

/-- Lanes that a strand keeps, by the grants that the state shows. -/
theorem lanes_shrunk {s y : State} (h : SameGrants s y) (b : Nat) : ((shrunk y b).strand b).vec.lanes =
    (s.strand b).vec.lanes.take (if 8 < (s.strand b).vec.lanes.length then (s.strand b).vec.lanes.length -
      min ((s.strand b).vec.lanes.length - 8) (s.demand (quadOf b) - s.freeLanes (quadOf b)) else (s.strand b).vec.lanes.length) := by
  have hall : (s.strand b).vec.lanes.take (s.strand b).vec.lanes.length = (s.strand b).vec.lanes := List.take_length
  unfold shrunk surrenders
  dsimp only
  rw [h.vec, h.demand, h.freeLanes]
  by_cases hg : 8 < (s.strand b).vec.lanes.length
  · rw [if_pos hg]
    by_cases hd : s.demand (quadOf b) > s.freeLanes (quadOf b)
    · rw [if_pos (by rw [decide_eq_true hg, decide_eq_true hd]; rfl), State.strand_withStrand_same]
      rfl
    · rw [if_neg (by rw [decide_eq_false hd]; simp), h.vec, Nat.sub_eq_zero_of_le (Nat.le_of_not_lt hd), Nat.min_zero, Nat.sub_zero, hall]
  · rw [if_neg hg, if_neg (by rw [decide_eq_false hg]; simp), h.vec, hall]

/-! ## `sync` -/

section
variable (o : OpN) (m : MemMod) {s : State}

/-- `sync` in a state, behind its prologue. -/
def superstep (scope : Nat) (v : State) : M Unit := do
  raiseIf (!v.self.members.getLsbD (groupBit scope 15)) cBar 0
  if v.self.syncing.getLsbD (groupBit scope 15) && v.self.arrived.getLsbD (groupBit scope 15) then do
    modSelf fun t => { t with inSync := true }
    throw Exc.wait
  else if v.self.syncing.getLsbD (groupBit scope 15) && v.self.inSync then finishSync scope
  else do
    raiseIf (v.self.arrived.getLsbD (groupBit scope 15) || v.gangPending v.cur scope 15) cBar 0
    raiseDropped fun _ _ => true
    releaseAt scope
    let s ← get
    if s.stepsOutstanding s.cur then throw Exc.retry else pure ()
    modSelf fun t => { t with syncing := t.syncing ||| (1#128 <<< groupBit scope 15), inSync := true }
    arrive scope 15 s.cur
    throw Exc.wait

theorem sync_eq (s : State) : ∃ body : M Unit, exec (.sync o m) s = runOp ⟨o.st, 0, .joint, []⟩ body s ∧
    ∀ v, body v = superstep m.scope.toNat v v := ⟨_, rfl, fun _ => rfl⟩

variable {o m} (ht : Together s)
include ht

theorem clear_nil : s.self.Clear [] := Ready.clear (us := []) ⟨ht, by simp⟩ (by simp)

/-- `sync` raises `bar` with value 0 for a strand that is no member, or whose arrival came by another way. -/
theorem sync_traps (hbad : s.self.members.getLsbD (groupBit m.scope.toNat 15) = false ∨
    s.self.members.getLsbD (groupBit m.scope.toNat 15) = true ∧ s.self.syncing.getLsbD (groupBit m.scope.toNat 15) = false ∧
      s.self.arrived.getLsbD (groupBit m.scope.toNat 15) = true) : Traps (.sync o m) s cBar 0 := by
  obtain ⟨body, hx, hbody⟩ := sync_eq o m s
  refine traps_of_runOp hx Steer.noConfusion (clear_nil ht) ((hbody _).trans ?_) (by decide)
  unfold superstep
  rw [State.self_withSelf]
  change (raiseIf (!s.self.members.getLsbD (groupBit m.scope.toNat 15)) cBar 0 >>= fun _ =>
    if s.self.syncing.getLsbD (groupBit m.scope.toNat 15) && s.self.arrived.getLsbD (groupBit m.scope.toNat 15) then _
    else if s.self.syncing.getLsbD (groupBit m.scope.toNat 15) && s.self.inSync then _ else
      raiseIf (s.self.arrived.getLsbD (groupBit m.scope.toNat 15) || _) cBar 0 >>= _) _ = _
  rcases hbad with hno | ⟨hmem, hsync, harr⟩
  · exact M.bind_error (raiseIf_of (by rw [hno]; rfl) ..)
  · rw [M.bind_ok (raiseIf_of_not (by rw [hmem]; rfl) ..), hsync, if_neg (by simp), if_neg (by simp)]
    exact M.bind_error (raiseIf_of (by rw [harr]; rfl) ..)

/-- A `sync` that waits shows what it has changed of the strand. -/
theorem sync_waits {body : M Unit} {y : State} {r t : Strand} (hx : exec (.sync o m) s = runOp ⟨o.st, 0, .joint, []⟩ body s)
    (hb : body (s.withSelf (s.self.begun ⟨o.st, 0, .joint, []⟩)) = .error .wait y) (hy : Around s r y) (hstill : r.still = t.still)
    (hregs : r.regs = t.regs) (hpcc : r.pcc = s.self.pcc) (hn : r.instret = s.self.instret) :
    ∃ u, exec (.sync o m) s = .next u ∧ u.self.pcc = s.self.pcc ∧ u.self.instret = s.self.instret ∧ SameAs (s.withSelf t) u := by
  refine ⟨_, exec_of_wait (body := do body; pure .next) hx Steer.noConfusion rfl (clear_nil ht) (M.bind_error hb), ?_, ?_,
    (hy.onlySelf.same hstill hregs).idle⟩ <;> rw [State.self_idle, hy.self]
  · exact hpcc
  · exact hn

theorem sync_arrived (hmem : s.self.members.getLsbD (groupBit m.scope.toNat 15) = true)
    (hsync : s.self.syncing.getLsbD (groupBit m.scope.toNat 15) = true) (harr : s.self.arrived.getLsbD (groupBit m.scope.toNat 15) = true) :
    ∃ u, exec (.sync o m) s = .next u ∧ u.self.pcc = s.self.pcc ∧ u.self.instret = s.self.instret ∧
      SameAs (s.withSelf { s.self with inSync := true }) u := by
  obtain ⟨body, hx, hbody⟩ := sync_eq o m s
  have hzero := (Around.refl s).withSelf (t := s.self.begun ⟨o.st, 0, .joint, []⟩) rfl
  refine sync_waits ht hx ((hbody _).trans ?_) (hzero.withSelf (t := { s.self.begun ⟨o.st, 0, .joint, []⟩ with inSync := true }) rfl)
    rfl rfl rfl rfl
  unfold superstep
  rw [State.self_withSelf]
  change (raiseIf (!s.self.members.getLsbD (groupBit m.scope.toNat 15)) cBar 0 >>= fun _ =>
    if s.self.syncing.getLsbD (groupBit m.scope.toNat 15) && s.self.arrived.getLsbD (groupBit m.scope.toNat 15) then _ else _) _ = _
  rw [M.bind_ok (raiseIf_of_not (by rw [hmem]; rfl) ..), if_pos (by rw [hsync, harr]; rfl), M.bind_ok (modSelf_run ..), State.self_withSelf]
  rfl

theorem sync_first (hscope : m.scope.toNat = 1) (hmem : s.self.members.getLsbD (groupBit m.scope.toNat 15) = true)
    (hnew : s.self.syncing.getLsbD (groupBit m.scope.toNat 15) = false ∨ s.self.inSync = false)
    (harr : s.self.arrived.getLsbD (groupBit m.scope.toNat 15) = false) (hgang : s.gangPending s.cur m.scope.toNat 15 = false)
    (hdrop : s.self.dropped = []) (hsteps : s.stepsOutstanding s.cur = false)
    (hopen : ∃ n ∈ others s m.scope.toNat 15, (s.strand n).arrived.getLsbD (groupBit m.scope.toNat 15) = false) :
    ∃ u, exec (.sync o m) s = .next u ∧ u.self.pcc = s.self.pcc ∧ u.self.instret = s.self.instret ∧
      SameAs (s.withSelf { s.self with syncing := setBit s.self.syncing (groupBit m.scope.toNat 15),
                                       arrived := setBit s.self.arrived (groupBit m.scope.toNat 15), inSync := true }) u := by
  obtain ⟨body, hx, hbody⟩ := sync_eq o m s
  have hzero := (Around.refl s).withSelf (t := s.self.begun ⟨o.st, 0, .joint, []⟩) rfl
  have hone := hzero.withSelf (t := { s.self.begun ⟨o.st, 0, .joint, []⟩ with
    syncing := setBit s.self.syncing (groupBit m.scope.toNat 15), inSync := true }) rfl
  obtain ⟨y, hy, harrive⟩ := arrive_run hone (scope := m.scope.toNat) (by omega) 15
  rw [if_neg (by rw [phaseDone_of_pending hy hopen]; exact Bool.false_ne_true),
    testReduction_quiet (by omega) (fun h4 => absurd h4 (by omega))] at harrive
  refine sync_waits ht hx ((hbody _).trans ?_) hy rfl rfl rfl rfl
  have hsteps' : (s.withSelf (s.self.begun ⟨o.st, 0, .joint, []⟩)).stepsOutstanding s.cur = false := by
    rw [← hsteps]
    have howed : ((s.withSelf (s.self.begun ⟨o.st, 0, .joint, []⟩)).strand s.cur).owed = (s.strand s.cur).owed := by
      rw [State.withSelf, State.strand_withStrand_same]
      rfl
    unfold State.stepsOutstanding State.putsOutstanding State.copiesOutstanding
    rw [howed]
    rfl
  have hraise : raiseDropped (fun _ _ => true) (s.withSelf (s.self.begun ⟨o.st, 0, .joint, []⟩)) =
      .ok () (s.withSelf (s.self.begun ⟨o.st, 0, .joint, []⟩)) := by
    have hnone : (s.withSelf (s.self.begun ⟨o.st, 0, .joint, []⟩)).self.dropped = [] := by rw [State.self_withSelf]; exact hdrop
    unfold raiseDropped
    rw [M.bind_ok (self_run _), hnone]
    rfl
  have hskip : (s.self.syncing.getLsbD (groupBit m.scope.toNat 15) && s.self.inSync) = false := by
    rcases hnew with hn | hn <;> simp [hn]
  have hrel : releaseAt m.scope.toNat (s.withSelf (s.self.begun ⟨o.st, 0, .joint, []⟩)) = .ok () (s.withSelf (s.self.begun ⟨o.st, 0, .joint, []⟩)) := by
    rw [releaseAt_run, if_neg (by omega)]
  unfold superstep
  rw [State.self_withSelf]
  change (raiseIf (!s.self.members.getLsbD (groupBit m.scope.toNat 15)) cBar 0 >>= fun _ =>
    if s.self.syncing.getLsbD (groupBit m.scope.toNat 15) && s.self.arrived.getLsbD (groupBit m.scope.toNat 15) then _
    else if s.self.syncing.getLsbD (groupBit m.scope.toNat 15) && s.self.inSync then _ else
      raiseIf (s.self.arrived.getLsbD (groupBit m.scope.toNat 15) || s.gangPending s.cur m.scope.toNat 15) cBar 0 >>= _) _ = _
  rw [M.bind_ok (raiseIf_of_not (by rw [hmem]; rfl) ..), if_neg (by simp [harr]), hskip, if_neg (by simp),
    M.bind_ok (raiseIf_of_not (by rw [harr, hgang]; rfl) ..), M.bind_ok hraise, M.bind_ok hrel, M.bind_ok (M.get_run _)]
  have hgo : (s.withSelf (s.self.begun ⟨o.st, 0, .joint, []⟩)).stepsOutstanding (s.withSelf (s.self.begun ⟨o.st, 0, .joint, []⟩)).cur = false := hsteps'
  rw [if_neg (Bool.eq_false_iff.mp hgo)]
  refine (M.bind_ok (modSelf_run ..)).trans ?_
  rw [State.self_withSelf]
  exact (M.bind_ok harrive).trans rfl

/-- The second half of `sync`, when its phase has completed. -/
theorem superstep_finish (hmem : s.self.members.getLsbD (groupBit m.scope.toNat 15) = true)
    (hsync : s.self.syncing.getLsbD (groupBit m.scope.toNat 15) = true) (hin : s.self.inSync = true)
    (harr : s.self.arrived.getLsbD (groupBit m.scope.toNat 15) = false) :
    superstep m.scope.toNat (s.withSelf (s.self.begun ⟨o.st, 0, .joint, []⟩)) (s.withSelf (s.self.begun ⟨o.st, 0, .joint, []⟩)) =
      finishSync m.scope.toNat (s.withSelf (s.self.begun ⟨o.st, 0, .joint, []⟩)) := by
  unfold superstep
  rw [State.self_withSelf]
  change (raiseIf (!s.self.members.getLsbD (groupBit m.scope.toNat 15)) cBar 0 >>= fun _ =>
    if s.self.syncing.getLsbD (groupBit m.scope.toNat 15) && s.self.arrived.getLsbD (groupBit m.scope.toNat 15) then _
    else if s.self.syncing.getLsbD (groupBit m.scope.toNat 15) && s.self.inSync then _ else _) _ = _
  rw [M.bind_ok (raiseIf_of_not (by rw [hmem]; rfl) ..), if_neg (by simp [harr]), hsync, hin, if_pos (Bool.and_self true)]

/-- Lanes that the quad's demand lacks. -/
def shortOf (s : State) : Nat := s.demand (quadOf s.cur) - s.freeLanes (quadOf s.cur)

theorem sync_completes (hmem : s.self.members.getLsbD (groupBit m.scope.toNat 15) = true)
    (hsync : s.self.syncing.getLsbD (groupBit m.scope.toNat 15) = true) (hin : s.self.inSync = true)
    (harr : s.self.arrived.getLsbD (groupBit m.scope.toNat 15) = false) :
    ∃ u, exec (.sync o m) s = .next u ∧ u.self.pcc = s.self.pccAt s.self.npc ∧
      u.self.syncing = clearBit s.self.syncing (groupBit m.scope.toNat 15) ∧ (s.completingBelow m.scope.toNat s.cur = [] →
        u.self.vec.lanes = s.self.vec.lanes.take (if 8 < s.self.vec.lanes.length
          then s.self.vec.lanes.length - min (s.self.vec.lanes.length - 8) (shortOf s) else s.self.vec.lanes.length)) := by
  obtain ⟨body, hx, hbody⟩ := sync_eq o m s
  obtain ⟨y, hrun, ⟨hcur, x, hself⟩, hvec⟩ := finishSync_run m.scope.toNat (s.withSelf (s.self.begun ⟨o.st, 0, .joint, []⟩))
  obtain ⟨w, -, hw⟩ := (twin_stepAcquired s ⟨o.st, 0, .joint, []⟩ m.scope.toNat).woken
  have hgrants := sameGrants_stepAcquired s ⟨o.st, 0, .joint, []⟩ m.scope.toNat
  have hbelow := completingBelow_stepAcquired s ⟨o.st, 0, .joint, []⟩ m.scope.toNat
  have hy : y.self = { wokenIf (stepEnded (s.self.begun ⟨o.st, 0, .joint, []⟩) m.scope.toNat) w with vec := x } := by
    rw [← hw, ← hself, State.self, hcur]
  have hend := hx.trans (runOp_ok Steer.noConfusion (clear_nil ht) ((hbody _).trans ((superstep_finish ht hmem hsync hin harr).trans hrun)))
  obtain ⟨htogether, hpcc, hir, hsyncing⟩ : y.self.apart = none ∧ y.self.pcc = s.self.pcc ∧ y.self.ir = s.self.ir ∧
      y.self.syncing = clearBit s.self.syncing (groupBit m.scope.toNat 15) := by
    rw [hy]
    exact ⟨ht.1, rfl, rfl, rfl⟩
  refine ⟨_, hend, ?_, ?_, fun hnone => ?_⟩
  · rw [State.self_commit_next _ _ _ htogether, Strand.complete_pcc]
    simp only [Strand.pccAt, Strand.npc, Strand.pc, hpcc, hir]
  · rw [State.self_commit_next _ _ _ htogether, syncing_complete, hsyncing]
  · have hlanes := hvec (hbelow.trans hnone)
    have hone := lanes_shrunk hgrants s.cur
    rw [State.self_commit_next _ _ _ htogether, vec_complete, State.self, hcur]
    exact (congrArg VecState.lanes hlanes).trans hone

theorem sync_leads (hmem : s.self.members.getLsbD (groupBit m.scope.toNat 15) = true)
    (hsync : s.self.syncing.getLsbD (groupBit m.scope.toNat 15) = true) (hin : s.self.inSync = true)
    (harr : s.self.arrived.getLsbD (groupBit m.scope.toNat 15) = false) (hshort : shortOf s = 0)
    (hstay : ∀ c, s.colony (s.colonyOf s.cur) = some c → c.yield = none) :
    Leads (.sync o m) s (stepAcquired s m.scope.toNat) := by
  obtain ⟨body, hx, hbody⟩ := sync_eq o m s
  have htwin := twin_stepAcquired s ⟨o.st, 0, .joint, []⟩ m.scope.toNat
  have hgrants := sameGrants_stepAcquired s ⟨o.st, 0, .joint, []⟩ m.scope.toNat
  have hcol : (stepAcquired (s.withSelf (s.self.begun ⟨o.st, 0, .joint, []⟩)) m.scope.toNat).units.colonies = s.units.colonies := by
    rw [htwin.rest]; exact htwin.fixed.colonies
  have hrun : finishSync m.scope.toNat (s.withSelf (s.self.begun ⟨o.st, 0, .joint, []⟩)) =
      .ok () (stepAcquired (s.withSelf (s.self.begun ⟨o.st, 0, .joint, []⟩)) m.scope.toNat) := by
    refine finishSync_quiet (fun b hb => ?_) fun c hc => ?_
    · have hb : quadOf b = quadOf s.cur := hb
      have hle : ¬s.demand (quadOf b) > s.freeLanes (quadOf b) := by
        rw [hb]
        exact Nat.not_lt.mpr (Nat.le_of_sub_eq_zero hshort)
      unfold surrenders
      rw [hgrants.demand, hgrants.freeLanes, decide_eq_false hle, Bool.and_false]
    · refine hstay c ?_
      rw [← hc]
      unfold State.colony State.colonyOf
      rw [hcol]
      rfl
  refine leads_of_twin hx Steer.noConfusion (clear_nil ht) ((hbody _).trans ((superstep_finish ht hmem hsync hin harr).trans hrun)) htwin
    rfl rfl rfl rfl rfl rfl

end

theorem syncEndsSuperstep : SyncEndsSuperstep := by
  intro o m s ht scope b t g short
  refine ⟨fun hno => sync_traps ht (.inl hno), fun hmem hsync harr => sync_traps ht (.inr ⟨hmem, hsync, harr⟩), ?_, ?_, ?_⟩
  · intro hmem hnew harr hgang hdrop hsteps hscope hopen
    exact sync_first ht hscope hmem hnew harr hgang hdrop hsteps hopen
  · intro hmem hsync harr
    exact sync_arrived ht hmem hsync harr
  · intro hmem hsync hin harr
    exact ⟨sync_completes ht hmem hsync hin harr, fun hshort hstay => sync_leads ht hmem hsync hin harr hshort hstay⟩

/-- Settles O28: arrivals by the members that have not arrived, `bmem` bit by bit, `sync` by the strand that its state leaves. -/
theorem barriers : Obligations.Barriers := ⟨arrivalsCompletePhases, bmemExchangesMask, syncEndsSuperstep⟩

end Sys2Proof.Claims
end

section
/-! SUPPORT. Messages, deposits and monitors (R151 to R164, R411). -/

namespace Sys2Proof.Claims

open Sys2Proof.Machine

/-! ## `mon` and `wait` -/

theorem foldHash_bits (f : BitVec 1024) (line : Nat) : f ||| (monitorBits line).foldl (fun f b => f ||| (1#1024 <<< b)) 0 =
    f ||| 1#1024 <<< foldHash ((line >>> 0) ||| (line <<< (48 - 0)) % 2 ^ 48) |||
      1#1024 <<< foldHash ((line >>> 16) ||| (line <<< (48 - 16)) % 2 ^ 48) |||
      1#1024 <<< foldHash ((line >>> 32) ||| (line <<< (48 - 32)) % 2 ^ 48) := by
  have hzero (x : BitVec 1024) : 0 ||| x = x := BitVec.zero_or
  simp only [monitorBits, List.map_cons, List.map_nil, List.foldl_cons, List.foldl_nil, hzero, BitVec.or_assoc]

section Mon
variable {o : OpR} {s : State} (h : Issues s [o.a])
include h

/-- `mon` up to the test of its register. -/
theorem mon_eq : ∃ body : M Unit, exec (.mon o) s = runOp ⟨o.st, 0, .access, [wSrc o.a]⟩ body s ∧
    body (s.withSelf (s.self.begun ⟨o.st, 0, .access, [wSrc o.a]⟩)) = (if (w s o.a).tag then do
        let pe ← checkAccess (w s o.a) Cap.ld [Cap.kMemory] 1
        modSelf fun t => { t with monitor := t.monitor ||| (monitorBits (pe.1 / 128)).foldl (fun f b => f ||| (1#1024 <<< b)) 0 }
      else modSelf fun t => { t with monitor := 0 } : M Unit) (s.withSelf (s.self.begun ⟨o.st, 0, .access, [wSrc o.a]⟩)) := by
  refine ⟨_, rfl, ?_⟩
  rw [M.bind_ok (h.readW_same (by rw [State.self_withSelf]; exact .begun ..) 0 (by simp))]

theorem mon_clears (ht : (w s o.a).tag = false) : Leads (.mon o) s (s.withSelf { s.self with monitor := 0 }) := by
  obtain ⟨body, hx, hbody⟩ := mon_eq h
  rw [ht, if_neg Bool.false_ne_true, modSelf_run] at hbody
  exact leads_of_runOp hx Steer.noConfusion (h.clear (by simp [wSrc])) hbody ((OnlySelf.begun s _).withSelf _) (by rw [State.self_withSelf]; rfl)
    (by rw [State.self_withSelf]; rfl) (by rw [State.self_withSelf]; rfl) (by rw [State.self_withSelf]; rfl) rfl rfl

theorem mon_traps {f : BitVec 8} (ht : (w s o.a).tag = true) (hf : checkFault s (w s o.a) Cap.ld [Cap.kMemory] 1 = some f) :
    Traps (.mon o) s f (Cap.cursor (w s o.a).val) := by
  obtain ⟨body, hx, hbody⟩ := mon_eq h
  rw [ht, if_pos rfl] at hbody
  exact traps_of_checkFault hx Steer.noConfusion (h.clear (by simp [wSrc])) hbody hf

theorem mon_adds {p : Nat} {e : Word} (ht : (w s o.a).tag = true) (hf : checkFault s (w s o.a) Cap.ld [Cap.kMemory] 1 = none)
    (hm : Maps s (Cap.tenant (w s o.a).val) (Cap.cursor (w s o.a).val) Cap.ld p e) :
    Leads (.mon o) s (s.withSelf { s.self with
      monitor := s.self.monitor ||| (monitorBits (p / 128)).foldl (fun f b => f ||| (1#1024 <<< b)) 0 }) := by
  obtain ⟨body, hx, hbody⟩ := mon_eq h
  have haccess := checkAccess_run (s := s) (v := s.withSelf (s.self.begun ⟨o.st, 0, .access, [wSrc o.a]⟩)) (identity_begun _) rfl rfl hf hm
  rw [ht, if_pos rfl, M.bind_ok haccess, modSelf_run] at hbody
  exact leads_of_runOp hx Steer.noConfusion (h.clear (by simp [wSrc])) hbody ((OnlySelf.begun s _).withSelf _) (by rw [State.self_withSelf]; rfl)
    (by rw [State.self_withSelf]; rfl) (by rw [State.self_withSelf]; rfl) (by rw [State.self_withSelf]; rfl) rfl rfl

end Mon

/-- `wait` behind its prologue. -/
def waitBody : M Unit := do
  let t ← self
  if t.wake || !t.inbox.isEmpty then modSelf fun t => { t with wake := false }
  else do
    modSelf fun t => { t with asleep := true }
    throw .wait

section Wait
variable {o : OpN} {s : State} (ht : Together s)
include ht

theorem wait_ends (hready : s.self.wake = true ∨ s.self.inbox ≠ []) : Leads (.wait o) s (s.withSelf { s.self with wake := false }) := by
  have hrun : waitBody (s.withSelf (s.self.begun ⟨o.st, 0, .access, []⟩)) =
      .ok () ((s.withSelf (s.self.begun ⟨o.st, 0, .access, []⟩)).withSelf { s.self.begun ⟨o.st, 0, .access, []⟩ with wake := false }) := by
    have hgo : (s.self.wake || !s.self.inbox.isEmpty) = true := by
      rcases hready with hr | hr
      · rw [hr]; rfl
      · simp [hr]
    have hgo : ((s.self.begun ⟨o.st, 0, .access, []⟩).wake || !(s.self.begun ⟨o.st, 0, .access, []⟩).inbox.isEmpty) = true := hgo
    unfold waitBody
    rw [M.bind_ok (self_run _), State.self_withSelf, if_pos hgo, modSelf_run, State.self_withSelf]
  exact leads_of_runOp (d := ⟨o.st, 0, .access, []⟩) (body := waitBody) rfl Steer.noConfusion (clear_nil ht) hrun
    ((OnlySelf.begun s _).withSelf _) rfl rfl rfl rfl rfl rfl

theorem wait_sleeps (hwake : s.self.wake = false) (hbox : s.self.inbox = []) : Waits (.wait o) s := by
  have hrun : waitBody (s.withSelf (s.self.begun ⟨o.st, 0, .access, []⟩)) =
      .error .wait ((s.withSelf (s.self.begun ⟨o.st, 0, .access, []⟩)).withSelf { s.self.begun ⟨o.st, 0, .access, []⟩ with asleep := true }) := by
    have hno : (s.self.wake || !s.self.inbox.isEmpty) = false := by rw [hwake, hbox]; rfl
    have hno : ((s.self.begun ⟨o.st, 0, .access, []⟩).wake || !(s.self.begun ⟨o.st, 0, .access, []⟩).inbox.isEmpty) = false := hno
    unfold waitBody
    rw [M.bind_ok (self_run _), State.self_withSelf, if_neg (by rw [hno]; exact Bool.false_ne_true), M.bind_ok (modSelf_run ..),
      State.self_withSelf]
    rfl
  refine waits_of_idle (exec_of_wait (d := ⟨o.st, 0, .access, []⟩) (body := do waitBody; pure .next) rfl Steer.noConfusion rfl (clear_nil ht)
    (M.bind_error hrun)) (((OnlySelf.begun s _).withSelf _).sameAs rfl rfl) ?_ ?_ <;> rw [State.self_withSelf] <;> rfl

end Wait

theorem monitorsAndWait : MonitorsAndWait := by
  refine ⟨?_, ?_⟩
  · intro o s h c
    refine ⟨fun ht => mon_clears h ht, fun f ht hf => mon_traps h ht hf, ?_⟩
    intro p e ht hf hm line bit
    have hadds := mon_adds h ht hf hm
    rw [foldHash_bits] at hadds
    exact hadds
  · exact fun o s ht => ⟨wait_ends ht, wait_sleeps ht⟩

/-! ## Other strands of two twins -/

/-- Another strand that runs, changed alike in two twins. -/
theorem Twin.withOther {s : State} {t r : Strand} {u v : State} (h : Twin s t r u v) {b : Nat} (hb : b ≠ s.cur) {x : Strand}
    (hx : x.live = true) (hlive : (u.strand b).live = true) : Twin s t r (u.withStrand b x) (v.withStrand b x) := by
  have hne : x ≠ Strand.idle := fun hidle => by rw [hidle] at hx; exact Bool.false_ne_true hx
  have hlive' : (v.strand b).live = true := by rw [h.other b hb]; exact hlive
  refine ⟨h.fixed.trans (.withStrands ..), ?_, fun n hn => ?_, ?_, h.monitor, fun n hn => ?_⟩
  · have hwith (S : SMap Strand) : { v with strands := S } = { u with strands := S } := by rw [h.rest]
    exact hwith _
  · by_cases hnb : n = b
    · subst hnb; rw [State.strand_withStrand_same, State.strand_withStrand_same]
    · rw [State.strand_withStrand_ne _ _ _ _ hnb, State.strand_withStrand_ne _ _ _ _ hnb, h.other n hn]
  · have hself (y : State) (hy : y.cur = s.cur) : (y.withStrand b x).self = y.self :=
      State.strand_withStrand_ne _ _ _ _ (show y.cur ≠ b by rw [hy]; exact hb.symm)
    rw [hself u h.fixed.cur, hself v h.cur]
    exact h.woken
  · rw [mem_running_withStrand (hx.trans hlive.symm) (.inr hne), mem_running_withStrand (hx.trans hlive'.symm) (.inr hne)]
    exact h.runs n hn

/-! ## Puts that are under way -/

theorem putsOutstanding_begun (s : State) (d : Desc) :
    (s.withSelf (s.self.begun d)).putsOutstanding (s.withSelf (s.self.begun d)).cur = s.putsOutstanding s.cur := by
  have howed : ((s.withSelf (s.self.begun d)).strand s.cur).owed = (s.strand s.cur).owed := by
    rw [State.withSelf, State.strand_withStrand_same]
    rfl
  change (s.withSelf (s.self.begun d)).putsOutstanding s.cur = _
  unfold State.putsOutstanding
  rw [howed]
  rfl

theorem awaitPuts_waits {s : State} (h : s.putsOutstanding s.cur = true) : awaitPuts s = .error .retry s := by
  refine (M.bind_ok (M.get_run s)).trans ?_
  rw [if_pos h]
  rfl

theorem awaitPuts_goes {s : State} (h : s.putsOutstanding s.cur = false) : awaitPuts s = .ok () s := by
  refine (M.bind_ok (M.get_run s)).trans ?_
  rw [if_neg (by rw [h]; exact Bool.false_ne_true)]
  rfl

/-! ## `rdep` -/

/-- A strand with a register written from outside and a count of collisions. -/
def deposited (t : Strand) (n : Nat) (r : Reg) (col : Word) : Strand := { t.deposit (t.physOf n) r with wake := true, depcol := col }

theorem phys_deposited (t : Strand) (n : Nat) (r : Reg) (col : Word) : (deposited t n r col).phys (t.physOf n) = r := by
  have hlt : t.physOf n % 256 = t.physOf n := Nat.mod_eq_of_lt (Strand.physOf_lt t n)
  simp only [deposited, Strand.deposit, Strand.phys, hlt, lookupD_storeAt_same]

theorem wake_complete (t pre : Strand) (d : Desc) (n : Nat) (p : Reg) : (t.complete pre d n p).wake = t.wake := by
  have h := congrArg Strand.wake (Strand.still_complete t pre d n p)
  exact h

/-- What a deposit that is applied leaves: its register, the wake flag, and a collision that may be counted. -/
theorem applyDeposit_run (sid n : Nat) (r : Reg) (s : State) : ∃ col y, applyDeposit sid ((s.strand sid).physOf n) n r s = .ok () y ∧
    y.cur = s.cur ∧ y.strands = (s.withStrand sid (deposited (s.strand sid) n r col)).strands ∧
    ((s.strand sid).named.contains n = false → y = s.withStrand sid (deposited (s.strand sid) n r (s.strand sid).depcol)) := by
  have hget : getStrand sid s = .ok (s.strand sid) s := rfl
  unfold applyDeposit
  rw [M.bind_ok hget]
  by_cases hhit : ((s.strand sid).named.contains n && Config.depositSameClk sid (s.strand sid).clk) = true
  · rw [hhit]
    exact ⟨_, _, rfl, rfl, rfl, fun hno => absurd hhit (by rw [hno]; simp)⟩
  · rw [Bool.not_eq_true] at hhit
    rw [hhit]
    refine ⟨_, _, rfl, rfl, rfl, fun _ => ?_⟩
    have hcol : BitVec.ofNat 64 (s.strand sid).depcol.toNat = (s.strand sid).depcol := by rw [BitVec.ofNat_toNat, BitVec.setWidth_eq]
    rw [if_neg (by simp), hcol]
    rfl

/-- `rdep` behind its check of R75. -/
def depositRest (m : MemMod) (c v : Reg) (n : Word) : M Unit := do
  if m.ord = 2 then awaitPuts else pure ()
  ordRelease m.ord.toNat m.scope.toNat
  let s ← get
  let target := Cap.cursor c.val % 2 ^ 28
  let reply ← if target / 16384 = s.pkg then offerDeposit (target % 16384) n v
    else do
      let a ← askRemote (Cap.cursor c.val) (target / 16384 * 2 ^ 41) 6 2 (Cap.tenant c.val) (.deposit n v (target % 16384)) [] v.tag
      pure (match a.op with
        | .refused => some true
        | .notLoaded => some false
        | _ => none)
  match reply with
  | none => pure ()
  | some loaded => raise2 cDepref (Cap.cursor c.val) ((if loaded then 0 else 2 ^ 63) ||| n.toNat)

theorem Issues.clear_threeSource {o : OpRRR} {s : State} (h : Issues s [o.a, o.b, o.c]) : s.self.Clear (threeSource o) :=
  h.clear (by simp [threeSource, wSrc])

/-- What the target shows of itself behind the release is the same with the prologue and without it. -/
theorem twin_shows {s u v : State} {d : Desc} (h : Twin s s.self (s.self.begun d) u v) (b : Nat) :
    (v.strand b).live = (u.strand b).live ∧ (v.strand b).win = (u.strand b).win ∧ (v.strand b).inbox = (u.strand b).inbox ∧
      (v.strand b).rqovf = (u.strand b).rqovf := by
  by_cases hb : b = s.cur
  · obtain ⟨w, hu, hv⟩ := h.woken
    rw [State.self, h.fixed.cur] at hu
    rw [State.self, h.cur] at hv
    rw [hb, hu, hv]
    exact ⟨rfl, rfl, rfl, rfl⟩
  · rw [h.other b hb]
    exact ⟨rfl, rfl, rfl, rfl⟩

section Rdep
variable {o : OpRRR} {m : MemMod} {s : State} (h : Issues s [o.a, o.b, o.c])
variable (hf : checkFault s (w s o.a) Cap.dp [Cap.kStrand] 1 = none)
include h hf

theorem rdep_eq : ∃ body : M Unit, exec (.rdep o m) s = runOp ⟨o.st, 0, .access, threeSource o⟩ body s ∧
    body (s.withSelf (s.self.begun ⟨o.st, 0, .access, threeSource o⟩)) = (do
      raiseIf ((w s o.b).tag && !Cap.has (w s o.b).val Cap.gl) cPerm (Cap.cursor (w s o.a).val)
      depositRest m (w s o.a) (w s o.b) (x s o.c) : M Unit) (s.withSelf (s.self.begun ⟨o.st, 0, .access, threeSource o⟩)) := by
  have hreads : SameReads (s.withSelf (s.self.begun ⟨o.st, 0, .access, threeSource o⟩)).self s.self := by
    rw [State.self_withSelf]; exact .begun ..
  have hcheck : checkCap (w s o.a) Cap.dp [Cap.kStrand] 1 (s.withSelf (s.self.begun ⟨o.st, 0, .access, threeSource o⟩)) =
      .ok () (s.withSelf (s.self.begun ⟨o.st, 0, .access, threeSource o⟩)) := by
    rw [checkCap_run (identity_begun _), checkOutcome, hf]
  refine ⟨_, rfl, ?_⟩
  rw [M.bind_ok (h.readW_same hreads 0 (by simp)), M.bind_ok (h.readW_same hreads 1 (by simp)), M.bind_ok (h.readX_same hreads 2 (by simp)),
    M.bind_ok hcheck]
  rfl

theorem rdep_perm (ht : (w s o.b).tag = true) (hno : Cap.has (w s o.b).val Cap.gl = false) :
    Traps (.rdep o m) s cPerm (Cap.cursor (w s o.a).val) := by
  obtain ⟨body, hx, hbody⟩ := rdep_eq (m := m) h hf
  exact traps_of_runOp hx Steer.noConfusion h.clear_threeSource (hbody.trans (M.bind_error (raiseIf_of (by rw [ht, hno]; rfl) ..))) (by decide)

variable (hwide : (w s o.b).tag = false ∨ Cap.has (w s o.b).val Cap.gl = true)
include hwide

/-- A value that may leave the strand comes to what is behind the check. -/
theorem rdep_rest : ∃ body : M Unit, exec (.rdep o m) s = runOp ⟨o.st, 0, .access, threeSource o⟩ body s ∧
    body (s.withSelf (s.self.begun ⟨o.st, 0, .access, threeSource o⟩)) = depositRest m (w s o.a) (w s o.b) (x s o.c)
      (s.withSelf (s.self.begun ⟨o.st, 0, .access, threeSource o⟩)) := by
  obtain ⟨body, hx, hbody⟩ := rdep_eq (m := m) h hf
  have hpass : ((w s o.b).tag && !Cap.has (w s o.b).val Cap.gl) = false := by rcases hwide with hw | hw <;> simp [hw]
  exact ⟨body, hx, hbody.trans (M.bind_ok (raiseIf_of_not hpass ..))⟩

theorem rdep_waits (hord : m.ord = 2) (hputs : s.putsOutstanding s.cur = true) : Waits (.rdep o m) s := by
  obtain ⟨body, hx, hbody⟩ := rdep_rest (m := m) h hf hwide
  have hretry : awaitPuts (s.withSelf (s.self.begun ⟨o.st, 0, .access, threeSource o⟩)) =
      .error .retry (s.withSelf (s.self.begun ⟨o.st, 0, .access, threeSource o⟩)) := awaitPuts_waits ((putsOutstanding_begun s _).trans hputs)
  unfold depositRest at hbody
  rw [if_pos hord] at hbody
  exact waits_of_idle (exec_of_retry (body := do body; pure .next) hx Steer.noConfusion rfl h.clear_threeSource
    (M.bind_error (hbody.trans (M.bind_error hretry)))) (.refl s) rfl rfl

variable (hpkg : Cap.cursor (w s o.a).val % 2 ^ 28 / 16384 = s.pkg) (hputs : m.ord = 2 → s.putsOutstanding s.cur = false)
include hpkg hputs

/-- In this package the deposit is offered behind the release. -/
theorem rdep_here : ∃ body : M Unit, exec (.rdep o m) s = runOp ⟨o.st, 0, .access, threeSource o⟩ body s ∧
    body (s.withSelf (s.self.begun ⟨o.st, 0, .access, threeSource o⟩)) = (do
      let reply ← offerDeposit (Cap.cursor (w s o.a).val % 16384) (x s o.c) (w s o.b)
      match reply with
      | none => pure ()
      | some loaded => raise2 cDepref (Cap.cursor (w s o.a).val) ((if loaded then 0 else 2 ^ 63) ||| (x s o.c).toNat) : M Unit)
        (released (s.withSelf (s.self.begun ⟨o.st, 0, .access, threeSource o⟩)) m.ord.toNat m.scope.toNat) := by
  obtain ⟨body, hx, hbody⟩ := rdep_rest (m := m) h hf hwide
  refine ⟨body, hx, hbody.trans ?_⟩
  have htwin := keeps2_released m.ord.toNat m.scope.toNat (Twin.begun s ⟨o.st, 0, .access, threeSource o⟩)
  have hsid : Cap.cursor (w s o.a).val % 2 ^ 28 % 16384 = Cap.cursor (w s o.a).val % 16384 := by omega
  unfold depositRest
  by_cases hord : m.ord = 2
  · rw [if_pos hord, M.bind_ok (awaitPuts_goes ((putsOutstanding_begun s _).trans (hputs hord)))]
    refine ((M.bind_ok (ordRelease_run ..)).trans ((M.bind_ok (M.get_run _)).trans ?_))
    rw [if_pos (hpkg.trans htwin.pkg.symm), hsid]
  · rw [if_neg hord]
    refine ((M.bind_ok (ordRelease_run ..)).trans ((M.bind_ok (M.get_run _)).trans ?_))
    rw [if_pos (hpkg.trans htwin.pkg.symm), hsid]

theorem rdep_refused {loaded : Bool} (hoffer : offerDeposit (Cap.cursor (w s o.a).val % 16384) (x s o.c) (w s o.b)
    (released (s.withSelf (s.self.begun ⟨o.st, 0, .access, threeSource o⟩)) m.ord.toNat m.scope.toNat) =
      .ok (some loaded) (released (s.withSelf (s.self.begun ⟨o.st, 0, .access, threeSource o⟩)) m.ord.toNat m.scope.toNat)) :
    Traps2 (.rdep o m) s cDepref (BitVec.ofNat 64 (Cap.cursor (w s o.a).val))
      (some (BitVec.ofNat 64 ((if loaded then 0 else 2 ^ 63) ||| (x s o.c).toNat))) := by
  obtain ⟨body, hx, hbody⟩ := rdep_here h hf hwide hpkg hputs
  rw [M.bind_ok hoffer] at hbody
  exact traps_of_runWith (body := do body; pure .next) hx Steer.noConfusion rfl h.clear_threeSource (M.bind_error hbody)
    (memRel_walkErrors.released (s.withSelf (s.self.begun ⟨o.st, 0, .access, threeSource o⟩)) _ _) (by decide)

theorem rdep_notLoaded (hdead : ((released s m.ord.toNat m.scope.toNat).strand (Cap.cursor (w s o.a).val % 16384)).live = false) :
    Traps2 (.rdep o m) s cDepref (BitVec.ofNat 64 (Cap.cursor (w s o.a).val)) (some (BitVec.ofNat 64 (2 ^ 63 ||| (x s o.c).toNat))) := by
  have htwin := keeps2_released m.ord.toNat m.scope.toNat (Twin.begun s ⟨o.st, 0, .access, threeSource o⟩)
  refine rdep_refused (loaded := false) h hf hwide hpkg hputs ?_
  obtain ⟨hlive, -⟩ := twin_shows htwin (Cap.cursor (w s o.a).val % 16384)
  have hget (n : Nat) (y : State) : getStrand n y = .ok (y.strand n) y := rfl
  unfold offerDeposit
  rw [M.bind_ok (hget _ _), if_pos (by rw [hlive.trans hdead]; rfl)]
  rfl

theorem rdep_beyond (hlive : ((released s m.ord.toNat m.scope.toNat).strand (Cap.cursor (w s o.a).val % 16384)).live = true)
    (hframe : ((released s m.ord.toNat m.scope.toNat).strand (Cap.cursor (w s o.a).val % 16384)).win.frame ≤ (x s o.c).toNat) :
    Traps2 (.rdep o m) s cDepref (BitVec.ofNat 64 (Cap.cursor (w s o.a).val)) (some (x s o.c)) := by
  have htwin := keeps2_released m.ord.toNat m.scope.toNat (Twin.begun s ⟨o.st, 0, .access, threeSource o⟩)
  obtain ⟨hlive', hwin, -⟩ := twin_shows htwin (Cap.cursor (w s o.a).val % 16384)
  have hget (n : Nat) (y : State) : getStrand n y = .ok (y.strand n) y := rfl
  have htrap := rdep_refused (loaded := true) h hf hwide hpkg hputs (by
    unfold offerDeposit
    rw [M.bind_ok (hget _ _), if_neg (by rw [hlive'.trans hlive]; exact Bool.false_ne_true), if_pos (by rw [hwin]; exact hframe)]
    rfl)
  rw [if_pos rfl, Nat.zero_or, BitVec.ofNat_toNat, BitVec.setWidth_eq] at htrap
  exact htrap

variable (hlive : ((released s m.ord.toNat m.scope.toNat).strand (Cap.cursor (w s o.a).val % 16384)).live = true)
variable (hframe : (x s o.c).toNat < ((released s m.ord.toNat m.scope.toNat).strand (Cap.cursor (w s o.a).val % 16384)).win.frame)
include hlive hframe

/-- A deposit that is accepted is applied. -/
theorem rdep_applies : ∃ body : M Unit, exec (.rdep o m) s = runOp ⟨o.st, 0, .access, threeSource o⟩ body s ∧
    ∀ {y : State}, applyDeposit (Cap.cursor (w s o.a).val % 16384)
      (((released (s.withSelf (s.self.begun ⟨o.st, 0, .access, threeSource o⟩)) m.ord.toNat m.scope.toNat).strand
        (Cap.cursor (w s o.a).val % 16384)).physOf (x s o.c).toNat) (x s o.c).toNat (w s o.b)
      (released (s.withSelf (s.self.begun ⟨o.st, 0, .access, threeSource o⟩)) m.ord.toNat m.scope.toNat) = .ok () y →
      body (s.withSelf (s.self.begun ⟨o.st, 0, .access, threeSource o⟩)) = .ok () y := by
  obtain ⟨body, hx, hbody⟩ := rdep_here h hf hwide hpkg hputs
  have htwin := keeps2_released m.ord.toNat m.scope.toNat (Twin.begun s ⟨o.st, 0, .access, threeSource o⟩)
  obtain ⟨hlive', hwin, -⟩ := twin_shows htwin (Cap.cursor (w s o.a).val % 16384)
  have hget (n : Nat) (y : State) : getStrand n y = .ok (y.strand n) y := rfl
  refine ⟨body, hx, fun {y} hy => hbody.trans ?_⟩
  refine (M.bind_ok (a := none) (t := y) ?_).trans rfl
  unfold offerDeposit
  rw [M.bind_ok (hget _ _), if_neg (by rw [hlive'.trans hlive]; exact Bool.false_ne_true),
    if_neg (by rw [hwin]; exact Nat.not_le.mpr hframe)]
  exact (M.bind_ok hy).trans rfl

theorem rdep_writes : ∃ u, exec (.rdep o m) s = .next u ∧ u.self.pcc = s.self.pccAt s.self.npc ∧
    (u.strand (Cap.cursor (w s o.a).val % 16384)).phys
      (((released s m.ord.toNat m.scope.toNat).strand (Cap.cursor (w s o.a).val % 16384)).physOf (x s o.c).toNat) = w s o.b ∧
    (u.strand (Cap.cursor (w s o.a).val % 16384)).wake = true := by
  obtain ⟨body, hx, happly⟩ := rdep_applies h hf hwide hpkg hputs hlive hframe
  have htwin := keeps2_released m.ord.toNat m.scope.toNat (Twin.begun s ⟨o.st, 0, .access, threeSource o⟩)
  obtain ⟨-, hwin, -⟩ := twin_shows htwin (Cap.cursor (w s o.a).val % 16384)
  obtain ⟨col, y, hy, hcur, hstrands, -⟩ := applyDeposit_run (Cap.cursor (w s o.a).val % 16384) (x s o.c).toNat (w s o.b)
    (released (s.withSelf (s.self.begun ⟨o.st, 0, .access, threeSource o⟩)) m.ord.toNat m.scope.toNat)
  have hend := hx.trans (runOp_ok Steer.noConfusion h.clear_threeSource (happly hy))
  have hphysOf : ((released s m.ord.toNat m.scope.toNat).strand (Cap.cursor (w s o.a).val % 16384)).physOf (x s o.c).toNat =
      ((released (s.withSelf (s.self.begun ⟨o.st, 0, .access, threeSource o⟩)) m.ord.toNat m.scope.toNat).strand
        (Cap.cursor (w s o.a).val % 16384)).physOf (x s o.c).toNat := by
    unfold Strand.physOf
    rw [hwin]
  have hcur' : (released (s.withSelf (s.self.begun ⟨o.st, 0, .access, threeSource o⟩)) m.ord.toNat m.scope.toNat).cur = s.cur :=
    htwin.cur
  obtain ⟨b, hself⟩ : ∃ b,
      (released (s.withSelf (s.self.begun ⟨o.st, 0, .access, threeSource o⟩)) m.ord.toNat m.scope.toNat).self =
        wokenIf (s.self.begun ⟨o.st, 0, .access, threeSource o⟩) b := htwin.woken.imp fun _ => And.right
  rw [hphysOf]
  clear htwin hwin
  generalize released (s.withSelf (s.self.begun ⟨o.st, 0, .access, threeSource o⟩)) m.ord.toNat m.scope.toNat = v at *
  generalize Cap.cursor (w s o.a).val % 16384 = sid at *
  have hstrand (n : Nat) : y.strand n = (v.withStrand sid (deposited (v.strand sid) (x s o.c).toNat (w s o.b) col)).strand n :=
    congrArg (lookupD Strand.idle · n) hstrands
  have hkeeps : y.self.pcc = s.self.pcc ∧ y.self.ir = s.self.ir ∧ y.self.apart = none := by
    have htogether : s.self.apart = none := h.1.1
    rw [State.self, hcur, hstrand]
    by_cases hb : v.cur = sid
    · rw [hb, State.strand_withStrand_same, ← hb]
      change v.self.pcc = _ ∧ v.self.ir = _ ∧ v.self.apart = _
      rw [hself]
      exact ⟨rfl, rfl, htogether⟩
    · rw [State.strand_withStrand_ne _ _ _ _ hb]
      change v.self.pcc = _ ∧ v.self.ir = _ ∧ v.self.apart = _
      rw [hself]
      exact ⟨rfl, rfl, htogether⟩
  obtain ⟨hpcc, hir, hapart⟩ := hkeeps
  have hnext : y.self.pccAt y.self.npc = s.self.pccAt s.self.npc := by simp only [Strand.pccAt, Strand.npc, Strand.pc, hpcc, hir]
  have hput : (y.strand sid).phys ((v.strand sid).physOf (x s o.c).toNat) = w s o.b ∧ (y.strand sid).wake = true := by
    rw [hstrand, State.strand_withStrand_same]
    exact ⟨phys_deposited .., rfl⟩
  refine ⟨_, hend, ?_, ?_⟩
  · rw [State.self_commit_next _ _ _ hapart, Strand.complete_pcc, hnext]
  · by_cases hb : sid = s.cur
    · have hsame : (y.commit s ⟨o.st, 0, .access, threeSource o⟩ 0 .next).strand sid =
          y.self.complete s.self ⟨o.st, 0, .access, threeSource o⟩ 0 (y.self.pccAt y.self.npc) := by
        rw [← State.self_commit_next _ _ _ hapart, State.self, State.commit_cur, hcur, hcur', hb]
      have hy : y.strand sid = y.self := by rw [State.self, hcur, hcur', hb]
      rw [hsame, Strand.complete_phys, wake_complete, ← hy]
      exact hput
    · rw [State.strand_commit_ne _ _ _ _ _ _ (by rw [hcur, hcur']; exact hb)]
      exact hput

/-- On another strand that does not issue with that register, the deposit is all. -/
theorem rdep_leads (hother : Cap.cursor (w s o.a).val % 16384 ≠ s.cur)
    (hnamed : ((released s m.ord.toNat m.scope.toNat).strand (Cap.cursor (w s o.a).val % 16384)).named.contains (x s o.c).toNat = false) :
    let old := released s m.ord.toNat m.scope.toNat
    let t := old.strand (Cap.cursor (w s o.a).val % 16384)
    Leads (.rdep o m) s (old.withStrand (Cap.cursor (w s o.a).val % 16384)
      { t.deposit (t.physOf (x s o.c).toNat) (w s o.b) with wake := true }) := by
  intro old t
  obtain ⟨body, hx, happly⟩ := rdep_applies h hf hwide hpkg hputs hlive hframe
  have htwin := keeps2_released m.ord.toNat m.scope.toNat (Twin.begun s ⟨o.st, 0, .access, threeSource o⟩)
  obtain ⟨col, y, hy, -, -, hquiet⟩ := applyDeposit_run (Cap.cursor (w s o.a).val % 16384) (x s o.c).toNat (w s o.b)
    (released (s.withSelf (s.self.begun ⟨o.st, 0, .access, threeSource o⟩)) m.ord.toNat m.scope.toNat)
  have hsame := htwin.other _ hother
  have hrun := happly hy
  rw [hquiet (by rw [hsame]; exact hnamed), hsame] at hrun
  exact leads_of_twin_begun hx Steer.noConfusion h.clear_threeSource hrun (htwin.withOther hother hlive hlive)

end Rdep

theorem depositsArrive : DepositsArrive := by
  intro o m s h c v n sid hf
  refine ⟨fun ht hno => rdep_perm h hf ht hno, fun hwide hord hputs => rdep_waits h hf hwide hord hputs, ?_⟩
  intro hwide hpkg hputs old t refused
  refine ⟨fun hdead => rdep_notLoaded h hf hwide hpkg hputs hdead, fun hlive hframe => rdep_beyond h hf hwide hpkg hputs hlive hframe,
    fun hlive hframe => rdep_writes h hf hwide hpkg hputs hlive hframe, ?_⟩
  intro hlive hframe hother hnamed
  exact rdep_leads h hf hwide hpkg hputs hlive hframe hother hnamed

end Sys2Proof.Claims
end

section
/-! SUPPORT. `recv` and `send` (R154 to R157, R411). -/

namespace Sys2Proof.Claims

open Sys2Proof.Machine

/-- A further change of the current strand of the second twin alone. -/
theorem Twin.further {s : State} {t r : Strand} {u v : State} (h : Twin s t r u v) {g : Strand → Strand}
    (hg : ∀ w, g (wokenIf r w) = wokenIf (g r) w) (hlive : (g r).live = r.live) (hmonitor : (g r).monitor = r.monitor) :
    Twin s t (g r) u (v.withSelf (g v.self)) := by
  obtain ⟨w, hu, hv⟩ := h.woken
  have hcur := h.cur
  refine ⟨h.fixed, ?_, fun b hb => ?_, ⟨w, hu, ?_⟩, ?_, fun b hb => ?_⟩
  · have hwith (S : SMap Strand) : { v with strands := S } = { u with strands := S } := by rw [h.rest]
    exact hwith _
  · rw [State.strand_withSelf_ne v _ _ (by rw [hcur]; exact hb)]
    exact h.other b hb
  · rw [State.self_withSelf, hv, hg]
  · rw [hmonitor, h.monitor]
  · rw [hv, hg]
    refine (mem_running_withStrand ?_ ?_).trans (h.runs b hb)
    · exact hlive.trans (congrArg Strand.live hv : v.self.live = (wokenIf r w).live).symm
    · rw [hcur]
      refine hb.imp_right fun hm0 hidle => hm0 ?_
      exact h.monitor.symm.trans (hmonitor.symm.trans (congrArg Strand.monitor hidle))

theorem Twin.rqovf {s : State} {t r : Strand} {u v : State} (h : Twin s t r u v) : v.self.rqovf = r.rqovf := by
  obtain ⟨b, -, hself⟩ := h.woken
  rw [hself]
  rfl

/-- A queue without an overflow area has nothing to be refilled from. -/
theorem refillQueue_run {sid : Nat} {s : State} (h : areaShape (s.strand sid).rqovf = none) (n : Nat) : refillQueue sid n s = .ok () s := by
  have hget : getStrand sid s = .ok (s.strand sid) s := rfl
  have hcounts : areaCounts sid s = .ok none s := by
    unfold areaCounts
    rw [M.bind_ok hget, h]
    rfl
  cases n with
  | zero => rfl
  | succ n =>
    unfold refillQueue
    rw [M.bind_ok hget, M.bind_ok hcounts]
    rfl

theorem Ready.append {s : State} {us vs : List RegUse} (h : Ready s us) (h' : Ready s vs) : Ready s (us ++ vs) :=
  ⟨h.1, fun r hr => (List.mem_append.mp hr).elim (h.2 r) (h'.2 r)⟩

/-! ## `recv` -/

/-- The acquire of `recv`, and what it puts off. -/
def receiveEnd (m : Message) : M Unit := do
  let s ← get
  let own := m.src.toNat / 16384 = s.pkg
  acquireAt (if own then commonScope s.cur (m.src.toNat % 16384) else 5)
  let t ← self
  if t.rqovf.tag then post (.overflowRefill s.cur) else pure ()
  noticeSlot s.cur

/-- What `recv` does with the oldest message once the queue has been looked at. -/
def receive (o : OpRR) (m : Message) (rest : List Message) : M Unit := do
  modSelf fun t => { t with inbox := rest }
  writeW o.a ((m.payload[0]?).getD Reg.zero)
  writeW (o.a + 1) ((m.payload[1]?).getD Reg.zero)
  writeW (o.a + 2) ((m.payload[2]?).getD Reg.zero)
  writeX o.b (messageHeader m)
  receiveEnd m

/-- `recv` behind its prologue. -/
def recvBody (o : OpRR) : M Unit := do
  let t ← self
  let sid ← curSid
  if t.inbox.isEmpty then refillQueue sid 64 else pure ()
  let t ← self
  match t.inbox with
  | [] => writeX o.b 0
  | m :: rest => receive o m rest

/-- The registers of `recv`. -/
def recvDesc (o : OpRR) : Desc :=
  ⟨o.st, 0, .access, [wDst o.a, ⟨0, o.a.toNat + 1, false, true⟩, ⟨0, o.a.toNat + 2, false, true⟩, wDst o.b]⟩

/-- What `recv` writes to its four registers. -/
def messagePut (o : OpRR) (m : Message) (t : Strand) : Strand :=
  (((t.putW o.a.toNat ((m.payload[0]?).getD Reg.zero)).putW (o.a + 1).toNat ((m.payload[1]?).getD Reg.zero)).putW (o.a + 2).toNat
    ((m.payload[2]?).getD Reg.zero)).putW o.b.toNat (Reg.ofWord (messageHeader m))

/-- What `recv` leaves to be done later. -/
def receiveLater (s : State) (tagged : Bool) (u : State) : List Event :=
  (if tagged then [.overflowRefill s.cur] else []) ++ if lookupD [] u.units.refusals s.cur = [] then [] else [.reofferNotice s.cur]

theorem Twin.putIn {s : State} {t r : Strand} {u v : State} (h : Twin s t r u v) (n : Nat) (x : Reg) :
    Twin s t (r.putW n x) u (v.withSelf (v.self.putW n x)) :=
  h.further (g := fun t => t.putW n x) (fun _ => rfl) rfl rfl

theorem noticeSlot_run (sid : Nat) (s : State) : noticeSlot sid s =
    .ok () { s with agenda := s.agenda ++ if lookupD [] s.units.refusals sid = [] then [] else [.reofferNotice sid] } := by
  refine (M.bind_ok (M.get_run s)).trans ?_
  cases h : lookupD [] s.units.refusals sid with
  | nil =>
    rw [if_pos (c := ([] : List (BitVec 28)) = []) rfl, List.append_nil]
    rfl
  | cons a l =>
    rw [if_neg (c := a :: l = []) (List.cons_ne_nil a l)]
    rfl

/-- Events put on the agenda. -/
def doLater (l : List Event) (s : State) : State := { s with agenda := s.agenda ++ l }

theorem keeps2_doLater (l : List Event) : Keeps2 (doLater l) :=
  Blind.keeps2 (fun _ _ => rfl) fun _ => ⟨rfl, rfl, rfl, rfl, rfl, rfl⟩

theorem recv_exec (o : OpRR) (s : State) : exec (.recv o) s = runOp (recvDesc o) (recvBody o) s := rfl

/-- A register of the current strand written. -/
def putIn (n : Nat) (x : Reg) (v : State) : State := v.withSelf (v.self.putW n x)

/-- `recv` up to its acquire. -/
def receivedIn (o : OpRR) (m : Message) (ms : List Message) (v : State) : State :=
  putIn o.b.toNat (Reg.ofWord (messageHeader m)) <| putIn (o.a + 2).toNat ((m.payload[2]?).getD Reg.zero) <|
    putIn (o.a + 1).toNat ((m.payload[1]?).getD Reg.zero) <| putIn o.a.toNat ((m.payload[0]?).getD Reg.zero) <|
    v.withSelf { v.self with inbox := ms }

/-- What `recv` puts off, in the state that its acquire leaves. -/
def leaveLater (y : State) : State := doLater (receiveLater y y.self.rqovf.tag y) y

theorem receive_run (o : OpRR) (m : Message) (ms : List Message) (v : State) : receive o m ms v = receiveEnd m (receivedIn o m ms v) := rfl

theorem receiveEnd_run (m : Message) (y : State) : receiveEnd m y = .ok () (leaveLater
    (acquired y 1 (if m.src.toNat / 16384 = y.pkg then commonScope y.cur (m.src.toNat % 16384) else 5))) := by
  refine (M.bind_ok (M.get_run y)).trans ((M.bind_ok (acquireAt_run ..)).trans ((M.bind_ok (self_run _)).trans ?_))
  dsimp only
  generalize hz : acquired y 1 (if m.src.toNat / 16384 = y.pkg then commonScope y.cur (m.src.toNat % 16384) else 5) = z
  have hcur : y.cur = z.cur := by rw [← hz, cur_acquired]
  have hpost (e : Event) : post e z = .ok () (doLater [e] z) := rfl
  rw [hcur]
  unfold leaveLater receiveLater doLater
  cases htag : z.self.rqovf.tag with
  | true =>
    rw [if_pos rfl, M.bind_ok (hpost _)]
    refine (noticeSlot_run ..).trans ?_
    by_cases hnone : lookupD [] z.units.refusals z.cur = [] <;> simp [doLater, hnone]
  | false =>
    refine (noticeSlot_run ..).trans ?_
    simp only [Bool.false_eq_true, if_false, List.nil_append]

theorem messagePut_wokenIf (o : OpRR) (m : Message) (t : Strand) (b : Bool) : messagePut o m (wokenIf t b) = wokenIf (messagePut o m t) b := by
  have hput (t : Strand) (n : Nat) (x : Reg) : (wokenIf t b).putW n x = wokenIf (t.putW n x) b := rfl
  unfold messagePut
  rw [hput, hput, hput, hput]

theorem messagePut_shows (o : OpRR) (m : Message) (t : Strand) : (messagePut o m t).live = t.live ∧ (messagePut o m t).monitor = t.monitor ∧
    (messagePut o m t).rqovf = t.rqovf := by
  have hput (t : Strand) (n : Nat) (x : Reg) : (t.putW n x).live = t.live ∧ (t.putW n x).monitor = t.monitor ∧ (t.putW n x).rqovf = t.rqovf :=
    ⟨rfl, rfl, rfl⟩
  unfold messagePut
  simp only [hput, and_self]

theorem messagePut_still (o : OpRR) (m : Message) (t : Strand) : (messagePut o m t).still = t.still := by
  unfold messagePut
  rw [Strand.still_putW, Strand.still_putW, Strand.still_putW, Strand.still_putW]

theorem messagePut_regs (o : OpRR) (m : Message) {t r : Strand} (h : r.regs = t.regs) (hwin : r.win = t.win) :
    (messagePut o m r).regs = (messagePut o m t).regs := by
  have hput {t r : Strand} (n : Nat) (x : Reg) (h : r.regs = t.regs ∧ r.win = t.win) :
      (r.putW n x).regs = (t.putW n x).regs ∧ (r.putW n x).win = (t.putW n x).win := by
    obtain ⟨hregs, hwin⟩ := h
    refine ⟨?_, hwin⟩
    change storeAt _ (r.physOf n) x r.regs = storeAt _ (t.physOf n) x t.regs
    rw [hregs, show r.physOf n = t.physOf n by unfold Strand.physOf; rw [hwin]]
  exact (hput _ _ (hput _ _ (hput _ _ (hput _ _ ⟨h, hwin⟩)))).1

theorem messagePut_stays (o : OpRR) (m : Message) (t : Strand) : (messagePut o m t).apart = t.apart ∧ (messagePut o m t).instret = t.instret ∧
    (messagePut o m t).pcc = t.pcc ∧ (messagePut o m t).ir = t.ir := by
  have hput (t : Strand) (n : Nat) (x : Reg) : (t.putW n x).apart = t.apart ∧ (t.putW n x).instret = t.instret ∧
      (t.putW n x).pcc = t.pcc ∧ (t.putW n x).ir = t.ir := ⟨rfl, rfl, rfl, rfl⟩
  unfold messagePut
  simp only [hput, and_self]

theorem twin_received {s u v : State} {d : Desc} (h : Twin s s.self (s.self.begun d) u v) (o : OpRR) (m : Message) (ms : List Message) :
    Twin s (messagePut o m { s.self with inbox := ms }) (messagePut o m { s.self.begun d with inbox := ms })
      (u.withSelf (messagePut o m { u.self with inbox := ms })) (receivedIn o m ms v) := by
  have h0 := h.withSelf (f := fun t => messagePut o m { t with inbox := ms }) (g := fun t => { t with inbox := ms })
    (fun b => messagePut_wokenIf o m { s.self with inbox := ms } b) (fun _ => rfl) (messagePut_shows ..).1 rfl (messagePut_shows ..).2.1 rfl
  exact (((h0.putIn o.a.toNat _).putIn (o.a + 1).toNat _).putIn (o.a + 2).toNat _).putIn o.b.toNat _

/-- `recv` up to the oldest message. -/
theorem recvBody_begun {o : OpRR} {s : State} (harea : s.self.inbox = [] → areaShape s.self.rqovf = none) :
    recvBody o (s.withSelf (s.self.begun (recvDesc o))) =
      (match s.self.inbox with
        | [] => writeX o.b 0
        | m :: rest => receive o m rest) (s.withSelf (s.self.begun (recvDesc o))) := by
  have hsid (v : State) : curSid v = .ok v.cur v := rfl
  have hbox : (s.withSelf (s.self.begun (recvDesc o))).self.inbox = s.self.inbox := by rw [State.self_withSelf]; rfl
  unfold recvBody
  rw [M.bind_ok (self_run _), M.bind_ok (hsid _)]
  cases hin : s.self.inbox with
  | nil =>
    have hfill : refillQueue (s.withSelf (s.self.begun (recvDesc o))).cur 64 (s.withSelf (s.self.begun (recvDesc o))) =
        .ok () (s.withSelf (s.self.begun (recvDesc o))) := by
      refine refillQueue_run ?_ _
      rw [show ∀ v : State, v.strand v.cur = v.self from fun _ => rfl, State.self_withSelf]
      exact harea hin
    rw [hbox, hin, if_pos (c := ([] : List Message).isEmpty = true) rfl, M.bind_ok hfill]
    dsimp only
    rw [M.bind_ok (self_run _), hbox, hin]
  | cons m ms =>
    rw [hbox, hin, if_neg (by simp)]
    dsimp only
    rw [M.bind_ok (self_run _), hbox, hin]

section Recv
variable {o : OpRR} {s : State} (h : Issues s [o.a, o.b])
variable (hdst : Ready s [⟨0, o.a.toNat + 1, false, true⟩, ⟨0, o.a.toNat + 2, false, true⟩]) (hrange : o.a.toNat + 2 < 64)
include h hdst hrange

theorem recv_clear : s.self.Clear (recvDesc o).regs :=
  (h.append hdst).clear (by simp [recvDesc, wDst])

theorem recv_empty (hbox : s.self.inbox = []) (harea : areaShape s.self.rqovf = none) : SetsX (.recv o) s o.b 0 := by
  have hbody := recvBody_begun (o := o) (s := s) fun _ => harea
  rw [hbox] at hbody
  exact leads_of_twin_putW (recv_exec o s) Steer.noConfusion (recv_clear h hdst hrange) hbody (Twin.begun s (recvDesc o))

/-- `recv` of a message, by the twins that it leaves. -/
theorem recv_runs {m : Message} {ms : List Message} (hbox : s.self.inbox = m :: ms) (hpkg : m.src.toNat / 16384 = s.pkg) {u : State}
    (hu : acquired (s.withSelf (messagePut o m { s.self with inbox := ms })) 1 (commonScope s.cur (m.src.toNat % 16384)) = u) :
    ∃ v, recvBody o (s.withSelf (s.self.begun (recvDesc o))) = .ok () v ∧
      Twin s (messagePut o m { s.self with inbox := ms }) (messagePut o m { s.self.begun (recvDesc o) with inbox := ms })
        (doLater (receiveLater s s.self.rqovf.tag u) u) v := by
  have hbody := recvBody_begun (o := o) (s := s) fun hno => absurd (hbox.symm.trans hno) (List.cons_ne_nil m ms)
  rw [hbox] at hbody
  have htwin := twin_received (Twin.begun s (recvDesc o)) o m ms
  have hrun := (receive_run o m ms (s.withSelf (s.self.begun (recvDesc o)))).trans (receiveEnd_run m _)
  have hscope : (if m.src.toNat / 16384 = (receivedIn o m ms (s.withSelf (s.self.begun (recvDesc o)))).pkg then
      commonScope (receivedIn o m ms (s.withSelf (s.self.begun (recvDesc o)))).cur (m.src.toNat % 16384) else 5) =
      commonScope s.cur (m.src.toNat % 16384) := by
    rw [htwin.pkg, htwin.cur, if_pos hpkg]
  rw [hscope] at hrun
  have hacq := keeps2_acquired 1 (commonScope s.cur (m.src.toNat % 16384)) htwin
  dsimp only at hacq
  rw [hu] at hacq
  clear htwin hscope hu
  generalize acquired (receivedIn o m ms (s.withSelf (s.self.begun (recvDesc o)))) 1 (commonScope s.cur (m.src.toNat % 16384)) = v at *
  have hkept : v.self.rqovf = s.self.rqovf := hacq.rqovf.trans (messagePut_shows ..).2.2
  have hlater : receiveLater v v.self.rqovf.tag v = receiveLater s s.self.rqovf.tag u := by
    unfold receiveLater
    rw [hkept, hacq.units, hacq.cur]
  unfold leaveLater at hrun
  rw [hlater] at hrun
  exact ⟨_, hbody.trans hrun, keeps2_doLater (receiveLater s s.self.rqovf.tag u) hacq⟩

theorem recv_takes {m : Message} {ms : List Message} (hbox : s.self.inbox = m :: ms) (hpkg : m.src.toNat / 16384 = s.pkg) {u : State}
    (hu : acquired (s.withSelf (messagePut o m { s.self with inbox := ms })) 1 (commonScope s.cur (m.src.toNat % 16384)) = u) :
    Leads (.recv o) s (doLater (receiveLater s s.self.rqovf.tag u) u) := by
  obtain ⟨v, hrun, htwin⟩ := recv_runs h hdst hrange hbox hpkg hu
  obtain ⟨hapart, hn, hpcc, hir⟩ := messagePut_stays o m { s.self.begun (recvDesc o) with inbox := ms }
  refine leads_of_twin (recv_exec o s) Steer.noConfusion (recv_clear h hdst hrange) hrun htwin ?_ (messagePut_regs o m rfl rfl) hapart hn hpcc hir
  rw [messagePut_still, messagePut_still]
  rfl

end Recv

theorem recvTakesOldest : RecvTakesOldest := by
  intro o s h hdst hrange
  refine ⟨fun hbox harea => recv_empty h hdst hrange hbox harea, ?_⟩
  intro m ms hbox hpkg word t u refill notice
  have hleads := recv_takes h hdst hrange hbox hpkg (u := u) rfl
  unfold doLater receiveLater at hleads
  rw [← List.append_assoc] at hleads
  exact hleads

end Sys2Proof.Claims
end

section
/-! SUPPORT. `send` (R154, R155, R411). -/

namespace Sys2Proof.Claims

open Sys2Proof.Machine

/-! ## Offering a message -/

theorem modStrand_run (sid : Nat) (f : Strand → Strand) (s : State) : modStrand sid f s = .ok () (s.withStrand sid (f (s.strand sid))) := rfl

section Offer
variable {sid : Nat} {m : Message} {s : State} (hlive : (s.strand sid).live = true) (harea : areaShape (s.strand sid).rqovf = none)
include hlive harea

/-- An offer to a strand without an overflow area goes by the room in its queue. -/
theorem offerMessage_run : offerMessage sid m s = if (s.strand sid).inbox.length < 64 then .ok true (s.withStrand sid (delivered (s.strand sid) m))
    else .ok false s := by
  have hget : getStrand sid s = .ok (s.strand sid) s := rfl
  have hcounts : areaCounts sid s = .ok none s := by
    unfold areaCounts
    rw [M.bind_ok hget, harea]
    rfl
  unfold offerMessage
  rw [M.bind_ok hget, if_neg (by rw [hlive]; exact Bool.false_ne_true), M.bind_ok (refillQueue_run harea 64), M.bind_ok hget,
    M.bind_ok hcounts, harea]
  by_cases hroom : (s.strand sid).inbox.length < 64
  · rw [if_pos (by simpa using hroom), if_pos hroom]
    rfl
  · rw [if_neg (by simpa using hroom), if_neg hroom]
    rfl

end Offer

/-- A target that has noted a sender it refused (R411). -/
def noted (sid : Nat) (sender : BitVec 28) (s : State) : State :=
  let l := lookupD [] s.units.refusals sid
  if l.contains sender || l.length ≥ 64 then s
  else { s with units := { s.units with refusals := storeAt [] sid (l ++ [sender]) s.units.refusals } }

theorem keeps2_noted (sid : Nat) (sender : BitVec 28) : Keeps2 (noted sid sender) := by
  refine Blind.keeps2 (fun u S => ?_) fun u => ?_
  · unfold noted
    dsimp only
    split <;> rfl
  · unfold noted
    dsimp only
    split <;> exact ⟨rfl, rfl, rfl, rfl, rfl, rfl⟩

/-- An offer within the package, with no put under way. -/
theorem offerFrom_run {target : Nat} {c : Reg} {m : Message} {s : State} (hputs : s.putsOutstanding s.cur = false)
    (hpkg : target / 16384 = s.pkg) {old : State} (hold : released s 2 (commonScope s.cur (target % 16384)) = old)
    (hlive : (old.strand (target % 16384)).live = true) (harea : areaShape (old.strand (target % 16384)).rqovf = none) :
    offerFrom target c m s = if (old.strand (target % 16384)).inbox.length < 64
      then .ok true (old.withStrand (target % 16384) (delivered (old.strand (target % 16384)) m))
      else .ok false (noted (target % 16384) m.src old) := by
  have hrel : releaseAt (commonScope s.cur (target % 16384)) s = .ok () old := by
    rw [releaseAt_run, ← hold]
    unfold released
    simp
  unfold offerFrom
  rw [M.bind_ok (awaitPuts_goes hputs), M.bind_ok (M.get_run s), if_pos hpkg]
  have hoffer := offerMessage_run (m := m) hlive harea
  by_cases hroom : (old.strand (target % 16384)).inbox.length < 64
  · rw [if_pos hroom] at hoffer ⊢
    exact (M.bind_ok hrel).trans ((M.bind_ok hoffer).trans rfl)
  · rw [if_neg hroom] at hoffer ⊢
    exact (M.bind_ok hrel).trans ((M.bind_ok hoffer).trans rfl)

/-! ## The instruction -/

/-- The registers of `send`. -/
def sendDesc (o : OpRRR) : Desc :=
  ⟨o.st, 0, .access,
    wSrc o.a :: ((List.range (o.imm.toNat + 1)).map fun i => ⟨0, o.b.toNat + i, true, false⟩) ++ [wSrc o.c]⟩

/-- What a `send` does that is not accepted, by the strand it was offered from. -/
def refuseSend (c : Reg) (t : Strand) (due : Bool) : M Unit := do
  let from_ := t.refusedAt.getD t.clk
  if t.clk - from_ ≥ t.sndto.toNat then throw (.trapKeep cSendblk (BitVec.ofNat 64 (Cap.cursor c.val)) (some t.sndto)) else pure ()
  modSelf fun t => { t with
    refusedAt := some from_
    reoffer := false
    asked := if due then [] else t.asked
    answers := if due then [] else t.answers }
  throw .wait

/-- A strand that goes on offering its message (R411). -/
def stillOffering (since : Nat) (t : Strand) : Strand := { t with refusedAt := some since, reoffer := false, asked := [], answers := [] }

/-- `send` behind its check of R75. -/
def sendRest (c : Reg) (ps : List Reg) (k : Word) : M Unit := do
  let s ← get
  let t := s.self
  let target := Cap.cursor c.val % 2 ^ 28
  let m : Message := { src := s.fullSid s.cur, kind := k.setWidth 16, payload := ps }
  let due := match t.refusedAt with
    | none => true
    | some f => t.reoffer || t.asked ≠ [] || (t.clk - f) % max 1 (s.clkIn s.cur 2000) = 0
  let ok ← if due then offerFrom target c m else pure false
  if ok then pure () else refuseSend c t due

/-- `send` behind its prologue. -/
def sendBody (o : OpRRR) : M Unit := do
  let n := o.imm.toNat + 1
  let c ← readW 0 o.a
  checkCap c Cap.st [Cap.kStrand] 1
  let ps ← (List.range n).mapM fun i => readW (1 + i) (o.b + BitVec.ofNat 6 i)
  raiseIf (ps.any fun r => r.tag && !Cap.has r.val Cap.gl) cPerm (Cap.cursor c.val)
  let k ← readX (1 + n) o.c
  sendRest c ps k

theorem send_exec (o : OpRRR) (s : State) : exec (.send o) s = runOp (sendDesc o) (sendBody o) s := rfl

/-- Reads that each leave the state give the list of what they read. -/
theorem mapM_run {α β : Type} {f : α → M β} {g : α → β} {v : State} {l : List α} (h : ∀ a ∈ l, f a v = .ok (g a) v) :
    l.mapM f v = .ok (l.map g) v := by
  induction l with
  | nil => rfl
  | cons a l ih =>
    rw [List.mapM_cons, M.bind_ok (h a List.mem_cons_self), M.bind_ok (ih fun b hb => h b (List.mem_cons_of_mem a hb))]
    rfl

section Send
variable {o : OpRRR} {s : State} (hn : o.imm.toNat + 1 ≤ 3) (hrange : o.b.toNat + (o.imm.toNat + 1) ≤ 64) (h : Issues s [o.a, o.c])
variable (hsrc : Ready s ((List.range (o.imm.toNat + 1)).map fun i => ⟨0, o.b.toNat + i, true, false⟩))

/-- The registers that hold the message. -/
def payloadRegs (o : OpRRR) : List RegNo := (List.range (o.imm.toNat + 1)).map fun i => o.b + BitVec.ofNat 6 i

/-- What they hold. -/
def payloadOf (s : State) (o : OpRRR) : List Reg := (List.range (o.imm.toNat + 1)).map fun i => w s (o.b + BitVec.ofNat 6 i)

include hrange in
theorem toNat_payloadReg {i : Nat} (hi : i < o.imm.toNat + 1) : (o.b + BitVec.ofNat 6 i).toNat = o.b.toNat + i := by
  rw [BitVec.toNat_add, BitVec.toNat_ofNat]
  omega

include hrange hsrc in
theorem issues_payload : Issues s (payloadRegs o) := by
  refine ⟨hsrc.1, fun r hr => ?_⟩
  obtain ⟨n, hmem, rfl⟩ := List.mem_map.mp hr
  obtain ⟨i, hi, rfl⟩ := List.mem_map.mp hmem
  rw [toNat_payloadReg hrange (List.mem_range.mp hi)]
  exact hsrc.2 ⟨0, o.b.toNat + i, true, false⟩ (List.mem_map.mpr ⟨i, hi, rfl⟩)

include h hsrc in
theorem send_clear : s.self.Clear (sendDesc o).regs := by
  refine (h.append hsrc).clear fun r hr => ?_
  simp only [sendDesc, List.cons_append, List.mem_cons, List.mem_append, List.not_mem_nil, or_false] at hr
  rcases hr with rfl | hr | rfl
  · exact ⟨⟨0, o.a.toNat, true, true⟩, by simp, rfl, rfl⟩
  · exact ⟨r, by simp [hr], rfl, rfl⟩
  · exact ⟨⟨0, o.c.toNat, true, true⟩, by simp, rfl, rfl⟩

variable (hf : checkFault s (w s o.a) Cap.st [Cap.kStrand] 1 = none)
include hrange h hsrc hf

/-- `send` up to its check of R75. -/
theorem sendBody_begun : sendBody o (s.withSelf (s.self.begun (sendDesc o))) = (do
    raiseIf ((payloadOf s o).any fun r => r.tag && !Cap.has r.val Cap.gl) cPerm (Cap.cursor (w s o.a).val)
    sendRest (w s o.a) (payloadOf s o) (x s o.c) : M Unit) (s.withSelf (s.self.begun (sendDesc o))) := by
  have hreads : SameReads (s.withSelf (s.self.begun (sendDesc o))).self s.self := by rw [State.self_withSelf]; exact .begun ..
  have hid : (s.withSelf (s.self.begun (sendDesc o))).self.identity = s.self.identity := identity_begun _
  have hcheck : checkCap (w s o.a) Cap.st [Cap.kStrand] 1 (s.withSelf (s.self.begun (sendDesc o))) = .ok () (s.withSelf (s.self.begun (sendDesc o))) := by
    rw [checkCap_run hid, checkOutcome, hf]
  have hpayload := mapM_run (f := fun i => readW (1 + i) (o.b + BitVec.ofNat 6 i)) (g := fun i => w s (o.b + BitVec.ofNat 6 i))
    (l := List.range (o.imm.toNat + 1)) fun i hi => (issues_payload hrange hsrc).readW_same hreads (1 + i) (List.mem_map.mpr ⟨i, hi, rfl⟩)
  unfold sendBody
  rw [M.bind_ok (h.readW_same hreads 0 (by simp)), M.bind_ok hcheck, M.bind_ok hpayload]
  by_cases hwide : ((payloadOf s o).any fun r => r.tag && !Cap.has r.val Cap.gl) = true
  · rw [M.bind_error (raiseIf_of hwide ..)]
    exact M.bind_error (raiseIf_of hwide ..)
  · have hwide' := Bool.not_eq_true _ ▸ hwide
    rw [M.bind_ok (raiseIf_of_not hwide' ..)]
    refine (M.bind_ok (raiseIf_of_not hwide' ..)).trans ?_
    rw [M.bind_ok (h.readX_same hreads _ (by simp))]
    rfl

theorem send_perm (hlocal : ∃ r ∈ payloadOf s o, r.tag = true ∧ Cap.has r.val Cap.gl = false) :
    Traps (.send o) s cPerm (Cap.cursor (w s o.a).val) := by
  have hwide : ((payloadOf s o).any fun r => r.tag && !Cap.has r.val Cap.gl) = true := by
    obtain ⟨r, hr, htag, hgl⟩ := hlocal
    exact List.any_eq_true.mpr ⟨r, hr, by rw [htag, hgl]; rfl⟩
  exact traps_of_runOp (send_exec o s) Steer.noConfusion (send_clear h hsrc)
    ((sendBody_begun hrange h hsrc hf).trans (M.bind_error (raiseIf_of hwide ..))) (by decide)

variable (hwide : ¬∃ r ∈ payloadOf s o, r.tag = true ∧ Cap.has r.val Cap.gl = false)
variable (hpkg : Cap.cursor (w s o.a).val % 2 ^ 28 / 16384 = s.pkg) (hfresh : s.self.refusedAt = none)
include hwide hpkg hfresh

/-- The message that a `send` offers. -/
def messageOfSend (s : State) (o : OpRRR) : Message := { src := s.fullSid s.cur, kind := (x s o.c).setWidth 16, payload := payloadOf s o }

/-- A `send` that has not been refused makes its offer. -/
theorem sendBody_offers : sendBody o (s.withSelf (s.self.begun (sendDesc o))) = (do
    let ok ← offerFrom (Cap.cursor (w s o.a).val % 2 ^ 28) (w s o.a) (messageOfSend s o)
    if ok then pure () else refuseSend (w s o.a) (s.self.begun (sendDesc o)) true : M Unit) (s.withSelf (s.self.begun (sendDesc o))) := by
  have hno : ((payloadOf s o).any fun r => r.tag && !Cap.has r.val Cap.gl) = false := by
    rw [Bool.eq_false_iff]
    intro hany
    obtain ⟨r, hr, hbad⟩ := List.any_eq_true.mp hany
    rw [Bool.and_eq_true, Bool.not_eq_true'] at hbad
    exact hwide ⟨r, hr, hbad⟩
  rw [sendBody_begun hrange h hsrc hf, M.bind_ok (raiseIf_of_not hno ..)]
  have hfresh' : (s.self.begun (sendDesc o)).refusedAt = none := hfresh
  unfold sendRest
  rw [M.bind_ok (M.get_run _), State.self_withSelf, hfresh']
  rfl

theorem send_waits (hputs : s.putsOutstanding s.cur = true) : Waits (.send o) s := by
  have hwait : offerFrom (Cap.cursor (w s o.a).val % 2 ^ 28) (w s o.a) (messageOfSend s o) (s.withSelf (s.self.begun (sendDesc o))) =
      .error .retry (s.withSelf (s.self.begun (sendDesc o))) :=
    M.bind_error (awaitPuts_waits ((putsOutstanding_begun s _).trans hputs))
  have hrun := (sendBody_offers hrange h hsrc hf hwide hpkg hfresh).trans (M.bind_error hwait)
  exact waits_of_idle (exec_of_retry (body := do sendBody o; pure .next) (send_exec o s) Steer.noConfusion rfl (send_clear h hsrc)
    (M.bind_error hrun)) (.refl s) rfl rfl

variable (hputs : s.putsOutstanding s.cur = false) {old : State}
variable (hold : released s 2 (commonScope s.cur (Cap.cursor (w s o.a).val % 2 ^ 28 % 16384)) = old)
variable (hlive : (old.strand (Cap.cursor (w s o.a).val % 2 ^ 28 % 16384)).live = true)
variable (harea : areaShape (old.strand (Cap.cursor (w s o.a).val % 2 ^ 28 % 16384)).rqovf = none)
include hputs hold hlive harea

/-- The offer of a `send`, in the twin of the state of the statement. -/
theorem send_offered : ∃ v, Twin s s.self (s.self.begun (sendDesc o)) old v ∧
    sendBody o (s.withSelf (s.self.begun (sendDesc o))) =
      if (old.strand (Cap.cursor (w s o.a).val % 2 ^ 28 % 16384)).inbox.length < 64
      then .ok () (v.withStrand (Cap.cursor (w s o.a).val % 2 ^ 28 % 16384)
        (delivered (v.strand (Cap.cursor (w s o.a).val % 2 ^ 28 % 16384)) (messageOfSend s o)))
      else refuseSend (w s o.a) (s.self.begun (sendDesc o)) true
        (noted (Cap.cursor (w s o.a).val % 2 ^ 28 % 16384) (s.fullSid s.cur) v) := by
  have htwin := keeps2_released 2 (commonScope s.cur (Cap.cursor (w s o.a).val % 2 ^ 28 % 16384)) (Twin.begun s (sendDesc o))
  dsimp only at htwin
  rw [hold] at htwin
  obtain ⟨hl, -, hin, ha⟩ := twin_shows htwin (Cap.cursor (w s o.a).val % 2 ^ 28 % 16384)
  refine ⟨_, htwin, ?_⟩
  have hoffer := offerFrom_run (c := w s o.a) (m := messageOfSend s o) ((putsOutstanding_begun s (sendDesc o)).trans hputs) hpkg rfl
    (hl.trans hlive) (by rw [← harea]; exact congrArg areaShape ha)
  rw [sendBody_offers hrange h hsrc hf hwide hpkg hfresh]
  by_cases hroom : (old.strand (Cap.cursor (w s o.a).val % 2 ^ 28 % 16384)).inbox.length < 64
  · rw [if_pos hroom]
    rw [if_pos (by rw [← hin] at hroom; exact hroom)] at hoffer
    rw [M.bind_ok hoffer]
    rfl
  · rw [if_neg hroom]
    rw [if_neg (by rw [← hin] at hroom; exact hroom)] at hoffer
    rw [M.bind_ok hoffer]
    rfl

theorem send_delivers (hroom : (old.strand (Cap.cursor (w s o.a).val % 2 ^ 28 % 16384)).inbox.length < 64) :
    Leads (.send o) s (old.withStrand (Cap.cursor (w s o.a).val % 2 ^ 28 % 16384)
      (delivered (old.strand (Cap.cursor (w s o.a).val % 2 ^ 28 % 16384)) (messageOfSend s o))) := by
  obtain ⟨v, htwin, hrun⟩ := send_offered hrange h hsrc hf hwide hpkg hfresh hputs hold hlive harea
  rw [if_pos hroom] at hrun
  generalize Cap.cursor (w s o.a).val % 2 ^ 28 % 16384 = sid at *
  by_cases hsid : sid = s.cur
  · have hself (y : State) (hy : y.cur = s.cur) : y.withStrand sid (delivered (y.strand sid) (messageOfSend s o)) =
        y.withSelf (delivered y.self (messageOfSend s o)) := by
      rw [hsid, ← hy]
      rfl
    rw [hself v htwin.cur] at hrun
    rw [hself old htwin.fixed.cur]
    have hdeliver := htwin.withSelf (f := fun t => delivered t (messageOfSend s o)) (g := fun t => delivered t (messageOfSend s o))
      (fun _ => rfl) (fun _ => rfl) rfl rfl rfl rfl
    exact leads_of_twin (send_exec o s) Steer.noConfusion (send_clear h hsrc) hrun hdeliver rfl rfl rfl rfl rfl rfl
  · rw [htwin.other sid hsid] at hrun
    exact leads_of_twin_begun (send_exec o s) Steer.noConfusion (send_clear h hsrc) hrun (htwin.withOther hsid hlive hlive)

variable (hfull : 64 ≤ (old.strand (Cap.cursor (w s o.a).val % 2 ^ 28 % 16384)).inbox.length)
include hfull

theorem send_blocks (hnow : s.self.sndto = 0) :
    TrapsIn (.send o) s (noted (Cap.cursor (w s o.a).val % 2 ^ 28 % 16384) (s.fullSid s.cur) old) cSendblk
      (BitVec.ofNat 64 (Cap.cursor (w s o.a).val)) (some 0) := by
  obtain ⟨v, htwin, hrun⟩ := send_offered hrange h hsrc hf hwide hpkg hfresh hputs hold hlive harea
  rw [if_neg (Nat.not_lt.mpr hfull)] at hrun
  refine trapsIn_of_keep (send_exec o s) Steer.noConfusion (send_clear h hsrc) (hrun.trans ?_) (keeps2_noted _ _ htwin) (by decide)
  unfold refuseSend
  have htime : (s.self.begun (sendDesc o)).sndto = 0 := hnow
  have hdue : (s.self.begun (sendDesc o)).clk - (s.self.begun (sendDesc o)).refusedAt.getD (s.self.begun (sendDesc o)).clk ≥
      (0 : Word).toNat := Nat.zero_le _
  rw [htime, if_pos hdue]
  rfl

theorem send_keeps_offering (hlater : s.self.sndto ≠ 0) : ∃ t, exec (.send o) s = .next t ∧ t.self.pcc = s.self.pcc ∧
    t.self.instret = s.self.instret ∧ (∀ p, t.self.phys p = s.self.phys p) ∧
    (t.strand (Cap.cursor (w s o.a).val % 2 ^ 28 % 16384)).inbox = (old.strand (Cap.cursor (w s o.a).val % 2 ^ 28 % 16384)).inbox ∧
    t.rest = (noted (Cap.cursor (w s o.a).val % 2 ^ 28 % 16384) (s.fullSid s.cur) old).rest := by
  obtain ⟨v, htwin, hrun⟩ := send_offered hrange h hsrc hf hwide hpkg hfresh hputs hold hlive harea
  rw [if_neg (Nat.not_lt.mpr hfull)] at hrun
  generalize Cap.cursor (w s o.a).val % 2 ^ 28 % 16384 = sid at *
  have hnoted := keeps2_noted sid (s.fullSid s.cur) htwin
  have hsame : (noted sid (s.fullSid s.cur) old).strands = old.strands := by
    unfold noted
    dsimp only
    split <;> rfl
  have hstrand (b : Nat) : (noted sid (s.fullSid s.cur) old).strand b = old.strand b := congrArg (lookupD Strand.idle · b) hsame
  generalize noted sid (s.fullSid s.cur) old = y at *
  generalize noted sid (s.fullSid s.cur) v = z at *
  have hasked := hnoted.further (g := stillOffering s.self.clk) (fun _ => rfl) rfl rfl
  have hrefuse : refuseSend (w s o.a) (s.self.begun (sendDesc o)) true z = .error .wait (z.withSelf (stillOffering s.self.clk z.self)) := by
    have hclk : (s.self.begun (sendDesc o)).refusedAt.getD (s.self.begun (sendDesc o)).clk = s.self.clk := by
      have hnone : (s.self.begun (sendDesc o)).refusedAt = none := hfresh
      rw [hnone]
      rfl
    have hpos : ¬(s.self.begun (sendDesc o)).clk - s.self.clk ≥ (s.self.begun (sendDesc o)).sndto.toNat := by
      have hzero : (s.self.begun (sendDesc o)).clk - s.self.clk = 0 := Nat.sub_self _
      rw [hzero]
      intro hle
      exact hlater (BitVec.eq_of_toNat_eq (Nat.le_zero.mp hle))
    unfold refuseSend
    rw [hclk, if_neg hpos]
    rfl
  obtain ⟨hcur, hphys, hstill, hothers, -, -, hrest⟩ := (hasked.sameAs rfl rfl).idle
  obtain ⟨b, hy, hwaiting⟩ := hasked.woken
  refine ⟨_, exec_of_wait (body := do sendBody o; pure .next) (send_exec o s) Steer.noConfusion rfl (send_clear h hsrc)
    (M.bind_error (hrun.trans hrefuse)), ?_, ?_, fun p => ?_, ?_, hrest⟩
  · rw [State.self_idle, hwaiting]
    rfl
  · rw [State.self_idle, hwaiting]
    rfl
  · rw [hphys, hy]
    rfl
  · rw [← hstrand]
    by_cases hsid : sid = y.cur
    · have hinbox := congrArg Strand.inbox hstill
      unfold State.self at hinbox
      rw [hsid, ← hcur]
      rw [← hcur] at hinbox
      exact hinbox
    · exact congrArg Strand.inbox (hothers sid hsid)

end Send

theorem sendDelivers : SendDelivers := by
  intro o s n hn hrange h hsrc c ps msg sid local_ old hf
  have hsid : Cap.cursor (w s o.a).val % 2 ^ 28 % 16384 = sid := Nat.mod_mod_of_dvd _ (by decide)
  refine ⟨fun hlocal => send_perm hrange h hsrc hf hlocal, fun hwide hpkg hfresh _ _ => ?_⟩
  refine ⟨fun hputs => send_waits hrange h hsrc hf hwide hpkg hfresh hputs, ?_⟩
  intro hputs hlive harea l refused
  have hrefused : refused = noted sid (s.fullSid s.cur) old := by
    unfold refused noted
    by_cases hmany : l.contains (s.fullSid s.cur) = true ∨ 64 ≤ l.length
    · rw [if_pos hmany]
      exact (if_pos (by simpa using hmany)).symm
    · rw [if_neg hmany]
      exact (if_neg (by simpa using hmany)).symm
  rw [hrefused]
  have hold : released s 2 (commonScope s.cur (Cap.cursor (w s o.a).val % 2 ^ 28 % 16384)) = old := by rw [hsid]
  refine ⟨fun hroom => ?_, fun hfull hnow => ?_, fun hfull hlater => ?_⟩
  · have hd := send_delivers hrange h hsrc hf hwide hpkg hfresh hputs hold (by rw [hsid]; exact hlive) (by rw [hsid]; exact harea)
    rw [hsid] at hd
    exact hd hroom
  · have hd := send_blocks hrange h hsrc hf hwide hpkg hfresh hputs hold (by rw [hsid]; exact hlive) (by rw [hsid]; exact harea)
    rw [hsid] at hd
    exact hd hfull hnow
  · have hd := send_keeps_offering hrange h hsrc hf hwide hpkg hfresh hputs hold (by rw [hsid]; exact hlive) (by rw [hsid]; exact harea)
    rw [hsid] at hd
    exact hd hfull hlater

/-- Settles O29: the four instructions, each in the state of the statement and in the one it runs in alike. -/
theorem messages : Obligations.Messages := ⟨sendDelivers, recvTakesOldest, depositsArrive, monitorsAndWait⟩

end Sys2Proof.Claims
end

section
/-! SUPPORT. What a step runs (R24, R39, R79, R146). -/

namespace Sys2Proof.Claims

open Sys2Proof.Machine

/-! ## The strands' turn -/

theorem nextWork_of_true {s : State} {turns : List Bool} (hplan : s.evictPlan = []) (hturn : s.turns = true :: turns) :
    nextWork s = strandsWork { s with turns := turns } := by
  unfold nextWork
  split
  · next heq => cases hplan.symm.trans heq
  · split
    · next heq =>
      cases hturn.symm.trans heq
      rfl
    · next heq => cases hturn.symm.trans heq
    · next heq => cases hturn.symm.trans heq

theorem nextWork_of_false {s : State} {turns : List Bool} (hplan : s.evictPlan = [])
    (hturn : s.turns = false :: turns ∨ s.turns = [] ∧ turns = []) : nextWork s = eventsWork { s with turns := turns } := by
  unfold nextWork
  split
  · next heq => cases hplan.symm.trans heq
  · rcases hturn with hturn | ⟨hturn, rfl⟩
    · split
      · next heq => cases hturn.symm.trans heq
      · next heq =>
        cases hturn.symm.trans heq
        rfl
      · next heq => cases hturn.symm.trans heq
    · split
      · next heq => cases hturn.symm.trans heq
      · next heq => cases hturn.symm.trans heq
      · rw [← hturn]

theorem nextWork_strands {s v : State} (h : StrandsTurn s v) : nextWork s = strandsWork v := by
  obtain ⟨hplan, turns, rfl, hturn⟩ := h
  rcases hturn with hturn | ⟨hturn, hagenda, hdue⟩
  · exact nextWork_of_true hplan hturn
  · have hnone : nextEvent ({ s with turns := turns } : State).agenda = none := by
      have hsame : ({ s with turns := turns } : State).agenda = [] := hagenda
      rw [hsame]
      rfl
    rw [nextWork_of_false hplan hturn]
    unfold eventsWork
    rw [hnone, hdue]

theorem strandWork_runs {p : State} (h : Runs p) : strandWork p = runFetched p := by
  obtain ⟨hhalt, hstop, hpop, hreissue, hquiet⟩ := h
  have hbits : bitAt p.self.status 12 = false ∧ bitAt p.self.status 13 = false := Bool.or_eq_false_iff.mp hhalt
  have hstopped : p.self.stopped = false := by unfold Strand.stopped; rw [hbits.1]; rfl
  have hhalf : p.self.halfHalted = none := by unfold Strand.halfHalted; rw [hbits.1, hbits.2]
  have hboundary : (!p.self.halted && p.self.asked.isEmpty && !p.self.gangIssued &&
      (p.self.doomed || p.self.gangFault.isSome || !(p.self.dueInterrupts p.time).isEmpty)) = false := by
    by_cases hasked : p.self.asked = []
    · by_cases hgang : p.self.gangIssued = false
      · obtain ⟨hd, hf, hi⟩ := hquiet hasked hgang
        rw [hd, hf, hi]
        simp
      · simp [hgang]
    · simp [hasked]
  unfold strandWork
  simp only [hstopped, hstop, hpop, hboundary, hreissue, hhalf]
  rfl

theorem finishM_ne_refused (s : State) (m : M Unit) (r : Refusal) : finishM s m ≠ .refused r := by
  unfold finishM
  cases m s with
  | ok => exact nofun
  | error e t => cases e <;> exact nofun

theorem takeCause_ne_refused (pre s : State) (d : Desc) (c : BitVec 8) (v : Word) (v2 : Option Word) (r : Refusal) :
    takeCause pre s d c v v2 ≠ .refused r := by
  unfold takeCause
  dsimp only
  cases pre.self.apart with
  | none => exact finishM_ne_refused _ _ r
  | some a => cases a with
    | ahead => exact nofun
    | behind => exact finishM_ne_refused _ _ r

/-- What a fetch or a decode that fails comes to is what its cause comes to. -/
theorem failedFetch_trap (u : State) (c : BitVec 8) (v : Word) :
    (match failedFetch u u (.trap c v none) with
      | .done t turn => .next (t.tick turn)
      | .stopped f => .fault f
      | .run i t turn => match exec i t with
        | .next u => .next (u.tick turn)
        | .fault f => .fault f
        | .refused r => .refused r : Host.Outcome State Fault Refusal) = ticked true (takeCause u u fetchDesc c v none) := by
  have hundo : u.undo u = u := State.undo_eq rfl
  have hconclude : conclude fetchDesc u u (.trap c v none) = takeCause u u fetchDesc c v none := by
    unfold conclude
    rw [hundo]
  unfold failedFetch
  rw [hconclude]
  cases h : takeCause u u fetchDesc c v none with
  | next t => rfl
  | fault f => rfl
  | refused r =>
    exact absurd h (takeCause_ne_refused _ _ _ _ _ _ r)

theorem step_fetched {s v u : State} {sid : Nat} {ws : List IWord} (hturn : StrandsTurn s v) (hsid : s.turnFrom s.cur = some sid)
    (hruns : Runs { v with cur := sid }) (hfetch : fetch { v with cur := sid } = .ok ws u) :
    nextWork s = match decodeWords ws with
      | none => .done (State.idle { v with cur := sid }) true
      | some (.error e) => failedFetch u u (.trap (if e.isPfx then cPfx else cIll) e.value none)
      | some (.ok i) => .run (selectRow i u) u true := by
  have hsid' : v.turnFrom v.cur = some sid := by
    obtain ⟨-, turns, rfl, -⟩ := hturn
    exact hsid
  rw [nextWork_strands hturn]
  unfold strandsWork
  rw [hsid']
  dsimp only
  rw [strandWork_runs hruns]
  unfold runFetched
  rw [hfetch] <;> rfl

/-! ## Events -/

theorem inputOf_eq (e : Event) : inputOf e = portInput e := rfl

/-- How the search of the agenda goes on from an event that it has met. -/
def takeLower (acc : Option Event) (e : Event) : Option Event :=
  match acc.bind portInput, portInput e with
    | some i, some j => if j < i then some e else acc
    | _, _ => acc.orElse fun _ => some e

theorem nextEvent_cons (e : Event) (es : List Event) : nextEvent (e :: es) = es.foldl takeLower (some e) := rfl

theorem foldl_takeLower_none {e : Event} (he : portInput e = none) (es : List Event) : es.foldl takeLower (some e) = some e := by
  induction es with
  | nil => rfl
  | cons g es ih =>
    have hstay : takeLower (some e) g = some e := by
      unfold takeLower
      rw [Option.bind_some, he]
      rfl
    rw [List.foldl_cons, hstay, ih]

/-- An event at a memory port gives way to lower inputs only. -/
theorem foldl_takeLower_some {e : Event} {i : Nat} (he : portInput e = some i) (es : List Event) :
    ∃ f j, es.foldl takeLower (some e) = some f ∧ f ∈ e :: es ∧ portInput f = some j ∧ j ≤ i ∧
      ∀ g ∈ es, ∀ k, portInput g = some k → j ≤ k := by
  induction es generalizing e i with
  | nil => exact ⟨e, i, rfl, List.mem_singleton_self e, he, le_rfl, by simp⟩
  | cons g es ih =>
    obtain ⟨e', i', hstep, he', hmem, hle, hg⟩ : ∃ e' i', takeLower (some e) g = some e' ∧ portInput e' = some i' ∧ e' ∈ [e, g] ∧
        i' ≤ i ∧ ∀ k, portInput g = some k → i' ≤ k := by
      unfold takeLower
      rw [Option.bind_some, he]
      cases hg : portInput g with
      | none => exact ⟨e, i, rfl, he, by simp, le_rfl, by simp⟩
      | some k =>
        by_cases hlt : k < i
        · exact ⟨g, k, if_pos hlt, hg, by simp, hlt.le, by simp⟩
        · exact ⟨e, i, if_neg hlt, he, by simp, le_rfl, by simpa using hlt⟩
    obtain ⟨f, j, hfold, hf, hfj, hji, hall⟩ := ih he'
    refine ⟨f, j, by rw [List.foldl_cons, hstep, hfold], ?_, hfj, hji.trans hle, fun b hb k hk => ?_⟩
    · rcases List.mem_cons.mp hf with rfl | hf
      · simp only [List.mem_cons, List.not_mem_nil, or_false] at hmem
        rcases hmem with rfl | rfl <;> simp
      · simp [hf]
    · rcases List.mem_cons.mp hb with rfl | hb
      · exact hji.trans (hg k hk)
      · exact hall b hb k hk

theorem step_event {s : State} {turns : List Bool} {e : Event} {i : Instr} (hplan : s.evictPlan = [])
    (hturn : s.turns = false :: turns ∨ s.turns = [] ∧ turns = []) (he : nextEvent s.agenda = some e) (hrow : e.row = some i) :
    nextWork s = .run i { s with turns := turns, agenda := s.agenda.erase e, now := e } false := by
  have he' : nextEvent ({ s with turns := turns } : State).agenda = some e := he
  rw [nextWork_of_false hplan hturn]
  unfold eventsWork
  rw [he']
  unfold eventWork
  dsimp only
  rw [hrow]

/-! ## Time -/

theorem charge_rest (s : State) (c r n : Nat) : ∃ U, s.charge c r n = { s with units := U } := by
  unfold State.charge
  split
  · split
    · exact ⟨_, rfl⟩
    · exact ⟨_, rfl⟩
  · exact ⟨_, rfl⟩

theorem spendEnergy_rest (s : State) (sid n : Nat) : ∃ U, s.spendEnergy sid n = { s with units := U } := by
  obtain ⟨U, hU⟩ := charge_rest s (s.colonyOf sid) 7 n
  unfold State.spendEnergy
  rw [hU]
  dsimp only
  split
  · exact ⟨_, rfl⟩
  · exact ⟨_, rfl⟩

theorem tick_keeps (u : State) (turn : Bool) : (u.tick turn).mem = u.mem ∧ (∀ n, (u.tick turn).strand n = u.strand n) ∧
    (u.tick turn).steps = u.steps + 1 ∧ u.time ≤ (u.tick turn).time := by
  cases turn with
  | false => exact ⟨rfl, fun _ => rfl, rfl, le_rfl⟩
  | true =>
    obtain ⟨U, hU⟩ := spendEnergy_rest { u with steps := u.steps + 1, now := .idle } u.cur (Config.energyUsed (islandOf u.cur) (u.steps + 1))
    unfold State.tick
    dsimp only
    rw [if_pos rfl, hU]
    exact ⟨rfl, fun _ => rfl, rfl, Nat.le_add_right ..⟩

/-- Settles O4: a step is what comes next, run and ticked; each clause follows what comes next through its cases. -/
theorem stepRunsTheDecoded : Obligations.StepRunsTheDecoded := by
  refine ⟨fun s v u sid ws hturn hsid hruns hfetch => ?_, fun s turns e i hplan hturn he hrow => ?_, fun e es => ?_, tick_keeps⟩
  · have hwork := step_fetched hturn hsid hruns hfetch
    refine ⟨fun i hi => ?_, fun e he => ?_⟩
    · unfold step
      rw [hwork, hi]
      dsimp only
      cases exec (selectRow i u) u <;> rfl
    · unfold step
      rw [hwork, he]
      exact failedFetch_trap u _ _
  · unfold step
    rw [step_event hplan hturn he hrow]
    dsimp only
    cases exec i _ <;> rfl
  · rw [nextEvent_cons]
    simp only [inputOf_eq]
    exact ⟨fun he => foldl_takeLower_none he es, fun i he => foldl_takeLower_some he es⟩

end Sys2Proof.Claims
end

section
/-! SUPPORT. Budget periods, operating points and package time (R371, R372, R379, R382). -/

namespace Sys2Proof.Claims

open Sys2Proof.Machine

/-! ## Events -/

theorem happens_runEvent {i : Instr} {s t : State} {body : M Unit} (hx : exec i s = runEvent body s) (hb : body s = .ok () t) :
    Happens i s t := by
  unfold Happens
  rw [hx, runEvent, finishM, hb]

/-- A loop whose every turn keeps what its body asks for. -/
theorem forIn_preserves {α : Type} {P : State → Prop} {f : α → PUnit → M (ForInStep PUnit)} {l : List α}
    (hf : ∀ a ∈ l, ∀ s, P s → ∃ y, f a ⟨⟩ s = .ok (.yield ⟨⟩) y ∧ P y) {s : State} (hs : P s) :
    ∃ y, forIn l ⟨⟩ f s = .ok ⟨⟩ y ∧ P y := by
  induction l generalizing s with
  | nil => exact ⟨s, rfl, hs⟩
  | cons a l ih =>
    obtain ⟨u, hu, hpu⟩ := hf a List.mem_cons_self s hs
    obtain ⟨y, hy, hpy⟩ := ih (fun b hb => hf b (List.mem_cons_of_mem a hb)) hpu
    exact ⟨y, by rw [List.forIn_cons, M.bind_ok hu]; exact hy, hpy⟩

/-- A map over the values of a finite map, where the default stays. -/
theorem lookupD_map {α β : Type} (f : α → β) {d : α} {d' : β} (hd : f d = d') (m : SMap α) (k : Nat) :
    lookupD d' (m.map fun e => (e.1, f e.2)) k = f (lookupD d m k) := by
  induction m with
  | nil => exact hd.symm
  | cons e m ih =>
    obtain ⟨a, v⟩ := e
    simp only [List.map_cons, lookupD]
    split
    · rfl
    · exact ih

/-! ## Budget periods -/

/-- What the start of a period does to the budgets. -/
def periodStarted (s : State) : State :=
  { s with units := { s.units with
    period := s.time / 1000
    colonies := s.units.colonies.map fun e => (e.1, e.2.map fun c => c.nextPeriod (s.time / 1000 - s.units.period))
    islands := s.units.islands.map fun e => (e.1, { e.2 with used := 0 }) } }

/-- A state that differs in its agenda alone. -/
def Later (s u : State) : Prop := ∃ A, u = { s with agenda := A }

theorem Later.post {s u : State} (h : Later s u) (e : Event) : ∃ y, post e u = .ok () y ∧ Later s y := by
  obtain ⟨A, rfl⟩ := h
  exact ⟨_, rfl, _, rfl⟩

theorem startPeriod_run {s : State} (hslots : ∀ d ∈ s.dies, d.2.slots = []) : ∃ t, startPeriod s = .ok () t ∧ Later (periodStarted s) t := by
  unfold startPeriod
  obtain ⟨y1, h1, hy1⟩ := forIn_preserves (P := Later (periodStarted s)) (l := s.dies)
    (f := fun d _ => (do forIn d.2.slots ⟨⟩ (fun h _ => do recheckPops d.1 h.1; pure (.yield ⟨⟩)); pure (.yield ⟨⟩) : M (ForInStep PUnit)))
    (fun d hd u hu => by rw [hslots d hd]; exact ⟨u, rfl, hu⟩) ⟨_, rfl⟩
  obtain ⟨y2, h2, hy2⟩ := forIn_preserves (P := Later (periodStarted s)) (l := s.units.queues)
    (f := fun q _ => (if q.2.cmds.isEmpty then pure (.yield ⟨⟩) else do post (.copyCommand q.1); pure (.yield ⟨⟩) : M (ForInStep PUnit)))
    (fun q _ u hu => by
      split
      · exact ⟨u, rfl, hu⟩
      · obtain ⟨y, hy, hlater⟩ := hu.post (.copyCommand q.1)
        exact ⟨y, M.bind_ok hy, hlater⟩) hy1
  obtain ⟨y3, h3, hy3⟩ := forIn_preserves (P := Later (periodStarted s)) (l := s.cores)
    (f := fun c _ => (if c.2.queue.isEmpty then pure (.yield ⟨⟩) else do post (.dispatchRound (c.1 / 4)); pure (.yield ⟨⟩) : M (ForInStep PUnit)))
    (fun c _ u hu => by
      split
      · exact ⟨u, rfl, hu⟩
      · obtain ⟨y, hy, hlater⟩ := hu.post (.dispatchRound (c.1 / 4))
        exact ⟨y, M.bind_ok hy, hlater⟩) hy2
  refine ⟨y3, ?_, hy3⟩
  refine (M.bind_ok (M.modify_run ..)).trans ((M.bind_ok (M.get_run _)).trans ?_)
  refine (M.bind_ok h1).trans ((M.bind_ok h2).trans ?_)
  exact (M.bind_ok h3).trans rfl

theorem lookupD_foldl_storeAt {α : Type} [DecidableEq α] (d : α) (v : Nat → α) (p : Nat → Bool) (n : Nat) (k : Nat) :
    lookupD d ((List.range n).foldl (fun m r => if p r then m else storeAt d r (v r) m) []) k = if k < n ∧ p k = false then v k else d := by
  induction n with
  | zero => simp [lookupD]
  | succ n ih =>
    rw [List.range_succ, List.foldl_append]
    simp only [List.foldl_cons, List.foldl_nil]
    by_cases hp : p n = true
    · rw [if_pos hp, ih]
      by_cases hk : k = n
      · subst hk
        simp [hp]
      · have hlt : k < n + 1 ↔ k < n := by omega
        simp only [hlt]
    · rw [if_neg hp, lookupD_storeAt, ih]
      by_cases hk : k = n
      · subst hk
        simp [hp]
      · have hlt : k < n + 1 ↔ k < n := by omega
        simp only [if_neg hk, hlt]

/-- The budgets of a colony after a number of period starts. -/
theorem nextPeriod_budgets (c : Colony) (n r : Nat) (hr : r < 8) :
    let new := lookupD 0 c.nextAlloc r
    let alloc : Nat := if new = 0 then c.allocOf r else new - 1
    (c.nextPeriod n).allocOf r = alloc ∧ lookupD 0 (c.nextPeriod n).nextAlloc r = 0 ∧
      (alloc ≠ unlimited → lookupD 0 (c.nextPeriod n).rem r = min (alloc : Int) (lookupD 0 c.rem r + (n : Int) * alloc)) := by
  intro new alloc
  let granted : Nat → Nat := fun r => match lookupD 0 c.nextAlloc r with
    | 0 => c.allocOf r
    | a + 1 => a
  have hgranted : granted r = alloc := by
    unfold granted alloc new
    cases lookupD 0 c.nextAlloc r <;> rfl
  refine ⟨?_, rfl, fun hne => ?_⟩
  · have hall := lookupD_foldl_storeAt unlimited granted (fun _ => false) 8 r
    rw [if_pos ⟨hr, rfl⟩, hgranted] at hall
    rw [← hall]
    unfold Colony.nextPeriod Colony.allocOf
    simp only [List.foldl_map]
    rfl
  · have hall := lookupD_foldl_storeAt (0 : Int) (fun r => min (granted r : Int) (lookupD 0 c.rem r + n * granted r))
      (fun r => granted r = unlimited) 8 r
    rw [if_pos ⟨hr, by simpa [hgranted] using hne⟩, hgranted] at hall
    rw [← hall]
    unfold Colony.nextPeriod
    simp only [List.foldl_map, decide_eq_true_eq]
    rfl

theorem budgetPeriod_starts {s : State} (hnow : s.now = .budgetPeriod) (hslots : ∀ d ∈ s.dies, d.2.slots = []) :
    ∃ t, Happens .budgetPeriod s t ∧ Later (periodStarted s) t := by
  obtain ⟨t, hrun, hlater⟩ := startPeriod_run hslots
  refine ⟨t, happens_runEvent (body := startPeriod) ?_ hrun, hlater⟩
  change execBudgetPeriod s = _
  unfold execBudgetPeriod
  rw [hnow]

/-- What the controller sets of an island (R382). -/
def pointSet (s : State) (island mhz energy : Nat) : State :=
  if island < 256 && operatingPoints.contains mhz then
    { s with units := { s.units with
      islands := storeAt Island.initial island { lookupD Island.initial s.units.islands island with mhz := mhz, alloc := energy } s.units.islands } }
  else s

theorem operatingPoint_sets {s : State} {island mhz energy : Nat} (hnow : s.now = .operatingPoint island mhz energy) :
    Happens .operatingPoint s (pointSet s island mhz energy) := by
  have hx : exec .operatingPoint s = runEvent (modify fun s => pointSet s island mhz energy) s := by
    change execOperatingPoint s = _
    unfold execOperatingPoint
    rw [hnow]
    rfl
  exact happens_runEvent hx rfl

theorem budgetsRunInPeriods : BudgetsRunInPeriods := by
  refine ⟨fun s hnow hslots => ?_, fun s island mhz energy hnow => ?_⟩
  · obtain ⟨_, hrun, A, rfl⟩ := budgetPeriod_starts hnow hslots
    refine ⟨_, hrun, rfl, fun _ => rfl, rfl, fun i => ?_, fun id c hc => ?_⟩
    · have hmap := lookupD_map (fun i : Island => { i with used := 0 }) (d := Island.initial) (d' := Island.initial) rfl s.units.islands i
      change (lookupD Island.initial (s.units.islands.map _) i).used = 0 ∧ (lookupD Island.initial (s.units.islands.map _) i).alloc = _
      rw [hmap]
      exact ⟨rfl, rfl⟩
    · have hmap := lookupD_map (fun e : Option Colony => e.map fun c => c.nextPeriod (s.time / 1000 - s.units.period)) (d := none) (d' := none) rfl
        s.units.colonies id
      refine ⟨c.nextPeriod (s.time / 1000 - s.units.period), ?_, fun r hr => nextPeriod_budgets c _ r hr⟩
      refine hmap.trans ?_
      unfold State.colony at hc
      rw [hc]
      rfl
  · intro fits
    have hfits : (island < 256 && operatingPoints.contains mhz) = true ↔ fits := by
      simp [fits, operatingPoints]
    have hset := operatingPoint_sets hnow
    refine ⟨fun hno => ?_, fun hyes => ⟨_, hset, ?_⟩⟩
    · have hkeep : pointSet s island mhz energy = s := if_neg (mt hfits.mp hno)
      rwa [hkeep] at hset
    · have hput : pointSet s island mhz energy = _ := if_pos (hfits.mpr hyes)
      rw [hput]
      exact ⟨fun _ => rfl, rfl, fun i hi => lookupD_storeAt_ne _ _ _ _ _ hi, lookupD_storeAt_same ..⟩

/-! ## Package time -/

theorem leNat_byte {bs : List Byte} {n : Nat} (h : n < bs.length) : leNat ((bs.drop n).take 1) = (bs.getD n 0).toNat := by
  rw [List.drop_eq_getElem_cons h, List.take_succ_cons, List.take_zero, List.getD_eq_getElem _ _ h]
  rfl

/-- An edge sets the time that it leaves (R371). -/
theorem ppsEdge_sets {s : State} (hnow : s.now = .ppsEdge) {time : Nat}
    (htime : (if s.units.clock.announced && (decide (s.time > s.units.clock.second * 1000000000 + 1000) ||
      decide (s.units.clock.second * 1000000000 > s.time + 1000)) then max s.time (s.units.clock.second * 1000000000) else s.time) = time) :
    Happens .ppsEdge s { s with
      time := time, units := { s.units with clock := { s.units.clock with announced := false, lastEdge := time, lost := false } } } := by
  have hx : exec .ppsEdge s = runEvent ppsEdge s := by
    change execPpsEdge s = _
    unfold execPpsEdge
    rw [hnow]
  subst htime
  exact happens_runEvent hx rfl

/-- The fields of a time-of-day message (R372). -/
theorem messageValid_iff (bs : List Byte) : messageValid bs = true ↔ bs.length = 16 ∧ leNat ((bs.drop 0).take 1) = 0x7E ∧
    leNat ((bs.drop 1).take 1) = 12 ∧ leNat ((bs.drop 12).take 2) = (checkValue ((bs.drop 1).take 11)).toNat := by
  unfold messageValid
  simp only [Bool.and_eq_true, decide_eq_true_eq]
  constructor
  · rintro ⟨⟨⟨hlen, h0⟩, h1⟩, hc⟩
    rw [leNat_byte (by omega), leNat_byte (by omega), h0, h1]
    exact ⟨hlen, rfl, rfl, hc⟩
  · rintro ⟨hlen, h0, h1, hc⟩
    rw [leNat_byte (by omega)] at h0 h1
    exact ⟨⟨⟨hlen, BitVec.eq_of_toNat_eq h0⟩, BitVec.eq_of_toNat_eq h1⟩, hc⟩

theorem timeOfDayMessage_takes {s t : State} {bs : List Byte} {inWindow : Bool} (hnow : s.now = .timeOfDayMessage bs inWindow)
    (hrun : takeMessage bs inWindow s = .ok () t) : Happens .timeOfDayMessage s t := by
  refine happens_runEvent (body := takeMessage bs inWindow) ?_ hrun
  change execTimeOfDayMessage s = _
  unfold execTimeOfDayMessage
  rw [hnow]

theorem ppsLoss_reports {s : State} (hnow : s.now = .ppsLoss) : Happens .ppsLoss s { s with
    events := storeAt 0 lostEdges (lookupD 0 s.events lostEdges + 1) s.events
    units := { s.units with clock := { s.units.clock with lost := true } } } := by
  refine happens_runEvent (body := ppsLoss) ?_ rfl
  change execPpsLoss s = _
  unfold execPpsLoss
  rw [hnow]

theorem timeIsDisciplined : TimeIsDisciplined := by
  refine ⟨fun s hnow => ?_, fun s bs inWindow hnow => ?_, fun s hnow => ?_⟩
  · intro c second edge
    have hsecond : second = s.units.clock.second * 1000000000 := rfl
    refine ⟨fun ha hfar => ppsEdge_sets hnow ?_, fun ha hfar => ppsEdge_sets hnow ?_, fun ha hlo hhi => ppsEdge_sets hnow ?_,
      fun ha => ppsEdge_sets hnow ?_⟩
    · rw [if_pos (by simp only [Bool.and_eq_true, Bool.or_eq_true, decide_eq_true_eq]; exact ⟨ha, .inl hfar⟩)]
      exact max_eq_left (by omega)
    · rw [if_pos (by simp only [Bool.and_eq_true, Bool.or_eq_true, decide_eq_true_eq]; exact ⟨ha, .inr hfar⟩)]
      exact max_eq_right (by omega)
    · refine if_neg ?_
      simp only [Bool.and_eq_true, Bool.or_eq_true, decide_eq_true_eq]
      omega
    · exact if_neg (by rw [show s.units.clock.announced = false from ha]; simp)
  · intro f valid
    have hvalid : (inWindow && messageValid bs) = true ↔ valid := by rw [Bool.and_eq_true, messageValid_iff]
    refine ⟨fun hyes => timeOfDayMessage_takes hnow ?_, fun hno => ?_⟩
    · have hlen : bs.length = 16 := hyes.2.1
      have hbyte {n : Nat} (hn : n < 16) : BitVec.ofNat 8 (f n 1) = bs.getD n 0 := by
        unfold f
        rw [leNat_byte (by omega), BitVec.ofNat_toNat, BitVec.setWidth_eq]
      unfold takeMessage
      rw [if_pos (hvalid.mpr hyes), hbyte (by decide), hbyte (by decide)]
      rfl
    · have hignored : takeMessage bs inWindow s = .ok () { s with
          events := storeAt 0 ignoredMessages (lookupD 0 s.events ignoredMessages + 1) s.events } := by
        unfold takeMessage
        rw [if_neg (mt hvalid.mp hno)]
        rfl
      exact ⟨_, timeOfDayMessage_takes hnow hignored, rfl, rfl, fun _ => rfl,
        lookupD_storeAt_same (0 : Nat) ignoredMessages (lookupD 0 s.events ignoredMessages + 1) s.events⟩
  · exact ⟨_, ppsLoss_reports hnow, rfl, fun _ => rfl, rfl,
      lookupD_storeAt_same (0 : Nat) lostEdges (lookupD 0 s.events lostEdges + 1) s.events⟩

/-- Settles O55: each event by what its row does to the state. -/
theorem budgetsAndTime : Obligations.BudgetsAndTime := ⟨budgetsRunInPeriods, timeIsDisciplined⟩

end Sys2Proof.Claims
end

section
/-! SUPPORT. Ports of the fabric and packets at this package's routers (R396 to R403, R407). -/

namespace Sys2Proof.Claims

open Sys2Proof.Machine

/-! ## Flits -/

theorem flitReceive_takes {s t : State} {i : Nat} {f : Flit} (hnow : s.now = .flitReceive i f) (hrun : Machine.receive i f s = .ok () t) :
    Happens .flitReceive s t := by
  refine happens_runEvent (body := Machine.receive i f) ?_ hrun
  change execFlitReceive s = _
  unfold execFlitReceive
  rw [hnow]

/-- The flits of the packet that a port collects. -/
def collected (v : Port) (f : Flit) : List Flit := v.pieces ++ [f]

/-- How many flits that packet has (R397). -/
theorem collected_count (v : Port) (f : Flit) : ((collected v f).head?.map Flit.count).getD 1 =
    leNat ((((collected v f).headD f).body).take 16) / 2 ^ 79 % 8 + 1 := by
  unfold collected
  cases v.pieces <;> rfl

/-- A port that has accepted a flit. -/
def accepting (v : Port) (f : Flit) : Port := { v with rx := (v.rx + 1) % 65536, acks := v.acks ++ [(true, f.seq.toNat)] }

section Receive
variable {s : State} {i : Nat} {f : Flit}

theorem receive_down (h : (s.port i).down = true) : Machine.receive i f s = .ok () s := by
  unfold Machine.receive
  rw [M.bind_ok (M.get_run s), if_pos h]
  rfl

variable (h : (s.port i).down = false)
include h

theorem receive_refuses (hbad : ¬(f.lcrc = Flit.check f ∧ f.seq.toNat = (s.port i).rx)) :
    Machine.receive i f s = .ok () (s.withPort i { s.port i with acks := (s.port i).acks ++ [(false, (s.port i).rx)] }) := by
  unfold Machine.receive
  rw [M.bind_ok (M.get_run s), if_neg (by rw [h]; exact Bool.false_ne_true), if_pos (by simpa [imp_iff_not_or] using hbad)]
  rfl

variable (hgood : f.lcrc = Flit.check f ∧ f.seq.toNat = (s.port i).rx)
include hgood

theorem receive_accepts (hmore : (collected (s.port i) f).length < ((collected (s.port i) f).head?.map Flit.count).getD 1) :
    Machine.receive i f s = .ok () (s.withPort i { accepting (s.port i) f with pieces := collected (s.port i) f }) := by
  unfold Machine.receive
  rw [M.bind_ok (M.get_run s), if_neg (by rw [h]; exact Bool.false_ne_true), if_neg (by simp [hgood])]
  dsimp only
  have hmore' : ((s.port i).pieces ++ [f]).length < (((s.port i).pieces ++ [f]).head?.map Flit.count).getD 1 := hmore
  rw [if_pos hmore']
  rfl

theorem receive_completes (hlast : ((collected (s.port i) f).head?.map Flit.count).getD 1 ≤ (collected (s.port i) f).length)
    (hty : (packetOf (collected (s.port i) f)).ty < 13) (hop : ∀ r, (packetOf (collected (s.port i) f)).op ≠ .combine r) :
    Machine.receive i f s = .ok () (posting (s.withPort i { accepting (s.port i) f with
        pieces := [], lastWhole := f.seq.toNat, narrow := (s.port i).orderedNarrow.getD (s.port i).narrow, orderedNarrow := none })
      [.packetForward (packetOf (collected (s.port i) f))]) := by
  have hbound : Port.boundary { accepting (s.port i) f with pieces := [], lastWhole := f.seq.toNat } = { accepting (s.port i) f with
      pieces := [], lastWhole := f.seq.toNat, narrow := (s.port i).orderedNarrow.getD (s.port i).narrow, orderedNarrow := none } := by
    unfold Port.boundary accepting
    dsimp only
    cases (s.port i).orderedNarrow <;> rfl
  have hpass (u : State) : passOn i (packetOf (collected (s.port i) f)) u = .ok () (posting u [.packetForward (packetOf (collected (s.port i) f))]) := by
    unfold passOn
    rw [if_neg (Nat.not_le.mpr hty)]
    cases hkind : (packetOf (collected (s.port i) f)).op with
    | combine r => exact absurd hkind (hop r)
    | _ => rfl
  unfold Machine.receive
  rw [M.bind_ok (M.get_run s), if_neg (by rw [h]; exact Bool.false_ne_true), if_neg (by simp [hgood])]
  dsimp only
  have hlast' : ¬((s.port i).pieces ++ [f]).length < (((s.port i).pieces ++ [f]).head?.map Flit.count).getD 1 := Nat.not_lt.mpr hlast
  rw [if_neg hlast']
  refine (M.bind_ok (M.set_run ..)).trans ?_
  rw [← hbound]
  exact hpass _

end Receive

theorem flitsAreAccepted : FlitsAreAccepted := by
  refine ⟨fun s i f hnow => ?_, fun f fs => ?_⟩
  · intro v check good pieces count w
    have hcount : count = ((collected v f).head?.map Flit.count).getD 1 := (collected_count v f).symm
    refine ⟨fun hd => flitReceive_takes hnow (receive_down hd), fun hd hbad => flitReceive_takes hnow (receive_refuses hd hbad),
      fun hd hgood hmore => flitReceive_takes hnow (receive_accepts hd hgood (hcount ▸ hmore)),
      fun hd hgood hlast hty hop => flitReceive_takes hnow (receive_completes hd hgood (hcount ▸ hlast) hty hop)⟩
  · intro h pk
    refine ⟨rfl, ?_, rfl, rfl, ?_, rfl, ?_, ?_, ?_⟩
    · change (BitVec.ofNat 28 (h / 2 ^ 86 % 2 ^ 28)).toNat = _
      rw [BitVec.toNat_ofNat, Nat.mod_mod]
    · exact decide_eq_true_iff
    · exact decide_eq_true_iff
    · exact decide_eq_true_iff
    · change (BitVec.ofNat 12 (h / 2 ^ 61 % 2 ^ 12)).toNat = _
      rw [BitVec.toNat_ofNat, Nat.mod_mod]

/-! ## Lanes and ports that fail -/

theorem portDown_run (s : State) (i : Nat) (h : (s.port i).down = false) :
    ∃ es, List.Sublist es ((s.port i).retry.map fun e => Event.packetForward e.2) ∧
      portDown i s = .ok () (posting (s.withPort i { s.port i with down := true, pieces := [], retry := [] }) es) := by
  have hloop (l : List (Nat × Packet)) (u : State) : ∃ es, List.Sublist es (l.map fun e => Event.packetForward e.2) ∧
      forIn l PUnit.unit (fun e _ => (if Config.acceptedWhole i e.1 s.steps then pure (.yield ⟨⟩) else do
        post (.packetForward e.2); pure (.yield ⟨⟩) : M (ForInStep PUnit))) u = .ok ⟨⟩ (posting u es) := by
    induction l generalizing u with
    | nil => exact ⟨[], .slnil, by rw [posting, List.append_nil]; rfl⟩
    | cons e l ih =>
      by_cases hwhole : Config.acceptedWhole i e.1 s.steps = true
      · obtain ⟨es, hsub, hrun⟩ := ih u
        refine ⟨es, hsub.cons _, ?_⟩
        rw [List.forIn_cons, if_pos hwhole]
        exact hrun
      · obtain ⟨es, hsub, hrun⟩ := ih (posting u [.packetForward e.2])
        refine ⟨.packetForward e.2 :: es, hsub.cons_cons _, ?_⟩
        rw [List.forIn_cons, if_neg hwhole]
        refine hrun.trans ?_
        unfold posting
        dsimp only
        rw [List.append_assoc]
        rfl
  obtain ⟨es, hsub, hrun⟩ := hloop (s.port i).retry (s.withPort i { s.port i with down := true, pieces := [], retry := [] })
  refine ⟨es, hsub, ?_⟩
  unfold portDown
  rw [M.bind_ok (M.get_run s), if_neg (by rw [h]; exact Bool.false_ne_true)]
  exact (M.bind_ok (M.set_run ..)).trans ((M.bind_ok hrun).trans rfl)

theorem port_withPort (s : State) (i : Nat) (v : Port) : (s.withPort i v).port i = v := lookupD_storeAt_same ..

theorem laneFailure_run (s : State) (i : Nat) : laneFailure i s =
    if (s.port i).down then .ok () s else if (s.port i).narrow then portDown i s else .ok () (s.withPort i { s.port i with
      narrow := true, rx := ((s.port i).lastWhole + 1) % 65536, pieces := [], acks := (s.port i).acks ++ [(true, (s.port i).lastWhole)] }) := by
  unfold laneFailure
  rw [M.bind_ok (M.get_run s)]
  dsimp only
  split
  · rfl
  · split <;> rfl

theorem laneFailure_takes {s t : State} {i : Nat} (hnow : s.now = .laneFailure i) (hrun : laneFailure i s = .ok () t) :
    Happens .laneFailure s t := by
  refine happens_runEvent (body := laneFailure i) ?_ hrun
  change execLaneFailure s = _
  unfold execLaneFailure
  rw [hnow]

theorem portDown_takes {s t : State} {i : Nat} (hnow : s.now = .portDown i) (hrun : portDown i s = .ok () t) : Happens .portDown s t := by
  refine happens_runEvent (body := portDown i) ?_ hrun
  change execPortDown s = _
  unfold execPortDown
  rw [hnow]

theorem laneWidthOrder_takes {s : State} {i lanes : Nat} (hnow : s.now = .laneWidthOrder i lanes) : Happens .laneWidthOrder s
    (s.withPort i (if (s.port i).pieces.isEmpty then { s.port i with narrow := decide (lanes ≤ 1), orderedNarrow := none }
      else { s.port i with orderedNarrow := some (decide (lanes ≤ 1)) })) := by
  refine happens_runEvent (body := orderWidth i lanes) ?_ rfl
  change execLaneWidthOrder s = _
  unfold execLaneWidthOrder
  rw [hnow]

theorem portsFail : PortsFail := by
  refine ⟨fun s i hnow => ?_, fun s i lanes hnow => ?_, fun s i hnow => ?_⟩
  · intro v
    have hrun := laneFailure_run s i
    refine ⟨fun hd => laneFailure_takes hnow (hrun.trans (if_pos hd)), fun hd hn => laneFailure_takes hnow ?_, fun hd hn => ?_⟩
    · rw [hrun, if_neg (by rw [hd]; exact Bool.false_ne_true), if_neg (by rw [hn]; exact Bool.false_ne_true)]
    · obtain ⟨es, -, hdown⟩ := portDown_run s i hd
      rw [if_neg (by rw [hd]; exact Bool.false_ne_true), if_pos hn, hdown] at hrun
      refine ⟨_, laneFailure_takes hnow hrun, ?_⟩
      change ((s.withPort i { s.port i with down := true, pieces := [], retry := [] }).port i).down = true ∧
        ((s.withPort i { s.port i with down := true, pieces := [], retry := [] }).port i).pieces = []
      rw [port_withPort]
      exact ⟨rfl, rfl⟩
  · intro v
    have horder := laneWidthOrder_takes hnow
    refine ⟨fun hno => ?_, fun hsome => ?_⟩
    · rwa [if_pos (by simpa using hno)] at horder
    · rwa [if_neg (by simpa using hsome)] at horder
  · intro v
    refine ⟨fun hd => portDown_takes hnow ?_, fun hd => ?_⟩
    · unfold portDown
      rw [M.bind_ok (M.get_run s), if_pos hd]
      rfl
    · obtain ⟨es, hsub, hrun⟩ := portDown_run s i hd
      exact ⟨es, hsub, portDown_takes hnow hrun⟩

/-! ## Packets at the routers -/

theorem packetForward_takes {s t : State} {pk : Packet} (hnow : s.now = .packetForward pk) (hrun : forward pk s = .ok () t) :
    Happens .packetForward s t := by
  refine happens_runEvent (body := forward pk) ?_ hrun
  change execPacketForward s = _
  unfold execPacketForward
  rw [hnow]

/-- What an open hop has: a port that is up. -/
theorem portFor_up {s : State} {dir : Nat} (h : s.hopOpen dir = true) (pk : Packet) :
    s.portFor dir pk / 12 = dir ∧ (s.port (s.portFor dir pk)).down = false := by
  have hne : s.upPorts dir ≠ [] := by
    intro hnil
    unfold State.hopOpen at h
    rw [hnil] at h
    simp at h
  have hlt : Config.portHash pk.src.toNat pk.dst pk.vc % max 1 (s.upPorts dir).length < (s.upPorts dir).length := by
    have hpos := List.length_pos_iff.mpr hne
    rw [Nat.max_eq_right hpos]
    exact Nat.mod_lt _ hpos
  have hmem : s.portFor dir pk ∈ s.upPorts dir := by
    unfold State.portFor
    dsimp only
    rw [List.getD_eq_getElem _ _ hlt]
    exact List.getElem_mem hlt
  obtain ⟨hrange, hup⟩ := List.mem_filter.mp hmem
  obtain ⟨j, hj, hp⟩ := List.mem_map.mp hrange
  have hj := List.mem_range.mp hj
  refine ⟨?_, by simpa using hup⟩
  rw [← hp]
  omega

theorem hopOpen_of_aside {s : State} {dir : Nat} (h : s.aside = some dir) : s.hopOpen dir = true := by
  unfold State.aside at h
  dsimp only at h
  split_ifs at h with hx hy
  · cases h; exact hx
  · cases h; exact hy

/-- A route's hop is open (R403). -/
theorem hopOpen_of_route {s : State} {pk on : Packet} {dir : Nat} (h : s.route pk = some (dir, on)) : s.hopOpen dir = true := by
  have haside {f : Nat → Nat × Packet} (hf : ∀ d, (f d).1 = d) (h : s.aside.map f = some (dir, on)) : s.hopOpen dir = true := by
    obtain ⟨d, hd, heq⟩ := Option.map_eq_some_iff.mp h
    have hdir : d = dir := (hf d).symm.trans (congrArg Prod.fst heq)
    exact hdir ▸ hopOpen_of_aside hd
  unfold State.route at h
  dsimp only at h
  split_ifs at h with hz hzopen hzdt hw hwopen hwdt hx hy
  · cases h; exact hzopen
  · exact haside (fun _ => rfl) h
  · cases h; exact hwopen
  · exact haside (fun _ => rfl) h
  · cases h; exact (Bool.and_eq_true _ _ ▸ hx).2
  · cases h; exact (Bool.and_eq_true _ _ ▸ hy).2

theorem arrival_request {pk : Packet} (hty : pk.ty = 0 ∨ pk.ty = 1 ∨ pk.ty = 3) (hop : pk.op = .write ∨ pk.op = .frd ∨ ∃ n, pk.op = .read n) :
    Packet.arrival pk = .remoteRequest pk := by
  unfold Packet.arrival
  rcases hop with hop | hop | ⟨n, hop⟩ <;> rw [hop] <;> rcases hty with hty | hty | hty <;> simp [hty]

theorem arrival_answer {pk : Packet} (hty : pk.ty = 2 ∨ pk.ty = 4) (hop : pk.op = .accepted ∨ ∃ v, pk.op = .value v) :
    Packet.arrival pk = .remoteAnswer pk := by
  unfold Packet.arrival
  rcases hop with hop | ⟨v, hop⟩ <;> rw [hop] <;> rcases hty with hty | hty <;> simp [hty]

theorem transmit_shows (s : State) (i : Nat) (pk : Packet) : (s.transmit i pk).units.fabricOut = s.units.fabricOut ++ [(i, pk)] ∧
    (∀ n, (s.transmit i pk).strand n = s.strand n) ∧ (s.transmit i pk).mem = s.mem := ⟨rfl, fun _ => rfl, rfl⟩

section Forward
variable {s : State} {pk : Packet}

/-- A packet of a package that is marked lost is discarded. -/
theorem forward_dropped (h : pk.src.toNat / 16384 ≠ s.pkg ∧ pk.src.toNat / 16384 ∈ s.units.lost) : forward pk s = .ok () s := by
  unfold forward
  rw [M.bind_ok (M.get_run s)]
  dsimp only
  rw [if_pos (by simpa using h)]
  rfl

variable (hkept : ¬(pk.src.toNat / 16384 ≠ s.pkg ∧ pk.src.toNat / 16384 ∈ s.units.lost))
include hkept

theorem forward_here (hdst : pk.dst = s.pkg) : forward pk s = .ok () (posting s [Packet.arrival pk]) := by
  unfold forward
  rw [M.bind_ok (M.get_run s)]
  dsimp only
  rw [if_neg (by simpa using hkept), if_pos hdst]
  rfl

variable (hdst : pk.dst ≠ s.pkg)
include hdst

/-- A packet for another package, by its next hop. -/
theorem forward_on : forward pk s = (match if s.units.lost.contains pk.dst then none else s.route pk with
    | some (dir, pk) => set (s.transmit (s.portFor dir pk) pk)
    | none => if !Packet.isRequest pk then pure () else
      if pk.src.toNat / 16384 = s.pkg then post (.remoteAnswer { pk with
          dst := pk.src.toNat / 16384, ty := 7, vc := 1, dl := false, dt := 0, op := .unreachable, data := [], tag := false })
      else post (.packetForward { pk with
          dst := pk.src.toNat / 16384, ty := 7, vc := 1, dl := false, dt := 0, op := .unreachable, data := [], tag := false
          src := BitVec.ofNat 28 (s.pkg * 16384), addr := pk.src.toNat % 16384 }) : M Unit) s := by
  unfold forward
  rw [M.bind_ok (M.get_run s)]
  dsimp only
  rw [if_neg (by simpa using hkept), if_neg hdst] <;> rfl

theorem hop_of_stuck (hstuck : pk.dst ∈ s.units.lost ∨ s.route pk = none) :
    (if s.units.lost.contains pk.dst then none else s.route pk) = none := by
  rcases hstuck with h | h
  · exact if_pos (by simpa using h)
  · rw [h]
    split <;> rfl

end Forward

theorem packetsAreForwarded : PacketsAreForwarded := by
  intro s pk hnow src dropped stuck
  refine ⟨fun h => packetForward_takes hnow (forward_dropped h), fun hk hd hty hop => packetForward_takes hnow ?_,
    fun hk hd hty hop => packetForward_takes hnow ?_, fun a hk hd hop => packetForward_takes hnow ?_,
    fun hk hd hs hno => packetForward_takes hnow ?_, fun hk hd hs hreq hsrc => ?_, fun dir on hk hd hlost hroute => ?_⟩
  · rw [forward_here hk hd, arrival_request hty hop]
  · rw [forward_here hk hd, arrival_answer hty hop]
  · rw [forward_here hk hd]
    unfold Packet.arrival
    rw [hop]
  · rw [forward_on hk hd, hop_of_stuck hk hd hs]
    dsimp only
    rw [hno]
    rfl
  · refine ⟨{ pk with dst := src, ty := 7, vc := 1, dl := false, dt := 0, op := .unreachable, data := [], tag := false },
      packetForward_takes hnow ?_, rfl, rfl⟩
    rw [forward_on hk hd, hop_of_stuck hk hd hs]
    dsimp only
    rw [hreq, if_neg (by simp), if_pos hsrc]
    rfl
  · have hup := portFor_up (hopOpen_of_route hroute) on
    refine ⟨_, _, packetForward_takes hnow ?_, hup.1, hup.2, transmit_shows ..⟩
    rw [forward_on hk hd, if_neg (by simpa using hlost), hroute]
    rfl

/-- Settles O58: each event by what its row does to the ports and the packets. -/
theorem links : Obligations.Links := ⟨flitsAreAccepted, portsFail, packetsAreForwarded⟩

end Sys2Proof.Claims
end

section
/-! SUPPORT. Bytes put at their homes by paths other than the core path (R146, R163, R283). -/

namespace Sys2Proof.Claims

open Sys2Proof.Machine

/-! ## Addresses of memory that an L1 may cache -/

theorem canon_of_cacheable {a : Nat} (h : cacheable a = true) : canon a = a := by
  unfold cacheable at h
  unfold canon
  cases hp : place a with
  | coreSpad c o =>
    rw [hp] at h
    cases h
  | _ => rfl

/-- Core and offset of a scratchpad byte are in range. -/
theorem coreSpad_range {a c o : Nat} (h : place a = .coreSpad c o) : c < 4096 ∧ o < 0x40000 := by
  unfold place dieWindows at h
  simp only at h
  split_ifs at h <;> simp only [Place.coreSpad.injEq, reduceCtorEq] at h <;> obtain ⟨rfl, rfl⟩ := h <;> omega

theorem not_cacheable_of_offset {a : Nat} (hlo : ¬a < dieWindows) (hoff : ¬(a - dieWindows) % 0x40000000 < 0x3000000) : cacheable a = false := by
  unfold cacheable place
  rw [if_neg hlo]
  dsimp only
  rw [if_neg hoff]
  split_ifs <;> rfl

theorem not_cacheable_spadAddr {c o : Nat} (hc : c < 4096) (ho : o < 0x40000) : cacheable (spadAddr c o) = false := by
  refine not_cacheable_of_offset ?_ ?_
  · unfold spadAddr
    omega
  · unfold spadAddr
    omega

/-- No other address names a byte that an L1 may cache. -/
theorem canon_ne_cacheable {a j : Nat} (h : cacheable a = true) (hne : j ≠ a) : canon j ≠ canon a := by
  rw [canon_of_cacheable h]
  intro heq
  unfold canon at heq
  cases hp : place j with
  | coreSpad c o =>
    rw [hp] at heq
    obtain ⟨hc, ho⟩ := coreSpad_range hp
    rw [← heq, not_cacheable_spadAddr hc ho] at h
    exact Bool.false_ne_true h
  | _ =>
    rw [hp] at heq
    exact hne heq

/-! ## What a put leaves -/

/-- A state that differs in memory, wake flags and the dirty lines of the home slices alone. -/
def PutOnly (s u : State) : Prop :=
  ∃ M T S L, u = { s with mem := M, tags := T, strands := S, units := { s.units with l2 := L } }

theorem PutOnly.refl (s : State) : PutOnly s s := ⟨_, _, _, _, rfl⟩

theorem PutOnly.trans {s u v : State} (h : PutOnly s u) (h' : PutOnly u v) : PutOnly s v := by
  obtain ⟨M, T, S, L, rfl⟩ := h
  obtain ⟨M, T, S, L, rfl⟩ := h'
  exact ⟨M, T, S, L, rfl⟩

section
variable {s u : State} (h : PutOnly s u)
include h

theorem PutOnly.agenda : u.agenda = s.agenda := by obtain ⟨_, _, _, _, rfl⟩ := h; rfl
theorem PutOnly.cur : u.cur = s.cur := by obtain ⟨_, _, _, _, rfl⟩ := h; rfl
theorem PutOnly.pkg : u.pkg = s.pkg := by obtain ⟨_, _, _, _, rfl⟩ := h; rfl
theorem PutOnly.badAt (a : Nat) : u.badAt a = s.badAt a := by obtain ⟨_, _, _, _, rfl⟩ := h; rfl
theorem PutOnly.noPartials (hs : NoPartials s) : NoPartials u := by obtain ⟨_, _, _, _, rfl⟩ := h; exact hs
theorem PutOnly.units : u.units = { s.units with l2 := u.units.l2 } := by obtain ⟨_, _, _, _, rfl⟩ := h; rfl

end

theorem putOnly_putBytes (s : State) (a : Nat) (bs : List Byte) : PutOnly s (s.putBytes a bs) := by
  induction bs generalizing s a with
  | nil => exact .refl s
  | cons b bs ih => exact PutOnly.trans ⟨_, _, _, _, rfl⟩ (ih (s.putByte a b) (a + 1))

theorem putOnly_wakeAt (s : State) (a : Nat) : PutOnly s (s.wakeAt a) := by
  have hline (u : State) (n : Nat) : PutOnly u (u.wakeLine n) := by
    rw [wakeLine_eq, foldl_wakeOne_rest]
    exact ⟨_, _, _, _, rfl⟩
  unfold State.wakeAt
  split
  · exact (hline ..).trans (hline ..)
  · exact hline ..

theorem putOnly_l2Put (s : State) (a n : Nat) : PutOnly s (s.l2Put a n) := by
  unfold State.l2Put
  dsimp only
  split
  · exact .refl s
  · exact ⟨_, _, _, _, rfl⟩

theorem putOnly_homePut {s : State} {a : Nat} {bs : List Byte} (hbad : ∀ i < bs.length, s.badAt (a + i) = 0) : PutOnly s (s.homePut a bs) := by
  have hwake (ps : List (Nat × List Byte)) (u : State) : PutOnly u (ps.foldl (fun s p => (s.l2Put p.1 p.2.length).wakeAt p.1) u) := by
    induction ps generalizing u with
    | nil => exact .refl u
    | cons p ps ih => exact ((putOnly_l2Put ..).trans (putOnly_wakeAt ..)).trans (ih _)
  unfold State.homePut
  dsimp only
  rw [foldl_putSector (by omega) hbad]
  exact (putOnly_putBytes s a bs).trans (hwake ..)

/-! ## `pathWrite` -/

theorem putBytes_congr {s u : State} (hm : u.mem = s.mem) (ht : u.tags = s.tags) (a : Nat) (bs : List Byte) :
    (u.putBytes a bs).mem = (s.putBytes a bs).mem ∧ (u.putBytes a bs).tags = (s.putBytes a bs).tags := by
  induction bs generalizing s u a with
  | nil => exact ⟨hm, ht⟩
  | cons b bs ih =>
    refine ih (s := s.putByte a b) (u := u.putByte a b) ?_ ?_ (a + 1)
    · change storeAt 0 (canon a) b u.mem = _
      rw [hm]
      rfl
    · change storeAt false (canon a / 16) false u.tags = _
      rw [ht]
      rfl

/-- A part of a put by a path that works at the homes. -/
def putPart (src : BitVec 28) (path : Nat) (p : Nat × List Byte) (_ : PUnit) : M (ForInStep PUnit) := do
  match place p.1 with
  | .coreSpad c o => portWrite c o p.2 src path
  | _ => homeWrite p.1 p.2
  pure (.yield ⟨⟩)

theorem putPart_run {s : State} (hpart : NoPartials s) {p : Nat × List Byte} (h : cacheable p.1 = true) (src : BitVec 28) (path : Nat) :
    putPart src path p ⟨⟩ s = .ok (.yield ⟨⟩) (s.homePut p.1 p.2) := by
  unfold cacheable at h
  unfold putPart
  cases hp : place p.1 with
  | coreSpad c o =>
    rw [hp] at h
    cases h
  | _ => exact (M.bind_ok (homeWrite_run hpart p.1 p.2)).trans rfl

/-- An action that puts a part of some bytes where it lies. -/
def PutsPart (f : Nat × List Byte → PUnit → M (ForInStep PUnit)) : Prop :=
  ∀ (s : State) (p : Nat × List Byte), NoPartials s → p.2 ≠ [] → (∀ i < p.2.length, cacheable (p.1 + i) = true ∧ s.badAt (p.1 + i) = 0) →
    ∃ t, f p ⟨⟩ s = .ok (.yield ⟨⟩) t ∧ PutOnly s t ∧ t.mem = (s.putBytes p.1 p.2).mem ∧ t.tags = (s.putBytes p.1 p.2).tags

theorem putsPart_putPart (src : BitVec 28) (path : Nat) : PutsPart (putPart src path) := by
  intro s p hpart hne hplain
  have hpos := List.length_pos_iff.mpr hne
  obtain ⟨hmem, htags⟩ := mem_homePut (s := s) (a := p.1) (bs := p.2) fun i hi => (hplain i hi).2
  exact ⟨_, putPart_run hpart (hplain 0 hpos).1 src path, putOnly_homePut fun i hi => (hplain i hi).2, hmem, htags⟩

theorem forIn_parts {f : Nat × List Byte → PUnit → M (ForInStep PUnit)} (hf : PutsPart f) {fuel : Nat} {s : State} {a : Nat} {bs : List Byte}
    (hfuel : a % 128 + bs.length ≤ 128 * fuel) (hpart : NoPartials s) (hplain : ∀ i < bs.length, cacheable (a + i) = true ∧ s.badAt (a + i) = 0) :
    ∃ t, forIn (splitAt 128 fuel a bs) ⟨⟩ f s = .ok ⟨⟩ t ∧ PutOnly s t ∧ t.mem = (s.putBytes a bs).mem ∧
      t.tags = (s.putBytes a bs).tags := by
  induction fuel generalizing s a bs with
  | zero =>
    rw [List.eq_nil_of_length_eq_zero (show bs.length = 0 by omega)]
    exact ⟨s, rfl, .refl s, rfl, rfl⟩
  | succ fuel ih =>
    by_cases hne : bs = []
    · subst hne; exact ⟨s, rfl, .refl s, rfl, rfl⟩
    have hpos := List.length_pos_iff.mpr hne
    have hlenT : (bs.take (128 - a % 128)).length ≤ bs.length := by
      rw [List.length_take]
      omega
    have hmod : a % 128 < 128 := Nat.mod_lt _ (by decide)
    obtain ⟨u, hstep, hput, hmem, htags⟩ := hf s (a, bs.take (128 - a % 128)) hpart (by simpa [List.take_eq_nil_iff, hne] using (by omega : 128 - a % 128 ≠ 0))
      (fun i hi => hplain i (Nat.lt_of_lt_of_le hi hlenT))
    obtain ⟨t, hrun, hkeep, htm, htt⟩ := ih (s := u) (a := a + (128 - a % 128)) (bs := bs.drop (128 - a % 128))
      (by rw [List.length_drop]; omega) (hput.noPartials hpart) (fun i hi => by
        rw [List.length_drop] at hi
        rw [hput.badAt, Nat.add_assoc]
        exact hplain _ (by omega))
    obtain ⟨hm, htg⟩ := putBytes_congr hmem htags (a + (128 - a % 128)) (bs.drop (128 - a % 128))
    have happend : (s.putBytes a (bs.take (128 - a % 128))).putBytes (a + (128 - a % 128)) (bs.drop (128 - a % 128)) = s.putBytes a bs := by
      by_cases hlen : 128 - a % 128 ≤ bs.length
      · have happ := putBytes_append s a (bs.take (128 - a % 128)) (bs.drop (128 - a % 128))
        rw [List.take_append_drop, List.length_take_of_le hlen] at happ
        exact happ.symm
      · rw [List.drop_eq_nil_of_le (by omega), List.take_of_length_le (by omega)]
        rfl
    refine ⟨t, ?_, hput.trans hkeep, htm.trans (hm.trans (congrArg State.mem happend)), htt.trans (htg.trans (congrArg State.tags happend))⟩
    rw [splitAt, if_neg (by simpa using hne)]
    dsimp only
    rw [List.forIn_cons, M.bind_ok hstep]
    exact hrun

theorem pathWrite_run {s : State} {a : Nat} {bs : List Byte} (hpart : NoPartials s)
    (hplain : ∀ i < bs.length, cacheable (a + i) = true ∧ s.badAt (a + i) = 0) (src : BitVec 28) (path : Nat) :
    ∃ t, pathWrite a bs src path s = .ok () t ∧ PutOnly s t ∧ t.mem = (s.putBytes a bs).mem ∧ t.tags = (s.putBytes a bs).tags := by
  obtain ⟨t, hrun, hrest⟩ := forIn_parts (putsPart_putPart src path) (fuel := bs.length / 128 + 2) (by omega) hpart hplain
  exact ⟨t, (M.bind_ok hrun).trans rfl, hrest⟩

/-- Bytes put where an L1 may cache them are those that are then there. -/
theorem written_of_mem {s t : State} {a : Nat} {bs : List Byte} (hplain : ∀ i < bs.length, cacheable (a + i) = true)
    (hmem : t.mem = (s.putBytes a bs).mem) : Written s t a bs := by
  intro j
  have hbyte : t.byteAt j = (s.putBytes a bs).byteAt j := congrArg (lookupD 0 · (canon j)) hmem
  rw [hbyte]
  by_cases hj : a ≤ j ∧ j < a + bs.length
  · rw [if_pos hj]
    obtain ⟨i, rfl⟩ := Nat.exists_eq_add_of_le hj.1
    rw [byteAt_putBytes (fun i hi k hk heq => ?_) (by omega), Nat.add_sub_cancel_left]
    by_contra hne
    exact canon_ne_cacheable (hplain k hk) (show a + i ≠ a + k by omega) heq
  · rw [if_neg hj]
    exact byteAt_putBytes_ne fun i hi => canon_ne_cacheable (hplain i hi) (by omega)

end Sys2Proof.Claims
end

section
/-! SUPPORT. Requests of other packages at their home here (R404 to R406). -/

namespace Sys2Proof.Claims

open Sys2Proof.Machine

theorem remoteRequest_takes {s t : State} {pk : Packet} (hnow : s.now = .remoteRequest pk) (hrun : serve pk s = .ok () t) :
    Happens .remoteRequest s t := by
  refine happens_runEvent (body := serve pk) ?_ hrun
  change execRemoteRequest s = _
  unfold execRemoteRequest
  rw [hnow]

/-! ## Resources -/

/-- An address of DRAM is a resource of a tenant whose colony holds its channel group (R405). -/
theorem resource_iff {s : State} {t : BitVec 12} {a : Nat} (h : a < 2 ^ 40) : s.resource t a = true ↔ Granted s t a := by
  unfold State.resource Granted
  rw [place_dram h, List.any_eq_true]
  constructor
  · rintro ⟨e, he, hc⟩
    refine ⟨h, e, he, ?_⟩
    cases hv : e.2 with
    | none => rw [hv] at hc; exact absurd hc Bool.false_ne_true
    | some c =>
      rw [hv] at hc
      obtain ⟨ht, hbit⟩ := (Bool.and_eq_true _ _).mp hc
      exact ⟨c, rfl, of_decide_eq_true ht, hbit⟩
  · rintro ⟨-, e, he, c, hv, ht, hbit⟩
    refine ⟨e, he, ?_⟩
    rw [hv]
    exact (Bool.and_eq_true _ _).mpr ⟨decide_eq_true ht, hbit⟩

/-! ## Answers -/

/-- The packet that answers a request of another package. -/
def answerTo (s : State) (pk : Packet) (ty : Nat) (op : PacketOp) (data : List Byte) (tag : Bool) : Packet :=
  { requestPacket s (pk.src.toNat / 16384 * 2 ^ 41) ty 1 0 op data tag with txn := pk.txn, addr := pk.src.toNat % 16384 }

theorem answerWith_run (pk : Packet) (ty : Nat) (op : PacketOp) (data : List Byte) (tag : Bool) (s : State) :
    answerWith pk ty op data tag s = .ok () (posting s [.packetForward (answerTo s pk ty op data tag)]) := rfl

theorem pkgOf_mul {n : Nat} (h : n < 2 ^ 14) : pkgOf (n * 2 ^ 41) = n := by
  unfold pkgOf
  omega

theorem answerTo_dst (s : State) (pk : Packet) (ty : Nat) (op : PacketOp) (data : List Byte) (tag : Bool) :
    (answerTo s pk ty op data tag).dst = pk.src.toNat / 16384 := by
  have hsrc : pk.src.toNat / 16384 < 2 ^ 14 := by
    have := pk.src.isLt
    omega
  have hdst : (answerTo s pk ty op data tag).dst = pkgOf (pk.src.toNat / 16384 * 2 ^ 41) := rfl
  rw [hdst, pkgOf_mul hsrc]

theorem txn_set (q : Packet) (n a : Nat) : ({ q with txn := n, addr := a } : Packet).txn = n := rfl

/-- What identifies an answer and its content. -/
structure AnswersTo (pk : Packet) (ty : Nat) (op : PacketOp) (data : List Byte) (r : Packet) : Prop where
  ty : r.ty = ty
  op : r.op = op
  data : r.data = data
  txn : r.txn = pk.txn
  dst : r.dst = pk.src.toNat / 16384
  addr : r.addr = pk.src.toNat % 16384

theorem answersTo_answerTo (s : State) (pk : Packet) (ty : Nat) (op : PacketOp) (data : List Byte) (tag : Bool) :
    AnswersTo pk ty op data (answerTo s pk ty op data tag) where
  ty := rfl
  op := rfl
  data := rfl
  txn := txn_set (requestPacket s (pk.src.toNat / 16384 * 2 ^ 41) ty 1 0 op data tag) pk.txn (pk.src.toNat % 16384)
  dst := answerTo_dst s pk ty op data tag
  addr := rfl

/-! ## Memory requests -/

/-- A memory request in a state, by whether its tenant has the resources there. -/
def serveBytes (s : State) (pk : Packet) : M Unit := do
  if !(s.resource pk.tenant pk.addr && s.resource pk.tenant (pk.addr + Packet.reach pk - 1)) then
    answerWith pk 7 (s.noResource pk.addr) [] false
  else if pk.mirrored then serveMirrored pk
  else do
    let _ ← answerMemory pk
    pure ()

/-- Operations on memory at its home. -/
def OnMemory (op : PacketOp) : Prop := (∃ n, op = .read n) ∨ op = .write ∨ (∃ o k y, op = .amo o k y) ∨ ∃ k x y, op = .cas k x y

theorem serve_bytes {pk : Packet} (hop : OnMemory pk.op) (hty : pk.ty = 0 ∨ pk.ty = 1 ∨ pk.ty = 3) (s : State) : serve pk s = serveBytes s pk s := by
  have hkind : (pk.ty = 0 || pk.ty = 1 || pk.ty = 3) = true := by
    rcases hty with h | h | h <;> simp [h]
  have hmem : (if pk.ty = 0 || pk.ty = 1 || pk.ty = 3 then serveBytes s pk else pure ()) s = serveBytes s pk s := by rw [if_pos hkind]
  unfold serve
  refine (M.bind_ok (M.get_run s)).trans ?_
  rcases hop with ⟨n, hop⟩ | hop | ⟨o, k, y, hop⟩ | ⟨k, x, y, hop⟩ <;> rw [hop] <;> exact hmem

section Outside
variable {s : State} {pk : Packet} (hout : pk.addr < 2 ^ 40) (hnot : ¬Granted s pk.tenant pk.addr)
include hout hnot

theorem serveBytes_outside : serveBytes s pk s = .ok () (posting s
    [.packetForward (answerTo s pk 7 (.fail cXlat (BitVec.ofNat 64 (s.pkg * 2 ^ 41 + pk.addr))) [] false)]) := by
  have hno : s.resource pk.tenant pk.addr = false := by
    rw [Bool.eq_false_iff]
    exact fun h => hnot ((resource_iff hout).mp h)
  unfold serveBytes
  rw [hno, Bool.false_and, if_pos (by rfl)]
  rfl

theorem served_outside (hop : OnMemory pk.op) (hty : pk.ty = 0 ∨ pk.ty = 1 ∨ pk.ty = 3) (hnow : s.now = .remoteRequest pk) :
    ∃ r : Packet, Happens .remoteRequest s (posting s [.packetForward r]) ∧
      AnswersTo pk 7 (.fail cXlat (BitVec.ofNat 64 (s.pkg * 2 ^ 41 + pk.addr))) [] r := by
  have hserve := (serve_bytes hop hty s).trans (serveBytes_outside hout hnot)
  exact ⟨_, remoteRequest_takes hnow hserve, answersTo_answerTo s pk 7 (.fail cXlat (BitVec.ofNat 64 (s.pkg * 2 ^ 41 + pk.addr))) [] false⟩

end Outside

theorem written_self (s : State) (a n : Nat) : Written s s a (s.bytesAt a n) := by
  intro j
  by_cases h : a ≤ j ∧ j < a + (s.bytesAt a n).length
  · rw [if_pos h]
    rw [length_bytesAt] at h
    have hi : j - a < n := by omega
    unfold State.bytesAt
    rw [List.getD_eq_getElem?_getD, List.getElem?_map, List.getElem?_range hi]
    exact congrArg s.byteAt (by omega : j = a + (j - a))
  · rw [if_neg h]

theorem written_of_eq {s t u : State} {a : Nat} {bs : List Byte} (hmem : u.mem = t.mem) (h : Written s t a bs) : Written s u a bs := by
  intro j
  rw [← h j]
  unfold State.byteAt
  rw [hmem]

section Inside
variable {s : State} {pk : Packet}

theorem attempt_ok {α : Type} {m : M α} {s t : State} {a : α} (h : m s = .ok a t) : attempt m s = .ok (.ok a) t := by
  unfold attempt
  rw [h]

/-- What is left of a request that has been performed. -/
theorem answerMemory_run {op : PacketOp} {data : List Byte} {tag : Bool} {t : State} (h : serveMemory pk s = .ok (op, data, tag) t) :
    ∃ B, answerMemory pk s = .ok true (posting { t with bad := B } [.packetForward (answerTo { t with bad := B } pk (answerType pk) op data tag)]) := by
  have hmark (l : List Nat) (B : SMap (BitVec 8)) : ∃ B', forIn l PUnit.unit (fun k _ => (do
      modify fun s => { s with bad := storeAt 0 (canon (pk.addr / 32 * 32 + 32 * k) / 32) cInteg s.bad }
      pure (.yield ⟨⟩) : M (ForInStep PUnit))) { t with bad := B } = .ok ⟨⟩ { t with bad := B' } := by
    induction l generalizing B with
    | nil => exact ⟨B, rfl⟩
    | cons k l ih =>
      obtain ⟨B', hB⟩ := ih (storeAt 0 (canon (pk.addr / 32 * 32 + 32 * k) / 32) cInteg B)
      exact ⟨B', by rw [List.forIn_cons]; exact hB⟩
  unfold answerMemory
  rw [M.bind_ok (attempt_ok h)]
  by_cases hty : pk.ty = 0
  · obtain ⟨B, hB⟩ := hmark pk.wrong t.bad
    have hwrong : markWrong pk t = .ok () { t with bad := B } := (M.bind_ok hB).trans rfl
    refine ⟨B, ?_⟩
    dsimp only
    rw [if_pos hty, M.bind_ok hwrong]
    exact (M.bind_ok (answerWith_run ..)).trans rfl
  · refine ⟨t.bad, ?_⟩
    dsimp only
    rw [if_neg hty]
    exact (M.bind_ok (answerWith_run ..)).trans rfl

variable (hplain : PlainBytes s pk.addr (Packet.reach pk))
include hplain

theorem firstBad_plain : s.firstBad pk.addr (Packet.reach pk) = none := by
  obtain ⟨-, -, -, -, hall⟩ := hplain
  unfold State.firstBad
  rw [List.findSome?_eq_none_iff]
  intro i hi
  rw [if_neg]
  rw [(hall i (List.mem_range.mp hi)).2]
  simp

variable (hgrant : Granted s pk.tenant pk.addr) (hlast : Granted s pk.tenant (pk.addr + Packet.reach pk - 1)) (hsingle : pk.mirrored = false)
include hgrant hlast hsingle

theorem serveBytes_inside {t : State} (h : answerMemory pk s = .ok true t) : serveBytes s pk s = .ok () t := by
  have hres : (s.resource pk.tenant pk.addr && s.resource pk.tenant (pk.addr + Packet.reach pk - 1)) = true := by
    rw [(resource_iff hgrant.1).mpr hgrant, (resource_iff hlast.1).mpr hlast]
    rfl
  unfold serveBytes
  rw [hres, if_neg (by simp), hsingle, if_neg Bool.false_ne_true]
  exact (M.bind_ok h).trans rfl

/-- A request within its tenant's resources is answered once it has been performed. -/
theorem served_inside (hop : OnMemory pk.op) (hty : pk.ty = 0 ∨ pk.ty = 1 ∨ pk.ty = 3) (hnow : s.now = .remoteRequest pk) {op : PacketOp}
    {data : List Byte} {tag : Bool} {t : State} (h : serveMemory pk s = .ok (op, data, tag) t) (hagenda : t.agenda = s.agenda) :
    ∃ u, exec .remoteRequest s = .next u ∧ u.mem = t.mem ∧ u.strands = t.strands ∧ ∃ r : Packet, u.agenda = s.agenda ++ [.packetForward r] ∧
      AnswersTo pk (answerType pk) op data r := by
  obtain ⟨B, hrun⟩ := answerMemory_run h
  have hserve := (serve_bytes hop hty s).trans (serveBytes_inside hplain hgrant hlast hsingle hrun)
  refine ⟨_, remoteRequest_takes hnow hserve, rfl, rfl, _, ?_, answersTo_answerTo { t with bad := B } pk (answerType pk) op data tag⟩
  unfold posting
  exact congrArg (· ++ _) hagenda

omit hgrant hlast hsingle in
theorem checkAtomicPlace_dram (hlow : pk.addr < 2 ^ 40) (va : Nat) : checkAtomicPlace va (s.globalOf pk.addr) s = .ok () s := by
  have hloc : localOf (s.globalOf pk.addr) = pk.addr := by
    unfold localOf State.globalOf
    omega
  unfold checkAtomicPlace
  rw [M.bind_ok (M.get_run s), hloc, place_dram hlow]
  split <;> rfl

omit hgrant hlast hsingle in
theorem checkSectors_plain (va : Nat) : checkSectors va pk.addr (Packet.reach pk) s = .ok () s := by
  unfold checkSectors
  rw [firstBad_plain hplain]

omit hgrant hlast hsingle in
theorem serveMemory_read {n : Nat} (hlow : pk.addr < 2 ^ 40) (hop : pk.op = .read n) :
    serveMemory pk s = .ok (.value 0, s.bytesAt pk.addr n, s.tagAt pk.addr) s := by
  obtain ⟨-, hpart, -⟩ := id hplain
  have hreach : Packet.reach pk = n := by unfold Packet.reach; rw [hop]
  have hcheck := checkSectors_plain hplain pk.addr
  rw [hreach] at hcheck
  have hread : pathRead pk.addr pk.addr n s = .ok (s.bytesAt pk.addr n) s := by
    unfold pathRead
    rw [place_dram hlow]
    exact (M.bind_ok hcheck).trans (homeRead_run hpart ..)
  unfold serveMemory
  rw [M.bind_ok (M.get_run s), hop]
  exact (M.bind_ok hread).trans rfl

omit hgrant hlast hsingle in
/-- A put of a request's bytes. -/
theorem pathWrite_plain {bs : List Byte} (hlen : bs.length = Packet.reach pk) (src : BitVec 28) (path : Nat) :
    ∃ t, pathWrite pk.addr bs src path s = .ok () t ∧ PutOnly s t ∧ Written s t pk.addr bs := by
  obtain ⟨-, hpart, -, -, hall⟩ := hplain
  have hall : ∀ i < bs.length, cacheable (pk.addr + i) = true ∧ s.badAt (pk.addr + i) = 0 := by rw [hlen]; exact hall
  obtain ⟨t, hrun, hput, hmem, -⟩ := pathWrite_run hpart hall src path
  exact ⟨t, hrun, hput, written_of_mem (fun i hi => (hall i hi).1) hmem⟩

omit hgrant hlast hsingle in
theorem serveMemory_write (hplace : place pk.addr = .dram ∨ ∃ d, place pk.addr = .dieSpad d) (hop : pk.op = .write) :
    ∃ t, serveMemory pk s = .ok (.accepted, [], false) t ∧ t.agenda = s.agenda ∧ t.units = { s.units with l2 := t.units.l2 } ∧
      Written s t pk.addr pk.data := by
  obtain ⟨-, hpart, -⟩ := id hplain
  have hreach : Packet.reach pk = pk.data.length := by unfold Packet.reach; rw [hop]
  obtain ⟨t, hrun, hput, hwritten⟩ := pathWrite_plain hplain hreach.symm pk.src 5
  obtain ⟨T, htag⟩ : ∃ T, (if pk.tag && t.badAt pk.addr = 0 then set (t.putTag pk.addr true) else pure () : M Unit) t = .ok () { t with tags := T } := by
    split
    · exact ⟨_, rfl⟩
    · exact ⟨_, rfl⟩
  have happly : applyWrite pk s = .ok () { t with tags := T } := by
    unfold applyWrite
    rw [hop]
    exact (M.bind_ok (homeRead_run hpart ..)).trans ((M.bind_ok hrun).trans ((M.bind_ok (M.get_run t)).trans htag))
  refine ⟨{ t with tags := T }, ?_, hput.agenda, hput.units, hwritten⟩
  unfold serveMemory
  rw [M.bind_ok (M.get_run s), hop]
  rcases hplace with hp | ⟨d, hp⟩ <;> rw [hp] <;> exact M.bind_ok (M.bind_ok happly)

omit hgrant hlast hsingle in
/-- A read-modify-write for another package. -/
theorem serveRmw_run (hlow : pk.addr < 2 ^ 40) {f : Nat → Option Nat} :
    ∃ t, serveRmw pk (Packet.reach pk) f s = .ok (.value (BitVec.ofNat 64 (leNat (s.bytesAt pk.addr (Packet.reach pk))))) t ∧ t.agenda = s.agenda ∧
      Written s t pk.addr ((f (leNat (s.bytesAt pk.addr (Packet.reach pk)))).elim (s.bytesAt pk.addr (Packet.reach pk))
        fun v => leBytes (Packet.reach pk) v) := by
  obtain ⟨-, hpart, -⟩ := id hplain
  unfold serveRmw
  rw [M.bind_ok (M.get_run s)]
  dsimp only
  rw [M.bind_ok (checkAtomicPlace_dram hplain hlow pk.addr), M.bind_ok (checkSectors_plain hplain pk.addr), M.bind_ok (homeRead_run hpart ..)]
  cases hf : f (leNat (s.bytesAt pk.addr (Packet.reach pk))) with
  | none =>
    exact ⟨s, rfl, rfl, written_self s pk.addr (Packet.reach pk)⟩
  | some v =>
    obtain ⟨t, hrun, hput, hwritten⟩ := pathWrite_plain hplain (length_leBytes ..) pk.src 5
    exact ⟨t, (M.bind_ok hrun).trans rfl, hput.agenda, hwritten⟩

end Inside

theorem passes_of_posts {s : State} {pk : Packet} (hnow : s.now = .remoteRequest pk) {e : Event} (h : serve pk s = post e s) :
    Happens .remoteRequest s (posting s [e]) := remoteRequest_takes hnow h

/-- Requests of other packages are served (the first part of O59). -/
theorem requestsAreServed : RequestsAreServed := by
  intro s pk hnow
  dsimp only
  have houtside (hop : OnMemory pk.op) (hty : pk.ty = 0 ∨ pk.ty = 1 ∨ pk.ty = 3) (hlow : pk.addr < 2 ^ 40) (hnot : ¬Granted s pk.tenant pk.addr) :
      ∃ t, exec .remoteRequest s = .next t ∧ (∃ r : Packet, t.agenda = s.agenda ++ [.packetForward r] ∧ r.ty = 7 ∧
        r.op = .fail cXlat (BitVec.ofNat 64 (s.pkg * 2 ^ 41 + pk.addr)) ∧ r.data = [] ∧ r.txn = pk.txn ∧ r.dst = pk.src.toNat / 16384 ∧
        r.addr = pk.src.toNat % 16384) ∧ t.mem = s.mem ∧ ∀ n, t.strand n = s.strand n := by
    obtain ⟨r, hrun, ⟨h1, h2, h3, h4, h5, h6⟩⟩ := served_outside hlow hnot hop hty hnow
    exact ⟨_, hrun, ⟨r, rfl, h1, h2, h3, h4, h5, h6⟩, rfl, fun n => rfl⟩
  refine ⟨fun n hty hop => houtside (.inl ⟨n, hop⟩) (.inr (.inl hty)), fun hty hop => houtside (.inr (.inl hop)) (.inl hty), ?_, ?_, ?_, ?_, ?_, ?_, ?_, ?_⟩
  · rintro n hty hop ⟨hgrant, hlast, hplain, hsingle⟩
    have hreach : Packet.reach pk = n := by unfold Packet.reach; rw [hop]
    rw [← hreach] at hlast hplain
    obtain ⟨u, hrun, hmem, hstrands, r, hagenda, ⟨h1, h2, h3, h4, h5, h6⟩⟩ := served_inside hplain hgrant hlast hsingle (.inl ⟨n, hop⟩)
      (.inr (.inl hty)) hnow (serveMemory_read hplain hgrant.1 hop) rfl
    refine ⟨u, hrun, ⟨r, hagenda, ?_, h2, h3, h4, h5, h6⟩, hmem, fun n => congrArg (lookupD _ · n) hstrands⟩
    rw [h1]
    unfold answerType
    rw [if_pos hty]
  · rintro hty hop ⟨hgrant, hlast, hplain, hsingle⟩
    have hreach : Packet.reach pk = pk.data.length := by unfold Packet.reach; rw [hop]
    rw [← hreach] at hlast hplain
    obtain ⟨t, hserve, hag, -, hwritten⟩ := serveMemory_write hplain (.inl (place_dram hgrant.1)) hop
    obtain ⟨u, hrun, hmem, -, r, hagenda, ⟨h1, h2, h3, h4, h5, h6⟩⟩ := served_inside hplain hgrant hlast hsingle (.inr (.inl hop))
      (.inl hty) hnow hserve hag
    refine ⟨u, hrun, ⟨r, hagenda, ?_, h2, h3, h4, h5, h6⟩, written_of_eq hmem hwritten⟩
    rw [h1]
    unfold answerType
    rw [if_neg (by omega), if_pos hty]
  · rintro o k y hty hop hk ⟨hgrant, hlast, hplain, hsingle⟩
    have hreach : Packet.reach pk = k := by unfold Packet.reach; rw [hop]
    rw [← hreach] at hlast hplain ⊢
    obtain ⟨t, hserve, hag, hwritten⟩ := serveRmw_run hplain hgrant.1 (f := fun old => some (amoOp o.toNat (Packet.reach pk) old y.toNat))
    have hmem : serveMemory pk s = .ok (.value (BitVec.ofNat 64 (leNat (s.bytesAt pk.addr (Packet.reach pk)))), [], false) t := by
      unfold serveMemory
      rw [M.bind_ok (M.get_run s), hop, ← hreach]
      exact M.bind_ok hserve
    obtain ⟨u, hrun, hmem, -, r, hagenda, ⟨h1, h2, h3, h4, h5, h6⟩⟩ := served_inside hplain hgrant hlast hsingle
      (.inr (.inr (.inl ⟨o, k, y, hop⟩))) (.inr (.inr hty)) hnow hmem hag
    refine ⟨u, hrun, ⟨r, hagenda, ?_, h2, h3, h4, h5, h6⟩, written_of_eq hmem hwritten⟩
    rw [h1]
    unfold answerType
    rw [if_neg (by omega), if_neg (by omega)]
  · rintro k x y hty hop hk ⟨hgrant, hlast, hplain, hsingle⟩
    have hreach : Packet.reach pk = k := by unfold Packet.reach; rw [hop]
    rw [← hreach] at hlast hplain ⊢
    obtain ⟨t, hserve, hag, hwritten⟩ := serveRmw_run hplain hgrant.1 (f := fun old => if old = x.toNat then some y.toNat else none)
    have hmem : serveMemory pk s = .ok (.value (BitVec.ofNat 64 (leNat (s.bytesAt pk.addr (Packet.reach pk)))), [], false) t := by
      unfold serveMemory
      rw [M.bind_ok (M.get_run s), hop, ← hreach]
      exact M.bind_ok hserve
    obtain ⟨u, hrun, hmem, -, r, hagenda, ⟨h1, h2, h3, h4, h5, h6⟩⟩ := served_inside hplain hgrant hlast hsingle
      (.inr (.inr (.inr ⟨k, x, y, hop⟩))) (.inr (.inr hty)) hnow hmem hag
    refine ⟨u, hrun, ⟨r, hagenda, ?_, h2, h3, h4, h5, h6⟩, written_of_eq hmem ?_⟩
    · rw [h1]
      unfold answerType
      rw [if_neg (by omega), if_neg (by omega)]
    · convert hwritten using 1
      split <;> rfl
  · intro m target hop
    refine passes_of_posts hnow ?_
    unfold serve
    rw [M.bind_ok (M.get_run s), hop]
  · intro n v target hop
    refine passes_of_posts hnow ?_
    unfold serve
    rw [M.bind_ok (M.get_run s), hop]
  · intro c hop
    refine passes_of_posts hnow ?_
    unfold serve
    rw [M.bind_ok (M.get_run s), hop]
  · intro c hop
    refine passes_of_posts hnow ?_
    unfold serve
    rw [M.bind_ok (M.get_run s), hop]

end Sys2Proof.Claims
end

section
/-! SUPPORT. Reports, answers and lost packages (R406 to R408, R420). -/

namespace Sys2Proof.Claims

open Sys2Proof.Machine

/-! ## Reports of mirrored writes -/

theorem mirrorReport_takes {s t : State} {pk : Packet} (hnow : s.now = .mirrorReport pk) (hrun : mirrorReport pk s = .ok () t) :
    Happens .mirrorReport s t := by
  refine happens_runEvent (body := mirrorReport pk) ?_ hrun
  change execMirrorReport s = _
  unfold execMirrorReport
  rw [hnow]

theorem mirrorReport_kept {s : State} {pk : Packet} (h : s.units.mirrors.find? (fun q => !q.2.mr && sameWrite q.2 pk) = none) :
    mirrorReport pk s = .ok () { s with units := { s.units with mirrors := s.units.mirrors ++ [(5, pk)] } } := by
  unfold mirrorReport
  rw [M.bind_ok (M.get_run s), h]
  rfl

theorem mirrorReport_performs {s t : State} {pk : Packet} {q : Nat × Packet} (h : s.units.mirrors.find? (fun q => !q.2.mr && sameWrite q.2 pk) = some q)
    (hrun : applyHeld q { s with units := { s.units with mirrors := s.units.mirrors.erase q } } = .ok () t) : mirrorReport pk s = .ok () t := by
  unfold mirrorReport
  rw [M.bind_ok (M.get_run s), h]
  exact hrun

theorem place_of_cacheable {a : Nat} (h : cacheable a = true) : place a = .dram ∨ ∃ d, place a = .dieSpad d := by
  unfold cacheable at h
  split at h
  case h_1 hp => exact .inl hp
  case h_2 d hp => exact .inr ⟨_, hp⟩
  all_goals exact absurd h Bool.false_ne_true

theorem mirrors_of_l2 {x y : PackageState} {l : SMap L2Line} (h : y = { x with l2 := l }) : y.mirrors = x.mirrors := by
  subst h
  rfl

theorem mirrorsReport : MirrorsReport := by
  intro s pk hnow
  constructor
  · intro hnone
    refine mirrorReport_takes hnow (mirrorReport_kept ?_)
    rw [List.find?_eq_none]
    intro e he hmatch
    simp [sameWrite] at hmatch
    exact hnone e he ⟨hmatch.1, hmatch.2.1, hmatch.2.2⟩
  · intro path q hmirrors hpath hmr hsrc haddr hty hop haway hplain
    have hfind : s.units.mirrors.find? (fun q => !q.2.mr && sameWrite q.2 pk) = some (path, q) := by
      rw [hmirrors, List.find?_cons_of_pos]
      simp [sameWrite, hmr, hsrc, haddr]
    have hreach : Packet.reach q = q.data.length := by unfold Packet.reach; rw [hop]
    let u : State := { s with units := { s.units with mirrors := s.units.mirrors.erase (path, q) } }
    have hgone : u.units.mirrors = [] := by
      change s.units.mirrors.erase (path, q) = []
      rw [hmirrors, List.erase_cons_head]
    have hplain' : PlainBytes u q.addr (Packet.reach q) := by
      rw [hreach]
      exact hplain
    have hplace : place q.addr = .dram ∨ ∃ d, place q.addr = .dieSpad d := by
      obtain ⟨-, -, -, hpos, hall⟩ := hplain
      exact place_of_cacheable (hall 0 hpos).1
    obtain ⟨t, hserve, -, hunits, hwritten⟩ := serveMemory_write hplain' hplace hop
    obtain ⟨B, hanswer⟩ := answerMemory_run hserve
    refine ⟨posting { t with bad := B } [.packetForward (answerTo { t with bad := B } q (answerType q) .accepted [] false)],
      mirrorReport_takes hnow (mirrorReport_performs hfind ?_), ?_, hwritten⟩
    · unfold applyHeld
      rw [M.bind_ok (M.get_run u)]
      dsimp only
      rw [if_pos (by simpa using ⟨hpath, haway⟩)]
      exact (M.bind_ok hanswer).trans rfl
    · exact (mirrors_of_l2 hunits).trans hgone

/-! ## Actions that leave some of the state alone and do not stop the package -/

theorem ok_ne_error {ε σ α : Type} (a : α) (s t : σ) (e : ε) : EStateM.Result.ok a s ≠ EStateM.Result.error e t := nofun

theorem error_ne_error {ε σ α : Type} {e e' : ε} (h : e ≠ e') (s t : σ) :
    (EStateM.Result.error e s : EStateM.Result ε σ α) ≠ EStateM.Result.error e' t := fun heq => h (EStateM.Result.error.inj heq).1

/-- The action relates the state before it to the one that it leaves, and does not stop the package. -/
structure Quiet {α : Type} (R : State → State → Prop) (m : M α) : Prop where
  run : ∀ s, R s (leftBy m s)
  stop : ∀ s t f, m s ≠ .error (.stop f) t

namespace Quiet

variable {R : State → State → Prop} (hR : MemRel R) {α β : Type}
include hR

omit hR in
/-- An action that always completes. -/
theorem of_ok {m : M α} {a : State → α} {f : State → State} (h : ∀ s, m s = .ok (a s) (f s)) (hf : ∀ s, R s (f s)) : Quiet R m := by
  constructor
  · intro s
    unfold leftBy
    rw [h s]
    exact hf s
  · intro s t e
    rw [h s]
    exact ok_ne_error (a s) (f s) t (Exc.stop e)

theorem pure (a : α) : Quiet R (pure a : M α) := ⟨hR.refl, fun s t f => ok_ne_error a s t (Exc.stop f)⟩

theorem raise (c : BitVec 8) (v : Nat) : Quiet R (raise c v : M α) :=
  ⟨hR.refl, fun s t f => error_ne_error (e := Exc.trap c (BitVec.ofNat 64 v) none) (e' := Exc.stop f) nofun s t⟩

theorem raiseIf (b : Bool) (c : BitVec 8) (v : Nat) : Quiet R (raiseIf b c v) := by
  cases b
  · exact pure hR ()
  · exact raise hR c v

omit hR in
theorem modify {f : State → State} (hf : ∀ s, R s (f s)) : Quiet R (modify f : M PUnit) := of_ok (fun _ => rfl) hf

theorem bind {m : M α} {f : α → M β} (hm : Quiet R m) (hf : ∀ a, Quiet R (f a)) : Quiet R (m >>= f) := by
  constructor
  · intro s
    have h := hm.run s
    unfold leftBy at h ⊢
    simp only [Bind.bind, EStateM.bind]
    cases hms : m s with
    | ok a t =>
      rw [hms] at h
      exact hR.trans h ((hf a).run t)
    | error e t =>
      rw [hms] at h
      exact h
  · intro s t f
    simp only [Bind.bind, EStateM.bind]
    cases hms : m s with
    | ok a u => exact (hf a).stop u t f
    | error e u =>
      rintro h
      obtain ⟨rfl, rfl⟩ := EStateM.Result.error.inj h
      exact hm.stop s u f hms

omit hR in
/-- An action after a read of the state. -/
theorem get_bind {f : State → M β} (hf : ∀ s, R s (leftBy (f s) s)) (hstop : ∀ s t e, f s s ≠ .error (.stop e) t) :
    Quiet R ((MonadState.get : M State) >>= f) := ⟨hf, hstop⟩

omit hR in
theorem of_get {f : State → M β} (hf : ∀ s, Quiet R (f s)) : Quiet R ((MonadState.get : M State) >>= f) :=
  ⟨fun s => (hf s).run s, fun s => (hf s).stop s⟩

omit hR in
theorem set_get {f : State → State} (hf : ∀ s, R s (f s)) : Quiet R ((MonadState.get : M State) >>= fun s => set (f s)) := of_ok (fun _ => rfl) hf

omit hR in
theorem ite {c : Prop} [Decidable c] {m n : M α} (hm : Quiet R m) (hn : Quiet R n) : Quiet R (if c then m else n) := by
  split
  · exact hm
  · exact hn

theorem forIn {l : List α} {b : β} {f : α → β → M (ForInStep β)} (hf : ∀ a b, Quiet R (f a b)) : Quiet R (forIn l b f) := by
  induction l generalizing b with
  | nil => exact pure hR b
  | cons a l ih =>
    rw [List.forIn_cons]
    refine bind hR (hf a b) fun step => ?_
    cases step with
    | done b => exact pure hR b
    | yield b => exact ih

/-- A loop that only acts. -/
theorem loop {l : List α} {f : α → PUnit → M (ForInStep PUnit)} (hf : ∀ a b, Quiet R (f a b)) : Quiet R (Bind.bind (ForIn.forIn l PUnit.unit f) fun _ => Pure.pure ()) :=
  bind hR (forIn hR hf) fun _ => pure hR ()

theorem homeRead (a n : Nat) : Quiet R (homeRead a n) := 
  ⟨fun s => hR.recallRange s a n, fun s t f => ok_ne_error ((s.recallRange a n).bytesAt a n) (s.recallRange a n) t (Exc.stop f)⟩

theorem homeWrite (a : Nat) (bs : List Byte) : Quiet R (homeWrite a bs) :=
  ⟨fun s => hR.trans (hR.recallRange s a bs.length) (hR.homePut _ a bs),
    fun s t f => ok_ne_error () ((s.recallRange a bs.length).homePut a bs) t (Exc.stop f)⟩

theorem checkSectors (va a n : Nat) : Quiet R (checkSectors va a n) := by
  have hrun (s : State) : Machine.checkSectors va a n s = (s.firstBad a n).elim (.ok () s)
      fun x => .error (.trap x.1 (BitVec.ofNat 64 ((va + x.2) / 32 * 32)) none) s := by
    unfold Machine.checkSectors
    cases s.firstBad a n <;> rfl
  constructor
  · intro s
    unfold leftBy
    rw [hrun]
    cases s.firstBad a n <;> exact hR.refl s
  · intro s t f
    rw [hrun]
    cases s.firstBad a n with
    | none => exact ok_ne_error () s t (Exc.stop f)
    | some x => exact error_ne_error (e := Exc.trap x.1 (BitVec.ofNat 64 ((va + x.2) / 32 * 32)) none) (e' := Exc.stop f) nofun s t

theorem checkAtomicPlace (va p : Nat) : Quiet R (checkAtomicPlace va p) := by
  unfold Machine.checkAtomicPlace
  refine of_get fun s => ite (pure hR ()) ?_
  cases place (localOf p) with
  | window => exact raise hR ..
  | port => exact raise hR ..
  | aliasWindow => exact raise hR ..
  | reserved => exact raise hR ..
  | _ => exact pure hR ()

end Quiet

/-- A relation that holds across all that a path to memory does, windows and memory ports included. -/
structure PathRel (R : State → State → Prop) : Prop extends MemRel R where
  strand : ∀ (s : State) n t, R s (s.withStrand n t)
  cur : ∀ (s : State) n, R s { s with cur := n }
  trace : ∀ (s : State) c r n, R s (s.withCore c { s.core c with ring := r, traced := n })
  countCore : ∀ (s : State) c code n, R s (s.countCore c code n)

namespace Quiet

variable {R : State → State → Prop} (hR : PathRel R) {α : Type}
include hR

theorem asStrand {n : Nat} {m : M α} (hm : Quiet R m) : Quiet R (asStrand n m) := by
  constructor
  · intro s
    have h := hm.run { s with cur := n }
    unfold leftBy Machine.asStrand at *
    cases hms : m { s with cur := n } with
    | ok a t =>
      rw [hms] at h
      exact hR.trans (hR.trans (hR.cur s n) h) (hR.cur t s.cur)
    | error e t =>
      rw [hms] at h
      exact hR.trans (hR.trans (hR.cur s n) h) (hR.cur t s.cur)
  · intro s t f
    unfold Machine.asStrand
    cases hms : m { s with cur := n } with
    | ok a u => exact ok_ne_error a { u with cur := s.cur } t (Exc.stop f)
    | error e u =>
      refine error_ne_error ?_ { u with cur := s.cur } t
      rintro rfl
      exact hm.stop _ u f hms

theorem setStrand (n : Nat) (t : Strand) : Quiet R (setStrand n t) := of_ok (fun _ => rfl) fun s => hR.strand s n t

theorem modSelf (f : Strand → Strand) : Quiet R (modSelf f) := of_ok (fun _ => rfl) fun s => hR.strand s s.cur (f s.self)

theorem portWrite (core off : Nat) (bs : List Byte) (src : BitVec 28) (path : Nat) : Quiet R (portWrite core off bs src path) := by
  unfold Machine.portWrite
  refine of_get fun s => loop hR.toMemRel fun p _ => ?_
  split
  · exact bind hR.toMemRel (of_ok (fun _ => rfl) fun u => hR.trace u core _ _) fun _ =>
      bind hR.toMemRel (homeWrite hR.toMemRel ..) fun _ => pure hR.toMemRel _
  · exact bind hR.toMemRel (homeWrite hR.toMemRel ..) fun _ => pure hR.toMemRel _

theorem pathWrite (a : Nat) (bs : List Byte) (src : BitVec 28) (path : Nat) : Quiet R (pathWrite a bs src path) := by
  unfold Machine.pathWrite
  refine loop hR.toMemRel fun p _ => ?_
  split
  · exact bind hR.toMemRel (portWrite hR ..) fun _ => pure hR.toMemRel _
  · exact bind hR.toMemRel (homeWrite hR.toMemRel ..) fun _ => pure hR.toMemRel _

theorem applyDeposit (n i k : Nat) (r : Reg) : Quiet R (applyDeposit n i k r) := by
  unfold Machine.applyDeposit
  refine bind hR.toMemRel (of_ok (fun _ => rfl) hR.refl) fun t => bind hR.toMemRel (setStrand hR ..) fun _ => ?_
  split
  · exact modify fun s => hR.countCore s (coreOf n) 7 1
  · exact pure hR.toMemRel ()

theorem drainOwn (w : WindowSlot) : Quiet R (drainOwn w) := by
  unfold Machine.drainOwn
  refine bind hR.toMemRel (of_ok (fun _ => rfl) hR.refl) fun n => ?_
  cases w with
  | reg => exact ite (modSelf hR _) (pure hR.toMemRel _)
  | frame => exact ite (modSelf hR _) (pure hR.toMemRel _)
  | _ => exact pure hR.toMemRel _

theorem windowRead (core off n va : Nat) : Quiet R (windowRead core off n va) := by
  unfold Machine.windowRead
  refine bind hR.toMemRel (raiseIf hR.toMemRel ..) fun _ => bind hR.toMemRel (drainOwn hR _) fun _ => of_get fun s => ?_
  cases windowSlot core off with
  | frame b k => exact ite (pure hR.toMemRel _) (ite (raise hR.toMemRel ..) (pure hR.toMemRel _))
  | _ => exact pure hR.toMemRel _

theorem windowWrite (core off n va : Nat) (r : Reg) : Quiet R (windowWrite core off n va r) := by
  have hwake := modify (R := R) fun s => hR.wakeAt s (windowAddr core off)
  have hwrite (s : State) (b i k : Nat) (x y : Reg) : Quiet R (if b = s.cur then Machine.setStrand b { (s.strand b).deposit i x with wake := true }
      else Machine.applyDeposit b i k y) := ite (setStrand hR ..) (applyDeposit hR ..)
  unfold Machine.windowWrite
  refine bind hR.toMemRel (raiseIf hR.toMemRel ..) fun _ => bind hR.toMemRel (drainOwn hR _) fun _ => of_get fun s => ?_
  cases windowSlot core off with
  | reg b i => exact ite (bind hR.toMemRel (hwrite ..) fun _ => hwake) hwake
  | frame b k => exact ite hwake (ite (bind hR.toMemRel (raise hR.toMemRel ..) fun _ => hwake) (bind hR.toMemRel (hwrite ..) fun _ => hwake))
  | _ => exact hwake

theorem pathRead (va a n : Nat) : Quiet R (pathRead va a n) := by
  have hplain : Quiet R (do
      Machine.checkSectors va a n
      Machine.homeRead a n) := bind hR.toMemRel (checkSectors hR.toMemRel ..) fun _ => homeRead hR.toMemRel ..
  unfold Machine.pathRead
  cases place a with
  | window => exact bind hR.toMemRel (windowRead hR ..) fun _ => pure hR.toMemRel _
  | port => exact raise hR.toMemRel ..
  | aliasWindow => exact raise hR.toMemRel ..
  | reserved => exact raise hR.toMemRel ..
  | _ => exact hplain

theorem pathDeliver (va a : Nat) (bs : List Byte) (src : BitVec 28) (path : Nat) : Quiet R (pathDeliver va a bs src path) := by
  have hplain : Quiet R (do
      let _ ← Machine.homeRead a bs.length
      Machine.pathWrite a bs src path) := bind hR.toMemRel (homeRead hR.toMemRel ..) fun _ => pathWrite hR ..
  unfold Machine.pathDeliver
  cases place a with
  | window => exact asStrand hR (windowWrite hR ..)
  | port => exact raise hR.toMemRel ..
  | aliasWindow => exact raise hR.toMemRel ..
  | reserved => exact raise hR.toMemRel ..
  | _ => exact hplain

theorem homeCombine (a op kind k y : Nat) : Quiet R (homeCombine a op kind k y) := modify fun s => hR.homePut s a _

theorem combineAt (a op kind k y : Nat) (src : BitVec 28) (path : Nat) : Quiet R (combineAt a op kind k y src path) := by
  unfold Machine.combineAt
  refine of_get fun s => ?_
  split
  · exact portWrite hR ..
  · exact homeCombine hR ..

theorem applyWrite (pk : Packet) : Quiet R (applyWrite pk) := by
  have hplain : Quiet R (do
      let _ ← Machine.homeRead pk.addr pk.data.length
      Machine.pathWrite pk.addr pk.data pk.src 5
      let s ← get
      if pk.tag && s.badAt pk.addr = 0 then set (s.putTag pk.addr true) else Pure.pure ()) := by
    refine bind hR.toMemRel (homeRead hR.toMemRel ..) fun _ => bind hR.toMemRel (pathWrite hR ..) fun _ => ?_
    refine of_ok (a := fun _ => ()) (f := fun s => if pk.tag && s.badAt pk.addr = 0 then s.putTag pk.addr true else s) (fun s => ?_) fun s => ?_
    · change (if _ then set _ else Pure.pure () : M Unit) s = _
      split <;> rfl
    · exact hR.ite (hR.tag s _ _) (hR.refl s)
  unfold Machine.applyWrite
  cases pk.op with
  | amou => exact combineAt hR ..
  | _ => exact hplain

theorem serveRmw (pk : Packet) (k : Nat) (f : Nat → Option Nat) : Quiet R (serveRmw pk k f) := by
  unfold Machine.serveRmw
  refine of_get fun s => bind hR.toMemRel (checkAtomicPlace hR.toMemRel ..) fun _ => bind hR.toMemRel (checkSectors hR.toMemRel ..) fun _ =>
    bind hR.toMemRel (homeRead hR.toMemRel ..) fun bs => ?_
  dsimp only
  cases f (leNat bs) with
  | none => exact pure hR.toMemRel _
  | some v => exact bind hR.toMemRel (pathWrite hR ..) fun _ => pure hR.toMemRel _

theorem serveFuture (pk : Packet) (fill : Option Word) : Quiet R (serveFuture pk fill) := by
  unfold Machine.serveFuture
  refine of_get fun s => bind hR.toMemRel (checkAtomicPlace hR.toMemRel ..) fun _ => bind hR.toMemRel (checkSectors hR.toMemRel ..) fun _ =>
    bind hR.toMemRel (homeRead hR.toMemRel ..) fun bs => ?_
  cases fill with
  | none => exact pure hR.toMemRel _
  | some v => exact ite (pure hR.toMemRel _) (bind hR.toMemRel (pathWrite hR ..) fun _ => pure hR.toMemRel _)

theorem performRegion {put : Nat → List Byte → M Unit} (hput : ∀ a bs, Quiet R (put a bs)) (loads : List (Nat × Nat))
    (guards stores : List (Nat × List Byte)) : Quiet R (performRegion loads guards stores put) := by
  unfold Machine.performRegion
  refine of_get fun s => ?_
  dsimp only
  split
  · exact bind hR.toMemRel (forIn hR.toMemRel fun p _ => bind hR.toMemRel (hput ..) fun _ => pure hR.toMemRel _) fun _ => pure hR.toMemRel _
  · exact bind hR.toMemRel (pure hR.toMemRel _) fun _ => pure hR.toMemRel _

theorem serveRegion (pk : Packet) (loads : List (Nat × Nat)) (guards stores : List (Nat × List Byte)) :
    Quiet R (serveRegion pk loads guards stores) := by
  unfold Machine.serveRegion
  exact of_get fun s => bind hR.toMemRel (checkAtomicPlace hR.toMemRel ..) fun _ => bind hR.toMemRel (checkSectors hR.toMemRel ..) fun _ =>
    bind hR.toMemRel (homeRead hR.toMemRel ..) fun _ => bind hR.toMemRel (performRegion hR (fun p bs => pathWrite hR ..) ..) fun _ =>
      pure hR.toMemRel _

theorem serveMemory (pk : Packet) : Quiet R (serveMemory pk) := by
  have plain {m : M PacketOp} (hm : Quiet R m) : Quiet R (do
      let op ← m
      Pure.pure (op, ([] : List Byte), false)) := bind hR.toMemRel hm fun _ => pure hR.toMemRel _
  have hwrite : Quiet R (do
      match place pk.addr with
      | .window .. => Machine.pathDeliver pk.addr pk.addr pk.data pk.src 5
      | .port _ => Machine.raise cPerm pk.addr
      | .aliasWindow _ => Machine.raise cPerm pk.addr
      | .reserved => Machine.raise cXlat pk.addr
      | _ => Machine.applyWrite pk
      Pure.pure PacketOp.accepted) := by
    cases place pk.addr with
    | window => exact bind hR.toMemRel (pathDeliver hR ..) fun _ => pure hR.toMemRel _
    | port => exact bind hR.toMemRel (raise hR.toMemRel ..) fun _ => pure hR.toMemRel _
    | aliasWindow => exact bind hR.toMemRel (raise hR.toMemRel ..) fun _ => pure hR.toMemRel _
    | reserved => exact bind hR.toMemRel (raise hR.toMemRel ..) fun _ => pure hR.toMemRel _
    | _ => exact bind hR.toMemRel (applyWrite hR pk) fun _ => pure hR.toMemRel _
  unfold Machine.serveMemory
  refine of_get fun s => ?_
  dsimp only
  cases pk.op with
  | read n => exact bind hR.toMemRel (pathRead hR ..) fun _ => pure hR.toMemRel _
  | amo => exact plain (serveRmw hR ..)
  | cas => exact plain (serveRmw hR ..)
  | frd => exact plain (serveFuture hR ..)
  | fwr => exact plain (serveFuture hR ..)
  | region => exact plain (serveRegion hR ..)
  | amou => exact plain (bind hR.toMemRel (checkAtomicPlace hR.toMemRel ..) fun _ => bind hR.toMemRel (checkSectors hR.toMemRel ..) fun _ =>
      bind hR.toMemRel (applyWrite hR pk) fun _ => pure hR.toMemRel _)
  | _ => exact plain hwrite

end Quiet

/-! ## Alarms -/

theorem interrupt_interrupt (t : Strand) (c : BitVec 8) (v : Word) : (t.interrupt c v).interrupt c v = t.interrupt c v := by
  unfold Strand.interrupt Strand.takeable
  simp [List.filter_append, Bool.or_assoc]

theorem interrupt_ne_idle (t : Strand) (c : BitVec 8) (v : Word) : t.interrupt c v ≠ Strand.idle := by
  intro h
  have hpending := congrArg Strand.pending h
  simp [Strand.interrupt, Strand.idle] at hpending

/-- Some strands have been interrupted. -/
structure Alerted (p : Nat → Prop) (c : BitVec 8) (v : Word) (s t : State) : Prop where
  hit : ∀ b, p b → t.strand b = (s.strand b).interrupt c v
  spared : ∀ b, ¬p b → t.strand b = s.strand b
  running : ∀ b, b ∈ t.running ↔ b ∈ s.running
  rest : ∃ X V, t = { s with strands := X, units := { s.units with vault := V } }

namespace Alerted

variable {p q : Nat → Prop} {c : BitVec 8} {v : Word} {s t : State}

theorem refl (s : State) : Alerted (fun _ => False) c v s s := ⟨nofun, fun _ _ => rfl, fun _ => Iff.rfl, _, _, rfl⟩

theorem congr (h : Alerted p c v s t) (hpq : ∀ b, p b ↔ q b) : Alerted q c v s t :=
  ⟨fun b hb => h.hit b ((hpq b).mpr hb), fun b hb => h.spared b fun hp => hb ((hpq b).mp hp), h.running, h.rest⟩

theorem jobOf (h : Alerted p c v s t) (b : Nat) : t.jobOf b = s.jobOf b := by
  obtain ⟨X, V, rfl⟩ := h.rest
  rfl

theorem vault (h : Alerted p c v s t) (V : List VaultEntry) : Alerted p c v s { t with units := { t.units with vault := V } } := by
  obtain ⟨hhit, hspared, hrun, X, W, rfl⟩ := h
  exact ⟨hhit, hspared, hrun, X, V, rfl⟩

/-- One more strand is interrupted. -/
theorem strand (h : Alerted p c v s t) (n : Nat) : Alerted (fun b => p b ∨ b = n) c v s (t.withStrand n ((t.strand n).interrupt c v)) := by
  refine ⟨fun b hb => ?_, fun b hb => ?_, fun b => ?_, ?_⟩
  · by_cases hbn : b = n
    · subst hbn
      rw [State.strand_withStrand_same]
      by_cases hp : p b
      · rw [h.hit b hp, interrupt_interrupt]
      · rw [h.spared b hp]
    · rw [State.strand_withStrand_ne _ _ _ _ hbn, h.hit b (hb.resolve_right hbn)]
  · rw [State.strand_withStrand_ne _ _ _ _ fun hbn => hb (.inr hbn)]
    exact h.spared b fun hp => hb (.inl hp)
  · rw [mem_running_withStrand (s := t) (sid := n) (t := (t.strand n).interrupt c v) rfl (.inr (interrupt_ne_idle (t.strand n) c v)), h.running]
  · obtain ⟨X, V, hrest⟩ := h.rest
    refine ⟨(t.withStrand n ((t.strand n).interrupt c v)).strands, V, ?_⟩
    subst hrest
    rfl

/-- The strands of a job in a list are interrupted. -/
theorem job (h : Alerted p c v s t) (j : Nat) (l : List Nat) (S : State) (hS : ∀ b, S.jobOf b = s.jobOf b) :
    ∃ u, forIn l PUnit.unit (fun b _ => (if S.jobOf b = j then do
        modStrand b fun t => t.interrupt c v
        pure (.yield ⟨⟩)
      else pure (.yield ⟨⟩) : M (ForInStep PUnit))) t = .ok ⟨⟩ u ∧ Alerted (fun b => p b ∨ b ∈ l ∧ s.jobOf b = j) c v s u := by
  induction l generalizing p t with
  | nil => exact ⟨t, rfl, h.congr fun b => by simp⟩
  | cons n l ih =>
    by_cases hj : S.jobOf n = j
    · obtain ⟨u, hu, hal⟩ := ih (h.strand n)
      refine ⟨u, ?_, hal.congr fun b => ?_⟩
      · rw [List.forIn_cons, if_pos hj]
        exact hu
      · rw [hS] at hj
        rw [List.mem_cons]
        constructor
        · rintro ((hp | rfl) | ⟨hb, hbj⟩)
          exacts [.inl hp, .inr ⟨.inl rfl, hj⟩, .inr ⟨.inr hb, hbj⟩]
        · rintro (hp | ⟨rfl | hb, hbj⟩)
          exacts [.inl (.inl hp), .inl (.inr rfl), .inr ⟨hb, hbj⟩]
    · obtain ⟨u, hu, hal⟩ := ih h
      refine ⟨u, ?_, hal.congr fun b => ?_⟩
      · rw [List.forIn_cons, if_neg hj]
        exact hu
      · rw [hS] at hj
        rw [List.mem_cons]
        constructor
        · rintro (hp | ⟨hb, hbj⟩)
          exacts [.inl hp, .inr ⟨.inr hb, hbj⟩]
        · rintro (hp | ⟨rfl | hb, hbj⟩)
          exacts [.inl hp, absurd hbj hj, .inr ⟨hb, hbj⟩]

theorem interruptJob (h : Alerted p c v s t) (j : Nat) :
    ∃ u, interruptJob j c v t = .ok () u ∧ Alerted (fun b => p b ∨ b ∈ s.running ∧ s.jobOf b = j) c v s u := by
  obtain ⟨u, hu, hal⟩ := h.job j t.running t h.jobOf
  refine ⟨_, (M.bind_ok (M.get_run t)).trans (M.bind_ok hu), ?_⟩
  exact (hal.congr fun b => by rw [h.running]).vault _

theorem interruptJobs (h : Alerted p c v s t) (js : List Nat) :
    ∃ u, forIn js PUnit.unit (fun j _ => (do
        Machine.interruptJob j c v
        pure (.yield ⟨⟩) : M (ForInStep PUnit))) t = .ok ⟨⟩ u ∧ Alerted (fun b => p b ∨ b ∈ s.running ∧ s.jobOf b ∈ js) c v s u := by
  induction js generalizing p t with
  | nil => exact ⟨t, rfl, h.congr fun b => by simp⟩
  | cons j js ih =>
    obtain ⟨u, hu, hal⟩ := h.interruptJob j
    obtain ⟨w, hw, hal'⟩ := ih hal
    refine ⟨w, ?_, hal'.congr fun b => ?_⟩
    · have hstep : (do
          Machine.interruptJob j c v
          pure (.yield ⟨⟩) : M (ForInStep PUnit)) t = .ok (.yield ⟨⟩) u := (M.bind_ok hu).trans rfl
      rw [List.forIn_cons, M.bind_ok hstep]
      exact hw
    · rw [List.mem_cons]
      tauto

end Alerted

/-! ## Lost packages -/

theorem mem_of_lookupD_ne {α : Type} {d : α} {m : SMap α} {k : Nat} (h : lookupD d m k ≠ d) : (k, lookupD d m k) ∈ m := by
  induction m with
  | nil => exact absurd rfl h
  | cons e m ih =>
    obtain ⟨a, v⟩ := e
    unfold lookupD at h ⊢
    split
    · subst ‹k = a›
      exact List.mem_cons_self
    · rw [if_neg ‹_›] at h
      exact List.mem_cons_of_mem _ (ih h)

/-- With no word of other packages, every job of a colony is shared. -/
theorem jobOf_mem_sharedJobs {s : State} {b : Nat} (h : s.jobOf b ≠ 0) (hterms : s.units.remoteTerms = []) (pkg : Nat) : s.jobOf b ∈ s.sharedJobs pkg := by
  unfold State.jobOf at h ⊢
  cases hc : s.colony (s.colonyOf b) with
  | none => rw [hc] at h; exact absurd rfl h
  | some c =>
    rw [hc] at h
    have hmem := mem_of_lookupD_ne (d := none) (m := s.units.colonies) (k := s.colonyOf b) (by
      change s.colony (s.colonyOf b) ≠ none
      rw [hc]
      nofun)
    change (_, s.colony (s.colonyOf b)) ∈ _ at hmem
    rw [hc] at hmem
    unfold State.sharedJobs
    rw [hterms]
    dsimp only
    rw [if_pos (by rfl), List.mem_eraseDups, List.mem_filterMap]
    exact ⟨_, hmem, by dsimp only; rw [if_neg h]⟩

/-- Runs the notices to the peers of a lost package. -/
theorem notices_run (s : State) (f : Nat → Packet) (c : Nat → Bool) (l : List Nat) (u : State) : ∃ A,
    forIn l PUnit.unit (fun q _ => (if c q then pure (.yield ⟨⟩) else do
      sendPacket (f q)
      pure (.yield ⟨⟩) : M (ForInStep PUnit))) u = .ok ⟨⟩ { u with agenda := A } := by
  induction l generalizing u with
  | nil => exact ⟨u.agenda, rfl⟩
  | cons q l ih =>
    by_cases hc : c q
    · obtain ⟨A, hA⟩ := ih u
      exact ⟨A, by rw [List.forIn_cons, if_pos hc]; exact hA⟩
    · obtain ⟨A, hA⟩ := ih { u with agenda := u.agenda ++ [.packetForward (f q)] }
      exact ⟨A, by rw [List.forIn_cons, if_neg hc]; exact hA⟩

/-- What a package that is lost leaves behind in the end: its requests, and a mirror's writes. -/
def loseRequests (pkg : Nat) : M Unit := do
  let s ← get
  let rs := s.units.requests.filter fun r => r.packet.dst = pkg
  set { s with units := { s.units with requests := s.units.requests.filter fun r => r.packet.dst ≠ pkg } }
  for r in rs do
    loseRequest r
  if pkg = s.pkg ^^^ 1 then do
    let s ← get
    set { s with units := { s.units with mirrors := [] } }
    for q in s.units.mirrors do
      if q.2.mr then pure () else applyHeld q
  else pure ()

theorem markLost_known {s : State} {pkg : Nat} (h : pkg ∈ s.units.lost ∨ pkg = s.pkg) : markLost pkg s = .ok () s := by
  unfold markLost
  rw [M.bind_ok (M.get_run s), if_pos (by simpa using h)]
  rfl

/-- The state in which a package has just been marked lost. -/
def markedLost (s : State) (pkg : Nat) : State := { s with units := { s.units with
  lost := s.units.lost ++ [pkg]
  lostJobs := s.units.lostJobs ++ (s.sharedJobs pkg).map fun j => (pkg, j)
  probes := s.units.probes.filter fun p => p.1 ≠ pkg } }

theorem withTerms_self {u : State} {m : SMap Nat} (h : u.units.remoteTerms = m) : { u with units := { u.units with remoteTerms := m } } = u := by
  rw [← h]

section Marking
variable {s : State} {pkg : Nat} (hnew : pkg ∉ s.units.lost) (hother : pkg ≠ s.pkg) (hreds : s.units.reductions = [])
  (hterms : s.units.remoteTerms = []) (hdies : s.dies = [])
include hnew hother hreds hterms hdies

theorem markLost_run : ∃ A u, markLost pkg s = loseRequests pkg u ∧
    Alerted (fun b => b ∈ s.running ∧ s.jobOf b ∈ s.sharedJobs pkg) cPeerDown (BitVec.ofNat 64 pkg) { markedLost s pkg with agenda := A } u := by
  have hmarked : markLost pkg s = (do
      set (markedLost s pkg)
      for q in ((s.sharedJobs pkg).flatMap s.jobPeers).eraseDups do
        if q = pkg || s.units.lost.contains q then pure ()
        else sendPacket { requestPacket s (q * 2 ^ 41) 12 3 0 (.peerDown pkg) [] false with dst := q }
      for j in s.sharedJobs pkg do
        interruptJob j cPeerDown (BitVec.ofNat 64 pkg)
      endReductions pkg (s.sharedJobs pkg)
      dropTerms pkg
      breakSlots pkg
      loseRequests pkg : M Unit) s := by
    unfold markLost
    rw [M.bind_ok (M.get_run s), if_neg (by simpa using ⟨hnew, hother⟩)]
    rfl
  obtain ⟨A, hA⟩ := notices_run s (fun q => { requestPacket s (q * 2 ^ 41) 12 3 0 (.peerDown pkg) [] false with dst := q })
    (fun q => q = pkg || s.units.lost.contains q) ((s.sharedJobs pkg).flatMap s.jobPeers).eraseDups (markedLost s pkg)
  obtain ⟨u, hu, hal⟩ := (Alerted.refl (c := cPeerDown) (v := BitVec.ofNat 64 pkg) { markedLost s pkg with agenda := A }).interruptJobs
    (s.sharedJobs pkg)
  refine ⟨A, u, ?_, hal.congr fun b => by simp only [false_or]; rfl⟩
  obtain ⟨X, V, hrest⟩ := hal.rest
  have hreds' : u.units.reductions = [] := by rw [hrest]; exact hreds
  have hterms' : u.units.remoteTerms = [] := by rw [hrest]; exact hterms
  have hdies' : u.dies = [] := by rw [hrest]; exact hdies
  have hend : endReductions pkg (s.sharedJobs pkg) u = .ok () u := by
    unfold endReductions
    rw [M.bind_ok (M.get_run u), hreds']
    rfl
  have hdrop : dropTerms pkg u = .ok () u := by
    unfold dropTerms
    rw [M.bind_ok (M.get_run u), hterms']
    exact congrArg (EStateM.Result.ok ()) (withTerms_self hterms')
  have hbreak : breakSlots pkg u = .ok () u := by
    unfold breakSlots
    rw [M.bind_ok (M.get_run u), hdies']
    rfl
  rw [hmarked]
  exact (M.bind_ok (M.set_run _ _)).trans ((M.bind_ok hA).trans ((M.bind_ok hu).trans ((M.bind_ok hend).trans ((M.bind_ok hdrop).trans (M.bind_ok hbreak)))))

end Marking

end Sys2Proof.Claims
end

section
/-! SUPPORT. Answers, and the ends of requests to lost packages (R404, R407, R408, R420). -/

namespace Sys2Proof.Claims

open Sys2Proof.Machine

/-- An event's action that does not stop the package. -/
theorem runEvent_leftBy {m : M Unit} {s : State} (h : ∀ t f, m s ≠ .error (.stop f) t) : runEvent m s = .next (leftBy m s) := by
  unfold runEvent finishM leftBy
  cases hm : m s with
  | ok _ t => rfl
  | error e t =>
    cases e with
    | stop f => exact absurd hm (h t f)
    | _ => rfl

/-! ## What stays as it is while requests are lost -/

/-- Requests and lost packages are as before. -/
def SamePeers (s t : State) : Prop := t.units.lost = s.units.lost ∧ t.units.requests = s.units.requests

theorem SamePeers.of_eq {s t : State} {x : PackageState} (h : t.units = x) (hlost : x.lost = s.units.lost) (hreq : x.requests = s.units.requests) :
    SamePeers s t := by
  unfold SamePeers
  rw [h]
  exact ⟨hlost, hreq⟩

theorem samePeers_refl (s : State) : SamePeers s s := ⟨rfl, rfl⟩

theorem samePeers_units {s t : State} (h : t.units = s.units) : SamePeers s t := by
  unfold SamePeers
  rw [h]
  exact ⟨rfl, rfl⟩

theorem pathRel_samePeers : PathRel SamePeers where
  refl := samePeers_refl
  trans h h' := ⟨h'.1.trans h.1, h'.2.trans h.2⟩
  byte _ _ _ := samePeers_units rfl
  tag _ _ _ := samePeers_units rfl
  bad _ _ := samePeers_units rfl
  wake _ _ := samePeers_units rfl
  l2 s a n := by
    unfold State.l2Put
    dsimp only
    split
    · exact samePeers_refl s
    · exact ⟨rfl, rfl⟩
  count _ _ _ := ⟨rfl, rfl⟩
  unregister s line := by
    unfold State.unregister
    split
    · exact samePeers_refl s
    · exact ⟨rfl, rfl⟩
  clean _ _ _ := samePeers_units rfl
  drop _ _ _ := samePeers_units rfl
  refetch _ _ := samePeers_units rfl
  strand _ _ _ := samePeers_units rfl
  cur _ _ := samePeers_units rfl
  trace _ _ _ _ := samePeers_units rfl
  countCore _ _ _ _ := samePeers_units rfl

theorem quiet_modStrandOrSaved (n : Nat) (f : Strand → Strand) : Quiet SamePeers (modStrandOrSaved n f) := by
  refine Quiet.modify fun s => ?_
  split
  · exact samePeers_units rfl
  · exact ⟨rfl, rfl⟩

theorem quiet_answerPut (r : Request) (op : PacketOp) : Quiet SamePeers (answerPut r op) := by
  unfold answerPut
  cases failureOf op with
  | some c => exact Quiet.of_get fun s => quiet_modStrandOrSaved ..
  | none => exact Quiet.modify fun s => pathRel_samePeers.wakeLine s _

theorem quiet_loseRequest {r : Request} (h : r.use = .put) : Quiet SamePeers (loseRequest r) := by
  have hend (op : PacketOp) : Quiet SamePeers (endRequest r op [] false) := by
    unfold endRequest
    rw [h]
    exact quiet_answerPut r op
  unfold loseRequest
  refine Quiet.of_get fun s => Quiet.ite (hend _) ?_
  rw [h]
  exact hend _

theorem quiet_sendPacket (pk : Packet) : Quiet SamePeers (sendPacket pk) := Quiet.modify fun _ => samePeers_units rfl

theorem quiet_answerWith (pk : Packet) (ty : Nat) (op : PacketOp) (data : List Byte) (tag : Bool) : Quiet SamePeers (answerWith pk ty op data tag) :=
  Quiet.of_get fun _ => quiet_sendPacket _

theorem quiet_markWrong (pk : Packet) : Quiet SamePeers (markWrong pk) :=
  Quiet.loop pathRel_samePeers.toMemRel fun _ _ =>
    Quiet.bind pathRel_samePeers.toMemRel (Quiet.modify fun _ => samePeers_units rfl) fun _ => Quiet.pure pathRel_samePeers.toMemRel _

theorem quiet_answered (pk : Packet) (op : PacketOp) (data : List Byte) (tag : Bool) : Quiet SamePeers (do
    if pk.ty = 0 then markWrong pk else pure ()
    answerWith pk (answerType pk) op data tag
    pure true : M Bool) := by
  have hrest : Quiet SamePeers (do
      answerWith pk (answerType pk) op data tag
      pure true : M Bool) := Quiet.bind pathRel_samePeers.toMemRel (quiet_answerWith ..) fun _ => Quiet.pure pathRel_samePeers.toMemRel _
  exact Quiet.ite (Quiet.bind pathRel_samePeers.toMemRel (quiet_markWrong pk) fun _ => hrest) hrest

theorem quiet_refused (pk : Packet) (op : PacketOp) : Quiet SamePeers (do
    answerWith pk 7 op [] false
    pure false : M Bool) := Quiet.bind pathRel_samePeers.toMemRel (quiet_answerWith ..) fun _ => Quiet.pure pathRel_samePeers.toMemRel _

theorem answerMemory_ok {pk : Packet} {s t : State} {op : PacketOp} {data : List Byte} {tag : Bool}
    (h : serveMemory pk s = .ok (op, data, tag) t) : answerMemory pk s = (do
      if pk.ty = 0 then markWrong pk else pure ()
      answerWith pk (answerType pk) op data tag
      pure true : M Bool) t := M.bind_ok (attempt_ok h)

theorem answerMemory_error {pk : Packet} {s t : State} {e : Exc} (h : serveMemory pk s = .error e t) (hstop : ∀ f, e ≠ .stop f) :
    answerMemory pk s = (do
      answerWith pk 7 (faultAnswer pk.addr e) [] false
      pure false : M Bool) (s.undo t) := by
  have hattempt : attempt (serveMemory pk) s = .ok (.error e) (s.undo t) := by
    unfold attempt
    rw [h]
  refine (M.bind_ok hattempt).trans ?_
  cases e with
  | stop f => exact absurd rfl (hstop f)
  | _ => rfl

/-- How a quiet action ends. -/
theorem Quiet.ends {R : State → State → Prop} {α : Type} {m : M α} (h : Quiet R m) (s : State) :
    (∃ a t, m s = .ok a t ∧ R s t) ∨ ∃ e t, m s = .error e t ∧ R s t ∧ ∀ f, e ≠ .stop f := by
  have hrun := h.run s
  unfold leftBy at hrun
  cases hm : m s with
  | ok a t => exact .inl ⟨a, t, rfl, by rwa [hm] at hrun⟩
  | error e t => exact .inr ⟨e, t, rfl, by rwa [hm] at hrun, fun f he => h.stop s t f (he ▸ hm)⟩

/-- An action that runs on as a quiet one. -/
theorem Quiet.of_runs {R : State → State → Prop} (hR : MemRel R) {α : Type} {m : M α}
    (h : ∀ s, ∃ u, R s u ∧ ∃ m' : M α, Quiet R m' ∧ m s = m' u) : Quiet R m := by
  constructor
  · intro s
    obtain ⟨u, hsu, m', hm, heq⟩ := h s
    unfold leftBy
    rw [heq]
    exact hR.trans hsu (hm.run u)
  · intro s t f
    obtain ⟨u, -, m', hm, heq⟩ := h s
    rw [heq]
    exact hm.stop u t f

theorem quiet_answerMemory (pk : Packet) : Quiet SamePeers (answerMemory pk) := by
  refine Quiet.of_runs pathRel_samePeers.toMemRel fun s => ?_
  rcases (Quiet.serveMemory pathRel_samePeers pk).ends s with ⟨x, t, h, hst⟩ | ⟨e, t, h, -, hstop⟩
  · exact ⟨t, hst, _, quiet_answered pk x.1 x.2.1 x.2.2, answerMemory_ok h⟩
  · exact ⟨s.undo t, ⟨rfl, rfl⟩, _, quiet_refused pk (faultAnswer pk.addr e), answerMemory_error h hstop⟩

theorem quiet_applyHeld (e : Nat × Packet) : Quiet SamePeers (applyHeld e) := by
  unfold applyHeld
  refine Quiet.of_get fun s => Quiet.ite ?_ ?_
  · exact Quiet.bind pathRel_samePeers.toMemRel (quiet_answerMemory e.2) fun _ => Quiet.pure pathRel_samePeers.toMemRel _
  · refine Quiet.bind pathRel_samePeers.toMemRel (Quiet.homeRead pathRel_samePeers.toMemRel ..) fun _ =>
      Quiet.bind pathRel_samePeers.toMemRel (Quiet.pathWrite pathRel_samePeers ..) fun _ => Quiet.of_get fun u => Quiet.loop pathRel_samePeers.toMemRel fun x _ => ?_
    split
    · exact Quiet.pure pathRel_samePeers.toMemRel _
    · exact Quiet.bind pathRel_samePeers.toMemRel (Quiet.modify fun _ => samePeers_units rfl) fun _ => Quiet.pure pathRel_samePeers.toMemRel _

/-! ## The requests of a lost package -/

/-- The state without the requests to a package. -/
def withoutRequests (s : State) (pkg : Nat) : State :=
  { s with units := { s.units with requests := s.units.requests.filter fun r => r.packet.dst ≠ pkg } }

/-- The last part of marking a package lost: its requests end. -/
def endLost (pkg : Nat) (rs : List Request) (second : Bool) : M Unit := do
  for r in rs do
    loseRequest r
  if second then do
    let s ← get
    set { s with units := { s.units with mirrors := [] } }
    for q in s.units.mirrors do
      if q.2.mr then pure () else applyHeld q
  else pure ()

theorem loseRequests_eq (pkg : Nat) (s : State) :
    loseRequests pkg s = endLost pkg (s.units.requests.filter fun r => r.packet.dst = pkg) (pkg = s.pkg ^^^ 1) (withoutRequests s pkg) := by
  unfold loseRequests endLost
  simp only [decide_eq_true_eq]
  rfl

theorem quiet_endLost {pkg : Nat} {rs : List Request} (hrs : ∀ r ∈ rs, r.use = .put) (second : Bool) : Quiet SamePeers (endLost pkg rs second) := by
  have hR := pathRel_samePeers.toMemRel
  have hloop : Quiet SamePeers (forIn rs PUnit.unit fun r _ => (do
      loseRequest r
      pure (.yield ⟨⟩) : M (ForInStep PUnit))) := by
    induction rs with
    | nil => exact Quiet.pure hR _
    | cons r rs ih =>
      rw [List.forIn_cons]
      refine Quiet.bind hR (Quiet.bind hR (quiet_loseRequest (hrs r List.mem_cons_self)) fun _ => Quiet.pure hR (ForInStep.yield PUnit.unit)) fun step => ?_
      cases step with
      | done b => exact Quiet.pure hR b
      | yield b => exact ih fun q hq => hrs q (List.mem_cons_of_mem r hq)
  unfold endLost
  refine Quiet.bind hR hloop fun _ => Quiet.ite ?_ (Quiet.pure hR _)
  refine Quiet.of_runs hR fun s => ⟨{ s with units := { s.units with mirrors := [] } }, ⟨rfl, rfl⟩, (do
    for q in s.units.mirrors do
      if q.2.mr then pure () else applyHeld q), ?_, rfl⟩
  refine Quiet.loop hR (l := s.units.mirrors) fun q _ => ?_
  split
  · exact Quiet.pure hR _
  · exact Quiet.bind hR (quiet_applyHeld q) fun _ => Quiet.pure hR _

/-! ## Answers -/

theorem remoteAnswer_eq {s : State} {pk : Packet} (hnow : s.now = .remoteAnswer pk) : exec .remoteAnswer s = runEvent (takeAnswer pk) s := by
  change execRemoteAnswer s = _
  unfold execRemoteAnswer
  rw [hnow]

theorem remoteAnswer_takes {s t : State} {pk : Packet} (hnow : s.now = .remoteAnswer pk) (hrun : takeAnswer pk s = .ok () t) :
    Happens .remoteAnswer s t := happens_runEvent (remoteAnswer_eq hnow) hrun

theorem requestOf_none {s : State} {pk : Packet} (h : ∀ r ∈ s.units.requests, r.txn ≠ pk.txn ∧ r.txn % 256 ≠ pk.txn) : s.requestOf pk = none := by
  have h1 : s.units.requests.find? (fun r => r.txn = pk.txn) = none := by
    rw [List.find?_eq_none]
    exact fun r hr => by simpa using (h r hr).1
  have h2 : s.units.requests.find? (fun r => r.txn % 256 = pk.txn && (pk.op = .unreachable || r.packet.dst = pk.src.toNat / 16384)) = none := by
    rw [List.find?_eq_none]
    intro r hr
    simp [(h r hr).2]
  unfold State.requestOf
  rw [h1, h2]
  rfl

theorem find_request {l : List Request} {r : Request} {n : Nat} (hr : r ∈ l) (htxn : r.txn = n) (honly : ∀ q ∈ l, q.txn = n → q = r) :
    l.find? (fun r => r.txn = n) = some r := by
  cases hf : l.find? (fun r => r.txn = n) with
  | none =>
    rw [List.find?_eq_none] at hf
    exact absurd (decide_eq_true htxn) (hf r hr)
  | some q => rw [honly q (List.mem_of_find?_eq_some hf) (of_decide_eq_true (List.find?_some (p := fun r : Request => decide (r.txn = n)) hf))]

theorem requestOf_some {s : State} {pk : Packet} {r : Request} (hr : r ∈ s.units.requests) (htxn : r.txn = pk.txn)
    (honly : ∀ q ∈ s.units.requests, q.txn = pk.txn → q = r) : s.requestOf pk = some r := by
  unfold State.requestOf
  rw [find_request hr htxn honly]
  rfl

theorem takeAnswer_none {s : State} {pk : Packet} (hop : pk.op ≠ .probeAnswer) (h : s.requestOf pk = none) : takeAnswer pk s = .ok () s := by
  unfold takeAnswer
  rw [M.bind_ok (M.get_run s), if_neg hop, h]
  rfl

theorem takeAnswer_lost {s : State} {pk : Packet} {r : Request} (hop : pk.op ≠ .probeAnswer) (h : s.requestOf pk = some r)
    (hlost : r.txn ∈ s.units.lostAnswers) : takeAnswer pk s = .ok () s := by
  unfold takeAnswer
  rw [M.bind_ok (M.get_run s), if_neg hop, h]
  dsimp only
  rw [if_pos (by simpa using hlost)]
  rfl

/-- The state without a request. -/
def withoutRequest (s : State) (n : Nat) : State :=
  { s with units := { s.units with requests := s.units.requests.filter fun r => r.txn ≠ n } }

theorem takeAnswer_ends {s : State} {pk : Packet} {r : Request} (hop : pk.op ≠ .probeAnswer) (h : s.requestOf pk = some r)
    (hlost : r.txn ∉ s.units.lostAnswers) (hreach : pk.op ≠ .unreachable) :
    takeAnswer pk s = endRequest r (Packet.said pk r) pk.data pk.tag (withoutRequest s r.txn) := by
  unfold takeAnswer
  rw [M.bind_ok (M.get_run s), if_neg hop, h]
  dsimp only
  rw [if_neg (by simpa using hlost), if_neg hreach]
  rfl

theorem takeAnswer_unreachable {s : State} {pk : Packet} {r : Request} (hop : pk.op = .unreachable) (h : s.requestOf pk = some r)
    (hlost : r.txn ∉ s.units.lostAnswers) : takeAnswer pk s = (do
      markLost r.packet.dst
      let s ← get
      if s.units.requests.contains r then do
        dropRequest r.txn
        loseRequest r
      else pure () : M Unit) s := by
  unfold takeAnswer
  rw [M.bind_ok (M.get_run s), if_neg (by rw [hop]; nofun), h]
  dsimp only
  rw [if_neg (by simpa using hlost), if_pos hop]

theorem modStrandOrSaved_live {s : State} {n : Nat} (f : Strand → Strand) (h : (s.strand n).live) :
    modStrandOrSaved n f s = .ok () (s.withStrand n (f (s.strand n))) := by
  unfold modStrandOrSaved
  rw [M.modify_run, if_pos h]

theorem said_whole {pk : Packet} (r : Request) (h : pk.ty ≠ 2 ∨ pk.wrong = []) : Packet.said pk r = pk.op := by
  unfold Packet.said
  split
  case h_1 k ks hty hwrong =>
    rcases h with h | h
    · exact absurd hty h
    · exact absurd (hwrong.symm.trans h) nofun
  case h_2 => rfl

theorem said_wrong {pk : Packet} (r : Request) {k : Nat} {ks : List Nat} (hty : pk.ty = 2) (h : pk.wrong = k :: ks) :
    Packet.said pk r = .failAt cInteg ((r.packet.addr / 32 * 32 + 32 * k : Nat) - (r.packet.addr : Int)) := by
  unfold Packet.said
  rw [hty, h]
  rfl

/-- What an answer to a waiting instruction puts on the agenda. -/
def answerEvents (r : Request) : List Event :=
  match r.packet.op with
  | .read _ => [.loadValueReturn r.sid]
  | _ => []

theorem posting_nil (s : State) : posting s [] = s := by
  unfold posting
  rw [List.append_nil]

/-- An answer reaches the running strand that asks for it. -/
theorem answerInstr_run {s : State} {r : Request} (op : PacketOp) (data : List Byte) (tag : Bool) (hlive : (s.strand r.sid).live)
    (hasked : r.txn ∈ (s.strand r.sid).asked) :
    answerInstr r op data tag s = .ok () (posting (s.withStrand r.sid
      { s.strand r.sid with answers := (s.strand r.sid).answers ++ [⟨r.txn, op, data, tag⟩] }) (answerEvents r)) := by
  unfold answerInstr answerEvents
  rw [M.bind_ok (modStrandOrSaved_live _ hlive)]
  dsimp only
  rw [if_pos (by simpa using hasked)]
  cases r.packet.op with
  | read n => rfl
  | _ => rw [posting_nil]; rfl

theorem answerPut_failed {s : State} {r : Request} {op : PacketOp} {c : BitVec 8} (hop : failureOf op = some c) (hlive : (s.strand r.sid).live)
    (howed : ∀ b ∈ s.running, (false, r.txn) ∉ (s.strand b).owed) :
    answerPut r op s = .ok () (s.withStrand r.sid { s.strand r.sid with
      dropped := (s.strand r.sid).dropped ++ [(c, BitVec.ofNat 64 (Packet.global r.packet % 2 ^ 55), r.packet.dst)] }) := by
  have hfind : s.running.find? (fun b => (s.strand b).owed.contains (false, r.txn)) = none := by
    rw [List.find?_eq_none]
    intro b hb
    simpa using howed b hb
  unfold answerPut
  rw [hop]
  dsimp only
  rw [M.bind_ok (M.get_run s), hfind]
  exact modStrandOrSaved_live _ hlive

section Answering
variable {s : State} {pk : Packet} {r : Request} (hnow : s.now = .remoteAnswer pk) (hr : r ∈ s.units.requests) (htxn : r.txn = pk.txn)
  (honly : ∀ q ∈ s.units.requests, q.txn = pk.txn → q = r) (hprobe : pk.op ≠ .probeAnswer) (hlost : r.txn ∉ s.units.lostAnswers)
include hnow hr htxn honly hprobe hlost

theorem answered_instr (hreach : pk.op ≠ .unreachable) (huse : r.use = .instr) (hlive : (s.strand r.sid).live)
    (hasked : r.txn ∈ (s.strand r.sid).asked) : Happens .remoteAnswer s (posting ((withoutRequest s r.txn).withStrand r.sid
      { s.strand r.sid with answers := (s.strand r.sid).answers ++ [⟨r.txn, Packet.said pk r, pk.data, pk.tag⟩] }) (answerEvents r)) := by
  refine remoteAnswer_takes hnow ((takeAnswer_ends hprobe (requestOf_some hr htxn honly) hlost hreach).trans ?_)
  unfold endRequest
  rw [huse]
  exact answerInstr_run (s := withoutRequest s r.txn) (Packet.said pk r) pk.data pk.tag hlive hasked

theorem answered_put {c : BitVec 8} {v : Word} (hop : pk.op = .fail c v) (hty : pk.ty ≠ 2) (huse : r.use = .put) (hlive : (s.strand r.sid).live)
    (howed : ∀ b ∈ s.running, (false, r.txn) ∉ (s.strand b).owed) : Happens .remoteAnswer s ((withoutRequest s r.txn).withStrand r.sid
      { s.strand r.sid with dropped := (s.strand r.sid).dropped ++
        [(c, BitVec.ofNat 64 (Packet.global r.packet % 2 ^ 55), r.packet.dst)] }) := by
  refine remoteAnswer_takes hnow ((takeAnswer_ends hprobe (requestOf_some hr htxn honly) hlost (by rw [hop]; nofun)).trans ?_)
  unfold endRequest
  rw [huse, said_whole r (.inl hty), hop]
  exact answerPut_failed (s := withoutRequest s r.txn) rfl hlive howed

theorem answered_unreachable (hop : pk.op = .unreachable) (hother : r.packet.dst ≠ s.pkg) (huse : r.use = .put)
    (hsame : ∀ q ∈ s.units.requests, q = r) (hreds : s.units.reductions = []) (hterms : s.units.remoteTerms = []) (hdies : s.dies = []) :
    ∃ t, exec .remoteAnswer s = .next t ∧ r.packet.dst ∈ t.units.lost ∧ t.units.requests = [] := by
  have htake := takeAnswer_unreachable hop (requestOf_some hr htxn honly) hlost
  rw [remoteAnswer_eq hnow]
  by_cases hknown : r.packet.dst ∈ s.units.lost
  · have hgone : (s.units.requests.filter fun q => q.txn ≠ r.txn) = [] := by
      rw [List.filter_eq_nil_iff]
      intro q hq
      rw [hsame q hq]
      simp
    have hrun : takeAnswer pk s = loseRequest r (withoutRequest s r.txn) := by
      rw [htake, M.bind_ok (markLost_known (.inl hknown)), M.bind_ok (M.get_run s), if_pos (by simpa using hr)]
      rfl
    have hquiet := quiet_loseRequest huse
    obtain ⟨h1, h2⟩ := hquiet.run (withoutRequest s r.txn)
    refine ⟨_, runEvent_leftBy fun t f => ?_, ?_, ?_⟩
    · rw [hrun]
      exact hquiet.stop _ t f
    · unfold leftBy at h1 ⊢
      rw [hrun, h1]
      exact hknown
    · unfold leftBy at h2 ⊢
      rw [hrun, h2]
      exact hgone
  · obtain ⟨A, u, hmark, hal⟩ := markLost_run hknown hother hreds hterms hdies
    obtain ⟨X, V, hu⟩ := hal.rest
    have hlostu : u.units.lost = s.units.lost ++ [r.packet.dst] := by rw [hu]; rfl
    have hrequ : u.units.requests = s.units.requests := by rw [hu]; rfl
    have hgone : (u.units.requests.filter fun q => q.packet.dst ≠ r.packet.dst) = [] := by
      rw [hrequ, List.filter_eq_nil_iff]
      intro q hq
      rw [hsame q hq]
      simp
    have hputs : ∀ q ∈ u.units.requests.filter fun q => q.packet.dst = r.packet.dst, q.use = .put := by
      intro q hq
      rw [hsame q (hrequ ▸ (List.mem_filter.mp hq).1)]
      exact huse
    have hin : r.packet.dst ∈ u.units.lost := by rw [hlostu]; simp
    rw [loseRequests_eq] at hmark
    rcases (quiet_endLost hputs (r.packet.dst = u.pkg ^^^ 1)).ends (withoutRequests u r.packet.dst) with
      ⟨x, t, hend, ⟨hl, hq⟩⟩ | ⟨e, t, hend, ⟨hl, hq⟩, hstop⟩
    · have hnone : t.units.requests = [] := hq.trans hgone
      have hrun : takeAnswer pk s = .ok () t := by
        rw [htake, M.bind_ok (hmark.trans hend), M.bind_ok (M.get_run t), if_neg (by rw [hnone]; simp)]
        rfl
      refine ⟨t, ?_, by rw [hl]; exact hin, hnone⟩
      unfold runEvent finishM
      rw [hrun]
    · have hrun : takeAnswer pk s = .error e t := by rw [htake, M.bind_error (hmark.trans hend)]
      refine ⟨t, ?_, by rw [hl]; exact hin, hq.trans hgone⟩
      rw [runEvent_leftBy fun v f h => hstop f (EStateM.Result.error.inj (hrun.symm.trans h)).1]
      unfold leftBy
      rw [hrun]

end Answering

theorem answersEndRequests : AnswersEndRequests := by
  intro s pk hnow
  refine ⟨fun hprobe hno => remoteAnswer_takes hnow (takeAnswer_none hprobe (requestOf_none hno)), ?_⟩
  intro r hr htxn honly hprobe
  dsimp only
  refine ⟨fun hlost => remoteAnswer_takes hnow (takeAnswer_lost hprobe (requestOf_some hr htxn honly) hlost), ?_, ?_, ?_⟩
  · intro hlost hreach huse hlive hasked
    refine ⟨_, answered_instr hnow hr htxn honly hprobe hlost hreach huse hlive hasked, ?_, rfl, ⟨Packet.said pk r, ?_, said_whole r, ?_⟩, ?_, rfl⟩
    · rw [← htxn]
      rfl
    · rw [← htxn]
      exact State.strand_withStrand_same ..
    · intro k ks hty hwrong
      refine ⟨_, said_wrong r hty hwrong, ?_⟩
      omega
    · intro n hn
      exact State.strand_withStrand_ne _ _ _ _ hn
  · intro c v hlost hop hty huse hlive howed
    refine ⟨_, answered_put hnow hr htxn honly hprobe hlost hop hty huse hlive howed, ?_, rfl, State.strand_withStrand_same ..⟩
    rw [← htxn]
    rfl
  · intro hlost hop hty hother huse hsame hreds hterms hdies
    exact answered_unreachable hnow hr htxn honly hprobe hlost hop hother huse hsame hreds hterms hdies

end Sys2Proof.Claims
end

section
/-! PROOF. O59: requests of other packages, reports, answers, and probes. -/

namespace Sys2Proof.Claims

open Sys2Proof.Machine

/-! ## Timers -/

theorem requestTimeout_takes {s t : State} {n : Nat} (hnow : s.now = .requestTimeout n) (hrun : timeoutRequest n s = .ok () t) :
    Happens .requestTimeout s t := by
  refine happens_runEvent (body := timeoutRequest n) ?_ hrun
  change execRequestTimeout s = _
  unfold execRequestTimeout
  rw [hnow]

theorem timeoutRequest_none {s : State} {n : Nat} (h : ∀ r ∈ s.units.requests, r.txn ≠ n) : timeoutRequest n s = .ok () s := by
  have hfind : s.units.requests.find? (fun r => r.txn = n) = none := by
    rw [List.find?_eq_none]
    exact fun r hr => by simpa using h r hr
  unfold timeoutRequest
  rw [M.bind_ok (M.get_run s), hfind]
  rfl

/-- The packet that asks a package whether it lives. -/
def probeOf (s : State) (dst : Nat) : Packet := { requestPacket s (dst * 2 ^ 41) 12 3 0 .probe [] false with dst := dst }

theorem probeOf_fields (s : State) (dst : Nat) :
    (probeOf s dst).op = .probe ∧ (probeOf s dst).dst = dst ∧ (probeOf s dst).ty = 12 ∧ (probeOf s dst).vc = 3 := ⟨rfl, rfl, rfl, rfl⟩

/-- The state in which a request's destination is probed. -/
def probing (s : State) (n dst : Nat) : State := { s with units := { s.units with
  requests := s.units.requests.map (fun (q : Request) => if q.txn = n then { q with probed := some s.time } else q)
  probes := if s.units.probes.any (fun p => p.1 = dst) then s.units.probes else s.units.probes ++ [(dst, s.time)] } }

section Expired
variable {s : State} {n : Nat} {r : Request} (hr : r ∈ s.units.requests) (htxn : r.txn = n) (honly : ∀ q ∈ s.units.requests, q.txn = n → q = r)
include hr htxn honly

theorem timeoutRequest_probes (hother : r.packet.dst ≠ s.pkg) :
    timeoutRequest n s = .ok () (posting (probing s n r.packet.dst) [.packetForward (probeOf s r.packet.dst)]) := by
  unfold timeoutRequest
  rw [M.bind_ok (M.get_run s), find_request hr htxn honly]
  dsimp only
  rw [if_neg hother]
  rfl

theorem timeoutRequest_ends (hown : r.packet.dst = s.pkg) : timeoutRequest n s = endRequest r (unanswered r) [] false (withoutRequest s n) := by
  unfold timeoutRequest
  rw [M.bind_ok (M.get_run s), find_request hr htxn honly]
  dsimp only
  rw [if_pos hown]
  rfl

end Expired

theorem requestTimeouts (s : State) (txn : Nat) (hnow : s.now = .requestTimeout txn) :
    ((∀ r ∈ s.units.requests, r.txn ≠ txn) → Happens .requestTimeout s s) ∧
    (∀ r, r ∈ s.units.requests → r.txn = txn → (∀ q ∈ s.units.requests, q.txn = txn → q = r) →
      (r.packet.dst ≠ s.pkg → ∃ pk, exec .requestTimeout s = .next (posting (probing s txn r.packet.dst) [.packetForward pk]) ∧
          pk.op = .probe ∧ pk.dst = r.packet.dst ∧ pk.ty = 12 ∧ pk.vc = 3) ∧
      (∀ op k y, r.packet.dst = s.pkg → r.use = .instr → r.packet.op = .amo op k y → (s.strand r.sid).live →
        txn ∈ (s.strand r.sid).asked →
        ∃ t, exec .requestTimeout s = .next t ∧ t.units.requests = s.units.requests.filter (fun q => q.txn ≠ txn) ∧
          t.strand r.sid = { s.strand r.sid with answers := (s.strand r.sid).answers ++
            [⟨txn, .fail cEcc (BitVec.ofNat 64 (r.packet.dst * 2 ^ 41 + r.packet.addr)), [], false⟩] })) := by
  refine ⟨fun hno => requestTimeout_takes hnow (timeoutRequest_none hno), ?_⟩
  intro r hr htxn honly
  refine ⟨fun hother => ⟨probeOf s r.packet.dst, requestTimeout_takes hnow (timeoutRequest_probes hr htxn honly hother),
    probeOf_fields s r.packet.dst⟩, ?_⟩
  intro op k y hown huse hop hlive hasked
  have hsaid : unanswered r = .fail cEcc (BitVec.ofNat 64 (r.packet.dst * 2 ^ 41 + r.packet.addr)) := by
    unfold unanswered
    rw [hop, Packet.global]
  have hasked' : r.txn ∈ (s.strand r.sid).asked := by rw [htxn]; exact hasked
  have hend : endRequest r (unanswered r) [] false (withoutRequest s txn) = .ok () (posting ((withoutRequest s txn).withStrand r.sid
      { s.strand r.sid with answers := (s.strand r.sid).answers ++ [⟨r.txn, unanswered r, [], false⟩] }) (answerEvents r)) := by
    unfold endRequest
    rw [huse]
    exact answerInstr_run (s := withoutRequest s txn) (unanswered r) [] false hlive hasked'
  refine ⟨_, requestTimeout_takes hnow ((timeoutRequest_ends hr htxn honly hown).trans hend), rfl, ?_⟩
  rw [hsaid, htxn]
  exact State.strand_withStrand_same ..

/-! ## Probes and lost peers -/

theorem probe_answered {s : State} {src : Nat} (hnow : s.now = .probe src) : ∃ pk, Happens .probe s (posting s [.packetForward pk]) ∧
    pk.op = .probeAnswer ∧ pk.dst = src ∧ pk.ty = 12 ∧ pk.vc = 3 := by
  refine ⟨{ requestPacket s (src * 2 ^ 41) 12 3 0 .probeAnswer [] false with dst := src },
    happens_runEvent (body := do
      let s ← get
      sendPacket { requestPacket s (src * 2 ^ 41) 12 3 0 .probeAnswer [] false with dst := src }) ?_ rfl, rfl, rfl, rfl, rfl⟩
  change execProbe s = _
  unfold execProbe
  rw [hnow]

/-- What a probe's timer does. -/
def probeExpires (pkg : Nat) : M Unit := do
  let s ← get
  if s.units.probes.any fun p => p.1 = pkg then do
    set { s with units := { s.units with probes := s.units.probes.filter fun p => p.1 ≠ pkg } }
    markLost pkg
  else pure ()

theorem probeTimeout_takes {s t : State} {pkg : Nat} (hnow : s.now = .probeTimeout pkg) (hrun : probeExpires pkg s = .ok () t) :
    Happens .probeTimeout s t := by
  refine happens_runEvent (body := probeExpires pkg) ?_ hrun
  change execProbeTimeout s = _
  unfold execProbeTimeout
  rw [hnow]
  rfl

theorem peerDownNotice_takes {s t : State} {pkg : Nat} (hnow : s.now = .peerDownNotice pkg) (hrun : hearPeerDown pkg s = .ok () t) :
    Happens .peerDownNotice s t := by
  refine happens_runEvent (body := hearPeerDown pkg) ?_ hrun
  change execPeerDownNotice s = _
  unfold execPeerDownNotice
  rw [hnow]

theorem hearPeerDown_other {s : State} {pkg : Nat} (h : pkg ≠ s.pkg) : hearPeerDown pkg s = markLost pkg s := by
  unfold hearPeerDown
  rw [M.bind_ok (M.get_run s), if_neg h]

/-- The state without the probes of a package. -/
def withoutProbes (s : State) (pkg : Nat) : State :=
  { s with units := { s.units with probes := s.units.probes.filter fun p => p.1 ≠ pkg } }

theorem probeExpires_marks {s : State} {pkg : Nat} (h : ∃ p ∈ s.units.probes, p.1 = pkg) : probeExpires pkg s = markLost pkg (withoutProbes s pkg) := by
  unfold probeExpires
  rw [M.bind_ok (M.get_run s), if_pos (by simpa [List.any_eq_true] using h)]
  rfl

theorem probeExpires_none {s : State} {pkg : Nat} (h : ∀ p ∈ s.units.probes, p.1 ≠ pkg) : probeExpires pkg s = .ok () s := by
  unfold probeExpires
  have hany : s.units.probes.any (fun p => p.1 = pkg) = false := by
    rw [List.any_eq_false]
    exact fun p hp => by simpa using h p hp
  rw [M.bind_ok (M.get_run s), hany]
  rfl

/-- Both events mark the package lost, from a state that differs in its probes at most. -/
theorem marks_of_event {s : State} {pkg : Nat} {i : Instr} (hother : pkg ≠ s.pkg)
    (hi : (i = .probeTimeout ∧ s.now = .probeTimeout pkg ∧ ∃ p ∈ s.units.probes, p.1 = pkg) ∨ (i = .peerDownNotice ∧ s.now = .peerDownNotice pkg)) :
    ∃ P, ∀ t, markLost pkg { s with units := { s.units with probes := P } } = .ok () t → Happens i s t := by
  rcases hi with ⟨rfl, hnow, hp⟩ | ⟨rfl, hnow⟩
  · exact ⟨_, fun t h => probeTimeout_takes hnow ((probeExpires_marks hp).trans h)⟩
  · exact ⟨s.units.probes, fun t h => peerDownNotice_takes hnow ((hearPeerDown_other hother).trans h)⟩

theorem loseRequests_none {s : State} {pkg : Nat} (hreq : s.units.requests = []) (hnear : pkg ≠ s.pkg ^^^ 1) :
    loseRequests pkg s = .ok () (withoutRequests s pkg) := by
  rw [loseRequests_eq, hreq]
  unfold endLost
  rw [decide_eq_false hnear]
  rfl

theorem zero_not_mem_sharedJobs {s : State} (hterms : s.units.remoteTerms = []) (pkg : Nat) : 0 ∉ s.sharedJobs pkg := by
  unfold State.sharedJobs
  rw [hterms]
  dsimp only
  rw [if_pos (by rfl), List.mem_eraseDups, List.mem_filterMap]
  rintro ⟨e, -, he⟩
  cases hc : e.2 with
  | none => rw [hc] at he; exact absurd he nofun
  | some c =>
    rw [hc] at he
    dsimp only at he
    split at he
    · exact absurd he nofun
    · exact ‹¬c.job = 0› (Option.some.inj he)

/-- Settles O59: requests at their home, the reports of mirrored writes, the ends of requests by their answers, and lost peers. -/
theorem remoteRequests : Obligations.RemoteRequests := by
  refine ⟨requestsAreServed, mirrorsReport, answersEndRequests, requestTimeouts, fun s src hnow => probe_answered hnow, ?_,
    fun s pkg hnow hno => probeTimeout_takes hnow (probeExpires_none hno)⟩
  intro s pkg i hi
  refine ⟨fun hlost hother => ?_, fun hnew hother hnear hreq hreds hterms hdies => ?_⟩
  · obtain ⟨P, hP⟩ := marks_of_event hother hi
    exact ⟨_, hP _ (markLost_known (.inl hlost)), rfl, fun n => rfl, rfl⟩
  · obtain ⟨P, hP⟩ := marks_of_event hother hi
    obtain ⟨A, u, hmark, hal⟩ := markLost_run (s := { s with units := { s.units with probes := P } }) hnew hother hreds hterms hdies
    obtain ⟨X, V, hu⟩ := hal.rest
    have hrequ : u.units.requests = [] := by rw [hu]; exact hreq
    have hnearu : pkg ≠ u.pkg ^^^ 1 := by rw [hu]; exact hnear
    refine ⟨_, hP _ (hmark.trans (loseRequests_none hrequ hnearu)), ?_, ?_, fun b hb => ?_⟩
    · change u.units.lost = _
      rw [hu]
      rfl
    · change u.mem = _
      rw [hu]
      rfl
    · change u.strand b = _
      by_cases hjob : s.jobOf b = 0
      · rw [if_pos hjob]
        refine hal.spared b fun h => ?_
        obtain ⟨-, hmem⟩ := h
        change s.jobOf b ∈ s.sharedJobs pkg at hmem
        rw [hjob] at hmem
        exact zero_not_mem_sharedJobs hterms pkg hmem
      · rw [if_neg hjob]
        exact hal.hit b ⟨hb, jobOf_mem_sharedJobs (s := s) hjob hterms pkg⟩

end Sys2Proof.Claims
end

section
/-! SUPPORT. Combining of fetch-and-adds in the routers (R412 to R419). -/

namespace Sys2Proof.Claims

open Sys2Proof.Machine

theorem combineHold_takes {s t : State} {e port : Nat} {r : CombReq} (hnow : s.now = .combineHold e port r) (hrun : holdCombine e port r s = .ok () t) :
    Happens .combineHold s t := by
  refine happens_runEvent (body := holdCombine e port r) ?_ hrun
  change execCombineHold s = _
  unfold execCombineHold
  rw [hnow]

theorem modRouter_run (e : Nat) (f : RouterState → RouterState) (s : State) : modRouter e f s = .ok () (withRouter s e (f (s.router e))) := rfl

theorem router_withRouter (s : State) (e : Nat) (v : RouterState) : (withRouter s e v).router e = v := lookupD_storeAt_same ..

/-! ## Ways -/

theorem channelOf_eDie (a : Nat) : channelOf a / 64 = eDie a := rfl

theorem eDie_lt (a : Nat) : eDie a < 4 := by
  have h1 : a / 2 ^ 7 % 4 < 2 ^ 2 := Nat.mod_lt _ (by decide)
  have h2 : a / 2 ^ 16 % 4 < 2 ^ 2 := Nat.mod_lt _ (by decide)
  have h := Nat.xor_lt_two_pow h1 h2
  unfold eDie
  omega

/-- The way of a request whose home is in this package. -/
theorem combWay_here {s : State} {r : CombReq} (h : pkgOf r.addr = s.pkg) (e : Nat) : s.combWay e r =
    some (if eDie (localOf r.addr) = e then homePort (localOf r.addr) else if ringPlus e (eDie (localOf r.addr)) then 27 else 26, none) := by
  unfold State.combWay
  dsimp only
  rw [if_pos h, channelOf_eDie]

theorem homePort_cases (a : Nat) : homePort a = 24 ∨ homePort a = 25 := by
  unfold homePort
  omega

section Passing
variable {s : State} {r : CombReq} (hpkg : pkgOf r.addr = s.pkg) {e : Nat}
include hpkg

theorem passCombine_home (h : eDie (localOf r.addr) = e) : passCombine e r s = .ok () (posting s [.combinedAtHome r]) := by
  unfold passCombine
  rw [M.bind_ok (M.get_run s), combWay_here hpkg, if_pos h]
  rcases homePort_cases (localOf r.addr) with hp | hp <;> rw [hp] <;> rfl

theorem passCombine_plus (h : eDie (localOf r.addr) ≠ e) (hplus : ringPlus e (eDie (localOf r.addr)) = true) :
    passCombine e r s = .ok () (posting s [.combineHold ((e + 1) % 4) 26 r]) := by
  unfold passCombine
  rw [M.bind_ok (M.get_run s), combWay_here hpkg, if_neg h, hplus]
  rfl

theorem passCombine_minus (h : eDie (localOf r.addr) ≠ e) (hplus : ringPlus e (eDie (localOf r.addr)) = false) :
    passCombine e r s = .ok () (posting s [.combineHold ((e + 3) % 4) 27 r]) := by
  unfold passCombine
  rw [M.bind_ok (M.get_run s), combWay_here hpkg, if_neg h, hplus]
  rfl

/-- The output port that a request of this package is given. -/
def portOut (e : Nat) (r : CombReq) : Nat :=
  if eDie (localOf r.addr) = e then homePort (localOf r.addr) else if ringPlus e (eDie (localOf r.addr)) then 27 else 26

theorem holdCombine_passes (hwin : r.win = 0) (port : Nat) : holdCombine e port r s = passCombine e { r with out := portOut e r } s := by
  unfold holdCombine
  rw [M.bind_ok (M.get_run s), combWay_here hpkg]
  dsimp only
  rw [if_pos hwin]
  rfl

/-- A held request as it arrives. -/
def arriving (s : State) (e port : Nat) (r : CombReq) : HeldReq :=
  { req := { r with out := portOut e r }, port := port, until_ := s.time + windowTime r.win, group := none }

/-- The held request that an arriving one joins. -/
def joined (v : RouterState) (out : Nat) (r : CombReq) : Option HeldReq := v.held.find? fun x => combFits x.req { r with out := out } &&
  leavesOf (v.withMember x) + r.leaves ≤ 8 && (x.group.isSome || (v.freeEntry out).isSome)

theorem holdCombine_waits (hwin : r.win ≠ 0) (port : Nat) (hjoin : joined (s.router e) (portOut e r) r = none) :
    holdCombine e port r s = .ok () (withRouter s e { s.router e with held := (s.router e).held ++ [arriving s e port r] }) := by
  unfold holdCombine
  rw [M.bind_ok (M.get_run s), combWay_here hpkg]
  dsimp only
  rw [if_neg hwin]
  change (match joined (s.router e) (portOut e r) r with
    | none => _
    | some x => _ : M Unit) s = _
  rw [hjoin]
  rfl

theorem holdCombine_joins (hwin : r.win ≠ 0) (port : Nat) {x : HeldReq} (hjoin : joined (s.router e) (portOut e r) r = some x)
    (hgroup : x.group = none) {key : Nat} (hfree : (s.router e).freeEntry (portOut e r) = some key)
    (hless : leavesOf ((s.router e).withMember x) + r.leaves ≠ 8) :
    holdCombine e port r s = .ok () (withRouter s e { s.router e with
      held := ((s.router e).held.map fun y => if y = x then { y with group := some key } else y) ++
        [{ arriving s e port r with group := some key }]
      comb := insertAt key { members := [], recordLost := false, mapLost := false } (s.router e).comb }) := by
  unfold holdCombine
  rw [M.bind_ok (M.get_run s), combWay_here hpkg]
  dsimp only
  rw [if_neg hwin]
  change (match joined (s.router e) (portOut e r) r with
    | none => _
    | some x => _ : M Unit) s = _
  rw [hjoin]
  dsimp only
  rw [M.bind_ok (modRouter_run ..), if_neg hless, hgroup]
  unfold portOut at hfree
  rw [hfree]
  rfl

end Passing

/-- A request held alone, for which there is an entry in the comb table, is joined by one that agrees with it. -/
theorem joined_one {v : RouterState} {x : HeldReq} (hheld : v.held = [x]) (hgroup : x.group = none) (hcomb : v.comb = []) {r : CombReq}
    (hless : x.req.leaves + r.leaves < 8) (out : Nat) : joined v out r = if combFits x.req { r with out := out } then some x else none := by
  have hleaves : leavesOf (v.withMember x) = x.req.leaves := by
    unfold RouterState.withMember
    rw [hgroup]
    simp [leavesOf]
  have hfree : (v.freeEntry out).isSome := by
    unfold RouterState.freeEntry
    rw [hcomb, List.find?_isSome]
    exact ⟨out * 256 + 0, List.mem_map.mpr ⟨0, by simp, rfl⟩, rfl⟩
  have hless' : leavesOf (v.withMember x) + r.leaves ≤ 8 := by omega
  unfold joined
  rw [hheld, List.find?_cons, decide_eq_true hless', hfree]
  cases combFits x.req { r with out := out } <;> simp

theorem freeEntry_empty {v : RouterState} (hcomb : v.comb = []) (out : Nat) : v.freeEntry out = some (out * 256) := by
  have hrange : List.range 256 = 0 :: (List.range 255).map Nat.succ := List.range_succ_eq_map
  unfold RouterState.freeEntry
  rw [hcomb, hrange, List.map_cons, Nat.add_zero]
  exact List.find?_cons_of_pos rfl

theorem requestsAreHeld : RequestsAreHeld := by
  intro s e port r he hpkg hnow
  have hte := eDie_lt (localOf r.addr)
  dsimp only
  refine ⟨fun hwin => ⟨fun h => ?_, fun h => ?_, fun h => ?_⟩, fun hwin => ⟨fun hheld => ?_, fun x hheld hgroup hcomb hless => ⟨?_, fun hdiff => ?_⟩⟩⟩
  · exact ⟨_, combineHold_takes hnow ((holdCombine_passes hpkg hwin port).trans (passCombine_home (r := { r with out := portOut e r }) hpkg h))⟩
  · exact ⟨_, combineHold_takes hnow ((holdCombine_passes hpkg hwin port).trans (passCombine_plus (r := { r with out := portOut e r }) hpkg
      (by dsimp only; omega) (by unfold ringPlus; dsimp only; rw [decide_eq_true_eq]; omega)))⟩
  · exact ⟨_, combineHold_takes hnow ((holdCombine_passes hpkg hwin port).trans (passCombine_minus (r := { r with out := portOut e r }) hpkg
      (by dsimp only; omega) (by unfold ringPlus; dsimp only; rw [decide_eq_false_iff_not]; omega)))⟩
  · have hrun := holdCombine_waits hpkg (e := e) hwin port (by unfold joined; rw [hheld]; rfl)
    rw [hheld] at hrun
    exact ⟨arriving s e port r, combineHold_takes hnow hrun, rfl, rfl, rfl, rfl⟩
  · rintro out ⟨-, hdie⟩ ⟨haddr, hk, htenant⟩ hout hport
    have hport' : portOut e r = out := by
      unfold portOut
      rw [if_pos hdie, hport]
      rfl
    have hjoin : joined (s.router e) (portOut e r) r = some x := by
      rw [joined_one hheld hgroup hcomb hless, if_pos]
      simp only [combFits, Bool.and_eq_true, decide_eq_true_eq]
      exact ⟨⟨⟨haddr, hk⟩, htenant⟩, hout.trans hport'.symm⟩
    have hleaves : leavesOf ((s.router e).withMember x) + r.leaves ≠ 8 := by
      unfold RouterState.withMember
      rw [hgroup]
      simp only [leavesOf, List.map_cons, List.map_nil, List.sum_cons, List.sum_nil]
      omega
    have hrun := holdCombine_joins hpkg (e := e) hwin port hjoin hgroup (freeEntry_empty hcomb _) hleaves
    refine ⟨_, { arriving s e port r with group := some (portOut e r * 256) }, portOut e r * 256,
      { members := [], recordLost := false, mapLost := false }, combineHold_takes hnow hrun, ?_, rfl, rfl, rfl, ?_, ?_⟩
    · rw [router_withRouter]
      dsimp only
      rw [hheld, List.map_cons, if_pos rfl]
      rfl
    · rw [router_withRouter]
      dsimp only
      rw [hcomb]
      rfl
    · rw [hport']
      omega
  · have hjoin : joined (s.router e) (portOut e r) r = none := by
      rw [joined_one hheld hgroup hcomb hless, if_neg]
      intro hfits
      simp only [combFits, Bool.and_eq_true, decide_eq_true_eq] at hfits
      obtain ⟨⟨⟨h1, h2⟩, h3⟩, -⟩ := hfits
      exact hdiff ⟨h1, h2, h3⟩
    have hrun := holdCombine_waits hpkg (e := e) hwin port hjoin
    rw [hheld] at hrun
    exact ⟨arriving s e port r, combineHold_takes hnow hrun, rfl, rfl, rfl⟩

/-! ## Leaving -/

theorem combineDepart_takes {s t : State} {e i : Nat} {h : HeldReq} (hnow : s.now = .combineDepart e i) (hi : (s.router e).held[i]? = some h)
    (hrun : departGroup e h s = .ok () t) : Happens .combineDepart s t := by
  refine happens_runEvent (body := departGroup e h) ?_ hrun
  change execCombineDepart s = _
  unfold execCombineDepart
  rw [hnow]
  dsimp only
  rw [hi]

theorem departGroup_alone {s : State} {e : Nat} {h : HeldReq} (hgroup : h.group = none) (hhome : AtHomeRouter s e h.req) :
    departGroup e h s = .ok () (posting (withRouter s e { s.router e with held := (s.router e).held.erase h }) [.combinedAtHome h.req]) := by
  unfold departGroup
  rw [M.bind_ok (M.get_run s), hgroup]
  exact (M.bind_ok (modRouter_run ..)).trans (passCombine_home (s := withRouter s e _) hhome.1 hhome.2)

/-- The members of a group, in requester order. -/
def groupMembers (s : State) (e key : Nat) : List HeldReq := byPort ((s.router e).held.filter fun x => x.group = some key)

/-- The comb-table entry of a group that leaves. -/
def groupEntry (s : State) (e key : Nat) : CombEntry :=
  { members := (groupMembers s e key).map fun m => (m.port, m.req, m.req.total), recordLost := false, mapLost := false }

/-- A router whose group has left. -/
def groupLeft (s : State) (e key : Nat) : RouterState :=
  { s.router e with
    held := (s.router e).held.filter fun x => x.group ≠ some key
    comb := insertAt key (groupEntry s e key) (s.router e).comb }

theorem departGroup_group {s : State} {e key : Nat} {h : HeldReq} (hgroup : h.group = some key) (hhome : AtHomeRouter s e h.req) :
    departGroup e h s = .ok () (posting (withRouter s e (groupLeft s e key))
      [.combinedAtHome (combined s.pkg e key (groupMembers s e key) h.req)]) := by
  unfold departGroup
  rw [M.bind_ok (M.get_run s), hgroup]
  exact (M.bind_ok (modRouter_run ..)).trans
    (passCombine_home (s := withRouter s e _) (r := combined s.pkg e key (groupMembers s e key) h.req) hhome.1 hhome.2)

/-- Those of two requests that have arrived by the ports below `n`, by their ports. -/
def pairBelow (a b : HeldReq) (n : Nat) : List HeldReq :=
  if a.port < n ∧ b.port < n then (if a.port ≤ b.port then [a, b] else [b, a])
  else if a.port < n then [a] else if b.port < n then [b] else []

theorem pairBelow_succ (a b : HeldReq) (n : Nat) : pairBelow a b (n + 1) = pairBelow a b n ++ [a, b].filter fun h => h.port = n := by
  rw [List.filter_cons, List.filter_cons, List.filter_nil]
  unfold pairBelow
  grind

theorem byPort_below (a b : HeldReq) (n : Nat) : ((List.range n).flatMap fun p => [a, b].filter fun h => h.port = p) = pairBelow a b n := by
  induction n with
  | zero => simp [pairBelow]
  | succ n ih => rw [List.range_succ, List.flatMap_append, ih, List.flatMap_singleton, pairBelow_succ]

/-- Two requests by their ports. -/
theorem byPort_pair {a b : HeldReq} (ha : a.port < 28) (hb : b.port < 28) : byPort [a, b] = if a.port ≤ b.port then [a, b] else [b, a] := by
  unfold byPort
  rw [byPort_below]
  unfold pairBelow
  rw [if_pos ⟨ha, hb⟩]

theorem lookupD_map_some {α : Type} (m : SMap α) (k : Nat) (v : α) :
    lookupD none ((insertAt k v m).map fun x => (x.1, some x.2)) k = some v := by
  induction m with
  | nil => simp [insertAt, lookupD]
  | cons e m ih =>
    obtain ⟨a, w⟩ := e
    rw [insertAt]
    split
    · simp [lookupD]
    · split
      · subst ‹k = a›
        simp [lookupD]
      · rw [List.map_cons, lookupD, if_neg ‹_›]
        exact ih

section Pair
variable {s : State} {e key : Nat} {a b : HeldReq} (hheld : (s.router e).held = [a, b]) (ha : a.group = some key) (hb : b.group = some key)
include hheld ha hb

theorem groupLeft_held : (groupLeft s e key).held = [] := by
  unfold groupLeft
  dsimp only
  rw [hheld]
  simp [ha, hb]

theorem groupMembers_pair (hpa : a.port < 28) (hpb : b.port < 28) : groupMembers s e key = if a.port ≤ b.port then [a, b] else [b, a] := by
  have hfilter : ([a, b].filter fun x => x.group = some key) = [a, b] := by simp [ha, hb]
  unfold groupMembers
  rw [hheld, hfilter, byPort_pair hpa hpb]

theorem departs_pair {i : Nat} (hnow : s.now = .combineDepart e i) (hi : i < 2) (hhome : AtHomeRouter s e a.req) (haddr : b.req.addr = a.req.addr) :
    ∃ h, (h = a ∨ h = b) ∧ Happens .combineDepart s (posting (withRouter s e (groupLeft s e key))
      [.combinedAtHome (combined s.pkg e key (groupMembers s e key) h.req)]) := by
  have hhomeb : AtHomeRouter s e b.req := by
    unfold AtHomeRouter
    rw [haddr]
    exact hhome
  match i with
  | 0 => exact ⟨a, .inl rfl, combineDepart_takes hnow (by rw [hheld]; rfl) (departGroup_group ha hhome)⟩
  | 1 => exact ⟨b, .inr rfl, combineDepart_takes hnow (by rw [hheld]; rfl) (departGroup_group hb hhomeb)⟩

end Pair

/-- What two requests become, whichever of them leaves and in whichever order they stand. -/
theorem combined_pair {a b h : HeldReq} (hh : h = a ∨ h = b) (haddr : b.req.addr = a.req.addr) (hk : b.req.k = a.req.k) (pkg e key : Nat) :
    let c := combined pkg e key (if a.port ≤ b.port then [a, b] else [b, a]) h.req
    c.addr = a.req.addr ∧ c.k = a.req.k ∧ c.leaves = a.req.leaves + b.req.leaves ∧ c.win = min a.req.win b.req.win ∧
      c.total = BitVec.ofNat 64 ((a.req.total.toNat + b.req.total.toNat) % 2 ^ (8 * a.req.k)) ∧
      (c.recs.map (·.1)).head? = some { pkg := pkg, router := e, stage := key / 256, entry := key % 256 } := by
  dsimp only
  unfold combined
  dsimp only
  rcases hh with rfl | rfl
  · split
    · simp [Nat.min_comm, Nat.min_left_comm]
    · simp [Nat.add_comm, Nat.min_comm, Nat.min_left_comm]
  · split
    · simp [haddr, hk, Nat.min_comm, Nat.min_left_comm]
    · simp [haddr, hk, Nat.add_comm, Nat.min_comm, Nat.min_left_comm]

theorem groupsDepart : GroupsDepart := by
  intro s e i hnow
  dsimp only
  refine ⟨fun hi => ?_, fun h hi hgroup hhome => combineDepart_takes hnow hi (departGroup_alone hgroup hhome), ?_⟩
  · have hnone : (s.router e).held[i]? = none := List.getElem?_eq_none hi
    unfold Happens
    change execCombineDepart s = _
    unfold execCombineDepart
    rw [hnow]
    dsimp only
    rw [hnone]
  · intro a b key hheld hi ha hb hhome haddr hk hwidth hpa hpb
    obtain ⟨h, hh, hrun⟩ := departs_pair hheld ha hb hnow hi hhome haddr
    rw [groupMembers_pair hheld ha hb hpa hpb] at hrun
    obtain ⟨h1, h2, h3, h4, h5, h6⟩ := combined_pair hh haddr hk s.pkg e key
    refine ⟨_, _, groupEntry s e key, hrun, rfl, ?_, ?_, ?_, h1, h2, h3, h4, ?_, h6⟩
    · exact (congrArg RouterState.held (router_withRouter s e _)).trans (groupLeft_held hheld ha hb)
    · have hcomb := congrArg RouterState.comb (router_withRouter s e (groupLeft s e key))
      rw [show (posting (withRouter s e (groupLeft s e key)) _).router e = (withRouter s e (groupLeft s e key)).router e from rfl, hcomb]
      exact lookupD_map_some _ key _
    · unfold groupEntry
      dsimp only
      rw [groupMembers_pair hheld ha hb hpa hpb]
      split <;> rfl
    · rw [h5, BitVec.toNat_ofNat, Nat.mod_eq_of_lt]
      rcases hwidth with hw | hw <;> rw [hw] <;> omega

/-! ## At the home, and back -/

theorem combinedAtHome_takes {s t : State} {r : CombReq} (hnow : s.now = .combinedAtHome r) (hrun : performCombined r s = .ok () t) :
    Happens .combinedAtHome s t := by
  refine happens_runEvent (body := performCombined r) ?_ hrun
  change execCombinedAtHome s = _
  unfold execCombinedAtHome
  rw [hnow]

/-- A leaf of this package gets its answer in an event. -/
theorem answerMember_leaf {s : State} {r : CombReq} (hrecs : r.recs = []) (hsrc : r.src.toNat / 16384 = s.pkg) (value base total : Word)
    (lost : Bool) (fault : Option (BitVec 8)) (echoes : List (CombTag × List Word)) :
    ∃ ev, answerMember r value base total lost fault echoes s = .ok () (posting s [ev]) ∧ RepliesTo ev r.txn (match fault with
      | some c => if c = cPeer then .unreachable else .fail c 0
      | none => if lost then .lost base total else .value value) := by
  unfold answerMember
  rw [hrecs]
  dsimp only
  unfold answerLeaf
  rw [M.bind_ok (M.get_run s)]
  dsimp only
  rw [if_pos hsrc]
  exact ⟨_, rfl, _, rfl, rfl, rfl⟩

section AtHome
variable {s : State} {r : CombReq} (hsrc : r.src.toNat / 16384 = s.pkg)
include hsrc

theorem addAtHome_elsewhere (hplace : place (localOf r.addr) ≠ .dram) : addAtHome r s = .error (.trap cXlat (BitVec.ofNat 64 r.addr) none) s := by
  unfold addAtHome
  rw [M.bind_ok (M.get_run s), decide_eq_true hsrc, Bool.true_or, decide_eq_true hplace]
  rfl

theorem addAtHome_dram (hlow : localOf r.addr < 2 ^ 40) (hplain : PlainBytes s (localOf r.addr) r.k) :
    ∃ t, addAtHome r s = .ok (leNat (s.bytesAt (localOf r.addr) r.k)) t ∧ t.agenda = s.agenda ∧ t.pkg = s.pkg ∧ Written s t (localOf r.addr)
      (leBytes r.k ((leNat (s.bytesAt (localOf r.addr) r.k) + r.total.toNat) % 2 ^ (8 * r.k))) := by
  obtain ⟨-, hpart, -, -, hall⟩ := id hplain
  have hall' : ∀ i < (leBytes r.k ((leNat (s.bytesAt (localOf r.addr) r.k) + r.total.toNat) % 2 ^ (8 * r.k))).length,
      cacheable (localOf r.addr + i) = true ∧ s.badAt (localOf r.addr + i) = 0 := by rw [length_leBytes]; exact hall
  obtain ⟨t, hrun, hput, hmem, -⟩ := pathWrite_run hpart hall' r.src 5
  have hsectors : checkSectors (localOf r.addr) (localOf r.addr) r.k s = .ok () s := by
    have hbad : s.firstBad (localOf r.addr) r.k = none := by
      unfold State.firstBad
      rw [List.findSome?_eq_none_iff]
      intro i hi
      rw [if_neg]
      rw [(hall i (List.mem_range.mp hi)).2]
      simp
    unfold checkSectors
    rw [hbad]
  refine ⟨t, ?_, hput.agenda, hput.pkg, written_of_mem (fun i hi => (hall' i hi).1) hmem⟩
  unfold addAtHome
  rw [M.bind_ok (M.get_run s), decide_eq_true hsrc, Bool.true_or, place_dram hlow]
  exact (M.bind_ok (a := ()) (t := s) rfl).trans ((M.bind_ok hsectors).trans ((M.bind_ok (homeRead_run hpart ..)).trans (M.bind_ok hrun)))

variable (hrecs : r.recs = [])
include hrecs

theorem performCombined_dram (hlow : localOf r.addr < 2 ^ 40) (hplain : PlainBytes s (localOf r.addr) r.k) :
    ∃ t ev, performCombined r s = .ok () t ∧ t.agenda = s.agenda ++ [ev] ∧
      RepliesTo ev r.txn (.value (BitVec.ofNat 64 (leNat (s.bytesAt (localOf r.addr) r.k)))) ∧ Written s t (localOf r.addr)
      (leBytes r.k ((leNat (s.bytesAt (localOf r.addr) r.k) + r.total.toNat) % 2 ^ (8 * r.k))) := by
  obtain ⟨t, hadd, hagenda, hpkg, hwritten⟩ := addAtHome_dram hsrc hlow hplain
  obtain ⟨ev, hanswer, hreply⟩ := answerMember_leaf (s := t) hrecs (hsrc.trans hpkg.symm) (BitVec.ofNat 64 (leNat (s.bytesAt (localOf r.addr) r.k)))
    (BitVec.ofNat 64 (leNat (s.bytesAt (localOf r.addr) r.k))) r.total false none r.recs
  refine ⟨posting t [ev], ev, (M.bind_ok (attempt_ok hadd)).trans hanswer, ?_, hreply, hwritten⟩
  exact congrArg (· ++ [ev]) hagenda

theorem performCombined_elsewhere (hplace : place (localOf r.addr) ≠ .dram) :
    ∃ ev, performCombined r s = .ok () (posting s [ev]) ∧ RepliesTo ev r.txn (.fail cXlat 0) := by
  obtain ⟨ev, hanswer, hreply⟩ := answerMember_leaf hrecs hsrc 0 0 r.total false (some cXlat) r.recs
  refine ⟨ev, ?_, hreply⟩
  have hattempt : attempt (addAtHome r) s = .ok (.error (.trap cXlat (BitVec.ofNat 64 r.addr) none)) s := by
    unfold attempt
    rw [addAtHome_elsewhere hsrc hplace]
    rfl
  exact (M.bind_ok hattempt).trans hanswer

end AtHome

theorem place_ne_dram {a : Nat} (h : 2 ^ 40 ≤ a) : place a ≠ .dram := by
  have hnot : ¬a < dieWindows := by
    unfold dieWindows
    omega
  unfold place
  rw [if_neg hnot]
  dsimp only
  split_ifs <;> nofun

/-! ## Splitting -/

theorem combSplit_takes {s t : State} {a : CombAnswer} (hnow : s.now = .combSplit a) (hrun : splitAnswer a s = .ok () t) :
    Happens .combSplit s t := by
  refine happens_runEvent (body := splitAnswer a) ?_ hrun
  change execCombSplit s = _
  unfold execCombSplit
  rw [hnow]

theorem splitAnswer_none {s : State} {a : CombAnswer} (h : ∀ e ∈ (s.router a.tag.router).comb, e.1 ≠ a.tag.stage * 256 + a.tag.entry) :
    splitAnswer a s = .ok () s := by
  have hfind : (s.router a.tag.router).comb.find? (fun e => e.1 = a.tag.stage * 256 + a.tag.entry) = none := by
    rw [List.find?_eq_none]
    exact fun e he => by simpa using h e he
  unfold splitAnswer
  rw [M.bind_ok (M.get_run s)]
  dsimp only
  rw [hfind]
  rfl

/-- What the router makes of an answer to a group, once its entry is free. -/
def splitEntry (a : CombAnswer) (x : CombEntry) : M Unit :=
  if x.mapLost then pure ()
  else if a.lost then
    for m in x.members do
      answerMember m.2.1 0 a.base a.total true none a.echoes
  else match x.sums a with
    | some sums => splitMembers a ((x.members.head?.map fun m => m.2.1.k).getD 8) a.base.toNat ((x.members.map (·.2.1)).zip sums)
    | none =>
      for m in x.members do
        answerMember m.2.1 0 a.base a.total a.fault.isNone a.fault a.echoes

theorem splitAnswer_some {s : State} {a : CombAnswer} {x : CombEntry}
    (h : (s.router a.tag.router).comb.find? (fun e => e.1 = a.tag.stage * 256 + a.tag.entry) = some (a.tag.stage * 256 + a.tag.entry, x)) :
    splitAnswer a s = splitEntry a x (withRouter s a.tag.router
      { s.router a.tag.router with comb := removeAt (a.tag.stage * 256 + a.tag.entry) (s.router a.tag.router).comb }) := by
  unfold splitAnswer
  rw [M.bind_ok (M.get_run s)]
  dsimp only
  rw [h]
  exact M.bind_ok (modRouter_run ..)

theorem posting_posting (s : State) (l l' : List Event) : posting (posting s l) l' = posting s (l ++ l') := by
  unfold posting
  dsimp only
  rw [List.append_assoc]

section Members
variable {s : State} {m n : CombReq} (hm : m.recs = []) (hn : n.recs = []) (hms : m.src.toNat / 16384 = s.pkg) (hns : n.src.toNat / 16384 = s.pkg)
include hm hn hms hns

/-- A loop over the members answers each. -/
theorem answered_loop (p q : Nat) (U V : Word) (base total : Word) (lost : Bool) (fault : Option (BitVec 8)) (echoes : List (CombTag × List Word)) :
    ∃ e f, (do
      for x in [(p, m, U), (q, n, V)] do
        answerMember x.2.1 0 base total lost fault echoes : M Unit) s = .ok () (posting s [e, f]) ∧
      RepliesTo e m.txn (match fault with
        | some c => if c = cPeer then .unreachable else .fail c 0
        | none => if lost then .lost base total else .value 0) ∧
      RepliesTo f n.txn (match fault with
        | some c => if c = cPeer then .unreachable else .fail c 0
        | none => if lost then .lost base total else .value 0) := by
  obtain ⟨e, he, hre⟩ := answerMember_leaf hm hms 0 base total lost fault echoes
  obtain ⟨f, hf, hrf⟩ := answerMember_leaf (s := posting s [e]) hn hns 0 base total lost fault echoes
  refine ⟨e, f, ?_, hre, hrf⟩
  have h1 : (do
      answerMember m 0 base total lost fault echoes
      pure (.yield ⟨⟩) : M (ForInStep PUnit)) s = .ok (.yield ⟨⟩) (posting s [e]) := (M.bind_ok he).trans rfl
  have h2 : (do
      answerMember n 0 base total lost fault echoes
      pure (.yield ⟨⟩) : M (ForInStep PUnit)) (posting s [e]) = .ok (.yield ⟨⟩) (posting (posting s [e]) [f]) := (M.bind_ok hf).trans rfl
  rw [List.forIn_cons, bind_assoc, M.bind_ok h1]
  dsimp only
  rw [List.forIn_cons, bind_assoc, M.bind_ok h2, posting_posting]
  rfl

theorem answered_sums (a : CombAnswer) (k : Nat) (U V : Word) :
    ∃ e f, splitMembers a k a.base.toNat [(m, U), (n, V)] s = .ok () (posting s [e, f]) ∧
      RepliesTo e m.txn (match a.fault with
        | some c => if c = cPeer then .unreachable else .fail c 0
        | none => .value a.base) ∧
      RepliesTo f n.txn (match a.fault with
        | some c => if c = cPeer then .unreachable else .fail c 0
        | none => .value (BitVec.ofNat 64 ((a.base.toNat + U.toNat) % 2 ^ (8 * k)))) := by
  obtain ⟨e, he, hre⟩ := answerMember_leaf hm hms (BitVec.ofNat 64 a.base.toNat) a.base a.total false a.fault a.echoes
  obtain ⟨f, hf, hrf⟩ := answerMember_leaf (s := posting s [e]) hn hns (BitVec.ofNat 64 ((a.base.toNat + U.toNat) % 2 ^ (8 * k)))
    a.base a.total false a.fault a.echoes
  refine ⟨e, f, ?_, ?_, hrf⟩
  · unfold splitMembers
    rw [M.bind_ok he]
    unfold splitMembers
    rw [M.bind_ok hf, posting_posting]
    rfl
  · rw [BitVec.ofNat_toNat, BitVec.setWidth_eq] at hre
    exact hre

end Members

theorem sumsAreSplit : SumsAreSplit := by
  refine ⟨fun s r hnow hrecs hsrc hk => ⟨fun hlow hplain => ?_, fun hhigh => ?_⟩, fun s a hnow => ⟨fun hno => combSplit_takes hnow (splitAnswer_none hno), ?_⟩⟩
  · obtain ⟨t, ev, hrun, hagenda, hreply, hwritten⟩ := performCombined_dram hsrc hrecs hlow hplain
    exact ⟨t, ev, combinedAtHome_takes hnow hrun, hagenda, hreply, hwritten⟩
  · obtain ⟨ev, hrun, hreply⟩ := performCombined_elsewhere hsrc hrecs (place_ne_dram hhigh)
    exact ⟨ev, combinedAtHome_takes hnow hrun, hreply⟩
  · intro x p q m n U V hfind hmembers hm hn hms hns hk hbase
    have hsplit := splitAnswer_some hfind
    have hhappens {t : State} (h : splitEntry a x _ = .ok () t) : Happens .combSplit s t := combSplit_takes hnow (hsplit.trans h)
    generalize hfreed : withRouter s a.tag.router _ = u at hsplit hhappens
    have hpkg : u.pkg = s.pkg := by rw [← hfreed]; rfl
    rw [← hpkg] at hms hns
    dsimp only
    have hwidth : (x.members.head?.map fun m => m.2.1.k).getD 8 = m.k := by rw [hmembers]; rfl
    have hzip (us : List Word) : (x.members.map (·.2.1)).zip us = [m, n].zip us := by rw [hmembers]; rfl
    have hsums (hmap : x.mapLost = false) (hlost : a.lost = false) {W Z : Word} (hs : x.sums a = some [W, Z]) :
        splitEntry a x u = splitMembers a m.k a.base.toNat [(m, W), (n, Z)] u := by
      unfold splitEntry
      rw [hmap, hlost, if_neg Bool.false_ne_true, if_neg Bool.false_ne_true, hs]
      dsimp only
      rw [hwidth, hzip]
      rfl
    obtain ⟨e1, f1, h1, hr1⟩ := answered_loop (s := u) hm hn hms hns p q U V a.base a.total true none a.echoes
    refine ⟨fun hmap => hhappens ?_, fun hmap hlost => ⟨e1, f1, hhappens ?_, hr1⟩, fun hmap hlost hfault hrec => ?_,
      fun us hmap hlost hfault hrec hecho hechoes hlen => ?_, fun hmap hlost hfault hrec hecho => ⟨e1, f1, hhappens ?_, hr1⟩,
      fun c hmap hlost hfault hc hrec => ?_⟩
    · unfold splitEntry
      rw [if_pos hmap]
      rfl
    · unfold splitEntry
      rw [hmap, if_neg Bool.false_ne_true, if_pos hlost, hmembers]
      exact h1
    · obtain ⟨e, f, h, hr⟩ := answered_sums (s := u) hm hn hms hns a m.k U V
      rw [hfault] at hr
      refine ⟨e, f, hhappens ((hsums hmap hlost ?_).trans h), hr⟩
      unfold CombEntry.sums
      rw [hrec, hmembers]
      rfl
    · obtain ⟨W, Z, rfl⟩ := List.length_eq_two.mp hlen
      obtain ⟨e, f, h, hr⟩ := answered_sums (s := u) hm hn hms hns a m.k W Z
      rw [hfault] at hr
      refine ⟨e, f, hhappens ((hsums hmap hlost ?_).trans h), hr⟩
      unfold CombEntry.sums
      rw [hrec, hecho, hechoes]
      simp
    · have hnone : x.sums a = none := by
        unfold CombEntry.sums
        rw [hrec, hecho]
        rfl
      unfold splitEntry
      rw [hmap, hlost, if_neg Bool.false_ne_true, if_neg Bool.false_ne_true, hnone, hmembers, hfault]
      exact h1
    · obtain ⟨e, f, h, hr⟩ := answered_sums (s := u) hm hn hms hns a m.k U V
      rw [hfault] at hr
      dsimp only at hr
      rw [if_neg hc] at hr
      refine ⟨e, f, hhappens ((hsums hmap hlost ?_).trans h), hr⟩
      unfold CombEntry.sums
      rw [hrec, hmembers]
      rfl

end Sys2Proof.Claims
end

section
/-! SUPPORT. Uncorrectable errors (R342, R357, R430). -/

namespace Sys2Proof.Claims

open Sys2Proof.Machine

theorem uncorrectableError_takes {s t : State} {u : ErrUnit} (hnow : s.now = .uncorrectableError u) (hrun : strike u s = .ok () t) :
    Happens .uncorrectableError s t := by
  refine happens_runEvent (body := strike u) ?_ hrun
  change execUncorrectableError s = _
  unfold execUncorrectableError
  rw [hnow]

/-! ## Addresses under which bytes are kept -/

/-- The offset in a die of an address that names a scratchpad by its quad's window. -/
def InWindow (a : Nat) : Prop := dieWindows ≤ a ∧ a < dieWindows + 8 * 0x40000000 ∧ 0x10000000 ≤ (a - dieWindows) % 0x40000000 ∧ (a - dieWindows) % 0x40000000 < 0x18000000

theorem spadAddr_of_offset {a : Nat} (hlow : dieWindows ≤ a) (ho : 0x8000000 ≤ (a - dieWindows) % 0x40000000)
    (ho' : (a - dieWindows) % 0x40000000 < 0x10000000) :
    spadAddr ((a - dieWindows) / 0x40000000 * 512 + ((a - dieWindows) % 0x40000000 - 0x8000000) / 0x40000)
      ((a - dieWindows) % 0x40000000 % 0x40000) = a := by
  unfold spadAddr
  generalize hx : a - dieWindows = x at *
  have ha : a = dieWindows + x := by omega
  rw [ha]
  omega

/-- The two sorts of names of a scratchpad's byte. -/
theorem place_coreSpad {a c o : Nat} (h : place a = .coreSpad c o) :
    (¬InWindow a ∧ spadAddr c o = a) ∨ (InWindow a ∧ c < 4096 ∧ o < 0x40000) := by
  unfold place at h
  split at h
  · exact absurd h nofun
  rename_i hlow
  split at h
  · rename_i hhigh
    dsimp only at h
    split at h
    · exact absurd h nofun
    split at h
    · exact absurd h nofun
    split at h
    · obtain ⟨rfl, rfl⟩ := Place.coreSpad.inj h
      refine .inl ⟨fun hw => ?_, spadAddr_of_offset (by omega) (by omega) (by omega)⟩
      obtain ⟨-, -, h1, -⟩ := hw
      omega
    split at h
    · obtain ⟨rfl, rfl⟩ := Place.coreSpad.inj h
      refine .inr ⟨⟨by omega, hhigh, by omega, by omega⟩, ?_, ?_⟩
      · have hx : a - dieWindows < 8 * 0x40000000 := by omega
        generalize a - dieWindows = x at *
        omega
      · omega
    split at h
    · exact absurd h nofun
    split at h <;> exact absurd h nofun
  · split at h
    · exact absurd h nofun
    split at h <;> exact absurd h nofun

theorem canon_of_not_window {a : Nat} (h : ¬InWindow a) : canon a = a := by
  unfold canon
  split
  case h_1 c o hp =>
    rcases place_coreSpad hp with ⟨-, heq⟩ | ⟨hw, -⟩
    · exact heq
    · exact absurd hw h
  case h_2 => rfl

theorem canon_not_window (a : Nat) : ¬InWindow (canon a) := by
  unfold canon
  split
  case h_1 c o hp =>
    rcases place_coreSpad hp with ⟨hw, heq⟩ | ⟨-, hc, ho⟩
    · rwa [heq]
    · rintro ⟨-, -, h1, -⟩
      unfold spadAddr at h1
      omega
  case h_2 hp =>
    rintro ⟨h1, h2, h3, h4⟩
    obtain ⟨c, o, h⟩ : ∃ c o, place a = .coreSpad c o := by
      unfold place
      rw [if_neg (by omega), if_pos h2]
      dsimp only
      rw [if_neg (by omega), if_neg (by omega), if_neg (by omega), if_pos h4]
      exact ⟨_, _, rfl⟩
    exact hp c o h

/-- The 32 bytes of a sector are kept under addresses of their own, in a row. -/
theorem canon_sector (a : Nat) {i : Nat} (hi : i < 32) : canon (canon a / 32 * 32 + i) = canon a / 32 * 32 + i := by
  apply canon_of_not_window
  have h := canon_not_window a
  unfold InWindow dieWindows at *
  omega

theorem byteAt_putBytes_fixed {s : State} {a : Nat} (bs : List Byte) (hfix : ∀ i < bs.length, canon (a + i) = a + i) (j : Nat) :
    (s.putBytes a bs).byteAt j = if a ≤ canon j ∧ canon j < a + bs.length then bs.getD (canon j - a) 0 else s.byteAt j := by
  induction bs generalizing s a with
  | nil =>
    rw [if_neg (by simp)]
    rfl
  | cons b bs ih =>
    have hhead : canon a = a := by simpa using hfix 0 (by simp)
    have htail : ∀ i < bs.length, canon (a + 1 + i) = a + 1 + i := by
      intro i hi
      have := hfix (i + 1) (by simpa using hi)
      rwa [show a + (i + 1) = a + 1 + i by omega] at this
    have hbyte : (s.putByte a b).byteAt j = if canon j = a then b else s.byteAt j := by
      unfold State.byteAt State.putByte
      dsimp only
      rw [hhead, lookupD_storeAt]
    rw [State.putBytes, ih htail, hbyte, List.length_cons]
    by_cases h1 : canon j = a
    · rw [if_neg (by omega), if_pos h1, if_pos (by omega), h1, Nat.sub_self]
      rfl
    · rw [if_neg h1]
      by_cases h2 : a + 1 ≤ canon j ∧ canon j < a + 1 + bs.length
      · rw [if_pos h2, if_pos (by omega), show canon j - a = canon j - (a + 1) + 1 by omega]
        rfl
      · rw [if_neg h2, if_neg (by omega)]

theorem strandsSame_putBytes (s : State) (a : Nat) (bs : List Byte) : (s.putBytes a bs).strands = s.strands := by
  induction bs generalizing s a with
  | nil => rfl
  | cons b bs ih => exact ih (s.putByte a b) (a + 1)

theorem badSame_putBytes (s : State) (a : Nat) (bs : List Byte) : (s.putBytes a bs).bad = s.bad := by
  induction bs generalizing s a with
  | nil => rfl
  | cons b bs ih => exact ih (s.putByte a b) (a + 1)

/-! ## Interrupts of the control strand -/

theorem raiseControl_run {s : State} {b : Nat} (hcontrol : s.units.control = some b) (hlive : (s.strand b).live) (c : BitVec 8) (v : Word) :
    raiseControl c v s = .ok () (s.withStrand b ((s.strand b).interrupt c v)) := by
  unfold raiseControl
  rw [M.bind_ok (M.get_run s), hcontrol]
  dsimp only
  rw [if_pos hlive]
  rfl

/-! ## Phases that end by an error -/

theorem contribution_cause (check : Bool) : errorCause check ≠ 0 := by cases check <;> decide

/-- What the members' terms become as a phase ends. -/
theorem clearTerms_run {α : Type} (m : BitVec 128) (l : List (Nat × α)) (s : State) : ∃ t,
    forIn l PUnit.unit (fun d _ => (do
      modStrand d.1 fun t => { t with redTerms := t.redTerms &&& m }
      pure (.yield ⟨⟩) : M (ForInStep PUnit))) s = .ok ⟨⟩ t ∧ t.mem = s.mem ∧ (∀ n, (∀ d ∈ l, d.1 ≠ n) → t.strand n = s.strand n) ∧
      ∀ n, (t.strand n).live = (s.strand n).live ∧ (t.strand n).redOpen = (s.strand n).redOpen ∧ (t.strand n).redStatus = (s.strand n).redStatus := by
  induction l generalizing s with
  | nil => exact ⟨s, rfl, rfl, fun _ _ => rfl, fun _ => ⟨rfl, rfl, rfl⟩⟩
  | cons d l ih =>
    obtain ⟨t, hrun, hmem, hother, hsame⟩ := ih (s.withStrand d.1 { s.strand d.1 with redTerms := (s.strand d.1).redTerms &&& m })
    refine ⟨t, by rw [List.forIn_cons]; exact hrun, hmem, fun n hn => ?_, fun n => ?_⟩
    · rw [hother n fun x hx => hn x (List.mem_cons_of_mem d hx)]
      exact State.strand_withStrand_ne _ _ _ _ (hn d List.mem_cons_self).symm
    · obtain ⟨h1, h2, h3⟩ := hsame n
      rw [h1, h2, h3]
      by_cases hn : n = d.1
      · rw [hn, State.strand_withStrand_same]
        exact ⟨rfl, rfl, rfl⟩
      · rw [State.strand_withStrand_ne _ _ _ _ hn]
        exact ⟨rfl, rfl, rfl⟩

theorem endContribution_run {s : State} {n : Nat} (b : Nat) (status : Word) (hlive : (s.strand n).live) :
    endContribution n b status s = .ok () (s.withStrand n (if lookupD 0 (s.strand n).redOpen b = 0 then s.strand n
      else { s.strand n with redOpen := storeAt 0 b 0 (s.strand n).redOpen, redStatus := storeAt 0 b status (s.strand n).redStatus })) :=
  modStrandOrSaved_live _ hlive

/-- Whether a strand's contribution has ended with a status. -/
def Ended (b : Nat) (status : Word) (t : Strand) : Prop := lookupD 0 t.redOpen b = 0 ∧ lookupD 0 t.redStatus b = status

/-- The contributions of every strand of a list, each open or ended already, end. -/
theorem endContributions_run {α : Type} (b : Nat) (status : Word) (l : List (Nat × α)) (s : State) (hlive : ∀ d ∈ l, (s.strand d.1).live)
    (hopen : ∀ d ∈ l, lookupD 0 (s.strand d.1).redOpen b ≠ 0 ∨ Ended b status (s.strand d.1)) : ∃ t,
    forIn l PUnit.unit (fun d _ => (do
      endContribution d.1 b status
      pure (.yield ⟨⟩) : M (ForInStep PUnit))) s = .ok ⟨⟩ t ∧ t.mem = s.mem ∧ (∀ n, (∀ d ∈ l, d.1 ≠ n) → t.strand n = s.strand n) ∧
      (∀ n, Ended b status (s.strand n) → Ended b status (t.strand n)) ∧ ∀ d ∈ l, Ended b status (t.strand d.1) := by
  induction l generalizing s with
  | nil => exact ⟨s, rfl, rfl, fun _ _ => rfl, fun _ h => h, nofun⟩
  | cons d l ih =>
    have hrun := endContribution_run b status (hlive d List.mem_cons_self)
    have hnow : Ended b status (if lookupD 0 (s.strand d.1).redOpen b = 0 then s.strand d.1
        else { s.strand d.1 with redOpen := storeAt 0 b 0 (s.strand d.1).redOpen, redStatus := storeAt 0 b status (s.strand d.1).redStatus }) := by
      split
      · exact (hopen d List.mem_cons_self).resolve_left fun h => h ‹_›
      · exact ⟨lookupD_storeAt_same 0 b 0 (s.strand d.1).redOpen, lookupD_storeAt_same 0 b status (s.strand d.1).redStatus⟩
    have hstill : (if lookupD 0 (s.strand d.1).redOpen b = 0 then s.strand d.1
        else { s.strand d.1 with redOpen := storeAt 0 b 0 (s.strand d.1).redOpen, redStatus := storeAt 0 b status (s.strand d.1).redStatus }).live =
        (s.strand d.1).live := by split <;> rfl
    generalize (if lookupD 0 (s.strand d.1).redOpen b = 0 then s.strand d.1
      else { s.strand d.1 with redOpen := storeAt 0 b 0 (s.strand d.1).redOpen, redStatus := storeAt 0 b status (s.strand d.1).redStatus }) = x at hrun hnow hstill
    have hsame (n : Nat) : (s.withStrand d.1 x).strand n = if n = d.1 then x else s.strand n := by
      split
      · rw [‹n = d.1›, State.strand_withStrand_same]
      · exact State.strand_withStrand_ne _ _ _ _ ‹_›
    obtain ⟨t, hloop, hmem, hother, hkeep, hall⟩ := ih (s.withStrand d.1 x)
      (fun e he => by
        rw [hsame]
        split
        · rw [hstill]
          exact hlive d List.mem_cons_self
        · exact hlive e (List.mem_cons_of_mem d he))
      (fun e he => by
        rw [hsame]
        split
        · exact .inr hnow
        · exact hopen e (List.mem_cons_of_mem d he))
    refine ⟨t, ?_, hmem, fun n hn => ?_, fun n hn => hkeep n ?_, fun e he => ?_⟩
    · have hstep : (do
          endContribution d.1 b status
          pure (.yield ⟨⟩) : M (ForInStep PUnit)) s = .ok (.yield ⟨⟩) (s.withStrand d.1 x) := (M.bind_ok hrun).trans rfl
      rw [List.forIn_cons, M.bind_ok hstep]
      exact hloop
    · rw [hother n fun e he => hn e (List.mem_cons_of_mem d he), hsame, if_neg (hn d List.mem_cons_self).symm]
    · rw [hsame]
      split
      · exact hnow
      · exact hn
    · rcases List.mem_cons.mp he with rfl | he
      · exact hkeep e.1 (by rw [hsame, if_pos rfl]; exact hnow)
      · exact hall e he

theorem deliverPhase_error {s : State} {scope g : Nat} {cause : BitVec 8} (hcause : cause ≠ 0)
    (hparts : (s.redGroup (redKey (g / 16) scope (g % 16))).parts = []) :
    deliverPhase scope g cause none s = endPhase scope (g % 16) (redKey (g / 16) scope (g % 16)) cause 0 [] s := by
  unfold deliverPhase
  rw [M.bind_ok (M.get_run s)]
  dsimp only
  rw [hparts]
  dsimp only
  rw [if_neg hcause]

theorem errorCause_eq (integ : Bool) : errorCause integ = if integ then cInteg else cEcc := rfl

theorem strike_miscorrected {s : State} {pa : Nat} {bytes : List Byte} (check : BitVec 16) (hlen : bytes.length = 32) :
    let t := { s.putBytes (canon pa / 32 * 32) (bytes.take 32) with
      bad := storeAt 0 (canon pa / 32 * 32 / 32) (if checkValue (bytes.take 32) = check then 0 else cInteg) s.bad }
    (∀ n, State.strand t n = s.strand n) ∧
      ∀ j, t.badAt j = (if canon j / 32 ≠ canon pa / 32 then s.badAt j else if checkValue bytes = check then 0 else cInteg) ∧
        t.byteAt j = if canon j / 32 = canon pa / 32 then bytes.getD (canon j % 32) 0 else s.byteAt j := by
  rw [List.take_of_length_le (by omega), Nat.mul_div_cancel _ (by decide)]
  dsimp only
  refine ⟨fun n => congrArg (lookupD _ · n) (strandsSame_putBytes s _ bytes), fun j => ⟨?_, ?_⟩⟩
  · unfold State.badAt
    dsimp only
    rw [lookupD_storeAt]
    by_cases h : canon j / 32 = canon pa / 32
    · rw [if_pos h, if_neg (not_not_intro h)]
    · rw [if_neg h, if_pos h]
  · have hbyte := byteAt_putBytes_fixed (s := s) (a := canon pa / 32 * 32) bytes (fun i hi => canon_sector pa (by omega)) j
    refine hbyte.trans ?_
    rw [hlen]
    by_cases h : canon j / 32 = canon pa / 32
    · rw [if_pos h, if_pos (by omega), ← h, show canon j - canon j / 32 * 32 = canon j % 32 by omega]
    · rw [if_neg h, if_neg (by omega)]

/-- What an error in a sector does to the line that a core holds. -/
theorem strikeLine_run (core line sector : Nat) (integ : Bool) (s : State) (hsector : sector < 4) :
    ∃ t, strikeLine core line sector integ s = .ok () t ∧ t.mem = s.mem ∧ t.bad = s.bad ∧ (∀ n, t.strand n = s.strand n) ∧
      let l := lookupD L1Line.empty (s.core core).lines line
      let k := lookupD L1Line.empty (t.core core).lines line
      k.bytes = l.bytes ∧ k.valid = l.valid ∧
        ∀ j < 4, lookupD 0 k.fails j = if j = sector ∧ l.valid.getLsbD sector then errorCause integ else lookupD 0 l.fails j := by
  refine ⟨_, rfl, rfl, rfl, fun n => rfl, ?_⟩
  dsimp only
  have hcore (v : CoreState) : (s.withCore core v).core core = v := lookupD_storeAt_same ..
  rw [hcore]
  by_cases hvalid : (lookupD L1Line.empty (s.core core).lines line).valid.getLsbD sector
  · rw [if_pos hvalid]
    dsimp only
    rw [lookupD_storeAt_same]
    refine ⟨rfl, rfl, fun j hj => ?_⟩
    dsimp only
    rw [lookupD_storeAt, Nat.mod_eq_of_lt hsector]
    simp [hvalid]
  · rw [if_neg hvalid]
    refine ⟨rfl, rfl, fun j hj => ?_⟩
    simp [hvalid]

/-- The comb table of a router in which an entry has been struck. -/
theorem modEntry_run (tag : CombTag) (f : CombEntry → CombEntry) (s : State) : ∃ t, modEntry tag f s = .ok () t ∧
    (t.router tag.router).comb = (s.router tag.router).comb.map fun e => if e.1 = tag.stage * 256 + tag.entry then (e.1, f e.2) else e :=
  ⟨_, modRouter_run .., congrArg RouterState.comb (router_withRouter s tag.router _)⟩

/-- The state in which the answer to a request has been destroyed. -/
def withLostAnswer (s : State) (txn : Nat) : State := { s with units := { s.units with lostAnswers := s.units.lostAnswers ++ [txn] } }

theorem destroyPacket_run {s : State} {txn b : Nat} {r : Request} (hcontrol : s.units.control = some b) (hlive : (s.strand b).live)
    (hfind : s.units.requests.find? (fun q => q.txn = txn) = some r) : ∃ t, destroyPacket txn s = .ok () t ∧
    t.units.lostAnswers = s.units.lostAnswers ++ [txn] ∧
    t.strand b = (s.strand b).interrupt cMachine (BitVec.ofNat 64 ((r.packet.dst * 2 ^ 41 + r.packet.addr) / 128 * 128)) := by
  have hraise := raiseControl_run (s := withLostAnswer s txn) hcontrol hlive cMachine (BitVec.ofNat 64 ((r.packet.dst * 2 ^ 41 + r.packet.addr) / 128 * 128))
  refine ⟨(withLostAnswer s txn).withStrand b ((s.strand b).interrupt cMachine
    (BitVec.ofNat 64 ((r.packet.dst * 2 ^ 41 + r.packet.addr) / 128 * 128))), ?_, rfl, State.strand_withStrand_same ..⟩
  unfold destroyPacket
  rw [M.bind_ok (M.get_run s), hfind]
  exact (M.bind_ok (M.set_run ..)).trans hraise

theorem endPhase_error {s : State} {scope g key : Nat} {cause : BitVec 8} (hcause : cause ≠ 0)
    (hdests : ∀ d ∈ (s.redGroup key).dests, (s.strand d.1).live ∧ lookupD 0 (s.strand d.1).redOpen (groupBit scope g) ≠ 0) :
    ∃ t, endPhase scope g key cause 0 [] s = .ok () t ∧ t.mem = s.mem ∧ (∀ n, (∀ d ∈ (s.redGroup key).dests, d.1 ≠ n) → t.strand n = s.strand n) ∧
      ∀ d ∈ (s.redGroup key).dests, Ended (groupBit scope g) (redError cause) (t.strand d.1) := by
  obtain ⟨u, hclear, hmemu, hotheru, hsame⟩ := clearTerms_run (~~~ (1#128 <<< groupBit scope g)) (s.redGroup key).dests
    (s.withRedGroup key (RedGroup.fresh ((s.redGroup key).phase + 1)))
  obtain ⟨t, hend, hmem, hother, -, hall⟩ := endContributions_run (groupBit scope g) (redError cause) (s.redGroup key).dests u
    (fun d hd => by
      obtain ⟨h1, -, -⟩ := hsame d.1
      rw [h1]
      exact (hdests d hd).1)
    (fun d hd => by
      obtain ⟨-, h2, -⟩ := hsame d.1
      rw [h2]
      exact .inl (hdests d hd).2)
  refine ⟨t, ?_, hmem.trans hmemu, fun n hn => (hother n hn).trans (hotheru n hn), hall⟩
  unfold endPhase
  rw [M.bind_ok (M.get_run s)]
  simp only [ne_eq, hcause, not_false_eq_true, if_true]
  exact (M.bind_ok (M.set_run ..)).trans ((M.bind_ok hclear).trans ((M.bind_ok hend).trans rfl))

theorem errorsStrike : ErrorsStrike := by
  refine ⟨fun s channel hnow => ⟨Config.correctedErrors channel s.steps, ?_⟩, fun s u hnow => ?_⟩
  · refine happens_runEvent (body := modify fun s => s.countPackage 0x2004 (Config.correctedErrors channel s.steps)) ?_ rfl
    change execPatrolScrub s = _
    unfold execPatrolScrub
    rw [hnow]
  · dsimp only
    refine ⟨?_, ?_, ?_, ?_, ?_, ?_, ?_, ?_, ?_⟩
    · rintro pa integ rfl
      refine ⟨_, uncorrectableError_takes hnow rfl, rfl, fun n => rfl, fun j => ?_⟩
      unfold State.badAt
      dsimp only
      rw [lookupD_storeAt]
      rfl
    · rintro pa bytes check rfl hlen
      obtain ⟨h1, h2⟩ := strike_miscorrected (s := s) (pa := pa) check hlen
      exact ⟨_, uncorrectableError_takes hnow rfl, h1, h2⟩
    · rintro core line sector integ rfl hsector
      obtain ⟨t, hrun, h⟩ := strikeLine_run core line sector integ s hsector
      exact ⟨t, uncorrectableError_takes hnow hrun, h⟩
    · rintro sid tile unit integ rfl htile hunit
      refine ⟨_, uncorrectableError_takes hnow rfl, rfl, fun a b c hb hc => ?_⟩
      have hkey : tileUnitKey a b c = tileUnitKey sid tile unit ↔ a = sid ∧ b = tile ∧ c = unit := by
        unfold tileUnitKey
        omega
      dsimp only
      rw [lookupD_storeAt, if_congr hkey rfl rfl]
      rfl
    · rintro sid acc row integ rfl hacc hrow
      refine ⟨_, uncorrectableError_takes hnow rfl, rfl, fun a b c hb hc => ?_⟩
      have hkey : accRowKey a b c = accRowKey sid acc row ↔ a = sid ∧ b = acc ∧ c = row := by
        unfold accRowKey
        omega
      dsimp only
      rw [lookupD_storeAt, if_congr hkey rfl rfl]
      rfl
    · rintro txn b r rfl hcontrol hlive hfind
      obtain ⟨t, hrun, h⟩ := destroyPacket_run hcontrol hlive hfind
      exact ⟨t, uncorrectableError_takes hnow hrun, h⟩
    · rintro tag rfl
      obtain ⟨t, hrun, h⟩ := modEntry_run tag (fun x => { x with recordLost := true }) s
      exact ⟨t, uncorrectableError_takes hnow hrun, h⟩
    · rintro tag rfl
      obtain ⟨t, hrun, h⟩ := modEntry_run tag (fun x => { x with mapLost := true }) s
      exact ⟨t, uncorrectableError_takes hnow hrun, h⟩
    · rintro scope g check rfl hparts hdests
      obtain ⟨t, hrun, hmem, hother, hall⟩ := endPhase_error (contribution_cause check) hdests
      exact ⟨t, uncorrectableError_takes hnow ((deliverPhase_error (contribution_cause check) hparts).trans hrun), hmem, hother, hall⟩

end Sys2Proof.Claims
end

section
/-! PROOF. O60: combining of fetch-and-adds, tag parity errors, and uncorrectable errors. -/

namespace Sys2Proof.Claims

open Sys2Proof.Machine

/-! ## Ends of strands that nothing waits for -/

/-- A strand runs as before, in the same groups, with the same tasks and the same pop. -/
structure KeptStrand (x y : Strand) : Prop where
  live : y.live = x.live
  members : y.members = x.members
  tasks : y.tasks = x.tasks
  pop : y.pop = x.pop

theorem KeptStrand.refl (x : Strand) : KeptStrand x x := ⟨rfl, rfl, rfl, rfl⟩

theorem KeptStrand.trans {x y z : Strand} (h : KeptStrand x y) (h' : KeptStrand y z) : KeptStrand x z :=
  ⟨h'.live.trans h.live, h'.members.trans h.members, h'.tasks.trans h.tasks, h'.pop.trans h.pop⟩

/-- What the end of a strand leaves as it is for the others. -/
structure Gentle (s t : State) : Prop where
  control : t.units.control = s.units.control
  launches : s.units.launches = [] → t.units.launches = []
  rings : t.units.rings = s.units.rings
  queues : t.units.queues = s.units.queues
  strand : ∀ n, KeptStrand (s.strand n) (t.strand n)

namespace Gentle

theorem refl (s : State) : Gentle s s := ⟨rfl, id, rfl, rfl, fun _ => .refl _⟩

theorem trans {s t u : State} (h : Gentle s t) (h' : Gentle t u) : Gentle s u :=
  ⟨h'.control.trans h.control, h'.launches ∘ h.launches, h'.rings.trans h.rings, h'.queues.trans h.queues, fun n => (h.strand n).trans (h'.strand n)⟩

theorem withStrand (s : State) (n : Nat) {x : Strand} (h : KeptStrand (s.strand n) x) : Gentle s (s.withStrand n x) := by
  refine ⟨rfl, id, rfl, rfl, fun m => ?_⟩
  by_cases hm : m = n
  · rw [hm, State.strand_withStrand_same]
    exact h
  · rw [State.strand_withStrand_ne _ _ _ _ hm]
    exact .refl _

theorem withColony (s : State) (id : Nat) (c : Option Colony) : Gentle s (s.withColony id c) := ⟨rfl, fun h => h, rfl, rfl, fun _ => .refl _⟩

theorem post (s : State) (l : List Event) : Gentle s (posting s l) := ⟨rfl, id, rfl, rfl, fun _ => .refl _⟩

end Gentle

/-- An action that completes with a value, and is gentle, where no launch is under way and no ring is bound. -/
structure Sure {α : Type} (m : M α) (a : α) : Prop where
  run : ∀ s, s.units.launches = [] → s.units.rings = [] → ∃ t, m s = .ok a t ∧ Gentle s t

namespace Sure

variable {α β : Type}

theorem pure (a : α) : Sure (pure a : M α) a := ⟨fun s _ _ => ⟨s, rfl, .refl s⟩⟩

theorem modify {f : State → State} (h : ∀ s, Gentle s (f s)) : Sure (modify f) ⟨⟩ := ⟨fun s _ _ => ⟨f s, rfl, h s⟩⟩

theorem bind {m : M α} {f : α → M β} {a : α} {b : β} (hm : Sure m a) (hf : Sure (f a) b) : Sure (m >>= f) b := by
  refine ⟨fun s hl hr => ?_⟩
  obtain ⟨t, ht, hst⟩ := hm.run s hl hr
  obtain ⟨u, hu, htu⟩ := hf.run t (hst.launches hl) (hst.rings.trans hr)
  exact ⟨u, (M.bind_ok ht).trans hu, hst.trans htu⟩

/-- An action after a read of the state. -/
theorem get {f : State → M β} {b : β} (h : ∀ s, s.units.launches = [] → s.units.rings = [] → ∃ t, f s s = .ok b t ∧ Gentle s t) :
    Sure (MonadState.get >>= f) b := ⟨fun s hl hr => h s hl hr⟩

theorem of_get {f : State → M β} {b : β} (h : ∀ s, Sure (f s) b) : Sure (MonadState.get >>= f) b := ⟨fun s hl hr => (h s).run s hl hr⟩

theorem ite {c : Prop} [Decidable c] {m n : M α} {a : α} (hm : Sure m a) (hn : Sure n a) : Sure (if c then m else n) a := by
  split
  · exact hm
  · exact hn

theorem forIn {l : List α} {f : α → PUnit → M (ForInStep PUnit)} (hf : ∀ a, Sure (f a ⟨⟩) (.yield ⟨⟩)) : Sure (forIn l PUnit.unit f) ⟨⟩ := by
  induction l with
  | nil => exact pure _
  | cons a l ih =>
    rw [List.forIn_cons]
    exact bind (hf a) ih

theorem modStrand (n : Nat) {f : Strand → Strand} (h : ∀ x, KeptStrand x (f x)) : Sure (modStrand n f) () :=
  ⟨fun s _ _ => ⟨_, rfl, .withStrand s n (h _)⟩⟩

theorem post (e : Event) : Sure (post e) () := modify fun s => .post s [e]

theorem holdScout (colony : Nat) (v : Word) : Sure (holdScout colony v) () := by
  refine modify fun s => ?_
  split
  · exact .withColony ..
  · exact .refl s

theorem returnScout (colony n : Nat) (t : Strand) : Sure (returnScout colony n t) () := by
  unfold Machine.returnScout
  refine bind (forIn fun e => ite (bind (holdScout ..) (pure _)) (pure _)) ?_
  exact modStrand n fun x => ⟨rfl, rfl, rfl, rfl⟩

theorem releaseScout (colony : Nat) : Sure (releaseScout colony) () := by
  unfold Machine.releaseScout
  refine of_get fun s => bind (forIn fun n => bind (returnScout ..) (pure _)) (of_get fun u => ?_)
  split
  · refine bind (forIn fun e => bind (modStrand _ fun x => ⟨rfl, rfl, rfl, rfl⟩) (pure _)) (modify fun s => .withColony ..)
  · exact pure ()

theorem offerLanes (q : Nat) : Sure (offerLanes q) () := of_get fun _ => ite (pure ()) (post _)

theorem endOfLaunch (launch : Nat) (failure : Option Word) : Sure (endOfLaunch launch failure) () := by
  refine get fun s hl hr => ⟨s, ?_, .refl s⟩
  rw [hl]
  rfl

theorem settleStops (colony : Nat) : Sure (settleStops colony) () := by
  refine get fun s hl hr => ?_
  split
  · rw [hl]
    refine ⟨_, (M.bind_ok (M.modify_run _ s)).trans rfl, ⟨rfl, fun h => ?_, rfl, rfl, fun _ => .refl _⟩⟩
    dsimp only
    rw [h]
    rfl
  · exact ⟨s, rfl, .refl s⟩

theorem settleYield (colony : Nat) : Sure (settleYield colony) () := by
  refine of_get fun s => ?_
  split
  · exact ite (post _) (pure ())
  · exact pure ()

theorem settleColony (colony : Nat) : Sure (settleColony colony) () := by
  refine get fun s hl hr => ?_
  cases s.colony colony with
  | none => exact ⟨s, rfl, .refl s⟩
  | some c =>
    dsimp only
    split
    · refine ⟨_, ?_, .withColony s colony (some { c with state := .idle })⟩
      rw [hr]
      rfl
    · exact ⟨s, rfl, .refl s⟩

end Sure

theorem groupsOf_none : groupsOf 0 = [] := by
  unfold groupsOf
  simp

/-- A strand has ended; the others run as before. -/
structure EndedGently (n : Nat) (s t : State) : Prop where
  control : t.units.control = s.units.control
  launches : t.units.launches = []
  rings : t.units.rings = []
  queues : t.units.queues = s.units.queues
  ended : (t.strand n).live = false
  strand : ∀ m, m ≠ n → KeptStrand (s.strand m) (t.strand m)

/-- What follows once the strand is gone. -/
def afterEnd (s : State) (n : Nat) (t : Strand) (failure : Option Word) : M Unit := do
  returnScout (s.colonyOf n) n t
  releaseScout (s.colonyOf n)
  abandonPop n t
  for g in groupsOf t.members do
    testPhase g.1 g.2 n
  for k in t.tasks.reverse do
    asStrand n (sendTaskEnd k)
  offerLanes (quadOf n)
  if s.units.boot = some n then
    modify fun s => { s with units := { s.units with boot := none } }
  endOfLaunch t.launch failure
  settleStops (s.colonyOf n)
  settleYield (s.colonyOf n)
  settleColony (s.colonyOf n)

theorem sure_afterEnd (s : State) (n : Nat) {t : Strand} (failure : Option Word) (hmembers : t.members = 0) (htasks : t.tasks = []) (hpop : t.pop = none) :
    Sure (afterEnd s n t failure) () := by
  have hlast : Sure (do
      endOfLaunch t.launch failure
      settleStops (s.colonyOf n)
      settleYield (s.colonyOf n)
      settleColony (s.colonyOf n) : M Unit) () :=
    .bind (.endOfLaunch ..) (.bind (.settleStops _) (.bind (.settleYield _) (.settleColony _)))
  unfold afterEnd abandonPop
  rw [hmembers, groupsOf_none, htasks, hpop]
  refine .bind (.returnScout ..) (.bind (.releaseScout _) (.bind (.pure ()) (.bind (.pure _) (.bind (.pure _) (.bind (.offerLanes _) ?_)))))
  split
  · exact .bind (.modify fun s => ⟨rfl, id, rfl, rfl, fun _ => .refl _⟩) hlast
  · exact hlast

/-- The state in which a strand has left its quad and its core. -/
def departed (s : State) (n : Nat) : State :=
  let v := s.quad (quadOf n)
  let s1 := s.withQuad (quadOf n) { v with
    ops := v.ops.filter fun o => o.sid ≠ n
    postings := v.postings.filter fun p => p.sid ≠ n
    gangs := v.gangs.map fun g => { g with partners := g.partners.map fun p =>
      if p.sid = n then { p with group := 0, ended := true } else p } }
  let c := s1.core (coreOf n)
  (s1.withCore (coreOf n) { c with queue := c.queue.filter fun e => e.sid ≠ n }).withStrand n Strand.idle

theorem getStrand_run (n : Nat) (s : State) : getStrand n s = .ok (s.strand n) s := rfl

theorem endStrand_live {s : State} {n : Nat} (h : (s.strand n).live) (failure : Option Word) :
    endStrand n failure s = afterEnd s n (s.strand n) failure (departed s n) := by
  unfold endStrand
  refine (M.bind_ok (getStrand_run n s)).trans ?_
  rw [if_pos h]
  rfl

theorem endStrand_gone {s : State} {n : Nat} (h : (s.strand n).live = false) (failure : Option Word) : endStrand n failure s = .ok () s := by
  unfold endStrand
  refine (M.bind_ok (getStrand_run n s)).trans ?_
  rw [h]
  rfl

/-- The end of a strand that is in no group, has no task and waits for no item. -/
theorem endStrand_run {s : State} {n : Nat} (failure : Option Word) (hl : s.units.launches = []) (hr : s.units.rings = [])
    (hmembers : (s.strand n).members = 0) (htasks : (s.strand n).tasks = []) (hpop : (s.strand n).pop = none) :
    ∃ t, endStrand n failure s = .ok () t ∧ EndedGently n s t := by
  by_cases hlive : (s.strand n).live
  · obtain ⟨t, ht, hgentle⟩ := (sure_afterEnd s n failure hmembers htasks hpop).run (departed s n) hl hr
    have hidle : (departed s n).strand n = Strand.idle := State.strand_withStrand_same ..
    have hother (m : Nat) (hm : m ≠ n) : (departed s n).strand m = s.strand m := State.strand_withStrand_ne _ _ _ _ hm
    refine ⟨t, (endStrand_live hlive failure).trans ht, ⟨hgentle.control, hgentle.launches hl, hgentle.rings.trans hr, hgentle.queues, ?_, fun m hm => ?_⟩⟩
    · rw [(hgentle.strand n).live, hidle]
      rfl
    · rw [← hother m hm]
      exact hgentle.strand m
  · have hgone : (s.strand n).live = false := by simpa using hlive
    exact ⟨s, endStrand_gone hgone failure, rfl, hl, hr, rfl, hgone, fun m _ => .refl _⟩

/-! ## Tenants that are killed -/

/-- The state while the strands of a tenant are ended: those of the list are dealt with. -/
structure Killing (s : State) (x : BitVec 12) (l : List Nat) (u : State) : Prop where
  control : u.units.control = s.units.control
  launches : u.units.launches = []
  rings : u.units.rings = []
  queues : u.units.queues = []
  spared : ∀ n, (s.strand n).tid ≠ x → KeptStrand (s.strand n) (u.strand n)
  strand : ∀ n, (u.strand n).live = false ∨ KeptStrand (s.strand n) (u.strand n)
  dead : ∀ n ∈ l, (s.strand n).tid = x → (s.strand n).asked = [] → (s.strand n).gangIssued = false → (u.strand n).live = false

/-- What happens to a strand of a tenant that is killed. -/
def killStrand (s : State) (x : BitVec 12) (n : Nat) : M Unit :=
  if (s.strand n).tid = x then
    if (s.strand n).asked.isEmpty && !(s.strand n).gangIssued then endStrand n (some (s.faultValue n cEcc))
    else modStrand n fun t => { t with doomed := true }
  else pure ()

theorem Killing.step {s u : State} {x : BitVec 12} {l : List Nat} (h : Killing s x l u) {n : Nat}
    (hidle : (s.strand n).members = 0 ∧ (s.strand n).tasks = [] ∧ (s.strand n).pop = none) :
    ∃ v, killStrand s x n u = .ok () v ∧ Killing s x (n :: l) v := by
  unfold killStrand
  by_cases htid : (s.strand n).tid = x
  · rw [if_pos htid]
    by_cases hend : (s.strand n).asked.isEmpty && !(s.strand n).gangIssued
    · rw [if_pos hend]
      have hended : ∃ v, endStrand n (some (s.faultValue n cEcc)) u = .ok () v ∧ EndedGently n u v := by
        rcases h.strand n with hgone | hkept
        · exact ⟨u, endStrand_gone hgone _, rfl, h.launches, h.rings, rfl, hgone, fun m _ => .refl _⟩
        · exact endStrand_run _ h.launches h.rings (hkept.members.trans hidle.1) (hkept.tasks.trans hidle.2.1) (hkept.pop.trans hidle.2.2)
      obtain ⟨v, hv, he⟩ := hended
      refine ⟨v, hv, he.control.trans h.control, he.launches, he.rings, he.queues.trans h.queues, fun m hm => ?_, fun m => ?_, fun m hm ht ha hg => ?_⟩
      · have hne : m ≠ n := fun heq => hm (heq ▸ htid)
        exact (h.spared m hm).trans (he.strand m hne)
      · by_cases hne : m = n
        · exact .inl (hne ▸ he.ended)
        · rcases h.strand m with hgone | hkept
          · exact .inl ((he.strand m hne).live.trans hgone)
          · exact .inr (hkept.trans (he.strand m hne))
      · by_cases hne : m = n
        · exact hne ▸ he.ended
        · exact (he.strand m hne).live.trans (h.dead m ((List.mem_cons.mp hm).resolve_left hne) ht ha hg)
    · rw [if_neg hend]
      have hg : Gentle u (u.withStrand n { u.strand n with doomed := true }) := .withStrand u n ⟨rfl, rfl, rfl, rfl⟩
      refine ⟨_, rfl, hg.control.trans h.control, hg.launches h.launches, hg.rings.trans h.rings, hg.queues.trans h.queues,
        fun m hm => (h.spared m hm).trans (hg.strand m), fun m => ?_, fun m hm ht ha hgang => ?_⟩
      · rcases h.strand m with hgone | hkept
        · exact .inl ((hg.strand m).live.trans hgone)
        · exact .inr (hkept.trans (hg.strand m))
      · rcases List.mem_cons.mp hm with rfl | hm
        · rw [ha, hgang] at hend
          exact absurd rfl hend
        · exact (hg.strand m).live.trans (h.dead m hm ht ha hgang)
  · rw [if_neg htid]
    refine ⟨u, rfl, h.control, h.launches, h.rings, h.queues, h.spared, h.strand, fun m hm ht ha hg => ?_⟩
    rcases List.mem_cons.mp hm with rfl | hm
    · exact absurd ht htid
    · exact h.dead m hm ht ha hg

theorem Killing.loop {s u : State} {x : BitVec 12} {l : List Nat} (h : Killing s x l u) (k : List Nat)
    (hidle : ∀ n ∈ k, (s.strand n).members = 0 ∧ (s.strand n).tasks = [] ∧ (s.strand n).pop = none) :
    ∃ v, forIn k PUnit.unit (fun n _ => (do
      killStrand s x n
      pure (.yield ⟨⟩) : M (ForInStep PUnit))) u = .ok ⟨⟩ v ∧ Killing s x (k.reverse ++ l) v := by
  induction k generalizing l u with
  | nil => exact ⟨u, rfl, h⟩
  | cons n k ih =>
    obtain ⟨w, hw, hkw⟩ := h.step (hidle n List.mem_cons_self)
    obtain ⟨v, hv, hkv⟩ := ih hkw fun m hm => hidle m (List.mem_cons_of_mem n hm)
    refine ⟨v, ?_, by rwa [List.reverse_cons, List.append_assoc]⟩
    have hstep : (do
        killStrand s x n
        pure (.yield ⟨⟩) : M (ForInStep PUnit)) u = .ok (.yield ⟨⟩) w := (M.bind_ok hw).trans rfl
    rw [List.forIn_cons, M.bind_ok hstep]
    exact hv

theorem discardStarts_run {s : State} (x : BitVec 12) (h : ∀ q ∈ s.quads, q.2.deferred = []) : discardStarts x s = .ok () s := by
  unfold discardStarts
  rw [M.bind_ok (M.get_run s)]
  obtain ⟨y, hy, hsame⟩ := forIn_preserves (P := fun u => u = s) (l := s.quads) (f := fun e _ => (do
    forIn e.2.deferred ⟨⟩ fun r _ => if r.tid = x then do
        modQuad e.1 fun v => { v with deferred := v.deferred.erase r }
        endOfLaunch r.launch (some (s.faultValue r.sid cEcc))
        pure (.yield ⟨⟩)
      else pure (.yield ⟨⟩)
    pure (.yield ⟨⟩) : M (ForInStep PUnit))) (fun e he u hu => by
      rw [h e he]
      exact ⟨u, rfl, hu⟩) rfl
  subst hsame
  exact (M.bind_ok hy).trans rfl

theorem discardCopies_run {s : State} (x : BitVec 12) (h : s.units.queues = []) : discardCopies x s = .ok () s := by
  unfold discardCopies
  rw [M.bind_ok (M.get_run s), h]
  rfl

theorem killTenant_run {s : State} {x : BitVec 12} (hl : s.units.launches = []) (hr : s.units.rings = []) (hq : s.units.queues = [])
    (hd : ∀ q ∈ s.quads, q.2.deferred = []) (hidle : ∀ n ∈ s.running, (s.strand n).members = 0 ∧ (s.strand n).tasks = [] ∧ (s.strand n).pop = none) :
    ∃ v, killTenant x s = .ok () v ∧ Killing s x (s.running.reverse ++ []) v := by
  have hstart : Killing s x [] s := ⟨rfl, hl, hr, hq, fun _ _ => .refl _, fun _ => .inr (.refl _), nofun⟩
  obtain ⟨v, hv, hk⟩ := hstart.loop s.running hidle
  have hbody : (fun n (_ : PUnit) => (if (s.strand n).tid = x then
      if (s.strand n).asked.isEmpty && !(s.strand n).gangIssued then do
        endStrand n (some (s.faultValue n cEcc))
        pure (.yield ⟨⟩)
      else do
        modStrand n fun t => { t with doomed := true }
        pure (.yield ⟨⟩)
      else pure (.yield ⟨⟩) : M (ForInStep PUnit))) = fun n _ => (do
      killStrand s x n
      pure (.yield ⟨⟩) : M (ForInStep PUnit)) := by
    funext n _
    unfold killStrand
    split_ifs <;> rfl
  rw [← hbody] at hv
  refine ⟨{ v with units := { v.units with agentJobs := v.units.agentJobs.filter fun j => j.packet.tenant ≠ x } }, ?_,
    ⟨hk.control, hk.launches, hk.rings, hk.queues, hk.spared, hk.strand, hk.dead⟩⟩
  unfold killTenant
  exact (M.bind_ok (M.get_run s)).trans ((M.bind_ok (discardStarts_run x hd)).trans ((M.bind_ok hv).trans ((M.bind_ok (discardCopies_run x hk.queues)).trans rfl)))

/-! ## Parity errors -/

theorem quadsSame_putBytes (s : State) (a : Nat) (bs : List Byte) : (s.putBytes a bs).quads = s.quads := by
  induction bs generalizing s a with
  | nil => rfl
  | cons b bs ih => exact ih (s.putByte a b) (a + 1)

theorem unitsSame_putBytes (s : State) (a : Nat) (bs : List Byte) : (s.putBytes a bs).units = s.units := by
  induction bs generalizing s a with
  | nil => rfl
  | cons b bs ih => exact ih (s.putByte a b) (a + 1)

theorem l2TagParityError_eq {s : State} {line : Nat} (hnow : s.now = .l2TagParityError line) : exec .l2TagParityError s = runEvent (tagParity line) s := by
  change execL2TagParityError s = _
  unfold execL2TagParityError
  rw [hnow]

theorem parity_takes {s t : State} {line : Nat} (hnow : s.now = .l2TagParityError line) (hrun : tagParity line s = .ok () t) :
    Happens .l2TagParityError s t := happens_runEvent (l2TagParityError_eq hnow) hrun

/-- The bytes that nobody can tell. -/
def anyBytes (s : State) : List Byte := (List.range 128).map fun i => Config.discardedByte (s.fresh + i)

/-- The state with tags that nobody can tell on some granules of a line. -/
def anyTags (a : Nat) (l : List Nat) (u : State) : State :=
  l.foldl (fun u g => u.putTag (a + 16 * g) ((Config.discardedByte (u.fresh + 128 + g)).toNat % 2 = 1)) u

theorem anyTags_rest (a : Nat) (l : List Nat) (u : State) :
    (anyTags a l u).strands = u.strands ∧ (anyTags a l u).units = u.units ∧ (anyTags a l u).mem = u.mem ∧ (anyTags a l u).quads = u.quads := by
  induction l generalizing u with
  | nil => exact ⟨rfl, rfl, rfl, rfl⟩
  | cons g l ih => exact ih (u.putTag (a + 16 * g) ((Config.discardedByte (u.fresh + 128 + g)).toNat % 2 = 1))

/-- The state in which a line has been dropped. -/
def lostLine (s : State) (a : Nat) : State := { anyTags a (List.range 8) (s.putBytes a (anyBytes s)) with fresh := s.fresh + 136 }

theorem loseLine_eq (a : Nat) (s : State) : loseLine a s = .ok () (lostLine s a) := rfl

theorem lostLine_rest (s : State) (a : Nat) : (lostLine s a).strands = s.strands ∧ (lostLine s a).units = s.units ∧
    (lostLine s a).mem = (s.putBytes a (anyBytes s)).mem ∧ (lostLine s a).quads = s.quads := by
  obtain ⟨h1, h2, h3, h4⟩ := anyTags_rest a (List.range 8) (s.putBytes a (anyBytes s))
  rw [strandsSame_putBytes] at h1
  rw [unitsSame_putBytes] at h2
  unfold lostLine
  dsimp only
  exact ⟨h1, h2, h3, h4.trans (quadsSame_putBytes ..)⟩

theorem length_anyBytes (s : State) : (anyBytes s).length = 128 := by simp [anyBytes]

/-- A dirty line that is dropped leaves everything but its own bytes. -/
theorem loseLine_run (s : State) (line : Nat) : ∃ t, loseLine (line * 128) s = .ok () t ∧ t.strands = s.strands ∧
    t.units = s.units ∧ t.quads = s.quads ∧ (line < 2 ^ 33 → ∀ j, j / 128 ≠ line → t.byteAt j = s.byteAt j) := by
  obtain ⟨h1, h2, h3, h4⟩ := lostLine_rest s (line * 128)
  refine ⟨lostLine s (line * 128), loseLine_eq (line * 128) s, h1, h2, h4, fun hline j hj => ?_⟩
  have hcache (i : Nat) (hi : i < 128) : cacheable (line * 128 + i) = true := by
    unfold cacheable
    rw [place_dram (by omega)]
  have hbyte := byteAt_putBytes_fixed (s := s) (a := line * 128) (anyBytes s)
    (fun i hi => canon_of_cacheable (hcache i (by rwa [length_anyBytes] at hi))) j
  have hmiss : ¬(line * 128 ≤ canon j ∧ canon j < line * 128 + (anyBytes s).length) := by
    rw [length_anyBytes]
    rintro ⟨hlo, hhi⟩
    have hc := hcache (canon j - line * 128) (by omega)
    rw [show line * 128 + (canon j - line * 128) = canon j by omega] at hc
    by_cases heq : j = canon j
    · omega
    · exact canon_ne_cacheable hc heq (canon_of_cacheable hc).symm
  rw [if_neg hmiss] at hbyte
  rw [← hbyte]
  exact congrArg (lookupD 0 · (canon j)) h3

section Parity
variable {s : State} {line : Nat}

theorem colour_eq (a : Nat) : colour a = colourOf a := rfl

/-- What follows the loss of a line: a tenant may be killed, and the set is reported. -/
def reportSet (s : State) (line : Nat) : M Unit :=
  let check := raiseControl cMachine (BitVec.ofNat 64 (s.globalOf (setAddress (line * 128))))
  if colourOf (line * 128) = 0 then if (lookupD L2Line.empty s.units.l2 line).dirty ≠ 0 then check else pure ()
  else do
    if lookupD 0 s.units.colours (colourOf (line * 128)) / 4096 = 1 then
      killTenant (BitVec.ofNat 12 (lookupD 0 s.units.colours (colourOf (line * 128))))
    else pure ()
    check

theorem tagParity_clean (h : (lookupD L2Line.empty s.units.l2 line).dirty = 0) : tagParity line s = reportSet s line (s.l2Drop line) := by
  unfold tagParity
  rw [M.bind_ok (M.get_run s), M.bind_ok (M.set_run ..)]
  dsimp only
  rw [if_neg (by simpa using h)]
  rfl

theorem tagParity_dirty {u : State} (h : (lookupD L2Line.empty s.units.l2 line).dirty ≠ 0) (hlose : loseLine (line * 128) (s.l2Drop line) = .ok () u) :
    tagParity line s = reportSet s line u := by
  unfold tagParity
  rw [M.bind_ok (M.get_run s), M.bind_ok (M.set_run ..)]
  dsimp only
  rw [if_pos h, M.bind_ok hlose]
  rfl

theorem reportSet_quiet {u : State} (hcolour : colourOf (line * 128) = 0) (h : (lookupD L2Line.empty s.units.l2 line).dirty = 0) :
    reportSet s line u = .ok () u := by
  unfold reportSet
  dsimp only
  rw [if_pos hcolour, if_neg (by simpa using h)]
  rfl

/-- The machine check for a set of lines. -/
def setCheck (s : State) (line : Nat) : Word := BitVec.ofNat 64 (s.globalOf (setAddress (line * 128)))

theorem reportSet_checks {u : State} (hheld : ¬(colourOf (line * 128) ≠ 0 ∧ lookupD 0 s.units.colours (colourOf (line * 128)) / 4096 = 1))
    (h : (lookupD L2Line.empty s.units.l2 line).dirty ≠ 0 ∨ colourOf (line * 128) ≠ 0) :
    reportSet s line u = raiseControl cMachine (setCheck s line) u := by
  unfold reportSet
  dsimp only
  by_cases hcolour : colourOf (line * 128) = 0
  · rw [if_pos hcolour, if_pos (h.resolve_right fun hne => hne hcolour)]
    rfl
  · rw [if_neg hcolour, if_neg fun he => hheld ⟨hcolour, he⟩]
    rfl

theorem reportSet_kills {u v : State} (hcolour : colourOf (line * 128) ≠ 0) (he : lookupD 0 s.units.colours (colourOf (line * 128)) / 4096 = 1)
    (hkill : killTenant (BitVec.ofNat 12 (lookupD 0 s.units.colours (colourOf (line * 128)))) u = .ok () v) :
    reportSet s line u = raiseControl cMachine (setCheck s line) v := by
  unfold reportSet
  dsimp only
  rw [if_neg hcolour, if_pos he]
  exact M.bind_ok hkill

theorem raiseControl_stops {u : State} (h : u.units.control = none) (v : Word) : raiseControl cMachine v u = .error (.stop .machineCheckStop) u := by
  unfold raiseControl
  rw [M.bind_ok (M.get_run u), h]
  rfl

/-- What a tag parity error has done to the line, before anything is said of it. -/
theorem tagParity_reports (s : State) (line : Nat) : ∃ u, tagParity line s = reportSet s line u ∧ u.strands = s.strands ∧
    u.units = (s.l2Drop line).units ∧ u.quads = s.quads ∧ (line < 2 ^ 33 → ∀ j, j / 128 ≠ line → u.byteAt j = s.byteAt j) := by
  by_cases h : (lookupD L2Line.empty s.units.l2 line).dirty = 0
  · exact ⟨s.l2Drop line, tagParity_clean h, rfl, rfl, rfl, fun _ _ _ => rfl⟩
  · obtain ⟨u, hu, h1, h2, h3, h4⟩ := loseLine_run (s.l2Drop line) line
    exact ⟨u, tagParity_dirty h hu, h1, h2, h3, h4⟩

end Parity

theorem parityKills : ParityKills := by
  intro s line hnow
  dsimp only
  rw [colour_eq]
  refine ⟨fun hcolour hclean => ?_, fun hclean hcolour hheld hnone => ?_, fun b hcontrol hlive => ⟨fun hclean hcolour hheld => ?_,
    fun hdirty hheld hline => ?_, fun ⟨hcolour, he⟩ htid hl hr hq hd hidle => ?_⟩⟩
  · have hclean' : (lookupD L2Line.empty s.units.l2 line).dirty = 0 := not_not.mp hclean
    exact parity_takes hnow ((tagParity_clean hclean').trans (reportSet_quiet hcolour hclean'))
  · have hrun := (tagParity_clean (not_not.mp hclean)).trans ((reportSet_checks (u := s.l2Drop line) hheld (.inr hcolour)).trans (raiseControl_stops (u := s.l2Drop line) hnone _))
    rw [l2TagParityError_eq hnow]
    unfold runEvent finishM
    rw [hrun]
  · have hrun := (tagParity_clean (not_not.mp hclean)).trans
      ((reportSet_checks (u := s.l2Drop line) hheld (.inr hcolour)).trans (raiseControl_run (s := s.l2Drop line) hcontrol hlive _ _))
    exact parity_takes hnow hrun
  · obtain ⟨u, hu, h1, h2, -, h3⟩ := tagParity_reports s line
    have hstrand (n : Nat) : u.strand n = s.strand n := congrArg (lookupD _ · n) h1
    have hcontrol' : u.units.control = some b := by rw [h2]; exact hcontrol
    have hrun := hu.trans ((reportSet_checks hheld (.inl hdirty)).trans (raiseControl_run hcontrol' (by rw [hstrand]; exact hlive) cMachine (setCheck s line)))
    refine ⟨_, parity_takes hnow hrun, ?_, h3 hline⟩
    rw [State.strand_withStrand_same, hstrand]
    rfl
  · obtain ⟨u, hu, h1, h2, h3, -⟩ := tagParity_reports s line
    have hstrand (n : Nat) : u.strand n = s.strand n := congrArg (lookupD _ · n) h1
    have hrunning : u.running = s.running := by
      unfold State.running
      rw [h1]
    have hunits : u.units.launches = [] ∧ u.units.rings = [] ∧ u.units.queues = [] ∧ u.units.control = some b := by
      rw [h2]
      exact ⟨hl, hr, hq, hcontrol⟩
    obtain ⟨hl', hr', hq', hcontrol'⟩ := hunits
    obtain ⟨v, hkill, hk⟩ := killTenant_run (x := BitVec.ofNat 12 (lookupD 0 s.units.colours (colourOf (line * 128)))) hl' hr' hq'
      (by rw [h3]; exact hd) (fun n hn => by rw [hstrand]; exact hidle n (hrunning ▸ hn))
    have hspared := hk.spared b (by rw [hstrand]; exact htid)
    have hliveb : (v.strand b).live := by
      rw [hspared.live, hstrand]
      exact hlive
    have hrun := hu.trans ((reportSet_kills hcolour he hkill).trans (raiseControl_run (hk.control.trans hcontrol') hliveb cMachine (setCheck s line)))
    refine ⟨_, parity_takes hnow hrun, fun n hn htidn ⟨hasked, hgang⟩ => ?_⟩
    have hne : n ≠ b := by
      rintro rfl
      exact htid htidn
    rw [State.strand_withStrand_ne _ _ _ _ hne]
    refine hk.dead n ?_ (by rw [hstrand]; exact htidn) (by rw [hstrand]; exact hasked) (by rw [hstrand]; exact hgang)
    rw [List.append_nil, List.mem_reverse, hrunning]
    exact hn

/-- Settles O60: fetch-and-adds are held, leave in groups and are split; parity errors and uncorrectable errors. -/
theorem combiningAndErrors : Obligations.CombiningAndErrors :=
  ⟨requestsAreHeld, groupsDepart, sumsAreSplit, parityKills, errorsStrike⟩

end Sys2Proof.Claims
end

section
/-! SUPPORT. The mailbox of the controller, and its requests for the report and the time (R359, R360, R372). -/

namespace Sys2Proof.Claims

open Sys2Proof.Machine

/-! ## Numbers as bytes -/

theorem leNat_leBytes (n v : Nat) : leNat (leBytes n v) = v % 2 ^ (8 * n) := by
  induction n generalizing v with
  | zero => simp [leBytes, leNat, Nat.mod_one]
  | succ n ih =>
    rw [leBytes, leNat, ih, BitVec.toNat_ofNat, show 8 * (n + 1) = 8 + 8 * n by omega, pow_add]
    rw [Nat.mod_mul]
    norm_num

theorem leNat_append (as bs : List Byte) : leNat (as ++ bs) = leNat as + 256 ^ as.length * leNat bs := by
  induction as with
  | nil => simp [leNat]
  | cons a as ih => rw [List.cons_append, leNat, ih, leNat, List.length_cons, pow_succ]; ring

theorem leNat_drop (bs : List Byte) (k : Nat) : leNat (bs.drop k) = leNat bs / 256 ^ k := by
  induction k generalizing bs with
  | zero => simp
  | succ k ih =>
    cases bs with
    | nil => simp [leNat]
    | cons b bs =>
      have hb := b.isLt
      rw [List.drop_succ_cons, ih, leNat, pow_succ', ← Nat.div_div_eq_div_mul]
      congr 1
      omega

theorem leNat_take (bs : List Byte) (k : Nat) : leNat (bs.take k) = leNat bs % 256 ^ k := by
  induction k generalizing bs with
  | zero => simp [leNat, Nat.mod_one]
  | succ k ih =>
    cases bs with
    | nil => simp [leNat]
    | cons b bs =>
      have hb := b.isLt
      rw [List.take_succ_cons, leNat, ih, leNat, pow_succ', Nat.mod_mul]
      congr 1
      · omega
      · congr 2
        omega

/-! ## Bytes of the mailbox -/

theorem canon_window_lt {a : Nat} (h : InWindow a) : canon a < dieWindows + 8 * 0x40000000 := by
  unfold canon
  split
  case h_1 c o hp =>
    rcases place_coreSpad hp with ⟨hw, -⟩ | ⟨-, hc, ho⟩
    · exact absurd h hw
    · unfold spadAddr
      omega
  case h_2 => exact h.2.1

/-- Ranges of the mailbox. -/
def InBox (a n : Nat) : Prop := box ≤ a ∧ a + n ≤ box + 0x10000

theorem byteAt_putBytes_box {s : State} {a : Nat} {bs : List Byte} (h : InBox a bs.length) (j : Nat) :
    (s.putBytes a bs).byteAt j = if a ≤ j ∧ j < a + bs.length then bs.getD (j - a) 0 else s.byteAt j := by
  obtain ⟨hlo, hhi⟩ := h
  have hhigh : dieWindows + 8 * 0x40000000 ≤ box := by norm_num [dieWindows, box]
  have hfix (b : Nat) (hb : box ≤ b) : canon b = b := by
    refine canon_of_not_window fun hw => ?_
    obtain ⟨-, hw, -, -⟩ := hw
    exact absurd (Nat.lt_of_lt_of_le hw (Nat.le_trans hhigh hb)) (Nat.lt_irrefl b)
  rw [byteAt_putBytes_fixed bs (fun i _ => hfix (a + i) (Nat.le_trans hlo (Nat.le_add_right a i))) j]
  by_cases hw : InWindow j
  · have hc := Nat.lt_of_lt_of_le (canon_window_lt hw) hhigh
    obtain ⟨-, hj, -, -⟩ := hw
    replace hj := Nat.lt_of_lt_of_le hj hhigh
    clear hhigh
    rw [if_neg (by omega), if_neg (by omega)]
  · rw [canon_of_not_window hw]

theorem bytesAt_eq {s t : State} {a n : Nat} (h : ∀ j, a ≤ j → j < a + n → t.byteAt j = s.byteAt j) : t.bytesAt a n = s.bytesAt a n := by
  unfold State.bytesAt
  refine List.map_congr_left fun i hi => h (a + i) (by omega) ?_
  have := List.mem_range.mp hi
  omega

theorem bytesAt_put_same {s : State} {a : Nat} {bs : List Byte} (h : InBox a bs.length) : (s.putBytes a bs).bytesAt a bs.length = bs := by
  refine List.ext_getElem (length_bytesAt ..) fun i hi hi' => ?_
  have hget : ((s.putBytes a bs).bytesAt a bs.length)[i] = (s.putBytes a bs).byteAt (a + i) := by simp [State.bytesAt]
  rw [hget, byteAt_putBytes_box h, if_pos (by omega), Nat.add_sub_cancel_left, List.getD_eq_getElem _ _ hi']

theorem bytesAt_put_other {s : State} {a b n : Nat} {bs : List Byte} (h : InBox a bs.length) (hout : b + n ≤ a ∨ a + bs.length ≤ b) :
    (s.putBytes a bs).bytesAt b n = s.bytesAt b n :=
  bytesAt_eq fun j _ _ => by rw [byteAt_putBytes_box h, if_neg (by omega)]

/-! ## Completing a request -/

theorem mailboxAddr_eq (off : Nat) : mailboxAddr off = box + off := by
  unfold mailboxAddr mailboxOff box
  omega

theorem boxSlot_eq (s : State) : boxSlot s = box + s.requestSlot := by
  unfold boxSlot State.requestSlot State.mailboxNat
  rw [mailboxAddr_eq]
  omega

theorem requestSlot_bounds (s : State) : 0x1000 ≤ s.requestSlot ∧ s.requestSlot ≤ 0x8800 := by
  unfold State.requestSlot
  omega

section Completing
variable {s : State} {reply : List Byte} (hlen : reply.length ≤ 1984) (status : Nat)
include hlen

/-- The four writes by which a request is completed. -/
theorem completeRequest_eq : s.completeRequest status reply = (((s.putBytes (boxSlot s + 64) reply).putBytes (boxSlot s + 4) (leBytes 4 reply.length)).putBytes
    (boxSlot s + 2) (leBytes 2 status)).putBytes (box + 8) (leBytes 8 (leNat (s.bytesAt (box + 8) 8) + 1)) := by
  have hrp : s.mailboxNat 8 8 = leNat (s.bytesAt (box + 8) 8) := by
    unfold State.mailboxNat
    rw [mailboxAddr_eq]
  unfold State.completeRequest
  dsimp only
  rw [mailboxAddr_eq, mailboxAddr_eq, mailboxAddr_eq, mailboxAddr_eq, hrp, boxSlot_eq, Nat.add_assoc, Nat.add_assoc, Nat.add_assoc]

theorem completes (hstatus : status < 2 ^ 16) : Completes s (s.completeRequest status reply) status reply := by
  obtain ⟨hlo, hhi⟩ := requestSlot_bounds s
  have hslot := boxSlot_eq s
  have h1 : InBox (boxSlot s + 64) reply.length := ⟨by omega, by omega⟩
  have h2 : InBox (boxSlot s + 4) (leBytes 4 reply.length).length := ⟨by omega, by rw [length_leBytes]; omega⟩
  have h3 : InBox (boxSlot s + 2) (leBytes 2 status).length := ⟨by omega, by rw [length_leBytes]; omega⟩
  have h4 : InBox (box + 8) (leBytes 8 (leNat (s.bytesAt (box + 8) 8) + 1)).length := ⟨by omega, by rw [length_leBytes]; omega⟩
  rw [completeRequest_eq hlen]
  refine ⟨?_, ?_, ?_, ?_⟩
  · have h := bytesAt_put_same (s := ((s.putBytes (boxSlot s + 64) reply).putBytes (boxSlot s + 4) (leBytes 4 reply.length)).putBytes
      (boxSlot s + 2) (leBytes 2 status)) h4
    rw [length_leBytes] at h
    rw [h, leNat_leBytes]
  · rw [bytesAt_put_other h4 (by rw [length_leBytes]; omega)]
    have h := bytesAt_put_same (s := (s.putBytes (boxSlot s + 64) reply).putBytes (boxSlot s + 4) (leBytes 4 reply.length)) h3
    rw [length_leBytes] at h
    rw [h, leNat_leBytes]
    omega
  · rw [bytesAt_put_other h4 (by rw [length_leBytes]; omega), bytesAt_put_other h3 (by rw [length_leBytes]; omega)]
    have h := bytesAt_put_same (s := s.putBytes (boxSlot s + 64) reply) h2
    rw [length_leBytes] at h
    rw [h, leNat_leBytes]
    omega
  · rw [bytesAt_put_other h4 (by rw [length_leBytes]; omega), bytesAt_put_other h3 (by rw [length_leBytes]; omega),
      bytesAt_put_other h2 (by rw [length_leBytes]; omega)]
    exact bytesAt_put_same h1

theorem onlyBox_completeRequest : OnlyBox s (s.completeRequest status reply) := by
  intro j hj
  obtain ⟨hlo, hhi⟩ := requestSlot_bounds s
  have hslot := boxSlot_eq s
  have h1 : InBox (boxSlot s + 64) reply.length := ⟨by omega, by omega⟩
  have h2 : InBox (boxSlot s + 4) (leBytes 4 reply.length).length := ⟨by omega, by rw [length_leBytes]; omega⟩
  have h3 : InBox (boxSlot s + 2) (leBytes 2 status).length := ⟨by omega, by rw [length_leBytes]; omega⟩
  have h4 : InBox (box + 8) (leBytes 8 (leNat (s.bytesAt (box + 8) 8) + 1)).length := ⟨by omega, by rw [length_leBytes]; omega⟩
  rw [completeRequest_eq hlen, byteAt_putBytes_box h4, if_neg (by rw [length_leBytes]; omega), byteAt_putBytes_box h3, if_neg (by rw [length_leBytes]; omega),
    byteAt_putBytes_box h2, if_neg (by rw [length_leBytes]; omega), byteAt_putBytes_box h1, if_neg (by omega)]

theorem completeRequest_rest : (∀ n, (s.completeRequest status reply).strand n = s.strand n) ∧ (s.completeRequest status reply).units = s.units := by
  rw [completeRequest_eq hlen]
  constructor
  · intro n
    unfold State.strand
    rw [strandsSame_putBytes, strandsSame_putBytes, strandsSame_putBytes, strandsSame_putBytes]
  · rw [unitsSame_putBytes, unitsSame_putBytes, unitsSame_putBytes, unitsSame_putBytes]

end Completing

/-! ## Lengths of the report's parts -/

theorem length_keccakRound (a : List Word) (c : Word) : (keccakRound a c).length = 25 := by
  unfold keccakRound
  simp

theorem length_keccak {a : List Word} (h : a.length = 25) : (keccak a).length = 25 := by
  have hfold (cs : List Word) {a : List Word} (h : a.length = 25) : (cs.foldl keccakRound a).length = 25 := by
    induction cs generalizing a with
    | nil => exact h
    | cons c cs ih => exact ih (length_keccakRound a c)
  exact hfold keccakRounds h

theorem length_absorb (n : Nat) {a : List Word} (bs : List Byte) (h : a.length = 25) : (absorb n a bs).length = 25 := by
  induction n generalizing a bs with
  | zero => exact h
  | succ n ih =>
    unfold absorb
    split
    · exact h
    · exact ih _ (length_keccak (by simp))

theorem length_shake256 (bs : List Byte) : (shake256 bs).length = 64 := by
  unfold shake256
  dsimp only
  rw [List.length_flatMap]
  have hlen := length_absorb (bs.length / 136 + 1) (bs ++ shakePadding bs.length) (List.length_replicate (n := 25) (a := (0 : Word)))
  generalize absorb (bs.length / 136 + 1) (List.replicate 25 0) (bs ++ shakePadding bs.length) = a at hlen
  simp [List.length_take, hlen]

theorem length_fitBytes (n : Nat) (bs : List Byte) : (fitBytes n bs).length = n := by
  unfold fitBytes
  rw [List.length_append, List.length_take, List.length_replicate]
  omega

/-- The part of the report behind the number of its images, up to the signature. -/
def reportTail (s : State) : List Byte :=
  leBytes 4 0 ++ ((s.reportImages.flatMap fun i => leBytes 8 i.1.toNat ++ fitBytes 64 i.2) ++
    (shake256 (Config.configurationBytes s.tableBytes) ++ s.bytesAt (boxSlot s + 16) 32))

theorem reportBody_eq (s : State) : s.reportBody = leBytes 8 (s.pkg % 2 ^ 14) ++ (shake256 Config.identityKey ++ (leBytes 4 s.reportImages.length ++ reportTail s)) := by
  unfold State.reportBody reportTail
  dsimp only
  rw [mailboxAddr_eq, boxSlot_eq]
  simp only [List.append_assoc, Nat.add_assoc]

theorem length_images (l : List (Word × List Byte)) : (l.flatMap fun i => leBytes 8 i.1.toNat ++ fitBytes 64 i.2).length = 72 * l.length := by
  induction l with
  | nil => rfl
  | cons i l ih =>
    rw [List.flatMap_cons, List.length_append, ih, List.length_append, length_leBytes, length_fitBytes, List.length_cons]
    omega

theorem length_reportBody (s : State) : s.reportBody.length = 176 + 72 * s.reportImages.length := by
  rw [reportBody_eq]
  unfold reportTail
  simp only [List.length_append, length_leBytes, length_shake256, length_images, length_bytesAt]
  omega

theorem reportImages_le (s : State) : s.reportImages.length ≤ 6 := by
  unfold State.reportImages
  rw [List.length_take]
  omega

/-- The whole report. -/
def report (s : State) : List Byte := s.reportBody ++ fitBytes 1280 (Config.falconSign s.reportBody)

theorem length_report (s : State) : (report s).length = 176 + 72 * s.reportImages.length + 1280 := by
  unfold report
  rw [List.length_append, length_reportBody, length_fitBytes]

theorem report_count (s : State) : leNat (((report s).drop 72).take 4) = s.reportImages.length := by
  have hle := reportImages_le s
  have hlen : (leBytes 8 (s.pkg % 2 ^ 14) ++ shake256 Config.identityKey).length = 72 := by
    rw [List.length_append, length_leBytes, length_shake256]
  unfold report
  rw [reportBody_eq, List.append_assoc, List.append_assoc, ← List.append_assoc, List.drop_left' hlen, List.append_assoc, List.take_left' (length_leBytes ..), leNat_leBytes]
  omega

theorem report_pkg {s : State} (h : s.pkg < 2 ^ 14) : leNat ((report s).take 8) = s.pkg := by
  unfold report
  rw [reportBody_eq, List.append_assoc, List.take_left' (length_leBytes ..), leNat_leBytes]
  omega

theorem report_nonce (s : State) : ((report s).drop (144 + 72 * s.reportImages.length)).take 32 = s.bytesAt (boxSlot s + 16) 32 := by
  have hsplit : s.reportBody = (leBytes 8 (s.pkg % 2 ^ 14) ++ (shake256 Config.identityKey ++ (leBytes 4 s.reportImages.length ++ (leBytes 4 0 ++
      ((s.reportImages.flatMap fun i => leBytes 8 i.1.toNat ++ fitBytes 64 i.2) ++ shake256 (Config.configurationBytes s.tableBytes)))))) ++
      s.bytesAt (boxSlot s + 16) 32 := by
    rw [reportBody_eq]
    unfold reportTail
    simp only [List.append_assoc]
  have hlen : (leBytes 8 (s.pkg % 2 ^ 14) ++ (shake256 Config.identityKey ++ (leBytes 4 s.reportImages.length ++ (leBytes 4 0 ++
      ((s.reportImages.flatMap fun i => leBytes 8 i.1.toNat ++ fitBytes 64 i.2) ++ shake256 (Config.configurationBytes s.tableBytes)))))).length =
      144 + 72 * s.reportImages.length := by
    simp only [List.length_append, length_leBytes, length_shake256, length_images]
    omega
  unfold report
  rw [hsplit, List.append_assoc, List.drop_left' hlen, List.take_left' (length_bytesAt ..)]

theorem report_signature (s : State) : (report s).drop (176 + 72 * s.reportImages.length) =
    fitBytes 1280 (Config.falconSign ((report s).take (176 + 72 * s.reportImages.length))) := by
  unfold report
  rw [List.drop_left' (length_reportBody s), List.take_left' (length_reportBody s)]

/-! ## The controller's answers -/

theorem posts_iff {s : State} {op : Nat} : Posts s op ↔ s.mailboxOp = some op := by
  unfold Posts State.mailboxOp State.mailboxNat
  rw [mailboxAddr_eq, mailboxAddr_eq, mailboxAddr_eq, ← boxSlot_eq, Nat.add_zero]
  split <;> simp_all

theorem requestArg_eq (s : State) : s.requestArg = leNat (s.bytesAt (boxSlot s + 8) 8) := by
  unfold State.requestArg State.mailboxNat
  rw [mailboxAddr_eq, boxSlot_eq, Nat.add_assoc]

theorem requestZero_eq (s : State) : s.mailboxNat (s.requestSlot + 48) 16 = leNat (s.bytesAt (boxSlot s + 48) 16) := by
  unfold State.mailboxNat
  rw [mailboxAddr_eq, boxSlot_eq, Nat.add_assoc]

theorem attestationReport_eq {s : State} (hnow : s.now = .attestationReport) : exec .attestationReport s = .next (attestation s) := by
  change execAttestationReport s = _
  unfold execAttestationReport
  rw [hnow]

theorem timeStatus_eq {s : State} (hnow : s.now = .timeStatus) : exec .timeStatus s = .next (timeStatus s) := by
  change execTimeStatus s = _
  unfold execTimeStatus
  rw [hnow]

/-- A request that is completed, with what is said of it. -/
theorem shows_completed {i : Instr} {s : State} {status : Nat} {reply : List Byte} (h : exec i s = .next (s.completeRequest status reply))
    (hlen : reply.length ≤ 1984) (hstatus : status < 2 ^ 16) : ∃ t, exec i s = .next t ∧ Completes s t status reply ∧
      OnlyBox s t ∧ (∀ n, t.strand n = s.strand n) ∧ t.units = s.units :=
  ⟨_, h, completes hlen status hstatus, onlyBox_completeRequest hlen status, completeRequest_rest hlen status⟩

theorem attestation_refuses {s : State} {op : Nat} (h : Posts s op) (hop : op ≠ 1) : attestation s = s.completeRequest 1 [] := by
  unfold attestation
  rw [posts_iff.mp h]
  exact if_pos hop

theorem attestation_malformed {s : State} (h : Posts s 1) (hzero : ¬(leNat (s.bytesAt (boxSlot s + 8) 8) = 0 ∧ leNat (s.bytesAt (boxSlot s + 48) 16) = 0)) :
    attestation s = s.completeRequest 2 [] := by
  unfold attestation
  rw [posts_iff.mp h, requestArg_eq, requestZero_eq]
  dsimp only
  rw [if_neg (by omega), if_pos (by simp only [Bool.or_eq_true, decide_eq_true_eq]; omega)]
  rfl

theorem attestation_reports {s : State} (h : Posts s 1) (hzero : leNat (s.bytesAt (boxSlot s + 8) 8) = 0 ∧ leNat (s.bytesAt (boxSlot s + 48) 16) = 0) :
    attestation s = s.completeRequest 0 (report s) := by
  unfold attestation
  rw [posts_iff.mp h, requestArg_eq, requestZero_eq, hzero.1, hzero.2]
  rfl

theorem timeStatus_malformed {s : State} (h : Posts s 3) (harg : leNat (s.bytesAt (boxSlot s + 8) 8) ≠ 0) : timeStatus s = s.completeRequest 2 [] := by
  unfold timeStatus
  rw [posts_iff.mp h, if_neg (by simp), requestArg_eq, if_pos harg]
  rfl

theorem timeStatus_reports {s : State} (h : Posts s 3) (harg : leNat (s.bytesAt (boxSlot s + 8) 8) = 0) :
    timeStatus s = s.completeRequest 0 (leBytes 8 s.units.clock.status) := by
  unfold timeStatus
  rw [posts_iff.mp h, if_neg (by simp), requestArg_eq, harg]
  rfl

/-- The fields of the time status. -/
theorem clockStatus_fields (c : Clock) : leNat ((leBytes 8 c.status).take 2) = c.utcoff.toNat ∧ leNat (((leBytes 8 c.status).drop 2).take 1) = c.flags.toNat ∧
    leNat (((leBytes 8 c.status).drop 3).take 1) = c.cls.toNat ∧ leNat ((leBytes 8 c.status).drop 4) = if c.lost then 1 else 0 := by
  have h1 := c.utcoff.isLt
  have h2 := c.flags.isLt
  have h3 := c.cls.isLt
  rw [leNat_take, leNat_take, leNat_take, leNat_drop, leNat_drop, leNat_drop, leNat_leBytes]
  unfold Clock.status
  split <;> norm_num <;> omega

theorem mailboxAnswers : MailboxAnswers := by
  refine ⟨fun s hnow => ?_, fun s hnow => ?_⟩
  · dsimp only
    have hrun := attestationReport_eq hnow
    refine ⟨fun hsame => ?_, fun op hpost hop => ?_, fun hpost hzero => ?_, fun hpost hzero hpkg => ?_⟩
    · have hnone : s.mailboxOp = none := by
        unfold State.mailboxOp State.mailboxNat
        rw [mailboxAddr_eq, mailboxAddr_eq, Nat.add_zero, if_pos hsame]
      unfold attestation at hrun
      rw [hnone] at hrun
      exact hrun
    · rw [attestation_refuses hpost hop] at hrun
      exact shows_completed hrun (by simp) (by decide)
    · rw [attestation_malformed hpost hzero] at hrun
      exact shows_completed hrun (by simp) (by decide)
    · rw [attestation_reports hpost hzero] at hrun
      have hle := reportImages_le s
      refine ⟨report s, shows_completed hrun (by rw [length_report]; omega) (by decide), ?_⟩
      rw [report_count]
      exact ⟨length_report s, hle, report_pkg hpkg, report_nonce s, report_signature s⟩
  · dsimp only
    have hrun := timeStatus_eq hnow
    refine ⟨fun hpost => ?_, fun hpost harg => ?_, fun hpost harg => ?_⟩
    · have hnot : s.mailboxOp ≠ some 3 := fun h => hpost (posts_iff.mpr h)
      unfold timeStatus at hrun
      rw [if_pos hnot] at hrun
      exact hrun
    · rw [timeStatus_malformed hpost harg] at hrun
      exact shows_completed hrun (by simp) (by decide)
    · rw [timeStatus_reports hpost harg] at hrun
      refine ⟨leBytes 8 s.units.clock.status, shows_completed hrun (by rw [length_leBytes]; omega) (by decide), length_leBytes .., ?_⟩
      exact clockStatus_fields s.units.clock

end Sys2Proof.Claims
end

section
/-! SUPPORT. Actions that complete within a relation; starts of strands; the boot of a package (R361, R363, R392). -/

namespace Sys2Proof.Claims

open Sys2Proof.Machine

/-! ## Actions that complete -/

/-- An order of states: each reaches itself, and steps follow one another. -/
structure Passing (R : State → State → Prop) : Prop where
  refl : ∀ s, R s s
  trans : ∀ {s t u}, R s t → R t u → R s u

/-- An action that completes from every state, and moves it along a relation. -/
def Completing (R : State → State → Prop) {α : Type} (m : M α) : Prop := ∀ s, ∃ a t, m s = .ok a t ∧ R s t

section
variable {R : State → State → Prop} (hR : Passing R) {α β : Type}

theorem completing_modify {f : State → State} (h : ∀ s, R s (f s)) : Completing R (modify f : M PUnit) := fun s => ⟨⟨⟩, f s, rfl, h s⟩

theorem completing_get {f : State → M β} (h : ∀ s, Completing R (f s)) : Completing R (MonadState.get >>= f) := fun s => h s s

include hR

theorem completing_pure (a : α) : Completing R (pure a : M α) := fun s => ⟨a, s, rfl, hR.refl s⟩

theorem completing_bind {m : M α} {f : α → M β} (hm : Completing R m) (hf : ∀ a, Completing R (f a)) : Completing R (m >>= f) := by
  intro s
  obtain ⟨a, t, ht, hst⟩ := hm s
  obtain ⟨b, u, hu, htu⟩ := hf a t
  exact ⟨b, u, (M.bind_ok ht).trans hu, hR.trans hst htu⟩

theorem completing_forIn {l : List α} {f : α → PUnit → M (ForInStep PUnit)} (hf : ∀ a, Completing R (f a ⟨⟩)) : Completing R (forIn l PUnit.unit f) := by
  induction l with
  | nil => exact completing_pure hR _
  | cons a l ih =>
    rw [List.forIn_cons]
    refine completing_bind hR (hf a) fun r => ?_
    cases r
    · exact completing_pure hR _
    · exact ih

end

/-- Held interrupts pass from a colony to a strand, and back. -/
structure CallsPass (R : State → State → Prop) : Prop extends Passing R where
  pending : ∀ (s : State) n ps, R s (s.withStrand n { s.strand n with pending := ps })
  interrupt : ∀ (s : State) n c v, R s (s.withStrand n ((s.strand n).interrupt c v))
  colony : ∀ (s : State) id c, R s (s.withColony id c)

section
variable {R : State → State → Prop} (hR : CallsPass R)
include hR

theorem completing_holdScout (colony : Nat) (v : Word) : Completing R (holdScout colony v) := by
  refine completing_modify fun s => ?_
  split
  · exact hR.colony ..
  · exact hR.refl s

theorem completing_returnScout (colony n : Nat) (t : Strand) : Completing R (returnScout colony n t) := by
  refine completing_bind hR.toPassing (completing_forIn hR.toPassing fun e => ?_) fun _ s => ⟨_, _, rfl, hR.pending s n _⟩
  split
  · exact completing_bind hR.toPassing (completing_holdScout hR colony e.2) fun _ => completing_pure hR.toPassing _
  · exact completing_pure hR.toPassing _

theorem completing_releaseScout (colony : Nat) : Completing R (releaseScout colony) := by
  refine completing_get fun s => completing_bind hR.toPassing
    (completing_forIn hR.toPassing fun n => completing_bind hR.toPassing (completing_returnScout hR colony n _) fun _ => completing_pure hR.toPassing _)
    fun _ => completing_get fun u => ?_
  split
  · refine completing_bind hR.toPassing (completing_forIn hR.toPassing fun e => completing_bind hR.toPassing (fun v => ?_) fun _ => completing_pure hR.toPassing _)
      fun _ => completing_modify fun v => hR.colony v _ _
    exact ⟨_, _, rfl, hR.interrupt v _ _ _⟩
  · exact completing_pure hR.toPassing _

end

/-! ## Starts -/

/-- What a start says of its strand is said of another one. -/
structure StartKept (x y : Strand) : Prop where
  live : y.live = x.live
  pcc : y.pcc = x.pcc
  mode : y.mode = x.mode
  tid : y.tid = x.tid
  regs : y.regs = x.regs
  spill : y.win.spill = x.win.spill
  launch : y.launch = x.launch
  status : y.status = x.status
  inbox : y.inbox = x.inbox
  tasks : y.tasks = x.tasks

theorem StartKept.refl (x : Strand) : StartKept x x := ⟨rfl, rfl, rfl, rfl, rfl, rfl, rfl, rfl, rfl, rfl⟩

theorem StartKept.trans {x y z : Strand} (h : StartKept x y) (h' : StartKept y z) : StartKept x z :=
  ⟨h'.live.trans h.live, h'.pcc.trans h.pcc, h'.mode.trans h.mode, h'.tid.trans h.tid, h'.regs.trans h.regs, h'.spill.trans h.spill,
    h'.launch.trans h.launch, h'.status.trans h.status, h'.inbox.trans h.inbox, h'.tasks.trans h.tasks⟩

theorem StartKept.started {x y : Strand} (h : StartKept x y) {pcc : Reg} {mode : Mode} {tid : BitVec 12} {w0 w1 w2 spill : Reg} {launch : Nat}
    (hx : Started x pcc mode tid w0 w1 w2 spill launch) : Started y pcc mode tid w0 w1 w2 spill launch := by
  have hphys (i : Nat) : y.phys i = x.phys i := congrArg (lookupD Reg.zero · (i % 256)) h.regs
  unfold Started
  rw [h.live, h.pcc, h.mode, h.tid, hphys, hphys, hphys, h.spill, h.launch, h.status, h.inbox, h.tasks]
  simp only [hphys]
  exact hx

/-- The Scout's calls change nothing of this: memory, roots, what boot notes, and what a start says of a strand. -/
structure ScoutPasses (s t : State) : Prop where
  mem : t.mem = s.mem
  roots : t.roots = s.roots
  units : t.units = { s.units with colonies := t.units.colonies }
  strand : ∀ n, StartKept (s.strand n) (t.strand n)

theorem scoutPasses_withStrand (s : State) (n : Nat) {x : Strand} (h : StartKept (s.strand n) x) : ScoutPasses s (s.withStrand n x) := by
  refine ⟨rfl, rfl, rfl, fun m => ?_⟩
  by_cases hm : m = n
  · rw [hm, State.strand_withStrand_same]
    exact h
  · rw [State.strand_withStrand_ne _ _ _ _ hm]
    exact .refl _

theorem callsPass_scoutPasses : CallsPass ScoutPasses where
  refl s := ⟨rfl, rfl, rfl, fun _ => .refl _⟩
  trans h h' := ⟨h'.mem.trans h.mem, h'.roots.trans h.roots, h'.units.trans (by rw [h.units]), fun n => (h.strand n).trans (h'.strand n)⟩
  pending s n ps := scoutPasses_withStrand s n ⟨rfl, rfl, rfl, rfl, rfl, rfl, rfl, rfl, rfl, rfl⟩
  interrupt s n c v := scoutPasses_withStrand s n ⟨rfl, rfl, rfl, rfl, rfl, rfl, rfl, rfl, rfl, rfl⟩
  colony s id c := ⟨rfl, rfl, rfl, fun _ => .refl _⟩

theorem started_strand (q : StartReq) :
    Started q.strand q.pcc (if q.boot then .hypervisor else .user) q.tid q.w0 q.w1 q.w2 q.spill q.launch := by
  have hphys (i : Nat) : q.strand.phys i = lookupD Reg.zero (storeAt Reg.zero 0 q.w0 (storeAt Reg.zero 1 q.w1 (storeAt Reg.zero 2 q.w2 []))) (i % 256) := rfl
  refine ⟨rfl, rfl, rfl, rfl, ?_, ?_, ?_, fun i hi hlt => ?_, rfl, rfl, rfl, rfl, rfl⟩
  · rw [hphys, lookupD_storeAt, if_pos rfl]
  · rw [hphys, lookupD_storeAt, if_neg (by decide), lookupD_storeAt, if_pos rfl]
  · rw [hphys, lookupD_storeAt, if_neg (by decide), lookupD_storeAt, if_neg (by decide), lookupD_storeAt, if_pos rfl]
  · rw [hphys, lookupD_storeAt, if_neg (by omega), lookupD_storeAt, if_neg (by omega), lookupD_storeAt, if_neg (by omega)]
    rfl

/-! ## Slices of a quad -/

theorem lookupD_filter {α : Type} (d : α) (p : Nat → Bool) (m : SMap α) {k : Nat} (hk : p k) : lookupD d (m.filter fun e => p e.1) k = lookupD d m k := by
  induction m with
  | nil => rfl
  | cons e m ih =>
    obtain ⟨j, v⟩ := e
    rw [List.filter_cons]
    split
    next hj => rw [lookupD, lookupD, ih]
    next hj =>
      rw [ih, lookupD, if_neg]
      rintro rfl
      exact hj hk

/-- A byte that lies in no slice of a quad. -/
theorem mem_clearSlices (s : State) (q : Nat) {a : Nat} (ha : a < sliceAddr q 0 0 ∨ sliceAddr q 0 0 + 0x100000 ≤ a) :
    lookupD 0 (s.clearSlices q).mem a = lookupD 0 s.mem a := by
  refine lookupD_filter 0 (fun k => k < sliceAddr q 0 0 / 1 || k ≥ (sliceAddr q 0 0 + 0x100000) / 1) s.mem ?_
  rw [Nat.div_one, Nat.div_one, Bool.or_eq_true, decide_eq_true_eq, decide_eq_true_eq]
  exact ha

theorem enterQuad_keeps (s : State) (q : Nat) (t : BitVec 12) : (s.enterQuad q t).roots = s.roots ∧ (s.enterQuad q t).units = s.units ∧
    (s.enterQuad q t).strands = s.strands ∧
    ∀ a, a < sliceAddr q 0 0 ∨ sliceAddr q 0 0 + 0x100000 ≤ a → lookupD 0 (s.enterQuad q t).mem a = lookupD 0 s.mem a := by
  unfold State.enterQuad
  split
  · exact ⟨rfl, rfl, rfl, fun _ _ => rfl⟩
  · exact ⟨rfl, rfl, rfl, fun a ha => mem_clearSlices s q ha⟩

/-- The state in which a start has placed its strand. -/
def placed (q : StartReq) (e : State) : State :=
  let u := (e.withStrand q.sid q.strand).withCore (coreOf q.sid) { (e.withStrand q.sid q.strand).core (coreOf q.sid) with counters := [] }
  { u with
    badTiles := u.badTiles.filter fun x => x.1 / 2048 ≠ q.sid || u.tileRead q.sid (x.1 / 256 % 8)
    badRows := u.badRows.filter fun x => x.1 / 128 ≠ q.sid }

theorem startStrand_eq (q : StartReq) (s : State) : startStrand q s =
    releaseScout ((placed q (s.enterQuad (quadOf q.sid) q.tid)).colonyOf q.sid) (placed q (s.enterQuad (quadOf q.sid) q.tid)) := rfl

theorem strands_placed (q : StartReq) (e : State) : (placed q e).strands = (e.withStrand q.sid q.strand).strands := rfl

/-- A start completes; the strand is started, and nothing else of what is named here changes but in the slices of its quad. -/
theorem startStrand_run (s : State) (q : StartReq) : ∃ t, startStrand q s = .ok () t ∧ t.roots = s.roots ∧
    t.units = { s.units with colonies := t.units.colonies } ∧
    (∀ a, a < sliceAddr (quadOf q.sid) 0 0 ∨ sliceAddr (quadOf q.sid) 0 0 + 0x100000 ≤ a → lookupD 0 t.mem a = lookupD 0 s.mem a) ∧
    StartKept q.strand (t.strand q.sid) ∧ ∀ n, n ≠ q.sid → StartKept (s.strand n) (t.strand n) := by
  obtain ⟨hroots, hunits, hstrands, hmem⟩ := enterQuad_keeps s (quadOf q.sid) q.tid
  rw [startStrand_eq]
  generalize s.enterQuad (quadOf q.sid) q.tid = e at *
  have hstrand (n : Nat) : (placed q e).strand n = (e.withStrand q.sid q.strand).strand n :=
    congrArg (lookupD Strand.idle · n) (strands_placed q e)
  obtain ⟨_, t, ht, hp⟩ := completing_releaseScout callsPass_scoutPasses ((placed q e).colonyOf q.sid) (placed q e)
  refine ⟨t, ht, hp.roots.trans hroots, hp.units.trans (by rw [← hunits]; rfl), fun a ha => ?_, ?_, fun n hn => ?_⟩
  · rw [hp.mem]
    exact hmem a ha
  · have h := hp.strand q.sid
    rwa [hstrand, State.strand_withStrand_same] at h
  · have h := hp.strand n
    rw [hstrand, State.strand_withStrand_ne _ _ _ _ hn] at h
    unfold State.strand at h ⊢
    rwa [hstrands] at h

/-! ## Boot -/

theorem bootBytes (s : State) {o n : Nat} (h : o + n ≤ 128) : ((s.bytesAt bootBase 128).drop o).take n = s.bytesAt (0xFC000000000 + o) n := by
  refine List.ext_getElem ?_ fun i hi hi' => ?_
  · rw [List.length_take, List.length_drop, length_bytesAt, length_bytesAt]
    omega
  · simp [State.bytesAt, bootBase, Nat.add_assoc]

theorem entryOk_iff (r : Reg) (tenant : BitVec 12) : entryOk tenant r = true ↔ r.tag ∧ Cap.tenant r.val = tenant ∧
    (Cap.kind r.val = Cap.kMemory ∨ Cap.kind r.val = Cap.kEntry) ∧ Cap.has r.val Cap.x ∧ Cap.cursor r.val % 2 = 0 := by
  unfold entryOk
  simp only [Bool.and_eq_true, Bool.or_eq_true, decide_eq_true_eq, and_assoc]

/-- A header that passes its checks is one that the claim describes. -/
theorem parseBoot_eq (s : State) (len : Nat) :
    let f := fun (o n : Nat) => leNat (s.bytesAt (0xFC000000000 + o) n)
    let root := f 16 8
    let entry : Reg := ⟨BitVec.ofNat 128 (f 32 16), true⟩
    let argument : Reg := ⟨BitVec.ofNat 128 (f 48 16), true⟩
    let formed := f 0 2 = 1 ∧ f 2 6 = 0 ∧ f 8 8 = len ∧ 128 ≤ len ∧ len ≤ 2 ^ 34 ∧ f 24 8 = 0 ∧ f 64 64 = 0
    let rooted := root % 65536 = 0 ∧ 0xFC000000000 ≤ root ∧ root + 32768 ≤ 0xFC000000000 + len
    let minted := Cap.mintable bootAuthority entry.val ∧ Cap.kind entry.val = Cap.kEntry ∧ Cap.has entry.val Cap.x ∧
      Cap.tenant entry.val = 0 ∧ Cap.cursor entry.val % 2 = 0 ∧ Cap.mintable bootAuthority argument.val ∧ Cap.kind argument.val = Cap.kMemory
    (formed ∧ rooted ∧ minted → parseBoot (s.bytesAt bootBase 128) len = some ⟨root, entry, argument⟩) ∧
      (¬(formed ∧ rooted ∧ minted) → parseBoot (s.bytesAt bootBase 128) len = none) := by
  dsimp only
  unfold parseBoot
  dsimp only
  simp only [bootBytes s (show 0 + 2 ≤ 128 by omega), bootBytes s (show 2 + 6 ≤ 128 by omega), bootBytes s (show 8 + 8 ≤ 128 by omega),
    bootBytes s (show 16 + 8 ≤ 128 by omega), bootBytes s (show 24 + 8 ≤ 128 by omega), bootBytes s (show 32 + 16 ≤ 128 by omega),
    bootBytes s (show 48 + 16 ≤ 128 by omega), bootBytes s (show 64 + 64 ≤ 128 by omega)]
  constructor
  · rintro ⟨⟨h1, h2, h3, h4, h5, h6, h7⟩, ⟨h8, h9, h10⟩, ⟨h11, h12, h13, h14, h15, h16, h17⟩⟩
    rw [if_pos]
    simp only [Bool.and_eq_true, decide_eq_true_eq, entryOk_iff]
    exact ⟨⟨⟨⟨⟨⟨⟨⟨⟨⟨⟨⟨⟨⟨h1, h2⟩, h3⟩, h4⟩, h5⟩, h6⟩, h7⟩, h8⟩, h9⟩, h10⟩, h11⟩, h12⟩, ⟨trivial, h14, .inr h12, h13, h15⟩⟩, h16⟩, h17⟩
  · intro h
    rw [if_neg]
    contrapose! h
    simp only [Bool.and_eq_true, decide_eq_true_eq, entryOk_iff] at h
    obtain ⟨⟨⟨⟨⟨⟨⟨⟨⟨⟨⟨⟨⟨⟨h1, h2⟩, h3⟩, h4⟩, h5⟩, h6⟩, h7⟩, h8⟩, h9⟩, h10⟩, h11⟩, h12⟩, ⟨-, h14, -, h13, h15⟩⟩, h16⟩, h17⟩ := h
    exact ⟨⟨h1, h2, h3, h4, h5, h6, h7⟩, ⟨h8, h9, h10⟩, ⟨h11, h12, h13, h14, h15, h16, h17⟩⟩

/-- A request that is completed behind changes elsewhere. -/
theorem completes_congr {s u t : State} (h : ∀ j, box ≤ j → u.byteAt j = s.byteAt j) {status : Nat} {reply : List Byte} (hc : Completes u t status reply) :
    Completes s t status reply := by
  have hrp : u.bytesAt (box + 8) 8 = s.bytesAt (box + 8) 8 := bytesAt_eq fun j hj _ => h j (by omega)
  have hslot : boxSlot u = boxSlot s := by rw [boxSlot, boxSlot, hrp]
  unfold Completes at hc ⊢
  rwa [hslot, hrp] at hc

/-- The state in which the package has booted. -/
def booting (s : State) : State := { s with units := { s.units with booted := true } }

/-- The boot strand. -/
def bootStart (h : BootHeader) : StartReq :=
  { sid := 0, pcc := h.entry, tid := 0, w0 := h.argument, w1 := Reg.ofWord 0, w2 := Reg.ofWord 1, spill := Reg.zero, launch := 0, boot := true }

/-- The state in which the boot strand starts. -/
def rooted (s : State) (root : Word) (digest : List Byte) : State :=
  { s with
    roots := storeAt 0 0 root s.roots
    units := { s.units with measured := s.units.measured ++ [(Config.bootVersion, digest)], boot := some 0 } }

theorem roots_rooted (s : State) (root : Word) (digest : List Byte) :
    (rooted s root digest).roots = storeAt 0 0 root s.roots := rfl

theorem byteAt_rooted (s : State) (root : Word) (digest : List Byte) (j : Nat) : (rooted s root digest).byteAt j = s.byteAt j :=
  congrArg (lookupD 0 · (canon j)) (show (rooted s root digest).mem = s.mem from rfl)

/-- What the first boot request does with a header. -/
def bootWith (s : State) (len : Nat) : Option BootHeader → M Unit
  | none => set (s.completeRequest statusMalformed [])
  | some h =>
    let digest := shake256 (s.bytesAt bootBase len)
    if (s.firstBad bootBase len).isSome || s.bootUnsigned digest len then set (s.completeRequest statusMeasurement [])
    else do
      set (rooted s (BitVec.ofNat 64 (s.globalOf h.root + 1)) digest)
      startStrand (bootStart h)
      modify fun s => s.completeRequest statusDone []

section
variable {s : State} (hpost : Posts s 2)
include hpost

theorem bootRequest_booted (hbooted : s.units.booted = true) : bootRequest s = .ok () (s.completeRequest 1 []) := by
  unfold bootRequest
  rw [M.bind_ok (M.get_run s), if_neg (fun h => h (posts_iff.mp hpost)), if_pos hbooted]
  rfl

/-- The first request goes on to the header. -/
theorem bootRequest_first (hbooted : s.units.booted = false) {o : Option BootHeader} (hp : parseBoot (s.bytesAt bootBase 128) s.requestArg = o) :
    bootRequest s = bootWith (booting s) s.requestArg o (booting s) := by
  have hmark : (modify fun s : State => { s with units := { s.units with booted := true } } : M PUnit) s = .ok ⟨⟩ (booting s) := rfl
  unfold bootRequest
  rw [M.bind_ok (M.get_run s), if_neg (fun h => h (posts_iff.mp hpost)), if_neg (by rw [hbooted]; exact Bool.false_ne_true), M.bind_ok hmark,
    M.bind_ok (M.get_run (booting s)), show (booting s).bytesAt bootBase 128 = s.bytesAt bootBase 128 from rfl, hp]
  cases o <;> rfl

end

theorem firstBad_sound {s : State} (h : s.bad = []) (a n : Nat) : s.firstBad a n = none := by
  unfold State.firstBad State.badAt
  rw [h]
  exact List.findSome?_eq_none_iff.mpr fun _ _ => rfl

theorem rootsSame_putBytes (s : State) (a : Nat) (bs : List Byte) : (s.putBytes a bs).roots = s.roots := by
  induction bs generalizing s a with
  | nil => rfl
  | cons b bs ih => exact ih (s.putByte a b) (a + 1)

theorem roots_completeRequest {s : State} {reply : List Byte} (hlen : reply.length ≤ 1984) (status : Nat) :
    (s.completeRequest status reply).roots = s.roots := by
  rw [completeRequest_eq hlen, rootsSame_putBytes, rootsSame_putBytes, rootsSame_putBytes, rootsSame_putBytes]

/-- Bytes of the mailbox lie in no slice. -/
theorem byteAt_box {s u : State} {q : Nat} (hq : q < 1024)
    (h : ∀ a, a < sliceAddr q 0 0 ∨ sliceAddr q 0 0 + 0x100000 ≤ a → lookupD 0 u.mem a = lookupD 0 s.mem a) {j : Nat} (hj : box ≤ j) :
    u.byteAt j = s.byteAt j := by
  have hhigh : dieWindows + 8 * 0x40000000 ≤ box := by norm_num [dieWindows, box]
  have hcanon : canon j = j := canon_of_not_window fun hw => by
    obtain ⟨-, hw, -, -⟩ := hw
    omega
  have hslice : sliceAddr q 0 0 + 0x100000 ≤ dieWindows + 8 * 0x40000000 := by
    unfold sliceAddr
    omega
  refine h (canon j) (.inr ?_)
  rw [hcanon]
  exact hslice.trans (hhigh.trans hj)

/-- What the boot strand's start leaves, once the request is completed. -/
theorem bootStart_run (s : State) (root : Word) (digest : List Byte) (h : BootHeader) :
    ∃ t, (do
        set (rooted s root digest)
        startStrand (bootStart h)
        modify fun s => s.completeRequest statusDone [] : M Unit) s = .ok () t ∧ Completes s t 0 [] ∧ lookupD 0 t.roots 0 = root ∧
      t.units.booted = s.units.booted ∧ t.units.boot = some 0 ∧ t.units.measured = s.units.measured ++ [(Config.bootVersion, digest)] ∧
      Started (t.strand 0) h.entry .hypervisor 0 h.argument (Reg.ofWord 0) (Reg.ofWord 1) Reg.zero 0 := by
  obtain ⟨u, hu, hroots, hunits, hmem, hstart, -⟩ := startStrand_run (rooted s root digest) (bootStart h)
  have hempty : ([] : List Byte).length ≤ 1984 := Nat.zero_le _
  obtain ⟨hstrand, hkept⟩ := completeRequest_rest (s := u) hempty 0
  have hbyte (j : Nat) (hj : box ≤ j) : u.byteAt j = s.byteAt j :=
    (byteAt_box (q := quadOf (bootStart h).sid) (show quadOf 0 < 1024 by decide) hmem hj).trans (byteAt_rooted ..)
  refine ⟨u.completeRequest 0 [], ?_, completes_congr hbyte (completes hempty 0 (by decide)), ?_, ?_, ?_, ?_, ?_⟩
  · rw [M.bind_ok (M.set_run s _), M.bind_ok hu]
    rfl
  · rw [roots_completeRequest hempty, hroots, roots_rooted, lookupD_storeAt_same]
  · rw [hkept, hunits]
    rfl
  · rw [hkept, hunits]
    rfl
  · rw [hkept, hunits]
    rfl
  · rw [hstrand]
    exact hstart.started (started_strand (bootStart h))

theorem bootWith_starts {s : State} {len : Nat} {h : BootHeader} (hsound : s.bad = []) (hsigned : s.bootUnsigned (shake256 (s.bytesAt bootBase len)) len = false) :
    bootWith s len (some h) = (do
        set (rooted s (BitVec.ofNat 64 (s.globalOf h.root + 1)) (shake256 (s.bytesAt bootBase len)))
        startStrand (bootStart h)
        modify fun s => s.completeRequest statusDone [] : M Unit) := by
  unfold bootWith
  dsimp only
  rw [firstBad_sound hsound, hsigned, if_neg (by decide)]

theorem packageBoots : PackageBoots := by
  refine ⟨fun s hnow => ?_, fun s hnow => ?_⟩
  · refine ⟨s.resetAgain, ?_, fun n => rfl, fun id => ?_, rfl, rfl, rfl, rfl, rfl, rfl, rfl, rfl⟩
    · change execReset s = _
      unfold execReset
      rw [hnow]
    · change lookupD none [(1, some Colony.first)] id = _
      rw [lookupD]
      rfl
  · have hexec : exec .bootRequest s = runEvent bootRequest s := by
      change execBootRequest s = _
      unfold execBootRequest
      rw [hnow]
    have hdone {t : State} (h : bootRequest s = .ok () t) : exec .bootRequest s = .next t := happens_runEvent hexec h
    have hempty : ([] : List Byte).length ≤ 1984 := Nat.zero_le _
    have hmark (status : Nat) (hstatus : status < 2 ^ 16) : Completes s ((booting s).completeRequest status []) status [] ∧
        OnlyBox s ((booting s).completeRequest status []) ∧ ((booting s).completeRequest status []).units.booted = true ∧
        ∀ n, ((booting s).completeRequest status []).strand n = s.strand n := by
      obtain ⟨hstrand, hunits⟩ := completeRequest_rest (s := booting s) hempty status
      exact ⟨completes_congr (u := booting s) (fun _ _ => rfl) (completes hempty status hstatus), onlyBox_completeRequest (s := booting s) hempty status,
        by rw [hunits]; rfl, hstrand⟩
    dsimp only
    refine ⟨fun hpost => hdone ?_, fun hpost hbooted => ?_, fun hpost hbooted hbad => ?_, fun hpost hbooted hformed hrooted hminted hsound => ⟨fun hun => ?_, fun hun => ?_⟩⟩
    · unfold bootRequest
      rw [M.bind_ok (M.get_run s), if_pos fun h => hpost (posts_iff.mpr h)]
      rfl
    · obtain ⟨hstrand, hunits⟩ := completeRequest_rest (s := s) hempty 1
      exact ⟨_, ⟨hdone (bootRequest_booted hpost hbooted), completes hempty 1 (by decide)⟩, onlyBox_completeRequest hempty 1, hunits, hstrand⟩
    · have hparse := (parseBoot_eq s s.requestArg).2 (by rw [requestArg_eq]; exact hbad)
      obtain ⟨hc, hbox, hb, hstrand⟩ := hmark 2 (by decide)
      exact ⟨_, ⟨hdone (bootRequest_first hpost hbooted hparse), hc⟩, hbox, hb, hstrand⟩
    all_goals
      have hparse := (parseBoot_eq s s.requestArg).1 (by rw [requestArg_eq]; exact ⟨hformed, hrooted, hminted⟩)
      have hrun := bootRequest_first hpost hbooted hparse
      have hdigest : (booting s).bytesAt bootBase s.requestArg = s.bytesAt 0xFC000000000 (leNat (s.bytesAt (boxSlot s + 8) 8)) := by
        rw [requestArg_eq]
        rfl
      have hsigns : (booting s).bootUnsigned (shake256 ((booting s).bytesAt bootBase s.requestArg)) s.requestArg =
          (Config.customerKeyFused && !Config.falconValid (shake256 (s.bytesAt 0xFC000000000 (leNat (s.bytesAt (boxSlot s + 8) 8))))
            (s.bytesAt (0xFC000000000 + leNat (s.bytesAt (boxSlot s + 8) 8)) 1280)) := by
        rw [hdigest, requestArg_eq]
        rfl
    · obtain ⟨hc, hbox, hb, hstrand⟩ := hmark 3 (by decide)
      rw [hun.1, hun.2] at hsigns
      unfold bootWith at hrun
      dsimp only at hrun
      rw [hsigns, if_pos (by simp)] at hrun
      exact ⟨_, ⟨hdone hrun, hc⟩, hbox, hstrand⟩
    · have hsigned : (booting s).bootUnsigned (shake256 ((booting s).bytesAt bootBase s.requestArg)) s.requestArg = false := by
        rw [hsigns]
        simpa using hun
      rw [bootWith_starts (s := booting s) hsound hsigned, hdigest] at hrun
      obtain ⟨t, ht, hc, hroot, hb, hboot, hmeasured, hstart⟩ := bootStart_run (booting s) (BitVec.ofNat 64 (s.pkg * 2 ^ 41 + leNat (s.bytesAt (0xFC000000000 + 16) 8) + 1))
        (shake256 (s.bytesAt 0xFC000000000 (leNat (s.bytesAt (boxSlot s + 8) 8))))
        ⟨leNat (s.bytesAt (0xFC000000000 + 16) 8), ⟨BitVec.ofNat 128 (leNat (s.bytesAt (0xFC000000000 + 32) 16)), true⟩,
          ⟨BitVec.ofNat 128 (leNat (s.bytesAt (0xFC000000000 + 48) 16)), true⟩⟩
      exact ⟨t, ⟨hdone (hrun.trans ht), completes_congr (u := booting s) (fun _ _ => rfl) hc⟩, hb, hboot, hmeasured, hroot, hstart⟩

end Sys2Proof.Claims
end

section
/-! PROOF. O56: the controller's mailbox, boot, and the host's accesses. -/

namespace Sys2Proof.Claims

open Sys2Proof.Machine

/-! ## Functions -/

theorem hostBusy_iff (s : State) (fn : Nat) : s.hostBusy fn = true ↔ HostBusy s fn := by
  unfold State.hostBusy HostBusy
  rw [List.any_eq_true]
  refine exists_congr fun r => and_congr_right fun _ => ?_
  rw [Bool.or_eq_true, decide_eq_true_eq, decide_eq_true_eq]
  exact ⟨fun h => h.elim (⟨false, ·⟩) (⟨true, ·⟩), fun ⟨more, h⟩ => by cases more <;> [exact .inl h; exact .inr h]⟩

theorem vfColony_unserved {s : State} {fn : Nat} (h : Unserved s fn) : s.vfColony fn = none := by
  unfold State.vfColony
  rw [List.findSome?_eq_none_iff]
  intro e he
  cases hc : e.2 with
  | none => rfl
  | some k => exact if_neg (h e he k hc)

theorem vfColony_serves {s : State} {fn id : Nat} {c : Colony} (h : Serves s fn id c) : s.vfColony fn = some (id, c) := by
  obtain ⟨-, hcol, hvf, huniq⟩ := h
  unfold State.colony at hcol
  unfold State.vfColony
  generalize s.units.colonies = l at hcol huniq
  induction l with
  | nil => cases hcol
  | cons e l ih =>
    obtain ⟨k, o⟩ := e
    rw [lookupD] at hcol
    rw [List.findSome?_cons]
    by_cases hk : id = k
    · rw [if_pos hk] at hcol
      subst hk hcol
      dsimp only
      rw [if_pos hvf]
    · rw [if_neg hk] at hcol
      have hrest := ih hcol fun e he => huniq e (List.mem_cons_of_mem _ he)
      cases o with
      | none => exact hrest
      | some d =>
        dsimp only
        rw [if_neg fun hd => hk (huniq (k, some d) List.mem_cons_self d rfl hd).symm]
        exact hrest

/-- The state after a reply to the host. -/
def replied (s : State) (r : HostReply) : State := { s with units := { s.units with hostOut := s.units.hostOut ++ [r] } }

theorem hostReply_run (r : HostReply) (s : State) : hostReply r s = .ok () (replied s r) := rfl

theorem inOrder_busy {s : State} {h : HostAccess} (hbusy : HostBusy s h.fn) (act : M Unit) :
    inOrder h act s = .ok () { s with units := { s.units with hostWaiting := s.units.hostWaiting ++ [h] } } := by
  unfold inOrder
  rw [M.bind_ok (M.get_run s), if_pos ((hostBusy_iff ..).mpr hbusy)]
  rfl

theorem inOrder_free {s : State} {h : HostAccess} (hfree : ¬HostBusy s h.fn) (act : M Unit) : inOrder h act s = act s := by
  unfold inOrder
  rw [M.bind_ok (M.get_run s), if_neg (mt (hostBusy_iff ..).mp hfree)]

theorem hostServed_unserved {s : State} {h : HostAccess} (hun : (h.fn = 0 ∧ h.bar0 = true) ∨ (h.fn ≠ 0 ∧ Unserved s h.fn)) : s.hostServed h = false := by
  unfold State.hostServed
  rcases hun with ⟨hfn, hbar⟩ | ⟨hfn, hun⟩
  · rw [if_pos hfn, hbar]
    rfl
  · rw [if_neg hfn, vfColony_unserved hun]
    rfl

theorem hostServed_first {s : State} {h : HostAccess} (hfn : h.fn = 0) (hbar : h.bar0 = false) : s.hostServed h = true := by
  unfold State.hostServed
  rw [if_pos hfn, hbar]
  rfl

theorem hostServed_serves {s : State} {h : HostAccess} {id : Nat} {c : Colony} (hs : Serves s h.fn id c) : s.hostServed h = true := by
  unfold State.hostServed
  rw [if_neg hs.1, vfColony_serves hs]
  rfl

/-! ## BAR2 of function 0 -/

theorem asStrand_ok {α : Type} {sid : Nat} {m : M α} {s t : State} {a : α} (h : m { s with cur := sid } = .ok a t) :
    asStrand sid m s = .ok a { t with cur := s.cur } := by
  unfold asStrand
  rw [h]

theorem asStrand_error {α : Type} {sid : Nat} {m : M α} {s t : State} {e : Exc} (h : m { s with cur := sid } = .error e t) :
    asStrand sid m s = .error e { t with cur := s.cur } := by
  unfold asStrand
  rw [h]

theorem attempt_error {α : Type} {m : M α} {s t : State} {e : Exc} (h : m s = .error e t) : attempt m s = .ok (.error e) (s.undo t) := by
  unfold attempt
  rw [h]

section
variable {s : State} {h : HostAccess} (hfn : h.fn = 0)
include hfn

theorem hostPlaces_beyond {n : Nat} (hfar : 2 ^ 41 < h.addr + n) (perm : BitVec 12) :
    hostPlaces h n perm s = .error (.trap cXlat (BitVec.ofNat 64 h.addr) none) s := by
  unfold hostPlaces
  rw [M.bind_ok (M.get_run s), if_pos hfn]
  refine M.bind_error ?_
  unfold raiseIf
  rw [if_pos (by simpa using hfar)]
  rfl

theorem hostPlaces_within {n : Nat} (hnear : h.addr + n ≤ 2 ^ 41) (perm : BitVec 12) :
    hostPlaces h n perm s = .ok [(h.addr, n, s.globalOf h.addr, 0)] s := by
  have hnot : decide (h.addr + n > 2 ^ 41) = false := by simpa using hnear
  unfold hostPlaces
  rw [M.bind_ok (M.get_run s), if_pos hfn, hnot]
  rfl

end

theorem mailboxAccess_beyond {h : HostAccess} {n : Nat} (hfar : 2 ^ 41 < h.addr + n) : mailboxAccess h n = false := by
  unfold mailboxAccess mailboxOff
  by_contra hm
  simp only [Bool.not_eq_false, Bool.and_eq_true, decide_eq_true_eq] at hm
  omega

theorem mailboxAccess_cacheable {h : HostAccess} {n : Nat} (hc : cacheable h.addr = true) : mailboxAccess h n = false := by
  unfold mailboxAccess mailboxOff
  by_contra hm
  simp only [Bool.not_eq_false, Bool.and_eq_true, decide_eq_true_eq] at hm
  obtain ⟨⟨-, hlo⟩, hhi⟩ := hm
  have hnot : cacheable h.addr = false := not_cacheable_of_offset (by unfold dieWindows; omega) (by unfold dieWindows; omega)
  rw [hnot] at hc
  cases hc

/-! ## Bytes read in parts -/

theorem pathRead_plain {s : State} (hpart : NoPartials s) {a n : Nat} (hn : 0 < n) (hplain : ∀ i < n, cacheable (a + i) = true ∧ s.badAt (a + i) = 0) (va : Nat) :
    pathRead va a n s = .ok (s.bytesAt a n) s := by
  have hbad : s.firstBad a n = none := by
    unfold State.firstBad
    rw [List.findSome?_eq_none_iff]
    intro i hi
    rw [(hplain i (List.mem_range.mp hi)).2]
    rfl
  have hcheck : checkSectors va a n s = .ok () s := by
    unfold checkSectors
    rw [hbad]
  unfold pathRead
  rcases place_of_cacheable (hplain 0 hn).1 with hp | ⟨d, hp⟩ <;> rw [Nat.add_zero] at hp <;> rw [hp] <;>
    exact (M.bind_ok hcheck).trans (homeRead_run hpart ..)

/-- Each part of a division lies in the range, and is not empty. -/
theorem mem_splitAt {unit fuel a : Nat} {bs : List Byte} {q : Nat × List Byte} (hunit : 0 < unit) (hq : q ∈ splitAt unit fuel a bs) :
    0 < q.2.length ∧ a ≤ q.1 ∧ q.1 + q.2.length ≤ a + bs.length := by
  induction fuel generalizing a bs with
  | zero => cases hq
  | succ fuel ih =>
    rw [splitAt] at hq
    split at hq
    next => cases hq
    next hne =>
      have hpos : 0 < bs.length := List.length_pos_iff.mpr (by simpa using hne)
      have hmod : a % unit < unit := Nat.mod_lt _ hunit
      rcases List.mem_cons.mp hq with rfl | hq
      · refine ⟨?_, Nat.le_refl _, ?_⟩ <;> rw [List.length_take] <;> omega
      · obtain ⟨h1, h2, h3⟩ := ih hq
        rw [List.length_drop] at h3
        exact ⟨h1, by omega, by omega⟩

theorem bytesAt_append (s : State) (a m n : Nat) : s.bytesAt a m ++ s.bytesAt (a + m) n = s.bytesAt a (m + n) := by
  unfold State.bytesAt
  rw [List.range_add, List.map_append, List.map_map]
  simp [Nat.add_assoc, Function.comp_def]

/-- The parts of a range hold its bytes. -/
theorem flatten_splitAt (s : State) {fuel a : Nat} {bs : List Byte} (hfuel : a % 128 + bs.length ≤ 128 * fuel) :
    ((splitAt 128 fuel a bs).map fun q => s.bytesAt q.1 q.2.length).flatten = s.bytesAt a bs.length := by
  induction fuel generalizing a bs with
  | zero =>
    rw [List.eq_nil_of_length_eq_zero (show bs.length = 0 by omega)]
    rfl
  | succ fuel ih =>
    rw [splitAt]
    split
    next hemp =>
      rw [List.isEmpty_iff.mp hemp]
      rfl
    next =>
      have hmod : a % 128 < 128 := Nat.mod_lt _ (by decide)
      dsimp only
      rw [List.map_cons, List.flatten_cons, ih (by rw [List.length_drop]; omega), List.length_drop]
      by_cases hlen : 128 - a % 128 ≤ bs.length
      · rw [List.length_take_of_le hlen, bytesAt_append, Nat.add_sub_cancel' hlen]
      · rw [List.take_of_length_le (by omega), show bs.length - (128 - a % 128) = 0 by omega]
        exact List.append_nil _

section
variable {s : State} {a n : Nat} (hplain : PlainBytes s a n)
include hplain

theorem hostBytes_run : hostBytes a n s = .ok (s.bytesAt a n) s := by
  obtain ⟨-, hpart, -, -, hall⟩ := hplain
  have hparts := mapM_run (f := fun q : Nat × List Byte => pathRead q.1 q.1 q.2.length) (g := fun q => s.bytesAt q.1 q.2.length) (v := s)
    (l := splitAt 128 (n / 128 + 2) a (List.replicate n 0)) fun q hq => by
      obtain ⟨hpos, hlo, hhi⟩ := mem_splitAt (by decide) hq
      rw [List.length_replicate] at hhi
      refine pathRead_plain hpart hpos (fun i hi => ?_) q.1
      have hbyte := hall (q.1 + i - a) (by omega)
      rwa [show a + (q.1 + i - a) = q.1 + i by omega] at hbyte
  have hflat := flatten_splitAt s (fuel := n / 128 + 2) (a := a) (bs := List.replicate n 0) (by rw [List.length_replicate]; omega)
  rw [List.length_replicate] at hflat
  rw [← hflat]
  exact (M.bind_ok hparts).trans rfl

theorem pkgOf_globalOf : pkgOf (s.globalOf a) = s.pkg := by
  obtain ⟨hpkg, -, hhi, hpos, -⟩ := hplain
  unfold pkgOf State.globalOf
  omega

theorem localOf_globalOf : localOf (s.globalOf a) = a := by
  obtain ⟨hpkg, -, hhi, hpos, -⟩ := hplain
  unfold localOf State.globalOf
  omega

end

theorem mirrorLoad_plain (p : Nat) (s : State) : mirrorLoad p 0 s = .ok p s := by
  unfold mirrorLoad
  rw [M.bind_ok (M.get_run s)]
  rfl

theorem hostReadPages_here {s : State} {h : HostAccess} {a n : Nat} (hplain : PlainBytes s a n) (hlost : s.pkg ∉ s.units.lost) :
    hostReadPages h [(a, n, s.globalOf a, 0)] s = .ok () (replied s (.data h.fn (s.bytesAt a n))) := by
  have hpkg := pkgOf_globalOf hplain
  unfold hostReadPages
  rw [M.bind_ok (mirrorLoad_plain (s.globalOf a) s), M.bind_ok (M.get_run s), hpkg, if_neg (by simpa using hlost), if_neg (not_not.mpr rfl),
    localOf_globalOf hplain, M.bind_ok (attempt_ok (hostBytes_run hplain))]
  exact (M.bind_ok (hostReply_run ..)).trans rfl

/-! ## Bytes written in parts -/

/-- A part of a put whose place may be a register. -/
def deliverPart (src : BitVec 28) (path : Nat) (q : Nat × List Byte) (_ : PUnit) : M (ForInStep PUnit) := do
  pathDeliver q.1 q.1 q.2 src path
  pure (.yield ⟨⟩)

theorem putsPart_deliverPart (src : BitVec 28) (path : Nat) : PutsPart (deliverPart src path) := by
  intro s p hpart hne hplain
  have hpos := List.length_pos_iff.mpr hne
  obtain ⟨t, hrun, hput, hmem, htags⟩ := pathWrite_run hpart hplain src path
  have hdeliver : pathDeliver p.1 p.1 p.2 src path s = .ok () t := by
    unfold pathDeliver
    rcases place_of_cacheable (hplain 0 hpos).1 with hp | ⟨d, hp⟩ <;> rw [Nat.add_zero] at hp <;> rw [hp] <;>
      exact (M.bind_ok (homeRead_run hpart ..)).trans hrun
  exact ⟨t, (M.bind_ok hdeliver).trans rfl, hput, hmem, htags⟩

theorem hostPut_run {s : State} {a : Nat} {bs : List Byte} (hplain : PlainBytes s a bs.length) (fn : Nat) (tenant : BitVec 12) (va : Nat) :
    ∃ t, hostPut fn tenant va (s.globalOf a) 0 bs s = .ok () t ∧ PutOnly s t ∧ t.mem = (s.putBytes a bs).mem ∧ t.tags = (s.putBytes a bs).tags := by
  have hpkg := pkgOf_globalOf hplain
  have hloc := localOf_globalOf hplain
  obtain ⟨-, hpart, -, -, hall⟩ := hplain
  obtain ⟨t, hrun, hrest⟩ := forIn_parts (putsPart_deliverPart (hostSrc fn) 6) (fuel := bs.length / 128 + 2) (by omega) hpart hall
  refine ⟨t, ?_, hrest⟩
  unfold hostPut
  rw [M.bind_ok (M.get_run s), if_neg (by decide), hpkg, if_neg (not_not.mpr rfl), hloc]
  exact (M.bind_ok hrun).trans rfl

/-! ## The claim -/

/-- A reply, and nothing else that the host's claim names. -/
theorem shows_replied {i : Instr} {s u : State} {body : M Unit} (hexec : exec i s = runEvent body s) {r : HostReply} (hrun : body s = .ok () (replied u r))
    (hunits : u.units.hostOut = s.units.hostOut) (hmem : u.mem = s.mem) (hstrands : u.strands = s.strands) :
    ∃ t, exec i s = .next t ∧ t.units.hostOut = s.units.hostOut ++ [r] ∧ t.mem = s.mem ∧ ∀ n, t.strand n = s.strand n :=
  ⟨_, happens_runEvent hexec hrun, congrArg (· ++ [r]) hunits, hmem, fun n => congrArg (lookupD _ · n) hstrands⟩

section Read
variable {s : State} {h : HostAccess}

theorem hostRead_unsupported (hfree : ¬HostBusy s h.fn) (hun : (h.fn = 0 ∧ h.bar0 = true) ∨ (h.fn ≠ 0 ∧ Unserved s h.fn)) :
    hostRead h s = .ok () (replied s (.unsupported h.fn)) := by
  unfold hostRead
  rw [inOrder_free hfree, M.bind_ok (M.get_run s), hostServed_unserved hun]
  rfl

theorem hostRead_bar0 (hfree : ¬HostBusy s h.fn) (hbar : h.bar0 = true) {id : Nat} {c : Colony} (hs : Serves s h.fn id c) :
    hostRead h s = .ok () (replied s (.data h.fn (hostCount h c))) := by
  unfold hostRead
  rw [inOrder_free hfree, M.bind_ok (M.get_run s), hostServed_serves hs, hbar, vfColony_serves hs]
  rfl

/-- What reads of BAR2 of function 0 come to, by what the pages give. -/
theorem hostRead_first (hfree : ¬HostBusy s h.fn) (hfn : h.fn = 0) (hbar : h.bar0 = false) (hbox : mailboxAccess h h.n = false) :
    hostRead h s = (do
      let r ← attempt (asStrand 16384 (hostPlaces h h.n Cap.ld))
      match r with
      | .ok ps => asStrand 16384 (hostReadPages h ps)
      | .error (.stop f) => throw (.stop f)
      | .error _ => hostReply (.completerAbort h.fn) : M Unit) s := by
  unfold hostRead
  rw [inOrder_free hfree, M.bind_ok (M.get_run s), hostServed_first hfn hbar, hbar, hbox]
  rfl

theorem hostRead_aborts (hfree : ¬HostBusy s h.fn) (hfn : h.fn = 0) (hbar : h.bar0 = false) (hfar : 2 ^ 41 < h.addr + h.n) :
    hostRead h s = .ok () (replied s (.completerAbort h.fn)) := by
  rw [hostRead_first hfree hfn hbar (mailboxAccess_beyond hfar), M.bind_ok (attempt_error (asStrand_error (hostPlaces_beyond hfn hfar _)))]
  rfl

theorem hostRead_data (hfree : ¬HostBusy s h.fn) (hfn : h.fn = 0) (hbar : h.bar0 = false) (hplain : PlainBytes s h.addr h.n) (hlost : s.pkg ∉ s.units.lost) :
    hostRead h s = .ok () (replied s (.data h.fn (s.bytesAt h.addr h.n))) := by
  obtain ⟨-, -, hnear, hpos, hall⟩ := id hplain
  rw [hostRead_first hfree hfn hbar (mailboxAccess_cacheable (hall 0 hpos).1), M.bind_ok (attempt_ok (asStrand_ok (hostPlaces_within hfn hnear _)))]
  exact asStrand_ok (hostReadPages_here (s := { s with cur := 16384 }) hplain hlost)

end Read

section Write
variable {s : State} {h : HostAccess}

theorem hostWrite_unsupported (hfree : ¬HostBusy s h.fn) (hun : (h.fn = 0 ∧ h.bar0 = true) ∨ (h.fn ≠ 0 ∧ Unserved s h.fn)) :
    hostWrite h s = .ok () (replied s (.unsupported h.fn)) := by
  unfold hostWrite
  rw [inOrder_free hfree, M.bind_ok (M.get_run s), hostServed_unserved hun]
  rfl

/-- What a write of BAR2 of function 0 puts, page by page. -/
def hostPuts (h : HostAccess) (tenant : BitVec 12) : M Unit := do
  let ps ← hostPlaces h h.bytes.length Cap.st
  for e in pieceBytes h.addr ps h.bytes do
    hostPut h.fn tenant e.1 e.2.1 e.2.2.1 e.2.2.2

theorem hostWrite_first (hfree : ¬HostBusy s h.fn) (hfn : h.fn = 0) (hbar : h.bar0 = false) (hbox : mailboxAccess h h.bytes.length = false) :
    ∃ tenant, hostWrite h s = (do
      let r ← attempt (asStrand 16384 (hostPuts h tenant))
      match r with
      | .ok _ => do
        let s ← get
        if s.hostBusy h.fn then pure () else hostReply (.done h.fn)
      | .error (.stop f) => throw (.stop f)
      | .error _ => hostReply (.completerAbort h.fn) : M Unit) s := by
  unfold hostWrite
  rw [inOrder_free hfree, M.bind_ok (M.get_run s), hostServed_first hfn hbar, hbar, hbox]
  exact ⟨_, rfl⟩

theorem hostWrite_aborts (hfree : ¬HostBusy s h.fn) (hfn : h.fn = 0) (hbar : h.bar0 = false) (hfar : 2 ^ 41 < h.addr + h.bytes.length) :
    hostWrite h s = .ok () (replied s (.completerAbort h.fn)) := by
  obtain ⟨tenant, hw⟩ := hostWrite_first hfree hfn hbar (mailboxAccess_beyond hfar)
  have hputs : hostPuts h tenant { s with cur := 16384 } = .error (.trap cXlat (BitVec.ofNat 64 h.addr) none) { s with cur := 16384 } :=
    M.bind_error (hostPlaces_beyond hfn hfar _)
  rw [hw, M.bind_ok (attempt_error (asStrand_error hputs))]
  rfl

theorem hostPuts_run (hfn : h.fn = 0) (hplain : PlainBytes s h.addr h.bytes.length) (tenant : BitVec 12) :
    ∃ t, hostPuts h tenant s = .ok () t ∧ PutOnly s t ∧ t.mem = (s.putBytes h.addr h.bytes).mem ∧ t.tags = (s.putBytes h.addr h.bytes).tags := by
  obtain ⟨-, -, hnear, -, -⟩ := id hplain
  obtain ⟨t, hrun, hrest⟩ := hostPut_run hplain h.fn tenant h.addr
  have hpiece : pieceBytes h.addr [(h.addr, h.bytes.length, s.globalOf h.addr, 0)] h.bytes = [(h.addr, s.globalOf h.addr, 0, h.bytes)] := by
    unfold pieceBytes
    simp
  refine ⟨t, ?_, hrest⟩
  unfold hostPuts
  rw [M.bind_ok (hostPlaces_within hfn hnear _), hpiece]
  refine (M.bind_ok (a := ⟨⟩) ?_).trans rfl
  have hstep : (do
      hostPut h.fn tenant h.addr (s.globalOf h.addr) 0 h.bytes
      pure (.yield ⟨⟩) : M (ForInStep PUnit)) s = .ok (.yield ⟨⟩) t := (M.bind_ok hrun).trans rfl
  rw [List.forIn_cons, M.bind_ok hstep]
  rfl

theorem hostWrite_done (hfree : ¬HostBusy s h.fn) (hfn : h.fn = 0) (hbar : h.bar0 = false) (hplain : PlainBytes s h.addr h.bytes.length) :
    ∃ t, hostWrite h s = .ok () (replied t (.done h.fn)) ∧ t.units.hostOut = s.units.hostOut ∧ t.mem = (s.putBytes h.addr h.bytes).mem ∧
      t.tags = (s.putBytes h.addr h.bytes).tags := by
  obtain ⟨-, -, -, hpos, hall⟩ := id hplain
  obtain ⟨tenant, hw⟩ := hostWrite_first hfree hfn hbar (mailboxAccess_cacheable (hall 0 hpos).1)
  obtain ⟨t, hrun, hput, hmem, htags⟩ := hostPuts_run (s := { s with cur := 16384 }) hfn hplain tenant
  have hunits := hput.units
  have hbusy : State.hostBusy { t with cur := s.cur } h.fn = false := by
    have hb := mt (hostBusy_iff s h.fn).mp hfree
    unfold State.hostBusy at hb ⊢
    rw [show ({ t with cur := s.cur } : State).units = t.units from rfl, hunits]
    simpa using hb
  obtain ⟨hm, ht⟩ := putBytes_congr (s := s) (u := { s with cur := 16384 }) rfl rfl h.addr h.bytes
  refine ⟨{ t with cur := s.cur }, ?_, ?_, hmem.trans hm, htags.trans ht⟩
  · rw [hw, M.bind_ok (attempt_ok (asStrand_ok hrun))]
    refine (M.bind_ok (M.get_run _)).trans ?_
    rw [hbusy]
    rfl
  · rw [show ({ t with cur := s.cur } : State).units = t.units from rfl, hunits]

end Write

section Barrier
variable {s : State} {fn : Nat}

theorem hostBarrier_unserved (h : Unserved s fn) (off : Nat) : hostBarrier fn off s = .ok () (replied s (.unsupported fn)) := by
  unfold hostBarrier
  rw [M.bind_ok (M.get_run s), vfColony_unserved h]
  rfl

theorem hostGroup_none {off : Nat} (h : off % 8 ≠ 0 ∨ 128 ≤ off) : hostGroup off = none := by
  unfold hostGroup
  rw [if_neg]
  simp only [Bool.and_eq_true, decide_eq_true_eq]
  omega

theorem hostGroup_some {off : Nat} (h : off % 8 = 0) (h' : off < 128) : hostGroup off = some (off / 8) := by
  unfold hostGroup
  rw [if_pos]
  simp only [Bool.and_eq_true, decide_eq_true_eq]
  omega

variable {id : Nat} {c : Colony} (hs : Serves s fn id c)
include hs

theorem hostBarrier_ignored {off : Nat} (h : off % 8 ≠ 0 ∨ 128 ≤ off ∨ c.hostMember = false ∨ c.job = 0) :
    hostBarrier fn off s = .ok () (replied s (.done fn)) := by
  unfold hostBarrier
  rw [M.bind_ok (M.get_run s), vfColony_serves hs]
  dsimp only
  by_cases hoff : off % 8 ≠ 0 ∨ 128 ≤ off
  · rw [hostGroup_none hoff]
    rfl
  · rw [hostGroup_some (by omega) (by omega)]
    have hnot : (c.hostMember && decide (c.job ≠ 0)) = false := by
      rcases h with h | h | h | h
      · exact absurd (.inl h) hoff
      · exact absurd (.inr h) hoff
      · rw [h, Bool.false_and]
      · rw [h]
        simp
    dsimp only
    rw [hnot]
    rfl

theorem hostBarrier_arrives {off : Nat} (h : off % 8 = 0) (h' : off < 128) (hmember : c.hostMember = true) (hjob : c.job ≠ 0)
    (hnone : ∀ b ∈ s.running, s.jobOf b ≠ c.job) :
    hostBarrier fn off s = .ok () (replied (s.withColony id (some { c with hostArrived := c.hostArrived ||| 1#16 <<< (off / 8) })) (.done fn)) := by
  have hfind : s.running.find? (fun b => decide (s.jobOf b = c.job)) = none := by
    rw [List.find?_eq_none]
    intro b hb
    simpa using hnone b hb
  unfold hostBarrier
  rw [M.bind_ok (M.get_run s), vfColony_serves hs]
  dsimp only
  rw [hostGroup_some h h']
  dsimp only
  rw [hmember, if_pos (by simpa using hjob), M.bind_ok (M.modify_run _ s), hfind]
  rfl

end Barrier

theorem hostCount_eq (h : HostAccess) (c : Colony) : hostCount h c =
    if h.addr % 8 = 0 ∧ h.addr < 128 ∧ h.n = 8 then leBytes 8 (lookupD 0 c.hostPhases (h.addr / 8)) else List.replicate h.n 0 := by
  unfold hostCount
  by_cases hoff : h.addr % 8 = 0 ∧ h.addr < 128
  · rw [hostGroup_some hoff.1 hoff.2]
    simp [hoff]
  · rw [hostGroup_none (by omega), if_neg (by tauto)]

theorem hostAccesses : HostAccesses := by
  refine ⟨fun s h hnow => ?_, fun s h hnow => ?_, fun s fn off hnow => ?_⟩
  · have hexec : exec .hostRead s = runEvent (hostRead h) s := by
      change execHostRead s = _
      unfold execHostRead
      rw [hnow]
    refine ⟨fun hbusy => happens_runEvent hexec (inOrder_busy hbusy _), fun hfree hun => shows_replied hexec (hostRead_unsupported hfree hun) rfl rfl rfl,
      fun hfree hfn hbar hfar => ?_, fun hfree hfn hbar hplain hlost => ?_, fun id c hfree hs hbar => ?_⟩
    · rw [← hfn] at hfree ⊢
      exact shows_replied hexec (hostRead_aborts hfree hfn hbar hfar) rfl rfl rfl
    · have hrun := hostRead_data (by rwa [hfn]) hfn hbar hplain hlost
      rw [hfn] at hrun
      exact shows_replied hexec hrun rfl rfl rfl
    · rw [← hostCount_eq]
      exact shows_replied hexec (hostRead_bar0 hfree hbar hs) rfl rfl rfl
  · have hexec : exec .hostWrite s = runEvent (hostWrite h) s := by
      change execHostWrite s = _
      unfold execHostWrite
      rw [hnow]
    refine ⟨fun hbusy => happens_runEvent hexec (inOrder_busy hbusy _), fun hfree hun => shows_replied hexec (hostWrite_unsupported hfree hun) rfl rfl rfl,
      fun hfree hfn hbar hfar => ?_, fun hfree hfn hbar hplain => ?_⟩
    · have hrun := hostWrite_aborts (by rwa [hfn]) hfn hbar hfar
      rw [hfn] at hrun
      exact shows_replied hexec hrun rfl rfl rfl
    · obtain ⟨t, hrun, hout, hmem, htags⟩ := hostWrite_done (by rwa [hfn]) hfn hbar hplain
      obtain ⟨-, -, -, -, hall⟩ := hplain
      rw [hfn] at hrun
      refine ⟨_, happens_runEvent hexec hrun, congrArg (· ++ [HostReply.done 0]) hout, written_of_mem (fun i hi => (hall i hi).1) hmem, fun j hj => ?_⟩
      exact (congrArg (lookupD false · (canon (h.addr + j) / 16)) htags).trans (tagAt_putBytes hj)
  · have hexec : exec .hostBarrierWrite s = runEvent (hostBarrier fn off) s := by
      change execHostBarrierWrite s = _
      unfold execHostBarrierWrite
      rw [hnow]
    exact ⟨fun hun => happens_runEvent hexec (hostBarrier_unserved hun off), fun id c hs =>
      ⟨fun hign => happens_runEvent hexec (hostBarrier_ignored hs hign),
        fun hoff hlt hm hj hnone => happens_runEvent hexec (hostBarrier_arrives hs hoff hlt hm hj hnone)⟩⟩

/-- Settles O56: the controller completes each request in its slot of the mailbox alone, the first boot request starts the strand that the
header names, and a host's access is answered from memory, from a colony's record, or refused. -/
theorem controllerAndHost : Obligations.ControllerAndHost := ⟨mailboxAnswers, packageBoots, hostAccesses⟩

end Sys2Proof.Claims
end

section
/-! PROOF. O54: a load of a register window of another package is never given up. -/

namespace Sys2Proof.Claims

open Sys2Proof.Machine

/-- A strand at a load whose value has been asked for. -/
def askingStrand : Strand := { Strand.idle with live := true, pcc := ⟨128, true⟩, asked := [5] }

/-- The request of that load: 8 bytes of a register window of package 1. -/
def windowRequest : Request where
  txn := 5
  sid := 0
  use := .instr
  packet := { dst := 1, src := 0, ty := 0, vc := 0, dl := false, dt := 0, mr := false, ls := false, mirrored := false, tenant := 0, txn := 5, tag := false,
              addr := dieWindows + 0x20000000, op := .read 8, data := [], wrong := [] }
  sent := 0
  probed := none

/-- A state in which that strand waits: the word of its `ld` lies on a page that it may fetch from. -/
def windowState : State := { State.reset with
  now := .loadReissueTimeout 0
  strands := [(0, askingStrand)]
  tlb := [(tlbKey 12 0 2 128, ⟨19, 2⟩)]
  mem := [(129, 0x23)]
  units := { PackageState.reset with requests := [windowRequest] } }

theorem place_windowRequest : place windowRequest.packet.addr = .window 0 0 := by decide +kernel

/-- The strand does not count as one that waits for reads. -/
theorem waitsForReads_windowState : windowState.waitsForReads 0 = false := by decide +kernel

theorem fetch_windowState : ∃ u, fetch { windowState with cur := 0 } = .ok [0x2300] u := by
  have hws : givenBy [] (fetch { windowState with cur := 0 }) = [0x2300] := by decide +kernel
  cases hf : fetch { windowState with cur := 0 } with
  | ok ws u =>
    rw [hf] at hws
    exact ⟨u, by rw [show ws = [0x2300] from hws]⟩
  | error e u =>
    rw [hf] at hws
    exact absurd (show ([] : List IWord) = [0x2300] from hws) (by decide)

/-- Refutes O54: a load of a register window of another package is asked for like any other, but a forced save does not give it up, and
the statement's clause on loads that are recorded for reissue does not exclude it. -/
theorem not_timeSlices : ¬ Obligations.TimeSlices := by
  rintro ⟨-, -, ⟨-, hreissue⟩, -⟩
  obtain ⟨hstill, hrecorded⟩ := hreissue windowState 0 rfl
  have hsame : exec .loadReissueTimeout windowState = .next windowState := hstill waitsForReads_windowState
  obtain ⟨u, hu⟩ := fetch_windowState
  obtain ⟨v, q, hv, hq, -⟩ := hrecorded ⟨0, 0, 0, 0⟩ ⟨false, 0, 1, false, 3⟩ [0x2300] u windowRequest hu (by decide +kernel) rfl rfl
    List.mem_cons_self rfl rfl List.mem_cons_self ⟨8, rfl⟩ (fun q hq _ _ _ => List.mem_singleton.mp hq) (by decide +kernel) (by decide +kernel)
  have hvs : v = windowState := Host.Outcome.next.inj (hv.symm.trans hsame)
  rw [hvs] at hq
  exact absurd (show ([] : List Reissue) = [q] from hq) nofun

end Sys2Proof.Claims
end

section
/-! PROOF. O53: a ring that stands twice in the table of rings. -/

namespace Sys2Proof.Claims

open Sys2Proof.Machine

/-- The ring of colony 1, whose record is a stop. -/
def stopRing : Ring := { colony := 1, weight := 1, cap := ⟨bootAuthority, true⟩, authority := Reg.zero, rp := 0, drain := 0 }

/-- A state whose table of rings has two entries under number 0: the ring, and one of the same colony at another record. -/
def twiceBound : State := { State.reset with
  now := .scoutStop 0
  tlb := [(tlbKey 8 0 2 0, ⟨0x10D, 2⟩)]
  mem := [(0, 1), (16, 1), (64, 2), (66, 1)]
  units := { PackageState.reset with
    colonies := [(1, some { Colony.first with state := .loaded })]
    rings := [(0, some stopRing), (0, some { stopRing with rp := 5 })] } }

/-- The record number of ring 0 after a step. -/
def recordAfter : Host.Outcome State Fault Refusal → Option Nat
  | .next t => (lookupD none t.units.rings 0).map (·.rp)
  | _ => none

/-- The stop's look at the rings of the colony puts the second entry in the place of the first. -/
theorem recordAfter_twiceBound : recordAfter (exec .scoutStop twiceBound) = some 6 := by decide +kernel

theorem reaches_twiceBound {perm : BitVec 12} (hgrant : pteGrants 0x10D perm = true) : Reaches twiceBound 8 stopRing.cap perm (64 + 65 * 1) 0 := by
  refine ⟨by decide +kernel, by decide +kernel, leafAddr ⟨0x10D, 2⟩ 0, 0x10D, ⟨⟨0x10D, 2⟩, by decide +kernel, by decide +kernel, rfl, ?_, hgrant, fun _ => ?_⟩, ?_, ?_, ?_⟩
  all_goals decide +kernel

theorem hasRecord_twiceBound : HasRecord twiceBound 0 stopRing { Colony.first with state := .loaded } 0 1 := by
  refine ⟨rfl, ⟨by decide, rfl, ?_, ?_, ?_, ?_, ?_, ?_, fun _ => rfl, reaches_twiceBound (by decide), reaches_twiceBound (by decide), ?_⟩, rfl, ?_, ?_, rfl, ?_⟩
  all_goals decide +kernel

/-- Refutes O53: the statement admits a table of rings in which the stopped ring's number stands twice. A stop notes the write positions of
its colony's rings entry by entry, so the later entry takes the place of the ring whose record was read. -/
theorem not_scoutRecords : ¬ Obligations.ScoutRecords := by
  rintro ⟨-, hstops, -⟩
  obtain ⟨-, hstop⟩ := hstops twiceBound 0 stopRing { Colony.first with state := .loaded } 0 1 rfl hasRecord_twiceBound rfl (by decide +kernel)
    (fun e he => .inl (by
      rcases List.mem_cons.mp he with rfl | he
      · rfl
      · rw [List.mem_singleton.mp he]))
  have hnobody : twiceBound.colonyStrands stopRing.colony = [] := by decide +kernel
  have hplain : ∀ i < 3, (recordCap twiceBound stopRing 0 1 i).tag = false := by decide +kernel
  obtain ⟨t, ht, -, -, -, k, hk, hrp, -⟩ := hstop (by decide +kernel) (by decide +kernel) (by decide)
    (fun i hi htag => absurd htag (by rw [hplain i hi]; exact Bool.false_ne_true)) (hplain 2 (by decide)) (fun _ he => nomatch he) (fun b hb => by
      rw [hnobody] at hb
      cases hb)
  have hafter := recordAfter_twiceBound
  rw [ht] at hafter
  have hsix : (some k).map Ring.rp = some 6 := hk ▸ hafter
  rw [Option.map_some, hrp] at hsix
  exact absurd hsix (by decide)

end Sys2Proof.Claims
end

section
/-! SUPPORT. Writes and register window stores that reach a core (R146, R150, R151, R165). -/

namespace Sys2Proof.Claims

open Sys2Proof.Machine

/-! ## The memory port of a core -/

/-- The entry of a trace ring for a part of a write. -/
def traceEntry (c : CoreState) (src : BitVec 28) (path : Nat) (p : Nat × List Byte) : Nat :=
  c.clk % 2 ^ 40 * 2 ^ 88 + src.toNat * 2 ^ 60 + path % 8 * 2 ^ 57 + (p.2.length - 1) % 128 * 2 ^ 50 + p.1

/-- A core whose trace ring has taken an entry. -/
def withTrace (c : CoreState) (v : BitVec 128) : CoreState :=
  { c with ring := storeAt 0 (c.traced.toNat % 256) v c.ring, traced := c.traced + 1 }

theorem lines_withTrace (c : CoreState) (v : BitVec 128) : (withTrace c v).lines = c.lines := rfl

/-- A part of a write at a core's memory port. -/
def portPart (s0 : State) (core : Nat) (src : BitVec 28) (path : Nat) (p : Nat × List Byte) (_ : PUnit) : M (ForInStep PUnit) := do
  if s0.tracing core then modCore core fun c => withTrace c (BitVec.ofNat 128 (traceEntry c src path p))
  homeWrite (spadAddr core p.1) p.2
  pure (.yield ⟨⟩)

theorem portWrite_eq (core off : Nat) (bs : List Byte) (src : BitVec 28) (path : Nat) (s : State) : portWrite core off bs src path s =
    (forIn (splitAt 128 (bs.length / 128 + 2) off bs) PUnit.unit (portPart s core src path) >>= fun _ => pure () : M Unit) s := rfl

/-- The state of the core's trace ring behind a part of a write. -/
def tracedAt (s0 : State) (core : Nat) (src : BitVec 28) (path : Nat) (p : Nat × List Byte) (s : State) : State :=
  if s0.tracing core then s.withCore core (withTrace (s.core core) (BitVec.ofNat 128 (traceEntry (s.core core) src path p))) else s

theorem mem_tracedAt (s0 : State) (core : Nat) (src : BitVec 28) (path : Nat) (p : Nat × List Byte) (s : State) :
    (tracedAt s0 core src path p s).mem = s.mem ∧ (tracedAt s0 core src path p s).tags = s.tags ∧ (tracedAt s0 core src path p s).bad = s.bad := by
  unfold tracedAt
  split <;> exact ⟨rfl, rfl, rfl⟩

theorem mem_of_mem_removeAt {α : Type} {m : SMap α} {k : Nat} {e : Nat × α} (h : e ∈ removeAt k m) : e ∈ m := by
  induction m with
  | nil => exact h
  | cons x m ih =>
    obtain ⟨a, w⟩ := x
    rw [removeAt] at h
    split at h
    · exact List.mem_cons_of_mem _ (ih h)
    · exact (List.mem_cons.mp h).elim (fun h => h ▸ List.mem_cons_self) fun h => List.mem_cons_of_mem _ (ih h)

theorem mem_of_mem_insertAt {α : Type} {m : SMap α} {k : Nat} {v : α} {e : Nat × α} (h : e ∈ insertAt k v m) : e = (k, v) ∨ e ∈ m := by
  induction m with
  | nil => exact .inl (List.mem_singleton.mp h)
  | cons x m ih =>
    obtain ⟨a, w⟩ := x
    rw [insertAt] at h
    split_ifs at h
    · exact List.mem_cons.mp h
    · exact (List.mem_cons.mp h).imp id (List.mem_cons_of_mem _)
    · rcases List.mem_cons.mp h with rfl | h
      · exact .inr List.mem_cons_self
      · exact (ih h).imp id (List.mem_cons_of_mem _)

theorem mem_of_mem_storeAt {α : Type} [DecidableEq α] {d : α} {m : SMap α} {k : Nat} {v : α} {e : Nat × α} (h : e ∈ storeAt d k v m) :
    e = (k, v) ∨ e ∈ m := by
  unfold storeAt at h
  split at h
  · exact .inr (mem_of_mem_removeAt h)
  · exact mem_of_mem_insertAt h

/-- A core whose lines stay holds no line in update-only state if it held none. -/
theorem noPartials_withCore {s : State} (h : NoPartials s) {core : Nat} {c : CoreState} (hc : c.lines = (s.core core).lines) : NoPartials (s.withCore core c) := by
  intro n
  unfold State.holders
  rw [List.map_eq_nil_iff, List.filter_eq_nil_iff]
  have hold : ∀ e ∈ s.cores, (lookupD L1Line.empty e.2.lines n).upd.isSome = false := by
    have hn := h n
    unfold State.holders at hn
    rw [List.map_eq_nil_iff, List.filter_eq_nil_iff] at hn
    exact fun e he => by simpa using hn e he
  intro e he
  rcases mem_of_mem_storeAt he with rfl | he
  · dsimp only
    rw [hc]
    by_cases hempty : s.core core = CoreState.empty
    · rw [hempty]
      exact Bool.false_ne_true
    · rw [show (lookupD L1Line.empty (s.core core).lines n).upd.isSome = false from hold _ (mem_of_lookupD_ne hempty)]
      exact Bool.false_ne_true
  · rw [hold e he]
    exact Bool.false_ne_true

theorem noPartials_tracedAt {s : State} (h : NoPartials s) (s0 : State) (core : Nat) (src : BitVec 28) (path : Nat) (p : Nat × List Byte) :
    NoPartials (tracedAt s0 core src path p s) := by
  unfold tracedAt
  split
  · exact noPartials_withCore h (lines_withTrace ..)
  · exact h

theorem portPart_run {s : State} (hpart : NoPartials s) (s0 : State) (core : Nat) (src : BitVec 28) (path : Nat) (p : Nat × List Byte) :
    portPart s0 core src path p ⟨⟩ s = .ok (.yield ⟨⟩) ((tracedAt s0 core src path p s).homePut (spadAddr core p.1) p.2) := by
  have hwrite := homeWrite_run (noPartials_tracedAt hpart s0 core src path p) (spadAddr core p.1) p.2
  unfold tracedAt at hwrite ⊢
  unfold portPart
  split at hwrite
  next ht =>
    rw [if_pos ht, if_pos ht]
    exact (M.bind_ok (modCore_run core (fun c => withTrace c (BitVec.ofNat 128 (traceEntry c src path p))) s)).trans ((M.bind_ok hwrite).trans rfl)
  next ht =>
    rw [if_neg ht, if_neg ht]
    exact (M.bind_ok hwrite).trans rfl

theorem spadAddr_add (c o i : Nat) : spadAddr c (o + i) = spadAddr c o + i := by
  unfold spadAddr
  omega

theorem canon_spadAddr {c o : Nat} (hc : c < 4096) (ho : o < 0x40000) : canon (spadAddr c o) = spadAddr c o := by
  refine canon_of_not_window ?_
  rintro ⟨-, -, h1, -⟩
  unfold spadAddr at h1
  omega

theorem portParts_run {fuel : Nat} {s s0 : State} {core off : Nat} {bs : List Byte} (hfuel : off % 128 + bs.length ≤ 128 * fuel) (hpart : NoPartials s)
    (hsound : ∀ i < bs.length, s.badAt (spadAddr core (off + i)) = 0) (src : BitVec 28) (path : Nat) :
    ∃ t, forIn (splitAt 128 fuel off bs) PUnit.unit (portPart s0 core src path) s = .ok ⟨⟩ t ∧ t.mem = (s.putBytes (spadAddr core off) bs).mem ∧
      (s0.tracing core = false → t.cores = s.cores) := by
  induction fuel generalizing s off bs with
  | zero =>
    rw [List.eq_nil_of_length_eq_zero (show bs.length = 0 by omega)]
    exact ⟨s, rfl, rfl, fun _ => rfl⟩
  | succ fuel ih =>
    by_cases hne : bs = []
    · subst hne
      exact ⟨s, rfl, rfl, fun _ => rfl⟩
    have hmod : off % 128 < 128 := Nat.mod_lt _ (by decide)
    have hlenT : (bs.take (128 - off % 128)).length ≤ bs.length := by
      rw [List.length_take]
      omega
    have hstep := portPart_run hpart s0 core src path (off, bs.take (128 - off % 128))
    obtain ⟨hm, htg, hb⟩ := mem_tracedAt s0 core src path (off, bs.take (128 - off % 128)) s
    have hpart' := noPartials_tracedAt hpart s0 core src path (off, bs.take (128 - off % 128))
    have hcores : s0.tracing core = false → (tracedAt s0 core src path (off, bs.take (128 - off % 128)) s).cores = s.cores := by
      intro h
      unfold tracedAt
      rw [h]
      rfl
    generalize tracedAt s0 core src path (off, bs.take (128 - off % 128)) s = u at *
    have hbad (a : Nat) : u.badAt a = s.badAt a := congrArg (lookupD 0 · (canon a / 32)) hb
    have hsound' : ∀ i < (bs.take (128 - off % 128)).length, u.badAt (spadAddr core off + i) = 0 := fun i hi => by
      rw [hbad, ← spadAddr_add]
      exact hsound i (by omega)
    obtain ⟨hmem, htags⟩ := mem_homePut hsound'
    have hput := putOnly_homePut hsound'
    have hcores' := cores_homePut u (spadAddr core off) (bs.take (128 - off % 128))
    generalize u.homePut (spadAddr core off) (bs.take (128 - off % 128)) = v at *
    obtain ⟨t, hrun, htm, htc⟩ := ih (s := v) (off := off + (128 - off % 128)) (bs := bs.drop (128 - off % 128))
      (by rw [List.length_drop]; omega) (hput.noPartials hpart') (fun i hi => by
        rw [List.length_drop] at hi
        rw [hput.badAt, hbad, Nat.add_assoc]
        exact hsound _ (by omega))
    refine ⟨t, ?_, htm.trans ?_, fun h => (htc h).trans (hcores'.trans (hcores h))⟩
    · rw [splitAt, if_neg (by simpa using hne)]
      dsimp only
      rw [List.forIn_cons, M.bind_ok hstep]
      exact hrun
    · obtain ⟨h1, h2⟩ := putBytes_congr hm htg (spadAddr core off) (bs.take (128 - off % 128))
      obtain ⟨h3, -⟩ := putBytes_congr (hmem.trans h1) (htags.trans h2) (spadAddr core (off + (128 - off % 128))) (bs.drop (128 - off % 128))
      refine h3.trans (congrArg State.mem ?_)
      rw [spadAddr_add]
      by_cases hlen : 128 - off % 128 ≤ bs.length
      · have happ := putBytes_append s (spadAddr core off) (bs.take (128 - off % 128)) (bs.drop (128 - off % 128))
        rw [List.take_append_drop, List.length_take_of_le hlen] at happ
        exact happ.symm
      · rw [List.drop_eq_nil_of_le (by omega), List.take_of_length_le (by omega)]
        rfl

/-! ## The trace of one part -/

theorem traceEntry_fields {c : CoreState} {src : BitVec 28} {path : Nat} {p : Nat × List Byte} (hoff : p.1 < 0x40000) (hlen : p.2.length ≤ 128) :
    let e := (BitVec.ofNat 128 (traceEntry c src path p)).toNat
    e % 2 ^ 50 = p.1 ∧ e / 2 ^ 50 % 128 = p.2.length - 1 ∧ e / 2 ^ 57 % 8 = path % 8 ∧ e / 2 ^ 60 % 2 ^ 28 = src.toNat ∧ e / 2 ^ 88 = c.clk % 2 ^ 40 := by
  have hsrc := src.isLt
  have hclk : c.clk % 2 ^ 40 < 2 ^ 40 := Nat.mod_lt _ (by decide)
  unfold traceEntry
  generalize c.clk % 2 ^ 40 = k at *
  dsimp only
  rw [BitVec.toNat_ofNat]
  generalize src.toNat = z at *
  generalize p.2.length = n at *
  generalize p.1 = o at *
  norm_num at *
  refine ⟨?_, ?_, ?_, ?_, ?_⟩ <;> omega

section Port
variable {s : State} {v : PadWrite} (hnow : s.now = .scratchpadWriteArrival v) (hcore : v.core < 4096) (hend : v.offset + v.bytes.length ≤ 0x40000)
variable (hpart : NoPartials s) (hsound : ∀ j < v.bytes.length, s.badAt (spadAddr v.core (v.offset + j)) = 0)

theorem exec_scratchpadWriteArrival (hnow : s.now = .scratchpadWriteArrival v) : exec .scratchpadWriteArrival s =
    runEvent (portWrite v.core v.offset v.bytes v.src v.path.toNat) s := by
  change execScratchpadWriteArrival s = _
  unfold execScratchpadWriteArrival
  rw [hnow]

include hpart hsound

/-- A write that lies in one line leaves one entry. -/
theorem portWrite_one (hfit : v.offset % 128 + v.bytes.length ≤ 128) (hpos : 0 < v.bytes.length) (htrace : s.tracing v.core = true) :
    ∃ t, portWrite v.core v.offset v.bytes v.src v.path.toNat s = .ok () t ∧ t.mem = (s.putBytes (spadAddr v.core v.offset) v.bytes).mem ∧
      t.core v.core = withTrace (s.core v.core) (BitVec.ofNat 128 (traceEntry (s.core v.core) v.src v.path.toNat (v.offset, v.bytes))) := by
  have hsplit := splitAt_one (unit := 128) (a := v.offset) (bs := v.bytes) (List.length_pos_iff.mp hpos) (by decide) hfit (v.bytes.length / 128)
  have hstep := portPart_run hpart s v.core v.src v.path.toNat (v.offset, v.bytes)
  obtain ⟨hm, htg, hb⟩ := mem_tracedAt s v.core v.src v.path.toNat (v.offset, v.bytes) s
  have hcore : (tracedAt s v.core v.src v.path.toNat (v.offset, v.bytes) s).core v.core =
      withTrace (s.core v.core) (BitVec.ofNat 128 (traceEntry (s.core v.core) v.src v.path.toNat (v.offset, v.bytes))) := by
    unfold tracedAt
    rw [if_pos htrace]
    exact lookupD_storeAt_same ..
  generalize tracedAt s v.core v.src v.path.toNat (v.offset, v.bytes) s = u at *
  have hsound' : ∀ i < v.bytes.length, u.badAt (spadAddr v.core v.offset + i) = 0 := fun i hi => by
    rw [← spadAddr_add]
    exact (congrArg (lookupD 0 · (canon (spadAddr v.core (v.offset + i)) / 32)) hb).trans (hsound i hi)
  refine ⟨u.homePut (spadAddr v.core v.offset) v.bytes, ?_, (mem_homePut hsound').1.trans (putBytes_congr hm htg _ _).1, ?_⟩
  · rw [portWrite_eq, hsplit]
    refine (M.bind_ok (a := ⟨⟩) ?_).trans rfl
    rw [List.forIn_cons, M.bind_ok hstep]
    rfl
  · rw [← hcore]
    exact congrArg (lookupD CoreState.empty · v.core) (cores_homePut u _ v.bytes)

include hnow hcore hend

theorem scratchpadWrite_arrives : ∃ t, exec .scratchpadWriteArrival s = .next t ∧
      (∀ j < v.bytes.length, t.byteAt (spadAddr v.core (v.offset + j)) = v.bytes.getD j 0) ∧
      (∀ a, (∀ j < v.bytes.length, canon a ≠ spadAddr v.core (v.offset + j)) → t.byteAt a = s.byteAt a) ∧
      (s.tracing v.core = false → (t.core v.core).traced = (s.core v.core).traced) ∧
      (s.tracing v.core → v.offset % 128 + v.bytes.length ≤ 128 → 0 < v.bytes.length →
        (t.core v.core).traced = (s.core v.core).traced + 1 ∧
        let e := lookupD 0 (t.core v.core).ring ((s.core v.core).traced.toNat % 256)
        e.toNat % 2 ^ 50 = v.offset ∧ e.toNat / 2 ^ 50 % 128 = v.bytes.length - 1 ∧ e.toNat / 2 ^ 57 % 8 = v.path.toNat ∧
          e.toNat / 2 ^ 60 % 2 ^ 28 = v.src.toNat ∧ e.toNat / 2 ^ 88 = (s.core v.core).clk % 2 ^ 40) := by
  have hfix : ∀ i < v.bytes.length, canon (spadAddr v.core v.offset + i) = spadAddr v.core v.offset + i := fun i hi => by
    rw [← spadAddr_add]
    exact canon_spadAddr hcore (by omega)
  have hbytes (t : State) (hmem : t.mem = (s.putBytes (spadAddr v.core v.offset) v.bytes).mem) :
      (∀ j < v.bytes.length, t.byteAt (spadAddr v.core (v.offset + j)) = v.bytes.getD j 0) ∧
      (∀ a, (∀ j < v.bytes.length, canon a ≠ spadAddr v.core (v.offset + j)) → t.byteAt a = s.byteAt a) := by
    have hbyte (a : Nat) : t.byteAt a = (s.putBytes (spadAddr v.core v.offset) v.bytes).byteAt a := congrArg (lookupD 0 · (canon a)) hmem
    refine ⟨fun j hj => ?_, fun a ha => ?_⟩
    · rw [hbyte, byteAt_putBytes_fixed _ hfix, spadAddr_add, hfix j hj, if_pos (by omega), Nat.add_sub_cancel_left]
    · rw [hbyte, byteAt_putBytes_fixed _ hfix, if_neg]
      rintro ⟨hlo, hhi⟩
      refine ha (canon a - spadAddr v.core v.offset) (by omega) ?_
      rw [spadAddr_add]
      omega
  by_cases hone : s.tracing v.core = true ∧ v.offset % 128 + v.bytes.length ≤ 128 ∧ 0 < v.bytes.length
  · obtain ⟨htrace, hfit, hpos⟩ := hone
    obtain ⟨t, hrun, hmem, htraced⟩ := portWrite_one hpart hsound hfit hpos htrace
    refine ⟨t, happens_runEvent (exec_scratchpadWriteArrival hnow) hrun, (hbytes t hmem).1, (hbytes t hmem).2, fun h => ?_, fun _ _ _ => ?_⟩
    · rw [htrace] at h
      cases h
    · obtain ⟨h1, h2, h3, h4, h5⟩ := traceEntry_fields (c := s.core v.core) (src := v.src) (path := v.path.toNat) (p := (v.offset, v.bytes))
        (show v.offset < 0x40000 by omega) (show v.bytes.length ≤ 128 by omega)
      have hpath := v.path.isLt
      rw [htraced]
      refine ⟨rfl, ?_⟩
      dsimp only
      rw [show lookupD 0 (withTrace (s.core v.core) (BitVec.ofNat 128 (traceEntry (s.core v.core) v.src v.path.toNat (v.offset, v.bytes)))).ring
        ((s.core v.core).traced.toNat % 256) = BitVec.ofNat 128 (traceEntry (s.core v.core) v.src v.path.toNat (v.offset, v.bytes)) from
        lookupD_storeAt_same .., h3, Nat.mod_eq_of_lt hpath]
      exact ⟨h1, h2, rfl, h4, h5⟩
  · obtain ⟨t, hrun, hmem, hcores⟩ := portParts_run (s0 := s) (fuel := v.bytes.length / 128 + 2) (by omega) hpart hsound v.src v.path.toNat
    refine ⟨t, happens_runEvent (exec_scratchpadWriteArrival hnow) ((portWrite_eq ..).trans ((M.bind_ok hrun).trans rfl)), (hbytes t hmem).1, (hbytes t hmem).2,
      fun h => ?_, fun h1 h2 h3 => absurd ⟨h1, h2, h3⟩ hone⟩
    exact congrArg CoreState.traced (congrArg (lookupD CoreState.empty · v.core) (hcores h))

end Port

end Sys2Proof.Claims
end

section
/-! PROOF. O52: what arrives at cores. -/

namespace Sys2Proof.Claims

open Sys2Proof.Machine

/-! ## Register windows -/

theorem exec_registerWindowAccess {s : State} {v : WindowAccess} (hnow : s.now = .registerWindowAccess v) {body : M Unit}
    (hbody : (match v.store with
      | none => pure ()
      | some r => asStrand 16384 (windowWrite v.core v.offset v.width v.offset r) : M Unit) = body) :
    exec .registerWindowAccess s = runEvent body s := by
  subst hbody
  change execRegisterWindowAccess s = _
  unfold execRegisterWindowAccess
  rw [hnow] <;> rfl

/-- What a deposit from outside leaves of a strand. -/
theorem windowSlot_reg {core off : Nat} (hoff : off < 0x4000) (hreg : off % 0x2000 < 0x1000) :
    windowSlot core off = .reg (core * 2 + off / 0x2000) (off % 0x2000 / 16) := by
  unfold windowSlot
  dsimp only
  rw [if_pos hoff, if_pos hreg]

theorem wakeAt_run (s : State) (a : Nat) : (s.wakeAt a).mem = s.mem ∧ ∀ n, ∃ wake, (s.wakeAt a).strand n = { s.strand n with wake := (s.strand n).wake || wake } :=
  ⟨(mem_wakeAt s a).1, memRel_wakes.wakeAt s a⟩

theorem strand_withCur (u : State) (n m : Nat) : ({ u with cur := n } : State).strand m = u.strand m := rfl
theorem mem_withCur (u : State) (n : Nat) : ({ u with cur := n } : State).mem = u.mem := rfl

theorem drainOwn_other {b : Nat} {u : State} (h : b ≠ u.cur) (i : Nat) : drainOwn (.reg b i) u = .ok () u := by
  unfold drainOwn
  refine (M.bind_ok (show curSid u = .ok u.cur u from rfl)).trans ?_
  change (if b = u.cur then modSelf Strand.drain else pure () : M Unit) u = _
  rw [if_neg h]
  rfl

section Window
variable {u : State} {core off : Nat} (hcore : core < 4096) (hoff : off < 0x4000) (hreg : off % 0x2000 < 0x1000) (hcur : u.cur = 16384) (r : Reg) (va : Nat)
include hcore hoff hreg hcur

/-- A store to a register of a strand that does not run writes nothing. -/
theorem windowWrite_dead (hdead : (u.strand (core * 2 + off / 0x2000)).live = false) :
    windowWrite core off 16 va r u = .ok () (u.wakeAt (windowAddr core off)) := by
  have hdrain := drainOwn_other (b := core * 2 + off / 0x2000) (u := u) (by omega) (off % 0x2000 / 16)
  unfold windowWrite
  rw [windowSlot_reg hoff hreg]
  refine (M.bind_ok (raiseIf_of_not (by decide) ..)).trans ((M.bind_ok hdrain).trans ((M.bind_ok (M.get_run u)).trans ?_))
  dsimp only
  rw [hdead]
  rfl

/-- A store of 16 bytes to a register of another strand is a deposit. -/
theorem windowWrite_live (hlive : (u.strand (core * 2 + off / 0x2000)).live = true)
    (hnamed : (off % 0x2000 / 16 + 256 - (u.strand (core * 2 + off / 0x2000)).win.base % 256) % 256 ∉ (u.strand (core * 2 + off / 0x2000)).named) :
    windowWrite core off 16 va r u = .ok () ((u.withStrand (core * 2 + off / 0x2000)
      { (u.strand (core * 2 + off / 0x2000)).deposit (off % 0x2000 / 16) r with wake := true }).wakeAt (windowAddr core off)) := by
  have hdrain := drainOwn_other (b := core * 2 + off / 0x2000) (u := u) (by omega) (off % 0x2000 / 16)
  have hcol (t : Strand) : BitVec.ofNat 64 t.depcol.toNat = t.depcol := by rw [BitVec.ofNat_toNat, BitVec.setWidth_eq]
  have happly : applyDeposit (core * 2 + off / 0x2000) (off % 0x2000 / 16)
      ((off % 0x2000 / 16 + 256 - (u.strand (core * 2 + off / 0x2000)).win.base % 256) % 256) r u = .ok ()
      (u.withStrand (core * 2 + off / 0x2000) { (u.strand (core * 2 + off / 0x2000)).deposit (off % 0x2000 / 16) r with wake := true }) := by
    unfold applyDeposit
    rw [M.bind_ok (getStrand_run ..), show (u.strand (core * 2 + off / 0x2000)).named.contains
      ((off % 0x2000 / 16 + 256 - (u.strand (core * 2 + off / 0x2000)).win.base % 256) % 256) = false by simpa using hnamed, Bool.false_and,
      if_neg (by simp), hcol]
    rfl
  unfold windowWrite
  rw [windowSlot_reg hoff hreg]
  refine (M.bind_ok (raiseIf_of_not (by decide) ..)).trans ((M.bind_ok hdrain).trans ((M.bind_ok (M.get_run u)).trans ?_))
  dsimp only
  rw [hlive, if_pos rfl, if_neg (by omega), if_pos rfl]
  exact (M.bind_ok happly).trans rfl

end Window

theorem windows_arrive {s : State} {v : WindowAccess} (hnow : s.now = .registerWindowAccess v) :
    (v.store = none → ∃ t, exec .registerWindowAccess s = .next t ∧ (∀ n, t.strand n = s.strand n) ∧ t.mem = s.mem) ∧
    (∀ r, v.store = some r → v.core < 4096 → v.offset < 0x4000 → v.offset % 0x2000 < 0x1000 → v.width = 16 →
      let sid := v.core * 2 + v.offset / 0x2000
      let i := v.offset % 0x2000 / 16
      let t := s.strand sid
      let woken := fun (u : State) (n : Nat) => ∃ wake, u.strand n = { s.strand n with wake := (s.strand n).wake || wake }
      (t.live = false → ∃ u, exec .registerWindowAccess s = .next u ∧ (∀ n, woken u n) ∧ u.mem = s.mem) ∧
      (t.live → (i + 256 - t.win.base % 256) % 256 ∉ t.named → ∃ u, exec .registerWindowAccess s = .next u ∧ u.mem = s.mem ∧
        (∀ n, n ≠ sid → woken u n) ∧ u.strand sid = { t.deposit i r with wake := true })) := by
  refine ⟨fun hnone => ⟨s, happens_runEvent (exec_registerWindowAccess hnow (body := pure ()) (by rw [hnone])) rfl, fun _ => rfl, rfl⟩,
    fun r hr hcore hoff hreg hwidth => ?_⟩
  have hexec := exec_registerWindowAccess hnow (body := asStrand 16384 (windowWrite v.core v.offset v.width v.offset r)) (by rw [hr])
  rw [hwidth] at hexec
  dsimp only
  refine ⟨fun hdead => ?_, fun hlive hnamed => ?_⟩
  · obtain ⟨hmem, hwoken⟩ := wakeAt_run { s with cur := 16384 } (windowAddr v.core v.offset)
    refine ⟨_, happens_runEvent hexec (asStrand_ok (windowWrite_dead (u := { s with cur := 16384 }) hcore hoff hreg rfl r v.offset
      ((congrArg Strand.live (strand_withCur ..)).trans hdead))), fun n => ?_, ?_⟩
    · rw [strand_withCur, ← strand_withCur s 16384]
      exact hwoken n
    · rw [mem_withCur, hmem, mem_withCur]
  · rw [← strand_withCur s 16384] at hlive hnamed
    have hwrite := windowWrite_live (u := { s with cur := 16384 }) hcore hoff hreg rfl r v.offset hlive hnamed
    obtain ⟨hmem, hwoken⟩ := wakeAt_run (State.withStrand { s with cur := 16384 } (v.core * 2 + v.offset / 0x2000)
      { (({ s with cur := 16384 } : State).strand (v.core * 2 + v.offset / 0x2000)).deposit (v.offset % 0x2000 / 16) r with wake := true })
      (windowAddr v.core v.offset)
    refine ⟨_, happens_runEvent hexec (asStrand_ok hwrite), ?_, fun n hn => ?_, ?_⟩
    · rw [mem_withCur, hmem]
      rfl
    · rw [strand_withCur, ← strand_withCur s 16384]
      obtain ⟨w, hw⟩ := hwoken n
      rw [State.strand_withStrand_ne _ _ _ _ hn] at hw
      exact ⟨w, hw⟩
    · rw [strand_withCur, ← strand_withCur s 16384]
      obtain ⟨w, hw⟩ := hwoken (v.core * 2 + v.offset / 0x2000)
      rw [State.strand_withStrand_same] at hw
      exact hw

/-! ## Messages -/

theorem respond_here {src : BitVec 28} {s : State} (h : src.toNat / 16384 = s.pkg) (txn : Nat) (op : PacketOp) (data : List Byte) (tag : Bool) :
    respond src txn op data tag s = .ok () s := by
  unfold respond
  rw [M.bind_ok (M.get_run s), if_pos h]
  rfl

theorem respond_away {src : BitVec 28} {s : State} (h : src.toNat / 16384 ≠ s.pkg) (txn : Nat) (op : PacketOp) (data : List Byte) (tag : Bool) :
    ∃ pk, respond src txn op data tag s = .ok () (posting s [.packetForward pk]) ∧ pk.op = op ∧ pk.txn = txn ∧ pk.dst = src.toNat / 16384 := by
  have hsrc : src.toNat / 16384 < 2 ^ 14 := by
    have := src.isLt
    omega
  unfold respond
  rw [M.bind_ok (M.get_run s), if_neg h]
  exact ⟨_, rfl, rfl, rfl, pkgOf_mul hsrc⟩

theorem messages_arrive {s : State} {m : Offer} (hnow : s.now = .messageAccept m) (harea : (s.strand m.target).rqovf.tag = false) :
    let t := s.strand m.target
    let foreign := m.msg.src.toNat / 16384 ≠ s.pkg
    let took := s.withStrand m.target (delivered t m.msg)
    (t.live → t.inbox.length < 64 → ¬foreign → Happens .messageAccept s took) ∧
    (t.live → t.inbox.length < 64 → foreign → ∃ pk, Happens .messageAccept s (posting took [.packetForward pk]) ∧
      pk.op = .accepted ∧ pk.txn = m.txn ∧ pk.dst = m.msg.src.toNat / 16384) ∧
    (t.live = false ∨ 64 ≤ t.inbox.length → ∃ u, exec .messageAccept s = .next u ∧ (∀ n, u.strand n = s.strand n) ∧ u.mem = s.mem ∧
      ((lookupD [] s.units.refusals m.target).length < 64 → m.msg.src ∈ lookupD [] u.units.refusals m.target)) := by
  have hexec : exec .messageAccept s = runEvent (acceptOffer m) s := by
    change execMessageAccept s = _
    unfold execMessageAccept
    rw [hnow]
  have hshape : areaShape (s.strand m.target).rqovf = none := by
    unfold areaShape
    rw [harea]
    rfl
  dsimp only
  refine ⟨fun hlive hroom hhome => ?_, fun hlive hroom hforeign => ?_, fun hno => ?_⟩
  · have hoffer := offerMessage_run (m := m.msg) hlive hshape
    rw [if_pos hroom] at hoffer
    refine happens_runEvent hexec ((M.bind_ok hoffer).trans ?_)
    exact respond_here (s := s.withStrand m.target (delivered (s.strand m.target) m.msg)) (not_not.mp hhome) ..
  · have hoffer := offerMessage_run (m := m.msg) hlive hshape
    rw [if_pos hroom] at hoffer
    obtain ⟨pk, hrun, hfields⟩ := respond_away (s := s.withStrand m.target (delivered (s.strand m.target) m.msg)) hforeign m.txn .accepted [] false
    exact ⟨pk, happens_runEvent hexec ((M.bind_ok hoffer).trans hrun), hfields⟩
  · have hoffer : offerMessage m.target m.msg s = .ok false s := by
      by_cases hlive : (s.strand m.target).live = true
      · have h := offerMessage_run (m := m.msg) hlive hshape
        rcases hno with hdead | hfull
        · rw [hdead] at hlive
          cases hlive
        · rwa [if_neg (by omega)] at h
      · unfold offerMessage
        rw [M.bind_ok (getStrand_run ..), if_pos (by simpa using hlive)]
        rfl
    have hnote : recordRefusal m.target m.msg.src s = .ok () (noted m.target m.msg.src s) := rfl
    have hnoted : (noted m.target m.msg.src s).strands = s.strands ∧ (noted m.target m.msg.src s).mem = s.mem ∧
        ((lookupD [] s.units.refusals m.target).length < 64 → m.msg.src ∈ lookupD [] (noted m.target m.msg.src s).units.refusals m.target) := by
      unfold noted
      dsimp only
      split
      next hfull =>
        refine ⟨rfl, rfl, fun hlt => ?_⟩
        simp only [Bool.or_eq_true, decide_eq_true_eq, List.contains_iff_mem] at hfull
        exact hfull.resolve_right (by omega)
      next =>
        refine ⟨rfl, rfl, fun _ => ?_⟩
        dsimp only
        rw [lookupD_storeAt_same]
        exact List.mem_append_right _ (List.mem_singleton_self _)
    obtain ⟨hstrands, hmem, hrefusals⟩ := hnoted
    have hbody : ∃ A, acceptOffer m s = .ok () (posting (noted m.target m.msg.src s) A) := by
      by_cases hhome : m.msg.src.toNat / 16384 = (noted m.target m.msg.src s).pkg
      · exact ⟨[], (M.bind_ok hoffer).trans ((M.bind_ok hnote).trans ((respond_here hhome ..).trans (by rw [posting_nil])))⟩
      · obtain ⟨pk, hrun, -⟩ := respond_away hhome m.txn .refused [] false
        exact ⟨_, (M.bind_ok hoffer).trans ((M.bind_ok hnote).trans hrun)⟩
    obtain ⟨A, hrun⟩ := hbody
    exact ⟨_, happens_runEvent hexec hrun, fun n => congrArg (lookupD Strand.idle · n) hstrands, hmem, hrefusals⟩

/-! ## The overflow area -/

theorem canon_directOwn {s : State} {a : Nat} (h : DirectOwn s a) : canon a = a := by
  rcases h with ⟨o, hp, hw⟩ | ⟨q, l, o, hp⟩
  · refine canon_of_not_window fun hin => ?_
    obtain ⟨h1, h2, h3, h4⟩ := hin
    unfold inQuadWindow at hw
    simp [h1, h2, h3, h4] at hw
  · unfold canon
    rw [hp]

theorem lt_of_directOwn {s : State} {a : Nat} (h : DirectOwn s a) : a < 2 ^ 41 := by
  by_contra hge
  have hplace : place a = .aliasWindow (a - 0x1FFFFFF0000) ∨ place a = .reserved := by
    unfold place dieWindows
    rw [if_neg (by omega), if_neg (by omega), if_neg (by simp; omega)]
    split <;> simp
  rcases h with ⟨o, hp, -⟩ | ⟨q, l, o, hp⟩ <;> rcases hplace with h | h <;> rw [hp] at h <;> cases h

theorem withCur_self {s : State} {n : Nat} (h : n = s.cur) : ({ s with cur := n } : State) = s := by rw [h]

section Area
variable {s : State} {b n a : Nat} (hshape : areaShape s.self.rqovf = some (b, n))
variable (harea : ∀ j < 64 + 64 * n, DirectOwn s (a + j) ∧ s.badAt (a + j) = 0 ∧ ∃ e, pteM e = false ∧
  Maps s s.self.tid (b + j) Cap.ld (s.globalOf (a + j)) e ∧ Maps s s.self.tid (b + j) Cap.st (s.globalOf (a + j)) e)
variable (hpkg : s.pkg < 2 ^ 14) (hlow : a + 64 + 64 * n ≤ 2 ^ 41)

/-- A later state in which the area lies as before. -/
structure AreaKept (s u : State) : Prop where
  cur : u.cur = s.cur
  tlb : u.tlb = s.tlb
  pkg : u.pkg = s.pkg
  bad : ∀ x, u.badAt x = s.badAt x
  parts : NoPartials u
  tid : u.self.tid = s.self.tid
  area : u.self.rqovf = s.self.rqovf

include harea hpkg hlow

theorem areaRead_run {u : State} (h : AreaKept s u) {j k : Nat} (hk : 0 < k) (hfit : j + k ≤ 64 + 64 * n) :
    areaRead s.cur (b + j) k u = .ok (some (u.bytesAt (a + j) k)) u := by
  obtain ⟨hown, -, e, hmirror, hread, -⟩ := harea j (by omega)
  have hglobal : pkgOf (s.globalOf (a + j)) = u.pkg ∧ localOf (s.globalOf (a + j)) = a + j := by
    rw [h.pkg]
    unfold pkgOf localOf State.globalOf
    constructor <;> omega
  have hdirect : Direct (a + j) := by
    rcases hown with ⟨o, hp, -⟩ | hs
    · exact .inl ⟨_, _, hp⟩
    · exact .inr hs
  have hsound : u.firstBad (a + j) k = none := by
    unfold State.firstBad
    rw [List.findSome?_eq_none_iff]
    intro i hi
    have hi' := List.mem_range.mp hi
    rw [h.bad, Nat.add_assoc, (harea (j + i) (by omega)).2.1]
    rfl
  have hload : (do
      let (p, e) ← translate (u.strand s.cur).tid (b + j) Cap.ld
      loadBytes (b + j) p k Manner.plain e (u.strand s.cur).tid : M (List Byte × Bool)) { u with cur := s.cur } =
      .ok (u.bytesAt (a + j) k, u.tagAt (a + j)) u := by
    rw [withCur_self h.cur.symm, show u.strand s.cur = u.self by unfold State.self; rw [h.cur], h.tid]
    exact (M.bind_ok (translate_run h.cur h.tlb hread)).trans (loadBytes_direct hglobal.1 hglobal.2 hmirror hdirect h.parts hsound ..)
  unfold areaRead
  rw [M.bind_ok (getStrand_run ..), M.bind_ok (attempt_ok (asStrand_ok hload)), withCur_self rfl]
  rfl

theorem areaWrite_run {u : State} (h : AreaKept s u) {j : Nat} {bs : List Byte} (hne : 0 < bs.length) (hfit : j + bs.length ≤ 64 + 64 * n) :
    areaWrite s.cur (b + j) bs u = .ok true (u.homePut (a + j) bs) := by
  obtain ⟨hown, -, e, hmirror, -, hwrite⟩ := harea j (by omega)
  have hglobal : pkgOf (s.globalOf (a + j)) = u.pkg ∧ localOf (s.globalOf (a + j)) = a + j := by
    rw [h.pkg]
    unfold pkgOf localOf State.globalOf
    constructor <;> omega
  have hstore : (do
      let (p, e) ← translate (u.strand s.cur).tid (b + j) Cap.st
      storeBytes (b + j) p bs false Manner.plain e (u.strand s.cur).tid : M Unit) { u with cur := s.cur } = .ok () (u.homePut (a + j) bs) := by
    rw [withCur_self h.cur.symm, show u.strand s.cur = u.self by unfold State.self; rw [h.cur], h.tid]
    refine (M.bind_ok (translate_run h.cur h.tlb hwrite)).trans ((storeBytes_local hglobal.1 hglobal.2 hmirror ..).trans ?_)
    exact storeLocal_direct hown h.cur h.parts ..
  have hsound : ∀ i < bs.length, u.badAt (a + j + i) = 0 := fun i hi => by
    rw [h.bad, Nat.add_assoc]
    exact (harea (j + i) (by omega)).2.1
  unfold areaWrite
  rw [M.bind_ok (getStrand_run ..), M.bind_ok (attempt_ok (asStrand_ok hstore)), withCur_self (putOnly_homePut hsound).cur.symm]
  rfl

include hshape

theorem areaCounts_run {u : State} (h : AreaKept s u) :
    areaCounts s.cur u = .ok (some (b, n, leNat (u.bytesAt a 8), leNat (u.bytesAt (a + 8) 8))) u := by
  have hput := areaRead_run harea hpkg hlow h (j := 0) (k := 8) (by decide) (by omega)
  have htake := areaRead_run harea hpkg hlow h (j := 8) (k := 8) (by decide) (by omega)
  unfold areaCounts
  rw [M.bind_ok (getStrand_run ..), show u.strand s.cur = u.self by unfold State.self; rw [h.cur], h.area, hshape]
  dsimp only
  rw [Nat.add_zero] at hput
  rw [M.bind_ok hput, M.bind_ok htake]
  rfl

end Area

/-! ## Messages that go from the area into the queue -/

theorem areaShape_pos {c : Reg} {b n : Nat} (h : areaShape c = some (b, n)) : 0 < n := by
  unfold areaShape at h
  split at h
  · cases h
  · dsimp only at h
    split_ifs at h with hn
    have heq := (Prod.mk.inj (Option.some.inj h)).2
    simp only [Bool.or_eq_true, decide_eq_true_eq, not_or] at hn
    omega

theorem length_leBytes8 (v : Nat) : (leBytes 8 v).length = 8 := length_leBytes ..

/-- The fields of a message that was read from an area. -/
theorem messageOf_fields (s : State) (a : Nat) :
    (messageOf (s.bytesAt a 64)).src.toNat = leNat (s.bytesAt a 8) % 2 ^ 28 ∧ (messageOf (s.bytesAt a 64)).kind.toNat = leNat (s.bytesAt (a + 8) 2) ∧
      (messageOf (s.bytesAt a 64)).payload.length = min 3 (leNat (s.bytesAt (a + 10) 1)) := by
  have hpart (o k : Nat) (h : o + k ≤ 64) : ((s.bytesAt a 64).drop o).take k = s.bytesAt (a + o) k := by
    refine List.ext_getElem ?_ fun i hi hi' => ?_
    · rw [List.length_take, List.length_drop, length_bytesAt, length_bytesAt]
      omega
    · simp [State.bytesAt, Nat.add_assoc]
  have hkind : leNat (s.bytesAt (a + 8) 2) < 2 ^ 16 := by
    have := bytesAt_lt s (a + 8) 2
    omega
  have h0 := hpart 0 8 (by decide)
  rw [List.drop_zero, Nat.add_zero] at h0
  unfold messageOf
  dsimp only
  rw [h0, hpart 8 2 (by decide), hpart 10 1 (by decide), BitVec.toNat_ofNat, BitVec.toNat_ofNat, Nat.mod_eq_of_lt hkind, List.length_map, List.length_range]
  exact ⟨rfl, rfl, rfl⟩

section Refill
variable {s : State} {b n a : Nat} (hshape : areaShape s.self.rqovf = some (b, n)) (hroom : s.self.inbox.length < 64) (hpart : NoPartials s)
variable (harea : ∀ j < 64 + 64 * n, DirectOwn s (a + j) ∧ s.badAt (a + j) = 0 ∧ ∃ e, pteM e = false ∧
  Maps s s.self.tid (b + j) Cap.ld (s.globalOf (a + j)) e ∧ Maps s s.self.tid (b + j) Cap.st (s.globalOf (a + j)) e)
variable (hpkg : s.pkg < 2 ^ 14) (hone : leNat (s.bytesAt a 8) = leNat (s.bytesAt (a + 8) 8) + 1)

/-- The state in which the message has been taken out of the area. -/
def taken (s : State) (a n : Nat) : State :=
  let v := s.homePut (a + 8) (leBytes 8 (leNat (s.bytesAt (a + 8) 8) + 1))
  v.withStrand s.cur (delivered (v.strand s.cur) (messageOf (s.bytesAt (a + (64 + 64 * (leNat (s.bytesAt (a + 8) 8) % n))) 64)))

include harea in
theorem bytesAt_taken : (s.homePut (a + 8) (leBytes 8 (leNat (s.bytesAt (a + 8) 8) + 1))).bytesAt (a + 8) 8 = leBytes 8 (leNat (s.bytesAt (a + 8) 8) + 1) ∧
    (s.homePut (a + 8) (leBytes 8 (leNat (s.bytesAt (a + 8) 8) + 1))).bytesAt a 8 = s.bytesAt a 8 := by
  have hlen := length_leBytes 8 (leNat (s.bytesAt (a + 8) 8) + 1)
  generalize leBytes 8 (leNat (s.bytesAt (a + 8) 8) + 1) = bs at *
  have hsound : ∀ i < bs.length, s.badAt (a + 8 + i) = 0 := fun i hi => by
    rw [Nat.add_assoc]
    exact (harea (8 + i) (by omega)).2.1
  have hfix : ∀ i < bs.length, canon (a + 8 + i) = a + 8 + i := fun i hi => by
    rw [Nat.add_assoc]
    exact canon_directOwn (harea (8 + i) (by omega)).1
  have hbyte (j : Nat) : (s.homePut (a + 8) bs).byteAt j = (s.putBytes (a + 8) bs).byteAt j :=
    congrArg (lookupD 0 · (canon j)) (mem_homePut hsound).1
  refine ⟨?_, bytesAt_eq fun j hlo hhi => ?_⟩
  · refine List.ext_getElem (by rw [length_bytesAt, hlen]) fun i hi hi' => ?_
    have hget : ((s.homePut (a + 8) bs).bytesAt (a + 8) 8)[i] = (s.homePut (a + 8) bs).byteAt (a + 8 + i) := by simp [State.bytesAt]
    rw [hget, hbyte, byteAt_putBytes_fixed bs hfix, hfix i hi', if_pos (by omega), Nat.add_sub_cancel_left, List.getD_eq_getElem _ _ hi']
  · have hj := canon_directOwn (harea (j - a) (by omega)).1
    rw [Nat.add_sub_cancel' hlo] at hj
    rw [hbyte, byteAt_putBytes_fixed bs hfix, hj, if_neg (by omega)]

include hshape hroom hpart harea hpkg hone

theorem refillQueue_one (fuel : Nat) : refillQueue s.cur (fuel + 2) s = .ok () (taken s a n) := by
  have hn := areaShape_pos hshape
  have hlow : a + 64 + 64 * n ≤ 2 ^ 41 := by
    have := lt_of_directOwn (harea (63 + 64 * n) (by omega)).1
    omega
  have hmod : leNat (s.bytesAt (a + 8) 8) % n < n := Nat.mod_lt _ hn
  have hkept : AreaKept s s := ⟨rfl, rfl, rfl, fun _ => rfl, hpart, rfl, rfl⟩
  have hread := areaRead_run harea hpkg hlow hkept (j := 64 + 64 * (leNat (s.bytesAt (a + 8) 8) % n)) (k := 64) (by decide)
    (by have := Nat.mul_le_mul_left 64 (show leNat (s.bytesAt (a + 8) 8) % n + 1 ≤ n by omega); omega)
  have hwrite := areaWrite_run harea hpkg hlow hkept (j := 8) (bs := leBytes 8 (leNat (s.bytesAt (a + 8) 8) + 1)) (by rw [length_leBytes]; decide)
    (by rw [length_leBytes]; omega)
  obtain ⟨htake, hput⟩ := bytesAt_taken harea
  have hsound : ∀ i < (leBytes 8 (leNat (s.bytesAt (a + 8) 8) + 1)).length, s.badAt (a + 8 + i) = 0 := fun i hi => by
    rw [length_leBytes] at hi
    rw [Nat.add_assoc]
    exact (harea (8 + i) (by omega)).2.1
  have honly := putOnly_homePut hsound
  have htlb : (s.homePut (a + 8) (leBytes 8 (leNat (s.bytesAt (a + 8) 8) + 1))).tlb = s.tlb := by
    obtain ⟨_, _, _, _, heq⟩ := honly
    rw [heq]
  obtain ⟨w, hw⟩ := memRel_wakes.homePut s (a + 8) (leBytes 8 (leNat (s.bytesAt (a + 8) 8) + 1)) s.cur
  unfold taken
  dsimp only
  generalize s.homePut (a + 8) (leBytes 8 (leNat (s.bytesAt (a + 8) 8) + 1)) = v at *
  generalize hm : messageOf (s.bytesAt (a + (64 + 64 * (leNat (s.bytesAt (a + 8) 8) % n))) 64) = m
  have hself : (v.withStrand s.cur (delivered (v.strand s.cur) m)).self = delivered (wokenIf s.self w) m := by
    unfold State.self
    rw [show (v.withStrand s.cur (delivered (v.strand s.cur) m)).cur = s.cur from honly.cur, State.strand_withStrand_same, hw]
  have hkept' : AreaKept s (v.withStrand s.cur (delivered (v.strand s.cur) m)) :=
    ⟨honly.cur, htlb, honly.pkg, honly.badAt, honly.noPartials hpart, by rw [hself]; rfl, by rw [hself]; rfl⟩
  have hcounts := areaCounts_run hshape harea hpkg hlow hkept
  have hcounts' := areaCounts_run hshape harea hpkg hlow hkept'
  have hnone : leNat ((v.withStrand s.cur (delivered (v.strand s.cur) m)).bytesAt a 8) =
      leNat ((v.withStrand s.cur (delivered (v.strand s.cur) m)).bytesAt (a + 8) 8) := by
    have hlt := bytesAt_lt s a 8
    change leNat (v.bytesAt a 8) = leNat (v.bytesAt (a + 8) 8)
    rw [hput, htake, leNat_leBytes, hone, Nat.mod_eq_of_lt (by omega)]
  have hagain : refillQueue s.cur (fuel + 1) (v.withStrand s.cur (delivered (v.strand s.cur) m)) =
      .ok () (v.withStrand s.cur (delivered (v.strand s.cur) m)) := by
    unfold refillQueue
    rw [M.bind_ok (getStrand_run ..), M.bind_ok hcounts']
    dsimp only
    rw [hnone, if_neg (by simp)]
    rfl
  unfold refillQueue
  rw [M.bind_ok (getStrand_run ..), M.bind_ok hcounts]
  dsimp only
  rw [if_pos (by rw [hone]; simpa [State.self] using hroom), Nat.add_assoc, M.bind_ok hread]
  dsimp only
  rw [M.bind_ok hwrite, if_pos rfl, hm, M.bind_ok (modStrand_run ..)]
  exact hagain

end Refill

theorem exec_overflowRefill {s : State} {sid : Nat} (hnow : s.now = .overflowRefill sid) : exec .overflowRefill s = runEvent (do
    let before ← getStrand sid
    refillQueue sid 64
    let after ← getStrand sid
    if after.inbox.length > before.inbox.length then noticeSlot sid else pure ()) s := by
  change execOverflowRefill s = _
  unfold execOverflowRefill
  rw [hnow]

theorem overflow_refills {s : State} {sid : Nat} (hnow : s.now = .overflowRefill sid) :
    ((s.strand sid).rqovf.tag = false → Happens .overflowRefill s s) ∧
    (∀ b n a, sid = s.cur → areaShape s.self.rqovf = some (b, n) → s.self.inbox.length < 64 → NoPartials s →
      b % 65536 + 64 + 64 * n ≤ 65536 →
      (∀ j < 64 + 64 * n, DirectOwn s (a + j) ∧ s.badAt (a + j) = 0 ∧ ∃ e, pteM e = false ∧
        Maps s s.self.tid (b + j) Cap.ld (s.globalOf (a + j)) e ∧ Maps s s.self.tid (b + j) Cap.st (s.globalOf (a + j)) e) →
      s.pkg < 2 ^ 14 →
      let take := leNat (s.bytesAt (a + 8) 8)
      leNat (s.bytesAt a 8) = take + 1 →
      ∃ t m, exec .overflowRefill s = .next t ∧ t.self.inbox = s.self.inbox ++ [m] ∧ t.self.wake = true ∧
        t.bytesAt (a + 8) 8 = leBytes 8 (take + 1) ∧
        let at_ := a + 64 + 64 * (take % n)
        m.src.toNat = leNat (s.bytesAt at_ 8) % 2 ^ 28 ∧ m.kind.toNat = leNat (s.bytesAt (at_ + 8) 2) ∧
          m.payload.length = min 3 (leNat (s.bytesAt (at_ + 10) 1))) := by
  refine ⟨fun hno => ?_, fun b n a hsid hshape hroom hpart hfit harea hpkg hone => ?_⟩
  · have hshape : areaShape (s.strand sid).rqovf = none := by
      unfold areaShape
      rw [hno]
      rfl
    refine happens_runEvent (exec_overflowRefill hnow) ?_
    rw [M.bind_ok (getStrand_run ..), M.bind_ok (refillQueue_run hshape 64), M.bind_ok (getStrand_run ..), if_neg (Nat.lt_irrefl _)]
    rfl
  · have hrun := refillQueue_one hshape hroom hpart harea hpkg hone 62
    have hsound : ∀ i < (leBytes 8 (leNat (s.bytesAt (a + 8) 8) + 1)).length, s.badAt (a + 8 + i) = 0 := fun i hi => by
      rw [length_leBytes] at hi
      rw [Nat.add_assoc]
      exact (harea (8 + i) (by omega)).2.1
    have hcur := (putOnly_homePut hsound).cur
    obtain ⟨w, hw⟩ := memRel_wakes.homePut s (a + 8) (leBytes 8 (leNat (s.bytesAt (a + 8) 8) + 1)) s.cur
    have hbytes := (bytesAt_taken harea).1
    have hfields := messageOf_fields s (a + (64 + 64 * (leNat (s.bytesAt (a + 8) 8) % n)))
    rw [← Nat.add_assoc] at hfields
    unfold taken at hrun
    dsimp only at hrun
    rw [← Nat.add_assoc a 64] at hrun
    generalize s.homePut (a + 8) (leBytes 8 (leNat (s.bytesAt (a + 8) 8) + 1)) = v at *
    generalize messageOf (s.bytesAt (a + 64 + 64 * (leNat (s.bytesAt (a + 8) 8) % n)) 64) = m at *
    obtain ⟨A, hnotice⟩ : ∃ A, noticeSlot sid (v.withStrand s.cur (delivered (v.strand s.cur) m)) =
        .ok () (posting (v.withStrand s.cur (delivered (v.strand s.cur) m)) A) := ⟨_, noticeSlot_run ..⟩
    have hself : (v.withStrand s.cur (delivered (v.strand s.cur) m)).strand s.cur = delivered (wokenIf s.self w) m := by
      rw [State.strand_withStrand_same, hw]
      rfl
    have hstrand : (posting (v.withStrand s.cur (delivered (v.strand s.cur) m)) A).self = delivered (wokenIf s.self w) m := by
      rw [← hself]
      exact congrArg (v.withStrand s.cur (delivered (v.strand s.cur) m)).strand hcur
    refine ⟨posting (v.withStrand s.cur (delivered (v.strand s.cur) m)) A, m, happens_runEvent (exec_overflowRefill hnow) ?_, by rw [hstrand]; rfl,
      by rw [hstrand]; rfl, hbytes, hfields⟩
    rw [hsid] at hnotice ⊢
    rw [M.bind_ok (getStrand_run ..), M.bind_ok hrun, M.bind_ok (getStrand_run ..), hself, if_pos]
    · exact hnotice
    · change s.self.inbox.length < (s.self.inbox ++ [m]).length
      rw [List.length_append]
      exact Nat.lt_succ_self _

/-! ## Senders that wait -/

theorem sends_timeout {s : State} {sid : Nat} (hnow : s.now = .sendTimeout sid) :
    let t := s.strand sid
    (t.refusedAt = none → ∃ u, exec .sendTimeout s = .next u ∧ u.strand sid = t ∧ u.mem = s.mem) ∧
    (∀ f, t.refusedAt = some f → t.clk ≤ f + t.sndto.toNat →
      ∃ u, exec .sendTimeout s = .next u ∧ (u.strand sid).clk = f + t.sndto.toNat ∧ (u.strand sid).still = t.still ∧
        ∀ n, n ≠ sid → u.strand n = s.strand n) := by
  have hexec : exec .sendTimeout s = .next (s.withStrand sid (match (s.strand sid).refusedAt with
      | some f => (s.strand sid).advance (f + (s.strand sid).sndto.toNat - (s.strand sid).clk)
      | none => s.strand sid)) := by
    change execSendTimeout s = _
    unfold execSendTimeout
    rw [hnow] <;> rfl
  dsimp only
  refine ⟨fun hnone => ?_, fun f hf hclk => ?_⟩
  · rw [hnone] at hexec
    exact ⟨_, hexec, State.strand_withStrand_same .., rfl⟩
  · rw [hf] at hexec
    refine ⟨_, hexec, ?_, ?_, fun n hn => State.strand_withStrand_ne _ _ _ _ hn⟩ <;> rw [State.strand_withStrand_same]
    · exact Nat.add_sub_cancel' hclk
    · rfl

theorem notices_go {s : State} {sid : Nat} (hnow : s.now = .reofferNotice sid) :
    (lookupD [] s.units.refusals sid = [] → Happens .reofferNotice s s) ∧
    (∀ b bs, lookupD [] s.units.refusals sid = b :: bs →
      let u : State := { s with units := { s.units with refusals := storeAt [] sid bs s.units.refusals } }
      (b.toNat / 16384 = s.pkg → Happens .reofferNotice s (posting u [.sendReoffer (b.toNat % 16384)])) ∧
      (b.toNat / 16384 ≠ s.pkg → ∃ pk, Happens .reofferNotice s (posting u [.packetForward pk]) ∧ pk.dst = b.toNat / 16384)) := by
  have hexec : exec .reofferNotice s = runEvent (sendNotice sid) s := by
    change execReofferNotice s = _
    unfold execReofferNotice
    rw [hnow]
  refine ⟨fun hnone => happens_runEvent hexec ?_, fun b bs hsome => ⟨fun hhome => happens_runEvent hexec ?_, fun haway => ?_⟩⟩
  · unfold sendNotice
    rw [M.bind_ok (M.get_run s), hnone]
    rfl
  · unfold sendNotice
    rw [M.bind_ok (M.get_run s), hsome]
    dsimp only
    rw [M.bind_ok (M.set_run s _), if_pos hhome]
    rfl
  · have hb : b.toNat / 16384 < 2 ^ 14 := by
      have := b.isLt
      omega
    refine ⟨{ requestPacket s (b.toNat / 16384 * 2 ^ 41) 5 2 0 .none [] false with addr := b.toNat % 16384 }, happens_runEvent hexec ?_, pkgOf_mul hb⟩
    unfold sendNotice
    rw [M.bind_ok (M.get_run s), hsome]
    dsimp only
    rw [M.bind_ok (M.set_run s _), if_neg haway]
    rfl

theorem reoffers_come {s : State} {sid : Nat} (hnow : s.now = .sendReoffer sid) :
    let t := s.strand sid
    (∀ f, t.refusedAt = some f → Happens .sendReoffer s (s.withStrand sid { t with reoffer := true })) ∧
    (t.refusedAt = none → Happens .sendReoffer s (s.withStrand sid t)) := by
  have hexec : exec .sendReoffer s = .next (s.withStrand sid { s.strand sid with reoffer := (s.strand sid).refusedAt.isSome || (s.strand sid).reoffer }) := by
    change execSendReoffer s = _
    unfold execSendReoffer
    rw [hnow]
    rfl
  dsimp only
  refine ⟨fun f hf => ?_, fun hnone => ?_⟩
  · rw [hf] at hexec
    exact hexec
  · rw [hnone] at hexec
    exact hexec

/-! ## Deposits -/

theorem deposits_come {s : State} {d : Deposit} (hnow : s.now = .depositArrival d) :
    let t := s.strand d.target
    let here := d.src.toNat / 16384 = s.pkg
    let took := s.withStrand d.target { t.deposit (t.physOf d.n.toNat) d.value with wake := true }
    (t.live → d.n.toNat < t.win.frame → d.n.toNat ∉ t.named → here → Happens .depositArrival s took) ∧
    (t.live → d.n.toNat < t.win.frame → d.n.toNat ∉ t.named → ¬here → ∃ pk,
      Happens .depositArrival s (posting took [.packetForward pk]) ∧ pk.op = .accepted ∧ pk.txn = d.txn) ∧
    (t.live → t.win.frame ≤ d.n.toNat → ¬here → ∃ pk, Happens .depositArrival s (posting s [.packetForward pk]) ∧ pk.op = .refused) ∧
    (t.live = false → ¬here → ∃ pk, Happens .depositArrival s (posting s [.packetForward pk]) ∧ pk.op = .notLoaded) := by
  have hexec : exec .depositArrival s = runEvent (acceptDeposit d) s := by
    change execDepositArrival s = _
    unfold execDepositArrival
    rw [hnow]
  have htook (hlive : (s.strand d.target).live = true) (hframe : d.n.toNat < (s.strand d.target).win.frame) (hnamed : d.n.toNat ∉ (s.strand d.target).named) :
      offerDeposit d.target d.n d.value s = .ok none (s.withStrand d.target
        { (s.strand d.target).deposit ((s.strand d.target).physOf d.n.toNat) d.value with wake := true }) := by
    obtain ⟨col, y, hy, -, -, hquiet⟩ := applyDeposit_run d.target d.n.toNat d.value s
    rw [hquiet (by simpa using hnamed)] at hy
    unfold offerDeposit
    rw [M.bind_ok (getStrand_run ..), if_neg (by rw [hlive]; exact Bool.false_ne_true), if_neg (by omega), M.bind_ok hy]
    rfl
  dsimp only
  refine ⟨fun hlive hframe hnamed hhere => ?_, fun hlive hframe hnamed haway => ?_, fun hlive hframe haway => ?_, fun hdead haway => ?_⟩
  · refine happens_runEvent hexec ((M.bind_ok (htook hlive hframe hnamed)).trans ?_)
    exact respond_here (s := s.withStrand d.target _) hhere ..
  · obtain ⟨pk, hrun, hop, htxn, -⟩ := respond_away (s := s.withStrand d.target
      { (s.strand d.target).deposit ((s.strand d.target).physOf d.n.toNat) d.value with wake := true }) haway d.txn .accepted [] false
    exact ⟨pk, happens_runEvent hexec ((M.bind_ok (htook hlive hframe hnamed)).trans hrun), hop, htxn⟩
  · have hoffer : offerDeposit d.target d.n d.value s = .ok (some true) s := by
      unfold offerDeposit
      rw [M.bind_ok (getStrand_run ..), if_neg (by rw [hlive]; exact Bool.false_ne_true), if_pos hframe]
      rfl
    obtain ⟨pk, hrun, hop, -⟩ := respond_away haway d.txn .refused [] false
    exact ⟨pk, happens_runEvent hexec ((M.bind_ok hoffer).trans hrun), hop⟩
  · have hoffer : offerDeposit d.target d.n d.value s = .ok (some false) s := by
      unfold offerDeposit
      rw [M.bind_ok (getStrand_run ..), if_pos (by rw [hdead]; rfl)]
      rfl
    obtain ⟨pk, hrun, hop, -⟩ := respond_away haway d.txn .notLoaded [] false
    exact ⟨pk, happens_runEvent hexec ((M.bind_ok hoffer).trans hrun), hop⟩

/-- Settles O52: a write at a core's port, a window store, a message, a refill, a notice and a deposit, each followed through its event. -/
theorem coreArrivals : Obligations.CoreArrivals :=
  ⟨fun _ _ hnow hcore hend hpart hsound => scratchpadWrite_arrives hnow hcore hend hpart hsound, fun _ _ hnow => windows_arrive hnow,
    fun _ _ hnow harea => messages_arrive hnow harea, fun _ _ hnow => overflow_refills hnow, fun _ _ hnow => sends_timeout hnow,
    fun _ _ hnow => notices_go hnow, fun _ _ hnow => reoffers_come hnow, fun _ _ hnow => deposits_come hnow⟩

end Sys2Proof.Claims
end

section
/-! PROOF. O51: a role that lags behind passes over a `wait` that the other role has done. -/

namespace Sys2Proof.Claims

open Sys2Proof.Machine

/-- A woken strand at a `wait`; its execute role lags behind, and has still to come to that place. -/
def laggingStrand : Strand := { Strand.idle with live := true, pcc := ⟨128, true⟩, wake := true, apart := some (.behind .execute 4096) }

/-- A state in which that strand has its turn: the word of its `wait` lies on a page that it may fetch from. -/
def laggingState : State := { State.reset with
  now := .waitWake 0
  strands := [(0, laggingStrand)]
  tlb := [(tlbKey 12 0 2 128, ⟨19, 2⟩)]
  mem := [(129, 0x30)] }

/-- The words that an action gives and the wake flag that it leaves, `d` if it fails. -/
def fetchedBy {α : Type} (d : α × Bool) : EStateM.Result Exc State α → α × Bool
  | .ok a u => (a, u.self.wake)
  | .error .. => d

/-- The wake flag of strand 0 after an outcome. -/
def wakeAfter : Host.Outcome State Fault Refusal → Bool
  | .next t => (t.strand 0).wake
  | _ => false

theorem fetch_laggingState : ∃ u, fetch { laggingState with cur := 0 } = .ok [0x3000] u ∧ u.self.wake = true := by
  have hws : fetchedBy ([], false) (fetch { laggingState with cur := 0 }) = ([0x3000], true) := by decide +kernel
  cases hf : fetch { laggingState with cur := 0 } with
  | ok ws u =>
    rw [hf] at hws
    obtain ⟨hw, hwake⟩ := Prod.mk.inj (show (ws, u.self.wake) = ([0x3000], true) from hws)
    exact ⟨u, by rw [hw], hwake⟩
  | error e u =>
    rw [hf] at hws
    exact absurd (show (([] : List IWord), false) = ([0x3000], true) from hws) (by decide)

/-- The strand passes the `wait`, but stays woken. -/
theorem wakeAfter_laggingState : wakeAfter (exec .waitWake laggingState) = true := by decide +kernel

/-- Refutes O51: the access role has done the `wait` already, so the execute role passes over it and the wake flag stays set; the clause
on a woken strand's `wait` does not ask that the roles are together. -/
theorem not_interruptsAndWaits : ¬ Obligations.InterruptsAndWaits := by
  rintro ⟨-, -, hwait, -⟩
  obtain ⟨u, hf, hwake⟩ := fetch_laggingState
  obtain ⟨t, ht, -, hdone⟩ := hwait laggingState u 0 ⟨0⟩ rfl
    ⟨by decide +kernel, by decide +kernel, by decide +kernel, by decide +kernel, [0x3000], hf, by decide +kernel⟩ hwake
  have hstays := wakeAfter_laggingState
  rw [ht] at hstays
  exact absurd (hstays.symm.trans hdone) (by decide)

end Sys2Proof.Claims
end

section
/-! PROOF. O48: event counters and dirty-page logs (R384 to R388). -/

namespace Sys2Proof.Claims

open Sys2Proof.Machine

/-! ## Fields of operands -/

theorem fieldAt_low (w : Word) (n : Nat) : fieldAt w 0 n = w.toNat % 2 ^ n := rfl

theorem fieldAt_eq (w : Word) (lo n : Nat) : fieldAt w lo n = w.toNat / 2 ^ lo % 2 ^ n := by
  rw [fieldAt, Nat.shiftRight_eq_div_pow]

theorem bitAt_eq (w : Word) (i : Nat) : bitAt w i = decide (w.toNat / 2 ^ i % 2 = 1) := by
  rw [bitAt, Nat.shiftRight_eq_div_pow]

/-- The highest bits of a word are what lies above the others. -/
theorem fieldAt_top (w : Word) {lo n : Nat} (h : lo + n = 64) : fieldAt w lo n = w.toNat / 2 ^ lo := by
  rw [fieldAt_eq, Nat.mod_eq_of_lt]
  rw [Nat.div_lt_iff_lt_mul (Nat.two_pow_pos lo), ← Nat.pow_add, Nat.add_comm n, h]
  exact w.isLt

/-- A register within the frame is seen by a check before the prologue as by a read behind it. -/
theorem Issues.peekX_run {s : State} {ns : List RegNo} (h : Issues s ns) {n : RegNo} (hn : n ∈ ns) : peekX n s = .ok (x s n) s := by
  have hframe : n.toNat < s.self.win.frame := (h.2 ⟨0, n.toNat, true, true⟩ (List.mem_map_of_mem hn)).2 rfl
  unfold peekX
  rw [M.bind_ok (self_run s), if_pos hframe]
  rfl

/-! ## Counters in their units -/

theorem withCounter_withSelf (s : State) (t : Strand) (owner n : Nat) (c : Counter) :
    (s.withSelf t).withCounter owner n c = (s.withCounter owner n c).withSelf t := by
  unfold State.withCounter; split
  · rfl
  · split <;> rfl

theorem cur_withCounter (s : State) (owner n : Nat) (c : Counter) : (s.withCounter owner n c).cur = s.cur := by
  unfold State.withCounter; split
  · rfl
  · split <;> rfl

theorem self_withCounter (s : State) (owner n : Nat) (c : Counter) : (s.withCounter owner n c).self = s.self := by
  unfold State.withCounter; split
  · rfl
  · split <;> rfl

theorem counterAt_withSelf (s : State) (t : Strand) (n : Nat) : (s.withSelf t).counterAt n = s.counterAt n := rfl

/-- A counter reads back as it was set. -/
theorem counterAt_withCounter (s : State) (n : Nat) (c : Counter) : (s.withCounter (s.counterOwner n) n c).counterAt n = c := by
  unfold State.counterAt State.withCounter State.counterOwner
  by_cases hcore : n < 8
  · simp only [if_pos hcore, State.withCore_cur, State.core_withCore_same, lookupD_storeAt_same]
  by_cases hdie : n < 40
  · simp only [if_neg hcore, if_pos hdie, State.withDie_cur, State.die_withDie_same, lookupD_storeAt_same]
  · simp only [if_neg hcore, if_neg hdie, lookupD_storeAt_same]

/-- What an event of a source does to a counter. -/
def counted (code n : Nat) (c : Counter) : Counter := if code ≠ 0 ∧ c.source.toNat = code then (c.add n).1 else c

theorem addEvents_counters (owner base code n : Nat) (m : SMap Counter) :
    (addEvents owner base code n m).1 = m.map fun e => (e.1, counted code n e.2) := by
  unfold addEvents
  suffices h : ∀ acc : SMap Counter × List Event, (m.foldl (fun (acc : SMap Counter × List Event) e =>
      if code ≠ 0 && e.2.source.toNat = code then
        let (c, fires) := e.2.add n
        (acc.1 ++ [(e.1, c)], if fires then acc.2 ++ [.counterFire owner (base + e.1)] else acc.2)
      else (acc.1 ++ [e], acc.2)) acc).1 = acc.1 ++ m.map fun e => (e.1, counted code n e.2) from (h _).trans (List.nil_append _)
  induction m with
  | nil => simp
  | cons e m ih =>
    intro acc
    rw [List.foldl_cons, ih]
    by_cases hc : code ≠ 0 ∧ e.2.source.toNat = code <;> simp [counted, hc]

theorem counters_countCore (s : State) (core code n : Nat) :
    ((s.countCore core code n).core core).counters = (s.core core).counters.map fun e => (e.1, counted code n e.2) := by
  have hcore : (s.countCore core code n).core core =
      { s.core core with counters := (addEvents core 0 code n (s.core core).counters).1 } := State.core_withCore_same ..
  rw [hcore, addEvents_counters]

theorem counters_spend (s : State) (core n : Nat) :
    ((s.spend core n).core core).counters = (s.core core).counters.map fun e => (e.1, counted 1 n e.2) := by
  rw [State.spend, counters_countCore, State.core_withCore_same]

/-- A counter of the core after a completion. -/
theorem counterAt_commit (s pre : State) (d : Desc) (k n : Nat) :
    (s.commit pre d k .next).counterAt n = if n < 8 then counted 2 1 (counted 1 (1 + d.stall.toNat + k) (s.counterAt n)) else s.counterAt n := by
  have hzero (code m : Nat) : counted code m Counter.zero = Counter.zero := by
    unfold counted; split
    · next h => exact absurd h.2.symm h.1
    · rfl
  by_cases hn : n < 8
  · have hcounters : ((s.commit pre d k .next).core (coreOf s.cur)).counters =
        (((s.spend (coreOf s.cur) (1 + d.stall.toNat + k)).countCore (coreOf s.cur) 2 1).core (coreOf s.cur)).counters := rfl
    simp only [State.counterAt, if_pos hn, State.commit_cur]
    rw [hcounters, counters_countCore, counters_spend, lookupD_map (counted 2 1) (hzero 2 1), lookupD_map (counted 1 _) (hzero 1 _)]
  · simp only [State.counterAt, if_neg hn, State.commit_cur]
    rfl

/-- A counter that counts neither time nor instructions keeps its state over a completion. -/
theorem counted_other {code n : Nat} {c : Counter} (h : c.source.toNat ≠ code) : counted code n c = c := if_neg fun e => h e.2

/-- An event changes a counter's count, and may disarm it. -/
theorem counted_keeps (code n : Nat) (c : Counter) : (counted code n c).handle = c.handle ∧ (counted code n c).key = c.key ∧
    (counted code n c).arg = c.arg ∧ (counted code n c).sid = c.sid ∧ (counted code n c).lost = c.lost := by
  unfold counted Counter.add; split <;> exact ⟨rfl, rfl, rfl, rfl, rfl⟩

/-! ## The rights to a counter (R386) -/

theorem checkCounterRights_run {s u : State} {n : Nat} (hmay : MayCount s n) (hmode : u.self.mode = s.self.mode) (hcur : u.cur = s.cur)
    (hcol : u.colonyOf u.cur = s.colonyOf s.cur) : checkCounterRights n u = .ok () u := by
  obtain ⟨huser, hsuper⟩ := hmay
  unfold checkCounterRights
  rw [M.bind_ok (M.get_run u)]
  refine raiseIf_of_not ?_ ..
  rw [hmode, hcol, hcur]
  cases hm : s.self.mode with
  | user => exact absurd hm huser
  | hypervisor => simp
  | supervisor =>
    obtain ⟨hdie, hpkg⟩ := hsuper hm
    have hcovers : 8 ≤ n → n < 40 → coversDie (s.colonyOf s.cur) (dieOf s.cur) = true := fun h8 h40 => by
      rw [coversDie, hdie h8 h40 _ (by omega), hdie h8 h40 _ (by omega)]; rfl
    by_cases h8 : 8 ≤ n
    · by_cases h40 : n < 40
      · simp [hcovers h8 h40, h40]
      · simp [h40, hpkg (by omega)]
    · simp [h8, show ¬40 ≤ n by omega]

theorem checkCounterRights_refused {s : State} {n : Nat} (hmode : s.self.mode = .supervisor) (hn : 40 ≤ n) (hcol : s.colonyOf s.cur ≠ 1) :
    checkCounterRights n s = .error (.trap cPerm (BitVec.ofNat 64 n) none) s := by
  unfold checkCounterRights
  rw [M.bind_ok (M.get_run s)]
  exact raiseIf_of (by simp [hmode, hn, hcol]) ..

/-- An instruction that sets a counter and then a register. -/
theorem leads_counter {i : Instr} {s : State} {d : Desc} {priv body : M Unit} {owner n k : Nat} {c : Counter} {r : Reg}
    (hx : exec i s = runPriv d priv body s) (hl : d.steer ≠ .lanes) (hp : priv s = .ok () s) (hc : s.self.Clear d.regs)
    (hb : body (s.withSelf (s.self.begun d)) =
      .ok () (((s.withCounter owner n c).withSelf (s.self.begun d)).withSelf ((s.self.begun d).putW k r))) :
    Leads i s ((s.withCounter owner n c).withSelf ((s.withCounter owner n c).self.putW k r)) := by
  rw [self_withCounter]
  exact leads_of_runPriv hx hl hp hc hb (((OnlySelf.refl (s.withCounter owner n c)).withSelf (s.self.begun d)).withSelf _)
    rfl rfl rfl rfl rfl rfl

/-! ## `ctrsel` (R384, R386) -/

section Select

variable {o : OpRR} {s : State} (h : Issues s [o.a, o.b])

/-- What `ctrsel` is to the pipeline. -/
def selectDesc (o : OpRR) : Desc := ⟨o.st, 0, .joint, [wBoth o.a, wSrc o.b]⟩

/-- The checks of `ctrsel`. -/
def selectCheck (o : OpRR) : M Unit := do
  let a ← peekX o.a
  let b ← peekX o.b
  illIf (fieldAt a 0 7 > 71 || fieldAt b 16 16 ≠ 0 || !sourceFits (fieldAt a 0 7) (fieldAt b 0 16))
  needMode .supervisor

/-- Operands that `ctrsel` refuses. -/
def SelectIll (o : OpRR) (s : State) : Prop :=
  71 < (x s o.a).toNat % 128 ∨ (x s o.b).toNat / 2 ^ 16 % 2 ^ 16 ≠ 0 ∨ sourceFits ((x s o.a).toNat % 128) ((x s o.b).toNat % 2 ^ 16) = false

/-- The counter that `ctrsel` makes of an old one. -/
def selected (o : OpRR) (s : State) (old : Counter) : Counter := { old with
  count := 0, source := BitVec.ofNat 16 ((x s o.b).toNat % 2 ^ 16), threshold := BitVec.ofNat 64 ((x s o.b).toNat / 2 ^ 32), armed := false }

theorem selectIll_iff : (fieldAt (x s o.a) 0 7 > 71 || fieldAt (x s o.b) 16 16 ≠ 0 ||
    !sourceFits (fieldAt (x s o.a) 0 7) (fieldAt (x s o.b) 0 16)) = true ↔ SelectIll o s := by
  simp only [fieldAt_eq, SelectIll]
  simp [or_assoc]

include h

theorem selectCheck_ill (hill : SelectIll o s) : selectCheck o s = .error (.trap cIll (BitVec.ofNat 64 s.self.illValue) none) s := by
  unfold selectCheck
  rw [M.bind_ok (h.peekX_run (by simp)), M.bind_ok (h.peekX_run (by simp)), M.bind_error (illIf_of (selectIll_iff.mpr hill) s)]

theorem selectCheck_eq (hfine : ¬SelectIll o s) : selectCheck o s = needMode .supervisor s := by
  unfold selectCheck
  rw [M.bind_ok (h.peekX_run (by simp)), M.bind_ok (h.peekX_run (by simp)),
    M.bind_ok (illIf_of_not (Bool.eq_false_iff.mpr fun e => hfine (selectIll_iff.mp e)) s)]

omit h in
/-- The operation of `ctrsel` behind its checks. -/
def selectBody (o : OpRR) : M Unit := do
  let a ← readX 0 o.a
  let b ← readX 1 o.b
  let n := fieldAt a 0 7
  checkCounterRights n
  let s ← get
  let old := s.counterAt n
  set (s.withCounter (s.counterOwner n) n { old with
    count := 0, source := BitVec.ofNat 16 (fieldAt b 0 16), threshold := BitVec.ofNat 64 (fieldAt b 32 32), armed := false })
  writeX o.a (BitVec.ofNat 64 (old.source.toNat + old.threshold.toNat % 2 ^ 32 * 2 ^ 32))

omit h in
theorem ctrsel_eq : exec (.ctrsel o) s = runPriv (selectDesc o) (selectCheck o) (selectBody o) s := rfl

omit h in
/-- What `ctrsel` tells of the counter that it replaces. -/
def oldPair (c : Counter) : Reg := Reg.ofWord (BitVec.ofNat 64 (c.source.toNat + c.threshold.toNat % 2 ^ 32 * 2 ^ 32))

theorem clear_select : s.self.Clear (selectDesc o).regs := h.clear (by simp [selectDesc, wBoth, wSrc])

theorem selectBody_run (hmay : MayCount s ((x s o.a).toNat % 128)) :
    let n := (x s o.a).toNat % 128
    selectBody o (s.withSelf (s.self.begun (selectDesc o))) = .ok () (((s.withCounter (s.counterOwner n) n (selected o s (s.counterAt n))).withSelf
      (s.self.begun (selectDesc o))).withSelf ((s.self.begun (selectDesc o)).putW o.a.toNat (oldPair (s.counterAt n)))) := by
  intro n
  have hrights : checkCounterRights n (s.withSelf (s.self.begun (selectDesc o))) = .ok () (s.withSelf (s.self.begun (selectDesc o))) :=
    checkCounterRights_run hmay (by rw [State.self_withSelf]; rfl) rfl rfl
  unfold selectBody
  rw [M.bind_ok (h.readX_begun _ 0 (by simp)), M.bind_ok (h.readX_begun _ 1 (by simp)), show fieldAt (x s o.a) 0 7 = n from rfl]
  dsimp only
  rw [M.bind_ok hrights, M.bind_ok (M.get_run _), M.bind_ok (M.set_run _ _), fieldAt_top _ (show 32 + 32 = 64 from rfl)]
  change writeX o.a _ ((s.withSelf (s.self.begun (selectDesc o))).withCounter (s.counterOwner n) n (selected o s (s.counterAt n))) = _
  rw [withCounter_withSelf]
  refine (writeW_run ..).trans ?_
  rw [State.self_withSelf]
  rfl

/-- R384, R386: `ctrsel`. -/
theorem ctrsel_leads (hfine : ¬SelectIll o s) (hmay : MayCount s ((x s o.a).toNat % 128)) :
    let n := (x s o.a).toNat % 128
    let u := s.withCounter (s.counterOwner n) n (selected o s (s.counterAt n))
    Leads (.ctrsel o) s (u.withSelf (u.self.putW o.a.toNat (oldPair (s.counterAt n)))) ∧
    ∀ t, exec (.ctrsel o) s = .next t → (x s o.b).toNat % 2 ^ 16 ≠ 1 → (x s o.b).toNat % 2 ^ 16 ≠ 2 → t.counterAt n = selected o s (s.counterAt n) := by
  intro n u
  have hcheck : selectCheck o s = .ok () s :=
    (selectCheck_eq h hfine).trans (needMode_ok ((not_congr (num_lt_supervisor _)).mpr hmay.1))
  have hrun := selectBody_run h hmay
  dsimp only at hrun
  refine ⟨?_, fun t ht h1 h2 => ?_⟩
  · exact leads_counter ctrsel_eq Steer.noConfusion hcheck (clear_select h) hrun
  · have hx := ctrsel_eq.trans (runPriv_ok Steer.noConfusion hcheck (clear_select h) hrun)
    rw [Host.Outcome.next.inj (ht.symm.trans hx), counterAt_commit]
    have hset : ((u.withSelf (s.self.begun (selectDesc o))).withSelf
        ((s.self.begun (selectDesc o)).putW o.a.toNat (oldPair (s.counterAt n)))).counterAt n = selected o s (s.counterAt n) := by
      rw [counterAt_withSelf, counterAt_withSelf, counterAt_withCounter]
    have hsource : (selected o s (s.counterAt n)).source.toNat = (x s o.b).toNat % 2 ^ 16 := by
      rw [selected, BitVec.toNat_ofNat]; omega
    rw [hset, counted_other (code := 1) (hsource.symm ▸ h1), counted_other (code := 2) (hsource.symm ▸ h2), ite_self]

/-- R384, R386: what stops `ctrsel`. -/
theorem ctrsel_traps :
    (SelectIll o s → Traps (.ctrsel o) s cIll s.self.illValue) ∧
    (¬SelectIll o s → s.self.mode = .user → Traps (.ctrsel o) s cPriv s.self.illValue) ∧
    (¬SelectIll o s → s.self.mode = .supervisor → 40 ≤ (x s o.a).toNat % 128 → s.colonyOf s.cur ≠ 1 →
      Traps (.ctrsel o) s cPerm ((x s o.a).toNat % 128)) := by
  refine ⟨fun hill => ?_, fun hfine hm => ?_, fun hfine hm hn hcol => ?_⟩
  · exact traps_of_priv ctrsel_eq (selectCheck_ill h hill) h.1 (by decide)
  · exact traps_of_priv ctrsel_eq ((selectCheck_eq h hfine).trans (needMode_low ((num_lt_supervisor _).mpr hm))) h.1 (by decide)
  · have hcheck : selectCheck o s = .ok () s :=
      (selectCheck_eq h hfine).trans (needMode_ok ((not_congr (num_lt_supervisor _)).mpr (by rw [hm]; exact Mode.noConfusion)))
    refine traps_behind_prologue ctrsel_eq Steer.noConfusion hcheck (clear_select h) ?_ (by decide)
    refine M.bind_error ?_
    unfold selectBody
    rw [M.bind_ok (h.readX_begun _ 0 (by simp)), M.bind_ok (h.readX_begun _ 1 (by simp))]
    exact M.bind_error (checkCounterRights_refused (by rw [State.self_withSelf]; exact hm) hn hcol)

end Select

/-! ## `ctrrd` (R386) -/

section Read

variable {o : OpRR} {s : State} (h : Issues s [o.a, o.b])

/-- What `ctrrd` is to the pipeline. -/
def tellDesc (o : OpRR) : Desc := ⟨o.st, 0, .joint, [wDst o.a, wSrc o.b]⟩

/-- The checks of `ctrrd`. -/
def tellCheck (o : OpRR) : M Unit := do
  let b ← peekX o.b
  illIf (fieldAt b 0 7 > 71)
  if fieldAt b 0 7 < 8 then pure () else needMode .supervisor

/-- The operation of `ctrrd` behind its checks. -/
def tellBody (o : OpRR) : M Unit := do
  let b ← readX 0 o.b
  let n := fieldAt b 0 7
  checkCounterRights n
  let s ← get
  writeX o.a (s.counterWord (s.counterAt n))

theorem ctrrd_eq : exec (.ctrrd o) s = runPriv (tellDesc o) (tellCheck o) (tellBody o) s := rfl

/-- The value that `ctrrd` tells: a counter's count, or the state of a gauge. -/
theorem counterWord_eq (s : State) (c : Counter) : ∃ k < 2 ^ 48, (c.source.toNat < 0x3000 → k = c.count % 2 ^ 48) ∧
    s.counterWord c = BitVec.ofNat 64 ((if c.armed then 2 ^ 63 else 0) + (if c.lost then 2 ^ 62 else 0) + k) := by
  refine ⟨(if c.source.toNat ≥ 0x3000 then s.gauge c.source.toNat else c.count) % 2 ^ 48, Nat.mod_lt _ (Nat.two_pow_pos 48), fun hs => ?_, rfl⟩
  rw [if_neg (Nat.not_le.mpr hs)]

include h

theorem tellCheck_ill (hill : 71 < (x s o.b).toNat % 128) : tellCheck o s = .error (.trap cIll (BitVec.ofNat 64 s.self.illValue) none) s := by
  unfold tellCheck
  rw [M.bind_ok (h.peekX_run (by simp)), show fieldAt (x s o.b) 0 7 = (x s o.b).toNat % 128 from rfl, M.bind_error (illIf_of (decide_eq_true hill) s)]

theorem tellCheck_eq (hfine : (x s o.b).toNat % 128 ≤ 71) :
    tellCheck o s = (if (x s o.b).toNat % 128 < 8 then pure () else needMode .supervisor) s := by
  unfold tellCheck
  rw [M.bind_ok (h.peekX_run (by simp)), show fieldAt (x s o.b) 0 7 = (x s o.b).toNat % 128 from rfl, M.bind_ok (illIf_of_not (decide_eq_false (Nat.not_lt.mpr hfine)) s)]

/-- R386: `ctrrd`. -/
theorem ctrrd_sets (hfine : (x s o.b).toNat % 128 ≤ 71) (hmay : (x s o.b).toNat % 128 < 8 ∨ MayCount s ((x s o.b).toNat % 128)) :
    SetsX (.ctrrd o) s o.a (s.counterWord (s.counterAt ((x s o.b).toNat % 128))) := by
  have hcheck : tellCheck o s = .ok () s := by
    rw [tellCheck_eq h hfine]
    split
    · rfl
    · next hn => exact needMode_ok ((not_congr (num_lt_supervisor _)).mpr (hmay.resolve_left hn).1)
  have hrights : checkCounterRights ((x s o.b).toNat % 128) (s.withSelf (s.self.begun (tellDesc o))) =
      .ok () (s.withSelf (s.self.begun (tellDesc o))) := by
    rcases hmay with hn | hmay
    · unfold checkCounterRights
      rw [M.bind_ok (M.get_run _)]
      refine raiseIf_of_not ?_ ..
      simp [show ¬8 ≤ (x s o.b).toNat % 128 by omega, show ¬40 ≤ (x s o.b).toNat % 128 by omega]
    · exact checkCounterRights_run hmay (by rw [State.self_withSelf]; rfl) rfl rfl
  have hrun : tellBody o (s.withSelf (s.self.begun (tellDesc o))) =
      writeX o.a (s.counterWord (s.counterAt ((x s o.b).toNat % 128))) (s.withSelf (s.self.begun (tellDesc o))) := by
    unfold tellBody
    rw [M.bind_ok (h.readX_begun _ 0 (by simp)), show fieldAt (x s o.b) 0 7 = (x s o.b).toNat % 128 from rfl]
    rw [M.bind_ok hrights, M.bind_ok (M.get_run _)]
    rfl
  rw [writeX, writeW_run, State.self_withSelf] at hrun
  exact leads_of_runPriv ctrrd_eq Steer.noConfusion hcheck (h.clear (by simp [tellDesc, wDst, wSrc])) hrun
    ((OnlySelf.begun s _).withSelf _) rfl rfl rfl rfl rfl rfl

/-- R386: what stops `ctrrd`. -/
theorem ctrrd_traps : (71 < (x s o.b).toNat % 128 → Traps (.ctrrd o) s cIll s.self.illValue) ∧
    (8 ≤ (x s o.b).toNat % 128 → (x s o.b).toNat % 128 ≤ 71 → s.self.mode = .user → Traps (.ctrrd o) s cPriv s.self.illValue) := by
  refine ⟨fun hill => traps_of_priv ctrrd_eq (tellCheck_ill h hill) h.1 (by decide), fun h8 hfine hm => ?_⟩
  refine traps_of_priv ctrrd_eq ?_ h.1 (by decide)
  rw [tellCheck_eq h hfine, if_neg (by omega)]
  exact needMode_low ((num_lt_supervisor _).mpr hm)

end Read

/-! ## `ctrarm` (R386) -/

section Arm

variable {o : OpRRR} {s : State} (h : Issues s [o.a, o.b, o.c])

/-- What `ctrarm` is to the pipeline. -/
def armDesc (o : OpRRR) : Desc := ⟨o.st, 0, .joint, threeSource o⟩

/-- The checks of `ctrarm`. -/
def armCheck (o : OpRRR) : M Unit := do
  let w ← peekX o.a
  illIf (fieldAt w 0 7 > 71 || bitAt w 7 || fieldAt w 11 21 ≠ 0)
  needMode .supervisor

/-- Operands that `ctrarm` refuses. -/
def ArmIll (o : OpRRR) (s : State) : Prop :=
  71 < (x s o.a).toNat % 128 ∨ (x s o.a).toNat / 2 ^ 7 % 2 = 1 ∨ (x s o.a).toNat / 2 ^ 11 % 2 ^ 21 ≠ 0

/-- Whether a counter has reached its threshold. -/
def atThreshold (c : Counter) : Bool := c.threshold ≠ 0 && c.count ≥ c.threshold.toNat

theorem atThreshold_iff (c : Counter) : atThreshold c = true ↔ c.threshold ≠ 0 ∧ c.threshold.toNat ≤ c.count := by simp [atThreshold]

/-- A counter that is armed or disarmed. -/
def armed (o : OpRRR) (s : State) (old : Counter) (on : Bool) : Counter := { old with
  armed := on, lost := false, handle := w s o.b, key := (x s o.a).toNat / 2 ^ 32, cls := (x s o.a).toNat / 2 ^ 8 % 4, arg := w s o.c, sid := s.cur }

/-- The operation of `ctrarm` on the counter, its checks passed. -/
def armCounter (w : Word) (b c : Reg) (n : Nat) : M Unit := do
  let s ← get
  let old := s.counterAt n
  let owner := s.counterOwner n
  if bitAt w 10 then set (s.withCounter owner n { old with armed := false })
  else do
    let fires := old.threshold ≠ 0 && old.count ≥ old.threshold.toNat
    set (s.withCounter owner n { old with
      armed := !fires, lost := false, handle := b, key := fieldAt w 32 32, cls := fieldAt w 8 2, arg := c, sid := s.cur })
    if fires then post (.counterFire owner n) else pure ()

/-- The operation of `ctrarm` behind its checks. -/
def armBody (o : OpRRR) : M Unit := do
  let w ← readX 0 o.a
  let b ← readW 1 o.b
  let c ← readW 2 o.c
  let n := fieldAt w 0 7
  checkCounterRights n
  if b.tag then do
    let (pkg, die, i, gen) ← checkHandle b false
    let s ← get
    if pkg ≠ s.pkg then do
      let (_, area) ← askHome b pkg die i gen 0
      noteArea (dieOf s.cur) area
    else pure ()
  else pure ()
  raiseIf (c.tag && !Cap.has c.val Cap.gl) cPerm (Cap.cursor c.val)
  armCounter w b c n

theorem ctrarm_eq : ctrarm o s = runPriv (armDesc o) (armCheck o) (armBody o) s := rfl

theorem armIll_iff : (fieldAt (x s o.a) 0 7 > 71 || bitAt (x s o.a) 7 || fieldAt (x s o.a) 11 21 ≠ 0) = true ↔ ArmIll o s := by
  simp only [fieldAt_eq, bitAt_eq, ArmIll]
  simp [or_assoc]

include h

theorem armCheck_ill (hill : ArmIll o s) : armCheck o s = .error (.trap cIll (BitVec.ofNat 64 s.self.illValue) none) s := by
  unfold armCheck
  rw [M.bind_ok (h.peekX_run (by simp)), M.bind_error (illIf_of (armIll_iff.mpr hill) s)]

theorem armCheck_eq (hfine : ¬ArmIll o s) : armCheck o s = needMode .supervisor s := by
  unfold armCheck
  rw [M.bind_ok (h.peekX_run (by simp)), M.bind_ok (illIf_of_not (Bool.eq_false_iff.mpr fun e => hfine (armIll_iff.mp e)) s)]

theorem clear_arm : s.self.Clear (armDesc o).regs := h.clear (by simp [armDesc, threeSource, wSrc])

/-- `ctrarm` behind its checks, with no handle. -/
theorem armBody_eq (hmay : MayCount s ((x s o.a).toNat % 128)) (htag : (w s o.b).tag = false) :
    armBody o (s.withSelf (s.self.begun (armDesc o))) = (do
      raiseIf ((w s o.c).tag && !Cap.has (w s o.c).val Cap.gl) cPerm (Cap.cursor (w s o.c).val)
      armCounter (x s o.a) (w s o.b) (w s o.c) ((x s o.a).toNat % 128) : M Unit) (s.withSelf (s.self.begun (armDesc o))) := by
  have hrights : checkCounterRights ((x s o.a).toNat % 128) (s.withSelf (s.self.begun (armDesc o))) =
      .ok () (s.withSelf (s.self.begun (armDesc o))) := checkCounterRights_run hmay (by rw [State.self_withSelf]; rfl) rfl rfl
  unfold armBody
  rw [M.bind_ok (h.readX_begun _ 0 (by simp)), M.bind_ok (h.readW_begun _ 1 (by simp)), M.bind_ok (h.readW_begun _ 2 (by simp)),
    show fieldAt (x s o.a) 0 7 = (x s o.a).toNat % 128 from rfl]
  dsimp only
  rw [M.bind_ok hrights, htag]
  rfl

omit h in
theorem armCounter_disarms {u : State} (hbit : (x s o.a).toNat / 2 ^ 10 % 2 = 1) (b c : Reg) (n : Nat) :
    armCounter (x s o.a) b c n u = .ok () (u.withCounter (u.counterOwner n) n { u.counterAt n with armed := false }) := by
  unfold armCounter
  rw [M.bind_ok (M.get_run u), bitAt_eq, if_pos (decide_eq_true hbit)]
  rfl

omit h in
/-- Arming fires at once where the threshold has been reached. -/
theorem armCounter_arms {t : Strand} {n : Nat} (hbit : (x s o.a).toNat / 2 ^ 10 % 2 = 0) :
    armCounter (x s o.a) (w s o.b) (w s o.c) n (s.withSelf t) =
      (if atThreshold (s.counterAt n) then post (.counterFire (s.counterOwner n) n) else pure ())
        ((s.withCounter (s.counterOwner n) n (armed o s (s.counterAt n) (!atThreshold (s.counterAt n)))).withSelf t) := by
  have hlow : ¬decide ((x s o.a).toNat / 2 ^ 10 % 2 = 1) = true := by rw [hbit]; decide
  unfold armCounter
  rw [M.bind_ok (M.get_run _), bitAt_eq, if_neg hlow, M.bind_ok (M.set_run _ _), fieldAt_top _ (show 32 + 32 = 64 from rfl),
    fieldAt_eq _ 8 2, ← withCounter_withSelf]
  rfl

/-- R386: an armed or disarmed counter, with what that posts. -/
theorem arm_leads {ins : Instr} (hx : exec ins s = ctrarm o s) (hfine : ¬ArmIll o s) (hmay : MayCount s ((x s o.a).toNat % 128))
    (htag : (w s o.b).tag = false) (hgl : (w s o.c).tag = false ∨ Cap.has (w s o.c).val Cap.gl) {v : State}
    (hrun : armCounter (x s o.a) (w s o.b) (w s o.c) ((x s o.a).toNat % 128) (s.withSelf (s.self.begun (armDesc o))) =
      .ok () (v.withSelf (s.self.begun (armDesc o)))) (hself : v.self = s.self) :
    Leads ins s v ∧ exec ins s = .next ((v.withSelf (s.self.begun (armDesc o))).commit s (armDesc o) 0 .next) := by
  have hcheck : armCheck o s = .ok () s := (armCheck_eq h hfine).trans (needMode_ok ((not_congr (num_lt_supervisor _)).mpr hmay.1))
  have hclear := clear_arm h
  have hbody : armBody o (s.withSelf (s.self.begun (armDesc o))) = .ok () (v.withSelf (s.self.begun (armDesc o))) := by
    rw [armBody_eq h hmay htag, M.bind_ok (raiseIf_of_not (by rcases hgl with hg | hg <;> simp [hg]) ..)]
    exact hrun
  have hsame : SameAs v (v.withSelf (s.self.begun (armDesc o))) :=
    ((OnlySelf.refl v).withSelf _).sameAs (by rw [hself]; rfl) (by rw [hself]; rfl)
  have hrun := (hx.trans ctrarm_eq).trans (runPriv_ok Steer.noConfusion hcheck hclear hbody)
  refine ⟨hsame.leads hrun ?_ ?_ ?_ ?_, hrun⟩ <;> rw [State.self_withSelf]
  · exact hclear.apart_begun _
  all_goals rfl

/-- R386: what stops `ctrarm`. -/
theorem arm_traps {ins : Instr} (hx : exec ins s = ctrarm o s) :
    (ArmIll o s → Traps ins s cIll s.self.illValue) ∧ (¬ArmIll o s → s.self.mode = .user → Traps ins s cPriv s.self.illValue) ∧
    (¬ArmIll o s → MayCount s ((x s o.a).toNat % 128) → (w s o.b).tag = false → (w s o.c).tag → Cap.has (w s o.c).val Cap.gl = false →
      Traps ins s cPerm (Cap.cursor (w s o.c).val)) := by
  have hx := hx.trans ctrarm_eq
  refine ⟨fun hill => ?_, fun hfine hm => ?_, fun hfine hmay htag hc hgl => ?_⟩
  · exact traps_of_priv hx (armCheck_ill h hill) h.1 (by decide)
  · exact traps_of_priv hx ((armCheck_eq h hfine).trans (needMode_low ((num_lt_supervisor _).mpr hm))) h.1 (by decide)
  · have hcheck : armCheck o s = .ok () s := (armCheck_eq h hfine).trans (needMode_ok ((not_congr (num_lt_supervisor _)).mpr hmay.1))
    refine traps_behind_prologue hx Steer.noConfusion hcheck (clear_arm h) ?_ (by decide)
    refine M.bind_error ?_
    rw [armBody_eq h hmay htag]
    exact M.bind_error (raiseIf_of (by simp [hc, hgl]) ..)

end Arm

/-! ## The claim -/

theorem add_fires (c : Counter) (n : Nat) :
    ((c.add n).2 = true ↔ c.armed ∧ c.threshold ≠ 0 ∧ c.count < c.threshold.toNat ∧ c.threshold.toNat ≤ c.count + n) ∧
    ((c.add n).2 = true → (c.add n).1.armed = false) ∧ (c.add n).1.count = (c.count + n) % 2 ^ 48 := by
  refine ⟨by simp [Counter.add, and_assoc], fun hf => ?_, rfl⟩
  change (c.armed && !(c.add n).2) = false
  rw [hf]; exact Bool.and_false _

/-- A counter that is armed keeps its handle and its owner over the instruction's completion. -/
theorem counterAt_armed (v pre : State) (d : Desc) (n : Nat) (c : Counter) (h : v.counterAt n = c) :
    let e := (v.commit pre d 0 .next).counterAt n
    e.handle = c.handle ∧ e.key = c.key ∧ e.arg = c.arg ∧ e.sid = c.sid ∧ e.lost = c.lost := by
  dsimp only
  rw [counterAt_commit, h]
  split
  · obtain ⟨h1, h2, h3, h4, h5⟩ := counted_keeps 2 1 (counted 1 (1 + d.stall.toNat + 0) c)
    obtain ⟨k1, k2, k3, k4, k5⟩ := counted_keeps 1 (1 + d.stall.toNat + 0) c
    exact ⟨h1.trans k1, h2.trans k2, h3.trans k3, h4.trans k4, h5.trans k5⟩
  · exact ⟨rfl, rfl, rfl, rfl, rfl⟩

theorem ctrarm_of_row {o : OpRRR} {s : State} {ins : Instr} (h : ins = .ctrarmArm o ∨ (ins = .ctrarmDisarm ∧ o = s.self.rowRRR)) :
    exec ins s = ctrarm o s := by
  rcases h with rfl | ⟨rfl, rfl⟩ <;> rfl

/-- R384, R386: the counter instructions. -/
theorem countersAreSet : CountersAreSet := by
  refine ⟨fun o s h => ?_, fun o s h => ?_, fun o s ins h hrow => ?_, add_fires⟩
  · obtain ⟨hill, hpriv, hperm⟩ := ctrsel_traps h
    exact ⟨hill, hpriv, hperm, fun hfine hmay => ctrsel_leads h hfine hmay⟩
  · obtain ⟨hill, hpriv⟩ := ctrrd_traps h
    refine ⟨hill, hpriv, fun hfine hmay => ?_⟩
    obtain ⟨k, hk, hcount, hword⟩ := counterWord_eq s (s.counterAt ((x s o.b).toNat % 128))
    exact ⟨k, hk, hcount, hword ▸ ctrrd_sets h hfine hmay⟩
  · have hx := ctrarm_of_row hrow
    obtain ⟨hill, hpriv, hperm⟩ := arm_traps h hx
    refine ⟨hill, hpriv, fun hfine hmay htag => ⟨hperm hfine hmay htag, fun hgl => ⟨fun hbit => ?_, fun hbit hfires => ?_, fun hbit hlow => ?_⟩⟩⟩
    · refine (arm_leads h hx hfine hmay htag hgl ?_ (self_withCounter ..)).1
      rw [armCounter_disarms hbit, ← withCounter_withSelf]
      rfl
    · have hat := (atThreshold_iff _).mpr hfires
      have harms := armCounter_arms (o := o) (s := s) (t := s.self.begun (armDesc o)) (n := (x s o.a).toNat % 128) hbit
      rw [if_pos hat] at harms
      have hled := (arm_leads h hx hfine hmay htag hgl (v := posting (s.withCounter (s.counterOwner ((x s o.a).toNat % 128))
        ((x s o.a).toNat % 128) (armed o s (s.counterAt ((x s o.a).toNat % 128)) (!atThreshold (s.counterAt ((x s o.a).toNat % 128)))))
        [.counterFire (s.counterOwner ((x s o.a).toNat % 128)) ((x s o.a).toNat % 128)]) harms (self_withCounter ..)).1
      rw [hat] at hled
      simpa only [armed, decide_not, decide_eq_true hfires, Bool.not_true] using hled
    · have hat : atThreshold (s.counterAt ((x s o.a).toNat % 128)) = false := Bool.eq_false_iff.mpr fun e => hlow ((atThreshold_iff _).mp e)
      have harms := armCounter_arms (o := o) (s := s) (t := s.self.begun (armDesc o)) (n := (x s o.a).toNat % 128) hbit
      rw [hat, if_neg Bool.false_ne_true] at harms
      obtain ⟨hled, hrun⟩ := arm_leads h hx hfine hmay htag hgl harms (self_withCounter ..)
      refine ⟨by simpa only [armed, decide_eq_true hlow, Bool.not_false] using hled, fun t ht => ?_⟩
      rw [Host.Outcome.next.inj (ht.symm.trans hrun)]
      obtain ⟨h1, h2, h3, h4, h5⟩ := counterAt_armed _ s (armDesc o) ((x s o.a).toNat % 128) _
        ((counterAt_withSelf _ (s.self.begun (armDesc o)) _).trans (counterAt_withCounter s _ (armed o s (s.counterAt ((x s o.a).toNat % 128)) true)))
      exact ⟨h1, h2, h3, h4, h5⟩

/-! ## Firing (R385) -/

/-- The counter that fires. -/
def firing (s : State) (owner n : Nat) : Counter :=
  if n < 8 then lookupD Counter.zero (s.core owner).counters n
  else if n < 40 then lookupD Counter.zero (s.die owner).counters (n - 8)
  else lookupD Counter.zero s.units.counters (n - 40)

/-- Without a handle no guard task is pushed. -/
theorem guardTask_none {die : Nat} {c : Counter} (h : c.handle.tag = false) (s : State) : guardTask die c s = .ok false s := by
  unfold guardTask
  rw [M.bind_ok (M.get_run s), h]
  rfl

/-- What becomes of a counter that fires, if a guard task is not pushed. -/
def fireStrand (owner n : Nat) (c : Counter) (done : Bool) : M Unit :=
  if done then pure ()
  else do
    let t ← getStrand c.sid
    if t.live then modStrand c.sid fun t => t.interrupt cGuard (BitVec.ofNat 64 n)
    else modify fun s => s.withCounter owner n { c with lost := true }

theorem fireCounter_none {s : State} {owner n : Nat} (h : (firing s owner n).handle.tag = false) :
    fireCounter owner n s = fireStrand owner n (firing s owner n) false s := by
  have hrun : fireCounter owner n s = (do
      let done ← guardTask (if n < 8 then owner / 512 else if n < 40 then owner else 0) (firing s owner n)
      fireStrand owner n (firing s owner n) done : M Unit) s := rfl
  rw [hrun, M.bind_ok (guardTask_none h s)]

theorem countersFire : CountersFire := by
  intro s owner n _ hnow
  have hx : exec .counterFire s = runEvent (fireCounter owner n) s := by
    change execCounterFire s = _
    unfold execCounterFire
    rw [hnow]
  refine ⟨fun htag hlive => happens_runEvent hx ?_, fun htag hlive => happens_runEvent hx ?_⟩ <;>
    rw [fireCounter_none htag, fireStrand, if_neg Bool.false_ne_true, M.bind_ok (getStrand_run _ _)]
  · rw [if_pos (show (s.strand (firing s owner n).sid).live = true from hlive)]; rfl
  · rw [if_neg (by rw [show (s.strand (firing s owner n).sid).live = false from hlive]; exact Bool.false_ne_true)]; rfl

end Sys2Proof.Claims
end

section
/-! SUPPORT. Ranges of memory of this package that span pages, read and written at their homes (R74, R77, R108). -/

namespace Sys2Proof.Claims

open Sys2Proof.Machine

/-! ## A core that holds no line -/

/-- A state in which memory, wake flags and the home slices may have changed, and nothing else that shows. -/
structure Poured (s t : State) : Prop where
  only : ∃ M T S L C, t = { s with mem := M, tags := T, strands := S, units := { s.units with l2 := L }, cores := C }
  core : ∀ c, t.core c = s.core c
  wakes : ∀ b, ∃ w, t.strand b = wokenIf (s.strand b) w
  partials : NoPartials s → NoPartials t

namespace Poured

theorem refl (s : State) : Poured s s := ⟨⟨_, _, _, _, _, rfl⟩, fun _ => rfl, memRel_wakes.refl s, id⟩

variable {s t u : State} (h : Poured s t)
include h

theorem trans (h' : Poured t u) : Poured s u := by
  obtain ⟨⟨M, T, S, L, C, he⟩, hcore, hwakes, hpart⟩ := h
  obtain ⟨⟨M', T', S', L', C', he'⟩, hcore', hwakes', hpart'⟩ := h'
  refine ⟨⟨M', T', S', L', C', ?_⟩, fun c => (hcore' c).trans (hcore c), memRel_wakes.trans hwakes hwakes', fun hs => hpart' (hpart hs)⟩
  rw [he', he]

theorem cur : t.cur = s.cur := by obtain ⟨_, _, _, _, _, rfl⟩ := h.only; rfl
theorem pkg : t.pkg = s.pkg := by obtain ⟨_, _, _, _, _, rfl⟩ := h.only; rfl
theorem tlb : t.tlb = s.tlb := by obtain ⟨_, _, _, _, _, rfl⟩ := h.only; rfl
theorem agenda : t.agenda = s.agenda := by obtain ⟨_, _, _, _, _, rfl⟩ := h.only; rfl
theorem badAt (a : Nat) : t.badAt a = s.badAt a := by obtain ⟨_, _, _, _, _, rfl⟩ := h.only; rfl
theorem colonies : t.units.colonies = s.units.colonies := by obtain ⟨_, _, _, _, _, rfl⟩ := h.only; rfl

theorem self : ∃ w, t.self = wokenIf s.self w := by
  obtain ⟨w, hw⟩ := h.wakes s.cur
  exact ⟨w, by rw [State.self, h.cur]; exact hw⟩

end Poured

/-- A state in which only cores may be written otherwise than before, and none differs. -/
structure Peeked (s t : State) : Prop where
  only : ∃ C, t = { s with cores := C }
  core : ∀ c, t.core c = s.core c
  partials : NoPartials s → NoPartials t

namespace Peeked

theorem refl (s : State) : Peeked s s := ⟨⟨_, rfl⟩, fun _ => rfl, id⟩

variable {s t u : State} (h : Peeked s t)
include h

theorem trans (h' : Peeked t u) : Peeked s u := by
  obtain ⟨⟨C, he⟩, hcore, hpart⟩ := h
  obtain ⟨⟨C', he'⟩, hcore', hpart'⟩ := h'
  exact ⟨⟨C', by rw [he', he]⟩, fun c => (hcore' c).trans (hcore c), fun hs => hpart' (hpart hs)⟩

theorem mem : t.mem = s.mem := by obtain ⟨_, rfl⟩ := h.only; rfl
theorem cur : t.cur = s.cur := by obtain ⟨_, rfl⟩ := h.only; rfl
theorem pkg : t.pkg = s.pkg := by obtain ⟨_, rfl⟩ := h.only; rfl
theorem tlb : t.tlb = s.tlb := by obtain ⟨_, rfl⟩ := h.only; rfl
theorem units : t.units = s.units := by obtain ⟨_, rfl⟩ := h.only; rfl
theorem self : t.self = s.self := by obtain ⟨_, rfl⟩ := h.only; rfl
theorem badAt (a : Nat) : t.badAt a = s.badAt a := by obtain ⟨_, rfl⟩ := h.only; rfl

theorem elsewhere : Elsewhere s t := by
  have hcore := h.core
  obtain ⟨C, rfl⟩ := h.only
  exact ⟨fun _ _ => rfl, fun c => by rw [hcore c]; exact ⟨rfl, rfl, rfl, rfl, rfl⟩, ⟨[], (List.append_nil _).symm, by simp⟩, rfl⟩

end Peeked

theorem poured_homePut {s : State} {a : Nat} {bs : List Byte} (hbad : ∀ i < bs.length, s.badAt (a + i) = 0) : Poured s (s.homePut a bs) := by
  obtain ⟨M, T, S, L, he⟩ := putOnly_homePut hbad
  have hcores : (s.homePut a bs).cores = s.cores := by rw [he]
  exact ⟨⟨M, T, S, L, s.cores, he⟩, fun c => congrArg (lookupD _ · c) hcores, memRel_wakes.homePut s a bs, (putOnly_homePut hbad).noPartials⟩

/-- A core that holds no line has nothing to write back. -/
theorem writeBackLine_empty {s : State} {core : Nat} (h : (s.core core).lines = []) (line : Nat) : s.writeBackLine core line = s := by
  unfold State.writeBackLine
  simp only [h]
  rfl

/-- Dropping a line of a core that holds none. -/
theorem withoutLine {c : CoreState} (h : c.lines = []) (line : Nat) : { c with lines := storeAt L1Line.empty line L1Line.empty c.lines } = c := by
  obtain ⟨_, lines, _, _, _, _, _⟩ := c
  change lines = [] at h
  subst h
  rfl

theorem peeked_leaveLine {s : State} {core : Nat} (h : (s.core core).lines = []) (line : Nat) : Peeked s (s.leaveLine core line) := by
  have hdrop : s.leaveLine core line = s.withCore core (s.core core) := by
    unfold State.leaveLine
    rw [writeBackLine_empty h]
    exact congrArg (s.withCore core) (withoutLine h line)
  rw [hdrop]
  refine ⟨⟨_, rfl⟩, fun c => ?_, fun hs => noPartials_withCore hs rfl⟩
  by_cases hc : c = core
  · rw [hc, State.core_withCore_same]
  · exact State.core_withCore_ne _ _ _ _ hc

/-! ## Reads -/

/-- The lines of a range are left, where none is held. -/
theorem leaveLines_run {core : Nat} (ps : List (Nat × Nat)) {s : State} (h : (s.core core).lines = []) :
    ∃ t, (forIn ps PUnit.unit fun p _ => (do
      modify fun s => s.leaveLine core (p.1 / 128)
      pure (.yield PUnit.unit) : M (ForInStep PUnit))) s = .ok ⟨⟩ t ∧ Peeked s t :=
  forIn_preserves (fun p _ u hu =>
    ⟨u.leaveLine core (p.1 / 128), rfl, hu.trans (peeked_leaveLine (by rw [hu.core]; exact h) (p.1 / 128))⟩) (.refl s)

theorem firstBad_none {s : State} {a n : Nat} (h : ∀ i < n, s.badAt (a + i) = 0) : s.firstBad a n = none := by
  unfold State.firstBad
  rw [List.findSome?_eq_none_iff]
  intro i hi
  rw [if_neg]
  rw [h i (List.mem_range.mp hi)]
  simp

theorem bytesAt_congr {s u : State} (h : u.mem = s.mem) (a n : Nat) : u.bytesAt a n = s.bytesAt a n :=
  List.map_congr_left fun i _ => congrArg (lookupD 0 · (canon (a + i))) h

theorem cachedRead_plain {s : State} {a n : Nat} (hlines : (s.core (coreOf s.cur)).lines = []) (hpart : NoPartials s)
    (hbad : ∀ i < n, s.badAt (a + i) = 0) {m : Manner} (hscope : m.scope ≠ 1) (va : Nat) (nc : Bool) :
    ∃ t b, cachedRead va a n m nc s = .ok (s.bytesAt a n, b) t ∧ Peeked s t := by
  obtain ⟨t, hrun, hpeek⟩ := leaveLines_run (lineParts a n) hlines
  refine ⟨t, t.tagAt a, ?_, hpeek⟩
  have hcheck : checkSectors va a n t = .ok () t := by
    unfold checkSectors
    rw [firstBad_none fun i hi => (hpeek.badAt _).trans (hbad i hi)]
  unfold cachedRead
  rw [M.bind_ok (M.get_run s), if_neg (by simp [hscope]), M.bind_ok hrun, M.bind_ok hcheck, M.bind_ok (homeRead_run (hpeek.partials hpart) a n),
    M.bind_ok (M.get_run t), bytesAt_congr hpeek.mem]
  rfl

/-! ## Pages -/

/-- The mapping of a range is plain: each byte lies in this package, at its place behind `a`. -/
def PlainRange (s : State) (tenant : BitVec 12) (va : Nat) (perm : BitVec 12) (n a : Nat) : Prop :=
  ∀ j < n, cacheable (a + j) ∧ s.badAt (a + j) = 0 ∧
    ∃ p e, Maps s tenant (va + j) perm p e ∧ pkgOf p = s.pkg ∧ localOf p = a + j ∧ pteM e = false

/-- The pieces of a range from `lo` on: address, length, place and entry of each, without gaps. -/
def Pieces (pkg va a hi : Nat) : Nat → List (Nat × Nat × Nat × Word) → Prop
  | lo, [] => lo = hi
  | lo, q :: ps => q.1 = lo ∧ 0 < q.2.1 ∧ lo + q.2.1 ≤ hi ∧ pkgOf q.2.2.1 = pkg ∧ localOf q.2.2.1 = a + (lo - va) ∧ pteM q.2.2.2 = false ∧
    Pieces pkg va a hi (lo + q.2.1) ps

theorem translatePages_run {s u : State} (hcur : u.cur = s.cur) (htlb : u.tlb = s.tlb) {tenant : BitVec 12} {va n a : Nat} {perm : BitVec 12}
    (h : PlainRange s tenant va perm n a) (fuel : Nat) : ∀ lo, va ≤ lo → lo ≤ va + n → va + n ≤ lo / 65536 * 65536 + fuel * 65536 ∨ lo = va + n →
    ∃ ps, translatePages tenant perm (va + n) fuel lo u = .ok ps u ∧ Pieces s.pkg va a (va + n) lo ps := by
  induction fuel with
  | zero => exact fun lo hlo hhi hfuel => ⟨[], rfl, show lo = va + n by omega⟩
  | succ fuel ih =>
    intro lo hlo hhi hfuel
    have hnext : ∃ next, next = min (va + n) ((lo / 65536 + 1) * 65536) := ⟨_, rfl⟩
    obtain ⟨next, hnext⟩ := hnext
    rw [translatePages, ← hnext]
    by_cases hend : lo ≥ va + n
    · exact ⟨[], by rw [if_pos hend]; rfl, show lo = va + n by omega⟩
    obtain ⟨-, -, p, e, hmaps, hpkg, hloc, hm⟩ := h (lo - va) (by omega)
    rw [Nat.add_sub_of_le hlo] at hmaps
    have hfuel' : va + n ≤ next / 65536 * 65536 + fuel * 65536 ∨ next = va + n := by
      rw [Nat.succ_mul] at hfuel
      rcases Nat.le_total (va + n) ((lo / 65536 + 1) * 65536) with hlast | hmore
      · exact .inr (hnext.trans (Nat.min_eq_left hlast))
      · rw [hnext, Nat.min_eq_right hmore, Nat.mul_div_cancel _ (by decide)]
        exact .inl (by omega)
    obtain ⟨ps, hps, hpieces⟩ := ih next (by omega) (by omega) hfuel'
    have hpos : 0 < next - lo := by omega
    have hle : lo + (next - lo) ≤ va + n := by omega
    refine ⟨(lo, next - lo, p, e) :: ps, ?_, rfl, hpos, hle, hpkg, hloc, hm, ?_⟩
    · rw [if_neg hend, M.bind_ok (translate_run hcur htlb hmaps)]
      exact (M.bind_ok hps).trans rfl
    · rw [show lo + (next - lo) = next by omega]
      exact hpieces

theorem translateRange_run {s u : State} (hcur : u.cur = s.cur) (htlb : u.tlb = s.tlb) {tenant : BitVec 12} {va n a : Nat} {perm : BitVec 12}
    (h : PlainRange s tenant va perm n a) : ∃ ps, translateRange tenant va n perm u = .ok ps u ∧ Pieces s.pkg va a (va + n) va ps :=
  translatePages_run hcur htlb h _ va (Nat.le_refl _) (by omega) (by omega)

/-- A mapping for more rights is one for fewer. -/
theorem PlainRange.weaken {s : State} {tenant : BitVec 12} {va n a : Nat} {perm perm' : BitVec 12} (h : PlainRange s tenant va perm n a)
    (hgrants : ∀ e, pteGrants e perm = true → pteGrants e perm' = true)
    (hwrites : perm' &&& (Cap.st ||| Cap.sc ||| Cap.atm) ≠ 0 → perm &&& (Cap.st ||| Cap.sc ||| Cap.atm) ≠ 0) :
    PlainRange s tenant va perm' n a := by
  intro j hj
  obtain ⟨hplace, hbad, p, e, ⟨t, hhas, he, hp, hg, hd⟩, hrest⟩ := h j hj
  exact ⟨hplace, hbad, p, e, ⟨t, hhas, he, hp, hgrants e hg, fun hw => hd (hwrites hw)⟩, hrest⟩

/-- Time and wake flags do not change a mapping. -/
theorem PlainRange.of_same {s u : State} {tenant : BitVec 12} {va n a : Nat} {perm : BitVec 12} (h : PlainRange s tenant va perm n a)
    (hcur : u.cur = s.cur) (htlb : u.tlb = s.tlb) (hpkg : u.pkg = s.pkg) (hbad : ∀ b, u.badAt b = s.badAt b) :
    PlainRange u tenant va perm n a := by
  intro j hj
  obtain ⟨hplace, hb, p, e, ⟨t, ⟨hfind, hv⟩, hrest⟩, hp, hl⟩ := h j hj
  refine ⟨hplace, (hbad _).trans hb, p, e, ⟨t, ⟨?_, hv⟩, hrest⟩, hp.trans hpkg.symm, hl⟩
  rw [← hfind, hcur]
  simp only [State.tlbFind, htlb]

/-! ## Writes -/

/-- A loop whose body changes nothing. -/
theorem forIn_fixed {α : Type} {f : α → PUnit → M (ForInStep PUnit)} {s : State} {ps : List α}
    (h : ∀ p ∈ ps, f p ⟨⟩ s = .ok (.yield ⟨⟩) s) : forIn ps PUnit.unit f s = .ok ⟨⟩ s := by
  induction ps with
  | nil => rfl
  | cons p ps ih =>
    rw [List.forIn_cons, M.bind_ok (h p List.mem_cons_self)]
    exact ih fun q hq => h q (List.mem_cons_of_mem _ hq)

theorem writeBackLines_run {core : Nat} (ps : List (Nat × Nat)) {s : State} (h : (s.core core).lines = []) :
    (forIn ps PUnit.unit fun p _ => (do
      modify fun s => s.writeBackLine core (p.1 / 128)
      pure (.yield PUnit.unit) : M (ForInStep PUnit))) s = .ok ⟨⟩ s := by
  refine forIn_fixed fun p _ => ?_
  rw [M.bind_ok (M.modify_run ..), writeBackLine_empty h]
  rfl

/-- A core that holds no line holds no bytes. -/
theorem l1Holds_empty {s : State} {core : Nat} (h : (s.core core).lines = []) (a : Nat) {n : Nat} (hn : 0 < n) : s.l1Holds core a n = false := by
  unfold State.l1Holds
  rw [h, Bool.eq_false_iff]
  intro hcovers
  unfold L1Line.covers at hcovers
  rw [Bool.and_eq_true, List.all_eq_true] at hcovers
  have hin := hcovers.2 (a % 128 / 32) (List.mem_range.mpr (by omega))
  have hvalid : (lookupD L1Line.empty [] (a / 128)).valid.getLsbD (a % 128 / 32) = false := BitVec.getLsbD_zero
  rw [hvalid, Bool.or_false, Bool.or_eq_true, decide_eq_true_eq, decide_eq_true_eq] at hin
  omega

theorem throughCopy_run {s : State} {core : Nat} (h : (s.core core).lines = []) (a : Nat) (bs : List Byte) :
    throughCopy core a bs s = .ok () s := by
  unfold throughCopy
  refine (M.bind_ok (forIn_fixed fun p hp => ?_)).trans rfl
  have hlen := (mem_splitAt (by decide) hp).1
  rw [M.bind_ok (M.get_run s), l1Holds_empty h _ hlen]
  rfl

theorem storeBytes_plain {s : State} {p a : Nat} {e : Word} {bs : List Byte} (hpkg : pkgOf p = s.pkg) (hloc : localOf p = a) (he : pteM e = false)
    (hne : bs ≠ []) (hlines : (s.core (coreOf s.cur)).lines = []) (hpart : NoPartials s)
    (hplain : ∀ i < bs.length, cacheable (a + i) = true ∧ s.badAt (a + i) = 0) (va : Nat) {m : Manner} (hscope : m.scope ≠ 1) (tenant : BitVec 12) :
    ∃ t, storeBytes va p bs false m e tenant s = .ok () t ∧ Poured s t ∧ t.mem = (s.putBytes a bs).mem := by
  have hpos := List.length_pos_iff.mpr hne
  obtain ⟨hplace, -⟩ := hplain 0 hpos
  have hnot : ¬(decide (m.scope = 1) && !(pteNc e || pteM e)) = true := by simp [hscope]
  rw [storeBytes_local hpkg hloc he]
  have hcached : storeLocal va a bs false m e s = cachedWrite a bs false m (pteNc e || pteM e) s := by
    unfold storeLocal
    rw [M.bind_ok (M.get_run s)]
    rw [Nat.add_zero] at hplace
    unfold cacheable at hplace
    cases hp : place a with
    | dram => rfl
    | dieSpad d => rfl
    | _ => rw [hp] at hplace; exact absurd hplace Bool.false_ne_true
  rw [hcached, cachedWrite, M.bind_ok (M.get_run s), if_neg hnot, M.bind_ok (writeBackLines_run _ hlines), M.bind_ok (homeWrite_run hpart a bs)]
  have hbad : ∀ i < bs.length, s.badAt (a + i) = 0 := fun i hi => (hplain i hi).2
  have hpour := poured_homePut hbad
  refine ⟨s.homePut a bs, ?_, hpour, (mem_homePut hbad).1⟩
  rw [M.bind_ok (throughCopy_run (by rw [hpour.core]; exact hlines) a bs)]
  rfl

/-- The bytes of a piece of a range. -/
def pieceOf (va : Nat) (bs : List Byte) (q : Nat × Nat × Nat × Word) : List Byte := (bs.drop (q.1 - va)).take q.2.1

/-- The write of a piece. -/
def storePiece (tenant : BitVec 12) (va : Nat) (bs : List Byte) (m : Manner) (q : Nat × Nat × Nat × Word) (_ : PUnit) : M (ForInStep PUnit) := do
  storeBytes q.1 q.2.2.1 (pieceOf va bs q) false m q.2.2.2 tenant
  pure (.yield ⟨⟩)

theorem mem_putBytes_congr {s u : State} (h : u.mem = s.mem) (a : Nat) (bs : List Byte) : (u.putBytes a bs).mem = (s.putBytes a bs).mem := by
  induction bs generalizing s u a with
  | nil => exact h
  | cons b bs ih => exact ih (s := s.putByte a b) (u := u.putByte a b) (congrArg (storeAt 0 (canon a) b) h) (a + 1)

/-- The pieces of a range are written one after another. -/
theorem writePieces_run {tenant : BitVec 12} {va a : Nat} {bs : List Byte} {m : Manner} (hscope : m.scope ≠ 1) (ps : List (Nat × Nat × Nat × Word)) :
    ∀ {s : State} {lo : Nat}, va ≤ lo → Pieces s.pkg va a (va + bs.length) lo ps → (s.core (coreOf s.cur)).lines = [] → NoPartials s →
    (∀ i < bs.length, cacheable (a + i) = true ∧ s.badAt (a + i) = 0) →
    ∃ t, forIn ps PUnit.unit (storePiece tenant va bs m) s = .ok ⟨⟩ t ∧ Poured s t ∧ t.mem = (s.putBytes (a + (lo - va)) (bs.drop (lo - va))).mem := by
  induction ps with
  | nil =>
    intro s lo hlo hend _ _ _
    have hend : lo = va + bs.length := hend
    refine ⟨s, rfl, .refl s, ?_⟩
    rw [List.drop_eq_nil_of_le (by omega)]
    rfl
  | cons q ps ih =>
    rintro s lo hlo ⟨hq, hpos, hhi, hpkg, hloc, he, hrest⟩ hlines hpart hplain
    have hlen : (pieceOf va bs q).length = q.2.1 := by
      rw [pieceOf, List.length_take, List.length_drop]
      omega
    obtain ⟨u, hrun, hpour, hmem⟩ := storeBytes_plain (m := m) (tenant := tenant) (va := q.1) hpkg hloc he
      (List.length_pos_iff.mp (hlen ▸ hpos)) hlines hpart (fun i hi => by
        rw [hlen] at hi
        rw [Nat.add_assoc]
        exact hplain _ (by omega)) hscope
    obtain ⟨t, hloop, hpour', hmem'⟩ := ih (s := u) (lo := lo + q.2.1) (by omega) (hpour.pkg.symm ▸ hrest)
      (by rw [hpour.core, hpour.cur]; exact hlines) (hpour.partials hpart) (fun i hi => by rw [hpour.badAt]; exact hplain i hi)
    refine ⟨t, ?_, hpour.trans hpour', ?_⟩
    · have hstep : storePiece tenant va bs m q ⟨⟩ s = .ok (.yield ⟨⟩) u := (M.bind_ok hrun).trans rfl
      rw [List.forIn_cons, M.bind_ok hstep]
      exact hloop
    · have hsplit := putBytes_append s (a + (lo - va)) (pieceOf va bs q) (bs.drop (lo + q.2.1 - va))
      have hbytes : pieceOf va bs q ++ bs.drop (lo + q.2.1 - va) = bs.drop (lo - va) := by
        rw [pieceOf, hq, show lo + q.2.1 - va = (lo - va) + q.2.1 by omega, ← List.drop_drop, List.take_append_drop]
      rw [hbytes, hlen, show a + (lo - va) + q.2.1 = a + (lo + q.2.1 - va) by omega] at hsplit
      rw [hmem', hsplit]
      exact mem_putBytes_congr hmem _ _

/-- R77, R108: a range of memory is written where it lies. -/
theorem writeRange_run {s : State} {c : Reg} {bs : List Byte} {a : Nat} {m : Manner} (hord : m.ord = 0) (hscope : m.scope ≠ 1) (scope : Nat)
    (hcheck : checkFault s c Cap.st [Cap.kMemory] bs.length = none) (hplain : PlainRange s (Cap.tenant c.val) (Cap.cursor c.val) Cap.st bs.length a)
    (hlines : (s.core (coreOf s.cur)).lines = []) (hpart : NoPartials s) :
    ∃ t, writeRange c bs m scope s = .ok () t ∧ Poured s t ∧ t.mem = (s.putBytes a bs).mem := by
  have hcap : checkCap c Cap.st [Cap.kMemory] bs.length s = .ok () s := by
    rw [checkCap_run rfl, checkOutcome, hcheck]
  have hrelease : ordRelease m.ord scope s = .ok () s := by rw [hord]; rfl
  obtain ⟨ps, hps, hpieces⟩ := translateRange_run (u := s) rfl rfl hplain
  obtain ⟨t, hloop, hpour, hmem⟩ := writePieces_run (tenant := Cap.tenant c.val) hscope ps (Nat.le_refl _) hpieces hlines hpart
    fun i hi => ⟨(hplain i hi).1, (hplain i hi).2.1⟩
  rw [Nat.sub_self, List.drop_zero, Nat.add_zero] at hmem
  refine ⟨t, ?_, hpour, hmem⟩
  unfold writeRange
  rw [M.bind_ok hcap, M.bind_ok hps, M.bind_ok hrelease]
  exact (M.bind_ok hloop).trans rfl

/-! ## Reads of ranges -/

/-- The read of a piece. -/
def loadPiece (tenant : BitVec 12) (m : Manner) (q : Nat × Nat × Nat × Word) : M (List Byte) := do
  let (bs, _) ← loadBytes q.1 q.2.2.1 q.2.1 m q.2.2.2 tenant
  pure bs

/-- The pieces of a range are read one after another. -/
theorem readPieces_run {tenant : BitVec 12} {va n a : Nat} {m : Manner} (hscope : m.scope ≠ 1) (ps : List (Nat × Nat × Nat × Word)) :
    ∀ {s : State} {lo : Nat}, va ≤ lo → Pieces s.pkg va a (va + n) lo ps → (s.core (coreOf s.cur)).lines = [] → NoPartials s →
    (∀ i < n, cacheable (a + i) = true ∧ s.badAt (a + i) = 0) →
    ∃ bss t, ps.mapM (loadPiece tenant m) s = .ok bss t ∧ Peeked s t ∧ bss.flatten = s.bytesAt (a + (lo - va)) (va + n - lo) := by
  induction ps with
  | nil =>
    intro s lo hlo hend _ _ _
    have hend : lo = va + n := hend
    exact ⟨[], s, rfl, .refl s, by rw [hend, Nat.sub_self]; rfl⟩
  | cons q ps ih =>
    rintro s lo hlo ⟨hq, hpos, hhi, hpkg, hloc, he, hrest⟩ hlines hpart hplain
    obtain ⟨u, b, hread, hpeek⟩ := cachedRead_plain (n := q.2.1) (a := a + (lo - va)) hlines hpart
      (fun i hi => by rw [Nat.add_assoc]; exact (hplain _ (by omega)).2) hscope q.1 (pteNc q.2.2.2)
    have hload := (loadBytes_cached hpkg hloc he (hplain (lo - va) (by omega)).1 q.1 m tenant).trans hread
    obtain ⟨bss, t, hloop, hpeek', hbytes⟩ := ih (s := u) (lo := lo + q.2.1) (by omega) (hpeek.pkg.symm ▸ hrest)
      (by rw [hpeek.core, hpeek.cur]; exact hlines) (hpeek.partials hpart) (fun i hi => by rw [hpeek.badAt]; exact hplain i hi)
    refine ⟨s.bytesAt (a + (lo - va)) q.2.1 :: bss, t, ?_, hpeek.trans hpeek', ?_⟩
    · have hstep : loadPiece tenant m q s = .ok (s.bytesAt (a + (lo - va)) q.2.1) u := (M.bind_ok hload).trans rfl
      rw [List.mapM_cons, M.bind_ok hstep, M.bind_ok hloop]
      rfl
    · rw [List.flatten_cons, hbytes, bytesAt_congr hpeek.mem, show a + (lo + q.2.1 - va) = a + (lo - va) + q.2.1 by omega, bytesAt_append]
      congr 1
      omega

/-- R77, R108: a range of memory is read where it lies. -/
theorem readRange_run {s : State} {c : Reg} {n a : Nat} {m : Manner} (hscope : m.scope ≠ 1)
    (hcheck : checkFault s c Cap.ld [Cap.kMemory] n = none) (hplain : PlainRange s (Cap.tenant c.val) (Cap.cursor c.val) Cap.ld n a)
    (hlines : (s.core (coreOf s.cur)).lines = []) (hpart : NoPartials s) :
    ∃ t, readRange c n m s = .ok (s.bytesAt a n) t ∧ Peeked s t := by
  have hcap : checkCap c Cap.ld [Cap.kMemory] n s = .ok () s := by
    rw [checkCap_run rfl, checkOutcome, hcheck]
  obtain ⟨ps, hps, hpieces⟩ := translateRange_run (u := s) rfl rfl hplain
  obtain ⟨bss, t, hloop, hpeek, hbytes⟩ := readPieces_run (tenant := Cap.tenant c.val) hscope ps (Nat.le_refl _) hpieces hlines hpart
    fun i hi => ⟨(hplain i hi).1, (hplain i hi).2.1⟩
  rw [Nat.sub_self, Nat.add_zero, Nat.add_sub_cancel_left] at hbytes
  refine ⟨t, ?_, hpeek⟩
  unfold readRange
  rw [M.bind_ok hcap, M.bind_ok hps, ← hbytes]
  exact (M.bind_ok hloop).trans rfl

end Sys2Proof.Claims
end

section
/-! PROOF. O48: dirty-page logs (R388). -/

namespace Sys2Proof.Claims

open Sys2Proof.Machine

/-! ## Checks -/

/-- Rights that a capability lacks stay lacking where more is asked for. -/
theorem checkFault_weaken {s : State} {c : Reg} {perm perm' : BitVec 12} {kinds : List Nat} {n : Nat} (hsub : perm' ||| perm = perm)
    (h : checkFault s c perm kinds n = none) : checkFault s c perm' kinds n = none := by
  have hperm (p : BitVec 12) (hp : perm &&& p = 0) : perm' &&& p = 0 := by
    rw [← hsub] at hp
    refine BitVec.eq_of_getLsbD_eq fun i _ => ?_
    have hbit := congrArg (BitVec.getLsbD · i) hp
    simp only [BitVec.getLsbD_and, BitVec.getLsbD_or, BitVec.getLsbD_zero] at hbit ⊢
    cases hset : perm'.getLsbD i
    · exact BitVec.getLsbD_zero.symm
    · rwa [hset, Bool.true_or] at hbit
  unfold checkFault at h ⊢
  split at h
  · exact absurd h (Option.some_ne_none _)
  next htag =>
  split at h
  · exact absurd h (Option.some_ne_none _)
  next htenant =>
  split at h
  · exact absurd h (Option.some_ne_none _)
  next hkind =>
  rw [if_neg htag, if_neg htenant, if_neg fun e => hkind (e.imp_right fun hlack hp => hlack (hperm _ hp))]
  exact h

/-- The log instructions' operand. -/
def LogIll (o : OpRR) (s : State) : Prop := (x s o.a).toNat / 2 ^ 27 ≠ 0 ∨ (x s o.a).toNat / 4 % 2 ^ 14 ≠ 0

/-- What `dlog` is to the pipeline. -/
def logDesc (o : OpRR) : Desc := ⟨o.st, 0, .joint, [wBoth o.a, wSrc o.b]⟩

/-- The checks of `dlog`. -/
def logCheck (o : OpRR) : M Unit := do
  let w ← peekX o.a
  illIf (fieldAt w 27 37 ≠ 0 || fieldAt w 2 14 ≠ 0)
  needMode .hypervisor

/-- What `dlog` does with a colony's record: 0 or a reason. -/
def logAction (op id : Nat) (b : Reg) (c : Colony) : M Nat :=
  match op, c.log with
  | 1, _ => startLog id c b
  | 2, _ => do
    putColony id (some { c with log := none })
    pure okStatus
  | 3, some l => do
    leaveBitmap id c l
    pure okStatus
  | _, _ => pure okStatus

/-- The log of a colony. -/
def logOf (s : State) (id : Nat) : Option DirtyLog :=
  match s.colony id with
  | some c => c.log
  | none => none

/-- `dlog` tells the status behind its action. -/
def tellLog (o : OpRR) (id r : Nat) : M Unit := do
  let s ← get
  writeX o.a (if r = 0 then logStatus (logOf s id) else statusWord r)

/-- The operation of `dlog` behind its checks. -/
def logBody (o : OpRR) : M Unit := do
  let w ← readX 0 o.a
  let b ← readW 1 o.b
  let id := fieldAt w 16 11
  let s ← get
  match s.colony id with
  | none => writeX o.a (statusWord noColony)
  | some c => do
    let r ← match fieldAt w 0 2, c.log with
      | 1, _ => startLog id c b
      | 2, _ => do
        putColony id (some { c with log := none })
        pure okStatus
      | 3, some l => do
        leaveBitmap id c l
        pure okStatus
      | _, _ => pure okStatus
    tellLog o id r

theorem dlog_eq (o : OpRR) (s : State) : dlog o s = runPriv (logDesc o) (logCheck o) (logBody o) s := rfl

section

variable {o : OpRR} {s : State} {ins : Instr} (h : Issues s [o.a, o.b]) (hx : exec ins s = dlog o s)

theorem logIll_iff : (fieldAt (x s o.a) 27 37 ≠ 0 || fieldAt (x s o.a) 2 14 ≠ 0) = true ↔ LogIll o s := by
  rw [fieldAt_top _ (show 27 + 37 = 64 from rfl), fieldAt_eq]
  simp [LogIll]

include h

theorem logCheck_eq (hfine : ¬LogIll o s) : logCheck o s = needMode .hypervisor s := by
  unfold logCheck
  rw [M.bind_ok (h.peekX_run (by simp)), M.bind_ok (illIf_of_not (Bool.eq_false_iff.mpr fun e => hfine (logIll_iff.mp e)) s)]

theorem clear_log : s.self.Clear (logDesc o).regs := h.clear (by simp [logDesc, wBoth, wSrc])

include hx

/-- R388: what stops `dlog`. -/
theorem dlog_traps : (LogIll o s → Traps ins s cIll s.self.illValue) ∧
    (¬LogIll o s → s.self.mode ≠ .hypervisor → Traps ins s cPriv s.self.illValue) := by
  have hx := hx.trans (dlog_eq o s)
  refine ⟨fun hill => traps_of_priv hx ?_ h.1 (by decide), fun hfine hm => traps_of_priv hx ?_ h.1 (by decide)⟩
  · unfold logCheck
    rw [M.bind_ok (h.peekX_run (by simp)), M.bind_error (illIf_of (logIll_iff.mpr hill) s)]
  · exact (logCheck_eq h hfine).trans (needMode_low ((num_lt_hypervisor _).mpr hm))

omit hx in
/-- `dlog` on a colony's record. -/
theorem logBody_some {c : Colony} (hc : s.colony ((x s o.a).toNat / 2 ^ 16 % 2 ^ 11) = some c) :
    logBody o (s.withSelf (s.self.begun (logDesc o))) = (do
      let r ← logAction ((x s o.a).toNat % 2 ^ 2) ((x s o.a).toNat / 2 ^ 16 % 2 ^ 11) (w s o.b) c
      tellLog o ((x s o.a).toNat / 2 ^ 16 % 2 ^ 11) r : M Unit) (s.withSelf (s.self.begun (logDesc o))) := by
  have hcol : (s.withSelf (s.self.begun (logDesc o))).colony ((x s o.a).toNat / 2 ^ 16 % 2 ^ 11) = some c := hc
  unfold logBody
  rw [M.bind_ok (h.readX_begun _ 0 (by simp)), M.bind_ok (h.readW_begun _ 1 (by simp)), fieldAt_eq _ 16 11, fieldAt_low,
    M.bind_ok (M.get_run _), hcol]
  dsimp only [logAction]
  generalize (x s o.a).toNat % 2 ^ 2 = op
  generalize c.log = log
  rcases op with _ | _ | _ | _ | op <;> cases log <;> simp only [bind_assoc, pure_bind]

variable (hfine : ¬LogIll o s) (hmode : s.self.mode = .hypervisor)
include hfine hmode

theorem logCheck_passes : logCheck o s = .ok () s :=
  (logCheck_eq h hfine).trans (needMode_ok ((not_congr (num_lt_hypervisor _)).mpr (not_not_intro hmode)))

/-- `dlog` whose operation changes nothing that shows beside a state `v`, and then writes its register. -/
theorem dlog_leads {v y : State} {r : Reg} (hbody : logBody o (s.withSelf (s.self.begun (logDesc o))) = writeW o.a r y)
    (honly : OnlySelf v (s.self.begun (logDesc o)) y) (hself : v.self = s.self) :
    Leads ins s (v.withSelf (v.self.putW o.a.toNat r)) := by
  rw [writeW_run, honly.self] at hbody
  rw [hself]
  exact leads_of_runPriv (hx.trans (dlog_eq o s)) Steer.noConfusion (logCheck_passes h hx hfine hmode) (clear_log h) hbody (honly.withSelf _)
    rfl rfl rfl rfl rfl rfl

/-- `dlog` on a colony whose record its action leaves as it is, or changes without touching anything else that shows. -/
theorem dlog_acts {c : Colony} (hc : s.colony ((x s o.a).toNat / 2 ^ 16 % 2 ^ 11) = some c) {v y : State} {r : Nat}
    (hact : logAction ((x s o.a).toNat % 2 ^ 2) ((x s o.a).toNat / 2 ^ 16 % 2 ^ 11) (w s o.b) c (s.withSelf (s.self.begun (logDesc o))) = .ok r y)
    (honly : OnlySelf v (s.self.begun (logDesc o)) y) (hself : v.self = s.self) {told : Word}
    (htold : (if r = 0 then logStatus (logOf y ((x s o.a).toNat / 2 ^ 16 % 2 ^ 11)) else statusWord r) = told) :
    Leads ins s (v.withSelf (v.self.putW o.a.toNat (Reg.ofWord told))) := by
  refine dlog_leads h hx hfine hmode ?_ honly hself
  rw [logBody_some h hc, M.bind_ok hact, tellLog, M.bind_ok (M.get_run y), htold]
  rfl

end

/-! ## Starting a log -/

theorem logStatus_some (l : DirtyLog) : logStatus (some l) = BitVec.ofNat 64 (2 ^ 63 + (if l.overflowed then 2 ^ 62 else 0) + l.wp % 2 ^ 32) := rfl

theorem drop_bytesAt (s : State) (a k n : Nat) : (s.bytesAt a (k + n)).drop k = s.bytesAt (a + k) n := by
  rw [← bytesAt_append, List.drop_left' (length_bytesAt ..)]

theorem take_bytesAt (s : State) (a k n : Nat) : (s.bytesAt a (k + n)).take k = s.bytesAt a k := by
  rw [← bytesAt_append, List.take_left' (length_bytesAt ..)]

/-- The log that the header at `a` describes. -/
def headedLog (s : State) (b : Reg) (a : Nat) : DirtyLog :=
  { cap := b, wp := leNat (s.bytesAt a 8), overflowed := decide (s.byteAt (a + 20) % 2 = 1), raised := decide (s.byteAt (a + 20) % 2 = 1) }

/-- The number of entries of a log's ring. -/
def logEntries (s : State) (a : Nat) : Nat := leNat (s.bytesAt (a + 16) 4)

theorem pteGrants_both {e : Word} (h : pteGrants e (Cap.ld ||| Cap.st) = true) : pteGrants e Cap.ld = true := by
  unfold pteGrants at h ⊢
  revert h
  generalize pteR e = r
  generalize pteW e = w
  generalize pteX e = x
  generalize pteAt e = t
  revert r w x t
  decide

theorem Stretch.plain {s : State} {c : Reg} {perm : BitVec 12} {n a : Nat} (h : Stretch s c perm n a) :
    PlainRange s (Cap.tenant c.val) (Cap.cursor c.val) perm n a := h.2.2.2

/-- Another state in which the access checks, the translations and the memory's state are the same. -/
theorem Stretch.of_same {s u : State} {c : Reg} {perm : BitVec 12} {n a : Nat} (h : Stretch s c perm n a) (hid : u.self.identity = s.self.identity)
    (hcur : u.cur = s.cur) (htlb : u.tlb = s.tlb) (hpkg : u.pkg = s.pkg) (hbad : ∀ b, u.badAt b = s.badAt b)
    (hcore : ∀ c, u.core c = s.core c) (hpart : NoPartials u) : Stretch u c perm n a := by
  obtain ⟨hcheck, hlines, -, hplain⟩ := h
  have hmode : (u.self.mode ≠ .hypervisor ∧ Cap.tenant c.val ≠ u.self.tid) = (s.self.mode ≠ .hypervisor ∧ Cap.tenant c.val ≠ s.self.tid) := by
    obtain ⟨hm, ht⟩ := Identity.mk.inj hid
    have hm : (u.self.mode = .hypervisor) ↔ (s.self.mode = .hypervisor) := by simpa using hm
    rw [ht, Ne, hm]
  refine ⟨?_, by rw [hcore, hcur]; exact hlines, hpart, PlainRange.of_same hplain hcur htlb hpkg hbad⟩
  unfold checkFault at hcheck ⊢
  simp only [hmode]
  exact hcheck

/-- The check of R77 passes where it finds no fault. -/
theorem checkCap_ok {u : State} {c : Reg} {perm : BitVec 12} {kinds : List Nat} {n : Nat} (h : checkFault u c perm kinds n = none) :
    checkCap c perm kinds n u = .ok () u := by
  rw [checkCap_run rfl, checkOutcome, h]

section

variable {u : State} {b : Reg} {a num : Nat} {c : Colony} (hhead : Stretch u b (Cap.ld ||| Cap.st) 24 a) (hpage : Cap.cursor b.val % 65536 = 0)
include hhead hpage

/-- R388: the header is read. -/
theorem startLog_eq : ∃ t, Peeked u t ∧ startLog num c b u = (if logEntries u a = 0 || logEntries u a > 2 ^ 20 || 2 ^ Nat.log2 (logEntries u a) ≠ logEntries u a then
      pure malformed
    else do
      checkCap b (Cap.ld ||| Cap.st) [Cap.kMemory] (64 + 524288 + 8 * logEntries u a)
      let _ ← translateRange (Cap.tenant b.val) (Cap.cursor b.val) (64 + 524288 + 8 * logEntries u a) (Cap.ld ||| Cap.st)
      putColony num (some { c with log := some (headedLog u b a) })
      pure okStatus : M Nat) t := by
  obtain ⟨hcheck, hlines, hpart, hplain⟩ := id hhead
  obtain ⟨t, hread, hpeek⟩ := readRange_run (m := ⟨0, 4, false, 0⟩) (by decide) (checkFault_weaken (perm' := Cap.ld) (by decide) hcheck)
    (PlainRange.weaken hplain (fun _ => pteGrants_both) (by decide)) hlines hpart
  have hsize : leNat (((u.bytesAt a 24).drop 16).take 4) = logEntries u a := by
    rw [drop_bytesAt u a 16 8, take_bytesAt u (a + 16) 4 4]; rfl
  have hwp : leNat ((u.bytesAt a 24).take 8) = leNat (u.bytesAt a 8) := by rw [take_bytesAt u a 8 16]
  have hbeyond : decide (leNat (((u.bytesAt a 24).drop 20).take 1) % 2 = 1) = decide (u.byteAt (a + 20) % 2 = 1) := by
    rw [drop_bytesAt u a 20 4, take_bytesAt u (a + 20) 1 3]
    have hone : leNat (u.bytesAt (a + 20) 1) = (u.byteAt (a + 20)).toNat := by
      change (u.byteAt (a + 20 + 0)).toNat + 256 * 0 = _
      rw [Nat.mul_zero]
      rfl
    rw [hone]
    refine decide_eq_decide.mpr ?_
    rw [← BitVec.toNat_inj, BitVec.toNat_umod]
    rfl
  refine ⟨t, hpeek, ?_⟩
  unfold startLog
  rw [M.bind_ok (checkCap_ok hcheck), M.bind_ok (raiseIf_of_not (by simp [hpage]) ..), M.bind_ok hread]
  dsimp only
  rw [hsize, hwp, hbeyond]
  rfl

/-- R388: a header whose ring does not fit starts no log. -/
theorem startLog_malformed (hsize : logEntries u a = 0 ∨ 2 ^ 20 < logEntries u a ∨ 2 ^ Nat.log2 (logEntries u a) ≠ logEntries u a) :
    ∃ t, Peeked u t ∧ startLog num c b u = .ok malformed t := by
  obtain ⟨t, hpeek, hrun⟩ := startLog_eq (num := num) (c := c) hhead hpage
  refine ⟨t, hpeek, hrun.trans ?_⟩
  rw [if_pos (by simpa [or_assoc] using hsize)]
  rfl

/-- R388: a log starts at a place whose header gives a fitting ring. -/
theorem startLog_starts (hne : logEntries u a ≠ 0) (hle : logEntries u a ≤ 2 ^ 20) (hpow : 2 ^ Nat.log2 (logEntries u a) = logEntries u a)
    (hall : Stretch u b (Cap.ld ||| Cap.st) (64 + 524288 + 8 * logEntries u a) a) :
    ∃ t, Peeked u t ∧ startLog num c b u = .ok okStatus (t.withColony num (some { c with log := some (headedLog u b a) })) := by
  obtain ⟨t, hpeek, hrun⟩ := startLog_eq (num := num) (c := c) hhead hpage
  obtain ⟨hcheck, -, hpart, hplain⟩ := hall.of_same (congrArg Strand.identity hpeek.self) hpeek.cur hpeek.tlb hpeek.pkg hpeek.badAt hpeek.core
    (hpeek.partials hhead.2.2.1)
  obtain ⟨ps, hps, -⟩ := translateRange_run (u := t) rfl rfl hplain
  refine ⟨t, hpeek, hrun.trans ?_⟩
  rw [if_neg (by simpa [hne, hpow] using hle), M.bind_ok (checkCap_ok hcheck), M.bind_ok hps]
  rfl

end

/-! ## Clearing the bitmap -/

/-- R388: leaving bitmap mode clears the bitmap and the flag of the header. -/
theorem leaveBitmap_run {u : State} {a num : Nat} {c : Colony} {l : DirtyLog} {bits : List Byte} (hbits : bits.length = 524288)
    (hmap : Stretch u ⟨Cap.offset l.cap.val 64, true⟩ Cap.st 524288 (a + 64)) (hflag : Stretch u ⟨Cap.offset l.cap.val 20, true⟩ Cap.st 4 (a + 20)) :
    ∃ t, (do
        writeRange ⟨Cap.offset l.cap.val 64, true⟩ bits ⟨0, 4, false, 0⟩ 4
        writeRange ⟨Cap.offset l.cap.val 20, true⟩ (leBytes 4 0) ⟨0, 4, false, 0⟩ 4
        putColony num (some { c with log := some { l with overflowed := false, raised := false } }) : M Unit) u =
          .ok () (t.withColony num (some { c with log := some { l with overflowed := false, raised := false } })) ∧
      Poured u t ∧ t.mem = ((u.putBytes (a + 64) bits).putBytes (a + 20) (leBytes 4 0)).mem := by
  rw [← hbits] at hmap
  obtain ⟨hcheck, hlines, hpart, hplain⟩ := hmap
  obtain ⟨v, hrun, hpour, hmem⟩ := writeRange_run (m := ⟨0, 4, false, 0⟩) rfl (by decide) 4 hcheck hplain hlines hpart
  obtain ⟨w, hw⟩ := hpour.self
  obtain ⟨hcheck', hlines', hpart', hplain'⟩ := hflag.of_same (by rw [hw]; rfl) hpour.cur hpour.tlb hpour.pkg hpour.badAt hpour.core
    (hpour.partials hpart)
  obtain ⟨t, hrun', hpour', hmem'⟩ := writeRange_run (bs := leBytes 4 0) (m := ⟨0, 4, false, 0⟩) rfl (by decide) 4 hcheck' hplain' hlines' hpart'
  exact ⟨t, by rw [M.bind_ok hrun, M.bind_ok hrun']; rfl, hpour.trans hpour', hmem'.trans (mem_putBytes_congr hmem ..)⟩

/-- R388: the same of the model's own bits. -/
theorem leaveBitmap_clears {u : State} {a num : Nat} {c : Colony} {l : DirtyLog}
    (hmap : Stretch u ⟨Cap.offset l.cap.val 64, true⟩ Cap.st 524288 (a + 64)) (hflag : Stretch u ⟨Cap.offset l.cap.val 20, true⟩ Cap.st 4 (a + 20)) :
    ∃ t bits, leaveBitmap num c l u = .ok () (t.withColony num (some { c with log := some { l with overflowed := false, raised := false } })) ∧
      Poured u t ∧ bits.length = 524288 ∧ (∀ b ∈ bits, b = 0) ∧ t.mem = ((u.putBytes (a + 64) bits).putBytes (a + 20) (leBytes 4 0)).mem := by
  have hbits : ∃ bits : List Byte, bits = List.replicate 524288 0 := ⟨_, rfl⟩
  obtain ⟨bits, hbits⟩ := hbits
  have hlen : bits.length = 524288 := by rw [hbits, List.length_replicate]
  obtain ⟨t, hrun, hpour, hmem⟩ := leaveBitmap_run (num := num) (c := c) hlen hmap hflag
  refine ⟨t, bits, ?_, hpour, hlen, fun b hb => List.eq_of_mem_replicate (hbits ▸ hb), hmem⟩
  unfold leaveBitmap
  rw [← hbits]
  exact hrun

/-- Zeros put over zeros and other bytes. -/
theorem byteAt_zeros {s t : State} {a b : Nat} {bs cs : List Byte} (hbs : ∀ x ∈ bs, x = 0) (hcs : ∀ x ∈ cs, x = 0)
    (hplain : ∀ i < bs.length, cacheable (a + i) = true) (hplain' : ∀ i < cs.length, cacheable (b + i) = true)
    (hmem : t.mem = ((s.putBytes a bs).putBytes b cs).mem) (j : Nat) :
    t.byteAt j = if (a ≤ j ∧ j < a + bs.length) ∨ (b ≤ j ∧ j < b + cs.length) then 0 else s.byteAt j := by
  have hzero (l : List Byte) (hl : ∀ x ∈ l, x = 0) (i : Nat) : l.getD i 0 = 0 := by
    rw [List.getD_eq_getElem?_getD]
    cases hget : l[i]? with
    | none => rfl
    | some x => exact hl x (List.mem_of_getElem? hget)
  have hlast := written_of_mem hplain' hmem j
  have hfirst := written_of_mem (t := s.putBytes a bs) hplain rfl j
  rw [hlast, hfirst, hzero bs hbs, hzero cs hcs]
  by_cases hlate : b ≤ j ∧ j < b + cs.length
  · rw [if_pos hlate, if_pos (.inr hlate)]
  · rw [if_neg hlate]
    simp only [hlate, or_false]

/-! ## The claim -/

theorem logAction_status {op id : Nat} {b : Reg} {c : Colony} (h : op = 0 ∨ op = 3 ∧ c.log = none) (s : State) :
    logAction op id b c s = .ok okStatus s := by
  unfold logAction
  rcases h with rfl | ⟨rfl, hlog⟩
  · rfl
  · rw [hlog]; rfl

theorem colony_withColony (s : State) (id : Nat) (c : Option Colony) : (s.withColony id c).colony id = c := lookupD_storeAt_same ..

theorem dlog_of_row {o : OpRR} {s : State} {ins : Instr}
    (h : ins = .dlogStatus o ∨ ((ins = .dlogStart ∨ ins = .dlogStop ∨ ins = .dlogLeaveBitmap) ∧ o = s.self.rowRR)) : exec ins s = dlog o s := by
  rcases h with rfl | ⟨rfl | rfl | rfl, rfl⟩ <;> rfl

/-- What only looks at the cores' lines differs from a state in its current strand alone. -/
theorem Peeked.onlySelf {s t : State} {r : Strand} (h : Peeked (s.withSelf r) t) : OnlySelf s r t := by
  refine ⟨h.cur, h.self.trans (State.self_withSelf ..), ?_⟩
  exact Elsewhere.trans ((Elsewhere.refl s).withSelf rfl r) h.elsewhere rfl

theorem Peeked.withColony {s t : State} (h : Peeked s t) (id : Nat) (c : Option Colony) : Peeked (s.withColony id c) (t.withColony id c) := by
  have hcore := h.core
  have hpart := h.partials
  obtain ⟨C, rfl⟩ := h.only
  exact ⟨⟨C, rfl⟩, hcore, hpart⟩

theorem logAction_leaves {id : Nat} {b : Reg} {c : Colony} {l : DirtyLog} (hlog : c.log = some l) :
    logAction 3 id b c = (do
      leaveBitmap id c l
      pure okStatus : M Nat) := by
  unfold logAction
  rw [hlog]
  rfl

/-- What completion shows of an instruction that ends with the write of a register. -/
theorem commit_putW {y : State} (hapart : y.self.apart = none) (pre : State) (d : Desc) (n : RegNo) (r : Reg) :
    let t := (y.withSelf (y.self.putW n.toNat r)).commit pre d 0 .next
    t.self.pcc = y.self.pccAt y.self.npc ∧ w t n = r := by
  have hself : (y.withSelf (y.self.putW n.toNat r)).self = y.self.putW n.toNat r := State.self_withSelf ..
  have hcommit := State.self_commit_next (s := y.withSelf (y.self.putW n.toNat r)) pre d 0 (by rw [hself]; exact hapart)
  rw [hself] at hcommit
  dsimp only
  generalize (y.withSelf (y.self.putW n.toNat r)).commit pre d 0 .next = t at hcommit ⊢
  have hwin : t.self.win = y.self.win := by
    rw [hcommit]
    have hstill := congrArg Strand.win (Strand.still_complete (y.self.putW n.toNat r) pre.self d 0 ((y.self.putW n.toNat r).pccAt (y.self.putW n.toNat r).npc))
    exact hstill
  refine ⟨by rw [hcommit, Strand.complete_pcc]; rfl, ?_⟩
  have hphysOf : t.self.physOf n.toNat = y.self.physOf n.toNat := by rw [Strand.physOf, hwin, Strand.physOf]
  unfold w
  rw [hphysOf, hcommit, Strand.complete_phys]
  exact Strand.phys_putPhys_same _ _ _ (Strand.physOf_lt _ _)

section

variable {o : OpRR} {s : State} {ins : Instr} (h : Issues s [o.a, o.b]) (hx : exec ins s = dlog o s)
variable (hfine : ¬LogIll o s) (hmode : s.self.mode = .hypervisor) {c : Colony} (hc : s.colony ((x s o.a).toNat / 2 ^ 16 % 2 ^ 11) = some c)
include h hx hfine hmode hc

/-- R388: leaving bitmap mode. -/
theorem dlog_leaves {l : DirtyLog} {a : Nat} (hop : (x s o.a).toNat % 2 ^ 2 = 3) (hlog : c.log = some l)
    (hmap : Stretch s ⟨Cap.offset l.cap.val 64, true⟩ Cap.st 524288 (a + 64)) (hflag : Stretch s ⟨Cap.offset l.cap.val 20, true⟩ Cap.st 4 (a + 20)) :
    ∃ t, exec ins s = .next t ∧ t.self.pcc = s.self.pccAt s.self.npc ∧
      t.colony ((x s o.a).toNat / 2 ^ 16 % 2 ^ 11) = some { c with log := some { l with overflowed := false, raised := false } } ∧
      w t o.a = Reg.ofWord (BitVec.ofNat 64 (2 ^ 63 + l.wp % 2 ^ 32)) ∧
      ∀ j, t.byteAt j = if (a + 64 ≤ j ∧ j < a + 64 + 524288) ∨ (a + 20 ≤ j ∧ j < a + 24) then 0 else s.byteAt j := by
  have hsame (k v : Nat) (q : Reg) (hq : Stretch s q Cap.st k v) : Stretch (s.withSelf (s.self.begun (logDesc o))) q Cap.st k v :=
    hq.of_same (by rw [State.self_withSelf]; rfl) rfl rfl rfl (fun _ => rfl) (fun _ => rfl) hq.2.2.1
  obtain ⟨v, bits, hrun, hpour, hlen, hzero, hmem⟩ := leaveBitmap_clears (num := (x s o.a).toNat / 2 ^ 16 % 2 ^ 11) (c := c) (hsame _ _ _ hmap)
    (hsame _ _ _ hflag)
  obtain ⟨k, hk⟩ := hpour.self
  rw [State.self_withSelf] at hk
  have hact : logAction ((x s o.a).toNat % 2 ^ 2) ((x s o.a).toNat / 2 ^ 16 % 2 ^ 11) (w s o.b) c (s.withSelf (s.self.begun (logDesc o))) =
      .ok okStatus (v.withColony ((x s o.a).toNat / 2 ^ 16 % 2 ^ 11) (some { c with log := some { l with overflowed := false, raised := false } })) := by
    rw [hop, logAction_leaves hlog]
    exact (M.bind_ok hrun).trans rfl
  have hcheck := logCheck_passes h hx hfine hmode
  have hbody := logBody_some h hc
  rw [M.bind_ok hact] at hbody
  generalize (x s o.a).toNat / 2 ^ 16 % 2 ^ 11 = id at *
  have hcol : (v.withColony id (some { c with log := some { l with overflowed := false, raised := false } })).colony id =
    some { c with log := some { l with overflowed := false, raised := false } } := colony_withColony ..
  generalize hy : v.withColony id (some { c with log := some { l with overflowed := false, raised := false } }) = y at hcol hbody
  have hyself : y.self = wokenIf (s.self.begun (logDesc o)) k := by rw [← hy]; exact hk
  have hymem : y.mem = v.mem := by rw [← hy]; rfl
  have hlogOf : logOf y id = some { l with overflowed := false, raised := false } := by rw [logOf, hcol]
  have htold : tellLog o id okStatus y = writeW o.a (Reg.ofWord (BitVec.ofNat 64 (2 ^ 63 + l.wp % 2 ^ 32))) y := by
    rw [tellLog, M.bind_ok (M.get_run y), hlogOf, if_pos (show okStatus = 0 from rfl), logStatus_some]
    simp only [Bool.false_eq_true, if_false, Nat.add_zero]
    rfl
  rw [htold, writeW_run] at hbody
  obtain ⟨hpcc, hw⟩ := commit_putW (y := y) (by rw [hyself]; exact h.1.1) s (logDesc o) o.a (Reg.ofWord (BitVec.ofNat 64 (2 ^ 63 + l.wp % 2 ^ 32)))
  have hrest := State.rest_commit (y.withSelf (y.self.putW o.a.toNat (Reg.ofWord (BitVec.ofNat 64 (2 ^ 63 + l.wp % 2 ^ 32))))) s (logDesc o) 0 .next
  refine ⟨_, (hx.trans (dlog_eq o s)).trans (runPriv_ok Steer.noConfusion hcheck (clear_log h) hbody), ?_, ?_, hw, fun j => ?_⟩
  · rw [hpcc, hyself]
    rfl
  · have hcolony := congrArg (fun u : State => lookupD none u.units.colonies id) hrest
    exact hcolony.trans hcol
  · have hbyte := congrArg (fun u : State => lookupD 0 u.mem (canon j)) hrest
    refine hbyte.trans ((congrArg (lookupD 0 · (canon j)) hymem).trans ?_)
    have hclear := byteAt_zeros (s := s) (t := v) (cs := leBytes 4 0) hzero (by decide) (fun i hi => (hmap.plain i (hlen ▸ hi)).1)
      (fun i hi => (hflag.plain i hi).1)
      (hmem.trans (mem_putBytes_congr (mem_putBytes_congr (s := s) (u := s.withSelf (s.self.begun (logDesc o))) rfl ..) ..)) j
    rw [hlen] at hclear
    exact hclear

/-- R388: starting a log. -/
theorem dlog_starts {a : Nat} (hop : (x s o.a).toNat % 2 ^ 2 = 1) (hhead : Stretch s (w s o.b) (Cap.ld ||| Cap.st) 24 a)
    (hpage : Cap.cursor (w s o.b).val % 65536 = 0) :
    (logEntries s a = 0 ∨ 2 ^ 20 < logEntries s a ∨ 2 ^ Nat.log2 (logEntries s a) ≠ logEntries s a →
      Leads ins s (s.withSelf (s.self.putW o.a.toNat (Reg.ofWord (BitVec.ofNat 64 (2 ^ 63 + 5)))))) ∧
    (logEntries s a ≠ 0 → logEntries s a ≤ 2 ^ 20 → 2 ^ Nat.log2 (logEntries s a) = logEntries s a →
      Stretch s (w s o.b) (Cap.ld ||| Cap.st) (64 + 524288 + 8 * logEntries s a) a →
      let v := s.withColony ((x s o.a).toNat / 2 ^ 16 % 2 ^ 11) (some { c with log := some (headedLog s (w s o.b) a) })
      Leads ins s (v.withSelf (v.self.putW o.a.toNat (Reg.ofWord (logStatus (some (headedLog s (w s o.b) a))))))) := by
  have hsame (n : Nat) (hn : Stretch s (w s o.b) (Cap.ld ||| Cap.st) n a) :
      Stretch (s.withSelf (s.self.begun (logDesc o))) (w s o.b) (Cap.ld ||| Cap.st) n a :=
    hn.of_same (by rw [State.self_withSelf]; rfl) rfl rfl rfl (fun _ => rfl) (fun _ => rfl) hn.2.2.1
  refine ⟨fun hbad => ?_, fun hne hle hpow hall => ?_⟩
  · obtain ⟨t, hpeek, hrun⟩ := startLog_malformed (num := (x s o.a).toNat / 2 ^ 16 % 2 ^ 11) (c := c) (hsame _ hhead) hpage hbad
    refine dlog_acts h hx hfine hmode hc (r := malformed) (y := t) ?_ hpeek.onlySelf rfl rfl
    rw [hop]
    exact hrun
  · obtain ⟨t, hpeek, hrun⟩ := startLog_starts (num := (x s o.a).toNat / 2 ^ 16 % 2 ^ 11) (c := c) (hsame _ hhead) hpage hne hle hpow (hsame _ hall)
    refine dlog_acts h hx hfine hmode hc (r := okStatus) ?_ (Peeked.onlySelf (s := s.withColony ((x s o.a).toNat / 2 ^ 16 % 2 ^ 11)
      (some { c with log := some (headedLog s (w s o.b) a) })) (hpeek.withColony _ _)) rfl ?_
    · rw [hop]
      exact hrun
    · rw [if_pos (show okStatus = 0 from rfl), logOf, colony_withColony]

end

/-- R388: the dirty-page logs. -/
theorem logsAreControlled : LogsAreControlled := by
  intro o s ins h hrow
  have hx := dlog_of_row hrow
  obtain ⟨hill, hpriv⟩ := dlog_traps h hx
  refine ⟨hill, hpriv, fun hfine hmode hnone => ?_, fun c hfine hmode hc => ⟨fun hop => ?_, fun hop => ?_, fun hop hlog => ?_,
    fun l a hop hlog hmap hflag => dlog_leaves h hx hfine hmode hc hop hlog hmap hflag, fun a hop hhead hpage => ?_⟩⟩
  · refine dlog_leads h hx hfine hmode ?_ (OnlySelf.begun s _) rfl
    unfold logBody
    rw [M.bind_ok (h.readX_begun _ 0 (by simp)), M.bind_ok (h.readW_begun _ 1 (by simp)), fieldAt_eq _ 16 11, M.bind_ok (M.get_run _),
      show (s.withSelf (s.self.begun (logDesc o))).colony ((x s o.a).toNat / 2 ^ 16 % 2 ^ 11) = none from hnone]
    rfl
  · refine dlog_acts h hx hfine hmode hc (logAction_status (.inl hop) _) (OnlySelf.begun s _) rfl ?_
    rw [if_pos (show okStatus = 0 from rfl), logOf, show (s.withSelf (s.self.begun (logDesc o))).colony ((x s o.a).toNat / 2 ^ 16 % 2 ^ 11) = some c from hc]
    dsimp only
    cases c.log <;> rfl
  · refine dlog_acts h hx hfine hmode hc (v := s.withColony ((x s o.a).toNat / 2 ^ 16 % 2 ^ 11) (some { c with log := none }))
      (y := (s.withColony ((x s o.a).toNat / 2 ^ 16 % 2 ^ 11) (some { c with log := none })).withSelf (s.self.begun (logDesc o))) (r := okStatus) ?_
      ((OnlySelf.refl _).withSelf _) rfl ?_
    · rw [show (x s o.a).toNat % 2 ^ 2 = 2 from hop]
      rfl
    · rw [if_pos (show okStatus = 0 from rfl), logOf]
      have hcol : ((s.withColony ((x s o.a).toNat / 2 ^ 16 % 2 ^ 11) (some { c with log := none })).withSelf (s.self.begun (logDesc o))).colony
        ((x s o.a).toNat / 2 ^ 16 % 2 ^ 11) = some { c with log := none } := colony_withColony ..
      rw [hcol]
      rfl
  · refine dlog_acts h hx hfine hmode hc (logAction_status (.inr ⟨hop, hlog⟩) _) (OnlySelf.begun s _) rfl ?_
    rw [if_pos (show okStatus = 0 from rfl), logOf, show (s.withSelf (s.self.begun (logDesc o))).colony ((x s o.a).toNat / 2 ^ 16 % 2 ^ 11) = some c from hc]
    dsimp only
    rw [hlog]
    rfl
  · exact dlog_starts h hx hfine hmode hc hop hhead hpage

/-- Settles O48: the counters are set and fire, and the logs are controlled, as R384 to R388 say. -/
theorem eventCounters : Obligations.EventCounters := ⟨countersAreSet, countersFire, logsAreControlled⟩

end Sys2Proof.Claims
end

section
/-! PROOF. O50: of two strands with a debugger, the one that the strand list names first. -/

namespace Sys2Proof.Claims

open Sys2Proof.Machine

/-- A strand that has asked for `colop` 11, with a debugger attached to it. -/
def resumingStrand : Strand := { Strand.idle with
  live := true
  mode := .hypervisor
  regs := [(0, ⟨11, false⟩)]
  debugger := { Strand.idle.debugger with attached := true } }

/-- A strand that its debugger has stuck. -/
def stuckStrand : Strand := { Strand.idle with
  live := true
  debugger := { Strand.idle.debugger with attached := true, stuck := true } }

/-- A state whose strand list names the stuck strand 5 in front of the strand 0 that runs. -/
def debuggedState : State := { State.reset with
  strands := [(5, stuckStrand), (0, resumingStrand)]
  units := { PackageState.reset with colonies := [(1, some { Colony.first with state := .loaded })] } }

/-- Whether a strand is stuck after an outcome. -/
def stuckAfter (sid : Nat) : Host.Outcome State Fault Refusal → Bool
  | .next t => (t.strand sid).debugger.stuck
  | _ => false

/-- The prologue has put strand 0 in front of strand 5, so strand 0 is the one that is resumed. -/
theorem stuckAfter_debuggedState : stuckAfter 5 (exec .colopResume debuggedState) = true := by decide +kernel

theorem issues_debuggedState : Issues debuggedState [0, 0] := by
  refine ⟨⟨rfl, rfl⟩, fun u hu => ?_⟩
  obtain ⟨n, hn, rfl⟩ := List.mem_map.mp hu
  obtain rfl : n = 0 := by simpa using hn
  exact ⟨by decide +kernel, fun _ => by decide +kernel⟩

theorem hyper_debuggedState : Hyper .colopResume ⟨0, 0, 0⟩ debuggedState 11 :=
  ⟨issues_debuggedState, by unfold Colop; exact .inr ⟨rfl, by simp⟩, by decide +kernel, by decide +kernel, by decide +kernel, rfl⟩

/-- Refutes O50: the statement resumes the strand that comes first in the strand list, but the list that the operation searches has
strand 0, whose turn it is, in its place; with a list that is not sorted that is another strand. -/
theorem not_colonyControlOps : ¬ Obligations.ColonyControlOps := by
  rintro ⟨⟨-, hdebugged⟩, -⟩
  obtain ⟨-, hattached⟩ := hdebugged ⟨0, 0, 0⟩ debuggedState .colopResume { Colony.first with state := .loaded } 5 11
    hyper_debuggedState (by decide +kernel)
  obtain ⟨-, hresume, -⟩ := hattached (by decide +kernel)
  obtain ⟨t, ht, -, -, -, -, -, hothers, -⟩ := hresume rfl (by decide +kernel) (by decide +kernel)
  have hstays := stuckAfter_debuggedState
  rw [ht] at hstays
  have hfive : (t.strand 5).debugger.stuck = false := by
    rw [hothers 5 (by rw [result, State.withSelf]; decide)]
    decide +kernel
  exact absurd (hstays.symm.trans hfive) (by decide)

end Sys2Proof.Claims
end

section
/-! PROOF. O46: a follow-on that names a queue of no package. -/

namespace Sys2Proof.Claims

open Sys2Proof.Machine

/-- A follow-on of package 16385, with a queue of package 16384: package ids have 14 bits. -/
def straySender : FollowOn :=
  { queue := 16384 * 2048, target := 16385 * 16384, mmt := false, acc := 0, lt := 0, rt := 0, row0 := 0 }

/-- The package that a packet at the head of the agenda is for. -/
def sentTo : Host.Outcome State Fault Refusal → Option Nat
  | .next t => match t.agenda with
    | .packetForward pk :: _ => some pk.dst
    | _ => none
  | _ => none

theorem sentTo_straySender : sentTo (exec .followOnIssue { State.reset with now := .followOnIssue straySender }) = some 0 := by
  decide +kernel

/-- Refutes O46: the packet that reports a follow-on whose target is gone carries 14 bits of the package that its queue is of, and a
follow-on's queue number may name a package beyond them. -/
theorem not_copyEngines : ¬ Obligations.CopyEngines := by
  rintro ⟨-, ⟨-, hfollow, -⟩, -⟩
  obtain ⟨-, -, hgone⟩ := hfollow { State.reset with now := .followOnIssue straySender } straySender rfl (fun v hv => nomatch hv)
  obtain ⟨pk, hpk, hdst, -⟩ := hgone (.inl (by decide)) (by decide)
  have hto := sentTo_straySender
  rw [hpk] at hto
  have hzero : pk.dst = 0 := Option.some.inj (show some pk.dst = some 0 from hto)
  exact absurd (hdst.symm.trans hzero) (by decide)

end Sys2Proof.Claims
end

section
/-! PROOF. O35, O37: what an instruction makes of a grant of more than 64 lanes. -/

namespace Sys2Proof.Claims

open Sys2Proof.Machine

/-- A strand whose grant names 65 lanes; modulus register 1 holds a modulus at its first position, and `w1` a capability for the first
page. -/
def wideStrand : Strand := { Strand.idle with
  live := true
  regs := [(1, ⟨Cap.make Cap.kMemory 0 Cap.ld 4096 0 4 0, true⟩)]
  vec := { Strand.idle.vec with lanes := List.replicate 65 0, vlen := 65, mq := [(64, 5)] } }

/-- A state in which that strand has its turn: its first page is the lane-private window, and lane slice 0 holds a byte. -/
def wideState : State := { State.reset with
  strands := [(0, wideStrand)]
  tlb := [(tlbKey 12 0 2 0, ⟨0x1FFFFFF010D, 2⟩)]
  mem := [(sliceAddr 0 0 0, 9)] }

/-- A vector word of the strand whose turn it is, after an outcome. -/
def vectorWordAfter (k : Nat) : Host.Outcome State Fault Refusal → Word
  | .next t => lookupD 0 t.self.vec.v k
  | _ => 0

theorem ready_wideState : Ready wideState [vDst 0, ⟨5, 0, true, false⟩] := by
  unfold Ready Together
  decide +kernel

theorem canIssue_wideState : CanIssue wideState := by
  unfold CanIssue Free
  decide +kernel

theorem unbounded_wideState (res : Nat) : Unbounded wideState res :=
  ⟨by decide +kernel, fun c hc => absurd (show wideState.colony (wideState.colonyOf wideState.cur) = none by decide +kernel)
    (by rw [hc]; exact Option.some_ne_none c)⟩

/-- No core holds a line in update-only state. -/
theorem noPartials_wideState : NoPartials wideState := fun n => by
  show lookupD [] ([] : SMap (List Nat)) n = []
  rfl

/-- A read of modulus register 0 finds 64 words, and 0 behind them. -/
theorem mqget_wideState : vectorWordAfter 64 (exec (.mqget ⟨0, 0, 0⟩ ⟨0, 0, false, 0⟩) wideState) = 0 := by decide +kernel

/-- A load of the slices goes by 64 positions, and gives 0 to an element behind them. -/
theorem vldl_wideState : vectorWordAfter 64 (exec (.vldl ⟨0, 0, 1, 0⟩ ⟨5, 3, false, 0⟩) wideState) = 0 := by decide +kernel

theorem vectorWordAfter_of_leads {i : Instr} {s u : State} (h : Leads i s u) (k : Nat) :
    vectorWordAfter k (exec i s) = lookupD 0 u.self.vec.v k := by
  obtain ⟨t, ht, -, -, -, -, hstill, -⟩ := h
  rw [ht]
  exact (congrArg (fun (v : Strand) => lookupD 0 v.vec.v k) hstill :)

/-- Refutes O37: `mqget` reads 64 words of a modulus register; for position 64 of a wider grant the statement reads the first word of
the next one. -/
theorem not_modularLanes : ¬ Obligations.ModularLanes := by
  rintro ⟨-, ⟨-, hget, -⟩, -⟩
  have hleads := hget ⟨0, 0, 0⟩ ⟨0, 0, false, 0⟩ wideState ready_wideState ⟨⟨rfl, rfl⟩, nofun⟩ canIssue_wideState (unbounded_wideState 1)
  have hword := (vectorWordAfter_of_leads hleads 64).symm.trans mqget_wideState
  exact absurd hword (by decide +kernel)

/-- Refutes O35: `vldl` loads the elements of 64 positions; in a wider grant the statement loads the next element too, from the slice of
its lane. -/
theorem not_vectorAccess : ¬ Obligations.VectorAccess := by
  rintro ⟨-, -, -, hslices⟩
  obtain ⟨hload, -⟩ := hslices ⟨0, 0, 1, 0⟩ ⟨5, 3, false, 0⟩ wideState 0x1FFFFFF0000 0x1FFFFFF010D 0
    ⟨by unfold Ready Together; decide +kernel, ⟨⟨rfl, rfl⟩, nofun⟩, by decide +kernel⟩ (unbounded_wideState 1) noPartials_wideState
  have hleads := hload ⟨by decide +kernel, ⟨⟨0x1FFFFFF010D, 2⟩, by unfold TlbHas; decide +kernel⟩, by decide +kernel, by decide +kernel, by decide⟩
    (by unfold Ready Together; decide +kernel) (by decide +kernel)
  have hword := (vectorWordAfter_of_leads hleads 64).symm.trans vldl_wideState
  exact absurd hword (by decide +kernel)

end Sys2Proof.Claims
end

section
/-! PROOF. O38: a partner of a gang that has ended for its strand still reads its tile. -/

namespace Sys2Proof.Claims

open Sys2Proof.Machine

/-- A strand whose turn it is, in a quad with no operation under way but a gang whose only partner, of this strand, has ended. -/
def gangedState : State := { State.reset with
  strands := [(0, { Strand.idle with live := true })]
  quads := [(0, { State.reset.quad 0 with gangs := [⟨0, 0, [⟨0, 0, 0, 0, true, false, 0, 0⟩]⟩] })] }

/-- The instructions that the strand whose turn it is has completed, after an outcome. -/
def completedAfter : Host.Outcome State Fault Refusal → Option Word
  | .next t => some t.self.instret
  | _ => none

theorem completedAfter_of_leads {i : Instr} {s u : State} (h : Leads i s u) :
    completedAfter (exec i s) = some (s.self.instret + 1) := by
  obtain ⟨t, ht, -, hcount, -⟩ := h
  rw [ht]
  exact congrArg some hcount

theorem ready_gangedState : Ready gangedState [⟨3, 0, false, true⟩] := by
  unfold Ready Together
  decide +kernel

theorem free_gangedState : Free gangedState := by
  unfold Free
  decide +kernel

/-- No operation of the array reads a tile. -/
theorem tileFree_gangedState : TileFree gangedState 0 := by
  have hnone : (gangedState.quad (quadOf gangedState.cur)).ops = [] := by decide +kernel
  intro o ho
  rw [hnone] at ho
  exact absurd ho List.not_mem_nil

/-- The tile is not cleared yet: the model waits for the gang's partner. -/
theorem tzero_gangedState : completedAfter (exec (.tzero ⟨0, 0⟩) gangedState) = some 0 := by decide +kernel

/-- Refutes O38: `tzero` waits for a partner of a gang that reads its tile, where no operation of the array does; the statement has the
tile cleared then. -/
theorem not_tiles : ¬ Obligations.Tiles := by
  rintro ⟨⟨-, -, hclear, -⟩, -⟩
  obtain ⟨tiles, -, hleads⟩ := hclear ⟨0, 0⟩ gangedState ready_gangedState free_gangedState tileFree_gangedState
  have hcount := (completedAfter_of_leads hleads).symm.trans tzero_gangedState
  exact absurd hcount (by decide +kernel)

end Sys2Proof.Claims
end

section
/-! SUPPORT. Instructions of the lane pool: they issue at once where the quad's dispatch is free, their vector and mask sources are
the registers as they stand, and a budget that bounds nothing is not charged. -/

namespace Sys2Proof.Claims

open Sys2Proof.Machine

variable {s u : State} {t : Strand} {d : Desc}

/-! ## Issue -/

theorem OnlySelf.countCore (h : OnlySelf s t u) (c k n : Nat) : OnlySelf s t (u.countCore c k n) := by
  obtain ⟨hs, hk, ⟨es, ha, hes⟩, hr⟩ := h.elsewhere
  obtain ⟨es', ha', hes'⟩ := u.agenda_countCore_fires c k n
  refine ⟨h.cur, h.self, hs, fun q => by simpa using hk q, ⟨es ++ es', by rw [ha', ha, List.append_assoc], fun e he => ?_⟩, hr⟩
  exact (List.mem_append.mp he).elim (hes e) (hes' e)

/-- Where the quad's dispatch is free, an instruction of the lane pool passes its queue. -/
theorem passQueue_begun (h : Free s) (d : Desc) :
    passQueue (DispatchEntry.lanes s.cur) (s.withSelf (s.self.begun d)) = .ok () (s.withSelf (s.self.begun d)) := by
  obtain ⟨hclear, hcovered⟩ := h
  have hboth : ((s.withSelf (s.self.begun d)).quadClear (quadOf s.cur) &&
      (s.withSelf (s.self.begun d)).covered (DispatchEntry.lanes s.cur)) = true := Bool.and_eq_true_iff.mpr ⟨hclear, hcovered⟩
  unfold passQueue
  rw [M.bind_ok (M.get_run _)]
  exact congrFun (if_pos hboth) _

/-- The prologue of any instruction where the quad's dispatch is free. -/
theorem prologue_free {priv : M Unit} (hfree : Free s) (hp : priv s = .ok () s) (h : s.self.Clear d.regs) :
    prologue d priv s = .ok () (s.withSelf (s.self.begun d)) := by
  by_cases hl : d.steer = .lanes
  · obtain ⟨hf, hz, ha, -⟩ := h
    unfold prologue
    rw [M.bind_ok hp, M.bind_ok (self_run s)]
    simp only [hf]
    rw [M.bind_ok (meetRoles_together ha), M.bind_ok (self_run s)]
    simp only [Strand.interlock_clear hz, Nat.sub_self, Strand.advance_zero, Strand.tooEarly_clear hz, ite_self, if_pos hl]
    exact passQueue_begun hfree d
  · exact prologue_clear hl hp h

/-- What two strands must have in common for one to show what the other does: registers, and what completions leave alone. -/
def Shows (r t : Strand) : Prop := r.still = t.still ∧ r.regs = t.regs

/-- A strand stands at the instruction of another one. -/
def StandsAt (r t : Strand) : Prop := r.pcc = t.pcc ∧ r.instret = t.instret ∧ r.apart = t.apart ∧ r.ir = t.ir

/-- An instruction of the lane pool whose operation changes the current strand of a state alone leads to what that strand shows. -/
theorem leads_of_lanes {i : Instr} {s' u : State} {priv body : M Unit} {t r : Strand}
    (hx : exec i s = runPriv d priv body s) (hfree : Free s) (hp : priv s = .ok () s) (hc : s.self.Clear d.regs)
    (hb : body (s.withSelf (s.self.begun d)) = .ok () u) (hu : OnlySelf s' r u) (hshow : Shows r t)
    (hat : StandsAt r s.self) : Leads i s (s'.withSelf t) := by
  obtain ⟨hstill, hregs⟩ := hshow
  obtain ⟨hpcc, hn, hapart, hir⟩ := hat
  obtain ⟨-, -, htogether, -⟩ := id hc
  have hrun : runPriv d priv body s = .next (u.commit s d 0 .next) := by
    refine runWith_ok (prologue_free hfree hp hc) ?_
    rw [M.bind_ok hb]; rfl
  refine (hu.same hstill hregs).leads (hx.trans hrun) ?_ ?_ ?_ ?_ <;> rw [hu.self]
  · exact hapart.trans htogether
  · exact hn
  · exact hpcc
  · exact hir

/-! ## The conditions of R179 -/

theorem needGrant_ok (h : s.self.vec.lanes ≠ []) : needGrant s = .ok () s := by
  unfold needGrant
  rw [M.bind_ok (self_run s)]
  exact illIf_of_not (by simpa using h) s

theorem needStart_ok (h : s.self.vec.lanes ≠ []) (hz : s.self.vec.vstart = 0) : needStart s = .ok () s := by
  unfold needStart
  rw [M.bind_ok (self_run s)]
  exact illIf_of_not (by simp [h, hz]) s

/-! ## Sources -/

/-- The registers of the current strand that are not `w` registers, as a read looks at them. -/
structure SameVectors (t r : Strand) : Prop where
  inflight : t.inflight = r.inflight
  clk : t.clk = r.clk
  vec : t.vec = r.vec

theorem SameVectors.begun (t : Strand) (d : Desc) : SameVectors (t.begun d) t := ⟨rfl, rfl, rfl⟩

section

variable {us : List RegUse} (h : Ready s us) (hu : SameVectors u.self s.self) (i : Nat)
include h hu

theorem Ready.readsOld_none {file num : Nat} (hf : file ≠ 0) (hmem : ∃ v ∈ us, v.file = file ∧ v.num = num) :
    readsOld i file num u = .ok none u := by
  obtain ⟨v, hv, rfl, rfl⟩ := hmem
  have hhazard : u.self.hazard v.file v.num = none := by
    have := (h.2 v hv).1
    rw [Strand.hazardNum, if_neg hf] at this
    rwa [Strand.hazard, hu.inflight, hu.clk]
  unfold readsOld
  simp only [hhazard]

theorem Ready.readV {n : RegNo} (hmem : ∃ v ∈ us, v.file = 1 ∧ v.num = n.toNat) : readV i n u = .ok (vw s.self n) u := by
  unfold Machine.readV
  rw [M.bind_ok (h.readsOld_none hu i (by decide) hmem), M.bind_ok (self_run u), hu.vec]
  rfl

end

/-- A mask register whose result is due is read as it stands; `k0` reads as all ones. -/
theorem Ready.readK {m : BitVec 3} (h : Ready s (maskUse m)) (hu : SameVectors u.self s.self) (i : Nat) :
    readK i m.toNat u = .ok (s.self.mask m.toNat) u := by
  by_cases hm : m = 0
  · subst hm
    have hzero : (0 : BitVec 3).toNat = 0 := rfl
    obtain ⟨old, hold⟩ : ∃ old, readsOld i 2 0 u = .ok old u := ⟨_, rfl⟩
    unfold Machine.readK
    rw [hzero, M.bind_ok hold, M.bind_ok (self_run u)]
    cases old <;> simp only [Strand.mask, if_true] <;> rfl
  · have hmem : ∃ v ∈ maskUse m, v.file = 2 ∧ v.num = m.toNat := ⟨kSrc m.toNat, by rw [maskUse, if_neg hm]; exact List.mem_singleton_self _, rfl, rfl⟩
    unfold Machine.readK
    rw [M.bind_ok (h.readsOld_none hu i (by decide) hmem), M.bind_ok (self_run u)]
    simp only [Strand.mask, hu.vec]
    rfl

/-! ## Budgets -/

/-- What binds nothing before an operation of the current strand binds nothing behind it. -/
theorem Unbounded.behind {res : Nat} (h : Unbounded s res) (hu : OnlySelf s t u) :
    u.islandSpent u.cur = false ∧ ∀ c, u.colony (u.colonyOf u.cur) = some c → c.allocOf res = unlimited := by
  obtain ⟨hisland, halloc⟩ := h
  have hunits : u.units = s.units := congrArg (·.units) hu.elsewhere.2.2.2
  have hcolony : u.colonyOf u.cur = s.colonyOf s.cur := by
    rw [hu.cur]; simp only [State.colonyOf, hunits]
  refine ⟨by rw [hu.cur, ← hisland]; simp only [State.islandSpent, hunits], ?_⟩
  rw [hcolony]
  intro c hc
  exact halloc c (by rw [← hc]; simp only [State.colony, hunits])

section

variable {res : Nat} (h : Unbounded s res) (hu : OnlySelf s t u)
include h hu

theorem Unbounded.admits (n : Nat) : u.admits (u.colonyOf u.cur) res n = true := by
  unfold State.admits
  split
  · next c hc => simp [Colony.admits, (h.behind hu).2 c hc]
  · rfl

theorem Unbounded.charge (n : Nat) : u.charge (u.colonyOf u.cur) res n = u := by
  unfold State.charge
  split
  · next c hc => exact if_pos ((h.behind hu).2 c hc)
  · rfl

/-- A budget that bounds nothing admits every use, and is not charged. -/
theorem spendBudget_unbounded (n : Nat) : spendBudget res n u = .ok () u := by
  unfold spendBudget
  rw [M.bind_ok (M.get_run u)]
  simp only [h.admits hu, (h.behind hu).1, h.charge hu]
  rfl

end

/-! ## Results -/

theorem useLanes_run (h : Unbounded s 1) (hu : OnlySelf s t u) (w start n : Nat) :
    useLanes w start n u = .ok () (u.countCore (coreOf u.cur) 5 (n - start)) := by
  exact (M.bind_ok (spendBudget_unbounded h hu _)).trans rfl

/-- The processed elements of a result are written. -/
theorem writeElements_run (hu : OnlySelf s t u) (a : RegNo) (w start n : Nat) (zero : Bool) (k : BitVec 512) (f : Nat → Nat × Nat) :
    ∃ v, writeElements a w start n zero k f u = .ok () v ∧ OnlySelf s (elements t a w start n zero k f) v := by
  obtain ⟨u1, h1, hu1⟩ := hu.modSelf fun t => putV t a w fun e =>
    if start ≤ e && e < n then if k.getLsbD e then some (f e).1 else if zero then some 0 else none else none
  obtain ⟨u2, h2, hu2⟩ := hu1.modSelf fun t => flagged t
    ((List.range n).foldl (fun fl e => if start ≤ e && k.getLsbD e then fl ||| (f e).2 else fl) 0)
  obtain ⟨u3, h3, hu3⟩ := hu2.modSelf fun t => { t with vec := { t.vec with vstart := 0 } }
  exact ⟨u3, (M.bind_ok h1).trans ((M.bind_ok h2).trans h3), hu3⟩

/-- The elements that an instruction processes are charged to no budget, and its result is written. -/
theorem useLanes_writeElements (h : Unbounded s 1) (hu : OnlySelf s t u) (w' w start n : Nat) (a : RegNo) (zero : Bool)
    (k : BitVec 512) (f : Nat → Nat × Nat) : ∃ v, (do useLanes w' start n; writeElements a w start n zero k f : M Unit) u = .ok () v ∧
      OnlySelf s (elements t a w start n zero k f) v := by
  obtain ⟨v, hv, hv'⟩ := writeElements_run (hu.countCore (coreOf u.cur) 5 (n - start)) a w start n zero k f
  exact ⟨v, (M.bind_ok (useLanes_run h hu w' start n)).trans hv, hv'⟩

end Sys2Proof.Claims
end

section
/-! SUPPORT. Elementwise instructions of two sources (R193), as the vector chapter's clauses say them. -/

namespace Sys2Proof.Claims

open Sys2Proof.Machine

variable {s u : State} {t : Strand} {d : Desc} {i : Instr}

/-! ## Elements that agree -/

theorem putWord_congr {f g : Nat → Option Nat} (w p : Nat) (old : Word)
    (h : ∀ e, (f e).map (· % 2 ^ w) = (g e).map (· % 2 ^ w)) : putWord old w p f = putWord old w p g := by
  have hel : (fun (acc j : Nat) => acc + (match f (p * (64 / w) + j) with
      | some x => x % 2 ^ w
      | none => old.toNat / 2 ^ (j * w) % 2 ^ w) * 2 ^ (j * w)) = fun acc j => acc + (match g (p * (64 / w) + j) with
      | some x => x % 2 ^ w
      | none => old.toNat / 2 ^ (j * w) % 2 ^ w) * 2 ^ (j * w) := by
    funext acc j
    have := h (p * (64 / w) + j)
    cases hf : f (p * (64 / w) + j) <;> cases hg : g (p * (64 / w) + j) <;> simp_all
  exact congrArg (fun step => BitVec.ofNat 64 ((List.range (64 / w)).foldl step 0)) hel

theorem putElements_congr {f g : Nat → Option Nat} (n r w : Nat) (m : SMap Word)
    (h : ∀ e, (f e).map (· % 2 ^ w) = (g e).map (· % 2 ^ w)) : putElements n r w f m = putElements n r w g m := by
  unfold putElements
  congr 1
  funext m p
  rw [putWord_congr w p _ h]

/-- Elements of `w` bits count modulo `2 ^ w`. -/
theorem elements_congr {f g : Nat → Nat × Nat} (t : Strand) (a : RegNo) (w start n : Nat) (zero : Bool) (k : BitVec 512)
    (h : ∀ e, (f e).1 % 2 ^ w = (g e).1 % 2 ^ w ∧ (f e).2 = (g e).2) :
    elements t a w start n zero k f = elements t a w start n zero k g := by
  have hflags : (fun (fl e : Nat) => if start ≤ e && k.getLsbD e then fl ||| (f e).2 else fl) =
      fun fl e => if start ≤ e && k.getLsbD e then fl ||| (g e).2 else fl := by
    funext fl e
    rw [(h e).2]
  have hvalues := putElements_congr t.vec.lanes.length a.toNat w t.vec.v
    (f := fun e => if start ≤ e && e < n then if k.getLsbD e then some (f e).1 else if zero then some 0 else none else none)
    (g := fun e => if start ≤ e && e < n then if k.getLsbD e then some (g e).1 else if zero then some 0 else none else none)
    fun e => by split_ifs <;> simp [(h e).1]
  simp only [elements, hflags, hvalues]

/-! ## Completion -/

/-- The operation of an elementwise instruction writes its elements in the strand that has drawn its words. -/
theorem leads_elements {priv body : M Unit} {a : RegNo} {w start n : Nat} {zero : Bool} {k : BitVec 512} {f : Nat → Nat × Nat}
    (hx : exec i s = runPriv d priv body s) (hfree : Free s) (hp : priv s = .ok () s) (hc : s.self.Clear d.regs)
    (hb : ∃ v, body (s.withSelf (s.self.begun d)) = .ok () v ∧ OnlySelf s (elements (t.begun d) a w start n zero k f) v)
    (hat : StandsAt t s.self) : Leads i s (s.withSelf (elements t a w start n zero k f)) := by
  obtain ⟨v, hv, hself⟩ := hb
  obtain ⟨hpcc, hn, hapart, hir⟩ := hat
  exact leads_of_lanes hx hfree hp hc hv hself ⟨rfl, rfl⟩ ⟨hpcc, hn, hapart, hir⟩

theorem StandsAt.stepped (t : Strand) (mode : Nat) : StandsAt (stepped t mode) t := by
  unfold Claims.stepped
  split <;> exact ⟨rfl, rfl, rfl, rfl⟩

theorem stepped_begun (t : Strand) (d : Desc) (mode : Nat) : stepped (t.begun d) mode = (stepped t mode).begun d := by
  unfold stepped
  split <;> rfl

theorem stepSeeds_run (hu : OnlySelf s t u) (mode : Nat) : ∃ v, stepSeeds mode u = .ok () v ∧ OnlySelf s (stepped t mode) v := by
  unfold stepSeeds stepped
  split
  · exact hu.modSelf _
  · exact ⟨u, rfl, hu⟩

theorem SameVectors.of_begun (s : State) (d : Desc) : SameVectors (s.withSelf (s.self.begun d)).self s.self := by
  rw [State.self_withSelf]
  exact .begun _ d

theorem SameReads.of_begun (s : State) (d : Desc) : SameReads (s.withSelf (s.self.begun d)).self s.self := by
  rw [State.self_withSelf]
  exact .begun _ d

theorem effective_stepped (t : Strand) (mode w : Nat) : (stepped t mode).effective w = t.effective w := by
  unfold stepped
  split <;> rfl

/-- What is charged and draws its words goes on in the strand that has drawn them. -/
theorem useLanes_stepSeeds (h : Unbounded s 1) (hu : OnlySelf s t u) (w start n mode : Nat) :
    ∃ v, OnlySelf s (stepped t mode) v ∧
      ∀ rest : M Unit, (do useLanes w start n; stepSeeds mode; rest : M Unit) u = rest v := by
  obtain ⟨v, hv, hself⟩ := stepSeeds_run (hu.countCore (coreOf u.cur) 5 (n - start)) mode
  exact ⟨v, hself, fun rest => (M.bind_ok (useLanes_run h hu w start n)).trans (M.bind_ok hv)⟩

/-- An instruction whose operation, behind its sources, writes elements. -/
theorem leads_useLanes {priv body : M Unit} {a : RegNo} {w start n : Nat} {zero : Bool} {k : BitVec 512} {f : Nat → Nat × Nat}
    (hx : exec i s = runPriv d priv body s) (hfree : Free s) (hp : priv s = .ok () s) (hc : s.self.Clear d.regs) (hun : Unbounded s 1)
    (hb : body (s.withSelf (s.self.begun d)) =
      (do useLanes w start n; writeElements a w start n zero k f : M Unit) (s.withSelf (s.self.begun d))) :
    Leads i s (s.withSelf (elements s.self a w start n zero k f)) :=
  leads_elements hx hfree hp hc (hb ▸ useLanes_writeElements hun (.begun s d) w w start n a zero k f) ⟨rfl, rfl, rfl, rfl⟩

/-- The registers of a vector instruction and its mask register are clear. -/
theorem VReady.clear {us : List RegUse} {m : VecMod} (h : VReady s us m) : s.self.Clear (us ++ maskUse m.mask) :=
  (h.1.append h.2.1).clear fun r hr => ⟨r, hr, rfl, rfl⟩

/-- A ready `w` source is read as it stands. -/
theorem Ready.readX {us : List RegUse} {n : RegNo} (h : Ready s us) (hmem : wSrc n ∈ us) (hu : SameReads u.self s.self) (j : Nat) :
    readX j n u = .ok (x s n) u :=
  Issues.readX_same (ns := [n]) ⟨h.1, fun v hv => List.mem_singleton.mp hv ▸ h.2 (wSrc n) hmem⟩ hu j (List.mem_singleton_self n)

/-! ## The two-source instructions -/

/-- The registers of a two-source instruction of the vector file. -/
theorem clear_twoSource {o : OpRRC} {m : VecMod} (h : VReady s [vDst o.a, vSrc o.x, vSrc o.y] m) :
    s.self.Clear (twoSource 1 o ++ maskUse m.mask) := by
  refine (h.1.append h.2.1).clear fun r hr => ?_
  rcases List.mem_append.mp hr with hr | hr
  · obtain ⟨st, a, b, c⟩ := o
    cases c <;> simp [twoSource, vDst, vSrc, OpRRC.x, OpRRC.y] at hr ⊢ <;> rcases hr with rfl | rfl | rfl <;> simp
  · exact ⟨r, List.mem_append_right _ hr, rfl, rfl⟩

section

variable {o : OpRRC} {m : VecMod} {int : Nat → Bool → Nat → Nat → Nat}
  {fp : Nat → Machine.Float.Value → Machine.Float.Value → Machine.Float.Value × Nat}
  (h : VReady s [vDst o.a, vSrc o.x, vSrc o.y] m) (hun : Unbounded s 1) (hx : exec i s = vecArith o m int fp s)
include h hun hx

/-- The integer form writes its function of the two elements. -/
theorem vecArith_int {w : Nat} {signed : Bool} (hm : elTypeOf m = .int w signed) :
    Elementwise i s s.self o.a m w s.self.vec.vstart fun e => (int w signed (vel s o.x w e) (vel s o.y w e), 0) := by
  obtain ⟨hready, hmask, hlanes, hfree⟩ := id h
  refine leads_elements hx hfree (needGrant_ok hlanes) (clear_twoSource h) ?_ ⟨rfl, rfl, rfl, rfl⟩
  have hvectors := SameVectors.of_begun s ⟨o.st, dualLatency m, .lanes, twoSource 1 o ++ maskUse m.mask⟩
  rw [M.bind_ok (hready.readV hvectors 0 ⟨vSrc o.x, by simp, rfl, rfl⟩), M.bind_ok (hready.readV hvectors 1 ⟨vSrc o.y, by simp, rfl, rfl⟩),
    M.bind_ok (hmask.readK hvectors 2), M.bind_ok (self_run _), State.self_withSelf, hm]
  exact useLanes_writeElements hun (.begun s _) w w _ _ o.a m.zero _ _

/-- The floating-point form rounds its function of the two elements once. -/
theorem vecArith_float {F : Machine.Float.Format} (hm : elTypeOf m = .fp F) :
    let mode := s.self.roundingMode m.rnd.toNat false
    Elementwise i s (stepped s.self mode) o.a m F.width s.self.vec.vstart fun e => (stepped s.self mode).roundElement F mode e
      (fp mode (Machine.Float.decode F (vel s o.x F.width e)) (Machine.Float.decode F (vel s o.y F.width e))) := by
  obtain ⟨hready, hmask, hlanes, hfree⟩ := id h
  refine leads_elements hx hfree (needGrant_ok hlanes) (clear_twoSource h) ?_ (.stepped _ _)
  have hvectors := SameVectors.of_begun s ⟨o.st, dualLatency m, .lanes, twoSource 1 o ++ maskUse m.mask⟩
  rw [M.bind_ok (hready.readV hvectors 0 ⟨vSrc o.x, by simp, rfl, rfl⟩), M.bind_ok (hready.readV hvectors 1 ⟨vSrc o.y, by simp, rfl, rfl⟩),
    M.bind_ok (hmask.readK hvectors 2), M.bind_ok (self_run _), State.self_withSelf, hm, ← stepped_begun]
  obtain ⟨v, hself, hrun⟩ := useLanes_stepSeeds hun (.begun s _) F.width s.self.vec.vstart (s.self.effective F.width)
    (s.self.roundingMode m.rnd.toNat false)
  obtain ⟨v', hv', hself'⟩ := writeElements_run hself o.a F.width s.self.vec.vstart (s.self.effective F.width) m.zero (s.self.mask m.mask.toNat)
    fun e => (stepped s.self (s.self.roundingMode m.rnd.toNat false)).roundElement F (s.self.roundingMode m.rnd.toNat false) e
      (fp (s.self.roundingMode m.rnd.toNat false) (Machine.Float.decode F (vel s o.x F.width e)) (Machine.Float.decode F (vel s o.y F.width e)))
  refine ⟨v', (hrun _).trans ?_, hself'⟩
  rw [M.bind_ok (self_run v), hself.self, effective_stepped, stepped_begun]
  exact hv'

end

end Sys2Proof.Claims
end

section
/-! PROOF. O32: writes of elements, the integer table of the two-source instructions, and the moves. -/

namespace Sys2Proof.Claims

open Sys2Proof.Machine

theorem Elementwise.congr {i : Instr} {s : State} {t : Strand} {a : RegNo} {m : VecMod} {w start : Nat} {f g : Nat → Nat × Nat}
    (h : Elementwise i s t a m w start f) (heq : ∀ e, (f e).1 % 2 ^ w = (g e).1 % 2 ^ w ∧ (f e).2 = (g e).2) :
    Elementwise i s t a m w start g := by
  unfold Elementwise at h ⊢
  rwa [elements_congr t a w start _ m.zero _ heq] at h

/-- An element of `w` bits is below `2 ^ w`. -/
theorem vel_lt (s : State) (r : RegNo) (w e : Nat) : vel s r w e < 2 ^ w := Nat.mod_lt _ (Nat.two_pow_pos w)

/-! ## Integers -/

section

variable {o : OpRRC} {m : VecMod} {s : State} {w : Nat} {signed : Bool} (hm : elTypeOf m = .int w signed)
  (h : VReady s [vDst o.a, vSrc o.x, vSrc o.y] m) (hun : Unbounded s 1)
include hm h hun

theorem vecArith_integer {i : Instr} {int : Nat → Bool → Nat → Nat → Nat}
    {fp : Nat → Machine.Float.Value → Machine.Float.Value → Machine.Float.Value × Nat} (f : Nat → Nat → Nat)
    (hx : exec i s = vecArith o m int fp s)
    (heq : ∀ p q, p < 2 ^ w → q < 2 ^ w → int w signed p q % 2 ^ w = f p q % 2 ^ w) :
    Elementwise i s s.self o.a m w s.self.vec.vstart fun e => (f (vel s o.x w e) (vel s o.y w e), 0) :=
  (vecArith_int h hun hx hm).congr fun _ => ⟨heq _ _ (vel_lt s o.x w _) (vel_lt s o.y w _), rfl⟩

/-- The integer table of the two-source instructions. -/
theorem integerTable :
    let val := fun (p : Nat) => if signed = true ∧ 2 ^ (w - 1) ≤ p then (p : Int) - 2 ^ w else (p : Int)
    let arith := fun (p : Nat) => if 2 ^ (w - 1) ≤ p then (p : Int) - 2 ^ w else (p : Int)
    let does := fun (i : Instr) (f : Nat → Nat → Nat) =>
      Elementwise i s s.self o.a m w s.self.vec.vstart fun e => (f (vel s o.x w e) (vel s o.y w e), 0)
    does (.vadd o m) (fun p q => (p + q) % 2 ^ w) ∧ does (.vsub o m) (fun p q => (p + (2 ^ w - q)) % 2 ^ w) ∧
    does (.vmul o m) (fun p q => p * q % 2 ^ w) ∧ does (.vmin o m) (fun p q => if val p < val q then p else q) ∧
    does (.vmax o m) (fun p q => if val p < val q then q else p) ∧ does (.vand o m) (fun p q => p &&& q) ∧
    does (.vor o m) (fun p q => p ||| q) ∧ does (.vxor o m) (fun p q => p ^^^ q) ∧
    does (.vshl o m) (fun p q => p * 2 ^ (q % w) % 2 ^ w) ∧ does (.vshr o m) (fun p q => p / 2 ^ (q % w)) ∧
    does (.vsra o m) (fun p q => (arith p / 2 ^ (q % w) % 2 ^ w).toNat) := by
  intro val arith does
  have hval : ∀ p, p < 2 ^ w → Machine.Float.patInt w signed p = val p := fun p hp => patInt_of_lt hp signed
  have harith : ∀ p, p < 2 ^ w → Machine.Float.patInt w true p = arith p := fun p hp => by
    rw [patInt_of_lt hp true]; simp only [true_and]; rfl
  have hvadd := vecArith_integer (i := .vadd o m)
    (int := fun _ _ x y => x + y) (fp := Machine.Float.add)
    hm h hun (fun p q => (p + q) % 2 ^ w) rfl fun p q _ _ => by rw [Nat.mod_mod]
  have hvsub := vecArith_integer (i := .vsub o m)
    (int := fun w _ x y => x + (2 ^ w - y)) (fp := fun r x y => Machine.Float.add r x (Machine.Float.neg y))
    hm h hun (fun p q => (p + (2 ^ w - q)) % 2 ^ w) rfl fun p q _ _ => by rw [Nat.mod_mod]
  have hvmul := vecArith_integer (i := .vmul o m)
    (int := fun _ _ x y => x * y) (fp := fun _ x y => Machine.Float.mul x y)
    hm h hun (fun p q => p * q % 2 ^ w) rfl fun p q _ _ => by rw [Nat.mod_mod]
  have hvmin := vecArith_integer (i := .vmin o m)
    (int := intPick false) (fp := fun _ x y => (Machine.Float.minimum x y, 0))
    hm h hun (fun p q => if val p < val q then p else q) rfl fun p q hp hq => by
    by_cases hlt : val p < val q <;> simp [intPick, hval p hp, hval q hq, hlt]
  have hvmax := vecArith_integer (i := .vmax o m)
    (int := intPick true) (fp := fun _ x y => (Machine.Float.maximum x y, 0))
    hm h hun (fun p q => if val p < val q then q else p) rfl fun p q hp hq => by
    by_cases hlt : val p < val q <;> simp [intPick, hval p hp, hval q hq, hlt]
  have hvand := vecArith_integer (i := .vand o m)
    (int := fun _ _ x y => x &&& y) (fp := noFloat)
    hm h hun (fun p q => p &&& q) rfl fun _ _ _ _ => rfl
  have hvor := vecArith_integer (i := .vor o m)
    (int := fun _ _ x y => x ||| y) (fp := noFloat)
    hm h hun (fun p q => p ||| q) rfl fun _ _ _ _ => rfl
  have hvxor := vecArith_integer (i := .vxor o m)
    (int := fun _ _ x y => x ^^^ y) (fp := noFloat)
    hm h hun (fun p q => p ^^^ q) rfl fun _ _ _ _ => rfl
  have hvshl := vecArith_integer (i := .vshl o m)
    (int := fun w _ x y => x <<< (y % w)) (fp := noFloat)
    hm h hun (fun p q => p * 2 ^ (q % w) % 2 ^ w) rfl fun p q _ _ => by rw [Nat.shiftLeft_eq, Nat.mod_mod]
  have hvshr := vecArith_integer (i := .vshr o m)
    (int := fun w _ x y => x >>> (y % w)) (fp := noFloat)
    hm h hun (fun p q => p / 2 ^ (q % w)) rfl fun p q _ _ => by rw [Nat.shiftRight_eq_div_pow]
  have hvsra := vecArith_integer (i := .vsra o m)
    (int := fun w _ x y => (Machine.Float.patInt w true x / 2 ^ (y % w) % 2 ^ w).toNat) (fp := noFloat)
    hm h hun (fun p q => (arith p / 2 ^ (q % w) % 2 ^ w).toNat) rfl fun p q hp _ => by rw [harith p hp]
  exact ⟨hvadd, hvsub, hvmul, hvmin, hvmax, hvand, hvor, hvxor, hvshl, hvshr, hvsra⟩

end

theorem vectorIntegers : VectorIntegers := by
  intro o m s hrnd h hun
  have hm : elTypeOf m = .int (8 * 2 ^ (m.ty.toNat % 4)) (decide (m.ty.toNat < 4)) := by rw [elTypeOf, if_pos hrnd]; rfl
  exact integerTable hm h hun

/-! ## Moves -/

theorem pair_of_getLast (l : Option Nat) (d : Nat) : (match l with
      | some j => (j, 0)
      | none => (d, 0)) = ((match l with
      | some j => j
      | none => d), 0) := by cases l <;> rfl

section

variable {m : VecMod} {s : State} (hun : Unbounded s 1)
include hun

section

variable {o : OpRR} (h : VReady s [vDst o.a, vSrc o.b] m) (hzero : s.self.vec.vstart = 0)
include h hzero

/-- The bits of a mask below an element. -/
theorem bitsBelow_eq (k : BitVec 512) (n : Nat) : bitsBelow k n = (List.range n).filter fun j => k.getLsbD j := rfl

/-- Conflict detection names the last active element before each one that equals it. -/
theorem vconf_leads : Elementwise (.vconf o m) s s.self o.a m (laneWidth m) 0 fun e =>
    (match (((List.range e).filter fun j => (s.self.mask m.mask.toNat).getLsbD j).filter fun j =>
        vel s o.b (laneWidth m) j = vel s o.b (laneWidth m) e).getLast? with
      | some j => j
      | none => 2 ^ laneWidth m - 1, 0) := by
  obtain ⟨hready, hmask, hlanes, hfree⟩ := id h
  refine leads_useLanes rfl hfree (needStart_ok hlanes hzero) h.clear hun ?_
  have hvectors := SameVectors.of_begun s ⟨o.st, 4, .lanes, [vDst o.a, vSrc o.b] ++ maskUse m.mask⟩
  rw [M.bind_ok (hready.readV hvectors 0 ⟨vSrc o.b, by simp, rfl, rfl⟩), M.bind_ok (hmask.readK hvectors 1), M.bind_ok (self_run _),
    State.self_withSelf]
  refine congrArg (fun f => (do useLanes _ 0 _; writeElements o.a _ 0 _ m.zero _ f : M Unit) _) (funext fun e => ?_)
  have hboth : ((List.range e).filter fun j => (s.self.mask m.mask.toNat).getLsbD j).filter (fun j =>
      vel s o.b (laneWidth m) j = vel s o.b (laneWidth m) e) = (List.range e).filter fun j =>
        (s.self.mask m.mask.toNat).getLsbD j && vel s o.b (laneWidth m) j = vel s o.b (laneWidth m) e := by
    rw [List.filter_filter]
    exact congrArg (fun p => (List.range e).filter p) (funext fun j => Bool.and_comm _ _)
  rw [hboth]
  exact pair_of_getLast _ _

/-- Expansion takes the elements in order, one for each active element. -/
theorem vxpd_leads : Elementwise (.vxpd o m) s s.self o.a m (laneWidth m) 0 fun e =>
    (vel s o.b (laneWidth m) ((List.range e).filter fun j => (s.self.mask m.mask.toNat).getLsbD j).length, 0) := by
  obtain ⟨hready, hmask, hlanes, hfree⟩ := id h
  refine leads_useLanes rfl hfree (needStart_ok hlanes hzero) h.clear hun ?_
  have hvectors := SameVectors.of_begun s ⟨o.st, 3, .lanes, [vDst o.a, vSrc o.b] ++ maskUse m.mask⟩
  rw [M.bind_ok (hready.readV hvectors 0 ⟨vSrc o.b, by simp, rfl, rfl⟩), M.bind_ok (hmask.readK hvectors 1), M.bind_ok (self_run _),
    State.self_withSelf]
  rfl

/-- Compression packs the active elements at the front. -/
theorem vcmpz_leads :
    let below := fun (e : Nat) => (List.range e).filter fun j => (s.self.mask m.mask.toNat).getLsbD j
    let n := s.self.effective (laneWidth m)
    Leads (.vcmpz o m) s (s.withSelf (putV s.self o.a (laneWidth m) fun e =>
      if n ≤ e then none
      else if e < (below n).length then some (vel s o.b (laneWidth m) ((below n).getD e 0))
      else if m.zero then some 0 else none)) := by
  intro below n
  obtain ⟨hready, hmask, hlanes, hfree⟩ := id h
  have hvectors := SameVectors.of_begun s ⟨o.st, 3, .lanes, [vDst o.a, vSrc o.b] ++ maskUse m.mask⟩
  have hcount := (OnlySelf.begun s ⟨o.st, 3, .lanes, [vDst o.a, vSrc o.b] ++ maskUse m.mask⟩).countCore (coreOf s.cur) 5 (n - 0)
  obtain ⟨v, hv, hself⟩ := hcount.modSelf fun t => putV t o.a (laneWidth m) fun e =>
      if n ≤ e then none
      else if e < (below n).length then some (vel s o.b (laneWidth m) ((below n).getD e 0))
      else if m.zero then some 0 else none
  refine leads_of_lanes rfl hfree (needStart_ok hlanes hzero) h.clear (u := v) ?_ hself ⟨rfl, rfl⟩ ⟨rfl, rfl, rfl, rfl⟩
  rw [M.bind_ok (hready.readV hvectors 0 ⟨vSrc o.b, by simp, rfl, rfl⟩), M.bind_ok (hmask.readK hvectors 1), M.bind_ok (self_run _),
    State.self_withSelf]
  refine (M.bind_ok (useLanes_run hun (.begun s _) _ _ _)).trans (Eq.trans ?_ hv)
  refine congrArg (fun f => writeV o.a (laneWidth m) f _) (funext fun e => ?_)
  change (if e < n then (if e < ((below n).map fun e => vel s o.b (laneWidth m) e).length
    then ((below n).map fun e => vel s o.b (laneWidth m) e)[e]? else if m.zero then some 0 else none) else none) = _
  rw [List.length_map, List.getElem?_map]
  by_cases hn : n ≤ e
  · rw [if_neg (by omega), if_pos hn]
  · rw [if_pos (by omega), if_neg hn]
    split_ifs with hlt
    · rw [List.getElem?_eq_getElem hlt, List.getD_eq_getElem _ _ hlt]; rfl
    · rfl
    · rfl

end

/-- A broadcast writes one word to every active element. -/
theorem vbc_leads {o : OpRR} (h : VReady s [vDst o.a, wSrc o.b] m) :
    Elementwise (.vbc o m) s s.self o.a m (laneWidth m) s.self.vec.vstart fun _ => ((x s o.b).toNat, 0) := by
  obtain ⟨hready, hmask, hlanes, hfree⟩ := id h
  refine leads_useLanes rfl hfree (needGrant_ok hlanes) h.clear hun ?_
  have hvectors := SameVectors.of_begun s ⟨o.st, 3, .lanes, [vDst o.a, wSrc o.b] ++ maskUse m.mask⟩
  rw [M.bind_ok (hready.readX (by simp) (.of_begun s _) 0), M.bind_ok (hmask.readK hvectors 1), M.bind_ok (self_run _),
    State.self_withSelf]
  rfl

section

variable {o : OpRRR}

/-- The mask selects between two elements. -/
theorem vsel_leads (h : VReady s [vDst o.a, vSrc o.b, vSrc o.c] m) :
    Leads (.vsel o m) s (s.withSelf (elements s.self o.a (laneWidth m) s.self.vec.vstart (s.self.effective (laneWidth m)) false
      (BitVec.allOnes 512) fun e =>
        (if (s.self.mask m.mask.toNat).getLsbD e then vel s o.b (laneWidth m) e else vel s o.c (laneWidth m) e, 0))) := by
  obtain ⟨hready, hmask, hlanes, hfree⟩ := id h
  refine leads_useLanes rfl hfree (needGrant_ok hlanes) h.clear hun ?_
  have hvectors := SameVectors.of_begun s ⟨o.st, 2, .lanes, [vDst o.a, vSrc o.b, vSrc o.c] ++ maskUse m.mask⟩
  rw [M.bind_ok (hready.readV hvectors 0 ⟨vSrc o.b, by simp, rfl, rfl⟩), M.bind_ok (hready.readV hvectors 1 ⟨vSrc o.c, by simp, rfl, rfl⟩),
    M.bind_ok (hmask.readK hvectors 2), M.bind_ok (self_run _), State.self_withSelf]
  rfl

/-- A permutation takes elements by their indices. -/
theorem vperm_leads (h : VReady s [vDst o.a, vSrc o.b, vSrc o.c] m) (hzero : s.self.vec.vstart = 0) :
    Elementwise (.vperm o m) s s.self o.a m (laneWidth m) 0 fun e =>
      (if vel s o.c (laneWidth m) e < s.self.effective (laneWidth m) then vel s o.b (laneWidth m) (vel s o.c (laneWidth m) e) else 0, 0) := by
  obtain ⟨hready, hmask, hlanes, hfree⟩ := id h
  refine leads_useLanes rfl hfree (needStart_ok hlanes hzero) h.clear hun ?_
  have hvectors := SameVectors.of_begun s ⟨o.st, 3, .lanes, [vDst o.a, vSrc o.b, vSrc o.c] ++ maskUse m.mask⟩
  rw [M.bind_ok (hready.readV hvectors 0 ⟨vSrc o.b, by simp, rfl, rfl⟩), M.bind_ok (hready.readV hvectors 1 ⟨vSrc o.c, by simp, rfl, rfl⟩),
    M.bind_ok (hmask.readK hvectors 2), M.bind_ok (self_run _), State.self_withSelf]
  rfl

/-- One element of the capacity becomes a register's value. -/
theorem vxt_sets (h : VReady s [wDst o.a, vSrc o.b, wSrc o.c] m) :
    SetsX (.vxt o m) s o.a (extendEl (elTypeOf m)
      (if (x s o.c).toNat < s.self.vec.lanes.length * 64 / laneWidth m then vel s o.b (laneWidth m) (x s o.c).toNat else 0)) := by
  obtain ⟨hready, -, hlanes, hfree⟩ := id h
  have hbegun := OnlySelf.begun s ⟨o.st, 3, .lanes, [wDst o.a, vSrc o.b, wSrc o.c]⟩
  obtain ⟨v, hv, hself⟩ := hbegun.modSelf fun t => t.putW o.a.toNat (Reg.ofWord (extendEl (elTypeOf m)
    (if (x s o.c).toNat < s.self.vec.lanes.length * 64 / laneWidth m then vel s o.b (laneWidth m) (x s o.c).toNat else 0)))
  refine leads_of_lanes rfl hfree (needGrant_ok hlanes) (hready.clear fun r hr => ⟨r, hr, rfl, rfl⟩) ?_ hself ⟨rfl, rfl⟩
    ⟨rfl, rfl, rfl, rfl⟩
  rw [M.bind_ok (hready.readV (.of_begun s _) 0 ⟨vSrc o.b, by simp, rfl, rfl⟩), M.bind_ok (hready.readX (by simp) (.of_begun s _) 1),
    M.bind_ok (self_run _), State.self_withSelf]
  exact (M.bind_ok (spendBudget_unbounded hun hbegun 1)).trans hv

end

/-- A conversion rounds each element into the destination type. -/
theorem vcvt_leads {o : OpRX} (h : VReady s [vDst o.a, vSrc o.b] m) :
    let src := tableType (o.imm.getLsbD 3) (o.imm.setWidth 3)
    let dst := tableType (o.imm.getLsbD 4) m.ty
    let mode := s.self.roundingMode m.rnd.toNat true
    let t := stepped s.self mode
    Leads (.vcvt o m) s (s.withSelf (elements t o.a dst.lane s.self.vec.vstart
      (min (s.self.effective src.lane) (s.self.effective dst.lane)) m.zero (s.self.mask m.mask.toNat) fun e =>
        t.convert dst mode e (src.value (vel s o.b src.lane e)))) := by
  intro src dst mode t
  obtain ⟨hready, hmask, hlanes, hfree⟩ := id h
  refine leads_elements rfl hfree (needGrant_ok hlanes) h.clear ?_ (.stepped _ _)
  have hvectors := SameVectors.of_begun s ⟨o.st, 5, .lanes, [vDst o.a, vSrc o.b] ++ maskUse m.mask⟩
  obtain ⟨v, hself, hrun⟩ := useLanes_stepSeeds hun (.begun s ⟨o.st, 5, .lanes, [vDst o.a, vSrc o.b] ++ maskUse m.mask⟩) dst.lane
    s.self.vec.vstart (min (s.self.effective src.lane) (s.self.effective dst.lane)) mode
  obtain ⟨v', hv', hself'⟩ := writeElements_run hself o.a dst.lane s.self.vec.vstart
    (min (s.self.effective src.lane) (s.self.effective dst.lane)) m.zero (s.self.mask m.mask.toNat) fun e =>
      t.convert dst mode e (src.value (vel s o.b src.lane e))
  refine ⟨v', ?_, stepped_begun s.self _ mode ▸ hself'⟩
  rw [M.bind_ok (hready.readV hvectors 0 ⟨vSrc o.b, by simp, rfl, rfl⟩), M.bind_ok (hmask.readK hvectors 1), M.bind_ok (self_run _),
    State.self_withSelf]
  refine (hrun _).trans ?_
  rw [M.bind_ok (self_run v), hself.self, stepped_begun]
  exact hv'

end

theorem vectorMoves : VectorMoves :=
  ⟨fun _ _ _ h hun hzero => ⟨vconf_leads hun h hzero, vxpd_leads hun h hzero, vcmpz_leads hun h hzero⟩,
    fun _ _ _ h hun => vbc_leads hun h, fun _ _ _ h hun => ⟨vsel_leads hun h, vperm_leads hun h⟩, fun _ _ _ h hun => vxt_sets hun h,
    fun _ _ _ h hun => vcvt_leads hun h⟩

end Sys2Proof.Claims
end

section
/-! PROOF. O32: what a write of elements leaves in a register file. -/

namespace Sys2Proof.Claims

open Sys2Proof.Machine

theorem getD_lookupRange {α : Type} (d : α) (m : SMap α) (k n i : Nat) (h : i < n) : (lookupRange d m k n).getD i d = lookupD d m (k + i) := by
  induction n generalizing k i with
  | zero => omega
  | succ n ih =>
    cases i with
    | zero => rfl
    | succ i => rw [lookupRange, List.getD_cons_succ, ih _ _ (by omega)]; congr 1; omega

/-! ## Numbers by their digits -/

/-- The number whose digits to a base are given. -/
def digitSum (B : Nat) (v : Nat → Nat) (n : Nat) : Nat := (List.range n).foldl (fun acc j => acc + v j * B ^ j) 0

theorem digitSum_succ (B : Nat) (v : Nat → Nat) (n : Nat) : digitSum B v (n + 1) = digitSum B v n + v n * B ^ n := by
  rw [digitSum, List.range_succ, List.foldl_append]
  rfl

section

variable {B : Nat} {v : Nat → Nat} (h : ∀ j, v j < B)
include h

theorem digitSum_lt (n : Nat) : digitSum B v n < B ^ n := by
  induction n with
  | zero => exact Nat.one_pos
  | succ n ih =>
    have hdigit : (v n + 1) * B ^ n ≤ B * B ^ n := Nat.mul_le_mul_right _ (h n)
    rw [digitSum_succ, pow_succ']
    rw [Nat.add_mul] at hdigit
    omega

/-- Each digit is found by its place. -/
theorem digitSum_digit {n i : Nat} (hi : i < n) : digitSum B v n / B ^ i % B = v i := by
  have hpos : 0 < B ^ i := Nat.pow_pos (Nat.lt_of_le_of_lt (Nat.zero_le _) (h 0))
  induction n with
  | zero => omega
  | succ n ih =>
    rw [digitSum_succ]
    by_cases heq : i = n
    · subst heq
      rw [Nat.add_mul_div_right _ _ hpos, Nat.div_eq_of_lt (digitSum_lt h i), Nat.zero_add, Nat.mod_eq_of_lt (h i)]
    · obtain ⟨k, rfl⟩ : ∃ k, n = i + (k + 1) := ⟨n - i - 1, by omega⟩
      have hsplit : v (i + (k + 1)) * B ^ (i + (k + 1)) = v (i + (k + 1)) * B ^ k * B * B ^ i := by
        rw [pow_add, pow_succ]; ring
      rw [hsplit, Nat.add_mul_div_right _ _ hpos, Nat.add_mul_mod_self_right, ih (by omega)]

end

/-! ## Words and registers -/

/-- An element of a position's word once elements are replaced. -/
def putDigit (old : Word) (w p : Nat) (f : Nat → Option Nat) (j : Nat) : Nat :=
  match f (p * (64 / w) + j) with
  | some x => x % 2 ^ w
  | none => old.toNat / 2 ^ (j * w) % 2 ^ w

theorem putDigit_lt (old : Word) (w p : Nat) (f : Nat → Option Nat) (j : Nat) : putDigit old w p f j < 2 ^ w := by
  unfold putDigit
  split <;> exact Nat.mod_lt _ (Nat.two_pow_pos w)

theorem putWord_eq (old : Word) (w p : Nat) (f : Nat → Option Nat) :
    putWord old w p f = BitVec.ofNat 64 (digitSum (2 ^ w) (putDigit old w p f) (64 / w)) := by
  have hstep : (fun (acc j : Nat) => acc + putDigit old w p f j * 2 ^ (j * w)) =
      fun acc j => acc + putDigit old w p f j * (2 ^ w) ^ j := by
    funext acc j
    rw [← pow_mul, Nat.mul_comm w j]
  exact congrArg (fun step => BitVec.ofNat 64 ((List.range (64 / w)).foldl step 0)) hstep

/-- An element of a word with elements replaced. -/
theorem putWord_digit (old : Word) {w p j : Nat} (f : Nat → Option Nat) (hw : w * (64 / w) ≤ 64) (hj : j < 64 / w) :
    (putWord old w p f).toNat / 2 ^ (j * w) % 2 ^ w = putDigit old w p f j := by
  have hlt := digitSum_lt (putDigit_lt old w p f) (64 / w)
  have hdigit := digitSum_digit (putDigit_lt old w p f) hj
  rw [← pow_mul] at hlt hdigit
  rw [putWord_eq, BitVec.toNat_ofNat, Nat.mod_eq_of_lt (hlt.trans_le (Nat.pow_le_pow_right (by decide) hw)), Nat.mul_comm j w, hdigit]

/-- The words of a register file with elements of one register replaced. -/
theorem lookupD_putElements (g r w : Nat) (f : Nat → Option Nat) (m : SMap Word) (hg : g ≤ 64) (k : Nat) :
    lookupD 0 (putElements g r w f m) k = if k / 64 = r ∧ k % 64 < g then putWord (lookupD 0 m k) w (k % 64) f else lookupD 0 m k := by
  induction g with
  | zero => simp [putElements]
  | succ g ih =>
    have hstep : putElements (g + 1) r w f m = storeAt 0 (r * 64 + g)
        (putWord (lookupD 0 (putElements g r w f m) (r * 64 + g)) w g f) (putElements g r w f m) := by
      simp only [putElements, List.range_succ, List.foldl_append, List.foldl_cons, List.foldl_nil]
    have hlast := ih (by omega)
    rw [hstep, lookupD_storeAt]
    by_cases hk : k = r * 64 + g
    · subst hk
      have hmod : (r * 64 + g) % 64 = g := by omega
      rw [if_pos rfl, hlast, if_neg (by omega), if_pos (by omega), hmod]
    · rw [if_neg hk, hlast]
      by_cases hin : k / 64 = r ∧ k % 64 < g
      · rw [if_pos hin, if_pos (by omega)]
      · rw [if_neg hin, if_neg (by omega)]

theorem elementsWritten : ElementsWritten := by
  intro m g r w f hg hw after at_
  have hper : 0 < 64 / w ∧ w * (64 / w) ≤ 64 ∧ 64 / w * 64 ≤ 512 := by rcases hw with rfl | rfl | rfl | rfl <;> decide
  refine ⟨fun e he => ?_, fun k hk => ?_⟩
  · have hpos : e / (64 / w) < g := Nat.div_lt_of_lt_mul (by rwa [Nat.mul_comm])
    have hword : ∀ m' : SMap Word, at_ m' e = (lookupD 0 m' (r.toNat * 64 + e / (64 / w))).toNat / 2 ^ (e % (64 / w) * w) % 2 ^ w := by
      intro m'
      simp only [at_, elAt]
      rw [getD_lookupRange 0 m' _ _ _ (by omega)]
    have hplace : e / (64 / w) * (64 / w) + e % (64 / w) = e := Nat.div_add_mod' _ _
    have hmod : (r.toNat * 64 + e / (64 / w)) % 64 = e / (64 / w) ∧ (r.toNat * 64 + e / (64 / w)) / 64 = r.toNat := by
      generalize e / (64 / w) = p at hpos
      omega
    have hput := putWord_digit (lookupD 0 m (r.toNat * 64 + e / (64 / w))) (p := e / (64 / w)) f hper.2.1 (Nat.mod_lt e hper.1)
    rw [putDigit, hplace] at hput
    rw [hword, hword, lookupD_putElements g r.toNat w f m hg, hmod.1, hmod.2, if_pos ⟨rfl, hpos⟩]
    exact hput.trans (by cases f e <;> rfl)
  · rw [lookupD_putElements g r.toNat w f m hg, if_neg (by omega)]

/-- Settles O32: elements go to their places in the register's words, and each instruction writes its function of the sources'
elements. -/
theorem vectorElements : Obligations.VectorElements := ⟨elementsWritten, vectorIntegers, vectorMoves⟩

end Sys2Proof.Claims
end

section
/-! SUPPORT. Elementwise floating point (R194, R204), and compares into masks (R195, R197). -/

namespace Sys2Proof.Claims

open Sys2Proof.Machine

variable {s u : State} {t : Strand} {m : VecMod}

/-! ## Elementwise floating point -/

/-- What draws its words and then writes elements, as one operation. -/
theorem leads_stepped {i : Instr} {d : Desc} {priv body : M Unit} {a : RegNo} {w start n mode : Nat} {zero : Bool} {k : BitVec 512}
    {f : Nat → Nat × Nat} {G : Strand → M Unit} (hx : exec i s = runPriv d priv body s) (hfree : Free s) (hp : priv s = .ok () s)
    (hc : s.self.Clear d.regs) (hun : Unbounded s 1)
    (hb : body (s.withSelf (s.self.begun d)) = (do useLanes w start n; stepSeeds mode; G (← self) : M Unit) (s.withSelf (s.self.begun d)))
    (hG : ∀ v, G ((stepped s.self mode).begun d) v = writeElements a w start n zero k f v) :
    Leads i s (s.withSelf (elements (stepped s.self mode) a w start n zero k f)) := by
  refine leads_elements hx hfree hp hc ?_ (.stepped _ _)
  obtain ⟨v, hself, hrun⟩ := useLanes_stepSeeds hun (.begun s d) w start n mode
  obtain ⟨v', hv', hself'⟩ := writeElements_run hself a w start n zero k f
  refine ⟨v', hb.trans ((hrun _).trans ?_), stepped_begun s.self d mode ▸ hself'⟩
  rw [M.bind_ok (self_run v), hself.self, stepped_begun, hG]
  exact hv'

section

variable (hun : Unbounded s 1)
include hun

/-- The fused product and sum of three elements, rounded once. -/
theorem vfma_leads {o : OpRRR} (h : VReady s [vBoth o.a, vSrc o.b, vSrc o.c] m) :
    let F := fpFormat m.ty
    let mode := s.self.roundingMode m.rnd.toNat false
    let t := stepped s.self mode
    let el := fun (r : RegNo) (e : Nat) => Machine.Float.decode F (vel s r F.width e)
    Elementwise (.vfma o m) s t o.a m F.width s.self.vec.vstart fun e =>
      t.roundElement F mode e (Machine.Float.fma mode (el o.a e) (el o.b e) (el o.c e)) := by
  intro F mode t el
  obtain ⟨hready, hmask, hlanes, hfree⟩ := id h
  have hvectors := SameVectors.of_begun s ⟨o.st, 5, .lanes, [vBoth o.a, vSrc o.b, vSrc o.c] ++ maskUse m.mask⟩
  refine leads_stepped (mode := mode) (G := fun t => writeElements o.a F.width s.self.vec.vstart (t.effective F.width) m.zero
    (s.self.mask m.mask.toNat) fun e => t.roundElement F mode e (Machine.Float.fma mode (el o.a e) (el o.b e) (el o.c e)))
    rfl hfree (needGrant_ok hlanes) h.clear hun ?_ fun v => ?_
  · rw [M.bind_ok (hready.readV hvectors 0 ⟨vBoth o.a, by simp, rfl, rfl⟩), M.bind_ok (hready.readV hvectors 1 ⟨vSrc o.b, by simp, rfl, rfl⟩),
      M.bind_ok (hready.readV hvectors 2 ⟨vSrc o.c, by simp, rfl, rfl⟩), M.bind_ok (hmask.readK hvectors 3), M.bind_ok (self_run _),
      State.self_withSelf]
    rfl
  · rw [show ((stepped s.self mode).begun _).effective F.width = s.self.effective F.width from effective_stepped s.self mode F.width]
    rfl

/-- A special function of each element, rounded as R204 says. -/
theorem specialFunction_leads {i : Instr} {o : OpRR} (f : Machine.Float.Value → Machine.Float.Value × Nat)
    (hx : exec i s = specialFunction f o m s) (h : VReady s [vDst o.a, vSrc o.b] m) :
    let F := fpFormat m.ty
    let mode := s.self.roundingMode m.rnd.toNat false
    Elementwise i s (stepped s.self mode) o.a m F.width s.self.vec.vstart fun e =>
        let r := f (Machine.Float.decode F (vel s o.b F.width e))
        let c := Machine.Float.roundSpecial F mode r.1
        (c.1, r.2 ||| c.2) := by
  intro F mode
  obtain ⟨hready, hmask, hlanes, hfree⟩ := id h
  have hvectors := SameVectors.of_begun s ⟨o.st, 5, .lanes, [vDst o.a, vSrc o.b] ++ maskUse m.mask⟩
  refine leads_elements hx hfree (needGrant_ok hlanes) h.clear ?_ (.stepped _ _)
  obtain ⟨v, hself, hrun⟩ := useLanes_stepSeeds hun (.begun s ⟨o.st, 5, .lanes, [vDst o.a, vSrc o.b] ++ maskUse m.mask⟩) F.width
    s.self.vec.vstart (s.self.effective F.width) mode
  obtain ⟨v', hv', hself'⟩ := writeElements_run hself o.a F.width s.self.vec.vstart (s.self.effective F.width) m.zero
    (s.self.mask m.mask.toNat) fun e =>
      let r := f (Machine.Float.decode F (vel s o.b F.width e))
      let c := Machine.Float.roundSpecial F mode r.1
      (c.1, r.2 ||| c.2)
  refine ⟨v', ?_, stepped_begun s.self _ mode ▸ hself'⟩
  rw [M.bind_ok (hready.readV hvectors 0 ⟨vSrc o.b, by simp, rfl, rfl⟩), M.bind_ok (hmask.readK hvectors 1), M.bind_ok (self_run _),
    State.self_withSelf]
  exact (hrun _).trans hv'

end

theorem elTypeOf_float {m : VecMod} (h : m.rnd ≠ 5) : elTypeOf m = .fp (fpFormat m.ty) := if_neg h

theorem vectorFloats : VectorFloats := by
  refine ⟨fun o m s hrnd h hun => ?_, fun _ _ _ h hun => vfma_leads hun h, fun o m s h hun => ?_⟩
  · have hm := elTypeOf_float hrnd
    exact ⟨vecArith_float h hun (i := .vadd o m) (int := fun _ _ x y => x + y) (fp := Machine.Float.add) rfl hm,
      vecArith_float h hun (i := .vsub o m) (int := fun w _ x y => x + (2 ^ w - y)) (fp := fun r x y => Machine.Float.add r x (Machine.Float.neg y)) rfl hm,
      vecArith_float h hun (i := .vmul o m) (int := fun _ _ x y => x * y) (fp := fun _ x y => Machine.Float.mul x y) rfl hm,
      vecArith_float h hun (i := .vmin o m) (int := intPick false) (fp := fun _ x y => (Machine.Float.minimum x y, 0)) rfl hm,
      vecArith_float h hun (i := .vmax o m) (int := intPick true) (fp := fun _ x y => (Machine.Float.maximum x y, 0)) rfl hm⟩
  · exact ⟨specialFunction_leads hun Machine.Float.exp2 rfl h, specialFunction_leads hun Machine.Float.log2 rfl h,
      specialFunction_leads hun Machine.Float.rcp rfl h, specialFunction_leads hun Machine.Float.rsq rfl h⟩

end Sys2Proof.Claims
end

section
/-! SUPPORT. Compares into masks, mask logic and counts (R195, R197). -/

namespace Sys2Proof.Claims

open Sys2Proof.Machine

variable {s u : State} {t : Strand} {m : VecMod}

/-! ## The bits of a compare -/

/-- The mask and the flags behind the elements below `n` of a compare: `one` gives an element's bit and its flags. -/
def compared (old k : BitVec 512) (start : Nat) (zero : Bool) (one : Nat → Bool × Nat) (n : Nat) : BitVec 512 × Nat :=
  (List.range n).foldl (fun (acc : BitVec 512 × Nat) e =>
    let bit := fun (b : Bool) => if b then acc.1 ||| (1#512 <<< e) else acc.1 &&& ~~~ (1#512 <<< e)
    if e < start then acc
    else if k.getLsbD e then (bit (one e).1, acc.2 ||| (one e).2)
    else if zero then (bit false, acc.2)
    else acc) (old, 0)

/-- A mask with one bit set to a value. -/
def putBit (v : BitVec 512) (e : Nat) (b : Bool) : BitVec 512 := if b then v ||| (1#512 <<< e) else v &&& ~~~ (1#512 <<< e)

theorem getLsbD_putBit (v : BitVec 512) {e j : Nat} (b : Bool) (hj : j < 512) :
    (putBit v e b).getLsbD j = if j = e then b else v.getLsbD j := by
  have hone : (1#512 <<< e).getLsbD j = decide (j = e) := by
    simp only [BitVec.getLsbD_shiftLeft, BitVec.getLsbD_one, hj]
    by_cases h : j = e
    · simp [h]
    · by_cases hlt : j < e
      · simp [hlt, h]
      · simp [h, show j - e ≠ 0 by omega]
  unfold putBit
  cases b
  · rw [if_neg (by decide), BitVec.getLsbD_and, BitVec.getLsbD_not, hone]
    by_cases h : j = e <;> simp only [h, hj, decide_true, decide_false, if_true, if_false, Bool.not_true, Bool.not_false, Bool.and_true,
      Bool.and_false]
  · rw [if_pos rfl, BitVec.getLsbD_or, hone]
    by_cases h : j = e <;> simp only [h, decide_true, decide_false, if_true, if_false, Bool.or_true, Bool.or_false]

section

variable (old k : BitVec 512) (start : Nat) (zero : Bool) (one : Nat → Bool × Nat)

theorem compared_succ (n : Nat) : compared old k start zero one (n + 1) =
    if n < start then compared old k start zero one n
    else if k.getLsbD n then (putBit (compared old k start zero one n).1 n (one n).1, (compared old k start zero one n).2 ||| (one n).2)
    else if zero then (putBit (compared old k start zero one n).1 n false, (compared old k start zero one n).2)
    else compared old k start zero one n := by
  rw [compared, List.range_succ, List.foldl_append]
  rfl

theorem getLsbD_compared (n : Nat) {e : Nat} (he : e < 512) : (compared old k start zero one n).1.getLsbD e =
    if start ≤ e ∧ e < n then if k.getLsbD e then (one e).1 else if zero then false else old.getLsbD e else old.getLsbD e := by
  induction n with
  | zero => simp [compared]
  | succ n ih =>
    rw [compared_succ]
    by_cases heq : e = n
    · subst heq
      rw [if_neg (by omega)] at ih
      by_cases hs : e < start
      · rw [if_pos hs, ih, if_neg (by omega)]
      · rw [if_neg hs, if_pos (⟨by omega, by omega⟩ : start ≤ e ∧ e < e + 1)]
        by_cases hk : k.getLsbD e
        · rw [if_pos hk, if_pos hk, getLsbD_putBit _ _ he, if_pos rfl]
        · rw [if_neg hk, if_neg hk]
          cases zero
          · exact ih
          · rw [if_pos rfl, if_pos rfl, getLsbD_putBit _ _ he, if_pos rfl]
    · have hiff : (start ≤ e ∧ e < n) ↔ (start ≤ e ∧ e < n + 1) := by omega
      simp only [← hiff, ← ih]
      split_ifs <;> simp [getLsbD_putBit _ _ he, heq]

/-- The flags of a compare are those of its active elements. -/
theorem flags_compared (p : Nat → Bool) (fl : Nat) (hone : ∀ e, (one e).2 = if p e then fl else 0) (n : Nat) :
    (compared old k start zero one n).2 = if ((List.range n).filter fun e => start ≤ e && k.getLsbD e).any p then fl else 0 := by
  induction n with
  | zero => rfl
  | succ n ih =>
    have hfilter : ((List.range (n + 1)).filter fun e => decide (start ≤ e) && k.getLsbD e).any p =
        (((List.range n).filter fun e => decide (start ≤ e) && k.getLsbD e).any p || (decide (start ≤ n) && k.getLsbD n && p n)) := by
      rw [List.range_succ, List.filter_append, List.any_append]
      cases h : (decide (start ≤ n) && k.getLsbD n) <;> simp [List.filter_cons, h]
    rw [compared_succ, hfilter]
    by_cases hs : n < start
    · have hle : ¬start ≤ n := by omega
      rw [if_pos hs, ih]
      simp only [hle, decide_false, Bool.false_and, Bool.or_false]
    · have hle : start ≤ n := by omega
      rw [if_neg hs]
      by_cases hk : k.getLsbD n
      · rw [if_pos hk]
        simp only [ih, hone, hle, hk, decide_true, Bool.true_and]
        cases ((List.range n).filter fun e => decide (start ≤ e) && k.getLsbD e).any p <;> cases p n <;> simp
      · simp only [hk, Bool.false_eq_true, if_false, Bool.and_false, Bool.false_and, Bool.or_false]
        split_ifs <;> simp_all

end

/-! ## Compares -/

/-- A strand whose mask register takes a value; `k0` is never written. -/
def putK (t : Strand) (n : Nat) (v : BitVec 512) : Strand :=
  { t with vec := { t.vec with k := if n = 0 then t.vec.k else storeAt 0 n v t.vec.k } }

theorem writeK_run (hu : OnlySelf s t u) (n : Nat) (v : BitVec 512) :
    ∃ w, writeK n v u = .ok () w ∧ OnlySelf s (putK t n v) w := by
  unfold writeK putK
  split
  · exact ⟨u, rfl, hu⟩
  · exact hu.modSelf _

/-- What a compare finds of one element: whether the pair is unordered, and the two relations. -/
def unorderedAt (s : State) (m : VecMod) (o : OpRRC) (e : Nat) : Bool :=
  match elTypeOf m with
  | .int _ _ => false
  | .fp F => decide (Machine.Float.decode F (vel s o.x (laneWidth m) e) = .nan ∨ Machine.Float.decode F (vel s o.y (laneWidth m) e) = .nan)

/-- Less and equal, of one element. -/
def relationAt (s : State) (m : VecMod) (o : OpRRC) (e : Nat) : Bool × Bool :=
  match elTypeOf m with
  | .int b signed =>
    let p := Machine.Float.patInt b signed (vel s o.x (laneWidth m) e)
    let q := Machine.Float.patInt b signed (vel s o.y (laneWidth m) e)
    (decide (p < q), decide (p = q))
  | .fp F => Machine.Float.compare (Machine.Float.decode F (vel s o.x (laneWidth m) e)) (Machine.Float.decode F (vel s o.y (laneWidth m) e))

/-- The bit and the flags of one element. -/
def compareOne (s : State) (m : VecMod) (o : OpRRC) (quiet : Bool) (f : Bool → Bool → Bool) (e : Nat) : Bool × Nat :=
  match elTypeOf m with
  | .int w signed =>
    let a := Machine.Float.patInt w signed (vel s o.x w e)
    let b := Machine.Float.patInt w signed (vel s o.y w e)
    (f (a < b) (a = b), 0)
  | .fp ft =>
    let a := Machine.Float.decode ft (vel s o.x (laneWidth m) e)
    let b := Machine.Float.decode ft (vel s o.y (laneWidth m) e)
    let unordered := a = Machine.Float.Value.nan || b = Machine.Float.Value.nan
    let (lt, eq) := Machine.Float.compare a b
    (!unordered && f lt eq, if unordered && !quiet then Machine.Float.fNv else 0)

section

variable {o : OpRRC} (quiet : Bool) (f : Bool → Bool → Bool)

theorem compareOne_bit (e : Nat) : (compareOne s m o quiet f e).1 =
    (!unorderedAt s m o e && f (relationAt s m o e).1 (relationAt s m o e).2) := by
  unfold compareOne unorderedAt relationAt laneWidth
  cases elTypeOf m with
  | int w signed => rfl
  | fp ft => simp only [Bool.decide_or]

theorem compareOne_flags (e : Nat) : (compareOne s m o quiet f e).2 =
    if !quiet && unorderedAt s m o e then Machine.Float.fNv else 0 := by
  unfold compareOne unorderedAt
  cases elTypeOf m with
  | int w signed => simp
  | fp ft => simp only [Bool.decide_or, Bool.and_comm]

/-- A compare writes the bits of its elements, and adds their flags. -/
theorem vecCompare_leads {i : Instr} (hx : exec i s = vecCompare o m quiet f s)
    (h : VReady s [vSrc o.x, vSrc o.y, kDst o.a.toNat] m) (hun : Unbounded s 1) :
    let c := compared (s.self.mask o.a.toNat) (s.self.mask m.mask.toNat) s.self.vec.vstart m.zero (compareOne s m o quiet f)
      (s.self.effective (laneWidth m))
    Leads i s (s.withSelf { flagged s.self c.2 with vec := { (putK s.self o.a.toNat c.1).vec with vstart := 0 } }) := by
  intro c
  obtain ⟨hready, hmask, hlanes, hfree⟩ := id h
  obtain ⟨d, hd, hregs⟩ : ∃ d : Desc, d = ⟨o.st, dualLatency m, .lanes, (match o.c with
      | none => [vSrc o.a, vSrc o.b, kDst o.a.toNat]
      | some c => [vSrc o.b, vSrc c, kDst o.a.toNat]) ++ maskUse m.mask⟩ ∧ d.regs = [vSrc o.x, vSrc o.y, kDst o.a.toNat] ++ maskUse m.mask := by
    refine ⟨_, rfl, ?_⟩
    unfold OpRRC.x OpRRC.y
    cases o.c <;> rfl
  obtain ⟨u1, h1, hu1⟩ := writeK_run ((OnlySelf.begun s d).countCore (coreOf s.cur) 5 (s.self.effective (laneWidth m) - s.self.vec.vstart))
    o.a.toNat c.1
  obtain ⟨u2, h2, hu2⟩ := hu1.modSelf fun t => flagged t c.2
  obtain ⟨u3, h3, hu3⟩ := hu2.modSelf fun t => { t with vec := { t.vec with vstart := 0 } }
  refine leads_of_lanes (d := d) (by rw [hx, hd]; rfl) hfree (needGrant_ok hlanes) (hregs ▸ h.clear) ?_ hu3 ⟨rfl, rfl⟩ ⟨rfl, rfl, rfl, rfl⟩
  have hvectors := SameVectors.of_begun s d
  rw [M.bind_ok (hready.readV hvectors 0 ⟨vSrc o.x, by simp, rfl, rfl⟩), M.bind_ok (hready.readV hvectors 1 ⟨vSrc o.y, by simp, rfl, rfl⟩),
    M.bind_ok (hmask.readK hvectors 2), M.bind_ok (self_run _), State.self_withSelf]
  refine (M.bind_ok (useLanes_run hun (.begun s d) _ _ _)).trans ?_
  refine (M.bind_ok h1).trans ?_
  refine (M.bind_ok h2).trans ?_
  exact h3

end

end Sys2Proof.Claims
end

section
/-! PROOF. O33: floating-point elements, compares and masks, folds and scans. -/

namespace Sys2Proof.Claims

open Sys2Proof.Machine

variable {s u : State} {t : Strand} {m : VecMod}

/-! ## Masks -/

/-- The mask and flags of a compare, as R195 says them. -/
theorem compare_claim {o : OpRRC} {i : Instr} (quiet : Bool) (f : Bool × Bool → Bool)
    (hx : exec i s = vecCompare o m quiet (fun lt eq => f (lt, eq)) s) (h : VReady s [vSrc o.x, vSrc o.y, kDst o.a.toNat] m)
    (hun : Unbounded s 1) : ∃ K : BitVec 512,
      (∀ e < 512, K.getLsbD e =
        if s.self.vec.vstart ≤ e ∧ e < s.self.effective (laneWidth m) then
          if (s.self.mask m.mask.toNat).getLsbD e then !unorderedAt s m o e && f (relationAt s m o e)
          else if m.zero then false else (s.self.mask o.a.toNat).getLsbD e
        else (s.self.mask o.a.toNat).getLsbD e) ∧
      let fl := if !quiet && (active s m (laneWidth m) s.self.vec.vstart).any (unorderedAt s m o) then Machine.Float.fNv else 0
      let t := flagged s.self fl
      Leads i s (s.withSelf { t with vec := { t.vec with
        vstart := 0, k := if o.a.toNat = 0 then t.vec.k else storeAt 0 o.a.toNat K t.vec.k } }) := by
  have hleads := vecCompare_leads quiet (fun lt eq => f (lt, eq)) hx h hun
  dsimp only at hleads
  refine ⟨(compared (s.self.mask o.a.toNat) (s.self.mask m.mask.toNat) s.self.vec.vstart m.zero
    (compareOne s m o quiet fun lt eq => f (lt, eq)) (s.self.effective (laneWidth m))).1, fun e he => ?_, ?_⟩
  · rw [getLsbD_compared _ _ _ _ _ _ he, compareOne_bit]
  · have hflags := flags_compared (s.self.mask o.a.toNat) (s.self.mask m.mask.toNat) s.self.vec.vstart m.zero
      (compareOne s m o quiet fun lt eq => f (lt, eq)) (fun e => !quiet && unorderedAt s m o e) Machine.Float.fNv
      (compareOne_flags quiet _) (s.self.effective (laneWidth m))
    have hany : (((List.range (s.self.effective (laneWidth m))).filter fun e =>
        decide (s.self.vec.vstart ≤ e) && (s.self.mask m.mask.toNat).getLsbD e).any fun e => !quiet && unorderedAt s m o e) =
        (!quiet && (active s m (laneWidth m) s.self.vec.vstart).any (unorderedAt s m o)) := by
      cases quiet
      · rfl
      · simp
    rw [hany] at hflags
    rw [hflags] at hleads
    exact hleads

theorem clear_twoMasks {o : OpRRC} (h : Ready s [kDst o.a.toNat, kSrc o.x.toNat, kSrc o.y.toNat]) : s.self.Clear (twoSource 2 o) := by
  refine h.clear fun r hr => ?_
  obtain ⟨st, a, b, c⟩ := o
  cases c <;> simp [twoSource, kDst, kSrc, OpRRC.x, OpRRC.y] at hr ⊢ <;> rcases hr with rfl | rfl | rfl <;> simp

/-- A ready mask source is read as it stands. -/
theorem Ready.readMask {us : List RegUse} (h : Ready s us) (hu : SameVectors u.self s.self) (i : Nat) {n : RegNo}
    (hmem : kSrc n.toNat ∈ us) : Machine.readK i n.toNat u = .ok (s.self.mask n.toNat) u := by
  unfold Machine.readK
  rw [M.bind_ok (h.readsOld_none (file := 2) (num := n.toNat) hu i (by decide) ⟨kSrc n.toNat, hmem, rfl, rfl⟩), M.bind_ok (self_run u)]
  simp only [Strand.mask, hu.vec]
  rfl

/-- Mask logic puts its function of two masks into a third. -/
theorem maskLogic_leads {o : OpRRC} {i : Instr} (f : BitVec 512 → BitVec 512 → BitVec 512) (hx : exec i s = maskLogic o f s)
    (h : Ready s [kDst o.a.toNat, kSrc o.x.toNat, kSrc o.y.toNat]) (hlanes : s.self.vec.lanes ≠ []) :
    Leads i s (s.withSelf (putK s.self o.a.toNat (f (s.self.mask o.x.toNat) (s.self.mask o.y.toNat)))) := by
  obtain ⟨v, hv, hself⟩ := writeK_run (OnlySelf.begun s ⟨o.st, 2, .execute, twoSource 2 o⟩) o.a.toNat
    (f (s.self.mask o.x.toNat) (s.self.mask o.y.toNat))
  refine leads_of_runPriv hx Steer.noConfusion (needGrant_ok hlanes) (clear_twoMasks h) ?_ hself rfl rfl rfl rfl rfl rfl
  rw [M.bind_ok (h.readMask (.of_begun s _) 0 (by simp)), M.bind_ok (h.readMask (.of_begun s _) 1 (by simp))]
  exact hv

/-- A count of a mask's bits becomes a register's value. -/
theorem maskCount_sets {o : OpRR} {i : Instr} (f : List Nat → Word)
    (hx : exec i s = runPriv ⟨o.st, 2, .execute, [wDst o.a, kSrc o.b.toNat]⟩ needGrant (do
      let k ← Machine.readK 0 o.b.toNat
      let t ← self
      writeX o.a (f (bitsBelow k t.vec.vlen))) s)
    (h : Ready s [wDst o.a, kSrc o.b.toNat]) (hlanes : s.self.vec.lanes ≠ []) :
    SetsX i s o.a (f (bitsBelow (s.self.mask o.b.toNat) s.self.vec.vlen)) := by
  obtain ⟨v, hv, hself⟩ := (OnlySelf.begun s ⟨o.st, 2, .execute, [wDst o.a, kSrc o.b.toNat]⟩).modSelf fun t =>
    t.putW o.a.toNat (Reg.ofWord (f (bitsBelow (s.self.mask o.b.toNat) s.self.vec.vlen)))
  refine leads_of_runPriv hx Steer.noConfusion (needGrant_ok hlanes) (h.clear fun r hr => ⟨r, hr, rfl, rfl⟩) ?_ hself rfl rfl rfl rfl rfl rfl
  rw [M.bind_ok (h.readMask (.of_begun s _) 0 (by simp)), M.bind_ok (self_run _), State.self_withSelf]
  exact hv

theorem maskResults : MaskResults := by
  refine ⟨fun o m s h hun => ⟨?_, ?_, ?_⟩, fun o s h hlanes => ⟨maskLogic_leads _ rfl h hlanes, maskLogic_leads _ rfl h hlanes⟩,
    fun o s h hlanes => ⟨maskCount_sets (fun l => BitVec.ofNat 64 l.length) rfl h hlanes, ?_⟩⟩
  · exact compare_claim true (fun r => r.2) rfl h hun
  · exact compare_claim false (fun r => r.1) rfl h hun
  · exact compare_claim false (fun r => r.1 || r.2) rfl h hun
  · exact maskCount_sets (fun l => match l.head? with
      | some e => BitVec.ofNat 64 e
      | none => BitVec.allOnes 64) rfl h hlanes

/-! ## Folds and scans -/

/-- The registers of a fold or scan whose result is ready too. -/
theorem VReady.clear_result {o : OpRR} (h : VReady s [vSrc o.b] m) {r : RegUse} (hr : Ready s [r]) : s.self.Clear ([r, vSrc o.b] ++ maskUse m.mask) := by
  refine ((hr.append h.1).append h.2.1).clear fun v hv => ⟨v, ?_, rfl, rfl⟩
  simpa using hv

theorem active_zero (w : Nat) : active s m w 0 = bitsBelow (s.self.mask m.mask.toNat) (s.self.effective w) := by
  simp [active, bitsBelow]

section

variable {o : OpRR} (h : VReady s [vSrc o.b] m) (hun : Unbounded s 1) (hzero : s.self.vec.vstart = 0)
include h hun hzero

/-- A fold of integers gives one word from the active elements. -/
theorem reduce_int {i : Instr} {op : FoldOp} (hx : exec i s = reduceElements op o m s) {bits : Nat} {signed : Bool}
    (hm : elTypeOf m = .int bits signed) (hr : Ready s [wDst o.a]) :
    SetsX i s o.a (if op = .sum then BitVec.ofInt 64 ((bitsBelow (s.self.mask m.mask.toNat) (s.self.effective bits)).foldl
        (fun a e => a + Machine.Float.patInt bits signed (vel s o.b bits e)) 0)
      else extendEl (.int bits signed) ((bitsBelow (s.self.mask m.mask.toNat) (s.self.effective bits)).foldl
        (fun acc e => op.int bits signed acc (vel s o.b bits e)) (op.intIdentity bits signed))) := by
  obtain ⟨hready, hmask, hlanes, hfree⟩ := id h
  have hw : laneWidth m = bits := by rw [laneWidth, hm]; rfl
  have hvectors := SameVectors.of_begun s ⟨o.st, 0, .lanes, [wDst o.a, vSrc o.b] ++ maskUse m.mask⟩
  obtain ⟨v, hv, hself⟩ := ((OnlySelf.begun s ⟨o.st, 0, .lanes, [wDst o.a, vSrc o.b] ++ maskUse m.mask⟩).countCore (coreOf s.cur) 5
    (s.self.effective bits - 0)).modSelf fun t => t.putW o.a.toNat (Reg.ofWord (if op = .sum then
        BitVec.ofInt 64 ((bitsBelow (s.self.mask m.mask.toNat) (s.self.effective bits)).foldl
          (fun a e => a + Machine.Float.patInt bits signed (vel s o.b bits e)) 0)
      else extendEl (.int bits signed) ((bitsBelow (s.self.mask m.mask.toNat) (s.self.effective bits)).foldl
        (fun acc e => op.int bits signed acc (vel s o.b bits e)) (op.intIdentity bits signed))))
  refine leads_of_lanes hx hfree (needStart_ok hlanes hzero) (h.clear_result hr) ?_ hself ⟨rfl, rfl⟩ ⟨rfl, rfl, rfl, rfl⟩
  rw [M.bind_ok (hready.readV hvectors 0 ⟨vSrc o.b, by simp, rfl, rfl⟩), M.bind_ok (hmask.readK hvectors 1), M.bind_ok (self_run _),
    State.self_withSelf, hw]
  refine (M.bind_ok (useLanes_run hun (.begun s _) _ _ _)).trans (Eq.trans ?_ hv)
  rw [hm]
  cases op <;> rfl

/-- A scan of integers writes its prefixes. -/
theorem scan_int {i : Instr} {op : FoldOp} (hx : exec i s = scanElements op o m s) {bits : Nat} {signed : Bool}
    (hm : elTypeOf m = .int bits signed) (hr : Ready s [vDst o.a]) :
    Elementwise i s s.self o.a m bits 0 fun e => ((prefixes (s.self.effective bits) (s.self.mask m.mask.toNat) (vel s o.b bits)
      fun _ p q => (op.int bits signed p q, 0)).1.getD e 0, 0) := by
  obtain ⟨hready, hmask, hlanes, hfree⟩ := id h
  have hw : laneWidth m = bits := by rw [laneWidth, hm]; rfl
  have hvectors := SameVectors.of_begun s ⟨o.st, 0, .lanes, [vDst o.a, vSrc o.b] ++ maskUse m.mask⟩
  refine leads_useLanes hx hfree (needStart_ok hlanes hzero) (h.clear_result hr) hun ?_
  rw [M.bind_ok (hready.readV hvectors 0 ⟨vSrc o.b, by simp, rfl, rfl⟩), M.bind_ok (hmask.readK hvectors 1), M.bind_ok (self_run _),
    State.self_withSelf, hw, hm]
  rfl

omit h hun hzero in
theorem shows_flagged_putW (t : Strand) (d : Desc) (fl n : Nat) (r : Reg) :
    Shows ((flagged (t.begun d) fl).putW n r) ((flagged t fl).putW n r) := ⟨rfl, rfl⟩

omit h hun hzero in
theorem StandsAt.flagged_putW {t r : Strand} (h : StandsAt t r) (d : Desc) (fl n : Nat) (v : Reg) :
    StandsAt ((flagged (t.begun d) fl).putW n v) r := ⟨h.1, h.2.1, h.2.2.1, h.2.2.2⟩

section

variable {F : Machine.Float.Format} (hm : elTypeOf m = .fp F) (op : FoldOp)
include hm

/-- A fold of floating-point values gives the last of its prefixes, and adds the flags. -/
theorem reduce_float {i : Instr} (hx : exec i s = reduceElements op o m s) (hr : Ready s [wDst o.a]) :
    let mode := s.self.roundingMode m.rnd.toNat false
    let t := stepped s.self mode
    let ps := prefixes (s.self.effective (laneWidth m)) (s.self.mask m.mask.toNat) (vel s o.b (laneWidth m)) fun e p q => op.fp t F mode e p q
    Leads i s (s.withSelf ((flagged t ps.2).putW o.a.toNat (Reg.ofWord (BitVec.ofNat 64
      (if (bitsBelow (s.self.mask m.mask.toNat) (s.self.effective (laneWidth m))).isEmpty then op.fpIdentity F
        else canonicalEl F (ps.1.getLastD 0)))))) := by
  intro mode t ps
  obtain ⟨hready, hmask, hlanes, hfree⟩ := id h
  obtain ⟨d, hd⟩ : ∃ d : Desc, d = ⟨o.st, 0, .lanes, [wDst o.a, vSrc o.b] ++ maskUse m.mask⟩ := ⟨_, rfl⟩
  have hvectors := SameVectors.of_begun s d
  obtain ⟨u1, hself1, hrun⟩ := useLanes_stepSeeds hun (.begun s d) (laneWidth m) 0 (s.self.effective (laneWidth m)) mode
  rw [stepped_begun] at hself1
  obtain ⟨u2, h2, hself2⟩ := hself1.modSelf fun t => flagged t ps.2
  obtain ⟨u3, h3, hself3⟩ := hself2.modSelf fun t => t.putW o.a.toNat (Reg.ofWord (BitVec.ofNat 64
      (if (bitsBelow (s.self.mask m.mask.toNat) (s.self.effective (laneWidth m))).isEmpty then op.fpIdentity F
        else canonicalEl F (ps.1.getLastD 0))))
  refine leads_of_lanes (d := d) (by rw [hx, hd]; rfl) hfree (needStart_ok hlanes hzero) (by rw [hd]; exact h.clear_result hr) ?_ hself3
    (shows_flagged_putW _ d _ _ _) ((StandsAt.stepped s.self mode).flagged_putW d _ _ _)
  rw [M.bind_ok (hready.readV hvectors 0 ⟨vSrc o.b, by simp, rfl, rfl⟩), M.bind_ok (hmask.readK hvectors 1), M.bind_ok (self_run _),
    State.self_withSelf, hm]
  refine (hrun _).trans ?_
  rw [M.bind_ok (self_run u1), hself1.self]
  refine (M.bind_ok h2).trans ?_
  exact h3

/-- A scan of floating-point values writes its prefixes, and adds the flags. -/
theorem scan_float {i : Instr} (hx : exec i s = scanElements op o m s) (hr : Ready s [vDst o.a]) :
    let mode := s.self.roundingMode m.rnd.toNat false
    let t := stepped s.self mode
    let ps := prefixes (s.self.effective (laneWidth m)) (s.self.mask m.mask.toNat) (vel s o.b (laneWidth m)) fun e p q => op.fp t F mode e p q
    Elementwise i s (flagged t ps.2) o.a m (laneWidth m) 0 fun e => (canonicalEl F (ps.1.getD e 0), 0) := by
  intro mode t ps
  obtain ⟨hready, hmask, hlanes, hfree⟩ := id h
  obtain ⟨d, hd⟩ : ∃ d : Desc, d = ⟨o.st, 0, .lanes, [vDst o.a, vSrc o.b] ++ maskUse m.mask⟩ := ⟨_, rfl⟩
  have hvectors := SameVectors.of_begun s d
  obtain ⟨u1, hself1, hrun⟩ := useLanes_stepSeeds hun (.begun s d) (laneWidth m) 0 (s.self.effective (laneWidth m)) mode
  rw [stepped_begun] at hself1
  obtain ⟨u2, h2, hself2⟩ := hself1.modSelf fun t => flagged t ps.2
  obtain ⟨u3, h3, hself3⟩ := writeElements_run hself2 o.a (laneWidth m) 0 (s.self.effective (laneWidth m)) m.zero (s.self.mask m.mask.toNat)
    fun e => (canonicalEl F (ps.1.getD e 0), 0)
  obtain ⟨hpcc, hn, hapart, hir⟩ := StandsAt.stepped s.self mode
  refine leads_elements (d := d) (t := flagged t ps.2) (by rw [hx, hd]; rfl) hfree (needStart_ok hlanes hzero) (by rw [hd]; exact h.clear_result hr)
    ⟨u3, ?_, hself3⟩ ⟨hpcc, hn, hapart, hir⟩
  rw [M.bind_ok (hready.readV hvectors 0 ⟨vSrc o.b, by simp, rfl, rfl⟩), M.bind_ok (hmask.readK hvectors 1), M.bind_ok (self_run _),
    State.self_withSelf, hm]
  refine (hrun _).trans ?_
  rw [M.bind_ok (self_run u1), hself1.self]
  refine (M.bind_ok h2).trans ?_
  exact h3

end

end

theorem foldl_add_patInt (f : Nat → Int) (l : List Nat) (a : Int) : l.foldl (fun a e => a + f e) a = a + (l.map f).sum := by
  induction l generalizing a with
  | nil => simp
  | cons x l ih => rw [List.foldl_cons, ih, List.map_cons, List.sum_cons]; omega

theorem ite_isEmpty {α : Type} (l : List Nat) (a b : α) : (if l.isEmpty then a else b) = if l = [] then a else b := by
  cases l <;> rfl

theorem vectorFolds : VectorFolds := by
  intro o m s h hun hzero w n k b act
  have hact : act = bitsBelow k n := active_zero w
  refine ⟨fun bits signed hm hr => ?_, fun bits signed hm hr => ?_, fun F hm => ⟨fun hr => ?_, fun hr => ?_⟩⟩
  · have hw : w = bits := by simp only [w, laneWidth, hm]; rfl
    intro fold
    have hfold : ∀ (op : FoldOp) (i : Instr), exec i s = reduceElements op o m s → op ≠ .sum → fold i op := by
      intro op i hx hop
      have hset := reduce_int h hun hzero hx hm hr
      rw [if_neg hop] at hset
      simp only [fold, hact, b, n, k, hw, hm]
      exact hset
    refine ⟨?_, hfold .min _ rfl nofun, hfold .max _ rfl nofun, hfold .and _ rfl nofun, hfold .or _ rfl nofun, hfold .xor _ rfl nofun⟩
    have hset := reduce_int (op := .sum) (i := .vredSum o m) h hun hzero rfl hm hr
    rw [if_pos rfl, foldl_add_patInt, Int.zero_add] at hset
    simp only [hact, b, n, k, hw]
    exact hset
  · have hw : w = bits := by simp only [w, laneWidth, hm]; rfl
    intro scan
    have hscan : ∀ (op : FoldOp) (i : Instr), exec i s = scanElements op o m s → scan i op := by
      intro op i hx
      simp only [scan, b, n, k, hw]
      exact scan_int h hun hzero hx hm hr
    exact ⟨hscan .sum _ rfl, hscan .min _ rfl, hscan .max _ rfl, hscan .and _ rfl, hscan .or _ rfl, hscan .xor _ rfl⟩
  · have hfold : ∀ (op : FoldOp) (i : Instr), exec i s = reduceElements op o m s → Leads i s (s.withSelf
        ((flagged (stepped s.self (s.self.roundingMode m.rnd.toNat false)) (prefixes n k b fun e p q =>
            op.fp (stepped s.self (s.self.roundingMode m.rnd.toNat false)) F (s.self.roundingMode m.rnd.toNat false) e p q).2).putW o.a.toNat
          (Reg.ofWord (BitVec.ofNat 64 (if act = [] then op.fpIdentity F else canonicalEl F ((prefixes n k b fun e p q =>
            op.fp (stepped s.self (s.self.roundingMode m.rnd.toNat false)) F
              (s.self.roundingMode m.rnd.toNat false) e p q).1.getLastD 0)))))) := by
      intro op i hx
      rw [hact, ← ite_isEmpty]
      exact reduce_float h hun hzero hm op hx hr
    exact ⟨hfold .sum _ rfl, hfold .min _ rfl, hfold .max _ rfl⟩
  · exact ⟨scan_float h hun hzero hm .sum rfl hr, scan_float h hun hzero hm .min rfl hr, scan_float h hun hzero hm .max rfl hr⟩

/-- Settles O33: each instruction is one operation behind its sources, which draws its words first where it rounds; compares are followed
bit by bit, and folds element by element. -/
theorem vectorFloatsAndMasks : Obligations.VectorFloatsAndMasks := ⟨vectorFloats, maskResults, vectorFolds⟩

end Sys2Proof.Claims
end

section
/-! PROOF. O34: claims of lanes and their release, and the conditions under which vector instructions issue. -/

namespace Sys2Proof.Claims

open Sys2Proof.Machine

variable {s u : State}

/-! ## What a strand waits for -/

/-- The strand once its results outside the `w` registers are due. -/
def settledResults (t : Strand) : Strand :=
  let due := t.inflight.foldl (fun c h => if h.file = 0 then c else max c h.ready) t.clk
  { t with clk := due, cycle := t.cycle + BitVec.ofNat 64 (due - t.clk), inflight := t.inflight.filter fun h => h.file = 0 }

theorem waitForLanes_settles (h : ¬HasOps s) (t : Strand) :
    waitForLanes (s.withSelf t) = .ok () ((s.withSelf t).withSelf (settledResults t)) := by
  have hfree : ¬((s.quad (quadOf s.cur)).ops.any (fun o => o.sid = s.cur) || (s.core (coreOf s.cur)).queue.any (·.own s.cur)) = true :=
    fun hbusy => h ((hasOps_iff s).mpr hbusy)
  unfold waitForLanes
  rw [M.bind_ok (M.get_run _)]
  refine (congrFun (if_neg hfree) _).trans ?_
  rw [modSelf_run, State.self_withSelf]
  rfl

/-! ## Grants -/

/-- The vector state of a strand of the quad whose grant becomes `n` lanes. -/
def grantedVec (s : State) (v : VecState) (n : Nat) : VecState :=
  if n ≤ v.lanes.length then v.shrink n else v.grow ((s.freeSet (quadOf s.cur)).take (n - v.lanes.length))

/-- A strand with another vector state. -/
def withVec (t : Strand) (v : VecState) : Strand := { t with vec := v }

theorem setGrant_self (s : State) (n : Nat) :
    s.setGrant s.cur n = s.withSelf (withVec s.self (grantedVec s s.self.vec n)) := by
  unfold State.setGrant grantedVec
  by_cases h : n ≤ s.self.vec.lanes.length
  · rw [if_pos h]; exact if_pos h
  · rw [if_neg h]; exact if_neg h

/-- Two states whose strands agree in whether they run and in their lanes. -/
structure SameLanes (u s : State) : Prop where
  cur : u.cur = s.cur
  strands : ∀ b, (u.strand b).live = (s.strand b).live ∧ (u.strand b).vec = (s.strand b).vec
  quads : u.quads = s.quads

/-- A strand that keeps its lanes. -/
theorem SameLanes.withSelf (h : SameLanes u s) {t : Strand} (hlive : t.live = s.self.live) (hvec : t.vec = s.self.vec) :
    SameLanes (u.withSelf t) s := by
  refine ⟨h.cur, fun b => ?_, h.quads⟩
  by_cases hb : b = u.cur
  · subst hb
    rw [show (u.withSelf t).strand u.cur = t from State.self_withSelf u t, hlive, hvec, h.cur]
    exact ⟨rfl, rfl⟩
  · rw [State.strand_withSelf_ne _ _ _ hb]
    exact h.strands b

theorem SameLanes.refl (s : State) : SameLanes s s := ⟨rfl, fun _ => ⟨rfl, rfl⟩, rfl⟩

section

variable (h : SameLanes u s)
include h

theorem SameLanes.quadStrands (q : Nat) : u.quadStrands q = s.quadStrands q := by
  simp only [State.quadStrands, (h.strands _).1]

theorem SameLanes.grantedVec (v : VecState) (n : Nat) : grantedVec u v n = grantedVec s v n := by
  simp only [Claims.grantedVec, State.freeSet, h.quadStrands, (h.strands _).2, h.cur]

theorem SameLanes.decideClaim (r : Nat) : u.decideClaim u.cur r = s.decideClaim s.cur r := by
  have hreserve : ∀ b, (u.strand b).reserve = (s.strand b).reserve := fun b => by simp only [Strand.reserve, (h.strands b).2]
  have hclaimable : ∀ q, u.claimable q = s.claimable q := fun q => by
    simp only [State.claimable, State.freeLanes, h.quadStrands, hreserve, State.quad, h.quads]
  unfold State.decideClaim
  rw [h.cur, hreserve, hclaimable]

end

/-- The events with which a quad's deferred starts are told of free lanes. -/
def offered (s : State) : List Event := if (s.quad (quadOf s.cur)).deferred = [] then [] else [.deferredStart (quadOf s.cur)]

theorem offerLanes_offered (s : State) : offerLanes (quadOf s.cur) s = .ok () (posting s (offered s)) := by
  unfold offerLanes offered
  rw [M.bind_ok (M.get_run s)]
  cases (s.quad (quadOf s.cur)).deferred with
  | nil => exact congrArg _ (posting_nil s).symm
  | cons a l => rfl

theorem posting_withSelf (s : State) (t : Strand) (es : List Event) : posting (s.withSelf t) es = (posting s es).withSelf t := rfl

theorem offered_withSelf (s : State) (t : Strand) : offered (s.withSelf t) = offered s := rfl

/-- A claim of the current strand gives what R169 decides. -/
theorem claimLanes_run (s : State) (r : Nat) :
    let p := s.decideClaim s.cur r
    let v := grantedVec s s.self.vec p.1
    claimLanes s.cur r s = .ok p.1 (posting ((s.withSelf (withVec s.self v)).withSelf (withVec s.self { v with demand := p.2 }))
      (offered s)) := by
  intro p v
  unfold claimLanes
  rw [M.bind_ok (M.get_run s)]
  change (do
    set (s.setGrant s.cur p.1)
    modStrand s.cur fun t => { t with vec := { t.vec with demand := p.2 } }
    offerLanes (quadOf s.cur)
    pure p.1 : M Nat) s = _
  rw [M.bind_ok (show (set (s.setGrant s.cur p.1) : M Unit) s = .ok () _ from rfl), setGrant_self]
  have hdemand : modStrand s.cur (fun t => { t with vec := { t.vec with demand := p.2 } }) (s.withSelf (withVec s.self v)) =
      .ok () ((s.withSelf (withVec s.self v)).withSelf (withVec s.self { v with demand := p.2 })) := by
    unfold modStrand
    rw [show (s.withSelf (withVec s.self v)).strand s.cur = _ from State.self_withSelf s _]
    rfl
  refine (M.bind_ok hdemand).trans ?_
  exact M.bind_ok (offerLanes_offered ((s.withSelf (withVec s.self v)).withSelf (withVec s.self { v with demand := p.2 })))

/-- The vector state of a strand that holds no lane. -/
def releasedVec (v : VecState) : VecState := { v.shrink 0 with vlen := 0, vstart := 0, demand := 0 }

/-- A release of the current strand's lanes. -/
theorem releaseLanes_run (s : State) : releaseLanes s = .ok () (posting ((s.withSelf (withVec s.self (s.self.vec.shrink 0))).withSelf
    (withVec s.self (releasedVec s.self.vec))) (offered s)) := by
  have hgrant : s.setGrant s.cur 0 = s.withSelf (withVec s.self (s.self.vec.shrink 0)) := by
    rw [setGrant_self, grantedVec, if_pos (Nat.zero_le _)]
  unfold releaseLanes
  rw [M.bind_ok (show curSid s = .ok s.cur s from rfl),
    M.bind_ok (show (modify fun u => u.setGrant s.cur 0 : M Unit) s = .ok () (s.setGrant s.cur 0) from rfl), hgrant,
    M.bind_ok (modSelf_run _ _), State.self_withSelf]
  exact offerLanes_offered ((s.withSelf (withVec s.self (s.self.vec.shrink 0))).withSelf (withVec s.self (releasedVec s.self.vec)))

/-- What a strand shows does not tell when its results became due. -/
theorem shows_settled (t : Strand) (d : Desc) (v : VecState) :
    Shows (withVec (settledResults (t.begun d)) v) (withVec t v) := ⟨rfl, rfl⟩

theorem shows_settled_putW (t : Strand) (d : Desc) (v : VecState) (n : Nat) (r : Reg) :
    Shows ((withVec (settledResults (t.begun d)) v).putW n r) ((withVec t v).putW n r) := ⟨rfl, rfl⟩

/-! ## Claims -/

section

variable {o : OpRR} (h : Issues s [o.a, o.b])
include h

/-- What `vclaim` is to the pipeline. -/
def claimDesc (o : OpRR) : Desc := ⟨o.st, 0, .joint, [wDst o.a, wSrc o.b]⟩

/-- What `vrel` is to the pipeline. -/
def releaseDesc (s : State) : Desc := ⟨wordS (s.self.ir.getLastD 0), 0, .joint, []⟩

theorem vclaim_waits (hops : HasOps s) : Waits (.vclaim o) s := by
  refine waits_of_idle (exec_of_retry (priv := pure ()) (d := claimDesc o) rfl Steer.noConfusion rfl
    (h.clear (by simp [claimDesc, wDst, wSrc])) (u := s.withSelf (s.self.begun (claimDesc o))) ?_) (.refl s) rfl rfl
  refine M.bind_error ?_
  rw [M.bind_ok (h.readX_begun _ 0 (by simp))]
  exact M.bind_error (waitForLanes_busy hops)

theorem vrel_waits (hops : HasOps s) : Waits .vrel s := by
  refine waits_of_idle (exec_of_retry (priv := pure ()) (d := releaseDesc s) rfl Steer.noConfusion rfl
    (Together.clear h.1) (u := s.withSelf (s.self.begun (releaseDesc s))) ?_) (.refl s) rfl rfl
  exact M.bind_error (M.bind_error (waitForLanes_busy hops))

/-- A claim gives the grant that R169 decides. -/
theorem vclaim_leads (hops : ¬HasOps s) :
    let p := s.decideClaim s.cur (claimRequest (x s o.b).toNat)
    let v := grantedVec s s.self.vec p.1
    Leads (.vclaim o) s (posting ((s.withSelf (withVec s.self v)).withSelf ((withVec s.self { v with demand := p.2 }).putW
      o.a.toNat (Reg.ofWord (BitVec.ofNat 64 p.1)))) (offered s)) := by
  intro p v
  obtain ⟨b, hb⟩ : ∃ b, b = settledResults (s.self.begun (claimDesc o)) := ⟨_, rfl⟩
  have hlive : b.live = s.self.live ∧ b.vec = s.self.vec := by rw [hb]; exact ⟨rfl, rfl⟩
  have hsame : SameLanes ((s.withSelf (s.self.begun (claimDesc o))).withSelf b) s :=
    ((SameLanes.refl s).withSelf (t := s.self.begun (claimDesc o)) rfl rfl).withSelf hlive.1 hlive.2
  have hclaim := claimLanes_run ((s.withSelf (s.self.begun (claimDesc o))).withSelf b) (claimRequest (x s o.b).toNat)
  simp only [State.self_withSelf, hlive.2, hsame.decideClaim, hsame.grantedVec, posting_withSelf, offered_withSelf] at hclaim
  have honly := ((((OnlySelf.refl (posting s (offered s))).withSelf (s.self.begun (claimDesc o))).withSelf b).withSelf (withVec b v)).withSelf
    (withVec b { v with demand := p.2 })
  obtain ⟨u, hu, hself⟩ := honly.modSelf fun t => t.putW o.a.toNat (Reg.ofWord (BitVec.ofNat 64 p.1))
  have hshow := shows_settled_putW s.self (claimDesc o) { v with demand := p.2 } o.a.toNat (Reg.ofWord (BitVec.ofNat 64 p.1))
  rw [← hb] at hshow
  refine leads_of_runOp (s' := posting (s.withSelf (withVec s.self v)) (offered s)) (d := claimDesc o)
    (u := u) rfl Steer.noConfusion (h.clear (by simp [claimDesc, wDst, wSrc])) ?_
    ⟨hself.cur, hself.self, hself.elsewhere.of_withSelf _⟩ hshow.1 hshow.2 ?_ ?_ rfl rfl
  · rw [M.bind_ok (h.readX_begun _ 0 (by simp)), M.bind_ok (waitForLanes_settles hops _), ← hb]
    refine (M.bind_ok (show curSid ((s.withSelf (s.self.begun (claimDesc o))).withSelf b) = .ok s.cur _ from rfl)).trans ?_
    refine (M.bind_ok hclaim).trans ?_
    exact hu
  all_goals rw [hb]; rfl

/-- A release gives every lane back. -/
theorem vrel_leads (hops : ¬HasOps s) :
    Leads .vrel s (posting (s.withSelf (withVec s.self (releasedVec s.self.vec))) (offered s)) := by
  obtain ⟨b, hb⟩ : ∃ b, b = settledResults (s.self.begun (releaseDesc s)) := ⟨_, rfl⟩
  have hvec : b.vec = s.self.vec := by rw [hb]; rfl
  have hrun := releaseLanes_run ((s.withSelf (s.self.begun (releaseDesc s))).withSelf b)
  simp only [State.self_withSelf, hvec, posting_withSelf, offered_withSelf] at hrun
  have honly := ((((OnlySelf.refl (posting s (offered s))).withSelf (s.self.begun (releaseDesc s))).withSelf b).withSelf
    (withVec b (s.self.vec.shrink 0))).withSelf (withVec b (releasedVec s.self.vec))
  have hshow := shows_settled s.self (releaseDesc s) (releasedVec s.self.vec)
  rw [← hb] at hshow
  refine leads_of_runOp (s' := posting s (offered s)) (d := releaseDesc s) rfl Steer.noConfusion (Together.clear h.1) ?_ honly
    hshow.1 hshow.2 ?_ ?_ rfl rfl
  · rw [M.bind_ok (waitForLanes_settles hops _), ← hb]
    exact hrun
  all_goals rw [hb]; rfl

end

/-- The decision of R169, with the numbers written out. -/
theorem decideClaim_eq (s : State) (r : Nat) : s.decideClaim s.cur r =
    (let reserve := max s.self.vec.lanes.length 8
     let grant := if r ≤ reserve then r
      else min r (reserve + (s.freeLanes (quadOf s.cur) - 8 * (s.quad (quadOf s.cur)).deferred.length))
     (grant, r - grant)) := by
  unfold State.decideClaim
  dsimp only
  by_cases h : r ≤ (s.strand s.cur).reserve
  · have hr : r ≤ max s.self.vec.lanes.length 8 := h
    rw [if_pos h, if_pos hr, Nat.sub_self]
  · have hr : ¬r ≤ max s.self.vec.lanes.length 8 := h
    rw [if_neg h, if_neg hr]
    rfl

theorem vsetl_leads {o : OpRR} {m : VecMod} (h : Issues s [o.a, o.b]) (hfree : Free s) :
    let n := min (x s o.b).toNat (s.self.vec.lanes.length * 64 / laneWidth m)
    Leads (.vsetl o m) s (s.withSelf ({ s.self with vec := { s.self.vec with vlen := n, vstart := 0 } }.putW o.a.toNat
      (Reg.ofWord (BitVec.ofNat 64 n)))) := by
  intro n
  obtain ⟨u1, h1, hu1⟩ := (OnlySelf.begun s ⟨o.st, 0, .lanes, [wDst o.a, wSrc o.b]⟩).modSelf fun t =>
    { t with vec := { t.vec with vlen := n, vstart := 0 } }
  obtain ⟨u2, h2, hu2⟩ := hu1.modSelf fun t => t.putW o.a.toNat (Reg.ofWord (BitVec.ofNat 64 n))
  refine leads_of_lanes (priv := pure ()) rfl hfree rfl (h.clear (by simp [wDst, wSrc])) ?_ hu2 ⟨rfl, rfl⟩ ⟨rfl, rfl, rfl, rfl⟩
  rw [M.bind_ok (h.readX_begun _ 0 (by simp)), M.bind_ok (self_run _), State.self_withSelf]
  exact (M.bind_ok h1).trans h2

theorem vseed_leads {o : OpRR} (h : Ready s [vDst o.a, vSrc o.b]) (hissue : CanIssue s) (hun : Unbounded s 1) :
    let g := s.self.vec.lanes.length
    let new := fun (p : Nat) => let v : BitVec 32 := ((vw s.self o.b).getD p 0).setWidth 32
      if v = 0 then 1 else v
    let old := s.self.vec.seeds
    Leads (.vseed o) s (s.withSelf { s.self with vec := { s.self.vec with
      seeds := (List.range g).foldl (fun m p => storeAt 0 p (new p) m) old
      v := putElements g o.a.toNat 64 (fun p => some (lookupD 0 old p).toNat) s.self.vec.v } }) := by
  intro g new old
  obtain ⟨hlanes, hfree⟩ := hissue
  have hbegun := OnlySelf.begun s ⟨o.st, 0, .lanes, [vDst o.a, vSrc o.b]⟩
  obtain ⟨u1, h1, hu1⟩ := hbegun.modSelf fun t =>
    { t with vec := { t.vec with seeds := (List.range g).foldl (fun m p => storeAt 0 p (new p) m) old } }
  obtain ⟨u2, h2, hu2⟩ := hu1.modSelf fun t => putV t o.a 64 fun p => some (lookupD 0 old p).toNat
  refine leads_of_lanes rfl hfree (needGrant_ok hlanes) (h.clear fun r hr => ⟨r, hr, rfl, rfl⟩) ?_ hu2 ⟨rfl, rfl⟩ ⟨rfl, rfl, rfl, rfl⟩
  rw [M.bind_ok (h.readV (.of_begun s _) 0 ⟨vSrc o.b, by simp, rfl, rfl⟩), M.bind_ok (self_run _), State.self_withSelf]
  refine (M.bind_ok (spendBudget_unbounded hun hbegun _)).trans ?_
  exact (M.bind_ok h1).trans h2

theorem laneClaims : LaneClaims := by
  refine ⟨fun o s h => ?_, fun o m s h hfree => vsetl_leads h hfree, fun o s h hissue hun => vseed_leads h hissue hun⟩
  intro q lanes request reserve grant u offer
  refine ⟨fun hops => ⟨vclaim_waits h hops, vrel_waits h hops⟩, fun hops => ⟨?_, vrel_leads h hops⟩⟩
  have hleads := vclaim_leads h hops
  have hu : u = s.withSelf (withVec s.self (grantedVec s s.self.vec grant)) := setGrant_self s grant
  rw [show s.decideClaim s.cur (claimRequest (x s o.b).toNat) = (grant, request - grant) from decideClaim_eq s request] at hleads
  rw [hu, State.self_withSelf]
  exact hleads

/-! ## Gates -/

theorem needGrant_empty (h : s.self.vec.lanes = []) :
    needGrant s = .error (.trap cIll (BitVec.ofNat 64 s.self.illValue) none) s := by
  unfold needGrant
  rw [M.bind_ok (self_run s)]
  exact illIf_of (by simp [h]) s

/-- With no lane an instruction that needs one is illegal. -/
theorem traps_empty {i : Instr} {d : Desc} {body : M Unit} (hx : exec i s = runPriv d needGrant body s) (ht : Together s)
    (h : s.self.vec.lanes = []) : Traps i s cIll s.self.illValue :=
  traps_of_priv (n := 0) (body := do body; pure .next) hx (needGrant_empty h) ht (by decide)

/-- A budget that does not cover a use makes it wait. -/
theorem spendBudget_short {c : Colony} {res n : Nat} {t : Strand} (hc : s.colony (s.colonyOf s.cur) = some c) (hn : n ≠ 0)
    (halloc : c.allocOf res ≠ unlimited) (hle : n ≤ c.allocOf res) (hrem : lookupD 0 c.rem res < (n : Int)) :
    spendBudget res n (s.withSelf t) = .error .retry (s.withSelf t) := by
  have hadmits : (s.withSelf t).admits ((s.withSelf t).colonyOf (s.withSelf t).cur) res n = false := by
    have hcolony : (s.withSelf t).colony ((s.withSelf t).colonyOf (s.withSelf t).cur) = some c := hc
    unfold State.admits
    rw [hcolony]
    simp only [Colony.admits, hn, halloc, decide_false, Bool.false_or, Bool.or_eq_false_iff, decide_eq_false_iff_not,
      Bool.and_eq_false_iff, ge_iff_le, not_le, gt_iff_lt]
    exact ⟨hrem, .inl (by omega)⟩
  unfold spendBudget
  rw [M.bind_ok (M.get_run _), hadmits]
  rfl

/-- An instruction of the lane pool that waits with nothing done. -/
theorem exec_of_retry_free {i : Instr} {d : Desc} {k : Nat} {priv : M Unit} {body : M Flow} (hx : exec i s = runWith d k priv body s)
    (hfree : Free s) (hp : priv s = .ok () s) (hc : s.self.Clear d.regs)
    (hb : body (s.withSelf (s.self.begun d)) = .error .retry u) : exec i s = .next s.idle := by
  rw [hx, runWith, M.bind_ok (prologue_free hfree hp hc), hb]; rfl

theorem vectorGates : VectorGates := by
  refine fun o m s ht => ⟨fun h => ⟨traps_empty rfl ht h, traps_empty rfl ht h, traps_empty rfl ht h⟩, ?_⟩
  intro c hrnd h hcolony hzero w n lanes halloc hlanes hle hrem
  obtain ⟨hready, hmask, hgrant, hfree⟩ := id h
  obtain ⟨d, hd⟩ : ∃ d : Desc, d = ⟨o.st, dualLatency m, .lanes, twoSource 1 o ++ maskUse m.mask⟩ := ⟨_, rfl⟩
  have hvectors := SameVectors.of_begun s d
  have hpos : 0 < n := by
    by_contra hn
    have hper : 0 < 64 / w := by
      have : m.ty.toNat % 4 < 4 := Nat.mod_lt _ (by decide)
      simp only [w]
      interval_cases m.ty.toNat % 4 <;> decide
    exact hlanes (Nat.div_eq_of_lt (by omega))
  have hm : elTypeOf m = .int w (decide (m.ty.toNat < 4)) := by rw [elTypeOf, if_pos hrnd]; rfl
  have hshort : useLanes w 0 n (s.withSelf (s.self.begun d)) = .error .retry (s.withSelf (s.self.begun d)) := by
    have := spendBudget_short (t := s.self.begun d) hcolony hlanes halloc hle hrem
    unfold useLanes
    simp only [if_pos hpos, Nat.zero_div, Nat.sub_zero]
    exact M.bind_error this
  refine waits_of_idle (u := s) (exec_of_retry_free (d := d) (by rw [hd]; rfl) hfree (needGrant_ok hgrant)
    (by rw [hd]; exact clear_twoSource h) (M.bind_error (t := s.withSelf (s.self.begun d)) ?_)) (.refl s) rfl rfl
  rw [M.bind_ok (hready.readV hvectors 0 ⟨vSrc o.x, by simp, rfl, rfl⟩), M.bind_ok (hready.readV hvectors 1 ⟨vSrc o.y, by simp, rfl, rfl⟩),
    M.bind_ok (hmask.readK hvectors 2), M.bind_ok (self_run _), State.self_withSelf, hm]
  have hstart : (s.self.begun d).vec.vstart = 0 := hzero
  rw [hstart]
  exact M.bind_error hshort

/-- Settles O34: a claim gives the grant that R169 decides and a release gives all back, once the strand's operations have ended; an
instruction without a lane is illegal, and one that its budget does not cover waits. -/
theorem lanesAndGates : Obligations.LanesAndGates := ⟨laneClaims, vectorGates⟩

end Sys2Proof.Claims
end

section
/-! PROOF. O45: near-memory agents: their slots, their routines, and their turns. -/

namespace Sys2Proof.Claims

open Sys2Proof.Machine

variable {s : State}

/-! ## A range of one page where no L1 holds it -/

theorem translatePages_one {t : BitVec 12} {perm : BitVec 12} {lo n p : Nat} {e : Word} {v : State} (hpos : 0 < n)
    (hpage : lo % 65536 + n ≤ 65536) (ht : translate t lo perm v = .ok (p, e) v) :
    translateRange t lo n perm v = .ok [(lo, n, p, e)] v := by
  have hfuel : (lo % 65536 + n + 65535) / 65536 = 0 + 1 := by omega
  have hnext : min (lo + n) ((lo / 65536 + 1) * 65536) = lo + n := by omega
  unfold translateRange
  rw [hfuel, translatePages, if_neg (by omega)]
  simp only [hnext, Nat.add_sub_cancel_left]
  exact M.bind_ok ht

theorem readRange_direct {c : Reg} {n a : Nat} {e : Word} {m : Manner} {v : State} (hid : v.self.identity = s.self.identity)
    (hcur : v.cur = s.cur) (htlb : v.tlb = s.tlb) (hpkg : v.pkg = s.pkg) (hopen : Opens s c Cap.ld n a e) (hpos : 0 < n)
    (hpage : Cap.cursor c.val % 65536 + n ≤ 65536) (hdirect : Direct a) (hpart : NoPartials v) (hbad : v.firstBad a n = none) :
    readRange c n m v = .ok (v.bytesAt a n) v := by
  obtain ⟨hcheck, p, hmaps, hp, rfl, hm⟩ := hopen
  have hcap : checkCap c Cap.ld [Cap.kMemory] n v = .ok () v := by
    rw [checkCap_run hid, checkOutcome, hcheck]
  have hload := loadBytes_direct (hp.trans hpkg.symm) rfl hm hdirect hpart hbad (Cap.cursor c.val) m (Cap.tenant c.val)
  unfold readRange
  rw [M.bind_ok hcap, M.bind_ok (translatePages_one hpos hpage (translate_run hcur htlb hmaps))]
  simp only [List.mapM_cons, List.mapM_nil, bind_assoc, pure_bind]
  rw [M.bind_ok hload]
  exact congrArg (fun bs => EStateM.Result.ok bs v) (List.append_nil _)

/-! ## `nmld` -/

/-- What `nmld` checks before everything else. -/
def nmldCheck (o : OpRRC) : M Unit := do
  let x ← peekX o.x
  illIf (x.toNat ≥ 64)
  needMode .supervisor

/-- What `nmld` is to the pipeline. -/
def nmldDesc (o : OpRRC) : Desc := ⟨o.st, 0, .joint, twoSource 0 o⟩

/-- What `nmld` does behind its sources and its check: slot `x`, image at `c`. -/
def nmldLoad (o : OpRRC) (x : Word) (c : Reg) : M Unit := do
  let s ← get
  let t := s.self
  match lookupD none s.units.agentSlots x.toNat with
  | some a => raiseIf (a.owner ≠ t.tid && t.mode ≠ .hypervisor) cPerm (Cap.cursor c.val)
  | none => pure ()
  let bs ← readRange c 128 Manner.plain
  let n := leNat (bs.take 2)
  let ws := (bytesToWords (bs.drop 2)).take n
  let status := validateImage n ws
  if status = 0 then
    let slot : Option AgentSlot := if n = 0 then none else some ⟨t.tid, ws⟩
    modify fun s => { s with units := { s.units with
      agentSlots := storeAt none x.toNat slot s.units.agentSlots } }
  writeX o.a status

/-- The same behind the check of the slot's owner. -/
def nmldImage (o : OpRRC) (tid : BitVec 12) (x : Word) (c : Reg) : M Unit := do
  let bs ← readRange c 128 Manner.plain
  let n := leNat (bs.take 2)
  let ws := (bytesToWords (bs.drop 2)).take n
  let status := validateImage n ws
  if status = 0 then
    let slot : Option AgentSlot := if n = 0 then none else some ⟨tid, ws⟩
    modify fun s => { s with units := { s.units with
      agentSlots := storeAt none x.toNat slot s.units.agentSlots } }
  writeX o.a status

theorem nmldLoad_owned {o : OpRRC} {k : Word} {c : Reg} {u : State} (hown : ∀ v, lookupD none u.units.agentSlots k.toNat = some v →
    v.owner = u.self.tid ∨ u.self.mode = .hypervisor) : nmldLoad o k c u = nmldImage o u.self.tid k c u := by
  unfold nmldLoad
  rw [M.bind_ok (M.get_run _)]
  cases hv : lookupD none u.units.agentSlots k.toNat with
  | none => rfl
  | some v =>
    refine (M.bind_ok (raiseIf_of_not ?_ _ _ _)).trans rfl
    rcases hown v hv with howner | hhyp
    · exact Bool.and_eq_false_iff.mpr (.inl (decide_eq_false (not_not.mpr howner)))
    · exact Bool.and_eq_false_iff.mpr (.inr (decide_eq_false (not_not.mpr hhyp)))

theorem nmld_eq (o : OpRRC) (s : State) : exec (.nmld o) s = runPriv (nmldDesc o) (nmldCheck o) (do
    let x ← readX 0 o.x
    let c ← readW 1 o.y
    let _ ← checkAccess c Cap.ld [Cap.kMemory] 128
    nmldLoad o x c) s := rfl

section

variable {o : OpRRC} (h : Issues s [o.a, o.x, o.y])
include h

theorem nmldCheck_high (hslot : 64 ≤ (x s o.x).toNat) :
    nmldCheck o s = .error (.trap cIll (BitVec.ofNat 64 s.self.illValue) none) s := by
  unfold nmldCheck
  rw [M.bind_ok (h.peekX_run (by simp)), M.bind_error (illIf_of (decide_eq_true hslot) s)]

theorem nmldCheck_user (hslot : (x s o.x).toNat < 64) (hmode : s.self.mode = .user) :
    nmldCheck o s = .error (.trap cPriv (BitVec.ofNat 64 s.self.illValue) none) s := by
  unfold nmldCheck
  rw [M.bind_ok (h.peekX_run (by simp)), M.bind_ok (illIf_of_not (decide_eq_false (by omega)) s)]
  exact needMode_low (by rw [hmode]; decide)

theorem nmldCheck_ok (hslot : (x s o.x).toNat < 64) (hmode : s.self.mode ≠ .user) : nmldCheck o s = .ok () s := by
  unfold nmldCheck
  rw [M.bind_ok (h.peekX_run (by simp)), M.bind_ok (illIf_of_not (decide_eq_false (by omega)) s)]
  exact needMode_ok (by cases hm : s.self.mode <;> simp_all [Mode.num])

/-- Behind its check, `nmld` comes to its slot and its image. -/
theorem nmld_behind {a : Nat} {e : Word} (hopen : Opens s (w s o.y) Cap.ld 128 a e) {r : EStateM.Result Exc State Unit}
    (hload : nmldLoad o (x s o.x) (w s o.y) (s.withSelf (s.self.begun (nmldDesc o))) = r) :
    (do let x ← readX 0 o.x
        let c ← readW 1 o.y
        let _ ← checkAccess c Cap.ld [Cap.kMemory] 128
        nmldLoad o x c : M Unit) (s.withSelf (s.self.begun (nmldDesc o))) = r := by
  obtain ⟨hcheck, p, hmaps, -⟩ := hopen
  rw [M.bind_ok (h.readX_begun _ 0 (by simp)), M.bind_ok (h.readW_begun _ 1 (by simp)),
    M.bind_ok (checkAccess_run (s := s) (v := s.withSelf (s.self.begun (nmldDesc o))) (by rw [State.self_withSelf]; rfl) rfl rfl hcheck hmaps)]
  exact hload

theorem nmld_foreign {a : Nat} {e : Word} (hslot : (x s o.x).toNat < 64) (hmode : s.self.mode ≠ .user)
    (hopen : Opens s (w s o.y) Cap.ld 128 a e) {v : AgentSlot} (hv : lookupD none s.units.agentSlots (x s o.x).toNat = some v)
    (howner : v.owner ≠ s.self.tid) (hhyp : s.self.mode ≠ .hypervisor) : Traps (.nmld o) s cPerm (Cap.cursor (w s o.y).val) := by
  refine traps_behind_prologue (nmld_eq o s) Steer.noConfusion (nmldCheck_ok h hslot hmode) h.clear_twoSource ?_ (by decide)
  refine M.bind_error (nmld_behind h hopen ?_)
  have hraise : raiseIf (v.owner ≠ (s.self.begun (nmldDesc o)).tid && (s.self.begun (nmldDesc o)).mode ≠ .hypervisor) cPerm
      (Cap.cursor (w s o.y).val) (s.withSelf (s.self.begun (nmldDesc o))) =
      .error (.trap cPerm (BitVec.ofNat 64 (Cap.cursor (w s o.y).val)) none) (s.withSelf (s.self.begun (nmldDesc o))) :=
    raiseIf_of (Bool.and_eq_true_iff.mpr ⟨decide_eq_true howner, decide_eq_true hhyp⟩) _ _ _
  unfold nmldLoad
  rw [M.bind_ok (M.get_run _), State.self_withSelf,
    show (s.withSelf (s.self.begun (nmldDesc o))).units.agentSlots = s.units.agentSlots from rfl, hv]
  exact M.bind_error hraise

/-- The agent slots with one replaced. -/
def withAgentSlot (s : State) (k : Nat) (v : Option AgentSlot) : State :=
  { s with units := { s.units with agentSlots := storeAt none k v s.units.agentSlots } }

section

variable {a : Nat} {e : Word} (hslot : (x s o.x).toNat < 64) (hmode : s.self.mode ≠ .user) (hopen : Opens s (w s o.y) Cap.ld 128 a e)
  (hpage : Cap.cursor (w s o.y).val % 65536 + 128 ≤ 65536) (hdirect : Direct a) (hpart : NoPartials s) (hbad : s.firstBad a 128 = none)
  (hown : ∀ v, lookupD none s.units.agentSlots (x s o.x).toNat = some v → v.owner = s.self.tid ∨ s.self.mode = .hypervisor)
include hslot hmode hopen hpage hdirect hpart hbad hown

theorem nmldLoad_run : nmldLoad o (x s o.x) (w s o.y) (s.withSelf (s.self.begun (nmldDesc o))) =
    (let bs := s.bytesAt a 128
     let n := leNat (bs.take 2)
     let ws := (bytesToWords (bs.drop 2)).take n
     let status := validateImage n ws
     writeX o.a status (if status = 0 then withAgentSlot (s.withSelf (s.self.begun (nmldDesc o))) (x s o.x).toNat
       (if n = 0 then none else some ⟨s.self.tid, ws⟩) else s.withSelf (s.self.begun (nmldDesc o)))) := by
  have hread := readRange_direct (s := s) (v := s.withSelf (s.self.begun (nmldDesc o))) (m := Manner.plain) (by rw [State.self_withSelf]; rfl)
    rfl rfl rfl hopen (by decide) hpage hdirect hpart hbad
  rw [nmldLoad_owned (by rw [State.self_withSelf]; exact hown), State.self_withSelf]
  unfold nmldImage
  rw [M.bind_ok hread, show (s.withSelf (s.self.begun (nmldDesc o))).bytesAt a 128 = s.bytesAt a 128 from rfl]
  dsimp only
  split_ifs <;> rfl

/-- What `nmld` shows when the image passes, and when it does not. -/
theorem nmld_leads :
    let bs := s.bytesAt a 128
    let n := leNat (bs.take 2)
    let ws := (bytesToWords (bs.drop 2)).take n
    let status := validateImage n ws
    (status ≠ 0 → SetsX (.nmld o) s o.a status) ∧
    (status = 0 → Leads (.nmld o) s ((withAgentSlot s (x s o.x).toNat (if n = 0 then none else some ⟨s.self.tid, ws⟩)).withSelf
      (s.self.putW o.a.toNat Reg.zero))) := by
  intro bs n ws status
  have hrun := nmld_behind h hopen (nmldLoad_run h hslot hmode hopen hpage hdirect hpart hbad hown)
  dsimp only at hrun
  refine ⟨fun hstatus => ?_, fun hstatus => ?_⟩
  · rw [if_neg hstatus] at hrun
    obtain ⟨v, hv, hself⟩ := (OnlySelf.begun s (nmldDesc o)).modSelf fun t => t.putW o.a.toNat (Reg.ofWord status)
    exact leads_of_runPriv (nmld_eq o s) Steer.noConfusion (nmldCheck_ok h hslot hmode) h.clear_twoSource (hrun.trans hv) hself
      rfl rfl rfl rfl rfl rfl
  · rw [if_pos hstatus, show writeX o.a status = writeW o.a Reg.zero by rw [hstatus]; rfl] at hrun
    obtain ⟨slot, hslot'⟩ : ∃ v : Option AgentSlot, v = if n = 0 then none else some ⟨s.self.tid, ws⟩ := ⟨_, rfl⟩
    rw [← hslot'] at hrun ⊢
    obtain ⟨v, hv, hself⟩ := (OnlySelf.begun (withAgentSlot s (x s o.x).toNat slot) (nmldDesc o)).modSelf fun t => t.putW o.a.toNat Reg.zero
    exact leads_of_runPriv (nmld_eq o s) Steer.noConfusion (nmldCheck_ok h hslot hmode) h.clear_twoSource (hrun.trans hv) hself
      rfl rfl rfl rfl rfl rfl

end

end

/-! ## `nma` -/

/-- What `nma` is to the pipeline. -/
def nmaDesc (o : OpRRR) : Desc :=
  ⟨o.st, 0, .access, ([3, 0, 1, 2].map fun i => RegUse.mk 0 (o.a.toNat + i) true true) ++ [wSrc o.b, wSrc o.c]⟩

/-- What `nma` does behind its sources: arguments `xs`, capability `c`. -/
def nmaAct (o : OpRRR) (xs : List Word) (c : Reg) : M Unit := do
  let va := Cap.cursor c.val
  let slot := o.imm.toNat % 64
  let (p, e) ← checkAccess c Cap.ec [Cap.kMemory] 1
  raiseIf (place (localOf p) ≠ .dram || pteM e) cPerm va
  let s ← get
  if pkgOf p = s.pkg then do
    match lookupD none s.units.agentSlots slot with
    | none => raise cPerm va
    | some x => raiseIf (x.owner ≠ Cap.tenant c.val) cPerm va
    raiseIf (!Cap.has c.val Cap.gl) cPerm va
    if s.units.agentJobs.any fun j => j.agent = channelOf (localOf p) then throw .retry
    let r ← attempt (performRoutine slot c xs (localOf p) (s.colonyOf s.cur) (s.fullSid s.cur))
    match r with
    | .error (.trap code v _) => routineFault code v
    | .error x => throw x
    | .ok none => raiseIll
    | .ok (some (vs, n)) => do
      if !s.admits (s.colonyOf s.cur) 5 n then throw .retry
      modify fun s => s.charge (s.colonyOf s.cur) 5 n
      writeResults o.a vs
  else do
    raiseIf (!Cap.has c.val Cap.gl) cPerm va
    checkPeer p
    let ans ← askPacket (requestPacket s p 8 0 (Cap.tenant c.val) (.agent slot c xs) [] false)
    match ans.op with
    | .values vs => writeResults o.a vs
    | .failAt code off => routineFault code (BitVec.ofNat 64 ((va + off) % 2 ^ 48).toNat)
    | .fail code v => if code = cIll then raiseIll else routineFault code v
    | .unreachable => raise cPeer (p % 2 ^ 55)
    | _ => writeResults o.a []

theorem nma_eq (o : OpRRR) (s : State) : exec (.nma o) s = runOp (nmaDesc o) (do
    let xs ← (List.range 4).mapM fun i => readX i (o.a + BitVec.ofNat 6 i)
    let b ← readW 4 o.b
    let d ← readX 5 o.c
    nmaAct o xs ⟨Cap.offset b.val d.toInt, b.tag⟩) s := rfl

section

variable {o : OpRRR} (hargs : Ready s [wBoth o.a, wBoth (o.a + 1), wBoth (o.a + 2), wBoth (o.a + 3)]) (hfit : o.a.toNat ≤ 60)
  (h : Issues s [o.b, o.c])

theorem toNat_argument {i : Nat} (hfit : o.a.toNat ≤ 60) (hi : i < 4) : (o.a + BitVec.ofNat 6 i).toNat = o.a.toNat + i := by
  rw [BitVec.toNat_add, BitVec.toNat_ofNat]
  omega

include hargs in
theorem issues_argument {i : Nat} (hi : i < 4) : Issues s [o.a + BitVec.ofNat 6 i] := by
  refine ⟨hargs.1, fun v hv => ?_⟩
  rw [List.mem_singleton.mp hv]
  refine hargs.2 (wBoth (o.a + BitVec.ofNat 6 i)) ?_
  interval_cases i
  · rw [show o.a + BitVec.ofNat 6 0 = o.a from BitVec.add_zero o.a]; simp
  all_goals simp

include hargs hfit h in
theorem clear_nma : s.self.Clear (nmaDesc o).regs := by
  refine (hargs.append h).clear fun r hr => ?_
  rcases List.mem_append.mp hr with hr | hr
  · obtain ⟨i, hi, rfl⟩ := List.mem_map.mp hr
    have hlt : i < 4 := by fin_cases hi <;> decide
    refine ⟨wBoth (o.a + BitVec.ofNat 6 i), List.mem_append_left _ ?_, rfl, toNat_argument hfit hlt⟩
    interval_cases i
    · rw [show o.a + BitVec.ofNat 6 0 = o.a from BitVec.add_zero o.a]; simp
    all_goals simp
  · refine ⟨⟨0, r.num, true, true⟩, List.mem_append_right _ ?_, ?_, rfl⟩
    · simp only [List.mem_cons, List.not_mem_nil, or_false] at hr
      rcases hr with rfl | rfl <;> simp [wSrc]
    · simp only [List.mem_cons, List.not_mem_nil, or_false] at hr
      rcases hr with rfl | rfl <;> rfl

/-- The capability and the arguments of `nma`. -/
def nmaCap (s : State) (o : OpRRR) : Reg := ⟨Cap.offset (w s o.b).val (x s o.c).toInt, (w s o.b).tag⟩
def nmaArgs (s : State) (o : OpRRR) : List Word := (List.range 4).map fun j => x s (o.a + BitVec.ofNat 6 j)

include hargs h in
theorem nma_behind : (do
    let xs ← (List.range 4).mapM fun i => readX i (o.a + BitVec.ofNat 6 i)
    let b ← readW 4 o.b
    let d ← readX 5 o.c
    nmaAct o xs ⟨Cap.offset b.val d.toInt, b.tag⟩ : M Unit) (s.withSelf (s.self.begun (nmaDesc o))) =
      nmaAct o (nmaArgs s o) (nmaCap s o) (s.withSelf (s.self.begun (nmaDesc o))) := by
  have hread : ∀ i ∈ List.range 4, readX i (o.a + BitVec.ofNat 6 i) (s.withSelf (s.self.begun (nmaDesc o))) =
      .ok (x s (o.a + BitVec.ofNat 6 i)) (s.withSelf (s.self.begun (nmaDesc o))) := fun i hi =>
    (issues_argument hargs (List.mem_range.mp hi)).readX_begun _ i (List.mem_singleton_self _)
  rw [M.bind_ok (mapM_run hread), M.bind_ok (h.readW_begun _ 4 (by simp)), M.bind_ok (h.readX_begun _ 5 (by simp))]
  rfl

end

/-! ## Results -/

/-- The strand with results in registers behind A. -/
def putResults (o : OpRRR) (vs : List Word) (l : List Nat) (t : Strand) : Strand :=
  l.foldl (fun (t : Strand) j => t.putW (o.a + BitVec.ofNat 6 j).toNat (Reg.ofWord (vs.getD j 0))) t

/-- The strand with the four results of a routine. -/
def withResults (o : OpRRR) (t : Strand) (vs : List Word) : Strand := putResults o vs (List.range 4) t

theorem putResults_keeps (o : OpRRR) (vs : List Word) (l : List Nat) (t : Strand) :
    (putResults o vs l t).still = t.still ∧ StandsAt (putResults o vs l t) t := by
  induction l generalizing t with
  | nil => exact ⟨rfl, rfl, rfl, rfl, rfl⟩
  | cons j l ih =>
    obtain ⟨hstill, hpcc, hn, hapart, hir⟩ := ih (t.putW (o.a + BitVec.ofNat 6 j).toNat (Reg.ofWord (vs.getD j 0)))
    exact ⟨hstill, hpcc, hn, hapart, hir⟩

/-- Where the results stand depends on the window alone. -/
theorem putResults_regs (o : OpRRR) (vs : List Word) (l : List Nat) {t r : Strand} (hregs : t.regs = r.regs) (hwin : t.win = r.win) :
    (putResults o vs l t).regs = (putResults o vs l r).regs := by
  induction l generalizing t r with
  | nil => exact hregs
  | cons j l ih =>
    have hphys : ∀ n, t.physOf n = r.physOf n := fun n => by simp only [Strand.physOf, hwin]
    refine ih (t := t.putW _ _) (r := r.putW _ _) ?_ hwin
    rw [Strand.putW, Strand.putW, Strand.putPhys, Strand.putPhys, hphys, hregs]

theorem writeResults_run (o : OpRRR) {u : State} {t : Strand} (hu : OnlySelf s t u) (vs : List Word) :
    ∃ v, writeResults o.a vs u = .ok () v ∧ OnlySelf s (withResults o t vs) v := by
  obtain ⟨u0, h0, hu0⟩ := hu.modSelf fun t => t.putW (o.a + BitVec.ofNat 6 0).toNat (Reg.ofWord (vs.getD 0 0))
  obtain ⟨u1, h1, hu1⟩ := hu0.modSelf fun t => t.putW (o.a + BitVec.ofNat 6 1).toNat (Reg.ofWord (vs.getD 1 0))
  obtain ⟨u2, h2, hu2⟩ := hu1.modSelf fun t => t.putW (o.a + BitVec.ofNat 6 2).toNat (Reg.ofWord (vs.getD 2 0))
  obtain ⟨u3, h3, hu3⟩ := hu2.modSelf fun t => t.putW (o.a + BitVec.ofNat 6 3).toNat (Reg.ofWord (vs.getD 3 0))
  refine ⟨u3, ?_, hu3⟩
  unfold writeResults
  rw [show List.range 4 = [0, 1, 2, 3] from rfl]
  simp only [List.forIn_cons, List.forIn_nil, bind_assoc, pure_bind]
  refine (M.bind_ok h0).trans ?_
  refine (M.bind_ok h1).trans ?_
  refine (M.bind_ok h2).trans ?_
  exact (M.bind_ok h3).trans rfl

/-! ## Routines -/

/-- The one word of a routine that returns at once. -/
theorem decodeWords_ret : decodeWords ((([0x2000] : List IWord).drop 0).take (chainLength (([0x2000] : List IWord).drop 0))) =
    some (.ok (.ret ⟨0⟩)) := by decide +kernel

/-- A routine of a single `ret` gives its arguments back. -/
theorem performRoutine_ret {k : Nat} {c : Reg} {args : List Word} {v : AgentSlot} (hv : lookupD none s.units.agentSlots (k % 64) = some v)
    (howner : v.owner = Cap.tenant c.val) (hret : v.words = [0x2000]) (hlen : args.length = 4) (a colony : Nat) (src : BitVec 28) :
    performRoutine k c args a colony src s = .ok (some (args, 1)) s := by
  have hrun (view : AgentView) (r : AgentRun) (hpos : r.pos = 0) : runRoutine view v.words 256 r s = .ok (some { r with count := r.count + 1 }) s := by
    have hdecode : decodeWords ((([0x2000] : List IWord).drop 0).take (chainLength (([0x2000] : List IWord).drop 0))) =
        some (.ok (.ret ⟨0⟩)) := decodeWords_ret
    rw [hret, runRoutine, hpos, hdecode]
    rfl
  unfold performRoutine
  rw [M.bind_ok (M.get_run s), hv]
  dsimp only
  rw [M.bind_ok (raiseIf_of_not (decide_eq_false (not_not.mpr howner)) _ _ s), M.bind_ok (hrun _ _ rfl)]
  obtain ⟨x0, x1, x2, x3, rfl⟩ : ∃ x0 x1 x2 x3, args = [x0, x1, x2, x3] := by
    match args, hlen with
    | [x0, x1, x2, x3], _ => exact ⟨x0, x1, x2, x3, rfl⟩
  rfl

section

variable {o : OpRRR} (hargs : Ready s [wBoth o.a, wBoth (o.a + 1), wBoth (o.a + 2), wBoth (o.a + 3)]) (hfit : o.a.toNat ≤ 60)
  (h : Issues s [o.b, o.c]) {p : Nat} {e : Word} (hcheck : checkFault s (nmaCap s o) Cap.ec [Cap.kMemory] 1 = none)
  (hmaps : Maps s (Cap.tenant (nmaCap s o).val) (Cap.cursor (nmaCap s o).val) Cap.ec p e)
include hargs hfit h hcheck hmaps

theorem nma_access : checkAccess (nmaCap s o) Cap.ec [Cap.kMemory] 1 (s.withSelf (s.self.begun (nmaDesc o))) =
    .ok (p, e) (s.withSelf (s.self.begun (nmaDesc o))) :=
  checkAccess_run (s := s) (v := s.withSelf (s.self.begun (nmaDesc o))) (by rw [State.self_withSelf]; rfl) rfl rfl hcheck hmaps

/-- `perm` for a place that is no DRAM, or a mirrored page. -/
theorem nma_place (hplace : place (localOf p) ≠ .dram ∨ pteM e = true) : Traps (.nma o) s cPerm (Cap.cursor (nmaCap s o).val) := by
  refine traps_of_runOp (nma_eq o s) Steer.noConfusion (clear_nma hargs hfit h) ((nma_behind hargs h).trans ?_) (by decide)
  unfold nmaAct
  rw [M.bind_ok (nma_access hargs hfit h hcheck hmaps)]
  exact M.bind_error (raiseIf_of (by simpa using hplace) _ _ _)

section

variable (hdram : place (localOf p) = .dram) (hm : pteM e = false) (hpkg : pkgOf p = s.pkg)
include hdram hm hpkg

/-- `perm` for a slot that is empty or another tenant's, and without `gl`. -/
theorem nma_refused (hbad : lookupD none s.units.agentSlots (o.imm.toNat % 64) = none ∨
      (∃ v, lookupD none s.units.agentSlots (o.imm.toNat % 64) = some v ∧ v.owner ≠ Cap.tenant (nmaCap s o).val) ∨
      Cap.has (nmaCap s o).val Cap.gl = false) : Traps (.nma o) s cPerm (Cap.cursor (nmaCap s o).val) := by
  refine traps_of_runOp (nma_eq o s) Steer.noConfusion (clear_nma hargs hfit h) ((nma_behind hargs h).trans ?_) (by decide)
  unfold nmaAct
  rw [M.bind_ok (nma_access hargs hfit h hcheck hmaps)]
  dsimp only
  rw [M.bind_ok (raiseIf_of_not (by simp [hdram, hm]) _ _ _), M.bind_ok (M.get_run _), if_pos (show pkgOf p = (s.withSelf (s.self.begun (nmaDesc o))).pkg from hpkg),
    show (s.withSelf (s.self.begun (nmaDesc o))).units.agentSlots = s.units.agentSlots from rfl]
  cases hslot : lookupD none s.units.agentSlots (o.imm.toNat % 64) with
  | none => rfl
  | some v =>
    dsimp only
    by_cases howner : v.owner = Cap.tenant (nmaCap s o).val
    · have hgl : Cap.has (nmaCap s o).val Cap.gl = false := by
        rcases hbad with hnone | ⟨v', hv', hne⟩ | hgl
        · rw [hnone] at hslot; cases hslot
        · rw [hslot] at hv'; cases hv'; exact absurd howner hne
        · exact hgl
      rw [M.bind_ok (raiseIf_of_not (decide_eq_false (not_not.mpr howner)) _ _ _)]
      exact M.bind_error (raiseIf_of (by rw [hgl]; rfl) _ _ _)
    · exact M.bind_error (raiseIf_of (decide_eq_true howner) _ _ _)

theorem nma_returns {v : AgentSlot} (hslot : lookupD none s.units.agentSlots (o.imm.toNat % 64) = some v)
    (howner : v.owner = Cap.tenant (nmaCap s o).val) (hgl : Cap.has (nmaCap s o).val Cap.gl = true)
    (hjobs : ∀ j ∈ s.units.agentJobs, j.agent ≠ channelOf (localOf p)) (hun : Unbounded s 5) (hret : v.words = [0x2000]) :
    Leads (.nma o) s (s.withSelf (withResults o s.self (nmaArgs s o))) := by
  obtain ⟨u, hu, hself⟩ := writeResults_run o (OnlySelf.begun s (nmaDesc o)) (nmaArgs s o)
  have hnone : (s.units.agentJobs.any fun j => j.agent = channelOf (localOf p)) = false := by
    simpa using hjobs
  have hperform := attempt_ok (performRoutine_ret (s := s.withSelf (s.self.begun (nmaDesc o))) (k := o.imm.toNat % 64) (v := v)
    (args := nmaArgs s o) (by rw [Nat.mod_mod]; exact hslot) howner hret rfl (localOf p) (s.colonyOf s.cur) (s.fullSid s.cur))
  obtain ⟨hstill, hpcc, hn, -⟩ := putResults_keeps o (nmaArgs s o) (List.range 4) (s.self.begun (nmaDesc o))
  obtain ⟨hstill', -, -, hapart, hir⟩ := putResults_keeps o (nmaArgs s o) (List.range 4) s.self
  refine leads_of_runOp (nma_eq o s) Steer.noConfusion (clear_nma hargs hfit h) (u := u) ((nma_behind hargs h).trans ?_) hself
    ?_ (putResults_regs o _ _ rfl rfl) hpcc hn ?_ ?_
  · unfold nmaAct
    rw [M.bind_ok (nma_access hargs hfit h hcheck hmaps)]
    dsimp only
    rw [M.bind_ok (raiseIf_of_not (by simp [hdram, hm]) _ _ _), M.bind_ok (M.get_run _),
      if_pos (show pkgOf p = (s.withSelf (s.self.begun (nmaDesc o))).pkg from hpkg),
      show (s.withSelf (s.self.begun (nmaDesc o))).units.agentSlots = s.units.agentSlots from rfl, hslot]
    dsimp only
    rw [M.bind_ok (raiseIf_of_not (decide_eq_false (not_not.mpr howner)) _ _ _), M.bind_ok (raiseIf_of_not (by rw [hgl]; rfl) _ _ _),
      if_neg (show ¬((s.withSelf (s.self.begun (nmaDesc o))).units.agentJobs.any fun j => j.agent = channelOf (localOf p)) = true by
        rw [Bool.not_eq_true]; exact hnone)]
    refine (M.bind_ok hperform).trans ?_
    dsimp only
    rw [if_neg (by rw [hun.admits (.begun s (nmaDesc o))]; decide)]
    refine (M.bind_ok (show (modify fun s => s.charge (s.colonyOf s.cur) 5 1 : M Unit) (s.withSelf (s.self.begun (nmaDesc o))) =
      .ok () (s.withSelf (s.self.begun (nmaDesc o))) from congrArg _ (hun.charge (.begun s (nmaDesc o)) 1))).trans ?_
    exact hu
  · exact hstill.trans hstill'.symm
  · exact hapart
  · exact hir

end

end

theorem agentsRun : AgentsRun := by
  refine ⟨fun o s a e h => ?_, fun o s p e hargs hfit h => ?_⟩
  · intro c slot bs n ws status
    refine ⟨fun hslot => traps_of_priv (nmld_eq o s) (nmldCheck_high h hslot) h.1 (by decide),
      fun hslot hmode => traps_of_priv (nmld_eq o s) (nmldCheck_user h hslot hmode) h.1 (by decide),
      fun hslot hmode hopen v hv howner hhyp => nmld_foreign h hslot hmode hopen hv howner hhyp,
      fun hslot hmode hopen hpage hdirect hpart hbad hown => ?_⟩
    obtain ⟨hset, hleads⟩ := nmld_leads h hslot hmode hopen hpage hdirect hpart hbad hown
    exact ⟨fun hn => if_pos hn, hset, hleads⟩
  · intro c va a slot args results hcheck hmaps
    refine ⟨nma_place hargs hfit h hcheck hmaps, fun hdram hm hpkg => ⟨nma_refused hargs hfit h hcheck hmaps hdram hm hpkg, ?_⟩⟩
    exact fun v hslot howner hgl hjobs hun hret => nma_returns hargs hfit h hcheck hmaps hdram hm hpkg hslot howner hgl hjobs hun hret

/-! ## Turns of agents -/

/-- A slot that is empty or another tenant's performs nothing. -/
theorem performRoutine_refused {k : Nat} {c : Reg}
    (h : ∀ v, lookupD none s.units.agentSlots (k % 64) = some v → v.owner ≠ Cap.tenant c.val) (args : List Word) (a colony : Nat)
    (src : BitVec 28) : performRoutine k c args a colony src s = .error (.trap cPerm (BitVec.ofNat 64 (Cap.cursor c.val)) none) s := by
  unfold performRoutine
  rw [M.bind_ok (M.get_run s)]
  cases hv : lookupD none s.units.agentSlots (k % 64) with
  | none => rfl
  | some v => exact M.bind_error (raiseIf_of (decide_eq_true (h v hv)) _ _ s)

theorem agentTurns : AgentTurns := by
  intro s agent hnow
  have hexec : exec .nmaRoutine s = runEvent (agentTurn agent) s := by
    change execNmaRoutine s = _
    unfold execNmaRoutine
    rw [hnow]
  refine ⟨fun hnone => happens_runEvent hexec ?_, fun j js hjobs hagent hsrc hslot => ?_⟩
  · have hfind : s.units.agentJobs.find? (fun j => j.agent = agent) = none := by
      simpa using hnone
    unfold agentTurn
    rw [M.bind_ok (M.get_run s), hfind]
    rfl
  · obtain ⟨u, hu⟩ : ∃ u : State, u = { s with units := { s.units with agentJobs := js } } := ⟨_, rfl⟩
    have hfind : s.units.agentJobs.find? (fun j => j.agent = agent) = some j := by
      rw [hjobs]
      exact List.find?_cons_of_pos (decide_eq_true hagent)
    have hanswer : agentAnswer j u = .ok (.fail cPerm (BitVec.ofNat 64 (Cap.cursor j.cap.val))) u := by
      have hperform := attempt_error (performRoutine_refused (s := u) (by rw [hu]; exact hslot) j.args j.packet.addr 0 j.packet.src)
      rw [State.undo_eq rfl] at hperform
      exact (M.bind_ok hperform).trans rfl
    obtain ⟨pk, hpk⟩ : ∃ pk : Packet, pk = { requestPacket u (j.packet.src.toNat / 16384 * 2 ^ 41) 7 1 0
      (.fail cPerm (BitVec.ofNat 64 (Cap.cursor j.cap.val))) [] false with txn := j.packet.txn, addr := j.packet.src.toNat % 16384 } := ⟨_, rfl⟩
    have hsent : respond j.packet.src j.packet.txn (.fail cPerm (BitVec.ofNat 64 (Cap.cursor j.cap.val))) [] false u = .ok ()
        (posting u [.packetForward pk]) := by
      unfold respond
      rw [M.bind_ok (M.get_run u), if_neg (by rw [hu]; exact hsrc), hpk]
      rfl
    have hrun : agentTurn agent s = .ok () (posting u [.packetForward pk]) := by
      unfold agentTurn
      rw [M.bind_ok (M.get_run s), hfind]
      dsimp only
      rw [hjobs, List.erase_cons_head]
      refine (M.bind_ok (show (set _ : M Unit) s = .ok () u by rw [hu]; rfl)).trans ?_
      exact (M.bind_ok hanswer).trans hsent
    have hdst : pkgOf (j.packet.src.toNat / 16384 * 2 ^ 41) = j.packet.src.toNat / 16384 := by
      have hlt := j.packet.src.isLt
      unfold pkgOf
      omega
    refine ⟨_, pk, happens_runEvent hexec hrun, ?_, ?_, fun b => ?_, ?_, hpk ▸ hdst, hpk ▸ rfl, hpk ▸ rfl⟩ <;> rw [hu] <;> rfl

/-- Settles O45: `nmld` replaces a slot by the routine of an image that passes, `nma` performs the routine of its slot, and an agent
answers the oldest job that waits for it. -/
theorem nearMemoryAgents : Obligations.NearMemoryAgents := ⟨agentsRun, agentTurns⟩

end Sys2Proof.Claims
end

section
/-! PROOF. O31: what the home of a worklist instance does. -/

namespace Sys2Proof.Claims

open Sys2Proof.Machine

variable {s : State}

/-! ## Home slots -/

theorem modSlot_run (d i : Nat) (f : HomeSlot → HomeSlot) (s : State) :
    modSlot d i f s = .ok () (withSlot s d i (f (s.slot d i))) := rfl

@[simp] theorem slot_withSlot (s : State) (d i : Nat) (h : HomeSlot) : (withSlot s d i h).slot d i = h := by
  unfold withSlot State.withDie State.slot State.die
  simp only [lookupD_storeAt_same]

@[simp] theorem items_withSlot (s : State) (d i : Nat) (h : HomeSlot) (e : Nat) :
    ((withSlot s d i h).die e).items = (s.die e).items := by
  unfold withSlot State.withDie State.die
  dsimp only
  rw [lookupD_storeAt]
  split
  · next he => rw [he]
  · rfl

/-- Changing the items of a die leaves every home slot. -/
theorem slot_modItems (f : List Item → List Item) (e d i : Nat) (s : State) :
    ∃ t, modItems e f s = .ok () t ∧ t.strands = s.strands ∧ t.mem = s.mem ∧ t.agenda = s.agenda ∧ t.pkg = s.pkg ∧
      t.slot d i = s.slot d i ∧ (t.die e).items = f (s.die e).items := by
  refine ⟨_, rfl, rfl, rfl, rfl, rfl, ?_, ?_⟩
  · unfold State.withDie State.slot State.die
    dsimp only
    rw [lookupD_storeAt]
    split
    · next hd => rw [hd]
    · rfl
  · unfold State.withDie State.die
    dsimp only
    rw [lookupD_storeAt_same]

/-- The next check of every waiting pop is posted. -/
theorem recheckPops_run (d i : Nat) (s : State) :
    recheckPops d i s = .ok () (posting s ((s.slot d i).pops.map fun p => .popCheck p.sid)) := by
  have hfold : ∀ (l : List Pop) (v : State), l.foldl (fun v (p : Pop) => posting v [.popCheck p.sid]) v =
      posting v (l.map fun p : Pop => .popCheck p.sid) := by
    intro l
    induction l with
    | nil => intro v; rw [List.foldl_nil, List.map_nil, posting_nil]
    | cons p l ih => intro v; rw [List.foldl_cons, ih, posting_posting, List.map_cons, List.singleton_append]
  rw [← hfold]
  refine (M.bind_ok (rfl : (get : M State) s = .ok s s)).trans ?_
  exact M.bind_ok (forIn_run (f := fun (p : Pop) (_ : PUnit) => (do post (.popCheck p.sid); pure (.yield ⟨⟩) : M (ForInStep PUnit)))
    (g := fun v (p : Pop) => posting v [.popCheck p.sid]) (fun _ _ => rfl) _ _)

/-! ## The window of a home slot (R330) -/

theorem countKey_keeps (h : HomeSlot) (e n k : Nat) :
    ∃ g p a, h.countKey e n k = { h with g := g, presence := p, above := a } := by
  unfold HomeSlot.countKey
  dsimp only
  split
  · exact ⟨_, _, h.above, rfl⟩
  · exact ⟨h.g, h.presence, _, rfl⟩

theorem countKeys_keep (l : List (Nat × Nat)) (h : HomeSlot) :
    ∃ g p a, l.foldl (fun h k => h.countKey k.1 1 k.2) h = { h with g := g, presence := p, above := a } := by
  induction l generalizing h with
  | nil => exact ⟨h.g, h.presence, h.above, rfl⟩
  | cons k l ih =>
    obtain ⟨g, p, a, hk⟩ := countKey_keeps h k.1 1 k.2
    obtain ⟨g', p', a', hl⟩ := ih { h with g := g, presence := p, above := a }
    exact ⟨g', p', a', by rw [List.foldl_cons, hk, hl]⟩

/-- A rebase changes the window and the engines that are asked. -/
theorem rebase_keeps (h : HomeSlot) (s : State) (inst : Nat) :
    ∃ wb g p a q, h.rebase s inst = { h with wb := wb, g := g, presence := p, above := a, asked := q } ∧
      (h.asked = [] → (∀ e ∈ h.dcount, e.1 / 8 = s.pkg) → q = []) := by
  unfold HomeSlot.rebase
  split
  · exact ⟨h.wb, h.g, h.presence, h.above, h.asked, rfl, fun hq _ => hq⟩
  · split
    · exact ⟨h.wb, h.g, h.presence, h.above, h.asked, rfl, fun hq _ => hq⟩
    · obtain ⟨g, p, a, hk⟩ := countKeys_keep
        (h.dcount.flatMap fun e => (s.countedKeys e.1 inst h.gen).map fun k => (e.1, k))
        { h with
          wb := h.bucket (lookupD 0 h.dmin ‹Nat›)
          above := ((h.dcount.filter fun e => e.1 / 8 ≠ s.pkg).map (·.2)).sum
          presence := []
          asked := (h.dcount.filter fun e => e.1 / 8 ≠ s.pkg).map (·.1) }
      refine ⟨_, g, p, a, _, hk, fun _ hown => ?_⟩
      rw [List.filter_eq_nil_iff.2 fun e he => by simpa using hown e he]
      rfl

/-- What a home's own bookkeeping leaves as it is: the strands, memory, items, and of the slot all but its window. -/
structure Rebased (s t : State) (d i : Nat) : Prop where
  strands : t.strands = s.strands
  mem : t.mem = s.mem
  items : ∀ e, (t.die e).items = (s.die e).items
  dcount : (t.slot d i).dcount = (s.slot d i).dcount
  dmin : (t.slot d i).dmin = (s.slot d i).dmin
  pops : (t.slot d i).pops = (s.slot d i).pops
  agenda : (s.slot d i).asked = [] → (∀ e ∈ (s.slot d i).dcount, e.1 / 8 = s.pkg) → t.agenda = s.agenda

theorem Rebased.refl (s : State) (d i : Nat) : Rebased s s d i := ⟨rfl, rfl, fun _ => rfl, rfl, rfl, rfl, fun _ _ => rfl⟩

theorem rebaseSlot_run (d i : Nat) (s : State) : ∃ t, rebaseSlot d i s = .ok () t ∧ Rebased s t d i := by
  cases hr : (s.slot d i).rebases with
  | false =>
    refine ⟨s, ?_, .refl s d i⟩
    refine (M.bind_ok (rfl : (get : M State) s = .ok s s)).trans ?_
    rw [if_pos (by rw [hr]; rfl)]
    rfl
  | true =>
    obtain ⟨wb, g, p, a, q, hb, hq⟩ := rebase_keeps (s.slot d i) s (instName s.pkg d i)
    obtain ⟨u, hu⟩ : ∃ u, u = withSlot s d i { s.slot d i with wb := wb, g := g, presence := p, above := a, asked := q } := ⟨_, rfl⟩
    have hslot : u.slot d i = { s.slot d i with wb := wb, g := g, presence := p, above := a, asked := q } := by
      rw [hu, slot_withSlot]
    have hmod : modSlot d i (fun h => h.rebase s (instName s.pkg d i)) s = .ok () u := by
      rw [modSlot_run, hb, hu]
    have hrel : Rebased s u d i := by
      refine ⟨by rw [hu]; rfl, by rw [hu]; rfl, fun e => by rw [hu, items_withSlot], by rw [hslot], by rw [hslot], by rw [hslot],
        fun _ _ => by rw [hu]; rfl⟩
    obtain ⟨t, ht, hk⟩ := forIn_preserves
      (f := fun e (_ : PUnit) => (do
        sendPacket (swarmPacket u (e / 8) (.wlReport (instName u.pkg d i) (s.slot d i).gen e))
        pure (.yield ⟨⟩) : M (ForInStep PUnit)))
      (P := fun v => ∃ es, v = posting u es) (l := (u.slot d i).asked)
      (fun e _ v hv => by
        obtain ⟨es, rfl⟩ := hv
        exact ⟨_, rfl, es ++ [_], posting_posting u es [_]⟩)
      (s := u) ⟨[], (posting_nil u).symm⟩
    refine ⟨t, ?_, ?_⟩
    · refine (M.bind_ok (rfl : (get : M State) s = .ok s s)).trans ?_
      rw [if_neg (by rw [hr]; decide), M.bind_ok hmod, M.bind_ok (rfl : (get : M State) u = .ok u u)]
      exact M.bind_ok ht
    · obtain ⟨es, rfl⟩ := hk
      refine ⟨hrel.strands, hrel.mem, hrel.items, hrel.dcount, hrel.dmin, hrel.pops, fun hq' hown => ?_⟩
      have hnil : (u.slot d i).asked = [] := by rw [hslot]; exact hq hq' hown
      rw [hnil] at ht
      have heq : u = posting u es := congrArg (fun r => match r with | .ok _ v => v | .error _ v => v) ht
      rw [← heq]
      exact hrel.agenda hq' hown
/-- A charge at a home changes the units alone. -/
theorem modify_charge_run (c n : Nat) (s : State) :
    ∃ U, (modify fun v : State => v.charge c 6 n : M Unit) s = .ok () { s with units := U } := by
  obtain ⟨U, hU⟩ := charge_rest s c 6 n
  exact ⟨U, congrArg (EStateM.Result.ok ()) hU⟩

/-! ## Counts and task ends (R318, R322, R327) -/

/-- A count changes the window, the engine's count and lowest key, and the keys since a commit. -/
theorem addCount_keeps (h : HomeSlot) (e n k : Nat) :
    ∃ wb g a p m c, h.addCount e n k =
      { h with
        wb := wb, g := g, above := a, presence := p, dmin := m, since := c
        dcount := storeAt 0 e (lookupD 0 h.dcount e + n) h.dcount } := by
  obtain ⟨wb, g, a, p, hw⟩ : ∃ wb g a p, (if h.bucket k < h.wb then h.lowerWindow (h.bucket k) else h) =
      { h with wb := wb, g := g, above := a, presence := p } := by
    split
    · exact ⟨_, _, _, _, rfl⟩
    · exact ⟨h.wb, h.g, h.above, h.presence, rfl⟩
  unfold HomeSlot.addCount
  dsimp only
  rw [hw]
  dsimp only
  obtain ⟨g', p', a', hk⟩ := countKey_keeps
    { h with
      wb := wb, g := g, above := a, presence := p
      dcount := storeAt 0 e (lookupD 0 h.dcount e + n) h.dcount
      dmin := storeAt 0 e (if lookupD 0 h.dcount e = 0 then k else min (lookupD 0 h.dmin e) k) h.dmin
      since := if lookupD 0 h.takes e = 0 then h.since else h.since ++ [(e, k)] } e n k
  exact ⟨_, _, _, _, _, _, hk⟩

theorem keepsBack_iff {h : HomeSlot} {c : WlCount} :
    h.keepsBack c = true ↔ h.saved ∨ h.asked ≠ [] ∨ (∃ e ∈ h.hold, c.key < e.2) ∨ ∃ y ∈ h.held, y.sid = c.sid := by
  simp [HomeSlot.keepsBack, or_assoc]

theorem applyCount_stale {c : WlCount} (h : (s.slot c.home c.slot).used = false ∨ (s.slot c.home c.slot).gen ≠ c.gen) :
    applyCount c s = .ok () s := by
  refine (M.bind_ok (rfl : (get : M State) s = .ok s s)).trans ?_
  rw [if_pos (by simpa using h)]
  rfl

section Applied
variable {c : WlCount} (hused : (s.slot c.home c.slot).used = true) (hgen : (s.slot c.home c.slot).gen = c.gen)
include hused hgen

theorem applyCount_kept (h : (s.slot c.home c.slot).keepsBack c = true) :
    applyCount c s = .ok () (withSlot s c.home c.slot
      { s.slot c.home c.slot with held := (s.slot c.home c.slot).held ++ [c] }) := by
  refine (M.bind_ok (rfl : (get : M State) s = .ok s s)).trans ?_
  rw [if_neg (by simp [hused, hgen]), if_pos h]
  rfl

theorem applyCount_run (h : (s.slot c.home c.slot).keepsBack c = false) (hown : c.die / 8 = s.pkg)
    (hall : ∀ e ∈ (s.slot c.home c.slot).dcount, e.1 / 8 = s.pkg) :
    ∃ t, applyCount c s = .ok () t ∧ t.strands = s.strands ∧ t.mem = s.mem ∧
      (t.die (c.die % 8)).items = ripen (instName s.pkg c.home c.slot) c.gen c.n c.key (s.die (c.die % 8)).items ∧
      lookupD 0 (t.slot c.home c.slot).dcount c.die = lookupD 0 (s.slot c.home c.slot).dcount c.die + c.n ∧
      t.agenda = s.agenda ++ (s.slot c.home c.slot).pops.map fun p => .popCheck p.sid := by
  have hasked : (s.slot c.home c.slot).asked = [] := by
    by_contra hne
    rw [keepsBack_iff.2 (.inr (.inl hne))] at h
    cases h
  obtain ⟨U, hU⟩ := modify_charge_run (s.slot c.home c.slot).colony 1 s
  obtain ⟨v, hv, vstrands, vmem, vagenda, vpkg, vslot, vitems⟩ := slot_modItems
    (ripen (instName s.pkg c.home c.slot) c.gen c.n c.key) (c.die % 8) c.home c.slot { s with units := U }
  have hack : acknowledge (instName s.pkg c.home c.slot) c { s with units := U } = .ok () v := by
    refine (M.bind_ok (rfl : (get : M State) _ = .ok _ _)).trans ?_
    rw [if_pos (show c.die / 8 = s.pkg from hown)]
    exact hv
  obtain ⟨wb, g, a, p, m, k, hadd⟩ := addCount_keeps (v.slot c.home c.slot) c.die c.n c.key
  obtain ⟨w, hw⟩ : ∃ w, w = withSlot v c.home c.slot ((v.slot c.home c.slot).addCount c.die c.n c.key) := ⟨_, rfl⟩
  have wslot : w.slot c.home c.slot = (v.slot c.home c.slot).addCount c.die c.n c.key := by rw [hw, slot_withSlot]
  have hslot : v.slot c.home c.slot = s.slot c.home c.slot := vslot
  rw [hadd, hslot] at wslot
  obtain ⟨x, hx, hreb⟩ := rebaseSlot_run c.home c.slot w
  have wpkg : w.pkg = s.pkg := by rw [hw]; exact vpkg
  have hagenda : x.agenda = s.agenda := by
    rw [hreb.agenda, hw]
    · exact vagenda
    · rw [wslot]; exact hasked
    · rw [wslot, wpkg]
      intro e he
      rcases mem_of_mem_storeAt he with rfl | he
      · exact hown
      · exact hall e he
  refine ⟨posting x ((x.slot c.home c.slot).pops.map fun p => .popCheck p.sid), ?_, ?_, ?_, ?_, ?_, ?_⟩
  · refine (M.bind_ok (rfl : (get : M State) s = .ok s s)).trans ?_
    rw [if_neg (by simp [hused, hgen]), if_neg (by rw [h]; decide)]
    refine (M.bind_ok hU).trans ?_
    rw [M.bind_ok hack, M.bind_ok (modSlot_run c.home c.slot _ v), ← hw, M.bind_ok hx, recheckPops_run]
  · rw [← vstrands, show v.strands = w.strands by rw [hw]; rfl]; exact hreb.strands
  · rw [← vmem, show v.mem = w.mem by rw [hw]; rfl]; exact hreb.mem
  · refine (hreb.items _).trans ?_
    rw [hw, items_withSlot]
    exact vitems
  · refine (congrArg (fun l => lookupD 0 l c.die) hreb.dcount).trans ?_
    rw [wslot, lookupD_storeAt_same]
  · show x.agenda ++ _ = _
    rw [hagenda, hreb.pops, wslot]

end Applied

section TaskEnds
variable {k : TaskId}

theorem applyTaskEnd_stale (h : (s.slot k.home k.slot).used = false ∨ (s.slot k.home k.slot).gen ≠ k.gen) :
    applyTaskEnd k s = .ok () s := by
  refine (M.bind_ok (rfl : (get : M State) s = .ok s s)).trans ?_
  rw [if_pos (by simpa using h)]
  rfl

/-- Whether a task's end waits at its home. -/
def EndWaits (h : HomeSlot) (k : TaskId) : Prop := h.saved ∨ (∃ y ∈ h.held, y.sid = k.sid) ∨ ∃ y ∈ h.ends, y.sid = k.sid

variable (hused : (s.slot k.home k.slot).used = true) (hgen : (s.slot k.home k.slot).gen = k.gen)
include hused hgen

theorem applyTaskEnd_kept (h : EndWaits (s.slot k.home k.slot) k) :
    applyTaskEnd k s = .ok () (withSlot s k.home k.slot
      { s.slot k.home k.slot with ends := (s.slot k.home k.slot).ends ++ [k] }) := by
  refine (M.bind_ok (rfl : (get : M State) s = .ok s s)).trans ?_
  rw [if_neg (by simp [hused, hgen]), if_pos (by simpa [EndWaits, or_assoc] using h)]
  rfl

theorem applyTaskEnd_run (h : ¬EndWaits (s.slot k.home k.slot) k) :
    ∃ t, applyTaskEnd k s = .ok () t ∧ t.strands = s.strands ∧ t.mem = s.mem ∧
      (t.slot k.home k.slot).inflight = (s.slot k.home k.slot).inflight - 1 ∧
      (t.slot k.home k.slot).ends = (s.slot k.home k.slot).ends := by
  obtain ⟨U, hU⟩ := modify_charge_run (s.slot k.home k.slot).colony 1 s
  obtain ⟨h', hh'⟩ : ∃ h' : HomeSlot, h' = { s.slot k.home k.slot with
      inflight := (s.slot k.home k.slot).inflight - 1
      holders := storeAt 0 k.holder (lookupD 0 (s.slot k.home k.slot).holders k.holder - 1) (s.slot k.home k.slot).holders } :=
    ⟨_, rfl⟩
  obtain ⟨w, hw⟩ : ∃ w, w = withSlot { s with units := U } k.home k.slot h' := ⟨_, rfl⟩
  have wslot : w.slot k.home k.slot = h' := by rw [hw, slot_withSlot]
  refine ⟨posting w ((w.slot k.home k.slot).pops.map fun p => .popCheck p.sid), ?_, ?_, ?_, ?_, ?_⟩
  · refine (M.bind_ok (rfl : (get : M State) s = .ok s s)).trans ?_
    rw [if_neg (by simp [hused, hgen]), if_neg (by simpa [EndWaits, or_assoc] using h)]
    refine (M.bind_ok hU).trans ?_
    rw [M.bind_ok (modSlot_run k.home k.slot _ _), show ({ s with units := U } : State).slot k.home k.slot = s.slot k.home k.slot from rfl,
      ← hh', ← hw, recheckPops_run]
  · rw [hw]; rfl
  · rw [hw]; rfl
  · show (w.slot k.home k.slot).inflight = _
    rw [wslot, hh']
  · show (w.slot k.home k.slot).ends = _
    rw [wslot, hh']

end TaskEnds

/-! ## The report of an engine's lowest key (R321) -/

theorem foldl_min_mem (l : List Nat) (a : Nat) : l.foldl min a = a ∨ l.foldl min a ∈ l := by
  induction l generalizing a with
  | nil => exact .inl rfl
  | cons b l ih =>
    rcases ih (min a b) with h | h
    · rcases min_choice a b with hm | hm <;> rw [List.foldl_cons, h, hm] <;> simp
    · exact .inr (List.mem_cons_of_mem _ h)

theorem foldl_min_le (l : List Nat) (a : Nat) : l.foldl min a ≤ a ∧ ∀ k ∈ l, l.foldl min a ≤ k := by
  induction l generalizing a with
  | nil => exact ⟨le_rfl, by simp⟩
  | cons b l ih =>
    obtain ⟨h1, h2⟩ := ih (min a b)
    refine ⟨h1.trans (min_le_left a b), fun k hk => ?_⟩
    rcases List.mem_cons.1 hk with rfl | hk
    · exact h1.trans (min_le_right a k)
    · exact h2 k hk

theorem foldl_min_headD {l : List Nat} (h : l ≠ []) :
    l.foldl min (l.headD 0) ∈ l ∧ ∀ k ∈ l, l.foldl min (l.headD 0) ≤ k := by
  obtain ⟨a, l, rfl⟩ := List.exists_cons_of_ne_nil h
  refine ⟨?_, (foldl_min_le _ _).2⟩
  rcases foldl_min_mem (a :: l) a with h | h
  · exact h.symm ▸ List.mem_cons_self
  · exact h

theorem reportMin_run (d i e : Nat) (s : State) :
    ∃ t, reportMin d i e s = .ok () t ∧ t.strands = s.strands ∧ t.mem = s.mem ∧
      let ks := s.countedKeys (engineName s.pkg e) (instName s.pkg d i) (s.slot d i).gen
      lookupD 0 (t.slot d i).dmin (engineName s.pkg e) = ks.foldl min (ks.headD 0) := by
  obtain ⟨ks, hks⟩ : ∃ ks, ks = s.countedKeys (engineName s.pkg e) (instName s.pkg d i) (s.slot d i).gen := ⟨_, rfl⟩
  obtain ⟨w, hw⟩ : ∃ w, w = withSlot s d i ((s.slot d i).setKeys (engineName s.pkg e) ks) := ⟨_, rfl⟩
  obtain ⟨x, hx, hreb⟩ := rebaseSlot_run d i w
  refine ⟨posting x ((x.slot d i).pops.map fun p => .popCheck p.sid), ?_, ?_, ?_, ?_⟩
  · refine (M.bind_ok (rfl : (get : M State) s = .ok s s)).trans ?_
    rw [M.bind_ok (modSlot_run d i _ s), ← hks, ← hw, M.bind_ok hx, recheckPops_run]
  · refine hreb.strands.trans ?_
    rw [hw]; rfl
  · refine hreb.mem.trans ?_
    rw [hw]; rfl
  · dsimp only
    rw [← hks]
    refine (congrArg (fun l => lookupD 0 l (engineName s.pkg e)) hreb.dmin).trans ?_
    rw [hw, slot_withSlot]
    exact lookupD_storeAt_same ..

/-! ## A pop that waits (R321 to R324) -/

/-- A pop that holds nothing back leaves its home. -/
theorem withdrawPop_run {d i sid : Nat} (hhold : (s.slot d i).hold = []) :
    withdrawPop d i sid s =
      .ok () (withSlot s d i { s.slot d i with pops := (s.slot d i).pops.filter fun x => x.sid ≠ sid }) := by
  unfold withdrawPop releaseHold
  rw [M.bind_ok (modSlot_run d i _ s)]
  refine (M.bind_ok (rfl : (get : M State) _ = .ok _ _)).trans ?_
  rw [slot_withSlot, if_neg (by rw [hhold]; exact Bool.false_ne_true)]
  rfl

/-- The home's answer goes to the popper, and changes no home slot. -/
theorem answerPop_run (p : Pop) (a : PopAnswer) (s : State) :
    ∃ t, answerPop p a s = .ok () t ∧ t.dies = s.dies ∧ (p.sid / 16384 = s.pkg →
      (t.strand (p.sid % 16384)).pop = (s.strand (p.sid % 16384)).pop.map fun r => { r with answer := some a }) := by
  by_cases hown : p.sid / 16384 = s.pkg
  · refine ⟨_, (M.bind_ok (rfl : (get : M State) s = .ok s s)).trans ((congrFun (if_pos hown) s).trans rfl), rfl, fun _ => ?_⟩
    exact congrArg Strand.pop (lookupD_storeAt_same ..)
  · exact ⟨_, (M.bind_ok (rfl : (get : M State) s = .ok s s)).trans ((congrFun (if_neg hown) s).trans rfl), rfl,
      fun h => absurd h hown⟩

section Checks
variable {d i sid : Nat} {p : Pop} (hpops : (s.slot d i).pops = [p]) (hsid : p.sid = sid) (hhold : (s.slot d i).hold = [])
include hpops hsid hhold

/-- The only pop of a home that holds nothing back is answered and leaves it. -/
theorem withdraw_answer_run {v : State} {U : PackageState} (hv : v = { s with units := U }) {q : Pop} (hq : q.sid = sid) (a : PopAnswer) :
    ∃ t, (do withdrawPop d i q.sid; answerPop q a : M Unit) v = .ok () t ∧ (t.slot d i).pops = [] ∧
      (sid / 16384 = s.pkg →
        (t.strand (sid % 16384)).pop = (s.strand (sid % 16384)).pop.map fun r => { r with answer := some a }) := by
  subst hv hq
  obtain ⟨t, ht, hdies, hans⟩ := answerPop_run q a
    (withSlot { s with units := U } d i { s.slot d i with pops := (s.slot d i).pops.filter fun x => x.sid ≠ q.sid })
  refine ⟨t, (M.bind_ok (withdrawPop_run (s := { s with units := U }) hhold)).trans ht, ?_, hans⟩
  unfold State.slot State.die
  rw [hdies]
  refine (congrArg HomeSlot.pops (slot_withSlot ..)).trans ?_
  rw [hpops, List.filter_cons_of_neg (by simp [hsid]), List.filter_nil]

theorem popCheckAt_broken (hbroken : (s.slot d i).broken = true) :
    ∃ t, popCheckAt d i sid s = .ok () t ∧ (t.slot d i).pops = [] ∧ (sid / 16384 = s.pkg →
      (t.strand (sid % 16384)).pop = (s.strand (sid % 16384)).pop.map fun r => { r with answer := some (.failed cPeer) }) := by
  obtain ⟨t, ht, hkeep⟩ := withdraw_answer_run hpops hsid hhold (v := s) (U := s.units) rfl hsid (.failed cPeer)
  refine ⟨t, (M.bind_ok (rfl : (get : M State) s = .ok s s)).trans ?_, hkeep⟩
  rw [hpops, List.find?_cons_of_pos (by simp [hsid])]
  dsimp only
  rw [if_pos hbroken]
  subst hsid
  exact ht

/-- A quiescent home answers a pop that no engine has an item for. -/
theorem popCheckAt_quiescent (hsaved : (s.slot d i).saved = false) (hasking : p.asking = false)
    (hbusy : s.worklistBusy sid d i = false) (hasked : (s.slot d i).asked = []) (hbroken : (s.slot d i).broken = false)
    (hcount : (s.slot d i).counted = 0) (hfly : (s.slot d i).inflight = 0) (hbest : p.best = none)
    (hlow : s.islandLow (sid % 16384) = false) (hadmits : s.admits p.colony 6 1 = true) (heng : p.engine / 8 = s.pkg)
    (hprop : propose (p.engine % 8) (instName s.pkg d i) (s.slot d i).gen none s = .ok none s) :
    ∃ t, popCheckAt d i sid s = .ok () t ∧ (t.slot d i).pops = [] ∧ (sid / 16384 = s.pkg →
      (t.strand (sid % 16384)).pop = (s.strand (sid % 16384)).pop.map fun r =>
        { r with answer := some (.quiescent p.redirects) }) := by
  obtain ⟨U, hU⟩ := modify_charge_run p.colony 1 s
  obtain ⟨q, hq⟩ : ∃ q : Pop, q = { p with
      checks := p.checks + 1
      dies := if p.checks = 0 then (s.slot d i).dcount.length else p.dies
      best := none } := ⟨_, rfl⟩
  have hredirect : ∀ again, redirectPop d i p (s.slot d i) (instName s.pkg d i) none again { s with units := U } =
      .ok (q, some (.quiescent p.redirects)) { s with units := U } := by
    intro again
    unfold redirectPop
    rw [hbest, ← hq]
    refine (M.bind_ok (rfl : (pure () : M Unit) _ = .ok () _)).trans ?_
    rw [if_pos hcount, if_pos hfly, show q.redirects = p.redirects by rw [hq]]
    rfl
  have hcheck : ∀ n, checkPop d i (n + 1) p none s = .ok (q, some (.quiescent p.redirects)) { s with units := U } := by
    intro n
    unfold checkPop
    refine (M.bind_ok (rfl : (get : M State) s = .ok s s)).trans ?_
    rw [if_neg (by simp [hsaved, hasked, hadmits]), M.bind_ok hU]
    exact hredirect _
  obtain ⟨t, ht, hkeep⟩ := withdraw_answer_run hpops hsid hhold (v := { s with units := U }) rfl
    (show q.sid = sid by rw [hq]; exact hsid) (.quiescent p.redirects)
  refine ⟨t, (M.bind_ok (rfl : (get : M State) s = .ok s s)).trans ?_, hkeep⟩
  rw [hpops, List.find?_cons_of_pos (by simp [hsid])]
  dsimp only
  rw [if_neg (by rw [hbroken]; exact Bool.false_ne_true), if_neg (by simp [hsaved, hasking, hbusy]), if_pos heng, hlow, Bool.and_false,
    if_neg Bool.false_ne_true, M.bind_ok hprop]
  refine (M.bind_ok (rfl : (get : M State) s = .ok s s)).trans ?_
  rw [M.bind_ok (hcheck _)]
  exact ht

end Checks

theorem popCheckAt_waits {d i sid : Nat} {p : Pop} (hpops : (s.slot d i).pops = [p]) (hsid : p.sid = sid)
    (hbroken : (s.slot d i).broken = false) (h : (s.slot d i).saved ∨ p.asking ∨ s.worklistBusy sid d i) :
    popCheckAt d i sid s = .ok () s := by
  refine (M.bind_ok (rfl : (get : M State) s = .ok s s)).trans ?_
  rw [hpops, List.find?_cons_of_pos (by simp [hsid])]
  dsimp only
  rw [if_neg (by rw [hbroken]; exact Bool.false_ne_true), if_pos (by simpa [or_assoc] using h)]
  rfl

/-! ## The obligation -/

theorem strand_of_strands {s t : State} (h : t.strands = s.strands) (b : Nat) : t.strand b = s.strand b :=
  congrArg (lookupD Strand.idle · b) h

theorem countApply_claims (s : State) (c : WlCount) (hnow : s.now = .countApply c) :
    let h := s.slot c.home c.slot
    (h.used = false ∨ h.gen ≠ c.gen → Happens .countApply s s) ∧
    (h.used → h.gen = c.gen → (h.saved ∨ h.asked ≠ [] ∨ (∃ e ∈ h.hold, c.key < e.2) ∨ ∃ y ∈ h.held, y.sid = c.sid) →
      Happens .countApply s (withSlot s c.home c.slot { h with held := h.held ++ [c] })) ∧
    (h.used → h.gen = c.gen → h.saved = false → h.asked = [] → (∀ e ∈ h.hold, e.2 ≤ c.key) → (∀ y ∈ h.held, y.sid ≠ c.sid) →
      c.die / 8 = s.pkg → (∀ e ∈ h.dcount, e.1 / 8 = s.pkg) →
      let inst := instName s.pkg c.home c.slot
      ∃ t, exec .countApply s = .next t ∧ (∀ b, t.strand b = s.strand b) ∧ t.mem = s.mem ∧
        (t.die (c.die % 8)).items = ripen inst c.gen c.n c.key (s.die (c.die % 8)).items ∧
        lookupD 0 (t.slot c.home c.slot).dcount c.die = lookupD 0 h.dcount c.die + c.n ∧
        t.agenda = s.agenda ++ h.pops.map fun p => .popCheck p.sid) := by
  have hexec : exec .countApply s = runEvent (applyCount c) s := by
    change execCountApply s = _
    unfold execCountApply
    rw [hnow]
  refine ⟨fun h => happens_runEvent hexec (applyCount_stale h),
    fun hu hg h => happens_runEvent hexec (applyCount_kept hu hg (keepsBack_iff.2 h)), fun hu hg hsv has hhold hheld hown hall => ?_⟩
  have hkeep : (s.slot c.home c.slot).keepsBack c = false := by
    rw [Bool.eq_false_iff]
    intro hk
    rcases keepsBack_iff.1 hk with h | h | ⟨e, he, h⟩ | ⟨y, hy, h⟩
    · rw [hsv] at h
      cases h
    · exact h has
    · exact absurd (hhold e he) (by omega)
    · exact hheld y hy h
  obtain ⟨t, ht, hstrands, hmem, hrest⟩ := applyCount_run hu hg hkeep hown hall
  exact ⟨t, happens_runEvent hexec ht, strand_of_strands hstrands, hmem, hrest⟩

theorem taskEndApply_claims (s : State) (k : TaskId) (hnow : s.now = .taskEndApply k) :
    let h := s.slot k.home k.slot
    (h.used = false ∨ h.gen ≠ k.gen → Happens .taskEndApply s s) ∧
    (h.used → h.gen = k.gen →
      let behind := h.saved ∨ (∃ y ∈ h.held, y.sid = k.sid) ∨ ∃ y ∈ h.ends, y.sid = k.sid
      ∃ t, exec .taskEndApply s = .next t ∧ (∀ b, t.strand b = s.strand b) ∧ t.mem = s.mem ∧
        (behind → (t.slot k.home k.slot).inflight = h.inflight ∧ (t.slot k.home k.slot).ends = h.ends ++ [k]) ∧
        (¬behind → (t.slot k.home k.slot).inflight = h.inflight - 1 ∧ (t.slot k.home k.slot).ends = h.ends)) := by
  have hexec : exec .taskEndApply s = runEvent (applyTaskEnd k) s := by
    change execTaskEndApply s = _
    unfold execTaskEndApply
    rw [hnow]
  refine ⟨fun h => happens_runEvent hexec (applyTaskEnd_stale h), fun hu hg => ?_⟩
  by_cases hb : EndWaits (s.slot k.home k.slot) k
  · refine ⟨_, happens_runEvent hexec (applyTaskEnd_kept hu hg hb), fun _ => rfl, rfl, fun _ => ?_, fun h => absurd hb h⟩
    rw [slot_withSlot]
    exact ⟨rfl, rfl⟩
  · obtain ⟨t, ht, hstrands, hmem, hkeep⟩ := applyTaskEnd_run hu hg hb
    exact ⟨t, happens_runEvent hexec ht, strand_of_strands hstrands, hmem, fun h => absurd h hb, fun _ => hkeep⟩

theorem dminReport_claims (s : State) (home slot die : Nat) (hnow : s.now = .dminReport home slot die) :
    let e := engineName s.pkg die
    let ks := s.countedKeys e (instName s.pkg home slot) (s.slot home slot).gen
    ∃ t, exec .dminReport s = .next t ∧ (∀ b, t.strand b = s.strand b) ∧ t.mem = s.mem ∧
      (ks ≠ [] → lookupD 0 (t.slot home slot).dmin e ∈ ks ∧ ∀ k ∈ ks, lookupD 0 (t.slot home slot).dmin e ≤ k) := by
  have hexec : exec .dminReport s = runEvent (reportMin home slot die) s := by
    change execDminReport s = _
    unfold execDminReport
    rw [hnow]
  obtain ⟨t, ht, hstrands, hmem, hmin⟩ := reportMin_run home slot die s
  refine ⟨t, happens_runEvent hexec ht, strand_of_strands hstrands, hmem, fun hne => ?_⟩
  rw [hmin]
  exact foldl_min_headD hne

theorem popCheck_exec {sid d i : Nat} (hnow : s.now = .popCheck sid) (hhome : s.popHome sid = some (d, i)) :
    exec .popCheck s = runEvent (popCheckAt d i sid) s := by
  change execPopCheck s = _
  unfold execPopCheck
  rw [hnow]
  dsimp only
  rw [hhome]

/-- Settles O31: a home's state changes by what it counts, and its pops are answered from what it has counted. -/
theorem worklistHome : Obligations.WorklistHome := by
  unfold Obligations.WorklistHome HomeEvents
  refine ⟨countApply_claims, taskEndApply_claims, dminReport_claims, fun s sid d i p hnow hhome hpops hsid =>
    ⟨fun hbroken hhold => ?_, fun hbroken hwait => ?_, fun hsv has hbusy hasked hbroken hcount hfly hhold hbest hlow hadm heng hown hprop => ?_⟩⟩
  · obtain ⟨t, ht, hkeep⟩ := popCheckAt_broken hpops hsid hhold hbroken
    exact ⟨t, happens_runEvent (popCheck_exec hnow hhome) ht, hkeep⟩
  · exact happens_runEvent (popCheck_exec hnow hhome) (popCheckAt_waits hpops hsid hbroken hwait)
  · obtain ⟨t, ht, hpops', hans⟩ := popCheckAt_quiescent hpops hsid hhold hsv has hbusy hasked hbroken hcount hfly hbest hlow hadm heng hprop
    exact ⟨t, happens_runEvent (popCheck_exec hnow hhome) ht, hpops', hans hown⟩

end Sys2Proof.Claims
end

section
/-! PROOF. O41: a merge that an error has stopped with the code of a syscall. -/

namespace Sys2Proof.Claims

open Sys2Proof.Machine

/-- A merge of which nothing is left to deliver, stopped with the code of a syscall. -/
def stoppedStream : Stream :=
  { capA := Reg.zero, capB := Reg.zero, n1 := 1, n2 := 1, i := 0, j := 0, headA := none, headB := none, pairs := [], nextA := 0, nextB := 0,
    stopped := some (cSyscall, 0) }

/-- A supervisor's strand with eight lanes, that merge, and a handler. -/
def stoppedStrand : Strand := { Strand.idle with
  live := true
  mode := .supervisor
  ir := [0]
  pcc := ⟨Cap.make Cap.kMemory 0 Cap.x 4096 0 4096 0, true⟩
  strap := { TrapRegs.zero with tvec := ⟨Cap.make Cap.kEntry 0 Cap.x 4096 0 4096 0, true⟩ }
  vec := { Strand.idle.vec with lanes := [0, 1, 2, 3, 4, 5, 6, 7], vlen := 8 }
  stream := some stoppedStream }

/-- A state in which that strand has its turn. -/
def stoppedState : State := { State.reset with strands := [(0, stoppedStrand)] }

/-- The address to return to that the supervisor's handler finds after an outcome. -/
def returnAfter : Host.Outcome State Fault Refusal → Reg
  | .next t => t.self.strap.epc
  | _ => Reg.zero

/-- The model returns behind the instruction, as behind a syscall. -/
theorem ixget_stoppedState : returnAfter (exec (.ixget ⟨0, 0, 1, 2, 0⟩) stoppedState) ≠ stoppedStrand.pcc := by decide +kernel

theorem ready_stoppedState : Ready stoppedState [wDst 0, vDst 1, vDst 2] := by
  unfold Ready Together
  decide +kernel

theorem canIssue_stoppedState : CanIssue stoppedState := by
  unfold CanIssue Free
  decide +kernel

/-- A supervisor's handler finds the address that it is entered with. -/
theorem returnAfter_of_enters {s t : State} {c : BitVec 8} {v : Word} {v2 : Option Word} {ret : Reg}
    (h : Enters s t .supervisor c v v2 ret) : returnAfter (.next t) = ret := by
  obtain ⟨-, -, -, -, ⟨ex, hstill⟩, -⟩ := h
  exact (congrArg (fun b : Strand => b.strap.epc) hstill :)

/-- Refutes O41: the statement admits a merge that has stopped with any code; with that of a syscall `ixget` raises it to return behind
itself. -/
theorem not_intersectionUnit : ¬ Obligations.IntersectionUnit := by
  rintro ⟨-, -, hget, -⟩
  obtain ⟨-, hissue⟩ := hget ⟨0, 0, 1, 2, 0⟩ stoppedState ready_stoppedState
  obtain ⟨-, -, hstop, -⟩ := hissue stoppedStream canIssue_stoppedState (by decide) (by decide +kernel)
  obtain ⟨t, ht, henters⟩ := hstop cSyscall 0 (by decide +kernel) rfl rfl .supervisor ⟨by decide +kernel, by decide +kernel⟩
  have hret := ixget_stoppedState
  rw [ht, returnAfter_of_enters henters] at hret
  exact hret (by decide +kernel)

end Sys2Proof.Claims
end

section
/-! PROOF. O44: a strand that monitors the line in another package which it stores to. -/

namespace Sys2Proof.Claims

open Sys2Proof.Machine

/-- A strand that monitors every line, and whose store to another package has been answered. -/
def monitoringStrand : Strand := { Strand.idle with
  live := true
  regs := [(1, ⟨Cap.make Cap.kMemory 0 Cap.st 4096 0 4 0, true⟩)]
  monitor := BitVec.allOnes 1024
  asked := [0]
  answers := [⟨0, .accepted, [0], false⟩] }

/-- A state in which that strand has its turn: its first page lies in package 1. -/
def monitoringState : State := { State.reset with
  strands := [(0, monitoringStrand)]
  tlb := [(tlbKey 12 0 2 0, ⟨BitVec.ofNat 64 (2 ^ 41 + 0x13F), 2⟩)] }

/-- Whether the strand whose turn it is has been woken, after an outcome. -/
def wokenAfter : Host.Outcome State Fault Refusal → Bool
  | .next t => t.self.wake
  | _ => false

/-- The answer's write wakes the strands that monitor its line. -/
theorem st_monitoringState : wokenAfter (exec (.st ⟨0, 0, 1, 0⟩ ⟨false, 0, 0, false, 0⟩) monitoringState) = true := by decide +kernel

theorem wokenAfter_of_leads {i : Instr} {s u : State} (h : Leads i s u) : wokenAfter (exec i s) = u.self.wake := by
  obtain ⟨t, ht, -, -, -, -, hstill, -⟩ := h
  rw [ht]
  exact (congrArg (fun v : Strand => v.wake) hstill :)

theorem issues_monitoringState : Issues monitoringState [0, 1] := by
  unfold Issues Ready Together
  decide +kernel

theorem maps_monitoringState : Maps monitoringState 0 0 Cap.st (2 ^ 41) (BitVec.ofNat 64 (2 ^ 41 + 0x13F)) :=
  ⟨⟨BitVec.ofNat 64 (2 ^ 41 + 0x13F), 2⟩, by unfold TlbHas; decide +kernel⟩

/-- Refutes O44: a store to another package that is answered wakes the strands that monitor the line, and the statement has it change
nothing. -/
theorem not_remotePaths : ¬ Obligations.RemotePaths := by
  rintro ⟨-, -, hother⟩
  obtain ⟨-, hasks⟩ := hother ⟨0, 0, 1, 0⟩ ⟨false, 0, 0, false, 0⟩ monitoringState false (2 ^ 41) (BitVec.ofNat 64 (2 ^ 41 + 0x13F))
    issues_monitoringState (by decide) rfl (by decide +kernel) maps_monitoringState (by decide +kernel) (by decide +kernel) rfl
  obtain ⟨-, -, hanswered⟩ := hasks (by decide +kernel)
  have hleads := hanswered 0 [0] false .accepted rfl rfl rfl (.inl rfl)
  rw [if_neg Bool.false_ne_true] at hleads
  have hwake := (wokenAfter_of_leads hleads).symm.trans st_monitoringState
  exact absurd hwake (by decide +kernel)

end Sys2Proof.Claims
end

section
/-! PROOF. O47: a destination that the micro-TLB of a quad and the TLB of its die place apart. -/

namespace Sys2Proof.Claims

open Sys2Proof.Machine

/-- The only contribution of a phase: one INT32. -/
def onePart : Contribution := { sid := 0, op := 0, ty := 0, n := 1, seg := 0, ctr := 1, bytes := [7, 0, 0, 0] }

/-- A capability to store in the first page. -/
def storeCap : Reg := ⟨Cap.make Cap.kMemory 0 Cap.st 4096 0 4 0, true⟩

/-- A phase that one strand of the package has contributed to, with its destination in the first page. -/
def onePhase : RedGroup := { RedGroup.fresh 0 with parts := [onePart], dests := [(0, storeCap)] }

/-- A state in which the phase's result is due: the first page is one page of memory for the die's TLB, and another one for the
micro-TLB of the strand's quad. -/
def apartState : State := { State.reset with
  now := .reductionResultDeliver 4 0 0 none
  strands := [(0, { Strand.idle with live := true, redOpen := [(groupBit 4 0, 1)] })]
  tlb := [(tlbKey 0 0 2 0, ⟨0x13F, 2⟩), (tlbKey 12 0 2 0, ⟨0x1000013F, 2⟩)]
  units := { PackageState.reset with reductions := [(redKey 0 4 0, onePhase)] } }

/-- The first byte of memory after an outcome. -/
def firstByteAfter : Host.Outcome State Fault Refusal → Byte
  | .next t => t.byteAt 0
  | _ => 0

theorem firstByteAfter_apartState : firstByteAfter (exec .reductionResultDeliver apartState) = 0 := by decide +kernel

theorem reaches_apartState : Reaches apartState (dieOf 0) storeCap Cap.st 4 0 := by
  refine ⟨by decide +kernel, by decide +kernel, leafAddr ⟨0x13F, 2⟩ 0, 0x13F, ⟨⟨0x13F, 2⟩, ?_, ?_, rfl, ?_, ?_, fun _ => ?_⟩, ?_, ?_, ?_⟩
  all_goals decide +kernel

/-- Refutes O47: a result is written where the micro-TLB of the contributor's quad places its destination; the statement has it where the
TLB of the die does, which the micro-TLB hides. -/
theorem not_networkReductions : ¬ Obligations.NetworkReductions := by
  rintro ⟨-, -, -, -, hdeliver⟩
  obtain ⟨-, hresult⟩ := hdeliver apartState 0 0 0 (by decide) rfl
  have hpartials : NoPartials apartState := fun n => by
    show lookupD [] ([] : SMap (List Nat)) n = []
    rfl
  obtain ⟨t, ht, hbytes, -⟩ := hresult 0 storeCap 0 rfl (by decide +kernel) (by decide +kernel) (by decide +kernel) (by decide +kernel)
    (by decide +kernel) (by decide +kernel) hpartials onePart (by decide +kernel) (by decide +kernel) reaches_apartState (by decide +kernel)
  have hbyte := firstByteAfter_apartState
  rw [ht] at hbyte
  have hseven := (hbytes 0 (by decide)).symm.trans hbyte
  exact absurd hseven (by decide +kernel)

end Sys2Proof.Claims
end

section
/-! PROOF. O43: regions of one line record their components and commit in one act (R285 to R289). -/

namespace Sys2Proof.Claims

open Sys2Proof.Machine

/-! ## Opening a region -/

/-- Places that no region can be opened at. -/
def barredPlace (a : Nat) : Bool :=
  match place a with
  | .slice .. => true
  | .window .. => true
  | .port _ => true
  | .aliasWindow _ => true
  | _ => false

/-- The region that `lra` opens. -/
def openedRegion (s : State) (o : OpRX) (p : Nat) (e : Word) : Region :=
  { state := .opened, known := true, result := s.self.physOf o.a.toNat, line := Cap.cursor (at2 s o).val / 128 * 128,
    pa := p / 128 * 128, tenant := Cap.tenant (at2 s o).val, mirrored := pteM e, comps := [] }

def shutCheck : M Unit := do
  let t ← self
  illIf (t.region.state = .opened)

/-- The operation of `lra` once its address is known. -/
def openRegion (a : RegNo) (c : Reg) : M Unit := do
  let (p, e) ← checkAccess c Cap.atm [Cap.kMemory] 1
  let va := Cap.cursor c.val
  match place (localOf p) with
  | .slice .. => raise cPerm va
  | .window .. => raise cPerm va
  | .port _ => raise cPerm va
  | .aliasWindow _ => raise cPerm va
  | _ => pure ()
  modSelf fun t => { t with region :=
    { state := .opened, known := true, result := t.physOf a.toNat, line := va / 128 * 128, pa := p / 128 * 128,
      tenant := Cap.tenant c.val, mirrored := pteM e, comps := [] } }

theorem exec_lra (o : OpRX) (m : MemMod) (s : State) : exec (.lra o m) s =
    runPriv ⟨o.st, 0, .access, [wDst o.a, wSrc o.b]⟩ shutCheck (addressRX 0 o >>= openRegion o.a) s := rfl

theorem clear_ab {o : OpRX} {s : State} (h : Issues s [o.a, o.b]) {u v : RegUse} (hu : u.file = 0 ∧ u.num = o.a.toNat)
    (hv : v.file = 0 ∧ v.num = o.b.toNat) : s.self.Clear [u, v] := by
  refine h.clear fun r hr => ?_
  obtain rfl | rfl := List.mem_pair.mp hr
  · exact ⟨⟨0, o.a.toNat, true, true⟩, by simp, hu.1.symm, hu.2.symm⟩
  · exact ⟨⟨0, o.b.toNat, true, true⟩, by simp, hv.1.symm, hv.2.symm⟩

/-- A cause behind the prologue, after a privilege check that passes. -/
theorem traps_of_runPriv {i : Instr} {s : State} {d : Desc} {priv body : M Unit} {c : BitVec 8} {w : Nat}
    (hx : exec i s = runPriv d priv body s) (hl : d.steer ≠ .lanes) (hp : priv s = .ok () s) (hc : s.self.Clear d.regs)
    (hb : body (s.withSelf (s.self.begun d)) = .error (.trap c (BitVec.ofNat 64 w) none) (s.withSelf (s.self.begun d))) (hne : c ≠ cSyscall) :
    Traps i s c w :=
  traps_behind_prologue (body := do body; pure .next) hx hl hp hc (M.bind_error hb) hne

theorem shutCheck_run {s : State} (h : s.self.region.state ≠ .opened) : shutCheck s = .ok () s :=
  (M.bind_ok (self_run s)).trans (illIf_of_not (by simpa using h) s)

theorem checkAccess_begun {s : State} {d : Desc} {c : Reg} {perm : BitVec 12} {n p : Nat} {e : Word}
    (hf : checkFault s c perm [Cap.kMemory] n = none) (hm : Maps s (Cap.tenant c.val) (Cap.cursor c.val) perm p e) :
    checkAccess c perm [Cap.kMemory] n (s.withSelf (s.self.begun d)) = .ok (p, e) (s.withSelf (s.self.begun d)) :=
  checkAccess_run (s := s) (v := s.withSelf (s.self.begun d)) (by rw [State.self_withSelf]; rfl) rfl rfl hf hm

theorem openRegion_barred {a : RegNo} {c : Reg} {u : State} {p : Nat} {e : Word}
    (hacc : checkAccess c Cap.atm [Cap.kMemory] 1 u = .ok (p, e) u) (h : barredPlace (localOf p) = true) :
    openRegion a c u = .error (.trap cPerm (BitVec.ofNat 64 (Cap.cursor c.val)) none) u := by
  refine (M.bind_ok hacc).trans ?_
  unfold barredPlace at h
  dsimp only
  cases hp : place (localOf p) <;> rw [hp] at h
  case slice => rfl
  case window => rfl
  case port => rfl
  case aliasWindow => rfl
  all_goals exact absurd h (by simp)

theorem openRegion_run {o : OpRX} {s u : State} {p : Nat} {e : Word}
    (hacc : checkAccess (at2 s o) Cap.atm [Cap.kMemory] 1 u = .ok (p, e) u) (h : barredPlace (localOf p) = false)
    (hwin : u.self.win = s.self.win) :
    openRegion o.a (at2 s o) u = .ok () (u.withSelf { u.self with region := openedRegion s o p e }) := by
  have hphys : u.self.physOf o.a.toNat = s.self.physOf o.a.toNat := by unfold Strand.physOf; rw [hwin]
  have hend : modSelf (fun t => { t with region :=
      { state := .opened, known := true, result := t.physOf o.a.toNat, line := Cap.cursor (at2 s o).val / 128 * 128, pa := p / 128 * 128,
        tenant := Cap.tenant (at2 s o).val, mirrored := pteM e, comps := [] } }) u =
      .ok () (u.withSelf { u.self with region := openedRegion s o p e }) := by
    rw [modSelf_run, hphys]; rfl
  refine (M.bind_ok hacc).trans ?_
  unfold barredPlace at h
  dsimp only
  cases hp : place (localOf p) <;> rw [hp] at h
  case dram => exact hend
  case dieSpad => exact hend
  case coreSpad => exact hend
  case reserved => exact hend
  all_goals exact absurd h (by simp)

section
variable {o : OpRX} {m : MemMod} {s : State} (h : Issues s [o.a, o.b])
include h

theorem lra_opened (hopen : s.self.region.state = .opened) : Traps (.lra o m) s cIll s.self.illValue := by
  refine traps_of_priv (exec_lra o m s) ?_ h.1 (by decide)
  exact (M.bind_ok (self_run s)).trans (illIf_of (by simpa using hopen) s)

variable {p : Nat} {e : Word} (hshut : s.self.region.state ≠ .opened) (hf : checkFault s (at2 s o) Cap.atm [Cap.kMemory] 1 = none)
variable (hm : Maps s (Cap.tenant (at2 s o).val) (Cap.cursor (at2 s o).val) Cap.atm p e)
include hshut hf hm

theorem lra_barred (hbar : barredPlace (localOf p) = true) : Traps (.lra o m) s cPerm (Cap.cursor (at2 s o).val) :=
  traps_of_runPriv (exec_lra o m s) Steer.noConfusion (shutCheck_run hshut) (clear_ab h ⟨rfl, rfl⟩ ⟨rfl, rfl⟩)
    ((M.bind_ok (addressRX_run h (.of_begun s _) 0)).trans (openRegion_barred (checkAccess_begun hf hm) hbar)) (by decide)

theorem lra_leads (hbar : barredPlace (localOf p) = false) :
    Leads (.lra o m) s (s.withSelf { s.self with region := openedRegion s o p e }) := by
  have hrun := (M.bind_ok (addressRX_run h (.of_begun s ⟨o.st, 0, .access, [wDst o.a, wSrc o.b]⟩) 0)).trans
    (openRegion_run (checkAccess_begun hf hm) hbar (SameReads.of_begun s _).win)
  exact leads_of_runPriv (exec_lra o m s) Steer.noConfusion (shutCheck_run hshut) (clear_ab h ⟨rfl, rfl⟩ ⟨rfl, rfl⟩) hrun
    ((OnlySelf.begun s _).withSelf _) (by rw [State.self_withSelf]; rfl) (by rw [State.self_withSelf]; rfl)
    (by rw [State.self_withSelf]; rfl) (by rw [State.self_withSelf]; rfl) rfl rfl

end

/-! ## Components -/

def roomCheck : M Unit := do
  let t ← self
  illIf (t.region.state = .none || (t.region.state = .opened && t.region.comps.length ≥ 8))

theorem region_begun (t : Strand) (d : Desc) : (t.begun d).region = t.region := rfl

/-- The operation of a component once its address is known. -/
def recordComponent (c : Reg) (k : Nat) (perm : BitVec 12) (make : Nat → Nat → M Component) : M Unit := do
  let _ ← checkAccess c perm [Cap.kMemory] k
  let va := Cap.cursor c.val
  let t ← self
  raiseIf (t.region.known && va / 128 * 128 ≠ t.region.line) cAlign va
  if t.region.state = .opened then do
    let comp ← make (t.region.pa + va % 128) k
    modSelf fun t => { t with region := { t.region with comps := t.region.comps ++ [comp] } }
  else pure ()

theorem component_eq (o : OpRX) (m : MemMod) (regs : List RegUse) (perm : BitVec 12) (make : Nat → Nat → M Component) (s : State) :
    component o m regs perm make s = runPriv ⟨o.st, 0, .access, regs⟩ roomCheck
      (addressRX 1 o >>= fun c => recordComponent c (widthBytes m.width) perm make) s := rfl

section
variable {o : OpRX} {m : MemMod} {s : State} {ins : Instr} {regs : List RegUse} {perm : BitVec 12} {make : Nat → Nat → M Component}
variable {comp : Nat → Component} (h : Issues s [o.a, o.b]) (hx : exec ins s = component o m regs perm make s)
variable (hregs : s.self.Clear regs)
variable (hmake : ∀ p (u : State), SameReads u.self s.self → make p (2 ^ m.width.toNat) u = .ok (comp p) u)
include h hx

theorem component_ill (hno : s.self.region.state = .none ∨ (s.self.region.state = .opened ∧ 8 ≤ s.self.region.comps.length)) :
    Traps ins s cIll s.self.illValue := by
  refine traps_of_priv (hx.trans (component_eq ..)) ?_ h.1 (by decide)
  exact (M.bind_ok (self_run s)).trans (illIf_of (by simpa using hno) s)

variable {p : Nat} {e : Word} (hsome : s.self.region.state ≠ .none)
variable (hroom : s.self.region.state = .opened → s.self.region.comps.length < 8)
variable (hf : checkFault s (at2 s o) perm [Cap.kMemory] (2 ^ m.width.toNat) = none)
variable (hm : Maps s (Cap.tenant (at2 s o).val) (Cap.cursor (at2 s o).val) perm p e) (hknown : s.self.region.known = true)
include hregs hsome hroom hf hm hknown

omit h hx hregs hf hm hknown in
theorem roomCheck_run : roomCheck s = .ok () s :=
  (M.bind_ok (self_run s)).trans (illIf_of_not (by simpa [hsome] using hroom) s)

theorem component_align (hline : Cap.cursor (at2 s o).val / 128 * 128 ≠ s.self.region.line) :
    Traps ins s cAlign (Cap.cursor (at2 s o).val) := by
  refine traps_of_runPriv (hx.trans (component_eq ..)) Steer.noConfusion (roomCheck_run hsome hroom) hregs ?_ (by decide)
  rw [M.bind_ok (addressRX_run h (.of_begun s _) 1)]
  refine (M.bind_ok (checkAccess_begun hf hm)).trans ((M.bind_ok (self_run _)).trans (M.bind_error (raiseIf_of ?_ ..)))
  rw [State.self_withSelf]
  simp only [region_begun, hknown, Bool.true_and]
  exact decide_eq_true hline

variable (hline : Cap.cursor (at2 s o).val / 128 * 128 = s.self.region.line)
include hline

/-- A component that passes its checks comes to the record. -/
theorem component_checked (d : Desc) : (addressRX 1 o >>= fun c => recordComponent c (widthBytes m.width) perm make) (s.withSelf (s.self.begun d)) =
    (if s.self.region.state = RegionState.opened then do
      let comp ← make (s.self.region.pa + Cap.cursor (at2 s o).val % 128) (2 ^ m.width.toNat)
      modSelf fun t => { t with region := { t.region with comps := t.region.comps ++ [comp] } }
    else pure ()) (s.withSelf (s.self.begun d)) := by
  rw [M.bind_ok (addressRX_run h (.of_begun s _) 1)]
  refine (M.bind_ok (checkAccess_begun hf hm)).trans ((M.bind_ok (self_run _)).trans ?_)
  rw [State.self_withSelf, region_begun]
  exact M.bind_ok (raiseIf_of_not (by simp [hline]) ..)

theorem component_lost (hlost : s.self.region.state = .lost) : Leads ins s s := by
  have hrun := component_checked h hx hregs hsome hroom hf hm hknown hline ⟨o.st, 0, .access, regs⟩
  rw [if_neg (by simp [hlost])] at hrun
  refine leads_of_runWith (hx.trans (component_eq ..)) Steer.noConfusion (roomCheck_run hsome hroom) hregs (M.bind_ok hrun) (SameAs.begun s _)
    ?_ ?_ ?_ ?_ <;> rw [State.self_withSelf]
  · exact h.1.1
  · rfl
  · rfl
  · rfl

include hmake in
theorem component_leads (hopen : s.self.region.state = .opened) : Leads ins s (s.withSelf { s.self with
    region := { s.self.region with comps := s.self.region.comps ++ [comp (s.self.region.pa + Cap.cursor (at2 s o).val % 128)] } }) := by
  have hrun := component_checked h hx hregs hsome hroom hf hm hknown hline ⟨o.st, 0, .access, regs⟩
  rw [if_pos hopen, M.bind_ok (hmake _ _ (.of_begun s _))] at hrun
  exact leads_of_runPriv (hx.trans (component_eq ..)) Steer.noConfusion (roomCheck_run hsome hroom) hregs hrun
    ((OnlySelf.begun s _).withSelf _) (by rw [State.self_withSelf]; rfl) (by rw [State.self_withSelf]; rfl)
    (by rw [State.self_withSelf]; rfl) (by rw [State.self_withSelf]; rfl) rfl rfl

end

/-- What the three components record of their operands. -/
def makeLoad (o : OpRX) (m : MemMod) (p k : Nat) : M Component := do
  let t ← self
  pure (.load p k m.sx (t.physOf o.a.toNat))

def makeStore (o : OpRX) (p k : Nat) : M Component := do
  let x ← readX 0 o.a
  pure (.store p (leBytes k x.toNat))

def makeGuard (o : OpRX) (p k : Nat) : M Component := do
  let x ← readX 0 o.a
  pure (.guard p (leBytes k x.toNat))

theorem exec_lrl (o : OpRX) (m : MemMod) (s : State) :
    exec (.lrl o m) s = component o m [wDst o.a, wSrc o.b] (Cap.ld ||| Cap.atm) (makeLoad o m) s := rfl

theorem exec_lrs (o : OpRX) (m : MemMod) (s : State) :
    exec (.lrs o m) s = component o m [wSrc o.a, wSrc o.b] (Cap.st ||| Cap.atm) (makeStore o) s := rfl

theorem exec_lrg (o : OpRX) (m : MemMod) (s : State) :
    exec (.lrg o m) s = component o m [wSrc o.a, wSrc o.b] (Cap.ld ||| Cap.atm) (makeGuard o) s := rfl

/-- Each of the three is a component that records what it is to record. -/
theorem component_of {o : OpRX} {m : MemMod} {s : State} {ins : Instr} {perm : BitVec 12} {comp : Nat → Component} (h : Issues s [o.a, o.b])
    (hins : (ins = .lrl o m ∧ perm = (Cap.ld ||| Cap.atm) ∧ comp = (fun p => .load p (2 ^ m.width.toNat) m.sx (s.self.physOf o.a.toNat))) ∨
      (ins = .lrs o m ∧ perm = (Cap.st ||| Cap.atm) ∧ comp = fun p => .store p (leBytes (2 ^ m.width.toNat) (x s o.a).toNat)) ∨
      (ins = .lrg o m ∧ perm = (Cap.ld ||| Cap.atm) ∧ comp = fun p => .guard p (leBytes (2 ^ m.width.toNat) (x s o.a).toNat))) :
    ∃ regs make, exec ins s = component o m regs perm make s ∧ s.self.Clear regs ∧
      ∀ p (u : State), SameReads u.self s.self → make p (2 ^ m.width.toNat) u = .ok (comp p) u := by
  obtain ⟨rfl, rfl, rfl⟩ | ⟨rfl, rfl, rfl⟩ | ⟨rfl, rfl, rfl⟩ := hins
  · refine ⟨_, _, exec_lrl o m s, clear_ab h ⟨rfl, rfl⟩ ⟨rfl, rfl⟩, fun p u hu => (M.bind_ok (self_run u)).trans ?_⟩
    rw [hu.physOf]; rfl
  · exact ⟨_, _, exec_lrs o m s, clear_ab h ⟨rfl, rfl⟩ ⟨rfl, rfl⟩, fun p u hu => M.bind_ok (h.readX_same hu 0 (by simp))⟩
  · exact ⟨_, _, exec_lrg o m s, clear_ab h ⟨rfl, rfl⟩ ⟨rfl, rfl⟩, fun p u hu => M.bind_ok (h.readX_same hu 0 (by simp))⟩

theorem regionsRecord : RegionsRecord := by
  refine ⟨fun o m s h => ⟨lra_opened h, fun p e hshut hf hm => ⟨lra_barred h hshut hf hm, lra_leads h hshut hf hm⟩⟩, ?_⟩
  intro o m s ins perm comp h hwidth k bytes hins c va r
  obtain ⟨regs, make, hx, hregs, hmake⟩ := component_of h hins
  exact ⟨component_ill h hx, fun p e hsome hroom hf hm => ⟨fun hk => component_align h hx hregs hsome hroom hf hm hk,
    fun hk hl => component_lost h hx hregs hsome hroom hf hm hk hl,
    fun hk hl => component_leads h hx hregs hmake hsome hroom hf hm hk hl⟩⟩

/-! ## The line of a region at its home -/

/-- Where an address above the DRAM lies at a home that takes the current strand's operations: the die's scratchpad, the core's own, or a
slice. -/
def HomeWindow (s : State) (a : Nat) : Prop :=
  let o := (a - dieWindows) % 0x40000000
  a < dieWindows + 8 * 0x40000000 ∧ (o < 0x3000000 ∨
    (0x8000000 ≤ o ∧ o < 0x10000000 ∧ (a - dieWindows) / 0x40000000 * 512 + (o - 0x8000000) / 0x40000 = coreOf s.cur) ∨
    (0x18000000 ≤ o ∧ o < 0x20000000))

theorem atHome_iff (s : State) (a : Nat) : AtHome s a ↔ a < dieWindows ∨ (dieWindows ≤ a ∧ HomeWindow s a) := by
  unfold AtHome cacheable DirectOwn HomeWindow inQuadWindow
  have hplace : place a = place a := rfl
  conv_rhs at hplace => unfold place
  generalize dieWindows + 8 * 0x40000000 = top at *
  by_cases hd : a < dieWindows
  · rw [if_pos hd] at hplace
    simp [hplace, hd]
  have hd' := Nat.le_of_not_lt hd
  dsimp only
  by_cases hw : a < top
  swap
  · have hport : place a = .reserved ∨ (∃ o, place a = .port o) ∨ ∃ o, place a = .aliasWindow o := by
      rw [hplace, if_neg hd, if_neg hw]
      split_ifs
      · exact .inr (.inl ⟨_, rfl⟩)
      · exact .inr (.inr ⟨_, rfl⟩)
      · exact .inl rfl
    obtain hp | ⟨o, hp⟩ | ⟨o, hp⟩ := hport <;> simp [hp, hd, hw]
  rw [if_neg hd, if_pos hw] at hplace
  dsimp only at hplace
  generalize (a - dieWindows) / 0x40000000 = d at *
  generalize (a - dieWindows) % 0x40000000 = o at *
  generalize coreOf s.cur = c at *
  simp only [hd, hw, hd', decide_true, Bool.true_and, false_or, true_and]
  split_ifs at hplace with h1 h2 h3 h4 h5 h6 <;> rw [hplace]
  · simp [h1]
  · simp [h1]; omega
  · simp [h1]; omega
  · simp [h1]; omega
  · simp [h1]; omega
  · simp [h1]; omega
  · simp [h1]; omega

/-- A line lies at one kind of place. -/
theorem atHome_line {s : State} {a b : Nat} (h : AtHome s a) (ha : a % 128 = 0) (hab : a ≤ b ∧ b < a + 128) : AtHome s b := by
  rw [atHome_iff] at h ⊢
  obtain h | ⟨hwin, htop, h⟩ := h
  · exact .inl (by unfold dieWindows at *; omega)
  · refine .inr ⟨by omega, by unfold dieWindows at *; omega, ?_⟩
    have hoff : (b - dieWindows) % 0x40000000 = (a - dieWindows) % 0x40000000 + (b - a) := by unfold dieWindows at *; omega
    have hdie : (b - dieWindows) / 0x40000000 = (a - dieWindows) / 0x40000000 := by unfold dieWindows at *; omega
    have hmod : (a - dieWindows) % 0x40000000 % 128 = 0 := by unfold dieWindows at *; omega
    rw [hoff, hdie]
    generalize (a - dieWindows) % 0x40000000 = o at *
    omega

theorem lineParts_line {a : Nat} (ha : a % 128 = 0) : lineParts a 128 = [(a, 128)] := by
  unfold lineParts
  rw [show (a % 128 + 128 + 127) / 128 = 1 by omega]
  simp only [List.range_one, List.map_cons, List.map_nil]
  congr 2 <;> omega

theorem enterHome_line {v : State} {a : Nat} (ha : a % 128 = 0) (va : Nat)
    (hbad : (v.leaveLine (coreOf v.cur) (a / 128)).firstBad a 128 = none) :
    enterHome va a 128 v = .ok () (v.leaveLine (coreOf v.cur) (a / 128)) := by
  refine (M.bind_ok (M.modify_run ..)).trans ?_
  rw [lineParts_line ha]
  unfold checkSectors
  simp only [List.foldl_cons, List.foldl_nil, hbad]

theorem noPartials_homePut {s : State} (h : NoPartials s) (a : Nat) (bs : List Byte) : NoPartials (s.homePut a bs) := fun n => by
  unfold State.holders
  rw [cores_homePut]
  exact h n

/-- One store of a region. -/
def storeStep (p : Nat × List Byte) (_ : PUnit) : M (ForInStep PUnit) := do
  homeStore p.1 p.2
  pure (.yield ⟨⟩)

/-- The stores of a region that stay in its line. -/
theorem storesIn_run {s : State} {ps : List (Nat × List Byte)} (hps : ∀ p ∈ ps, AtHome s p.1) {v : State} (hv : NoPartials v)
    (hcur : v.cur = s.cur) :
    forIn ps PUnit.unit storeStep v = .ok ⟨⟩ (ps.foldl (fun v p => v.homePut p.1 p.2) v) := by
  induction ps generalizing v with
  | nil => rfl
  | cons p ps ih =>
    have hhere := homeStore_run hv hcur (hps p List.mem_cons_self) p.2
    have hstep : storeStep p ⟨⟩ v = .ok (.yield ⟨⟩) (v.homePut p.1 p.2) := M.bind_ok hhere
    rw [List.forIn_cons]
    refine (M.bind_ok hstep).trans ?_
    exact ih (fun q hq => hps q (List.mem_cons_of_mem _ hq)) (noPartials_homePut hv p.1 p.2) (((keeps2_homePut p.1 p.2).fixed v).cur.trans hcur)

/-! ## Committing -/

/-- The mask of the guards of a region that fail in a state. -/
def failedGuards (s : State) (gs : List (Nat × List Byte)) : Nat :=
  (gs.zipIdx.map fun g => if s.bytesAt g.1.1 g.1.2.length = g.1.2 then 0 else 2 ^ g.2).sum

/-- A region performed in a state. -/
def performed (s : State) (r : Region) : State :=
  if failedGuards s (regionGuards r.comps) = 0 then (regionStores r.comps).foldl (fun v c => v.homePut c.1 c.2) s else s

/-- What the loads of a region find in a state. -/
def loadedValues (s : State) (r : Region) : List Nat := (regionLoads r.comps).map fun l => leNat (s.bytesAt l.1 l.2.1)

theorem performRegion_run {s v : State} {r : Region} (hps : ∀ p ∈ regionStores r.comps, AtHome s p.1) (hv : NoPartials v) (hcur : v.cur = s.cur) :
    performRegion ((regionLoads r.comps).map fun l => (l.1, l.2.1)) (regionGuards r.comps) (regionStores r.comps) homeStore v =
      .ok (failedGuards v (regionGuards r.comps), loadedValues v r) (performed v r) := by
  refine (M.bind_ok (M.get_run v)).trans ?_
  have hvals : ((regionLoads r.comps).map fun l => (l.1, l.2.1)).map (fun l => leNat (v.bytesAt l.1 l.2)) = loadedValues v r := by
    rw [List.map_map]; rfl
  dsimp only
  rw [hvals]
  unfold performed failedGuards
  split
  · exact M.bind_ok (storesIn_run hps hv hcur)
  · rfl

theorem commitRegion_run {s v : State} {r : Region} (hne : r.comps ≠ []) (hpkg : pkgOf r.pa = s.pkg) (ha : localOf r.pa % 128 = 0)
    (hat : AtHome s (localOf r.pa)) (hvpkg : v.pkg = s.pkg) (hcur : v.cur = s.cur)
    (hpart : NoPartials (v.leaveLine (coreOf s.cur) (localOf r.pa / 128)))
    (hbad : (v.leaveLine (coreOf s.cur) (localOf r.pa / 128)).firstBad (localOf r.pa) 128 = none)
    (hin : ∀ c ∈ regionStores r.comps, localOf r.pa ≤ c.1 ∧ c.1 < localOf r.pa + 128) :
    let u := v.leaveLine (coreOf s.cur) (localOf r.pa / 128)
    commitRegion r v = .ok (failedGuards u (regionGuards r.comps), loadedValues u r) (performed u r) := by
  intro u
  have henter : enterHome r.line (localOf r.pa) 128 v = .ok () u := by
    have := enterHome_line (v := v) ha r.line (by rw [hcur]; exact hbad)
    rwa [hcur] at this
  have hucur : u.cur = s.cur := ((keeps2_leaveLine ..).fixed v).cur.trans hcur
  refine (M.bind_ok (M.get_run v)).trans ?_
  rw [if_neg (by simpa using hne), if_neg (by rw [hpkg, hvpkg]; simp), M.bind_ok henter, M.bind_ok (homeRead_run hpart ..)]
  exact performRegion_run (fun c hc => atHome_line hat ha (hin c hc)) hpart hucur

/-! ## Loads to their registers -/

/-- The loads of a region written to their registers with what a state holds. -/
def loadedFrom (s : State) (ls : List (Nat × Nat × Bool × Nat)) (t : Strand) : Strand :=
  ls.foldl (fun t l => t.putPhys l.2.2.2 (Reg.ofWord (got l.2.1 l.2.2.1 (s.bytesAt l.1 l.2.1)))) t

theorem putLoads_eq (s : State) (ls : List (Nat × Nat × Bool × Nat)) (t : Strand) :
    t.putLoads ls (ls.map fun l => leNat (s.bytesAt l.1 l.2.1)) = loadedFrom s ls t := by
  induction ls generalizing t with
  | nil => rfl
  | cons l ls ih =>
    obtain ⟨a, k, sx, d⟩ := l
    rw [List.map_cons, Strand.putLoads, extendTo64_eq sx (bytesAt_lt s a k)]
    exact ih _

/-- A strand changed in registers alone. -/
structure RegsOnly (t u : Strand) : Prop where
  still : u.still = t.still
  instret : u.instret = t.instret
  pcc : u.pcc = t.pcc
  live : u.live = t.live
  monitor : u.monitor = t.monitor

theorem loadedFrom_keeps (s : State) (ls : List (Nat × Nat × Bool × Nat)) (t : Strand) : RegsOnly t (loadedFrom s ls t) := by
  induction ls generalizing t with
  | nil => exact ⟨rfl, rfl, rfl, rfl, rfl⟩
  | cons l ls ih =>
    obtain ⟨h1, h2, h3, h4, h5⟩ := ih (t.putPhys l.2.2.2 (Reg.ofWord (got l.2.1 l.2.2.1 (s.bytesAt l.1 l.2.1))))
    exact ⟨h1, h2, h3, h4, h5⟩

theorem loadedFrom_regs (s : State) (ls : List (Nat × Nat × Bool × Nat)) {t r : Strand} (h : r.regs = t.regs) :
    (loadedFrom s ls r).regs = (loadedFrom s ls t).regs := by
  induction ls generalizing t r with
  | nil => exact h
  | cons l ls ih =>
    refine ih ?_
    simp only [Strand.putPhys, h]

theorem putPhys_wokenIf (t : Strand) (w : Bool) (p : Nat) (x : Reg) : (wokenIf t w).putPhys p x = wokenIf (t.putPhys p x) w := rfl

theorem loadedFrom_wokenIf (s : State) (ls : List (Nat × Nat × Bool × Nat)) (t : Strand) (w : Bool) :
    loadedFrom s ls (wokenIf t w) = wokenIf (loadedFrom s ls t) w := by
  induction ls generalizing t with
  | nil => rfl
  | cons l ls ih =>
    have hstep (q : Strand) : loadedFrom s (l :: ls) q =
      loadedFrom s ls (q.putPhys l.2.2.2 (Reg.ofWord (got l.2.1 l.2.2.1 (s.bytesAt l.1 l.2.1)))) := rfl
    rw [hstep, hstep, putPhys_wokenIf, ih]

/-- A strand whose region has committed with a result. -/
def closedRegion (r : Region) (t : Strand) (v : Word) : Strand := { t.putPhys r.result (Reg.ofWord v) with region := Region.none }

/-- The strand behind a commit. -/
def committedTo (s : State) (r : Region) (v : Word) (t : Strand) : Strand := closedRegion r (loadedFrom s (regionLoads r.comps) t) v

theorem committedTo_still (s : State) (r : Region) (v : Word) {t q : Strand} (h : q.still = t.still) :
    (committedTo s r v q).still = (committedTo s r v t).still := by
  have hclosed (p : Strand) : (committedTo s r v p).still = { (loadedFrom s (regionLoads r.comps) p).still with region := Region.none } := rfl
  rw [hclosed, hclosed, (loadedFrom_keeps ..).still, (loadedFrom_keeps ..).still, h]

theorem committedTo_regs (s : State) (r : Region) (v : Word) {t q : Strand} (h : q.regs = t.regs) :
    (committedTo s r v q).regs = (committedTo s r v t).regs := by
  unfold committedTo closedRegion Strand.putPhys
  dsimp only
  rw [loadedFrom_regs _ _ h]

theorem committedTo_wokenIf (s : State) (r : Region) (v : Word) (t : Strand) (w : Bool) :
    committedTo s r v (wokenIf t w) = wokenIf (committedTo s r v t) w := by
  unfold committedTo
  rw [loadedFrom_wokenIf]
  rfl


theorem keeps2_performed (r : Region) : Keeps2 fun s => performed s r := by
  refine keeps2_of (f := fun n s => if n = 0 then (regionStores r.comps).foldl (fun v c => v.homePut c.1 c.2) s else s)
    (fun s => failedGuards s (regionGuards r.comps)) (fun _ _ => rfl) fun n => keeps2_ite _ ?_ keeps2_id
  exact keeps2_foldl (f := fun v (c : Nat × List Byte) => v.homePut c.1 c.2) (fun c => keeps2_homePut c.1 c.2) _

/-! ## `lrc` -/

/-- A strand whose lost region has ended, with its result in a register. -/
def lostTo (p : Nat) (t : Strand) : Strand := { t.putPhys p (Reg.ofWord 0x4000000000000000) with region := Region.none }

def openCheck : M Unit := do
  let t ← self
  illIf (t.region.state = .none)

/-- What a lost region comes to. -/
def closeLost (r : Region) : M Unit := do
  let i ← if r.known then pure r.result else lostRegister
  modSelf fun t => { t.putPhys i (Reg.ofWord 0x4000000000000000) with region := Region.none }

/-- What an open region comes to. -/
def closeOpen (r : Region) (m : MemMod) : M Unit := do
  raiseIf r.mirrored cPerm r.line
  ordRelease m.ord.toNat m.scope.toNat
  let (f, vs) ← commitRegion r
  ordAcquire m.ord.toNat m.scope.toNat
  let result := (if f = 0 then 2 ^ 63 else 0) + f
  modSelf fun t => { (t.putLoads (regionLoads r.comps) vs).putPhys r.result (Reg.ofWord (BitVec.ofNat 64 result)) with
    region := Region.none }

def closeBody (m : MemMod) : M Unit := do
  let t ← self
  let r := t.region
  if r.state = .lost then closeLost r else closeOpen r m

theorem exec_lrc (o : OpN) (m : MemMod) (s : State) : exec (.lrc o m) s = runPriv ⟨o.st, 0, .access, []⟩ openCheck (closeBody m) s := rfl

section
variable {o : OpN} {m : MemMod} {s : State} (h : Together s)
include h

theorem lrc_none (hno : s.self.region.state = .none) : Traps (.lrc o m) s cIll s.self.illValue := by
  refine traps_of_priv (exec_lrc o m s) ?_ h (by decide)
  exact (M.bind_ok (self_run s)).trans (illIf_of (by simpa using hno) s)

omit h in
theorem openCheck_run (hsome : s.self.region.state ≠ .none) : openCheck s = .ok () s :=
  (M.bind_ok (self_run s)).trans (illIf_of_not (by simpa using hsome) s)

omit h in
theorem closeBody_begun (d : Desc) : closeBody m (s.withSelf (s.self.begun d)) =
    (if s.self.region.state = RegionState.lost then closeLost s.self.region else closeOpen s.self.region m) (s.withSelf (s.self.begun d)) := by
  refine (M.bind_ok (self_run _)).trans ?_
  rw [State.self_withSelf, region_begun]

theorem lrc_lost (hlost : s.self.region.state = .lost) {s' u : State} {p : Nat}
    (hp : closeLost s.self.region (s.withSelf (s.self.begun ⟨o.st, 0, .access, []⟩)) = .ok () u)
    (hu : OnlySelf s' (lostTo p (s.self.begun ⟨o.st, 0, .access, []⟩)) u) : Leads (.lrc o m) s (s'.withSelf (lostTo p s.self)) := by
  have hrun := closeBody_begun (s := s) (m := m) ⟨o.st, 0, .access, []⟩
  rw [if_pos hlost] at hrun
  exact leads_of_runPriv (t := lostTo p s.self) (r := lostTo p (s.self.begun ⟨o.st, 0, .access, []⟩)) (exec_lrc o m s) Steer.noConfusion
    (openCheck_run (by rw [hlost]; decide)) h.clear (hrun.trans hp) hu rfl rfl rfl rfl rfl rfl

theorem lrc_lost_known (hlost : s.self.region.state = .lost) (hk : s.self.region.known = true) :
    Leads (.lrc o m) s (s.withSelf (lostTo s.self.region.result s.self)) := by
  obtain ⟨v, hv, hself⟩ := (OnlySelf.begun s ⟨o.st, 0, .access, []⟩).modSelf (lostTo s.self.region.result)
  refine lrc_lost h hlost ?_ hself
  unfold closeLost
  rw [if_pos hk]
  exact hv

theorem lrc_lost_unknown (hlost : s.self.region.state = .lost) (hk : s.self.region.known = false) :
    ∃ p < 256, Leads (.lrc o m) s ({ s with fresh := s.fresh + 1 }.withSelf (lostTo p s.self)) := by
  obtain ⟨v, hv, hself⟩ := (OnlySelf.begun { s with fresh := s.fresh + 1 } ⟨o.st, 0, .access, []⟩).modSelf
    (lostTo ((Config.freeValue s.fresh).toNat % 256))
  refine ⟨(Config.freeValue s.fresh).toNat % 256, Nat.mod_lt _ (by decide), lrc_lost h hlost ?_ hself⟩
  unfold closeLost
  rw [if_neg (by simp [hk])]
  exact hv

variable (hopen : s.self.region.state = .opened)
include hopen

theorem lrc_mirrored (hm : s.self.region.mirrored = true) : Traps (.lrc o m) s cPerm s.self.region.line := by
  refine traps_of_runPriv (exec_lrc o m s) Steer.noConfusion (openCheck_run (by rw [hopen]; decide)) h.clear
    ((closeBody_begun _).trans ?_) (by decide)
  rw [if_neg (by rw [hopen]; decide)]
  exact M.bind_error (raiseIf_of hm ..)

omit h hopen in
/-- An open region that has been performed. -/
theorem closeOpen_run {r : Region} (hm : r.mirrored = false) {s v w : State} {f : Nat}
    (hrun : commitRegion r (released s m.ord.toNat m.scope.toNat) = .ok (f, loadedValues w r) v) :
    closeOpen r m s = .ok () ((acquired v m.ord.toNat m.scope.toNat).withSelf
      (committedTo w r (BitVec.ofNat 64 ((if f = 0 then 2 ^ 63 else 0) + f)) (acquired v m.ord.toNat m.scope.toNat).self)) := by
  unfold closeOpen
  rw [M.bind_ok (raiseIf_of_not hm ..), M.bind_ok (ordRelease_run ..), M.bind_ok hrun]
  refine (M.bind_ok (ordAcquire_run ..)).trans ?_
  simp only [loadedValues, putLoads_eq]
  rfl

theorem lrc_open (hm : s.self.region.mirrored = false) {u v w : State} {f : Nat}
    (hrun : commitRegion s.self.region (released (s.withSelf (s.self.begun ⟨o.st, 0, .access, []⟩)) m.ord.toNat m.scope.toNat) =
      .ok (f, loadedValues w s.self.region) v) (htwin : Twin s s.self (s.self.begun ⟨o.st, 0, .access, []⟩) u v) :
    let t := acquired u m.ord.toNat m.scope.toNat
    Leads (.lrc o m) s (t.withSelf (committedTo w s.self.region (BitVec.ofNat 64 ((if f = 0 then 2 ^ 63 else 0) + f)) t.self)) := by
  intro t
  have hcheck : openCheck s = .ok () s := openCheck_run (by rw [hopen]; decide)
  have hbody := closeBody_begun (s := s) (m := m) ⟨o.st, 0, .access, []⟩
  rw [if_neg (by rw [hopen]; decide), closeOpen_run hm hrun] at hbody
  generalize s.self.region = r at *
  generalize BitVec.ofNat 64 ((if f = 0 then 2 ^ 63 else 0) + f) = z at *
  have hput := (keeps2_acquired m.ord.toNat m.scope.toNat htwin).withSelf (f := committedTo w r z) (g := committedTo w r z)
    (committedTo_wokenIf w r z _) (committedTo_wokenIf w r z _)
    (loadedFrom_keeps ..).live (loadedFrom_keeps ..).live (loadedFrom_keeps ..).monitor (loadedFrom_keeps ..).monitor
  obtain ⟨b, -, hself⟩ := hput.woken
  obtain ⟨hstill, hinstret, hpcc, -, -⟩ := loadedFrom_keeps w (regionLoads r.comps) (s.self.begun ⟨o.st, 0, .access, []⟩)
  refine leads_of_runWith (exec_lrc o m s) Steer.noConfusion hcheck h.clear (M.bind_ok hbody)
    (hput.sameAs (committedTo_still w r z rfl) (committedTo_regs w r z rfl)) ?_ ?_ ?_ ?_
  · rw [hself]
    exact (congrArg Strand.apart hstill : (Strand.still _).apart = (Strand.still _).apart).trans h.1
  · rw [hself]
    exact hinstret
  · rw [hself]
    exact hpcc
  · rw [hself]
    exact (congrArg Strand.ir hstill : (Strand.still _).ir = (Strand.still _).ir)

omit hopen in
/-- An open region of no components. -/
theorem commitRegion_empty {r : Region} (hr : r.comps = []) (s : State) : commitRegion r s = .ok (0, loadedValues s r) s := by
  refine (M.bind_ok (M.get_run s)).trans ?_
  rw [if_pos (by simp [hr])]
  unfold loadedValues
  rw [hr]
  rfl

theorem lrc_empty (hm : s.self.region.mirrored = false) (hr : s.self.region.comps = []) :
    let u := acquired (released s m.ord.toNat m.scope.toNat) m.ord.toNat m.scope.toNat
    Leads (.lrc o m) s (u.withSelf (closedRegion s.self.region u.self 0x8000000000000000)) := by
  have htwin := keeps2_released m.ord.toNat m.scope.toNat (Twin.begun s ⟨o.st, 0, .access, []⟩)
  have hlead := lrc_open h hopen hm (commitRegion_empty (h := h) hr _) htwin
  have hclosed (w : State) (z : Word) (t : Strand) : committedTo w s.self.region z t = closedRegion s.self.region t z := by
    unfold committedTo
    rw [hr]
    rfl
  simp only [hclosed, if_true, Nat.add_zero] at hlead
  exact hlead

theorem lrc_performs (hm : s.self.region.mirrored = false) (hne : s.self.region.comps ≠ []) (hpkg : pkgOf s.self.region.pa = s.pkg)
    (ha : localOf s.self.region.pa % 128 = 0) (hat : AtHome s (localOf s.self.region.pa)) {u : State}
    (hu : (released s m.ord.toNat m.scope.toNat).leaveLine (coreOf s.cur) (localOf s.self.region.pa / 128) = u)
    (hpart : NoPartials u) (hbad : u.firstBad (localOf s.self.region.pa) 128 = none)
    (hin : ∀ c ∈ regionStores s.self.region.comps, localOf s.self.region.pa ≤ c.1 ∧ c.1 < localOf s.self.region.pa + 128) :
    let f := failedGuards u (regionGuards s.self.region.comps)
    let v := acquired (performed u s.self.region) m.ord.toNat m.scope.toNat
    Leads (.lrc o m) s (v.withSelf (committedTo u s.self.region (BitVec.ofNat 64 ((if f = 0 then 2 ^ 63 else 0) + f)) v.self)) := by
  have hrel := keeps2_released m.ord.toNat m.scope.toNat (Twin.begun s ⟨o.st, 0, .access, []⟩)
  have hleft := keeps2_leaveLine (coreOf s.cur) (localOf s.self.region.pa / 128) hrel
  have hrun := commitRegion_run hne hpkg ha hat hrel.pkg hrel.cur (hleft.noPartials (by dsimp only; rwa [hu]))
    ((hleft.firstBad ..).trans (by dsimp only; rwa [hu])) hin
  have hdone := keeps2_performed s.self.region hleft
  dsimp only at hleft hrun hdone hu
  have hguards : failedGuards ((released (s.withSelf (s.self.begun ⟨o.st, 0, .access, []⟩)) m.ord.toNat m.scope.toNat).leaveLine
      (coreOf s.cur) (localOf s.self.region.pa / 128)) (regionGuards s.self.region.comps) = failedGuards u (regionGuards s.self.region.comps) := by
    unfold failedGuards
    simp only [hleft.bytesAt, hu]
  have hloads : loadedValues ((released (s.withSelf (s.self.begun ⟨o.st, 0, .access, []⟩)) m.ord.toNat m.scope.toNat).leaveLine
      (coreOf s.cur) (localOf s.self.region.pa / 128)) s.self.region = loadedValues u s.self.region := by
    unfold loadedValues
    simp only [hleft.bytesAt, hu]
  rw [hguards, hloads] at hrun
  rw [hu] at hdone
  exact lrc_open h hopen hm hrun hdone

end

theorem regionsCommit : RegionsCommit := by
  intro o m s h i r a u0 closed
  refine ⟨lrc_none h, fun hl hk => lrc_lost_known h hl hk, fun hl hk => lrc_lost_unknown h hl hk, fun ho hm => lrc_mirrored h ho hm,
    fun ho hm hr => lrc_empty h ho hm hr, ?_⟩
  intro ho hm hne hpkg ha hat u hpart hbad hin
  exact lrc_performs h ho hm hne hpkg ha hat rfl hpart hbad hin

/-- Settles O43: a region records a component after its checks, and its commit runs at the home of its line with the line as the core's
write-back leaves it. -/
theorem lineRegions : Obligations.LineRegions := ⟨regionsRecord, regionsCommit⟩

end Sys2Proof.Claims
end

section
/-! PROOF. O40: rows of a product are written in order; accumulators are read and cleared (R225, R228, R248, R249). -/

namespace Sys2Proof.Claims

open Sys2Proof.Machine

/-! ## Reading and clearing accumulators -/

section
variable {s : State} {o : OpRRR} {m : VecMod}

/-- The elements of an accumulator row are converted and written. -/
def writeRead (a : RegNo) (w n : Nat) (zero : Bool) (k : BitVec 512) (one : Strand → Nat → Nat × Nat) : M Unit := do
  let t ← self
  setFlags ((List.range n).foldl (fun fl e => if k.getLsbD e then fl ||| (one t e).2 else fl) 0)
  writeV a w fun e =>
    if e < n then (if k.getLsbD e then some (one t e).1 else if zero then some 0 else none) else none

/-- The operation of `accrd` behind its sources. -/
def readAccumulator (o : OpRRR) (m : VecMod) (c : Word) (k : BitVec 512) : M Unit := do
  let s ← get
  let wm := s.watermark s.cur o.b.toNat
  if !bitAt wm 7 && c.toNat % 64 ≥ fieldAt wm 0 7 then throw .retry
  let dst := tableType (o.imm.getLsbD 4) m.ty
  let t := s.self
  let n := t.effective dst.lane
  let mode := t.roundingMode m.rnd.toNat true
  useLanes dst.lane 0 n
  stepSeeds mode
  writeRead o.a dst.lane n m.zero k fun t e =>
    t.convert dst mode e (accValue t.mtx.accs o.b.toNat (c.toNat % 64) (c.toNat / 64 % 64 + e) (o.imm.toNat % 4))

def readUses (o : OpRRR) (m : VecMod) : List RegUse := [vDst o.a, ⟨4, o.b.toNat, true, false⟩, wSrc o.c] ++ maskUse m.mask

theorem exec_accrd : exec (.accrd o m) s = runPriv ⟨o.st, 0, .lanes, readUses o m⟩ needGrant (do
    let c ← readX 0 o.c
    let k ← readK 1 m.mask.toNat
    readAccumulator o m c k) s := rfl

theorem watermark_begun (s : State) (d : Desc) (acc : Nat) :
    (s.withSelf (s.self.begun d)).watermark (s.withSelf (s.self.begun d)).cur acc = s.watermark s.cur acc := by
  have hself : (s.withSelf (s.self.begun d)).strand s.cur = s.self.begun d := State.self_withSelf ..
  have hcur : (s.withSelf (s.self.begun d)).cur = s.cur := rfl
  unfold State.watermark
  rw [hcur, hself]
  rfl

variable (h : VReady s [vDst o.a, ⟨4, o.b.toNat, true, false⟩, wSrc o.c] m)
include h

theorem accrd_sources (d : Desc) : (do
    let c ← readX 0 o.c
    let k ← readK 1 m.mask.toNat
    readAccumulator o m c k : M Unit) (s.withSelf (s.self.begun d)) =
      readAccumulator o m (x s o.c) (s.self.mask m.mask.toNat) (s.withSelf (s.self.begun d)) := by
  obtain ⟨hready, hmask, -, -⟩ := h
  rw [M.bind_ok (hready.readX (by simp) (.of_begun s _) 0), M.bind_ok (hmask.readK (.of_begun s _) 1)]

theorem accrd_waits (hgo : bitAt (s.watermark s.cur o.b.toNat) 7 = false)
    (hrow : fieldAt (s.watermark s.cur o.b.toNat) 0 7 ≤ (x s o.c).toNat % 64) : Waits (.accrd o m) s := by
  obtain ⟨-, -, hlanes, hfree⟩ := id h
  refine waits_of_idle (u := s) (exec_of_retry_free (d := ⟨o.st, 0, .lanes, readUses o m⟩) exec_accrd hfree (needGrant_ok hlanes) h.clear
    (u := s.withSelf (s.self.begun ⟨o.st, 0, .lanes, readUses o m⟩)) (M.bind_error ((accrd_sources h _).trans ?_))) (.refl s) rfl rfl
  refine (M.bind_ok (M.get_run _)).trans ?_
  rw [watermark_begun, if_pos (by simpa [hgo] using hrow)]
  rfl

omit h in
/-- What elements that are converted make of a strand. -/
theorem writeRead_run {t : Strand} {u : State} (hu : OnlySelf s t u) (a : RegNo) (w n : Nat) (zero : Bool) (k : BitVec 512)
    (one : Strand → Nat → Nat × Nat) : ∃ v, writeRead a w n zero k one u = .ok () v ∧
      OnlySelf s { elements t a w 0 n zero k (one t) with
        vec := { (elements t a w 0 n zero k (one t)).vec with vstart := t.vec.vstart } } v := by
  obtain ⟨v1, hv1, hself1⟩ := hu.modSelf fun t' => flagged t' ((List.range n).foldl (fun fl e => if k.getLsbD e then fl ||| (one t e).2 else fl) 0)
  obtain ⟨v2, hv2, hself2⟩ := hself1.modSelf fun t' => putV t' a w fun e =>
    if e < n then (if k.getLsbD e then some (one t e).1 else if zero then some 0 else none) else none
  refine ⟨v2, (M.bind_ok (self_run u)).trans ?_, ?_⟩
  · rw [hu.self]
    exact (M.bind_ok hv1).trans hv2
  · simpa only [putV, flagged, elements, Nat.zero_le, decide_true, Bool.true_and, decide_eq_true_eq] using hself2

/-- The element of the accumulator row that `accrd` converts. -/
def readElement (s : State) (o : OpRRR) (m : VecMod) (t : Strand) (e : Nat) : Nat × Nat :=
  t.convert (tableType (o.imm.getLsbD 4) m.ty) (s.self.roundingMode m.rnd.toNat true) e
    (accValue t.mtx.accs o.b.toNat ((x s o.c).toNat % 64) ((x s o.c).toNat / 64 % 64 + e) (o.imm.toNat % 4))

/-- A strand with the elements that `accrd` reads. -/
def readInto (s : State) (o : OpRRR) (m : VecMod) (t : Strand) : Strand :=
  let w := (tableType (o.imm.getLsbD 4) m.ty).lane
  let new := elements t o.a w 0 (s.self.effective w) m.zero (s.self.mask m.mask.toNat) (readElement s o m t)
  { new with vec := { new.vec with vstart := t.vec.vstart } }

theorem accrd_leads (hun : Unbounded s 1) (hgo : bitAt (s.watermark s.cur o.b.toNat) 7 = true ∨
      (x s o.c).toNat % 64 < fieldAt (s.watermark s.cur o.b.toNat) 0 7) :
    Leads (.accrd o m) s (s.withSelf (readInto s o m (stepped s.self (s.self.roundingMode m.rnd.toNat true)))) := by
  obtain ⟨-, -, hlanes, hfree⟩ := id h
  obtain ⟨d, hd⟩ : ∃ d : Desc, d = ⟨o.st, 0, .lanes, readUses o m⟩ := ⟨_, rfl⟩
  obtain ⟨v, hself, hrun⟩ := useLanes_stepSeeds hun (.begun s d) (tableType (o.imm.getLsbD 4) m.ty).lane 0
    (s.self.effective (tableType (o.imm.getLsbD 4) m.ty).lane) (s.self.roundingMode m.rnd.toNat true)
  obtain ⟨v', hv', hself'⟩ := writeRead_run hself o.a (tableType (o.imm.getLsbD 4) m.ty).lane
    (s.self.effective (tableType (o.imm.getLsbD 4) m.ty).lane) m.zero (s.self.mask m.mask.toNat) (readElement s o m)
  rw [stepped_begun] at hself'
  obtain ⟨hpcc, hn, hapart, hir⟩ := StandsAt.stepped s.self (s.self.roundingMode m.rnd.toNat true)
  have hbody : readAccumulator o m (x s o.c) (s.self.mask m.mask.toNat) (s.withSelf (s.self.begun d)) = .ok () v' := by
    refine (M.bind_ok (M.get_run _)).trans ?_
    rw [watermark_begun, if_neg (by simpa [or_iff_not_imp_left] using hgo), State.self_withSelf]
    exact (hrun _).trans hv'
  have hx := exec_accrd (o := o) (m := m) (s := s)
  have hclear : s.self.Clear d.regs := by rw [hd]; exact h.clear
  rw [← hd] at hx
  generalize stepped s.self (s.self.roundingMode m.rnd.toNat true) = t at *
  exact leads_of_lanes hx hfree (needGrant_ok hlanes) hclear ((accrd_sources h d).trans hbody) hself' ⟨rfl, rfl⟩ ⟨hpcc, hn, hapart, hir⟩

end

theorem stepped_mtx (t : Strand) (mode : Nat) : (stepped t mode).mtx = t.mtx ∧ (stepped t mode).vec.vstart = t.vec.vstart := by
  unfold stepped
  split <;> exact ⟨rfl, rfl⟩

theorem accwm_sets {o : OpRR} {s : State} (h : Ready s [wDst o.a, ⟨4, o.b.toNat, true, false⟩]) (hfree : Free s) :
    SetsX (.accwm o) s o.a (s.watermark s.cur o.b.toNat) := by
  obtain ⟨d, hd⟩ : ∃ d : Desc, d = ⟨o.st, 0, .lanes, [wDst o.a, ⟨4, o.b.toNat, true, false⟩]⟩ := ⟨_, rfl⟩
  obtain ⟨v, hv, hself⟩ := (OnlySelf.begun s d).modSelf fun t => t.putW o.a.toNat (Reg.ofWord (s.watermark s.cur o.b.toNat))
  have hx : exec (.accwm o) s = runPriv d (pure ()) (do
      let s ← get
      writeX o.a (s.watermark s.cur o.b.toNat)) s := by rw [hd]; rfl
  refine leads_of_lanes hx hfree rfl (by rw [hd]; exact h.clear fun r hr => ⟨r, hr, rfl, rfl⟩) ?_ hself ⟨rfl, rfl⟩ ⟨rfl, rfl, rfl, rfl⟩
  refine (M.bind_ok (M.get_run _)).trans ?_
  rw [watermark_begun]
  exact hv

section
variable {o : OpR} {s : State} (h : Ready s [⟨4, o.a.toNat, false, true⟩]) (hfree : Free s)
include h hfree

/-- The operation of `accz`. -/
def clearAccumulator (acc : Nat) : M Unit := do
  let s ← get
  if (s.quad (quadOf s.cur)).ops.any fun x => x.sid = s.cur && x.acc = acc then throw .retry
  modSelf fun t => { t.withMark acc 0x40 with
    mtx := { t.mtx with
      accs := t.mtx.accs.filter fun e => e.1 / 4096 ≠ acc
      marks := storeAt 0x40 acc 0x40 t.mtx.marks } }
  modify fun s => { s with badRows := s.badRows.filter fun e => e.1 / 64 ≠ s.cur * 2 + acc }

omit h hfree in
theorem exec_accz : exec (.accz o) s = runPriv ⟨o.st, 0, .lanes, [⟨4, o.a.toNat, false, true⟩]⟩ (pure ()) (clearAccumulator o.a.toNat) s := rfl

omit h hfree in
theorem clearAccumulator_busy {acc : Nat} {v : State} (hbusy : ∃ p ∈ (v.quad (quadOf v.cur)).ops, p.sid = v.cur ∧ p.acc = acc) :
    clearAccumulator acc v = .error .retry v := by
  refine (M.bind_ok (M.get_run v)).trans ?_
  rw [if_pos (by simpa using hbusy)]
  rfl

omit h hfree in
/-- A strand whose accumulator is cleared. -/
def clearedAcc (acc : Nat) (t : Strand) : Strand := { t with mtx := { t.mtx with
  accs := t.mtx.accs.filter fun e => e.1 / 4096 ≠ acc, marks := storeAt 0x40 acc 0x40 t.mtx.marks } }

omit h hfree in
theorem clearAccumulator_run {acc : Nat} {v : State} (hidle : ¬∃ p ∈ (v.quad (quadOf v.cur)).ops, p.sid = v.cur ∧ p.acc = acc) :
    clearAccumulator acc v = .ok ()
      ({ v with badRows := v.badRows.filter fun e => e.1 / 64 ≠ v.cur * 2 + acc }.withSelf (clearedAcc acc v.self)) := by
  refine (M.bind_ok (M.get_run v)).trans ?_
  rw [if_neg (by simpa using hidle)]
  rfl

theorem accz_waits (hbusy : ∃ p ∈ (s.quad (quadOf s.cur)).ops, p.sid = s.cur ∧ p.acc = o.a.toNat) : Waits (.accz o) s := by
  refine waits_of_idle (u := s) (exec_of_retry_free (u := s.withSelf (s.self.begun ⟨o.st, 0, .lanes, [⟨4, o.a.toNat, false, true⟩]⟩)) exec_accz
    hfree rfl (h.clear fun r hr => ⟨r, hr, rfl, rfl⟩) (M.bind_error (clearAccumulator_busy hbusy))) (.refl s) rfl rfl

theorem accz_leads (hidle : ¬∃ p ∈ (s.quad (quadOf s.cur)).ops, p.sid = s.cur ∧ p.acc = o.a.toNat) :
    Leads (.accz o) s ({ s with badRows := s.badRows.filter fun e => e.1 / 64 ≠ s.cur * 2 + o.a.toNat }.withSelf
      (clearedAcc o.a.toNat s.self)) := by
  obtain ⟨d, hd⟩ : ∃ d : Desc, d = ⟨o.st, 0, .lanes, [⟨4, o.a.toNat, false, true⟩]⟩ := ⟨_, rfl⟩
  have hx := exec_accz (o := o) (s := s)
  rw [← hd] at hx
  have hrun := clearAccumulator_run (acc := o.a.toNat) (v := s.withSelf (s.self.begun d)) hidle
  rw [State.self_withSelf] at hrun
  exact leads_of_lanes (r := clearedAcc o.a.toNat (s.self.begun d)) hx hfree rfl
    (by rw [hd]; exact h.clear fun r hr => ⟨r, hr, rfl, rfl⟩) hrun
    ((OnlySelf.begun { s with badRows := s.badRows.filter fun e => e.1 / 64 ≠ s.cur * 2 + o.a.toNat } d).withSelf _)
    ⟨rfl, rfl⟩ ⟨rfl, rfl, rfl, rfl⟩

end

theorem accumulatorsAreRead : AccumulatorsAreRead := by
  refine ⟨?_, fun o s h hf => accwm_sets h hf, fun o s h hf => ⟨accz_waits h hf, accz_leads h hf⟩⟩
  intro o m s h hun acc row c0 mark dst mode t new
  refine ⟨accrd_waits h, fun hgo => ?_⟩
  have hleads := accrd_leads h hun hgo
  obtain ⟨hmtx, hstart⟩ := stepped_mtx s.self mode
  unfold readInto readElement at hleads
  rw [hmtx, hstart] at hleads
  exact hleads

end Sys2Proof.Claims
end

section
/-! PROOF. O40, continued: the rows of a product (R63 to R65, R224, R226, R228, R238). -/

namespace Sys2Proof.Claims

open Sys2Proof.Machine

/-! ## Elements of a row -/

/-- Elements stored at successive keys. -/
theorem lookupD_stores (base : Nat) (v : Nat → BitVec 32) (N : Nat) (m : SMap (BitVec 32)) (k : Nat) :
    lookupD 0 ((List.range N).foldl (fun m j => storeAt 0 (base + j) (v j) m) m) k =
      if base ≤ k ∧ k < base + N then v (k - base) else lookupD 0 m k := by
  induction N with
  | zero => rw [if_neg (by omega)]; rfl
  | succ N ih =>
    rw [List.range_succ, List.foldl_append, List.foldl_cons, List.foldl_nil, lookupD_storeAt, ih]
    by_cases hk : k = base + N
    · subst hk
      rw [if_pos rfl, if_pos (by omega), Nat.add_sub_cancel_left]
    · rw [if_neg hk]
      by_cases hin : base ≤ k ∧ k < base + N
      · rw [if_pos hin, if_pos (by omega)]
      · rw [if_neg hin, if_neg (by omega)]

/-- Pairs of elements stored at successive keys. -/
theorem lookupD_pairStores (base : Nat) (lo hi : Nat → BitVec 32) (N : Nat) (m : SMap (BitVec 32)) (k : Nat) :
    lookupD 0 ((List.range N).foldl (fun m j => storeAt 0 (base + 2 * j) (lo j) (storeAt 0 (base + 2 * j + 1) (hi j) m)) m) k =
      if base ≤ k ∧ k < base + 2 * N then (if (k - base) % 2 = 0 then lo ((k - base) / 2) else hi ((k - base) / 2)) else lookupD 0 m k := by
  induction N with
  | zero => rw [if_neg (by omega)]; rfl
  | succ N ih =>
    rw [List.range_succ, List.foldl_append, List.foldl_cons, List.foldl_nil, lookupD_storeAt, lookupD_storeAt, ih]
    by_cases hk : k = base + 2 * N
    · subst hk
      rw [if_pos rfl, if_pos (by omega), Nat.add_sub_cancel_left, if_pos (by omega), Nat.mul_div_cancel_left _ (by decide)]
    by_cases hk' : k = base + 2 * N + 1
    · subst hk'
      rw [if_neg hk, if_pos rfl, if_pos (by omega), if_neg (by omega)]
      congr 1
      omega
    · rw [if_neg hk, if_neg hk']
      by_cases hin : base ≤ k ∧ k < base + 2 * N
      · have hin' : base ≤ k ∧ k < base + 2 * (N + 1) := by omega
        rw [if_pos hin, if_pos hin']
      · rw [if_neg hin, if_neg (by omega)]

section
variable (o : MatOp) (r : RowPlan) (p : Pairing) (accs : SMap (BitVec 32))

/-- The element of the right tile at a column of the output. -/
def rightCode (o : MatOp) (j k : Nat) : Nat := tileEl o.right 0 (tileBits (descFmt o.descR)) j k

/-- The exact sum of a column of integer products. -/
def intSum (o : MatOp) (r : RowPlan) (j : Nat) : Int :=
  (r.entries.map fun e => tileInt o.fmtL e.1 * tileInt (descFmt o.descR) (rightCode o j e.2)).sum

/-- The factors of a column of floating-point products. -/
def factors (o : MatOp) (r : RowPlan) (j : Nat) : List (Machine.Float.Value × Machine.Float.Value) :=
  r.entries.map fun e => (tileValue o.fmtL o.scaleL e.1, tileValue (descFmt o.descR) (descScale o.descR) (rightCode o j e.2))

def rowBase (o : MatOp) (r : RowPlan) : Nat := o.acc * 4096 + r.row * 64

theorem rowUpdate_int (h : p.kind = .int) : (rowUpdate o p r accs).1 = (List.range (descRows o.descR)).foldl (fun m j =>
    storeAt 0 (rowBase o r + j) (accElement accs o.acc r.row j + BitVec.ofInt 32 (intSum o r j)) m) accs := by
  unfold rowUpdate
  rw [h]
  exact (List.foldl_hom Prod.fst (init := (accs, 0)) fun _ _ => rfl).symm

theorem rowUpdate_f32 (h : p.kind = .f32) : (rowUpdate o p r accs).1 = (List.range (descRows o.descR)).foldl (fun m j =>
    storeAt 0 (rowBase o r + j) (BitVec.ofNat 32 (sumGroups p.group (factors o r j).length (factors o r j)
      (accElement accs o.acc r.row j).toNat).1) m) accs := by
  unfold rowUpdate
  rw [h]
  exact (List.foldl_hom Prod.fst (init := (accs, 0)) fun _ _ => rfl).symm

theorem rowUpdate_f64 (h : p.kind = .f64) : (rowUpdate o p r accs).1 = (List.range (descRows o.descR)).foldl (fun m j =>
    storeAt 0 (rowBase o r + 2 * j) (BitVec.ofNat 32 (sumDoubles (factors o r j) (accPair accs o.acc r.row j)).1)
      (storeAt 0 (rowBase o r + 2 * j + 1) (BitVec.ofNat 32 ((sumDoubles (factors o r j) (accPair accs o.acc r.row j)).1 / 2 ^ 32)) m)) accs := by
  unfold rowUpdate
  rw [h]
  exact (List.foldl_hom Prod.fst (init := (accs, 0)) fun _ _ => rfl).symm

/-- What one row write leaves in the accumulators. -/
theorem rowUpdate_elements : let new := (rowUpdate o p r accs).1
    (p.kind = .int → ∀ j < descRows o.descR,
      accElement new o.acc r.row j = accElement accs o.acc r.row j + BitVec.ofInt 32 (intSum o r j)) ∧
    (p.kind = .f32 → ∀ j < descRows o.descR, (accElement new o.acc r.row j).toNat =
      (sumGroups p.group (factors o r j).length (factors o r j) (accElement accs o.acc r.row j).toNat).1 % 2 ^ 32) ∧
    (p.kind = .f64 → descRows o.descR ≤ 32 → ∀ j < descRows o.descR, accPair new o.acc r.row j =
      (sumDoubles (factors o r j) (accPair accs o.acc r.row j)).1 % 2 ^ 64) := by
  refine ⟨fun h j hj => ?_, fun h j hj => ?_, fun h _ j hj => ?_⟩
  · rw [rowUpdate_int o r p accs h, accElement, lookupD_stores, if_pos (by unfold rowBase; omega), rowBase, Nat.add_sub_cancel_left]
  · rw [rowUpdate_f32 o r p accs h, accElement, lookupD_stores, if_pos (by unfold rowBase; omega), rowBase, Nat.add_sub_cancel_left,
      BitVec.toNat_ofNat]
  · rw [rowUpdate_f64 o r p accs h]
    generalize hf : (fun j => sumDoubles (factors o r j) (accPair accs o.acc r.row j)) = f
    have hf' (j : Nat) : sumDoubles (factors o r j) (accPair accs o.acc r.row j) = f j := congrFun hf j
    simp only [hf', accPair, accElement]
    rw [lookupD_pairStores, lookupD_pairStores, if_pos (by unfold rowBase; omega), if_pos (by unfold rowBase; omega), if_pos (by unfold rowBase; omega),
      if_neg (by unfold rowBase; omega)]
    have hlo : (o.acc * 4096 + r.row * 64 + 2 * j - rowBase o r) / 2 = j := by unfold rowBase; omega
    have hhi : (o.acc * 4096 + r.row * 64 + (2 * j + 1) - rowBase o r) / 2 = j := by unfold rowBase; omega
    rw [hlo, hhi, BitVec.toNat_ofNat, BitVec.toNat_ofNat]
    omega

/-- Other elements stay. -/
theorem rowUpdate_elsewhere (hrow : r.row < 64) (hN : descRows o.descR ≤ if p.kind = .f64 then 32 else 64) {k : Nat}
    (hk : k / 64 ≠ o.acc * 64 + r.row ∨ (if p.kind = .f64 then 2 * descRows o.descR else descRows o.descR) ≤ k % 64) :
    lookupD 0 (rowUpdate o p r accs).1 k = lookupD 0 accs k := by
  cases h : p.kind with
  | int =>
    rw [h, if_neg (by decide)] at hN hk
    rw [rowUpdate_int o r p accs h, lookupD_stores, if_neg (by unfold rowBase; omega)]
  | f32 =>
    rw [h, if_neg (by decide)] at hN hk
    rw [rowUpdate_f32 o r p accs h, lookupD_stores, if_neg (by unfold rowBase; omega)]
  | f64 =>
    rw [h, if_pos rfl] at hN hk
    rw [rowUpdate_f64 o r p accs h, lookupD_pairStores, if_neg (by unfold rowBase; omega)]

end

/-! ## The event -/

section
variable {s : State} {q n : Nat} {o : MatOp} {r : RowPlan} {p : Pairing}

theorem firstError_zero {l : List (BitVec 8)} (h : ∀ x ∈ l, x = 0) : (l.find? (· ≠ 0)).getD 0 = 0 := by
  rw [List.find?_eq_none.mpr fun x hx => by simpa using h x hx]
  rfl

theorem rightError_none (h : s.badTiles = []) (o : MatOp) : s.rightError o = 0 := by
  unfold State.rightError
  rw [h]
  refine firstError_zero fun x hx => ?_
  obtain ⟨r, -, hx⟩ := List.mem_flatMap.mp hx
  obtain ⟨u, -, rfl⟩ := List.mem_map.mp hx
  rfl

theorem rowError_none (ht : s.badTiles = []) (hr : s.badRows = []) (o : MatOp) (plans : List RowPlan) : s.rowError o plans = 0 := by
  unfold State.rowError
  rw [ht, hr]
  refine firstError_zero fun x hx => ?_
  rcases List.mem_append.mp hx with hx | hx
  · cases ho : o.leftTile with
    | none => rw [ho] at hx; exact absurd hx List.not_mem_nil
    | some t =>
      rw [ho] at hx
      obtain ⟨u, -, rfl⟩ := List.mem_map.mp hx
      rfl
  · obtain ⟨u, -, rfl⟩ := List.mem_map.mp hx
    rfl

/-- An owner with a row of its operation written. -/
def rowWritten (o : MatOp) (p : Pairing) (r : RowPlan) (t : Strand) : Strand :=
  { t with
    mtx := { t.mtx with accs := (rowUpdate o p r t.mtx.accs).1 }
    fexc := t.fexc ||| BitVec.ofNat 64 ((0 ||| (rowUpdate o p r t.mtx.accs).2) &&& (Machine.Float.fNv ||| Machine.Float.fOf)) }

/-- What follows a row. -/
def rowDone (q : Nat) (o : MatOp) : M Unit := do
  modQuad q fun v => { v with ops := v.ops.map fun x => if x.id = o.id then o else x }
  if o.written ≥ o.rows.length then completeOp q o else pure ()

theorem writeRows_run (hbad : s.rightError o = 0) (hrow : s.rowError o [r] = 0) (hblock : o.block = 1)
    (hr : (o.rows.drop o.written).head? = some r) (hp : pairing o.ternary o.fmtL (descFmt o.descR) = some p) :
    writeRows q o s = rowDone q { o with written := o.written + 1 } (s.withStrand o.sid (rowWritten o p r (s.strand o.sid))) := by
  have hplans : (o.rows.drop o.written).take o.block = [r] := by
    rw [hblock]
    cases hl : o.rows.drop o.written with
    | nil => rw [hl] at hr; cases hr
    | cons a l =>
      rw [hl] at hr
      cases hr
      rfl
  unfold writeRows
  refine (M.bind_ok (M.get_run s)).trans ?_
  dsimp only
  rw [hplans, if_neg (by simpa using hbad), if_neg (by simpa using hrow), hp, hblock]
  rfl

theorem quad_withQuad (s : State) (q : Nat) (v : QuadState) : (s.withQuad q v).quad q = v := lookupD_storeAt_same ..

/-- An operation that is not yet through stays with its rows counted. -/
theorem rowDone_more (h : ¬ o.rows.length ≤ o.written) : ∃ t, rowDone q o s = .ok () t ∧ t.mem = s.mem ∧ t.strands = s.strands ∧
    (t.quad q).ops = (s.quad q).ops.map fun x => if x.id = o.id then o else x := by
  refine ⟨s.withQuad q { s.quad q with ops := (s.quad q).ops.map fun x => if x.id = o.id then o else x }, ?_, rfl, rfl,
    congrArg QuadState.ops (quad_withQuad s q _)⟩
  unfold rowDone
  refine (M.bind_ok (modQuad_run ..)).trans ?_
  rw [if_neg h]
  rfl

/-- The last row completes an operation of no gang. -/
theorem rowDone_last (h : o.rows.length ≤ o.written) (hgang : o.gang = none) :
    ∃ t, rowDone q o s = .ok () t ∧ t.mem = s.mem ∧ t.strands = (s.withStrand o.sid ((s.strand o.sid).withMark o.acc
        (BitVec.ofNat 64 (2 ^ 16 + ((s.strand o.sid).mark o.acc).toNat % 256)))).strands ∧
      (t.quad q).ops = (s.quad q).ops.filter fun v => v.id ≠ o.id := by
  obtain ⟨v, hv⟩ : ∃ v, v = s.withQuad q { s.quad q with ops := (s.quad q).ops.map fun x => if x.id = o.id then o else x } := ⟨_, rfl⟩
  refine ⟨(v.withQuad q { v.quad q with ops := (v.quad q).ops.filter fun x => x.id ≠ o.id }).withStrand o.sid
    ((v.strand o.sid).withMark o.acc (BitVec.ofNat 64 (2 ^ 16 + ((v.strand o.sid).mark o.acc).toNat % 256))), ?_, ?_, ?_, ?_⟩
  · unfold rowDone
    refine (M.bind_ok (modQuad_run ..)).trans ?_
    rw [if_pos h, ← hv]
    unfold completeOp removeOp
    refine (M.bind_ok (modQuad_run ..)).trans ?_
    rw [hgang]
    exact modStrand_run ..
  · rw [hv]; rfl
  · rw [hv]; rfl
  · change ((v.withQuad q _).quad q).ops = _
    rw [quad_withQuad, hv, quad_withQuad]
    dsimp only
    generalize (s.quad q).ops = l
    induction l with
    | nil => rfl
    | cons x l ih =>
      rw [List.map_cons, List.filter_cons, List.filter_cons, ih]
      by_cases hx : x.id = o.id
      · simp [hx]
      · simp [hx]

/-- An owner whose operation has been aborted, with its watermark and the value of the fault. -/
def abortedAt (acc : Nat) (mark value : Word) (t : Strand) : Strand := { t.withMark acc mark with gangFault := some (cGang, value) }

theorem abortedAt_mark (acc : Nat) (mark value : Word) (t : Strand) : (abortedAt acc mark value t).mark acc = mark := lookupD_storeAt_same ..

theorem abortedAt_keeps (acc : Nat) (mark value : Word) (t : Strand) :
    (abortedAt acc mark value t).regs = t.regs ∧ (abortedAt acc mark value t).mtx.tiles = t.mtx.tiles := ⟨rfl, rfl⟩

theorem abortedAt_accs (acc : Nat) (mark value : Word) (t : Strand) : (abortedAt acc mark value t).mtx.accs = t.mtx.accs := rfl

theorem abortedAt_gangFault (acc : Nat) (mark value : Word) (t : Strand) : (abortedAt acc mark value t).gangFault = some (cGang, value) := rfl

/-- The watermark at an abort of an operation of no gang. -/
def abortMark (row : Nat) (cause : BitVec 8) : Word := BitVec.ofNat 64 (cause.toNat * 2 ^ 24 + 0 * 2 ^ 16 + 128 + row)

theorem abortMark_eq (row : Nat) (cause : BitVec 8) : abortMark row cause = BitVec.ofNat 64 (cause.toNat * 2 ^ 24 + 128 + row) := by
  unfold abortMark
  simp only [Nat.zero_mul, Nat.add_zero]

theorem gangValue_alone (acc row : Nat) (cause : BitVec 8) :
    gangValue acc 0 0 0 row cause = BitVec.ofNat 64 (acc * 2 ^ 30 + row * 2 ^ 8 + cause.toNat) := by
  unfold gangValue
  simp only [Nat.zero_mul, Nat.add_zero]

/-- The state without an operation, with its owner told. -/
def abortedIn (s : State) (q : Nat) (o : MatOp) (row : Nat) (cause : BitVec 8) : State :=
  (s.withQuad q { s.quad q with ops := (s.quad q).ops.filter fun x => x.id ≠ o.id }).withStrand o.sid
    (abortedAt o.acc (abortMark row cause) (gangValue o.acc 0 0 0 row cause) (s.strand o.sid))

theorem abortOp_run (hgang : o.gang = none) (hr : (o.rows.drop o.written).head? = some r) (cause : BitVec 8) :
    abortOp q o cause s = .ok () (abortedIn s q o r.row cause) := by
  obtain ⟨l, hl⟩ : ∃ l, o.rows.drop o.written = r :: l := by
    cases hl : o.rows.drop o.written with
    | nil => rw [hl] at hr; cases hr
    | cons a l => rw [hl] at hr; cases hr; exact ⟨l, rfl⟩
  unfold abortOp
  refine (M.bind_ok (M.get_run s)).trans ?_
  rw [hgang, hl]
  rfl

def abortStep (q : Nat) (cause : BitVec 8) (x : MatOp) (_ : PUnit) : M (ForInStep PUnit) := do
  abortOp q x cause
  pure (.yield ⟨⟩)

theorem writeRows_aborts (hbad : s.rightError o ≠ 0) (hgang : o.gang = none) (hr : (o.rows.drop o.written).head? = some r) :
    writeRows q o s = .ok () (abortedIn s q o r.row (s.rightError o)) := by
  have hstep : abortStep q (s.rightError o) o ⟨⟩ s = .ok (.yield ⟨⟩) (abortedIn s q o r.row (s.rightError o)) :=
    M.bind_ok (abortOp_run hgang hr _)
  have hloop : forIn [o] PUnit.unit (abortStep q (s.rightError o)) s = .ok ⟨⟩ (abortedIn s q o r.row (s.rightError o)) := by
    rw [List.forIn_cons]
    exact M.bind_ok hstep
  unfold writeRows
  refine (M.bind_ok (M.get_run s)).trans ?_
  dsimp only
  rw [if_pos hbad, hgang]
  exact M.bind_ok hloop

variable (hnow : s.now = .matrixRowWrite q n) (hfind : (s.quad q).ops.find? (fun v => v.id = n) = some o)
include hnow hfind

/-- The event runs the row write of its operation. -/
theorem exec_row {t : State} (h : writeRows q o s = .ok () t) : exec .matrixRowWrite s = .next t := by
  have hrun : rowWrite q n s = .ok () t := by
    unfold rowWrite
    refine (M.bind_ok (M.get_run s)).trans ?_
    rw [hfind]
    exact h
  refine happens_runEvent (body := rowWrite q n) ?_ hrun
  change execMatrixRowWrite s = _
  unfold execMatrixRowWrite
  rw [hnow]

end

/-- What a row write leaves as it is. -/
def RowFrame (s : State) (o : MatOp) (t : State) : Prop :=
  t.mem = s.mem ∧ (∀ b, b ≠ o.sid → t.strand b = s.strand b) ∧ (∀ i, (t.strand o.sid).phys i = (s.strand o.sid).phys i) ∧
    (t.strand o.sid).mtx.tiles = (s.strand o.sid).mtx.tiles

theorem rowFrame_of {s t v : State} {o : MatOp} {T : Strand} (hmem : t.mem = s.mem) (hstrands : t.strands = (v.withStrand o.sid T).strands)
    (hv : ∀ b, b ≠ o.sid → v.strand b = s.strand b) (hregs : T.regs = (s.strand o.sid).regs) (htiles : T.mtx.tiles = (s.strand o.sid).mtx.tiles) :
    RowFrame s o t ∧ t.strand o.sid = T := by
  have hall (b : Nat) : t.strand b = (v.withStrand o.sid T).strand b := congrArg (lookupD Strand.idle · b) hstrands
  have hself : t.strand o.sid = T := (hall _).trans (State.strand_withStrand_same ..)
  refine ⟨⟨hmem, fun b hb => ?_, fun i => ?_, ?_⟩, hself⟩
  · rw [hall, State.strand_withStrand_ne _ _ _ _ hb, hv b hb]
  · rw [hself, Strand.phys, Strand.phys, hregs]
  · rw [hself, htiles]

theorem withoutOp_shows (s : State) (q : Nat) (o : MatOp) (T : Strand) (hregs : T.regs = (s.strand o.sid).regs)
    (htiles : T.mtx.tiles = (s.strand o.sid).mtx.tiles) :
    let t := (s.withQuad q { s.quad q with ops := (s.quad q).ops.filter fun x => x.id ≠ o.id }).withStrand o.sid T
    RowFrame s o t ∧ t.strand o.sid = T ∧ (t.quad q).ops = (s.quad q).ops.filter fun v => v.id ≠ o.id := by
  intro t
  have hframe := rowFrame_of (s := s) (o := o) (v := s) (T := T) (t := t) rfl rfl (fun _ _ => rfl) hregs htiles
  exact ⟨hframe.1, hframe.2, congrArg QuadState.ops (quad_withQuad s q _)⟩

theorem abortedIn_shows (s : State) (q : Nat) (o : MatOp) (row : Nat) (cause : BitVec 8) :
    let t := abortedIn s q o row cause
    RowFrame s o t ∧ t.strand o.sid = abortedAt o.acc (abortMark row cause) (gangValue o.acc 0 0 0 row cause) (s.strand o.sid) ∧
      (t.quad q).ops = (s.quad q).ops.filter fun v => v.id ≠ o.id :=
  withoutOp_shows s q o (abortedAt o.acc (abortMark row cause) (gangValue o.acc 0 0 0 row cause) (s.strand o.sid))
    (abortedAt_keeps ..).1 (abortedAt_keeps ..).2

section
variable {s : State} {q n : Nat} {o : MatOp} {r : RowPlan} {p : Pairing}
variable (hnow : s.now = .matrixRowWrite q n) (hfind : (s.quad q).ops.find? (fun v => v.id = n) = some o) (hgang : o.gang = none)
variable (hr : (o.rows.drop o.written).head? = some r)
include hnow hfind hgang hr

/-- A row write under a failing right tile. -/
theorem row_aborts (hbad : s.rightError o ≠ 0) : ∃ t, exec .matrixRowWrite s = .next t ∧ RowFrame s o t ∧
    t.strand o.sid = abortedAt o.acc (abortMark r.row (s.rightError o)) (gangValue o.acc 0 0 0 r.row (s.rightError o)) (s.strand o.sid) ∧
      (t.quad q).ops = (s.quad q).ops.filter fun v => v.id ≠ o.id :=
  ⟨_, exec_row hnow hfind (writeRows_aborts hbad hgang hr), abortedIn_shows s q o r.row (s.rightError o)⟩

/-- A row write without errors. -/
theorem row_writes (ht : s.badTiles = []) (hrows : s.badRows = []) (hblock : o.block = 1)
    (hp : pairing o.ternary o.fmtL (descFmt o.descR) = some p) : ∃ t, exec .matrixRowWrite s = .next t ∧ RowFrame s o t ∧
      (t.strand o.sid).mtx.accs = (rowUpdate o p r (s.strand o.sid).mtx.accs).1 ∧
      (o.rows.length ≤ o.written + 1 → (t.strand o.sid).mark o.acc = BitVec.ofNat 64 (2 ^ 16 + ((s.strand o.sid).mark o.acc).toNat % 256) ∧
        (t.quad q).ops = (s.quad q).ops.filter fun v => v.id ≠ o.id) ∧
      (¬ o.rows.length ≤ o.written + 1 → (t.strand o.sid).mark o.acc = (s.strand o.sid).mark o.acc ∧
        (t.quad q).ops = (s.quad q).ops.map fun v => if v.id = o.id then { o with written := o.written + 1 } else v) := by
  have hwrite := writeRows_run (q := q) (rightError_none ht o) (rowError_none ht hrows o [r]) hblock hr hp
  obtain ⟨T, hT⟩ : ∃ T, T = rowWritten o p r (s.strand o.sid) := ⟨_, rfl⟩
  have haccs : T.mtx.accs = (rowUpdate o p r (s.strand o.sid).mtx.accs).1 := by rw [hT]; rfl
  have hmark : T.mark o.acc = (s.strand o.sid).mark o.acc := by rw [hT]; rfl
  have hregs : T.regs = (s.strand o.sid).regs := by rw [hT]; rfl
  have htiles : T.mtx.tiles = (s.strand o.sid).mtx.tiles := by rw [hT]; rfl
  rw [← hT] at hwrite
  by_cases hlast : o.rows.length ≤ o.written + 1
  · obtain ⟨t, hdone, hmem, hstrands, hops⟩ := rowDone_last (q := q) (s := s.withStrand o.sid T) (o := { o with written := o.written + 1 })
      hlast hgang
    have hself : (s.withStrand o.sid T).strand o.sid = T := State.strand_withStrand_same ..
    dsimp only at hstrands hops
    rw [hself, hmark] at hstrands
    have hframe := rowFrame_of (s := s) (o := o) (t := t) hmem hstrands (fun b hb => State.strand_withStrand_ne _ _ _ _ hb) hregs htiles
    refine ⟨t, exec_row hnow hfind (hwrite.trans hdone), hframe.1, ?_, fun _ => ⟨?_, hops⟩, fun h => absurd hlast h⟩
    · rw [hframe.2]; exact haccs
    · rw [hframe.2]; exact lookupD_storeAt_same ..
  · obtain ⟨t, hdone, hmem, hstrands, hops⟩ := rowDone_more (q := q) (s := s.withStrand o.sid T) (o := { o with written := o.written + 1 }) hlast
    have hframe := rowFrame_of (s := s) (o := o) (v := s) (T := T) (t := t) hmem hstrands (fun _ _ => rfl) hregs htiles
    refine ⟨t, exec_row hnow hfind (hwrite.trans hdone), hframe.1, ?_, fun h => absurd h hlast, fun _ => ⟨?_, hops⟩⟩
    · rw [hframe.2]; exact haccs
    · rw [hframe.2]; exact hmark

end

theorem rowsAreWritten : RowsAreWritten := by
  intro s q n o r p hnow hfind hblock hgang hr hp old fmtR N last rightEl ints values frame
  have hid : o.id = n := by simpa using List.find?_some hfind
  refine ⟨fun ht hrows => ?_, fun hbad => ?_⟩
  · obtain ⟨t, hexec, hframe, haccs, hlast, hmore⟩ := row_writes hnow hfind hgang hr ht hrows hblock hp
    obtain ⟨hint, hf32, hf64⟩ := rowUpdate_elements o r p (s.strand o.sid).mtx.accs
    subst hid
    rw [← haccs] at hint hf32 hf64
    refine ⟨t, hexec, hframe, hint, hf32, hf64, fun hrow hN k hk => ?_, hlast, hmore⟩
    exact (congrArg (lookupD 0 · k) haccs).trans (rowUpdate_elsewhere o r p _ hrow hN hk)
  · obtain ⟨t, hexec, hframe, hself, hops⟩ := row_aborts hnow hfind hgang hr hbad
    rw [hid] at hops
    have hmark := abortedAt_mark o.acc (abortMark r.row (s.rightError o)) (gangValue o.acc 0 0 0 r.row (s.rightError o)) (s.strand o.sid)
    rw [← hself, abortMark_eq] at hmark
    have hfault := abortedAt_gangFault o.acc (abortMark r.row (s.rightError o)) (gangValue o.acc 0 0 0 r.row (s.rightError o)) (s.strand o.sid)
    rw [← hself, gangValue_alone] at hfault
    have haccs := abortedAt_accs o.acc (abortMark r.row (s.rightError o)) (gangValue o.acc 0 0 0 r.row (s.rightError o)) (s.strand o.sid)
    rw [← hself] at haccs
    exact ⟨t, hexec, hframe, haccs, hmark, hfault, hops⟩

/-- Settles O40: a row's elements are stored key by key, beside which the event counts the row or ends the operation. -/
theorem productsWrite : Obligations.ProductsWrite := ⟨rowsAreWritten, accumulatorsAreRead⟩

end Sys2Proof.Claims
end

section
/-! PROOF. O49: the checks, records and states of `colop` (R363 to R366, R376, R377). -/

namespace Sys2Proof.Claims

open Sys2Proof.Machine

/-! ## The instruction -/

/-- What `colop` is to the pipeline. -/
def colopDesc (o : OpRR) : Desc := ⟨o.st, 0, .joint, [wBoth o.a, wSrc o.b]⟩

def rightMode (op : Nat) : M Unit :=
  match colopMode op with
  | some m => needMode m
  | none => pure ()

/-- What `colop` checks before everything else. -/
def colopCheck (o : OpRR) : M Unit := do
  let w ← peekX o.a
  illIf (fieldAt w 27 5 ≠ 0 || fieldAt w 8 8 ≠ 0)
  needMode .supervisor
  rightMode (fieldAt w 0 8)

/-- The colony that an operation word names. -/
def namedColony (s : State) (w : Word) : Nat := if fieldAt w 16 11 = 0 then s.colonyOf s.cur else fieldAt w 16 11

/-- The operation of `colop` behind its sources. -/
def colopBody (a : RegNo) (w : Word) (b : Reg) : M Unit := do
  let op := fieldAt w 0 8
  let s ← get
  let id := if fieldAt w 16 11 = 0 then s.colonyOf s.cur else fieldAt w 16 11
  let colFree := [0x0E, 0x0F, 0x10, 0x12].contains op || (colopMode op).isNone
  raiseIf (s.self.mode = .supervisor && !colFree && !s.colonyOfTenant op id s.self.tid) cPerm (fieldAt w 0 32)
  let r ← colopRun op id (fieldAt w 32 32) (fieldAt w 0 32) b
  writeX a (statusWord r)

theorem colop_eq (o : OpRR) (s : State) : colop o s = runPriv (colopDesc o) (colopCheck o) (do
    let w ← readX 0 o.a
    let b ← readW 1 o.b
    colopBody o.a w b) s := rfl

theorem colop_of_row {ins : Instr} {o : OpRR} {s : State} {op : Nat} (h : Colop ins o s op) : exec ins s = colop o s := by
  rcases h with ⟨rfl, -⟩ | ⟨rfl, ⟨rfl, -⟩ | ⟨rfl, -⟩ | ⟨rfl, -⟩ | ⟨rfl, -⟩ | ⟨rfl, -⟩ | ⟨rfl, -⟩ | ⟨rfl, -⟩ | ⟨rfl, -⟩ | ⟨rfl, -⟩ | ⟨rfl, -⟩ |
    ⟨rfl, -⟩ | ⟨rfl, -⟩ | ⟨rfl, -⟩ | ⟨rfl, -⟩ | ⟨rfl, -⟩ | ⟨rfl, -⟩ | ⟨rfl, -⟩⟩ <;> rfl

/-- Some bit of the operation word that must be zero is not. -/
def ColopIll (o : OpRR) (s : State) : Prop := (x s o.a).toNat / 2 ^ 27 % 32 ≠ 0 ∨ (x s o.a).toNat / 2 ^ 8 % 256 ≠ 0

section
variable {o : OpRR} {s : State} {ins : Instr} (h : Issues s [o.a, o.b]) (hx : exec ins s = colop o s)
include h hx

theorem colop_ill (hill : ColopIll o s) : Traps ins s cIll s.self.illValue := by
  refine traps_of_priv (hx.trans (colop_eq o s)) ?_ h.1 (by decide)
  unfold colopCheck
  rw [M.bind_ok (h.peekX_run (by simp)), M.bind_error (illIf_of (by simpa [ColopIll, fieldAt_eq] using hill) s)]

omit hx in
theorem colopCheck_fine (hfine : ¬ColopIll o s) : colopCheck o s = (do needMode .supervisor; rightMode (opOf s o) : M Unit) s := by
  unfold colopCheck
  rw [M.bind_ok (h.peekX_run (by simp)), M.bind_ok (illIf_of_not (by simpa [ColopIll, fieldAt_eq] using hfine) s), fieldAt_low]
  rfl

/-- The operations that a supervisor may ask for. -/
def LowOp (op : Nat) : Prop := op = 2 ∨ op = 3 ∨ op = 4 ∨ op = 0x12

omit h hx in
theorem colopMode_low {op : Nat} (hlow : LowOp op) : colopMode op = some .supervisor := by
  rcases hlow with rfl | rfl | rfl | rfl <;> rfl

omit h hx in
theorem colopMode_high {op : Nat} (hlow : ¬LowOp op) (hlist : 1 ≤ op ∧ op ≤ 0x12) : colopMode op = some .hypervisor := by
  unfold colopMode
  rw [if_neg (by simpa [LowOp, or_assoc] using hlow), if_pos (by simpa using hlist)]

omit h hx in
theorem colopMode_other {op : Nat} (hlist : ¬(1 ≤ op ∧ op ≤ 0x12)) : colopMode op = none := by
  have hlow : ¬LowOp op := by unfold LowOp; omega
  unfold colopMode
  rw [if_neg (by simpa [LowOp, or_assoc] using hlow), if_neg (by simpa using hlist)]

theorem colop_user (hfine : ¬ColopIll o s) (hmode : s.self.mode = .user) : Traps ins s cPriv s.self.illValue :=
  traps_of_priv (hx.trans (colop_eq o s)) ((colopCheck_fine h hfine).trans (M.bind_error (needMode_low ((num_lt_supervisor _).mpr hmode))))
    h.1 (by decide)

theorem colop_low (hfine : ¬ColopIll o s) (hmode : s.self.mode = .supervisor) (hlist : 1 ≤ opOf s o ∧ opOf s o ≤ 0x12) (hlow : ¬LowOp (opOf s o)) :
    Traps ins s cPriv s.self.illValue := by
  refine traps_of_priv (hx.trans (colop_eq o s)) ((colopCheck_fine h hfine).trans ?_) h.1 (by decide)
  refine (M.bind_ok (needMode_ok ((not_congr (num_lt_supervisor _)).mpr (by rw [hmode]; decide)))).trans ?_
  unfold rightMode
  rw [colopMode_high hlow hlist]
  exact needMode_low ((num_lt_hypervisor _).mpr (by rw [hmode]; decide))

/-- The mode of the strand is one that an operation asks for. -/
def MayAsk (s : State) (op : Nat) : Prop := s.self.mode ≠ .user ∧ (s.self.mode = .hypervisor ∨ LowOp op ∨ ¬(1 ≤ op ∧ op ≤ 0x12))

omit hx in
theorem colopCheck_passes (hfine : ¬ColopIll o s) (hmay : MayAsk s (opOf s o)) : colopCheck o s = .ok () s := by
  obtain ⟨huser, hmay⟩ := hmay
  have hsuper : needMode .supervisor s = .ok () s := needMode_ok ((not_congr (num_lt_supervisor _)).mpr huser)
  refine (colopCheck_fine h hfine).trans ((M.bind_ok hsuper).trans ?_)
  unfold rightMode
  by_cases hlist : 1 ≤ opOf s o ∧ opOf s o ≤ 0x12
  · by_cases hlow : LowOp (opOf s o)
    · rw [colopMode_low hlow]
      exact hsuper
    · have hhyp : s.self.mode = .hypervisor := by simpa [hlow, hlist] using hmay
      rw [colopMode_high hlow hlist]
      exact needMode_ok ((not_congr (num_lt_hypervisor _)).mpr (not_not_intro hhyp))
  · rw [colopMode_other hlist]
    rfl

omit hx in
theorem clear_colop : s.self.Clear (colopDesc o).regs := h.clear (by simp [colopDesc, wBoth, wSrc])

omit hx in
theorem colop_sources : (do
    let w ← readX 0 o.a
    let b ← readW 1 o.b
    colopBody o.a w b : M Unit) (s.withSelf (s.self.begun (colopDesc o))) =
      colopBody o.a (x s o.a) (w s o.b) (s.withSelf (s.self.begun (colopDesc o))) := by
  rw [M.bind_ok (h.readX_begun _ 0 (by simp)), M.bind_ok (h.readW_begun _ 1 (by simp))]

/-- The operation names the colonies of its tenant, or need not. -/
def OwnColony (s : State) (o : OpRR) : Prop :=
  s.self.mode = .supervisor → (¬ ([0x0E, 0x0F, 0x10, 0x12].contains (opOf s o) || (colopMode (opOf s o)).isNone) = true) →
    s.colonyOfTenant (opOf s o) (colOf s o) s.self.tid = true

omit h hx in
theorem colopBody_begun {b : Reg} : colopBody o.a (x s o.a) b (s.withSelf (s.self.begun (colopDesc o))) = (do
    raiseIf (s.self.mode = .supervisor && !([0x0E, 0x0F, 0x10, 0x12].contains (opOf s o) || (colopMode (opOf s o)).isNone) &&
      !s.colonyOfTenant (opOf s o) (colOf s o) s.self.tid) cPerm ((x s o.a).toNat % 2 ^ 32)
    let r ← colopRun (opOf s o) (colOf s o) (argOf s o) ((x s o.a).toNat % 2 ^ 32) b
    writeX o.a (statusWord r) : M Unit) (s.withSelf (s.self.begun (colopDesc o))) := by
  have harg : fieldAt (x s o.a) 32 32 = argOf s o := fieldAt_top _ rfl
  have hcol : (if fieldAt (x s o.a) 16 11 = 0 then s.colonyOf s.cur else fieldAt (x s o.a) 16 11) = colOf s o := by
    rw [fieldAt_eq]; rfl
  unfold colopBody
  rw [M.bind_ok (M.get_run _), State.self_withSelf, harg]
  change (do
    raiseIf (s.self.mode = .supervisor && !([0x0E, 0x0F, 0x10, 0x12].contains (opOf s o) || (colopMode (opOf s o)).isNone) &&
      !s.colonyOfTenant (opOf s o) (if fieldAt (x s o.a) 16 11 = 0 then s.colonyOf s.cur else fieldAt (x s o.a) 16 11) s.self.tid) cPerm
        ((x s o.a).toNat % 2 ^ 32)
    let r ← colopRun (opOf s o) (if fieldAt (x s o.a) 16 11 = 0 then s.colonyOf s.cur else fieldAt (x s o.a) 16 11) (argOf s o)
      ((x s o.a).toNat % 2 ^ 32) b
    writeX o.a (statusWord r) : M Unit) (s.withSelf (s.self.begun (colopDesc o))) = _
  rw [hcol]

theorem colop_foreign (hfine : ¬ColopIll o s) (hmay : MayAsk s (opOf s o)) (hmode : s.self.mode = .supervisor)
    (hcol : ¬ ([0x0E, 0x0F, 0x10, 0x12].contains (opOf s o) || (colopMode (opOf s o)).isNone) = true)
    (hown : s.colonyOfTenant (opOf s o) (colOf s o) s.self.tid = false) : Traps ins s cPerm ((x s o.a).toNat % 2 ^ 32) := by
  refine traps_of_runPriv (hx.trans (colop_eq o s)) Steer.noConfusion (colopCheck_passes h hfine hmay) (clear_colop h)
    ((colop_sources h).trans (colopBody_begun.trans (M.bind_error (raiseIf_of ?_ ..)))) (by decide)
  rw [Bool.eq_false_of_not_eq_true hcol, hown, hmode]
  rfl

/-- A state that differs from another one, where the current strand is as before, in what the prologue does to that strand. -/
def Beside (s : State) (d : Desc) (u v : State) : Prop := ∃ w, u.self = wokenIf s.self w ∧ OnlySelf u (wokenIf (s.self.begun d) w) v

omit h hx in
theorem beside_of {d : Desc} {u v : State} (hself : u.self = s.self) (h : OnlySelf u (s.self.begun d) v) : Beside s d u v :=
  ⟨false, by rw [hself]; simp [wokenIf], by simpa [wokenIf] using h⟩

/-- An operation with its answer. -/
theorem colop_leads (hfine : ¬ColopIll o s) (hmay : MayAsk s (opOf s o)) (hown : OwnColony s o) {u v : State} {r n : Nat}
    (hrun : colopRun (opOf s o) (colOf s o) (argOf s o) ((x s o.a).toNat % 2 ^ 32) (w s o.b) (s.withSelf (s.self.begun (colopDesc o))) = .ok r v)
    (hbeside : Beside s (colopDesc o) u v) (hn : statusWord r = BitVec.ofNat 64 n) : Leads ins s (result u o.a n) := by
  obtain ⟨b, hu, hv⟩ := hbeside
  obtain ⟨v', hv', hself⟩ := hv.modSelf fun t => t.putW o.a.toNat (Reg.ofWord (BitVec.ofNat 64 n))
  have hbody : colopBody o.a (x s o.a) (w s o.b) (s.withSelf (s.self.begun (colopDesc o))) = .ok () v' := by
    refine colopBody_begun.trans ((M.bind_ok (raiseIf_of_not ?_ ..)).trans ((M.bind_ok hrun).trans ?_))
    · by_cases hm : s.self.mode = .supervisor
      · by_cases hc : ([0x0E, 0x0F, 0x10, 0x12].contains (opOf s o) || (colopMode (opOf s o)).isNone) = true
        · rw [hc]; simp
        · rw [hown hm hc]; simp
      · simp [hm]
    · rw [hn]; exact hv'
  unfold result
  rw [hu]
  exact leads_of_runPriv (hx.trans (colop_eq o s)) Steer.noConfusion (colopCheck_passes h hfine hmay) (clear_colop h)
    ((colop_sources h).trans hbody) hself rfl rfl rfl rfl rfl rfl

end

theorem statusWord_reason {n : Nat} (h : n ≠ 0) : statusWord n = BitVec.ofNat 64 (reason n) := if_neg h

theorem beside_begun (s : State) (d : Desc) : Beside s d s (s.withSelf (s.self.begun d)) := beside_of rfl (.begun s d)

theorem mayAsk_hypervisor {s : State} (h : s.self.mode = .hypervisor) (op : Nat) : MayAsk s op := ⟨by rw [h]; decide, .inl h⟩

theorem ownColony_hypervisor {s : State} {o : OpRR} (h : s.self.mode = .hypervisor) : OwnColony s o :=
  fun hm => absurd (h.symm.trans hm) (by decide)

/-- The operations on a colony without one. -/
theorem colopRun_none {op id arg word : Nat} {b : Reg} {v : State} (hop : 1 < op ∧ op ≠ 4 ∧ (op < 0xE ∨ op = 0x11)) (h : v.colony id = none) :
    colopRun op id arg word b v = .ok noColony v := by
  have hrun {f : Option Colony → M Nat} (hf : f none = pure noColony) : (do let s ← get; f (s.colony id) : M Nat) v = .ok noColony v := by
    refine (M.bind_ok (M.get_run v)).trans ?_
    rw [h, hf]
    rfl
  obtain ⟨hlo, hne, hhi⟩ := hop
  have hcases : op = 2 ∨ op = 3 ∨ op = 5 ∨ op = 6 ∨ op = 7 ∨ op = 8 ∨ op = 9 ∨ op = 10 ∨ op = 11 ∨ op = 12 ∨ op = 13 ∨ op = 17 := by omega
  rcases hcases with rfl | rfl | rfl | rfl | rfl | rfl | rfl | rfl | rfl | rfl | rfl | rfl
  all_goals
    refine (M.bind_ok (M.get_run v)).trans ?_
    rw [h]
    rfl

theorem colopRun_unknown {op id arg word : Nat} {b : Reg} (h : ¬(1 ≤ op ∧ op ≤ 0x12)) : colopRun op id arg word b = pure unknownOp := by
  rcases Nat.eq_zero_or_pos op with rfl | hpos
  · rfl
  · obtain ⟨n, rfl⟩ := Nat.exists_eq_add_of_le' (show 0x13 ≤ op by omega)
    rfl

theorem colonyOfTenant_iff (s : State) (op i : Nat) (h : op ≠ 4) :
    s.colonyOfTenant op i s.self.tid = true ↔ ∃ c, s.colony i = some c ∧ c.tenant = s.self.tid := by
  unfold State.colonyOfTenant
  rw [if_neg h]
  dsimp only
  cases s.colony i <;> simp

theorem colonyOfTenant_pair (s : State) (i : Nat) : s.colonyOfTenant 4 i s.self.tid = true ↔
    (∃ c, s.colony (2 * i) = some c ∧ c.tenant = s.self.tid) ∧ ∃ c, s.colony (2 * i + 1) = some c ∧ c.tenant = s.self.tid := by
  unfold State.colonyOfTenant
  rw [if_pos rfl]
  dsimp only
  cases s.colony (2 * i) <;> cases s.colony (2 * i + 1) <;> simp

theorem colopChecks : ColopChecks := by
  intro o s ins row h hrow A op low listed mine bad
  have hx := colop_of_row hrow
  have hnamed (hlow : LowOp op) (hne : op ≠ 0x12) : ¬ ([0x0E, 0x0F, 0x10, 0x12].contains op || (colopMode op).isNone) = true := by
    rw [colopMode_low hlow]
    rcases hlow with h | h | h | h <;> simp [h] at hne ⊢
  refine ⟨colop_ill h hx, fun hf hm => colop_user h hx hf hm, fun hf hm hl hlow => colop_low h hx hf hm hl hlow, fun hf hm hl => ?_,
    fun hf hm hop hmine => ?_, fun hf hm hop hmine => ?_, fun hf hm hl h1 h4 hhi hnone => ?_⟩
  · refine colop_leads h hx hf ⟨hm, .inr (.inr hl)⟩ (fun _ hc => absurd ?_ hc) (congrFun (colopRun_unknown hl) _)
      (beside_begun s _) (statusWord_reason (by decide))
    rw [colopMode_other hl]
    simp
  · have hlow : LowOp op := by rcases hop with h | h <;> simp [LowOp, h]
    exact colop_foreign h hx hf ⟨by rw [hm]; decide, .inr (.inl hlow)⟩ hm (hnamed hlow (by omega))
      (Bool.eq_false_of_not_eq_true (fun ht => hmine ((colonyOfTenant_iff s op _ (by omega)).mp ht)))
  · have hlow : LowOp op := .inr (.inr (.inl hop))
    refine colop_foreign h hx hf ⟨by rw [hm]; decide, .inr (.inl hlow)⟩ hm (hnamed hlow (by omega))
      (Bool.eq_false_of_not_eq_true fun ht => hmine ?_)
    exact (colonyOfTenant_pair s _).mp (hop ▸ ht)
  · exact colop_leads h hx hf (mayAsk_hypervisor hm _) (ownColony_hypervisor hm) (colopRun_none (by omega) hnone)
      (beside_begun s _) (statusWord_reason (by decide))

end Sys2Proof.Claims
end

section
/-! PROOF. O49, continued: the layout of a colony's record (R364). -/

namespace Sys2Proof.Claims

open Sys2Proof.Machine

/-- Bytes behind a field. -/
theorem drop_field {n k m v : Nat} (l : List Byte) (h : k = n + m) : (leBytes n v ++ l).drop k = l.drop m := by
  rw [h, ← List.drop_drop, List.drop_left' (length_leBytes n v)]

theorem skip_field {n k v : Nat} (l : List Byte) (h : n ≤ k) : (leBytes n v ++ l).drop k = l.drop (k - n) := drop_field l (by omega)

/-- The field that bytes start with. -/
theorem take_field (n v : Nat) (l : List Byte) : (leBytes n v ++ l).take n = leBytes n v :=
  List.take_left' (length_leBytes n v)

/-- The parts of a record, each in front of the next ones. -/
theorem recordOf_eq (s : State) (id : Nat) (c : Colony) : s.recordOf id c =
    leBytes 2 id ++ (leBytes 2 c.tenant.toNat ++ (leBytes 1 c.vf ++
      (leBytes 1 ((if c.hostMember then 1 else 0) + (if s.named id then 2 else 0)) ++ (leBytes 2 c.job ++ (leBytes 8 c.chan.toNat ++
        (leBytes 2 c.rings ++ (leBytes 2 c.cslots ++ (leBytes 2 c.wlq ++ (leBytes 2 c.state.code ++ (leBytes 16 c.spill.val.toNat ++
          (leBytes 16 c.save.val.toNat ++ (leBytes 8 0 ++ (List.range 8).flatMap fun r => leBytes 8 (c.budgetEntry r).toNat)))))))))))) := by
  simp only [State.recordOf, List.append_assoc]

theorem length_entries (f : Nat → Nat) (n : Nat) : ((List.range n).flatMap fun r => leBytes 8 (f r)).length = 8 * n := by
  induction n with
  | zero => rfl
  | succ n ih => rw [List.range_succ, List.flatMap_append, List.length_append, ih]; simp [length_leBytes]; omega

theorem length_recordOf (s : State) (id : Nat) (c : Colony) : (s.recordOf id c).length = 128 := by
  rw [recordOf_eq]
  simp only [List.length_append, length_leBytes, length_entries]

theorem drop_entries (f : Nat → Nat) (l : List Nat) (k : Nat) :
    (l.flatMap fun r => leBytes 8 (f r)).drop (8 * k) = (l.drop k).flatMap fun r => leBytes 8 (f r) := by
  induction l generalizing k with
  | nil => simp
  | cons r l ih =>
    cases k with
    | zero => rfl
    | succ k => rw [List.flatMap_cons, drop_field _ (show 8 * (k + 1) = 8 + 8 * k by omega), ih, List.drop_succ_cons]

/-- The low half of an entry. -/
theorem entry_take (f : Nat → Nat) {n k : Nat} (hk : k < n) :
    (((List.range n).flatMap fun r => leBytes 8 (f r)).drop (8 * k)).take 4 = leBytes 4 (f k) := by
  rw [drop_entries, List.drop_eq_getElem_cons (by rwa [List.length_range]), List.flatMap_cons, List.getElem_range]
  rfl

theorem recordOf_fields (s : State) (id : Nat) (c : Colony) : ∀ f ∈ [(0, 2, id), (2, 2, c.tenant.toNat), (4, 1, c.vf), (6, 2, c.job), (8, 8, c.chan.toNat), (16, 2, c.rings),
        (18, 2, c.cslots), (20, 2, c.wlq), (24, 16, c.spill.val.toNat), (40, 16, c.save.val.toNat), (56, 8, 0)],
      leNat (((s.recordOf id c).drop f.1).take f.2.1) = f.2.2 % 2 ^ (8 * f.2.1) := by
  intro f hf
  rw [← leNat_leBytes]
  congr 1
  rw [recordOf_eq]
  simp only [List.mem_cons, List.not_mem_nil, or_false] at hf
  rcases hf with rfl | rfl | rfl | rfl | rfl | rfl | rfl | rfl | rfl | rfl | rfl <;>
    simp only [skip_field, take_field, Nat.reduceLeDiff, Nat.reduceSub, List.drop_zero, Nat.le_refl]

theorem recordLayout : RecordLayout := by
  intro s id c r
  refine ⟨length_recordOf s id c, recordOf_fields s id c, ?_, ?_, fun k hk => ?_⟩
  · have hbytes : ((s.recordOf id c).drop 5).take 1 = leBytes 1 ((if c.hostMember then 1 else 0) + (if s.named id then 2 else 0)) := by
      rw [recordOf_eq]
      simp only [skip_field, take_field, Nat.reduceLeDiff, Nat.reduceSub, List.drop_zero, Nat.le_refl]
    rw [hbytes, leNat_leBytes]
    split_ifs <;> rfl
  · have hbytes : ((s.recordOf id c).drop 22).take 2 = leBytes 2 c.state.code := by
      rw [recordOf_eq]
      simp only [skip_field, take_field, Nat.reduceLeDiff, Nat.reduceSub, List.drop_zero, Nat.le_refl]
    rw [hbytes, leNat_leBytes]
    cases c.state <;> rfl
  · have hbytes : ((s.recordOf id c).drop (64 + 8 * k)).take 4 = leBytes 4 (c.budgetEntry k).toNat := by
      rw [← List.drop_drop, recordOf_eq]
      simp only [skip_field, Nat.reduceLeDiff, Nat.reduceSub, List.drop_zero, Nat.le_refl]
      exact entry_take (fun r => (c.budgetEntry r).toNat) hk
    rw [hbytes, leNat_leBytes]
    unfold Colony.budgetEntry
    rw [BitVec.toNat_ofNat]
    omega

end Sys2Proof.Claims
end

section
/-! PROOF. O49, continued: records and states (R362 to R366, R376, R377). -/

namespace Sys2Proof.Claims

open Sys2Proof.Machine

/-! ## The tree -/

theorem log2_div_pow (a k : Nat) : Nat.log2 (a / 2 ^ k) = Nat.log2 a - k := by
  rw [Nat.log2_eq_log_two, Nat.log2_eq_log_two, Nat.log_div_base_pow]

theorem overlaps_iff {a b : Nat} (ha : 0 < a) (hb : 0 < b) : overlaps a b = true ↔ Related a b := by
  unfold overlaps Related
  simp only [decide_eq_true_eq, Nat.shiftRight_eq_div_pow, ha, hb, true_and]
  constructor
  · intro h
    rcases Nat.le_total (Nat.log2 a) (Nat.log2 b) with hle | hle
    · rw [Nat.min_eq_left hle, Nat.sub_self, Nat.pow_zero, Nat.div_one] at h
      exact ⟨_, .inr h.symm⟩
    · rw [Nat.min_eq_right hle, Nat.sub_self, Nat.pow_zero, Nat.div_one] at h
      exact ⟨_, .inl h⟩
  · have hlog {a b k : Nat} (hb : 0 < b) (h : a / 2 ^ k = b) : Nat.log2 b = Nat.log2 a - k ∧ k ≤ Nat.log2 a := by
      refine ⟨by rw [← h, log2_div_pow], ?_⟩
      have hpos : a / 2 ^ k ≠ 0 := by omega
      have hle : 2 ^ k ≤ a := by
        by_contra hlt
        exact hpos (Nat.div_eq_of_lt (by omega))
      rw [Nat.le_log2 (by have := Nat.two_pow_pos k; omega)]
      exact hle
    rintro ⟨k, h | h⟩
    · obtain ⟨hlog, hle⟩ := hlog hb h
      rw [hlog, Nat.min_eq_right (Nat.sub_le ..), Nat.sub_self, Nat.pow_zero, Nat.div_one, show Nat.log2 a - (Nat.log2 a - k) = k by omega, h]
    · obtain ⟨hlog, hle⟩ := hlog ha h
      rw [hlog, Nat.min_eq_left (Nat.sub_le ..), Nat.sub_self, Nat.pow_zero, Nat.div_one, show Nat.log2 b - (Nat.log2 b - k) = k by omega, h]

theorem overlaps_zero {b : Nat} (hb : 0 < b) : overlaps 0 b = false := by
  have hone : b / 2 ^ Nat.log2 b ≠ 0 := by
    rw [Nat.log2_eq_log_two]
    exact Nat.ne_of_gt (Nat.div_pos (Nat.pow_log_le_self 2 (by omega)) (Nat.two_pow_pos _))
  unfold overlaps
  simp only [Nat.shiftRight_eq_div_pow, Nat.zero_div, show Nat.log2 0 = 0 from by rw [Nat.log2_zero], Nat.zero_min, Nat.sub_zero]
  exact decide_eq_false fun h => hone h.symm

/-- The conditions of R365 hold exactly where a record fits. -/
theorem conflicts_false {s : State} {id : Nat} {tenant : BitVec 12} {chan : BitVec 64} {without : List Nat} (hid : 0 < id) :
    s.conflicts id tenant chan without = false ↔ Fits s id tenant chan without := by
  unfold State.conflicts Fits
  rw [List.any_eq_false]
  refine forall_congr' fun e => forall_congr' fun _ => ?_
  obtain ⟨i, c⟩ := e
  cases c with
  | none => simp
  | some c =>
    have hover : overlaps i id = true ↔ Related i id := by
      rcases Nat.eq_zero_or_pos i with rfl | hi
      · rw [overlaps_zero hid]
        simp [Related]
      · exact overlaps_iff hi hid
    have hall : (∀ c', some c = some c' → i ≠ id → i ∉ without → (c'.tenant = tenant ∨ c'.chan &&& chan = 0) ∧
        (Related i id → s.named i = true ∧ s.named id = true)) ↔ (i ≠ id → i ∉ without → (c.tenant = tenant ∨ c.chan &&& chan = 0) ∧
        (Related i id → s.named i = true ∧ s.named id = true)) := by simp
    refine Iff.trans ?_ hall.symm
    rw [← hover]
    simp only [ne_eq, decide_not, Bool.and_eq_true, Bool.not_eq_true', decide_eq_false_iff_not, Bool.or_eq_true, Bool.and_eq_false_iff,
      List.contains_eq_mem, decide_eq_true_eq, not_and, not_or, Bool.not_eq_false, not_not]
    tauto

/-! ## Whether a colony is idle -/

section
variable {s : State} {d : Desc} {id : Nat} {c : Colony}

/-- The rings bound to a colony. -/
def boundRings (s : State) (id : Nat) : List Ring := s.units.rings.filterMap fun e => match e.2 with
  | some r => if r.colony = id then some r else none
  | none => none

theorem boundRings_nil (h : RingFree s id) : boundRings s id = [] := by
  unfold boundRings
  rw [List.filterMap_eq_nil_iff]
  intro e he
  cases hr : e.2 with
  | none => rfl
  | some r => exact if_neg (h e he r hr)

theorem pendingRings_run (h : RingFree s id) : pendingRings id s = .ok false s := by
  have hread : (boundRings s id).mapM ringPending s = .ok [] s := by
    rw [boundRings_nil h]
    rfl
  exact (M.bind_ok (M.get_run s)).trans ((M.bind_ok hread).trans rfl)

theorem colonyIdle_run (h : RingFree s id) : colonyIdle id c s = .ok (c.state = .idle && (s.colonyStrands id).isEmpty && s.heldSlots id = 0 &&
    s.heldCopies id = 0 && !(s.units.launches.any fun l => l.colony = id)) s := by
  refine (M.bind_ok (M.get_run s)).trans ((M.bind_ok (pendingRings_run h)).trans ?_)
  rw [Bool.not_false, Bool.and_true]
  rfl

theorem colonyIdle_idle (h : IdleColony s id c) : colonyIdle id c s = .ok true s := by
  obtain ⟨hstate, hstrands, hslots, hcopies, hlaunch, hrings⟩ := h
  have hany : (s.units.launches.any fun l => l.colony = id) = false := by simpa using hlaunch
  rw [colonyIdle_run hrings, hstate, hstrands, hslots, hcopies, hany]
  rfl

theorem colonyIdle_busy (h : c.state ≠ .idle) (hrings : RingFree s id) : colonyIdle id c s = .ok false s := by
  rw [colonyIdle_run hrings, decide_eq_false h]
  rfl

variable (hmode : s.self.mode = .hypervisor)
include hmode

theorem begun_ne_idle (d : Desc) : s.self.begun d ≠ Strand.idle := fun h => by
  have : (s.self.begun d).mode = .user := by rw [h]; rfl
  rw [show (s.self.begun d).mode = s.self.mode from rfl, hmode] at this
  cases this

theorem mem_colonyStrands_begun (u : State) (hu : u.strands = s.strands) (hcur : u.cur = s.cur) {b : Nat} :
    b ∈ (u.withSelf (s.self.begun d)).colonyStrands id ↔ b ∈ u.colonyStrands id := by
  have hself : u.self = s.self := by unfold State.self State.strand; rw [hu, hcur]
  have hrun : b ∈ (u.withSelf (s.self.begun d)).running ↔ b ∈ u.running :=
    mem_running_withStrand (s := u) (by change _ = u.self.live; rw [hself]; rfl) (.inr (begun_ne_idle hmode d))
  unfold State.colonyStrands
  rw [List.mem_filter, List.mem_filter, hrun]
  rfl

theorem IdleColony.begun (h : IdleColony s id c) : IdleColony (s.withSelf (s.self.begun d)) id c := by
  obtain ⟨hstate, hstrands, hslots, hcopies, hlaunch, hrings⟩ := h
  refine ⟨hstate, ?_, hslots, hcopies, hlaunch, hrings⟩
  refine List.eq_nil_iff_forall_not_mem.mpr fun b hb => ?_
  rw [mem_colonyStrands_begun hmode s rfl rfl, hstrands] at hb
  exact List.not_mem_nil hb

end

/-! ## Records -/

section
variable {o : OpRR} {s : State} {ins : Instr} {op : Nat} (h : Hyper ins o s op)
include h

/-- An operation of a hypervisor leads to its answer. -/
theorem hyper_leads {u v : State} {r n : Nat} (hrun : colopRun op (colOf s o) (argOf s o) ((x s o.a).toNat % 2 ^ 32) (w s o.b)
      (s.withSelf (s.self.begun (colopDesc o))) = .ok r v) (hbeside : Beside s (colopDesc o) u v) (hn : statusWord r = BitVec.ofNat 64 n) :
    Leads ins s (result u o.a n) := by
  obtain ⟨hissue, hrow, hop, hhi, hlo, hmode⟩ := h
  have hfine : ¬ColopIll o s := by
    rintro (h | h)
    · exact h hhi
    · exact h hlo
  exact colop_leads hissue (colop_of_row hrow) hfine (mayAsk_hypervisor hmode _) (ownColony_hypervisor hmode) (hop.symm ▸ hrun) hbeside hn

/-- An operation that is refused with a reason. -/
theorem hyper_refuses {r : Nat} (hr : r ≠ 0) (hrun : colopRun op (colOf s o) (argOf s o) ((x s o.a).toNat % 2 ^ 32) (w s o.b)
      (s.withSelf (s.self.begun (colopDesc o))) = .ok r (s.withSelf (s.self.begun (colopDesc o)))) : Leads ins s (result s o.a (reason r)) :=
  hyper_leads h hrun (beside_begun s _) (statusWord_reason hr)

/-- An operation that does its part beside the strands. -/
theorem hyper_acts {f : State → State} (hself : (f s).self = s.self) (hf : ∀ r, f (s.withSelf r) = (f s).withSelf r)
    (hrun : colopRun op (colOf s o) (argOf s o) ((x s o.a).toNat % 2 ^ 32) (w s o.b) (s.withSelf (s.self.begun (colopDesc o))) =
      .ok okStatus (f (s.withSelf (s.self.begun (colopDesc o))))) : Leads ins s (result (f s) o.a 0) := by
  rw [hf] at hrun
  exact hyper_leads h hrun (beside_of hself ((OnlySelf.refl (f s)).withSelf _)) rfl

end

/-! ### What each operation does -/

section
variable {v : State} {id : Nat} {c : Colony}

theorem colopRelease_run (hc : v.colony id = some c) (hheld : c.state = .held) :
    colopRelease id v = .ok okStatus (v.withColony id (some { c with state := if c.hasImage then .saved else .idle })) := by
  refine (M.bind_ok (M.get_run v)).trans ?_
  rw [hc]
  exact (congrFun (if_neg (not_not_intro hheld)) v).trans rfl

theorem colopRelease_refused (hc : v.colony id = some c) (hheld : c.state ≠ .held) : colopRelease id v = .ok wrongState v := by
  refine (M.bind_ok (M.get_run v)).trans ?_
  rw [hc]
  exact congrFun (if_pos hheld) v

theorem onIdle_idle (hc : v.colony id = some c) (hidle : IdleColony v id c) (act : Colony → M Nat) : onIdle id act v = act c v := by
  refine (M.bind_ok (M.get_run v)).trans ?_
  rw [hc]
  refine (M.bind_ok (colonyIdle_idle hidle)).trans ?_
  rw [if_pos rfl]

theorem onIdle_busy (hc : v.colony id = some c) (hbusy : c.state ≠ .idle) (hrings : RingFree v id) (act : Colony → M Nat) :
    onIdle id act v = .ok wrongState v := by
  refine (M.bind_ok (M.get_run v)).trans ?_
  rw [hc]
  refine (M.bind_ok (colonyIdle_busy hbusy hrings)).trans ?_
  rw [if_neg (by decide)]
  rfl

theorem colopSplit_refused (hc : v.colony id = some c) (hno : c.state ≠ .idle ∨ 1024 ≤ id) (hrings : RingFree v id) :
    colopSplit id v = .ok wrongState v := by
  refine (M.bind_ok (M.get_run v)).trans ?_
  rw [hc]
  refine (M.bind_ok (colonyIdle_run hrings)).trans ?_
  rw [if_pos]
  · rfl
  · rcases hno with h | h <;> simp [h]

theorem colopSplit_run (hc : v.colony id = some c) (hidle : IdleColony v id c) (hid : id < 1024) (hpos : 1 ≤ id)
    (hl : v.colony (2 * id) = none) (hr : v.colony (2 * id + 1) = none) (hfl : Fits v (2 * id) c.tenant c.chan [id])
    (hfr : Fits v (2 * id + 1) c.tenant 0 [id]) :
    colopSplit id v = .ok okStatus (((v.withColony id none).withColony (2 * id) (some (c.half true))).withColony (2 * id + 1) (some (c.half false))) := by
  refine (M.bind_ok (M.get_run v)).trans ?_
  rw [hc]
  refine (M.bind_ok (colonyIdle_idle hidle)).trans ?_
  rw [if_neg (by simpa using hid), if_neg]
  · rfl
  · rw [(conflicts_false (by omega)).mpr hfl, (conflicts_false (by omega)).mpr hfr, hl, hr]
    decide

/-- Quotas halved. -/
theorem half_alloc (c : Colony) (left : Bool) {k : Nat} (hk : k < 8) : (c.half left).allocOf k =
    if c.allocOf k = unlimited then unlimited else if left then (c.allocOf k + 1) / 2 else c.allocOf k / 2 := by
  have halloc := lookupD_foldl_storeAt unlimited (fun r => if c.allocOf r = unlimited then unlimited else
    if left then (c.allocOf r + 1) / 2 else c.allocOf r / 2) (fun _ => false) 8 k
  rw [if_pos ⟨hk, rfl⟩] at halloc
  exact halloc

variable {l r : Colony}

theorem colopMerge_refused (hl : v.colony (2 * id) = some l) (hr : v.colony (2 * id + 1) = some r) (hno : l.state ≠ .idle ∨ r.state ≠ .idle)
    (hrl : RingFree v (2 * id)) (hrr : RingFree v (2 * id + 1)) : colopMerge id v = .ok wrongState v := by
  refine (M.bind_ok (M.get_run v)).trans ?_
  rw [hl, hr]
  refine (M.bind_ok (colonyIdle_run hrl)).trans ((M.bind_ok (colonyIdle_run hrr)).trans ?_)
  rw [if_pos]
  · rfl
  · rcases hno with h | h <;> simp [h]

theorem colopMerge_run (hl : v.colony (2 * id) = some l) (hr : v.colony (2 * id + 1) = some r) (hil : IdleColony v (2 * id) l)
    (hir : IdleColony v (2 * id + 1) r) : colopMerge id v = (if l.tenant ≠ r.tenant then pure otherTenant
      else if (v.colony id).isSome || v.conflicts id l.tenant (l.chan ||| r.chan) [2 * id, 2 * id + 1] then pure overlapping
      else do
        putColony (2 * id) none
        putColony (2 * id + 1) none
        putColony id (some (l.joined r))
        pure okStatus : M Nat) v := by
  refine (M.bind_ok (M.get_run v)).trans ?_
  rw [hl, hr]
  exact (M.bind_ok (colonyIdle_idle hil)).trans ((M.bind_ok (colonyIdle_idle hir)).trans rfl)

/-- Quotas joined. -/
theorem joined_alloc (l r : Colony) {k : Nat} (hk : k < 8) : (l.joined r).allocOf k =
    if l.allocOf k = unlimited ∨ r.allocOf k = unlimited then unlimited else min (l.allocOf k + r.allocOf k) 0xFFFFFFFE := by
  have halloc := lookupD_foldl_storeAt unlimited (fun i => if l.allocOf i = unlimited || r.allocOf i = unlimited then unlimited
      else min (l.allocOf i + r.allocOf i) 0xFFFFFFFE) (fun _ => false) 8 k
  rw [if_pos ⟨hk, rfl⟩] at halloc
  refine Eq.trans halloc ?_
  simp only [Bool.or_eq_true, decide_eq_true_eq]

end

/-! ### Configuring and reading -/

section
variable {s v : State} {c : Reg} {n a : Nat}

theorem DirectOwn.direct {b : Nat} (h : DirectOwn s b) : Direct b := by
  rcases h with ⟨o, hp, -⟩ | h
  · exact .inl ⟨_, _, hp⟩
  · exact .inr h

/-- One piece of a range that is written. -/
def blockPiece (c : Reg) (bs : List Byte) (m : Manner) (e : Nat × Nat × Nat × Word) (_ : PUnit) : M (ForInStep PUnit) := do
  storeBytes e.1 e.2.2.1 ((bs.drop (e.1 - Cap.cursor c.val)).take e.2.1) false m e.2.2.2 (Cap.tenant c.val)
  pure (.yield ⟨⟩)

variable (hid : v.self.identity = s.self.identity) (hcur : v.cur = s.cur) (htlb : v.tlb = s.tlb) (hpkg : v.pkg = s.pkg) (hpos : 0 < n)
variable (hpart : NoPartials v) (hbad : ∀ b, v.badAt b = s.badAt b)
include hid hcur htlb hpkg hpos hpart hbad

theorem Block.read (h : Block s c Cap.ld n a) (m : Manner) : readRange c n m v = .ok (v.bytesAt a n) v := by
  obtain ⟨⟨e, hopen⟩, hpage, -, hall⟩ := h
  exact readRange_direct hid hcur htlb hpkg hopen hpos hpage (hall 0 hpos).1.direct hpart
    (firstBad_none fun i hi => (hbad _).trans (hall i hi).2)

theorem Block.write {bs : List Byte} (hn : bs.length = n) (h : Block s c Cap.st n a) :
    writeRange c bs Manner.plain 1 v = .ok () (v.homePut a bs) := by
  obtain ⟨⟨e, hcheck, p, hmaps, hp, rfl, hm⟩, hpage, -, hall⟩ := h
  have hown : DirectOwn s (localOf p) := (hall 0 hpos).1
  have hcap : checkCap c Cap.st [Cap.kMemory] n v = .ok () v := by
    rw [checkCap_run hid, checkOutcome, hcheck]
  have hpiece : (bs.drop (Cap.cursor c.val - Cap.cursor c.val)).take n = bs := by
    rw [Nat.sub_self, List.drop_zero, ← hn, List.take_length]
  have hstore : blockPiece c bs Manner.plain (Cap.cursor c.val, n, p, e) ⟨⟩ v = .ok (.yield ⟨⟩) (v.homePut (localOf p) bs) := by
    refine M.bind_ok (a := ()) ?_
    dsimp only
    rw [hpiece, storeBytes_local (hp.trans hpkg.symm) rfl hm, storeLocal_direct hown hcur hpart]
    rfl
  unfold writeRange
  rw [hn, M.bind_ok hcap, M.bind_ok (translatePages_one hpos hpage (translate_run hcur htlb hmaps)), M.bind_ok (ordRelease_run ..)]
  have hloop : forIn [(Cap.cursor c.val, n, p, e)] PUnit.unit (blockPiece c bs Manner.plain) v = .ok ⟨⟩ (v.homePut (localOf p) bs) := by
    rw [List.forIn_cons]
    exact M.bind_ok hstore
  exact M.bind_ok hloop

end

/-! ### The record that is configured -/

/-- A field of record bytes. -/
def recField (bs : List Byte) (off n : Nat) : Nat := leNat ((bs.drop off).take n)

/-- The colony that well-formed record bytes describe. -/
def described (bs : List Byte) : Colony :=
  let alloc : SMap Nat := (List.range 8).foldl (fun m r => storeAt unlimited r (recField bs (64 + 8 * r) 4) m) []
  { Colony.first with
    tenant := BitVec.ofNat 12 (recField bs 2 2), vf := recField bs 4 1, hostMember := recField bs 5 1 % 2 = 1, job := recField bs 6 2
    chan := BitVec.ofNat 64 (recField bs 8 8), rings := recField bs 16 2, cslots := recField bs 18 2, wlq := recField bs 20 2
    spill := Reg.zero, save := Reg.zero, alloc := alloc, rem := alloc.map fun e => (e.1, (e.2 : Int)) }

theorem parseRecord_none {id : Nat} {bs : List Byte} (h : recField bs 0 2 ≠ id ∨ 4096 ≤ recField bs 2 2 ∨ 63 < recField bs 4 1) :
    parseRecord id bs = none := by
  unfold parseRecord
  dsimp only
  split
  · refine if_pos ?_
    unfold recField at h
    simp only [ne_eq, decide_not, Bool.or_eq_true, Bool.not_eq_true', decide_eq_false_iff_not, decide_eq_true_eq]
    omega
  · rfl

theorem parseRecord_some {id : Nat} {bs : List Byte} (hid : recField bs 0 2 = id) (hlo : 1 ≤ id) (hhi : id < 2048) (ht : recField bs 2 2 < 4096)
    (hvf : recField bs 4 1 ≤ 63) (hflags : recField bs 5 1 < 4) (hspill : recField bs 24 16 = 0) (hsave : recField bs 40 16 = 0) :
    parseRecord id bs = some (described bs) := by
  have hcap : Machine.recordCap 0 = some Reg.zero := rfl
  unfold recField at hspill hsave
  unfold parseRecord
  dsimp only
  rw [hspill, hsave, hcap]
  refine (if_neg ?_).trans rfl
  unfold recField at hid ht hvf hflags
  simp only [hid, ne_eq, not_true, decide_false, Bool.false_or, Bool.or_eq_true, decide_eq_true_eq]
  omega

theorem described_alloc (bs : List Byte) {k : Nat} (hk : k < 8) : (described bs).allocOf k = recField bs (64 + 8 * k) 4 := by
  have halloc := lookupD_foldl_storeAt unlimited (fun r => recField bs (64 + 8 * r) 4) (fun _ => false) 8 k
  rw [if_pos ⟨hk, rfl⟩] at halloc
  exact halloc

/-- A record that no colony had before. -/
def freshRecord (c : Colony) : Colony := { c with hostArrived := 0, hostPhases := [], scout := [], log := none }

section
variable {v : State} {id : Nat} {b : Reg} {bs : List Byte}

theorem colopConfigure_malformed (hread : readRange b 128 Manner.plain v = .ok bs v) (hparse : parseRecord id bs = none) :
    colopConfigure id b v = .ok malformed v := by
  refine (M.bind_ok hread).trans ((M.bind_ok (M.get_run v)).trans ?_)
  rw [hparse]
  rfl

theorem colopConfigure_new (hread : readRange b 128 Manner.plain v = .ok bs v) {new : Colony} (hparse : parseRecord id bs = some new)
    (hnone : v.colony id = none) : colopConfigure id b v = (if v.conflicts id new.tenant new.chan [] then pure overlapping
      else if v.overQuota id new then pure overQuotaReason
      else do
        putColony id (some (freshRecord new))
        pure okStatus : M Nat) v := by
  refine (M.bind_ok hread).trans ((M.bind_ok (M.get_run v)).trans ?_)
  rw [hparse, hnone]
  rfl

/-- What the other colonies hold of a quota. -/
def othersHold (s : State) (id : Nat) (f : Colony → Nat) : Nat := (s.units.colonies.map fun e => match e.2 with
  | some x => if e.1 = id then 0 else f x
  | none => 0).sum

theorem overQuota_eq (s : State) (id : Nat) (c : Colony) : s.overQuota id c = (decide (256 < othersHold s id (·.rings) + c.rings) ||
    decide (32768 < othersHold s id (·.cslots) + c.cslots) || decide (2048 < othersHold s id (·.wlq) + c.wlq)) := rfl

theorem overQuota_of {c : Colony} (h : 256 < c.rings ∨ 32768 < c.cslots ∨ 2048 < c.wlq) : v.overQuota id c = true := by
  rw [overQuota_eq]
  simp only [Bool.or_eq_true, decide_eq_true_eq]
  omega

theorem othersHold_alone (hall : ∀ e ∈ v.units.colonies, e.2 = none) (f : Colony → Nat) : othersHold v id f = 0 := by
  unfold othersHold
  rw [List.sum_eq_zero_iff]
  intro n hn
  obtain ⟨e, he, rfl⟩ := List.mem_map.mp hn
  rw [hall e he]

theorem overQuota_alone {c : Colony} (hall : ∀ e ∈ v.units.colonies, e.2 = none) (hr : c.rings ≤ 256) (hc : c.cslots ≤ 32768) (hw : c.wlq ≤ 2048) :
    v.overQuota id c = false := by
  rw [overQuota_eq, othersHold_alone hall, othersHold_alone hall, othersHold_alone hall]
  simp only [Nat.zero_add, Bool.or_eq_false_iff, decide_eq_false_iff_not]
  omega

theorem conflicts_alone (hall : ∀ e ∈ v.units.colonies, e.2 = none) (t : BitVec 12) (chan : BitVec 64) : v.conflicts id t chan [] = false := by
  unfold State.conflicts
  rw [List.any_eq_false]
  intro e he
  rw [hall e he]
  exact Bool.false_ne_true

end

theorem recField_bytesAt (s : State) (a : Nat) {off n : Nat} (h : off + n ≤ 128) : recField (s.bytesAt a 128) off n = leNat (s.bytesAt (a + off) n) := by
  unfold recField
  rw [show 128 = off + (n + (128 - off - n)) by omega, drop_bytesAt, take_bytesAt]

end Sys2Proof.Claims
end

section
/-! PROOF. O49, continued: the statement on records (R363 to R366). -/

namespace Sys2Proof.Claims

open Sys2Proof.Machine

section
variable {o : OpRR} {s : State} {ins : Instr} {op : Nat}

theorem described_tenant (bs : List Byte) : (described bs).tenant = BitVec.ofNat 12 (recField bs 2 2) := rfl

theorem described_chan (bs : List Byte) : (described bs).chan = BitVec.ofNat 64 (recField bs 8 8) := rfl

theorem described_hostMember (bs : List Byte) : (described bs).hostMember = decide (recField bs 5 1 % 2 = 1) := rfl

theorem configure_clauses {a : Nat} (h : Hyper ins o s 1) (hb : Block s (w s o.b) Cap.ld 128 a) :
    let id := colOf s o
    let f := fun (off n : Nat) => leNat (s.bytesAt (a + off) n)
    let formed := f 0 2 = id ∧ 1 ≤ id ∧ id < 2048 ∧ f 2 2 < 4096 ∧ f 4 1 ≤ 63 ∧ f 5 1 < 4 ∧ f 24 16 = 0 ∧ f 40 16 = 0
    let fits := Fits s id (BitVec.ofNat 12 (f 2 2)) (BitVec.ofNat 64 (f 8 8)) []
    (f 0 2 ≠ id ∨ 4096 ≤ f 2 2 ∨ 63 < f 4 1 → Leads ins s (result s o.a (reason 5))) ∧
    (formed → s.colony id = none → ¬fits → Leads ins s (result s o.a (reason 3))) ∧
    (formed → s.colony id = none → fits → 256 < f 16 2 ∨ 32768 < f 18 2 ∨ 2048 < f 20 2 →
      Leads ins s (result s o.a (reason 4))) ∧
    (formed → s.colony id = none → (∀ e ∈ s.units.colonies, e.2 = none) → f 16 2 ≤ 256 → f 18 2 ≤ 32768 → f 20 2 ≤ 2048 →
      ∃ c : Colony, Leads ins s (result (s.withColony id (some c)) o.a 0) ∧ c.state = .idle ∧ c.tenant.toNat = f 2 2 ∧ c.vf = f 4 1 ∧
        c.hostMember = decide (f 5 1 % 2 = 1) ∧ c.job = f 6 2 ∧ c.chan.toNat = f 8 8 ∧ c.rings = f 16 2 ∧ c.cslots = f 18 2 ∧
        c.wlq = f 20 2 ∧ c.spill = Reg.zero ∧ c.save = Reg.zero ∧ ∀ r < 8, c.allocOf r = f (64 + 8 * r) 4) := by
  intro id f formed fits
  have hf (off n : Nat) (hin : off + n ≤ 128) : recField (s.bytesAt a 128) off n = f off n := recField_bytesAt s a hin
  have hread : readRange (w s o.b) 128 Manner.plain (s.withSelf (s.self.begun (colopDesc o))) =
      .ok (s.bytesAt a 128) (s.withSelf (s.self.begun (colopDesc o))) :=
    hb.read (identity_begun _) rfl rfl rfl (by decide) hb.2.2.1 (fun _ => rfl) _
  have hrefuse {r : Nat} (hr : r ≠ 0) (hrun : colopConfigure id (w s o.b) (s.withSelf (s.self.begun (colopDesc o))) =
      .ok r (s.withSelf (s.self.begun (colopDesc o)))) : Leads ins s (result s o.a (reason r)) := hyper_refuses h hr hrun
  have hparse (hform : formed) : parseRecord id (s.bytesAt a 128) = some (described (s.bytesAt a 128)) := by
    obtain ⟨h1, h2, h3, h4, h5, h6, h7, h8⟩ := hform
    rw [← hf _ _ (by decide)] at h1 h4 h5 h6 h7 h8
    exact parseRecord_some h1 h2 h3 h4 h5 h6 h7 h8
  have hconf (hform : formed) : (s.withSelf (s.self.begun (colopDesc o))).conflicts id (described (s.bytesAt a 128)).tenant
      (described (s.bytesAt a 128)).chan [] = false ↔ fits := by
    have hfits := conflicts_false (s := s) (tenant := (described (s.bytesAt a 128)).tenant) (chan := (described (s.bytesAt a 128)).chan)
      (without := []) hform.2.1
    refine Iff.trans ?_ (hfits.trans ?_)
    · exact Iff.rfl
    · unfold described
      dsimp only
      rw [hf 2 2 (by decide), hf 8 8 (by decide)]
  refine ⟨fun hbad => ?_, fun hform hnone hno => ?_, fun hform hnone hfit hquota => ?_, fun hform hnone hall hr hc hw => ?_⟩
  · refine hrefuse (by decide) (colopConfigure_malformed hread (parseRecord_none ?_))
    rwa [hf 0 2 (by decide), hf 2 2 (by decide), hf 4 1 (by decide)]
  · refine hrefuse (r := overlapping) (by decide) ((colopConfigure_new hread (hparse hform) hnone).trans ?_)
    rw [if_pos (Bool.eq_true_of_not_eq_false fun hc => hno ((hconf hform).mp hc))]
    rfl
  · refine hrefuse (r := overQuotaReason) (by decide) ((colopConfigure_new hread (hparse hform) hnone).trans ?_)
    rw [(hconf hform).mpr hfit, if_neg (by decide), if_pos (overQuota_of ?_)]
    · rfl
    · rwa [← hf 16 2 (by decide), ← hf 18 2 (by decide), ← hf 20 2 (by decide)] at hquota
  · have hrings : (described (s.bytesAt a 128)).rings = f 16 2 := hf 16 2 (by decide)
    have hslots : (described (s.bytesAt a 128)).cslots = f 18 2 := hf 18 2 (by decide)
    have hwlq : (described (s.bytesAt a 128)).wlq = f 20 2 := hf 20 2 (by decide)
    have hrun : colopConfigure id (w s o.b) (s.withSelf (s.self.begun (colopDesc o))) = .ok okStatus
        ((s.withSelf (s.self.begun (colopDesc o))).withColony id (some (freshRecord (described (s.bytesAt a 128))))) := by
      refine (colopConfigure_new hread (hparse hform) hnone).trans ?_
      have hconflict := conflicts_alone (v := s.withSelf (s.self.begun (colopDesc o))) (id := id) hall
        (described (s.bytesAt a 128)).tenant (described (s.bytesAt a 128)).chan
      have hquota := overQuota_alone (v := s.withSelf (s.self.begun (colopDesc o))) (id := id) (c := described (s.bytesAt a 128)) hall
        (hrings ▸ hr) (hslots ▸ hc) (hwlq ▸ hw)
      rw [hconflict, if_neg (by decide), hquota, if_neg (by decide)]
      rfl
    have htenant : (described (s.bytesAt a 128)).tenant.toNat = f 2 2 := by
      rw [described_tenant, hf 2 2 (by decide), BitVec.toNat_ofNat, Nat.mod_eq_of_lt hform.2.2.2.1]
    have hchan : (described (s.bytesAt a 128)).chan.toNat = f 8 8 := by
      rw [described_chan, hf 8 8 (by decide), BitVec.toNat_ofNat, Nat.mod_eq_of_lt (bytesAt_lt s (a + 8) 8)]
    have hhost : (described (s.bytesAt a 128)).hostMember = decide (f 5 1 % 2 = 1) := by
      rw [described_hostMember, hf 5 1 (by decide)]
    have hvf : (described (s.bytesAt a 128)).vf = f 4 1 := hf 4 1 (by decide)
    have hjob : (described (s.bytesAt a 128)).job = f 6 2 := hf 6 2 (by decide)
    have halloc (r : Nat) (hr : r < 8) : (described (s.bytesAt a 128)).allocOf r = f (64 + 8 * r) 4 :=
      (described_alloc (s.bytesAt a 128) hr).trans (hf _ 4 (by omega))
    have hshape : (described (s.bytesAt a 128)).state = .idle ∧ (described (s.bytesAt a 128)).spill = Reg.zero ∧
        (described (s.bytesAt a 128)).save = Reg.zero := ⟨rfl, rfl, rfl⟩
    generalize described (s.bytesAt a 128) = new at *
    exact ⟨freshRecord new, hyper_acts (f := fun s => s.withColony id (some (freshRecord new))) h rfl (fun _ => rfl) hrun, hshape.1, htenant, hvf,
      hhost, hjob, hchan, hrings, hslots, hwlq, hshape.2.1, hshape.2.2, halloc⟩

theorem read_clause {c : Colony} {a : Nat} (h : Hyper ins o s 2) (hc : s.colony (colOf s o) = some c) (hb : Block s (w s o.b) Cap.st 128 a) :
    Leads ins s (result (s.homePut a (s.recordOf (colOf s o) c)) o.a 0) := by
  have hwrite := hb.write (v := s.withSelf (s.self.begun (colopDesc o))) (identity_begun _) rfl rfl rfl (by decide) hb.2.2.1 (fun _ => rfl)
    (length_recordOf s (colOf s o) c)
  have hrun : colopRead (colOf s o) (w s o.b) (s.withSelf (s.self.begun (colopDesc o))) =
      .ok okStatus ((s.withSelf (s.self.begun (colopDesc o))).homePut a (s.recordOf (colOf s o) c)) := by
    refine (M.bind_ok (M.get_run _)).trans ?_
    rw [show (s.withSelf (s.self.begun (colopDesc o))).colony (colOf s o) = some c from hc]
    exact (M.bind_ok hwrite).trans rfl
  refine hyper_leads h hrun ?_ rfl
  exact (keeps2_homePut a (s.recordOf (colOf s o) c) (Twin.begun s (colopDesc o))).onlySelf

theorem split_clauses {c : Colony} (h : Hyper ins o s 3) (hc : s.colony (colOf s o) = some c) :
    let id := colOf s o
    (c.state ≠ .idle ∨ 1024 ≤ id → RingFree s id → Leads ins s (result s o.a (reason 2))) ∧
    (IdleColony s id c → id < 1024 → 1 ≤ id → s.colony (2 * id) = none → s.colony (2 * id + 1) = none →
      Fits s (2 * id) c.tenant c.chan [id] → Fits s (2 * id + 1) c.tenant 0 [id] →
      Leads ins s (result (((s.withColony id none).withColony (2 * id) (some (c.half true))).withColony (2 * id + 1) (some (c.half false))) o.a 0)) := by
  intro id
  refine ⟨fun hno hr => hyper_refuses (r := wrongState) h (by decide) (colopSplit_refused hc hno hr), fun hi hlt hpos hl hr hfl hfr => ?_⟩
  exact hyper_acts (f := fun s => ((s.withColony id none).withColony (2 * id) (some (c.half true))).withColony (2 * id + 1) (some (c.half false)))
    h rfl (fun _ => rfl) (colopSplit_run hc (hi.begun h.2.2.2.2.2) hlt hpos hl hr hfl hfr)

theorem merge_clauses {l r : Colony} (h : Hyper ins o s 4) :
    let id := colOf s o
    s.colony (2 * id) = some l → s.colony (2 * id + 1) = some r →
    (l.state ≠ .idle ∨ r.state ≠ .idle → RingFree s (2 * id) → RingFree s (2 * id + 1) → Leads ins s (result s o.a (reason 2))) ∧
    (IdleColony s (2 * id) l → IdleColony s (2 * id + 1) r → l.tenant ≠ r.tenant → Leads ins s (result s o.a (reason 6))) ∧
    (IdleColony s (2 * id) l → IdleColony s (2 * id + 1) r → l.tenant = r.tenant → s.colony id = none →
      Fits s id l.tenant (l.chan ||| r.chan) [2 * id, 2 * id + 1] →
      Leads ins s (result (((s.withColony (2 * id) none).withColony (2 * id + 1) none).withColony id (some (l.joined r))) o.a 0)) := by
  intro id hl hr
  have hmode := h.2.2.2.2.2
  refine ⟨fun hno hrl hrr => hyper_refuses (r := wrongState) h (by decide) (colopMerge_refused hl hr hno hrl hrr),
    fun hil hir hne => hyper_refuses (r := otherTenant) h (by decide) ?_, fun hil hir heq hnone hfit => ?_⟩
  · refine (colopMerge_run (v := s.withSelf (s.self.begun (colopDesc o))) hl hr (hil.begun hmode) (hir.begun hmode)).trans ?_
    rw [if_pos hne]
    rfl
  · have hpos : 0 < id := by
      rcases Nat.eq_zero_or_pos id with h0 | h0
      · rw [h0] at hnone hl
        exact absurd (hnone.symm.trans hl) (by simp)
      · exact h0
    refine hyper_acts (f := fun s => ((s.withColony (2 * id) none).withColony (2 * id + 1) none).withColony id (some (l.joined r)))
      h rfl (fun _ => rfl) ((colopMerge_run (v := s.withSelf (s.self.begun (colopDesc o))) hl hr (hil.begun hmode) (hir.begun hmode)).trans ?_)
    have hconf : (s.withSelf (s.self.begun (colopDesc o))).conflicts id l.tenant (l.chan ||| r.chan) [2 * id, 2 * id + 1] = false :=
      (conflicts_false (s := s) hpos).mpr hfit
    rw [if_neg (not_not_intro heq), show (s.withSelf (s.self.begun (colopDesc o))).colony id = none from hnone, hconf, if_neg (by decide)]
    rfl

theorem remove_clauses {c : Colony} (h : Hyper ins o s 5) (hc : s.colony (colOf s o) = some c) :
    (c.state ≠ .idle → RingFree s (colOf s o) → Leads ins s (result s o.a (reason 2))) ∧
    (IdleColony s (colOf s o) c → Leads ins s (result (s.withColony (colOf s o) none) o.a 0)) := by
  have hrefuse := fun hr hrun => hyper_refuses (r := wrongState) h hr hrun
  have hact := fun hself hf hrun => hyper_acts (f := fun s' => s'.withColony (colOf s o) none) h hself hf hrun
  exact ⟨fun hno hr => hrefuse (by decide) (onIdle_busy (v := s.withSelf (s.self.begun (colopDesc o))) hc hno hr _),
    fun hi => hact rfl (fun _ => rfl)
      ((onIdle_idle (v := s.withSelf (s.self.begun (colopDesc o))) hc (hi.begun h.2.2.2.2.2) _).trans rfl)⟩

end

theorem colonyRecords : ColonyRecords := by
  refine ⟨fun o s ins a h hb => configure_clauses h hb, fun o s ins c a h hc hb => read_clause h hc hb, fun o s ins c h hc => ?_,
    fun o s ins l r h => ?_, fun o s ins c h hc => remove_clauses h hc⟩
  · obtain ⟨hbusy, hsplit⟩ := split_clauses h hc
    refine ⟨hbusy, fun hi hlt hpos hl hr hfl hfr => ⟨c.half true, c.half false, hsplit hi hlt hpos hl hr hfl hfr, ?_, rfl, rfl, rfl, rfl, rfl, rfl,
      rfl, rfl, rfl, rfl, fun k hk => ⟨fun hun => ?_, fun hlt => ?_⟩⟩⟩
    · intro k hk
      obtain rfl | rfl := List.mem_pair.mp hk <;> exact ⟨rfl, rfl, rfl, rfl, rfl, rfl⟩
    · rw [half_alloc c _ hk, half_alloc c _ hk, if_pos hun, if_pos hun]
      exact ⟨rfl, rfl⟩
    · rw [half_alloc c _ hk, half_alloc c _ hk, if_neg (Nat.ne_of_lt hlt), if_neg (Nat.ne_of_lt hlt), if_pos rfl, if_neg (by decide)]
      exact ⟨rfl, rfl⟩
  · intro id hl hr
    obtain ⟨hbusy, htenant, hmerge⟩ := merge_clauses h hl hr
    exact ⟨hbusy, htenant, fun hil hir heq hnone hfit => ⟨l.joined r, hmerge hil hir heq hnone hfit, rfl, rfl, rfl, rfl, rfl, rfl, rfl, rfl,
      fun k hk => joined_alloc l r hk⟩⟩

end Sys2Proof.Claims
end

section
/-! PROOF. O49, continued: the statement on states of colonies (R366, R376, R377). -/

namespace Sys2Proof.Claims

open Sys2Proof.Machine

/-! ## A unit's read -/

section
variable {s v : State} {group : Nat} {tenant : BitVec 12} {va p : Nat} {perm : BitVec 12} {e : Word}

/-- A leaf that a TLB group holds translates without a walk. -/
theorem translateFor_run (h : MapsIn s group tenant va perm p e) (htlb : v.tlb = s.tlb) (colony : Nat) :
    translateFor group colony tenant va perm v = .ok (p, e) v := by
  obtain ⟨t, hfind, hvalid, rfl, rfl, hgrants, hdirty⟩ := h
  have hhit : v.tlbFind group tenant va = t := by rw [← hfind]; simp only [State.tlbFind, htlb]
  have hentry : tlbEntryFor group tenant va v = .ok t v := by
    refine (M.bind_ok (M.get_run v)).trans ?_
    dsimp only
    rw [hhit, if_pos hvalid]
    rfl
  unfold translateFor
  rw [M.bind_ok hentry]
  simp only [hgrants, Bool.not_true, Bool.false_eq_true, if_false, pure_bind]
  have hno : ¬(decide (perm &&& (Cap.st ||| Cap.sc ||| Cap.atm) ≠ 0) && !pteD t.pte) = true := by simpa using hdirty
  rw [if_neg hno]
  rfl

/-- A leaf maps its whole page. -/
theorem MapsIn.shift (h : MapsIn s group tenant va perm p e) {k : Nat} (hk : va % 65536 + k < 65536) :
    MapsIn s group tenant (va + k) perm (p + k) e := by
  obtain ⟨t, hfind, hvalid, rfl, rfl, hgrants, hdirty⟩ := h
  have hsmall : (va + k) / 65536 = va / 65536 := by omega
  have hlarge : (va + k) / 2 ^ 25 = va / 2 ^ 25 := by omega
  have hkey (level : Nat) : tlbKey group tenant level (va + k) = tlbKey group tenant level va := by
    unfold tlbKey
    rw [hsmall, hlarge]
  refine ⟨t, ?_, hvalid, rfl, ?_, hgrants, hdirty⟩
  · rw [← hfind]
    unfold State.tlbFind
    simp only [hkey]
  · have hpage : (va + k) % 65536 = va % 65536 + k := by omega
    have hblock : (va + k) % 2 ^ 25 = va % 2 ^ 25 + k := by omega
    unfold leafAddr
    rw [hpage, hblock]
    split <;> rw [Nat.add_assoc]

theorem MapsIn.page (h : MapsIn s group tenant va perm p e) : p % 65536 = va % 65536 := by
  obtain ⟨t, -, -, -, rfl, -, -⟩ := h
  exact leafAddr_mod t va

theorem pkgOf_shift {k : Nat} (hk : p % 65536 + k < 65536) : pkgOf (p + k) = pkgOf p := by unfold pkgOf; omega

theorem localOf_shift {k : Nat} (hk : p % 65536 + k < 65536) : localOf (p + k) = localOf p + k := by unfold localOf; omega

theorem cursor_offset (c : Quad) (k : Nat) (h : Cap.cursor c + k < 2 ^ 48) : Cap.cursor (Cap.offset c k) = Cap.cursor c + k := by
  have hpos : (((Cap.cursor c : Int) + (k : Int)) % 2 ^ 48).toNat = Cap.cursor c + k := by omega
  unfold Cap.offset
  rw [hpos]
  unfold Cap.withCursor
  generalize Cap.cursor c + k = x at *
  have hc := c.isLt
  unfold Cap.cursor bitsAt
  rw [BitVec.toNat_ofNat]
  omega

theorem tenant_offset (c : Quad) (d : Int) : Cap.tenant (Cap.offset c d) = Cap.tenant c := by
  unfold Cap.offset
  generalize (((Cap.cursor c : Int) + d) % 2 ^ 48).toNat = x
  unfold Cap.withCursor Cap.tenant bitsAt
  have hhead : (c.toNat / 2 ^ 48 * 2 ^ 48 + x % 2 ^ 48) / 2 ^ 48 = c.toNat / 2 ^ 48 := by omega
  have hsize : c.toNat / 2 ^ 48 * 2 ^ 48 + x % 2 ^ 48 < 2 ^ 128 := by have := c.isLt; omega
  rw [BitVec.toNat_ofNat, Nat.mod_eq_of_lt hsize, Nat.shiftRight_eq_div_pow, Nat.shiftRight_eq_div_pow, show 2 ^ 97 = 2 ^ 48 * 2 ^ 49 from by norm_num, ← Nat.div_div_eq_div_mul, hhead,
    Nat.div_div_eq_div_mul]

variable {c : Reg} {n m a : Nat}

theorem unitRead_run (hmode : v.self.mode = .hypervisor) (hid : v.self.identity = s.self.identity) (htlb : v.tlb = s.tlb) (hpkg : v.pkg = s.pkg)
    (hpart : NoPartials v) (hcheck : checkFault s c Cap.ld [Cap.kMemory] n = none) (hmap : MapsIn s group (Cap.tenant c.val) (Cap.cursor c.val) Cap.ld p e)
    (hp : pkgOf p = s.pkg) (hbad : ∀ j < n, v.badAt (localOf p + j) = 0) :
    unitRead group ⟨true, 0⟩ c n v = .ok (some (v.bytesAt (localOf p) n)) v := by
  have hcap : checkCapAs ⟨true, 0⟩ c Cap.ld [Cap.kMemory] n v = .ok () v := by
    have hsame : checkCapAs v.self.identity c Cap.ld [Cap.kMemory] n v = .ok () v :=
      (M.bind_ok (self_run v)).symm.trans ((checkCap_run hid ..).trans (by rw [checkOutcome, hcheck]))
    have hself : v.self.identity = ⟨true, v.self.tid⟩ := by unfold Strand.identity; rw [hmode]; rfl
    rw [hself] at hsame
    exact hsame
  have hsectors : checkSectors (Cap.cursor c.val) (localOf p) n v = .ok () v := by
    unfold checkSectors
    rw [firstBad_none hbad]
  have hmine : ¬pkgOf p ≠ v.pkg := by rw [hpkg]; exact not_not_intro hp
  refine (M.bind_ok (a := .ok (v.bytesAt (localOf p) n)) (attempt_ok ?_)).trans rfl
  refine (M.bind_ok hcap).trans ((M.bind_ok (M.get_run v)).trans ((M.bind_ok (translateFor_run hmap htlb _)).trans ?_))
  dsimp only
  rw [if_neg hmine]
  exact (M.bind_ok hsectors).trans (homeRead_run hpart ..)

end

/-! ## The header of a save area -/

/-- Bytes are those of their value. -/
theorem eq_leBytes {bs : List Byte} {n v : Nat} (hn : bs.length = n) : bs = leBytes n v ↔ leNat bs = v % 2 ^ (8 * n) := by
  rw [← leNat_leBytes]
  constructor
  · exact fun h => congrArg leNat h
  · intro h
    subst hn
    induction bs generalizing v with
    | nil => rfl
    | cons b bs ih =>
      have hlow := congrArg (· % 256) h
      have hhigh := congrArg (· / 256) h
      have hb := b.isLt
      rw [List.length_cons] at h ⊢
      simp only [List.length_cons, leBytes, leNat, BitVec.toNat_ofNat] at hlow hhigh ⊢
      have hbyte : b.toNat = v % 2 ^ 8 := by omega
      congr 1
      · exact BitVec.eq_of_toNat_eq (by rw [hbyte, BitVec.toNat_ofNat])
      · exact ih (by omega)

theorem saveHeader_take (id time : Nat) (forced : Bool) : (saveHeader id time forced).take 8 =
    leBytes 2 saveFormat ++ (leBytes 2 id ++ (leBytes 2 (colonyQuads id) ++ leBytes 2 (colonyBlocks id))) := by
  unfold saveHeader
  rw [List.append_assoc, List.append_assoc, List.take_left']
  · rw [List.append_assoc, List.append_assoc]
  · simp only [List.length_append, length_leBytes]

theorem saveHeader_drop (id time : Nat) (forced : Bool) : (saveHeader id time forced).drop 24 = leBytes 8 Config.firmwareVersion.toNat := by
  unfold saveHeader
  rw [List.drop_left']
  simp only [List.length_append, length_leBytes]

theorem colonyQuads_eq (id : Nat) : colonyQuads id = 1024 / 2 ^ Nat.log2 id := Nat.shiftRight_eq_div_pow ..

theorem append_field_iff (s : State) (a n v : Nat) (l m : List Byte) :
    s.bytesAt a n ++ l = leBytes n v ++ m ↔ leNat (s.bytesAt a n) = v % 2 ^ (8 * n) ∧ l = m := by
  rw [← eq_leBytes (length_bytesAt s a n)]
  exact ⟨fun h => List.append_inj h (by rw [length_bytesAt, length_leBytes]), fun h => by rw [h.1, h.2]⟩

theorem headerMatches_iff (s : State) (a id : Nat) : headerMatches id (s.bytesAt a 32) = true ↔
    (leNat (s.bytesAt (a + 0) 2) = 1 ∧ leNat (s.bytesAt (a + 2) 2) = id % 65536 ∧
      leNat (s.bytesAt (a + 4) 2) = colonyQuads id % 65536 ∧ leNat (s.bytesAt (a + 6) 2) = colonyBlocks id % 65536) ∧
    leNat (s.bytesAt (a + 24) 8) = Config.firmwareVersion.toNat % 2 ^ 64 := by
  have hsplit : (s.bytesAt a 32).take 8 = s.bytesAt (a + 0) 2 ++ (s.bytesAt (a + 2) 2 ++ (s.bytesAt (a + 4) 2 ++ s.bytesAt (a + 6) 2)) := by
    rw [take_bytesAt s a 8 24, bytesAt_append s (a + 4) 2 2, bytesAt_append s (a + 2) 2 4, Nat.add_zero, bytesAt_append s a 2 6]
  have hlast : ((s.bytesAt a 32).drop 24).take 8 = s.bytesAt (a + 24) 8 := by
    rw [drop_bytesAt s a 24 8, List.take_of_length_le (by rw [length_bytesAt])]
  unfold headerMatches
  rw [Bool.and_eq_true, decide_eq_true_iff, decide_eq_true_iff, saveHeader_take, saveHeader_drop, hsplit, hlast]
  rw [append_field_iff, append_field_iff, append_field_iff, eq_leBytes (length_bytesAt ..), eq_leBytes (length_bytesAt ..)]
  rfl

/-! ## The clauses -/

section
variable {o : OpRR} {s : State} {ins : Instr} {c : Colony}

/-- The colony that an operation names is a node of the tree. -/
theorem colOf_lt (s : State) (o : OpRR) : colOf s o < 2048 := by
  have hcovers (id q : Nat) (h : covers id q = true) : id < 2048 := by
    unfold covers at h
    simp only [Bool.and_eq_true, decide_eq_true_eq] at h
    obtain ⟨⟨⟨hne, hlog⟩, -⟩, -⟩ := h
    have hlt := Nat.lt_log2_self (n := id)
    calc id < 2 ^ (Nat.log2 id + 1) := hlt
      _ ≤ 2 ^ 11 := Nat.pow_le_pow_right (by decide) (by omega)
  unfold colOf
  dsimp only
  split
  · unfold State.colonyOf
    split
    case h_1 e hfind =>
      have hcov := List.find?_some hfind
      cases he : e.2 with
      | none => rw [he] at hcov; cases hcov
      | some c => rw [he] at hcov; exact hcovers _ _ (Bool.and_eq_true_iff.mp hcov).2
    · decide
  · exact Nat.mod_lt _ (by decide)

/-- The yield of a colony that is held. -/
def holding (s : State) (o : OpRR) : Yield := { deadline := s.time + argOf s o * 1000, slot := 64, hold := true, stopped := [], forced := false }

/-- The state with the held colony yielding. -/
def heldState (s : State) (o : OpRR) (c : Colony) (y : Yield) : State := s.withColony (colOf s o) (some { c with state := .yielding, yield := some y })

theorem settleYield_ready {v : State} {id : Nat} (hc : v.colony id = some c) (hy : c.state = .yielding)
    (h : (v.colonyStrands id).all v.stoppedForYield = true) : settleYield id v = .ok () (posting v [.colonySaveDone id]) := by
  refine (M.bind_ok (M.get_run v)).trans ?_
  rw [hc]
  dsimp only
  rw [hy, h]
  rfl

theorem settleYield_waits {v : State} {id : Nat} (hc : v.colony id = some c) (h : (v.colonyStrands id).all v.stoppedForYield = false) :
    settleYield id v = .ok () v := by
  refine (M.bind_ok (M.get_run v)).trans ?_
  rw [hc]
  dsimp only
  rw [h, Bool.and_false]
  rfl

theorem stoppedForYield_busy {v : State} {n : Nat} (h : v.decodeStopped n = false) : v.stoppedForYield n = false := by
  unfold State.stoppedForYield
  rw [h]
  rfl

/-- Starting an instruction stops no strand. -/
theorem decodeStopped_begun (v : State) (d : Desc) (n : Nat) : (v.withSelf (v.self.begun d)).decodeStopped n = v.decodeStopped n := by
  have hcolony : (v.withSelf (v.self.begun d)).colony ((v.withSelf (v.self.begun d)).colonyOf n) = v.colony (v.colonyOf n) := rfl
  have hstrand : ((v.withSelf (v.self.begun d)).strand n).asked = (v.strand n).asked ∧
      ((v.withSelf (v.self.begun d)).strand n).pop = (v.strand n).pop ∧
      ((v.withSelf (v.self.begun d)).strand n).gangIssued = (v.strand n).gangIssued := by
    by_cases hn : n = v.cur
    · rw [hn]
      have hsame : (v.withSelf (v.self.begun d)).strand v.cur = v.self.begun d := State.strand_withStrand_same ..
      rw [hsame]
      exact ⟨rfl, rfl, rfl⟩
    · have hother : (v.withSelf (v.self.begun d)).strand n = v.strand n := State.strand_withStrand_ne _ _ _ _ hn
      rw [hother]
      exact ⟨rfl, rfl, rfl⟩
  obtain ⟨hasked, hpop, hgang⟩ := hstrand
  unfold State.decodeStopped
  rw [hcolony]
  cases v.colony (v.colonyOf n) with
  | none => rfl
  | some c =>
    dsimp only
    cases c.yield with
    | none => rfl
    | some y =>
      dsimp only
      rw [hasked, hpop, hgang]

theorem hold_clauses (h : Hyper ins o s 6) (hc : s.colony (colOf s o) = some c) :
    let id := colOf s o
    let y : Yield := { deadline := s.time + argOf s o * 1000, slot := 64, hold := true, stopped := [], forced := false }
    let u := s.withColony id (some { c with state := .yielding, yield := some y })
    (c.state ≠ .loaded → Leads ins s (result s o.a (reason 2))) ∧
    (c.state = .loaded → c.save.tag = false → Leads ins s (result s o.a (reason 5))) ∧
    (c.state = .loaded → c.save.tag → (u.colonyStrands id = [] → Leads ins s (result (posting u [.colonySaveDone id]) o.a 0)) ∧
      ((∃ n ∈ u.colonyStrands id, u.decodeStopped n = false) → Leads ins s (result u o.a 0))) := by
  intro id y u
  have hmode := h.2.2.2.2.2
  have hcv : (s.withSelf (s.self.begun (colopDesc o))).colony id = some c := hc
  obtain ⟨hold, hhold⟩ : ∃ f, f = fun s : State => s.withColony id (some { c with state := .yielding, yield := some y }) := ⟨_, rfl⟩
  have hu : hold s = u := by rw [hhold]
  have hself : (hold s).self = s.self := by rw [hhold]; rfl
  have hcom (r : Strand) : hold (s.withSelf r) = (hold s).withSelf r := by rw [hhold]; rfl
  have hcol (v : State) : (hold v).colony id = some { c with state := .yielding, yield := some y } := by rw [hhold]; exact colony_withColony ..
  have hrun {w' : State} (hl : c.state = .loaded) (ht : c.save.tag = true)
      (hsettle : settleYield id (hold (s.withSelf (s.self.begun (colopDesc o)))) = .ok () w') :
      colopHold id (argOf s o) (s.withSelf (s.self.begun (colopDesc o))) = .ok okStatus w' := by
    have hstart : startYield id 0x40 true (argOf s o * 1000) (s.withSelf (s.self.begun (colopDesc o))) = .ok () w' := by
      refine (M.bind_ok (M.get_run _)).trans ?_
      rw [hcv]
      have hset : (set (hold (s.withSelf (s.self.begun (colopDesc o)))) : M Unit) (s.withSelf (s.self.begun (colopDesc o))) =
          .ok () (hold (s.withSelf (s.self.begun (colopDesc o)))) := rfl
      rw [hhold] at hsettle hset
      exact (M.bind_ok hset).trans hsettle
    refine (M.bind_ok (M.get_run _)).trans ?_
    rw [hcv]
    dsimp only
    rw [if_neg (not_not_intro hl), ht, if_neg (by decide)]
    exact M.bind_ok hstart
  have hmem (b : Nat) : b ∈ (hold (s.withSelf (s.self.begun (colopDesc o)))).colonyStrands id ↔ b ∈ u.colonyStrands id := by
    rw [hcom, ← hu]
    exact mem_colonyStrands_begun hmode (hold s) (by rw [hhold]; rfl) (by rw [hhold]; rfl)
  refine ⟨fun hno => hyper_refuses (r := wrongState) h (by decide) ?_, fun hl ht => hyper_refuses (r := malformed) h (by decide) ?_,
    fun hl ht => ⟨fun hnone => ?_, fun hsome => ?_⟩⟩
  · refine (M.bind_ok (M.get_run _)).trans ?_
    rw [hcv]
    exact congrFun (if_pos hno) _
  · refine (M.bind_ok (M.get_run _)).trans ?_
    rw [hcv]
    dsimp only
    rw [if_neg (not_not_intro hl), ht, if_pos (by decide)]
    rfl
  · have hempty : (hold (s.withSelf (s.self.begun (colopDesc o)))).colonyStrands id = [] :=
      List.eq_nil_iff_forall_not_mem.mpr fun b hb => by rw [hmem, hnone] at hb; exact List.not_mem_nil hb
    have hsettle := settleYield_ready (hcol (s.withSelf (s.self.begun (colopDesc o)))) rfl (by rw [hempty]; rfl)
    rw [← hu]
    exact hyper_acts (f := fun s' => posting (hold s') [.colonySaveDone id]) h hself (fun r => by rw [hcom]; rfl) (hrun hl ht hsettle)
  · obtain ⟨b, hb, hbusy⟩ := hsome
    have hstopped : (hold (s.withSelf (s.self.begun (colopDesc o)))).stoppedForYield b = false := by
      rw [hcom, ← hself, stoppedForYield_busy]
      exact (decodeStopped_begun (hold s) _ b).trans (hu ▸ hbusy)
    have hsettle := settleYield_waits (hcol (s.withSelf (s.self.begun (colopDesc o)))) (by
      rw [List.all_eq_false]
      exact ⟨b, (hmem b).mpr hb, by rw [hstopped]; exact Bool.false_ne_true⟩)
    rw [← hu]
    exact hyper_acts (f := hold) h hself hcom (hrun hl ht hsettle)

theorem release_clauses (h : Hyper ins o s 7) (hc : s.colony (colOf s o) = some c) :
    (c.state ≠ .held → Leads ins s (result s o.a (reason 2))) ∧
    (c.state = .held → Leads ins s (result
      (s.withColony (colOf s o) (some { c with state := if c.hasImage then .saved else .idle })) o.a 0)) := by
  have hact := fun hself hf hrun =>
    hyper_acts (f := fun s' => s'.withColony (colOf s o) (some { c with state := if c.hasImage then .saved else .idle })) h hself hf hrun
  exact ⟨fun hno => hyper_refuses (r := wrongState) h (by decide) (colopRelease_refused (v := s.withSelf (s.self.begun (colopDesc o))) hc hno),
    fun hheld => hact rfl (fun _ => rfl) (colopRelease_run (v := s.withSelf (s.self.begun (colopDesc o))) hc hheld)⟩

/-- A colony that is saved with the image of its area. -/
def adopted (c : Colony) (n : Nat) : Colony := { c with state := .saved, hasImage := true, image := n }

/-- What `adopt` does once it has read the header. -/
theorem colopAdopt_run {v : State} {id : Nat} {bs : List Byte} (hc : v.colony id = some c) (hidle : IdleColony v id c)
    (hread : saveBytes c 0 32 v = .ok (some bs) v) : colopAdopt id v = (if headerMatches id bs then do
      let mark ← saveBytes c 0x1000 8
      putColony id (some (adopted c (leNat (mark.getD []))))
      pure okStatus
    else pure malformed : M Nat) v :=
  (onIdle_idle hc hidle _).trans (M.bind_ok hread)

theorem adopt_clauses {a : Nat} (h : Hyper ins o s 8) (hc : s.colony (colOf s o) = some c) :
    let id := colOf s o
    let f := fun (off n : Nat) => leNat (s.bytesAt (a + off) n)
    let quads := 1024 / 2 ^ Nat.log2 id
    (c.state ≠ .idle → RingFree s id → Leads ins s (result s o.a (reason 2))) ∧
    (IdleColony s id c → NoPartials s → Reaches s 8 c.save Cap.ld 0x1008 a → Cap.cursor c.save.val + 0x1008 ≤ 2 ^ 48 →
      checkFault s ⟨Cap.offset c.save.val 0, c.save.tag⟩ Cap.ld [Cap.kMemory] 32 = none →
      checkFault s ⟨Cap.offset c.save.val 0x1000, c.save.tag⟩ Cap.ld [Cap.kMemory] 8 = none →
      (f 2 2 ≠ id → Leads ins s (result s o.a (reason 5))) ∧
      (f 0 2 = 1 → f 2 2 = id → f 4 2 = quads → f 6 2 = max 1 (quads / 128) → f 24 8 = Config.firmwareVersion.toNat →
        Leads ins s (result (s.withColony id (some { c with state := .saved, hasImage := true, image := f 0x1000 8 })) o.a 0))) := by
  intro id f quads
  have hmode := h.2.2.2.2.2
  obtain ⟨v, hv⟩ : ∃ v, v = s.withSelf (s.self.begun (colopDesc o)) := ⟨_, rfl⟩
  have hcv : v.colony id = some c := by rw [hv]; exact hc
  refine ⟨fun hno hr => hyper_refuses (r := wrongState) h (by decide) (onIdle_busy (v := s.withSelf (s.self.begun (colopDesc o))) hc hno hr _),
    fun hi hpart hreach hend hcheck hcheck' => ?_⟩
  obtain ⟨hin, hplain, p, e, hmap, hp, rfl, -⟩ := hreach
  have hpage := hmap.page
  have hread (off n : Nat) (hoff : off + n ≤ 0x1008) (hn : 0 < n) (hcap : checkFault s ⟨Cap.offset c.save.val off, c.save.tag⟩ Cap.ld [Cap.kMemory] n = none) :
      saveBytes c off n v = .ok (some (s.bytesAt (localOf p + off) n)) v := by
    have hcursor : Cap.cursor (Cap.offset c.save.val off) = Cap.cursor c.save.val + off := cursor_offset _ _ (by omega)
    have hmap' : MapsIn s 8 (Cap.tenant (Cap.offset c.save.val off)) (Cap.cursor (Cap.offset c.save.val off)) Cap.ld (p + off) e := by
      rw [tenant_offset, hcursor]
      exact hmap.shift (by omega)
    have hlocal : localOf (p + off) = localOf p + off := localOf_shift (by omega)
    have hmine : pkgOf (p + off) = s.pkg := (pkgOf_shift (by omega)).trans hp
    have hsound (j : Nat) (hj : j < n) : v.badAt (localOf (p + off) + j) = 0 := by
      rw [hlocal, Nat.add_assoc, hv]
      exact (hplain (off + j) (by omega)).2
    have hrun := unitRead_run (c := ⟨Cap.offset c.save.val off, c.save.tag⟩) (v := v) (s := s) (by rw [hv, State.self_withSelf]; exact hmode)
      (by rw [hv]; exact identity_begun _) (by rw [hv]; rfl) (by rw [hv]; rfl) (by rw [hv]; exact hpart) hcap hmap' hmine hsound
    rw [hlocal, show v.bytesAt (localOf p + off) n = s.bytesAt (localOf p + off) n by rw [hv]; rfl] at hrun
    exact hrun
  have hhead := hread 0 32 (by decide) (by decide) hcheck
  rw [Nat.add_zero] at hhead
  have hidle : IdleColony v id c := by rw [hv]; exact hi.begun hmode
  have hadopt := colopAdopt_run hcv hidle hhead
  have hid : id % 65536 = id := Nat.mod_eq_of_lt (by have := colOf_lt s o; omega)
  have hquads : colonyQuads id = quads := colonyQuads_eq id
  have hle : quads ≤ 1024 := Nat.div_le_self ..
  refine ⟨fun hne => hyper_refuses (r := malformed) h (by decide) ?_, fun h0 h2 h4 h6 h24 => ?_⟩
  · rw [← hv]
    refine hadopt.trans ?_
    rw [if_neg]
    · rfl
    · rw [headerMatches_iff, hid]
      exact fun hm => hne hm.1.2.1
  · have hmatch : headerMatches id (s.bytesAt (localOf p) 32) = true := by
      rw [headerMatches_iff, hid]
      have hblocks : colonyBlocks id = max 1 (quads / 128) := by unfold colonyBlocks; rw [hquads]
      refine ⟨⟨h0, h2, ?_, ?_⟩, ?_⟩
      · rw [hquads, Nat.mod_eq_of_lt (by omega)]; exact h4
      · rw [hblocks, Nat.mod_eq_of_lt (by omega)]; exact h6
      · rw [Nat.mod_eq_of_lt Config.firmwareVersion.isLt]; exact h24
    have hmark := hread 0x1000 8 (by decide) (by decide) hcheck'
    have hrun : colopAdopt id v = .ok okStatus (v.withColony id (some (adopted c (f 0x1000 8)))) := by
      refine hadopt.trans ?_
      rw [if_pos hmatch]
      exact (M.bind_ok hmark).trans rfl
    exact hyper_acts (f := fun s' => s'.withColony id (some (adopted c (f 0x1000 8)))) h rfl (fun _ => rfl) (hv ▸ hrun)

end

theorem colonyStates : ColonyStates :=
  ⟨fun _ _ _ _ h hc => hold_clauses h hc, fun _ _ _ _ h hc => release_clauses h hc, fun _ _ _ _ _ h hc => adopt_clauses h hc⟩

/-- Settles O49: the checks of `colop`, the layout of a record, and what each operation on records and states does. -/
theorem colonyRecordsOps : Obligations.ColonyRecordsOps := ⟨colopChecks, recordLayout, colonyRecords, colonyStates⟩

end Sys2Proof.Claims
end

section
/-! PROOF. O42: `amou` and `amof` (R112, R276 to R283, R413). -/

namespace Sys2Proof.Claims

open Sys2Proof.Machine

/-! ## A rounded value fits its format -/

section
open Sys2Proof.Machine.Float

theorem lt_two_pow_bitLength (m : Nat) : m < 2 ^ bitLength m := by
  unfold bitLength
  split
  case isTrue h => rw [h]; decide
  case isFalse h => exact Nat.lt_log2_self

/-- A magnitude counted in steps no finer than its last place has at most the format's digits, up to a carry. -/
theorem toSteps_le {w m : Nat} {neg sticky : Bool} {e q : Int} {fb : Nat} (hq : e + bitLength m - 1 - fb ≤ q) :
    (toSteps 0 w neg m e q sticky).1 ≤ 2 ^ (fb + 1) := by
  have hm := lt_two_pow_bitLength m
  unfold toSteps
  dsimp only
  split_ifs with hle hexact hfive hup
  · have hbits : bitLength m + (e - q).toNat ≤ fb + 1 := by omega
    rw [Nat.shiftLeft_eq]
    calc m * 2 ^ (e - q).toNat ≤ 2 ^ bitLength m * 2 ^ (e - q).toNat := Nat.mul_le_mul_right _ hm.le
      _ = 2 ^ (bitLength m + (e - q).toNat) := (Nat.pow_add ..).symm
      _ ≤ 2 ^ (fb + 1) := Nat.pow_le_pow_right (by decide) hbits
  all_goals
    have hshift : m >>> (q - e).toNat < 2 ^ (fb + 1) := by
      have hbits : bitLength m ≤ fb + 1 + (q - e).toNat := by omega
      rw [Nat.shiftRight_eq_div_pow, Nat.div_lt_iff_lt_mul (Nat.two_pow_pos _), ← Nat.pow_add]
      exact hm.trans_le (Nat.pow_le_pow_right (by decide) hbits)
  · exact hshift.le
  · exact absurd hfive (by decide)
  · exact hshift
  · exact hshift.le

/-- The exponent and fraction of a value below the largest finite one. -/
theorem code_lt {eb fb t n : Nat} (ht : t ≤ 2 ^ (fb + 1)) (hpos : 1 ≤ eb) (hn : 1 ≤ n) (hmax : t < 2 ^ fb ∨ n ≤ 2 ^ eb - 2 ∧ (t = 2 ^ (fb + 1) → n + 1 ≤ 2 ^ eb - 2)) :
    (if t < 2 ^ fb then t else if t ≥ 2 ^ (fb + 1) then (n + 1) * 2 ^ fb + (t / 2 - 2 ^ fb) else n * 2 ^ fb + (t - 2 ^ fb)) < 2 ^ (eb + fb) := by
  have heb : 2 ≤ 2 ^ eb := by
    calc 2 = 2 ^ 1 := rfl
      _ ≤ 2 ^ eb := Nat.pow_le_pow_right (by decide) hpos
  rw [Nat.pow_add 2 eb fb]
  rw [Nat.pow_succ] at *
  generalize 2 ^ eb = E at *
  generalize hF : 2 ^ fb = F at *
  have hF0 : 0 < F := by rw [← hF]; exact Nat.two_pow_pos _
  split_ifs with hlow hhigh
  · calc t < F := hlow
      _ ≤ E * F := Nat.le_mul_of_pos_left _ (by omega)
  · obtain h | ⟨-, h⟩ := hmax
    · exact absurd h hlow
    · have hle : (n + 1 + 1) * F ≤ E * F := Nat.mul_le_mul_right _ (by have := h (by omega); omega)
      rw [Nat.add_mul] at hle
      omega
  · obtain h | ⟨h, -⟩ := hmax
    · exact absurd h hlow
    · have hle : (n + 1 + 1) * F ≤ E * F := Nat.mul_le_mul_right _ (by omega)
      rw [Nat.add_mul, Nat.add_mul] at hle
      omega

/-- Rounding to nearest gives a code of the format. -/
theorem round_lt {f : Format} (hs : f.special = true) (hw : f.width = f.ebits + f.fbits + 1) (heb : 1 ≤ f.ebits) (hfb : 1 ≤ f.fbits) (hne : f ≠ e2m1) (x : Value) :
    (Machine.Float.round f 0 0 x).1 < 2 ^ f.width := by
  have hsplit : 2 ^ f.width = 2 * 2 ^ (f.ebits + f.fbits) := by rw [hw, Nat.pow_succ, Nat.mul_comm]
  have hhalf : 2 ^ (f.width - 1) = 2 ^ (f.ebits + f.fbits) := by rw [hw, Nat.add_sub_cancel]
  have hE : 2 ≤ 2 ^ f.ebits := by
    calc 2 = 2 ^ 1 := rfl
      _ ≤ 2 ^ f.ebits := Nat.pow_le_pow_right (by decide) heb
  have hF : 0 < 2 ^ f.fbits := Nat.two_pow_pos _
  have htop : (2 ^ f.ebits - 1) * 2 ^ f.fbits + 2 ^ f.fbits = 2 ^ (f.ebits + f.fbits) := by
    rw [Nat.pow_add, Nat.sub_mul, Nat.one_mul, Nat.sub_add_cancel (Nat.le_mul_of_pos_left _ (by omega))]
  have hinf (neg : Bool) : infCode f neg < 2 ^ f.width := by
    unfold infCode
    rw [hsplit, hhalf]
    split <;> omega
  cases x with
  | nan =>
    have hnan : (Machine.Float.round f 0 0 .nan).1 = (2 ^ f.ebits - 1) * 2 ^ f.fbits + 2 ^ (f.fbits - 1) := by
      unfold Machine.Float.round canonicalNaN
      rw [if_pos hs]
    have hlt : 2 ^ (f.fbits - 1) < 2 ^ f.fbits := Nat.pow_lt_pow_right (by decide) (by omega)
    rw [hnan, hsplit]
    omega
  | inf neg =>
    have hcode : (Machine.Float.round f 0 0 (.inf neg)).1 = infCode f neg := by
      unfold Machine.Float.round
      dsimp only
      rw [if_pos hs]
    rw [hcode]
    exact hinf neg
  | fin neg m e sticky =>
    have hsign : (if neg then 2 ^ (f.width - 1) else 0) ≤ 2 ^ (f.ebits + f.fbits) := by
      rw [hhalf]
      split <;> omega
    unfold Machine.Float.round
    dsimp only
    generalize hq : max (e + (bitLength m : Int) - 1) (1 - (f.bias : Int)) - (f.fbits : Int) = q
    have hle := toSteps_le (w := 0) (neg := neg) (sticky := sticky) (m := m) (e := e) (q := q) (fb := f.fbits) (by omega)
    generalize (toSteps 0 0 neg m e q sticky).1 = t at *
    generalize (toSteps 0 0 neg m e q sticky).2 = exact' at *
    rw [if_pos hs, if_pos hs]
    by_cases hzero : (decide (m = 0) && !sticky) = true
    · rw [if_pos hzero, if_neg hne]
      dsimp only
      omega
    rw [if_neg hzero]
    by_cases hbig : (if q ≥ 2 ^ f.ebits - 2 - (f.bias : Int) - (f.fbits : Int) then
        t <<< (q - (2 ^ f.ebits - 2 - (f.bias : Int) - (f.fbits : Int))).toNat > 2 ^ (f.fbits + 1) - 1
      else t > (2 ^ (f.fbits + 1) - 1) <<< (2 ^ f.ebits - 2 - (f.bias : Int) - (f.fbits : Int) - q).toNat)
    · rw [if_pos hbig]
      have hover : overflow f 0 neg = infCode f neg := by
        unfold overflow
        rw [hs]
        rfl
      dsimp only
      rw [hover]
      exact hinf neg
    · rw [if_neg hbig, if_neg (by simp [hne])]
      dsimp only
      have hexp : (q + (f.fbits : Int) + (f.bias : Int) + 1).toNat = (q + (f.fbits : Int) + (f.bias : Int)).toNat + 1 := by omega
      have hcode := code_lt (n := (q + (f.fbits : Int) + (f.bias : Int)).toNat) hle heb (by omega) (by
        by_cases hlow : t < 2 ^ f.fbits
        · exact .inl hlow
        · have hcast : ((2 ^ f.ebits : Nat) : Int) = 2 ^ f.ebits := by norm_cast
          refine .inr ?_
          by_cases hge : q ≥ 2 ^ f.ebits - 2 - (f.bias : Int) - (f.fbits : Int)
          · rw [if_pos hge] at hbig
            obtain ⟨k, hk⟩ : ∃ k, (q - (2 ^ f.ebits - 2 - (f.bias : Int) - (f.fbits : Int))).toNat = k := ⟨_, rfl⟩
            have hzero : k = 0 := by
              by_contra hne
              refine hbig ?_
              rw [hk, Nat.shiftLeft_eq, Nat.pow_succ]
              have htwo : 2 ≤ 2 ^ k := by
                calc 2 = 2 ^ 1 := rfl
                  _ ≤ 2 ^ k := Nat.pow_le_pow_right (by decide) (by omega)
              have := Nat.mul_le_mul (Nat.le_of_not_lt hlow) htwo
              omega
            rw [hk, hzero, Nat.shiftLeft_zero] at hbig
            constructor <;> omega
          · constructor <;> omega)
      rw [hexp]
      omega

end

theorem combine_lt {op kind k old y : Nat} (hk : kind = 0 ∨ (kind = 1 ∧ k = 4) ∨ (kind = 2 ∧ k = 8)) (hold : old < 2 ^ (8 * k))
    (hy : y < 2 ^ (8 * k)) : combine op kind k old y < 2 ^ (8 * k) := by
  obtain rfl | ⟨rfl, rfl⟩ | ⟨rfl, rfl⟩ := hk
  · change amoOp op k old y < _
    unfold amoOp
    dsimp only
    split
    · exact Nat.mod_lt _ (by positivity)
    · exact Nat.and_lt_two_pow _ hy
    · exact Nat.or_lt_two_pow hold hy
    · exact Nat.xor_lt_two_pow hold hy
    · split <;> assumption
    · split <;> assumption
    · exact (Nat.min_le_left ..).trans_lt hold
    · exact Nat.max_lt.mpr ⟨hold, hy⟩
    · exact hy
  · exact round_lt (f := Machine.Float.f32) rfl rfl (by decide) (by decide) (by decide) _
  · exact round_lt (f := Machine.Float.f64) rfl rfl (by decide) (by decide) (by decide) _

theorem partialIdentity_neutral : ∀ op k y : Nat, op < 8 → (k = 4 ∨ k = 8) → y < 2 ^ (8 * k) → combine op 0 k (partialIdentity op 0 k) y = y := by
  intro op k y hop hk hy
  change amoOp op k (partialIdentity op 0 k) y = y
  have hsigned (n : Nat) (hn : n < 2 ^ (8 * k)) : Machine.Float.patInt (8 * k) true n = if 2 ^ (8 * k - 1) ≤ n then (n : Int) - 2 ^ (8 * k) else n := by
    rw [patInt_of_lt hn]
    simp only [true_and]
  have hw : 2 ^ (8 * k) = 2 * 2 ^ (8 * k - 1) := by rw [← Nat.pow_succ', show (8 * k - 1).succ = 8 * k by omega]
  have hcast : (2 ^ (8 * k) : Int) = 2 * ((2 ^ (8 * k - 1) : Nat) : Int) := by exact_mod_cast hw
  have hpos : 0 < 2 ^ (8 * k - 1) := Nat.two_pow_pos _
  unfold amoOp partialIdentity
  dsimp only
  interval_cases op
  · exact (congrArg (· % _) (Nat.zero_add y)).trans (Nat.mod_eq_of_lt hy)
  · change (2 ^ (8 * k) - 1) &&& y = y
    rw [Nat.and_comm, Nat.and_two_pow_sub_one_eq_mod, Nat.mod_eq_of_lt hy]
  · exact Nat.zero_or y
  · exact Nat.zero_xor y
  · change (if Machine.Float.patInt (8 * k) true y < Machine.Float.patInt (8 * k) true (2 ^ (8 * k - 1) - 1) then y else 2 ^ (8 * k - 1) - 1) = y
    rw [hsigned y hy, hsigned _ (by omega), hcast]
    split_ifs <;> omega
  · change (if Machine.Float.patInt (8 * k) true y > Machine.Float.patInt (8 * k) true (2 ^ (8 * k - 1)) then y else 2 ^ (8 * k - 1)) = y
    rw [hsigned y hy, hsigned _ (by omega), hcast]
    split_ifs <;> omega
  · exact Nat.min_eq_right (show y ≤ 2 ^ (8 * k) - 1 by omega)
  · exact Nat.max_eq_right (Nat.zero_le y)

/-! ## `amou` -/

/-- The capability that `amou` and `amof` use. -/
def sumAt (s : State) (o : OpRRR) : Reg := ⟨Cap.offset (w s o.b).val (x s o.c).toInt, (w s o.b).tag⟩

/-- The descriptor of `amou`. -/
def amouDesc (o : OpRRR) : Desc := ⟨o.st, 0, .access, threeSource o⟩

/-- The state in which a line becomes one of partials. -/
def allotted (core line : Nat) (s : State) : State := (List.range 8).foldl (fun v g => v.putTag (line * 128 + 16 * g) false)
  (((s.leaveLine core line).l1Room core line).register line)

theorem allotted_eq (core line : Nat) (s : State) : allotted core line s = (List.range 8).foldl (fun v g => v.putTag (line * 128 + 16 * g) false)
  (((s.leaveLine core line).l1Room core line).register line) := rfl

/-- The line of a core. -/
def heldLine (s : State) (core line : Nat) : L1Line := lookupD L1Line.empty (s.core core).lines line

/-- The state in which a partial is changed. -/
def partialState (core line : Nat) (p : UpdateOnly) (s : State) : State :=
  if (heldLine s core line).upd = some p then s else allotted core line s

/-- The line of a partial before it is changed. -/
def partialLine (s : State) (core line : Nat) (p : UpdateOnly) : L1Line :=
  if (heldLine s core line).upd = some p then heldLine s core line
  else { L1Line.empty with bytes := (List.range (128 / p.k)).flatMap fun _ => leBytes p.k (partialIdentity p.op p.kind p.k), upd := some p }

/-- A line whose partial at an offset has been added to. -/
def plus (l : L1Line) (off : Nat) (p : UpdateOnly) (y : Nat) : L1Line :=
  { l with bytes := overwrite l.bytes off (leBytes p.k (combine p.op p.kind p.k (leNat (l.get off p.k)) y)) }

/-- A state with one line of a core replaced. -/
def setLine (core line : Nat) (l : L1Line) (s : State) : State :=
  s.withCore core { s.core core with lines := storeAt L1Line.empty line l (s.core core).lines }

theorem addPartial_run (v : State) (a y : Nat) (p : UpdateOnly) : addPartial a p.op p.kind p.k y v = .ok ()
    (setLine (coreOf v.cur) (a / 128) (plus (partialLine v (coreOf v.cur) (a / 128) p) (a % 128) p y) (partialState (coreOf v.cur) (a / 128) p v)) := by
  obtain ⟨op, kind, k⟩ := p
  unfold addPartial
  refine (M.bind_ok (M.get_run v)).trans ?_
  unfold partialState partialLine heldLine
  dsimp only
  by_cases h : (lookupD L1Line.empty (v.core (coreOf v.cur)).lines (a / 128)).upd = some ⟨op, kind, k⟩
  · simp only [if_pos h]
    rfl
  · simp only [if_neg h]
    refine (M.bind_ok (M.modify_run ..)).trans ?_
    rw [← allotted_eq]
    generalize allotted (coreOf v.cur) (a / 128) v = u
    rfl

theorem keeps2_register (line : Nat) : Keeps2 fun s => s.register line := by
  refine keeps2_of (f := fun (d : List Nat) s =>
    let s := if ((d.filter fun l => l ≠ line).filter fun l => sliceOf (l * 128) = sliceOf (line * 128)).length < 8192 then s
      else match (d.filter fun l => l ≠ line).filter fun l => sliceOf (l * 128) = sliceOf (line * 128) with
        | l :: _ => s.recall l
        | [] => s
    { s with units := { s.units with directory := (s.units.directory.filter fun l => l ≠ line) ++ [line] } })
    (fun s => s.units.directory) (fun _ _ => rfl) fun d => ?_
  refine Keeps2.comp (f := fun s => if ((d.filter fun l => l ≠ line).filter fun l => sliceOf (l * 128) = sliceOf (line * 128)).length < 8192 then s
      else match (d.filter fun l => l ≠ line).filter fun l => sliceOf (l * 128) = sliceOf (line * 128) with
        | l :: _ => s.recall l
        | [] => s)
    (g := fun s => { s with units := { s.units with directory := (s.units.directory.filter fun l => l ≠ line) ++ [line] } }) ?_
    (Blind.keeps2 (fun _ _ => rfl) fun _ => ⟨rfl, rfl, rfl, rfl, rfl, rfl⟩)
  split
  · exact keeps2_id
  · split
    · exact keeps2_recall _
    · exact keeps2_id

theorem keeps2_allotted (core line : Nat) : Keeps2 (allotted core line) := by
  intro s t r u v h
  exact keeps2_foldl (f := fun v g => v.putTag (line * 128 + 16 * g) false) (fun g => keeps2_putTag (line * 128 + 16 * g) false) (List.range 8)
    (keeps2_register line (keeps2_l1Room core line (keeps2_leaveLine core line h)))

section
variable {s u v : State} {t r : Strand} (h : Twin s t r u v)
include h

theorem Twin.heldLine (core line : Nat) : Claims.heldLine v core line = Claims.heldLine u core line := by
  unfold Claims.heldLine
  rw [h.core]

theorem Twin.partialState (core line : Nat) (p : UpdateOnly) : Twin s t r (Claims.partialState core line p u) (Claims.partialState core line p v) := by
  unfold Claims.partialState
  rw [h.heldLine]
  split
  · exact h
  · exact keeps2_allotted core line h

theorem Twin.setLine (core line : Nat) (l : L1Line) : Twin s t r (Claims.setLine core line l u) (Claims.setLine core line l v) := by
  unfold Claims.setLine
  rw [h.core]
  exact keeps2_withCore _ _ h

end

/-! ### The line of a partial -/

theorem get_overwrite {bs new : List Byte} {o : Nat} (ho : o ≤ bs.length) : ((overwrite bs o new).drop o).take new.length = new := by
  unfold overwrite
  rw [List.append_assoc, List.drop_left' (List.length_take_of_le ho), List.take_left]

/-- Equal blocks in a row. -/
theorem getD_blocks {b : List Byte} {k : Nat} (hb : b.length = k) (n : Nat) : ∀ j < n * k, ((List.range n).flatMap fun _ => b).getD j 0 = b.getD (j % k) 0 := by
  have hrep : ∀ (l : List Nat) (j : Nat), j < l.length * k → (l.flatMap fun _ => b).getD j 0 = b.getD (j % k) 0 := by
    intro l
    induction l with
    | nil => intro j hj; simp at hj
    | cons x l ih =>
      intro j hj
      rw [List.flatMap_cons]
      by_cases hlt : j < k
      · rw [List.getD_append _ _ _ _ (by omega), Nat.mod_eq_of_lt hlt]
      · rw [List.length_cons, Nat.add_mul] at hj
        rw [List.getD_append_right _ _ _ _ (by omega), hb, ih _ (by omega), Nat.mod_eq_sub_mod (a := j) (by omega)]
  intro j hj
  exact hrep _ j (by rwa [List.length_range])

theorem length_blocks (b : List Byte) (n : Nat) : ((List.range n).flatMap fun _ => b).length = n * b.length := by
  simp

/-- A piece of bytes, byte by byte. -/
theorem get_eq_map {l : L1Line} {off k : Nat} (h : off + k ≤ l.bytes.length) : l.get off k = (List.range k).map fun i => l.bytes.getD (off + i) 0 := by
  refine List.ext_getElem (by simp [L1Line.get]; omega) fun i h1 h2 => ?_
  have hi : i < k := by simpa using h2
  simp only [L1Line.get, List.getElem_take, List.getElem_drop, List.getElem_map, List.getElem_range]
  rw [List.getD_eq_getElem _ _ (by omega)]

/-- The bytes of a partial's line before it is changed. -/
def before (s : State) (core line : Nat) (p : UpdateOnly) (j : Nat) : Byte :=
  if (heldLine s core line).upd = some p then (heldLine s core line).bytes.getD j 0 else (leBytes p.k (partialIdentity p.op p.kind p.k)).getD (j % p.k) 0

section
variable {s : State} {core line off y : Nat} {p : UpdateOnly} (hk : p.k = 4 ∨ p.k = 8)
variable (hlen : (heldLine s core line).upd = some p → (heldLine s core line).bytes.length = 128)
include hk hlen

theorem partialLine_bytes : (partialLine s core line p).upd = some p ∧ (partialLine s core line p).bytes.length = 128 ∧
    ∀ j < 128, (partialLine s core line p).bytes.getD j 0 = before s core line p j := by
  have hmul : 128 / p.k * p.k = 128 := by rcases hk with h | h <;> rw [h]
  unfold partialLine before
  split
  case isTrue h => exact ⟨h, hlen h, fun _ _ => rfl⟩
  case isFalse h =>
    refine ⟨rfl, ?_, fun j hj => ?_⟩
    · rw [length_blocks, length_leBytes, hmul]
    · exact getD_blocks (length_leBytes ..) _ j (by rwa [hmul])

theorem plus_bytes (hoff : off + p.k ≤ 128) (hp : p.kind = 0 ∨ (p.kind = 1 ∧ p.k = 4) ∨ (p.kind = 2 ∧ p.k = 8)) (hy : y < 2 ^ (8 * p.k)) :
    let l := plus (partialLine s core line p) off p y
    l.upd = some p ∧ l.bytes.length = 128 ∧ (∀ j < 128, (j < off ∨ off + p.k ≤ j) → l.bytes.getD j 0 = before s core line p j) ∧
    leNat ((l.bytes.drop off).take p.k) = combine p.op p.kind p.k (leNat ((List.range p.k).map fun i => before s core line p (off + i))) y := by
  intro l
  obtain ⟨hupd, hlength, hbytes⟩ := partialLine_bytes hk hlen
  have hget : (partialLine s core line p).get off p.k = (List.range p.k).map fun i => before s core line p (off + i) := by
    rw [get_eq_map (by omega)]
    exact List.map_congr_left fun i hi => hbytes _ (by have := List.mem_range.mp hi; omega)
  obtain ⟨sum, hsum⟩ : ∃ sum, combine p.op p.kind p.k (leNat ((partialLine s core line p).get off p.k)) y = sum := ⟨_, rfl⟩
  have hl : l.bytes = overwrite (partialLine s core line p).bytes off (leBytes p.k sum) := by rw [← hsum]; rfl
  have hlt : sum < 2 ^ (8 * p.k) := by
    rw [← hsum, hget]
    refine combine_lt hp ?_ hy
    have := leNat_lt ((List.range p.k).map fun i => before s core line p (off + i))
    rwa [List.length_map, List.length_range] at this
  have hin : off + (leBytes p.k sum).length ≤ (partialLine s core line p).bytes.length := by rw [length_leBytes, hlength]; exact hoff
  refine ⟨hupd, ?_, fun j hj hout => ?_, ?_⟩
  · rw [hl, length_overwrite hin, hlength]
  · rw [hl, getD_overwrite hin, if_neg (by rw [length_leBytes]; omega), hbytes j hj]
  · have htake := get_overwrite (bs := (partialLine s core line p).bytes) (new := leBytes p.k sum) (o := off) (by omega)
    rw [length_leBytes] at htake
    rw [hl, htake, leNat_leBytes, Nat.mod_eq_of_lt hlt, ← hsum, hget]

end

/-! ### The instruction -/

section
variable {o : OpRRR} {s : State} {ins : Instr} {op kind k a : Nat} {e : Word} (h : Issues s [o.a, o.b, o.c])
variable (hx : exec ins s = amou o op kind k s) (hk : k = 4 ∨ k = 8) (hopens : Opens s (sumAt s o) (Cap.st ||| Cap.atm) k a e)
include h hx hk hopens

/-- What follows the check of `amou` at a place of this package. -/
theorem amou_leads (hplace : AtHome s a) {u v : State} (hbody : ∀ va p, pkgOf p = s.pkg → localOf p = a → pteM e = false →
      amouHere va p e op kind k ((x s o.a).toNat % 2 ^ (8 * k)) (s.withSelf (s.self.begun (amouDesc o))) = .ok () v)
    (htwin : Twin s s.self (s.self.begun (amouDesc o)) u v) : Leads ins s u := by
  obtain ⟨p, haccess, hpkg, hloc, he, -⟩ := hopens.place (k := k) (by omega)
  have hreads : SameReads (s.withSelf (s.self.begun (amouDesc o))).self s.self := by rw [State.self_withSelf]; exact .begun ..
  have hclear : s.self.Clear (amouDesc o).regs := h.clear (by simp [amouDesc, threeSource, wSrc])
  refine leads_of_twin_begun (d := amouDesc o) hx Steer.noConfusion hclear ?_ htwin
  refine (M.bind_ok (h.readX_same hreads 0 (by simp))).trans ((M.bind_ok (h.readW_same hreads 1 (by simp))).trans
    ((M.bind_ok (h.readX_same hreads 2 (by simp))).trans
      ((M.bind_ok (haccess (s.withSelf (s.self.begun (amouDesc o))) (identity_begun ..) rfl rfl)).trans ?_)))
  dsimp only
  refine (M.bind_ok (checkAtomicPlace_run (s := s) (v := s.withSelf (s.self.begun (amouDesc o))) hpkg rfl hloc hplace _)).trans ((M.bind_ok (M.get_run _)).trans ?_)
  rw [if_neg (by rw [he]; decide), if_neg (by exact not_not_intro hpkg)]
  exact hbody _ p hpkg hloc he

/-- A place that may not be cached, or is uncached, combines at once. -/
theorem amou_uncached (hplace : DirectOwn s a ∨ (cacheable a = true ∧ pteNc e = true)) :
    let u := s.leaveLine (coreOf s.cur) (a / 128)
    NoPartials u → u.firstBad a k = none →
    Leads ins s (u.homePut a (leBytes k (combine op kind k (leNat (u.bytesAt a k)) ((x s o.a).toNat % 2 ^ (8 * k))))) := by
  intro u hpart hbad
  obtain ⟨y, hy⟩ : ∃ y, (x s o.a).toNat % 2 ^ (8 * k) = y := ⟨_, rfl⟩
  have hhome : AtHome s a := by
    rcases hplace with h | h
    · exact .inr h
    · exact .inl h.1
  have hnot : (cacheable a && !pteNc e) = false := by
    rcases hplace with h | h
    · unfold cacheable
      rcases h with ⟨o, hp, -⟩ | ⟨q, l, o, hp⟩ <;> rw [hp] <;> rfl
    · rw [h.2, Bool.not_true, Bool.and_false]
  obtain ⟨p₀, -, -, -, -, halign⟩ := hopens.place (k := k) (by omega)
  let v := s.withSelf (s.self.begun (amouDesc o))
  obtain ⟨v', hv'⟩ : ∃ v', v' = v.leaveLine (coreOf s.cur) (a / 128) := ⟨_, rfl⟩
  have hleft : Twin s s.self (s.self.begun (amouDesc o)) u v' := hv' ▸ keeps2_leaveLine (coreOf s.cur) (a / 128) (Twin.begun s (amouDesc o))
  have hput := keeps2_homePut a (leBytes k (combine op kind k (leNat (u.bytesAt a k)) y)) hleft
  rw [hy]
  refine amou_leads h hx hk hopens hhome (fun va p hpkg hloc he => ?_) hput
  rw [hy]
  have hcache : v.mayCache p e = false := by
    unfold State.mayCache
    rw [hloc, he, Bool.and_assoc, Bool.and_assoc, Bool.not_false, Bool.and_true, hnot, Bool.and_false]
  have henter : enterHome va a k v = .ok () v' := by
    rw [hv']
    exact enterHome_run (by omega) halign va ((congrArg (State.firstBad · a k) hv').symm.trans ((hleft.firstBad a k).trans hbad))
  refine (M.bind_ok (M.get_run v)).trans ?_
  rw [hcache, if_neg (by decide), hloc]
  refine (M.bind_ok henter).trans ?_
  have hbytes := hleft.bytesAt a k
  have hstore := homeStore_run (s := s) (hleft.noPartials hpart) hleft.cur hhome (leBytes k (combine op kind k (leNat (u.bytesAt a k)) y))
  rcases place_atHome hhome with hp | ⟨d, hp⟩ | ⟨o, hp, -⟩ | ⟨q, l, o, hp⟩ <;> rw [hp]
  · exact (M.modify_run ..).trans (by rw [hbytes])
  · exact (M.modify_run ..).trans (by rw [hbytes])
  · exact (M.bind_ok (M.get_run v')).trans (by rw [hbytes]; exact hstore)
  · exact (M.modify_run ..).trans (by rw [hbytes])

/-- A place that may be cached takes it in a partial. -/
theorem amou_cached (hcache : cacheable a = true) (hnc : pteNc e = false) :
    Leads ins s (setLine (coreOf s.cur) (a / 128)
      (plus (partialLine s (coreOf s.cur) (a / 128) ⟨op, kind, k⟩) (a % 128) ⟨op, kind, k⟩ ((x s o.a).toNat % 2 ^ (8 * k)))
      (partialState (coreOf s.cur) (a / 128) ⟨op, kind, k⟩ s)) := by
  obtain ⟨y, hy⟩ : ∃ y, (x s o.a).toNat % 2 ^ (8 * k) = y := ⟨_, rfl⟩
  have htwin := ((Twin.begun s (amouDesc o)).partialState (coreOf s.cur) (a / 128) ⟨op, kind, k⟩).setLine (coreOf s.cur) (a / 128)
    (plus (partialLine s (coreOf s.cur) (a / 128) ⟨op, kind, k⟩) (a % 128) ⟨op, kind, k⟩ y)
  rw [hy]
  refine amou_leads h hx hk hopens (.inl hcache) (fun va p hpkg hloc he => ?_) htwin
  rw [hy]
  have hmay : (s.withSelf (s.self.begun (amouDesc o))).mayCache p e = true := by
    unfold State.mayCache
    rw [hloc, he, hcache, hnc, decide_eq_true (p := pkgOf p = (s.withSelf (s.self.begun (amouDesc o))).pkg) hpkg]
    rfl
  refine (M.bind_ok (M.get_run _)).trans ?_
  rw [hmay, if_pos rfl, hloc]
  exact addPartial_run (s.withSelf (s.self.begun (amouDesc o))) a y ⟨op, kind, k⟩

end

theorem updatesAccumulate : UpdatesAccumulate := by
  refine ⟨fun o m n s ins op kind k a e h hins => ?_, partialIdentity_neutral⟩
  intro c core line y held hopens
  have hk : (k = 4 ∨ k = 8) ∧ (kind = 0 ∨ (kind = 1 ∧ k = 4) ∨ (kind = 2 ∧ k = 8)) ∧ exec ins s = amou o op kind k s := by
    obtain ⟨rfl, rfl, rfl, rfl⟩ | ⟨rfl, rfl, rfl, rfl⟩ | ⟨rfl, rfl, rfl, rfl⟩ := hins
    · exact ⟨by split <;> simp, .inl rfl, rfl⟩
    · exact ⟨.inl rfl, .inr (.inl ⟨rfl, rfl⟩), rfl⟩
    · exact ⟨.inr rfl, .inr (.inr ⟨rfl, rfl⟩), rfl⟩
  obtain ⟨hk, hkind, hx⟩ := hk
  refine ⟨fun hplace => amou_uncached h hx hk hopens hplace, ?_⟩
  intro hcache hnc same u before' hlen
  obtain ⟨p, -, -, -, -, halign⟩ := hopens.place (k := k) (by omega)
  obtain ⟨hupd, hlength, hout, hsum⟩ := plus_bytes (s := s) (core := core) (line := line) (off := a % 128) (y := y) (p := ⟨op, kind, k⟩) hk hlen
    (by change a % 128 + k ≤ 128; rcases hk with rfl | rfl <;> omega) hkind (Nat.mod_lt _ (Nat.two_pow_pos _))
  exact ⟨_, hupd, hlength, hout, hsum, amou_cached h hx hk hopens hcache hnc⟩

/-! ## `amof` -/

/-- The descriptor of `amof`. -/
def amofDesc (o : OpRRR) : Desc := ⟨o.st, 0, .access, [wBoth o.a, wSrc o.b, wSrc o.c]⟩

section
variable {o : OpRRR} {m : AmoMod} {s : State} {k p : Nat} {e : Word} (h : Issues s [o.a, o.b, o.c]) (hkm : (if m.w32 then 4 else 8) = k)
variable (hcheck : checkFault s (sumAt s o) (Cap.ld ||| Cap.st ||| Cap.atm) [Cap.kMemory] k = none)
variable (hmaps : Maps s (Cap.tenant (sumAt s o).val) (Cap.cursor (sumAt s o).val) (Cap.ld ||| Cap.st ||| Cap.atm) p e)
include h hkm hcheck hmaps

theorem amof_refused (hno : place (localOf p) ≠ .dram ∨ pteM e = true) : Traps (.amof o m) s cPerm (Cap.cursor (sumAt s o).val) := by
  have hreads : SameReads (s.withSelf (s.self.begun (amofDesc o))).self s.self := by rw [State.self_withSelf]; exact .begun ..
  have hclear : s.self.Clear (amofDesc o).regs := h.clear (by simp [amofDesc, wBoth, wSrc])
  have hbad : (decide (place (localOf p) ≠ .dram) || pteM e) = true := by
    rw [Bool.or_eq_true, decide_eq_true_eq]
    exact hno
  refine traps_of_runOp (d := amofDesc o) rfl Steer.noConfusion hclear ?_ (by decide)
  refine (M.bind_ok (h.readX_same hreads 0 (by simp))).trans ((M.bind_ok (h.readW_same hreads 1 (by simp))).trans
    ((M.bind_ok (h.readX_same hreads 2 (by simp))).trans ?_))
  dsimp only
  rw [hkm]
  refine (M.bind_ok (checkAccess_run (c := sumAt s o) (identity_begun _) rfl rfl hcheck hmaps)).trans ?_
  exact M.bind_error (raiseIf_of hbad ..)

theorem amof_home (hdram : place (localOf p) = .dram) (he : pteM e = false) (hpkg : pkgOf p = s.pkg) (hwin : o.imm.toNat % 64 = 0) :
    let a := localOf p
    let u := (released s m.ord.toNat m.scope.toNat).leaveLine (coreOf s.cur) (a / 128)
    NoPartials u → u.firstBad a k = none →
    let old := leNat (u.bytesAt a k)
    let t := acquired (u.homePut a (leBytes k ((old + (x s o.a).toNat) % 2 ^ (8 * k)))) m.ord.toNat m.scope.toNat
    Leads (.amof o m) s (t.withSelf (t.self.putW o.a.toNat (Reg.ofWord (BitVec.ofNat 64 old)))) := by
  intro a u hpart hbad old t
  have hreads : SameReads (s.withSelf (s.self.begun (amofDesc o))).self s.self := by rw [State.self_withSelf]; exact .begun ..
  have hclear : s.self.Clear (amofDesc o).regs := h.clear (by simp [amofDesc, wBoth, wSrc])
  have hk : k = 4 ∨ k = 8 := by rw [← hkm]; split <;> simp
  have halign : a % k = 0 := by
    have hpage := hmaps.aligned
    have hmod := aligned_of_checkFault hcheck (by omega)
    rcases hk with rfl | rfl <;> omega
  obtain ⟨y, hy⟩ : ∃ y, (x s o.a).toNat % 2 ^ (8 * k) = y := ⟨_, rfl⟩
  obtain ⟨new, hnew⟩ : ∃ new, (old + (x s o.a).toNat) % 2 ^ (8 * k) = new := ⟨_, rfl⟩
  have hsum : (old + y) % 2 ^ (8 * k) = new := by rw [← hy, Nat.add_mod_mod, hnew]
  obtain ⟨v1, hv1⟩ : ∃ v, v = released (s.withSelf (s.self.begun (amofDesc o))) m.ord.toNat m.scope.toNat := ⟨_, rfl⟩
  have hrel : Twin s s.self (s.self.begun (amofDesc o)) (released s m.ord.toNat m.scope.toNat) v1 :=
    hv1 ▸ keeps2_released m.ord.toNat m.scope.toNat (Twin.begun s (amofDesc o))
  obtain ⟨v2, hv2⟩ : ∃ v, v = v1.leaveLine (coreOf s.cur) (a / 128) := ⟨_, rfl⟩
  have hleft : Twin s s.self (s.self.begun (amofDesc o)) u v2 := hv2 ▸ keeps2_leaveLine (coreOf s.cur) (a / 128) hrel
  have hput := keeps2_homePut a (leBytes k new) hleft
  have hacq := keeps2_acquired m.ord.toNat m.scope.toNat hput
  have hcur : v1.cur = s.cur := hrel.cur
  have henter : enterHome (Cap.cursor (sumAt s o).val) a k v1 = .ok () v2 := by
    rw [hv2, ← hcur]
    exact enterHome_run (by omega) halign _ (by rw [hcur, ← hv2]; exact (hleft.firstBad a k).trans hbad)
  have hold : leNat (v2.bytesAt a k) = old := congrArg leNat (hleft.bytesAt a k)
  have hhome : amofHere (Cap.cursor (sumAt s o).val) a k y v1 = .ok old (v2.homePut a (leBytes k new)) := by
    refine (M.bind_ok henter).trans ((M.bind_ok (homeRead_run (hleft.noPartials hpart) a k)).trans ?_)
    rw [hold, hsum]
    exact M.bind_ok (homeWrite_run (hleft.noPartials hpart) ..)
  have hfine : (decide (place (localOf p) ≠ .dram) || pteM e) = false := by rw [hdram, he]; rfl
  have hmine : (decide (pkgOf p = v1.pkg) && decide (o.imm.toNat % 64 = 0)) = true := by
    rw [decide_eq_true (hpkg.trans hrel.pkg.symm), decide_eq_true hwin]
    rfl
  refine leads_of_twin_putW (d := amofDesc o) (v := acquired (v2.homePut a (leBytes k new)) m.ord.toNat m.scope.toNat) rfl Steer.noConfusion hclear ?_ (by
    change Twin s s.self _ (acquired (u.homePut a (leBytes k ((old + (x s o.a).toNat) % 2 ^ (8 * k)))) m.ord.toNat m.scope.toNat) _
    rw [hnew]
    exact hacq)
  refine (M.bind_ok (h.readX_same hreads 0 (by simp))).trans ((M.bind_ok (h.readW_same hreads 1 (by simp))).trans
    ((M.bind_ok (h.readX_same hreads 2 (by simp))).trans ?_))
  dsimp only
  rw [hkm, hy]
  refine (M.bind_ok (checkAccess_run (c := sumAt s o) (identity_begun _) rfl rfl hcheck hmaps)).trans ?_
  refine (M.bind_ok (raiseIf_of_not hfine ..)).trans ((M.bind_ok (ordRelease_run ..)).trans ?_)
  rw [← hv1]
  refine (M.bind_ok (M.get_run v1)).trans ?_
  dsimp only
  rw [if_pos hmine]
  refine (M.bind_ok (attempt_ok hhome)).trans ?_
  exact (M.bind_ok (ordAcquire_run ..)).trans rfl

end

theorem fetchAndAdd : FetchAndAdd := by
  intro o m s p e h k c perm a hcheck hmaps
  exact ⟨fun hno => amof_refused h rfl hcheck hmaps hno, fun hdram he hpkg hwin => amof_home h rfl hcheck hmaps hdram he hpkg hwin⟩

/-- Settles O42: `amou` adds into a partial or combines at once, and `amof` adds at its home. -/
theorem updatesAtMemory : Obligations.UpdatesAtMemory := ⟨updatesAccumulate, fetchAndAdd⟩

end Sys2Proof.Claims
end

section
/-! SUPPORT. O39: operations of the array (R226, R229, R232). -/

namespace Sys2Proof.Claims

open Sys2Proof.Machine

/-! ## The array is taken -/

section
variable {s v : State} {e : DispatchEntry}

theorem admits_unlimited {colony res n : Nat} (h : ∀ c, v.colony colony = some c → c.allocOf res = unlimited) : v.admits colony res n = true := by
  unfold State.admits
  cases hc : v.colony colony with
  | none => rfl
  | some c =>
    change c.admits res n = true
    unfold Colony.admits
    rw [decide_eq_true (h c hc), Bool.or_true]
    rfl

theorem charge_unlimited {colony res n : Nat} (h : ∀ c, v.colony colony = some c → c.allocOf res = unlimited) : v.charge colony res n = v := by
  unfold State.charge
  cases hc : v.colony colony with
  | none => rfl
  | some c => exact if_pos (h c hc)

theorem takeArray_run (hfree : ArrayFree v) (hsid : e.sid = v.cur) : takeArray e v = .ok () (v.countCore (coreOf v.cur) 6 (v.entryCharge e)) := by
  obtain ⟨hclear, hspent, hun⟩ := hfree
  have hcovered : v.covered e = true := by
    unfold State.covered
    rw [hsid, admits_unlimited hun, hspent]
    rfl
  have hpass : passQueue e v = .ok () v := by
    refine (M.bind_ok (M.get_run v)).trans ?_
    dsimp only
    rw [hclear, hcovered]
    rfl
  refine (M.bind_ok hpass).trans ((M.modify_run ..).trans ?_)
  dsimp only
  rw [charge_unlimited hun]

/-! ## An operation is issued -/

/-- A strand whose watermark starts (R226). -/
def startMark (t : Strand) (acc : Nat) : Strand := t.withMark acc (BitVec.ofNat 64 ((t.mark acc).toNat / 256 * 256 + 64))

/-- A quad with one more operation. -/
def withOp (v : QuadState) (o : MatOp) : QuadState := { v with nextOp := v.nextOp + 1, ops := v.ops ++ [{ o with id := v.nextOp }] }

/-- The state in which an operation has been issued. -/
def issued (q : Nat) (o : MatOp) (v : State) : State :=
  posting ((v.withQuad q (withOp (v.quad q) o)).withStrand o.sid (startMark (v.strand o.sid) o.acc))
    (List.replicate (o.rows.length / max 1 o.block) (.matrixRowWrite q (v.quad q).nextOp))

theorem forIn_post (ev : Event) (l : List Nat) (v : State) : (forIn l PUnit.unit fun _ _ => (do
      post ev
      pure (.yield PUnit.unit) : M (ForInStep PUnit))) v = .ok ⟨⟩ (posting v (List.replicate l.length ev)) := by
  induction l generalizing v with
  | nil => exact congrArg (EStateM.Result.ok PUnit.unit) (posting_nil v).symm
  | cons n l ih =>
    rw [List.forIn_cons]
    have hstep : (do
      post ev
      pure (.yield PUnit.unit) : M (ForInStep PUnit)) v = .ok (.yield ⟨⟩) (posting v [ev]) := rfl
    refine (M.bind_ok hstep).trans ((ih (posting v [ev])).trans ?_)
    rw [posting_posting]
    rfl

theorem issueOp_run {q : Nat} {o : MatOp} (hrows : o.rows ≠ [] ∨ o.gang ≠ none) : issueOp q o v = .ok (v.quad q).nextOp (issued q o v) := by
  have hgo : (o.rows.isEmpty && o.gang.isNone) = false := by
    rcases hrows with h | h
    · rw [List.isEmpty_eq_false_iff.mpr h, Bool.false_and]
    · rw [Option.isNone_eq_false_iff.mpr (Option.isSome_iff_ne_none.mpr h), Bool.and_false]
  obtain ⟨w, hw⟩ : ∃ w, w = (v.withQuad q (withOp (v.quad q) o)).withStrand o.sid (startMark (v.strand o.sid) o.acc) := ⟨_, rfl⟩
  have hloop := forIn_post (.matrixRowWrite q (v.quad q).nextOp) (List.range (o.rows.length / max 1 o.block)) w
  rw [List.length_range] at hloop
  have hget : getQuad q v = .ok (v.quad q) v := rfl
  refine (M.bind_ok hget).trans ?_
  refine (M.bind_ok (modQuad_run ..)).trans ((M.bind_ok (modStrand_run ..)).trans ?_)
  rw [hw] at hloop
  refine (M.bind_ok hloop).trans ?_
  rw [hgo, if_neg (by decide)]
  rfl

end

section
variable {s w : State} {q : Nat} {o : MatOp}

theorem self_issued (hsid : o.sid = w.cur) : (issued q o w).self = startMark w.self o.acc := by
  have hself : (issued q o w).self = ((w.withQuad q (withOp (w.quad q) o)).withStrand o.sid (startMark (w.strand o.sid) o.acc)).strand w.cur := rfl
  rw [hself, hsid, State.strand_withStrand_same]
  rfl

theorem strand_issued {b : Nat} (hb : b ≠ o.sid) : (issued q o w).strand b = w.strand b := by
  have hself : (issued q o w).strand b = ((w.withQuad q (withOp (w.quad q) o)).withStrand o.sid (startMark (w.strand o.sid) o.acc)).strand b := rfl
  rw [hself, State.strand_withStrand_ne _ _ _ _ hb]
  rfl

theorem quad_issued : (issued q o w).quad q = withOp (w.quad q) o := lookupD_storeAt_same ..

theorem agenda_issued : (issued q o w).agenda = w.agenda ++ List.replicate (o.rows.length / max 1 o.block) (.matrixRowWrite q (w.quad q).nextOp) := rfl

/-- Counter events are none of the array's. -/
theorem count_rowWrite {es : List Event} (h : ∀ e ∈ es, ∃ a n, e = Event.counterFire a n) (q id : Nat) : es.count (.matrixRowWrite q id) = 0 := by
  rw [List.count_eq_zero]
  intro hin
  obtain ⟨a, n, he⟩ := h _ hin
  cases he

/-- An operation of the current strand that ends with the issue of a product. -/
theorem starts_of {i : Instr} {d : Desc} {body : M Unit} {k : Nat} (hx : exec i s = runOp d body s) (hl : d.steer ≠ .lanes) (hc : s.self.Clear d.regs)
    (hbody : ∃ n, body (s.withSelf (s.self.begun d)) = .ok () (issued (quadOf s.cur) o ((s.withSelf (s.self.begun d)).countCore (coreOf s.cur) k n)))
    (hsid : o.sid = s.cur) (hblock : 1 ≤ o.block) : Starts i s o := by
  obtain ⟨n, hbody⟩ := hbody
  obtain ⟨v, hv⟩ : ∃ v, v = (s.withSelf (s.self.begun d)).countCore (coreOf s.cur) k n := ⟨_, rfl⟩
  have hself : v.self = s.self.begun d := by rw [hv, State.self_countCore, State.self_withSelf]
  have hcur : v.cur = s.cur := by rw [hv]; rfl
  have hquad : v.quad (quadOf s.cur) = s.quad (quadOf s.cur) := by rw [hv]; rfl
  have hother (b : Nat) (hb : b ≠ s.cur) : v.strand b = s.strand b := by
    rw [hv, State.strand_countCore]
    exact State.strand_withStrand_ne _ _ _ _ hb
  have hmem : v.mem = s.mem := by rw [hv]; rfl
  obtain ⟨es, hagenda, hes⟩ := (s.withSelf (s.self.begun d)).agenda_countCore_fires (coreOf s.cur) k n
  rw [← hv] at hagenda hbody
  have hself' : (issued (quadOf s.cur) o v).self = startMark (s.self.begun d) o.acc := by rw [self_issued (hsid.trans hcur.symm), hself]
  obtain ⟨-, -, happart, -⟩ := id hc
  have hleads : Leads i s (issued (quadOf s.cur) o v) := leads_of_runWith (body := do body; pure .next) hx hl rfl hc (M.bind_ok hbody) (.refl _)
    (by rw [hself']; exact happart) (by rw [hself']; rfl) (by rw [hself']; rfl) (by rw [hself']; rfl)
  obtain ⟨t, ht, hpcc, hret, hcur', hphys, hstill, hstrands, -, ⟨es', hagenda', hes'⟩, hrest⟩ := hleads
  have hquads : t.quads = (issued (quadOf s.cur) o v).quads := by
    have h := congrArg State.quads hrest
    exact h
  refine ⟨t, ht, hpcc, hret, ?_, fun p => ?_, ?_, fun b hb => ?_, ?_, ?_⟩
  · have hq : t.quad (quadOf s.cur) = (issued (quadOf s.cur) o v).quad (quadOf s.cur) := congrArg (lookupD _ · _) hquads
    rw [hq, quad_issued, hquad]
    rfl
  · rw [hphys p, hself']
    rfl
  · rw [hstill, hself']
    rfl
  · have hne : b ≠ (issued (quadOf s.cur) o v).cur := by
      change b ≠ v.cur
      rw [hcur]
      exact hb
    rw [hstrands b hne, strand_issued (by rw [hsid]; exact hb), hother b hb]
  · have hm : t.mem = (issued (quadOf s.cur) o v).mem := by
      have h := congrArg State.mem hrest
      exact h
    rw [hm]
    exact hmem
  · rw [hagenda', agenda_issued, hagenda, hquad, Nat.max_eq_right hblock]
    simp only [List.count_append, count_rowWrite hes, count_rowWrite hes', List.count_replicate_self, Nat.add_zero]
    rfl

end

end Sys2Proof.Claims
end

section
/-! PROOF. O39: dense and sparse products (R221, R227, R229, R237, R240 to R243). -/

namespace Sys2Proof.Claims

open Sys2Proof.Machine

/-! ## Dense products -/

/-- FP64 products are those of two FP64 operands. -/
theorem pairing_f64 {ternary : Bool} {a b : Nat} {p : Pairing} (h : pairing ternary a b = some p) : p.kind = .f64 ↔ b = 0 := by
  unfold pairing at h
  simp only [List.contains_eq_mem, List.mem_cons, List.not_mem_nil, or_false, Bool.and_eq_true, decide_eq_true_eq] at h
  split_ifs at h
  all_goals
    cases h
    simp only [reduceCtorEq, true_iff, false_iff]
    omega

theorem denseFault_unfit {ternary : Bool} {dL dR : BitVec 32} {row0 : Nat} (h : pairing ternary (descFmt dL) (descFmt dR) = none ∨
    descCols dR ≠ descCols dL ∨ (descFmt dR = 0 ∧ 32 < descRows dR)) : denseFault ternary dL dR row0 = some dR := by
  unfold denseFault
  cases hp : pairing ternary (descFmt dL) (descFmt dR) with
  | none => rfl
  | some p =>
    rw [hp] at h
    refine if_pos ?_
    rw [Bool.or_eq_true, Bool.and_eq_true, decide_eq_true_eq, decide_eq_true_eq, decide_eq_true_eq, pairing_f64 hp]
    simpa using h

theorem denseFault_fit {ternary : Bool} {dL dR : BitVec 32} {row0 : Nat} (h : ¬(pairing ternary (descFmt dL) (descFmt dR) = none ∨
    descCols dR ≠ descCols dL ∨ (descFmt dR = 0 ∧ 32 < descRows dR))) :
    denseFault ternary dL dR row0 = if row0 + descRows dL > 64 then some dL else none := by
  unfold denseFault
  cases hp : pairing ternary (descFmt dL) (descFmt dR) with
  | none => exact absurd (.inl hp) h
  | some p =>
    rw [hp] at h
    refine if_neg ?_
    rw [Bool.or_eq_true, Bool.and_eq_true, decide_eq_true_eq, decide_eq_true_eq, decide_eq_true_eq, pairing_f64 hp]
    simpa using h

/-- The descriptor of a dense product. -/
def denseDesc (o : OpRRR) : Desc := ⟨o.st, 0, .execute, [⟨4, o.a.toNat, false, true⟩, ⟨3, o.b.toNat, true, false⟩, ⟨3, o.c.toNat, true, false⟩]⟩

theorem dense_clear {o : OpRRR} {s : State} (h : Ready s [⟨4, o.a.toNat, false, true⟩, ⟨3, o.b.toNat, true, false⟩, ⟨3, o.c.toNat, true, false⟩]) :
    s.self.Clear (denseDesc o).regs := h.clear (fun u hu => ⟨u, hu, rfl, rfl⟩)

section
variable {o : OpRRR} {s : State} {i : Instr} {ternary : Bool} (hx : exec i s = denseProduct ternary o s)
variable (h : Ready s [⟨4, o.a.toNat, false, true⟩, ⟨3, o.b.toNat, true, false⟩, ⟨3, o.c.toNat, true, false⟩])
include hx h

theorem dense_refused {d : BitVec 32} (hd : denseFault ternary (s.self.desc o.b.toNat) (s.self.desc o.c.toNat) (o.imm.toNat % 64) = some d) :
    Traps i s cTdesc d.toNat := by
  refine traps_of_runOp (d := denseDesc o) hx Steer.noConfusion (dense_clear h) ?_ (by decide)
  have hd' : denseFault ternary ((s.withSelf (s.self.begun (denseDesc o))).self.desc o.b.toNat)
      ((s.withSelf (s.self.begun (denseDesc o))).self.desc o.c.toNat) (o.imm.toNat % 64) = some d := by rw [State.self_withSelf]; exact hd
  refine (M.bind_ok (M.get_run _)).trans ?_
  rw [hd']
  rfl

omit hx h in
theorem ArrayFree.begun {s : State} (h : ArrayFree s) (d : Desc) : ArrayFree (s.withSelf (s.self.begun d)) := h

theorem dense_starts (hfit : denseFault ternary (s.self.desc o.b.toNat) (s.self.desc o.c.toNat) (o.imm.toNat % 64) = none) (hfree : ArrayFree s) :
    Starts i s (denseOp s s.cur o.a.toNat o.b.toNat s.cur o.c.toNat (o.imm.toNat % 64) ternary) := by
  obtain ⟨v, hv⟩ : ∃ v, v = s.withSelf (s.self.begun (denseDesc o)) := ⟨_, rfl⟩
  have hd : denseFault ternary (v.self.desc o.b.toNat) (v.self.desc o.c.toNat) (o.imm.toNat % 64) = none := by rw [hv, State.self_withSelf]; exact hfit
  have hop : denseOp v v.cur o.a.toNat o.b.toNat v.cur o.c.toNat (o.imm.toNat % 64) ternary =
      denseOp s s.cur o.a.toNat o.b.toNat s.cur o.c.toNat (o.imm.toNat % 64) ternary := by
    have hstrand : v.strand v.cur = s.self.begun (denseDesc o) := by rw [hv]; exact State.self_withSelf ..
    have hcur : v.cur = s.cur := by rw [hv]; rfl
    unfold denseOp
    rw [hstrand, hcur]
    rfl
  have hrows : (denseOp s s.cur o.a.toNat o.b.toNat s.cur o.c.toNat (o.imm.toNat % 64) ternary).rows ≠ [] := by
    unfold denseOp denseRows
    dsimp only
    rw [ne_eq, List.map_eq_nil_iff, List.range_eq_nil]
    unfold descRows
    omega
  refine starts_of (d := denseDesc o) (k := 6) hx Steer.noConfusion (dense_clear h) ?_ rfl (le_refl _)
  rw [← hv]
  apply Exists.intro
  refine (M.bind_ok (M.get_run v)).trans ?_
  rw [hd]
  refine (M.bind_ok (takeArray_run (hv ▸ hfree.begun _) rfl)).trans ?_
  rw [hop]
  have hcur : v.cur = s.cur := by rw [hv]; rfl
  rw [hcur]
  exact (M.bind_ok (issueOp_run (.inl hrows))).trans rfl

end

theorem denseProductsIssue : DenseProductsIssue := by
  intro o s ternary i acc lt dL dR row0 w pair unfit h
  have hx : exec i s = denseProduct ternary o s := by
    cases ternary <;> rfl
  refine ⟨fun hun => dense_refused hx h (denseFault_unfit hun), fun hfit hbig => dense_refused hx h ?_, fun hfit hin hfree => ?_⟩
  · exact (denseFault_fit hfit).trans (if_pos hbig)
  · exact dense_starts hx h ((denseFault_fit hfit).trans (if_neg (by omega))) hfree

end Sys2Proof.Claims
end

section
/-! PROOF. O39, continued: sparse products (R240 to R243). -/

namespace Sys2Proof.Claims

open Sys2Proof.Machine

/-! ## The checks at issue -/

/-- What makes a control word bad (R243). -/
def SparseBad (blocks : Bool) (word : Word) (dR : BitVec 32) (row0 : Nat) : Prop :=
  fieldAt word 0 7 = 0 ∨ (if blocks then 4 else 64) < fieldAt word 0 7 ∨ fieldAt word 21 11 ≠ 0 ∨ 8 < fieldAt word 7 5 ∨
    pairing false (fieldAt word 7 5) (descFmt dR) = none ∨ (descFmt dR = 0 ∧ 32 < descRows dR) ∨
    64 < row0 + fieldAt word 0 7 * (if blocks then 16 else 1) ∨ (blocks = true ∧ descCols dR % 16 ≠ 0)

theorem sparseCheck_bad {blocks : Bool} {word : Word} {dR : BitVec 32} {row0 : Nat} (h : SparseBad blocks word dR row0) (v : State) :
    sparseCheck blocks word dR row0 v = .error (.trap cTdesc (BitVec.ofNat 64 (word.toNat % 2 ^ 32)) none) v := by
  have hraise : raiseIf true cTdesc (word.toNat % 2 ^ 32) v = .error (.trap cTdesc (BitVec.ofNat 64 (word.toNat % 2 ^ 32)) none) v := raiseIf_of rfl ..
  unfold SparseBad at h
  unfold sparseCheck sparseCtl
  dsimp only
  by_cases hfirst : (decide (fieldAt word 0 7 = 0) || decide (fieldAt word 0 7 > if blocks = true then 4 else 64) ||
      decide (fieldAt word 21 11 ≠ 0) || decide (fieldAt word 7 5 > 8)) = true
  · rw [if_pos hfirst]
    exact M.bind_error hraise
  · rw [if_neg hfirst]
    cases hp : pairing false (fieldAt word 7 5) (descFmt dR) with
    | none => exact M.bind_error hraise
    | some p =>
      have hkind := pairing_f64 hp
      dsimp only
      rw [if_pos]
      · exact M.bind_error hraise
      · rw [hp] at h
        simp only [Bool.or_eq_true, Bool.and_eq_true, decide_eq_true_eq, not_or, hkind, gt_iff_lt, ne_eq] at hfirst ⊢
        simp only [reduceCtorEq, false_or, ne_eq] at h
        tauto

theorem sparseCheck_good {blocks : Bool} {word : Word} {dR : BitVec 32} {row0 : Nat} (h : ¬SparseBad blocks word dR row0) (v : State) :
    ∃ p, sparseCheck blocks word dR row0 v = .ok p v := by
  unfold SparseBad at h
  simp only [not_or] at h
  obtain ⟨hm, hmax, hres, hfmt, hpair, hrows, hroom, hblocks⟩ := h
  obtain ⟨p, hp⟩ := Option.ne_none_iff_exists'.mp hpair
  have hkind := pairing_f64 hp
  unfold sparseCheck sparseCtl
  dsimp only
  rw [if_neg, hp]
  · dsimp only
    rw [if_neg]
    · exact ⟨p, rfl⟩
    · simp only [Bool.or_eq_true, Bool.and_eq_true, decide_eq_true_eq, hkind, gt_iff_lt]
      tauto
  · simp only [Bool.or_eq_true, decide_eq_true_eq, gt_iff_lt]
    tauto

/-! ## Reading an operand -/

section
variable {s v : State} (hid : v.self.identity = s.self.identity) (hcur : v.cur = s.cur) (htlb : v.tlb = s.tlb) (hpkg : v.pkg = s.pkg)
variable (hpart : NoPartials v) (hbad : ∀ a n, v.firstBad a n = s.firstBad a n) (hbytes : ∀ a n, v.bytesAt a n = s.bytesAt a n)
include hid hcur htlb hpkg hpart hbad hbytes

theorem readOperand_run {c : Reg} {off n x : Nat} (hn : n = 1 ∨ n = 2 ∨ n = 4 ∨ n = 8 ∨ n = 16) (h : Operand s c off n x) :
    readOperand c off n v = .ok x v := by
  obtain ⟨a, e, hopens, hdirect, hsound, rfl⟩ := h
  obtain ⟨p, haccess, hp, hloc, he, -⟩ := hopens.place hn
  have hread : (do
      let (p, e) ← checkAccess ⟨Cap.offset c.val off, c.tag⟩ Cap.ld [Cap.kMemory] n
      let (bs, _) ← loadBytes (Cap.cursor (Cap.offset c.val off)) p n ⟨0, 2, false, 1⟩ e (Cap.tenant (Cap.offset c.val off))
      pure (leNat bs) : M Nat) v = .ok (leNat (s.bytesAt a n)) v := by
    refine (M.bind_ok (haccess v hid hcur htlb)).trans ?_
    refine (M.bind_ok (loadBytes_direct (hp.trans hpkg.symm) hloc he hdirect hpart ((hbad a n).trans hsound) _ _ _)).trans ?_
    rw [hbytes]
    rfl
  exact (M.bind_ok (attempt_ok hread)).trans rfl

theorem readIndices_run {c : Reg} {b : Nat} (hb : b = 4 ∨ b = 8) {idx : Nat → Nat} (n : Nat) : ∀ k, (∀ j, k ≤ j → j < k + n → Operand s c (j * b) b (idx j)) →
    readIndices c b k n v = .ok ((List.range n).map fun i => (k + i, idx (k + i))) v := by
  induction n with
  | zero => intro k _; rfl
  | succ n ih =>
    intro k h
    have hfirst := readOperand_run hid hcur htlb hpkg hpart hbad hbytes (by omega) (h k (le_refl _) (by omega))
    have hrest := ih (k + 1) fun j hlo hhi => h j (by omega) (by omega)
    refine (M.bind_ok hfirst).trans ((M.bind_ok hrest).trans ?_)
    rw [List.range_succ_eq_map, List.map_cons, List.map_map]
    refine congrArg (EStateM.Result.ok · v) ?_
    refine congrArg ((k, idx k) :: ·) (List.map_congr_left fun i _ => ?_)
    change (k + 1 + i, idx (k + 1 + i)) = (k + (i + 1), idx (k + (i + 1)))
    rw [show k + 1 + i = k + (i + 1) by omega]

theorem readCode_run {c : Reg} {w k : Nat} {raw : Nat → Nat} (hw : max 1 (w / 8) = 1 ∨ max 1 (w / 8) = 2 ∨ max 1 (w / 8) = 4 ∨ max 1 (w / 8) = 8)
    (h : Operand s c (k * w / 8) (max 1 (w / 8)) (raw k)) : readCode c w k v = .ok (raw k / 2 ^ (k * w % 8) % 2 ^ w) v :=
  (M.bind_ok (readOperand_run hid hcur htlb hpkg hpart hbad hbytes (by omega) h)).trans rfl

end

/-! ## Lists of rows -/

/-- Rows of blocks, one block behind the other. -/
theorem flatten_grid {α : Type} (F : Nat → Nat → α) {n : Nat} (hn : 0 < n) (m : Nat) :
    ((List.range m).map fun r => (List.range n).map (F r)).flatten = (List.range (m * n)).map fun i => F (i / n) (i % n) := by
  induction m with
  | zero => simp
  | succ m ih =>
    rw [List.range_succ, List.map_append, List.flatten_append, ih, Nat.add_mul, Nat.one_mul, List.range_add, List.map_append, List.map_map]
    refine congrArg (_ ++ ·) ?_
    rw [List.map_singleton, List.flatten_singleton]
    refine List.map_congr_left fun j hj => ?_
    have hlt := List.mem_range.mp hj
    have hdiv : (m * n + j) / n = m := by rw [Nat.mul_comm, Nat.mul_add_div hn, Nat.div_eq_of_lt hlt, Nat.add_zero]
    have hmod : (m * n + j) % n = j := by rw [Nat.mul_comm, Nat.mul_add_mod, Nat.mod_eq_of_lt hlt]
    change F m j = F ((m * n + j) / n) ((m * n + j) % n)
    rw [hdiv, hmod]

theorem zipIdx_range {α β : Type} (F : Nat → α) (g : α × Nat → β) (n : Nat) :
    ((List.range n).map F).zipIdx.map g = (List.range n).map fun i => g (F i, i) := by
  refine List.ext_getElem (by simp) fun i h1 h2 => ?_
  simp

/-! ## The rows of a sparse product -/

/-- The rows that one row of entries gives (R241, R242). -/
def rowsOf (blocks : Bool) (vals : Reg) (w col0 : Nat) (l : List (Nat × Nat)) : M (List (List (Nat × Nat))) :=
  if blocks then do
    let bs ← l.mapM fun e => do
      let codes ← (List.range 256).mapM fun i => readCode vals w (e.1 * 256 + i)
      pure (codes, 16 * (e.2 - col0))
    pure ((List.range 16).map fun ii => bs.flatMap fun e =>
      (List.range 16).map fun jj => (e.1.getD (ii * 16 + jj) 0, e.2 + jj))
  else do
    let es ← l.mapM fun e => do
      let c ← readCode vals w e.1
      pure (c, e.2 - col0)
    pure [es]

/-- The products of one row. -/
def rowEntries (blocks : Bool) (code : Nat → Nat) (idx : Nat → Nat) (col0 : Nat) (ks : List Nat) (ii : Nat) : List (Nat × Nat) :=
  if blocks then ks.flatMap fun k => (List.range 16).map fun j => (code (k * 256 + ii * 16 + j), 16 * (idx k - col0) + j)
  else ks.map fun k => (code k, idx k - col0)

theorem rowsOf_run {blocks : Bool} {vals : Reg} {w col0 : Nat} {v : State} {code idx : Nat → Nat} {ks : List Nat}
    (hread : ∀ k ∈ ks, ∀ n, (n = k ∧ blocks = false) ∨ (n / 256 = k ∧ blocks = true) → readCode vals w n v = .ok (code n) v) :
    rowsOf blocks vals w col0 (ks.map fun k => (k, idx k)) v =
      .ok ((List.range (if blocks then 16 else 1)).map fun ii => rowEntries blocks code idx col0 ks ii) v := by
  cases blocks with
  | false =>
    have hmap : (ks.map fun k => (k, idx k)).mapM (fun e => do
        let c ← readCode vals w e.1
        pure (c, e.2 - col0) : Nat × Nat → M (Nat × Nat)) v = .ok ((ks.map fun k => (k, idx k)).map fun e => (code e.1, e.2 - col0)) v := by
      refine mapM_run fun e he => ?_
      obtain ⟨k, hk, rfl⟩ := List.mem_map.mp he
      exact (M.bind_ok (hread k hk k (.inl ⟨rfl, rfl⟩))).trans rfl
    rw [List.map_map] at hmap
    exact (M.bind_ok hmap).trans rfl
  | true =>
    have hmap : (ks.map fun k => (k, idx k)).mapM (fun e => do
        let codes ← (List.range 256).mapM fun i => readCode vals w (e.1 * 256 + i)
        pure (codes, 16 * (e.2 - col0)) : Nat × Nat → M (List Nat × Nat)) v =
        .ok ((ks.map fun k => (k, idx k)).map fun e => ((List.range 256).map fun i => code (e.1 * 256 + i), 16 * (e.2 - col0))) v := by
      refine mapM_run fun e he => ?_
      obtain ⟨k, hk, rfl⟩ := List.mem_map.mp he
      refine (M.bind_ok (mapM_run (g := fun i => code (k * 256 + i)) fun i hi => ?_)).trans rfl
      have hlt := List.mem_range.mp hi
      exact hread k hk (k * 256 + i) (.inr ⟨by omega, rfl⟩)
    rw [List.map_map] at hmap
    refine (M.bind_ok hmap).trans (congrArg (EStateM.Result.ok · v) ?_)
    refine List.map_congr_left fun ii hii => ?_
    have hlt := List.mem_range.mp hii
    rw [List.flatMap_map]
    refine List.flatMap_congr fun k _ => List.map_congr_left fun j hj => ?_
    have hjlt := List.mem_range.mp hj
    refine Prod.ext ?_ rfl
    change ((List.range 256).map fun i => code (k * 256 + i)).getD (ii * 16 + j) 0 = code (k * 256 + ii * 16 + j)
    rw [List.getD_eq_getElem _ _ (by rw [List.length_map, List.length_range]; omega), List.getElem_map, List.getElem_range, Nat.add_assoc]

end Sys2Proof.Claims
end

section
/-! PROOF. O39, continued: the statement on sparse products (R240 to R243). -/

namespace Sys2Proof.Claims

open Sys2Proof.Machine

theorem Ready.readW {s u : State} {us : List RegUse} {n : RegNo} (h : Ready s us) (hmem : wSrc n ∈ us) (hu : SameReads u.self s.self) (j : Nat) :
    readW j n u = .ok (w s n) u :=
  Issues.readW_same (ns := [n]) ⟨h.1, fun v hv => List.mem_singleton.mp hv ▸ h.2 (wSrc n) hmem⟩ hu j (List.mem_singleton_self n)

/-- The registers of a sparse product's operand. -/
def sparseReg (o : OpRRR) (j : Nat) : RegNo := o.c + BitVec.ofNat 6 j

/-- The descriptor of a sparse product. -/
def sparseDesc (o : OpRRR) : Desc := ⟨o.st, 0, .execute, [⟨4, o.a.toNat, false, true⟩, ⟨3, o.b.toNat, true, false⟩,
  wSrc (sparseReg o 0), wSrc (sparseReg o 1), wSrc (sparseReg o 2), wSrc (sparseReg o 3)]⟩

/-- The strand's right to read through an operand's capability. -/
def MayRead (s : State) (c : Reg) : Prop := c.tag = true ∧ (s.self.mode = .hypervisor ∨ Cap.tenant c.val = s.self.tid) ∧
  Cap.kind c.val = Cap.kMemory ∧ Cap.has c.val Cap.ld = true

theorem checkRights_run {s v : State} (hid : v.self.identity = s.self.identity) {c : Reg} (h : MayRead s c) :
    checkRightsAs v.self.identity c Cap.ld [Cap.kMemory] v = .ok () v := by
  obtain ⟨htag, htenant, hkind, hhas⟩ := h
  have hmine : (!(v.self.identity).hyper && decide (Cap.tenant c.val ≠ v.self.identity.tid)) = false := by
    rw [hid]
    unfold Strand.identity
    rcases htenant with h | h
    · rw [decide_eq_true h]
      rfl
    · rw [decide_eq_false (not_not_intro h), Bool.and_false]
  refine (M.bind_ok (raiseIf_of_not (by rw [htag]; rfl) ..)).trans ((M.bind_ok (raiseIf_of_not hmine ..)).trans
    ((M.bind_ok (raiseIf_of_not (by rw [hkind]; rfl) ..)).trans ?_))
  exact raiseIf_of_not (by rw [hhas]; rfl) ..

/-- The operation that a sparse product issues. -/
def sparseOp (s : State) (cur : Nat) (o : OpRRR) (blocks : Bool) (rows : List (List (Nat × Nat))) : MatOp :=
  { id := 0, sid := cur, acc := o.a.toNat, fmtL := fieldAt (x s (sparseReg o 3)) 7 5, scaleL := fieldAt (x s (sparseReg o 3)) 12 8, leftTile := none,
    rightSid := cur, rightTile := o.b.toNat, descR := s.self.desc o.b.toNat, right := tileStorage s.self.mtx.tiles o.b.toNat, ternary := false,
    block := if blocks then 16 else 1, rows := rows.zipIdx.map fun e => ⟨o.imm.toNat % 64 + e.2, e.1⟩, written := 0, gang := none, followOn := none }

/-- What a sparse product does behind its checks. -/
def sparseRest (blocks : Bool) (o : OpRRR) (s : State) (p : Pairing) : M Unit := do
  let word := x s (sparseReg o 3)
  let b := if bitAt word 20 then 8 else 4
  let col0 := fieldAt word 32 32
  let m := fieldAt word 0 7
  awaitPuts
  let width := if blocks then descCols (s.self.desc o.b.toNat) / 16 else descCols (s.self.desc o.b.toNat)
  let ptrs ← (List.range (m + 1)).mapM fun i => readOperand (w s (sparseReg o 0)) (i * b) b
  let lists ← (List.range m).mapM fun i => readIndices (w s (sparseReg o 1)) b (ptrs.getD i 0) (ptrs.getD (i + 1) 0 - ptrs.getD i 0)
  let windows := lists.map fun l => l.filter fun e => col0 ≤ e.2 && e.2 < col0 + width
  let rows ← windows.mapM (rowsOf blocks (w s (sparseReg o 2)) (tileBits (fieldAt word 7 5)) col0)
  let per := fun (n : Nat) => if blocks then 16 * max 1 ((n + 3) / 4) else max 1 ((n + 15) / 16)
  let half := (windows.map fun l => p.half * per l.length).sum
  let u ← get
  takeArray { sid := u.cur, use := .sparse, half := half, mmt := false, acc := o.a.toNat, lt := 0, rt := o.b.toNat, row0 := o.imm.toNat % 64,
              followOn := none }
  let _ ← issueOp (quadOf u.cur) (sparseOp s u.cur o blocks rows.flatten)
  pure ()

section
variable {o : OpRRR} {s : State} {i : Instr} {blocks : Bool} (hx : exec i s = sparseProduct blocks o s)
variable (h : Ready s (sparseDesc o).regs) (hrights : ∀ j < 3, MayRead s (w s (sparseReg o j)))
include hx h hrights

/-- A sparse product up to its checks. -/
theorem sparse_body : ∃ body, exec i s = runOp (sparseDesc o) body s ∧ body (s.withSelf (s.self.begun (sparseDesc o))) =
    (sparseCheck blocks (x s (sparseReg o 3)) (s.self.desc o.b.toNat) (o.imm.toNat % 64) >>= sparseRest blocks o s)
      (s.withSelf (s.self.begun (sparseDesc o))) := by
  refine ⟨_, hx, ?_⟩
  have hreads : SameReads (s.withSelf (s.self.begun (sparseDesc o))).self s.self := by rw [State.self_withSelf]; exact .begun ..
  have hid := identity_begun (s := s) (sparseDesc o)
  have hself := State.self_withSelf s (s.self.begun (sparseDesc o))
  refine (M.bind_ok (h.readW (n := sparseReg o 0) (by simp [sparseDesc]) hreads 2)).trans ((M.bind_ok (h.readW (n := sparseReg o 1) (by simp [sparseDesc]) hreads 3)).trans
    ((M.bind_ok (h.readW (n := sparseReg o 2) (by simp [sparseDesc]) hreads 4)).trans ((M.bind_ok (h.readX (n := sparseReg o 3) (by simp [sparseDesc]) hreads 5)).trans
      ((M.bind_ok (self_run _)).trans ?_))))
  refine (M.bind_ok (forIn_fixed fun c hc => ?_)).trans ?_
  · have hright : MayRead s c := by
      simp only [List.mem_cons, List.not_mem_nil, or_false] at hc
      obtain rfl | rfl | rfl := hc
      · exact hrights 0 (by decide)
      · exact hrights 1 (by decide)
      · exact hrights 2 (by decide)
    exact (M.bind_ok (checkRights_run hid hright)).trans rfl
  · obtain ⟨v, hv⟩ : ∃ v, v = s.withSelf (s.self.begun (sparseDesc o)) := ⟨_, rfl⟩
    rw [hself, ← hv]
    have hdesc : (s.self.begun (sparseDesc o)).desc o.b.toNat = s.self.desc o.b.toNat := rfl
    have htiles : (s.self.begun (sparseDesc o)).mtx = s.self.mtx := rfl
    rw [hdesc, htiles]
    rfl

theorem sparse_bad (hbad : SparseBad blocks (x s (sparseReg o 3)) (s.self.desc o.b.toNat) (o.imm.toNat % 64)) :
    Traps i s cTdesc ((x s (sparseReg o 3)).toNat % 2 ^ 32) := by
  obtain ⟨body, hx', hbody⟩ := sparse_body hx h hrights
  exact traps_of_runOp hx' Steer.noConfusion (h.clear fun u hu => ⟨u, hu, rfl, rfl⟩) (hbody.trans (M.bind_error (sparseCheck_bad hbad _))) (by decide)

theorem sparse_waits (hgood : ¬SparseBad blocks (x s (sparseReg o 3)) (s.self.desc o.b.toNat) (o.imm.toNat % 64))
    (hputs : s.putsOutstanding s.cur = true) : Waits i s := by
  obtain ⟨body, hx', hbody⟩ := sparse_body hx h hrights
  obtain ⟨p, hp⟩ := sparseCheck_good hgood (s.withSelf (s.self.begun (sparseDesc o)))
  have herr : body (s.withSelf (s.self.begun (sparseDesc o))) = .error .retry (s.withSelf (s.self.begun (sparseDesc o))) :=
    hbody.trans ((M.bind_ok hp).trans (M.bind_error (awaitPuts_waits ((putsOutstanding_begun s _).trans hputs))))
  exact waits_of_idle (exec_of_retry (body := do body; pure .next) hx' Steer.noConfusion rfl (h.clear fun u hu => ⟨u, hu, rfl, rfl⟩) (M.bind_error herr)) (.refl s) rfl rfl

variable {ptr idx raw : Nat → Nat} (hputs : s.putsOutstanding s.cur = false) (hfree : ArrayFree s) (hpart : NoPartials s)

/-- The width of an index or pointer. -/
def indexBytes (word : Word) : Nat := if bitAt word 20 then 8 else 4

/-- The entries of a row in the window. -/
def windowOf (blocks : Bool) (s : State) (o : OpRRR) (ptr idx : Nat → Nat) (r : Nat) : List Nat :=
  let col0 := fieldAt (x s (sparseReg o 3)) 32 32
  let width := if blocks then descCols (s.self.desc o.b.toNat) / 16 else descCols (s.self.desc o.b.toNat)
  ((List.range (ptr (r + 1) - ptr r)).map (ptr r + ·)).filter fun k => col0 ≤ idx k && idx k < col0 + width

variable (hgood : ¬SparseBad blocks (x s (sparseReg o 3)) (s.self.desc o.b.toNat) (o.imm.toNat % 64))
variable (hptr : ∀ r ≤ fieldAt (x s (sparseReg o 3)) 0 7, Operand s (w s (sparseReg o 0)) (r * indexBytes (x s (sparseReg o 3))) (indexBytes (x s (sparseReg o 3))) (ptr r))
variable (hidx : ∀ r < fieldAt (x s (sparseReg o 3)) 0 7, ∀ k, ptr r ≤ k → k < ptr (r + 1) →
  Operand s (w s (sparseReg o 1)) (k * indexBytes (x s (sparseReg o 3))) (indexBytes (x s (sparseReg o 3))) (idx k))
variable (hraw : ∀ r < fieldAt (x s (sparseReg o 3)) 0 7, ∀ k ∈ windowOf blocks s o ptr idx r, ∀ v, (v = k ∧ blocks = false) ∨ (v / 256 = k ∧ blocks = true) →
  Operand s (w s (sparseReg o 2)) (v * tileBits (fieldAt (x s (sparseReg o 3)) 7 5) / 8) (max 1 (tileBits (fieldAt (x s (sparseReg o 3)) 7 5) / 8)) (raw v))
include hputs hfree hpart hgood hptr hidx hraw

theorem sparse_starts :
    let wd := tileBits (fieldAt (x s (sparseReg o 3)) 7 5)
    let code := fun (k : Nat) => raw k / 2 ^ (k * wd % 8) % 2 ^ wd
    let size := if blocks then 16 else 1
    Starts i s (sparseOp s s.cur o blocks ((List.range (fieldAt (x s (sparseReg o 3)) 0 7 * size)).map fun r =>
      rowEntries blocks code idx (fieldAt (x s (sparseReg o 3)) 32 32) (windowOf blocks s o ptr idx (r / size)) (r % size))) := by
  intro wd code size
  obtain ⟨body, hx', hbody⟩ := sparse_body hx h hrights
  obtain ⟨v, hv⟩ : ∃ v, v = s.withSelf (s.self.begun (sparseDesc o)) := ⟨_, rfl⟩
  obtain ⟨p, hp⟩ := sparseCheck_good hgood v
  have hid : v.self.identity = s.self.identity := by rw [hv]; exact identity_begun _
  have hcur : v.cur = s.cur := by rw [hv]; rfl
  have htlb : v.tlb = s.tlb := by rw [hv]; rfl
  have hpkg : v.pkg = s.pkg := by rw [hv]; rfl
  have hpartv : NoPartials v := by rw [hv]; exact hpart
  have hbadv (a n : Nat) : v.firstBad a n = s.firstBad a n := by rw [hv]; rfl
  have hbytes (a n : Nat) : v.bytesAt a n = s.bytesAt a n := by rw [hv]; rfl
  have hfreev : ArrayFree v := by rw [hv]; exact hfree.begun _
  have hputsv : v.putsOutstanding v.cur = false := by rw [hv]; exact (putsOutstanding_begun s _).trans hputs
  have hread {c : Reg} {off n x : Nat} (hn : n = 1 ∨ n = 2 ∨ n = 4 ∨ n = 8 ∨ n = 16) (hop : Operand s c off n x) :=
    readOperand_run hid hcur htlb hpkg hpartv hbadv hbytes hn hop
  obtain ⟨word, hword⟩ : ∃ word, word = x s (sparseReg o 3) := ⟨_, rfl⟩
  have hb : indexBytes word = 4 ∨ indexBytes word = 8 := by unfold indexBytes; split <;> simp
  have hfmt : fieldAt word 7 5 ≤ 8 := by
    by_contra hgt
    exact hgood (.inr (.inr (.inr (.inl (by rw [← hword]; omega)))))
  have hm : fieldAt word 0 7 ≠ 0 := fun hz => hgood (.inl (by rw [← hword]; exact hz))
  have hwd : max 1 (wd / 8) = 1 ∨ max 1 (wd / 8) = 2 ∨ max 1 (wd / 8) = 4 ∨ max 1 (wd / 8) = 8 := by
    have hbits : wd = tileBits (fieldAt word 7 5) := by rw [hword]
    rw [hbits]
    generalize fieldAt word 7 5 = fmt at hfmt
    interval_cases fmt <;> simp [tileBits]
  rw [← hword] at hptr hidx
  have hptrs : (List.range (fieldAt word 0 7 + 1)).mapM (fun i => readOperand (w s (sparseReg o 0)) (i * indexBytes word) (indexBytes word)) v =
      .ok ((List.range (fieldAt word 0 7 + 1)).map ptr) v :=
    mapM_run fun i hi => hread (by omega) (hptr i (Nat.lt_succ_iff.mp (List.mem_range.mp hi)))
  have hget (i : Nat) (hi : i ≤ fieldAt word 0 7) : ((List.range (fieldAt word 0 7 + 1)).map ptr).getD i 0 = ptr i := by
    rw [List.getD_eq_getElem _ _ (by rw [List.length_map, List.length_range]; omega), List.getElem_map, List.getElem_range]
  have hlists : (List.range (fieldAt word 0 7)).mapM (fun i => readIndices (w s (sparseReg o 1)) (indexBytes word)
        (((List.range (fieldAt word 0 7 + 1)).map ptr).getD i 0)
        (((List.range (fieldAt word 0 7 + 1)).map ptr).getD (i + 1) 0 - ((List.range (fieldAt word 0 7 + 1)).map ptr).getD i 0)) v =
      .ok ((List.range (fieldAt word 0 7)).map fun r => (List.range (ptr (r + 1) - ptr r)).map fun j => (ptr r + j, idx (ptr r + j))) v := by
    refine mapM_run fun r hr => ?_
    have hlt := List.mem_range.mp hr
    rw [hget r (by omega), hget (r + 1) (by omega)]
    exact readIndices_run hid hcur htlb hpkg hpartv hbadv hbytes hb _ _ fun k hlo hhi => hidx r hlt k hlo (by omega)
  have hwindows : (((List.range (fieldAt word 0 7)).map fun r => (List.range (ptr (r + 1) - ptr r)).map fun j => (ptr r + j, idx (ptr r + j))).map
      fun l => l.filter fun e => fieldAt word 32 32 ≤ e.2 && e.2 < fieldAt word 32 32 +
        if blocks then descCols (s.self.desc o.b.toNat) / 16 else descCols (s.self.desc o.b.toNat)) =
      (List.range (fieldAt word 0 7)).map fun r => (windowOf blocks s o ptr idx r).map fun k => (k, idx k) := by
    rw [List.map_map]
    refine List.map_congr_left fun r _ => ?_
    unfold windowOf
    rw [← hword]
    simp only [Function.comp_apply, List.filter_map, List.map_map]
    rfl
  have hrows : ((List.range (fieldAt word 0 7)).map fun r => (windowOf blocks s o ptr idx r).map fun k => (k, idx k)).mapM
      (rowsOf blocks (w s (sparseReg o 2)) wd (fieldAt word 32 32)) v =
      .ok (((List.range (fieldAt word 0 7)).map fun r => (windowOf blocks s o ptr idx r).map fun k => (k, idx k)).map
        fun l => (List.range size).map fun ii => rowEntries blocks code idx (fieldAt word 32 32) (l.map (·.1)) ii) v := by
    refine mapM_run fun l hl => ?_
    obtain ⟨r, hr, rfl⟩ := List.mem_map.mp hl
    have hks : ((windowOf blocks s o ptr idx r).map fun k => (k, idx k)).map (·.1) = windowOf blocks s o ptr idx r := by
      rw [List.map_map]
      exact List.map_id _
    rw [hks]
    exact rowsOf_run fun k hk n hn => readCode_run hid hcur htlb hpkg hpartv hbadv hbytes hwd
      (hraw r (by rw [← hword]; exact List.mem_range.mp hr) k hk n hn)
  have hflat : (((List.range (fieldAt word 0 7)).map fun r => (windowOf blocks s o ptr idx r).map fun k => (k, idx k)).map
        fun l => (List.range size).map fun ii => rowEntries blocks code idx (fieldAt word 32 32) (l.map (·.1)) ii).flatten =
      (List.range (fieldAt word 0 7 * size)).map fun r =>
        rowEntries blocks code idx (fieldAt word 32 32) (windowOf blocks s o ptr idx (r / size)) (r % size) := by
    have hsize : 0 < size := by
      change 0 < if blocks = true then 16 else 1
      split <;> decide
    rw [← flatten_grid (fun r ii => rowEntries blocks code idx (fieldAt word 32 32) (windowOf blocks s o ptr idx r) ii) hsize, List.map_map]
    refine congrArg List.flatten (List.map_congr_left fun r _ => ?_)
    change (List.range size).map (fun ii => rowEntries blocks code idx (fieldAt word 32 32) (((windowOf blocks s o ptr idx r).map fun k => (k, idx k)).map (·.1)) ii) = _
    rw [List.map_map]
    refine List.map_congr_left fun ii _ => ?_
    exact congrArg (rowEntries blocks code idx (fieldAt word 32 32) · ii) (List.map_id _)
  refine starts_of (k := 6) hx' Steer.noConfusion (h.clear fun u hu => ⟨u, hu, rfl, rfl⟩) ?_ rfl (by change 1 ≤ if blocks = true then 16 else 1; split <;> decide)
  apply Exists.intro
  refine hbody.trans ?_
  rw [← hv]
  refine (M.bind_ok hp).trans ((M.bind_ok (awaitPuts_goes hputsv)).trans ?_)
  dsimp only
  rw [← hword]
  refine (M.bind_ok hptrs).trans ((M.bind_ok hlists).trans ?_)
  rw [hwindows]
  have hbits : tileBits (fieldAt word 7 5) = wd := by rw [hword]
  rw [hbits]
  refine (M.bind_ok hrows).trans ?_
  refine (M.bind_ok (M.get_run v)).trans ?_
  refine (M.bind_ok (takeArray_run hfreev rfl)).trans ?_
  rw [hflat, hcur]
  refine (M.bind_ok (issueOp_run (.inl ?_))).trans rfl
  have hsize : 0 < size := by
    change 0 < if blocks = true then 16 else 1
    split <;> decide
  have hlen : fieldAt word 0 7 * size ≠ 0 := Nat.mul_ne_zero hm (by omega)
  unfold sparseOp
  dsimp only
  rw [zipIdx_range, ne_eq, List.map_eq_nil_iff, List.range_eq_nil]
  exact hlen

end

theorem sparseProductsIssue : SparseProductsIssue := by
  intro o s ptr idx raw blocks i acc dR row0 reg word m fmt b col0 w' width bad entries code rights h hr
  have hx : exec i s = sparseProduct blocks o s := by
    cases blocks <;> rfl
  refine ⟨fun hbad => sparse_bad hx h hr hbad, fun hgood hputs => sparse_waits hx h hr hgood hputs, fun hgood hputs hfree hpart hptr hidx hraw => ?_⟩
  have hstarts := sparse_starts hx h hr hputs hfree hpart hgood hptr hidx hraw
  have hop : sparseOp s s.cur o blocks ((List.range (m * if blocks then 16 else 1)).map fun r =>
        rowEntries blocks code idx col0 (windowOf blocks s o ptr idx (r / if blocks then 16 else 1)) (r % if blocks then 16 else 1)) =
      { id := 0, sid := s.cur, acc := acc, fmtL := fmt, scaleL := fieldAt word 12 8, leftTile := none
        rightSid := s.cur, rightTile := o.b.toNat, descR := dR, right := tileStorage s.self.mtx.tiles o.b.toNat
        ternary := false, block := if blocks then 16 else 1
        rows := (List.range (m * if blocks then 16 else 1)).map fun r => ⟨row0 + r,
          if blocks then (entries (r / 16)).flatMap fun k => (List.range 16).map fun j =>
            (code (k * 256 + r % 16 * 16 + j), 16 * (idx k - col0) + j)
          else (entries r).map fun k => (code k, idx k - col0)⟩
        written := 0, gang := none, followOn := none } := by
    unfold sparseOp
    rw [zipIdx_range]
    refine congrArg (fun rows => ({ id := 0, sid := s.cur, acc := acc, fmtL := fmt, scaleL := fieldAt word 12 8, leftTile := none
                                    rightSid := s.cur, rightTile := o.b.toNat, descR := dR, right := tileStorage s.self.mtx.tiles o.b.toNat
                                    ternary := false, block := if blocks then 16 else 1, rows := rows, written := 0, gang := none, followOn := none } : MatOp)) ?_
    refine List.map_congr_left fun r _ => congrArg (RowPlan.mk (row0 + r)) ?_
    cases blocks with
    | false =>
      have hdiv : r / (if false = true then 16 else 1) = r := Nat.div_one r
      rw [hdiv]
      rfl
    | true => rfl
  rw [← hop]
  exact hstarts

end Sys2Proof.Claims
end

section
/-! PROOF. O39, continued: gangs (R244, R245, R247). -/

namespace Sys2Proof.Claims

open Sys2Proof.Machine

/-! ## Postings -/

theorem mem_insertPosting {p a : Posting} {l : List Posting} : a ∈ insertPosting p l ↔ a = p ∨ a ∈ l := by
  induction l with
  | nil => simp [insertPosting]
  | cons h l ih =>
    unfold insertPosting
    split
    · exact List.mem_cons
    · rw [List.mem_cons, ih, List.mem_cons]
      tauto

theorem mem_insertPostings {a : Posting} (ps l : List Posting) : a ∈ ps.foldl (fun l p => insertPosting p l) l ↔ a ∈ l ∨ a ∈ ps := by
  induction ps generalizing l with
  | nil => simp
  | cons p ps ih =>
    rw [List.foldl_cons, ih, mem_insertPosting, List.mem_cons]
    tauto

/-! ## The steps of a gang's issue -/

/-- What completing an instruction goes by is the same in two strands. -/
structure SameCourse (t r : Strand) : Prop where
  apart : r.apart = t.apart
  instret : r.instret = t.instret
  pcc : r.pcc = t.pcc
  ir : r.ir = t.ir

theorem SameCourse.refl (t : Strand) : SameCourse t t := ⟨rfl, rfl, rfl, rfl⟩

theorem SameCourse.trans {t r u : Strand} (h : SameCourse t r) (h' : SameCourse r u) : SameCourse t u :=
  ⟨h'.apart.trans h.apart, h'.instret.trans h.instret, h'.pcc.trans h.pcc, h'.ir.trans h.ir⟩

theorem mapM_states {α β : Type} {f : α → M β} {g : State → α → State} {l : List α} (h : ∀ a ∈ l, ∀ v, ∃ b, f a v = .ok b (g v a)) (v : State) :
    ∃ bs, l.mapM f v = .ok bs (l.foldl g v) := by
  induction l generalizing v with
  | nil => exact ⟨[], rfl⟩
  | cons a l ih =>
    obtain ⟨b, hb⟩ := h a List.mem_cons_self v
    obtain ⟨bs, hbs⟩ := ih (fun c hc => h c (List.mem_cons_of_mem a hc)) (g v a)
    refine ⟨b :: bs, ?_⟩
    rw [List.mapM_cons, M.bind_ok hb, M.bind_ok hbs]
    rfl

/-- The operations of a gang issue one behind the other. -/
structure OpsIssued (q : Nat) (ops : List MatOp) (w v : State) : Prop where
  cur : v.cur = w.cur
  postings : (v.quad q).postings = (w.quad q).postings
  kept : ∀ o ∈ (w.quad q).ops, o ∈ (v.quad q).ops
  issued : ∀ o ∈ ops, ∃ n, { o with id := n } ∈ (v.quad q).ops
  self : SameCourse w.self v.self

theorem opsIssued (q : Nat) (ops : List MatOp) (w : State) : OpsIssued q ops w (ops.foldl (fun v o => issued q o v) w) := by
  induction ops generalizing w with
  | nil => exact ⟨rfl, rfl, fun _ h => h, by simp, .refl _⟩
  | cons o ops ih =>
    obtain ⟨hcur, hpost, hkept, hissued, hself⟩ := ih (issued q o w)
    have hquad : (issued q o w).quad q = withOp (w.quad q) o := quad_issued
    rw [hquad] at hpost hkept
    have hcourse : SameCourse w.self (issued q o w).self := by
      by_cases hs : o.sid = w.cur
      · rw [self_issued hs]
        exact ⟨rfl, rfl, rfl, rfl⟩
      · have hsame : (issued q o w).self = w.self := strand_issued (Ne.symm hs)
        rw [hsame]
        exact .refl _
    refine ⟨hcur, hpost, fun x hx => hkept x (List.mem_append_left _ hx), fun x hx => ?_, hcourse.trans hself⟩
    obtain rfl | hx := List.mem_cons.mp hx
    · exact ⟨_, hkept _ (List.mem_append_right _ (List.mem_singleton_self _))⟩
    · exact hissued x hx

/-- The note that a strand's gang has issued. -/
def noteIssued (c : Nat) (s : State) (p : Posting) : State :=
  if p.sid ≠ c then s.withStrand p.sid { s.strand p.sid with gangIssued := true } else s

/-- The partners of a gang are told. -/
structure Told (c : Nat) (ps : List Posting) (w v : State) : Prop where
  cur : v.cur = w.cur
  quads : v.quads = w.quads
  self : v.strand c = w.strand c
  issued : ∀ p, (p ∈ ps ∧ p.sid ≠ c ∨ (w.strand p.sid).gangIssued = true) → (v.strand p.sid).gangIssued = true

theorem told_one (c : Nat) (w : State) (p : Posting) : Told c [p] w (noteIssued c w p) := by
  unfold noteIssued
  by_cases hp : p.sid ≠ c
  · rw [if_pos hp]
    refine ⟨rfl, rfl, State.strand_withStrand_ne _ _ _ _ (Ne.symm hp), fun b hb => ?_⟩
    by_cases hbp : b.sid = p.sid
    · rw [hbp, State.strand_withStrand_same]
    · rw [State.strand_withStrand_ne _ _ _ _ hbp]
      obtain ⟨hmem, -⟩ | h := hb
      · exact absurd (congrArg Posting.sid (List.mem_singleton.mp hmem)) hbp
      · exact h
  · rw [if_neg hp]
    refine ⟨rfl, rfl, rfl, fun b hb => ?_⟩
    obtain ⟨hmem, hne⟩ | h := hb
    · rw [List.mem_singleton.mp hmem] at hne
      exact absurd hne hp
    · exact h

theorem told (c : Nat) (ps : List Posting) (w : State) : Told c ps w (ps.foldl (noteIssued c) w) := by
  induction ps generalizing w with
  | nil => exact ⟨rfl, rfl, rfl, by simp⟩
  | cons p ps ih =>
    obtain ⟨hcur, hquads, hself, hissued⟩ := ih (noteIssued c w p)
    obtain ⟨hcur', hquads', hself', hissued'⟩ := told_one c w p
    refine ⟨hcur.trans hcur', hquads.trans hquads', hself.trans hself', fun b hb => hissued b ?_⟩
    obtain ⟨hmem, hne⟩ | h := hb
    · obtain rfl | hmem := List.mem_cons.mp hmem
      · exact .inr (hissued' b (.inl ⟨List.mem_singleton_self b, hne⟩))
      · exact .inl ⟨hmem, hne⟩
    · exact .inr (hissued' b (.inr h))

/-- The quad in which a gang begins. -/
def gangBegun (gid : Nat) (ps : List Posting) (v : QuadState) : QuadState :=
  { v with nextOp := v.nextOp + 1, postings := v.postings.filter fun p => p.gid ≠ gid
           gangs := v.gangs ++ [{ run := v.nextOp, gid := gid, partners := ps.map fun p =>
             { sid := p.sid, acc := p.acc, tile := p.lt, group := p.group, ended := false, full := false, row := 0, cause := 0 } }] }

/-- The operation of a partner. -/
def partnerOp (s : State) (run : Nat) (lead : Posting) (e : Posting × Nat) : MatOp :=
  let o := denseOp s e.1.sid e.1.acc e.1.lt lead.sid lead.rt 0 false
  { o with gang := some (run, e.2), rows := if (partnerPair s lead e.1).isSome then o.rows else [] }

theorem rows_partnerOp {s : State} {run : Nat} {lead : Posting} {e : Posting × Nat} (h : (partnerPair s lead e.1).isSome = true) :
    (partnerOp s run lead e).rows = denseRows (s.strand e.1.sid) e.1.lt 0 := by
  unfold partnerOp
  dsimp only
  rw [if_pos h]
  rfl

theorem length_denseRows (t : Strand) (lt row0 : Nat) : (denseRows t lt row0).length = descRows (t.desc lt) := by
  unfold denseRows
  dsimp only
  rw [List.length_map, List.length_range]

/-- The state in which a gang has issued. -/
def gangIssuedState (gid : Nat) (ps : List Posting) (lead : Posting) (w : State) : State :=
  let q := quadOf w.cur
  ps.foldl (noteIssued w.cur) ((ps.zipIdx.map (partnerOp w (w.quad q).nextOp lead)).foldl (fun v o => issued q o v)
    (w.withQuad q (gangBegun gid ps (w.quad q))))

theorem issueGang_run {gid : Nat} {ps : List Posting} {lead : Posting} {w : State} (hpairs : ∀ p ∈ ps, (partnerPair w lead p).isSome = true) :
    issueGang gid ps lead w = .ok () (gangIssuedState gid ps lead w) := by
  obtain ⟨ops, hops⟩ : ∃ ops, ops = ps.zipIdx.map (partnerOp w (w.quad (quadOf w.cur)).nextOp lead) := ⟨_, rfl⟩
  have hrows (o : MatOp) (ho : o ∈ ops) : o.rows ≠ [] := by
    rw [hops] at ho
    obtain ⟨e, he, rfl⟩ := List.mem_map.mp ho
    have hmem : e.1 ∈ ps := List.fst_mem_of_mem_zipIdx he
    have hlen := length_denseRows (w.strand e.1.sid) e.1.lt 0
    rw [rows_partnerOp (hpairs _ hmem)]
    intro hnil
    rw [hnil] at hlen
    unfold descRows at hlen
    simp at hlen
  obtain ⟨ids, hids⟩ := mapM_states (f := issueOp (quadOf w.cur)) (g := fun v o => issued (quadOf w.cur) o v) (l := ops)
    (fun o ho v => ⟨_, issueOp_run (.inl (hrows o ho))⟩) (w.withQuad (quadOf w.cur) (gangBegun gid ps (w.quad (quadOf w.cur))))
  have habort (v : State) : (forIn (ops.zip ids) PUnit.unit fun e _ => (do
      if e.1.rows.isEmpty then abortOp (quadOf w.cur) { e.1 with id := e.2 } cTdesc
      pure (.yield PUnit.unit) : M (ForInStep PUnit))) v = .ok ⟨⟩ v := by
    refine forIn_fixed fun e he => ?_
    have hne : e.1.rows.isEmpty = false := List.isEmpty_eq_false_iff.mpr (hrows _ (List.of_mem_zip he).1)
    rw [hne, if_neg (by decide)]
    rfl
  have htell (v : State) : (forIn ps PUnit.unit fun p _ => (do
      if p.sid ≠ w.cur then modStrand p.sid fun t => { t with gangIssued := true }
      pure (.yield PUnit.unit) : M (ForInStep PUnit))) v = .ok ⟨⟩ (ps.foldl (noteIssued w.cur) v) := by
    refine forIn_run (fun p v => ?_) ps v
    unfold noteIssued
    split
    · exact M.bind_ok (modStrand_run ..)
    · rfl
  refine (M.bind_ok (M.get_run w)).trans ((M.bind_ok (modQuad_run ..)).trans ?_)
  have hstate : gangIssuedState gid ps lead w = ps.foldl (noteIssued w.cur)
      (ops.foldl (fun v o => issued (quadOf w.cur) o v) (w.withQuad (quadOf w.cur) (gangBegun gid ps (w.quad (quadOf w.cur))))) := by rw [hops]; rfl
  rw [hstate]
  obtain ⟨w1, hw1⟩ : ∃ w1, w1 = w.withQuad (quadOf w.cur) (gangBegun gid ps (w.quad (quadOf w.cur))) := ⟨_, rfl⟩
  rw [← hw1] at hids ⊢
  have hops' : (do
      let ids ← (ps.zipIdx.map (partnerOp w (w.quad (quadOf w.cur)).nextOp lead)).mapM (issueOp (quadOf w.cur))
      for e in (ps.zipIdx.map (partnerOp w (w.quad (quadOf w.cur)).nextOp lead)).zip ids do
        if e.1.rows.isEmpty then abortOp (quadOf w.cur) { e.1 with id := e.2 } cTdesc
      for p in ps do
        if p.sid ≠ w.cur then modStrand p.sid fun t => { t with gangIssued := true } : M Unit) w1 =
      .ok () (ps.foldl (noteIssued w.cur) (ops.foldl (fun v o => issued (quadOf w.cur) o v) w1)) := by
    rw [← hops]
    exact (M.bind_ok hids).trans ((M.bind_ok (habort _)).trans (M.bind_ok (htell _)))
  rw [hw1] at hops' ⊢
  exact hops'

end Sys2Proof.Claims
end

section
/-! PROOF. O39, continued: the statement on gangs (R244, R245, R247). -/

namespace Sys2Proof.Claims

open Sys2Proof.Machine

/-- The descriptor of `mmag`. -/
def mmagDesc (o : OpRRR) : Desc := ⟨o.st, 0, .execute, [⟨4, o.a.toNat, false, true⟩, ⟨3, o.b.toNat, true, false⟩, ⟨3, o.imm.toNat % 8, true, false⟩, wSrc o.c]⟩

/-- The posting of `mmag`. -/
def myPosting (s : State) (o : OpRRR) : Posting :=
  ⟨s.cur, o.imm.toNat / 8 % 8, o.imm.toNat / 64 % 8 + 1, o.a.toNat, o.b.toNat, o.imm.toNat % 8, BitVec.ofNat 64 (Cap.cursor (w s o.c).val)⟩

/-- The other postings of the gang. -/
def otherPostings (s : State) (o : OpRRR) : List Posting := (s.quad (quadOf s.cur)).postings.filter fun p => p.gid = o.imm.toNat / 8 % 8

/-- The gang in partner order. -/
def gangOf (s : State) (o : OpRRR) : List Posting := (otherPostings s o).foldl (fun l p => insertPosting p l) [myPosting s o]

/-- The entry of a posting in the dispatch queue. -/
def mmagEntry (s : State) (o : OpRRR) : DispatchEntry :=
  { sid := s.cur, use := .gang (o.imm.toNat / 8 % 8), half := o.imm.toNat / 64 % 8 + 1, mmt := false, acc := o.a.toNat, lt := o.b.toNat, rt := o.imm.toNat % 8, row0 := 0,
    followOn := none }

/-- What `mmag` does once its group is checked. -/
def mmagRest (o : OpRRR) (s : State) : M Unit := do
  if (otherPostings s o).any fun p => p.count ≠ o.imm.toNat / 64 % 8 + 1 then
    throw (.trap cGang (gangValue o.a.toNat (o.imm.toNat / 8 % 8) 0 0 0 cIll) none)
  takeArray (mmagEntry s o)
  if (otherPostings s o).length + 1 < o.imm.toNat / 64 % 8 + 1 then do
    modQuad (quadOf s.cur) fun v => { v with postings := v.postings ++ [myPosting s o] }
    throw .wait
  else issueGang (o.imm.toNat / 8 % 8) (gangOf s o) ((gangOf s o).headD (myPosting s o))

theorem gangValue_whole (acc gid : Nat) (cause : BitVec 8) :
    gangValue acc gid 0 0 0 cause = BitVec.ofNat 64 (acc * 2 ^ 30 + gid * 2 ^ 27 + cause.toNat) := by
  have hzero (a b p q r c : Nat) : a + b + 0 * p + 0 * q + 0 * r + c = a + b + c := by simp
  exact congrArg (BitVec.ofNat 64) (hzero (acc * 2 ^ 30) (gid * 2 ^ 27) (2 ^ 24) (2 ^ 16) (2 ^ 8) cause.toNat)

theorem toNat_cIll : cIll.toNat = 0x10 := rfl

section
variable {o : OpRRR} {s : State} (h : Ready s [⟨4, o.a.toNat, false, true⟩, ⟨3, o.b.toNat, true, false⟩, ⟨3, o.imm.toNat % 8, true, false⟩, wSrc o.c])
include h

theorem mmag_clear : s.self.Clear (mmagDesc o).regs := h.clear fun u hu => ⟨u, hu, rfl, rfl⟩

theorem mmag_issued (hi : s.self.gangIssued = true) : Leads (.mmag o) s (s.withSelf { s.self with gangIssued := false }) := by
  obtain ⟨v, hv⟩ : ∃ v, v = s.withSelf (s.self.begun (mmagDesc o)) := ⟨_, rfl⟩
  have hself : v.self = s.self.begun (mmagDesc o) := by rw [hv, State.self_withSelf]
  have hiv : v.self.gangIssued = true := by rw [hself]; exact hi
  refine leads_of_runOp (d := mmagDesc o) (t := { s.self with gangIssued := false }) (r := { s.self.begun (mmagDesc o) with gangIssued := false })
    (u := v.withSelf { v.self with gangIssued := false }) rfl Steer.noConfusion (mmag_clear h) ?_ ?_ rfl rfl rfl rfl rfl rfl
  · rw [← hv]
    refine (M.bind_ok (M.get_run v)).trans ?_
    dsimp only
    rw [hiv, if_pos rfl]
    rfl
  · rw [hself, hv]
    exact (OnlySelf.begun s (mmagDesc o)).withSelf _

theorem mmag_posted (hi : s.self.gangIssued = false) (hp : ∃ p ∈ (s.quad (quadOf s.cur)).postings, p.sid = s.cur) : Waits (.mmag o) s := by
  obtain ⟨v, hv⟩ : ∃ v, v = s.withSelf (s.self.begun (mmagDesc o)) := ⟨_, rfl⟩
  have hiv : v.self.gangIssued = false := by rw [hv, State.self_withSelf]; exact hi
  have hpv : ((v.quad (quadOf v.cur)).postings.any fun p => p.sid = v.cur) = true := by
    rw [hv]
    exact List.any_eq_true.mpr (hp.imp fun p hp => ⟨hp.1, decide_eq_true hp.2⟩)
  have hx : exec (.mmag o) s = runOp (mmagDesc o) _ s := rfl
  refine waits_of_idle (exec_of_retry (u := v) hx Steer.noConfusion rfl (mmag_clear h) (M.bind_error ?_)) (.refl s) rfl rfl
  rw [← hv]
  refine (M.bind_ok (M.get_run v)).trans ?_
  dsimp only
  rw [hiv, if_neg (by decide), hpv, if_pos rfl]
  rfl

variable (hi : s.self.gangIssued = false) (hp : ∀ p ∈ (s.quad (quadOf s.cur)).postings, p.sid ≠ s.cur)
variable (hcheck : checkFault s (w s o.c) Cap.br [Cap.kGroup] 1 = none) {scope g : Nat} (hname : NamesGroup s (w s o.c) scope g) (hscope : scope = 2)
include hi hp hcheck hname hscope

theorem mmag_body : ∃ body, exec (.mmag o) s = runOp (mmagDesc o) body s ∧
    body (s.withSelf (s.self.begun (mmagDesc o))) = mmagRest o s (s.withSelf (s.self.begun (mmagDesc o))) := by
  obtain ⟨v, hv⟩ : ∃ v, v = s.withSelf (s.self.begun (mmagDesc o)) := ⟨_, rfl⟩
  have hreads : SameReads v.self s.self := by rw [hv, State.self_withSelf]; exact .begun ..
  have hiv : v.self.gangIssued = false := by rw [hv, State.self_withSelf]; exact hi
  have hpv : ((v.quad (quadOf v.cur)).postings.any fun p => p.sid = v.cur) = false := by
    rw [hv]
    exact List.any_eq_false.mpr fun p hm => by rw [decide_eq_true_eq]; exact hp p hm
  have hgroup : checkGroup (w s o.c) false v = .ok (scope, g) v := by rw [hv]; exact checkGroup_named_begun _ hcheck hname
  have hscope' : (decide (scope ≠ 2)) = false := by rw [hscope]; rfl
  refine ⟨_, rfl, ?_⟩
  rw [← hv]
  refine (M.bind_ok (M.get_run v)).trans ?_
  dsimp only
  rw [hiv, if_neg (by decide), hpv, if_neg (by decide)]
  refine (M.bind_ok (h.readW (n := o.c) (by simp) hreads 0)).trans ((M.bind_ok hgroup).trans ?_)
  refine (M.bind_ok (raiseIf_of_not hscope' ..)).trans ?_
  have hcur : v.cur = s.cur := by rw [hv]; rfl
  have hquad (q : Nat) : v.quad q = s.quad q := by rw [hv]; rfl
  rw [hcur, hquad]
  rfl

theorem mmag_mismatch (hcount : ∃ p ∈ otherPostings s o, p.count ≠ o.imm.toNat / 64 % 8 + 1) :
    Traps (.mmag o) s cGang (o.a.toNat * 2 ^ 30 + o.imm.toNat / 8 % 8 * 2 ^ 27 + 0x10) := by
  obtain ⟨body, hx, hbody⟩ := mmag_body h hi hp hcheck hname hscope
  have hany : ((otherPostings s o).any fun p => p.count ≠ o.imm.toNat / 64 % 8 + 1) = true :=
    List.any_eq_true.mpr (hcount.imp fun p hp => ⟨hp.1, decide_eq_true hp.2⟩)
  have hvalue : gangValue o.a.toNat (o.imm.toNat / 8 % 8) 0 0 0 cIll = BitVec.ofNat 64 (o.a.toNat * 2 ^ 30 + o.imm.toNat / 8 % 8 * 2 ^ 27 + 0x10) := by
    rw [gangValue_whole, toNat_cIll]
  generalize o.a.toNat * 2 ^ 30 + o.imm.toNat / 8 % 8 * 2 ^ 27 + 0x10 = value at hvalue ⊢
  refine traps_of_runOp hx Steer.noConfusion (mmag_clear h) (hbody.trans ?_) (by decide)
  unfold mmagRest
  rw [hany, if_pos rfl, hvalue]
  rfl

variable (hcount : ∀ p ∈ otherPostings s o, p.count = o.imm.toNat / 64 % 8 + 1) (hfree : ArrayFree s)
include hcount hfree

/-- The array is taken in the state behind the prologue. -/
theorem mmag_taken {v : State} (hv : v = s.withSelf (s.self.begun (mmagDesc o))) : ∃ n, mmagRest o s v =
    (if (otherPostings s o).length + 1 < o.imm.toNat / 64 % 8 + 1 then do
      modQuad (quadOf s.cur) fun v => { v with postings := v.postings ++ [myPosting s o] }
      throw .wait
    else issueGang (o.imm.toNat / 8 % 8) (gangOf s o) ((gangOf s o).headD (myPosting s o))) (v.countCore (coreOf v.cur) 6 n) := by
  have hany : ((otherPostings s o).any fun p => p.count ≠ o.imm.toNat / 64 % 8 + 1) = false :=
    List.any_eq_false.mpr fun p hm => by rw [decide_eq_true_eq]; exact not_not_intro (hcount p hm)
  have htake := takeArray_run (v := v) (e := mmagEntry s o) (by rw [hv]; exact hfree.begun _) (by rw [hv]; rfl)
  refine ⟨v.entryCharge (mmagEntry s o), ?_⟩
  unfold mmagRest
  rw [hany, if_neg (by decide)]
  exact M.bind_ok htake

theorem mmag_waits (hfew : (otherPostings s o).length + 1 < o.imm.toNat / 64 % 8 + 1) :
    ∃ t, exec (.mmag o) s = .next t ∧ t.self.pcc = s.self.pcc ∧ t.self.instret = s.self.instret ∧
      (t.quad (quadOf s.cur)).postings = (s.quad (quadOf s.cur)).postings ++ [myPosting s o] ∧ (t.quad (quadOf s.cur)).ops = (s.quad (quadOf s.cur)).ops := by
  obtain ⟨body, hx, hbody⟩ := mmag_body h hi hp hcheck hname hscope
  obtain ⟨n, htaken⟩ := mmag_taken h hi hp hcheck hname hscope hcount hfree rfl
  obtain ⟨v, hv⟩ : ∃ v, v = (s.withSelf (s.self.begun (mmagDesc o))).countCore (coreOf (s.withSelf (s.self.begun (mmagDesc o))).cur) 6 n := ⟨_, rfl⟩
  have hself : v.self = s.self.begun (mmagDesc o) := by rw [hv, State.self_countCore, State.self_withSelf]
  have hquad : v.quad (quadOf s.cur) = s.quad (quadOf s.cur) := by rw [hv]; rfl
  rw [if_pos hfew, ← hv] at htaken
  have herr : body (s.withSelf (s.self.begun (mmagDesc o))) = .error .wait
      (v.withQuad (quadOf s.cur) { v.quad (quadOf s.cur) with postings := (v.quad (quadOf s.cur)).postings ++ [myPosting s o] }) :=
    hbody.trans (htaken.trans ((M.bind_ok (modQuad_run ..)).trans rfl))
  have hnext := exec_of_wait (body := do body; pure .next) hx Steer.noConfusion rfl (mmag_clear h) (M.bind_error herr)
  have hkept : (v.withQuad (quadOf s.cur) { v.quad (quadOf s.cur) with postings := (v.quad (quadOf s.cur)).postings ++ [myPosting s o] }).self =
      s.self.begun (mmagDesc o) := hself
  obtain ⟨u, hu⟩ : ∃ u, u = v.withQuad (quadOf s.cur) { v.quad (quadOf s.cur) with postings := (v.quad (quadOf s.cur)).postings ++ [myPosting s o] } := ⟨_, rfl⟩
  have hnew : u.quad (quadOf s.cur) = { v.quad (quadOf s.cur) with postings := (v.quad (quadOf s.cur)).postings ++ [myPosting s o] } := by
    rw [hu]
    exact lookupD_storeAt_same ..
  rw [← hu] at hnext hkept
  have hidle : u.idle.quad (quadOf s.cur) = u.quad (quadOf s.cur) := by
    obtain ⟨-, -, -, hrest⟩ := Elsewhere.idle u
    have hquads : u.idle.rest.quads = u.rest.quads := congrArg State.quads hrest
    exact congrArg (lookupD _ · (quadOf s.cur)) hquads
  refine ⟨u.idle, hnext, ?_, ?_, ?_, ?_⟩
  · rw [State.self_idle, hkept]
    rfl
  · rw [State.self_idle, hkept]
    rfl
  · rw [hidle, hnew, hquad]
  · rw [hidle, hnew, hquad]

variable (hfull : o.imm.toNat / 64 % 8 + 1 ≤ (otherPostings s o).length + 1)
variable (hpairs : ∀ p ∈ gangOf s o, (partnerPair s ((gangOf s o).headD (myPosting s o)) p).isSome = true)
include hfull hpairs

theorem mmag_forms : ∃ t, exec (.mmag o) s = .next t ∧ t.self.pcc = s.self.pccAt s.self.npc ∧ t.self.instret = s.self.instret + 1 ∧
    (t.quad (quadOf s.cur)).postings = ((s.quad (quadOf s.cur)).postings.filter fun p => p.gid ≠ o.imm.toNat / 8 % 8) ∧
    (∀ p ∈ otherPostings s o, (t.strand p.sid).gangIssued = true) ∧
    ∀ k < (gangOf s o).length, ∃ n, { partnerOp s (s.quad (quadOf s.cur)).nextOp ((gangOf s o).headD (myPosting s o)) ((gangOf s o).getD k (myPosting s o), k)
      with id := n } ∈ (t.quad (quadOf s.cur)).ops := by
  obtain ⟨body, hx, hbody⟩ := mmag_body h hi hp hcheck hname hscope
  obtain ⟨n, htaken⟩ := mmag_taken h hi hp hcheck hname hscope hcount hfree rfl
  obtain ⟨w, hw⟩ : ∃ w, w = (s.withSelf (s.self.begun (mmagDesc o))).countCore (coreOf (s.withSelf (s.self.begun (mmagDesc o))).cur) 6 n := ⟨_, rfl⟩
  obtain ⟨ps, hps⟩ : ∃ ps, ps = gangOf s o := ⟨_, rfl⟩
  obtain ⟨lead, hlead⟩ : ∃ lead, lead = (gangOf s o).headD (myPosting s o) := ⟨_, rfl⟩
  rw [if_neg (by omega), ← hw, ← hlead, ← hps] at htaken
  rw [← hlead, ← hps] at hpairs
  have hcur : w.cur = s.cur := by rw [hw]; rfl
  have hself : w.self = s.self.begun (mmagDesc o) := by rw [hw, State.self_countCore, State.self_withSelf]
  have hquad : w.quad (quadOf s.cur) = s.quad (quadOf s.cur) := by rw [hw]; rfl
  have hmtx (b : Nat) : (w.strand b).mtx = (s.strand b).mtx := by
    by_cases hb : b = s.cur
    · rw [hb, ← hcur]
      exact (congrArg Strand.mtx hself).trans (by rw [hcur]; rfl)
    · have hother : w.strand b = s.strand b := by
        rw [hw, State.strand_countCore]
        exact State.strand_withStrand_ne _ _ _ _ hb
      rw [hother]
  have hdesc (b tile : Nat) : (w.strand b).desc tile = (s.strand b).desc tile := by
    unfold Strand.desc
    rw [hmtx]
  have hpair (p : Posting) : partnerPair w lead p = partnerPair s lead p := by
    unfold partnerPair
    simp only [hdesc]
  have hop (e : Posting × Nat) : partnerOp w (s.quad (quadOf s.cur)).nextOp lead e = partnerOp s (s.quad (quadOf s.cur)).nextOp lead e := by
    have hrows : denseRows (w.strand e.1.sid) e.1.lt 0 = denseRows (s.strand e.1.sid) e.1.lt 0 := by
      unfold denseRows
      rw [hmtx]
      simp only [hdesc]
    unfold partnerOp denseOp
    dsimp only
    rw [hpair, hrows, hmtx, hdesc, hdesc]
  have hrun := htaken.trans (issueGang_run (gid := o.imm.toNat / 8 % 8) fun p hm => by rw [hpair]; exact hpairs p hm)
  obtain ⟨hcur2, hpost2, -, hops2, hself2⟩ := opsIssued (quadOf w.cur) (ps.zipIdx.map (partnerOp w (w.quad (quadOf w.cur)).nextOp lead))
    (w.withQuad (quadOf w.cur) (gangBegun (o.imm.toNat / 8 % 8) ps (w.quad (quadOf w.cur))))
  obtain ⟨w2, hw2⟩ : ∃ w2, w2 = (ps.zipIdx.map (partnerOp w (w.quad (quadOf w.cur)).nextOp lead)).foldl (fun v o => issued (quadOf w.cur) o v)
    (w.withQuad (quadOf w.cur) (gangBegun (o.imm.toNat / 8 % 8) ps (w.quad (quadOf w.cur)))) := ⟨_, rfl⟩
  obtain ⟨hcur3, hquads3, hself3, htold⟩ := told w.cur ps w2
  have hstate : gangIssuedState (o.imm.toNat / 8 % 8) ps lead w = ps.foldl (noteIssued w.cur) w2 := by rw [hw2]; rfl
  rw [hstate] at hrun
  obtain ⟨u, hu⟩ : ∃ u, u = ps.foldl (noteIssued w.cur) w2 := ⟨_, rfl⟩
  rw [← hw2] at hcur2 hpost2 hops2 hself2
  rw [← hu] at hrun hcur3 hquads3 hself3 htold
  have hcuru : u.cur = w.cur := hcur3.trans hcur2
  have hself : u.self = w2.self := by
    change u.strand u.cur = w2.strand w2.cur
    rw [hcuru, hself3, show w2.cur = w.cur from hcur2]
  have hcourse : SameCourse (s.self.begun (mmagDesc o)) u.self := by
    have hbefore : (w.withQuad (quadOf w.cur) (gangBegun (o.imm.toNat / 8 % 8) ps (w.quad (quadOf w.cur)))).self = s.self.begun (mmagDesc o) := ‹w.self = _›
    rw [hbefore] at hself2
    rw [hself]
    exact hself2
  obtain ⟨-, -, happart, -⟩ := id (mmag_clear h)
  have hleads : Leads (.mmag o) s u := leads_of_runWith (body := do body; pure .next) hx Steer.noConfusion rfl (mmag_clear h)
    (M.bind_ok (hbody.trans hrun)) (.refl u) (hcourse.apart.trans happart) (hcourse.instret.trans rfl) (hcourse.pcc.trans rfl) (hcourse.ir.trans rfl)
  obtain ⟨t, ht, hpcc, hret, hcurt, -, -, hstrands, -, -, hrest⟩ := hleads
  have hquadt (q : Nat) : t.quad q = w2.quad q := by
    have hq : t.rest.quads = u.rest.quads := congrArg State.quads hrest
    exact congrArg (lookupD _ · q) (hq.trans hquads3)
  have hqcur : quadOf w.cur = quadOf s.cur := by rw [hcur]
  have hbegunq : ((w.withQuad (quadOf w.cur) (gangBegun (o.imm.toNat / 8 % 8) ps (w.quad (quadOf w.cur)))).quad (quadOf w.cur)) =
      gangBegun (o.imm.toNat / 8 % 8) ps (w.quad (quadOf w.cur)) := lookupD_storeAt_same ..
  rw [hbegunq, hqcur, hquad] at hpost2
  rw [hqcur, hquad] at hops2
  refine ⟨t, ht, hpcc, hret, ?_, fun p hm => ?_, fun k hk => ?_⟩
  · rw [hquadt, hpost2]
    rfl
  · have hne : p.sid ≠ s.cur := hp p (List.mem_of_mem_filter hm)
    have hin : p ∈ ps := by
      rw [hps]
      exact (mem_insertPostings _ _).mpr (.inr hm)
    rw [hstrands p.sid (by rw [hcuru, hcur]; exact hne)]
    exact htold p (.inl ⟨hin, by rw [hcur]; exact hne⟩)
  · rw [← hps] at hk
    have hmem : partnerOp w (s.quad (quadOf s.cur)).nextOp lead (ps.getD k (myPosting s o), k) ∈
        ps.zipIdx.map (partnerOp w (s.quad (quadOf s.cur)).nextOp lead) := by
      refine List.mem_map_of_mem ?_
      rw [List.getD_eq_getElem _ _ hk]
      exact List.mem_zipIdx_iff_getElem?.mpr (List.getElem?_eq_getElem hk)
    obtain ⟨n, hn⟩ := hops2 _ hmem
    refine ⟨n, ?_⟩
    rw [hop] at hn
    rw [hquadt, ← hlead, ← hps]
    exact hn

end

theorem gangsForm : GangsForm := by
  intro o s scope g q acc rt gid n c me others h
  refine ⟨fun hi => mmag_issued h hi, fun hi hp => mmag_posted h hi hp, fun hi hp hcheck hname hscope => ⟨fun hcount => ?_, fun hcount hfew hfree => ?_, ?_⟩⟩
  · exact mmag_mismatch h hi hp hcheck hname hscope hcount
  · exact mmag_waits h hi hp hcheck hname hscope hcount hfree hfew
  · intro hcount hfull hfree ps lead hpairs
    have hpair (p : Posting) (hm : p ∈ ps) : (partnerPair s lead p).isSome = true := (hpairs p hm).2
    obtain ⟨t, ht, hpcc, hret, hpost, htold, hops⟩ := mmag_forms h hi hp hcheck hname hscope hcount hfree hfull hpair
    refine ⟨t, ht, hpcc, hret, hpost, htold, fun k hk => ?_⟩
    obtain ⟨id, hid⟩ := hops k hk
    have hmem : ps.getD k me ∈ ps := by
      rw [List.getD_eq_getElem _ _ hk]
      exact List.getElem_mem hk
    refine ⟨_, hid, rfl, rfl, rfl, rfl, rfl, ?_⟩
    exact (congrArg List.length (rows_partnerOp (run := (s.quad q).nextOp) (e := (ps.getD k me, k)) (hpair _ hmem))).trans (length_denseRows ..)

/-- Settles O39: dense and sparse products issue with their tiles as they stand, and gangs form by their postings. -/
theorem productsIssue : Obligations.ProductsIssue := ⟨denseProductsIssue, sparseProductsIssue, gangsForm⟩

end Sys2Proof.Claims
end

section
/-! PROOF. O30: a yield whose count lets another colony's record come first. -/

namespace Sys2Proof.Claims

open Sys2Proof.Machine

/-- The task that the strand ends, of a slot that is not in use. -/
def lastTask : TaskId := { pkg := 0, home := 0, slot := 1, gen := 0, holder := 0, sid := 0 }

/-- The handle of the instance in the first slot. -/
def firstHandle : Reg := ⟨Cap.make Cap.kWorklist 0 (Cap.wl ||| Cap.gl) 1 0 0 0, true⟩

/-- A strand with that task and that handle. -/
def yieldingStrand : Strand := { Strand.idle with live := true, ir := [0], tasks := [lastTask], regs := [(2, firstHandle)] }

/-- The instance's slot, which is charged to colony 1. -/
def chargedSlot : HomeSlot := { HomeSlot.free 0 with used := true, scope := 3, colony := 1 }

/-- A colony without a budget. -/
def freeColony : Colony := { Colony.first with state := .loaded }

/-- A colony with one home operation left in its period. -/
def tightColony : Colony := { Colony.first with state := .loaded, alloc := [(6, 1)], rem := [(6, 1)] }

/-- A state with two loaded colonies around the strand, in whose table the record of colony 2 stands before that of colony 1. -/
def yieldingState : State := { State.reset with
  strands := [(0, yieldingStrand)]
  dies := [(0, { DieState.empty with slots := [(0, chargedSlot)] })]
  units := { PackageState.reset with colonies := [(2, some freeColony), (1, some tightColony)] } }

/-- The tasks of the current strand after an outcome. -/
def tasksAfter : Host.Outcome State Fault Refusal → List TaskId
  | .next t => t.self.tasks
  | _ => []

/-- The operands of the `yield`. -/
def yieldOp : OpRR := ⟨0, 0, 2⟩

/-- The charge of the count puts a second record of colony 1 before that of colony 2, so that the pop is colony 1's, whose budget is used up:
the pop waits. -/
theorem tasksAfter_yieldingState : tasksAfter (exec (.yield yieldOp) yieldingState) = [] := by decide +kernel

theorem issues_yieldingState : Issues yieldingState [yieldOp.a, yieldOp.b] := by
  unfold Issues Ready Together
  decide +kernel

theorem ready_yieldingState : Ready yieldingState [⟨0, yieldOp.a.toNat + 1, true, true⟩] := by
  unfold Ready Together
  decide +kernel

theorem namesInstance_yieldingState : NamesInstance yieldingState (w yieldingState yieldOp.b) 0 0 0 := by
  unfold NamesInstance
  decide +kernel

theorem ripe_yieldingState : Ripe yieldingState 0 0 := by
  unfold Ripe
  decide +kernel

theorem canPush_yieldingState : CanPush yieldingState 0 0 (w yieldingState (yieldOp.a + 1)) := by
  unfold CanPush
  decide +kernel

theorem colony_yieldingState : yieldingState.colony (yieldingState.colonyOf yieldingState.cur) = some freeColony := by decide +kernel

/-- Refutes O30: the statement bounds the budget of the colony that the strand is in before the `yield`; in a table whose records stand out
of order the charge of the count makes another one the strand's, and its budget does not admit the pop. -/
theorem not_worklists : ¬ Obligations.Worklists := by
  rintro ⟨-, -, ⟨-, hyield⟩, -⟩
  obtain ⟨-, hback⟩ := hyield yieldOp yieldingState 0 0 0 issues_yieldingState ready_yieldingState (by decide)
  obtain ⟨u, hu, -, -, -, htasks, -⟩ := hback [] lastTask rfl rfl (by decide) namesInstance_yieldingState ripe_yieldingState canPush_yieldingState
    (fun c hc => by
      rw [colony_yieldingState] at hc
      cases hc
      decide +kernel)
    (by decide +kernel) (by decide +kernel) (by decide +kernel) (by decide +kernel) (by decide +kernel) (by decide +kernel)
    (by decide +kernel) rfl (by decide +kernel) (by decide +kernel)
  have hrun := tasksAfter_yieldingState
  rw [hu] at hrun
  exact List.cons_ne_nil _ _ (htasks.symm.trans hrun)

end Sys2Proof.Claims
end

section
/-! PROOF. O36: an image on a sector that a write-back of the save itself marks as failing. -/

namespace Sys2Proof.Claims

open Sys2Proof.Machine

/-! ## The state -/

/-- The place of the image: the slice of lane 0 in quad 0. -/
def imagePlace : Nat := 0x10018000000

/-- A capability for the image. -/
def imageCap : Reg := ⟨Cap.make Cap.kMemory 0 0xFFF 0x4000 0 4 0, true⟩

/-- The leaf of level 1 that maps the image. -/
def imageLeaf : Word := 0x1001800010F

/-- A line of the core's L1 with a dirty byte in a sector that an error has struck. -/
def struckLine : L1Line := { L1Line.empty with bytes := List.replicate 128 0, valid := 1, dirty := 1, fails := [(0, cEcc)] }

/-- A supervisor's strand with the capability. -/
def savingStrand : Strand := { Strand.idle with live := true, mode := .supervisor, ir := [0], regs := [(0, imageCap)] }

/-- A state in which the L1 of the strand's core holds that line at the place of the image. -/
def savingState : State := { State.reset with
  strands := [(0, savingStrand)]
  cores := [(0, { CoreState.empty with lines := [(imagePlace / 128, struckLine)] })]
  tlb := [(tlbKey 12 0 1 0, ⟨imageLeaf, 1⟩)] }

/-- The operand of the `ctxs`. -/
def saveOp : OpR := ⟨0, 0⟩

/-- The pieces that the image is translated to. -/
def imagePieces : List (Nat × Nat × Nat × Word) :=
  [(0, 65536, imagePlace, imageLeaf), (65536, 65536, imagePlace + 65536, imageLeaf), (131072, 2048, imagePlace + 131072, imageLeaf)]

/-- The first sector of the image fails, and its first byte is 0; no core has a partial. -/
def marred (v : State) : Bool :=
  v.cur = 0 && v.pkg = 0 && (v.cores.all fun c => c.2.lines.all fun l => l.2.upd.isNone) && v.badAt imagePlace ≠ 0 && v.byteAt imagePlace = 0

/-- What `ctxs` does up to its release. -/
def saveStart (o : OpR) : M (Reg × List (Nat × Nat × Nat × Word)) := do
  prologue ⟨o.st, 0, .joint, [wBoth o.a]⟩ (needMode .supervisor)
  let c ← readW 0 o.a
  let ps ← checkImage c (Cap.st ||| Cap.sc)
  waitForLanes
  modSelf fun t => { t.drain with stream := none }
  releaseAt 4
  pure (c, ps)

/-- What it does behind its release. -/
def saveRest (o : OpR) (c : Reg) (ps : List (Nat × Nat × Nat × Word)) : M Flow := do
  let sid ← curSid
  let s ← get
  let t := s.self.putW o.a.toNat (Reg.ofWord 1)
  let after := t.complete t ⟨o.st, 0, .joint, [wBoth o.a]⟩ 0 (t.pccAt t.npc)
  set (s.noteSave sid after)
  storeGranules ps (Cap.tenant c.val) (Cap.cursor c.val) ((s.withSelf after).imageOf sid 0)
  writeX o.a 0
  pure .next

/-- `ctxs` is its start and its rest. -/
theorem exec_ctxs {o : OpR} {s t : State} (h : (saveStart o >>= fun r => saveRest o r.1 r.2) s = .ok .next t) :
    exec (.ctxs o) s = .next (t.commit s ⟨o.st, 0, .joint, [wBoth o.a]⟩ 0 .next) := by
  have hx : exec (.ctxs o) s = execCtxs o s := rfl
  unfold saveStart saveRest at h
  simp only [bind_assoc, pure_bind] at h
  rw [hx]
  unfold execCtxs runPriv runWith
  simp only [bind_assoc]
  rw [h]

/-- Whether the start leads to a marred image with the pieces and the capability. -/
def startMarred : EStateM.Result Exc State (Reg × List (Nat × Nat × Nat × Word)) → Bool
  | .ok r t => r = (imageCap, imagePieces) && marred t
  | .error _ _ => false

theorem startMarred_savingState : startMarred (saveStart saveOp savingState) = true := by decide +kernel

/-! ## Stores into the image -/

theorem badAt_putBytes (s : State) (a : Nat) (bs : List Byte) (b : Nat) : (s.putBytes a bs).badAt b = s.badAt b :=
  (putOnly_putBytes s a bs).badAt b

/-- What `marred` says. -/
theorem marred_iff {v : State} : marred v = true ↔ v.cur = 0 ∧ v.pkg = 0 ∧ (v.cores.all fun c => c.2.lines.all fun l => l.2.upd.isNone) = true ∧
    v.badAt imagePlace ≠ 0 ∧ v.byteAt imagePlace = 0 := by
  simp [marred, and_assoc]

/-- The image lies in slices. -/
theorem place_image {n : Nat} (h : n < 0x20800) : ∃ q l o, place (imagePlace + n) = .slice q l o := by
  have hoff : (imagePlace + n - dieWindows) % 0x40000000 = 0x18000000 + n := by
    unfold imagePlace dieWindows
    omega
  unfold place
  rw [if_neg (by unfold imagePlace dieWindows; omega), if_pos (by unfold imagePlace dieWindows; omega)]
  dsimp only
  rw [hoff, if_neg (by omega), if_neg (by omega), if_neg (by omega), if_neg (by omega), if_pos (by omega)]
  exact ⟨_, _, _, rfl⟩

theorem canon_image {n : Nat} (h : n < 0x20800) : canon (imagePlace + n) = imagePlace + n := by
  obtain ⟨q, l, o, hp⟩ := place_image h
  unfold canon
  rw [hp]

theorem canon_imagePlace : canon imagePlace = imagePlace := canon_image (n := 0) (by decide)

/-- What `homePut` adds behind its bytes keeps the image marred. -/
theorem marred_noted {v u : State} (h : marred v = true) (hput : PutOnly v u) (hmem : u.mem = v.mem) : marred u = true := by
  obtain ⟨hcur, hpkg, hclean, hbad, hbyte⟩ := marred_iff.mp h
  refine marred_iff.mpr ⟨hput.cur.trans hcur, hput.pkg.trans hpkg, ?_, by rw [hput.badAt]; exact hbad, ?_⟩
  · obtain ⟨_, _, _, _, rfl⟩ := hput
    exact hclean
  · unfold State.byteAt
    rw [hmem]
    exact hbyte

/-- A store of one granule leaves the image marred: it is discarded in the first sector, and leaves that sector alone elsewhere. -/
theorem marred_putSector {v : State} {g : Nat} {bs : List Byte} (h : marred v = true) (hg : g < 0x2080) (hlen : bs.length = 16) :
    marred (v.putSector (imagePlace + 16 * g) bs) = true := by
  obtain ⟨hcur, hpkg, hclean, hbad, hbyte⟩ := marred_iff.mp h
  unfold State.putSector
  by_cases hok : v.badAt (imagePlace + 16 * g) = 0
  · rw [if_pos hok]
    have hput := putOnly_putBytes v (imagePlace + 16 * g) bs
    have hkeep : (v.putBytes (imagePlace + 16 * g) bs).byteAt imagePlace = v.byteAt imagePlace := by
      refine State.byteAt_putBytes_ne _ _ _ _ fun i hi => ?_
      rw [Nat.add_assoc, canon_image (by omega), canon_imagePlace]
      intro heq
      have hzero : 16 * g + i = 0 := by omega
      have hgzero : g = 0 := by omega
      rw [hgzero] at hok
      exact hbad hok
    refine marred_iff.mpr ⟨hput.cur.trans hcur, hput.pkg.trans hpkg, ?_, by rw [hput.badAt]; exact hbad, hkeep.trans hbyte⟩
    obtain ⟨_, _, _, _, he⟩ := hput
    rw [he]
    exact hclean
  · rw [if_neg hok, if_neg (by simp [hlen])]
    exact marred_iff.mpr ⟨hcur, hpkg, hclean, hbad, hbyte⟩

theorem marred_homePut {v : State} {g : Nat} {bs : List Byte} (h : marred v = true) (hg : g < 0x2080) (hlen : bs.length = 16) :
    marred (v.homePut (imagePlace + 16 * g) bs) = true := by
  have hne : bs ≠ [] := by
    rintro rfl
    cases hlen
  have hsector : splitAt 32 (bs.length / 32 + 2) (imagePlace + 16 * g) bs = [(imagePlace + 16 * g, bs)] := by
    refine splitAt_one hne (by decide) ?_ _
    unfold imagePlace
    omega
  have hline : splitAt 128 (bs.length / 128 + 2) (imagePlace + 16 * g) bs = [(imagePlace + 16 * g, bs)] := by
    refine splitAt_one hne (by decide) ?_ _
    unfold imagePlace
    omega
  unfold State.homePut
  rw [hsector, hline]
  have hput := marred_putSector (bs := bs) h hg hlen
  generalize imagePlace + 16 * g = a at hput ⊢
  rw [List.foldl_cons, List.foldl_nil, List.foldl_cons, List.foldl_nil]
  have hl2 := marred_noted hput (putOnly_l2Put _ a bs.length) (mem_l2Put _ a bs.length).1
  exact marred_noted hl2 (putOnly_wakeAt _ a) (mem_wakeAt _ a).1

/-- The tag of a granule is noted in a sector that does not fail. -/
theorem marred_putTag {v : State} {a : Nat} (h : marred v = true) : marred (v.putTag a true) = true := h

/-- The piece that holds a granule. -/
theorem pieceAt_image {g : Nat} (h : g < 0x2080) : pieceAt imagePieces (16 * g) = (imagePlace + 16 * g, imageLeaf) := by
  unfold pieceAt imagePieces
  by_cases h1 : 16 * g < 65536
  · rw [List.find?_cons_of_pos (by simpa using h1)]
    simp
  · rw [List.find?_cons_of_neg (by simpa using h1)]
    by_cases h2 : 16 * g < 131072
    · rw [List.find?_cons_of_pos (by simp; omega)]
      simp only [Prod.mk.injEq, and_true]
      omega
    · rw [List.find?_cons_of_neg (by simp; omega), List.find?_cons_of_pos (by simp; omega)]
      simp only [Prod.mk.injEq, and_true]
      omega

/-- Stores of granules from one on. -/
theorem storeGranules_marred {tenant : BitVec 12} (rs : List Reg) {g : Nat} {v : State} (h : marred v = true) (hg : g + rs.length ≤ 0x2080) :
    ∃ t, storeGranules imagePieces tenant (16 * g) rs v = .ok () t ∧ marred t = true := by
  induction rs generalizing g v with
  | nil => exact ⟨v, rfl, h⟩
  | cons r rs ih =>
    rw [List.length_cons] at hg
    obtain ⟨hcur, hpkg, hclean, -, -⟩ := marred_iff.mp h
    have hplace : DirectOwn v (imagePlace + 16 * g) := .inr (place_image (by omega))
    have hlow : imagePlace + 16 * g < 2 ^ 41 := by
      unfold imagePlace
      omega
    have hp : pkgOf (imagePlace + 16 * g) = v.pkg := by
      unfold pkgOf
      rw [hpkg, Nat.div_eq_of_lt hlow, Nat.zero_mod]
    have hl : localOf (imagePlace + 16 * g) = imagePlace + 16 * g := Nat.mod_eq_of_lt hlow
    have hput := marred_homePut (g := g) (bs := leBytes 16 r.val.toNat) h (by omega) (length_leBytes ..)
    have hstore := (storeBytes_local (s := v) hp hl (by decide : pteM imageLeaf = false) (16 * g) (leBytes 16 r.val.toNat) r.tag .plain tenant).trans
      (storeLocal_direct hplace rfl (Sys2Proof.Tests.noPartials_of hclean) ..)
    obtain ⟨u, hu⟩ : ∃ u, u = (if r.tag && v.badAt (imagePlace + 16 * g) = 0 then
      (v.homePut (imagePlace + 16 * g) (leBytes 16 r.val.toNat)).putTag (imagePlace + 16 * g) true
        else v.homePut (imagePlace + 16 * g) (leBytes 16 r.val.toNat)) := ⟨_, rfl⟩
    have hmarred : marred u = true := by
      rw [hu]
      split
      · exact marred_putTag hput
      · exact hput
    rw [← hu] at hstore
    obtain ⟨t, ht, hdone⟩ := ih (g := g + 1) hmarred (by omega)
    refine ⟨t, ?_, hdone⟩
    unfold storeGranules
    rw [pieceAt_image (by omega)]
    exact (M.bind_ok hstore).trans ht

/-! ## The size of an image -/

@[simp] theorem length_packGranules (w n : Nat) (vs : List Nat) : (packGranules w n vs).length = n := by
  induction n generalizing vs with
  | zero => rfl
  | succ n ih => exact congrArg Nat.succ (ih _)

@[simp] theorem length_padGranules (n : Nat) (rs : List Reg) : (padGranules n rs).length = n := by
  simp [padGranules]
  omega

theorem length_registers (m : SMap Reg) (k n : Nat) : (lookupRange Reg.zero m k n).length = n := by
  induction n generalizing k with
  | zero => rfl
  | succ n ih => exact congrArg Nat.succ (ih _)

theorem length_imageOf (s : State) (sid flags : Nat) : (s.imageOf sid flags).length = 0x2080 := by
  have hheader (f : Nat) : (s.imageHeader sid f).length = 4 := rfl
  unfold State.imageOf
  simp only [List.length_append, length_packGranules, length_padGranules, List.length_cons, List.length_nil, length_registers, hheader]

/-! ## The obligation -/

/-- The rest of the `ctxs` leaves the image marred. -/
theorem saveRest_marred {v : State} (h : marred v = true) :
    ∃ t, saveRest saveOp imageCap imagePieces v = .ok .next t ∧ t.byteAt imagePlace = 0 := by
  obtain ⟨r, hr⟩ : ∃ r, r = v.self.putW saveOp.a.toNat (Reg.ofWord 1) := ⟨_, rfl⟩
  obtain ⟨after, hafter⟩ : ∃ after, after = r.complete r ⟨saveOp.st, 0, .joint, [wBoth saveOp.a]⟩ 0 (r.pccAt r.npc) := ⟨_, rfl⟩
  have hcursor : Cap.cursor imageCap.val = 16 * 0 := by decide +kernel
  have hnoted : marred (v.noteSave v.cur after) = true := h
  obtain ⟨t, ht, hmarred⟩ := storeGranules_marred (tenant := Cap.tenant imageCap.val) ((v.withSelf after).imageOf v.cur 0) (g := 0) hnoted
    (by rw [length_imageOf])
  obtain ⟨-, -, -, -, hbyte⟩ := marred_iff.mp hmarred
  refine ⟨t.withSelf (t.self.putW saveOp.a.toNat (Reg.ofWord 0)), ?_, hbyte⟩
  rw [← hcursor] at ht
  refine (M.bind_ok (rfl : curSid v = .ok v.cur v)).trans ((M.bind_ok (M.get_run v)).trans ?_)
  rw [← hr, ← hafter]
  exact (M.bind_ok (M.set_run ..)).trans ((M.bind_ok ht).trans rfl)

/-- The first byte of the image stays what it was. -/
theorem ctxs_savingState : ∃ t, exec (.ctxs saveOp) savingState = .next t ∧ t.byteAt imagePlace = 0 := by
  have hstart := startMarred_savingState
  generalize hout : saveStart saveOp savingState = out at hstart
  cases out with
  | error e v => cases hstart
  | ok r v =>
    have hboth : r = (imageCap, imagePieces) ∧ marred v = true := by simpa [startMarred] using hstart
    obtain ⟨rfl, hmarred⟩ := hboth
    obtain ⟨t, ht, hbyte⟩ := saveRest_marred hmarred
    refine ⟨_, exec_ctxs ((M.bind_ok hout).trans ht), ?_⟩
    have hmem : (t.commit savingState ⟨saveOp.st, 0, .joint, [wBoth saveOp.a]⟩ 0 .next).rest.mem = t.rest.mem :=
      congrArg State.mem (State.rest_commit ..)
    exact (congrArg (lookupD 0 · (canon imagePlace)) hmem).trans hbyte

theorem issues_savingState : Issues savingState [saveOp.a] := by
  unfold Issues Ready Together
  decide +kernel

theorem maps_image {n : Nat} (h : n < 0x20800) : Maps savingState 0 n (Cap.st ||| Cap.sc) (savingState.globalOf (imagePlace + n)) imageLeaf := by
  have hlow : tlbKey (microTlb 0) 0 1 n = tlbKey 12 0 1 0 := by
    unfold tlbKey
    rw [if_pos rfl, if_pos rfl, Nat.div_eq_of_lt (show n < 2 ^ 25 by omega)]
    rfl
  have hother : tlbKey (microTlb 0) 0 2 n ≠ tlbKey 12 0 1 0 := by
    have hgroup : microTlb 0 = 12 := rfl
    have htenant : (0 : BitVec 12).toNat = 0 := rfl
    unfold tlbKey
    rw [hgroup, htenant, if_neg (by decide), if_pos rfl]
    omega
  have hfind : savingState.tlbFind (microTlb 0) 0 n = ⟨imageLeaf, 1⟩ := by
    have hmiss : lookupD (⟨0, 0⟩ : TlbEntry) savingState.tlb (tlbKey (microTlb 0) 0 2 n) = ⟨0, 0⟩ := if_neg hother
    have hhit : lookupD (⟨0, 0⟩ : TlbEntry) savingState.tlb (tlbKey (microTlb 0) 0 1 n) = ⟨imageLeaf, 1⟩ := if_pos hlow
    unfold State.tlbFind
    rw [hmiss, if_neg (by decide), hhit]
  have hpa : ptePa imageLeaf = imagePlace := by decide +kernel
  refine ⟨⟨imageLeaf, 1⟩, ⟨hfind, by decide⟩, rfl, ?_, by decide, fun _ => by decide⟩
  have hpkg : savingState.pkg = 0 := rfl
  unfold State.globalOf leafAddr
  rw [hpkg, hpa, if_pos rfl, Nat.mod_eq_of_lt (show n < 2 ^ 25 by omega), Nat.zero_mul, Nat.zero_add]

/-- Refutes O36: the release of a `ctxs` may write back a line whose error makes a sector of the image fail; what is stored there is then
discarded, and the header is not written. -/
theorem not_contextImages : ¬ Obligations.ContextImages := by
  intro h
  obtain ⟨-, hsave, -⟩ := h saveOp savingState imagePlace issues_savingState
  have hcap : w savingState saveOp.a = imageCap := by decide +kernel
  have hmapped : ∀ g < 0x2080, DirectOwn savingState (imagePlace + 16 * g) ∧ savingState.badAt (imagePlace + 16 * g) = 0 ∧
      ∃ e, pteM e = false ∧ Maps savingState (Cap.tenant (w savingState saveOp.a).val) (Cap.cursor (w savingState saveOp.a).val + 16 * g) (Cap.st ||| Cap.sc)
        (savingState.globalOf (imagePlace + 16 * g)) e := by
    intro g hg
    refine ⟨.inr (place_image (by omega)), rfl, imageLeaf, by decide, ?_⟩
    have hzero : Cap.cursor imageCap.val = 0 := by decide +kernel
    have htenant : Cap.tenant imageCap.val = 0 := by decide +kernel
    rw [hcap, hzero, htenant, Nat.zero_add]
    exact maps_image (by omega)
  obtain ⟨u, hu, -, -, -, hheader, -⟩ := hsave (by decide +kernel) ⟨by decide +kernel, by decide +kernel, hmapped⟩ (by
    unfold HasOps
    decide +kernel) (Sys2Proof.Tests.noPartials_of (by decide +kernel)) (by decide +kernel)
  obtain ⟨t, ht, hbyte⟩ := ctxs_savingState
  rw [hu] at ht
  have hut : u = t := by injection ht
  have hfirst : (u.bytesAt imagePlace 2).head? = some 0 := by
    rw [hut]
    exact congrArg some hbyte
  rw [hheader] at hfirst
  cases hfirst

end Sys2Proof.Claims
end
